-- ==== Sys2Proof/Word.lean ====
section
/-! DEFINITION. Word types of the Nevor Lanog and their plainest arithmetic (R1: little-endian, bit 0 least significant). -/

namespace Sys2Proof

/-- A 64-bit scalar (R169). -/
abbrev Word := BitVec 64
/-- A 32-bit quantity. -/
abbrev W32 := BitVec 32
/-- A halfword of an instruction stream (R126). -/
abbrev Half := BitVec 16
/-- One byte of storage. -/
abbrev Byte := BitVec 8
/-- A format tag: bit 4 is `SC`, bits 3 to 0 the format code (R64). -/
abbrev Tag := BitVec 5
/-- Dies d0 to d3 of the package (R6). -/
abbrev DieId := Fin 4
/-- Slots 0 to 7 of a die. -/
abbrev SlotId := Fin 8
/-- Cluster 0 holds slots 0 to 3, cluster 1 slots 4 to 7 (R7). -/
abbrev ClusterId := Fin 2

/-- The bits [hi:lo] of a natural number. -/
def nbits (n hi lo : Nat) : Nat := n / 2 ^ lo % 2 ^ (hi + 1 - lo)

/-- The field [lo + len - 1 : lo] of a 64-bit value as a number. -/
def fld (w : Word) (lo len : Nat) : Nat := (w.extractLsb' lo len).toNat

/-- Bit `i` of a 64-bit value. -/
def bitAt (w : Word) (i : Nat) : Bool := w.getLsbD i

end Sys2Proof
end

