-- ==== Sys2Proof/Machine/Formats.lean ====
section
/-! DEFINITION. Element formats and format tags (R59 to R64, R66, R221): widths, counts, classes and the pairs the array accepts (R78). -/

namespace Sys2Proof.Machine

/-- The format code of a tag, bits [3:0] (R64). -/
def fcode (t : Tag) : Nat := (t.extractLsb' 0 4).toNat
/-- The `SC` bit of a tag (R64). -/
def fscaled (t : Tag) : Bool := t.getLsbD 4

/-- Tags of the unscaled formats (R64). -/
abbrev tRAW : Tag := 0
abbrev tFP32 : Tag := 1
abbrev tBF16 : Tag := 2
abbrev tFP16 : Tag := 3
abbrev tE4M3 : Tag := 4
abbrev tE5M2 : Tag := 5
abbrev tE2M1 : Tag := 6
abbrev tI8 : Tag := 7
abbrev tI32 : Tag := 8
abbrev tCB2 : Tag := 9
abbrev tBIT : Tag := 10
abbrev tI16 : Tag := 11

/-- A format code with a scaled form (R64). -/
def fmayScale (c : Nat) : Bool := c == 2 || c == 3 || c == 4 || c == 5 || c == 6 || c == 7 || c == 9

/-- Not an illegal tag (R64). -/
def tagLegal (t : Tag) : Bool := fcode t < 12 && (!fscaled t || fmayScale (fcode t))

/-- The width of an element in bits (R63); CB2 counts a weight as 2 bits of index, RAW a byte. -/
def fwidth (t : Tag) : Nat :=
  match fcode t with
  | 1 | 8 => 32
  | 2 | 3 | 11 => 16
  | 4 | 5 | 7 | 0 => 8
  | 6 => 4
  | 9 => 2
  | _ => 1

/-- Elements in a 512-byte row (R63). -/
def fcount (t : Tag) : Nat := 4096 / fwidth t

/-- FP = FP32, BF16, FP16, unscaled (R221). -/
def fmtFP (t : Tag) : Bool := t == tFP32 || t == tBF16 || t == tFP16
/-- INT = I8, I16, I32, unscaled (R221). -/
def fmtINT (t : Tag) : Bool := t == tI8 || t == tI16 || t == tI32
/-- The E-formats of R237. -/
def fmtE (t : Tag) : Bool := t == tE4M3 || t == tE5M2 || t == tE2M1
/-- NUM (R221). -/
def fmtNUM (t : Tag) : Bool := fmtFP t || fmtINT t || fmtE t || t == tBIT
/-- MOVE: every format but CB2, unscaled (R221). -/
def fmtMOVE (t : Tag) : Bool := tagLegal t && !fscaled t && fcode t != 9
/-- W32 (R221). -/
def fmtW32 (t : Tag) : Bool := t == tFP32 || t == tI32
/-- W16 (R221). -/
def fmtW16 (t : Tag) : Bool := t == tBF16 || t == tFP16 || t == tI16
/-- W8 (R221). -/
def fmtW8 (t : Tag) : Bool := t == tE4M3 || t == tE5M2 || t == tI8
/-- The scaled output formats of `qnt` and `kreq` (R220, R286). -/
def fmtQ (t : Tag) : Bool := fscaled t && (fcode t == 4 || fcode t == 5 || fcode t == 6 || fcode t == 7)
/-- The formats between which a load converts (R207). -/
def fmtCvtLoad (t : Tag) : Bool := fmtNUM t

/-- A format the array takes on the activation side (R78). -/
def fmtAct (t : Tag) : Bool :=
  tagLegal t && (fcode t == 1 || fcode t == 2 || fcode t == 3 || fcode t == 4 || fcode t == 5 || fcode t == 6 || fcode t == 7 || fcode t == 10)
    && !(fscaled t && fcode t == 7)
/-- A format the array takes on the weight side (R78, R247). -/
def fmtWgt (t : Tag) : Bool := fmtAct t || fcode t == 9 && tagLegal t

/-- The operand pairs of R78: weight format, activation format. -/
def pairOk (w a : Tag) : Bool :=
  fmtWgt w && fmtAct a &&
  match fcode w, fcode a with
  | 1, 1 | 2, 2 | 3, 3 | 6, 6 | 7, 7 | 10, 10 => true
  | 4, 4 | 4, 5 | 5, 4 | 5, 5 => true
  | 9, 4 | 9, 6 => true
  | _, _ => false

/-! ## Stochastic rounding (R73) -/

def stepRng (x : W32) : W32 :=
  let x := if x = 0 then 1 else x
  let x := x ^^^ (x <<< 13)
  let x := x ^^^ (x >>> 17)
  x ^^^ (x <<< 5)

def srBits (seed : W32) (rw el : Nat) : W32 :=
  stepRng (stepRng (seed ^^^ (BitVec.ofNat 32 rw <<< 20) ^^^ BitVec.ofNat 32 (el * 0x9E3779B9)))

end Sys2Proof.Machine
end

