-- ==== Sys2Proof/Syntax.lean ====
section
/-! DEFINITION. The syntax of the part: operand layouts (R140, R144), and `Instr`, one constructor per row of spec/opcode_table.json: the instructions of the seven streams and the machine's events. Event rows carry the agents they name and what the surroundings decide. -/

namespace Sys2Proof

/-! ## Operand layouts of the control stream (R140). `na` is the `NA` field of R127. -/

/-- Layout `RRR` with both sources. -/
structure RRR where
  d : BitVec 5
  ba : Bool
  a : BitVec 5
  bb : Bool
  b : BitVec 5
  na : BitVec 2
  deriving DecidableEq, Repr

/-- `RRR` with one source: unary operations and semaphore words (D names the semaphore). -/
structure RR where
  d : BitVec 5
  ba : Bool
  a : BitVec 5
  na : BitVec 2
  deriving DecidableEq, Repr

/-- `RRR` with source A only. -/
structure RA where
  ba : Bool
  a : BitVec 5
  na : BitVec 2
  deriving DecidableEq, Repr

/-- `RRR` with sources A and B and no destination. -/
structure RAB where
  ba : Bool
  a : BitVec 5
  bb : Bool
  b : BitVec 5
  na : BitVec 2
  deriving DecidableEq, Repr

/-- `RRR` with a destination only. -/
structure RD where
  d : BitVec 5
  na : BitVec 2
  deriving DecidableEq, Repr

/-- A word with no operand but `NA`. -/
structure RN where
  na : BitVec 2
  deriving DecidableEq, Repr

/-- Layout `RI`. -/
structure RI where
  d : BitVec 5
  ba : Bool
  a : BitVec 5
  imm : BitVec 11
  na : BitVec 2
  deriving DecidableEq, Repr

/-- Shift by a constant (R172): `IMM11` read as operation and amount. -/
structure RSh where
  d : BitVec 5
  ba : Bool
  a : BitVec 5
  sh : BitVec 6
  na : BitVec 2
  deriving DecidableEq, Repr

/-- Layout `RU`. -/
structure RU where
  d : BitVec 5
  imm : BitVec 17
  na : BitVec 2
  deriving DecidableEq, Repr

/-- Layout `ST`. -/
structure RSt where
  bv : Bool
  v : BitVec 5
  ba : Bool
  a : BitVec 5
  imm : BitVec 10
  na : BitVec 2
  deriving DecidableEq, Repr

/-- Layout `PR` (cmp): the condition stands in `MIN`. -/
structure RCmp where
  pd : BitVec 3
  ba : Bool
  a : BitVec 5
  bb : Bool
  b : BitVec 5
  cc : BitVec 5
  na : BitVec 2
  deriving DecidableEq, Repr

/-- Layout `PI` (cmpi). -/
structure RCmpi where
  pd : BitVec 3
  cnd : BitVec 3
  ba : Bool
  a : BitVec 5
  imm : BitVec 10
  na : BitVec 2
  deriving DecidableEq, Repr

/-- Layout `PL`. -/
structure RPl where
  pd : BitVec 3
  pa : BitVec 3
  pb : BitVec 3
  na : BitVec 2
  deriving DecidableEq, Repr

/-- Layout `PL` with one source (pnot). -/
structure RPn where
  pd : BitVec 3
  pa : BitVec 3
  na : BitVec 2
  deriving DecidableEq, Repr

/-- `csel`: `MIN` split into predicate and sense. -/
structure RSel where
  d : BitVec 5
  ba : Bool
  a : BitVec 5
  bb : Bool
  b : BitVec 5
  p : BitVec 3
  neg : Bool
  na : BitVec 2
  deriving DecidableEq, Repr

/-- Atomics: `MIN` split into width, ordering and scope (R140, R183). -/
structure RAmo where
  d : BitVec 5
  ba : Bool
  a : BitVec 5
  bb : Bool
  b : BitVec 5
  w64 : Bool
  ord : BitVec 2
  scope : BitVec 2
  na : BitVec 2
  deriving DecidableEq, Repr

/-- Fences: the scope of `MIN`[14:12]. -/
structure RFence where
  scope : BitVec 3
  na : BitVec 2
  deriving DecidableEq, Repr

/-- Layout `EQ` (R140, R185). -/
structure REnq where
  wait : BitVec 8
  sig : BitVec 8
  a : BitVec 5
  ba : Bool
  na : BitVec 2
  deriving DecidableEq, Repr

/-- `pop`: destination and queue. -/
structure RPop where
  d : BitVec 5
  q : BitVec 2
  na : BitVec 2
  deriving DecidableEq, Repr

/-- `pop.nb`: destination, predicate and queue. -/
structure RPopNb where
  d : BitVec 5
  p : BitVec 3
  q : BitVec 2
  na : BitVec 2
  deriving DecidableEq, Repr

/-- `arv` and `wtb`: the scope of `MIN`[11:10]. -/
structure RScope where
  scope : BitVec 2
  na : BitVec 2
  deriving DecidableEq, Repr

/-- `csrr`. -/
structure RCsrr where
  d : BitVec 5
  csr : BitVec 10
  na : BitVec 2
  deriving DecidableEq, Repr

/-- `csrw`. -/
structure RCsrw where
  ba : Bool
  a : BitVec 5
  csr : BitVec 10
  na : BitVec 2
  deriving DecidableEq, Repr

/-- Compact word with a 6-bit immediate (R128). -/
structure CI where
  d : BitVec 5
  imm : BitVec 6
  deriving DecidableEq, Repr

/-- Compact word with a source register (R128). -/
structure CR where
  d : BitVec 5
  a : BitVec 5
  deriving DecidableEq, Repr

/-- Plain block header (R129). -/
structure Hdr where
  len : BitVec 10
  rep : BitVec 10
  nex : BitVec 2
  deriving DecidableEq, Repr

/-- Switch-point header (R129). -/
structure HdrSw where
  len : BitVec 10
  swid : BitVec 6
  deriving DecidableEq, Repr

/-- Relative exit word (R136). -/
structure ExRel where
  off : BitVec 19
  p : BitVec 3
  neg : Bool
  deriving DecidableEq, Repr

/-- Register exit word (R136). -/
structure ExReg where
  reg : BitVec 5
  p : BitVec 3
  neg : Bool
  deriving DecidableEq, Repr

/-! ## Operand layouts of the engine streams (R143, R144) -/

/-- A row prefix (R128, R143). -/
structure Pfx where
  first : BitVec 6
  cntm1 : BitVec 6
  slot : BitVec 2
  deriving DecidableEq, Repr

/-- A modifier prefix (R128). -/
structure Modf where
  rnd : BitVec 3
  sat : Bool
  raw : Bool
  bc : Bool
  oc : BitVec 5
  min3 : BitVec 3
  deriving DecidableEq, Repr

/-- An engine instruction: row prefixes, at most one modifier prefix, and the main word (R143, R144). -/
structure EOp where
  pfx : List Pfx
  mod : Option Modf
  f1 : BitVec 5
  b2 : Bool
  f2 : BitVec 5
  b3 : Bool
  f3 : BitVec 5
  fmt : BitVec 5
  na : BitVec 2
  deriving DecidableEq, Repr

/-- A copy or collective main word: three parameter fields and `FMT` (R144, R267, R286). -/
structure COp where
  f1 : BitVec 5
  f2 : BitVec 5
  f3 : BitVec 5
  fmt : BitVec 5
  na : BitVec 2
  deriving DecidableEq, Repr

/-! ## Agents and what events carry -/

/-- The seven instruction streams (R157). -/
inductive Stream where
  | ctl | lde | are | ste | mxe | cpe | coe
  deriving DecidableEq, Repr

/-- The four engines of a slot. -/
inductive SlotEng where
  | lde | are | ste | mxe
  deriving DecidableEq, Repr

/-- The agents of a die that access memory (R105). -/
inductive Agent where
  | core (k : SlotId)
  | eng (k : SlotId) (e : SlotEng)
  | copy (c : ClusterId)
  | coll
  | sys (n : Fin 4)
  deriving DecidableEq, Repr

/-- The TLBs of a die (R90). -/
inductive TlbId where
  | slot (k : SlotId)
  | copy (c : ClusterId)
  | coll
  deriving DecidableEq, Repr

/-- What a read or write of storage meets (R392, R393), with the storage of R397 that holds it: decided by the surroundings. -/
inductive StoreErr where
  | ok
  | corrected (k : Fin 4)
  | cleanDropped (k : Fin 4)
  | uncorrectable (k : Fin 4)
  /-- an uncorrectable error in an LPDDR6 line that lies beneath a clean cached copy (R393): the scrub finds it -/
  | beneath
  deriving DecidableEq, Repr

/-- What a read of the array's SRAM meets (R386): the storage in error, decided by the surroundings. -/
inductive ArrErr where
  | ok
  | corrected
  | tileRow (t : Fin 16) (r : Fin 64)
  | accRow (r : Fin 128)
  | column (c : Fin 512)
  | table (t : Fin 2)
  /-- a row of a chain buffer, the oldest 0 -/
  | chainRow (i : Fin 64)
  deriving DecidableEq, Repr

/-- A boot image as fetched: its bytes by physical address, its entry address, its signature (R355). -/
structure BootImg where
  bytes : List (Nat × Byte)
  entry : Word
  sig : List Byte
  deriving DecidableEq, Repr

/-- Who sends a message over the fabric: package, die, agent (R281, R402). -/
structure FabSrc where
  pkg : BitVec 12
  die : DieId
  ag : Agent
  deriving DecidableEq, Repr

/-- A message of the Nevor fabric transport that a die receives from an agent of another package (R281); the marker is the resend marker of R402. -/
inductive FabMsg where
  | write (src : FabSrc) (idx gen off : Nat) (data : List Byte)
  | sem (src : FabSrc) (slot : SlotId) (sem : Fin 32)
  | arrive (src : FabSrc) (grp : BitVec 12) (aslot : Fin 64)
  | marker (src : FabSrc)
  deriving DecidableEq, Repr

/-- The answer of a fabric destination to one request (R281): package of the destination, the agent that sent the request, its key, and 0 for an acknowledgement or the cause of a refusal (R402); 23 is a bus error there (R85). -/
structure FabAns where
  pkg : BitVec 12
  ag : Agent
  key : Nat
  cause : Nat
  deriving DecidableEq, Repr

/-- One 128-byte multicast line on arrival (R281, R283). -/
structure McLine where
  src : FabSrc
  grp : BitVec 12
  off : Nat
  data : List Byte
  last : Bool
  se : Bool
  sslot : SlotId
  sem : Fin 32
  /-- its sender's number of the entry: lines of one entry carry one number (R272) -/
  id : Nat
  deriving DecidableEq, Repr

/-- One constructor per row of spec/opcode_table.json. -/
inductive Instr where
  /-- BLOCK_HEADER (R129) -/
  | blockHeader (h : Hdr)
  /-- SWITCH_POINT_HEADER (R135) -/
  | switchPointHeader (h : HdrSw)
  /-- RELATIVE_EXIT (R136) -/
  | relativeExit (x : ExRel)
  /-- JUMP_EXIT (R137) -/
  | jumpExit (x : ExReg)
  /-- CALL_EXIT (R138) -/
  | callExit (x : ExReg)
  /-- RETURN_EXIT (R138) -/
  | returnExit (x : ExReg)
  /-- NOP (R128) -/
  | nop
  /-- C_ADDI (R128) -/
  | cAddi (o : CI)
  /-- C_LI (R128) -/
  | cLi (o : CI)
  /-- C_MV (R128) -/
  | cMv (o : CR)
  /-- C_ADD (R128) -/
  | cAdd (o : CR)
  /-- C_SUB (R128) -/
  | cSub (o : CR)
  /-- C_AND (R128) -/
  | cAnd (o : CR)
  /-- C_OR (R128) -/
  | cOr (o : CR)
  /-- C_XOR (R128) -/
  | cXor (o : CR)
  /-- ADD (R171) -/
  | add (o : RRR)
  /-- SUB (R171) -/
  | sub (o : RRR)
  /-- AND (R171) -/
  | and (o : RRR)
  /-- OR (R171) -/
  | or (o : RRR)
  /-- XOR (R171) -/
  | xor (o : RRR)
  /-- SLL (R171) -/
  | sll (o : RRR)
  /-- SRL (R171) -/
  | srl (o : RRR)
  /-- SRA (R171) -/
  | sra (o : RRR)
  /-- ROR (R171) -/
  | ror (o : RRR)
  /-- MIN (R171) -/
  | min (o : RRR)
  /-- MAX (R171) -/
  | max (o : RRR)
  /-- MINU (R171) -/
  | minu (o : RRR)
  /-- MAXU (R171) -/
  | maxu (o : RRR)
  /-- CLZ (R171) -/
  | clz (o : RR)
  /-- CTZ (R171) -/
  | ctz (o : RR)
  /-- POPC (R171) -/
  | popc (o : RR)
  /-- SEXTW (R171) -/
  | sextw (o : RR)
  /-- ZEXTW (R171) -/
  | zextw (o : RR)
  /-- MUL (R175) -/
  | mul (o : RRR)
  /-- MULH (R175) -/
  | mulh (o : RRR)
  /-- MULHU (R175) -/
  | mulhu (o : RRR)
  /-- MULHSU (R175) -/
  | mulhsu (o : RRR)
  /-- DIV (R175) -/
  | div (o : RRR)
  /-- DIVU (R175) -/
  | divu (o : RRR)
  /-- REM (R175) -/
  | rem (o : RRR)
  /-- REMU (R175) -/
  | remu (o : RRR)
  /-- ADDI (R173) -/
  | addi (o : RI)
  /-- ANDI (R173) -/
  | andi (o : RI)
  /-- ORI (R173) -/
  | ori (o : RI)
  /-- XORI (R173) -/
  | xori (o : RI)
  /-- SLLI (R172) -/
  | slli (o : RSh)
  /-- SRLI (R172) -/
  | srli (o : RSh)
  /-- SRAI (R172) -/
  | srai (o : RSh)
  /-- RORI (R172) -/
  | rori (o : RSh)
  /-- LUI (R174) -/
  | lui (o : RU)
  /-- ADDPC (R174) -/
  | addpc (o : RU)
  /-- CMP (R176) -/
  | cmp (o : RCmp)
  /-- CMPI (R176) -/
  | cmpi (o : RCmpi)
  /-- PAND (R177) -/
  | pand (o : RPl)
  /-- POR (R177) -/
  | por (o : RPl)
  /-- PXOR (R177) -/
  | pxor (o : RPl)
  /-- PANDN (R177) -/
  | pandn (o : RPl)
  /-- PORN (R177) -/
  | porn (o : RPl)
  /-- PNOT (R177) -/
  | pnot (o : RPn)
  /-- CSEL (R178) -/
  | csel (o : RSel)
  /-- LDB (R179) -/
  | ldb (o : RI)
  /-- LDH (R179) -/
  | ldh (o : RI)
  /-- LDW (R179) -/
  | ldw (o : RI)
  /-- LDD (R179) -/
  | ldd (o : RI)
  /-- LDBU (R179) -/
  | ldbu (o : RI)
  /-- LDHU (R179) -/
  | ldhu (o : RI)
  /-- LDWU (R179) -/
  | ldwu (o : RI)
  /-- STB (R180) -/
  | stb (o : RSt)
  /-- STH (R180) -/
  | sth (o : RSt)
  /-- STW (R180) -/
  | stw (o : RSt)
  /-- STD (R180) -/
  | std (o : RSt)
  /-- AMOADD (R182) -/
  | amoadd (o : RAmo)
  /-- AMOAND (R182) -/
  | amoand (o : RAmo)
  /-- AMOOR (R182) -/
  | amoor (o : RAmo)
  /-- AMOXOR (R182) -/
  | amoxor (o : RAmo)
  /-- AMOMIN (R182) -/
  | amomin (o : RAmo)
  /-- AMOMAX (R182) -/
  | amomax (o : RAmo)
  /-- AMOSWAP (R182) -/
  | amoswap (o : RAmo)
  /-- AMOCAS (R182) -/
  | amocas (o : RAmo)
  /-- FENCE_ACQ (R118) -/
  | fenceAcq (o : RFence)
  /-- FENCE_REL (R118) -/
  | fenceRel (o : RFence)
  /-- FENCE_FULL (R118) -/
  | fenceFull (o : RFence)
  /-- ENQ_LDE (R185) -/
  | enqLde (o : REnq)
  /-- ENQ_ARE (R185) -/
  | enqAre (o : REnq)
  /-- ENQ_STE (R185) -/
  | enqSte (o : REnq)
  /-- ENQ_MXE (R185) -/
  | enqMxe (o : REnq)
  /-- ENQ_CPE (R185) -/
  | enqCpe (o : REnq)
  /-- ENQ_COE (R185) -/
  | enqCoe (o : REnq)
  /-- TSIG (R188) -/
  | tsig (o : RA)
  /-- TWAIT (R188) -/
  | twait (o : RA)
  /-- SEMSET (R189) -/
  | semset (o : RR)
  /-- SEMADD (R189) -/
  | semadd (o : RR)
  /-- SEMWAIT (R189) -/
  | semwait (o : RR)
  /-- SEMWAIT_SUSP (R189) -/
  | semwaitSusp (o : RR)
  /-- POP (R190) -/
  | pop (o : RPop)
  /-- POP_NB (R190) -/
  | popNb (o : RPopNb)
  /-- MLEASE (R191) -/
  | mlease (o : RN)
  /-- MRLSE (R191) -/
  | mrlse (o : RN)
  /-- SPLIT (R192) -/
  | split (o : RA)
  /-- FUSE (R192) -/
  | fuse (o : RA)
  /-- CHAIN (R192) -/
  | chain (o : RAB)
  /-- UNCHAIN (R192) -/
  | unchain (o : RA)
  /-- ARV (R194) -/
  | arv (o : RScope)
  /-- WTB (R194) -/
  | wtb (o : RScope)
  /-- PUBLQ (R196) -/
  | publq (o : RR)
  /-- HINT (R196) -/
  | hint (o : RA)
  /-- WPV (R196) -/
  | wpv (o : RA)
  /-- WPV_SUSP (R196) -/
  | wpvSusp (o : RA)
  /-- SUSP (R196) -/
  | susp (o : RN)
  /-- CSRR (R201) -/
  | csrr (o : RCsrr)
  /-- CSRW (R201) -/
  | csrw (o : RCsrw)
  /-- SYSC (R203) -/
  | sysc (o : RAB)
  /-- TRAP (R202) -/
  | trap (o : RA)
  /-- ERET (R202) -/
  | eret (o : RN)
  /-- FREEH (R199) -/
  | freeh (o : RAB)
  /-- TICK (R200) -/
  | tick (o : RD)
  /-- RFENCE (R198) -/
  | rfence (o : RN)
  /-- LDR (R212) -/
  | ldr (o : EOp)
  /-- LDT (R212) -/
  | ldt (o : EOp)
  /-- LDREC (R214) -/
  | ldrec (o : EOp)
  /-- LDX (R213) -/
  | ldx (o : EOp)
  /-- LDSC (R212) -/
  | ldsc (o : EOp)
  /-- PCFG (R215) -/
  | pcfg (o : EOp)
  /-- PFX (R217) -/
  | pfx (o : EOp)
  /-- LDV (R216) -/
  | ldv (o : EOp)
  /-- STR (R212) -/
  | str (o : EOp)
  /-- STT (R212) -/
  | stt (o : EOp)
  /-- STREC (R214) -/
  | strec (o : EOp)
  /-- STX (R213) -/
  | stx (o : EOp)
  /-- STSC (R212) -/
  | stsc (o : EOp)
  /-- STV (R216) -/
  | stv (o : EOp)
  /-- PUBL (R218) -/
  | publ (o : EOp)
  /-- ARE_ADD (R226) -/
  | areAdd (o : EOp)
  /-- ARE_SUB (R226) -/
  | areSub (o : EOp)
  /-- ARE_MUL (R226) -/
  | areMul (o : EOp)
  /-- FMA (R226) -/
  | fma (o : EOp)
  /-- ARE_MIN (R227) -/
  | areMin (o : EOp)
  /-- ARE_MAX (R227) -/
  | areMax (o : EOp)
  /-- ABS (R227) -/
  | abs (o : EOp)
  /-- NEG (R227) -/
  | neg (o : EOp)
  /-- EXP2 (R228) -/
  | exp2 (o : EOp)
  /-- LOG2 (R228) -/
  | log2 (o : EOp)
  /-- RCP (R228) -/
  | rcp (o : EOp)
  /-- RSQ (R228) -/
  | rsq (o : EOp)
  /-- TANH (R228) -/
  | tanh (o : EOp)
  /-- ARE_CMP (R229) -/
  | areCmp (o : EOp)
  /-- SEL (R230) -/
  | sel (o : EOp)
  /-- RED_SUM (R231) -/
  | redSum (o : EOp)
  /-- RED_MAX (R231) -/
  | redMax (o : EOp)
  /-- RED_MIN (R231) -/
  | redMin (o : EOp)
  /-- RED_SSQ (R231) -/
  | redSsq (o : EOp)
  /-- RED_AMAX (R231) -/
  | redAmax (o : EOp)
  /-- REDQ_SUM (R231) -/
  | redqSum (o : EOp)
  /-- REDQ_MAX (R231) -/
  | redqMax (o : EOp)
  /-- REDQ_MIN (R231) -/
  | redqMin (o : EOp)
  /-- REDQ_SSQ (R231) -/
  | redqSsq (o : EOp)
  /-- REDQ_AMAX (R231) -/
  | redqAmax (o : EOp)
  /-- BCAST_ROW (R232) -/
  | bcastRow (o : EOp)
  /-- BCAST_ELEM (R232) -/
  | bcastElem (o : EOp)
  /-- BCAST_SCAL (R232) -/
  | bcastScal (o : EOp)
  /-- IOTA (R233) -/
  | iota (o : EOp)
  /-- TRN (R234) -/
  | trn (o : EOp)
  /-- SHUF_PERM (R235) -/
  | shufPerm (o : EOp)
  /-- SHUF_ROT (R235) -/
  | shufRot (o : EOp)
  /-- SHUF_REV (R235) -/
  | shufRev (o : EOp)
  /-- CVT (R237) -/
  | cvt (o : EOp)
  /-- QNT (R238) -/
  | qnt (o : EOp)
  /-- DQT (R239) -/
  | dqt (o : EOp)
  /-- ARE_AND (R240) -/
  | areAnd (o : EOp)
  /-- ARE_OR (R240) -/
  | areOr (o : EOp)
  /-- ARE_XOR (R240) -/
  | areXor (o : EOp)
  /-- NOT (R240) -/
  | not (o : EOp)
  /-- SHL (R241) -/
  | shl (o : EOp)
  /-- SHR (R241) -/
  | shr (o : EOp)
  /-- ARE_SRA (R241) -/
  | areSra (o : EOp)
  /-- MOV (R242) -/
  | mov (o : EOp)
  /-- MLDB (R252) -/
  | mldb (o : EOp)
  /-- MCB (R253) -/
  | mcb (o : EOp)
  /-- MSEMI (R254) -/
  | msemi (o : EOp)
  /-- MMUL (R257) -/
  | mmul (o : EOp)
  /-- MMULM (R258) -/
  | mmulm (o : EOp)
  /-- MZERO (R259) -/
  | mzero (o : EOp)
  /-- MDRAIN (R260) -/
  | mdrain (o : EOp)
  /-- COPY (R270) -/
  | copy (o : COp)
  /-- COPY2D (R270) -/
  | copy2d (o : COp)
  /-- FILL (R270) -/
  | fill (o : COp)
  /-- RWRITE (R271) -/
  | rwrite (o : COp)
  /-- MCAST (R272) -/
  | mcast (o : COp)
  /-- KSEND (R292) -/
  | ksend (o : COp)
  /-- KRECV (R293) -/
  | krecv (o : COp)
  /-- KWID (R295) -/
  | kwid (o : COp)
  /-- KADD (R295) -/
  | kadd (o : COp)
  /-- KREQ (R295) -/
  | kreq (o : COp)
  /-- KREL (R296) -/
  | krel (o : COp)
  /-- KBAR (R297) -/
  | kbar (o : COp)
  /-- KABS (R297) -/
  | kabs (o : COp)
  /-- KFRAME (R288) -/
  | kframe (o : COp)
  /-- BLOCK_COMMIT (R133) -/
  | blockCommit (d : DieId) (k : SlotId)
  /-- RUN_AHEAD_MISPREDICT (R33) -/
  | runAheadMispredict (d : DieId) (k : SlotId)
  /-- BLOCK_WAIT_MET (R195) -/
  | blockWaitMet (d : DieId) (k : SlotId)
  /-- READ_STEP (R108) -/
  | readStep (d : DieId) (a : Agent) (e : StoreErr)
  /-- DRAIN_STEP (R109) -/
  | drainStep (d : DieId) (a : Agent) (e : StoreErr)
  /-- HELD_WRITE_APPLY (R103) -/
  | heldWriteApply (d : DieId) (i : Nat)
  /-- LINK_FORWARD (R12) -/
  | linkForward (l : DieId) (east : Bool)
  /-- GATE_WRITE_APPLY (R111) -/
  | gateWriteApply (h : DieId) (d : DieId) (e : StoreErr)
  /-- GATE_READ_PERFORM (R111) -/
  | gateReadPerform (h : DieId) (d : DieId) (e : StoreErr)
  /-- GATE_BEAT (R111) -/
  | gateBeat (h : DieId) (d : DieId)
  /-- BEAT (R113) -/
  | beat (d : DieId) (h : DieId)
  /-- REPLY (R112) -/
  | reply (d : DieId) (h : DieId)
  /-- PUBLISH_INVALIDATION (R121) -/
  | publishInvalidation (h : DieId) (d : DieId)
  /-- REQUEST_RESEND (R123) -/
  | requestResend (d : DieId) (h : DieId)
  /-- TICKET_CALL (R123) -/
  | ticketCall (h : DieId)
  /-- FABRIC_WRITE_APPLY (R124) -/
  | fabricWriteApply (d : DieId) (m : FabMsg)
  /-- PUBLISH_STEP (R120) -/
  | publishStep (d : DieId) (k : SlotId)
  /-- PAGE_WALK (R89) -/
  | pageWalk (d : DieId) (t : TlbId) (va : Word) (wr : Bool) (cached : Bool)
  /-- ENTRY_START (R186) -/
  | entryStart (d : DieId) (a : Agent)
  /-- ENTRY_COMPLETE (R186) -/
  | entryComplete (d : DieId) (a : Agent)
  /-- ROW_ARRIVAL (R209) -/
  | rowArrival (d : DieId) (k : SlotId)
  /-- STORE_ROW_READ (R210) -/
  | storeRowRead (d : DieId) (k : SlotId)
  /-- ARE_ROW_STEP (R223) -/
  | areRowStep (d : DieId) (k : SlotId) (e : ArrErr)
  /-- PORT_ROW_FETCH (R102) -/
  | portRowFetch (d : DieId) (k : SlotId) (w : Fin 8) (e : SlotEng)
  /-- MATRIX_PASS (R257) -/
  | matrixPass (d : DieId) (k : SlotId) (j : SlotId) (e : ArrErr)
  /-- CHAIN_ROW_SEND (R51) -/
  | chainRowSend (d : DieId) (k : SlotId)
  /-- DRAIN_EVENT (R46) -/
  | drainEvent (d : DieId) (k : SlotId)
  /-- COPY_CHUNK (R270) -/
  | copyChunk (d : DieId) (c : ClusterId) (e : StoreErr)
  /-- SWITCH_REPLICATE (R283) -/
  | switchReplicate (d : DieId)
  /-- MCAST_LINE_ARRIVAL (R283) -/
  | mcastLineArrival (d : DieId) (m : McLine)
  /-- AGGREGATED_ACK (R284) -/
  | aggregatedAck (d : DieId) (c : ClusterId) (acc : Nat) (ref : List Nat)
  /-- MCAST_MEMBER_TIMEOUT (R414) -/
  | mcastMemberTimeout (d : DieId) (c : ClusterId) (m : Nat)
  /-- ARRIVAL_RECORD (R194) -/
  | arrivalRecord (d : DieId) (k : SlotId) (sc : BitVec 2)
  /-- POP_FILL (R190) -/
  | popFill (d : DieId) (k : SlotId) (q : BitVec 2)
  /-- SYSC_POST (R359) -/
  | syscPost (d : DieId) (k : SlotId)
  /-- FRAME_ENTRY (R289) -/
  | frameEntry (d : DieId) (x : Fin 8)
  /-- STEP_START (R289) -/
  | stepStart (d : DieId) (x : Fin 8)
  /-- STEP_COMPLETE (R289) -/
  | stepComplete (d : DieId) (x : Fin 8)
  /-- SLIP_NOTICE (R290) -/
  | slipNotice (d : DieId) (grp : BitVec 12) (delay : Nat)
  /-- FRAME_QUERY (R292) -/
  | frameQuery (d : DieId) (grp : BitVec 12) (n : Nat) (id : Nat) (pkg : BitVec 12) (src : DieId)
  /-- FRAME_GRANT (R292) -/
  | frameGrant (d : DieId) (id : Nat)
  /-- BARRIER_ARRIVAL (R297) -/
  | barrierArrival (d : DieId) (grp : BitVec 12) (m : Nat) (gen : W32)
  /-- BARRIER_ABSENCE (R297) -/
  | barrierAbsence (d : DieId) (grp : BitVec 12) (m : Nat)
  /-- BARRIER_PRESENCE (R297) -/
  | barrierPresence (d : DieId) (grp : BitVec 12) (m : Nat)
  /-- BARRIER_TIMEOUT (R410) -/
  | barrierTimeout (d : DieId) (x : Fin 9)
  /-- KICK_PASS (R306) -/
  | kickPass (d : DieId)
  /-- FRAGMENT_LEASE_GRANT (R316) -/
  | fragmentLeaseGrant (d : DieId)
  /-- PICK_UP (R25) -/
  | pickUp (d : DieId) (k : SlotId)
  /-- FRAGMENT_GIVE_UP (R28) -/
  | fragmentGiveUp (d : DieId) (b : Nat)
  /-- BLOCK_RETIRE (R38) -/
  | blockRetire (d : DieId) (b : Nat)
  /-- SLICE_END (R319) -/
  | sliceEnd (d : DieId) (t : Nat)
  /-- CLASS0_PREEMPT (R323) -/
  | class0Preempt (d : DieId)
  /-- ENGINE_STOP_ACK (R321) -/
  | engineStopAck (d : DieId) (a : Agent)
  /-- PREEMPTION_COMPLETE (R321) -/
  | preemptionComplete (d : DieId) (t : Nat) (k : SlotId) (e : ArrErr)
  /-- SWAP_IN (R322) -/
  | swapIn (d : DieId)
  /-- BALANCE_CONTROL (R54) -/
  | balanceControl (d : DieId) (b : Fin 4)
  /-- BIMB_WINDOW_END (R56) -/
  | bimbWindowEnd (d : DieId) (b : Fin 4)
  /-- TIMING_REPLAY (R372) -/
  | timingReplay (d : DieId) (b : Fin 4) (fails : Nat)
  /-- FAULT_POST (R366) -/
  | faultPost (d : DieId)
  /-- TERMINAL_FAULT_STOP (R367) -/
  | terminalFaultStop (d : DieId) (b : Nat)
  /-- FLTRESP_CONT (R368) -/
  | fltrespCont (d : DieId) (i : Byte)
  /-- FLTRESP_SAVE (R368) -/
  | fltrespSave (d : DieId) (i : Byte)
  /-- FLTRESP_KILL (R368) -/
  | fltrespKill (d : DieId) (i : Byte)
  /-- SCRUB (R396) -/
  | scrub (d : DieId) (line : Nat) (e : StoreErr)
  /-- PIN_HOLD_TIMEOUT (R408) -/
  | pinHoldTimeout (d : DieId) (i : Nat)
  /-- LINK_LOST_NOTICE (R404) -/
  | linkLostNotice (h : DieId)
  /-- LINK_RETRAIN_FAIL (R404) -/
  | linkRetrainFail (l : DieId)
  /-- REJOIN_BEAT (R407) -/
  | rejoinBeat (e : DieId) (h : DieId)
  /-- NFT_PORT_FAILOVER (R412) -/
  | nftPortFailover (d : DieId) (pkg : BitVec 12) (die : DieId)
  /-- NFT_UNREACHABLE (R412) -/
  | nftUnreachable (d : DieId) (pkg : BitVec 12) (die : DieId)
  /-- SCHEDULER_CORE_FAILURE (R415) -/
  | schedulerCoreFailure (d : DieId)
  /-- ADOPTION (R417) -/
  | adoption (d : DieId)
  /-- PAIR_TIMEOUT (R421) -/
  | pairTimeout (d : DieId)
  /-- GRANT_WINDOW_END (R333) -/
  | grantWindowEnd (d : DieId) (watts : Nat) (hottest : Nat)
  /-- MARGIN_WINDOW_END (R338) -/
  | marginWindowEnd (d : DieId) (b : Fin 4)
  /-- REFRESH_RATE_CHANGE (R339) -/
  | refreshRateChange (d : DieId) (bank : Fin 64) (temp : Nat)
  /-- ASHAPE_CLEAR_BEN (R330) -/
  | ashapeClearBen (d : DieId) (b : Fin 4)
  /-- ASHAPE_SET_BEN (R330) -/
  | ashapeSetBen (d : DieId) (b : Fin 4)
  /-- BAND_POWER_OFF (R330) -/
  | bandPowerOff (d : DieId) (b : Fin 4)
  /-- BAND_POWER_ON (R330) -/
  | bandPowerOn (d : DieId) (b : Fin 4)
  /-- KICKSET (R305) -/
  | kickset (d : DieId) (i : Byte)
  /-- TLBINV_ALL (R92) -/
  | tlbinvAll (d : DieId)
  /-- TLBINV_ASID (R92) -/
  | tlbinvAsid (d : DieId) (asid : Half)
  /-- TLBINV_VPN (R92) -/
  | tlbinvVpn (d : DieId) (asid : Half) (vpn : BitVec 36)
  /-- TLBINV_DONE (R92) -/
  | tlbinvDone (d : DieId)
  /-- PROOF_ENTRY_WRITE (R312) -/
  | proofEntryWrite (d : DieId) (q : BitVec 12) (v : W32)
  /-- SYSCDONE (R359) -/
  | syscdone (d : DieId) (i : Byte)
  /-- RESYNC (R360) -/
  | resync (d : DieId) (v : Word)
  /-- CONTACT_SHEET_DONE (R360) -/
  | contactSheetDone (d : DieId)
  /-- TICKADJ (R357) -/
  | tickadj (d : DieId) (v : Word)
  /-- XCAT (R344) -/
  | xcat (d : DieId) (pid : Byte) (cat : BitVec 3)
  /-- TRCBASE_ENABLE (R343) -/
  | trcbaseEnable (d : DieId) (v : Word)
  /-- MARG_RECAL (R337) -/
  | margRecal (d : DieId) (b : Fin 4)
  /-- PEERST_REJOIN (R407) -/
  | peerstRejoin (d : DieId) (mask : BitVec 4)
  /-- REGISTER_WRITE (R3) -/
  | registerWrite (d : DieId) (off : Nat) (v : Word)
  /-- BREAKPOINT_TICK (R349) -/
  | breakpointTick (d : DieId) (n : Fin 4)
  /-- TAP_RESET (R352) -/
  | tapReset
  /-- TAP_EXTEST (R352) -/
  | tapExtest (d : DieId)
  /-- TAP_IDCODE (R352) -/
  | tapIdcode (d : DieId)
  /-- TAP_SAMPLE_PRELOAD (R352) -/
  | tapSamplePreload (d : DieId)
  /-- TAP_MREG (R352) -/
  | tapMreg (d : DieId) (dr : BitVec 82)
  /-- TAP_RELEASE (R352) -/
  | tapRelease (d : DieId)
  /-- TAP_SCANSEL (R352) -/
  | tapScansel (d : DieId) (sel : Byte)
  /-- TAP_SCAN (R352) -/
  | tapScan (d : DieId)
  /-- TAP_BYPASS (R352) -/
  | tapBypass (d : DieId) (tdi : Bool)
  /-- PACKAGE_RESET_RELEASE (R355) -/
  | packageResetRelease
  /-- BOOT_IMAGE_CHECK (R355) -/
  | bootImageCheck (d : DieId) (good : Bool) (image : List (Nat × Byte))
  /-- BOOT_RETRY (R355) -/
  | bootRetry (d : DieId)
  /-- REFERENCE_TICK (R341) -/
  | referenceTick
  /-- WRITE_ACKNOWLEDGEMENT (R110) -/
  | writeAcknowledgement (d : DieId) (h : DieId) (fab : Option FabAns)
  /-- DIE_RESET_RELEASE (R8) -/
  | dieResetRelease (d : DieId)
  /-- PACKAGE_LINK_TRAINED (R407) -/
  | packageLinkTrained (l : DieId)
  /-- NFT_STREAM_RESTART (R412) -/
  | nftStreamRestart (d : DieId) (pkg : BitVec 12) (die : DieId)
  /-- FABRIC_PORT_LINK_UP (R413) -/
  | fabricPortLinkUp (d : DieId) (f : Fin 3)
  /-- DRAM_REFRESH (R339) -/
  | dramRefresh (d : DieId) (row : Nat)
  deriving DecidableEq, Repr, Inhabited

/-! ## What moves next -/

/-- One step of the machine, named: who moves and what the surroundings decide (R106: any step whose conditions hold may be taken next). The agenda of the state is a list of these. Log entry 2. -/
inductive Pick where
  /-- The boot ROM obtains its address (R355). -/
  | bootAddress (d : DieId)
  /-- The boot ROM has fetched an image (R355). -/
  | bootFetch (d : DieId) (img : BootImg)
  /-- The store engine reads its next row as STORE_ROW_READ has it, and its SRAM gives an error (R386). -/
  | storeRowError (d : DieId) (k : SlotId) (e : ArrErr)
  /-- The fabric takes the die's oldest response (R280, R281). -/
  | fabricResponse (d : DieId)
  /-- One period of the test clock: the level of TMS and TDI at it, and whether TRST_N is held low (R352). -/
  | tck (tms tdi trst : Bool)
  /-- The driver releases a team that a breakpoint keeps out (R349). -/
  | releaseTeam (d : DieId) (lid t : Nat)
  /-- The control core of a slot fetches and executes the next word of its strand's block (R125, R132, R136). -/
  | core (d : DieId) (k : SlotId)
  /-- A slot engine or copy engine executes the next word, or the next unit of its word (R134). -/
  | eng (d : DieId) (a : Agent)
  /-- The collective engine's timetable context executes the next word of its step block, or context 8, its direct entry (R285, R289). -/
  | ctx (d : DieId) (x : Fin 9)
  /-- A machine event of the opcode table. -/
  | event (i : Instr)
  /-- A system core places a store of bytes at a physical address in its store buffer (R107). -/
  | sysStore (d : DieId) (n : Fin 4) (pa : Nat) (data : List Byte)
  /-- A system core takes a load (R107, R108). -/
  | sysLoad (d : DieId) (n : Fin 4) (pa len : Nat)
  /-- A system core executes a fence instruction: `fence.full.d` (R107). -/
  | sysFence (d : DieId) (n : Fin 4)
  /-- An instruction fetch of a strand or engine keeps the line it reads, so that it may see the old state of it (R125). -/
  | keepLine (d : DieId) (t : TlbId) (ln : Nat)
  /-- A kept line is no longer used (R125). -/
  | dropLine (d : DieId) (t : TlbId) (ln : Nat)
  /-- The control core pushes a tentative entry by run-ahead, and its engine translates addresses that it names (R32). -/
  | tentative (d : DieId) (k : SlotId) (q : Fin 6) (hdr : Word) (vas : List Nat)
  /-- A read or merging write whose own step takes no storage error (an instruction fetch, a walk, a port's row, a publish, a held or fabric write) meets one in a line; the step itself follows (R393, R394). -/
  | storageError (d : DieId) (line : Nat) (e : StoreErr)
  /-- A clean cached copy of a line of die memory is dropped (R393). -/
  | dropCopy (d : DieId) (line : Nat)
  /-- An engine executes its next word, and the index row that the start of a `ldx`, `stx` or `shuf` reads meets an SRAM error (R386). -/
  | startError (d : DieId) (k : SlotId) (e : SlotEng) (x : ArrErr)
  /-- The transport has every message of a stream acknowledged (R280, R412). -/
  | streamAck (d : DieId) (pkg : BitVec 12) (die : DieId)
  /-- A save of the collector meets an SRAM error in a slot it reads (R386). -/
  | saveError (d : DieId) (k : SlotId) (x : ArrErr)
  deriving DecidableEq, Repr, Inhabited

end Sys2Proof
end

