-- ==== Sys2Proof/Machine/FieldRules.lean ====
section
/-! DEFINITION. The field rules that the check of R134 applies to a word before an entry runs: operand codes, prefixes, modifier fields and formats (R142 to R144, R204, R205, R211, R220, R222, R234 to R238, R247, R248, R267, R286). -/

namespace Sys2Proof.Machine

/-! ## Reading an engine word -/

/-- The modifier prefix in force; a missing one means all defaults (R143). -/
def eMod (o : EOp) : Modf := o.mod.getD ⟨0, false, false, false, 0, 0⟩
/-- The row prefix of a slot (R143). -/
def ePfx (o : EOp) (s : BitVec 2) : Option Pfx := o.pfx.find? fun p => p.slot == s
/-- First row of the operand of a slot; 0 without a prefix (R143). -/
def eFirst (o : EOp) (s : BitVec 2) : Nat := match ePfx o s with | some p => p.first.toNat | none => 0
/-- Count of the prefix of a slot, or 64 without one (R143). -/
def eCount (o : EOp) (s : BitVec 2) : Nat := match ePfx o s with | some p => p.cntm1.toNat + 1 | none => 64

/-- Operand codes of R142. -/
def isTile (c : BitVec 5) : Bool := c.toNat < 16
def isPort (c : BitVec 5) : Bool := 16 ≤ c.toNat && c.toNat < 24
abbrev opACC : BitVec 5 := 24
abbrev opCH : BitVec 5 := 25
abbrev opRQ : BitVec 5 := 26

/-- What an operand field of a word may hold. -/
inductive Role where
  | zero | par | tile | port | tilePort | acc | rq | tileRq | tileAcc | tilePortCh | drain
  deriving DecidableEq, Repr

/-- The operand codes a role accepts (R142: any other code is illegal). -/
def Role.accepts : Role → BitVec 5 → Bool
  | .zero, c => c == 0
  | .par, c => c.toNat < 8
  | .tile, c => isTile c
  | .port, c => isPort c
  | .tilePort, c => isTile c || isPort c
  | .acc, c => c == opACC
  | .rq, c => c == opRQ
  | .tileRq, c => isTile c || c == opRQ
  | .tileAcc, c => isTile c || c == opACC
  | .tilePortCh, c => isTile c || isPort c || c == opCH
  | .drain, c => isTile c || isPort c || c == opCH || c == opRQ

/-- A source field whose B bit may be 1: a tile, port or `ch` source (R204, R220, R247). -/
def Role.mayTrap (r : Role) (c : BitVec 5) : Bool :=
  match r with
  | .tile | .tilePort | .tileRq | .tileAcc | .tilePortCh | .port => c != opACC && c != opRQ
  | _ => false

/-- Does the role read a tile register for this code? -/
def Role.isTileOp (r : Role) (c : BitVec 5) : Bool :=
  match r with
  | .zero | .par | .port | .acc | .rq => false
  | _ => isTile c

/-- How a source's row prefix must relate to the row count n. -/
inductive CntRule where
  | same        -- CNTM1 + 1 = n, or no prefix
  | one         -- a prefix with CNTM1 = 0
  | oneOrNone   -- CNTM1 = 0, or no prefix
  | two         -- a prefix with CNTM1 = 1
  | free        -- checked by a rule of its own
  | noPfx       -- no prefix
  deriving DecidableEq, Repr

def CntRule.ok (r : CntRule) (n : Nat) : Option Pfx → Bool
  | none => match r with | .one | .two => false | _ => true
  | some p => p.first.toNat + p.cntm1.toNat + 1 ≤ 64 &&
    match r with
    | .same => p.cntm1.toNat + 1 == n
    | .one | .oneOrNone => p.cntm1 == 0
    | .two => p.cntm1 == 1
    | .free => true
    | .noPfx => false

/-- Rule for `RND` and `SAT`. -/
inductive RndRule where
  | zero     -- both 0
  | any      -- any legal code
  | fpInt    -- FP: any; INT: `RND` 0
  | satInt   -- FP: 0, 0; INT: `RND` 0
  deriving DecidableEq, Repr

def RndRule.ok (r : RndRule) (fmt : Tag) (m : Modf) : Bool :=
  match r with
  | .zero => m.rnd == 0 && !m.sat
  | .any => m.rnd.toNat < 5
  | .fpInt => if fmtINT fmt then m.rnd == 0 else m.rnd.toNat < 5
  | .satInt => m.rnd == 0 && (fmtINT fmt || !m.sat)

/-- One line of the tables R204, R220 and R247. -/
structure Shape where
  r1 : Role := .zero
  r2 : Role := .zero
  r3 : Role := .zero
  c1 : CntRule := .same
  c2 : CntRule := .same
  c3 : CntRule := .same
  coc : CntRule := .noPfx
  fmt : Tag → Bool := fun t => t == 0
  min3 : Nat → Bool := fun m => m == 0
  oc : Tag → Bool := fun t => t == 0
  rnd : RndRule := .zero
  raw : Bool := false
  bc : Bool := false
  cntSlot : BitVec 2 := 0   -- the slot whose prefix gives n

/-- The row count n of an engine word (R143, R205, R222, R248). -/
def eRows (cntSlot : BitVec 2) (o : EOp) : Nat := eCount o cntSlot

/-- Prefixes stand in strictly ascending slot order (R143). -/
def slotsAscend : List Pfx → Bool
  | [] => true
  | [_] => true
  | p :: q :: r => decide (p.slot.toNat < q.slot.toNat) && slotsAscend (q :: r)

/-- The prefix of a non-tile destination carries a count with `FIRST` = 0 (R143). -/
def dstPfxOk (tileOp : Bool) : Option Pfx → Bool
  | none => true
  | some p => tileOp || p.first == 0

/-- A prefix on a source names a tile register (R143), or the `acc` of `str` with `FIRST` = 0 (R211). -/
def srcPfxOk (tileOp : Bool) (accOp : Bool) : Option Pfx → Bool
  | none => true
  | some p => tileOp || (accOp && p.first == 0)

/-- A modifier prefix with every field at its default would be the halfword 0x0002, which is `nop` and never a prefix (R128). -/
def modSeen (m : Option Modf) : Bool := m != some ⟨0, false, false, false, 0, 0⟩

/-- Every field rule of one shape. -/
def Shape.ok (h : Shape) (o : EOp) : Bool :=
  let m := eMod o
  let n := eRows h.cntSlot o
  let bcast := h.bc && m.bc
  slotsAscend o.pfx && modSeen o.mod &&
  h.r1.accepts o.f1 && h.r2.accepts o.f2 && h.r3.accepts o.f3 &&
  (!o.b2 || h.r2.mayTrap o.f2) && (!o.b3 || h.r3.mayTrap o.f3) &&
  dstPfxOk (h.r1.isTileOp o.f1) (ePfx o 0) && h.c1.ok n (ePfx o 0) &&
  srcPfxOk (h.r2.isTileOp o.f2) (h.r2 == .tileAcc) (ePfx o 1) && h.c2.ok n (ePfx o 1) &&
  srcPfxOk (h.r3.isTileOp o.f3) false (ePfx o 2) && (if bcast then CntRule.oneOrNone else h.c3).ok n (ePfx o 2) &&
  h.coc.ok n (ePfx o 3) &&
  tagLegal o.fmt && h.fmt o.fmt && h.min3 m.min3.toNat && h.oc m.oc && m.rnd.toNat < 5 && h.rnd.ok o.fmt m &&
  (!m.raw || h.raw) && (!m.bc || h.bc) && o.na != 3

/-! ## Loads and stores (R204, R205, R207, R211) -/

/-- Conversion fields of `ldr` and `ldx` (R207): `OC` = 0, or a different convertible format. -/
def loadCvtOk (o : EOp) : Bool :=
  let m := eMod o
  if m.oc == 0 then m.rnd == 0 && !m.sat
  else fmtCvtLoad m.oc && fmtCvtLoad o.fmt && m.oc != o.fmt && m.rnd.toNat < 5

def shLdr : Shape := { r1 := .tileRq, r2 := .par, r3 := .par, fmt := tagLegal, oc := fun _ => true, rnd := .any }
def shLdt : Shape := { r1 := .tile, r2 := .par, fmt := tagLegal }
def shLdrec : Shape := { r1 := .tile, r2 := .par, r3 := .par, fmt := tagLegal, raw := true }
def shLdx : Shape := { r1 := .tile, r2 := .par, r3 := .tile, c3 := .one, fmt := tagLegal, oc := fun _ => true, rnd := .any }
def shLdsc : Shape := { r1 := .tile, r2 := .par, r3 := .par }
def shPcfg : Shape := { r1 := .port, r2 := .par, c1 := .noPfx }
def shPfx : Shape := { r2 := .par, r3 := .par }
def shLdv : Shape := { r1 := .port, r2 := .par, r3 := .par, fmt := tagLegal }
def shStr : Shape := { r1 := .par, r2 := .tileAcc, r3 := .par, c1 := .noPfx, fmt := tagLegal, raw := true, cntSlot := 1 }
def shStt : Shape := { r1 := .par, r2 := .tile, c1 := .noPfx, fmt := tagLegal, raw := true, cntSlot := 1 }
def shStrec : Shape := { r1 := .par, r2 := .tile, r3 := .par, c1 := .noPfx, fmt := tagLegal, raw := true, cntSlot := 1 }
def shStx : Shape := { r1 := .par, r2 := .tile, r3 := .tile, c1 := .noPfx, c3 := .one, fmt := tagLegal, raw := true, cntSlot := 1 }
def shStsc : Shape := { r1 := .par, r2 := .tile, r3 := .par, c1 := .noPfx, cntSlot := 1 }
def shStv : Shape := { r1 := .port, r2 := .tile, c1 := .noPfx, fmt := tagLegal, raw := true, cntSlot := 1 }
def shPubl : Shape := { r2 := .par, c1 := .noPfx, c2 := .noPfx }

/-- `ldr` to `rq` has `FMT` 0 and no conversion (R212). -/
def okLdr (o : EOp) : Bool := shLdr.ok o && loadCvtOk o && (o.f1 != opRQ || o.fmt == 0 && (eMod o).oc == 0)
def okLdx (o : EOp) : Bool := shLdx.ok o && loadCvtOk o
/-- `str` from `acc` has `FMT` FP32 or I32 (R211). -/
def okStr (o : EOp) : Bool := shStr.ok o && (o.f2 != opACC || o.fmt == tFP32 || o.fmt == tI32)

/-! ## Arithmetic engine (R220) -/

def fFPINT (t : Tag) : Bool := fmtFP t || fmtINT t
def fBitw (t : Tag) : Bool := fmtINT t || t == tBIT || t == tRAW

def shBin : Shape := { r1 := .tilePort, r2 := .tilePort, r3 := .tilePort, fmt := fFPINT, rnd := .fpInt, raw := true, bc := true }
def shFma : Shape := { r1 := .tilePort, r2 := .tilePort, r3 := .tilePort, fmt := fmtFP, oc := fun t => t.toNat < 16, coc := .same, rnd := .any, raw := true, bc := true }
def shMinMax : Shape := { shBin with rnd := .zero }
def shUnary : Shape := { r1 := .tilePort, r2 := .tilePort, fmt := fFPINT, rnd := .satInt, raw := true }
def shElem : Shape := { r1 := .tilePort, r2 := .tilePort, fmt := fmtFP, rnd := .any, raw := true }
def shCmp : Shape := { shBin with rnd := .zero, min3 := fun m => m ≤ 6 }
def shSel : Shape := { r1 := .tilePort, r2 := .tilePort, r3 := .tilePort, fmt := fmtMOVE, oc := fun t => t.toNat < 16, coc := .same, raw := true, bc := true }
def shRed (op : Nat) : Shape := { r1 := .tile, r2 := .tilePort, c1 := .one, fmt := fFPINT, min3 := fun m => m == op, rnd := .fpInt, raw := true, cntSlot := 1 }
def shRedq (op : Nat) : Shape := { r1 := .rq, r2 := .tilePort, c1 := .noPfx, fmt := fFPINT, min3 := fun m => m == op, rnd := .fpInt, raw := true, cntSlot := 1 }
def shBcastRow : Shape := { r1 := .tilePort, r2 := .tilePort, c2 := .one, fmt := fmtMOVE, min3 := fun m => m == 0, raw := true }
def shBcastElem : Shape := { r1 := .tilePort, r2 := .tilePort, r3 := .par, fmt := fmtMOVE, min3 := fun m => m == 1, raw := true }
def shBcastScal : Shape := { r1 := .tilePort, r3 := .par, fmt := fmtMOVE, min3 := fun m => m == 2 }
def shIota : Shape := { r1 := .tilePort, r2 := .par, r3 := .par, fmt := fFPINT, rnd := .fpInt }
def shTrn : Shape := { r1 := .tile, r2 := .tile, fmt := fun t => fmtW32 t || fmtW16 t || fmtW8 t, raw := true }
def shShufPerm : Shape := { r1 := .tilePort, r2 := .tilePort, r3 := .tile, c3 := .one, fmt := fun t => fmtW32 t || fmtW16 t, min3 := fun m => m == 0, raw := true }
def shShufRot : Shape := { r1 := .tilePort, r2 := .tilePort, r3 := .par, fmt := fmtMOVE, min3 := fun m => m == 1, raw := true }
def shShufRev : Shape := { r1 := .tilePort, r2 := .tilePort, fmt := fmtMOVE, min3 := fun m => m == 2, raw := true }
def shCvt : Shape := { r1 := .tilePort, r2 := .tilePort, c2 := .free, fmt := fmtNUM, oc := fun t => t == 0 || fmtNUM t, rnd := .any, raw := true }
def shQnt : Shape := { r1 := .tilePort, r2 := .tilePort, c2 := .free, fmt := fmtQ, oc := fun t => t == 0 || fmtFP t, raw := true }
def shDqt : Shape := { r1 := .tilePort, r2 := .tilePort, c2 := .free, fmt := fmtFP, oc := fun t => t == 0 || fmtQ t, rnd := .any, raw := true }
def shBitw : Shape := { r1 := .tilePort, r2 := .tilePort, r3 := .tilePort, fmt := fBitw, raw := true, bc := true }
def shNot : Shape := { r1 := .tilePort, r2 := .tilePort, fmt := fBitw, raw := true }
def shShiftT : Shape := { r1 := .tilePort, r2 := .tilePort, r3 := .tilePort, fmt := fmtINT, min3 := fun m => m == 0, raw := true, bc := true }
def shShiftP : Shape := { r1 := .tilePort, r2 := .tilePort, r3 := .par, fmt := fmtINT, min3 := fun m => m == 1, raw := true }
def shMov : Shape := { r1 := .tilePort, r2 := .tilePort, fmt := tagLegal, raw := true }

/-- `bcast` row form needs its single source row named by a prefix, unless it is a port (R232). -/
def okBcastRow (o : EOp) : Bool := ({ shBcastRow with c2 := if isTile o.f2 then .one else .noPfx } : Shape).ok o
/-- A shift takes its amount from a tile (`MIN3` 0) or a parameter (`MIN3` 1) (R241). -/
def okShift (o : EOp) : Bool := if (eMod o).min3 == 1 then shShiftP.ok o else shShiftT.ok o
/-- Condition 6 is illegal with an INT format (R229). -/
def okCmp (o : EOp) : Bool := shCmp.ok o && !((eMod o).min3 == 6 && fmtINT o.fmt)
/-- `ssq` is illegal with an INT format (R231). -/
def okRed (op : Nat) (o : EOp) : Bool := (shRed op).ok o && !(op == 3 && fmtINT o.fmt)
def okRedq (op : Nat) (o : EOp) : Bool := (shRedq op).ok o && !(op == 3 && fmtINT o.fmt)

/-- Do two row ranges overlap? -/
def rangesMeet (f n g m : Nat) : Bool := decide (f < g + m) && decide (g < f + n)

/-- `trn`: n is 32 or 64; ranges in one register are equal or apart (R234). -/
def okTrn (o : EOp) : Bool :=
  let n := eCount o 0
  shTrn.ok o && (n == 32 || n == 64) &&
  (o.f1 != o.f2 || eFirst o 0 == eFirst o 1 || !rangesMeet (eFirst o 0) n (eFirst o 1) n)

/-- Source rows that n destination rows draw on (R236). -/
def flatRows (n : Nat) (dst src : Tag) : Nat := (n * fcount dst + fcount src - 1) / fcount src

/-- Count and overlap rule of R236 for a known source format. -/
def flatOk (o : EOp) (src : Tag) : Bool :=
  let n := eCount o 0
  let m := flatRows n o.fmt src
  let g := eFirst o 1
  (isPort o.f2 || (decide (g + m ≤ 64) &&
    (match ePfx o 1 with | some p => p.cntm1.toNat + 1 == m | none => true))) &&
  !(isTile o.f2 && o.f1 == o.f2 && fcount o.fmt != fcount src && rangesMeet (eFirst o 0) n g m)

/-- With `OC` ≠ 0 count and overlap are checked before the entry (R236). -/
def okFlat (h : Shape) (o : EOp) : Bool := h.ok o && ((eMod o).oc == 0 || flatOk o (eMod o).oc)
/-- `cvt` with equal formats is illegal (R237). -/
def okCvt (o : EOp) : Bool := okFlat shCvt o && (eMod o).oc != o.fmt

/-! ## Matrix engine (R247, R248) -/

def shMldb : Shape := { r1 := .par, r2 := .tilePort, fmt := fmtWgt, raw := true }
def shMcb : Shape := { r2 := .tile, c1 := .noPfx, c2 := .two }
def shMsemi : Shape := { c1 := .noPfx, min3 := fun m => m ≤ 4 }
def shMmul : Shape := { r1 := .acc, r2 := .tilePortCh, r3 := .par, fmt := fmtAct, raw := true }
def shMmulm : Shape := { shMmul with min3 := fun m => m == 1, oc := fun t => t.toNat < 8 }
def shMzero : Shape := { r1 := .acc, r3 := .par, c1 := .noPfx }
def shMdrain : Shape := { r1 := .drain, r2 := .acc, r3 := .par, fmt := tagLegal, min3 := fun m => m ≤ 3, oc := fun t => t == 0 || t == 8 || t == 10, rnd := .any, raw := true }

/-- Output formats of `mdrain` by accumulator format and destination (R247). -/
def okMdrain (o : EOp) : Bool :=
  let m := eMod o
  let wide := fmtFP o.fmt || fmtE o.fmt || fmtINT o.fmt || fmtQ o.fmt
  shMdrain.ok o &&
  (if m.oc == 10 then (o.fmt == tBIT || o.fmt == tI32) && m.min3 == 0 else wide) &&
  !(fscaled o.fmt && (o.f1 == opCH || o.f1 == opRQ)) &&
  !(o.f1 == opRQ && o.fmt != tFP32 && o.fmt != tI32) &&
  !(fscaled o.fmt && (m.rnd != 0 || m.sat))

/-! ## Copy and collective words (R267, R286) -/

/-- A parameter field names e0 to e7 (R142). -/
def parOk (f : BitVec 5) : Bool := f.toNat < 8

/-- Three parameter fields, `FMT` 0 (R267, R286). -/
def okC3 (o : COp) : Bool := parOk o.f1 && parOk o.f2 && parOk o.f3 && o.fmt == 0 && o.na != 3
/-- `copy2d` and `mcast` also read e[F3 + 1], so F3 = 7 is illegal (R267). -/
def okC3x (o : COp) : Bool := okC3 o && o.f3 != 7
/-- One parameter field (R286). -/
def okC1 (o : COp) : Bool := parOk o.f1 && o.f2 == 0 && o.f3 == 0 && o.fmt == 0 && o.na != 3
/-- Two parameter fields (R286). -/
def okC2 (o : COp) : Bool := parOk o.f1 && parOk o.f2 && o.f3 == 0 && o.fmt == 0 && o.na != 3
/-- No field (R286). -/
def okC0 (o : COp) : Bool := o.f1 == 0 && o.f2 == 0 && o.f3 == 0 && o.fmt == 0 && o.na != 3
/-- A vector word: three parameter fields and a format (R286). -/
def okCv (fmt : Tag → Bool) (o : COp) : Bool := parOk o.f1 && parOk o.f2 && parOk o.f3 && tagLegal o.fmt && fmt o.fmt && o.na != 3
def fmtKw (t : Tag) : Bool := t == tFP32 || t == tBF16

/-- The CSR numbers, less 0x800, that a CSR holds (R8, R26, R29, R44, R52, R56, R57, R75, R139, R191, R201, R291, R334, R346, R382). -/
def csrExists (n : BitVec 10) : Bool :=
  let c := n.toNat
  c == 0x01 || (0x10 ≤ c && c ≤ 0x12) || c == 0x20 || c == 0x21 || c == 0x30 || c == 0x31 || (0x38 ≤ c && c ≤ 0x3B) ||
  (0x40 ≤ c && c ≤ 0x47) || c == 0x50 || (0x60 ≤ c && c ≤ 0x62) || (0x70 ≤ c && c ≤ 0x73) || c == 0x80 || c == 0x81 ||
  c == 0x90 || (0xA0 ≤ c && c ≤ 0xDF) || c == 0xE0

end Sys2Proof.Machine
end

