-- ==== Sys2Proof/WellFormed.lean ====
section
/-! DEFINITION. Which terms of `Instr` are instructions of the part: every field at a value its description lists (R127, R128, R140 to R144, R149, R182 to R203, and the field rules of the engine streams). Event rows are well formed when what they carry has the size the spec gives it. -/

namespace Sys2Proof

open Sys2Proof.Machine

/-- A fabric write carries at most one 4 KiB chunk (R281). -/
def fabMsgOk : FabMsg → Bool
  | .write _ _ _ _ data => decide (data.length ≤ 4096)
  | .sem _ _ _ => true
  | .arrive _ _ _ => true
  | .marker _ => true

/-- Well-formedness, constructor by constructor. -/
def Instr.wf : Instr → Bool
  | .blockHeader h => h.len != 0
  | .switchPointHeader h => h.len != 0
  | .relativeExit _ => true
  | .jumpExit _ => true
  | .callExit _ => true
  | .returnExit _ => true
  | .nop => true
  | .cAddi o => o.d != 0
  | .cLi o => o.d != 0
  | .cMv o => o.d != 0
  | .cAdd o => o.d != 0
  | .cSub o => o.d != 0
  | .cAnd o => o.d != 0
  | .cOr o => o.d != 0
  | .cXor o => o.d != 0
  | .add o => o.na != 3
  | .sub o => o.na != 3
  | .and o => o.na != 3
  | .or o => o.na != 3
  | .xor o => o.na != 3
  | .sll o => o.na != 3
  | .srl o => o.na != 3
  | .sra o => o.na != 3
  | .ror o => o.na != 3
  | .min o => o.na != 3
  | .max o => o.na != 3
  | .minu o => o.na != 3
  | .maxu o => o.na != 3
  | .clz o => o.na != 3
  | .ctz o => o.na != 3
  | .popc o => o.na != 3
  | .sextw o => o.na != 3
  | .zextw o => o.na != 3
  | .mul o => o.na != 3
  | .mulh o => o.na != 3
  | .mulhu o => o.na != 3
  | .mulhsu o => o.na != 3
  | .div o => o.na != 3
  | .divu o => o.na != 3
  | .rem o => o.na != 3
  | .remu o => o.na != 3
  | .addi o => o.na != 3
  | .andi o => o.na != 3
  | .ori o => o.na != 3
  | .xori o => o.na != 3
  | .slli o => o.na != 3
  | .srli o => o.na != 3
  | .srai o => o.na != 3
  | .rori o => o.na != 3
  | .lui o => o.na != 3
  | .addpc o => o.na != 3
  | .cmp o => o.na != 3 && o.pd != 0 && decide (o.cc.toNat ≤ 5)
  | .cmpi o => o.na != 3 && o.pd != 0 && decide (o.cnd.toNat ≤ 5)
  | .pand o => o.na != 3 && o.pd != 0
  | .por o => o.na != 3 && o.pd != 0
  | .pxor o => o.na != 3 && o.pd != 0
  | .pandn o => o.na != 3 && o.pd != 0
  | .porn o => o.na != 3 && o.pd != 0
  | .pnot o => o.na != 3 && o.pd != 0
  | .csel o => o.na != 3
  | .ldb o => o.na != 3
  | .ldh o => o.na != 3
  | .ldw o => o.na != 3
  | .ldd o => o.na != 3
  | .ldbu o => o.na != 3
  | .ldhu o => o.na != 3
  | .ldwu o => o.na != 3
  | .stb o => o.na != 3
  | .sth o => o.na != 3
  | .stw o => o.na != 3
  | .std o => o.na != 3
  | .amoadd o => o.na != 3 && (o.ord != 0 || o.scope == 0)
  | .amoand o => o.na != 3 && (o.ord != 0 || o.scope == 0)
  | .amoor o => o.na != 3 && (o.ord != 0 || o.scope == 0)
  | .amoxor o => o.na != 3 && (o.ord != 0 || o.scope == 0)
  | .amomin o => o.na != 3 && (o.ord != 0 || o.scope == 0)
  | .amomax o => o.na != 3 && (o.ord != 0 || o.scope == 0)
  | .amoswap o => o.na != 3 && (o.ord != 0 || o.scope == 0)
  | .amocas o => o.na != 3 && (o.ord != 0 || o.scope == 0)
  | .fenceAcq o => o.na != 3 && decide (o.scope.toNat ≤ 4)
  | .fenceRel o => o.na != 3 && decide (o.scope.toNat ≤ 4)
  | .fenceFull o => o.na != 3 && decide (o.scope.toNat ≤ 4)
  | .enqLde o => o.na != 3
  | .enqAre o => o.na != 3
  | .enqSte o => o.na != 3
  | .enqMxe o => o.na != 3
  | .enqCpe o => o.na != 3
  | .enqCoe o => o.na != 3
  | .tsig o => o.na != 3
  | .twait o => o.na != 3
  | .semset o => o.na != 3
  | .semadd o => o.na != 3
  | .semwait o => o.na != 3
  | .semwaitSusp o => o.na != 3
  | .pop o => o.na != 3
  | .popNb o => o.na != 3 && o.p != 0
  | .mlease o => o.na != 3
  | .mrlse o => o.na != 3
  | .split o => o.na != 3
  | .fuse o => o.na != 3
  | .chain o => o.na != 3
  | .unchain o => o.na != 3
  | .arv o => o.na != 3 && o.scope != 3
  | .wtb o => o.na != 3 && o.scope != 3
  | .publq o => o.na != 3
  | .hint o => o.na != 3
  | .wpv o => o.na != 3
  | .wpvSusp o => o.na != 3
  | .susp o => o.na != 3
  | .csrr o => o.na != 3 && csrExists o.csr
  | .csrw o => o.na != 3 && csrExists o.csr
  | .sysc o => o.na != 3
  | .trap o => o.na != 3
  | .eret o => o.na != 3
  | .freeh o => o.na != 3
  | .tick o => o.na != 3
  | .rfence o => o.na != 3
  | .ldr o => okLdr o
  | .ldt o => shLdt.ok o
  | .ldrec o => shLdrec.ok o
  | .ldx o => okLdx o
  | .ldsc o => shLdsc.ok o
  | .pcfg o => shPcfg.ok o
  | .pfx o => shPfx.ok o
  | .ldv o => shLdv.ok o
  | .str o => okStr o
  | .stt o => shStt.ok o
  | .strec o => shStrec.ok o
  | .stx o => shStx.ok o
  | .stsc o => shStsc.ok o
  | .stv o => shStv.ok o
  | .publ o => shPubl.ok o
  | .areAdd o => shBin.ok o
  | .areSub o => shBin.ok o
  | .areMul o => shBin.ok o
  | .fma o => shFma.ok o
  | .areMin o => shMinMax.ok o
  | .areMax o => shMinMax.ok o
  | .abs o => shUnary.ok o
  | .neg o => shUnary.ok o
  | .exp2 o => shElem.ok o
  | .log2 o => shElem.ok o
  | .rcp o => shElem.ok o
  | .rsq o => shElem.ok o
  | .tanh o => shElem.ok o
  | .areCmp o => okCmp o
  | .sel o => shSel.ok o
  | .redSum o => okRed 0 o
  | .redMax o => okRed 1 o
  | .redMin o => okRed 2 o
  | .redSsq o => okRed 3 o
  | .redAmax o => okRed 4 o
  | .redqSum o => okRedq 0 o
  | .redqMax o => okRedq 1 o
  | .redqMin o => okRedq 2 o
  | .redqSsq o => okRedq 3 o
  | .redqAmax o => okRedq 4 o
  | .bcastRow o => okBcastRow o
  | .bcastElem o => shBcastElem.ok o
  | .bcastScal o => shBcastScal.ok o
  | .iota o => shIota.ok o
  | .trn o => okTrn o
  | .shufPerm o => shShufPerm.ok o
  | .shufRot o => shShufRot.ok o
  | .shufRev o => shShufRev.ok o
  | .cvt o => okCvt o
  | .qnt o => okFlat shQnt o
  | .dqt o => okFlat shDqt o
  | .areAnd o => shBitw.ok o
  | .areOr o => shBitw.ok o
  | .areXor o => shBitw.ok o
  | .not o => shNot.ok o
  | .shl o => okShift o
  | .shr o => okShift o
  | .areSra o => okShift o
  | .mov o => shMov.ok o
  | .mldb o => shMldb.ok o
  | .mcb o => shMcb.ok o
  | .msemi o => shMsemi.ok o
  | .mmul o => shMmul.ok o
  | .mmulm o => shMmulm.ok o
  | .mzero o => shMzero.ok o
  | .mdrain o => okMdrain o
  | .copy o => okC3 o
  | .copy2d o => okC3x o
  | .fill o => okC3 o
  | .rwrite o => okC3 o
  | .mcast o => okC3x o
  | .ksend o => okC3 o
  | .krecv o => okC1 o
  | .kwid o => okCv fmtKw o
  | .kadd o => okCv fmtKw o
  | .kreq o => okCv fmtQ o
  | .krel o => okC0 o
  | .kbar o => okC1 o
  | .kabs o => okC2 o
  | .kframe o => okC1 o
  | .blockCommit _ _ => true
  | .runAheadMispredict _ _ => true
  | .blockWaitMet _ _ => true
  | .readStep _ _ _ => true
  | .drainStep _ _ _ => true
  | .heldWriteApply _ _ => true
  | .linkForward _ _ => true
  | .gateWriteApply _ _ _ => true
  | .gateReadPerform _ _ _ => true
  | .gateBeat _ _ => true
  | .beat _ _ => true
  | .reply _ _ => true
  | .publishInvalidation _ _ => true
  | .requestResend _ _ => true
  | .ticketCall _ => true
  | .fabricWriteApply _ m => fabMsgOk m
  | .publishStep _ _ => true
  | .pageWalk _ _ _ _ _ => true
  | .entryStart _ _ => true
  | .entryComplete _ _ => true
  | .rowArrival _ _ => true
  | .storeRowRead _ _ => true
  | .areRowStep _ _ _ => true
  | .portRowFetch _ _ _ _ => true
  | .matrixPass _ _ _ _ => true
  | .chainRowSend _ _ => true
  | .drainEvent _ _ => true
  | .copyChunk _ _ _ => true
  | .switchReplicate _ => true
  | .mcastLineArrival _ m => decide (m.data.length = 128)
  | .aggregatedAck _ _ _ _ => true
  | .mcastMemberTimeout _ _ _ => true
  | .arrivalRecord _ _ _ => true
  | .popFill _ _ _ => true
  | .syscPost _ _ => true
  | .frameEntry _ _ => true
  | .stepStart _ _ => true
  | .stepComplete _ _ => true
  | .slipNotice _ _ _ => true
  | .frameQuery _ _ _ _ _ _ => true
  | .frameGrant _ _ => true
  | .barrierArrival _ _ _ _ => true
  | .barrierAbsence _ _ _ => true
  | .barrierPresence _ _ _ => true
  | .barrierTimeout _ _ => true
  | .kickPass _ => true
  | .fragmentLeaseGrant _ => true
  | .pickUp _ _ => true
  | .fragmentGiveUp _ _ => true
  | .blockRetire _ _ => true
  | .sliceEnd _ _ => true
  | .class0Preempt _ => true
  | .engineStopAck _ _ => true
  | .preemptionComplete _ _ _ _ => true
  | .swapIn _ => true
  | .balanceControl _ _ => true
  | .bimbWindowEnd _ _ => true
  | .timingReplay _ _ _ => true
  | .faultPost _ => true
  | .terminalFaultStop _ _ => true
  | .fltrespCont _ _ => true
  | .fltrespSave _ _ => true
  | .fltrespKill _ _ => true
  | .scrub _ _ _ => true
  | .pinHoldTimeout _ _ => true
  | .linkLostNotice _ => true
  | .linkRetrainFail _ => true
  | .rejoinBeat _ _ => true
  | .nftPortFailover _ _ _ => true
  | .nftUnreachable _ _ _ => true
  | .schedulerCoreFailure _ => true
  | .adoption _ => true
  | .pairTimeout _ => true
  | .grantWindowEnd _ _ _ => true
  | .marginWindowEnd _ _ => true
  | .refreshRateChange _ _ _ => true
  | .ashapeClearBen _ _ => true
  | .ashapeSetBen _ _ => true
  | .bandPowerOff _ _ => true
  | .bandPowerOn _ _ => true
  | .kickset _ _ => true
  | .tlbinvAll _ => true
  | .tlbinvAsid _ _ => true
  | .tlbinvVpn _ _ _ => true
  | .tlbinvDone _ => true
  | .proofEntryWrite _ _ _ => true
  | .syscdone _ _ => true
  | .resync _ _ => true
  | .contactSheetDone _ => true
  | .tickadj _ _ => true
  | .xcat _ _ _ => true
  | .trcbaseEnable _ _ => true
  | .margRecal _ _ => true
  | .peerstRejoin _ _ => true
  | .registerWrite _ _ _ => true
  | .breakpointTick _ _ => true
  | .tapReset => true
  | .tapExtest _ => true
  | .tapIdcode _ => true
  | .tapSamplePreload _ => true
  | .tapMreg _ _ => true
  | .tapRelease _ => true
  | .tapScansel _ _ => true
  | .tapScan _ => true
  | .tapBypass _ _ => true
  | .packageResetRelease => true
  | .bootImageCheck _ _ _ => true
  | .bootRetry _ => true
  | .referenceTick => true
  | .writeAcknowledgement _ _ _ => true
  | .dieResetRelease _ => true
  | .packageLinkTrained _ => true
  | .nftStreamRestart _ _ _ => true
  | .fabricPortLinkUp _ _ => true
  | .dramRefresh _ _ => true

end Sys2Proof
end

