-- ==== Sys2Proof/Decode.lean ====
section
/-! DEFINITION. Decoding and encoding of every stream (R126 to R148, R171 to R203). Decoding is total: it answers an instruction, or a rejection by name. The encoder is written from the same tables. -/

namespace Sys2Proof

open Sys2Proof.Machine

/-- Why a word is rejected. -/
inductive Reject where
  /-- the stream ends inside the instruction -/
  | truncated
  /-- `NA` = 0b11 (R127) -/
  | naReserved
  /-- a major the map of the stream does not name (R149) -/
  | major
  /-- an operation, condition, scope or operand code not listed, or a nonzero unused field (R149) -/
  | field
  /-- a 16-bit word that the stream does not have (R128) -/
  | compact
  /-- prefixes out of order, or not followed by a main word (R143) -/
  | pfx
  /-- a header or exit word in a body, or a body word as a header or exit (R130, R136) -/
  | framing
  deriving DecidableEq, Repr

/-! ## Fields of a 32-bit word -/

/-- `MAJOR` (R127). -/
def wMaj (w : W32) : Nat := (w.extractLsb' 4 6).toNat
/-- `NA` (R127). -/
def wNa (w : W32) : BitVec 2 := w.extractLsb' 2 2
/-- `MIN`, bits [14:10] (R140). -/
def wMin (w : W32) : BitVec 5 := w.extractLsb' 10 5
/-- A halfword begins a 32-bit word when its bits [1:0] are 0b11 (R126). -/
def isWide (h : Half) : Bool := h.extractLsb' 0 2 == 3#2

/-- A well-formed instruction, or rejection of its fields (R149). -/
def guardWf (i : Instr) : Except Reject Instr := if i.wf then .ok i else .error .field

/-! ## Reading the layouts (R140) -/

def getRRR (w : W32) : RRR := ⟨w.extractLsb' 27 5, w.getLsbD 26, w.extractLsb' 21 5, w.getLsbD 20, w.extractLsb' 15 5, wNa w⟩
def getRR (w : W32) : RR := ⟨w.extractLsb' 27 5, w.getLsbD 26, w.extractLsb' 21 5, wNa w⟩
def getRA (w : W32) : RA := ⟨w.getLsbD 26, w.extractLsb' 21 5, wNa w⟩
def getRAB (w : W32) : RAB := ⟨w.getLsbD 26, w.extractLsb' 21 5, w.getLsbD 20, w.extractLsb' 15 5, wNa w⟩
def getRI (w : W32) : RI := ⟨w.extractLsb' 27 5, w.getLsbD 26, w.extractLsb' 21 5, w.extractLsb' 10 11, wNa w⟩
def getRSh (w : W32) : RSh := ⟨w.extractLsb' 27 5, w.getLsbD 26, w.extractLsb' 21 5, w.extractLsb' 10 6, wNa w⟩
def getRU (w : W32) : RU := ⟨w.extractLsb' 27 5, w.extractLsb' 10 17, wNa w⟩
def getRSt (w : W32) : RSt := ⟨w.getLsbD 31, w.extractLsb' 26 5, w.getLsbD 25, w.extractLsb' 20 5, w.extractLsb' 10 10, wNa w⟩
def getRCmp (w : W32) : RCmp := ⟨w.extractLsb' 29 3, w.getLsbD 26, w.extractLsb' 21 5, w.getLsbD 20, w.extractLsb' 15 5, wMin w, wNa w⟩
def getRCmpi (w : W32) : RCmpi := ⟨w.extractLsb' 29 3, w.extractLsb' 26 3, w.getLsbD 25, w.extractLsb' 20 5, w.extractLsb' 10 10, wNa w⟩
def getRPl (w : W32) : RPl := ⟨w.extractLsb' 29 3, w.extractLsb' 26 3, w.extractLsb' 23 3, wNa w⟩
def getRSel (w : W32) : RSel := ⟨w.extractLsb' 27 5, w.getLsbD 26, w.extractLsb' 21 5, w.getLsbD 20, w.extractLsb' 15 5, w.extractLsb' 12 3, w.getLsbD 11, wNa w⟩
def getRAmo (w : W32) : RAmo := ⟨w.extractLsb' 27 5, w.getLsbD 26, w.extractLsb' 21 5, w.getLsbD 20, w.extractLsb' 15 5, w.getLsbD 14, w.extractLsb' 12 2, w.extractLsb' 10 2, wNa w⟩
def getREnq (w : W32) : REnq := ⟨w.extractLsb' 24 8, w.extractLsb' 16 8, w.extractLsb' 11 5, w.getLsbD 10, wNa w⟩

/-- Bits [hi:lo] of a word are zero: a field the instruction does not use (R149). -/
def zeroAt (w : W32) (lo len : Nat) : Bool := (w.extractLsb' lo len).toNat == 0

/-- Accept the instruction when its unused fields are zero and it is well formed. -/
def take (unused : Bool) (i : Instr) : Except Reject Instr := if unused then guardWf i else .error .field

/-! ## The control stream (R145) -/

/-- Major 0x01 by `MIN` (R171). -/
def decAlu (w : W32) : Except Reject Instr :=
  match (wMin w).toNat with
  | 0 => guardWf (.add (getRRR w)) | 1 => guardWf (.sub (getRRR w)) | 2 => guardWf (.and (getRRR w)) | 3 => guardWf (.or (getRRR w))
  | 4 => guardWf (.xor (getRRR w)) | 5 => guardWf (.sll (getRRR w)) | 6 => guardWf (.srl (getRRR w)) | 7 => guardWf (.sra (getRRR w))
  | 8 => guardWf (.ror (getRRR w)) | 9 => guardWf (.min (getRRR w)) | 10 => guardWf (.max (getRRR w)) | 11 => guardWf (.minu (getRRR w))
  | 12 => guardWf (.maxu (getRRR w))
  | 13 => take (zeroAt w 15 6) (.clz (getRR w)) | 14 => take (zeroAt w 15 6) (.ctz (getRR w)) | 15 => take (zeroAt w 15 6) (.popc (getRR w))
  | 16 => take (zeroAt w 15 6) (.sextw (getRR w)) | 17 => take (zeroAt w 15 6) (.zextw (getRR w))
  | _ => .error .field

/-- Major 0x02 by `MIN` (R175). -/
def decMul (w : W32) : Except Reject Instr :=
  match (wMin w).toNat with
  | 0 => guardWf (.mul (getRRR w)) | 1 => guardWf (.mulh (getRRR w)) | 2 => guardWf (.mulhu (getRRR w)) | 3 => guardWf (.mulhsu (getRRR w))
  | 4 => guardWf (.div (getRRR w)) | 5 => guardWf (.divu (getRRR w)) | 6 => guardWf (.rem (getRRR w)) | 7 => guardWf (.remu (getRRR w))
  | _ => .error .field

/-- Major 0x07: operation in `IMM11`[10:6] (R172). -/
def decShift (w : W32) : Except Reject Instr :=
  match (w.extractLsb' 16 5).toNat with
  | 0 => guardWf (.slli (getRSh w)) | 1 => guardWf (.srli (getRSh w)) | 2 => guardWf (.srai (getRSh w)) | 3 => guardWf (.rori (getRSh w))
  | _ => .error .field

/-- Major 0x0C by `MIN` (R177). -/
def decPred (w : W32) : Except Reject Instr :=
  match (wMin w).toNat with
  | 0 => take (zeroAt w 15 8) (.pand (getRPl w)) | 1 => take (zeroAt w 15 8) (.por (getRPl w)) | 2 => take (zeroAt w 15 8) (.pxor (getRPl w))
  | 3 => take (zeroAt w 15 8) (.pandn (getRPl w)) | 4 => take (zeroAt w 15 8) (.porn (getRPl w))
  | 5 => take (zeroAt w 15 11) (.pnot ⟨w.extractLsb' 29 3, w.extractLsb' 26 3, wNa w⟩)
  | _ => .error .field

/-- Major 0x28 by kind (R184). -/
def decFence (w : W32) : Except Reject Instr :=
  let o : RFence := ⟨w.extractLsb' 12 3, wNa w⟩
  match (w.extractLsb' 10 2).toNat with
  | 0 => take (zeroAt w 15 17) (.fenceAcq o) | 1 => take (zeroAt w 15 17) (.fenceRel o) | 2 => take (zeroAt w 15 17) (.fenceFull o)
  | _ => .error .field

/-- Majors 0x30 to 0x3B by `MIN` (R188 to R203). -/
def decSys (w : W32) : Except Reject Instr :=
  let sel := (w.extractLsb' 12 3).toNat
  let low := (w.extractLsb' 10 2).toNat
  let n : RN := ⟨wNa w⟩
  match wMaj w with
  | 0x30 => if low != 0 then .error .field else match sel with
    | 0 => take (zeroAt w 27 5 && zeroAt w 15 6) (.tsig (getRA w))
    | 1 => take (zeroAt w 27 5 && zeroAt w 15 6) (.twait (getRA w))
    | _ => .error .field
  | 0x31 => match sel, low with
    | 0, 0 => take (zeroAt w 15 6) (.semset (getRR w)) | 1, 0 => take (zeroAt w 15 6) (.semadd (getRR w))
    | 2, 0 => take (zeroAt w 15 6) (.semwait (getRR w)) | 2, 2 => take (zeroAt w 15 6) (.semwaitSusp (getRR w))
    | _, _ => .error .field
  | 0x32 => if sel ≥ 4 then .error .field else match low with
    | 0 => take (zeroAt w 15 12) (.pop ⟨w.extractLsb' 27 5, w.extractLsb' 12 2, wNa w⟩)
    | 2 => take (zeroAt w 20 7 && zeroAt w 18 2) (.popNb ⟨w.extractLsb' 27 5, w.extractLsb' 15 3, w.extractLsb' 12 2, wNa w⟩)
    | _ => .error .field
  | 0x33 => if low != 0 then .error .field else match sel with
    | 0 => take (zeroAt w 15 17) (.mlease n) | 1 => take (zeroAt w 15 17) (.mrlse n) | _ => .error .field
  | 0x34 => if low != 0 then .error .field else match sel with
    | 0 => take (zeroAt w 27 5 && zeroAt w 15 6) (.split (getRA w)) | 1 => take (zeroAt w 27 5 && zeroAt w 15 6) (.fuse (getRA w))
    | 2 => take (zeroAt w 27 5) (.chain (getRAB w)) | 3 => take (zeroAt w 27 5 && zeroAt w 15 6) (.unchain (getRA w))
    | _ => .error .field
  | 0x35 => match sel with
    | 0 => take (zeroAt w 15 17) (.arv ⟨w.extractLsb' 10 2, wNa w⟩) | 1 => take (zeroAt w 15 17) (.wtb ⟨w.extractLsb' 10 2, wNa w⟩)
    | _ => .error .field
  | 0x36 => match sel, low with
    | 0, 0 => take (zeroAt w 15 6) (.publq (getRR w)) | 1, 0 => take (zeroAt w 27 5 && zeroAt w 15 6) (.hint (getRA w))
    | 2, 0 => take (zeroAt w 27 5 && zeroAt w 15 6) (.wpv (getRA w)) | 2, 2 => take (zeroAt w 27 5 && zeroAt w 15 6) (.wpvSusp (getRA w))
    | 3, 0 => take (zeroAt w 15 17) (.susp n)
    | _, _ => .error .field
  | 0x37 =>
    if w.getLsbD 20 then take (zeroAt w 27 5) (.csrw ⟨w.getLsbD 26, w.extractLsb' 21 5, w.extractLsb' 10 10, wNa w⟩)
    else take (zeroAt w 21 6) (.csrr ⟨w.extractLsb' 27 5, w.extractLsb' 10 10, wNa w⟩)
  | 0x38 => if low != 0 then .error .field else match sel with
    | 0 => take (zeroAt w 27 5) (.sysc (getRAB w)) | 1 => take (zeroAt w 27 5 && zeroAt w 15 6) (.trap (getRA w))
    | 2 => take (zeroAt w 15 17) (.eret n) | _ => .error .field
  | 0x39 => take (zeroAt w 27 5 && zeroAt w 10 5) (.freeh (getRAB w))
  | 0x3A => take (zeroAt w 10 17) (.tick ⟨w.extractLsb' 27 5, wNa w⟩)
  | 0x3B => take (zeroAt w 10 22) (.rfence n)
  | _ => .error .major

/-- A 32-bit body word of the control stream (R145). -/
def decodeCtl32 (w : W32) : Except Reject Instr :=
  if wNa w == 3 then .error .naReserved else
  match wMaj w with
  | 0x01 => decAlu w
  | 0x02 => decMul w
  | 0x03 => guardWf (.addi (getRI w)) | 0x04 => guardWf (.andi (getRI w)) | 0x05 => guardWf (.ori (getRI w)) | 0x06 => guardWf (.xori (getRI w))
  | 0x07 => decShift w
  | 0x08 => guardWf (.lui (getRU w)) | 0x09 => guardWf (.addpc (getRU w))
  | 0x0A => take (zeroAt w 27 2) (.cmp (getRCmp w))
  | 0x0B => guardWf (.cmpi (getRCmpi w))
  | 0x0C => decPred w
  | 0x0D => take (zeroAt w 10 1) (.csel (getRSel w))
  | 0x10 => guardWf (.ldb (getRI w)) | 0x11 => guardWf (.ldh (getRI w)) | 0x12 => guardWf (.ldw (getRI w)) | 0x13 => guardWf (.ldd (getRI w))
  | 0x14 => guardWf (.ldbu (getRI w)) | 0x15 => guardWf (.ldhu (getRI w)) | 0x16 => guardWf (.ldwu (getRI w))
  | 0x18 => guardWf (.stb (getRSt w)) | 0x19 => guardWf (.sth (getRSt w)) | 0x1A => guardWf (.stw (getRSt w)) | 0x1B => guardWf (.std (getRSt w))
  | 0x20 => guardWf (.amoadd (getRAmo w)) | 0x21 => guardWf (.amoand (getRAmo w)) | 0x22 => guardWf (.amoor (getRAmo w)) | 0x23 => guardWf (.amoxor (getRAmo w))
  | 0x24 => guardWf (.amomin (getRAmo w)) | 0x25 => guardWf (.amomax (getRAmo w)) | 0x26 => guardWf (.amoswap (getRAmo w)) | 0x27 => guardWf (.amocas (getRAmo w))
  | 0x28 => decFence w
  | 0x29 => guardWf (.enqLde (getREnq w)) | 0x2A => guardWf (.enqAre (getREnq w)) | 0x2B => guardWf (.enqSte (getREnq w))
  | 0x2C => guardWf (.enqMxe (getREnq w)) | 0x2D => guardWf (.enqCpe (getREnq w)) | 0x2E => guardWf (.enqCoe (getREnq w))
  | 0x3D => .error .framing | 0x3E => .error .framing | 0x3F => .error .framing
  | _ => decSys w

/-- A 16-bit word of the control stream (R128). -/
def decodeCtl16 (h : Half) : Except Reject Instr :=
  if h == 0x0002 then .ok .nop else
  let ci : CI := ⟨h.extractLsb' 11 5, h.extractLsb' 5 6⟩
  let cr : CR := ⟨h.extractLsb' 11 5, h.extractLsb' 6 5⟩
  match (h.extractLsb' 0 2).toNat with
  | 0 => match (h.extractLsb' 2 3).toNat with
    | 0 => guardWf (.cAddi ci) | 1 => guardWf (.cLi ci) | _ => .error .compact
  | 1 => match (h.extractLsb' 2 4).toNat with
    | 0 => guardWf (.cMv cr) | 1 => guardWf (.cAdd cr) | 2 => guardWf (.cSub cr) | 3 => guardWf (.cAnd cr) | 4 => guardWf (.cOr cr) | 5 => guardWf (.cXor cr)
    | _ => .error .compact
  | _ => .error .compact

/-- A header word (R129, R130). -/
def decodeHeader (ctl : Bool) (w : W32) : Except Reject Instr :=
  if w.extractLsb' 0 2 != 3#2 || wNa w != 0 then .error .framing else
  match wMaj w with
  | 0x3F => if !ctl && !zeroAt w 10 2 then .error .framing else guardWf (.blockHeader ⟨w.extractLsb' 22 10, w.extractLsb' 12 10, w.extractLsb' 10 2⟩)
  | 0x3D => if !ctl || !zeroAt w 10 6 then .error .framing else guardWf (.switchPointHeader ⟨w.extractLsb' 22 10, w.extractLsb' 16 6⟩)
  | _ => .error .framing

/-- An exit word (R136). -/
def decodeExit (w : W32) : Except Reject Instr :=
  if w.extractLsb' 0 2 != 3#2 || wMaj w != 0x3E then .error .framing else
  let r : ExReg := ⟨w.extractLsb' 13 5, w.extractLsb' 10 3, w.getLsbD 2⟩
  if !w.getLsbD 3 then .ok (.relativeExit ⟨w.extractLsb' 13 19, w.extractLsb' 10 3, w.getLsbD 2⟩)
  else if !zeroAt w 20 12 then .error .framing
  else match (w.extractLsb' 18 2).toNat with
    | 0 => .ok (.jumpExit r) | 1 => .ok (.callExit r) | 2 => .ok (.returnExit r) | _ => .error .framing

/-! ## The engine streams (R143, R144, R146 to R148) -/

/-- The fields of a main word together with its prefixes (R144). -/
def getEOp (p : List Pfx) (m : Option Modf) (w : W32) : EOp :=
  ⟨p, m, w.extractLsb' 27 5, w.getLsbD 26, w.extractLsb' 21 5, w.getLsbD 20, w.extractLsb' 15 5, w.extractLsb' 10 5, wNa w⟩

/-- The load engine's majors (R146). -/
def decLde (maj : Nat) (o : EOp) : Except Reject Instr :=
  match maj with
  | 1 => guardWf (.ldr o) | 2 => guardWf (.ldt o) | 3 => guardWf (.ldrec o) | 4 => guardWf (.ldx o) | 5 => guardWf (.ldsc o)
  | 6 => guardWf (.pcfg o) | 7 => guardWf (.pfx o) | 8 => guardWf (.ldv o) | _ => .error .major

/-- The store engine's majors (R146). -/
def decSte (maj : Nat) (o : EOp) : Except Reject Instr :=
  match maj with
  | 1 => guardWf (.str o) | 2 => guardWf (.stt o) | 3 => guardWf (.strec o) | 4 => guardWf (.stx o) | 5 => guardWf (.stsc o)
  | 6 => guardWf (.stv o) | 7 => guardWf (.publ o) | _ => .error .major

/-- The arithmetic engine's majors (R147); `MIN3` selects further. -/
def decAre (maj : Nat) (o : EOp) : Except Reject Instr :=
  match maj, (eMod o).min3.toNat with
  | 0x01, _ => guardWf (.areAdd o) | 0x02, _ => guardWf (.areSub o) | 0x03, _ => guardWf (.areMul o) | 0x04, _ => guardWf (.fma o)
  | 0x05, _ => guardWf (.areMin o) | 0x06, _ => guardWf (.areMax o) | 0x07, _ => guardWf (.abs o) | 0x08, _ => guardWf (.neg o)
  | 0x09, _ => guardWf (.exp2 o) | 0x0A, _ => guardWf (.log2 o) | 0x0B, _ => guardWf (.rcp o) | 0x0C, _ => guardWf (.rsq o) | 0x0D, _ => guardWf (.tanh o)
  | 0x0E, _ => guardWf (.areCmp o) | 0x0F, _ => guardWf (.sel o)
  | 0x10, 0 => guardWf (.redSum o) | 0x10, 1 => guardWf (.redMax o) | 0x10, 2 => guardWf (.redMin o) | 0x10, 3 => guardWf (.redSsq o) | 0x10, 4 => guardWf (.redAmax o)
  | 0x11, 0 => guardWf (.redqSum o) | 0x11, 1 => guardWf (.redqMax o) | 0x11, 2 => guardWf (.redqMin o) | 0x11, 3 => guardWf (.redqSsq o) | 0x11, 4 => guardWf (.redqAmax o)
  | 0x12, 0 => guardWf (.bcastRow o) | 0x12, 1 => guardWf (.bcastElem o) | 0x12, 2 => guardWf (.bcastScal o)
  | 0x13, _ => guardWf (.iota o) | 0x14, _ => guardWf (.trn o)
  | 0x15, 0 => guardWf (.shufPerm o) | 0x15, 1 => guardWf (.shufRot o) | 0x15, 2 => guardWf (.shufRev o)
  | 0x16, _ => guardWf (.cvt o) | 0x17, _ => guardWf (.qnt o) | 0x18, _ => guardWf (.dqt o)
  | 0x19, _ => guardWf (.areAnd o) | 0x1A, _ => guardWf (.areOr o) | 0x1B, _ => guardWf (.areXor o) | 0x1C, _ => guardWf (.not o)
  | 0x1D, _ => guardWf (.shl o) | 0x1E, _ => guardWf (.shr o) | 0x1F, _ => guardWf (.areSra o) | 0x20, _ => guardWf (.mov o)
  | 0x10, _ | 0x11, _ | 0x12, _ | 0x15, _ => .error .field
  | _, _ => .error .major

/-- The matrix engine's majors (R148). -/
def decMxe (maj : Nat) (o : EOp) : Except Reject Instr :=
  match maj, (eMod o).min3.toNat with
  | 1, _ => guardWf (.mldb o) | 2, _ => guardWf (.mcb o) | 3, _ => guardWf (.msemi o)
  | 4, 0 => guardWf (.mmul o) | 4, 1 => guardWf (.mmulm o) | 4, _ => .error .field
  | 5, _ => guardWf (.mzero o) | 6, _ => guardWf (.mdrain o) | _, _ => .error .major

/-- A copy or collective main word; B2 and B3 must be 0 (R267, R286). -/
def getCOp (w : W32) : COp := ⟨w.extractLsb' 27 5, w.extractLsb' 21 5, w.extractLsb' 15 5, w.extractLsb' 10 5, wNa w⟩

def bZero (w : W32) : Bool := !w.getLsbD 26 && !w.getLsbD 20

def decCpe (w : W32) : Except Reject Instr :=
  let o := getCOp w
  if wNa w == 3 then .error .naReserved else
  match wMaj w with
  | 1 => take (bZero w) (.copy o) | 2 => take (bZero w) (.copy2d o) | 3 => take (bZero w) (.fill o) | 4 => take (bZero w) (.rwrite o)
  | 5 => take (bZero w) (.mcast o) | _ => .error .major

def decCoe (w : W32) : Except Reject Instr :=
  let o := getCOp w
  if wNa w == 3 then .error .naReserved else
  match wMaj w with
  | 1 => take (bZero w) (.ksend o) | 2 => take (bZero w) (.krecv o) | 3 => take (bZero w) (.kwid o) | 4 => take (bZero w) (.kadd o)
  | 5 => take (bZero w) (.kreq o) | 6 => take (bZero w) (.krel o) | 7 => take (bZero w) (.kbar o) | 8 => take (bZero w) (.kabs o)
  | 9 => take (bZero w) (.kframe o) | _ => .error .major

/-- A main word of an engine stream with the prefixes before it. -/
def decMain (st : Stream) (p : List Pfx) (m : Option Modf) (w : W32) : Except Reject Instr :=
  if wNa w == 3 then .error .naReserved else
  let o := getEOp p m w
  match st with
  | .lde => decLde (wMaj w) o
  | .ste => decSte (wMaj w) o
  | .are => decAre (wMaj w) o
  | .mxe => decMxe (wMaj w) o
  | _ => .error .major

/-- A row prefix (R128). -/
def getPfx (h : Half) : Pfx := ⟨h.extractLsb' 10 6, h.extractLsb' 4 6, h.extractLsb' 2 2⟩
/-- A modifier prefix (R128). -/
def getModf (h : Half) : Modf := ⟨h.extractLsb' 13 3, h.getLsbD 12, h.getLsbD 11, h.getLsbD 10, h.extractLsb' 5 5, h.extractLsb' 2 3⟩

/-- One engine instruction: row prefixes, at most one modifier prefix, one main word (R143). The state `m` holds a modifier prefix already read. -/
def decEng (st : Stream) (p : List Pfx) (m : Option Modf) : List Half → Except Reject (Instr × List Half)
  | [] => .error .truncated
  | h :: t =>
    if h == 0x0002 then (if p.isEmpty && m.isNone then .ok (.nop, t) else .error .pfx)
    else match (h.extractLsb' 0 2).toNat with
    | 1 => if m.isSome then .error .pfx else decEng st (p ++ [getPfx h]) none t
    | 2 => if m.isSome then .error .pfx else decEng st p (some (getModf h)) t
    | 3 => match t with
      | [] => .error .truncated
      | h2 :: t2 => (decMain st p m (h2 ++ h)).map fun i => (i, t2)
    | _ => .error .compact

/-- One body word of a stream and the halfwords after it; total on any halfwords (R126, R128). -/
def decodeBody (st : Stream) (hs : List Half) : Except Reject (Instr × List Half) :=
  match st with
  | .lde | .are | .ste | .mxe => decEng st [] none hs
  | .ctl => match hs with
    | [] => .error .truncated
    | h :: t =>
      if isWide h then match t with
        | [] => .error .truncated
        | h2 :: t2 => (decodeCtl32 (h2 ++ h)).map fun i => (i, t2)
      else (decodeCtl16 h).map fun i => (i, t)
  | .cpe | .coe => match hs with
    | [] => .error .truncated
    | h :: t =>
      if h == 0x0002 then .ok (.nop, t)
      else if isWide h then match t with
        | [] => .error .truncated
        | h2 :: t2 => ((if st == .cpe then decCpe else decCoe) (h2 ++ h)).map fun i => (i, t2)
      else .error .compact

/-- Any word of the control stream by its place-independent form: a header, an exit word, or a body word. -/
def decodeAny (h : Half) (h2 : Half) : Except Reject Instr :=
  if isWide h then
    let w : W32 := h2 ++ h
    match wMaj w with
    | 0x3F => decodeHeader true w
    | 0x3D => decodeHeader true w
    | 0x3E => decodeExit w
    | _ => decodeCtl32 w
  else decodeCtl16 h

/-- Halfword `i` of an instruction numbered as the opcode table numbers its bits. -/
def tableHalf (w i : Nat) : Half := BitVec.ofNat 16 (w / 2 ^ (16 * i))

/-- The instruction the decoder of the control stream reads from a table word (bits above `nbits` are 0). A word of a copy or collective row has the bits of a control word too; read here, it is that control word (log entry 7). -/
def decodeTableWord (nbits w : Nat) : Option Instr :=
  let w := w % 2 ^ nbits
  match decodeAny (tableHalf w 0) (tableHalf w 1) with
  | .ok i => some i
  | .error _ => none

/-! ## `NA` and length -/

/-- The 32-bit layouts, written from R140. The last two bits are 0b11. -/
def encRRR (maj : BitVec 6) (min : BitVec 5) (o : RRR) : W32 :=
  o.d ++ BitVec.ofBool o.ba ++ o.a ++ BitVec.ofBool o.bb ++ o.b ++ min ++ maj ++ o.na ++ 3#2
def encRR (maj : BitVec 6) (min : BitVec 5) (o : RR) : W32 := encRRR maj min ⟨o.d, o.ba, o.a, false, 0, o.na⟩
def encRA (maj : BitVec 6) (min : BitVec 5) (o : RA) : W32 := encRRR maj min ⟨0, o.ba, o.a, false, 0, o.na⟩
def encRAB (maj : BitVec 6) (min : BitVec 5) (o : RAB) : W32 := encRRR maj min ⟨0, o.ba, o.a, o.bb, o.b, o.na⟩
def encRN (maj : BitVec 6) (min : BitVec 5) (o : RN) : W32 := encRRR maj min ⟨0, false, 0, false, 0, o.na⟩
def encRI (maj : BitVec 6) (o : RI) : W32 := o.d ++ BitVec.ofBool o.ba ++ o.a ++ o.imm ++ maj ++ o.na ++ 3#2
def encRSh (op : BitVec 5) (o : RSh) : W32 := o.d ++ BitVec.ofBool o.ba ++ o.a ++ op ++ o.sh ++ 0x07#6 ++ o.na ++ 3#2
def encRU (maj : BitVec 6) (o : RU) : W32 := o.d ++ o.imm ++ maj ++ o.na ++ 3#2
def encRSt (maj : BitVec 6) (o : RSt) : W32 := BitVec.ofBool o.bv ++ o.v ++ BitVec.ofBool o.ba ++ o.a ++ o.imm ++ maj ++ o.na ++ 3#2
def encRCmp (o : RCmp) : W32 := o.pd ++ 0#2 ++ BitVec.ofBool o.ba ++ o.a ++ BitVec.ofBool o.bb ++ o.b ++ o.cc ++ 0x0A#6 ++ o.na ++ 3#2
def encRCmpi (o : RCmpi) : W32 := o.pd ++ o.cnd ++ BitVec.ofBool o.ba ++ o.a ++ o.imm ++ 0x0B#6 ++ o.na ++ 3#2
def encRPl (min : BitVec 5) (o : RPl) : W32 := o.pd ++ o.pa ++ o.pb ++ 0#8 ++ min ++ 0x0C#6 ++ o.na ++ 3#2
def encRSel (o : RSel) : W32 := o.d ++ BitVec.ofBool o.ba ++ o.a ++ BitVec.ofBool o.bb ++ o.b ++ o.p ++ BitVec.ofBool o.neg ++ 0#1 ++ 0x0D#6 ++ o.na ++ 3#2
def encRAmo (maj : BitVec 6) (o : RAmo) : W32 :=
  o.d ++ BitVec.ofBool o.ba ++ o.a ++ BitVec.ofBool o.bb ++ o.b ++ BitVec.ofBool o.w64 ++ o.ord ++ o.scope ++ maj ++ o.na ++ 3#2
def encRFence (kind : BitVec 2) (o : RFence) : W32 := 0#17 ++ o.scope ++ kind ++ 0x28#6 ++ o.na ++ 3#2
def encREnq (maj : BitVec 6) (o : REnq) : W32 := o.wait ++ o.sig ++ o.a ++ BitVec.ofBool o.ba ++ maj ++ o.na ++ 3#2
def encRPop (o : RPop) : W32 := o.d ++ 0#12 ++ 0#1 ++ o.q ++ 0#2 ++ 0x32#6 ++ o.na ++ 3#2
def encRPopNb (o : RPopNb) : W32 := o.d ++ 0#7 ++ 0#2 ++ o.p ++ 0#1 ++ o.q ++ 2#2 ++ 0x32#6 ++ o.na ++ 3#2
def encRScope (sel : BitVec 3) (o : RScope) : W32 := 0#17 ++ sel ++ o.scope ++ 0x35#6 ++ o.na ++ 3#2
def encRCsrr (o : RCsrr) : W32 := o.d ++ 0#6 ++ 0#1 ++ o.csr ++ 0x37#6 ++ o.na ++ 3#2
def encRCsrw (o : RCsrw) : W32 := 0#5 ++ BitVec.ofBool o.ba ++ o.a ++ 1#1 ++ o.csr ++ 0x37#6 ++ o.na ++ 3#2
def encRD (maj : BitVec 6) (o : RD) : W32 := o.d ++ 0#17 ++ maj ++ o.na ++ 3#2
def encCI (op : BitVec 3) (o : CI) : Half := o.d ++ o.imm ++ op ++ 0#2
def encCR (op : BitVec 4) (o : CR) : Half := o.d ++ o.a ++ op ++ 1#2
def encHdr (h : Hdr) : W32 := h.len ++ h.rep ++ h.nex ++ 0x3F#6 ++ 0#2 ++ 3#2
def encHdrSw (h : HdrSw) : W32 := h.len ++ h.swid ++ 0#6 ++ 0x3D#6 ++ 0#2 ++ 3#2
def encExRel (x : ExRel) : W32 := x.off ++ x.p ++ 0x3E#6 ++ 0#1 ++ BitVec.ofBool x.neg ++ 3#2
def encExReg (link : BitVec 2) (x : ExReg) : W32 := 0#12 ++ link ++ x.reg ++ x.p ++ 0x3E#6 ++ 1#1 ++ BitVec.ofBool x.neg ++ 3#2
def encMain (maj : BitVec 6) (o : EOp) : W32 :=
  o.f1 ++ BitVec.ofBool o.b2 ++ o.f2 ++ BitVec.ofBool o.b3 ++ o.f3 ++ o.fmt ++ maj ++ o.na ++ 3#2
def encCOp (maj : BitVec 6) (o : COp) : W32 := o.f1 ++ 0#1 ++ o.f2 ++ 0#1 ++ o.f3 ++ o.fmt ++ maj ++ o.na ++ 3#2
def encPfx (p : Pfx) : Half := p.first ++ p.cntm1 ++ p.slot ++ 1#2
def encModf (m : Modf) : Half := m.rnd ++ BitVec.ofBool m.sat ++ BitVec.ofBool m.raw ++ BitVec.ofBool m.bc ++ m.oc ++ m.min3 ++ 2#2

/-- A 32-bit word as two halfwords, the low one first (R126). -/
def halves (w : W32) : List Half := [w.extractLsb' 0 16, w.extractLsb' 16 16]

/-- An engine instruction: prefixes, then the main word (R143). -/
def encEng (maj : BitVec 6) (o : EOp) : List Half :=
  o.pfx.map encPfx ++ (match o.mod with | some m => [encModf m] | none => []) ++ halves (encMain maj o)

/-- The halfwords of an instruction; event rows have none. -/
def encode : Instr → Option (List Half)
  | .blockHeader h => some (halves (encHdr h))
  | .switchPointHeader h => some (halves (encHdrSw h))
  | .relativeExit x => some (halves (encExRel x))
  | .jumpExit x => some (halves (encExReg 0 x))
  | .callExit x => some (halves (encExReg 1 x))
  | .returnExit x => some (halves (encExReg 2 x))
  | .nop => some [0x0002]
  | .cAddi o => some [encCI 0 o]
  | .cLi o => some [encCI 1 o]
  | .cMv o => some [encCR 0 o]
  | .cAdd o => some [encCR 1 o]
  | .cSub o => some [encCR 2 o]
  | .cAnd o => some [encCR 3 o]
  | .cOr o => some [encCR 4 o]
  | .cXor o => some [encCR 5 o]
  | .add o => some (halves (encRRR 0x01 0 o))
  | .sub o => some (halves (encRRR 0x01 1 o))
  | .and o => some (halves (encRRR 0x01 2 o))
  | .or o => some (halves (encRRR 0x01 3 o))
  | .xor o => some (halves (encRRR 0x01 4 o))
  | .sll o => some (halves (encRRR 0x01 5 o))
  | .srl o => some (halves (encRRR 0x01 6 o))
  | .sra o => some (halves (encRRR 0x01 7 o))
  | .ror o => some (halves (encRRR 0x01 8 o))
  | .min o => some (halves (encRRR 0x01 9 o))
  | .max o => some (halves (encRRR 0x01 10 o))
  | .minu o => some (halves (encRRR 0x01 11 o))
  | .maxu o => some (halves (encRRR 0x01 12 o))
  | .clz o => some (halves (encRR 0x01 13 o))
  | .ctz o => some (halves (encRR 0x01 14 o))
  | .popc o => some (halves (encRR 0x01 15 o))
  | .sextw o => some (halves (encRR 0x01 16 o))
  | .zextw o => some (halves (encRR 0x01 17 o))
  | .mul o => some (halves (encRRR 0x02 0 o))
  | .mulh o => some (halves (encRRR 0x02 1 o))
  | .mulhu o => some (halves (encRRR 0x02 2 o))
  | .mulhsu o => some (halves (encRRR 0x02 3 o))
  | .div o => some (halves (encRRR 0x02 4 o))
  | .divu o => some (halves (encRRR 0x02 5 o))
  | .rem o => some (halves (encRRR 0x02 6 o))
  | .remu o => some (halves (encRRR 0x02 7 o))
  | .addi o => some (halves (encRI 3 o))
  | .andi o => some (halves (encRI 4 o))
  | .ori o => some (halves (encRI 5 o))
  | .xori o => some (halves (encRI 6 o))
  | .slli o => some (halves (encRSh 0 o))
  | .srli o => some (halves (encRSh 1 o))
  | .srai o => some (halves (encRSh 2 o))
  | .rori o => some (halves (encRSh 3 o))
  | .lui o => some (halves (encRU 0x08 o))
  | .addpc o => some (halves (encRU 0x09 o))
  | .cmp o => some (halves (encRCmp o))
  | .cmpi o => some (halves (encRCmpi o))
  | .pand o => some (halves (encRPl 0 o))
  | .por o => some (halves (encRPl 1 o))
  | .pxor o => some (halves (encRPl 2 o))
  | .pandn o => some (halves (encRPl 3 o))
  | .porn o => some (halves (encRPl 4 o))
  | .pnot o => some (halves (encRPl 5 ⟨o.pd, o.pa, 0, o.na⟩))
  | .csel o => some (halves (encRSel o))
  | .ldb o => some (halves (encRI 0x10 o))
  | .ldh o => some (halves (encRI 0x11 o))
  | .ldw o => some (halves (encRI 0x12 o))
  | .ldd o => some (halves (encRI 0x13 o))
  | .ldbu o => some (halves (encRI 0x14 o))
  | .ldhu o => some (halves (encRI 0x15 o))
  | .ldwu o => some (halves (encRI 0x16 o))
  | .stb o => some (halves (encRSt 0x18 o))
  | .sth o => some (halves (encRSt 0x19 o))
  | .stw o => some (halves (encRSt 0x1a o))
  | .std o => some (halves (encRSt 0x1b o))
  | .amoadd o => some (halves (encRAmo 0x20 o))
  | .amoand o => some (halves (encRAmo 0x21 o))
  | .amoor o => some (halves (encRAmo 0x22 o))
  | .amoxor o => some (halves (encRAmo 0x23 o))
  | .amomin o => some (halves (encRAmo 0x24 o))
  | .amomax o => some (halves (encRAmo 0x25 o))
  | .amoswap o => some (halves (encRAmo 0x26 o))
  | .amocas o => some (halves (encRAmo 0x27 o))
  | .fenceAcq o => some (halves (encRFence 0 o))
  | .fenceRel o => some (halves (encRFence 1 o))
  | .fenceFull o => some (halves (encRFence 2 o))
  | .enqLde o => some (halves (encREnq 0x29 o))
  | .enqAre o => some (halves (encREnq 0x2a o))
  | .enqSte o => some (halves (encREnq 0x2b o))
  | .enqMxe o => some (halves (encREnq 0x2c o))
  | .enqCpe o => some (halves (encREnq 0x2d o))
  | .enqCoe o => some (halves (encREnq 0x2e o))
  | .tsig o => some (halves (encRA 0x30 0 o))
  | .twait o => some (halves (encRA 0x30 4 o))
  | .semset o => some (halves (encRR 0x31 0 o))
  | .semadd o => some (halves (encRR 0x31 4 o))
  | .semwait o => some (halves (encRR 0x31 8 o))
  | .semwaitSusp o => some (halves (encRR 0x31 10 o))
  | .pop o => some (halves (encRPop o))
  | .popNb o => some (halves (encRPopNb o))
  | .mlease o => some (halves (encRN 0x33 0 o))
  | .mrlse o => some (halves (encRN 0x33 4 o))
  | .split o => some (halves (encRA 0x34 0 o))
  | .fuse o => some (halves (encRA 0x34 4 o))
  | .chain o => some (halves (encRAB 0x34 8 o))
  | .unchain o => some (halves (encRA 0x34 12 o))
  | .arv o => some (halves (encRScope 0 o))
  | .wtb o => some (halves (encRScope 1 o))
  | .publq o => some (halves (encRR 0x36 0 o))
  | .hint o => some (halves (encRA 0x36 4 o))
  | .wpv o => some (halves (encRA 0x36 8 o))
  | .wpvSusp o => some (halves (encRA 0x36 10 o))
  | .susp o => some (halves (encRN 0x36 12 o))
  | .csrr o => some (halves (encRCsrr o))
  | .csrw o => some (halves (encRCsrw o))
  | .sysc o => some (halves (encRAB 0x38 0 o))
  | .trap o => some (halves (encRA 0x38 4 o))
  | .eret o => some (halves (encRN 0x38 8 o))
  | .freeh o => some (halves (encRAB 0x39 0 o))
  | .tick o => some (halves (encRD 0x3A o))
  | .rfence o => some (halves (encRN 0x3B 0 o))
  | .ldr o => some (encEng 0x1 o)
  | .ldt o => some (encEng 0x2 o)
  | .ldrec o => some (encEng 0x3 o)
  | .ldx o => some (encEng 0x4 o)
  | .ldsc o => some (encEng 0x5 o)
  | .pcfg o => some (encEng 0x6 o)
  | .pfx o => some (encEng 0x7 o)
  | .ldv o => some (encEng 0x8 o)
  | .str o => some (encEng 0x1 o)
  | .stt o => some (encEng 0x2 o)
  | .strec o => some (encEng 0x3 o)
  | .stx o => some (encEng 0x4 o)
  | .stsc o => some (encEng 0x5 o)
  | .stv o => some (encEng 0x6 o)
  | .publ o => some (encEng 0x7 o)
  | .areAdd o => some (encEng 0x1 o)
  | .areSub o => some (encEng 0x2 o)
  | .areMul o => some (encEng 0x3 o)
  | .fma o => some (encEng 0x4 o)
  | .areMin o => some (encEng 0x5 o)
  | .areMax o => some (encEng 0x6 o)
  | .abs o => some (encEng 0x7 o)
  | .neg o => some (encEng 0x8 o)
  | .exp2 o => some (encEng 0x9 o)
  | .log2 o => some (encEng 0xa o)
  | .rcp o => some (encEng 0xb o)
  | .rsq o => some (encEng 0xc o)
  | .tanh o => some (encEng 0xd o)
  | .areCmp o => some (encEng 0xe o)
  | .sel o => some (encEng 0xf o)
  | .redSum o => some (encEng 0x10 o)
  | .redMax o => some (encEng 0x10 o)
  | .redMin o => some (encEng 0x10 o)
  | .redSsq o => some (encEng 0x10 o)
  | .redAmax o => some (encEng 0x10 o)
  | .redqSum o => some (encEng 0x11 o)
  | .redqMax o => some (encEng 0x11 o)
  | .redqMin o => some (encEng 0x11 o)
  | .redqSsq o => some (encEng 0x11 o)
  | .redqAmax o => some (encEng 0x11 o)
  | .bcastRow o => some (encEng 0x12 o)
  | .bcastElem o => some (encEng 0x12 o)
  | .bcastScal o => some (encEng 0x12 o)
  | .iota o => some (encEng 0x13 o)
  | .trn o => some (encEng 0x14 o)
  | .shufPerm o => some (encEng 0x15 o)
  | .shufRot o => some (encEng 0x15 o)
  | .shufRev o => some (encEng 0x15 o)
  | .cvt o => some (encEng 0x16 o)
  | .qnt o => some (encEng 0x17 o)
  | .dqt o => some (encEng 0x18 o)
  | .areAnd o => some (encEng 0x19 o)
  | .areOr o => some (encEng 0x1a o)
  | .areXor o => some (encEng 0x1b o)
  | .not o => some (encEng 0x1c o)
  | .shl o => some (encEng 0x1d o)
  | .shr o => some (encEng 0x1e o)
  | .areSra o => some (encEng 0x1f o)
  | .mov o => some (encEng 0x20 o)
  | .mldb o => some (encEng 0x1 o)
  | .mcb o => some (encEng 0x2 o)
  | .msemi o => some (encEng 0x3 o)
  | .mmul o => some (encEng 0x4 o)
  | .mmulm o => some (encEng 0x4 o)
  | .mzero o => some (encEng 0x5 o)
  | .mdrain o => some (encEng 0x6 o)
  | .copy o => some (halves (encCOp 1 o))
  | .copy2d o => some (halves (encCOp 2 o))
  | .fill o => some (halves (encCOp 3 o))
  | .rwrite o => some (halves (encCOp 4 o))
  | .mcast o => some (halves (encCOp 5 o))
  | .ksend o => some (halves (encCOp 1 o))
  | .krecv o => some (halves (encCOp 2 o))
  | .kwid o => some (halves (encCOp 3 o))
  | .kadd o => some (halves (encCOp 4 o))
  | .kreq o => some (halves (encCOp 5 o))
  | .krel o => some (halves (encCOp 6 o))
  | .kbar o => some (halves (encCOp 7 o))
  | .kabs o => some (halves (encCOp 8 o))
  | .kframe o => some (halves (encCOp 9 o))
  | .blockCommit _ _ => none
  | .runAheadMispredict _ _ => none
  | .blockWaitMet _ _ => none
  | .readStep _ _ _ => none
  | .drainStep _ _ _ => none
  | .heldWriteApply _ _ => none
  | .linkForward _ _ => none
  | .gateWriteApply _ _ _ => none
  | .gateReadPerform _ _ _ => none
  | .gateBeat _ _ => none
  | .beat _ _ => none
  | .reply _ _ => none
  | .publishInvalidation _ _ => none
  | .requestResend _ _ => none
  | .ticketCall _ => none
  | .fabricWriteApply _ _ => none
  | .publishStep _ _ => none
  | .pageWalk _ _ _ _ _ => none
  | .entryStart _ _ => none
  | .entryComplete _ _ => none
  | .rowArrival _ _ => none
  | .storeRowRead _ _ => none
  | .areRowStep _ _ _ => none
  | .portRowFetch _ _ _ _ => none
  | .matrixPass _ _ _ _ => none
  | .chainRowSend _ _ => none
  | .drainEvent _ _ => none
  | .copyChunk _ _ _ => none
  | .switchReplicate _ => none
  | .mcastLineArrival _ _ => none
  | .aggregatedAck _ _ _ _ => none
  | .mcastMemberTimeout _ _ _ => none
  | .arrivalRecord _ _ _ => none
  | .popFill _ _ _ => none
  | .syscPost _ _ => none
  | .frameEntry _ _ => none
  | .stepStart _ _ => none
  | .stepComplete _ _ => none
  | .slipNotice _ _ _ => none
  | .frameQuery _ _ _ _ _ _ => none
  | .frameGrant _ _ => none
  | .barrierArrival _ _ _ _ => none
  | .barrierAbsence _ _ _ => none
  | .barrierPresence _ _ _ => none
  | .barrierTimeout _ _ => none
  | .kickPass _ => none
  | .fragmentLeaseGrant _ => none
  | .pickUp _ _ => none
  | .fragmentGiveUp _ _ => none
  | .blockRetire _ _ => none
  | .sliceEnd _ _ => none
  | .class0Preempt _ => none
  | .engineStopAck _ _ => none
  | .preemptionComplete _ _ _ _ => none
  | .swapIn _ => none
  | .balanceControl _ _ => none
  | .bimbWindowEnd _ _ => none
  | .timingReplay _ _ _ => none
  | .faultPost _ => none
  | .terminalFaultStop _ _ => none
  | .fltrespCont _ _ => none
  | .fltrespSave _ _ => none
  | .fltrespKill _ _ => none
  | .scrub _ _ _ => none
  | .pinHoldTimeout _ _ => none
  | .linkLostNotice _ => none
  | .linkRetrainFail _ => none
  | .rejoinBeat _ _ => none
  | .nftPortFailover _ _ _ => none
  | .nftUnreachable _ _ _ => none
  | .schedulerCoreFailure _ => none
  | .adoption _ => none
  | .pairTimeout _ => none
  | .grantWindowEnd _ _ _ => none
  | .marginWindowEnd _ _ => none
  | .refreshRateChange _ _ _ => none
  | .ashapeClearBen _ _ => none
  | .ashapeSetBen _ _ => none
  | .bandPowerOff _ _ => none
  | .bandPowerOn _ _ => none
  | .kickset _ _ => none
  | .tlbinvAll _ => none
  | .tlbinvAsid _ _ => none
  | .tlbinvVpn _ _ _ => none
  | .tlbinvDone _ => none
  | .proofEntryWrite _ _ _ => none
  | .syscdone _ _ => none
  | .resync _ _ => none
  | .contactSheetDone _ => none
  | .tickadj _ _ => none
  | .xcat _ _ _ => none
  | .trcbaseEnable _ _ => none
  | .margRecal _ _ => none
  | .peerstRejoin _ _ => none
  | .registerWrite _ _ _ => none
  | .breakpointTick _ _ => none
  | .tapReset => none
  | .tapExtest _ => none
  | .tapIdcode _ => none
  | .tapSamplePreload _ => none
  | .tapMreg _ _ => none
  | .tapRelease _ => none
  | .tapScansel _ _ => none
  | .tapScan _ => none
  | .tapBypass _ _ => none
  | .packageResetRelease => none
  | .bootImageCheck _ _ _ => none
  | .bootRetry _ => none
  | .referenceTick => none
  | .writeAcknowledgement _ _ _ => none
  | .dieResetRelease _ => none
  | .packageLinkTrained _ => none
  | .nftStreamRestart _ _ _ => none
  | .fabricPortLinkUp _ _ => none
  | .dramRefresh _ _ => none

/-- Where a word stands: a header, an exit position, or the body of a stream (R126, R129, R136). -/
inductive Place where
  | header | exit | body (st : Stream)
  deriving DecidableEq, Repr

/-- The place of an instruction; event rows have none. -/
def Instr.place : Instr → Option Place
  | .blockHeader _ => some .header
  | .switchPointHeader _ => some .header
  | .relativeExit _ => some .exit
  | .jumpExit _ => some .exit
  | .callExit _ => some .exit
  | .returnExit _ => some .exit
  | .nop => some (.body .ctl)
  | .cAddi _ => some (.body .ctl)
  | .cLi _ => some (.body .ctl)
  | .cMv _ => some (.body .ctl)
  | .cAdd _ => some (.body .ctl)
  | .cSub _ => some (.body .ctl)
  | .cAnd _ => some (.body .ctl)
  | .cOr _ => some (.body .ctl)
  | .cXor _ => some (.body .ctl)
  | .add _ => some (.body .ctl)
  | .sub _ => some (.body .ctl)
  | .and _ => some (.body .ctl)
  | .or _ => some (.body .ctl)
  | .xor _ => some (.body .ctl)
  | .sll _ => some (.body .ctl)
  | .srl _ => some (.body .ctl)
  | .sra _ => some (.body .ctl)
  | .ror _ => some (.body .ctl)
  | .min _ => some (.body .ctl)
  | .max _ => some (.body .ctl)
  | .minu _ => some (.body .ctl)
  | .maxu _ => some (.body .ctl)
  | .clz _ => some (.body .ctl)
  | .ctz _ => some (.body .ctl)
  | .popc _ => some (.body .ctl)
  | .sextw _ => some (.body .ctl)
  | .zextw _ => some (.body .ctl)
  | .mul _ => some (.body .ctl)
  | .mulh _ => some (.body .ctl)
  | .mulhu _ => some (.body .ctl)
  | .mulhsu _ => some (.body .ctl)
  | .div _ => some (.body .ctl)
  | .divu _ => some (.body .ctl)
  | .rem _ => some (.body .ctl)
  | .remu _ => some (.body .ctl)
  | .addi _ => some (.body .ctl)
  | .andi _ => some (.body .ctl)
  | .ori _ => some (.body .ctl)
  | .xori _ => some (.body .ctl)
  | .slli _ => some (.body .ctl)
  | .srli _ => some (.body .ctl)
  | .srai _ => some (.body .ctl)
  | .rori _ => some (.body .ctl)
  | .lui _ => some (.body .ctl)
  | .addpc _ => some (.body .ctl)
  | .cmp _ => some (.body .ctl)
  | .cmpi _ => some (.body .ctl)
  | .pand _ => some (.body .ctl)
  | .por _ => some (.body .ctl)
  | .pxor _ => some (.body .ctl)
  | .pandn _ => some (.body .ctl)
  | .porn _ => some (.body .ctl)
  | .pnot _ => some (.body .ctl)
  | .csel _ => some (.body .ctl)
  | .ldb _ => some (.body .ctl)
  | .ldh _ => some (.body .ctl)
  | .ldw _ => some (.body .ctl)
  | .ldd _ => some (.body .ctl)
  | .ldbu _ => some (.body .ctl)
  | .ldhu _ => some (.body .ctl)
  | .ldwu _ => some (.body .ctl)
  | .stb _ => some (.body .ctl)
  | .sth _ => some (.body .ctl)
  | .stw _ => some (.body .ctl)
  | .std _ => some (.body .ctl)
  | .amoadd _ => some (.body .ctl)
  | .amoand _ => some (.body .ctl)
  | .amoor _ => some (.body .ctl)
  | .amoxor _ => some (.body .ctl)
  | .amomin _ => some (.body .ctl)
  | .amomax _ => some (.body .ctl)
  | .amoswap _ => some (.body .ctl)
  | .amocas _ => some (.body .ctl)
  | .fenceAcq _ => some (.body .ctl)
  | .fenceRel _ => some (.body .ctl)
  | .fenceFull _ => some (.body .ctl)
  | .enqLde _ => some (.body .ctl)
  | .enqAre _ => some (.body .ctl)
  | .enqSte _ => some (.body .ctl)
  | .enqMxe _ => some (.body .ctl)
  | .enqCpe _ => some (.body .ctl)
  | .enqCoe _ => some (.body .ctl)
  | .tsig _ => some (.body .ctl)
  | .twait _ => some (.body .ctl)
  | .semset _ => some (.body .ctl)
  | .semadd _ => some (.body .ctl)
  | .semwait _ => some (.body .ctl)
  | .semwaitSusp _ => some (.body .ctl)
  | .pop _ => some (.body .ctl)
  | .popNb _ => some (.body .ctl)
  | .mlease _ => some (.body .ctl)
  | .mrlse _ => some (.body .ctl)
  | .split _ => some (.body .ctl)
  | .fuse _ => some (.body .ctl)
  | .chain _ => some (.body .ctl)
  | .unchain _ => some (.body .ctl)
  | .arv _ => some (.body .ctl)
  | .wtb _ => some (.body .ctl)
  | .publq _ => some (.body .ctl)
  | .hint _ => some (.body .ctl)
  | .wpv _ => some (.body .ctl)
  | .wpvSusp _ => some (.body .ctl)
  | .susp _ => some (.body .ctl)
  | .csrr _ => some (.body .ctl)
  | .csrw _ => some (.body .ctl)
  | .sysc _ => some (.body .ctl)
  | .trap _ => some (.body .ctl)
  | .eret _ => some (.body .ctl)
  | .freeh _ => some (.body .ctl)
  | .tick _ => some (.body .ctl)
  | .rfence _ => some (.body .ctl)
  | .ldr _ => some (.body .lde)
  | .ldt _ => some (.body .lde)
  | .ldrec _ => some (.body .lde)
  | .ldx _ => some (.body .lde)
  | .ldsc _ => some (.body .lde)
  | .pcfg _ => some (.body .lde)
  | .pfx _ => some (.body .lde)
  | .ldv _ => some (.body .lde)
  | .str _ => some (.body .ste)
  | .stt _ => some (.body .ste)
  | .strec _ => some (.body .ste)
  | .stx _ => some (.body .ste)
  | .stsc _ => some (.body .ste)
  | .stv _ => some (.body .ste)
  | .publ _ => some (.body .ste)
  | .areAdd _ => some (.body .are)
  | .areSub _ => some (.body .are)
  | .areMul _ => some (.body .are)
  | .fma _ => some (.body .are)
  | .areMin _ => some (.body .are)
  | .areMax _ => some (.body .are)
  | .abs _ => some (.body .are)
  | .neg _ => some (.body .are)
  | .exp2 _ => some (.body .are)
  | .log2 _ => some (.body .are)
  | .rcp _ => some (.body .are)
  | .rsq _ => some (.body .are)
  | .tanh _ => some (.body .are)
  | .areCmp _ => some (.body .are)
  | .sel _ => some (.body .are)
  | .redSum _ => some (.body .are)
  | .redMax _ => some (.body .are)
  | .redMin _ => some (.body .are)
  | .redSsq _ => some (.body .are)
  | .redAmax _ => some (.body .are)
  | .redqSum _ => some (.body .are)
  | .redqMax _ => some (.body .are)
  | .redqMin _ => some (.body .are)
  | .redqSsq _ => some (.body .are)
  | .redqAmax _ => some (.body .are)
  | .bcastRow _ => some (.body .are)
  | .bcastElem _ => some (.body .are)
  | .bcastScal _ => some (.body .are)
  | .iota _ => some (.body .are)
  | .trn _ => some (.body .are)
  | .shufPerm _ => some (.body .are)
  | .shufRot _ => some (.body .are)
  | .shufRev _ => some (.body .are)
  | .cvt _ => some (.body .are)
  | .qnt _ => some (.body .are)
  | .dqt _ => some (.body .are)
  | .areAnd _ => some (.body .are)
  | .areOr _ => some (.body .are)
  | .areXor _ => some (.body .are)
  | .not _ => some (.body .are)
  | .shl _ => some (.body .are)
  | .shr _ => some (.body .are)
  | .areSra _ => some (.body .are)
  | .mov _ => some (.body .are)
  | .mldb _ => some (.body .mxe)
  | .mcb _ => some (.body .mxe)
  | .msemi _ => some (.body .mxe)
  | .mmul _ => some (.body .mxe)
  | .mmulm _ => some (.body .mxe)
  | .mzero _ => some (.body .mxe)
  | .mdrain _ => some (.body .mxe)
  | .copy _ => some (.body .cpe)
  | .copy2d _ => some (.body .cpe)
  | .fill _ => some (.body .cpe)
  | .rwrite _ => some (.body .cpe)
  | .mcast _ => some (.body .cpe)
  | .ksend _ => some (.body .coe)
  | .krecv _ => some (.body .coe)
  | .kwid _ => some (.body .coe)
  | .kadd _ => some (.body .coe)
  | .kreq _ => some (.body .coe)
  | .krel _ => some (.body .coe)
  | .kbar _ => some (.body .coe)
  | .kabs _ => some (.body .coe)
  | .kframe _ => some (.body .coe)
  | .blockCommit _ _ => none
  | .runAheadMispredict _ _ => none
  | .blockWaitMet _ _ => none
  | .readStep _ _ _ => none
  | .drainStep _ _ _ => none
  | .heldWriteApply _ _ => none
  | .linkForward _ _ => none
  | .gateWriteApply _ _ _ => none
  | .gateReadPerform _ _ _ => none
  | .gateBeat _ _ => none
  | .beat _ _ => none
  | .reply _ _ => none
  | .publishInvalidation _ _ => none
  | .requestResend _ _ => none
  | .ticketCall _ => none
  | .fabricWriteApply _ _ => none
  | .publishStep _ _ => none
  | .pageWalk _ _ _ _ _ => none
  | .entryStart _ _ => none
  | .entryComplete _ _ => none
  | .rowArrival _ _ => none
  | .storeRowRead _ _ => none
  | .areRowStep _ _ _ => none
  | .portRowFetch _ _ _ _ => none
  | .matrixPass _ _ _ _ => none
  | .chainRowSend _ _ => none
  | .drainEvent _ _ => none
  | .copyChunk _ _ _ => none
  | .switchReplicate _ => none
  | .mcastLineArrival _ _ => none
  | .aggregatedAck _ _ _ _ => none
  | .mcastMemberTimeout _ _ _ => none
  | .arrivalRecord _ _ _ => none
  | .popFill _ _ _ => none
  | .syscPost _ _ => none
  | .frameEntry _ _ => none
  | .stepStart _ _ => none
  | .stepComplete _ _ => none
  | .slipNotice _ _ _ => none
  | .frameQuery _ _ _ _ _ _ => none
  | .frameGrant _ _ => none
  | .barrierArrival _ _ _ _ => none
  | .barrierAbsence _ _ _ => none
  | .barrierPresence _ _ _ => none
  | .barrierTimeout _ _ => none
  | .kickPass _ => none
  | .fragmentLeaseGrant _ => none
  | .pickUp _ _ => none
  | .fragmentGiveUp _ _ => none
  | .blockRetire _ _ => none
  | .sliceEnd _ _ => none
  | .class0Preempt _ => none
  | .engineStopAck _ _ => none
  | .preemptionComplete _ _ _ _ => none
  | .swapIn _ => none
  | .balanceControl _ _ => none
  | .bimbWindowEnd _ _ => none
  | .timingReplay _ _ _ => none
  | .faultPost _ => none
  | .terminalFaultStop _ _ => none
  | .fltrespCont _ _ => none
  | .fltrespSave _ _ => none
  | .fltrespKill _ _ => none
  | .scrub _ _ _ => none
  | .pinHoldTimeout _ _ => none
  | .linkLostNotice _ => none
  | .linkRetrainFail _ => none
  | .rejoinBeat _ _ => none
  | .nftPortFailover _ _ _ => none
  | .nftUnreachable _ _ _ => none
  | .schedulerCoreFailure _ => none
  | .adoption _ => none
  | .pairTimeout _ => none
  | .grantWindowEnd _ _ _ => none
  | .marginWindowEnd _ _ => none
  | .refreshRateChange _ _ _ => none
  | .ashapeClearBen _ _ => none
  | .ashapeSetBen _ _ => none
  | .bandPowerOff _ _ => none
  | .bandPowerOn _ _ => none
  | .kickset _ _ => none
  | .tlbinvAll _ => none
  | .tlbinvAsid _ _ => none
  | .tlbinvVpn _ _ _ => none
  | .tlbinvDone _ => none
  | .proofEntryWrite _ _ _ => none
  | .syscdone _ _ => none
  | .resync _ _ => none
  | .contactSheetDone _ => none
  | .tickadj _ _ => none
  | .xcat _ _ _ => none
  | .trcbaseEnable _ _ => none
  | .margRecal _ _ => none
  | .peerstRejoin _ _ => none
  | .registerWrite _ _ _ => none
  | .breakpointTick _ _ => none
  | .tapReset => none
  | .tapExtest _ => none
  | .tapIdcode _ => none
  | .tapSamplePreload _ => none
  | .tapMreg _ _ => none
  | .tapRelease _ => none
  | .tapScansel _ _ => none
  | .tapScan _ => none
  | .tapBypass _ _ => none
  | .packageResetRelease => none
  | .bootImageCheck _ _ _ => none
  | .bootRetry _ => none
  | .referenceTick => none
  | .writeAcknowledgement _ _ _ => none
  | .dieResetRelease _ => none
  | .packageLinkTrained _ => none
  | .nftStreamRestart _ _ _ => none
  | .fabricPortLinkUp _ _ => none
  | .dramRefresh _ _ => none

/-- Reading the word at a place: the instruction, and the halfwords after it. -/
def readAt (p : Place) (hs : List Half) : Except Reject (Instr × List Half) :=
  match p with
  | .body st => decodeBody st hs
  | .header => match hs with
    | l :: h :: t => (decodeHeader true (h ++ l)).map fun i => (i, t)
    | _ => .error .truncated
  | .exit => match hs with
    | l :: h :: t => (decodeExit (h ++ l)).map fun i => (i, t)
    | _ => .error .truncated

end Sys2Proof
end

