-- ==== Sys2Proof/Config.lean ====
section
/-! DEFINITION. What an implementation fixes or the manual leaves free: opaque constants without a body, applied to a plain counter of the state or to the operands. No proof can see a value of them. -/

namespace Sys2Proof

/-- The value a `pop` of a poisoned result writes (R382: "an undefined 64-bit value"). Free, by draw. Log entry 3. -/
opaque Config.freeWord : Nat → BitVec 64

/-- The byte at a position of a poisoned row as it is read (R81: "the values of a poisoned row are undefined"). Free, by draw and position. Log entry 3. -/
opaque Config.freeByte : Nat → Nat → BitVec 8

/-- What a management register offset that no register holds returns (the spec states no value). Free, by draw. Log entry 4. -/
opaque Config.freeReg : Nat → BitVec 64

/-- The manufacturer identity that JEP106 assigns to Voari Semiconductor (R352 names it and gives no value). Log entry 5. -/
opaque Config.jep106 : BitVec 11

/-- Does an image's signature verify against the key digest fused in a die (R355)? The spec gives no key. Log entry 120. -/
opaque Config.imageGood : DieId → BootImg → Bool

/-- Length of a die's boundary register in bits (R352 says what it covers and no length). Log entry 5. -/
opaque Config.boundaryLength : Nat

/-- What the boundary register samples at a pin (R352, IEEE 1149.1). Free, by draw and cell. Log entry 5. -/
opaque Config.pinSample : Nat → Nat → Bool

/-- The memory of a die after a reset (R405: "the memory of a die after its reset is undefined"). Free, by draw: any finite list of bytes. Log entry 6. -/
opaque Config.freeMem : Nat → List (Nat × BitVec 8)

/-- The 128-byte lines that a row of the DRAM layers holds (R104 and R339 speak of rows and give no mapping). Log entry 43. -/
opaque Config.dramRow : Nat → List Nat

/-- The step that is taken next when the agenda names none (R106). Free, by draw. Log entry 2. -/
opaque Config.freePick : Nat → Pick

end Sys2Proof
end

