-- ==== Sys2Proof/Machine/State.lean ====
section
/-! DEFINITION. The state of the package: four dies with their slots, memories, gates, engines and schedulers, the links between them, and what the surroundings have queued. Plain data throughout. -/

namespace Sys2Proof.Machine

/-! ## Locations, reads, writes and messages (R85, R97, R105 to R113) -/

/-- Sparse storage: rising keys, no entry equal to what an unlisted key reads as. -/
abbrev Sparse (α : Type) := List (Nat × α)

/-- Where a translated line lies: a physical address of the own die, a peer die's export, or another package's (R85, R97). -/
inductive Loc where
  | here (pa : Nat)
  | peer (h : DieId) (idx gen off : Nat)
  | fab (pkg : BitVec 12) (h : DieId) (idx gen off : Nat)
  deriving DecidableEq, Repr

/-- The page through which an address was translated: its address space, whether it is global, the bits of an address within it. -/
structure Pg where
  asid : Half
  g : Bool
  bits : Nat
  deriving DecidableEq, Repr

/-- No page: a physical access. -/
def Pg.none : Pg := ⟨0, false, 0⟩
/-- Does the page of the address `va` cover `x` in an address space (R92)? -/
def Pg.covers (p : Pg) (asid : Half) (va x : Nat) : Bool := (p.g || p.asid == asid) && va / 2 ^ p.bits == x / 2 ^ p.bits

/-- A piece of an access that lies in one 128-byte line: its place, its virtual address and its length in bytes. -/
structure Piece where
  loc : Loc
  va : Nat
  len : Nat
  /-- Leaf entry whose `D` the first write through a clean TLB entry sets (R89). -/
  dirty : Option Nat
  pg : Pg
  deriving DecidableEq, Repr

/-- A piece with the bytes to write. -/
structure Wr where
  p : Piece
  data : List Byte
  deriving DecidableEq, Repr

/-- Atomic operations (R182). -/
inductive AmoOp where
  | add | and | or | xor | min | max | swap | cas
  deriving DecidableEq, Repr

/-- A 64-byte record copy with its key, the home die and the physical address at the home (R101). -/
structure RecCopy where
  home : DieId
  pa : Nat
  bytes : List Byte
  /-- the address and the page through which it was read (R92) -/
  va : Nat
  pg : Pg
  deriving DecidableEq, Repr

/-- What a read that has been answered does with its bytes. -/
inductive RdKind where
  /-- scalar load: size, sign extension, and the block's own earlier stores over it as (byte index, byte) (R133, R179) -/
  | scalar (size : Nat) (sgn : Bool) (ovr : List (Nat × Byte))
  /-- atomic: its old value (R182) -/
  | amo (w64 : Bool)
  /-- the entry of schedule g of a switch point (R135) -/
  | sched (g : Nat)
  /-- window fill register i of s16..s23 (R138) -/
  | fill (i : Nat)
  /-- part of an assembled transfer: byte offset within it (R91) -/
  | part (key : Nat) (at_ : Nat)
  /-- record copy (R101, R121) -/
  | record
  /-- a system core's load (R107) -/
  | sys
  /-- a read whose block has been discarded: its answer does nothing -/
  | dropped
  deriving DecidableEq, Repr

/-- A read (or atomic) of an agent. `tag` names its destination; `word` packs the block, word and unit that issued it (R402). -/
structure Rd where
  tag : Nat
  p : Piece
  kind : RdKind
  word : Nat
  seq : W32
  deriving DecidableEq, Repr

/-- One entry of a store buffer (R105, R107). -/
inductive SbOp where
  /-- a write: all pieces of one row, or one scalar (R109); `psn`: written from a poisoned row (R394) -/
  | write (ws : List Wr) (psn : Bool) (word : Nat) (seq : W32)
  /-- the zeros of `freeh` (R104) over physical line ranges, start and length, with the pieces whose leaves they dirty -/
  | freeh (rs : List (Nat × Nat)) (ds : List Piece) (word : Nat) (seq : W32)
  /-- an atomic: operand, compare value, width (R114, R182) -/
  | amo (r : Rd) (op : AmoOp) (w64 : Bool) (b x : Word)
  /-- the fence an atomic with `rel` or `full` carries before it (R183): `full` or `rel`, scope .c .d .k .f, and how many entries of each queue had been pushed -/
  | relGate (full : Bool) (scope : BitVec 2) (ps : Vector W32 6)
  /-- the fence an atomic with `acq` or `full` carries after it (R114, R183) -/
  | acqGate
  /-- semaphore write or add of the slot's own sync unit (R189) -/
  | sem (set : Bool) (i : Fin 32) (v : W32)
  /-- semaphore increment of a slot of a die (R270, R271) -/
  | seminc (h : DieId) (k : SlotId) (i : Fin 32)
  /-- increment of an arrival counter at a peer (R292) -/
  | arrive (h : DieId) (grp : BitVec 12) (aslot : Fin 64)
  /-- token signal (R188) -/
  | tsig (mask : Byte) (blk word : Nat) (seq : W32)
  /-- system call post (R203): argument and semaphore -/
  | sysc (arg : Word) (sem : Fin 32) (ps : Vector W32 6)
  /-- fabric write or increment of a copy or collective entry (R124) -/
  | fab (pkg : BitVec 12) (h : DieId) (m : FabMsg) (p : Piece) (word : Nat) (seq : W32)
  deriving DecidableEq, Repr

/-- Messages between the dies of the package (R110, R112, R113, R120, R123, R402, R404, R407). -/
inductive Msg where
  | write (a : Agent) (key : Nat) (n : Nat) (stamp : Vector Nat 4) (ws : List (Nat × Nat × Nat × List Byte)) (psn : Bool)
  | amo (a : Agent) (key : Nat) (n : Nat) (stamp : Vector Nat 4) (idx gen off : Nat) (op : AmoOp) (w64 : Bool) (b x : Word)
  | seminc (a : Agent) (key : Nat) (n : Nat) (stamp : Vector Nat 4) (k : SlotId) (i : Fin 32)
  | arrive (a : Agent) (key : Nat) (n : Nat) (stamp : Vector Nat 4) (grp : BitVec 12) (aslot : Fin 64)
  | read (a : Agent) (key : Nat) (n : Nat) (stamp : Vector Nat 4) (idx gen off len : Nat)
  | inval (n : Nat) (stamp : Vector Nat 4) (pa : Nat)
  | beat (n : Nat)
  | reply (a : Agent) (key : Nat) (n : Nat) (g : Vector Nat 4) (data : List Byte) (psn : Bool) (pa : Nat)
  | ack (a : Agent) (key : Nat)
  /-- tracker refusal, with the ticket of a second refusal (R123) -/
  | trkRefuse (m : Msg) (ticket : Option Nat)
  /-- ticket call (R123) -/
  | call (ticket : Nat)
  /-- refusal under the checks of R97, with its cause (R402) -/
  | refuse (a : Agent) (key : Nat) (n : Nat) (cause : Nat) (idx : Nat)
  /-- resend marker (R402) -/
  | marker (a : Agent)
  | rejoin (n : Nat)
  /-- the home has no such address: its answer is a bus error (R85; log entry 122) -/
  | bus (a : Agent) (key : Nat) (n : Nat)
  /-- link-lost notice: the source enters reset (R404) -/
  | linkLost
  /-- scheduler-failure notice of the source (R415) -/
  | schedFail
  deriving DecidableEq, Repr

/-- A message on its way: source and destination die (R12). -/
structure Hop where
  src : DieId
  dst : DieId
  m : Msg
  deriving DecidableEq, Repr

/-- A request sent to a peer and not yet answered or acknowledged. -/
structure Sent where
  key : Nat
  home : DieId
  /-- the read or atomic that waits for the answer; none for a write or increment -/
  rd : Option Rd
  /-- what to send again if the home refuses it (R402) -/
  op : SbOp
  word : Nat
  seq : W32
  /-- the fault that it raises if it is not performed: 24, or 23 where poison or a bus error met it (R85, R394, R402) -/
  code : Nat
  /-- its virtual address, as a fault record names it -/
  va : Nat
  deriving DecidableEq, Repr

/-- An assembled transfer of an engine: a row, chunk, record or image that waits for its parts (R91, R270). -/
structure Asm where
  key : Nat
  want : Nat
  got : List (Nat × List Byte)
  psn : Bool
  /-- ranges that came from poisoned lines: offset and length -/
  bad : List (Nat × Nat)
  deriving DecidableEq, Repr

/-- Access state of an agent: store buffer, reads not yet taken, pending set, transfers (R105, R107). -/
structure AgentSt where
  sb : List SbOp
  rd : List Rd
  pend : List Sent
  asm : List Asm
  /-- requests a home refused, held for the resend (R402) -/
  refused : List Sent
  /-- next key of a request of this agent -/
  nkey : Nat
  /-- completed accesses of a system core, latest first: the bytes of a load, or none where it took an access fault exception (R85, R107, R395) -/
  out : List (Nat × Option (List Byte))
  deriving DecidableEq, Repr

def AgentSt.empty : AgentSt := ⟨[], [], [], [], [], 0, []⟩

/-! ## Faults of the spec (R362 to R369) -/

/-- What a failing agent reports (R365). -/
structure FaultAt where
  code : Nat
  blk : Word
  word : Word
  addr : Word
  seq : W32
  unit : Nat
  info : Word
  deriving DecidableEq, Repr

/-- The 64-byte fault record (R365). -/
structure FaultRec where
  asid : Half
  code : Nat
  agent : Nat
  slot : SlotId
  rpl : Bool
  node : Half
  coord : BitVec 48
  blk : Word
  word : Word
  addr : Word
  seq : W32
  unit : W32
  info : Word
  tick : Word
  deriving DecidableEq, Repr

/-- A fault that holds an agent: its record, the ring index once posted, a response kept for a swapped-out block (R366, R368). -/
structure PFault where
  r : FaultRec
  idx : Option Byte
  /-- 0 `CONT`, 1 `SAVE` -/
  kept : Option Nat
  deriving DecidableEq, Repr

/-- Who an unanswered ring index belongs to (R366, R368). -/
structure RingOwner where
  lid : Nat
  blk : Nat
  sidx : Nat
  agent : Nat
  deriving DecidableEq, Repr

/-! ## Tile registers, ports, array (R43, R65, R68, R102) -/

/-- A tile register: tag, full bits, poison bits, 64 rows of 512 bytes (key 512 row + byte), sidecar (key 192 row + byte) (R25, R65, R68, R81). -/
structure Tile where
  tag : Tag
  full : BitVec 64
  psn : BitVec 64
  data : Sparse Byte
  side : Sparse Byte
  deriving DecidableEq, Repr

/-- At pick-up: RAW, every row full and zero (R25). -/
def Tile.fresh : Tile := ⟨0, BitVec.allOnes 64, 0, [], []⟩

/-- The parameters of a configured port (R102, R165). -/
structure PortCfg where
  base : Nat
  cnt : Vector Nat 4
  str : Vector Int 4
  tag : Tag
  dir : Bool
  sco : Int
  deriving DecidableEq, Repr

/-- A row as it travels: 512 bytes, 192 scale bytes, poison. -/
structure RowVal where
  data : List Byte
  side : List Byte
  psn : Bool
  deriving DecidableEq, Repr

/-- A fetched row of a read port: its contents and pinned lines, or the fault its fetch met (R103, R388). -/
structure Fetched where
  row : RowVal
  pins : List Nat
  bad : Option (Nat × Nat)
  /-- the engine the row was fetched for (R107) -/
  by_ : SlotEng
  /-- its number, and the pieces' addresses with their pages (R92) -/
  id : Nat
  vas : List (Nat × Pg)
  deriving DecidableEq, Repr

/-- A port: configuration, walker indices, fetched rows (R102). -/
structure Port where
  cfg : Option PortCfg
  ix : Vector Nat 4
  rows : List Fetched
  /-- a row whose lines are being read: those to come, each with its offset in the row and its scales, and what has been read (R116) -/
  part : Option (List (Nat × Piece) × Fetched)
  deriving DecidableEq, Repr

def Port.empty : Port := ⟨none, .replicate 4 0, [], none⟩

/-- Semirings (R58, R254). -/
inductive Semi where
  | plusTimes | minPlus | maxPlus | maxTimes | orAnd
  deriving DecidableEq, Repr

/-- A chain row (R50). -/
structure ChainRow where
  tag : Tag
  data : List Byte
  psn : Bool
  deriving DecidableEq, Repr

/-- The array side of a slot: accumulator bank (key 512 row + column), weights (key 128 column + byte), weight scales (key 8 column + j), poison bits, and the two tiles' codebooks (R43, R47, R249). -/
structure Bank where
  acc : Sparse W32
  accPsn : BitVec 128
  wts : Sparse Byte
  wsc : Sparse (BitVec 24)
  wPsn : BitVec 512
  cb : Vector (Sparse Byte) 2
  cbPsn : Vector Bool 2
  deriving DecidableEq, Repr

def Bank.fresh : Bank := ⟨[], 0, [], [], 0, .replicate 2 [], .replicate 2 false⟩

/-- A slot's place in the die's layout: its byte of `ALAYOUT`, and, where it is a base slot, its fragment's semiring, weight format, chain link and chain buffer (R44, R47, R50, R52, R249). -/
structure Lay where
  v : Bool
  shape : Fin 6
  base : SlotId
  semi : Semi
  wfmt : Tag
  dst : Option SlotId
  buf : List ChainRow
  deriving DecidableEq, Repr

def Lay.none : Lay := ⟨false, 0, 0, .plusTimes, 0, Option.none, []⟩

/-! ## Entries and engine runs (R134, R185, R186, R369) -/

/-- A pushed entry (R185) with its seed (R73) and sequence number (R369). -/
structure Entry where
  hdr : Word
  e : Vector Word 8
  wait : Byte
  sig : Byte
  seed : W32
  seq : W32
  /-- a fault met while the entry was tentative: virtual address and code (R32) -/
  held : Option (Nat × Nat)
  deriving DecidableEq, Repr

/-- An engine at work on an entry's block (R132, R134, R264, R320). -/
structure Run where
  ent : Entry
  /-- the pushing slot -/
  slot : SlotId
  /-- header address of the block being run: the entry's, or a step's (R289) -/
  blk : Word
  /-- body words with their halfword offset from the header -/
  code : List (Nat × Instr)
  pos : Nat
  iter : Nat
  count : Nat
  /-- the current instruction has started -/
  started : Bool
  /-- next unit of the current instruction -/
  unit : Nat
  /-- part of the unit done: 0 not issued, 1 waiting for reads -/
  part : Nat
  /-- rows written by the entry (R225, R261); of a multicast, its number (R272); of a `ksend`, its query's -/
  rw : Nat
  flags : BitVec 7
  /-- the record copy of the instruction (R214), and those the entry has read (R101) -/
  rcpy : Option RecCopy
  copies : List RecCopy
  /-- the tick at which the entry started (R288) -/
  t0 : Word
  /-- a row read once for the whole instruction (R222, R235) -/
  bc : Option RowVal
  /-- rows popped from a source port for the destination row under way (R236) -/
  buf : List RowVal
  /-- format taken from the source tag at the start (R236) -/
  src : Tag
  /-- values already reduced (R245) -/
  red : List (W32 × Bool)
  /-- multicast: lines sent, aggregated answers, refusing members, members that answer a line (R272, R284); of a copy: row and offset in it (R270) -/
  mSent : Nat
  mAck : Nat
  mNak : List Nat
  mAll : Nat
  /-- of a multicast: members of the group as its entry was read at the start, and the die's own index among them (R300, R414); of a `ksend`: four times the package, plus the die, of its destination (R410) -/
  mGrp : Nat × Option Nat
  deriving DecidableEq, Repr

/-! ## The strand on a slot (R20 to R34, R133, R138, R169, R170) -/

/-- A scalar register: value, and the tag of the access that will fill it while it is empty (R170). -/
structure SReg where
  val : Word
  wait : Option Nat
  deriving DecidableEq, Repr

/-- s0 to s31 and p0 to p7 (p0 reads true) (R169). -/
structure Regs where
  x : Vector SReg 32
  p : Vector Bool 8
  deriving DecidableEq, Repr

def Regs.fresh : Regs := ⟨.replicate 32 ⟨0, none⟩, .replicate 8 false⟩

/-- What a CTL block holds until it commits, in the order written (R133). -/
inductive CtlOp where
  | store (w : Wr) (word : Nat)
  | amo (r : Rd) (op : AmoOp) (w64 : Bool) (ord scope : BitVec 2) (b x : Word)
  | sem (set : Bool) (i : Fin 32) (v : W32)
  | tsig (mask : Byte) (word : Nat)
  | enq (q : Fin 6) (hdr : Word) (e : Vector Word 8) (wait sig : Byte) (word : Nat)
  | mlease
  | mrlse
  | arv (scope : BitVec 2)
  | hint (node : Half)
  | csrw (csr : BitVec 10) (v : Word)
  | sysc (arg : Word) (sem : Fin 32)
  | freeh (rs : List (Nat × Nat)) (ds : List Piece) (word : Nat)
  deriving DecidableEq, Repr

/-- First-word waits (R195). -/
inductive WaitC where
  | twait (mask : Byte)
  | sem (i : Fin 32) (v : W32)
  /-- visibility of a launch -/
  | wpv (lid : Nat)
  | wtb (scope : BitVec 2) (c : W32)
  | rfence
  | fence (kind : BitVec 2) (scope : BitVec 3) (ps : Vector W32 6)
  deriving DecidableEq, Repr

/-- Drain events a block requests (R46, R192). -/
inductive DrainReq where
  | split (a : Word)
  | fuse (a : Word)
  | chain (a b : Word)
  | unchain (a : Word)
  deriving DecidableEq, Repr

/-- Suspension requests (R22). -/
inductive SuspReq where
  | susp
  | sem (i : Fin 32) (v : W32)
  | wpv (node : Half) (lid : Nat)
  deriving DecidableEq, Repr

/-- The successor a block's exits select (R136 to R138). -/
inductive Succ where
  | undecided
  | fall
  | addr (a : Word) (word : Nat)
  | call (a : Word) (word : Nat)
  | ret (a : Word) (word : Nat)
  | stop (word : Nat)
  deriving DecidableEq, Repr

/-- The phase of the open block. -/
inductive Phase where
  | body | exits (n : Nat) | ready | draining
  deriving DecidableEq, Repr

/-- The CTL block being run (R132, R133). Positions are halfwords from the header. -/
structure Open where
  hdr : Word
  len : Nat
  nex : Nat
  sw : Option Nat
  first : Nat
  count : Nat
  iter : Nat
  pos : Nat
  phase : Phase
  /-- first word that fails a check made before any effect: position (R132, R149) -/
  bad : Option Nat
  regs : Regs
  ops : List CtlOp
  /-- tokens taken by `twait` (R188) -/
  toks : Byte
  wait : Option WaitC
  /-- `NA` of the waiting word -/
  waitNa : BitVec 2
  /-- results reserved: queue, and the tag of an unfilled register (R190) -/
  resv : List (Fin 4 × Option Nat)
  nst : Nat
  npush : Vector Nat 6
  drain : Option (DrainReq × Nat)
  /-- affected slots of a drain event under way (R46) -/
  aff : List SlotId
  susp : Option (SuspReq × Nat)
  /-- `trap` words with their cause and `eret` words, by position, as executed (R202) -/
  traps : List (Option Word × Nat)
  succ : Succ
  /-- window fills that have arrived (R138) -/
  fill : List (Nat × Word)
  fillAsked : Bool
  /-- the schedule entry of a switch point: asked for, and its column and value (R135) -/
  schedAsked : Bool
  sched : Option (Nat × Word)
  deriving DecidableEq, Repr

/-- The CSRs of a strand (R75, R139, R201, R382). -/
structure Csrs where
  wsp : Word
  wlim : Word
  wdepth : Byte
  vflags : BitVec 7
  thnd : Word
  tepc : Word
  tcause : Word
  hm : Bool
  psnst : BitVec 5
  deriving DecidableEq, Repr

def Csrs.zero : Csrs := ⟨0, 0, 0, 0, 0, 0, 0, false, 0⟩

/-- What a slot's strand is doing (R361: 0 idle, 1 running, 2 suspended, 3 stopped, 4 faulted). -/
inductive Act where
  | idle | running | suspended | stopped | faulted
  deriving DecidableEq, Repr

/-- The strand bound to a slot: launch, block and strand index (R19). -/
structure Owner where
  lid : Nat
  blk : Nat
  sidx : Nat
  deriving DecidableEq, Repr

/-- The control core of a slot. -/
structure Ctl where
  act : Act
  own : Option Owner
  pc : Word
  ccnt : W32
  rng : W32
  regs : Regs
  csr : Csrs
  opn : Option Open
  /-- tentative entries of uncommitted successors: queue and entry (R32) -/
  tent : List (Fin 6 × Entry)
  /-- MLSTAT: request, lease held, budget left (R191) -/
  mreq : Bool
  mheld : Bool
  mleft : Nat
  /-- next tag of a pending register -/
  ntag : Nat
  /-- arrivals not yet recorded (R193, R194): scope 0 `.s` by the strand, 1 `.c`, 2 `.d`, 3 `.s` by its entries; store-buffer entries still to leave; pushes to complete -/
  arvs : List (BitVec 2 × Nat × Vector W32 6)
  /-- a fault of a committed block, taken at the next block boundary (R188, R402) -/
  due : Option FaultAt
  /-- an acquire of an atomic holds later accesses until its gate has left the store buffer: its tag (R183) -/
  acq : Option Nat
  deriving DecidableEq, Repr

def Ctl.idle : Ctl :=
  ⟨.idle, none, 0, 0, 0, Regs.fresh, Csrs.zero, none, [], false, false, 0, 0, [], none, none⟩

/-- One result of a result queue with its poison (R190). -/
abbrev Result := Word × Bool

/-- A TLB entry (R90): ASID, global, virtual base, page bits, leaf entry, leaf address, dirty. -/
structure TlbEntry where
  asid : Half
  g : Bool
  va : Nat
  bits : Nat
  pte : Word
  leaf : Nat
  d : Bool
  deriving DecidableEq, Repr

/-- A slot: control core, engines and everything R18 gives the strand. -/
structure Slot where
  ctl : Ctl
  tiles : Vector Tile 16
  ports : Vector Port 8
  toks : Vector Byte 8
  sems : Vector W32 32
  rq : Vector (List Result) 4
  /-- unfilled reservations of committed pops: tags in order (R190) -/
  resv : Vector (List Nat) 4
  /-- LDE, ARE, STE, MXE, CPE, COE (R185) -/
  q : Vector (List Entry) 6
  pseq : Vector W32 6
  cseq : Vector W32 6
  /-- running LDE, ARE, STE; the fragment's sequencer when this is a base slot (R43) -/
  lde : Option Run
  are : Option Run
  ste : Option Run
  mxe : Option Run
  /-- a copy entry, and a direct collective entry, that goes on where a swap stopped it once its engine is free (R298, R322) -/
  cpeAt : Option Run
  coeAt : Option Run
  /-- lease order of the matrix sequencer on a base slot: pushing slots of queued entries (R31) -/
  mord : List SlotId
  agCtl : AgentSt
  agLde : AgentSt
  agSte : AgentSt
  agAre : AgentSt
  agMxe : AgentSt
  bank : Bank
  tlb : List TlbEntry
  recs : List RecCopy
  pmc : Vector Word 16
  pmsel : Vector Byte 16
  pmOwn : Half
  /-- address space of the strand whose record copies the slot holds (R101) -/
  recOwn : Half
  /-- number of the next row a port fetches (R92) -/
  pnid : Nat
  /-- faults held, by AGENT 0 to 7 (R365, R366) -/
  flt : Vector (Option PFault) 8
  /-- stop requested and acknowledged: CTL, LDE, ARE, STE, MXE, CPE, COE (R320, R321) -/
  stop : Vector Bool 7
  acked : Vector Bool 7
  /-- estimate W of the pass streamed in this array cycle, 0 idle (R425) -/
  w : Nat
  deriving DecidableEq, Repr

def Slot.reset : Slot :=
  ⟨Ctl.idle, .replicate 16 Tile.fresh, .replicate 8 Port.empty, .replicate 8 0, .replicate 32 0, .replicate 4 [], .replicate 4 [],
   .replicate 6 [], .replicate 6 0, .replicate 6 0, none, none, none, none, none, none, [],
   AgentSt.empty, AgentSt.empty, AgentSt.empty, AgentSt.empty, AgentSt.empty, Bank.fresh, [], [],
   .replicate 16 0, .replicate 16 0, 0, 0, 0, .replicate 8 none, .replicate 7 false, .replicate 7 false, 0⟩

/-! ## Copy and collective engines (R185, R267 to R299) -/

structure CopyEng where
  run : Option Run
  /-- round-robin: the slot of the cluster served last (R185) -/
  rr : Fin 4
  ag : AgentSt
  tlb : List TlbEntry
  deriving DecidableEq, Repr

def CopyEng.reset : CopyEng := ⟨none, 0, AgentSt.empty, []⟩

/-- Waits of collective words (R290, R297, R410): kind 1 `krecv`, 2 held `ksend`, 4 `kbar`; the tick they began; the timeout. -/
structure KWait where
  kind : Nat
  since : Word
  /-- timeout: ticks run before, whether it runs, and since when -/
  ran : Nat
  on : Bool
  from_ : Word
  deriving DecidableEq, Repr

/-- One step of a timetable (R163). -/
structure KStep where
  trel : Nat
  blk : Word
  tasks : Nat
  ntask : Nat
  deriving DecidableEq, Repr

/-- A timetable context (R285, R288 to R290, R298). -/
structure KCtx where
  ent : Entry
  slot : SlotId
  own : Owner
  tt0 : Nat
  tt : Nat
  next : Nat
  flog2 : Nat
  steps : List KStep
  t0 : Word
  grp : BitVec 12
  nr : Nat
  round : Nat
  frame : Nat
  base : Nat
  /-- the current frame has been entered -/
  inFrame : Bool
  step : Nat
  run : Option Run
  /-- `krel` of the running step has handed its list over -/
  released : Bool
  ofs : Nat
  cause : Nat
  nslip : Nat
  cnts : Vector W32 64
  /-- generations g_B of the barrier groups used, by group (R297) -/
  gens : Sparse W32
  wait : Option KWait
  /-- stopped at a step boundary, and: resumed since, with a step to start (R290, R298) -/
  stopped : Bool
  resumed : Bool
  /-- its groups have been told of its absence by a stop (R298, R410) -/
  away : Bool
  flags : BitVec 7
  deriving DecidableEq, Repr

/-- What a die knows of a barrier member (R297). -/
structure BarMem where
  grp : BitVec 12
  m : Nat
  gen : W32
  absent : Bool
  deriving DecidableEq, Repr

/-- Messages a die has handed to the Nevor fabric transport (R281). -/
inductive NftOut where
  | fab (pkg : BitVec 12) (h : DieId) (m : FabMsg)
  | line (src : FabSrc) (grp : BitVec 12) (off : Nat) (data : List Byte) (last se : Bool) (sslot : SlotId) (sem : Fin 32) (id : Nat)
  | query (pkg : BitVec 12) (h : DieId) (grp : BitVec 12) (n id : Nat)
  | grant (pkg : BitVec 12) (h : DieId) (id : Nat)
  | barArr (grp : BitVec 12) (gen : W32)
  | barAbs (grp : BitVec 12) (absent : Bool)
  | slip (grp : BitVec 12) (delay : Nat)
  /-- an acknowledgement (cause 0) or refusal of a message -/
  | ack (dst : FabSrc) (cause idx : Nat)
  /-- an answer to a multicast line -/
  | mcAck (grp : BitVec 12) (dst : FabSrc) (ok : Bool)
  deriving DecidableEq, Repr

/-- A frame query held until the frame is entered (R292). -/
structure Query where
  grp : BitVec 12
  n : Nat
  id : Nat
  pkg : BitVec 12
  src : DieId
  deriving DecidableEq, Repr

structure Coll where
  ctx : Vector (Option KCtx) 8
  /-- a direct entry (R287) -/
  run : Option Run
  rr : SlotId
  ag : AgentSt
  tlb : List TlbEntry
  bars : List BarMem
  queries : List Query
  grants : List Nat
  nquery : Nat
  /-- requests to the fabric, and responses, which never wait behind them (R280, R281) -/
  out : List NftOut
  outR : List NftOut
  /-- multicast entries of which this member has refused a line: group, sender, the sender's number of the entry (R272, R283) -/
  mcRef : List (BitVec 12 × FabSrc × Nat)
  /-- senders over the fabric whose requests are refused until their marker, with the cause of the refusal that began it (R402) -/
  closed : List (FabSrc × Nat)
  /-- wait of a direct `kbar`, and its generations (R297) -/
  wait : Option KWait
  gens : Sparse W32
  /-- latest context of each slot: its KSTAT and KSLIP (R291) -/
  kstat : Vector Word 8
  kslip : Vector Word 8
  /-- streams declared unreachable: package and die (R412) -/
  unreach : List (BitVec 12 × DieId)
  /-- streams that have left their own port, with the port they use (R412) -/
  moved : List (BitVec 12 × DieId × Nat)
  /-- streams with messages not acknowledged by the transport, and the tick since which (R412) -/
  streams : List ((BitVec 12 × DieId) × Word)
  /-- the strand whose direct entry is, or was last, at work: its slot may be released before the entry has stopped (R298, R321) -/
  own : Option Owner
  deriving DecidableEq, Repr

def Coll.reset : Coll :=
  ⟨.replicate 8 none, none, 0, AgentSt.empty, [], [], [], [], 0, [], [], [], [], none, [], .replicate 8 0, .replicate 8 0, [], [], [], none⟩

/-! ## The causal gate (R105, R111, R123) -/

structure Gate where
  v : Vector Nat 4
  g : Vector Nat 4
  /-- arrival queues per source die -/
  arr : Vector (List Msg) 4
  /-- the head request of a source has taken a tracker entry (R123) -/
  taken : Vector Bool 4
  /-- requests of a source refused by the tracker and not yet handled, in order, each with its ticket (R123) -/
  refd : Vector (List (Msg × Option Nat)) 4
  /-- counts of responses held meanwhile (R123) -/
  owed : Vector Nat 4
  /-- next ticket -/
  ticket : Nat
  /-- tickets whose entry has been reserved and called -/
  called : List Nat
  /-- tracker refusals this die has received, in order: home, request, ticket (R123) -/
  back : List (DieId × Msg × Option Nat)
  /-- agents of a source whose requests are refused until their marker, with the cause of the refusal that began it (R402) -/
  closed : List ((DieId × Agent) × Nat)
  /-- dies once lost: stamps of third dies count as met (R407) -/
  excused : Vector Bool 4
  /-- dies with which a rejoin has been asked for (R407) -/
  want : BitVec 4
  deriving DecidableEq, Repr

def Gate.reset : Gate :=
  ⟨.replicate 4 0, .replicate 4 0, .replicate 4 [], .replicate 4 false, .replicate 4 [], .replicate 4 0, 0, [], [], [], .replicate 4 false, 0⟩

/-- A write held at the vault because a line of it is pinned (R103). -/
structure Held where
  ag : Agent
  /-- the die that issued it -/
  src : DieId
  op : SbOp
  since : Word
  /-- key to acknowledge, for a peer's request -/
  key : Nat
  /-- sender over the fabric, to be acknowledged (R281); none for a multicast line -/
  fab : Option FabSrc
  deriving DecidableEq, Repr

/-! ## The scheduler (R303 to R326) -/

/-- A strand's scheduler state (R20, R27, R193). -/
structure StrandRec where
  fresh : Bool
  done : Bool
  /-- suspended with its wait: kind 0 none, 1 semaphore, 2 visibility -/
  susp : Option (Nat × Fin 32 × W32 × Half)
  /-- bound to its slot -/
  on : Bool
  arvS : W32
  arvE : W32
  arvC : W32
  arvD : W32
  deriving DecidableEq, Repr

def StrandRec.new : StrandRec := ⟨true, false, none, false, 0, 0, 0, 0⟩

/-- What a swapped-out strand keeps beside the layout of R373: arrivals not yet recorded, a due fault, whether it was suspended, the positions of its engines by queue, refused requests by agent number, poison of its results, tags and poison of its chain rows, its fragment's lease order by strand index, the tags of its empty registers, and store-buffer entries that stand behind an unmet release or post. -/
structure SlotAux where
  arvs : List (BitVec 2 × Nat × Vector W32 6)
  due : Option FaultAt
  act : Act
  runs : List (Nat × Run)
  refused : List (Nat × List Sent)
  rqPsn : List (List Bool)
  chain : List (Tag × Bool)
  mord : List Nat
  tags : List (Nat × Nat)
  sb : List SbOp
  deriving DecidableEq, Repr

/-- States of a block (R37), and stopped by a terminal fault (R367). -/
inductive BlkSt where
  | queued | proofWait | early | leased | running | swapped | retired
  deriving DecidableEq, Repr

/-- The layout of a block's fragments and links, by strand index (R48, R373). -/
structure RelLay where
  shape : Fin 6
  base : Nat
  semi : Semi
  wfmt : Tag
  dst : Option Nat
  deriving DecidableEq, Repr

structure Blk where
  l : Nat
  st : BlkSt
  /-- may-start residency not yet released (R314, R315) -/
  earl : Bool
  slots : List SlotId
  recs : List StrandRec
  lay : List RelLay
  /-- a terminal fault's stop (R367): 0 none, 1 stopping, 2 trap record written, 3 killed (R368) -/
  halted : Nat
  /-- unanswered faults of a swapped-out block: (strand index, fault) (R368, R373) -/
  flts : List (Nat × Nat × PFault)
  /-- of a swapped-out block: what R373 gives no place, by strand index, and its collective contexts -/
  aux : List SlotAux
  ctxs : List KCtx
  /-- of a class-0 block to which the start bound of R324 applies: the tick since which it waits to begin its first CTL block -/
  since : Option Word
  /-- of a swapped-out block whose restore has failed: the slots of its new placement, which stay taken (R375) -/
  res : List SlotId
  deriving DecidableEq, Repr

/-- A declared input (R162). -/
structure Input where
  proof : Nat
  goff : Half
  deriving DecidableEq, Repr

inductive NodeSt where
  | active | complete | failed
  deriving DecidableEq, Repr

/-- An accepted launch (R307 to R311, R161). -/
structure Launch where
  id : Nat
  pid : Byte
  asid : Half
  node : Half
  cls : Fin 4
  pwr : Bool
  shape : Fin 6
  entry : Word
  sched : Word
  swcnt : Nat
  param : Word
  gx : Nat
  gy : Nat
  gz : Nat
  gbase : Half
  zw : Nat
  teamsz : Nat
  seed : W32
  csAt : Nat
  spAt : Nat
  spsz : Nat
  cxAt : Nat
  cmpl : Word
  prbase : Nat
  prcnt : Nat
  nbase : Nat
  ncnt : Nat
  /-- predecessors: launch and whether a proof predecessor (R310) -/
  preds : List (Nat × Bool)
  cnt : Nat
  ready : Bool
  mayStart : Bool
  bulk : Bool
  st : NodeSt
  inputs : List (Nat × List Input)
  blks : List Blk
  /-- entry mark at acceptance: tick and snapshot (R345) -/
  mark : Word
  snap : Vector Word 5
  /-- its failure has not been reported: the die's scheduling had no carrier (R415) -/
  untold : Bool
  deriving DecidableEq, Repr

/-- A team (R35, R93): its window bases in 64 KiB units and its slice. -/
structure Team where
  lid : Nat
  t : Nat
  cluster : ClusterId
  wide : Bool
  base0 : Nat
  base1 : Nat
  since : Word
  /-- being swapped out (R321) -/
  leaving : Bool
  /-- stays out until the driver releases it (R349) -/
  barred : Bool
  /-- the slots it has released: it leaves once the collective engine has stopped (R321) -/
  freed : Option (List SlotId)
  /-- where the lines of its save areas that are written last lie: virtual and physical line numbers, as the save found them (R321, R375) -/
  saved : List (Nat × Nat)
  deriving DecidableEq, Repr

structure Sched where
  launches : List Launch
  nextId : Nat
  kick : Vector Bool 256
  kickRr : Byte
  /-- a pass under way: its process, the `TAIL` it has read, the offset of its next record (R306) -/
  pass : Option (Byte × Nat × Nat)
  /-- class queue: launch and block in order (R316) -/
  cq : List (Nat × Nat)
  /-- swap queue: launch and team in order (R36) -/
  sq : List (Nat × Nat)
  /-- slices of a class begun since a team has stood at the head of a swap queue, by 256 class + process (R36) -/
  begun : Sparse Nat
  /-- teams a breakpoint keeps out (R349) -/
  out : List (Nat × Nat)
  rr : Vector Byte 4
  teams : List Team
  /-- exposure accumulators 1 to 5 by process, categories, entry marks (R344) -/
  acc : Sparse (Vector Word 5)
  cat : Sparse (BitVec 3)
  mark : Sparse (Word × Vector Word 5)
  /-- completions held while the scheduler core has failed: launch, block (R416) -/
  cbuf : List (Nat × Nat)
  jseq : W32
  /-- place of the next journal record -/
  jpos : Nat
  /-- die counter sets held live, by ASID, the latest resident first: counters and selectors (R347) -/
  live : List (Half × Vector Word 32 × Vector Byte 32)
  deriving DecidableEq, Repr

def Sched.reset : Sched :=
  ⟨[], 0, .replicate 256 false, 255, none, [], [], [], [], .replicate 4 255, [], [], [], [], [], 0, 0, []⟩

/-! ## Bands, trace, pairing, test port (R53 to R57, R342, R352, R354) -/

/-- A string's controller (R54 to R56, R384). -/
structure Band where
  div : Nat
  /-- undivided cycles since the division began -/
  divFor : Nat
  /-- windows of low imbalance in a row -/
  low : Nat
  /-- cycle of the window, sum, fog seen -/
  cyc : Nat
  sum : Int
  fog : Bool
  /-- cycle count used to place the cycles in which a divided string issues -/
  phase : Nat
  /-- corrected errors in the margining window, and the ticks of it (R338) -/
  ce : Nat
  mw : Nat
  /-- tick of the last uncorrectable error at reduced margin (R386) -/
  drop : Option Word
  deriving DecidableEq, Repr

def Band.reset : Band := ⟨1, 0, 0, 0, 0, false, 0, 0, 0, none⟩

structure Trace where
  last : Word
  resync : Bool
  lost : Nat
  deriving DecidableEq, Repr

/-- A store held by the comparator (R354): which side (true: the primary), agent, address, bytes, tick. -/
structure PairSt where
  prim : Bool
  ag : Agent
  /-- where it goes: the die itself, a peer's export, or the fabric; its size, where no bytes are listed (`freeh`) -/
  dst : Nat × Nat × Nat
  size : Nat
  pa : Nat
  data : List Byte
  tick : Word
  deriving DecidableEq, Repr

/-- The states of the standard TAP controller (IEEE 1149.1, R352). -/
inductive TapSt where
  | reset | idle | selDr | capDr | shDr | ex1Dr | pauDr | ex2Dr | updDr | selIr | capIr | shIr | ex1Ir | pauIr | ex2Ir | updIr
  deriving DecidableEq, Repr

/-- A test access port controller (R352). -/
structure Tap where
  st : TapSt
  /-- the instruction in force, and the register being shifted -/
  ir : Byte
  sh : Byte
  /-- data register as captured, bit 0 first -/
  dr : List Bool
  /-- the boundary cells' update latch, which EXTEST drives onto the pins -/
  latch : List Bool
  chain : Byte
  mdone : Bool
  mdata : Word
  deriving DecidableEq, Repr

def Tap.reset : Tap := ⟨.reset, 1, 1, [], [], 0, true, 0⟩

/-- A posted system call (R358, R359). -/
structure Call where
  idx : Byte
  own : Owner
  slot : SlotId
  sem : Fin 32
  deriving DecidableEq, Repr

/-- What used a translation: an access of an agent, by its page, the place that issued it and its home, or a numbered row a port holds pinned (R92). -/
inductive TlbUse where
  | acc (a : Agent) (pg : Pg) (va word : Nat) (seq : W32) (home : Option DieId)
  | pin (k : SlotId) (id : Nat) (pg : Pg) (va : Nat)
  deriving DecidableEq, Repr

/-! ## A die and the package -/

structure Die where
  slots : Vector Slot 8
  lay : Vector Lay 8
  /-- die memory and vaults by physical address; an unlisted byte reads 0 (log entry 8) -/
  mem : List Host.Cell
  /-- poisoned 128-byte lines, and lines marked free (R81, R104) -/
  psn : List Nat
  /-- lines of LPDDR6 that the scrub has found in error and poisoned beneath a clean cached copy, which still serves the reads (R393, R396) -/
  under : List Nat
  free : List Nat
  cpe : Vector CopyEng 2
  coe : Coll
  sys : Vector AgentSt 4
  /-- a fence of a system core that has not yet been taken (R107) -/
  sysWait : Vector Bool 4
  gate : Gate
  held : List Held
  proofs : Sparse W32
  /-- management registers written so far, by offset; an unlisted one holds its reset value (R4) -/
  reg : Sparse Word
  sched : Sched
  bands : Vector Band 4
  /-- temperature of each DRAM bank in °C, and its refresh rate: 0 half, 1 nominal, 2 twice, 3 four times (R339) -/
  bankTemp : Vector Nat 64
  bankRate : Vector (Fin 4) 64
  trace : Trace
  pair : List PairSt
  /-- unanswered fault records by ring index (R366) -/
  ring : Sparse RingOwner
  calls : List Call
  /-- indices of the two rings that `HEAD` has not passed (R359, R366) -/
  fltUnread : List Byte
  callUnread : List Byte
  walkc : Sparse Word
  /-- lines that instruction fetch keeps, by TLB and line number (R125) -/
  icode : List (TlbId × Nat × List Byte)
  /-- ticks since the die last sent its beats (R113), and of the grant window (R333) -/
  beatAge : Nat
  grantAge : Nat
  /-- accesses and pins that used an entry the last `TLBINV` dropped, and the dies whose accesses were completed as lost meanwhile (R92, R405, R406) -/
  tlbWait : List TlbUse
  /-- a contact sheet taken and not yet applied: its address and bytes (R360) -/
  sheet : Option (Nat × List Byte)
  tlbLost : BitVec 4
  /-- the image the boot ROM has fetched, and the wait after a check that failed (R355) -/
  boot : Option BootImg
  /-- ticks of the reference since then -/
  bootAge : Nat
  /-- clocks gated by a shutter stop (R350) -/
  gated : Bool
  /-- in reset: the die runs nothing (R404) -/
  inReset : Bool
  tap : Tap
  /-- scheduler core x0 to x31 and pc; system cores x0 to x31, pc, f0 to f31, fcsr (R352) -/
  scx : Vector Word 33
  sysx : Vector (Vector Word 66) 4
  /-- privilege mode of each system core: 3 machine mode (R355) -/
  sysMode : Vector (BitVec 2) 4
  /-- dies whose scheduler-failure notice has arrived (R415) -/
  heard : BitVec 4
  deriving DecidableEq, Repr

def Die.reset : Die :=
  ⟨.replicate 8 Slot.reset, .replicate 8 Lay.none, [], [], [], [], .replicate 2 CopyEng.reset, Coll.reset, .replicate 4 AgentSt.empty,
   .replicate 4 false, Gate.reset, [], [], [], Sched.reset, .replicate 4 Band.reset, .replicate 64 0, .replicate 64 0, ⟨0, false, 0⟩, [], [], [], [], [], [], [], 0, 0, [], none, 0, none, 0, false, false, Tap.reset,
   .replicate 33 0, .replicate 4 (.replicate 66 0), .replicate 4 3, 0⟩

/-- The agent on whose behalf `exec` runs an instruction word. -/
structure Cur where
  die : DieId
  ag : Agent
  /-- collective context 0 to 7, or 8 for the direct entry -/
  ctx : Fin 9
  deriving DecidableEq, Repr

/-- The package. -/
structure State where
  dies : Vector Die 4
  /-- directed package links: die l to die l + 1, and die l + 1 to die l (R10, R12) -/
  east : Vector (List Hop) 4
  west : Vector (List Hop) 4
  /-- steps to take next; when empty, the choice is free (R106) -/
  agenda : List Pick
  cur : Cur
  /-- how many free values have been drawn (the model's own field; log entry 3) -/
  draws : Nat
  /-- a die as it stood at the tick at which a shutter stop gated it, which its scan chains show (R352) -/
  shot : Vector (Option Die) 4
  /-- package link l has been trained since it was last lost (R404, R407) -/
  trained : Vector Bool 4
  deriving DecidableEq, Repr

/-- Reset: every field at the value the spec gives, or at the one the log names. -/
def State.reset : State :=
  ⟨.replicate 4 Die.reset, .replicate 4 [], .replicate 4 [], [], ⟨0, .core 0, 8⟩, 0, .replicate 4 none, .replicate 4 true⟩

/-- Reasons the machine stops. Faults of the spec are next states (R362 to R368); none of these is raised by a step from a state that fits the package. -/
inductive Fault where
  /-- raised by no meaning: the part has no state in which it stops altogether (safe) -/
  | stuck
  deriving DecidableEq, Repr

/-- Reasons an instruction is refused. -/
inductive Refusal where
  /-- An instruction of the table without a meaning in this model, by its mnemonic (safe). -/
  | notModelled (mnemonic : String)
  deriving DecidableEq, Repr

end Sys2Proof.Machine
end

