-- ==== Sys2Proof/Machine/Ops.lean ====
section
/-! DEFINITION. Named operations over the state: vectors, sparse storage, memory and its poison and free marks, management registers, slots and their owners, trace records, and taking a fault, entering a strand's handler and returning from it. -/

namespace Sys2Proof.Machine

/-! ## Vectors and sparse storage -/

def vget {α : Type} {n : Nat} (v : Vector α n) (i : Fin n) : α := v.get i
def vset {α : Type} {n : Nat} (v : Vector α n) (i : Fin n) (a : α) : Vector α n := v.set i.val a i.isLt
def vmod {α : Type} {n : Nat} (v : Vector α n) (i : Fin n) (f : α → α) : Vector α n := vset v i (f (vget v i))

/-- The value at a key of sparse storage; `z` where none is listed. -/
def spGet {α : Type} (z : α) : Sparse α → Nat → α
  | [], _ => z
  | (k, v) :: r, a => if k = a then v else spGet z r a

/-- Sparse storage with the value at one key replaced, kept canonical. -/
def spSet {α : Type} [DecidableEq α] (z : α) (l : Sparse α) (a : Nat) (v : α) : Sparse α :=
  match l with
  | [] => if v = z then [] else [(a, v)]
  | (k, w) :: r =>
    if a < k then (if v = z then (k, w) :: r else (a, v) :: (k, w) :: r)
    else if a = k then (if v = z then r else (a, v) :: r)
    else (k, w) :: spSet z r a v

/-- The canonical form: keys strictly rising, no entry at the default. -/
def spWf {α : Type} [DecidableEq α] (z : α) : Sparse α → Bool
  | [] => true
  | [(_, v)] => v != z
  | (k, v) :: (k', v') :: r => v != z && decide (k < k') && spWf z ((k', v') :: r)

/-- Consecutive keys from `a`. -/
def spRead {α : Type} (z : α) (l : Sparse α) (a : Nat) : Nat → List α
  | 0 => []
  | n + 1 => spGet z l a :: spRead z l (a + 1) n

def spWrite {α : Type} [DecidableEq α] (z : α) (l : Sparse α) (a : Nat) : List α → Sparse α
  | [] => l
  | v :: r => spWrite z (spSet z l a v) (a + 1) r

/-- Everything from key `a` up to `a + n` back at the default. -/
def spErase {α : Type} (l : Sparse α) (a n : Nat) : Sparse α := l.filter fun e => !(a ≤ e.1 && e.1 < a + n)

/-- A rising list of numbers as a set. -/
def setIns (l : List Nat) (a : Nat) : List Nat :=
  match l with
  | [] => [a]
  | k :: r => if a < k then a :: k :: r else if a = k then k :: r else k :: setIns r a
def setDel (l : List Nat) (a : Nat) : List Nat := l.filter fun k => k != a
def setHas (l : List Nat) (a : Nat) : Bool := l.any fun k => k == a

/-! ## Bytes (R1) -/

/-- Little-endian bytes as a number. -/
def leNat : List Byte → Nat
  | [] => 0
  | b :: r => b.toNat + 256 * leNat r
/-- The low `n` bytes of a number, little-endian. -/
def natLe : Nat → Nat → List Byte
  | 0, _ => []
  | n + 1, v => BitVec.ofNat 8 v :: natLe n (v / 256)
def leWord (l : List Byte) : Word := BitVec.ofNat 64 (leNat l)
def wordLe (n : Nat) (w : Word) : List Byte := natLe n w.toNat
def listGet {α : Type} (z : α) (l : List α) (i : Nat) : α := l.getD i z
/-- `l` from `at` on, `n` items. -/
def slice {α : Type} (l : List α) (at_ n : Nat) : List α := (l.drop at_).take n
/-- `l` cut or filled with `z` to `n` items. -/
def padTo {α : Type} (z : α) (n : Nat) (l : List α) : List α := (l ++ List.replicate n z).take n

/-! ## Memory of a die (R84, R85, R104, R394) -/

/-- Memory in canonical form: addresses strictly rising, no zero byte listed. -/
def memWf (m : List Host.Cell) : Bool := spWf (0 : Byte) m

/-- One byte of a die's memory; an unlisted byte reads 0 (log entry 8). -/
def memGet (m : List Host.Cell) (a : Nat) : Byte := spGet (0 : Byte) m a
def memSet (m : List Host.Cell) (a : Nat) (b : Byte) : List Host.Cell := spSet (0 : Byte) m a b
def memRead (m : List Host.Cell) (a n : Nat) : List Byte := spRead (0 : Byte) m a n
def memWrite (m : List Host.Cell) (a : Nat) (bs : List Byte) : List Host.Cell := spWrite (0 : Byte) m a bs

def dieMemTop : Nat := 0x20_0000_0000
def vault0 : Nat := 0x4000_0000_0000
def vault1 : Nat := 0x4000_1000_0000
def vaultTop : Nat := 0x4000_2000_0000

def isDieMem (a : Nat) : Bool := a < dieMemTop
def isVault (a : Nat) : Bool := vault0 ≤ a && a < vaultTop
/-- Memory of the physical map of R85. -/
def isMem (a n : Nat) : Bool := isDieMem (a + n - 1) || (isVault a && isVault (a + n - 1))

def lineOf (a : Nat) : Nat := a / 128

/-- The lines of a range. -/
def linesOf (a n : Nat) : List Nat := if n = 0 then [] else (List.range ((a + n - 1) / 128 + 1 - a / 128)).map (· + a / 128)

/-- One write of bytes lying in one line, at the home: bytes, free mark, poison (R104, R394). -/
def Die.poke (d : Die) (a : Nat) (bs : List Byte) (psn : Bool) : Die :=
  let ln := lineOf a
  { d with
    mem := memWrite d.mem a bs
    free := setDel d.free ln
    under := setDel d.under ln
    psn := if psn then setIns d.psn ln else if bs.length == 128 && a % 128 == 0 then setDel d.psn ln else d.psn }

/-- A write of any length, line by line. -/
def Die.pokes (d : Die) (a : Nat) (bs : List Byte) (psn : Bool) : Die :=
  (linesOf a bs.length).foldl (fun d ln =>
    let lo := max a (128 * ln)
    let hi := min (a + bs.length) (128 * ln + 128)
    d.poke lo (slice bs (lo - a) (hi - lo)) psn) d

def Die.peek (d : Die) (a n : Nat) : List Byte := memRead d.mem a n
def Die.peekNat (d : Die) (a n : Nat) : Nat := leNat (d.peek a n)
def Die.poisoned (d : Die) (a n : Nat) : Bool := (linesOf a n).any fun l => setHas d.psn l

/-- The zeros of `freeh` over one range of lines: bytes zero, lines marked free, poison cleared (R104, R394). -/
def Die.freeLines (d : Die) (a n : Nat) : Die :=
  { d with
    mem := spErase d.mem a n
    psn := d.psn.filter fun l => !(a / 128 ≤ l && l < (a + n) / 128)
    under := d.under.filter fun l => !(a / 128 ≤ l && l < (a + n) / 128)
    free := (linesOf a n).foldl setIns d.free }

/-! ## Management registers (R3, R4 and the register maps) -/

/-- Bits [hi:lo]. -/
def bits (hi lo : Nat) : Word := BitVec.ofNat 64 (2 ^ (hi + 1) - 2 ^ lo)

/-- A register: RW bits, W1C bits, RO bits, reset value. -/
structure RegDesc where
  rw : Word
  w1c : Word
  ro : Word
  reset : Word
  deriving DecidableEq, Repr

abbrev rLEASERUN := 0x040
abbrev rBIMB := 0x0A0
abbrev rFOGCNT := 0x0C0
abbrev rTHRCNT := 0x0E0
abbrev rASIDBASE := 0x100
abbrev rTLBINV := 0x108
abbrev rEXPBASE := 0x110
abbrev rIMPBASE := 0x118
abbrev rNFTCFG := 0x180
abbrev rGRPBASE := 0x188
abbrev rKBTO := 0x190
abbrev rPROCBASE := 0x200
abbrev rQUANT := 0x240
abbrev rC0RES := 0x248
abbrev rPGRAN := 0x250
abbrev rVPOOL0 := 0x260
abbrev rVPOOL1 := 0x268
abbrev rASHAPE := 0x300
abbrev rPGRANT := 0x310
abbrev rPSCHED := 0x318
abbrev rMARG := 0x320
abbrev rCECNT := 0x340
abbrev rDRTEMP := 0x360
abbrev rDRREF := 0x368
abbrev rDRSKIP := 0x370
abbrev rBALST := 0x380
abbrev rARERR := 0x3A0
abbrev rTICK := 0x400
abbrev rTRCBASE := 0x408
abbrev rTRCPTR := 0x410
abbrev rXRING := 0x418
abbrev rXPTR := 0x420
abbrev rPMBASE := 0x430
abbrev rBRKC := 0x440
abbrev rBRKV := 0x448
abbrev rDTICK := 0x480
abbrev rDADDR := 0x488
abbrev rDVALP := 0x490
abbrev rDVALS := 0x498
abbrev rPAIRCTL := 0x4A0
abbrev rPMDSEL := 0x500
abbrev rPMD := 0x600
abbrev rBOOTST := 0x700
abbrev rSYSCQ := 0x710
abbrev rSYSCPTR := 0x718
abbrev rRESYNC := 0x728
abbrev rFLTQ := 0x800
abbrev rFLTPTR := 0x808
abbrev rTRPLCNT := 0x820
abbrev rTLBST := 0x900
abbrev rPEERST := 0x908
abbrev rBULKCNT := 0x910
abbrev rPINTO := 0x918
abbrev rPINST := 0x920
abbrev rMECNT := 0x930
abbrev rMEUEA := 0x950
abbrev rMEMCTL := 0x958
abbrev rRAST := 0x960
abbrev rSCHST := 0x980
abbrev rSJBASE := 0x988
abbrev rNFTST := 0x998
abbrev rSCHERR := 0x9A0

/-- The registers that hold a value of their own, by offset. `none`: no register, a computed view, or write-only. -/
def regDesc (dn : DieId) (off : Nat) : Option RegDesc :=
  let band (base : Nat) : Bool := base ≤ off && off < base + 32 && off % 8 == 0
  if off == rLEASERUN then some ⟨bits 9 0, 0, 0, 63⟩
  else if band rBIMB then some ⟨0, 0, bits 17 0, 0⟩
  else if band rFOGCNT || band rTHRCNT then some ⟨0, 0, bits 63 0, 0⟩
  else if off == rASIDBASE then some ⟨bits 47 20 ||| bits 0 0, 0, 0, 0⟩
  else if off == rTLBINV then some ⟨bits 61 60 ||| bits 55 40 ||| bits 35 0, 0, bits 62 62, 0⟩
  else if off == rEXPBASE || off == rIMPBASE || off == rGRPBASE then some ⟨bits 47 17 ||| bits 0 0, 0, 0, 0⟩
  else if off == rNFTCFG then some ⟨bits 63 52 ||| bits 47 32 ||| bits 2 0, 0, 0, 0x00008A60_00000000⟩
  else if off == rKBTO then some ⟨bits 39 0, 0, 0, 0x3B9ACA00⟩
  else if off == rPROCBASE then some ⟨bits 47 14 ||| bits 0 0, 0, 0, 0⟩
  else if off == rQUANT then some ⟨bits 31 0, 0, 0, 250000⟩
  else if off == rC0RES then some ⟨bits 63 63 ||| bits 7 0, 0, 0, 0⟩
  else if off == rPGRAN then some ⟨bits 1 0, 0, 0, 0⟩
  else if off == rVPOOL0 || off == rVPOOL1 then some ⟨bits 28 16 ||| bits 12 0, 0, 0, 0⟩
  else if off == rASHAPE then some ⟨bits 3 0, 0, bits 11 8, 0xF0F⟩
  else if off == rPGRANT then some ⟨0, 0, bits 47 16 ||| bits 9 8 ||| bits 4 4 ||| bits 2 0, 0⟩
  else if off == rPSCHED then some ⟨bits 7 0, 0, 0, 0xA4⟩
  else if band rMARG then some ⟨bits 31 24 ||| bits 16 8, 0, bits 18 18 ||| bits 7 0, 0x04001000⟩
  else if band rCECNT then some ⟨0, 0, bits 63 0, 0⟩
  else if off == rDRTEMP then some ⟨0, 0, bits 37 32 ||| bits 7 0, 0⟩
  else if off == rDRREF || off == rDRSKIP then some ⟨0, 0, bits 63 0, 0⟩
  else if band rBALST then some ⟨0, 0, bits 31 16 ||| bits 0 0, 0⟩
  else if band rARERR then some ⟨0, 0, bits 63 0, 0⟩
  else if off == rTICK then some ⟨0, 0, bits 63 0, 0⟩
  else if off == rTRCBASE then some ⟨bits 63 63 ||| bits 47 12 ||| bits 5 0, 0, bits 62 62, 12⟩
  else if off == rTRCPTR then some ⟨0, 0, bits 63 0, 0⟩
  else if off == rXRING then some ⟨bits 63 63 ||| bits 47 12 ||| bits 5 0, 0, 0, 12⟩
  else if off == rXPTR then some ⟨bits 55 32, 0, bits 63 56 ||| bits 23 0, 0⟩
  else if off == rPMBASE then some ⟨bits 63 63 ||| bits 47 12, 0, 0, 0⟩
  else if 0x440 ≤ off && off < 0x480 && off % 16 == 0 then some ⟨bits 63 60 ||| bits 16 0, 0, 0, 0⟩
  else if 0x440 ≤ off && off < 0x480 && off % 16 == 8 then some ⟨bits 63 0, 0, 0, 0⟩
  else if off == rDTICK || off == rDVALP || off == rDVALS then some ⟨0, 0, bits 63 0, 0⟩
  else if off == rDADDR then some ⟨0, 0, bits 55 53 ||| bits 50 0, 0⟩
  else if off == rPAIRCTL then some ⟨bits 63 63 ||| bits 61 61 ||| bits 1 0, 0, bits 62 62, 0⟩
  else if 0x500 ≤ off && off < 0x600 && off % 8 == 0 then some ⟨bits 7 0, 0, 0, 0⟩
  else if 0x600 ≤ off && off < 0x700 && off % 8 == 0 then some ⟨bits 63 0, 0, 0, 0⟩
  else if off == rBOOTST then some ⟨0, 0, bits 15 8 ||| bits 2 0, 0⟩
  else if off == rSYSCQ then some ⟨bits 63 63 ||| bits 47 13, 0, 0, 0⟩
  else if off == rSYSCPTR || off == rFLTPTR then some ⟨bits 23 16, 0, bits 7 0, 0⟩
  else if off == rRESYNC then some ⟨bits 47 12, 0, bits 62 62, 0⟩
  else if off == rFLTQ then some ⟨bits 63 63 ||| bits 47 14, 0, 0, 0⟩
  else if band rTRPLCNT then some ⟨0, 0, bits 63 0, 0⟩
  else if off == rTLBST then some ⟨0, 0, bits 7 4 ||| bits 1 0, 0⟩
  else if off == rPEERST then some ⟨0, 0, bits 3 0, 0⟩
  else if off == rBULKCNT then some ⟨0, 0, bits 63 0, 0⟩
  else if off == rPINTO then some ⟨bits 39 0, 0, 0, 0xF4240⟩
  else if off == rPINST || off == rPINST + 8 then some ⟨0, bits 63 63, bits 47 0, 0⟩
  else if band rMECNT then some ⟨0, 0, bits 63 0, 0⟩
  else if off == rMEUEA then some ⟨0, bits 63 63, bits 62 60 ||| bits 47 0, 0⟩
  else if off == rMEMCTL then some ⟨bits 1 0, 0, 0, 2⟩
  else if off == rRAST then some ⟨0, 0, bits 63 50 ||| bits 47 0, 0⟩
  else if off == rSCHST then
    some ⟨0, 0, bits 63 62 ||| bits 59 56 ||| bits 9 8, BitVec.ofNat 64 (2 ^ (56 + dn.val) + 256 * dn.val)⟩
  else if off == rSJBASE then some ⟨bits 63 63 ||| bits 47 16, 0, 0, 0⟩
  else if off == rNFTST then some ⟨0, 0, bits 63 50 ||| bits 47 16 ||| bits 2 0, 0⟩
  else if off == rSCHERR then some ⟨0, bits 63 63, bits 15 8 ||| bits 2 0, 0⟩
  else none

/-- The value a register holds: as last written or set, or its reset value (R4). -/
def Die.reg? (d : Die) (off : Nat) : Option Word := (d.reg.find? fun e => e.1 == off).map (·.2)
def regReset (dn : DieId) (off : Nat) : Word := match regDesc dn off with | some r => r.reset | none => 0
def Die.getReg (d : Die) (dn : DieId) (off : Nat) : Word := (d.reg? off).getD (regReset dn off)

/-- Rising association list with one key replaced. -/
def regIns (l : Sparse Word) (off : Nat) (v : Word) : Sparse Word :=
  match l with
  | [] => [(off, v)]
  | (k, w) :: r => if off < k then (off, v) :: (k, w) :: r else if off = k then (k, v) :: r else (k, w) :: regIns r off v

/-- The device sets a register. -/
def Die.setReg (d : Die) (off : Nat) (v : Word) : Die := { d with reg := regIns d.reg off v }
def Die.addReg (d : Die) (dn : DieId) (off : Nat) (v : Word) : Die := d.setReg off (d.getReg dn off + v)
/-- Field [lo + len - 1 : lo] of a register. -/
def Die.rf (d : Die) (dn : DieId) (off lo len : Nat) : Nat := fld (d.getReg dn off) lo len
/-- The device sets one field of a register. -/
def putFld (w : Word) (lo len v : Nat) : Word :=
  (w &&& ~~~ (bits (lo + len - 1) lo)) ||| (BitVec.ofNat 64 (v % 2 ^ len) <<< lo)
def Die.setRf (d : Die) (dn : DieId) (off lo len v : Nat) : Die := d.setReg off (putFld (d.getReg dn off) lo len v)

def Die.tick (d : Die) (dn : DieId) : Word := d.getReg dn rTICK

/-! ## Rows fetched ahead (R103) -/

/-- The walker stepped back one row. -/
def PortCfg.prev (c : PortCfg) (ix : Vector Nat 4) : Vector Nat 4 :=
  ((List.finRange 4).foldl (fun (q : Vector Nat 4 × Bool) k =>
    if q.2 then (if vget q.1 k = 0 then (vset q.1 k (vget c.cnt k - 1), true) else (vset q.1 k (vget q.1 k - 1), false)) else q) (ix, true)).1

/-- A port with its rows fetched ahead given back: pins released, the walker at the first of them (R103, R321). -/
def Port.release (p : Port) : Port :=
  match p.cfg with
  | none => { p with rows := [], part := none }
  | some c => { p with rows := [], part := none, ix := (p.rows.filter (·.bad.isNone)).foldl (fun ix _ => c.prev ix) p.ix }

/-- What a suspension, pre-emption or trap of the strand does to its ports (R103). -/
def Slot.dropRows (t : Slot) : Slot := { t with ports := t.ports.map Port.release }

/-! ## Dies and slots of the package -/

def State.die (s : State) (d : DieId) : Die := vget s.dies d
def State.modDie (s : State) (d : DieId) (f : Die → Die) : State := { s with dies := vmod s.dies d f }
def Die.slot (d : Die) (k : SlotId) : Slot := vget d.slots k
def Die.modSlot (d : Die) (k : SlotId) (f : Slot → Slot) : Die := { d with slots := vmod d.slots k f }
def State.slot (s : State) (d : DieId) (k : SlotId) : Slot := (s.die d).slot k
def State.modSlot (s : State) (d : DieId) (k : SlotId) (f : Slot → Slot) : State := s.modDie d (·.modSlot k f)
def Slot.modCtl (t : Slot) (f : Ctl → Ctl) : Slot := { t with ctl := f t.ctl }
def State.ctl (s : State) (d : DieId) (k : SlotId) : Ctl := (s.slot d k).ctl
def State.modCtl (s : State) (d : DieId) (k : SlotId) (f : Ctl → Ctl) : State := s.modSlot d k (·.modCtl f)
def State.modSched (s : State) (d : DieId) (f : Sched → Sched) : State := s.modDie d fun x => { x with sched := f x.sched }
def State.tick (s : State) (d : DieId) : Word := (s.die d).tick d

/-- A fresh free draw: its number, and the state that has drawn it. -/
def State.draw (s : State) : Nat × State := (s.draws, { s with draws := s.draws + 1 })

def allSlots : List SlotId := [0, 1, 2, 3, 4, 5, 6, 7]
def allDies : List DieId := [0, 1, 2, 3]
def clusterOf (k : SlotId) : ClusterId := if k.val < 4 then 0 else 1
def bandOf (k : SlotId) : Fin 4 := ⟨k.val / 2, by omega⟩
def mkSlot (n : Nat) : SlotId := ⟨n % 8, Nat.mod_lt _ (by decide)⟩
def mkDie (n : Nat) : DieId := ⟨n % 4, Nat.mod_lt _ (by decide)⟩

/-- The launch, block and strand of a slot. -/
def Sched.launch (c : Sched) (lid : Nat) : Option Launch := c.launches.find? fun l => l.id == lid
def Launch.blk (l : Launch) (b : Nat) : Option Blk := l.blks.find? fun x => x.l == b
def Die.ownLaunch (d : Die) (k : SlotId) : Option Launch := match (d.slot k).ctl.own with | some o => d.sched.launch o.lid | none => none
def Die.ownBlk (d : Die) (k : SlotId) : Option Blk :=
  match (d.slot k).ctl.own with
  | some o => match d.sched.launch o.lid with | some l => l.blk o.blk | none => none
  | none => none
def Launch.modBlk (l : Launch) (b : Nat) (f : Blk → Blk) : Launch := { l with blks := l.blks.map fun x => if x.l == b then f x else x }
def Sched.modLaunch (c : Sched) (lid : Nat) (f : Launch → Launch) : Sched :=
  { c with launches := c.launches.map fun l => if l.id == lid then f l else l }
def Sched.modBlk (c : Sched) (lid b : Nat) (f : Blk → Blk) : Sched := c.modLaunch lid (·.modBlk b f)
def Blk.modRec (b : Blk) (i : Nat) (f : StrandRec → StrandRec) : Blk := { b with recs := b.recs.modify i f }
def Launch.teamOf (l : Launch) (b : Nat) : Nat := b / l.teamsz
def Sched.team (c : Sched) (lid t : Nat) : Option Team := c.teams.find? fun x => x.lid == lid && x.t == t
def Sched.modTeam (c : Sched) (lid t : Nat) (f : Team → Team) : Sched :=
  { c with teams := c.teams.map fun x => if x.lid == lid && x.t == t then f x else x }
def Die.asidOf (d : Die) (k : SlotId) : Half := match d.ownLaunch k with | some l => l.asid | none => 0
/-- Block coordinate (R309): BX, BY, BZ. -/
def Launch.coord (l : Launch) (b : Nat) : BitVec 48 :=
  BitVec.ofNat 48 (b % l.gx + 65536 * (b / l.gx % l.gy) + 65536 * 65536 * (b / l.gx / l.gy))

/-- Strands of a shape (R18) and its bands and sides (R42). -/
def shapeStrands (sh : Fin 6) : Nat := match sh.val with | 0 => 1 | 1 => 2 | 2 => 2 | 3 => 4 | 4 => 4 | _ => 8
def shapeBands (sh : Fin 6) : Nat := match sh.val with | 0 => 1 | 1 => 1 | 2 => 2 | 3 => 2 | _ => 4
def shapeSides (sh : Fin 6) : Nat := match sh.val with | 0 => 1 | 1 => 2 | 2 => 1 | 3 => 2 | 4 => 1 | _ => 2
/-- The slots of a shape placed on a base slot, if it is a placement of R42. -/
def placement (sh : Fin 6) (b : SlotId) : Option (List SlotId) :=
  match sh.val, b.val with
  | 0, _ => some [b]
  | 1, 0 => some [0, 1] | 1, 2 => some [2, 3] | 1, 4 => some [4, 5] | 1, 6 => some [6, 7]
  | 2, 0 => some [0, 2] | 2, 1 => some [1, 3] | 2, 4 => some [4, 6] | 2, 5 => some [5, 7]
  | 3, 0 => some [0, 1, 2, 3] | 3, 4 => some [4, 5, 6, 7]
  | 4, 0 => some [0, 2, 4, 6] | 4, 1 => some [1, 3, 5, 7]
  | 5, 0 => some [0, 1, 2, 3, 4, 5, 6, 7]
  | _, _ => none

def Die.layOf (d : Die) (k : SlotId) : Lay := vget d.lay k
/-- The base slot of the fragment a slot belongs to (R43). -/
def Die.baseOf (d : Die) (k : SlotId) : SlotId := (d.layOf k).base
def Die.modLay (d : Die) (k : SlotId) (f : Lay → Lay) : Die := { d with lay := vmod d.lay k f }
/-- The slots of the fragment based at a slot. -/
def Die.fragSlots (d : Die) (b : SlotId) : List SlotId := allSlots.filter fun k => (d.layOf k).v && (d.layOf k).base == b

/-- `ALAYOUT` (R44): a gated band reads V = 0 because no fragment lies there (R330). -/
def Die.alayout (d : Die) : Word :=
  allSlots.foldl (fun w k =>
    let y := d.layOf k
    if y.v then w ||| (BitVec.ofNat 64 (128 + 16 * y.shape.val + 2 * y.base.val) <<< (8 * k.val)) else w) 0
/-- `ACHAIN` (R52). -/
def Die.achain (d : Die) : Word :=
  allSlots.foldl (fun w k =>
    let y := d.layOf k
    let w := match y.dst with | some t => w ||| (BitVec.ofNat 64 (8 + t.val) <<< (4 * k.val)) | none => w
    if y.buf.isEmpty then w else w ||| (1#64 <<< (32 + k.val))) 0
/-- `ORIENT` (R8). -/
def orient (d : DieId) : Word :=
  let x := if d.val == 1 || d.val == 2 then 1 else 0
  let y := if d.val == 2 || d.val == 3 then 1 else 0
  BitVec.ofNat 64 (256 * d.val + 32 * y + 16 * x + d.val)
/-- `MLSTAT` (R191). -/
def Ctl.mlstat (c : Ctl) : Word :=
  BitVec.ofNat 64 ((if c.mreq then 4096 else 0) + (if c.mheld then 2048 + c.mleft else 0))

/-! ## Trace (R342, R343) -/

def trcSize (d : Die) (dn : DieId) : Nat :=
  let z := d.rf dn rTRCBASE 0 6
  2 ^ (if 12 ≤ z && z ≤ 30 then z else 12)

/-- Bytes into the circular buffer. After a wrap a resync record is due. An `OFF` beyond a buffer made smaller counts modulo its size (DESIGN CHOICE, log entry 135). -/
def trcBytes (dn : DieId) (d : Die) (bs : List Byte) : Die :=
  bs.foldl (fun d b =>
    let sz := trcSize d dn
    let off := d.rf dn rTRCPTR 0 32 % sz
    let d := d.poke ((d.getReg dn rTRCBASE &&& bits 47 12).toNat + off) [b] false
    if off + 1 < sz then d.setRf dn rTRCPTR 0 32 (off + 1)
    else
      let d := (d.setRf dn rTRCPTR 0 32 0).setRf dn rTRCPTR 32 32 (d.rf dn rTRCPTR 32 32 + 1)
      { d with trace := { d.trace with resync := true } }) d

/-- A resync record, when one is due (R343). -/
def trcResync (dn : DieId) (d : Die) : Die :=
  let t := d.tick dn
  let d := { d with trace := { d.trace with resync := false, last := t } }
  trcBytes dn d (0x80 :: wordLe 8 t)

/-- A record's bytes with the smallest delta that holds the ticks since the last one (R342). -/
def trcPut (dn : DieId) (d : Die) (kind : Nat) (payload : List Byte) : Die :=
  let t := d.tick dn
  let dl := (t - d.trace.last).toNat
  let ds := if dl == 0 then 0 else if dl < 256 then 1 else if dl < 65536 then 2 else 3
  let w := if ds == 3 then 4 else ds
  trcBytes dn { d with trace := { d.trace with last := t } } (BitVec.ofNat 8 (32 * ds + kind) :: natLe w dl ++ payload)

/-- The resync records due: a second one where the first reaches the end of the buffer (R343). -/
def trcSync (dn : DieId) (d : Die) : Die :=
  let d := if d.trace.resync || 2 ^ 32 ≤ (d.tick dn - d.trace.last).toNat then trcResync dn d else d
  if d.trace.resync then trcResync dn d else d

/-- The unit can write its buffer: it lies in die memory (R343; log entry 112). -/
def trcOpen (d : Die) (dn : DieId) : Bool := isDieMem ((d.getReg dn rTRCBASE &&& bits 47 12).toNat + trcSize d dn - 1)

/-- A resync record that an event calls for (R343): one that cannot be written is counted as lost, and stays due. -/
def trcMark (dn : DieId) (d : Die) : Die :=
  if trcOpen d dn then trcResync dn d else { d with trace := { d.trace with resync := true, lost := d.trace.lost + 1 } }

/-- One record of the trace unit (R342, R343). Nothing is written while `TRCBASE.EN` = 0; a record that cannot be written is counted, and the count is the next record's `KIND` 7. -/
def trcRecord (dn : DieId) (d : Die) (kind : Nat) (payload : List Byte) : Die :=
  if !(bitAt (d.getReg dn rTRCBASE) 63) then d
  else if !trcOpen d dn then { d with trace := { d.trace with resync := true, lost := d.trace.lost + 1 } }
  else
    let n := d.trace.lost
    let d := trcSync dn { d with trace := { d.trace with lost := 0 } }
    let d := if n == 0 then d else trcSync dn (trcPut dn d 7 (natLe 4 n))
    trcPut dn d kind payload

/-! ## Counters (R346) -/

/-- An event counted in the slot's 16 counters: while `PMBASE.EN` = 1, for the ASID that owns the set. -/
def Slot.count (t : Slot) (ev n : Nat) : Slot :=
  { t with pmc := Vector.ofFn fun i => if (vget t.pmsel i).toNat == ev then vget t.pmc i + BitVec.ofNat 64 n else vget t.pmc i }
def Die.countSlot (d : Die) (dn : DieId) (k : SlotId) (ev n : Nat) : Die :=
  if bitAt (d.getReg dn rPMBASE) 63 && (d.slot k).pmOwn == d.asidOf k then d.modSlot k (·.count ev n) else d
/-- An event of the die's 32 counters, in the set of the ASID whose agent caused it (R346, R347). -/
def Die.countDie (d : Die) (dn : DieId) (asid : Half) (ev : Nat) : Die :=
  if bitAt (d.getReg dn rPMBASE) 63 then
    { d with sched := { d.sched with live := d.sched.live.map fun e =>
      if e.1 == asid then (e.1, Vector.ofFn fun i => if (vget e.2.2 i).toNat == ev then vget e.2.1 i + 1 else vget e.2.1 i, e.2.2) else e } }
  else d

/-! ## Taking a fault (R362 to R364), the strand's handler (R202) -/

/-- AGENT numbers of R365 for the agents of a slot. -/
def engNum : SlotEng → Nat
  | .lde => 1 | .are => 2 | .ste => 3 | .mxe => 4
def agNum (n : Nat) : Fin 8 := ⟨n % 8, Nat.mod_lt _ (by decide)⟩

/-- The classes of R362: codes 20 and 22 are replayable. -/
def codeRpl (code : Nat) : Bool := code == 20 || code == 22

/-- The record of R365 for agent `a` of slot `k`; the matrix sequencer is that of its fragment's lowest slot. -/
def Die.faultRec (d : Die) (dn : DieId) (k : SlotId) (a : Nat) (f : FaultAt) : FaultRec :=
  let l := d.ownLaunch k
  { asid := match l with | some l => l.asid | none => 0
    code := f.code, agent := a, slot := if a == 4 then d.baseOf k else k, rpl := codeRpl f.code
    node := match l with | some l => l.node | none => 0
    coord := match l, (d.slot k).ctl.own with | some l, some o => l.coord o.blk | _, _ => 0
    blk := f.blk, word := f.word, addr := f.addr, seq := f.seq, unit := BitVec.ofNat 32 f.unit, info := f.info
    tick := d.tick dn }

/-- The place that issued an access: header, word and unit in one number (R402); for an engine with the slot that pushed its entry at bit 192, and at bit 196 one more than its collective context. -/
def packPlace (blk word : Word) (unit : Nat) : Nat := word.toNat + 2 ^ 64 * blk.toNat + 2 ^ 128 * unit
def placeBlk (n : Nat) : Word := BitVec.ofNat 64 (n / 2 ^ 64)
def placeWord64 (n : Nat) : Word := BitVec.ofNat 64 n
def placeUnit (n : Nat) : Nat := n / 2 ^ 128 % 2 ^ 64
def placeSlot (n : Nat) : SlotId := ⟨n / 2 ^ 192 % 8, Nat.mod_lt _ (by decide)⟩
/-- The collective context of a place; none for a direct entry or another engine. -/
def placeCtx (n : Nat) : Option Nat := if n / 2 ^ 196 = 0 then none else some (n / 2 ^ 196 - 1)

/-- A read that has been sent and whose value nothing waits for any more: it completes at its home (R92), and its answer does nothing. -/
def Sent.drop (p : Sent) : Sent := { p with rd := p.rd.map fun r => { r with kind := .dropped } }
/-- A request whose value its agent waits for. -/
def Sent.waits (p : Sent) : Bool := match p.rd with | some r => r.kind != .dropped | none => false

/-- The open block is discarded: no working value survives, its tokens return, its untaken reads vanish (those of committed blocks stay, R371), and its tentative successors go with it (R33, R169, R188, R363). -/
def Slot.discard (t : Slot) : Slot :=
  let back := match t.ctl.opn with | some o => o.toks | none => 0
  { t with
    ctl := { t.ctl with opn := none, tent := [] }
    toks := Vector.ofFn fun i => if back.getLsbD i.val && vget t.toks i != 255 then vget t.toks i + 1 else vget t.toks i
    agCtl := { t.agCtl with
      rd := t.agCtl.rd.filter fun r => !(r.seq == t.ctl.ccnt)
      pend := t.agCtl.pend.map fun (p : Sent) => match p.rd with
        | some r => if r.seq == t.ctl.ccnt && (match r.kind with | .amo _ => false | _ => true) then p.drop else p
        | none => p } }

/-- The unanswered replayable record that agent `a` of a slot still has from before a swap (R368): it posts no second one. -/
def State.openRec (s : State) (d : DieId) (k : SlotId) (a : Nat) : Option Byte :=
  match (s.ctl d k).own, (s.die d).ownBlk k with
  | some o, some b => match b.flts.find? fun e => e.1 == o.sidx && e.2.1 == a && e.2.2.r.rpl with | some e => e.2.2.idx | none => none
  | _, _ => none

/-- An agent takes a fault: the record is held with it until it is posted and answered. At most one stands unanswered (R366). A control core's block is discarded; a terminal fault leaves the strand faulted (R361, R363). -/
def takeFault (s : State) (d : DieId) (k : SlotId) (a : Nat) (f : FaultAt) : State :=
  let r := (s.die d).faultRec d k a f
  let open_ := s.openRec d k a
  let s := s.modSlot d k fun t =>
    let t := if a == 0 then t.discard else t
    let t := if a == 0 && !codeRpl f.code then t.dropRows.modCtl fun c => { c with act := .faulted } else t
    { t with flt := vmod t.flt (agNum a) fun p => match p with | some p => some p | none => some ⟨r, open_, none⟩ }
  match open_, (s.ctl d k).own with
  | some i, some o => s.modSched d fun q => q.modBlk o.lid o.blk fun b => { b with flts := b.flts.filter fun e => !(e.2.2.idx == some i) }
  | _, _ => s

/-- An agent of a slot is held by a fault. -/
def Slot.heldBy (t : Slot) (a : Nat) : Bool := (vget t.flt (agNum a)).isSome

/-- `trap` into the strand's own handler: TEPC, TCAUSE and TSTAT.HM, and the handler's address as successor (R202). -/
def enterHandler (c : Csrs) (succ cause : Word) : Csrs × Word :=
  ({ c with tepc := succ, tcause := cause, hm := true }, c.thnd &&& bits 51 1)
/-- `eret`: HM cleared and TEPC the successor (R202). -/
def leaveHandler (c : Csrs) : Csrs × Word := ({ c with hm := false }, c.tepc)
/-- Does a trap enter the handler? (R202) -/
def handlerTakes (c : Csrs) : Bool := c.thnd &&& bits 51 1 != 0 && !c.hm

/-- Flags of an entry merged into the pushing strand's `VFLAGS` (R76). -/
def Slot.mergeFlags (t : Slot) (f : BitVec 7) : Slot := t.modCtl fun c => { c with csr := { c.csr with vflags := c.csr.vflags ||| f } }

end Sys2Proof.Machine
end

