-- ==== Sys2Proof/Machine/Flags.lean ====
section
/-! DEFINITION. Conditions of the control core (R141, R176) and the flags of `VFLAGS` (R75). -/

namespace Sys2Proof.Machine

/-- Cond(cc, A, Y): the six codes of R141 and R176. -/
def cond (cc : Nat) (a y : Word) : Bool :=
  match cc with
  | 0 => a == y
  | 1 => a != y
  | 2 => a.slt y
  | 3 => !a.slt y
  | 4 => a.ult y
  | _ => !a.ult y

/-- Bits of `VFLAGS` (R75). -/
abbrev fNV : BitVec 7 := 0x01
abbrev fDZ : BitVec 7 := 0x02
abbrev fOF : BitVec 7 := 0x04
abbrev fUF : BitVec 7 := 0x08
abbrev fNX : BitVec 7 := 0x10
abbrev fQNF : BitVec 7 := 0x20
abbrev fNFL : BitVec 7 := 0x40

end Sys2Proof.Machine
end

