-- ==== Sys2Proof/Machine/Mem.lean ====
section
/-! DEFINITION. Memory as agents reach it: translation (R86 to R93), access checks (R83, R97, R181, R208), read and drain steps (R108, R109), links and the causal gate (R110 to R113, R123), refusals (R402), storage errors (R392 to R397). -/

namespace Sys2Proof.Machine

/-! ## Agents -/

def Die.ag (d : Die) : Agent → AgentSt
  | .core k => (d.slot k).agCtl
  | .eng k .lde => (d.slot k).agLde
  | .eng k .are => (d.slot k).agAre
  | .eng k .ste => (d.slot k).agSte
  | .eng k .mxe => (d.slot k).agMxe
  | .copy c => (vget d.cpe c).ag
  | .coll => d.coe.ag
  | .sys n => vget d.sys n

def Die.modAg (d : Die) (a : Agent) (f : AgentSt → AgentSt) : Die :=
  match a with
  | .core k => d.modSlot k fun t => { t with agCtl := f t.agCtl }
  | .eng k .lde => d.modSlot k fun t => { t with agLde := f t.agLde }
  | .eng k .are => d.modSlot k fun t => { t with agAre := f t.agAre }
  | .eng k .ste => d.modSlot k fun t => { t with agSte := f t.agSte }
  | .eng k .mxe => d.modSlot k fun t => { t with agMxe := f t.agMxe }
  | .copy c => { d with cpe := vmod d.cpe c fun x => { x with ag := f x.ag } }
  | .coll => { d with coe := { d.coe with ag := f d.coe.ag } }
  | .sys n => { d with sys := vmod d.sys n f }

def State.modAg (s : State) (d : DieId) (a : Agent) (f : AgentSt → AgentSt) : State := s.modDie d (·.modAg a f)
def State.ag (s : State) (d : DieId) (a : Agent) : AgentSt := (s.die d).ag a

/-- The run an engine agent is at. -/
def Die.run (d : Die) : Agent → Option Run
  | .core _ | .sys _ => none
  | .eng k .lde => (d.slot k).lde
  | .eng k .are => (d.slot k).are
  | .eng k .ste => (d.slot k).ste
  | .eng k .mxe => (d.slot k).mxe
  | .copy c => (vget d.cpe c).run
  | .coll => d.coe.run

/-- The ASID an agent runs for: its slot's, or that of the strand that pushed its entry. -/
def Die.asidFor (d : Die) (a : Agent) : Half :=
  match a with
  | .core k => d.asidOf k
  | .eng k .mxe => match (d.slot k).mxe with | some r => d.asidOf r.slot | none => d.asidOf k
  | .eng k _ => d.asidOf k
  | .sys _ => 0
  | .coll => match d.coe.run, d.coe.own with
    | some _, some o => match d.sched.launch o.lid with | some l => l.asid | none => 0
    | some r, none => d.asidOf r.slot
    | none, _ => 0
  | a => match d.run a with | some r => d.asidOf r.slot | none => 0

def Die.setRun (d : Die) (a : Agent) (r : Option Run) : Die :=
  match a with
  | .core _ | .sys _ => d
  | .eng k .lde => d.modSlot k fun t => { t with lde := r }
  | .eng k .are => d.modSlot k fun t => { t with are := r }
  | .eng k .ste => d.modSlot k fun t => { t with ste := r }
  | .eng k .mxe => d.modSlot k fun t => { t with mxe := r }
  | .copy c => { d with cpe := vmod d.cpe c fun x => { x with run := r } }
  | .coll => { d with coe := { d.coe with run := r } }

/-- The run named by the current agent and context (R285). -/
def Die.curRun (d : Die) (c : Cur) : Option Run :=
  match c.ag with
  | .coll =>
    if h : c.ctx.val < 8 then
      match vget d.coe.ctx ⟨c.ctx.val, h⟩ with
      | some x => x.run
      | none => none
    else d.coe.run
  | a => d.run a

def Die.setCurRun (d : Die) (c : Cur) (r : Option Run) : Die :=
  match c.ag with
  | .coll =>
    if h : c.ctx.val < 8 then
      { d with coe := { d.coe with ctx := vmod d.coe.ctx ⟨c.ctx.val, h⟩ fun x => x.map fun x => { x with run := r } } }
    else { d with coe := { d.coe with run := r } }
  | a => d.setRun a r

/-- AGENT number (R365) of an agent's faults. -/
def agentNo : Agent → Nat
  | .core _ => 0
  | .eng _ e => engNum e
  | .copy _ => 5
  | .coll => 6
  | .sys _ => 7

/-! ## TLBs and page walks (R86 to R90) -/

def Die.tlb (d : Die) : TlbId → List TlbEntry
  | .slot k => (d.slot k).tlb
  | .copy c => (vget d.cpe c).tlb
  | .coll => d.coe.tlb
def Die.modTlb (d : Die) (t : TlbId) (f : List TlbEntry → List TlbEntry) : Die :=
  match t with
  | .slot k => d.modSlot k fun x => { x with tlb := f x.tlb }
  | .copy c => { d with cpe := vmod d.cpe c fun x => { x with tlb := f x.tlb } }
  | .coll => { d with coe := { d.coe with tlb := f d.coe.tlb } }

/-- The TLB through which an agent translates (R90). -/
def tlbOf : Agent → TlbId
  | .core k | .eng k _ => .slot k
  | .copy c => .copy c
  | .coll | .sys _ => .coll

/-- The outcome of an access check: a value, a wait of R108, or a fault with its code and address. -/
inductive XRes (α : Type) where
  | ok (d : Die) (a : α)
  | wait (d : Die)
  | fault (d : Die) (code addr : Nat)

def XRes.map {α β : Type} (x : XRes α) (f : α → β) : XRes β :=
  match x with
  | .ok d a => .ok d (f a)
  | .wait d => .wait d
  | .fault d c a => .fault d c a

/-- Bit h of `PEERST.LOST` (R406). -/
def Die.isLost (d : Die) (dn h : DieId) : Bool := bitAt (d.getReg dn rPEERST) h.val

/-- R108 step 3: every known count has been accounted for; a lost die's counts as met (R405). -/
def Die.gateOk (d : Die) (dn : DieId) : Bool :=
  allDies.all fun k => k == dn || d.isLost dn k || decide (vget d.gate.v k ≤ vget d.gate.g k)

/-- Is a page-table entry invalid under R87, and if valid, is it a leaf? `lvl` 0 to 3. -/
def pteBad (w : Word) (lvl : Nat) : Bool :=
  let lf := bitAt w 1
  let mt := fld w 8 3
  fld w 60 4 != 0
    || (lf && lvl == 0) || (!lf && lvl == 3)
    || (!lf && (fld w 2 10 != 0 || fld w 48 12 != 0))
    || (lf && (fld w 12 36 % 2 ^ (43 - 9 * lvl - 12) != 0 || 5 ≤ mt || (bitAt w 4 && mt != 0) || (bitAt w 3 && !bitAt w 2)
      || (bitAt w 11 && mt != 1) || (mt != 2 && mt != 3 && fld w 48 12 != 0)))

/-- One 8-byte read of a walker: from its walk cache where `cached`, else from die memory (R89, R389). -/
def walkRead (d : Die) (cached : Bool) (a : Nat) (va : Nat) : XRes Word :=
  match if cached then d.walkc.find? (fun e => e.1 == a) else none with
  | some e => .ok d e.2
  | none =>
    if !isDieMem (a + 7) then .fault d 23 va
    else if d.poisoned a 8 then .fault d 23 va
    else .ok d (BitVec.ofNat 64 (d.peekNat a 8))

/-- The levels of a walk (R86, R87, R89): sets `A`, and `D` for a write, in the leaf. -/
def walkLevels (dn : DieId) (cached wr : Bool) (asid : Half) (va : Nat) : List Nat → Nat → Die → XRes TlbEntry
  | [], _, d => .fault d 20 va
  | lvl :: rest, tbl, d =>
    let sh := 43 - 9 * lvl
    let a := tbl + 8 * (va / 2 ^ sh % 512)
    match walkRead d cached a va with
    | .fault d c x => .fault d c x
    | .wait d => .wait d
    | .ok d w =>
      if !bitAt w 0 || pteBad w lvl then .fault d 20 va
      else if bitAt w 1 then
        let w' := w ||| 0x40#64 ||| (if wr then 0x80#64 else 0)
        let d := if w' == w then d else d.poke a (wordLe 8 (BitVec.ofNat 64 (d.peekNat a 8) ||| 0x40#64 ||| (if wr then 0x80#64 else 0))) false
        .ok d ⟨asid, bitAt w 5, va / 2 ^ sh * 2 ^ sh, sh, w', a, bitAt w' 7⟩
      else walkLevels dn cached wr asid va rest (fld w 12 36 * 4096) { d with walkc := regIns d.walkc a w }

/-- A page-table walk (R88, R89). It waits while a count of the gate is outstanding (R105: a walker's reads are die-scope loads). -/
def walk (dn : DieId) (d : Die) (cached wr : Bool) (asid : Half) (va : Nat) : XRes TlbEntry :=
  if !bitAt (d.getReg dn rASIDBASE) 0 || 2 ^ 52 ≤ va then .fault d 20 va
  else if !d.gateOk dn then .wait d
  else
    let a := (d.getReg dn rASIDBASE &&& bits 47 20).toNat + 16 * asid.toNat
    match walkRead d cached a va with
    | .fault d c x => .fault d c x
    | .wait d => .wait d
    | .ok d w =>
      if !bitAt w 0 || fld w 1 11 != 0 || fld w 48 16 != 0 || d.peekNat (a + 8) 8 != 0 then .fault d 20 va
      else walkLevels dn cached wr asid va [0, 1, 2, 3] (fld w 12 36 * 4096) { d with walkc := regIns d.walkc a w }

def TlbEntry.covers (e : TlbEntry) (asid : Half) (va : Nat) : Bool :=
  (e.g || e.asid == asid) && e.va ≤ va && va < e.va + 2 ^ e.bits

/-- A miss of a TLB, and the walk it has caused (R346): counted when the walk has been made, once. -/
def Die.countMiss (d : Die) (dn : DieId) (t : TlbId) (asid : Half) : Die :=
  (match t with | .slot k => d.countSlot dn k 5 1 | _ => d).countDie dn asid 32

/-- Translation of an address: the TLB's entry, or a walk that fills it (R90); none while `ASIDBASE.EN` = 0 (R88). The oldest of 2,048 entries makes room. -/
def translate (dn : DieId) (d : Die) (t : TlbId) (asid : Half) (va : Nat) (wr : Bool) : XRes TlbEntry :=
  if !bitAt (d.getReg dn rASIDBASE) 0 || 2 ^ 52 ≤ va then .fault d 20 va
  else match (d.tlb t).find? (·.covers asid va) with
  | some e => .ok d e
  | none =>
    match walk dn d false wr asid va with
    | .fault d c x => .fault (d.countMiss dn t asid) c x
    | .wait d => .wait d
    | .ok d e => .ok ((d.countMiss dn t asid).modTlb t fun l => (e :: l).take 2048) e

/-- The team's place for a `VREL` offset (R93): vault address of offset `o` for the team of launch `lid`, block `b`. -/
def vrelAddr (d : Die) (lid b : Nat) (o : Nat) : Option Nat :=
  match d.sched.launch lid with
  | none => none
  | some l =>
    match d.sched.team lid (l.teamOf b) with
    | none => none
    | some t =>
      let z := l.zw * 65536
      if t.wide then
        if o < z then some (vault0 + t.base0 * 65536 + o)
        else if 0x10000000 ≤ o && o < 0x10000000 + z then some (vault1 + t.base1 * 65536 + (o - 0x10000000))
        else none
      else if o < z then some (if t.cluster = 0 then vault0 + t.base0 * 65536 + o else vault1 + t.base1 * 65536 + o)
      else none

/-- Who an access is made for: TLB, address space, and the launch and block of the team (R90, R93). -/
structure Who where
  tlb : TlbId
  asid : Half
  own : Option Owner
  /-- a fault that the entry at work met while it was tentative: virtual address and code (R32) -/
  held : Option (Nat × Nat)
  deriving DecidableEq, Repr

/-- An agent's accesses for a strand of slot `k`. -/
def Die.who (d : Die) (a : Agent) (k : SlotId) : Who := ⟨tlbOf a, d.asidOf k, (d.slot k).ctl.own, (d.run a).bind (·.ent.held)⟩
def Die.whoOwn (d : Die) (t : TlbId) (o : Owner) : Who := ⟨t, match d.sched.launch o.lid with | some l => l.asid | none => 0, some o, none⟩

/-! ## Collective contexts and the strands that pushed them (R285, R321) -/

/-- The context of a cursor. -/
def Cur.ctx? (c : Cur) : Option (Fin 8) := if h : c.ctx.val < 8 then some ⟨c.ctx.val, h⟩ else none
def Die.ctxOf (d : Die) (c : Cur) : Option KCtx := match c.ag, c.ctx? with | .coll, some x => vget d.coe.ctx x | _, _ => none
/-- A slot is still the strand's: a swap-out releases the slots before the collective engine has stopped (R321). -/
def Die.ownBound (d : Die) (o : Owner) (k : SlotId) : Bool := (d.slot k).ctl.own == some o
def Die.ctxBound (d : Die) (k : KCtx) : Bool := d.ownBound k.own k.slot
/-- The strand whose direct entry runs at a cursor. -/
def Die.dirOwn (d : Die) (c : Cur) : Option Owner := match c.ag with | .coll => d.coe.own | _ => none
/-- Whom a run's accesses are made for: the strand that pushed it. -/
def Die.whoRun (d : Die) (c : Cur) (r : Run) : Who :=
  let w := match d.ctxOf c, d.dirOwn c with
    | some k, _ => d.whoOwn .coll k.own
    | none, some o => d.whoOwn .coll o
    | none, none => d.who c.ag r.slot
  { w with held := r.ent.held }
/-- What a strand has in the collective engine is held by a fault: at the strand's slot, or, where that has been released, with its block (R321, R368). -/
def Die.ownHeld (d : Die) (o : Owner) (k : SlotId) : Bool :=
  if d.ownBound o k then (d.slot k).heldBy 6
  else match (d.sched.launch o.lid).bind (·.blk o.blk) with
    | some b => b.flts.any fun e => e.1 == o.sidx && e.2.1 == 6
    | none => false
def Die.ctxHeld (d : Die) (k : KCtx) : Bool := d.ownHeld k.own k.slot
/-- The entry that a run belongs to is held by a fault of its agent. -/
def Die.runHeld (d : Die) (c : Cur) (r : Run) : Bool :=
  match d.ctxOf c, d.dirOwn c with
  | some k, _ => d.ctxHeld k
  | none, some o => d.ownHeld o r.slot
  | none, none => (d.slot r.slot).heldBy (agentNo c.ag)
/-- A context has been asked to stop (R298). -/
def Die.ctxAsked (d : Die) (k : KCtx) : Bool := !d.ctxBound k || vget (d.slot k.slot).stop 6

/-- A fault of what a strand has in the collective engine: at its slot, or, where that has been released, with its block (R321, R368). -/
def ownFault (s : State) (d : DieId) (o : Owner) (k : SlotId) (f : FaultAt) : State :=
  if (s.die d).ownBound o k then takeFault s d k 6 f
  else match (s.die d).sched.launch o.lid with
  | none => s
  | some l =>
    let r : FaultRec :=
      { asid := l.asid, code := f.code, agent := 6, slot := k, rpl := codeRpl f.code, node := l.node, coord := l.coord o.blk, blk := f.blk, word := f.word
        addr := f.addr, seq := f.seq, unit := BitVec.ofNat 32 f.unit, info := f.info, tick := s.tick d }
    s.modSched d fun q => q.modBlk o.lid o.blk fun b =>
      if b.flts.any fun e => e.1 == o.sidx && e.2.1 == 6 then b else { b with flts := b.flts ++ [(o.sidx, 6, ⟨r, none, none⟩)] }
def ctxFault (s : State) (d : DieId) (k : KCtx) (f : FaultAt) : State := ownFault s d k.own k.slot f

/-- A fault met while an entry was tentative has now been raised as the entry's (R32). -/
def Die.heldTold (d : Die) (c : Cur) (f : FaultAt) : Die :=
  match d.curRun c with
  | some r => match r.ent.held with
    | some h => if h.2 == f.code && h.1 / 128 == f.addr.toNat / 128 then d.setCurRun c (some { r with ent := { r.ent with held := none } }) else d
    | none => d
  | none => d

/-- A fault of the agent that runs an entry. -/
def agentFault (s : State) (c : Cur) (r : Run) (f : FaultAt) : State :=
  let s := s.modDie c.die fun d => d.heldTold c f
  match (s.die c.die).ctxOf c, (s.die c.die).dirOwn c with
  | some k, _ => ctxFault s c.die k f
  | none, some o => ownFault s c.die o r.slot f
  | none, none => takeFault s c.die r.slot (agentNo c.ag) f

/-- A refusal met by an agent of the die is recorded in `RAST` (R403). -/
def Die.rast (d : Die) (dn : DieId) (pkg : Nat) (h : DieId) (cause idx : Nat) : Die :=
  let c := d.rf dn rRAST 16 32
  d.setReg rRAST (BitVec.ofNat 64 (2 ^ 52 * pkg + 2 ^ 50 * h.val + 2 ^ 16 * ((c + 1) % 2 ^ 32) + 2 ^ 12 * cause + idx))

def Die.pkg (d : Die) (dn : DieId) : Nat := d.rf dn rNFTCFG 52 12

/-- The import check of R97 and step 5 of R181, for a leaf of `MT` 2 or 3. DESIGN CHOICE (log entry 121): the reserved bits of the entry and its handle are ignored. -/
def importLoc (dn : DieId) (d : Die) (mt imp off va : Nat) : XRes Loc :=
  let pkg := d.pkg dn
  if !bitAt (d.getReg dn rIMPBASE) 0 then .fault (d.rast dn pkg dn 7 imp) 24 va
  else
    let a := (d.getReg dn rIMPBASE &&& bits 47 17).toNat + 16 * imp
    if !isDieMem (a + 15) || d.poisoned a 16 then .fault d 23 va
    else
      let h := BitVec.ofNat 64 (d.peekNat a 8)
      let f := BitVec.ofNat 64 (d.peekNat (a + 8) 8)
      let die := mkDie (fld h 50 2)
      let hp := fld h 52 12
      let ok := bitAt f 0 && !bitAt f 1 && (if mt == 2 then hp == pkg && die != dn else hp != pkg)
      if !ok then .fault (d.rast dn hp die 5 imp) 24 va
      else if mt == 2 then .ok d (.peer die (fld h 0 12) (fld h 32 16) off)
      else if d.coe.unreach.any (fun u => u.1.toNat == hp && u.2 == die) then .fault (d.rast dn hp die 6 imp) 24 va
      else .ok d (.fab (BitVec.ofNat 12 hp) die (fld h 0 12) (fld h 32 16) off)

/-- What an access needs of its page: the memory types allowed, and the permissions. -/
structure Need where
  mts : List Nat
  rd : Bool
  wr : Bool
  deriving DecidableEq, Repr

def needScalar (rd wr : Bool) : Need := ⟨[0, 1, 2, 4], rd, wr⟩
def needRow (rd wr : Bool) : Need := ⟨[0, 1, 2], rd, wr⟩

/-- The fault that a tentative entry met on an address of an access (R32). -/
def Who.heldAt (w : Who) (va len : Nat) : Option (Nat × Nat) := w.held.filter fun h => va ≤ h.1 && h.1 < va + len

/-- One piece of an access within a line: a fault held from when the entry was tentative (R32), then translation, type, permission, import, and the physical map, in this order (R181, R208, R85). -/
def access (dn : DieId) (d : Die) (w : Who) (va len : Nat) (n : Need) : XRes Piece :=
  match w.heldAt va len with
  | some h => .fault d h.2 h.1
  | none =>
  match translate dn d w.tlb w.asid va n.wr with
  | .fault d c x => .fault d c x
  | .wait d => .wait d
  | .ok d e =>
    let mt := fld e.pte 8 3
    let po := va - e.va
    let base := fld e.pte 12 36 * 4096
    let dirty := if n.wr && !e.d then some e.leaf else none
    let pg : Pg := ⟨w.asid, e.g, e.bits⟩
    if bitAt e.pte 11 && (match w.own with | some o => (vrelAddr d o.lid o.blk (base + po)).isNone | none => true) then .fault d 20 va
    else if !(n.mts.contains mt) then .fault d 21 va
    else if (n.rd && !bitAt e.pte 2) || (n.wr && !bitAt e.pte 3) then .fault d 22 va
    else if mt == 2 || mt == 3 then
      match importLoc dn d mt (fld e.pte 48 12) (base + po) va with
      | .fault d c x => .fault d c x
      | .wait d => .wait d
      | .ok d l => .ok d ⟨l, va, len, dirty, pg⟩
    else
      let pa := if bitAt e.pte 11 then (match w.own with | some o => (vrelAddr d o.lid o.blk (base + po)).getD 0 | none => 0) else base + po
      let fits := if mt == 1 then isVault pa && isVault (pa + len - 1) else isDieMem (pa + len - 1)
      if !fits then .fault d 23 va else .ok d ⟨.here pa, va, len, dirty, pg⟩

/-- The cuts of a range at its 128-byte lines: address and length of each piece (R91). -/
def cutLines (va len : Nat) : List (Nat × Nat) :=
  (linesOf va len).map fun ln => (max va (128 * ln), min (va + len) (128 * ln + 128) - max va (128 * ln))

/-- A failing line of a row or chunk is reported by the virtual address of the line (R387, R391). -/
def lineVa (x : Nat) : Nat := x / 128 * 128

/-- All pieces of a row, or the lowest failing line's fault: nothing of a failing row is issued (R91). -/
def accessAll (dn : DieId) (w : Who) (n : Need) : List (Nat × Nat) → Die → XRes (List Piece)
  | [], d => .ok d []
  | (va, len) :: r, d =>
    match access dn d w va len n with
    | .fault d c x => .fault d c (lineVa x)
    | .wait d => .wait d
    | .ok d p => (accessAll dn w n r d).map (p :: ·)

def accessRow (dn : DieId) (d : Die) (w : Who) (va len : Nat) (n : Need) : XRes (List Piece) := accessAll dn w n (cutLines va len) d

/-- Write data laid over the pieces of its row. -/
def wrsOf (ps : List Piece) (va : Nat) (data : List Byte) : List Wr := ps.map fun p => ⟨p, slice data (p.va - va) p.len⟩

/-! ## Storage errors (R392 to R397) -/

/-- The storage index of R397 for an error met at an address. -/
def storeIdx (pa : Nat) (k : Fin 4) : Nat := if isVault pa then (if pa < vault1 then 0 else 1) else if k.val == 2 then 2 else 3

def Die.countCe (d : Die) (dn : DieId) (k : Nat) : Die :=
  let r := rMECNT + 8 * k
  d.setRf dn r 0 32 (d.rf dn r 0 32 + 1)
def Die.countUe (d : Die) (dn : DieId) (k pa : Nat) (rec : Bool) : Die :=
  let r := rMECNT + 8 * k
  let d := d.setRf dn r 32 32 (d.rf dn r 32 32 + 1)
  if rec then d.setReg rMEUEA (BitVec.ofNat 64 (2 ^ 63 + 2 ^ 60 * k + pa / 128 * 128)) else d

/-- What a read of a line meets (R393). An error of LPDDR6 beneath a clean cached copy poisons the line there, and the copy still serves the reads. -/
def Die.meet (d : Die) (dn : DieId) (pa : Nat) (e : StoreErr) : Die :=
  match e with
  | .ok => d
  | .corrected k => d.countCe dn (storeIdx pa k)
  | .cleanDropped k => if isVault pa then d else d.countUe dn (storeIdx pa k) pa false
  | .uncorrectable k => { d.countUe dn (storeIdx pa k) pa true with psn := setIns d.psn (lineOf pa) }
  | .beneath => if isVault pa then d else { d.countUe dn 3 pa true with under := setIns d.under (lineOf pa) }

/-- A clean cached copy is dropped: poison that the scrub has found beneath it shows (R393). -/
def Die.dropCopy (d : Die) (line : Nat) : Die :=
  if setHas d.under line then { d with under := setDel d.under line, psn := setIns d.psn line } else d

/-- A write covers whole protection units (R394). -/
def wholeUnits (pa len : Nat) : Bool := if isVault pa then pa % 8 == 0 && len % 8 == 0 else pa % 128 == 0 && len == 128

/-! ## Pins (R103) -/

def Die.pins (d : Die) : List Nat :=
  allSlots.flatMap fun k => (d.slot k).ports.toList.flatMap fun p => p.rows.flatMap (·.pins) ++ (match p.part with | some x => x.2.pins | none => [])
def Die.pinned (d : Die) (pa len : Nat) : Bool := (linesOf pa len).any fun l => d.pins.contains l

/-! ## Links and messages (R110, R12) -/

/-- A message placed on the first link of its way: a neighbour's link, or eastward to the diagonal die. -/
def State.send (s : State) (src dst : DieId) (m : Msg) : State :=
  if (s.die src).isLost src dst || src == dst then s
  else if dst.val == (src.val + 3) % 4 then { s with west := vmod s.west dst (· ++ [⟨src, dst, m⟩]) }
  else { s with east := vmod s.east src (· ++ [⟨src, dst, m⟩]) }

/-- A beat on every link of a die (R113). -/
def State.beats (s : State) (d : DieId) : State :=
  ((allDies.filter (· != d)).foldl (fun s h => s.send d h (.beat (vget (s.die d).gate.v d))) s).modDie d fun y => { y with beatAge := 0 }

/-- One increment of the die's own count of peer writes (R105, R109): the new count. G[d] follows V[d]. -/
def Die.bump (d : Die) (dn : DieId) : Nat × Die :=
  let n := vget d.gate.v dn + 1
  (n, { d with gate := { d.gate with v := vset d.gate.v dn n, g := vset d.gate.g dn n } })

/-! ## Answers to reads -/

/-- A pending register filled: committed and working copies (R170). -/
def fillRegs (r : Regs) (tag : Nat) (v : Word) : Regs :=
  { r with x := r.x.map fun x => if x.wait = some tag then ⟨v, none⟩ else x }
def Slot.fillTag (t : Slot) (tag : Nat) (v : Word) : Slot :=
  t.modCtl fun c => { c with
    regs := fillRegs c.regs tag v
    opn := c.opn.map fun o => { o with regs := fillRegs o.regs tag v } }

/-- The value a scalar load writes (R133, R179). -/
def loadVal (size : Nat) (sgn : Bool) (ovr : List (Nat × Byte)) (bs : List Byte) : Word :=
  let b := (List.range size).map fun i => match ovr.find? (·.1 == i) with | some e => e.2 | none => listGet 0 bs i
  let v := leNat b
  if sgn && 2 ^ (8 * size - 1) ≤ v then BitVec.ofNat 64 (v + 2 ^ 64 - 2 ^ (8 * size)) else BitVec.ofNat 64 v

/-- `SExt(old, 32)` or the old value (R182). -/
def amoVal (w64 : Bool) (bs : List Byte) : Word := if w64 then loadVal 8 false [] bs else loadVal 4 true [] bs

/-- The slot an agent's faults are charged to: its own, or the pushing strand's. -/
def Die.chargeSlot (d : Die) (c : Cur) : SlotId :=
  match c.ag with
  | .core k => k
  | .eng k .mxe => match (d.slot k).mxe with | some r => r.slot | none => k
  | .eng k _ => k
  | _ => match d.curRun c with | some r => r.slot | none => 0

/-- An engine's fault at its current word and unit (R364, R365). Where a line has failed, its address is that of the line (R387, R391). -/
def runFault (s : State) (c : Cur) (r : Run) (code : Nat) (addr : Word) (unit : Nat) (info : Word) : State :=
  let addr := if 20 ≤ code && code ≤ 24 then BitVec.ofNat 64 (lineVa addr.toNat) else addr
  let off := match r.code[r.pos]? with | some x => x.1 | none => 0
  agentFault s c r
    ⟨code, r.blk, if off == 0 then 0 else r.blk + BitVec.ofNat 64 (2 * off), addr, r.ent.seq, unit, info⟩

/-- Part of a transfer arrives. -/
def AgentSt.part (a : AgentSt) (key at_ : Nat) (bs : List Byte) (psn : Bool) : AgentSt :=
  { a with asm := a.asm.map fun x => if x.key == key then { x with got := x.got ++ [(at_, bs)], psn := x.psn || psn, bad := if psn then x.bad ++ [(at_, bs.length)] else x.bad } else x }

/-- Record cache of a slot: the copy used last stands first; 32 places (R101). -/
def Slot.keepRec (t : Slot) (c : RecCopy) : Slot :=
  { t with recs := (c :: t.recs.filter fun r => !(r.home == c.home && r.pa == c.pa)).take 32 }

/-- A strand's fault of a committed block waits for the next block boundary (R188, R402). -/
def Ctl.setDue (c : Ctl) (f : FaultAt) : Ctl := { c with due := match c.due with | some x => some x | none => some f }

/-- The bus error of a poisoned scalar read (R395). -/
def readBad (r : Rd) : FaultAt := ⟨23, placeBlk r.word, placeWord64 r.word, BitVec.ofNat 64 r.p.va, r.seq, 0, 0⟩

/-- The access of a committed block meets poison: its fault waits for the block boundary, and the access is held to be made again (R394, R395). -/
def poisonLater (s : State) (d : DieId) (k : SlotId) (r : Rd) (op : SbOp) : State :=
  s.modAg d (.core k) fun x => { x with refused := x.refused ++ [⟨x.nkey, d, some r, op, r.word, r.seq, 23, r.p.va⟩], nkey := x.nkey + 1 }

/-- What an answered read does. `pa` is the physical address at the home `h`. Poison reaches a scalar, a record or a system core (a load access fault) as R395 states. -/
def finishRead (s : State) (d : DieId) (a : Agent) (r : Rd) (h : DieId) (pa : Nat) (bs : List Byte) (psn : Bool) : State :=
  match r.kind with
  | .part key at_ => s.modAg d a fun x => x.part key at_ bs psn
  | .dropped => s
  | .sys => s.modAg d a fun x => { x with out := (r.tag, if psn then none else some bs) :: x.out }
  | .scalar size sgn ovr =>
    match a with
    | .core k =>
      if psn then (if r.seq == (s.ctl d k).ccnt then takeFault s d k 0 (readBad r) else poisonLater s d k r .acqGate)
      else s.modSlot d k fun t => t.fillTag r.tag (loadVal size sgn ovr bs)
    | _ => s
  | .amo w64 =>
    match a with
    | .core k =>
      if psn then poisonLater s d k r .acqGate else s.modSlot d k fun t => t.fillTag r.tag (amoVal w64 bs)
    | _ => s
  | .fill i =>
    match a with
    | .core k =>
      if psn then takeFault s d k 0 (readBad r)
      else s.modCtl d k fun c => { c with opn := c.opn.map fun o => { o with fill := o.fill ++ [(i, leWord bs)] } }
    | _ => s
  | .sched g =>
    match a with
    | .core k =>
      if psn then takeFault s d k 0 (readBad r)
      else s.modCtl d k fun c => { c with opn := c.opn.map fun o => { o with sched := some (g, leWord bs) } }
    | _ => s
  | .record =>
    match a with
    | .eng k e =>
      match (s.die d).run a with
      | some run =>
        if psn then runFault s ⟨d, a, 8⟩ run 23 (BitVec.ofNat 64 r.p.va) 0 0
        else
          let c : RecCopy := ⟨h, pa, bs, r.p.va, r.p.pg⟩
          let s := s.modDie d fun x => x.setRun a (some { run with rcpy := some c, part := 2, copies := run.copies ++ [c] })
          if e == .lde || e == .ste then s.modSlot d k (·.keepRec c) else s
      | none => s
    | _ => s

/-! ## Requests (R109, R110) and those that are not performed (R402, R403, R405, R412) -/

def otherDies (d : DieId) : List DieId := allDies.filter (· != d)

/-- The place that issued an entry of a store buffer, and the entry or block it belongs to. -/
def SbOp.place : SbOp → Nat × W32
  | .write _ _ w q | .freeh _ _ w q | .tsig _ _ w q | .fab _ _ _ _ w q => (w, q)
  | .amo r .. => (r.word, r.seq)
  | _ => (0, 0)
/-- The pieces through which an entry of a store buffer writes. -/
def SbOp.pieces : SbOp → List Piece
  | .write ws .. => ws.map (·.p)
  | .freeh _ ds .. => ds
  | .amo r .. => [r.p]
  | .fab _ _ _ p .. => [p]
  | _ => []
/-- The virtual address of a request, as a fault record names it. -/
def SbOp.va (o : SbOp) : Nat := match o.pieces with | p :: _ => p.va | [] => 0

/-- The export index that a piece names. -/
def Piece.idx (p : Piece) : Nat := match p.loc with | .peer _ i _ _ => i | .fab _ _ i _ _ => i | .here _ => 0
/-- The export index that a lost request names, as `RAST` reports it; 0 for an increment, which names none (DESIGN CHOICE, log entry 134: R403 does not say which index goes with `CAUSE` 6). -/
def Sent.idx (p : Sent) : Nat :=
  match p.rd, p.op with
  | some r, _ => r.p.idx
  | none, .write (w :: _) _ _ _ => w.p.idx
  | none, .fab _ _ (.write _ i _ _ _) _ _ _ => i
  | _, _ => 0

/-- What the fault record of a request that is not performed says of it (R391, R402). -/
def Sent.fault (p : Sent) : FaultAt := ⟨p.code, placeBlk p.word, placeWord64 p.word, BitVec.ofNat 64 p.va, p.seq, placeUnit p.word, 0⟩
/-- The same of an engine's request: by the address of its line. -/
def Sent.engFault (p : Sent) : FaultAt := { p.fault with addr := BitVec.ofNat 64 (lineVa p.va) }
/-- Two requests of one entry. -/
def Sent.mate (p q : Sent) : Bool := p.seq == q.seq && placeBlk p.word == placeBlk q.word && p.word / 2 ^ 192 == q.word / 2 ^ 192

/-- The refused request that an engine reports: the lowest row of an entry, once every request before it has been answered (R402). An increment, which names no place, reports only where nothing else stands refused. -/
def AgentSt.refusal (x : AgentSt) : Option Sent :=
  let rs := if x.refused.any fun p => p.word != 0 then x.refused.filter fun p => p.word != 0 else x.refused
  rs.find? fun p => !((rs ++ x.pend).any fun q => p.mate q && decide (q.key < p.key))

/-- An engine with a refused request faults at it (R402). A control core faults at its next block boundary. -/
def raiseRefusal (s : State) (d : DieId) (a : Agent) : State :=
  match a with
  | .core _ | .sys _ => s
  | a =>
    match (s.ag d a).refusal with
    | none => s
    | some p =>
      let k : SlotId := if p.word = 0 then (match (s.die d).run a with | some r => r.slot | none => 0) else placeSlot p.word
      match a with
      | .coll =>
        match ((placeCtx p.word).bind fun i => (s.die d).coe.ctx.toList[i]?).join with
        | some c => ctxFault s d c p.engFault
        | none => match (s.die d).coe.own, (s.die d).coe.run with
          | some o, some _ => ownFault s d o k p.engFault
          | _, _ => takeFault s d k 6 p.engFault
      | a => takeFault s d k (agentNo a) p.engFault

/-- A request whose refusal nothing waits for: a read of a discarded block, or what a killed block has sent (R368). -/
def Sent.dead (p : Sent) : Bool := p.code == 0 || (p.rd.isSome && !p.waits)
/-- The block that made a request has been killed (R368). -/
def Die.killedReq (d : Die) (a : Agent) (p : Sent) : Bool :=
  p.dead || match a with
    | .core k | .eng k .lde | .eng k .are | .eng k .ste => (d.ownBlk k).any (·.halted == 3)
    | _ => p.word != 0 && (d.ownBlk (placeSlot p.word)).any (·.halted == 3)

/-- A request of an agent is not performed: it is held for `CONT`, and reported. A read of a control core's open block discards the block, whose re-execution makes it again (R363). -/
def State.notDone (s : State) (d : DieId) (a : Agent) (p : Sent) : State :=
  let s := s.modAg d a fun x => { x with refused := x.refused ++ [p] }
  let own (k : SlotId) : Bool := match (s.ctl d k).opn with
    | some o => o.phase != .draining && (match p.rd with | some r => r.seq == (s.ctl d k).ccnt && (match r.kind with | .amo _ => false | _ => true) | none => false)
    | none => false
  match a with
  | .core k => if own k then s.modSlot d k (·.discard) else s
  | a => raiseRefusal s d a

/-- A refusal of a request, as `RAST` reports it (R402, R403). -/
def State.refused (s : State) (d : DieId) (a : Agent) (p : Sent) (pkg : Nat) (h : DieId) (cause idx : Nat) : State :=
  (s.modDie d fun y => y.rast d pkg h cause idx).notDone d a p

/-- A request to a lost die (R405): a read or atomic completes with TARGET_LOST, a write is lost without a fault; either is counted. -/
def State.lostReq (s : State) (d : DieId) (a : Agent) (p : Sent) : State :=
  if p.waits then s.refused d a p ((s.die d).pkg d) p.home 6 p.idx
  else s.modDie d fun y => y.rast d (y.pkg d) p.home 6 p.idx

/-- A request of count `n` to a home; it stays among the pending until answered or acknowledged. -/
def sendReq (s : State) (d : DieId) (a : Agent) (h : DieId) (n : Nat) (rd : Option Rd) (op : SbOp) (word : Nat) (seq : W32)
    (m : Nat → Nat → Vector Nat 4 → Msg) : State :=
  let key := (s.ag d a).nkey
  let p : Sent := ⟨key, h, rd, op, word, seq, 24, match rd with | some r => r.p.va | none => op.va⟩
  if (s.die d).isLost d h then (s.modAg d a fun x => { x with nkey := key + 1 }).lostReq d a p
  else
    let s := s.modAg d a fun x => { x with nkey := key + 1, pend := x.pend ++ [p] }
    (s.modDie d fun y => y.countDie d (y.asidFor a) 35).send d h (m key n (s.die d).gate.v)

/-- A request that increments: a new count, and its message (R109, R110). -/
def countReq (s : State) (d : DieId) (a : Agent) (h : DieId) (rd : Option Rd) (op : SbOp) (word : Nat) (seq : W32)
    (m : Nat → Nat → Vector Nat 4 → Msg) : State :=
  let n := ((s.die d).bump d).1
  sendReq (s.modDie d fun y => (y.bump d).2) d a h n rd op word seq m

/-- A read of a peer: its message carries the die's own count and clock (R108 step 4). -/
def sendRead (s : State) (d : DieId) (a : Agent) (h : DieId) (idx gen off : Nat) (r : Rd) : State :=
  sendReq s d a h (vget (s.die d).gate.v d) (some r) .acqGate r.word r.seq fun key n v => .read a key n v idx gen off r.p.len

/-- The die of another package to which a message goes in a stream of its own; none for the switch (R280). -/
def NftOut.dest : NftOut → Option (BitVec 12 × DieId)
  | .fab p h _ | .query p h .. | .grant p h _ => some (p, h)
  | .ack src .. => some (src.pkg, src.die)
  | _ => none

/-- A message handed to the transport, in the queue of its class; its stream now has a message to be acknowledged (R280, R281, R412). -/
def Die.toFabric (d : Die) (dn : DieId) (m : NftOut) : Die :=
  let c := d.coe
  let resp := match m with | .grant .. | .ack .. | .mcAck .. => true | _ => false
  let st := match m.dest with | some x => if c.streams.any (·.1 == x) then c.streams else c.streams ++ [(x, d.tick dn)] | none => c.streams
  { d with coe := { c with out := if resp then c.out else c.out ++ [m], outR := if resp then c.outR ++ [m] else c.outR, streams := st } }

/-- A request over the fabric; to an unreachable die it is refused here (R412). -/
def sendFab (s : State) (d : DieId) (a : Agent) (pkg : BitVec 12) (h : DieId) (m : FabMsg) (p : Piece) (word : Nat) (seq : W32) : State :=
  let key := (s.ag d a).nkey
  let q : Sent := ⟨key, h, none, .fab pkg h m p word seq, word, seq, 24, p.va⟩
  let s := s.modAg d a fun x => { x with nkey := key + 1 }
  if (s.die d).coe.unreach.contains (pkg, h) then s.refused d a q pkg.toNat h 6 q.idx
  else (s.modAg d a fun x => { x with pend := x.pend ++ [q] }).modDie d fun y => y.toFabric d (.fab pkg h m)

/-! ## The read step (R108) -/

inductive Cov where
  | no | byte (b : Byte) (psn : Bool) | blocked
  deriving DecidableEq, Repr

def locSpace : Loc → Nat × Nat × Nat
  | .here _ => (0, 0, 0)
  | .peer h i g _ => (1 + h.val, i, g)
  | .fab p h i g _ => (16 + 4 * p.toNat + h.val, i, g)
def locOff : Loc → Nat
  | .here a => a
  | .peer _ _ _ o => o
  | .fab _ _ _ _ o => o

/-- The base of an export that a handle names, where it is valid (R97). -/
def Die.exportBase? (d : Die) (dn : DieId) (idx gen : Nat) : Option Nat :=
  let a := (d.getReg dn rEXPBASE &&& bits 47 17).toNat + 32 * idx
  let f := d.peekNat (a + 16) 8
  if bitAt (d.getReg dn rEXPBASE) 0 && f / 65536 % 2 = 1 && f % 65536 = gen then some (d.peekNat a 8 % 2 ^ 48) else none

/-- A location at its home: two names of one byte of a peer have one key (R108, R115). A handle that its home does not accept names a place of its own. -/
def State.homeKey (s : State) (l : Loc) : (Nat × Nat × Nat) × Nat :=
  match l with
  | .peer h i g o => match (s.die h).exportBase? h i g with | some b => ((1 + h.val, 0, 0), b + o) | none => ((5 + h.val, i, g), o)
  | l => (locSpace l, locOff l)

/-- Does a piece at `q` cover the byte at `p`? -/
def hasByte (q : (Nat × Nat × Nat) × Nat) (len : Nat) (p : (Nat × Nat × Nat) × Nat) : Bool := q.1 == p.1 && q.2 ≤ p.2 && p.2 < q.2 + len

/-- What one store-buffer entry holds for a byte. -/
def SbOp.cover (s : State) (o : SbOp) (b : (Nat × Nat × Nat) × Nat) : Cov :=
  match o with
  | .write ws psn _ _ =>
    match ws.find? fun w => hasByte (s.homeKey w.p.loc) w.p.len b with
    | some w => .byte (listGet 0 w.data (b.2 - (s.homeKey w.p.loc).2)) psn
    | none => .no
  | .freeh rs .. => if b.1 == (0, 0, 0) && rs.any (fun r => r.1 ≤ b.2 && b.2 < r.1 + r.2) then .byte 0 false else .no
  | .amo r _ _ _ _ => if hasByte (s.homeKey r.p.loc) r.p.len b then .blocked else .no
  | _ => .no

/-- The youngest buffered write of a byte. -/
def sbCover (s : State) (sb : List SbOp) (b : (Nat × Nat × Nat) × Nat) : Cov :=
  sb.foldl (fun c o => match o.cover s b with | .no => c | x => x) .no

/-- The bytes the agent's own held writes cover wait at the vault; a read does not see them early (R103). -/
def coverOf (s : State) (sb : List SbOp) (p : Piece) : List Cov :=
  let k := s.homeKey p.loc
  (List.range p.len).map fun i => sbCover s sb (k.1, k.2 + i)

def Cov.isNo : Cov → Bool | .no => true | _ => false
def Cov.byte? : Cov → Option Byte | .byte b _ => some b | _ => none
/-- A buffered byte of a poisoned write is poisoned (R81). -/
def Cov.psn : Cov → Bool | .byte _ q => q | _ => false

/-- The home of a location; of one in another package, which no agent reads, the own die. -/
def Loc.home (d : DieId) : Loc → DieId
  | .peer h .. => h
  | _ => d

/-- The read step of an agent's oldest read (R108). -/
def readStep (s : State) (d : DieId) (a : Agent) (e : StoreErr) : State :=
  let x := s.ag d a
  match x.rd with
  | [] => s
  | r :: rest =>
    let pop (s : State) : State := s.modAg d a fun x => { x with rd := rest }
    let cs := coverOf s x.sb r.p
    if !cs.isEmpty && cs.all (·.byte?.isSome) then finishRead (pop s) d a r (r.p.loc.home d) (s.homeKey r.p.loc).2 (cs.map fun c => c.byte?.getD 0) (cs.any Cov.psn)
    else if !cs.all Cov.isNo then s
    else match r.p.loc with
    | .here pa =>
      if !(s.die d).gateOk d then s
      else
        let s := pop (s.modDie d fun y => y.meet d pa e)
        finishRead s d a r d pa ((s.die d).peek pa r.p.len) ((s.die d).poisoned pa r.p.len)
    | .peer h idx gen off =>
      sendRead (pop s) d a h idx gen off r
    | .fab .. => pop s

/-! ## Applying writes at a home -/

def amoNew (op : AmoOp) (w64 : Bool) (old b x : Word) : Word :=
  let cut (w : Word) : Word := if w64 then w else loadVal 4 true [] (wordLe 4 w)
  let o := cut old
  let b := cut b
  match op with
  | .add => o + b
  | .and => o &&& b
  | .or => o ||| b
  | .xor => o ^^^ b
  | .min => if o.slt b then o else b
  | .max => if o.slt b then b else o
  | .swap => b
  | .cas => if o = cut x then b else o

/-- Does the atomic write at its home? A compare-and-swap only where the comparison holds (R182). -/
def amoWrites (op : AmoOp) (w64 : Bool) (old x : Word) : Bool :=
  match op with
  | .cas => if w64 then old == x else old.setWidth 32 == x.setWidth 32
  | _ => true

/-- Old bytes and the die after an atomic at its home; the line must not be poisoned (R182, R394). -/
def Die.amo (d : Die) (pa : Nat) (op : AmoOp) (w64 : Bool) (b x : Word) : List Byte × Die :=
  let n := if w64 then 8 else 4
  let old := d.peek pa n
  (old, if amoWrites op w64 (leWord old) x then d.poke pa (wordLe n (amoNew op w64 (leWord old) b x)) false else d)

/-- One write at the home with the storage error it meets (R394). -/
def Die.apply (d : Die) (dn : DieId) (pa : Nat) (bs : List Byte) (psn : Bool) (e : StoreErr) : Die :=
  if bs.isEmpty then d
  else
    let d := if wholeUnits pa bs.length then d else d.meet dn pa e
    d.poke pa bs psn

/-- Writes through one TLB entry: the same leaf and the same page of an address space. -/
def Piece.samePage (p q : Piece) : Bool := q.dirty.isSome && q.dirty == p.dirty && p.pg == q.pg && p.va / 2 ^ p.pg.bits == q.va / 2 ^ p.pg.bits
/-- The piece's entry records `D` now (R89). -/
def Piece.clean (p q : Piece) : Piece := if p.samePage q then { q with dirty := none } else q
def Wr.clean (p : Piece) (w : Wr) : Wr := { w with p := p.clean w.p }
def SbOp.clean (p : Piece) : SbOp → SbOp
  | .write ws q w n => .write (ws.map (·.clean p)) q w n
  | .freeh rs ds w n => .freeh rs (ds.map p.clean) w n
  | .amo r o w64 b x => .amo { r with p := p.clean r.p } o w64 b x
  | .fab g h m q w n => .fab g h m (p.clean q) w n
  | o => o

/-- The agents that translate through a TLB. -/
def tlbAgents : TlbId → List Agent
  | .slot k => [.core k, .eng k .lde, .eng k .are, .eng k .ste, .eng k .mxe]
  | .copy c => [.copy c]
  | .coll => [.coll]

/-- The first write through a clean TLB entry sets `D` in the leaf, by an OR at home, and that entry records it: no later write through it sets `D` again, whether it stands in a store buffer already or not (R89). -/
def Die.markDirty (d : Die) (t : TlbId) (p : Piece) : Die :=
  match p.dirty with
  | none => d
  | some leaf =>
    let d := d.poke leaf (wordLe 8 (BitVec.ofNat 64 (d.peekNat leaf 8) ||| 0x80#64)) false
    let d := d.modTlb t fun l => l.map fun e => if e.leaf == leaf && e.covers p.pg.asid p.va then { e with d := true } else e
    (tlbAgents t).foldl (fun d a => d.modAg a fun x => { x with sb := x.sb.map (·.clean p) }) d

/-- The leaf in which a piece would set `D` is poisoned: the OR is not performed, and the writer takes a bus error (R394). -/
def Die.leafBad (d : Die) (p : Piece) : Bool := match p.dirty with | some leaf => d.poisoned leaf 8 | none => false

/-- Pairing of stores (R354, R421): a store joins its side's list at the primary; the first differing pair is recorded. -/
def pairKind : Agent → Nat
  | .core _ => 0 | .eng _ .lde => 1 | .eng _ .are => 2 | .eng _ .ste => 3 | .eng _ .mxe => 4 | .copy _ => 5 | .coll => 6 | .sys _ => 7
def pairIdx : Agent → Nat
  | .core k | .eng k _ => k.val | .copy c => c.val | .coll => 0 | .sys n => n.val

def Die.paired (d : Die) (dn : DieId) : Option (Bool × DieId) :=
  let r := d.getReg dn rPAIRCTL
  if bitAt r 63 && mkDie (fld r 0 2) != dn then some (bitAt r 61, mkDie (fld r 0 2)) else none

/-- The aligned dword at `w` of bytes that start at `pa`; bytes the store does not hold are 0. -/
def dwordAt (pa : Nat) (l : List Byte) (w : Nat) : Word := leWord ((List.range 8).map fun j => if pa ≤ w + j then listGet 0 l (w + j - pa) else 0)

/-- The first aligned dword in which two runs of bytes from `pa` differ: its address and both values. -/
def firstDiff (pa : Nat) (a b : List Byte) : Nat × Word × Word :=
  let n := max a.length b.length
  let i := ((List.range n).find? fun i => a[i]? != b[i]?).getD 0
  let w := (pa + i) / 8 * 8
  (w, dwordAt pa a w, dwordAt pa b w)

def Die.divergence (d : Die) (dn : DieId) (tick : Word) (ag : Agent) (addr : Nat) (vp vs : Word) : Die :=
  if bitAt (d.getReg dn rPAIRCTL) 62 then d
  else
    let d := d.setReg rDTICK tick
    let d := d.setReg rDADDR (BitVec.ofNat 64 (2 ^ 53 * pairKind ag + 2 ^ 48 * pairIdx ag + addr))
    let d := (d.setReg rDVALP vp).setReg rDVALS vs
    let d := d.setRf dn rPAIRCTL 62 1 1
    { trcRecord dn d 6 [] with pair := [] }

/-- The place that marks stores of the scheduler; they form an order of their own and are reported under `AKIND` 7, `AIDX` 0 (log entry 114). -/
def schedDst : Nat := 100000

/-- A store enters the comparator of the primary die `pd` (R354). -/
def Die.pairAdd (d : Die) (pd : DieId) (x : PairSt) : Die :=
  if bitAt (d.getReg pd rPAIRCTL) 62 then d
  else match d.pair.find? fun y => y.prim != x.prim && y.ag == x.ag && decide (y.dst.1 = schedDst) == decide (x.dst.1 = schedDst) with
  | some y =>
    let p := if x.prim then x else y
    let q := if x.prim then y else x
    let d := { d with pair := d.pair.erase y }
    if p.dst == q.dst && p.pa == q.pa && p.size == q.size && p.data == q.data then d
    else
      let f := if p.pa == q.pa then firstDiff p.pa p.data q.data else (p.pa / 8 * 8, dwordAt p.pa p.data (p.pa / 8 * 8), dwordAt q.pa q.data (q.pa / 8 * 8))
      d.divergence pd p.tick p.ag f.1 f.2.1 f.2.2
  | none => { d with pair := d.pair ++ [x] }

/-- Room in the comparator for `n` more stores: 4,096 unpaired ones for each die (R421). A comparator whose die a shutter stop has gated takes none (R350). -/
def State.pairRoom (s : State) (d : DieId) (n : Nat) : Bool :=
  match (s.die d).paired d with
  | none => true
  | some (pri, p) =>
    let home := if pri then d else p
    ((s.die home).pair.filter fun x => x.prim == pri).length + n ≤ 4096 && !(s.die home).gated

/-- A store as the comparator takes it: where it goes, its address there, its bytes, its size. -/
structure PairIn where
  dst : Nat × Nat × Nat
  pa : Nat
  data : List Byte
  size : Nat
  deriving DecidableEq, Repr

/-- A store of bytes to the die's own memory. -/
def PairIn.mem (pa : Nat) (bs : List Byte) : PairIn := ⟨(0, 0, 0), pa, bs, bs.length⟩

def State.pairStores (s : State) (d : DieId) (a : Agent) (ws : List PairIn) : State :=
  match (s.die d).paired d with
  | none => s
  | some (pri, p) =>
    let home := if pri then d else p
    ws.foldl (fun s w => s.modDie home fun x => x.pairAdd home ⟨pri, a, w.dst, w.size, w.pa, w.data, s.tick d⟩) s

/-- An atomic's operation as bytes of the request that names it. -/
def AmoOp.byte : AmoOp → Byte
  | .add => 0 | .and => 1 | .or => 2 | .xor => 3 | .min => 4 | .max => 5 | .swap => 6 | .cas => 7

/-- The stores an entry of a store buffer makes, as they are compared (R353, R354), by their physical addresses at their homes: an atomic by the bytes it leaves at a local home, and by its whole request (operand, operation and compare value) where the home is elsewhere. The zeros of `freeh` are one store. -/
def SbOp.pairIns (s : State) (d : DieId) (o : SbOp) : List PairIn :=
  match o with
  | .write ws _ _ _ => ws.map fun w => ⟨(s.homeKey w.p.loc).1, (s.homeKey w.p.loc).2, w.data, w.p.len⟩
  | .freeh rs .. => [⟨(0, 0, 0), match rs with | r :: _ => r.1 | [] => 0, rs.flatMap fun r => natLe 8 r.1 ++ natLe 8 r.2, rs.foldl (fun n r => n + r.2) 0⟩]
  | .amo r op w64 b x =>
    let n := r.p.len
    match r.p.loc with
    | .here pa =>
      let old := leWord ((s.die d).peek pa n)
      [⟨(0, 0, 0), pa, wordLe n (if amoWrites op w64 old x then amoNew op w64 old b x else old), n⟩]
    | l => [⟨(s.homeKey l).1, (s.homeKey l).2, wordLe n b ++ op.byte :: (if op == .cas then wordLe n x else []), n⟩]
  | .seminc h k i => if h == d then [] else [⟨(9 + h.val, k.val, i.val), 0, [], 0⟩]
  | .arrive h g i => [⟨(13 + h.val, g.toNat, i.val), 0, [], 0⟩]
  | .fab p h m .. =>
    let at_ (i g : Nat) : Nat × Nat × Nat := (16 + 4 * p.toNat + h.val, i, g)
    match m with
    | .write _ i g o bs => [⟨at_ i g, o, bs, bs.length⟩]
    | .sem _ k i => [⟨at_ k.val i.val, 0, [], 1⟩]
    | .arrive _ g i => [⟨at_ g.toNat i.val, 0, [], 2⟩]
    | .marker _ => []
  | _ => []

/-- The partner of a pair keeps its effects inside the pair (R353). -/
def State.muted (s : State) (d : DieId) : Bool := match (s.die d).paired d with | some (pri, _) => !pri | none => false

/-! ## Tokens and semaphores -/

/-- One unit to each masked channel, and whether some channel stood at 255 (R186, R188). -/
def gainToks (v : Vector Byte 8) (mask : Byte) : Vector Byte 8 × Bool :=
  (Vector.ofFn fun i => if mask.getLsbD i.val && vget v i != 255 then vget v i + 1 else vget v i,
   (List.finRange 8).any fun i => mask.getLsbD i.val && vget v i == 255)
def hasToks (v : Vector Byte 8) (mask : Byte) : Bool := (List.finRange 8).all fun i => !mask.getLsbD i.val || vget v i != 0
def takeToks (v : Vector Byte 8) (mask : Byte) : Vector Byte 8 := Vector.ofFn fun i => if mask.getLsbD i.val then vget v i - 1 else vget v i

def State.incSem (s : State) (d : DieId) (k : SlotId) (i : Fin 32) (v : W32) : State :=
  s.modSlot d k fun t => { t with sems := vmod t.sems i (· + v) }

/-- A semaphore as the slot's strand reads it under R108: its own youngest buffered `semset`, else the sync unit's value once every known count is accounted for; a wait while a younger `semadd` of its own is buffered. -/
def semSeen (y : Die) (dn : DieId) (k : SlotId) (i : Fin 32) : Option W32 :=
  let t := y.slot k
  let own : Option (Option W32) := t.agCtl.sb.foldl (fun v o => match o with
    | .sem set j x => if j == i then some (if set then some x else none) else v
    | _ => v) none
  match own with
  | some v => v
  | none => if y.gateOk dn then some (vget t.sems i) else none

/-! ## Release conditions (R118) -/

/-- Every entry of the slot pushed before the counts `ps` has completed, on every queue. -/
def Slot.doneUpTo (t : Slot) (ps : Vector W32 6) : Bool :=
  (List.finRange 6).all fun q => decide ((vget ps q - vget t.cseq q).toNat = 0) || decide (2 ^ 31 ≤ (vget ps q - vget t.cseq q).toNat)

def SbOp.isFab : SbOp → Bool | .fab .. => true | _ => false
/-- Fabric writes of the agents that run the slot's entries that no acknowledgement has reached. -/
def Die.fabQuiet (d : Die) (k : SlotId) : Bool :=
  !((vget d.cpe (clusterOf k)).ag.sb.any SbOp.isFab) && !((vget d.cpe (clusterOf k)).ag.pend.any fun p => p.op.isFab)
    && !(d.coe.ag.sb.any SbOp.isFab) && !(d.coe.ag.pend.any fun p => p.op.isFab)

/-- The `rel` condition at a scope: 0 .s, 1 .c, 2 .d, 3 .k, 4 .f. `own` is the part of the store buffer that must have left. -/
def relMet (d : Die) (k : SlotId) (scope : Nat) (ps : Vector W32 6) (own : List SbOp) : Bool :=
  own.isEmpty && (scope == 0 || (d.slot k).doneUpTo ps) && (scope < 4 || d.fabQuiet k)

/-- The acquire condition of R118: the strand's pending set is empty. An atomic of its own that is held at a pinned line still awaits its reply (R183). -/
def acqMet (d : Die) (dn : DieId) (k : SlotId) : Bool :=
  !((d.slot k).agCtl.pend.any Sent.waits) &&
  !(d.held.any fun h => h.ag == .core k && h.src == dn && h.fab == none && (match h.op with | .amo .. => true | _ => false))

/-! ## Held writes (R103) -/

/-- Local lines of an operation. -/
def SbOp.lines (o : SbOp) : List Nat :=
  match o with
  | .write ws _ _ _ => ws.flatMap fun w => match w.p.loc with | .here pa => linesOf pa w.data.length | _ => []
  | .freeh rs .. => rs.flatMap fun r => linesOf r.1 r.2
  | .amo r _ _ _ _ => match r.p.loc with | .here pa => linesOf pa r.p.len | _ => []
  | _ => []

/-- A held write is performed once no line of it is pinned (R103); a peer's write then counts as applied. -/
def heldReady (d : Die) (h : Held) : Bool := !(h.op.lines.any d.pins.contains)

/-- Held writes of one sender. -/
def Die.heldOf (d : Die) (a : Agent) (src : DieId) (fab : Option FabSrc) : List Held := d.held.filter fun h => h.ag == a && h.src == src && h.fab == fab

/-- A write is held: a line of it is pinned, an earlier held write of its sender is to the same line, or one is due to be performed first (R103, R109). Writes of a sender over the fabric are applied in issue order, so each waits behind any that is held (R124). -/
def Die.mustHold (d : Die) (a : Agent) (src : DieId) (fab : Option FabSrc) (lines : List Nat) : Bool :=
  let mine := d.heldOf a src fab
  lines.any d.pins.contains || (fab.isSome && !mine.isEmpty) || (match mine with | h :: _ => heldReady d h | [] => false) || mine.any fun h => h.op.lines.any lines.contains

/-- Writes of a sender are held here: its increments wait behind them (R103, R124, R271). -/
def Die.behind (d : Die) (a : Agent) (src : DieId) (fab : Option FabSrc) : Bool := !(d.heldOf a src fab).isEmpty

def Die.hold (d : Die) (dn : DieId) (a : Agent) (src : DieId) (op : SbOp) (key : Nat) (fab : Option FabSrc) : Die :=
  { d with held := d.held ++ [⟨a, src, op, d.tick dn, key, fab⟩] }

/-! ## The drain step (R109) -/

/-- Physical ranges of a write's local pieces. -/
def localWrs (ws : List Wr) : List (Nat × List Byte) :=
  ws.filterMap fun w => match w.p.loc with | .here pa => some (pa, w.data) | _ => none
/-- Peer homes a write reaches. -/
def peerHomes (ws : List Wr) : List DieId :=
  allDies.filter fun h => ws.any fun w => match w.p.loc with | .peer g .. => g == h | _ => false
def peerWrs (h : DieId) (ws : List Wr) : List (Nat × Nat × Nat × List Byte) :=
  ws.filterMap fun w => match w.p.loc with | .peer g i n o => if g == h then some (i, n, o, w.data) else none | _ => none

/-- A context that its `kframe` has set up; until then it only runs that word (R285). -/
def KCtx.up (k : KCtx) : Bool := k.nr != 0
/-- A running context of a group (R292). -/
def KCtx.runs (k : KCtx) (grp : BitVec 12) : Bool := k.up && !k.stopped && k.grp == grp

/-- An arrival is counted in the running context of the group, or, where none runs, in those that stand stopped or saved with their blocks (R292, R298). -/
def Die.arrive (d : Die) (grp : BitVec 12) (i : Fin 64) : Die :=
  let add (x : KCtx) : KCtx := { x with cnts := vmod x.cnts i (· + 1) }
  if d.coe.ctx.toList.any (fun x => x.any (·.runs grp)) then
    { d with coe := { d.coe with ctx := d.coe.ctx.map fun x => x.map fun x => if x.runs grp then add x else x } }
  else
    let hit (x : KCtx) : KCtx := if x.up && x.grp == grp then add x else x
    { d with
      coe := { d.coe with ctx := d.coe.ctx.map fun x => x.map hit }
      sched := { d.sched with launches := d.sched.launches.map fun l => { l with blks := l.blks.map fun b => { b with ctxs := b.ctxs.map hit } } } }

/-- An atomic at the own die as its home, and its old value (R182, R394). -/
def localAmo (s : State) (d : DieId) (a : Agent) (r : Rd) (op : AmoOp) (w64 : Bool) (b x : Word) (e : StoreErr) : State :=
  let pa := locOff r.p.loc
  let s := s.modDie d fun y => y.meet d pa e
  if (s.die d).poisoned pa r.p.len then (match a with | .core k => poisonLater s d k r (.amo r op w64 b x) | _ => s)
  else
    let p := (s.die d).amo pa op w64 b x
    finishRead (s.modDie d fun _ => p.2) d a r d pa p.1 false

/-- Local writes applied at once, or held (R103, R109). The zeros of `freeh` are held for their pinned lines only, each line by itself (R103, R199). -/
def applyLocal (s : State) (d : DieId) (a : Agent) (op : SbOp) (e : StoreErr) : State :=
  let y := s.die d
  match op with
  | .write ws psn _ _ =>
    if y.mustHold a d none op.lines then s.modDie d fun y => y.hold d a d op 0 none
    else s.modDie d fun y => (localWrs ws).foldl (fun y w => y.apply d w.1 w.2 psn e) y
  | .freeh rs ds word seq =>
    let late := op.lines.filter fun l => y.mustHold a d none [l]
    if late.isEmpty then s.modDie d fun y => rs.foldl (fun y r => y.freeLines r.1 r.2) y
    else
      let s := s.modDie d fun y => (op.lines.filter fun l => !late.contains l).foldl (fun y l => y.freeLines (128 * l) 128) y
      let through (l : Nat) : List Piece := ds.filter fun p => locOff p.loc ≤ 128 * l && 128 * l < locOff p.loc + p.len
      s.modDie d fun y => late.foldl (fun y l => y.hold d a d (.freeh [(128 * l, 128)] (through l) word seq) 0 none) y
  | .amo r op' w64 b x =>
    match r.p.loc with
    | .here _ =>
      if y.mustHold a d none op.lines then s.modDie d fun y => y.hold d a d op 0 none
      else localAmo s d a r op' w64 b x e
    | _ => s
  | .seminc _ k i => s.incSem d k i 1
  | .arrive _ grp i => s.modDie d fun y => y.arrive grp i
  | _ => s

/-- The head leaves the store buffer; an arrival of the strand waits for one entry fewer (R194). -/
def popSb (s : State) (d : DieId) (a : Agent) : State :=
  let s := s.modAg d a fun x => { x with sb := x.sb.drop 1 }
  match a with
  | .core k => s.modCtl d k fun c => { c with arvs := c.arvs.map fun v => (v.1, v.2.1 - 1, v.2.2) }
  | _ => s

/-- The first line of a write at the head of a store buffer is written; its peer lines go together, with one count (R109, R116). The first step marks every page of the write (R89). -/
def drainWrite (s : State) (d : DieId) (a : Agent) (e : StoreErr) (ws : List Wr) (psn : Bool) (word : Nat) (seq : W32) : State :=
  let s := s.modDie d fun y => ws.foldl (fun y w => y.markDirty (tlbOf a) w.p) y
  let isPeer (w : Wr) : Bool := match w.p.loc with | .peer .. => true | _ => false
  let go (rest : List Wr) (s : State) : State :=
    if rest.isEmpty then popSb s d a
    else s.modAg d a fun x => { x with sb := .write (rest.map fun w => { w with p := { w.p with dirty := none } }) psn word seq :: x.sb.drop 1 }
  match ws with
  | [] => popSb s d a
  | w :: rest =>
    if isPeer w then
      let mine := ws.filter isPeer
      let s := (go (ws.filter fun w => !isPeer w) s).pairStores d a ((SbOp.write mine psn word seq).pairIns s d)
      if s.muted d then s
      else
        let n := ((s.die d).bump d).1
        (peerHomes mine).foldl (fun s h =>
          let ours := mine.filter fun w => match w.p.loc with | .peer g .. => g == h | _ => false
          sendReq s d a h n none (.write ours psn word seq) word seq fun key n v => .write a key n v (peerWrs h ours) psn)
          (s.modDie d fun y => (y.bump d).2)
    else
      let op : SbOp := .write [w] psn word seq
      applyLocal ((go rest s).pairStores d a (op.pairIns s d)) d a op e

/-- The head entry of a store buffer cannot set `D` in a poisoned leaf: nothing of it is performed, and it is held with a bus error (R89, R394). -/
def leafStuck (s : State) (d : DieId) (a : Agent) (op : SbOp) (p : Piece) : State :=
  let key := (s.ag d a).nkey
  ((popSb s d a).modAg d a fun x => { x with nkey := key + 1 }).notDone d a
    ⟨key, d, match op with | .amo r .. => some r | _ => none, op, op.place.1, op.place.2, 23, p.va⟩

/-- The head entry of an agent's store buffer is taken (R109). What a partner of a pair does outside the pair is compared, and discarded (R353). -/
def drainStep (s : State) (d : DieId) (a : Agent) (e : StoreErr) : State :=
  let x := s.ag d a
  match x.sb with
  | [] => s
  | op :: _ =>
    let pop (s : State) : State := popSb s d a
    let cmp (s : State) : State := s.pairStores d a (op.pairIns s d)
    match op.pieces.find? (s.die d).leafBad with
    | some p => leafStuck s d a op p
    | none =>
    match op with
    | .write ws psn word seq => if !s.pairRoom d ws.length then s else drainWrite s d a e ws psn word seq
    | .freeh _ ds _ _ =>
      if !s.pairRoom d 1 then s
      else applyLocal (cmp ((pop s).modDie d fun y => ds.foldl (fun y p => y.markDirty (tlbOf a) p) y)) d a op e
    | .amo r op' w64 b y =>
      if !s.pairRoom d 1 then s
      else
        let s := cmp ((pop s).modDie d fun z => z.markDirty (tlbOf a) r.p)
        match r.p.loc with
        | .here _ => applyLocal s d a op e
        | .peer h idx gen off =>
          if s.muted d then (match a with | .core k => let p := s.draw; p.2.modSlot d k fun t => t.fillTag r.tag (Config.freeWord p.1) | _ => s)
          else countReq s d a h (some r) op r.word r.seq fun key n v => .amo a key n v idx gen off op' w64 b y
        | .fab .. => s
    | .relGate full sc ps =>
      match a with
      | .core k =>
        if relMet (s.die d) k (sc.toNat + 1) ps [] && (!full || acqMet (s.die d) d k) then (if 2 ≤ sc.toNat then (pop s).beats d else pop s) else s
      | _ => pop s
    | .acqGate =>
      match a with
      | .core k =>
        let more := (x.sb.drop 1).any fun o => match o with | .acqGate => true | _ => false
        if acqMet (s.die d) d k then (pop s).modCtl d k fun c => { c with acq := if more then c.acq else none } else s
      | _ => pop s
    | .sem set i v =>
      match a with
      | .core k => pop (s.modSlot d k fun t => { t with sems := vmod t.sems i fun w => if set then v else w + v })
      | _ => pop s
    | .seminc h k i =>
      if h == d then (if (s.die d).behind a d none then pop (s.modDie d fun y => y.hold d a d op 0 none) else pop (s.incSem d k i 1))
      else if !s.pairRoom d 1 then s
      else if s.muted d then cmp (pop s)
      else countReq (cmp (pop s)) d a h none op 0 0 fun key n v => .seminc a key n v k i
    | .arrive h grp i =>
      if !s.pairRoom d 1 then s
      else if s.muted d then cmp (pop s)
      else countReq (cmp (pop s)) d a h none op 0 0 fun key n v => .arrive a key n v grp i
    | .tsig mask blk word seq =>
      match a with
      | .core k =>
        let g := gainToks (s.slot d k).toks mask
        let s := pop (s.modSlot d k fun t => { t with toks := g.1 })
        if g.2 then s.modCtl d k fun c => c.setDue ⟨10, BitVec.ofNat 64 blk, BitVec.ofNat 64 word, 0, seq, 0, 0⟩ else s
      | _ => pop s
    | .sysc .. => s
    | .fab pkg h m p word seq =>
      if !s.pairRoom d 1 then s
      else
        let s := cmp ((pop s).modDie d fun y => y.markDirty (tlbOf a) p)
        if s.muted d then s else sendFab s d a pkg h m p word seq

/-- A request that was not performed is made again: to its home with a new count where it has one (R402). What met poison or a leaf of the own die has not left it, and is no message. -/
def resendOne (s : State) (d : DieId) (a : Agent) (p : Sent) : State :=
  match p.rd, p.op with
  | _, .fab pkg h m pc word seq => sendFab s d a pkg h m pc word seq
  | some r, .amo _ op w64 b x =>
    match r.p.loc with
    | .peer h i g o => countReq s d a h (some r) p.op p.word p.seq fun key n v => .amo a key n v i g o op w64 b x
    | _ => s
  | some r, _ => match r.p.loc with | .peer h i g o => sendRead s d a h i g o r | _ => s
  | none, .write ws psn _ _ => countReq s d a p.home none p.op p.word p.seq fun key n v => .write a key n v (peerWrs p.home ws) psn
  | none, .seminc h k i => countReq s d a h none p.op 0 0 fun key n v => .seminc a key n v k i
  | none, .arrive h grp i => countReq s d a h none p.op 0 0 fun key n v => .arrive a key n v grp i
  | none, _ => s

end Sys2Proof.Machine
end

