-- ==== Sys2Proof/Machine/Operands.lean ====
section
/-! DEFINITION. Operand forms of the control stream: sources with their B bits, destinations, the body loop of R132, and the one frame in which every CTL body word runs. -/

namespace Sys2Proof.Machine

/-! ## Registers (R169, R170) -/

def ridx (r : BitVec 5) : Fin 32 := ⟨r.toNat, r.isLt⟩
def pidx (p : BitVec 3) : Fin 8 := ⟨p.toNat, p.isLt⟩

/-- s0 reads zero and full. -/
def Regs.get (r : Regs) (i : BitVec 5) : Word := if i = 0 then 0 else (vget r.x (ridx i)).val
def Regs.isFull (r : Regs) (i : BitVec 5) : Bool := i == 0 || (vget r.x (ridx i)).wait.isNone
/-- A write sets the register full; a write to s0 is discarded. -/
def Regs.put (r : Regs) (i : BitVec 5) (v : Word) : Regs := if i = 0 then r else { r with x := vset r.x (ridx i) ⟨v, none⟩ }
/-- The destination of a load, atomic or pop becomes empty until its value arrives. -/
def Regs.empty (r : Regs) (i : BitVec 5) (tag : Nat) : Regs :=
  if i = 0 then r else { r with x := vmod r.x (ridx i) fun x => { x with wait := some tag } }
/-- p0 reads true. -/
def Regs.pget (r : Regs) (i : BitVec 3) : Bool := i == 0 || vget r.p (pidx i)
def Regs.pput (r : Regs) (i : BitVec 3) (b : Bool) : Regs := if i = 0 then r else { r with p := vset r.p (pidx i) b }

def Open.put (o : Open) (i : BitVec 5) (v : Word) : Open := { o with regs := o.regs.put i v }
def Open.pput (o : Open) (i : BitVec 3) (b : Bool) : Open := { o with regs := o.regs.pput i b }
def Open.hold (o : Open) (x : CtlOp) : Open := { o with ops := o.ops ++ [x] }

/-! ## The body loop (R132) -/

def Open.leave (o : Open) : Open := if o.nex = 0 then { o with phase := .ready, succ := .fall } else { o with phase := .exits 0 }

/-- After a body word of `h` halfwords with its `NA` field. -/
def Open.adv (o : Open) (h : Nat) (na : BitVec 2) : Open :=
  let nxt := o.pos + h
  let last := decide (o.len + 2 ≤ nxt)
  if na = 1 then o.leave
  else if na = 2 || last then
    if o.iter + 1 < o.count then { o with iter := o.iter + 1, pos := o.first }
    else if last then { o with iter := o.iter + 1 }.leave
    else { o with iter := o.iter + 1, pos := nxt }
  else { o with pos := nxt }

/-- The address of the word at a position. -/
def Open.at_ (o : Open) (pos : Nat) : Word := o.hdr + BitVec.ofNat 64 (2 * pos)
def Open.here (o : Open) : Word := o.at_ o.pos

/-! ## One body word -/

/-- What a body word comes to: it runs; it waits; or it fails with a code, address, unit and info. -/
inductive CRes where
  | ok (s : State) (o : Open)
  | wait (s : State)
  | fault (s : State) (code : Nat) (addr : Word) (unit : Nat) (info : Word)

/-- The fault of a CTL block at a position; an earlier word that fails a check is named first (R149, R363). -/
def ctlFault (s : State) (d : DieId) (k : SlotId) (o : Open) (pos code : Nat) (addr : Word) (unit : Nat) (info : Word) : State :=
  let seq := (s.ctl d k).ccnt
  match o.bad with
  | some b =>
    if b < pos then takeFault s d k 0 ⟨2, o.hdr, o.at_ b, 0, seq, 0, 0⟩
    else takeFault s d k 0 ⟨code, o.hdr, o.at_ pos, addr, seq, unit, info⟩
  | none => takeFault s d k 0 ⟨code, o.hdr, o.at_ pos, addr, seq, unit, info⟩

def State.setOpn (s : State) (d : DieId) (k : SlotId) (o : Open) : State := s.modCtl d k fun c => { c with opn := some o }

/-- A body word of `h` halfwords in the open block of the current slot. -/
def ctlDo (h : Nat) (na : BitVec 2) (f : State → DieId → SlotId → Open → CRes) (s : State) : Host.Outcome State Fault Refusal :=
  match s.cur.ag with
  | .core k =>
    match (s.ctl s.cur.die k).opn with
    | none => .next s
    | some o =>
      match f s s.cur.die k o with
      | .ok s' o' => .next (s'.setOpn s.cur.die k (o'.adv h na))
      | .wait s' => .next s'
      | .fault s' code addr unit info => .next (ctlFault s' s.cur.die k o o.pos code addr unit info)
  | _ => .next s

/-- A source under its B bit: it waits while empty with B = 0, and fails with B = 1 (R170). -/
def src (s : State) (o : Open) (b : Bool) (r : BitVec 5) (f : Word → CRes) : CRes :=
  if o.regs.isFull r then f (o.regs.get r)
  else if b then .fault s 4 0 0 0 else .wait s

/-- `RRR`: d ← g a b. DESIGN CHOICE (log entry 145; R170 gives no order): the sources of every word are tested in the order A, B (the value before the address in stores, A, B, D in `amocas`), so an empty source with B = 0 that stands first makes the word wait before one with B = 1 faults. -/
def ctl2 (o : RRR) (g : Word → Word → Word) (s : State) : Host.Outcome State Fault Refusal :=
  ctlDo 2 o.na (fun s _ _ b => src s b o.ba o.a fun x => src s b o.bb o.b fun y => .ok s (b.put o.d (g x y))) s
/-- `RRR` with one source. -/
def ctl1 (o : RR) (g : Word → Word) (s : State) : Host.Outcome State Fault Refusal :=
  ctlDo 2 o.na (fun s _ _ b => src s b o.ba o.a fun x => .ok s (b.put o.d (g x))) s
/-- `RI` with its immediate sign-extended. -/
def ctlI (o : RI) (g : Word → Word → Word) (s : State) : Host.Outcome State Fault Refusal :=
  ctlDo 2 o.na (fun s _ _ b => src s b o.ba o.a fun x => .ok s (b.put o.d (g x (o.imm.signExtend 64)))) s
/-- Shifts by a constant. -/
def ctlSh (o : RSh) (g : Word → Nat → Word) (s : State) : Host.Outcome State Fault Refusal :=
  ctlDo 2 o.na (fun s _ _ b => src s b o.ba o.a fun x => .ok s (b.put o.d (g x o.sh.toNat))) s
/-- Compact word with an immediate; `d` is also the source where `g` reads it (R128). -/
def ctlCI (o : CI) (g : Word → Word → Word) (s : State) : Host.Outcome State Fault Refusal :=
  ctlDo 1 0 (fun s _ _ b => src s b false o.d fun x => .ok s (b.put o.d (g x (o.imm.signExtend 64)))) s
/-- Compact word d ← g d a. -/
def ctlCR (o : CR) (g : Word → Word → Word) (s : State) : Host.Outcome State Fault Refusal :=
  ctlDo 1 0 (fun s _ _ b => src s b false o.d fun x => src s b false o.a fun y => .ok s (b.put o.d (g x y))) s
/-- Predicate logic. -/
def ctlP (o : RPl) (g : Bool → Bool → Bool) (s : State) : Host.Outcome State Fault Refusal :=
  ctlDo 2 o.na (fun s _ _ b => .ok s (b.pput o.pd (g (b.regs.pget o.pa) (b.regs.pget o.pb)))) s

/-! ## Scalar accesses (R179 to R183) -/

/-- The checks of R181, in their order. -/
def scalarAccess (s : State) (d : DieId) (k : SlotId) (ea : Word) (size : Nat) (rd wr : Bool) (f : State → Piece → CRes) : CRes :=
  if ea.toNat % size != 0 then .fault s 19 ea 0 0
  else
    match access d (s.die d) ((s.die d).who (.core k) k) ea.toNat size (needScalar rd wr) with
    | .ok y p => f (s.modDie d fun _ => y) p
    | .wait y => .wait (s.modDie d fun _ => y)
    | .fault y c x => .fault (s.modDie d fun _ => y) c (BitVec.ofNat 64 x) 0 0

/-- What one held operation of the block stores at a byte: a store, or the zeros of `freeh` (R104, R133). -/
def CtlOp.byteAt (s : State) (b : (Nat × Nat × Nat) × Nat) : CtlOp → Option Byte
  | .store w _ => if hasByte (s.homeKey w.p.loc) w.p.len b then some (listGet 0 w.data (b.2 - (s.homeKey w.p.loc).2)) else none
  | .freeh rs .. => if b.1 == (0, 0, 0) && rs.any (fun r => r.1 ≤ b.2 && b.2 < r.1 + r.2) then some 0 else none
  | _ => none

/-- Bytes of a location that the block's own earlier stores cover, the youngest of each (R133, R179). -/
def ownStores (s : State) (ops : List CtlOp) (p : Piece) : List (Nat × Byte) :=
  let k := s.homeKey p.loc
  (List.range p.len).filterMap fun i =>
    (ops.foldl (fun r x => match x.byteAt s (k.1, k.2 + i) with | some b => some b | none => r) none).map fun b => (i, b)

/-- A fresh tag for a register that a later value fills. -/
def State.newTag (s : State) (d : DieId) (k : SlotId) : Nat × State :=
  ((s.ctl d k).ntag, s.modCtl d k fun c => { c with ntag := c.ntag + 1 })

/-- The acquire of an atomic holds every later access of the strand until its gate has left the store buffer (R114, R183). -/
def held (s : State) (d : DieId) (k : SlotId) (f : CRes) : CRes := if (s.ctl d k).acq.isSome then .wait s else f

/-- A scalar load (R179). -/
def ctlLoad (o : RI) (size : Nat) (sgn : Bool) (s : State) : Host.Outcome State Fault Refusal :=
  ctlDo 2 o.na (fun s d k b => src s b o.ba o.a fun x => held s d k <|
    scalarAccess s d k (x + o.imm.signExtend 64) size true false fun s p =>
      let ovr := ownStores s b.ops p
      if ovr.length == size then .ok s (b.put o.d (loadVal size sgn ovr []))
      else
        let t := s.newTag d k
        let r : Rd := ⟨t.1, p, .scalar size sgn ovr, packPlace b.hdr b.here 0, (s.ctl d k).ccnt⟩
        .ok (t.2.modAg d (.core k) fun a => { a with rd := a.rd ++ [r] }) { b with regs := b.regs.empty o.d t.1 }) s

/-- A scalar store (R180); the 65th access of a block is a block-capacity fault (R133). -/
def ctlStore (o : RSt) (size : Nat) (s : State) : Host.Outcome State Fault Refusal :=
  ctlDo 2 o.na (fun s d k b => src s b o.bv o.v fun v => src s b o.ba o.a fun x => held s d k <|
    scalarAccess s d k (x + o.imm.signExtend 64) size false true fun s p =>
      if b.nst = 64 then .fault s 3 0 0 0
      else .ok s ({ b with nst := b.nst + 1 }.hold (.store ⟨p, wordLe size v⟩ (packPlace b.hdr b.here 0)))) s

/-- An atomic (R182, R183). For `amocas` the working value of D is a source that waits while empty. -/
def ctlAmo (o : RAmo) (op : AmoOp) (s : State) : Host.Outcome State Fault Refusal :=
  ctlDo 2 o.na (fun s d k b => src s b o.ba o.a fun ea => src s b o.bb o.b fun v =>
    src s b false (if op == .cas then o.d else 0) fun _ => held s d k <|
    scalarAccess s d k ea (if o.w64 then 8 else 4) true true fun s p =>
      if b.nst = 64 then .fault s 3 0 0 0
      else
        let t := s.newTag d k
        let r : Rd := ⟨t.1, p, .amo o.w64, packPlace b.hdr b.here 0, (s.ctl d k).ccnt⟩
        .ok t.2 ({ b with nst := b.nst + 1, regs := b.regs.empty o.d t.1 }.hold (.amo r op o.w64 o.ord o.scope v (b.regs.get o.d)))) s

end Sys2Proof.Machine
end

