-- ==== Sys2Proof/Machine/CtlScalar.lean ====
section
/-! DEFINITION. Control core: compact words, integer, multiply and divide, immediates, compares, predicate logic, select, scalar loads and stores, atomics (R128, R171 to R183). -/

namespace Sys2Proof.Machine

abbrev Out := Host.Outcome State Fault Refusal

/-! ## Results (R171, R175) -/

def sllW (a : Word) (n : Nat) : Word := a <<< n
def srlW (a : Word) (n : Nat) : Word := a >>> n
def sraW (a : Word) (n : Nat) : Word := a.sshiftRight n
def rorW (a : Word) (n : Nat) : Word := a.rotateRight n
/-- Shift amounts are B[5:0]. -/
def amt (b : Word) : Nat := b.toNat % 64
def minS (a b : Word) : Word := if b.slt a then b else a
def maxS (a b : Word) : Word := if a.slt b then b else a
def minU (a b : Word) : Word := if b.ult a then b else a
def maxU (a b : Word) : Word := if a.ult b then b else a
/-- Leading zero bits; 64 for zero. -/
def clzW (a : Word) : Word := BitVec.ofNat 64 (if a = 0 then 64 else 63 - Nat.log2 a.toNat)
/-- Trailing zero bits; 64 for zero. -/
def ctzW (a : Word) : Word := BitVec.ofNat 64 ((((List.range 64).find? fun i => a.getLsbD i)).getD 64)
def popcW (a : Word) : Word := BitVec.ofNat 64 ((List.range 64).filter fun i => a.getLsbD i).length
def sextwW (a : Word) : Word := (a.setWidth 32).signExtend 64
def zextwW (a : Word) : Word := (a.setWidth 32).setWidth 64
/-- The high half of a product of 128 bits. -/
def mulhW (a b : Word) : Word := BitVec.ofInt 64 (a.toInt * b.toInt / 2 ^ 64)
def mulhuW (a b : Word) : Word := BitVec.ofNat 64 (a.toNat * b.toNat / 2 ^ 64)
def mulhsuW (a b : Word) : Word := BitVec.ofInt 64 (a.toInt * (b.toNat : Int) / 2 ^ 64)
/-- Division truncates toward zero; by zero it gives −1; −2^63 ÷ −1 wraps to −2^63. -/
def divW (a b : Word) : Word := if b = 0 then BitVec.allOnes 64 else BitVec.ofInt 64 (a.toInt.tdiv b.toInt)
def divuW (a b : Word) : Word := if b = 0 then BitVec.allOnes 64 else BitVec.ofNat 64 (a.toNat / b.toNat)
def remW (a b : Word) : Word := if b = 0 then a else BitVec.ofInt 64 (a.toInt.tmod b.toInt)
def remuW (a b : Word) : Word := if b = 0 then a else BitVec.ofNat 64 (a.toNat % b.toNat)

/-! ## Compact words (R128) -/

def execCAddi (o : CI) (s : State) : Out := ctlCI o (· + ·) s
def execCLi (o : CI) (s : State) : Out := ctlDo 1 0 (fun s _ _ b => .ok s (b.put o.d (o.imm.signExtend 64))) s
def execCMv (o : CR) (s : State) : Out := ctlDo 1 0 (fun s _ _ b => src s b false o.a fun y => .ok s (b.put o.d y)) s
def execCAdd (o : CR) (s : State) : Out := ctlCR o (· + ·) s
def execCSub (o : CR) (s : State) : Out := ctlCR o (· - ·) s
def execCAnd (o : CR) (s : State) : Out := ctlCR o (· &&& ·) s
def execCOr (o : CR) (s : State) : Out := ctlCR o (· ||| ·) s
def execCXor (o : CR) (s : State) : Out := ctlCR o (· ^^^ ·) s

/-! ## Integer register operations (R171) -/

def execAdd (o : RRR) (s : State) : Out := ctl2 o (· + ·) s
def execSub (o : RRR) (s : State) : Out := ctl2 o (· - ·) s
def execAnd (o : RRR) (s : State) : Out := ctl2 o (· &&& ·) s
def execOr (o : RRR) (s : State) : Out := ctl2 o (· ||| ·) s
def execXor (o : RRR) (s : State) : Out := ctl2 o (· ^^^ ·) s
def execSll (o : RRR) (s : State) : Out := ctl2 o (fun a b => sllW a (amt b)) s
def execSrl (o : RRR) (s : State) : Out := ctl2 o (fun a b => srlW a (amt b)) s
def execSra (o : RRR) (s : State) : Out := ctl2 o (fun a b => sraW a (amt b)) s
def execRor (o : RRR) (s : State) : Out := ctl2 o (fun a b => rorW a (amt b)) s
def execMin (o : RRR) (s : State) : Out := ctl2 o minS s
def execMax (o : RRR) (s : State) : Out := ctl2 o maxS s
def execMinu (o : RRR) (s : State) : Out := ctl2 o minU s
def execMaxu (o : RRR) (s : State) : Out := ctl2 o maxU s
def execClz (o : RR) (s : State) : Out := ctl1 o clzW s
def execCtz (o : RR) (s : State) : Out := ctl1 o ctzW s
def execPopc (o : RR) (s : State) : Out := ctl1 o popcW s
def execSextw (o : RR) (s : State) : Out := ctl1 o sextwW s
def execZextw (o : RR) (s : State) : Out := ctl1 o zextwW s

/-! ## Multiply and divide (R175) -/

def execMul (o : RRR) (s : State) : Out := ctl2 o (· * ·) s
def execMulh (o : RRR) (s : State) : Out := ctl2 o mulhW s
def execMulhu (o : RRR) (s : State) : Out := ctl2 o mulhuW s
def execMulhsu (o : RRR) (s : State) : Out := ctl2 o mulhsuW s
def execDiv (o : RRR) (s : State) : Out := ctl2 o divW s
def execDivu (o : RRR) (s : State) : Out := ctl2 o divuW s
def execRem (o : RRR) (s : State) : Out := ctl2 o remW s
def execRemu (o : RRR) (s : State) : Out := ctl2 o remuW s

/-! ## Immediates (R172 to R174) -/

def execAddi (o : RI) (s : State) : Out := ctlI o (· + ·) s
def execAndi (o : RI) (s : State) : Out := ctlI o (· &&& ·) s
def execOri (o : RI) (s : State) : Out := ctlI o (· ||| ·) s
def execXori (o : RI) (s : State) : Out := ctlI o (· ^^^ ·) s
def execSlli (o : RSh) (s : State) : Out := ctlSh o sllW s
def execSrli (o : RSh) (s : State) : Out := ctlSh o srlW s
def execSrai (o : RSh) (s : State) : Out := ctlSh o sraW s
def execRori (o : RSh) (s : State) : Out := ctlSh o rorW s
/-- SExt(IMM17) << 11. -/
def execLui (o : RU) (s : State) : Out := ctlDo 2 o.na (fun s _ _ b => .ok s (b.put o.d (o.imm.signExtend 64 <<< 11))) s
/-- The address of the word's own first halfword plus 2 × SExt(IMM17), modulo 2^52. -/
def execAddpc (o : RU) (s : State) : Out :=
  ctlDo 2 o.na (fun s _ _ b => .ok s (b.put o.d ((b.here + (o.imm.signExtend 64 <<< 1)) &&& bits 51 0))) s

/-! ## Compares, predicate logic and select (R176 to R178) -/

def execCmp (o : RCmp) (s : State) : Out :=
  ctlDo 2 o.na (fun s _ _ b => src s b o.ba o.a fun x => src s b o.bb o.b fun y => .ok s (b.pput o.pd (cond o.cc.toNat x y))) s
def execCmpi (o : RCmpi) (s : State) : Out :=
  ctlDo 2 o.na (fun s _ _ b => src s b o.ba o.a fun x => .ok s (b.pput o.pd (cond o.cnd.toNat x (o.imm.signExtend 64)))) s
def execPand (o : RPl) (s : State) : Out := ctlP o (· && ·) s
def execPor (o : RPl) (s : State) : Out := ctlP o (· || ·) s
def execPxor (o : RPl) (s : State) : Out := ctlP o (fun a b => a != b) s
def execPandn (o : RPl) (s : State) : Out := ctlP o (fun a b => a && !b) s
def execPorn (o : RPl) (s : State) : Out := ctlP o (fun a b => a || !b) s
def execPnot (o : RPn) (s : State) : Out := ctlDo 2 o.na (fun s _ _ b => .ok s (b.pput o.pd (!b.regs.pget o.pa))) s
/-- Both sources are read whichever is selected. -/
def execCsel (o : RSel) (s : State) : Out :=
  ctlDo 2 o.na (fun s _ _ b => src s b o.ba o.a fun x => src s b o.bb o.b fun y =>
    .ok s (b.put o.d (if b.regs.pget o.p != o.neg then x else y))) s

/-! ## Scalar loads and stores (R179, R180) and atomics (R182) -/

def execLdb (o : RI) (s : State) : Out := ctlLoad o 1 true s
def execLdh (o : RI) (s : State) : Out := ctlLoad o 2 true s
def execLdw (o : RI) (s : State) : Out := ctlLoad o 4 true s
def execLdd (o : RI) (s : State) : Out := ctlLoad o 8 false s
def execLdbu (o : RI) (s : State) : Out := ctlLoad o 1 false s
def execLdhu (o : RI) (s : State) : Out := ctlLoad o 2 false s
def execLdwu (o : RI) (s : State) : Out := ctlLoad o 4 false s
def execStb (o : RSt) (s : State) : Out := ctlStore o 1 s
def execSth (o : RSt) (s : State) : Out := ctlStore o 2 s
def execStw (o : RSt) (s : State) : Out := ctlStore o 4 s
def execStd (o : RSt) (s : State) : Out := ctlStore o 8 s
def execAmoadd (o : RAmo) (s : State) : Out := ctlAmo o .add s
def execAmoand (o : RAmo) (s : State) : Out := ctlAmo o .and s
def execAmoor (o : RAmo) (s : State) : Out := ctlAmo o .or s
def execAmoxor (o : RAmo) (s : State) : Out := ctlAmo o .xor s
def execAmomin (o : RAmo) (s : State) : Out := ctlAmo o .min s
def execAmomax (o : RAmo) (s : State) : Out := ctlAmo o .max s
def execAmoswap (o : RAmo) (s : State) : Out := ctlAmo o .swap s
def execAmocas (o : RAmo) (s : State) : Out := ctlAmo o .cas s

end Sys2Proof.Machine
end

