-- ==== Sys2Proof/Machine/CtlSync.lean ====
section
/-! DEFINITION. Control core: fences, pushes, tokens, semaphores, result queues, leases, re-cutting, barriers, visibility, records, free memory, time, CSRs, traps (R118, R184 to R203). -/

namespace Sys2Proof.Machine

/-! ## CSRs (R26, R29, R44, R52, R56, R57, R75, R139, R191, R201, R291, R334, R346, R382) -/

/-- The value `csrr` reads from CSR number 0x800 + n. -/
def csrRead (s : State) (d : DieId) (k : SlotId) (n : Nat) : Word :=
  let y := s.die d
  let t := s.slot d k
  let c := t.ctl
  if n == 0x01 then orient d
  else if n == 0x10 then (match y.ownLaunch k with | some l => l.param | none => 0)
  else if n == 0x11 then (match y.ownLaunch k, c.own with | some l, some o => (l.coord o.blk).setWidth 64 | _, _ => 0)
  else if n == 0x12 then
    (match y.ownLaunch k, c.own with
     | some l, some o => BitVec.ofNat 64 (64 * l.shape.val + 8 * k.val + o.sidx)
     | _, _ => BitVec.ofNat 64 (8 * k.val))
  else if n == 0x20 then y.getReg d rLEASERUN
  else if n == 0x21 then c.mlstat
  else if n == 0x30 then y.alayout
  else if n == 0x31 then y.achain
  else if 0x38 ≤ n && n < 0x3C then y.getReg d (rBIMB + 8 * (n - 0x38))
  else if 0x40 ≤ n && n < 0x44 then y.getReg d (rFOGCNT + 8 * (n - 0x40))
  else if 0x44 ≤ n && n < 0x48 then y.getReg d (rTHRCNT + 8 * (n - 0x44))
  else if n == 0x50 then c.csr.vflags.setWidth 64
  else if n == 0x60 then c.csr.wsp
  else if n == 0x61 then c.csr.wlim
  else if n == 0x62 then c.csr.wdepth.setWidth 64
  else if n == 0x70 then c.csr.thnd
  else if n == 0x71 then c.csr.tepc
  else if n == 0x72 then c.csr.tcause
  else if n == 0x73 then (if c.csr.hm then 1 else 0)
  else if n == 0x80 then vget y.coe.kstat k
  else if n == 0x81 then vget y.coe.kslip k
  else if n == 0x90 then y.getReg d rPGRANT
  else if 0xA0 ≤ n && n < 0xB0 then vget t.pmc ⟨n % 16, Nat.mod_lt _ (by decide)⟩
  else if 0xB0 ≤ n && n < 0xC0 then (vget t.pmsel ⟨n % 16, Nat.mod_lt _ (by decide)⟩).setWidth 64
  else if 0xC0 ≤ n && n < 0xE0 then
    (match y.sched.live.find? fun e => e.1 == y.asidOf k with | some e => vget e.2.1 ⟨n % 32, Nat.mod_lt _ (by decide)⟩ | none => y.getReg d (rPMD + 8 * (n - 0xC0)))
  else if n == 0xE0 then c.csr.psnst.setWidth 64
  else 0

/-- The effect of `csrw` at commit: RO fields ignored, W1C bits cleared, `WSP` and `WLIM` only at window depth 0 (R3, R139). -/
def csrWrite (t : Slot) (n : Nat) (v : Word) : Slot :=
  let cs (f : Csrs → Csrs) : Slot := t.modCtl fun c => { c with csr := f c.csr }
  if n == 0x50 then cs fun c => { c with vflags := v.setWidth 7 }
  else if n == 0x60 then cs fun c => if c.wdepth = 0 then { c with wsp := v &&& bits 51 6 } else c
  else if n == 0x61 then cs fun c => if c.wdepth = 0 then { c with wlim := v &&& bits 51 6 } else c
  else if n == 0x70 then cs fun c => { c with thnd := v &&& bits 51 1 }
  else if n == 0x71 then cs fun c => { c with tepc := v &&& bits 51 0 }
  else if n == 0x72 then cs fun c => { c with tcause := v }
  else if 0xA0 ≤ n && n < 0xB0 then { t with pmc := vset t.pmc ⟨n % 16, Nat.mod_lt _ (by decide)⟩ v }
  else if 0xB0 ≤ n && n < 0xC0 then { t with pmsel := vset t.pmsel ⟨n % 16, Nat.mod_lt _ (by decide)⟩ (v.setWidth 8) }
  else if n == 0xE0 then cs fun c => { c with psnst := c.psnst &&& ~~~ (v.setWidth 5) }
  else t

/-! ## First-word waits (R118, R188, R189, R194 to R198) -/

/-- Agents that write for a strand on slot `k` have nothing left to apply (R119, R198). -/
def Die.quiet (d : Die) (a : Agent) : Bool :=
  let x := d.ag a
  x.sb.isEmpty && x.pend.isEmpty && !(d.held.any fun h => h.ag == a)

/-- R119: every block of the launch has retired and its writes have been applied at their homes. A block retires once its slots and its copy entries have no write left; the collective engine, whose entries may complete before their writes are applied, must have none left either (log entry 106). -/
def visible (d : Die) (lid : Nat) : Bool :=
  match d.sched.launch lid with
  | none => true
  | some l =>
    l.blks.length == l.gx * l.gy * l.gz && l.blks.all (fun b => b.st == .retired) && d.quiet .coll

/-- A member's count at `.c` or `.d` has reached c (R194): done strands count as arrived. -/
def arrived (r : StrandRec) (cnt : StrandRec → W32) (c : W32) : Bool := r.done || !((cnt r - c).msb)

/-- The cluster in which strand i of a C or W block stands; `side` of a C block does not matter (R193). -/
def wideCluster (sh : Fin 6) (i : Nat) : Nat := if sh.val == 4 then i / 2 else i / 4

/-- Have all members at a scope arrived (R193, R194)? -/
def wtbMet (d : Die) (k : SlotId) (scope : BitVec 2) (c : W32) : Bool :=
  match (d.slot k).ctl.own, d.ownLaunch k, d.ownBlk k with
  | some o, some l, some b =>
    match scope.toNat with
    | 0 => match b.recs[o.sidx]? with | some r => !((r.arvE - c).msb) | none => true
    | 1 =>
      if 4 ≤ l.shape.val then
        (List.range b.recs.length).all fun i =>
          wideCluster l.shape i != wideCluster l.shape o.sidx || (match b.recs[i]? with | some r => arrived r (·.arvC) c | none => true)
      else l.blks.all fun x => l.teamOf x.l != l.teamOf b.l || x.recs.all fun r => arrived r (·.arvC) c
    | _ =>
      (!((0 - c).msb) || l.blks.length == l.gx * l.gy * l.gz) && l.blks.all fun x => x.recs.all fun r => arrived r (·.arvD) c
  | _, _, _ => true

/-- The strand's own count (R194): every `arv` of its committed blocks counts, recorded yet or not. -/
def ownArv (d : Die) (k : SlotId) (scope : BitVec 2) : W32 :=
  BitVec.ofNat 32 ((d.slot k).ctl.arvs.filter fun v => v.1 == scope).length +
  match (d.slot k).ctl.own, d.ownBlk k with
  | some o, some b =>
    match b.recs[o.sidx]? with
    | some r => if scope = 0 then r.arvS else if scope = 1 then r.arvC else r.arvD
    | none => 0
  | _, _ => 0

/-- A strand of a block that is still Early is held at `wpv` and `wtb` (R315). -/
def stillEarly (d : Die) (k : SlotId) : Bool := match d.ownBlk k with | some b => b.earl | none => false

/-- No atomic's acquire is outstanding, and the strand's pending set is empty: an acquire of the strand may be taken (R118, R183). -/
def acqFree (d : Die) (dn : DieId) (k : SlotId) : Bool := (d.slot k).ctl.acq.isNone && acqMet d dn k

/-- The condition of a first-word wait. -/
def waitMet (d : Die) (dn : DieId) (k : SlotId) : WaitC → Bool
  | .twait m => hasToks (d.slot k).toks m
  | .sem i v => (d.slot k).ctl.acq.isNone && (match semSeen d dn k i with | some x => !(x.ult v) | none => false)
  | .wpv lid => !stillEarly d k && visible d lid && acqFree d dn k
  | .wtb sc c => !stillEarly d k && wtbMet d k sc c && acqFree d dn k
  | .rfence => d.quiet (.core k)
  | .fence kind sc ps =>
    (kind == 0 || relMet d k sc.toNat ps (d.slot k).agCtl.sb) && (kind == 1 || acqFree d dn k)

/-- What a wait does in the step in which it ends: tokens taken, record copies dropped, beats sent (R113, R188, R198). `rel.f` holds "as `rel.k`" (R118), so beats follow it too (log entry 107). -/
def waitTake (s : State) (d : DieId) (k : SlotId) (o : Open) : WaitC → State × Open
  | .twait m => (s.modSlot d k fun t => { t with toks := takeToks t.toks m }, { o with toks := o.toks ||| m })
  | .rfence => (s.modDie d fun y => { y with slots := y.slots.map fun t => { t with recs := [] } }, o)
  | .fence kind sc _ => (if kind != 0 && 3 ≤ sc.toNat then s.beats d else s, o)
  | _ => (s, o)

/-- A first-word wait: it ends at once if its condition holds, else the block waits (R195). -/
def waitWord (na : BitVec 2) (s : State) (d : DieId) (k : SlotId) (o : Open) (w : WaitC) : CRes :=
  if waitMet (s.die d) d k w then
    let p := waitTake s d k o w
    .ok p.1 { p.2 with wait := none }
  else .wait (s.setOpn d k { o with wait := some w, waitNa := na })

def ctlFence (kind : BitVec 2) (o : RFence) (s : State) : Out :=
  ctlDo 2 o.na (fun s d k b => waitWord o.na s d k b (.fence kind o.scope (s.slot d k).pseq)) s
def execFenceAcq (o : RFence) (s : State) : Out := ctlFence 0 o s
def execFenceRel (o : RFence) (s : State) : Out := ctlFence 1 o s
def execFenceFull (o : RFence) (s : State) : Out := ctlFence 2 o s

/-! ## Pushes (R133, R185) -/

def eParams (r : Regs) : Vector Word 8 := Vector.ofFn fun i => r.get (BitVec.ofNat 5 (8 + i.val))
def eFull (r : Regs) : Bool := (List.finRange 8).all fun i => r.isFull (BitVec.ofNat 5 (8 + i.val))

/-- The header address under BA, the parameters from s8 to s15; the 17th push to one queue is a block-capacity fault. -/
def ctlEnq (q : Fin 6) (o : REnq) (s : State) : Out :=
  ctlDo 2 o.na (fun s d k b => src s b o.ba o.a fun h =>
    if !eFull b.regs then .wait s
    else held s d k <|
      if vget b.npush q = 16 then .fault s 3 0 0 0
      else .ok s ({ b with npush := vmod b.npush q (· + 1) }.hold (.enq q h (eParams b.regs) o.wait o.sig b.here.toNat))) s
def execEnqLde (o : REnq) (s : State) : Out := ctlEnq 0 o s
def execEnqAre (o : REnq) (s : State) : Out := ctlEnq 1 o s
def execEnqSte (o : REnq) (s : State) : Out := ctlEnq 2 o s
def execEnqMxe (o : REnq) (s : State) : Out := ctlEnq 3 o s
def execEnqCpe (o : REnq) (s : State) : Out := ctlEnq 4 o s
def execEnqCoe (o : REnq) (s : State) : Out := ctlEnq 5 o s

/-! ## Tokens, semaphores, result queues (R188 to R190) -/

def execTsig (o : RA) (s : State) : Out :=
  ctlDo 2 o.na (fun s _ _ b => src s b o.ba o.a fun x => .ok s (b.hold (.tsig (x.setWidth 8) b.here.toNat))) s
def execTwait (o : RA) (s : State) : Out :=
  ctlDo 2 o.na (fun s d k b => src s b o.ba o.a fun x => waitWord o.na s d k b (.twait (x.setWidth 8))) s
def execSemset (o : RR) (s : State) : Out :=
  ctlDo 2 o.na (fun s _ _ b => src s b o.ba o.a fun x => .ok s (b.hold (.sem true (ridx o.d) (x.setWidth 32)))) s
def execSemadd (o : RR) (s : State) : Out :=
  ctlDo 2 o.na (fun s _ _ b => src s b o.ba o.a fun x => .ok s (b.hold (.sem false (ridx o.d) (x.setWidth 32)))) s
def execSemwait (o : RR) (s : State) : Out :=
  ctlDo 2 o.na (fun s d k b => src s b o.ba o.a fun x => waitWord o.na s d k b (.sem (ridx o.d) (x.setWidth 32))) s
def execSemwaitSusp (o : RR) (s : State) : Out :=
  ctlDo 2 o.na (fun s _ _ b => src s b o.ba o.a fun x => .ok s { b with susp := some (.sem (ridx o.d) (x.setWidth 32), b.pos) }) s

def qidx (q : BitVec 2) : Fin 4 := ⟨q.toNat, q.isLt⟩

/-- How many results of a queue stand before the next one a pop may take: those of committed unfilled pops, and the block's own reservations (R190). -/
def resvCount (t : Slot) (o : Open) (q : Fin 4) : Nat := (vget t.resv q).length + (o.resv.filter fun r => r.1 == q).length

/-- A popped value: a poisoned one is undefined, and sets `PSNST` (R382). -/
def popVal (s : State) (r : Result) : Word × State := if r.2 then let p := s.draw; (Config.freeWord p.1, p.2) else (r.1, s)

/-- `PSNST` after a poisoned pop from queue q. -/
def psnBits (q : Fin 4) : BitVec 5 := 1#5 ||| (1#5 <<< (q.val + 1))
def Slot.setPsn (t : Slot) (q : Fin 4) (psn : Bool) : Slot :=
  if psn then t.modCtl fun c => { c with csr := { c.csr with psnst := c.csr.psnst ||| psnBits q } } else t

def execPop (o : RPop) (s : State) : Out :=
  ctlDo 2 o.na (fun s d k b =>
    let q := qidx o.q
    let t := s.slot d k
    match (vget t.rq q)[resvCount t b q]? with
    | some r =>
      let v := popVal s r
      .ok v.2 { b.put o.d v.1 with resv := b.resv ++ [(q, none)] }
    | none =>
      let n := s.newTag d k
      .ok n.2 { b with regs := b.regs.empty o.d n.1, resv := b.resv ++ [(q, some n.1)] }) s
def execPopNb (o : RPopNb) (s : State) : Out :=
  ctlDo 2 o.na (fun s d k b =>
    let q := qidx o.q
    let t := s.slot d k
    match (vget t.rq q)[resvCount t b q]? with
    | some r =>
      let v := popVal s r
      .ok v.2 { (b.put o.d v.1).pput o.p true with resv := b.resv ++ [(q, none)] }
    | none => .ok s (b.pput o.p false)) s

/-! ## Leases and re-cutting (R191, R192) -/

def execMlease (o : RN) (s : State) : Out := ctlDo 2 o.na (fun s _ _ b => .ok s (b.hold .mlease)) s
def execMrlse (o : RN) (s : State) : Out := ctlDo 2 o.na (fun s _ _ b => .ok s (b.hold .mrlse)) s
/-- Drain words hold their operands for the commit. Where the body runs several times the last operands count and the block makes one event (DEDUCED, log entry 110: R46 is silent on it). -/
def execSplit (o : RA) (s : State) : Out :=
  ctlDo 2 o.na (fun s _ _ b => src s b o.ba o.a fun x => .ok s { b with drain := some (.split x, b.pos) }) s
def execFuse (o : RA) (s : State) : Out :=
  ctlDo 2 o.na (fun s _ _ b => src s b o.ba o.a fun x => .ok s { b with drain := some (.fuse x, b.pos) }) s
def execChain (o : RAB) (s : State) : Out :=
  ctlDo 2 o.na (fun s _ _ b => src s b o.ba o.a fun x => src s b o.bb o.b fun y => .ok s { b with drain := some (.chain x y, b.pos) }) s
def execUnchain (o : RA) (s : State) : Out :=
  ctlDo 2 o.na (fun s _ _ b => src s b o.ba o.a fun x => .ok s { b with drain := some (.unchain x, b.pos) }) s

/-! ## Barriers and visibility (R194, R196) -/

def execArv (o : RScope) (s : State) : Out := ctlDo 2 o.na (fun s _ _ b => .ok s (b.hold (.arv o.scope))) s
def execWtb (o : RScope) (s : State) : Out :=
  ctlDo 2 o.na (fun s d k b =>
    let c := match b.wait with | some (.wtb _ c) => c | _ => ownArv (s.die d) k o.scope
    waitWord o.na s d k b (.wtb o.scope c)) s

/-- The latest accepted launch of a node, for a strand: or the `UNIT` of the scheduler-reference fault (R196). -/
def nodeRef (d : Die) (k : SlotId) (node : Half) : Except Nat Launch :=
  match d.ownLaunch k with
  | none => .error 1
  | some l =>
    if node.toNat < l.nbase || l.nbase + l.ncnt ≤ node.toNat then .error 1
    else match d.sched.launches.reverse.find? fun x => x.pid == l.pid && x.node == node with
    | none => .error 2
    | some x => if x.st == .failed then .error 3 else .ok x

def execWpv (o : RA) (s : State) : Out :=
  ctlDo 2 o.na (fun s d k b => src s b o.ba o.a fun x =>
    match b.wait with
    | some (.wpv lid) =>
      if ((s.die d).sched.launch lid).any (·.st == .failed) then .fault s 11 0 3 0
      else waitWord o.na s d k b (.wpv lid)
    | _ =>
      match nodeRef (s.die d) k (x.setWidth 16) with
      | .error u => .fault s 11 0 u 0
      | .ok l => waitWord o.na s d k b (.wpv l.id)) s
def execWpvSusp (o : RA) (s : State) : Out :=
  ctlDo 2 o.na (fun s d k b => src s b o.ba o.a fun x =>
    match nodeRef (s.die d) k (x.setWidth 16) with
    | .error u => .fault s 11 0 u 0
    | .ok l => .ok s { b with susp := some (.wpv (x.setWidth 16) l.id, b.pos) }) s
def execSusp (o : RN) (s : State) : Out := ctlDo 2 o.na (fun s _ _ b => .ok s { b with susp := some (.susp, b.pos) }) s
def execHint (o : RA) (s : State) : Out :=
  ctlDo 2 o.na (fun s _ _ b => src s b o.ba o.a fun x => .ok s (b.hold (.hint (x.setWidth 16)))) s

/-- The read step of the strand that a read of the proof table is: after its earlier reads, with every known count accounted for, and an acquire where `set` = 1 (R108, R120, R196). A number the process does not own reads 0 (R312). The destination is never empty (R170). -/
def execPublq (o : RR) (s : State) : Out :=
  ctlDo 2 o.na (fun s d k b => src s b o.ba o.a fun x => held s d k <|
    let p := fld x 0 12
    match (s.die d).ownLaunch k with
    | none => .ok s (b.put o.d 0)
    | some l =>
      if l.prcnt ≤ p then .ok s (b.put o.d 0)
      else if !(s.slot d k).agCtl.rd.isEmpty || !(s.die d).gateOk d then .wait s
      else
        let v := spGet (0 : W32) (s.die d).proofs (l.prbase + p)
        if bitAt (v.setWidth 64) 31 && !acqMet (s.die d) d k then .wait s
        else .ok s (b.put o.d ((v.setWidth 64 &&& 0xFFFF#64) ||| (if bitAt (v.setWidth 64) 31 then 1#64 <<< 63 else 0)))) s

/-! ## CSRs, traps, calls, free memory, time (R198 to R203) -/

def execCsrr (o : RCsrr) (s : State) : Out :=
  ctlDo 2 o.na (fun s d k b => .ok s (b.put o.d (csrRead s d k o.csr.toNat))) s
def execCsrw (o : RCsrw) (s : State) : Out :=
  ctlDo 2 o.na (fun s _ _ b => src s b o.ba o.a fun x => .ok s (b.hold (.csrw o.csr x))) s
def execSysc (o : RAB) (s : State) : Out :=
  ctlDo 2 o.na (fun s _ _ b => src s b o.ba o.a fun x => src s b o.bb o.b fun y =>
    .ok s (b.hold (.sysc x ⟨y.toNat % 32, Nat.mod_lt _ (by decide)⟩))) s
def execTrap (o : RA) (s : State) : Out :=
  ctlDo 2 o.na (fun s _ _ b => src s b o.ba o.a fun x => .ok s { b with traps := b.traps ++ [(some x, b.pos)] }) s
/-- Outside handler mode an illegal-instruction fault (R202); a `trap` word before it in the block may have entered handler mode, which the commit decides. -/
def execEret (o : RN) (s : State) : Out :=
  ctlDo 2 o.na (fun s d k b => if (s.ctl d k).csr.hm || b.traps.any (·.1.isSome) then .ok s { b with traps := b.traps ++ [(none, b.pos)] } else .fault s 2 0 0 0) s

/-- Pages of a `freeh` range: each must translate, be of `MT` 0 or 1, and be writable (R199). -/
def freePages (dn : DieId) (w : Who) (va : Nat) : Nat → Die → XRes (List Piece)
  | 0, d => .ok d []
  | n + 1, d =>
    match access dn d w va 65536 ⟨[0, 1], false, true⟩ with
    | .fault d c x => .fault d c x
    | .wait d => .wait d
    | .ok d p => (freePages dn w (va + 65536) n d).map (p :: ·)

def execFreeh (o : RAB) (s : State) : Out :=
  ctlDo 2 o.na (fun s d k b => src s b o.ba o.a fun x => src s b o.bb o.b fun y => held s d k <|
    if x.toNat % 65536 != 0 || y.toNat % 65536 != 0 || y == 0 then .fault s 19 x 0 0
    else match freePages d ((s.die d).who (.core k) k) x.toNat (y.toNat / 65536) (s.die d) with
    | .ok z ps => .ok (s.modDie d fun _ => z) (b.hold (.freeh (ps.map fun p => (locOff p.loc, 65536)) ps (packPlace b.hdr b.here 0)))
    | .wait z => .wait (s.modDie d fun _ => z)
    | .fault z c a => .fault (s.modDie d fun _ => z) c (BitVec.ofNat 64 a) 0 0) s

def execTick (o : RD) (s : State) : Out := ctlDo 2 o.na (fun s d _ b => .ok s (b.put o.d (s.tick d))) s
def execRfence (o : RN) (s : State) : Out := ctlDo 2 o.na (fun s d k b => waitWord o.na s d k b .rfence) s

end Sys2Proof.Machine
end

