-- ==== Sys2Proof/Machine/SchedOps.lean ====
section
/-! DEFINITION. Operations shared by the control cores and the scheduler: continuation records and their places, stores under a process's address space, inputs, queues, hints (R20, R21, R37, R309 to R315), and the matrix-lease and layout operations of fragments (R30, R45 to R49, R191, R377, R378). -/

namespace Sys2Proof.Machine

/-! ## Places of a grid's state (R309, R373) -/

def Launch.strandNo (l : Launch) (b i : Nat) : Nat := shapeStrands l.shape * b + i
def Launch.recAt (l : Launch) (b i : Nat) : Nat := l.csAt + 64 * l.strandNo b i
def Launch.wlim (l : Launch) (b i : Nat) : Word := BitVec.ofNat 64 (l.spAt + 64 * l.spsz * l.strandNo b i)
def Launch.wsp (l : Launch) (b i : Nat) : Word := l.wlim b i + BitVec.ofNat 64 (64 * l.spsz)
/-- `RNG` of a fresh record. -/
def Launch.freshRng (l : Launch) (b i : Nat) : W32 := l.seed + BitVec.ofNat 32 (l.strandNo b i * 0x9E3779B9)
/-- Size of the context save area of a block (R373). -/
def areaSize (sh : Fin 6) : Nat := 0x10000 + shapeStrands sh * 0x120000
def Launch.saveAt (l : Launch) (b : Nat) : Nat := l.cxAt + b * areaSize l.shape
def Launch.blocks (l : Launch) : Nat := l.gx * l.gy * l.gz
/-- Place of a team's saved windows (R373). -/
def Launch.windowsAt (l : Launch) (t : Nat) : Nat := l.cxAt + l.blocks * areaSize l.shape + t * 2 * l.zw * 65536

/-! ## Accesses of the scheduler for a process -/

/-- A die-scope store under a process's ASID; nothing is written where it does not translate or the page is not writable memory of `MT` 0. R311 says so of `CMPL` alone; that a fresh record (R20) and the other stores of the scheduler fare alike is the model's choice (DESIGN CHOICE, log entry 76). The scheduler's walks are taken when its events are. -/
def procStore (dn : DieId) (d : Die) (asid : Half) (va : Nat) (bs : List Byte) : Die :=
  let g := d.gate
  let back (d : Die) : Die := { d with gate := g }
  match accessRow dn { d with gate := { g with g := g.v } } ⟨.coll, asid, none, none⟩ va bs.length ⟨[0], false, true⟩ with
  | .ok d ps => back (if ps.any d.leafBad then d else ps.foldl (fun d p => match p.loc with | .here pa => (d.markDirty .coll p).poke pa (slice bs (p.va - va) p.len) false | _ => d) d)
  | .wait d | .fault d _ _ => back d

/-- A die-scope load under a process's ASID: bytes, or none where a line does not translate, is not readable memory of `MT` 0, or is poisoned. -/
def procLoad (dn : DieId) (d : Die) (asid : Half) (va n : Nat) : Option (List Byte) × Die :=
  let g := d.gate
  match accessRow dn { d with gate := { g with g := g.v } } ⟨.coll, asid, none, none⟩ va n ⟨[0], true, false⟩ with
  | .ok d ps =>
    let bad := ps.any fun p => match p.loc with | .here pa => d.poisoned pa p.len | _ => true
    (if bad then none else some (ps.flatMap fun p => match p.loc with | .here pa => d.peek pa p.len | _ => []), { d with gate := g })
  | .wait d | .fault d _ _ => (none, { d with gate := g })

/-- The lines of die memory that a range of a process lies in. -/
def procLines (dn : DieId) (d : Die) (asid : Half) (va n : Nat) : List Nat :=
  match accessRow dn { d with gate := { d.gate with g := d.gate.v } } ⟨.coll, asid, none, none⟩ va n ⟨[0], true, false⟩ with
  | .ok _ ps => ps.flatMap fun p => match p.loc with | .here pa => linesOf pa p.len | _ => []
  | _ => []

/-! ## Continuation records (R20 to R22) -/

/-- What a record says of its strand beyond the scheduler's own fields. -/
structure RecVal where
  pc : Word
  rng : W32
  pred : BitVec 7
  vflags : Half
  live0 : Word
  live1 : Word
  kind : Nat
  sem : Nat
  thr : W32
  pnode : Half
  early : Bool
  done : Bool
  fresh : Bool
  deriving DecidableEq, Repr

/-- The 64 bytes of a record. -/
def Launch.recBytes (l : Launch) (b i : Nat) (r : RecVal) : List Byte :=
  let bit (x : Bool) (n : Nat) : Nat := if x then 2 ^ n else 0
  natLe 8 (l.cls.val * 2 ^ 62 + i * 2 ^ 56 + l.shape.val * 2 ^ 52 + r.pc.toNat % 2 ^ 52) ++
  natLe 8 (r.rng.toNat * 2 ^ 32 + l.asid.toNat * 2 ^ 16 + bit r.early 10 + bit r.done 9 + bit r.fresh 8 + r.pred.toNat) ++
  natLe 8 (r.vflags.toNat * 2 ^ 32 + l.node.toNat) ++ natLe 8 (l.coord b).toNat ++ wordLe 8 l.param ++
  wordLe 8 r.live0 ++ wordLe 8 r.live1 ++ natLe 8 (r.thr.toNat * 2 ^ 32 + r.pnode.toNat * 2 ^ 16 + r.sem * 4 + r.kind)

/-- The fields read back at pick-up. -/
def recOf (bs : List Byte) : RecVal :=
  let w (i : Nat) : Word := leWord (slice bs (8 * i) 8)
  { pc := w 0 &&& bits 51 0, rng := BitVec.ofNat 32 (fld (w 1) 32 32), pred := BitVec.ofNat 7 (fld (w 1) 0 7)
    vflags := BitVec.ofNat 16 (fld (w 2) 32 16), live0 := w 5, live1 := w 6, kind := fld (w 7) 0 2, sem := fld (w 7) 2 5
    thr := BitVec.ofNat 32 (fld (w 7) 32 32), pnode := BitVec.ofNat 16 (fld (w 7) 16 16), early := false, done := false, fresh := false }

/-- A fresh record (R21). -/
def Launch.freshRec (l : Launch) (b i : Nat) (early : Bool) : RecVal :=
  { pc := l.entry, rng := l.freshRng b i, pred := 0, vflags := 0, live0 := l.param, live1 := (l.coord b).setWidth 64
    kind := 0, sem := 0, thr := 0, pnode := 0, early := early, done := false, fresh := true }

/-! ## Inputs and queues (R310 to R315) -/

def Die.launchDone (d : Die) (lid : Nat) : Bool := match d.sched.launch lid with | some l => l.st == .complete | none => true

/-- R313: present, or every proof predecessor complete. -/
def Die.inputSat (d : Die) (l : Launch) (i : Input) : Bool :=
  let e := l.gbase + i.goff
  let v := spGet (0 : W32) d.proofs (l.prbase + i.proof)
  let present := i.proof < l.prcnt && v.getLsbD 31 && !((v.setWidth 16 - e).msb)
  present || (l.preds.any (·.2) && l.preds.all fun p => !p.2 || d.launchDone p.1)

def Die.inputsSat (d : Die) (l : Launch) (b : Nat) : Bool :=
  match l.inputs.find? (·.1 == b) with
  | some e => e.2.all (d.inputSat l)
  | none => true

/-- One block's state after an evaluation: Proof-waiting to Queued, and out of Early (R37, R315). DESIGN CHOICE (log entry 138; R37 is silent): a may-start block that still stands in its class queue when its node becomes ready with an input unsatisfied stays Queued as an Early candidate, and does not become Proof-waiting. -/
def Die.evalBlk (d : Die) (l : Launch) (b : Blk) : Blk :=
  let sat := d.inputsSat l b.l
  if b.earl then
    if l.ready && sat then { b with earl := false, st := if b.st == .early then .running else b.st } else b
  else if b.st == .proofWait && sat then { b with st := .queued } else b

/-- The die's scheduling is carried by some core (R415, R417). -/
def Die.schedOn (d : Die) (dn : DieId) : Bool := !bitAt (d.getReg dn rSCHST) 63 || bitAt (d.getReg dn rSCHST) 62

/-- `EARLY`, bit 10 of the second word, clears in the records that memory holds of a block that leaves Early (R20, R315). -/
def Die.clearEarly (dn : DieId) (d : Die) (l : Launch) (b : Blk) : Die :=
  (List.range b.recs.length).foldl (fun d i =>
    let a := l.recAt b.l i + 9
    match procLoad dn d l.asid a 1 with
    | (some bs, d) => procStore dn d l.asid a [listGet 0 bs 0 &&& 0xFB#8]
    | (none, d) => d) d

/-- Every block's inputs evaluated (R313), while the die's scheduling has a carrier (R415). -/
def Die.reeval (d : Die) (dn : DieId) : Die :=
  if !d.schedOn dn then d
  else
    let left := d.sched.launches.flatMap fun l => (l.blks.filter fun b => b.earl && !(d.evalBlk l b).earl).map fun b => (l, b)
    let d := { d with sched := { d.sched with launches := d.sched.launches.map fun l => { l with blks := l.blks.map (d.evalBlk l) } } }
    left.foldl (fun d x => Die.clearEarly dn d x.1 x.2) d

/-- Blocks of a launch that have not yet done so enter their class queue in ascending L, as fresh records (R21, R296, R310, R314). -/
def Die.enterBlocks (dn : DieId) (d : Die) (lid : Nat) (early : Bool) (which : Nat → Bool) : Die :=
  match d.sched.launch lid with
  | none => d
  | some l =>
    let k := shapeStrands l.shape
    let ls := (List.range l.blocks).filter fun b => which b && (l.blk b).isNone
    let d := ls.foldl (fun d b => (List.range k).foldl (fun d i => procStore dn d l.asid (l.recAt b i) (l.recBytes b i (l.freshRec b i early))) d) d
    let blk (b : Nat) : Blk :=
      { l := b, st := if early || (d.schedOn dn && d.inputsSat l b) then .queued else .proofWait, earl := early, slots := [], recs := List.replicate k StrandRec.new
        lay := [], halted := 0, flts := [], aux := [], ctxs := [], since := none, res := [] }
    { d with sched := { d.sched.modLaunch lid fun l => { l with blks := l.blks ++ ls.map blk } with cq := d.sched.cq ++ ls.map fun b => (lid, b) } }

/-- Every block enters. -/
def Die.enterQueue (dn : DieId) (d : Die) (lid : Nat) (early : Bool) : Die := Die.enterBlocks dn d lid early fun _ => true

/-- A node becomes ready (R310): its blocks enter their queue, or, if it was may-start, are evaluated. -/
def Die.nodeReady (dn : DieId) (d : Die) (lid : Nat) : Die :=
  match d.sched.launch lid with
  | none => d
  | some l =>
    let d := { d with sched := d.sched.modLaunch lid fun l => { l with ready := true } }
    if l.mayStart then d.reeval dn else d.enterQueue dn lid false

/-- The latest accepted launch of a node of a process. -/
def Sched.latest (c : Sched) (pid : Byte) (node : Half) : Option Launch := c.launches.reverse.find? fun l => l.pid == pid && l.node == node

/-- `hint` (R196, R314). -/
def Die.hintNode (dn : DieId) (d : Die) (k : SlotId) (node : Half) : Die :=
  match d.ownLaunch k with
  | none => d
  | some l0 =>
    match d.sched.latest l0.pid node with
    | none => d
    | some l =>
      let names := l.preds.any fun p => match d.sched.launch p.1 with | some x => x.node == l0.node | none => false
      if l.st == .active && !l.ready && !l.mayStart && names then
        Die.enterQueue dn { d with sched := d.sched.modLaunch l.id fun l => { l with mayStart := true } } l.id true
      else d

/-! ## Matrix leases (R30, R191) -/

/-- The budget of a new lease. -/
def Die.budget (d : Die) (dn : DieId) : Nat := d.rf dn rLEASERUN 0 10 + 1

/-- A drain event under way holds grants on these fragments back (R46 step 1). -/
def Die.frozen (d : Die) (b : SlotId) : Bool :=
  allSlots.any fun k => match (d.slot k).ctl.opn with
    | some o => o.phase == .draining && o.aff.any fun a => d.baseOf a == b
    | none => false

def Die.holder (d : Die) (b : SlotId) : Option SlotId := (d.fragSlots b).find? fun k => (d.slot k).ctl.mheld

def Die.grantLease (d : Die) (dn : DieId) (k : SlotId) : Die :=
  d.modSlot k (·.modCtl fun c => { c with mreq := false, mheld := true, mleft := d.budget dn })

/-- The next requesting strand after slot `k` in strand order, wrapping. -/
def Die.nextReq (d : Die) (b k : SlotId) : Option SlotId :=
  let fs := d.fragSlots b
  ((fs.filter fun j => k.val < j.val) ++ (fs.filter fun j => j.val ≤ k.val)).find? fun j => (d.slot j).ctl.mreq

/-- A held lease lapses, and passes on (R30). -/
def Die.lapse (d : Die) (dn : DieId) (k : SlotId) : Die :=
  if (d.slot k).ctl.mheld then
    let d := d.modSlot k (·.modCtl fun c => { c with mheld := false, mleft := 0 })
    let b := d.baseOf k
    if d.frozen b then d
    else match d.nextReq b k with
      | some j => d.grantLease dn j
      | none => d
  else d

/-- `mlease` at commit (R191). -/
def Die.mlease (d : Die) (dn : DieId) (k : SlotId) : Die :=
  let c := (d.slot k).ctl
  let b := d.baseOf k
  if c.mheld || c.mreq then d
  else if (d.holder b).isNone && !d.frozen b then d.grantLease dn k
  else d.modSlot k (·.modCtl fun c => { c with mreq := true })

/-- `mrlse`, and what a suspension point gives up (R22, R191). -/
def Die.mrlse (d : Die) (dn : DieId) (k : SlotId) : Die :=
  (d.lapse dn k).modSlot k (·.modCtl fun c => { c with mreq := false })

/-- Requests of a fragment without a holder compete afresh (R48): the lowest strand index wins. -/
def Die.regrant (d : Die) (dn : DieId) (b : SlotId) : Die :=
  if (d.holder b).isSome || d.frozen b then d
  else match (d.fragSlots b).find? fun j => (d.slot j).ctl.mreq with
    | some j => d.grantLease dn j
    | none => d

/-- R187 and R379: none when the block may commit its `n` matrix pushes; `some (some u)` a lease fault with `UNIT` u; `some none` a wait. The lowest reason is reported (R377). -/
def Die.leaseCheck (d : Die) (dn : DieId) (k : SlotId) (n : Nat) : Option (Option Nat) :=
  let c := (d.slot k).ctl
  if n = 0 then none
  else if !c.mheld && !c.mreq then some (some 1)
  else if c.mheld && c.mleft < n then some (some 2)
  else if d.budget dn < n then some (some 3)
  else if c.mheld then none
  else some none

/-! ## Layout events (R45 to R49, R192, R377, R378) -/

/-- The fragments of a block, by base slot. -/
def Die.blkFrags (d : Die) (bs : List SlotId) : List SlotId := bs.filter fun k => (d.layOf k).v && d.baseOf k == k
def Die.incoming (d : Die) (b : SlotId) : Option SlotId := allSlots.find? fun k => (d.layOf k).v && d.baseOf k == k && (d.layOf k).dst == some b
def Die.linked (d : Die) (b : SlotId) : Bool := (d.layOf b).dst.isSome || (d.incoming b).isSome

/-- Slots that share a tile edge (R39, R45). -/
def adjacent (a b : SlotId) : Bool := a.val / 2 == b.val / 2 && a != b || a.val % 2 == b.val % 2 && (a.val + 2 == b.val || b.val + 2 == a.val)

/-- Parent and child shapes of a split (R192): E 0, S 1, Q 2, H 3, C 4, W 5. -/
def splitPair (p c : Nat) : Bool :=
  match p with
  | 5 => c == 4 || c == 3 || c == 2 || c == 1 || c == 0
  | 3 => c == 2 || c == 1 || c == 0
  | 4 => c == 2 || c == 0
  | 2 | 1 => c == 0
  | _ => false

def mkShape (n : Nat) : Fin 6 := ⟨n % 6, Nat.mod_lt _ (by decide)⟩

/-- Bases of the children of a shape that tile a parent's slots. -/
def childBases (sh : Fin 6) (ps : List SlotId) : List SlotId :=
  ps.filter fun b => match placement sh b with | some l => l.all ps.contains | none => false

/-- Following links from `t`, is `s` met? -/
def Die.reaches (d : Die) (s : SlotId) : Nat → SlotId → Bool
  | 0, _ => false
  | n + 1, t => t == s || match (d.layOf t).dst with | some u => d.reaches s n u | none => false

/-- The check of a drain event (R377): its reason, or its affected slots. -/
def Die.drainCheck (d : Die) (bs : List SlotId) (r : DrainReq) : Except Nat (List SlotId) :=
  let named (b : SlotId) : Bool := (d.blkFrags bs).contains b
  match r with
  | .split a =>
    let p := mkSlot (fld a 0 3)
    let c := fld a 4 3
    if a &&& 0x77#64 != a then .error 1
    else if !named p || 6 ≤ c then .error 2
    else if !splitPair (d.layOf p).shape.val c then .error 3
    else if d.linked p then .error 5
    else .ok (d.fragSlots p)
  | .fuse a =>
    let c := fld a 4 3
    if a &&& 0x77#64 != a then .error 1
    else if 6 ≤ c then .error 2
    else match placement (mkShape c) (mkSlot (fld a 0 3)) with
      | none => .error 2
      | some ps =>
        if !(ps.all bs.contains) then .error 2
        else
          let fs := (d.blkFrags bs).filter fun b => (d.fragSlots b).any ps.contains
          if !(fs.all fun b => (d.fragSlots b).all ps.contains) then .error 4
          else if fs.any d.linked then .error 5
          else .ok ps
  | .chain a b =>
    let s := mkSlot a.toNat
    let t := mkSlot b.toNat
    if a &&& 7#64 != a || b &&& 7#64 != b then .error 1
    else if !named s || !named t then .error 2
    else if s == t || !((d.fragSlots s).any fun x => (d.fragSlots t).any (adjacent x)) || (d.layOf s).dst.isSome || (d.incoming t).isSome then .error 6
    else if d.reaches s 8 t then .error 7
    else .ok (d.fragSlots s ++ d.fragSlots t)
  | .unchain a =>
    let s := mkSlot a.toNat
    if a &&& 7#64 != a then .error 1
    else if !named s then .error 2
    else if (d.layOf s).dst.isNone then .error 8
    else .ok (d.fragSlots s)

/-- Step 1 of R46: leases lapse, and tentative matrix entries are discarded (step 2). -/
def Die.drainBegin (d : Die) (aff : List SlotId) : Die :=
  let fs := aff.flatMap fun a => d.fragSlots (d.baseOf a)
  (fs.foldl (fun d k => d.modSlot k (·.modCtl fun c => { c with mheld := false, mleft := 0 })) d)
    |> fun d => aff.foldl (fun d k => d.modSlot k (·.modCtl fun c => { c with tent := c.tent.filter fun t => t.1 != 3 })) d

/-- Links that enter or leave an affected fragment, by destination base. -/
def Die.linkDsts (d : Die) (aff : List SlotId) : List SlotId :=
  allSlots.filterMap fun s =>
    if (d.layOf s).v && d.baseOf s == s then
      match (d.layOf s).dst with
      | some t => if (aff.map d.baseOf).contains s || (aff.map d.baseOf).contains t then some t else none
      | none => none
    else none

/-- Steps 2 and 3 of R46 are over. -/
def Die.drainDone (d : Die) (aff : List SlotId) : Bool :=
  aff.all (fun k => (vget (d.slot k).q 3).isEmpty && (d.slot (d.baseOf k)).mxe.isNone) && (d.linkDsts aff).all fun t => (d.layOf t).buf.isEmpty

/-- Reason 9 (R378). -/
def Die.drainStuck (d : Die) (aff : List SlotId) : Bool :=
  (d.linkDsts aff).any fun t => (aff.map d.baseOf).contains t && !(d.layOf t).buf.isEmpty && (d.fragSlots t).all fun k => (vget (d.slot k).q 3).isEmpty

/-- Places a fragment of a shape at a base (R43): each of its slots takes the new byte; the base slot its matrix state. -/
def Die.putFrag (d : Die) (sh : Fin 6) (b : SlotId) (semi : Semi) (wfmt : Tag) : Die :=
  ((placement sh b).getD []).foldl (fun d k => d.modLay k fun _ => ⟨true, sh, b, semi, wfmt, none, []⟩) d

/-- Step 4 of R46 with R47: the new layout; accumulators, weights and tables stay where they lie. -/
def Die.drainApply (d : Die) (bs : List SlotId) (r : DrainReq) : Die :=
  match r with
  | .split a =>
    let p := mkSlot (fld a 0 3)
    let y := d.layOf p
    let sh := mkShape (fld a 4 3)
    (childBases sh (d.fragSlots p)).foldl (fun d b => d.putFrag sh b y.semi y.wfmt) d
  | .fuse a =>
    let b := mkSlot (fld a 0 3)
    let y := d.layOf (d.baseOf b)
    d.putFrag (mkShape (fld a 4 3)) b y.semi y.wfmt
  | .chain a b => if bs.isEmpty then d else d.modLay (mkSlot a.toNat) fun y => { y with dst := some (mkSlot b.toNat) }
  | .unchain a => d.modLay (mkSlot a.toNat) fun y => { y with dst := none }

/-- The layout of a block's fragments by strand index, for a later placement (R48). -/
def Die.relLay (d : Die) (bs : List SlotId) : List RelLay :=
  bs.filterMap fun k =>
    if (d.layOf k).v && d.baseOf k == k then
      let y := d.layOf k
      some ⟨y.shape, bs.idxOf k, y.semi, y.wfmt, y.dst.map fun t => bs.idxOf t⟩
    else none

/-- A stored layout placed on the slots of a new fragment (R48). -/
def Die.putRel (d : Die) (bs : List SlotId) (ls : List RelLay) (keep : Bool) : Die :=
  let slotAt (i : Nat) : SlotId := bs.getD i 0
  let d := ls.foldl (fun d r => d.putFrag r.shape (slotAt r.base) (if keep then r.semi else .plusTimes) (if keep then r.wfmt else tRAW)) d
  ls.foldl (fun d r => d.modLay (slotAt r.base) fun y => { y with dst := r.dst.map slotAt }) d

end Sys2Proof.Machine
end

