-- ==== Sys2Proof/Machine/CtlBlock.lean ====
section
/-! DEFINITION. Blocks of the control stream: header and static checks (R129 to R132, R149, R183, R192, R195), exits (R136, R137), the commit with window movement, suspension, traps and switch points (R22, R133, R135, R138, R187, R190, R197, R202), drain events (R46, R49), and the events that finish what a commit left pending (R32, R190, R194, R195). -/

namespace Sys2Proof.Machine

/-! ## Reading code (R126, R130) -/

/-- One line of code: executable memory of `MT` 0, as it stands or as the fetch has kept it (R125; log entry 108). -/
def codePiece (dn : DieId) (d : Die) (w : Who) (va len : Nat) : XRes (List Byte) :=
  match translate dn d w.tlb w.asid va false with
  | .fault d c x => .fault d c x
  | .wait d => .wait d
  | .ok d e =>
    let pa := fld e.pte 12 36 * 4096 + (va - e.va)
    if fld e.pte 8 3 != 0 then .fault d 21 va
    else if !bitAt e.pte 4 then .fault d 22 va
    else if !isDieMem (pa + len - 1) then .fault d 23 va
    else if d.poisoned pa len then .fault d 23 va
    else match d.icode.find? fun e => e.1 == w.tlb && e.2.1 == lineOf pa with
    | some e => .ok d (slice e.2.2 (pa % 128) len)
    | none => .ok d (d.peek pa len)

def codePieces (dn : DieId) (w : Who) : List (Nat × Nat) → Die → XRes (List Byte)
  | [], d => .ok d []
  | (va, len) :: r, d =>
    match codePiece dn d w va len with
    | .fault d c x => .fault d c x
    | .wait d => .wait d
    | .ok d b => (codePieces dn w r d).map (b ++ ·)

/-- `n` halfwords of code at an address. -/
def codeHalves (dn : DieId) (d : Die) (w : Who) (va n : Nat) : XRes (List Half) :=
  (codePieces dn w (cutLines va (2 * n)) d).map fun bs => (List.range n).map fun i => listGet 0 bs (2 * i + 1) ++ listGet 0 bs (2 * i)

/-! ## Static checks of a CTL body -/

/-- A word of the body: position, length in halfwords, `NA`, and the instruction if it decodes. -/
structure BWord where
  pos : Nat
  len : Nat
  na : Nat
  i : Option Instr
  deriving DecidableEq, Repr

def instr? {ε : Type} : Except ε Instr → Option Instr
  | .ok i => some i
  | .error _ => none

/-- The words of a CTL body, or none where the last word crosses its end (R130). -/
def bodyWords : Nat → Nat → List Half → Option (List BWord)
  | 0, _, _ => some []
  | _ + 1, _, [] => some []
  | n + 1, pos, h :: t =>
    if isWide h then
      match t with
      | [] => none
      | h2 :: r => (bodyWords n (pos + 2) r).map (⟨pos, 2, (wNa (h2 ++ h)).toNat, instr? (decodeCtl32 (h2 ++ h))⟩ :: ·)
    else (bodyWords n (pos + 1) t).map (⟨pos, 1, 0, instr? (decodeCtl16 h)⟩ :: ·)

/-- Words that must stand first, with `REP` = 1 (R184, R195). -/
def mustBeFirst : Instr → Bool
  | .twait _ | .semwait _ | .wpv _ | .wtb _ | .rfence _ | .fenceAcq _ | .fenceRel _ | .fenceFull _ => true
  | _ => false
/-- Words that must stand last, with `REP` = 1 (R195). -/
def mustBeLast : Instr → Bool
  | .semwaitSusp _ | .wpvSusp _ | .susp _ => true
  | _ => false
def isDrainWord : Instr → Bool
  | .split _ | .fuse _ | .chain _ | .unchain _ => true
  | _ => false
/-- The ordering of an atomic, if the word is one (R183). -/
def amoOrd : Instr → Option Nat
  | .amoadd o | .amoand o | .amoor o | .amoxor o | .amomin o | .amomax o | .amoswap o | .amocas o => some o.ord.toNat
  | _ => none
/-- The second word with `NA` = 0b10 that no word of `NA` = 0b01 parts from the first (R132): by position. After 0b01, 0b10 and 0b10 the last word is one, and illegal (log entry 116). -/
def secondLoop : Bool → List BWord → Option Nat
  | _, [] => none
  | seen, w :: r => if w.na = 2 then (if seen then some w.pos else secondLoop true r) else secondLoop (if w.na = 1 then false else seen) r

/-- Scalar loads, stores, atomics and pushes (R183). -/
def isAccess : Instr → Bool
  | .ldb _ | .ldh _ | .ldw _ | .ldd _ | .ldbu _ | .ldhu _ | .ldwu _ | .stb _ | .sth _ | .stw _ | .std _
  | .enqLde _ | .enqAre _ | .enqSte _ | .enqMxe _ | .enqCpe _ | .enqCoe _ => true
  | i => (amoOrd i).isSome

/-- What the scan has seen: an open loop word, a drain word, the position of an ordered atomic. -/
structure Seen where
  loop : Bool
  drain : Bool
  amo : Option Nat
  deriving DecidableEq, Repr

/-- The words of a body that are illegal wherever the run goes, by position (R132, R149, R183, R192, R195). -/
def badWords (first fin : Nat) (once : Bool) : Seen → List BWord → List Nat
  | _, [] => []
  | sn, w :: r =>
    let go (sn : Seen) (l : List Nat) : List Nat := l ++ badWords first fin once { sn with loop := if w.na = 2 then true else if w.na = 1 then false else sn.loop } r
    match w.i with
    | none => go sn [w.pos]
    | some i =>
      let here :=
        (mustBeFirst i && !(once && w.pos == first)) || (mustBeLast i && !(once && w.pos + w.len == fin))
          || (isDrainWord i && sn.drain) || (w.na == 2 && sn.loop) || (match amoOrd i with | some o => o != 0 && !once | none => false)
      let late := if isAccess i then sn.amo.toList else []
      let amo := match amoOrd i with | some o => if o != 0 then some w.pos else none | none => if isAccess i then none else sn.amo
      go { sn with drain := sn.drain || isDrainWord i, amo := amo } ((if here then [w.pos] else []) ++ late)

def minOf : List Nat → Option Nat
  | [] => none
  | a :: r => some (r.foldl min a)

/-! ## The header -/

/-- A header failure: illegal-block, with `WORD` 0 (R130, R365). -/
def headerFault (s : State) (d : DieId) (k : SlotId) (code : Nat) (addr : Word) : State :=
  takeFault s d k 0 ⟨code, (s.ctl d k).pc, 0, addr, (s.ctl d k).ccnt, 0, 0⟩

/-- A block begins: all its code is read and checked, and its repeat count taken (R130 to R132). It waits while its repeat-source register is empty (log entry 115). DESIGN CHOICE (log entry 140): a repeat-source halfword that breaks its layout is recorded like a header failure, with `WORD` 0. -/
def beginBlock (len nex : Nat) (rep : Option Nat) (sw : Option Nat) (s : State) : State :=
  match s.cur.ag with
  | .core k =>
    let d := s.cur.die
    let c := s.ctl d k
    if c.opn.isSome then s
    else if len = 0 then headerFault s d k 1 0
    else
      let n := 2 + len + 2 * nex
      match codeHalves d (s.die d) ((s.die d).who (.core k) k) c.pc.toNat n with
      | .fault y code x => headerFault (s.modDie d fun _ => y) d k code (BitVec.ofNat 64 x)
      | .wait y => s.modDie d fun _ => y
      | .ok y hs =>
        let s := s.modDie d fun _ => y
        let body := slice hs 2 len
        let src := listGet 0 body 0
        let srcOk := 2 ≤ len && src.extractLsb' 0 2 == 0#2 && src.extractLsb' 7 9 == 0#9
        if rep == none && !srcOk then headerFault s d k 1 0
        else
          let first := if rep == none then 3 else 2
          match bodyWords len first (body.drop (first - 2)) with
          | none => headerFault s d k 1 0
          | some ws =>
            let exits := (List.range nex).map fun i => listGet 0 hs (2 + len + 2 * i + 1) ++ listGet 0 hs (2 + len + 2 * i)
            if exits.any fun w => w.extractLsb' 0 2 != 3#2 || wMaj w != 0x3E then headerFault s d k 1 0
            else
              let badX := (List.range nex).filter fun i => (instr? (decodeExit (listGet 0 exits i))).isNone
              let bad := minOf (badWords first (2 + len) (rep == some 1) ⟨false, false, none⟩ ws ++ badX.map fun i => 2 + len + 2 * i)
              if (secondLoop false ws).isSome then
                takeFault s d k 0 ⟨2, c.pc, c.pc + BitVec.ofNat 64 (2 * bad.getD 0), 0, c.ccnt, 0, 0⟩
              else
              let start (count : Nat) : State :=
                let o : Open :=
                  { hdr := c.pc, len := len, nex := nex, sw := sw, first := first, count := count, iter := 0, pos := first, phase := .body
                    bad := bad, regs := c.regs, ops := [], toks := 0, wait := none, waitNa := 0, resv := [], nst := 0, npush := .replicate 6 0
                    drain := none, aff := [], susp := none, traps := [], succ := .undecided, fill := [], fillAsked := false
                    schedAsked := false, sched := none }
                s.setOpn d k (if count = 0 then o.leave else o)
              match rep with
              | some r => start r
              | none =>
                let r : BitVec 5 := src.extractLsb' 2 5
                if c.regs.isFull r then start (c.regs.get r).toNat else s
  | _ => s

def execBlockHeader (h : Hdr) (s : State) : Out :=
  .next (beginBlock h.len.toNat h.nex.toNat (if h.rep = 0 then none else some h.rep.toNat) none s)
def execSwitchPointHeader (h : HdrSw) (s : State) : Out := .next (beginBlock h.len.toNat 0 (some 1) (some h.swid.toNat) s)

/-- A word that the static checks refuse is reached, or the body has been left before one: the block's fault (R149). -/
def badFault (s : State) (d : DieId) (k : SlotId) (o : Open) (b : Nat) : State :=
  takeFault s d k 0 ⟨if o.len + 2 ≤ b then 1 else 2, o.hdr, o.at_ b, 0, (s.ctl d k).ccnt, 0, 0⟩

/-! ## Exits (R136, R137) -/

/-- An exit word: if it fires, `f` gives the successor from the register's value. DESIGN CHOICE (log entry 142; R137 gives no B bit and no fate): while the register is empty the exit waits. -/
def exitDo (p : BitVec 3) (neg : Bool) (reg : Option (BitVec 5)) (f : Open → Word → Nat → Succ) (s : State) : Out :=
  match s.cur.ag with
  | .core k =>
    let d := s.cur.die
    match (s.ctl d k).opn with
    | none => .next s
    | some o =>
      match o.phase with
      | .exits n =>
        let w := (o.at_ (2 + o.len + 2 * n)).toNat
        if o.regs.pget p == neg then
          .next (s.setOpn d k (if n + 1 < o.nex then { o with phase := .exits (n + 1) } else { o with phase := .ready, succ := .fall }))
        else match reg with
        | none => .next (s.setOpn d k { o with phase := .ready, succ := f o 0 w })
        | some r =>
          if o.regs.isFull r then .next (s.setOpn d k { o with phase := .ready, succ := f o (o.regs.get r) w }) else .next s
      | _ => .next s
  | _ => .next s

def execRelativeExit (x : ExRel) (s : State) : Out :=
  exitDo x.p x.neg none (fun o _ w => .addr (o.hdr + (x.off.signExtend 64 <<< 1)) w) s
def execJumpExit (x : ExReg) (s : State) : Out := exitDo x.p x.neg (some x.reg) (fun _ v w => if v = 0 then .stop w else .addr v w) s
def execCallExit (x : ExReg) (s : State) : Out := exitDo x.p x.neg (some x.reg) (fun _ v w => .call v w) s
def execReturnExit (x : ExReg) (s : State) : Out := exitDo x.p x.neg (some x.reg) (fun _ v w => .ret v w) s

/-! ## Commit: what is checked before (R133, R137, R138, R187, R189, R190, R196, R197) -/

/-- The next block in memory. DESIGN CHOICE (log entry 143): past the top of the address space the address is taken modulo 2^52. -/
def Open.nextAddr (o : Open) : Word := (o.at_ (2 + o.len + 2 * o.nex)) &&& bits 51 0

def badTarget (a : Word) : Bool := bitAt a 0 || fld a 52 12 != 0

/-- What the checks before a commit come to. -/
inductive Pre (α : Type) where
  | ok (s : State) (a : α)
  | wait (s : State)
  | fault (s : State) (code : Nat) (word addr : Word) (unit : Nat)

def Pre.state {α : Type} : Pre α → State
  | .ok s _ | .wait s | .fault s .. => s

/-- Two checks of a block whose header lies at `h`, both made: of two failures the first word in address order is named (R149, R363). A check that must wait is waited for. -/
def Pre.and {α β : Type} (h : Word) (p : Pre α) (f : State → Pre β) : Pre (α × β) :=
  match p with
  | .ok s a =>
    match f s with
    | .ok s b => .ok s (a, b)
    | .wait s => .wait s
    | .fault s c w x u => .fault s c w x u
  | .wait s => .wait (f s).state
  | .fault s c w x u =>
    match f s with
    | .ok s _ => .fault s c w x u
    | .wait s => .wait s
    | .fault s c' w' x' u' => if (w' - h).toNat < (w - h).toNat then .fault s c' w' x' u' else .fault s c w x u

def Pre.bind {α β : Type} (p : Pre α) (f : State → α → Pre β) : Pre β :=
  match p with
  | .ok s a => f s a
  | .wait s => .wait s
  | .fault s c w a u => .fault s c w a u

/-- One scalar access of the commit: spill, fill, record or schedule table. -/
def preAccess (s : State) (d : DieId) (k : SlotId) (va len : Nat) (rd wr : Bool) (word : Word) : Pre (List Piece) :=
  match accessRow d (s.die d) ((s.die d).who (.core k) k) va len (needScalar rd wr) with
  | .ok y p => .ok (s.modDie d fun _ => y) p
  | .wait y => .wait (s.modDie d fun _ => y)
  | .fault y c x => .fault (s.modDie d fun _ => y) c word (BitVec.ofNat 64 x) 0

/-- A semaphore with what the block itself does to it at its commit (R133). -/
def semAfter (ops : List CtlOp) (i : Fin 32) (v : W32) : W32 :=
  ops.foldl (fun v x => match x with | .sem set j y => if j == i then (if set then y else v + y) else v | _ => v) v

/-- The suspension that a block comes to: none if its condition holds (R22, R189, R196). A read of the sync unit that must wait, behind an atomic's acquire too (R114, R183), makes the commit wait. -/
def preSusp (s : State) (d : DieId) (k : SlotId) (o : Open) : Pre (Option (SuspReq × Nat)) :=
  match o.susp with
  | none => .ok s none
  | some (.susp, p) => .ok s (some (.susp, p))
  | some (.sem i v, p) =>
    match if (s.ctl d k).acq.isSome then none else semSeen (s.die d) d k i with
    | none => .wait s
    | some x =>
      if (semAfter o.ops i x).ult v then .ok s (some (.sem i v, p))
      else if acqFree (s.die d) d k then .ok s none else .wait s
  | some (.wpv n lid, p) =>
    if ((s.die d).sched.launch lid).any (·.st == .failed) then .fault s 11 (o.at_ p) 0 3
    else if visible (s.die d) lid then (if acqFree (s.die d) d k then .ok s none else .wait s)
    else .ok s (some (.wpv n lid, p))

/-- The strand's CSRs after the `csrw` words of the block (R133). -/
def csrAfter (t : Slot) (ops : List CtlOp) : Csrs :=
  (ops.foldl (fun t x => match x with | .csrw n v => csrWrite t n.toNat v | _ => t) t).ctl.csr

/-- The `trap` and `eret` words of a block in the order executed (R202): the CSRs and the successor they leave, and the value and position of a `trap` that the driver takes; or the position of an `eret` outside handler mode. -/
def trapFold : List (Option Word × Nat) → Csrs × Word → Except Nat ((Csrs × Word) × Option (Word × Nat))
  | [], q => .ok (q, none)
  | (some v, p) :: r, q => if handlerTakes q.1 then trapFold r (enterHandler q.1 q.2 v) else .ok (q, some (v, p))
  | (none, p) :: r, q => if q.1.hm then trapFold r (leaveHandler q.1) else .error p

/-- Unfilled reservations a queue would hold (R190). -/
def unfilled (t : Slot) (o : Open) (q : Fin 4) : Nat := (vget t.resv q).length + (o.resv.filter fun r => r.1 == q && r.2.isSome).length

/-- The word of the first matrix push. -/
def firstMxe (ops : List CtlOp) : Nat :=
  match ops.find? fun x => match x with | .enq q .. => q == 3 | _ => false with
  | some (.enq _ _ _ _ _ w) => w
  | _ => 0

/-- A word that no run may reach, or that the body has been left before (R149). -/
def preBad (o : Open) (s : State) : Pre Unit :=
  match o.bad with
  | some b => .fault s (if o.len + 2 ≤ b then 1 else 2) (o.at_ b) 0 0
  | none => .ok s ()

/-- The lease of the block's matrix pushes (R187, R379): whether it is held, or asked for and waited for. -/
def preLease (d : DieId) (k : SlotId) (o : Open) (s : State) : Pre Bool :=
  match (s.die d).leaseCheck d k (vget o.npush 3) with
  | some (some u) => .fault s 6 (BitVec.ofNat 64 (firstMxe o.ops)) 0 u
  | some none => .ok s false
  | none => .ok s true

/-- The `trap` and `eret` words (R202). -/
def preTraps (d : DieId) (k : SlotId) (o : Open) (s : State) : Pre Unit :=
  match trapFold o.traps (csrAfter (s.slot d k) o.ops, 0) with
  | .error p => .fault s 2 (o.at_ p) 0 0
  | .ok _ => .ok s ()

/-- The check of the block's drain event, and its affected slots (R46, R377). -/
def preDrain (d : DieId) (k : SlotId) (o : Open) (s : State) : Pre (List SlotId) :=
  match o.drain with
  | none => .ok s []
  | some q =>
    match (s.die d).drainCheck ((s.die d).ownBlk k |>.elim [] (·.slots)) q.1 with
    | .error u => .fault s 12 (o.at_ q.2) 0 u
    | .ok aff => .ok s aff

/-- Window depth after the movement the exits chose. -/
def depthAfter (c : Csrs) : Succ → Nat
  | .call .. => c.wdepth.toNat + 1
  | .ret .. => c.wdepth.toNat - 1
  | _ => c.wdepth.toNat

/-- The checks of the exits' target and of the window (R137, R138). The answer is the pieces of the spill or fill. -/
def preExit (s : State) (d : DieId) (k : SlotId) (o : Open) : Pre (List Piece) :=
  let c := csrAfter (s.slot d k) o.ops
  match o.succ with
  | .addr a w => if badTarget a then .fault s 1 (BitVec.ofNat 64 w) a 0 else .ok s []
  | .call a w =>
    if badTarget a || a = 0 then .fault s 1 (BitVec.ofNat 64 w) a 0
    else if c.wdepth = 255 || c.wsp.toNat < c.wlim.toNat + 64 then .fault s 7 (BitVec.ofNat 64 w) 0 0
    else if !((List.range 8).all fun i => o.regs.isFull (BitVec.ofNat 5 (16 + i))) then .wait s
    else preAccess s d k (c.wsp.toNat - 64) 64 false true (BitVec.ofNat 64 w)
  | .ret a w =>
    if badTarget a || a = 0 then .fault s 1 (BitVec.ofNat 64 w) a 0
    else if c.wdepth = 0 then .fault s 7 (BitVec.ofNat 64 w) 0 0
    else preAccess s d k c.wsp.toNat 64 true false (BitVec.ofNat 64 w)
  | _ => .ok s []

/-- The read of a schedule entry (R135): an aligned scalar load in the place of the block, which an atomic's acquire holds (R183). -/
def askSched (d : DieId) (k : SlotId) (o : Open) (g : Nat) (p : Piece) (s : State) : State :=
  (s.modAg d (.core k) fun a => { a with rd := a.rd ++ [⟨0, p, .sched g, packPlace o.hdr 0 0, (s.ctl d k).ccnt⟩] }).setOpn d k { o with schedAsked := true, sched := none }

/-- The successor of a switch point (R135, R163, R336): the entry of the schedule that the level of the moment selects, read before; it is asked for where it has not been, or where the level has moved since. DESIGN CHOICE (log entry 141): bits [63:52] of the entry are ignored, and an odd entry fails at its own header fetch, as any successor does. -/
def preSwitch (s : State) (d : DieId) (k : SlotId) (o : Open) : Pre Word :=
  match o.sw, (s.die d).ownLaunch k with
  | some n, some l =>
    if l.swcnt ≤ n then .ok s o.nextAddr
    else
      let lvl := (s.die d).rf d rPGRANT 0 2
      let g := (s.die d).rf d rPSCHED (2 * lvl) 2
      let ask : Pre Word :=
        if (s.ctl d k).acq.isSome then .wait s
        else if l.sched.toNat % 8 != 0 then .fault s 19 0 (l.sched + BitVec.ofNat 64 (32 * n + 8 * g)) 0
        else (preAccess s d k (l.sched.toNat + 32 * n + 8 * g) 8 true false 0).bind fun s ps =>
          match ps with
          | p :: _ => .wait (askSched d k o g p s)
          | [] => .wait s
      match o.sched with
      | some (g', w) => if g' == g then (let a := w &&& bits 51 0; .ok s (if a = 0 then o.nextAddr else a)) else ask
      | none => if o.schedAsked then .wait s else ask
  | _, _ => .ok s o.nextAddr

/-- Everything a commit needs that its checks have found. -/
structure Ready where
  susp : Option (SuspReq × Nat)
  win : List Piece
  /-- successor where no exit fires -/
  fall : Word
  /-- place of the record written at a suspension point -/
  place : List Piece
  /-- affected slots of the block's drain event -/
  aff : List SlotId
  deriving DecidableEq, Repr

/-- A suspension point is reached (R22). -/
def Ready.suspends (r : Ready) (o : Open) : Bool := r.susp.isSome || (match o.succ with | .stop _ => true | _ => false)

/-- A suspension point in handler mode or inside a call is a fault of its word (R22, R138, R202). -/
def prePoint (s : State) (d : DieId) (k : SlotId) (o : Open) (sp : Option (SuspReq × Nat)) : Pre Unit :=
  let c := s.ctl d k
  let stopW := match o.succ with | .stop w => some w | _ => none
  if (sp.isSome || stopW.isSome) && (c.csr.hm || depthAfter c.csr o.succ != 0) then
    .fault s 8 (match sp, stopW with | some x, _ => o.at_ x.2 | none, some w => BitVec.ofNat 64 w | none, none => 0) 0 0
  else .ok s ()

/-- The checks of a commit, of which the first failing word in address order is named (R149, R363); last those that belong to no word: the schedule entry, and the record written at a suspension point, whose leaf must be fit to take `D` (R89, R394). -/
def preCommit (s : State) (d : DieId) (k : SlotId) (o : Open) : Pre Ready :=
  (((((preSusp s d k o).bind fun s sp => (prePoint s d k o sp).bind fun s _ => .ok s sp).and o.hdr (preTraps d k o)).and o.hdr (preDrain d k o)).and o.hdr
    fun s => preExit s d k o).bind fun s q =>
  let sp := q.1.1.1
  let point := sp.isSome || (match o.succ with | .stop _ => true | _ => false)
  let c := s.ctl d k
  if point && (s.die d).paired d != none && (!(s.slot d k).agCtl.sb.isEmpty || !s.pairRoom d 1) then .wait s
  else
    (preSwitch s d k o).bind fun s fall =>
    match point, c.own, (s.die d).ownLaunch k with
    | true, some w, some l => (preAccess s d k (l.recAt w.blk w.sidx) 64 false true 0).bind fun s rp =>
      if rp.any (s.die d).leafBad then .fault s 23 0 (BitVec.ofNat 64 (l.recAt w.blk w.sidx)) 0
      else .ok s ⟨sp, q.2, fall, rp, q.1.2⟩
    | _, _, _ => .ok s ⟨sp, q.2, fall, [], q.1.2⟩

/-! ## Commit: what takes effect -/

/-- The held operations enter the store buffer, the queues and the unit they belong to, in the order written (R133, R183, R185, R188 to R203). An entry takes over the fault that it met while it was tentative (R32). -/
def applyOp (d : DieId) (k : SlotId) (hdr : Word) (seq : W32) (s : State) (x : CtlOp) : State :=
  let push (s : State) (op : SbOp) : State := s.modAg d (.core k) fun a => { a with sb := a.sb ++ [op] }
  match x with
  | .store w word => push s (.write [w] false word seq)
  | .amo r op w64 ord scope b y =>
    let s := if ord = 2 || ord = 3 then push s (.relGate (ord == 3) scope (s.slot d k).pseq) else s
    let s := push s (.amo r op w64 b y)
    if ord = 1 || ord = 3 then (push s .acqGate).modCtl d k fun c => { c with acq := some r.tag } else s
  | .sem set i v => push s (.sem set i v)
  | .tsig mask word => push s (.tsig mask hdr.toNat word seq)
  | .enq q hdr e wait sig _ =>
    let g := stepRng (s.ctl d k).rng
    let early := (s.ctl d k).tent.find? fun t => t.1 == q && t.2.hdr == hdr
    let s := s.modSlot d k fun t => { t with
      q := vmod t.q q (· ++ [⟨hdr, e, wait, sig, g, vget t.pseq q, early.bind (·.2.held)⟩]), pseq := vmod t.pseq q (· + 1)
      ctl := { t.ctl with rng := g, tent := match early with | some x => t.ctl.tent.erase x | none => t.ctl.tent } }
    if q == 3 then
      let b := (s.die d).baseOf k
      let s := s.modSlot d b fun t => { t with mord := t.mord ++ [k] }
      if (s.ctl d k).mheld then
        let s := s.modCtl d k fun c => { c with mleft := c.mleft - 1 }
        if (s.ctl d k).mleft = 0 then s.modDie d fun y => y.lapse d k else s
      else s
    else s
  | .mlease => s.modDie d fun y => y.mlease d k
  | .mrlse => s.modDie d fun y => y.mrlse d k
  | .arv _ => s
  | .hint n => s.modDie d fun y => Die.hintNode d y k n
  | .csrw n v => s.modSlot d k fun t => csrWrite t n.toNat v
  | .sysc arg i => push s (.sysc arg i (s.slot d k).pseq)
  | .freeh rs ds word => push s (.freeh rs ds word seq)

/-- Arrivals of a block are recorded when everything up to and including it is released (R193, R194). -/
def noteArrivals (s : State) (d : DieId) (k : SlotId) (ops : List CtlOp) : State :=
  let n := (s.slot d k).agCtl.sb.length
  let ps := (s.slot d k).pseq
  ops.foldl (fun s x => match x with
    | .arv sc => s.modCtl d k fun c => { c with arvs := c.arvs ++ (if sc = 0 then [(0, n, ps), (3, 0, ps)] else [(sc, n, ps)]) }
    | _ => s) s

/-- Results that the block's filled reservations remove, and the reservations that stay unfilled (R190). -/
def commitPops (t : Slot) (o : Open) : Slot :=
  (List.finRange 4).foldl (fun t q =>
    let base := (vget t.resv q).length
    let mine : List (Fin 4 × Option Nat) := o.resv.filter fun r => r.1 == q
    let taken := (List.range mine.length).filter fun j => match mine[j]? with | some (_, none) => true | _ => false
    let rs := vget t.rq q
    let psn := taken.any fun j => match rs[base + j]? with | some r => r.2 | none => false
    let left := ((List.range rs.length).filter fun i => !(base ≤ i && taken.contains (i - base))).filterMap fun i => rs[i]?
    { t with rq := vset t.rq q left, resv := vmod t.resv q (fun (l : List Nat) => l ++ mine.filterMap fun (r : Fin 4 × Option Nat) => r.2) }.setPsn q psn) t

/-- Register window movement (R138): a call's spill pieces give its stores; a return's fills give s16 to s23. -/
def moveCall (r : Regs) (ret : Word) : Regs :=
  let x := Vector.ofFn fun i : Fin 32 =>
    if 16 ≤ i.val && i.val < 24 then vget r.x ⟨(i.val + 8) % 32, Nat.mod_lt _ (by decide)⟩
    else if 24 ≤ i.val && i.val < 31 then ⟨0, none⟩ else if i.val = 31 then ⟨ret, none⟩ else vget r.x i
  { r with x := x }
def moveRet (r : Regs) (fill : List Word) : Regs :=
  let x := Vector.ofFn fun i : Fin 32 =>
    if 24 ≤ i.val then vget r.x ⟨(i.val + 24) % 32, Nat.mod_lt _ (by decide)⟩
    else if 16 ≤ i.val then ⟨listGet 0 fill (i.val - 16), none⟩ else vget r.x i
  { r with x := x }

/-- The spill stores of a call, after the block's own stores, in ascending order. -/
def spill (d : DieId) (k : SlotId) (o : Open) (ps : List Piece) (base : Nat) (seq : W32) (s : State) : State :=
  (List.range 8).foldl (fun s i =>
    match ps.find? fun p => p.va ≤ base + 8 * i && base + 8 * i < p.va + p.len with
    | some p =>
      let off := base + 8 * i - p.va
      let loc := match p.loc with
        | .here a => Loc.here (a + off) | .peer h x g a => .peer h x g (a + off) | .fab q h x g a => .fab q h x g (a + off)
      s.modAg d (.core k) fun a => { a with sb := a.sb ++ [.write [⟨⟨loc, base + 8 * i, 8, p.dirty, p.pg⟩, wordLe 8 (o.regs.get (BitVec.ofNat 5 (16 + i)))⟩] false (packPlace o.hdr 0 0) seq] }
    | none => s) s

/-- Values of the fills, with the block's own earlier stores over them. -/
def fillWords (s : State) (o : Open) (ps : List Piece) (base : Nat) : List Word :=
  (List.range 8).map fun i =>
    let v : Word := match o.fill.find? fun e => e.1 == i with | some e => e.2 | none => 0
    match ps.find? fun p => p.va ≤ base + 8 * i && base + 8 * i < p.va + p.len with
    | some p => loadVal 8 false ((ownStores s o.ops p).filterMap fun e => if base + 8 * i ≤ p.va + e.1 && p.va + e.1 < base + 8 * i + 8 then some (p.va + e.1 - (base + 8 * i), e.2) else none) (wordLe 8 v)
    | none => v

/-- The fill loads of a return (R138). -/
def askFills (d : DieId) (k : SlotId) (o : Open) (ps : List Piece) (base word : Nat) (s : State) : State :=
  let seq := (s.ctl d k).ccnt
  let rds : List Rd := (List.range 8).filterMap fun i =>
    (ps.find? fun p => p.va ≤ base + 8 * i && base + 8 * i < p.va + p.len).map fun p =>
      let off := base + 8 * i - p.va
      let loc := match p.loc with
        | .here a => Loc.here (a + off) | .peer h x g a => .peer h x g (a + off) | .fab q h x g a => .fab q h x g (a + off)
      ⟨0, ⟨loc, base + 8 * i, 8, none, p.pg⟩, .fill i, packPlace o.hdr (BitVec.ofNat 64 word) 0, seq⟩
  (s.modAg d (.core k) fun a => { a with rd := a.rd ++ rds }).setOpn d k { o with fillAsked := true }

/-- Predicates p1 to p7 as the record holds them. -/
def predBits (r : Regs) : BitVec 7 := BitVec.ofNat 7 ((List.range 7).foldl (fun n i => n + (if r.pget (BitVec.ofNat 3 (i + 1)) then 2 ^ i else 0)) 0)

/-- A strand reaches a suspension point (R22, R27): its ports' rows are given back, its record is written, `FRESH` and `EARLY` clear, or held where another port has pinned its line (R103), or, in a peer window, buffered like any store; its lease is given up, and its scheduler state set. `LIVE0` and `LIVE1` take the words that s1 and s2 hold, also where one is still empty (log entry 117). -/
def suspend (s : State) (d : DieId) (k : SlotId) (succ : Word) (kind sem : Nat) (thr : W32) (pnode : Half) (done : Bool) (ps : List Piece) : State :=
  match (s.ctl d k).own, (s.die d).ownLaunch k with
  | some w, some l =>
    let c := s.ctl d k
    let r : RecVal := { pc := succ, rng := c.rng, pred := predBits c.regs, vflags := c.csr.vflags.setWidth 16, live0 := c.regs.get 1, live1 := c.regs.get 2
                        kind := kind, sem := sem, thr := thr, pnode := pnode, early := false, done := done, fresh := false }
    let bs := l.recBytes w.blk w.sidx r
    let va := l.recAt w.blk w.sidx
    let s := s.modSlot d k (·.dropRows)
    let op : SbOp := .write (wrsOf ps va bs) false (packPlace 0 0 0) c.ccnt
    let near := ps.all fun p => match p.loc with | .here _ => true | _ => false
    let s := if near then
        applyLocal ((s.pairStores d (.core k) (op.pairIns s d)).modDie d fun y => ps.foldl (fun y p => y.markDirty (tlbOf (.core k)) p) y) d (.core k) op .ok
      else s.modAg d (.core k) fun a => { a with sb := a.sb ++ [op] }
    let s := s.modDie d fun y => y.mrlse d k
    let s := s.modSched d fun q => q.modBlk w.lid w.blk fun b => b.modRec w.sidx fun z =>
      { z with fresh := false, done := done, susp := some (kind, ⟨sem % 32, Nat.mod_lt _ (by decide)⟩, thr, pnode) }
    s.modCtl d k fun c => { c with act := .suspended }
  | _, _ => s.modCtl d k fun c => { c with act := .suspended }

/-- The block commits (R133): its checks have passed. DESIGN CHOICE (log entry 137): in a block that both executes `trap` or `eret` and reaches a suspension point, the handler mode before the block decides whether the point is legal, and the record's `PC` is the successor that the traps leave. -/
def commitFinish (s : State) (d : DieId) (k : SlotId) (o : Open) (r : Ready) : State :=
  let seq := (s.ctl d k).ccnt
  let tent := (s.ctl d k).tent
  let wsp := (csrAfter (s.slot d k) o.ops).wsp.toNat
  let regs := match o.succ with
    | .call _ _ => moveCall o.regs o.nextAddr
    | .ret _ _ => moveRet o.regs (fillWords s o r.win wsp)
    | _ => o.regs
  let s := o.ops.foldl (applyOp d k o.hdr seq) s
  let s := match o.succ with | .call _ _ => spill d k o r.win (wsp - 64) seq s | _ => s
  let s := noteArrivals s d k o.ops
  let s := s.modSlot d k fun t => commitPops t o
  let npush := o.npush.toList.foldl (· + ·) 0
  let mv (x : Csrs) : Csrs := match o.succ with
    | .call _ _ => { x with wsp := x.wsp - 64, wdepth := x.wdepth + 1 }
    | .ret _ _ => { x with wsp := x.wsp + 64, wdepth := x.wdepth - 1 }
    | _ => x
  let succ0 := match o.succ with | .addr a _ | .call a _ | .ret a _ => a | .stop _ => 0 | _ => r.fall
  let traps := o.traps.any (·.1.isSome)
  let s := s.modCtl d k fun c =>
    { c with regs := regs, csr := mv c.csr, opn := none, ccnt := c.ccnt + 1, tent := if traps || r.suspends o then [] else tent.drop npush }
  let q0 := ((s.ctl d k).csr, succ0)
  let q1 := match trapFold o.traps q0 with | .ok q => q | .error _ => (q0, none)
  let s := s.modCtl d k fun c => { c with csr := q1.1.1, pc := q1.1.2 }
  let s := if traps then s.modSlot d k (·.dropRows) else s
  let s := if r.suspends o then
      (let done := match o.succ with | .stop _ => true | _ => false
       match r.susp with
        | some (.sem i v, _) => suspend s d k q1.1.2 1 i.val v 0 done r.place
        | some (.wpv n _, _) => suspend s d k q1.1.2 2 0 0 n done r.place
        | _ => suspend s d k q1.1.2 0 0 0 0 done r.place)
    else s
  match q1.2 with
  | some (v, p) => takeFault s d k 0 ⟨9, o.hdr, o.at_ p, 0, seq, 0, v⟩
  | none => s

/-! ## Events of the block -/

/-- The open block faults at a word given by address. -/
def blockFault (s : State) (d : DieId) (k : SlotId) (o : Open) (code : Nat) (word addr : Word) (unit : Nat) : State :=
  takeFault s d k 0 ⟨code, o.hdr, word, addr, (s.ctl d k).ccnt, unit, 0⟩

/-- The block commits, or a check of its commit fails or makes it wait (R133). -/
def execBlockCommit (d : DieId) (k : SlotId) (s : State) : Out :=
  match (s.ctl d k).opn with
  | none => .next s
  | some o =>
    if o.phase != .ready || !(s.slot d k).agCtl.rd.isEmpty || (s.slot d k).heldBy 0 || vget (s.slot d k).stop 0 then .next s
    else
      match ((preBad o s).and o.hdr (preLease d k o)).and o.hdr fun s => preCommit s d k o with
      | .wait s => .next s
      | .fault s c w a u => .next (blockFault s d k o c w a u)
      | .ok s q =>
        let t := s.slot d k
        if !q.1.2 || !((List.finRange 6).all fun i => (vget t.q i).length + vget o.npush i ≤ 16) || !((List.finRange 4).all fun i => unfilled t o i ≤ 16) then .next s
        else
          let go : State := if o.drain.isNone then commitFinish s d k o q.2 else (s.setOpn d k { o with phase := .draining, aff := q.2.aff }).modDie d fun y => y.drainBegin q.2.aff
          match o.succ, o.fillAsked with
          | .ret _ w, false => if (s.ctl d k).acq.isSome then .next s else .next (askFills d k o q.2.win (csrAfter (s.slot d k) o.ops).wsp.toNat w s)
          | .ret _ _, true => if o.fill.length < 8 then .next s else .next go
          | _, _ => .next go

/-- A drain event ends without its step 4: what its freeze held back is granted again (R46, R48, R49). -/
def drainFail (s : State) (d : DieId) (k : SlotId) (o : Open) (code : Nat) (word addr : Word) (unit : Nat) : State :=
  (blockFault s d k o code word addr unit).modDie d fun y => (o.aff.map y.baseOf).foldl (fun y b => y.regrant d b) y

/-- A drain event that waits: it is checked again, fails with reason 9, begins again on new affected slots, or takes step 4 and its block commits (R46 to R49, R378). -/
def execDrainEvent (d : DieId) (k : SlotId) (s : State) : Out :=
  match (s.ctl d k).opn with
  | none => .next s
  | some o =>
    match o.phase, o.drain with
    | .draining, some q =>
      if (s.slot d k).heldBy 0 || vget (s.slot d k).stop 0 then .next s
      else
        let y := s.die d
        let bs := y.ownBlk k |>.elim [] (·.slots)
        match y.drainCheck bs q.1 with
        | .error u => .next (drainFail s d k o 12 (o.at_ q.2) 0 u)
        | .ok aff =>
          if aff != o.aff then
            let s := (s.setOpn d k { o with aff := aff }).modDie d fun y => y.drainBegin aff
            .next (s.modDie d fun y => ((o.aff.map y.baseOf).filter fun b => !(aff.map y.baseOf).contains b).foldl (fun y b => y.regrant d b) y)
          else if y.drainStuck aff then .next (drainFail s d k o 12 (o.at_ q.2) 0 9)
          else if !y.drainDone aff then .next s
          else
            match preCommit s d k o with
            | .wait s => .next s
            | .fault s c w a u => .next (drainFail s d k o c w a u)
            | .ok s r =>
              let s := s.modDie d fun y => y.drainApply bs q.1
              let s := s.setOpn d k { o with phase := .ready, aff := [] }
              let s := s.modDie d fun y => (aff.map y.baseOf).foldl (fun y b => y.regrant d b) y
              .next (commitFinish s d k o r)
    | _, _ => .next s

/-- An exit prediction proves wrong: every tentative entry is discarded (R33). -/
def execRunAheadMispredict (d : DieId) (k : SlotId) (s : State) : Out :=
  let n := (s.ctl d k).tent.length
  .next ((s.modDie d fun y => y.countSlot d k 7 n).modCtl d k fun c => { c with tent := [] })

/-- A first-word wait ends, and the body goes on (R195). -/
def execBlockWaitMet (d : DieId) (k : SlotId) (s : State) : Out :=
  match (s.ctl d k).opn with
  | some o =>
    match o.wait with
    | some w =>
      let failed : Bool := match w with | .wpv lid => ((s.die d).sched.launch lid).any (·.st == .failed) | _ => false
      if o.phase != .body || (s.slot d k).heldBy 0 || vget (s.slot d k).stop 0 then .next s
      else if failed then .next (ctlFault s d k o o.pos 11 0 3 0)
      else if waitMet (s.die d) d k w then
          let p := waitTake s d k o w
          match o.bad with
          | some b => if b ≤ o.pos then .next (badFault s d k o b) else .next (p.1.setOpn d k ({ p.2 with wait := none }.adv 2 o.waitNa))
          | none => .next (p.1.setOpn d k ({ p.2 with wait := none }.adv 2 o.waitNa))
      else .next s
    | none => .next s
  | none => .next s

/-- A result fills the oldest unfilled reservation of a queue: of committed blocks first, then of the open block (R190). -/
def execPopFill (d : DieId) (k : SlotId) (q : BitVec 2) (s : State) : Out :=
  let i := qidx q
  let t := s.slot d k
  match vget t.resv i with
  | tag :: rest =>
    match vget t.rq i with
    | [] => .next s
    | r :: rs =>
      let v := popVal s r
      .next (v.2.modSlot d k fun t => (({ t with rq := vset t.rq i rs, resv := vset t.resv i rest }.setPsn i r.2).fillTag tag v.1))
  | [] =>
    match t.ctl.opn with
    | none => .next s
    | some o =>
      let mine := (List.range o.resv.length).filter fun j => match o.resv[j]? with | some x => x.1 == i | none => false
      match (List.range mine.length).find? fun n => match mine[n]? with | some j => (match o.resv[j]? with | some x => x.2.isSome | none => false) | none => false with
      | none => .next s
      | some n =>
        match mine[n]?, (vget t.rq i)[n]? with
        | some j, some r =>
          match o.resv[j]? with
          | some (_, some tag) =>
            let v := popVal s r
            let s := v.2.setOpn d k { o with resv := o.resv.set j (i, none) }
            .next (s.modSlot d k fun t => t.modCtl fun c => { c with opn := c.opn.map fun o => { o with regs := fillRegs o.regs tag v.1 } })
          | _ => .next s
        | _, _ => .next s

/-- A strand's arrival is recorded once the release condition of its scope holds (R193, R194). -/
def execArrivalRecord (d : DieId) (k : SlotId) (sc : BitVec 2) (s : State) : Out :=
  let c := s.ctl d k
  let ready (v : BitVec 2 × Nat × Vector W32 6) : Bool :=
    (v.1 == sc || sc == 0 && v.1 == 3) &&
    (if v.1 == 0 then v.2.1 == 0 else if v.1 == 3 then (s.slot d k).doneUpTo v.2.2 else v.2.1 == 0 && relMet (s.die d) k v.1.toNat v.2.2 [])
  match c.arvs.find? ready, c.own with
  | some v, some w =>
    let s := s.modCtl d k fun c => { c with arvs := c.arvs.erase v }
    .next (s.modSched d fun q => q.modBlk w.lid w.blk fun b => b.modRec w.sidx fun r =>
      if v.1 = 0 then { r with arvS := r.arvS + 1 } else if v.1 = 3 then { r with arvE := r.arvE + 1 }
      else if v.1 = 1 then { r with arvC := r.arvC + 1 } else { r with arvD := r.arvD + 1 })
  | _, _ => .next s

end Sys2Proof.Machine
end

