-- ==== Sys2Proof/Machine/Num.lean ====
section
/-! DEFINITION. Numbers: the exact value of an element (R59 to R62, R66, R67, R69), rounding with its flags (R71 to R75), exact arithmetic, quantisation (R80), the column sum of a band (R77), and the elementary functions (R228). -/

namespace Sys2Proof.Machine

/-! ## Exact values -/

/-- A value: not a number, an infinity, or the dyadic number (-1)^neg × m × 2^e. Zeros keep their sign. -/
inductive Val where
  | nan
  | inf (neg : Bool)
  | fin (neg : Bool) (m : Nat) (e : Int)
  deriving DecidableEq, Repr

def Val.zero (neg : Bool) : Val := .fin neg 0 0
def Val.ofInt (v : Int) : Val := .fin (decide (v < 0)) v.natAbs 0
def Val.neg : Val → Val
  | .nan => .nan
  | .inf s => .inf (!s)
  | .fin s m e => .fin (!s) m e
def Val.abs : Val → Val
  | .nan => .nan
  | .inf _ => .inf false
  | .fin _ m e => .fin false m e
def Val.isNan : Val → Bool | .nan => true | _ => false
def Val.isInf : Val → Bool | .inf _ => true | _ => false
def Val.isZero : Val → Bool | .fin _ 0 _ => true | _ => false
def Val.sign : Val → Bool | .nan => false | .inf s => s | .fin s _ _ => s

/-- The flags of R75. -/
abbrev Flg := BitVec 7

/-! ## Floating-point formats (R59, R66) -/

/-- A floating-point format: bits, precision with the hidden bit, exponent of the smallest subnormal, code of the largest finite, the codes of infinity and NaN where it has them. -/
structure FpFmt where
  w : Nat
  p : Nat
  qmin : Int
  maxc : Nat
  infc : Option Nat
  nanc : Option Nat
  deriving DecidableEq, Repr

def fpFP32 : FpFmt := ⟨32, 24, -149, 0x7F7FFFFF, some 0x7F800000, some 0x7FC00000⟩
def fpBF16 : FpFmt := ⟨16, 8, -133, 0x7F7F, some 0x7F80, some 0x7FC0⟩
def fpFP16 : FpFmt := ⟨16, 11, -24, 0x7BFF, some 0x7C00, some 0x7E00⟩
def fpE4M3 : FpFmt := ⟨8, 4, -9, 0x7E, none, some 0x7F⟩
def fpE5M2 : FpFmt := ⟨8, 3, -16, 0x7B, some 0x7C, some 0x7E⟩
def fpE2M1 : FpFmt := ⟨4, 2, -1, 7, none, none⟩
def fpS24 : FpFmt := ⟨24, 16, -141, 0x7F7FFF, some 0x7F8000, some 0x7FC000⟩

/-- The floating-point format of a code (R64). -/
def fpOf (t : Tag) : Option FpFmt :=
  match fcode t with
  | 1 => some fpFP32
  | 2 => some fpBF16
  | 3 => some fpFP16
  | 4 => some fpE4M3
  | 5 => some fpE5M2
  | 6 => some fpE2M1
  | _ => none

/-- The value of a code of a floating-point format (R59, R61). -/
def FpFmt.decode (f : FpFmt) (c : Nat) : Val :=
  let half := 2 ^ (f.w - 1)
  let s := decide (half ≤ c % 2 ^ f.w)
  let mag := c % half
  if mag ≤ f.maxc then
    let e := mag / 2 ^ (f.p - 1)
    let m := mag % 2 ^ (f.p - 1)
    if e = 0 then .fin s m f.qmin else .fin s (m + 2 ^ (f.p - 1)) (f.qmin + e - 1)
  else if f.infc = some mag then .inf s
  else .nan

/-- The signed value of the low `w` bits. -/
def sInt (w c : Nat) : Int := if 2 ^ (w - 1) ≤ c % 2 ^ w then (c % 2 ^ w : Int) - 2 ^ w else (c % 2 ^ w : Int)

/-- Decode of R82, for every format but CB2; a RAW element is its byte. -/
def decodeElem (t : Tag) (c : Nat) : Val :=
  match fpOf t with
  | some f => f.decode c
  | none => if fmtINT (t &&& 15#5) then .ofInt (sInt (fwidth t) c) else .fin false (c % 2 ^ fwidth t) 0

/-- CanonNaN of R82. -/
def canonNan (t : Tag) : Nat := match fpOf t with | some f => f.nanc.getD 0 | none => 0

/-- The product of R67 and R77: exact; 0 × ∞ is NaN. -/
def Val.mul : Val → Val → Val
  | .nan, _ | _, .nan => .nan
  | .inf s, .inf t => .inf (s != t)
  | .inf s, .fin t m _ | .fin t m _, .inf s => if m = 0 then .nan else .inf (s != t)
  | .fin s m e, .fin t n g => .fin (s != t) (m * n) (e + g)

/-! ## Rows of elements (R63, R68) -/

/-- Element `i` of `w` bits in a row taken as one number. -/
def rowElem (w row i : Nat) : Nat := row / 2 ^ (w * i) % 2 ^ w
/-- Codes packed in ascending order. -/
def packElems (w : Nat) (l : List Nat) : Nat := l.foldr (fun c r => c % 2 ^ w + 2 ^ w * r) 0
/-- A 512-byte row of codes. -/
def rowOf (t : Tag) (l : List Nat) : List Byte := natLe 512 (packElems (fwidth t) l)

/-- Scale `j` of a row's scale bytes (R68). -/
def scaleAt (side : Nat) (j : Nat) : Val := fpS24.decode (rowElem 24 side j)

/-- A value times its scale: a non-finite scale makes it NaN (R67). -/
def scaled (v sc : Val) : Val := match sc with | .fin _ _ _ => v.mul sc | _ => .nan

/-- Value of R82 for a format other than CB2. -/
def valueAt (t : Tag) (row side i : Nat) : Val :=
  let v := decodeElem t (rowElem (fwidth t) row i)
  if fscaled t then scaled v (scaleAt side (i / 32)) else v

/-- Weight k of a CB2 index, with the 768-byte table as one number (R69, R70). -/
def cb2Weight (table idx k : Nat) : Val :=
  let e := idx / 256 % 256
  let par := (List.range 7).foldl (fun b i => b != decide (idx / 2 ^ (i + 1) % 2 = 1)) false
  let s := if k = 7 then par else decide (idx / 2 ^ (k + 1) % 2 = 1)
  let m := rowElem 24 table e / 2 ^ (3 * k) % 8
  .fin s (2 * m + idx % 2) (-2)

/-! ## Rounding (R71 to R74) -/

/-- The quotient n / d × 2^e cut at a multiple of 2^q: multiple, and the remainder as a fraction r / c. -/
def cut (n d : Nat) (e q : Int) : Nat × Nat × Nat :=
  let sh := e - q
  let n' := if 0 ≤ sh then n * 2 ^ sh.toNat else n
  let d' := if 0 ≤ sh then d else d * 2 ^ (-sh).toNat
  (n' / d', n' % d', d')

/-- Floor of the binary logarithm of n / d × 2^e, for n > 0. -/
def lead (n d : Nat) (e : Int) : Int :=
  let k : Int := (n.log2 : Int) - (d.log2 : Int)
  let ge : Bool := if 0 ≤ k then decide (d * 2 ^ k.toNat ≤ n) else decide (d ≤ n * 2 ^ (-k).toNat)
  (if ge then k else k - 1) + e

/-- Does the magnitude step up by one unit? `m`: mode; `t` even or odd; remainder r / c; `draw` of R73. -/
def stepsUp (m : BitVec 3) (neg : Bool) (t r c : Nat) (draw : W32) : Bool :=
  if r = 0 then false
  else match m.toNat with
  | 0 => decide (c < 2 * r) || (decide (2 * r = c) && t % 2 == 1)
  | 1 => false
  | 2 => !neg
  | 3 => neg
  | _ => decide (2 ^ 32 ≤ r * 2 ^ 32 / c + draw.toNat)

/-- A finite magnitude n / d × 2^e rounded to a floating-point format, and its flags (R72, R75). -/
def roundFp (f : FpFmt) (m : BitVec 3) (sat neg : Bool) (draw : W32) (n d : Nat) (e : Int) : Nat × Flg :=
  let sb := if neg then 2 ^ (f.w - 1) else 0
  if n = 0 then (sb, 0)
  else
    let ld := lead n d e
    let q := max (ld - (f.p - 1 : Nat)) f.qmin
    let x := cut n d e q
    let t := if stepsUp m neg x.1 x.2.1 x.2.2 draw then x.1 + 1 else x.1
    let mag := (q - f.qmin).toNat * 2 ^ (f.p - 1) + t
    let nx := x.2.1 != 0
    let fl : Flg := (if nx then fNX else 0) ||| (if nx && decide (ld < f.qmin + (f.p - 1 : Nat)) then fUF else 0)
    if mag ≤ f.maxc then (sb + mag, fl)
    else
      let away := m == 0 || m == 4 || (m == 2 && !neg) || (m == 3 && neg)
      let ovf : Nat := if sat || !away || f.nanc.isNone then sb + f.maxc else match f.infc with | some i => sb + i | none => f.nanc.getD 0
      (ovf, fl ||| fOF ||| fNX)

/-- A value rounded to an integer format (R74). -/
def roundInt (w : Nat) (m : BitVec 3) (draw : W32) (neg : Bool) (n d : Nat) (e : Int) : Nat × Flg :=
  let x := cut n d e 0
  let t := if stepsUp m neg x.1 x.2.1 x.2.2 draw then x.1 + 1 else x.1
  let lim := if neg then 2 ^ (w - 1) else 2 ^ (w - 1) - 1
  let fl : Flg := if x.2.1 != 0 then fNX else 0
  let put (t : Nat) : Nat := if neg then (2 ^ w - t) % 2 ^ w else t
  if t ≤ lim then (put t, fl) else (put lim, fl ||| fNV)

/-- Round of R82 for n / d × 2^e with a sign. -/
def roundQ (t : Tag) (m : BitVec 3) (sat neg : Bool) (draw : W32) (n d : Nat) (e : Int) : Nat × Flg :=
  match fpOf t with
  | some f => roundFp f m sat neg draw n d e
  | none => if fmtINT t then roundInt (fwidth t) m draw neg n d e else (if n = 0 then 0 else 1, 0)

/-- Round of R82: bits and flags. BIT takes 1 for any value but a zero (R237). -/
def roundVal (t : Tag) (m : BitVec 3) (sat : Bool) (draw : W32) (v : Val) : Nat × Flg :=
  match v with
  | .fin s n e => roundQ t m sat s draw n 1 e
  | .nan =>
    match fpOf t with
    | some f => match f.nanc with | some c => (c, 0) | none => (0, fNFL)
    | none => if fmtINT t then (0, fNV) else (1, 0)
  | .inf s =>
    match fpOf t with
    | some f =>
      let sb := if s then 2 ^ (f.w - 1) else 0
      match f.infc with
      | some c => (sb + c, 0)
      | none => (if sat || f.nanc.isNone then sb + f.maxc else f.nanc.getD 0, fNFL)
    | none => if fmtINT t then (if s then 2 ^ (fwidth t - 1) else 2 ^ (fwidth t - 1) - 1, fNV) else (1, 0)

/-- FP32 with RNE and no flag (R77, R58). -/
def toFp32 (v : Val) : W32 := BitVec.ofNat 32 (roundVal tFP32 0 false 0 v).1
def ofFp32 (w : W32) : Val := fpFP32.decode w.toNat

/-! ## Exact sums and comparisons (R226, R227, R229, R231) -/

/-- m × 2^(e - g) as an integer with its sign, for g ≤ e. -/
def scaledInt (s : Bool) (m : Nat) (e g : Int) : Int := if s then -((m * 2 ^ (e - g).toNat : Nat) : Int) else ((m * 2 ^ (e - g).toNat : Nat) : Int)

/-- The exact sum of addends and its flag; `rdn`: the mode is RDN. -/
def sumVals (rdn : Bool) (l : List Val) : Val × Flg :=
  if l.any Val.isNan then (.nan, 0)
  else if l.contains (.inf false) && l.contains (.inf true) then (.nan, fNV)
  else if l.contains (.inf false) then (.inf false, 0)
  else if l.contains (.inf true) then (.inf true, 0)
  else
    let g : Int := l.foldl (fun g v => match v with | .fin _ m e => if m = 0 then g else min g e | _ => g) 0
    let t : Int := l.foldl (fun t v => match v with | .fin s m e => if m = 0 then t else t + scaledInt s m e g | _ => t) 0
    if t = 0 then (.zero (rdn || l.all Val.sign), 0) else (.fin (decide (t < 0)) t.natAbs g, 0)

def zeroTimesInf (a b : Val) : Bool := (a.isZero && b.isInf) || (b.isZero && a.isInf)

/-- `add`, `sub`, `mul` and `fma` in FP. -/
def fpAdd (m : BitVec 3) (a b : Val) : Val × Flg := sumVals (m == 3) [a, b]
def fpMul (a b : Val) : Val × Flg := (a.mul b, if zeroTimesInf a b then fNV else 0)
def fpFma (m : BitVec 3) (a b c : Val) : Val × Flg :=
  let r := sumVals (m == 3) [a.mul b, c]
  (r.1, if zeroTimesInf a b then fNV else r.2)

/-- a < b for values that are not NaN; zeros are equal. -/
def Val.lt (a b : Val) : Bool :=
  match a, b with
  | .inf s, .inf t => s && !t
  | .inf s, .fin .. => s
  | .fin .., .inf t => !t
  | .fin s m e, .fin t n g => let k := min e g; decide (scaledInt s m e k < scaledInt t n g k)
  | _, _ => false
def Val.eqv (a b : Val) : Bool := !a.lt b && !b.lt a

/-- `min` and `max` (R227). -/
def Val.min (a b : Val) : Val :=
  if a.isNan || b.isNan then .nan
  else if a.isZero && b.isZero then .zero (a.sign || b.sign)
  else if b.lt a then b else a
def Val.max (a b : Val) : Val :=
  if a.isNan || b.isNan then .nan
  else if a.isZero && b.isZero then .zero (a.sign && b.sign)
  else if a.lt b then b else a

/-- The conditions of R229. -/
def cmpCond (c : Nat) (a b : Val) : Bool :=
  if a.isNan || b.isNan then c == 1 || c == 6
  else match c with
  | 0 => a.eqv b
  | 1 => !a.eqv b
  | 2 => a.lt b
  | 3 => !b.lt a
  | 4 => b.lt a
  | 5 => !a.lt b
  | _ => false

/-- An integer kept in w bits: wrapped, or clamped (R74). -/
def fitInt (w : Nat) (sat : Bool) (v : Int) : Nat :=
  let v := if sat then Max.max (-(2 ^ (w - 1) : Int)) (Min.min v (2 ^ (w - 1) - 1)) else v
  (v % (2 ^ w : Int)).toNat

/-! ## Conversion and quantisation (R80, R237, R239) -/

/-- One element of `cvt`. -/
def convert (src dst : Tag) (m : BitVec 3) (sat : Bool) (draw : W32) (c : Nat) : Nat × Flg :=
  if fmtINT src && fmtINT dst then (fitInt (fwidth dst) sat (sInt (fwidth src) c), 0)
  else roundVal dst m sat draw (decodeElem src c)

/-- ToS24 (R82): the least S24 at or above n / d × 2^e. -/
def toS24 (n d : Nat) (e : Int) : Nat := (roundFp fpS24 2 false false 0 n d e).1

def qMax (t : Tag) : Nat := match fcode t with | 4 => 448 | 5 => 57344 | 6 => 6 | _ => 127

/-- x / S for a scale S, rounded with RNE and saturation. -/
def quantElem (t : Tag) (s : Nat) (v : Val) : Nat × Flg :=
  match v, fpS24.decode s with
  | .fin sg m e, .fin _ n g => roundQ (t &&& 15#5) 0 true sg 0 m n (e - g)
  | _, _ => (0, 0)

/-- QuantBlock (R80): scale, codes, flags. -/
def quantBlock (t : Tag) (xs : List Val) : Nat × List Nat × Flg :=
  if xs.any fun v => v.isNan || v.isInf then (0x7FC000, xs.map fun _ => 0, fQNF)
  else
    match xs.foldl (fun (a v : Val) => a.max v.abs) (Val.zero false) with
    | .fin _ m e =>
      if m = 0 then (0, xs.map fun _ => 0, 0)
      else
        let s := toS24 m (qMax t) e
        let ys := xs.map (quantElem t s)
        (s, ys.map (·.1), ys.foldl (fun f y => f ||| y.2) 0)
    | _ => (0, xs.map fun _ => 0, 0)

/-! ## Semirings (R58, R77, R79) -/

/-- BandSum of R77. -/
def bandSum (pin : W32) (t : List Val) : W32 :=
  let l := ofFp32 pin :: t
  if l.any Val.isNan then 0x7FC00000
  else if l.contains (.inf false) && l.contains (.inf true) then 0x7FC00000
  else if l.contains (.inf false) then 0x7F800000
  else if l.contains (.inf true) then 0xFF800000
  else
    let es := l.filterMap fun v => match v with | .fin _ m e => if m = 0 then none else some ((m.log2 : Int) + e) | _ => none
    match es with
    | [] => 0
    | e0 :: r =>
      let q := r.foldl Max.max e0 - 60
      let sum : Int := l.foldl (fun a v => match v with
        | .fin s m e => let k := (cut m 1 e q).1; if s then a - k else a + k
        | _ => a) 0
      toFp32 (.fin (decide (sum < 0)) sum.natAbs q)

/-- The identity of ⊕. -/
def Semi.ident : Semi → W32
  | .plusTimes | .maxTimes | .orAnd => 0
  | .minPlus => 0x7F800000
  | .maxPlus => 0xFF800000

/-- ⊕ of two FP32 words by `min` or `max`; exact, NaN canonical. -/
def oplusFp (mx : Bool) (a b : W32) : W32 := toFp32 (if mx then (ofFp32 a).max (ofFp32 b) else (ofFp32 a).min (ofFp32 b))

/-- A band of a floating-point semiring other than plus-times: each ⊗ rounded once to FP32. -/
def bandOther (sm : Semi) (pin : W32) (ts : List (Val × Val)) : W32 :=
  ts.foldl (fun p t =>
    match sm with
    | .minPlus => oplusFp false p (toFp32 (fpAdd 0 t.1 t.2).1)
    | .maxPlus => oplusFp true p (toFp32 (fpAdd 0 t.1 t.2).1)
    | _ => oplusFp true p (toFp32 (t.1.mul t.2))) pin

/-- The addition into an accumulator element (R77, R79, R58). -/
def accAdd (sm : Semi) (int : Bool) (a p : W32) : W32 :=
  match sm with
  | .plusTimes => if int then a + p else toFp32 (fpAdd 0 (ofFp32 a) (ofFp32 p)).1
  | .minPlus => oplusFp false a p
  | .maxPlus | .maxTimes => oplusFp true a p
  | .orAnd => (a ||| p) &&& 1

/-! ## Elementary functions (R228)

Each value is exact where it is rational, and otherwise a 704-bit approximation with a bit below it that says it is not exact. Log entry 9. -/

/-- Bits after the point of an approximation. -/
abbrev funBits : Nat := 704

/-- Integer square root, one bit at a time from bit k down. -/
def isqrtAux (n : Nat) : Nat → Nat → Nat
  | 0, r => r
  | k + 1, r => let c := r + 2 ^ k; isqrtAux n k (if c * c ≤ n then c else r)
def isqrt (n : Nat) : Nat := isqrtAux n (n.log2 / 2 + 1) 0

/-- Sum of z^(2k+1) / (2k+1) over 256 terms, for z = zn / 2^funBits: the inverse hyperbolic tangent. -/
def atanhSum (z : Nat) : Nat :=
  let z2 := z * z / 2 ^ funBits
  ((List.range 256).foldl (fun (acc : Nat × Nat) k => (acc.1 + acc.2 / (2 * k + 1), acc.2 * z2 / 2 ^ funBits)) (0, z)).1
/-- ln 2, as 2 atanh(1/3). -/
def ln2 : Nat := 2 * atanhSum (2 ^ funBits / 3)
/-- ln of n / d in [1, 2], by 2 atanh((x - 1) / (x + 1)). -/
def lnUnit (n d : Nat) : Nat := 2 * atanhSum ((n - d) * 2 ^ funBits / (n + d))
/-- 2^r for r = x / 2^funBits in [0, 1): the exponential series of x ln 2. -/
def exp2Unit (x : Nat) : Nat :=
  let y := x * ln2 / 2 ^ funBits
  ((List.range 160).foldl (fun (acc : Nat × Nat) k => (acc.1 + acc.2, acc.2 * y / 2 ^ funBits / (k + 1))) (0, 2 ^ funBits)).1

/-- An inexact approximation a / 2^funBits × 2^e: half a unit marks it inexact. -/
abbrev roundApprox (t : Tag) (m : BitVec 3) (sat neg : Bool) (draw : W32) (a : Nat) (e : Int) : Nat × Flg :=
  roundQ t m sat neg draw (2 * a + 1) (2 ^ (funBits + 1)) e

/-- The number m × 2^e times 2^funBits, cut. -/
def fixOf (m : Nat) (e : Int) : Nat := (cut m 1 e (-(funBits : Int))).1

def nanOut (t : Tag) (f : Flg) : Nat × Flg := (canonNan t, f)

/-- `exp2` of a finite nonzero value. -/
def fnExp2 (t : Tag) (m : BitVec 3) (sat : Bool) (draw : W32) (neg : Bool) (n : Nat) (e : Int) : Nat × Flg :=
  if 10 < lead n 1 e then roundQ t m sat false draw 1 1 (if neg then -2000 else 2000)
  else
    let x := cut n 1 e 0
    if x.2.1 = 0 then roundQ t m sat false draw 1 1 (if neg then -(x.1 : Int) else x.1)
    else
      let fr := fixOf n e % 2 ^ funBits
      if neg then roundApprox t m sat false draw (exp2Unit (2 ^ funBits - fr)) (-(x.1 : Int) - 1)
      else roundApprox t m sat false draw (exp2Unit fr) x.1

/-- `log2` of a positive value. -/
def fnLog2 (t : Tag) (m : BitVec 3) (sat : Bool) (draw : W32) (n : Nat) (e : Int) : Nat × Flg :=
  let k := n.log2
  let ex : Int := e + k
  if n = 2 ^ k then roundQ t m sat (decide (ex < 0)) draw ex.natAbs 1 0
  else
    let fr := lnUnit n (2 ^ k) * 2 ^ funBits / ln2
    if 0 ≤ ex then roundApprox t m sat false draw (ex.toNat * 2 ^ funBits + fr) 0
    else roundApprox t m sat true draw (ex.natAbs * 2 ^ funBits - fr - 1) 0

/-- `rsq` of a positive value: the root of 2^(2b) / value, cut, with a bit below for what is lost. -/
def fnRsq (t : Tag) (m : BitVec 3) (sat : Bool) (draw : W32) (n : Nat) (e : Int) : Nat × Flg :=
  let n' := if e % 2 = 0 then n else 2 * n
  let e' := if e % 2 = 0 then e else e - 1
  let b := funBits
  let q := 2 ^ (2 * b) / n'
  let r := isqrt q
  let ex := decide (r * r = q) && decide (2 ^ (2 * b) % n' = 0)
  roundQ t m sat false draw (if ex then 2 * r else 2 * r + 1) (2 ^ (b + 1)) (-(e' / 2))

/-- `tanh` of a finite nonzero value. -/
def fnTanh (t : Tag) (m : BitVec 3) (sat : Bool) (draw : W32) (neg : Bool) (n : Nat) (e : Int) : Nat × Flg :=
  let one := 2 ^ funBits
  if 7 < lead n 1 e then roundApprox t m sat neg draw (one - 2) 0
  else
    let y := 2 * fixOf n e * one / ln2
    let k := y / one
    let ex := exp2Unit (y % one) * 2 ^ k
    roundApprox t m sat neg draw ((ex - one) * one / (ex + one)) 0

/-- `exp2`, `log2`, `rcp`, `rsq`, `tanh`, in this order, with the special operands of R228. -/
def elemFn (fn : Nat) (t : Tag) (m : BitVec 3) (sat : Bool) (draw : W32) (v : Val) : Nat × Flg :=
  let rv (v : Val) (f : Flg) : Nat × Flg := let r := roundVal t m sat draw v; (r.1, r.2 ||| f)
  let one (s : Bool) : Val := .fin s 1 0
  match v with
  | .nan => nanOut t 0
  | .inf s =>
    match fn, s with
    | 0, false => rv (.inf false) 0
    | 0, true => rv (.zero false) 0
    | 1, false => rv (.inf false) 0
    | 1, true => nanOut t fNV
    | 2, s => rv (.zero s) 0
    | 3, false => rv (.zero false) 0
    | 3, true => nanOut t fNV
    | _, s => rv (one s) 0
  | .fin s n e =>
    if n = 0 then
      match fn with
      | 0 => rv (one false) 0
      | 1 => rv (.inf true) fDZ
      | 2 => rv (.inf s) fDZ
      | 3 => rv (.inf s) fDZ
      | _ => rv (.zero s) 0
    else match fn with
      | 0 => fnExp2 t m sat draw s n e
      | 1 => if s then nanOut t fNV else fnLog2 t m sat draw n e
      | 2 => roundQ t m sat s draw 1 n (-e)
      | 3 => if s then nanOut t fNV else fnRsq t m sat draw n e
      | _ => fnTanh t m sat draw s n e

end Sys2Proof.Machine
end

