-- ==== Sys2Proof/Machine/Engine.lean ====
section
/-! DEFINITION. What all engines share: entries (R134, R185, R186), the body loop (R132), tile rows, ports, result queues and accumulator banks as operands (R43, R63, R65, R81, R102, R103, R142, R170, R209, R215, R216, R223, R388). -/

namespace Sys2Proof.Machine

/-! ## The run of an entry -/

/-- A parameter e0 to e7 by its field. -/
def Run.par (r : Run) (f : BitVec 5) : Word := vget r.ent.e ⟨f.toNat % 8, Nat.mod_lt _ (by decide)⟩
def Run.parN (r : Run) (n : Nat) : Word := vget r.ent.e ⟨n % 8, Nat.mod_lt _ (by decide)⟩

/-- The place of the current instruction, as its accesses carry it (R402). -/
def Run.wordAt (r : Run) : Word := match r.code[r.pos]? with | some x => r.blk + BitVec.ofNat 64 (2 * x.1) | none => 0
def Run.place (r : Run) (unit : Nat) : Nat := packPlace r.blk r.wordAt unit + 2 ^ 192 * r.slot.val
/-- The place of an instruction of the run that a cursor names: in a collective context, with the context. -/
def Run.placeIn (r : Run) (c : Cur) (unit : Nat) : Nat :=
  r.place unit + match c.ag, c.ctx? with | .coll, some x => 2 ^ 196 * (x.val + 1) | _, _ => 0

/-- The instruction is done: the body loop of R132 goes on. -/
def Run.adv (r : Run) (na : BitVec 2) : Run :=
  let nxt := r.pos + 1
  let last := decide (r.code.length ≤ nxt)
  let r := { r with started := false, unit := 0, part := 0, rcpy := none, bc := none, buf := [], red := [], src := 0 }
  if na = 1 then { r with pos := r.code.length }
  else if na = 2 || last then
    if r.iter + 1 < r.count then { r with iter := r.iter + 1, pos := 0 }
    else if last then { r with iter := r.iter + 1, pos := r.code.length }
    else { r with iter := r.iter + 1, pos := nxt }
  else { r with pos := nxt }

def State.setRun (s : State) (c : Cur) (r : Run) : State := s.modDie c.die fun d => d.setCurRun c (some r)
def State.setRun? (s : State) (c : Cur) (r : Option Run) : State := s.modDie c.die fun d => d.setCurRun c r
def State.run (s : State) (c : Cur) : Option Run := (s.die c.die).curRun c

/-- An engine word in the current run. -/
def engDo (f : State → Cur → Run → State) (s : State) : Out :=
  match s.run s.cur with
  | some r => .next (f s s.cur r)
  | none => .next s

/-- Transfers and reads of an instruction that has ended are none. -/
def State.advRun (s : State) (c : Cur) (r : Run) (na : BitVec 2) : State := s.setRun c (r.adv na)

/-! ## Checking an entry's block (R129 to R134, R149) -/

/-- `NA` of an engine word. -/
def engNa : Instr → BitVec 2
  | .ldr o | .ldt o | .ldrec o | .ldx o | .ldsc o | .pcfg o | .pfx o | .ldv o | .str o | .stt o | .strec o | .stx o | .stsc o | .stv o | .publ o => o.na
  | .areAdd o | .areSub o | .areMul o | .fma o | .areMin o | .areMax o | .abs o | .neg o | .exp2 o | .log2 o | .rcp o | .rsq o | .tanh o | .areCmp o | .sel o => o.na
  | .redSum o | .redMax o | .redMin o | .redSsq o | .redAmax o | .redqSum o | .redqMax o | .redqMin o | .redqSsq o | .redqAmax o => o.na
  | .bcastRow o | .bcastElem o | .bcastScal o | .iota o | .trn o | .shufPerm o | .shufRot o | .shufRev o | .cvt o | .qnt o | .dqt o => o.na
  | .areAnd o | .areOr o | .areXor o | .not o | .shl o | .shr o | .areSra o | .mov o => o.na
  | .mldb o | .mcb o | .msemi o | .mmul o | .mmulm o | .mzero o | .mdrain o => o.na
  | .copy o | .copy2d o | .fill o | .rwrite o | .mcast o | .ksend o | .krecv o | .kwid o | .kadd o | .kreq o | .krel o | .kbar o | .kabs o | .kframe o => o.na
  | _ => 0

/-- Do the words end exactly at the end of the body? (R130) -/
def wordsFit : List Half → Bool
  | [] => true
  | [h] => !isWide h
  | h :: h2 :: t => if isWide h then wordsFit t else wordsFit (h2 :: t)

/-- The words of an engine body up to the first that fails, with their halfword offset, and the offset of that one; `loop`: a word with `NA` = 2 has come. -/
def engWords (st : Stream) : Nat → Nat → Bool → List Half → List (Nat × Instr) × Option Nat
  | 0, _, _, _ => ([], none)
  | _ + 1, _, _, [] => ([], none)
  | n + 1, pos, loop, hs =>
    match decodeBody st hs with
    | .error _ => ([], some pos)
    | .ok (i, r) =>
      let na := engNa i
      if na == 2 && loop then ([], some pos)
      else
        let q := engWords st n (pos + (hs.length - r.length)) (if na = 2 then true else if na = 1 then false else loop) r
        ((pos, i) :: q.1, q.2)

/-- What the check of an entry's block comes to: a block read whole, with the first of its words that fails. -/
inductive Chk where
  | ok (d : Die) (bad : Option Nat) (code : List (Nat × Instr)) (count rep : Nat)
  | wait (d : Die)
  | fault (d : Die) (code pos : Nat) (addr : Word)

/-- The check of R134: the header and then every word, before the first runs. A block begins at a halfword-aligned address (R129). -/
def checkBlock (dn : DieId) (d : Die) (w : Who) (st : Stream) (blk : Word) (e : Vector Word 8) : Chk :=
  if bitAt blk 0 then .fault d 1 0 0
  else match codeHalves dn d w blk.toNat 2 with
  | .fault d c x => .fault d c 0 (BitVec.ofNat 64 x)
  | .wait d => .wait d
  | .ok d h =>
    match decodeHeader false (listGet 0 h 1 ++ listGet 0 h 0) with
    | .ok (.blockHeader hd) =>
      match codeHalves dn d w blk.toNat (2 + hd.len.toNat) with
      | .fault d c x => .fault d c 0 (BitVec.ofNat 64 x)
      | .wait d => .wait d
      | .ok d hs =>
        let body := hs.drop 2
        let src := listGet 0 body 0
        let srcOk := 2 ≤ hd.len.toNat && src.extractLsb' 0 2 == 0#2 && src.extractLsb' 5 11 == 0#11
        if hd.rep = 0 && !srcOk then .fault d 1 0 0
        else
          let first := if hd.rep = 0 then 1 else 0
          let ws := body.drop first
          if !wordsFit ws then .fault d 1 0 0
          else
            let q := engWords st hd.len.toNat (2 + first) false ws
            let count := if hd.rep = 0 then (vget e ⟨(src.extractLsb' 2 3).toNat % 8, Nat.mod_lt _ (by decide)⟩).toNat else hd.rep.toNat
            .ok d q.2 q.1 count hd.rep.toNat
    | _ => .fault d 1 0 0

def streamOf : Agent → Stream
  | .core _ | .sys _ => .ctl
  | .eng _ .lde => .lde
  | .eng _ .are => .are
  | .eng _ .ste => .ste
  | .eng _ .mxe => .mxe
  | .copy _ => .cpe
  | .coll => .coe

/-- The queue an agent serves (R185). -/
def queueOf : Agent → Fin 6
  | .eng _ .lde => 0
  | .eng _ .are => 1
  | .eng _ .ste => 2
  | .eng _ .mxe => 3
  | .copy _ => 4
  | _ => 5

/-- `part` of a run whose block has not passed the check of R134. -/
abbrev unchecked : Nat := 9

def isFrame : Instr → Bool | .kframe _ => true | _ => false
def isRel : Instr → Bool | .krel _ => true | _ => false
def stepOnly : Instr → Bool | .ksend _ | .krecv _ | .krel _ => true | _ => false

/-- The first word of a step block that R287 forbids: a `kframe`, or a second `krel`. -/
def stepBad : Bool → List (Nat × Instr) → Option Nat
  | _, [] => none
  | rel, x :: r => if isFrame x.2 || (isRel x.2 && rel) then some x.1 else stepBad (rel || isRel x.2) r

/-- The first word, in address order, that fails in a block (R149): one that does not decode, or that R287 forbids in a collective block. A frame block is `kframe` alone with `REP` = 1; context 8 is the direct entry. -/
def firstBad (c : Cur) (bad : Option Nat) (code : List (Nat × Instr)) (rep : Nat) : Option Nat :=
  let own : Option Nat := match c.ag with
    | .coll =>
      if c.ctx = 8 then (code.find? fun x => stepOnly x.2 || (isFrame x.2 && !(bad.isNone && code.length == 1 && rep == 1))).map (·.1)
      else stepBad false code
    | _ => none
  own <|> bad

/-- A run begins: its block is checked, and a failure holds it unchecked (R134, R364). -/
def tryBlock (s : State) (c : Cur) (r : Run) : State :=
  let w := (s.die c.die).whoRun c r
  match checkBlock c.die (s.die c.die) w (streamOf c.ag) r.blk r.ent.e with
  | .ok d bad code count rep =>
    match firstBad c bad code rep with
    | some pos =>
      let s := (s.modDie c.die fun _ => d).setRun c { r with part := unchecked }
      agentFault s c r ⟨2, r.blk, r.blk + BitVec.ofNat 64 (2 * pos), 0, r.ent.seq, 0, 0⟩
    | none =>
    (s.modDie c.die fun _ => d).setRun c
      { r with code := code, count := count, pos := if count = 0 then code.length else 0, part := 0 }
  | .wait d => (s.modDie c.die fun _ => d).setRun c { r with part := unchecked }
  | .fault d code pos addr =>
    let s := (s.modDie c.die fun _ => d).setRun c { r with part := unchecked }
    agentFault s c r ⟨code, r.blk, if pos = 0 then 0 else r.blk + BitVec.ofNat 64 (2 * pos), addr, r.ent.seq, 0, 0⟩

def Run.fresh (e : Entry) (k : SlotId) (t : Word) : Run :=
  { ent := e, slot := k, blk := e.hdr, code := [], pos := 0, iter := 0, count := 0, started := false, unit := 0, part := unchecked, rw := 0, flags := 0
    rcpy := none, copies := [], t0 := t, bc := none, buf := [], src := 0, red := [], mSent := 0, mAck := 0, mNak := [], mAll := 0, mGrp := (0, none) }

/-- May slot `k`'s head entry of queue `q` start for agent number `n`? (R186, R320, R364) -/
def headCan (d : Die) (k : SlotId) (q : Fin 6) (n : Nat) : Option Entry :=
  let t := d.slot k
  match vget t.q q with
  | e :: _ =>
    if hasToks t.toks e.wait && !t.heldBy n && !vget t.stop (stopIx n) && t.ctl.act != .faulted && t.ctl.act != .idle then some e else none
  | [] => none
where
  stopIx (n : Nat) : Fin 7 := ⟨n % 7, Nat.mod_lt _ (by decide)⟩

/-- A frame block's body (R287). -/
def frameCode : List (Nat × Instr) → Bool
  | [(_, .kframe _)] => true
  | _ => false

/-- May a collective entry start? One whose block cannot be read yet has not started, and a frame block needs a free context (R285). -/
def collCan (dn : DieId) (d : Die) (k : SlotId) (e : Entry) : Bool :=
  match checkBlock dn d (d.who .coll k) .coe e.hdr e.e with
  | .wait _ => false
  | .ok _ none code _ _ => !frameCode code || d.coe.ctx.toList.contains none
  | _ => true

/-- The slot whose head entry an agent takes next: its own; the sequencer's in lease order (R31, R43); round robin for copy and collective engines (R185). -/
def nextSlot (dn : DieId) (d : Die) : Agent → Option SlotId
  | .eng k .mxe =>
    match (d.slot k).mord with
    | j :: _ => if (headCan d j 3 4).isSome then some j else none
    | [] => none
  | .eng k e => if (headCan d k (queueOf (.eng k e)) (engNum e)).isSome then some k else none
  | .copy c =>
    let x := vget d.cpe c
    let ks := allSlots.filter fun k => clusterOf k == c
    ((ks.filter fun k => x.rr.val < k.val % 4) ++ (ks.filter fun k => k.val % 4 ≤ x.rr.val)).find? fun k =>
      (headCan d k 4 5).isSome || ((d.slot k).cpeAt.isSome && !(d.slot k).heldBy 5 && !vget (d.slot k).stop 5)
  | .coll =>
    ((allSlots.filter fun k => d.coe.rr.val < k.val) ++ (allSlots.filter fun k => k.val ≤ d.coe.rr.val)).find? fun k =>
      !(d.coe.ctx.toList.any fun x => x.any fun x => x.slot == k && d.ctxBound x) &&
        match (d.slot k).coeAt with
        | some r => !(d.slot k).heldBy 6 && !vget (d.slot k).stop 6 && (!frameCode r.code || d.coe.ctx.toList.contains none)
        | none => match headCan d k 5 6 with | some e => collCan dn d k e | none => false
  | _ => none

/-- The turn of a copy or collective engine passes on; the latter notes whose entry it takes (R321). -/
def Die.turn (d : Die) (a : Agent) (k : SlotId) : Die :=
  match a with
  | .copy c => { d with cpe := vmod d.cpe c fun x => { x with rr := ⟨k.val % 4, Nat.mod_lt _ (by decide)⟩ } }
  | .coll => { d with coe := { d.coe with rr := k, own := (d.slot k).ctl.own } }
  | _ => d

/-- A context at its start: it runs the `kframe` word of its entry (R285). -/
def KCtx.opening (r : Run) (own : Owner) : KCtx :=
  { ent := r.ent, slot := r.slot, own := own, tt0 := 0, tt := 0, next := 0, flog2 := 0, steps := [], t0 := r.t0, grp := 0
    nr := 0, round := 0, frame := 0, base := 0, inFrame := false, step := 0, run := some r, released := false, ofs := 0, cause := 0
    nslip := 0, cnts := .replicate 64 0, gens := [], wait := none, stopped := false, resumed := false, away := false, flags := 0 }

/-- A frame entry whose block has passed its check occupies a free context, and the engine goes on (R285). -/
def frameOut (s : State) (d : DieId) (a : Agent) : State :=
  match a, (s.die d).coe.run with
  | .coll, some r =>
    if r.part == unchecked || !frameCode r.code then s
    else match (List.finRange 8).find? fun x => (vget (s.die d).coe.ctx x).isNone, (s.die d).coe.own <|> (s.ctl d r.slot).own with
    | some x, some w => s.modDie d fun y => { y with coe := { y.coe with run := none, ctx := vset y.coe.ctx x (some (KCtx.opening r w)) } }
    | _, _ => s
  | _, _ => s

/-- A head entry takes its tokens and its block is checked; an entry held by a failed check is checked again once it may go on (R134, R186). -/
def entryStart (s : State) (d : DieId) (a : Agent) : State :=
  let c : Cur := ⟨d, a, 8⟩
  match s.run c with
  | some r => frameOut (if r.part == unchecked && !(s.die d).runHeld c r then tryBlock s c r else s) d a
  | none =>
    match nextSlot d (s.die d) a with
    | none => s
    | some k =>
      match vget (s.slot d k).q (queueOf a), (match a with | .copy _ => (s.slot d k).cpeAt | .coll => (s.slot d k).coeAt | _ => none) with
      | _, some r =>
        let s := s.modSlot d k fun t => match a with | .copy _ => { t with cpeAt := none } | _ => { t with coeAt := none }
        frameOut ((s.modDie d fun y => y.turn a k).setRun c r) d a
      | [], none => s
      | e :: _, none =>
        let s := s.modSlot d k fun t => { t with toks := takeToks t.toks e.wait }
        let s := s.modDie d fun y => y.turn a k
        frameOut (tryBlock s c (Run.fresh e k (s.tick d))) d a

def execEntryStart (d : DieId) (a : Agent) (s : State) : Out := .next (entryStart s d a)

/-- An entry of slot `k` on queue `q` completes: flags merged, counted, removed, its `SIG` channels raised (R76, R186, R369). -/
def completeEntry (s : State) (d : DieId) (k : SlotId) (q : Fin 6) (n : Nat) (e : Entry) (fl : BitVec 7) : State :=
  let g := gainToks (s.slot d k).toks e.sig
  let s := s.modSlot d k fun t => { (t.mergeFlags fl) with q := vmod t.q q (·.drop 1), cseq := vmod t.cseq q (· + 1), toks := g.1 }
  let s := s.modDie d fun y => y.countSlot d k 8 1
  if g.2 then takeFault s d k n ⟨10, e.hdr, 0, 0, e.seq, 0, 0⟩ else s

/-- A request of the run's entry stands refused: the engine does not go on with it until the fault has been raised and answered (R402). -/
def Die.entryRefused (d : Die) (c : Cur) (r : Run) : Bool :=
  (d.ag c.ag).refused.any fun p => p.word != 0 && p.seq == r.ent.seq && placeSlot p.word == r.slot && placeCtx p.word == (match c.ag with | .coll => c.ctx?.map (·.val) | _ => none)
/-- May the entry at a cursor take a step? A fault of its agent, an acknowledged stop or a refused request hold it (R298, R320, R364, R402). -/
def Die.entryGoes (d : Die) (c : Cur) (r : Run) : Bool :=
  !d.entryRefused c r && !d.runHeld c r && match d.ctxOf c, d.dirOwn c with
  | some k, _ => !k.stopped
  | none, some _ => true
  | none, none => !vget (d.slot r.slot).acked (headCan.stopIx (agentNo c.ag))

/-- Nothing of an agent's accesses is under way. -/
def AgentSt.quiet (x : AgentSt) : Bool := x.sb.isEmpty && x.rd.isEmpty && x.asm.isEmpty

/-- The slot of the strand that pushed the entry at a cursor is still its own. A direct collective entry that outlives it completes once the strand is back (R321). -/
def Die.runBound (d : Die) (c : Cur) (r : Run) : Bool := match d.dirOwn c with | some o => d.ownBound o r.slot | none => true

/-- The body of the running entry has ended and its writes have left the store buffer: it completes (R119, R186). -/
def entryComplete (s : State) (d : DieId) (a : Agent) : State :=
  let c : Cur := ⟨d, a, 8⟩
  match s.run c with
  | none => s
  | some r =>
    if r.part == unchecked || r.pos < r.code.length || !(s.ag d a).quiet || (s.die d).runHeld c r || !(s.die d).runBound c r || (s.die d).entryRefused c r then s
    else
      let s := s.setRun? c none
      let s := match a with | .eng k .mxe => s.modSlot d k fun t => { t with mord := t.mord.drop 1 } | _ => s
      completeEntry s d r.slot (queueOf a) (agentNo a) r.ent r.flags

def execEntryComplete (d : DieId) (a : Agent) (s : State) : Out := .next (entryComplete s d a)

/-! ## Tile rows (R65, R68, R81, R209) -/

def tidx (c : BitVec 5) : Fin 16 := ⟨c.toNat % 16, Nat.mod_lt _ (by decide)⟩
def widx (c : BitVec 5) : Fin 8 := ⟨c.toNat % 8, Nat.mod_lt _ (by decide)⟩
def Slot.tile (t : Slot) (c : BitVec 5) : Tile := vget t.tiles (tidx c)
def Slot.modTile (t : Slot) (c : BitVec 5) (f : Tile → Tile) : Slot := { t with tiles := vmod t.tiles (tidx c) f }

def Tile.isFull (t : Tile) (r : Nat) : Bool := t.full.getLsbD r
def Tile.isPsn (t : Tile) (r : Nat) : Bool := t.psn.getLsbD r
def bvPut {n : Nat} (v : BitVec n) (i : Nat) (b : Bool) : BitVec n := if b then v ||| (1#n <<< i) else v &&& ~~~ (1#n <<< i)
def Tile.setEmpty (t : Tile) (r : Nat) : Tile := { t with full := bvPut t.full r false }

/-- The bytes of a row. -/
def Tile.row (t : Tile) (r : Nat) : RowVal := ⟨spRead 0 t.data (512 * r) 512, spRead 0 t.side (192 * r) 192, t.isPsn r⟩

/-- A row written: bytes, scales where `sc`, full, poison. A row of a scaled format whose scales are not written keeps its poison: it is not wholly written (R381). -/
def Tile.put (t : Tile) (r : Nat) (v : RowVal) (sc : Bool) : Tile :=
  { t with
    data := spWrite 0 t.data (512 * r) v.data
    side := if sc then spWrite 0 t.side (192 * r) v.side else t.side
    full := bvPut t.full r true
    psn := bvPut t.psn r (v.psn || (!sc && fscaled t.tag && t.isPsn r)) }

/-- The start of a load or drain into a tile (R209, R262). -/
def Tile.start (t : Tile) (f n : Nat) (tag : Option Tag) : Tile :=
  (List.range n).foldl (fun t i => t.setEmpty (f + i)) { t with tag := tag.getD t.tag }

/-- A row as it is read: the values of a poisoned row are undefined (R81; log entry 3). -/
def State.seen (s : State) (v : RowVal) : State × RowVal :=
  if v.psn then
    let n := s.draws
    ({ s with draws := n + 1 }, ⟨(List.range 512).map (Config.freeByte n), (List.range 192).map fun i => Config.freeByte n (512 + i), true⟩)
  else (s, v)

/-! ## Reading an operand row -/

/-- What reading an operand row comes to. -/
inductive Got (α : Type) where
  | ok (s : State) (v : α)
  | wait
  | fault (s : State) (code : Nat) (addr : Word)

def Got.bind {α β : Type} (g : Got α) (f : State → α → Got β) : Got β :=
  match g with
  | .ok s v => f s v
  | .wait => .wait
  | .fault s c a => .fault s c a

/-- A tile row under its B bit (R170, R223). -/
def tileRow (s : State) (d : DieId) (k : SlotId) (code : BitVec 5) (b : Bool) (row : Nat) : Got RowVal :=
  let t := (s.slot d k).tile code
  if !t.isFull row then (if b then .fault s 4 0 else .wait)
  else let p := s.seen (t.row row); .ok p.1 p.2

/-- The next row of a read port, popped with its pins by the engine for which it was fetched (R102, R103, R107, R388). -/
def portRow (s : State) (d : DieId) (k : SlotId) (e : SlotEng) (code : BitVec 5) (b : Bool) : Got RowVal :=
  match (vget (s.slot d k).ports (widx code)).rows with
  | [] => if b then .fault s 4 0 else .wait
  | x :: rest =>
    if x.by_ != e then .wait else
    let s' := s.modSlot d k fun t => { t with ports := vmod t.ports (widx code) fun p => { p with rows := rest } }
    match x.bad with
    | some (c, a) => .fault s' c (BitVec.ofNat 64 a)
    | none => let p := s'.seen x.row; .ok p.1 p.2

/-- Row `row` of a tile source, or the next row of a port source. -/
def srcRow (s : State) (d : DieId) (k : SlotId) (e : SlotEng) (code : BitVec 5) (b : Bool) (row : Nat) : Got RowVal :=
  if isTile code then tileRow s d k code b row else portRow s d k e code b

/-- A source's tag differs from the format it is checked against: of a tile, or of a configured port (R65, R223). -/
def tagBad (d : Die) (k : SlotId) (code : BitVec 5) (t : Tag) (raw : Bool) : Bool :=
  let x := d.slot k
  !raw && (if isTile code then (x.tile code).tag != t else match (vget x.ports (widx code)).cfg with | some c => c.tag != t | none => false)

/-- A source port that is not configured for reading (R223, R246). -/
def portBad (d : Die) (k : SlotId) (code : BitVec 5) : Bool :=
  !isTile code && match (vget (d.slot k).ports (widx code)).cfg with | some c => c.dir | none => true

/-- The check of one source against a format: its tag is code 5, then its port code 16 (R65, R223, R246). -/
def srcCheck (d : Die) (k : SlotId) (code : BitVec 5) (t : Tag) (raw : Bool) : Option Nat :=
  if tagBad d k code t raw then some 5 else if portBad d k code then some 16 else none

/-- The check of a destination port (R224). -/
def dstCheck (d : Die) (k : SlotId) (code : BitVec 5) (t : Tag) (raw : Bool) : Option Nat :=
  if isTile code then none
  else match (vget (d.slot k).ports (widx code)).cfg with
    | some c => if c.dir && (raw || c.tag == t) then none else some 16
    | none => some 16

/-- The tag of a source operand. -/
def srcTag (d : Die) (k : SlotId) (code : BitVec 5) : Tag :=
  let x := d.slot k
  if isTile code then (x.tile code).tag else match (vget x.ports (widx code)).cfg with | some c => c.tag | none => 0

/-! ## Parts of a transfer -/

/-- A part of a transfer: address, length, offset in the transfer. -/
structure Part where
  va : Nat
  len : Nat
  at_ : Nat
  deriving DecidableEq, Repr

/-- Addresses wrap modulo 2^64. -/
def addrAt (base : Word) (off : Int) : Nat := (((base.toNat : Int) + off) % (2 ^ 64 : Int)).toNat
def plainPart (va len : Nat) : List Part := [⟨va, len, 0⟩]
def rowParts (va len sva : Nat) (sc : Bool) : List Part := ⟨va, len, 0⟩ :: if sc then [⟨sva, 192, 512⟩] else []

/-- A line of a transfer put into ascending order of address. -/
def lineIns (x : Part × Nat × Nat) : List (Part × Nat × Nat) → List (Part × Nat × Nat)
  | [] => [x]
  | y :: r => if x.2.1 < y.2.1 then x :: y :: r else y :: lineIns x r

/-- The lines of a transfer in ascending address (R107, R208), each with the part it belongs to. -/
def partLines (ps : List Part) : List (Part × Nat × Nat) :=
  (ps.flatMap fun p => (cutLines p.va p.len).map fun c => (p, c)).foldr lineIns []

/-- Every line translated and checked, the lowest first: nothing is issued unless all pass, and a failing line is reported by its own address (R91, R208, R387). -/
def accessLines (dn : DieId) (w : Who) (n : Need) : List (Part × Nat × Nat) → Die → XRes (List (Part × Piece))
  | [], d => .ok d []
  | (p, va, len) :: r, d =>
    match access dn d w va len n with
    | .fault d c x => .fault d c (lineVa x)
    | .wait d => .wait d
    | .ok d q => (accessLines dn w n r d).map fun qs => (p, q) :: qs
def accessParts (dn : DieId) (w : Who) (n : Need) (ps : List Part) (d : Die) : XRes (List (Part × Piece)) := accessLines dn w n (partLines ps) d

/-- Where a line's bytes stand in its transfer. -/
def partOff (q : Part × Piece) : Nat := q.1.at_ + (q.2.va - q.1.va)
/-- Bytes laid over a run of bytes. -/
def layOver (l : List Byte) (at_ : Nat) (bs : List Byte) : List Byte := l.take at_ ++ bs ++ l.drop (at_ + bs.length)

/-! ## Ports (R102, R103, R215, R216) -/

/-- The address of the walker's row. -/
def PortCfg.addr (c : PortCfg) (ix : Vector Nat 4) : Nat :=
  let o : Int := (List.finRange 4).foldl (fun a k => a + Int.ofNat (vget ix k) * vget c.str k) 0
  (((c.base : Int) + o) % (2 ^ 64 : Int)).toNat

/-- The walker's next row: level 0 innermost, from the last row back to the first. -/
def PortCfg.next (c : PortCfg) (ix : Vector Nat 4) : Vector Nat 4 :=
  let p := (List.finRange 4).foldl (fun (q : Vector Nat 4 × Bool) k =>
    if q.2 then (if vget q.1 k + 1 < vget c.cnt k then (vset q.1 k (vget q.1 k + 1), false) else (vset q.1 k 0, true)) else q) (ix, true)
  p.1

/-- The vault lines of a port row, and of its scales where `sc`, in ascending address: every one of `MT` 1 (R102, R107, R208). -/
def portPieces (dn : DieId) (d : Die) (w : Who) (c : PortCfg) (ix : Vector Nat 4) (wr sc : Bool) : XRes (List (Part × Piece)) :=
  let a := c.addr ix
  accessParts dn w ⟨[1], !wr, wr⟩ (rowParts a 512 (((a : Int) + c.sco) % (2 ^ 64 : Int)).toNat sc) d

/-- A local line as a read step of an agent sees it (R108): none where the agent's own store buffer covers a part only or holds a blocking entry. -/
def seePiece (s : State) (d : DieId) (sb : List SbOp) (p : Piece) : Option (List Byte × Bool) :=
  match p.loc with
  | .here pa =>
    let cs := coverOf s sb p
    if !cs.isEmpty && cs.all (·.byte?.isSome) then some (cs.map (fun c => c.byte?.getD 0), cs.any Cov.psn)
    else if cs.all Cov.isNo then some ((s.die d).peek pa p.len, (s.die d).poisoned pa p.len)
    else none
  | _ => none

def linesOfPieces (ps : List Piece) : List Nat := ps.flatMap fun p => match p.loc with | .here pa => linesOf pa p.len | _ => []

/-- The agent that engine `e` of slot `k` reads and writes as: the sequencer is that of the slot's fragment (R43). -/
def engAgent (d : Die) (k : SlotId) (e : SlotEng) : Agent := match e with | .mxe => .eng (d.baseOf k) .mxe | e => .eng k e

/-- The start of a row fetch: its lines translated and pinned; a failing row is kept to be reported at its pop, and nothing is fetched past it (R102, R103, R388). -/
def portBegin (s : State) (d : DieId) (k : SlotId) (w : Fin 8) (e : SlotEng) (c : PortCfg) (ix : Vector Nat 4) : State :=
  let mod (s : State) (f : Port → Port) : State := s.modSlot d k fun t => { t with ports := vmod t.ports w f, pnid := t.pnid + 1 }
  let id := (s.slot d k).pnid
  match portPieces d (s.die d) ((s.die d).who (.eng k e) k) c ix false (fscaled c.tag) with
  | .wait y => s.modDie d fun _ => y
  | .fault y code a => mod (s.modDie d fun _ => y) fun p => { p with rows := p.rows ++ [⟨⟨[], [], false⟩, [], some (code, a), e, id, []⟩] }
  | .ok y qs =>
    let ps := qs.map (·.2)
    mod (s.modDie d fun _ => y) fun p =>
      { p with part := some (qs.map fun q => (partOff q, q.2), ⟨⟨.replicate 512 0, .replicate 192 0, false⟩, linesOfPieces ps, none, e, id, ps.map fun p => (p.va, p.pg)⟩) }

/-- The next line of a row under way is read; with its last the row is complete, and the walker goes on (R102, R116). A row of a port whose format has no scales carries zero scales: what `.raw` reads of it under a scaled `FMT` (DESIGN CHOICE, log entry 139; R65 does not say). -/
def portLine (s : State) (d : DieId) (k : SlotId) (w : Fin 8) (e : SlotEng) (c : PortCfg) (ps : List (Nat × Piece)) (f : Fetched) : State :=
  let mod (s : State) (g : Port → Port) : State := s.modSlot d k fun t => { t with ports := vmod t.ports w g }
  match ps with
  | [] => mod s fun p => { p with part := none, rows := p.rows ++ [f], ix := c.next p.ix }
  | p :: rest =>
    match seePiece s d (s.ag d (engAgent (s.die d) k e)).sb p.2 with
    | none => s
    | some (bs, q) =>
      let all := layOver (f.row.data ++ f.row.side) p.1 bs
      let row : RowVal := ⟨all.take 512, all.drop 512, f.row.psn || q⟩
      mod s fun x => { x with part := some (rest, { f with row := row }) }

/-- The entry that engine `e` runs for slot `k`, while it has not acknowledged a stop: it may still run to its end (R245). -/
def Die.engBusy (d : Die) (k : SlotId) (e : SlotEng) : Bool :=
  match d.run (engAgent d k e) with | some r => r.slot == k && !vget (d.slot k).acked (headCan.stopIx (engNum e)) | none => false

/-- A read port fetches ahead, line by line, for the engine that will pop the row (R102, R107). Rows fetched for another engine are given back first. Nothing is fetched for an engine whose fault is unanswered (R388), nor after a stop but for an entry that runs on (R245). -/
def portRowFetch (s : State) (d : DieId) (k : SlotId) (w : Fin 8) (e : SlotEng) : State :=
  let t := s.slot d k
  let p := vget t.ports w
  match p.cfg with
  | none => s
  | some c =>
    if c.dir || t.heldBy (engNum e) || (vget t.stop (headCan.stopIx (engNum e)) && !(s.die d).engBusy k e) || !(s.die d).gateOk d then s
    else if (p.rows.any fun f => f.by_ != e) || (match p.part with | some x => x.2.by_ != e | none => false) then
      s.modSlot d k fun t => { t with ports := vmod t.ports w Port.release }
    else match p.part with
      | some (ps, f) => portLine s d k w e c ps f
      | none => if 8 ≤ p.rows.length || p.rows.any (·.bad.isSome) then s else portBegin s d k w e c p.ix

def execPortRowFetch (d : DieId) (k : SlotId) (w : Fin 8) (e : SlotEng) (s : State) : Out := .next (portRowFetch s d k w e)

/-- A row pushed to a write port, with its scales where `sc`: a store of the engine that pushes it, in push order (R216, R224). -/
def portPush (s : State) (c : Cur) (r : Run) (code : BitVec 5) (v : RowVal) (sc : Bool) (unit : Nat) : Got Unit :=
  match (vget (s.slot c.die r.slot).ports (widx code)).cfg with
  | none => .fault s 16 0
  | some p =>
    let ix := (vget (s.slot c.die r.slot).ports (widx code)).ix
    match portPieces c.die (s.die c.die) ((s.die c.die).who c.ag r.slot) p ix true sc with
    | .wait _ => .wait
    | .fault y x a => .fault (s.modDie c.die fun _ => y) x (BitVec.ofNat 64 a)
    | .ok y qs =>
      let s := s.modDie c.die fun _ => y
      let ws : List Wr := qs.map fun q => ⟨q.2, slice (padTo 0 512 v.data ++ v.side) (partOff q) q.2.len⟩
      let s := s.modAg c.die c.ag fun x => { x with sb := x.sb ++ [.write ws v.psn (r.place unit) r.ent.seq] }
      .ok (s.modSlot c.die r.slot fun t => { t with ports := vmod t.ports (widx code) fun q => { q with ix := p.next ix } }) ()

/-- A row written to a tile or port destination (R223, R224). -/
def dstPut (s : State) (c : Cur) (r : Run) (code : BitVec 5) (row : Nat) (v : RowVal) (sc : Bool) (unit : Nat) : Got Unit :=
  if isTile code then .ok (s.modSlot c.die r.slot fun t => t.modTile code fun x => x.put row v sc) ()
  else portPush s c r code v sc unit

/-- The destination tile takes its tag at the start (R223). -/
def dstTag (s : State) (c : Cur) (r : Run) (code : BitVec 5) (t : Tag) : State :=
  if isTile code then s.modSlot c.die r.slot fun x => x.modTile code fun y => { y with tag := t } else s

/-! ## Result queues (R119, R190) -/

/-- A value pushed to a result queue: it waits while the queue holds 16, and until the entry's writes have left the store buffer. -/
def rqPush (s : State) (c : Cur) (k : SlotId) (q : Fin 4) (v : Word) (psn : Bool) : Got Unit :=
  if 16 ≤ (vget (s.slot c.die k).rq q).length || !(s.ag c.die c.ag).sb.isEmpty then .wait
  else .ok (s.modSlot c.die k fun t => { t with rq := vmod t.rq q (· ++ [(v, psn)]) }) ()

/-! ## Units -/

/-- A failing unit takes no row and writes none (R364): what it popped and pushed stands as before in `s`, and a fetched row that fails is fetched again (R388). -/
def State.unwind (s s' : State) (c : Cur) (r : Run) : State :=
  (s'.modSlot c.die r.slot fun t => { t with ports := (s.slot c.die r.slot).ports.map fun p => { p with rows := p.rows.filter (·.bad.isNone) } }).modAg
    c.die c.ag fun x => { x with sb := (s.ag c.die c.ag).sb }

/-- One unit of an instruction: on success `f` gives the run afterwards; a wait changes nothing; a failing unit writes nothing (R364). -/
def unitDo (s : State) (c : Cur) (r : Run) (unit : Nat) (g : Got Run) : State :=
  match g with
  | .ok s' r' => s'.setRun c r'
  | .wait => s
  | .fault s' code addr => runFault (s.unwind s' c r) c r code addr unit 0

/-- A failure before any row: unit 0 (R219, R246, R266). -/
def startFault (s : State) (c : Cur) (r : Run) (code : Nat) (addr : Word) : State := runFault s c r code addr 0 0

/-- `nop` in any stream (R128). -/
def execNop (s : State) : Out :=
  match s.cur.ag with
  | .core _ => ctlDo 1 0 (fun s _ _ b => .ok s b) s
  | _ => engDo (fun s c r => s.advRun c r 0) s

/-! ## Accumulator banks (R43) -/

/-- The slot, bank row and bank column of row `r`, column `c` of the fragment based at `b`. -/
def accPlace (b : SlotId) (r c : Nat) : SlotId × Nat × Nat := (mkSlot (2 * (b.val / 2 + r / 128) + (b.val % 2 + c / 512)), r % 128, c % 512)
def Die.accGet (d : Die) (b : SlotId) (r c : Nat) : W32 :=
  let p := accPlace b r c
  spGet (0 : W32) (d.slot p.1).bank.acc (512 * p.2.1 + p.2.2)
def Die.modBank (d : Die) (k : SlotId) (f : Bank → Bank) : Die := d.modSlot k fun t => { t with bank := f t.bank }

/-- Columns from 0 of one accumulator row, across the banks of its sides. -/
def Die.accRow (d : Die) (b : SlotId) (r n : Nat) : List W32 :=
  let lo := accPlace b r 0
  let hi := accPlace b r 512
  spRead 0 (d.slot lo.1).bank.acc (512 * lo.2.1) (min n 512) ++ spRead 0 (d.slot hi.1).bank.acc (512 * hi.2.1) (n - 512)
def Die.putAccRow (d : Die) (b : SlotId) (r : Nat) (vs : List W32) : Die :=
  let lo := accPlace b r 0
  let hi := accPlace b r 512
  let d := d.modBank lo.1 fun k => { k with acc := spWrite 0 k.acc (512 * lo.2.1) (vs.take 512) }
  if vs.length ≤ 512 then d else d.modBank hi.1 fun k => { k with acc := spWrite 0 k.acc (512 * hi.2.1) (vs.drop 512) }
/-- A fragment of two sides, whose accumulator rows lie in two banks (R42, R43). -/
def Die.twoSided (d : Die) (b : SlotId) : Bool := shapeSides (d.layOf b).shape == 2
/-- Poison of an accumulator row, of the part in either bank: an attribute of the whole row (R81). -/
def Die.accPsn (d : Die) (b : SlotId) (r : Nat) : Bool :=
  (d.slot (accPlace b r 0).1).bank.accPsn.getLsbD (r % 128) || (d.twoSided b && (d.slot (accPlace b r 512).1).bank.accPsn.getLsbD (r % 128))
def Die.setAccPsn (d : Die) (b : SlotId) (r : Nat) (v : Bool) : Die :=
  let two := d.twoSided b
  let d := d.modBank (accPlace b r 0).1 fun k => { k with accPsn := bvPut k.accPsn (r % 128) v }
  if !two then d else d.modBank (accPlace b r 512).1 fun k => { k with accPsn := bvPut k.accPsn (r % 128) v }

/-! ## Array storage errors (R386) -/

/-- The record and counters of an uncorrectable array error in a slot's band. For 2 µs after an error at reduced margin, further ones count as at reduced margin and write no record. -/
def Die.arrayError (d : Die) (dn : DieId) (k : SlotId) : Die :=
  let b := bandOf k
  let m := rMARG + 8 * b.val
  let e := rARERR + 8 * b.val
  let uem (d : Die) : Die := d.setRf dn e 32 32 (d.rf dn e 32 32 + 1)
  if d.rf dn m 0 8 != 0 then
    let d := trcRecord dn d 4 [BitVec.ofNat 8 b.val]
    let d := (d.setRf dn m 0 8 0).setRf dn m 18 1 1
    uem { d with bands := vmod d.bands b fun x => { x with drop := some (d.tick dn) } }
  else match (vget d.bands b).drop with
    | some t => if (d.tick dn - t).toNat < 2000 then uem d else d.setRf dn e 0 32 (d.rf dn e 0 32 + 1)
    | none => d.setRf dn e 0 32 (d.rf dn e 0 32 + 1)

/-- The accumulator row of the fragment that lies in row `r` of a slot's bank (R43). -/
def Die.rowIn (d : Die) (k : SlotId) (r : Fin 128) : Nat := 128 * (k.val / 2 - (d.baseOf k).val / 2) + r.val

/-- Is the storage poisoned already? Re-reading it detects nothing new (R381): an accumulator row and a weight column are poisoned as wholes (R81). -/
def Die.arrayBad (d : Die) (k : SlotId) : ArrErr → Bool
  | .ok | .corrected => false
  | .tileRow t r => (vget (d.slot k).tiles t).psn.getLsbD r.val
  | .accRow r => d.accPsn (d.baseOf k) (d.rowIn k r)
  | .column c => allSlots.any fun j => d.baseOf j == d.baseOf k && j.val % 2 == k.val % 2 && (d.slot j).bank.wPsn.getLsbD c.val
  | .table t => vget (d.slot k).bank.cbPsn t
  | .chainRow i => match (d.layOf (d.baseOf k)).buf[i.val]? with | some x => x.psn | none => true

/-- What a read of array SRAM of a slot meets: a corrected error counts, an uncorrectable one poisons its storage in place. `read` says which storage the step reads. -/
def Die.arrayMeet (d : Die) (dn : DieId) (k : SlotId) (e : ArrErr) (read : ArrErr → Bool) : Die :=
  if !read e || d.arrayBad k e then d
  else match e with
  | .ok => d
  | .corrected =>
    let r := rCECNT + 8 * (bandOf k).val
    let m := d.getReg dn (rMARG + 8 * (bandOf k).val)
    let on := bitAt m 16 && !bitAt m 18
    { d.setReg r (d.getReg dn r + 1) with bands := if on then vmod d.bands (bandOf k) fun x => { x with ce := x.ce + 1 } else d.bands }
  | .tileRow t r => (d.modSlot k fun x => { x with tiles := vmod x.tiles t fun y => { y with psn := bvPut y.psn r.val true } }).arrayError dn k
  | .accRow r => (d.setAccPsn (d.baseOf k) (d.rowIn k r) true).arrayError dn k
  | .column c => (d.modBank k fun x => { x with wPsn := bvPut x.wPsn c.val true }).arrayError dn k
  | .table t => (d.modBank k fun x => { x with cbPsn := vset x.cbPsn t true }).arrayError dn k
  | .chainRow i => (d.modLay (d.baseOf k) fun y => { y with buf := y.buf.modify i.val fun x => { x with psn := true } }).arrayError dn k

/-- The row that an instruction reads once, at its start: the index row of `ldx`, `stx` and `shuf.perm` (R213, R235). -/
def indexReads (o : EOp) : ArrErr → Bool
  | .corrected => true
  | .tileRow t row => tidx o.f3 == t && row.val == eFirst o 2
  | _ => false

/-- A step that reads array SRAM of slot `k` meets what the surroundings decide of it, if it is taken: one that waits or fails reads nothing (R386). -/
def withError (s : State) (c : Cur) (k : SlotId) (e : ArrErr) (read : ArrErr → Bool) (f : State → State) : State :=
  let u := f (s.modDie c.die fun y => y.arrayMeet c.die k e read)
  if e == .ok || u.run c != s.run c then u else f s

end Sys2Proof.Machine
end

