-- ==== Sys2Proof/Machine/Gate.lean ====
section
/-! DEFINITION. Between dies: the read and drain steps as events, links (R10, R12), the causal gate (R111 to R113), the tracker with its refusals and tickets (R123), the checks at a home (R97, R402), invalidations (R120, R121), lost dies and rejoins (R404 to R407), held writes (R103). -/

namespace Sys2Proof.Machine

/-! ## An agent's own steps -/

def execReadStep (d : DieId) (a : Agent) (e : StoreErr) (s : State) : Out := .next (readStep s d a e)
def execDrainStep (d : DieId) (a : Agent) (e : StoreErr) (s : State) : Out := .next (drainStep s d a e)

/-! ## Beats -/

/-- A beat on one link (R113). -/
def execBeat (d h : DieId) (s : State) : Out := .next (s.send d h (.beat (vget (s.die d).gate.v d)))

/-! ## The tracker (R123) -/

/-- Entries in use: requests at the head of their queue, and peers' writes held at a vault; a write of the fabric takes none (R124). -/
def Die.tracked (d : Die) (dn : DieId) : Nat := (d.gate.taken.toList.filter id).length + (d.held.filter fun h => h.src != dn && h.fab.isNone).length
/-- Tickets outstanding. -/
def Gate.tickets (g : Gate) : List (DieId × Nat) :=
  allDies.flatMap fun d => (vget g.refd d).filterMap fun x => x.2.map fun t => (d, t)
def Die.trackerFree (d : Die) (dn : DieId) : Bool := d.tracked dn + d.gate.called.length < 512

/-- May the head request of a source take an entry? -/
def Die.admits (d : Die) (dn src : DieId) (m : Msg) : Bool :=
  match vget d.gate.refd src with
  | [] => d.gate.tickets.isEmpty && d.trackerFree dn
  | (m0, t) :: _ => m == m0 && (match t with | some t => d.gate.called.contains t | none => d.gate.tickets.isEmpty && d.trackerFree dn)

/-- The request takes its entry. -/
def Gate.takeEntry (g : Gate) (src : DieId) : Gate :=
  let g := { g with taken := vset g.taken src true }
  match vget g.refd src with
  | [] => g
  | (_, t) :: r => { g with refd := vset g.refd src r, called := match t with | some t => g.called.erase t | none => g.called }

/-- The request is returned; at its second refusal it gets a ticket. -/
def State.trackerRefuse (s : State) (h src : DieId) (m : Msg) : State :=
  let g := (s.die h).gate
  let l := vget g.refd src
  match l.find? fun x => x.1 == m with
  | none =>
    let s := s.modDie h fun y => { y with gate := { y.gate with refd := vset y.gate.refd src (l ++ [(m, none)]) } }
    s.send h src (.trkRefuse m none)
  | some (_, t) =>
    let t' := t.getD g.ticket
    let l' := l.map fun x => if x.1 == m then (m, some t') else x
    let s := s.modDie h fun y => { y with gate := { y.gate with refd := vset y.gate.refd src l', ticket := if t.isSome then g.ticket else g.ticket + 1 } }
    s.send h src (.trkRefuse m (some t'))

/-- An entry is free and tickets are outstanding: the oldest is called. -/
def execTicketCall (h : DieId) (s : State) : Out :=
  let y := s.die h
  let waiting := y.gate.tickets.filter fun t => !y.gate.called.contains t.2
  match minOf (waiting.map (·.2)) with
  | none => .next s
  | some t =>
    if !y.trackerFree h then .next s
    else match waiting.find? fun x => x.2 == t with
    | none => .next s
    | some x => .next ((s.modDie h fun y => { y with gate := { y.gate with called := y.gate.called ++ [t] } }).send h x.1 (.call t))

/-! ## Counts (R111, R112) -/

/-- Stamps of dies other than the source, or of all (for a read), are reached; lost dies count as reached (R405, R407). -/
def Die.stampMet (d : Die) (dn : DieId) (src : Option DieId) (st : Vector Nat 4) : Bool :=
  allDies.all fun k => k == dn || some k == src || d.isLost dn k || (vget d.gate.excused k && some k != src) || decide (vget st k ≤ vget d.gate.g k)

def Gate.raise (g : Gate) (src : DieId) (n : Nat) : Gate := { g with g := vmod g.g src (max n) }
/-- A response's count: applied, or held while requests of its source stand refused (R123). -/
def Gate.respond (g : Gate) (src : DieId) (n : Nat) : Gate :=
  if (vget g.refd src).isEmpty then g.raise src n else { g with owed := vmod g.owed src (max n) }
/-- A request of the source is done: count, merged stamp, and held counts once nothing stands refused. -/
def Gate.done (g : Gate) (dn src : DieId) (n : Nat) (st : Vector Nat 4) : Gate :=
  let g := { g.raise src n with taken := vset g.taken src false }
  let g := { g with v := Vector.ofFn fun k => if k == dn then vget g.v k else max (vget g.v k) (vget st k) }
  if (vget g.refd src).isEmpty then { g.raise src (vget g.owed src) with owed := vset g.owed src 0 } else g

def Gate.popArr (g : Gate) (src : DieId) : Gate := { g with arr := vmod g.arr src (·.drop 1) }

/-! ## The home's checks (R97, R402) -/

/-- The home's checks (R97, R402); `kind`: 0 read, 1 write, 2 atomic; `fab`: from another package. DESIGN CHOICE (log entry 121): the reserved bits of the entry are ignored, and a `BASE` or `LEN` that is no multiple of 64 KiB is used as it stands (R96). -/
def Die.exportAddr (d : Die) (dn : DieId) (idx gen off len : Nat) (kind : Nat) (fab : Bool) : Except Nat Nat :=
  if !bitAt (d.getReg dn rEXPBASE) 0 then .error 7
  else
    let a := (d.getReg dn rEXPBASE &&& bits 47 17).toNat + 32 * idx
    let f := d.peekNat (a + 16) 8
    let base := d.peekNat a 8 % 2 ^ 48
    let ln := d.peekNat (a + 8) 8 % 2 ^ 48
    if f / 65536 % 2 = 0 then .error 1
    else if f % 65536 != gen then .error 2
    else if ln < off + len then .error 3
    else if f / 2 ^ (17 + kind) % 2 = 0 || (fab && f / 2 ^ 20 % 2 = 0) then .error 4
    else .ok (base + off)

/-- Export indices of physical addresses, for R120 step 4. -/
def Die.exported (d : Die) (dn : DieId) (pa : Nat) : Bool :=
  bitAt (d.getReg dn rEXPBASE) 0 && (List.range 4096).any fun i =>
    let a := (d.getReg dn rEXPBASE &&& bits 47 17).toNat + 32 * i
    d.peekNat (a + 16) 8 / 65536 % 2 = 1 && d.peekNat a 8 % 2 ^ 48 ≤ pa / 65536 * 65536 && pa < d.peekNat a 8 % 2 ^ 48 + d.peekNat (a + 8) 8 % 2 ^ 48

/-- The pieces of a peer write at their physical addresses, or the first refusal: cause and index. -/
def exportAll (d : Die) (dn : DieId) : List (Nat × Nat × Nat × List Byte) → Except (Nat × Nat) (List (Nat × List Byte))
  | [] => .ok []
  | (i, g, o, bs) :: r =>
    match d.exportAddr dn i g o bs.length 1 false with
    | .error c => .error (c, i)
    | .ok pa => (exportAll d dn r).map fun l => (pa, bs) :: l

/-- Who sends a request, its key, count and stamp. -/
def Msg.req : Msg → Option (Agent × Nat × Nat × Vector Nat 4)
  | .write a k n st _ _ | .amo a k n st .. | .seminc a k n st .. | .arrive a k n st .. | .read a k n st .. => some (a, k, n, st)
  | _ => none
def Msg.isRead : Msg → Bool | .read .. => true | _ => false

/-- The requests of a source's agent are refused until its marker: the cause of the refusal that began it (R402). -/
def Gate.shut (g : Gate) (src : DieId) (a : Agent) : Option Nat := (g.closed.find? fun x => x.1 == (src, a)).map (·.2)
/-- The same of a sender over the fabric. -/
def Coll.shut (c : Coll) (src : FabSrc) : Option Nat := (c.closed.find? fun x => x.1 == src).map (·.2)

/-- A refusal answers the request (R402 steps 1 and 3). -/
def State.homeRefuse (s : State) (h src : DieId) (a : Agent) (key cause idx : Nat) : State :=
  let s := s.modDie h fun y => { y with gate := { y.gate with closed := if (y.gate.shut src a).isSome then y.gate.closed else y.gate.closed ++ [((src, a), cause)] } }
  s.send h src (.refuse a key (vget (s.die h).gate.v h) cause idx)

/-- A write of another die's agent, or of the fabric, at its home: line by line applied, or held (R103, R116); whether none is held. -/
def State.homeWrite (s : State) (h src : DieId) (a : Agent) (key : Nat) (fab : Option FabSrc) (ws : List (Nat × List Byte)) (psn : Bool) (e : StoreErr) : State × Bool :=
  let y := s.die h
  let late := ws.filter fun w => y.mustHold a src fab (linesOf w.1 w.2.length)
  let now := ws.filter fun w => !y.mustHold a src fab (linesOf w.1 w.2.length)
  let s := s.modDie h fun y => now.foldl (fun y w => y.apply h w.1 w.2 psn e) y
  if late.isEmpty then (s, true)
  else (s.modDie h fun y => y.hold h a src (.write (late.map fun w => ⟨⟨.here w.1, 0, w.2.length, none, .none⟩, w.2⟩) psn 0 0) key fab, false)

/-- A peer's writes at the home. The acknowledgement follows the application. -/
def State.peerWrite (s : State) (h src : DieId) (a : Agent) (key : Nat) (ws : List (Nat × List Byte)) (psn : Bool) (e : StoreErr) : State :=
  let p := s.homeWrite h src a key none ws psn e
  if p.2 then p.1.send h src (.ack a key) else p.1

/-- A peer's atomic at the home, and its reply (R111, R112, R394). -/
def State.peerAmo (s : State) (h src : DieId) (a : Agent) (key pa : Nat) (op : AmoOp) (w64 : Bool) (b x : Word) (e : StoreErr) : State :=
  let s := s.modDie h fun y => y.meet h pa e
  let n := if w64 then 8 else 4
  let g (s : State) : Vector Nat 4 := (s.die h).gate.g
  if (s.die h).poisoned pa n then s.send h src (.reply a key (vget (g s) h) (g s) [] true pa)
  else
    let p := (s.die h).amo pa op w64 b x
    let s := s.modDie h fun _ => p.2
    s.send h src (.reply a key (vget (g s) h) (g s) p.1 false pa)

/-- The answer to a request at an address that the home does not have: a bus error, and nothing is performed (R85; DEDUCED, log entry 122). -/
def State.homeBus (s : State) (h src : DieId) (a : Agent) (key : Nat) : State := s.send h src (.bus a key (vget (s.die h).gate.v h))

/-- A request of an agent whose requests are refused until its marker (R402): the refusal gives the cause that the home's own checks find, or, where these pass, that of the refusal that began it, with the request's own index, 0 for an increment (DESIGN CHOICE, log entry 136). -/
def State.closedRefuse (s : State) (h src : DieId) (a : Agent) (key was : Nat) (c : Option (Nat × Nat)) (idx : Nat) : State :=
  s.homeRefuse h src a key (c.getD (was, idx)).1 (c.getD (was, idx)).2
def errOf {ε α : Type} : Except ε α → Option ε
  | .error e => some e
  | .ok _ => none

/-- A request is performed at its home, after its conditions (R85, R97, R402). -/
def State.perform (s : State) (h src : DieId) (m : Msg) (e : StoreErr) : State :=
  let y := s.die h
  match m with
  | .write a key _ _ ws psn =>
    match y.gate.shut src a with
    | some was => s.closedRefuse h src a key was (errOf (exportAll y h ws)) (match ws with | w :: _ => w.1 | [] => 0)
    | none =>
    match exportAll y h ws with
    | .error c => s.homeRefuse h src a key c.1 c.2
    | .ok l => if l.all fun w => w.2.isEmpty || isMem w.1 w.2.length then s.peerWrite h src a key l psn e else s.homeBus h src a key
  | .amo a key _ _ idx gen off op w64 b x =>
    match y.gate.shut src a with
    | some was => s.closedRefuse h src a key was ((errOf (y.exportAddr h idx gen off (if w64 then 8 else 4) 2 false)).map fun c => (c, idx)) idx
    | none =>
    match y.exportAddr h idx gen off (if w64 then 8 else 4) 2 false with
    | .error c => s.homeRefuse h src a key c idx
    | .ok pa =>
      let n := if w64 then 8 else 4
      if !isMem pa n then s.homeBus h src a key
      else if y.mustHold a src none (linesOf pa n) then s.modDie h fun y => y.hold h a src (.amo ⟨0, ⟨.here pa, 0, n, none, .none⟩, .amo w64, 0, 0⟩ op w64 b x) key none
      else s.peerAmo h src a key pa op w64 b x e
  | .seminc a key _ _ k i =>
    match y.gate.shut src a with
    | some was => s.closedRefuse h src a key was none 0
    | none =>
    if y.behind a src none then s.modDie h fun y => y.hold h a src (.seminc h k i) key none
    else (s.incSem h k i 1).send h src (.ack a key)
  | .arrive a key _ _ grp i =>
    match y.gate.shut src a with
    | some was => s.closedRefuse h src a key was none 0
    | none =>
    if y.behind a src none then s.modDie h fun y => y.hold h a src (.arrive h grp i) key none
    else (s.modDie h fun y => y.arrive grp i).send h src (.ack a key)
  | .read a key _ _ idx gen off len =>
    match y.gate.shut src a with
    | some was => s.closedRefuse h src a key was ((errOf (y.exportAddr h idx gen off len 0 false)).map fun c => (c, idx)) idx
    | none =>
    match y.exportAddr h idx gen off len 0 false with
    | .error c => s.homeRefuse h src a key c idx
    | .ok pa =>
      if !isMem pa len then s.homeBus h src a key
      else
        let s := s.modDie h fun y => y.meet h pa e
        let y := s.die h
        s.send h src (.reply a key (vget y.gate.g h) y.gate.g (y.peek pa len) (y.poisoned pa len) pa)
  | _ => s

/-- The head request of a source: refused by the tracker, waiting, or performed (R111, R123). -/
def gateRequest (s : State) (h src : DieId) (rd : Bool) (e : StoreErr) : State :=
  match vget (s.die h).gate.arr src with
  | [] => s
  | m :: _ =>
    match m.req with
    | none => s
    | some (_, _, n, st) =>
      if m.isRead != rd then s
      else if !vget (s.die h).gate.taken src && !(s.die h).admits h src m then
        (s.trackerRefuse h src m).modDie h fun y => { y with gate := y.gate.popArr src }
      else
        let s := if vget (s.die h).gate.taken src then s else s.modDie h fun y => { y with gate := y.gate.takeEntry src }
        let s := s.modDie h fun y => { y with gate := y.gate.raise src (if rd then n else n - 1) }
        let y := s.die h
        if rd then
          if y.stampMet h none st then
            (s.perform h src m e).modDie h fun y => { y with gate := (y.gate.done h src n (.replicate 4 0)).popArr src }
          else s
        else if vget y.gate.g src = n - 1 && y.stampMet h (some src) st then
          let s := s.modDie h fun y => { y with gate := (y.gate.done h src n st).popArr src }
          s.perform h src m e
        else s

def execGateWriteApply (h d : DieId) (e : StoreErr) (s : State) : Out := .next (gateRequest s h d false e)
def execGateReadPerform (h d : DieId) (e : StoreErr) (s : State) : Out := .next (gateRequest s h d true e)

/-! ## Responses -/

/-- A beat, or an agent's resend marker, at the head (R111, R402). -/
def execGateBeat (h d : DieId) (s : State) : Out :=
  match vget (s.die h).gate.arr d with
  | .beat n :: _ => .next (s.modDie h fun y => { y with gate := (y.gate.respond d n).popArr d })
  | .marker a :: _ => .next (s.modDie h fun y => { y with gate := { y.gate.popArr d with closed := y.gate.closed.filter fun x => x.1 != (d, a) } })
  | _ => .next s

/-- A reply, a home's refusal, or its bus error, at the head (R85, R112, R402). -/
def execReply (d h : DieId) (s : State) : Out :=
  match vget (s.die d).gate.arr h with
  | .reply a key n g data psn pa :: _ =>
    let s := s.modDie d fun y =>
      let t := (y.gate.respond h n).popArr h
      { y with gate := { t with v := Vector.ofFn fun k => if k == d then vget t.v k else max (vget t.v k) (vget g k) } }
    match (s.ag d a).pend.find? fun p => p.key == key && p.home == h with
    | none => .next s
    | some p =>
      let s := s.modAg d a fun x => { x with pend := x.pend.erase p }
      match p.rd with
      | none => .next s
      | some r =>
        match a, r.kind, psn with
        | .core k, .amo _, true => .next (poisonLater s d k r p.op)
        | _, _, _ => .next (raiseRefusal (finishRead s d a r h pa data psn) d a)
  | .refuse a key n cause idx :: _ =>
    let s := s.modDie d fun y => { y with gate := (y.gate.respond h n).popArr h }
    match (s.ag d a).pend.find? fun p => p.key == key && p.home == h with
    | none => .next s
    | some p =>
      let s := s.modAg d a fun x => { x with pend := x.pend.erase p }
      -- of a request that nothing waits for only RAST tells; its agent goes on behind a marker
      if (s.die d).killedReq a p then .next ((s.modDie d fun y => y.rast d (y.pkg d) h cause idx).send d h (.marker a))
      else .next (s.refused d a p ((s.die d).pkg d) h cause idx)
  | .bus a key n :: _ =>
    let s := s.modDie d fun y => { y with gate := (y.gate.respond h n).popArr h }
    match (s.ag d a).pend.find? fun p => p.key == key && p.home == h with
    | none => .next s
    | some p =>
      let s := s.modAg d a fun x => { x with pend := x.pend.erase p }
      if (s.die d).killedReq a p then .next s else .next (s.notDone d a { p with code := 23 })
  | _ => .next s

/-- An acknowledgement of an applied write: of a die of the package (at the head of its queue), or of a fabric destination, which names the request (R110, R124, R271, R281, R402). DESIGN CHOICE (log entry 123): an acknowledgement carries no count, so R111's first row raises nothing for it. -/
def execWriteAcknowledgement (d h : DieId) (fab : Option FabAns) (s : State) : Out :=
  match fab with
  | none =>
    match vget (s.die d).gate.arr h with
    | .ack a key :: _ =>
      let s := s.modDie d fun y => { y with gate := y.gate.popArr h }
      .next (raiseRefusal (s.modAg d a fun x => { x with pend := x.pend.filter fun p => !(p.key == key && p.home == h) }) d a)
    | _ => .next s
  | some x =>
    match (s.ag d x.ag).pend.find? fun p => p.key == x.key && p.home == h && (match p.op with | .fab q .. => q == x.pkg | _ => false) with
    | none => .next s
    | some p =>
      let s := s.modAg d x.ag fun y => { y with pend := y.pend.erase p }
      if x.cause = 0 then .next (raiseRefusal s d x.ag)
      else if (s.die d).killedReq x.ag p then
        .next (if x.cause = 23 then s else s.modDie d fun y => (y.rast d x.pkg.toNat h x.cause p.idx).toFabric d (.fab x.pkg h (.marker ⟨BitVec.ofNat 12 (y.pkg d), d, x.ag⟩)))
      else if x.cause = 23 then .next (s.notDone d x.ag { p with code := 23 })
      else .next (s.refused d x.ag p x.pkg.toNat h x.cause p.idx)

/-- DESIGN CHOICE (log entry 123): a tracker refusal and a ticket call carry no count, so R111's first row raises nothing for them. A tracker refusal or ticket call is received, or the oldest refused request that need not wait is sent again (R123). -/
def execRequestResend (d h : DieId) (s : State) : Out :=
  match vget (s.die d).gate.arr h with
  | .trkRefuse m t :: _ =>
    let s := s.modDie d fun y =>
      let id := match m.req with | some x => y.asidFor x.1 | none => 0
      let y := y.countDie d id 36
      if t.isSome then y.countDie d id 37 else y
    .next (s.modDie d fun y => { y with gate := { y.gate.popArr h with back := y.gate.back ++ [(h, m, t)] } })
  | .call t :: _ =>
    let s := s.modDie d fun y => { y with gate := y.gate.popArr h }
    match (s.die d).gate.back.find? fun x => x.1 == h && x.2.2 == some t with
    | none => .next s
    | some x => .next ((s.modDie d fun y => { y with gate := { y.gate with back := y.gate.back.erase x } }).send d h x.2.1)
  | _ =>
    match (s.die d).gate.back.find? fun x => x.1 == h with
    | some (h', m, none) => .next ((s.modDie d fun y => { y with gate := { y.gate with back := y.gate.back.erase (h', m, none) } }).send d h m)
    | _ => .next s

/-! ## Invalidations (R121) -/

def Slot.dropRec (t : Slot) (home : DieId) (pa : Nat) : Slot := { t with recs := t.recs.filter fun r => !(r.home == home && r.pa == pa) }
def Slot.dropHome (t : Slot) (h : DieId) : Slot := { t with recs := t.recs.filter fun r => r.home != h }
def Die.dropRec (d : Die) (home : DieId) (pa : Nat) : Die := { d with slots := d.slots.map fun t => t.dropRec home pa }

def execPublishInvalidation (h d : DieId) (s : State) : Out :=
  match vget (s.die h).gate.arr d with
  | .inval n st pa :: _ =>
    let refd := !(vget (s.die h).gate.refd d).isEmpty
    let s := if refd then s else s.modDie h fun y => { y with gate := y.gate.raise d (n - 1) }
    let y := s.die h
    if y.stampMet h (some d) st && (refd || vget y.gate.g d = n - 1) then
      .next (s.modDie h fun y =>
        let y := y.dropRec d pa
        let t := y.gate.respond d n
        { y with gate := { t with v := Vector.ofFn fun k => if k == h then vget t.v k else max (vget t.v k) (vget st k) }.popArr d })
    else .next s
  | _ => .next s

/-! ## Held writes (R103, R408) -/

/-- An acknowledgement or refusal of a message, back over the fabric (R281). -/
def State.fabAck (s : State) (d : DieId) (src : FabSrc) (cause idx : Nat) : State :=
  s.modDie d fun y => y.toFabric d (.ack src cause idx)

/-- Two held lines of one `freeh` (R199). -/
def SbOp.sameFree (a b : SbOp) : Bool :=
  match a, b with
  | .freeh _ _ w q, .freeh _ _ w' q' => w == w' && q == q'
  | _, _ => false

/-- The i-th held write is performed once nothing pins it and no earlier write of its sender is held; the lines of one `freeh` do not wait for each other (R103, R199). An error that a merging write meets is a step before it (R394: `Pick.storageError`). -/
def execHeldWriteApply (d : DieId) (i : Nat) (s : State) : Out :=
  match (s.die d).held[i]? with
  | none => .next s
  | some h =>
    if !heldReady (s.die d) h || ((s.die d).held.take i).any (fun x => x.ag == h.ag && x.src == h.src && x.fab == h.fab && !x.op.sameFree h.op) then .next s
    else
      let s := s.modDie d fun y => { y with held := y.held.eraseIdx i }
      match h.fab with
      | some f =>
        let s := performHeld s d h.op
        .next (if h.key = 1 then s.fabAck d f 0 0 else s)
      | none =>
        match h.op with
        | .amo r op w64 b x => .next (if h.src == d then localAmo s d h.ag r op w64 b x .ok else s.peerAmo d h.src h.ag h.key (locOff r.p.loc) op w64 b x .ok)
        | op => .next (let s := performHeld s d op; if h.src == d then s else s.send d h.src (.ack h.ag h.key))
where
  performHeld (s : State) (d : DieId) (op : SbOp) : State :=
    match op with
    | .write ws psn _ _ => s.modDie d fun y => (localWrs ws).foldl (fun y w => y.apply d w.1 w.2 psn .ok) y
    | .freeh rs .. => s.modDie d fun y => rs.foldl (fun y r => y.freeLines r.1 r.2) y
    | op => applyLocal s d (.core 0) op .ok

def execPinHoldTimeout (d : DieId) (i : Nat) (s : State) : Out :=
  match (s.die d).held[i]? with
  | none => .next s
  | some h =>
    let y := s.die d
    let lim := y.rf d rPINTO 0 40
    if lim = 0 || (y.tick d - h.since).toNat ≤ lim then .next s
    else
      let lines := match h.op with
        | .write ws _ _ _ => (localWrs ws).flatMap fun (w : Nat × List Byte) => (linesOf w.1 w.2.length).map fun l => 128 * l
        | .freeh rs .. => (y.pins.map fun l => 128 * l).filter fun l => rs.any fun r => r.1 ≤ l && l < r.1 + r.2
        | .amo r _ _ _ _ => [locOff r.p.loc / 128 * 128]
        | _ => []
      match lines.find? fun l => y.pinned l 1 with
      | none => .next s
      | some l =>
        let off := if l < vault1 then rPINST else rPINST + 8
        if bitAt (y.getReg d off) 63 then .next s
        else .next (s.modDie d fun y => y.setReg off (BitVec.ofNat 64 (2 ^ 63 + l)))

/-! ## Fabric writes at their destination (R124, R281) -/

/-- A fabric increment or arrival at its destination: refused while its sender's requests are, and behind the sender's held writes (R124, R402). -/
def fabInc (s : State) (d : DieId) (src : FabSrc) (op : SbOp) : State :=
  match (s.die d).coe.shut src with
  | some was => s.fabAck d src was 0
  | none =>
  if (s.die d).behind src.ag src.die (some src) then s.modDie d fun y => y.hold d src.ag src.die op 1 (some src)
  else (applyLocal s d src.ag op .ok).fabAck d src 0 0

/-- A write of the fabric applied as one step, like a local write, or held whole (R103, R124); whether it was applied. `key` 1: its acknowledgement follows the application. -/
def State.fabWrite (s : State) (d : DieId) (src : FabSrc) (pa : Nat) (data : List Byte) (key : Nat) : State × Bool :=
  let ws := (cutLines pa data.length).map fun l => (l.1, slice data (l.1 - pa) l.2)
  if ws.any fun w => (s.die d).mustHold src.ag src.die (some src) (linesOf w.1 w.2.length) then
    (s.modDie d fun y => y.hold d src.ag src.die (.write (ws.map fun w => ⟨⟨.here w.1, 0, w.2.length, none, .none⟩, w.2⟩) false 0 0) key (some src), false)
  else (s.modDie d fun y => ws.foldl (fun y w => y.apply d w.1 w.2 false .ok) y, true)

/-- A message of the fabric at its destination: a write is applied like a local write, once the checks of R97 pass; the acknowledgement or refusal goes back over the fabric (R124, R281). After a refusal the sender's requests are refused until its marker (R402). -/
def execFabricWriteApply (d : DieId) (m : FabMsg) (s : State) : Out :=
  match m with
  | .sem src k i => .next (fabInc s d src (.seminc d k i))
  | .arrive src grp i => .next (fabInc s d src (.arrive d grp i))
  | .marker src => .next (s.modDie d fun y => { y with coe := { y.coe with closed := y.coe.closed.filter (·.1 != src) } })
  | .write src idx gen off data =>
    let chk := (s.die d).exportAddr d idx gen off data.length 1 true
    match (s.die d).coe.shut src with
    | some was => .next (s.fabAck d src ((errOf chk).getD was) idx)
    | none =>
    match chk with
    | .error c => .next ((s.modDie d fun y => { y with coe := { y.coe with closed := y.coe.closed ++ [(src, c)] } }).fabAck d src c idx)
    | .ok pa =>
      -- 23: the address lies outside the physical map (R85; log entry 122)
      if !data.isEmpty && !isMem pa data.length then .next (s.fabAck d src 23 idx)
      else
        let p := s.fabWrite d src pa data 1
        .next (if p.2 then p.1.fabAck d src 0 0 else p.1)

/-! ## Lost dies and rejoins (R404 to R407) -/

/-- `DEAD` set, as an atomic OR, in every import entry whose handle names die `h` of the own package. -/
def Die.killImports (d : Die) (dn h : DieId) : Die :=
  if !bitAt (d.getReg dn rIMPBASE) 0 then d
  else (List.range 4096).foldl (fun d i =>
    let a := (d.getReg dn rIMPBASE &&& bits 47 17).toNat + 16 * i
    let x := BitVec.ofNat 64 (d.peekNat a 8)
    if fld x 52 12 == d.pkg dn && fld x 50 2 == h.val then d.poke (a + 8) [BitVec.ofNat 8 (d.peekNat (a + 8) 1) ||| 2] false else d) d

def allAgents : List Agent :=
  (allSlots.flatMap fun k => [.core k, .eng k .lde, .eng k .are, .eng k .ste, .eng k .mxe]) ++ [.copy 0, .copy 1, .coll, .sys 0, .sys 1, .sys 2, .sys 3]

/-- Messages from `h` that the gate can apply when `h` is lost are applied; the others are discarded (R405 step 3). -/
def drainArr (s : State) (e h : DieId) : Nat → State
  | 0 => s
  | n + 1 =>
    match vget (s.die e).gate.arr h with
    | [] => s
    | m :: _ =>
      let len := (vget (s.die e).gate.arr h).length
      let s' := match m with
        | .write .. | .amo .. | .seminc .. | .arrive .. => gateRequest s e h false .ok
        | .read .. => gateRequest s e h true .ok
        | .beat c => s.modDie e fun y => { y with gate := (y.gate.respond h c).popArr h }
        | .inval .. => match execPublishInvalidation e h s with | .next t => t | _ => s
        | _ => s.modDie e fun y => { y with gate := y.gate.popArr h }
      if (vget (s'.die e).gate.arr h).length < len then drainArr s' e h n else s'

/-- A command of `TLBINV` whose waits are over: `BUSY` clears, and `TLBST` says which dies were lost meanwhile (R92, R406). -/
def Die.tlbEnd (d : Die) (dn : DieId) : Die :=
  let d := d.setReg rTLBST (BitVec.ofNat 64 (16 * d.tlbLost.toNat + (if d.tlbLost = 0 then 0 else 1)))
  { d.setRf dn rTLBINV 62 1 0 with tlbWait := [], tlbLost := 0 }

/-- Accesses homed on a lost die no longer hold a `TLBINV` (R405 step 5). -/
def Die.tlbLose (d : Die) (dn h : DieId) : Die :=
  let on (u : TlbUse) : Bool := match u with | .acc _ _ _ _ _ (some g) => g == h | _ => false
  if bitAt (d.getReg dn rTLBINV) 62 && d.tlbWait.any on then
    let d := { d with tlbWait := d.tlbWait.filter fun u => !on u, tlbLost := d.tlbLost ||| (1#4 <<< h.val) }
    if d.tlbWait.isEmpty then d.tlbEnd dn else d
  else d

/-- Die `h` becomes lost to die `e` (R405), in one step. -/
def loseDie (s : State) (e h : DieId) : State :=
  if e == h || (s.die e).isLost e h then s
  else
    let s := drainArr s e h (vget (s.die e).gate.arr h).length
    let s := allAgents.foldl (fun s a =>
      let mine := (s.ag e a).pend.filter fun p => p.home == h && !p.op.isFab
      let s := s.modAg e a fun x => { x with pend := x.pend.filter fun p => !(p.home == h && !p.op.isFab) }
      raiseRefusal (mine.foldl (fun s p => s.lostReq e a p) s) e a) s
    s.modDie e fun y =>
      let y := y.killImports e h
      let y := { y with slots := y.slots.map fun (t : Slot) => t.dropHome h }
      let y := { y with gate := { y.gate with
        want := y.gate.want &&& ~~~ (1#4 <<< h.val), arr := vset y.gate.arr h [], taken := vset y.gate.taken h false, refd := vset y.gate.refd h [], owed := vset y.gate.owed h 0
        back := y.gate.back.filter fun x => x.1 != h, closed := y.gate.closed.filter fun x => x.1.1 != h, excused := vset y.gate.excused h true } }
      let y := y.tlbLose e h
      y.setReg rPEERST (y.getReg e rPEERST ||| (1#64 <<< h.val))

/-! ## Links (R10, R12, R404, R415) -/

/-- A message put on the link between neighbours, past any loss: eastward to the next die, or westward. -/
def State.put (s : State) (l : DieId) (east : Bool) (h : Hop) : State :=
  if east then { s with east := vmod s.east l (· ++ [h]) } else { s with west := vmod s.west l (· ++ [h]) }

/-- A die hears that `h` has entered reset: an adoption of `h` ends, and so does what `h` had adopted (R415, R417). -/
def Die.resetHeard (d : Die) (dn h : DieId) : Die :=
  let d := { d.setRf dn rSCHST (56 + h.val) 1 0 with heard := d.heard &&& ~~~ (1#4 <<< h.val) }
  if d.rf dn rSCHST 8 2 == h.val && dn != h then d.setRf dn rSCHST 62 1 0 else d

/-- A message reaches its destination: the arrival queue of its source, or, for a notice, the die itself (R404, R415). A die in reset takes none, and nothing comes from a lost die. -/
def State.arrive (s : State) (at_ src : DieId) (m : Msg) : State :=
  if (s.die at_).inReset || (s.die at_).isLost at_ src then s
  else match m with
  | .linkLost => (loseDie s at_ src).modDie at_ fun y => y.resetHeard at_ src
  | .schedFail => s.modDie at_ fun y => { y with heard := y.heard ||| (1#4 <<< src.val) }
  | m => s.modDie at_ fun y => { y with gate := { y.gate with arr := vmod y.gate.arr src (· ++ [m]) } }

def Msg.isRejoin : Msg → Bool | .rejoin _ => true | _ => false

/-- The head message of a directed link reaches its next die: it is delivered there, or forwarded in arrival order (R12); a die in reset forwards too, since the pair at the far ends is not lost by its reset (R404), and one whose clocks are gated takes and forwards nothing (R350, R351). A neighbour forwards a link-lost notice to the diagonal die (R404). A rejoin beat at its destination is taken by its own event (R407). -/
def execLinkForward (l : DieId) (east : Bool) (s : State) : Out :=
  let q := if east then vget s.east l else vget s.west l
  let n := if east then mkDie (l.val + 1) else l
  let on := if east then n else mkDie (l.val + 3)
  match q with
  | [] => .next s
  | h :: r =>
    if (s.die n).gated || (h.dst == n && h.m.isRejoin) then .next s
    else
      let s := if east then { s with east := vset s.east l r } else { s with west := vset s.west l r }
      if h.dst == n then
        let far := mkDie (h.src.val + 2)
        let s := s.arrive n h.src h.m
        .next (if h.m == .linkLost && n != far then s.put on east ⟨h.src, far, .linkLost⟩ else s)
      else .next (s.put on east h)

/-- The links of a die: eastward and westward. -/
def linksOf (h : DieId) : List DieId := [h, mkDie (h.val + 3)]
def State.untrain (s : State) (ls : List DieId) : State := { s with trained := ls.foldl (fun v l => vset v l false) s.trained }

/-- Die `h` enters reset: before any of its state is reset a notice goes out on both of its links (R404). Its links must then be trained again. What it carried of other dies' scheduling has no carrier from now on (R417). -/
def execLinkLostNotice (h : DieId) (s : State) : Out :=
  let e := mkDie (h.val + 1)
  let w := mkDie (h.val + 3)
  let s := (s.put h true ⟨h, e, .linkLost⟩).put w false ⟨h, w, .linkLost⟩
  let carried := allDies.filter fun k => k != h && bitAt ((s.die h).getReg h rSCHST) (56 + k.val) && !(s.die k).gated
  let s := carried.foldl (fun s k => s.modDie k fun y => y.setRf k rSCHST 62 1 0) s
  .next ((s.untrain (linksOf h)).modDie h fun y => { y with inReset := true })

/-- Die `h` is lost to die `e` from now on, or, where the clocks of `e` are gated, from its restart: the notice then waits before it (R350, R404). -/
def loseNow (s : State) (e h : DieId) : State :=
  if (s.die e).gated then s.put (if h.val == (e.val + 3) % 4 then h else e) (h.val == (e.val + 3) % 4) ⟨h, e, .linkLost⟩ else loseDie s e h

/-- Link l fails retraining: its ends, and the diagonal pairs whose traffic crosses it, become lost to each other (R404). -/
def execLinkRetrainFail (l : DieId) (s : State) : Out :=
  let p (a b : Nat) (s : State) : State := loseNow (loseNow s (mkDie a) (mkDie b)) (mkDie b) (mkDie a)
  .next ((p l.val (l.val + 1) (p l.val (l.val + 2) (p (l.val + 3) (l.val + 1) s))).untrain [l])

/-- The link is trained again: traffic that a lost pair left on it is gone (R407). -/
def execPackageLinkTrained (l : DieId) (s : State) : Out :=
  let lost (h : Hop) : Bool := (s.die h.src).isLost h.src h.dst || (s.die h.dst).isLost h.dst h.src
  let keep (q : List Hop) : List Hop := q.filter fun h => !lost h || (match h.m with | .rejoin _ => true | _ => false)
  .next { s with east := vmod s.east l keep, west := vmod s.west l keep, trained := vset s.trained l true }

/-- The links that the messages of a pair cross, both ways (R12), have been trained since they were last lost (R407). -/
def State.pathTrained (s : State) (a b : DieId) : Bool :=
  let ls : List DieId := if b.val == (a.val + 1) % 4 then [a] else if b.val == (a.val + 3) % 4 then [b] else allDies
  ls.all fun l => vget s.trained l

/-- A rejoin is asked for, once the links between are trained; when both sides have, each sends its rejoin beat (R407). A `REJOIN` bit written before counts for nothing. -/
def execPeerstRejoin (d : DieId) (mask : BitVec 4) (s : State) : Out :=
  let put (s : State) (a b : DieId) : State :=
    let m : Hop := ⟨a, b, .rejoin (vget (s.die a).gate.v a)⟩
    if b.val == (a.val + 3) % 4 then { s with west := vmod s.west b (· ++ [m]) } else { s with east := vmod s.east a (· ++ [m]) }
  let ask (s : State) (h : DieId) : State :=
    if h == d || !mask.getLsbD h.val || !s.pathTrained d h || !((s.die d).isLost d h || (s.die h).isLost h d) || (s.die d).gate.want.getLsbD h.val then s
    else
      let s := s.modDie d fun y => { y with gate := { y.gate with want := y.gate.want ||| (1#4 <<< h.val) } }
      if (s.die h).gate.want.getLsbD d.val then put (put s d h) h d else s
  .next (allDies.foldl ask s)

/-- A rejoin beat of `h` reaches `e` (R407): it is at the head of a link into `e`. -/
def execRejoinBeat (e h : DieId) (s : State) : Out :=
  let le := mkDie (e.val + 3)
  let hit (q : List Hop) : Option Hop := match q with | x :: _ => if x.src == h && x.dst == e then (match x.m with | .rejoin _ => some x | _ => none) else none | [] => none
  let take (s : State) (x : Hop) : State :=
    let n := match x.m with | .rejoin n => n | _ => 0
    s.modDie e fun y =>
      let y := { y with gate := { y.gate with
        g := vset y.gate.g h n, v := vset y.gate.v h n, want := y.gate.want &&& ~~~ (1#4 <<< h.val) } }
      y.setReg rPEERST (y.getReg e rPEERST &&& ~~~ (1#64 <<< h.val))
  match hit (vget s.east le) with
  | some x => .next (take { s with east := vmod s.east le (·.drop 1) } x)
  | none =>
    match hit (vget s.west e) with
    | some x => .next (take { s with west := vmod s.west e (·.drop 1) } x)
    | none => .next s

end Sys2Proof.Machine
end

