-- ==== Sys2Proof/Machine/Record.lean ====
section
/-! DEFINITION. Rows between an engine and memory (R91, R206 to R210), tile-layout records and their copies (R98 to R101, R121), shared by the load and the store engine. -/

namespace Sys2Proof.Machine

/-! ## Parts of a transfer -/

/-- A transfer is issued: its lines join the agent's reads, in ascending order (R107). -/
def issueReads (s : State) (c : Cur) (r : Run) (key unit : Nat) (psn : Bool) (ps : List (Part × Piece)) : State :=
  let rds : List Rd := ps.map fun q => ⟨0, q.2, .part key (partOff q), r.place unit, r.ent.seq⟩
  let want := ps.foldl (fun n q => n + q.2.len) 0
  s.modAg c.die c.ag fun a => { a with rd := a.rd ++ rds, asm := a.asm ++ [⟨key, want, [], psn, []⟩] }

def Asm.done (x : Asm) : Bool := x.got.foldl (fun n g => n + g.2.length) 0 == x.want

/-- Bytes `at_` to `at_ + n` of a transfer, zero where nothing lies. -/
def Asm.bytes (x : Asm) (at_ n : Nat) : List Byte :=
  (List.range n).map fun i =>
    match x.got.find? fun g => g.1 ≤ at_ + i && at_ + i < g.1 + g.2.length with
    | some g => listGet 0 g.2 (at_ + i - g.1)
    | none => 0
def AgentSt.dropAsm (a : AgentSt) (key : Nat) : AgentSt := { a with asm := a.asm.filter fun x => x.key != key }

/-- A row of a load or prefetch: the next unit is issued, and after the last the instruction ends when every row has arrived. `parts i`: the transfer of row i, or a fault of that row. -/
def loadStep (s : State) (c : Cur) (r : Run) (na : BitVec 2) (n : Nat) (nd : Need) (psn : Bool) (begin_ : Got (Run × Bool))
    (parts : Nat → Except (Nat × Word) (List Part)) : State :=
  if !r.started then
    match begin_ with
    | .ok s r => s.setRun c { r.1 with started := r.2 }
    | .wait => s
    | .fault s code a => startFault s c r code a
  else if r.unit < n then
    match parts r.unit with
    | .error (code, a) => runFault s c r code a r.unit 0
    | .ok ps =>
      match accessParts c.die ((s.die c.die).who c.ag r.slot) nd ps (s.die c.die) with
      | .wait y => s.modDie c.die fun _ => y
      | .fault y code a => runFault (s.modDie c.die fun _ => y) c r code (BitVec.ofNat 64 a) r.unit 0
      | .ok y qs => (issueReads (s.modDie c.die fun _ => y) c r r.unit r.unit psn qs).setRun c { r with unit := r.unit + 1 }
  else if (s.ag c.die c.ag).asm.isEmpty then s.advRun c { r with rw := r.rw + n } na
  else s

/-- A row of a store: the source row is read under its B bit, and its lines are written as one row (R109, R210). -/
def storeStep (s : State) (c : Cur) (r : Run) (na : BitVec 2) (n : Nat) (begin_ : Got (Run × Bool)) (src : State → Nat → Got RowVal)
    (parts : Nat → Except (Nat × Word) (List Part)) : State :=
  if !r.started then
    match begin_ with
    | .ok s r => s.setRun c { r.1 with started := r.2 }
    | .wait => s
    | .fault s code a => startFault s c r code a
  else if r.unit < n then
    match parts r.unit with
    | .error (code, a) => runFault s c r code a r.unit 0
    | .ok ps =>
      unitDo s c r r.unit <| (src s r.unit).bind fun s v =>
        match accessParts c.die ((s.die c.die).who c.ag r.slot) (needRow false true) ps (s.die c.die) with
        | .wait _ => .wait
        | .fault y code a => .fault (s.modDie c.die fun _ => y) code (BitVec.ofNat 64 a)
        | .ok y qs =>
          let data := v.data ++ v.side
          let ws : List Wr := qs.map fun q => ⟨q.2, slice data (partOff q) q.2.len⟩
          let s := (s.modDie c.die fun _ => y).modAg c.die c.ag fun a => { a with sb := a.sb ++ [.write ws v.psn (r.place r.unit) r.ent.seq] }
          .ok s { r with unit := r.unit + 1, rw := r.rw + 1 }
  else s.advRun c r na

/-- The address that breaks an alignment of `al`, base first, then stride (R206, R219). -/
def misaligned (a st : Word) (al : Nat) : Option Word :=
  if a.toNat % al != 0 then some a else if st.toNat % al != 0 then some (a + st) else none

/-! ## Records (R98 to R101, R121) -/

/-- The fields of a tile-layout record. -/
structure TileRec where
  pl : Vector Word 2
  stride : Nat
  scoff : Nat
  pv : Bool
  proof : Nat
  act : Bool
  tag : Tag
  rbytes : Nat
  rows : Nat
  gen : Nat
  deriving DecidableEq, Repr

/-- CheckRecord: the record, unless it breaks R98. -/
def parseRec (bs : List Byte) : Option TileRec :=
  let w (i : Nat) : Word := leWord (slice bs (8 * i) 8)
  let r : TileRec :=
    { pl := #v[w 0, w 1], stride := fld (w 2) 32 32, scoff := fld (w 2) 0 32, pv := bitAt (w 3) 63, proof := fld (w 3) 48 12
      act := bitAt (w 3) 40, tag := (w 3).extractLsb' 32 5, rbytes := fld (w 3) 16 10, rows := fld (w 3) 0 16, gen := fld (w 4) 0 16 }
  let clean := fld (w 0) 52 12 == 0 && fld (w 1) 52 12 == 0 && fld (w 3) 60 3 == 0 && fld (w 3) 41 7 == 0 && fld (w 3) 37 3 == 0
    && fld (w 3) 26 6 == 0 && fld (w 4) 16 48 == 0 && w 5 == 0 && w 6 == 0 && w 7 == 0
  if clean && r.rows != 0 && 16 ≤ r.rbytes && r.rbytes ≤ 512 && r.rbytes % 16 == 0 && r.stride % 16 == 0 && r.scoff % 16 == 0
      && r.rbytes ≤ r.stride && tagLegal r.tag then some r else none

def TileRec.plane (r : TileRec) (latent : Bool) : Word := if r.act != latent then vget r.pl 1 else vget r.pl 0
/-- The transfer of row n of a plane. -/
def TileRec.parts (r : TileRec) (latent : Bool) (n : Nat) (sc : Bool) : List Part :=
  let b := r.plane latent
  rowParts (addrAt b (n * r.stride)) r.rbytes (addrAt b (r.scoff + 192 * n)) sc

/-- The key of a record's copy: home die and physical address there (R101). A peer record's place at its home is found by the home's export table. -/
def recKey (s : State) (d : DieId) (p : Piece) : Option (DieId × Nat) :=
  match p.loc with
  | .here pa => some (d, pa)
  | .peer h i g o => match (s.die h).exportAddr h i g o 64 0 false with | .ok pa => some (h, pa) | .error _ => none
  | .fab .. => none

/-- A record read of the agent is under way. -/
def AgentSt.readsRec (a : AgentSt) : Bool :=
  a.rd.any (fun r => r.kind == .record) || a.pend.any fun p => match p.rd with | some r => r.kind == .record | none => false

/-- The copy of the record at an address for the current instruction (R101, R121, R208, R214): `true` with the copy in the run, `false` while it is awaited. An entry uses one copy of a record for all of its instructions and iterations. -/
def recordCopy (s : State) (c : Cur) (r : Run) (va : Word) : Got (Run × Bool) :=
  if r.rcpy.isSome then .ok s (r, true)
  else if va.toNat % 64 != 0 then .fault s 19 va
  else
    match access c.die (s.die c.die) ((s.die c.die).who c.ag r.slot) va.toNat 64 ⟨[2, 4], true, false⟩ with
    | .wait _ => .wait
    | .fault y code a => .fault (s.modDie c.die fun _ => y) code (BitVec.ofNat 64 a)
    | .ok y p =>
      let s := s.modDie c.die fun _ => y
      let of (l : List RecCopy) : Option RecCopy := match recKey s c.die p with
        | some k => l.find? fun x => x.home == k.1 && x.pa == k.2
        | none => none
      match of r.copies, of (s.slot c.die r.slot).recs with
      | some x, _ => .ok s ({ r with rcpy := some x }, true)
      | none, some x =>
        if (s.die c.die).gateOk c.die then .ok (s.modSlot c.die r.slot (·.keepRec x)) ({ r with rcpy := some x, copies := r.copies ++ [x] }, true) else .wait
      | none, none =>
        if (s.ag c.die c.ag).readsRec then .wait
        else .ok (s.modAg c.die c.ag fun a => { a with rd := a.rd ++ [(⟨0, p, .record, r.place 0, r.ent.seq⟩ : Rd)] }) ({ r with part := 1 }, false)

end Sys2Proof.Machine
end

