-- ==== Sys2Proof/Machine/Lde.lean ====
section
/-! DEFINITION. The load engine (R204 to R209, R212 to R217, R219). -/

namespace Sys2Proof.Machine

/-- The scales of a row of a scaled format: entries beyond the format's count are zero (R68). -/
def cutSide (t : Tag) (side : List Byte) : List Byte := padTo 0 192 (side.take (3 * (fcount t / 32)))

/-- LoadStart of R209. -/
def loadStart (s : State) (c : Cur) (r : Run) (o : EOp) (tag : Option Tag) : State :=
  s.modSlot c.die r.slot fun t => t.modTile o.f1 fun x => x.start (eFirst o 0) (eCount o 0) tag

/-- The start of a load: alignment, then the destination rows empty and tagged. -/
def beginLoad (s : State) (c : Cur) (r : Run) (o : EOp) (bad : Option Word) (tag : Option Tag) : Got (Run × Bool) :=
  match bad with
  | some a => .fault s 19 a
  | none => .ok (if isTile o.f1 then loadStart s c r o tag else s) (r, true)

/-- Bytes of a memory row of `ldr` and `ldx` (R207). -/
def memLen (o : EOp) : Nat :=
  let oc := (eMod o).oc
  if oc = 0 then 512 else 512 * fwidth oc / fwidth o.fmt

def ldrLen (o : EOp) : Nat := if o.f1 == opRQ then 8 else memLen o
def ldrAl (o : EOp) : Nat := if o.f1 == opRQ then 8 else 16
def rowAddr (r : Run) (o : EOp) (i : Nat) : Nat := addrAt (r.par o.f2) (i * (r.par o.f3).toInt)

def execLdr (o : EOp) (s : State) : Out :=
  engDo (fun s c r => loadStep s c r o.na (eCount o 0) (needRow true false) false
    (beginLoad s c r o (misaligned (r.par o.f2) (r.par o.f3) (ldrAl o)) (some o.fmt))
    (fun i => .ok (plainPart (rowAddr r o i) (ldrLen o)))) s

def execLdt (o : EOp) (s : State) : Out :=
  engDo (fun s c r => loadStep s c r o.na (eCount o 0) (needRow true false) false
    (beginLoad s c r o (misaligned (r.par o.f2) 0 16) (some o.fmt))
    (fun i =>
      let n := eFirst o 0 + i
      .ok (rowParts (addrAt (r.par o.f2) (512 * n)) 512 (addrAt (r.par o.f2) (0x8000 + 192 * n)) (fscaled o.fmt)))) s

/-- First row of a record access: e[F3][47:32] (R214). -/
def firstRow (r : Run) (o : EOp) : Nat := fld (r.par o.f3) 32 16

/-- The address of the first row of a plane, where it is no multiple of 16: strides and scale offsets are such multiples by R98, so that every row breaks R91 or none does. -/
def TileRec.misaligned (x : TileRec) (latent : Bool) (n : Nat) : Option Word :=
  let a := addrAt (x.plane latent) (n * x.stride)
  if a % 16 != 0 then some (BitVec.ofNat 64 a) else none

/-- The record in the run's copy. -/
def Run.rec? (r : Run) : Option TileRec := match r.rcpy with | some x => parseRec x.bytes | none => none

/-- The start of `ldrec`: the copy, its checks, its generation and tag (R214). -/
def beginLdrec (s : State) (c : Cur) (r : Run) (o : EOp) : Got (Run × Bool) :=
  let va := r.par o.f2
  (recordCopy s c r va).bind fun s p =>
    if !p.2 then .ok s p
    else match p.1.rec? with
    | none => .fault (s.setRun c { p.1 with rcpy := none }) 17 va
    | some x =>
      if x.gen != fld (p.1.par o.f3) 0 16 then .fault (s.setRun c p.1) 18 va
      else if !(eMod o).raw && x.tag != o.fmt then .fault (s.setRun c { p.1 with rcpy := none }) 5 0
      else match x.misaligned false (firstRow p.1 o) with
      | some a => .fault (s.setRun c { p.1 with rcpy := none }) 19 a
      | none => .ok (loadStart s c p.1 o (some o.fmt)) (p.1, true)

/-- The transfer of row i of a record access, or the record fault of that row (R214, R391). -/
def recParts (r : Run) (o : EOp) (va : Word) (latent : Bool) (i : Nat) : Except (Nat × Word) (List Part) :=
  match r.rec? with
  | none => .error (17, va)
  | some x => if x.rows ≤ firstRow r o + i then .error (17, va) else .ok (x.parts latent (firstRow r o + i) (fscaled o.fmt))

def execLdrec (o : EOp) (s : State) : Out :=
  engDo (fun s c r => loadStep s c r o.na (eCount o 0) (needRow true false) false (beginLdrec s c r o) (recParts r o (r.par o.f2) false)) s

/-- The index row of `ldx`, `stx`: read once, tagged I32 (R213). -/
def indexRow (s : State) (c : Cur) (r : Run) (o : EOp) : Got RowVal :=
  if ((s.slot c.die r.slot).tile o.f3).tag != tI32 then .fault s 5 0 else tileRow s c.die r.slot o.f3 o.b3 (eFirst o 2)

/-- The address of row i of an indexed access. -/
def indexAddr (r : Run) (base : Word) (i : Nat) : Nat :=
  addrAt base (sInt 32 (rowElem 32 (leNat (match r.bc with | some v => v.data | none => [])) i))

/-- The first row of an indexed access whose address is not a multiple of 16. -/
def indexBad (r : Run) (base : Word) (n : Nat) : Option Word :=
  ((List.range n).map (indexAddr r base)).find? (fun a => a % 16 != 0) |>.map (BitVec.ofNat 64)

def beginLdx (s : State) (c : Cur) (r : Run) (o : EOp) : Got (Run × Bool) :=
  (indexRow s c r o).bind fun s v =>
    let r := { r with bc := some v }
    match indexBad r (r.par o.f2) (eCount o 0) with
    | some a => .fault s 19 a
    | none => .ok (loadStart s c r o (some o.fmt)) (r, true)

def Run.idxPsn (r : Run) : Bool := match r.bc with | some v => v.psn | none => false

def ldxStep (s : State) (c : Cur) (r : Run) (o : EOp) : State :=
  loadStep s c r o.na (eCount o 0) (needRow true false) r.idxPsn (beginLdx s c r o) (fun i => .ok (plainPart (indexAddr r (r.par o.f2) i) (memLen o)))

def execLdx (o : EOp) (s : State) : Out := engDo (fun s c r => ldxStep s c r o) s

def execLdsc (o : EOp) (s : State) : Out :=
  engDo (fun s c r => loadStep s c r o.na (eCount o 0) (needRow true false) false
    (beginLoad s c r o (misaligned (r.par o.f2) (r.par o.f3) 16) none)
    (fun i => .ok (plainPart (rowAddr r o i) 192))) s

/-! ## Ports (R102, R165, R215, R216) -/

/-- The image of R165, unless it breaks R102 or R165. -/
def parsePort (bs : List Byte) : Option PortCfg :=
  let w (i : Nat) : Word := leWord (slice bs (8 * i) 8)
  let tag : Tag := (w 4).extractLsb' 0 5
  let c : PortCfg :=
    { base := (w 0).toNat, cnt := #v[fld (w 1) 0 16, fld (w 1) 16 16, fld (w 1) 32 16, fld (w 1) 48 16]
      str := #v[sInt 32 (fld (w 2) 0 32), sInt 32 (fld (w 2) 32 32), sInt 32 (fld (w 3) 0 32), sInt 32 (fld (w 3) 32 32)]
      tag := tag, dir := bitAt (w 4) 8, sco := sInt 32 (fld (w 4) 32 32) }
  let clean := fld (w 0) 52 12 == 0 && fld (w 4) 5 3 == 0 && fld (w 4) 9 23 == 0 && w 5 == 0 && w 6 == 0 && w 7 == 0
  if clean && c.base % 128 == 0 && c.cnt.toList.all (· != 0) && c.str.toList.all (· % 128 == 0) && tagLegal tag
      && (if fscaled tag then c.sco % 16 == 0 else c.sco == 0) then some c else none

/-- A write of the slot's engines to a port has not yet been applied: it stands in a store buffer, or is held at a vault. -/
def portWrites (s : State) (d : DieId) (k : SlotId) : Bool :=
  let b := (s.die d).baseOf k
  let ags : List Agent := [.eng k .lde, .eng k .are, .eng k .ste, .eng k .mxe, .eng b .mxe]
  ags.any fun a => !(s.ag d a).sb.isEmpty || (s.die d).held.any fun h => h.ag == a && h.src == d

/-- The start of `pcfg`: rows pushed to the port are written first; then pins and fetched rows go (R215). -/
def beginPcfg (s : State) (c : Cur) (r : Run) (o : EOp) : Got (Run × Bool) :=
  let p := vget (s.slot c.die r.slot).ports (widx o.f1)
  let va := r.par o.f2
  if va.toNat % 64 != 0 then .fault s 19 va
  else if (match p.cfg with | some x => x.dir | none => false) && portWrites s c.die r.slot then .wait
  else .ok (s.modSlot c.die r.slot fun t => { t with ports := vset t.ports (widx o.f1) { p with rows := [], part := none, cfg := if va = 0 then none else p.cfg } }) (r, true)

/-- `pcfg`: the image is read whole and installed; a bad one leaves the port unconfigured. -/
def pcfgStep (s : State) (c : Cur) (r : Run) (o : EOp) : State :=
  let va := r.par o.f2
  let put (s : State) (p : Port) : State := s.modSlot c.die r.slot fun t => { t with ports := vset t.ports (widx o.f1) p }
  if !r.started then loadStep s c r o.na 1 ⟨[0], true, false⟩ false (beginPcfg s c r o) (fun _ => .ok [])
  else if va = 0 then (put s Port.empty).advRun c r o.na
  else if r.unit = 0 then loadStep s c r o.na 1 ⟨[0], true, false⟩ false .wait (fun _ => .ok (plainPart va.toNat 64))
  else match (s.ag c.die c.ag).asm with
  | x :: _ =>
    if !x.done then s
    else
      let s := s.modAg c.die c.ag (·.dropAsm x.key)
      if x.psn then runFault (put (s.setRun c { r with unit := 0 }) Port.empty) c r 23 va 0 0
      else match parsePort (x.bytes 0 64) with
      | none => runFault (put (s.setRun c { r with unit := 0 }) Port.empty) c r 16 va 0 0
      | some cfg => (put s { Port.empty with cfg := some cfg }).advRun c r o.na
  | [] => s.setRun c { r with unit := 0 }

def execPcfg (o : EOp) (s : State) : Out := engDo (fun s c r => pcfgStep s c r o) s

/-- The lines of a prefetched row, translated in turn; one that fails a check is skipped (R217), and `RAST` records no failure of it. A walk fills the TLB and sets `A` as any other (R89, R90). -/
def touchLines (dn : DieId) (w : Who) : List (Nat × Nat) → Die → XRes Unit
  | [], d => .ok d ()
  | (va, len) :: r, d =>
    match access dn d w va len (needRow true false) with
    | .wait d => .wait d
    | .ok d _ => touchLines dn w r d
    | .fault y _ _ => touchLines dn w r (if y.getReg dn rRAST == d.getReg dn rRAST then y else y.setReg rRAST (d.getReg dn rRAST))

/-- `pfx` changes no architectural state and raises no fault: the lines of its rows issued, it is complete (R217). -/
def execPfx (o : EOp) (s : State) : Out :=
  engDo (fun s c r =>
    if r.unit < eCount o 0 then
      match touchLines c.die ((s.die c.die).who c.ag r.slot) (cutLines (rowAddr r o r.unit) 512) (s.die c.die) with
      | .ok y _ => (s.modDie c.die fun _ => y).setRun c { r with unit := r.unit + 1 }
      | .wait y | .fault y _ _ => s.modDie c.die fun _ => y
    else s.advRun c r o.na) s

/-- The start of `ldv`: the port is configured for writing with tag `FMT` (R216). -/
def beginLdv (s : State) (c : Cur) (r : Run) (o : EOp) : Got (Run × Bool) :=
  match misaligned (r.par o.f2) (r.par o.f3) 16, dstCheck (s.die c.die) r.slot o.f1 o.fmt false with
  | some a, _ => .fault s 19 a
  | none, some code => .fault s code 0
  | none, none => .ok s (r, true)

def execLdv (o : EOp) (s : State) : Out :=
  engDo (fun s c r => loadStep s c r o.na (eCount o 0) (needRow true false) false (beginLdv s c r o)
    (fun i =>
      let a := rowAddr r o i
      let sco : Int := match (vget (s.slot c.die r.slot).ports (widx o.f1)).cfg with | some p => p.sco | none => 0
      .ok (rowParts a 512 (addrAt (BitVec.ofNat 64 a) sco) (fscaled o.fmt)))) s

/-! ## Arrival (R209, R212, R216) -/

/-- A row converted between formats, element by element, with its flags (R207). -/
def convertRow (src dst : Tag) (m : BitVec 3) (sat : Bool) (seed : W32) (rw : Nat) (data : List Byte) : List Byte × Flg :=
  let x := leNat data
  let es := (List.range (fcount dst)).map fun i => convert src dst m sat (srBits seed rw i) (rowElem (fwidth src) x i)
  (rowOf dst (es.map (·.1)), es.foldl (fun f e => f ||| e.2) 0)

/-- The transfer of row `key` has arrived for the current word. -/
def arriveRow (s : State) (c : Cur) (r : Run) (i : Instr) (x : Asm) : State :=
  let drop (s : State) : State := s.modAg c.die c.ag (·.dropAsm x.key)
  let plain (o : EOp) (data side : List Byte) (sc : Bool) : State :=
    (drop s).modSlot c.die r.slot fun t => t.modTile o.f1 fun y => y.put (eFirst o 0 + x.key) ⟨data, side, x.psn⟩ sc
  let conv (o : EOp) : State :=
    let m := eMod o
    if m.oc = 0 then plain o (x.bytes 0 512) [] false
    else
      let p := s.seen ⟨x.bytes 0 (memLen o), [], x.psn⟩
      let q := convertRow m.oc o.fmt m.rnd m.sat r.ent.seed (r.rw + x.key) p.2.data
      ((drop p.1).setRun c { r with flags := r.flags ||| q.2 }).modSlot c.die r.slot fun t =>
        t.modTile o.f1 fun y => y.put (eFirst o 0 + x.key) ⟨q.1, [], x.psn⟩ false
  match i with
  | .ldr o =>
    if o.f1 == opRQ then
      match rqPush s c r.slot 0 (leWord (x.bytes 0 8)) x.psn with
      | .ok s _ => drop s
      | _ => s
    else conv o
  | .ldx o => conv o
  | .ldt o | .ldrec o => plain o (x.bytes 0 512) (cutSide o.fmt (x.bytes 512 192)) (fscaled o.fmt)
  | .ldsc o =>
    (drop s).modSlot c.die r.slot fun t => t.modTile o.f1 fun y =>
      let n := eFirst o 0 + x.key
      { y with side := spWrite 0 y.side (192 * n) (x.bytes 0 192), full := bvPut y.full n true, psn := if x.psn then bvPut y.psn n true else y.psn }
  | .ldv o =>
    -- a row below the failing one is still pushed (R208, R216)
    let below : Bool := match vget (s.slot c.die r.slot).flt 1 with | some f => decide (x.key < f.r.unit.toNat) | none => true
    if !below then s
    else unitDo s c r x.key ((portPush s c r o.f1 ⟨x.bytes 0 512, x.bytes 512 192, x.psn⟩ (fscaled o.fmt) x.key).bind fun s _ => .ok (drop s) r)
  | _ => s

/-- A loaded row arrives: any row of a tile, the oldest of a queue or port (R209, R212, R216). -/
def execRowArrival (d : DieId) (k : SlotId) (s : State) : Out :=
  let c : Cur := ⟨d, .eng k .lde, 8⟩
  match s.run c with
  | none => .next s
  | some r =>
    match r.code[r.pos]? with
    | none => .next s
    | some w =>
      let asm := (s.ag d (.eng k .lde)).asm
      let inOrder : Bool := match w.2 with | .ldr o => o.f1 == opRQ | .ldv _ => true | _ => false
      match if inOrder then asm.head?.filter Asm.done else asm.find? Asm.done with
      | some x => .next (arriveRow s c r w.2 x)
      | none => .next s

end Sys2Proof.Machine
end

