-- ==== Sys2Proof/Machine/Are.lean ====
section
/-! DEFINITION. The arithmetic engine (R220 to R246): one scheme of rows, and what each instruction computes in it. -/

namespace Sys2Proof.Machine

/-! ## The scheme of R222 and R223 -/

/-- What a destination row comes to: bytes, scale bytes, flags. -/
structure RowOut where
  data : List Byte
  side : List Byte
  fl : Flg
  deriving DecidableEq, Repr

/-- How an instruction takes its rows. -/
inductive Scheme where
  /-- destination row i from source rows i -/
  | rows
  /-- every source row to one value (R231); `q`: to `rq.ae` -/
  | reduce (q : Bool)
  /-- blocks of 32 rows (R234) -/
  | blocks
  /-- the flattened sequence of R236 -/
  | flat
  deriving DecidableEq, Repr

/-- An instruction laid out for the scheme: its sources with the format each is checked against, its output format, and the row function. A source given as none is not read. -/
structure Plan where
  o : EOp
  scheme : Scheme := .rows
  n : Nat
  /-- F2, F3 and OC row sources -/
  s2 : Option Tag := none
  s3 : Option Tag := none
  s4 : Option Tag := none
  /-- F2, F3 supply one row for every i -/
  one2 : Bool := false
  one3 : Bool := false
  /-- the F3 row is read once, at the start (R235) -/
  idx : Bool := false
  out : Tag
  /-- the output carries scales -/
  sc : Bool := false
  /-- source formats a flattened instruction accepts from the tag -/
  acc : Tag → Bool := fun _ => true
  row : Run → Nat → RowVal → RowVal → RowVal → RowOut

def noRow : RowVal := ⟨[], [], false⟩

/-- The draws of R73 for the row at hand: used under SR only. -/
def Run.draw (r : Run) (o : EOp) (el : Nat) : W32 := if (eMod o).rnd = 4 then srBits r.ent.seed r.rw el else 0

/-- The checks before any row: the tags of every source, then every port operand (R223, R246). -/
def Plan.check (p : Plan) (d : Die) (k : SlotId) : Option Nat :=
  let raw := (eMod p.o).raw
  let tag (code : BitVec 5) : Option Tag → Bool
    | some t => tagBad d k code t raw
    | none => false
  let port (code : BitVec 5) (t : Option Tag) : Bool := t.isSome && portBad d k code
  let dst : Option Nat := match p.scheme with
    | .reduce _ => none
    | _ => dstCheck d k p.o.f1 p.out raw
  if tag p.o.f2 p.s2 || tag p.o.f3 (if p.idx then some tI16 else p.s3) || tag (eMod p.o).oc p.s4 then some 5
  else if port p.o.f2 p.s2 || port p.o.f3 p.s3 then some 16
  else dst

/-- The source format of a flattened instruction, checked where the tag gives it (R236). -/
def Plan.flatSrc (p : Plan) (d : Die) (k : SlotId) : Except Nat Tag :=
  let oc := (eMod p.o).oc
  if oc != 0 then (match srcCheck d k p.o.f2 oc (eMod p.o).raw with | some c => .error c | none => .ok oc)
  else if !isTile p.o.f2 && (vget (d.slot k).ports (widx p.o.f2)).cfg.isNone then .error 16
  else
    let t := srcTag d k p.o.f2
    if !p.acc t then .error 5 else if portBad d k p.o.f2 then .error 16 else if !flatOk p.o t then .error 2 else .ok t

/-- The start of an instruction: its checks, the row that is read once, the destination's tag (R222, R223, R235). -/
def Plan.begin (p : Plan) (s : State) (c : Cur) (r : Run) : Got Run :=
  let d := s.die c.die
  let fs : Except Nat Tag := match p.scheme with | .flat => p.flatSrc d r.slot | _ => .ok 0
  match fs with
  | .error code => .fault s code 0
  | .ok src =>
    match p.check d r.slot with
    | some code => .fault s code 0
    | none =>
      let once : Got (Option RowVal) :=
        if p.idx then (tileRow s c.die r.slot p.o.f3 p.o.b3 (eFirst p.o 2)).bind fun s v => .ok s (some v)
        else if p.one3 && !isTile p.o.f3 then (portRow s c.die r.slot .are p.o.f3 p.o.b3).bind fun s v => .ok s (some v)
        else if p.one2 && !isTile p.o.f2 then (portRow s c.die r.slot .are p.o.f2 p.o.b2).bind fun s v => .ok s (some v)
        else .ok s none
      once.bind fun s v =>
        let s := match p.scheme with | .reduce true => s | _ => dstTag s c r p.o.f1 p.out
        .ok s { r with started := true, bc := v, src := src }

/-- The rows read for i: F2, then F3, then OC, which always waits (R223). -/
def Plan.reads (p : Plan) (s : State) (c : Cur) (r : Run) (i : Nat) : Got (RowVal × RowVal × RowVal) :=
  let k := r.slot
  let held (v : Option RowVal) : RowVal := v.getD noRow
  let g2 : Got RowVal := match p.s2 with
    | none => .ok s noRow
    | some _ => if p.one2 && !isTile p.o.f2 then .ok s (held r.bc) else srcRow s c.die k .are p.o.f2 p.o.b2 (eFirst p.o 1 + if p.one2 then 0 else i)
  g2.bind fun s v2 =>
    let g3 : Got RowVal := if p.idx then .ok s (held r.bc) else match p.s3 with
      | none => .ok s noRow
      | some _ => if p.one3 && !isTile p.o.f3 then .ok s (held r.bc) else srcRow s c.die k .are p.o.f3 p.o.b3 (eFirst p.o 2 + if p.one3 then 0 else i)
    g3.bind fun s v3 =>
      let g4 : Got RowVal := match p.s4 with
        | none => .ok s noRow
        | some _ => tileRow s c.die k (eMod p.o).oc false (eFirst p.o 3 + i)
      g4.bind fun s v4 => .ok s (v2, v3, v4)

/-- Destination row i of the plain scheme. -/
def Plan.rowStep (p : Plan) (s : State) (c : Cur) (r : Run) : State :=
  unitDo s c r r.unit <| (p.reads s c r r.unit).bind fun s v =>
    let x := p.row r r.unit v.1 v.2.1 v.2.2
    let psn := v.1.psn || v.2.1.psn || v.2.2.psn
    (dstPut s c r p.o.f1 (eFirst p.o 0 + r.unit) ⟨x.data, x.side, psn⟩ p.sc r.unit).bind fun s _ =>
      .ok s { r with unit := r.unit + 1, rw := r.rw + 1, flags := r.flags ||| x.fl }

/-- Four bytes of a row function's output as the value v_i. -/
def valOf (x : RowOut) : W32 := BitVec.ofNat 32 (leNat (x.data.take 4))

/-- Source row i reduced to a value: kept, or pushed to `rq.ae` (R231). -/
def Plan.reduceStep (p : Plan) (q : Bool) (s : State) (c : Cur) (r : Run) : State :=
  unitDo s c r r.unit <| (srcRow s c.die r.slot .are p.o.f2 p.o.b2 (eFirst p.o 1 + r.unit)).bind fun s v =>
    let x := p.row r r.unit v noRow noRow
    let w := valOf x
    if q then
      (rqPush s c r.slot 1 (if fmtINT p.o.fmt then w.signExtend 64 else w.setWidth 64) v.psn).bind fun s _ =>
        .ok s { r with unit := r.unit + 1, rw := r.rw + 1, flags := r.flags ||| x.fl }
    else .ok s { r with unit := r.unit + 1, red := r.red ++ [(w, v.psn)], flags := r.flags ||| x.fl }

/-- The row of reduced values (R231). -/
def Plan.reduceEnd (p : Plan) (s : State) (c : Cur) (r : Run) : State :=
  let v : RowVal := ⟨rowOf tI32 (r.red.map fun x => x.1.toNat), [], r.red.any (·.2)⟩
  (s.modSlot c.die r.slot fun t => t.modTile p.o.f1 fun x => x.put (eFirst p.o 0) v false).advRun c { r with rw := r.rw + 1 } p.o.na

/-- Rows read one after another. -/
def tileRows (s : State) (d : DieId) (k : SlotId) (code : BitVec 5) (b : Bool) (f : Nat) : Nat → Got (List RowVal)
  | 0 => .ok s []
  | n + 1 => (tileRow s d k code b f).bind fun s v => (tileRows s d k code b (f + 1) n).bind fun s vs => .ok s (v :: vs)

/-- The first row of a group that is empty. -/
def emptyRow (t : Tile) (f n : Nat) : Nat := ((List.range n).find? fun i => !t.isFull (f + i)).getD 0

/-- A group of 32 rows transposed: all read before any is written (R234). -/
def Plan.blockStep (p : Plan) (s : State) (c : Cur) (r : Run) : State :=
  let g := eFirst p.o 1 + r.unit
  let w := fwidth p.o.fmt
  let e := fcount p.o.fmt
  let bad := r.unit + emptyRow ((s.slot c.die r.slot).tile p.o.f2) g 32
  unitDo s c r bad <| (tileRows s c.die r.slot p.o.f2 p.o.b2 g 32).bind fun s vs =>
    let src := vs.map fun v => leNat v.data
    let psn := vs.any (·.psn)
    let out (i : Nat) : RowVal := ⟨rowOf p.o.fmt ((List.range e).map fun j => rowElem w (listGet 0 src (j % 32)) (j / 32 * 32 + i)), [], psn⟩
    .ok (s.modSlot c.die r.slot fun t => t.modTile p.o.f1 fun x => (List.range 32).foldl (fun x i => x.put (eFirst p.o 0 + r.unit + i) (out i) false) x)
      { r with unit := r.unit + 32, rw := r.rw + 32 }

/-- Source rows that destination row i draws on: the first, and how many. -/
def Plan.draws (p : Plan) (r : Run) (i : Nat) : Nat × Nat :=
  let ed := fcount p.out
  let es := fcount r.src
  (i * ed / es, if ed ≤ es then 1 else ed / es)

/-- A row of the flattened sequence: rows of a port are popped one by one as they come (R236). -/
def Plan.flatStep (p : Plan) (s : State) (c : Cur) (r : Run) : State :=
  let q := p.draws r r.unit
  let fin (s : State) (r : Run) (vs : List RowVal) (buf : List RowVal) : Got Run :=
    let all : RowVal := ⟨vs.flatMap (·.data), vs.flatMap (·.side), vs.any (·.psn)⟩
    let x := p.row r r.unit all noRow noRow
    (dstPut s c r p.o.f1 (eFirst p.o 0 + r.unit) ⟨x.data, x.side, all.psn⟩ p.sc r.unit).bind fun s _ =>
      .ok s { r with unit := r.unit + 1, rw := r.rw + 1, flags := r.flags ||| x.fl, buf := buf }
  if isTile p.o.f2 then
    unitDo s c r r.unit <| (tileRows s c.die r.slot p.o.f2 p.o.b2 (eFirst p.o 1 + q.1) q.2).bind fun s vs => fin s r vs []
  else
    let ed := fcount p.out
    let es := fcount r.src
    let need := if ed ≤ es then 1 else q.2
    if r.buf.length < need then
      unitDo s c r r.unit <| (portRow s c.die r.slot .are p.o.f2 p.o.b2).bind fun s v => .ok s { r with buf := r.buf ++ [v] }
    else
      let keep := decide (ed < es) && ((r.unit + 1) * ed % es != 0)
      unitDo s c r r.unit (fin s r r.buf (if keep then r.buf else []))

/-- One step of an arithmetic instruction: its start, a row, or its end. -/
def Plan.step (p : Plan) (s : State) (c : Cur) (r : Run) : State :=
  if !r.started then unitDo s c r 0 (p.begin s c r)
  else if r.unit < p.n then
    match p.scheme with
    | .rows => p.rowStep s c r
    | .reduce q => p.reduceStep q s c r
    | .blocks => p.blockStep s c r
    | .flat => p.flatStep s c r
  else match p.scheme with
    | .reduce false => p.reduceEnd s c r
    | _ => s.advRun c r p.o.na

/-- Tile rows that the next row step reads, for the errors of R386. -/
def Plan.touches (p : Plan) (r : Run) (t : Fin 16) (row : Nat) : Bool :=
  let at_ (code : BitVec 5) (lo n : Nat) : Bool := isTile code && tidx code == t && decide (lo ≤ row) && decide (row < lo + n)
  match p.scheme with
  | .blocks => at_ p.o.f2 (eFirst p.o 1 + r.unit) 32
  | .flat => let q := p.draws r r.unit; at_ p.o.f2 (eFirst p.o 1 + q.1) q.2
  | _ =>
    (p.s2.isSome && at_ p.o.f2 (eFirst p.o 1 + if p.one2 then 0 else r.unit) 1)
      || (p.s3.isSome && at_ p.o.f3 (eFirst p.o 2 + if p.one3 then 0 else r.unit) 1)
      || (p.s4.isSome && at_ (eMod p.o).oc (eFirst p.o 3 + r.unit) 1)

/-- Does a row step read tile rows at all? -/
def Plan.readsSram (p : Plan) : Bool :=
  (p.s2.isSome && isTile p.o.f2) || (p.s3.isSome && isTile p.o.f3) || p.s4.isSome ||
    match p.scheme with | .rows => false | _ => isTile p.o.f2

/-! ## Row functions -/

/-- A row of elements from a function of the element number. -/
def elems (t : Tag) (f : Nat → Nat × Flg) : RowOut :=
  let es := (List.range (fcount t)).map f
  ⟨rowOf t (es.map (·.1)), [], es.foldl (fun a e => a ||| e.2) 0⟩
def plain (bs : List Byte) : RowOut := ⟨bs, [], 0⟩
def code (t : Tag) (v : RowVal) (j : Nat) : Nat := rowElem (fwidth t) (leNat v.data) j

/-- A rounded element with the flags its operation raised. -/
def rndElem (r : Run) (o : EOp) (j : Nat) (x : Val × Flg) : Nat × Flg :=
  let m := eMod o
  let y := roundVal o.fmt m.rnd m.sat (r.draw o j) x.1
  (y.1, y.2 ||| x.2)

/-- `add`, `sub`, `mul` (R226). -/
def rowBin (o : EOp) (fp : BitVec 3 → Val → Val → Val × Flg) (int : Int → Int → Int) (r : Run) (_ : Nat) (a b _ : RowVal) : RowOut :=
  let w := fwidth o.fmt
  elems o.fmt fun j =>
    let x := code o.fmt a j
    let y := code o.fmt b j
    if fmtINT o.fmt then (fitInt w (eMod o).sat (int (sInt w x) (sInt w y)), 0)
    else rndElem r o j (fp (eMod o).rnd (decodeElem o.fmt x) (decodeElem o.fmt y))

def planBin (o : EOp) (f : Run → Nat → RowVal → RowVal → RowVal → RowOut) (out : Tag) : Plan :=
  { o := o, n := eCount o 0, s2 := some o.fmt, s3 := some o.fmt, one3 := (eMod o).bc, out := out, row := f }
def planUn (o : EOp) (f : Run → Nat → RowVal → RowVal → RowVal → RowOut) : Plan :=
  { o := o, n := eCount o 0, s2 := some o.fmt, out := o.fmt, row := f }

def planAdd (o : EOp) : Plan := planBin o (rowBin o fpAdd (· + ·)) o.fmt
def planSub (o : EOp) : Plan := planBin o (rowBin o (fun m a b => fpAdd m a b.neg) (· - ·)) o.fmt
def planMul (o : EOp) : Plan := planBin o (rowBin o (fun _ a b => fpMul a b) (· * ·)) o.fmt
def planFma (o : EOp) : Plan :=
  { planBin o (fun r _ a b c => elems o.fmt fun j =>
      let v (x : RowVal) : Val := decodeElem o.fmt (code o.fmt x j)
      rndElem r o j (fpFma (eMod o).rnd (v a) (v b) (v c))) o.fmt with s4 := some o.fmt }

/-- `min`, `max` (R227). -/
def rowPick (o : EOp) (fp : Val → Val → Val) (int : Int → Int → Int) (_ : Run) (_ : Nat) (a b _ : RowVal) : RowOut :=
  let w := fwidth o.fmt
  elems o.fmt fun j =>
    let x := code o.fmt a j
    let y := code o.fmt b j
    if fmtINT o.fmt then (fitInt w false (int (sInt w x) (sInt w y)), 0)
    else ((roundVal o.fmt 0 false 0 (fp (decodeElem o.fmt x) (decodeElem o.fmt y))).1, 0)
def planMin (o : EOp) : Plan := planBin o (rowPick o Val.min Min.min) o.fmt
def planMax (o : EOp) : Plan := planBin o (rowPick o Val.max Max.max) o.fmt

/-- `abs`, `neg` (R227). -/
def rowSign (o : EOp) (fp : Val → Val) (int : Int → Int) (_ : Run) (_ : Nat) (a _ _ : RowVal) : RowOut :=
  let w := fwidth o.fmt
  elems o.fmt fun j =>
    let x := code o.fmt a j
    if fmtINT o.fmt then (fitInt w (eMod o).sat (int (sInt w x)), 0) else ((roundVal o.fmt 0 false 0 (fp (decodeElem o.fmt x))).1, 0)
def planAbs (o : EOp) : Plan := planUn o (rowSign o Val.abs fun v => (v.natAbs : Int))
def planNeg (o : EOp) : Plan := planUn o (rowSign o Val.neg fun v => -v)

/-- `exp2`, `log2`, `rcp`, `rsq`, `tanh` (R228). -/
def planFn (fn : Nat) (o : EOp) : Plan :=
  planUn o fun r _ a _ _ => elems o.fmt fun j => elemFn fn o.fmt (eMod o).rnd (eMod o).sat (r.draw o j) (decodeElem o.fmt (code o.fmt a j))

/-- `cmp` (R229): bit j, and zeros above the elements. -/
def planCmp (o : EOp) : Plan :=
  planBin o (fun _ _ a b _ =>
    let bit (j : Nat) : Nat :=
      if j < fcount o.fmt && cmpCond (eMod o).min3.toNat (decodeElem o.fmt (code o.fmt a j)) (decodeElem o.fmt (code o.fmt b j)) then 1 else 0
    plain (natLe 512 (packElems 1 ((List.range (fcount o.fmt)).map bit)))) tBIT

/-- `sel` (R230). -/
def planSel (o : EOp) : Plan :=
  { planBin o (fun _ _ a b m => elems o.fmt fun j => (if rowElem 1 (leNat m.data) j = 1 then code o.fmt a j else code o.fmt b j, 0)) o.fmt with s4 := some tBIT }

/-- The value of a reduced row (R231). -/
def reduceVal (op : Nat) (o : EOp) (draw : W32) (a : RowVal) : W32 × Flg :=
  let m := eMod o
  let es := (List.range (fcount o.fmt)).map fun j => code o.fmt a j
  if fmtINT o.fmt then
    let vs := es.map (sInt (fwidth o.fmt))
    let v : Int := match op with
      | 0 => vs.foldl (· + ·) 0
      | 1 => vs.foldl Max.max (vs.headD 0)
      | 2 => vs.foldl Min.min (vs.headD 0)
      | _ => (vs.map fun v => (v.natAbs : Int)).foldl Max.max 0
    (BitVec.ofNat 32 (fitInt 32 m.sat v), 0)
  else
    let vs := es.map (decodeElem o.fmt)
    let rnd (x : Val × Flg) : W32 × Flg := let y := roundVal tFP32 m.rnd m.sat draw x.1; (BitVec.ofNat 32 y.1, y.2 ||| x.2)
    let ex (v : Val) : W32 × Flg := (toFp32 v, 0)
    match op with
    | 0 => rnd (sumVals (m.rnd == 3) vs)
    | 1 => ex (vs.foldl Val.max (vs.headD .nan))
    | 2 => ex (vs.foldl Val.min (vs.headD .nan))
    | 3 => rnd (sumVals (m.rnd == 3) (vs.map fun v => v.mul v))
    | _ => let ws := vs.map Val.abs; ex (ws.foldl Val.max (ws.headD .nan))

/-- `red` and `redq`: the draw is that of the row the values go to, element i, or of the push (R225). -/
def planRed (op : Nat) (q : Bool) (o : EOp) : Plan :=
  { o := o, scheme := .reduce q, n := eCount o 1, s2 := some o.fmt, out := if fmtINT o.fmt then tI32 else tFP32
    row := fun r i a _ _ => let v := reduceVal op o (r.draw o (if q then 0 else i)) a; ⟨natLe 4 v.1.toNat, [], v.2⟩ }

/-- `bcast` (R232). -/
def planBcastRow (o : EOp) : Plan := { planUn o (fun _ _ a _ _ => plain a.data) with one2 := true }
def planBcastElem (o : EOp) : Plan :=
  planUn o fun r _ a _ _ => let k := (r.par o.f3).toNat % fcount o.fmt; elems o.fmt fun _ => (code o.fmt a k, 0)
def planBcastScal (o : EOp) : Plan :=
  { o := o, n := eCount o 0, out := o.fmt, row := fun r _ _ _ _ => elems o.fmt fun _ => ((r.par o.f3).toNat % 2 ^ fwidth o.fmt, 0) }

/-- `iota` (R233). -/
def planIota (o : EOp) : Plan :=
  { o := o, n := eCount o 0, out := o.fmt
    row := fun r i _ _ _ => elems o.fmt fun j =>
      let v : Int := (r.par o.f2 + BitVec.ofNat 64 (i * fcount o.fmt + j) * r.par o.f3).toInt
      if fmtINT o.fmt then (fitInt (fwidth o.fmt) (eMod o).sat v, 0) else rndElem r o j (.ofInt v, 0) }

/-- `trn` (R234). -/
def planTrn (o : EOp) : Plan := { planUn o (fun _ _ a _ _ => plain a.data) with scheme := .blocks }

/-- `shuf` (R235). -/
def planPerm (o : EOp) : Plan :=
  { planUn o (fun _ _ a x _ => elems o.fmt fun j => (code o.fmt a (rowElem 16 (leNat x.data) j % fcount o.fmt), 0)) with idx := true }
def planRot (o : EOp) : Plan :=
  planUn o fun r _ a _ _ => let e := fcount o.fmt; elems o.fmt fun j => (code o.fmt a ((j + (r.par o.f3).toNat % e) % e), 0)
def planRev (o : EOp) : Plan := planUn o fun _ _ a _ _ => elems o.fmt fun j => (code o.fmt a (fcount o.fmt - 1 - j), 0)

/-- Element k of the source rows drawn on: those of destination row i begin at i E_d mod E_s (R236). -/
def flatAt (p r : Tag) (i j : Nat) : Nat := (i * fcount p) % fcount r + j

/-- Codes and scales of the rows drawn on, end to end. -/
def flatVal (src : Tag) (a : RowVal) (k : Nat) : Val :=
  let e := fcount src
  valueAt src (leNat (slice a.data (512 * (k / e)) 512)) (leNat (slice a.side (192 * (k / e)) 192)) (k % e)
def flatCode (src : Tag) (a : RowVal) (k : Nat) : Nat := rowElem (fwidth src) (leNat a.data) k

/-- `cvt` (R237). -/
def planCvt (o : EOp) : Plan :=
  { o := o, scheme := .flat, n := eCount o 0, out := o.fmt, acc := fun t => fmtNUM t && t != o.fmt
    row := fun r i a _ _ => elems o.fmt fun j =>
      convert r.src o.fmt (eMod o).rnd (eMod o).sat (r.draw o j) (flatCode r.src a (flatAt o.fmt r.src i j)) }

/-- `qnt` (R238): blocks of 32, their scales in entries 0 on, zeros above (R68). -/
def planQnt (o : EOp) : Plan :=
  { o := o, scheme := .flat, n := eCount o 0, out := o.fmt, sc := true, acc := fmtFP
    row := fun r i a _ _ =>
      let bs := (List.range (fcount o.fmt / 32)).map fun b =>
        quantBlock o.fmt ((List.range 32).map fun j => decodeElem r.src (flatCode r.src a (flatAt o.fmt r.src i (32 * b + j))))
      ⟨rowOf o.fmt (bs.flatMap fun b => b.2.1), natLe 192 (packElems 24 (bs.map fun b => b.1)), bs.foldl (fun f b => f ||| b.2.2) 0⟩ }

/-- `dqt` (R239). -/
def planDqt (o : EOp) : Plan :=
  { o := o, scheme := .flat, n := eCount o 0, out := o.fmt, acc := fmtQ
    row := fun r i a _ _ => elems o.fmt fun j => rndElem r o j (flatVal r.src a (flatAt o.fmt r.src i j), 0) }

/-- `and`, `or`, `xor`, `not` (R240). -/
def rowBits (f : Byte → Byte → Byte) (_ : Run) (_ : Nat) (a b _ : RowVal) : RowOut := plain (List.zipWith f a.data b.data)
def planBits (o : EOp) (f : Byte → Byte → Byte) : Plan := planBin o (rowBits f) o.fmt
def planNot (o : EOp) : Plan := planUn o fun _ _ a _ _ => plain (a.data.map fun b => ~~~ b)

/-- `shl`, `shr`, `sra` (R241). -/
def shiftCode (op : Nat) (w x s : Nat) : Nat :=
  match op with
  | 0 => x * 2 ^ s % 2 ^ w
  | 1 => x / 2 ^ s
  | _ => fitInt w false (sInt w x / (2 ^ s : Nat))
def planShift (op : Nat) (o : EOp) : Plan :=
  let w := fwidth o.fmt
  let par := (eMod o).min3 == 1
  let f : Run → Nat → RowVal → RowVal → RowVal → RowOut := fun r _ a b _ =>
    elems o.fmt fun j => (shiftCode op w (code o.fmt a j) ((if par then (r.par o.f3).toNat else code o.fmt b j) % w), 0)
  if par then planUn o f else planBin o f o.fmt

/-- `mov` (R242). -/
def planMov (o : EOp) : Plan := { planUn o (fun _ _ a _ _ => ⟨a.data, cutSide o.fmt a.side, 0⟩) with sc := fscaled o.fmt }

/-! ## The instructions -/

def areDo (p : Plan) (s : State) : Out := engDo (fun s c r => p.step s c r) s

def execAreAdd (o : EOp) (s : State) : Out := areDo (planAdd o) s
def execAreSub (o : EOp) (s : State) : Out := areDo (planSub o) s
def execAreMul (o : EOp) (s : State) : Out := areDo (planMul o) s
def execFma (o : EOp) (s : State) : Out := areDo (planFma o) s
def execAreMin (o : EOp) (s : State) : Out := areDo (planMin o) s
def execAreMax (o : EOp) (s : State) : Out := areDo (planMax o) s
def execAbs (o : EOp) (s : State) : Out := areDo (planAbs o) s
def execNeg (o : EOp) (s : State) : Out := areDo (planNeg o) s
def execExp2 (o : EOp) (s : State) : Out := areDo (planFn 0 o) s
def execLog2 (o : EOp) (s : State) : Out := areDo (planFn 1 o) s
def execRcp (o : EOp) (s : State) : Out := areDo (planFn 2 o) s
def execRsq (o : EOp) (s : State) : Out := areDo (planFn 3 o) s
def execTanh (o : EOp) (s : State) : Out := areDo (planFn 4 o) s
def execAreCmp (o : EOp) (s : State) : Out := areDo (planCmp o) s
def execSel (o : EOp) (s : State) : Out := areDo (planSel o) s
def execRedSum (o : EOp) (s : State) : Out := areDo (planRed 0 false o) s
def execRedMax (o : EOp) (s : State) : Out := areDo (planRed 1 false o) s
def execRedMin (o : EOp) (s : State) : Out := areDo (planRed 2 false o) s
def execRedSsq (o : EOp) (s : State) : Out := areDo (planRed 3 false o) s
def execRedAmax (o : EOp) (s : State) : Out := areDo (planRed 4 false o) s
def execRedqSum (o : EOp) (s : State) : Out := areDo (planRed 0 true o) s
def execRedqMax (o : EOp) (s : State) : Out := areDo (planRed 1 true o) s
def execRedqMin (o : EOp) (s : State) : Out := areDo (planRed 2 true o) s
def execRedqSsq (o : EOp) (s : State) : Out := areDo (planRed 3 true o) s
def execRedqAmax (o : EOp) (s : State) : Out := areDo (planRed 4 true o) s
def execBcastRow (o : EOp) (s : State) : Out := areDo (planBcastRow o) s
def execBcastElem (o : EOp) (s : State) : Out := areDo (planBcastElem o) s
def execBcastScal (o : EOp) (s : State) : Out := areDo (planBcastScal o) s
def execIota (o : EOp) (s : State) : Out := areDo (planIota o) s
def execTrn (o : EOp) (s : State) : Out := areDo (planTrn o) s
def execShufPerm (o : EOp) (s : State) : Out := areDo (planPerm o) s
def execShufRot (o : EOp) (s : State) : Out := areDo (planRot o) s
def execShufRev (o : EOp) (s : State) : Out := areDo (planRev o) s
def execCvt (o : EOp) (s : State) : Out := areDo (planCvt o) s
def execQnt (o : EOp) (s : State) : Out := areDo (planQnt o) s
def execDqt (o : EOp) (s : State) : Out := areDo (planDqt o) s
def execAreAnd (o : EOp) (s : State) : Out := areDo (planBits o (· &&& ·)) s
def execAreOr (o : EOp) (s : State) : Out := areDo (planBits o (· ||| ·)) s
def execAreXor (o : EOp) (s : State) : Out := areDo (planBits o (· ^^^ ·)) s
def execNot (o : EOp) (s : State) : Out := areDo (planNot o) s
def execShl (o : EOp) (s : State) : Out := areDo (planShift 0 o) s
def execShr (o : EOp) (s : State) : Out := areDo (planShift 1 o) s
def execAreSra (o : EOp) (s : State) : Out := areDo (planShift 2 o) s
def execMov (o : EOp) (s : State) : Out := areDo (planMov o) s

/-- The layout of an arithmetic word. -/
def arePlan : Instr → Option Plan
  | .areAdd o => some (planAdd o) | .areSub o => some (planSub o) | .areMul o => some (planMul o) | .fma o => some (planFma o)
  | .areMin o => some (planMin o) | .areMax o => some (planMax o) | .abs o => some (planAbs o) | .neg o => some (planNeg o)
  | .exp2 o => some (planFn 0 o) | .log2 o => some (planFn 1 o) | .rcp o => some (planFn 2 o) | .rsq o => some (planFn 3 o) | .tanh o => some (planFn 4 o)
  | .areCmp o => some (planCmp o) | .sel o => some (planSel o)
  | .redSum o => some (planRed 0 false o) | .redMax o => some (planRed 1 false o) | .redMin o => some (planRed 2 false o)
  | .redSsq o => some (planRed 3 false o) | .redAmax o => some (planRed 4 false o)
  | .redqSum o => some (planRed 0 true o) | .redqMax o => some (planRed 1 true o) | .redqMin o => some (planRed 2 true o)
  | .redqSsq o => some (planRed 3 true o) | .redqAmax o => some (planRed 4 true o)
  | .bcastRow o => some (planBcastRow o) | .bcastElem o => some (planBcastElem o) | .bcastScal o => some (planBcastScal o)
  | .iota o => some (planIota o) | .trn o => some (planTrn o) | .shufPerm o => some (planPerm o) | .shufRot o => some (planRot o) | .shufRev o => some (planRev o)
  | .cvt o => some (planCvt o) | .qnt o => some (planQnt o) | .dqt o => some (planDqt o)
  | .areAnd o => some (planBits o (· &&& ·)) | .areOr o => some (planBits o (· ||| ·)) | .areXor o => some (planBits o (· ^^^ ·)) | .not o => some (planNot o)
  | .shl o => some (planShift 0 o) | .shr o => some (planShift 1 o) | .areSra o => some (planShift 2 o) | .mov o => some (planMov o)
  | _ => none

/-- The engine reads the rows for index i and writes destination row i, meeting what the surroundings decide of its SRAM (R223, R386). -/
def execAreRowStep (d : DieId) (k : SlotId) (e : ArrErr) (s : State) : Out :=
  let c : Cur := ⟨d, .eng k .are, 8⟩
  match s.run c with
  | none => .next s
  | some r =>
    match (r.code[r.pos]?).bind fun w => arePlan w.2 with
    | none => .next s
    | some p =>
      if !r.started || p.n ≤ r.unit || !(s.die d).entryGoes c r then .next s
      else
        let read : ArrErr → Bool
          | .tileRow t row => p.touches r t row.val
          | .corrected => p.readsSram
          | _ => false
        .next (withError s c k e read fun s => p.step s c r)

end Sys2Proof.Machine
end

