-- ==== Sys2Proof/Machine/Cpe.lean ====
section
/-! DEFINITION. The copy engine (R267 to R274): copies by chunks, remote writes, multicast; the group table and what the switch does with lines and their answers (R282 to R284, R414). -/

namespace Sys2Proof.Machine

/-! ## Writing a chunk -/

/-- The key of a transfer: contexts of the collective engine share its reads. -/
def Cur.key (c : Cur) (unit : Nat) : Nat := 16 * unit + c.ctx.val

/-- The first poisoned line of a transfer that was read from an address: the line's address (R391). -/
def Asm.badVa (x : Asm) (va : Nat) : Word := BitVec.ofNat 64 (lineVa (va + match x.bad with | [] => 0 | b :: r => r.foldl (fun m q => min m q.1) b.1))

/-- Is any byte of [at, at + n) of a transfer from a poisoned line? -/
def Asm.badIn (x : Asm) (at_ n : Nat) : Bool := x.psn && x.bad.any fun b => b.1 < at_ + n && at_ < b.1 + b.2

/-- Pieces in order, cut where their poison changes. -/
def psnRuns : List (Wr × Bool) → List (List Wr × Bool)
  | [] => []
  | (w, q) :: r =>
    match psnRuns r with
    | (ws, q') :: t => if q == q' then (w :: ws, q) :: t else ([w], q) :: (ws, q') :: t
    | [] => [([w], q)]

/-- An agent as the fabric names it (R281). -/
def State.me (s : State) (c : Cur) : FabSrc := ⟨BitVec.ofNat 12 ((s.die c.die).pkg c.die), c.die, c.ag⟩

/-- A chunk's lines enter the store buffer: as writes, or, for another package, as one fabric write (R109, R124). `bad at n`: poison of bytes of the chunk (R81). -/
def pushChunk (s : State) (c : Cur) (r : Run) (va unit : Nat) (ps : List Piece) (data : List Byte) (bad : Nat → Nat → Bool) : State :=
  let ops : List SbOp :=
    match ps with
    | p@⟨.fab pkg h idx gen off, _, _, _, _⟩ :: _ => [.fab pkg h (.write (s.me c) idx gen off data) p (r.placeIn c unit) r.ent.seq]
    | _ =>
      (psnRuns ((wrsOf ps va data).map fun w => (w, bad (w.p.va - va) w.p.len))).map fun q => .write q.1 q.2 (r.placeIn c unit) r.ent.seq
  s.modAg c.die c.ag fun a => { a with sb := a.sb ++ ops }

/-- Every write of the agent has been applied at its home (R119). -/
def State.settled (s : State) (d : DieId) (a : Agent) : Bool :=
  let x := s.ag d a
  x.sb.isEmpty && x.pend.isEmpty && !((s.die d).held.any fun h => h.ag == a && h.src == d)

/-! ## Copies (R267 to R271, R274) -/

/-- A copy laid out: rows of `rb` bytes, bases and strides, the pattern of `fill`, the memory types, and whether it writes through a remote window. -/
structure CopyPlan where
  rows : Nat
  rb : Nat
  dst : Word
  src : Word
  ds : Int
  ss : Int
  pat : Option Word
  smt : List Nat
  dmt : List Nat
  remote : Bool
  deriving DecidableEq, Repr

def Run.lenPar (r : Run) (f : BitVec 5) : Nat := fld (r.par f) 0 40

/-- The layout of a copy word, with the field that holds its length and semaphore request. -/
def copyPlan (r : Run) : Instr → Option (CopyPlan × COp)
  | .copy o => some (⟨1, r.lenPar o.f3, r.par o.f1, r.par o.f2, 0, 0, none, [0, 1, 2], [0, 1, 2], false⟩, o)
  | .copy2d o =>
    let g := r.par o.f3
    let h := r.parN (o.f3.toNat + 1)
    some (⟨fld g 24 24, fld g 0 24, r.par o.f1, r.par o.f2, sInt 32 (fld h 0 32), sInt 32 (fld h 32 32), none, [0, 1, 2], [0, 1, 2], false⟩, o)
  | .fill o => some (⟨1, r.lenPar o.f3, r.par o.f1, 0, 0, 0, some (r.par o.f2), [], [0, 1, 2], false⟩, o)
  | .rwrite o => some (⟨1, r.lenPar o.f3, r.par o.f1, r.par o.f2, 0, 0, none, [0, 1], [2, 3], true⟩, o)
  | _ => none

/-- Reserved bits of the length and semaphore request (R267, R268). -/
def reqBad (twoD : Bool) (w : Word) : Bool := fld w 56 7 != 0 || (!twoD && fld w 40 8 != 0)
def reqSe (w : Word) : Bool := bitAt w 63
def reqSlot (w : Word) : SlotId := mkSlot (fld w 53 3)
def reqSem (w : Word) : Fin 32 := ⟨fld w 48 5 % 32, Nat.mod_lt _ (by decide)⟩

/-- The first address of a copy that is no multiple of 16 (R269). -/
def CopyPlan.misaligned (p : CopyPlan) : Option Word :=
  if p.dst.toNat % 16 != 0 then some p.dst
  else if p.src.toNat % 16 != 0 then some p.src
  else if p.rb % 16 != 0 || p.ds % 16 != 0 || p.ss % 16 != 0 then some 0
  else none

/-- The increment at completion: on the executing die, or on the die a remote window names (R270, R271). -/
def remoteInc (c : Cur) (src : FabSrc) (p : Piece) (req : Word) (r : Run) : List SbOp :=
  match p.loc with
  | .peer h .. => [.seminc h (reqSlot req) (reqSem req)]
  | .fab pkg h .. => [.fab pkg h (.sem src (reqSlot req) (reqSem req)) p (r.placeIn c r.unit) r.ent.seq]
  | .here _ => []

/-- A write of no byte, which its home checks like a chunk (R271). -/
def emptyChunk (c : Cur) (src : FabSrc) (p : Piece) (r : Run) : List SbOp :=
  match p.loc with
  | .fab pkg h idx gen off => [.fab pkg h (.write src idx gen off []) p (r.placeIn c 0) r.ent.seq]
  | _ => [.write [⟨p, []⟩] false (r.placeIn c 0) r.ent.seq]

/-- The end of a copy: its increment, and its completion (R270, R271). `part` 2: the increment has been asked for. -/
def copyEnd (s : State) (c : Cur) (r : Run) (p : CopyPlan) (o : COp) : State :=
  let req := r.par o.f3
  let push (s : State) (ops : List SbOp) : State := s.modAg c.die c.ag fun a => { a with sb := a.sb ++ ops }
  if !p.remote then
    if !s.settled c.die c.ag then s
    else if reqSe req && r.part != 2 then (push s [.seminc c.die (reqSlot req) (reqSem req)]).setRun c { r with part := 2 }
    else s.advRun c r o.na
  else if r.part = 2 || !reqSe req then
    if s.settled c.die c.ag then s.advRun c r o.na else s
  else
    match access c.die (s.die c.die) ((s.die c.die).whoRun c r) p.dst.toNat 0 ⟨p.dmt, false, true⟩ with
    | .wait y => s.modDie c.die fun _ => y
    | .fault y code a => runFault (s.modDie c.die fun _ => y) c r code (BitVec.ofNat 64 a) 0 0
    | .ok y q =>
      let s := s.modDie c.die fun _ => y
      (push s ((if p.rb = 0 then emptyChunk c (s.me c) q r else []) ++ remoteInc c (s.me c) q req r)).setRun c { r with part := 2 }

/-- A chunk's fault: the unit begins again after `CONT`. -/
def chunkFault (s : State) (c : Cur) (r : Run) (code : Nat) (addr : Word) : State :=
  runFault (s.modAg c.die c.ag (·.dropAsm (c.key r.unit))) c r code addr r.unit 0

/-- One step of the chunk at hand: its reads, then its writes. `mSent` and `mAck` hold the row and the offset in it. -/
def chunkStep (s : State) (c : Cur) (r : Run) (p : CopyPlan) : State :=
  let w := (s.die c.die).whoRun c r
  let da := addrAt p.dst (r.mSent * p.ds + r.mAck)
  let sa := addrAt p.src (r.mSent * p.ss + r.mAck)
  let n := min (p.rb - r.mAck) (4096 - da % 4096)
  let next : Run :=
    if r.mAck + n = p.rb then { r with unit := r.unit + 1, mSent := r.mSent + 1, mAck := 0 }
    else { r with unit := r.unit + 1, mAck := r.mAck + n }
  let write (s : State) (data : List Byte) (bad : Nat → Nat → Bool) : State :=
    match accessRow c.die (s.die c.die) w da n ⟨p.dmt, false, true⟩ with
    | .wait y => s.modDie c.die fun _ => y
    | .fault y code a => chunkFault (s.modDie c.die fun _ => y) c r code (BitVec.ofNat 64 a)
    | .ok y ps =>
      let s := s.modDie c.die fun _ => y
      let toFab := ps.any fun q => match q.loc with | .fab .. => true | _ => false
      if toFab && bad 0 n then chunkFault s c r 23 (match (s.ag c.die c.ag).asm.find? (·.key == c.key r.unit) with | some x => x.badVa sa | none => 0)
      else ((pushChunk s c r da r.unit ps data bad).modAg c.die c.ag (·.dropAsm (c.key r.unit))).setRun c next
  match p.pat with
  | some v => write s ((List.range n).map fun i => BitVec.ofNat 8 (v.toNat / 2 ^ (8 * ((r.mAck + i) % 8)))) fun _ _ => false
  | none =>
    match (s.ag c.die c.ag).asm.find? (·.key == c.key r.unit) with
    | none =>
      match accessParts c.die w ⟨p.smt, true, false⟩ (plainPart sa n) (s.die c.die) with
      | .wait y => s.modDie c.die fun _ => y
      | .fault y code a => chunkFault (s.modDie c.die fun _ => y) c r code (BitVec.ofNat 64 a)
      | .ok y qs => issueReads (s.modDie c.die fun _ => y) c r (c.key r.unit) r.unit false qs
    | some x => if x.done then write s (x.bytes 0 n) x.badIn else s

/-- One step of a copy: its checks; its chunks; its end. -/
def copyStep (s : State) (c : Cur) (r : Run) (p : CopyPlan) (o : COp) (twoD : Bool) : State :=
  if !r.started then
    match p.misaligned with
    | some a => startFault s c r 19 a
    | none => if reqBad twoD (r.par o.f3) then startFault s c r 25 0 else s.setRun c { r with started := true, mSent := 0, mAck := 0 }
  else if p.rows ≤ r.mSent || p.rb = 0 then copyEnd s c r p o
  else chunkStep s c r p

/-! ## Groups (R282, R283) -/

/-- A group entry. -/
structure Group where
  kind : Nat
  self : Nat
  nmem : Nat
  midx : Nat
  mlist : Nat
  deriving DecidableEq, Repr

/-- The valid entry of a group in the die's table. DESIGN CHOICE (log entry 147; R282 gives them no fate): its reserved bits, bytes 0x10 to 0x1F among them, are ignored. -/
def Die.group (d : Die) (dn : DieId) (g : Nat) : Option Group :=
  if !bitAt (d.getReg dn rGRPBASE) 0 then none
  else
    let a := (d.getReg dn rGRPBASE &&& bits 47 17).toNat + 32 * g
    let w := BitVec.ofNat 64 (d.peekNat a 8)
    if bitAt w 63 then some ⟨fld w 61 2, fld w 32 9, fld w 16 10, fld w 0 16, d.peekNat (a + 8) 8 % 2 ^ 48⟩ else none

/-- May the group be used for lines (`barrier` false) or for barrier messages? -/
def Die.groupFor (d : Die) (dn : DieId) (g : Nat) (barrier : Bool) : Option Group :=
  (d.group dn g).filter fun x => x.kind == 2 || x.kind == (if barrier then 1 else 0)

/-- The handle of member m: export index, generation, die, package. -/
def Die.handle (d : Die) (x : Group) (m : Nat) : Nat × Nat × DieId × Nat :=
  let h := BitVec.ofNat 64 (d.peekNat (x.mlist + 8 * m) 8)
  (fld h 0 12, fld h 32 16, mkDie (fld h 50 2), fld h 52 12)

/-- The members of a group, and which of them the die is, as its entry says (R282, R300). -/
def Die.members (d : Die) (dn : DieId) (g : Nat) : Nat × Option Nat :=
  match d.group dn g with
  | none => (0, none)
  | some x =>
    let h := d.handle x x.self
    (x.nmem, if x.self < x.nmem && h.2.2.1 == dn && h.2.2.2 == d.pkg dn then some x.self else none)

/-! ## Multicast (R272 to R274, R283, R284, R414) -/

/-- The value of R272. -/
def mcastValue (r : Run) : Word :=
  let low := match r.mNak with | [] => 0xFFFF | a :: t => t.foldl min a
  BitVec.ofNat 64 (2 ^ 32 * low + 2 ^ 16 * r.mNak.length + (r.mAll - r.mNak.length))

/-- The negative bitmap. -/
def mcastBitmap (r : Run) : List Byte := natLe 64 (r.mNak.foldl (fun n m => n + 2 ^ m) 0)

/-- The start of `mcast`: alignment and limits, reserved bits, the group (R269, R274). -/
def mcastCheck (s : State) (c : Cur) (r : Run) (o : COp) : Option (Nat × Word) :=
  let len := r.lenPar o.f3
  let off := fld (r.par o.f1) 0 48
  let neg := r.parN (o.f3.toNat + 1)
  if (r.par o.f2).toNat % 128 != 0 then some (19, r.par o.f2)
  else if neg.toNat % 64 != 0 then some (19, neg)
  else if off % 128 != 0 || len % 128 != 0 || len < 128 || 65536 < len then some (19, 0)
  else if reqBad false (r.par o.f3) || fld (r.par o.f1) 60 4 != 0 then some (25, 0)
  else if ((s.die c.die).groupFor c.die (fld (r.par o.f1) 48 12) false).isNone then some (27, 0)
  else none

/-- One step of `mcast`: a chunk of up to 32 lines, cut where its offsets in the members' windows cross 4 KiB (R270), is read and sent, and its answers awaited; then the bitmap, the value, the end. The entry takes a number, which its lines carry. -/
def mcastStep (s : State) (c : Cur) (r : Run) (o : COp) : State :=
  let len := r.lenPar o.f3
  let lines := len / 128
  let req := r.par o.f3
  let grp : BitVec 12 := BitVec.ofNat 12 (fld (r.par o.f1) 48 12)
  let off := fld (r.par o.f1) 0 48
  let w := (s.die c.die).whoRun c r
  if !r.started then
    match mcastCheck s c r o with
    | some f => startFault s c r f.1 f.2
    | none =>
      (s.modAg c.die c.ag fun a => { a with nkey := a.nkey + 1 }).setRun c
        { r with started := true, rw := (s.ag c.die c.ag).nkey, mSent := 0, mAck := 0, mNak := [], mAll := 0, mGrp := (s.die c.die).members c.die grp.toNat }
  else if r.mAck < r.mSent then s
  else if r.mSent < lines then
    let sa := addrAt (r.par o.f2) (128 * r.mSent)
    let n := min (len - 128 * r.mSent) (4096 - (off + 128 * r.mSent) % 4096)
    match (s.ag c.die c.ag).asm.find? (·.key == c.key r.unit) with
    | none =>
      match accessParts c.die w ⟨[0, 1], true, false⟩ (plainPart sa n) (s.die c.die) with
      | .wait y => s.modDie c.die fun _ => y
      | .fault y code a => chunkFault (s.modDie c.die fun _ => y) c r code (BitVec.ofNat 64 a)
      | .ok y qs => issueReads (s.modDie c.die fun _ => y) c r (c.key r.unit) r.unit false qs
    | some x =>
      if !x.done || !s.pairRoom c.die (n / 128) then s
      else if x.badIn 0 n then chunkFault s c r 23 (x.badVa sa)
      else
        let out := (List.range (n / 128)).map fun i =>
          NftOut.line (s.me c) grp (off + 128 * (r.mSent + i)) (x.bytes (128 * i) 128) (r.mSent + i + 1 == lines) (reqSe req) (reqSlot req) (reqSem req) r.rw
        let s := (s.modAg c.die c.ag (·.dropAsm (c.key r.unit))).pairStores c.die c.ag
          ((List.range (n / 128)).map fun i => ⟨(20000, grp.toNat, 0), off + 128 * (r.mSent + i), x.bytes (128 * i) 128, 128⟩)
        let s := if s.muted c.die then s else s.modDie c.die fun d => out.foldl (fun d m => d.toFabric c.die m) d
        s.setRun c { r with mSent := r.mSent + n / 128, unit := r.unit + 1 }
  else
    let neg := r.parN (o.f3.toNat + 1)
    if neg != 0 && r.part != 2 then
      match accessRow c.die (s.die c.die) w neg.toNat 64 ⟨[0, 1], false, true⟩ with
      | .wait y => s.modDie c.die fun _ => y
      | .fault y code a => runFault (s.modDie c.die fun _ => y) c r code (BitVec.ofNat 64 a) r.unit 0
      | .ok y ps => (pushChunk (s.modDie c.die fun _ => y) c r neg.toNat r.unit ps (mcastBitmap r) fun _ _ => false).setRun c { r with part := 2 }
    else match rqPush s c r.slot 3 (mcastValue r) false with
      | .ok s _ => s.advRun c r o.na
      | _ => s

def copyDo (i : Instr) (s : State) : Out :=
  engDo (fun s c r => match copyPlan r i with
    | some p => copyStep s c r p.1 p.2 (match i with | .copy2d _ => true | _ => false)
    | none => s) s

def execCopy (o : COp) (s : State) : Out := copyDo (.copy o) s
def execCopy2d (o : COp) (s : State) : Out := copyDo (.copy2d o) s
def execFill (o : COp) (s : State) : Out := copyDo (.fill o) s
def execRwrite (o : COp) (s : State) : Out := copyDo (.rwrite o) s
def execMcast (o : COp) (s : State) : Out := engDo (fun s c r => mcastStep s c r o) s

/-! ## Events -/

/-- The copy engine takes a line of the chunk it reads, or the next step of its chunk (R270). -/
def execCopyChunk (d : DieId) (k : ClusterId) (e : StoreErr) (s : State) : Out :=
  let c : Cur := ⟨d, .copy k, 8⟩
  match s.run c with
  | none => .next s
  | some r =>
    if !(s.ag d (.copy k)).rd.isEmpty then .next (readStep s d (.copy k) e)
    else if !r.started || !(s.die d).entryGoes c r then .next s
    else match r.code[r.pos]? with
    | some (_, .mcast o) => .next (mcastStep s c r o)
    | some (_, i) =>
      match copyPlan r i with
      | some p => .next (copyStep s c r p.1 p.2 (match i with | .copy2d _ => true | _ => false))
      | none => .next s
    | none => .next s

/-! ## The fabric's ports (R280, R412) -/

/-- The first enabled port from `f` on. -/
def Die.enabledFrom (d : Die) (dn : DieId) (f : Nat) : Option Nat := ([f % 3, (f + 1) % 3, (f + 2) % 3].find? fun p => d.rf dn rNFTCFG p 1 = 1)

/-- The port a stream uses: port (PKG + DIE) mod 3 of the destination, or the one it has moved to. -/
def Die.portOf (d : Die) (dn : DieId) (pkg : BitVec 12) (die : DieId) : Option Nat :=
  match d.coe.moved.find? fun m => m.1 == pkg && m.2.1 == die && d.rf dn rNFTCFG m.2.2 1 == 1 with
  | some m => some m.2.2
  | none => d.enabledFrom dn (pkg.toNat + die.val)

/-- Does a message find a port? The stream to the switch takes any enabled one (DESIGN CHOICE, log entry 124: R280 gives the rule for a destination die only). -/
def Die.leaves (d : Die) (dn : DieId) (m : NftOut) : Bool :=
  (match m.dest with | some p => d.portOf dn p.1 p.2 | none => d.enabledFrom dn 0).isSome

/-- The fabric takes the oldest request of the die, or the oldest response (`resp`), which never waits behind a request; nothing leaves while no port is enabled (R280, R281). -/
def fabricTake (s : State) (d : DieId) (resp : Bool) : State :=
  s.modDie d fun y =>
    let leaves (q : List NftOut) : Bool := match q with | m :: _ => y.leaves d m | [] => false
    if resp then (if leaves y.coe.outR then { y with coe := { y.coe with outR := y.coe.outR.drop 1 } } else y)
    else if leaves y.coe.out then { y with coe := { y.coe with out := y.coe.out.drop 1 } } else y

/-- The oldest request of the die, a multicast line or barrier message among them, leaves for the switch (R283). -/
def execSwitchReplicate (d : DieId) (s : State) : Out := .next (fabricTake s d false)

/-- What a member notes of a line: a refusal until the entry's last line, and its answer to the switch (R272, R284). Lines of entries that a pre-emption has interleaved are told apart by their numbers. -/
def Coll.answer (c : Coll) (m : McLine) (ok : Bool) : Coll :=
  let key := (m.grp, m.src, m.id)
  { c with
    mcRef := if m.last then c.mcRef.filter (· != key) else if ok || c.mcRef.contains key then c.mcRef else c.mcRef ++ [key]
    outR := c.outR ++ [.mcAck m.grp m.src ok] }

/-- A line reaches a member: its group entry and its own export are checked, and the line is applied or refused. With `SE`, the last line of an entry all of whose lines were accepted is followed by the increment (R272, R283). The sender's own die is no destination (R300). -/
def execMcastLineArrival (d : DieId) (m : McLine) (s : State) : Out :=
  let y := s.die d
  if m.src.die == d && m.src.pkg.toNat == y.pkg d then .next s
  else
    let refuse : State := s.modDie d fun y => { y with coe := y.coe.answer m false }
    match y.groupFor d m.grp.toNat false with
    | none => .next refuse
    | some g =>
      let h := y.handle g g.self
      match y.exportAddr d h.1 h.2.1 m.off m.data.length 1 true with
      | .error _ => .next refuse
      | .ok pa =>
        -- outside the physical map (R85; log entry 122)
        if !isMem pa m.data.length then .next refuse else
        let s := (s.fabWrite d m.src pa m.data 0).1
        let inc := m.last && m.se && !(s.die d).coe.mcRef.contains (m.grp, m.src, m.id)
        let s :=
          if !inc then s
          else if (s.die d).behind m.src.ag m.src.die (some m.src) then s.modDie d fun y => y.hold d m.src.ag m.src.die (.seminc d m.sslot m.sem) 0 (some m.src)
          else s.incSem d m.sslot m.sem 1
        .next (s.modDie d fun y => { y with coe := y.coe.answer m true })

/-- Members added to a set. -/
def unionNat (l r : List Nat) : List Nat := r.foldl setIns l

/-- May member `m` answer a line of the running multicast? The sender's own die is none of them (R300). -/
def Run.isMember (r : Run) (m : Nat) : Bool := decide (m < r.mGrp.1) && r.mGrp.2 != some m
/-- How many members answer. -/
def Run.others (r : Run) : Nat := r.mGrp.1 - (if r.mGrp.2.isSome then 1 else 0)

/-- The aggregated acknowledgement of the oldest unanswered line: how many members accepted, and which refused (R284). -/
def execAggregatedAck (d : DieId) (k : ClusterId) (acc : Nat) (ref : List Nat) (s : State) : Out :=
  let c : Cur := ⟨d, .copy k, 8⟩
  match s.run c with
  | none => .next s
  | some r =>
    match r.code[r.pos]? with
    | some (_, .mcast _) =>
      if r.mSent ≤ r.mAck then .next s
      else
        let ref := unionNat [] (ref.filter r.isMember)
        let acc := min acc (r.others - ref.length)
        .next (s.setRun c { r with mAck := r.mAck + 1, mNak := unionNat r.mNak ref, mAll := max r.mAll (acc + ref.length) })
    | _ => .next s

/-- The switch records a member that does not answer, or that it cannot reach, as refusing (R414). -/
def execMcastMemberTimeout (d : DieId) (k : ClusterId) (m : Nat) (s : State) : Out :=
  let c : Cur := ⟨d, .copy k, 8⟩
  match s.run c with
  | none => .next s
  | some r =>
    match r.code[r.pos]? with
    | some (_, .mcast _) => if r.mAck < r.mSent && r.isMember m then .next (s.setRun c { r with mNak := setIns r.mNak m }) else .next s
    | _ => .next s

end Sys2Proof.Machine
end

