-- ==== Sys2Proof/Machine/Coe.lean ====
section
/-! DEFINITION. The collective engine (R285 to R299, R409 to R411): contexts, frames, steps, sends and receives, vector words, task release, barriers. -/

namespace Sys2Proof.Machine

/-! ## Contexts -/

def State.coe (s : State) (d : DieId) : Coll := (s.die d).coe
def State.modCoe (s : State) (d : DieId) (f : Coll → Coll) : State := s.modDie d fun y => { y with coe := f y.coe }
def State.ctx (s : State) (d : DieId) (x : Fin 8) : Option KCtx := vget (s.coe d).ctx x

/-- `KSTAT` of a context (R291). -/
def KCtx.stat (k : KCtx) (run : Bool) : Word :=
  BitVec.ofNat 64 ((if run then 2 ^ 63 else 0) + 2 ^ 32 * (k.step % 65536) + (k.frame + (if k.inFrame then 1 else 0)) % 2 ^ 32)
/-- `KSLIP` of a context (R291, R409). -/
def KCtx.slip (k : KCtx) : Word := BitVec.ofNat 64 (2 ^ 24 * (k.ofs % 2 ^ 40) + 2 ^ 20 * k.cause + min k.nslip (2 ^ 20 - 1))

/-- A context changes: the CSRs of its pushing slot follow, while it is its strand's. -/
def State.setCtx (s : State) (d : DieId) (x : Fin 8) (k : KCtx) : State :=
  let b := (s.die d).ctxBound k
  s.modCoe d fun c => { c with ctx := vset c.ctx x (some k), kstat := if b then vset c.kstat k.slot (k.stat true) else c.kstat, kslip := if b then vset c.kslip k.slot k.slip else c.kslip }

/-- A message handed to the fabric, in the queue of its class (R280, R281). -/
def sendNft (s : State) (d : DieId) (m : NftOut) : State := if s.muted d then s else s.modDie d fun y => y.toFabric d m

/-! ## Slips (R290) -/

/-- A delay of a step: rounded up into O, recorded in the trace, and told to the group. -/
def slipBy (s : State) (d : DieId) (x : Fin 8) (delay cause : Nat) : State :=
  match s.ctx d x with
  | none => s
  | some k =>
    if delay = 0 then s
    else
      let dd := 64 * ((delay + 63) / 64)
      let s := s.setCtx d x { k with ofs := k.ofs + dd, cause := cause, nslip := min (k.nslip + 1) (2 ^ 20 - 1) }
      let s := s.modDie d fun y => (trcRecord d y 1 (natLe 4 (k.step % 65536 + 65536 * cause))).countDie d ((s.die d).whoOwn .coll k.own).asid 39
      sendNft s d (.slip k.grp dd)

/-! ## Waits and their timeout (R290, R297, R410) -/

def State.kwait (s : State) (c : Cur) : Option KWait :=
  match c.ctx? with
  | some x => (s.ctx c.die x).bind (·.wait)
  | none => (s.coe c.die).wait
def State.setKwait (s : State) (c : Cur) (w : Option KWait) : State :=
  match c.ctx? with
  | some x => s.modCoe c.die fun q => { q with ctx := vmod q.ctx x fun k => k.map fun k => { k with wait := w } }
  | none => s.modCoe c.die fun q => { q with wait := w }

/-- A wait goes on, or begins; `on`: its timeout runs. -/
def waitOn (s : State) (c : Cur) (kind : Nat) (on : Bool) : State :=
  match s.kwait c with
  | some _ => s
  | none => s.setKwait c (some ⟨kind, s.tick c.die, 0, on, s.tick c.die⟩)

/-- A wait ends; in a context it is a slip. -/
def waitEnd (s : State) (c : Cur) : State :=
  match s.kwait c with
  | none => s
  | some w =>
    let s := s.setKwait c none
    match c.ctx? with
    | some x => slipBy s c.die x (s.tick c.die - w.since).toNat w.kind
    | none => s

/-! ## Barrier members (R297) -/

def Coll.bar (q : Coll) (grp : BitVec 12) (m : Nat) : BarMem := (q.bars.find? fun b => b.grp == grp && b.m == m).getD ⟨grp, m, 0, false⟩
def Coll.setBar (q : Coll) (b : BarMem) : Coll := { q with bars := b :: q.bars.filter fun x => !(x.grp == b.grp && x.m == b.m) }
def hasGen (b : BarMem) (g : W32) : Bool := !(b.gen - g).msb

/-- The other members of a group. -/
def Group.others (g : Group) : List Nat := (List.range g.nmem).filter (· != g.self)
/-- Members that have not arrived with generation `gen`. -/
def Die.missing (d : Die) (dn : DieId) (grp : BitVec 12) (gen : W32) : List Nat :=
  match d.group dn grp.toNat with
  | some g => g.others.filter fun m => !hasGen (d.coe.bar grp m) gen
  | none => []
/-- Members neither arrived nor absent. -/
def Die.late (d : Die) (dn : DieId) (grp : BitVec 12) (gen : W32) : List Nat := (d.missing dn grp gen).filter fun m => !(d.coe.bar grp m).absent

/-- The generations a cursor uses. -/
def State.gens (s : State) (c : Cur) : Sparse W32 :=
  match c.ctx? with
  | some x => match s.ctx c.die x with | some k => k.gens | none => []
  | none => (s.coe c.die).gens
def State.setGen (s : State) (c : Cur) (grp : BitVec 12) (g : W32) : State :=
  match c.ctx? with
  | some x => s.modCoe c.die fun q => { q with ctx := vmod q.ctx x fun k => k.map fun k => { k with gens := spSet 0 k.gens grp.toNat g } }
  | none => s.modCoe c.die fun q => { q with gens := spSet 0 q.gens grp.toNat g }

/-- The timeout of a wait runs or is suspended. -/
def KWait.retime (w : KWait) (on : Bool) (now : Word) : KWait :=
  if w.on && !on then { w with on := false, ran := w.ran + (now - w.from_).toNat }
  else if !w.on && on then { w with on := true, from_ := now }
  else w

/-- The group of the `kbar` a run is at. -/
def barGroup (r : Run) : Option (BitVec 12) :=
  match r.code[r.pos]? with
  | some (_, .kbar o) => some (BitVec.ofNat 12 (r.par o.f1).toNat)
  | _ => none

def allCtx : List (Fin 9) := [0, 1, 2, 3, 4, 5, 6, 7, 8]

/-- After a barrier message, every waiting `kbar` of the group sets its timeout anew. -/
def retimeBars (s : State) (d : DieId) (grp : BitVec 12) : State :=
  allCtx.foldl (fun s x =>
    let c : Cur := ⟨d, .coll, x⟩
    match s.run c, s.kwait c with
    | some r, some w =>
      if barGroup r == some grp then s.setKwait c (some (w.retime (r.part == 2 && !((s.die d).late d grp (spGet 0 (s.gens c) grp.toNat)).isEmpty) (s.tick d))) else s
    | _, _ => s) s

/-! ## Timetables (R163, R288) -/

/-- Memory read whole in one step under the pushing strand's process (R107): unpoisoned, of `MT` 0. R288 says so of the frame descriptor; that timetables and task lists, too, must lie in `MT` 0, or raise code 21, is the model's choice (DESIGN CHOICE, log entry 144; R163 does not say). -/
def coeRead (s : State) (c : Cur) (w : Who) (va n : Nat) : XRes (List Byte) :=
  let d := s.die c.die
  if !d.coe.ag.sb.isEmpty then .wait d
  else match accessRow c.die d w va n ⟨[0], true, false⟩ with
  | .wait d => .wait d
  | .fault d x a => .fault d x a
  | .ok d ps =>
    if !d.gateOk c.die then .wait d
    else match ps.find? fun p => match p.loc with | .here pa => d.poisoned pa p.len | _ => true with
    | some p => .fault d 23 p.va
    | none => .ok d (ps.flatMap fun p => match p.loc with | .here pa => d.peek pa p.len | _ => [])

/-- A timetable: frame length, steps, the next timetable. -/
structure TTab where
  flog2 : Nat
  next : Nat
  steps : List KStep
  deriving DecidableEq, Repr

def parseHead (bs : List Byte) : Option (Nat × Nat × Nat) :=
  let w (i : Nat) : Word := leWord (slice bs (8 * i) 8)
  let f := fld (w 0) 0 6
  let n := fld (w 0) 16 16
  if fld (w 0) 6 10 == 0 && fld (w 0) 32 32 == 0 && fld (w 1) 52 12 == 0 && (bs.drop 16).all (· == 0) && 10 ≤ f && f ≤ 40 && 1 ≤ n
  then some (f, n, fld (w 1) 0 52) else none
def parseStep (bs : List Byte) : Option KStep :=
  let w (i : Nat) : Word := leWord (slice bs (8 * i) 8)
  if fld (w 0) 40 24 == 0 && fld (w 1) 52 12 == 0 && fld (w 2) 52 12 == 0 && fld (w 3) 16 48 == 0
  then some ⟨fld (w 0) 0 40, w 1, fld (w 2) 0 52, fld (w 3) 0 16⟩ else none

/-- The steps are in order and below the frame's length. -/
def stepsOk (lim : Nat) : Nat → List KStep → Bool
  | _, [] => true
  | t, k :: r => t ≤ k.trel && k.trel < lim && stepsOk lim k.trel r

/-- A timetable read at an address: a wait, a fault, or a timetable that breaks R163 (code 26). -/
def readTable (s : State) (c : Cur) (w : Who) (tt : Nat) : XRes TTab :=
  match coeRead s c w tt 64 with
  | .wait d => .wait d
  | .fault d x a => .fault d x a
  | .ok d h =>
    match parseHead h with
    | none => .fault d 26 0
    | some q =>
      match coeRead (s.modDie c.die fun _ => d) c w (tt + 64) (32 * q.2.1) with
      | .wait d => .wait d
      | .fault d x a => .fault d x a
      | .ok d bs =>
        let ks := (List.range q.2.1).filterMap fun i => parseStep (slice bs (32 * i) 32)
        if ks.length == q.2.1 && stepsOk (2 ^ q.1) 0 ks then .ok d ⟨q.1, q.2.2, ks⟩ else .fault d 26 0

/-- The timetables of a round, from one address on, each held to R163 (R299): the chain ends at 0, or where it comes back. -/
def chainCheck (s : State) (c : Cur) (w : Who) : Nat → List Nat → Nat → Die → XRes Unit
  | 0, _, _, d => .ok d ()
  | n + 1, seen, tt, d =>
    if tt = 0 || seen.contains tt then .ok d ()
    else match readTable (s.modDie c.die fun _ => d) c w tt with
    | .wait d => .wait d
    | .fault d x a => .fault d x a
    | .ok d t => chainCheck s c w n (tt :: seen) t.next d

/-- The frame descriptor of R288. -/
structure FDesc where
  tt : Nat
  t0 : Nat
  grp : BitVec 12
  nr : Nat
  deriving DecidableEq, Repr

def parseDesc (bs : List Byte) : Option FDesc :=
  let w (i : Nat) : Word := leWord (slice bs (8 * i) 8)
  if fld (w 0) 52 12 == 0 && fld (w 2) 44 20 == 0 && (bs.drop 24).all (· == 0) && fld (w 2) 0 32 != 0
  then some ⟨fld (w 0) 0 52, (w 1).toNat, BitVec.ofNat 12 (fld (w 2) 32 12), fld (w 2) 0 32⟩ else none

/-- A group fault of `kframe` leaves its context free: the entry waits with its slot for the driver's answer (R288). -/
def kframeGroup (s : State) (c : Cur) (r : Run) : State :=
  let s := startFault s c r 27 0
  match c.ctx? with
  | some x =>
    if (s.ctx c.die x).any (s.die c.die).ctxBound then (s.modCoe c.die fun q => { q with ctx := vset q.ctx x none }).modSlot c.die r.slot fun t => { t with coeAt := some r } else s
  | none => s

/-- The context of a frame entry set up. The second multiple after the entry's start is its `T0` where the descriptor gives none (R288). -/
def kframeCtx (r : Run) (w : Owner) (f : FDesc) (t : TTab) : KCtx :=
  let fl := 2 ^ t.flog2
  let t0 := if f.t0 = 0 then BitVec.ofNat 64 ((r.t0.toNat / fl + 2) * fl) else BitVec.ofNat 64 f.t0
  { KCtx.opening r w with
    tt0 := f.tt, tt := f.tt, next := t.next, flog2 := t.flog2, steps := t.steps, t0 := t0, grp := f.grp, nr := f.nr, base := t0.toNat, run := none }

/-- `kframe` (R288): descriptor, group, and every timetable of the round (R299); its context then runs. -/
def kframeStep (s : State) (c : Cur) (r : Run) (o : COp) : State :=
  let va := r.par o.f1
  if va.toNat % 64 != 0 then startFault s c r 19 va
  else match coeRead s c ((s.die c.die).whoRun c r) va.toNat 64 with
  | .wait d => s.modDie c.die fun _ => d
  | .fault d x a => startFault (s.modDie c.die fun _ => d) c r x (BitVec.ofNat 64 a)
  | .ok d bs =>
    let s := s.modDie c.die fun _ => d
    match parseDesc bs with
    | none => startFault s c r 26 0
    | some f =>
      if !(((s.die c.die).group c.die f.grp.toNat).any fun g => g.kind < 3) then kframeGroup s c r
      else match readTable s c ((s.die c.die).whoRun c r) f.tt with
      | .wait d => s.modDie c.die fun _ => d
      | .fault d x a => startFault (s.modDie c.die fun _ => d) c r x (BitVec.ofNat 64 a)
      | .ok d t =>
        match chainCheck s c ((s.die c.die).whoRun c r) 65536 [f.tt] t.next d with
        | .wait d => s.modDie c.die fun _ => d
        | .fault d x a => startFault (s.modDie c.die fun _ => d) c r x (BitVec.ofNat 64 a)
        | .ok d _ =>
          let s := s.modDie c.die fun _ => d
          let same := (s.coe c.die).ctx.toList.any fun x => x.any (·.runs f.grp)
          if f.t0 % 2 ^ t.flog2 != 0 || same then startFault s c r 26 0
          else match c.ctx? with
          | some x => match s.ctx c.die x with | some k => s.setCtx c.die x (kframeCtx r k.own f t) | none => s
          | none => s

/-! ## Sending and receiving (R292, R293) -/

def ksendPlan (r : Run) (o : COp) : CopyPlan := ⟨1, r.lenPar o.f3, r.par o.f1, r.par o.f2, 0, 0, none, [0, 1], [2, 3], true⟩

/-- The operands of `ksend`. -/
def ksendCheck (r : Run) (o : COp) : Option (Nat × Word) :=
  let w := r.par o.f3
  let len := r.lenPar o.f3
  if fld w 40 8 != 0 || fld w 54 9 != 0 || len % 128 != 0 || len < 128 || 65536 < len then some (26, 0)
  else if (r.par o.f1).toNat % 16 != 0 then some (19, r.par o.f1)
  else if (r.par o.f2).toNat % 16 != 0 then some (19, r.par o.f2)
  else none

/-- One step of `ksend`: operands; a frame query to the destination die; the grant; the chunks; the arrival increment; the end. `part`: 1 query sent, 2 granted, 3 writes and increment pushed; `rw` holds the query's number. -/
def ksendStep (s : State) (c : Cur) (r : Run) (o : COp) : State :=
  match c.ctx? with
  | none => s
  | some x =>
    match s.ctx c.die x with
    | none => s
    | some k =>
      let dest (f : State → Piece → State) : State :=
        match access c.die (s.die c.die) ((s.die c.die).whoRun c r) (r.par o.f1).toNat 0 ⟨[2, 3], false, true⟩ with
        | .wait y => s.modDie c.die fun _ => y
        | .fault y code a => startFault (s.modDie c.die fun _ => y) c r code (BitVec.ofNat 64 a)
        | .ok y p => f (s.modDie c.die fun _ => y) p
      if !r.started then
        match ksendCheck r o with
        | some f => startFault s c r f.1 f.2
        | none => s.setRun c { r with started := true, mSent := 0, mAck := 0 }
      else if r.part = 0 then dest fun s p =>
        let id := (s.coe c.die).nquery
        let s := s.modCoe c.die fun q => { q with nquery := id + 1 }
        let whom : BitVec 12 × DieId := match p.loc with
          | .peer h .. => (BitVec.ofNat 12 ((s.die c.die).pkg c.die), h)
          | .fab pkg h .. => (pkg, h)
          | .here _ => (BitVec.ofNat 12 ((s.die c.die).pkg c.die), c.die)
        let s := sendNft s c.die (.query whom.1 whom.2 k.grp k.frame id)
        waitOn (s.setRun c { r with part := 1, rw := id, mGrp := (4 * whom.1.toNat + whom.2.val, none) }) c 2 true
      else if r.part = 1 then
        if (s.coe c.die).grants.contains r.rw then
          waitEnd ((s.modCoe c.die fun q => { q with grants := q.grants.erase r.rw }).setRun c { r with part := 2 }) c
        else waitOn s c 2 true
      else if r.mSent = 0 then chunkStep s c r (ksendPlan r o)
      else if r.part = 2 then dest fun s p =>
        let i : Fin 64 := ⟨fld (r.par o.f3) 48 6 % 64, Nat.mod_lt _ (by decide)⟩
        let ops : List SbOp :=
          if !bitAt (r.par o.f3) 63 then []
          else match p.loc with
          | .peer h .. => [.arrive h k.grp i]
          | .fab pkg h .. => [.fab pkg h (.arrive (s.me c) k.grp i) p (r.placeIn c r.unit) r.ent.seq]
          | .here _ => []
        (s.modAg c.die c.ag fun a => { a with sb := a.sb ++ ops }).setRun c { r with part := 3 }
      else if (s.ag c.die c.ag).sb.isEmpty && !((s.ag c.die c.ag).pend.any fun p => p.op.isFab) then s.advRun c { r with rw := 0 } o.na
      else s

/-- `krecv`: the counter reaches `THR` (R293). -/
def krecvStep (s : State) (c : Cur) (r : Run) (o : COp) : State :=
  let w := r.par o.f1
  match c.ctx? with
  | none => s
  | some x =>
    match s.ctx c.die x with
    | none => s
    | some k =>
      if fld w 6 10 != 0 || fld w 48 16 != 0 || fld w 16 32 = 0 then startFault s c r 26 0
      else if fld w 16 32 ≤ (vget k.cnts ⟨fld w 0 6 % 64, Nat.mod_lt _ (by decide)⟩).toNat then waitEnd s c |>.advRun c r o.na
      else waitOn s c 1 true

/-! ## Vector words (R294, R295) -/

/-- Bytes of N elements of a format. -/
def vecLen (t : Tag) (n : Nat) : Nat := n * fwidth t / 8

/-- The operands of a vector word: `src`: legal source tags. -/
def vecCheck (r : Run) (o : COp) (src : Tag → Bool) : Option (Nat × Word) :=
  let w := r.par o.f3
  let n := fld w 0 32
  if fld w 32 16 != 0 || fld w 53 11 != 0 || n % 32 != 0 || n < 32 || 2 ^ 20 < n || !src (w.extractLsb' 48 5) then some (26, 0)
  else if (r.par o.f1).toNat % 16 != 0 then some (19, r.par o.f1)
  else if (r.par o.f2).toNat % 16 != 0 then some (19, r.par o.f2)
  else none

/-- The bytes of a transfer, undefined where they come from poisoned lines (R81; log entry 3). -/
def State.seenAsm (s : State) (x : Asm) (at_ n : Nat) : State × List Byte :=
  if !x.badIn at_ n then (s, x.bytes at_ n)
  else
    let k := s.draws
    ({ s with draws := k + 1 }, (List.range n).map fun i => if x.badIn (at_ + i) 1 then Config.freeByte k (at_ + i) else listGet 0 (x.bytes (at_ + i) 1) 0)

/-- A vector word's chunk: elements from `e0` on, `cnt` of them; what it reads (address and length, at 0 and 8192 of the transfer), and how an element or block is computed. -/
structure VecWork where
  /-- elements done before and in this chunk -/
  e0 : Nat
  cnt : Nat
  parts : List Part
  /-- destination bytes: address, length; and of scales -/
  da : Nat
  dn : Nat
  sa : Nat
  sn : Nat

/-- Where the destination written so far covers a source byte, the source reads it (R295: ascending element order). -/
def overlay (done : List (Nat × List Byte)) (va : Nat) (b : Byte) : Byte :=
  done.foldl (fun b q => if q.1 ≤ va && va < q.1 + q.2.length then listGet b q.2 (va - q.1) else b) b

/-- `n` source bytes at `va`, from a range read at `base`. -/
def srcBytes (done : List (Nat × List Byte)) (base : Nat) (bs : List Byte) (va n : Nat) : List Byte :=
  (List.range n).map fun i => overlay done (va + i) (listGet 0 bs (va + i - base))

/-- Element `i` of a vector at `v`, whose chunk begins with element `e0`, from its bytes and scale bytes. -/
def vecElem (t : Tag) (n v : Nat) (done : List (Nat × List Byte)) (e0 : Nat) (eb sb : List Byte) (i : Nat) : Val :=
  let w := fwidth t
  let bit := w * i
  let byte := v + bit / 8
  let len := (w + 7) / 8
  let c := leNat (srcBytes done (v + vecLen t e0) eb byte len) / 2 ^ (bit % 8) % 2 ^ w
  let x := decodeElem t c
  if fscaled t then
    let sva := v + vecLen t n
    scaled x (fpS24.decode (leNat (srcBytes done (sva + 3 * (e0 / 32)) sb (sva + 3 * (i / 32)) 3)))
  else x

/-- The layout of the chunk that begins with element `e0`. `blk`: elements that stay together. -/
def vecWork (r : Run) (o : COp) (dstT : Tag) (blk : Nat) (srcs : List (Nat × Tag)) (e0 : Nat) : VecWork :=
  let n := fld (r.par o.f3) 0 32
  let d := (r.par o.f1).toNat
  let da := d + vecLen dstT e0
  let room := (4096 - da % 4096) * 8 / fwidth dstT / blk * blk
  let cnt := min (n - e0) (max room blk)
  let part (q : (Nat × Tag) × Nat) : List Part :=
    let v := q.1.1
    let t := q.1.2
    ⟨v + vecLen t e0, vecLen t cnt, 8192 * q.2⟩ ::
      (if fscaled t then [⟨v + vecLen t n + 3 * (e0 / 32), 3 * ((e0 + cnt + 31) / 32 - e0 / 32), 65536 + 8192 * q.2⟩] else [])
  { e0 := e0, cnt := cnt, parts := (srcs.zip (List.range srcs.length)).flatMap part, da := da, dn := vecLen dstT cnt
    sa := d + vecLen dstT n + 3 * (e0 / 32), sn := if fscaled dstT then 3 * (cnt / 32) else 0 }

/-- What a vector word computes at a time, its unit: an element of `kwid` and `kadd`, a block of `kreq`. Destination bytes of unit `j`, of `per` bytes each. -/
def VecWork.dst (q : VecWork) (per j : Nat) : List (Nat × Nat) := (q.da + per * j, per) :: if q.sn = 0 then [] else [(q.sa + 3 * j, 3)]

/-- Units computed from poison, in the order they are computed (R295): one that reads poisoned source bytes, or a line that an earlier unit of the chunk has poisoned. `src`: a unit's source bytes, by their place in the transfer, address and length. -/
def VecWork.badUnits (q : VecWork) (x : Asm) (per n : Nat) (src : Nat → List (Nat × Nat × Nat)) : List Bool :=
  ((List.range n).foldl (fun (a : List Bool × List Nat) j =>
    let bad := (src j).any fun p => x.badIn p.1 p.2.2 || (linesOf p.2.1 p.2.2).any a.2.contains
    (a.1 ++ [bad], if bad then a.2 ++ (q.dst per j).flatMap fun p => linesOf p.1 p.2 else a.2)) ([], [])).1

/-- One step of a vector word: its check, the reads of a chunk, its writes, its end. `mSent`: elements done. `comp` gives the destination's bytes, its scales and the flags from the chunk's source bytes; `unit`: elements of a unit; `deps`: its source bytes. -/
def vecStep (s : State) (c : Cur) (r : Run) (o : COp) (src : Tag → Bool) (blk : Nat) (srcs : List (Nat × Tag))
    (comp : VecWork → (Nat → List Byte) → List Byte × List Byte × Flg) (deps : VecWork → Nat → List (Nat × Nat × Nat)) : State :=
  let n := fld (r.par o.f3) 0 32
  let w := (s.die c.die).whoRun c r
  if !r.started then
    match vecCheck r o src with
    | some f => startFault s c r f.1 f.2
    | none => s.setRun c { r with started := true, mSent := 0 }
  else if n ≤ r.mSent then s.advRun c r o.na
  else
    let q := vecWork r o o.fmt blk srcs r.mSent
    match (s.ag c.die c.ag).asm.find? (·.key == c.key r.unit) with
    | none =>
      match accessParts c.die w ⟨[0, 1], true, false⟩ q.parts (s.die c.die) with
      | .wait y => s.modDie c.die fun _ => y
      | .fault y code a => chunkFault (s.modDie c.die fun _ => y) c r code (BitVec.ofNat 64 a)
      | .ok y qs => issueReads (s.modDie c.die fun _ => y) c r (c.key r.unit) r.unit false qs
    | some x =>
      if !x.done then s
      else
        match accessParts c.die w ⟨[0, 1], false, true⟩ (⟨q.da, q.dn, 0⟩ :: if q.sn = 0 then [] else [⟨q.sa, q.sn, 0⟩]) (s.die c.die) with
        | .wait y => s.modDie c.die fun _ => y
        | .fault y code a => chunkFault (s.modDie c.die fun _ => y) c r code (BitVec.ofNat 64 a)
        | .ok y ps =>
          let s := s.modDie c.die fun _ => y
          let got := q.parts.foldl (fun (a : State × List (Nat × List Byte)) p => let g := a.1.seenAsm x p.at_ p.len; (g.1, a.2 ++ [(p.at_, g.2)])) (s, [])
          let v := comp q fun at_ => match got.2.find? (·.1 == at_) with | some e => e.2 | none => []
          let per := fwidth o.fmt * blk / 8
          let bads := q.badUnits x per (q.cnt / blk) (deps q)
          let push (s : State) (va : Nat) (pp : List Piece) (data : List Byte) (per : Nat) : State :=
            pushChunk s c r va r.unit pp data fun at_ len => (List.range len).any fun i => bads.getD ((at_ + i) / per) false
          let own (p : Part) : List Piece := (ps.filter fun x => x.1.va == p.va).map (·.2)
          let s := push got.1 q.da (own ⟨q.da, q.dn, 0⟩) v.1 per
          let s := if q.sn = 0 then s else push s q.sa (own ⟨q.sa, q.sn, 0⟩) v.2.1 3
          (s.modAg c.die c.ag (·.dropAsm (c.key r.unit))).setRun c
            { r with unit := r.unit + 1, mSent := r.mSent + q.cnt, flags := r.flags ||| v.2.2 }

def fmtKwSrc (t : Tag) : Bool := tagLegal t && (fcode t == 4 || fcode t == 5 || fcode t == 6 || fcode t == 7 || t == tBF16 || t == tFP16)
/-- The source tag of a vector spec. -/
def vecTag (r : Run) (o : COp) : Tag := (r.par o.f3).extractLsb' 48 5

/-- A vector of elements computed one after another, each seeing the bytes written before it. -/
def eachElem (q : VecWork) (t : Tag) (f : List (Nat × List Byte) → Nat → Nat × Flg) : List Byte × List Byte × Flg :=
  let v := (List.range q.cnt).foldl (fun (a : List Byte × Flg) j =>
    let e := f [(q.da, a.1)] (q.e0 + j)
    (a.1 ++ natLe (fwidth t / 8) e.1, a.2 ||| e.2)) ([], 0)
  (v.1, [], v.2)

/-- Source bytes of `len` at bit `bit` of the elements of a vector at `v`, in a chunk that begins with element `e0`, at `at_` of the transfer. -/
def vecDep (t : Tag) (v e0 at_ i n : Nat) : Nat × Nat × Nat :=
  let o := fwidth t * i / 8
  (at_ + o, v + vecLen t e0 + o, max 1 (fwidth t * n / 8))

/-- `kwid`. -/
def kwidStep (s : State) (c : Cur) (r : Run) (o : COp) : State :=
  let t := vecTag r o
  let n := fld (r.par o.f3) 0 32
  let v := (r.par o.f2).toNat
  vecStep s c r o fmtKwSrc 1 [(v, t)]
    (fun q got => eachElem q o.fmt fun done i => roundVal o.fmt 0 false 0 (vecElem t n v done q.e0 (got 0) (got 65536) i))
    (fun q j =>
      let b := (q.e0 + j) / 32
      vecDep t v q.e0 0 j 1 :: if fscaled t then [(65536 + 3 * (b - q.e0 / 32), v + vecLen t n + 3 * b, 3)] else [])

/-- `kadd`. -/
def kaddStep (s : State) (c : Cur) (r : Run) (o : COp) : State :=
  let n := fld (r.par o.f3) 0 32
  let a := (r.par o.f1).toNat
  let b := (r.par o.f2).toNat
  vecStep s c r o (· == o.fmt) 1 [(a, o.fmt), (b, o.fmt)]
    (fun q got => eachElem q o.fmt fun done i =>
      let x := fpAdd 0 (vecElem o.fmt n a done q.e0 (got 0) [] i) (vecElem o.fmt n b done q.e0 (got 8192) [] i)
      let y := roundVal o.fmt 0 false 0 x.1
      (y.1, y.2 ||| x.2))
    (fun q j => [vecDep o.fmt a q.e0 0 j 1, vecDep o.fmt b q.e0 8192 j 1])

/-- `kreq`: blocks of 32, their scales after the vector. -/
def kreqStep (s : State) (c : Cur) (r : Run) (o : COp) : State :=
  let t := vecTag r o
  let n := fld (r.par o.f3) 0 32
  let v := (r.par o.f2).toNat
  let dw := 4 * fwidth o.fmt
  vecStep s c r o (fun t => t == tFP32 || t == tBF16) 32 [(v, t)]
    (fun q got =>
      (List.range (q.cnt / 32)).foldl (fun (a : List Byte × List Byte × Flg) j =>
        let done := [(q.da, a.1), (q.sa, a.2.1)]
        let b := quantBlock o.fmt ((List.range 32).map fun i => vecElem t n v done q.e0 (got 0) [] (q.e0 + 32 * j + i))
        (a.1 ++ natLe dw (packElems (fwidth o.fmt) b.2.1), a.2.1 ++ natLe 3 b.1, a.2.2 ||| b.2.2)) ([], [], 0))
    (fun q j => [vecDep t v q.e0 0 (32 * j) 32])

/-! ## Task release (R296) -/

/-- A task is handed to the scheduler; `none`: its node is not the process's. -/
def Die.takeTask (dn : DieId) (d : Die) (l0 : Launch) (w : Word) : Option Die :=
  let node := fld w 0 16
  if node < l0.nbase || l0.nbase + l0.ncnt ≤ node then none
  else match d.sched.latest l0.pid (BitVec.ofNat 16 node) with
  | none => some d
  | some l =>
    let x := fld w 16 16
    let y := fld w 32 16
    let z := fld w 48 16
    if l.st != .active || l.gx ≤ x || l.gy ≤ y || l.gz ≤ z then some d
    else some (Die.enterBlocks dn d l.id false fun b => b == x + l.gx * (y + l.gy * z))

/-- The task list in order, until a task fails. -/
def Die.takeTasks (dn : DieId) (l0 : Launch) : List Word → Die → Die × Bool
  | [], d => (d, true)
  | w :: r, d =>
    match Die.takeTask dn d l0 w with
    | none => (d, false)
    | some d => Die.takeTasks dn l0 r d

/-- The step's task list is handed over, once its earlier writes have been applied; `fin` goes on. `word`: where a failing task is reported. -/
def releaseTasks (s : State) (c : Cur) (k : KCtx) (st : KStep) (word : Word) (fin : State → State) : State :=
  let bad (s : State) (code : Nat) (a : Nat) (u : Nat) : State := ctxFault s c.die k ⟨code, st.blk, word, BitVec.ofNat 64 a, k.ent.seq, u, 0⟩
  if !s.settled c.die .coll then s
  else if st.ntask = 0 then fin s
  else match coeRead s c ((s.die c.die).whoOwn .coll k.own) st.tasks (8 * st.ntask) with
  | .wait d => s.modDie c.die fun _ => d
  | .fault d x a => bad (s.modDie c.die fun _ => d) x a 0
  | .ok d bs =>
    match d.sched.launch k.own.lid with
    | none => fin (s.modDie c.die fun _ => d)
    | some l0 =>
      let q := Die.takeTasks c.die l0 ((List.range st.ntask).map fun i => leWord (slice bs (8 * i) 8)) d
      let s := s.modDie c.die fun _ => q.1
      if q.2 then fin s else bad s 11 0 1

/-- `krel`. -/
def krelStep (s : State) (c : Cur) (r : Run) (o : COp) : State :=
  match c.ctx? with
  | none => s
  | some x =>
    match s.ctx c.die x with
    | none => s
    | some k =>
      match k.steps[k.step]? with
      | none => s
      | some st => if k.released then s.advRun c r o.na else releaseTasks s c k st r.wordAt fun s =>
        (s.advRun c r o.na).modCoe c.die fun q => { q with ctx := vmod q.ctx x fun k => k.map fun k => { k with released := true } }

/-! ## Barriers (R297) -/

/-- One step of `kbar`: generation, release, arrival, wait. `part`: 1 generation raised, 2 arrival sent. The wait for the release is a wait of the word too (R290); its timeout runs from the arrival on, while a member is missing (R297). -/
def kbarStep (s : State) (c : Cur) (r : Run) (o : COp) : State :=
  let w := r.par o.f1
  let grp : BitVec 12 := BitVec.ofNat 12 w.toNat
  let g := spGet (0 : W32) (s.gens c) grp.toNat
  if r.part = 0 then
    if fld w 12 52 != 0 then startFault s c r 26 0
    else if ((s.die c.die).groupFor c.die grp.toNat true).isNone then startFault s c r 27 0
    else (s.setGen c grp (g + 1)).setRun c { r with started := true, part := 1 }
  else if r.part = 1 then
    if !s.settled c.die .coll || !(s.die c.die).fabQuiet r.slot then waitOn s c 4 false
    else
      let s := (sendNft s c.die (.barArr grp g)).setRun c { r with part := 2 }
      match s.kwait c with
      | some w => s.setKwait c (some (w.retime (!((s.die c.die).late c.die grp g).isEmpty) (s.tick c.die)))
      | none => s
  else if ((s.die c.die).missing c.die grp g).isEmpty && (s.die c.die).gateOk c.die then (waitEnd s c).advRun c r o.na
  else waitOn s c 4 (!((s.die c.die).late c.die grp g).isEmpty)

def kabsStep (s : State) (c : Cur) (r : Run) (o : COp) : State :=
  let w := r.par o.f1
  let v := r.par o.f2
  let grp : BitVec 12 := BitVec.ofNat 12 w.toNat
  if fld w 12 52 != 0 || fld v 1 63 != 0 then startFault s c r 26 0
  else if ((s.die c.die).groupFor c.die grp.toNat true).isNone then startFault s c r 27 0
  else (sendNft s c.die (.barAbs grp (bitAt v 0))).advRun c r o.na

def execKframe (o : COp) (s : State) : Out := engDo (fun s c r => kframeStep s c r o) s
def execKsend (o : COp) (s : State) : Out := engDo (fun s c r => ksendStep s c r o) s
def execKrecv (o : COp) (s : State) : Out := engDo (fun s c r => krecvStep s c r o) s
def execKwid (o : COp) (s : State) : Out := engDo (fun s c r => kwidStep s c r o) s
def execKadd (o : COp) (s : State) : Out := engDo (fun s c r => kaddStep s c r o) s
def execKreq (o : COp) (s : State) : Out := engDo (fun s c r => kreqStep s c r o) s
def execKrel (o : COp) (s : State) : Out := engDo (fun s c r => krelStep s c r o) s
def execKbar (o : COp) (s : State) : Out := engDo (fun s c r => kbarStep s c r o) s
def execKabs (o : COp) (s : State) : Out := engDo (fun s c r => kabsStep s c r o) s

/-! ## Frames and steps (R289) -/

/-- A context that may go on: set up and running, its slot held by no fault; between steps, not asked to stop (R298). -/
def State.liveCtx (s : State) (d : DieId) (x : Fin 8) : Option KCtx :=
  (s.ctx d x).filter fun k => k.up && !k.stopped && !(s.die d).ctxHeld k && (match k.run with | some r => !(s.die d).entryRefused ⟨d, .coll, ⟨x.val, by omega⟩⟩ r | none => !(s.die d).ctxAsked k)

/-- Has a running context of the group entered frame `n`? -/
def Coll.entered (c : Coll) (grp : BitVec 12) (n : Nat) : Bool :=
  c.ctx.toList.any fun x => x.any fun k => k.runs grp && (n < k.frame || (n == k.frame && k.inFrame))
/-- Held queries whose frame a running context has entered are answered (R292). -/
def answerQueries (s : State) (d : DieId) : State :=
  let ok (q : Query) : Bool := (s.coe d).entered q.grp q.n
  ((s.coe d).queries.filter ok).foldl (fun s q => sendNft s d (.grant q.pkg q.src q.id))
    (s.modCoe d fun c => { c with queries := c.queries.filter fun q => !ok q })

/-- The address of the `kframe` word of a context. -/
def KCtx.frameWord (k : KCtx) : Word := k.ent.hdr + 4

/-- A context enters its frame: the timetable is at hand, its counters cleared, held queries answered (R289, R292). -/
def enterFrame (s : State) (d : DieId) (x : Fin 8) (k : KCtx) : State :=
  answerQueries (s.setCtx d x { k with inFrame := true, step := 0, cnts := .replicate 64 0 }) d

def execFrameEntry (d : DieId) (x : Fin 8) (s : State) : Out :=
  match s.liveCtx d x with
  | none => .next s
  | some k =>
    if k.inFrame || (s.tick d).toNat < k.base + k.ofs then .next s
    else if !k.steps.isEmpty then .next (enterFrame s d x k)
    else match readTable s ⟨d, .coll, 8⟩ ((s.die d).whoOwn .coll k.own) k.tt with
    | .wait y => .next (s.modDie d fun _ => y)
    | .fault y code a => .next (ctxFault (s.modDie d fun _ => y) d k ⟨code, k.ent.hdr, k.frameWord, BitVec.ofNat 64 a, k.ent.seq, 0, 0⟩)
    | .ok y t => .next (enterFrame (s.modDie d fun _ => y) d x { k with steps := t.steps, flog2 := t.flog2, next := t.next })

/-- The frame is over: the next frame, the next round, or the end of the entry (R186, R288, R289), which waits for its strand's swap-in where the slot has been released (R321). -/
def frameEnd (s : State) (d : DieId) (x : Fin 8) (k : KCtx) : State :=
  let last := decide (k.next = 0)
  if last && k.nr ≤ k.round + 1 then
    if !(s.die d).ctxBound k then s.setCtx d x k else
    let s := s.modCoe d fun c => { c with ctx := vset c.ctx x none, kstat := vset c.kstat k.slot ({ k with inFrame := false, frame := k.frame + 1 }.stat false) }
    completeEntry s d k.slot 5 6 k.ent k.flags
  else
    s.setCtx d x { k with
      inFrame := false, step := 0, steps := [], tt := if last then k.tt0 else k.next, round := if last then k.round + 1 else k.round
      base := k.base + 2 ^ k.flog2, frame := k.frame + 1 }

/-- The next step starts at the later of its release and the completion of the one before; a late start slips (R289, R290, R298). -/
def execStepStart (d : DieId) (x : Fin 8) (s : State) : Out :=
  match s.liveCtx d x with
  | none => .next s
  | some k =>
    let c : Cur := ⟨d, .coll, ⟨x.val, by omega⟩⟩
    match k.run with
    | some r => if r.part == unchecked then .next (tryBlock s c r) else .next s
    | none =>
      match k.steps[k.step]? with
      | none => if k.inFrame then .next (frameEnd s d x k) else .next s
      | some st =>
        let rel := k.base + st.trel + k.ofs
        let now := (s.tick d).toNat
        if !k.inFrame || now < rel then .next s
        else
          let s := slipBy s d x (now - rel) (if k.resumed then 3 else 0)
          match s.ctx d x with
          | none => .next s
          | some k =>
            let r : Run := { Run.fresh k.ent k.slot (s.tick d) with blk := st.blk }
            .next (tryBlock (s.setCtx d x { k with run := some r, released := false, resumed := false }) c r)

/-- The step's block has ended and its writes have left the store buffer: the list of a step without `krel` is handed over, and the step completes (R289, R296). -/
def execStepComplete (d : DieId) (x : Fin 8) (s : State) : Out :=
  match s.liveCtx d x with
  | none => .next s
  | some k =>
    match k.run, k.steps[k.step]? with
    | some r, some st =>
      if r.part == unchecked || r.pos < r.code.length || !(s.ag d .coll).sb.isEmpty then .next s
      else
        let fin (s : State) : State :=
          match s.ctx d x with
          | none => s
          | some k =>
            let k := { k with run := none, step := k.step + 1, flags := k.flags ||| r.flags }
            if k.step < k.steps.length then s.setCtx d x k else frameEnd s d x k
        if r.code.any (fun w => isRel w.2) || st.ntask = 0 then .next (fin s)
        else .next (releaseTasks s ⟨d, .coll, ⟨x.val, by omega⟩⟩ k st 0 fin)
    | _, _ => .next s

/-! ## Messages of the group -/

/-- Offset of collective context i in a block's save area (R373; log entry 42). -/
def ctxAt (i : Nat) : Nat := 0x400 + 256 * i

/-- A slip notice is added to the O of every context of the group, also of one saved in a save area (R290, R409). -/
def execSlipNotice (d : DieId) (grp : BitVec 12) (delay : Nat) (s : State) : Out :=
  let s := (List.finRange 8).foldl (fun (s : State) (x : Fin 8) =>
    match s.ctx d x with
    | some k => if k.up && k.grp == grp then s.setCtx d x { k with ofs := k.ofs + delay } else s
    | none => s) s
  .next (s.modDie d fun y =>
    y.sched.launches.foldl (fun y l => l.blks.foldl (fun y b =>
      if b.st != .swapped then y
      else (List.range 8).foldl (fun y i =>
        let a := l.saveAt b.l + ctxAt i
        match procLoad d y l.asid a 64 with
        | (some bs, y) =>
          let w (n : Nat) : Word := leWord (slice bs (8 * n) 8)
          if bitAt (w 0) 63 && fld (w 0) 32 12 == grp.toNat then procStore d y l.asid (a + 24) (wordLe 8 (w 3 + BitVec.ofNat 64 delay)) else y
        | (none, y) => y) y) y) y)

/-- A frame query is answered when a running context of its group has entered that frame, and held until then (R292). -/
def execFrameQuery (d : DieId) (grp : BitVec 12) (n id : Nat) (pkg : BitVec 12) (src : DieId) (s : State) : Out :=
  if (s.coe d).entered grp n then .next (sendNft s d (.grant pkg src id))
  else .next (s.modCoe d fun c => { c with queries := c.queries ++ [⟨grp, n, id, pkg, src⟩] })

def execFrameGrant (d : DieId) (id : Nat) (s : State) : Out :=
  .next (s.modCoe d fun c => { c with grants := if c.grants.contains id then c.grants else c.grants ++ [id] })

/-- A barrier message of member m is taken where the group's entry admits it (R283, R297). -/
def barrierMsg (s : State) (d : DieId) (grp : BitVec 12) (m : Nat) (f : BarMem → BarMem) : State :=
  match (s.die d).groupFor d grp.toNat true with
  | none => s
  | some g =>
    if g.nmem ≤ m || m == g.self then s
    else retimeBars (s.modCoe d fun c => c.setBar (f (c.bar grp m))) d grp

def execBarrierArrival (d : DieId) (grp : BitVec 12) (m : Nat) (gen : W32) (s : State) : Out :=
  .next (barrierMsg s d grp m fun b => if hasGen b gen then b else { b with gen := gen })
def execBarrierAbsence (d : DieId) (grp : BitVec 12) (m : Nat) (s : State) : Out := .next (barrierMsg s d grp m fun b => { b with absent := true })
def execBarrierPresence (d : DieId) (grp : BitVec 12) (m : Nat) (s : State) : Out := .next (barrierMsg s d grp m fun b => { b with absent := false })

/-- A wait reaches `KBTO` (R297, R410): it ends, which is a slip of its length (R290), in a barrier-timeout fault at the waiting word. What `CONT` repeats stands ready in the run (R411). -/
def execBarrierTimeout (d : DieId) (x : Fin 9) (s : State) : Out :=
  let c : Cur := ⟨d, .coll, x⟩
  let lim := (s.die d).rf d rKBTO 0 40
  match s.run c, s.kwait c with
  | some r, some w =>
    let ran := w.ran + (if w.on then (s.tick d - w.from_).toNat else 0)
    if lim = 0 || !w.on || ran < lim || (s.die d).runHeld c r then .next s
    else
      let s := waitEnd s c
      match r.code[r.pos]? with
      | some (_, .kbar o) =>
        let grp : BitVec 12 := BitVec.ofNat 12 (r.par o.f1).toNat
        let g := spGet (0 : W32) (s.gens c) grp.toNat
        let m := ((s.die d).late d grp g).headD 0
        let r := { r with part := 1 }
        .next (runFault (s.setRun c r) c r 28 0 1 (BitVec.ofNat 64 (grp.toNat + 2 ^ 16 * m + 2 ^ 32 * g.toNat)))
      | some (_, .krecv o) =>
        let i := fld (r.par o.f1) 0 6
        let n := match c.ctx? with
          | some y => match s.ctx d y with | some k => (vget k.cnts ⟨i % 64, Nat.mod_lt _ (by decide)⟩).toNat | none => 0
          | none => 0
        .next (runFault s c r 28 0 2 (BitVec.ofNat 64 (i + 2 ^ 32 * n)))
      | some (_, .ksend o) => .next (runFault s c r 28 (r.par o.f1) 3 (BitVec.ofNat 64 (2 ^ 50 * r.mGrp.1)))
      | _ => .next s
  | _, _ => .next s

end Sys2Proof.Machine
end

