-- ==== Sys2Proof/Machine/Mxe.lean ====
section
/-! DEFINITION. The matrix engine (R31, R43, R50, R51, R58, R77 to R81, R247 to R266, R380, R381): weights, codebooks, semiring, passes, drains. -/

namespace Sys2Proof.Machine

/-! ## The fragment (R42, R43) -/

/-- Where a matrix run works: its base slot and layout. -/
structure Frag where
  b : SlotId
  y : Lay

def State.frag (s : State) (c : Cur) : Frag :=
  let b := match c.ag with | .eng k _ => k | _ => 0
  ⟨b, (s.die c.die).layOf b⟩

def Frag.kd (f : Frag) : Nat := 128 * shapeBands f.y.shape
def Frag.cols (f : Frag) : Nat := 512 * shapeSides f.y.shape
def Frag.rows (f : Frag) : Nat := 128 * shapeBands f.y.shape
/-- The slot of band position `b'` and column c. -/
def Frag.cell (f : Frag) (band c : Nat) : SlotId := mkSlot (2 * (f.b.val / 2 + band) + (f.b.val % 2 + c / 512))
def Frag.slots (f : Frag) : List SlotId := (List.range (shapeBands f.y.shape)).flatMap fun b => (List.range (shapeSides f.y.shape)).map fun i => f.cell b (512 * i)

/-! ## The accumulator window (R255) -/

structure AWin where
  acnt : Nat
  clr : Bool
  nx : Nat
  aoff : Nat
  kx : Nat
  arow : Nat
  deriving DecidableEq, Repr

def winOf (w : Word) : AWin := ⟨fld w 48 10, bitAt w 40, fld w 32 5, fld w 24 2, fld w 16 7, fld w 0 9⟩
/-- The fields each instruction uses. -/
def maskMmul : Word := bits 36 32 ||| bits 25 24 ||| bits 22 16 ||| bits 8 0
def maskMzero : Word := bits 57 48 ||| bits 8 0
def maskMdrain : Word := bits 40 40 ||| bits 36 32 ||| bits 8 0

/-- The limits of R255 for `n` rows. -/
def winOk (f : Frag) (mask w : Word) (n : Nat) : Bool :=
  let x := winOf w
  w &&& mask == w && 32 * x.nx ≤ f.cols && 4 * x.kx < f.kd && 128 * x.aoff + f.kd ≤ 512 && x.arow + n ≤ f.rows
def AWin.cols (x : AWin) (f : Frag) : Nat := if x.nx = 0 then f.cols else 32 * x.nx

/-! ## Weights (R249, R252) -/

/-- Weights of one column that a band's cells hold: 64 bytes of CB2, else 128 bytes (log entry 41). -/
def bandBytes (w : Tag) : Nat := if fcode w == 9 then 64 else 128
def bandWeights (w : Tag) : Nat := if fcode w == 9 then 256 else 1024 / fwidth w

/-- Column `col` takes a row: bytes, scales and poison, band by band. -/
def putColumn (f : Frag) (t : Tag) (col : Nat) (v : RowVal) (d : Die) : Die :=
  let side := leNat v.side
  let nb := bandBytes t
  let ns := bandWeights t / 32
  (List.range (shapeBands f.y.shape)).foldl (fun d b => d.modBank (f.cell b col) fun k =>
    let c := col % 512
    { k with
      wts := spWrite 0 k.wts (128 * c) (slice v.data (nb * b) nb)
      wsc := if fscaled t then spWrite 0 k.wsc (8 * c) ((List.range ns).map fun j => BitVec.ofNat 24 (rowElem 24 side (ns * b + j))) else k.wsc
      wPsn := bvPut k.wPsn c v.psn }) d

/-- One step of `mldb`: the checks and the weight format, then a column for each row (R252). -/
def mldbStep (s : State) (c : Cur) (r : Run) (o : EOp) : State :=
  let f := s.frag c
  let n := eCount o 0
  let p := r.par o.f1
  if !r.started then
    match srcCheck (s.die c.die) r.slot o.f2 o.fmt (eMod o).raw with
    | some code => startFault s c r code 0
    | none =>
      if fld p 11 53 != 0 || f.cols < fld p 0 11 + n then startFault s c r 14 0
      else (s.modDie c.die fun y => y.modLay f.b fun z => { z with wfmt := o.fmt }).setRun c { r with started := true }
  else if r.unit < n then
    unitDo s c r r.unit <| (srcRow s c.die r.slot .mxe o.f2 o.b2 (eFirst o 1 + r.unit)).bind fun s v =>
      .ok (s.modDie c.die (putColumn f o.fmt (fld p 0 11 + r.unit) v)) { r with unit := r.unit + 1 }
  else s.advRun c r o.na

/-- `mcb`: rows f and f + 1 as the table of every tile (R253). -/
def mcbStep (s : State) (c : Cur) (r : Run) (o : EOp) : State :=
  let f := s.frag c
  let g := eFirst o 1
  let empty := if ((s.slot c.die r.slot).tile o.f2).isFull g then 1 else 0
  match (tileRow s c.die r.slot o.f2 o.b2 g).bind fun s v => (tileRow s c.die r.slot o.f2 o.b2 (g + 1)).bind fun s w => .ok s (v, w) with
  | .wait => s
  | .fault s code a => runFault s c r code a empty 0
  | .ok s v =>
    let t := spWrite (0 : Byte) [] 0 (v.1.data ++ v.2.data.take 256)
    (s.modDie c.die fun d => f.slots.foldl (fun d k => d.modBank k fun x => { x with cb := .replicate 2 t, cbPsn := .replicate 2 (v.1.psn || v.2.psn) }) d).advRun c r o.na

def semiOf (n : Nat) : Semi := match n with | 0 => .plusTimes | 1 => .minPlus | 2 => .maxPlus | 3 => .maxTimes | _ => .orAnd

/-- Weight k of a column as the cells of band position `band` multiply it: decoded by the table of their tile, with its scale. -/
def weightVal (d : Die) (f : Frag) (band c k : Nat) : Val :=
  let w := f.y.wfmt
  let x := (d.slot (f.cell (k / bandWeights w) c)).bank
  let j := k % bandWeights w
  let col := leNat (spRead 0 x.wts (128 * (c % 512)) 128)
  let v : Val :=
    if fcode w == 9 then
      let t := leNat (spRead (0 : Byte) (vget (d.slot (f.cell band c)).bank.cb ⟨c % 512 / 256, by omega⟩) 0 768)
      cb2Weight t (rowElem 16 col (j / 8)) (j % 8)
    else decodeElem w (rowElem (fwidth w) col j)
  if fscaled w then scaled v (fpS24.decode (spGet 0 x.wsc (8 * (c % 512) + j / 32)).toNat) else v

/-- Are the weights of a column, or a table through which it is decoded, poisoned? -/
def columnPsn (d : Die) (f : Frag) (c : Nat) : Bool :=
  (List.range (shapeBands f.y.shape)).any fun b =>
    let x := (d.slot (f.cell b c)).bank
    x.wPsn.getLsbD (c % 512) || (fcode f.y.wfmt == 9 && vget x.cbPsn ⟨c % 512 / 256, by omega⟩)

/-! ## Passes (R256 to R258) -/

/-- The band's partial with its terms (R58, R77, R79). -/
def bandValue (sm : Semi) (int : Bool) (pin : W32) (ts : List (Val × Val)) : W32 :=
  match sm with
  | .plusTimes =>
    if int then ts.foldl (fun p t => match t.1.mul t.2 with | .fin s m _ => if s then p - BitVec.ofNat 32 m else p + BitVec.ofNat 32 m | _ => p) pin
    else bandSum pin (ts.map fun t => t.1.mul t.2)
  | .orAnd => ts.foldl (fun p t => if t.1.isZero || t.2.isZero then p else p ||| 1) pin
  | _ => bandOther sm pin ts

/-- The value of one column for a pass: K elements below `kx`, from A element `a0` on, bands top to bottom. -/
def columnPart (d : Die) (f : Frag) (t : Tag) (row : RowVal) (a0 kx c : Nat) : W32 :=
  let per := 1024 / fwidth t
  let data := leNat row.data
  let side := leNat row.side
  (List.range (shapeBands f.y.shape)).foldl (fun p b =>
    let ks := ((List.range per).map (· + per * b)).filter fun k => k < kx
    bandValue f.y.semi (fcode t == 7) p (ks.map fun k => (valueAt t data side (k + a0), weightVal d f b c k))) f.y.semi.ident

/-- A pass added into accumulator row `r` (R257). -/
def addPass (f : Frag) (t : Tag) (x : AWin) (row : RowVal) (r : Nat) (d : Die) : Die :=
  let nx := x.cols f
  let kx := 8 * (if x.kx = 0 then f.kd else 4 * x.kx) / fwidth t
  let old := d.accRow f.b r nx
  let new := (List.range nx).map fun c => accAdd f.y.semi (fcode t == 7) (listGet 0 old c) (columnPart d f t row (1024 * x.aoff / fwidth t) kx c)
  let psn := row.psn || (List.range nx).any (columnPsn d f)
  let d := d.putAccRow f.b r new
  if psn then d.setAccPsn f.b r true else d

/-- The operands a semiring takes (R256). -/
def semiOk (sm : Semi) (w a : Tag) : Bool :=
  match sm with
  | .plusTimes => w != tBIT && a != tBIT
  | .minPlus | .maxPlus => (w == tFP32 && a == tFP32) || (w == tBF16 && a == tBF16)
  | .maxTimes => w == tBF16 && a == tBF16
  | .orAnd => w == tBIT && a == tBIT

/-- The checks of R256, in its order. -/
def mmulCheck (s : State) (c : Cur) (r : Run) (o : EOp) : Option Nat :=
  let f := s.frag c
  let d := s.die c.die
  if !pairOk f.y.wfmt o.fmt || !semiOk f.y.semi f.y.wfmt o.fmt then some 13
  else match if o.f2 == opCH then (if (d.incoming f.b).isSome then none else some 15) else srcCheck d r.slot o.f2 o.fmt (eMod o).raw with
  | some x => some x
  | none => if winOk f maskMmul (r.par o.f3) (eCount o 0) then none else some 14

/-- The next chain row: checked against `FMT` unless it is discarded, and its credit freed (R51, R258). A chain row carries no scales; those that `.raw` reads of it under a scaled `FMT` are zero (DESIGN CHOICE, log entry 139; R65 does not say). -/
def chainRow (s : State) (c : Cur) (o : EOp) (use : Bool) : Got RowVal :=
  let f := s.frag c
  match f.y.buf with
  | [] => if o.b2 then .fault s 4 0 else .wait
  | x :: rest =>
    if use && !(eMod o).raw && x.tag != o.fmt then .fault s 5 0
    else
      let s := s.modDie c.die fun d => d.modLay f.b fun y => { y with buf := rest }
      let p := if use then s.seen ⟨x.data, [], x.psn⟩ else (s, ⟨x.data, [], x.psn⟩)
      .ok p.1 p.2

/-- The estimate W of a pass (R425). -/
def passW (sm : Semi) : Nat := match sm with | .plusTimes => 256 | .orAnd => 224 | _ => 240

/-- One pass of `mmul` or `mmulm`; `mask`: bit i of e[`OC`] selects row i. -/
def passStep (s : State) (c : Cur) (r : Run) (o : EOp) (masked : Bool) : State :=
  let f := s.frag c
  let n := eCount o 0
  if !r.started then
    match mmulCheck s c r o with
    | some code => startFault s c r code 0
    | none => s.setRun c { r with started := true }
  else if r.unit < n then
    let use := !masked || bitAt (r.par (eMod o).oc) r.unit
    let row : Got RowVal :=
      if o.f2 == opCH then chainRow s c o use
      else if isTile o.f2 then (if use then tileRow s c.die r.slot o.f2 o.b2 (eFirst o 1 + r.unit) else .ok s ⟨[], [], false⟩)
      else portRow s c.die r.slot .mxe o.f2 o.b2
    unitDo s c r r.unit <| row.bind fun s v =>
      let x := winOf (r.par o.f3)
      let s := if !use then s
        else s.modDie c.die fun d =>
          let d := addPass f o.fmt x v (x.arow + r.unit) d
          let d := (d.countSlot c.die r.slot 1 1).countSlot c.die r.slot 2 1
          f.slots.foldl (fun d k => d.modSlot k fun t => { t with w := passW f.y.semi }) d
      .ok s { r with unit := r.unit + 1 }
  else s.advRun c r o.na

/-- `mzero` (R259). -/
def mzeroStep (s : State) (c : Cur) (r : Run) (o : EOp) : State :=
  let f := s.frag c
  let x := winOf (r.par o.f3)
  if !winOk f maskMzero (r.par o.f3) x.acnt || x.acnt = 0 then startFault s c r 14 0
  else
    (s.modDie c.die fun d => (List.range x.acnt).foldl (fun d i =>
      (d.putAccRow f.b (x.arow + i) (List.replicate f.cols f.y.semi.ident)).setAccPsn f.b (x.arow + i) false) d).advRun c r o.na

/-! ## Drains (R260 to R263) -/

/-- An accumulator element after its post-operation: an integer for I32 and BIT, else a value (R261). -/
def postVal (oc : Tag) (op : Nat) (w : W32) : Int ⊕ Val :=
  if oc == 0 then
    let v := ofFp32 w
    .inr (match op with
      | 0 => v
      | 1 => if v.isNan then .nan else if v.sign then .zero false else v
      | 2 => v.abs
      | _ => v.neg)
  else if oc == 8 then
    let x := w.toInt
    .inl (match op with
      | 0 => x
      | 1 => if x < 0 then 0 else x
      | 2 => if x = -2147483648 then x else x.natAbs
      | _ => if x = -2147483648 then x else -x)
  else .inl (if w.getLsbD 0 then 1 else 0)

/-- An element converted to an unscaled output format (R237, R261). -/
def drainElem (t : Tag) (m : BitVec 3) (sat : Bool) (draw : W32) : Int ⊕ Val → Nat × Flg
  | .inl x => if fmtINT t then (fitInt (fwidth t) sat x, 0) else roundVal t m sat draw (.ofInt x)
  | .inr v => roundVal t m sat draw v

/-- The output rows of one accumulator row: data, scales, flags of each (R260, R261). `rw`: number of its first output row. -/
def drainRows (o : EOp) (seed : W32) (rw nx : Nat) (ws : List W32) : List (List Byte × List Byte × Flg) :=
  let m := eMod o
  let e := fcount o.fmt
  let p := (nx * fwidth o.fmt + 4095) / 4096
  let xs := ws.map (postVal m.oc m.min3.toNat)
  (List.range p).map fun i =>
    let mine := slice xs (e * i) e
    if fscaled o.fmt then
      let blocks := (List.range ((mine.length + 31) / 32)).map fun j =>
        quantBlock o.fmt ((slice mine (32 * j) 32).map fun x => match x with | .inl v => Val.ofInt v | .inr v => v)
      (rowOf o.fmt (blocks.flatMap fun q => q.2.1), natLe 192 (packElems 24 (blocks.map (·.1))), blocks.foldl (fun f q => f ||| q.2.2) 0)
    else
      let es := (List.range mine.length).map fun j =>
        drainElem o.fmt m.rnd m.sat (if m.rnd = 4 then srBits seed (rw + i) j else 0) (mine.getD j (.inl 0))
      (rowOf o.fmt (es.map (·.1)), [], es.foldl (fun f x => f ||| x.2) 0)

/-- What is read of an accumulator row: its words, undefined where it is poisoned (R81; log entry 3). -/
def State.seenAcc (s : State) (ws : List W32) (psn : Bool) : State × List W32 :=
  if psn then
    let n := s.draws
    ({ s with draws := n + 1 }, (List.range ws.length).map fun i => BitVec.ofNat 32 (leNat ((List.range 4).map fun j => Config.freeByte n (4 * i + j))))
  else (s, ws)

/-- The value of a drain to `rq`: elements 0 and 1 (R262). -/
def drainWord (o : EOp) (seed : W32) (rw : Nat) (ws : List W32) : Word × Flg :=
  let m := eMod o
  let e (j : Nat) : Nat × Flg := drainElem o.fmt m.rnd m.sat (if m.rnd = 4 then srBits seed rw j else 0) (postVal m.oc m.min3.toNat (listGet 0 ws j))
  (BitVec.ofNat 64 ((e 0).1 + 2 ^ 32 * (e 1).1), (e 0).2 ||| (e 1).2)

/-- `CLR` after a row has been read: identity in the drained columns, poison only where they are all (R260, R381). -/
def clearRow (f : Frag) (x : AWin) (row : Nat) (d : Die) : Die :=
  if !x.clr then d
  else
    let nx := x.cols f
    let d := d.putAccRow f.b row (List.replicate nx f.y.semi.ident)
    if nx == f.cols then d.setAccPsn f.b row false else d

/-- Rows pushed to a port one after another, with their scales where `sc`. -/
def pushRows (s : State) (c : Cur) (r : Run) (code : BitVec 5) (sc : Bool) (unit : Nat) : List RowVal → Got Unit
  | [] => .ok s ()
  | v :: vs => (portPush s c r code v sc unit).bind fun s _ => pushRows s c r code sc unit vs

/-- One step of `mdrain`: its checks; then an accumulator row with its output rows, or, to `ch`, one chain row once a credit is free (R50, R51, R262, R380). -/
def mdrainStep (s : State) (c : Cur) (r : Run) (o : EOp) : State :=
  let f := s.frag c
  let n := eCount o 0
  let w := r.par o.f3
  let x := winOf w
  let nx := x.cols f
  let p := if o.f1 == opRQ then 1 else (nx * fwidth o.fmt + 4095) / 4096
  let raw := (eMod o).raw
  if !r.started then
    match if o.f1 == opCH then (if f.y.dst.isSome then none else some 15) else if isPort o.f1 then dstCheck (s.die c.die) r.slot o.f1 o.fmt raw else none with
    | some code => startFault s c r code 0
    | none =>
      if !winOk f maskMdrain w 0 || n % p != 0 || f.rows < x.arow + n / p then startFault s c r 14 0
      else
        let s := if isTile o.f1 then s.modSlot c.die r.slot fun t => t.modTile o.f1 fun y => y.start (eFirst o 0) n (some o.fmt) else s
        s.setRun c { r with started := true }
  else if r.unit < n / p then
    let row := x.arow + r.unit
    let psn := (s.die c.die).accPsn f.b row
    let q := s.seenAcc ((s.die c.die).accRow f.b row nx) psn
    let fin (s : State) (r : Run) (k : Nat) (fl : Flg) : Got Run :=
      .ok (s.modDie c.die (clearRow f x row)) { r with unit := r.unit + 1, part := 0, rw := r.rw + k, flags := r.flags ||| fl }
    unitDo s c r r.unit <|
      if o.f1 == opRQ then
        let v := drainWord o r.ent.seed r.rw q.2
        (rqPush q.1 c r.slot 2 v.1 psn).bind fun s _ => fin s r 1 v.2
      else
        let rw0 := r.rw - r.part
        let outs := drainRows o r.ent.seed rw0 nx q.2
        let vals : List RowVal := outs.map fun y => ⟨y.1, y.2.1, psn⟩
        let fl := outs.foldl (fun a y => a ||| y.2.2) 0
        if isTile o.f1 then
          let s := q.1.modSlot c.die r.slot fun t => t.modTile o.f1 fun y =>
            (List.range p).foldl (fun (y : Tile) i => y.put (eFirst o 0 + r.unit * p + i) (vals.getD i ⟨[], [], false⟩) (fscaled o.fmt)) y
          fin s r p fl
        else if o.f1 == opCH then
          match f.y.dst with
          | none => .wait
          | some t =>
            if 64 ≤ ((s.die c.die).layOf t).buf.length then .wait
            else
              let one := (outs.getD r.part ([], [], 0))
              let s := q.1.modDie c.die fun d => d.modLay t fun y => { y with buf := y.buf ++ [⟨o.fmt, one.1, psn⟩] }
              if r.part + 1 < p then .ok s { r with part := r.part + 1, rw := r.rw + 1, flags := r.flags ||| one.2.2 }
              else fin s r 1 one.2.2
        else (pushRows q.1 c r o.f1 (fscaled o.fmt) r.unit vals).bind fun s _ => fin s r p fl
  else s.advRun c r o.na

def execMldb (o : EOp) (s : State) : Out := engDo (fun s c r => mldbStep s c r o) s
def execMcb (o : EOp) (s : State) : Out := engDo (fun s c r => mcbStep s c r o) s
def execMsemi (o : EOp) (s : State) : Out :=
  engDo (fun s c r => (s.modDie c.die fun d => d.modLay (s.frag c).b fun y => { y with semi := semiOf (eMod o).min3.toNat }).advRun c r o.na) s
def execMmul (o : EOp) (s : State) : Out := engDo (fun s c r => passStep s c r o false) s
def execMmulm (o : EOp) (s : State) : Out := engDo (fun s c r => passStep s c r o true) s
def execMzero (o : EOp) (s : State) : Out := engDo (fun s c r => mzeroStep s c r o) s
def execMdrain (o : EOp) (s : State) : Out := engDo (fun s c r => mdrainStep s c r o) s

/-! ## Events -/

/-- Slot j holds columns, from 0 on, of the accumulator row that the run is at. -/
def accIn (f : Frag) (r : Run) (j : SlotId) (x : AWin) : Bool :=
  f.slots.contains j && j.val / 2 == f.b.val / 2 + (x.arow + r.unit) / 128 && 512 * (j.val % 2 - f.b.val % 2) < x.cols f

/-- Which storage of slot j the next pass reads. -/
def passReads (f : Frag) (r : Run) (j : SlotId) (o : EOp) (e : ArrErr) : Bool :=
  let x := winOf (r.par o.f3)
  match e with
  | .tileRow t row => j == r.slot && isTile o.f2 && tidx o.f2 == t && row.val == eFirst o 1 + r.unit
  | .accRow row => accIn f r j x && (x.arow + r.unit) % 128 == row.val
  | .column col => f.slots.contains j && col.val + 512 * (j.val % 2 - f.b.val % 2) < x.cols f
  | .table t => f.slots.contains j && fcode f.y.wfmt == 9 && 256 * t.val + 512 * (j.val % 2 - f.b.val % 2) < x.cols f
  | .chainRow i => o.f2 == opCH && j == f.b && i.val == 0
  | _ => false

/-- Which storage of slot j the next unit of a matrix instruction reads (R386). -/
def mxeReads (f : Frag) (r : Run) (j : SlotId) : Instr → ArrErr → Bool
  | .mldb o, .corrected => j == r.slot && isTile o.f2
  | .mcb _, .corrected => j == r.slot
  | .mmul o, .corrected => f.slots.contains j || (j == r.slot && isTile o.f2)
  | .mmulm o, .corrected => bitAt (r.par (eMod o).oc) r.unit && (f.slots.contains j || (j == r.slot && isTile o.f2))
  | .mdrain o, .corrected => accIn f r j (winOf (r.par o.f3))
  | .mldb o, .tileRow t row => j == r.slot && isTile o.f2 && tidx o.f2 == t && row.val == eFirst o 1 + r.unit
  | .mcb o, .tileRow t row => j == r.slot && tidx o.f2 == t && (row.val == eFirst o 1 || row.val == eFirst o 1 + 1)
  | .mmul o, e => passReads f r j o e
  | .mmulm o, e => bitAt (r.par (eMod o).oc) r.unit && passReads f r j o e
  | .mdrain o, .accRow row =>
    let x := winOf (r.par o.f3)
    accIn f r j x && (x.arow + r.unit) % 128 == row.val
  | _, _ => false

/-- Rows are left for the matrix instruction to take: what follows the last reads nothing. -/
def mxeLeft (s : State) (c : Cur) (r : Run) : Instr → Bool
  | .mldb o | .mmul o | .mmulm o => r.unit < eCount o 0
  | .mcb _ => true
  | .mdrain o =>
    let nx := (winOf (r.par o.f3)).cols (s.frag c)
    let p := if o.f1 == opRQ then 1 else (nx * fwidth o.fmt + 4095) / 4096
    r.unit < eCount o 0 / p
  | _ => false

/-- One step of a matrix instruction. -/
def mxeStep (s : State) (c : Cur) (r : Run) : Instr → State
  | .mldb o => mldbStep s c r o
  | .mcb o => mcbStep s c r o
  | .mmul o => passStep s c r o false
  | .mmulm o => passStep s c r o true
  | .mdrain o => mdrainStep s c r o
  | _ => s

/-- The next unit of the matrix instruction at work, a pass above all, meeting what the surroundings decide of the SRAM of slot j that it reads (R257, R386). -/
def execMatrixPass (d : DieId) (k j : SlotId) (e : ArrErr) (s : State) : Out :=
  let c : Cur := ⟨d, .eng k .mxe, 8⟩
  match s.run c with
  | none => .next s
  | some r =>
    match r.code[r.pos]? with
    | none => .next s
    | some w =>
      let ready := match w.2 with | .mcb _ => true | _ => r.started
      if !ready || !(s.die d).entryGoes c r then .next s
      else
        let f := s.frag c
        if mxeLeft s c r w.2 then .next (withError s c j e (mxeReads f r j w.2) fun s => mxeStep s c r w.2) else .next (mxeStep s c r w.2)

/-- A chained drain sends its next chain row once a credit is free (R51). -/
def execChainRowSend (d : DieId) (k : SlotId) (s : State) : Out :=
  let c : Cur := ⟨d, .eng k .mxe, 8⟩
  match s.run c with
  | none => .next s
  | some r =>
    match r.code[r.pos]? with
    | some (_, .mdrain o) => if o.f1 == opCH && r.started && (s.die d).entryGoes c r then .next (mdrainStep s c r o) else .next s
    | _ => .next s

end Sys2Proof.Machine
end

