-- ==== Sys2Proof/Machine/Save.lean ====
section
/-! DEFINITION. The context save area (R370, R373 to R376): images of a strand's slot, of a block and of its trap record, their writing and reading under the block's ASID, the checks of a restore, and team windows (R35, R93). -/

namespace Sys2Proof.Machine

/-! ## Images -/

/-- Pieces of an image: offset, bytes, and whether they come from poisoned storage. -/
abbrev Image := List (Nat × List Byte × Bool)

def zeros (n : Nat) : List Byte := List.replicate n 0
def boolNat (b : Bool) : Nat := if b then 1 else 0
/-- A bit vector from booleans, bit 0 first. -/
def bitsNat (l : List Bool) : Nat := l.foldr (fun b n => boolNat b + 2 * n) 0

def semiNo : Semi → Nat
  | .plusTimes => 0 | .minPlus => 1 | .maxPlus => 2 | .maxTimes => 3 | .orAnd => 4

/-- Two's complement of an integer in 32 bits. -/
def int32 (x : Int) : Nat := (x % (2 ^ 32 : Int)).toNat

/-- A port's image of R165, then its walker indices and `DIR`. -/
def Port.image (p : Port) : List Byte :=
  let q := p.release
  let head := match q.cfg with
    | none => zeros 64
    | some c =>
      natLe 8 c.base ++ c.cnt.toList.flatMap (natLe 2) ++ (c.str.toList.flatMap fun x => natLe 4 (int32 x)) ++
      natLe 8 (int32 c.sco * 2 ^ 32 + 256 * boolNat c.dir + c.tag.toNat) ++ zeros 24
  head ++ q.ix.toList.flatMap (natLe 8) ++ natLe 8 (match q.cfg with | some c => boolNat c.dir | none => 0) ++ zeros 24

/-- The word a run stands at, in halfwords from its header; past the body where it has ended. -/
def Run.offset (r : Run) : Nat :=
  if r.part == unchecked then max r.pos 2
  else match r.code[r.pos]? with
    | some x => x.1
    | none => match r.code.getLast? with | some x => x.1 + 1 | none => 2

/-- A queue entry in 128 bytes; `r`: the position of a head entry. -/
def entryBytes (e : Entry) (r : Option Run) : List Byte :=
  natLe 8 e.hdr.toNat ++ e.e.toList.flatMap (wordLe 8) ++ [e.wait, e.sig, 0, 0] ++ natLe 4 e.seed.toNat ++
  (match r with
   | some r => natLe 8 r.offset ++ natLe 8 r.iter ++ natLe 4 r.unit ++ natLe 4 r.rw
   | none => zeros 24) ++ zeros 24

/-- The direct collective entry at work, where the strand that the slot is bound to pushed it (R287, R321). -/
def Die.dirAt (d : Die) (k : SlotId) : Option Run := d.coe.run.filter fun r => r.slot == k && d.coe.own.all fun o => (d.slot k).ctl.own == some o

/-- The run of a slot's queue q, where its head entry has started. -/
def Die.runOf (d : Die) (k : SlotId) (q : Nat) : Option Run :=
  let mine (r : Option Run) : Option Run := r.filter fun r => r.slot == k
  match q with
  | 0 => (d.slot k).lde
  | 1 => (d.slot k).are
  | 2 => (d.slot k).ste
  | 3 => mine (d.slot (d.baseOf k)).mxe
  | 4 => (d.slot k).cpeAt <|> mine (vget d.cpe (clusterOf k)).run
  | _ => (d.slot k).coeAt <|> d.dirAt k

/-- Partial state of a queue: reduced values, the counts of a multicast, the occupancy of the chain buffer (log entry 42). -/
def Die.partialOf (d : Die) (k : SlotId) (q : Nat) : List Byte :=
  padTo 0 256 (match d.runOf k q, q with
    | some r, 1 => r.red.flatMap fun x => natLe 4 x.1.toNat
    | some r, 4 => natLe 8 r.mSent ++ natLe 8 r.mAck ++ natLe 8 r.mAll
    | _, 3 => natLe 8 (d.layOf k).buf.length
    | _, _ => [])

/-- Numbers of the registers that wait for the reservations of queue q, in order: 0 where a return has discarded the result's register, which is then written nowhere (R138). -/
def Slot.targets (t : Slot) (q : Fin 4) : List Nat :=
  (vget t.resv q).map fun tag => ((List.range 32).find? fun i => (vget t.ctl.regs.x ⟨i % 32, Nat.mod_lt _ (by decide)⟩).wait == some tag).getD 0

/-- The strand's counts of R193. -/
def Die.arvOf (d : Die) (k : SlotId) : W32 × W32 × W32 :=
  match (d.slot k).ctl.own, d.ownBlk k with
  | some o, some b => match b.recs[o.sidx]? with | some r => (r.arvS, r.arvC, r.arvD) | none => (0, 0, 0)
  | _, _ => (0, 0, 0)

/-- An entry of a record table (R373): `V`, the response kept, the index. -/
def tableEntry (i : Byte) (kept : Option Nat) : Nat := 2 ^ 15 + (match kept with | some x => 2 ^ 14 + 256 * x | none => 0) + i.toNat
/-- The record table of a strand (R373): records of faults that stand on the slot, and records still open from before. A fault that has no record yet has no entry. -/
def faultTable (fs : List (Nat × Option Byte × Option Nat)) : List Nat :=
  (List.range 8).map fun a => match fs.find? fun f => f.1 == a with
    | some (_, some i, kept) => tableEntry i kept
    | _ => 0
def Die.faultsOf (d : Die) (k : SlotId) : List (Nat × Option Byte × Option Nat) :=
  let t := d.slot k
  let here := (List.finRange 8).filterMap fun a => (vget t.flt a).map fun p => (a.val, p.idx, p.kept)
  let before := match t.ctl.own, d.ownBlk k with
    | some o, some b => (b.flts.filter fun (e : Nat × Nat × PFault) => e.1 == o.sidx).map fun (e : Nat × Nat × PFault) => (e.2.1, e.2.2.idx, e.2.2.kept)
    | _, _ => []
  here ++ before.filter fun e => !(here.any fun h => h.1 == e.1)

/-- The slot region of R373. -/
def Die.slotImage (d : Die) (k : SlotId) : Image :=
  let t := d.slot k
  let c := t.ctl
  let a := d.arvOf k
  let words (l : List Word) : List Byte := l.flatMap (wordLe 8)
  let full := bitsNat (c.regs.x.toList.map fun x => x.wait.isNone)
  let preds := bitsNat (c.regs.p.toList.drop 1)
  let at_ (o : Nat) (l : List Byte) : Nat × List Byte × Bool := (o, l, false)
  [ at_ 0 (c.regs.x.toList.flatMap fun x => wordLe 8 x.val), at_ 0x100 (natLe 8 (full + 2 ^ 32 * preds)),
    at_ 0x108 (words [c.csr.wsp, c.csr.wlim, c.csr.wdepth.setWidth 64, c.csr.vflags.setWidth 64, c.rng.setWidth 64, c.mlstat]),
    at_ 0x138 (words [c.csr.thnd, c.csr.tepc, c.csr.tcause, if c.csr.hm then 1 else 0]), at_ 0x158 (natLe 8 c.csr.psnst.toNat),
    at_ 0x160 t.toks.toList, at_ 0x168 (natLe 4 a.1.toNat), at_ 0x16C (natLe 4 a.2.1.toNat ++ natLe 4 a.2.2.toNat),
    at_ 0x180 (t.sems.toList.flatMap fun v => natLe 4 v.toNat),
    at_ 0x200 (t.rq.toList.flatMap fun l => padTo 0 128 (l.flatMap fun r => wordLe 8 r.1)),
    at_ 0x400 ((List.finRange 4).flatMap fun q =>
      padTo 0 16 [BitVec.ofNat 8 (vget t.rq q).length, BitVec.ofNat 8 (vget t.resv q).length] ++ padTo 0 16 ((t.targets q).map (BitVec.ofNat 8 ·))),
    at_ 0x480 ((faultTable (d.faultsOf k)).flatMap (natLe 2)),
    at_ 0x1000 ((List.finRange 6).flatMap fun q =>
      let es := vget t.q q
      padTo 0 2048 (match es with
        | [] => []
        | e :: r => entryBytes e (d.runOf k q.val) ++ r.flatMap fun x => entryBytes x none) ++ d.partialOf k q.val),
    at_ 0x5000 (t.ports.toList.flatMap Port.image),
    at_ 0x6000 ((t.tiles.toList.flatMap fun x => natLe 8 x.tag.toNat ++ natLe 8 x.full.toNat ++ natLe 8 x.psn.toNat ++ zeros 8) ++ natLe 16 t.bank.accPsn.toNat),
    at_ 0x7000 ((t.bank.cb.toList.flatMap fun x => spRead 0 x 0 768) ++ natLe 64 t.bank.wPsn.toNat ++ natLe 8 (bitsNat t.bank.cbPsn.toList)) ]
  ++ ((List.finRange 16).flatMap fun i => (List.range 64).map fun r =>
      (0x8000 + 0x8000 * i.val + 512 * r, spRead (0 : Byte) (vget t.tiles i).data (512 * r) 512, (vget t.tiles i).isPsn r))
  ++ ((List.finRange 16).map fun i => at_ (0x88000 + 0x3000 * i.val) (spRead (0 : Byte) (vget t.tiles i).side 0 (192 * 64)))
  ++ [at_ 0xB8000 ((spRead (0 : BitVec 24) t.bank.wsc 0 4096).flatMap fun v => natLe 3 v.toNat)]
  ++ ((List.range 512).map fun i => (0xC0000 + 128 * i, spRead (0 : Byte) t.bank.wts (128 * i) 128, t.bank.wPsn.getLsbD i))
  ++ ((List.range 128).map fun r => (0xD0000 + 2048 * r, (spRead (0 : W32) t.bank.acc (512 * r) 512).flatMap fun v => natLe 4 v.toNat, t.bank.accPsn.getLsbD r))
  ++ ((List.range (d.layOf k).buf.length).filterMap fun i => ((d.layOf k).buf[i]?).map fun (x : ChainRow) => (0x110000 + 512 * i, x.data, x.psn))

def slotRegion (i : Nat) : Nat := 0x10000 + i * 0x120000

/-- The trap record of a strand (R370). -/
def Die.trapRecord (d : Die) (k : SlotId) : List Byte :=
  let t := d.slot k
  let code := match (List.finRange 8).findSome? fun a => vget t.flt a with | some p => p.r.code | none => 0
  natLe 8 t.ctl.pc.toNat ++ natLe 8 (t.ctl.ccnt.toNat + 2 ^ 32 * code) ++
  ((List.finRange 6).flatMap fun q => natLe 4 (vget t.pseq q).toNat ++ natLe 4 (vget t.cseq q).toNat)

/-- Layout, chain links, formats and semirings of slots in the order given, with bases by position (R373). -/
def Die.fragImage (d : Die) (ks : List SlotId) : List Byte :=
  let ix (k : SlotId) : Nat := ks.idxOf k
  let lay := ks.map fun k => let y := d.layOf k; if y.v then 128 + 16 * y.shape.val + 2 * ix y.base else 0
  let chain := (List.range ks.length).foldl (fun n i =>
    match ks[i]? with
    | some k =>
      let y := d.layOf k
      n + (match y.dst with | some t => (8 + ix t) * 16 ^ i | none => 0) + boolNat (!y.buf.isEmpty) * 2 ^ (32 + i)
    | none => n) 0
  let fm := ks.map fun k => let y := d.layOf k; if y.v && y.base == k then 8 * y.wfmt.toNat + semiNo y.semi else 0
  padTo 0 8 (lay.map (BitVec.ofNat 8 ·)) ++ natLe 8 chain ++ padTo 0 8 (fm.map (BitVec.ofNat 8 ·))

/-- A collective context as it is saved: validity and group, frame and step, `T0`, O, round, timetable (log entry 42). -/
def KCtx.image (k : KCtx) : List Byte :=
  padTo 0 256 (natLe 8 (2 ^ 63 + 2 ^ 32 * k.grp.toNat + boolNat k.inFrame) ++ natLe 8 (k.frame % 2 ^ 32 + 2 ^ 32 * (k.step % 2 ^ 32)) ++ wordLe 8 k.t0 ++
    natLe 8 k.ofs ++ natLe 8 k.round ++ natLe 8 k.tt)

/-- A context that a block's strand pushed. -/
def KCtx.ofBlk (k : KCtx) (lid b : Nat) : Bool := k.own.lid == lid && k.own.blk == b
/-- The contexts of a block's strands, in the order of their number. -/
def Die.ctxsOf (d : Die) (lid b : Nat) : List KCtx := d.coe.ctx.toList.filterMap fun x => x.filter fun k => k.ofBlk lid b
/-- Their place in the block region (R373). -/
def Die.ctxImage (d : Die) (lid b : Nat) : Image := [(0x400, padTo 0 2048 ((d.ctxsOf lid b).flatMap KCtx.image), false)]

/-- The block region of R373 but for the collective contexts, which are saved once their engine has stopped (R321). -/
def Die.blkImage (d : Die) (l : Launch) (b : Blk) : Image :=
  [ (0, natLe 8 (l.shape.val + 256 * shapeStrands l.shape), false), (8, d.fragImage b.slots, false), (0x20, zeros 32, false),
    (0x40, b.slots.flatMap fun k => natLe 2 (bitsNat ((faultTable (d.faultsOf k)).map fun x => decide (x ≠ 0))), false),
    (0x100, b.slots.flatMap d.trapRecord, false) ]

/-! ## Writing and reading under the block's ASID (R374, R375) -/

/-- The collector translates a range of a save area through the collective engine's TLB, under the block's ASID. -/
def csAccess (dn : DieId) (d : Die) (asid : Half) (va n : Nat) (wr : Bool) : XRes (List Piece) :=
  let g := d.gate
  let back (d : Die) : Die := { d with gate := g }
  match accessRow dn { d with gate := { g with g := g.v } } ⟨.coll, asid, none, none⟩ va n ⟨[0], !wr, wr⟩ with
  | .ok d ps => match ps.find? d.leafBad with
    | some p => .fault (back d) 23 (lineVa p.va)
    | none => .ok (back d) ps
  | .wait d => .wait (back d)
  | .fault d c x => .fault (back d) c x

/-- A die-scope store of the collector, its translation checked line by line; poisoned bytes poison the lines they fill. -/
def csStore (dn : DieId) (d : Die) (asid : Half) (va : Nat) (bs : List Byte) (psn : Bool) : XRes Unit :=
  match csAccess dn d asid va bs.length true with
  | .ok d ps => .ok (ps.foldl (fun d p => match p.loc with | .here pa => (d.markDirty .coll p).poke pa (slice bs (p.va - va) p.len) psn | _ => d) d) ()
  | .wait d => .wait d
  | .fault d c x => .fault d c x

/-- Where the lines of a range lie: virtual and physical line numbers. -/
def csLines (dn : DieId) (asid : Half) : List (Nat × Nat) → Die → XRes (List (Nat × Nat))
  | [], d => .ok d []
  | (va, n) :: r, d =>
    match csAccess dn d asid va n true with
    | .ok d ps => (csLines dn asid r d).map fun l => (ps.filterMap fun p => match p.loc with | .here pa => some (p.va / 128, pa / 128) | _ => none) ++ l
    | .wait d => .wait d
    | .fault d c x => .fault d c x
/-- Bytes written to a save area whose lines have been found: no translation is left that could fail. -/
def Die.csPoke (d : Die) (ls : List (Nat × Nat)) (va : Nat) (bs : List Byte) (psn : Bool) : Die :=
  (cutLines va bs.length).foldl (fun d c => match ls.find? (·.1 == c.1 / 128) with
    | some q => d.poke (128 * q.2 + c.1 % 128) (slice bs (c.1 - va) c.2) psn
    | none => d) d

def csLoad (dn : DieId) (d : Die) (asid : Half) (va n : Nat) : XRes (List Byte × Bool) :=
  match csAccess dn d asid va n false with
  | .ok d ps =>
    .ok d (ps.flatMap fun p => match p.loc with | .here pa => d.peek pa p.len | _ => [], ps.any fun p => match p.loc with | .here pa => d.poisoned pa p.len | _ => false)
  | .wait d => .wait d
  | .fault d c x => .fault d c x

/-- All pieces of an image, from a base address: what is written before a fault stays. -/
def putImage (dn : DieId) (asid : Half) (base : Nat) : Image → Die → XRes Unit
  | [], d => .ok d ()
  | (o, bs, q) :: r, d =>
    match csStore dn d asid (base + o) bs q with
    | .ok d _ => putImage dn asid base r d
    | .wait d => .wait d
    | .fault d c x => .fault d c x

/-- Pieces read back: offset and length of each. -/
def getImage (dn : DieId) (asid : Half) (base : Nat) : List (Nat × Nat) → Die → XRes Image
  | [], d => .ok d []
  | (o, n) :: r, d =>
    match csLoad dn d asid (base + o) n with
    | .fault d c x => .fault d c x
    | .wait d => .wait d
    | .ok d v =>
      match getImage dn asid base r d with
      | .fault d c x => .fault d c x
      | .wait d => .wait d
      | .ok d i => .ok d ((o, v.1, v.2) :: i)

def Image.piece (i : Image) (o : Nat) : List Byte × Bool := match i.find? fun x => x.1 == o with | some x => x.2 | none => ([], false)
def Image.bytes (i : Image) (o : Nat) : List Byte := (i.piece o).1

/-- A save over several places, one after the other: stops at the first fault, whose place it tells. -/
def putAll (dn : DieId) (asid : Half) : List (Nat × Image) → Die → XRes Unit
  | [], d => .ok d ()
  | (base, img) :: r, d =>
    match putImage dn asid base img d with
    | .ok d _ => putAll dn asid r d
    | .wait d => .wait d
    | .fault d c x => .fault d c x

/-- What a block's save writes: its region, then its strands' (R373). -/
def Die.saveImages (d : Die) (l : Launch) (b : Blk) : List (Nat × Image) :=
  (l.saveAt b.l, d.blkImage l b) :: (List.range b.slots.length).filterMap fun i => (b.slots[i]?).map fun k => (l.saveAt b.l + slotRegion i, d.slotImage k)

/-- Windows of a team: vault, base in 64 KiB units, place in the save area (R35, R373). -/
def teamWindows (l : Launch) (t : Team) : List (Nat × Nat) :=
  if l.zw = 0 then []
  else if t.wide then [(vault0 + t.base0 * 65536, l.windowsAt t.t), (vault1 + t.base1 * 65536, l.windowsAt t.t + l.zw * 65536)]
  else [(if t.cluster = 0 then vault0 + t.base0 * 65536 else vault1 + t.base1 * 65536, l.windowsAt t.t)]

/-- A window as an image, line by line. -/
def Die.windowImage (d : Die) (l : Launch) (pa : Nat) : Image :=
  (List.range (l.zw * 512)).map fun i => (128 * i, d.peek (pa + 128 * i) 128, d.poisoned (pa + 128 * i) 128)

/-! ## Checks of a restore (R376) -/

/-- Pieces of the slot region as a restore reads them. -/
def slotPieces : List (Nat × Nat) :=
  [(0, 256), (0x100, 8), (0x108, 48), (0x138, 32), (0x158, 8), (0x160, 8), (0x168, 4), (0x16C, 8), (0x180, 128), (0x200, 512), (0x400, 128), (0x480, 16),
   (0x1000, 13824), (0x5000, 1024), (0x6000, 528), (0x7000, 1608)]
  ++ ((List.range 1024).map fun i => (0x8000 + 512 * i, 512)) ++ ((List.range 16).map fun i => (0x88000 + 0x3000 * i, 0x3000)) ++ [(0xB8000, 0x3000)]
  ++ ((List.range 512).map fun i => (0xC0000 + 128 * i, 128)) ++ ((List.range 128).map fun r => (0xD0000 + 2048 * r, 2048))
  ++ ((List.range 64).map fun i => (0x110000 + 512 * i, 512))
def blkPieces : List (Nat × Nat) := [(0, 8), (8, 24), (0x20, 32), (0x40, 16), (0x100, 512), (0x400, 2048)]

def byteAt (l : List Byte) (i : Nat) : Nat := (listGet 0 l i).toNat

/-- Do layout bytes place fragments of R42 over slots in the order of `ks`? -/
def layoutOk (ks : List SlotId) (lay : List Byte) : Bool :=
  (List.range 8).all fun i =>
    let b := byteAt lay i
    match ks[i]? with
    | none => b == 0
    | some _ =>
      let sh := b / 16 % 8
      let bs := b / 2 % 8
      128 ≤ b && b % 2 == 0 && sh < 6 && bs ≤ i && (match ks[bs]? with
        | none => false
        | some k0 => match placement (mkShape sh) k0 with
          | none => false
          | some ps => ps.all fun k => ks.contains k && byteAt lay (ks.idxOf k) == b)

/-- The first offset of the block region at which a field is malformed. -/
def badBlk (l : Launch) (ks : List SlotId) (i : Image) : Option Nat :=
  let w0 := leNat (i.bytes 0)
  let f := i.bytes 8
  let n := ks.length
  if w0 != l.shape.val + 256 * n then some 0
  else if !layoutOk ks (slice f 0 8) then some 8
  else if !((List.range 8).all fun j =>
      let x := leNat (slice f 8 8) / 16 ^ j % 16
      x < 8 && x == 0 || j < n && x - 8 < n && byteAt f (x - 8) / 2 % 8 == x - 8 && byteAt f j / 2 % 8 == j) || 2 ^ 40 ≤ leNat (slice f 8 8) then some 16
  else if !((List.range 8).all fun j =>
      let x := byteAt f (16 + j)
      if j < n && byteAt f j / 2 % 8 == j then x % 8 < 5 && tagLegal (BitVec.ofNat 5 (x / 8)) else x == 0) then some 24
  else if (i.bytes 0x20).any (· != 0) then some 0x20
  else (List.range n).findSome? fun j =>
    let trap := slice (i.bytes 0x100) (64 * j) 16
    if 2 ^ 52 ≤ leNat (slice trap 0 8) then some (0x100 + 64 * j) else if 2 ^ 40 ≤ leNat (slice trap 8 8) then some (0x108 + 64 * j) else none

/-- The entries a queue holds by its sequence numbers. -/
def seqCount (trap : List Byte) (q : Nat) : Nat := (leNat (slice trap (16 + 8 * q) 4) + 2 ^ 32 - leNat (slice trap (20 + 8 * q) 4)) % 2 ^ 32

/-- The units of an engine word: rows, columns, passes, elements (R219, R246, R264, R269, R294). A copy's chunks are bounded by its bytes. -/
def unitMax (r : Run) : Instr → Nat
  | .ldr o | .ldt o | .ldrec o | .ldx o | .ldsc o | .ldv o | .pfx o | .mldb o | .mmul o | .mmulm o | .mdrain o => eCount o 0
  | .str o | .stt o | .strec o | .stx o | .stsc o | .stv o => eCount o 1
  | .pcfg _ => 1
  | .mcast o => r.lenPar o.f3 / 128
  | .kwid o | .kadd o | .kreq o => fld (r.par o.f3) 0 32
  | .ksend o => r.lenPar o.f3
  | i => match arePlan i, copyPlan r i with
    | some p, _ => p.n
    | none, some p => p.1.rows * p.1.rb
    | none, none => 0

/-- Does a copy or multicast stand past its end by its saved counts, `m` and `n` (R373)? -/
def countsPast (r : Run) (m n : Nat) (i : Instr) : Bool :=
  match i, copyPlan r i with
  | .mcast o, _ => decide (r.lenPar o.f3 / 128 < m) || decide (m < n)
  | _, some p => decide (p.1.rows < m) || decide (p.1.rb < n)
  | _, none => false

/-- The first offset, from its queue's place on, at which the position saved with a head entry lies beyond the entry; `e`: its 128 bytes, `part`: the queue's partial state. -/
def badPos (r : Option Run) (e part : List Byte) : Option Nat :=
  let off := leNat (slice e 0x50 8)
  let iter := leNat (slice e 0x58 8)
  let unit := leNat (slice e 0x60 4)
  match r with
  | none => if off != 0 || iter != 0 || unit != 0 || leNat (slice e 0x64 4) != 0 then some 0x50 else none
  | some r =>
    let w := r.code.find? fun x => off ≤ x.1
    if off = 0 then none
    else if w.isNone && off != r.offset then some 0x50
    else if r.count < iter then some 0x58
    else if (match w with | some x => unitMax r x.2 | none => 0) < unit then some 0x60
    else if r.started && (match w with | some x => countsPast r (leNat (slice part 0 8)) (leNat (slice part 8 8)) x.2 | none => false) then some 0x800
    else none

/-- The first malformed field of an image of a port: its parameters (R165), its walker's indices, `DIR`, the reserved bytes (R376). -/
def badPort (b : List Byte) : Option Nat :=
  let ix (l : Nat) : Nat := leNat (slice b (64 + 8 * l) 8)
  let dir := leNat (slice b 96 8)
  if (slice b 104 24).any (· != 0) then some 104
  else if (slice b 0 64).all (· == 0) then (if (slice b 64 40).any (· != 0) then some 64 else none)
  else match parsePort (slice b 0 64) with
    | none => some 0
    | some c => match (List.finRange 4).find? fun l => decide (vget c.cnt l ≤ ix l.val) with
      | some l => some (64 + 8 * l.val)
      | none => if dir != boolNat c.dir then some 96 else none

/-- The first malformed field of a queue's entries: a reserved byte, a position beyond its entry, or bytes that only a head entry uses (R373, R376). -/
def badQueue (runs : List (Nat × Run)) (k n : Nat) (b : List Byte) : Option Nat :=
  if 16 < n then some 0
  else (List.range n).findSome? fun j =>
    let e := slice b (128 * j) 128
    if (slice e 0x4A 2).any (· != 0) then some (128 * j + 0x4A)
    else if j = 0 then (badPos ((runs.find? fun r => r.1 == k).map (·.2)) e (slice b 2048 256)).or (if (slice e 0x68 24).any (· != 0) then some 0x68 else none)
    else if (slice e 0x50 48).any (· != 0) then some (128 * j + 0x50) else none

/-- The first offset of a slot region at which a field is malformed. `runs`: the code of started entries, by queue. -/
def badSlot (runs : List (Nat × Run)) (trap : List Byte) (i : Image) : Option Nat :=
  let q (o : Nat) : Nat := leNat (i.bytes o)
  let w (o k : Nat) : Nat := leNat (slice (i.bytes o) (8 * k) 8)
  if 2 ^ 39 ≤ q 0x100 then some 0x100
  else if 2 ^ 52 ≤ w 0x108 0 || w 0x108 0 % 64 != 0 then some 0x108
  else if 2 ^ 52 ≤ w 0x108 1 || w 0x108 1 % 64 != 0 then some 0x110
  else if 256 ≤ w 0x108 2 then some 0x118
  else if 128 ≤ w 0x108 3 then some 0x120
  else if 2 ^ 32 ≤ w 0x108 4 then some 0x128
  else if 2 ^ 13 ≤ w 0x108 5 then some 0x130
  else if 2 ^ 52 ≤ w 0x138 0 || w 0x138 0 % 2 != 0 then some 0x138
  else if 2 ^ 52 ≤ w 0x138 1 then some 0x140
  else if 2 ≤ w 0x138 3 then some 0x150
  else if 32 ≤ q 0x158 then some 0x158
  else
    let rq := i.bytes 0x400
    match (List.range 4).find? fun k => 16 < byteAt rq (32 * k) || 16 < byteAt rq (32 * k + 1) || (slice rq (32 * k + 2) 14).any (· != 0)
        || (slice rq (32 * k + 16) 16).any (fun b => 32 ≤ b.toNat) with
    | some k => some (0x400 + 32 * k)
    | none =>
      match (List.range 8).find? fun a => byteAt (i.bytes 0x480) (2 * a + 1) / 4 % 16 != 0 with
      | some a => some (0x480 + 2 * a)
      | none =>
        match (List.range 6).findSome? fun k => (badQueue runs k (seqCount trap k) (slice (i.bytes 0x1000) (2304 * k) 2304)).map (0x1000 + 2304 * k + ·) with
        | some o => some o
        | none =>
          match (List.range 8).findSome? fun k => (badPort (slice (i.bytes 0x5000) (128 * k) 128)).map (0x5000 + 128 * k + ·) with
          | some o => some o
          | none =>
            let ts := i.bytes 0x6000
            match (List.range 16).find? fun k => 32 ≤ leNat (slice ts (32 * k) 8) || !tagLegal (BitVec.ofNat 5 (leNat (slice ts (32 * k) 8)))
                || (slice ts (32 * k + 24) 8).any (· != 0) with
            | some k => some (0x6000 + 32 * k)
            | none => if 4 ≤ leNat (slice (i.bytes 0x7000) 1600 8) then some (0x7000 + 1600) else none

/-! ## Requests that move with a strand (R322, R402) -/

/-- The place that issued a request, at another slot and in another context; an increment, which names none, keeps 0. -/
def moveWord (n : Nat) (k : SlotId) (x : Option Nat) : Nat :=
  if n = 0 then 0 else n % 2 ^ 192 + 2 ^ 192 * k.val + match x with | some x => 2 ^ 196 * (x + 1) | none => 0
/-- A fabric message as another agent of the die sends it. -/
def fabFrom (a : Agent) : FabMsg → FabMsg
  | .write s i n o b => .write { s with ag := a } i n o b
  | .sem s k i => .sem { s with ag := a } k i
  | .arrive s g i => .arrive { s with ag := a } g i
  | .marker s => .marker { s with ag := a }
def Rd.moved (w : Nat → Nat) (g : Piece → Piece) (r : Rd) : Rd := { r with word := w r.word, p := g r.p }
/-- An operation with its place and its pieces changed, issued by agent `a`. -/
def SbOp.moved (w : Nat → Nat) (g : Piece → Piece) (a : Agent) : SbOp → SbOp
  | .write ws q n s => .write (ws.map fun x => { x with p := g x.p }) q (w n) s
  | .freeh rs ds n s => .freeh ((rs.zip ds).map fun x => (locOff (g x.2).loc, x.1.2)) (ds.map g) (w n) s
  | .amo r o q b x => .amo (r.moved w g) o q b x
  | .fab p h m q n s => .fab p h (fabFrom a m) (g q) (w n) s
  | o => o
def Sent.moved (w : Nat → Nat) (g : Piece → Piece) (a : Agent) (p : Sent) : Sent := { p with rd := p.rd.map (·.moved w g), op := p.op.moved w g a, word := w p.word }
/-- As a block keeps them: slots by strand index. -/
def Sent.packed (p : Sent) (ks : List SlotId) (a : Agent) : Sent := p.moved (fun n => moveWord n (mkSlot (ks.idxOf (placeSlot n))) none) id a
/-- As the agent of a new placement holds them. -/
def Sent.placed (p : Sent) (ks : List SlotId) (x : Option Nat) (a : Agent) : Sent := p.moved (fun n => moveWord n (ks.getD (placeSlot n).val 0) x) id a

/-- Refused requests of an agent that stand for what slot `k` pushed, in the context `x` (R402). -/
def Die.refusedOf (d : Die) (a : Agent) (k : SlotId) (x : Option Nat) : List Sent :=
  (d.ag a).refused.filter fun p => if p.word = 0 then x.isNone && (d.run a).any (·.slot == k) else placeSlot p.word == k && placeCtx p.word == x

/-- A piece of a vault page after a swap-in: translated again, since the team's window may lie elsewhere (R35, R93, R322). -/
def Piece.again (dn : DieId) (d : Die) (w : Who) (p : Piece) : Piece :=
  match p.loc with
  | .here pa => if isVault pa then (match access dn d w p.va p.len ⟨[1], false, false⟩ with | .ok _ q => { p with loc := q.loc } | _ => p) else p
  | _ => p

/-! ## A slot rebuilt from its region (R322) -/

def entryOf (bs : List Byte) (seq : W32) : Entry :=
  { hdr := leWord (slice bs 0 8), e := Vector.ofFn fun i => leWord (slice bs (8 + 8 * i.val) 8), wait := listGet 0 bs 0x48, sig := listGet 0 bs 0x49
    seed := BitVec.ofNat 32 (leNat (slice bs 0x4C 4)), seq := seq, held := none }

/-- A saved position laid over the run that was at it. -/
def runBack (r : Run) (k : SlotId) (e : Entry) (bs part : List Byte) (q : Nat) : Run :=
  let off := leNat (slice bs 0x50 8)
  let r := { r with
    slot := k, ent := e, iter := leNat (slice bs 0x58 8), unit := leNat (slice bs 0x60 4), rw := leNat (slice bs 0x64 4)
    pos := if r.part == unchecked then r.pos else match r.code.findIdx? fun x => off ≤ x.1 with | some i => i | none => r.code.length }
  match q with
  | 1 => { r with red := (List.range r.red.length).filterMap fun i => (r.red[i]?).map fun (x : W32 × Bool) => (BitVec.ofNat 32 (leNat (slice part (4 * i) 4)), x.2) }
  | 4 => { r with mSent := leNat (slice part 0 8), mAck := leNat (slice part 8 8), mAll := leNat (slice part 16 8) }
  | _ => r

/-- The position saved for queue q, where its head entry had started. -/
def regionRun (k : SlotId) (i : Image) (trap : List Byte) (x : SlotAux) (q : Nat) : Option Run :=
  let b := slice (i.bytes 0x1000) (2304 * q) 2304
  match x.runs.find? fun r => r.1 == q with
  | some r =>
    if seqCount trap q = 0 || leNat (slice b 0x50 8) = 0 then none
    else some (runBack r.2 k (entryOf (slice b 0 128) (BitVec.ofNat 32 (leNat (slice trap (20 + 8 * q) 4)))) (slice b 0 128) (slice b 2048 256) q)
  | none => none

/-- Refused requests that a block keeps under a number: 0 to 4 the slot's agents, 5 the copy engine's, 6 the direct collective entry's, 16 + n those of its context n. -/
def SlotAux.refusedBy (x : SlotAux) (n : Nat) : List Sent := match x.refused.find? fun e => e.1 == n with | some e => e.2 | none => []

/-- The slot of a restored strand: everything R322 lists from the region, what R373 gives no place from the scheduler's own record. -/
def slotBack (t : Slot) (ks : List SlotId) (k : SlotId) (own : Owner) (i : Image) (trap : List Byte) (x : SlotAux) : Slot :=
  let w (o j : Nat) : Word := leWord (slice (i.bytes o) (8 * j) 8)
  let n4 (o j : Nat) : W32 := BitVec.ofNat 32 (leNat (slice (i.bytes o) (4 * j) 4))
  let m := leNat (i.bytes 0x100)
  let rq := i.bytes 0x400
  let tagOf (r : Nat) : Nat := match x.tags.find? fun e => e.1 == r with | some e => e.2 | none => 2 ^ 20 + r
  let regs : Regs :=
    { x := Vector.ofFn fun r => ⟨if r.val = 0 then 0 else w 0 r.val, if m / 2 ^ r.val % 2 = 1 then none else some (tagOf r.val)⟩
      p := Vector.ofFn fun p => p.val == 0 || m / 2 ^ (31 + p.val) % 2 == 1 }
  let csr : Csrs :=
    { wsp := w 0x108 0, wlim := w 0x108 1, wdepth := (w 0x108 2).setWidth 8, vflags := (w 0x108 3).setWidth 7, thnd := w 0x138 0, tepc := w 0x138 1
      tcause := w 0x138 2, hm := bitAt (w 0x138 3) 0, psnst := (w 0x158 0).setWidth 5 }
  let ml := leNat (slice (i.bytes 0x108) 40 8)
  let cseq (q : Nat) : W32 := BitVec.ofNat 32 (leNat (slice trap (20 + 8 * q) 4))
  let qBytes (q : Nat) : List Byte := slice (i.bytes 0x1000) (2304 * q) 2304
  let ents (q : Nat) : List Entry := (List.range (seqCount trap q)).map fun j => entryOf (slice (qBytes q) (128 * j) 128) (cseq q + BitVec.ofNat 32 j)
  let run (q : Nat) : Option Run := regionRun k i trap x q
  let agent (a : AgentSt) (n : Nat) (g : Agent) : AgentSt := { a with refused := (x.refusedBy n).map fun p => if n = 0 then p else p.placed ks none g }
  let tileAt (j : Nat) : Tile :=
    let h := slice (i.bytes 0x6000) (32 * j) 32
    let lost := bitsNat ((List.range 64).map fun r => (i.piece (0x8000 + 0x8000 * j + 512 * r)).2)
    { tag := BitVec.ofNat 5 (leNat (slice h 0 8)), full := BitVec.ofNat 64 (leNat (slice h 8 8)), psn := BitVec.ofNat 64 (leNat (slice h 16 8)) ||| BitVec.ofNat 64 lost
      data := (List.range 64).foldl (fun s r => spWrite 0 s (512 * r) (i.bytes (0x8000 + 0x8000 * j + 512 * r))) [], side := spWrite 0 [] 0 (i.bytes (0x88000 + 0x3000 * j)) }
  let cb := i.bytes 0x7000
  { t with
    ctl := { Ctl.idle with
      act := x.act, own := some own, pc := leWord (slice trap 0 8), ccnt := BitVec.ofNat 32 (leNat (slice trap 8 4)), rng := (w 0x108 4).setWidth 32
      regs := regs, csr := csr, mreq := ml / 4096 % 2 == 1, mheld := ml / 2048 % 2 == 1, mleft := ml % 2048, ntag := t.ctl.ntag + 2 ^ 21, arvs := x.arvs, due := x.due }
    tiles := Vector.ofFn fun j => tileAt j.val
    ports := Vector.ofFn fun j =>
      let b := slice (i.bytes 0x5000) (128 * j.val) 128
      ⟨if (slice b 0 64).all (· == 0) then none else parsePort (slice b 0 64), Vector.ofFn fun l => leNat (slice b (64 + 8 * l.val) 8), [], none⟩
    toks := Vector.ofFn fun j => listGet 0 (i.bytes 0x160) j.val
    sems := Vector.ofFn fun j => n4 0x180 j.val
    rq := Vector.ofFn fun q =>
      (List.range (byteAt rq (32 * q.val))).map fun j =>
        (leWord (slice (i.bytes 0x200) (128 * q.val + 8 * j) 8), (x.rqPsn.getD q.val []).getD j false)
    resv := Vector.ofFn fun q => (List.range (byteAt rq (32 * q.val + 1))).map fun j => tagOf (byteAt rq (32 * q.val + 16 + j))
    q := Vector.ofFn fun q => ents q.val
    pseq := Vector.ofFn fun q => BitVec.ofNat 32 (leNat (slice trap (16 + 8 * q.val) 4))
    cseq := Vector.ofFn fun q => cseq q.val
    lde := run 0, are := run 1, ste := run 2, mxe := none, cpeAt := run 4, coeAt := run 5, mord := []
    agCtl := { agent t.agCtl 0 (.core k) with sb := x.sb }, agLde := agent t.agLde 1 (.eng k .lde), agAre := agent t.agAre 2 (.eng k .are)
    agSte := agent t.agSte 3 (.eng k .ste), agMxe := agent t.agMxe 4 (.eng k .mxe)
    bank :=
      { acc := (List.range 128).foldl (fun s r => spWrite 0 s (512 * r) ((List.range 512).map fun c => BitVec.ofNat 32 (leNat (slice (i.bytes (0xD0000 + 2048 * r)) (4 * c) 4)))) []
        accPsn := BitVec.ofNat 128 (leNat (slice (i.bytes 0x6000) 512 16)) ||| BitVec.ofNat 128 (bitsNat ((List.range 128).map fun r => (i.piece (0xD0000 + 2048 * r)).2))
        wts := (List.range 512).foldl (fun s c => spWrite 0 s (128 * c) (i.bytes (0xC0000 + 128 * c))) []
        wsc := spWrite 0 [] 0 ((List.range 4096).map fun j => BitVec.ofNat 24 (leNat (slice (i.bytes 0xB8000) (3 * j) 3)))
        wPsn := BitVec.ofNat 512 (leNat (slice cb 1536 64)) ||| BitVec.ofNat 512 (bitsNat ((List.range 512).map fun c => (i.piece (0xC0000 + 128 * c)).2))
        cb := #v[spWrite 0 [] 0 (slice cb 0 768), spWrite 0 [] 0 (slice cb 768 768)]
        cbPsn := #v[byteAt cb 1600 % 2 == 1, byteAt cb 1600 / 2 % 2 == 1] }
    flt := .replicate 8 none, stop := .replicate 7 false, acked := .replicate 7 false, w := 0 }

/-- The layout a block region holds, with the chain rows of its base slots. -/
def layBack (i : Image) (n : Nat) : List RelLay :=
  let f := i.bytes 8
  (List.range n).filterMap fun j =>
    if byteAt f j / 2 % 8 == j then
      let x := leNat (slice f 8 8) / 16 ^ j % 16
      let m := byteAt f (16 + j)
      some ⟨mkShape (byteAt f j / 16 % 8), j, semiOf (m % 8), BitVec.ofNat 5 (m / 8), if 8 ≤ x then some (x - 8) else none⟩
    else none

/-- What a strand was doing before its stop or fault. -/
def Die.actBack (d : Die) (k : SlotId) : Act :=
  let a := (d.slot k).ctl.act
  if a == .stopped || a == .faulted then
    match (d.slot k).ctl.own, d.ownBlk k with
    | some o, some b => match b.recs[o.sidx]? with | some r => if r.susp.isSome then .suspended else .running | none => .running
    | _, _ => .running
  else a

/-- The direct collective entry of a slot stays in its engine when the slot is released, until it has completed or a fault holds it (R298, R321). -/
def Die.dirGoes (d : Die) (k : SlotId) : Bool := (d.dirAt k).isSome

/-- Refused requests that leave with a slot, by number and agent. -/
def Die.refusedOut (d : Die) (k : SlotId) : List (Nat × Agent × List Sent) :=
  let c : Agent := .copy (clusterOf k)
  ([.core k, .eng k .lde, .eng k .are, .eng k .ste, .eng k .mxe] : List Agent).map (fun a => (agentNo a, a, (d.ag a).refused)) ++
    [(5, c, d.refusedOf c k none), (6, .coll, if d.dirGoes k then [] else d.refusedOf .coll k none)]

/-- What a strand keeps beside its region. -/
def Die.auxOf (d : Die) (ks : List SlotId) (k : SlotId) : SlotAux :=
  let t := d.slot k
  { sb := t.agCtl.sb, arvs := t.ctl.arvs, due := t.ctl.due, act := d.actBack k
    runs := (List.range 6).filterMap fun q => if q = 5 && d.dirGoes k then none else (d.runOf k q).map fun r => (q, r)
    refused := (d.refusedOut k).map fun x => (x.1, x.2.2.map fun p => if x.1 = 0 then p else p.packed ks x.2.1)
    rqPsn := t.rq.toList.map fun l => l.map fun (r : Result) => r.2
    chain := (d.layOf k).buf.map fun x => (x.tag, x.psn)
    mord := t.mord.map fun j => ks.idxOf j
    tags := (List.range 32).filterMap fun r => match (vget t.ctl.regs.x ⟨r % 32, Nat.mod_lt _ (by decide)⟩).wait with | some g => some (r, g) | none => none }

end Sys2Proof.Machine
end

