-- ==== Sys2Proof/Machine/Launch.lean ====
section
/-! DEFINITION. From a kick to a node, and from a node's last block to its completion: process entries and rings (R303 to R306), acceptance (R307 to R310, R419, R420), the journal (R418), completion, failure and exposure records (R311, R345, R368). -/

namespace Sys2Proof.Machine

/-! ## Processes (R303 to R305) -/

structure Proc where
  at_ : Nat
  ring : Nat
  v : Bool
  c0 : Bool
  asid : Half
  rlen : Nat
  tail : Nat
  head : Nat
  prcnt : Nat
  prbase : Nat
  ncnt : Nat
  nbase : Nat
  cs : Nat
  sp : Nat
  cx : Nat
  deriving DecidableEq, Repr

/-- The process entry (R304). DESIGN CHOICE (log entry 146): its reserved bits are ignored; R304 shows them as reserved and R420 gives no fate for an entry in which they are set. -/
def Die.proc (d : Die) (dn : DieId) (pid : Byte) : Proc :=
  let a := (d.getReg dn rPROCBASE &&& bits 47 14).toNat + 64 * pid.toNat
  let w (i : Nat) : Nat := d.peekNat (a + 8 * i) 8
  { at_ := a, ring := w 0 % 2 ^ 48, v := 2 ^ 63 ≤ w 1, c0 := w 1 / 2 ^ 61 % 2 == 1, asid := BitVec.ofNat 16 (w 1 / 2 ^ 32), rlen := w 1 % 2 ^ 32
    tail := w 2 % 2 ^ 32, head := w 3 % 2 ^ 32, prcnt := w 4 / 2 ^ 48 % 2 ^ 13, prbase := w 4 / 2 ^ 32 % 4096, ncnt := w 4 / 2 ^ 16 % 2 ^ 16
    nbase := w 4 % 2 ^ 16, cs := w 5 % 2 ^ 52, sp := w 6 % 2 ^ 52, cx := w 7 % 2 ^ 52 }

def execKickset (d : DieId) (i : Byte) (s : State) : Out := .next (s.modSched d fun q => { q with kick := vset q.kick ⟨i.toNat, i.isLt⟩ true })

/-! ## Journal (R418) -/

def Die.jAddr (d : Die) (dn : DieId) (i : Nat) : Nat := (d.getReg dn rSJBASE &&& bits 47 16).toNat + 32 * (i % 2048)
/-- A place that may be used again: it holds no record, or one that is done. -/
def Die.jReusable (d : Die) (dn : DieId) (i : Nat) : Bool := d.peekNat (d.jAddr dn i) 1 % 4 == 0 || d.peekNat (d.jAddr dn i + 1) 1 % 2 == 1
/-- The place of the next record: places of operations that are not complete are passed over. -/
def Die.jPlace (d : Die) (dn : DieId) : Nat := (((List.range 2048).map fun i => (d.sched.jpos + i) % 2048).find? (d.jReusable dn)).getD d.sched.jpos
/-- A record before an operation. -/
def Die.jOpen (d : Die) (dn : DieId) (kind w8 w10 w18 : Nat) : Die :=
  if !bitAt (d.getReg dn rSJBASE) 63 then d
  else
    let i := d.jPlace dn
    let d := d.poke (d.jAddr dn i) (natLe 8 (kind + 2 ^ 32 * d.sched.jseq.toNat) ++ natLe 8 w8 ++ natLe 8 w10 ++ natLe 8 w18) false
    { d with sched := { d.sched with jseq := d.sched.jseq + 1, jpos := (i + 1) % 2048 } }
/-- `DONE` of record i. -/
def Die.jDone (d : Die) (dn : DieId) (i : Nat) : Die :=
  if bitAt (d.getReg dn rSJBASE) 63 then d.poke (d.jAddr dn i + 1) [1] false else d
/-- `DONE` of the record written last. -/
def Die.jDoneLast (d : Die) (dn : DieId) : Die := d.jDone dn (d.sched.jpos + 2047)
/-- The place of the open swap record of a save area. -/
def Die.jSwapAt (d : Die) (dn : DieId) (cxa : Nat) : Option Nat :=
  (List.range 2048).find? fun i => let a := d.jAddr dn i; d.peekNat a 2 == 3 && d.peekNat (a + 24) 8 == cxa
/-- The open swap record of a save area is done. -/
def Die.jSwapDone (d : Die) (dn : DieId) (cxa : Nat) : Die := (d.jSwapAt dn cxa).elim d (d.jDone dn)

/-! ## Completion (R310, R311, R345) -/

def zero5 : Vector Word 5 := .replicate 5 0
def Sched.accOf (c : Sched) (pid : Byte) : Vector Word 5 := spGet zero5 c.acc pid.toNat
def Sched.markOf (c : Sched) (pid : Byte) : Word × Vector Word 5 := spGet (0, zero5) c.mark pid.toNat

/-- The last word of an exposure record (R345). -/
def Launch.exposeLast (l : Launch) (fl : Bool) : Nat := 2 ^ 63 + 2 ^ 62 * boolNat fl + 2 ^ 32 * l.pid.toNat + 2 ^ 16 * l.asid.toNat + l.node.toNat
/-- One exposure record, dropped where the ring is full (R345). -/
def Die.expose (dn : DieId) (d : Die) (l : Launch) (fl : Bool) : Die :=
  let r := d.getReg dn rXRING
  if !bitAt r 63 then d
  else
    let z := fld r 0 6
    let sz := 2 ^ (if 12 ≤ z && z ≤ 24 then z else 12)
    let tail := d.rf dn rXPTR 0 24
    if (tail + 64) % sz == d.rf dn rXPTR 32 24 then d.setRf dn rXPTR 56 8 (min 255 (d.rf dn rXPTR 56 8 + 1))
    else
      let acc := d.sched.accOf l.pid
      let diff := (List.finRange 5).flatMap fun i => wordLe 8 (vget acc i - vget l.snap i)
      (d.poke ((r &&& bits 47 12).toNat + tail) (wordLe 8 l.mark ++ wordLe 8 (d.tick dn) ++ diff ++ natLe 8 (l.exposeLast fl)) false).setRf dn rXPTR 0 24 ((tail + 64) % sz)

/-- `CMPL` and the exposure record, in one step; a partner's are discarded once they have been compared (R311, R345, R353). -/
def Die.report (dn : DieId) (d : Die) (mute : Bool) (l : Launch) (fl : Bool) : Die :=
  if mute then d
  else
    let v := if fl then d.tick dn ||| (1#64 <<< 63) else d.tick dn
    Die.expose dn (if l.cmpl = 0 then d else procStore dn d l.asid l.cmpl.toNat (wordLe 8 v)) l fl

/-- A launch has been reported. -/
def Launch.told (l : Launch) : Bool := l.st != .active && !l.untold

/-- The writes of the reports that a step of the scheduler has made, as the pair compares them: where they go, their size, and their bytes but for what counts time, in which the two dies may differ; an exposure record's place in its ring, which the partner does not use, is left out (R353, R354; log entry 114). -/
def reportIns (d e : Die) (dn : DieId) : List PairIn :=
  (e.sched.launches.filter fun l => l.told && (match d.sched.launch l.id with | some x => !x.told | none => true)).flatMap fun l =>
    let fl := l.st == .failed
    let pa := match procLines dn e l.asid l.cmpl.toNat 8 with | n :: _ => 128 * n + l.cmpl.toNat % 128 | [] => 0
    (if l.cmpl = 0 then [] else [⟨(schedDst, 0, 0), pa, natLe 8 (2 ^ 63 * boolNat fl), 8⟩]) ++
    (if bitAt (e.getReg dn rXRING) 63 then [⟨(schedDst, 1, 0), 0, zeros 56 ++ natLe 8 (l.exposeLast fl), 64⟩] else [])

/-- A step of the scheduler of die `d` from `s` to `t`, with its reports entered in the comparator. -/
def State.tellPair (s t : State) (d : DieId) : State :=
  if ((t.die d).paired d).isNone then t else t.pairStores d (.sys 0) (reportIns (s.die d) (t.die d) d)

/-- How often a launch names another as a completion predecessor. -/
def Launch.names (l : Launch) (lid : Nat) : Nat := (l.preds.filter fun p => p.1 == lid && !p.2).length

/-- Successors' counters fall; at zero a node is ready (R310). `skip`: the successors already done. -/
def Die.release (dn : DieId) (d : Die) (lid : Nat) (skip : Nat → Bool) : Die :=
  let ls := d.sched.launches.filter fun l => l.names lid != 0
  (List.range ls.length).foldl (fun d j =>
    match ls[j]? with
    | none => d
    | some l =>
      if skip j then d
      else
        let d := { d with sched := d.sched.modLaunch l.id fun x => { x with cnt := x.cnt - l.names lid } }
        match d.sched.launch l.id with
        | some x => if x.cnt = 0 && !x.ready && x.st == .active then d.nodeReady dn l.id else d
        | none => d) d

/-- Every block of a node has retired, and no completion of it is held (R311, R416). -/
def Die.allRetired (d : Die) (l : Launch) : Bool :=
  l.blks.length == l.blocks && l.blks.all (fun b => b.st == .retired) && !(d.sched.cbuf.any fun x => x.1 == l.id)

/-- A node completes (R311). -/
def Die.completeNode (dn : DieId) (d : Die) (mute : Bool) (lid : Nat) : Die :=
  match d.sched.launch lid with
  | none => d
  | some l =>
    if l.st != .active || !d.allRetired l then d
    else
      let n := (d.sched.launches.filter fun x => x.names lid != 0).length
      let d := d.jOpen dn 2 l.node.toNat (2 ^ min n 16 - 1) 0
      let d := { d with sched := d.sched.modLaunch lid fun x => { x with st := .complete } }
      let d := (Die.release dn d lid fun _ => false).reeval dn
      (Die.report dn d mute l false).jDoneLast dn

/-- A node is marked failed and reported (R345, R368); the report waits while the die's scheduling has no carrier (R415). -/
def Die.failMark (dn : DieId) (d : Die) (mute : Bool) (lid : Nat) : Die :=
  match d.sched.launch lid with
  | none => d
  | some l =>
    if l.st != .active then d
    else
      let on := d.schedOn dn
      let d := { d with sched := d.sched.modLaunch lid fun x => { x with st := .failed, untold := !on } }
      if on then Die.report dn d mute l true else d

/-- Failures that have waited for a carrier are reported (R415, R417). -/
def Die.tellFailed (dn : DieId) (d : Die) (mute : Bool) : Die :=
  (d.sched.launches.filter (·.untold)).foldl (fun d l =>
    Die.report dn { d with sched := d.sched.modLaunch l.id fun x => { x with untold := false } } mute l true) d

/-! ## Acceptance (R307 to R309, R161, R162) -/

/-- What a launch takes from its descriptor and block table. -/
structure Desc where
  entry : Word
  sched : Word
  swcnt : Nat
  shape : Fin 6
  inputs : List ((Nat × Nat × Nat) × List Input)
  deriving DecidableEq, Repr

/-- A block-table entry: its coordinate in table order (BZ, BY, BX) and its inputs. -/
def parseEntry (bs : List Byte) : Option ((Nat × Nat × Nat) × List Input) :=
  let w (i : Nat) : Nat := leNat (slice bs (8 * i) 8)
  let n := w 0 / 2 ^ 48
  let x (i : Nat) : Nat := leNat (slice bs (8 + 4 * i) 4)
  if n < 1 || 4 < n || w 3 != 0 || (List.range 4).any (fun i => if i < n then x i / 4096 % 16 != 0 else x i != 0) then none
  else some ((w 0 / 2 ^ 32 % 65536, w 0 / 2 ^ 16 % 65536, w 0 % 65536), (List.range n).map fun i => ⟨x i % 4096, BitVec.ofNat 16 (x i / 65536)⟩)

def coordLt (a b : Nat × Nat × Nat) : Bool := a.1 < b.1 || a.1 == b.1 && (a.2.1 < b.2.1 || a.2.1 == b.2.1 && a.2.2 < b.2.2)

/-- The block table, if it can be read and is as R162 says. -/
def readTab (dn : DieId) (asid : Half) : Nat → Nat → Option (Nat × Nat × Nat) → Die → Option (List ((Nat × Nat × Nat) × List Input)) × Die
  | 0, _, _, d => (some [], d)
  | n + 1, a, prev, d =>
    match procLoad dn d asid a 32 with
    | (none, d) => (none, d)
    | (some bs, d) =>
      match parseEntry bs with
      | none => (none, d)
      | some e =>
        if (match prev with | some p => !coordLt p e.1 | none => false) then (none, d)
        else
          let r := readTab dn asid n (a + 32) (some e.1) d
          (r.1.map (e :: ·), r.2)

/-- The kernel descriptor, if it can be read and is as R161 says. -/
def readDesc (dn : DieId) (d : Die) (asid : Half) (a : Nat) : Option Desc × Die :=
  if a % 64 != 0 then (none, d)
  else match procLoad dn d asid a 64 with
  | (none, d) => (none, d)
  | (some bs, d) =>
    let w (i : Nat) : Nat := leNat (slice bs (8 * i) 8)
    let ver := w 4 / 2 ^ 28 % 16
    let sh := w 4 / 2 ^ 24 % 8
    let sw := w 4 / 2 ^ 16 % 128
    if 2 ^ 52 ≤ w 0 || 2 ^ 52 ≤ w 1 || 2 ^ 52 ≤ w 2 || 2 ^ 52 ≤ w 3 || 2 ^ 32 ≤ w 4 || w 4 / 2 ^ 27 % 2 == 1 || w 4 / 2 ^ 23 % 2 == 1
        || w 5 != 0 || w 6 != 0 || w 7 != 0 || ver != 1 || 64 < sw || 5 < sh then (none, d)
    else
      let r := readTab dn asid (w 4 % 65536) (w 1) none d
      (r.1.map fun t => { entry := BitVec.ofNat 64 (w 0), sched := BitVec.ofNat 64 (w 2), swcnt := sw, shape := mkShape sh, inputs := t }, r.2)

/-- Code 2 of R308. -/
def recordBad (bs : List Byte) : Bool :=
  let w (i : Nat) : Nat := leNat (slice bs (8 * i) 8)
  let np := w 9 % 32
  2 ^ 19 ≤ w 0 || 2 ^ 52 ≤ w 1 || 2 ^ 52 ≤ w 2 || 2 ^ 48 ≤ w 3 || 2 ^ 48 ≤ w 4 || w 4 / 16 % 4096 != 0 || 2 ^ 32 ≤ w 5 || 2 ^ 40 ≤ w 6
    || w 7 / 2 ^ 40 % 256 != 0 || 2 ^ 40 ≤ w 8 || 2 ^ 32 ≤ w 9 || w 9 / 32 % 2048 != 0 || 2 ^ 52 ≤ w 14 || w 14 % 8 != 0
    || (slice bs 0x78 0x80).any (· != 0) || 16 < np || (slice bs (0x50 + 2 * np) (32 - 2 * np)).any (· != 0)
    || w 3 % 65536 == 0 || w 3 / 65536 % 65536 == 0 || w 3 / 2 ^ 32 == 0 || 4096 < w 4 / 65536 % 65536

/-- Teams allowed for a shape (R307). -/
def teamMax (sh : Fin 6) : Nat := match sh.val with | 0 => 4 | 1 | 2 => 2 | _ => 1

def Proc.owns (p : Proc) (n : Nat) : Bool := p.nbase ≤ n && n < p.nbase + p.ncnt

/-- Acceptance of one record: its code, and the die with the node it creates (R308 to R310). `mute`: at the partner of a pair, which accepts whatever its primary has (R353). -/
def acceptRecord (dn : DieId) (d : Die) (mute : Bool) (p : Proc) (pid : Byte) (bs : List Byte) : Nat × Die :=
  let w (i : Nat) : Nat := leNat (slice bs (8 * i) 8)
  if recordBad bs then (2, d)
  else match readDesc dn d p.asid (w 1) with
  | (none, d) => (3, d)
  | (some k, d) =>
    let ts := w 4 % 16
    let node : Half := BitVec.ofNat 16 (w 0)
    let np := w 9 % 32
    let pn (j : Nat) : Half := BitVec.ofNat 16 (leNat (slice bs (0x50 + 2 * j) 2))
    let pl := (List.range np).map fun j => d.sched.latest pid (pn j)
    let cls : Fin 4 := ⟨w 0 / 65536 % 4, Nat.mod_lt _ (by decide)⟩
    if !mute && (ts = 0 || teamMax k.shape < ts) then (4, d)
    else if !mute && (!p.owns node.toNat || (d.sched.latest pid node).any (·.st == .active)) then (5, d)
    else if !mute && ((List.range np).any (fun j => !p.owns (pn j).toNat) || pl.any Option.isNone) then (6, d)
    else if !mute && cls = 0 && !p.c0 then (7, d)
    else
      let preds := (List.range np).filterMap fun j => ((pl.getD j none).map fun (l : Launch) => (l.id, w 9 / 2 ^ (16 + j) % 2 == 1))
      let m := d.sched.markOf pid
      let gx := w 3 % 65536
      let gy := w 3 / 65536 % 65536
      let gz := w 3 / 2 ^ 32
      let l : Launch :=
        { id := d.sched.nextId, pid := pid, asid := p.asid, node := node, cls := cls, pwr := w 0 / 2 ^ 18 % 2 == 1, shape := k.shape, entry := k.entry
          sched := k.sched, swcnt := k.swcnt, param := BitVec.ofNat 64 (w 2), gx := gx, gy := gy, gz := gz, gbase := BitVec.ofNat 16 (w 4 / 2 ^ 32)
          zw := w 4 / 65536 % 65536, teamsz := ts, seed := BitVec.ofNat 32 (w 5), csAt := p.cs + w 6, spAt := p.sp + w 7 % 2 ^ 40, spsz := w 7 / 2 ^ 48
          cxAt := p.cx + w 8, cmpl := BitVec.ofNat 64 (w 14), prbase := p.prbase, prcnt := p.prcnt, nbase := p.nbase, ncnt := p.ncnt, preds := preds
          cnt := (preds.filter fun x => !x.2 && !d.launchDone x.1).length, ready := false, mayStart := false, bulk := false, st := .active
          inputs := k.inputs.filterMap fun e =>
            if e.1.1 < gz && e.1.2.1 < gy && e.1.2.2 < gx then some (e.1.2.2 + gx * (e.1.2.1 + gy * e.1.1), e.2) else none
          blks := [], mark := m.1, snap := m.2, untold := false }
      let d := { d with sched := { d.sched with launches := d.sched.launches ++ [l], nextId := d.sched.nextId + 1 } }
      if preds.any fun x => (d.sched.launch x.1).any (·.st == .failed) then (1, Die.failMark dn d mute l.id)
      else (1, if l.cnt = 0 then d.nodeReady dn l.id else d)

/-! ## The pass (R306, R353, R419, R420) -/

/-- Cause of R420 for a process entry, or none. -/
def Proc.skip (p : Proc) : Option Nat :=
  if !p.v then some 5
  else if 4096 < p.prbase + p.prcnt || 65536 < p.nbase + p.ncnt then some 6
  else if p.rlen = 0 || p.rlen % 256 != 0 then some 1
  else if p.ring % 256 != 0 || dieMemTop < p.ring + p.rlen then some 2
  else if p.tail % 256 != 0 || p.head % 256 != 0 || p.rlen ≤ p.tail || p.rlen ≤ p.head then some 3
  else none

def Die.skipProc (d : Die) (pid : Byte) (cause : Nat) : Die := d.setReg rSCHERR (BitVec.ofNat 64 (2 ^ 63 + 256 * pid.toNat + cause))

/-- One record at ring offset `off`: its journal entry, its acceptance here and at the partner, its status, `HEAD` (R306 step 4, R353). -/
def acceptAt (s : State) (d : DieId) (p : Proc) (pid : Byte) (off : Nat) : State :=
  let a := p.ring + off
  let bs := (s.die d).peek a 256
  let s := s.modDie d fun y => y.jOpen d 1 (off + 2 ^ 32 * pid.toNat) 0 0
  let r := acceptRecord d (s.die d) (s.muted d) p pid bs
  let s := s.tellPair (s.modDie d fun _ => r.2) d
  let s := match (s.die d).paired d with
    | some (true, h) => if r.1 = 1 then s.tellPair (s.modDie h fun y => (acceptRecord h y true p pid bs).2) h else s
    | _ => s
  s.modDie d fun y => ((y.poke (a + 0xF8) (natLe 8 (256 + r.1)) false).poke (p.at_ + 0x18) (natLe 4 ((off + 256) % p.rlen)) false).jDoneLast d

/-- The record at `off` is accepted; none: the pass ends there, at `TAIL` or at a poisoned record. -/
def acceptNext (d : DieId) (p : Proc) (pid : Byte) (off : Nat) (s : State) : Option Nat × State :=
  if off == p.tail then (none, s)
  else if (s.die d).poisoned (p.ring + off) 256 then (none, s.modDie d fun y => y.skipProc pid 4)
  else (some ((off + 256) % p.rlen), acceptAt s d p pid off)

/-- Records from `off` up to `TAIL`, in ring order. -/
def acceptRing (d : DieId) (p : Proc) (pid : Byte) : Nat → Nat → State → State
  | 0, _, s => s
  | n + 1, off, s =>
    match acceptNext d p pid off s with
    | (none, s) => s
    | (some o, s) => acceptRing d p pid n o s

/-- The records of one process are accepted. -/
def serveProc (s : State) (d : DieId) (pid : Byte) : State :=
  let p := (s.die d).proc d pid
  match p.skip with
  | some c => s.modDie d fun y => y.skipProc pid c
  | none => acceptRing d p pid (p.rlen / 256) p.head s

/-- The next process with a pending kick, in round-robin order. -/
def Sched.nextKick (c : Sched) : Option Byte :=
  ((List.finRange 256).map fun i => c.kickRr + 1 + BitVec.ofNat 8 i.val).find? fun i => vget c.kick ⟨i.toNat, i.isLt⟩

/-- The other die of a pair stands gated by a shutter stop (R350). -/
def State.partnerGated (s : State) (d : DieId) : Bool := match (s.die d).paired d with | some (_, h) => (s.die h).gated | none => false

/-- One record of a pass, with the process entry as it stands but for the `TAIL` the pass has read (R304, R306). -/
def kickStep (s : State) (d : DieId) (pid : Byte) (tail off : Nat) : State :=
  let p := { (s.die d).proc d pid with tail := tail, head := off }
  match p.skip with
  | some c => s.modDie d fun y => y.skipProc pid c
  | none =>
    match acceptNext d p pid off s with
    | (some o, s) => if o == tail then s else s.modSched d fun q => { q with pass := some (pid, tail, o) }
    | (none, s) => s

/-- A step of a pass: a kick bit is cleared and `TAIL` read, or a pass under way goes on, record by record. The scheduler reads nothing while `PROCBASE.EN` or `SJBASE.EN` is 0, while its scheduling has no carrier, while the pair's comparator has no room or its partner's clocks are gated (R350, R353, R421), or, at the partner of a pair, at all; its read of `TAIL` waits like any die-scope load. -/
def execKickPass (d : DieId) (s : State) : Out :=
  let y := s.die d
  if !bitAt (y.getReg d rPROCBASE) 0 || !bitAt (y.getReg d rSJBASE) 63 || !y.schedOn d || s.muted d || !s.pairRoom d 2 || s.partnerGated d then .next s
  else match y.sched.pass with
  | some (pid, tail, off) => .next (kickStep (s.modSched d fun q => { q with pass := none }) d pid tail off)
  | none =>
    if !y.gateOk d then .next s
    else match y.sched.nextKick with
    | none => .next s
    | some pid =>
      let p := y.proc d pid
      .next (kickStep (s.modSched d fun q => { q with kick := vset q.kick ⟨pid.toNat, pid.isLt⟩ false, kickRr := pid }) d pid p.tail p.head)

end Sys2Proof.Machine
end

