-- ==== Sys2Proof/Machine/Ste.lean ====
section
/-! DEFINITION. The store engine (R204 to R206, R208, R210 to R214, R216, R218, R219) and the publish step (R99, R120). -/

namespace Sys2Proof.Machine

/-- The start of a store from a tile: alignment and tag (R210, R219). -/
def beginStore (s : State) (c : Cur) (r : Run) (o : EOp) (bad : Option Word) (chk : Bool) : Got (Run × Bool) :=
  match bad, (if chk then srcCheck (s.die c.die) r.slot o.f2 o.fmt (eMod o).raw else none) with
  | some a, _ => .fault s 19 a
  | none, some code => .fault s code 0
  | none, none => .ok s (r, true)

/-- Source row i of a store. -/
def storeSrc (c : Cur) (r : Run) (o : EOp) (s : State) (i : Nat) : Got RowVal := tileRow s c.die r.slot o.f2 o.b2 (eFirst o 1 + i)

/-- 512-byte piece i of the slot's own accumulator bank, as it stands (R211). -/
def accPiece (c : Cur) (r : Run) (o : EOp) (s : State) (i : Nat) : Got RowVal :=
  let p := fld (r.par o.f3) 0 9 + i
  let b := (s.slot c.die r.slot).bank
  let ws := spRead (0 : W32) b.acc (512 * (p / 4) + 128 * (p % 4)) 128
  let q := s.seen ⟨ws.flatMap fun w => natLe 4 w.toNat, [], b.accPsn.getLsbD (p / 4)⟩
  .ok q.1 q.2

def storeAddr (r : Run) (o : EOp) (i : Nat) : Nat := addrAt (r.par o.f1) (i * (r.par o.f3).toInt)

/-- One step of `str`. -/
def strStep (s : State) (c : Cur) (r : Run) (o : EOp) : State :=
  let n := eCount o 1
  if o.f2 == opACC then
    let bad : Got (Run × Bool) :=
      if 512 < fld (r.par o.f3) 0 9 + n then .fault s 2 0 else beginStore s c r o (misaligned (r.par o.f1) 0 16) false
    storeStep s c r o.na n bad (accPiece c r o) (fun i => .ok (plainPart (addrAt (r.par o.f1) (512 * i)) 512))
  else
    storeStep s c r o.na n (beginStore s c r o (misaligned (r.par o.f1) (r.par o.f3) 16) true) (storeSrc c r o)
      (fun i => .ok (plainPart (storeAddr r o i) 512))

def sttStep (s : State) (c : Cur) (r : Run) (o : EOp) : State :=
  storeStep s c r o.na (eCount o 1) (beginStore s c r o (misaligned (r.par o.f1) 0 16) true) (storeSrc c r o)
    (fun i =>
      let n := eFirst o 1 + i
      .ok (rowParts (addrAt (r.par o.f1) (512 * n)) 512 (addrAt (r.par o.f1) (0x8000 + 192 * n)) (fscaled o.fmt)))

/-- The start of `strec`: the copy, its checks, and both tags (R214). -/
def beginStrec (s : State) (c : Cur) (r : Run) (o : EOp) : Got (Run × Bool) :=
  let va := r.par o.f1
  (recordCopy s c r va).bind fun s p =>
    if !p.2 then .ok s p
    else match p.1.rec? with
    | none => .fault (s.setRun c { p.1 with rcpy := none }) 17 va
    | some x =>
      if !(eMod o).raw && (x.tag != o.fmt || ((s.slot c.die r.slot).tile o.f2).tag != o.fmt) then .fault (s.setRun c { p.1 with rcpy := none }) 5 0
      else match x.misaligned true (firstRow p.1 o) with
      | some a => .fault (s.setRun c { p.1 with rcpy := none }) 19 a
      | none => .ok s (p.1, true)

/-- The first `RBYTES` bytes of a row, then its scales at 512. -/
def strecStep (s : State) (c : Cur) (r : Run) (o : EOp) : State :=
  storeStep s c r o.na (eCount o 1) (beginStrec s c r o) (storeSrc c r o) (recParts r o (r.par o.f1) true)

def beginStx (s : State) (c : Cur) (r : Run) (o : EOp) : Got (Run × Bool) :=
  match srcCheck (s.die c.die) r.slot o.f2 o.fmt (eMod o).raw with
  | some code => .fault s code 0
  | none =>
    (indexRow s c r o).bind fun s v =>
      let r := { r with bc := some v }
      match indexBad r (r.par o.f1) (eCount o 1) with
      | some a => .fault s 19 a
      | none => .ok s (r, true)

def stxStep (s : State) (c : Cur) (r : Run) (o : EOp) : State :=
  storeStep s c r o.na (eCount o 1) (beginStx s c r o)
    (fun s i => (storeSrc c r o s i).bind fun s v => .ok s { v with psn := v.psn || r.idxPsn })
    (fun i => .ok (plainPart (indexAddr r (r.par o.f1) i) 512))

/-- `stsc`: the scales only; it names no format, so no tag is checked (R65, R210). -/
def stscStep (s : State) (c : Cur) (r : Run) (o : EOp) : State :=
  storeStep s c r o.na (eCount o 1) (beginStore s c r o (misaligned (r.par o.f1) (r.par o.f3) 16) false)
    (fun s i => (storeSrc c r o s i).bind fun s v => .ok s { v with data := v.side, side := [] })
    (fun i => .ok (plainPart (storeAddr r o i) 192))

/-- `stv`: rows pushed to a write port (R216). -/
def stvStep (s : State) (c : Cur) (r : Run) (o : EOp) : State :=
  if !r.started then
    match srcCheck (s.die c.die) r.slot o.f2 o.fmt (eMod o).raw, dstCheck (s.die c.die) r.slot o.f1 o.fmt (eMod o).raw with
    | some code, _ => startFault s c r code 0
    | none, some code => startFault s c r code 0
    | none, none => s.setRun c { r with started := true }
  else if r.unit < eCount o 1 then
    unitDo s c r r.unit <| (storeSrc c r o s r.unit).bind fun s v => (portPush s c r o.f1 v (fscaled o.fmt) r.unit).bind fun s _ => .ok s { r with unit := r.unit + 1, rw := r.rw + 1 }
  else s.advRun c r o.na

def execStr (o : EOp) (s : State) : Out := engDo (fun s c r => strStep s c r o) s
def execStt (o : EOp) (s : State) : Out := engDo (fun s c r => sttStep s c r o) s
def execStrec (o : EOp) (s : State) : Out := engDo (fun s c r => strecStep s c r o) s
def execStx (o : EOp) (s : State) : Out := engDo (fun s c r => stxStep s c r o) s
def execStsc (o : EOp) (s : State) : Out := engDo (fun s c r => stscStep s c r o) s
def execStv (o : EOp) (s : State) : Out := engDo (fun s c r => stvStep s c r o) s

/-- Tile or accumulator rows that the next step of a store reads, for the errors of R386. -/
def storeTouches (r : Run) (o : EOp) (e : ArrErr) : Bool :=
  match e with
  | .corrected => true
  | .tileRow t row => o.f2 != opACC && tidx o.f2 == t && row.val == eFirst o 1 + r.unit
  | .accRow row => o.f2 == opACC && row.val == (fld (r.par o.f3) 0 9 + r.unit) / 4
  | _ => false

/-- The next row of the store at work, once its instruction has started, meeting what the surroundings decide of its SRAM (R210, R386). -/
def storeRow (s : State) (d : DieId) (k : SlotId) (e : ArrErr) : State :=
  let c : Cur := ⟨d, .eng k .ste, 8⟩
  match s.run c with
  | none => s
  | some r =>
    let go (o : EOp) (f : State → Cur → Run → EOp → State) : State :=
      if r.unit < eCount o 1 then withError s c k e (storeTouches r o) fun s => f s c r o else f s c r o
    if !r.started || !(s.die d).entryGoes c r then s
    else match r.code[r.pos]? with
    | some (_, .str o) => go o strStep
    | some (_, .stt o) => go o sttStep
    | some (_, .strec o) => go o strecStep
    | some (_, .stx o) => go o stxStep
    | some (_, .stsc o) => go o stscStep
    | some (_, .stv o) => go o stvStep
    | _ => s

/-- The row read, its SRAM giving no error; an error is a step of its own, `storeRow` with it (R386). -/
def execStoreRowRead (d : DieId) (k : SlotId) (s : State) : Out := .next (storeRow s d k .ok)

/-! ## Publish (R99, R120, R218, R312, R400) -/

/-- The checks of `publ` before its step: alignment, `MT` 4 with `RD` and `W`. -/
def execPubl (o : EOp) (s : State) : Out :=
  engDo (fun s c r =>
    if r.started then s
    else
      let va := r.par o.f2
      if va.toNat % 64 != 0 then startFault s c r 19 va
      else match access c.die (s.die c.die) ((s.die c.die).who c.ag r.slot) va.toNat 64 ⟨[4], true, true⟩ with
        | .wait y => s.modDie c.die fun _ => y
        | .fault y code a => startFault (s.modDie c.die fun _ => y) c r code (BitVec.ofNat 64 a)
        | .ok y _ => (s.modDie c.die fun _ => y).setRun c { r with started := true }) s

/-- The node that publishes counts as bulk (R312). -/
def Die.markBulk (d : Die) (dn : DieId) (k : SlotId) : Die :=
  let d := match (d.slot k).ctl.own with | some o => { d with sched := d.sched.modLaunch o.lid fun l => { l with bulk := true } } | none => d
  d.addReg dn rBULKCNT 1

/-- The record's new contents: `ACT` changed, `GEN` one more. -/
def Die.flipRec (d : Die) (pa : Nat) : Die :=
  let w := BitVec.ofNat 64 (d.peekNat (pa + 24) 8)
  let g := d.peekNat (pa + 32) 2
  (d.poke (pa + 24) (wordLe 8 (w ^^^ (1#64 <<< 40))) false).poke (pa + 32) (natLe 2 (g + 1)) false

/-- The publish step at the record's home; a pair compares the record as it leaves it (R354). -/
def publishAt (s : State) (d : DieId) (k : SlotId) (pa : Nat) (x : TileRec) : State :=
  let s := s.pairStores d (.eng k .ste) [.mem pa (((s.die d).flipRec pa).peek pa 64)]
  let s := s.modDie d fun y =>
    let y := (y.flipRec pa).countDie d (y.asidOf k) 38
    let y := allSlots.foldl (fun y j => y.modSlot j fun t => { t with recs := t.recs.filter fun c => !(c.home == d && c.pa == pa) }) y
    if !x.pv then y
    else
      let l := y.ownLaunch k
      match l with
      | some l =>
        if x.proof < l.prcnt then
          let v : W32 := BitVec.ofNat 32 (2 ^ 31 + (x.gen + 1) % 65536)
          { y with proofs := spSet 0 y.proofs (l.prbase + x.proof) v }.reeval d
        else y.markBulk d k
      | none => y
  if (s.die d).exported d pa && !s.muted d then
    let n := ((s.die d).bump d).1
    let s := s.modDie d fun y => (y.bump d).2
    let s := (otherDies d).foldl (fun s h => s.send d h (.inval n (s.die d).gate.v pa)) s
    s.beats d
  else s

/-- The step of a `publ` once every earlier write of its store engine has been applied at its home: the record is read afresh, checked, and published (R120, R218, R400). Where its leaf is poisoned, `D` cannot be set and nothing is written (R394). -/
def execPublishStep (d : DieId) (k : SlotId) (s : State) : Out :=
  let c : Cur := ⟨d, .eng k .ste, 8⟩
  match s.run c with
  | none => .next s
  | some r =>
    match r.code[r.pos]? with
    | some (_, .publ o) =>
      let a := s.ag d (.eng k .ste)
      let va := r.par o.f2
      if !r.started || !(s.die d).entryGoes c r then .next s
      else if !a.sb.isEmpty || !a.pend.isEmpty || (s.die d).held.any (fun h => h.ag == .eng k .ste && h.src == d) then .next s
      else match access d (s.die d) ((s.die d).who c.ag r.slot) va.toNat 64 ⟨[4], true, true⟩ with
        | .wait y => .next (s.modDie d fun _ => y)
        | .fault y code x => .next (startFault (s.modDie d fun _ => y) c r code (BitVec.ofNat 64 x))
        | .ok y p =>
          let s := s.modDie d fun _ => y
          match p.loc with
          | .here pa =>
            if !y.gateOk d || !s.pairRoom d 1 then .next s
            else if y.poisoned pa 64 || y.leafBad p then .next (startFault s c r 23 va)
            else match parseRec (y.peek pa 64) with
            | none => .next (startFault s c r 17 va)
            | some x => .next ((publishAt (s.modDie d fun y => y.markDirty (tlbOf c.ag) p) d k pa x).advRun c r o.na)
          | _ => .next s
    | _ => .next s

end Sys2Proof.Machine
end

