-- ==== Sys2Proof/Machine/Stops.lean ====
section
/-! DEFINITION. Stopping and resuming the agents of a slot (R34, R298, R320, R321), the stop of a block by a terminal fault (R367), posting of fault records (R365, R366), and what `CONT` does to an agent (R368, R398, R402, R411). -/

namespace Sys2Proof.Machine

/-! ## Stop requests -/

/-- Committed blocks of the strand still wait for a release or for a system call's place: effects of theirs have not taken place (R183, R203, R370). -/
def Slot.owes (t : Slot) : Bool := t.agCtl.sb.any fun o => match o with | .relGate .. | .sysc .. => true | _ => false

/-- Every agent of a slot is asked to stop; the open block and tentative entries are discarded (R33, R34). Where committed blocks wait for a release or a call, the strand is asked first, and the engines that this waits for once nothing more comes of it (R370; log entry 80). -/
def Slot.askStop (t : Slot) : Slot :=
  let t := t.discard
  { t with
    stop := if t.owes then vset (.replicate 7 false) 0 true else .replicate 7 true
    ctl := { t.ctl with act := if t.ctl.act == .running then .stopped else t.ctl.act } }

/-- The stops of a slot are lifted. -/
def Slot.liftStop (t : Slot) : Slot :=
  { t with
    stop := .replicate 7 false, acked := .replicate 7 false
    ctl := { t.ctl with act := if t.ctl.act == .stopped then .running else t.ctl.act } }

/-- Groups in which a context has executed `kbar` hear of its absence or presence (R297, R298). -/
def KCtx.groups (k : KCtx) : List (BitVec 12) := (k.gens.map fun g => BitVec.ofNat 12 g.1).eraseDups
def tellGroups (s : State) (d : DieId) (k : KCtx) (absent : Bool) : State := k.groups.foldl (fun s g => sendNft s d (.barAbs g absent)) s

/-- A context that the strand of slot `k` pushed. -/
def Die.ctxAt (d : Die) (k : SlotId) (c : KCtx) : Bool := c.slot == k && d.ctxBound c
/-- The fault that what a strand has in the collective engine stands held by: at its slot, or with its block (R321). -/
def Die.ownFlt (d : Die) (o : Owner) (k : SlotId) : Option PFault :=
  if d.ownBound o k then vget (d.slot k).flt 6
  else (((d.sched.launch o.lid).bind (·.blk o.blk)).bind fun b => b.flts.find? fun e => e.1 == o.sidx && e.2.1 == 6).map (·.2.2)
/-- A barrier timeout stopped the context: its absences and presences stand as they were (R410). -/
def Die.ctxTimed (d : Die) (c : KCtx) : Bool := (d.ownFlt c.own c.slot).any fun p => p.r.code == 28 && p.r.seq == c.ent.seq

/-- Contexts of a slot go on; groups that were told of an absence hear of their presence. A next step whose release has passed starts with a slip of cause 3, and queries for frames they have entered are answered (R292, R298). -/
def resumeCtx (s : State) (d : DieId) (k : SlotId) : State :=
  answerQueries ((List.finRange 8).foldl (fun (s : State) (x : Fin 8) =>
    match s.ctx d x with
    | some c =>
      if (s.die d).ctxAt k c && c.stopped then
        let s := s.setCtx d x { c with stopped := false, resumed := c.run.isNone, away := false }
        if c.away then tellGroups s d c false else s
      else s
    | none => s) s) d

/-- The stops of a block are lifted (R368). -/
def resumeBlk (s : State) (d : DieId) (lid : Nat) (b : Blk) : State :=
  let s := b.slots.foldl (fun s k => resumeCtx (s.modSlot d k Slot.liftStop) d k) s
  s.modSched d fun q => q.modBlk lid b.l fun x => { x with halted := 0 }

/-! ## Acknowledgements (R320, R321, R371) -/

/-- Nothing of an agent is under way: its writes are applied, its reads answered. `rows`: rows may stand assembled. -/
def Die.still (d : Die) (dn : DieId) (a : Agent) (rows : Bool) : Bool :=
  let x := d.ag a
  x.sb.isEmpty && x.rd.isEmpty && (rows || x.asm.isEmpty) && x.pend.isEmpty && !(d.held.any fun h => h.ag == a && h.src == dn)

/-- Every write of the collective engine has been applied at its home. -/
def Die.collQuiet (d : Die) (dn : DieId) : Bool := d.coe.ag.sb.isEmpty && d.coe.ag.pend.isEmpty && !(d.held.any fun h => h.ag == .coll && h.src == dn)

/-- An index of the call ring is free: `HEAD` has passed it and its call has been completed (R359). -/
def Die.callFree (d : Die) (i : Byte) : Bool := !d.callUnread.contains i && !(d.calls.any fun c => c.idx == i)
/-- A system call may be posted: the ring is in use, and its next index free (R358, R359). -/
def Die.callRoom (d : Die) (dn : DieId) : Bool := bitAt (d.getReg dn rSYSCQ) 63 && d.callFree (BitVec.ofNat 8 (d.rf dn rSYSCPTR 0 8))

/-- The head of a control core's store buffer waits for entries that have not completed, or for room in the call ring (R118, R183, R359). -/
def State.sbStuck (s : State) (d : DieId) (k : SlotId) : Bool :=
  let t := s.slot d k
  match t.agCtl.sb with
  | .relGate _ _ ps :: _ => !t.doneUpTo ps
  | .sysc _ _ ps :: _ => !t.doneUpTo ps || (!s.muted d && !(s.die d).callRoom d)
  | _ => false

/-- One step of a word that waits for rows: of a load, an arithmetic instruction, a store or a matrix instruction (R245, R320). -/
def rowWord (s : State) (c : Cur) (r : Run) : Instr → Option State
  | .ldr o => out (execLdr o s) | .ldt o => out (execLdt o s) | .ldrec o => out (execLdrec o s)
  | .ldx o => out (execLdx o s) | .ldsc o => out (execLdsc o s) | .ldv o => out (execLdv o s)
  | .str o => some (strStep s c r o) | .stt o => some (sttStep s c r o) | .strec o => some (strecStep s c r o)
  | .stx o => some (stxStep s c r o) | .stsc o => some (stscStep s c r o) | .stv o => some (stvStep s c r o)
  | .mldb o => some (mldbStep s c r o) | .mcb o => some (mcbStep s c r o) | .mmul o => some (passStep s c r o false)
  | .mmulm o => some (passStep s c r o true) | .mdrain o => some (mdrainStep s c r o)
  | i => (arePlan i).map fun p => p.step s c r
where
  out : Out → Option State
    | .next s => some s
    | _ => none

/-- The read ports that an engine word pops rows from (R142). -/
def portSrcs (i : Instr) : List (BitVec 5) :=
  (match i with
  | .mldb o | .mmul o | .mmulm o => [o.f2]
  | i => match arePlan i with | some p => p.o.f2 :: if p.s3.isSome then [p.o.f3] else [] | none => []).filter isPort

/-- A port goes on fetching the row that an entry waits for (R102): the entry is not yet at a row that it can only wait for (DEDUCED, log entry 148). -/
def State.fetching (s : State) (d : DieId) (k : SlotId) (e : SlotEng) (i : Instr) : Bool :=
  (portSrcs i).any fun w => (vget (s.slot d k).ports (widx w)).rows.isEmpty && ((portRowFetch s d k (widx w) e).slot d k).ports != (s.slot d k).ports

/-- An entry at a row it waits for: with every known count accounted for, its next step changes neither its position nor its accesses, and fails in nothing (R245). -/
def State.rowWaits (s : State) (c : Cur) (r : Run) : Bool :=
  match r.code[r.pos]?, c.ag with
  | some w, .eng _ e => (s.die c.die).gateOk c.die && !s.fetching c.die r.slot e w.2 && match rowWord { s with cur := c } c r w.2 with
    | some t => t.run c == some r && t.ag c.die c.ag == s.ag c.die c.ag && (t.slot c.die r.slot).flt == (s.slot c.die r.slot).flt
    | none => false
  | _, _ => false

/-- The load engine waits for room in `rq.ld`: every line it has asked for is there (R245, R371). -/
def Die.queueWaits (d : Die) (dn : DieId) (k : SlotId) (r : Run) : Bool :=
  let x := (d.slot k).agLde
  (match r.code[r.pos]? with | some (_, .ldr o) => o.f1 == opRQ | _ => false) && 16 ≤ (vget (d.slot k).rq 0).length && !x.asm.isEmpty && x.asm.all Asm.done
    && d.still dn (.eng k .lde) true

/-- A row that has been read may still be written: the load engine's fault does not hold it back (R209, R216). -/
def State.arrives (s : State) (d : DieId) (k : SlotId) : Bool :=
  match execRowArrival d k s with | .next t => (t.slot d k).agLde.asm != (s.slot d k).agLde.asm | _ => false

/-- Has row engine `e` of slot `k` reached its stop: no entry at work, one that no word of has run, one held by its fault, or one at a row it waits for (R245, R320)? A load held by its fault may keep rows that it has read and cannot write; they are read again (R371). -/
def State.rowStop (s : State) (d : DieId) (k : SlotId) (e : SlotEng) : Bool :=
  let c : Cur := ⟨d, .eng k e, 8⟩
  match s.run c with
  | none => (s.die d).still d c.ag false
  | some r =>
    if (s.slot d k).heldBy (engNum e) then (s.die d).still d c.ag (e == .lde) && !(e == .lde && s.arrives d k)
    else ((s.die d).still d c.ag false && (r.part == unchecked || s.rowWaits c r)) || (e == .lde && (s.die d).queueWaits d k r)

/-- Row engine `e` of slot `k` can go on with an entry of the slot. -/
def State.engGoes (s : State) (d : DieId) (k : SlotId) (e : SlotEng) : Bool :=
  let y := s.die d
  let c : Cur := ⟨d, engAgent y k e, 8⟩
  !(vget (s.slot d k).q (queueOf c.ag)).isEmpty && match s.run c with
    | some r => !y.runHeld c r && !s.rowWaits c r && !(e == .lde && y.queueWaits d k r)
    | none => (nextSlot d y c.ag).isSome

/-- The strand has stopped, but what its committed blocks wait for may still come of the entries that the slot's engines and the copy engine have (R370). -/
def State.owing (s : State) (d : DieId) (k : SlotId) : Bool :=
  let y := s.die d
  let c : Cur := ⟨d, .copy (clusterOf k), 8⟩
  (s.slot d k).owes && (([.lde, .are, .ste, .mxe] : List SlotEng).any (s.engGoes d k)
    || (!(vget (s.slot d k).q 4).isEmpty && match s.run c with | some r => !y.runHeld c r | none => (nextSlot d y c.ag).isSome))

/-- A chained drain stalls on back-pressure in the middle of its unit (R51). -/
def Die.chainStalls (d : Die) (b : SlotId) (r : Run) : Bool :=
  match r.code[r.pos]?, (d.layOf b).dst with
  | some (_, .mdrain o), some t => o.f1 == opCH && 64 ≤ (d.layOf t).buf.length
  | _, _ => false

def Run.isMcast (r : Run) : Bool := match r.code[r.pos]? with | some (_, .mcast _) => true | _ => false

/-- Has agent number `a` of slot `k` reached its stop unit? `PGRAN` bits select entry boundaries (R320). -/
def State.atStop (s : State) (dn : DieId) (k : SlotId) (a : Nat) : Bool :=
  let d := s.die dn
  let t := d.slot k
  match a with
  | 0 =>
    t.agCtl.rd.isEmpty && t.agCtl.pend.isEmpty && !(d.held.any fun h => h.ag == .core k && h.src == dn)
      && (t.agCtl.sb.isEmpty || (s.sbStuck dn k && ([1, 2, 3, 4, 5] : List (Fin 7)).all fun i => vget t.acked i || t.heldBy i.val))
  | 1 => s.rowStop dn k .lde
  | 2 => s.rowStop dn k .are
  | 3 => s.rowStop dn k .ste
  | 4 =>
    let b := d.baseOf k
    d.still dn (.eng b .mxe) false && match (d.slot b).mxe with
      | some r => r.part == unchecked || (d.slot r.slot).heldBy 4 || d.chainStalls b r || (r.part == 0 && !bitAt (d.getReg dn rPGRAN) 0)
      | none => true
  | 5 =>
    let c := clusterOf k
    let x := vget d.cpe c
    match x.run with
    | some r =>
      if r.slot == k then
        d.still dn (.copy c) (t.heldBy 5) && (!r.isMcast || r.mAck == r.mSent)
          && (t.heldBy 5 || r.part == unchecked || ((r.part == 0 || (r.isMcast && r.part == 2)) && !bitAt (d.getReg dn rPGRAN) 1))
      else x.ag.pend.isEmpty
    | none => d.still dn (.copy c) false
  | _ =>
    (d.coe.ctx.toList.all fun x => x.all fun c => !d.ctxAt k c || c.run.isNone || !c.up || t.heldBy 6)
      && ((d.dirAt k).isNone || t.heldBy 6) && d.collQuiet dn

/-- The slots whose stop an agent acknowledges, and its number there. -/
def Die.stopsOf (d : Die) : Agent → List SlotId × Nat
  | .core k => ([k], 0)
  | .eng k .mxe => (d.fragSlots (d.baseOf k), 4)
  | .eng k e => ([k], engNum e)
  | .copy c => (allSlots.filter fun k => clusterOf k == c, 5)
  | .coll => (allSlots, 6)
  | .sys _ => ([], 0)

/-- The contexts named stop where they stand, and their groups hear of it (R298), but for one that a barrier timeout holds (R410). -/
def stopCtx (s : State) (d : DieId) (mine : KCtx → Bool) : State :=
  (List.finRange 8).foldl (fun (s : State) (x : Fin 8) =>
    match s.ctx d x with
    | some c =>
      if mine c && !c.stopped then
        let told := !(s.die d).ctxTimed c
        let s := s.setCtx d x { c with stopped := true, away := told }
        if told then tellGroups s d c true else s
      else s
    | none => s) s

/-- A load that waits for room in `rq.ld`, or is held with rows it cannot write, goes back to the oldest of them: that row and those after it are read again (R371; log entry 79). -/
def Die.rewind (d : Die) (k : SlotId) : Die :=
  let c : Agent := .eng k .lde
  match d.run c, (d.ag c).asm with
  | some r, x :: _ => (d.setRun c (some { r with unit := x.key })).modAg c fun a => { a with asm := [] }
  | _, _ => d

/-- A chunk of a held copy is read again (R371). -/
def Die.rereadChunk (d : Die) (k : SlotId) : Die :=
  let c : Agent := .copy (clusterOf k)
  if (d.run c).any (·.slot == k) then d.modAg c fun a => { a with asm := [] } else d

/-- The rows that a port has fetched for engine number `a` are given back, with their pins. -/
def Port.releaseFor (p : Port) (a : Nat) : Port :=
  if (p.rows.any fun f => engNum f.by_ == a) || p.part.any (fun x => engNum x.2.by_ == a) then p.release else p

/-- An engine acknowledges: the pins of the rows fetched for it are released; its position stands in its run. -/
def ackStop (s : State) (d : DieId) (k : SlotId) (a : Nat) : State :=
  let i : Fin 7 := ⟨a % 7, Nat.mod_lt _ (by decide)⟩
  let t := s.slot d k
  if !vget t.stop i || vget t.acked i || !s.atStop d k a then s
  else
    let s := if a = 1 then s.modDie d fun y => y.rewind k else if a = 5 then s.modDie d fun y => y.rereadChunk k else s
    let s := s.modSlot d k fun t => { t with acked := vset t.acked i true, ports := t.ports.map fun p => p.releaseFor a }
    if a = 6 then stopCtx s d ((s.die d).ctxAt k) else s

/-- A strand that was asked first has come as far as it can: the slot's engines are asked too (R321, R370). -/
def State.askRest (s : State) (d : DieId) (k : SlotId) : State :=
  if vget (s.slot d k).stop 0 && !s.owing d k then s.modSlot d k fun t => { t with stop := .replicate 7 true } else s

def execEngineStopAck (d : DieId) (a : Agent) (s : State) : Out :=
  let p := (s.die d).stopsOf a
  .next (p.1.foldl (fun s k => ackStop (if p.2 = 0 then s.askRest d k else s) d k p.2) s)

/-! ## Terminal faults (R367) -/

/-- A launch and a block, or a team, in one number. -/
def pairOf (n : Nat) : Nat × Nat := (n / 2 ^ 32, n % 2 ^ 32)

/-- A fault that the device has not yet posted and that stops its block, agent by agent of a slot: a terminal one; with `FLTQ.EN` = 0 any (R366, R367). -/
def Slot.newStop (t : Slot) (ring : Bool) : Bool :=
  (List.finRange 7).any fun a => match vget t.flt ⟨a.val, by omega⟩ with | some p => (!p.r.rpl || !ring) && p.idx.isNone | none => false

/-- Every agent of a slot has acknowledged, or is held by its own fault. -/
def Slot.stoppedAll (t : Slot) : Bool := (List.finRange 7).all fun a => vget t.acked a || t.heldBy a.val

/-- Trap records of a block's strands, one after the other. -/
def trapImage (d : Die) (b : Blk) : Image :=
  (List.range b.slots.length).filterMap fun i => (b.slots[i]?).map fun k => (0x100 + 64 * i, d.trapRecord k, false)

/-- A fault of the collector on a save: code 29 (R375). -/
def collFault (s : State) (d : DieId) (k : SlotId) (code : Nat) (info addr : Word) : State := takeFault s d k 7 ⟨code, 0, 0, addr, 0, 0, info⟩

/-- The stop of a block: first asked of every agent, then, all acknowledged, recorded in the save area. -/
def execTerminalFaultStop (d : DieId) (n : Nat) (s : State) : Out :=
  let p := pairOf n
  match (s.die d).sched.launch p.1 with
  | none => .next s
  | some l =>
    match l.blk p.2 with
    | none => .next s
    | some b =>
      if b.slots.isEmpty then .next s
      else if b.halted = 0 then
        if !(b.slots.any fun k => (s.slot d k).newStop (bitAt ((s.die d).getReg d rFLTQ) 63)) then .next s else
        let s := b.slots.foldl (fun s k => if vget (s.slot d k).stop 0 then s else s.modSlot d k Slot.askStop) s
        .next (s.modSched d fun q => q.modBlk l.id b.l fun x => { x with halted := 1 })
      else if b.halted = 1 && b.slots.all fun k => (s.slot d k).stoppedAll then
        match b.slots with
        | [] => .next s
        | k0 :: _ =>
          if (s.slot d k0).heldBy 7 then .next s
          else match putImage d l.asid (l.saveAt b.l) (trapImage (s.die d) b) (s.die d) with
          | .ok y _ => .next ((s.modDie d fun _ => y).modSched d fun q => q.modBlk l.id b.l fun x => { x with halted := 2 })
          | .wait _ => .next s
          | .fault y _ x => .next (collFault (s.modDie d fun _ => y) d k0 29 (BitVec.ofNat 64 (l.saveAt b.l)) (BitVec.ofNat 64 x))
      else .next s

/-! ## The fault ring (R365, R366) -/

/-- The 64 bytes of a fault record. -/
def FaultRec.bytes (r : FaultRec) : List Byte :=
  natLe 8 (2 ^ 48 * r.asid.toNat + 2 ^ 40 * (r.code % 256) + 2 ^ 37 * (r.agent % 8) + 2 ^ 34 * r.slot.val + 2 ^ 33 * boolNat r.rpl + r.node.toNat) ++
  natLe 8 r.coord.toNat ++ wordLe 8 (r.blk &&& bits 51 0) ++ wordLe 8 (r.word &&& bits 51 0) ++ wordLe 8 r.addr ++
  natLe 8 (r.seq.toNat + 2 ^ 32 * r.unit.toNat) ++ wordLe 8 r.info ++ wordLe 8 r.tick

/-- A fault that may be posted: where it stands. -/
inductive FltAt where
  | slot (k : SlotId) (a : Fin 8)
  | out (lid b sidx a : Nat)
  deriving DecidableEq, Repr

/-- Records stand in the order of their ticks, then of slots, then of agents. -/
def recBefore (a b : FaultRec) : Bool :=
  a.tick.ult b.tick || a.tick == b.tick && (a.slot.val < b.slot.val || a.slot == b.slot && a.agent < b.agent)

/-- A fault without a record: where it stands, its record, whom it belongs to, and whether its stop has been recorded (R366, R367). -/
structure Unposted where
  place : FltAt
  flt : FaultRec
  own : RingOwner
  ready : Bool
  deriving DecidableEq, Repr

def Die.unposted (d : Die) : List Unposted :=
  let here := allSlots.flatMap fun k => (List.finRange 8).filterMap fun a =>
    match vget (d.slot k).flt a, (d.slot k).ctl.own with
    | some p, some o =>
      let cut := match d.ownBlk k with | some b => decide (2 ≤ b.halted) | none => true
      if p.idx.isNone then some (⟨.slot k a, p.r, ⟨o.lid, o.blk, o.sidx, a.val⟩, p.r.rpl || a.val == 7 || cut⟩ : Unposted) else none
    | _, _ => none
  let out := d.sched.launches.flatMap fun l => l.blks.flatMap fun b => b.flts.filterMap fun (e : Nat × Nat × PFault) =>
    if e.2.2.idx.isNone then some (⟨.out l.id b.l e.1 e.2.1, e.2.2.r, ⟨l.id, b.l, e.1, e.2.1⟩, true⟩ : Unposted) else none
  here ++ out

/-- Faults that may be posted: none before an earlier one whose stop has yet to be recorded, but for the collector's own (R366, R375). -/
def Die.postable (d : Die) : List Unposted :=
  d.unposted.filter fun x => x.ready && (x.own.agent == 7 || !(d.unposted.any fun y => !y.ready && recBefore y.flt x.flt))

/-- A record of a swapped-out strand enters the record table of its slot region, and the summary of the block region (R368, R373). -/
def Die.tableSet (d : Die) (dn : DieId) (l : Launch) (b : Blk) (sidx a v : Nat) : Die :=
  let d := procStore dn d l.asid (l.saveAt b.l + slotRegion sidx + 0x480 + 2 * a) (natLe 2 v)
  let at_ := l.saveAt b.l + 0x40 + 2 * sidx
  match procLoad dn d l.asid at_ 2 with
  | (some bs, d) => procStore dn d l.asid at_ (natLe 2 (if leNat bs / 2 ^ a % 2 = 1 then leNat bs else leNat bs + 2 ^ a))
  | (none, d) => d

/-- An index of the fault ring is free: `HEAD` has passed it and a response has named it. -/
def Die.fltFree (d : Die) (i : Byte) : Bool := !d.fltUnread.contains i && !(d.ring.any fun e => e.1 == i.toNat)

def execFaultPost (d : DieId) (s : State) : Out :=
  let y := s.die d
  let i : Byte := BitVec.ofNat 8 (y.rf d rFLTPTR 0 8)
  if !bitAt (y.getReg d rFLTQ) 63 || !y.fltFree i then .next s
  else match y.postable with
  | [] => .next s
  | x :: r =>
    let m := r.foldl (fun m x => if recBefore x.flt m.flt then x else m) x
    let s := s.modDie d fun y =>
      let y := y.poke ((y.getReg d rFLTQ &&& bits 47 14).toNat + 64 * i.toNat) m.flt.bytes false
      let y := y.setRf d rFLTPTR 0 8 (i.toNat + 1)
      { y with ring := (i.toNat, m.own) :: y.ring, fltUnread := y.fltUnread ++ [i] }
    match m.place with
    | .slot k a => .next (s.modSlot d k fun t => { t with flt := vmod t.flt a fun p => p.map fun p => { p with idx := some i } })
    | .out lid b sidx a =>
      let s := s.modSched d fun q => q.modBlk lid b fun x => { x with
        flts := x.flts.map fun (e : Nat × Nat × PFault) => if e.1 == sidx && e.2.1 == a then (sidx, a, { e.2.2 with idx := some i }) else e }
      match (s.die d).sched.launch lid with
      | none => .next s
      | some l => match l.blk b with
        | some x => if x.st == .swapped then .next (s.modDie d fun y => y.tableSet d l x sidx a (tableEntry i none)) else .next s
        | none => .next s

/-! ## `CONT` at an agent -/

/-- The agent that AGENT number `a` names on slot `k`. -/
def Die.agentOf (d : Die) (k : SlotId) (a : Nat) : Agent :=
  match a with
  | 0 => .core k | 1 => .eng k .lde | 2 => .eng k .are | 3 => .eng k .ste | 4 => .eng (d.baseOf k) .mxe | 5 => .copy (clusterOf k) | _ => .coll

/-- A resend marker goes to each home that has refused one of the requests, of the package or over the fabric (R271, R402). -/
def markHomes (s : State) (d : DieId) (a : Agent) (rs : List Sent) : State :=
  let s := (allDies.filter fun h => h != d && rs.any fun p => p.home == h && !p.op.isFab).foldl (fun s h => s.send d h (.marker a)) s
  let fabs := (rs.filterMap fun p => match p.op with | .fab q h .. => some (q, h) | _ => none).eraseDups
  fabs.foldl (fun s (x : BitVec 12 × DieId) => sendNft s d (.fab x.1 x.2 (.marker (s.me ⟨d, a, 8⟩)))) s

/-- Requests of an agent in the order in which they were issued. -/
def sentIns (x : Sent) : List Sent → List Sent
  | [] => [x]
  | y :: r => if x.key < y.key then x :: y :: r else y :: sentIns x r

/-- Is the value of a request still wanted? Not that of a row which its engine reads again from the start, nor that of a block that has been discarded (R363, R371). -/
def State.wanted (s : State) (d : DieId) (a : Agent) (p : Sent) : Bool :=
  match p.rd with
  | none => true
  | some r => match r.kind, a with
    | .part key _, _ => (s.ag d a).asm.any (·.key == key)
    | .amo _, _ => true
    | _, .core k => r.seq != (s.ctl d k).ccnt
    | _, _ => true

/-- Refused requests are sent again in their original order, after a resend marker to each home that refused one (R402); what poison or a leaf of the own die held is made again here. -/
def resendAll (s : State) (d : DieId) (a : Agent) : State :=
  let rs := ((s.ag d a).refused.foldr sentIns []).filter (s.wanted d a)
  let s := markHomes s d a (s.ag d a).refused
  let here (p : Sent) : Bool := p.home == d && !p.op.isFab
  let isRd (p : Sent) : Bool := match p.rd, p.op with | some _, .amo .. => false | some _, _ => true | none, _ => false
  let s := s.modAg d a fun x => { x with
    refused := []
    rd := (rs.filterMap fun p => if here p && isRd p then p.rd else none) ++ x.rd
    sb := (rs.filterMap fun p => if here p && !isRd p then some p.op else none) ++ x.sb }
  (rs.filter fun p => !here p).foldl (fun s p => resendOne s d a p) s

/-- Rows whose fetch has failed are fetched again for the engine that has been let go on (R388). -/
def Port.refetch (p : Port) (a : Nat) : Port := { p with rows := p.rows.filter fun f => !(f.bad.isSome && engNum f.by_ == a) }

/-- What `CONT` does to the agent of a fault beyond letting it go on: a stale copy is dropped, in the slot and among those the entry has read (R398), failed rows are fetched again, refused and held requests go out again. -/
def contAgent (s : State) (d : DieId) (k : SlotId) (a code : Nat) : State :=
  let g := (s.die d).agentOf k a
  let s := if a = 0 && (s.ctl d k).act == .faulted then s.modCtl d k fun c => { c with act := (s.die d).actBack k } else s
  let s := if code = 18 then
      match (s.die d).run g with
      | some r =>
        let s := match r.rcpy with | some c => s.modSlot d k fun t => t.dropRec c.home c.pa | none => s
        let old (c : RecCopy) : Bool := r.rcpy.any fun x => x.home == c.home && x.pa == c.pa
        s.modDie d fun y => y.setRun g (some { r with rcpy := none, part := 0, copies := r.copies.filter fun c => !old c })
      | none => s
    else s
  let s := s.modSlot d k fun t => { t with ports := t.ports.map fun p => p.refetch a }
  if (s.ag d g).refused.isEmpty then s else resendAll s d g

end Sys2Proof.Machine
end

