-- ==== Sys2Proof/Machine/Alloc.lean ====
section
/-! DEFINITION. The fragment allocator (R27, R28, R35 to R38, R316 to R323, R330, R332): who waits for a placement and what fits, leases and pick-ups, give-up and retirement, slices, swap-outs and swap-ins, counter sets (R347). -/

namespace Sys2Proof.Machine

/-! ## Teams, classes, residency -/

def Launch.teamRange (l : Launch) (t : Nat) : List Nat := (List.range l.teamsz).filterMap fun i => if t * l.teamsz + i < l.blocks then some (t * l.teamsz + i) else none
def Launch.teamBlks (l : Launch) (t : Nat) : List Blk := l.blks.filter fun b => l.teamOf b.l == t
def Launch.teamSlots (l : Launch) (t : Nat) : List SlotId := (l.teamBlks t).flatMap (·.slots)
def Die.teamSlots (d : Die) (lid t : Nat) : List SlotId := match d.sched.launch lid with | some l => l.teamSlots t | none => []

/-- A team is resident: a block of it holds a fragment. -/
def Die.resident (d : Die) (x : Team) : Bool := !(d.teamSlots x.lid x.t).isEmpty

def slotMask (ks : List SlotId) : Nat := (allSlots.filter ks.contains).foldl (fun n k => n + 2 ^ k.val) 0
/-- A trace record of a team's stop or start (R342). -/
def Die.traceTeam (d : Die) (dn : DieId) (l : Launch) (ks : List SlotId) (stop : Bool) : Die :=
  trcRecord dn d 3 (natLe 4 (l.node.toNat + 65536 * slotMask ks + 2 ^ 24 * boolNat stop))

/-- The power class, at every lease grant, give-up and retirement (R332). -/
def Die.evalClass (d : Die) (dn : DieId) : Die :=
  let leased := allSlots.filter fun k => (d.layOf k).v
  let mem := leased.filter fun k => (d.ownLaunch k).any (·.pwr)
  d.setRf dn rPGRANT 4 1 (boolNat (!leased.isEmpty && leased.length ≤ 2 * mem.length))

/-! ## Counter sets (R347) -/

def Die.pmArea (d : Die) (dn : DieId) (asid : Half) : Nat := (d.getReg dn rPMBASE &&& bits 47 12).toNat + 4096 * asid.toNat
/-- A part of a counter set is written to its place in the counter area, where memory backs it. -/
def Die.pmPut (d : Die) (a : Nat) (bs : List Byte) : Die := if isMem a bs.length then d.pokes a bs false else d
/-- Die counter sets follow the ASIDs with a resident team, whether counting is enabled or not (log entry 125). -/
def Die.liveSets (d : Die) (dn : DieId) : Die :=
  let now := ((d.sched.teams.filter d.resident).filterMap fun t => (d.sched.launch t.lid).map (·.asid)).eraseDups
  let gone := d.sched.live.filter fun e => !now.contains e.1
  let d := gone.foldl (fun d e =>
    let a := d.pmArea dn e.1
    (d.pmPut (a + 0x800) (e.2.1.toList.flatMap (wordLe 8))).pmPut (a + 0x900) (e.2.2.toList.flatMap fun (b : Byte) => natLe 8 b.toNat)) d
  let new := (now.filter fun i => !(d.sched.live.any fun e => e.1 == i)).map fun i =>
    let a := d.pmArea dn i
    ((i, Vector.ofFn fun n => leWord (d.peek (a + 0x800 + 8 * n.val) 8), Vector.ofFn fun n => listGet 0 (d.peek (a + 0x900 + 8 * n.val) 1) 0) : Half × Vector Word 32 × Vector Byte 32)
  { d with sched := { d.sched with live := new ++ d.sched.live.filter fun e => now.contains e.1 } }

/-- A slot's record copies go at a pick-up for another ASID (R101), and its counters change owner, set for set (R347). -/
def Die.slotOwner (d : Die) (dn : DieId) (k : SlotId) (asid : Half) : Die :=
  let d := d.modSlot k fun t => if t.recOwn == asid then t else { t with recOwn := asid, recs := [] }
  let t := d.slot k
  if t.pmOwn == asid then d
  else
    let o := d.pmArea dn t.pmOwn + 256 * k.val
    let n := d.pmArea dn asid + 256 * k.val
    let d := (d.pmPut o (t.pmc.toList.flatMap (wordLe 8))).pmPut (o + 128) (t.pmsel.toList.flatMap fun (b : Byte) => natLe 8 b.toNat)
    d.modSlot k fun t => { t with
      pmOwn := asid
      pmc := Vector.ofFn fun i => leWord (d.peek (n + 8 * i.val) 8), pmsel := Vector.ofFn fun i => listGet 0 (d.peek (n + 128 + 8 * i.val) 1) 0 }

/-! ## Slots taken and given back -/

/-- A slot of a newly leased fragment: registers, tiles, queues, counts and array state afresh (R25, R28, R48, R369). -/
def Slot.lease (t : Slot) (o : Owner) : Slot :=
  { Slot.reset with
    ctl := { Ctl.idle with own := some o, ntag := t.ctl.ntag }
    tlb := t.tlb, recs := t.recs, pmc := t.pmc, pmsel := t.pmsel, pmOwn := t.pmOwn, recOwn := t.recOwn, pnid := t.pnid
    agCtl := { AgentSt.empty with nkey := t.agCtl.nkey }, agLde := { AgentSt.empty with nkey := t.agLde.nkey }, agSte := { AgentSt.empty with nkey := t.agSte.nkey }
    agAre := { AgentSt.empty with nkey := t.agAre.nkey }, agMxe := { AgentSt.empty with nkey := t.agMxe.nkey } }

/-- A slot whose fragment goes back to the allocator: nothing of its strand is left in it. -/
def Slot.vacate (t : Slot) : Slot :=
  { t with
    agCtl := { t.agCtl with sb := [], refused := [] }, agLde := { t.agLde with refused := [] }, agAre := { t.agAre with refused := [] }
    agSte := { t.agSte with refused := [] }, agMxe := { t.agMxe with refused := [] }
    ctl := { Ctl.idle with ntag := t.ctl.ntag }, ports := t.ports.map fun _ => Port.empty, q := .replicate 6 [], lde := none, are := none, ste := none, mxe := none
    cpeAt := none, coeAt := none, mord := [], flt := .replicate 8 none, stop := .replicate 7 false, acked := .replicate 7 false, w := 0 }

/-- Slots leave their fragments: the layout, the power class and the live counter sets follow (R38, R44, R332, R347). -/
def Die.giveBack (d : Die) (ks : List SlotId) : Die := ks.foldl (fun d k => (d.modLay k fun _ => Lay.none).modSlot k Slot.vacate) d
def Die.afterGive (d : Die) (dn : DieId) : Die := (d.evalClass dn).liveSets dn

/-- `KSTAT` and `KSLIP` of slots whose strand has pushed no context (R291). -/
def Die.clearKstat (d : Die) (ks : List SlotId) : Die :=
  { d with coe := { d.coe with kstat := ks.foldl (fun v k => vset v k 0) d.coe.kstat, kslip := ks.foldl (fun v k => vset v k 0) d.coe.kslip } }

/-- A block is leased the slots `ks`: its own layout again where it has one (R48). -/
def Die.leaseBlk (d : Die) (l : Launch) (b : Blk) (ks : List SlotId) : Die :=
  let d := (List.range ks.length).foldl (fun d i => match ks[i]? with | some k => d.modSlot k fun t => t.lease ⟨l.id, b.l, i⟩ | none => d) d
  let d := match b.lay, ks with
    | [], k :: _ => d.putFrag l.shape k .plusTimes tRAW
    | [], [] => d
    | ls, _ => d.putRel ks ls false
  let d := d.clearKstat ks
  { d with sched := { d.sched.modBlk l.id b.l fun x => { x with
      slots := ks, st := if x.earl then .early else .leased, halted := 0, recs := x.recs.map fun r => { r with on := false } } with
    cq := d.sched.cq.filter fun e => e != (l.id, b.l) } }

/-! ## Waits of suspended strands (R20, R27, R28) -/

/-- A suspended strand's wait, as its record in memory holds it, or as the scheduler does where the record cannot be read. -/
def Die.recWait (d : Die) (dn : DieId) (l : Launch) (b : Blk) (i : Nat) (r : StrandRec) : Nat × Fin 32 × W32 × Half :=
  match r.susp with
  | none => (0, 0, 0, 0)
  | some w =>
    match procLoad dn d l.asid (l.recAt b.l i) 64 with
    | (some bs, _) => let v := recOf bs; (v.kind, ⟨v.sem % 32, Nat.mod_lt _ (by decide)⟩, v.thr, v.pnode)
    | (none, _) => w

/-- May strand i be picked up, on the slot given if it keeps one? `DONE` keeps a strand out with `KIND` 0 alone (R27); a semaphore is read as the strand itself reads it (R108). A reserved `KIND` is never met. -/
def Die.strandMet (d : Die) (dn : DieId) (l : Launch) (b : Blk) (i : Nat) (k : Option SlotId) : Bool :=
  match b.recs[i]? with
  | none => false
  | some r =>
    match r.susp with
    | none => !r.done
    | some _ =>
      match d.recWait dn l b i r with
      | (0, _) => !r.done
      | (1, j, v, _) => match k.bind fun k => semSeen d dn k j with | some x => !(x.ult v) | none => false
      | (2, _, _, n) => match d.sched.latest l.pid n with | some x => x.st == .failed || visible d x.id | none => true
      | _ => false

/-- A block keeps its fragment (R27): newly leased, or with a strand that is not suspended or waits for a semaphore. -/
def Blk.keeps (b : Blk) : Bool :=
  b.recs.all (fun r => !r.on) || b.recs.any fun r => match r.susp with | none => true | some x => x.1 == 1

/-- Nothing of a block's slots is under way: entries complete, no pass in flight, chain links idle, writes applied, no fault held (R28, R37). -/
def Die.blkIdle (d : Die) (dn : DieId) (ks : List SlotId) : Bool :=
  ks.all fun k =>
    let t := d.slot k
    t.q.toList.all (·.isEmpty) && t.lde.isNone && t.are.isNone && t.ste.isNone && t.mxe.isNone && (d.layOf k).buf.isEmpty
      && d.still dn (.core k) false && d.still dn (.eng k .lde) false && d.still dn (.eng k .are) false && d.still dn (.eng k .ste) false
      && d.still dn (.eng k .mxe) false
      && t.flt.toList.all (·.isNone) && t.ctl.arvs.isEmpty && t.ctl.due.isNone && t.agCtl.refused.isEmpty

/-! ## Who waits (R35, R36, R314, R316) -/

/-- A team that waits for a placement. -/
structure Cand where
  lid : Nat
  t : Nat
  cls : Fin 4
  pid : Byte
  swap : Bool
  early : Bool
  blks : List Nat
  deriving DecidableEq, Repr

/-- A Queued block that may be leased: fresh, or with a strand whose wait is met. -/
def Die.eligible (d : Die) (dn : DieId) (l : Launch) (b : Blk) : Bool :=
  b.st == .queued && b.slots.isEmpty && (b.recs.all (·.susp.isNone) || (List.range b.recs.length).any fun i => d.strandMet dn l b i none)

/-- A record that keeps a swapped-out block from being placed: a terminal one without a kept `CONT`, or one that `SAVE` has named (R368). -/
def Blk.keptOut (b : Blk) : Bool := b.flts.any fun e => (!e.2.2.r.rpl && e.2.2.kept != some 0) || e.2.2.kept == some 1

/-- A block that waits outside its fragment after giving it up (R28). -/
def Blk.gaveUp (b : Blk) : Bool := b.st == .queued && b.slots.isEmpty && b.recs.any (·.susp.isSome)

/-- A team of the class queue, if all of it can be resident. A mate that has given up its fragment and may not go on yet holds none of the others back (R28). -/
def Die.queueCand (d : Die) (dn : DieId) (l : Launch) (t : Nat) : Option Cand :=
  let bs := (l.teamRange t).map l.blk
  let ok := bs.all fun b => match b with | some b => b.st == .retired || !b.slots.isEmpty || b.gaveUp || d.eligible dn l b | none => false
  let todo := bs.filterMap fun b => match b with | some b => if d.eligible dn l b then some b else none | none => none
  if l.st != .active || !ok || todo.isEmpty || (d.sched.team l.id t).any (·.leaving) then none
  else some ⟨l.id, t, l.cls, l.pid, false, todo.any (·.earl), todo.map (·.l)⟩

/-- A team of the swap queue. DEDUCED (log entry 127): a mate that had given up its fragment when the team was swapped out stays Queued, is leased none while the team is out, and does not come back with it; R28 lets it go on by itself afterwards. -/
def Die.swapCand (d : Die) (l : Launch) (t : Nat) : Option Cand :=
  let bs := (l.teamBlks t).filter fun b => b.st == .swapped
  if l.st != .active || bs.isEmpty || bs.any Blk.keptOut || d.sched.out.contains (l.id, t) then none
  else some ⟨l.id, t, l.cls, l.pid, true, bs.any (·.earl), bs.map (·.l)⟩

/-- A launch of one process and class. -/
def Sched.mine (q : Sched) (c : Fin 4) (pid : Byte) (lid : Nat) : Option Launch := (q.launch lid).filter fun l => l.cls == c && l.pid == pid

/-- The head of a process's swap queue of a class: the first team in it that nothing keeps out. -/
def Die.swapHead (d : Die) (c : Fin 4) (pid : Byte) : Option Cand :=
  d.sched.sq.findSome? fun x => (d.sched.mine c pid x.1).bind fun l => d.swapCand l x.2

/-- Waiting teams of a process's class queue, in order. -/
def Die.queueCands (d : Die) (dn : DieId) (c : Fin 4) (pid : Byte) : List Cand :=
  (d.sched.cq.filterMap fun x => (d.sched.mine c pid x.1).map fun l => (x.1, l.teamOf x.2)).eraseDups.filterMap fun x =>
    (d.sched.mine c pid x.1).bind fun l => d.queueCand dn l x.2

/-- Processes with launches of a class, in their turn. -/
def Sched.procs (q : Sched) (c : Fin 4) : List Byte :=
  ((List.finRange 256).map fun i => vget q.rr c + 1 + BitVec.ofNat 8 i.val).filter fun p => q.launches.any fun l => l.pid == p && l.cls == c

/-! ## What fits (R42, R316, R318, R330) -/

/-- A placement: cluster, slots of each block in order, window bases. -/
structure Place where
  cluster : ClusterId
  slots : List (List SlotId)
  base0 : Nat
  base1 : Nat
  deriving DecidableEq, Repr

/-- A band that may hold fragments. -/
def Die.bandOk (d : Die) (dn : DieId) (b : Fin 4) : Bool := d.rf dn rASHAPE b.val 1 = 1 && d.rf dn rASHAPE (8 + b.val) 1 = 1

def Launch.wide (l : Launch) : Bool := decide (4 ≤ l.shape.val)

/-- Does a team's window lie in vault `v`? -/
def Team.inVault (t : Team) (v : Nat) : Bool := t.wide || t.cluster.val == v

/-- First fit in a vault's pool beside the windows of the teams that stay (R318). -/
def Die.poolFind (d : Die) (dn : DieId) (v zw : Nat) (gone : List (Nat × Nat)) : Option Nat :=
  let r := if v = 0 then rVPOOL0 else rVPOOL1
  let lo := d.rf dn r 16 13
  let hi := lo + d.rf dn r 0 13
  let used : List (Nat × Nat) := d.sched.teams.filterMap fun t =>
    match d.sched.launch t.lid with
    | some l => if l.zw = 0 || gone.contains (t.lid, t.t) || !t.inVault v then none else some (if v = 0 then t.base0 else t.base1, l.zw)
    | none => none
  let ok (a : Nat) : Bool := lo ≤ a && a + zw ≤ hi && used.all fun u => a + zw ≤ u.1 || u.1 + u.2 ≤ a
  ((lo :: used.map fun u => u.1 + u.2).filter ok) |> minOf

/-- Clusters in which a team may be placed: that of its window or of its resident blocks, else either. A C or W team counts as in cluster 0. -/
def Die.homes (d : Die) (l : Launch) (t : Nat) : List ClusterId :=
  if l.wide then [0]
  else match d.sched.team l.id t with
    | some x => if l.zw != 0 || d.resident x then [x.cluster] else [0, 1]
    | none => [0, 1]

/-- Fragments of the grid's shape that a cluster offers on the slots admitted. -/
def Launch.spots (l : Launch) (cl : ClusterId) (ok : SlotId → Bool) : List (List SlotId) :=
  allSlots.filterMap fun b => if l.wide || clusterOf b == cl then (placement l.shape b).filter fun ks => ks.all ok else none

/-- Window bases in a cluster: those the team has, or the first that fit. -/
def Die.bases (d : Die) (dn : DieId) (l : Launch) (t : Nat) (cl : ClusterId) (gone : List (Nat × Nat)) : Option (Nat × Nat) :=
  if l.zw = 0 then some (0, 0)
  else match d.sched.team l.id t with
  | some x => some (x.base0, x.base1)
  | none =>
    if l.wide then (d.poolFind dn 0 l.zw gone).bind fun a => (d.poolFind dn 1 l.zw gone).map fun b => (a, b)
    else (d.poolFind dn cl.val l.zw gone).map fun a => if cl = 0 then (a, 0) else (0, a)

/-- A slot that fragments may be placed on once the teams in `gone` have left. -/
def Die.open_ (d : Die) (dn : DieId) (gone : List (Nat × Nat)) (k : SlotId) : Bool :=
  d.bandOk dn (bandOf k) && (!(d.layOf k).v || gone.any fun x => (d.teamSlots x.1 x.2).contains k)

/-- Free collective contexts for those a team brings back, counting the teams in `gone` as away. -/
def Die.ctxRoom (d : Die) (l : Launch) (bs : List Nat) (gone : List (Nat × Nat)) : Bool :=
  let need := (l.blks.filter fun b => bs.contains b.l).foldl (fun n b => n + b.ctxs.length) 0
  let free (x : Option KCtx) : Bool := match x with
    | none => true
    | some k => match d.sched.launch k.own.lid with | some y => gone.contains (y.id, y.teamOf k.own.blk) | none => false
  decide (need ≤ (d.coe.ctx.toList.filter free).length)

/-- The placement that a failed restore keeps for its team (R375). -/
def Die.resPlace (d : Die) (l : Launch) (c : Cand) : Option Place :=
  let ks := (l.blks.filter fun b => c.blks.contains b.l).map (·.res)
  if !c.swap || ks.isEmpty || ks.any (·.isEmpty) then none else (d.sched.team l.id c.t).map fun t => ⟨t.cluster, ks, t.base0, t.base1⟩

/-- The first placement of a team on slots of `only`, counting the slots, windows and contexts of the teams in `gone` as free. -/
def Die.fit (d : Die) (dn : DieId) (c : Cand) (only : Option (List SlotId)) (gone : List (Nat × Nat)) : Option Place :=
  match d.sched.launch c.lid with
  | none => none
  | some l =>
    if !d.ctxRoom l c.blks gone then none
    else match d.resPlace l c with
    | some p => if p.slots.flatten.all (only.getD allSlots).contains then some p else none
    | none => (d.homes l c.t).findSome? fun cl =>
      let ps := l.spots cl fun k => (only.getD allSlots).contains k && d.open_ dn gone k
      if ps.length < c.blks.length then none
      else (d.bases dn l c.t cl gone).map fun b => ⟨cl, ps.take c.blks.length, b.1, b.2⟩

/-- Would the team `x` make room for a waiting one, the teams in `gone` away as well: with a slot of a placement, or with its window where the pool has no other? -/
def Die.serves (d : Die) (dn : DieId) (c : Cand) (gone : List (Nat × Nat)) (x : Team) : Bool :=
  match d.sched.launch c.lid with
  | none => false
  | some l =>
    let xs := d.teamSlots x.lid x.t
    d.ctxRoom l c.blks gone && if (d.resPlace l c).isSome then !d.ctxRoom l c.blks (gone.filter (· != (x.lid, x.t))) else (d.homes l c.t).any fun cl =>
      let ps := l.spots cl (d.open_ dn gone)
      decide (c.blks.length ≤ ps.length) && (d.bases dn l c.t cl gone).isSome
        && (ps.any (fun p => p.any xs.contains) || ((d.bases dn l c.t cl []).isNone && (l.wide || x.inVault cl.val)))

/-! ## The bound on waits (R36) -/

/-- Processes that hold swapped-out teams of a class. -/
def Sched.swapPids (q : Sched) (c : Fin 4) : List Byte :=
  (q.sq.filterMap fun x => ((q.launch x.1).filter fun l => l.cls == c).map (·.pid)).eraseDups
def headKey (c : Fin 4) (pid : Byte) : Nat := 256 * c.val + pid.toNat

/-- A slice of class c begins: every head of a swap queue of the class has waited one more. -/
def Sched.beginSlice (q : Sched) (c : Fin 4) : Sched :=
  { q with begun := (q.swapPids c).foldl (fun m p => spSet 0 m (headKey c p) (spGet 0 m (headKey c p) + 1)) q.begun }
/-- Another team is the head: `n` slices count against it, 1 where the slice of the head before it has just begun. -/
def Sched.newHead (q : Sched) (c : Fin 4) (pid : Byte) (n : Nat) : Sched := { q with begun := spSet 0 q.begun (headKey c pid) n }
/-- A swapped-out team takes its place at the tail of its queue. -/
def Sched.joinSwap (q : Sched) (l : Launch) (t : Nat) : Sched :=
  let q' := { q with sq := q.sq ++ [(l.id, t)] }
  if (q.swapPids l.cls).contains l.pid then q' else q'.newHead l.cls l.pid 0

/-- Slices of its class that may begin before a head is late. -/
def Die.slack (d : Die) (c : Cand) : Nat := (d.sched.swapPids c.cls).length - spGet 0 d.sched.begun (headKey c.cls c.pid)

/-- The head that must be placed before any other slice of its class begins, or some head would be late: the one with the least slack, of those that an empty array could hold; of the heads with `EARLY` or of those without. -/
def Die.due (d : Die) (dn : DieId) (c : Fin 4) (early : Bool) : Option Cand :=
  let every := d.sched.teams.map fun t => (t.lid, t.t)
  let hs := ((d.sched.procs c).filterMap (d.swapHead c)).filter fun x => x.early == early && (d.fit dn x none every).isSome
  let tight := (List.range hs.length).any fun j => decide (j < (hs.filter fun x => decide (d.slack x ≤ j)).length)
  match hs with
  | [] => none
  | h :: r => if tight then some (r.foldl (fun m x => if d.slack x < d.slack m then x else m) h) else none

/-! ## The allocator's order (R314, R316) -/

/-- What follows in a class's order is an Early team, or the head of a swap queue: no Queued team without `EARLY`. -/
def noQueued (xs : List Cand) : Bool := xs.all fun x => x.early || x.swap

/-- Early teams go behind the last Queued team without `EARLY` of their class; the others keep their order (R314, R316). -/
def earlyLast : List Cand → List Cand → List Cand
  | held, [] => held
  | held, x :: r => if noQueued (x :: r) then held ++ x :: r else if x.early then earlyLast (held ++ [x]) r else x :: earlyLast held r

/-- Waiting teams of a class in the order of R316 and R314: processes in turn, the swap head before the class queue. A head that is due goes first, and the rest of its class waits until it is placed (R36); one with `EARLY` comes after the Queued teams without (R314; log entry 128). `every`: those that wait for a head that is due are listed behind it. -/
def Die.classCands (d : Die) (dn : DieId) (every : Bool) (c : Fin 4) : List Cand :=
  let xs := (d.sched.procs c).flatMap fun p => (d.swapHead c p).toList ++ d.queueCands dn c p
  match d.due dn c false, d.due dn c true with
  | some h, _ => h :: if every then earlyLast [] (xs.erase h) else []
  | none, some h => (xs.filter fun x => !x.early && !x.swap) ++ h :: if every then (xs.filter fun x => x.early || x.swap).erase h else []
  | none, none => earlyLast [] xs

/-- Waiting teams, class by class. -/
def Die.cands (d : Die) (dn : DieId) (every : Bool) : List Cand := ([0, 1, 2, 3] : List (Fin 4)).flatMap (d.classCands dn every)

/-- Processes and classes whose Early swap head does not fit: their class queues wait behind it. -/
def Die.stuck (d : Die) (dn : DieId) (only : Option (List SlotId)) (cs : List Cand) : List (Fin 4 × Byte) :=
  (cs.filter fun c => c.swap && c.early && (d.fit dn c only []).isNone).map fun c => (c.cls, c.pid)

/-- Placed so, a swapped-out Early team would at once make way again for a waiting team without `EARLY`, of any class, that fits only without it (R314): it is passed over until that team is placed. -/
def Die.passesOver (d : Die) (dn : DieId) (cs : List Cand) (c : Cand) (p : Place) : Bool :=
  let ks := p.slots.flatten
  let x : Team := ⟨c.lid, c.t, p.cluster, (d.sched.launch c.lid).any (·.wide), p.base0, p.base1, 0, false, false, none, []⟩
  let e : Die := { d with sched := { d.sched with teams := x :: d.sched.teams } }
  c.swap && c.early && cs.any fun y => !y.early && (d.fit dn y none []).isSome && (e.fit dn y (some (allSlots.filter fun k => !ks.contains k)) []).isNone

/-- The first waiting team that fits; a head of a swap queue that does not fit holds back the rest of its process and class. -/
def Die.firstFit (d : Die) (dn : DieId) (only : Option (List SlotId)) (cs : List Cand) : List Cand → List (Fin 4 × Byte) → Option (Cand × Place)
  | [], _ => none
  | c :: r, stuck =>
    if !c.swap && stuck.contains (c.cls, c.pid) then d.firstFit dn only cs r stuck
    else match d.fit dn c only [] with
    | some p => if d.passesOver dn cs c p then d.firstFit dn only cs r stuck else some (c, p)
    | none => d.firstFit dn only cs r (if c.swap then (c.cls, c.pid) :: stuck else stuck)

/-- The team that is placed next, on slots of `only`. -/
def Die.nextPlace (d : Die) (dn : DieId) (only : Option (List SlotId)) : Option (Cand × Place) :=
  let cs := d.cands dn false
  d.firstFit dn only cs cs (d.stuck dn only cs)

/-- Waiting teams that neither free slots nor those of the teams in `gone` serve, each of the others taking its own; with the slots so taken. -/
def Die.unserved (d : Die) (dn : DieId) (gone : List (Nat × Nat)) : List Cand → List (Fin 4 × Byte) → List SlotId → List (Cand × List SlotId)
  | [], _, _ => []
  | c :: r, stuck, used =>
    if !c.swap && stuck.contains (c.cls, c.pid) then d.unserved dn gone r stuck used
    else match d.fit dn c (some (allSlots.filter fun k => !used.contains k)) gone with
    | some p => d.unserved dn gone r stuck (used ++ p.slots.flatten)
    | none => (c, used) :: d.unserved dn gone r (if c.swap then (c.cls, c.pid) :: stuck else stuck) used

/-- Those that wait although every team being swapped out will have left; a head that is due hides none of the others. -/
def Die.waiting (d : Die) (dn : DieId) : List (Cand × List SlotId) :=
  let cs := d.cands dn true
  d.unserved dn ((d.sched.teams.filter (·.leaving)).map fun t => (t.lid, t.t)) cs (d.stuck dn none cs) []

/-! ## Swap-in (R322, R373 to R376) -/

/-- A restore that fails: the team stays out, its record waits for `CONT` (R375, R376). -/
def restoreFault (s : State) (d : DieId) (l : Launch) (b : Blk) (k : SlotId) (code : Nat) (addr : Nat) : State :=
  let r : FaultRec :=
    { asid := l.asid, code := code, agent := 7, slot := k, rpl := false, node := l.node, coord := l.coord b.l, blk := 0, word := 0, addr := BitVec.ofNat 64 addr
      seq := 0, unit := 0, info := if code = 23 then 0 else BitVec.ofNat 64 (l.saveAt b.l), tick := s.tick d }
  s.modSched d fun q => q.modBlk l.id b.l fun x => { x with flts := x.flts ++ [(0, 7, ⟨r, none, none⟩)] }

/-- What a strand's region holds, checked, with the block region `i` and the regions `xs` before it. -/
def gotSlot (s : State) (d : DieId) (l : Launch) (b : Blk) (ks : List SlotId) (i : Image) (xs : List Image) (j : Nat) :
    XRes Image → Except State (State × Image × List Image)
  | .wait _ => .error s
  | .fault y _ x => .error (restoreFault (s.modDie d fun _ => y) d l b (ks.getD 0 0) 29 x)
  | .ok y x =>
    let s := s.modDie d fun _ => y
    let runs := match b.aux[j]? with | some a => a.runs | none => []
    match x.find? fun p => p.2.2 && !(0x8000 ≤ p.1 && p.1 < 0x88000 || 0xC0000 ≤ p.1) with
    | some p => .error (restoreFault s d l b (ks.getD 0 0) 23 (l.saveAt b.l + slotRegion j + p.1))
    | none => match badSlot runs (slice (i.bytes 0x100) (64 * j) 64) x with
    | some o => .error (restoreFault s d l b (ks.getD 0 0) 30 (slotRegion j + o))
    | none => .ok (s, i, xs ++ [x])

/-- What the block region holds, checked, then each strand's region with its trap record. -/
def gotBlk (s : State) (d : DieId) (l : Launch) (b : Blk) (ks : List SlotId) : XRes Image → Except State (State × Image × List Image)
  | .wait _ => .error s
  | .fault y _ x => .error (restoreFault (s.modDie d fun _ => y) d l b (ks.getD 0 0) 29 x)
  | .ok y i =>
    let s := s.modDie d fun _ => y
    match i.find? (·.2.2) with
    | some p => .error (restoreFault s d l b (ks.getD 0 0) 23 (l.saveAt b.l + p.1))
    | none => match badBlk l ks i with
    | some o => .error (restoreFault s d l b (ks.getD 0 0) 30 o)
    | none =>
      (List.range ks.length).foldl (fun (acc : Except State (State × Image × List Image)) j => acc.bind fun p =>
        gotSlot p.1 d l b ks p.2.1 p.2.2 j (getImage d l.asid (l.saveAt b.l + slotRegion j) slotPieces (p.1.die d))) (.ok (s, i, []))

/-- What a block's restore reads, checked: the block region, and each strand's region with its trap record. -/
def readBlk (s : State) (d : DieId) (l : Launch) (b : Blk) (ks : List SlotId) : Except State (State × Image × List Image) :=
  gotBlk s d l b ks (getImage d l.asid (l.saveAt b.l) blkPieces (s.die d))

/-- A saved context goes on in a free one, under its new slot, with the requests `rs` that a home has refused it; O and its position are those of the save area. Groups that were told of its absence hear of its presence (R298). -/
def ctxBack (s : State) (d : DieId) (ks : List SlotId) (k : KCtx) (bs : List Byte) (rs : List Sent) : State :=
  let w (n : Nat) : Nat := leNat (slice bs (8 * n) 8)
  let sl := ks.getD k.own.sidx 0
  let k := { k with
    slot := sl, run := k.run.map fun r => { r with slot := sl }, frame := w 1 % 2 ^ 32, step := w 1 / 2 ^ 32, t0 := BitVec.ofNat 64 (w 2), ofs := w 3
    round := w 4, tt := w 5, inFrame := w 0 % 2 == 1, stopped := false, resumed := k.run.isNone }
  match (List.finRange 8).find? fun x => (s.ctx d x).isNone with
  | some x =>
    let s := (s.setCtx d x { k with away := false }).modAg d .coll fun a => { a with refused := a.refused ++ rs.map fun p => p.placed ks (some x.val) .coll }
    if k.away then tellGroups s d k false else s
  | none => s

/-- What a restored strand still has to send: requests of the engines that it shares come back to those of its placement, and pieces in its team's window lie where the window does now (R93, R322, R402). -/
def State.requestsBack (s : State) (d : DieId) (ks : List SlotId) (k : SlotId) (a : SlotAux) : State :=
  let c : Agent := .copy (clusterOf k)
  let y := s.die d
  let g (p : Piece) : Piece := p.again d y (y.who (.core k) k)
  let s := ([.core k, .eng k .lde, .eng k .are, .eng k .ste, .eng k .mxe] : List Agent).foldl (fun s m =>
    s.modAg d m fun x => { x with refused := x.refused.map (Sent.moved id g m), sb := x.sb.map (SbOp.moved id g m) }) s
  let s := s.modAg d c fun x => { x with refused := x.refused ++ (a.refusedBy 5).map fun p => (p.placed ks none c).moved id g c }
  s.modAg d .coll fun x => { x with refused := x.refused ++ (a.refusedBy 6).map fun p => p.placed ks none .coll }

/-- A block is placed again on `ks` from the images read (R322). DEDUCED (log entry 128): a block swapped out while Early comes back Early, though R37 names Running alone; it has not been released under R315. -/
def putBlk (s : State) (d : DieId) (l : Launch) (b : Blk) (ks : List SlotId) (i : Image) (xs : List Image) : State :=
  let trap (j : Nat) : List Byte := slice (i.bytes 0x100) (64 * j) 64
  let each (f : State → Nat → SlotId → Image → SlotAux → State) (s : State) : State :=
    (List.range ks.length).foldl (fun s j => match ks[j]?, xs[j]?, b.aux[j]? with | some k, some x, some a => f s j k x a | _, _, _ => s) s
  let s := s.modDie d fun y => (ks.foldl (fun y k => y.slotOwner d k l.asid) y).clearKstat ks
  let s := each (fun s j k x a => s.modSlot d k fun t => slotBack (t.lease ⟨l.id, b.l, j⟩) ks k ⟨l.id, b.l, j⟩ x (trap j) a) s
  let s := s.modDie d fun y => y.putRel ks (layBack i ks.length) true
  let s := each (fun s j k x a =>
    let base := (s.die d).baseOf k
    let s := match regionRun k x (trap j) a 3 with
      | some r => s.modSlot d base fun t => { t with mxe := some r }
      | none => s
    if base != k then s
    else
      let s := s.modSlot d k fun t => { t with mord := a.mord.filterMap fun n => ks[n]? }
      s.modDie d fun y => y.modLay k fun z => { z with
        buf := (List.range a.chain.length).filterMap fun n => (a.chain[n]?).map fun (c : Tag × Bool) =>
          (⟨c.1, x.bytes (0x110000 + 512 * n), c.2 || (x.piece (0x110000 + 512 * n)).2⟩ : ChainRow) }) s
  let s := each (fun s j _ x _ =>
    s.modSched d fun q => q.modBlk l.id b.l fun z => z.modRec j fun r =>
      { r with arvS := BitVec.ofNat 32 (leNat (x.bytes 0x168)), arvC := BitVec.ofNat 32 (leNat (slice (x.bytes 0x16C) 0 4)), arvD := BitVec.ofNat 32 (leNat (slice (x.bytes 0x16C) 4 4)) }) s
  let s := each (fun s _ k _ a => s.requestsBack d ks k a) s
  let s := (List.range b.ctxs.length).foldl (fun s n => match b.ctxs[n]? with
    | some k => ctxBack s d ks k (slice (i.bytes 0x400) (256 * n) 256) (match b.aux[k.own.sidx]? with | some a => a.refusedBy (16 + n) | none => [])
    | none => s) s
  let conts := b.flts.filter fun e => e.2.2.kept == some 0
  let s := s.modSched d fun q => q.modBlk l.id b.l fun x => { x with
    slots := ks, st := if x.earl then .early else .running, halted := 0, flts := x.flts.filter fun e => e.2.2.kept != some 0 && e.2.2.r.rpl, aux := [], ctxs := [], lay := [], res := [] }
  answerQueries (conts.foldl (fun s e => contAgent s d (ks.getD e.1 0) e.2.1 e.2.2.r.code) s) d

/-- The saved windows come back (R35). -/
def readWindows (d : DieId) (l : Launch) : List (Nat × Nat) → Die → XRes (List (Nat × Image))
  | [], y => .ok y []
  | (pa, at_) :: r, y =>
    match getImage d l.asid at_ ((List.range (l.zw * 512)).map fun i => (128 * i, 128)) y with
    | .fault y c x => .fault y c x
    | .wait y => .wait y
    | .ok y i =>
      match readWindows d l r y with
      | .fault y c x => .fault y c x
      | .wait y => .wait y
      | .ok y is => .ok y ((pa, i) :: is)

/-- A restore has failed: its team keeps the new placement, slots and window, and stays out (R375). One that only waits keeps nothing. -/
def holdPlace (s : State) (d : DieId) (l : Launch) (c : Cand) (p : Place) (team : Team) : State :=
  let bs := ((s.die d).sched.launch l.id).elim [] fun l => l.blks.filter fun b => c.blks.contains b.l
  if !(bs.any fun b => b.flts.any fun e => e.2.1 == 7) then s
  else
    let s := s.modDie d fun y => p.slots.foldl (fun y ks => match ks with | k :: _ => y.putFrag l.shape k .plusTimes tRAW | [] => y) y
    let s := (bs.zip p.slots).foldl (fun s x => s.modSched d fun q => q.modBlk l.id x.1.l fun b => { b with res := x.2 }) s
    s.modSched d fun q => { q with teams := team :: q.teams.filter fun z => !(z.lid == l.id && z.t == c.t) }

/-- The placement that a failed restore has kept is given up: its band is switched off, or its node has failed (R330, R368). -/
def Die.unhold (d : Die) (dn : DieId) (lid t : Nat) : Die :=
  match d.sched.launch lid with
  | none => d
  | some l =>
    let bs := (l.teamBlks t).filter fun b => !b.res.isEmpty
    if bs.isEmpty then d
    else
      let d := d.giveBack (bs.flatMap (·.res))
      let q := bs.foldl (fun q b => q.modBlk lid b.l fun x => { x with res := [] }) d.sched
      { d with sched := { q with teams := q.teams.filter fun z => !(z.lid == lid && z.t == t) } }.evalClass dn

/-- A team is swapped in: every block read and checked first, then windows, slots and contexts. -/
def swapIn (s : State) (d : DieId) (c : Cand) (p : Place) : State :=
  match (s.die d).sched.launch c.lid with
  | none => s
  | some l =>
    let bs := l.blks.filter fun b => c.blks.contains b.l
    let pairs := bs.zip p.slots
    let got := pairs.foldl (fun (acc : Except State (State × List (Blk × List SlotId × Image × List Image))) x => acc.bind fun (s, l') =>
      match readBlk s d l x.1 x.2 with
      | .error s => .error s
      | .ok (s, i, xs) => .ok (s, l' ++ [(x.1, x.2, i, xs)])) (.ok (s, []))
    let team : Team := ⟨l.id, c.t, p.cluster, l.wide, p.base0, p.base1, s.tick d, false, false, none, []⟩
    match got with
    | .error s => holdPlace s d l c p team
    | .ok (s, gs) =>
      match readWindows d l (teamWindows l team) (s.die d) with
      | .wait _ => s
      | .fault y _ x => match bs with
        | b :: _ => holdPlace (restoreFault (s.modDie d fun _ => y) d l b ((p.slots.getD 0 []).getD 0 0) 29 x) d l c p team
        | [] => s
      | .ok y ws =>
        let s := s.modDie d fun z => { y with sched := z.sched }
        let s := s.modDie d fun y => y.jOpen d 3 0 0 (l.saveAt (c.t * l.teamsz))
        let s := s.modDie d fun y => ws.foldl (fun y w => w.2.foldl (fun y x => y.poke (w.1 + x.1) x.2.1 x.2.2) y) y
        let s := s.modSched d fun q =>
          let q := (q.beginSlice l.cls).newHead l.cls l.pid 1
          { q with teams := team :: q.teams.filter (fun z => !(z.lid == l.id && z.t == c.t)), sq := q.sq.filter (· != (l.id, c.t)), rr := vset q.rr l.cls l.pid }
        let s := gs.foldl (fun s g => putBlk s d l g.1 g.2.1 g.2.2.1 g.2.2.2) s
        s.modDie d fun y => ((y.traceTeam d l p.slots.flatten false).afterGive d).jDoneLast d

/-! ## Leases (R316, R317) -/

/-- A team of the class queue gets its fragments, and its window if it is newly placed. A team of which nothing was resident begins a slice, where it is placed now (R28, R319). -/
def leaseTeam (s : State) (d : DieId) (c : Cand) (p : Place) : State :=
  match (s.die d).sched.launch c.lid with
  | none => s
  | some l =>
    let old := (s.die d).sched.team c.lid c.t
    let here := old.any (s.die d).resident
    let team : Team := ⟨l.id, c.t, p.cluster, l.wide, p.base0, p.base1, s.tick d, false, false, none, []⟩
    let s := s.modSched d fun q =>
      if here then q
      else { (q.beginSlice l.cls) with teams := if old.isNone then team :: q.teams else q.teams.map fun x => if x.lid == c.lid && x.t == c.t then team else x }
    let bs := l.blks.filter fun b => c.blks.contains b.l
    let s := (bs.zip p.slots).foldl (fun s x => s.modDie d fun y => y.leaseBlk l x.1 x.2) s
    let s := s.modSched d fun q => { q with rr := vset q.rr l.cls l.pid }
    s.modDie d fun y => (y.traceTeam d l p.slots.flatten false).afterGive d

def placeTeam (s : State) (d : DieId) (c : Cand) (p : Place) : State := if c.swap then swapIn s d c p else leaseTeam s d c p

/-- Idle halves of the bands that a placement used (R317). -/
def Die.halves (d : Die) (ks : List SlotId) : List SlotId :=
  allSlots.filter fun k => !(d.layOf k).v && ks.any fun j => bandOf j == bandOf k && j != k

/-- Idle halves are filled in the same decision with teams that fit them. -/
def fillHalves (d : DieId) : Nat → List SlotId → State → State
  | 0, _, s => s
  | n + 1, hs, s =>
    if hs.isEmpty then s
    else match (s.die d).nextPlace d (some hs) with
    | some (c, p) =>
      let s' := placeTeam s d c p
      if s'.dies == s.dies then s else fillHalves d n (hs.filter fun k => !p.slots.flatten.contains k) s'
    | none => s

/-- The allocator's decision: the first waiting team that fits, of the class queue or of the swap queue as the step says. -/
def grant (s : State) (d : DieId) (swap : Bool) : State :=
  let y := s.die d
  if !y.schedOn d then s
  else match y.nextPlace d none with
  | some (c, p) =>
    if c.swap != swap then s
    else
      let s := placeTeam s d c p
      fillHalves d 8 ((s.die d).halves p.slots.flatten) s
  | none => s

def execFragmentLeaseGrant (d : DieId) (s : State) : Out := .next (grant s d false)
def execSwapIn (d : DieId) (s : State) : Out := .next (grant s d true)

/-! ## Pick-up (R25, R27) -/

/-- The slot as R25 leaves it; bank, semaphores, queues and counts stay, and an acquire still outstanding goes on to hold the strand's accesses (R114). -/
def Slot.pickUp (t : Slot) (l : Launch) (b i : Nat) (v : RecVal) : Slot :=
  let x := Vector.ofFn fun r : Fin 32 => (⟨if r.val = 1 then v.live0 else if r.val = 2 then v.live1 else 0, none⟩ : SReg)
  { t with
    ctl := { t.ctl with
      act := .running, pc := v.pc, rng := v.rng, opn := none, tent := []
      regs := { x := x, p := Vector.ofFn fun p => p.val == 0 || v.pred.getLsbD (p.val - 1) }
      csr := { Csrs.zero with wsp := l.wsp b i &&& bits 51 6, wlim := l.wlim b i &&& bits 51 6, vflags := v.vflags.setWidth 7 } }
    tiles := .replicate 16 Tile.fresh, ports := .replicate 8 Port.empty, toks := .replicate 8 0, rq := .replicate 4 [], resv := .replicate 4 [] }

/-- Lines kept for the fetches of a slot's strand are forgotten (R125). -/
def Die.dropCode (d : Die) (k : SlotId) : Die :=
  { d with icode := d.icode.filter fun e => !([.slot k, .copy (clusterOf k), .coll] : List TlbId).contains e.1 }

/-- The node for whose visibility a strand waits has failed (R196). -/
def Die.nodeFailed (d : Die) (l : Launch) (v : RecVal) : Bool := v.kind == 2 && (d.sched.latest l.pid v.pnode).any (·.st == .failed)

/-- A strand is picked up on its slot once its wait is met, and takes the acquire of a wait for a semaphore or for visibility (R189, R196); its record is read back from memory (R20), once the write of it that a pin holds has been applied (R103). A Leased block whose strands have all been picked up, or wait under R27, is Running. A strand whose node has failed then takes its fault, at the block it would resume at (DEDUCED, log entry 126). -/
def execPickUp (d : DieId) (k : SlotId) (s : State) : Out :=
  let y := s.die d
  let t := y.slot k
  match t.ctl.own, y.ownLaunch k, y.ownBlk k with
  | some o, some l, some b =>
    if !(t.ctl.act == .idle || t.ctl.act == .suspended) || vget t.stop 0 || t.heldBy 0 || !b.keeps || !y.strandMet d l b o.sidx (some k) || !y.gateOk d || t.ctl.due.isSome
        || (let ls := procLines d y l.asid (l.recAt b.l o.sidx) 64; y.held.any fun h => h.op.lines.any ls.contains) then .next s
    else match procLoad d y l.asid (l.recAt b.l o.sidx) 64 with
    | (none, y) => .next (s.modDie d fun _ => y)
    | (some bs, y) =>
      let v := recOf bs
      let waited := (b.recs[o.sidx]?).any fun r => r.susp.isSome && v.kind != 0
      if waited && !acqFree y d k then .next (s.modDie d fun _ => y)
      else
        let s := s.modDie d fun _ => (y.slotOwner d k l.asid).dropCode k
        let s := s.modSlot d k fun t => t.pickUp l b.l o.sidx v
        let s := s.modSched d fun q => q.modBlk l.id b.l fun x =>
          let x := x.modRec o.sidx fun r => { r with fresh := false, susp := none, on := true }
          { x with st := if x.st == .leased && x.recs.all (fun r => r.on || r.done || r.susp.isSome) then .running else x.st }
        .next (if waited && y.nodeFailed l v then takeFault s d k 0 ⟨11, v.pc, 0, 0, (s.ctl d k).ccnt, 3, 0⟩ else s)
  | _, _, _ => .next s

/-! ## Give-up and retirement (R28, R37, R38, R326, R416) -/

def execFragmentGiveUp (d : DieId) (n : Nat) (s : State) : Out :=
  let p := pairOf n
  match (s.die d).sched.launch p.1 with
  | none => .next s
  | some l =>
    match l.blk p.2 with
    | none => .next s
    | some b =>
      let y := s.die d
      if b.slots.isEmpty || b.keeps || b.recs.all (·.done) || !(b.recs.all (·.susp.isSome)) || b.halted != 0 || (y.sched.team l.id (l.teamOf b.l)).any (·.leaving)
          || !y.blkIdle d b.slots then .next s
      else
        let lay := y.relLay b.slots
        .next (s.modDie d fun y =>
          let y := y.giveBack b.slots
          let q := y.sched.modBlk l.id b.l fun x => { x with slots := [], st := .queued, lay := lay, recs := x.recs.map fun r => { r with on := false } }
          ({ y with sched := { q with cq := q.cq ++ [(l.id, b.l)] } }).afterGive d)

/-- A team none of whose blocks remains leaves the scheduler: its window goes back to the pool. -/
def Die.dropTeam (d : Die) (dn : DieId) (l : Launch) (t : Nat) (ks : List SlotId) : Die :=
  match d.sched.launch l.id with
  | none => d
  | some l =>
    let left := (l.teamRange t).any fun b => match l.blk b with | some b => b.st != .retired || !b.slots.isEmpty | none => l.st == .active
    if left || (d.sched.team l.id t).isNone then d
    else
      let d := { d with sched := { d.sched with teams := d.sched.teams.filter fun x => !(x.lid == l.id && x.t == t) } }
      d.traceTeam dn l ks true

/-- A block is about to retire (R37): every strand done, nothing of it under way. -/
def Die.retires (d : Die) (dn : DieId) (l : Launch) (b : Blk) : Bool :=
  !b.slots.isEmpty && d.blkIdle dn b.slots && b.recs.all (·.done) && !b.earl && b.halted == 0 && !(d.sched.team l.id (l.teamOf b.l)).any (·.leaving)

/-- A block retires; a killed one only gives its fragment back. Its completion is counted, or held while the die's scheduling has no carrier. -/
def execBlockRetire (d : DieId) (n : Nat) (s : State) : Out :=
  let p := pairOf n
  match (s.die d).sched.launch p.1 with
  | none => .next s
  | some l =>
    match l.blk p.2 with
    | none => .next s
    | some b =>
      let y := s.die d
      let t := l.teamOf b.l
      if b.slots.isEmpty || !y.blkIdle d b.slots then .next s
      else if b.halted = 3 then
        .next (s.modDie d fun y =>
          let y := y.giveBack b.slots
          let y := { y with sched := y.sched.modBlk l.id b.l fun x => { x with slots := [], st := .retired } }
          (y.dropTeam d l t b.slots).afterGive d)
      else if !y.retires d l b || !s.pairRoom d 2 then .next s
      else if !y.schedOn d && 1024 ≤ y.sched.cbuf.length then .next s
      else
        let t := s.modDie d fun y =>
          let y := y.giveBack b.slots
          let q := y.sched.modBlk l.id b.l fun x => { x with slots := [], st := .retired }
          let y := { y with sched := if y.schedOn d then q else { q with cbuf := q.cbuf ++ [(l.id, b.l)] } }
          let y := (y.dropTeam d l (l.teamOf b.l) b.slots).afterGive d
          if y.schedOn d then Die.completeNode d y (s.muted d) l.id else y
        .next (s.tellPair t d)

/-! ## Slices and swap-outs (R319, R321, R323, R330) -/

/-- A team begins to leave: its strands stop, its engines are asked to, and the swap is journalled. While the die's scheduling has no carrier it stays, and leaves afterwards (R415). -/
def leaveTeam (s : State) (d : DieId) (lid t : Nat) (barred : Bool) : State :=
  match (s.die d).sched.team lid t, (s.die d).sched.launch lid with
  | some x, some l =>
    if x.leaving || !(s.die d).schedOn d then s.modSched d fun q => q.modTeam lid t fun x => { x with barred := x.barred || barred }
    else
      let s := s.modSched d fun q => q.modTeam lid t fun x => { x with leaving := true, barred := barred }
      let s := s.modDie d fun y => y.jOpen d 3 0 0 (l.saveAt (t * l.teamsz))
      (l.teamSlots t).foldl (fun s k => if vget (s.slot d k).stop 0 then s else s.modSlot d k Slot.askStop) s
  | _, _ => s

/-- Teams by number, of those the predicate admits. -/
def Die.teamsWhere (d : Die) (f : Team → Bool) : List (Nat × Nat) := (d.sched.teams.filter f).map fun t => (t.lid, t.t)
def Die.teamEarly (d : Die) (x : Team) : Bool := (d.sched.launch x.lid).any fun l => (l.teamBlks x.t).any (·.earl)
def Die.teamClass (d : Die) (x : Team) : Nat := match d.sched.launch x.lid with | some l => l.cls.val | none => 0

/-- Teams that make way for a waiting one in time: those that leave, Early ones where it is none, those whose slices end for it (R314, R319). -/
def Die.yielding (d : Die) (c : Cand) : List (Nat × Nat) :=
  d.teamsWhere fun t => t.leaving || (!c.early && d.teamEarly t) || decide (c.cls.val ≤ d.teamClass t)

/-- An Early team makes way at once for a waiting team without `EARLY`, of any class (R314). -/
def Die.makesWay (d : Die) (dn : DieId) (x : Team) : Bool :=
  (d.waiting dn).any fun c => !c.1.early && d.serves dn c.1 ((x.lid, x.t) :: d.yielding c.1) x

/-- At the end of its slice a team leaves for one of equal or higher class that its slots would serve (R319); not where Early teams, which go first for one without `EARLY`, suffice (R314; log entry 128). -/
def Die.outSliced (d : Die) (dn : DieId) (x : Team) : Bool :=
  (d.waiting dn).any fun c =>
    decide (c.1.cls.val ≤ d.teamClass x) && d.serves dn c.1 (d.yielding c.1) x
      && (c.1.early || d.teamEarly x || (d.fit dn c.1 none (d.teamsWhere fun t => t.leaving || d.teamEarly t)).isNone)

/-- A team that has been told to leave while the die's scheduling had no carrier: by a breakpoint, by a `SAVE`, or since its band is switched off (R330, R349, R368, R415). -/
def Die.mustLeave (d : Die) (dn : DieId) (x : Team) : Bool :=
  x.barred || (d.teamSlots x.lid x.t).any fun k => !d.bandOk dn (bandOf k) || (d.slot k).flt.toList.any fun p => p.any fun p => p.kept == some 1

/-- The end of a slice (R319), or an Early team that makes way (R314). -/
def execSliceEnd (d : DieId) (n : Nat) (s : State) : Out :=
  let p := pairOf n
  let y := s.die d
  match y.sched.team p.1 p.2, y.sched.launch p.1 with
  | some x, some l =>
    let ended := decide (y.rf d rQUANT 0 32 ≤ (y.tick d - x.since).toNat)
    if !y.schedOn d || x.leaving || !y.resident x then .next s
    else if y.mustLeave d x then .next (leaveTeam s d x.lid x.t x.barred)
    else if y.teamEarly x && y.makesWay d x then .next (leaveTeam s d x.lid x.t false)
    else if !ended then .next s
    else if y.outSliced d x then .next (leaveTeam s d x.lid x.t false)
    else .next (s.modSched d fun q => (q.beginSlice l.cls).modTeam x.lid x.t fun z => { z with since := y.tick d })
  | _, _ => .next s

/-- Choices of n out of a list, in order. -/
def choose {α : Type} : Nat → List α → List (List α)
  | 0, _ => [[]]
  | _ + 1, [] => []
  | n + 1, a :: r => (choose n r).map (a :: ·) ++ choose (n + 1) r

/-- The placement within `SLOTS` that holds the fewest teams of other classes, for a class-0 team that waits; `used`: slots that others of its class have been given. -/
def Die.class0Clear (d : Die) (dn : DieId) (c : Cand) (used : List SlotId) : Option (List (Nat × Nat)) :=
  match d.sched.launch c.lid with
  | none => none
  | some l =>
    let r := d.getReg dn rC0RES
    let ok (k : SlotId) : Bool := bitAt r k.val && d.bandOk dn (bandOf k) && !used.contains k
    let sets := (d.homes l c.t).flatMap fun cl => (choose c.blks.length (l.spots cl ok)).map fun x => (cl, x.flatten)
    let on (ks : List SlotId) : List (Nat × Nat) := d.teamsWhere fun t => (d.teamSlots t.lid t.t).any ks.contains
    let good := sets.filter fun x =>
      !((on x.2).any fun y => (d.sched.launch y.1).any (·.cls == 0)) && d.ctxRoom l c.blks (on x.2) && (d.bases dn l c.t x.1 (on x.2)).isSome
    match good with
    | [] => none
    | k0 :: ks => some (on (ks.foldl (fun m k => if (on k.2).length < (on m.2).length then k else m) k0).2)

/-- A class-0 team that is ready and finds no placement clears one within `SLOTS` (R323): the first such team for which there is one. -/
def execClass0Preempt (d : DieId) (s : State) : Out :=
  let y := s.die d
  if !bitAt (y.getReg d rC0RES) 63 || !y.schedOn d then .next s
  else match (y.waiting d).findSome? fun c => if c.1.cls == 0 && !c.1.early then y.class0Clear d c.1 c.2 else none with
  | none => .next s
  | some ts => .next (ts.foldl (fun s x => leaveTeam s d x.1 x.2 false) s)

/-- A team's blocks leave their slots for their save areas: positions, faults and refused requests go with them, and the homes that have refused one serve the agents' next strands again (R402). -/
def outBlk (s : State) (d : DieId) (l : Launch) (b : Blk) : State :=
  let y := s.die d
  let flts := (List.range b.slots.length).flatMap fun i => match b.slots[i]? with
    | some k => (List.finRange 8).filterMap fun a => (vget (y.slot k).flt a).map fun p => ((i, a.val, p) : Nat × Nat × PFault)
    | none => []
  let aux := b.slots.map (y.auxOf b.slots)
  let out := b.slots.flatMap y.refusedOut
  let mine (r : Option Run) : Option Run := r.filter fun r => !b.slots.contains r.slot
  let stay (a : Agent) (x : AgentSt) : AgentSt := { x with refused := x.refused.filter fun p => !(out.any fun e => e.2.1 == a && e.2.2.contains p) }
  let s := s.modDie d fun y =>
    let y := { y with cpe := y.cpe.map fun (c : CopyEng) => { c with run := mine c.run } }
    let y := ([.copy 0, .copy 1, .coll] : List Agent).foldl (fun y a => y.modAg a (stay a)) y
    let y := y.giveBack b.slots
    { y with sched := y.sched.modBlk l.id b.l fun x => { x with
      slots := [], st := .swapped, flts := flts ++ x.flts.filter fun (e : Nat × Nat × PFault) => !(flts.any fun (f : Nat × Nat × PFault) => f.1 == e.1 && f.2.1 == e.2.1)
      aux := aux, halted := if x.halted = 0 then 0 else 2 } }
  out.foldl (fun s x => markHomes s d x.2.1 x.2.2) s

/-- Every agent of a slot but the collective engine has acknowledged (R321). -/
def Die.slotDone (d : Die) (k : SlotId) : Bool := (List.finRange 6).all fun a => vget (d.slot k).acked ⟨a.val, by omega⟩

/-- What a team's swap-out saves beside its slots: its contexts and its windows. -/
def Die.lateImages (d : Die) (l : Launch) (x : Team) (bs : List Blk) : List (Nat × Image) :=
  (bs.map fun b => (l.saveAt b.l, d.ctxImage l.id b.l)) ++ (teamWindows l x).map fun w => (w.2, d.windowImage l w.1)

/-- The direct entry that a strand of the blocks named pushed, with its strand. -/
def Die.dirOf (d : Die) (lid : Nat) (bs : List Blk) : Option (Run × Owner) :=
  match d.coe.run, d.coe.own with
  | some r, some o => if o.lid == lid && bs.any (·.l == o.blk) then some (r, o) else none
  | _, _ => none
/-- It is saved at the head of its strand's queue, at the position where it has stopped (R298, R321). -/
def Die.dirImages (d : Die) (l : Launch) (bs : List Blk) : List (Nat × Image) :=
  match d.dirOf l.id bs with
  | some (r, o) => [(l.saveAt o.blk + slotRegion o.sidx, [(0x1000 + 2304 * 5, entryBytes r.ent (some r), false)])]
  | none => []
/-- Where those parts of the save lie. -/
def lateRanges (l : Launch) (x : Team) (bs : List Blk) : List (Nat × Nat) :=
  (bs.map fun b => (l.saveAt b.l + 0x400, 2048)) ++ (bs.flatMap fun b => (List.range b.slots.length).map fun i => (l.saveAt b.l + slotRegion i + 0x1000 + 2304 * 5, 128)) ++
    (teamWindows l x).map fun w => (w.2, l.zw * 65536)

/-- The save of a team, all of it; with where the lines lie that are written once more when the collective engine has stopped. -/
def saveTeam (dn : DieId) (l : Launch) (x : Team) (bs : List Blk) (y : Die) : XRes (List (Nat × Nat)) :=
  match putAll dn l.asid (bs.flatMap (y.saveImages l) ++ y.lateImages l x bs) y with
  | .ok y _ => csLines dn l.asid (lateRanges l x bs) y
  | .wait y => .wait y
  | .fault y c a => .fault y c a

/-- The block of a team in whose save area an address lies, the first for a window's (R375). -/
def Launch.areaBlk (l : Launch) (bs : List Blk) (a : Nat) : Option Blk := (bs.find? fun b => decide (l.saveAt b.l ≤ a) && decide (a < l.saveAt b.l + areaSize l.shape)).or bs.head?

/-- The collective engine has stopped for a team: its contexts stand between steps or are held, its direct entry has done all its words or is held, and its writes are applied (R298, R321). -/
def Die.collStopped (d : Die) (dn : DieId) (l : Launch) (bs : List Blk) : Bool :=
  d.collQuiet dn && (bs.all fun b => (d.ctxsOf l.id b.l).all fun c => c.run.isNone || !c.up || d.ctxHeld c)
    && match d.dirOf l.id bs with
      | some (r, o) => r.part == unchecked || decide (r.code.length ≤ r.pos) || d.ownHeld o r.slot
      | none => true

/-- What strand `i` of a block keeps is changed. -/
def Blk.modAux (b : Blk) (i : Nat) (f : SlotAux → SlotAux) : Blk :=
  { b with aux := (List.range b.aux.length).filterMap fun j => (b.aux[j]?).map fun a => if j = i then f a else a }
/-- Refused requests of a strand's collective work, kept under number `n`. -/
def SlotAux.keepSent (x : SlotAux) (n i : Nat) (ps : List Sent) : SlotAux :=
  if ps.isEmpty then x else { x with refused := (x.refused.filter fun e => e.1 != n) ++ [(n, ps.map fun p => p.moved (fun w => moveWord w (mkSlot i) none) id .coll)] }

/-- What the collective engine has of a block goes to it: contexts, the direct entry, refused requests (R321, R373). -/
def collOut (s : State) (d : DieId) (l : Launch) (b : Blk) : State :=
  let y := s.die d
  let ks := (List.finRange 8).filterMap fun x => ((vget y.coe.ctx x).filter fun k => k.ofBlk l.id b.l).map fun k => (x, k)
  let dir := y.dirOf l.id [b]
  let sent (x : Option Nat) (k : SlotId) : List Sent := y.refusedOf .coll k x
  let out := (ks.flatMap fun x => sent (some x.1.val) x.2.slot) ++ match dir with | some (r, _) => sent none r.slot | none => []
  let gone (key : Nat) : Bool := ks.any (fun x => x.1.val == key % 16) || (dir.isSome && key % 16 == 8)
  let b' (b : Blk) : Blk :=
    let b := { b with ctxs := ks.map (·.2) }
    let b := (List.range ks.length).foldl (fun b n => match ks[n]? with
      | some x => b.modAux x.2.own.sidx fun a => a.keepSent (16 + n) x.2.own.sidx (sent (some x.1.val) x.2.slot)
      | none => b) b
    match dir with
    | some (r, o) => b.modAux o.sidx fun a => ({ a with runs := a.runs ++ [(5, r)] }).keepSent 6 o.sidx (sent none r.slot)
    | none => b
  let s := s.modCoe d fun c => { c with
    ctx := c.ctx.map fun (x : Option KCtx) => x.filter fun k => !k.ofBlk l.id b.l
    run := if dir.isSome then none else c.run
    ag := { c.ag with
      refused := c.ag.refused.filter fun p => !out.contains p, asm := c.ag.asm.filter fun x => !gone x.key
      rd := c.ag.rd.filter fun r => match r.kind with | .part key _ => !gone key | _ => true } }
  markHomes (s.modSched d fun q => q.modBlk l.id b.l b') d .coll out

/-- The pre-emption completes: contexts leave the engine, the windows return to the pools, and the team joins its swap queue. -/
def teamGone (s : State) (d : DieId) (l : Launch) (x : Team) : State :=
  let bs := (l.teamBlks x.t).filter fun b => b.st == .swapped
  let s := stopCtx s d fun k => bs.any fun b => k.ofBlk l.id b.l
  let s := bs.foldl (fun s b => collOut s d l b) s
  let s := s.modSched d fun q =>
    let q := { q with teams := q.teams.filter fun z => !(z.lid == x.lid && z.t == x.t), out := if x.barred then q.out ++ [(x.lid, x.t)] else q.out }
    if bs.isEmpty then q else q.joinSwap l x.t
  s.modDie d fun y => y.jSwapDone d (l.saveAt (x.t * l.teamsz))

/-- The last part of a swap-out, once the collective engine has stopped: contexts, windows and the direct entry are saved as they stand, in the lines that the save has found (R321, R375). -/
def finishOut (s : State) (d : DieId) (l : Launch) (x : Team) : State :=
  let bs := (l.teamBlks x.t).filter fun b => b.st == .swapped
  let y := s.die d
  if !y.collStopped d l bs then s
  else
    let y := (y.lateImages l x bs ++ y.dirImages l bs).foldl (fun y i => i.2.foldl (fun y p => y.csPoke x.saved (i.1 + p.1) p.2.1 p.2.2) y) y
    teamGone (s.modDie d fun _ => y) d l x

/-- Every agent of the slots of a leaving team has acknowledged, and what they wrote is applied: the blocks, their contexts and the window are saved and the slots released. Where the collective engine has stopped too, the pre-emption is complete; else it completes later (R321; log entry 78). A fault on a save store leaves the team in place with a record of code 29 (R375). `k`, `e`: what the save's read of array storage meets first. -/
def execPreemptionComplete (d : DieId) (n : Nat) (k : SlotId) (e : ArrErr) (s : State) : Out :=
  let p := pairOf n
  match (s.die d).sched.team p.1 p.2, (s.die d).sched.launch p.1 with
  | some x, some l =>
    let ks := l.teamSlots x.t
    let bs := (l.teamBlks x.t).filter fun b => !b.slots.isEmpty
    if !(s.die d).schedOn d || !x.leaving then .next s
    else if x.freed.isSome then .next (finishOut s d l x)
    else if !(ks.all (s.die d).slotDone) || ks.any (fun k => (s.slot d k).heldBy 7) then .next s
    else
      let s := if ks.contains k then s.modDie d fun y => y.arrayMeet d k e fun _ => true else s
      let y := s.die d
      match saveTeam d l x bs y with
      | .wait _ => .next s
      | .fault y _ a =>
        match l.areaBlk bs a with
        | some b => .next (collFault (s.modDie d fun _ => y) d (b.slots.getD 0 0) 29 (BitVec.ofNat 64 (l.saveAt b.l)) (BitVec.ofNat 64 a))
        | none => .next s
      | .ok y ls =>
        let s := bs.foldl (fun s b => outBlk s d l b) (s.modDie d fun _ => y)
        let s := s.modSched d fun q => q.modTeam x.lid x.t fun z => { z with freed := some ks, saved := ls }
        let s := s.modDie d fun y => (y.traceTeam d l ks true).afterGive d
        match (s.die d).sched.team p.1 p.2, (s.die d).sched.launch p.1 with
        | some x, some l => .next (finishOut s d l x)
        | _, _ => .next s
  | _, _ => .next s

/-- While a leaving team is saved, the collector's read of a slot's array storage meets an error (R321, R386). -/
def saveError (s : State) (d : DieId) (k : SlotId) (e : ArrErr) : State :=
  match (s.die d).ownLaunch k, (s.slot d k).ctl.own with
  | some l, some o => match (s.die d).sched.team l.id (l.teamOf o.blk) with
    | some x =>
      if x.leaving && x.freed.isNone && (l.teamSlots x.t).all fun j => (s.die d).slotDone j && !(s.slot d j).heldBy 7 then s.modDie d fun y => y.arrayMeet d k e fun _ => true else s
    | none => s
  | _, _ => s

end Sys2Proof.Machine
end

