-- ==== Sys2Proof/Machine/Resp.lean ====
section
/-! DEFINITION. What the driver and the device answer: page walks ahead (R89), `TLBINV` (R92, R406), system calls (R203, R358, R359), responses to fault records (R368), and breakpoints (R349, R350). -/

namespace Sys2Proof.Machine

/-! ## Walks and invalidations (R89, R92) -/

/-- The address space a TLB's next walk is made for. -/
def Die.tlbAsid (d : Die) : TlbId → Option Half
  | .slot k => (d.slot k).ctl.own.map fun _ => d.asidOf k
  | .copy c => (vget d.cpe c).run.map fun r => d.asidOf r.slot
  | .coll => match d.coe.run with
    | some _ => some (d.asidFor .coll)
    | none => (d.coe.ctx.toList.findSome? fun x => x.filter (·.run.isSome)).map fun k => (d.whoOwn .coll k.own).asid

/-- One of the walkers fills a TLB entry, ahead of any access; a walk that fails fills none (R390). Either is a walk (R346). -/
def execPageWalk (d : DieId) (t : TlbId) (va : Word) (wr cached : Bool) (s : State) : Out :=
  let y := s.die d
  match y.tlbAsid t with
  | none => .next s
  | some asid =>
    if (y.tlb t).any (·.covers asid va.toNat) then .next s
    else match walk d y cached wr asid va.toNat with
    | .ok y e => .next (s.modDie d fun _ => (y.countDie d asid 32).modTlb t fun l => (e :: l).take 2048)
    | .wait y => .next (s.modDie d fun _ => y)
    | .fault y _ _ => .next (s.modDie d fun _ => y.countDie d asid 32)

/-- An access as a use of its page. -/
def Piece.use (p : Piece) (a : Agent) (word : Nat) (seq : W32) : TlbUse := .acc a p.pg p.va word seq (match p.loc with | .peer h .. => some h | _ => none)

/-- Accesses of a store-buffer entry. -/
def SbOp.uses (a : Agent) : SbOp → List TlbUse
  | .write ws _ word seq => ws.map fun w => w.p.use a word seq
  | .freeh _ ds word seq => ds.map fun p => p.use a word seq
  | .amo r .. => [r.p.use a r.word r.seq]
  | .fab _ _ _ p word seq => [p.use a word seq]
  | _ => []

/-- Every access of an agent that has not completed at its home. -/
def AgentSt.uses (x : AgentSt) (a : Agent) : List TlbUse :=
  x.sb.flatMap (·.uses a) ++ (x.rd.map fun r => r.p.use a r.word r.seq) ++
  x.pend.flatMap fun p => match p.rd with
    | some r => [r.p.use a p.word p.seq]
    | none => p.op.uses a

/-- Pins of the rows a port holds or reads. -/
def Port.uses (p : Port) (k : SlotId) : List TlbUse :=
  (p.rows ++ (p.part.map (·.2)).toList).flatMap fun f => f.vas.map fun v => .pin k f.id v.2 v.1

/-- Every access and pin of the die with the TLB it was translated through. -/
def Die.tlbUses (d : Die) (dn : DieId) : List (TlbId × TlbUse) :=
  (allAgents.flatMap fun a => ((d.ag a).uses a).map fun u => (tlbOf a, u)) ++
  (d.held.flatMap fun h => if h.src == dn then (h.op.uses h.ag).map fun u => (tlbOf h.ag, u) else []) ++
  (allSlots.flatMap fun k => (d.slot k).ports.toList.flatMap fun p => (p.uses k).map fun u => (TlbId.slot k, u))

/-- Was an address translated through an entry? -/
def TlbUse.through (u : TlbUse) (e : TlbEntry) : Bool :=
  match u with
  | .acc _ pg va .. | .pin _ _ pg va => e.covers pg.asid va

/-- The entries a command names (R92): global ones belong to no address space. -/
def TlbEntry.named (e : TlbEntry) (v : Word) : Bool :=
  let asid : Half := BitVec.ofNat 16 (fld v 40 16)
  match fld v 60 2 with
  | 0 => true
  | 1 => e.asid == asid && !e.g
  | 2 => e.covers asid (fld v 0 36 * 65536)
  | _ => false

/-- Record copies of the pages a command names go (R92, R101): all of them, those read in the address space, or those whose page covers the address or lies in a dropped entry. -/
def Die.dropCopies (d : Die) (dn : DieId) (v : Word) (gone : List TlbEntry) : Die :=
  let asid : Half := BitVec.ofNat 16 (fld v 40 16)
  let hit (r : RecCopy) : Bool := gone.any fun e =>
    fld e.pte 8 3 != 2 && r.home == dn && fld e.pte 12 36 * 4096 ≤ r.pa && r.pa < fld e.pte 12 36 * 4096 + 2 ^ e.bits
  let drop (r : RecCopy) : Bool := match fld v 60 2 with
    | 0 => true
    | 1 => r.pg.asid == asid && !r.pg.g
    | _ => r.pg.covers asid r.va (fld v 0 36 * 65536) || hit r
  { d with slots := d.slots.map fun (t : Slot) => { t with recs := t.recs.filter fun r => !drop r } }

def allTlbs : List TlbId := (allSlots.map fun k => .slot k) ++ [.copy 0, .copy 1, .coll]

/-- A write of `TLBINV` (R92). With `GO` while `BUSY` it is ignored; a reserved scope starts nothing. Entries and walk caches go at once; what used a dropped entry is remembered until it has completed. -/
def tlbinvWrite (s : State) (d : DieId) (v : Word) : State :=
  let y := s.die d
  let busy := bitAt (y.getReg d rTLBINV) 62
  if bitAt v 63 && busy then s
  else
    let y := y.setReg rTLBINV ((v &&& (bits 61 60 ||| bits 55 40 ||| bits 35 0)) ||| (if busy then bits 62 62 else 0))
    if !bitAt v 63 || fld v 60 2 = 3 then s.modDie d fun _ => y
    else
      let gone := allTlbs.map fun t => (t, (y.tlb t).filter (·.named v))
      let used := (y.tlbUses d).filterMap fun u =>
        if gone.any fun g => g.1 == u.1 && g.2.any u.2.through then some u.2 else none
      let y := allTlbs.foldl (fun y t => y.modTlb t fun l => l.filter fun e => !e.named v) y
      let y := y.dropCopies d v (gone.flatMap (·.2))
      s.modDie d fun _ => { y.setRf d rTLBINV 62 1 1 with walkc := [], tlbWait := used.eraseDups, tlbLost := 0 }

def execTlbinvAll (d : DieId) (s : State) : Out := .next (tlbinvWrite s d (bits 63 63))
def execTlbinvAsid (d : DieId) (asid : Half) (s : State) : Out := .next (tlbinvWrite s d (BitVec.ofNat 64 (2 ^ 63 + 2 ^ 60 + 2 ^ 40 * asid.toNat)))
def execTlbinvVpn (d : DieId) (asid : Half) (vpn : BitVec 36) (s : State) : Out :=
  .next (tlbinvWrite s d (BitVec.ofNat 64 (2 ^ 63 + 2 ^ 61 + 2 ^ 40 * asid.toNat + vpn.toNat)))

/-- `BUSY` clears once everything that used a dropped entry has completed. -/
def execTlbinvDone (d : DieId) (s : State) : Out :=
  let y := s.die d
  let now := (y.tlbUses d).map (·.2)
  if !bitAt (y.getReg d rTLBINV) 62 || y.tlbWait.any now.contains then .next s else .next (s.modDie d fun y => y.tlbEnd d)

/-! ## System calls (R203, R358, R359) -/

/-- The 32 bytes of a call record. -/
def callBytes (l : Launch) (o : Owner) (k : SlotId) (arg : Word) (sem : Fin 32) (tick : Word) : List Byte :=
  natLe 8 (2 ^ 48 * l.asid.toNat + 2 ^ 40 * sem.val + 2 ^ 32 * k.val + l.node.toNat) ++ natLe 8 (l.coord o.blk).toNat ++ wordLe 8 arg ++ wordLe 8 tick

/-- The system cores' external interrupt: raised while the call ring or the fault ring holds records that the driver has not passed (R358, R365), and, with `UEIE`, while `MEUEA.V` stands (R397). The system cores that take it are outside the model. -/
def Die.sysInterrupt (d : Die) (dn : DieId) : Bool :=
  d.rf dn rSYSCPTR 0 8 != d.rf dn rSYSCPTR 16 8 || d.rf dn rFLTPTR 0 8 != d.rf dn rFLTPTR 16 8 || (d.rf dn rMEMCTL 0 1 == 1 && bitAt (d.getReg dn rMEUEA) 63)

/-- A post at the head of a control core's store buffer leaves: a release at die scope, into a free index of the ring. A paired partner's is compared and reaches no driver (R353). -/
def execSyscPost (d : DieId) (k : SlotId) (s : State) : Out :=
  let y := s.die d
  match (y.slot k).agCtl.sb, (y.slot k).ctl.own, y.ownLaunch k with
  | .sysc arg sem ps :: _, some o, some l =>
    let i : Byte := BitVec.ofNat 8 (y.rf d rSYSCPTR 0 8)
    let told := (popSb s d (.core k)).pairStores d (.core k) [⟨(30000, sem.val, 0), 0, wordLe 8 arg, 8⟩]
    if !relMet y k 2 ps [] || !s.pairRoom d 1 then .next s
    else if s.muted d then .next told
    else if !y.callRoom d then .next s
    else
      let s := told
      .next (s.modDie d fun y =>
        let y := y.poke ((y.getReg d rSYSCQ &&& bits 47 13).toNat + 32 * i.toNat) (callBytes l o k arg sem (y.tick d)) false
        { y.setRf d rSYSCPTR 0 8 (i.toNat + 1) with calls := y.calls ++ [⟨i, o, k, sem⟩], callUnread := y.callUnread ++ [i] })
  | _, _, _ => .next s

/-- A call is completed: the semaphore of the calling strand rises, in its slot or in its save area (R359). -/
def syscDone (s : State) (d : DieId) (i : Byte) : State :=
  match (s.die d).calls.find? fun c => c.idx == i with
  | none => s
  | some c =>
    let s := s.modDie d fun y => { y with calls := y.calls.filter fun x => x.idx != i }
    match (s.die d).sched.launch c.own.lid with
    | none => s
    | some l =>
      match l.blk c.own.blk with
      | none => s
      | some b =>
        match b.slots[c.own.sidx]? with
        | some k => s.incSem d k c.sem 1
        | none =>
          if b.st != .swapped then s
          else s.modDie d fun y =>
            let a := l.saveAt b.l + slotRegion c.own.sidx + 0x180 + 4 * c.sem.val
            match procLoad d y l.asid a 4 with
            | (some bs, y) => procStore d y l.asid a (natLe 4 (leNat bs + 1))
            | (none, y) => y

/-- No store of a system core is under way. -/
def Die.sysQuiet (d : Die) : Bool := (List.finRange 4).all fun n => d.quiet (.sys n)

/-- The increment is a release: the stores of the driver before its write have been applied (R359). -/
def execSyscdone (d : DieId) (i : Byte) (s : State) : Out := .next (if (s.die d).sysQuiet then syscDone s d i else s)

/-! ## Fault responses (R368) -/

/-- An answered index: free once `HEAD` has passed it (R366, R368). -/
def Die.freeIdx (d : Die) (i : Byte) : Die := { d with ring := d.ring.filter fun e => e.1 != i.toNat }

/-- Faults listed with a block, changed. -/
def State.modFlts (s : State) (d : DieId) (o : RingOwner) (f : List (Nat × Nat × PFault) → List (Nat × Nat × PFault)) : State :=
  s.modSched d fun q => q.modBlk o.lid o.blk fun x => { x with flts := f x.flts }

/-- `CONT` (R368): at the agent, or kept for the swap-in; a record of the collector only goes, so that its save or restore is tried again. A block goes on where a terminal fault had stopped it; one that a replayable fault had stopped while `FLTQ.EN` was 0 goes on unless a terminal one stands beside it (R366). -/
def respCont (s : State) (d : DieId) (i : Byte) (o : RingOwner) (l : Launch) (b : Blk) : State :=
  let s := s.modDie d fun y => y.freeIdx i
  let named (e : Nat × Nat × PFault) : Bool := e.1 == o.sidx && e.2.1 == o.agent && e.2.2.idx == some i
  match b.slots[o.sidx]? with
  | some k =>
    match vget (s.slot d k).flt (agNum o.agent) with
    | some p =>
      if p.idx != some i then s.modFlts d o (·.filter fun e => !named e)
      else
        let s := s.modSlot d k fun t => { t with flt := vset t.flt (agNum o.agent) none }
        if o.agent = 7 then s
        else
          let leaving := ((s.die d).sched.team l.id (l.teamOf b.l)).any (·.leaving)
          let fixed := b.slots.all fun k => (s.slot d k).flt.toList.all fun x => x.all fun x => x.r.rpl
          let s := if p.r.rpl && (b.halted = 0 || leaving || !fixed) then s
            else if leaving then s.modSched d fun q => q.modBlk l.id b.l fun x => { x with halted := 0 }
            else resumeBlk s d l.id b
          contAgent s d k o.agent p.r.code
    | none => s.modFlts d o (·.filter fun e => !named e)
  | none =>
    if o.agent = 7 then s.modFlts d o (·.filter fun e => !named e)
    else
      let s := s.modFlts d o (·.map fun e => if named e then (e.1, e.2.1, { e.2.2 with kept := some 0 }) else e)
      s.modDie d fun y => y.tableSet d l b o.sidx o.agent (tableEntry i (some 0))

/-- `SAVE` (R368): the team leaves, and stays out until a `CONT` of the same record, whose index stays unfree. A record of the save itself names nothing to save (R375). -/
def respSave (s : State) (d : DieId) (i : Byte) (o : RingOwner) (l : Launch) (b : Blk) : State :=
  let named (e : Nat × Nat × PFault) : Bool := e.1 == o.sidx && e.2.1 == o.agent && e.2.2.idx == some i
  if o.agent = 7 then s
  else
    let s := s.modFlts d o (·.map fun e => if named e then (e.1, e.2.1, { e.2.2 with kept := some 1 }) else e)
    match b.slots[o.sidx]? with
    | some k =>
      let s := s.modSlot d k fun t => { t with flt := vmod t.flt (agNum o.agent) fun p => p.map fun p => if p.idx == some i then { p with kept := some 1 } else p }
      leaveTeam s d l.id (l.teamOf b.l) false
    | none => s.modDie d fun y => y.tableSet d l b o.sidx o.agent (tableEntry i (some 1))

/-- Accesses of an agent that are those of a killed block: by the key of a transfer, else by the place that issued them. -/
structure Mine where
  key : Nat → Bool
  word : Nat → Bool

def Mine.all : Mine := ⟨fun _ => true, fun _ => true⟩
def Mine.rd (m : Mine) (r : Rd) : Bool := match r.kind with | .part key _ => m.key key | _ => m.word r.word
/-- A request under way of a killed block: its answer does nothing, and a refusal of it is none (R368). -/
def Mine.end_ (m : Mine) (p : Sent) : Sent :=
  match p.rd with
  | some r => if m.rd r then { p.drop with code := 0 } else p
  | none => if m.word p.word then { p with code := 0 } else p

/-- An agent of a killed block: its reads are forgotten, its refused requests dropped behind a marker; writes already committed go on (R363, R368, R402). -/
def quitAgent (s : State) (d : DieId) (a : Agent) (m : Mine) : State :=
  let s := markHomes s d a ((s.ag d a).refused.filter fun p => m.word p.word)
  s.modAg d a fun x => { x with
    rd := x.rd.filter fun r => !m.rd r
    asm := x.asm.filter fun y => !m.key y.key
    refused := x.refused.filter fun p => !m.word p.word
    pend := x.pend.map m.end_
    sb := x.sb.filter fun o => match o with | .relGate .. | .acqGate | .sysc .. => false | _ => true }

/-- A slot of a killed block: no block, entry, step or fault of it is left. -/
def Slot.quit (t : Slot) : Slot :=
  let t := t.discard
  { t with
    ctl := { t.ctl with act := .stopped, due := none, arvs := [], acq := none, mreq := false, mheld := false, mleft := 0 }
    ports := t.ports.map Port.release, q := .replicate 6 [], lde := none, are := none, ste := none, cpeAt := none, coeAt := none
    flt := .replicate 8 none, stop := .replicate 7 true, acked := .replicate 7 true, w := 0 }

/-- The collective contexts of a killed block, in the engine or saved, and its direct entry stop at once and are discarded; their groups hear of their presence (R368, R411). -/
def killCtxs (s : State) (d : DieId) (l : Launch) (b : Blk) : State :=
  let y := s.die d
  let mine (x : KCtx) : Bool := x.ofBlk l.id b.l
  let direct := (y.dirOf l.id [b]).isSome
  let cs := y.ctxsOf l.id b.l
  let s := (cs ++ b.ctxs).foldl (fun s c => tellGroups s d c false) s
  let at_ (x : Nat) : Bool := if h : x < 8 then (vget y.coe.ctx ⟨x, h⟩).any mine else direct
  let s := if direct || !cs.isEmpty then quitAgent s d .coll ⟨fun key => at_ (key % 16), fun n => at_ ((placeCtx n).getD 8)⟩ else s
  s.modCoe d fun c => { c with
    run := if direct then none else c.run, wait := if direct then none else c.wait
    ctx := c.ctx.map fun (x : Option KCtx) => x.filter fun k => !mine k }

/-- The trap records of a block that is killed where it stands (R367, R370). -/
def killRecord (s : State) (d : DieId) (l : Launch) (b : Blk) : State :=
  match putImage d l.asid (l.saveAt b.l) (trapImage (s.die d) b) (s.die d) with
  | .ok y _ | .fault y _ _ => s.modDie d fun _ => y
  | .wait _ => s

/-- A resident block of a failed node stops, its trap record is written, and it is discarded (R367, R368). -/
def killBlk (s : State) (d : DieId) (l : Launch) (b : Blk) : State :=
  let ks := b.slots
  let mine (r : Option Run) : Bool := r.any fun r => ks.contains r.slot
  let share (r : Option Run) : Mine := ⟨fun _ => mine r, fun n => if n = 0 then mine r else ks.contains (placeSlot n)⟩
  let s := killCtxs (killRecord s d l b) d l b
  let s := ks.foldl (fun s k => ([.core k, .eng k .lde, .eng k .are, .eng k .ste] : List Agent).foldl (fun s a => quitAgent s d a .all) s) s
  let s := ((allSlots.map fun k => Agent.eng k .mxe) ++ [Agent.copy 0, Agent.copy 1]).foldl (fun s a =>
    let r := (s.die d).run a
    let s := quitAgent s d a (share r)
    if mine r then s.modDie d fun y => y.setRun a none else s) s
  let s := s.modDie d fun y => ks.foldl (fun y k => (y.modSlot k Slot.quit).modLay k fun z => { z with buf := [] }) (y.clearKstat ks)
  s.modSched d fun q => q.modBlk l.id b.l fun x => { x with halted := 3, flts := [] }

/-- A node fails: marked and reported, its blocks discarded with their faults; swap-outs of its teams under way are over, and placements kept for them given up. Indices of its records stay until a response names them (R366, R368, R418). -/
def failNode (s : State) (d : DieId) (lid : Nat) : State :=
  let m := s.muted d
  let s := s.tellPair (s.modDie d fun y => Die.failMark d y m lid) d
  match (s.die d).sched.launch lid with
  | none => s
  | some l =>
    let s := s.modDie d fun y =>
      let y := ((y.sched.teams.filter fun t => t.lid == lid && t.leaving).map (·.t)).foldl (fun y t => y.jSwapDone d (l.saveAt (t * l.teamsz))) y
      (((l.blks.filter fun b => !b.res.isEmpty).map fun b => l.teamOf b.l).eraseDups).foldl (fun y t => y.unhold d lid t) y
    let s := l.blks.foldl (fun s b => if b.slots.isEmpty then killCtxs s d l b else killBlk s d l b) s
    let s := s.modSched d fun q => { (q.modLaunch lid fun x => { x with blks := x.blks.map fun (b : Blk) => if b.slots.isEmpty then { b with st := .retired, flts := [], aux := [], ctxs := [] } else b }) with
      cq := q.cq.filter fun x => x.1 != lid, sq := q.sq.filter fun x => x.1 != lid, out := q.out.filter fun x => x.1 != lid
      teams := q.teams.map fun (t : Team) => if t.lid == lid then { t with leaving := false } else t }
    s.modDie d fun y =>
      let ts := (y.sched.teams.filter fun t => t.lid == lid && (y.teamSlots lid t.t).isEmpty).map (·.t)
      ts.foldl (fun y t => y.dropTeam d l t []) y

/-- Nodes still active that name a failed one as a predecessor of either kind. -/
def Sched.fallen (c : Sched) : Option Nat :=
  (c.launches.find? fun l => l.st == .active && l.preds.any fun p => (c.launch p.1).any (·.st == .failed)).map (·.id)

/-- Failure reaches every accepted successor in turn. -/
def failAll (d : DieId) : Nat → State → State
  | 0, s => s
  | n + 1, s => match (s.die d).sched.fallen with | some i => failAll d n (failNode s d i) | none => s

def respKill (s : State) (d : DieId) (l : Launch) : State :=
  let s := failNode s d l.id
  failAll d (s.die d).sched.launches.length s

/-- A write of `FLTRESP` with `GO` = 1; a free or answered index, and action 3, are ignored. `CONT` and `KILL` free the index they name; of a node that has failed already they do nothing else, and `SAVE` does nothing (R366, R368). -/
def fltResp (s : State) (d : DieId) (i : Byte) (act : Nat) : State :=
  match (s.die d).ring.find? fun e => e.1 == i.toNat with
  | none => s
  | some (_, o) =>
    match (s.die d).sched.launch o.lid with
    | none => if act = 0 || act = 2 then s.modDie d fun y => y.freeIdx i else s
    | some l =>
      match l.blk o.blk, l.st == .failed with
      | some b, false =>
        match act with
        | 0 => respCont s d i o l b
        | 1 => respSave s d i o l b
        | 2 => (respKill s d l).modDie d fun y => y.freeIdx i
        | _ => s
      | _, _ => if act = 0 || act = 2 then s.modDie d fun y => y.freeIdx i else s

def execFltrespCont (d : DieId) (i : Byte) (s : State) : Out := .next (fltResp s d i 0)
def execFltrespSave (d : DieId) (i : Byte) (s : State) : Out := .next (fltResp s d i 1)
def execFltrespKill (d : DieId) (i : Byte) (s : State) : Out := .next (fltResp s d i 2)

/-! ## Clocks and breakpoints (R349, R350) -/

/-- The die runs: it is not in reset (R404), and no shutter stop gates its clocks (R350). -/
def Die.alive (d : Die) : Bool := !d.inReset && !d.gated

/-- A block breakpoint that matches the block about to begin (R349). -/
def breakHit (s : State) (d : DieId) (k : SlotId) : Option (Fin 4) :=
  (List.finRange 4).find? fun n =>
    let c := (s.die d).getReg d (rBRKC + 16 * n.val)
    bitAt c 63 && !bitAt c 62 && fld c 60 2 != 3 && (bitAt c 16 || fld c 0 16 == ((s.die d).asidOf k).toNat)
      && (s.die d).getReg d (rBRKV + 16 * n.val) == (s.ctl d k).pc

/-- The driver releases a team that a breakpoint keeps out (R349). -/
def releaseTeam (s : State) (d : DieId) (lid t : Nat) : State :=
  s.modSched d fun q => { (q.modTeam lid t fun x => { x with barred := false }) with out := q.out.filter (· != (lid, t)) }

/-- Every hit writes a trace record and clears `EN`; then the breakpoint's action: `leave` swaps a team out, a shutter stop gates the die, whose scan chains show it as it stands now (R349, R350, R352). -/
def breakAct (s : State) (d : DieId) (n : Fin 4) (lids : List (Nat × Nat)) : State :=
  let c := (s.die d).getReg d (rBRKC + 16 * n.val)
  let s := s.modDie d fun y => trcRecord d (y.setRf d (rBRKC + 16 * n.val) 63 1 0) 5 [BitVec.ofNat 8 n.val]
  match fld c 60 2 with
  | 0 => lids.foldl (fun s x => leaveTeam s d x.1 x.2 true) s
  | 1 => let s := s.modDie d fun y => { y with gated := true }
    { s with shot := vset s.shot d (some (s.die d)) }
  | _ => s

/-- A tick breakpoint at or past its tick fires (R349). -/
def breakTick (s : State) (d : DieId) (n : Fin 4) : State :=
  let y := s.die d
  let c := y.getReg d (rBRKC + 16 * n.val)
  if !bitAt c 63 || !bitAt c 62 || fld c 60 2 = 3 || (y.tick d).ult (y.getReg d (rBRKV + 16 * n.val)) then s
  else
    let hit (t : Team) : Bool := y.resident t && (bitAt c 16 || (y.sched.launch t.lid).any fun l => l.asid.toNat == fld c 0 16)
    breakAct s d n (y.teamsWhere hit)

end Sys2Proof.Machine
end

