-- ==== Sys2Proof/Machine/Power.lean ====
section
/-! DEFINITION. Strings and rails (R53 to R57, R372, R384, R385, R425), grant levels (R331 to R335), band power (R329, R330), margining (R337, R338), refresh of the DRAM layers (R339, R340), scrubbing (R396). -/

namespace Sys2Proof.Machine

/-! ## Balance of a string (R54 to R57, R384, R385, R425) -/

/-- The slots of a band: side L and side R. -/
def bandSlots (b : Fin 4) : SlotId × SlotId := (mkSlot (2 * b.val), mkSlot (2 * b.val + 1))

def Die.bandOn (d : Die) (dn : DieId) (b : Fin 4) : Bool := d.rf dn rASHAPE (8 + b.val) 1 = 1
def Die.modBand (d : Die) (b : Fin 4) (f : Band → Band) : Die := { d with bands := vmod d.bands b f }

/-- What a cycle that issues finds: the imbalance left, and the half into which fog goes. -/
def balance (l r : Nat) : Int × Option Bool :=
  let i : Int := l - r
  if i.natAbs ≤ 20 then (i, none)
  else if l = 0 then (0, some false)
  else if r = 0 then (0, some true)
  else (i, none)

/-- A count of a slot's owner: only while a strand is bound to it (R346). -/
def Die.countOwn (d : Die) (dn : DieId) (k : SlotId) (ev : Nat) : Die := if (d.slot k).ctl.own.isSome then d.countSlot dn k ev 1 else d

/-- One undivided array cycle of a band; a full window waits for its end first. -/
def execBalanceControl (d : DieId) (b : Fin 4) (s : State) : Out :=
  let y := s.die d
  let x := vget y.bands b
  if !y.bandOn d b || x.cyc = 64 then .next s
  else
    let ks := bandSlots b
    let issue := x.phase % x.div = 0
    let im := if issue then balance (y.slot ks.1).w (y.slot ks.2).w else (0, none)
    .next (s.modDie d fun y =>
      let y := if issue then (y.modSlot ks.1 fun t => { t with w := 0 }).modSlot ks.2 fun t => { t with w := 0 } else y
      let y := match im.2 with
        | some right => (y.addReg d (rFOGCNT + 8 * b.val) 1).countOwn d (if right then ks.2 else ks.1) 3
        | none => y
      let y := if x.div = 1 then y else ((y.addReg d (rTHRCNT + 8 * b.val) 1).countOwn d ks.1 4).countOwn d ks.2 4
      y.modBand b fun z =>
        let z := { z with cyc := z.cyc + 1, sum := z.sum + im.1, fog := z.fog || im.2.isSome, phase := (z.phase + 1) % 4, divFor := if z.div = 1 then 0 else z.divFor + 1 }
        if z.div = 1 && 20 < im.1.natAbs then { z with div := 2, divFor := 0, low := 0, phase := 1 } else z)

/-- The end of a window of 64 undivided cycles: `BIMB`, and the divisions that follow from it (R55, R56, R384). DEDUCED (log entry 90): the two low windows that end a division may lie within its 1,024 cycles. -/
def execBimbWindowEnd (d : DieId) (b : Fin 4) (s : State) : Out :=
  let y := s.die d
  let x := vget y.bands b
  if x.cyc ≠ 64 then .next s
  else
    let avg := x.sum.tdiv 64
    let m := avg.natAbs
    let low := if m ≤ 20 then x.low + 1 else 0
    let up := x.div = 2 && 39 ≤ m
    let x' : Band := { x with cyc := 0, sum := 0, fog := false, low := low }
    let x' := if up then { x' with div := 4, low := 0 }
      else if x.div = 4 && 2 ≤ low then { x' with div := 2, divFor := 0, low := 0 }
      else if x.div = 2 && 2 ≤ low && 1024 ≤ x.divFor then { x' with div := 1, low := 0 }
      else x'
    .next (s.modDie d fun y =>
      let v := (avg % (65536 : Int)).toNat + 65536 * boolNat x.fog + 131072 * boolNat (x.div != 1)
      let exc := y.rf d (rBALST + 8 * b.val) 16 16
      let y := y.setReg (rBIMB + 8 * b.val) (BitVec.ofNat 64 v)
      let y := y.setReg (rBALST + 8 * b.val) (BitVec.ofNat 64 (65536 * (if up then min 65535 (exc + 1) else exc) + boolNat (x'.div == 4)))
      y.modBand b fun _ => x')

/-- A timing error that fails `fails` times: up to three replays; at the fourth failure the string is divided and a margined rail goes back to nominal (R372). -/
def execTimingReplay (d : DieId) (b : Fin 4) (fails : Nat) (s : State) : Out :=
  .next (s.modDie d fun y =>
    let y := y.addReg d (rTRPLCNT + 8 * b.val) (BitVec.ofNat 64 (min fails 3))
    if fails < 4 then y
    else (y.modBand b fun z => { z with div := max z.div 2, divFor := 0, low := 0 }).setRf d (rMARG + 8 * b.val) 0 8 0)

/-! ## Grant levels (R331 to R335) -/

/-- The schedule that a level selects (R335). -/
def Die.schedFor (d : Die) (dn : DieId) (lvl : Nat) : Nat := d.rf dn rPSCHED (2 * (lvl % 4)) 2

/-- The level, with the schedule it selects, the count of changes and the trace record of a change. -/
def Die.setLevel (d : Die) (dn : DieId) (lvl : Nat) : Die :=
  if d.rf dn rPGRANT 0 2 = lvl then d
  else
    let d := ((d.setRf dn rPGRANT 0 2 lvl).setRf dn rPGRANT 8 2 (d.schedFor dn lvl)).setRf dn rPGRANT 16 32 (d.rf dn rPGRANT 16 32 + 1)
    trcRecord dn d 2 [BitVec.ofNat 8 (lvl + 4 * d.rf dn rPGRANT 2 1)]

/-- Ticks of a window of the grant controller (R333) and of a margining window (R338). -/
def grantWindow : Nat := 10000
def marginWindow : Nat := 2 ^ 20

/-- The end of a window of 10,000 ticks: the average compute power in watts and the hottest reading in °C are the surroundings' (R333). -/
def execGrantWindowEnd (d : DieId) (watts hottest : Nat) (s : State) : Out :=
  if (s.die d).grantAge < grantWindow then .next s
  else .next (s.modDie d fun y =>
    let y := { y with grantAge := 0 }
    let lvl := y.rf d rPGRANT 0 2
    let share := if y.rf d rPGRANT 4 1 = 1 then 325 else 450
    if 105 ≤ hottest then (y.setRf d rPGRANT 2 1 1).setLevel d (max lvl 2)
    else
      let y := if hottest < 100 then y.setRf d rPGRANT 2 1 0 else y
      if share < watts then y.setLevel d (min 3 (lvl + 1))
      else if watts * 100 < share * 80 && 0 < lvl then y.setLevel d (lvl - 1)
      else y)

/-! ## Band power (R329, R330) -/

/-- `BEN` bit b cleared: every team with a slot of the band leaves, and a placement that a failed restore keeps there is given up (R330, R375). Ignored for a band of class-0 slots. -/
def clearBen (s : State) (d : DieId) (b : Fin 4) : State :=
  let y := s.die d
  let r := y.getReg d rC0RES
  let ks := bandSlots b
  if (bitAt r 63 && (bitAt r ks.1.val || bitAt r ks.2.val)) || y.rf d rASHAPE b.val 1 = 0 then s
  else
    let s := s.modDie d fun y => y.setRf d rASHAPE b.val 1 0
    let ts := (s.die d).sched.teams.filter fun t => ((s.die d).teamSlots t.lid t.t).any fun k => bandOf k == b
    let s := ts.foldl (fun s t => leaveTeam s d t.lid t.t false) s
    let kept := (s.die d).sched.launches.flatMap fun l => (l.blks.filter fun x => x.res.any fun k => bandOf k == b).map fun x => (l.id, l.teamOf x.l)
    s.modDie d fun y => kept.eraseDups.foldl (fun y x => y.unhold d x.1 x.2) y

def setBen (s : State) (d : DieId) (b : Fin 4) : State := s.modDie d fun y => y.setRf d rASHAPE b.val 1 1

def execAshapeClearBen (d : DieId) (b : Fin 4) (s : State) : Out := .next (clearBen s d b)
def execAshapeSetBen (d : DieId) (b : Fin 4) (s : State) : Out := .next (setBen s d b)

/-- A slot whose band has been switched off: nothing of it is left but the counters of its owner and the numbering of its requests. -/
def Slot.dark (t : Slot) : Slot :=
  { Slot.reset with
    ctl := { Ctl.idle with ntag := t.ctl.ntag }
    pmc := t.pmc, pmsel := t.pmsel, pmOwn := t.pmOwn, recOwn := t.recOwn, pnid := t.pnid
    agCtl := { t.agCtl with rd := [], asm := [] }, agLde := { t.agLde with rd := [], asm := [] }, agSte := { t.agSte with rd := [], asm := [] }
    agAre := { t.agAre with rd := [], asm := [] }, agMxe := { t.agMxe with rd := [], asm := [] } }

/-- The switch opens once no slot of the band is leased and every swap-out from it has completed. -/
def execBandPowerOff (d : DieId) (b : Fin 4) (s : State) : Out :=
  let y := s.die d
  let ks := [(bandSlots b).1, (bandSlots b).2]
  if !y.bandOn d b || y.rf d rASHAPE b.val 1 = 1 || ks.any (fun k => (y.layOf k).v || (y.slot k).ctl.own.isSome || y.sched.teams.any fun t => t.freed.any (·.contains k)) then .next s
  else .next (s.modDie d fun y =>
    let y := ks.foldl (fun y k => y.modSlot k Slot.dark) (y.setRf d rASHAPE (8 + b.val) 1 0)
    let y := (y.setReg (rBIMB + 8 * b.val) 0).setRf d (rBALST + 8 * b.val) 0 1 0
    y.modBand b fun x => { Band.reset with ce := x.ce, mw := x.mw, drop := x.drop })

def execBandPowerOn (d : DieId) (b : Fin 4) (s : State) : Out :=
  let y := s.die d
  if y.bandOn d b || y.rf d rASHAPE b.val 1 = 0 then .next s else .next (s.modDie d fun y => y.setRf d rASHAPE (8 + b.val) 1 1)

/-! ## Margining (R337, R338) -/

def Die.margMax (d : Die) (dn : DieId) (b : Fin 4) : Nat := min 40 (d.rf dn (rMARG + 8 * b.val) 8 8)

/-- A margining window begins: no error counted, no tick of it gone. -/
def Band.newWindow (x : Band) : Band := { x with ce := 0, mw := 0 }

/-- The window runs: margining is enabled and not held, and the band is on (R338). -/
def Die.margRuns (d : Die) (dn : DieId) (b : Fin 4) : Bool := d.bandOn dn b && bitAt (d.getReg dn (rMARG + 8 * b.val)) 16 && !bitAt (d.getReg dn (rMARG + 8 * b.val)) 18

/-- The end of a margining window of 2^20 ticks. -/
def execMarginWindowEnd (d : DieId) (b : Fin 4) (s : State) : Out :=
  let y := s.die d
  let r := y.getReg d (rMARG + 8 * b.val)
  let c := (vget y.bands b).ce
  let step := fld r 0 8
  if !y.margRuns d b || (vget y.bands b).mw < marginWindow then .next s
  else
    let new := if c = 0 && step < y.margMax d b then step + 1
      else if fld r 24 8 ≤ c then step - 2
      else step
    .next (s.modDie d fun y => (y.setRf d (rMARG + 8 * b.val) 0 8 new).modBand b Band.newWindow)

/-- Calibration starts again: `HOLD` cleared, `STEP` 0, a new window (R337). -/
def Die.recal (d : Die) (dn : DieId) (b : Fin 4) : Die :=
  ((d.setRf dn (rMARG + 8 * b.val) 18 1 0).setRf dn (rMARG + 8 * b.val) 0 8 0).modBand b Band.newWindow

def execMargRecal (d : DieId) (b : Fin 4) (s : State) : Out := .next (s.modDie d fun y => y.recal d b)

/-- A write of `MARG`: the rail comes to the new limit, and `EN` set begins a window (R338). -/
def Die.margWrite (d : Die) (dn : DieId) (b : Fin 4) (v : Word) : Die :=
  let o := rMARG + 8 * b.val
  let rw := bits 31 24 ||| bits 16 8
  let d := if bitAt v 16 && !bitAt (d.getReg dn o) 16 then d.modBand b Band.newWindow else d
  let d := d.setReg o ((d.getReg dn o &&& ~~~ rw) ||| (v &&& rw))
  let lim := if d.rf dn o 16 1 = 1 then d.margMax dn b else 0
  let d := if lim < d.rf dn o 0 8 then d.setRf dn o 0 8 lim else d
  if bitAt v 19 then d.recal dn b else d

/-! ## The DRAM layers (R339, R340) and scrubbing (R396) -/

/-- The refresh rate after a reading: a boundary is crossed upward at its value, downward 2 °C below it. -/
def rateFor (old : Fin 4) (temp : Nat) : Fin 4 :=
  let up : Nat := if temp < 45 then 0 else if temp < 85 then 1 else if temp < 95 then 2 else 3
  let down : Nat := if temp < 43 then 0 else if temp < 83 then 1 else if temp < 93 then 2 else 3
  ⟨(if old.val < up then up else if down < old.val then down else old.val) % 4, Nat.mod_lt _ (by decide)⟩

/-- The hottest bank, the lowest of equals, and its temperature. -/
def hottestBank (v : Vector Nat 64) : Nat × Nat :=
  (List.finRange 64).foldl (fun m i => if m.2 < vget v i then (i.val, vget v i) else m) (0, vget v 0)

/-- A bank's sensor reads `temp` °C. -/
def execRefreshRateChange (d : DieId) (bank : Fin 64) (temp : Nat) (s : State) : Out :=
  .next (s.modDie d fun y =>
    let y := { y with bankTemp := vset y.bankTemp bank temp, bankRate := vmod y.bankRate bank fun r => rateFor r temp }
    let h := hottestBank y.bankTemp
    y.setReg rDRTEMP (BitVec.ofNat 64 (2 ^ 32 * h.1 + h.2 % 256)))

/-- A row's turn: refreshed, or left out while every line of it is marked free. -/
def execDramRefresh (d : DieId) (row : Nat) (s : State) : Out :=
  let ls := Config.dramRow row
  let skip := !ls.isEmpty && ls.all fun l => setHas (s.die d).free l
  .next (s.modDie d fun y => y.addReg d (if skip then rDRSKIP else rDRREF) 1)

/-- A line is read by the scrubber, which meets `e`; it skips lines marked free, and no others (log entry 102). -/
def execScrub (d : DieId) (line : Nat) (e : StoreErr) (s : State) : Out :=
  let y := s.die d
  if y.rf d rMEMCTL 1 1 = 0 || setHas y.free line || !isMem (128 * line) 128 then .next s
  else .next (s.modDie d fun y => y.meet d (128 * line) e)

end Sys2Proof.Machine
end

