-- ==== Sys2Proof/Machine/Regs.lean ====
section
/-! DEFINITION. The management register block as system cores and the test port reach it (R3, R4 and the register maps): reads, writes with their effects, proof entries (R312), time (R341, R344, R357), trace (R343), the contact sheet (R360, R361), breakpoints on a tick (R349). -/

namespace Sys2Proof.Machine

/-! ## Reads -/

def Die.kickWord (d : Die) (n : Nat) : Word := BitVec.ofNat 64 (bitsNat ((List.range 64).map fun j => vget d.sched.kick ⟨(64 * n + j) % 256, Nat.mod_lt _ (by decide)⟩))

/-- A retiring block waits for a place in the completion buffer (R416). -/
def Die.cbWaits (d : Die) (dn : DieId) : Bool :=
  !d.schedOn dn && decide (1024 ≤ d.sched.cbuf.length) && d.sched.launches.any fun l => l.blks.any fun b => d.retires dn l b
/-- `CBST` (R416). -/
def Die.cbst (d : Die) (dn : DieId) : Word := BitVec.ofNat 64 (2 ^ 32 * d.sched.cbuf.length + boolNat (d.cbWaits dn))

def Die.proofAt (d : Die) (q : Nat) : W32 := spGet (0 : W32) d.proofs (q % 4096)

/-- Offsets whose fields are all write-only: they read zero (R3). -/
def writeOnly (off : Nat) : Bool := off == 0x208 || off == 0x428 || off == 0x708 || off == 0x720 || off == 0x810

/-- Die counters as a system core sees them: of the set that came in last, or the registers where none is live. -/
def Die.pmReg (d : Die) (dn : DieId) (off : Nat) : Word :=
  let i : Fin 32 := ⟨off / 8 % 32, Nat.mod_lt _ (by decide)⟩
  match d.sched.live with
  | e :: _ => if off < rPMD then (vget e.2.2 i).setWidth 64 else vget e.2.1 i
  | [] => d.getReg dn off

/-- Ticks within which a die sends its beats (R113). -/
def beatTicks : Nat := 256

/-- A register's value; none where no register lies. -/
def Die.regVal (d : Die) (dn : DieId) (off : Nat) : Option Word :=
  if off == 0 then some (orient dn)
  else if off == 0x080 then some d.alayout
  else if off == 0x088 then some d.achain
  else if 0x220 ≤ off && off < 0x240 && off % 8 == 0 then some (d.kickWord ((off - 0x220) / 8))
  else if off == 0x990 then some (d.cbst dn)
  else if rPMDSEL ≤ off && off < rPMD + 256 && off % 8 == 0 then some (d.pmReg dn off)
  else if 0x4000 ≤ off && off < 0x8000 && off % 4 == 0 then
    let q := (off - 0x4000) / 4
    some (if off % 8 == 0 then (d.proofAt (q + 1)) ++ (d.proofAt q) else (d.proofAt q).setWidth 64)
  else if writeOnly off then some 0
  else match regDesc dn off with | some _ => some (d.getReg dn off) | none => none

/-- An 8-byte read; an offset at which the spec places no register gives a free value. -/
def regRead (s : State) (d : DieId) (off : Nat) : Word × State :=
  match (s.die d).regVal d off with
  | some v => (v, s)
  | none => (Config.freeReg s.draws, { s with draws := s.draws + 1 })

/-! ## Writes -/

/-- Fields of a register after a write of `v` (R3). -/
def RegDesc.write (r : RegDesc) (old v : Word) : Word := ((old &&& ~~~ r.rw) ||| (v &&& r.rw)) &&& ~~~ (v &&& r.w1c)

/-- The scheduler evaluates inputs when a proof entry is set or its generation changes (R312, R313). -/
def Die.proofWrite (d : Die) (dn : DieId) (q : Nat) (v : W32) : Die :=
  let old := d.proofAt q
  let new := v &&& 0x8000FFFF#32
  let d := { d with proofs := spSet 0 d.proofs (q % 4096) new }
  if (new.getLsbD 31 && !old.getLsbD 31) || new.setWidth 16 != old.setWidth 16 then d.reeval dn else d

def execProofEntryWrite (d : DieId) (q : BitVec 12) (v : W32) (s : State) : Out := .next (s.modDie d fun y => y.proofWrite d q.toNat v)

/-- `HEAD` of a ring of 256 passes the records before it (R359, R366). -/
def pastHead (l : List Byte) (old new : Nat) : List Byte := l.filter fun i => !decide ((i.toNat + 256 - old) % 256 < (new + 256 - old) % 256)

def Die.sysHead (d : Die) (dn : DieId) (v : Word) : Die :=
  let d' := d.setRf dn rSYSCPTR 16 8 (fld v 16 8)
  { d' with callUnread := pastHead d.callUnread (d.rf dn rSYSCPTR 16 8) (fld v 16 8) }
def Die.fltHead (d : Die) (dn : DieId) (v : Word) : Die :=
  let d' := d.setRf dn rFLTPTR 16 8 (fld v 16 8)
  { d' with fltUnread := pastHead d.fltUnread (d.rf dn rFLTPTR 16 8) (fld v 16 8) }

/-- `EN` set in `TRCBASE`: a resync record comes first, and wraps count from here (R343). -/
def Die.traceWrite (d : Die) (dn : DieId) (v : Word) : Die :=
  let old := d.getReg dn rTRCBASE
  let rw := bits 63 63 ||| bits 47 12 ||| bits 5 0
  let d := d.setReg rTRCBASE ((old &&& ~~~ rw) ||| (v &&& rw))
  if bitAt v 63 && !bitAt old 63 then trcMark dn (d.setRf dn rTRCPTR 32 32 0) else d

def execTrcbaseEnable (d : DieId) (v : Word) (s : State) : Out := .next (s.modDie d fun y => y.traceWrite d v)

def Sched.catOf (c : Sched) (pid : Byte) : BitVec 3 := spGet (2 : BitVec 3) c.cat pid.toNat

/-- A process's category, and with 1 its entry mark (R344). -/
def Die.xcat (d : Die) (dn : DieId) (pid : Byte) (cat : BitVec 3) : Die :=
  if cat = 0 || 4 < cat.toNat then d
  else
    let q := { d.sched with cat := spSet 2 d.sched.cat pid.toNat cat }
    { d with sched := if cat = 1 then { q with mark := spSet (0, zero5) q.mark pid.toNat (d.tick dn, q.accOf pid) } else q }

def execXcat (d : DieId) (pid : Byte) (cat : BitVec 3) (s : State) : Out := .next (s.modDie d fun y => y.xcat d pid cat)

/-- The count of all four dies moves, on d0 and while no scheduler is enabled; how long streams have waited does not change (R341, R357, R412). -/
def tickAdj (s : State) (d : DieId) (v : Word) : State :=
  if d != 0 || allDies.any fun e => bitAt ((s.die e).getReg e rPROCBASE) 0 then s
  else allDies.foldl (fun s e => s.modDie e fun y =>
    let y := y.setReg rTICK (y.tick e + v)
    let y := { y with sched := { y.sched with mark := [] }, coe := { y.coe with streams := y.coe.streams.map fun x => (x.1, x.2 + v) } }
    if bitAt (y.getReg e rTRCBASE) 63 then trcMark e y else y) s

def execTickadj (d : DieId) (v : Word) (s : State) : Out := .next (tickAdj s d v)

/-! ## The contact sheet (R360, R361) -/

def actNo : Act → Nat
  | .idle => 0 | .running => 1 | .suspended => 2 | .stopped => 3 | .faulted => 4

/-- A strand's state as the sheet shows it: 4 for every strand of a block that a fault stops (R361, R366, R367). -/
def Die.sheetAct (d : Die) (dn : DieId) (k : SlotId) : Nat :=
  match d.ownBlk k with
  | some b =>
    let cut (k : SlotId) : Bool := (d.slot k).newStop (bitAt (d.getReg dn rFLTQ) 63) || (d.slot k).flt.toList.any fun p => p.any fun p => !p.r.rpl
    if b.halted = 1 || b.halted = 2 || b.slots.any cut then 4 else actNo (d.slot k).ctl.act
  | none => actNo (d.slot k).ctl.act

/-- A slot's 64 bytes. -/
def Die.sheetSlot (d : Die) (dn : DieId) (k : SlotId) : List Byte :=
  let t := d.slot k
  let l := d.ownLaunch k
  let asid := match l with | some l => l.asid.toNat | none => 0
  let node := match l with | some l => l.node.toNat | none => 0
  let code := match (List.finRange 8).findSome? fun a => vget t.flt a with | some p => p.r.code | none => 0
  natLe 8 (asid + 65536 * node + 2 ^ 32 * d.sheetAct dn k) ++ padTo 0 8 (t.q.toList.map fun q => BitVec.ofNat 8 q.length) ++ wordLe 8 t.ctl.mlstat ++
    natLe 8 code ++ natLe 8 (bitsNat (t.sems.toList.map fun v => decide (v ≠ 0))) ++ t.toks.toList ++ zeros 16

/-- The 4 KiB of a sheet. -/
def Die.sheetBytes (d : Die) (dn : DieId) : List Byte :=
  let r (off : Nat) : List Byte := wordLe 8 (d.getReg dn off)
  let ctxs := d.coe.ctx.toList.flatMap fun x => match x with | some k => wordLe 8 (k.stat true) ++ wordLe 8 k.slip | none => zeros 16
  let waiting := (d.sched.launches.flatMap (·.blks)).filter fun b => b.st == .proofWait
  let active := d.sched.launches.filter fun l => l.st == .active
  padTo 0 4096 (wordLe 8 (d.tick dn) ++ natLe 8 ((orient dn).toNat + 2 ^ 32 * d.rf dn rBOOTST 0 16) ++ wordLe 8 d.alayout ++ wordLe 8 d.achain ++ r rASHAPE ++ r rPGRANT ++
    r rBIMB ++ r (rBIMB + 8) ++ r (rBIMB + 16) ++ r (rBIMB + 24) ++ ((List.range 4).flatMap fun n => wordLe 8 (d.kickWord n)) ++ r rSYSCPTR ++ zeros 8 ++
    allSlots.flatMap (d.sheetSlot dn) ++ ctxs ++
    ((List.range 512).map fun i => BitVec.ofNat 8 (bitsNat ((List.range 8).map fun j => (d.proofAt (8 * i + j)).getLsbD 31))) ++
    natLe 4 active.length ++ natLe 4 waiting.length)

/-- `RESYNC`: ignored while `BUSY`; with `GO` the sheet of this tick is taken. -/
def Die.resyncWrite (d : Die) (dn : DieId) (v : Word) : Die :=
  if bitAt (d.getReg dn rRESYNC) 62 then d
  else
    let a := v &&& bits 47 12
    let d := d.setReg rRESYNC a
    if bitAt v 63 then { d.setRf dn rRESYNC 62 1 1 with sheet := some (a.toNat, d.sheetBytes dn) } else d

def execResync (d : DieId) (v : Word) (s : State) : Out := .next (s.modDie d fun y => y.resyncWrite d v)

/-- Every byte of the sheet is applied, and `BUSY` clears. A sheet that does not lie in die memory is written nowhere. -/
def execContactSheetDone (d : DieId) (s : State) : Out :=
  match (s.die d).sheet with
  | none => .next s
  | some (a, bs) => .next (s.modDie d fun y =>
      let y := if isDieMem (a + 4095) then y.pokes a bs false else y
      { y.setRf d rRESYNC 62 1 0 with sheet := none })

/-! ## The dispatch of a write -/

/-- `PAIRCTL`: comparison starts afresh once `EN` has been cleared (R354). -/
def Die.pairWrite (d : Die) (dn : DieId) (v : Word) : Die :=
  let rw := bits 63 63 ||| bits 61 61 ||| bits 1 0
  let d := d.setReg rPAIRCTL ((d.getReg dn rPAIRCTL &&& ~~~ rw) ||| (v &&& rw))
  if bitAt v 63 then d else { d.setRf dn rPAIRCTL 62 1 0 with pair := [] }

/-- `PSCHED`, and the schedule that `PGRANT` reports (R334, R335). -/
def Die.pschedWrite (d : Die) (dn : DieId) (v : Word) : Die :=
  let d := d.setReg rPSCHED (v &&& bits 7 0)
  d.setRf dn rPGRANT 8 2 (d.schedFor dn (d.rf dn rPGRANT 0 2))

def Die.pmWrite (d : Die) (off : Nat) (v : Word) : Die :=
  let i : Fin 32 := ⟨off / 8 % 32, Nat.mod_lt _ (by decide)⟩
  match d.sched.live with
  | e :: r => { d with sched := { d.sched with live := (if off < rPMD then (e.1, e.2.1, vset e.2.2 i (v.setWidth 8)) else (e.1, vset e.2.1 i v, e.2.2)) :: r } }
  | [] => d.setReg off (if off < rPMD then v &&& bits 7 0 else v)

/-- An 8-byte write of a system core, or of the test port, at an offset of the register block. -/
def regWrite (s : State) (d : DieId) (off : Nat) (v : Word) : State :=
  let on (f : Die → Die) : State := s.modDie d f
  if off == rTLBINV then tlbinvWrite s d v
  else if off == 0x208 then s.modSched d fun q => { q with kick := vset q.kick ⟨(v.setWidth 8).toNat, (v.setWidth 8).isLt⟩ true }
  else if off == rASHAPE then (List.finRange 4).foldl (fun s b => if bitAt v b.val then setBen s d b else clearBen s d b) s
  else if rMARG ≤ off && off < rMARG + 32 && off % 8 == 0 then on fun y => y.margWrite d ⟨(off - rMARG) / 8 % 4, Nat.mod_lt _ (by decide)⟩ v
  else if off == 0x708 then tickAdj s d v
  else if off == rTRCBASE then on fun y => y.traceWrite d v
  else if off == 0x428 then on fun y => y.xcat d (BitVec.ofNat 8 (fld v 8 8)) (v.setWidth 3)
  else if off == 0x720 then (if bitAt v 63 then syscDone s d (v.setWidth 8) else s)
  else if off == rRESYNC then on fun y => y.resyncWrite d v
  else if off == 0x810 then (if bitAt v 63 then fltResp s d (v.setWidth 8) (fld v 8 2) else s)
  else if off == rPEERST then (match execPeerstRejoin d (BitVec.ofNat 4 (fld v 8 4)) s with | .next t => t | _ => s)
  else if off == rSYSCPTR then on fun y => y.sysHead d v
  else if off == rFLTPTR then on fun y => y.fltHead d v
  else if off == rPSCHED then on fun y => y.pschedWrite d v
  else if off == rPAIRCTL then on fun y => y.pairWrite d v
  else if rPMDSEL ≤ off && off < rPMD + 256 && off % 8 == 0 then on fun y => y.pmWrite off v
  else if 0x4000 ≤ off && off < 0x8000 && off % 4 == 0 then
    let q := (off - 0x4000) / 4
    on fun y =>
      let y := y.proofWrite d q (v.setWidth 32)
      if off % 8 == 0 then y.proofWrite d (q + 1) (v.extractLsb' 32 32) else y
  else match regDesc d off with
  | some r => on fun y => y.setReg off (r.write (y.getReg d off) v)
  | none => s

/-- A write of `SYSCDONE` waits until the driver's earlier stores have been applied (R359); every other write acts at once. -/
def regWaits (s : State) (d : DieId) (off : Nat) : Bool := off == 0x720 && !(s.die d).sysQuiet

def execRegisterWrite (d : DieId) (off : Nat) (v : Word) (s : State) : Out := .next (if regWaits s d off then s else regWrite s d off v)

/-! ## Time (R341, R344, R346, R349) -/

/-- The exposure accumulators of every process take one tick. -/
def Die.charge (d : Die) : Die :=
  let res (p : Byte) : Bool := d.sched.teams.any fun t => d.resident t && (d.sched.launch t.lid).any (·.pid == p)
  let one (p : Byte) : Vector Word 5 :=
    let c := d.sched.catOf p
    let i : Nat := if c = 3 || c = 4 then c.toNat else if res p then 5 else c.toNat
    vmod (d.sched.accOf p) ⟨(i - 1) % 5, Nat.mod_lt _ (by decide)⟩ (· + 1)
  { d with sched := { d.sched with acc := (List.range 256).foldl (fun m p => spSet zero5 m p (one (BitVec.ofNat 8 p))) d.sched.acc } }

/-- Draws that the counts of one tick on a die may take. -/
def tickDraws : Nat := 2 ^ 18

/-- L1 misses, engine waits, DRAM-cache hits and misses (events 6, 9, 33, 34 of R346): how many fall into a tick is left open, so the counts are free values (log entry 38). -/
def Die.freeCounts (d : Die) (dn : DieId) (n : Nat) : Die :=
  if !bitAt (d.getReg dn rPMBASE) 63 then d
  else
    let slot (d : Die) (k : SlotId) : Die :=
      if (d.slot k).ctl.act = .idle then d
      else (d.countSlot dn k 6 (Config.freeWord (n + 2 * k.val)).toNat).countSlot dn k 9 (Config.freeWord (n + 2 * k.val + 1)).toNat
    let d := allSlots.foldl slot d
    let more (asid : Half) (ev : Byte) (v : Word) : Word :=
      if ev = 33 || ev = 34 then v + Config.freeWord (n + 16 + 2 * asid.toNat + boolNat (ev == 34)) else v
    { d with sched := { d.sched with live := d.sched.live.map fun e =>
      (e.1, Vector.ofFn fun i => more e.1 (vget e.2.2 i) (vget e.2.1 i), e.2.2) } }

/-- `SLOTS` holds, at once, a placement for every class-0 team in flight: one after the other, the largest shapes first (R324). -/
def Die.class0Holds (d : Die) (dn : DieId) : Bool :=
  let r := d.getReg dn rC0RES
  let ls := d.sched.launches.filter fun l => l.st == .active && l.cls == 0
  let teams := ([5, 4, 3, 2, 1, 0] : List (Fin 6)).flatMap fun sh => (ls.filter fun l => l.shape == sh).flatMap fun l =>
    ((List.range ((l.blocks + l.teamsz - 1) / max l.teamsz 1)).map fun t => (l, ((l.teamRange t).filter fun b => !(l.blk b).any fun x => x.st == .retired).length)).filter fun x => x.2 != 0
  let place (used : Option (List SlotId)) (x : Launch × Nat) : Option (List SlotId) := used.bind fun used =>
    ((if x.1.wide then [0] else [0, 1] : List ClusterId).findSome? fun cl =>
      let ps := x.1.spots cl fun k => bitAt r k.val && d.bandOk dn (bandOf k) && !used.contains k
      if ps.length < x.2 then none else some (ps.take x.2).flatten).map (used ++ ·)
  decide (ls.length ≤ 8) && decide (teams.length ≤ 8) && (teams.foldl place (some [])).isSome

/-- A block of a class-0 node that is ready, with its inputs satisfied, has not begun its first CTL block and could: a fragment is its own, or its team is a candidate for a placement (R324). -/
def Die.toBegin (d : Die) (dn : DieId) (l : Launch) (b : Blk) : Bool :=
  l.st == .active && l.cls == 0 && l.ready && d.inputsSat l b.l
    && if b.slots.isEmpty then b.recs.all (·.fresh) && (d.queueCand dn l (l.teamOf b.l)).any (fun c => c.blks.contains b.l)
       else b.slots.all fun k => (d.slot k).ctl.opn.isNone && (d.slot k).ctl.ccnt == 0 && (d.slot k).flt.toList.all (·.isNone)

/-- Ticks within which such a block begins: 50 µs (R324). -/
def class0Bound : Nat := 50000

/-- Since when each block waits to which the bound of R324 applies. -/
def Die.class0Wait (d : Die) (dn : DieId) : Die :=
  let on := d.schedOn dn && bitAt (d.getReg dn rC0RES) 63 && d.getReg dn rPGRAN == 0 && d.class0Holds dn
  let since (l : Launch) (b : Blk) : Option Word := if on && d.toBegin dn l b then some (b.since.getD (d.tick dn)) else none
  { d with sched := { d.sched with launches := d.sched.launches.map fun l => { l with blks := l.blks.map fun b => { b with since := since l b } } } }

/-- One tick of a die that runs: its strands' ticks, its beats, windows and waits, and its tick breakpoints (R113, R324, R333, R338, R346, R349, R355). -/
def runTick (s : State) (d : DieId) : State :=
  let s := s.modDie d fun y =>
    let y := allSlots.foldl (fun y k => if (y.slot k).ctl.act != .idle then y.countOwn d k 10 else y) y
    let y := (y.freeCounts d s.draws).class0Wait d
    { y with
      bootAge := y.bootAge + 1
      beatAge := y.beatAge + 1, grantAge := y.grantAge + 1
      bands := Vector.ofFn fun b => let x := vget y.bands b; if y.margRuns d b then { x with mw := x.mw + 1 } else x }
  let s := { s with draws := s.draws + tickDraws }
  let s := if beatTicks ≤ (s.die d).beatAge then s.beats d else s
  (List.finRange 4).foldl (fun s n => breakTick s d n) s

/-- Ticks for which messages of a stream may stay unacknowledged before it is declared unreachable (R412). -/
def streamLimit : Nat := 2 ^ 26

/-- A window of the die has run its length, a class-0 block has waited its 50 µs, or a stream its 2^26 ticks: what is due comes before time goes on (R5, R324, R333, R338, R412; log entry 96). -/
def Die.windowDue (d : Die) (dn : DieId) : Bool :=
  d.alive && (decide (grantWindow ≤ d.grantAge) || ((List.finRange 4).any fun b => d.margRuns dn b && decide (marginWindow ≤ (vget d.bands b).mw))
    || (d.sched.launches.any fun l => l.blks.any fun b => d.toBegin dn l b && b.since.any fun t => decide (class0Bound ≤ (d.tick dn - t).toNat))
    || d.coe.streams.any fun x => decide (streamLimit ≤ (d.tick dn - x.2).toNat) && !d.coe.unreach.contains x.1)

/-- One reference period: every die's count, and what falls on the tick. -/
def execReferenceTick (s : State) : Out :=
  if allDies.any fun e => (s.die e).windowDue e then .next s
  else
    let s := allDies.foldl (fun s e => s.modDie e fun y =>
      let y := y.setReg rTICK (y.tick e + 1)
      if y.inReset then y else y.charge) s
    .next (allDies.foldl (fun s e => if (s.die e).alive then runTick s e else s) s)

/-- A tick breakpoint armed at or past its tick fires. -/
def execBreakpointTick (d : DieId) (n : Fin 4) (s : State) : Out := .next (breakTick s d n)

end Sys2Proof.Machine
end

