-- ==== Sys2Proof/Machine/Host.lean ====
section
/-! DEFINITION. Reset and boot (R4, R8, R355, R356, R405), the fabric transport's ports (R412, R413), scheduler failure and adoption (R415 to R418), the timeout of a pair (R421), and the test access port (R352). -/

namespace Sys2Proof.Machine

/-! ## Reset and boot -/

/-- Bytes of any kind as memory in canonical form. -/
def cellsOf (l : List (Nat × Byte)) : List Host.Cell := l.foldl (fun m e => memSet m e.1 e.2) []

/-- A die as its reset leaves it (R4): everything at its reset value but memory, which is undefined (R405), and the boot ROM at its first stage (R355, R356). The time and the test port are not part of it (R341, R352). -/
def freshDie (draw : Nat) (tick : Word) (tap : Tap) : Die :=
  { Die.reset with mem := cellsOf (Config.freeMem draw), reg := [(rTICK, tick), (rBOOTST, 1)], tap := tap }

/-- Every die leaves reset, and `TICK` starts at 0. -/
def execPackageResetRelease (s : State) : Out :=
  .next { s with
    dies := Vector.ofFn fun i => freshDie (s.draws + i.val) 0 (vget s.dies i).tap
    east := .replicate 4 [], west := .replicate 4 [], shot := .replicate 4 none, trained := .replicate 4 true, draws := s.draws + 4 }

/-- A die leaves its reset; what was on its way to or from it is gone, but for the notices of that reset (R404). -/
def execDieResetRelease (d : DieId) (s : State) : Out :=
  let y := s.die d
  if !y.inReset then .next s
  else
    let keep (q : List Hop) : List Hop := q.filter fun h => h.dst != d && (h.src != d || h.m == .linkLost)
    .next { s with
      dies := vset s.dies d (freshDie s.draws (y.tick d) y.tap)
      east := s.east.map keep, west := s.west.map keep, shot := vset s.shot d none, draws := s.draws + 1 }

/-- The die is out of reset, in a stage of `BOOTST`. -/
def Die.stage (d : Die) (dn : DieId) (n : Nat) : Bool := !d.inReset && d.rf dn rBOOTST 0 3 == n

/-- The die through whose boot ROM d1 and d3 reach the network, over link 0 or link 2 (R355 step 2). -/
def bridgeOf (d : DieId) : Option DieId := if d == 1 then some 0 else if d == 3 then some 2 else none
/-- A die's boot ROM has its link: a host port of its own, or the package link to a die that has left reset (R355 step 2). -/
def State.bootLink (s : State) (d : DieId) : Bool := match bridgeOf d with | some h => !(s.die h).inReset && vget s.trained h | none => true
/-- Its frames reach the network: the bridging die's host port is trained (R355 step 2, R356). -/
def State.bridged (s : State) (d : DieId) : Bool := s.bootLink d && match bridgeOf d with | some h => decide (2 ≤ (s.die h).rf h rBOOTST 0 3) | none => true

/-- The boot ROM is past its link, or has its address (R355 steps 2 and 3, R356). -/
def bootAddress (s : State) (d : DieId) : State :=
  let y := s.die d
  if y.stage d 1 && s.bootLink d then s.modDie d fun y => y.setRf d rBOOTST 0 3 2
  else if y.stage d 2 && s.bridged d then s.modDie d fun y => y.setRf d rBOOTST 0 3 3
  else s

/-- The boot ROM has fetched an image, which it goes on to check (R355 steps 3 and 4). -/
def bootFetch (s : State) (d : DieId) (img : BootImg) : State :=
  if (s.die d).stage d 3 && s.bridged d then s.modDie d fun y => { y.setRf d rBOOTST 0 3 4 with boot := some img } else s

/-- An image loaded: its bytes in die memory, every system core at its entry address, in machine mode (R355 step 5). -/
def Die.load (d : Die) (dn : DieId) (img : BootImg) : Die :=
  let d := img.bytes.foldl (fun (d : Die) (b : Nat × Byte) => if isDieMem b.1 then d.poke b.1 [b.2] false else d) d
  { d.setRf dn rBOOTST 0 3 5 with boot := none, sysx := d.sysx.map fun (x : Vector Word 66) => vset x 32 img.entry, sysMode := .replicate 4 3 }

/-- The signature check of the image fetched, named with its bytes and what the check finds: a good one is loaded and started; a bad one is discarded, and the fifth halts the die (R355, R356). An image that was not fetched, or a finding that is not the check's, is no event. -/
def execBootImageCheck (d : DieId) (good : Bool) (image : List (Nat × Byte)) (s : State) : Out :=
  match (if (s.die d).stage d 4 then (s.die d).boot.filter (fun img => img.bytes == image && Config.imageGood d img == good) else none) with
  | none => .next s
  | some img => .next (s.modDie d fun y =>
      if good then y.load d img
      else
        let f := y.rf d rBOOTST 8 8 + 1
        let y := { y.setRf d rBOOTST 8 8 f with boot := none, bootAge := 0 }
        if 5 ≤ f then y.setRf d rBOOTST 0 3 7 else y)

/-- Ticks between a bad image and the next fetch: one second (R355, R341). -/
def bootWait : Nat := 10 ^ 9

/-- One second after a bad image the boot ROM retries from its address on. -/
def execBootRetry (d : DieId) (s : State) : Out :=
  let y := s.die d
  if !y.stage d 4 || y.boot.isSome || y.bootAge < bootWait then .next s else .next (s.modDie d fun y => y.setRf d rBOOTST 0 3 2)

/-! ## Fabric ports and streams (R280, R412, R413) -/

/-- The stream's port has no link: the stream moves to the next enabled one, and what is unacknowledged goes out again in order. -/
def execNftPortFailover (d : DieId) (pkg : BitVec 12) (die : DieId) (s : State) : Out :=
  match (s.die d).portOf d pkg die with
  | none => .next s
  | some f =>
    .next (s.modDie d fun y =>
      let y := y.setRf d rNFTST f 1 0
      match y.enabledFrom d (f + 1) with
      | some g => { y with coe := { y.coe with moved := (pkg, die, g) :: y.coe.moved.filter fun m => !(m.1 == pkg && m.2.1 == die) } }
      | none => y)

def execFabricPortLinkUp (d : DieId) (f : Fin 3) (s : State) : Out := .next (s.modDie d fun y => y.setRf d rNFTST f.val 1 1)

def NftOut.toDie (m : NftOut) (pkg : BitVec 12) (die : DieId) : Bool := m.dest == some (pkg, die)

/-- The transport has every message of a stream acknowledged (R280, R412). -/
def streamAcked (s : State) (d : DieId) (pkg : BitVec 12) (die : DieId) : State := s.modCoe d fun c => { c with streams := c.streams.filter fun x => x.1 != (pkg, die) }

/-- A stream whose messages have stayed unacknowledged for 2^26 ticks is declared unreachable: requests in flight on it complete as lost, with `CAUSE` 6, and later ones are refused. -/
def execNftUnreachable (d : DieId) (pkg : BitVec 12) (die : DieId) (s : State) : Out :=
  let y := s.die d
  if y.coe.unreach.contains (pkg, die) || !(y.coe.streams.any fun x => x.1 == (pkg, die) && decide (streamLimit ≤ (y.tick d - x.2).toNat)) then .next s
  else
    let s := s.modDie d fun y =>
      let y := { y with coe := { y.coe with unreach := y.coe.unreach ++ [(pkg, die)], streams := y.coe.streams.filter fun x => x.1 != (pkg, die), out := y.coe.out.filter fun m => !m.toDie pkg die, outR := y.coe.outR.filter fun m => !m.toDie pkg die } }
      y.setReg rNFTST (BitVec.ofNat 64 (2 ^ 52 * pkg.toNat + 2 ^ 50 * die.val + 2 ^ 16 * ((y.rf d rNFTST 16 32 + 1) % 2 ^ 32) + y.rf d rNFTST 0 3))
    let mine (p : Sent) : Bool := match p.op with | .fab q h .. => q == pkg && h == die | _ => false
    .next (([.copy 0, .copy 1, .coll] : List Agent).foldl (fun s a =>
      let lost := (s.ag d a).pend.filter mine
      let s := s.modAg d a fun x => { x with pend := x.pend.filter fun p => !mine p }
      lost.foldl (fun s p => s.refused d a p pkg.toNat die 6 p.idx) s) s)

/-- A message from the stream's die arrives: the stream starts again. -/
def execNftStreamRestart (d : DieId) (pkg : BitVec 12) (die : DieId) (s : State) : Out :=
  .next (s.modCoe d fun c => { c with unreach := c.unreach.filter fun u => u != (pkg, die) })

/-! ## Scheduler failure and adoption (R415 to R418) -/

/-- The scheduler core of die d traps, and a notice of it leaves over link d: what it carried, its own die's scheduling and any it had adopted, has no carrier (R415, R417). -/
def execSchedulerCoreFailure (d : DieId) (s : State) : Out :=
  let y := s.die d
  if bitAt (y.getReg d rSCHST) 63 then .next s
  else
    let carried := allDies.filter fun k => bitAt (y.getReg d rSCHST) (56 + k.val)
    let s := s.modDie d fun y => let y := (y.setRf d rSCHST 63 1 1).setRf d rSCHST 56 4 0
      { y with sched := { y.sched with pass := none } }
    .next ((carried.foldl (fun s k => s.modDie k fun y => y.setRf k rSCHST 62 1 0) s).put d true ⟨d, mkDie (d.val + 1), .schedFail⟩)

/-- Is sequence number `a` before `b`, modulo 2^32? -/
def seqBefore (a b : Nat) : Bool := decide (2 ^ 31 ≤ (a + 2 ^ 32 - b) % 2 ^ 32)

/-- A journal record: its place and its four words. -/
structure JRec where
  i : Nat
  w0 : Nat
  w8 : Nat
  w10 : Nat
  w18 : Nat
  deriving DecidableEq, Repr

def JRec.seq (r : JRec) : Nat := r.w0 / 2 ^ 32

def jInsert (r : JRec) : List JRec → List JRec
  | [] => [r]
  | x :: l => if seqBefore r.seq x.seq then r :: x :: l else x :: jInsert r l

/-- Journal records not marked done, in the order of their sequence numbers. -/
def Die.journalOpen (d : Die) (dn : DieId) : List JRec :=
  let all := (List.range 2048).map fun i => let a := d.jAddr dn i; (⟨i, d.peekNat a 8, d.peekNat (a + 8) 8, d.peekNat (a + 16) 8, d.peekNat (a + 24) 8⟩ : JRec)
  (all.filter fun r => r.w0 % 4 != 0 && r.w0 / 256 % 2 == 0).foldl (fun l r => jInsert r l) []

/-- One journalled operation is finished (R417 step 1). A swap goes on by its own steps. -/
def finishJournal (s : State) (d : DieId) (r : JRec) : State :=
  let y := s.die d
  match r.w0 % 4 with
  | 1 =>
    let pid : Byte := BitVec.ofNat 8 (r.w8 / 2 ^ 32)
    let off := r.w8 % 2 ^ 32
    let p := y.proc d pid
    let s := if p.skip.isSome then s
      else if y.peekNat (p.ring + off + 0xF8) 8 / 256 % 2 = 1 then s.modDie d fun y => y.poke (p.at_ + 0x18) (natLe 4 ((off + 256) % p.rlen)) false
      else acceptAt s d p pid off
    s.modDie d fun y => y.jDone d r.i
  | 2 =>
    let node : Half := BitVec.ofNat 16 r.w8
    match y.sched.launches.reverse.find? fun l => l.node == node && l.st == .complete with
    | some l => s.modDie d fun y => (Die.release d y l.id fun j => r.w10 / 2 ^ j % 2 == 1).jDone d r.i
    | none => s.modDie d fun y => y.jDone d r.i
  | _ => s

/-- The next core carries die d's scheduling once the notice of the failure has reached it, or, where that has failed in turn, the one after it: journal, kicks, held completions and reports, then leases, slices and evaluation again (R415, R417). -/
def execAdoption (d : DieId) (s : State) : Out :=
  let y := s.die d
  let fails (c : DieId) : Bool := bitAt ((s.die c).getReg c rSCHST) 63
  let lives (c : DieId) : Bool := !fails c && (s.die c).alive && !y.isLost d c
  let n1 := mkDie (d.val + 1)
  let n2 := mkDie (d.val + 2)
  let knows (c x : DieId) : Bool := (s.die c).heard.getLsbD x.val
  if !bitAt (y.getReg d rSCHST) 63 || bitAt (y.getReg d rSCHST) 62 then .next s
  else match (if lives n1 then (if knows n1 d then some n1 else none) else if fails n1 && lives n2 && knows n2 n1 then some n2 else none) with
  | none => .next s
  | some c =>
    let s := s.modDie c fun z => z.setRf c rSCHST (56 + d.val) 1 1
    let s := s.modDie d fun y => (y.setRf d rSCHST 62 1 1).setRf d rSCHST 8 2 c.val
    let y := s.die d
    let s := if bitAt (y.getReg d rSJBASE) 63 then (y.journalOpen d).foldl (fun s r => finishJournal s d r) s else s
    let s := if !bitAt (y.getReg d rPROCBASE) 0 || !bitAt (y.getReg d rSJBASE) 63 || s.muted d then s
      else (List.finRange 256).foldl (fun s i =>
        let pid : Byte := BitVec.ofNat 8 i.val
        if ((s.die d).proc d pid).v || vget (s.die d).sched.kick i then
          serveProc (s.modSched d fun q => { q with kick := vset q.kick i false, kickRr := pid }) d pid
        else s) s
    let s := (s.die d).sched.cbuf.foldl (fun s x =>
      let s := s.modSched d fun q => { q with cbuf := q.cbuf.drop 1 }
      let m := s.muted d
      s.tellPair (s.modDie d fun y => Die.completeNode d y m x.1) d) s
    let m := s.muted d
    let s := s.tellPair (s.modDie d fun y => Die.tellFailed d y m) d
    .next (s.modDie d fun y => y.reeval d)

/-! ## A store without its partner (R421) -/

def execPairTimeout (d : DieId) (s : State) : Out :=
  let y := s.die d
  match y.pair.find? fun x => 2 ^ 20 ≤ (y.tick d - x.tick).toNat with
  | none => .next s
  | some x =>
    let f := firstDiff x.pa x.data []
    .next (s.modDie d fun y => if x.prim then y.divergence d x.tick x.ag f.1 f.2.1 0 else y.divergence d (y.tick d) x.ag f.1 0 f.2.1)

/-! ## The test access port (R352) -/

def State.modTap (s : State) (d : DieId) (f : Tap → Tap) : State := s.modDie d fun y => { y with tap := f y.tap }

/-- Bits of a value, bit 0 first. -/
def bitsOf {n : Nat} (v : BitVec n) : List Bool := (List.range n).map v.getLsbD
def byteBits (l : List Byte) : List Bool := l.flatMap bitsOf

/-- Test-Logic-Reset: IDCODE and chain 0 on every die. -/
def Tap.home (t : Tap) : Tap := { t with st := .reset, ir := 1, sh := 1, dr := [], chain := 0 }
def execTapReset (s : State) : Out := .next (allDies.foldl (fun s d => s.modTap d Tap.home) s)

/-- The instruction in force. -/
def tapSelect (d : DieId) (ir : Byte) (s : State) : State := s.modTap d fun t => { t with ir := ir, sh := ir }

/-- Version 1, part number 0x4A20 + d, manufacturer, 1. -/
def idcode (d : DieId) : W32 := BitVec.ofNat 32 (2 ^ 28 + 2 ^ 12 * (0x4A20 + d.val) + 2 * Config.jep106.toNat + 1)

/-- EXTEST is honoured only before boot goes on; otherwise it acts as SAMPLE/PRELOAD. -/
def Die.extest (d : Die) (dn : DieId) : Bool := d.tap.ir == 0 && decide (d.rf dn rBOOTST 0 3 ≤ 1)

/-- What the boundary register drives onto the pins, if anything. -/
def Die.driven (d : Die) (dn : DieId) : Option (List Bool) := if d.extest dn then some d.tap.latch else none

/-- The pins as the boundary register samples them. -/
def pinBits (draw : Nat) : List Bool := (List.range Config.boundaryLength).map fun i => Config.pinSample draw i

/-- The MREG register as captured: the last access's result. -/
def Tap.mreg (t : Tap) : List Bool := bitsOf t.mdata ++ List.replicate 16 false ++ [false, t.mdone]

/-- An image as plain bytes, zero where it holds none. -/
def Image.flat (i : Image) (n : Nat) : List Byte := spRead (0 : Byte) (i.foldl (fun m x => spWrite (0 : Byte) m x.1 x.2.1) []) 0 n

/-- Registers from offset 0 on, 8 bytes each. -/
def readRegs (d : DieId) : Nat → Nat → State → List Byte × State
  | 0, _, s => ([], s)
  | n + 1, off, s =>
    let r := regRead s d off
    let t := readRegs d n (off + 8) r.2
    (wordLe 8 r.1 ++ t.1, t.2)

/-- Registers of a die as it stood at an earlier moment. -/
def shotRegs (s : State) (d : DieId) (y : Die) (n : Nat) : List Byte × State :=
  let r := readRegs d n 0 (s.modDie d fun _ => y)
  (r.1, { s with draws := r.2.draws })

/-- A chain's image: the state at the gated tick, which neither the ticks since nor the test port's writes have changed. -/
def chainImage (s : State) (d : DieId) (c : Nat) : List Byte × State :=
  let y := (vget s.shot d).getD (s.die d)
  if c < 8 then ((y.slotImage (mkSlot c)).flat 0x120000, s)
  else if c = 8 then (y.fragImage allSlots ++ y.coe.ctx.toList.flatMap fun x => match x with | some k => k.image | none => zeros 256, s)
  else if c = 9 then shotRegs s d y 512
  else if c = 10 then ((List.range 4096).flatMap fun q => natLe 4 (y.proofAt q).toNat, s)
  else if c = 11 then (y.scx.toList.flatMap (wordLe 8), s)
  else ((vget y.sysx ⟨c % 4, Nat.mod_lt _ (by decide)⟩).toList.flatMap (wordLe 8), s)

/-- Capture-DR: the data register of the instruction in force. SCAN reaches its chain during a shutter stop; a code that is not listed acts as BYPASS. -/
def tapCapture (d : DieId) (s : State) : State :=
  let y := s.die d
  let t := y.tap
  let load (s : State) (r : List Bool) : State := s.modTap d fun t => { t with dr := r }
  match t.ir with
  | 0x00 | 0x02 => load { s with draws := s.draws + 1 } (pinBits s.draws)
  | 0x01 => load s (bitsOf (idcode d))
  | 0x20 => load s t.mreg
  | 0x22 => load s (bitsOf t.chain)
  | 0x23 =>
    if y.gated && t.chain.toNat < 16 then
      let r := chainImage s d t.chain.toNat
      load r.2 (byteBits r.1)
    else load s [false]
  | _ => load s [false]

/-- Update-DR of MREG: the access shifted in, with a system core's rights; ignored while the last has not completed. -/
def mregAccess (d : DieId) (dr : BitVec 82) (s : State) : State :=
  let off := (dr.extractLsb' 64 16).toNat
  if !(s.die d).tap.mdone then s
  else if dr.getLsbD 80 then regWrite s d off (dr.extractLsb' 0 64)
  else
    let r := regRead s d off
    r.2.modTap d fun t => { t with mdata := r.1 }

/-- Gated clocks run again, and the trace unit writes a resync record (R343, R350, R351). -/
def releaseClocks (d : DieId) (s : State) : State :=
  if !(s.die d).gated then s
  else ({ s with shot := vset s.shot d none }).modDie d fun y => let y := { y with gated := false }; if bitAt (y.getReg d rTRCBASE) 63 then trcMark d y else y

/-- Update-DR: what the register shifted in does. -/
def tapUpdate (d : DieId) (s : State) : State :=
  let t := (s.die d).tap
  match t.ir with
  | 0x00 | 0x02 => s.modTap d fun t => { t with latch := t.dr }
  | 0x20 => mregAccess d (BitVec.ofNat 82 (bitsNat t.dr)) s
  | 0x22 => s.modTap d fun t => { t with chain := BitVec.ofNat 8 (bitsNat t.dr) }
  | _ => s

/-- The table's rows: an instruction selected, its register captured, and its effect. -/
def execTapExtest (d : DieId) (s : State) : Out := .next (tapCapture d (tapSelect d 0x00 s))
def execTapSamplePreload (d : DieId) (s : State) : Out := .next (tapCapture d (tapSelect d 0x02 s))
def execTapIdcode (d : DieId) (s : State) : Out := .next (tapCapture d (tapSelect d 0x01 s))
def execTapMreg (d : DieId) (dr : BitVec 82) (s : State) : Out := .next (mregAccess d dr (tapCapture d (tapSelect d 0x20 s)))
def execTapRelease (d : DieId) (s : State) : Out := .next (releaseClocks d (tapCapture d (tapSelect d 0x21 s)))
def execTapScansel (d : DieId) (sel : Byte) (s : State) : Out :=
  .next ((tapSelect d 0x22 s).modTap d fun t => { t with chain := sel, dr := bitsOf sel })
def execTapScan (d : DieId) (s : State) : Out := .next (tapCapture d (tapSelect d 0x23 s))

/-- The 1-bit bypass, with `tdi` shifted in. -/
def execTapBypass (d : DieId) (tdi : Bool) (s : State) : Out := .next ((tapSelect d 0xFF s).modTap d fun t => { t with dr := [tdi] })

/-! ## The TAP controllers on TCK (IEEE 1149.1, R352) -/

/-- The standard state machine: the next state by TMS. -/
def TapSt.next (t : TapSt) (tms : Bool) : TapSt :=
  match t, tms with
  | .reset, false => .idle | .reset, true => .reset
  | .idle, false => .idle | .idle, true => .selDr
  | .selDr, false => .capDr | .selDr, true => .selIr
  | .capDr, false => .shDr | .capDr, true => .ex1Dr
  | .shDr, false => .shDr | .shDr, true => .ex1Dr
  | .ex1Dr, false => .pauDr | .ex1Dr, true => .updDr
  | .pauDr, false => .pauDr | .pauDr, true => .ex2Dr
  | .ex2Dr, false => .shDr | .ex2Dr, true => .updDr
  | .updDr, false => .idle | .updDr, true => .selDr
  | .selIr, false => .capIr | .selIr, true => .reset
  | .capIr, false => .shIr | .capIr, true => .ex1Ir
  | .shIr, false => .shIr | .shIr, true => .ex1Ir
  | .ex1Ir, false => .pauIr | .ex1Ir, true => .updIr
  | .pauIr, false => .pauIr | .pauIr, true => .ex2Ir
  | .ex2Ir, false => .shIr | .ex2Ir, true => .updIr
  | .updIr, false => .idle | .updIr, true => .selDr

/-- A shift of one bit: what leaves on TDO, and the controller after it. -/
def Tap.shift (t : Tap) (tdi : Bool) : Bool × Tap :=
  match t.st with
  | .shIr => (t.sh.getLsbD 0, { t with sh := (t.sh >>> 1) ||| (if tdi then 0x80 else 0) })
  | .shDr => (t.dr.headD tdi, { t with dr := (t.dr ++ [tdi]).drop 1 })
  | _ => (false, t)

/-- The dies in series: TDI enters d0, and each TDO feeds the next die. -/
def tapShift (tdi : Bool) (s : State) : State :=
  (allDies.foldl (fun (x : Bool × State) d =>
    let r := (x.2.die d).tap.shift x.1
    (r.1, x.2.modTap d fun _ => r.2)) (tdi, s)).2

/-- A controller captures in its capture states, moves, and acts in the state it comes to. -/
def tapMove (tms : Bool) (d : DieId) (s : State) : State :=
  let t := (s.die d).tap
  let s := match t.st with
    | .capIr => s.modTap d fun t => { t with sh := 1 }
    | .capDr => tapCapture d s
    | _ => s
  let n := t.st.next tms
  let s := s.modTap d fun t => { t with st := n }
  match n with
  | .reset => s.modTap d Tap.home
  | .updIr =>
    let s := s.modTap d fun t => { t with ir := t.sh }
    if t.sh = 0x21 then releaseClocks d s else s
  | .updDr => tapUpdate d s
  | _ => s

/-- One period of TCK on the package's pins; TRST_N resets every controller. -/
def tapClock (tms tdi trst : Bool) (s : State) : State :=
  if trst then allDies.foldl (fun s d => s.modTap d Tap.home) s
  else allDies.foldl (fun s d => tapMove tms d s) (tapShift tdi s)

end Sys2Proof.Machine
end

