-- ==== Sys2Proof/Machine/Dispatch.lean ====
section
/-! DEFINITION. The meaning of each instruction of the table, one arm each. -/

namespace Sys2Proof.Machine

/-- One instruction executed. -/
def exec (i : Instr) (s : State) : Host.Outcome State Fault Refusal :=
  match i with
  | .blockHeader h => Sys2Proof.Machine.execBlockHeader h s
  | .switchPointHeader h => Sys2Proof.Machine.execSwitchPointHeader h s
  | .relativeExit x => Sys2Proof.Machine.execRelativeExit x s
  | .jumpExit x => Sys2Proof.Machine.execJumpExit x s
  | .callExit x => Sys2Proof.Machine.execCallExit x s
  | .returnExit x => Sys2Proof.Machine.execReturnExit x s
  | .nop => Sys2Proof.Machine.execNop s
  | .cAddi o => Sys2Proof.Machine.execCAddi o s
  | .cLi o => Sys2Proof.Machine.execCLi o s
  | .cMv o => Sys2Proof.Machine.execCMv o s
  | .cAdd o => Sys2Proof.Machine.execCAdd o s
  | .cSub o => Sys2Proof.Machine.execCSub o s
  | .cAnd o => Sys2Proof.Machine.execCAnd o s
  | .cOr o => Sys2Proof.Machine.execCOr o s
  | .cXor o => Sys2Proof.Machine.execCXor o s
  | .add o => Sys2Proof.Machine.execAdd o s
  | .sub o => Sys2Proof.Machine.execSub o s
  | .and o => Sys2Proof.Machine.execAnd o s
  | .or o => Sys2Proof.Machine.execOr o s
  | .xor o => Sys2Proof.Machine.execXor o s
  | .sll o => Sys2Proof.Machine.execSll o s
  | .srl o => Sys2Proof.Machine.execSrl o s
  | .sra o => Sys2Proof.Machine.execSra o s
  | .ror o => Sys2Proof.Machine.execRor o s
  | .min o => Sys2Proof.Machine.execMin o s
  | .max o => Sys2Proof.Machine.execMax o s
  | .minu o => Sys2Proof.Machine.execMinu o s
  | .maxu o => Sys2Proof.Machine.execMaxu o s
  | .clz o => Sys2Proof.Machine.execClz o s
  | .ctz o => Sys2Proof.Machine.execCtz o s
  | .popc o => Sys2Proof.Machine.execPopc o s
  | .sextw o => Sys2Proof.Machine.execSextw o s
  | .zextw o => Sys2Proof.Machine.execZextw o s
  | .mul o => Sys2Proof.Machine.execMul o s
  | .mulh o => Sys2Proof.Machine.execMulh o s
  | .mulhu o => Sys2Proof.Machine.execMulhu o s
  | .mulhsu o => Sys2Proof.Machine.execMulhsu o s
  | .div o => Sys2Proof.Machine.execDiv o s
  | .divu o => Sys2Proof.Machine.execDivu o s
  | .rem o => Sys2Proof.Machine.execRem o s
  | .remu o => Sys2Proof.Machine.execRemu o s
  | .addi o => Sys2Proof.Machine.execAddi o s
  | .andi o => Sys2Proof.Machine.execAndi o s
  | .ori o => Sys2Proof.Machine.execOri o s
  | .xori o => Sys2Proof.Machine.execXori o s
  | .slli o => Sys2Proof.Machine.execSlli o s
  | .srli o => Sys2Proof.Machine.execSrli o s
  | .srai o => Sys2Proof.Machine.execSrai o s
  | .rori o => Sys2Proof.Machine.execRori o s
  | .lui o => Sys2Proof.Machine.execLui o s
  | .addpc o => Sys2Proof.Machine.execAddpc o s
  | .cmp o => Sys2Proof.Machine.execCmp o s
  | .cmpi o => Sys2Proof.Machine.execCmpi o s
  | .pand o => Sys2Proof.Machine.execPand o s
  | .por o => Sys2Proof.Machine.execPor o s
  | .pxor o => Sys2Proof.Machine.execPxor o s
  | .pandn o => Sys2Proof.Machine.execPandn o s
  | .porn o => Sys2Proof.Machine.execPorn o s
  | .pnot o => Sys2Proof.Machine.execPnot o s
  | .csel o => Sys2Proof.Machine.execCsel o s
  | .ldb o => Sys2Proof.Machine.execLdb o s
  | .ldh o => Sys2Proof.Machine.execLdh o s
  | .ldw o => Sys2Proof.Machine.execLdw o s
  | .ldd o => Sys2Proof.Machine.execLdd o s
  | .ldbu o => Sys2Proof.Machine.execLdbu o s
  | .ldhu o => Sys2Proof.Machine.execLdhu o s
  | .ldwu o => Sys2Proof.Machine.execLdwu o s
  | .stb o => Sys2Proof.Machine.execStb o s
  | .sth o => Sys2Proof.Machine.execSth o s
  | .stw o => Sys2Proof.Machine.execStw o s
  | .std o => Sys2Proof.Machine.execStd o s
  | .amoadd o => Sys2Proof.Machine.execAmoadd o s
  | .amoand o => Sys2Proof.Machine.execAmoand o s
  | .amoor o => Sys2Proof.Machine.execAmoor o s
  | .amoxor o => Sys2Proof.Machine.execAmoxor o s
  | .amomin o => Sys2Proof.Machine.execAmomin o s
  | .amomax o => Sys2Proof.Machine.execAmomax o s
  | .amoswap o => Sys2Proof.Machine.execAmoswap o s
  | .amocas o => Sys2Proof.Machine.execAmocas o s
  | .fenceAcq o => Sys2Proof.Machine.execFenceAcq o s
  | .fenceRel o => Sys2Proof.Machine.execFenceRel o s
  | .fenceFull o => Sys2Proof.Machine.execFenceFull o s
  | .enqLde o => Sys2Proof.Machine.execEnqLde o s
  | .enqAre o => Sys2Proof.Machine.execEnqAre o s
  | .enqSte o => Sys2Proof.Machine.execEnqSte o s
  | .enqMxe o => Sys2Proof.Machine.execEnqMxe o s
  | .enqCpe o => Sys2Proof.Machine.execEnqCpe o s
  | .enqCoe o => Sys2Proof.Machine.execEnqCoe o s
  | .tsig o => Sys2Proof.Machine.execTsig o s
  | .twait o => Sys2Proof.Machine.execTwait o s
  | .semset o => Sys2Proof.Machine.execSemset o s
  | .semadd o => Sys2Proof.Machine.execSemadd o s
  | .semwait o => Sys2Proof.Machine.execSemwait o s
  | .semwaitSusp o => Sys2Proof.Machine.execSemwaitSusp o s
  | .pop o => Sys2Proof.Machine.execPop o s
  | .popNb o => Sys2Proof.Machine.execPopNb o s
  | .mlease o => Sys2Proof.Machine.execMlease o s
  | .mrlse o => Sys2Proof.Machine.execMrlse o s
  | .split o => Sys2Proof.Machine.execSplit o s
  | .fuse o => Sys2Proof.Machine.execFuse o s
  | .chain o => Sys2Proof.Machine.execChain o s
  | .unchain o => Sys2Proof.Machine.execUnchain o s
  | .arv o => Sys2Proof.Machine.execArv o s
  | .wtb o => Sys2Proof.Machine.execWtb o s
  | .publq o => Sys2Proof.Machine.execPublq o s
  | .hint o => Sys2Proof.Machine.execHint o s
  | .wpv o => Sys2Proof.Machine.execWpv o s
  | .wpvSusp o => Sys2Proof.Machine.execWpvSusp o s
  | .susp o => Sys2Proof.Machine.execSusp o s
  | .csrr o => Sys2Proof.Machine.execCsrr o s
  | .csrw o => Sys2Proof.Machine.execCsrw o s
  | .sysc o => Sys2Proof.Machine.execSysc o s
  | .trap o => Sys2Proof.Machine.execTrap o s
  | .eret o => Sys2Proof.Machine.execEret o s
  | .freeh o => Sys2Proof.Machine.execFreeh o s
  | .tick o => Sys2Proof.Machine.execTick o s
  | .rfence o => Sys2Proof.Machine.execRfence o s
  | .ldr o => Sys2Proof.Machine.execLdr o s
  | .ldt o => Sys2Proof.Machine.execLdt o s
  | .ldrec o => Sys2Proof.Machine.execLdrec o s
  | .ldx o => Sys2Proof.Machine.execLdx o s
  | .ldsc o => Sys2Proof.Machine.execLdsc o s
  | .pcfg o => Sys2Proof.Machine.execPcfg o s
  | .pfx o => Sys2Proof.Machine.execPfx o s
  | .ldv o => Sys2Proof.Machine.execLdv o s
  | .str o => Sys2Proof.Machine.execStr o s
  | .stt o => Sys2Proof.Machine.execStt o s
  | .strec o => Sys2Proof.Machine.execStrec o s
  | .stx o => Sys2Proof.Machine.execStx o s
  | .stsc o => Sys2Proof.Machine.execStsc o s
  | .stv o => Sys2Proof.Machine.execStv o s
  | .publ o => Sys2Proof.Machine.execPubl o s
  | .areAdd o => Sys2Proof.Machine.execAreAdd o s
  | .areSub o => Sys2Proof.Machine.execAreSub o s
  | .areMul o => Sys2Proof.Machine.execAreMul o s
  | .fma o => Sys2Proof.Machine.execFma o s
  | .areMin o => Sys2Proof.Machine.execAreMin o s
  | .areMax o => Sys2Proof.Machine.execAreMax o s
  | .abs o => Sys2Proof.Machine.execAbs o s
  | .neg o => Sys2Proof.Machine.execNeg o s
  | .exp2 o => Sys2Proof.Machine.execExp2 o s
  | .log2 o => Sys2Proof.Machine.execLog2 o s
  | .rcp o => Sys2Proof.Machine.execRcp o s
  | .rsq o => Sys2Proof.Machine.execRsq o s
  | .tanh o => Sys2Proof.Machine.execTanh o s
  | .areCmp o => Sys2Proof.Machine.execAreCmp o s
  | .sel o => Sys2Proof.Machine.execSel o s
  | .redSum o => Sys2Proof.Machine.execRedSum o s
  | .redMax o => Sys2Proof.Machine.execRedMax o s
  | .redMin o => Sys2Proof.Machine.execRedMin o s
  | .redSsq o => Sys2Proof.Machine.execRedSsq o s
  | .redAmax o => Sys2Proof.Machine.execRedAmax o s
  | .redqSum o => Sys2Proof.Machine.execRedqSum o s
  | .redqMax o => Sys2Proof.Machine.execRedqMax o s
  | .redqMin o => Sys2Proof.Machine.execRedqMin o s
  | .redqSsq o => Sys2Proof.Machine.execRedqSsq o s
  | .redqAmax o => Sys2Proof.Machine.execRedqAmax o s
  | .bcastRow o => Sys2Proof.Machine.execBcastRow o s
  | .bcastElem o => Sys2Proof.Machine.execBcastElem o s
  | .bcastScal o => Sys2Proof.Machine.execBcastScal o s
  | .iota o => Sys2Proof.Machine.execIota o s
  | .trn o => Sys2Proof.Machine.execTrn o s
  | .shufPerm o => Sys2Proof.Machine.execShufPerm o s
  | .shufRot o => Sys2Proof.Machine.execShufRot o s
  | .shufRev o => Sys2Proof.Machine.execShufRev o s
  | .cvt o => Sys2Proof.Machine.execCvt o s
  | .qnt o => Sys2Proof.Machine.execQnt o s
  | .dqt o => Sys2Proof.Machine.execDqt o s
  | .areAnd o => Sys2Proof.Machine.execAreAnd o s
  | .areOr o => Sys2Proof.Machine.execAreOr o s
  | .areXor o => Sys2Proof.Machine.execAreXor o s
  | .not o => Sys2Proof.Machine.execNot o s
  | .shl o => Sys2Proof.Machine.execShl o s
  | .shr o => Sys2Proof.Machine.execShr o s
  | .areSra o => Sys2Proof.Machine.execAreSra o s
  | .mov o => Sys2Proof.Machine.execMov o s
  | .mldb o => Sys2Proof.Machine.execMldb o s
  | .mcb o => Sys2Proof.Machine.execMcb o s
  | .msemi o => Sys2Proof.Machine.execMsemi o s
  | .mmul o => Sys2Proof.Machine.execMmul o s
  | .mmulm o => Sys2Proof.Machine.execMmulm o s
  | .mzero o => Sys2Proof.Machine.execMzero o s
  | .mdrain o => Sys2Proof.Machine.execMdrain o s
  | .copy o => Sys2Proof.Machine.execCopy o s
  | .copy2d o => Sys2Proof.Machine.execCopy2d o s
  | .fill o => Sys2Proof.Machine.execFill o s
  | .rwrite o => Sys2Proof.Machine.execRwrite o s
  | .mcast o => Sys2Proof.Machine.execMcast o s
  | .ksend o => Sys2Proof.Machine.execKsend o s
  | .krecv o => Sys2Proof.Machine.execKrecv o s
  | .kwid o => Sys2Proof.Machine.execKwid o s
  | .kadd o => Sys2Proof.Machine.execKadd o s
  | .kreq o => Sys2Proof.Machine.execKreq o s
  | .krel o => Sys2Proof.Machine.execKrel o s
  | .kbar o => Sys2Proof.Machine.execKbar o s
  | .kabs o => Sys2Proof.Machine.execKabs o s
  | .kframe o => Sys2Proof.Machine.execKframe o s
  | .blockCommit d k => Sys2Proof.Machine.execBlockCommit d k s
  | .runAheadMispredict d k => Sys2Proof.Machine.execRunAheadMispredict d k s
  | .blockWaitMet d k => Sys2Proof.Machine.execBlockWaitMet d k s
  | .readStep d a e => Sys2Proof.Machine.execReadStep d a e s
  | .drainStep d a e => Sys2Proof.Machine.execDrainStep d a e s
  | .heldWriteApply d n => Sys2Proof.Machine.execHeldWriteApply d n s
  | .linkForward l east => Sys2Proof.Machine.execLinkForward l east s
  | .gateWriteApply h d e => Sys2Proof.Machine.execGateWriteApply h d e s
  | .gateReadPerform h d e => Sys2Proof.Machine.execGateReadPerform h d e s
  | .gateBeat h d => Sys2Proof.Machine.execGateBeat h d s
  | .beat d h => Sys2Proof.Machine.execBeat d h s
  | .reply d h => Sys2Proof.Machine.execReply d h s
  | .publishInvalidation h d => Sys2Proof.Machine.execPublishInvalidation h d s
  | .requestResend d h => Sys2Proof.Machine.execRequestResend d h s
  | .ticketCall h => Sys2Proof.Machine.execTicketCall h s
  | .fabricWriteApply d m => Sys2Proof.Machine.execFabricWriteApply d m s
  | .publishStep d k => Sys2Proof.Machine.execPublishStep d k s
  | .pageWalk d t va wr cached => Sys2Proof.Machine.execPageWalk d t va wr cached s
  | .entryStart d a => Sys2Proof.Machine.execEntryStart d a s
  | .entryComplete d a => Sys2Proof.Machine.execEntryComplete d a s
  | .rowArrival d k => Sys2Proof.Machine.execRowArrival d k s
  | .storeRowRead d k => Sys2Proof.Machine.execStoreRowRead d k s
  | .areRowStep d k e => Sys2Proof.Machine.execAreRowStep d k e s
  | .portRowFetch d k w e => Sys2Proof.Machine.execPortRowFetch d k w e s
  | .matrixPass d k j e => Sys2Proof.Machine.execMatrixPass d k j e s
  | .chainRowSend d k => Sys2Proof.Machine.execChainRowSend d k s
  | .drainEvent d k => Sys2Proof.Machine.execDrainEvent d k s
  | .copyChunk d c e => Sys2Proof.Machine.execCopyChunk d c e s
  | .switchReplicate d => Sys2Proof.Machine.execSwitchReplicate d s
  | .mcastLineArrival d m => Sys2Proof.Machine.execMcastLineArrival d m s
  | .aggregatedAck d c acc ref => Sys2Proof.Machine.execAggregatedAck d c acc ref s
  | .mcastMemberTimeout d c m => Sys2Proof.Machine.execMcastMemberTimeout d c m s
  | .arrivalRecord d k sc => Sys2Proof.Machine.execArrivalRecord d k sc s
  | .popFill d k q => Sys2Proof.Machine.execPopFill d k q s
  | .syscPost d k => Sys2Proof.Machine.execSyscPost d k s
  | .frameEntry d x => Sys2Proof.Machine.execFrameEntry d x s
  | .stepStart d x => Sys2Proof.Machine.execStepStart d x s
  | .stepComplete d x => Sys2Proof.Machine.execStepComplete d x s
  | .slipNotice d grp delay => Sys2Proof.Machine.execSlipNotice d grp delay s
  | .frameQuery d grp n id pkg src => Sys2Proof.Machine.execFrameQuery d grp n id pkg src s
  | .frameGrant d id => Sys2Proof.Machine.execFrameGrant d id s
  | .barrierArrival d grp m gen => Sys2Proof.Machine.execBarrierArrival d grp m gen s
  | .barrierAbsence d grp m => Sys2Proof.Machine.execBarrierAbsence d grp m s
  | .barrierPresence d grp m => Sys2Proof.Machine.execBarrierPresence d grp m s
  | .barrierTimeout d x => Sys2Proof.Machine.execBarrierTimeout d x s
  | .kickPass d => Sys2Proof.Machine.execKickPass d s
  | .fragmentLeaseGrant d => Sys2Proof.Machine.execFragmentLeaseGrant d s
  | .pickUp d k => Sys2Proof.Machine.execPickUp d k s
  | .fragmentGiveUp d b => Sys2Proof.Machine.execFragmentGiveUp d b s
  | .blockRetire d b => Sys2Proof.Machine.execBlockRetire d b s
  | .sliceEnd d t => Sys2Proof.Machine.execSliceEnd d t s
  | .class0Preempt d => Sys2Proof.Machine.execClass0Preempt d s
  | .engineStopAck d a => Sys2Proof.Machine.execEngineStopAck d a s
  | .preemptionComplete d t k e => Sys2Proof.Machine.execPreemptionComplete d t k e s
  | .swapIn d => Sys2Proof.Machine.execSwapIn d s
  | .balanceControl d b => Sys2Proof.Machine.execBalanceControl d b s
  | .bimbWindowEnd d b => Sys2Proof.Machine.execBimbWindowEnd d b s
  | .timingReplay d b fails => Sys2Proof.Machine.execTimingReplay d b fails s
  | .faultPost d => Sys2Proof.Machine.execFaultPost d s
  | .terminalFaultStop d b => Sys2Proof.Machine.execTerminalFaultStop d b s
  | .fltrespCont d n => Sys2Proof.Machine.execFltrespCont d n s
  | .fltrespSave d n => Sys2Proof.Machine.execFltrespSave d n s
  | .fltrespKill d n => Sys2Proof.Machine.execFltrespKill d n s
  | .scrub d line e => Sys2Proof.Machine.execScrub d line e s
  | .pinHoldTimeout d n => Sys2Proof.Machine.execPinHoldTimeout d n s
  | .linkLostNotice h => Sys2Proof.Machine.execLinkLostNotice h s
  | .linkRetrainFail l => Sys2Proof.Machine.execLinkRetrainFail l s
  | .rejoinBeat e h => Sys2Proof.Machine.execRejoinBeat e h s
  | .nftPortFailover d pkg die => Sys2Proof.Machine.execNftPortFailover d pkg die s
  | .nftUnreachable d pkg die => Sys2Proof.Machine.execNftUnreachable d pkg die s
  | .schedulerCoreFailure d => Sys2Proof.Machine.execSchedulerCoreFailure d s
  | .adoption d => Sys2Proof.Machine.execAdoption d s
  | .pairTimeout d => Sys2Proof.Machine.execPairTimeout d s
  | .grantWindowEnd d watts hottest => Sys2Proof.Machine.execGrantWindowEnd d watts hottest s
  | .marginWindowEnd d b => Sys2Proof.Machine.execMarginWindowEnd d b s
  | .refreshRateChange d bank temp => Sys2Proof.Machine.execRefreshRateChange d bank temp s
  | .ashapeClearBen d b => Sys2Proof.Machine.execAshapeClearBen d b s
  | .ashapeSetBen d b => Sys2Proof.Machine.execAshapeSetBen d b s
  | .bandPowerOff d b => Sys2Proof.Machine.execBandPowerOff d b s
  | .bandPowerOn d b => Sys2Proof.Machine.execBandPowerOn d b s
  | .kickset d n => Sys2Proof.Machine.execKickset d n s
  | .tlbinvAll d => Sys2Proof.Machine.execTlbinvAll d s
  | .tlbinvAsid d asid => Sys2Proof.Machine.execTlbinvAsid d asid s
  | .tlbinvVpn d asid vpn => Sys2Proof.Machine.execTlbinvVpn d asid vpn s
  | .tlbinvDone d => Sys2Proof.Machine.execTlbinvDone d s
  | .proofEntryWrite d q v => Sys2Proof.Machine.execProofEntryWrite d q v s
  | .syscdone d n => Sys2Proof.Machine.execSyscdone d n s
  | .resync d v => Sys2Proof.Machine.execResync d v s
  | .contactSheetDone d => Sys2Proof.Machine.execContactSheetDone d s
  | .tickadj d v => Sys2Proof.Machine.execTickadj d v s
  | .xcat d pid cat => Sys2Proof.Machine.execXcat d pid cat s
  | .trcbaseEnable d v => Sys2Proof.Machine.execTrcbaseEnable d v s
  | .margRecal d b => Sys2Proof.Machine.execMargRecal d b s
  | .peerstRejoin d mask => Sys2Proof.Machine.execPeerstRejoin d mask s
  | .registerWrite d off v => Sys2Proof.Machine.execRegisterWrite d off v s
  | .breakpointTick d n => Sys2Proof.Machine.execBreakpointTick d n s
  | .tapReset => Sys2Proof.Machine.execTapReset s
  | .tapExtest d => Sys2Proof.Machine.execTapExtest d s
  | .tapIdcode d => Sys2Proof.Machine.execTapIdcode d s
  | .tapSamplePreload d => Sys2Proof.Machine.execTapSamplePreload d s
  | .tapMreg d dr => Sys2Proof.Machine.execTapMreg d dr s
  | .tapRelease d => Sys2Proof.Machine.execTapRelease d s
  | .tapScansel d sel => Sys2Proof.Machine.execTapScansel d sel s
  | .tapScan d => Sys2Proof.Machine.execTapScan d s
  | .tapBypass d tdi => Sys2Proof.Machine.execTapBypass d tdi s
  | .packageResetRelease => Sys2Proof.Machine.execPackageResetRelease s
  | .bootImageCheck d good image => Sys2Proof.Machine.execBootImageCheck d good image s
  | .bootRetry d => Sys2Proof.Machine.execBootRetry d s
  | .referenceTick => Sys2Proof.Machine.execReferenceTick s
  | .writeAcknowledgement d h fab => Sys2Proof.Machine.execWriteAcknowledgement d h fab s
  | .dieResetRelease d => Sys2Proof.Machine.execDieResetRelease d s
  | .packageLinkTrained l => Sys2Proof.Machine.execPackageLinkTrained l s
  | .nftStreamRestart d pkg die => Sys2Proof.Machine.execNftStreamRestart d pkg die s
  | .fabricPortLinkUp d f => Sys2Proof.Machine.execFabricPortLinkUp d f s
  | .dramRefresh d row => Sys2Proof.Machine.execDramRefresh d row s

end Sys2Proof.Machine
end

