-- ==== Sys2Proof/Machine/Fetch.lean ====
section
/-! DEFINITION. What a step of the agenda runs: the next word of a control core (R125, R130, R132, R136), of an engine or of a collective context (R134), a machine event, or an access of a system core (R107). -/

namespace Sys2Proof.Machine

/-- What a pick comes to: an instruction to execute, or a step that is done. -/
inductive Todo where
  | run (i : Instr) (s : State)
  | done (s : State)

/-- Rows of the table that are words of a stream, not events. -/
def isWord (i : Instr) : Bool := (encode i).isSome

/-- Events that do not run on the clocks of the die they name: its reset, clocks, test port, links and retention (R8, R341, R350, R352, R355). -/
def unclocked : Instr → Bool
  | .tapReset | .tapExtest _ | .tapIdcode _ | .tapSamplePreload _ | .tapMreg _ _ | .tapRelease _ | .tapScansel _ _ | .tapScan _ | .tapBypass _ _
  | .packageResetRelease | .dieResetRelease _ | .referenceTick | .linkForward _ _ | .packageLinkTrained _ | .dramRefresh _ _
  | .linkRetrainFail _ => true
  | _ => false

/-- Writes of the driver, which runs on the system cores once the die has booted (R355, R356). -/
def driverEvent : Instr → Bool
  | .kickset _ _ | .tlbinvAll _ | .tlbinvAsid _ _ | .tlbinvVpn _ _ _ | .proofEntryWrite _ _ _ | .syscdone _ _ | .resync _ _ | .tickadj _ _ | .xcat _ _ _
  | .trcbaseEnable _ _ | .margRecal _ _ | .peerstRejoin _ _ | .registerWrite _ _ _ | .fltrespCont _ _ | .fltrespSave _ _ | .fltrespKill _ _
  | .ashapeClearBen _ _ | .ashapeSetBen _ _ => true
  | _ => false

/-- The die on which an event takes place. -/
def eventDie : Instr → DieId
  | .blockCommit d _ | .runAheadMispredict d _ | .blockWaitMet d _ | .readStep d _ _ | .drainStep d _ _ | .heldWriteApply d _
  | .gateWriteApply d _ _ | .gateReadPerform d _ _ | .gateBeat d _ | .beat d _ | .reply d _ | .publishInvalidation d _ | .requestResend d _
  | .ticketCall d | .fabricWriteApply d _ | .publishStep d _ | .pageWalk d _ _ _ _ | .entryStart d _ | .entryComplete d _
  | .rowArrival d _ | .storeRowRead d _ | .areRowStep d _ _ | .portRowFetch d _ _ _ | .matrixPass d _ _ _ | .chainRowSend d _
  | .drainEvent d _ | .copyChunk d _ _ | .switchReplicate d | .mcastLineArrival d _ | .aggregatedAck d _ _ _ | .mcastMemberTimeout d _ _
  | .arrivalRecord d _ _ | .popFill d _ _ | .syscPost d _ | .frameEntry d _ | .stepStart d _ | .stepComplete d _ | .slipNotice d _ _
  | .frameQuery d _ _ _ _ _ | .frameGrant d _ | .barrierArrival d _ _ _ | .barrierAbsence d _ _ | .barrierPresence d _ _ | .barrierTimeout d _
  | .kickPass d | .fragmentLeaseGrant d | .pickUp d _ | .fragmentGiveUp d _ | .blockRetire d _ | .sliceEnd d _ | .class0Preempt d
  | .engineStopAck d _ | .preemptionComplete d _ _ _ | .swapIn d | .balanceControl d _ | .bimbWindowEnd d _ | .timingReplay d _ _ | .faultPost d
  | .terminalFaultStop d _ | .fltrespCont d _ | .fltrespSave d _ | .fltrespKill d _ | .scrub d _ _ | .pinHoldTimeout d _ | .linkLostNotice d
  | .rejoinBeat d _ | .nftPortFailover d _ _ | .nftUnreachable d _ _ | .schedulerCoreFailure d | .adoption d | .pairTimeout d
  | .grantWindowEnd d _ _ | .marginWindowEnd d _ | .refreshRateChange d _ _ | .ashapeClearBen d _ | .ashapeSetBen d _ | .bandPowerOff d _
  | .bandPowerOn d _ | .kickset d _ | .tlbinvAll d | .tlbinvAsid d _ | .tlbinvVpn d _ _ | .tlbinvDone d | .proofEntryWrite d _ _ | .syscdone d _
  | .resync d _ | .contactSheetDone d | .tickadj d _ | .xcat d _ _ | .trcbaseEnable d _ | .margRecal d _ | .peerstRejoin d _
  | .registerWrite d _ _ | .breakpointTick d _ | .writeAcknowledgement d _ _ | .nftStreamRestart d _ _ | .fabricPortLinkUp d _
  | .bootImageCheck d _ _ | .bootRetry d => d
  | _ => 0

/-- A word of the control stream at an address: 32 bits or 16, by its first halfword (R126). -/
def ctlWord (dn : DieId) (d : Die) (w : Who) (va : Nat) : XRes (Half × Half) :=
  match codeHalves dn d w va 1 with
  | .fault d c x => .fault d c x
  | .wait d => .wait d
  | .ok d hs =>
    let h := listGet 0 hs 0
    if isWide h then
      match codeHalves dn d w (va + 2) 1 with
      | .fault d c x => .fault d c x
      | .wait d => .wait d
      | .ok d h2 => .ok d (h, listGet 0 h2 0)
    else .ok d (h, 0)

/-- The instruction a body word stands for. -/
def bodyInstr (p : Half × Half) : Option Instr := instr? (if isWide p.1 then decodeCtl32 (p.2 ++ p.1) else decodeCtl16 p.1)

/-- May a control core take a step? Its strand runs, it is not held by a fault, and no stop has been asked of it (R320). -/
def coreRuns (s : State) (d : DieId) (k : SlotId) : Bool :=
  let t := s.slot d k
  (s.die d).alive && t.ctl.act == .running && !t.heldBy 0 && !vget t.stop 0

/-- A word at or before a position fails a static check: what the body reaches of them in turn (R149; log entry 26). -/
def Open.badBy (o : Open) (pos : Nat) : Bool := match o.bad with | some b => decide (b ≤ pos) | none => false

/-- The fault a strand owes at a block boundary: of a committed block (R188), or of the first of its requests that were not performed: refused, or stopped by poison or a bus error (R85, R394, R402). -/
def dueFault (s : State) (d : DieId) (k : SlotId) : Option FaultAt :=
  match (s.ctl d k).due with
  | some f => some f
  | none =>
    let x := (s.slot d k).agCtl
    match x.refused with
    | [] => none
    | p :: r =>
      let before (a b : Sent) : Bool := decide ((a.seq - b.seq).msb) || a.seq == b.seq && decide (a.key < b.key)
      some (r.foldl (fun m q => if before q m then q else m) p).fault

/-- The step of a control core. -/
def coreNext (s : State) (d : DieId) (k : SlotId) : Todo :=
  let s := { s with cur := ⟨d, .core k, 8⟩ }
  let c := s.ctl d k
  match (if c.opn.isNone && (s.die d).alive && !(s.slot d k).heldBy 0 && c.act != .idle && c.act != .faulted then dueFault s d k else none) with
  | some f => .done (takeFault (s.modCtl d k fun c => { c with due := none }) d k 0 f)
  | none =>
  if !coreRuns s d k then .done s
  else
    let w := (s.die d).who (.core k) k
    match c.opn with
    | none =>
        match breakHit s d k with
        | some n => .done (breakAct s d n (match c.own, (s.die d).ownLaunch k with | some o, some l => [(o.lid, l.teamOf o.blk)] | _, _ => []))
        | none =>
          if c.pc.toNat % 2 = 1 then .done (headerFault s d k 1 0)
          else match ctlWord d (s.die d) w c.pc.toNat with
          | .fault y code x => .done (headerFault (s.modDie d fun _ => y) d k code (BitVec.ofNat 64 x))
          | .wait y => .done (s.modDie d fun _ => y)
          | .ok y p =>
            let s := s.modDie d fun _ => y
            match decodeHeader true (p.2 ++ p.1) with
            | .ok i => .run i s
            | .error _ => .done (headerFault s d k 1 0)
    | some o =>
      match o.phase with
      | .body =>
        if o.badBy o.pos then .done (badFault s d k o (o.bad.getD 0))
        else
          match ctlWord d (s.die d) w o.here.toNat with
          | .fault y code x => .done (blockFault (s.modDie d fun _ => y) d k o code o.here (BitVec.ofNat 64 x) 0)
          | .wait y => .done (s.modDie d fun _ => y)
          | .ok y p =>
            let s := s.modDie d fun _ => y
            match bodyInstr p with
            | some i => .run i s
            | none => .done (badFault s d k o o.pos)
      | .exits n =>
        let pos := 2 + o.len + 2 * n
        if o.badBy pos then .done (badFault s d k o (o.bad.getD 0))
        else
          match ctlWord d (s.die d) w (o.at_ pos).toNat with
          | .fault y code x => .done (blockFault (s.modDie d fun _ => y) d k o code (o.at_ pos) (BitVec.ofNat 64 x) 0)
          | .wait y => .done (s.modDie d fun _ => y)
          | .ok y p =>
            let s := s.modDie d fun _ => y
            match decodeExit (p.2 ++ p.1) with
            | .ok i => .run i s
            | .error _ => .done (badFault s d k o pos)
      | _ => .done s

/-- The step of an engine, or of a collective context: the next word of its entry's block, or the next unit of it (R134). -/
def engNext (s : State) (c : Cur) : Todo :=
  let s := { s with cur := c }
  match (s.die c.die).curRun c with
  | none => .done s
  | some r =>
    if !(s.die c.die).alive || !(s.die c.die).entryGoes c r then .done s
    else match r.code[r.pos]? with
    | some x => .run x.2 s
    | none => .done s

/-! ## System cores (R85, R107) -/

/-- The management register block in the physical map (R85). -/
def regBase : Nat := 0x7FFF_FFF0_0000
def inRegs (pa : Nat) : Bool := regBase ≤ pa && pa < regBase + 0x10000

/-- The driver runs: the die is clocked, and its boot is over (R355, R356). -/
def Die.driverRuns (d : Die) (dn : DieId) : Bool := d.alive && d.stage dn 5

/-- Nothing that a system core has issued is under way. -/
def Die.sysIdle (d : Die) (n : Fin 4) : Bool := d.quiet (.sys n) && (d.ag (.sys n)).rd.isEmpty

/-- May a system core take its next access? One that stands behind a fence of its own waits until everything before it is done (R107: `fence.full.d`). -/
def Die.sysMay (d : Die) (dn : DieId) (n : Fin 4) : Bool := d.driverRuns dn && (!vget d.sysWait n || d.sysIdle n)

/-- A system core's step, past a fence that has been taken. -/
def sysStep (s : State) (d : DieId) (n : Fin 4) (f : State → State) : State :=
  if (s.die d).sysMay d n then f (s.modDie d fun y => { y with sysWait := vset y.sysWait n false }) else s

def sysFenceStep (s : State) (d : DieId) (n : Fin 4) : State := s.modDie d fun y => { y with sysWait := vset y.sysWait n true }

/-- A store to a management register: 8 bytes, or one proof entry, after the core's earlier stores (R3, R107, R312). Other sizes, which the spec gives no effect, write nothing (log entry 122). -/
def regStore (s : State) (d : DieId) (n : Fin 4) (off : Nat) (data : List Byte) : State :=
  if !((s.die d).ag (.sys n)).sb.isEmpty || regWaits s d off then s
  else if data.length = 8 && off % 8 = 0 then regWrite s d off (leWord data)
  else if data.length = 4 && off % 4 = 0 && 0x4000 ≤ off && off < 0x8000 then s.modDie d fun y => y.proofWrite d ((off - 0x4000) / 4) (BitVec.ofNat 32 (leNat data))
  else s

/-- A store of a system core: into its store buffer, line by line, at physical addresses; to a management register at once (R107). At an address that the map does not hold it takes an access fault instead (R85; log entry 122). -/
def sysStoreStep (s : State) (d : DieId) (n : Fin 4) (pa : Nat) (data : List Byte) : State :=
  if inRegs pa then regStore s d n (pa - regBase) data
  else if data.isEmpty then s
  else if !isMem pa data.length then s.modAg d (.sys n) fun a => { a with out := (a.nkey, none) :: a.out, nkey := a.nkey + 1 }
  else
    let ws : List Wr := (cutLines pa data.length).map fun c => ⟨⟨.here c.1, c.1, c.2, none, .none⟩, slice data (c.1 - pa) c.2⟩
    s.modAg d (.sys n) fun a => { a with sb := a.sb ++ [.write ws false 0 0] }

/-- A load of a system core: a read of each line; of a management register, its value, 8 bytes or one proof entry (R3, R107, R312). At an address that the map does not hold it takes an access fault (R85; log entry 122). -/
def sysLoadStep (s : State) (d : DieId) (n : Fin 4) (pa len : Nat) : State :=
  if inRegs pa then
    let off := pa - regBase
    if len = 8 && off % 8 = 0 || len = 4 && off % 4 = 0 && 0x4000 ≤ off && off < 0x8000 then
      let r := regRead s d off
      r.2.modAg d (.sys n) fun a => { a with out := (a.nkey, some (slice (wordLe 8 r.1) 0 len)) :: a.out, nkey := a.nkey + 1 }
    else s
  else if len = 0 then s
  else if !isMem pa len then s.modAg d (.sys n) fun a => { a with out := (a.nkey, none) :: a.out, nkey := a.nkey + 1 }
  else (cutLines pa len).foldl (fun s c => s.modAg d (.sys n) fun a => { a with rd := a.rd ++ [⟨a.nkey, ⟨.here c.1, c.1, c.2, none, .none⟩, .sys, 0, 0⟩], nkey := a.nkey + 1 }) s

/-! ## Code kept by instruction fetch (R125) -/

/-- The fetch through a TLB keeps a line as it stands now (log entry 108). -/
def Die.keepLine (d : Die) (t : TlbId) (ln : Nat) : Die :=
  if !isDieMem (128 * ln + 127) || d.poisoned (128 * ln) 128 || d.icode.any (fun e => e.1 == t && e.2.1 == ln) then d
  else { d with icode := d.icode ++ [(t, ln, d.peek (128 * ln) 128)] }
def Die.dropLine (d : Die) (t : TlbId) (ln : Nat) : Die := { d with icode := d.icode.filter fun e => !(e.1 == t && e.2.1 == ln) }

/-- Translations made ahead for a tentative entry: the first address that fails, with its code (R32). -/
def tentFault (d : DieId) (t : TlbId) (asid : Half) : List Nat → Die → Die × Option (Nat × Nat)
  | [], y => (y, none)
  | va :: r, y =>
    match translate d y t asid va false with
    | .ok y _ => tentFault d t asid r y
    | .wait y => (y, none)
    | .fault y c _ => (y, some (va, c))

/-- The agent of a slot's queue. -/
def queueAgent (d : Die) (k : SlotId) (q : Fin 6) : Agent :=
  match q.val with
  | 0 => .eng k .lde | 1 => .eng k .are | 2 => .eng k .ste | 3 => .eng (d.baseOf k) .mxe | 4 => .copy (clusterOf k) | _ => .coll

/-- A tentative entry (R32): held, with addresses of it translated, and nothing else. A fault met so is held with it. -/
def tentativeStep (s : State) (d : DieId) (k : SlotId) (q : Fin 6) (hdr : Word) (vas : List Nat) : State :=
  match (s.ctl d k).opn with
  | some o =>
    if o.drain.isSome then s
    else
      let r := tentFault d (tlbOf (queueAgent (s.die d) k q)) ((s.die d).asidOf k) vas (s.die d)
      (s.modDie d fun _ => r.1).modCtl d k fun c => { c with tent := c.tent ++ [(q, ⟨hdr, .replicate 8 0, 0, 0, 0, 0, r.2⟩)] }
  | none => s

/-- The instruction whose start reads an index row (R213, R235). -/
def indexWord : Instr → Option EOp
  | .ldx o | .stx o | .shufPerm o => some o
  | _ => none

/-- An engine starts such an instruction, and the index row meets an error (R386). -/
def startMeets (s : State) (d : DieId) (k : SlotId) (e : SlotEng) (x : ArrErr) : State :=
  let c : Cur := ⟨d, .eng k e, 8⟩
  match s.run c with
  | none => s
  | some r => match r.code[r.pos]? with
    | none => s
    | some w => match indexWord w.2 with
      | some o => if r.started || !(s.die d).entryGoes c r then s else withError { s with cur := c } c k x (indexReads o) fun s => (rowWord s c r w.2).getD s
      | none => s

/-- What a pick of the agenda comes to. -/
def resolve (p : Pick) (s : State) : Todo :=
  match p with
  | .core d k => coreNext s d k
  | .eng d a => engNext s ⟨d, a, 8⟩
  | .ctx d x => engNext s ⟨d, .coll, x⟩
  | .event i =>
    let y := s.die (eventDie i)
    if isWord i || !(unclocked i || (y.alive && (!driverEvent i || y.stage (eventDie i) 5))) then .done s else .run i s
  | .sysStore d n pa data => .done (sysStep s d n fun s => sysStoreStep s d n pa data)
  | .sysLoad d n pa len => .done (sysStep s d n fun s => sysLoadStep s d n pa len)
  | .sysFence d n => .done (sysStep s d n fun s => sysFenceStep s d n)
  | .keepLine d t ln => .done (if (s.die d).alive then s.modDie d fun y => y.keepLine t ln else s)
  | .dropLine d t ln => .done (if (s.die d).alive then s.modDie d fun y => y.dropLine t ln else s)
  | .bootAddress d => .done (if (s.die d).alive then bootAddress s d else s)
  | .bootFetch d img => .done (if (s.die d).alive then bootFetch s d img else s)
  | .storeRowError d k e => .done (if (s.die d).alive then storeRow s d k e else s)
  | .fabricResponse d => .done (if (s.die d).alive then fabricTake s d true else s)
  | .tck tms tdi trst => .done (tapClock tms tdi trst s)
  | .releaseTeam d lid t => .done (if (s.die d).driverRuns d then releaseTeam s d lid t else s)
  | .tentative d k q hdr vas => .done (if coreRuns s d k then tentativeStep s d k q hdr vas else s)
  | .storageError d line e => .done (if (s.die d).alive && isMem (128 * line) 128 && !setHas (s.die d).free line then s.modDie d fun y => y.meet d (128 * line) e else s)
  | .dropCopy d line => .done (if (s.die d).alive then s.modDie d fun y => y.dropCopy line else s)
  | .startError d k e x => .done (if (s.die d).alive then startMeets s d k e x else s)
  | .streamAck d pkg die => .done (streamAcked s d pkg die)
  | .saveError d k x => .done (if (s.die d).alive && (s.die d).schedOn d then saveError s d k x else s)

/-- The next pick: the head of the agenda, or a free choice (R106; log entry 2). -/
def nextPick (s : State) : Pick × State :=
  match s.agenda with
  | p :: r => (p, { s with agenda := r })
  | [] => (Config.freePick s.draws, { s with draws := s.draws + 1 })

/-! ## Placing a word where the next step fetches -/

/-- The address of the block that `placeWord` uses. -/
abbrev placeAt : Nat := 0x10000

/-- The position at which a word of the control stream is fetched: header, exit, or body. -/
def placePhase (h h2 : Half) : Option Phase :=
  if isWide h then
    match wMaj (h2 ++ h) with
    | 0x3F | 0x3D => none
    | 0x3E => some (.exits 0)
    | _ => some .body
  else some .body

/-- Slot 0 of d0 set so that its next word is at `placeAt` (a header) or four bytes on: a running strand, a translation of the page, and, for a body or exit word, an open block. -/
def readySlot (t : Slot) (ph : Option Phase) : Slot :=
  let e : TlbEntry := ⟨0, true, placeAt, 16, BitVec.ofNat 64 (0x10000 + 0x77), 0, true⟩
  let o (p : Phase) : Open :=
    { hdr := BitVec.ofNat 64 placeAt, len := match p with | .exits _ => 0 | _ => 2, nex := match p with | .exits _ => 1 | _ => 0, sw := none, first := 2, count := 1
      iter := 0, pos := 2, phase := p, bad := none, regs := t.ctl.regs, ops := [], toks := 0, wait := none, waitNa := 0, resv := [], nst := 0
      npush := .replicate 6 0, drain := none, aff := [], susp := none, traps := [], succ := .undecided, fill := [], fillAsked := false, schedAsked := false, sched := none }
  { t with
    tlb := e :: t.tlb
    flt := vset t.flt 0 none
    stop := vset t.stop 0 false
    agCtl := { t.agCtl with refused := [] }
    ctl := { t.ctl with act := .running, pc := BitVec.ofNat 64 placeAt, due := none, opn := ph.map o } }

/-- The state with the word of `nbits` bits of `w` where the next step fetches. -/
def placeWord (s : State) (nbits w : Nat) : State :=
  let w := w % 2 ^ nbits
  let h := tableHalf w 0
  let h2 := tableHalf w 1
  let ph := placePhase h h2
  let at_ := match ph with | none => placeAt | some _ => placeAt + 4
  let s := s.modDie 0 fun y =>
    { y with
      mem := memWrite y.mem at_ [h.extractLsb' 0 8, h.extractLsb' 8 8, h2.extractLsb' 0 8, h2.extractLsb' 8 8]
      psn := setDel y.psn (lineOf at_), icode := [], inReset := false, gated := false
      reg := regIns (regIns (regIns (regIns (regIns y.reg rBRKC 0) (rBRKC + 16) 0) (rBRKC + 32) 0) (rBRKC + 48) 0) rASIDBASE (y.getReg 0 rASIDBASE ||| 1) }
  { s.modSlot 0 0 fun t => readySlot t ph with agenda := [.core 0 0] }

end Sys2Proof.Machine
end

