-- ==== Sys2Proof/Machine/Step.lean ====
section
/-! DEFINITION. One step of the machine: the next pick, and the meaning of the instruction it comes to. -/

namespace Sys2Proof.Machine

/-- One step. -/
def step (s : State) : Host.Outcome State Fault Refusal :=
  match resolve (nextPick s).1 (nextPick s).2 with
  | .run i s => exec i s
  | .done s => .next s

/-- `s` with the instruction of `nbits` bits `w` placed where the next step fetches it. -/
def State.withFetchWord (s : State) (nbits w : Nat) : State := placeWord s nbits w

end Sys2Proof.Machine
end

