-- ==== Sys2Proof/Laws/Encoding.lean ====
section
/-! SUPPORT. Encoding lemmas: how each layout of R140 is read back, word by word. -/

set_option linter.all false
set_option Elab.async false

namespace Sys2Proof.Laws

open Sys2Proof Sys2Proof.Machine

/-! ## Numbers of joined and cut words -/

theorem append_toNat {m n : Nat} (x : BitVec m) (y : BitVec n) : (x ++ y).toNat = x.toNat * 2 ^ n + y.toNat := by
  rw [BitVec.toNat_append, ← Nat.shiftLeft_add_eq_or_of_lt y.isLt, Nat.shiftLeft_eq]
theorem extract_toNat {m : Nat} (x : BitVec m) (s n : Nat) : (x.extractLsb' s n).toNat = x.toNat / 2 ^ s % 2 ^ n := by
  simp [BitVec.extractLsb'_toNat, Nat.shiftRight_eq_div_pow]
theorem bit_toNat {m : Nat} (x : BitVec m) (s : Nat) : x.getLsbD s = decide (x.toNat / 2 ^ s % 2 = 1) := by
  rw [← BitVec.testBit_toNat, Nat.testBit_eq_decide_div_mod_eq]
theorem ofBool_toNat (b : Bool) : (BitVec.ofBool b).toNat = b.toNat := by cases b <;> rfl
theorem ofBool_lt (b : Bool) : b.toNat < 2 := by cases b <;> decide
theorem bool_of_toNat (b : Bool) : decide (b.toNat = 1) = b := by cases b <;> rfl
theorem bool_eq (n : Nat) (b : Bool) (h : n = b.toNat) : decide (n = 1) = b := by subst h; exact bool_of_toNat b

theorem halves_join (w : W32) : w.extractLsb' 16 16 ++ w.extractLsb' 0 16 = w := by
  apply BitVec.eq_of_toNat_eq
  rw [append_toNat]
  simp only [extract_toNat]
  omega
theorem low_of_halves (w : W32) : (w.extractLsb' 0 16).extractLsb' 0 2 = w.extractLsb' 0 2 := by
  apply BitVec.eq_of_toNat_eq
  simp only [extract_toNat]
  omega

/-! ## The layouts -/

theorem encRRR_fields (maj : BitVec 6) (min : BitVec 5) (o : RRR) :
    let w := encRRR maj min o
    w.extractLsb' 0 2 = 3#2 ∧ wNa w = o.na ∧ wMaj w = maj.toNat ∧ wMin w = min ∧ getRRR w = o := by
  obtain ⟨d, ba, a, bb, b, na⟩ := o
  have := d.isLt
  have := a.isLt
  have := b.isLt
  have := na.isLt
  have := maj.isLt
  have := min.isLt
  have := ofBool_lt ba
  have := ofBool_lt bb
  refine ⟨?_, ?_, ?_, ?_, ?_⟩
  all_goals
    simp only [wMaj, wNa, getRRR, wMin, encRRR, RRR.mk.injEq, BitVec.toNat_inj.symm, extract_toNat, bit_toNat, append_toNat, ofBool_toNat, BitVec.toNat_ofNat, beq_iff_eq, Bool.toNat_false, BitVec.ofNat_eq_ofNat, decide_eq_true_eq, decide_eq_false_iff_not, Bool.and_eq_true, Bool.not_eq_true']
    first
      | omega
      | (intro hz; omega)
      | (refine bool_eq _ _ ?_; omega)
      | (repeat' apply And.intro) <;> first | omega | (refine bool_eq _ _ ?_; omega)

theorem encRR_fields (maj : BitVec 6) (min : BitVec 5) (o : RR) :
    let w := encRR maj min o
    w.extractLsb' 0 2 = 3#2 ∧ wNa w = o.na ∧ wMaj w = maj.toNat ∧ w.extractLsb' 12 3 = min.extractLsb' 2 3 ∧ w.extractLsb' 10 2 = min.extractLsb' 0 2 ∧ wMin w = min ∧ getRR w = o ∧ zeroAt w 15 6 = true := by
  obtain ⟨d, ba, a, na⟩ := o
  have := d.isLt
  have := a.isLt
  have := na.isLt
  have := maj.isLt
  have := min.isLt
  have := ofBool_lt ba
  refine ⟨?_, ?_, ?_, ?_, ?_, ?_, ?_, ?_⟩
  all_goals
    simp only [wMaj, wNa, getRR, wMin, zeroAt, encRR, encRRR, RR.mk.injEq, BitVec.toNat_inj.symm, extract_toNat, bit_toNat, append_toNat, ofBool_toNat, BitVec.toNat_ofNat, beq_iff_eq, Bool.toNat_false, BitVec.ofNat_eq_ofNat, decide_eq_true_eq, decide_eq_false_iff_not, Bool.and_eq_true, Bool.not_eq_true']
    first
      | omega
      | (intro hz; omega)
      | (refine bool_eq _ _ ?_; omega)
      | (repeat' apply And.intro) <;> first | omega | (refine bool_eq _ _ ?_; omega)

theorem encRA_fields (maj : BitVec 6) (min : BitVec 5) (o : RA) :
    let w := encRA maj min o
    w.extractLsb' 0 2 = 3#2 ∧ wNa w = o.na ∧ wMaj w = maj.toNat ∧ w.extractLsb' 12 3 = min.extractLsb' 2 3 ∧ w.extractLsb' 10 2 = min.extractLsb' 0 2 ∧ wMin w = min ∧ getRA w = o ∧ zeroAt w 15 6 = true ∧ zeroAt w 27 5 = true := by
  obtain ⟨ba, a, na⟩ := o
  have := a.isLt
  have := na.isLt
  have := maj.isLt
  have := min.isLt
  have := ofBool_lt ba
  refine ⟨?_, ?_, ?_, ?_, ?_, ?_, ?_, ?_, ?_⟩
  all_goals
    simp only [wMaj, wNa, getRA, wMin, zeroAt, encRA, encRRR, RA.mk.injEq, BitVec.toNat_inj.symm, extract_toNat, bit_toNat, append_toNat, ofBool_toNat, BitVec.toNat_ofNat, beq_iff_eq, Bool.toNat_false, BitVec.ofNat_eq_ofNat, decide_eq_true_eq, decide_eq_false_iff_not, Bool.and_eq_true, Bool.not_eq_true']
    first
      | omega
      | (intro hz; omega)
      | (refine bool_eq _ _ ?_; omega)
      | (repeat' apply And.intro) <;> first | omega | (refine bool_eq _ _ ?_; omega)

theorem encRAB_fields (maj : BitVec 6) (min : BitVec 5) (o : RAB) :
    let w := encRAB maj min o
    w.extractLsb' 0 2 = 3#2 ∧ wNa w = o.na ∧ wMaj w = maj.toNat ∧ w.extractLsb' 12 3 = min.extractLsb' 2 3 ∧ w.extractLsb' 10 2 = min.extractLsb' 0 2 ∧ wMin w = min ∧ getRAB w = o ∧ zeroAt w 27 5 = true ∧ (min.toNat = 0 → zeroAt w 10 5 = true) := by
  obtain ⟨ba, a, bb, b, na⟩ := o
  have := a.isLt
  have := b.isLt
  have := na.isLt
  have := maj.isLt
  have := min.isLt
  have := ofBool_lt ba
  have := ofBool_lt bb
  refine ⟨?_, ?_, ?_, ?_, ?_, ?_, ?_, ?_, ?_⟩
  all_goals
    simp only [wMaj, wNa, getRAB, wMin, zeroAt, encRAB, encRRR, RAB.mk.injEq, BitVec.toNat_inj.symm, extract_toNat, bit_toNat, append_toNat, ofBool_toNat, BitVec.toNat_ofNat, beq_iff_eq, Bool.toNat_false, BitVec.ofNat_eq_ofNat, decide_eq_true_eq, decide_eq_false_iff_not, Bool.and_eq_true, Bool.not_eq_true']
    first
      | omega
      | (intro hz; omega)
      | (refine bool_eq _ _ ?_; omega)
      | (repeat' apply And.intro) <;> first | omega | (refine bool_eq _ _ ?_; omega)

theorem encRN_fields (maj : BitVec 6) (min : BitVec 5) (o : RN) :
    let w := encRN maj min o
    w.extractLsb' 0 2 = 3#2 ∧ wNa w = o.na ∧ wMaj w = maj.toNat ∧ w.extractLsb' 12 3 = min.extractLsb' 2 3 ∧ w.extractLsb' 10 2 = min.extractLsb' 0 2 ∧ wMin w = min ∧ zeroAt w 15 17 = true ∧ (min.toNat = 0 → zeroAt w 10 22 = true) := by
  obtain ⟨na⟩ := o
  have := na.isLt
  have := maj.isLt
  have := min.isLt
  refine ⟨?_, ?_, ?_, ?_, ?_, ?_, ?_, ?_⟩
  all_goals
    simp only [wMaj, wNa, wMin, zeroAt, encRN, encRRR, RN.mk.injEq, BitVec.toNat_inj.symm, extract_toNat, bit_toNat, append_toNat, ofBool_toNat, BitVec.toNat_ofNat, beq_iff_eq, Bool.toNat_false, BitVec.ofNat_eq_ofNat, decide_eq_true_eq, decide_eq_false_iff_not, Bool.and_eq_true, Bool.not_eq_true']
    first
      | omega
      | (intro hz; omega)
      | (refine bool_eq _ _ ?_; omega)
      | (repeat' apply And.intro) <;> first | omega | (refine bool_eq _ _ ?_; omega)

theorem encRI_fields (maj : BitVec 6) (o : RI) :
    let w := encRI maj o
    w.extractLsb' 0 2 = 3#2 ∧ wNa w = o.na ∧ wMaj w = maj.toNat ∧ getRI w = o := by
  obtain ⟨d, ba, a, imm, na⟩ := o
  have := d.isLt
  have := a.isLt
  have := imm.isLt
  have := na.isLt
  have := maj.isLt
  have := ofBool_lt ba
  refine ⟨?_, ?_, ?_, ?_⟩
  all_goals
    simp only [wMaj, wNa, getRI, encRI, RI.mk.injEq, BitVec.toNat_inj.symm, extract_toNat, bit_toNat, append_toNat, ofBool_toNat, BitVec.toNat_ofNat, beq_iff_eq, Bool.toNat_false, BitVec.ofNat_eq_ofNat, decide_eq_true_eq, decide_eq_false_iff_not, Bool.and_eq_true, Bool.not_eq_true']
    first
      | omega
      | (intro hz; omega)
      | (refine bool_eq _ _ ?_; omega)
      | (repeat' apply And.intro) <;> first | omega | (refine bool_eq _ _ ?_; omega)

theorem encRSh_fields (op : BitVec 5) (o : RSh) :
    let w := encRSh op o
    w.extractLsb' 0 2 = 3#2 ∧ wNa w = o.na ∧ wMaj w = 7 ∧ w.extractLsb' 16 5 = op ∧ getRSh w = o := by
  obtain ⟨d, ba, a, sh, na⟩ := o
  have := d.isLt
  have := a.isLt
  have := sh.isLt
  have := na.isLt
  have := op.isLt
  have := ofBool_lt ba
  refine ⟨?_, ?_, ?_, ?_, ?_⟩
  all_goals
    simp only [wMaj, wNa, getRSh, encRSh, RSh.mk.injEq, BitVec.toNat_inj.symm, extract_toNat, bit_toNat, append_toNat, ofBool_toNat, BitVec.toNat_ofNat, beq_iff_eq, Bool.toNat_false, BitVec.ofNat_eq_ofNat, decide_eq_true_eq, decide_eq_false_iff_not, Bool.and_eq_true, Bool.not_eq_true']
    first
      | omega
      | (intro hz; omega)
      | (refine bool_eq _ _ ?_; omega)
      | (repeat' apply And.intro) <;> first | omega | (refine bool_eq _ _ ?_; omega)

theorem encRU_fields (maj : BitVec 6) (o : RU) :
    let w := encRU maj o
    w.extractLsb' 0 2 = 3#2 ∧ wNa w = o.na ∧ wMaj w = maj.toNat ∧ getRU w = o := by
  obtain ⟨d, imm, na⟩ := o
  have := d.isLt
  have := imm.isLt
  have := na.isLt
  have := maj.isLt
  refine ⟨?_, ?_, ?_, ?_⟩
  all_goals
    simp only [wMaj, wNa, getRU, encRU, RU.mk.injEq, BitVec.toNat_inj.symm, extract_toNat, bit_toNat, append_toNat, ofBool_toNat, BitVec.toNat_ofNat, beq_iff_eq, Bool.toNat_false, BitVec.ofNat_eq_ofNat, decide_eq_true_eq, decide_eq_false_iff_not, Bool.and_eq_true, Bool.not_eq_true']
    first
      | omega
      | (intro hz; omega)
      | (refine bool_eq _ _ ?_; omega)
      | (repeat' apply And.intro) <;> first | omega | (refine bool_eq _ _ ?_; omega)

theorem encRSt_fields (maj : BitVec 6) (o : RSt) :
    let w := encRSt maj o
    w.extractLsb' 0 2 = 3#2 ∧ wNa w = o.na ∧ wMaj w = maj.toNat ∧ getRSt w = o := by
  obtain ⟨bv, v, ba, a, imm, na⟩ := o
  have := v.isLt
  have := a.isLt
  have := imm.isLt
  have := na.isLt
  have := maj.isLt
  have := ofBool_lt bv
  have := ofBool_lt ba
  refine ⟨?_, ?_, ?_, ?_⟩
  all_goals
    simp only [wMaj, wNa, getRSt, encRSt, RSt.mk.injEq, BitVec.toNat_inj.symm, extract_toNat, bit_toNat, append_toNat, ofBool_toNat, BitVec.toNat_ofNat, beq_iff_eq, Bool.toNat_false, BitVec.ofNat_eq_ofNat, decide_eq_true_eq, decide_eq_false_iff_not, Bool.and_eq_true, Bool.not_eq_true']
    first
      | omega
      | (intro hz; omega)
      | (refine bool_eq _ _ ?_; omega)
      | (repeat' apply And.intro) <;> first | omega | (refine bool_eq _ _ ?_; omega)

theorem encRCmp_fields (o : RCmp) :
    let w := encRCmp o
    w.extractLsb' 0 2 = 3#2 ∧ wNa w = o.na ∧ wMaj w = 10 ∧ getRCmp w = o ∧ zeroAt w 27 2 = true := by
  obtain ⟨pd, ba, a, bb, b, cc, na⟩ := o
  have := pd.isLt
  have := a.isLt
  have := b.isLt
  have := cc.isLt
  have := na.isLt
  have := ofBool_lt ba
  have := ofBool_lt bb
  refine ⟨?_, ?_, ?_, ?_, ?_⟩
  all_goals
    simp only [wMaj, wNa, getRCmp, zeroAt, wMin, encRCmp, RCmp.mk.injEq, BitVec.toNat_inj.symm, extract_toNat, bit_toNat, append_toNat, ofBool_toNat, BitVec.toNat_ofNat, beq_iff_eq, Bool.toNat_false, BitVec.ofNat_eq_ofNat, decide_eq_true_eq, decide_eq_false_iff_not, Bool.and_eq_true, Bool.not_eq_true']
    first
      | omega
      | (intro hz; omega)
      | (refine bool_eq _ _ ?_; omega)
      | (repeat' apply And.intro) <;> first | omega | (refine bool_eq _ _ ?_; omega)

theorem encRCmpi_fields (o : RCmpi) :
    let w := encRCmpi o
    w.extractLsb' 0 2 = 3#2 ∧ wNa w = o.na ∧ wMaj w = 11 ∧ getRCmpi w = o := by
  obtain ⟨pd, cnd, ba, a, imm, na⟩ := o
  have := pd.isLt
  have := cnd.isLt
  have := a.isLt
  have := imm.isLt
  have := na.isLt
  have := ofBool_lt ba
  refine ⟨?_, ?_, ?_, ?_⟩
  all_goals
    simp only [wMaj, wNa, getRCmpi, encRCmpi, RCmpi.mk.injEq, BitVec.toNat_inj.symm, extract_toNat, bit_toNat, append_toNat, ofBool_toNat, BitVec.toNat_ofNat, beq_iff_eq, Bool.toNat_false, BitVec.ofNat_eq_ofNat, decide_eq_true_eq, decide_eq_false_iff_not, Bool.and_eq_true, Bool.not_eq_true']
    first
      | omega
      | (intro hz; omega)
      | (refine bool_eq _ _ ?_; omega)
      | (repeat' apply And.intro) <;> first | omega | (refine bool_eq _ _ ?_; omega)

theorem encRPl_fields (min : BitVec 5) (o : RPl) :
    let w := encRPl min o
    w.extractLsb' 0 2 = 3#2 ∧ wNa w = o.na ∧ wMaj w = 12 ∧ wMin w = min ∧ getRPl w = o ∧ zeroAt w 15 8 = true := by
  obtain ⟨pd, pa, pb, na⟩ := o
  have := pd.isLt
  have := pa.isLt
  have := pb.isLt
  have := na.isLt
  have := min.isLt
  refine ⟨?_, ?_, ?_, ?_, ?_, ?_⟩
  all_goals
    simp only [wMaj, wNa, getRPl, wMin, zeroAt, encRPl, RPl.mk.injEq, BitVec.toNat_inj.symm, extract_toNat, bit_toNat, append_toNat, ofBool_toNat, BitVec.toNat_ofNat, beq_iff_eq, Bool.toNat_false, BitVec.ofNat_eq_ofNat, decide_eq_true_eq, decide_eq_false_iff_not, Bool.and_eq_true, Bool.not_eq_true']
    first
      | omega
      | (intro hz; omega)
      | (refine bool_eq _ _ ?_; omega)
      | (repeat' apply And.intro) <;> first | omega | (refine bool_eq _ _ ?_; omega)

theorem encRSel_fields (o : RSel) :
    let w := encRSel o
    w.extractLsb' 0 2 = 3#2 ∧ wNa w = o.na ∧ wMaj w = 13 ∧ getRSel w = o ∧ zeroAt w 10 1 = true := by
  obtain ⟨d, ba, a, bb, b, p, neg, na⟩ := o
  have := d.isLt
  have := a.isLt
  have := b.isLt
  have := p.isLt
  have := na.isLt
  have := ofBool_lt ba
  have := ofBool_lt bb
  have := ofBool_lt neg
  refine ⟨?_, ?_, ?_, ?_, ?_⟩
  all_goals
    simp only [wMaj, wNa, getRSel, zeroAt, encRSel, RSel.mk.injEq, BitVec.toNat_inj.symm, extract_toNat, bit_toNat, append_toNat, ofBool_toNat, BitVec.toNat_ofNat, beq_iff_eq, Bool.toNat_false, BitVec.ofNat_eq_ofNat, decide_eq_true_eq, decide_eq_false_iff_not, Bool.and_eq_true, Bool.not_eq_true']
    first
      | omega
      | (intro hz; omega)
      | (refine bool_eq _ _ ?_; omega)
      | (repeat' apply And.intro) <;> first | omega | (refine bool_eq _ _ ?_; omega)

theorem encRAmo_fields (maj : BitVec 6) (o : RAmo) :
    let w := encRAmo maj o
    w.extractLsb' 0 2 = 3#2 ∧ wNa w = o.na ∧ wMaj w = maj.toNat ∧ getRAmo w = o := by
  obtain ⟨d, ba, a, bb, b, w64, ord, scope, na⟩ := o
  have := d.isLt
  have := a.isLt
  have := b.isLt
  have := ord.isLt
  have := scope.isLt
  have := na.isLt
  have := maj.isLt
  have := ofBool_lt ba
  have := ofBool_lt bb
  have := ofBool_lt w64
  refine ⟨?_, ?_, ?_, ?_⟩
  all_goals
    simp only [wMaj, wNa, getRAmo, encRAmo, RAmo.mk.injEq, BitVec.toNat_inj.symm, extract_toNat, bit_toNat, append_toNat, ofBool_toNat, BitVec.toNat_ofNat, beq_iff_eq, Bool.toNat_false, BitVec.ofNat_eq_ofNat, decide_eq_true_eq, decide_eq_false_iff_not, Bool.and_eq_true, Bool.not_eq_true']
    first
      | omega
      | (intro hz; omega)
      | (refine bool_eq _ _ ?_; omega)
      | (repeat' apply And.intro) <;> first | omega | (refine bool_eq _ _ ?_; omega)

theorem encRFence_fields (kind : BitVec 2) (o : RFence) :
    let w := encRFence kind o
    w.extractLsb' 0 2 = 3#2 ∧ wNa w = o.na ∧ wMaj w = 40 ∧ w.extractLsb' 10 2 = kind ∧ w.extractLsb' 12 3 = o.scope ∧ zeroAt w 15 17 = true := by
  obtain ⟨scope, na⟩ := o
  have := scope.isLt
  have := na.isLt
  have := kind.isLt
  refine ⟨?_, ?_, ?_, ?_, ?_, ?_⟩
  all_goals
    simp only [wMaj, wNa, zeroAt, encRFence, RFence.mk.injEq, BitVec.toNat_inj.symm, extract_toNat, bit_toNat, append_toNat, ofBool_toNat, BitVec.toNat_ofNat, beq_iff_eq, Bool.toNat_false, BitVec.ofNat_eq_ofNat, decide_eq_true_eq, decide_eq_false_iff_not, Bool.and_eq_true, Bool.not_eq_true']
    first
      | omega
      | (intro hz; omega)
      | (refine bool_eq _ _ ?_; omega)
      | (repeat' apply And.intro) <;> first | omega | (refine bool_eq _ _ ?_; omega)

theorem encREnq_fields (maj : BitVec 6) (o : REnq) :
    let w := encREnq maj o
    w.extractLsb' 0 2 = 3#2 ∧ wNa w = o.na ∧ wMaj w = maj.toNat ∧ getREnq w = o := by
  obtain ⟨wait, sig, a, ba, na⟩ := o
  have := wait.isLt
  have := sig.isLt
  have := a.isLt
  have := na.isLt
  have := maj.isLt
  have := ofBool_lt ba
  refine ⟨?_, ?_, ?_, ?_⟩
  all_goals
    simp only [wMaj, wNa, getREnq, encREnq, REnq.mk.injEq, BitVec.toNat_inj.symm, extract_toNat, bit_toNat, append_toNat, ofBool_toNat, BitVec.toNat_ofNat, beq_iff_eq, Bool.toNat_false, BitVec.ofNat_eq_ofNat, decide_eq_true_eq, decide_eq_false_iff_not, Bool.and_eq_true, Bool.not_eq_true']
    first
      | omega
      | (intro hz; omega)
      | (refine bool_eq _ _ ?_; omega)
      | (repeat' apply And.intro) <;> first | omega | (refine bool_eq _ _ ?_; omega)

theorem encRPop_fields (o : RPop) :
    let w := encRPop o
    w.extractLsb' 0 2 = 3#2 ∧ wNa w = o.na ∧ wMaj w = 50 ∧ w.extractLsb' 27 5 = o.d ∧ w.extractLsb' 12 2 = o.q ∧ (w.extractLsb' 12 3).toNat = o.q.toNat ∧ w.extractLsb' 10 2 = 0#2 ∧ zeroAt w 15 12 = true := by
  obtain ⟨d, q, na⟩ := o
  have := d.isLt
  have := q.isLt
  have := na.isLt
  refine ⟨?_, ?_, ?_, ?_, ?_, ?_, ?_, ?_⟩
  all_goals
    simp only [wMaj, wNa, zeroAt, encRPop, RPop.mk.injEq, BitVec.toNat_inj.symm, extract_toNat, bit_toNat, append_toNat, ofBool_toNat, BitVec.toNat_ofNat, beq_iff_eq, Bool.toNat_false, BitVec.ofNat_eq_ofNat, decide_eq_true_eq, decide_eq_false_iff_not, Bool.and_eq_true, Bool.not_eq_true']
    first
      | omega
      | (intro hz; omega)
      | (refine bool_eq _ _ ?_; omega)
      | (repeat' apply And.intro) <;> first | omega | (refine bool_eq _ _ ?_; omega)

theorem encRPopNb_fields (o : RPopNb) :
    let w := encRPopNb o
    w.extractLsb' 0 2 = 3#2 ∧ wNa w = o.na ∧ wMaj w = 50 ∧ w.extractLsb' 27 5 = o.d ∧ w.extractLsb' 15 3 = o.p ∧ w.extractLsb' 12 2 = o.q ∧ (w.extractLsb' 12 3).toNat = o.q.toNat ∧ w.extractLsb' 10 2 = 2#2 ∧ zeroAt w 20 7 = true ∧ zeroAt w 18 2 = true := by
  obtain ⟨d, p, q, na⟩ := o
  have := d.isLt
  have := p.isLt
  have := q.isLt
  have := na.isLt
  refine ⟨?_, ?_, ?_, ?_, ?_, ?_, ?_, ?_, ?_, ?_⟩
  all_goals
    simp only [wMaj, wNa, zeroAt, encRPopNb, RPopNb.mk.injEq, BitVec.toNat_inj.symm, extract_toNat, bit_toNat, append_toNat, ofBool_toNat, BitVec.toNat_ofNat, beq_iff_eq, Bool.toNat_false, BitVec.ofNat_eq_ofNat, decide_eq_true_eq, decide_eq_false_iff_not, Bool.and_eq_true, Bool.not_eq_true']
    first
      | omega
      | (intro hz; omega)
      | (refine bool_eq _ _ ?_; omega)
      | (repeat' apply And.intro) <;> first | omega | (refine bool_eq _ _ ?_; omega)

theorem encRScope_fields (sel : BitVec 3) (o : RScope) :
    let w := encRScope sel o
    w.extractLsb' 0 2 = 3#2 ∧ wNa w = o.na ∧ wMaj w = 53 ∧ w.extractLsb' 12 3 = sel ∧ w.extractLsb' 10 2 = o.scope ∧ zeroAt w 15 17 = true := by
  obtain ⟨scope, na⟩ := o
  have := scope.isLt
  have := na.isLt
  have := sel.isLt
  refine ⟨?_, ?_, ?_, ?_, ?_, ?_⟩
  all_goals
    simp only [wMaj, wNa, zeroAt, encRScope, RScope.mk.injEq, BitVec.toNat_inj.symm, extract_toNat, bit_toNat, append_toNat, ofBool_toNat, BitVec.toNat_ofNat, beq_iff_eq, Bool.toNat_false, BitVec.ofNat_eq_ofNat, decide_eq_true_eq, decide_eq_false_iff_not, Bool.and_eq_true, Bool.not_eq_true']
    first
      | omega
      | (intro hz; omega)
      | (refine bool_eq _ _ ?_; omega)
      | (repeat' apply And.intro) <;> first | omega | (refine bool_eq _ _ ?_; omega)

theorem encRCsrr_fields (o : RCsrr) :
    let w := encRCsrr o
    w.extractLsb' 0 2 = 3#2 ∧ wNa w = o.na ∧ wMaj w = 55 ∧ w.getLsbD 20 = false ∧ w.extractLsb' 27 5 = o.d ∧ w.extractLsb' 10 10 = o.csr ∧ zeroAt w 21 6 = true := by
  obtain ⟨d, csr, na⟩ := o
  have := d.isLt
  have := csr.isLt
  have := na.isLt
  refine ⟨?_, ?_, ?_, ?_, ?_, ?_, ?_⟩
  all_goals
    simp only [wMaj, wNa, zeroAt, encRCsrr, RCsrr.mk.injEq, BitVec.toNat_inj.symm, extract_toNat, bit_toNat, append_toNat, ofBool_toNat, BitVec.toNat_ofNat, beq_iff_eq, Bool.toNat_false, BitVec.ofNat_eq_ofNat, decide_eq_true_eq, decide_eq_false_iff_not, Bool.and_eq_true, Bool.not_eq_true']
    first
      | omega
      | (intro hz; omega)
      | (refine bool_eq _ _ ?_; omega)
      | (repeat' apply And.intro) <;> first | omega | (refine bool_eq _ _ ?_; omega)

theorem encRCsrw_fields (o : RCsrw) :
    let w := encRCsrw o
    w.extractLsb' 0 2 = 3#2 ∧ wNa w = o.na ∧ wMaj w = 55 ∧ w.getLsbD 20 = true ∧ w.getLsbD 26 = o.ba ∧ w.extractLsb' 21 5 = o.a ∧ w.extractLsb' 10 10 = o.csr ∧ zeroAt w 27 5 = true := by
  obtain ⟨ba, a, csr, na⟩ := o
  have := a.isLt
  have := csr.isLt
  have := na.isLt
  have := ofBool_lt ba
  refine ⟨?_, ?_, ?_, ?_, ?_, ?_, ?_, ?_⟩
  all_goals
    simp only [wMaj, wNa, zeroAt, encRCsrw, RCsrw.mk.injEq, BitVec.toNat_inj.symm, extract_toNat, bit_toNat, append_toNat, ofBool_toNat, BitVec.toNat_ofNat, beq_iff_eq, Bool.toNat_false, BitVec.ofNat_eq_ofNat, decide_eq_true_eq, decide_eq_false_iff_not, Bool.and_eq_true, Bool.not_eq_true']
    first
      | omega
      | (intro hz; omega)
      | (refine bool_eq _ _ ?_; omega)
      | (repeat' apply And.intro) <;> first | omega | (refine bool_eq _ _ ?_; omega)

theorem encRD_fields (maj : BitVec 6) (o : RD) :
    let w := encRD maj o
    w.extractLsb' 0 2 = 3#2 ∧ wNa w = o.na ∧ wMaj w = maj.toNat ∧ w.extractLsb' 27 5 = o.d ∧ zeroAt w 10 17 = true := by
  obtain ⟨d, na⟩ := o
  have := d.isLt
  have := na.isLt
  have := maj.isLt
  refine ⟨?_, ?_, ?_, ?_, ?_⟩
  all_goals
    simp only [wMaj, wNa, zeroAt, encRD, RD.mk.injEq, BitVec.toNat_inj.symm, extract_toNat, bit_toNat, append_toNat, ofBool_toNat, BitVec.toNat_ofNat, beq_iff_eq, Bool.toNat_false, BitVec.ofNat_eq_ofNat, decide_eq_true_eq, decide_eq_false_iff_not, Bool.and_eq_true, Bool.not_eq_true']
    first
      | omega
      | (intro hz; omega)
      | (refine bool_eq _ _ ?_; omega)
      | (repeat' apply And.intro) <;> first | omega | (refine bool_eq _ _ ?_; omega)

theorem encHdr_fields (o : Hdr) :
    let w := encHdr o
    w.extractLsb' 0 2 = 3#2 ∧ wNa w = 0 ∧ wMaj w = 63 ∧ w.extractLsb' 22 10 = o.len ∧ w.extractLsb' 12 10 = o.rep ∧ w.extractLsb' 10 2 = o.nex := by
  obtain ⟨len, rep, nex⟩ := o
  have := len.isLt
  have := rep.isLt
  have := nex.isLt
  refine ⟨?_, ?_, ?_, ?_, ?_, ?_⟩
  all_goals
    simp only [wMaj, wNa, encHdr, Hdr.mk.injEq, BitVec.toNat_inj.symm, extract_toNat, bit_toNat, append_toNat, ofBool_toNat, BitVec.toNat_ofNat, beq_iff_eq, Bool.toNat_false, BitVec.ofNat_eq_ofNat, decide_eq_true_eq, decide_eq_false_iff_not, Bool.and_eq_true, Bool.not_eq_true']
    first
      | omega
      | (intro hz; omega)
      | (refine bool_eq _ _ ?_; omega)
      | (repeat' apply And.intro) <;> first | omega | (refine bool_eq _ _ ?_; omega)

theorem encHdrSw_fields (o : HdrSw) :
    let w := encHdrSw o
    w.extractLsb' 0 2 = 3#2 ∧ wNa w = 0 ∧ wMaj w = 61 ∧ w.extractLsb' 22 10 = o.len ∧ w.extractLsb' 16 6 = o.swid ∧ zeroAt w 10 6 = true := by
  obtain ⟨len, swid⟩ := o
  have := len.isLt
  have := swid.isLt
  refine ⟨?_, ?_, ?_, ?_, ?_, ?_⟩
  all_goals
    simp only [wMaj, wNa, zeroAt, encHdrSw, HdrSw.mk.injEq, BitVec.toNat_inj.symm, extract_toNat, bit_toNat, append_toNat, ofBool_toNat, BitVec.toNat_ofNat, beq_iff_eq, Bool.toNat_false, BitVec.ofNat_eq_ofNat, decide_eq_true_eq, decide_eq_false_iff_not, Bool.and_eq_true, Bool.not_eq_true']
    first
      | omega
      | (intro hz; omega)
      | (refine bool_eq _ _ ?_; omega)
      | (repeat' apply And.intro) <;> first | omega | (refine bool_eq _ _ ?_; omega)

theorem encExRel_fields (o : ExRel) :
    let w := encExRel o
    w.extractLsb' 0 2 = 3#2 ∧ wMaj w = 62 ∧ w.getLsbD 3 = false ∧ w.extractLsb' 13 19 = o.off ∧ w.extractLsb' 10 3 = o.p ∧ w.getLsbD 2 = o.neg := by
  obtain ⟨off, p, neg⟩ := o
  have := off.isLt
  have := p.isLt
  have := ofBool_lt neg
  refine ⟨?_, ?_, ?_, ?_, ?_, ?_⟩
  all_goals
    simp only [wMaj, wNa, encExRel, ExRel.mk.injEq, BitVec.toNat_inj.symm, extract_toNat, bit_toNat, append_toNat, ofBool_toNat, BitVec.toNat_ofNat, beq_iff_eq, Bool.toNat_false, BitVec.ofNat_eq_ofNat, decide_eq_true_eq, decide_eq_false_iff_not, Bool.and_eq_true, Bool.not_eq_true']
    first
      | omega
      | (intro hz; omega)
      | (refine bool_eq _ _ ?_; omega)
      | (repeat' apply And.intro) <;> first | omega | (refine bool_eq _ _ ?_; omega)

theorem encExReg_fields (link : BitVec 2) (o : ExReg) :
    let w := encExReg link o
    w.extractLsb' 0 2 = 3#2 ∧ wMaj w = 62 ∧ w.getLsbD 3 = true ∧ zeroAt w 20 12 = true ∧ w.extractLsb' 18 2 = link ∧ w.extractLsb' 13 5 = o.reg ∧ w.extractLsb' 10 3 = o.p ∧ w.getLsbD 2 = o.neg := by
  obtain ⟨reg, p, neg⟩ := o
  have := reg.isLt
  have := p.isLt
  have := link.isLt
  have := ofBool_lt neg
  refine ⟨?_, ?_, ?_, ?_, ?_, ?_, ?_, ?_⟩
  all_goals
    simp only [wMaj, wNa, zeroAt, encExReg, ExReg.mk.injEq, BitVec.toNat_inj.symm, extract_toNat, bit_toNat, append_toNat, ofBool_toNat, BitVec.toNat_ofNat, beq_iff_eq, Bool.toNat_false, BitVec.ofNat_eq_ofNat, decide_eq_true_eq, decide_eq_false_iff_not, Bool.and_eq_true, Bool.not_eq_true']
    first
      | omega
      | (intro hz; omega)
      | (refine bool_eq _ _ ?_; omega)
      | (repeat' apply And.intro) <;> first | omega | (refine bool_eq _ _ ?_; omega)

theorem encCOp_fields (maj : BitVec 6) (o : COp) :
    let w := encCOp maj o
    w.extractLsb' 0 2 = 3#2 ∧ wNa w = o.na ∧ wMaj w = maj.toNat ∧ getCOp w = o ∧ bZero w = true := by
  obtain ⟨f1, f2, f3, fmt, na⟩ := o
  have := f1.isLt
  have := f2.isLt
  have := f3.isLt
  have := fmt.isLt
  have := na.isLt
  have := maj.isLt
  refine ⟨?_, ?_, ?_, ?_, ?_⟩
  all_goals
    simp only [wMaj, wNa, getCOp, bZero, encCOp, COp.mk.injEq, BitVec.toNat_inj.symm, extract_toNat, bit_toNat, append_toNat, ofBool_toNat, BitVec.toNat_ofNat, beq_iff_eq, Bool.toNat_false, BitVec.ofNat_eq_ofNat, decide_eq_true_eq, decide_eq_false_iff_not, Bool.and_eq_true, Bool.not_eq_true']
    first
      | omega
      | (intro hz; omega)
      | (refine bool_eq _ _ ?_; omega)
      | (repeat' apply And.intro) <;> first | omega | (refine bool_eq _ _ ?_; omega)

/-! ## Engine words and prefixes -/

theorem encMain_fields (maj : BitVec 6) (o : EOp) :
    let w := encMain maj o
    w.extractLsb' 0 2 = 3#2 ∧ wNa w = o.na ∧ wMaj w = maj.toNat ∧ ∀ p m, getEOp p m w = { o with pfx := p, mod := m } := by
  obtain ⟨pfx, mod, f1, b2, f2, b3, f3, fmt, na⟩ := o
  have := f1.isLt; have := f2.isLt; have := f3.isLt; have := fmt.isLt; have := na.isLt; have := maj.isLt
  have := ofBool_lt b2; have := ofBool_lt b3
  refine ⟨?_, ?_, ?_, fun p m => ?_⟩
  all_goals
    simp only [wMaj, wNa, getEOp, encMain, EOp.mk.injEq, true_and, BitVec.toNat_inj.symm, extract_toNat, bit_toNat, append_toNat, ofBool_toNat, BitVec.toNat_ofNat]
    first
      | omega
      | (repeat' apply And.intro) <;> first | omega | (refine bool_eq _ _ ?_; omega)

theorem encPfx_fields (p : Pfx) : let h := encPfx p; h.extractLsb' 0 2 = 1#2 ∧ getPfx h = p := by
  obtain ⟨first, cnt, slot⟩ := p
  have := first.isLt; have := cnt.isLt; have := slot.isLt
  refine ⟨?_, ?_⟩
  all_goals
    simp only [getPfx, encPfx, Pfx.mk.injEq, BitVec.toNat_inj.symm, extract_toNat, append_toNat, BitVec.toNat_ofNat]
    omega

theorem encModf_fields (m : Modf) : let h := encModf m; h.extractLsb' 0 2 = 2#2 ∧ getModf h = m := by
  obtain ⟨rnd, sat, raw, bc, oc, min3⟩ := m
  have := rnd.isLt; have := oc.isLt; have := min3.isLt; have := ofBool_lt sat; have := ofBool_lt raw; have := ofBool_lt bc
  refine ⟨?_, ?_⟩
  all_goals
    simp only [getModf, encModf, Modf.mk.injEq, BitVec.toNat_inj.symm, extract_toNat, bit_toNat, append_toNat, ofBool_toNat, BitVec.toNat_ofNat]
    first
      | omega
      | (repeat' apply And.intro) <;> first | omega | (refine bool_eq _ _ ?_; omega)

theorem encPfx_ne_nop (p : Pfx) : (encPfx p == (0x0002 : Half)) = false := by
  refine beq_eq_false_iff_ne.mpr fun h => ?_
  have := (encPfx_fields p).1
  rw [h] at this
  exact absurd this (by decide)

/-- A modifier prefix is `nop` only when it says nothing (R128). -/
theorem encModf_ne_nop (m : Modf) (h : modSeen (some m) = true) : (encModf m == (0x0002 : Half)) = false := by
  refine beq_eq_false_iff_ne.mpr fun e => ?_
  have := (encModf_fields m).2
  rw [e] at this
  subst this
  exact absurd h (by decide)

theorem ne_nop_of_low {h : Half} (e : h.extractLsb' 0 2 = 3#2) : (h == (0x0002 : Half)) = false := by
  refine beq_eq_false_iff_ne.mpr fun h' => ?_
  rw [h'] at e
  exact absurd e (by decide)

theorem decEng_prefixes (st : Stream) (ps : List Pfx) (rest : List Half) :
    ∀ p0, decEng st p0 none (ps.map encPfx ++ rest) = decEng st (p0 ++ ps) none rest := by
  induction ps with
  | nil => simp
  | cons p ps ih =>
    intro p0
    have h := encPfx_fields p
    simp only [List.map_cons, List.cons_append, decEng, encPfx_ne_nop, h.1, h.2]
    simp [ih]

theorem decEng_main (st : Stream) (p : List Pfx) (m : Option Modf) (w : W32) (h : w.extractLsb' 0 2 = 3#2) (rest : List Half) :
    decEng st p m (halves w ++ rest) = (decMain st p m w).map fun i => (i, rest) := by
  have e := low_of_halves w
  rw [h] at e
  simp only [halves, List.cons_append, List.nil_append, decEng, ne_nop_of_low e, e, halves_join]
  simp

/-- An engine instruction with its prefixes comes back as its main word decodes. -/
theorem decEng_encEng (st : Stream) (maj : BitVec 6) (o : EOp) (h : modSeen o.mod = true) (rest : List Half) :
    decEng st [] none (encEng maj o ++ rest) = (decMain st o.pfx o.mod (encMain maj o)).map fun i => (i, rest) := by
  have f := encMain_fields maj o
  rw [encEng, List.append_assoc, List.append_assoc, decEng_prefixes]
  cases e : o.mod with
  | none => simp only [List.nil_append]; exact decEng_main _ _ _ _ f.1 rest
  | some m =>
    rw [e] at h
    have g := encModf_fields m
    simp only [List.cons_append, List.nil_append, decEng, encModf_ne_nop m h, g.1, g.2]
    simp only [Option.isSome_none, Bool.false_eq_true, if_false]
    simpa using decEng_main st o.pfx (some m) _ f.1 rest

theorem decMain_encMain (st : Stream) (maj : BitVec 6) (o : EOp) (h : (o.na != 3) = true) :
    decMain st o.pfx o.mod (encMain maj o) =
      match st with
      | .lde => decLde maj.toNat o | .ste => decSte maj.toNat o | .are => decAre maj.toNat o | .mxe => decMxe maj.toNat o
      | _ => .error .major := by
  have f := encMain_fields maj o
  have n : (o.na == (3 : BitVec 2)) = false := by simpa using h
  rw [decMain, f.2.1, f.2.2.1, f.2.2.2 o.pfx o.mod]
  simp only [n]
  cases st <;> rfl

theorem readAt_eng (st : Stream) (hs : st = .lde ∨ st = .ste ∨ st = .are ∨ st = .mxe) (maj : BitVec 6) (o : EOp) (i : Instr)
    (hm : modSeen o.mod = true) (hn : (o.na != 3) = true)
    (hd : (match st with
      | .lde => decLde maj.toNat o | .ste => decSte maj.toNat o | .are => decAre maj.toNat o | .mxe => decMxe maj.toNat o
      | _ => .error .major) = .ok i) (rest : List Half) :
    readAt (.body st) (encEng maj o ++ rest) = .ok (i, rest) := by
  have e := decEng_encEng st maj o hm rest
  rw [decMain_encMain st maj o hn, hd] at e
  rcases hs with rfl | rfl | rfl | rfl <;> exact e

/-! ## Words of 32 bits -/

theorem encRPn_fields (o : RPn) :
    let w := encRPl 5 ⟨o.pd, o.pa, 0, o.na⟩
    w.extractLsb' 0 2 = 3#2 ∧ wNa w = o.na ∧ wMaj w = 12 ∧ wMin w = 5 ∧ w.extractLsb' 29 3 = o.pd ∧ w.extractLsb' 26 3 = o.pa ∧ zeroAt w 15 11 = true := by
  obtain ⟨pd, pa, na⟩ := o
  have := pd.isLt; have := pa.isLt; have := na.isLt
  refine ⟨?_, ?_, ?_, ?_, ?_, ?_, ?_⟩
  all_goals
    simp only [wMaj, wNa, wMin, zeroAt, encRPl, BitVec.toNat_inj.symm, extract_toNat, append_toNat, BitVec.toNat_ofNat, beq_iff_eq, BitVec.ofNat_eq_ofNat]
    omega


theorem readAt_ctl32 (w : W32) (i : Instr) (h : w.extractLsb' 0 2 = 3#2) (hd : decodeCtl32 w = .ok i) (rest : List Half) :
    readAt (.body .ctl) (halves w ++ rest) = .ok (i, rest) := by
  have e := low_of_halves w
  rw [h] at e
  simp only [readAt, decodeBody, halves, List.cons_append, List.nil_append, isWide, e, halves_join, hd]
  rfl

theorem readAt_c32 (st : Stream) (hs : st = .cpe ∨ st = .coe) (w : W32) (i : Instr) (h : w.extractLsb' 0 2 = 3#2)
    (hd : (if st == .cpe then decCpe else decCoe) w = .ok i) (rest : List Half) :
    readAt (.body st) (halves w ++ rest) = .ok (i, rest) := by
  have e := low_of_halves w
  rw [h] at e
  rcases hs with rfl | rfl
  all_goals
    simp only [readAt, decodeBody, halves, List.cons_append, List.nil_append, isWide, e, halves_join, hd, ne_nop_of_low e]
    rfl

theorem readAt_header (w : W32) (i : Instr) (hd : decodeHeader true w = .ok i) (rest : List Half) :
    readAt .header (halves w ++ rest) = .ok (i, rest) := by
  simp only [readAt, halves, List.cons_append, List.nil_append, halves_join, hd]
  rfl
theorem readAt_exit (w : W32) (i : Instr) (hd : decodeExit w = .ok i) (rest : List Half) :
    readAt .exit (halves w ++ rest) = .ok (i, rest) := by
  simp only [readAt, halves, List.cons_append, List.nil_append, halves_join, hd]
  rfl

theorem guardWf_ok (i : Instr) (h : i.wf = true) : guardWf i = .ok i := by simp [guardWf, h]
theorem take_ok (u : Bool) (i : Instr) (hu : u = true) (h : i.wf = true) : take u i = .ok i := by simp [take, hu, guardWf, h]

/-! ## Compact words -/

theorem encCI_fields (op : BitVec 3) (o : CI) :
    let h := encCI op o
    h.extractLsb' 0 2 = 0#2 ∧ h.extractLsb' 2 3 = op ∧ h.extractLsb' 11 5 = o.d ∧ h.extractLsb' 5 6 = o.imm := by
  obtain ⟨d, imm⟩ := o
  have := d.isLt; have := imm.isLt; have := op.isLt
  refine ⟨?_, ?_, ?_, ?_⟩
  all_goals
    simp only [encCI, BitVec.toNat_inj.symm, extract_toNat, append_toNat, BitVec.toNat_ofNat]
    omega
theorem encCR_fields (op : BitVec 4) (o : CR) :
    let h := encCR op o
    h.extractLsb' 0 2 = 1#2 ∧ h.extractLsb' 2 4 = op ∧ h.extractLsb' 11 5 = o.d ∧ h.extractLsb' 6 5 = o.a := by
  obtain ⟨d, a⟩ := o
  have := d.isLt; have := a.isLt; have := op.isLt
  refine ⟨?_, ?_, ?_, ?_⟩
  all_goals
    simp only [encCR, BitVec.toNat_inj.symm, extract_toNat, append_toNat, BitVec.toNat_ofNat]
    omega

theorem readAt_ctl16 (h : Half) (i : Instr) (hw : isWide h = false) (hd : decodeCtl16 h = .ok i) (rest : List Half) :
    readAt (.body .ctl) (h :: rest) = .ok (i, rest) := by
  simp only [readAt, decodeBody, hw, hd]
  rfl
theorem decodeCtl16_encCI (op : BitVec 3) (o : CI) (i : Instr)
    (hd : (match op.toNat with | 0 => guardWf (.cAddi o) | 1 => guardWf (.cLi o) | _ => .error .compact) = .ok i) :
    isWide (encCI op o) = false ∧ decodeCtl16 (encCI op o) = .ok i := by
  obtain ⟨a, b, c, e⟩ := encCI_fields op o
  have n : (encCI op o == (0x0002 : Half)) = false := beq_eq_false_iff_ne.mpr fun h => by rw [h] at a; exact absurd a (by decide)
  refine ⟨by simp [isWide, a], ?_⟩
  rw [decodeCtl16, n, a, b, c, e]
  exact hd
theorem decodeCtl16_encCR (op : BitVec 4) (o : CR) (i : Instr)
    (hd : (match op.toNat with
      | 0 => guardWf (.cMv o) | 1 => guardWf (.cAdd o) | 2 => guardWf (.cSub o) | 3 => guardWf (.cAnd o) | 4 => guardWf (.cOr o) | 5 => guardWf (.cXor o)
      | _ => .error .compact) = .ok i) :
    isWide (encCR op o) = false ∧ decodeCtl16 (encCR op o) = .ok i := by
  obtain ⟨a, b, c, e⟩ := encCR_fields op o
  have n : (encCR op o == (0x0002 : Half)) = false := beq_eq_false_iff_ne.mpr fun h => by rw [h] at a; exact absurd a (by decide)
  refine ⟨by simp [isWide, a], ?_⟩
  rw [decodeCtl16, n, a, b, c, e]
  exact hd

/-! ## What a legal engine word has -/

theorem Shape_ok_parts {h : Shape} {o : EOp} (e : h.ok o = true) :
    modSeen o.mod = true ∧ (o.na != 3) = true ∧ h.min3 (eMod o).min3.toNat = true := by
  simp only [Shape.ok, Bool.and_eq_true] at e
  exact ⟨by simp_all, by simp_all, by simp_all⟩

end Sys2Proof.Laws
end

