-- ==== Sys2Proof/Laws/PerInstr.lean ====
section
/-! SUPPORT. Statements per instruction: encoding and decoding agree (R126 to R149). -/

set_option linter.all false
set_option Elab.async false

namespace Sys2Proof.Laws

/-- Read where it stands, the encoding of a well-formed instruction gives that instruction back, and leaves what follows it. -/
def Encoding.Statement (i : Instr) : Prop :=
  ∀ (p : Place) (hs rest : List Half), i.wf = true → i.place = some p → encode i = some hs → readAt p (hs ++ rest) = .ok (i, rest)

open Sys2Proof.Machine

theorem Encoding.blockHeader : ∀ h, Encoding.Statement (.blockHeader h) := by
  intro h p hs rest hw hp he
  cases hp; cases he
  obtain ⟨h0, h1, h2, h3, h4, h5⟩ := encHdr_fields h
  refine readAt_header _ _ ?_ rest
  simp only [decodeHeader, h0, h1, h2, h3, h4, h5]
  exact guardWf_ok _ hw

theorem Encoding.switchPointHeader : ∀ h, Encoding.Statement (.switchPointHeader h) := by
  intro h p hs rest hw hp he
  cases hp; cases he
  obtain ⟨h0, h1, h2, h3, h4, h5⟩ := encHdrSw_fields h
  refine readAt_header _ _ ?_ rest
  simp only [decodeHeader, h0, h1, h2, h3, h4, h5]
  exact guardWf_ok _ hw

theorem Encoding.relativeExit : ∀ x, Encoding.Statement (.relativeExit x) := by
  intro x p hs rest hw hp he
  cases hp; cases he
  obtain ⟨h0, h1, h2, h3, h4, h5⟩ := encExRel_fields x
  refine readAt_exit _ _ ?_ rest
  simp only [decodeExit, h0, h1, h2, h3, h4, h5]
  rfl

theorem Encoding.jumpExit : ∀ x, Encoding.Statement (.jumpExit x) := by
  intro x p hs rest hw hp he
  cases hp; cases he
  obtain ⟨h0, h1, h2, h3, h4, h5, h6, h7⟩ := encExReg_fields 0 x
  refine readAt_exit _ _ ?_ rest
  simp only [decodeExit, h0, h1, h2, h3, h4, h5, h6, h7]
  rfl

theorem Encoding.callExit : ∀ x, Encoding.Statement (.callExit x) := by
  intro x p hs rest hw hp he
  cases hp; cases he
  obtain ⟨h0, h1, h2, h3, h4, h5, h6, h7⟩ := encExReg_fields 1 x
  refine readAt_exit _ _ ?_ rest
  simp only [decodeExit, h0, h1, h2, h3, h4, h5, h6, h7]
  rfl

theorem Encoding.returnExit : ∀ x, Encoding.Statement (.returnExit x) := by
  intro x p hs rest hw hp he
  cases hp; cases he
  obtain ⟨h0, h1, h2, h3, h4, h5, h6, h7⟩ := encExReg_fields 2 x
  refine readAt_exit _ _ ?_ rest
  simp only [decodeExit, h0, h1, h2, h3, h4, h5, h6, h7]
  rfl

theorem Encoding.nop : Encoding.Statement (.nop) := by
  intro  p hs rest hw hp he
  cases hp; cases he
  exact readAt_ctl16 _ _ rfl rfl rest

theorem Encoding.cAddi : ∀ o, Encoding.Statement (.cAddi o) := by
  intro o p hs rest hw hp he
  cases hp; cases he
  have h := decodeCtl16_encCI 0 o _ (guardWf_ok _ hw)
  exact readAt_ctl16 _ _ h.1 h.2 rest

theorem Encoding.cLi : ∀ o, Encoding.Statement (.cLi o) := by
  intro o p hs rest hw hp he
  cases hp; cases he
  have h := decodeCtl16_encCI 1 o _ (guardWf_ok _ hw)
  exact readAt_ctl16 _ _ h.1 h.2 rest

theorem Encoding.cMv : ∀ o, Encoding.Statement (.cMv o) := by
  intro o p hs rest hw hp he
  cases hp; cases he
  have h := decodeCtl16_encCR 0 o _ (guardWf_ok _ hw)
  exact readAt_ctl16 _ _ h.1 h.2 rest

theorem Encoding.cAdd : ∀ o, Encoding.Statement (.cAdd o) := by
  intro o p hs rest hw hp he
  cases hp; cases he
  have h := decodeCtl16_encCR 1 o _ (guardWf_ok _ hw)
  exact readAt_ctl16 _ _ h.1 h.2 rest

theorem Encoding.cSub : ∀ o, Encoding.Statement (.cSub o) := by
  intro o p hs rest hw hp he
  cases hp; cases he
  have h := decodeCtl16_encCR 2 o _ (guardWf_ok _ hw)
  exact readAt_ctl16 _ _ h.1 h.2 rest

theorem Encoding.cAnd : ∀ o, Encoding.Statement (.cAnd o) := by
  intro o p hs rest hw hp he
  cases hp; cases he
  have h := decodeCtl16_encCR 3 o _ (guardWf_ok _ hw)
  exact readAt_ctl16 _ _ h.1 h.2 rest

theorem Encoding.cOr : ∀ o, Encoding.Statement (.cOr o) := by
  intro o p hs rest hw hp he
  cases hp; cases he
  have h := decodeCtl16_encCR 4 o _ (guardWf_ok _ hw)
  exact readAt_ctl16 _ _ h.1 h.2 rest

theorem Encoding.cXor : ∀ o, Encoding.Statement (.cXor o) := by
  intro o p hs rest hw hp he
  cases hp; cases he
  have h := decodeCtl16_encCR 5 o _ (guardWf_ok _ hw)
  exact readAt_ctl16 _ _ h.1 h.2 rest

theorem Encoding.add : ∀ o, Encoding.Statement (.add o) := by
  intro o p hs rest hw hp he
  cases hp; cases he
  obtain ⟨h0, h1, h2, h3, h4⟩ := encRRR_fields 0x01 0 o
  have hn : (o.na == (3 : BitVec 2)) = false := by
    have := hw
    simp_all [Instr.wf, okC3x, okC3, okC2, okC1, okC0, okCv]
  refine readAt_ctl32 _ _ h0 ?_ rest
  simp only [decodeCtl32, decAlu, h0, h1, h2, h3, h4, hn]
  first
    | exact guardWf_ok _ hw
    | exact take_ok _ _ rfl hw
    | exact take_ok _ _ (by simp_all) hw

theorem Encoding.sub : ∀ o, Encoding.Statement (.sub o) := by
  intro o p hs rest hw hp he
  cases hp; cases he
  obtain ⟨h0, h1, h2, h3, h4⟩ := encRRR_fields 0x01 1 o
  have hn : (o.na == (3 : BitVec 2)) = false := by
    have := hw
    simp_all [Instr.wf, okC3x, okC3, okC2, okC1, okC0, okCv]
  refine readAt_ctl32 _ _ h0 ?_ rest
  simp only [decodeCtl32, decAlu, h0, h1, h2, h3, h4, hn]
  first
    | exact guardWf_ok _ hw
    | exact take_ok _ _ rfl hw
    | exact take_ok _ _ (by simp_all) hw

theorem Encoding.and : ∀ o, Encoding.Statement (.and o) := by
  intro o p hs rest hw hp he
  cases hp; cases he
  obtain ⟨h0, h1, h2, h3, h4⟩ := encRRR_fields 0x01 2 o
  have hn : (o.na == (3 : BitVec 2)) = false := by
    have := hw
    simp_all [Instr.wf, okC3x, okC3, okC2, okC1, okC0, okCv]
  refine readAt_ctl32 _ _ h0 ?_ rest
  simp only [decodeCtl32, decAlu, h0, h1, h2, h3, h4, hn]
  first
    | exact guardWf_ok _ hw
    | exact take_ok _ _ rfl hw
    | exact take_ok _ _ (by simp_all) hw

theorem Encoding.or : ∀ o, Encoding.Statement (.or o) := by
  intro o p hs rest hw hp he
  cases hp; cases he
  obtain ⟨h0, h1, h2, h3, h4⟩ := encRRR_fields 0x01 3 o
  have hn : (o.na == (3 : BitVec 2)) = false := by
    have := hw
    simp_all [Instr.wf, okC3x, okC3, okC2, okC1, okC0, okCv]
  refine readAt_ctl32 _ _ h0 ?_ rest
  simp only [decodeCtl32, decAlu, h0, h1, h2, h3, h4, hn]
  first
    | exact guardWf_ok _ hw
    | exact take_ok _ _ rfl hw
    | exact take_ok _ _ (by simp_all) hw

theorem Encoding.xor : ∀ o, Encoding.Statement (.xor o) := by
  intro o p hs rest hw hp he
  cases hp; cases he
  obtain ⟨h0, h1, h2, h3, h4⟩ := encRRR_fields 0x01 4 o
  have hn : (o.na == (3 : BitVec 2)) = false := by
    have := hw
    simp_all [Instr.wf, okC3x, okC3, okC2, okC1, okC0, okCv]
  refine readAt_ctl32 _ _ h0 ?_ rest
  simp only [decodeCtl32, decAlu, h0, h1, h2, h3, h4, hn]
  first
    | exact guardWf_ok _ hw
    | exact take_ok _ _ rfl hw
    | exact take_ok _ _ (by simp_all) hw

theorem Encoding.sll : ∀ o, Encoding.Statement (.sll o) := by
  intro o p hs rest hw hp he
  cases hp; cases he
  obtain ⟨h0, h1, h2, h3, h4⟩ := encRRR_fields 0x01 5 o
  have hn : (o.na == (3 : BitVec 2)) = false := by
    have := hw
    simp_all [Instr.wf, okC3x, okC3, okC2, okC1, okC0, okCv]
  refine readAt_ctl32 _ _ h0 ?_ rest
  simp only [decodeCtl32, decAlu, h0, h1, h2, h3, h4, hn]
  first
    | exact guardWf_ok _ hw
    | exact take_ok _ _ rfl hw
    | exact take_ok _ _ (by simp_all) hw

theorem Encoding.srl : ∀ o, Encoding.Statement (.srl o) := by
  intro o p hs rest hw hp he
  cases hp; cases he
  obtain ⟨h0, h1, h2, h3, h4⟩ := encRRR_fields 0x01 6 o
  have hn : (o.na == (3 : BitVec 2)) = false := by
    have := hw
    simp_all [Instr.wf, okC3x, okC3, okC2, okC1, okC0, okCv]
  refine readAt_ctl32 _ _ h0 ?_ rest
  simp only [decodeCtl32, decAlu, h0, h1, h2, h3, h4, hn]
  first
    | exact guardWf_ok _ hw
    | exact take_ok _ _ rfl hw
    | exact take_ok _ _ (by simp_all) hw

theorem Encoding.sra : ∀ o, Encoding.Statement (.sra o) := by
  intro o p hs rest hw hp he
  cases hp; cases he
  obtain ⟨h0, h1, h2, h3, h4⟩ := encRRR_fields 0x01 7 o
  have hn : (o.na == (3 : BitVec 2)) = false := by
    have := hw
    simp_all [Instr.wf, okC3x, okC3, okC2, okC1, okC0, okCv]
  refine readAt_ctl32 _ _ h0 ?_ rest
  simp only [decodeCtl32, decAlu, h0, h1, h2, h3, h4, hn]
  first
    | exact guardWf_ok _ hw
    | exact take_ok _ _ rfl hw
    | exact take_ok _ _ (by simp_all) hw

theorem Encoding.ror : ∀ o, Encoding.Statement (.ror o) := by
  intro o p hs rest hw hp he
  cases hp; cases he
  obtain ⟨h0, h1, h2, h3, h4⟩ := encRRR_fields 0x01 8 o
  have hn : (o.na == (3 : BitVec 2)) = false := by
    have := hw
    simp_all [Instr.wf, okC3x, okC3, okC2, okC1, okC0, okCv]
  refine readAt_ctl32 _ _ h0 ?_ rest
  simp only [decodeCtl32, decAlu, h0, h1, h2, h3, h4, hn]
  first
    | exact guardWf_ok _ hw
    | exact take_ok _ _ rfl hw
    | exact take_ok _ _ (by simp_all) hw

theorem Encoding.min : ∀ o, Encoding.Statement (.min o) := by
  intro o p hs rest hw hp he
  cases hp; cases he
  obtain ⟨h0, h1, h2, h3, h4⟩ := encRRR_fields 0x01 9 o
  have hn : (o.na == (3 : BitVec 2)) = false := by
    have := hw
    simp_all [Instr.wf, okC3x, okC3, okC2, okC1, okC0, okCv]
  refine readAt_ctl32 _ _ h0 ?_ rest
  simp only [decodeCtl32, decAlu, h0, h1, h2, h3, h4, hn]
  first
    | exact guardWf_ok _ hw
    | exact take_ok _ _ rfl hw
    | exact take_ok _ _ (by simp_all) hw

theorem Encoding.max : ∀ o, Encoding.Statement (.max o) := by
  intro o p hs rest hw hp he
  cases hp; cases he
  obtain ⟨h0, h1, h2, h3, h4⟩ := encRRR_fields 0x01 10 o
  have hn : (o.na == (3 : BitVec 2)) = false := by
    have := hw
    simp_all [Instr.wf, okC3x, okC3, okC2, okC1, okC0, okCv]
  refine readAt_ctl32 _ _ h0 ?_ rest
  simp only [decodeCtl32, decAlu, h0, h1, h2, h3, h4, hn]
  first
    | exact guardWf_ok _ hw
    | exact take_ok _ _ rfl hw
    | exact take_ok _ _ (by simp_all) hw

theorem Encoding.minu : ∀ o, Encoding.Statement (.minu o) := by
  intro o p hs rest hw hp he
  cases hp; cases he
  obtain ⟨h0, h1, h2, h3, h4⟩ := encRRR_fields 0x01 11 o
  have hn : (o.na == (3 : BitVec 2)) = false := by
    have := hw
    simp_all [Instr.wf, okC3x, okC3, okC2, okC1, okC0, okCv]
  refine readAt_ctl32 _ _ h0 ?_ rest
  simp only [decodeCtl32, decAlu, h0, h1, h2, h3, h4, hn]
  first
    | exact guardWf_ok _ hw
    | exact take_ok _ _ rfl hw
    | exact take_ok _ _ (by simp_all) hw

theorem Encoding.maxu : ∀ o, Encoding.Statement (.maxu o) := by
  intro o p hs rest hw hp he
  cases hp; cases he
  obtain ⟨h0, h1, h2, h3, h4⟩ := encRRR_fields 0x01 12 o
  have hn : (o.na == (3 : BitVec 2)) = false := by
    have := hw
    simp_all [Instr.wf, okC3x, okC3, okC2, okC1, okC0, okCv]
  refine readAt_ctl32 _ _ h0 ?_ rest
  simp only [decodeCtl32, decAlu, h0, h1, h2, h3, h4, hn]
  first
    | exact guardWf_ok _ hw
    | exact take_ok _ _ rfl hw
    | exact take_ok _ _ (by simp_all) hw

theorem Encoding.clz : ∀ o, Encoding.Statement (.clz o) := by
  intro o p hs rest hw hp he
  cases hp; cases he
  obtain ⟨h0, h1, h2, h3, h4, h5, h6, h7⟩ := encRR_fields 0x01 13 o
  have hn : (o.na == (3 : BitVec 2)) = false := by
    have := hw
    simp_all [Instr.wf, okC3x, okC3, okC2, okC1, okC0, okCv]
  refine readAt_ctl32 _ _ h0 ?_ rest
  simp only [decodeCtl32, decAlu, h0, h1, h2, h3, h4, h5, h6, h7, hn]
  first
    | exact guardWf_ok _ hw
    | exact take_ok _ _ rfl hw
    | exact take_ok _ _ (by simp_all) hw

theorem Encoding.ctz : ∀ o, Encoding.Statement (.ctz o) := by
  intro o p hs rest hw hp he
  cases hp; cases he
  obtain ⟨h0, h1, h2, h3, h4, h5, h6, h7⟩ := encRR_fields 0x01 14 o
  have hn : (o.na == (3 : BitVec 2)) = false := by
    have := hw
    simp_all [Instr.wf, okC3x, okC3, okC2, okC1, okC0, okCv]
  refine readAt_ctl32 _ _ h0 ?_ rest
  simp only [decodeCtl32, decAlu, h0, h1, h2, h3, h4, h5, h6, h7, hn]
  first
    | exact guardWf_ok _ hw
    | exact take_ok _ _ rfl hw
    | exact take_ok _ _ (by simp_all) hw

theorem Encoding.popc : ∀ o, Encoding.Statement (.popc o) := by
  intro o p hs rest hw hp he
  cases hp; cases he
  obtain ⟨h0, h1, h2, h3, h4, h5, h6, h7⟩ := encRR_fields 0x01 15 o
  have hn : (o.na == (3 : BitVec 2)) = false := by
    have := hw
    simp_all [Instr.wf, okC3x, okC3, okC2, okC1, okC0, okCv]
  refine readAt_ctl32 _ _ h0 ?_ rest
  simp only [decodeCtl32, decAlu, h0, h1, h2, h3, h4, h5, h6, h7, hn]
  first
    | exact guardWf_ok _ hw
    | exact take_ok _ _ rfl hw
    | exact take_ok _ _ (by simp_all) hw

theorem Encoding.sextw : ∀ o, Encoding.Statement (.sextw o) := by
  intro o p hs rest hw hp he
  cases hp; cases he
  obtain ⟨h0, h1, h2, h3, h4, h5, h6, h7⟩ := encRR_fields 0x01 16 o
  have hn : (o.na == (3 : BitVec 2)) = false := by
    have := hw
    simp_all [Instr.wf, okC3x, okC3, okC2, okC1, okC0, okCv]
  refine readAt_ctl32 _ _ h0 ?_ rest
  simp only [decodeCtl32, decAlu, h0, h1, h2, h3, h4, h5, h6, h7, hn]
  first
    | exact guardWf_ok _ hw
    | exact take_ok _ _ rfl hw
    | exact take_ok _ _ (by simp_all) hw

theorem Encoding.zextw : ∀ o, Encoding.Statement (.zextw o) := by
  intro o p hs rest hw hp he
  cases hp; cases he
  obtain ⟨h0, h1, h2, h3, h4, h5, h6, h7⟩ := encRR_fields 0x01 17 o
  have hn : (o.na == (3 : BitVec 2)) = false := by
    have := hw
    simp_all [Instr.wf, okC3x, okC3, okC2, okC1, okC0, okCv]
  refine readAt_ctl32 _ _ h0 ?_ rest
  simp only [decodeCtl32, decAlu, h0, h1, h2, h3, h4, h5, h6, h7, hn]
  first
    | exact guardWf_ok _ hw
    | exact take_ok _ _ rfl hw
    | exact take_ok _ _ (by simp_all) hw

theorem Encoding.mul : ∀ o, Encoding.Statement (.mul o) := by
  intro o p hs rest hw hp he
  cases hp; cases he
  obtain ⟨h0, h1, h2, h3, h4⟩ := encRRR_fields 0x02 0 o
  have hn : (o.na == (3 : BitVec 2)) = false := by
    have := hw
    simp_all [Instr.wf, okC3x, okC3, okC2, okC1, okC0, okCv]
  refine readAt_ctl32 _ _ h0 ?_ rest
  simp only [decodeCtl32, decMul, h0, h1, h2, h3, h4, hn]
  first
    | exact guardWf_ok _ hw
    | exact take_ok _ _ rfl hw
    | exact take_ok _ _ (by simp_all) hw

theorem Encoding.mulh : ∀ o, Encoding.Statement (.mulh o) := by
  intro o p hs rest hw hp he
  cases hp; cases he
  obtain ⟨h0, h1, h2, h3, h4⟩ := encRRR_fields 0x02 1 o
  have hn : (o.na == (3 : BitVec 2)) = false := by
    have := hw
    simp_all [Instr.wf, okC3x, okC3, okC2, okC1, okC0, okCv]
  refine readAt_ctl32 _ _ h0 ?_ rest
  simp only [decodeCtl32, decMul, h0, h1, h2, h3, h4, hn]
  first
    | exact guardWf_ok _ hw
    | exact take_ok _ _ rfl hw
    | exact take_ok _ _ (by simp_all) hw

theorem Encoding.mulhu : ∀ o, Encoding.Statement (.mulhu o) := by
  intro o p hs rest hw hp he
  cases hp; cases he
  obtain ⟨h0, h1, h2, h3, h4⟩ := encRRR_fields 0x02 2 o
  have hn : (o.na == (3 : BitVec 2)) = false := by
    have := hw
    simp_all [Instr.wf, okC3x, okC3, okC2, okC1, okC0, okCv]
  refine readAt_ctl32 _ _ h0 ?_ rest
  simp only [decodeCtl32, decMul, h0, h1, h2, h3, h4, hn]
  first
    | exact guardWf_ok _ hw
    | exact take_ok _ _ rfl hw
    | exact take_ok _ _ (by simp_all) hw

theorem Encoding.mulhsu : ∀ o, Encoding.Statement (.mulhsu o) := by
  intro o p hs rest hw hp he
  cases hp; cases he
  obtain ⟨h0, h1, h2, h3, h4⟩ := encRRR_fields 0x02 3 o
  have hn : (o.na == (3 : BitVec 2)) = false := by
    have := hw
    simp_all [Instr.wf, okC3x, okC3, okC2, okC1, okC0, okCv]
  refine readAt_ctl32 _ _ h0 ?_ rest
  simp only [decodeCtl32, decMul, h0, h1, h2, h3, h4, hn]
  first
    | exact guardWf_ok _ hw
    | exact take_ok _ _ rfl hw
    | exact take_ok _ _ (by simp_all) hw

theorem Encoding.div : ∀ o, Encoding.Statement (.div o) := by
  intro o p hs rest hw hp he
  cases hp; cases he
  obtain ⟨h0, h1, h2, h3, h4⟩ := encRRR_fields 0x02 4 o
  have hn : (o.na == (3 : BitVec 2)) = false := by
    have := hw
    simp_all [Instr.wf, okC3x, okC3, okC2, okC1, okC0, okCv]
  refine readAt_ctl32 _ _ h0 ?_ rest
  simp only [decodeCtl32, decMul, h0, h1, h2, h3, h4, hn]
  first
    | exact guardWf_ok _ hw
    | exact take_ok _ _ rfl hw
    | exact take_ok _ _ (by simp_all) hw

theorem Encoding.divu : ∀ o, Encoding.Statement (.divu o) := by
  intro o p hs rest hw hp he
  cases hp; cases he
  obtain ⟨h0, h1, h2, h3, h4⟩ := encRRR_fields 0x02 5 o
  have hn : (o.na == (3 : BitVec 2)) = false := by
    have := hw
    simp_all [Instr.wf, okC3x, okC3, okC2, okC1, okC0, okCv]
  refine readAt_ctl32 _ _ h0 ?_ rest
  simp only [decodeCtl32, decMul, h0, h1, h2, h3, h4, hn]
  first
    | exact guardWf_ok _ hw
    | exact take_ok _ _ rfl hw
    | exact take_ok _ _ (by simp_all) hw

theorem Encoding.rem : ∀ o, Encoding.Statement (.rem o) := by
  intro o p hs rest hw hp he
  cases hp; cases he
  obtain ⟨h0, h1, h2, h3, h4⟩ := encRRR_fields 0x02 6 o
  have hn : (o.na == (3 : BitVec 2)) = false := by
    have := hw
    simp_all [Instr.wf, okC3x, okC3, okC2, okC1, okC0, okCv]
  refine readAt_ctl32 _ _ h0 ?_ rest
  simp only [decodeCtl32, decMul, h0, h1, h2, h3, h4, hn]
  first
    | exact guardWf_ok _ hw
    | exact take_ok _ _ rfl hw
    | exact take_ok _ _ (by simp_all) hw

theorem Encoding.remu : ∀ o, Encoding.Statement (.remu o) := by
  intro o p hs rest hw hp he
  cases hp; cases he
  obtain ⟨h0, h1, h2, h3, h4⟩ := encRRR_fields 0x02 7 o
  have hn : (o.na == (3 : BitVec 2)) = false := by
    have := hw
    simp_all [Instr.wf, okC3x, okC3, okC2, okC1, okC0, okCv]
  refine readAt_ctl32 _ _ h0 ?_ rest
  simp only [decodeCtl32, decMul, h0, h1, h2, h3, h4, hn]
  first
    | exact guardWf_ok _ hw
    | exact take_ok _ _ rfl hw
    | exact take_ok _ _ (by simp_all) hw

theorem Encoding.addi : ∀ o, Encoding.Statement (.addi o) := by
  intro o p hs rest hw hp he
  cases hp; cases he
  obtain ⟨h0, h1, h2, h3⟩ := encRI_fields 3 o
  have hn : (o.na == (3 : BitVec 2)) = false := by
    have := hw
    simp_all [Instr.wf, okC3x, okC3, okC2, okC1, okC0, okCv]
  refine readAt_ctl32 _ _ h0 ?_ rest
  simp only [decodeCtl32, h0, h1, h2, h3, hn]
  first
    | exact guardWf_ok _ hw
    | exact take_ok _ _ rfl hw
    | exact take_ok _ _ (by simp_all) hw

theorem Encoding.andi : ∀ o, Encoding.Statement (.andi o) := by
  intro o p hs rest hw hp he
  cases hp; cases he
  obtain ⟨h0, h1, h2, h3⟩ := encRI_fields 4 o
  have hn : (o.na == (3 : BitVec 2)) = false := by
    have := hw
    simp_all [Instr.wf, okC3x, okC3, okC2, okC1, okC0, okCv]
  refine readAt_ctl32 _ _ h0 ?_ rest
  simp only [decodeCtl32, h0, h1, h2, h3, hn]
  first
    | exact guardWf_ok _ hw
    | exact take_ok _ _ rfl hw
    | exact take_ok _ _ (by simp_all) hw

theorem Encoding.ori : ∀ o, Encoding.Statement (.ori o) := by
  intro o p hs rest hw hp he
  cases hp; cases he
  obtain ⟨h0, h1, h2, h3⟩ := encRI_fields 5 o
  have hn : (o.na == (3 : BitVec 2)) = false := by
    have := hw
    simp_all [Instr.wf, okC3x, okC3, okC2, okC1, okC0, okCv]
  refine readAt_ctl32 _ _ h0 ?_ rest
  simp only [decodeCtl32, h0, h1, h2, h3, hn]
  first
    | exact guardWf_ok _ hw
    | exact take_ok _ _ rfl hw
    | exact take_ok _ _ (by simp_all) hw

theorem Encoding.xori : ∀ o, Encoding.Statement (.xori o) := by
  intro o p hs rest hw hp he
  cases hp; cases he
  obtain ⟨h0, h1, h2, h3⟩ := encRI_fields 6 o
  have hn : (o.na == (3 : BitVec 2)) = false := by
    have := hw
    simp_all [Instr.wf, okC3x, okC3, okC2, okC1, okC0, okCv]
  refine readAt_ctl32 _ _ h0 ?_ rest
  simp only [decodeCtl32, h0, h1, h2, h3, hn]
  first
    | exact guardWf_ok _ hw
    | exact take_ok _ _ rfl hw
    | exact take_ok _ _ (by simp_all) hw

theorem Encoding.slli : ∀ o, Encoding.Statement (.slli o) := by
  intro o p hs rest hw hp he
  cases hp; cases he
  obtain ⟨h0, h1, h2, h3, h4⟩ := encRSh_fields 0 o
  have hn : (o.na == (3 : BitVec 2)) = false := by
    have := hw
    simp_all [Instr.wf, okC3x, okC3, okC2, okC1, okC0, okCv]
  refine readAt_ctl32 _ _ h0 ?_ rest
  simp only [decodeCtl32, decShift, h0, h1, h2, h3, h4, hn]
  first
    | exact guardWf_ok _ hw
    | exact take_ok _ _ rfl hw
    | exact take_ok _ _ (by simp_all) hw

theorem Encoding.srli : ∀ o, Encoding.Statement (.srli o) := by
  intro o p hs rest hw hp he
  cases hp; cases he
  obtain ⟨h0, h1, h2, h3, h4⟩ := encRSh_fields 1 o
  have hn : (o.na == (3 : BitVec 2)) = false := by
    have := hw
    simp_all [Instr.wf, okC3x, okC3, okC2, okC1, okC0, okCv]
  refine readAt_ctl32 _ _ h0 ?_ rest
  simp only [decodeCtl32, decShift, h0, h1, h2, h3, h4, hn]
  first
    | exact guardWf_ok _ hw
    | exact take_ok _ _ rfl hw
    | exact take_ok _ _ (by simp_all) hw

theorem Encoding.srai : ∀ o, Encoding.Statement (.srai o) := by
  intro o p hs rest hw hp he
  cases hp; cases he
  obtain ⟨h0, h1, h2, h3, h4⟩ := encRSh_fields 2 o
  have hn : (o.na == (3 : BitVec 2)) = false := by
    have := hw
    simp_all [Instr.wf, okC3x, okC3, okC2, okC1, okC0, okCv]
  refine readAt_ctl32 _ _ h0 ?_ rest
  simp only [decodeCtl32, decShift, h0, h1, h2, h3, h4, hn]
  first
    | exact guardWf_ok _ hw
    | exact take_ok _ _ rfl hw
    | exact take_ok _ _ (by simp_all) hw

theorem Encoding.rori : ∀ o, Encoding.Statement (.rori o) := by
  intro o p hs rest hw hp he
  cases hp; cases he
  obtain ⟨h0, h1, h2, h3, h4⟩ := encRSh_fields 3 o
  have hn : (o.na == (3 : BitVec 2)) = false := by
    have := hw
    simp_all [Instr.wf, okC3x, okC3, okC2, okC1, okC0, okCv]
  refine readAt_ctl32 _ _ h0 ?_ rest
  simp only [decodeCtl32, decShift, h0, h1, h2, h3, h4, hn]
  first
    | exact guardWf_ok _ hw
    | exact take_ok _ _ rfl hw
    | exact take_ok _ _ (by simp_all) hw

theorem Encoding.lui : ∀ o, Encoding.Statement (.lui o) := by
  intro o p hs rest hw hp he
  cases hp; cases he
  obtain ⟨h0, h1, h2, h3⟩ := encRU_fields 0x08 o
  have hn : (o.na == (3 : BitVec 2)) = false := by
    have := hw
    simp_all [Instr.wf, okC3x, okC3, okC2, okC1, okC0, okCv]
  refine readAt_ctl32 _ _ h0 ?_ rest
  simp only [decodeCtl32, h0, h1, h2, h3, hn]
  first
    | exact guardWf_ok _ hw
    | exact take_ok _ _ rfl hw
    | exact take_ok _ _ (by simp_all) hw

theorem Encoding.addpc : ∀ o, Encoding.Statement (.addpc o) := by
  intro o p hs rest hw hp he
  cases hp; cases he
  obtain ⟨h0, h1, h2, h3⟩ := encRU_fields 0x09 o
  have hn : (o.na == (3 : BitVec 2)) = false := by
    have := hw
    simp_all [Instr.wf, okC3x, okC3, okC2, okC1, okC0, okCv]
  refine readAt_ctl32 _ _ h0 ?_ rest
  simp only [decodeCtl32, h0, h1, h2, h3, hn]
  first
    | exact guardWf_ok _ hw
    | exact take_ok _ _ rfl hw
    | exact take_ok _ _ (by simp_all) hw

theorem Encoding.cmp : ∀ o, Encoding.Statement (.cmp o) := by
  intro o p hs rest hw hp he
  cases hp; cases he
  obtain ⟨h0, h1, h2, h3, h4⟩ := encRCmp_fields o
  have hn : (o.na == (3 : BitVec 2)) = false := by
    have := hw
    simp_all [Instr.wf, okC3x, okC3, okC2, okC1, okC0, okCv]
  refine readAt_ctl32 _ _ h0 ?_ rest
  simp only [decodeCtl32, h0, h1, h2, h3, h4, hn]
  first
    | exact guardWf_ok _ hw
    | exact take_ok _ _ rfl hw
    | exact take_ok _ _ (by simp_all) hw

theorem Encoding.cmpi : ∀ o, Encoding.Statement (.cmpi o) := by
  intro o p hs rest hw hp he
  cases hp; cases he
  obtain ⟨h0, h1, h2, h3⟩ := encRCmpi_fields o
  have hn : (o.na == (3 : BitVec 2)) = false := by
    have := hw
    simp_all [Instr.wf, okC3x, okC3, okC2, okC1, okC0, okCv]
  refine readAt_ctl32 _ _ h0 ?_ rest
  simp only [decodeCtl32, h0, h1, h2, h3, hn]
  first
    | exact guardWf_ok _ hw
    | exact take_ok _ _ rfl hw
    | exact take_ok _ _ (by simp_all) hw

theorem Encoding.pand : ∀ o, Encoding.Statement (.pand o) := by
  intro o p hs rest hw hp he
  cases hp; cases he
  obtain ⟨h0, h1, h2, h3, h4, h5⟩ := encRPl_fields 0 o
  have hn : (o.na == (3 : BitVec 2)) = false := by
    have := hw
    simp_all [Instr.wf, okC3x, okC3, okC2, okC1, okC0, okCv]
  refine readAt_ctl32 _ _ h0 ?_ rest
  simp only [decodeCtl32, decPred, h0, h1, h2, h3, h4, h5, hn]
  first
    | exact guardWf_ok _ hw
    | exact take_ok _ _ rfl hw
    | exact take_ok _ _ (by simp_all) hw

theorem Encoding.por : ∀ o, Encoding.Statement (.por o) := by
  intro o p hs rest hw hp he
  cases hp; cases he
  obtain ⟨h0, h1, h2, h3, h4, h5⟩ := encRPl_fields 1 o
  have hn : (o.na == (3 : BitVec 2)) = false := by
    have := hw
    simp_all [Instr.wf, okC3x, okC3, okC2, okC1, okC0, okCv]
  refine readAt_ctl32 _ _ h0 ?_ rest
  simp only [decodeCtl32, decPred, h0, h1, h2, h3, h4, h5, hn]
  first
    | exact guardWf_ok _ hw
    | exact take_ok _ _ rfl hw
    | exact take_ok _ _ (by simp_all) hw

theorem Encoding.pxor : ∀ o, Encoding.Statement (.pxor o) := by
  intro o p hs rest hw hp he
  cases hp; cases he
  obtain ⟨h0, h1, h2, h3, h4, h5⟩ := encRPl_fields 2 o
  have hn : (o.na == (3 : BitVec 2)) = false := by
    have := hw
    simp_all [Instr.wf, okC3x, okC3, okC2, okC1, okC0, okCv]
  refine readAt_ctl32 _ _ h0 ?_ rest
  simp only [decodeCtl32, decPred, h0, h1, h2, h3, h4, h5, hn]
  first
    | exact guardWf_ok _ hw
    | exact take_ok _ _ rfl hw
    | exact take_ok _ _ (by simp_all) hw

theorem Encoding.pandn : ∀ o, Encoding.Statement (.pandn o) := by
  intro o p hs rest hw hp he
  cases hp; cases he
  obtain ⟨h0, h1, h2, h3, h4, h5⟩ := encRPl_fields 3 o
  have hn : (o.na == (3 : BitVec 2)) = false := by
    have := hw
    simp_all [Instr.wf, okC3x, okC3, okC2, okC1, okC0, okCv]
  refine readAt_ctl32 _ _ h0 ?_ rest
  simp only [decodeCtl32, decPred, h0, h1, h2, h3, h4, h5, hn]
  first
    | exact guardWf_ok _ hw
    | exact take_ok _ _ rfl hw
    | exact take_ok _ _ (by simp_all) hw

theorem Encoding.porn : ∀ o, Encoding.Statement (.porn o) := by
  intro o p hs rest hw hp he
  cases hp; cases he
  obtain ⟨h0, h1, h2, h3, h4, h5⟩ := encRPl_fields 4 o
  have hn : (o.na == (3 : BitVec 2)) = false := by
    have := hw
    simp_all [Instr.wf, okC3x, okC3, okC2, okC1, okC0, okCv]
  refine readAt_ctl32 _ _ h0 ?_ rest
  simp only [decodeCtl32, decPred, h0, h1, h2, h3, h4, h5, hn]
  first
    | exact guardWf_ok _ hw
    | exact take_ok _ _ rfl hw
    | exact take_ok _ _ (by simp_all) hw

theorem Encoding.pnot : ∀ o, Encoding.Statement (.pnot o) := by
  intro o p hs rest hw hp he
  cases hp; cases he
  obtain ⟨h0, h1, h2, h3, h4, h5, h6⟩ := encRPn_fields o
  have hn : (o.na == (3 : BitVec 2)) = false := by
    have := hw
    simp_all [Instr.wf]
  refine readAt_ctl32 _ _ h0 ?_ rest
  simp only [decodeCtl32, decPred, h0, h1, h2, h3, h4, h5, h6, hn]
  exact take_ok _ _ rfl hw

theorem Encoding.csel : ∀ o, Encoding.Statement (.csel o) := by
  intro o p hs rest hw hp he
  cases hp; cases he
  obtain ⟨h0, h1, h2, h3, h4⟩ := encRSel_fields o
  have hn : (o.na == (3 : BitVec 2)) = false := by
    have := hw
    simp_all [Instr.wf, okC3x, okC3, okC2, okC1, okC0, okCv]
  refine readAt_ctl32 _ _ h0 ?_ rest
  simp only [decodeCtl32, h0, h1, h2, h3, h4, hn]
  first
    | exact guardWf_ok _ hw
    | exact take_ok _ _ rfl hw
    | exact take_ok _ _ (by simp_all) hw

theorem Encoding.ldb : ∀ o, Encoding.Statement (.ldb o) := by
  intro o p hs rest hw hp he
  cases hp; cases he
  obtain ⟨h0, h1, h2, h3⟩ := encRI_fields 0x10 o
  have hn : (o.na == (3 : BitVec 2)) = false := by
    have := hw
    simp_all [Instr.wf, okC3x, okC3, okC2, okC1, okC0, okCv]
  refine readAt_ctl32 _ _ h0 ?_ rest
  simp only [decodeCtl32, h0, h1, h2, h3, hn]
  first
    | exact guardWf_ok _ hw
    | exact take_ok _ _ rfl hw
    | exact take_ok _ _ (by simp_all) hw

theorem Encoding.ldh : ∀ o, Encoding.Statement (.ldh o) := by
  intro o p hs rest hw hp he
  cases hp; cases he
  obtain ⟨h0, h1, h2, h3⟩ := encRI_fields 0x11 o
  have hn : (o.na == (3 : BitVec 2)) = false := by
    have := hw
    simp_all [Instr.wf, okC3x, okC3, okC2, okC1, okC0, okCv]
  refine readAt_ctl32 _ _ h0 ?_ rest
  simp only [decodeCtl32, h0, h1, h2, h3, hn]
  first
    | exact guardWf_ok _ hw
    | exact take_ok _ _ rfl hw
    | exact take_ok _ _ (by simp_all) hw

theorem Encoding.ldw : ∀ o, Encoding.Statement (.ldw o) := by
  intro o p hs rest hw hp he
  cases hp; cases he
  obtain ⟨h0, h1, h2, h3⟩ := encRI_fields 0x12 o
  have hn : (o.na == (3 : BitVec 2)) = false := by
    have := hw
    simp_all [Instr.wf, okC3x, okC3, okC2, okC1, okC0, okCv]
  refine readAt_ctl32 _ _ h0 ?_ rest
  simp only [decodeCtl32, h0, h1, h2, h3, hn]
  first
    | exact guardWf_ok _ hw
    | exact take_ok _ _ rfl hw
    | exact take_ok _ _ (by simp_all) hw

theorem Encoding.ldd : ∀ o, Encoding.Statement (.ldd o) := by
  intro o p hs rest hw hp he
  cases hp; cases he
  obtain ⟨h0, h1, h2, h3⟩ := encRI_fields 0x13 o
  have hn : (o.na == (3 : BitVec 2)) = false := by
    have := hw
    simp_all [Instr.wf, okC3x, okC3, okC2, okC1, okC0, okCv]
  refine readAt_ctl32 _ _ h0 ?_ rest
  simp only [decodeCtl32, h0, h1, h2, h3, hn]
  first
    | exact guardWf_ok _ hw
    | exact take_ok _ _ rfl hw
    | exact take_ok _ _ (by simp_all) hw

theorem Encoding.ldbu : ∀ o, Encoding.Statement (.ldbu o) := by
  intro o p hs rest hw hp he
  cases hp; cases he
  obtain ⟨h0, h1, h2, h3⟩ := encRI_fields 0x14 o
  have hn : (o.na == (3 : BitVec 2)) = false := by
    have := hw
    simp_all [Instr.wf, okC3x, okC3, okC2, okC1, okC0, okCv]
  refine readAt_ctl32 _ _ h0 ?_ rest
  simp only [decodeCtl32, h0, h1, h2, h3, hn]
  first
    | exact guardWf_ok _ hw
    | exact take_ok _ _ rfl hw
    | exact take_ok _ _ (by simp_all) hw

theorem Encoding.ldhu : ∀ o, Encoding.Statement (.ldhu o) := by
  intro o p hs rest hw hp he
  cases hp; cases he
  obtain ⟨h0, h1, h2, h3⟩ := encRI_fields 0x15 o
  have hn : (o.na == (3 : BitVec 2)) = false := by
    have := hw
    simp_all [Instr.wf, okC3x, okC3, okC2, okC1, okC0, okCv]
  refine readAt_ctl32 _ _ h0 ?_ rest
  simp only [decodeCtl32, h0, h1, h2, h3, hn]
  first
    | exact guardWf_ok _ hw
    | exact take_ok _ _ rfl hw
    | exact take_ok _ _ (by simp_all) hw

theorem Encoding.ldwu : ∀ o, Encoding.Statement (.ldwu o) := by
  intro o p hs rest hw hp he
  cases hp; cases he
  obtain ⟨h0, h1, h2, h3⟩ := encRI_fields 0x16 o
  have hn : (o.na == (3 : BitVec 2)) = false := by
    have := hw
    simp_all [Instr.wf, okC3x, okC3, okC2, okC1, okC0, okCv]
  refine readAt_ctl32 _ _ h0 ?_ rest
  simp only [decodeCtl32, h0, h1, h2, h3, hn]
  first
    | exact guardWf_ok _ hw
    | exact take_ok _ _ rfl hw
    | exact take_ok _ _ (by simp_all) hw

theorem Encoding.stb : ∀ o, Encoding.Statement (.stb o) := by
  intro o p hs rest hw hp he
  cases hp; cases he
  obtain ⟨h0, h1, h2, h3⟩ := encRSt_fields 0x18 o
  have hn : (o.na == (3 : BitVec 2)) = false := by
    have := hw
    simp_all [Instr.wf, okC3x, okC3, okC2, okC1, okC0, okCv]
  refine readAt_ctl32 _ _ h0 ?_ rest
  simp only [decodeCtl32, h0, h1, h2, h3, hn]
  first
    | exact guardWf_ok _ hw
    | exact take_ok _ _ rfl hw
    | exact take_ok _ _ (by simp_all) hw

theorem Encoding.sth : ∀ o, Encoding.Statement (.sth o) := by
  intro o p hs rest hw hp he
  cases hp; cases he
  obtain ⟨h0, h1, h2, h3⟩ := encRSt_fields 0x19 o
  have hn : (o.na == (3 : BitVec 2)) = false := by
    have := hw
    simp_all [Instr.wf, okC3x, okC3, okC2, okC1, okC0, okCv]
  refine readAt_ctl32 _ _ h0 ?_ rest
  simp only [decodeCtl32, h0, h1, h2, h3, hn]
  first
    | exact guardWf_ok _ hw
    | exact take_ok _ _ rfl hw
    | exact take_ok _ _ (by simp_all) hw

theorem Encoding.stw : ∀ o, Encoding.Statement (.stw o) := by
  intro o p hs rest hw hp he
  cases hp; cases he
  obtain ⟨h0, h1, h2, h3⟩ := encRSt_fields 0x1a o
  have hn : (o.na == (3 : BitVec 2)) = false := by
    have := hw
    simp_all [Instr.wf, okC3x, okC3, okC2, okC1, okC0, okCv]
  refine readAt_ctl32 _ _ h0 ?_ rest
  simp only [decodeCtl32, h0, h1, h2, h3, hn]
  first
    | exact guardWf_ok _ hw
    | exact take_ok _ _ rfl hw
    | exact take_ok _ _ (by simp_all) hw

theorem Encoding.std : ∀ o, Encoding.Statement (.std o) := by
  intro o p hs rest hw hp he
  cases hp; cases he
  obtain ⟨h0, h1, h2, h3⟩ := encRSt_fields 0x1b o
  have hn : (o.na == (3 : BitVec 2)) = false := by
    have := hw
    simp_all [Instr.wf, okC3x, okC3, okC2, okC1, okC0, okCv]
  refine readAt_ctl32 _ _ h0 ?_ rest
  simp only [decodeCtl32, h0, h1, h2, h3, hn]
  first
    | exact guardWf_ok _ hw
    | exact take_ok _ _ rfl hw
    | exact take_ok _ _ (by simp_all) hw

theorem Encoding.amoadd : ∀ o, Encoding.Statement (.amoadd o) := by
  intro o p hs rest hw hp he
  cases hp; cases he
  obtain ⟨h0, h1, h2, h3⟩ := encRAmo_fields 0x20 o
  have hn : (o.na == (3 : BitVec 2)) = false := by
    have := hw
    simp_all [Instr.wf, okC3x, okC3, okC2, okC1, okC0, okCv]
  refine readAt_ctl32 _ _ h0 ?_ rest
  simp only [decodeCtl32, h0, h1, h2, h3, hn]
  first
    | exact guardWf_ok _ hw
    | exact take_ok _ _ rfl hw
    | exact take_ok _ _ (by simp_all) hw

theorem Encoding.amoand : ∀ o, Encoding.Statement (.amoand o) := by
  intro o p hs rest hw hp he
  cases hp; cases he
  obtain ⟨h0, h1, h2, h3⟩ := encRAmo_fields 0x21 o
  have hn : (o.na == (3 : BitVec 2)) = false := by
    have := hw
    simp_all [Instr.wf, okC3x, okC3, okC2, okC1, okC0, okCv]
  refine readAt_ctl32 _ _ h0 ?_ rest
  simp only [decodeCtl32, h0, h1, h2, h3, hn]
  first
    | exact guardWf_ok _ hw
    | exact take_ok _ _ rfl hw
    | exact take_ok _ _ (by simp_all) hw

theorem Encoding.amoor : ∀ o, Encoding.Statement (.amoor o) := by
  intro o p hs rest hw hp he
  cases hp; cases he
  obtain ⟨h0, h1, h2, h3⟩ := encRAmo_fields 0x22 o
  have hn : (o.na == (3 : BitVec 2)) = false := by
    have := hw
    simp_all [Instr.wf, okC3x, okC3, okC2, okC1, okC0, okCv]
  refine readAt_ctl32 _ _ h0 ?_ rest
  simp only [decodeCtl32, h0, h1, h2, h3, hn]
  first
    | exact guardWf_ok _ hw
    | exact take_ok _ _ rfl hw
    | exact take_ok _ _ (by simp_all) hw

theorem Encoding.amoxor : ∀ o, Encoding.Statement (.amoxor o) := by
  intro o p hs rest hw hp he
  cases hp; cases he
  obtain ⟨h0, h1, h2, h3⟩ := encRAmo_fields 0x23 o
  have hn : (o.na == (3 : BitVec 2)) = false := by
    have := hw
    simp_all [Instr.wf, okC3x, okC3, okC2, okC1, okC0, okCv]
  refine readAt_ctl32 _ _ h0 ?_ rest
  simp only [decodeCtl32, h0, h1, h2, h3, hn]
  first
    | exact guardWf_ok _ hw
    | exact take_ok _ _ rfl hw
    | exact take_ok _ _ (by simp_all) hw

theorem Encoding.amomin : ∀ o, Encoding.Statement (.amomin o) := by
  intro o p hs rest hw hp he
  cases hp; cases he
  obtain ⟨h0, h1, h2, h3⟩ := encRAmo_fields 0x24 o
  have hn : (o.na == (3 : BitVec 2)) = false := by
    have := hw
    simp_all [Instr.wf, okC3x, okC3, okC2, okC1, okC0, okCv]
  refine readAt_ctl32 _ _ h0 ?_ rest
  simp only [decodeCtl32, h0, h1, h2, h3, hn]
  first
    | exact guardWf_ok _ hw
    | exact take_ok _ _ rfl hw
    | exact take_ok _ _ (by simp_all) hw

theorem Encoding.amomax : ∀ o, Encoding.Statement (.amomax o) := by
  intro o p hs rest hw hp he
  cases hp; cases he
  obtain ⟨h0, h1, h2, h3⟩ := encRAmo_fields 0x25 o
  have hn : (o.na == (3 : BitVec 2)) = false := by
    have := hw
    simp_all [Instr.wf, okC3x, okC3, okC2, okC1, okC0, okCv]
  refine readAt_ctl32 _ _ h0 ?_ rest
  simp only [decodeCtl32, h0, h1, h2, h3, hn]
  first
    | exact guardWf_ok _ hw
    | exact take_ok _ _ rfl hw
    | exact take_ok _ _ (by simp_all) hw

theorem Encoding.amoswap : ∀ o, Encoding.Statement (.amoswap o) := by
  intro o p hs rest hw hp he
  cases hp; cases he
  obtain ⟨h0, h1, h2, h3⟩ := encRAmo_fields 0x26 o
  have hn : (o.na == (3 : BitVec 2)) = false := by
    have := hw
    simp_all [Instr.wf, okC3x, okC3, okC2, okC1, okC0, okCv]
  refine readAt_ctl32 _ _ h0 ?_ rest
  simp only [decodeCtl32, h0, h1, h2, h3, hn]
  first
    | exact guardWf_ok _ hw
    | exact take_ok _ _ rfl hw
    | exact take_ok _ _ (by simp_all) hw

theorem Encoding.amocas : ∀ o, Encoding.Statement (.amocas o) := by
  intro o p hs rest hw hp he
  cases hp; cases he
  obtain ⟨h0, h1, h2, h3⟩ := encRAmo_fields 0x27 o
  have hn : (o.na == (3 : BitVec 2)) = false := by
    have := hw
    simp_all [Instr.wf, okC3x, okC3, okC2, okC1, okC0, okCv]
  refine readAt_ctl32 _ _ h0 ?_ rest
  simp only [decodeCtl32, h0, h1, h2, h3, hn]
  first
    | exact guardWf_ok _ hw
    | exact take_ok _ _ rfl hw
    | exact take_ok _ _ (by simp_all) hw

theorem Encoding.fenceAcq : ∀ o, Encoding.Statement (.fenceAcq o) := by
  intro o p hs rest hw hp he
  cases hp; cases he
  obtain ⟨h0, h1, h2, h3, h4, h5⟩ := encRFence_fields 0 o
  have hn : (o.na == (3 : BitVec 2)) = false := by
    have := hw
    simp_all [Instr.wf, okC3x, okC3, okC2, okC1, okC0, okCv]
  refine readAt_ctl32 _ _ h0 ?_ rest
  simp only [decodeCtl32, decFence, h0, h1, h2, h3, h4, h5, hn]
  first
    | exact guardWf_ok _ hw
    | exact take_ok _ _ rfl hw
    | exact take_ok _ _ (by simp_all) hw

theorem Encoding.fenceRel : ∀ o, Encoding.Statement (.fenceRel o) := by
  intro o p hs rest hw hp he
  cases hp; cases he
  obtain ⟨h0, h1, h2, h3, h4, h5⟩ := encRFence_fields 1 o
  have hn : (o.na == (3 : BitVec 2)) = false := by
    have := hw
    simp_all [Instr.wf, okC3x, okC3, okC2, okC1, okC0, okCv]
  refine readAt_ctl32 _ _ h0 ?_ rest
  simp only [decodeCtl32, decFence, h0, h1, h2, h3, h4, h5, hn]
  first
    | exact guardWf_ok _ hw
    | exact take_ok _ _ rfl hw
    | exact take_ok _ _ (by simp_all) hw

theorem Encoding.fenceFull : ∀ o, Encoding.Statement (.fenceFull o) := by
  intro o p hs rest hw hp he
  cases hp; cases he
  obtain ⟨h0, h1, h2, h3, h4, h5⟩ := encRFence_fields 2 o
  have hn : (o.na == (3 : BitVec 2)) = false := by
    have := hw
    simp_all [Instr.wf, okC3x, okC3, okC2, okC1, okC0, okCv]
  refine readAt_ctl32 _ _ h0 ?_ rest
  simp only [decodeCtl32, decFence, h0, h1, h2, h3, h4, h5, hn]
  first
    | exact guardWf_ok _ hw
    | exact take_ok _ _ rfl hw
    | exact take_ok _ _ (by simp_all) hw

theorem Encoding.enqLde : ∀ o, Encoding.Statement (.enqLde o) := by
  intro o p hs rest hw hp he
  cases hp; cases he
  obtain ⟨h0, h1, h2, h3⟩ := encREnq_fields 0x29 o
  have hn : (o.na == (3 : BitVec 2)) = false := by
    have := hw
    simp_all [Instr.wf, okC3x, okC3, okC2, okC1, okC0, okCv]
  refine readAt_ctl32 _ _ h0 ?_ rest
  simp only [decodeCtl32, h0, h1, h2, h3, hn]
  first
    | exact guardWf_ok _ hw
    | exact take_ok _ _ rfl hw
    | exact take_ok _ _ (by simp_all) hw

theorem Encoding.enqAre : ∀ o, Encoding.Statement (.enqAre o) := by
  intro o p hs rest hw hp he
  cases hp; cases he
  obtain ⟨h0, h1, h2, h3⟩ := encREnq_fields 0x2a o
  have hn : (o.na == (3 : BitVec 2)) = false := by
    have := hw
    simp_all [Instr.wf, okC3x, okC3, okC2, okC1, okC0, okCv]
  refine readAt_ctl32 _ _ h0 ?_ rest
  simp only [decodeCtl32, h0, h1, h2, h3, hn]
  first
    | exact guardWf_ok _ hw
    | exact take_ok _ _ rfl hw
    | exact take_ok _ _ (by simp_all) hw

theorem Encoding.enqSte : ∀ o, Encoding.Statement (.enqSte o) := by
  intro o p hs rest hw hp he
  cases hp; cases he
  obtain ⟨h0, h1, h2, h3⟩ := encREnq_fields 0x2b o
  have hn : (o.na == (3 : BitVec 2)) = false := by
    have := hw
    simp_all [Instr.wf, okC3x, okC3, okC2, okC1, okC0, okCv]
  refine readAt_ctl32 _ _ h0 ?_ rest
  simp only [decodeCtl32, h0, h1, h2, h3, hn]
  first
    | exact guardWf_ok _ hw
    | exact take_ok _ _ rfl hw
    | exact take_ok _ _ (by simp_all) hw

theorem Encoding.enqMxe : ∀ o, Encoding.Statement (.enqMxe o) := by
  intro o p hs rest hw hp he
  cases hp; cases he
  obtain ⟨h0, h1, h2, h3⟩ := encREnq_fields 0x2c o
  have hn : (o.na == (3 : BitVec 2)) = false := by
    have := hw
    simp_all [Instr.wf, okC3x, okC3, okC2, okC1, okC0, okCv]
  refine readAt_ctl32 _ _ h0 ?_ rest
  simp only [decodeCtl32, h0, h1, h2, h3, hn]
  first
    | exact guardWf_ok _ hw
    | exact take_ok _ _ rfl hw
    | exact take_ok _ _ (by simp_all) hw

theorem Encoding.enqCpe : ∀ o, Encoding.Statement (.enqCpe o) := by
  intro o p hs rest hw hp he
  cases hp; cases he
  obtain ⟨h0, h1, h2, h3⟩ := encREnq_fields 0x2d o
  have hn : (o.na == (3 : BitVec 2)) = false := by
    have := hw
    simp_all [Instr.wf, okC3x, okC3, okC2, okC1, okC0, okCv]
  refine readAt_ctl32 _ _ h0 ?_ rest
  simp only [decodeCtl32, h0, h1, h2, h3, hn]
  first
    | exact guardWf_ok _ hw
    | exact take_ok _ _ rfl hw
    | exact take_ok _ _ (by simp_all) hw

theorem Encoding.enqCoe : ∀ o, Encoding.Statement (.enqCoe o) := by
  intro o p hs rest hw hp he
  cases hp; cases he
  obtain ⟨h0, h1, h2, h3⟩ := encREnq_fields 0x2e o
  have hn : (o.na == (3 : BitVec 2)) = false := by
    have := hw
    simp_all [Instr.wf, okC3x, okC3, okC2, okC1, okC0, okCv]
  refine readAt_ctl32 _ _ h0 ?_ rest
  simp only [decodeCtl32, h0, h1, h2, h3, hn]
  first
    | exact guardWf_ok _ hw
    | exact take_ok _ _ rfl hw
    | exact take_ok _ _ (by simp_all) hw

theorem Encoding.tsig : ∀ o, Encoding.Statement (.tsig o) := by
  intro o p hs rest hw hp he
  cases hp; cases he
  obtain ⟨h0, h1, h2, h3, h4, h5, h6, h7, h8⟩ := encRA_fields 0x30 0 o
  have hn : (o.na == (3 : BitVec 2)) = false := by
    have := hw
    simp_all [Instr.wf, okC3x, okC3, okC2, okC1, okC0, okCv]
  refine readAt_ctl32 _ _ h0 ?_ rest
  simp only [decodeCtl32, decSys, h0, h1, h2, h3, h4, h5, h6, h7, h8, hn]
  first
    | exact guardWf_ok _ hw
    | exact take_ok _ _ rfl hw
    | exact take_ok _ _ (by simp_all) hw

theorem Encoding.twait : ∀ o, Encoding.Statement (.twait o) := by
  intro o p hs rest hw hp he
  cases hp; cases he
  obtain ⟨h0, h1, h2, h3, h4, h5, h6, h7, h8⟩ := encRA_fields 0x30 4 o
  have hn : (o.na == (3 : BitVec 2)) = false := by
    have := hw
    simp_all [Instr.wf, okC3x, okC3, okC2, okC1, okC0, okCv]
  refine readAt_ctl32 _ _ h0 ?_ rest
  simp only [decodeCtl32, decSys, h0, h1, h2, h3, h4, h5, h6, h7, h8, hn]
  first
    | exact guardWf_ok _ hw
    | exact take_ok _ _ rfl hw
    | exact take_ok _ _ (by simp_all) hw

theorem Encoding.semset : ∀ o, Encoding.Statement (.semset o) := by
  intro o p hs rest hw hp he
  cases hp; cases he
  obtain ⟨h0, h1, h2, h3, h4, h5, h6, h7⟩ := encRR_fields 0x31 0 o
  have hn : (o.na == (3 : BitVec 2)) = false := by
    have := hw
    simp_all [Instr.wf, okC3x, okC3, okC2, okC1, okC0, okCv]
  refine readAt_ctl32 _ _ h0 ?_ rest
  simp only [decodeCtl32, decSys, h0, h1, h2, h3, h4, h5, h6, h7, hn]
  first
    | exact guardWf_ok _ hw
    | exact take_ok _ _ rfl hw
    | exact take_ok _ _ (by simp_all) hw

theorem Encoding.semadd : ∀ o, Encoding.Statement (.semadd o) := by
  intro o p hs rest hw hp he
  cases hp; cases he
  obtain ⟨h0, h1, h2, h3, h4, h5, h6, h7⟩ := encRR_fields 0x31 4 o
  have hn : (o.na == (3 : BitVec 2)) = false := by
    have := hw
    simp_all [Instr.wf, okC3x, okC3, okC2, okC1, okC0, okCv]
  refine readAt_ctl32 _ _ h0 ?_ rest
  simp only [decodeCtl32, decSys, h0, h1, h2, h3, h4, h5, h6, h7, hn]
  first
    | exact guardWf_ok _ hw
    | exact take_ok _ _ rfl hw
    | exact take_ok _ _ (by simp_all) hw

theorem Encoding.semwait : ∀ o, Encoding.Statement (.semwait o) := by
  intro o p hs rest hw hp he
  cases hp; cases he
  obtain ⟨h0, h1, h2, h3, h4, h5, h6, h7⟩ := encRR_fields 0x31 8 o
  have hn : (o.na == (3 : BitVec 2)) = false := by
    have := hw
    simp_all [Instr.wf, okC3x, okC3, okC2, okC1, okC0, okCv]
  refine readAt_ctl32 _ _ h0 ?_ rest
  simp only [decodeCtl32, decSys, h0, h1, h2, h3, h4, h5, h6, h7, hn]
  first
    | exact guardWf_ok _ hw
    | exact take_ok _ _ rfl hw
    | exact take_ok _ _ (by simp_all) hw

theorem Encoding.semwaitSusp : ∀ o, Encoding.Statement (.semwaitSusp o) := by
  intro o p hs rest hw hp he
  cases hp; cases he
  obtain ⟨h0, h1, h2, h3, h4, h5, h6, h7⟩ := encRR_fields 0x31 10 o
  have hn : (o.na == (3 : BitVec 2)) = false := by
    have := hw
    simp_all [Instr.wf, okC3x, okC3, okC2, okC1, okC0, okCv]
  refine readAt_ctl32 _ _ h0 ?_ rest
  simp only [decodeCtl32, decSys, h0, h1, h2, h3, h4, h5, h6, h7, hn]
  first
    | exact guardWf_ok _ hw
    | exact take_ok _ _ rfl hw
    | exact take_ok _ _ (by simp_all) hw

theorem Encoding.pop : ∀ o, Encoding.Statement (.pop o) := by
  intro o p hs rest hw hp he
  cases hp; cases he
  obtain ⟨h0, h1, h2, h3, h4, h5, h6, h7⟩ := encRPop_fields o
  have hn : (o.na == (3 : BitVec 2)) = false := by
    have := hw
    simp_all [Instr.wf, okC3x, okC3, okC2, okC1, okC0, okCv]
  refine readAt_ctl32 _ _ h0 ?_ rest
  simp only [decodeCtl32, decSys, h0, h1, h2, h3, h4, h5, h6, h7, hn]
  have hq := o.q.isLt
  simp only [BitVec.toNat_ofNat, ge_iff_le, show ¬ (4 ≤ o.q.toNat) by omega]
  exact take_ok _ _ rfl hw

theorem Encoding.popNb : ∀ o, Encoding.Statement (.popNb o) := by
  intro o p hs rest hw hp he
  cases hp; cases he
  obtain ⟨h0, h1, h2, h3, h4, h5, h6, h7, h8, h9⟩ := encRPopNb_fields o
  have hn : (o.na == (3 : BitVec 2)) = false := by
    have := hw
    simp_all [Instr.wf, okC3x, okC3, okC2, okC1, okC0, okCv]
  refine readAt_ctl32 _ _ h0 ?_ rest
  simp only [decodeCtl32, decSys, h0, h1, h2, h3, h4, h5, h6, h7, h8, h9, hn]
  have hq := o.q.isLt
  simp only [BitVec.toNat_ofNat, ge_iff_le, show ¬ (4 ≤ o.q.toNat) by omega]
  exact take_ok _ _ rfl hw

theorem Encoding.mlease : ∀ o, Encoding.Statement (.mlease o) := by
  intro o p hs rest hw hp he
  cases hp; cases he
  obtain ⟨h0, h1, h2, h3, h4, h5, h6, h7⟩ := encRN_fields 0x33 0 o
  have hn : (o.na == (3 : BitVec 2)) = false := by
    have := hw
    simp_all [Instr.wf, okC3x, okC3, okC2, okC1, okC0, okCv]
  refine readAt_ctl32 _ _ h0 ?_ rest
  simp only [decodeCtl32, decSys, h0, h1, h2, h3, h4, h5, h6, h7, hn]
  first
    | exact guardWf_ok _ hw
    | exact take_ok _ _ rfl hw
    | exact take_ok _ _ (by simp_all) hw

theorem Encoding.mrlse : ∀ o, Encoding.Statement (.mrlse o) := by
  intro o p hs rest hw hp he
  cases hp; cases he
  obtain ⟨h0, h1, h2, h3, h4, h5, h6, h7⟩ := encRN_fields 0x33 4 o
  have hn : (o.na == (3 : BitVec 2)) = false := by
    have := hw
    simp_all [Instr.wf, okC3x, okC3, okC2, okC1, okC0, okCv]
  refine readAt_ctl32 _ _ h0 ?_ rest
  simp only [decodeCtl32, decSys, h0, h1, h2, h3, h4, h5, h6, h7, hn]
  first
    | exact guardWf_ok _ hw
    | exact take_ok _ _ rfl hw
    | exact take_ok _ _ (by simp_all) hw

theorem Encoding.split : ∀ o, Encoding.Statement (.split o) := by
  intro o p hs rest hw hp he
  cases hp; cases he
  obtain ⟨h0, h1, h2, h3, h4, h5, h6, h7, h8⟩ := encRA_fields 0x34 0 o
  have hn : (o.na == (3 : BitVec 2)) = false := by
    have := hw
    simp_all [Instr.wf, okC3x, okC3, okC2, okC1, okC0, okCv]
  refine readAt_ctl32 _ _ h0 ?_ rest
  simp only [decodeCtl32, decSys, h0, h1, h2, h3, h4, h5, h6, h7, h8, hn]
  first
    | exact guardWf_ok _ hw
    | exact take_ok _ _ rfl hw
    | exact take_ok _ _ (by simp_all) hw

theorem Encoding.fuse : ∀ o, Encoding.Statement (.fuse o) := by
  intro o p hs rest hw hp he
  cases hp; cases he
  obtain ⟨h0, h1, h2, h3, h4, h5, h6, h7, h8⟩ := encRA_fields 0x34 4 o
  have hn : (o.na == (3 : BitVec 2)) = false := by
    have := hw
    simp_all [Instr.wf, okC3x, okC3, okC2, okC1, okC0, okCv]
  refine readAt_ctl32 _ _ h0 ?_ rest
  simp only [decodeCtl32, decSys, h0, h1, h2, h3, h4, h5, h6, h7, h8, hn]
  first
    | exact guardWf_ok _ hw
    | exact take_ok _ _ rfl hw
    | exact take_ok _ _ (by simp_all) hw

theorem Encoding.chain : ∀ o, Encoding.Statement (.chain o) := by
  intro o p hs rest hw hp he
  cases hp; cases he
  obtain ⟨h0, h1, h2, h3, h4, h5, h6, h7, h8⟩ := encRAB_fields 0x34 8 o
  have hn : (o.na == (3 : BitVec 2)) = false := by
    have := hw
    simp_all [Instr.wf, okC3x, okC3, okC2, okC1, okC0, okCv]
  refine readAt_ctl32 _ _ h0 ?_ rest
  simp only [decodeCtl32, decSys, h0, h1, h2, h3, h4, h5, h6, h7, h8, hn]
  first
    | exact guardWf_ok _ hw
    | exact take_ok _ _ rfl hw
    | exact take_ok _ _ (by simp_all) hw

theorem Encoding.unchain : ∀ o, Encoding.Statement (.unchain o) := by
  intro o p hs rest hw hp he
  cases hp; cases he
  obtain ⟨h0, h1, h2, h3, h4, h5, h6, h7, h8⟩ := encRA_fields 0x34 12 o
  have hn : (o.na == (3 : BitVec 2)) = false := by
    have := hw
    simp_all [Instr.wf, okC3x, okC3, okC2, okC1, okC0, okCv]
  refine readAt_ctl32 _ _ h0 ?_ rest
  simp only [decodeCtl32, decSys, h0, h1, h2, h3, h4, h5, h6, h7, h8, hn]
  first
    | exact guardWf_ok _ hw
    | exact take_ok _ _ rfl hw
    | exact take_ok _ _ (by simp_all) hw

theorem Encoding.arv : ∀ o, Encoding.Statement (.arv o) := by
  intro o p hs rest hw hp he
  cases hp; cases he
  obtain ⟨h0, h1, h2, h3, h4, h5⟩ := encRScope_fields 0 o
  have hn : (o.na == (3 : BitVec 2)) = false := by
    have := hw
    simp_all [Instr.wf, okC3x, okC3, okC2, okC1, okC0, okCv]
  refine readAt_ctl32 _ _ h0 ?_ rest
  simp only [decodeCtl32, decSys, h0, h1, h2, h3, h4, h5, hn]
  first
    | exact guardWf_ok _ hw
    | exact take_ok _ _ rfl hw
    | exact take_ok _ _ (by simp_all) hw

theorem Encoding.wtb : ∀ o, Encoding.Statement (.wtb o) := by
  intro o p hs rest hw hp he
  cases hp; cases he
  obtain ⟨h0, h1, h2, h3, h4, h5⟩ := encRScope_fields 1 o
  have hn : (o.na == (3 : BitVec 2)) = false := by
    have := hw
    simp_all [Instr.wf, okC3x, okC3, okC2, okC1, okC0, okCv]
  refine readAt_ctl32 _ _ h0 ?_ rest
  simp only [decodeCtl32, decSys, h0, h1, h2, h3, h4, h5, hn]
  first
    | exact guardWf_ok _ hw
    | exact take_ok _ _ rfl hw
    | exact take_ok _ _ (by simp_all) hw

theorem Encoding.publq : ∀ o, Encoding.Statement (.publq o) := by
  intro o p hs rest hw hp he
  cases hp; cases he
  obtain ⟨h0, h1, h2, h3, h4, h5, h6, h7⟩ := encRR_fields 0x36 0 o
  have hn : (o.na == (3 : BitVec 2)) = false := by
    have := hw
    simp_all [Instr.wf, okC3x, okC3, okC2, okC1, okC0, okCv]
  refine readAt_ctl32 _ _ h0 ?_ rest
  simp only [decodeCtl32, decSys, h0, h1, h2, h3, h4, h5, h6, h7, hn]
  first
    | exact guardWf_ok _ hw
    | exact take_ok _ _ rfl hw
    | exact take_ok _ _ (by simp_all) hw

theorem Encoding.hint : ∀ o, Encoding.Statement (.hint o) := by
  intro o p hs rest hw hp he
  cases hp; cases he
  obtain ⟨h0, h1, h2, h3, h4, h5, h6, h7, h8⟩ := encRA_fields 0x36 4 o
  have hn : (o.na == (3 : BitVec 2)) = false := by
    have := hw
    simp_all [Instr.wf, okC3x, okC3, okC2, okC1, okC0, okCv]
  refine readAt_ctl32 _ _ h0 ?_ rest
  simp only [decodeCtl32, decSys, h0, h1, h2, h3, h4, h5, h6, h7, h8, hn]
  first
    | exact guardWf_ok _ hw
    | exact take_ok _ _ rfl hw
    | exact take_ok _ _ (by simp_all) hw

theorem Encoding.wpv : ∀ o, Encoding.Statement (.wpv o) := by
  intro o p hs rest hw hp he
  cases hp; cases he
  obtain ⟨h0, h1, h2, h3, h4, h5, h6, h7, h8⟩ := encRA_fields 0x36 8 o
  have hn : (o.na == (3 : BitVec 2)) = false := by
    have := hw
    simp_all [Instr.wf, okC3x, okC3, okC2, okC1, okC0, okCv]
  refine readAt_ctl32 _ _ h0 ?_ rest
  simp only [decodeCtl32, decSys, h0, h1, h2, h3, h4, h5, h6, h7, h8, hn]
  first
    | exact guardWf_ok _ hw
    | exact take_ok _ _ rfl hw
    | exact take_ok _ _ (by simp_all) hw

theorem Encoding.wpvSusp : ∀ o, Encoding.Statement (.wpvSusp o) := by
  intro o p hs rest hw hp he
  cases hp; cases he
  obtain ⟨h0, h1, h2, h3, h4, h5, h6, h7, h8⟩ := encRA_fields 0x36 10 o
  have hn : (o.na == (3 : BitVec 2)) = false := by
    have := hw
    simp_all [Instr.wf, okC3x, okC3, okC2, okC1, okC0, okCv]
  refine readAt_ctl32 _ _ h0 ?_ rest
  simp only [decodeCtl32, decSys, h0, h1, h2, h3, h4, h5, h6, h7, h8, hn]
  first
    | exact guardWf_ok _ hw
    | exact take_ok _ _ rfl hw
    | exact take_ok _ _ (by simp_all) hw

theorem Encoding.susp : ∀ o, Encoding.Statement (.susp o) := by
  intro o p hs rest hw hp he
  cases hp; cases he
  obtain ⟨h0, h1, h2, h3, h4, h5, h6, h7⟩ := encRN_fields 0x36 12 o
  have hn : (o.na == (3 : BitVec 2)) = false := by
    have := hw
    simp_all [Instr.wf, okC3x, okC3, okC2, okC1, okC0, okCv]
  refine readAt_ctl32 _ _ h0 ?_ rest
  simp only [decodeCtl32, decSys, h0, h1, h2, h3, h4, h5, h6, h7, hn]
  first
    | exact guardWf_ok _ hw
    | exact take_ok _ _ rfl hw
    | exact take_ok _ _ (by simp_all) hw

theorem Encoding.csrr : ∀ o, Encoding.Statement (.csrr o) := by
  intro o p hs rest hw hp he
  cases hp; cases he
  obtain ⟨h0, h1, h2, h3, h4, h5, h6⟩ := encRCsrr_fields o
  have hn : (o.na == (3 : BitVec 2)) = false := by
    have := hw
    simp_all [Instr.wf, okC3x, okC3, okC2, okC1, okC0, okCv]
  refine readAt_ctl32 _ _ h0 ?_ rest
  simp only [decodeCtl32, decSys, h0, h1, h2, h3, h4, h5, h6, hn]
  first
    | exact guardWf_ok _ hw
    | exact take_ok _ _ rfl hw
    | exact take_ok _ _ (by simp_all) hw

theorem Encoding.csrw : ∀ o, Encoding.Statement (.csrw o) := by
  intro o p hs rest hw hp he
  cases hp; cases he
  obtain ⟨h0, h1, h2, h3, h4, h5, h6, h7⟩ := encRCsrw_fields o
  have hn : (o.na == (3 : BitVec 2)) = false := by
    have := hw
    simp_all [Instr.wf, okC3x, okC3, okC2, okC1, okC0, okCv]
  refine readAt_ctl32 _ _ h0 ?_ rest
  simp only [decodeCtl32, decSys, h0, h1, h2, h3, h4, h5, h6, h7, hn]
  first
    | exact guardWf_ok _ hw
    | exact take_ok _ _ rfl hw
    | exact take_ok _ _ (by simp_all) hw

theorem Encoding.sysc : ∀ o, Encoding.Statement (.sysc o) := by
  intro o p hs rest hw hp he
  cases hp; cases he
  obtain ⟨h0, h1, h2, h3, h4, h5, h6, h7, h8⟩ := encRAB_fields 0x38 0 o
  have hn : (o.na == (3 : BitVec 2)) = false := by
    have := hw
    simp_all [Instr.wf, okC3x, okC3, okC2, okC1, okC0, okCv]
  refine readAt_ctl32 _ _ h0 ?_ rest
  simp only [decodeCtl32, decSys, h0, h1, h2, h3, h4, h5, h6, h7, h8, hn]
  first
    | exact guardWf_ok _ hw
    | exact take_ok _ _ rfl hw
    | exact take_ok _ _ (by simp_all) hw

theorem Encoding.trap : ∀ o, Encoding.Statement (.trap o) := by
  intro o p hs rest hw hp he
  cases hp; cases he
  obtain ⟨h0, h1, h2, h3, h4, h5, h6, h7, h8⟩ := encRA_fields 0x38 4 o
  have hn : (o.na == (3 : BitVec 2)) = false := by
    have := hw
    simp_all [Instr.wf, okC3x, okC3, okC2, okC1, okC0, okCv]
  refine readAt_ctl32 _ _ h0 ?_ rest
  simp only [decodeCtl32, decSys, h0, h1, h2, h3, h4, h5, h6, h7, h8, hn]
  first
    | exact guardWf_ok _ hw
    | exact take_ok _ _ rfl hw
    | exact take_ok _ _ (by simp_all) hw

theorem Encoding.eret : ∀ o, Encoding.Statement (.eret o) := by
  intro o p hs rest hw hp he
  cases hp; cases he
  obtain ⟨h0, h1, h2, h3, h4, h5, h6, h7⟩ := encRN_fields 0x38 8 o
  have hn : (o.na == (3 : BitVec 2)) = false := by
    have := hw
    simp_all [Instr.wf, okC3x, okC3, okC2, okC1, okC0, okCv]
  refine readAt_ctl32 _ _ h0 ?_ rest
  simp only [decodeCtl32, decSys, h0, h1, h2, h3, h4, h5, h6, h7, hn]
  first
    | exact guardWf_ok _ hw
    | exact take_ok _ _ rfl hw
    | exact take_ok _ _ (by simp_all) hw

theorem Encoding.freeh : ∀ o, Encoding.Statement (.freeh o) := by
  intro o p hs rest hw hp he
  cases hp; cases he
  obtain ⟨h0, h1, h2, h3, h4, h5, h6, h7, h8⟩ := encRAB_fields 0x39 0 o
  have hn : (o.na == (3 : BitVec 2)) = false := by
    have := hw
    simp_all [Instr.wf, okC3x, okC3, okC2, okC1, okC0, okCv]
  refine readAt_ctl32 _ _ h0 ?_ rest
  simp only [decodeCtl32, decSys, h0, h1, h2, h3, h4, h5, h6, h7, h8, hn]
  exact take_ok _ _ (by simpa using h8 rfl) hw

theorem Encoding.tick : ∀ o, Encoding.Statement (.tick o) := by
  intro o p hs rest hw hp he
  cases hp; cases he
  obtain ⟨h0, h1, h2, h3, h4⟩ := encRD_fields 0x3A o
  have hn : (o.na == (3 : BitVec 2)) = false := by
    have := hw
    simp_all [Instr.wf, okC3x, okC3, okC2, okC1, okC0, okCv]
  refine readAt_ctl32 _ _ h0 ?_ rest
  simp only [decodeCtl32, decSys, h0, h1, h2, h3, h4, hn]
  first
    | exact guardWf_ok _ hw
    | exact take_ok _ _ rfl hw
    | exact take_ok _ _ (by simp_all) hw

theorem Encoding.rfence : ∀ o, Encoding.Statement (.rfence o) := by
  intro o p hs rest hw hp he
  cases hp; cases he
  obtain ⟨h0, h1, h2, h3, h4, h5, h6, h7⟩ := encRN_fields 0x3B 0 o
  have hn : (o.na == (3 : BitVec 2)) = false := by
    have := hw
    simp_all [Instr.wf, okC3x, okC3, okC2, okC1, okC0, okCv]
  refine readAt_ctl32 _ _ h0 ?_ rest
  simp only [decodeCtl32, decSys, h0, h1, h2, h3, h4, h5, h6, h7, hn]
  exact take_ok _ _ (h7 rfl) hw

theorem Encoding.ldr : ∀ o, Encoding.Statement (.ldr o) := by
  intro o p hs rest hw hp he
  cases hp; cases he
  have hk := hw
  obtain ⟨hm, hn, h3⟩ : modSeen o.mod = true ∧ (o.na != 3) = true ∧ True := by
    simp only [Instr.wf, okFlat, okLdr, okRed, okRedq, okBcastRow, okShift, Bool.and_eq_true] at hk
    first
      | exact ⟨(Shape_ok_parts hk).1, (Shape_ok_parts hk).2.1, trivial⟩
      | exact ⟨(Shape_ok_parts hk.1).1, (Shape_ok_parts hk.1).2.1, trivial⟩
      | exact ⟨(Shape_ok_parts hk.1.1).1, (Shape_ok_parts hk.1.1).2.1, trivial⟩
      | exact ⟨(Shape_ok_parts hk.1.1.1).1, (Shape_ok_parts hk.1.1.1).2.1, trivial⟩
      | exact ⟨(Shape_ok_parts hk.1.1.1.1).1, (Shape_ok_parts hk.1.1.1.1).2.1, trivial⟩
      | (split at hk <;> exact ⟨(Shape_ok_parts hk).1, (Shape_ok_parts hk).2.1, trivial⟩)
  refine readAt_eng _ (by simp) 0x1 o _ hm hn ?_ rest
  exact guardWf_ok _ hw

theorem Encoding.ldt : ∀ o, Encoding.Statement (.ldt o) := by
  intro o p hs rest hw hp he
  cases hp; cases he
  have hk := hw
  obtain ⟨hm, hn, h3⟩ := Shape_ok_parts (show _ = true from hk)
  refine readAt_eng _ (by simp) 0x2 o _ hm hn ?_ rest
  exact guardWf_ok _ hw

theorem Encoding.ldrec : ∀ o, Encoding.Statement (.ldrec o) := by
  intro o p hs rest hw hp he
  cases hp; cases he
  have hk := hw
  obtain ⟨hm, hn, h3⟩ := Shape_ok_parts (show _ = true from hk)
  refine readAt_eng _ (by simp) 0x3 o _ hm hn ?_ rest
  exact guardWf_ok _ hw

theorem Encoding.ldx : ∀ o, Encoding.Statement (.ldx o) := by
  intro o p hs rest hw hp he
  cases hp; cases he
  have hk := hw
  obtain ⟨hm, hn, h3⟩ : modSeen o.mod = true ∧ (o.na != 3) = true ∧ True := by
    simp only [Instr.wf, okFlat, okLdx, okRed, okRedq, okBcastRow, okShift, Bool.and_eq_true] at hk
    first
      | exact ⟨(Shape_ok_parts hk).1, (Shape_ok_parts hk).2.1, trivial⟩
      | exact ⟨(Shape_ok_parts hk.1).1, (Shape_ok_parts hk.1).2.1, trivial⟩
      | exact ⟨(Shape_ok_parts hk.1.1).1, (Shape_ok_parts hk.1.1).2.1, trivial⟩
      | exact ⟨(Shape_ok_parts hk.1.1.1).1, (Shape_ok_parts hk.1.1.1).2.1, trivial⟩
      | exact ⟨(Shape_ok_parts hk.1.1.1.1).1, (Shape_ok_parts hk.1.1.1.1).2.1, trivial⟩
      | (split at hk <;> exact ⟨(Shape_ok_parts hk).1, (Shape_ok_parts hk).2.1, trivial⟩)
  refine readAt_eng _ (by simp) 0x4 o _ hm hn ?_ rest
  exact guardWf_ok _ hw

theorem Encoding.ldsc : ∀ o, Encoding.Statement (.ldsc o) := by
  intro o p hs rest hw hp he
  cases hp; cases he
  have hk := hw
  obtain ⟨hm, hn, h3⟩ := Shape_ok_parts (show _ = true from hk)
  refine readAt_eng _ (by simp) 0x5 o _ hm hn ?_ rest
  exact guardWf_ok _ hw

theorem Encoding.pcfg : ∀ o, Encoding.Statement (.pcfg o) := by
  intro o p hs rest hw hp he
  cases hp; cases he
  have hk := hw
  obtain ⟨hm, hn, h3⟩ := Shape_ok_parts (show _ = true from hk)
  refine readAt_eng _ (by simp) 0x6 o _ hm hn ?_ rest
  exact guardWf_ok _ hw

theorem Encoding.pfx : ∀ o, Encoding.Statement (.pfx o) := by
  intro o p hs rest hw hp he
  cases hp; cases he
  have hk := hw
  obtain ⟨hm, hn, h3⟩ := Shape_ok_parts (show _ = true from hk)
  refine readAt_eng _ (by simp) 0x7 o _ hm hn ?_ rest
  exact guardWf_ok _ hw

theorem Encoding.ldv : ∀ o, Encoding.Statement (.ldv o) := by
  intro o p hs rest hw hp he
  cases hp; cases he
  have hk := hw
  obtain ⟨hm, hn, h3⟩ := Shape_ok_parts (show _ = true from hk)
  refine readAt_eng _ (by simp) 0x8 o _ hm hn ?_ rest
  exact guardWf_ok _ hw

theorem Encoding.str : ∀ o, Encoding.Statement (.str o) := by
  intro o p hs rest hw hp he
  cases hp; cases he
  have hk := hw
  obtain ⟨hm, hn, h3⟩ : modSeen o.mod = true ∧ (o.na != 3) = true ∧ True := by
    simp only [Instr.wf, okFlat, okRed, okRedq, okStr, okBcastRow, okShift, Bool.and_eq_true] at hk
    first
      | exact ⟨(Shape_ok_parts hk).1, (Shape_ok_parts hk).2.1, trivial⟩
      | exact ⟨(Shape_ok_parts hk.1).1, (Shape_ok_parts hk.1).2.1, trivial⟩
      | exact ⟨(Shape_ok_parts hk.1.1).1, (Shape_ok_parts hk.1.1).2.1, trivial⟩
      | exact ⟨(Shape_ok_parts hk.1.1.1).1, (Shape_ok_parts hk.1.1.1).2.1, trivial⟩
      | exact ⟨(Shape_ok_parts hk.1.1.1.1).1, (Shape_ok_parts hk.1.1.1.1).2.1, trivial⟩
      | (split at hk <;> exact ⟨(Shape_ok_parts hk).1, (Shape_ok_parts hk).2.1, trivial⟩)
  refine readAt_eng _ (by simp) 0x1 o _ hm hn ?_ rest
  exact guardWf_ok _ hw

theorem Encoding.stt : ∀ o, Encoding.Statement (.stt o) := by
  intro o p hs rest hw hp he
  cases hp; cases he
  have hk := hw
  obtain ⟨hm, hn, h3⟩ := Shape_ok_parts (show _ = true from hk)
  refine readAt_eng _ (by simp) 0x2 o _ hm hn ?_ rest
  exact guardWf_ok _ hw

theorem Encoding.strec : ∀ o, Encoding.Statement (.strec o) := by
  intro o p hs rest hw hp he
  cases hp; cases he
  have hk := hw
  obtain ⟨hm, hn, h3⟩ := Shape_ok_parts (show _ = true from hk)
  refine readAt_eng _ (by simp) 0x3 o _ hm hn ?_ rest
  exact guardWf_ok _ hw

theorem Encoding.stx : ∀ o, Encoding.Statement (.stx o) := by
  intro o p hs rest hw hp he
  cases hp; cases he
  have hk := hw
  obtain ⟨hm, hn, h3⟩ := Shape_ok_parts (show _ = true from hk)
  refine readAt_eng _ (by simp) 0x4 o _ hm hn ?_ rest
  exact guardWf_ok _ hw

theorem Encoding.stsc : ∀ o, Encoding.Statement (.stsc o) := by
  intro o p hs rest hw hp he
  cases hp; cases he
  have hk := hw
  obtain ⟨hm, hn, h3⟩ := Shape_ok_parts (show _ = true from hk)
  refine readAt_eng _ (by simp) 0x5 o _ hm hn ?_ rest
  exact guardWf_ok _ hw

theorem Encoding.stv : ∀ o, Encoding.Statement (.stv o) := by
  intro o p hs rest hw hp he
  cases hp; cases he
  have hk := hw
  obtain ⟨hm, hn, h3⟩ := Shape_ok_parts (show _ = true from hk)
  refine readAt_eng _ (by simp) 0x6 o _ hm hn ?_ rest
  exact guardWf_ok _ hw

theorem Encoding.publ : ∀ o, Encoding.Statement (.publ o) := by
  intro o p hs rest hw hp he
  cases hp; cases he
  have hk := hw
  obtain ⟨hm, hn, h3⟩ := Shape_ok_parts (show _ = true from hk)
  refine readAt_eng _ (by simp) 0x7 o _ hm hn ?_ rest
  exact guardWf_ok _ hw

theorem Encoding.areAdd : ∀ o, Encoding.Statement (.areAdd o) := by
  intro o p hs rest hw hp he
  cases hp; cases he
  have hk := hw
  obtain ⟨hm, hn, h3⟩ := Shape_ok_parts (show _ = true from hk)
  refine readAt_eng _ (by simp) 0x1 o _ hm hn ?_ rest
  exact guardWf_ok _ hw

theorem Encoding.areSub : ∀ o, Encoding.Statement (.areSub o) := by
  intro o p hs rest hw hp he
  cases hp; cases he
  have hk := hw
  obtain ⟨hm, hn, h3⟩ := Shape_ok_parts (show _ = true from hk)
  refine readAt_eng _ (by simp) 0x2 o _ hm hn ?_ rest
  exact guardWf_ok _ hw

theorem Encoding.areMul : ∀ o, Encoding.Statement (.areMul o) := by
  intro o p hs rest hw hp he
  cases hp; cases he
  have hk := hw
  obtain ⟨hm, hn, h3⟩ := Shape_ok_parts (show _ = true from hk)
  refine readAt_eng _ (by simp) 0x3 o _ hm hn ?_ rest
  exact guardWf_ok _ hw

theorem Encoding.fma : ∀ o, Encoding.Statement (.fma o) := by
  intro o p hs rest hw hp he
  cases hp; cases he
  have hk := hw
  obtain ⟨hm, hn, h3⟩ := Shape_ok_parts (show _ = true from hk)
  refine readAt_eng _ (by simp) 0x4 o _ hm hn ?_ rest
  exact guardWf_ok _ hw

theorem Encoding.areMin : ∀ o, Encoding.Statement (.areMin o) := by
  intro o p hs rest hw hp he
  cases hp; cases he
  have hk := hw
  obtain ⟨hm, hn, h3⟩ := Shape_ok_parts (show _ = true from hk)
  refine readAt_eng _ (by simp) 0x5 o _ hm hn ?_ rest
  exact guardWf_ok _ hw

theorem Encoding.areMax : ∀ o, Encoding.Statement (.areMax o) := by
  intro o p hs rest hw hp he
  cases hp; cases he
  have hk := hw
  obtain ⟨hm, hn, h3⟩ := Shape_ok_parts (show _ = true from hk)
  refine readAt_eng _ (by simp) 0x6 o _ hm hn ?_ rest
  exact guardWf_ok _ hw

theorem Encoding.abs : ∀ o, Encoding.Statement (.abs o) := by
  intro o p hs rest hw hp he
  cases hp; cases he
  have hk := hw
  obtain ⟨hm, hn, h3⟩ := Shape_ok_parts (show _ = true from hk)
  refine readAt_eng _ (by simp) 0x7 o _ hm hn ?_ rest
  exact guardWf_ok _ hw

theorem Encoding.neg : ∀ o, Encoding.Statement (.neg o) := by
  intro o p hs rest hw hp he
  cases hp; cases he
  have hk := hw
  obtain ⟨hm, hn, h3⟩ := Shape_ok_parts (show _ = true from hk)
  refine readAt_eng _ (by simp) 0x8 o _ hm hn ?_ rest
  exact guardWf_ok _ hw

theorem Encoding.exp2 : ∀ o, Encoding.Statement (.exp2 o) := by
  intro o p hs rest hw hp he
  cases hp; cases he
  have hk := hw
  obtain ⟨hm, hn, h3⟩ := Shape_ok_parts (show _ = true from hk)
  refine readAt_eng _ (by simp) 0x9 o _ hm hn ?_ rest
  exact guardWf_ok _ hw

theorem Encoding.log2 : ∀ o, Encoding.Statement (.log2 o) := by
  intro o p hs rest hw hp he
  cases hp; cases he
  have hk := hw
  obtain ⟨hm, hn, h3⟩ := Shape_ok_parts (show _ = true from hk)
  refine readAt_eng _ (by simp) 0xa o _ hm hn ?_ rest
  exact guardWf_ok _ hw

theorem Encoding.rcp : ∀ o, Encoding.Statement (.rcp o) := by
  intro o p hs rest hw hp he
  cases hp; cases he
  have hk := hw
  obtain ⟨hm, hn, h3⟩ := Shape_ok_parts (show _ = true from hk)
  refine readAt_eng _ (by simp) 0xb o _ hm hn ?_ rest
  exact guardWf_ok _ hw

theorem Encoding.rsq : ∀ o, Encoding.Statement (.rsq o) := by
  intro o p hs rest hw hp he
  cases hp; cases he
  have hk := hw
  obtain ⟨hm, hn, h3⟩ := Shape_ok_parts (show _ = true from hk)
  refine readAt_eng _ (by simp) 0xc o _ hm hn ?_ rest
  exact guardWf_ok _ hw

theorem Encoding.tanh : ∀ o, Encoding.Statement (.tanh o) := by
  intro o p hs rest hw hp he
  cases hp; cases he
  have hk := hw
  obtain ⟨hm, hn, h3⟩ := Shape_ok_parts (show _ = true from hk)
  refine readAt_eng _ (by simp) 0xd o _ hm hn ?_ rest
  exact guardWf_ok _ hw

theorem Encoding.areCmp : ∀ o, Encoding.Statement (.areCmp o) := by
  intro o p hs rest hw hp he
  cases hp; cases he
  have hk := hw
  obtain ⟨hm, hn, h3⟩ : modSeen o.mod = true ∧ (o.na != 3) = true ∧ True := by
    simp only [Instr.wf, okCmp, okFlat, okRed, okRedq, okBcastRow, okShift, Bool.and_eq_true] at hk
    first
      | exact ⟨(Shape_ok_parts hk).1, (Shape_ok_parts hk).2.1, trivial⟩
      | exact ⟨(Shape_ok_parts hk.1).1, (Shape_ok_parts hk.1).2.1, trivial⟩
      | exact ⟨(Shape_ok_parts hk.1.1).1, (Shape_ok_parts hk.1.1).2.1, trivial⟩
      | exact ⟨(Shape_ok_parts hk.1.1.1).1, (Shape_ok_parts hk.1.1.1).2.1, trivial⟩
      | exact ⟨(Shape_ok_parts hk.1.1.1.1).1, (Shape_ok_parts hk.1.1.1.1).2.1, trivial⟩
      | (split at hk <;> exact ⟨(Shape_ok_parts hk).1, (Shape_ok_parts hk).2.1, trivial⟩)
  refine readAt_eng _ (by simp) 0xe o _ hm hn ?_ rest
  exact guardWf_ok _ hw

theorem Encoding.sel : ∀ o, Encoding.Statement (.sel o) := by
  intro o p hs rest hw hp he
  cases hp; cases he
  have hk := hw
  obtain ⟨hm, hn, h3⟩ := Shape_ok_parts (show _ = true from hk)
  refine readAt_eng _ (by simp) 0xf o _ hm hn ?_ rest
  exact guardWf_ok _ hw

theorem Encoding.redSum : ∀ o, Encoding.Statement (.redSum o) := by
  intro o p hs rest hw hp he
  cases hp; cases he
  have hk := hw
  obtain ⟨hm, hn, h3⟩ : modSeen o.mod = true ∧ (o.na != 3) = true ∧ True := by
    simp only [Instr.wf, okFlat, okRed, okRedq, okBcastRow, okShift, Bool.and_eq_true] at hk
    first
      | exact ⟨(Shape_ok_parts hk).1, (Shape_ok_parts hk).2.1, trivial⟩
      | exact ⟨(Shape_ok_parts hk.1).1, (Shape_ok_parts hk.1).2.1, trivial⟩
      | exact ⟨(Shape_ok_parts hk.1.1).1, (Shape_ok_parts hk.1.1).2.1, trivial⟩
      | exact ⟨(Shape_ok_parts hk.1.1.1).1, (Shape_ok_parts hk.1.1.1).2.1, trivial⟩
      | exact ⟨(Shape_ok_parts hk.1.1.1.1).1, (Shape_ok_parts hk.1.1.1.1).2.1, trivial⟩
      | (split at hk <;> exact ⟨(Shape_ok_parts hk).1, (Shape_ok_parts hk).2.1, trivial⟩)
  refine readAt_eng _ (by simp) 0x10 o _ hm hn ?_ rest
  have hmin : (eMod o).min3.toNat = 0 := by
    have h := hw
    simp only [Instr.wf, okRed, okRedq, okBcastRow, Bool.and_eq_true] at h
    first
      | exact beq_iff_eq.mp (Shape_ok_parts h).2.2
      | exact beq_iff_eq.mp (Shape_ok_parts h.1).2.2
  show decAre 16 o = _
  unfold decAre
  rw [hmin]
  exact guardWf_ok _ hw

theorem Encoding.redMax : ∀ o, Encoding.Statement (.redMax o) := by
  intro o p hs rest hw hp he
  cases hp; cases he
  have hk := hw
  obtain ⟨hm, hn, h3⟩ : modSeen o.mod = true ∧ (o.na != 3) = true ∧ True := by
    simp only [Instr.wf, okFlat, okRed, okRedq, okBcastRow, okShift, Bool.and_eq_true] at hk
    first
      | exact ⟨(Shape_ok_parts hk).1, (Shape_ok_parts hk).2.1, trivial⟩
      | exact ⟨(Shape_ok_parts hk.1).1, (Shape_ok_parts hk.1).2.1, trivial⟩
      | exact ⟨(Shape_ok_parts hk.1.1).1, (Shape_ok_parts hk.1.1).2.1, trivial⟩
      | exact ⟨(Shape_ok_parts hk.1.1.1).1, (Shape_ok_parts hk.1.1.1).2.1, trivial⟩
      | exact ⟨(Shape_ok_parts hk.1.1.1.1).1, (Shape_ok_parts hk.1.1.1.1).2.1, trivial⟩
      | (split at hk <;> exact ⟨(Shape_ok_parts hk).1, (Shape_ok_parts hk).2.1, trivial⟩)
  refine readAt_eng _ (by simp) 0x10 o _ hm hn ?_ rest
  have hmin : (eMod o).min3.toNat = 1 := by
    have h := hw
    simp only [Instr.wf, okRed, okRedq, okBcastRow, Bool.and_eq_true] at h
    first
      | exact beq_iff_eq.mp (Shape_ok_parts h).2.2
      | exact beq_iff_eq.mp (Shape_ok_parts h.1).2.2
  show decAre 16 o = _
  unfold decAre
  rw [hmin]
  exact guardWf_ok _ hw

theorem Encoding.redMin : ∀ o, Encoding.Statement (.redMin o) := by
  intro o p hs rest hw hp he
  cases hp; cases he
  have hk := hw
  obtain ⟨hm, hn, h3⟩ : modSeen o.mod = true ∧ (o.na != 3) = true ∧ True := by
    simp only [Instr.wf, okFlat, okRed, okRedq, okBcastRow, okShift, Bool.and_eq_true] at hk
    first
      | exact ⟨(Shape_ok_parts hk).1, (Shape_ok_parts hk).2.1, trivial⟩
      | exact ⟨(Shape_ok_parts hk.1).1, (Shape_ok_parts hk.1).2.1, trivial⟩
      | exact ⟨(Shape_ok_parts hk.1.1).1, (Shape_ok_parts hk.1.1).2.1, trivial⟩
      | exact ⟨(Shape_ok_parts hk.1.1.1).1, (Shape_ok_parts hk.1.1.1).2.1, trivial⟩
      | exact ⟨(Shape_ok_parts hk.1.1.1.1).1, (Shape_ok_parts hk.1.1.1.1).2.1, trivial⟩
      | (split at hk <;> exact ⟨(Shape_ok_parts hk).1, (Shape_ok_parts hk).2.1, trivial⟩)
  refine readAt_eng _ (by simp) 0x10 o _ hm hn ?_ rest
  have hmin : (eMod o).min3.toNat = 2 := by
    have h := hw
    simp only [Instr.wf, okRed, okRedq, okBcastRow, Bool.and_eq_true] at h
    first
      | exact beq_iff_eq.mp (Shape_ok_parts h).2.2
      | exact beq_iff_eq.mp (Shape_ok_parts h.1).2.2
  show decAre 16 o = _
  unfold decAre
  rw [hmin]
  exact guardWf_ok _ hw

theorem Encoding.redSsq : ∀ o, Encoding.Statement (.redSsq o) := by
  intro o p hs rest hw hp he
  cases hp; cases he
  have hk := hw
  obtain ⟨hm, hn, h3⟩ : modSeen o.mod = true ∧ (o.na != 3) = true ∧ True := by
    simp only [Instr.wf, okFlat, okRed, okRedq, okBcastRow, okShift, Bool.and_eq_true] at hk
    first
      | exact ⟨(Shape_ok_parts hk).1, (Shape_ok_parts hk).2.1, trivial⟩
      | exact ⟨(Shape_ok_parts hk.1).1, (Shape_ok_parts hk.1).2.1, trivial⟩
      | exact ⟨(Shape_ok_parts hk.1.1).1, (Shape_ok_parts hk.1.1).2.1, trivial⟩
      | exact ⟨(Shape_ok_parts hk.1.1.1).1, (Shape_ok_parts hk.1.1.1).2.1, trivial⟩
      | exact ⟨(Shape_ok_parts hk.1.1.1.1).1, (Shape_ok_parts hk.1.1.1.1).2.1, trivial⟩
      | (split at hk <;> exact ⟨(Shape_ok_parts hk).1, (Shape_ok_parts hk).2.1, trivial⟩)
  refine readAt_eng _ (by simp) 0x10 o _ hm hn ?_ rest
  have hmin : (eMod o).min3.toNat = 3 := by
    have h := hw
    simp only [Instr.wf, okRed, okRedq, okBcastRow, Bool.and_eq_true] at h
    first
      | exact beq_iff_eq.mp (Shape_ok_parts h).2.2
      | exact beq_iff_eq.mp (Shape_ok_parts h.1).2.2
  show decAre 16 o = _
  unfold decAre
  rw [hmin]
  exact guardWf_ok _ hw

theorem Encoding.redAmax : ∀ o, Encoding.Statement (.redAmax o) := by
  intro o p hs rest hw hp he
  cases hp; cases he
  have hk := hw
  obtain ⟨hm, hn, h3⟩ : modSeen o.mod = true ∧ (o.na != 3) = true ∧ True := by
    simp only [Instr.wf, okFlat, okRed, okRedq, okBcastRow, okShift, Bool.and_eq_true] at hk
    first
      | exact ⟨(Shape_ok_parts hk).1, (Shape_ok_parts hk).2.1, trivial⟩
      | exact ⟨(Shape_ok_parts hk.1).1, (Shape_ok_parts hk.1).2.1, trivial⟩
      | exact ⟨(Shape_ok_parts hk.1.1).1, (Shape_ok_parts hk.1.1).2.1, trivial⟩
      | exact ⟨(Shape_ok_parts hk.1.1.1).1, (Shape_ok_parts hk.1.1.1).2.1, trivial⟩
      | exact ⟨(Shape_ok_parts hk.1.1.1.1).1, (Shape_ok_parts hk.1.1.1.1).2.1, trivial⟩
      | (split at hk <;> exact ⟨(Shape_ok_parts hk).1, (Shape_ok_parts hk).2.1, trivial⟩)
  refine readAt_eng _ (by simp) 0x10 o _ hm hn ?_ rest
  have hmin : (eMod o).min3.toNat = 4 := by
    have h := hw
    simp only [Instr.wf, okRed, okRedq, okBcastRow, Bool.and_eq_true] at h
    first
      | exact beq_iff_eq.mp (Shape_ok_parts h).2.2
      | exact beq_iff_eq.mp (Shape_ok_parts h.1).2.2
  show decAre 16 o = _
  unfold decAre
  rw [hmin]
  exact guardWf_ok _ hw

theorem Encoding.redqSum : ∀ o, Encoding.Statement (.redqSum o) := by
  intro o p hs rest hw hp he
  cases hp; cases he
  have hk := hw
  obtain ⟨hm, hn, h3⟩ : modSeen o.mod = true ∧ (o.na != 3) = true ∧ True := by
    simp only [Instr.wf, okFlat, okRed, okRedq, okBcastRow, okShift, Bool.and_eq_true] at hk
    first
      | exact ⟨(Shape_ok_parts hk).1, (Shape_ok_parts hk).2.1, trivial⟩
      | exact ⟨(Shape_ok_parts hk.1).1, (Shape_ok_parts hk.1).2.1, trivial⟩
      | exact ⟨(Shape_ok_parts hk.1.1).1, (Shape_ok_parts hk.1.1).2.1, trivial⟩
      | exact ⟨(Shape_ok_parts hk.1.1.1).1, (Shape_ok_parts hk.1.1.1).2.1, trivial⟩
      | exact ⟨(Shape_ok_parts hk.1.1.1.1).1, (Shape_ok_parts hk.1.1.1.1).2.1, trivial⟩
      | (split at hk <;> exact ⟨(Shape_ok_parts hk).1, (Shape_ok_parts hk).2.1, trivial⟩)
  refine readAt_eng _ (by simp) 0x11 o _ hm hn ?_ rest
  have hmin : (eMod o).min3.toNat = 0 := by
    have h := hw
    simp only [Instr.wf, okRed, okRedq, okBcastRow, Bool.and_eq_true] at h
    first
      | exact beq_iff_eq.mp (Shape_ok_parts h).2.2
      | exact beq_iff_eq.mp (Shape_ok_parts h.1).2.2
  show decAre 17 o = _
  unfold decAre
  rw [hmin]
  exact guardWf_ok _ hw

theorem Encoding.redqMax : ∀ o, Encoding.Statement (.redqMax o) := by
  intro o p hs rest hw hp he
  cases hp; cases he
  have hk := hw
  obtain ⟨hm, hn, h3⟩ : modSeen o.mod = true ∧ (o.na != 3) = true ∧ True := by
    simp only [Instr.wf, okFlat, okRed, okRedq, okBcastRow, okShift, Bool.and_eq_true] at hk
    first
      | exact ⟨(Shape_ok_parts hk).1, (Shape_ok_parts hk).2.1, trivial⟩
      | exact ⟨(Shape_ok_parts hk.1).1, (Shape_ok_parts hk.1).2.1, trivial⟩
      | exact ⟨(Shape_ok_parts hk.1.1).1, (Shape_ok_parts hk.1.1).2.1, trivial⟩
      | exact ⟨(Shape_ok_parts hk.1.1.1).1, (Shape_ok_parts hk.1.1.1).2.1, trivial⟩
      | exact ⟨(Shape_ok_parts hk.1.1.1.1).1, (Shape_ok_parts hk.1.1.1.1).2.1, trivial⟩
      | (split at hk <;> exact ⟨(Shape_ok_parts hk).1, (Shape_ok_parts hk).2.1, trivial⟩)
  refine readAt_eng _ (by simp) 0x11 o _ hm hn ?_ rest
  have hmin : (eMod o).min3.toNat = 1 := by
    have h := hw
    simp only [Instr.wf, okRed, okRedq, okBcastRow, Bool.and_eq_true] at h
    first
      | exact beq_iff_eq.mp (Shape_ok_parts h).2.2
      | exact beq_iff_eq.mp (Shape_ok_parts h.1).2.2
  show decAre 17 o = _
  unfold decAre
  rw [hmin]
  exact guardWf_ok _ hw

theorem Encoding.redqMin : ∀ o, Encoding.Statement (.redqMin o) := by
  intro o p hs rest hw hp he
  cases hp; cases he
  have hk := hw
  obtain ⟨hm, hn, h3⟩ : modSeen o.mod = true ∧ (o.na != 3) = true ∧ True := by
    simp only [Instr.wf, okFlat, okRed, okRedq, okBcastRow, okShift, Bool.and_eq_true] at hk
    first
      | exact ⟨(Shape_ok_parts hk).1, (Shape_ok_parts hk).2.1, trivial⟩
      | exact ⟨(Shape_ok_parts hk.1).1, (Shape_ok_parts hk.1).2.1, trivial⟩
      | exact ⟨(Shape_ok_parts hk.1.1).1, (Shape_ok_parts hk.1.1).2.1, trivial⟩
      | exact ⟨(Shape_ok_parts hk.1.1.1).1, (Shape_ok_parts hk.1.1.1).2.1, trivial⟩
      | exact ⟨(Shape_ok_parts hk.1.1.1.1).1, (Shape_ok_parts hk.1.1.1.1).2.1, trivial⟩
      | (split at hk <;> exact ⟨(Shape_ok_parts hk).1, (Shape_ok_parts hk).2.1, trivial⟩)
  refine readAt_eng _ (by simp) 0x11 o _ hm hn ?_ rest
  have hmin : (eMod o).min3.toNat = 2 := by
    have h := hw
    simp only [Instr.wf, okRed, okRedq, okBcastRow, Bool.and_eq_true] at h
    first
      | exact beq_iff_eq.mp (Shape_ok_parts h).2.2
      | exact beq_iff_eq.mp (Shape_ok_parts h.1).2.2
  show decAre 17 o = _
  unfold decAre
  rw [hmin]
  exact guardWf_ok _ hw

theorem Encoding.redqSsq : ∀ o, Encoding.Statement (.redqSsq o) := by
  intro o p hs rest hw hp he
  cases hp; cases he
  have hk := hw
  obtain ⟨hm, hn, h3⟩ : modSeen o.mod = true ∧ (o.na != 3) = true ∧ True := by
    simp only [Instr.wf, okFlat, okRed, okRedq, okBcastRow, okShift, Bool.and_eq_true] at hk
    first
      | exact ⟨(Shape_ok_parts hk).1, (Shape_ok_parts hk).2.1, trivial⟩
      | exact ⟨(Shape_ok_parts hk.1).1, (Shape_ok_parts hk.1).2.1, trivial⟩
      | exact ⟨(Shape_ok_parts hk.1.1).1, (Shape_ok_parts hk.1.1).2.1, trivial⟩
      | exact ⟨(Shape_ok_parts hk.1.1.1).1, (Shape_ok_parts hk.1.1.1).2.1, trivial⟩
      | exact ⟨(Shape_ok_parts hk.1.1.1.1).1, (Shape_ok_parts hk.1.1.1.1).2.1, trivial⟩
      | (split at hk <;> exact ⟨(Shape_ok_parts hk).1, (Shape_ok_parts hk).2.1, trivial⟩)
  refine readAt_eng _ (by simp) 0x11 o _ hm hn ?_ rest
  have hmin : (eMod o).min3.toNat = 3 := by
    have h := hw
    simp only [Instr.wf, okRed, okRedq, okBcastRow, Bool.and_eq_true] at h
    first
      | exact beq_iff_eq.mp (Shape_ok_parts h).2.2
      | exact beq_iff_eq.mp (Shape_ok_parts h.1).2.2
  show decAre 17 o = _
  unfold decAre
  rw [hmin]
  exact guardWf_ok _ hw

theorem Encoding.redqAmax : ∀ o, Encoding.Statement (.redqAmax o) := by
  intro o p hs rest hw hp he
  cases hp; cases he
  have hk := hw
  obtain ⟨hm, hn, h3⟩ : modSeen o.mod = true ∧ (o.na != 3) = true ∧ True := by
    simp only [Instr.wf, okFlat, okRed, okRedq, okBcastRow, okShift, Bool.and_eq_true] at hk
    first
      | exact ⟨(Shape_ok_parts hk).1, (Shape_ok_parts hk).2.1, trivial⟩
      | exact ⟨(Shape_ok_parts hk.1).1, (Shape_ok_parts hk.1).2.1, trivial⟩
      | exact ⟨(Shape_ok_parts hk.1.1).1, (Shape_ok_parts hk.1.1).2.1, trivial⟩
      | exact ⟨(Shape_ok_parts hk.1.1.1).1, (Shape_ok_parts hk.1.1.1).2.1, trivial⟩
      | exact ⟨(Shape_ok_parts hk.1.1.1.1).1, (Shape_ok_parts hk.1.1.1.1).2.1, trivial⟩
      | (split at hk <;> exact ⟨(Shape_ok_parts hk).1, (Shape_ok_parts hk).2.1, trivial⟩)
  refine readAt_eng _ (by simp) 0x11 o _ hm hn ?_ rest
  have hmin : (eMod o).min3.toNat = 4 := by
    have h := hw
    simp only [Instr.wf, okRed, okRedq, okBcastRow, Bool.and_eq_true] at h
    first
      | exact beq_iff_eq.mp (Shape_ok_parts h).2.2
      | exact beq_iff_eq.mp (Shape_ok_parts h.1).2.2
  show decAre 17 o = _
  unfold decAre
  rw [hmin]
  exact guardWf_ok _ hw

theorem Encoding.bcastRow : ∀ o, Encoding.Statement (.bcastRow o) := by
  intro o p hs rest hw hp he
  cases hp; cases he
  have hk := hw
  obtain ⟨hm, hn, h3⟩ : modSeen o.mod = true ∧ (o.na != 3) = true ∧ True := by
    simp only [Instr.wf, okBcastRow, okFlat, okRed, okRedq, okBcastRow, okShift, Bool.and_eq_true] at hk
    first
      | exact ⟨(Shape_ok_parts hk).1, (Shape_ok_parts hk).2.1, trivial⟩
      | exact ⟨(Shape_ok_parts hk.1).1, (Shape_ok_parts hk.1).2.1, trivial⟩
      | exact ⟨(Shape_ok_parts hk.1.1).1, (Shape_ok_parts hk.1.1).2.1, trivial⟩
      | exact ⟨(Shape_ok_parts hk.1.1.1).1, (Shape_ok_parts hk.1.1.1).2.1, trivial⟩
      | exact ⟨(Shape_ok_parts hk.1.1.1.1).1, (Shape_ok_parts hk.1.1.1.1).2.1, trivial⟩
      | (split at hk <;> exact ⟨(Shape_ok_parts hk).1, (Shape_ok_parts hk).2.1, trivial⟩)
  refine readAt_eng _ (by simp) 0x12 o _ hm hn ?_ rest
  have hmin : (eMod o).min3.toNat = 0 := by
    have h := hw
    simp only [Instr.wf, okRed, okRedq, okBcastRow, Bool.and_eq_true] at h
    first
      | exact beq_iff_eq.mp (Shape_ok_parts h).2.2
      | exact beq_iff_eq.mp (Shape_ok_parts h.1).2.2
  show decAre 18 o = _
  unfold decAre
  rw [hmin]
  exact guardWf_ok _ hw

theorem Encoding.bcastElem : ∀ o, Encoding.Statement (.bcastElem o) := by
  intro o p hs rest hw hp he
  cases hp; cases he
  have hk := hw
  obtain ⟨hm, hn, h3⟩ := Shape_ok_parts (show _ = true from hk)
  refine readAt_eng _ (by simp) 0x12 o _ hm hn ?_ rest
  have hmin : (eMod o).min3.toNat = 1 := by
    have h := hw
    simp only [Instr.wf, okRed, okRedq, okBcastRow, Bool.and_eq_true] at h
    first
      | exact beq_iff_eq.mp (Shape_ok_parts h).2.2
      | exact beq_iff_eq.mp (Shape_ok_parts h.1).2.2
  show decAre 18 o = _
  unfold decAre
  rw [hmin]
  exact guardWf_ok _ hw

theorem Encoding.bcastScal : ∀ o, Encoding.Statement (.bcastScal o) := by
  intro o p hs rest hw hp he
  cases hp; cases he
  have hk := hw
  obtain ⟨hm, hn, h3⟩ := Shape_ok_parts (show _ = true from hk)
  refine readAt_eng _ (by simp) 0x12 o _ hm hn ?_ rest
  have hmin : (eMod o).min3.toNat = 2 := by
    have h := hw
    simp only [Instr.wf, okRed, okRedq, okBcastRow, Bool.and_eq_true] at h
    first
      | exact beq_iff_eq.mp (Shape_ok_parts h).2.2
      | exact beq_iff_eq.mp (Shape_ok_parts h.1).2.2
  show decAre 18 o = _
  unfold decAre
  rw [hmin]
  exact guardWf_ok _ hw

theorem Encoding.iota : ∀ o, Encoding.Statement (.iota o) := by
  intro o p hs rest hw hp he
  cases hp; cases he
  have hk := hw
  obtain ⟨hm, hn, h3⟩ := Shape_ok_parts (show _ = true from hk)
  refine readAt_eng _ (by simp) 0x13 o _ hm hn ?_ rest
  exact guardWf_ok _ hw

theorem Encoding.trn : ∀ o, Encoding.Statement (.trn o) := by
  intro o p hs rest hw hp he
  cases hp; cases he
  have hk := hw
  obtain ⟨hm, hn, h3⟩ : modSeen o.mod = true ∧ (o.na != 3) = true ∧ True := by
    simp only [Instr.wf, okFlat, okRed, okRedq, okTrn, okBcastRow, okShift, Bool.and_eq_true] at hk
    first
      | exact ⟨(Shape_ok_parts hk).1, (Shape_ok_parts hk).2.1, trivial⟩
      | exact ⟨(Shape_ok_parts hk.1).1, (Shape_ok_parts hk.1).2.1, trivial⟩
      | exact ⟨(Shape_ok_parts hk.1.1).1, (Shape_ok_parts hk.1.1).2.1, trivial⟩
      | exact ⟨(Shape_ok_parts hk.1.1.1).1, (Shape_ok_parts hk.1.1.1).2.1, trivial⟩
      | exact ⟨(Shape_ok_parts hk.1.1.1.1).1, (Shape_ok_parts hk.1.1.1.1).2.1, trivial⟩
      | (split at hk <;> exact ⟨(Shape_ok_parts hk).1, (Shape_ok_parts hk).2.1, trivial⟩)
  refine readAt_eng _ (by simp) 0x14 o _ hm hn ?_ rest
  exact guardWf_ok _ hw

theorem Encoding.shufPerm : ∀ o, Encoding.Statement (.shufPerm o) := by
  intro o p hs rest hw hp he
  cases hp; cases he
  have hk := hw
  obtain ⟨hm, hn, h3⟩ := Shape_ok_parts (show _ = true from hk)
  refine readAt_eng _ (by simp) 0x15 o _ hm hn ?_ rest
  have hmin : (eMod o).min3.toNat = 0 := by
    have h := hw
    simp only [Instr.wf, okRed, okRedq, okBcastRow, Bool.and_eq_true] at h
    first
      | exact beq_iff_eq.mp (Shape_ok_parts h).2.2
      | exact beq_iff_eq.mp (Shape_ok_parts h.1).2.2
  show decAre 21 o = _
  unfold decAre
  rw [hmin]
  exact guardWf_ok _ hw

theorem Encoding.shufRot : ∀ o, Encoding.Statement (.shufRot o) := by
  intro o p hs rest hw hp he
  cases hp; cases he
  have hk := hw
  obtain ⟨hm, hn, h3⟩ := Shape_ok_parts (show _ = true from hk)
  refine readAt_eng _ (by simp) 0x15 o _ hm hn ?_ rest
  have hmin : (eMod o).min3.toNat = 1 := by
    have h := hw
    simp only [Instr.wf, okRed, okRedq, okBcastRow, Bool.and_eq_true] at h
    first
      | exact beq_iff_eq.mp (Shape_ok_parts h).2.2
      | exact beq_iff_eq.mp (Shape_ok_parts h.1).2.2
  show decAre 21 o = _
  unfold decAre
  rw [hmin]
  exact guardWf_ok _ hw

theorem Encoding.shufRev : ∀ o, Encoding.Statement (.shufRev o) := by
  intro o p hs rest hw hp he
  cases hp; cases he
  have hk := hw
  obtain ⟨hm, hn, h3⟩ := Shape_ok_parts (show _ = true from hk)
  refine readAt_eng _ (by simp) 0x15 o _ hm hn ?_ rest
  have hmin : (eMod o).min3.toNat = 2 := by
    have h := hw
    simp only [Instr.wf, okRed, okRedq, okBcastRow, Bool.and_eq_true] at h
    first
      | exact beq_iff_eq.mp (Shape_ok_parts h).2.2
      | exact beq_iff_eq.mp (Shape_ok_parts h.1).2.2
  show decAre 21 o = _
  unfold decAre
  rw [hmin]
  exact guardWf_ok _ hw

theorem Encoding.cvt : ∀ o, Encoding.Statement (.cvt o) := by
  intro o p hs rest hw hp he
  cases hp; cases he
  have hk := hw
  obtain ⟨hm, hn, h3⟩ : modSeen o.mod = true ∧ (o.na != 3) = true ∧ True := by
    simp only [Instr.wf, okCvt, okFlat, okRed, okRedq, okBcastRow, okShift, Bool.and_eq_true] at hk
    first
      | exact ⟨(Shape_ok_parts hk).1, (Shape_ok_parts hk).2.1, trivial⟩
      | exact ⟨(Shape_ok_parts hk.1).1, (Shape_ok_parts hk.1).2.1, trivial⟩
      | exact ⟨(Shape_ok_parts hk.1.1).1, (Shape_ok_parts hk.1.1).2.1, trivial⟩
      | exact ⟨(Shape_ok_parts hk.1.1.1).1, (Shape_ok_parts hk.1.1.1).2.1, trivial⟩
      | exact ⟨(Shape_ok_parts hk.1.1.1.1).1, (Shape_ok_parts hk.1.1.1.1).2.1, trivial⟩
      | (split at hk <;> exact ⟨(Shape_ok_parts hk).1, (Shape_ok_parts hk).2.1, trivial⟩)
  refine readAt_eng _ (by simp) 0x16 o _ hm hn ?_ rest
  exact guardWf_ok _ hw

theorem Encoding.qnt : ∀ o, Encoding.Statement (.qnt o) := by
  intro o p hs rest hw hp he
  cases hp; cases he
  have hk := hw
  obtain ⟨hm, hn, h3⟩ : modSeen o.mod = true ∧ (o.na != 3) = true ∧ True := by
    simp only [Instr.wf, okFlat, okRed, okRedq, okBcastRow, okShift, Bool.and_eq_true] at hk
    first
      | exact ⟨(Shape_ok_parts hk).1, (Shape_ok_parts hk).2.1, trivial⟩
      | exact ⟨(Shape_ok_parts hk.1).1, (Shape_ok_parts hk.1).2.1, trivial⟩
      | exact ⟨(Shape_ok_parts hk.1.1).1, (Shape_ok_parts hk.1.1).2.1, trivial⟩
      | exact ⟨(Shape_ok_parts hk.1.1.1).1, (Shape_ok_parts hk.1.1.1).2.1, trivial⟩
      | exact ⟨(Shape_ok_parts hk.1.1.1.1).1, (Shape_ok_parts hk.1.1.1.1).2.1, trivial⟩
      | (split at hk <;> exact ⟨(Shape_ok_parts hk).1, (Shape_ok_parts hk).2.1, trivial⟩)
  refine readAt_eng _ (by simp) 0x17 o _ hm hn ?_ rest
  exact guardWf_ok _ hw

theorem Encoding.dqt : ∀ o, Encoding.Statement (.dqt o) := by
  intro o p hs rest hw hp he
  cases hp; cases he
  have hk := hw
  obtain ⟨hm, hn, h3⟩ : modSeen o.mod = true ∧ (o.na != 3) = true ∧ True := by
    simp only [Instr.wf, okFlat, okRed, okRedq, okBcastRow, okShift, Bool.and_eq_true] at hk
    first
      | exact ⟨(Shape_ok_parts hk).1, (Shape_ok_parts hk).2.1, trivial⟩
      | exact ⟨(Shape_ok_parts hk.1).1, (Shape_ok_parts hk.1).2.1, trivial⟩
      | exact ⟨(Shape_ok_parts hk.1.1).1, (Shape_ok_parts hk.1.1).2.1, trivial⟩
      | exact ⟨(Shape_ok_parts hk.1.1.1).1, (Shape_ok_parts hk.1.1.1).2.1, trivial⟩
      | exact ⟨(Shape_ok_parts hk.1.1.1.1).1, (Shape_ok_parts hk.1.1.1.1).2.1, trivial⟩
      | (split at hk <;> exact ⟨(Shape_ok_parts hk).1, (Shape_ok_parts hk).2.1, trivial⟩)
  refine readAt_eng _ (by simp) 0x18 o _ hm hn ?_ rest
  exact guardWf_ok _ hw

theorem Encoding.areAnd : ∀ o, Encoding.Statement (.areAnd o) := by
  intro o p hs rest hw hp he
  cases hp; cases he
  have hk := hw
  obtain ⟨hm, hn, h3⟩ := Shape_ok_parts (show _ = true from hk)
  refine readAt_eng _ (by simp) 0x19 o _ hm hn ?_ rest
  exact guardWf_ok _ hw

theorem Encoding.areOr : ∀ o, Encoding.Statement (.areOr o) := by
  intro o p hs rest hw hp he
  cases hp; cases he
  have hk := hw
  obtain ⟨hm, hn, h3⟩ := Shape_ok_parts (show _ = true from hk)
  refine readAt_eng _ (by simp) 0x1a o _ hm hn ?_ rest
  exact guardWf_ok _ hw

theorem Encoding.areXor : ∀ o, Encoding.Statement (.areXor o) := by
  intro o p hs rest hw hp he
  cases hp; cases he
  have hk := hw
  obtain ⟨hm, hn, h3⟩ := Shape_ok_parts (show _ = true from hk)
  refine readAt_eng _ (by simp) 0x1b o _ hm hn ?_ rest
  exact guardWf_ok _ hw

theorem Encoding.not : ∀ o, Encoding.Statement (.not o) := by
  intro o p hs rest hw hp he
  cases hp; cases he
  have hk := hw
  obtain ⟨hm, hn, h3⟩ := Shape_ok_parts (show _ = true from hk)
  refine readAt_eng _ (by simp) 0x1c o _ hm hn ?_ rest
  exact guardWf_ok _ hw

theorem Encoding.shl : ∀ o, Encoding.Statement (.shl o) := by
  intro o p hs rest hw hp he
  cases hp; cases he
  have hk := hw
  obtain ⟨hm, hn, h3⟩ : modSeen o.mod = true ∧ (o.na != 3) = true ∧ True := by
    simp only [Instr.wf, okFlat, okRed, okRedq, okShift, okBcastRow, okShift, Bool.and_eq_true] at hk
    first
      | exact ⟨(Shape_ok_parts hk).1, (Shape_ok_parts hk).2.1, trivial⟩
      | exact ⟨(Shape_ok_parts hk.1).1, (Shape_ok_parts hk.1).2.1, trivial⟩
      | exact ⟨(Shape_ok_parts hk.1.1).1, (Shape_ok_parts hk.1.1).2.1, trivial⟩
      | exact ⟨(Shape_ok_parts hk.1.1.1).1, (Shape_ok_parts hk.1.1.1).2.1, trivial⟩
      | exact ⟨(Shape_ok_parts hk.1.1.1.1).1, (Shape_ok_parts hk.1.1.1.1).2.1, trivial⟩
      | (split at hk <;> exact ⟨(Shape_ok_parts hk).1, (Shape_ok_parts hk).2.1, trivial⟩)
  refine readAt_eng _ (by simp) 0x1d o _ hm hn ?_ rest
  exact guardWf_ok _ hw

theorem Encoding.shr : ∀ o, Encoding.Statement (.shr o) := by
  intro o p hs rest hw hp he
  cases hp; cases he
  have hk := hw
  obtain ⟨hm, hn, h3⟩ : modSeen o.mod = true ∧ (o.na != 3) = true ∧ True := by
    simp only [Instr.wf, okFlat, okRed, okRedq, okShift, okBcastRow, okShift, Bool.and_eq_true] at hk
    first
      | exact ⟨(Shape_ok_parts hk).1, (Shape_ok_parts hk).2.1, trivial⟩
      | exact ⟨(Shape_ok_parts hk.1).1, (Shape_ok_parts hk.1).2.1, trivial⟩
      | exact ⟨(Shape_ok_parts hk.1.1).1, (Shape_ok_parts hk.1.1).2.1, trivial⟩
      | exact ⟨(Shape_ok_parts hk.1.1.1).1, (Shape_ok_parts hk.1.1.1).2.1, trivial⟩
      | exact ⟨(Shape_ok_parts hk.1.1.1.1).1, (Shape_ok_parts hk.1.1.1.1).2.1, trivial⟩
      | (split at hk <;> exact ⟨(Shape_ok_parts hk).1, (Shape_ok_parts hk).2.1, trivial⟩)
  refine readAt_eng _ (by simp) 0x1e o _ hm hn ?_ rest
  exact guardWf_ok _ hw

theorem Encoding.areSra : ∀ o, Encoding.Statement (.areSra o) := by
  intro o p hs rest hw hp he
  cases hp; cases he
  have hk := hw
  obtain ⟨hm, hn, h3⟩ : modSeen o.mod = true ∧ (o.na != 3) = true ∧ True := by
    simp only [Instr.wf, okFlat, okRed, okRedq, okShift, okBcastRow, okShift, Bool.and_eq_true] at hk
    first
      | exact ⟨(Shape_ok_parts hk).1, (Shape_ok_parts hk).2.1, trivial⟩
      | exact ⟨(Shape_ok_parts hk.1).1, (Shape_ok_parts hk.1).2.1, trivial⟩
      | exact ⟨(Shape_ok_parts hk.1.1).1, (Shape_ok_parts hk.1.1).2.1, trivial⟩
      | exact ⟨(Shape_ok_parts hk.1.1.1).1, (Shape_ok_parts hk.1.1.1).2.1, trivial⟩
      | exact ⟨(Shape_ok_parts hk.1.1.1.1).1, (Shape_ok_parts hk.1.1.1.1).2.1, trivial⟩
      | (split at hk <;> exact ⟨(Shape_ok_parts hk).1, (Shape_ok_parts hk).2.1, trivial⟩)
  refine readAt_eng _ (by simp) 0x1f o _ hm hn ?_ rest
  exact guardWf_ok _ hw

theorem Encoding.mov : ∀ o, Encoding.Statement (.mov o) := by
  intro o p hs rest hw hp he
  cases hp; cases he
  have hk := hw
  obtain ⟨hm, hn, h3⟩ := Shape_ok_parts (show _ = true from hk)
  refine readAt_eng _ (by simp) 0x20 o _ hm hn ?_ rest
  exact guardWf_ok _ hw

theorem Encoding.mldb : ∀ o, Encoding.Statement (.mldb o) := by
  intro o p hs rest hw hp he
  cases hp; cases he
  have hk := hw
  obtain ⟨hm, hn, h3⟩ := Shape_ok_parts (show _ = true from hk)
  refine readAt_eng _ (by simp) 0x1 o _ hm hn ?_ rest
  exact guardWf_ok _ hw

theorem Encoding.mcb : ∀ o, Encoding.Statement (.mcb o) := by
  intro o p hs rest hw hp he
  cases hp; cases he
  have hk := hw
  obtain ⟨hm, hn, h3⟩ := Shape_ok_parts (show _ = true from hk)
  refine readAt_eng _ (by simp) 0x2 o _ hm hn ?_ rest
  exact guardWf_ok _ hw

theorem Encoding.msemi : ∀ o, Encoding.Statement (.msemi o) := by
  intro o p hs rest hw hp he
  cases hp; cases he
  have hk := hw
  obtain ⟨hm, hn, h3⟩ := Shape_ok_parts (show _ = true from hk)
  refine readAt_eng _ (by simp) 0x3 o _ hm hn ?_ rest
  exact guardWf_ok _ hw

theorem Encoding.mmul : ∀ o, Encoding.Statement (.mmul o) := by
  intro o p hs rest hw hp he
  cases hp; cases he
  have hk := hw
  obtain ⟨hm, hn, h3⟩ := Shape_ok_parts (show _ = true from hk)
  refine readAt_eng _ (by simp) 0x4 o _ hm hn ?_ rest
  have hmin : (eMod o).min3.toNat = 0 := by
    have h := hw
    simp only [Instr.wf, okRed, okRedq, okBcastRow, Bool.and_eq_true] at h
    first
      | exact beq_iff_eq.mp (Shape_ok_parts h).2.2
      | exact beq_iff_eq.mp (Shape_ok_parts h.1).2.2
  show decMxe 4 o = _
  unfold decMxe
  rw [hmin]
  exact guardWf_ok _ hw

theorem Encoding.mmulm : ∀ o, Encoding.Statement (.mmulm o) := by
  intro o p hs rest hw hp he
  cases hp; cases he
  have hk := hw
  obtain ⟨hm, hn, h3⟩ := Shape_ok_parts (show _ = true from hk)
  refine readAt_eng _ (by simp) 0x4 o _ hm hn ?_ rest
  have hmin : (eMod o).min3.toNat = 1 := by
    have h := hw
    simp only [Instr.wf, okRed, okRedq, okBcastRow, Bool.and_eq_true] at h
    first
      | exact beq_iff_eq.mp (Shape_ok_parts h).2.2
      | exact beq_iff_eq.mp (Shape_ok_parts h.1).2.2
  show decMxe 4 o = _
  unfold decMxe
  rw [hmin]
  exact guardWf_ok _ hw

theorem Encoding.mzero : ∀ o, Encoding.Statement (.mzero o) := by
  intro o p hs rest hw hp he
  cases hp; cases he
  have hk := hw
  obtain ⟨hm, hn, h3⟩ := Shape_ok_parts (show _ = true from hk)
  refine readAt_eng _ (by simp) 0x5 o _ hm hn ?_ rest
  exact guardWf_ok _ hw

theorem Encoding.mdrain : ∀ o, Encoding.Statement (.mdrain o) := by
  intro o p hs rest hw hp he
  cases hp; cases he
  have hk := hw
  obtain ⟨hm, hn, h3⟩ : modSeen o.mod = true ∧ (o.na != 3) = true ∧ True := by
    simp only [Instr.wf, okFlat, okMdrain, okRed, okRedq, okBcastRow, okShift, Bool.and_eq_true] at hk
    first
      | exact ⟨(Shape_ok_parts hk).1, (Shape_ok_parts hk).2.1, trivial⟩
      | exact ⟨(Shape_ok_parts hk.1).1, (Shape_ok_parts hk.1).2.1, trivial⟩
      | exact ⟨(Shape_ok_parts hk.1.1).1, (Shape_ok_parts hk.1.1).2.1, trivial⟩
      | exact ⟨(Shape_ok_parts hk.1.1.1).1, (Shape_ok_parts hk.1.1.1).2.1, trivial⟩
      | exact ⟨(Shape_ok_parts hk.1.1.1.1).1, (Shape_ok_parts hk.1.1.1.1).2.1, trivial⟩
      | (split at hk <;> exact ⟨(Shape_ok_parts hk).1, (Shape_ok_parts hk).2.1, trivial⟩)
  refine readAt_eng _ (by simp) 0x6 o _ hm hn ?_ rest
  exact guardWf_ok _ hw

theorem Encoding.copy : ∀ o, Encoding.Statement (.copy o) := by
  intro o p hs rest hw hp he
  cases hp; cases he
  obtain ⟨h0, h1, h2, h3, h4⟩ := encCOp_fields 1 o
  have hn : (o.na == (3 : BitVec 2)) = false := by
    have := hw
    simp_all [Instr.wf, okC3x, okC3, okC2, okC1, okC0, okCv]
  refine readAt_c32 _ (by simp) _ _ h0 ?_ rest
  show decCpe _ = _
  simp only [decCpe, h0, h1, h2, h3, h4, hn]
  exact take_ok _ _ rfl hw

theorem Encoding.copy2d : ∀ o, Encoding.Statement (.copy2d o) := by
  intro o p hs rest hw hp he
  cases hp; cases he
  obtain ⟨h0, h1, h2, h3, h4⟩ := encCOp_fields 2 o
  have hn : (o.na == (3 : BitVec 2)) = false := by
    have := hw
    simp_all [Instr.wf, okC3x, okC3, okC2, okC1, okC0, okCv]
  refine readAt_c32 _ (by simp) _ _ h0 ?_ rest
  show decCpe _ = _
  simp only [decCpe, h0, h1, h2, h3, h4, hn]
  exact take_ok _ _ rfl hw

theorem Encoding.fill : ∀ o, Encoding.Statement (.fill o) := by
  intro o p hs rest hw hp he
  cases hp; cases he
  obtain ⟨h0, h1, h2, h3, h4⟩ := encCOp_fields 3 o
  have hn : (o.na == (3 : BitVec 2)) = false := by
    have := hw
    simp_all [Instr.wf, okC3x, okC3, okC2, okC1, okC0, okCv]
  refine readAt_c32 _ (by simp) _ _ h0 ?_ rest
  show decCpe _ = _
  simp only [decCpe, h0, h1, h2, h3, h4, hn]
  exact take_ok _ _ rfl hw

theorem Encoding.rwrite : ∀ o, Encoding.Statement (.rwrite o) := by
  intro o p hs rest hw hp he
  cases hp; cases he
  obtain ⟨h0, h1, h2, h3, h4⟩ := encCOp_fields 4 o
  have hn : (o.na == (3 : BitVec 2)) = false := by
    have := hw
    simp_all [Instr.wf, okC3x, okC3, okC2, okC1, okC0, okCv]
  refine readAt_c32 _ (by simp) _ _ h0 ?_ rest
  show decCpe _ = _
  simp only [decCpe, h0, h1, h2, h3, h4, hn]
  exact take_ok _ _ rfl hw

theorem Encoding.mcast : ∀ o, Encoding.Statement (.mcast o) := by
  intro o p hs rest hw hp he
  cases hp; cases he
  obtain ⟨h0, h1, h2, h3, h4⟩ := encCOp_fields 5 o
  have hn : (o.na == (3 : BitVec 2)) = false := by
    have := hw
    simp_all [Instr.wf, okC3x, okC3, okC2, okC1, okC0, okCv]
  refine readAt_c32 _ (by simp) _ _ h0 ?_ rest
  show decCpe _ = _
  simp only [decCpe, h0, h1, h2, h3, h4, hn]
  exact take_ok _ _ rfl hw

theorem Encoding.ksend : ∀ o, Encoding.Statement (.ksend o) := by
  intro o p hs rest hw hp he
  cases hp; cases he
  obtain ⟨h0, h1, h2, h3, h4⟩ := encCOp_fields 1 o
  have hn : (o.na == (3 : BitVec 2)) = false := by
    have := hw
    simp_all [Instr.wf, okC3x, okC3, okC2, okC1, okC0, okCv]
  refine readAt_c32 _ (by simp) _ _ h0 ?_ rest
  show decCoe _ = _
  simp only [decCoe, h0, h1, h2, h3, h4, hn]
  exact take_ok _ _ rfl hw

theorem Encoding.krecv : ∀ o, Encoding.Statement (.krecv o) := by
  intro o p hs rest hw hp he
  cases hp; cases he
  obtain ⟨h0, h1, h2, h3, h4⟩ := encCOp_fields 2 o
  have hn : (o.na == (3 : BitVec 2)) = false := by
    have := hw
    simp_all [Instr.wf, okC3x, okC3, okC2, okC1, okC0, okCv]
  refine readAt_c32 _ (by simp) _ _ h0 ?_ rest
  show decCoe _ = _
  simp only [decCoe, h0, h1, h2, h3, h4, hn]
  exact take_ok _ _ rfl hw

theorem Encoding.kwid : ∀ o, Encoding.Statement (.kwid o) := by
  intro o p hs rest hw hp he
  cases hp; cases he
  obtain ⟨h0, h1, h2, h3, h4⟩ := encCOp_fields 3 o
  have hn : (o.na == (3 : BitVec 2)) = false := by
    have := hw
    simp_all [Instr.wf, okC3x, okC3, okC2, okC1, okC0, okCv]
  refine readAt_c32 _ (by simp) _ _ h0 ?_ rest
  show decCoe _ = _
  simp only [decCoe, h0, h1, h2, h3, h4, hn]
  exact take_ok _ _ rfl hw

theorem Encoding.kadd : ∀ o, Encoding.Statement (.kadd o) := by
  intro o p hs rest hw hp he
  cases hp; cases he
  obtain ⟨h0, h1, h2, h3, h4⟩ := encCOp_fields 4 o
  have hn : (o.na == (3 : BitVec 2)) = false := by
    have := hw
    simp_all [Instr.wf, okC3x, okC3, okC2, okC1, okC0, okCv]
  refine readAt_c32 _ (by simp) _ _ h0 ?_ rest
  show decCoe _ = _
  simp only [decCoe, h0, h1, h2, h3, h4, hn]
  exact take_ok _ _ rfl hw

theorem Encoding.kreq : ∀ o, Encoding.Statement (.kreq o) := by
  intro o p hs rest hw hp he
  cases hp; cases he
  obtain ⟨h0, h1, h2, h3, h4⟩ := encCOp_fields 5 o
  have hn : (o.na == (3 : BitVec 2)) = false := by
    have := hw
    simp_all [Instr.wf, okC3x, okC3, okC2, okC1, okC0, okCv]
  refine readAt_c32 _ (by simp) _ _ h0 ?_ rest
  show decCoe _ = _
  simp only [decCoe, h0, h1, h2, h3, h4, hn]
  exact take_ok _ _ rfl hw

theorem Encoding.krel : ∀ o, Encoding.Statement (.krel o) := by
  intro o p hs rest hw hp he
  cases hp; cases he
  obtain ⟨h0, h1, h2, h3, h4⟩ := encCOp_fields 6 o
  have hn : (o.na == (3 : BitVec 2)) = false := by
    have := hw
    simp_all [Instr.wf, okC3x, okC3, okC2, okC1, okC0, okCv]
  refine readAt_c32 _ (by simp) _ _ h0 ?_ rest
  show decCoe _ = _
  simp only [decCoe, h0, h1, h2, h3, h4, hn]
  exact take_ok _ _ rfl hw

theorem Encoding.kbar : ∀ o, Encoding.Statement (.kbar o) := by
  intro o p hs rest hw hp he
  cases hp; cases he
  obtain ⟨h0, h1, h2, h3, h4⟩ := encCOp_fields 7 o
  have hn : (o.na == (3 : BitVec 2)) = false := by
    have := hw
    simp_all [Instr.wf, okC3x, okC3, okC2, okC1, okC0, okCv]
  refine readAt_c32 _ (by simp) _ _ h0 ?_ rest
  show decCoe _ = _
  simp only [decCoe, h0, h1, h2, h3, h4, hn]
  exact take_ok _ _ rfl hw

theorem Encoding.kabs : ∀ o, Encoding.Statement (.kabs o) := by
  intro o p hs rest hw hp he
  cases hp; cases he
  obtain ⟨h0, h1, h2, h3, h4⟩ := encCOp_fields 8 o
  have hn : (o.na == (3 : BitVec 2)) = false := by
    have := hw
    simp_all [Instr.wf, okC3x, okC3, okC2, okC1, okC0, okCv]
  refine readAt_c32 _ (by simp) _ _ h0 ?_ rest
  show decCoe _ = _
  simp only [decCoe, h0, h1, h2, h3, h4, hn]
  exact take_ok _ _ rfl hw

theorem Encoding.kframe : ∀ o, Encoding.Statement (.kframe o) := by
  intro o p hs rest hw hp he
  cases hp; cases he
  obtain ⟨h0, h1, h2, h3, h4⟩ := encCOp_fields 9 o
  have hn : (o.na == (3 : BitVec 2)) = false := by
    have := hw
    simp_all [Instr.wf, okC3x, okC3, okC2, okC1, okC0, okCv]
  refine readAt_c32 _ (by simp) _ _ h0 ?_ rest
  show decCoe _ = _
  simp only [decCoe, h0, h1, h2, h3, h4, hn]
  exact take_ok _ _ rfl hw

theorem Encoding.blockCommit : ∀ d k, Encoding.Statement (.blockCommit d k) := by
  intro d k
  exact fun p hs rest _ hp _ => nomatch hp

theorem Encoding.runAheadMispredict : ∀ d k, Encoding.Statement (.runAheadMispredict d k) := by
  intro d k
  exact fun p hs rest _ hp _ => nomatch hp

theorem Encoding.blockWaitMet : ∀ d k, Encoding.Statement (.blockWaitMet d k) := by
  intro d k
  exact fun p hs rest _ hp _ => nomatch hp

theorem Encoding.readStep : ∀ d a e, Encoding.Statement (.readStep d a e) := by
  intro d a e
  exact fun p hs rest _ hp _ => nomatch hp

theorem Encoding.drainStep : ∀ d a e, Encoding.Statement (.drainStep d a e) := by
  intro d a e
  exact fun p hs rest _ hp _ => nomatch hp

theorem Encoding.heldWriteApply : ∀ d i, Encoding.Statement (.heldWriteApply d i) := by
  intro d i
  exact fun p hs rest _ hp _ => nomatch hp

theorem Encoding.linkForward : ∀ l east, Encoding.Statement (.linkForward l east) := by
  intro l east
  exact fun p hs rest _ hp _ => nomatch hp

theorem Encoding.gateWriteApply : ∀ h d e, Encoding.Statement (.gateWriteApply h d e) := by
  intro h d e
  exact fun p hs rest _ hp _ => nomatch hp

theorem Encoding.gateReadPerform : ∀ h d e, Encoding.Statement (.gateReadPerform h d e) := by
  intro h d e
  exact fun p hs rest _ hp _ => nomatch hp

theorem Encoding.gateBeat : ∀ h d, Encoding.Statement (.gateBeat h d) := by
  intro h d
  exact fun p hs rest _ hp _ => nomatch hp

theorem Encoding.beat : ∀ d h, Encoding.Statement (.beat d h) := by
  intro d h
  exact fun p hs rest _ hp _ => nomatch hp

theorem Encoding.reply : ∀ d h, Encoding.Statement (.reply d h) := by
  intro d h
  exact fun p hs rest _ hp _ => nomatch hp

theorem Encoding.publishInvalidation : ∀ h d, Encoding.Statement (.publishInvalidation h d) := by
  intro h d
  exact fun p hs rest _ hp _ => nomatch hp

theorem Encoding.requestResend : ∀ d h, Encoding.Statement (.requestResend d h) := by
  intro d h
  exact fun p hs rest _ hp _ => nomatch hp

theorem Encoding.ticketCall : ∀ h, Encoding.Statement (.ticketCall h) := by
  intro h
  exact fun p hs rest _ hp _ => nomatch hp

theorem Encoding.fabricWriteApply : ∀ d m, Encoding.Statement (.fabricWriteApply d m) := by
  intro d m
  exact fun p hs rest _ hp _ => nomatch hp

theorem Encoding.publishStep : ∀ d k, Encoding.Statement (.publishStep d k) := by
  intro d k
  exact fun p hs rest _ hp _ => nomatch hp

theorem Encoding.pageWalk : ∀ d t va wr cached, Encoding.Statement (.pageWalk d t va wr cached) := by
  intro d t va wr cached
  exact fun p hs rest _ hp _ => nomatch hp

theorem Encoding.entryStart : ∀ d a, Encoding.Statement (.entryStart d a) := by
  intro d a
  exact fun p hs rest _ hp _ => nomatch hp

theorem Encoding.entryComplete : ∀ d a, Encoding.Statement (.entryComplete d a) := by
  intro d a
  exact fun p hs rest _ hp _ => nomatch hp

theorem Encoding.rowArrival : ∀ d k, Encoding.Statement (.rowArrival d k) := by
  intro d k
  exact fun p hs rest _ hp _ => nomatch hp

theorem Encoding.storeRowRead : ∀ d k, Encoding.Statement (.storeRowRead d k) := by
  intro d k
  exact fun p hs rest _ hp _ => nomatch hp

theorem Encoding.areRowStep : ∀ d k e, Encoding.Statement (.areRowStep d k e) := by
  intro d k e
  exact fun p hs rest _ hp _ => nomatch hp

theorem Encoding.portRowFetch : ∀ d k w e, Encoding.Statement (.portRowFetch d k w e) := by
  intro d k w e
  exact fun p hs rest _ hp _ => nomatch hp

theorem Encoding.matrixPass : ∀ d k j e, Encoding.Statement (.matrixPass d k j e) := by
  intro d k j e
  exact fun p hs rest _ hp _ => nomatch hp

theorem Encoding.chainRowSend : ∀ d k, Encoding.Statement (.chainRowSend d k) := by
  intro d k
  exact fun p hs rest _ hp _ => nomatch hp

theorem Encoding.drainEvent : ∀ d k, Encoding.Statement (.drainEvent d k) := by
  intro d k
  exact fun p hs rest _ hp _ => nomatch hp

theorem Encoding.copyChunk : ∀ d c e, Encoding.Statement (.copyChunk d c e) := by
  intro d c e
  exact fun p hs rest _ hp _ => nomatch hp

theorem Encoding.switchReplicate : ∀ d, Encoding.Statement (.switchReplicate d) := by
  intro d
  exact fun p hs rest _ hp _ => nomatch hp

theorem Encoding.mcastLineArrival : ∀ d m, Encoding.Statement (.mcastLineArrival d m) := by
  intro d m
  exact fun p hs rest _ hp _ => nomatch hp

theorem Encoding.aggregatedAck : ∀ d c acc ref, Encoding.Statement (.aggregatedAck d c acc ref) := by
  intro d c acc ref
  exact fun p hs rest _ hp _ => nomatch hp

theorem Encoding.mcastMemberTimeout : ∀ d c m, Encoding.Statement (.mcastMemberTimeout d c m) := by
  intro d c m
  exact fun p hs rest _ hp _ => nomatch hp

theorem Encoding.arrivalRecord : ∀ d k sc, Encoding.Statement (.arrivalRecord d k sc) := by
  intro d k sc
  exact fun p hs rest _ hp _ => nomatch hp

theorem Encoding.popFill : ∀ d k q, Encoding.Statement (.popFill d k q) := by
  intro d k q
  exact fun p hs rest _ hp _ => nomatch hp

theorem Encoding.syscPost : ∀ d k, Encoding.Statement (.syscPost d k) := by
  intro d k
  exact fun p hs rest _ hp _ => nomatch hp

theorem Encoding.frameEntry : ∀ d x, Encoding.Statement (.frameEntry d x) := by
  intro d x
  exact fun p hs rest _ hp _ => nomatch hp

theorem Encoding.stepStart : ∀ d x, Encoding.Statement (.stepStart d x) := by
  intro d x
  exact fun p hs rest _ hp _ => nomatch hp

theorem Encoding.stepComplete : ∀ d x, Encoding.Statement (.stepComplete d x) := by
  intro d x
  exact fun p hs rest _ hp _ => nomatch hp

theorem Encoding.slipNotice : ∀ d grp delay, Encoding.Statement (.slipNotice d grp delay) := by
  intro d grp delay
  exact fun p hs rest _ hp _ => nomatch hp

theorem Encoding.frameQuery : ∀ d grp n id pkg src, Encoding.Statement (.frameQuery d grp n id pkg src) := by
  intro d grp n id pkg src
  exact fun p hs rest _ hp _ => nomatch hp

theorem Encoding.frameGrant : ∀ d id, Encoding.Statement (.frameGrant d id) := by
  intro d id
  exact fun p hs rest _ hp _ => nomatch hp

theorem Encoding.barrierArrival : ∀ d grp m gen, Encoding.Statement (.barrierArrival d grp m gen) := by
  intro d grp m gen
  exact fun p hs rest _ hp _ => nomatch hp

theorem Encoding.barrierAbsence : ∀ d grp m, Encoding.Statement (.barrierAbsence d grp m) := by
  intro d grp m
  exact fun p hs rest _ hp _ => nomatch hp

theorem Encoding.barrierPresence : ∀ d grp m, Encoding.Statement (.barrierPresence d grp m) := by
  intro d grp m
  exact fun p hs rest _ hp _ => nomatch hp

theorem Encoding.barrierTimeout : ∀ d x, Encoding.Statement (.barrierTimeout d x) := by
  intro d x
  exact fun p hs rest _ hp _ => nomatch hp

theorem Encoding.kickPass : ∀ d, Encoding.Statement (.kickPass d) := by
  intro d
  exact fun p hs rest _ hp _ => nomatch hp

theorem Encoding.fragmentLeaseGrant : ∀ d, Encoding.Statement (.fragmentLeaseGrant d) := by
  intro d
  exact fun p hs rest _ hp _ => nomatch hp

theorem Encoding.pickUp : ∀ d k, Encoding.Statement (.pickUp d k) := by
  intro d k
  exact fun p hs rest _ hp _ => nomatch hp

theorem Encoding.fragmentGiveUp : ∀ d b, Encoding.Statement (.fragmentGiveUp d b) := by
  intro d b
  exact fun p hs rest _ hp _ => nomatch hp

theorem Encoding.blockRetire : ∀ d b, Encoding.Statement (.blockRetire d b) := by
  intro d b
  exact fun p hs rest _ hp _ => nomatch hp

theorem Encoding.sliceEnd : ∀ d t, Encoding.Statement (.sliceEnd d t) := by
  intro d t
  exact fun p hs rest _ hp _ => nomatch hp

theorem Encoding.class0Preempt : ∀ d, Encoding.Statement (.class0Preempt d) := by
  intro d
  exact fun p hs rest _ hp _ => nomatch hp

theorem Encoding.engineStopAck : ∀ d a, Encoding.Statement (.engineStopAck d a) := by
  intro d a
  exact fun p hs rest _ hp _ => nomatch hp

theorem Encoding.preemptionComplete : ∀ d t k e, Encoding.Statement (.preemptionComplete d t k e) := by
  intro d t k e
  exact fun p hs rest _ hp _ => nomatch hp

theorem Encoding.swapIn : ∀ d, Encoding.Statement (.swapIn d) := by
  intro d
  exact fun p hs rest _ hp _ => nomatch hp

theorem Encoding.balanceControl : ∀ d b, Encoding.Statement (.balanceControl d b) := by
  intro d b
  exact fun p hs rest _ hp _ => nomatch hp

theorem Encoding.bimbWindowEnd : ∀ d b, Encoding.Statement (.bimbWindowEnd d b) := by
  intro d b
  exact fun p hs rest _ hp _ => nomatch hp

theorem Encoding.timingReplay : ∀ d b fails, Encoding.Statement (.timingReplay d b fails) := by
  intro d b fails
  exact fun p hs rest _ hp _ => nomatch hp

theorem Encoding.faultPost : ∀ d, Encoding.Statement (.faultPost d) := by
  intro d
  exact fun p hs rest _ hp _ => nomatch hp

theorem Encoding.terminalFaultStop : ∀ d b, Encoding.Statement (.terminalFaultStop d b) := by
  intro d b
  exact fun p hs rest _ hp _ => nomatch hp

theorem Encoding.fltrespCont : ∀ d i, Encoding.Statement (.fltrespCont d i) := by
  intro d i
  exact fun p hs rest _ hp _ => nomatch hp

theorem Encoding.fltrespSave : ∀ d i, Encoding.Statement (.fltrespSave d i) := by
  intro d i
  exact fun p hs rest _ hp _ => nomatch hp

theorem Encoding.fltrespKill : ∀ d i, Encoding.Statement (.fltrespKill d i) := by
  intro d i
  exact fun p hs rest _ hp _ => nomatch hp

theorem Encoding.scrub : ∀ d line e, Encoding.Statement (.scrub d line e) := by
  intro d line e
  exact fun p hs rest _ hp _ => nomatch hp

theorem Encoding.pinHoldTimeout : ∀ d i, Encoding.Statement (.pinHoldTimeout d i) := by
  intro d i
  exact fun p hs rest _ hp _ => nomatch hp

theorem Encoding.linkLostNotice : ∀ h, Encoding.Statement (.linkLostNotice h) := by
  intro h
  exact fun p hs rest _ hp _ => nomatch hp

theorem Encoding.linkRetrainFail : ∀ l, Encoding.Statement (.linkRetrainFail l) := by
  intro l
  exact fun p hs rest _ hp _ => nomatch hp

theorem Encoding.rejoinBeat : ∀ e h, Encoding.Statement (.rejoinBeat e h) := by
  intro e h
  exact fun p hs rest _ hp _ => nomatch hp

theorem Encoding.nftPortFailover : ∀ d pkg die, Encoding.Statement (.nftPortFailover d pkg die) := by
  intro d pkg die
  exact fun p hs rest _ hp _ => nomatch hp

theorem Encoding.nftUnreachable : ∀ d pkg die, Encoding.Statement (.nftUnreachable d pkg die) := by
  intro d pkg die
  exact fun p hs rest _ hp _ => nomatch hp

theorem Encoding.schedulerCoreFailure : ∀ d, Encoding.Statement (.schedulerCoreFailure d) := by
  intro d
  exact fun p hs rest _ hp _ => nomatch hp

theorem Encoding.adoption : ∀ d, Encoding.Statement (.adoption d) := by
  intro d
  exact fun p hs rest _ hp _ => nomatch hp

theorem Encoding.pairTimeout : ∀ d, Encoding.Statement (.pairTimeout d) := by
  intro d
  exact fun p hs rest _ hp _ => nomatch hp

theorem Encoding.grantWindowEnd : ∀ d watts hottest, Encoding.Statement (.grantWindowEnd d watts hottest) := by
  intro d watts hottest
  exact fun p hs rest _ hp _ => nomatch hp

theorem Encoding.marginWindowEnd : ∀ d b, Encoding.Statement (.marginWindowEnd d b) := by
  intro d b
  exact fun p hs rest _ hp _ => nomatch hp

theorem Encoding.refreshRateChange : ∀ d bank temp, Encoding.Statement (.refreshRateChange d bank temp) := by
  intro d bank temp
  exact fun p hs rest _ hp _ => nomatch hp

theorem Encoding.ashapeClearBen : ∀ d b, Encoding.Statement (.ashapeClearBen d b) := by
  intro d b
  exact fun p hs rest _ hp _ => nomatch hp

theorem Encoding.ashapeSetBen : ∀ d b, Encoding.Statement (.ashapeSetBen d b) := by
  intro d b
  exact fun p hs rest _ hp _ => nomatch hp

theorem Encoding.bandPowerOff : ∀ d b, Encoding.Statement (.bandPowerOff d b) := by
  intro d b
  exact fun p hs rest _ hp _ => nomatch hp

theorem Encoding.bandPowerOn : ∀ d b, Encoding.Statement (.bandPowerOn d b) := by
  intro d b
  exact fun p hs rest _ hp _ => nomatch hp

theorem Encoding.kickset : ∀ d i, Encoding.Statement (.kickset d i) := by
  intro d i
  exact fun p hs rest _ hp _ => nomatch hp

theorem Encoding.tlbinvAll : ∀ d, Encoding.Statement (.tlbinvAll d) := by
  intro d
  exact fun p hs rest _ hp _ => nomatch hp

theorem Encoding.tlbinvAsid : ∀ d asid, Encoding.Statement (.tlbinvAsid d asid) := by
  intro d asid
  exact fun p hs rest _ hp _ => nomatch hp

theorem Encoding.tlbinvVpn : ∀ d asid vpn, Encoding.Statement (.tlbinvVpn d asid vpn) := by
  intro d asid vpn
  exact fun p hs rest _ hp _ => nomatch hp

theorem Encoding.tlbinvDone : ∀ d, Encoding.Statement (.tlbinvDone d) := by
  intro d
  exact fun p hs rest _ hp _ => nomatch hp

theorem Encoding.proofEntryWrite : ∀ d q v, Encoding.Statement (.proofEntryWrite d q v) := by
  intro d q v
  exact fun p hs rest _ hp _ => nomatch hp

theorem Encoding.syscdone : ∀ d i, Encoding.Statement (.syscdone d i) := by
  intro d i
  exact fun p hs rest _ hp _ => nomatch hp

theorem Encoding.resync : ∀ d v, Encoding.Statement (.resync d v) := by
  intro d v
  exact fun p hs rest _ hp _ => nomatch hp

theorem Encoding.contactSheetDone : ∀ d, Encoding.Statement (.contactSheetDone d) := by
  intro d
  exact fun p hs rest _ hp _ => nomatch hp

theorem Encoding.tickadj : ∀ d v, Encoding.Statement (.tickadj d v) := by
  intro d v
  exact fun p hs rest _ hp _ => nomatch hp

theorem Encoding.xcat : ∀ d pid cat, Encoding.Statement (.xcat d pid cat) := by
  intro d pid cat
  exact fun p hs rest _ hp _ => nomatch hp

theorem Encoding.trcbaseEnable : ∀ d v, Encoding.Statement (.trcbaseEnable d v) := by
  intro d v
  exact fun p hs rest _ hp _ => nomatch hp

theorem Encoding.margRecal : ∀ d b, Encoding.Statement (.margRecal d b) := by
  intro d b
  exact fun p hs rest _ hp _ => nomatch hp

theorem Encoding.peerstRejoin : ∀ d mask, Encoding.Statement (.peerstRejoin d mask) := by
  intro d mask
  exact fun p hs rest _ hp _ => nomatch hp

theorem Encoding.registerWrite : ∀ d off v, Encoding.Statement (.registerWrite d off v) := by
  intro d off v
  exact fun p hs rest _ hp _ => nomatch hp

theorem Encoding.breakpointTick : ∀ d n, Encoding.Statement (.breakpointTick d n) := by
  intro d n
  exact fun p hs rest _ hp _ => nomatch hp

theorem Encoding.tapReset : Encoding.Statement (.tapReset) := by
  exact fun p hs rest _ hp _ => nomatch hp

theorem Encoding.tapExtest : ∀ d, Encoding.Statement (.tapExtest d) := by
  intro d
  exact fun p hs rest _ hp _ => nomatch hp

theorem Encoding.tapIdcode : ∀ d, Encoding.Statement (.tapIdcode d) := by
  intro d
  exact fun p hs rest _ hp _ => nomatch hp

theorem Encoding.tapSamplePreload : ∀ d, Encoding.Statement (.tapSamplePreload d) := by
  intro d
  exact fun p hs rest _ hp _ => nomatch hp

theorem Encoding.tapMreg : ∀ d dr, Encoding.Statement (.tapMreg d dr) := by
  intro d dr
  exact fun p hs rest _ hp _ => nomatch hp

theorem Encoding.tapRelease : ∀ d, Encoding.Statement (.tapRelease d) := by
  intro d
  exact fun p hs rest _ hp _ => nomatch hp

theorem Encoding.tapScansel : ∀ d sel, Encoding.Statement (.tapScansel d sel) := by
  intro d sel
  exact fun p hs rest _ hp _ => nomatch hp

theorem Encoding.tapScan : ∀ d, Encoding.Statement (.tapScan d) := by
  intro d
  exact fun p hs rest _ hp _ => nomatch hp

theorem Encoding.tapBypass : ∀ d tdi, Encoding.Statement (.tapBypass d tdi) := by
  intro d tdi
  exact fun p hs rest _ hp _ => nomatch hp

theorem Encoding.packageResetRelease : Encoding.Statement (.packageResetRelease) := by
  exact fun p hs rest _ hp _ => nomatch hp

theorem Encoding.bootImageCheck : ∀ d g i, Encoding.Statement (.bootImageCheck d g i) := by
  intro d g i
  exact fun p hs rest _ hp _ => nomatch hp

theorem Encoding.bootRetry : ∀ d, Encoding.Statement (.bootRetry d) := by
  intro d
  exact fun p hs rest _ hp _ => nomatch hp

theorem Encoding.referenceTick : Encoding.Statement (.referenceTick) := by
  exact fun p hs rest _ hp _ => nomatch hp

theorem Encoding.writeAcknowledgement : ∀ d h fab, Encoding.Statement (.writeAcknowledgement d h fab) := by
  intro d h fab
  exact fun p hs rest _ hp _ => nomatch hp

theorem Encoding.dieResetRelease : ∀ d, Encoding.Statement (.dieResetRelease d) := by
  intro d
  exact fun p hs rest _ hp _ => nomatch hp

theorem Encoding.packageLinkTrained : ∀ l, Encoding.Statement (.packageLinkTrained l) := by
  intro l
  exact fun p hs rest _ hp _ => nomatch hp

theorem Encoding.nftStreamRestart : ∀ d pkg die, Encoding.Statement (.nftStreamRestart d pkg die) := by
  intro d pkg die
  exact fun p hs rest _ hp _ => nomatch hp

theorem Encoding.fabricPortLinkUp : ∀ d f, Encoding.Statement (.fabricPortLinkUp d f) := by
  intro d f
  exact fun p hs rest _ hp _ => nomatch hp

theorem Encoding.dramRefresh : ∀ d row, Encoding.Statement (.dramRefresh d row) := by
  intro d row
  exact fun p hs rest _ hp _ => nomatch hp

end Sys2Proof.Laws
end

