-- ==== Sys2Proof/Safety.lean ====
section
/-! DEFINITION. The terms in which statements speak of the machine: which core is at work, what a word leaves, and what holds of every state. -/

namespace Sys2Proof.Machine

/-- The control core of slot `k` of die `d` is at work on its open block `b`. -/
structure AtCore (s : State) (d : DieId) (k : SlotId) (b : Open) : Prop where
  die : s.cur.die = d
  ag : s.cur.ag = .core k
  opn : (s.ctl d k).opn = some b

/-- What a body word of `h` halfwords answers that leaves `b` as the open block and changes nothing else. -/
def bodyNext (s : State) (d : DieId) (k : SlotId) (b : Open) (h : Nat) (na : BitVec 2) : Host.Outcome State Fault Refusal :=
  .next (s.setOpn d k (b.adv h na))

/-- The memory of every die is in canonical form (the model's own invariant of its storage). -/
def MemInv (s : State) : Prop := ∀ d : DieId, memWf (s.die d).mem = true

/-- Every sparse store of the machine is in canonical form (the model's own invariant): memories, proof tables, the scheduler's accounts, tiles, accumulators, weights, scales and tables. -/
structure StoreInv (s : State) : Prop where
  mem : MemInv s
  proofs : ∀ d, spWf (0 : W32) (s.die d).proofs = true
  acc : ∀ d, spWf zero5 (s.die d).sched.acc = true
  cat : ∀ d, spWf (2 : BitVec 3) (s.die d).sched.cat = true
  mark : ∀ d, spWf (0, zero5) (s.die d).sched.mark = true
  data : ∀ d k n, spWf (0 : Byte) (vget (s.slot d k).tiles n).data = true
  side : ∀ d k n, spWf (0 : Byte) (vget (s.slot d k).tiles n).side = true
  bank : ∀ d k, spWf (0 : W32) (s.slot d k).bank.acc = true
  wts : ∀ d k, spWf (0 : Byte) (s.slot d k).bank.wts = true
  wsc : ∀ d k, spWf (0 : BitVec 24) (s.slot d k).bank.wsc = true
  cb : ∀ d k n, spWf (0 : Byte) (vget (s.slot d k).bank.cb n) = true

/-- Every byte of every die's memory reads the same in both states. -/
def SameMem (s t : State) : Prop := ∀ (d : DieId) (a : Nat), memGet (t.die d).mem a = memGet (s.die d).mem a

/-- Outside slot `k` of die `d` nothing differs, and of that slot only its control core does. -/
structure OnlyCtl (s t : State) (d : DieId) (k : SlotId) : Prop where
  dies : ∀ e, e ≠ d → t.die e = s.die e
  slots : ∀ j, j ≠ k → t.slot d j = s.slot d j
  slot : t.slot d k = { s.slot d k with ctl := t.ctl d k }
  rest : t.die d = { s.die d with slots := (t.die d).slots }
  links : t.east = s.east ∧ t.west = s.west ∧ t.trained = s.trained
  steps : t.agenda = s.agenda ∧ t.cur = s.cur ∧ t.draws = s.draws ∧ t.shot = s.shot

/-- Block `b` of slot `k` has run its body and exits, and every check of its commit has passed with the answer `r` (R133, R187, R190): its queues have room, its lease stands, no drain event is asked for, and where it returns from a call its window fills have arrived. -/
structure CommitReady (s : State) (d : DieId) (k : SlotId) (b : Open) (r : Ready) : Prop where
  opn : (s.ctl d k).opn = some b
  phase : b.phase = .ready
  reads : (s.slot d k).agCtl.rd = []
  free : (s.slot d k).heldBy 0 = false
  going : vget (s.slot d k).stop 0 = false
  legal : b.bad = none
  room : ∀ q : Fin 6, (vget (s.slot d k).q q).length + vget b.npush q ≤ 16
  pops : ∀ q : Fin 4, unfilled (s.slot d k) b q ≤ 16
  lease : (s.die d).leaseCheck d k (vget b.npush 3) = none
  checks : preCommit s d k b = .ok s r
  drain : b.drain = none
  filled : ∀ a w, b.succ = .ret a w → b.fillAsked = true ∧ b.fill.length = 8

/-- The instruction at hand is that of engine agent `a` of die `d`, which runs `r`. -/
structure AtRun (s : State) (d : DieId) (a : Agent) (r : Run) : Prop where
  cur : s.cur = ⟨d, a, 8⟩
  run : s.run ⟨d, a, 8⟩ = some r

/-- Engine agent `a` of die `d` goes on with run `r`, from state `s`. -/
def runNext (s : State) (d : DieId) (a : Agent) (r : Run) : Host.Outcome State Fault Refusal := .next (s.setRun ⟨d, a, 8⟩ r)

/-- The answer leaves agent number `n` of slot `k` of die `d` held by a fault of code `code` at address `addr`, unit `unit`. -/
def HeldFault (t : Host.Outcome State Fault Refusal) (d : DieId) (k : SlotId) (n : Nat) (code : Nat) (addr : Word) (unit : Nat) : Prop :=
  ∃ u, t = .next u ∧ ∃ f, vget (u.slot d k).flt (agNum n) = some f ∧ f.r.code = code ∧ f.r.addr = addr ∧ f.r.unit = BitVec.ofNat 32 unit

/-- A source row of an arithmetic word (R222, R223): the row held since the start where one port row serves every index, else row `first + i` of a tile (row `first` where one row serves all) or the next row of a port. -/
def areSrc (s : State) (d : DieId) (k : SlotId) (r : Run) (code : BitVec 5) (b one : Bool) (first : Nat) : Got RowVal :=
  if one && !isTile code then .ok s (r.bc.getD noRow) else srcRow s d k .are code b (first + if one then 0 else r.unit)

/-- The run after a destination row: one unit and one row further, with the flags the row raised. -/
def rowDone (r : Run) (fl : Flg) : Run := { r with unit := r.unit + 1, rw := r.rw + 1, flags := r.flags ||| fl }

end Sys2Proof.Machine
end

