-- ==== Sys2Proof/Certificates/Slice0/Obligations.lean ====
section
/-! DEFINITION. The statements for the provers. -/

open Sys2Proof Sys2Proof.Machine

/-! ## Control core: results (R171 to R178) -/

/-- Integer words of major 0x01 and their compact forms (R171, R128): the result each writes to D, with nothing else changed; shift amounts are the low six bits of B; a compact word is one halfword long, has `NA` 0, and waits on an empty source. Each word has the encoding the table gives; `MIN` 18 to 31, and a unary word with BB or B not zero, are illegal. Completion is the conclusion, under conditions on the state and the operands alone, for: NOP, C_ADDI, C_LI, C_MV, C_ADD, C_SUB, C_AND, C_OR, C_XOR, ADD, SUB, AND, OR, XOR, SLL, SRL, SRA, ROR, MIN, MAX, MINU, MAXU, CLZ, CTZ, POPC, SEXTW, ZEXTW. -/
def Obligations.IntegerRegisterResults : Prop :=
  (∀ (s : State) (d : DieId) (k : SlotId) (b : Open) (o : RRR), AtCore s d k b →
    b.regs.isFull o.a = true → b.regs.isFull o.b = true →
    let x := b.regs.get o.a
    let y := b.regs.get o.b
    let n := y.toNat % 64
    let r (v : Word) := bodyNext s d k (b.put o.d v) 2 o.na
    exec (.add o) s = r (BitVec.ofNat 64 (x.toNat + y.toNat)) ∧
    exec (.sub o) s = r (BitVec.ofInt 64 (x.toInt - y.toInt)) ∧
    exec (.and o) s = r (x &&& y) ∧ exec (.or o) s = r (x ||| y) ∧ exec (.xor o) s = r (x ^^^ y) ∧
    exec (.sll o) s = r (BitVec.ofNat 64 (x.toNat * 2 ^ n)) ∧
    exec (.srl o) s = r (BitVec.ofNat 64 (x.toNat / 2 ^ n)) ∧
    exec (.sra o) s = r (BitVec.ofInt 64 (x.toInt / 2 ^ n)) ∧
    exec (.ror o) s = r (BitVec.ofNat 64 (x.toNat / 2 ^ n + x.toNat % 2 ^ n * 2 ^ (64 - n))) ∧
    exec (.min o) s = r (if x.toInt ≤ y.toInt then x else y) ∧
    exec (.max o) s = r (if x.toInt ≤ y.toInt then y else x) ∧
    exec (.minu o) s = r (if x.toNat ≤ y.toNat then x else y) ∧
    exec (.maxu o) s = r (if x.toNat ≤ y.toNat then y else x)) ∧
  (∀ (s : State) (d : DieId) (k : SlotId) (b : Open) (o : RR), AtCore s d k b → b.regs.isFull o.a = true →
    let x := b.regs.get o.a
    let r (v : Word) := bodyNext s d k (b.put o.d v) 2 o.na
    (∃ n : Nat, exec (.clz o) s = r (BitVec.ofNat 64 n) ∧ n ≤ 64 ∧ x.toNat < 2 ^ (64 - n) ∧ (n < 64 → 2 ^ (63 - n) ≤ x.toNat)) ∧
    (∃ n : Nat, exec (.ctz o) s = r (BitVec.ofNat 64 n) ∧ n ≤ 64 ∧ x.toNat % 2 ^ n = 0 ∧ (n < 64 → x.getLsbD n = true)) ∧
    exec (.popc o) s = r (BitVec.ofNat 64 ((List.range 64).countP fun i => x.getLsbD i)) ∧
    exec (.sextw o) s = r (BitVec.ofInt 64 (BitVec.ofNat 32 x.toNat).toInt) ∧
    exec (.zextw o) s = r (BitVec.ofNat 64 (x.toNat % 2 ^ 32))) ∧
  (∀ (s : State) (d : DieId) (k : SlotId) (b : Open), AtCore s d k b →
    exec .nop s = bodyNext s d k b 1 0 ∧
    (∀ o : CI, b.regs.isFull o.d = true →
      exec (.cAddi o) s = bodyNext s d k (b.put o.d (BitVec.ofInt 64 ((b.regs.get o.d).toInt + o.imm.toInt))) 1 0) ∧
    (∀ o : CI, exec (.cLi o) s = bodyNext s d k (b.put o.d (BitVec.ofInt 64 o.imm.toInt)) 1 0) ∧
    (∀ o : CR, b.regs.isFull o.a = true →
      let y := b.regs.get o.a
      let r (v : Word) := bodyNext s d k (b.put o.d v) 1 0
      exec (.cMv o) s = r y ∧
      (b.regs.isFull o.d = true →
        let x := b.regs.get o.d
        exec (.cAdd o) s = r (x + y) ∧ exec (.cSub o) s = r (x - y) ∧ exec (.cAnd o) s = r (x &&& y) ∧
        exec (.cOr o) s = r (x ||| y) ∧ exec (.cXor o) s = r (x ^^^ y))) ∧
    (∀ o : CI, b.regs.isFull o.d = false → exec (.cAddi o) s = .next s) ∧
    (∀ o : CR, b.regs.isFull o.a = false →
      exec (.cMv o) s = .next s ∧ exec (.cAdd o) s = .next s ∧ exec (.cSub o) s = .next s ∧ exec (.cAnd o) s = .next s ∧ exec (.cOr o) s = .next s ∧ exec (.cXor o) s = .next s) ∧
    (∀ o : CR, b.regs.isFull o.d = false →
      exec (.cAdd o) s = .next s ∧ exec (.cSub o) s = .next s ∧ exec (.cAnd o) s = .next s ∧ exec (.cOr o) s = .next s ∧ exec (.cXor o) s = .next s)) ∧
  (∀ o : RRR, o.na ≠ 3 →
    let w (n : BitVec 5) := decodeCtl32 (encRRR 0x01 n o)
    w 0 = .ok (.add o) ∧ w 1 = .ok (.sub o) ∧ w 2 = .ok (.and o) ∧ w 3 = .ok (.or o) ∧ w 4 = .ok (.xor o) ∧ w 5 = .ok (.sll o) ∧ w 6 = .ok (.srl o) ∧
    w 7 = .ok (.sra o) ∧ w 8 = .ok (.ror o) ∧ w 9 = .ok (.min o) ∧ w 10 = .ok (.max o) ∧ w 11 = .ok (.minu o) ∧ w 12 = .ok (.maxu o)) ∧
  (∀ o : RR, o.na ≠ 3 →
    let w (n : BitVec 5) := decodeCtl32 (encRR 0x01 n o)
    w 13 = .ok (.clz o) ∧ w 14 = .ok (.ctz o) ∧ w 15 = .ok (.popc o) ∧ w 16 = .ok (.sextw o) ∧ w 17 = .ok (.zextw o)) ∧
  (∀ (w : W32) (i : Instr), wMaj w = 0x01 → 18 ≤ (wMin w).toNat ∨ 13 ≤ (wMin w).toNat ∧ w.extractLsb' 15 6 ≠ 0 → decodeCtl32 w ≠ .ok i)

/-- Words with an immediate (R172, R173, R174), products and quotients (R175): each result, written to D with nothing else changed; division rounds toward zero and its corners have the results stated. Each word has the encoding its table gives, and an `OP` or `MIN` that the table leaves out is illegal. Completion is the conclusion, under conditions on the state and the operands alone, for: MUL, MULH, MULHU, MULHSU, DIV, DIVU, REM, REMU, ADDI, ANDI, ORI, XORI, SLLI, SRLI, SRAI, RORI, LUI, ADDPC. -/
def Obligations.ImmediateAndProductResults : Prop :=
  (∀ (s : State) (d : DieId) (k : SlotId) (b : Open), AtCore s d k b →
    (∀ o : RI, b.regs.isFull o.a = true →
      let x := b.regs.get o.a
      let m : Word := BitVec.ofInt 64 o.imm.toInt
      let r (v : Word) := bodyNext s d k (b.put o.d v) 2 o.na
      exec (.addi o) s = r (BitVec.ofInt 64 (x.toInt + o.imm.toInt)) ∧
      exec (.andi o) s = r (x &&& m) ∧ exec (.ori o) s = r (x ||| m) ∧ exec (.xori o) s = r (x ^^^ m)) ∧
    (∀ o : RSh, b.regs.isFull o.a = true →
      let x := b.regs.get o.a
      let n := o.sh.toNat
      let r (v : Word) := bodyNext s d k (b.put o.d v) 2 o.na
      exec (.slli o) s = r (BitVec.ofNat 64 (x.toNat * 2 ^ n)) ∧ exec (.srli o) s = r (BitVec.ofNat 64 (x.toNat / 2 ^ n)) ∧
      exec (.srai o) s = r (BitVec.ofInt 64 (x.toInt / 2 ^ n)) ∧
      exec (.rori o) s = r (BitVec.ofNat 64 (x.toNat / 2 ^ n + x.toNat % 2 ^ n * 2 ^ (64 - n)))) ∧
    (∀ o : RU,
      exec (.lui o) s = bodyNext s d k (b.put o.d (BitVec.ofInt 64 (o.imm.toInt * 2 ^ 11))) 2 o.na ∧
      exec (.addpc o) s = bodyNext s d k (b.put o.d (BitVec.ofInt 64 (((b.at_ b.pos).toInt + 2 * o.imm.toInt) % 2 ^ 52))) 2 o.na)) ∧
  (∀ (s : State) (d : DieId) (k : SlotId) (b : Open) (o : RRR), AtCore s d k b →
    b.regs.isFull o.a = true → b.regs.isFull o.b = true →
    let x := b.regs.get o.a
    let y := b.regs.get o.b
    let r (v : Word) := bodyNext s d k (b.put o.d v) 2 o.na
    exec (.mul o) s = r (BitVec.ofNat 64 (x.toNat * y.toNat)) ∧
    exec (.mulh o) s = r (BitVec.ofInt 64 (x.toInt * y.toInt / 2 ^ 64)) ∧
    exec (.mulhu o) s = r (BitVec.ofNat 64 (x.toNat * y.toNat / 2 ^ 64)) ∧
    exec (.mulhsu o) s = r (BitVec.ofInt 64 (x.toInt * (y.toNat : Int) / 2 ^ 64)) ∧
    (y = 0 → exec (.div o) s = r (-1) ∧ exec (.divu o) s = r (BitVec.ofNat 64 (2 ^ 64 - 1)) ∧ exec (.rem o) s = r x ∧ exec (.remu o) s = r x) ∧
    (y ≠ 0 →
      (∃ q m : Int, exec (.div o) s = r (BitVec.ofInt 64 q) ∧ exec (.rem o) s = r (BitVec.ofInt 64 m) ∧
        x.toInt = y.toInt * q + m ∧ m.natAbs < y.toInt.natAbs ∧ (0 ≤ x.toInt → 0 ≤ m) ∧ (x.toInt ≤ 0 → m ≤ 0)) ∧
      exec (.divu o) s = r (BitVec.ofNat 64 (x.toNat / y.toNat)) ∧ exec (.remu o) s = r (BitVec.ofNat 64 (x.toNat % y.toNat)))) ∧
  (∀ o : RI, o.na ≠ 3 →
    decodeCtl32 (encRI 0x03 o) = .ok (.addi o) ∧ decodeCtl32 (encRI 0x04 o) = .ok (.andi o) ∧ decodeCtl32 (encRI 0x05 o) = .ok (.ori o) ∧ decodeCtl32 (encRI 0x06 o) = .ok (.xori o)) ∧
  (∀ o : RSh, o.na ≠ 3 →
    decodeCtl32 (encRSh 0 o) = .ok (.slli o) ∧ decodeCtl32 (encRSh 1 o) = .ok (.srli o) ∧ decodeCtl32 (encRSh 2 o) = .ok (.srai o) ∧ decodeCtl32 (encRSh 3 o) = .ok (.rori o)) ∧
  (∀ o : RU, o.na ≠ 3 → decodeCtl32 (encRU 0x08 o) = .ok (.lui o) ∧ decodeCtl32 (encRU 0x09 o) = .ok (.addpc o)) ∧
  (∀ o : RRR, o.na ≠ 3 →
    let w (n : BitVec 5) := decodeCtl32 (encRRR 0x02 n o)
    w 0 = .ok (.mul o) ∧ w 1 = .ok (.mulh o) ∧ w 2 = .ok (.mulhu o) ∧ w 3 = .ok (.mulhsu o) ∧ w 4 = .ok (.div o) ∧ w 5 = .ok (.divu o) ∧ w 6 = .ok (.rem o) ∧ w 7 = .ok (.remu o)) ∧
  (∀ (w : W32) (i : Instr), (wMaj w = 0x07 ∧ 4 ≤ (w.extractLsb' 16 5).toNat) ∨ (wMaj w = 0x02 ∧ 8 ≤ (wMin w).toNat) → decodeCtl32 w ≠ .ok i)

/-- Compares (R176), predicate logic (R177) and select (R178): the result of each, written to PD or D with nothing else changed; p0 reads true; a select reads both sources under their B bits whichever it takes. Each word has the encoding its table gives; PD = 0, and fields that must be zero and are not, are illegal. Completion is the conclusion, under conditions on the state and the operands alone, for: CMP, CMPI, PAND, POR, PXOR, PANDN, PORN, PNOT, CSEL. -/
def Obligations.PredicateResults : Prop :=
  (∀ (s : State) (d : DieId) (k : SlotId) (b : Open), AtCore s d k b →
    let holds (c : Nat) (x y : Word) : Prop := match c with
      | 0 => x = y | 1 => x ≠ y | 2 => x.toInt < y.toInt | 3 => y.toInt ≤ x.toInt | 4 => x.toNat < y.toNat | _ => y.toNat ≤ x.toNat
    (∀ o : RCmp, o.cc.toNat ≤ 5 → b.regs.isFull o.a = true → b.regs.isFull o.b = true →
      ∃ v : Bool, exec (.cmp o) s = bodyNext s d k (b.pput o.pd v) 2 o.na ∧ (v = true ↔ holds o.cc.toNat (b.regs.get o.a) (b.regs.get o.b))) ∧
    (∀ o : RCmpi, o.cnd.toNat ≤ 5 → b.regs.isFull o.a = true →
      ∃ v : Bool, exec (.cmpi o) s = bodyNext s d k (b.pput o.pd v) 2 o.na ∧
        (v = true ↔ holds o.cnd.toNat (b.regs.get o.a) (BitVec.ofInt 64 o.imm.toInt))) ∧
    (∀ o : RPl,
      let p := b.regs.pget o.pa
      let q := b.regs.pget o.pb
      let r (v : Bool) := bodyNext s d k (b.pput o.pd v) 2 o.na
      exec (.pand o) s = r (p && q) ∧ exec (.por o) s = r (p || q) ∧ exec (.pxor o) s = r (xor p q) ∧
      exec (.pandn o) s = r (p && !q) ∧ exec (.porn o) s = r (p || !q)) ∧
    (∀ o : RPn, exec (.pnot o) s = bodyNext s d k (b.pput o.pd (!b.regs.pget o.pa)) 2 o.na) ∧
    (∀ o : RSel, b.regs.isFull o.a = true → b.regs.isFull o.b = true →
      exec (.csel o) s = bodyNext s d k (b.put o.d (if xor (b.regs.pget o.p) o.neg then b.regs.get o.a else b.regs.get o.b)) 2 o.na) ∧
    (∀ o : RSel, b.regs.isFull o.a = false ∧ o.ba = false ∨ b.regs.isFull o.a = true ∧ b.regs.isFull o.b = false ∧ o.bb = false → exec (.csel o) s = .next s) ∧
    (∀ o : RSel, b.bad = none → (s.slot d k).heldBy 0 = false → s.openRec d k 0 = none →
      b.regs.isFull o.a = false ∧ o.ba = true ∨ b.regs.isFull o.a = true ∧ b.regs.isFull o.b = false ∧ o.bb = true →
      ∃ t, exec (.csel o) s = .next t ∧ (t.ctl d k).opn = none ∧ ∃ f, vget (t.slot d k).flt 0 = some f ∧ f.r.code = 4)) ∧
  (∀ o : RCmp, o.na ≠ 3 → o.pd ≠ 0 → o.cc.toNat ≤ 5 → decodeCtl32 (encRCmp o) = .ok (.cmp o)) ∧
  (∀ o : RCmpi, o.na ≠ 3 → o.pd ≠ 0 → o.cnd.toNat ≤ 5 → decodeCtl32 (encRCmpi o) = .ok (.cmpi o)) ∧
  (∀ o : RPl, o.na ≠ 3 → o.pd ≠ 0 →
    let w (n : BitVec 5) := decodeCtl32 (encRPl n o)
    w 0 = .ok (.pand o) ∧ w 1 = .ok (.por o) ∧ w 2 = .ok (.pxor o) ∧ w 3 = .ok (.pandn o) ∧ w 4 = .ok (.porn o) ∧ (o.pb = 0 → w 5 = .ok (.pnot ⟨o.pd, o.pa, o.na⟩))) ∧
  (∀ o : RSel, o.na ≠ 3 → decodeCtl32 (encRSel o) = .ok (.csel o)) ∧
  (∀ (w : W32) (i : Instr),
    (0x0A ≤ wMaj w ∧ wMaj w ≤ 0x0C ∧ w.extractLsb' 29 3 = 0) ∨ (wMaj w = 0x0C ∧ (6 ≤ (wMin w).toNat ∨ w.extractLsb' 15 8 ≠ 0 ∨ (wMin w).toNat = 5 ∧ w.extractLsb' 23 3 ≠ 0)) ∨
    (wMaj w = 0x0D ∧ w.getLsbD 10 = true) → decodeCtl32 w ≠ .ok i) ∧
  (∀ r : Regs, r.pget 0 = true)

/-! ## Control core: sources, loads, stores, atomics (R133, R170, R179 to R183) -/

/-- A source that is empty: with B = 0 the word waits and nothing changes; with B = 1 a full/empty fault (code 4) discards the block and is held for the record; of several empty sources the first in the order A, B decides (the model's choice, log entry 145). An access whose address is no multiple of its size raises an alignment fault (code 19) before any other check: the address is reported and the block discarded. -/
def Obligations.SourcesAndAlignment : Prop :=
  (∀ (s : State) (d : DieId) (k : SlotId) (b : Open), AtCore s d k b → b.bad = none → (s.slot d k).heldBy 0 = false → s.openRec d k 0 = none →
      let faults (t : Out) : Prop := ∃ s', t = .next s' ∧ (s'.ctl d k).opn = none ∧ (s'.ctl d k).act = .faulted ∧ (s'.ctl d k).regs = (s.ctl d k).regs ∧
        (s'.ctl d k).pc = (s.ctl d k).pc ∧ SameMem s s' ∧
        ∃ f, vget (s'.slot d k).flt 0 = some f ∧ f.r.code = 4 ∧ f.r.agent = 0 ∧ f.r.blk = b.hdr ∧ f.r.word = b.at_ b.pos ∧ f.r.seq = (s.ctl d k).ccnt
      (∀ o : RRR, b.regs.isFull o.a = false →
        (o.ba = false → exec (.add o) s = .next s ∧ exec (.div o) s = .next s) ∧
        (o.ba = true → faults (exec (.add o) s) ∧ faults (exec (.div o) s))) ∧
      (∀ o : RRR, b.regs.isFull o.a = true → b.regs.isFull o.b = false →
        (o.bb = false → exec (.sub o) s = .next s) ∧ (o.bb = true → faults (exec (.sub o) s))) ∧
      (∀ o : RSel, b.regs.isFull o.a = true → b.regs.isFull o.b = false →
        (o.bb = false → exec (.csel o) s = .next s) ∧ (o.bb = true → faults (exec (.csel o) s))) ∧
      (∀ o : RI, b.regs.isFull o.a = false →
        (o.ba = false → exec (.addi o) s = .next s ∧ exec (.ldd o) s = .next s) ∧
        (o.ba = true → faults (exec (.addi o) s) ∧ faults (exec (.ldd o) s)))) ∧
  (∀ (s : State) (d : DieId) (k : SlotId) (b : Open), AtCore s d k b → b.bad = none → (s.slot d k).heldBy 0 = false → s.openRec d k 0 = none → (s.ctl d k).acq = none →
      let faults (t : Out) (ea : Word) : Prop := ∃ s', t = .next s' ∧ (s'.ctl d k).opn = none ∧ SameMem s s' ∧
        ∃ f, vget (s'.slot d k).flt 0 = some f ∧ f.r.code = 19 ∧ f.r.addr = ea ∧ f.r.word = b.at_ b.pos
      (∀ o : RI, b.regs.isFull o.a = true →
        let ea : Word := b.regs.get o.a + BitVec.ofInt 64 o.imm.toInt
        (ea.toNat % 2 ≠ 0 → faults (exec (.ldh o) s) ea ∧ faults (exec (.ldhu o) s) ea) ∧
        (ea.toNat % 4 ≠ 0 → faults (exec (.ldw o) s) ea ∧ faults (exec (.ldwu o) s) ea) ∧
        (ea.toNat % 8 ≠ 0 → faults (exec (.ldd o) s) ea)) ∧
      (∀ o : RSt, b.regs.isFull o.a = true → b.regs.isFull o.v = true →
        let ea : Word := b.regs.get o.a + BitVec.ofInt 64 o.imm.toInt
        (ea.toNat % 2 ≠ 0 → faults (exec (.sth o) s) ea) ∧ (ea.toNat % 4 ≠ 0 → faults (exec (.stw o) s) ea) ∧
        (ea.toNat % 8 ≠ 0 → faults (exec (.std o) s) ea)) ∧
      (∀ o : RAmo, b.regs.isFull o.a = true → b.regs.isFull o.b = true →
        let ea := b.regs.get o.a
        ea.toNat % (if o.w64 then 8 else 4) ≠ 0 → faults (exec (.amoadd o) s) ea ∧ faults (exec (.amoswap o) s) ea))

/-- Scalar loads: the bytes come from the block's own earlier stores where these cover the access whole; else the destination becomes empty and one read step is asked for, whose answer the stored bytes overlay. What a load writes to its register: the little-endian bytes, sign- or zero-extended. The read step of a core's oldest scalar load of die memory: once every known count is accounted for and no buffered write covers the bytes, the registers that wait for it become full with its value; memory is unchanged. The read step of a load in a peer window whose die is not lost: one request goes out on the link, with the die's own count and its clock, naming the export index, generation and offset, and the load awaits its answer. Completion is the conclusion, under conditions on the state and the operands alone, for: LDB, LDH, LDW, LDD, LDBU, LDHU, LDWU, READ_STEP. -/
def Obligations.ScalarLoads : Prop :=
  (∀ (s : State) (d : DieId) (k : SlotId) (b : Open) (o : RI), AtCore s d k b → b.regs.isFull o.a = true → (s.ctl d k).acq = none →
      let ea : Word := b.regs.get o.a + BitVec.ofInt 64 o.imm.toInt
      let loads (i : RI → Instr) (size : Nat) (sgn : Bool) : Prop :=
        ∀ (y : Die) (p : Piece), ea.toNat % size = 0 →
          access d (s.die d) ((s.die d).who (.core k) k) ea.toNat size ⟨[0, 1, 2, 4], true, false⟩ = .ok y p →
          let u := s.modDie d fun _ => y
          let own := ownStores u b.ops p
          let tag := (u.ctl d k).ntag
          (own.length = size → exec (i o) s = bodyNext u d k (b.put o.d (loadVal size sgn own [])) 2 o.na) ∧
          (own.length ≠ size → exec (i o) s =
            bodyNext ((u.modCtl d k fun c => { c with ntag := tag + 1 }).modAg d (.core k) fun a =>
              { a with rd := a.rd ++ [⟨tag, p, .scalar size sgn own, packPlace b.hdr (b.at_ b.pos) 0, (u.ctl d k).ccnt⟩] })
              d k { b with regs := b.regs.empty o.d tag } 2 o.na)
      loads .ldb 1 true ∧ loads .ldh 2 true ∧ loads .ldw 4 true ∧ loads .ldd 8 false ∧ loads .ldbu 1 false ∧ loads .ldhu 2 false ∧ loads .ldwu 4 false) ∧
  (∀ (size : Nat) (bs : List Byte), (size = 1 ∨ size = 2 ∨ size = 4 ∨ size = 8) → bs.length = size →
      loadVal size true [] bs = BitVec.ofInt 64 (Int.bmod (leNat bs) (2 ^ (8 * size))) ∧
      loadVal size false [] bs = BitVec.ofNat 64 (leNat bs)) ∧
  (∀ (s : State) (d : DieId) (k : SlotId) (r : Rd) (rest : List Rd) (pa size : Nat) (sgn : Bool) (own : List (Nat × Byte)),
      (s.ag d (.core k)).rd = r :: rest → r.kind = .scalar size sgn own → r.p.loc = .here pa → r.p.len ≠ 0 →
      (∀ c ∈ coverOf s (s.ag d (.core k)).sb r.p, c = .no) → (s.die d).gateOk d = true → (s.die d).poisoned pa r.p.len = false →
      ∃ t, exec (.readStep d (.core k) .ok) s = .next t ∧ (t.ag d (.core k)).rd = rest ∧ SameMem s t ∧
        ∀ i : Fin 32, vget (t.ctl d k).regs.x i =
          if (vget (s.ctl d k).regs.x i).wait = some r.tag then ⟨loadVal size sgn own ((s.die d).peek pa r.p.len), none⟩ else vget (s.ctl d k).regs.x i) ∧
  (∀ (s : State) (d h : DieId) (k : SlotId) (r : Rd) (rest : List Rd) (idx gen off : Nat),
      (s.ag d (.core k)).rd = r :: rest → r.p.loc = .peer h idx gen off → h ≠ d → (s.die d).isLost d h = false → (∀ c ∈ coverOf s (s.ag d (.core k)).sb r.p, c = .no) →
      let key := (s.ag d (.core k)).nkey
      let g := (s.die d).gate.v
      ∃ u : State, exec (.readStep d (.core k) .ok) s = .next (u.send d h (.read (.core k) key (vget g d) g idx gen off r.p.len)) ∧
        u.east = s.east ∧ u.west = s.west ∧ SameMem s u ∧ (u.ctl d k).regs = (s.ctl d k).regs ∧ (∀ e, e ≠ d → u.die e = s.die e) ∧
        (u.ag d (.core k)).rd = rest ∧ (u.ag d (.core k)).pend = (s.ag d (.core k)).pend ++ [⟨key, h, some r, .acqGate, r.word, r.seq, 24, r.p.va⟩])

/-- Scalar stores: with both sources full, no acquire outstanding, an aligned address that the access check passes, and fewer than 64 stores and atomics held, each of STB, STH, STW, STD completes: its value is held for the commit, in order, and nothing else changes; the 65th store or atomic of a block is held as a block-capacity fault (code 3) and discards the block. The drain step of a core's store to its own die that no pin and no earlier held write keeps back: exactly its bytes change in memory, and, where the page was clean, the eight bytes of the leaf entry that records `D`; a later buffered write through the same entry no longer sets it. The drain step of a store in a peer window whose die is not lost: one request with the die's next own count and its clock goes out on the link and awaits its acknowledgement; no byte of memory changes but those of such a leaf. Completion is the conclusion, under conditions on the state and the operands alone, for: STB, STH, STW, STD, DRAIN_STEP. -/
def Obligations.ScalarStores : Prop :=
  (∀ (s : State) (d : DieId) (k : SlotId) (b : Open) (o : RSt) (y : Die) (p : Piece), AtCore s d k b → b.regs.isFull o.v = true → b.regs.isFull o.a = true → (s.ctl d k).acq = none →
      let ea : Word := b.regs.get o.a + BitVec.ofInt 64 o.imm.toInt
      let goes (size : Nat) : Prop := ea.toNat % size = 0 ∧ access d (s.die d) ((s.die d).who (.core k) k) ea.toNat size ⟨[0, 1, 2, 4], false, true⟩ = .ok y p
      let held (size : Nat) : Out := bodyNext (s.modDie d fun _ => y) d k
        { b with nst := b.nst + 1, ops := b.ops ++ [.store ⟨p, natLe size (b.regs.get o.v).toNat⟩ (packPlace b.hdr (b.at_ b.pos) 0)] } 2 o.na
      (b.nst ≠ 64 → goes 1 → exec (.stb o) s = held 1) ∧ (b.nst ≠ 64 → goes 2 → exec (.sth o) s = held 2) ∧
      (b.nst ≠ 64 → goes 4 → exec (.stw o) s = held 4) ∧ (b.nst ≠ 64 → goes 8 → exec (.std o) s = held 8) ∧
      let full (t : Out) : Prop := HeldFault t d k 0 3 0 0 ∧ ∃ u, t = .next u ∧ (u.ctl d k).opn = none
      (b.nst = 64 → b.bad = none → (s.slot d k).heldBy 0 = false →
        (goes 1 → full (exec (.stb o) s)) ∧ (goes 2 → full (exec (.sth o) s)) ∧ (goes 4 → full (exec (.stw o) s)) ∧ (goes 8 → full (exec (.std o) s)))) ∧
  (∀ (s : State) (d : DieId) (k : SlotId) (b : Open) (o : RAmo) (y : Die) (p : Piece), AtCore s d k b →
      b.regs.isFull o.a = true → b.regs.isFull o.b = true → (s.ctl d k).acq = none → b.nst = 64 → b.bad = none → (s.slot d k).heldBy 0 = false →
      let n := if o.w64 then 8 else 4
      let ea := b.regs.get o.a
      ea.toNat % n = 0 → access d (s.die d) ((s.die d).who (.core k) k) ea.toNat n ⟨[0, 1, 2, 4], true, true⟩ = .ok y p →
      let full (t : Out) : Prop := HeldFault t d k 0 3 0 0 ∧ ∃ u, t = .next u ∧ (u.ctl d k).opn = none
      full (exec (.amoadd o) s) ∧ full (exec (.amoand o) s) ∧ full (exec (.amoor o) s) ∧ full (exec (.amoxor o) s) ∧
      full (exec (.amomin o) s) ∧ full (exec (.amomax o) s) ∧ full (exec (.amoswap o) s) ∧ (b.regs.isFull o.d = true → full (exec (.amocas o) s))) ∧
  (∀ (s : State) (d : DieId) (k : SlotId) (p : Piece) (data : List Byte) (word : Nat) (seq : W32) (rest : List SbOp) (pa : Nat), MemInv s →
      (s.ag d (.core k)).sb = .write [⟨p, data⟩] false word seq :: rest → p.loc = .here pa → data ≠ [] →
      (s.die d).mustHold (.core k) d none (linesOf pa data.length) = false → (s.die d).paired d = none → (s.die d).leafBad p = false →
      ∃ t, exec (.drainStep d (.core k) .ok) s = .next t ∧ (t.ag d (.core k)).sb = rest.map (·.clean p) ∧ (p.dirty = none → (t.ag d (.core k)).sb = rest) ∧
        (∀ e, e ≠ d → t.die e = s.die e) ∧
        (∀ a, pa ≤ a → a < pa + data.length → memGet (t.die d).mem a = data.getD (a - pa) 0) ∧
        (∀ a, ¬ (pa ≤ a ∧ a < pa + data.length) → (∀ leaf, p.dirty = some leaf → ¬ (leaf ≤ a ∧ a < leaf + 8)) → memGet (t.die d).mem a = memGet (s.die d).mem a)) ∧
  (∀ (s : State) (d h : DieId) (k : SlotId) (p : Piece) (data : List Byte) (word : Nat) (seq : W32) (rest : List SbOp) (idx gen off : Nat), MemInv s →
      (s.ag d (.core k)).sb = .write [⟨p, data⟩] false word seq :: rest → p.loc = .peer h idx gen off → h ≠ d → (s.die d).isLost d h = false →
      (s.die d).paired d = none → (s.die d).leafBad p = false →
      let key := (s.ag d (.core k)).nkey
      let n := vget (s.die d).gate.v d + 1
      ∃ u : State, exec (.drainStep d (.core k) .ok) s = .next (u.send d h (.write (.core k) key n (vset (s.die d).gate.v d n) [(idx, gen, off, data)] false)) ∧
        u.east = s.east ∧ u.west = s.west ∧ (∀ e, e ≠ d → u.die e = s.die e) ∧ vget (u.die d).gate.v d = n ∧
        (u.ag d (.core k)).sb = rest.map (·.clean p) ∧
        (u.ag d (.core k)).pend = (s.ag d (.core k)).pend ++ [⟨key, h, none, .write [⟨p, data⟩] false word seq, word, seq, 24, p.va⟩] ∧
        ∀ a, (∀ leaf, p.dirty = some leaf → ¬ (leaf ≤ a ∧ a < leaf + 8)) → memGet (u.die d).mem a = memGet (s.die d).mem a)

/-- Atomics: the operation is held for the commit with the operand and, for `amocas`, the working value of D; the destination becomes empty. The drain step of an atomic on a line of the own die that no pin and no earlier held write keeps back: the new value stands at its address, no other byte changes, and the registers that wait take the old value. The drain step of an atomic in a peer window whose die is not lost: one request with the operation, both operands, the die's next own count and its clock goes out on the link, and the registers stay empty until its answer. Completion is the conclusion, under conditions on the state and the operands alone, for: AMOADD, AMOAND, AMOOR, AMOXOR, AMOMIN, AMOMAX, AMOSWAP, AMOCAS, DRAIN_STEP. -/
def Obligations.Atomics : Prop :=
  (∀ (s : State) (d : DieId) (k : SlotId) (b : Open) (o : RAmo) (y : Die) (p : Piece), AtCore s d k b →
      b.regs.isFull o.a = true → b.regs.isFull o.b = true → (s.ctl d k).acq = none → b.nst ≠ 64 →
      let n := if o.w64 then 8 else 4
      let ea := b.regs.get o.a
      ea.toNat % n = 0 → access d (s.die d) ((s.die d).who (.core k) k) ea.toNat n ⟨[0, 1, 2, 4], true, true⟩ = .ok y p →
      let u := s.modDie d fun _ => y
      let tag := (u.ctl d k).ntag
      let r : Rd := ⟨tag, p, .amo o.w64, packPlace b.hdr (b.at_ b.pos) 0, (u.ctl d k).ccnt⟩
      let held (op : AmoOp) := bodyNext (u.modCtl d k fun c => { c with ntag := tag + 1 }) d k
        { b with nst := b.nst + 1, regs := b.regs.empty o.d tag, ops := b.ops ++ [.amo r op o.w64 o.ord o.scope (b.regs.get o.b) (b.regs.get o.d)] } 2 o.na
      exec (.amoadd o) s = held .add ∧ exec (.amoand o) s = held .and ∧ exec (.amoor o) s = held .or ∧ exec (.amoxor o) s = held .xor ∧
      exec (.amomin o) s = held .min ∧ exec (.amomax o) s = held .max ∧ exec (.amoswap o) s = held .swap ∧
      (b.regs.isFull o.d = true → exec (.amocas o) s = held .cas)) ∧
  (∀ (s : State) (d : DieId) (k : SlotId) (r : Rd) (op : AmoOp) (w64 : Bool) (v x : Word) (rest : List SbOp) (pa : Nat), MemInv s →
      let n := if w64 then 8 else 4
      let old := leNat ((s.die d).peek pa n)
      let cut (w : Word) : Nat := w.toNat % 2 ^ (8 * n)
      let num (m : Nat) : Int := Int.bmod m (2 ^ (8 * n))
      let new : Nat := match op with
        | .add => (old + v.toNat) % 2 ^ (8 * n)
        | .and => old &&& cut v | .or => old ||| cut v | .xor => old ^^^ cut v
        | .min => if num old ≤ num (cut v) then old else cut v
        | .max => if num old ≤ num (cut v) then cut v else old
        | .swap => cut v
        | .cas => if old = cut x then cut v else old
      (s.ag d (.core k)).sb = .amo r op w64 v x :: rest → r.kind = .amo w64 → r.p.loc = .here pa → r.p.len = n → r.p.dirty = none →
      (s.die d).mustHold (.core k) d none (linesOf pa n) = false → (s.die d).poisoned pa n = false → (s.die d).paired d = none →
      ∃ t, exec (.drainStep d (.core k) .ok) s = .next t ∧ (t.ag d (.core k)).sb = rest ∧
        (∀ a, memGet (t.die d).mem a = if pa ≤ a ∧ a < pa + n then (natLe n new).getD (a - pa) 0 else memGet (s.die d).mem a) ∧
        (∀ e, e ≠ d → t.die e = s.die e) ∧
        ∀ i : Fin 32, vget (t.ctl d k).regs.x i =
          if (vget (s.ctl d k).regs.x i).wait = some r.tag then ⟨BitVec.ofInt 64 (num old), none⟩ else vget (s.ctl d k).regs.x i) ∧
  (∀ (s : State) (d h : DieId) (k : SlotId) (r : Rd) (op : AmoOp) (w64 : Bool) (v x : Word) (rest : List SbOp) (idx gen off : Nat),
      (s.ag d (.core k)).sb = .amo r op w64 v x :: rest → r.p.loc = .peer h idx gen off → h ≠ d → (s.die d).isLost d h = false → r.p.dirty = none → (s.die d).paired d = none →
      let key := (s.ag d (.core k)).nkey
      let n := vget (s.die d).gate.v d + 1
      ∃ u : State, exec (.drainStep d (.core k) .ok) s = .next (u.send d h (.amo (.core k) key n (vset (s.die d).gate.v d n) idx gen off op w64 v x)) ∧
        u.east = s.east ∧ u.west = s.west ∧ SameMem s u ∧ (∀ e, e ≠ d → u.die e = s.die e) ∧ vget (u.die d).gate.v d = n ∧ (u.ag d (.core k)).sb = rest ∧
        (u.ctl d k).regs = (s.ctl d k).regs ∧
        (u.ag d (.core k)).pend = (s.ag d (.core k)).pend ++ [⟨key, h, some r, .amo r op w64 v x, r.word, r.seq, 24, r.p.va⟩])

/-! ## Control core: synchronisation and system words (R118, R184 to R203) -/

/-- A fence whose condition holds completes at once (FENCE_ACQ, FENCE_REL, FENCE_FULL), and one of `rel` or `full` at scope .k or .f sends the beats (at .f by the model's reading, log entry 107); else the block waits on it and nothing else changes. By the model's reading (log entry 21) `acq` waits for the reads and atomics that await a reply, also one held at a pinned line, and for an earlier atomic's acquire, and `rel` from .c on for the entries pushed earlier to all six queues; `rel` waits for the store buffer, and at .f for fabric acknowledgements. A push (ENQ_LDE, ENQ_ARE, ENQ_STE, ENQ_MXE, ENQ_CPE, ENQ_COE) whose sources are full, with fewer than 16 pushes to its queue and no acquire outstanding, completes: the entry is held for the commit, header from A, the eight parameters from s8 to s15, both masks; the 17th push to one queue is held as a block-capacity fault (code 3) and discards the block. `freeh`: a range that is no whole number of 64 KiB pages is an alignment fault; one whose pages all translate completes: it is held for the commit as one write of zeros (FREEH). Completion is the conclusion, under conditions on the state and the operands alone, for: FENCE_ACQ, FENCE_REL, FENCE_FULL, ENQ_LDE, ENQ_ARE, ENQ_STE, ENQ_MXE, ENQ_CPE, ENQ_COE, FREEH. -/
def Obligations.FencesPushesAndFreedRanges : Prop :=
  (∀ (s : State) (d : DieId) (k : SlotId) (b : Open) (o : RFence), AtCore s d k b → o.scope.toNat ≤ 4 →
      let acq : Prop := (s.ctl d k).acq = none ∧ (∀ p ∈ (s.slot d k).agCtl.pend, p.waits = false) ∧
        ∀ h ∈ (s.die d).held, h.ag = .core k → h.src = d → h.fab = none → ∀ r op w64 x y, h.op ≠ .amo r op w64 x y
      let rel : Prop := (s.slot d k).agCtl.sb = [] ∧ (o.scope ≠ 0 → (s.slot d k).doneUpTo (s.slot d k).pseq = true) ∧ (o.scope = 4 → (s.die d).fabQuiet k = true)
      let u := if o.scope = 3 ∨ o.scope = 4 then s.beats d else s
      let waits (kind : BitVec 2) : Out := .next (s.setOpn d k { b with wait := some (.fence kind o.scope (s.slot d k).pseq), waitNa := o.na })
      (acq → exec (.fenceAcq o) s = bodyNext s d k { b with wait := none } 2 o.na) ∧ (¬ acq → exec (.fenceAcq o) s = waits 0) ∧
      (rel → exec (.fenceRel o) s = bodyNext u d k { b with wait := none } 2 o.na) ∧ (¬ rel → exec (.fenceRel o) s = waits 1) ∧
      (rel → acq → exec (.fenceFull o) s = bodyNext u d k { b with wait := none } 2 o.na) ∧ (¬ (rel ∧ acq) → exec (.fenceFull o) s = waits 2)) ∧
  (∀ (s : State) (d : DieId) (k : SlotId) (b : Open) (o : REnq), AtCore s d k b → b.regs.isFull o.a = true →
      (∀ i : Fin 8, b.regs.isFull (BitVec.ofNat 5 (8 + i.val)) = true) → (s.ctl d k).acq = none →
      let e : Vector Word 8 := Vector.ofFn fun i => b.regs.get (BitVec.ofNat 5 (8 + i.val))
      let room (q : Fin 6) : Prop := vget b.npush q ≠ 16
      let held (q : Fin 6) : Out := bodyNext s d k { b with npush := vmod b.npush q (· + 1), ops := b.ops ++ [.enq q (b.regs.get o.a) e o.wait o.sig (b.at_ b.pos).toNat] } 2 o.na
      let seventeenth (t : Out) : Prop := b.bad = none → (s.slot d k).heldBy 0 = false → HeldFault t d k 0 3 0 0 ∧ ∃ u, t = .next u ∧ (u.ctl d k).opn = none ∧ SameMem s u
      (room 0 → exec (.enqLde o) s = held 0) ∧ (room 1 → exec (.enqAre o) s = held 1) ∧ (room 2 → exec (.enqSte o) s = held 2) ∧
      (room 3 → exec (.enqMxe o) s = held 3) ∧ (room 4 → exec (.enqCpe o) s = held 4) ∧ (room 5 → exec (.enqCoe o) s = held 5) ∧
      (¬ room 0 → seventeenth (exec (.enqLde o) s)) ∧ (¬ room 1 → seventeenth (exec (.enqAre o) s)) ∧ (¬ room 2 → seventeenth (exec (.enqSte o) s)) ∧
      (¬ room 3 → seventeenth (exec (.enqMxe o) s)) ∧ (¬ room 4 → seventeenth (exec (.enqCpe o) s)) ∧ (¬ room 5 → seventeenth (exec (.enqCoe o) s))) ∧
  (∀ (s : State) (d : DieId) (k : SlotId) (b : Open) (o : RAB), AtCore s d k b → b.bad = none → b.regs.isFull o.a = true → b.regs.isFull o.b = true →
      (s.ctl d k).acq = none → (s.slot d k).heldBy 0 = false → s.openRec d k 0 = none →
      let x := b.regs.get o.a
      let y := b.regs.get o.b
      let whole : Prop := x.toNat % 65536 = 0 ∧ y.toNat % 65536 = 0 ∧ y ≠ 0
      (¬ whole → ∃ t, exec (.freeh o) s = .next t ∧ (t.ctl d k).opn = none ∧ SameMem s t ∧ ∃ f, vget (t.slot d k).flt 0 = some f ∧ f.r.code = 19 ∧ f.r.addr = x) ∧
      (∀ z ps, whole → freePages d ((s.die d).who (.core k) k) x.toNat (y.toNat / 65536) (s.die d) = .ok z ps →
        exec (.freeh o) s = bodyNext (s.modDie d fun _ => z) d k { b with ops := b.ops ++ [.freeh (ps.map fun p => (locOff p.loc, 65536)) ps (packPlace b.hdr (b.at_ b.pos) 0)] } 2 o.na))

/-- Words whose effect waits for the commit: each only records what it asks for, at its place in the order written. `eret` is accepted in handler mode, or after a `trap` of the same block (the model's reading, log entries 36 and 119); else it is an illegal-instruction fault (code 2) and the block commits nothing. Where a block runs several of split, fuse, chain and unchain, the last one counts (log entry 110). Completion is the conclusion, under conditions on the state and the operands alone, for: TSIG, SEMSET, SEMADD, SEMWAIT_SUSP, MLEASE, MRLSE, SPLIT, FUSE, CHAIN, UNCHAIN, ARV, HINT, SUSP, CSRW, SYSC, TRAP, ERET. -/
def Obligations.WordsHeldForTheCommit : Prop :=
  (∀ (s : State) (d : DieId) (k : SlotId) (b : Open), AtCore s d k b →
      let keeps (x : CtlOp) (na : BitVec 2) : Out := bodyNext s d k { b with ops := b.ops ++ [x] } 2 na
      (∀ o : RN, exec (.mlease o) s = keeps .mlease o.na ∧ exec (.mrlse o) s = keeps .mrlse o.na ∧
        exec (.susp o) s = bodyNext s d k { b with susp := some (.susp, b.pos) } 2 o.na ∧
        ((s.ctl d k).csr.hm = true ∨ (∃ q ∈ b.traps, q.1 ≠ none) → exec (.eret o) s = bodyNext s d k { b with traps := b.traps ++ [(none, b.pos)] } 2 o.na)) ∧
      (∀ o : RScope, exec (.arv o) s = keeps (.arv o.scope) o.na) ∧
      (∀ o : RA, b.regs.isFull o.a = true →
        let x := b.regs.get o.a
        exec (.tsig o) s = keeps (.tsig (x.setWidth 8) (b.at_ b.pos).toNat) o.na ∧
        exec (.hint o) s = keeps (.hint (x.setWidth 16)) o.na ∧
        exec (.trap o) s = bodyNext s d k { b with traps := b.traps ++ [(some x, b.pos)] } 2 o.na ∧
        exec (.split o) s = bodyNext s d k { b with drain := some (.split x, b.pos) } 2 o.na ∧
        exec (.fuse o) s = bodyNext s d k { b with drain := some (.fuse x, b.pos) } 2 o.na ∧
        exec (.unchain o) s = bodyNext s d k { b with drain := some (.unchain x, b.pos) } 2 o.na) ∧
      (∀ o : RAB, b.regs.isFull o.a = true → b.regs.isFull o.b = true →
        let x := b.regs.get o.a
        let y := b.regs.get o.b
        exec (.chain o) s = bodyNext s d k { b with drain := some (.chain x y, b.pos) } 2 o.na ∧
        exec (.sysc o) s = keeps (.sysc x ⟨y.toNat % 32, Nat.mod_lt _ (by decide)⟩) o.na) ∧
      (∀ o : RR, b.regs.isFull o.a = true →
        let v : W32 := (b.regs.get o.a).setWidth 32
        exec (.semset o) s = keeps (.sem true (ridx o.d) v) o.na ∧ exec (.semadd o) s = keeps (.sem false (ridx o.d) v) o.na ∧
        exec (.semwaitSusp o) s = bodyNext s d k { b with susp := some (.sem (ridx o.d) v, b.pos) } 2 o.na) ∧
      (∀ o : RCsrw, b.regs.isFull o.a = true → exec (.csrw o) s = keeps (.csrw o.csr (b.regs.get o.a)) o.na)) ∧
  (∀ (s : State) (d : DieId) (k : SlotId) (b : Open) (o : RN), AtCore s d k b → b.bad = none → (s.ctl d k).csr.hm = false → (∀ q ∈ b.traps, q.1 = none) →
      (s.slot d k).heldBy 0 = false → s.openRec d k 0 = none →
      ∃ t, exec (.eret o) s = .next t ∧ (t.ctl d k).opn = none ∧ (t.ctl d k).act = .faulted ∧ (t.ctl d k).csr = (s.ctl d k).csr ∧ (t.ctl d k).pc = (s.ctl d k).pc ∧
        ∃ f, vget (t.slot d k).flt 0 = some f ∧ f.r.code = 2 ∧ f.r.word = b.at_ b.pos)

/-- Waits at the first word: with the condition true the body goes on, else the block waits and nothing else changes. `twait` takes one unit of each masked channel; `rfence` drops every record copy of the die. `wpv` and `wpv.susp` name a node of the process: outside its nodes, never launched, or failed, each is a scheduler-reference fault (code 11) with its own `UNIT`; else `wpv` waits for the launch's visibility, and `wpv.susp` leaves the test to the commit. Completion is the conclusion, under conditions on the state and the operands alone, for: TWAIT, SEMWAIT, WTB, WPV, WPV_SUSP, RFENCE. -/
def Obligations.WaitsAndNodeReferences : Prop :=
  (∀ (s : State) (d : DieId) (k : SlotId) (b : Open), AtCore s d k b → b.wait = none →
      let waits (w : WaitC) (na : BitVec 2) : Out := .next (s.setOpn d k { b with wait := some w, waitNa := na })
      (∀ o : RA, b.regs.isFull o.a = true →
        let m : Byte := (b.regs.get o.a).setWidth 8
        let ok : Prop := ∀ i : Fin 8, m.getLsbD i.val = true → vget (s.slot d k).toks i ≠ 0
        (ok → exec (.twait o) s = bodyNext (s.modSlot d k fun t => { t with toks := Vector.ofFn fun i => if m.getLsbD i.val then vget t.toks i - 1 else vget t.toks i })
          d k { b with toks := b.toks ||| m, wait := none } 2 o.na) ∧
        (¬ ok → exec (.twait o) s = waits (.twait m) o.na)) ∧
      (∀ o : RR, b.regs.isFull o.a = true →
        let v : W32 := (b.regs.get o.a).setWidth 32
        let ok : Prop := (s.ctl d k).acq = none ∧ ∃ x, semSeen (s.die d) d k (ridx o.d) = some x ∧ v.toNat ≤ x.toNat
        (ok → exec (.semwait o) s = bodyNext s d k { b with wait := none } 2 o.na) ∧ (¬ ok → exec (.semwait o) s = waits (.sem (ridx o.d) v) o.na)) ∧
      (∀ o : RN,
        let ok : Prop := (s.die d).quiet (.core k) = true
        (ok → exec (.rfence o) s = bodyNext (s.modDie d fun y => { y with slots := y.slots.map fun t => { t with recs := [] } }) d k { b with wait := none } 2 o.na) ∧
        (¬ ok → exec (.rfence o) s = waits .rfence o.na)) ∧
      (∀ o : RScope,
        let c := ownArv (s.die d) k o.scope
        let ok : Prop := stillEarly (s.die d) k = false ∧ wtbMet (s.die d) k o.scope c = true ∧ acqFree (s.die d) d k = true
        (ok → exec (.wtb o) s = bodyNext s d k { b with wait := none } 2 o.na) ∧ (¬ ok → exec (.wtb o) s = waits (.wtb o.scope c) o.na))) ∧
  (∀ (s : State) (d : DieId) (k : SlotId) (b : Open) (o : RA) (l : Launch), AtCore s d k b → b.wait = none → b.bad = none → b.regs.isFull o.a = true →
      (s.slot d k).heldBy 0 = false → s.openRec d k 0 = none → (s.die d).ownLaunch k = some l →
      let n : Half := (b.regs.get o.a).setWidth 16
      let faults (t : Out) (unit : Nat) : Prop := ∃ s', t = .next s' ∧ (s'.ctl d k).opn = none ∧
        ∃ f, vget (s'.slot d k).flt 0 = some f ∧ f.r.code = 11 ∧ f.r.unit = BitVec.ofNat 32 unit
      let last := (s.die d).sched.launches.reverse.find? fun x => x.pid == l.pid && x.node == n
      let inside : Prop := l.nbase ≤ n.toNat ∧ n.toNat < l.nbase + l.ncnt
      (¬ inside → faults (exec (.wpv o) s) 1 ∧ faults (exec (.wpvSusp o) s) 1) ∧
      (inside → last = none → faults (exec (.wpv o) s) 2 ∧ faults (exec (.wpvSusp o) s) 2) ∧
      (∀ x, inside → last = some x → x.st = .failed → faults (exec (.wpv o) s) 3 ∧ faults (exec (.wpvSusp o) s) 3) ∧
      (∀ x, inside → last = some x → x.st ≠ .failed →
        exec (.wpvSusp o) s = bodyNext s d k { b with susp := some (.wpv n x.id, b.pos) } 2 o.na ∧
        (stillEarly (s.die d) k = false → visible (s.die d) x.id = true → acqFree (s.die d) d k = true → exec (.wpv o) s = bodyNext s d k { b with wait := none } 2 o.na) ∧
        (visible (s.die d) x.id = false → exec (.wpv o) s = .next (s.setOpn d k { b with wait := some (.wpv x.id), waitNa := o.na }))))

/-- `pop` and `pop.nb` reserve the next result that no earlier pop has reserved: a present, unpoisoned one is delivered at once; an absent one leaves D empty (`pop`) or only clears the predicate (`pop.nb`). `csrr` reads the value of the moment and changes nothing but D; `tick` reads `TICK`; `publq` of a number that the process does not own reads 0, and of one that it owns it reads the entry in the strand's order, once every known count is accounted for, and where the proof is set as an acquire. Completion is the conclusion, under conditions on the state and the operands alone, for: POP, POP_NB, PUBLQ, CSRR, TICK. -/
def Obligations.PopsAndSpecialReads : Prop :=
  (∀ (s : State) (d : DieId) (k : SlotId) (b : Open), AtCore s d k b →
      let next (q : Fin 4) : Option Result := (vget (s.slot d k).rq q)[(vget (s.slot d k).resv q).length + (b.resv.filter fun r => r.1 == q).length]?
      (∀ (o : RPop) (v : Word), next (qidx o.q) = some (v, false) →
        exec (.pop o) s = bodyNext s d k { b.put o.d v with resv := b.resv ++ [(qidx o.q, none)] } 2 o.na) ∧
      (∀ o : RPop, next (qidx o.q) = none →
        let tag := (s.ctl d k).ntag
        exec (.pop o) s = bodyNext (s.modCtl d k fun c => { c with ntag := tag + 1 }) d k
          { b with regs := b.regs.empty o.d tag, resv := b.resv ++ [(qidx o.q, some tag)] } 2 o.na) ∧
      (∀ (o : RPopNb) (v : Word), next (qidx o.q) = some (v, false) →
        exec (.popNb o) s = bodyNext s d k { (b.put o.d v).pput o.p true with resv := b.resv ++ [(qidx o.q, none)] } 2 o.na) ∧
      (∀ o : RPopNb, next (qidx o.q) = none → exec (.popNb o) s = bodyNext s d k (b.pput o.p false) 2 o.na)) ∧
  (∀ (s : State) (d : DieId) (k : SlotId) (b : Open), AtCore s d k b →
      let c := s.ctl d k
      let y := s.die d
      (∀ o : RCsrr,
        let reads (n : BitVec 10) (v : Word) : Prop := o.csr = n → exec (.csrr o) s = bodyNext s d k (b.put o.d v) 2 o.na
        reads 0x001 (orient d) ∧ reads 0x020 (y.getReg d 0x040) ∧
        reads 0x021 (BitVec.ofNat 64 ((if c.mreq then 2 ^ 12 else 0) + (if c.mheld then 2 ^ 11 + c.mleft else 0))) ∧
        reads 0x030 y.alayout ∧ reads 0x031 y.achain ∧ reads 0x050 (c.csr.vflags.setWidth 64) ∧
        reads 0x060 c.csr.wsp ∧ reads 0x061 c.csr.wlim ∧ reads 0x062 (c.csr.wdepth.setWidth 64) ∧
        reads 0x070 c.csr.thnd ∧ reads 0x071 c.csr.tepc ∧ reads 0x072 c.csr.tcause ∧ reads 0x073 (if c.csr.hm then 1 else 0) ∧
        reads 0x080 (vget y.coe.kstat k) ∧ reads 0x081 (vget y.coe.kslip k) ∧ reads 0x090 (y.getReg d 0x310) ∧ reads 0x0E0 (c.csr.psnst.setWidth 64) ∧
        (∀ l, y.ownLaunch k = some l → reads 0x010 l.param)) ∧
      (∀ o : RD, exec (.tick o) s = bodyNext s d k (b.put o.d (y.getReg d 0x400)) 2 o.na) ∧
      (∀ (o : RR) (l : Launch), b.regs.isFull o.a = true → c.acq = none → y.ownLaunch k = some l →
        let p := (b.regs.get o.a).toNat % 4096
        (l.prcnt ≤ p → exec (.publq o) s = bodyNext s d k (b.put o.d 0) 2 o.na) ∧
        (p < l.prcnt → (s.slot d k).agCtl.rd = [] → y.gateOk d = true →
          let v := y.proofAt (l.prbase + p)
          (v.getLsbD 31 = false → exec (.publq o) s = bodyNext s d k (b.put o.d ((v.setWidth 16).setWidth 64)) 2 o.na) ∧
          (v.getLsbD 31 = true → acqMet y d k = true → exec (.publq o) s = bodyNext s d k (b.put o.d (((v.setWidth 16).setWidth 64) + 2 ^ 63)) 2 o.na) ∧
          (v.getLsbD 31 = true → acqMet y d k = false → exec (.publq o) s = .next s)) ∧
        (p < l.prcnt → (s.slot d k).agCtl.rd ≠ [] ∨ y.gateOk d = false → exec (.publq o) s = .next s)))

/-! ## Blocks: headers, exits, commit (R22, R32, R129 to R138, R187 to R203) -/

/-- A header opens its block: from the first word of the body, with the committed registers as working registers and nothing held; `LEN` 0 is an illegal-block fault (code 1); `REP` 0 takes the count from the register the first halfword names, and waits while that is empty (the model's reading, log entry 115). Exit words are looked at in order: the first whose predicate passes fires and gives the successor; where none fires the block falls through. A firing register exit waits on an empty register (the model's choice, log entry 142). Completion is the conclusion, under conditions on the state and the operands alone, for: BLOCK_HEADER, SWITCH_POINT_HEADER, RELATIVE_EXIT, JUMP_EXIT, CALL_EXIT, RETURN_EXIT. -/
def Obligations.HeadersAndExits : Prop :=
  (∀ (s : State) (d : DieId) (k : SlotId), s.cur.die = d → s.cur.ag = .core k → (s.ctl d k).opn = none →
      let c := s.ctl d k
      let opens (t : Out) (y : Die) (len nex first count : Nat) (sw : Option Nat) : Prop :=
        ∃ o : Open, t = .next ((s.modDie d fun _ => y).setOpn d k o) ∧ o.hdr = c.pc ∧ o.len = len ∧ o.nex = nex ∧ o.sw = sw ∧ o.first = first ∧ o.count = count ∧
          o.iter = 0 ∧ o.pos = first ∧ o.regs = c.regs ∧ o.ops = [] ∧ o.nst = 0 ∧ o.npush = .replicate 6 0 ∧ o.toks = 0 ∧ o.resv = [] ∧ o.wait = none ∧
          o.drain = none ∧ o.susp = none ∧ o.traps = [] ∧ o.schedAsked = false ∧ o.sched = none ∧ (count ≠ 0 → o.phase = .body) ∧
          (count = 0 → o.phase = if nex = 0 then .ready else .exits 0)
      let code (len nex : Nat) := codeHalves d (s.die d) ((s.die d).who (.core k) k) c.pc.toNat (2 + len + 2 * nex)
      let exitsOk (hs : List Half) (len nex : Nat) : Prop := ∀ i < nex,
        (listGet 0 hs (2 + len + 2 * i)).extractLsb' 0 2 = 3#2 ∧ wMaj (listGet 0 hs (2 + len + 2 * i + 1) ++ listGet 0 hs (2 + len + 2 * i)) = 0x3E
      (∀ h : Hdr, h.len = 0 → (s.slot d k).heldBy 0 = false → s.openRec d k 0 = none →
        ∃ t, exec (.blockHeader h) s = .next t ∧ ∃ f, vget (t.slot d k).flt 0 = some f ∧ f.r.code = 1 ∧ f.r.word = 0) ∧
      (∀ (h : Hdr) (y : Die) (hs : List Half) (ws : List BWord), h.len ≠ 0 → h.rep ≠ 0 → code h.len.toNat h.nex.toNat = .ok y hs →
        bodyWords h.len.toNat 2 (slice hs 2 h.len.toNat) = some ws → secondLoop false ws = none → exitsOk hs h.len.toNat h.nex.toNat →
        opens (exec (.blockHeader h) s) y h.len.toNat h.nex.toNat 2 h.rep.toNat none) ∧
      (∀ (h : Hdr) (y : Die) (hs : List Half) (ws : List BWord) (r : BitVec 5), 2 ≤ h.len.toNat → h.rep = 0 → code h.len.toNat h.nex.toNat = .ok y hs →
        listGet 0 (slice hs 2 h.len.toNat) 0 = 0#9 ++ r ++ 0#2 → bodyWords h.len.toNat 3 ((slice hs 2 h.len.toNat).drop 1) = some ws → secondLoop false ws = none → exitsOk hs h.len.toNat h.nex.toNat →
        (c.regs.isFull r = true → opens (exec (.blockHeader h) s) y h.len.toNat h.nex.toNat 3 (c.regs.get r).toNat none) ∧
        (c.regs.isFull r = false → exec (.blockHeader h) s = .next (s.modDie d fun _ => y))) ∧
      (∀ (h : HdrSw) (y : Die) (hs : List Half) (ws : List BWord), h.len ≠ 0 → code h.len.toNat 0 = .ok y hs →
        bodyWords h.len.toNat 2 (slice hs 2 h.len.toNat) = some ws → secondLoop false ws = none →
        opens (exec (.switchPointHeader h) s) y h.len.toNat 0 2 1 (some h.swid.toNat))) ∧
  (∀ (s : State) (d : DieId) (k : SlotId) (b : Open) (n : Nat), AtCore s d k b → b.phase = .exits n →
      let w := (b.at_ (2 + b.len + 2 * n)).toNat
      let passed : Out := .next (s.setOpn d k (if n + 1 < b.nex then { b with phase := .exits (n + 1) } else { b with phase := .ready, succ := .fall }))
      let goes (x : Succ) : Out := .next (s.setOpn d k { b with phase := .ready, succ := x })
      (∀ x : ExRel,
        (b.regs.pget x.p = x.neg → exec (.relativeExit x) s = passed) ∧
        (b.regs.pget x.p ≠ x.neg → exec (.relativeExit x) s = goes (.addr (b.hdr + (x.off.signExtend 64 <<< 1)) w))) ∧
      (∀ x : ExReg,
        (b.regs.pget x.p = x.neg → exec (.jumpExit x) s = passed ∧ exec (.callExit x) s = passed ∧ exec (.returnExit x) s = passed) ∧
        (b.regs.pget x.p ≠ x.neg → b.regs.isFull x.reg = false →
          exec (.jumpExit x) s = .next s ∧ exec (.callExit x) s = .next s ∧ exec (.returnExit x) s = .next s) ∧
        (b.regs.pget x.p ≠ x.neg → b.regs.isFull x.reg = true →
          let v := b.regs.get x.reg
          exec (.jumpExit x) s = goes (if v = 0 then .stop w else .addr v w) ∧ exec (.callExit x) s = goes (.call v w) ∧ exec (.returnExit x) s = goes (.ret v w))))

/-- A block with nothing held commits its registers and takes its successor: nothing else of the package changes. The operations a block holds enter the store buffer in the order written, each in its own form; one with `rel` or `full` is preceded by its fence, and one with `acq` or `full` followed by its acquire. Memory does not change at the commit. A committed push joins its queue at the tail, with the seed after the generator's next step and the queue's next sequence number, and with the fault that it met while it was tentative; no other queue changes. A matrix push takes one unit of the lease, which lapses at the last. Completion is the conclusion, under conditions on the state and the operands alone, for: BLOCK_COMMIT. -/
def Obligations.CommitKeepsTheOrderWritten : Prop :=
  (∀ (s : State) (d : DieId) (k : SlotId) (b : Open) (r : Ready), CommitReady s d k b r → b.ops = [] → b.resv = [] → b.traps = [] →
      (b.succ = .fall ∨ ∃ a w, b.succ = .addr a w) → r.susp = none →
      ∃ t, exec (.blockCommit d k) s = .next t ∧ OnlyCtl s t d k ∧ (t.ctl d k).regs = b.regs ∧ (t.ctl d k).opn = none ∧
        (t.ctl d k).ccnt = (s.ctl d k).ccnt + 1 ∧ (t.ctl d k).csr = (s.ctl d k).csr ∧
        (t.ctl d k).pc = (match b.succ with | .addr a _ => a | _ => r.fall)) ∧
  (∀ (s : State) (d : DieId) (k : SlotId) (b : Open) (r : Ready), CommitReady s d k b r → b.traps = [] → b.succ = .fall → r.susp = none →
      let seq := (s.ctl d k).ccnt
      let form (x : CtlOp) : Option (List SbOp) := match x with
        | .store w word => some [.write [w] false word seq]
        | .amo q op w64 ord scope v y =>
          some ((if ord = 2 ∨ ord = 3 then [SbOp.relGate (ord == 3) scope (s.slot d k).pseq] else []) ++ [.amo q op w64 v y] ++ (if ord = 1 ∨ ord = 3 then [SbOp.acqGate] else []))
        | .sem set i v => some [.sem set i v]
        | .tsig m word => some [.tsig m b.hdr.toNat word seq]
        | .sysc a i => some [.sysc a i (s.slot d k).pseq]
        | .freeh rs ps word => some [.freeh rs ps word seq]
        | .arv _ => some []
        | _ => none
      (∀ x ∈ b.ops, (form x).isSome = true) →
      ∃ t, exec (.blockCommit d k) s = .next t ∧ (t.slot d k).agCtl.sb = (s.slot d k).agCtl.sb ++ b.ops.flatMap (fun x => (form x).getD []) ∧
        SameMem s t ∧ (t.ctl d k).regs = b.regs ∧ (t.ctl d k).pc = r.fall) ∧
  (∀ (s : State) (d : DieId) (k : SlotId) (b : Open) (r : Ready) (q : Fin 6) (h : Word) (e : Vector Word 8) (wait sig : Byte) (word : Nat),
      CommitReady s d k b r → b.traps = [] → b.succ = .fall → r.susp = none → b.resv = [] → b.ops = [.enq q h e wait sig word] →
      let g := stepRng (s.ctl d k).rng
      ∃ t, exec (.blockCommit d k) s = .next t ∧ (t.ctl d k).rng = g ∧
        vget (t.slot d k).q q = vget (s.slot d k).q q ++ [⟨h, e, wait, sig, g, vget (s.slot d k).pseq q, ((s.ctl d k).tent.find? fun x => x.1 == q && x.2.hdr == h).bind (·.2.held)⟩] ∧
        vget (t.slot d k).pseq q = vget (s.slot d k).pseq q + 1 ∧ (∀ p, p ≠ q → vget (t.slot d k).q p = vget (s.slot d k).q p ∧ vget (t.slot d k).pseq p = vget (s.slot d k).pseq p) ∧
        SameMem s t ∧ (t.slot d k).agCtl = (s.slot d k).agCtl ∧
        (q = 3 → (s.ctl d k).mheld = true → (s.ctl d k).mreq = false →
          (1 < (s.ctl d k).mleft → (t.ctl d k).mheld = true ∧ (t.ctl d k).mleft + 1 = (s.ctl d k).mleft) ∧ ((s.ctl d k).mleft = 1 → (t.ctl d k).mheld = false)))

/-- `csrw` takes effect at the commit: read-only bits keep their value, `PSNST` bits written 1 clear, and `WSP` and `WLIM` change only at window depth 0. `trap` at the commit: with a handler set and outside handler mode, `TEPC` takes the successor, `TCAUSE` the value, `HM` sets and the handler is the successor, and the strand's ports give back the rows fetched ahead; else a software-trap fault (code 9) carries the value, after the commit, with the count from before the block as its sequence number (the model's reading, log entry 35). `eret` clears `HM` and continues at `TEPC`. Completion is the conclusion, under conditions on the state and the operands alone, for: BLOCK_COMMIT. -/
def Obligations.SpecialRegistersAndTraps : Prop :=
  (∀ (s : State) (d : DieId) (k : SlotId) (b : Open) (r : Ready) (n : BitVec 10) (v : Word),
      CommitReady s d k b r → b.traps = [] → b.succ = .fall → r.susp = none → b.ops = [.csrw n v] → b.resv = [] →
      let c := (s.ctl d k).csr
      ∃ t, exec (.blockCommit d k) s = .next t ∧ SameMem s t ∧ (t.slot d k).agCtl = (s.slot d k).agCtl ∧
        let e := (t.ctl d k).csr
        (n = 0x050 → e = { c with vflags := v.setWidth 7 }) ∧
        (n = 0x060 → e = if c.wdepth = 0 then { c with wsp := v &&& 0x000FFFFFFFFFFFC0 } else c) ∧
        (n = 0x061 → e = if c.wdepth = 0 then { c with wlim := v &&& 0x000FFFFFFFFFFFC0 } else c) ∧
        (n = 0x070 → e = { c with thnd := v &&& 0x000FFFFFFFFFFFFE }) ∧ (n = 0x071 → e = { c with tepc := v &&& 0x000FFFFFFFFFFFFF }) ∧
        (n = 0x072 → e = { c with tcause := v }) ∧ (n = 0x0E0 → e = { c with psnst := c.psnst &&& ~~~ (v.setWidth 5) }) ∧
        (n = 0x001 ∨ n = 0x010 ∨ n = 0x020 ∨ n = 0x021 ∨ n = 0x030 ∨ n = 0x062 ∨ n = 0x073 ∨ n = 0x080 ∨ n = 0x090 → e = c) ∧
        (∀ i : Fin 16, n = BitVec.ofNat 10 (0xA0 + i.val) → vget (t.slot d k).pmc i = v ∧ e = c) ∧
        (∀ i : Fin 16, n = BitVec.ofNat 10 (0xB0 + i.val) → vget (t.slot d k).pmsel i = v.setWidth 8 ∧ e = c)) ∧
  (∀ (s : State) (d : DieId) (k : SlotId) (b : Open) (r : Ready), CommitReady s d k b r → b.ops = [] → b.resv = [] → b.succ = .fall → r.susp = none →
      let c := (s.ctl d k).csr
      (∀ v p, b.traps = [(some v, p)] →
        (c.thnd &&& 0x000FFFFFFFFFFFFE ≠ 0 → c.hm = false →
          ∃ t, exec (.blockCommit d k) s = .next t ∧ SameMem s t ∧ (∀ e, e ≠ d → t.die e = s.die e) ∧ (∀ j, j ≠ k → t.slot d j = s.slot d j) ∧
            t.slot d k = { (s.slot d k).dropRows with ctl := t.ctl d k } ∧ (t.ctl d k).csr = { c with tepc := r.fall, tcause := v, hm := true } ∧
            (t.ctl d k).pc = c.thnd &&& 0x000FFFFFFFFFFFFE ∧ (t.ctl d k).regs = b.regs) ∧
        (c.thnd &&& 0x000FFFFFFFFFFFFE = 0 ∨ c.hm = true → s.openRec d k 0 = none →
          ∃ t, exec (.blockCommit d k) s = .next t ∧ SameMem s t ∧ (t.ctl d k).csr = c ∧ (t.ctl d k).pc = r.fall ∧ (t.ctl d k).regs = b.regs ∧ (t.ctl d k).act = .faulted ∧
            ∃ f, vget (t.slot d k).flt 0 = some f ∧ f.r.code = 9 ∧ f.r.info = v ∧ f.r.word = b.at_ p ∧ f.r.seq = (s.ctl d k).ccnt)) ∧
      (∀ p, b.traps = [(none, p)] →
        ∃ t, exec (.blockCommit d k) s = .next t ∧ OnlyCtl s t d k ∧ (t.ctl d k).csr = { c with hm := false } ∧ (t.ctl d k).pc = c.tepc ∧ (t.ctl d k).regs = b.regs))

/-- A call's window: the stack pointer falls by 64 and the depth grows by one, s16 to s23 are stored there in ascending order, s24 to s31 move down, and s31 takes the return address, the next block's, modulo 2^52 (the model's choice, log entry 143). A return's window: first the eight fill loads are made, then the stack pointer rises by 64 and the depth falls by one; s24 to s31 take s16 to s23, and s16 to s23 the loaded words. `susp` and the stop of a jump exit suspend the strand at the commit: its record, with `FRESH` and `EARLY` clear and with the words that s1 and s2 hold also where one is empty (the model's reading, log entry 117), is written at its place at once (log entry 25), or held while another port has pinned its line, or joins the store buffer where it lies in a peer window; the strand's request and lease are given up, and the scheduler's copy says why it waits. Completion is the conclusion, under conditions on the state and the operands alone, for: BLOCK_COMMIT. -/
def Obligations.WindowsAndSuspensions : Prop :=
  (∀ (s : State) (d : DieId) (k : SlotId) (b : Open) (r : Ready) (a : Word) (w pa : Nat) (p : Piece), CommitReady s d k b r → b.traps = [] →
      b.ops = [] → b.resv = [] → b.succ = .call a w → r.susp = none → r.win = [p] → p.loc = .here pa → p.va = (s.ctl d k).csr.wsp.toNat - 64 → p.len = 64 →
      let c := (s.ctl d k).csr
      ∃ t, exec (.blockCommit d k) s = .next t ∧ (t.ctl d k).pc = a ∧ (t.ctl d k).csr = { c with wsp := c.wsp - 64, wdepth := c.wdepth + 1 } ∧ SameMem s t ∧
        (∀ i : Fin 32, vget (t.ctl d k).regs.x i =
          if 16 ≤ i.val ∧ i.val < 24 then vget b.regs.x ⟨(i.val + 8) % 32, Nat.mod_lt _ (by decide)⟩
          else if 24 ≤ i.val ∧ i.val < 31 then ⟨0, none⟩ else if i.val = 31 then ⟨b.nextAddr, none⟩ else vget b.regs.x i) ∧
        ∃ g : Nat, (t.slot d k).agCtl.sb = (s.slot d k).agCtl.sb ++ (List.range 8).map fun i =>
          SbOp.write [⟨⟨.here (pa + 8 * i), c.wsp.toNat - 64 + 8 * i, 8, p.dirty, p.pg⟩, natLe 8 (b.regs.get (BitVec.ofNat 5 (16 + i))).toNat⟩] false g (s.ctl d k).ccnt) ∧
  (∀ (s : State) (d : DieId) (k : SlotId) (b : Open) (r : Ready) (a : Word) (w : Nat), CommitReady s d k b r → b.traps = [] →
      b.ops = [] → b.resv = [] → b.succ = .ret a w → r.susp = none → b.fill.map (·.1) = List.range 8 →
      let c := (s.ctl d k).csr
      ∃ t, exec (.blockCommit d k) s = .next t ∧ (t.ctl d k).pc = a ∧ (t.ctl d k).csr = { c with wsp := c.wsp + 64, wdepth := c.wdepth - 1 } ∧ SameMem s t ∧
        (∀ i : Fin 32, i.val < 16 → vget (t.ctl d k).regs.x i = vget b.regs.x i) ∧
        (∀ i : Fin 32, 24 ≤ i.val → vget (t.ctl d k).regs.x i = vget b.regs.x ⟨(i.val + 24) % 32, Nat.mod_lt _ (by decide)⟩) ∧
        (∀ i : Fin 8, vget (t.ctl d k).regs.x ⟨16 + i.val, by omega⟩ = ⟨(b.fill.map (·.2)).getD i.val 0, none⟩)) ∧
  (∀ (s : State) (d : DieId) (k : SlotId) (b : Open) (r : Ready) (o : Owner) (l : Launch) (p : Piece),
      CommitReady s d k b r → b.ops = [] → b.resv = [] → b.traps = [] →
      (s.ctl d k).own = some o → (s.die d).ownLaunch k = some l → (s.die d).paired d = none → r.place = [p] → p.va = l.recAt o.blk o.sidx → p.len = 64 →
      ((∃ n, b.succ = .fall ∧ r.susp = some (.susp, n)) ∨ (∃ w, b.succ = .stop w ∧ r.susp = none)) →
      let stops : Bool := b.succ != .fall
      let succ : Word := if stops then 0 else r.fall
      let bytes := l.recBytes o.blk o.sidx { pc := succ, rng := (s.ctl d k).rng, pred := predBits b.regs, vflags := (s.ctl d k).csr.vflags.setWidth 16, live0 := b.regs.get 1, live1 := b.regs.get 2, kind := 0, sem := 0, thr := 0, pnode := 0, early := false, done := stops, fresh := false }
      let op : SbOp := .write (wrsOf [p] p.va bytes) false (packPlace 0 0 0) (s.ctl d k).ccnt
      ∃ t, exec (.blockCommit d k) s = .next t ∧ (t.ctl d k).act = .suspended ∧ (t.ctl d k).regs = b.regs ∧ (t.ctl d k).opn = none ∧ (t.ctl d k).mreq = false ∧
        ((s.ctl d k).mreq = false → (t.ctl d k).mheld = false) ∧
        (∀ pa, p.loc = .here pa → (s.die d).mustHold (.core k) d none (linesOf pa 64) = false → (t.die d).peek pa 64 = bytes ∧ (t.die d).held = (s.die d).held) ∧
        (∀ pa, p.loc = .here pa → (s.die d).mustHold (.core k) d none (linesOf pa 64) = true →
          ∃ h, (t.die d).held = (s.die d).held ++ [h] ∧ h.op = op ∧ h.ag = .core k ∧ h.src = d ∧ h.fab = none) ∧
        (∀ h i g off, p.loc = .peer h i g off → (t.slot d k).agCtl.sb = (s.slot d k).agCtl.sb ++ [op] ∧ SameMem s t) ∧
        (∀ y x, (s.die d).ownBlk k = some y → y.recs[o.sidx]? = some x →
          ∃ y' x', (t.die d).ownBlk k = some y' ∧ y'.recs[o.sidx]? = some x' ∧ x'.susp = some (0, 0, 0, 0) ∧ x'.done = stops ∧ x'.fresh = false))

/-- What stops a commit: a refused word is illegal (2) or an illegal exit (1); full queues make it wait; a lease that does not cover its matrix pushes is a lease fault (6), reason 1 or 2 also where the matrix budget of the die is too small besides (the model's reading, log entry 28). Of several failing words of a block the first in address order is named. Each fault discards the block. A drain event whose slots have drained changes the layout and its block commits: a chain sets the link of its source, an unchain clears it, a split puts a fragment of the child shape on each child's base, a fuse makes one fragment of its slots; one that an event before it has made illegal faults (code 12), and the layout stays. Completion is the conclusion, under conditions on the state and the operands alone, for: BLOCK_COMMIT, DRAIN_EVENT. -/
def Obligations.CommitChecksAndDrainEvents : Prop :=
  (∀ (s : State) (d : DieId) (k : SlotId) (b : Open), (s.ctl d k).opn = some b → b.phase = .ready → (s.slot d k).agCtl.rd = [] → (s.slot d k).heldBy 0 = false →
      vget (s.slot d k).stop 0 = false → s.openRec d k 0 = none →
      let faults (code unit : Nat) : Prop := ∃ t, exec (.blockCommit d k) s = .next t ∧ (t.ctl d k).opn = none ∧ (t.ctl d k).regs = (s.ctl d k).regs ∧
        (t.ctl d k).pc = (s.ctl d k).pc ∧ SameMem s t ∧ ∃ f, vget (t.slot d k).flt 0 = some f ∧ f.r.code = code ∧ f.r.unit = BitVec.ofNat 32 unit
      let plain : Prop := b.susp = none ∧ b.traps = [] ∧ b.drain = none ∧ b.succ = .fall ∧ b.sw = none
      let names (code : Nat) (word : Word) : Prop := ∃ t, exec (.blockCommit d k) s = .next t ∧ (t.ctl d k).opn = none ∧ ∃ f, vget (t.slot d k).flt 0 = some f ∧ f.r.code = code ∧ f.r.word = word
      let lower (code : Nat) (w : Word) (code' : Nat) (w' : Word) : Prop := if (w' - b.hdr).toNat < (w - b.hdr).toNat then names code' w' else names code w
      (∀ n, plain → b.bad = some n → vget b.npush 3 = 0 → faults (if b.len + 2 ≤ n then 1 else 2) 0) ∧
      (∀ u c w x v, preCommit s d k b = .fault u c w x v →
        (b.bad = none → vget b.npush 3 = 0 → names c w) ∧
        (∀ n, b.bad = some n → vget b.npush 3 = 0 → lower (if b.len + 2 ≤ n then 1 else 2) (b.at_ n) c w) ∧
        (∀ z, b.bad = none → (s.die d).leaseCheck d k (vget b.npush 3) = some (some z) → lower 6 (BitVec.ofNat 64 (firstMxe b.ops)) c w)) ∧
      (∀ u, preCommit s d k b = .wait u → b.bad = none → (s.die d).leaseCheck d k (vget b.npush 3) = none → exec (.blockCommit d k) s = .next u) ∧
      (∀ u r, preCommit s d k b = .ok u r → b.bad = none → (s.die d).leaseCheck d k (vget b.npush 3) = none →
        (∃ q : Fin 6, 16 < (vget (u.slot d k).q q).length + vget b.npush q) → exec (.blockCommit d k) s = .next u) ∧
      (plain → b.bad = none → vget b.npush 3 ≠ 0 →
        let c := s.ctl d k
        (c.mheld = false → c.mreq = false → faults 6 1) ∧ (c.mheld = true → c.mleft < vget b.npush 3 → faults 6 2) ∧
        (c.mheld = false → c.mreq = true → (s.die d).budget d < vget b.npush 3 → faults 6 3) ∧
        (c.mheld = false → c.mreq = true → vget b.npush 3 ≤ (s.die d).budget d → exec (.blockCommit d k) s = .next s))) ∧
  (∀ (s : State) (d : DieId) (k : SlotId) (b : Open) (r : Ready) (q : DrainReq) (n : Nat), (s.ctl d k).opn = some b → b.phase = .draining → b.drain = some (q, n) →
      (s.slot d k).heldBy 0 = false → vget (s.slot d k).stop 0 = false → (s.die d).drainCheck (((s.die d).ownBlk k).elim [] (·.slots)) q = .ok b.aff →
      (s.die d).drainStuck b.aff = false → (s.die d).drainDone b.aff = true → preCommit s d k b = .ok s r →
      b.ops = [] → b.traps = [] → b.succ = .fall → r.susp = none →
      ∃ t, exec (.drainEvent d k) s = .next t ∧ (t.ctl d k).opn = none ∧ (t.ctl d k).pc = r.fall ∧ (t.ctl d k).ccnt = (s.ctl d k).ccnt + 1 ∧ SameMem s t ∧
        (∀ x y, q = .chain x y → ∀ j, (t.die d).layOf j = if j = mkSlot x.toNat then { (s.die d).layOf j with dst := some (mkSlot y.toNat) } else (s.die d).layOf j) ∧
        (∀ x, q = .unchain x → ∀ j, (t.die d).layOf j = if j = mkSlot x.toNat then { (s.die d).layOf j with dst := none } else (s.die d).layOf j) ∧
        (∀ x, q = .split x → ∀ c, c ∈ childBases (mkShape (fld x 4 3)) ((s.die d).fragSlots (mkSlot (fld x 0 3))) →
          ((t.die d).layOf c).shape = mkShape (fld x 4 3) ∧ ((t.die d).layOf c).base = c) ∧
        (∀ x, q = .fuse x → ∀ ps, placement (mkShape (fld x 4 3)) (mkSlot (fld x 0 3)) = some ps →
          ∀ j, j ∈ ps → ((t.die d).layOf j).shape = mkShape (fld x 4 3) ∧ ((t.die d).layOf j).base = mkSlot (fld x 0 3))) ∧
  (∀ (s : State) (d : DieId) (k : SlotId) (b : Open) (q : DrainReq) (n u : Nat), (s.ctl d k).opn = some b → b.phase = .draining → b.drain = some (q, n) →
      (s.slot d k).heldBy 0 = false → vget (s.slot d k).stop 0 = false → (s.die d).drainCheck (((s.die d).ownBlk k).elim [] (·.slots)) q = .error u →
      HeldFault (exec (.drainEvent d k) s) d k 0 12 0 u ∧
      ∃ t, exec (.drainEvent d k) s = .next t ∧ (t.ctl d k).opn = none ∧ SameMem s t ∧ ∀ j, (t.die d).layOf j = (s.die d).layOf j)

/-- What ends a block's waits outside its words: a misprediction discards the tentative entries; a met wait goes on with the body; a result fills the oldest unfilled reservation; a ready arrival is counted. Completion is the conclusion, under conditions on the state and the operands alone, for: RUN_AHEAD_MISPREDICT, BLOCK_WAIT_MET, ARRIVAL_RECORD, POP_FILL. -/
def Obligations.BlockEvents : Prop :=
  ∀ (s : State) (d : DieId) (k : SlotId),
    (∃ t, exec (.runAheadMispredict d k) s = .next t ∧ (t.ctl d k).tent = [] ∧ (t.ctl d k).regs = (s.ctl d k).regs ∧ (t.ctl d k).opn = (s.ctl d k).opn ∧ (t.slot d k).q = (s.slot d k).q ∧ SameMem s t) ∧
    (∀ (b : Open) (m : Byte), (s.ctl d k).opn = some b → b.phase = .body → b.wait = some (.twait m) → b.bad = none → (s.slot d k).heldBy 0 = false → vget (s.slot d k).stop 0 = false →
      (∀ i : Fin 8, m.getLsbD i.val = true → vget (s.slot d k).toks i ≠ 0) →
      exec (.blockWaitMet d k) s = .next ((s.modSlot d k fun t => { t with toks := Vector.ofFn fun i => if m.getLsbD i.val then vget t.toks i - 1 else vget t.toks i }).setOpn d k
        ({ b with toks := b.toks ||| m, wait := none }.adv 2 b.waitNa))) ∧
    (∀ (b : Open) (i : Fin 32) (v : W32), (s.ctl d k).opn = some b → b.phase = .body → b.wait = some (.sem i v) → b.bad = none → (s.slot d k).heldBy 0 = false →
      vget (s.slot d k).stop 0 = false → (s.ctl d k).acq = none → (∃ x, semSeen (s.die d) d k i = some x ∧ v.toNat ≤ x.toNat) →
      exec (.blockWaitMet d k) s = .next (s.setOpn d k ({ b with wait := none }.adv 2 b.waitNa))) ∧
    (∀ (q : BitVec 2) (tag : Nat) (rest : List Nat) (v : Word) (rs : List Result), vget (s.slot d k).resv (qidx q) = tag :: rest → vget (s.slot d k).rq (qidx q) = (v, false) :: rs →
      ∃ t, exec (.popFill d k q) s = .next t ∧ vget (t.slot d k).resv (qidx q) = rest ∧ vget (t.slot d k).rq (qidx q) = rs ∧ SameMem s t ∧
        (∀ i : Fin 32, vget (t.ctl d k).regs.x i = if (vget (s.ctl d k).regs.x i).wait = some tag then ⟨v, none⟩ else vget (s.ctl d k).regs.x i)) ∧
    (∀ (sc : BitVec 2) (n : Vector W32 6) (rest : List (BitVec 2 × Nat × Vector W32 6)) (o : Owner) (b : Blk) (x : StrandRec), sc = 1 ∨ sc = 2 →
      (s.ctl d k).arvs = (sc, 0, n) :: rest → (s.slot d k).doneUpTo n = true → (s.ctl d k).own = some o → (s.die d).ownBlk k = some b → b.recs[o.sidx]? = some x →
      ∃ t, exec (.arrivalRecord d k sc) s = .next t ∧ (t.ctl d k).arvs = rest ∧ SameMem s t ∧
        ∃ b' x', (t.die d).ownBlk k = some b' ∧ b'.recs[o.sidx]? = some x' ∧ x'.arvC = (if sc = 1 then x.arvC + 1 else x.arvC) ∧ x'.arvD = (if sc = 2 then x.arvD + 1 else x.arvD))

/-! ## Between dies: links, gate, replies, held writes, publishing, translation (R10 to R12, R88 to R92, R103, R110 to R124, R402) -/

/-- Traffic to the diagonal die passes through die d + 1: out on link d, in on link d + 1; a neighbour's only over the joining link; each link is a queue, and a die between forwards at the tail what reached it, also while it is in reset (the model's choice, log entry 132). A link-lost notice that reaches a neighbour goes on to the diagonal die. Completion is the conclusion, under conditions on the state and the operands alone, for: LINK_FORWARD, BEAT. -/
def Obligations.LinksDeliverInOrder : Prop :=
  (∀ (s : State) (d h : DieId) (m : Msg), d ≠ h → (s.die d).isLost d h = false →
    (h.val = (d.val + 1) % 4 ∨ h.val = (d.val + 2) % 4 → s.send d h m = { s with east := vset s.east d (vget s.east d ++ [⟨d, h, m⟩]) }) ∧
    (h.val = (d.val + 3) % 4 → s.send d h m = { s with west := vset s.west h (vget s.west h ++ [⟨d, h, m⟩]) })) ∧
  (∀ (s : State) (l : DieId) (x : Hop) (rest : List Hop), vget s.east l = x :: rest →
    let n := mkDie (l.val + 1)
    let s' := { s with east := vset s.east l rest }
    (s.die n).gated = false →
    (x.dst = n → x.m.isRejoin = false → x.m ≠ .linkLost → x.m ≠ .schedFail → (s.die n).inReset = false → (s.die n).isLost n x.src = false →
      exec (.linkForward l true) s = .next (s'.modDie n fun y => { y with gate := { y.gate with arr := vset y.gate.arr x.src (vget y.gate.arr x.src ++ [x.m]) } })) ∧
    (x.dst ≠ n → exec (.linkForward l true) s = .next { s with east := vset (vset s.east l rest) n (vget s.east n ++ [x]) }) ∧
    (x.dst = n → x.m = .linkLost → x.src = l → ∃ t, exec (.linkForward l true) s = .next t ∧ (vget t.east n).getLast? = some ⟨l, mkDie (l.val + 2), .linkLost⟩)) ∧
  (∀ (s : State) (l : DieId) (x : Hop) (rest : List Hop), vget s.west l = x :: rest →
    let s' := { s with west := vset s.west l rest }
    (s.die l).gated = false →
    (x.dst = l → x.m.isRejoin = false → x.m ≠ .linkLost → x.m ≠ .schedFail → (s.die l).inReset = false → (s.die l).isLost l x.src = false →
      exec (.linkForward l false) s = .next (s'.modDie l fun y => { y with gate := { y.gate with arr := vset y.gate.arr x.src (vget y.gate.arr x.src ++ [x.m]) } })) ∧
    (x.dst ≠ l →
      exec (.linkForward l false) s = .next { s with west := vset (vset s.west l rest) (mkDie (l.val + 3)) (vget s.west (mkDie (l.val + 3)) ++ [x]) })) ∧
  (∀ (s : State) (d h : DieId), exec (.beat d h) s = .next (s.send d h (.beat (vget (s.die d).gate.v d))))

/-- A peer's write at the head of its queue: it waits until its die's count stands one below its own and every stamp of a third die is reached; then its bytes are written, its count is accounted for, its stamp known, and its acknowledgement sent. A reply at the head ends its read: the home's counts become known, the read leaves the pending set, and the registers that wait take its value. Completion is the conclusion, under conditions on the state and the operands alone, for: GATE_WRITE_APPLY, REPLY. -/
def Obligations.GateWritesAndReplies : Prop :=
  (∀ (s : State) (h d : DieId) (a : Agent) (key n : Nat) (st : Vector Nat 4) (i g off : Nat) (bs : List Byte) (rest : List Msg), MemInv s → d ≠ h →
      vget (s.die h).gate.arr d = .write a key n st [(i, g, off, bs)] false :: rest → vget (s.die h).gate.taken d = true → vget (s.die h).gate.refd d = [] →
      vget (s.die h).gate.owed d = 0 → (s.die h).gate.closed = [] → vget (s.die h).gate.g d < n →
      let third : Prop := ∀ k : DieId, k ≠ h → k ≠ d → vget st k ≤ vget (s.die h).gate.g k
      (third → ∀ pa, (s.die h).exportAddr h i g off bs.length 1 false = .ok pa → isMem pa bs.length = true → (s.die h).mustHold a d none (linesOf pa bs.length) = false →
        ∃ u : State, exec (.gateWriteApply h d .ok) s = .next (u.send h d (.ack a key)) ∧ vget (u.die h).gate.arr d = rest ∧ vget (u.die h).gate.g d = n ∧
          (∀ k, k ≠ h → vget (u.die h).gate.v k = max (vget (s.die h).gate.v k) (vget st k)) ∧ (∀ k, k ≠ d → vget (u.die h).gate.g k = vget (s.die h).gate.g k) ∧
          (∀ e, e ≠ h → u.die e = s.die e) ∧ u.east = s.east ∧ u.west = s.west ∧
          ∀ x, memGet (u.die h).mem x = if pa ≤ x ∧ x < pa + bs.length then bs.getD (x - pa) 0 else memGet (s.die h).mem x) ∧
      (¬ third → (∀ k, (s.die h).isLost h k = false) → (∀ k, vget (s.die h).gate.excused k = false) →
        ∃ t, exec (.gateWriteApply h d .ok) s = .next t ∧ (t.die h).gate.arr = (s.die h).gate.arr ∧ vget (t.die h).gate.g d = n - 1 ∧ SameMem s t)) ∧
  (∀ (s : State) (d h : DieId) (k : SlotId) (key n : Nat) (g : Vector Nat 4) (data : List Byte) (pa : Nat) (rest : List Msg) (p : Sent) (r : Rd) (size : Nat) (sgn : Bool) (own : List (Nat × Byte)),
      vget (s.die d).gate.arr h = .reply (.core k) key n g data false pa :: rest → vget (s.die d).gate.refd h = [] →
      ((s.ag d (.core k)).pend.find? fun p => p.key == key && p.home == h) = some p → p.rd = some r → r.kind = .scalar size sgn own →
      ∃ t, exec (.reply d h) s = .next t ∧ (t.ag d (.core k)).pend = (s.ag d (.core k)).pend.erase p ∧ vget (t.die d).gate.arr h = rest ∧
        vget (t.die d).gate.g h = max n (vget (s.die d).gate.g h) ∧ (∀ j, j ≠ d → vget (t.die d).gate.v j = max (vget (s.die d).gate.v j) (vget g j)) ∧
        vget (t.die d).gate.v d = vget (s.die d).gate.v d ∧ SameMem s t ∧
        ∀ i : Fin 32, vget (t.ctl d k).regs.x i = if (vget (s.ctl d k).regs.x i).wait = some r.tag then ⟨loadVal size sgn own data, none⟩ else vget (s.ctl d k).regs.x i)

/-- A peer's read, a beat and an invalidation at the head of their queue: a read waits for every stamp and is answered with the bytes of the moment and the home's counts; a beat accounts for its count; an invalidation drops every copy of its record. Completion is the conclusion, under conditions on the state and the operands alone, for: GATE_READ_PERFORM, GATE_BEAT, PUBLISH_INVALIDATION. -/
def Obligations.GateReadsBeatsAndInvalidations : Prop :=
  ∀ (s : State) (h d : DieId) (rest : List Msg), d ≠ h → vget (s.die h).gate.refd d = [] →
    (∀ (a : Agent) (key n : Nat) (st : Vector Nat 4) (i g off len pa : Nat), vget (s.die h).gate.arr d = .read a key n st i g off len :: rest → vget (s.die h).gate.taken d = true →
      (s.die h).gate.closed = [] → vget (s.die h).gate.owed d = 0 → (s.die h).exportAddr h i g off len 0 false = .ok pa → isMem pa len = true →
      (∀ k : DieId, k ≠ h → vget st k ≤ if k = d then max n (vget (s.die h).gate.g d) else vget (s.die h).gate.g k) →
      ∃ t, exec (.gateReadPerform h d .ok) s = .next t ∧ vget (t.die h).gate.arr d = rest ∧ vget (t.die h).gate.g d = max n (vget (s.die h).gate.g d) ∧ SameMem s t ∧
        ((s.die h).isLost h d = false →
          let gs := vset (s.die h).gate.g d (max n (vget (s.die h).gate.g d))
          let m : Hop := ⟨h, d, .reply a key (vget gs h) gs ((s.die h).peek pa len) ((s.die h).poisoned pa len) pa⟩
          (t.east = vmod s.east h (· ++ [m]) ∧ t.west = s.west) ∨ (t.west = vmod s.west d (· ++ [m]) ∧ t.east = s.east))) ∧
    (∀ n, vget (s.die h).gate.arr d = .beat n :: rest →
      exec (.gateBeat h d) s = .next (s.modDie h fun y => { y with gate := { y.gate with g := vset y.gate.g d (max n (vget y.gate.g d)), arr := vset y.gate.arr d rest } })) ∧
    (∀ (n : Nat) (st : Vector Nat 4) (pa : Nat), vget (s.die h).gate.arr d = .inval n st pa :: rest → vget (s.die h).gate.g d < n →
      (∀ k : DieId, k ≠ h → k ≠ d → vget st k ≤ vget (s.die h).gate.g k) →
      ∃ t, exec (.publishInvalidation h d) s = .next t ∧ vget (t.die h).gate.arr d = rest ∧ vget (t.die h).gate.g d = n ∧
        (∀ k, k ≠ h → vget (t.die h).gate.v k = max (vget (s.die h).gate.v k) (vget st k)) ∧ SameMem s t ∧
        ∀ (k : SlotId) (c : RecCopy), c ∈ (t.slot h k).recs ↔ c ∈ (s.slot h k).recs ∧ ¬ (c.home = d ∧ c.pa = pa))

/-- A write held behind a pin is performed once the pin is gone, earlier ones of its agent first; a fabric write is applied like a local one and acknowledged to its sender; acknowledgements leave the pending set; a request the tracker refused is sent again. Completion is the conclusion, under conditions on the state and the operands alone, for: HELD_WRITE_APPLY, REQUEST_RESEND, TICKET_CALL, FABRIC_WRITE_APPLY, WRITE_ACKNOWLEDGEMENT. -/
def Obligations.HeldAndReturnedRequests : Prop :=
  ∀ (s : State) (d h : DieId), MemInv s →
    (∀ (i : Nat) (x : Held) (p : Piece) (bs : List Byte) (pa : Nat) (w : Nat) (q : W32), (s.die d).held[i]? = some x → x.op = .write [⟨p, bs⟩] false w q → x.src = d → p.loc = .here pa →
      (s.die d).pinned pa bs.length = false → ((s.die d).held.take i).all (fun y => y.ag != x.ag || y.src != d || y.fab != x.fab) = true →
      ∃ t, exec (.heldWriteApply d i) s = .next t ∧ (t.die d).held = (s.die d).held.eraseIdx i ∧ (∀ e, e ≠ d → t.die e = s.die e) ∧
        ∀ a, memGet (t.die d).mem a = if pa ≤ a ∧ a < pa + bs.length then bs.getD (a - pa) 0 else memGet (s.die d).mem a) ∧
    (∀ (i : Nat) (x : Held) (p : Piece) (bs : List Byte) (pa : Nat) (w : Nat) (q : W32), (s.die d).held[i]? = some x → x.op = .write [⟨p, bs⟩] false w q → p.loc = .here pa →
      (s.die d).pinned pa bs.length = true → exec (.heldWriteApply d i) s = .next s) ∧
    (∀ (src : FabSrc) (i gen off : Nat) (bs : List Byte) (pa : Nat), (s.die d).coe.shut src = none → (s.die d).exportAddr d i gen off bs.length 1 true = .ok pa → isMem pa bs.length = true →
      (∀ c ∈ cutLines pa bs.length, (s.die d).mustHold src.ag src.die (some src) (linesOf c.1 c.2) = false) →
      ∃ t, exec (.fabricWriteApply d (.write src i gen off bs)) s = .next t ∧ (t.die d).coe.outR = (s.die d).coe.outR ++ [.ack src 0 0] ∧
        ∀ a, memGet (t.die d).mem a = if pa ≤ a ∧ a < pa + bs.length then bs.getD (a - pa) 0 else memGet (s.die d).mem a) ∧
    (∀ (src : FabSrc) (k : SlotId) (i : Fin 32), (s.die d).coe.shut src = none → (s.die d).behind src.ag src.die (some src) = false →
      exec (.fabricWriteApply d (.sem src k i)) s = .next ((s.modSlot d k fun t => { t with sems := vset t.sems i (vget t.sems i + 1) }).fabAck d src 0 0)) ∧
    (∀ (a : Agent) (key : Nat) (rest : List Msg), vget (s.die d).gate.arr h = .ack a key :: rest →
      ∃ t, exec (.writeAcknowledgement d h none) s = .next t ∧ vget (t.die d).gate.arr h = rest ∧ SameMem s t ∧
        ∀ p, p ∈ (t.ag d a).pend ↔ p ∈ (s.ag d a).pend ∧ ¬ (p.key = key ∧ p.home = h)) ∧
    (∀ (m : Msg) (ticket : Option Nat) (rest : List Msg), vget (s.die d).gate.arr h = .trkRefuse m ticket :: rest →
      ∃ t, exec (.requestResend d h) s = .next t ∧ vget (t.die d).gate.arr h = rest ∧ (t.die d).gate.back = (s.die d).gate.back ++ [(h, m, ticket)] ∧ SameMem s t) ∧
    (∀ m : Msg, vget (s.die d).gate.arr h = [] → ((s.die d).gate.back.find? fun x => x.1 == h) = some (h, m, none) →
      exec (.requestResend d h) s = .next ((s.modDie d fun y => { y with gate := { y.gate with back := y.gate.back.erase (h, m, none) } }).send d h m)) ∧
    (∀ (src : DieId) (m : Msg) (n : Nat), d ≠ src → (s.die d).trackerFree d = true → (s.die d).gate.called = [] →
      (∀ e, vget (s.die d).gate.refd e = if e = src then [(m, some n)] else []) →
      exec (.ticketCall d) s = .next ((s.modDie d fun y => { y with gate := { y.gate with called := [n] } }).send d src (.call n)))

/-- Publishing a record of the own die: `ACT` and `GEN` change in memory, every copy of the die is dropped, and the store engine's word is done. Completion is the conclusion, under conditions on the state and the operands alone, for: PUBL, PUBLISH_STEP. -/
def Obligations.PublishFlipsTheRecord : Prop :=
  ∀ (s : State) (d : DieId) (k : SlotId) (r : Run) (n : Nat) (o : EOp) (p : Piece) (pa : Nat) (x : TileRec), MemInv s →
    (s.slot d k).ste = some r → r.slot = k → r.code[r.pos]? = some (n, .publ o) →
    (r.started = false → s.cur = ⟨d, .eng k .ste, 8⟩ → (r.par o.f2).toNat % 64 = 0 →
      access d (s.die d) ((s.die d).who (.eng k .ste) k) (r.par o.f2).toNat 64 ⟨[4], true, true⟩ = .ok (s.die d) p →
      exec (.publ o) s = .next (s.modSlot d k fun t => { t with ste := some { r with started := true } })) ∧
    (r.started = true → (s.slot d k).heldBy 3 = false → vget (s.slot d k).acked 3 = false → (s.slot d k).agSte.refused = [] → (s.die d).paired d = none → (s.slot d k).agSte.sb = [] → (s.slot d k).agSte.pend = [] → (s.die d).held = [] →
      access d (s.die d) ((s.die d).who (.eng k .ste) k) (r.par o.f2).toNat 64 ⟨[4], true, true⟩ = .ok (s.die d) p → p.loc = .here pa → p.dirty = none →
      (s.die d).gateOk d = true → (s.die d).poisoned pa 64 = false → parseRec ((s.die d).peek pa 64) = some x → x.pv = false →
      ∃ t, exec (.publishStep d k) s = .next t ∧ (t.slot d k).ste = some (r.adv o.na) ∧
        (∀ (j : SlotId) (c : RecCopy), c ∈ (t.slot d j).recs → ¬ (c.home = d ∧ c.pa = pa)) ∧
        (t.die d).peek (pa + 24) 8 = natLe 8 ((s.die d).peekNat (pa + 24) 8 ^^^ 2 ^ 40) ∧ (t.die d).peek (pa + 32) 2 = natLe 2 (((s.die d).peekNat (pa + 32) 2 + 1) % 65536) ∧
        ∀ a, ¬ (pa + 24 ≤ a ∧ a < pa + 32) → ¬ (pa + 32 ≤ a ∧ a < pa + 34) → memGet (t.die d).mem a = memGet (s.die d).mem a)

/-- A page walk reads the entry of its address space and one entry of each level, 8 bytes each, from die memory: each entry on the way holds the physical address of the next table and `V`, and the index is the level's nine bits of the address. A valid leaf, of 64 KiB at the fourth level and larger at the two before, gives the translation: `A` is set in the leaf, and `D` where the walk is for a write, no other byte of memory changes, and the entry joins the TLB, of whose 2,048 entries the oldest makes room (the model's choice, log entry 19). An entry that is invalid at its level is a page fault (code 20) and fills nothing, and so is an address beyond 2^52 or a table base that is not enabled; a poisoned entry is a bus error (code 23). `TLBINV` drops every entry of every TLB that it names, and the walk caches, and is busy until every access and pin that used a dropped entry has ended; while it is busy another command is ignored. Completion is the conclusion, under conditions on the state and the operands alone, for: PAGE_WALK, TLBINV_ALL, TLBINV_ASID, TLBINV_VPN, TLBINV_DONE. -/
def Obligations.TranslationsComeAndGo : Prop :=
  (∀ (s : State) (d : DieId) (b : TlbId) (asid : Half) (va : Word) (wr : Bool) (tbl : Nat → Nat) (l : Nat), MemInv s → l ≤ 3 →
      let y := s.die d
      let root := (y.getReg d 0x100 &&& 0x0000FFFFFFF00000).toNat + 16 * asid.toNat
      let at_ (j : Nat) : Nat := tbl j + 8 * (va.toNat / 2 ^ (43 - 9 * j) % 512)
      let word (a : Nat) : Word := BitVec.ofNat 64 (y.peekNat a 8)
      let sound (a : Nat) : Prop := isDieMem (a + 7) = true ∧ y.poisoned a 8 = false
      let table (a n : Nat) : Prop := sound a ∧ n % 4096 = 0 ∧ n < 2 ^ 48 ∧ word a = BitVec.ofNat 64 (n + 1)
      let w := word (at_ l)
      let sh := 43 - 9 * l
      let mt := fld w 8 3
      let imports : Prop := mt = 2 ∨ mt = 3
      let leaf : Prop := w.getLsbD 0 = true ∧ w.getLsbD 1 = true ∧ 1 ≤ l ∧ fld w 60 4 = 0 ∧ fld w 12 36 % 2 ^ (sh - 12) = 0 ∧ mt ≤ 4 ∧
        (w.getLsbD 4 = true → mt = 0) ∧ (w.getLsbD 3 = true → w.getLsbD 2 = true) ∧ (w.getLsbD 11 = true → mt = 1) ∧ (¬ imports → fld w 48 12 = 0)
      let bad : Prop := w.getLsbD 0 = false ∨ fld w 60 4 ≠ 0 ∨ (w.getLsbD 1 = true ∧ l = 0) ∨ (w.getLsbD 1 = false ∧ l = 3) ∨
        (w.getLsbD 1 = false ∧ (fld w 2 10 ≠ 0 ∨ fld w 48 12 ≠ 0)) ∨
        (w.getLsbD 1 = true ∧ (fld w 12 36 % 2 ^ (sh - 12) ≠ 0 ∨ 5 ≤ mt ∨ (w.getLsbD 4 = true ∧ mt ≠ 0) ∨ (w.getLsbD 3 = true ∧ w.getLsbD 2 = false) ∨
          (w.getLsbD 11 = true ∧ mt ≠ 1) ∨ (¬ imports ∧ fld w 48 12 ≠ 0)))
      y.tlbAsid b = some asid → (y.tlb b).any (·.covers asid va.toNat) = false →
      (2 ^ 52 ≤ va.toNat ∨ (y.getReg d 0x100).getLsbD 0 = false → translate d y b asid va.toNat wr = .fault y 20 va.toNat ∧
        ∃ u, exec (.pageWalk d b va wr false) s = .next u ∧ (u.die d).tlb = y.tlb ∧ SameMem s u) ∧
      (va.toNat < 2 ^ 52 → (y.getReg d 0x100).getLsbD 0 = true → y.gateOk d = true → table root (tbl 0) → y.peekNat (root + 8) 8 = 0 →
        (∀ j < l, table (at_ j) (tbl (j + 1))) → isDieMem (at_ l + 7) = true →
        let fails (code : Nat) : Prop := (∃ z, translate d y b asid va.toNat wr = .fault z code va.toNat) ∧
          ∃ u, exec (.pageWalk d b va wr false) s = .next u ∧ (u.die d).tlb = y.tlb ∧ SameMem s u
        (y.poisoned (at_ l) 8 = true → fails 23) ∧
        (y.poisoned (at_ l) 8 = false → bad → fails 20) ∧
        (y.poisoned (at_ l) 8 = false → leaf →
          let v : Word := w ||| 0x40 ||| if wr then 0x80 else 0
          ∃ u, exec (.pageWalk d b va wr false) s = .next u ∧ (∀ e, e ≠ d → u.die e = s.die e) ∧
            (u.die d).tlb b = (⟨asid, w.getLsbD 5, va.toNat / 2 ^ sh * 2 ^ sh, sh, v, at_ l, v.getLsbD 7⟩ :: y.tlb b).take 2048 ∧ (∀ c, c ≠ b → (u.die d).tlb c = y.tlb c) ∧
            ∀ a, memGet (u.die d).mem a = if at_ l ≤ a ∧ a < at_ l + 8 then (natLe 8 v.toNat).getD (a - at_ l) 0 else memGet y.mem a))) ∧
  (∀ (s : State) (d : DieId) (b : TlbId) (va : Word) (wr cached : Bool),
      ∃ u, exec (.pageWalk d b va wr cached) s = .next u ∧ (∀ e, e ≠ d → u.die e = s.die e) ∧ (∀ c, c ≠ b → (u.die d).tlb c = (s.die d).tlb c) ∧
        ((s.die d).tlbAsid b = none → u = s) ∧ (∀ asid, (s.die d).tlbAsid b = some asid → ((s.die d).tlb b).any (·.covers asid va.toNat) = true → u = s)) ∧
  (∀ (s : State) (d : DieId) (asid : Half) (vpn : BitVec 36),
      let y := s.die d
      let busy := bitAt (y.getReg d rTLBINV) 62
      let dropped (i : Instr) (named : TlbEntry → Prop) : Prop :=
        (busy = true → exec i s = .next s) ∧
        (busy = false → ∃ t, exec i s = .next t ∧ bitAt ((t.die d).getReg d rTLBINV) 62 = true ∧ (t.die d).walkc = [] ∧ SameMem s t ∧ (∀ e, e ≠ d → t.die e = s.die e) ∧
          (∀ b e, e ∈ (t.die d).tlb b ↔ e ∈ y.tlb b ∧ ¬ named e) ∧
          ∀ b u e, (b, u) ∈ y.tlbUses d → e ∈ y.tlb b → named e → u.through e = true → u ∈ (t.die d).tlbWait)
      dropped (.tlbinvAll d) (fun _ => True) ∧ dropped (.tlbinvAsid d asid) (fun e => e.asid = asid ∧ e.g = false) ∧ dropped (.tlbinvVpn d asid vpn) (fun e => e.covers asid (65536 * vpn.toNat) = true) ∧
      (busy = true → (∀ u ∈ y.tlbWait, u ∉ (y.tlbUses d).map (·.2)) → ∃ t, exec (.tlbinvDone d) s = .next t ∧ bitAt ((t.die d).getReg d rTLBINV) 62 = false ∧ SameMem s t) ∧
      (busy = false ∨ (∃ u ∈ y.tlbWait, u ∈ (y.tlbUses d).map (·.2)) → exec (.tlbinvDone d) s = .next s))

/-! ## Entries and engines (R101 to R104, R132 to R134, R185, R186, R204 to R219) -/

/-- Which entry an engine takes: the head of its own slot's queue, the matrix sequencer's in lease order, a copy engine's and the collective engine's round robin among the slots; it waits for its tokens, and for a slot that no fault and no stop holds. An entry of any of the six queues starts by taking its tokens, with its block's words checked and laid out; a header that fails, an odd header address (illegal-header, code 1), or the first word that fails (illegal-instruction, code 2) is held as a fault before anything runs; a frame block moves into a free context. It completes once its words are over and its writes have left: it leaves the queue, its channels gain one token each, and its flags join the strand's; a channel that stands at 255 is a token fault (code 10). Completion is the conclusion, under conditions on the state and the operands alone, for: ENTRY_START, ENTRY_COMPLETE. -/
def Obligations.EntriesStartAndComplete : Prop :=
  (∀ (d : DieId) (y : Die) (k : SlotId),
    let able (j : SlotId) (q : Fin 6) (n : Nat) : Prop := (∃ e rest, vget (y.slot j).q q = e :: rest ∧ ∀ i : Fin 8, e.wait.getLsbD i.val = true → vget (y.slot j).toks i ≠ 0) ∧
      (y.slot j).heldBy n = false ∧ vget (y.slot j).stop ⟨n % 7, Nat.mod_lt _ (by decide)⟩ = false ∧ (y.slot j).ctl.act ≠ .faulted ∧ (y.slot j).ctl.act ≠ .idle
    (∀ j, nextSlot d y (.eng k .lde) = some j ↔ j = k ∧ able k 0 1) ∧ (∀ j, nextSlot d y (.eng k .are) = some j ↔ j = k ∧ able k 1 2) ∧
    (∀ j, nextSlot d y (.eng k .ste) = some j ↔ j = k ∧ able k 2 3) ∧
    (∀ j, nextSlot d y (.eng k .mxe) = some j ↔ (y.slot k).mord.head? = some j ∧ able j 3 4) ∧
    (∀ c, let back (j : SlotId) : Prop := (y.slot j).cpeAt.isSome = true ∧ (y.slot j).heldBy 5 = false ∧ vget (y.slot j).stop 5 = false
      let turn (j : SlotId) : Nat := (j.val % 4 + 3 - (vget y.cpe c).rr.val) % 4
      nextSlot d y (.copy c) = some k → clusterOf k = c ∧ (able k 4 5 ∨ back k) ∧ ∀ j, clusterOf j = c → able j 4 5 ∨ back j → turn k ≤ turn j) ∧
    (nextSlot d y .coll = some k → ((y.slot k).coeAt = none → able k 5 6) ∧ ∀ i x, vget y.coe.ctx i = some x → x.slot = k → y.ctxBound x = false)) ∧
  (∀ (s : State) (d : DieId) (a : Agent) (k : SlotId) (e : Entry) (rest : List Entry), (∀ j, a ≠ .core j) → (∀ n, a ≠ .sys n) →
    let n := agentNo a
    s.run ⟨d, a, 8⟩ = none → nextSlot d (s.die d) a = some k → vget (s.slot d k).q (queueOf a) = e :: rest →
    (∀ c, a = .copy c → (s.slot d k).cpeAt = none) → (a = .coll → (s.slot d k).coeAt = none) → (s.slot d k).heldBy n = false →
      let toks : Vector Byte 8 := Vector.ofFn fun i => if e.wait.getLsbD i.val then vget (s.slot d k).toks i - 1 else vget (s.slot d k).toks i
      let u := (s.modSlot d k fun t => { t with toks := toks }).modDie d fun y => y.turn a k
      let r := Run.fresh e k (s.tick d)
      let chk := checkBlock d (u.die d) ((u.die d).whoRun ⟨d, a, 8⟩ r) (streamOf a) e.hdr e.e
      let laid (code : List (Nat × Instr)) (count : Nat) : Run := { r with code := code, count := count, pos := if count = 0 then code.length else 0, part := 0 }
      (∀ y code count rep, chk = .ok y none code count rep → firstBad ⟨d, a, 8⟩ none code rep = none → (a = .coll → frameCode code = false) →
        exec (.entryStart d a) s = runNext (u.modDie d fun _ => y) d a (laid code count)) ∧
      (∀ y code count rep x w, chk = .ok y none code count rep → firstBad ⟨d, a, 8⟩ none code rep = none → a = .coll → frameCode code = true → (s.ctl d k).own = some w →
        ((List.finRange 8).find? fun i => (vget (s.die d).coe.ctx i).isNone) = some x →
        ∃ t, exec (.entryStart d a) s = .next t ∧ (t.die d).coe.run = none ∧ (t.die d).coe.ctx = vset (s.die d).coe.ctx x (some (KCtx.opening (laid code count) w)) ∧ (t.slot d k).toks = toks) ∧
      (∀ y code pos addr, chk = .fault y code pos addr → HeldFault (exec (.entryStart d a) s) d k n code addr 0) ∧
      (∀ y bad code count rep, chk = .ok y bad code count rep → firstBad ⟨d, a, 8⟩ bad code rep ≠ none → HeldFault (exec (.entryStart d a) s) d k n 2 0 0) ∧
      (e.hdr.getLsbD 0 = true → HeldFault (exec (.entryStart d a) s) d k n 1 0 0)) ∧
  (∀ (s : State) (d : DieId) (a : Agent), s.run ⟨d, a, 8⟩ = none → nextSlot d (s.die d) a = none → exec (.entryStart d a) s = .next s) ∧
  (∀ (s : State) (d : DieId) (c : ClusterId) (k : SlotId) (r : Run), s.run ⟨d, .copy c, 8⟩ = none → nextSlot d (s.die d) (.copy c) = some k → (s.slot d k).cpeAt = some r →
    ∃ t, exec (.entryStart d (.copy c)) s = .next t ∧ t.run ⟨d, .copy c, 8⟩ = some r ∧ (t.slot d k).cpeAt = none ∧ (t.slot d k).toks = (s.slot d k).toks ∧ SameMem s t) ∧
  (∀ (s : State) (d : DieId) (a : Agent) (r : Run) (rest : List Entry), (∀ j, a ≠ .core j) → (∀ n, a ≠ .sys n) →
    let k := r.slot
    let q := queueOf a
    s.run ⟨d, a, 8⟩ = some r → vget (s.slot d k).q q = r.ent :: rest → r.part ≠ unchecked → r.code.length ≤ r.pos → (s.ag d a).sb = [] → (s.ag d a).rd = [] → (s.ag d a).asm = [] →
    (s.ag d a).refused = [] → (s.die d).runHeld ⟨d, a, 8⟩ r = false → (s.die d).runBound ⟨d, a, 8⟩ r = true →
      ((∀ i : Fin 8, r.ent.sig.getLsbD i.val = true → vget (s.slot d k).toks i ≠ 255) →
        ∃ t, exec (.entryComplete d a) s = .next t ∧ t.run ⟨d, a, 8⟩ = none ∧ vget (t.slot d k).q q = rest ∧ vget (t.slot d k).cseq q = vget (s.slot d k).cseq q + 1 ∧ SameMem s t ∧
          (∀ p, p ≠ q → vget (t.slot d k).q p = vget (s.slot d k).q p ∧ vget (t.slot d k).cseq p = vget (s.slot d k).cseq p) ∧ (∀ e, e ≠ d → t.die e = s.die e) ∧
          (∀ i : Fin 8, vget (t.slot d k).toks i = if r.ent.sig.getLsbD i.val then vget (s.slot d k).toks i + 1 else vget (s.slot d k).toks i) ∧
          (t.ctl d k).csr = { (s.ctl d k).csr with vflags := (s.ctl d k).csr.vflags ||| r.flags } ∧
          (∀ b, a = .eng b .mxe → (t.slot d b).mord = (s.slot d b).mord.drop 1)) ∧
      ((∃ i : Fin 8, r.ent.sig.getLsbD i.val = true ∧ vget (s.slot d k).toks i = 255) → (s.slot d k).heldBy (agentNo a) = false →
        HeldFault (exec (.entryComplete d a) s) d k (agentNo a) 10 0 0))

/-- Load words, started: row i is read from its address (base + i × stride, a tile image, an index, a record's plane, or a write port's row), all its lines or none; after the last row has arrived the word is over. Completion is the conclusion, under conditions on the state and the operands alone, for: LDR, LDT, LDREC, LDX, LDSC, LDV. -/
def Obligations.LoadWordsReadTheirRows : Prop :=
  ∀ (s : State) (d : DieId) (k : SlotId) (r : Run) (o : EOp), AtRun s d (.eng k .lde) r → r.slot = k → r.started = true →
    let w := (s.die d).who (.eng k .lde) k
    let at_ (b : Word) (off : Int) : Nat := (((b.toNat : Int) + off) % 2 ^ 64).toNat
    let n := eCount o 0
    let i := r.unit
    let mem : Nat := if (eMod o).oc = 0 then 512 else 512 * fwidth (eMod o).oc / fwidth o.fmt
    let reads (x : Instr) (psn : Bool) (ps : List Part) : Prop := i < n → ∀ y qs, accessParts d w ⟨[0, 1, 2], true, false⟩ ps (s.die d) = .ok y qs →
      exec x s = runNext (issueReads (s.modDie d fun _ => y) ⟨d, .eng k .lde, 8⟩ r i i psn qs) d (.eng k .lde) { r with unit := i + 1 }
    let sc (va : Nat) : List Part := if fscaled o.fmt then [⟨va, 192, 512⟩] else []
    let idx : Bool := match r.bc with | some v => v.psn | none => false
    reads (.ldr o) false [⟨at_ (r.par o.f2) (i * (r.par o.f3).toInt), if o.f1 = opRQ then 8 else mem, 0⟩] ∧
    reads (.ldt o) false (⟨at_ (r.par o.f2) (512 * (eFirst o 0 + i)), 512, 0⟩ :: sc (at_ (r.par o.f2) (0x8000 + 192 * (eFirst o 0 + i)))) ∧
    reads (.ldsc o) false [⟨at_ (r.par o.f2) (i * (r.par o.f3).toInt), 192, 0⟩] ∧
    (∀ v, r.bc = some v → reads (.ldx o) idx [⟨at_ (r.par o.f2) (sInt 32 (rowElem 32 (leNat v.data) i)), mem, 0⟩]) ∧
    (∀ c x, r.rcpy = some c → parseRec c.bytes = some x → firstRow r o + i < x.rows →
      let b := vget x.pl (if x.act then 1 else 0)
      reads (.ldrec o) false (⟨at_ b (((firstRow r o + i) * x.stride : Nat) : Int), x.rbytes, 0⟩ :: sc (at_ b ((x.scoff + 192 * (firstRow r o + i) : Nat) : Int)))) ∧
    (∀ p, (vget (s.slot d k).ports (widx o.f1)).cfg = some p →
      let a := at_ (r.par o.f2) (i * (r.par o.f3).toInt)
      reads (.ldv o) false (⟨a, 512, 0⟩ :: sc (at_ (BitVec.ofNat 64 a) p.sco))) ∧
    (n ≤ i → (s.ag d (.eng k .lde)).asm = [] →
      ∀ x : EOp → Instr, x = .ldr ∨ x = .ldt ∨ x = .ldsc ∨ x = .ldx ∨ x = .ldrec ∨ x = .ldv → exec (x o) s = runNext s d (.eng k .lde) ({ r with rw := r.rw + n }.adv o.na))

/-- Load words, not yet started: an address, a stride, an index row's address, a record's or image's address or a record's first row that breaks the alignment is an alignment fault (code 19) at unit 0 with the address that breaks it; else the destination rows become empty and take the tag, every other row as it was. `pfx` translates its rows one by one, raises and records no fault, and ends; `pcfg` installs the image it has read, and address 0 leaves the port unconfigured. A row that has arrived whole fills its tile row: its bytes (and the scales of a scaled image, those beyond the format's count zero), full, with its poison (a row of a scaled tile that is written without its scales keeps the poison it had); every other row keeps its full bit. Completion is the conclusion, under conditions on the state and the operands alone, for: LDR, LDT, LDREC, LDX, LDSC, PCFG, PFX, LDV, ROW_ARRIVAL. -/
def Obligations.LoadWordsStartAndFill : Prop :=
  (∀ (s : State) (d : DieId) (k : SlotId) (r : Run) (o : EOp), AtRun s d (.eng k .lde) r → r.slot = k →
      let x := (s.slot d k).tile o.f1
      let begins (i : Instr) (tag : Option Tag) : Prop := ∃ t, exec i s = .next t ∧ SameMem s t ∧ (∃ r', (t.slot d k).lde = some r' ∧ r'.started = true ∧ r'.unit = r.unit) ∧
        (∀ j : BitVec 5, isTile j = true → j ≠ o.f1 → (t.slot d k).tile j = (s.slot d k).tile j) ∧
        let y := (t.slot d k).tile o.f1
        y.tag = tag.getD x.tag ∧ y.data = x.data ∧ y.side = x.side ∧ y.psn = x.psn ∧
        ∀ j < 64, y.isFull j = if eFirst o 0 ≤ j ∧ j < eFirst o 0 + eCount o 0 then false else x.isFull j
      let ok16 (v : Word) : Prop := v.toNat % 16 = 0
      (r.started = false → isTile o.f1 = true →
        (ok16 (r.par o.f2) → ok16 (r.par o.f3) → begins (.ldr o) (some o.fmt) ∧ begins (.ldsc o) none) ∧
        (ok16 (r.par o.f2) → begins (.ldt o) (some o.fmt)) ∧
        (∀ s1 v, ((s.slot d k).tile o.f3).tag = tI32 → tileRow s d k o.f3 o.b3 (eFirst o 2) = .ok s1 v →
          (∀ i < eCount o 0, ((((r.par o.f2).toNat : Int) + sInt 32 (rowElem 32 (leNat v.data) i)) % 2 ^ 64).toNat % 16 = 0) → begins (.ldx o) (some o.fmt)) ∧
        (∀ c z, r.rcpy = some c → parseRec c.bytes = some z → z.gen = fld (r.par o.f3) 0 16 → ((eMod o).raw = true ∨ z.tag = o.fmt) →
          ((vget z.pl (if z.act then 1 else 0)).toNat + fld (r.par o.f3) 32 16 * z.stride) % 16 = 0 → begins (.ldrec o) (some o.fmt))) ∧
      (r.started = false → (s.slot d k).heldBy 1 = false →
        let bad (i : Instr) (a : Word) : Prop := HeldFault (exec i s) d k 1 19 a 0
        (¬ ok16 (r.par o.f2) → bad (.ldt o) (r.par o.f2) ∧ bad (.ldsc o) (r.par o.f2) ∧ bad (.ldv o) (r.par o.f2) ∧ (o.f1 ≠ opRQ → bad (.ldr o) (r.par o.f2))) ∧
        (ok16 (r.par o.f2) → ¬ ok16 (r.par o.f3) →
          let a := r.par o.f2 + r.par o.f3
          bad (.ldsc o) a ∧ bad (.ldv o) a ∧ (o.f1 ≠ opRQ → bad (.ldr o) a)) ∧
        (o.f1 = opRQ → ((r.par o.f2).toNat % 8 ≠ 0 → bad (.ldr o) (r.par o.f2)) ∧
          ((r.par o.f2).toNat % 8 = 0 → (r.par o.f3).toNat % 8 ≠ 0 → bad (.ldr o) (r.par o.f2 + r.par o.f3))) ∧
        (∀ s1 v i, ((s.slot d k).tile o.f3).tag = tI32 → tileRow s d k o.f3 o.b3 (eFirst o 2) = .ok s1 v → i < eCount o 0 →
          let at_ (j : Nat) : Nat := ((((r.par o.f2).toNat : Int) + sInt 32 (rowElem 32 (leNat v.data) j)) % 2 ^ 64).toNat
          (∀ j < i, at_ j % 16 = 0) → at_ i % 16 ≠ 0 → bad (.ldx o) (BitVec.ofNat 64 (at_ i))) ∧
        ((r.par o.f2).toNat % 64 ≠ 0 → bad (.pcfg o) (r.par o.f2) ∧ (r.rcpy = none → bad (.ldrec o) (r.par o.f2))) ∧
        (∀ c z, r.rcpy = some c → parseRec c.bytes = some z → z.gen = fld (r.par o.f3) 0 16 → ((eMod o).raw = true ∨ z.tag = o.fmt) →
          let a := ((vget z.pl (if z.act then 1 else 0)).toNat + fld (r.par o.f3) 32 16 * z.stride) % 2 ^ 64
          a % 16 ≠ 0 → bad (.ldrec o) (BitVec.ofNat 64 a))) ∧
      (∀ p, r.started = false → (vget (s.slot d k).ports (widx o.f1)).cfg = some p → isTile o.f1 = false → p.dir = true → p.tag = o.fmt → ok16 (r.par o.f2) → ok16 (r.par o.f3) →
        exec (.ldv o) s = runNext s d (.eng k .lde) { r with started := true }) ∧
      (eCount o 0 ≤ r.unit → exec (.pfx o) s = runNext s d (.eng k .lde) (r.adv o.na)) ∧
      (r.unit < eCount o 0 →
        (∃ t, exec (.pfx o) s = .next t ∧ (t.slot d k).flt = (s.slot d k).flt ∧ (t.slot d k).tiles = (s.slot d k).tiles ∧ (t.die d).getReg d rRAST = (s.die d).getReg d rRAST) ∧
        ∀ y ps, accessRow d (s.die d) ((s.die d).who (.eng k .lde) k) (((((r.par o.f2).toNat : Int) + r.unit * (r.par o.f3).toInt) % 2 ^ 64).toNat) 512 ⟨[0, 1, 2], true, false⟩ = .ok y ps →
          exec (.pfx o) s = runNext (s.modDie d fun _ => y) d (.eng k .lde) { r with unit := r.unit + 1 }) ∧
      (r.started = true → r.par o.f2 = 0 → exec (.pcfg o) s = runNext (s.modSlot d k fun t => { t with ports := vset t.ports (widx o.f1) Port.empty }) d (.eng k .lde) (r.adv o.na)) ∧
      (∀ q p, r.started = true → r.par o.f2 ≠ 0 → r.unit = 1 → (s.slot d k).agLde.asm = [q] → q.done = true → q.psn = false → parsePort (q.bytes 0 64) = some p →
        ∃ t, exec (.pcfg o) s = .next t ∧ vget (t.slot d k).ports (widx o.f1) = ⟨some p, .replicate 4 0, [], none⟩ ∧ (t.slot d k).lde = some (r.adv o.na) ∧ (t.slot d k).agLde.asm = [] ∧ SameMem s t)) ∧
  (∀ (s : State) (d : DieId) (k : SlotId) (r : Run) (o : EOp) (n : Nat) (x : Asm), StoreInv s → s.run ⟨d, .eng k .lde, 8⟩ = some r → r.slot = k → isTile o.f1 = true →
      (s.slot d k).agLde.asm = [x] → x.done = true → eFirst o 0 + x.key < 64 →
      let row := eFirst o 0 + x.key
      let fills (i : Instr) (sc : Bool) : Prop := r.code[r.pos]? = some (n, i) → ∃ t, exec (.rowArrival d k) s = .next t ∧ (t.slot d k).agLde.asm = [] ∧ SameMem s t ∧
        let y := (t.slot d k).tile o.f1
        let z := (s.slot d k).tile o.f1
        y.isFull row = true ∧ y.isPsn row = (x.psn || (!sc && fscaled z.tag && z.isPsn row)) ∧ (y.row row).data = x.bytes 0 512 ∧ (y.row row).side = (if sc then padTo 0 192 ((x.bytes 512 192).take (3 * (fcount o.fmt / 32))) else (z.row row).side) ∧ y.tag = z.tag ∧
        (∀ j < 64, j ≠ row → y.isFull j = z.isFull j ∧ y.isPsn j = z.isPsn j ∧ (y.row j).data = (z.row j).data ∧ (y.row j).side = (z.row j).side)
      ((eMod o).oc = 0 → fills (.ldr o) false ∧ fills (.ldx o) false) ∧ fills (.ldt o) (fscaled o.fmt) ∧ fills (.ldrec o) (fscaled o.fmt))

/-- Store words, started: the source row is read, and all its lines join the store buffer as one write at the row's address; after the last row the word is over; the events of the store engine do the same. A read port fetches the row at its walker for the engine that pops it: the lines of the row and of its scales are translated and pinned, read one by one in ascending order, and the row then stands with the port and the walker steps; while a fault of that engine is unanswered nothing is fetched. That a store's row address is e[F1] is the model's reading (log entry 51), and so are the fetch line by line for one engine and the pins from the translation on (log entry 40). Completion is the conclusion, under conditions on the state and the operands alone, for: STR, STT, STREC, STX, STSC, STV, STORE_ROW_READ, PORT_ROW_FETCH. -/
def Obligations.StoreWordsAndPorts : Prop :=
  (∀ (s s1 : State) (d : DieId) (k : SlotId) (r : Run) (o : EOp) (v : RowVal) (n : Nat), AtRun s d (.eng k .ste) r → r.slot = k → r.started = true → r.unit < eCount o 1 →
      (s.slot d k).heldBy 3 = false → vget (s.slot d k).acked 3 = false → (s.slot d k).agSte.refused = [] → tileRow s d k o.f2 o.b2 (eFirst o 1 + r.unit) = .ok s1 v → o.f2 ≠ opACC →
      let at_ (b : Word) (off : Int) : Nat := (((b.toNat : Int) + off) % 2 ^ 64).toNat
      let i := r.unit
      let row := eFirst o 1 + i
      let writes (x : Instr) (data : List Byte) (psn : Bool) (ps : List Part) : Prop := ∀ y qs,
        accessParts d ((s1.die d).who (.eng k .ste) k) ⟨[0, 1, 2], false, true⟩ ps (s1.die d) = .ok y qs →
        let u := (s1.modDie d fun _ => y).modAg d (.eng k .ste) fun a =>
          { a with sb := a.sb ++ [.write (qs.map fun q => Wr.mk q.2 (slice data (q.1.at_ + (q.2.va - q.1.va)) q.2.len)) psn (r.place i) r.ent.seq] }
        exec x s = runNext u d (.eng k .ste) { r with unit := i + 1, rw := r.rw + 1 } ∧
        (r.code[r.pos]? = some (n, x) → exec (.storeRowRead d k) s = runNext u d (.eng k .ste) { r with unit := i + 1, rw := r.rw + 1 })
      let sc (va : Nat) : List Part := if fscaled o.fmt then [⟨va, 192, 512⟩] else []
      writes (.str o) (v.data ++ v.side) v.psn [⟨at_ (r.par o.f1) (i * (r.par o.f3).toInt), 512, 0⟩] ∧
      writes (.stt o) (v.data ++ v.side) v.psn (⟨at_ (r.par o.f1) (512 * row), 512, 0⟩ :: sc (at_ (r.par o.f1) (0x8000 + 192 * row))) ∧
      writes (.stsc o) (v.side ++ []) v.psn [⟨at_ (r.par o.f1) (i * (r.par o.f3).toInt), 192, 0⟩] ∧
      (∀ z, r.bc = some z → writes (.stx o) (v.data ++ v.side) (v.psn || z.psn) [⟨at_ (r.par o.f1) (sInt 32 (rowElem 32 (leNat z.data) i)), 512, 0⟩]) ∧
      (∀ c x, r.rcpy = some c → parseRec c.bytes = some x → firstRow r o + i < x.rows →
        let b := vget x.pl (if x.act then 0 else 1)
        writes (.strec o) (v.data ++ v.side) v.psn (⟨at_ b (((firstRow r o + i) * x.stride : Nat) : Int), x.rbytes, 0⟩ :: sc (at_ b ((x.scoff + 192 * (firstRow r o + i) : Nat) : Int)))) ∧
      (∀ s2, portPush s1 ⟨d, .eng k .ste, 8⟩ r o.f1 v (fscaled o.fmt) i = .ok s2 () →
        exec (.stv o) s = runNext s2 d (.eng k .ste) { r with unit := i + 1, rw := r.rw + 1 } ∧
        (r.code[r.pos]? = some (n, .stv o) → exec (.storeRowRead d k) s = runNext s2 d (.eng k .ste) { r with unit := i + 1, rw := r.rw + 1 }))) ∧
  (∀ (s : State) (d : DieId) (k : SlotId) (r : Run) (o : EOp) (x : EOp → Instr), AtRun s d (.eng k .ste) r → r.started = true → eCount o 1 ≤ r.unit →
      x = .str ∨ x = .stt ∨ x = .stsc ∨ x = .stx ∨ x = .strec ∨ x = .stv → exec (x o) s = runNext s d (.eng k .ste) (r.adv o.na)) ∧
  (∀ (s : State) (d : DieId) (k : SlotId) (w : Fin 8) (c : PortCfg) (e : SlotEng),
      let p := vget (s.slot d k).ports w
      let goes (y : Die) (q : Port) (n : Nat) : Prop :=
        exec (.portRowFetch d k w e) s = .next ((s.modDie d fun _ => y).modSlot d k fun t => { t with ports := vset t.ports w q, pnid := n })
      p.cfg = some c → c.dir = false →
      ((s.slot d k).heldBy (engNum e) = true → exec (.portRowFetch d k w e) s = .next s) ∧
      ((s.slot d k).heldBy (engNum e) = false → vget (s.slot d k).stop ⟨engNum e % 7, Nat.mod_lt _ (by decide)⟩ = false → (∀ x ∈ p.rows, x.by_ = e) → (s.die d).gateOk d = true →
        (∀ y qs, p.part = none → p.rows.length < 8 → (∀ x ∈ p.rows, x.bad = none) →
          accessParts d ((s.die d).who (.eng k e) k) ⟨[1], true, false⟩
            (⟨c.addr p.ix, 512, 0⟩ :: if fscaled c.tag then [⟨(((c.addr p.ix : Int) + c.sco) % 2 ^ 64).toNat, 192, 512⟩] else []) (s.die d) = .ok y qs →
          ∃ f : Fetched, f.row = ⟨.replicate 512 0, .replicate 192 0, false⟩ ∧ f.pins = linesOfPieces (qs.map (·.2)) ∧ f.bad = none ∧ f.by_ = e ∧
            goes y { p with part := some (qs.map fun q => (q.1.at_ + (q.2.va - q.1.va), q.2), f) } ((s.slot d k).pnid + 1)) ∧
        (∀ off x rest f pa, p.part = some ((off, x) :: rest, f) → f.by_ = e → (s.ag d (engAgent (s.die d) k e)).sb = [] → x.loc = .here pa →
          f.row.data.length = 512 → f.row.side.length = 192 → off + x.len ≤ 704 →
          ∃ row : RowVal, goes (s.die d) { p with part := some (rest, { f with row := row }) } (s.slot d k).pnid ∧ row.psn = (f.row.psn || (s.die d).poisoned pa x.len) ∧
            row.data.length = 512 ∧ row.side.length = 192 ∧
            ∀ i < 704, (row.data ++ row.side).getD i 0 = if off ≤ i ∧ i < off + x.len then memGet (s.die d).mem (pa + (i - off)) else (f.row.data ++ f.row.side).getD i 0) ∧
        (∀ f, p.part = some ([], f) → f.by_ = e →
          goes (s.die d) { p with part := none, rows := p.rows ++ [f], ix := c.next p.ix } (s.slot d k).pnid)))

/-! ## Arithmetic engine (R220 to R246) -/

/-- Words of two row sources, started: destination row i takes, element by element, the stated function of the elements of the two source rows (the second the same for every i where `BC` = 1); integers wrap or, with `SAT`, clamp; floating-point results are rounded once. Its poison is that of its sources. Completion is the conclusion, under conditions on the state and the operands alone, for: ARE_ADD, ARE_SUB, ARE_MUL, ARE_MIN, ARE_MAX, ARE_CMP, ARE_AND, ARE_OR, ARE_XOR, SHL, SHR, ARE_SRA. -/
def Obligations.BinaryRows : Prop :=
  ∀ (s s1 s2 s3 : State) (d : DieId) (k : SlotId) (r : Run) (o : EOp) (v w : RowVal), AtRun s d (.eng k .are) r → r.slot = k → r.started = true → r.unit < eCount o 0 →
    srcRow s d k .are o.f2 o.b2 (eFirst o 1 + r.unit) = .ok s1 v → areSrc s1 d k r o.f3 o.b3 (eMod o).bc (eFirst o 2) = .ok s2 w →
    let m := eMod o
    let wd := fwidth o.fmt
    let x (j : Nat) : Nat := rowElem wd (leNat v.data) j
    let y (j : Nat) : Nat := rowElem wd (leNat w.data) j
    let fit (sat : Bool) (z : Int) : Nat := ((if sat then max (-(2 ^ (wd - 1))) (min z (2 ^ (wd - 1) - 1)) else z) % 2 ^ wd).toNat
    let draw (j : Nat) : W32 := if m.rnd = 4 then srBits r.ent.seed r.rw j else 0
    let put (data : List Byte) (fl : Flg) (i : Instr) : Prop := dstPut s2 ⟨d, .eng k .are, 8⟩ r o.f1 (eFirst o 0 + r.unit) ⟨data, [], v.psn || w.psn⟩ false r.unit = .ok s3 () →
      exec i s = runNext s3 d (.eng k .are) (rowDone r fl)
    let codes (f : Nat → Nat) (i : Instr) : Prop := put (rowOf o.fmt ((List.range (fcount o.fmt)).map f)) 0 i
    let vals (f : Val → Val → Val × Flg) (i : Instr) : Prop :=
      let e (j : Nat) : Nat × Flg := let z := f (decodeElem o.fmt (x j)) (decodeElem o.fmt (y j)); let q := roundVal o.fmt m.rnd m.sat (draw j) z.1; (q.1, q.2 ||| z.2)
      put (rowOf o.fmt ((List.range (fcount o.fmt)).map fun j => (e j).1)) (((List.range (fcount o.fmt)).map e).foldl (fun a e => a ||| e.2) 0) i
    (fmtINT o.fmt = true →
      codes (fun j => fit m.sat (sInt wd (x j) + sInt wd (y j))) (.areAdd o) ∧ codes (fun j => fit m.sat (sInt wd (x j) - sInt wd (y j))) (.areSub o) ∧
      codes (fun j => fit m.sat (sInt wd (x j) * sInt wd (y j))) (.areMul o) ∧
      codes (fun j => fit false (min (sInt wd (x j)) (sInt wd (y j)))) (.areMin o) ∧ codes (fun j => fit false (max (sInt wd (x j)) (sInt wd (y j)))) (.areMax o)) ∧
    (fmtINT o.fmt = false →
      vals (fpAdd m.rnd) (.areAdd o) ∧ vals (fun a b => fpAdd m.rnd a b.neg) (.areSub o) ∧ vals fpMul (.areMul o) ∧
      codes (fun j => (roundVal o.fmt 0 false 0 ((decodeElem o.fmt (x j)).min (decodeElem o.fmt (y j)))).1) (.areMin o) ∧
      codes (fun j => (roundVal o.fmt 0 false 0 ((decodeElem o.fmt (x j)).max (decodeElem o.fmt (y j)))).1) (.areMax o)) ∧
    put (List.zipWith (· &&& ·) v.data w.data) 0 (.areAnd o) ∧ put (List.zipWith (· ||| ·) v.data w.data) 0 (.areOr o) ∧ put (List.zipWith (· ^^^ ·) v.data w.data) 0 (.areXor o) ∧
    put (natLe 512 (packElems 1 ((List.range (fcount o.fmt)).map fun j =>
      if j < fcount o.fmt ∧ cmpCond m.min3.toNat (decodeElem o.fmt (x j)) (decodeElem o.fmt (y j)) = true then 1 else 0))) 0 (.areCmp o) ∧
    (m.min3 ≠ 1 →
      codes (fun j => x j * 2 ^ (y j % wd) % 2 ^ wd) (.shl o) ∧ codes (fun j => x j / 2 ^ (y j % wd)) (.shr o) ∧
      codes (fun j => ((sInt wd (x j) / 2 ^ (y j % wd)) % 2 ^ wd).toNat) (.areSra o))

/-- Words of three row sources: `fma` adds the `OC` row to the product before the one rounding; `sel` takes the element of the first source where the mask bit is 1, else of the second. Reductions: source row i comes to one value, kept for the destination row (`red`), which takes all of them at the end, or pushed to the engine's result queue (`redq`), which waits while the queue holds 16 or the entry's writes have not left. Completion is the conclusion, under conditions on the state and the operands alone, for: FMA, SEL, RED_SUM, RED_MAX, RED_MIN, RED_SSQ, RED_AMAX, REDQ_SUM, REDQ_MAX, REDQ_MIN, REDQ_SSQ, REDQ_AMAX. -/
def Obligations.TernaryRowsAndReductions : Prop :=
  (∀ (s s1 s2 s3 s4 : State) (d : DieId) (k : SlotId) (r : Run) (o : EOp) (v w c : RowVal), AtRun s d (.eng k .are) r → r.slot = k → r.started = true → r.unit < eCount o 0 →
      srcRow s d k .are o.f2 o.b2 (eFirst o 1 + r.unit) = .ok s1 v → areSrc s1 d k r o.f3 o.b3 (eMod o).bc (eFirst o 2) = .ok s2 w →
      tileRow s2 d k (eMod o).oc false (eFirst o 3 + r.unit) = .ok s3 c →
      let m := eMod o
      let el (a : RowVal) (j : Nat) : Nat := rowElem (fwidth o.fmt) (leNat a.data) j
      let put (data : List Byte) (fl : Flg) (i : Instr) : Prop := dstPut s3 ⟨d, .eng k .are, 8⟩ r o.f1 (eFirst o 0 + r.unit) ⟨data, [], v.psn || w.psn || c.psn⟩ false r.unit = .ok s4 () →
        exec i s = runNext s4 d (.eng k .are) (rowDone r fl)
      let draw (j : Nat) : W32 := if m.rnd = 4 then srBits r.ent.seed r.rw j else 0
      let e (j : Nat) : Nat × Flg :=
        let z := fpFma m.rnd (decodeElem o.fmt (el v j)) (decodeElem o.fmt (el w j)) (decodeElem o.fmt (el c j))
        let q := roundVal o.fmt m.rnd m.sat (draw j) z.1
        (q.1, q.2 ||| z.2)
      put (rowOf o.fmt ((List.range (fcount o.fmt)).map fun j => (e j).1)) (((List.range (fcount o.fmt)).map e).foldl (fun a e => a ||| e.2) 0) (.fma o) ∧
      put (rowOf o.fmt ((List.range (fcount o.fmt)).map fun j => if rowElem 1 (leNat c.data) j = 1 then el v j else el w j)) 0 (.sel o)) ∧
  (∀ (s s1 : State) (d : DieId) (k : SlotId) (r : Run) (o : EOp) (v : RowVal), AtRun s d (.eng k .are) r → r.slot = k → r.started = true → r.unit < eCount o 1 →
      srcRow s d k .are o.f2 o.b2 (eFirst o 1 + r.unit) = .ok s1 v →
      let draw (i : Nat) : W32 := if (eMod o).rnd = 4 then srBits r.ent.seed r.rw i else 0
      let red (op : Nat) (i : Instr) : Prop :=
        let q := reduceVal op o (draw r.unit) v
        exec i s = runNext s1 d (.eng k .are) { r with unit := r.unit + 1, red := r.red ++ [(q.1, v.psn)], flags := r.flags ||| q.2 }
      let redq (op : Nat) (i : Instr) : Prop :=
        let q := reduceVal op o (draw 0) v
        ((vget (s1.slot d k).rq 1).length < 16 → (s1.ag d (.eng k .are)).sb = [] →
          exec i s = runNext (s1.modSlot d k fun t => { t with rq := vset t.rq 1 (vget t.rq 1 ++ [(if fmtINT o.fmt then q.1.signExtend 64 else q.1.setWidth 64, v.psn)]) }) d (.eng k .are) (rowDone r q.2)) ∧
        (16 ≤ (vget (s1.slot d k).rq 1).length ∨ (s1.ag d (.eng k .are)).sb ≠ [] → exec i s = .next s)
      red 0 (.redSum o) ∧ red 1 (.redMax o) ∧ red 2 (.redMin o) ∧ red 3 (.redSsq o) ∧ red 4 (.redAmax o) ∧
      redq 0 (.redqSum o) ∧ redq 1 (.redqMax o) ∧ redq 2 (.redqMin o) ∧ redq 3 (.redqSsq o) ∧ redq 4 (.redqAmax o) ∧
      (fmtINT o.fmt = true →
        let xs := (List.range (fcount o.fmt)).map fun j => sInt (fwidth o.fmt) (rowElem (fwidth o.fmt) (leNat v.data) j)
        (reduceVal 0 o (draw 0) v).1 = BitVec.ofInt 32 (if (eMod o).sat then max (-2147483648) (min xs.sum 2147483647) else xs.sum))) ∧
  (∀ (s : State) (d : DieId) (k : SlotId) (r : Run) (o : EOp) (x : EOp → Instr), StoreInv s → AtRun s d (.eng k .are) r → r.slot = k → r.started = true → eCount o 1 ≤ r.unit → isTile o.f1 = true → eFirst o 0 < 64 →
      x = .redSum ∨ x = .redMax ∨ x = .redMin ∨ x = .redSsq ∨ x = .redAmax →
      ∃ t, exec (x o) s = .next t ∧ SameMem s t ∧ (t.slot d k).are = some ({ r with rw := r.rw + 1 }.adv o.na) ∧
        let y := (t.slot d k).tile o.f1
        y.isFull (eFirst o 0) = true ∧ (let z := (s.slot d k).tile o.f1; y.isPsn (eFirst o 0) = (r.red.any (·.2) || (fscaled z.tag && z.isPsn (eFirst o 0)))) ∧ (y.row (eFirst o 0)).data = rowOf tI32 (r.red.map fun q => q.1.toNat) ∧
        ∀ j < 64, j ≠ eFirst o 0 → y.isFull j = ((s.slot d k).tile o.f1).isFull j ∧ (y.row j).data = (((s.slot d k).tile o.f1).row j).data)

/-- Words of one row source or none: sign changes, elementary functions, bitwise complement, shifts by a parameter, moves, broadcasts, permutations within a row, and the ramp. Completion is the conclusion, under conditions on the state and the operands alone, for: ABS, NEG, EXP2, LOG2, RCP, RSQ, TANH, BCAST_ROW, BCAST_ELEM, BCAST_SCAL, IOTA, SHUF_PERM, SHUF_ROT, SHUF_REV, NOT, SHL, SHR, ARE_SRA, MOV. -/
def Obligations.UnaryRows : Prop :=
  ∀ (s s1 s3 : State) (d : DieId) (k : SlotId) (r : Run) (o : EOp) (v : RowVal), AtRun s d (.eng k .are) r → r.slot = k → r.started = true → r.unit < eCount o 0 →
    let m := eMod o
    let wd := fwidth o.fmt
    let n := fcount o.fmt
    let x (j : Nat) : Nat := rowElem wd (leNat v.data) j
    let draw (j : Nat) : W32 := if m.rnd = 4 then srBits r.ent.seed r.rw j else 0
    let fit (z : Int) : Nat := ((if m.sat then max (-(2 ^ (wd - 1))) (min z (2 ^ (wd - 1) - 1)) else z) % 2 ^ wd).toNat
    let put (t : State) (data side : List Byte) (psn sc : Bool) (fl : Flg) (i : Instr) : Prop := dstPut t ⟨d, .eng k .are, 8⟩ r o.f1 (eFirst o 0 + r.unit) ⟨data, side, psn⟩ sc r.unit = .ok s3 () →
      exec i s = runNext s3 d (.eng k .are) (rowDone r fl)
    let codes (f : Nat → Nat) (i : Instr) : Prop := put s1 (rowOf o.fmt ((List.range n).map f)) [] v.psn false 0 i
    let fn (q : Nat) (i : Instr) : Prop :=
      let e (j : Nat) : Nat × Flg := elemFn q o.fmt m.rnd m.sat (draw j) (decodeElem o.fmt (x j))
      put s1 (rowOf o.fmt ((List.range n).map fun j => (e j).1)) [] v.psn false (((List.range n).map e).foldl (fun a e => a ||| e.2) 0) i
    (srcRow s d k .are o.f2 o.b2 (eFirst o 1 + r.unit) = .ok s1 v →
      (fmtINT o.fmt = true → codes (fun j => fit (sInt wd (x j)).natAbs) (.abs o) ∧ codes (fun j => fit (-(sInt wd (x j)))) (.neg o)) ∧
      (fmtINT o.fmt = false → codes (fun j => (roundVal o.fmt 0 false 0 (decodeElem o.fmt (x j)).abs).1) (.abs o) ∧
        codes (fun j => (roundVal o.fmt 0 false 0 (decodeElem o.fmt (x j)).neg).1) (.neg o)) ∧
      fn 0 (.exp2 o) ∧ fn 1 (.log2 o) ∧ fn 2 (.rcp o) ∧ fn 3 (.rsq o) ∧ fn 4 (.tanh o) ∧
      put s1 (v.data.map fun b => ~~~ b) [] v.psn false 0 (.not o) ∧ put s1 v.data (padTo 0 192 (v.side.take (3 * (n / 32)))) v.psn (fscaled o.fmt) 0 (.mov o) ∧
      codes (fun _ => x ((r.par o.f3).toNat % n)) (.bcastElem o) ∧
      codes (fun j => x ((j + (r.par o.f3).toNat % n) % n)) (.shufRot o) ∧ codes (fun j => x (n - 1 - j)) (.shufRev o) ∧
      (∀ ix, r.bc = some ix → put s1 (rowOf o.fmt ((List.range n).map fun j => x (rowElem 16 (leNat ix.data) j % n))) [] (v.psn || ix.psn) false 0 (.shufPerm o)) ∧
      (m.min3 = 1 →
        let q := (r.par o.f3).toNat % wd
        codes (fun j => x j * 2 ^ q % 2 ^ wd) (.shl o) ∧ codes (fun j => x j / 2 ^ q) (.shr o) ∧ codes (fun j => ((sInt wd (x j) / 2 ^ q) % 2 ^ wd).toNat) (.areSra o))) ∧
    (areSrc s d k r o.f2 o.b2 true (eFirst o 1) = .ok s1 v → put s1 v.data [] v.psn false 0 (.bcastRow o)) ∧
    put s (rowOf o.fmt ((List.range n).map fun _ => (r.par o.f3).toNat % 2 ^ wd)) [] false false 0 (.bcastScal o) ∧
    (fmtINT o.fmt = true → put s (rowOf o.fmt ((List.range n).map fun j => fit (r.par o.f2 + BitVec.ofNat 64 (r.unit * n + j) * r.par o.f3).toInt)) [] false false 0 (.iota o)) ∧
    (fmtINT o.fmt = false →
      let e (j : Nat) : Nat × Flg := let q := roundVal o.fmt m.rnd m.sat (draw j) (.ofInt (r.par o.f2 + BitVec.ofNat 64 (r.unit * n + j) * r.par o.f3).toInt); (q.1, q.2 ||| 0)
      put s (rowOf o.fmt ((List.range n).map fun j => (e j).1)) [] false false (((List.range n).map e).foldl (fun a e => a ||| e.2) 0) (.iota o))

/-- Conversions over the flattened sequence of elements, and the transpose of a block of 32 rows. Completion is the conclusion, under conditions on the state and the operands alone, for: TRN, CVT, QNT, DQT. -/
def Obligations.ConversionsAndTranspose : Prop :=
  ∀ (s s1 s3 : State) (d : DieId) (k : SlotId) (r : Run) (o : EOp), AtRun s d (.eng k .are) r → r.slot = k → r.started = true → r.unit < eCount o 0 →
    (∀ vs : List RowVal, isTile o.f2 = true →
      let first := r.unit * fcount o.fmt / fcount r.src
      let cnt := if fcount o.fmt ≤ fcount r.src then 1 else fcount o.fmt / fcount r.src
      tileRows s d k o.f2 o.b2 (eFirst o 1 + first) cnt = .ok s1 vs →
      let m := eMod o
      let data := vs.flatMap (·.data)
      let side := vs.flatMap (·.side)
      let at_ (j : Nat) : Nat := r.unit * fcount o.fmt % fcount r.src + j
      let x (j : Nat) : Nat := rowElem (fwidth r.src) (leNat data) (at_ j)
      let draw (j : Nat) : W32 := if m.rnd = 4 then srBits r.ent.seed r.rw j else 0
      let put (data side : List Byte) (sc : Bool) (fl : Flg) (i : Instr) : Prop :=
        dstPut s1 ⟨d, .eng k .are, 8⟩ r o.f1 (eFirst o 0 + r.unit) ⟨data, side, vs.any (·.psn)⟩ sc r.unit = .ok s3 () → exec i s = runNext s3 d (.eng k .are) { rowDone r fl with buf := [] }
      let row (e : Nat → Nat × Flg) (i : Instr) : Prop :=
        put (rowOf o.fmt ((List.range (fcount o.fmt)).map fun j => (e j).1)) [] false (((List.range (fcount o.fmt)).map e).foldl (fun a e => a ||| e.2) 0) i
      row (fun j => convert r.src o.fmt m.rnd m.sat (draw j) (x j)) (.cvt o) ∧
      row (fun j => let q := roundVal o.fmt m.rnd m.sat (draw j) (flatVal r.src ⟨data, side, false⟩ (at_ j)); (q.1, q.2 ||| 0)) (.dqt o) ∧
      (let bs := (List.range (fcount o.fmt / 32)).map fun b => quantBlock o.fmt ((List.range 32).map fun j => decodeElem r.src (x (32 * b + j)))
       put (rowOf o.fmt (bs.flatMap fun b => b.2.1)) (natLe 192 (packElems 24 (bs.map fun b => b.1))) true (bs.foldl (fun f b => f ||| b.2.2) 0) (.qnt o))) ∧
    (∀ vs : List RowVal, StoreInv s → tileRows s d k o.f2 o.b2 (eFirst o 1 + r.unit) 32 = .ok s1 vs → eFirst o 0 + r.unit + 32 ≤ 64 →
      ∃ t, exec (.trn o) s = .next t ∧ (t.slot d k).are = some { r with unit := r.unit + 32, rw := r.rw + 32 } ∧
        ∀ i < 32, let y := (t.slot d k).tile o.f1
          y.isFull (eFirst o 0 + r.unit + i) = true ∧
          (y.row (eFirst o 0 + r.unit + i)).data =
            rowOf o.fmt ((List.range (fcount o.fmt)).map fun j => rowElem (fwidth o.fmt) (leNat (listGet noRow vs (j % 32)).data) (j / 32 * 32 + i)))

/-- Operands of the engines' words: a full tile row is read; an empty one waits, or with B = 1 raises a full/empty fault (code 4) at its row; a source of another tag is a format-tag fault (code 5) at unit 0 unless `RAW` = 1; after the last row the word is over; the events of the arithmetic engine run the same row as its word. The events of the matrix engine run the same unit as its word: a pass, or the next chain row of a chained drain, which waits while its link has no credit. Completion is the conclusion, under conditions on the state and the operands alone, for: ARE_ADD, EXP2, MOV, MMUL, MDRAIN, ARE_ROW_STEP, MATRIX_PASS, CHAIN_ROW_SEND. -/
def Obligations.OperandsAndUnitEvents : Prop :=
  ((∀ (s : State) (d : DieId) (k : SlotId) (c : BitVec 5) (b : Bool) (row : Nat), isTile c = true →
      let t := (s.slot d k).tile c
      ∀ e, (t.isFull row = true → t.isPsn row = false → srcRow s d k e c b row = .ok s (t.row row)) ∧
      (t.isFull row = false → srcRow s d k e c false row = .wait ∧ srcRow s d k e c true row = .fault s 4 0)) ∧
    (∀ (s : State) (d : DieId) (k : SlotId) (r : Run) (o : EOp), AtRun s d (.eng k .are) r → r.slot = k → r.started = true → r.unit < eCount o 0 →
      isTile o.f2 = true → ((s.slot d k).tile o.f2).isFull (eFirst o 1 + r.unit) = false → (s.slot d k).heldBy 2 = false → s.openRec d k 2 = none →
      (o.b2 = false → exec (.areAdd o) s = .next s ∧ exec (.mov o) s = .next s) ∧
      (o.b2 = true → HeldFault (exec (.areAdd o) s) d k 2 4 0 r.unit ∧ HeldFault (exec (.mov o) s) d k 2 4 0 r.unit)) ∧
    (∀ (s : State) (d : DieId) (k : SlotId) (r : Run) (n : Nat) (i : Instr) (p : Plan), AtRun s d (.eng k .are) r → r.code[r.pos]? = some (n, i) → arePlan i = some p → r.started = true →
      (r.unit < p.n → r.slot = k → (s.slot d k).heldBy 2 = false → vget (s.slot d k).acked 2 = false → (s.slot d k).agAre.refused = [] →
        exec (.areRowStep d k .ok) s = .next (p.step s ⟨d, .eng k .are, 8⟩ r) ∧ exec i s = .next (p.step s ⟨d, .eng k .are, 8⟩ r)) ∧
      (p.n ≤ r.unit → p.scheme ≠ .reduce false → exec i s = runNext s d (.eng k .are) (r.adv p.o.na))) ∧
    (∀ (s : State) (d : DieId) (k : SlotId) (r : Run) (o : EOp), AtRun s d (.eng k .are) r → r.slot = k → r.started = false → (eMod o).raw = false → isTile o.f2 = true →
      ((s.slot d k).tile o.f2).tag ≠ o.fmt → (s.slot d k).heldBy 2 = false → s.openRec d k 2 = none →
      HeldFault (exec (.areAdd o) s) d k 2 5 0 0 ∧ HeldFault (exec (.mov o) s) d k 2 5 0 0 ∧ HeldFault (exec (.exp2 o) s) d k 2 5 0 0)) ∧
  (∀ (s : State) (d : DieId) (k j : SlotId) (r : Run) (n : Nat) (o : EOp), AtRun s d (.eng k .mxe) r → r.started = true → (s.slot d r.slot).heldBy 4 = false → vget (s.slot d r.slot).acked 4 = false → (s.slot d k).agMxe.refused = [] →
      (r.code[r.pos]? = some (n, .mmul o) → exec (.matrixPass d k j .ok) s = exec (.mmul o) s ∧ ∃ t, exec (.matrixPass d k j .ok) s = .next t ∧
        ∀ s1 v, r.unit < eCount o 0 → isTile o.f2 = true → tileRow s d r.slot o.f2 o.b2 (eFirst o 1 + r.unit) = .ok s1 v → (t.slot d k).mxe = some { r with unit := r.unit + 1 }) ∧
      (r.code[r.pos]? = some (n, .mldb o) → exec (.matrixPass d k j .ok) s = exec (.mldb o) s) ∧ (r.code[r.pos]? = some (n, .mdrain o) → exec (.matrixPass d k j .ok) s = exec (.mdrain o) s) ∧
      (∀ g, r.code[r.pos]? = some (n, .mdrain o) → o.f1 = opCH → (s.frag ⟨d, .eng k .mxe, 8⟩).y.dst = some g →
        let f := s.frag ⟨d, .eng k .mxe, 8⟩
        let w := r.par o.f3
        let nx := if fld w 32 5 = 0 then f.cols else 32 * fld w 32 5
        let p := (nx * fwidth o.fmt + 4095) / 4096
        (64 ≤ ((s.die d).layOf g).buf.length → r.unit < eCount o 0 / p → exec (.chainRowSend d k) s = .next s) ∧
        (((s.die d).layOf g).buf.length < 64 → r.unit < eCount o 0 / p → r.part = 0 → (s.die d).accPsn k (fld w 0 9 + r.unit) = false →
          ∃ t, exec (.chainRowSend d k) s = .next t ∧ SameMem s t ∧ ((t.die d).layOf g).buf = ((s.die d).layOf g).buf ++
            [⟨o.fmt, ((drainRows o r.ent.seed r.rw nx ((s.die d).accRow k (fld w 0 9 + r.unit) nx)).getD 0 ([], [], 0)).1, false⟩])))

/-! ## Matrix engine (R50, R51, R249 to R263) -/

/-- `mzero` sets every column of its rows to the identity of the semiring in force and clears their poison; every other row keeps its values. A window that breaks a limit is a matrix-operand fault (code 14) and changes no row. Completion is the conclusion, under conditions on the state and the operands alone, for: MZERO. -/
def Obligations.ZeroedAccumulators : Prop :=
  ∀ (s : State) (d : DieId) (k : SlotId) (r : Run) (o : EOp), AtRun s d (.eng k .mxe) r →
    let f := s.frag ⟨d, .eng k .mxe, 8⟩
    let e := r.par o.f3
    let arow := fld e 0 9
    let acnt := fld e 48 10
    (StoreInv s → winOk f maskMzero e acnt = true → acnt ≠ 0 →
      ∃ t, exec (.mzero o) s = .next t ∧ (t.slot d k).mxe = some (r.adv o.na) ∧ SameMem s t ∧
        (∀ row < 512, ∀ c < f.cols, (t.die d).accGet k row c = if arow ≤ row ∧ row < arow + acnt then f.y.semi.ident else (s.die d).accGet k row c) ∧
        ∀ i < acnt, (t.die d).accPsn k (arow + i) = false) ∧
    (winOk f maskMzero e acnt = false ∨ acnt = 0 → (s.slot d r.slot).heldBy 4 = false → s.openRec d r.slot 4 = none →
      HeldFault (exec (.mzero o) s) d r.slot 4 14 0 0 ∧ ∃ t, exec (.mzero o) s = .next t ∧ ∀ row c, (t.die d).accGet k row c = (s.die d).accGet k row c)

/-- Matrix words, started: a weight column or the tables take the source's bytes; a pass adds each column's sum of products into its accumulator row by the semiring; a drain writes the converted row, to a tile, to the result queue, or as a chain row of the destination fragment. `msemi` changes the semiring and no accumulator. Completion is the conclusion, under conditions on the state and the operands alone, for: MLDB, MCB, MSEMI, MMUL, MMULM, MDRAIN. -/
def Obligations.MatrixWords : Prop :=
  ∀ (s s1 : State) (d : DieId) (k : SlotId) (r : Run) (o : EOp) (v : RowVal), AtRun s d (.eng k .mxe) r →
    let a : Agent := .eng k .mxe
    let f := s.frag ⟨d, a, 8⟩
    let w := r.par o.f3
    let arow := fld w 0 9
    let nx := if fld w 32 5 = 0 then f.cols else 32 * fld w 32 5
    exec (.msemi o) s = runNext (s.modDie d fun y => y.modLay k fun z => { z with semi := match (eMod o).min3.toNat with | 0 => .plusTimes | 1 => .minPlus | 2 => .maxPlus | 3 => .maxTimes | _ => .orAnd }) d a (r.adv o.na) ∧
    (r.started = false → srcCheck (s.die d) r.slot o.f2 o.fmt (eMod o).raw = none → fld (r.par o.f1) 11 53 = 0 → fld (r.par o.f1) 0 11 + eCount o 0 ≤ f.cols →
      exec (.mldb o) s = runNext (s.modDie d fun y => y.modLay k fun z => { z with wfmt := o.fmt }) d a { r with started := true }) ∧
    (r.started = true → r.unit < eCount o 0 → srcRow s d r.slot .mxe o.f2 o.b2 (eFirst o 1 + r.unit) = .ok s1 v →
      exec (.mldb o) s = runNext (s1.modDie d (putColumn f o.fmt (fld (r.par o.f1) 0 11 + r.unit) v)) d a { r with unit := r.unit + 1 }) ∧
    (∀ s2 u, tileRow s d r.slot o.f2 o.b2 (eFirst o 1) = .ok s1 v → tileRow s1 d r.slot o.f2 o.b2 (eFirst o 1 + 1) = .ok s2 u →
      ∃ t, exec (.mcb o) s = .next t ∧ (t.slot d k).mxe = some (r.adv o.na) ∧ ∀ j ∈ f.slots, ∀ i : Fin 2,
        vget (t.slot d j).bank.cb i = spWrite 0 [] 0 (v.data ++ u.data.take 256) ∧ vget (t.slot d j).bank.cbPsn i = (v.psn || u.psn)) ∧
    (r.started = false → mmulCheck s ⟨d, a, 8⟩ r o = none → exec (.mmul o) s = runNext s d a { r with started := true } ∧ exec (.mmulm o) s = runNext s d a { r with started := true }) ∧
    (StoreInv s → r.started = true → r.unit < eCount o 0 → isTile o.f2 = true → tileRow s d r.slot o.f2 o.b2 (eFirst o 1 + r.unit) = .ok s1 v →
      let kx := 8 * (if fld w 16 7 = 0 then f.kd else 4 * fld w 16 7) / fwidth o.fmt
      let passes (i : Instr) : Prop := ∃ t, exec i s = .next t ∧ (t.slot d k).mxe = some { r with unit := r.unit + 1 } ∧ SameMem s t ∧
        (t.die d).accRow k (arow + r.unit) nx = (List.range nx).map fun c =>
          accAdd f.y.semi (fcode o.fmt == 7) (listGet 0 ((s.die d).accRow k (arow + r.unit) nx) c) (columnPart (s1.die d) f o.fmt v (1024 * fld w 24 2 / fwidth o.fmt) kx c)
      passes (.mmul o) ∧ (bitAt (r.par (eMod o).oc) r.unit = true → passes (.mmulm o))) ∧
    (r.started = true → r.unit < eCount o 0 → isTile o.f2 = true → bitAt (r.par (eMod o).oc) r.unit = false → exec (.mmulm o) s = runNext s d a { r with unit := r.unit + 1 }) ∧
    (r.started = true → eCount o 0 ≤ r.unit → exec (.mldb o) s = runNext s d a (r.adv o.na) ∧ exec (.mmul o) s = runNext s d a (r.adv o.na) ∧ exec (.mmulm o) s = runNext s d a (r.adv o.na) ∧ exec (.mdrain o) s = runNext s d a (r.adv o.na)) ∧
    (r.started = true → r.part = 0 → (s.die d).accPsn k (arow + r.unit) = false → bitAt w 40 = false →
      let ws := (s.die d).accRow k (arow + r.unit) nx
      let outs := drainRows o r.ent.seed r.rw nx ws
      let p := (nx * fwidth o.fmt + 4095) / 4096
      (StoreInv s → isTile o.f1 = true → r.unit < eCount o 0 / p → eFirst o 0 + r.unit * p + p ≤ 64 →
        ∃ t, exec (.mdrain o) s = .next t ∧ SameMem s t ∧ (t.slot d k).bank.acc = (s.slot d k).bank.acc ∧ ∀ i < p, let y := (t.slot d r.slot).tile o.f1
          y.isFull (eFirst o 0 + r.unit * p + i) = true ∧ (y.row (eFirst o 0 + r.unit * p + i)).data = (outs.getD i ([], [], 0)).1) ∧
      (o.f1 = opRQ → r.unit < eCount o 0 → (vget (s.slot d r.slot).rq 2).length < 16 → (s.slot d k).agMxe.sb = [] →
        ∃ t, exec (.mdrain o) s = .next t ∧ SameMem s t ∧ vget (t.slot d r.slot).rq 2 = vget (s.slot d r.slot).rq 2 ++ [((drainWord o r.ent.seed r.rw ws).1, false)]) ∧
      (∀ g, o.f1 = opCH → f.y.dst = some g → r.unit < eCount o 0 / p → ((s.die d).layOf g).buf.length < 64 →
        ∃ t, exec (.mdrain o) s = .next t ∧ SameMem s t ∧ ((t.die d).layOf g).buf = ((s.die d).layOf g).buf ++ [⟨o.fmt, (outs.getD 0 ([], [], 0)).1, false⟩]))

/-! ## Copy engine (R267 to R274, R281 to R284, R414) -/

/-- Copies: what each word reads and writes, chunk by chunk of at most 4 KiB within one row and one 4 KiB range of the destination, read whole before it is written; then the semaphore request, as a release. Completion is the conclusion, under conditions on the state and the operands alone, for: COPY, COPY2D, FILL, RWRITE, COPY_CHUNK. -/
def Obligations.CopyWords : Prop :=
  ∀ (s : State) (d : DieId) (q : ClusterId) (r : Run) (o : COp) (i : Instr) (n : Nat), AtRun s d (.copy q) r → (s.slot d r.slot).heldBy 5 = false → vget (s.slot d r.slot).acked 5 = false → (s.ag d (.copy q)).refused = [] →
    i = .copy o ∨ i = .copy2d o ∨ i = .fill o ∨ i = .rwrite o →
    let a : Agent := .copy q
    let c : Cur := ⟨d, a, 8⟩
    let w := (s.die d).who a r.slot
    let dst := r.par o.f1
    let src := r.par o.f2
    let req := r.par o.f3
    let g := r.parN (o.f3.toNat + 1)
    let two : Bool := i == .copy2d o
    let rows := if two then fld req 24 24 else 1
    let rb := if two then fld req 0 24 else fld req 0 40
    let ds : Int := if two then sInt 32 (fld g 0 32) else 0
    let ss : Int := if two then sInt 32 (fld g 32 32) else 0
    let at_ (b : Word) (off : Int) : Nat := (((b.toNat : Int) + off) % 2 ^ 64).toNat
    let da := at_ dst ((r.mSent : Int) * ds + r.mAck)
    let sa := at_ src ((r.mSent : Int) * ss + r.mAck)
    let len := min (rb - r.mAck) (4096 - da % 4096)
    let smt : List Nat := if i = .rwrite o then [0, 1] else [0, 1, 2]
    let dmt : List Nat := if i = .rwrite o then [2, 3] else [0, 1, 2]
    let next : Run := if r.mAck + len = rb then { r with unit := r.unit + 1, mSent := r.mSent + 1, mAck := 0 } else { r with unit := r.unit + 1, mAck := r.mAck + len }
    let both (t : Out) : Prop := exec i s = t ∧ (r.started = true → (s.ag d a).rd = [] → r.code[r.pos]? = some (n, i) → exec (.copyChunk d q .ok) s = t)
    (r.started = false → dst.toNat % 16 = 0 → rb % 16 = 0 → ds % 16 = 0 → ss % 16 = 0 → (i ≠ .fill o → src.toNat % 16 = 0) → fld req 56 7 = 0 → (two = true ∨ fld req 40 8 = 0) →
      exec i s = runNext s d a { r with started := true, mSent := 0, mAck := 0 }) ∧
    (r.started = true → r.mSent < rows → rb ≠ 0 → i ≠ .fill o → (s.ag d a).asm = [] →
      ∀ y qs, accessParts d w ⟨smt, true, false⟩ [⟨sa, len, 0⟩] (s.die d) = .ok y qs → both (.next (issueReads (s.modDie d fun _ => y) c r (16 * r.unit + 8) r.unit false qs))) ∧
    (r.started = true → r.mSent < rows → rb ≠ 0 → i ≠ .fill o → ∀ x, (s.ag d a).asm = [x] → x.key = 16 * r.unit + 8 → x.done = true → x.psn = false →
      ∀ y ps, accessRow d (s.die d) w da len ⟨dmt, false, true⟩ = .ok y ps →
        both (runNext ((pushChunk (s.modDie d fun _ => y) c r da r.unit ps (x.bytes 0 len) x.badIn).modAg d a fun z => z.dropAsm x.key) d a next)) ∧
    (r.started = true → i = .fill o → r.mSent < 1 → rb ≠ 0 → (s.ag d a).asm = [] →
      ∀ y ps, accessRow d (s.die d) w da len ⟨[0, 1, 2], false, true⟩ = .ok y ps →
        both (runNext ((pushChunk (s.modDie d fun _ => y) c r da r.unit ps ((List.range len).map fun j => BitVec.ofNat 8 (src.toNat / 2 ^ (8 * ((r.mAck + j) % 8)))) fun _ _ => false).modAg d a fun z => z.dropAsm (16 * r.unit + 8)) d a next)) ∧
    (r.started = true → rows ≤ r.mSent ∨ rb = 0 → s.settled d a = true →
      (bitAt req 63 = false → both (runNext s d a (r.adv o.na))) ∧
      (bitAt req 63 = true → i ≠ .rwrite o → r.part ≠ 2 →
        both (runNext (s.modAg d a fun z => { z with sb := z.sb ++ [.seminc d (mkSlot (fld req 53 3)) ⟨fld req 48 5 % 32, Nat.mod_lt _ (by decide)⟩] }) d a { r with part := 2 })) ∧
      (r.part = 2 → both (runNext s d a (r.adv o.na))))

/-- Multicast: the entry takes a number, and the lines go out with it, with group, offset and semaphore request, once read whole, chunk by chunk of at most 4 KiB within one 4 KiB range of the members' windows; the aggregated answers are merged, and the sender's own member is never counted among them (log entry 65); the value of accepting and refusing members is pushed at the end. A member applies a line that its own export admits, the last one with its increment, and answers; it refuses one whose group has no entry for lines, or whose address lies outside the physical map (log entry 122); the sender's own die takes no line. Requests and responses leave in queues of their own, oldest first (log entry 71), and only through an enabled port, any of them serving what goes to the switch (log entry 124, a DESIGN CHOICE). Completion is the conclusion, under conditions on the state and the operands alone, for: MCAST, SWITCH_REPLICATE, MCAST_LINE_ARRIVAL, AGGREGATED_ACK, MCAST_MEMBER_TIMEOUT. -/
def Obligations.MulticastLines : Prop :=
  (∀ (s : State) (d : DieId) (q : ClusterId) (r : Run) (o : COp), AtRun s d (.copy q) r →
    let a : Agent := .copy q
    let req := r.par o.f3
    let len := fld req 0 40
    let grp : BitVec 12 := BitVec.ofNat 12 (fld (r.par o.f1) 48 12)
    let off := fld (r.par o.f1) 0 48
    (r.started = false → mcastCheck s ⟨d, a, 8⟩ r o = none → exec (.mcast o) s = runNext (s.modAg d a fun z => { z with nkey := z.nkey + 1 }) d a { r with started := true, rw := (s.ag d a).nkey, mSent := 0, mAck := 0, mNak := [], mAll := 0, mGrp := (s.die d).members d grp.toNat }) ∧
    (∀ x, r.started = true → r.mAck = r.mSent → r.mSent < len / 128 → (s.ag d a).asm = [x] → x.key = 16 * r.unit + 8 → x.done = true → x.psn = false → (s.die d).paired d = none →
      let m := min (len - 128 * r.mSent) (4096 - (off + 128 * r.mSent) % 4096) / 128
      ∃ t, exec (.mcast o) s = .next t ∧ (t.ag d a).asm = [] ∧ SameMem s t ∧ (t.die d).run a = some { r with mSent := r.mSent + m, unit := r.unit + 1 } ∧
        (t.die d).coe.out = (s.die d).coe.out ++ (List.range m).map fun i =>
          NftOut.line ⟨BitVec.ofNat 12 ((s.die d).pkg d), d, a⟩ grp (off + 128 * (r.mSent + i)) (x.bytes (128 * i) 128) (r.mSent + i + 1 == len / 128) (bitAt req 63) (mkSlot (fld req 53 3)) ⟨fld req 48 5 % 32, Nat.mod_lt _ (by decide)⟩ r.rw) ∧
    (r.started = true → r.mAck = r.mSent → len / 128 ≤ r.mSent → r.parN (o.f3.toNat + 1) = 0 → (vget (s.slot d r.slot).rq 3).length < 16 → (s.ag d a).sb = [] →
      exec (.mcast o) s = runNext (s.modSlot d r.slot fun t => { t with rq := vset t.rq 3 (vget t.rq 3 ++ [(mcastValue r, false)]) }) d a (r.adv o.na)) ∧
    (∀ n acc ref, r.code[r.pos]? = some (n, .mcast o) → r.mAck < r.mSent →
      (ref.Pairwise (· < ·) → (∀ m ∈ ref, r.isMember m = true) → acc + ref.length ≤ r.others →
        exec (.aggregatedAck d q acc ref) s = runNext s d a { r with mAck := r.mAck + 1, mNak := unionNat r.mNak ref, mAll := max r.mAll (acc + ref.length) }) ∧
      ∃ r', exec (.aggregatedAck d q acc ref) s = runNext s d a r' ∧ r'.mAck = r.mAck + 1 ∧ ∀ m ∈ r'.mNak, m ∈ r.mNak ∨ m ∈ ref ∧ m < r.mGrp.1 ∧ r.mGrp.2 ≠ some m) ∧
    (∀ n m, r.code[r.pos]? = some (n, .mcast o) → r.mAck < r.mSent →
      (r.isMember m = true → exec (.mcastMemberTimeout d q m) s = runNext s d a { r with mNak := setIns r.mNak m }) ∧ (r.isMember m = false → exec (.mcastMemberTimeout d q m) s = .next s))) ∧
  (∀ (s : State) (d : DieId) (m : McLine), m.src.die = d → m.src.pkg.toNat = (s.die d).pkg d → exec (.mcastLineArrival d m) s = .next s) ∧
  (∀ (s : State) (d : DieId) (m : McLine) (g : Group) (pa : Nat), MemInv s → ¬ (m.src.die = d ∧ m.src.pkg.toNat = (s.die d).pkg d) → (s.die d).groupFor d m.grp.toNat false = some g →
    let h := (s.die d).handle g g.self
    (s.die d).exportAddr d h.1 h.2.1 m.off m.data.length 1 true = .ok pa → isMem pa m.data.length = true → (s.die d).pinned pa m.data.length = false → (s.die d).behind m.src.ag m.src.die (some m.src) = false → (s.die d).coe.mcRef = [] →
    ∃ t, exec (.mcastLineArrival d m) s = .next t ∧ (t.die d).coe.outR = (s.die d).coe.outR ++ [.mcAck m.grp m.src true] ∧
      (∀ a, memGet (t.die d).mem a = if pa ≤ a ∧ a < pa + m.data.length then m.data.getD (a - pa) 0 else memGet (s.die d).mem a) ∧
      ∀ k i, vget (t.slot d k).sems i = if k = m.sslot ∧ i = m.sem ∧ m.last = true ∧ m.se = true then vget (s.slot d k).sems i + 1 else vget (s.slot d k).sems i) ∧
  (∀ (s : State) (d : DieId) (m : McLine), ¬ (m.src.die = d ∧ m.src.pkg.toNat = (s.die d).pkg d) → (s.die d).groupFor d m.grp.toNat false = none ∨
      (∃ g pa, (s.die d).groupFor d m.grp.toNat false = some g ∧ let h := (s.die d).handle g g.self
        (s.die d).exportAddr d h.1 h.2.1 m.off m.data.length 1 true = .ok pa ∧ isMem pa m.data.length = false) →
    ∃ t, exec (.mcastLineArrival d m) s = .next t ∧ SameMem s t ∧ (t.die d).coe.outR = (s.die d).coe.outR ++ [.mcAck m.grp m.src false]) ∧
  (∀ (s : State) (d : DieId) (x : NftOut) (rest : List NftOut), (s.die d).coe.moved = [] →
    let open_ : Prop := (s.die d).getReg d rNFTCFG &&& 7 ≠ 0
    ((s.die d).coe.out = x :: rest → open_ → exec (.switchReplicate d) s = .next (s.modDie d fun y => { y with coe := { y.coe with out := rest } })) ∧
    (¬ open_ → exec (.switchReplicate d) s = .next s) ∧
    (∀ ps, (s.die d).coe.outR = x :: rest → open_ → (s.die d).alive = true → s.agenda = .fabricResponse d :: ps →
      step s = .next (({ s with agenda := ps } : State).modDie d fun y => { y with coe := { y.coe with outR := rest } })))

/-! ## Collective engine (R285 to R299, R409 to R411) -/

/-- Words of a step that wait: `krecv` ends once its counter reaches `THR`, and waits below it; a wait that ends adds its delay, rounded up to 64 ticks, to the context's O. `kbar` raises its generation, waits until its earlier writes have been applied and answered, then sends its arrival, and ends once every member has arrived; both waits count in O, and the timeout runs only while a member that is not absent is missing (log entry 150). `kabs` tells the group of an absence or a presence; `krel` hands the step's list over and marks it so; a list already handed over is not handed over again. Completion is the conclusion, under conditions on the state and the operands alone, for: KRECV, KREL, KBAR, KABS. -/
def Obligations.StepWordsWaitAndRelease : Prop :=
  ∀ (s : State) (d : DieId) (x : Fin 8) (k : KCtx) (r : Run) (o : COp),
    let c : Cur := ⟨d, .coll, ⟨x.val, Nat.lt_trans x.isLt (by decide)⟩⟩
    s.cur = c → s.ctx d x = some k → k.run = some r →
    let w := r.par o.f1
    let grp : BitVec 12 := BitVec.ofNat 12 w.toNat
    let g : W32 := spGet 0 k.gens grp.toNat
    let tick := s.tick d
    let goes (t : State) (r' : Run) : Prop := ∃ k', t.ctx d x = some k' ∧ k'.run = some r'
    (fld w 6 10 = 0 → fld w 48 16 = 0 → fld w 16 32 ≠ 0 →
      let n := (vget k.cnts ⟨fld w 0 6 % 64, Nat.mod_lt _ (by decide)⟩).toNat
      (fld w 16 32 ≤ n → k.wait = none → exec (.krecv o) s = .next (s.setRun c (r.adv o.na))) ∧
      (∀ q, fld w 16 32 ≤ n → k.wait = some q →
        ∃ t k', exec (.krecv o) s = .next t ∧ t.ctx d x = some k' ∧ k'.run = some (r.adv o.na) ∧ k'.wait = none ∧
          k'.ofs = k.ofs + 64 * (((tick - q.since).toNat + 63) / 64)) ∧
      (n < fld w 16 32 → k.wait = none → exec (.krecv o) s = .next (s.setKwait c (some ⟨1, tick, 0, true, tick⟩))) ∧
      (∀ q, n < fld w 16 32 → k.wait = some q → exec (.krecv o) s = .next s)) ∧
    (r.part = 0 → fld w 12 52 = 0 → ((s.die d).groupFor d grp.toNat true).isSome = true →
      ∃ t, exec (.kbar o) s = .next t ∧ goes t { r with started := true, part := 1 } ∧ ∃ k', t.ctx d x = some k' ∧ k'.gens = spSet 0 k.gens grp.toNat (g + 1)) ∧
    (r.part = 1 → s.settled d .coll = false ∨ (s.die d).fabQuiet r.slot = false →
      (k.wait = none → exec (.kbar o) s = .next (s.setKwait c (some ⟨4, tick, 0, false, tick⟩))) ∧ (∀ q, k.wait = some q → exec (.kbar o) s = .next s)) ∧
    (r.part = 1 → s.settled d .coll = true → (s.die d).fabQuiet r.slot = true → s.muted d = false →
      ∃ t, exec (.kbar o) s = .next t ∧ goes t { r with part := 2 } ∧ (t.die d).coe.out = (s.die d).coe.out ++ [.barArr grp g]) ∧
    (r.part = 2 → (s.die d).missing d grp g = [] → (s.die d).gateOk d = true → k.wait = none → exec (.kbar o) s = .next (s.setRun c (r.adv o.na))) ∧
    (∀ q, r.part = 2 → (s.die d).missing d grp g = [] → (s.die d).gateOk d = true → k.wait = some q →
      ∃ t k', exec (.kbar o) s = .next t ∧ t.ctx d x = some k' ∧ k'.run = some (r.adv o.na) ∧ k'.wait = none ∧ k'.ofs = k.ofs + 64 * (((tick - q.since).toNat + 63) / 64)) ∧
    (r.part = 2 → (s.die d).missing d grp g ≠ [] → k.wait = none → exec (.kbar o) s = .next (s.setKwait c (some ⟨4, tick, 0, !((s.die d).late d grp g).isEmpty, tick⟩))) ∧
    (∀ q, r.part = 2 → (s.die d).missing d grp g ≠ [] → k.wait = some q → exec (.kbar o) s = .next s) ∧
    (fld w 12 52 = 0 → fld (r.par o.f2) 1 63 = 0 → ((s.die d).groupFor d grp.toNat true).isSome = true → s.muted d = false →
      ∃ t, exec (.kabs o) s = .next t ∧ goes t (r.adv o.na) ∧ (t.die d).coe.out = (s.die d).coe.out ++ [.barAbs grp (bitAt (r.par o.f2) 0)]) ∧
    (∀ st, k.steps[k.step]? = some st → k.released = true → exec (.krel o) s = .next (s.setRun c (r.adv o.na))) ∧
    (∀ st, k.steps[k.step]? = some st → k.released = false → s.settled d .coll = true → st.ntask = 0 →
      ∃ t k', exec (.krel o) s = .next t ∧ t.ctx d x = some k' ∧ k'.released = true ∧ k'.run = some (r.adv o.na) ∧ SameMem s t) ∧
    (∀ st y bs l z, k.steps[k.step]? = some st → k.released = false → s.settled d .coll = true → st.ntask ≠ 0 → coeRead s c ((s.die d).whoOwn .coll k.own) st.tasks (8 * st.ntask) = .ok y bs → y.sched.launch k.own.lid = some l →
      Die.takeTasks d l ((List.range st.ntask).map fun i => leWord (slice bs (8 * i) 8)) y = (z, true) → vget z.coe.ctx x = some k →
      ∃ t k', exec (.krel o) s = .next t ∧ (t.die d).sched = z.sched ∧ t.ctx d x = some k' ∧ k'.released = true ∧ k'.run = some (r.adv o.na))

/-- `ksend`: a query to the destination die first; after the grant the chunks, read from the source and written through the window; with `SE`, then the increment of the arrival counter; the word ends when all of it has left. Completion is the conclusion, under conditions on the state and the operands alone, for: KSEND. -/
def Obligations.SendsFollowTheirGrant : Prop :=
  ∀ (s : State) (d : DieId) (x : Fin 8) (k : KCtx) (r : Run) (o : COp),
    let c : Cur := ⟨d, .coll, ⟨x.val, Nat.lt_trans x.isLt (by decide)⟩⟩
    s.cur = c → s.ctx d x = some k → k.run = some r →
    let w := (s.die d).whoRun c r
    let dst := r.par o.f1
    let src := r.par o.f2
    let len := fld (r.par o.f3) 0 40
    let key := 16 * r.unit + x.val
    let da := (((dst.toNat : Int) + r.mAck) % 2 ^ 64).toNat
    let sa := (((src.toNat : Int) + r.mAck) % 2 ^ 64).toNat
    let n := min (len - r.mAck) (4096 - da % 4096)
    let next : Run := if r.mAck + n = len then { r with unit := r.unit + 1, mSent := r.mSent + 1, mAck := 0 } else { r with unit := r.unit + 1, mAck := r.mAck + n }
    (r.started = false → fld (r.par o.f3) 40 8 = 0 → fld (r.par o.f3) 54 9 = 0 → len % 128 = 0 → 128 ≤ len → len ≤ 65536 → dst.toNat % 16 = 0 → src.toNat % 16 = 0 →
      exec (.ksend o) s = .next (s.setRun c { r with started := true, mSent := 0, mAck := 0 })) ∧
    (∀ y p h idx gen off, r.started = true → r.part = 0 → access d (s.die d) w dst.toNat 0 ⟨[2, 3], false, true⟩ = .ok y p → p.loc = .peer h idx gen off →
      (s.modDie d fun _ => y).muted d = false → vget y.coe.ctx x = some k →
      ∃ t k', exec (.ksend o) s = .next t ∧ (t.die d).coe.out = y.coe.out ++ [.query (BitVec.ofNat 12 (y.pkg d)) h k.grp k.frame y.coe.nquery] ∧
        t.ctx d x = some k' ∧ k'.run = some { r with part := 1, rw := y.coe.nquery, mGrp := (4 * (BitVec.ofNat 12 (y.pkg d)).toNat + h.val, none) } ∧ k'.wait ≠ none) ∧
    (r.started = true → r.part = 1 → r.rw ∈ (s.die d).coe.grants →
      ∃ t k', exec (.ksend o) s = .next t ∧ (t.die d).coe.grants = (s.die d).coe.grants.erase r.rw ∧ t.ctx d x = some k' ∧ k'.run = some { r with part := 2 } ∧ k'.wait = none) ∧
    (r.started = true → r.part = 1 → r.rw ∉ (s.die d).coe.grants → k.wait ≠ none → exec (.ksend o) s = .next s) ∧
    (∀ y qs, r.started = true → r.part = 2 → r.mSent = 0 → (s.ag d .coll).asm = [] → accessParts d w ⟨[0, 1], true, false⟩ [⟨sa, n, 0⟩] (s.die d) = .ok y qs →
      exec (.ksend o) s = .next (issueReads (s.modDie d fun _ => y) c r key r.unit false qs)) ∧
    (∀ a y ps, r.started = true → r.part = 2 → r.mSent = 0 → (s.ag d .coll).asm = [a] → a.key = key → a.done = true → a.psn = false → accessRow d (s.die d) w da n ⟨[2, 3], false, true⟩ = .ok y ps →
      exec (.ksend o) s = .next (((pushChunk (s.modDie d fun _ => y) c r da r.unit ps (a.bytes 0 n) a.badIn).modAg d .coll fun z => z.dropAsm key).setRun c next)) ∧
    (∀ y p h idx gen off, r.started = true → r.part = 2 → r.mSent ≠ 0 → access d (s.die d) w dst.toNat 0 ⟨[2, 3], false, true⟩ = .ok y p → p.loc = .peer h idx gen off → bitAt (r.par o.f3) 63 = true →
      exec (.ksend o) s = .next (((s.modDie d fun _ => y).modAg d .coll fun a => { a with sb := a.sb ++ [.arrive h k.grp ⟨fld (r.par o.f3) 48 6 % 64, Nat.mod_lt _ (by decide)⟩] }).setRun c { r with part := 3 })) ∧
    (r.started = true → r.part = 3 → r.mSent ≠ 0 → (s.ag d .coll).sb = [] → (∀ p ∈ (s.ag d .coll).pend, p.op.isFab = false) →
      exec (.ksend o) s = .next (s.setRun c ({ r with rw := 0 }.adv o.na)))

/-- Vector words in a collective block: a chunk's source bytes are read; then, where source and destination do not overlap otherwise than element by element, each destination element is the source element in the destination's format (`kwid`), the rounded sum (`kadd`), or its block's quantisation (`kreq`); after the last element the word ends. Poisoned sources are left out. Completion is the conclusion, under conditions on the state and the operands alone, for: KWID, KADD, KREQ. -/
def Obligations.VectorWords : Prop :=
  ∀ (s : State) (d : DieId) (r : Run) (o : COp) (c : Cur), s.cur = c → c.die = d → c.ag = .coll → s.run c = some r →
    let w := (s.die d).whoRun c r
    let spec := r.par o.f3
    let n := fld spec 0 32
    let st : Tag := spec.extractLsb' 48 5
    let dst := (r.par o.f1).toNat
    let src := (r.par o.f2).toNat
    let key := 16 * r.unit + c.ctx.val
    let word (i : Instr) : Prop := i = .kwid o ∧ fmtKwSrc st = true ∨ i = .kadd o ∧ st = o.fmt ∨ i = .kreq o ∧ (st = tFP32 ∨ st = tBF16)
    let apart (a m b l : Nat) : Prop := a + m ≤ b ∨ b + l ≤ a
    (∀ i, word i → r.started = false → fld spec 32 16 = 0 → fld spec 53 11 = 0 → n % 32 = 0 → 32 ≤ n → n ≤ 2 ^ 20 → dst % 16 = 0 → src % 16 = 0 →
      exec i s = .next (s.setRun c { r with started := true, mSent := 0 })) ∧
    (∀ i, word i → r.started = true → n ≤ r.mSent → exec i s = .next (s.setRun c (r.adv o.na))) ∧
    (r.started = true → r.mSent < n →
      let reads (q : VecWork) (i : Instr) : Prop := ∀ y qs, (s.ag d .coll).asm = [] → accessParts d w ⟨[0, 1], true, false⟩ q.parts (s.die d) = .ok y qs →
        exec i s = .next (issueReads (s.modDie d fun _ => y) c r key r.unit false qs)
      reads (vecWork r o o.fmt 1 [(src, st)] r.mSent) (.kwid o) ∧ reads (vecWork r o o.fmt 1 [(dst, o.fmt), (src, o.fmt)] r.mSent) (.kadd o) ∧
      reads (vecWork r o o.fmt 32 [(src, st)] r.mSent) (.kreq o)) ∧
    (∀ x, r.started = true → r.mSent < n → (s.ag d .coll).asm = [x] → x.key = key → x.done = true → x.psn = false → fscaled o.fmt = false → fscaled st = false → fwidth o.fmt % 8 = 0 → fwidth st % 8 = 0 →
      let q := vecWork r o o.fmt 1 [(src, st)] r.mSent
      let b (t : Tag) (at_ j : Nat) : Val := decodeElem t (leNat (x.bytes (at_ + fwidth t / 8 * j) (fwidth t / 8)))
      let writes (i : Instr) (e : Nat → Nat × Flg) : Prop := ∀ y ps, accessParts d w ⟨[0, 1], false, true⟩ [⟨q.da, q.dn, 0⟩] (s.die d) = .ok y ps →
        exec i s = .next (((pushChunk (s.modDie d fun _ => y) c r q.da r.unit (ps.map (·.2)) ((List.range q.cnt).flatMap fun j => natLe (fwidth o.fmt / 8) (e j).1) fun _ _ => false).modAg d .coll
          fun z => z.dropAsm key).setRun c { r with unit := r.unit + 1, mSent := r.mSent + q.cnt, flags := (List.range q.cnt).foldl (fun f j => f ||| (e j).2) r.flags })
      (apart q.da q.dn (src + vecLen st q.e0) (vecLen st q.cnt) → writes (.kwid o) fun j => roundVal o.fmt 0 false 0 (b st 0 j)) ∧
      (apart q.da q.dn (src + vecLen o.fmt q.e0) (vecLen o.fmt q.cnt) ∨ src = dst →
        writes (.kadd o) fun j => let v := fpAdd 0 (b o.fmt 0 j) (b o.fmt 8192 j); let z := roundVal o.fmt 0 false 0 v.1; (z.1, z.2 ||| v.2))) ∧
    (∀ x y ps, r.started = true → r.mSent < n → (s.ag d .coll).asm = [x] → x.key = key → x.done = true → x.psn = false → fscaled o.fmt = true → st = tFP32 ∨ st = tBF16 →
      let q := vecWork r o o.fmt 32 [(src, st)] r.mSent
      q.sn ≠ 0 → apart q.da q.dn (src + vecLen st q.e0) (vecLen st q.cnt) → apart q.sa q.sn (src + vecLen st q.e0) (vecLen st q.cnt) →
      accessParts d w ⟨[0, 1], false, true⟩ [⟨q.da, q.dn, 0⟩, ⟨q.sa, q.sn, 0⟩] (s.die d) = .ok y ps →
      let own (va : Nat) : List Piece := (ps.filter fun x => x.1.va == va).map (·.2)
      let z (j : Nat) := quantBlock o.fmt ((List.range 32).map fun i => decodeElem st (leNat (x.bytes (fwidth st / 8 * (32 * j + i)) (fwidth st / 8))))
      exec (.kreq o) s = .next (((pushChunk (pushChunk (s.modDie d fun _ => y) c r q.da r.unit (own q.da)
          ((List.range (q.cnt / 32)).flatMap fun j => natLe (4 * fwidth o.fmt) (packElems (fwidth o.fmt) (z j).2.1)) fun _ _ => false)
          c r q.sa r.unit (own q.sa) ((List.range (q.cnt / 32)).flatMap fun j => natLe 3 (z j).1) fun _ _ => false).modAg d .coll
        fun z => z.dropAsm key).setRun c { r with unit := r.unit + 1, mSent := r.mSent + q.cnt, flags := (List.range (q.cnt / 32)).foldl (fun f j => f ||| (z j).2.2) r.flags }))

/-- Frames: an entry with a frame block takes a free context and leaves the engine; its `kframe` sets the context up on a timetable, every timetable of the round having been read from `MT` 0 (the model's choice, log entry 144), with T0 from its descriptor or the second multiple after the entry's start; it enters its frame at T0 plus its offset, with counters zero; a step starts at its release, and when it starts late the delay is a slip; after the last step the next frame follows, or the entry completes, once its slot is its strand's again. A context that is asked to stop starts no step and enters no frame. Completion is the conclusion, under conditions on the state and the operands alone, for: KFRAME, ENTRY_START, FRAME_ENTRY, STEP_START, STEP_COMPLETE. -/
def Obligations.FramesRunTheirTimetable : Prop :=
  (∀ (s : State) (d : DieId) (r : Run) (x : Fin 8) (w : Owner), (s.die d).coe.run = some r → r.part ≠ unchecked → frameCode r.code = true →
    vget (s.die d).coe.ctx x = none → (∀ i < x, vget (s.die d).coe.ctx i ≠ none) →
    (s.die d).coe.own = some w ∨ (s.die d).coe.own = none ∧ (s.ctl d r.slot).own = some w →
    exec (.entryStart d .coll) s = .next (s.modDie d fun y => { y with coe := { y.coe with run := none, ctx := vset y.coe.ctx x (some (KCtx.opening r w)) } })) ∧
  (∀ (s : State) (d : DieId) (r : Run) (o : COp) (y z v : Die) (bs : List Byte) (f : FDesc) (t : TTab) (x : Fin 8) (k0 : KCtx),
    let c : Cur := ⟨d, .coll, ⟨x.val, Nat.lt_trans x.isLt (by decide)⟩⟩
    let who := (s.die d).whoRun c r
    s.cur = c → s.ctx d x = some k0 → k0.run = some r → (r.par o.f1).toNat % 64 = 0 → coeRead s c who (r.par o.f1).toNat 64 = .ok y bs → parseDesc bs = some f →
    y.whoRun c r = who → (∃ g, y.group d f.grp.toNat = some g ∧ g.kind < 3) → readTable (s.modDie d fun _ => y) c who f.tt = .ok z t →
    chainCheck (s.modDie d fun _ => y) c who 65536 [f.tt] t.next z = .ok v () → f.t0 % 2 ^ t.flog2 = 0 →
    (∀ i k, vget v.coe.ctx i = some k → k.grp = f.grp → k.stopped = true ∨ k.nr = 0) → vget v.coe.ctx x = some k0 →
    ∃ u k, exec (.kframe o) s = .next u ∧ u.ctx d x = some k ∧ k.run = none ∧ k.slot = r.slot ∧ k.own = k0.own ∧ k.ent = r.ent ∧ k.grp = f.grp ∧ k.nr = f.nr ∧ k.steps = t.steps ∧ k.next = t.next ∧
      k.frame = 0 ∧ k.inFrame = false ∧ k.ofs = 0 ∧ k.base = k.t0.toNat ∧
      k.t0 = BitVec.ofNat 64 (if f.t0 = 0 then (r.t0.toNat / 2 ^ t.flog2 + 2) * 2 ^ t.flog2 else f.t0)) ∧
  (∀ (s : State) (d : DieId) (x : Fin 8) (k : KCtx), s.ctx d x = some k → k.run = none → (s.die d).ctxAsked k = true → exec (.frameEntry d x) s = .next s ∧ exec (.stepStart d x) s = .next s) ∧
  (∀ (s : State) (d : DieId) (x : Fin 8) (k : KCtx), s.ctx d x = some k → k.nr ≠ 0 → k.stopped = false → (s.die d).ctxHeld k = false → (s.die d).ctxAsked k = false →
    let c : Cur := ⟨d, .coll, ⟨x.val, Nat.lt_trans x.isLt (by decide)⟩⟩
    let now := (s.tick d).toNat
    (now < k.base + k.ofs → k.inFrame = false → exec (.frameEntry d x) s = .next s) ∧
    (k.base + k.ofs ≤ now → k.inFrame = false → k.run = none → k.steps ≠ [] → s.muted d = false →
      ∃ t k', exec (.frameEntry d x) s = .next t ∧ t.ctx d x = some k' ∧ k' = { k with inFrame := true, step := 0, cnts := .replicate 64 0 } ∧
        let in_ (q : Query) : Bool := (t.die d).coe.entered q.grp q.n
        (t.die d).coe.entered k.grp k.frame = true ∧ (t.die d).coe.queries = (s.die d).coe.queries.filter (fun q => !in_ q) ∧
        (t.die d).coe.outR = (s.die d).coe.outR ++ (((s.die d).coe.queries.filter in_).map fun q => .grant q.pkg q.src q.id)) ∧
    (∀ st, k.steps[k.step]? = some st → k.run = none → k.inFrame = true →
      let rel := k.base + st.trel + k.ofs
      let r0 : Run := { Run.fresh k.ent k.slot (s.tick d) with blk := st.blk }
      (now < rel → exec (.stepStart d x) s = .next s) ∧
      (now = rel → exec (.stepStart d x) s = .next (tryBlock (s.setCtx d x { k with run := some r0, released := false, resumed := false }) c r0)) ∧
      (rel < now → ∃ u r1, exec (.stepStart d x) s = .next (tryBlock u c r1) ∧ r1.blk = st.blk ∧ r1.ent = k.ent ∧ r1.slot = k.slot ∧ u.ctx d x =
        some { k with ofs := k.ofs + 64 * ((now - rel + 63) / 64), cause := if k.resumed then 3 else 0, nslip := min (k.nslip + 1) (2 ^ 20 - 1), run := some r1, released := false, resumed := false })) ∧
    (∀ st r, k.steps[k.step]? = some st → k.run = some r → r.part ≠ unchecked → r.code.length ≤ r.pos → (s.ag d .coll).sb = [] → (s.ag d .coll).refused = [] → (∃ n o, (n, Instr.krel o) ∈ r.code) ∨ st.ntask = 0 →
      (k.step + 1 < k.steps.length → exec (.stepComplete d x) s = .next (s.setCtx d x { k with run := none, step := k.step + 1, flags := k.flags ||| r.flags })) ∧
      (k.steps.length ≤ k.step + 1 → k.next ≠ 0 → ∃ t k', exec (.stepComplete d x) s = .next t ∧ t.ctx d x = some k' ∧
        k'.tt = k.next ∧ k'.base = k.base + 2 ^ k.flog2 ∧ k'.frame = k.frame + 1 ∧ k'.round = k.round ∧ k'.inFrame = false ∧ k'.steps = [] ∧ k'.run = none ∧ k'.ofs = k.ofs) ∧
      (k.steps.length ≤ k.step + 1 → k.next = 0 → k.round + 1 < k.nr → ∃ t k', exec (.stepComplete d x) s = .next t ∧ t.ctx d x = some k' ∧
        k'.tt = k.tt0 ∧ k'.base = k.base + 2 ^ k.flog2 ∧ k'.frame = k.frame + 1 ∧ k'.round = k.round + 1 ∧ k'.inFrame = false ∧ k'.steps = [] ∧ k'.run = none) ∧
      (k.steps.length ≤ k.step + 1 → k.next = 0 → k.nr ≤ k.round + 1 → (s.die d).ctxBound k = true → ∃ t, exec (.stepComplete d x) s = .next t ∧ t.ctx d x = none ∧ SameMem s t ∧
        vget (t.slot d k.slot).q 5 = (vget (s.slot d k.slot).q 5).drop 1 ∧ vget (t.slot d k.slot).cseq 5 = vget (s.slot d k.slot).cseq 5 + 1)))

/-- Messages of a group: a slip notice adds to the O of its contexts; a frame query is granted once the frame has been entered and held before; grants, arrivals, absences and presences are recorded by member; a wait that reaches `KBTO` ends, its length added to O, in a barrier-timeout fault (code 28). Completion is the conclusion, under conditions on the state and the operands alone, for: SLIP_NOTICE, FRAME_QUERY, FRAME_GRANT, BARRIER_ARRIVAL, BARRIER_ABSENCE, BARRIER_PRESENCE, BARRIER_TIMEOUT. -/
def Obligations.GroupMessages : Prop :=
  (∀ (s : State) (d : DieId) (grp : BitVec 12) (delay : Nat), ∃ t, exec (.slipNotice d grp delay) s = .next t ∧
    ∀ x k, s.ctx d x = some k → t.ctx d x = some (if k.grp = grp ∧ k.nr ≠ 0 then { k with ofs := k.ofs + delay } else k)) ∧
  (∀ (s : State) (d : DieId) (grp : BitVec 12) (n id : Nat) (pkg : BitVec 12) (src : DieId), s.muted d = false →
    ((∃ x k, s.ctx d x = some k ∧ k.grp = grp ∧ k.nr ≠ 0 ∧ k.stopped = false ∧ (n < k.frame ∨ n = k.frame ∧ k.inFrame = true)) →
      ∃ t, exec (.frameQuery d grp n id pkg src) s = .next t ∧ (t.die d).coe.outR = (s.die d).coe.outR ++ [.grant pkg src id] ∧ (t.die d).coe.queries = (s.die d).coe.queries) ∧
    ((∀ x k, s.ctx d x = some k → k.grp = grp → k.stopped = true ∨ k.nr = 0 ∨ k.frame < n ∨ n = k.frame ∧ k.inFrame = false) →
      ∃ t, exec (.frameQuery d grp n id pkg src) s = .next t ∧ (t.die d).coe.outR = (s.die d).coe.outR ∧ (t.die d).coe.queries = (s.die d).coe.queries ++ [⟨grp, n, id, pkg, src⟩])) ∧
  (∀ (s : State) (d : DieId) (id : Nat), ∃ t, exec (.frameGrant d id) s = .next t ∧ id ∈ (t.die d).coe.grants ∧ SameMem s t) ∧
  (∀ (s : State) (d : DieId) (grp : BitVec 12) (m : Nat) (gen : W32) (g : Group), (s.die d).groupFor d grp.toNat true = some g →
    let b := (s.die d).coe.bar grp m
    (m < g.nmem → m ≠ g.self → b.grp = grp ∧ b.m = m →
      (∃ t, exec (.barrierArrival d grp m gen) s = .next t ∧ (t.die d).coe.bar grp m = if (b.gen - gen).msb then { b with gen := gen } else b) ∧
      (∃ t, exec (.barrierAbsence d grp m) s = .next t ∧ (t.die d).coe.bar grp m = { b with absent := true }) ∧
      (∃ t, exec (.barrierPresence d grp m) s = .next t ∧ (t.die d).coe.bar grp m = { b with absent := false })) ∧
    (g.nmem ≤ m ∨ m = g.self → exec (.barrierArrival d grp m gen) s = .next s ∧ exec (.barrierAbsence d grp m) s = .next s ∧ exec (.barrierPresence d grp m) s = .next s)) ∧
  (∀ (s : State) (d : DieId) (x : Fin 9) (r : Run) (q : KWait) (n : Nat) (o : COp), s.run ⟨d, .coll, x⟩ = some r → s.kwait ⟨d, .coll, x⟩ = some q → (∀ k, (s.die d).ctxOf ⟨d, .coll, x⟩ = some k → k.slot = r.slot ∧ (s.die d).ctxBound k = true) → (x.val = 8 → (s.die d).runBound ⟨d, .coll, x⟩ r = true) →
    let lim := (s.die d).rf d rKBTO 0 40
    (lim ≠ 0 → q.on = true → lim ≤ q.ran + (s.tick d - q.from_).toNat → (s.slot d r.slot).heldBy 6 = false →
      let ends (addr : Word) (unit : Nat) : Prop := HeldFault (exec (.barrierTimeout d x) s) d r.slot 6 28 addr unit ∧ ∃ t, exec (.barrierTimeout d x) s = .next t ∧ t.kwait ⟨d, .coll, x⟩ = none ∧
        ∀ k, (s.die d).ctxOf ⟨d, .coll, x⟩ = some k → ∃ k', (t.die d).ctxOf ⟨d, .coll, x⟩ = some k' ∧ k'.ofs = k.ofs + 64 * (((s.tick d - q.since).toNat + 63) / 64)
      (r.code[r.pos]? = some (n, .kbar o) → ends 0 1) ∧ (r.code[r.pos]? = some (n, .krecv o) → ends 0 2) ∧ (r.code[r.pos]? = some (n, .ksend o) → ends (r.par o.f1) 3)) ∧
    (lim = 0 ∨ q.on = false → exec (.barrierTimeout d x) s = .next s))

/-! ## Launches and the fragment allocator (R20, R25, R27, R28, R35 to R38, R303 to R326, R330) -/

/-- A kick sets its bit. A pass clears the bit of the next kicked process and accepts the records of its ring up to the `TAIL` it has read, one a step (that other events may come between two of them is the model's reading, log entry 72): each record's status says it is done and with which code, `HEAD` moves past it, and while records are left the pass goes on with its next step; and a skipped process is reported in `SCHERR` (reserved bits of its entry are ignored: the model's choice, log entry 146). Acceptance checks a record in the order of its codes: a reserved field (2), the descriptor (3), the team size (4), the node (5), the predecessors (6), class 0 (7); an accepted one (1) appends the launch with the record's fields, its counter at the number of its completion predecessors not yet complete. Completion is the conclusion, under conditions on the state and the operands alone, for: KICK_PASS, KICKSET. -/
def Obligations.KicksAndRecords : Prop :=
  ((∀ (s : State) (d : DieId) (i : Byte), ∃ t, exec (.kickset d i) s = .next t ∧ SameMem s t ∧
      ∀ j, vget (t.die d).sched.kick j = (if j.val = i.toNat then true else vget (s.die d).sched.kick j)) ∧
    (∀ (s : State) (d : DieId) (pid : Byte), bitAt ((s.die d).getReg d rPROCBASE) 0 = true → bitAt ((s.die d).getReg d rSJBASE) 63 = true → bitAt ((s.die d).getReg d rSCHST) 63 = false →
      (s.die d).gateOk d = true → s.muted d = false → s.pairRoom d 2 = true → s.partnerGated d = false → (s.die d).sched.pass = none → (s.die d).sched.nextKick = some pid →
      let u := s.modSched d fun q => { q with kick := vset q.kick ⟨pid.toNat, pid.isLt⟩ false, kickRr := pid }
      let p := (u.die d).proc d pid
      (∀ c, p.skip = some c → exec (.kickPass d) s = .next (u.modDie d fun y => y.setReg rSCHERR (BitVec.ofNat 64 (2 ^ 63 + 256 * pid.toNat + c)))) ∧
      (p.skip = none → p.head = p.tail → exec (.kickPass d) s = .next u) ∧
      (p.skip = none → p.head ≠ p.tail → (u.die d).poisoned (p.ring + p.head) 256 = true →
        exec (.kickPass d) s = .next (u.modDie d fun y => y.setReg rSCHERR (BitVec.ofNat 64 (2 ^ 63 + 256 * pid.toNat + 4)))) ∧
      (p.skip = none → p.head ≠ p.tail → (u.die d).poisoned (p.ring + p.head) 256 = false → (u.die d).paired d = none →
        ∀ code y, acceptRecord d ((u.die d).jOpen d 1 (p.head + 2 ^ 32 * pid.toNat) 0 0) false p pid ((u.die d).peek (p.ring + p.head) 256) = (code, y) → (y.paired d = none) →
          let at_ := (p.head + 256) % p.rlen
          let v := u.modDie d fun _ => ((y.poke (p.ring + p.head + 0xF8) (natLe 8 (256 + code)) false).poke (p.at_ + 0x18) (natLe 4 at_) false).jDoneLast d
          exec (.kickPass d) s = .next (if at_ = p.tail then v else v.modSched d fun q => { q with pass := some (pid, p.tail, at_) }))) ∧
    (∀ (s : State) (d : DieId) (pid : Byte) (tail off : Nat), bitAt ((s.die d).getReg d rPROCBASE) 0 = true → bitAt ((s.die d).getReg d rSJBASE) 63 = true → (s.die d).schedOn d = true → s.muted d = false → s.pairRoom d 2 = true → s.partnerGated d = false →
      (s.die d).sched.pass = some (pid, tail, off) → exec (.kickPass d) s = .next (kickStep (s.modSched d fun q => { q with pass := none }) d pid tail off)) ∧
    (∀ (s : State) (d : DieId), bitAt ((s.die d).getReg d rPROCBASE) 0 = false ∨ (s.die d).sched.pass = none ∧ (s.die d).sched.nextKick = none → exec (.kickPass d) s = .next s)) ∧
  (∀ (dn : DieId) (d y : Die) (p : Proc) (pid : Byte) (bs : List Byte) (k : Desc),
      let w (i : Nat) : Nat := leNat (slice bs (8 * i) 8)
      let node : Half := BitVec.ofNat 16 (w 0)
      let np := w 9 % 32
      let pn (j : Nat) : Half := BitVec.ofNat 16 (leNat (slice bs (0x50 + 2 * j) 2))
      let own (n : Half) : Prop := p.nbase ≤ n.toNat ∧ n.toNat < p.nbase + p.ncnt
      (recordBad bs = true → acceptRecord dn d false p pid bs = (2, d)) ∧
      (recordBad bs = false → readDesc dn d p.asid (w 1) = (none, y) → acceptRecord dn d false p pid bs = (3, y)) ∧
      (recordBad bs = false → readDesc dn d p.asid (w 1) = (some k, y) →
        (w 4 % 16 = 0 ∨ teamMax k.shape < w 4 % 16 → acceptRecord dn d false p pid bs = (4, y)) ∧
        (1 ≤ w 4 % 16 → w 4 % 16 ≤ teamMax k.shape →
          (¬ own node ∨ (∃ l, y.sched.latest pid node = some l ∧ l.st = .active) → acceptRecord dn d false p pid bs = (5, y)) ∧
          (own node → (∀ l, y.sched.latest pid node = some l → l.st ≠ .active) →
            ((∃ j < np, ¬ own (pn j) ∨ y.sched.latest pid (pn j) = none) → acceptRecord dn d false p pid bs = (6, y)) ∧
            ((∀ j < np, own (pn j) ∧ y.sched.latest pid (pn j) ≠ none) →
              (w 0 / 65536 % 4 = 0 → p.c0 = false → acceptRecord dn d false p pid bs = (7, y)) ∧
              (w 0 / 65536 % 4 ≠ 0 ∨ p.c0 = true → ∃ l : Launch, l.id = y.sched.nextId ∧ l.pid = pid ∧ l.asid = p.asid ∧ l.node = node ∧ l.cls.val = w 0 / 65536 % 4 ∧ l.shape = k.shape ∧ l.entry = k.entry ∧
                l.param = BitVec.ofNat 64 (w 2) ∧ l.gx = w 3 % 65536 ∧ l.gy = w 3 / 65536 % 65536 ∧ l.gz = w 3 / 2 ^ 32 ∧ l.teamsz = w 4 % 16 ∧ l.zw = w 4 / 65536 % 65536 ∧ l.seed = BitVec.ofNat 32 (w 5) ∧
                l.preds.length = np ∧ l.cnt = (l.preds.filter fun q => !q.2 && !y.launchDone q.1).length ∧ l.blks = [] ∧ l.st = .active ∧
                (let z : Die := { y with sched := { y.sched with launches := y.sched.launches ++ [l], nextId := y.sched.nextId + 1 } }
                 (∀ q ∈ l.preds, ∀ m, z.sched.launch q.1 = some m → m.st ≠ .failed) → acceptRecord dn d false p pid bs = (1, if l.cnt = 0 then z.nodeReady dn l.id else z))))))))

/-- Leases: the first waiting team that fits gets its slots, each with the strand of its index bound and everything else afresh, and its blocks leave the class queue; then idle halves of its bands are filled in the same decision. With none that fits, nothing changes; the head of a swap queue is placed by its own step. Slots go back when nothing of their block is under way: at a give-up all strands of the block being suspended on other waits than semaphores, at a retirement all being done. The slots are idle and in no fragment, and the block is queued again or retired; while the die's scheduling has no carrier, a completion is held. Completion is the conclusion, under conditions on the state and the operands alone, for: FRAGMENT_LEASE_GRANT, FRAGMENT_GIVE_UP, BLOCK_RETIRE, SWAP_IN. -/
def Obligations.LeasesAndReturns : Prop :=
  ((∀ (s : State) (d : DieId), (s.die d).schedOn d = true →
      let f := (s.die d).nextPlace d none
      (f = none → exec (.fragmentLeaseGrant d) s = .next s ∧ exec (.swapIn d) s = .next s) ∧
      (∀ c p, f = some (c, p) →
        (c.swap = false → exec (.fragmentLeaseGrant d) s = .next (fillHalves d 8 (((leaseTeam s d c p).die d).halves p.slots.flatten) (leaseTeam s d c p)) ∧ exec (.swapIn d) s = .next s) ∧
        (c.swap = true → exec (.swapIn d) s = .next (fillHalves d 8 (((swapIn s d c p).die d).halves p.slots.flatten) (swapIn s d c p)) ∧ exec (.fragmentLeaseGrant d) s = .next s))) ∧
    (∀ (s : State) (d : DieId) (c : Cand) (p : Machine.Place) (l : Launch) (b : Blk) (ks : List SlotId), (s.die d).sched.launch c.lid = some l → c.blks = [b.l] → l.blks.filter (fun x => x.l == b.l) = [b] →
      p.slots = [ks] → ks.Nodup → b.lay = [] →
      let t := leaseTeam s d c p
      (∀ (i : Nat) (k : SlotId), ks[i]? = some k → (t.slot d k) = (s.slot d k).lease ⟨l.id, b.l, i⟩) ∧ (∀ k, k ∉ ks → t.slot d k = s.slot d k) ∧
      (l.id, b.l) ∉ (t.die d).sched.cq) ∧
    (∀ (s : State) (d : DieId) (c : Cand) (p : Machine.Place) (l : Launch) (b : Blk) (k : SlotId) (i : Image) (x : Image) (s1 : State),
      (s.die d).sched.launch c.lid = some l → l.zw = 0 → c.blks = [b.l] → l.blks.filter (fun z => z.l == b.l) = [b] → p.slots = [[k]] → readBlk s d l b [k] = .ok (s1, i, [x]) →
      b.ctxs = [] → b.flts = [] → (s1.die d).sched = (s.die d).sched → ∀ a, b.aux = [a] →
      let t := swapIn s d c p
      (t.ctl d k).own = some ⟨l.id, b.l, 0⟩ ∧ (c.lid, c.t) ∉ (t.die d).sched.sq ∧
        ∃ l' b', (t.die d).sched.launch l.id = some l' ∧ l'.blk b.l = some b' ∧ b'.slots = [k] ∧ b'.st = (if b.earl then .early else .running))) ∧
  ((∀ (d : Die) (ks : List SlotId), let e := d.giveBack ks
      (∀ k ∈ ks, e.layOf k = Lay.none ∧ (e.slot k).ctl.own = none ∧ (e.slot k).ctl.act = .idle ∧ ∀ q, vget (e.slot k).q q = []) ∧
      (∀ k, k ∉ ks → e.layOf k = d.layOf k ∧ e.slot k = d.slot k) ∧ e.mem = d.mem) ∧
    (∀ (s : State) (d : DieId) (l : Launch) (b : Blk), b.l < 2 ^ 32 → (s.die d).sched.launch l.id = some l → l.blk b.l = some b → b.slots ≠ [] → (∀ t, (s.die d).sched.team l.id (l.teamOf b.l) = some t → t.leaving = false) → b.halted = 0 →
      let n := 2 ^ 32 * l.id + b.l
      let y := s.die d
      let g := y.giveBack b.slots
      ((∃ r ∈ b.recs, r.done = false) → (∀ r ∈ b.recs, r.susp ≠ none) → b.keeps = false → y.blkIdle d b.slots = true →
        exec (.fragmentGiveUp d n) s = .next (s.modDie d fun _ => Die.afterGive { g with sched :=
          let q := g.sched.modBlk l.id b.l fun x => { x with slots := [], st := .queued, lay := y.relLay b.slots, recs := x.recs.map fun r => { r with on := false } }
          { q with cq := q.cq ++ [(l.id, b.l)] } } d)) ∧
      (b.keeps = true → exec (.fragmentGiveUp d n) s = .next s) ∧
      ((∀ r ∈ b.recs, r.done = true) → b.earl = false → y.blkIdle d b.slots = true →
        (y.schedOn d = true → g.schedOn d = true → s.pairRoom d 2 = true →
          ∃ e, exec (.blockRetire d n) s = .next (s.tellPair (s.modDie d fun _ => if e.schedOn d then Die.completeNode d e (s.muted d) l.id else e) d) ∧
            e = (Die.dropTeam { g with sched := g.sched.modBlk l.id b.l fun x => { x with slots := [], st := .retired } } d l (l.teamOf b.l) b.slots).afterGive d) ∧
        (y.schedOn d = false → 1024 ≤ y.sched.cbuf.length → exec (.blockRetire d n) s = .next s)) ∧
      ((∃ r ∈ b.recs, r.done = false) → exec (.blockRetire d n) s = .next s)))

/-- At a pick-up the strand takes its continuation record: pc, `RNG`, predicates, `VFLAGS`, s1 and s2; every other register is 0; tiles are full and zero; tokens, ports and result queues are empty; semaphores, entry queues and accumulators stay. A strand whose wait is not met stays where it is, and so does one whose record's write is still held by a pin, and one that comes from a wait while its acquire cannot be taken; one whose node has failed is picked up and takes a node fault (code 11, unit 3). Completion is the conclusion, under conditions on the state and the operands alone, for: PICK_UP. -/
def Obligations.PickUpLoadsTheRecord : Prop :=
  ∀ (s : State) (d : DieId) (k : SlotId) (o : Owner) (l : Launch) (b : Blk), (s.ctl d k).own = some o → (s.die d).ownLaunch k = some l → (s.die d).ownBlk k = some b →
    ((s.die d).strandMet d l b o.sidx (some k) = false → exec (.pickUp d k) s = .next s) ∧
    ((s.ctl d k).act = .idle ∨ (s.ctl d k).act = .suspended → vget (s.slot d k).stop 0 = false → (s.slot d k).heldBy 0 = false → (s.ctl d k).due = none → b.keeps = true →
      (s.die d).strandMet d l b o.sidx (some k) = true → (s.die d).gateOk d = true →
      let pinned : Bool := (s.die d).held.any fun h => h.op.lines.any (procLines d (s.die d) l.asid (l.recAt b.l o.sidx) 64).contains
      (pinned = true → exec (.pickUp d k) s = .next s) ∧
      (pinned = false → ∀ bs y, procLoad d (s.die d) l.asid (l.recAt b.l o.sidx) 64 = (some bs, y) →
        let waited : Prop := (∃ r, b.recs[o.sidx]? = some r ∧ r.susp.isSome = true) ∧ (recOf bs).kind ≠ 0
        (waited → acqFree y d k = false → exec (.pickUp d k) s = .next (s.modDie d fun _ => y)) ∧
        (waited → acqFree y d k = true → y.nodeFailed l (recOf bs) = true → b.flts = [] → HeldFault (exec (.pickUp d k) s) d k 0 11 0 3) ∧
        ((waited → acqFree y d k = true ∧ y.nodeFailed l (recOf bs) = false) → ∃ t, exec (.pickUp d k) s = .next t ∧
          let v := recOf bs
          let x := t.slot d k
          let z := y.slot k
          x.ctl.act = .running ∧ x.ctl.pc = v.pc ∧ x.ctl.rng = v.rng ∧ x.ctl.own = z.ctl.own ∧ x.ctl.opn = none ∧
          (∀ r : BitVec 5, x.ctl.regs.get r = if r = 1 then v.live0 else if r = 2 then v.live1 else 0) ∧ (∀ r : BitVec 5, x.ctl.regs.isFull r = true) ∧
          (∀ q : Fin 8, vget x.ctl.regs.p q = (q.val == 0 || v.pred.getLsbD (q.val - 1))) ∧
          x.ctl.csr.wsp = l.wsp b.l o.sidx &&& bits 51 6 ∧ x.ctl.csr.wlim = l.wlim b.l o.sidx &&& bits 51 6 ∧ x.ctl.csr.wdepth = 0 ∧ x.ctl.csr.vflags = v.vflags.setWidth 7 ∧
          (∀ i : Fin 16, (vget x.tiles i).tag = tRAW ∧ ∀ r < 64, (vget x.tiles i).isFull r = true ∧ ((vget x.tiles i).row r).data = List.replicate 512 0) ∧
          (∀ i : Fin 8, vget x.toks i = 0 ∧ vget x.ports i = Port.empty) ∧ (∀ i : Fin 4, vget x.rq i = []) ∧
          x.sems = z.sems ∧ x.q = z.q ∧ x.bank = z.bank ∧ x.pseq = z.pseq ∧ x.cseq = z.cseq)))

/-! ## Slices, swap-outs, stops (R34, R319 to R323, R367) -/

/-- A team whose slice has ended, and which is one of those that would serve a waiting team of its class or a higher one, is asked to stop; without such a team its slice begins again; before the end nothing happens. An Early team that makes way for one without `EARLY` is asked at once. A class-0 team that is ready and finds no placement clears one placement within `SLOTS`: every team that begins to leave holds a slot of it and is of another class. Once the slot and copy engines of a leaving team have acknowledged and its stores have been made, its slots go back and its blocks are swapped out; once the collective engine has stopped for it too, then or later, the team joins its swap queue (log entry 78). A failing access of the save, of whatever cause, leaves it in place with a context-save fault (code 29; log entry 81, DEDUCED). A team that committed blocks of a strand still owe something to is asked strand first (log entry 80). Completion is the conclusion, under conditions on the state and the operands alone, for: SLICE_END, CLASS0_PREEMPT, PREEMPTION_COMPLETE. -/
def Obligations.SlicesAndSwapOuts : Prop :=
  ((∀ (s : State) (d : DieId) (x : Team) (l : Launch), x.t < 2 ^ 32 → (s.die d).sched.team x.lid x.t = some x → (s.die d).sched.launch x.lid = some l → (s.die d).schedOn d = true → x.leaving = false →
      (s.die d).resident x = true → (∀ b ∈ l.teamBlks x.t, b.earl = false) →
      let n := 2 ^ 32 * x.lid + x.t
      let y := s.die d
      let ended := y.rf d rQUANT 0 32 ≤ (y.tick d - x.since).toNat
      (¬ ended → y.mustLeave d x = false → exec (.sliceEnd d n) s = .next s) ∧
      (ended → y.mustLeave d x = false → y.outSliced d x = false →
        exec (.sliceEnd d n) s = .next (s.modSched d fun q => (q.beginSlice l.cls).modTeam x.lid x.t fun z => { z with since := y.tick d })) ∧
      (ended ∧ y.outSliced d x = true ∨ y.mustLeave d x = true →
        ∃ t z, exec (.sliceEnd d n) s = .next t ∧ (t.die d).sched.team x.lid x.t = some z ∧ z.leaving = true ∧
          ∀ k ∈ l.teamSlots x.t, vget (t.slot d k).stop 0 = true ∧ (vget (s.slot d k).stop 0 = false → (t.slot d k).ctl.opn = none ∧ (t.ctl d k).act ≠ .running ∧
            ((s.slot d k).owes = false → ∀ i, vget (t.slot d k).stop i = true)))) ∧
    (∀ (s : State) (d : DieId) (x : Team) (l : Launch), x.t < 2 ^ 32 → (s.die d).sched.team x.lid x.t = some x → (s.die d).sched.launch x.lid = some l → (s.die d).schedOn d = true → x.leaving = false →
      (s.die d).resident x = true → (s.die d).teamEarly x = true → (s.die d).makesWay d x = true →
      ∃ t z, exec (.sliceEnd d (2 ^ 32 * x.lid + x.t)) s = .next t ∧ (t.die d).sched.team x.lid x.t = some z ∧ z.leaving = true) ∧
    (∀ (s : State) (d : DieId), ∃ t ks, exec (.class0Preempt d) s = .next t ∧
      let y := s.die d
      (∀ k ∈ ks, bitAt (y.getReg d rC0RES) k.val = true ∧ y.bandOk d (bandOf k) = true) ∧
      (∀ x ∈ (t.die d).sched.teams, x.leaving = true → x ∈ y.sched.teams ∨ ((∃ k ∈ ks, k ∈ y.teamSlots x.lid x.t) ∧ ∀ l, y.sched.launch x.lid = some l → l.cls ≠ 0)) ∧
      (∀ x ∈ y.sched.teams, ∀ l, y.sched.launch x.lid = some l → (∃ k ∈ ks, k ∈ y.teamSlots x.lid x.t) → ∃ z, (t.die d).sched.team x.lid x.t = some z ∧ z.leaving = true) ∧
      (∀ c used l b k0, bitAt (y.getReg d rC0RES) 63 = true → y.schedOn d = true → (y.waiting d).find? (fun c => c.1.cls == 0 && !c.1.early) = some (c, used) → y.sched.launch c.lid = some l →
        y.sched.team c.lid c.t = none → l.shape.val < 4 → l.zw = 0 → c.blks.length = 1 → (∀ x ∈ l.blks, c.blks.contains x.l = true → x.ctxs = []) → placement l.shape b = some k0 →
        (∀ k ∈ k0, bitAt (y.getReg d rC0RES) k.val = true ∧ y.bandOk d (bandOf k) = true ∧ k ∉ used) →
        (∀ x ∈ y.sched.teams, (∃ k ∈ k0, k ∈ y.teamSlots x.lid x.t) → ∀ l, y.sched.launch x.lid = some l → l.cls ≠ 0) → ∃ b, placement l.shape b = some ks))) ∧
  (∀ (s : State) (d : DieId) (x : Team) (l : Launch) (j : SlotId), x.t < 2 ^ 32 → (s.die d).sched.team x.lid x.t = some x → (s.die d).sched.launch x.lid = some l → (s.die d).schedOn d = true → x.leaving = true →
      let n := 2 ^ 32 * x.lid + x.t
      let ks := l.teamSlots x.t
      let bs := (l.teamBlks x.t).filter fun b => !b.slots.isEmpty
      let gone (t : State) : Prop := (∀ z ∈ (t.die d).sched.teams, ¬ (z.lid = x.lid ∧ z.t = x.t)) ∧ (t.die d).sched.sq = (s.die d).sched.sq ++ [(x.lid, x.t)]
      (x.freed = none → (∃ k ∈ ks, ∃ i : Fin 7, i.val < 6 ∧ vget (s.slot d k).acked i = false) → exec (.preemptionComplete d n j .ok) s = .next s) ∧
      (x.freed ≠ none → (s.die d).collQuiet d = false → exec (.preemptionComplete d n j .ok) s = .next s) ∧
      (let out := (l.teamBlks x.t).filter fun b => b.st == .swapped
       x.freed ≠ none → out ≠ [] → (s.die d).collStopped d l out = true →
          ∃ t, exec (.preemptionComplete d n j .ok) s = .next t ∧ gone t) ∧
      (x.freed = none → (∀ k ∈ ks, (∀ i : Fin 7, i.val < 6 → vget (s.slot d k).acked i = true) ∧ (s.slot d k).heldBy 7 = false) →
        (∀ y u, saveTeam d l x bs (s.die d) = .ok y u → y.sched = (s.die d).sched → y.coe = (s.die d).coe → y.held = (s.die d).held →
          ∃ t, exec (.preemptionComplete d n j .ok) s = .next t ∧
            (bs ≠ [] → (s.die d).collQuiet d = true → (∀ i c, vget (s.die d).coe.ctx i = some c → c.run = none) → (s.die d).coe.run = none → gone t) ∧
            ((s.die d).collQuiet d = false → ∃ z, (t.die d).sched.team x.lid x.t = some z ∧ z.freed = some ks ∧ z.leaving = true ∧ (t.die d).sched.sq = (s.die d).sched.sq) ∧
            (∀ k ∈ ks, (t.ctl d k).own = none ∧ (t.die d).layOf k = Lay.none) ∧
            ∀ b ∈ bs, ∃ l' b', (t.die d).sched.launch l.id = some l' ∧ l'.blk b.l = some b' ∧ b'.slots = [] ∧ b'.st = .swapped) ∧
        (∀ y c a b k, saveTeam d l x bs (s.die d) = .fault y c a → l.areaBlk bs a = some b → b.slots.getD 0 0 = k → (y.slot k).heldBy 7 = false →
          HeldFault (exec (.preemptionComplete d n j .ok) s) d k 7 29 (BitVec.ofNat 64 a) 0)))

/-- An engine acknowledges at its stop unit, and releases the pins of the rows fetched for it; before, nothing changes. A load, store or arithmetic entry that is at work and waits for no row is not at its stop; a load that waits for room in its queue, or is held with rows it cannot write, goes back to the oldest row it has not pushed (log entry 79, DEDUCED). A control core with nothing under way acknowledges, and the slot's other agents stand asked (log entry 80). A chained drain that no credit lets go on is at its stop (R380). The collective engine stops the contexts of the slot. A terminal fault stops its block, and, while `FLTQ.EN` is 0, any fault does: first every agent of its slots is asked; once all have acknowledged, the trap records go to the save area and the fault may be posted; a failing access of that save is a fault of code 29. Completion is the conclusion, under conditions on the state and the operands alone, for: ENGINE_STOP_ACK, TERMINAL_FAULT_STOP. -/
def Obligations.StopsAreAcknowledged : Prop :=
  (∀ (s : State) (d : DieId) (k : SlotId),
      (∀ e : SlotEng, e ≠ .mxe →
        let i : Fin 7 := ⟨engNum e % 7, Nat.mod_lt _ (by decide)⟩
        let acks (s : State) : State := s.modSlot d k fun t => { t with acked := vset t.acked i true, ports := t.ports.map fun p => p.releaseFor (engNum e) }
        (vget (s.slot d k).stop i = true → vget (s.slot d k).acked i = false → s.rowStop d k e = true →
          (e ≠ .lde ∨ (s.slot d k).agLde.asm = [] ∨ (s.slot d k).lde = none → exec (.engineStopAck d (.eng k e)) s = .next (acks s)) ∧
          ∀ r x rest, e = .lde → (s.slot d k).lde = some r → (s.slot d k).agLde.asm = x :: rest →
            exec (.engineStopAck d (.eng k e)) s = .next (acks (s.modSlot d k fun t => { t with lde := some { r with unit := x.key }, agLde := { t.agLde with asm := [] } }))) ∧
        (vget (s.slot d k).stop i = false ∨ s.rowStop d k e = false → exec (.engineStopAck d (.eng k e)) s = .next s) ∧
        (s.run ⟨d, .eng k e, 8⟩ = none → s.rowStop d k e = (s.die d).still d (.eng k e) false) ∧
        ∀ r, s.run ⟨d, .eng k e, 8⟩ = some r → r.part ≠ unchecked → (s.slot d k).heldBy (engNum e) = false → s.rowWaits ⟨d, .eng k e, 8⟩ r = false → (s.die d).queueWaits d k r = false →
          exec (.engineStopAck d (.eng k e)) s = .next s) ∧
      (vget (s.slot d k).stop 0 = true → vget (s.slot d k).acked 0 = false → (s.slot d k).agCtl.rd = [] → (s.slot d k).agCtl.pend = [] → (s.die d).held = [] → (s.slot d k).agCtl.sb = [] →
        exec (.engineStopAck d (.core k)) s = .next (s.modSlot d k fun t => { t with stop := .replicate 7 true, acked := vset t.acked 0 true })) ∧
      (∀ r, (s.die d).fragSlots ((s.die d).baseOf k) = [k] → (s.die d).baseOf k = k → vget (s.slot d k).stop 4 = true → vget (s.slot d k).acked 4 = false → (s.slot d k).mxe = some r →
        (s.die d).still d (.eng k .mxe) false = true → (s.die d).chainStalls k r = true → ∃ t, exec (.engineStopAck d (.eng k .mxe)) s = .next t ∧ vget (t.slot d k).acked 4 = true) ∧
      (vget (s.slot d k).stop 6 = true → vget (s.slot d k).acked 6 = false → (∀ x c, s.ctx d x = some c → c.slot = k → c.run = none) → (s.die d).coe.run = none → (s.die d).collQuiet d = true →
        (∀ j, j ≠ k → vget (s.slot d j).stop 6 = false) →
        ∃ t, exec (.engineStopAck d .coll) s = .next t ∧ vget (t.slot d k).acked 6 = true ∧ ∀ x c, s.ctx d x = some c → c.slot = k → (s.die d).ctxBound c = true → ∃ c', t.ctx d x = some c' ∧ c'.stopped = true)) ∧
  (∀ (s : State) (d : DieId) (l : Launch) (b : Blk) (k0 : SlotId) (ks : List SlotId), b.l < 2 ^ 32 → (s.die d).sched.launch l.id = some l → l.blk b.l = some b → b.slots = k0 :: ks →
      let n := 2 ^ 32 * l.id + b.l
      let ring := bitAt ((s.die d).getReg d rFLTQ) 63
      (b.halted = 0 → (∀ k ∈ b.slots, (s.slot d k).newStop ring = false) → exec (.terminalFaultStop d n) s = .next s) ∧
      (∀ k a p, k ∈ b.slots → a.val < 7 → vget (s.slot d k).flt a = some p → p.idx = none → p.r.rpl = false ∨ ring = false → (s.slot d k).newStop ring = true) ∧
      ((b.halted = 0 → (∃ k ∈ b.slots, (s.slot d k).newStop ring = true) → ∃ t l' b', exec (.terminalFaultStop d n) s = .next t ∧ SameMem s t ∧ (t.die d).sched.launch l.id = some l' ∧ l'.blk b.l = some b' ∧ b'.halted = 1 ∧
          ∀ k ∈ b.slots, vget (t.slot d k).stop 0 = true) ∧
        (b.halted = 1 → (∃ k ∈ b.slots, (s.slot d k).stoppedAll = false) → exec (.terminalFaultStop d n) s = .next s) ∧
        (b.halted = 1 → (∀ k ∈ b.slots, (s.slot d k).stoppedAll = true) → (s.slot d k0).heldBy 7 = false →
          ∀ y u, putImage d l.asid (l.saveAt b.l) (trapImage (s.die d) b) (s.die d) = .ok y u →
            exec (.terminalFaultStop d n) s = .next ((s.modDie d fun _ => y).modSched d fun q => q.modBlk l.id b.l fun x => { x with halted := 2 })) ∧
        (b.halted = 1 → (∀ k ∈ b.slots, (s.slot d k).stoppedAll = true) → (s.slot d k0).heldBy 7 = false →
          ∀ y c a, putImage d l.asid (l.saveAt b.l) (trapImage (s.die d) b) (s.die d) = .fault y c a → (y.slot k0).heldBy 7 = false →
            HeldFault (exec (.terminalFaultStop d n) s) d k0 7 29 (BitVec.ofNat 64 a) 0)))

/-! ## Faults, calls, invalidations as the driver sees them (R203, R358, R359, R365 to R368) -/

/-- The oldest fault that may be posted takes the ring's next free index: its 64 bytes stand there, `TAIL` is one further, and the index stays taken until `HEAD` has passed it and a response has named it. Without a free index, or with `FLTQ.EN` = 0, it waits. Responses: an index that is free or already answered is ignored. `CONT` for a replayable fault lets the agent go on, its failed rows to be fetched again, and frees the index; `SAVE` makes its team leave; `KILL` fails the node and frees the index it names, the others of the launch staying until a response names them, which then does nothing else (log entry 89, DEDUCED). A system call at the head of a store buffer, its release met, is posted at the ring's next free index and leaves the buffer, and waits while `SYSCQ.EN` is 0 (log entry 88, DEDUCED); a completion raises the semaphore it named by 1, once the stores of the system cores have been made, and another answer to the same index does nothing. Completion is the conclusion, under conditions on the state and the operands alone, for: SYSC_POST, FAULT_POST, FLTRESP_CONT, FLTRESP_SAVE, FLTRESP_KILL, SYSCDONE. -/
def Obligations.FaultsCallsAndResponses : Prop :=
  (∀ (s : State) (d : DieId), MemInv s →
      let y := s.die d
      let i : Byte := BitVec.ofNat 8 (y.rf d rFLTPTR 0 8)
      let at_ := (y.getReg d rFLTQ &&& bits 47 14).toNat + 64 * i.toNat
      (bitAt (y.getReg d rFLTQ) 63 = false ∨ y.fltFree i = false ∨ y.postable = [] → exec (.faultPost d) s = .next s) ∧
      (∀ k a x, bitAt (y.getReg d rFLTQ) 63 = true → y.fltFree i = true → y.postable = [x] → x.place = .slot k a →
        ∃ t, exec (.faultPost d) s = .next t ∧ (∀ j, memGet (t.die d).mem j = if at_ ≤ j ∧ j < at_ + 64 then x.flt.bytes.getD (j - at_) 0 else memGet y.mem j) ∧
          (t.die d).rf d rFLTPTR 0 8 = (i.toNat + 1) % 256 ∧ i ∈ (t.die d).fltUnread ∧ (t.die d).fltFree i = false ∧ ∀ p, vget (s.slot d k).flt a = some p → vget (t.slot d k).flt a = some { p with idx := some i })) ∧
  (∀ (s : State) (d : DieId) (i : Byte),
      ((∀ e ∈ (s.die d).ring, e.1 ≠ i.toNat) → exec (.fltrespCont d i) s = .next s ∧ exec (.fltrespSave d i) s = .next s ∧ exec (.fltrespKill d i) s = .next s) ∧
      (∀ o l b, (s.die d).ring.find? (fun e => e.1 == i.toNat) = some (i.toNat, o) → (s.die d).sched.launch o.lid = some l → l.blk o.blk = some b →
        (∀ k p, b.slots[o.sidx]? = some k → o.agent < 7 → vget (s.slot d k).flt (agNum o.agent) = some p → p.idx = some i →
          (p.r.rpl = true → l.st ≠ .failed → p.r.code ≠ 18 → b.halted = 0 → (s.ag d ((s.die d).agentOf k o.agent)).refused = [] → (s.ctl d k).act ≠ .faulted →
            exec (.fltrespCont d i) s = .next ((s.modDie d fun y => { y with ring := y.ring.filter fun e => e.1 != i.toNat }).modSlot d k fun t => { t with
              flt := vset t.flt (agNum o.agent) none, ports := t.ports.map fun p => p.refetch o.agent })) ∧
          (∀ x, l.st ≠ .failed → (s.die d).sched.team l.id (l.teamOf b.l) = some x → (s.die d).schedOn d = true →
            ∃ t z, exec (.fltrespSave d i) s = .next t ∧ (t.die d).sched.team l.id (l.teamOf b.l) = some z ∧ z.leaving = true ∧ (t.die d).ring = (s.die d).ring ∧
              vget (t.slot d k).flt (agNum o.agent) = some { p with kept := some 1 })) ∧
        (l.st = .active →
          ∃ t l', exec (.fltrespKill d i) s = .next t ∧ (t.die d).sched.launch l.id = some l' ∧ l'.st = .failed ∧ (∀ e ∈ (t.die d).ring, e.1 ≠ i.toNat) ∧ (∀ e ∈ (s.die d).ring, e.1 ≠ i.toNat → e ∈ (t.die d).ring) ∧
            ∀ e ∈ (t.die d).sched.cq ++ (t.die d).sched.sq, e.1 ≠ l.id) ∧
        (l.st = .failed → exec (.fltrespSave d i) s = .next s ∧ exec (.fltrespCont d i) s = .next (s.modDie d fun y => { y with ring := y.ring.filter fun e => e.1 != i.toNat }) ∧
          exec (.fltrespKill d i) s = .next (s.modDie d fun y => { y with ring := y.ring.filter fun e => e.1 != i.toNat })))) ∧
  ((∀ (s : State) (d : DieId) (k : SlotId) (arg : Word) (sem : Fin 32) (ps : Vector W32 6) (rest : List SbOp) (o : Owner) (l : Launch), MemInv s →
      (s.slot d k).agCtl.sb = .sysc arg sem ps :: rest → (s.ctl d k).own = some o → (s.die d).ownLaunch k = some l →
      let y := s.die d
      let i : Byte := BitVec.ofNat 8 (y.rf d rSYSCPTR 0 8)
      let at_ := (y.getReg d rSYSCQ &&& bits 47 13).toNat + 32 * i.toNat
      (relMet y k 2 ps [] = false → exec (.syscPost d k) s = .next s) ∧
      (s.muted d = false → bitAt (y.getReg d rSYSCQ) 63 = false ∨ y.callFree i = false → exec (.syscPost d k) s = .next s) ∧
      (relMet y k 2 ps [] = true → y.paired d = none → bitAt (y.getReg d rSYSCQ) 63 = true → y.callFree i = true →
        ∃ t, exec (.syscPost d k) s = .next t ∧ (t.slot d k).agCtl.sb = rest ∧ (t.die d).rf d rSYSCPTR 0 8 = (i.toNat + 1) % 256 ∧ (t.die d).calls = y.calls ++ [⟨i, o, k, sem⟩] ∧
          (∀ j, memGet (t.die d).mem j = if at_ ≤ j ∧ j < at_ + 32 then (callBytes l o k arg sem (y.tick d)).getD (j - at_) 0 else memGet y.mem j))) ∧
    (∀ (s : State) (d : DieId) (i : Byte) (c : Call) (l : Launch) (b : Blk) (k : SlotId), (s.die d).calls.find? (fun c => c.idx == i) = some c → (s.die d).sched.launch c.own.lid = some l → l.blk c.own.blk = some b →
      b.slots[c.own.sidx]? = some k → (s.die d).sysQuiet = true → ∃ t, exec (.syscdone d i) s = .next t ∧ vget (t.slot d k).sems c.sem = vget (s.slot d k).sems c.sem + 1 ∧ (∀ x ∈ (t.die d).calls, x.idx ≠ i) ∧ SameMem s t ∧
        (∀ j, j ≠ c.sem → vget (t.slot d k).sems j = vget (s.slot d k).sems j)) ∧
    (∀ (s : State) (d : DieId) (i : Byte), (s.die d).sysQuiet = false ∨ (∀ c ∈ (s.die d).calls, c.idx ≠ i) → exec (.syscdone d i) s = .next s))

/-! ## Strings, power, margins, refresh (R53 to R57, R328 to R340, R372, R384, R385, R396, R425) -/

/-- A cycle of a string: where the loads of its halves differ by more than 20 and one is idle, fog fills the idle half and no imbalance is left; where both are busy the string is divided by two. After 64 undivided cycles the mean is reported, and the division follows it: 39 W or more at ÷2 goes to ÷4, two windows of at most 20 W go back a step (that the report shows the division before the window's change, and that the low windows may lie within the 1,024 cycles, are the model's readings, log entry 90). Band power: `BEN` cleared makes every team with a slot of the band leave, unless the band holds class-0 slots; the switch opens once no slot of it is leased and no swap-out from it is under way, and the slots are then as at reset but for their counters and the numbering of their requests (log entry 93); `BEN` set and the switch closed, the band is on again. Completion is the conclusion, under conditions on the state and the operands alone, for: BALANCE_CONTROL, BIMB_WINDOW_END, TIMING_REPLAY, ASHAPE_CLEAR_BEN, ASHAPE_SET_BEN, BAND_POWER_OFF, BAND_POWER_ON. -/
def Obligations.StringsAndBands : Prop :=
  (∀ (s : State) (d : DieId) (b : Fin 4) (fails : Nat),
      let y := s.die d
      let x := vget y.bands b
      let kl := mkSlot (2 * b.val)
      let kr := mkSlot (2 * b.val + 1)
      let wl : Int := (y.slot kl).w
      let wr : Int := (y.slot kr).w
      let avg := x.sum.tdiv 64
      (y.bandOn d b = false ∨ x.cyc = 64 → exec (.balanceControl d b) s = .next s) ∧
      (y.bandOn d b = true → x.cyc ≠ 64 → x.phase % x.div = 0 →
        ∃ t, exec (.balanceControl d b) s = .next t ∧ (t.slot d kl).w = 0 ∧ (t.slot d kr).w = 0 ∧
          let z := vget (t.die d).bands b
          z.cyc = x.cyc + 1 ∧
          ((wl - wr).natAbs ≤ 20 → z.sum = x.sum + (wl - wr) ∧ z.fog = x.fog ∧ z.div = x.div) ∧
          (20 < (wl - wr).natAbs → wl = 0 ∨ wr = 0 → z.sum = x.sum ∧ z.fog = true ∧ z.div = x.div ∧ (t.die d).getReg d (rFOGCNT + 8 * b.val) = y.getReg d (rFOGCNT + 8 * b.val) + 1) ∧
          (20 < (wl - wr).natAbs → wl ≠ 0 → wr ≠ 0 → z.sum = x.sum + (wl - wr) ∧ z.fog = x.fog ∧ (x.div = 1 → z.div = 2))) ∧
      (x.cyc ≠ 64 → exec (.bimbWindowEnd d b) s = .next s) ∧
      (x.cyc = 64 → ∃ t, exec (.bimbWindowEnd d b) s = .next t ∧ SameMem s t ∧
        let z := vget (t.die d).bands b
        z.cyc = 0 ∧ z.sum = 0 ∧ z.fog = false ∧
        z.div = (if x.div = 2 ∧ 39 ≤ avg.natAbs then 4 else if x.div = 4 ∧ avg.natAbs ≤ 20 ∧ 1 ≤ x.low then 2 else if x.div = 2 ∧ avg.natAbs ≤ 20 ∧ 1 ≤ x.low ∧ 1024 ≤ x.divFor then 1 else x.div) ∧
        (t.die d).getReg d (rBIMB + 8 * b.val) = BitVec.ofNat 64 ((avg % 65536).toNat + 65536 * boolNat x.fog + 131072 * boolNat (x.div != 1))) ∧
      (∃ t, exec (.timingReplay d b fails) s = .next t ∧ SameMem s t ∧ (t.die d).getReg d (rTRPLCNT + 8 * b.val) = y.getReg d (rTRPLCNT + 8 * b.val) + BitVec.ofNat 64 (min fails 3) ∧
        (vget (t.die d).bands b).div = (if fails < 4 then x.div else max x.div 2) ∧ (4 ≤ fails → (t.die d).rf d (rMARG + 8 * b.val) 0 8 = 0))) ∧
  (∀ (s : State) (d : DieId) (b : Fin 4),
      let y := s.die d
      let kl := mkSlot (2 * b.val)
      let kr := mkSlot (2 * b.val + 1)
      let ben (z : Die) := z.rf d rASHAPE b.val 1
      (bitAt (y.getReg d rC0RES) 63 = true → bitAt (y.getReg d rC0RES) kl.val = true ∨ bitAt (y.getReg d rC0RES) kr.val = true → exec (.ashapeClearBen d b) s = .next s) ∧
      (bitAt (y.getReg d rC0RES) 63 = false → ∃ t, exec (.ashapeClearBen d b) s = .next t ∧ ben (t.die d) = 0 ∧
        (ben y ≠ 0 → y.schedOn d = true → ∀ x l, y.sched.team x.lid x.t = some x → y.sched.launch x.lid = some l → (∃ k ∈ l.teamSlots x.t, bandOf k = b) → (∀ z ∈ l.teamBlks x.t, z.res = []) → ∃ z, (t.die d).sched.team x.lid x.t = some z ∧ z.leaving = true)) ∧
      (∃ t, exec (.ashapeSetBen d b) s = .next t ∧ ben (t.die d) = 1 ∧ SameMem s t) ∧
      (ben y = 0 → y.bandOn d b = true → (∀ k, k = kl ∨ k = kr → (y.layOf k).v = false ∧ (y.slot k).ctl.own = none) → (∀ x ∈ y.sched.teams, ∀ ks, x.freed = some ks → kl ∉ ks ∧ kr ∉ ks) →
        ∃ t, exec (.bandPowerOff d b) s = .next t ∧ (t.die d).bandOn d b = false ∧ SameMem s t ∧ (vget (t.die d).bands b).div = 1 ∧
          ∀ k, k = kl ∨ k = kr → (t.slot d k).tiles = .replicate 16 Tile.fresh ∧ (t.slot d k).sems = .replicate 32 0 ∧ (t.slot d k).bank = Bank.fresh ∧ (t.slot d k).pmc = (y.slot k).pmc ∧ (t.slot d k).tlb = [] ∧ (t.slot d k).agCtl.sb = (y.slot k).agCtl.sb) ∧
      (ben y = 1 ∨ y.bandOn d b = false ∨ (y.layOf kl).v = true ∨ (y.layOf kr).v = true ∨ (∃ x ∈ y.sched.teams, ∃ ks, x.freed = some ks ∧ (kl ∈ ks ∨ kr ∈ ks)) → exec (.bandPowerOff d b) s = .next s) ∧
      (ben y = 1 → y.bandOn d b = false → ∃ t, exec (.bandPowerOn d b) s = .next t ∧ (t.die d).bandOn d b = true ∧ SameMem s t) ∧
      (ben y = 0 ∨ y.bandOn d b = true → exec (.bandPowerOn d b) s = .next s))

/-- A grant window ends once 10,000 ticks of it have gone: the grant level rises by one when the average exceeds the share and falls by one below 80 per cent of it; at 105 °C it is at least 2. A margin window ends once 2^20 ticks of it have gone, margining enabled and not held and the band on: the step rises by one in a window without corrected errors below its limit and falls by two at the threshold (with no error and a threshold of 0 it rises: the model's reading, log entry 91); calibration starts again at 0, with a new window. A bank's refresh rate follows its temperature; a row all free is left out. A scrub skips a line marked free and no other, one already poisoned neither: an error it meets is counted, and one that cannot be corrected poisons the line. Completion is the conclusion, under conditions on the state and the operands alone, for: SCRUB, GRANT_WINDOW_END, MARGIN_WINDOW_END, REFRESH_RATE_CHANGE, MARG_RECAL, DRAM_REFRESH. -/
def Obligations.LevelsFollowTheirWindows : Prop :=
  (∀ (s : State) (d : DieId) (w h : Nat), ((s.die d).grantAge < 10000 → exec (.grantWindowEnd d w h) s = .next s) ∧
    (10000 ≤ (s.die d).grantAge → ∃ t, exec (.grantWindowEnd d w h) s = .next t ∧ (t.die d).grantAge = 0 ∧
    let lvl := (s.die d).rf d rPGRANT 0 2
    let share := if (s.die d).rf d rPGRANT 4 1 = 1 then 325 else 450
    (t.die d).rf d rPGRANT 0 2 = (if 105 ≤ h then max lvl 2 else if share < w then min 3 (lvl + 1) else if w * 100 < share * 80 ∧ 0 < lvl then lvl - 1 else lvl) ∧
    (t.die d).rf d rPGRANT 2 1 = (if 105 ≤ h then 1 else if h < 100 then 0 else (s.die d).rf d rPGRANT 2 1))) ∧
  (∀ (s : State) (d : DieId) (b : Fin 4),
    let o := rMARG + 8 * b.val
    let step := (s.die d).rf d o 0 8
    let c := (vget (s.die d).bands b).ce
    let runs := (s.die d).bandOn d b = true ∧ (s.die d).rf d o 16 1 = 1 ∧ (s.die d).rf d o 18 1 = 0 ∧ 2 ^ 20 ≤ (vget (s.die d).bands b).mw
    (¬ runs → exec (.marginWindowEnd d b) s = .next s) ∧
    (runs → ∃ t, exec (.marginWindowEnd d b) s = .next t ∧ SameMem s t ∧ (vget (t.die d).bands b).ce = 0 ∧ (vget (t.die d).bands b).mw = 0 ∧
      (t.die d).rf d o 0 8 = (if c = 0 ∧ step < min 40 ((s.die d).rf d o 8 8) then step + 1
        else if (s.die d).rf d o 24 8 ≤ c then step - 2 else step)) ∧
    (∃ t, exec (.margRecal d b) s = .next t ∧ SameMem s t ∧ (t.die d).rf d o 0 8 = 0 ∧ (t.die d).rf d o 18 1 = 0 ∧ (vget (t.die d).bands b).ce = 0 ∧ (vget (t.die d).bands b).mw = 0)) ∧
  (∀ (s : State) (d : DieId) (bank : Fin 64) (temp : Nat), ∃ t, exec (.refreshRateChange d bank temp) s = .next t ∧ SameMem s t ∧ vget (t.die d).bankTemp bank = temp ∧
    (95 ≤ temp → vget (t.die d).bankRate bank = 3) ∧ (temp < 43 → vget (t.die d).bankRate bank = 0) ∧ (85 ≤ temp → temp < 93 → vget (t.die d).bankRate bank = 2) ∧ (45 ≤ temp → temp < 83 → vget (t.die d).bankRate bank = 1) ∧
    (∀ j, j ≠ bank → vget (t.die d).bankRate j = vget (s.die d).bankRate j)) ∧
  (∀ (s : State) (d : DieId) (row : Nat), ∃ t, exec (.dramRefresh d row) s = .next t ∧ SameMem s t ∧
    let skip := Config.dramRow row ≠ [] ∧ ∀ l ∈ Config.dramRow row, setHas (s.die d).free l = true
    (skip → (t.die d).getReg d rDRSKIP = (s.die d).getReg d rDRSKIP + 1 ∧ (t.die d).getReg d rDRREF = (s.die d).getReg d rDRREF) ∧
    (¬ skip → (t.die d).getReg d rDRREF = (s.die d).getReg d rDRREF + 1 ∧ (t.die d).getReg d rDRSKIP = (s.die d).getReg d rDRSKIP)) ∧
  (∀ (s : State) (d : DieId) (line : Nat) (e : StoreErr), ∃ t, exec (.scrub d line e) s = .next t ∧ SameMem s t ∧ (e = .ok → t = s) ∧ (setHas (s.die d).free line = true → t = s) ∧
    (∀ i, e = .corrected i → (s.die d).rf d rMEMCTL 1 1 ≠ 0 → setHas (s.die d).free line = false → isMem (128 * line) 128 = true → t = s.modDie d fun y => y.countCe d (storeIdx (128 * line) i)) ∧
    (∀ i, e = .uncorrectable i → (s.die d).rf d rMEMCTL 1 1 ≠ 0 → setHas (s.die d).free line = false → isMem (128 * line) 128 = true → setHas (t.die d).psn line = true))

/-! ## The register block and time (R3, R4, R312, R341, R343, R344, R349, R357, R360) -/

/-- A register write changes the fields software may write, clears the set bits of those it clears by writing one, and leaves the others. Writing a proof entry keeps its set bit and generation, and only a node that it lets leave `Early` has its records in memory changed; the base of the counter area is kept, and no write of it moves a counter or a byte of memory (log entry 125); a write at an offset that no rule names, 0xFF8, does nothing (DESIGN CHOICE, log entry 4); a kick, a category, the trace's enable, the clock's adjustment act as their events do. Completion is the conclusion, under conditions on the state and the operands alone, for: REGISTER_WRITE, PROOF_ENTRY_WRITE. -/
def Obligations.RegisterWrites : Prop :=
  ∀ (s : State) (d : DieId) (v : Word),
    let plain : List Nat := [rLEASERUN, rASIDBASE, rEXPBASE, rIMPBASE, rGRPBASE, rNFTCFG, rKBTO, rPROCBASE, rQUANT, rC0RES, rPGRAN, rVPOOL0, rVPOOL1, rXRING, rXPTR, rSYSCQ, rFLTQ, rPINTO, rPINST, rMEUEA, rMEMCTL, rSJBASE, rSCHERR]
    (∀ off ∈ plain, ∀ r, regDesc d off = some r → ∃ t, exec (.registerWrite d off v) s = .next t ∧ SameMem s t ∧
      (t.die d).getReg d off = (((s.die d).getReg d off &&& ~~~ r.rw) ||| (v &&& r.rw)) &&& ~~~ (v &&& r.w1c) ∧ ∀ o, o ≠ off → (t.die d).getReg d o = (s.die d).getReg d o) ∧
    (∀ q : BitVec 12, StoreInv s → exec (.registerWrite d (0x4000 + 8 * (q.toNat / 2) + 4) v) s = exec (.proofEntryWrite d (BitVec.ofNat 12 (2 * (q.toNat / 2) + 1)) (v.setWidth 32)) s ∧
      ∃ t, exec (.proofEntryWrite d q (v.setWidth 32)) s = .next t ∧ ((∀ l ∈ (s.die d).sched.launches, ∀ b ∈ l.blks, b.earl = false) → SameMem s t) ∧ (t.die d).proofAt q.toNat = (v.setWidth 32 &&& 0x8000FFFF#32) ∧
        ∀ p, p % 4096 ≠ q.toNat → (t.die d).proofAt p = (s.die d).proofAt p) ∧
    (∃ t, exec (.registerWrite d rPMBASE v) s = .next t ∧ ((t.die d).getReg d rPMBASE &&& (bits 63 63 ||| bits 47 12)) = v &&& (bits 63 63 ||| bits 47 12) ∧ (∀ o, o ≠ rPMBASE → (t.die d).getReg d o = (s.die d).getReg d o) ∧ SameMem s t ∧
      ∀ k, (t.slot d k).pmc = (s.slot d k).pmc) ∧
    exec (.registerWrite d 0x208 v) s = exec (.kickset d (v.setWidth 8)) s ∧ exec (.registerWrite d 0x708 v) s = exec (.tickadj d v) s ∧
    exec (.registerWrite d 0x428 v) s = exec (.xcat d (BitVec.ofNat 8 (fld v 8 8)) (v.setWidth 3)) s ∧ exec (.registerWrite d rTRCBASE v) s = exec (.trcbaseEnable d v) s ∧
    exec (.registerWrite d rRESYNC v) s = exec (.resync d v) s ∧
    (bitAt v 63 = true → exec (.registerWrite d 0x720 v) s = exec (.syscdone d (v.setWidth 8)) s ∧
      (fld v 8 2 = 0 → exec (.registerWrite d 0x810 v) s = exec (.fltrespCont d (v.setWidth 8)) s)) ∧
    exec (.registerWrite d 0xFF8 v) s = .next s

/-- Time: a reference period adds one to the count of every die, once no window of a die that runs has its end due (the four together, and time that stands until what is due has come, are the model's readings, log entry 96), and `TICKADJ` on d0 adds its value on all four while no scheduler is enabled. `XCAT` sets a category, and with 1 the entry mark. `TRCBASE.EN` newly set starts the wrap count at 0, and the resync record that it calls for is written, where the buffer lies in die memory (a record that reaches the buffer's end is a wrap; an `OFF` beyond the buffer's size counts modulo it, the model's choice, log entry 135). A breakpoint fires at or past its tick, once; one that stops the clocks leaves the die's state of that moment for the scan chains. The contact sheet holds the bytes of the moment of `GO` (log entry 94). Completion is the conclusion, under conditions on the state and the operands alone, for: RESYNC, CONTACT_SHEET_DONE, TICKADJ, XCAT, TRCBASE_ENABLE, BREAKPOINT_TICK, REFERENCE_TICK. -/
def Obligations.TimeAndBreakpoints : Prop :=
  (∀ s : State, ((∃ e, (s.die e).windowDue e = true) → exec .referenceTick s = .next s) ∧
    ((∀ e, (s.die e).windowDue e = false) → ∃ t, exec .referenceTick s = .next t ∧ (∀ d, t.tick d = s.tick d + 1) ∧
      ((∀ (e : DieId) (n : Fin 4), bitAt ((s.die e).getReg e (rBRKC + 16 * n.val)) 63 = false) → SameMem s t))) ∧
  (∀ (s : State) (v : Word), (∀ e, bitAt ((s.die e).getReg e rPROCBASE) 0 = false) → ∃ t, exec (.tickadj 0 v) s = .next t ∧ ∀ d, t.tick d = s.tick d + v) ∧
  (∀ (s : State) (d : DieId) (v : Word), d ≠ 0 ∨ (∃ e, bitAt ((s.die e).getReg e rPROCBASE) 0 = true) → exec (.tickadj d v) s = .next s) ∧
  (∀ (s : State) (d : DieId) (pid : Byte) (cat : BitVec 3), StoreInv s →
    (cat = 0 ∨ 4 < cat.toNat → exec (.xcat d pid cat) s = .next s) ∧
    (cat ≠ 0 → cat.toNat ≤ 4 → ∃ t, exec (.xcat d pid cat) s = .next t ∧ SameMem s t ∧ (t.die d).sched.catOf pid = cat ∧ (∀ q, q ≠ pid → (t.die d).sched.catOf q = (s.die d).sched.catOf q) ∧
      (cat = 1 → (t.die d).sched.markOf pid = (s.tick d, (s.die d).sched.accOf pid)))) ∧
  (∀ (s : State) (d : DieId) (v : Word), ∃ t, exec (.trcbaseEnable d v) s = .next t ∧
    let rw := bits 63 63 ||| bits 47 12 ||| bits 5 0
    ((bitAt v 63 = false ∨ bitAt ((s.die d).getReg d rTRCBASE) 63 = true) → (t.die d).getReg d rTRCBASE = ((s.die d).getReg d rTRCBASE &&& ~~~ rw) ||| (v &&& rw)) ∧
    (bitAt v 63 = true → bitAt ((t.die d).getReg d rTRCBASE) 63 = true) ∧
    (bitAt v 63 = true → bitAt ((s.die d).getReg d rTRCBASE) 63 = false →
      let z := fld v 0 6
      let sz := 2 ^ (if 12 ≤ z ∧ z ≤ 30 then z else 12)
      (t.die d).rf d rTRCPTR 32 32 = (if isDieMem ((v &&& bits 47 12).toNat + sz - 1) = true ∧ sz ≤ (s.die d).rf d rTRCPTR 0 32 % sz + 9 then 1 else 0))) ∧
  (∀ (s : State) (d : DieId) (n : Fin 4),
    let c := (s.die d).getReg d (rBRKC + 16 * n.val)
    let due := bitAt c 63 = true ∧ bitAt c 62 = true ∧ fld c 60 2 ≠ 3 ∧ ((s.die d).getReg d (rBRKV + 16 * n.val)).toNat ≤ ((s.die d).tick d).toNat
    (¬ due → exec (.breakpointTick d n) s = .next s) ∧
    (due → ∃ t, exec (.breakpointTick d n) s = .next t ∧ (t.die d).rf d (rBRKC + 16 * n.val) 63 1 = 0 ∧ (fld c 60 2 = 1 → (t.die d).gated = true ∧ vget t.shot d = some (t.die d)))) ∧
  (∀ (s : State) (d : DieId) (v : Word), MemInv s →
    (bitAt ((s.die d).getReg d rRESYNC) 62 = true → exec (.resync d v) s = .next s) ∧
    (bitAt ((s.die d).getReg d rRESYNC) 62 = false → bitAt v 63 = true → ∃ t, exec (.resync d v) s = .next t ∧ SameMem s t ∧ (t.die d).sheet = some ((v &&& bits 47 12).toNat, (t.die d).sheetBytes d) ∧
      bitAt ((t.die d).getReg d rRESYNC) 62 = true) ∧
    (∀ a bs, (s.die d).sheet = some (a, bs) → bs.length = 4096 → isDieMem (a + 4095) = true →
      ∃ t, exec (.contactSheetDone d) s = .next t ∧ bitAt ((t.die d).getReg d rRESYNC) 62 = false ∧ (t.die d).sheet = none ∧
        ∀ j, memGet (t.die d).mem j = if a ≤ j ∧ j < a + 4096 then bs.getD (j - a) 0 else memGet (s.die d).mem j) ∧
    ((s.die d).sheet = none → exec (.contactSheetDone d) s = .next s))

/-! ## Lost dies, ports, schedulers, pairs (R103, R353, R354, R404 to R407, R412 to R418, R421) -/

/-- A die that enters reset sends a notice behind whatever it has put on each of its two links; a die that the notice reaches loses it, and the neighbours forward it to the diagonal die. A link that fails makes its ends and the diagonal pairs across it lost to each other. A lost pair rejoins when both sides ask, once the links between them are trained: each sends its beat, and a beat's arrival, from either side, sets the counts to its own and the pair is no longer lost. Of the traffic left on a link trained again, either way, what is of a lost pair is gone but for rejoin beats. Completion is the conclusion, under conditions on the state and the operands alone, for: PIN_HOLD_TIMEOUT, LINK_LOST_NOTICE, LINK_RETRAIN_FAIL, REJOIN_BEAT, PEERST_REJOIN, PACKAGE_LINK_TRAINED. -/
def Obligations.LostDiesAndRejoins : Prop :=
  (∀ (s : State) (h : DieId),
    let e := mkDie (h.val + 1)
    let w := mkDie (h.val + 3)
    ∃ t, exec (.linkLostNotice h) s = .next t ∧ SameMem s t ∧ (t.die h).inReset = true ∧ vget t.east h = vget s.east h ++ [⟨h, e, .linkLost⟩] ∧ vget t.west w = vget s.west w ++ [⟨h, w, .linkLost⟩] ∧
      vget t.trained h = false ∧ vget t.trained w = false ∧ ∀ a b : DieId, (t.die a).isLost a b = (s.die a).isLost a b) ∧
  (∀ (s : State) (l : DieId) (east : Bool) (x : Hop) (rest : List Hop),
    let n := if east then mkDie (l.val + 1) else l
    (if east then vget s.east l else vget s.west l) = x :: rest → x.m = .linkLost → x.dst = n → x.src ≠ n → (s.die n).gated = false → (s.die n).inReset = false → (s.die n).isLost n x.src = false →
      ∃ t, exec (.linkForward l east) s = .next t ∧ (t.die n).isLost n x.src = true ∧
        (n ≠ mkDie (x.src.val + 2) → (⟨x.src, mkDie (x.src.val + 2), .linkLost⟩ : Hop) ∈ if east then vget t.east n else vget t.west (mkDie (l.val + 3)))) ∧
  (∀ (s : State) (l : DieId), (∀ e, (s.die e).gated = false) → ∃ t, exec (.linkRetrainFail l) s = .next t ∧ vget t.trained l = false ∧
    ∀ a b : Nat, (a = l.val ∧ b = l.val + 1 ∨ a = l.val ∧ b = l.val + 2 ∨ a = l.val + 3 ∧ b = l.val + 1) → (t.die (mkDie a)).isLost (mkDie a) (mkDie b) = true ∧ (t.die (mkDie b)).isLost (mkDie b) (mkDie a) = true) ∧
  (∀ (s : State) (d h : DieId) (mask : BitVec 4), h ≠ d → (∀ e : DieId, mask.getLsbD e.val = decide (e = h)) → (s.die d).isLost d h = true → (s.die d).gate.want.getLsbD h.val = false →
    (s.pathTrained d h = false → exec (.peerstRejoin d mask) s = .next s) ∧
    (s.pathTrained d h = true → ∃ t, exec (.peerstRejoin d mask) s = .next t ∧ SameMem s t ∧ (t.die d).gate.want.getLsbD h.val = true ∧
      ((s.die h).gate.want.getLsbD d.val = false → t.east = s.east ∧ t.west = s.west) ∧
      ((s.die h).gate.want.getLsbD d.val = true → ∀ a b : DieId, (a = d ∧ b = h) ∨ (a = h ∧ b = d) →
        (⟨a, b, .rejoin (vget (s.die a).gate.v a)⟩ : Hop) ∈ if b.val = (a.val + 3) % 4 then vget t.west b else vget t.east a))) ∧
  (∀ (s : State) (e h : DieId) (n : Nat) (rest : List Hop), vget s.east (mkDie (e.val + 3)) = ⟨h, e, .rejoin n⟩ :: rest →
    ∃ t, exec (.rejoinBeat e h) s = .next t ∧ vget t.east (mkDie (e.val + 3)) = rest ∧ (t.die e).isLost e h = false ∧ vget (t.die e).gate.g h = n ∧ vget (t.die e).gate.v h = n ∧ SameMem s t) ∧
  (∀ (s : State) (e h : DieId) (n : Nat) (rest : List Hop), vget s.west e = ⟨h, e, .rejoin n⟩ :: rest → (∀ x r m, vget s.east (mkDie (e.val + 3)) = x :: r → x ≠ ⟨h, e, .rejoin m⟩) →
    ∃ t, exec (.rejoinBeat e h) s = .next t ∧ vget t.west e = rest ∧ (t.die e).isLost e h = false ∧ vget (t.die e).gate.g h = n ∧ vget (t.die e).gate.v h = n ∧ SameMem s t) ∧
  (∀ (s : State) (l : DieId),
    let stays (x : Hop) : Prop := (∃ n, x.m = .rejoin n) ∨ (s.die x.src).isLost x.src x.dst = false ∧ (s.die x.dst).isLost x.dst x.src = false
    ∃ t, exec (.packageLinkTrained l) s = .next t ∧ t.dies = s.dies ∧ vget t.trained l = true ∧
      (∀ x, x ∈ vget t.east l ↔ x ∈ vget s.east l ∧ stays x) ∧ ∀ x, x ∈ vget t.west l ↔ x ∈ vget s.west l ∧ stays x) ∧
  (∀ (s : State) (d : DieId) (i : Nat) (h : Held) (w : Wr) (pa word : Nat) (seq : W32) (q : Bool), (s.die d).held[i]? = some h → h.op = .write [w] q word seq → w.p.loc = .here pa → w.data.length ≠ 0 →
    128 * (pa / 128) + 128 = 128 * ((pa + w.data.length - 1) / 128) + 128 → (s.die d).pinned (128 * (pa / 128)) 1 = true →
    let lim := (s.die d).rf d rPINTO 0 40
    let off := if 128 * (pa / 128) < vault1 then rPINST else rPINST + 8
    (lim = 0 ∨ ((s.die d).tick d - h.since).toNat ≤ lim ∨ bitAt ((s.die d).getReg d off) 63 = true → exec (.pinHoldTimeout d i) s = .next s) ∧
    (lim ≠ 0 → lim < ((s.die d).tick d - h.since).toNat → bitAt ((s.die d).getReg d off) 63 = false →
      exec (.pinHoldTimeout d i) s = .next (s.modDie d fun y => y.setReg off (BitVec.ofNat 64 (2 ^ 63 + 128 * (pa / 128))))))

/-- A stream whose port fails moves to the next enabled port; one whose messages have stayed unacknowledged for 2^26 ticks, and no other, is declared unreachable: it loses its requests, later ones are refused, and it starts again when a message of its die arrives (log entry 100). A scheduler core that fails leaves every die it carried without a carrier, and its notice goes out over its link; the next living core that has heard of it adopts it, or the one after where that has failed in turn (log entry 101). A store whose partner has not come for 2^20 ticks is a divergence. Completion is the conclusion, under conditions on the state and the operands alone, for: NFT_PORT_FAILOVER, NFT_UNREACHABLE, SCHEDULER_CORE_FAILURE, ADOPTION, PAIR_TIMEOUT, NFT_STREAM_RESTART, FABRIC_PORT_LINK_UP. -/
def Obligations.FailuresAreTakenOver : Prop :=
  (∀ (s : State) (d die : DieId) (pkg : BitVec 12) (f : Nat), (s.die d).portOf d pkg die = some f → f < 3 →
    ∃ t, exec (.nftPortFailover d pkg die) s = .next t ∧ SameMem s t ∧ (t.die d).rf d rNFTST f 1 = 0 ∧ ∀ g, (s.die d).enabledFrom d (f + 1) = some g → (t.die d).portOf d pkg die = some g) ∧
  (∀ (s : State) (d die : DieId) (pkg : BitVec 12), (s.die d).portOf d pkg die = none → exec (.nftPortFailover d pkg die) s = .next s) ∧
  (∀ (s : State) (d : DieId) (f : Fin 3), ∃ t, exec (.fabricPortLinkUp d f) s = .next t ∧ (t.die d).rf d rNFTST f.val 1 = 1 ∧ SameMem s t) ∧
  (∀ (s : State) (d die : DieId) (pkg : BitVec 12), let aged := ∃ x ∈ (s.die d).coe.streams, x.1 = (pkg, die) ∧ 2 ^ 26 ≤ ((s.die d).tick d - x.2).toNat
    (¬ aged ∨ (s.die d).coe.unreach.contains (pkg, die) = true → exec (.nftUnreachable d pkg die) s = .next s) ∧
    ((s.die d).coe.unreach.contains (pkg, die) = false → aged → ∃ t, exec (.nftUnreachable d pkg die) s = .next t ∧ SameMem s t ∧ (pkg, die) ∈ (t.die d).coe.unreach ∧ (∀ m, m ∈ (t.die d).coe.out ∨ m ∈ (t.die d).coe.outR → m.toDie pkg die = false) ∧
      ∀ c, ∀ p ∈ (t.ag d (.copy c)).pend, ∀ m va w q, p.op ≠ .fab pkg die m va w q)) ∧
  (∀ (s : State) (d h : DieId) (c : Fin 2) (pkg : BitVec 12) (m : FabMsg) (p : Piece) (word : Nat) (seq : W32), (s.die d).coe.unreach.contains (pkg, h) = true →
    let t := sendFab s d (.copy c) pkg h m p word seq
    (t.die d).coe.out = (s.die d).coe.out ∧ ∃ q ∈ (t.ag d (.copy c)).refused, q.op = .fab pkg h m p word seq) ∧
  (∀ (s : State) (d die : DieId) (pkg : BitVec 12), ∃ t, exec (.nftStreamRestart d pkg die) s = .next t ∧ SameMem s t ∧ (pkg, die) ∉ (t.die d).coe.unreach) ∧
  (∀ (s : State) (d : DieId), bitAt ((s.die d).getReg d rSCHST) 63 = false →
    ∃ t, exec (.schedulerCoreFailure d) s = .next t ∧ SameMem s t ∧ bitAt ((t.die d).getReg d rSCHST) 63 = true ∧ (bitAt ((s.die d).getReg d rSCHST) (56 + d.val) = true → bitAt ((s.die d).getReg d rSCHST) 62 = false → (t.die d).schedOn d = false) ∧ (t.die d).sched.pass = none ∧ vget t.east d = vget s.east d ++ [⟨d, mkDie (d.val + 1), .schedFail⟩] ∧
      ∀ k, bitAt ((s.die d).getReg d rSCHST) (56 + k.val) = true → bitAt ((t.die k).getReg k rSCHST) 62 = false) ∧
  (∀ (s : State) (d : DieId),
    let n1 := mkDie (d.val + 1)
    let n2 := mkDie (d.val + 2)
    let fails (c : DieId) : Prop := bitAt ((s.die c).getReg c rSCHST) 63 = true
    let lives (c : DieId) : Prop := ¬ fails c ∧ (s.die c).inReset = false ∧ (s.die c).gated = false ∧ (s.die d).isLost d c = false
    let knows (c x : DieId) : Prop := (s.die c).heard.getLsbD x.val = true
    (bitAt ((s.die d).getReg d rSCHST) 63 = false ∨ bitAt ((s.die d).getReg d rSCHST) 62 = true → exec (.adoption d) s = .next s) ∧
    (bitAt ((s.die d).getReg d rSCHST) 63 = true → bitAt ((s.die d).getReg d rSCHST) 62 = false → bitAt ((s.die d).getReg d rSJBASE) 63 = false → (s.die d).sched.cbuf = [] →
      (lives n1 → knows n1 d → ∃ t, exec (.adoption d) s = .next t ∧ ((∀ l ∈ (s.die d).sched.launches, l.untold = false ∧ ∀ b ∈ l.blks, b.earl = false) → SameMem s t) ∧ (t.die d).schedOn d = true ∧ (t.die d).rf d rSCHST 8 2 = n1.val ∧
        bitAt ((t.die n1).getReg n1 rSCHST) (56 + d.val) = true) ∧
      (fails n1 → lives n2 → knows n2 n1 → ∃ t, exec (.adoption d) s = .next t ∧ (t.die d).schedOn d = true ∧ (t.die d).rf d rSCHST 8 2 = n2.val) ∧
      (lives n1 → ¬ knows n1 d → exec (.adoption d) s = .next s) ∧ (¬ lives n1 → ¬ fails n1 ∨ ¬ lives n2 ∨ ¬ knows n2 n1 → exec (.adoption d) s = .next s))) ∧
  (∀ (s : State) (d : DieId),
    ((∀ x ∈ (s.die d).pair, ((s.die d).tick d - x.tick).toNat < 2 ^ 20) → exec (.pairTimeout d) s = .next s) ∧
    (∀ x, (s.die d).pair.find? (fun x => decide (2 ^ 20 ≤ ((s.die d).tick d - x.tick).toNat)) = some x → bitAt ((s.die d).getReg d rPAIRCTL) 62 = false →
      ∃ t, exec (.pairTimeout d) s = .next t ∧ bitAt ((t.die d).getReg d rPAIRCTL) 62 = true ∧ (t.die d).pair = [] ∧ (t.die d).getReg d rDTICK = (if x.prim then x.tick else (s.die d).tick d)))

/-! ## Reset, boot, the test port (R4, R8, R352, R355, R356, R405) -/

/-- What reset leaves of what the spec gives: each register of the register maps whose Reset column is not zero holds that value, and no agent of any die is running, held or has anything outstanding. (Which agents run after reset, the counters of the gate and the empty caches are the reset values named in log entries 8, 10 and 11.) The model's own storage form holds at reset (log entry 1). -/
def Obligations.ResetState : Prop :=
  (∀ d : DieId, let y := State.reset.die d
      (y.getReg d rLEASERUN = 63 ∧ y.getReg d rNFTCFG = 0x00008A60_00000000 ∧ y.getReg d rKBTO = 0x3B9ACA00 ∧ y.getReg d rQUANT = 250000
        ∧ y.getReg d rASHAPE = 0xF0F ∧ y.getReg d rPSCHED = 0xA4 ∧ y.getReg d rTRCBASE = 12 ∧ y.getReg d rXRING = 12 ∧ y.getReg d rPINTO = 0xF4240 ∧ y.getReg d rMEMCTL = 2)
      ∧ (∀ b : Fin 4, y.getReg d (rMARG + 8 * b.val) = 0x04001000 ∧ y.getReg d (rCECNT + 8 * b.val) = 0 ∧ y.getReg d (rFOGCNT + 8 * b.val) = 0)
      ∧ (y.getReg d rPROCBASE = 0 ∧ y.getReg d rASIDBASE = 0 ∧ y.getReg d rSYSCQ = 0 ∧ y.getReg d rFLTQ = 0 ∧ y.getReg d rPEERST = 0 ∧ y.getReg d rBOOTST = 0)
      ∧ (∀ k : SlotId, (vget y.lay k).v = false ∧ (y.slot k).ctl.act = .idle ∧ (∀ q, vget (y.slot k).q q = []) ∧ ∀ n, vget (y.slot k).flt n = none)
      ∧ (∀ a : Nat, memGet y.mem a = 0 ∧ y.poisoned a 1 = false)) ∧
  (StoreInv State.reset)

/-- Reset and boot: a package reset leaves every die with nothing running and the time at 0; a die's own reset leaves the others and its time as they were, and takes away what was on its way to or from it but for the notices of the reset (memory after reset is undefined: free bytes). A good image is loaded and starts the system cores at its entry, in machine mode (stage 5); a bad one is counted, one second later, in ticks that TICKADJ does not move, its fetch starts again (stage 2), and the fifth halts the die (stage 7) (log entries 97 and 99). d1 and d3 boot through the ROM of d0 and d2 (the model's reading, log entry 99). The test access port: each instruction selects its register and captures it; MREG makes the access shifted in with a system core's rights; RELEASE lets gated clocks run again; SCAN reads the selected chain of the state at the gated tick while the clocks are gated, and is a bypass otherwise (log entries 102 and 120). Completion is the conclusion, under conditions on the state and the operands alone, for: TAP_RESET, TAP_EXTEST, TAP_IDCODE, TAP_SAMPLE_PRELOAD, TAP_MREG, TAP_RELEASE, TAP_SCANSEL, TAP_SCAN, TAP_BYPASS, PACKAGE_RESET_RELEASE, BOOT_IMAGE_CHECK, BOOT_RETRY, DIE_RESET_RELEASE. -/
def Obligations.BootAndTestPort : Prop :=
  ((∀ s : State, ∃ t, exec .packageResetRelease s = .next t ∧ (∀ d, t.tick d = 0 ∧ (t.die d).inReset = false ∧ (t.die d).rf d rBOOTST 0 3 = 1 ∧ (t.die d).tap = (s.die d).tap ∧ memWf (t.die d).mem = true ∧ vget t.trained d = true ∧
      ∀ k, t.slot d k = Slot.reset) ∧ t.east = .replicate 4 [] ∧ t.west = .replicate 4 []) ∧
    (∀ (s : State) (d : DieId), ((s.die d).inReset = false → exec (.dieResetRelease d) s = .next s) ∧
      ((s.die d).inReset = true → ∃ t, exec (.dieResetRelease d) s = .next t ∧ (t.die d).inReset = false ∧ t.tick d = s.tick d ∧ (t.die d).tap = (s.die d).tap ∧ (∀ k, t.slot d k = Slot.reset) ∧ (∀ e, e ≠ d → t.die e = s.die e) ∧
        let stays (h : Hop) : Prop := h.dst ≠ d ∧ (h.src ≠ d ∨ h.m = .linkLost)
        ∀ l, (∀ h, h ∈ vget t.east l ↔ h ∈ vget s.east l ∧ stays h) ∧ ∀ h, h ∈ vget t.west l ↔ h ∈ vget s.west l ∧ stays h)) ∧
    (∀ (s : State) (d : DieId) (img : BootImg),
      let st := (s.die d).rf d rBOOTST 0 3
      let n := (s.die d).rf d rBOOTST 8 8
      let fetched := (s.die d).inReset = false ∧ st = 4 ∧ (s.die d).boot = some img
      (∀ good bs, (s.die d).inReset = true ∨ st ≠ 4 ∨ (s.die d).boot = none → exec (.bootImageCheck d good bs) s = .next s) ∧
      (∀ good bs, (s.die d).boot = some img → bs ≠ img.bytes ∨ good ≠ Config.imageGood d img → exec (.bootImageCheck d good bs) s = .next s) ∧
      (fetched → Config.imageGood d img = true → MemInv s → (∀ b ∈ img.bytes, ∀ c ∈ img.bytes, b.1 = c.1 → b = c) →
        ∃ t, exec (.bootImageCheck d true img.bytes) s = .next t ∧ (t.die d).rf d rBOOTST 0 3 = 5 ∧ (∀ n, vget (vget (t.die d).sysx n) 32 = img.entry ∧ vget (t.die d).sysMode n = 3) ∧
          (∀ b ∈ img.bytes, isDieMem b.1 = true → memGet (t.die d).mem b.1 = b.2) ∧ ∀ a, (∀ b ∈ img.bytes, b.1 ≠ a) → memGet (t.die d).mem a = memGet (s.die d).mem a) ∧
      (fetched → Config.imageGood d img = false →
        ∃ t, exec (.bootImageCheck d false img.bytes) s = .next t ∧ SameMem s t ∧ (t.die d).rf d rBOOTST 8 8 = (n + 1) % 256 ∧ (t.die d).rf d rBOOTST 0 3 = (if 5 ≤ n + 1 then 7 else 4) ∧ (t.die d).boot = none ∧ (t.die d).bootAge = 0) ∧
      let waited := (s.die d).inReset = false ∧ st = 4 ∧ (s.die d).boot = none ∧ 10 ^ 9 ≤ (s.die d).bootAge
      (waited → ∃ t, exec (.bootRetry d) s = .next t ∧ (t.die d).rf d rBOOTST 0 3 = 2 ∧ SameMem s t) ∧
      (¬ waited → exec (.bootRetry d) s = .next s))) ∧
  (∀ (s : State) (d : DieId) (dr : BitVec 82) (sel : Byte) (tdi : Bool),
      let tap (t : State) := (t.die d).tap
      let only (t : State) : Prop := ∀ e, t.die e = { s.die e with tap := (t.die e).tap }
      (∃ t, exec .tapReset s = .next t ∧ only t ∧ ∀ e, (t.die e).tap.st = .reset ∧ (t.die e).tap.ir = 1 ∧ (t.die e).tap.chain = 0) ∧
      (∃ t, exec (.tapExtest d) s = .next t ∧ only t ∧ (tap t).ir = 0 ∧ (tap t).dr.length = Config.boundaryLength) ∧
      (∃ t, exec (.tapSamplePreload d) s = .next t ∧ only t ∧ (tap t).ir = 2 ∧ (tap t).dr.length = Config.boundaryLength) ∧
      (∃ t, exec (.tapIdcode d) s = .next t ∧ only t ∧ (tap t).ir = 1 ∧ (tap t).dr = (List.range 32).map (BitVec.ofNat 32 (2 ^ 28 + 2 ^ 12 * (0x4A20 + d.val) + 2 * Config.jep106.toNat + 1)).getLsbD) ∧
      (∃ t, exec (.tapScansel d sel) s = .next t ∧ only t ∧ (tap t).ir = 0x22 ∧ (tap t).chain = sel) ∧
      (∃ t, exec (.tapBypass d tdi) s = .next t ∧ only t ∧ (tap t).ir = 0xFF ∧ (tap t).dr = [tdi]) ∧
      ((s.die d).gated = false → ∃ t, exec (.tapScan d) s = .next t ∧ only t ∧ (tap t).dr = [false]) ∧
      (∀ y, (s.die d).gated = true → vget s.shot d = some y → (tap s).chain = 10 → ∃ t, exec (.tapScan d) s = .next t ∧ only t ∧ (tap t).dr = ((List.range 4096).flatMap fun q => natLe 4 (y.proofAt q).toNat).flatMap fun b => (List.range 8).map b.getLsbD) ∧
      ((s.die d).gated = false → ∃ t, exec (.tapRelease d) s = .next t ∧ only t) ∧
      ((s.die d).gated = true → ∃ t, exec (.tapRelease d) s = .next t ∧ (t.die d).gated = false ∧ (bitAt ((s.die d).getReg d rTRCBASE) 63 = false → SameMem s t)) ∧
      ((tap s).mdone = true → dr.getLsbD 80 = true → (dr.extractLsb' 64 16).toNat ≠ 0x720 ∨ (s.die d).sysQuiet = true → ∃ u, exec (.tapMreg d dr) s = exec (.registerWrite d (dr.extractLsb' 64 16).toNat (dr.extractLsb' 0 64)) u ∧ only u ∧ (tap u).ir = 0x20) ∧
      (∀ v, (tap s).mdone = true → dr.getLsbD 80 = false → (s.die d).regVal d (dr.extractLsb' 64 16).toNat = some v → ∃ t, exec (.tapMreg d dr) s = .next t ∧ only t ∧ (tap t).mdata = v) ∧
      ((tap s).mdone = false → ∃ t, exec (.tapMreg d dr) s = .next t ∧ only t))

/-! ## The step, the encodings, the invariant (R106, R126, R131, R138 to R146) -/

/-- A step takes the head of the agenda and runs the instruction whose bytes lie where the agent it names goes on (R106, R132, R134): a header where no block is open, the next body or exit word of the open block, the next word of an engine's entry or of a collective context, an event (one of the driver once the die has booted, R355). With no agenda the next pick is free (log entry 2). Looking up a page may fill the translation cache of the slot, which is the state `y` that the fetch answers. -/
def Obligations.StepRunsTheDecodedWord : Prop :=
  (∀ (s : State) (d : DieId) (k : SlotId) (rest : List Pick), s.agenda = .core d k :: rest → coreRuns s d k = true →
    let u : State := { s with agenda := rest, cur := ⟨d, .core k, 8⟩ }
    let w := (s.die d).who (.core k) k
    (∀ y p i, (s.ctl d k).opn = none → (s.ctl d k).pc.toNat % 2 = 0 → dueFault s d k = none → breakHit s d k = none → ctlWord d (s.die d) w (s.ctl d k).pc.toNat = .ok y p →
      decodeHeader true (p.2 ++ p.1) = .ok i → step s = exec i (u.modDie d fun _ => y))
    ∧ (∀ o y p, (s.ctl d k).opn = some o → o.phase = .body → o.badBy o.pos = false → ctlWord d (s.die d) w o.here.toNat = .ok y p →
      step s = match bodyInstr p with
        | some i => exec i (u.modDie d fun _ => y)
        | none => .next (badFault (u.modDie d fun _ => y) d k o o.pos))
    ∧ (∀ o n y p i, (s.ctl d k).opn = some o → o.phase = .exits n → o.badBy (2 + o.len + 2 * n) = false → ctlWord d (s.die d) w (o.at_ (2 + o.len + 2 * n)).toNat = .ok y p →
      decodeExit (p.2 ++ p.1) = .ok i → step s = exec i (u.modDie d fun _ => y)))
  ∧ (∀ (s : State) (d : DieId) (a : Agent) (rest : List Pick) (r : Run) (n : Nat) (i : Instr), s.agenda = .eng d a :: rest →
      (s.die d).curRun ⟨d, a, 8⟩ = some r → (s.die d).alive = true → (s.die d).entryGoes ⟨d, a, 8⟩ r = true → r.code[r.pos]? = some (n, i) →
      step s = exec i { s with agenda := rest, cur := ⟨d, a, 8⟩ })
  ∧ (∀ (s : State) (d : DieId) (x : Fin 9) (rest : List Pick) (r : Run) (n : Nat) (i : Instr), s.agenda = .ctx d x :: rest →
      (s.die d).curRun ⟨d, .coll, x⟩ = some r → (s.die d).alive = true → (s.die d).entryGoes ⟨d, .coll, x⟩ r = true → r.code[r.pos]? = some (n, i) →
      step s = exec i { s with agenda := rest, cur := ⟨d, .coll, x⟩ })
  ∧ (∀ (s : State) (i : Instr) (rest : List Pick), s.agenda = .event i :: rest → isWord i = false → (unclocked i = true ∨ (s.die (eventDie i)).alive = true ∧ (driverEvent i = true → (s.die (eventDie i)).stage (eventDie i) 5 = true)) →
      step s = exec i { s with agenda := rest })
  ∧ (∀ s : State, s.agenda = [] → step s = step { s with agenda := [Config.freePick s.draws], draws := s.draws + 1 })

/-- Words written out in the spec beside their derivation, or put together from its encoding tables, and the instructions they stand for: headers and exits (R129, R136), compact and 32-bit control words (R128, R140), and words of the engines with their prefixes (R143, R144). -/
def Obligations.DecodeWords : Prop :=
  (decodeHeader true 0x014017F3#32 = .ok (.blockHeader ⟨5, 1, 1⟩) ∧ decodeHeader true 0x004003D3#32 = .ok (.switchPointHeader ⟨1, 0⟩)
    ∧ decodeExit 0xFFF007E3#32 = .ok (.relativeExit ⟨0x7FF80, 1, false⟩) ∧ decodeExit 0x000003EB#32 = .ok (.jumpExit ⟨0, 0, false⟩))
  ∧ (decodeCtl16 0x0002#16 = .ok .nop ∧ decodeCtl16 0x2824#16 = .ok (.cLi ⟨5, 1⟩))
  ∧ (decodeCtl32 0x2891A483#32 = .ok (.lui ⟨5, 0x2469, 0⟩) ∧ decodeCtl32 0x207FF833#32 = .ok (.addi ⟨4, false, 3, 0x7FE, 0⟩)
    ∧ decodeCtl32 0x284028B3#32 = .ok (.cmpi ⟨1, 2, false, 4, 10, 0⟩) ∧ decodeCtl32 0x1882A8D3#32 = .ok (.csel ⟨3, false, 4, false, 5, 2, true, 0⟩)
    ∧ decodeCtl32 0x30E45603#32 = .ok (.amoadd ⟨6, false, 7, false, 8, true, 1, 1, 0⟩) ∧ decodeCtl32 0x00003683#32 = .ok (.fenceRel ⟨3, 0⟩)
    ∧ decodeCtl32 0x483FE123#32 = .ok (.ldw ⟨9, false, 1, 0x7F8, 0⟩) ∧ decodeCtl32 0x0830A193#32 = .ok (.sth ⟨false, 2, false, 3, 40, 0⟩)
    ∧ decodeCtl32 0x020C2AC3#32 = .ok (.enqMxe ⟨0x02, 0x0C, 5, false, 0⟩) ∧ decodeCtl32 0x20014373#32 = .ok (.csrr ⟨4, 0x50, 0⟩))
  ∧ readAt (.body .lde) [0x00F1, 0x8813, 0x2000] = .ok (.ldr ⟨[⟨0, 15, 0⟩], none, 4, false, 0, false, 1, 2, 0⟩, [])
  ∧ readAt (.body .ste) [0x0035, 0x8833, 0x0040] = .ok (.strec ⟨[⟨0, 3, 1⟩], none, 0, false, 2, false, 1, 2, 0⟩, [])
  ∧ readAt (.body .are) [0x0082, 0x0843, 0x1821] = .ok (.fma ⟨[], some ⟨0, false, false, false, 4, 0⟩, 3, false, 1, false, 2, 2, 0⟩, [])
  ∧ readAt (.body .mxe) [0x0011, 0x0015, 0x8843, 0xC040] = .ok (.mmul ⟨[⟨0, 1, 0⟩, ⟨0, 1, 1⟩], none, 24, false, 2, false, 1, 2, 0⟩, [])
  ∧ readAt (.body .cpe) [0x0043, 0x20A3] = .ok (.rwrite ⟨4, 5, 6, 0, 0⟩, [])
  ∧ readAt (.body .coe) [0xD053, 0x3082] = .ok (.kreq ⟨6, 4, 5, 20, 0⟩, [])

/-- Every well-formed instruction, encoded and read back at its place in the stream, gives itself, with every operand at every value (R126, R131, R138 to R143). -/
def Obligations.EncodingRoundTrip : Prop := ∀ i : Instr, Laws.Encoding.Statement i

/-- Whatever the decoder reads is well-formed, belongs at that place (the 16-bit no-operation belongs in every body), and encodes back to the very halfwords read: no two sequences of halfwords stand for one instruction, and no bit is ignored (R126, R138 to R143). -/
def Obligations.DecodedWordsEncodeBack : Prop :=
  ∀ (p : Sys2Proof.Place) (hs rest : List Half) (i : Instr), readAt p hs = .ok (i, rest) →
    i.wf = true ∧ (i.place = some p ∨ (i = .nop ∧ ∃ st, p = .body st)) ∧ ∃ e, encode i = some e ∧ hs = e ++ rest

/-- Every step keeps the memory of every die in canonical form (the model's own storage form, log entry 1), whatever it runs. Every step keeps every sparse store of the machine in canonical form: memories, proof tables, tiles, accumulators, weights and tables. -/
def Obligations.StoresStayCanonical : Prop :=
  (∀ s t : State, MemInv s → step s = .next t → MemInv t) ∧
  (∀ s t : State, StoreInv s → step s = .next t → StoreInv t)
end

