-- ==== Sys2Proof/Laws/Dispatch.lean ====
section
/-! SUPPORT. One equation per instruction: `exec` of a constructor is its meaning. -/

set_option Elab.async false

namespace Sys2Proof.Machine

theorem exec_blockHeader : ∀ h s, exec (.blockHeader h) s = execBlockHeader h s := fun _ _ => rfl
theorem exec_switchPointHeader : ∀ h s, exec (.switchPointHeader h) s = execSwitchPointHeader h s := fun _ _ => rfl
theorem exec_relativeExit : ∀ x s, exec (.relativeExit x) s = execRelativeExit x s := fun _ _ => rfl
theorem exec_jumpExit : ∀ x s, exec (.jumpExit x) s = execJumpExit x s := fun _ _ => rfl
theorem exec_callExit : ∀ x s, exec (.callExit x) s = execCallExit x s := fun _ _ => rfl
theorem exec_returnExit : ∀ x s, exec (.returnExit x) s = execReturnExit x s := fun _ _ => rfl
theorem exec_nop : ∀ s, exec (.nop) s = execNop s := fun _ => rfl
theorem exec_cAddi : ∀ o s, exec (.cAddi o) s = execCAddi o s := fun _ _ => rfl
theorem exec_cLi : ∀ o s, exec (.cLi o) s = execCLi o s := fun _ _ => rfl
theorem exec_cMv : ∀ o s, exec (.cMv o) s = execCMv o s := fun _ _ => rfl
theorem exec_cAdd : ∀ o s, exec (.cAdd o) s = execCAdd o s := fun _ _ => rfl
theorem exec_cSub : ∀ o s, exec (.cSub o) s = execCSub o s := fun _ _ => rfl
theorem exec_cAnd : ∀ o s, exec (.cAnd o) s = execCAnd o s := fun _ _ => rfl
theorem exec_cOr : ∀ o s, exec (.cOr o) s = execCOr o s := fun _ _ => rfl
theorem exec_cXor : ∀ o s, exec (.cXor o) s = execCXor o s := fun _ _ => rfl
theorem exec_add : ∀ o s, exec (.add o) s = execAdd o s := fun _ _ => rfl
theorem exec_sub : ∀ o s, exec (.sub o) s = execSub o s := fun _ _ => rfl
theorem exec_and : ∀ o s, exec (.and o) s = execAnd o s := fun _ _ => rfl
theorem exec_or : ∀ o s, exec (.or o) s = execOr o s := fun _ _ => rfl
theorem exec_xor : ∀ o s, exec (.xor o) s = execXor o s := fun _ _ => rfl
theorem exec_sll : ∀ o s, exec (.sll o) s = execSll o s := fun _ _ => rfl
theorem exec_srl : ∀ o s, exec (.srl o) s = execSrl o s := fun _ _ => rfl
theorem exec_sra : ∀ o s, exec (.sra o) s = execSra o s := fun _ _ => rfl
theorem exec_ror : ∀ o s, exec (.ror o) s = execRor o s := fun _ _ => rfl
theorem exec_min : ∀ o s, exec (.min o) s = execMin o s := fun _ _ => rfl
theorem exec_max : ∀ o s, exec (.max o) s = execMax o s := fun _ _ => rfl
theorem exec_minu : ∀ o s, exec (.minu o) s = execMinu o s := fun _ _ => rfl
theorem exec_maxu : ∀ o s, exec (.maxu o) s = execMaxu o s := fun _ _ => rfl
theorem exec_clz : ∀ o s, exec (.clz o) s = execClz o s := fun _ _ => rfl
theorem exec_ctz : ∀ o s, exec (.ctz o) s = execCtz o s := fun _ _ => rfl
theorem exec_popc : ∀ o s, exec (.popc o) s = execPopc o s := fun _ _ => rfl
theorem exec_sextw : ∀ o s, exec (.sextw o) s = execSextw o s := fun _ _ => rfl
theorem exec_zextw : ∀ o s, exec (.zextw o) s = execZextw o s := fun _ _ => rfl
theorem exec_mul : ∀ o s, exec (.mul o) s = execMul o s := fun _ _ => rfl
theorem exec_mulh : ∀ o s, exec (.mulh o) s = execMulh o s := fun _ _ => rfl
theorem exec_mulhu : ∀ o s, exec (.mulhu o) s = execMulhu o s := fun _ _ => rfl
theorem exec_mulhsu : ∀ o s, exec (.mulhsu o) s = execMulhsu o s := fun _ _ => rfl
theorem exec_div : ∀ o s, exec (.div o) s = execDiv o s := fun _ _ => rfl
theorem exec_divu : ∀ o s, exec (.divu o) s = execDivu o s := fun _ _ => rfl
theorem exec_rem : ∀ o s, exec (.rem o) s = execRem o s := fun _ _ => rfl
theorem exec_remu : ∀ o s, exec (.remu o) s = execRemu o s := fun _ _ => rfl
theorem exec_addi : ∀ o s, exec (.addi o) s = execAddi o s := fun _ _ => rfl
theorem exec_andi : ∀ o s, exec (.andi o) s = execAndi o s := fun _ _ => rfl
theorem exec_ori : ∀ o s, exec (.ori o) s = execOri o s := fun _ _ => rfl
theorem exec_xori : ∀ o s, exec (.xori o) s = execXori o s := fun _ _ => rfl
theorem exec_slli : ∀ o s, exec (.slli o) s = execSlli o s := fun _ _ => rfl
theorem exec_srli : ∀ o s, exec (.srli o) s = execSrli o s := fun _ _ => rfl
theorem exec_srai : ∀ o s, exec (.srai o) s = execSrai o s := fun _ _ => rfl
theorem exec_rori : ∀ o s, exec (.rori o) s = execRori o s := fun _ _ => rfl
theorem exec_lui : ∀ o s, exec (.lui o) s = execLui o s := fun _ _ => rfl
theorem exec_addpc : ∀ o s, exec (.addpc o) s = execAddpc o s := fun _ _ => rfl
theorem exec_cmp : ∀ o s, exec (.cmp o) s = execCmp o s := fun _ _ => rfl
theorem exec_cmpi : ∀ o s, exec (.cmpi o) s = execCmpi o s := fun _ _ => rfl
theorem exec_pand : ∀ o s, exec (.pand o) s = execPand o s := fun _ _ => rfl
theorem exec_por : ∀ o s, exec (.por o) s = execPor o s := fun _ _ => rfl
theorem exec_pxor : ∀ o s, exec (.pxor o) s = execPxor o s := fun _ _ => rfl
theorem exec_pandn : ∀ o s, exec (.pandn o) s = execPandn o s := fun _ _ => rfl
theorem exec_porn : ∀ o s, exec (.porn o) s = execPorn o s := fun _ _ => rfl
theorem exec_pnot : ∀ o s, exec (.pnot o) s = execPnot o s := fun _ _ => rfl
theorem exec_csel : ∀ o s, exec (.csel o) s = execCsel o s := fun _ _ => rfl
theorem exec_ldb : ∀ o s, exec (.ldb o) s = execLdb o s := fun _ _ => rfl
theorem exec_ldh : ∀ o s, exec (.ldh o) s = execLdh o s := fun _ _ => rfl
theorem exec_ldw : ∀ o s, exec (.ldw o) s = execLdw o s := fun _ _ => rfl
theorem exec_ldd : ∀ o s, exec (.ldd o) s = execLdd o s := fun _ _ => rfl
theorem exec_ldbu : ∀ o s, exec (.ldbu o) s = execLdbu o s := fun _ _ => rfl
theorem exec_ldhu : ∀ o s, exec (.ldhu o) s = execLdhu o s := fun _ _ => rfl
theorem exec_ldwu : ∀ o s, exec (.ldwu o) s = execLdwu o s := fun _ _ => rfl
theorem exec_stb : ∀ o s, exec (.stb o) s = execStb o s := fun _ _ => rfl
theorem exec_sth : ∀ o s, exec (.sth o) s = execSth o s := fun _ _ => rfl
theorem exec_stw : ∀ o s, exec (.stw o) s = execStw o s := fun _ _ => rfl
theorem exec_std : ∀ o s, exec (.std o) s = execStd o s := fun _ _ => rfl
theorem exec_amoadd : ∀ o s, exec (.amoadd o) s = execAmoadd o s := fun _ _ => rfl
theorem exec_amoand : ∀ o s, exec (.amoand o) s = execAmoand o s := fun _ _ => rfl
theorem exec_amoor : ∀ o s, exec (.amoor o) s = execAmoor o s := fun _ _ => rfl
theorem exec_amoxor : ∀ o s, exec (.amoxor o) s = execAmoxor o s := fun _ _ => rfl
theorem exec_amomin : ∀ o s, exec (.amomin o) s = execAmomin o s := fun _ _ => rfl
theorem exec_amomax : ∀ o s, exec (.amomax o) s = execAmomax o s := fun _ _ => rfl
theorem exec_amoswap : ∀ o s, exec (.amoswap o) s = execAmoswap o s := fun _ _ => rfl
theorem exec_amocas : ∀ o s, exec (.amocas o) s = execAmocas o s := fun _ _ => rfl
theorem exec_fenceAcq : ∀ o s, exec (.fenceAcq o) s = execFenceAcq o s := fun _ _ => rfl
theorem exec_fenceRel : ∀ o s, exec (.fenceRel o) s = execFenceRel o s := fun _ _ => rfl
theorem exec_fenceFull : ∀ o s, exec (.fenceFull o) s = execFenceFull o s := fun _ _ => rfl
theorem exec_enqLde : ∀ o s, exec (.enqLde o) s = execEnqLde o s := fun _ _ => rfl
theorem exec_enqAre : ∀ o s, exec (.enqAre o) s = execEnqAre o s := fun _ _ => rfl
theorem exec_enqSte : ∀ o s, exec (.enqSte o) s = execEnqSte o s := fun _ _ => rfl
theorem exec_enqMxe : ∀ o s, exec (.enqMxe o) s = execEnqMxe o s := fun _ _ => rfl
theorem exec_enqCpe : ∀ o s, exec (.enqCpe o) s = execEnqCpe o s := fun _ _ => rfl
theorem exec_enqCoe : ∀ o s, exec (.enqCoe o) s = execEnqCoe o s := fun _ _ => rfl
theorem exec_tsig : ∀ o s, exec (.tsig o) s = execTsig o s := fun _ _ => rfl
theorem exec_twait : ∀ o s, exec (.twait o) s = execTwait o s := fun _ _ => rfl
theorem exec_semset : ∀ o s, exec (.semset o) s = execSemset o s := fun _ _ => rfl
theorem exec_semadd : ∀ o s, exec (.semadd o) s = execSemadd o s := fun _ _ => rfl
theorem exec_semwait : ∀ o s, exec (.semwait o) s = execSemwait o s := fun _ _ => rfl
theorem exec_semwaitSusp : ∀ o s, exec (.semwaitSusp o) s = execSemwaitSusp o s := fun _ _ => rfl
theorem exec_pop : ∀ o s, exec (.pop o) s = execPop o s := fun _ _ => rfl
theorem exec_popNb : ∀ o s, exec (.popNb o) s = execPopNb o s := fun _ _ => rfl
theorem exec_mlease : ∀ o s, exec (.mlease o) s = execMlease o s := fun _ _ => rfl
theorem exec_mrlse : ∀ o s, exec (.mrlse o) s = execMrlse o s := fun _ _ => rfl
theorem exec_split : ∀ o s, exec (.split o) s = execSplit o s := fun _ _ => rfl
theorem exec_fuse : ∀ o s, exec (.fuse o) s = execFuse o s := fun _ _ => rfl
theorem exec_chain : ∀ o s, exec (.chain o) s = execChain o s := fun _ _ => rfl
theorem exec_unchain : ∀ o s, exec (.unchain o) s = execUnchain o s := fun _ _ => rfl
theorem exec_arv : ∀ o s, exec (.arv o) s = execArv o s := fun _ _ => rfl
theorem exec_wtb : ∀ o s, exec (.wtb o) s = execWtb o s := fun _ _ => rfl
theorem exec_publq : ∀ o s, exec (.publq o) s = execPublq o s := fun _ _ => rfl
theorem exec_hint : ∀ o s, exec (.hint o) s = execHint o s := fun _ _ => rfl
theorem exec_wpv : ∀ o s, exec (.wpv o) s = execWpv o s := fun _ _ => rfl
theorem exec_wpvSusp : ∀ o s, exec (.wpvSusp o) s = execWpvSusp o s := fun _ _ => rfl
theorem exec_susp : ∀ o s, exec (.susp o) s = execSusp o s := fun _ _ => rfl
theorem exec_csrr : ∀ o s, exec (.csrr o) s = execCsrr o s := fun _ _ => rfl
theorem exec_csrw : ∀ o s, exec (.csrw o) s = execCsrw o s := fun _ _ => rfl
theorem exec_sysc : ∀ o s, exec (.sysc o) s = execSysc o s := fun _ _ => rfl
theorem exec_trap : ∀ o s, exec (.trap o) s = execTrap o s := fun _ _ => rfl
theorem exec_eret : ∀ o s, exec (.eret o) s = execEret o s := fun _ _ => rfl
theorem exec_freeh : ∀ o s, exec (.freeh o) s = execFreeh o s := fun _ _ => rfl
theorem exec_tick : ∀ o s, exec (.tick o) s = execTick o s := fun _ _ => rfl
theorem exec_rfence : ∀ o s, exec (.rfence o) s = execRfence o s := fun _ _ => rfl
theorem exec_ldr : ∀ o s, exec (.ldr o) s = execLdr o s := fun _ _ => rfl
theorem exec_ldt : ∀ o s, exec (.ldt o) s = execLdt o s := fun _ _ => rfl
theorem exec_ldrec : ∀ o s, exec (.ldrec o) s = execLdrec o s := fun _ _ => rfl
theorem exec_ldx : ∀ o s, exec (.ldx o) s = execLdx o s := fun _ _ => rfl
theorem exec_ldsc : ∀ o s, exec (.ldsc o) s = execLdsc o s := fun _ _ => rfl
theorem exec_pcfg : ∀ o s, exec (.pcfg o) s = execPcfg o s := fun _ _ => rfl
theorem exec_pfx : ∀ o s, exec (.pfx o) s = execPfx o s := fun _ _ => rfl
theorem exec_ldv : ∀ o s, exec (.ldv o) s = execLdv o s := fun _ _ => rfl
theorem exec_str : ∀ o s, exec (.str o) s = execStr o s := fun _ _ => rfl
theorem exec_stt : ∀ o s, exec (.stt o) s = execStt o s := fun _ _ => rfl
theorem exec_strec : ∀ o s, exec (.strec o) s = execStrec o s := fun _ _ => rfl
theorem exec_stx : ∀ o s, exec (.stx o) s = execStx o s := fun _ _ => rfl
theorem exec_stsc : ∀ o s, exec (.stsc o) s = execStsc o s := fun _ _ => rfl
theorem exec_stv : ∀ o s, exec (.stv o) s = execStv o s := fun _ _ => rfl
theorem exec_publ : ∀ o s, exec (.publ o) s = execPubl o s := fun _ _ => rfl
theorem exec_areAdd : ∀ o s, exec (.areAdd o) s = execAreAdd o s := fun _ _ => rfl
theorem exec_areSub : ∀ o s, exec (.areSub o) s = execAreSub o s := fun _ _ => rfl
theorem exec_areMul : ∀ o s, exec (.areMul o) s = execAreMul o s := fun _ _ => rfl
theorem exec_fma : ∀ o s, exec (.fma o) s = execFma o s := fun _ _ => rfl
theorem exec_areMin : ∀ o s, exec (.areMin o) s = execAreMin o s := fun _ _ => rfl
theorem exec_areMax : ∀ o s, exec (.areMax o) s = execAreMax o s := fun _ _ => rfl
theorem exec_abs : ∀ o s, exec (.abs o) s = execAbs o s := fun _ _ => rfl
theorem exec_neg : ∀ o s, exec (.neg o) s = execNeg o s := fun _ _ => rfl
theorem exec_exp2 : ∀ o s, exec (.exp2 o) s = execExp2 o s := fun _ _ => rfl
theorem exec_log2 : ∀ o s, exec (.log2 o) s = execLog2 o s := fun _ _ => rfl
theorem exec_rcp : ∀ o s, exec (.rcp o) s = execRcp o s := fun _ _ => rfl
theorem exec_rsq : ∀ o s, exec (.rsq o) s = execRsq o s := fun _ _ => rfl
theorem exec_tanh : ∀ o s, exec (.tanh o) s = execTanh o s := fun _ _ => rfl
theorem exec_areCmp : ∀ o s, exec (.areCmp o) s = execAreCmp o s := fun _ _ => rfl
theorem exec_sel : ∀ o s, exec (.sel o) s = execSel o s := fun _ _ => rfl
theorem exec_redSum : ∀ o s, exec (.redSum o) s = execRedSum o s := fun _ _ => rfl
theorem exec_redMax : ∀ o s, exec (.redMax o) s = execRedMax o s := fun _ _ => rfl
theorem exec_redMin : ∀ o s, exec (.redMin o) s = execRedMin o s := fun _ _ => rfl
theorem exec_redSsq : ∀ o s, exec (.redSsq o) s = execRedSsq o s := fun _ _ => rfl
theorem exec_redAmax : ∀ o s, exec (.redAmax o) s = execRedAmax o s := fun _ _ => rfl
theorem exec_redqSum : ∀ o s, exec (.redqSum o) s = execRedqSum o s := fun _ _ => rfl
theorem exec_redqMax : ∀ o s, exec (.redqMax o) s = execRedqMax o s := fun _ _ => rfl
theorem exec_redqMin : ∀ o s, exec (.redqMin o) s = execRedqMin o s := fun _ _ => rfl
theorem exec_redqSsq : ∀ o s, exec (.redqSsq o) s = execRedqSsq o s := fun _ _ => rfl
theorem exec_redqAmax : ∀ o s, exec (.redqAmax o) s = execRedqAmax o s := fun _ _ => rfl
theorem exec_bcastRow : ∀ o s, exec (.bcastRow o) s = execBcastRow o s := fun _ _ => rfl
theorem exec_bcastElem : ∀ o s, exec (.bcastElem o) s = execBcastElem o s := fun _ _ => rfl
theorem exec_bcastScal : ∀ o s, exec (.bcastScal o) s = execBcastScal o s := fun _ _ => rfl
theorem exec_iota : ∀ o s, exec (.iota o) s = execIota o s := fun _ _ => rfl
theorem exec_trn : ∀ o s, exec (.trn o) s = execTrn o s := fun _ _ => rfl
theorem exec_shufPerm : ∀ o s, exec (.shufPerm o) s = execShufPerm o s := fun _ _ => rfl
theorem exec_shufRot : ∀ o s, exec (.shufRot o) s = execShufRot o s := fun _ _ => rfl
theorem exec_shufRev : ∀ o s, exec (.shufRev o) s = execShufRev o s := fun _ _ => rfl
theorem exec_cvt : ∀ o s, exec (.cvt o) s = execCvt o s := fun _ _ => rfl
theorem exec_qnt : ∀ o s, exec (.qnt o) s = execQnt o s := fun _ _ => rfl
theorem exec_dqt : ∀ o s, exec (.dqt o) s = execDqt o s := fun _ _ => rfl
theorem exec_areAnd : ∀ o s, exec (.areAnd o) s = execAreAnd o s := fun _ _ => rfl
theorem exec_areOr : ∀ o s, exec (.areOr o) s = execAreOr o s := fun _ _ => rfl
theorem exec_areXor : ∀ o s, exec (.areXor o) s = execAreXor o s := fun _ _ => rfl
theorem exec_not : ∀ o s, exec (.not o) s = execNot o s := fun _ _ => rfl
theorem exec_shl : ∀ o s, exec (.shl o) s = execShl o s := fun _ _ => rfl
theorem exec_shr : ∀ o s, exec (.shr o) s = execShr o s := fun _ _ => rfl
theorem exec_areSra : ∀ o s, exec (.areSra o) s = execAreSra o s := fun _ _ => rfl
theorem exec_mov : ∀ o s, exec (.mov o) s = execMov o s := fun _ _ => rfl
theorem exec_mldb : ∀ o s, exec (.mldb o) s = execMldb o s := fun _ _ => rfl
theorem exec_mcb : ∀ o s, exec (.mcb o) s = execMcb o s := fun _ _ => rfl
theorem exec_msemi : ∀ o s, exec (.msemi o) s = execMsemi o s := fun _ _ => rfl
theorem exec_mmul : ∀ o s, exec (.mmul o) s = execMmul o s := fun _ _ => rfl
theorem exec_mmulm : ∀ o s, exec (.mmulm o) s = execMmulm o s := fun _ _ => rfl
theorem exec_mzero : ∀ o s, exec (.mzero o) s = execMzero o s := fun _ _ => rfl
theorem exec_mdrain : ∀ o s, exec (.mdrain o) s = execMdrain o s := fun _ _ => rfl
theorem exec_copy : ∀ o s, exec (.copy o) s = execCopy o s := fun _ _ => rfl
theorem exec_copy2d : ∀ o s, exec (.copy2d o) s = execCopy2d o s := fun _ _ => rfl
theorem exec_fill : ∀ o s, exec (.fill o) s = execFill o s := fun _ _ => rfl
theorem exec_rwrite : ∀ o s, exec (.rwrite o) s = execRwrite o s := fun _ _ => rfl
theorem exec_mcast : ∀ o s, exec (.mcast o) s = execMcast o s := fun _ _ => rfl
theorem exec_ksend : ∀ o s, exec (.ksend o) s = execKsend o s := fun _ _ => rfl
theorem exec_krecv : ∀ o s, exec (.krecv o) s = execKrecv o s := fun _ _ => rfl
theorem exec_kwid : ∀ o s, exec (.kwid o) s = execKwid o s := fun _ _ => rfl
theorem exec_kadd : ∀ o s, exec (.kadd o) s = execKadd o s := fun _ _ => rfl
theorem exec_kreq : ∀ o s, exec (.kreq o) s = execKreq o s := fun _ _ => rfl
theorem exec_krel : ∀ o s, exec (.krel o) s = execKrel o s := fun _ _ => rfl
theorem exec_kbar : ∀ o s, exec (.kbar o) s = execKbar o s := fun _ _ => rfl
theorem exec_kabs : ∀ o s, exec (.kabs o) s = execKabs o s := fun _ _ => rfl
theorem exec_kframe : ∀ o s, exec (.kframe o) s = execKframe o s := fun _ _ => rfl
theorem exec_blockCommit : ∀ d k s, exec (.blockCommit d k) s = execBlockCommit d k s := fun _ _ _ => rfl
theorem exec_runAheadMispredict : ∀ d k s, exec (.runAheadMispredict d k) s = execRunAheadMispredict d k s := fun _ _ _ => rfl
theorem exec_blockWaitMet : ∀ d k s, exec (.blockWaitMet d k) s = execBlockWaitMet d k s := fun _ _ _ => rfl
theorem exec_readStep : ∀ d a e s, exec (.readStep d a e) s = execReadStep d a e s := fun _ _ _ _ => rfl
theorem exec_drainStep : ∀ d a e s, exec (.drainStep d a e) s = execDrainStep d a e s := fun _ _ _ _ => rfl
theorem exec_heldWriteApply : ∀ d i s, exec (.heldWriteApply d i) s = execHeldWriteApply d i s := fun _ _ _ => rfl
theorem exec_linkForward : ∀ l east s, exec (.linkForward l east) s = execLinkForward l east s := fun _ _ _ => rfl
theorem exec_gateWriteApply : ∀ h d e s, exec (.gateWriteApply h d e) s = execGateWriteApply h d e s := fun _ _ _ _ => rfl
theorem exec_gateReadPerform : ∀ h d e s, exec (.gateReadPerform h d e) s = execGateReadPerform h d e s := fun _ _ _ _ => rfl
theorem exec_gateBeat : ∀ h d s, exec (.gateBeat h d) s = execGateBeat h d s := fun _ _ _ => rfl
theorem exec_beat : ∀ d h s, exec (.beat d h) s = execBeat d h s := fun _ _ _ => rfl
theorem exec_reply : ∀ d h s, exec (.reply d h) s = execReply d h s := fun _ _ _ => rfl
theorem exec_publishInvalidation : ∀ h d s, exec (.publishInvalidation h d) s = execPublishInvalidation h d s := fun _ _ _ => rfl
theorem exec_requestResend : ∀ d h s, exec (.requestResend d h) s = execRequestResend d h s := fun _ _ _ => rfl
theorem exec_ticketCall : ∀ h s, exec (.ticketCall h) s = execTicketCall h s := fun _ _ => rfl
theorem exec_fabricWriteApply : ∀ d m s, exec (.fabricWriteApply d m) s = execFabricWriteApply d m s := fun _ _ _ => rfl
theorem exec_publishStep : ∀ d k s, exec (.publishStep d k) s = execPublishStep d k s := fun _ _ _ => rfl
theorem exec_pageWalk : ∀ d t va wr cached s, exec (.pageWalk d t va wr cached) s = execPageWalk d t va wr cached s := fun _ _ _ _ _ _ => rfl
theorem exec_entryStart : ∀ d a s, exec (.entryStart d a) s = execEntryStart d a s := fun _ _ _ => rfl
theorem exec_entryComplete : ∀ d a s, exec (.entryComplete d a) s = execEntryComplete d a s := fun _ _ _ => rfl
theorem exec_rowArrival : ∀ d k s, exec (.rowArrival d k) s = execRowArrival d k s := fun _ _ _ => rfl
theorem exec_storeRowRead : ∀ d k s, exec (.storeRowRead d k) s = execStoreRowRead d k s := fun _ _ _ => rfl
theorem exec_areRowStep : ∀ d k e s, exec (.areRowStep d k e) s = execAreRowStep d k e s := fun _ _ _ _ => rfl
theorem exec_portRowFetch : ∀ d k w e s, exec (.portRowFetch d k w e) s = execPortRowFetch d k w e s := fun _ _ _ _ _ => rfl
theorem exec_matrixPass : ∀ d k j e s, exec (.matrixPass d k j e) s = execMatrixPass d k j e s := fun _ _ _ _ _ => rfl
theorem exec_chainRowSend : ∀ d k s, exec (.chainRowSend d k) s = execChainRowSend d k s := fun _ _ _ => rfl
theorem exec_drainEvent : ∀ d k s, exec (.drainEvent d k) s = execDrainEvent d k s := fun _ _ _ => rfl
theorem exec_copyChunk : ∀ d c e s, exec (.copyChunk d c e) s = execCopyChunk d c e s := fun _ _ _ _ => rfl
theorem exec_switchReplicate : ∀ d s, exec (.switchReplicate d) s = execSwitchReplicate d s := fun _ _ => rfl
theorem exec_mcastLineArrival : ∀ d m s, exec (.mcastLineArrival d m) s = execMcastLineArrival d m s := fun _ _ _ => rfl
theorem exec_aggregatedAck : ∀ d c acc ref s, exec (.aggregatedAck d c acc ref) s = execAggregatedAck d c acc ref s := fun _ _ _ _ _ => rfl
theorem exec_mcastMemberTimeout : ∀ d c m s, exec (.mcastMemberTimeout d c m) s = execMcastMemberTimeout d c m s := fun _ _ _ _ => rfl
theorem exec_arrivalRecord : ∀ d k sc s, exec (.arrivalRecord d k sc) s = execArrivalRecord d k sc s := fun _ _ _ _ => rfl
theorem exec_popFill : ∀ d k q s, exec (.popFill d k q) s = execPopFill d k q s := fun _ _ _ _ => rfl
theorem exec_syscPost : ∀ d k s, exec (.syscPost d k) s = execSyscPost d k s := fun _ _ _ => rfl
theorem exec_frameEntry : ∀ d x s, exec (.frameEntry d x) s = execFrameEntry d x s := fun _ _ _ => rfl
theorem exec_stepStart : ∀ d x s, exec (.stepStart d x) s = execStepStart d x s := fun _ _ _ => rfl
theorem exec_stepComplete : ∀ d x s, exec (.stepComplete d x) s = execStepComplete d x s := fun _ _ _ => rfl
theorem exec_slipNotice : ∀ d grp delay s, exec (.slipNotice d grp delay) s = execSlipNotice d grp delay s := fun _ _ _ _ => rfl
theorem exec_frameQuery : ∀ d grp n id pkg src s, exec (.frameQuery d grp n id pkg src) s = execFrameQuery d grp n id pkg src s := fun _ _ _ _ _ _ _ => rfl
theorem exec_frameGrant : ∀ d id s, exec (.frameGrant d id) s = execFrameGrant d id s := fun _ _ _ => rfl
theorem exec_barrierArrival : ∀ d grp m gen s, exec (.barrierArrival d grp m gen) s = execBarrierArrival d grp m gen s := fun _ _ _ _ _ => rfl
theorem exec_barrierAbsence : ∀ d grp m s, exec (.barrierAbsence d grp m) s = execBarrierAbsence d grp m s := fun _ _ _ _ => rfl
theorem exec_barrierPresence : ∀ d grp m s, exec (.barrierPresence d grp m) s = execBarrierPresence d grp m s := fun _ _ _ _ => rfl
theorem exec_barrierTimeout : ∀ d x s, exec (.barrierTimeout d x) s = execBarrierTimeout d x s := fun _ _ _ => rfl
theorem exec_kickPass : ∀ d s, exec (.kickPass d) s = execKickPass d s := fun _ _ => rfl
theorem exec_fragmentLeaseGrant : ∀ d s, exec (.fragmentLeaseGrant d) s = execFragmentLeaseGrant d s := fun _ _ => rfl
theorem exec_pickUp : ∀ d k s, exec (.pickUp d k) s = execPickUp d k s := fun _ _ _ => rfl
theorem exec_fragmentGiveUp : ∀ d b s, exec (.fragmentGiveUp d b) s = execFragmentGiveUp d b s := fun _ _ _ => rfl
theorem exec_blockRetire : ∀ d b s, exec (.blockRetire d b) s = execBlockRetire d b s := fun _ _ _ => rfl
theorem exec_sliceEnd : ∀ d t s, exec (.sliceEnd d t) s = execSliceEnd d t s := fun _ _ _ => rfl
theorem exec_class0Preempt : ∀ d s, exec (.class0Preempt d) s = execClass0Preempt d s := fun _ _ => rfl
theorem exec_engineStopAck : ∀ d a s, exec (.engineStopAck d a) s = execEngineStopAck d a s := fun _ _ _ => rfl
theorem exec_preemptionComplete : ∀ d t k e s, exec (.preemptionComplete d t k e) s = execPreemptionComplete d t k e s := fun _ _ _ _ _ => rfl
theorem exec_swapIn : ∀ d s, exec (.swapIn d) s = execSwapIn d s := fun _ _ => rfl
theorem exec_balanceControl : ∀ d b s, exec (.balanceControl d b) s = execBalanceControl d b s := fun _ _ _ => rfl
theorem exec_bimbWindowEnd : ∀ d b s, exec (.bimbWindowEnd d b) s = execBimbWindowEnd d b s := fun _ _ _ => rfl
theorem exec_timingReplay : ∀ d b fails s, exec (.timingReplay d b fails) s = execTimingReplay d b fails s := fun _ _ _ _ => rfl
theorem exec_faultPost : ∀ d s, exec (.faultPost d) s = execFaultPost d s := fun _ _ => rfl
theorem exec_terminalFaultStop : ∀ d b s, exec (.terminalFaultStop d b) s = execTerminalFaultStop d b s := fun _ _ _ => rfl
theorem exec_fltrespCont : ∀ d i s, exec (.fltrespCont d i) s = execFltrespCont d i s := fun _ _ _ => rfl
theorem exec_fltrespSave : ∀ d i s, exec (.fltrespSave d i) s = execFltrespSave d i s := fun _ _ _ => rfl
theorem exec_fltrespKill : ∀ d i s, exec (.fltrespKill d i) s = execFltrespKill d i s := fun _ _ _ => rfl
theorem exec_scrub : ∀ d line e s, exec (.scrub d line e) s = execScrub d line e s := fun _ _ _ _ => rfl
theorem exec_pinHoldTimeout : ∀ d i s, exec (.pinHoldTimeout d i) s = execPinHoldTimeout d i s := fun _ _ _ => rfl
theorem exec_linkLostNotice : ∀ h s, exec (.linkLostNotice h) s = execLinkLostNotice h s := fun _ _ => rfl
theorem exec_linkRetrainFail : ∀ l s, exec (.linkRetrainFail l) s = execLinkRetrainFail l s := fun _ _ => rfl
theorem exec_rejoinBeat : ∀ e h s, exec (.rejoinBeat e h) s = execRejoinBeat e h s := fun _ _ _ => rfl
theorem exec_nftPortFailover : ∀ d pkg die s, exec (.nftPortFailover d pkg die) s = execNftPortFailover d pkg die s := fun _ _ _ _ => rfl
theorem exec_nftUnreachable : ∀ d pkg die s, exec (.nftUnreachable d pkg die) s = execNftUnreachable d pkg die s := fun _ _ _ _ => rfl
theorem exec_schedulerCoreFailure : ∀ d s, exec (.schedulerCoreFailure d) s = execSchedulerCoreFailure d s := fun _ _ => rfl
theorem exec_adoption : ∀ d s, exec (.adoption d) s = execAdoption d s := fun _ _ => rfl
theorem exec_pairTimeout : ∀ d s, exec (.pairTimeout d) s = execPairTimeout d s := fun _ _ => rfl
theorem exec_grantWindowEnd : ∀ d watts hottest s, exec (.grantWindowEnd d watts hottest) s = execGrantWindowEnd d watts hottest s := fun _ _ _ _ => rfl
theorem exec_marginWindowEnd : ∀ d b s, exec (.marginWindowEnd d b) s = execMarginWindowEnd d b s := fun _ _ _ => rfl
theorem exec_refreshRateChange : ∀ d bank temp s, exec (.refreshRateChange d bank temp) s = execRefreshRateChange d bank temp s := fun _ _ _ _ => rfl
theorem exec_ashapeClearBen : ∀ d b s, exec (.ashapeClearBen d b) s = execAshapeClearBen d b s := fun _ _ _ => rfl
theorem exec_ashapeSetBen : ∀ d b s, exec (.ashapeSetBen d b) s = execAshapeSetBen d b s := fun _ _ _ => rfl
theorem exec_bandPowerOff : ∀ d b s, exec (.bandPowerOff d b) s = execBandPowerOff d b s := fun _ _ _ => rfl
theorem exec_bandPowerOn : ∀ d b s, exec (.bandPowerOn d b) s = execBandPowerOn d b s := fun _ _ _ => rfl
theorem exec_kickset : ∀ d i s, exec (.kickset d i) s = execKickset d i s := fun _ _ _ => rfl
theorem exec_tlbinvAll : ∀ d s, exec (.tlbinvAll d) s = execTlbinvAll d s := fun _ _ => rfl
theorem exec_tlbinvAsid : ∀ d asid s, exec (.tlbinvAsid d asid) s = execTlbinvAsid d asid s := fun _ _ _ => rfl
theorem exec_tlbinvVpn : ∀ d asid vpn s, exec (.tlbinvVpn d asid vpn) s = execTlbinvVpn d asid vpn s := fun _ _ _ _ => rfl
theorem exec_tlbinvDone : ∀ d s, exec (.tlbinvDone d) s = execTlbinvDone d s := fun _ _ => rfl
theorem exec_proofEntryWrite : ∀ d q v s, exec (.proofEntryWrite d q v) s = execProofEntryWrite d q v s := fun _ _ _ _ => rfl
theorem exec_syscdone : ∀ d i s, exec (.syscdone d i) s = execSyscdone d i s := fun _ _ _ => rfl
theorem exec_resync : ∀ d v s, exec (.resync d v) s = execResync d v s := fun _ _ _ => rfl
theorem exec_contactSheetDone : ∀ d s, exec (.contactSheetDone d) s = execContactSheetDone d s := fun _ _ => rfl
theorem exec_tickadj : ∀ d v s, exec (.tickadj d v) s = execTickadj d v s := fun _ _ _ => rfl
theorem exec_xcat : ∀ d pid cat s, exec (.xcat d pid cat) s = execXcat d pid cat s := fun _ _ _ _ => rfl
theorem exec_trcbaseEnable : ∀ d v s, exec (.trcbaseEnable d v) s = execTrcbaseEnable d v s := fun _ _ _ => rfl
theorem exec_margRecal : ∀ d b s, exec (.margRecal d b) s = execMargRecal d b s := fun _ _ _ => rfl
theorem exec_peerstRejoin : ∀ d mask s, exec (.peerstRejoin d mask) s = execPeerstRejoin d mask s := fun _ _ _ => rfl
theorem exec_registerWrite : ∀ d off v s, exec (.registerWrite d off v) s = execRegisterWrite d off v s := fun _ _ _ _ => rfl
theorem exec_breakpointTick : ∀ d n s, exec (.breakpointTick d n) s = execBreakpointTick d n s := fun _ _ _ => rfl
theorem exec_tapReset : ∀ s, exec (.tapReset) s = execTapReset s := fun _ => rfl
theorem exec_tapExtest : ∀ d s, exec (.tapExtest d) s = execTapExtest d s := fun _ _ => rfl
theorem exec_tapIdcode : ∀ d s, exec (.tapIdcode d) s = execTapIdcode d s := fun _ _ => rfl
theorem exec_tapSamplePreload : ∀ d s, exec (.tapSamplePreload d) s = execTapSamplePreload d s := fun _ _ => rfl
theorem exec_tapMreg : ∀ d dr s, exec (.tapMreg d dr) s = execTapMreg d dr s := fun _ _ _ => rfl
theorem exec_tapRelease : ∀ d s, exec (.tapRelease d) s = execTapRelease d s := fun _ _ => rfl
theorem exec_tapScansel : ∀ d sel s, exec (.tapScansel d sel) s = execTapScansel d sel s := fun _ _ _ => rfl
theorem exec_tapScan : ∀ d s, exec (.tapScan d) s = execTapScan d s := fun _ _ => rfl
theorem exec_tapBypass : ∀ d tdi s, exec (.tapBypass d tdi) s = execTapBypass d tdi s := fun _ _ _ => rfl
theorem exec_packageResetRelease : ∀ s, exec (.packageResetRelease) s = execPackageResetRelease s := fun _ => rfl
theorem exec_bootImageCheck : ∀ d g i s, exec (.bootImageCheck d g i) s = execBootImageCheck d g i s := fun _ _ _ _ => rfl
theorem exec_bootRetry : ∀ d s, exec (.bootRetry d) s = execBootRetry d s := fun _ _ => rfl
theorem exec_referenceTick : ∀ s, exec (.referenceTick) s = execReferenceTick s := fun _ => rfl
theorem exec_writeAcknowledgement : ∀ d h fab s, exec (.writeAcknowledgement d h fab) s = execWriteAcknowledgement d h fab s := fun _ _ _ _ => rfl
theorem exec_dieResetRelease : ∀ d s, exec (.dieResetRelease d) s = execDieResetRelease d s := fun _ _ => rfl
theorem exec_packageLinkTrained : ∀ l s, exec (.packageLinkTrained l) s = execPackageLinkTrained l s := fun _ _ => rfl
theorem exec_nftStreamRestart : ∀ d pkg die s, exec (.nftStreamRestart d pkg die) s = execNftStreamRestart d pkg die s := fun _ _ _ _ => rfl
theorem exec_fabricPortLinkUp : ∀ d f s, exec (.fabricPortLinkUp d f) s = execFabricPortLinkUp d f s := fun _ _ _ => rfl
theorem exec_dramRefresh : ∀ d row s, exec (.dramRefresh d row) s = execDramRefresh d row s := fun _ _ _ => rfl

end Sys2Proof.Machine
end

