-- ==== Sys2Proof/Laws/Memory.lean ====
section
/-! SUPPORT. Laws of vectors, sparse storage and memory: read after write, what a write leaves alone, and the canonical form. -/

namespace Sys2Proof.Machine

/-! ## Vectors -/

@[simp] theorem vget_vset_same {α : Type} {n : Nat} (v : Vector α n) (i : Fin n) (a : α) : vget (vset v i a) i = a :=
  Vector.getElem_set_self i.isLt
theorem vget_vset_ne {α : Type} {n : Nat} (v : Vector α n) {i j : Fin n} (h : i ≠ j) (a : α) : vget (vset v i a) j = vget v j := by
  have : i.val ≠ j.val := fun e => h (Fin.ext e)
  exact Vector.getElem_set_ne i.isLt j.isLt this
theorem vget_vset {α : Type} {n : Nat} (v : Vector α n) (i j : Fin n) (a : α) : vget (vset v i a) j = if i = j then a else vget v j := by
  split
  · next h => subst h; simp
  · next h => exact vget_vset_ne v h a
@[simp] theorem vget_vmod_same {α : Type} {n : Nat} (v : Vector α n) (i : Fin n) (f : α → α) : vget (vmod v i f) i = f (vget v i) := by
  simp [vmod]
theorem vget_vmod_ne {α : Type} {n : Nat} (v : Vector α n) {i j : Fin n} (h : i ≠ j) (f : α → α) : vget (vmod v i f) j = vget v j :=
  vget_vset_ne v h _
theorem vget_vmod {α : Type} {n : Nat} (v : Vector α n) (i j : Fin n) (f : α → α) : vget (vmod v i f) j = if i = j then f (vget v i) else vget v j :=
  vget_vset v i j _
@[simp] theorem vget_replicate {α : Type} {n : Nat} (a : α) (i : Fin n) : vget (Vector.replicate n a) i = a := by
  simp [vget, Vector.get]

/-! ## Sparse storage -/

theorem spGet_spSet {α : Type} [DecidableEq α] (z : α) (l : Sparse α) (h : spWf z l = true) (a : Nat) (v : α) (b : Nat) :
    spGet z (spSet z l a v) b = if b = a then v else spGet z l b := by
  induction l with
  | nil =>
    by_cases hv : v = z <;> by_cases hb : b = a
    · subst hb; simp [spSet, spGet, hv]
    · simp [spSet, spGet, hv, hb]
    · subst hb; simp [spSet, spGet, hv]
    · simp [spSet, spGet, hv, hb, Ne.symm hb]
  | cons e r ih =>
    obtain ⟨k, w⟩ := e
    have hr : spWf z r = true := by
      cases r with
      | nil => rfl
      | cons f r => simp only [spWf, Bool.and_eq_true] at h; exact h.2
    -- every later key lies above `k`
    have low : ∀ (r : Sparse α) (k : Nat) (w : α), spWf z ((k, w) :: r) = true → ∀ c, c ≤ k → c ≠ k → spGet z ((k, w) :: r) c = z := by
      intro r
      induction r with
      | nil => intro k w _ c _ hc; simp [spGet, Ne.symm hc]
      | cons f r ih =>
        obtain ⟨k', w'⟩ := f
        intro k w hw c hc hne
        simp only [spWf, Bool.and_eq_true, decide_eq_true_eq] at hw
        have := ih k' w' hw.2 c (by omega) (by omega)
        simp only [spGet] at this ⊢
        rw [if_neg (by omega)]
        exact this
    unfold spSet
    by_cases h1 : a < k
    · rw [if_pos h1]
      by_cases hv : v = z
      · rw [if_pos hv]
        by_cases hb : b = a
        · rw [if_pos hb, hb, hv]; exact low r k w h a (by omega) (by omega)
        · rw [if_neg hb]
      · rw [if_neg hv]
        by_cases hb : b = a
        · simp [spGet, hb]
        · rw [if_neg hb]; rw [spGet, if_neg (Ne.symm hb)]
    · rw [if_neg h1]
      by_cases h2 : a = k
      · subst h2
        rw [if_pos rfl]
        by_cases hv : v = z
        · rw [if_pos hv]
          by_cases hb : b = a
          · subst hb
            rw [if_pos rfl, hv]
            cases r with
            | nil => rfl
            | cons f r =>
              obtain ⟨k', w'⟩ := f
              simp only [spWf, Bool.and_eq_true, decide_eq_true_eq] at h
              exact low r k' w' h.2 b (by omega) (by omega)
          · rw [if_neg hb, spGet, if_neg (Ne.symm hb)]
        · rw [if_neg hv]
          by_cases hb : b = a
          · simp [spGet, hb]
          · rw [if_neg hb]; simp [spGet, Ne.symm hb]
      · rw [if_neg h2]
        by_cases hb : b = k
        · subst hb
          simp [spGet, Ne.symm h2]
        · simp only [spGet, if_neg (Ne.symm hb)]
          exact ih hr

theorem spWf_tail {α : Type} [DecidableEq α] {z : α} {e : Nat × α} {r : Sparse α} (h : spWf z (e :: r) = true) : spWf z r = true := by
  obtain ⟨k, w⟩ := e
  cases r with
  | nil => rfl
  | cons f r => simp only [spWf, Bool.and_eq_true] at h; exact h.2

/-- A nonempty canonical list: its head is no default, and everything after it is canonical with larger keys. -/
theorem spWf_cons {α : Type} [DecidableEq α] (z : α) (k : Nat) (w : α) (r : Sparse α) :
    spWf z ((k, w) :: r) = true ↔ w ≠ z ∧ spWf z r = true ∧ ∀ e ∈ r, k < e.1 := by
  induction r generalizing k w with
  | nil => simp [spWf]
  | cons f r ih =>
    obtain ⟨k', w'⟩ := f
    simp only [spWf, Bool.and_eq_true, decide_eq_true_eq, bne_iff_ne, List.mem_cons, forall_eq_or_imp]
    constructor
    · rintro ⟨⟨a, b⟩, c⟩
      exact ⟨a, c, b, fun e he => by have := ((ih k' w').mp c).2.2 e he; omega⟩
    · rintro ⟨a, c, b, _⟩
      exact ⟨⟨a, b⟩, c⟩

theorem spSet_mem {α : Type} [DecidableEq α] {z : α} {l : Sparse α} {a : Nat} {v : α} {e : Nat × α} (h : e ∈ spSet z l a v) :
    e.1 = a ∨ e ∈ l := by
  induction l with
  | nil =>
    unfold spSet at h
    split at h
    · simp at h
    · simp only [List.mem_singleton] at h; exact .inl (by rw [h])
  | cons f r ih =>
    obtain ⟨k, w⟩ := f
    unfold spSet at h
    split at h
    · split at h
      · exact .inr h
      · rcases List.mem_cons.mp h with h | h
        · exact .inl (by rw [h])
        · exact .inr h
    · split at h
      · split at h
        · exact .inr (List.mem_cons_of_mem _ h)
        · rcases List.mem_cons.mp h with h | h
          · exact .inl (by rw [h])
          · exact .inr (List.mem_cons_of_mem _ h)
      · rcases List.mem_cons.mp h with h | h
        · exact .inr (by rw [h]; exact List.mem_cons_self)
        · rcases ih h with h | h
          · exact .inl h
          · exact .inr (List.mem_cons_of_mem _ h)

/-- A write keeps the canonical form. -/
theorem spWf_spSet {α : Type} [DecidableEq α] (z : α) (l : Sparse α) (a : Nat) (v : α) (h : spWf z l = true) :
    spWf z (spSet z l a v) = true := by
  induction l with
  | nil => unfold spSet; split <;> simp_all [spWf]
  | cons f r ih =>
    obtain ⟨k, w⟩ := f
    have hc := (spWf_cons z k w r).mp h
    unfold spSet
    split
    · next h1 =>
      split
      · exact h
      · next hv =>
        exact (spWf_cons z a v _).mpr ⟨hv, h, fun e he => by
          rcases List.mem_cons.mp he with he | he
          · rw [he]; exact h1
          · have := hc.2.2 e he; omega⟩
    · next h1 =>
      split
      · next h2 =>
        split
        · exact hc.2.1
        · next hv => exact (spWf_cons z a v r).mpr ⟨hv, hc.2.1, fun e he => by have := hc.2.2 e he; omega⟩
      · next h2 =>
        exact (spWf_cons z k w _).mpr ⟨hc.1, ih hc.2.1, fun e he => by
          rcases spSet_mem he with he | he
          · omega
          · exact hc.2.2 e he⟩

theorem spWf_filter {α : Type} [DecidableEq α] (z : α) (p : Nat × α → Bool) (l : Sparse α) (h : spWf z l = true) :
    spWf z (l.filter p) = true := by
  induction l with
  | nil => rfl
  | cons f r ih =>
    obtain ⟨k, w⟩ := f
    have hc := (spWf_cons z k w r).mp h
    rw [List.filter_cons]
    split
    · exact (spWf_cons z k w _).mpr ⟨hc.1, ih hc.2.1, fun e he => hc.2.2 e (List.mem_of_mem_filter he)⟩
    · exact ih hc.2.1
theorem spWf_spErase {α : Type} [DecidableEq α] (z : α) (l : Sparse α) (a n : Nat) (h : spWf z l = true) : spWf z (spErase l a n) = true :=
  spWf_filter z _ l h

theorem spWf_spWrite {α : Type} [DecidableEq α] (z : α) (bs : List α) : ∀ (l : Sparse α) (a : Nat), spWf z l = true → spWf z (spWrite z l a bs) = true := by
  induction bs with
  | nil => intro l a h; exact h
  | cons b bs ih => intro l a h; exact ih _ _ (spWf_spSet z l a b h)

/-- A write of consecutive items replaces exactly those. -/
theorem spGet_spWrite {α : Type} [DecidableEq α] (z : α) (bs : List α) : ∀ (l : Sparse α) (a c : Nat), spWf z l = true →
    spGet z (spWrite z l a bs) c = if a ≤ c ∧ c < a + bs.length then bs.getD (c - a) z else spGet z l c := by
  induction bs with
  | nil => intro l a c _; rw [if_neg (by simp only [List.length_nil]; omega)]; rfl
  | cons b bs ih =>
    intro l a c h
    rw [spWrite, ih _ _ _ (spWf_spSet z l a b h), spGet_spSet z l h]
    by_cases h1 : c = a
    · subst h1
      rw [if_neg (by omega), if_pos rfl, if_pos ⟨Nat.le_refl _, by simp⟩]
      simp
    · by_cases h2 : a + 1 ≤ c ∧ c < a + 1 + bs.length
      · rw [if_pos h2, if_pos ⟨by omega, by simp only [List.length_cons]; omega⟩]
        have : c - a = (c - (a + 1)) + 1 := by omega
        rw [this]; simp
      · rw [if_neg h2, if_neg h1, if_neg (by simp only [List.length_cons]; omega)]

theorem spGet_filter {α : Type} (z : α) (p : Nat → Bool) (l : Sparse α) (c : Nat) :
    spGet z (l.filter fun e => p e.1) c = if p c then spGet z l c else z := by
  induction l with
  | nil => simp [spGet]
  | cons f r ih =>
    obtain ⟨k, w⟩ := f
    rw [List.filter_cons]
    by_cases hk : k = c
    · subst hk
      cases hp : p k <;> simp [spGet, hp, ih]
    · cases hp : p k <;> simp [spGet, hk, ih]

theorem spGet_spErase {α : Type} (z : α) (l : Sparse α) (a n c : Nat) :
    spGet z (spErase l a n) c = if a ≤ c ∧ c < a + n then z else spGet z l c := by
  have := spGet_filter z (fun k => !(a ≤ k && k < a + n)) l c
  unfold spErase
  rw [this]
  by_cases h1 : a ≤ c <;> by_cases h2 : c < a + n <;> simp [h1, h2]

/-! ## Memory of a die -/

/-- `poke` keeps memory canonical. -/
theorem memWf_poke (d : Die) (a : Nat) (bs : List Byte) (psn : Bool) (h : memWf d.mem = true) : memWf (d.poke a bs psn).mem = true :=
  spWf_spWrite 0 bs d.mem a h
/-- `poke` writes its bytes and no other. -/
theorem memGet_poke (d : Die) (a : Nat) (bs : List Byte) (psn : Bool) (c : Nat) (h : memWf d.mem = true) :
    memGet (d.poke a bs psn).mem c = if a ≤ c ∧ c < a + bs.length then bs.getD (c - a) 0 else memGet d.mem c :=
  spGet_spWrite 0 bs d.mem a c h

theorem memWf_foldl {β : Type} (f : Die → β → Die) (hf : ∀ d b, memWf d.mem = true → memWf (f d b).mem = true) (l : List β) :
    ∀ d : Die, memWf d.mem = true → memWf (l.foldl f d).mem = true := by
  induction l with
  | nil => intro d h; exact h
  | cons b l ih => intro d h; exact ih _ (hf d b h)

/-- `pokes` keeps memory canonical. -/
theorem memWf_pokes (d : Die) (a : Nat) (bs : List Byte) (psn : Bool) (h : memWf d.mem = true) : memWf (d.pokes a bs psn).mem = true :=
  memWf_foldl _ (fun d _ h => memWf_poke d _ _ psn h) _ d h

/-- `freeh` keeps memory canonical. -/
theorem memWf_freeLines (d : Die) (a n : Nat) (h : memWf d.mem = true) : memWf (d.freeLines a n).mem = true :=
  spWf_spErase 0 d.mem a n h
/-- `freeh` zeroes its range and no other byte. -/
theorem memGet_freeLines (d : Die) (a n c : Nat) : memGet (d.freeLines a n).mem c = if a ≤ c ∧ c < a + n then 0 else memGet d.mem c :=
  spGet_spErase 0 d.mem a n c

end Sys2Proof.Machine
end

