-- ==== Sys2Proof/Laws/State.lean ====
section
/-! SUPPORT. One lemma per field and update of the state, each true by computation, and the laws of looking up what an update has written. -/

set_option Elab.async false

namespace Sys2Proof.Machine

/-! ## The package -/

@[simp] theorem State.modDie_east (s : State) (d : DieId) (f : Die → Die) : (s.modDie d f).east = s.east := rfl
@[simp] theorem State.modDie_trained (s : State) (d : DieId) (f : Die → Die) : (s.modDie d f).trained = s.trained := rfl
@[simp] theorem State.modDie_shot (s : State) (d : DieId) (f : Die → Die) : (s.modDie d f).shot = s.shot := rfl
@[simp] theorem State.modDie_west (s : State) (d : DieId) (f : Die → Die) : (s.modDie d f).west = s.west := rfl
@[simp] theorem State.modDie_agenda (s : State) (d : DieId) (f : Die → Die) : (s.modDie d f).agenda = s.agenda := rfl
@[simp] theorem State.modDie_cur (s : State) (d : DieId) (f : Die → Die) : (s.modDie d f).cur = s.cur := rfl
@[simp] theorem State.modDie_draws (s : State) (d : DieId) (f : Die → Die) : (s.modDie d f).draws = s.draws := rfl
@[simp] theorem State.modSlot_east (s : State) (d : DieId) (k : SlotId) (f : Slot → Slot) : (s.modSlot d k f).east = s.east := rfl
@[simp] theorem State.modSlot_trained (s : State) (d : DieId) (k : SlotId) (f : Slot → Slot) : (s.modSlot d k f).trained = s.trained := rfl
@[simp] theorem State.modSlot_shot (s : State) (d : DieId) (k : SlotId) (f : Slot → Slot) : (s.modSlot d k f).shot = s.shot := rfl
@[simp] theorem State.modSlot_west (s : State) (d : DieId) (k : SlotId) (f : Slot → Slot) : (s.modSlot d k f).west = s.west := rfl
@[simp] theorem State.modSlot_agenda (s : State) (d : DieId) (k : SlotId) (f : Slot → Slot) : (s.modSlot d k f).agenda = s.agenda := rfl
@[simp] theorem State.modSlot_cur (s : State) (d : DieId) (k : SlotId) (f : Slot → Slot) : (s.modSlot d k f).cur = s.cur := rfl
@[simp] theorem State.modSlot_draws (s : State) (d : DieId) (k : SlotId) (f : Slot → Slot) : (s.modSlot d k f).draws = s.draws := rfl
@[simp] theorem State.modCtl_east (s : State) (d : DieId) (k : SlotId) (f : Ctl → Ctl) : (s.modCtl d k f).east = s.east := rfl
@[simp] theorem State.modCtl_trained (s : State) (d : DieId) (k : SlotId) (f : Ctl → Ctl) : (s.modCtl d k f).trained = s.trained := rfl
@[simp] theorem State.modCtl_shot (s : State) (d : DieId) (k : SlotId) (f : Ctl → Ctl) : (s.modCtl d k f).shot = s.shot := rfl
@[simp] theorem State.modCtl_west (s : State) (d : DieId) (k : SlotId) (f : Ctl → Ctl) : (s.modCtl d k f).west = s.west := rfl
@[simp] theorem State.modCtl_agenda (s : State) (d : DieId) (k : SlotId) (f : Ctl → Ctl) : (s.modCtl d k f).agenda = s.agenda := rfl
@[simp] theorem State.modCtl_cur (s : State) (d : DieId) (k : SlotId) (f : Ctl → Ctl) : (s.modCtl d k f).cur = s.cur := rfl
@[simp] theorem State.modCtl_draws (s : State) (d : DieId) (k : SlotId) (f : Ctl → Ctl) : (s.modCtl d k f).draws = s.draws := rfl
@[simp] theorem State.modSched_east (s : State) (d : DieId) (f : Sched → Sched) : (s.modSched d f).east = s.east := rfl
@[simp] theorem State.modSched_trained (s : State) (d : DieId) (f : Sched → Sched) : (s.modSched d f).trained = s.trained := rfl
@[simp] theorem State.modSched_shot (s : State) (d : DieId) (f : Sched → Sched) : (s.modSched d f).shot = s.shot := rfl
@[simp] theorem State.modSched_west (s : State) (d : DieId) (f : Sched → Sched) : (s.modSched d f).west = s.west := rfl
@[simp] theorem State.modSched_agenda (s : State) (d : DieId) (f : Sched → Sched) : (s.modSched d f).agenda = s.agenda := rfl
@[simp] theorem State.modSched_cur (s : State) (d : DieId) (f : Sched → Sched) : (s.modSched d f).cur = s.cur := rfl
@[simp] theorem State.modSched_draws (s : State) (d : DieId) (f : Sched → Sched) : (s.modSched d f).draws = s.draws := rfl
@[simp] theorem State.modAg_east (s : State) (d : DieId) (a : Agent) (f : AgentSt → AgentSt) : (s.modAg d a f).east = s.east := rfl
@[simp] theorem State.modAg_trained (s : State) (d : DieId) (a : Agent) (f : AgentSt → AgentSt) : (s.modAg d a f).trained = s.trained := rfl
@[simp] theorem State.modAg_shot (s : State) (d : DieId) (a : Agent) (f : AgentSt → AgentSt) : (s.modAg d a f).shot = s.shot := rfl
@[simp] theorem State.modAg_west (s : State) (d : DieId) (a : Agent) (f : AgentSt → AgentSt) : (s.modAg d a f).west = s.west := rfl
@[simp] theorem State.modAg_agenda (s : State) (d : DieId) (a : Agent) (f : AgentSt → AgentSt) : (s.modAg d a f).agenda = s.agenda := rfl
@[simp] theorem State.modAg_cur (s : State) (d : DieId) (a : Agent) (f : AgentSt → AgentSt) : (s.modAg d a f).cur = s.cur := rfl
@[simp] theorem State.modAg_draws (s : State) (d : DieId) (a : Agent) (f : AgentSt → AgentSt) : (s.modAg d a f).draws = s.draws := rfl
@[simp] theorem State.setOpn_east (s : State) (d : DieId) (k : SlotId) (o : Open) : (s.setOpn d k o).east = s.east := rfl
@[simp] theorem State.setOpn_trained (s : State) (d : DieId) (k : SlotId) (o : Open) : (s.setOpn d k o).trained = s.trained := rfl
@[simp] theorem State.setOpn_shot (s : State) (d : DieId) (k : SlotId) (o : Open) : (s.setOpn d k o).shot = s.shot := rfl
@[simp] theorem State.setOpn_west (s : State) (d : DieId) (k : SlotId) (o : Open) : (s.setOpn d k o).west = s.west := rfl
@[simp] theorem State.setOpn_agenda (s : State) (d : DieId) (k : SlotId) (o : Open) : (s.setOpn d k o).agenda = s.agenda := rfl
@[simp] theorem State.setOpn_cur (s : State) (d : DieId) (k : SlotId) (o : Open) : (s.setOpn d k o).cur = s.cur := rfl
@[simp] theorem State.setOpn_draws (s : State) (d : DieId) (k : SlotId) (o : Open) : (s.setOpn d k o).draws = s.draws := rfl

@[simp] theorem State.die_modDie_same (s : State) (d : DieId) (f : Die → Die) : (s.modDie d f).die d = f (s.die d) := vget_vmod_same _ _ _
theorem State.die_modDie_ne (s : State) {d e : DieId} (h : d ≠ e) (f : Die → Die) : (s.modDie d f).die e = s.die e := vget_vmod_ne _ h _
@[simp] theorem State.die_modSlot_same (s : State) (d : DieId) (k : SlotId) (f : Slot → Slot) : (s.modSlot d k f).die d = (s.die d).modSlot k f :=
  vget_vmod_same _ _ _
theorem State.die_modSlot_ne (s : State) {d e : DieId} (h : d ≠ e) (k : SlotId) (f : Slot → Slot) : (s.modSlot d k f).die e = s.die e := vget_vmod_ne _ h _
@[simp] theorem Die.slot_modSlot_same (d : Die) (k : SlotId) (f : Slot → Slot) : (d.modSlot k f).slot k = f (d.slot k) := vget_vmod_same _ _ _
theorem Die.slot_modSlot_ne (d : Die) {k j : SlotId} (h : k ≠ j) (f : Slot → Slot) : (d.modSlot k f).slot j = d.slot j := vget_vmod_ne _ h _
@[simp] theorem State.slot_modSlot_same (s : State) (d : DieId) (k : SlotId) (f : Slot → Slot) : (s.modSlot d k f).slot d k = f (s.slot d k) := by
  simp [State.slot]
theorem State.slot_modSlot_ne (s : State) (d : DieId) {k j : SlotId} (h : k ≠ j) (f : Slot → Slot) : (s.modSlot d k f).slot d j = s.slot d j := by
  simp [State.slot, Die.slot_modSlot_ne _ h]
@[simp] theorem State.ctl_modCtl_same (s : State) (d : DieId) (k : SlotId) (f : Ctl → Ctl) : (s.modCtl d k f).ctl d k = f (s.ctl d k) := by
  simp [State.ctl, State.modCtl, Slot.modCtl]
@[simp] theorem State.ctl_setOpn (s : State) (d : DieId) (k : SlotId) (o : Open) : (s.setOpn d k o).ctl d k = { s.ctl d k with opn := some o } := by
  simp [State.setOpn]
/-- Setting the open block touches no other die. -/
theorem State.die_setOpn_ne (s : State) {d e : DieId} (h : d ≠ e) (k : SlotId) (o : Open) : (s.setOpn d k o).die e = s.die e :=
  State.die_modSlot_ne s h k _
/-- Setting the open block touches no other slot. -/
theorem State.slot_setOpn_ne (s : State) (d : DieId) {k j : SlotId} (h : k ≠ j) (o : Open) : (s.setOpn d k o).slot d j = s.slot d j :=
  State.slot_modSlot_ne s d h _
/-- Setting the open block leaves every die's memory as it was. -/
@[simp] theorem State.mem_setOpn (s : State) (d : DieId) (k : SlotId) (o : Open) (e : DieId) : ((s.setOpn d k o).die e).mem = (s.die e).mem := by
  by_cases h : d = e
  · subst h; simp [State.setOpn, State.modCtl]; rfl
  · rw [State.die_setOpn_ne s h]

/-! ## A die -/

@[simp] theorem Die.modSlot_lay (d : Die) (k : SlotId) (f : Slot → Slot) : (d.modSlot k f).lay = d.lay := rfl
@[simp] theorem Die.modSlot_mem (d : Die) (k : SlotId) (f : Slot → Slot) : (d.modSlot k f).mem = d.mem := rfl
@[simp] theorem Die.modSlot_psn (d : Die) (k : SlotId) (f : Slot → Slot) : (d.modSlot k f).psn = d.psn := rfl
@[simp] theorem Die.modSlot_free (d : Die) (k : SlotId) (f : Slot → Slot) : (d.modSlot k f).free = d.free := rfl
@[simp] theorem Die.modSlot_under (d : Die) (k : SlotId) (f : Slot → Slot) : (d.modSlot k f).under = d.under := rfl
@[simp] theorem Die.modSlot_cpe (d : Die) (k : SlotId) (f : Slot → Slot) : (d.modSlot k f).cpe = d.cpe := rfl
@[simp] theorem Die.modSlot_coe (d : Die) (k : SlotId) (f : Slot → Slot) : (d.modSlot k f).coe = d.coe := rfl
@[simp] theorem Die.modSlot_sys (d : Die) (k : SlotId) (f : Slot → Slot) : (d.modSlot k f).sys = d.sys := rfl
@[simp] theorem Die.modSlot_sysWait (d : Die) (k : SlotId) (f : Slot → Slot) : (d.modSlot k f).sysWait = d.sysWait := rfl
@[simp] theorem Die.modSlot_gate (d : Die) (k : SlotId) (f : Slot → Slot) : (d.modSlot k f).gate = d.gate := rfl
@[simp] theorem Die.modSlot_held (d : Die) (k : SlotId) (f : Slot → Slot) : (d.modSlot k f).held = d.held := rfl
@[simp] theorem Die.modSlot_proofs (d : Die) (k : SlotId) (f : Slot → Slot) : (d.modSlot k f).proofs = d.proofs := rfl
@[simp] theorem Die.modSlot_reg (d : Die) (k : SlotId) (f : Slot → Slot) : (d.modSlot k f).reg = d.reg := rfl
@[simp] theorem Die.modSlot_sched (d : Die) (k : SlotId) (f : Slot → Slot) : (d.modSlot k f).sched = d.sched := rfl
@[simp] theorem Die.modSlot_bands (d : Die) (k : SlotId) (f : Slot → Slot) : (d.modSlot k f).bands = d.bands := rfl
@[simp] theorem Die.modSlot_bankTemp (d : Die) (k : SlotId) (f : Slot → Slot) : (d.modSlot k f).bankTemp = d.bankTemp := rfl
@[simp] theorem Die.modSlot_bankRate (d : Die) (k : SlotId) (f : Slot → Slot) : (d.modSlot k f).bankRate = d.bankRate := rfl
@[simp] theorem Die.modSlot_trace (d : Die) (k : SlotId) (f : Slot → Slot) : (d.modSlot k f).trace = d.trace := rfl
@[simp] theorem Die.modSlot_pair (d : Die) (k : SlotId) (f : Slot → Slot) : (d.modSlot k f).pair = d.pair := rfl
@[simp] theorem Die.modSlot_ring (d : Die) (k : SlotId) (f : Slot → Slot) : (d.modSlot k f).ring = d.ring := rfl
@[simp] theorem Die.modSlot_calls (d : Die) (k : SlotId) (f : Slot → Slot) : (d.modSlot k f).calls = d.calls := rfl
@[simp] theorem Die.modSlot_fltUnread (d : Die) (k : SlotId) (f : Slot → Slot) : (d.modSlot k f).fltUnread = d.fltUnread := rfl
@[simp] theorem Die.modSlot_callUnread (d : Die) (k : SlotId) (f : Slot → Slot) : (d.modSlot k f).callUnread = d.callUnread := rfl
@[simp] theorem Die.modSlot_walkc (d : Die) (k : SlotId) (f : Slot → Slot) : (d.modSlot k f).walkc = d.walkc := rfl
@[simp] theorem Die.modSlot_icode (d : Die) (k : SlotId) (f : Slot → Slot) : (d.modSlot k f).icode = d.icode := rfl
@[simp] theorem Die.modSlot_beatAge (d : Die) (k : SlotId) (f : Slot → Slot) : (d.modSlot k f).beatAge = d.beatAge := rfl
@[simp] theorem Die.modSlot_grantAge (d : Die) (k : SlotId) (f : Slot → Slot) : (d.modSlot k f).grantAge = d.grantAge := rfl
@[simp] theorem Die.modSlot_tlbWait (d : Die) (k : SlotId) (f : Slot → Slot) : (d.modSlot k f).tlbWait = d.tlbWait := rfl
@[simp] theorem Die.modSlot_sheet (d : Die) (k : SlotId) (f : Slot → Slot) : (d.modSlot k f).sheet = d.sheet := rfl
@[simp] theorem Die.modSlot_tlbLost (d : Die) (k : SlotId) (f : Slot → Slot) : (d.modSlot k f).tlbLost = d.tlbLost := rfl
@[simp] theorem Die.modSlot_boot (d : Die) (k : SlotId) (f : Slot → Slot) : (d.modSlot k f).boot = d.boot := rfl
@[simp] theorem Die.modSlot_bootAge (d : Die) (k : SlotId) (f : Slot → Slot) : (d.modSlot k f).bootAge = d.bootAge := rfl
@[simp] theorem Die.modSlot_gated (d : Die) (k : SlotId) (f : Slot → Slot) : (d.modSlot k f).gated = d.gated := rfl
@[simp] theorem Die.modSlot_inReset (d : Die) (k : SlotId) (f : Slot → Slot) : (d.modSlot k f).inReset = d.inReset := rfl
@[simp] theorem Die.modSlot_tap (d : Die) (k : SlotId) (f : Slot → Slot) : (d.modSlot k f).tap = d.tap := rfl
@[simp] theorem Die.modSlot_scx (d : Die) (k : SlotId) (f : Slot → Slot) : (d.modSlot k f).scx = d.scx := rfl
@[simp] theorem Die.modSlot_sysx (d : Die) (k : SlotId) (f : Slot → Slot) : (d.modSlot k f).sysx = d.sysx := rfl
@[simp] theorem Die.modSlot_sysMode (d : Die) (k : SlotId) (f : Slot → Slot) : (d.modSlot k f).sysMode = d.sysMode := rfl
@[simp] theorem Die.modSlot_heard (d : Die) (k : SlotId) (f : Slot → Slot) : (d.modSlot k f).heard = d.heard := rfl
@[simp] theorem Die.setReg_slots (d : Die) (off : Nat) (v : Word) : (d.setReg off v).slots = d.slots := rfl
@[simp] theorem Die.setReg_lay (d : Die) (off : Nat) (v : Word) : (d.setReg off v).lay = d.lay := rfl
@[simp] theorem Die.setReg_mem (d : Die) (off : Nat) (v : Word) : (d.setReg off v).mem = d.mem := rfl
@[simp] theorem Die.setReg_psn (d : Die) (off : Nat) (v : Word) : (d.setReg off v).psn = d.psn := rfl
@[simp] theorem Die.setReg_free (d : Die) (off : Nat) (v : Word) : (d.setReg off v).free = d.free := rfl
@[simp] theorem Die.setReg_under (d : Die) (off : Nat) (v : Word) : (d.setReg off v).under = d.under := rfl
@[simp] theorem Die.setReg_cpe (d : Die) (off : Nat) (v : Word) : (d.setReg off v).cpe = d.cpe := rfl
@[simp] theorem Die.setReg_coe (d : Die) (off : Nat) (v : Word) : (d.setReg off v).coe = d.coe := rfl
@[simp] theorem Die.setReg_sys (d : Die) (off : Nat) (v : Word) : (d.setReg off v).sys = d.sys := rfl
@[simp] theorem Die.setReg_sysWait (d : Die) (off : Nat) (v : Word) : (d.setReg off v).sysWait = d.sysWait := rfl
@[simp] theorem Die.setReg_gate (d : Die) (off : Nat) (v : Word) : (d.setReg off v).gate = d.gate := rfl
@[simp] theorem Die.setReg_held (d : Die) (off : Nat) (v : Word) : (d.setReg off v).held = d.held := rfl
@[simp] theorem Die.setReg_proofs (d : Die) (off : Nat) (v : Word) : (d.setReg off v).proofs = d.proofs := rfl
@[simp] theorem Die.setReg_sched (d : Die) (off : Nat) (v : Word) : (d.setReg off v).sched = d.sched := rfl
@[simp] theorem Die.setReg_bands (d : Die) (off : Nat) (v : Word) : (d.setReg off v).bands = d.bands := rfl
@[simp] theorem Die.setReg_bankTemp (d : Die) (off : Nat) (v : Word) : (d.setReg off v).bankTemp = d.bankTemp := rfl
@[simp] theorem Die.setReg_bankRate (d : Die) (off : Nat) (v : Word) : (d.setReg off v).bankRate = d.bankRate := rfl
@[simp] theorem Die.setReg_trace (d : Die) (off : Nat) (v : Word) : (d.setReg off v).trace = d.trace := rfl
@[simp] theorem Die.setReg_pair (d : Die) (off : Nat) (v : Word) : (d.setReg off v).pair = d.pair := rfl
@[simp] theorem Die.setReg_ring (d : Die) (off : Nat) (v : Word) : (d.setReg off v).ring = d.ring := rfl
@[simp] theorem Die.setReg_calls (d : Die) (off : Nat) (v : Word) : (d.setReg off v).calls = d.calls := rfl
@[simp] theorem Die.setReg_fltUnread (d : Die) (off : Nat) (v : Word) : (d.setReg off v).fltUnread = d.fltUnread := rfl
@[simp] theorem Die.setReg_callUnread (d : Die) (off : Nat) (v : Word) : (d.setReg off v).callUnread = d.callUnread := rfl
@[simp] theorem Die.setReg_walkc (d : Die) (off : Nat) (v : Word) : (d.setReg off v).walkc = d.walkc := rfl
@[simp] theorem Die.setReg_icode (d : Die) (off : Nat) (v : Word) : (d.setReg off v).icode = d.icode := rfl
@[simp] theorem Die.setReg_beatAge (d : Die) (off : Nat) (v : Word) : (d.setReg off v).beatAge = d.beatAge := rfl
@[simp] theorem Die.setReg_grantAge (d : Die) (off : Nat) (v : Word) : (d.setReg off v).grantAge = d.grantAge := rfl
@[simp] theorem Die.setReg_tlbWait (d : Die) (off : Nat) (v : Word) : (d.setReg off v).tlbWait = d.tlbWait := rfl
@[simp] theorem Die.setReg_sheet (d : Die) (off : Nat) (v : Word) : (d.setReg off v).sheet = d.sheet := rfl
@[simp] theorem Die.setReg_tlbLost (d : Die) (off : Nat) (v : Word) : (d.setReg off v).tlbLost = d.tlbLost := rfl
@[simp] theorem Die.setReg_boot (d : Die) (off : Nat) (v : Word) : (d.setReg off v).boot = d.boot := rfl
@[simp] theorem Die.setReg_bootAge (d : Die) (off : Nat) (v : Word) : (d.setReg off v).bootAge = d.bootAge := rfl
@[simp] theorem Die.setReg_gated (d : Die) (off : Nat) (v : Word) : (d.setReg off v).gated = d.gated := rfl
@[simp] theorem Die.setReg_inReset (d : Die) (off : Nat) (v : Word) : (d.setReg off v).inReset = d.inReset := rfl
@[simp] theorem Die.setReg_tap (d : Die) (off : Nat) (v : Word) : (d.setReg off v).tap = d.tap := rfl
@[simp] theorem Die.setReg_scx (d : Die) (off : Nat) (v : Word) : (d.setReg off v).scx = d.scx := rfl
@[simp] theorem Die.setReg_sysx (d : Die) (off : Nat) (v : Word) : (d.setReg off v).sysx = d.sysx := rfl
@[simp] theorem Die.setReg_sysMode (d : Die) (off : Nat) (v : Word) : (d.setReg off v).sysMode = d.sysMode := rfl
@[simp] theorem Die.setReg_heard (d : Die) (off : Nat) (v : Word) : (d.setReg off v).heard = d.heard := rfl
@[simp] theorem Die.poke_slots (d : Die) (a : Nat) (bs : List Byte) (psn : Bool) : (d.poke a bs psn).slots = d.slots := rfl
@[simp] theorem Die.poke_lay (d : Die) (a : Nat) (bs : List Byte) (psn : Bool) : (d.poke a bs psn).lay = d.lay := rfl
@[simp] theorem Die.poke_cpe (d : Die) (a : Nat) (bs : List Byte) (psn : Bool) : (d.poke a bs psn).cpe = d.cpe := rfl
@[simp] theorem Die.poke_coe (d : Die) (a : Nat) (bs : List Byte) (psn : Bool) : (d.poke a bs psn).coe = d.coe := rfl
@[simp] theorem Die.poke_sys (d : Die) (a : Nat) (bs : List Byte) (psn : Bool) : (d.poke a bs psn).sys = d.sys := rfl
@[simp] theorem Die.poke_sysWait (d : Die) (a : Nat) (bs : List Byte) (psn : Bool) : (d.poke a bs psn).sysWait = d.sysWait := rfl
@[simp] theorem Die.poke_gate (d : Die) (a : Nat) (bs : List Byte) (psn : Bool) : (d.poke a bs psn).gate = d.gate := rfl
@[simp] theorem Die.poke_held (d : Die) (a : Nat) (bs : List Byte) (psn : Bool) : (d.poke a bs psn).held = d.held := rfl
@[simp] theorem Die.poke_proofs (d : Die) (a : Nat) (bs : List Byte) (psn : Bool) : (d.poke a bs psn).proofs = d.proofs := rfl
@[simp] theorem Die.poke_reg (d : Die) (a : Nat) (bs : List Byte) (psn : Bool) : (d.poke a bs psn).reg = d.reg := rfl
@[simp] theorem Die.poke_sched (d : Die) (a : Nat) (bs : List Byte) (psn : Bool) : (d.poke a bs psn).sched = d.sched := rfl
@[simp] theorem Die.poke_bands (d : Die) (a : Nat) (bs : List Byte) (psn : Bool) : (d.poke a bs psn).bands = d.bands := rfl
@[simp] theorem Die.poke_bankTemp (d : Die) (a : Nat) (bs : List Byte) (psn : Bool) : (d.poke a bs psn).bankTemp = d.bankTemp := rfl
@[simp] theorem Die.poke_bankRate (d : Die) (a : Nat) (bs : List Byte) (psn : Bool) : (d.poke a bs psn).bankRate = d.bankRate := rfl
@[simp] theorem Die.poke_trace (d : Die) (a : Nat) (bs : List Byte) (psn : Bool) : (d.poke a bs psn).trace = d.trace := rfl
@[simp] theorem Die.poke_pair (d : Die) (a : Nat) (bs : List Byte) (psn : Bool) : (d.poke a bs psn).pair = d.pair := rfl
@[simp] theorem Die.poke_ring (d : Die) (a : Nat) (bs : List Byte) (psn : Bool) : (d.poke a bs psn).ring = d.ring := rfl
@[simp] theorem Die.poke_calls (d : Die) (a : Nat) (bs : List Byte) (psn : Bool) : (d.poke a bs psn).calls = d.calls := rfl
@[simp] theorem Die.poke_fltUnread (d : Die) (a : Nat) (bs : List Byte) (psn : Bool) : (d.poke a bs psn).fltUnread = d.fltUnread := rfl
@[simp] theorem Die.poke_callUnread (d : Die) (a : Nat) (bs : List Byte) (psn : Bool) : (d.poke a bs psn).callUnread = d.callUnread := rfl
@[simp] theorem Die.poke_walkc (d : Die) (a : Nat) (bs : List Byte) (psn : Bool) : (d.poke a bs psn).walkc = d.walkc := rfl
@[simp] theorem Die.poke_icode (d : Die) (a : Nat) (bs : List Byte) (psn : Bool) : (d.poke a bs psn).icode = d.icode := rfl
@[simp] theorem Die.poke_beatAge (d : Die) (a : Nat) (bs : List Byte) (psn : Bool) : (d.poke a bs psn).beatAge = d.beatAge := rfl
@[simp] theorem Die.poke_grantAge (d : Die) (a : Nat) (bs : List Byte) (psn : Bool) : (d.poke a bs psn).grantAge = d.grantAge := rfl
@[simp] theorem Die.poke_tlbWait (d : Die) (a : Nat) (bs : List Byte) (psn : Bool) : (d.poke a bs psn).tlbWait = d.tlbWait := rfl
@[simp] theorem Die.poke_sheet (d : Die) (a : Nat) (bs : List Byte) (psn : Bool) : (d.poke a bs psn).sheet = d.sheet := rfl
@[simp] theorem Die.poke_tlbLost (d : Die) (a : Nat) (bs : List Byte) (psn : Bool) : (d.poke a bs psn).tlbLost = d.tlbLost := rfl
@[simp] theorem Die.poke_boot (d : Die) (a : Nat) (bs : List Byte) (psn : Bool) : (d.poke a bs psn).boot = d.boot := rfl
@[simp] theorem Die.poke_bootAge (d : Die) (a : Nat) (bs : List Byte) (psn : Bool) : (d.poke a bs psn).bootAge = d.bootAge := rfl
@[simp] theorem Die.poke_gated (d : Die) (a : Nat) (bs : List Byte) (psn : Bool) : (d.poke a bs psn).gated = d.gated := rfl
@[simp] theorem Die.poke_inReset (d : Die) (a : Nat) (bs : List Byte) (psn : Bool) : (d.poke a bs psn).inReset = d.inReset := rfl
@[simp] theorem Die.poke_tap (d : Die) (a : Nat) (bs : List Byte) (psn : Bool) : (d.poke a bs psn).tap = d.tap := rfl
@[simp] theorem Die.poke_scx (d : Die) (a : Nat) (bs : List Byte) (psn : Bool) : (d.poke a bs psn).scx = d.scx := rfl
@[simp] theorem Die.poke_sysx (d : Die) (a : Nat) (bs : List Byte) (psn : Bool) : (d.poke a bs psn).sysx = d.sysx := rfl
@[simp] theorem Die.poke_sysMode (d : Die) (a : Nat) (bs : List Byte) (psn : Bool) : (d.poke a bs psn).sysMode = d.sysMode := rfl
@[simp] theorem Die.poke_heard (d : Die) (a : Nat) (bs : List Byte) (psn : Bool) : (d.poke a bs psn).heard = d.heard := rfl
@[simp] theorem Die.freeLines_slots (d : Die) (a n : Nat) : (d.freeLines a n).slots = d.slots := rfl
@[simp] theorem Die.freeLines_lay (d : Die) (a n : Nat) : (d.freeLines a n).lay = d.lay := rfl
@[simp] theorem Die.freeLines_cpe (d : Die) (a n : Nat) : (d.freeLines a n).cpe = d.cpe := rfl
@[simp] theorem Die.freeLines_coe (d : Die) (a n : Nat) : (d.freeLines a n).coe = d.coe := rfl
@[simp] theorem Die.freeLines_sys (d : Die) (a n : Nat) : (d.freeLines a n).sys = d.sys := rfl
@[simp] theorem Die.freeLines_sysWait (d : Die) (a n : Nat) : (d.freeLines a n).sysWait = d.sysWait := rfl
@[simp] theorem Die.freeLines_gate (d : Die) (a n : Nat) : (d.freeLines a n).gate = d.gate := rfl
@[simp] theorem Die.freeLines_held (d : Die) (a n : Nat) : (d.freeLines a n).held = d.held := rfl
@[simp] theorem Die.freeLines_proofs (d : Die) (a n : Nat) : (d.freeLines a n).proofs = d.proofs := rfl
@[simp] theorem Die.freeLines_reg (d : Die) (a n : Nat) : (d.freeLines a n).reg = d.reg := rfl
@[simp] theorem Die.freeLines_sched (d : Die) (a n : Nat) : (d.freeLines a n).sched = d.sched := rfl
@[simp] theorem Die.freeLines_bands (d : Die) (a n : Nat) : (d.freeLines a n).bands = d.bands := rfl
@[simp] theorem Die.freeLines_bankTemp (d : Die) (a n : Nat) : (d.freeLines a n).bankTemp = d.bankTemp := rfl
@[simp] theorem Die.freeLines_bankRate (d : Die) (a n : Nat) : (d.freeLines a n).bankRate = d.bankRate := rfl
@[simp] theorem Die.freeLines_trace (d : Die) (a n : Nat) : (d.freeLines a n).trace = d.trace := rfl
@[simp] theorem Die.freeLines_pair (d : Die) (a n : Nat) : (d.freeLines a n).pair = d.pair := rfl
@[simp] theorem Die.freeLines_ring (d : Die) (a n : Nat) : (d.freeLines a n).ring = d.ring := rfl
@[simp] theorem Die.freeLines_calls (d : Die) (a n : Nat) : (d.freeLines a n).calls = d.calls := rfl
@[simp] theorem Die.freeLines_fltUnread (d : Die) (a n : Nat) : (d.freeLines a n).fltUnread = d.fltUnread := rfl
@[simp] theorem Die.freeLines_callUnread (d : Die) (a n : Nat) : (d.freeLines a n).callUnread = d.callUnread := rfl
@[simp] theorem Die.freeLines_walkc (d : Die) (a n : Nat) : (d.freeLines a n).walkc = d.walkc := rfl
@[simp] theorem Die.freeLines_icode (d : Die) (a n : Nat) : (d.freeLines a n).icode = d.icode := rfl
@[simp] theorem Die.freeLines_beatAge (d : Die) (a n : Nat) : (d.freeLines a n).beatAge = d.beatAge := rfl
@[simp] theorem Die.freeLines_grantAge (d : Die) (a n : Nat) : (d.freeLines a n).grantAge = d.grantAge := rfl
@[simp] theorem Die.freeLines_tlbWait (d : Die) (a n : Nat) : (d.freeLines a n).tlbWait = d.tlbWait := rfl
@[simp] theorem Die.freeLines_sheet (d : Die) (a n : Nat) : (d.freeLines a n).sheet = d.sheet := rfl
@[simp] theorem Die.freeLines_tlbLost (d : Die) (a n : Nat) : (d.freeLines a n).tlbLost = d.tlbLost := rfl
@[simp] theorem Die.freeLines_boot (d : Die) (a n : Nat) : (d.freeLines a n).boot = d.boot := rfl
@[simp] theorem Die.freeLines_bootAge (d : Die) (a n : Nat) : (d.freeLines a n).bootAge = d.bootAge := rfl
@[simp] theorem Die.freeLines_gated (d : Die) (a n : Nat) : (d.freeLines a n).gated = d.gated := rfl
@[simp] theorem Die.freeLines_inReset (d : Die) (a n : Nat) : (d.freeLines a n).inReset = d.inReset := rfl
@[simp] theorem Die.freeLines_tap (d : Die) (a n : Nat) : (d.freeLines a n).tap = d.tap := rfl
@[simp] theorem Die.freeLines_scx (d : Die) (a n : Nat) : (d.freeLines a n).scx = d.scx := rfl
@[simp] theorem Die.freeLines_sysx (d : Die) (a n : Nat) : (d.freeLines a n).sysx = d.sysx := rfl
@[simp] theorem Die.freeLines_sysMode (d : Die) (a n : Nat) : (d.freeLines a n).sysMode = d.sysMode := rfl
@[simp] theorem Die.freeLines_heard (d : Die) (a n : Nat) : (d.freeLines a n).heard = d.heard := rfl
@[simp] theorem Die.modLay_slots (d : Die) (k : SlotId) (f : Lay → Lay) : (d.modLay k f).slots = d.slots := rfl
@[simp] theorem Die.modLay_mem (d : Die) (k : SlotId) (f : Lay → Lay) : (d.modLay k f).mem = d.mem := rfl
@[simp] theorem Die.modLay_psn (d : Die) (k : SlotId) (f : Lay → Lay) : (d.modLay k f).psn = d.psn := rfl
@[simp] theorem Die.modLay_free (d : Die) (k : SlotId) (f : Lay → Lay) : (d.modLay k f).free = d.free := rfl
@[simp] theorem Die.modLay_under (d : Die) (k : SlotId) (f : Lay → Lay) : (d.modLay k f).under = d.under := rfl
@[simp] theorem Die.modLay_cpe (d : Die) (k : SlotId) (f : Lay → Lay) : (d.modLay k f).cpe = d.cpe := rfl
@[simp] theorem Die.modLay_coe (d : Die) (k : SlotId) (f : Lay → Lay) : (d.modLay k f).coe = d.coe := rfl
@[simp] theorem Die.modLay_sys (d : Die) (k : SlotId) (f : Lay → Lay) : (d.modLay k f).sys = d.sys := rfl
@[simp] theorem Die.modLay_sysWait (d : Die) (k : SlotId) (f : Lay → Lay) : (d.modLay k f).sysWait = d.sysWait := rfl
@[simp] theorem Die.modLay_gate (d : Die) (k : SlotId) (f : Lay → Lay) : (d.modLay k f).gate = d.gate := rfl
@[simp] theorem Die.modLay_held (d : Die) (k : SlotId) (f : Lay → Lay) : (d.modLay k f).held = d.held := rfl
@[simp] theorem Die.modLay_proofs (d : Die) (k : SlotId) (f : Lay → Lay) : (d.modLay k f).proofs = d.proofs := rfl
@[simp] theorem Die.modLay_reg (d : Die) (k : SlotId) (f : Lay → Lay) : (d.modLay k f).reg = d.reg := rfl
@[simp] theorem Die.modLay_sched (d : Die) (k : SlotId) (f : Lay → Lay) : (d.modLay k f).sched = d.sched := rfl
@[simp] theorem Die.modLay_bands (d : Die) (k : SlotId) (f : Lay → Lay) : (d.modLay k f).bands = d.bands := rfl
@[simp] theorem Die.modLay_bankTemp (d : Die) (k : SlotId) (f : Lay → Lay) : (d.modLay k f).bankTemp = d.bankTemp := rfl
@[simp] theorem Die.modLay_bankRate (d : Die) (k : SlotId) (f : Lay → Lay) : (d.modLay k f).bankRate = d.bankRate := rfl
@[simp] theorem Die.modLay_trace (d : Die) (k : SlotId) (f : Lay → Lay) : (d.modLay k f).trace = d.trace := rfl
@[simp] theorem Die.modLay_pair (d : Die) (k : SlotId) (f : Lay → Lay) : (d.modLay k f).pair = d.pair := rfl
@[simp] theorem Die.modLay_ring (d : Die) (k : SlotId) (f : Lay → Lay) : (d.modLay k f).ring = d.ring := rfl
@[simp] theorem Die.modLay_calls (d : Die) (k : SlotId) (f : Lay → Lay) : (d.modLay k f).calls = d.calls := rfl
@[simp] theorem Die.modLay_fltUnread (d : Die) (k : SlotId) (f : Lay → Lay) : (d.modLay k f).fltUnread = d.fltUnread := rfl
@[simp] theorem Die.modLay_callUnread (d : Die) (k : SlotId) (f : Lay → Lay) : (d.modLay k f).callUnread = d.callUnread := rfl
@[simp] theorem Die.modLay_walkc (d : Die) (k : SlotId) (f : Lay → Lay) : (d.modLay k f).walkc = d.walkc := rfl
@[simp] theorem Die.modLay_icode (d : Die) (k : SlotId) (f : Lay → Lay) : (d.modLay k f).icode = d.icode := rfl
@[simp] theorem Die.modLay_beatAge (d : Die) (k : SlotId) (f : Lay → Lay) : (d.modLay k f).beatAge = d.beatAge := rfl
@[simp] theorem Die.modLay_grantAge (d : Die) (k : SlotId) (f : Lay → Lay) : (d.modLay k f).grantAge = d.grantAge := rfl
@[simp] theorem Die.modLay_tlbWait (d : Die) (k : SlotId) (f : Lay → Lay) : (d.modLay k f).tlbWait = d.tlbWait := rfl
@[simp] theorem Die.modLay_sheet (d : Die) (k : SlotId) (f : Lay → Lay) : (d.modLay k f).sheet = d.sheet := rfl
@[simp] theorem Die.modLay_tlbLost (d : Die) (k : SlotId) (f : Lay → Lay) : (d.modLay k f).tlbLost = d.tlbLost := rfl
@[simp] theorem Die.modLay_boot (d : Die) (k : SlotId) (f : Lay → Lay) : (d.modLay k f).boot = d.boot := rfl
@[simp] theorem Die.modLay_bootAge (d : Die) (k : SlotId) (f : Lay → Lay) : (d.modLay k f).bootAge = d.bootAge := rfl
@[simp] theorem Die.modLay_gated (d : Die) (k : SlotId) (f : Lay → Lay) : (d.modLay k f).gated = d.gated := rfl
@[simp] theorem Die.modLay_inReset (d : Die) (k : SlotId) (f : Lay → Lay) : (d.modLay k f).inReset = d.inReset := rfl
@[simp] theorem Die.modLay_tap (d : Die) (k : SlotId) (f : Lay → Lay) : (d.modLay k f).tap = d.tap := rfl
@[simp] theorem Die.modLay_scx (d : Die) (k : SlotId) (f : Lay → Lay) : (d.modLay k f).scx = d.scx := rfl
@[simp] theorem Die.modLay_sysx (d : Die) (k : SlotId) (f : Lay → Lay) : (d.modLay k f).sysx = d.sysx := rfl
@[simp] theorem Die.modLay_sysMode (d : Die) (k : SlotId) (f : Lay → Lay) : (d.modLay k f).sysMode = d.sysMode := rfl
@[simp] theorem Die.modLay_heard (d : Die) (k : SlotId) (f : Lay → Lay) : (d.modLay k f).heard = d.heard := rfl

/-! ## A slot and its control core -/

@[simp] theorem Slot.modCtl_tiles (t : Slot) (f : Ctl → Ctl) : (t.modCtl f).tiles = t.tiles := rfl
@[simp] theorem Slot.modCtl_ports (t : Slot) (f : Ctl → Ctl) : (t.modCtl f).ports = t.ports := rfl
@[simp] theorem Slot.modCtl_toks (t : Slot) (f : Ctl → Ctl) : (t.modCtl f).toks = t.toks := rfl
@[simp] theorem Slot.modCtl_sems (t : Slot) (f : Ctl → Ctl) : (t.modCtl f).sems = t.sems := rfl
@[simp] theorem Slot.modCtl_rq (t : Slot) (f : Ctl → Ctl) : (t.modCtl f).rq = t.rq := rfl
@[simp] theorem Slot.modCtl_resv (t : Slot) (f : Ctl → Ctl) : (t.modCtl f).resv = t.resv := rfl
@[simp] theorem Slot.modCtl_q (t : Slot) (f : Ctl → Ctl) : (t.modCtl f).q = t.q := rfl
@[simp] theorem Slot.modCtl_pseq (t : Slot) (f : Ctl → Ctl) : (t.modCtl f).pseq = t.pseq := rfl
@[simp] theorem Slot.modCtl_cseq (t : Slot) (f : Ctl → Ctl) : (t.modCtl f).cseq = t.cseq := rfl
@[simp] theorem Slot.modCtl_lde (t : Slot) (f : Ctl → Ctl) : (t.modCtl f).lde = t.lde := rfl
@[simp] theorem Slot.modCtl_are (t : Slot) (f : Ctl → Ctl) : (t.modCtl f).are = t.are := rfl
@[simp] theorem Slot.modCtl_ste (t : Slot) (f : Ctl → Ctl) : (t.modCtl f).ste = t.ste := rfl
@[simp] theorem Slot.modCtl_mxe (t : Slot) (f : Ctl → Ctl) : (t.modCtl f).mxe = t.mxe := rfl
@[simp] theorem Slot.modCtl_cpeAt (t : Slot) (f : Ctl → Ctl) : (t.modCtl f).cpeAt = t.cpeAt := rfl
@[simp] theorem Slot.modCtl_coeAt (t : Slot) (f : Ctl → Ctl) : (t.modCtl f).coeAt = t.coeAt := rfl
@[simp] theorem Slot.modCtl_mord (t : Slot) (f : Ctl → Ctl) : (t.modCtl f).mord = t.mord := rfl
@[simp] theorem Slot.modCtl_agCtl (t : Slot) (f : Ctl → Ctl) : (t.modCtl f).agCtl = t.agCtl := rfl
@[simp] theorem Slot.modCtl_agLde (t : Slot) (f : Ctl → Ctl) : (t.modCtl f).agLde = t.agLde := rfl
@[simp] theorem Slot.modCtl_agSte (t : Slot) (f : Ctl → Ctl) : (t.modCtl f).agSte = t.agSte := rfl
@[simp] theorem Slot.modCtl_agAre (t : Slot) (f : Ctl → Ctl) : (t.modCtl f).agAre = t.agAre := rfl
@[simp] theorem Slot.modCtl_agMxe (t : Slot) (f : Ctl → Ctl) : (t.modCtl f).agMxe = t.agMxe := rfl
@[simp] theorem Slot.modCtl_bank (t : Slot) (f : Ctl → Ctl) : (t.modCtl f).bank = t.bank := rfl
@[simp] theorem Slot.modCtl_tlb (t : Slot) (f : Ctl → Ctl) : (t.modCtl f).tlb = t.tlb := rfl
@[simp] theorem Slot.modCtl_recs (t : Slot) (f : Ctl → Ctl) : (t.modCtl f).recs = t.recs := rfl
@[simp] theorem Slot.modCtl_pmc (t : Slot) (f : Ctl → Ctl) : (t.modCtl f).pmc = t.pmc := rfl
@[simp] theorem Slot.modCtl_pmsel (t : Slot) (f : Ctl → Ctl) : (t.modCtl f).pmsel = t.pmsel := rfl
@[simp] theorem Slot.modCtl_pmOwn (t : Slot) (f : Ctl → Ctl) : (t.modCtl f).pmOwn = t.pmOwn := rfl
@[simp] theorem Slot.modCtl_recOwn (t : Slot) (f : Ctl → Ctl) : (t.modCtl f).recOwn = t.recOwn := rfl
@[simp] theorem Slot.modCtl_pnid (t : Slot) (f : Ctl → Ctl) : (t.modCtl f).pnid = t.pnid := rfl
@[simp] theorem Slot.modCtl_flt (t : Slot) (f : Ctl → Ctl) : (t.modCtl f).flt = t.flt := rfl
@[simp] theorem Slot.modCtl_stop (t : Slot) (f : Ctl → Ctl) : (t.modCtl f).stop = t.stop := rfl
@[simp] theorem Slot.modCtl_acked (t : Slot) (f : Ctl → Ctl) : (t.modCtl f).acked = t.acked := rfl
@[simp] theorem Slot.modCtl_w (t : Slot) (f : Ctl → Ctl) : (t.modCtl f).w = t.w := rfl
@[simp] theorem Slot.mergeFlags_tiles (t : Slot) (f : BitVec 7) : (t.mergeFlags f).tiles = t.tiles := rfl
@[simp] theorem Slot.mergeFlags_ports (t : Slot) (f : BitVec 7) : (t.mergeFlags f).ports = t.ports := rfl
@[simp] theorem Slot.mergeFlags_toks (t : Slot) (f : BitVec 7) : (t.mergeFlags f).toks = t.toks := rfl
@[simp] theorem Slot.mergeFlags_sems (t : Slot) (f : BitVec 7) : (t.mergeFlags f).sems = t.sems := rfl
@[simp] theorem Slot.mergeFlags_rq (t : Slot) (f : BitVec 7) : (t.mergeFlags f).rq = t.rq := rfl
@[simp] theorem Slot.mergeFlags_resv (t : Slot) (f : BitVec 7) : (t.mergeFlags f).resv = t.resv := rfl
@[simp] theorem Slot.mergeFlags_q (t : Slot) (f : BitVec 7) : (t.mergeFlags f).q = t.q := rfl
@[simp] theorem Slot.mergeFlags_pseq (t : Slot) (f : BitVec 7) : (t.mergeFlags f).pseq = t.pseq := rfl
@[simp] theorem Slot.mergeFlags_cseq (t : Slot) (f : BitVec 7) : (t.mergeFlags f).cseq = t.cseq := rfl
@[simp] theorem Slot.mergeFlags_lde (t : Slot) (f : BitVec 7) : (t.mergeFlags f).lde = t.lde := rfl
@[simp] theorem Slot.mergeFlags_are (t : Slot) (f : BitVec 7) : (t.mergeFlags f).are = t.are := rfl
@[simp] theorem Slot.mergeFlags_ste (t : Slot) (f : BitVec 7) : (t.mergeFlags f).ste = t.ste := rfl
@[simp] theorem Slot.mergeFlags_mxe (t : Slot) (f : BitVec 7) : (t.mergeFlags f).mxe = t.mxe := rfl
@[simp] theorem Slot.mergeFlags_cpeAt (t : Slot) (f : BitVec 7) : (t.mergeFlags f).cpeAt = t.cpeAt := rfl
@[simp] theorem Slot.mergeFlags_coeAt (t : Slot) (f : BitVec 7) : (t.mergeFlags f).coeAt = t.coeAt := rfl
@[simp] theorem Slot.mergeFlags_mord (t : Slot) (f : BitVec 7) : (t.mergeFlags f).mord = t.mord := rfl
@[simp] theorem Slot.mergeFlags_agCtl (t : Slot) (f : BitVec 7) : (t.mergeFlags f).agCtl = t.agCtl := rfl
@[simp] theorem Slot.mergeFlags_agLde (t : Slot) (f : BitVec 7) : (t.mergeFlags f).agLde = t.agLde := rfl
@[simp] theorem Slot.mergeFlags_agSte (t : Slot) (f : BitVec 7) : (t.mergeFlags f).agSte = t.agSte := rfl
@[simp] theorem Slot.mergeFlags_agAre (t : Slot) (f : BitVec 7) : (t.mergeFlags f).agAre = t.agAre := rfl
@[simp] theorem Slot.mergeFlags_agMxe (t : Slot) (f : BitVec 7) : (t.mergeFlags f).agMxe = t.agMxe := rfl
@[simp] theorem Slot.mergeFlags_bank (t : Slot) (f : BitVec 7) : (t.mergeFlags f).bank = t.bank := rfl
@[simp] theorem Slot.mergeFlags_tlb (t : Slot) (f : BitVec 7) : (t.mergeFlags f).tlb = t.tlb := rfl
@[simp] theorem Slot.mergeFlags_recs (t : Slot) (f : BitVec 7) : (t.mergeFlags f).recs = t.recs := rfl
@[simp] theorem Slot.mergeFlags_pmc (t : Slot) (f : BitVec 7) : (t.mergeFlags f).pmc = t.pmc := rfl
@[simp] theorem Slot.mergeFlags_pmsel (t : Slot) (f : BitVec 7) : (t.mergeFlags f).pmsel = t.pmsel := rfl
@[simp] theorem Slot.mergeFlags_pmOwn (t : Slot) (f : BitVec 7) : (t.mergeFlags f).pmOwn = t.pmOwn := rfl
@[simp] theorem Slot.mergeFlags_recOwn (t : Slot) (f : BitVec 7) : (t.mergeFlags f).recOwn = t.recOwn := rfl
@[simp] theorem Slot.mergeFlags_pnid (t : Slot) (f : BitVec 7) : (t.mergeFlags f).pnid = t.pnid := rfl
@[simp] theorem Slot.mergeFlags_flt (t : Slot) (f : BitVec 7) : (t.mergeFlags f).flt = t.flt := rfl
@[simp] theorem Slot.mergeFlags_stop (t : Slot) (f : BitVec 7) : (t.mergeFlags f).stop = t.stop := rfl
@[simp] theorem Slot.mergeFlags_acked (t : Slot) (f : BitVec 7) : (t.mergeFlags f).acked = t.acked := rfl
@[simp] theorem Slot.mergeFlags_w (t : Slot) (f : BitVec 7) : (t.mergeFlags f).w = t.w := rfl
@[simp] theorem Slot.count_ctl (t : Slot) (ev n : Nat) : (t.count ev n).ctl = t.ctl := by simp only [Slot.count]
@[simp] theorem Slot.count_tiles (t : Slot) (ev n : Nat) : (t.count ev n).tiles = t.tiles := by simp only [Slot.count]
@[simp] theorem Slot.count_ports (t : Slot) (ev n : Nat) : (t.count ev n).ports = t.ports := by simp only [Slot.count]
@[simp] theorem Slot.count_toks (t : Slot) (ev n : Nat) : (t.count ev n).toks = t.toks := by simp only [Slot.count]
@[simp] theorem Slot.count_sems (t : Slot) (ev n : Nat) : (t.count ev n).sems = t.sems := by simp only [Slot.count]
@[simp] theorem Slot.count_rq (t : Slot) (ev n : Nat) : (t.count ev n).rq = t.rq := by simp only [Slot.count]
@[simp] theorem Slot.count_resv (t : Slot) (ev n : Nat) : (t.count ev n).resv = t.resv := by simp only [Slot.count]
@[simp] theorem Slot.count_q (t : Slot) (ev n : Nat) : (t.count ev n).q = t.q := by simp only [Slot.count]
@[simp] theorem Slot.count_pseq (t : Slot) (ev n : Nat) : (t.count ev n).pseq = t.pseq := by simp only [Slot.count]
@[simp] theorem Slot.count_cseq (t : Slot) (ev n : Nat) : (t.count ev n).cseq = t.cseq := by simp only [Slot.count]
@[simp] theorem Slot.count_lde (t : Slot) (ev n : Nat) : (t.count ev n).lde = t.lde := by simp only [Slot.count]
@[simp] theorem Slot.count_are (t : Slot) (ev n : Nat) : (t.count ev n).are = t.are := by simp only [Slot.count]
@[simp] theorem Slot.count_ste (t : Slot) (ev n : Nat) : (t.count ev n).ste = t.ste := by simp only [Slot.count]
@[simp] theorem Slot.count_mxe (t : Slot) (ev n : Nat) : (t.count ev n).mxe = t.mxe := by simp only [Slot.count]
@[simp] theorem Slot.count_cpeAt (t : Slot) (ev n : Nat) : (t.count ev n).cpeAt = t.cpeAt := by simp only [Slot.count]
@[simp] theorem Slot.count_coeAt (t : Slot) (ev n : Nat) : (t.count ev n).coeAt = t.coeAt := by simp only [Slot.count]
@[simp] theorem Slot.count_mord (t : Slot) (ev n : Nat) : (t.count ev n).mord = t.mord := by simp only [Slot.count]
@[simp] theorem Slot.count_agCtl (t : Slot) (ev n : Nat) : (t.count ev n).agCtl = t.agCtl := by simp only [Slot.count]
@[simp] theorem Slot.count_agLde (t : Slot) (ev n : Nat) : (t.count ev n).agLde = t.agLde := by simp only [Slot.count]
@[simp] theorem Slot.count_agSte (t : Slot) (ev n : Nat) : (t.count ev n).agSte = t.agSte := by simp only [Slot.count]
@[simp] theorem Slot.count_agAre (t : Slot) (ev n : Nat) : (t.count ev n).agAre = t.agAre := by simp only [Slot.count]
@[simp] theorem Slot.count_agMxe (t : Slot) (ev n : Nat) : (t.count ev n).agMxe = t.agMxe := by simp only [Slot.count]
@[simp] theorem Slot.count_bank (t : Slot) (ev n : Nat) : (t.count ev n).bank = t.bank := by simp only [Slot.count]
@[simp] theorem Slot.count_tlb (t : Slot) (ev n : Nat) : (t.count ev n).tlb = t.tlb := by simp only [Slot.count]
@[simp] theorem Slot.count_recs (t : Slot) (ev n : Nat) : (t.count ev n).recs = t.recs := by simp only [Slot.count]
@[simp] theorem Slot.count_pmsel (t : Slot) (ev n : Nat) : (t.count ev n).pmsel = t.pmsel := by simp only [Slot.count]
@[simp] theorem Slot.count_pmOwn (t : Slot) (ev n : Nat) : (t.count ev n).pmOwn = t.pmOwn := by simp only [Slot.count]
@[simp] theorem Slot.count_recOwn (t : Slot) (ev n : Nat) : (t.count ev n).recOwn = t.recOwn := by simp only [Slot.count]
@[simp] theorem Slot.count_pnid (t : Slot) (ev n : Nat) : (t.count ev n).pnid = t.pnid := by simp only [Slot.count]
@[simp] theorem Slot.count_flt (t : Slot) (ev n : Nat) : (t.count ev n).flt = t.flt := by simp only [Slot.count]
@[simp] theorem Slot.count_stop (t : Slot) (ev n : Nat) : (t.count ev n).stop = t.stop := by simp only [Slot.count]
@[simp] theorem Slot.count_acked (t : Slot) (ev n : Nat) : (t.count ev n).acked = t.acked := by simp only [Slot.count]
@[simp] theorem Slot.count_w (t : Slot) (ev n : Nat) : (t.count ev n).w = t.w := by simp only [Slot.count]
@[simp] theorem Slot.modCtl_ctl (t : Slot) (f : Ctl → Ctl) : (t.modCtl f).ctl = f t.ctl := rfl

/-! ## The open block and its registers -/

@[simp] theorem Open.put_hdr (o : Open) (i : BitVec 5) (v : Word) : (o.put i v).hdr = o.hdr := rfl
@[simp] theorem Open.put_len (o : Open) (i : BitVec 5) (v : Word) : (o.put i v).len = o.len := rfl
@[simp] theorem Open.put_nex (o : Open) (i : BitVec 5) (v : Word) : (o.put i v).nex = o.nex := rfl
@[simp] theorem Open.put_sw (o : Open) (i : BitVec 5) (v : Word) : (o.put i v).sw = o.sw := rfl
@[simp] theorem Open.put_first (o : Open) (i : BitVec 5) (v : Word) : (o.put i v).first = o.first := rfl
@[simp] theorem Open.put_count (o : Open) (i : BitVec 5) (v : Word) : (o.put i v).count = o.count := rfl
@[simp] theorem Open.put_iter (o : Open) (i : BitVec 5) (v : Word) : (o.put i v).iter = o.iter := rfl
@[simp] theorem Open.put_pos (o : Open) (i : BitVec 5) (v : Word) : (o.put i v).pos = o.pos := rfl
@[simp] theorem Open.put_phase (o : Open) (i : BitVec 5) (v : Word) : (o.put i v).phase = o.phase := rfl
@[simp] theorem Open.put_bad (o : Open) (i : BitVec 5) (v : Word) : (o.put i v).bad = o.bad := rfl
@[simp] theorem Open.put_ops (o : Open) (i : BitVec 5) (v : Word) : (o.put i v).ops = o.ops := rfl
@[simp] theorem Open.put_toks (o : Open) (i : BitVec 5) (v : Word) : (o.put i v).toks = o.toks := rfl
@[simp] theorem Open.put_wait (o : Open) (i : BitVec 5) (v : Word) : (o.put i v).wait = o.wait := rfl
@[simp] theorem Open.put_waitNa (o : Open) (i : BitVec 5) (v : Word) : (o.put i v).waitNa = o.waitNa := rfl
@[simp] theorem Open.put_resv (o : Open) (i : BitVec 5) (v : Word) : (o.put i v).resv = o.resv := rfl
@[simp] theorem Open.put_nst (o : Open) (i : BitVec 5) (v : Word) : (o.put i v).nst = o.nst := rfl
@[simp] theorem Open.put_npush (o : Open) (i : BitVec 5) (v : Word) : (o.put i v).npush = o.npush := rfl
@[simp] theorem Open.put_drain (o : Open) (i : BitVec 5) (v : Word) : (o.put i v).drain = o.drain := rfl
@[simp] theorem Open.put_aff (o : Open) (i : BitVec 5) (v : Word) : (o.put i v).aff = o.aff := rfl
@[simp] theorem Open.put_susp (o : Open) (i : BitVec 5) (v : Word) : (o.put i v).susp = o.susp := rfl
@[simp] theorem Open.put_traps (o : Open) (i : BitVec 5) (v : Word) : (o.put i v).traps = o.traps := rfl
@[simp] theorem Open.put_succ (o : Open) (i : BitVec 5) (v : Word) : (o.put i v).succ = o.succ := rfl
@[simp] theorem Open.put_fill (o : Open) (i : BitVec 5) (v : Word) : (o.put i v).fill = o.fill := rfl
@[simp] theorem Open.put_fillAsked (o : Open) (i : BitVec 5) (v : Word) : (o.put i v).fillAsked = o.fillAsked := rfl
@[simp] theorem Open.put_schedAsked (o : Open) (i : BitVec 5) (v : Word) : (o.put i v).schedAsked = o.schedAsked := rfl
@[simp] theorem Open.put_sched (o : Open) (i : BitVec 5) (v : Word) : (o.put i v).sched = o.sched := rfl
@[simp] theorem Open.pput_hdr (o : Open) (i : BitVec 3) (b : Bool) : (o.pput i b).hdr = o.hdr := rfl
@[simp] theorem Open.pput_len (o : Open) (i : BitVec 3) (b : Bool) : (o.pput i b).len = o.len := rfl
@[simp] theorem Open.pput_nex (o : Open) (i : BitVec 3) (b : Bool) : (o.pput i b).nex = o.nex := rfl
@[simp] theorem Open.pput_sw (o : Open) (i : BitVec 3) (b : Bool) : (o.pput i b).sw = o.sw := rfl
@[simp] theorem Open.pput_first (o : Open) (i : BitVec 3) (b : Bool) : (o.pput i b).first = o.first := rfl
@[simp] theorem Open.pput_count (o : Open) (i : BitVec 3) (b : Bool) : (o.pput i b).count = o.count := rfl
@[simp] theorem Open.pput_iter (o : Open) (i : BitVec 3) (b : Bool) : (o.pput i b).iter = o.iter := rfl
@[simp] theorem Open.pput_pos (o : Open) (i : BitVec 3) (b : Bool) : (o.pput i b).pos = o.pos := rfl
@[simp] theorem Open.pput_phase (o : Open) (i : BitVec 3) (b : Bool) : (o.pput i b).phase = o.phase := rfl
@[simp] theorem Open.pput_bad (o : Open) (i : BitVec 3) (b : Bool) : (o.pput i b).bad = o.bad := rfl
@[simp] theorem Open.pput_ops (o : Open) (i : BitVec 3) (b : Bool) : (o.pput i b).ops = o.ops := rfl
@[simp] theorem Open.pput_toks (o : Open) (i : BitVec 3) (b : Bool) : (o.pput i b).toks = o.toks := rfl
@[simp] theorem Open.pput_wait (o : Open) (i : BitVec 3) (b : Bool) : (o.pput i b).wait = o.wait := rfl
@[simp] theorem Open.pput_waitNa (o : Open) (i : BitVec 3) (b : Bool) : (o.pput i b).waitNa = o.waitNa := rfl
@[simp] theorem Open.pput_resv (o : Open) (i : BitVec 3) (b : Bool) : (o.pput i b).resv = o.resv := rfl
@[simp] theorem Open.pput_nst (o : Open) (i : BitVec 3) (b : Bool) : (o.pput i b).nst = o.nst := rfl
@[simp] theorem Open.pput_npush (o : Open) (i : BitVec 3) (b : Bool) : (o.pput i b).npush = o.npush := rfl
@[simp] theorem Open.pput_drain (o : Open) (i : BitVec 3) (b : Bool) : (o.pput i b).drain = o.drain := rfl
@[simp] theorem Open.pput_aff (o : Open) (i : BitVec 3) (b : Bool) : (o.pput i b).aff = o.aff := rfl
@[simp] theorem Open.pput_susp (o : Open) (i : BitVec 3) (b : Bool) : (o.pput i b).susp = o.susp := rfl
@[simp] theorem Open.pput_traps (o : Open) (i : BitVec 3) (b : Bool) : (o.pput i b).traps = o.traps := rfl
@[simp] theorem Open.pput_succ (o : Open) (i : BitVec 3) (b : Bool) : (o.pput i b).succ = o.succ := rfl
@[simp] theorem Open.pput_fill (o : Open) (i : BitVec 3) (b : Bool) : (o.pput i b).fill = o.fill := rfl
@[simp] theorem Open.pput_fillAsked (o : Open) (i : BitVec 3) (b : Bool) : (o.pput i b).fillAsked = o.fillAsked := rfl
@[simp] theorem Open.pput_schedAsked (o : Open) (i : BitVec 3) (b : Bool) : (o.pput i b).schedAsked = o.schedAsked := rfl
@[simp] theorem Open.pput_sched (o : Open) (i : BitVec 3) (b : Bool) : (o.pput i b).sched = o.sched := rfl
@[simp] theorem Open.hold_hdr (o : Open) (x : CtlOp) : (o.hold x).hdr = o.hdr := rfl
@[simp] theorem Open.hold_len (o : Open) (x : CtlOp) : (o.hold x).len = o.len := rfl
@[simp] theorem Open.hold_nex (o : Open) (x : CtlOp) : (o.hold x).nex = o.nex := rfl
@[simp] theorem Open.hold_sw (o : Open) (x : CtlOp) : (o.hold x).sw = o.sw := rfl
@[simp] theorem Open.hold_first (o : Open) (x : CtlOp) : (o.hold x).first = o.first := rfl
@[simp] theorem Open.hold_count (o : Open) (x : CtlOp) : (o.hold x).count = o.count := rfl
@[simp] theorem Open.hold_iter (o : Open) (x : CtlOp) : (o.hold x).iter = o.iter := rfl
@[simp] theorem Open.hold_pos (o : Open) (x : CtlOp) : (o.hold x).pos = o.pos := rfl
@[simp] theorem Open.hold_phase (o : Open) (x : CtlOp) : (o.hold x).phase = o.phase := rfl
@[simp] theorem Open.hold_bad (o : Open) (x : CtlOp) : (o.hold x).bad = o.bad := rfl
@[simp] theorem Open.hold_regs (o : Open) (x : CtlOp) : (o.hold x).regs = o.regs := rfl
@[simp] theorem Open.hold_toks (o : Open) (x : CtlOp) : (o.hold x).toks = o.toks := rfl
@[simp] theorem Open.hold_wait (o : Open) (x : CtlOp) : (o.hold x).wait = o.wait := rfl
@[simp] theorem Open.hold_waitNa (o : Open) (x : CtlOp) : (o.hold x).waitNa = o.waitNa := rfl
@[simp] theorem Open.hold_resv (o : Open) (x : CtlOp) : (o.hold x).resv = o.resv := rfl
@[simp] theorem Open.hold_nst (o : Open) (x : CtlOp) : (o.hold x).nst = o.nst := rfl
@[simp] theorem Open.hold_npush (o : Open) (x : CtlOp) : (o.hold x).npush = o.npush := rfl
@[simp] theorem Open.hold_drain (o : Open) (x : CtlOp) : (o.hold x).drain = o.drain := rfl
@[simp] theorem Open.hold_aff (o : Open) (x : CtlOp) : (o.hold x).aff = o.aff := rfl
@[simp] theorem Open.hold_susp (o : Open) (x : CtlOp) : (o.hold x).susp = o.susp := rfl
@[simp] theorem Open.hold_traps (o : Open) (x : CtlOp) : (o.hold x).traps = o.traps := rfl
@[simp] theorem Open.hold_succ (o : Open) (x : CtlOp) : (o.hold x).succ = o.succ := rfl
@[simp] theorem Open.hold_fill (o : Open) (x : CtlOp) : (o.hold x).fill = o.fill := rfl
@[simp] theorem Open.hold_fillAsked (o : Open) (x : CtlOp) : (o.hold x).fillAsked = o.fillAsked := rfl
@[simp] theorem Open.hold_schedAsked (o : Open) (x : CtlOp) : (o.hold x).schedAsked = o.schedAsked := rfl
@[simp] theorem Open.hold_sched (o : Open) (x : CtlOp) : (o.hold x).sched = o.sched := rfl
@[simp] theorem Open.put_regs (o : Open) (i : BitVec 5) (v : Word) : (o.put i v).regs = o.regs.put i v := rfl
@[simp] theorem Open.pput_regs (o : Open) (i : BitVec 3) (b : Bool) : (o.pput i b).regs = o.regs.pput i b := rfl
@[simp] theorem Open.hold_ops (o : Open) (x : CtlOp) : (o.hold x).ops = o.ops ++ [x] := rfl

theorem ridx_inj {i j : BitVec 5} (h : i ≠ j) : ridx i ≠ ridx j := fun e => h (BitVec.eq_of_toNat_eq (congrArg Fin.val e))
theorem pidx_inj {i j : BitVec 3} (h : i ≠ j) : pidx i ≠ pidx j := fun e => h (BitVec.eq_of_toNat_eq (congrArg Fin.val e))

/-- s0 reads zero. -/
@[simp] theorem Regs.get_zero (r : Regs) : r.get 0 = 0 := rfl
@[simp] theorem Regs.isFull_zero (r : Regs) : r.isFull 0 = true := rfl
@[simp] theorem Regs.pget_zero (r : Regs) : r.pget 0 = true := rfl
/-- A write to s0 is discarded. -/
@[simp] theorem Regs.put_zero (r : Regs) (v : Word) : r.put 0 v = r := rfl
theorem Regs.put_of_ne (r : Regs) {i : BitVec 5} (h : i ≠ 0) (v : Word) : r.put i v = { r with x := vset r.x (ridx i) ⟨v, none⟩ } := if_neg h
theorem Regs.get_of_ne (r : Regs) {i : BitVec 5} (h : i ≠ 0) : r.get i = (vget r.x (ridx i)).val := if_neg h
theorem Regs.isFull_of_ne (r : Regs) {i : BitVec 5} (h : i ≠ 0) : r.isFull i = (vget r.x (ridx i)).wait.isNone := by
  unfold Regs.isFull; rw [beq_eq_false_iff_ne.mpr h, Bool.false_or]
theorem Regs.pput_of_ne (r : Regs) {i : BitVec 3} (h : i ≠ 0) (b : Bool) : r.pput i b = { r with p := vset r.p (pidx i) b } := if_neg h
theorem Regs.pget_of_ne (r : Regs) {i : BitVec 3} (h : i ≠ 0) : r.pget i = vget r.p (pidx i) := by
  unfold Regs.pget; rw [beq_eq_false_iff_ne.mpr h, Bool.false_or]

/-- What a register reads after a write: the value where it is the one written and not s0, else as before. -/
theorem Regs.get_put (r : Regs) (i j : BitVec 5) (v : Word) : (r.put i v).get j = if j = i ∧ i ≠ 0 then v else r.get j := by
  by_cases hi : i = 0
  · rw [if_neg (fun h => h.2 hi), hi, Regs.put_zero]
  · rw [Regs.put_of_ne r hi]
    by_cases hj : j = i
    · rw [if_pos ⟨hj, hi⟩, Regs.get_of_ne _ (hj ▸ hi), hj]; exact congrArg SReg.val (vget_vset_same _ _ _)
    · rw [if_neg (fun h => hj h.1)]
      by_cases h0 : j = 0
      · rw [h0]; rfl
      · rw [Regs.get_of_ne _ h0, Regs.get_of_ne _ h0]; exact congrArg SReg.val (vget_vset_ne _ (ridx_inj (Ne.symm hj)) _)
/-- A write sets its register full and changes no other. -/
theorem Regs.isFull_put (r : Regs) (i j : BitVec 5) (v : Word) : (r.put i v).isFull j = (decide (j = i) || r.isFull j) := by
  by_cases hi : i = 0
  · rw [hi, Regs.put_zero]
    by_cases hj : j = 0
    · rw [hj]; rfl
    · rw [decide_eq_false hj, Bool.false_or]
  · rw [Regs.put_of_ne r hi]
    by_cases hj : j = i
    · rw [decide_eq_true hj, Regs.isFull_of_ne _ (hj ▸ hi), hj]; exact congrArg (fun x : SReg => x.wait.isNone) (vget_vset_same _ _ _)
    · rw [decide_eq_false hj, Bool.false_or]
      by_cases h0 : j = 0
      · rw [h0]; rfl
      · rw [Regs.isFull_of_ne _ h0, Regs.isFull_of_ne _ h0]; exact congrArg (fun x : SReg => x.wait.isNone) (vget_vset_ne _ (ridx_inj (Ne.symm hj)) _)
@[simp] theorem Regs.pget_put (r : Regs) (i : BitVec 5) (v : Word) (p : BitVec 3) : (r.put i v).pget p = r.pget p := by
  by_cases h : i = 0
  · rw [h, Regs.put_zero]
  · rw [Regs.put_of_ne r h]; rfl
@[simp] theorem Regs.get_pput (r : Regs) (p : BitVec 3) (b : Bool) (i : BitVec 5) : (r.pput p b).get i = r.get i := by
  by_cases h : p = 0
  · rw [h]; rfl
  · rw [Regs.pput_of_ne r h]; rfl
@[simp] theorem Regs.isFull_pput (r : Regs) (p : BitVec 3) (b : Bool) (i : BitVec 5) : (r.pput p b).isFull i = r.isFull i := by
  by_cases h : p = 0
  · rw [h]; rfl
  · rw [Regs.pput_of_ne r h]; rfl
/-- What a predicate reads after a write; p0 reads true always. -/
theorem Regs.pget_pput (r : Regs) (p q : BitVec 3) (b : Bool) : (r.pput p b).pget q = if q = p ∧ p ≠ 0 then b else r.pget q := by
  by_cases hp : p = 0
  · rw [if_neg (fun h => h.2 hp), hp]; rfl
  · rw [Regs.pput_of_ne r hp]
    by_cases hq : q = p
    · rw [if_pos ⟨hq, hp⟩, Regs.pget_of_ne _ (hq ▸ hp), hq]; exact vget_vset_same _ _ _
    · rw [if_neg (fun h => hq h.1)]
      by_cases h0 : q = 0
      · rw [h0]; rfl
      · rw [Regs.pget_of_ne _ h0, Regs.pget_of_ne _ h0]; exact vget_vset_ne _ (pidx_inj (Ne.symm hq)) _

end Sys2Proof.Machine
end

