-- ==== Sys2Proof/Laws/Core.lean ====
section
/-! SUPPORT. What the shared operations of the machine can do: a control word, an engine word, a unit, taking a fault, a message, a translation, a read of a saved block. -/

set_option Elab.async false

namespace Sys2Proof.Machine

/-! ## A control word -/

theorem ctlDo_ok {s s' d k b h na} (hc : AtCore s d k b) (f : State → DieId → SlotId → Open → CRes) {b'} (e : f s d k b = .ok s' b') :
    ctlDo h na f s = bodyNext s' d k b' h na := by
  unfold ctlDo; rw [hc.ag]; dsimp only; rw [hc.die, hc.opn]; dsimp only; rw [e]; rfl
theorem ctlDo_wait {s s' d k b h na} (hc : AtCore s d k b) (f : State → DieId → SlotId → Open → CRes) (e : f s d k b = .wait s') :
    ctlDo h na f s = .next s' := by
  unfold ctlDo; rw [hc.ag]; dsimp only; rw [hc.die, hc.opn]; dsimp only; rw [e]
theorem ctlDo_fault {s s' d k b h na c a u i} (hc : AtCore s d k b) (f : State → DieId → SlotId → Open → CRes) (e : f s d k b = .fault s' c a u i) :
    ctlDo h na f s = .next (ctlFault s' d k b b.pos c a u i) := by
  unfold ctlDo; rw [hc.ag]; dsimp only; rw [hc.die, hc.opn]; dsimp only; rw [e]
theorem src_full {s o b r f} (h : o.regs.isFull r = true) : src s o b r f = f (o.regs.get r) := by simp [src, h]
theorem held_none {s d k f} (h : (s.ctl d k).acq = none) : held s d k f = f := by simp [held, h]

/-! ## An engine word, a unit -/

theorem engDo_run {s : State} {r : Run} (f : State → Cur → Run → State) (h : s.run s.cur = some r) : engDo f s = .next (f s s.cur r) := by simp only [engDo, h]
theorem engDo_none {s : State} (f : State → Cur → Run → State) (h : s.run s.cur = none) : engDo f s = .next s := by simp only [engDo, h]
theorem engDo_next (f : State → Cur → Run → State) (s : State) : ∃ t, engDo f s = .next t := by
  cases h : s.run s.cur with
  | none => exact ⟨s, engDo_none f h⟩
  | some r => exact ⟨_, engDo_run f h⟩
@[simp] theorem unitDo_ok (s : State) (c : Cur) (r : Run) (u : Nat) (s' : State) (r' : Run) : unitDo s c r u (.ok s' r') = s'.setRun c r' := rfl
@[simp] theorem unitDo_wait (s : State) (c : Cur) (r : Run) (u : Nat) : unitDo s c r u .wait = s := rfl
@[simp] theorem unitDo_fault (s : State) (c : Cur) (r : Run) (u : Nat) (s' : State) (code : Nat) (a : Word) : unitDo s c r u (.fault s' code a) = runFault (s.unwind s' c r) c r code a u 0 := rfl

/-! ## Memory through the updates of other things -/

theorem SameMem.refl (s : State) : SameMem s s := fun _ _ => rfl
theorem SameMem.trans {s t u : State} (h : SameMem s t) (g : SameMem t u) : SameMem s u := fun d a => (g d a).trans (h d a)
/-- An update of a die that leaves its memory leaves every byte of every die. -/
theorem sameMem_modDie (s : State) (d : DieId) (f : Die → Die) (h : (f (s.die d)).mem = (s.die d).mem) : SameMem s (s.modDie d f) := by
  intro e a
  by_cases g : d = e
  · subst g; simp [h]
  · rw [State.die_modDie_ne s g]
theorem memInv_modDie (s : State) (d : DieId) (f : Die → Die) (h : MemInv s) (hf : memWf (s.die d).mem = true → memWf (f (s.die d)).mem = true) : MemInv (s.modDie d f) := by
  intro e
  by_cases g : d = e
  · subst g; simpa using hf (h d)
  · rw [State.die_modDie_ne s g]; exact h e
@[simp] theorem Die.modAg_mem (d : Die) (a : Agent) (f : AgentSt → AgentSt) : (d.modAg a f).mem = d.mem := by
  rcases a with k | ⟨k, e⟩ | c | _ | n
  · rfl
  · cases e <;> rfl
  all_goals rfl
@[simp] theorem Die.setRun_mem (d : Die) (a : Agent) (r : Option Run) : (d.setRun a r).mem = d.mem := by
  rcases a with k | ⟨k, e⟩ | c | _ | n
  · rfl
  · cases e <;> rfl
  all_goals rfl
@[simp] theorem Die.setCurRun_mem (d : Die) (c : Cur) (r : Option Run) : (d.setCurRun c r).mem = d.mem := by
  unfold Die.setCurRun
  split
  · split <;> rfl
  · exact Die.setRun_mem _ _ _
@[simp] theorem Die.modTlb_mem (d : Die) (t : TlbId) (f : List TlbEntry → List TlbEntry) : (d.modTlb t f).mem = d.mem := by cases t <;> rfl
@[simp] theorem Die.countSlot_mem (d : Die) (dn : DieId) (k : SlotId) (ev n : Nat) : (d.countSlot dn k ev n).mem = d.mem := by unfold Die.countSlot; split <;> rfl
@[simp] theorem Die.countDie_mem (d : Die) (dn : DieId) (a : Half) (ev : Nat) : (d.countDie dn a ev).mem = d.mem := by unfold Die.countDie; split <;> rfl
@[simp] theorem Die.rast_mem (d : Die) (dn : DieId) (p : Nat) (h : DieId) (c i : Nat) : (d.rast dn p h c i).mem = d.mem := rfl
theorem setRun_sameMem (s : State) (c : Cur) (r : Run) : SameMem s (s.setRun c r) := sameMem_modDie _ _ _ (Die.setCurRun_mem _ _ _)

/-! ## Messages -/

@[simp] theorem State.send_dies (s : State) (a b : DieId) (m : Msg) : (s.send a b m).dies = s.dies := by
  unfold State.send; split
  · rfl
  · split <;> rfl
theorem State.send_die (s : State) (a b : DieId) (m : Msg) (d : DieId) : (s.send a b m).die d = s.die d := congrArg (fun v => vget v d) (State.send_dies s a b m)
@[simp] theorem State.send_agenda (s : State) (a b : DieId) (m : Msg) : (s.send a b m).agenda = s.agenda := by
  unfold State.send; split
  · rfl
  · split <;> rfl
/-- A fold of messages leaves every die. -/
theorem State.sends_dies (l : List DieId) (s : State) (d : DieId) (m : State → DieId → Msg) : (l.foldl (fun s h => s.send d h (m s h)) s).dies = s.dies := by
  induction l generalizing s with
  | nil => rfl
  | cons h r ih => rw [List.foldl_cons, ih]; exact State.send_dies _ _ _ _
/-- Beats change nothing of a die but the age of its last beats. -/
theorem State.beats_die (s : State) (d e : DieId) : (s.beats d).die e = if d = e then { s.die e with beatAge := 0 } else s.die e := by
  have g : ∀ e, ((allDies.filter (· != d)).foldl (fun s h => s.send d h (.beat (vget (s.die d).gate.v d))) s).die e = s.die e := fun e => congrArg (fun v => vget v e) (State.sends_dies _ s d _)
  unfold State.beats
  by_cases h : d = e
  · subst h; rw [if_pos rfl, State.die_modDie_same, g]
  · rw [if_neg h, State.die_modDie_ne _ h, g]

/-! ## Taking a fault (R363, R364) -/

/-- The agent's fault is recorded, and a record already there is kept. -/
theorem takeFault_none {s : State} {d : DieId} {k : SlotId} {a : Nat} (f : FaultAt) (h : s.openRec d k a = none) :
    takeFault s d k a f = s.modSlot d k fun t =>
      let t := if a == 0 then t.discard else t
      let t := if a == 0 && !codeRpl f.code then t.dropRows.modCtl fun c => { c with act := .faulted } else t
      { t with flt := vmod t.flt (agNum a) fun p => match p with | some p => some p | none => some ⟨(s.die d).faultRec d k a f, none, none⟩ } := by
  unfold takeFault; (rw [h] <;> rfl)
theorem takeFault_sameMem (s : State) (d : DieId) (k : SlotId) (a : Nat) (f : FaultAt) : SameMem s (takeFault s d k a f) := by
  unfold takeFault
  dsimp only
  split
  · exact (sameMem_modDie s d _ rfl).trans (sameMem_modDie _ d _ rfl)
  · exact sameMem_modDie s d _ rfl
theorem ownFault_sameMem (s : State) (d : DieId) (o : Owner) (k : SlotId) (f : FaultAt) : SameMem s (ownFault s d o k f) := by
  unfold ownFault
  split
  · exact takeFault_sameMem _ _ _ _ _
  · split
    · exact SameMem.refl _
    · exact sameMem_modDie s _ _ rfl
@[simp] theorem Die.heldTold_mem (d : Die) (c : Cur) (f : FaultAt) : (d.heldTold c f).mem = d.mem := by
  unfold Die.heldTold
  split
  · split
    · split
      · exact Die.setCurRun_mem _ _ _
      · rfl
    · rfl
  · rfl
theorem agentFault_sameMem (s : State) (c : Cur) (r : Run) (f : FaultAt) : SameMem s (agentFault s c r f) := by
  have h := sameMem_modDie s c.die (fun d => d.heldTold c f) (Die.heldTold_mem _ _ _)
  unfold agentFault
  dsimp only
  generalize s.modDie c.die (fun d => d.heldTold c f) = t at h ⊢
  refine h.trans ?_
  split
  · exact ownFault_sameMem _ _ _ _ _
  · exact ownFault_sameMem _ _ _ _ _
  · exact takeFault_sameMem _ _ _ _ _
theorem runFault_sameMem (s : State) (c : Cur) (r : Run) (code : Nat) (a : Word) (u : Nat) (i : Word) : SameMem s (runFault s c r code a u i) := agentFault_sameMem _ _ _ _

/-! ## Translations and accesses (R86 to R91, R181) -/

/-- The die an answer leaves. -/
def XRes.die {α : Type} : XRes α → Die
  | .ok d _ => d
  | .wait d => d
  | .fault d _ _ => d

theorem walkRead_die (d : Die) (c : Bool) (a va : Nat) : (walkRead d c a va).die = d := by
  unfold walkRead
  split
  · rfl
  · split
    · rfl
    · split <;> rfl
theorem ite_wf {α : Type} {c : Prop} [Decidable c] {a b : XRes α} (ha : memWf a.die.mem = true) (hb : memWf b.die.mem = true) : memWf (if c then a else b).die.mem = true := by
  split
  · exact ha
  · exact hb
theorem walkLevels_wf (dn : DieId) (c wr : Bool) (asid : Half) (va : Nat) : ∀ (l : List Nat) (t : Nat) (d : Die), memWf d.mem = true → memWf (walkLevels dn c wr asid va l t d).die.mem = true
  | [], _, d, h => h
  | lvl :: r, t, d, h => by
    have e := walkRead_die d c (t + 8 * (va / 2 ^ (43 - 9 * lvl) % 512)) va
    unfold walkLevels
    dsimp only
    cases g : walkRead d c (t + 8 * (va / 2 ^ (43 - 9 * lvl) % 512)) va with
    | fault y a b => rw [g] at e; obtain rfl : y = d := e; exact h
    | wait y => rw [g] at e; obtain rfl : y = d := e; exact h
    | ok y w =>
      rw [g] at e
      obtain rfl : y = d := e
      refine ite_wf h (ite_wf ?_ (walkLevels_wf dn c wr asid va r _ _ h))
      dsimp only [XRes.die]
      generalize (w ||| 64#64 ||| if wr = true then 128#64 else 0 : Word) = v
      by_cases q : (v == w) = true
      · rw [if_pos q]; exact h
      · rw [if_neg q]; exact memWf_poke _ _ _ _ h
theorem walk_wf (dn : DieId) (d : Die) (c wr : Bool) (asid : Half) (va : Nat) (h : memWf d.mem = true) : memWf (walk dn d c wr asid va).die.mem = true := by
  unfold walk
  refine ite_wf h (ite_wf h ?_)
  dsimp only
  have e := walkRead_die d c ((d.getReg dn rASIDBASE &&& bits 47 20).toNat + 16 * asid.toNat) va
  cases g : walkRead d c ((d.getReg dn rASIDBASE &&& bits 47 20).toNat + 16 * asid.toNat) va with
  | fault y a b => rw [g] at e; obtain rfl : y = d := e; exact h
  | wait y => rw [g] at e; obtain rfl : y = d := e; exact h
  | ok y w =>
    rw [g] at e
    obtain rfl : y = d := e
    exact ite_wf h (walkLevels_wf dn c wr asid va _ _ _ h)
@[simp] theorem Die.countMiss_mem (d : Die) (dn : DieId) (t : TlbId) (a : Half) : (d.countMiss dn t a).mem = d.mem := by
  unfold Die.countMiss
  rw [Die.countDie_mem]
  cases t
  · exact Die.countSlot_mem _ _ _ _ _
  · rfl
  · rfl
/-- A translation keeps the memory's form. -/
theorem translate_wf (dn : DieId) (d : Die) (t : TlbId) (asid : Half) (va : Nat) (wr : Bool) (h : memWf d.mem = true) : memWf (Machine.translate dn d t asid va wr).die.mem = true := by
  unfold Machine.translate
  refine ite_wf h ?_
  cases (d.tlb t).find? (·.covers asid va) with
  | some e => exact h
  | none =>
    dsimp only
    have g := walk_wf dn d false wr asid va h
    cases q : walk dn d false wr asid va with
    | fault z a b => rw [q] at g; exact (congrArg memWf (Die.countMiss_mem z dn t asid)).trans g
    | wait z => rw [q] at g; exact g
    | ok z a => rw [q] at g; exact (congrArg memWf ((Die.modTlb_mem _ t fun l => (a :: l).take 2048).trans (Die.countMiss_mem z dn t asid))).trans g
theorem importLoc_mem (dn : DieId) (d : Die) (mt imp off va : Nat) : (importLoc dn d mt imp off va).die.mem = d.mem := by
  unfold importLoc
  dsimp only
  repeat' split
  all_goals rfl
/-- An access keeps the memory's form. -/
theorem access_wf (dn : DieId) (d : Die) (w : Who) (va len : Nat) (n : Need) (h : memWf d.mem = true) : memWf (access dn d w va len n).die.mem = true := by
  have e := translate_wf dn d w.tlb w.asid va n.wr h
  unfold access
  split
  · exact h
  cases q : Machine.translate dn d w.tlb w.asid va n.wr with
  | fault z a b => rw [q] at e; exact e
  | wait z => rw [q] at e; exact e
  | ok y en =>
    rw [q] at e
    have e' : memWf y.mem = true := e
    dsimp only
    refine ite_wf e' (ite_wf e' (ite_wf e' (ite_wf ?_ (ite_wf e' e'))))
    have i := importLoc_mem dn y (fld en.pte 8 3) (fld en.pte 48 12) (fld en.pte 12 36 * 4096 + (va - en.va)) va
    cases g : importLoc dn y (fld en.pte 8 3) (fld en.pte 48 12) (fld en.pte 12 36 * 4096 + (va - en.va)) va with
    | fault z a b => rw [g] at i; exact (congrArg memWf i).trans e'
    | wait z => rw [g] at i; exact (congrArg memWf i).trans e'
    | ok z a => rw [g] at i; exact (congrArg memWf i).trans e'
theorem accessAll_wf (dn : DieId) (w : Who) (n : Need) : ∀ (l : List (Nat × Nat)) (d : Die), memWf d.mem = true → memWf (accessAll dn w n l d).die.mem = true
  | [], _, h => h
  | (va, len) :: r, d, h => by
    have e := access_wf dn d w va len n h
    unfold accessAll
    cases q : access dn d w va len n with
    | fault y c x => rw [q] at e; exact e
    | wait y => rw [q] at e; exact e
    | ok y p =>
      rw [q] at e
      have g := accessAll_wf dn w n r y e
      dsimp only
      cases q' : accessAll dn w n r y with
      | fault y c x => rw [q'] at g; exact g
      | wait y => rw [q'] at g; exact g
      | ok y ps => rw [q'] at g; exact g
theorem accessRow_wf (dn : DieId) (d : Die) (w : Who) (va len : Nat) (n : Need) (h : memWf d.mem = true) : memWf (accessRow dn d w va len n).die.mem = true := accessAll_wf dn w n _ d h

/-! ## Reading a saved block -/

theorem keep_die (s : State) (d : DieId) : (s.modDie d fun _ => s.die d) = s := by
  have : vmod s.dies d (fun _ => s.die d) = s.dies := by
    ext i hi
    simp only [vmod, vset, State.die, vget, Vector.getElem_set]
    split
    · next h => subst h; rfl
    · rfl
  unfold State.modDie
  rw [this]

end Sys2Proof.Machine
end

