-- ==== Sys2Proof/Tests/Slice0.lean ====
section
/-! SUPPORT. Tests on single steps of small states: the well-formedness checks, the encodings of the spec, and, for each obligation with hypotheses, a state and operands that meet them. -/

set_option Elab.async false

open Sys2Proof Sys2Proof.Machine

namespace Sys2Proof.Tests

/-! ## Small states -/

def isOk {α : Type} (x : XRes α) : Bool := match x with | .ok _ _ => true | _ => false
def okWith {α : Type} (x : XRes α) (f : Die → α → Bool) : Bool := match x with | .ok y a => f y a | _ => false
def gotWith {α : Type} (x : Got α) (f : State → α → Bool) : Bool := match x with | .ok s a => f s a | _ => false
def isGot {α : Type} (x : Got α) : Bool := gotWith x fun _ _ => true

/-- A block at its first word. -/
def blk0 : Open :=
  { hdr := 0x10000, len := 2, nex := 0, sw := none, first := 2, count := 1, iter := 0, pos := 2, phase := .body, bad := none, regs := Regs.fresh, ops := [], toks := 0
    wait := none, waitNa := 0, resv := [], nst := 0, npush := .replicate 6 0, drain := none, aff := [], susp := none, traps := [], succ := .undecided
    fill := [], fillAsked := false, schedAsked := false, sched := none }
/-- The same block with s5 empty. -/
def blkE : Open := { blk0 with regs := Regs.fresh.empty 5 7 }
/-- The same block with a value in s5. -/
def blkV (v : Word) : Open := { blk0 with regs := Regs.fresh.put 5 v }

/-- A page of die memory, readable and writable, at its own address. -/
def page (va : Nat) (mt : Nat) : TlbEntry := ⟨0, true, va, 16, BitVec.ofNat 64 (va + 0x6F + 256 * mt), 0, true⟩

/-- After reset, with the table of page tables enabled (R86, R88). -/
def rst : State := State.reset.modDie 0 fun y => y.setReg rASIDBASE 1

/-- Slot 0 of d0 runs block `b`; `f` sets what else the test needs of the slot. -/
def coreS (b : Open) (f : Slot → Slot := id) : State :=
  { rst.modSlot 0 0 fun t => f { t with ctl := { t.ctl with act := .running, pc := 0x10000, opn := some b } } with cur := ⟨0, .core 0, 8⟩ }

theorem coreS_at (b : Open) (f : Slot → Slot) (h : (f { Slot.reset with ctl := { Slot.reset.ctl with act := .running, pc := 0x10000, opn := some b } }).ctl.opn = some b) :
    AtCore (coreS b f) 0 0 b := ⟨rfl, rfl, h⟩

def x5 : BitVec 5 := 5
def rrr (ba bb : Bool) : RRR := ⟨3, ba, 5, bb, 6, 0⟩
def ri (ba : Bool) (imm : BitVec 11) : RI := ⟨3, ba, 5, imm, 0⟩

/-- One read of a piece of die memory at its own address. -/
def pc (pa len : Nat) : Piece := ⟨.here pa, pa, len, none, ⟨0, true, 16⟩⟩
/-- The same in a window of d1. -/
def ppc : Piece := ⟨.peer 1 3 7 0, 0x80000, 8, none, ⟨0, true, 16⟩⟩
def eight : List Byte := [1, 2, 3, 4, 5, 6, 7, 8]

/-- A launch of node 5 of process 1 with one block of one strand, and that block on slot 0. -/
def rec0 : StrandRec := { StrandRec.new with on := true }
def blkL : Blk := { l := 0, st := .running, earl := false, slots := [0], recs := [rec0], lay := [], halted := 0, flts := [], aux := [], ctxs := [], since := none, res := [] }
def launch0 : Launch :=
  { id := 0, pid := 1, asid := 0, node := 5, cls := 1, pwr := false, shape := 0, entry := 0x10000, sched := 0, swcnt := 0, param := 9, gx := 1, gy := 1, gz := 1, gbase := 0
    zw := 0, teamsz := 1, seed := 1, csAt := 0x20000, spAt := 0x30000, spsz := 0x1000, cxAt := 0x40000, cmpl := 0, prbase := 0, prcnt := 4, nbase := 0, ncnt := 16, preds := []
    cnt := 0, ready := true, mayStart := false, bulk := false, st := .active, untold := false, inputs := [], blks := [blkL], mark := 0, snap := zero5 }
def own0 : Owner := ⟨0, 0, 0⟩
/-- `s` with launches `ls` known to the scheduler of d0 and slot 0 bound to the strand. -/
def owned (s : State) (ls : List Launch) : State :=
  (s.modSched 0 fun q => { q with launches := ls, nextId := 8, teams := [⟨0, 0, 0, false, 0, 0, 0, false, false, none, []⟩] }).modSlot 0 0 fun t => { t with ctl := { t.ctl with own := some own0 } }
/-- d0 with bytes at an address. -/
def poked (s : State) (a : Nat) (bs : List Byte) : State := s.modDie 0 fun y => y.pokes a bs false

def loadS (b : Open) : State := coreS b fun t => { t with tlb := [page 0x10000 0] }
def blkSt : Open := { blkV 0x10008 with ops := [.store ⟨pc 0x10008 8, eight⟩ 0] }
/-! ## Commits -/

/-- A block at its end. -/
def endB (x : Succ) (ops : List CtlOp := []) : Open := { blk0 with phase := .ready, succ := x, ops := ops }
def readyOf (s : State) (b : Open) : Ready := match preCommit s 0 0 b with | .ok _ r => r | _ => ⟨none, [], 0, [], []⟩
/-- The fields of `CommitReady` that are decided at once. -/
def readyB (s : State) (b : Open) : Bool :=
  decide ((s.ctl 0 0).opn = some b ∧ b.phase = .ready ∧ (s.slot 0 0).agCtl.rd = [] ∧ (s.slot 0 0).heldBy 0 = false ∧ vget (s.slot 0 0).stop 0 = false ∧ b.bad = none
    ∧ (∀ q : Fin 6, (vget (s.slot 0 0).q q).length + vget b.npush q ≤ 16) ∧ (∀ q : Fin 4, unfilled (s.slot 0 0) b q ≤ 16) ∧ (s.die 0).leaseCheck 0 0 (vget b.npush 3) = none ∧ b.drain = none)
theorem ready_of (s : State) (b : Open) (h : readyB s b = true) (c : preCommit s 0 0 b = .ok s (readyOf s b)) (f : ∀ a w, b.succ = .ret a w → b.fillAsked = true ∧ b.fill.length = 8) : CommitReady s 0 0 b (readyOf s b) := by
  have q := of_decide_eq_true h
  have u := q.2.2.2.2.2
  exact { opn := q.1, phase := q.2.1, reads := q.2.2.1, free := q.2.2.2.1, going := q.2.2.2.2.1, legal := And.left u, room := And.left (And.right u), pops := u.2.2.1, lease := u.2.2.2.1, drain := u.2.2.2.2, checks := c, filled := f }


def sent0 : Sent := ⟨0, 1, some ⟨7, pc 0x10008 8, .scalar 8 false [], 0, 0⟩, .write [] false 0 0, 0, 0, 24, 0x10008⟩

/-! ## Engines -/

def ent0 : Entry := ⟨0x10000, .replicate 8 0x10000, 0, 0, 1, 0, none⟩
/-- A run of one instruction by slot 0. -/
def run0 (i : Instr) (st : Bool) (e : Entry := ent0) : Run := { Run.fresh e 0 0 with code := [(2, i)], part := 0, count := 1, started := st }
/-- A 64-byte record: planes at 0x10200 and 0x10400, 512 bytes a row, one row, BF16. -/
def recImg : List Byte := natLe 8 0x10200 ++ natLe 8 0x10400 ++ natLe 8 (512 * 2 ^ 32) ++ natLe 8 (2 * 2 ^ 32 + 512 * 65536 + 1) ++ zeros 32
def eop (f1 f2 f3 : BitVec 5) : EOp := ⟨[], none, f1, false, f2, false, f3, 2, 0⟩
def engS (a : SlotEng) (f : Slot → Slot) : State := { rst.modSlot 0 0 f with cur := ⟨0, .eng 0 a, 8⟩ }
def gotOk {α : Type} (x : Got α) : Prop := isGot x = true
def chkOk (x : Chk) : Bool := match x with | .ok .. => true | _ => false
def chkFault (x : Chk) (f : Die → Nat → Nat → Bool) : Bool := match x with | .fault y c p _ => f y c p | _ => false
/-- The run of slot 0's engine `a` in a state built by `engS`. -/
def runS (a : SlotEng) (r : Run) (f : Slot → Slot := id) : State :=
  engS a fun t => f (match a with | .lde => { t with lde := some r } | .are => { t with are := some r } | .ste => { t with ste := some r } | .mxe => { t with mxe := some r })
/-- The block of one `nop` for an engine. -/
def nopE : List Byte := [0xF3, 0x13, 0x40, 0x00, 0x02, 0x00]
def codePage (va : Nat) : TlbEntry := ⟨0, true, va, 16, BitVec.ofNat 64 (va + 0x77), 0, true⟩
/-- A page of the vault of cluster 0. -/
def vpage (va : Nat) : TlbEntry := ⟨0, true, va, 16, BitVec.ofNat 64 (vault0 + 0x16F), 0, true⟩
def frag (sh : Fin 6) (b : SlotId) (dst : Option SlotId := none) : Lay := ⟨true, sh, b, .plusTimes, 0, dst, []⟩
def cop : COp := ⟨0, 1, 2, 2, 0⟩
/-- The parameters of an entry: e0, e1, e2, and zero. -/
def ent3 (a b c : Nat) : Entry := { ent0 with e := #v[BitVec.ofNat 64 a, BitVec.ofNat 64 b, BitVec.ofNat 64 c, 0, 0, 0, 0, 0] }
def asm0 (key n : Nat) : Asm := ⟨key, n, [(0, zeros n)], false, []⟩
/-- Copy engine 0 at a word of slot 0. -/
def cpS (r : Run) (asm : List Asm := []) (tlb : List TlbEntry := [page 0x10000 0]) : State :=
  { rst.modDie 0 fun y => { y with cpe := vset y.cpe 0 { CopyEng.reset with run := some r, tlb := tlb, ag := { AgentSt.empty with asm := asm } } } with cur := ⟨0, .copy 0, 8⟩ }
/-- A group table with group 0 in it: kind 2, this die member 1 of 2, its handle export entry 0 of generation 0. -/
def grpS (s : State) : State :=
  poked (poked (s.modDie 0 fun y => y.setReg rGRPBASE 0x60001) 0x60000 (natLe 8 (2 ^ 63 + 2 * 2 ^ 61 + 1 * 2 ^ 32 + 2 * 2 ^ 16) ++ natLe 8 0x70000)) 0x70000 (natLe 8 0 ++ natLe 8 0)
/-- d0 with one page of its memory, from 0x10000 on, in entry 0 of its export table. -/
def expS : State := poked (rst.modDie 0 fun y => y.setReg rEXPBASE 0x20001) 0x20000 (natLe 8 0x10000 ++ natLe 8 0x10000 ++ natLe 8 0x1F0000)
def expOk (s : State) (off len kind : Nat) (fab : Bool) : Bool := match (s.die 0).exportAddr 0 0 0 off len kind fab with | .ok pa => pa == 0x10000 + off | .error _ => false
/-- The same with messages from d1 at its gate. -/
def gateS (ms : List Msg) (f : Gate → Gate := id) : State :=
  expS.modDie 0 fun y => { y with gate := f { y.gate with arr := vset y.gate.arr 1 ms, taken := vset y.gate.taken 1 true } }
/-- A remote page at 0x80000: import entry 0, offset 0. -/
def peerPage : TlbEntry := ⟨0, true, 0x80000, 16, BitVec.ofNat 64 0x26F, 0, true⟩
/-- An import table whose entry 0 names export entry 3, generation 7, of d1. -/
def impS (s : State) : State := poked (s.modDie 0 fun y => y.setReg rIMPBASE 0xA0001) 0xA0000 (natLe 8 (3 + 7 * 2 ^ 32 + 2 ^ 50) ++ natLe 8 1)
def isPeer (p : Piece) : Bool := match p.loc with | .peer .. => true | _ => false
def step1 (nt : Nat) : KStep := ⟨100, 0x10000, 0x10200, nt⟩
def kctx (r : Option Run) (w : Option KWait := none) (nt : Nat := 0) : KCtx :=
  { ent := ent0, slot := 0, own := own0, tt0 := 0x10000, tt := 0x10000, next := 0, flog2 := 10, steps := [step1 nt], t0 := 0, grp := 0, nr := 1, round := 0, frame := 0, base := 0, inFrame := true, step := 0
    run := r, released := false, ofs := 0, cause := 0, nslip := 0, cnts := .replicate 64 5, gens := [], wait := w, away := false, stopped := false, resumed := false, flags := 0 }
/-- Context 0 of the collective engine of d0 at a word. -/
def kS (k : KCtx) (asm : List Asm := []) (s : State := owned rst [launch0]) : State :=
  { s.modDie 0 fun y => { y with coe := { y.coe with ctx := vset y.coe.ctx 0 (some k), ag := { AgentSt.empty with asm := asm }, tlb := [page 0x10000 0] } } with cur := ⟨0, .coll, 0⟩ }
def kw : KWait := ⟨1, 0, 0, true, 0⟩
def kr (i : Instr) (e : Entry) (part : Nat := 0) (st : Bool := true) : Run := { run0 i st e with part := part }
/-- The process table at 0xC0000, journal at 0xE0000, process 1 kicked; its entry and its ring at 0xD0000. -/
def kickS (ent ring : List Byte) : State :=
  poked (poked ((rst.modDie 0 fun y => (y.setReg rPROCBASE 0xC0001).setReg rSJBASE (BitVec.ofNat 64 (2 ^ 63 + 0xE0000))).modSched 0 fun q => { q with kick := vset q.kick 1 true }) 0xC0040 ent) 0xD0000 ring
/-- A process entry: ring of 512 bytes, `TAIL`, nodes 0 to 15. -/
def procB (tail : Nat) : List Byte := natLe 8 0xD0000 ++ natLe 8 (2 ^ 63 + 512) ++ natLe 8 tail ++ natLe 8 0 ++ natLe 8 (16 * 65536) ++ zeros 24
/-- A record: node 5, class, predecessors, team size; descriptor at 0x10000; grid of one block. -/
def recB (cls np ts : Nat) : List Byte := natLe 8 (5 + 65536 * cls) ++ natLe 8 0x10000 ++ natLe 8 0 ++ natLe 8 (1 + 65536 + 2 ^ 32) ++ natLe 8 ts ++ zeros 32 ++ natLe 8 np ++ zeros 176
def proc0 : Proc := ⟨0xC0040, 0xD0000, true, false, 0, 512, 256, 0, 0, 0, 16, 0, 0, 0, 0⟩
/-- A descriptor at 0x10000. -/
def descS (ls : List Launch) : State := poked ((owned rst ls).modDie 0 fun y => { y with coe := { y.coe with tlb := [page 0x10000 0] } }) 0x10000 (natLe 8 0x10000 ++ zeros 24 ++ natLe 8 (2 ^ 28) ++ zeros 24)
/-! ### A large page of die memory -/

def bigPage : TlbEntry := ⟨0, true, 0, 25, 0x6F, 0, true⟩
def cs0 : Who := ⟨.coll, 0, none, none⟩

/-- A die whose collective engine sees the large page, page tables enabled. -/
def Big (d : Die) : Prop := d.coe.tlb = [bigPage] ∧ bitAt (d.getReg 0 rASIDBASE) 0 = true

theorem access_big (d : Die) (h : Big d) (va len : Nat) (hv : va + len ≤ 2 ^ 25) (hl : 0 < len) (rd wr : Bool) :
    access 0 d cs0 va len ⟨[0], rd, wr⟩ = .ok d ⟨.here va, va, len, none, ⟨0, true, 25⟩⟩ := by
  have h1 : ¬ 2 ^ 52 ≤ va := by omega
  have h2 : va < 2 ^ 25 := by omega
  have ht : Machine.translate 0 d cs0.tlb cs0.asid va wr = .ok d bigPage := by
    have hc : bigPage.covers cs0.asid va = true := by
      have a : decide (bigPage.va ≤ va) = true := decide_eq_true (Nat.zero_le va)
      have b : decide (va < bigPage.va + 2 ^ bigPage.bits) = true := decide_eq_true (by show va < 0 + 2 ^ 25; omega)
      unfold TlbEntry.covers
      rw [a, b]
      rfl
    have hf : (d.tlb cs0.tlb).find? (·.covers cs0.asid va) = some bigPage := by
      have : d.tlb cs0.tlb = [bigPage] := h.1
      rw [this, List.find?_cons, hc]
    have hn : (!bitAt (d.getReg 0 rASIDBASE) 0 || decide (2 ^ 52 ≤ va)) = false := by
      simp only [h.2, decide_eq_false h1]
      rfl
    unfold Machine.translate
    rw [if_neg (by rw [hn]; decide), hf]
  have e1 : fld bigPage.pte 8 3 = 0 := by decide
  have e2 : fld bigPage.pte 12 36 = 0 := by decide
  have e3 : bitAt bigPage.pte 11 = false := by decide
  have e4 : bitAt bigPage.pte 2 = true := by decide
  have e5 : bitAt bigPage.pte 3 = true := by decide
  have e6 : bigPage.d = true := rfl
  have e7 : bigPage.va = 0 := rfl
  have e8 : isDieMem (va + len - 1) = true := decide_eq_true (show va + len - 1 < 0x20_0000_0000 by omega)
  have hh : cs0.heldAt va len = none := rfl
  unfold access
  rw [hh]
  dsimp only
  rw [ht]
  simp [e1, e2, e3, e4, e5, e6, e7, e8]
  exact ⟨rfl, rfl, rfl⟩

theorem accessAll_big (d : Die) (h : Big d) (rd wr : Bool) :
    ∀ l : List (Nat × Nat), (∀ p ∈ l, p.1 + p.2 ≤ 2 ^ 25 ∧ 0 < p.2) → accessAll 0 cs0 ⟨[0], rd, wr⟩ l d = .ok d (l.map fun p => ⟨.here p.1, p.1, p.2, none, ⟨0, true, 25⟩⟩)
  | [], _ => rfl
  | (va, len) :: r, hp => by
    have h0 := hp (va, len) (by simp)
    simp [accessAll, access_big d h va len h0.1 h0.2, accessAll_big d h rd wr r fun p q => hp p (by simp [q])]
    rfl

theorem cut_big (va len : Nat) (hv : va + len ≤ 2 ^ 25) : ∀ p ∈ cutLines va len, p.1 + p.2 ≤ 2 ^ 25 ∧ 0 < p.2 := by
  intro p hp
  simp only [cutLines, List.mem_map, linesOf] at hp
  obtain ⟨n, hn, rfl⟩ := hp
  split at hn
  · simp at hn
  · simp only [List.mem_map, List.mem_range] at hn
    obtain ⟨m, hm, rfl⟩ := hn
    dsimp only
    omega

theorem row_big (d : Die) (h : Big d) (va len : Nat) (hv : va + len ≤ 2 ^ 25) (rd wr : Bool) :
    accessRow 0 d cs0 va len ⟨[0], rd, wr⟩ = .ok d ((cutLines va len).map fun p => ⟨.here p.1, p.1, p.2, none, ⟨0, true, 25⟩⟩) :=
  accessAll_big d h rd wr _ (cut_big va len hv)

/-- What a save leaves alone. -/
def Saved (d y : Die) : Prop := Big y ∧ y.sched = d.sched ∧ y.coe = d.coe ∧ y.held = d.held

theorem Saved.trans {d y z : Die} (a : Saved d y) (b : Saved y z) : Saved d z :=
  ⟨b.1, b.2.1.trans a.2.1, b.2.2.1.trans a.2.2.1, b.2.2.2.trans a.2.2.2⟩

theorem csAccess_big (d : Die) (h : Big d) (va n : Nat) (wr : Bool) (hv : va + n ≤ 2 ^ 25) :
    csAccess 0 d 0 va n wr = .ok d ((cutLines va n).map fun p => ⟨.here p.1, p.1, p.2, none, ⟨0, true, 25⟩⟩) := by
  unfold csAccess
  have e := row_big { d with gate := { d.gate with g := d.gate.v } } h va n hv (!wr) wr
  simp only [cs0] at e
  dsimp only
  rw [e]
  have f : ((cutLines va n).map fun p => (⟨.here p.1, p.1, p.2, none, ⟨0, true, 25⟩⟩ : Piece)).find? d.leafBad = none := by
    rw [List.find?_eq_none]
    intro p hp
    simp only [List.mem_map] at hp
    obtain ⟨_, _, rfl⟩ := hp
    simp [Die.leafBad]
  dsimp only
  have f' : ((cutLines va n).map fun p => (⟨.here p.1, p.1, p.2, none, ⟨0, true, 25⟩⟩ : Piece)).find? ({ d with gate := { d.gate with g := d.gate.v } } : Die).leafBad = none := f
  rw [f']

theorem store_big (d : Die) (h : Big d) (va : Nat) (bs : List Byte) (q : Bool) (hv : va + bs.length ≤ 2 ^ 25) :
    ∃ y, csStore 0 d 0 va bs q = .ok y () ∧ Saved d y := by
  unfold csStore
  rw [csAccess_big d h va bs.length true hv]
  refine ⟨_, rfl, ?_⟩
  have f : ∀ (l : List Piece) (y : Die), Saved d y → (∀ p ∈ l, p.dirty = none) →
      Saved d (l.foldl (fun d p => match p.loc with | .here pa => (d.markDirty .coll p).poke pa (slice bs (p.va - va) p.len) q | _ => d) y) := by
    intro l
    induction l with
    | nil => intro y a _; exact a
    | cons p r ih =>
      intro y a c
      have hd := c p (by simp)
      simp only [List.foldl_cons]
      refine ih _ ?_ fun x hx => c x (by simp [hx])
      split
      · simp only [Die.markDirty, hd]; exact a
      · exact a
  exact f _ _ ⟨h, rfl, rfl, rfl⟩ (by intro p hp; simp only [List.mem_map] at hp; obtain ⟨_, _, rfl⟩ := hp; rfl)

theorem image_big (base : Nat) : ∀ (i : Image) (d : Die), Big d → (∀ p ∈ i, base + p.1 + p.2.1.length ≤ 2 ^ 25) →
    ∃ y, putImage 0 0 base i d = .ok y () ∧ Saved d y
  | [], d, h, _ => ⟨d, rfl, h, rfl, rfl, rfl⟩
  | (o, bs, q) :: r, d, h, hp => by
    obtain ⟨y, e, h1⟩ := store_big d h (base + o) bs q (hp (o, bs, q) (by simp))
    obtain ⟨z, e', h2⟩ := image_big base r y h1.1 fun p hq => hp p (by simp [hq])
    exact ⟨z, by unfold putImage; rw [e]; exact e', h1.trans h2⟩

theorem all_big : ∀ (l : List (Nat × Image)) (d : Die), Big d → (∀ x ∈ l, ∀ p ∈ x.2, x.1 + p.1 + p.2.1.length ≤ 2 ^ 25) →
    ∃ y, putAll 0 0 l d = .ok y () ∧ Saved d y
  | [], d, h, _ => ⟨d, rfl, h, rfl, rfl, rfl⟩
  | (b, i) :: r, d, h, hp => by
    obtain ⟨y, e, h1⟩ := image_big b i d h (hp (b, i) (by simp))
    obtain ⟨z, e', h2⟩ := all_big r y h1.1 fun x hx => hp x (by simp [hx])
    exact ⟨z, by unfold putAll; rw [e]; exact e', h1.trans h2⟩

theorem load_big (d : Die) (h : Big d) (va n : Nat) (hv : va + n ≤ 2 ^ 25) :
    csLoad 0 d 0 va n = .ok d ((cutLines va n).flatMap fun p => d.peek p.1 p.2, (cutLines va n).any fun p => d.poisoned p.1 p.2) := by
  unfold csLoad
  rw [csAccess_big d h va n false hv]
  simp only [List.flatMap_map, List.any_map]
  rfl

/-- What a read of pieces gives. -/
def readOf (d : Die) (base : Nat) (l : List (Nat × Nat)) : Image :=
  l.map fun p => (p.1, (cutLines (base + p.1) p.2).flatMap fun q => d.peek q.1 q.2, (cutLines (base + p.1) p.2).any fun q => d.poisoned q.1 q.2)
theorem get_big (d : Die) (h : Big d) (base : Nat) : ∀ l : List (Nat × Nat), (∀ p ∈ l, base + p.1 + p.2 ≤ 2 ^ 25) → getImage 0 0 base l d = .ok d (readOf d base l)
  | [], _ => rfl
  | (o, n) :: r, hp => by
    have e := get_big d h base r fun p hq => hp p (by simp [hq])
    unfold getImage
    rw [load_big d h (base + o) n (hp (o, n) (by simp))]
    dsimp only
    rw [e]
    rfl

def launchC : Launch := { launch0 with cxAt := 0x100000 }
def blkQ : Blk := { blkL with st := .queued, slots := [] }
def heldL (b : Blk) : Launch := { launch0 with blks := [b] }
def ownS (b : Blk) : State := owned rst [heldL b]
def later (s : State) (n : Nat) : State := s.modDie 0 fun y => y.setReg rTICK (BitVec.ofNat 64 n)

/-! ## A witness for each obligation with hypotheses -/
theorem witness_IntegerRegisterResults :
    AtCore (coreS blk0) 0 0 blk0 ∧ blk0.regs.isFull 5 = true ∧ blk0.regs.isFull 6 = true ∧ AtCore (coreS blkE) 0 0 blkE ∧ blkE.regs.isFull 5 = false
    ∧ (rrr false false).na ≠ 3 ∧ (wMaj 0x00004813#32 = 0x01 ∧ 18 ≤ (wMin 0x00004813#32).toNat) ∧ (wMin 0x0000B413#32).toNat = 13 ∧ (0x0000B413#32).extractLsb' 15 6 ≠ 0 :=
  ⟨coreS_at _ _ rfl, rfl, rfl, coreS_at _ _ rfl, rfl, by decide⟩

theorem witness_SourcesAndAlignment :
    AtCore (coreS blkE) 0 0 blkE ∧ blkE.bad = none ∧ ((coreS blkE).slot 0 0).heldBy 0 = false ∧ (coreS blkE).openRec 0 0 0 = none ∧ blkE.regs.isFull 5 = false ∧ blkE.regs.isFull 6 = true
    ∧ ((coreS (blkV 1)).ctl 0 0).acq = none ∧ (blkV 1).regs.isFull 5 = true ∧ ((blkV 1).regs.get 5 + BitVec.ofInt 64 (0#11).toInt).toNat % 2 ≠ 0 :=
  ⟨coreS_at _ _ rfl, rfl, by decide +kernel, by decide +kernel, rfl, rfl, by decide +kernel, rfl, by decide +kernel⟩

theorem witness_ImmediateAndProductResults :
    AtCore (coreS (blkV 7)) 0 0 (blkV 7) ∧ (blkV 7).regs.isFull 5 = true ∧ (blkV 7).regs.isFull 6 = true ∧ (blkV 7).regs.get 6 = 0 ∧ (blkV 7).regs.get 5 ≠ 0
    ∧ (wMaj 0x00040073#32 = 0x07 ∧ 4 ≤ ((0x00040073#32).extractLsb' 16 5).toNat) ∧ (wMaj 0x00002023#32 = 0x02 ∧ 8 ≤ (wMin 0x00002023#32).toNat) :=
  ⟨coreS_at _ _ rfl, rfl, rfl, rfl, by decide +kernel, by decide, by decide⟩

theorem witness_PredicateResults :
    AtCore (coreS blk0) 0 0 blk0 ∧ (5#5).toNat ≤ 5 ∧ (5#3).toNat ≤ 5 ∧ blk0.regs.isFull 5 = true
    ∧ AtCore (coreS blkE) 0 0 blkE ∧ blkE.regs.isFull 5 = false ∧ blkE.regs.isFull 6 = true ∧ ((coreS blkE).slot 0 0).heldBy 0 = false ∧ (coreS blkE).openRec 0 0 0 = none
    ∧ wMaj 0x000000A3#32 = 0x0A ∧ wMaj 0x000000D3#32 = 0x0D :=
  ⟨coreS_at _ _ rfl, by decide, by decide, rfl, coreS_at _ _ rfl, rfl, rfl, by decide +kernel, by decide +kernel, by decide, by decide⟩


theorem witness_ScalarLoads :
    AtCore (loadS (blkV 0x10008)) 0 0 (blkV 0x10008) ∧ ((loadS (blkV 0x10008)).ctl 0 0).acq = none ∧ (0x10008 : Word).toNat % 8 = 0
    ∧ okWith (access 0 ((loadS (blkV 0x10008)).die 0) (((loadS (blkV 0x10008)).die 0).who (.core 0) 0) 0x10008 8 ⟨[0, 1, 2, 4], true, false⟩) (fun _ p => (ownStores (loadS (blkV 0x10008)) (blkV 0x10008).ops p).length != 8) = true
    ∧ okWith (access 0 ((loadS blkSt).die 0) (((loadS blkSt).die 0).who (.core 0) 0) 0x10008 8 ⟨[0, 1, 2, 4], true, false⟩) (fun _ p => (ownStores (loadS blkSt) blkSt.ops p).length == 8) = true
    ∧ (let s := coreS blkE fun t => { t with agCtl := { t.agCtl with rd := [⟨7, pc 0x10008 8, .scalar 8 false [], 0, 0⟩] } }
       (∀ c ∈ coverOf s (s.ag 0 (.core 0)).sb (pc 0x10008 8), c = .no) ∧ (s.die 0).gateOk 0 = true ∧ (s.die 0).poisoned 0x10008 8 = false)
    ∧ (let s := coreS blkE fun t => { t with agCtl := { t.agCtl with rd := [⟨7, ppc, .scalar 8 false [], 0, 0⟩] } }
       ppc.loc = .peer 1 3 7 0 ∧ (1 : DieId) ≠ 0 ∧ (s.die 0).isLost 0 1 = false ∧ (∀ c ∈ coverOf s (s.ag 0 (.core 0)).sb ppc, c = .no)) :=
  ⟨coreS_at _ _ rfl, by decide +kernel, by decide, by decide +kernel, by decide +kernel, by decide +kernel, by decide +kernel⟩

def fullN : Open := { blkV 0x10008 with nst := 64 }
theorem witness_ScalarStores :
    AtCore (loadS fullN) 0 0 fullN ∧ fullN.regs.isFull 6 = true ∧ ((loadS fullN).ctl 0 0).acq = none ∧ fullN.nst = 64 ∧ (blkV 0x10008).nst ≠ 64
    ∧ (∀ n ∈ [1, 2, 4, 8], (0x10008 : Word).toNat % n = 0 ∧ isOk (access 0 ((loadS fullN).die 0) (((loadS fullN).die 0).who (.core 0) 0) 0x10008 n ⟨[0, 1, 2, 4], false, true⟩) = true)
    ∧ (let s := coreS blk0 fun t => { t with agCtl := { t.agCtl with sb := [.write [⟨pc 0x10008 8, eight⟩] false 0 0] } }
       MemInv s ∧ (s.ag 0 (.core 0)).sb = [.write [⟨pc 0x10008 8, eight⟩] false 0 0] ∧ eight ≠ [] ∧ (s.die 0).mustHold (.core 0) 0 none (linesOf 0x10008 8) = false ∧ (s.die 0).paired 0 = none ∧ (s.die 0).leafBad (pc 0x10008 8) = false)
    ∧ (fullN.bad = none ∧ ((loadS fullN).slot 0 0).heldBy 0 = false ∧ fullN.regs.isFull 5 = true
      ∧ ∀ n ∈ [4, 8], isOk (access 0 ((loadS fullN).die 0) (((loadS fullN).die 0).who (.core 0) 0) 0x10008 n ⟨[0, 1, 2, 4], true, true⟩) = true)
    ∧ (let s := coreS blk0 fun t => { t with agCtl := { t.agCtl with sb := [.write [⟨ppc, eight⟩] false 0 0] } }
       MemInv s ∧ ppc.loc = .peer 1 3 7 0 ∧ (s.die 0).isLost 0 1 = false ∧ (s.die 0).paired 0 = none ∧ (s.die 0).leafBad ppc = false) :=
  ⟨coreS_at _ _ rfl, rfl, by decide +kernel, rfl, by decide, by decide +kernel, ⟨by unfold MemInv; decide +kernel, by decide +kernel⟩, by decide +kernel, by unfold MemInv; decide +kernel, by decide +kernel⟩

theorem witness_Atomics :
    AtCore (loadS (blkV 0x10008)) 0 0 (blkV 0x10008) ∧ ((loadS (blkV 0x10008)).ctl 0 0).acq = none ∧ (blkV 0x10008).regs.isFull 6 = true ∧ (blkV 0x10008).nst ≠ 64 ∧ (0x10008 : Word).toNat % 8 = 0
    ∧ isOk (access 0 ((loadS (blkV 0x10008)).die 0) (((loadS (blkV 0x10008)).die 0).who (.core 0) 0) 0x10008 8 ⟨[0, 1, 2, 4], true, true⟩) = true
    ∧ (let r : Rd := ⟨7, pc 0x10008 8, .amo true, 0, 0⟩
       let s := coreS blkE fun t => { t with agCtl := { t.agCtl with sb := [.amo r .add true 1 0] } }
       MemInv s ∧ (s.ag 0 (.core 0)).sb = [.amo r .add true 1 0] ∧ (s.die 0).mustHold (.core 0) 0 none (linesOf 0x10008 8) = false ∧ (s.die 0).poisoned 0x10008 8 = false ∧ (s.die 0).paired 0 = none)
    ∧ (let r : Rd := ⟨7, ppc, .amo true, 0, 0⟩
       let s := coreS blkE fun t => { t with agCtl := { t.agCtl with sb := [.amo r .add true 1 0] } }
       (s.ag 0 (.core 0)).sb = [.amo r .add true 1 0] ∧ r.p.loc = .peer 1 3 7 0 ∧ (s.die 0).isLost 0 1 = false ∧ r.p.dirty = none ∧ (s.die 0).paired 0 = none) :=
  ⟨coreS_at _ _ rfl, by decide +kernel, rfl, by decide, by decide, by decide +kernel, ⟨by unfold MemInv; decide +kernel, by decide +kernel⟩, by decide +kernel⟩

def blk16 : Open := { blk0 with npush := .replicate 6 16 }
def blkF : Open := { blk0 with regs := (Regs.fresh.put 5 0x10000).put 6 0x10000 }

theorem witness_FencesPushesAndFreedRanges :
    (AtCore (coreS blk0) 0 0 blk0 ∧ (4#3).toNat ≤ 4 ∧ ((coreS blk0).ctl 0 0).acq = none ∧ ((coreS blk0).die 0).held = [] ∧ (∀ p ∈ ((coreS blk0).slot 0 0).agCtl.pend, p.waits = false)
      ∧ (((coreS blk0).slot 0 0).agCtl.sb = [] ∧ ((coreS blk0).slot 0 0).doneUpTo ((coreS blk0).slot 0 0).pseq = true ∧ ((coreS blk0).die 0).fabQuiet 0 = true))
    ∧ (let s := coreS blk0 fun t => { t with agCtl := { t.agCtl with pend := [sent0], sb := [.sem true 0 0] } }
       AtCore s 0 0 blk0 ∧ ¬ (∀ p ∈ (s.slot 0 0).agCtl.pend, p.waits = false) ∧ ¬ ((s.slot 0 0).agCtl.sb = []))
    ∧ ((∀ i : Fin 8, blk0.regs.isFull (BitVec.ofNat 5 (8 + i.val)) = true) ∧ ((coreS blk0).ctl 0 0).acq = none ∧ ∀ q : Fin 6, vget blk0.npush q ≠ 16)
    ∧ (AtCore (coreS blk16) 0 0 blk16 ∧ (∀ q : Fin 6, vget blk16.npush q = 16) ∧ blk16.bad = none ∧ ((coreS blk16).slot 0 0).heldBy 0 = false)
    ∧ ((0x10000 : Word).toNat % 65536 = 0 ∧ (0x10000 : Word) ≠ 0 ∧ isOk (freePages 0 (((loadS blkF).die 0).who (.core 0) 0) 0x10000 1 ((loadS blkF).die 0)) = true)
    ∧ ¬ ((0 : Word) ≠ 0) :=
  ⟨⟨coreS_at _ _ rfl, by decide, by decide +kernel⟩, ⟨coreS_at _ _ rfl, by decide +kernel⟩, by decide +kernel, ⟨coreS_at _ _ rfl, by decide, rfl, by decide +kernel⟩, by decide +kernel, by decide⟩

def blkT : Open := { blk0 with traps := [(some 7, 2)] }
theorem witness_WordsHeldForTheCommit :
    (let s := coreS blk0 fun t => { t with ctl := { t.ctl with csr := { t.ctl.csr with hm := true } } }
     AtCore s 0 0 blk0 ∧ (s.ctl 0 0).csr.hm = true ∧ blk0.regs.isFull 5 = true ∧ blk0.regs.isFull 6 = true)
    ∧ (AtCore (coreS blkT) 0 0 blkT ∧ ∃ q ∈ blkT.traps, q.1 ≠ none)
    ∧ AtCore (coreS blk0) 0 0 blk0 ∧ blk0.bad = none ∧ ((coreS blk0).ctl 0 0).csr.hm = false ∧ (∀ q ∈ blk0.traps, q.1 = none) ∧ ((coreS blk0).slot 0 0).heldBy 0 = false ∧ (coreS blk0).openRec 0 0 0 = none :=
  ⟨⟨coreS_at _ _ rfl, by decide +kernel, rfl, rfl⟩, ⟨coreS_at _ _ rfl, by decide⟩, coreS_at _ _ rfl, rfl, by decide +kernel⟩

def tok1 : Open := { blkV 1 with regs := Regs.fresh.put 5 1 }
def nodeS (n : Word) (l : Launch) : State := owned (coreS (blkV n)) [l]

theorem nodeS_at (n : Word) (l : Launch) : AtCore (nodeS n l) 0 0 (blkV n) := ⟨rfl, rfl, rfl⟩

theorem witness_WaitsAndNodeReferences :
    (AtCore (coreS tok1 fun t => { t with toks := .replicate 8 1 }) 0 0 tok1 ∧ tok1.wait = none ∧ tok1.regs.isFull 5 = true
      ∧ ∀ i : Fin 8, (1#8).getLsbD i.val = true → vget ((coreS tok1 fun t => { t with toks := .replicate 8 1 }).slot 0 0).toks i ≠ 0)
    ∧ (AtCore (coreS tok1) 0 0 tok1 ∧ ¬ ∀ i : Fin 8, (1#8).getLsbD i.val = true → vget ((coreS tok1).slot 0 0).toks i ≠ 0)
    ∧ (((coreS blk0).ctl 0 0).acq = none ∧ semSeen ((coreS blk0).die 0) 0 0 0 = some 0 ∧ ((blk0.regs.get 5).setWidth 32 : W32).toNat ≤ (0 : W32).toNat)
    ∧ (semSeen ((coreS tok1).die 0) 0 0 0 = some 0 ∧ ¬ ((tok1.regs.get 5).setWidth 32 : W32).toNat ≤ (0 : W32).toNat)
    ∧ (((coreS blk0).die 0).quiet (.core 0) = true ∧ ((coreS blk0 fun t => { t with agCtl := { t.agCtl with sb := [.sem true 0 0] } }).die 0).quiet (.core 0) = false)
    ∧ (let s := nodeS 5 launch0
       stillEarly (s.die 0) 0 = false ∧ wtbMet (s.die 0) 0 1 (ownArv (s.die 0) 0 1) = true ∧ acqFree (s.die 0) 0 0 = true)
    ∧ (let s := owned (coreS (blkV 5)) [{ launch0 with blks := [{ blkL with earl := true }] }]
       stillEarly (s.die 0) 0 = true)
    ∧ ((nodeS 5 launch0).die 0).ownLaunch 0 = some launch0 ∧ ((nodeS 5 launch0).slot 0 0).heldBy 0 = false ∧ (nodeS 5 launch0).openRec 0 0 0 = none
    ∧ ¬ ((0 : Nat) ≤ (16 : Half).toNat ∧ (16 : Half).toNat < 0 + 16)
    ∧ (((nodeS 6 launch0).die 0).sched.launches.reverse.find? fun x => x.pid == 1 && x.node == 6) = none
    ∧ (let s := owned (coreS (blkV 6)) [launch0, { launch0 with id := 1, node := 6, st := .failed }]
       ((s.die 0).sched.launches.reverse.find? fun x => x.pid == 1 && x.node == 6) = some { launch0 with id := 1, node := 6, st := .failed })
    ∧ (let s := owned (coreS (blkV 6)) [launch0, { launch0 with id := 1, node := 6, st := .complete, blks := [{ blkL with st := .retired }] }]
       visible (s.die 0) 1 = true)
    ∧ visible ((nodeS 5 launch0).die 0) 0 = false :=
  ⟨⟨coreS_at _ _ rfl, rfl, rfl, by decide +kernel⟩, ⟨coreS_at _ _ rfl, by decide +kernel⟩, by decide +kernel⟩

theorem witness_PopsAndSpecialReads :
    (let s := coreS blk0 fun t => { t with rq := .replicate 4 [(9, false)] }
     AtCore s 0 0 blk0 ∧ (vget (s.slot 0 0).rq 3)[(vget (s.slot 0 0).resv 3).length + (blk0.resv.filter fun r => r.1 == 3).length]? = some (9, false))
    ∧ (vget ((coreS blk0).slot 0 0).rq 3)[(vget ((coreS blk0).slot 0 0).resv 3).length]? = none
    ∧ (AtCore (nodeS 3 launch0) 0 0 (blkV 3) ∧ ((nodeS 3 launch0).die 0).ownLaunch 0 = some launch0 ∧ ((nodeS 3 launch0).ctl 0 0).acq = none ∧ ((blkV 3).regs.get 5).toNat % 4096 < launch0.prcnt
      ∧ launch0.prcnt ≤ ((blkV 4).regs.get 5).toNat % 4096 ∧ ((nodeS 3 launch0).slot 0 0).agCtl.rd = [] ∧ ((nodeS 3 launch0).die 0).gateOk 0 = true ∧ (((nodeS 3 launch0).die 0).proofAt 3).getLsbD 31 = false)
    ∧ (let s := (nodeS 3 launch0).modDie 0 fun y => y.proofWrite 0 3 0x80000001#32
       ((s.die 0).proofAt 3).getLsbD 31 = true ∧ acqMet (s.die 0) 0 0 = true ∧ acqMet ((s.modSlot 0 0 fun t => { t with agCtl := { t.agCtl with pend := [sent0] } }).die 0) 0 0 = false)
    ∧ (let s := (nodeS 3 launch0).modSlot 0 0 fun t => { t with agCtl := { t.agCtl with rd := [⟨7, pc 0x10008 8, .scalar 8 false [], 0, 0⟩] } }
       (s.slot 0 0).agCtl.rd ≠ []) :=
  ⟨⟨coreS_at _ _ rfl, by decide +kernel⟩, by decide +kernel, ⟨nodeS_at _ _, by decide +kernel⟩, by decide +kernel, by decide +kernel⟩


/-- Slot 0 at a header, with the bytes of its block in memory. -/
def headS (bs : List Byte) (r : Regs := Regs.fresh) : State :=
  { poked (rst.modSlot 0 0 fun t => { t with tlb := [codePage 0x10000], ctl := { t.ctl with act := .running, pc := 0x10000, regs := r } }) 0x10000 bs with cur := ⟨0, .core 0, 8⟩ }
def headCode (bs : List Byte) (len nex : Nat) : XRes (List Half) :=
  codeHalves 0 ((headS bs).die 0) (((headS bs).die 0).who (.core 0) 0) 0x10000 (2 + len + 2 * nex)
/-- `LEN` 1, `REP` 1, `NEX` 1: a `nop` and an exit to s0. -/
def nopBlk : List Byte := [0xF3, 0x17, 0x40, 0x00, 0x02, 0x00, 0xEB, 0x03, 0x00, 0x00]
/-- `LEN` 2, `REP` 0, `NEX` 0: the repeat source s5 (0x0014) and a `nop`. -/
def repBlk : List Byte := [0xF3, 0x03, 0x80, 0x00, 0x14, 0x00, 0x02, 0x00]

def exitB (p : Bool) (r : Regs := Regs.fresh) : Open := { blk0 with nex := 1, phase := .exits 0, regs := r.pput 1 p }

theorem witness_HeadersAndExits :
    ((headS nopBlk).cur.die = 0 ∧ (headS nopBlk).cur.ag = .core 0 ∧ ((headS nopBlk).ctl 0 0).opn = none ∧ ((headS nopBlk).slot 0 0).heldBy 0 = false ∧ (headS nopBlk).openRec 0 0 0 = none)
    ∧ okWith (headCode nopBlk 1 1) (fun _ hs => (bodyWords 1 2 (slice hs 2 1)).any (fun ws => secondLoop false ws == none) && (listGet 0 hs 3).extractLsb' 0 2 == 3#2 && wMaj (listGet 0 hs 4 ++ listGet 0 hs 3) == 0x3E) = true
    ∧ okWith (headCode repBlk 2 0) (fun _ hs => listGet 0 (slice hs 2 2) 0 == 0#9 ++ 5#5 ++ 0#2 && (bodyWords 2 3 ((slice hs 2 2).drop 1)).any (fun ws => secondLoop false ws == none)) = true
    ∧ (((headS repBlk).ctl 0 0).regs.isFull 5 = true ∧ ((headS repBlk (Regs.fresh.empty 5 7)).ctl 0 0).regs.isFull 5 = false)
    ∧ okWith (headCode nopBlk 1 0) (fun _ hs => (bodyWords 1 2 (slice hs 2 1)).any fun ws => secondLoop false ws == none) = true
    ∧ (AtCore (coreS (exitB true)) 0 0 (exitB true) ∧ (exitB true).phase = .exits 0 ∧ (exitB true).regs.pget 1 ≠ false ∧ (exitB true).regs.isFull 5 = true)
    ∧ (AtCore (coreS (exitB false)) 0 0 (exitB false) ∧ (exitB false).regs.pget 1 = false)
    ∧ (AtCore (coreS (exitB true (Regs.fresh.empty 5 7))) 0 0 (exitB true (Regs.fresh.empty 5 7)) ∧ (exitB true (Regs.fresh.empty 5 7)).regs.isFull 5 = false) :=
  ⟨by decide +kernel, by decide +kernel, by decide +kernel, by decide +kernel, by decide +kernel, ⟨coreS_at _ _ rfl, by decide +kernel⟩, ⟨coreS_at _ _ rfl, by decide +kernel⟩, ⟨coreS_at _ _ rfl, by decide +kernel⟩⟩

def commits (b : Open) (s : State := coreS b) : Prop := CommitReady s 0 0 b (readyOf s b)
def leased (b : Open) : State := coreS b fun t => { t with ctl := { t.ctl with mheld := true, mleft := 2 } }

def heldOps : List CtlOp := [.store ⟨pc 0x10008 8, eight⟩ 0, .amo ⟨7, pc 0x10008 8, .amo true, 0, 0⟩ .add true 2 1 1 0, .sem true 3 1, .tsig 1 0, .sysc 1 0, .freeh [(0x10000, 65536)] [] 0, .arv 1]
def pushB : Open := { endB .fall [.enq 3 0x10000 (.replicate 8 0) 0 1 0] with npush := vset (.replicate 6 0) 3 1 }

theorem witness_CommitKeepsTheOrderWritten :
    (commits (endB .fall) ∧ (readyOf (coreS (endB .fall)) (endB .fall)).susp = none)
    ∧ (commits (endB (.addr 0x20000 0)) ∧ (readyOf (coreS (endB (.addr 0x20000 0))) (endB (.addr 0x20000 0))).susp = none)
    ∧ (commits (endB .fall heldOps) ∧ (readyOf (coreS (endB .fall heldOps)) (endB .fall heldOps)).susp = none)
    ∧ (commits pushB (leased pushB) ∧ (readyOf (leased pushB) pushB).susp = none ∧ ((leased pushB).ctl 0 0).mheld = true ∧ ((leased pushB).ctl 0 0).mreq = false ∧ 1 < ((leased pushB).ctl 0 0).mleft) :=
  ⟨⟨ready_of _ _ (by decide +kernel) rfl (by intro a w h; cases h), by decide +kernel⟩, ⟨ready_of _ _ (by decide +kernel) rfl (by intro a w h; cases h), by decide +kernel⟩,
   ⟨ready_of _ _ (by decide +kernel) rfl (by intro a w h; cases h), by decide +kernel⟩, ⟨ready_of _ _ (by decide +kernel) rfl (by intro a w h; cases h), by decide +kernel⟩⟩

def trapS (b : Open) (thnd : Word) (hm : Bool) : State := coreS b fun t => { t with ctl := { t.ctl with csr := { t.ctl.csr with thnd := thnd, hm := hm } } }
def trapB : Open := { endB .fall with traps := [(some 7, 2)] }
def eretB : Open := { endB .fall with traps := [(none, 2)] }
theorem witness_SpecialRegistersAndTraps :
    (commits (endB .fall [.csrw 0x050 3]) ∧ (readyOf (coreS (endB .fall [.csrw 0x050 3])) (endB .fall [.csrw 0x050 3])).susp = none)
    ∧ (commits trapB (trapS trapB 0x20000 false) ∧ (readyOf (trapS trapB 0x20000 false) trapB).susp = none ∧ (0x20000 : Word) &&& 0x000FFFFFFFFFFFFE ≠ 0)
    ∧ (commits trapB (trapS trapB 0 false) ∧ (0 : Word) &&& 0x000FFFFFFFFFFFFE = 0 ∧ (trapS trapB 0 false).openRec 0 0 0 = none)
    ∧ commits eretB (trapS eretB 0 true) :=
  ⟨⟨ready_of _ _ (by decide +kernel) rfl (by intro a w h; cases h), by decide +kernel⟩, ⟨ready_of _ _ (by decide +kernel) rfl (by intro a w h; cases h), by decide +kernel, by decide⟩,
   ⟨ready_of _ _ (by decide +kernel) rfl (by intro a w h; cases h), by decide, by decide +kernel⟩, ready_of _ _ (by decide +kernel) rfl (by intro a w h; cases h)⟩

def winS (b : Open) : State := coreS b fun t => { t with tlb := [page 0x10000 0], ctl := { t.ctl with csr := { t.ctl.csr with wsp := 0x10100, wlim := 0x10000, wdepth := 1 } } }
def callB : Open := endB (.call 0x20000 0)
def retB : Open := { endB (.ret 0x20000 0) with fillAsked := true, fill := (List.range 8).map fun i => (i, BitVec.ofNat 64 i) }
def suspB : Open := { endB .fall with susp := some (.susp, 2) }
def suspS (b : Open) : State := owned (coreS b fun t => { t with tlb := [page 0x20000 0] }) [launch0]
/-- The same, with the record's line pinned by a port, and with the record in a window of d1. -/
def suspPin (b : Open) : State := (suspS b).modDie 0 fun y => y.modSlot 1 fun t => { t with ports := vset t.ports 0 { Port.empty with rows := [⟨⟨[], [], false⟩, [0x20000 / 128], none, .are, 0, []⟩] } }
def suspPeer (b : Open) : State := impS (owned (coreS b fun t => { t with tlb := [{ peerPage with va := 0x20000 }] }) [launch0])
theorem witness_WindowsAndSuspensions :
    (commits callB (winS callB) ∧ (let r := readyOf (winS callB) callB; r.susp = none ∧ r.win = [⟨.here 0x100C0, 0x100C0, 64, none, ⟨0, true, 16⟩⟩] ∧ (0x100C0 : Nat) = ((winS callB).ctl 0 0).csr.wsp.toNat - 64))
    ∧ (commits retB (winS retB) ∧ retB.fill.map (·.1) = List.range 8 ∧ (readyOf (winS retB) retB).susp = none)
    ∧ (commits suspB (suspS suspB) ∧ ((suspS suspB).ctl 0 0).own = some own0 ∧ ((suspS suspB).die 0).ownLaunch 0 = some launch0
      ∧ (let r := readyOf (suspS suspB) suspB; r.susp = some (.susp, 2) ∧ r.place = [⟨.here 0x20000, launch0.recAt 0 0, 64, none, ⟨0, true, 16⟩⟩])
      ∧ ((suspS suspB).die 0).paired 0 = none ∧ ((suspS suspB).die 0).mustHold (.core 0) 0 none (linesOf 0x20000 64) = false ∧ ((suspS suspB).ctl 0 0).mreq = false ∧ ((suspS suspB).die 0).ownBlk 0 = some blkL)
    ∧ (commits suspB (suspPin suspB) ∧ ((suspPin suspB).die 0).mustHold (.core 0) 0 none (linesOf 0x20000 64) = true)
    ∧ (commits suspB (suspPeer suspB) ∧ (let r := readyOf (suspPeer suspB) suspB; r.susp = some (.susp, 2) ∧ (r.place.map fun p => (isPeer p, p.va, p.len)) = [(true, launch0.recAt 0 0, 64)]))
    ∧ (commits (endB (.stop 0)) (suspS (endB (.stop 0))) ∧ (readyOf (suspS (endB (.stop 0))) (endB (.stop 0))).susp = none) :=
  ⟨⟨ready_of _ _ (by decide +kernel) rfl (by intro a w h; cases h), by decide +kernel⟩, ⟨ready_of _ _ (by decide +kernel) rfl (fun _ _ _ => ⟨rfl, rfl⟩), by decide +kernel, by decide +kernel⟩,
   ⟨ready_of _ _ (by decide +kernel) rfl (by intro a w h; cases h), by decide +kernel, by decide +kernel, by decide +kernel, by decide +kernel, by decide +kernel, by decide +kernel, by decide +kernel⟩,
   ⟨ready_of _ _ (by decide +kernel) rfl (by intro a w h; cases h), by decide +kernel⟩, ⟨ready_of _ _ (by decide +kernel) rfl (by intro a w h; cases h), by decide +kernel, by decide +kernel⟩,
   ⟨ready_of _ _ (by decide +kernel) rfl (by intro a w h; cases h), by decide +kernel⟩⟩

def endN (n : Nat) : Open := { endB .fall with npush := vset (.replicate 6 0) 3 n }
def ctlS (b : Open) (f : Ctl → Ctl) : State := coreS b fun t => { t with ctl := f t.ctl }
def twoBlk : Blk := { blkL with slots := [0, 1], recs := [rec0, rec0] }

def drainS (b : Open) (l0 l1 : Lay) : State :=
  (owned (coreS b) [{ launch0 with shape := 1, blks := [twoBlk] }]).modDie 0 fun y => { y with lay := vset (vset y.lay 0 l0) 1 l1 }
def drainB (q : DrainReq) (aff : List SlotId) : Open := { endB .fall with phase := .draining, drain := some (q, 2), aff := aff }
def drainOk (s : State) (b : Open) (q : DrainReq) : Prop :=
  (s.ctl 0 0).opn = some b ∧ b.drain = some (q, 2) ∧ (s.slot 0 0).heldBy 0 = false ∧ vget (s.slot 0 0).stop 0 = false
  ∧ (match (s.die 0).drainCheck (((s.die 0).ownBlk 0).elim [] (·.slots)) q with | .ok a => a = b.aff | .error _ => False)
  ∧ (s.die 0).drainStuck b.aff = false ∧ (s.die 0).drainDone b.aff = true ∧ preCommit s 0 0 b = .ok s (readyOf s b) ∧ (readyOf s b).susp = none
theorem drain_ok (s : State) (b : Open) (q : DrainReq)
    (h : (s.ctl 0 0).opn = some b ∧ b.drain = some (q, 2) ∧ (s.slot 0 0).heldBy 0 = false ∧ vget (s.slot 0 0).stop 0 = false
      ∧ (s.die 0).drainStuck b.aff = false ∧ (s.die 0).drainDone b.aff = true ∧ (readyOf s b).susp = none)
    (g : (s.die 0).drainCheck (((s.die 0).ownBlk 0).elim [] (·.slots)) q = .ok b.aff) (c : preCommit s 0 0 b = .ok s (readyOf s b)) : drainOk s b q :=
  ⟨h.1, h.2.1, h.2.2.1, h.2.2.2.1, by rw [g], h.2.2.2.2.1, h.2.2.2.2.2.1, c, h.2.2.2.2.2.2⟩
def preFails (s : State) (b : Open) : Option (Nat × Word) := match preCommit s 0 0 b with | .fault _ c w _ _ => some (c, w) | _ => none
def preWaits (s : State) (b : Open) : Bool := match preCommit s 0 0 b with | .wait _ => true | _ => false
def isPre (x : Pre Ready) : Bool := match x with | .ok _ _ => true | _ => false
def endL (n : Nat) : Open := { endB .fall with npush := vset (.replicate 6 0) 0 n }
theorem witness_CommitChecksAndDrainEvents :
    (let b : Open := { endB .fall with bad := some 2 }
     (coreS b).slot 0 0 = (coreS b).slot 0 0 ∧ ((coreS b).ctl 0 0).opn = some b ∧ b.phase = .ready ∧ ((coreS b).slot 0 0).agCtl.rd = [] ∧ ((coreS b).slot 0 0).heldBy 0 = false
      ∧ vget ((coreS b).slot 0 0).stop 0 = false ∧ (coreS b).openRec 0 0 0 = none)
    ∧ (16 < (vget ((coreS (endN 17)).slot 0 0).q 3).length + vget (endN 17).npush 3)
    ∧ ((∀ q : Fin 6, (vget ((coreS (endN 2)).slot 0 0).q q).length + vget (endN 2).npush q ≤ 16) ∧ (∀ q : Fin 4, unfilled ((coreS (endN 2)).slot 0 0) (endN 2) q ≤ 16) ∧ vget (endN 2).npush 3 ≠ 0
      ∧ ((coreS (endN 2)).ctl 0 0).mheld = false ∧ ((coreS (endN 2)).ctl 0 0).mreq = false)
    ∧ (let s := ctlS (endN 2) fun c => { c with mheld := true, mleft := 1 }
       (s.ctl 0 0).mleft < vget (endN 2).npush 3)
    ∧ (let s := (ctlS (endN 2) fun c => { c with mreq := true }).modDie 0 fun y => y.setReg rLEASERUN 0
       (s.die 0).budget 0 < vget (endN 2).npush 3)
    ∧ vget (endN 2).npush 3 ≤ ((ctlS (endN 2) fun c => { c with mreq := true }).die 0).budget 0
    ∧ preFails (coreS { endB .fall with traps := [(none, 3)] }) { endB .fall with traps := [(none, 3)] } = some (2, 0x10006)
    ∧ preFails (coreS { endB .fall with traps := [(none, 3)], bad := some 2 }) { endB .fall with traps := [(none, 3)], bad := some 2 } = some (2, 0x10006)
    ∧ (let b : Open := { pushB with traps := [(none, 3)] }
       preFails (coreS b) b = some (2, 0x10006) ∧ ((coreS b).die 0).leaseCheck 0 0 (vget b.npush 3) = some (some 1))
    ∧ (let b : Open := { endB .fall with susp := some (.sem 0 0, 2) }
       preWaits (ctlS b fun c => { c with acq := some 1 }) b = true)
    ∧ (16 < (vget ((coreS (endL 17)).slot 0 0).q 0).length + vget (endL 17).npush 0 ∧ ((coreS (endL 17)).die 0).leaseCheck 0 0 (vget (endL 17).npush 3) = none ∧ isPre (preCommit (coreS (endL 17)) 0 0 (endL 17)) = true)
    ∧ (let b := drainB (.chain 0 1) [0, 1]
       let s := drainS b (frag 0 0 (some 1)) (frag 0 1)
       (s.die 0).drainCheck (((s.die 0).ownBlk 0).elim [] (·.slots)) (.chain 0 1) ≠ .ok [0, 1] ∧ ∃ u, (s.die 0).drainCheck (((s.die 0).ownBlk 0).elim [] (·.slots)) (.chain 0 1) = .error u)
    ∧ (let q : DrainReq := .split 0x00; drainOk (drainS (drainB q [0, 1]) (frag 1 0) (frag 1 0)) (drainB q [0, 1]) q)
    ∧ (let q : DrainReq := .fuse 0x10; drainOk (drainS (drainB q [0, 1]) (frag 0 0) (frag 0 1)) (drainB q [0, 1]) q)
    ∧ (let q : DrainReq := .chain 0 1; drainOk (drainS (drainB q [0, 1]) (frag 0 0) (frag 0 1)) (drainB q [0, 1]) q)
    ∧ (let q : DrainReq := .unchain 0; drainOk (drainS (drainB q [0]) (frag 0 0 (some 1)) (frag 0 1)) (drainB q [0]) q) :=
  ⟨by decide +kernel, by decide +kernel, by decide +kernel, by decide +kernel, by decide +kernel, by decide +kernel, by decide +kernel, by decide +kernel, by decide +kernel, by decide +kernel, by decide +kernel,
   ⟨by decide +kernel, _, rfl⟩,
   drain_ok _ _ _ (by decide +kernel) rfl rfl, drain_ok _ _ _ (by decide +kernel) rfl rfl, drain_ok _ _ _ (by decide +kernel) rfl rfl, drain_ok _ _ _ (by decide +kernel) rfl rfl⟩

def waitB (w : WaitC) : Open := { blk0 with wait := some w }
def arvS0 : State := ((owned (coreS blk0) [launch0]).modCtl 0 0 fun c => { c with arvs := [(1, 0, .replicate 6 0)] })
theorem witness_BlockEvents :
    (let s := coreS (waitB (.twait 1)) fun t => { t with toks := .replicate 8 1 }
     (s.ctl 0 0).opn = some (waitB (.twait 1)) ∧ (waitB (.twait 1)).bad = none ∧ (s.slot 0 0).heldBy 0 = false ∧ vget (s.slot 0 0).stop 0 = false
      ∧ ∀ i : Fin 8, (1#8).getLsbD i.val = true → vget (s.slot 0 0).toks i ≠ 0)
    ∧ (let s := coreS (waitB (.sem 0 0))
       (s.ctl 0 0).opn = some (waitB (.sem 0 0)) ∧ (s.ctl 0 0).acq = none ∧ semSeen (s.die 0) 0 0 0 = some 0)
    ∧ (let s := coreS blkE fun t => { t with resv := .replicate 4 [7], rq := .replicate 4 [(9, false)] }
       vget (s.slot 0 0).resv (qidx 3) = [7] ∧ vget (s.slot 0 0).rq (qidx 3) = [(9, false)])
    ∧ ((arvS0.ctl 0 0).arvs = [(1, 0, .replicate 6 0)] ∧ (arvS0.slot 0 0).doneUpTo (.replicate 6 0) = true ∧ (arvS0.ctl 0 0).own = some own0 ∧ (arvS0.die 0).ownBlk 0 = some blkL ∧ blkL.recs[0]? = some rec0) := by decide +kernel

/-! ## Between dies -/

def eastS (h : Hop) : State := { rst with east := vset rst.east 0 [h] }
def westS (h : Hop) : State := { rst with west := vset rst.west 0 [h] }
theorem witness_LinksDeliverInOrder :
    ((rst.die 0).isLost 0 2 = false ∧ (2 : DieId).val = ((0 : DieId).val + 2) % 4 ∧ (3 : DieId).val = ((0 : DieId).val + 3) % 4)
    ∧ (vget (eastS ⟨0, 1, .beat 0⟩).east 0 = [⟨0, 1, .beat 0⟩] ∧ ((eastS ⟨0, 1, .beat 0⟩).die 1).inReset = false ∧ ((eastS ⟨0, 1, .beat 0⟩).die 1).isLost 1 0 = false ∧ (Msg.beat 0).isRejoin = false ∧ ((eastS ⟨0, 1, .beat 0⟩).die 1).gated = false)
    ∧ (vget (eastS ⟨0, 1, .linkLost⟩).east 0 = [⟨0, 1, .linkLost⟩] ∧ ((eastS ⟨0, 1, .linkLost⟩).die 1).isLost 1 0 = false ∧ (1 : DieId) ≠ mkDie (0 + 2))
    ∧ (vget (eastS ⟨0, 2, .beat 0⟩).east 0 = [⟨0, 2, .beat 0⟩] ∧ (2 : DieId) ≠ mkDie 1)
    ∧ (vget (westS ⟨1, 0, .beat 0⟩).west 0 = [⟨1, 0, .beat 0⟩] ∧ ((westS ⟨1, 0, .beat 0⟩).die 0).isLost 0 1 = false)
    ∧ (vget (westS ⟨1, 3, .beat 0⟩).west 0 = [⟨1, 3, .beat 0⟩] ∧ (3 : DieId) ≠ 0) := by decide +kernel


def z4 : Vector Nat 4 := .replicate 4 0
def wmsg (st : Vector Nat 4) : Msg := .write (.core 0) 0 1 st [(0, 0, 8, eight)] false
def replyM : Msg := .reply (.core 0) 0 0 z4 eight false 0x10008
def repS : State := (gateS [replyM]).modSlot 0 0 fun t => { t with agCtl := { t.agCtl with pend := [sent0] } }
theorem witness_GateWritesAndReplies :
    (let s := gateS [wmsg z4]
     MemInv s ∧ vget (s.die 0).gate.arr 1 = wmsg z4 :: [] ∧ vget (s.die 0).gate.taken 1 = true ∧ vget (s.die 0).gate.refd 1 = [] ∧ vget (s.die 0).gate.owed 1 = 0 ∧ (s.die 0).gate.closed = []
      ∧ vget (s.die 0).gate.g 1 < 1 ∧ (∀ k : DieId, k ≠ 0 → k ≠ 1 → vget z4 k ≤ vget (s.die 0).gate.g k) ∧ expOk s 8 8 1 false = true ∧ isMem 0x10008 8 = true ∧ (s.die 0).mustHold (.core 0) 1 none (linesOf 0x10008 8) = false)
    ∧ (let st := vset z4 2 1
       let s := gateS [wmsg st]
       ¬ (∀ k : DieId, k ≠ 0 → k ≠ 1 → vget st k ≤ vget (s.die 0).gate.g k) ∧ (∀ k, (s.die 0).isLost 0 k = false) ∧ (∀ k, vget (s.die 0).gate.excused k = false))
    ∧ (vget (repS.die 0).gate.arr 1 = [replyM] ∧ vget (repS.die 0).gate.refd 1 = [] ∧ ((repS.ag 0 (.core 0)).pend.find? fun p => p.key == 0 && p.home == 1) = some sent0) :=
  ⟨⟨by unfold MemInv; decide +kernel, by decide +kernel⟩, by decide +kernel, by decide +kernel⟩

theorem witness_GateReadsBeatsAndInvalidations :
    (let s := gateS [.read (.core 0) 0 0 z4 0 0 8 8]
     vget (s.die 0).gate.arr 1 = [.read (.core 0) 0 0 z4 0 0 8 8] ∧ vget (s.die 0).gate.refd 1 = [] ∧ vget (s.die 0).gate.taken 1 = true ∧ (s.die 0).gate.closed = [] ∧ vget (s.die 0).gate.owed 1 = 0
      ∧ expOk s 8 8 0 false = true ∧ isMem 0x10008 8 = true ∧ (∀ k : DieId, k ≠ 0 → vget z4 k ≤ if k = 1 then max 0 (vget (s.die 0).gate.g 1) else vget (s.die 0).gate.g k) ∧ (s.die 0).isLost 0 1 = false)
    ∧ vget ((gateS [.beat 3]).die 0).gate.arr 1 = [.beat 3]
    ∧ (let s := gateS [.inval 1 z4 0x10000]
       vget (s.die 0).gate.arr 1 = [.inval 1 z4 0x10000] ∧ vget (s.die 0).gate.g 1 < 1 ∧ ∀ k : DieId, k ≠ 0 → k ≠ 1 → vget z4 k ≤ vget (s.die 0).gate.g k) :=
  ⟨by decide +kernel, by decide +kernel, by decide +kernel⟩

def held0 : Held := ⟨.core 0, 0, .write [⟨pc 0x10008 8, eight⟩] false 0 0, 0, 0, none⟩
def fsrc : FabSrc := ⟨5, 2, .copy 0⟩
def heldS (pins : List Nat) : State :=
  expS.modDie 0 fun y => { y.modSlot 0 fun t => { t with ports := vset t.ports 0 { Port.empty with rows := [⟨⟨[], [], false⟩, pins, none, .are, 0, []⟩] } } with held := [held0] }
theorem witness_HeldAndReturnedRequests :
    (MemInv (heldS []) ∧ (((heldS []).die 0).held[0]? = some held0 ∧ held0.op = .write [⟨pc 0x10008 8, eight⟩] false 0 0 ∧ held0.src = 0 ∧ ((heldS []).die 0).pinned 0x10008 8 = false
      ∧ (((heldS []).die 0).held.take 0).all (fun y => y.ag != held0.ag || y.src != 0 || y.fab != held0.fab) = true))
    ∧ ((heldS [0x10008 / 128]).die 0).pinned 0x10008 8 = true
    ∧ ((expS.die 0).coe.shut fsrc = none ∧ expOk expS 8 8 1 true = true ∧ (∀ c ∈ cutLines 0x10008 8, isMem c.1 c.2 = true ∧ (expS.die 0).mustHold fsrc.ag fsrc.die (some fsrc) (linesOf c.1 c.2) = false)
      ∧ (expS.die 0).behind fsrc.ag fsrc.die (some fsrc) = false)
    ∧ vget ((gateS [.ack (.core 0) 0]).die 0).gate.arr 1 = [.ack (.core 0) 0]
    ∧ vget ((gateS [.trkRefuse (wmsg z4) none]).die 0).gate.arr 1 = [.trkRefuse (wmsg z4) none]
    ∧ (let s := gateS [] fun g => { g with back := [(1, wmsg z4, none)] }
       vget (s.die 0).gate.arr 1 = [] ∧ ((s.die 0).gate.back.find? fun x => x.1 == 1) = some (1, wmsg z4, none))
    ∧ (let s := rst.modDie 0 fun y => { y with gate := { y.gate with refd := vset y.gate.refd 1 [(wmsg z4, some 0)] } }
       (s.die 0).trackerFree 0 = true ∧ (s.die 0).gate.called = [] ∧ ∀ e, vget (s.die 0).gate.refd e = if e = 1 then [(wmsg z4, some 0)] else []) :=
  ⟨⟨by unfold MemInv; decide +kernel, by decide +kernel⟩, by decide +kernel⟩

def publS (st : Bool) : State := poked (engS .ste fun t => { t with tlb := [page 0x10000 4], ste := some (run0 (.publ (eop 0 1 0)) st) }) 0x10000 recImg
theorem witness_PublishFlipsTheRecord :
    (∀ st, (run0 (.publ (eop 0 1 0)) st).slot = 0 ∧ (run0 (.publ (eop 0 1 0)) st).code[(run0 (.publ (eop 0 1 0)) st).pos]? = some (2, .publ (eop 0 1 0)) ∧ ((publS st).slot 0 0).ste = some (run0 (.publ (eop 0 1 0)) st))
    ∧ MemInv (publS true) ∧ (publS false).cur = ⟨0, .eng 0 .ste, 8⟩ ∧ ((run0 (.publ (eop 0 1 0)) true).par 1).toNat % 64 = 0
    ∧ access 0 ((publS true).die 0) (((publS true).die 0).who (.eng 0 .ste) 0) 0x10000 64 ⟨[4], true, true⟩ = .ok ((publS true).die 0) ⟨.here 0x10000, 0x10000, 64, none, ⟨0, true, 16⟩⟩
    ∧ ((publS true).slot 0 0).heldBy 3 = false ∧ vget ((publS true).slot 0 0).acked 3 = false ∧ ((publS true).slot 0 0).agSte.sb = [] ∧ ((publS true).slot 0 0).agSte.pend = [] ∧ ((publS true).slot 0 0).agSte.refused = [] ∧ ((publS true).die 0).paired 0 = none ∧ ((publS true).die 0).held = []
    ∧ ((publS true).die 0).gateOk 0 = true ∧ ((publS true).die 0).poisoned 0x10000 64 = false ∧ ((parseRec (((publS true).die 0).peek 0x10000 64)).map (·.pv)) = some false :=
  ⟨by decide +kernel, by unfold MemInv; decide +kernel, rfl, by decide +kernel, rfl, by decide +kernel⟩

/-- Tables of ASID 0: root at 0x50000, one 64 KiB leaf for 0x10000. -/
def walkS : State :=
  let s := (owned rst [launch0]).modDie 0 fun y => y.setReg rASIDBASE 0x100001
  poked (poked (poked (poked (poked s 0x100000 (natLe 8 0x50001)) 0x50000 (natLe 8 0x51001)) 0x51000 (natLe 8 0x52001)) 0x52000 (natLe 8 0x53001)) 0x53008 (natLe 8 0x1006F)
def walkTbl (j : Nat) : Nat := 0x50000 + 0x1000 * j
def walkAt (va j : Nat) : Nat := walkTbl j + 8 * (va / 2 ^ (43 - 9 * j) % 512)
def walkWord (s : State) (a : Nat) : Word := BitVec.ofNat 64 ((s.die 0).peekNat a 8)
def walkTable (s : State) (a n : Nat) : Prop :=
  (isDieMem (a + 7) = true ∧ (s.die 0).poisoned a 8 = false) ∧ n % 4096 = 0 ∧ n < 2 ^ 48 ∧ walkWord s a = BitVec.ofNat 64 (n + 1)
def walkDown (s : State) (va l : Nat) : Prop := walkTable s 0x100000 (walkTbl 0) ∧ (s.die 0).peekNat 0x100008 8 = 0 ∧ ∀ j < l, walkTable s (walkAt va j) (walkTbl (j + 1))
/-- A leaf of 2^34 bytes at the second level. -/
def walkBig : State := poked walkS 0x51000 (natLe 8 0x6F)
def leafOk (w : Word) (l : Nat) : Prop :=
  w.getLsbD 0 = true ∧ w.getLsbD 1 = true ∧ 1 ≤ l ∧ fld w 60 4 = 0 ∧ fld w 12 36 % 2 ^ (43 - 9 * l - 12) = 0 ∧ fld w 8 3 = 0 ∧ w.getLsbD 4 = false ∧ w.getLsbD 2 = true ∧ w.getLsbD 11 = false ∧ fld w 48 12 = 0
/-- The tables are read level by level: a leaf of 64 KiB, one of the second level, an entry that is not valid, and a poisoned one. -/
theorem witness_PageWalk :
    (MemInv walkS ∧ (walkS.die 0).tlbAsid (.slot 0) = some 0 ∧ ((walkS.die 0).tlb (.slot 0)).any (·.covers 0 0x10000) = false ∧ ((walkS.die 0).getReg 0 0x100).getLsbD 0 = true ∧ (walkS.die 0).gateOk 0 = true
      ∧ ((walkS.die 0).getReg 0 0x100 &&& 0x0000FFFFFFF00000).toNat = 0x100000)
    ∧ (walkDown walkS 0x10000 3 ∧ walkAt 0x10000 3 = 0x53008 ∧ (walkS.die 0).poisoned 0x53008 8 = false ∧ leafOk (walkWord walkS 0x53008) 3)
    ∧ (walkDown walkBig 0 1 ∧ walkAt 0 1 = 0x51000 ∧ (walkBig.die 0).poisoned 0x51000 8 = false ∧ leafOk (walkWord walkBig 0x51000) 1)
    ∧ (walkDown walkS 0x20000 3 ∧ walkAt 0x20000 3 = 0x53010 ∧ (walkWord walkS 0x53010).getLsbD 0 = false ∧ isDieMem (0x53010 + 7) = true)
    ∧ (let s := walkS.modDie 0 fun y => { y with psn := [0x53008 / 128] }
       walkDown s 0x10000 3 ∧ (s.die 0).poisoned 0x53008 8 = true)
    ∧ 2 ^ 52 ≤ (0x10000000000000 : Word).toNat ∧ ((State.reset.die 0).getReg 0 0x100).getLsbD 0 = false := by
  refine ⟨⟨by unfold MemInv; decide +kernel, by decide +kernel⟩, ?_, ?_, ?_, ?_, by decide, by decide +kernel⟩ <;> (simp only [walkDown, walkTable, leafOk]; decide +kernel)

def usedS (tlb : List TlbEntry) : State := repS.modSlot 0 0 fun t => { t with tlb := tlb }
def use0 : TlbUse := (pc 0x10008 8).use (.core 0) 0 0
theorem witness_TranslationsComeAndGo :
    ((walkS.die 0).tlbAsid (.copy 0) = none ∧ (let s := walkS.modSlot 0 0 fun t => { t with tlb := [page 0x10000 0] }
        ((s.die 0).tlb (.slot 0)).any (·.covers 0 0x10000) = true))
    ∧ bitAt ((rst.die 0).getReg 0 rTLBINV) 62 = false
    ∧ (let e := { page 0x10000 0 with g := false }
       ((usedS [e]).die 0).tlb (.slot 0) = [e] ∧ (TlbId.slot 0, use0) ∈ ((usedS [e]).die 0).tlbUses 0 ∧ use0.through e = true ∧ (e.asid = 0 ∧ e.g = false) ∧ e.covers 0 (65536 * 1) = true)
    ∧ (let s := rst.modDie 0 fun y => y.setRf 0 rTLBINV 62 1 1
       bitAt ((s.die 0).getReg 0 rTLBINV) 62 = true ∧ ∀ u ∈ (s.die 0).tlbWait, u ∉ ((s.die 0).tlbUses 0).map (·.2))
    ∧ (let s := repS.modDie 0 fun y => { y with tlbWait := (y.tlbUses 0).map (·.2) }
       ∃ u ∈ (s.die 0).tlbWait, u ∈ ((s.die 0).tlbUses 0).map (·.2)) :=
  ⟨by decide +kernel, by decide +kernel, by decide +kernel, by decide +kernel, by decide +kernel⟩

/-- Slot 0 runs with one entry in the load queue. -/
def queS (e : Entry) (bs : List Byte) (f : Slot → Slot := id) : State :=
  poked (rst.modSlot 0 0 fun t => f { t with q := vset t.q 0 [e], tlb := [codePage 0x10000], ctl := { t.ctl with act := .running } }) 0x10000 bs
def doneR (e : Entry) : Run := { Run.fresh e 0 0 with part := 0 }
/-- Slot 0 with the entry at the head of each of its six queues, its block's bytes at 0x10000 in reach of every engine. -/
def queA (e : Entry) (bs : List Byte) (f : Slot → Slot := id) (w : Bool := true) : State :=
  poked ((owned rst [launch0]).modDie 0 fun y => { (y.modSlot 0 fun t => f { t with q := .replicate 6 (if w then [e] else []), mord := [0], tlb := [codePage 0x10000], ctl := { t.ctl with act := .running } }) with
    cpe := vset y.cpe 0 { CopyEng.reset with tlb := [codePage 0x10000] }, coe := { y.coe with tlb := [codePage 0x10000] } }) 0x10000 bs
def engines : List Agent := [.eng 0 .lde, .eng 0 .are, .eng 0 .ste, .eng 0 .mxe, .copy 0, .coll]
/-- The check of the entry's block as its start makes it. -/
def startChk (s : State) (a : Agent) (e : Entry) : Chk :=
  let u := (s.modSlot 0 0 fun t => { t with toks := Vector.ofFn fun i => if e.wait.getLsbD i.val then vget (s.slot 0 0).toks i - 1 else vget (s.slot 0 0).toks i }).modDie 0 fun y => y.turn a 0
  checkBlock 0 (u.die 0) ((u.die 0).whoRun ⟨0, a, 8⟩ (Run.fresh e 0 (s.tick 0))) (streamOf a) e.hdr e.e
def readyToStart (s : State) (a : Agent) (e : Entry) : Bool :=
  (s.run ⟨0, a, 8⟩).isNone && nextSlot 0 (s.die 0) a == some 0 && vget (s.slot 0 0).q (queueOf a) == [e] && (s.slot 0 0).cpeAt.isNone && (s.slot 0 0).coeAt.isNone && !(s.slot 0 0).heldBy (agentNo a)
def chkWith (x : Chk) (f : Option Nat → List (Nat × Instr) → Nat → Bool) : Bool := match x with | .ok _ b c _ r => f b c r | _ => false
/-- A frame block: `LEN` 2, one word. -/
def frameE : List Byte := [0xF3, 0x13, 0x80, 0x00] ++ ((encode (.kframe ⟨0, 0, 0, 0, 0⟩)).getD []).flatMap fun h => natLe 2 h.toNat
theorem witness_EntriesStartAndComplete :
    (∀ a ∈ engines, readyToStart (queA ent0 nopE) a ent0 = true ∧ chkWith (startChk (queA ent0 nopE) a ent0) (fun b c r => b.isNone && (firstBad ⟨0, a, 8⟩ none c r).isNone && !frameCode c) = true)
    ∧ (readyToStart (queA ent0 frameE) .coll ent0 = true ∧ chkWith (startChk (queA ent0 frameE) .coll ent0) (fun b c r => b.isNone && (firstBad ⟨0, .coll, 8⟩ none c r).isNone && frameCode c) = true
      ∧ ((queA ent0 frameE).ctl 0 0).own = some own0 ∧ ((List.finRange 8).find? fun i => (vget ((queA ent0 frameE).die 0).coe.ctx i).isNone) = some 0)
    ∧ (∀ a ∈ engines, readyToStart (queA ent0 []) a ent0 = true ∧ chkFault (startChk (queA ent0 []) a ent0) (fun _ c _ => c == 1) = true)
    ∧ (∀ a ∈ engines, let s := queA ent0 [0xF3, 0x13, 0x40, 0x00, 0x06, 0x00]
        readyToStart s a ent0 = true ∧ chkWith (startChk s a ent0) (fun b c r => (firstBad ⟨0, a, 8⟩ b c r).isSome) = true)
    ∧ (let e := { ent0 with hdr := 0x10001 }
       ∀ a ∈ engines, readyToStart (queA e nopE) a e = true ∧ e.hdr.getLsbD 0 = true)
    ∧ (∀ a ∈ engines, (((queA ent0 nopE id false).run ⟨0, a, 8⟩).isNone && (nextSlot 0 ((queA ent0 nopE id false).die 0) a).isNone) = true)
    ∧ (let s := queA ent0 nopE fun t => { t with cpeAt := some (doneR ent0) }
       (s.run ⟨0, .copy 0, 8⟩).isNone = true ∧ nextSlot 0 (s.die 0) (.copy 0) = some 0 ∧ (s.slot 0 0).cpeAt = some (doneR ent0)) := by decide +kernel

/-- Every engine at the end of the entry. -/
def endedS (e : Entry) (f : Slot → Slot := id) : State :=
  (queA e nopE fun t => f { t with lde := some (doneR e), are := some (doneR e), ste := some (doneR e), mxe := some (doneR e) }).modDie 0 fun y =>
    { y with cpe := vmod y.cpe 0 fun c => { c with run := some (doneR e) }, coe := { y.coe with run := some (doneR e), own := some own0 } }
theorem witness_EntriesComplete :
    (let e := { ent0 with sig := 1 }
     ∀ a ∈ engines, let s := endedS e
      s.run ⟨0, a, 8⟩ = some (doneR e) ∧ vget (s.slot 0 0).q (queueOf a) = [e] ∧ (doneR e).part ≠ unchecked ∧ (doneR e).code.length ≤ (doneR e).pos ∧ (s.ag 0 a).sb = [] ∧ (s.ag 0 a).rd = [] ∧ (s.ag 0 a).asm = [] ∧ (s.ag 0 a).refused = []
        ∧ (s.die 0).runHeld ⟨0, a, 8⟩ (doneR e) = false ∧ (s.die 0).runBound ⟨0, a, 8⟩ (doneR e) = true ∧ (∀ i : Fin 8, e.sig.getLsbD i.val = true → vget (s.slot 0 0).toks i ≠ 255))
    ∧ (let e := { ent0 with sig := 1 }
       let s := endedS e fun t => { t with toks := .replicate 8 255 }
       ∀ a ∈ engines, (∃ i : Fin 8, e.sig.getLsbD i.val = true ∧ vget (s.slot 0 0).toks i = 255) ∧ (s.slot 0 0).heldBy (agentNo a) = false) := by decide +kernel

def wrPort : Port := { Port.empty with cfg := some ⟨0x8000, .replicate 4 1, .replicate 4 0, 2, true, 0⟩ }
/-- A record copy of `recImg`. -/
def rcp : RecCopy := ⟨0, 0x10000, recImg, 0x10000, ⟨0, true, 16⟩⟩
def ldo : EOp := eop 0 1 0
def ldr0 (st : Bool) : Run := { run0 (.ldr ldo) st with rcpy := some rcp, bc := some ⟨zeros 512, [], false⟩ }
def ldS (st : Bool) (e : Entry := ent0) (f : Slot → Slot := id) : State :=
  runS .lde { ldr0 st with ent := e } fun t => f { t with tlb := [page 0x10000 0], ports := .replicate 8 wrPort }
theorem witness_LoadWordsReadTheirRows :
    AtRun (ldS true) 0 (.eng 0 .lde) (ldr0 true)
    ∧ (let w := ((ldS true).die 0).who (.eng 0 .lde) 0
       isOk (accessParts 0 w ⟨[0, 1, 2], true, false⟩ [⟨0x10000, 512, 0⟩] ((ldS true).die 0)) = true
        ∧ (ldr0 true).bc = some ⟨zeros 512, [], false⟩ ∧ (ldr0 true).rcpy = some rcp ∧ ((parseRec rcp.bytes).map (·.rows)) = some 1 ∧ firstRow (ldr0 true) ldo + 0 < 1
        ∧ (vget ((ldS true).slot 0 0).ports (widx ldo.f1)).cfg = wrPort.cfg ∧ wrPort.cfg ≠ none)
    ∧ (let r := { ldr0 true with unit := 64 }
       let s := runS .lde r
       AtRun s 0 (.eng 0 .lde) r ∧ eCount ldo 0 ≤ r.unit ∧ (s.ag 0 (.eng 0 .lde)).asm = []) :=
  ⟨⟨rfl, by decide +kernel⟩, by decide +kernel, ⟨rfl, by decide +kernel⟩, by decide +kernel⟩

def entA (a : Word) : Entry := { ent0 with e := .replicate 8 a }
def portImg : List Byte := natLe 8 0x8000 ++ natLe 8 (1 + 65536 + 2 ^ 32 + 2 ^ 48) ++ zeros 16 ++ natLe 8 2 ++ zeros 24
def arrS : State := ldS true ent0 fun t => { t with agLde := { t.agLde with asm := [⟨0, 512, [(0, zeros 512)], false, []⟩] } }
def arrS2 : State := runS .lde (run0 (.ldt ldo) true) fun t => { t with agLde := { t.agLde with asm := [⟨0, 512, [(0, zeros 512)], false, []⟩] } }
theorem arrS_ok : StoreInv arrS2 := by constructor <;> first | (unfold MemInv; decide +kernel) | decide +kernel
theorem witness_LoadWordsStartAndFill :
    (AtRun (ldS false) 0 (.eng 0 .lde) (ldr0 false) ∧ isTile ldo.f1 = true ∧ ((ldr0 false).par ldo.f2).toNat % 16 = 0 ∧ ((ldr0 false).par ldo.f3).toNat % 16 = 0)
    ∧ (let s := ldS false ent0 fun t => { t with tiles := .replicate 16 { Tile.fresh with tag := tI32 } }
       ((s.slot 0 0).tile ldo.f3).tag = tI32 ∧ gotOk (tileRow s 0 0 ldo.f3 ldo.b3 (eFirst ldo 2)))
    ∧ ((parseRec rcp.bytes).map fun z => (z.gen, z.tag)) = some (fld ((ldr0 false).par ldo.f3) 0 16, ldo.fmt)
    ∧ ((parseRec rcp.bytes).map fun z => ((vget z.pl (if z.act then 1 else 0)).toNat + fld ((ldr0 false).par ldo.f3) 32 16 * z.stride) % 16) = some 0
    ∧ (let s := ldS false ent0 fun t => { t with tiles := .replicate 16 { Tile.fresh with tag := tI32 } }
       ∀ i < eCount ldo 0, gotWith (tileRow s 0 0 ldo.f3 ldo.b3 (eFirst ldo 2)) (fun _ v => (((((ldr0 false).par ldo.f2).toNat : Int) + sInt 32 (rowElem 32 (leNat v.data) i)) % 2 ^ 64).toNat % 16 == 0) = true)
    ∧ (let r := { ldr0 false with ent := ent3 0x10000 8 0 }
       r.started = false ∧ (r.par 0).toNat % 16 = 0 ∧ (r.par 1).toNat % 16 ≠ 0 ∧ (r.par 0).toNat % 8 = 0 ∧ ({ r with ent := ent3 0x10000 4 0 }.par 1).toNat % 8 ≠ 0 ∧ ({ r with ent := ent3 4 4 0 }.par 0).toNat % 8 ≠ 0
        ∧ ({ r with ent := ent3 32 0 0 }.par 0).toNat % 64 ≠ 0 ∧ { r with rcpy := none }.rcpy = none)
    ∧ (let s := ldS false (entA 8) fun t => { t with tiles := .replicate 16 { Tile.fresh with tag := tI32 } }
       gotWith (tileRow s 0 0 ldo.f3 ldo.b3 (eFirst ldo 2)) (fun _ v => (((8 : Int) + sInt 32 (rowElem 32 (leNat v.data) 0)) % 2 ^ 64).toNat % 16 != 0) = true)
    ∧ ((parseRec (natLe 8 0x10208 ++ recImg.drop 8)).map fun z => ((vget z.pl (if z.act then 1 else 0)).toNat + fld ((ldr0 false).par ldo.f3) 32 16 * z.stride) % 16) = some 8
    ∧ (ldr0 false).unit < eCount ldo 0 ∧ eCount ldo 0 ≤ { ldr0 false with unit := 64 }.unit
    ∧ (((ldS false (entA 8)).slot 0 0).heldBy 1 = false ∧ (ldS false (entA 8)).openRec 0 0 1 = none ∧ ¬ ({ ldr0 false with ent := entA 8 }.par ldo.f2).toNat % 16 = 0)
    ∧ (let o : EOp := eop 16 1 0
       isTile o.f1 = false ∧ ((vget ((ldS false).slot 0 0).ports (widx o.f1)).cfg.map fun p => (p.dir, p.tag)) = some (true, o.fmt))
    ∧ ({ ldr0 true with ent := entA 0 }.par ldo.f2 = 0)
    ∧ (let q : Asm := ⟨0, 64, [(0, portImg)], false, []⟩
       let r := { ldr0 true with unit := 1 }
       let s := runS .lde r fun t => { t with agLde := { t.agLde with asm := [q] } }
       AtRun s 0 (.eng 0 .lde) r ∧ r.par ldo.f2 ≠ 0 ∧ (s.slot 0 0).agLde.asm = [q] ∧ q.done = true ∧ (parsePort (q.bytes 0 64)).isSome = true)
    ∧ (let x : Asm := ⟨0, 512, [(0, zeros 512)], false, []⟩
       arrS2.run ⟨0, .eng 0 .lde, 8⟩ = some (run0 (.ldt ldo) true) ∧ (run0 (.ldt ldo) true).code[(run0 (.ldt ldo) true).pos]? = some (2, .ldt ldo) ∧ (arrS2.slot 0 0).agLde.asm = [x] ∧ x.done = true ∧ eFirst ldo 0 + x.key < 64) :=
  ⟨⟨⟨rfl, by decide +kernel⟩, by decide +kernel⟩, ⟨by decide +kernel, by unfold gotOk; decide +kernel⟩, by decide +kernel, by decide +kernel, by decide +kernel, by decide +kernel, by decide +kernel, by decide +kernel, by decide +kernel, by decide +kernel, by decide +kernel, by decide +kernel, by decide +kernel, ⟨⟨rfl, by decide +kernel⟩, by decide +kernel⟩, by decide +kernel⟩

def flt0 : PFault := { r := ⟨0, 20, 0, 0, true, 5, 0, 0, 0, 0, 0, 0, 0, 0⟩, idx := none, kept := none }
def sto : EOp := eop 0 1 0
def str0 : Run := { run0 (.str sto) true with rcpy := some rcp, bc := some ⟨zeros 512, [], false⟩ }
def stS : State := runS .ste str0 fun t => { t with tlb := [page 0x10000 0, vpage 0], ports := .replicate 8 wrPort }
def rdPort : Port := { Port.empty with cfg := some ⟨0x8000, .replicate 4 1, .replicate 4 0, 2, false, 0⟩ }
def prtS : State := rst.modSlot 0 0 fun t => { t with tlb := [vpage 0], ports := .replicate 8 rdPort }
theorem witness_StoreWordsAndPorts :
    (AtRun stS 0 (.eng 0 .ste) str0 ∧ str0.unit < eCount sto 1 ∧ (stS.slot 0 0).heldBy 3 = false ∧ vget (stS.slot 0 0).acked 3 = false ∧ (stS.slot 0 0).agSte.refused = [] ∧ gotOk (tileRow stS 0 0 sto.f2 sto.b2 (eFirst sto 1 + str0.unit)) ∧ sto.f2 ≠ opACC
      ∧ isOk (accessParts 0 ((stS.die 0).who (.eng 0 .ste) 0) ⟨[0, 1, 2], false, true⟩ [⟨0x10000, 512, 0⟩] (stS.die 0)) = true ∧ str0.code[str0.pos]? = some (2, .str sto)
      ∧ ((parseRec rcp.bytes).map (·.rows)) = some 1 ∧ firstRow str0 sto + 0 < 1)
    ∧ gotOk (portPush stS ⟨0, .eng 0 .ste, 8⟩ str0 16 ⟨zeros 512, [], false⟩ false 0)
    ∧ (let r := { str0 with unit := 64 }
       AtRun (runS .ste r) 0 (.eng 0 .ste) r ∧ eCount sto 1 ≤ r.unit)
    ∧ ((rdPort.cfg.map fun c => (c.dir, c.addr rdPort.ix)) = some (false, 0x8000) ∧ (prtS.slot 0 0).heldBy 2 = false ∧ vget (prtS.slot 0 0).stop 2 = false ∧ rdPort.rows = [] ∧ rdPort.part = none ∧ (prtS.die 0).gateOk 0 = true
        ∧ (∀ sc ∈ ([[], [⟨0x9000, 192, 512⟩]] : List (List Machine.Part)), isOk (accessParts 0 ((prtS.die 0).who (.eng 0 .are) 0) ⟨[1], true, false⟩ (⟨0x8000, 512, 0⟩ :: sc) (prtS.die 0)) = true))
    ∧ (let s := prtS.modSlot 0 0 fun t => { t with flt := vset t.flt 2 (some flt0) }
       (s.slot 0 0).heldBy 2 = true)
    ∧ (let q : Port := { rdPort with part := some ([(0, pc 0x10000 128)], ⟨⟨.replicate 512 0, .replicate 192 0, false⟩, [512], none, .are, 0, []⟩) }
       let s := prtS.modSlot 0 0 fun t => { t with ports := .replicate 8 q }
       vget (s.slot 0 0).ports 0 = q ∧ (s.slot 0 0).agAre.sb = [] ∧ vget (s.slot 0 0).stop 2 = false ∧ (s.die 0).gateOk 0 = true)
    ∧ (let q : Port := { rdPort with part := some ([], ⟨⟨zeros 512, [], false⟩, [512], none, .are, 0, []⟩) }
       let s := prtS.modSlot 0 0 fun t => { t with ports := .replicate 8 q }
       vget (s.slot 0 0).ports 0 = q ∧ vget (s.slot 0 0).stop 2 = false ∧ (s.die 0).gateOk 0 = true) :=
  ⟨⟨⟨rfl, by decide +kernel⟩, by decide +kernel, by decide +kernel, by decide +kernel, by decide +kernel, by unfold gotOk; decide +kernel, by decide +kernel⟩, by unfold gotOk; decide +kernel, ⟨⟨rfl, by decide +kernel⟩, by decide +kernel⟩, by decide +kernel⟩

def are0 (i : Instr) (st : Bool := true) (e : Entry := ent0) : Run := { run0 i st e with bc := some ⟨zeros 512, [], false⟩, src := 2 }
def areS (i : Instr) (st : Bool := true) (f : Slot → Slot := id) : State := runS .are (are0 i st) f
def addO : EOp := eop 0 1 2
def modO (f : EOp) (m : Modf) : EOp := { f with mod := some m }
theorem areS_at (i : Instr) (st : Bool) : AtRun (areS i st) 0 (.eng 0 .are) (are0 i st) := ⟨rfl, rfl⟩
def srcOk (s : State) (r : Run) (o : EOp) : Bool :=
  gotWith (srcRow s 0 0 .are o.f2 o.b2 (eFirst o 1 + r.unit)) fun s1 v => gotWith (areSrc s1 0 0 r o.f3 o.b3 (eMod o).bc (eFirst o 2)) fun s2 w =>
    isGot (dstPut s2 ⟨0, .eng 0 .are, 8⟩ r o.f1 (eFirst o 0 + r.unit) ⟨List.zipWith (· &&& ·) v.data w.data, [], v.psn || w.psn⟩ false r.unit)
theorem witness_BinaryRows :
    AtRun (areS (.areAdd addO)) 0 (.eng 0 .are) (are0 (.areAdd addO)) ∧ (are0 (.areAdd addO)).unit < eCount addO 0 ∧ srcOk (areS (.areAdd addO)) (are0 (.areAdd addO)) addO = true
    ∧ (let o := modO addO ⟨0, false, false, true, 0, 0⟩; srcOk (areS (.areAdd o)) (are0 (.areAdd o)) o = true) ∧ (fmtINT tI32 = true ∧ fmtINT addO.fmt = false ∧ (eMod addO).min3 ≠ 1) :=
  ⟨areS_at _ _, by decide +kernel⟩

def redR : Run := { are0 (.redSum addO) with unit := 64 }
def redE : State := runS .are redR
theorem redE_ok : StoreInv redE := by constructor <;> first | (unfold MemInv; decide +kernel) | decide +kernel
theorem witness_TernaryRowsAndReductions :
    (let o := modO addO ⟨0, false, false, false, 3, 0⟩
     gotWith (srcRow (areS (.fma o)) 0 0 .are o.f2 o.b2 0) (fun s1 _ => gotWith (areSrc s1 0 0 (are0 (.fma o)) o.f3 o.b3 (eMod o).bc 0) fun s2 _ => gotWith (tileRow s2 0 0 (eMod o).oc false 0) fun s3 c =>
        isGot (dstPut s3 ⟨0, .eng 0 .are, 8⟩ (are0 (.fma o)) o.f1 0 c false 0)) = true)
    ∧ (AtRun (areS (.redSum addO)) 0 (.eng 0 .are) (are0 (.redSum addO)) ∧ (are0 (.redSum addO)).unit < eCount addO 1 ∧ isGot (srcRow (areS (.redSum addO)) 0 0 .are 1 false 0) = true)
    ∧ ((vget ((areS (.redqSum addO)).slot 0 0).rq 1).length < 16 ∧ ((areS (.redqSum addO)).ag 0 (.eng 0 .are)).sb = [])
    ∧ 16 ≤ (vget ((areS (.redqSum addO) true fun t => { t with rq := .replicate 4 (.replicate 16 (0, false)) }).slot 0 0).rq 1).length
    ∧ (AtRun redE 0 (.eng 0 .are) redR ∧ StoreInv redE ∧ eCount addO 1 ≤ redR.unit ∧ isTile addO.f1 = true ∧ eFirst addO 0 < 64) :=
  ⟨by decide +kernel, ⟨areS_at _ _, by decide +kernel⟩, by decide +kernel, by decide +kernel, ⟨rfl, rfl⟩, redE_ok, by decide +kernel⟩

theorem witness_UnaryRows :
    AtRun (areS (.mov addO)) 0 (.eng 0 .are) (are0 (.mov addO)) ∧ (are0 (.mov addO)).unit < eCount addO 0
    ∧ gotWith (srcRow (areS (.mov addO)) 0 0 .are 1 false 0) (fun s1 v => isGot (dstPut s1 ⟨0, .eng 0 .are, 8⟩ (are0 (.mov addO)) 0 0 v false 0)) = true
    ∧ (are0 (.mov addO)).bc = some ⟨zeros 512, [], false⟩
    ∧ gotWith (areSrc (areS (.bcastRow addO)) 0 0 (are0 (.bcastRow addO)) 1 false true 0) (fun s1 v => isGot (dstPut s1 ⟨0, .eng 0 .are, 8⟩ (are0 (.bcastRow addO)) 0 0 v false 0)) = true
    ∧ isGot (dstPut (areS (.iota addO)) ⟨0, .eng 0 .are, 8⟩ (are0 (.iota addO)) 0 0 ⟨[], [], false⟩ false 0) = true :=
  ⟨areS_at _ _, by decide +kernel, by decide +kernel, rfl, by decide +kernel, by decide +kernel⟩

theorem areS_ok : StoreInv (areS (.trn addO)) := by constructor <;> first | (unfold MemInv; decide +kernel) | decide +kernel
theorem witness_ConversionsAndTranspose :
    (AtRun (areS (.cvt addO)) 0 (.eng 0 .are) (are0 (.cvt addO)) ∧ isTile addO.f2 = true
      ∧ (let r := are0 (.cvt addO)
         gotWith (tileRows (areS (.cvt addO)) 0 0 addO.f2 addO.b2 (eFirst addO 1 + r.unit * fcount addO.fmt / fcount r.src) (if fcount addO.fmt ≤ fcount r.src then 1 else fcount addO.fmt / fcount r.src)) (fun s1 _ =>
          isGot (dstPut s1 ⟨0, .eng 0 .are, 8⟩ r addO.f1 (eFirst addO 0 + r.unit) ⟨zeros 512, [], false⟩ false r.unit)) = true))
    ∧ (AtRun (areS (.trn addO)) 0 (.eng 0 .are) (are0 (.trn addO)) ∧ isGot (tileRows (areS (.trn addO)) 0 0 addO.f2 addO.b2 (eFirst addO 1 + (are0 (.trn addO)).unit) 32) = true
      ∧ eFirst addO 0 + (are0 (.trn addO)).unit + 32 ≤ 64) :=
  ⟨⟨areS_at _ _, by decide +kernel, by decide +kernel⟩, ⟨areS_at _ _, by decide +kernel, by decide +kernel⟩⟩

/-- The matrix engine of the fragment of slot 0 at a word. -/
def mx0 (i : Instr) (st : Bool := true) (u : Nat := 0) : Run := { run0 i st { ent0 with e := #v[1, 0, BitVec.ofNat 64 (2 ^ 48), 0, 0, 0, 0, 0] } with unit := u }
def mxS (i : Instr) (st : Bool := true) (u : Nat := 0) (l : Lay := { frag 0 0 with wfmt := 2 }) (f : Slot → Slot := id) : State :=
  (runS .mxe (mx0 i st u) f).modDie 0 fun y => { y with lay := vset y.lay 0 l }
theorem mxS_at (i : Instr) (st : Bool) (u : Nat) (l : Lay) : AtRun (mxS i st u l) 0 (.eng 0 .mxe) (mx0 i st u) := ⟨rfl, rfl⟩
def mc : Cur := ⟨0, .eng 0 .mxe, 8⟩
def chO : EOp := eop opCH 1 3
def chLay (buf : List ChainRow := []) : Lay := { frag 0 1 with wfmt := 2, buf := buf }
def chS (buf : List ChainRow := []) : State := (mxS (.mdrain chO) true 0 { frag 0 0 (some 1) with wfmt := 2 }).modDie 0 fun y => { y with lay := vset y.lay 1 (chLay buf) }
def emptyT : Slot → Slot := fun t => { t with tiles := .replicate 16 { Tile.fresh with full := 0 } }
theorem witness_OperandsAndUnitEvents :
    (isTile 1 = true ∧ (((areS (.mov addO)).slot 0 0).tile 1).isFull 0 = true ∧ (((areS (.mov addO)).slot 0 0).tile 1).isPsn 0 = false ∧ (((areS (.mov addO) true emptyT).slot 0 0).tile 1).isFull 0 = false)
    ∧ (let s := areS (.mov addO) true emptyT
       AtRun s 0 (.eng 0 .are) (are0 (.mov addO)) ∧ (are0 (.mov addO)).unit < eCount addO 0 ∧ isTile addO.f2 = true ∧ ((s.slot 0 0).tile addO.f2).isFull 0 = false ∧ (s.slot 0 0).heldBy 2 = false ∧ s.openRec 0 0 2 = none)
    ∧ (AtRun (areS (.mov addO)) 0 (.eng 0 .are) (are0 (.mov addO)) ∧ (are0 (.mov addO)).code[(are0 (.mov addO)).pos]? = some (2, .mov addO) ∧ ((arePlan (.mov addO)).map (·.n)) = some 64
      ∧ ((areS (.mov addO)).slot 0 0).heldBy 2 = false ∧ vget ((areS (.mov addO)).slot 0 0).acked 2 = false ∧ ((areS (.mov addO)).slot 0 0).agAre.refused = [] ∧ (are0 (.mov addO)).slot = 0)
    ∧ (AtRun (areS (.mov addO) false) 0 (.eng 0 .are) (are0 (.mov addO) false) ∧ (eMod addO).raw = false ∧ (((areS (.mov addO) false).slot 0 0).tile addO.f2).tag ≠ addO.fmt)
    ∧ (AtRun (mxS (.mmul addO)) 0 (.eng 0 .mxe) (mx0 (.mmul addO)) ∧ ((mxS (.mmul addO)).slot 0 0).heldBy 4 = false ∧ vget ((mxS (.mmul addO)).slot 0 0).acked 4 = false ∧ ((mxS (.mmul addO)).slot 0 0).agMxe.refused = []
      ∧ (mx0 (.mmul addO)).code[(mx0 (.mmul addO)).pos]? = some (2, .mmul addO) ∧ isGot (tileRow (mxS (.mmul addO)) 0 0 addO.f2 addO.b2 0) = true)
    ∧ (AtRun (chS) 0 (.eng 0 .mxe) (mx0 (.mdrain chO)) ∧ (chS.frag mc).y.dst = some 1 ∧ ((chS.die 0).layOf 1).buf.length < 64 ∧ (mx0 (.mdrain chO)).part = 0
      ∧ (mx0 (.mdrain chO)).unit < eCount chO 0 / (((chS.frag mc).cols * fwidth chO.fmt + 4095) / 4096) ∧ (chS.die 0).accPsn 0 0 = false)
    ∧ 64 ≤ (((chS (.replicate 64 ⟨2, [], false⟩)).die 0).layOf 1).buf.length :=
  ⟨by decide +kernel, ⟨⟨rfl, rfl⟩, by decide +kernel⟩, ⟨areS_at _ _, by decide +kernel⟩, ⟨areS_at _ _, by decide +kernel⟩, ⟨mxS_at _ _ _ _, by decide +kernel⟩, ⟨⟨rfl, rfl⟩, by decide +kernel⟩, by decide +kernel⟩

def mzO : EOp := eop 0 0 2
theorem mxS_ok : StoreInv (mxS (.mzero mzO)) := by constructor <;> first | (unfold MemInv; decide +kernel) | decide +kernel
theorem witness_ZeroedAccumulators :
    (AtRun (mxS (.mzero mzO)) 0 (.eng 0 .mxe) (mx0 (.mzero mzO)) ∧ StoreInv (mxS (.mzero mzO)) ∧ winOk ((mxS (.mzero mzO)).frag mc) maskMzero ((mx0 (.mzero mzO)).par mzO.f3) 1 = true
      ∧ fld ((mx0 (.mzero mzO)).par mzO.f3) 48 10 = 1)
    ∧ (let r := run0 (.mzero mzO) true { ent0 with e := .replicate 8 (BitVec.ofNat 64 (2 ^ 63)) }
       let s := (runS .mxe r).modDie 0 fun y => { y with lay := vset y.lay 0 (frag 0 0) }
       s.run mc = some r ∧ winOk (s.frag mc) maskMzero (r.par mzO.f3) (fld (r.par mzO.f3) 48 10) = false ∧ (s.slot 0 0).heldBy 4 = false ∧ s.openRec 0 0 4 = none) :=
  ⟨⟨mxS_at _ _ _ _, mxS_ok, by decide +kernel, by decide +kernel⟩, by decide +kernel⟩

def mdO : EOp := eop 0 0 1
theorem mxM_ok : StoreInv (mxS (.mmul mdO)) := by constructor <;> first | (unfold MemInv; decide +kernel) | decide +kernel
theorem mxD_ok : StoreInv (mxS (.mdrain mdO)) := by constructor <;> first | (unfold MemInv; decide +kernel) | decide +kernel
def bfT : Slot → Slot := fun t => { t with tiles := .replicate 16 { Tile.fresh with tag := 2 } }
theorem witness_MatrixWords :
    (let s := mxS (.mldb mdO) false 0 (frag 0 0) bfT
     s.run mc = some (mx0 (.mldb mdO) false) ∧ srcCheck (s.die 0) 0 mdO.f2 mdO.fmt false = none ∧ fld ((mx0 (.mldb { mdO with f1 := 1 }) false).par 1) 11 53 = 0 ∧ fld ((mx0 (.mldb { mdO with f1 := 1 }) false).par 1) 0 11 + eCount mdO 0 ≤ (s.frag mc).cols)
    ∧ (AtRun (mxS (.mldb mdO)) 0 (.eng 0 .mxe) (mx0 (.mldb mdO)) ∧ isGot (srcRow (mxS (.mldb mdO)) 0 0 .mxe mdO.f2 mdO.b2 0) = true)
    ∧ gotWith (tileRow (mxS (.mcb mdO)) 0 0 mdO.f2 mdO.b2 (eFirst mdO 1)) (fun s1 _ => isGot (tileRow s1 0 0 mdO.f2 mdO.b2 (eFirst mdO 1 + 1))) = true
    ∧ mmulCheck (mxS (.mmul mdO) false 0 { frag 0 0 with wfmt := 2 } bfT) mc (mx0 (.mmul mdO) false) mdO = none
    ∧ (AtRun (mxS (.mmul mdO)) 0 (.eng 0 .mxe) (mx0 (.mmul mdO)) ∧ StoreInv (mxS (.mmul mdO)) ∧ isTile mdO.f2 = true ∧ isGot (tileRow (mxS (.mmul mdO)) 0 0 mdO.f2 mdO.b2 0) = true
      ∧ bitAt ((mx0 (.mmulm mdO)).par (eMod mdO).oc) 0 = true ∧ bitAt ((mx0 (.mmulm mdO)).par (eMod mdO).oc) 1 = false)
    ∧ eCount mdO 0 ≤ (mx0 (.mmul mdO) true 64).unit
    ∧ (AtRun (mxS (.mdrain mdO)) 0 (.eng 0 .mxe) (mx0 (.mdrain mdO)) ∧ StoreInv (mxS (.mdrain mdO)) ∧ ((mxS (.mdrain mdO)).die 0).accPsn 0 0 = false ∧ bitAt ((mx0 (.mdrain mdO)).par mdO.f3) 40 = false
      ∧ isTile mdO.f1 = true ∧ 0 < eCount mdO 0 / ((512 * fwidth mdO.fmt + 4095) / 4096) ∧ eFirst mdO 0 + 0 + (512 * fwidth mdO.fmt + 4095) / 4096 ≤ 64
      ∧ (vget ((mxS (.mdrain mdO)).slot 0 0).rq 2).length < 16 ∧ ((mxS (.mdrain mdO)).slot 0 0).agMxe.sb = [])
    ∧ ((chS.frag mc).y.dst = some 1 ∧ ((chS.die 0).layOf 1).buf.length < 64) :=
  ⟨by decide +kernel, ⟨mxS_at _ _ _ _, by decide +kernel⟩, by decide +kernel, by decide +kernel, ⟨mxS_at _ _ _ _, mxM_ok, by decide +kernel⟩, by decide +kernel, ⟨mxS_at _ _ _ _, mxD_ok, by decide +kernel⟩, by decide +kernel⟩

def cpR (i : Instr) (e : Entry) (st : Bool := true) : Run := { run0 i st e with part := 0 }
def cpE : Entry := ent3 0x10000 0x10100 256
theorem witness_CopyWords :
    (let r := cpR (.copy cop) cpE false
     AtRun (cpS r) 0 (.copy 0) r ∧ ((cpS r).slot 0 0).heldBy 5 = false ∧ vget ((cpS r).slot 0 0).acked 5 = false ∧ ((cpS r).ag 0 (.copy 0)).refused = [] ∧ (r.par 0).toNat % 16 = 0 ∧ (r.par 1).toNat % 16 = 0 ∧ fld (r.par 2) 0 40 % 16 = 0
      ∧ fld (r.par 2) 56 7 = 0 ∧ fld (r.par 2) 40 8 = 0)
    ∧ (let r := cpR (.copy cop) cpE
       AtRun (cpS r) 0 (.copy 0) r ∧ r.mSent < 1 ∧ fld (r.par 2) 0 40 ≠ 0 ∧ ((cpS r).ag 0 (.copy 0)).asm = [] ∧ ((cpS r).ag 0 (.copy 0)).rd = [] ∧ r.code[r.pos]? = some (2, .copy cop)
        ∧ isOk (accessParts 0 (((cpS r).die 0).who (.copy 0) 0) ⟨[0, 1, 2], true, false⟩ [⟨0x10100, 256, 0⟩] ((cpS r).die 0)) = true)
    ∧ (let r := cpR (.copy cop) cpE
       let s := cpS r [asm0 8 256]
       AtRun s 0 (.copy 0) r ∧ (s.ag 0 (.copy 0)).asm = [asm0 (16 * r.unit + 8) 256] ∧ (asm0 8 256).done = true
        ∧ isOk (accessRow 0 (s.die 0) ((s.die 0).who (.copy 0) 0) 0x10000 256 ⟨[0, 1, 2], false, true⟩) = true)
    ∧ (let r := cpR (.fill cop) cpE
       AtRun (cpS r) 0 (.copy 0) r ∧ isOk (accessRow 0 ((cpS r).die 0) (((cpS r).die 0).who (.copy 0) 0) 0x10000 256 ⟨[0, 1, 2], false, true⟩) = true)
    ∧ (let r := { cpR (.copy cop) (ent3 0 0 0) with part := 2 }
       AtRun (cpS r) 0 (.copy 0) r ∧ fld (r.par 2) 0 40 = 0 ∧ (cpS r).settled 0 (.copy 0) = true ∧ bitAt (r.par 2) 63 = false)
    ∧ bitAt ((cpR (.copy cop) (ent3 0 0 (2 ^ 63))).par 2) 63 = true :=
  ⟨⟨⟨rfl, rfl⟩, by decide +kernel⟩, ⟨⟨rfl, rfl⟩, by decide +kernel⟩, ⟨⟨rfl, rfl⟩, by decide +kernel⟩, ⟨⟨rfl, rfl⟩, by decide +kernel⟩, ⟨⟨rfl, rfl⟩, by decide +kernel⟩, by decide +kernel⟩

def mcE : Entry := ent3 0 0x10000 128
def mcR (st : Bool := true) : Run := cpR (.mcast cop) mcE st
def lineS : State := grpS expS
/-- An export whose page the physical map does not hold. -/
def outS : State := poked (rst.modDie 0 fun y => y.setReg rEXPBASE 0x20001) 0x20000 (natLe 8 0x2000000000 ++ natLe 8 0x10000 ++ natLe 8 0x1F0000)
def line0 : McLine := ⟨fsrc, 0, 0, zeros 128, true, true, 2, 3, 0⟩
/-- The same from copy engine 0 of d0 itself. -/
def line1 : McLine := { line0 with src := ⟨0, 0, .copy 0⟩ }
theorem lineS_ok : MemInv lineS := by unfold MemInv; decide +kernel
theorem witness_MulticastLines :
    (AtRun (grpS (cpS (mcR false))) 0 (.copy 0) (mcR false) ∧ mcastCheck (grpS (cpS (mcR false))) ⟨0, .copy 0, 8⟩ (mcR false) cop = none)
    ∧ (let s := cpS mcR [asm0 8 128]
       AtRun s 0 (.copy 0) mcR ∧ mcR.mAck = mcR.mSent ∧ mcR.mSent < fld (mcR.par 2) 0 40 / 128 ∧ (s.ag 0 (.copy 0)).asm = [asm0 (16 * mcR.unit + 8) 128] ∧ (asm0 8 128).done = true ∧ (s.die 0).paired 0 = none)
    ∧ (let r := { mcR with mSent := 1, mAck := 1 }
       AtRun (cpS r) 0 (.copy 0) r ∧ fld (r.par 2) 0 40 / 128 ≤ r.mSent ∧ r.parN 3 = 0 ∧ (vget ((cpS r).slot 0 0).rq 3).length < 16 ∧ ((cpS r).ag 0 (.copy 0)).sb = [])
    ∧ (let r := { mcR with mSent := 1, mGrp := (2, some 1) }
       AtRun (cpS r) 0 (.copy 0) r ∧ r.code[r.pos]? = some (2, .mcast cop) ∧ r.mAck < r.mSent ∧ r.isMember 0 = true ∧ r.isMember 1 = false ∧ [0].Pairwise (· < ·) ∧ (∀ m ∈ [0], r.isMember m = true) ∧ 0 + [0].length ≤ r.others)
    ∧ (line1.src.die = 0 ∧ line1.src.pkg.toNat = (lineS.die 0).pkg 0)
    ∧ (MemInv lineS ∧ ((lineS.die 0).groupFor 0 0 false).isSome = true
      ∧ (((lineS.die 0).groupFor 0 0 false).map fun g => let h := (lineS.die 0).handle g g.self
          (match (lineS.die 0).exportAddr 0 h.1 h.2.1 0 128 1 true with | .ok pa => !(lineS.die 0).pinned pa 128 | .error _ => false)) = some true
      ∧ ¬ (line0.src.die = 0 ∧ line0.src.pkg.toNat = (lineS.die 0).pkg 0) ∧ isMem 0x10000 128 = true ∧ (lineS.die 0).behind fsrc.ag fsrc.die (some fsrc) = false ∧ (lineS.die 0).coe.mcRef = [])
    ∧ (rst.die 0).groupFor 0 0 false = none
    ∧ (let s := grpS outS
       (((s.die 0).groupFor 0 0 false).map fun g => let h := (s.die 0).handle g g.self
          (match (s.die 0).exportAddr 0 h.1 h.2.1 0 128 1 true with | .ok pa => !isMem pa 128 | .error _ => false)) = some true)
    ∧ ((4096 - (3968 + 128 * 0) % 4096) / 128 = 1)
    ∧ (let s := rst.modDie 0 fun y => (({ y with coe := { y.coe with out := [.barArr 0 0], outR := [.mcAck 0 fsrc true] } } : Die).setReg rNFTCFG 1)
       (s.die 0).coe.out = [.barArr 0 0] ∧ (s.die 0).coe.outR = [.mcAck 0 fsrc true] ∧ (s.die 0).coe.moved = [] ∧ (s.die 0).getReg 0 rNFTCFG &&& 7 ≠ 0)
    ∧ ((rst.die 0).coe.moved = [] ∧ (rst.die 0).getReg 0 rNFTCFG &&& 7 = 0) :=
  ⟨⟨⟨rfl, rfl⟩, by decide +kernel⟩, ⟨⟨rfl, rfl⟩, by decide +kernel⟩, ⟨⟨rfl, rfl⟩, by decide +kernel⟩, ⟨⟨rfl, rfl⟩, by decide +kernel⟩, by decide +kernel, ⟨lineS_ok, by decide +kernel⟩, by decide +kernel⟩

def recvE (thr : Nat) : Entry := ent3 (thr * 65536) 0 0
theorem witness_StepWordsWaitAndRelease :
    (let r := kr (.krecv cop) (recvE 3)
     let s := kS (kctx (some r))
     s.cur = ⟨0, .coll, ⟨(0 : Fin 8).val, by decide⟩⟩ ∧ s.ctx 0 0 = some (kctx (some r)) ∧ (kctx (some r)).run = some r ∧ fld (r.par 0) 6 10 = 0 ∧ fld (r.par 0) 48 16 = 0 ∧ fld (r.par 0) 16 32 ≠ 0
      ∧ fld (r.par 0) 16 32 ≤ (vget (kctx (some r)).cnts 0).toNat ∧ (kctx (some r)).wait = none ∧ (kctx (some r) (some kw)).wait = some kw)
    ∧ (vget (kctx none).cnts 0).toNat < fld ((kr (.krecv cop) (recvE 9)).par 0) 16 32
    ∧ (let r := kr (.kbar cop) (ent3 0 0 0) 1
       let s := (kS (kctx (some r))).modDie 0 fun y => { y with coe := { y.coe with ag := { y.coe.ag with sb := [.sem true 0 0] } } }
       s.ctx 0 0 = some (kctx (some r)) ∧ r.part = 1 ∧ s.settled 0 .coll = false ∧ (kctx (some r)).wait = none ∧ (kctx (some r) (some kw)).wait = some kw)
    ∧ (let r := kr (.kbar cop) (ent3 0 0 0)
       let s := grpS (kS (kctx (some r)))
       s.ctx 0 0 = some (kctx (some r)) ∧ r.part = 0 ∧ fld (r.par 0) 12 52 = 0 ∧ fld (r.par 1) 1 63 = 0 ∧ ((s.die 0).groupFor 0 0 true).isSome = true ∧ s.muted 0 = false)
    ∧ (let r := kr (.kbar cop) (ent3 0 0 0) 1
       let s := grpS (kS (kctx (some r)))
       s.settled 0 .coll = true ∧ (s.die 0).fabQuiet 0 = true ∧ s.muted 0 = false)
    ∧ (let r := kr (.kbar cop) (ent3 0 0 0) 2
       let s := kS (kctx (some r))
       (s.die 0).missing 0 0 0 = [] ∧ (s.die 0).gateOk 0 = true ∧ r.part = 2 ∧ ((kS (kctx (some r) (some kw))).die 0).missing 0 0 0 = [] ∧ (kS (kctx (some r) (some kw))).ctx 0 0 = some (kctx (some r) (some kw)))
    ∧ (let r := kr (.kbar cop) (ent3 0 0 0) 2
       let k := { kctx (some r) (some kw) with gens := [(0, 1)] }
       let s := grpS (kS k)
       s.ctx 0 0 = some k ∧ spGet 0 k.gens 0 = 1 ∧ (s.die 0).missing 0 0 1 ≠ [] ∧ ((grpS (kS { k with wait := none })).die 0).missing 0 0 1 ≠ [])
    ∧ ({ kctx (some (kr (.krel cop) (ent3 0 0 0))) with released := true }.steps[(kctx none).step]? = some (step1 0))
    ∧ ((kctx none).steps[(kctx none).step]? = some (step1 0) ∧ (step1 0).ntask = 0 ∧ (kctx none).released = false ∧ (kS (kctx none)).settled 0 .coll = true)
    ∧ (let r := kr (.krel cop) (ent3 0 0 0)
       let s := kS (kctx (some r) none 1) [] (poked (owned rst [launch0]) 0x10200 (natLe 8 5))
       (kctx (some r) none 1).steps[(kctx (some r) none 1).step]? = some (step1 1) ∧ s.settled 0 .coll = true
        ∧ okWith (coeRead s ⟨0, .coll, 0⟩ ((s.die 0).whoOwn .coll own0) 0x10200 8) (fun y bs => match y.sched.launch 0 with
            | some l => let z := Die.takeTasks 0 l [leWord (slice bs 0 8)] y; z.2 && vget z.1.coe.ctx 0 == some (kctx (some r) none 1)
            | none => false) = true) :=
  by decide +kernel

def sendE : Entry := ent3 0x80000 0x10000 (128 + 2 ^ 63)
def sr (st : Bool) (part sent : Nat) : Run := { kr (.ksend cop) sendE part st with mSent := sent }
def sS (r : Run) (asm : List Asm := []) (w : Option KWait := none) (gr : List Nat := []) : State :=
  (impS (kS (kctx (some r) w) asm)).modDie 0 fun y => { y with coe := { y.coe with tlb := [page 0x10000 0, peerPage], grants := gr } }
def sWho : Who := ((sS (sr true 0 0)).die 0).whoRun ⟨0, .coll, 0⟩ (sr true 0 0)
theorem witness_SendsFollowTheirGrant :
    (let r := sr false 0 0
     let s := sS r
     s.cur = ⟨0, .coll, 0⟩ ∧ s.ctx 0 0 = some (kctx (some r)) ∧ r.started = false ∧ fld (r.par 2) 40 8 = 0 ∧ fld (r.par 2) 54 9 = 0 ∧ fld (r.par 2) 0 40 = 128 ∧ (r.par 0).toNat % 16 = 0 ∧ (r.par 1).toNat % 16 = 0)
    ∧ (let r := sr true 0 0
       let s := sS r
       s.ctx 0 0 = some (kctx (some r)) ∧ okWith (access 0 (s.die 0) sWho 0x80000 0 ⟨[2, 3], false, true⟩) (fun y p => isPeer p && !(s.modDie 0 fun _ => y).muted 0 && vget y.coe.ctx 0 == some (kctx (some r))) = true)
    ∧ (let r := sr true 1 0
       let s := sS r [] (some kw) [0]
       s.ctx 0 0 = some (kctx (some r) (some kw)) ∧ r.rw ∈ (s.die 0).coe.grants ∧ r.rw ∉ ((sS r [] (some kw)).die 0).coe.grants)
    ∧ (let r := sr true 2 0
       let s := sS r
       s.ctx 0 0 = some (kctx (some r)) ∧ (s.ag 0 .coll).asm = [] ∧ isOk (accessParts 0 sWho ⟨[0, 1], true, false⟩ [⟨0x10000, 128, 0⟩] (s.die 0)) = true)
    ∧ (let r := sr true 2 0
       let s := sS r [asm0 (16 * r.unit + 0) 128]
       (s.ag 0 .coll).asm = [asm0 0 128] ∧ (asm0 0 128).done = true ∧ isOk (accessRow 0 (s.die 0) sWho 0x80000 128 ⟨[2, 3], false, true⟩) = true)
    ∧ (let r := sr true 2 1
       let s := sS r
       s.ctx 0 0 = some (kctx (some r)) ∧ r.mSent ≠ 0 ∧ bitAt (r.par 2) 63 = true ∧ okWith (access 0 (s.die 0) sWho 0x80000 0 ⟨[2, 3], false, true⟩) (fun _ p => isPeer p) = true)
    ∧ (let s := sS (sr true 3 1)
       (s.ag 0 .coll).sb = [] ∧ ∀ p ∈ (s.ag 0 .coll).pend, p.op.isFab = false) :=
  by decide +kernel

/-- 32 elements of a source format, from 0x10000 to 0x10400. -/
def vecE (st : Nat) : Entry := ent3 0x10400 0x10000 (32 + st * 2 ^ 48)
def vr (i : Instr) (st : Nat) (run : Bool) (done : Nat := 0) : Run := { kr i (vecE st) 0 run with mSent := done }
def copS : COp := { cop with fmt := 18 }
def vS (r : Run) (asm : List Asm := []) : State := kS (kctx (some r)) asm
def vWho : Who := ((kS (kctx none)).die 0).whoOwn .coll own0
def kc : Cur := ⟨0, .coll, 0⟩
theorem witness_VectorWords :
    (let r := vr (.kadd cop) 2 false
     (vS r).cur = kc ∧ (vS r).run kc = some r ∧ (r.par 2).extractLsb' 48 5 = cop.fmt ∧ fld (r.par 2) 32 16 = 0 ∧ fld (r.par 2) 53 11 = 0 ∧ fld (r.par 2) 0 32 = 32 ∧ (r.par 0).toNat % 16 = 0 ∧ (r.par 1).toNat % 16 = 0
      ∧ fmtKwSrc 2 = true ∧ (2 : Tag) = tBF16)
    ∧ (32 ≤ (vr (.kadd cop) 2 true 32).mSent)
    ∧ (let r := vr (.kwid cop) 2 true
       ((vS r).ag 0 .coll).asm = [] ∧ isOk (accessParts 0 vWho ⟨[0, 1], true, false⟩ (vecWork r cop cop.fmt 1 [(0x10000, 2)] 0).parts ((vS r).die 0)) = true)
    ∧ (let r := vr (.kwid cop) 2 true
       let q := vecWork r cop cop.fmt 1 [(0x10000, 2)] 0
       let s := vS r [asm0 (16 * r.unit + 0) 64]
       (s.ag 0 .coll).asm = [asm0 0 64] ∧ (asm0 0 64).done = true ∧ fscaled cop.fmt = false ∧ fwidth cop.fmt % 8 = 0 ∧ 0x10000 + vecLen 2 q.cnt ≤ q.da
        ∧ okWith (accessParts 0 vWho ⟨[0, 1], false, true⟩ [⟨q.da, q.dn, 0⟩] (s.die 0)) (fun _ l => l.length == 1) = true)
    ∧ (let r := vr (.kreq { cop with fmt := 20 }) 2 true
       let q := vecWork r { cop with fmt := 20 } 20 32 [(0x10000, 2)] 0
       let s := vS r [asm0 (16 * r.unit + 0) 64]
       fscaled 20 = true ∧ (s.ag 0 .coll).asm = [asm0 0 64] ∧ q.sn ≠ 0 ∧ 0x10000 + vecLen 2 q.cnt ≤ q.da ∧ 0x10000 + vecLen 2 q.cnt ≤ q.sa
        ∧ okWith (accessParts 0 vWho ⟨[0, 1], false, true⟩ [⟨q.da, q.dn, 0⟩, ⟨q.sa, q.sn, 0⟩] (s.die 0)) (fun _ l => l.length == 2) = true) :=
  by decide +kernel

def frmR : Run := kr (.kframe cop) (ent3 0x10000 0 0)
/-- A descriptor at 0x10000 of one frame of group 0 on the timetable at 0x10100: 2^10 ticks, one step. -/
def frmS : State :=
  poked (poked (grpS (kS (KCtx.opening frmR own0))) 0x10000 (natLe 8 0x10100 ++ natLe 8 0 ++ natLe 8 1 ++ zeros 40)) 0x10100
    (natLe 8 (10 + 65536) ++ natLe 8 0 ++ zeros 48 ++ natLe 8 100 ++ natLe 8 0x10000 ++ natLe 8 0 ++ natLe 8 0)
def kEnd (next nr : Nat) : KCtx := { kctx (some { kr (.krel cop) ent0 with pos := 1 }) with next := next, nr := nr }
theorem witness_FramesRunTheirTimetable :
    (let s := (owned rst [launch0]).modDie 0 fun y => { y with coe := { y.coe with run := some frmR } }
     (s.die 0).coe.run = some frmR ∧ frmR.part ≠ unchecked ∧ frameCode frmR.code = true ∧ (∀ i : Fin 8, vget (s.die 0).coe.ctx i = none) ∧ (s.die 0).coe.own = none ∧ (s.ctl 0 frmR.slot).own = some own0)
    ∧ (let s := rst.modDie 0 fun y => { y with coe := { y.coe with run := some frmR, own := some own0 } }
       (s.die 0).coe.run = some frmR ∧ vget (s.die 0).coe.ctx 0 = none ∧ (s.die 0).coe.own = some own0)
    ∧ (let c : Cur := ⟨0, .coll, 0⟩
       let who := (frmS.die 0).whoRun c frmR
       frmS.cur = c ∧ frmS.ctx 0 0 = some (KCtx.opening frmR own0) ∧ (frmR.par 0).toNat % 64 = 0
        ∧ okWith (coeRead frmS c who 0x10000 64) (fun y bs => match parseDesc bs with
            | some f => y.whoRun c frmR == who && ((y.group 0 f.grp.toNat).any fun g => g.kind < 3) && okWith (readTable (frmS.modDie 0 fun _ => y) c who f.tt) fun z t =>
                okWith (chainCheck (frmS.modDie 0 fun _ => y) c who 65536 [f.tt] t.next z) fun v _ =>
                  f.t0 % 2 ^ t.flog2 == 0 && v.coe.ctx.toList.all (fun k => k.isNone || k == some (KCtx.opening frmR own0)) 
            | none => false) = true)
    ∧ (let s := (kS (kctx none)).modSlot 0 0 fun t => { t with stop := vset t.stop 6 true }
       s.ctx 0 0 = some (kctx none) ∧ (s.die 0).ctxAsked (kctx none) = true)
    ∧ (let k := { kctx none with inFrame := false, base := 50 }
       (kS k).ctx 0 0 = some k ∧ k.nr ≠ 0 ∧ k.stopped = false ∧ ((kS k).die 0).ctxHeld k = false ∧ ((kS k).die 0).ctxAsked k = false ∧ ((kS k).tick 0).toNat < k.base + k.ofs ∧ k.base + k.ofs ≤ ((later (kS k) 50).tick 0).toNat ∧ k.steps ≠ [] ∧ (kS k).muted 0 = false)
    ∧ (let k := kctx none
       (kS k).ctx 0 0 = some k ∧ k.inFrame = true ∧ ((kS k).die 0).ctxHeld k = false ∧ ((kS k).die 0).ctxAsked k = false ∧ k.steps[k.step]? = some (step1 0) ∧ ((kS k).tick 0).toNat < k.base + 100 + k.ofs ∧ ((later (kS k) 100).tick 0).toNat = k.base + 100 + k.ofs ∧ k.base + 100 + k.ofs < ((later (kS k) 101).tick 0).toNat)
    ∧ (let k := { kEnd 0 1 with steps := [step1 0, step1 0] }
       (kS k).ctx 0 0 = some k ∧ k.steps[k.step]? = some (step1 0) ∧ k.run = some { kr (.krel cop) ent0 with pos := 1 } ∧ ((kS k).ag 0 .coll).sb = [] ∧ ((kS k).ag 0 .coll).refused = [] ∧ (step1 0).ntask = 0 ∧ k.step + 1 < k.steps.length)
    ∧ (∀ next nr : Fin 3, (kS (kEnd next nr)).ctx 0 0 = some (kEnd next nr) ∧ (kEnd next nr).steps.length ≤ (kEnd next nr).step + 1 ∧ (next ≠ 0 ∨ nr = 0 ∨ ((kS (kEnd next nr)).die 0).ctxBound (kEnd next nr) = true))
    ∧ ((kEnd 1 1).next ≠ 0 ∧ (kEnd 0 2).round + 1 < 2 ∧ 1 ≤ (kEnd 0 1).round + 1) :=
  by decide +kernel

theorem witness_GroupMessages :
    (let k := kctx none
     (kS k).muted 0 = false ∧ (kS k).ctx 0 0 = some k ∧ k.grp = 0 ∧ k.nr ≠ 0 ∧ k.stopped = false ∧ 0 = k.frame ∧ k.inFrame = true)
    ∧ (∀ x, (kS (kctx none)).ctx 0 x = none ∨ (kS (kctx none)).ctx 0 x = some (kctx none)) ∧ (kctx none).frame < 1
    ∧ (let s := grpS rst
       ((s.die 0).groupFor 0 0 true).map (fun g => (g.nmem, g.self)) = some (2, 1) ∧ ((s.die 0).coe.bar 0 0).grp = 0 ∧ ((s.die 0).coe.bar 0 0).m = 0 ∧ (0 : Nat) < 2 ∧ (0 : Nat) ≠ 1)
    ∧ (∀ i ∈ [Instr.kbar cop, .krecv cop, .ksend cop], let r := kr i (ent3 0 0 0) 2
       let s := later ((kS (kctx (some r) (some kw))).modDie 0 fun y => y.setReg rKBTO 10) 10
       s.run ⟨0, .coll, 0⟩ = some r ∧ s.kwait ⟨0, .coll, 0⟩ = some kw ∧ r.code[r.pos]? = some (2, i) ∧ (s.die 0).rf 0 rKBTO 0 40 = 10 ∧ kw.on = true ∧ 10 ≤ kw.ran + (s.tick 0 - kw.from_).toNat
        ∧ (s.slot 0 0).heldBy 6 = false ∧ s.openRec 0 0 6 = none ∧ (s.die 0).ctxOf ⟨0, .coll, 0⟩ = some (kctx (some r) (some kw)) ∧ (kctx (some r) (some kw)).slot = r.slot ∧ (s.die 0).ctxBound (kctx (some r) (some kw)) = true)
    ∧ (let r := kr (.kbar cop) (ent3 0 0 0) 2
       let s := later ((owned rst [launch0]).modDie 0 fun y => { y.setReg rKBTO 10 with coe := { y.coe with run := some r, own := some own0, wait := some kw } }) 10
       s.run ⟨0, .coll, 8⟩ = some r ∧ s.kwait ⟨0, .coll, 8⟩ = some kw ∧ (s.die 0).ctxOf ⟨0, .coll, 8⟩ = none ∧ (s.die 0).runBound ⟨0, .coll, 8⟩ r = true)
    ∧ ((rst.modDie 0 fun y => y.setReg rKBTO 0).die 0).rf 0 rKBTO 0 40 = 0 :=
  by decide +kernel

def kickOk (s : State) (f : Proc → Bool) : Bool :=
  bitAt ((s.die 0).getReg 0 rPROCBASE) 0 && bitAt ((s.die 0).getReg 0 rSJBASE) 63 && !bitAt ((s.die 0).getReg 0 rSCHST) 63 && (s.die 0).gateOk 0 && !s.muted 0 && (s.die 0).sched.pass.isNone && (s.die 0).sched.nextKick == some 1
    && ((s.die 0).paired 0).isNone && s.pairRoom 0 2 && !s.partnerGated 0 && f ((s.die 0).proc 0 1)
def descD (ls : List Launch) : Die := (descS ls).die 0
def descOk (ls : List Launch) (f : Die → Desc → Bool) : Bool := match readDesc 0 (descD ls) proc0.asid 0x10000 with | (some k, y) => f y k | _ => false
def accepted (ls : List Launch) (cls np ts : Nat) : Nat := (acceptRecord 0 (descD ls) false proc0 1 (recB cls np ts)).1
theorem witness_KicksAndRecords :
    (kickOk (kickS (zeros 64) []) (fun p => p.skip == some 5) = true ∧ kickOk (kickS (procB 0) []) (fun p => p.skip.isNone && p.head == p.tail) = true
      ∧ kickOk (kickS (procB 256) []) (fun p => p.skip.isNone && p.head != p.tail && (p.head + 256) % p.rlen == p.tail) = true)
    ∧ (let s := (kickS (procB 256) []).modDie 0 fun y => y.poke 0xD0000 [1] true
       kickOk s (fun p => p.head != p.tail && (s.die 0).poisoned (p.ring + p.head) 256) = true)
    ∧ (((kickS (procB 256) []).die 0).poisoned 0xD0000 256 = false ∧ bitAt ((rst.die 0).getReg 0 rPROCBASE) 0 = false ∧ (rst.die 0).sched.nextKick = none)
    ∧ (let u := (kickS (procB 256) []).modSched 0 fun q => { q with kick := vset q.kick 1 false, kickRr := 1 }
       (acceptRecord 0 ((u.die 0).jOpen 0 1 (2 ^ 32) 0 0) false ((u.die 0).proc 0 1) 1 ((u.die 0).peek 0xD0000 256)).2.paired 0 = none)
    ∧ (let s := (kickS (procB 256) []).modSched 0 fun q => { q with pass := some (1, 256, 0) }
       bitAt ((s.die 0).getReg 0 rPROCBASE) 0 = true ∧ bitAt ((s.die 0).getReg 0 rSJBASE) 63 = true ∧ (s.die 0).schedOn 0 = true ∧ s.muted 0 = false ∧ s.pairRoom 0 2 = true ∧ s.partnerGated 0 = false ∧ (s.die 0).sched.pass = some (1, 256, 0))
    ∧ (rst.die 0).sched.pass = none
    ∧ (recordBad (zeros 256) = true ∧ recordBad (recB 1 0 1) = false ∧ recordBad (recB 1 1 1) = false ∧ recordBad (recB 0 0 0) = false)
    ∧ ((readDesc 0 (rst.die 0) 0 0x10000).1 = none ∧ descOk [] (fun y k => (y.sched.latest 1 5).isNone && teamMax k.shape == 4) = true)
    ∧ descOk [launch0] (fun y _ => (y.sched.latest 1 5).any fun l => l.st == .active) = true
    ∧ (accepted [] 1 0 0 = 4 ∧ accepted [launch0] 1 0 1 = 5 ∧ accepted [] 1 1 1 = 6 ∧ accepted [] 0 0 1 = 7 ∧ accepted [] 1 0 1 = 1) :=
  by decide +kernel
def aux0 : SlotAux := ⟨[], none, .running, [], [], [], [], [], [], []⟩
def blkO : Blk := { blkL with st := .swapped, slots := [], aux := [aux0] }
/-- A saved block at 0x100000: one strand, shape E, its layout byte. -/
def savedS : State := poked (rst.modDie 0 fun y => { y with coe := { y.coe with tlb := [bigPage] }, sched := { y.sched with launches := [{ launchC with blks := [blkO] }] } }) 0x100000 (natLe 8 256 ++ [0x80])
def savedB : Image := readOf (savedS.die 0) 0x100000 blkPieces
def savedK : Image := readOf (savedS.die 0) 0x110000 slotPieces
theorem saved_blk : getImage 0 0 0x100000 blkPieces (savedS.die 0) = .ok (savedS.die 0) savedB := get_big _ ⟨rfl, by decide +kernel⟩ _ _ (by decide +kernel)
theorem saved_slot : getImage 0 0 0x110000 slotPieces (savedS.die 0) = .ok (savedS.die 0) savedK := get_big _ ⟨rfl, by decide +kernel⟩ _ _ (by decide +kernel)
theorem saved_ok1 : savedB.any (·.2.2) = false ∧ badBlk launchC [0] savedB = none := by decide +kernel
theorem read_clean (d : Die) (h : d.psn = []) (base : Nat) (l : List (Nat × Nat)) : ∀ p ∈ readOf d base l, p.2.2 = false := by
  intro p hp
  simp only [readOf, List.mem_map] at hp
  obtain ⟨x, _, rfl⟩ := hp
  simp [Die.poisoned, h, setHas]
theorem saved_ok2 : (savedK.any fun p => p.2.2 && !(0x8000 ≤ p.1 && p.1 < 0x88000 || 0xC0000 ≤ p.1)) = false :=
  List.any_eq_false.mpr fun p hp => by simp [read_clean _ (by decide +kernel) _ _ p hp]
theorem saved_ok3 : badSlot aux0.runs (slice (savedB.bytes 0x100) 0 64) savedK = none := by decide +kernel
theorem find_none {α : Type} (p : α → Bool) (l : List α) (h : l.any p = false) : l.find? p = none := by
  rw [List.find?_eq_none]
  exact List.any_eq_false.1 h
theorem read_one (s : State) (d : DieId) (l : Launch) (b : Blk) (k : SlotId) (i x : Image) (a : SlotAux)
    (h1 : getImage d l.asid (l.saveAt b.l) blkPieces (s.die d) = .ok (s.die d) i) (h2 : i.any (·.2.2) = false) (h3 : badBlk l [k] i = none)
    (h4 : getImage d l.asid (l.saveAt b.l + slotRegion 0) slotPieces (s.die d) = .ok (s.die d) x)
    (h5 : (x.any fun p => p.2.2 && !(0x8000 ≤ p.1 && p.1 < 0x88000 || 0xC0000 ≤ p.1)) = false) (h6 : b.aux[0]? = some a)
    (h7 : badSlot a.runs (slice (i.bytes 0x100) (64 * 0) 64) x = none) : readBlk s d l b [k] = .ok (s, i, [x]) := by
  have hr : List.range [k].length = [0] := rfl
  have eb : ∀ {ε α β : Type} (y : α) (f : α → Except ε β), Except.bind (.ok y) f = f y := fun _ _ => rfl
  unfold readBlk
  rw [h1]
  unfold gotBlk
  simp only [keep_die, find_none _ _ h2, h3]
  rw [hr, List.foldl_cons, List.foldl_nil, eb]
  dsimp only
  rw [h4]
  unfold gotSlot
  simp only [keep_die, find_none _ _ h5, h6, h7, List.nil_append]
theorem saved_read : readBlk savedS 0 { launchC with blks := [blkO] } blkO [0] = .ok (savedS, savedB, [savedK]) :=
  read_one savedS 0 { launchC with blks := [blkO] } blkO 0 savedB savedK aux0 saved_blk saved_ok1.1 saved_ok1.2 saved_slot saved_ok2 rfl saved_ok3

/-- A waiting block; a swapped-out one. -/
def queuedS : State := (owned rst [{ launch0 with blks := [blkQ] }]).modSched 0 fun q => { q with cq := [(0, 0)], teams := [] }
def swappedS : State := (owned rst [{ launch0 with blks := [blkO] }]).modSched 0 fun q => { q with sq := [(0, 0)], teams := [] }
def firstS (s : State) : Option Bool := ((s.die 0).nextPlace 0 none).map fun x => x.1.swap
def cand0 (sw : Bool) : Cand := ⟨0, 0, 1, 1, sw, false, [0]⟩
def place0 : Machine.Place := ⟨0, [[0]], 0, 0⟩
def blkW (r : StrandRec) : Blk := { blkL with recs := [r] }
def suspR : StrandRec := { rec0 with susp := some (2, 0, 0, 7) }
def doneRec : StrandRec := { rec0 with done := true }
theorem witness_LeasesAndReturns :
    ((rst.die 0).schedOn 0 = true ∧ firstS rst = none ∧ (queuedS.die 0).schedOn 0 = true ∧ firstS queuedS = some false ∧ (swappedS.die 0).schedOn 0 = true ∧ firstS swappedS = some true)
    ∧ ((queuedS.die 0).sched.launch (cand0 false).lid = some { launch0 with blks := [blkQ] } ∧ (cand0 false).blks = [blkQ.l] ∧ [blkQ].filter (fun x => x.l == blkQ.l) = [blkQ] ∧ place0.slots = [[0]] ∧ [(0 : SlotId)].Nodup ∧ blkQ.lay = [])
    ∧ ((savedS.die 0).sched.launch (cand0 true).lid = some { launchC with blks := [blkO] } ∧ launchC.zw = 0 ∧ (cand0 true).blks = [blkO.l] ∧ [blkO].filter (fun z => z.l == blkO.l) = [blkO]
      ∧ readBlk savedS 0 { launchC with blks := [blkO] } blkO [0] = .ok (savedS, savedB, [savedK]) ∧ blkO.ctxs = [] ∧ blkO.flts = [] ∧ blkO.aux = [aux0])
    ∧ (∀ r ∈ [suspR, doneRec], let b := blkW r; b.l < 2 ^ 32 ∧ ((ownS b).die 0).sched.launch 0 = some (heldL b) ∧ (heldL b).blk b.l = some b ∧ b.slots ≠ [] ∧ (∀ t, ((ownS b).die 0).sched.team 0 ((heldL b).teamOf b.l) = some t → t.leaving = false)
      ∧ b.halted = 0 ∧ ((ownS b).die 0).blkIdle 0 b.slots = true)
    ∧ (suspR.done = false ∧ suspR.susp ≠ none ∧ (blkW suspR).keeps = false ∧ (blkW rec0).keeps = true ∧ doneRec.done = true ∧ (blkW doneRec).earl = false)
    ∧ (((ownS (blkW doneRec)).die 0).schedOn 0 = true ∧ (((ownS (blkW doneRec)).die 0).giveBack [0]).schedOn 0 = true ∧ (ownS (blkW doneRec)).pairRoom 0 2 = true)
    ∧ (let s := ((ownS (blkW doneRec)).modDie 0 fun y => y.setReg rSCHST (BitVec.ofNat 64 (2 ^ 63))).modSched 0 fun q => { q with cbuf := .replicate 1024 (0, 0) }
       (s.die 0).schedOn 0 = false ∧ 1024 ≤ (s.die 0).sched.cbuf.length) :=
  ⟨by decide +kernel, by decide +kernel, ⟨by decide +kernel, by decide +kernel, by decide +kernel, by decide +kernel, saved_read, rfl, rfl, rfl⟩, by decide +kernel⟩

def okRec (x : Option (List Byte) × Die) (f : Die → RecVal → Bool) : Bool := match x with | (some bs, y) => f y (recOf bs) | _ => false
/-- The record of strand 0 of the launch stands at 0x20000. -/
def pickS (l : Launch) (f : Ctl → Ctl := id) (c : List TlbEntry := [page 0x20000 0]) : State :=
  ((owned rst [l]).modDie 0 fun y => { y with coe := { y.coe with tlb := c } }).modCtl 0 0 f
theorem witness_PickUpLoadsTheRecord :
    (∀ l ∈ [launch0, heldL (blkW suspR)], ((pickS l).ctl 0 0).own = some own0 ∧ ((pickS l).die 0).ownLaunch 0 = some l ∧ (((pickS l).die 0).ownBlk 0).isSome = true)
    ∧ (let b := blkW { rec0 with susp := some (1, 0, 5, 0) }
       ((pickS (heldL b) id []).die 0).strandMet 0 (heldL b) b 0 (some 0) = false)
    ∧ (let s := (pickS launch0).modDie 0 fun y => { y with held := [⟨.core 0, 0, .write [⟨pc 0x20000 8, eight⟩] false 0 0, 0, 0, none⟩] }
       (s.die 0).strandMet 0 launch0 blkL 0 (some 0) = true ∧ (s.die 0).gateOk 0 = true ∧ (s.ctl 0 0).act = .idle ∧ vget (s.slot 0 0).stop 0 = false ∧ (s.slot 0 0).heldBy 0 = false ∧ (s.ctl 0 0).due = none
        ∧ ((s.die 0).held.any fun h => h.op.lines.any (procLines 0 (s.die 0) launch0.asid (launch0.recAt blkL.l 0) 64).contains) = true)
    ∧ (let s := pickS launch0
       ((s.die 0).held.any fun h => h.op.lines.any (procLines 0 (s.die 0) launch0.asid (launch0.recAt blkL.l 0) 64).contains) = false ∧ (s.ctl 0 0).act = .idle ∧ vget (s.slot 0 0).stop 0 = false ∧ (s.slot 0 0).heldBy 0 = false ∧ (s.ctl 0 0).due = none ∧ blkL.keeps = true ∧ (s.die 0).strandMet 0 launch0 blkL 0 (some 0) = true
        ∧ (s.die 0).gateOk 0 = true ∧ (procLoad 0 (s.die 0) launch0.asid (launch0.recAt blkL.l 0) 64).1.isSome = true)
    ∧ ((pickS launch0 fun c => { c with act := .suspended }).ctl 0 0).act = .suspended
    ∧ (let b := blkW { rec0 with susp := some (1, 0, 0, 0) }
       let s := poked ((pickS (heldL b)).modSlot 0 0 fun t => { t with agCtl := { t.agCtl with pend := [sent0] } }) 0x20038 (natLe 8 1)
       b.keeps = true ∧ (s.die 0).strandMet 0 (heldL b) b 0 (some 0) = true ∧ (s.die 0).gateOk 0 = true
        ∧ okRec (procLoad 0 (s.die 0) 0 0x20000 64) (fun y v => v.kind != 0 && !acqFree y 0 0) = true)
    ∧ (let b := blkW { rec0 with susp := some (2, 0, 0, 6) }
       let l := { heldL b with shape := 0 }
       let s := poked ((owned rst [l, { launch0 with id := 1, node := 6, st := .failed }]).modDie 0 fun y => { y with coe := { y.coe with tlb := [page 0x20000 0] } }) 0x20038 (natLe 8 (2 + 6 * 65536))
       b.flts = [] ∧ (s.die 0).strandMet 0 l b 0 (some 0) = true ∧ okRec (procLoad 0 (s.die 0) 0 0x20000 64) (fun y v => acqFree y 0 0 && y.nodeFailed l v) = true) :=
  by decide +kernel

/-- A block on slot 0 whose slice is 100 ticks; `ls` also wait. -/
def sliceS (ls : List Launch) (cq : List (Nat × Nat)) : State :=
  ((owned rst (heldL blkL :: ls)).modDie 0 fun y => { y.setReg rQUANT 100 with lay := vset y.lay 0 (frag 0 0) }).modSched 0 fun q => { q with cq := cq }
def wideL : Launch := { launch0 with id := 1, node := 6, shape := 5, blks := [{ blkQ with recs := .replicate 8 rec0 }] }
def sliceOk (s : State) : Prop :=
  ∃ x, (s.die 0).sched.team 0 0 = some x ∧ x.t < 2 ^ 32 ∧ (s.die 0).sched.launch 0 = some (heldL blkL) ∧ (s.die 0).schedOn 0 = true ∧ x.leaving = false ∧ (s.die 0).resident x = true ∧ ∀ b ∈ (heldL blkL).teamBlks x.t, b.earl = false
def team0 : Team := ⟨0, 0, 0, false, 0, 0, 0, false, false, none, []⟩
/-- The team of slot 0 is Early; a wide block without `EARLY` waits. -/
def earlyS : State :=
  ((owned rst [heldL { blkL with earl := true }, wideL]).modDie 0 fun y => { y with lay := vset y.lay 0 (frag 0 0) }).modSched 0 fun q => { q with cq := [(1, 0)] }
def zeroL : Launch := { launch0 with id := 1, node := 6, cls := 0, blks := [blkQ] }
/-- Every slot is in a fragment; slot 0, reserved for class 0, in that of a team of class 1; a block of class 0 waits. -/
def fullS : State := (sliceS [zeroL] [(1, 0)]).modDie 0 fun y => { y.setReg rC0RES (BitVec.ofNat 64 (2 ^ 63 + 1)) with lay := Vector.ofFn fun k => frag 0 k }
def leaveL : Launch := { launchC with blks := [blkL] }
def leaveS (tlb : List TlbEntry) (ack : Bool) (busy : Bool := false) : State :=
  (((owned rst [leaveL]).modDie 0 fun y => { y with coe := { y.coe with tlb := tlb, ag := if busy then { AgentSt.empty with pend := [sent0] } else y.coe.ag } }).modSched 0 fun q => { q with teams := [{ team0 with leaving := true }] }).modSlot 0 0 fun t =>
    { t with acked := .replicate 7 ack }
def saveD (busy : Bool) : Die := (leaveS [bigPage] true busy).die 0
def leaveX : Team := { team0 with leaving := true }
theorem spRead_len {α : Type} (z : α) (l : Sparse α) : ∀ n a, (spRead z l a n).length = n
  | 0, _ => rfl
  | n + 1, a => by simp [spRead, spRead_len z l n]
theorem flat_len {α : Type} (f : α → List Byte) (c : Nat) : ∀ l : List α, (∀ x ∈ l, (f x).length = c) → (l.flatMap f).length = c * l.length
  | [], _ => rfl
  | x :: r, h => by
    have h1 := h x (by simp)
    have h2 := flat_len f c r fun y hy => h y (by simp [hy])
    simp only [List.flatMap_cons, List.length_append, List.length_cons, h1, h2]
    rw [Nat.mul_add]; omega
theorem natLe_len (n x : Nat) : (natLe n x).length = n := by
  induction n generalizing x with
  | zero => rfl
  | succ n ih => simp [natLe, ih]
theorem slot_small (q : Bool) : ∀ p ∈ (saveD q).slotImage 0, p.1 + p.2.1.length ≤ 0x120000 := by
  intro p hp
  unfold Die.slotImage at hp
  dsimp only at hp
  simp only [List.mem_append, List.mem_flatMap, List.mem_map, List.mem_singleton, List.mem_filterMap] at hp
  obtain ((((((hA | ⟨i, _, r, hr, rfl⟩) | ⟨i, _, rfl⟩) | rfl) | ⟨i, hi, rfl⟩) | ⟨r, hr, rfl⟩) | ⟨i, hi, hp⟩) := hp
  · revert p; cases q <;> decide +kernel
  · have := i.isLt
    rw [List.mem_range] at hr
    simp only [spRead_len]
    omega
  · have := i.isLt
    simp only [spRead_len]
    omega
  · cases q <;> decide +kernel
  · rw [List.mem_range] at hi
    simp only [spRead_len]
    omega
  · rw [List.mem_range] at hr
    have e : ((spRead (0 : W32) ((saveD q).slot 0).bank.acc (512 * r) 512).flatMap fun v => natLe 4 v.toNat).length = 4 * 512 := by
      rw [flat_len _ 4 _ fun x _ => natLe_len 4 _, spRead_len]
    dsimp only
    rw [e]
    omega
  · have : ((saveD q).layOf 0).buf = [] := by cases q <;> decide +kernel
    rw [this] at hp
    simp at hp
theorem blk_small (q : Bool) : ∀ p ∈ (saveD q).blkImage leaveL blkL, p.1 + p.2.1.length ≤ 0x10000 := by cases q <;> decide +kernel
theorem ctx_small (q : Bool) : ∀ x ∈ (saveD q).lateImages leaveL leaveX [blkL], ∀ p ∈ x.2, x.1 + p.1 + p.2.1.length ≤ 2 ^ 25 := by cases q <;> decide +kernel
theorem lines_big : ∀ (l : List (Nat × Nat)) (d : Die), Big d → (∀ p ∈ l, p.1 + p.2 ≤ 2 ^ 25) → ∃ u, csLines 0 0 l d = .ok d u
  | [], _, _, _ => ⟨_, rfl⟩
  | (va, n) :: r, d, h, hp => by
    obtain ⟨u, e⟩ := lines_big r d h fun p hq => hp p (by simp [hq])
    unfold csLines
    rw [csAccess_big d h va n true (hp (va, n) (by simp))]
    dsimp only
    rw [e]
    exact ⟨_, rfl⟩
theorem save_all (q : Bool) : ∃ y, putAll 0 0 ([blkL].flatMap ((saveD q).saveImages leaveL) ++ (saveD q).lateImages leaveL leaveX [blkL]) (saveD q) = .ok y () ∧ Saved (saveD q) y := by
  refine all_big _ (saveD q) ⟨by cases q <;> rfl, by cases q <;> decide +kernel⟩ ?_
  intro x hx p hp
  rw [List.flatMap_singleton] at hx
  simp only [List.mem_append, Die.saveImages, List.mem_cons, List.mem_filterMap, List.mem_range] at hx
  obtain (rfl | ⟨i, hi, hx⟩) | hx := hx
  · have h := blk_small q p hp
    have e : leaveL.saveAt blkL.l = 0x100000 := by decide
    dsimp only
    rw [e]
    omega
  · have i0 : i = 0 := by
      have : blkL.slots.length = 1 := rfl
      omega
    subst i0
    rw [show blkL.slots = [0] from rfl, List.getElem?_cons_zero, Option.map_some, Option.some.injEq] at hx
    subst hx
    have h := slot_small q p hp
    have e : leaveL.saveAt blkL.l + slotRegion 0 = 0x110000 := by decide
    dsimp only
    rw [e]
    omega
  · exact ctx_small q x hx p hp
theorem save_one (dn : DieId) (l : Launch) (x : Team) (bs : List Blk) (d y : Die) (a : Half) (h : l.asid = a)
    (e : putAll dn a (bs.flatMap (d.saveImages l) ++ d.lateImages l x bs) d = .ok y ()) : saveTeam dn l x bs d = csLines dn a (lateRanges l x bs) y := by
  subst h
  unfold saveTeam
  rw [e]
theorem late_small : ∀ p ∈ lateRanges leaveL leaveX [blkL], p.1 + p.2 ≤ 2 ^ 25 := by decide +kernel
theorem leave_asid : leaveL.asid = 0 := rfl
theorem save_team (q : Bool) : ∃ y u, saveTeam 0 leaveL leaveX [blkL] (saveD q) = .ok y u ∧ Saved (saveD q) y := by
  obtain ⟨y, e, h⟩ := save_all q
  obtain ⟨u, e'⟩ := lines_big (lateRanges leaveL leaveX [blkL]) y h.1 late_small
  exact ⟨y, u, (save_one 0 leaveL leaveX [blkL] (saveD q) y 0 leave_asid e).trans e', h⟩
/-- The team of `leaveS` has lost its slots; the collective engine has still to stop for it. -/
def freedS : State :=
  ((owned rst [{ launchC with blks := [blkO] }]).modDie 0 fun y => { y with coe := { y.coe with tlb := [bigPage] } }).modSched 0 fun q => { q with teams := [{ team0 with leaving := true, freed := some [0] }] }
theorem witness_SlicesAndSwapOuts :
    (sliceOk (sliceS [] []) ∧ ¬ ((sliceS [] []).die 0).rf 0 rQUANT 0 32 ≤ (((sliceS [] []).die 0).tick 0 - team0.since).toNat ∧ ((sliceS [] []).die 0).mustLeave 0 team0 = false)
    ∧ (let s := later (sliceS [] []) 100
       sliceOk s ∧ (s.die 0).rf 0 rQUANT 0 32 ≤ ((s.die 0).tick 0 - team0.since).toNat ∧ (s.die 0).mustLeave 0 team0 = false ∧ (s.die 0).outSliced 0 team0 = false)
    ∧ (let s := later (sliceS [wideL] [(1, 0)]) 100
       sliceOk s ∧ (s.die 0).rf 0 rQUANT 0 32 ≤ ((s.die 0).tick 0 - team0.since).toNat ∧ (s.die 0).outSliced 0 team0 = true ∧ vget (s.slot 0 0).stop 0 = false ∧ (s.slot 0 0).owes = false)
    ∧ (((sliceS [] []).modDie 0 fun y => y.setReg rASHAPE 0).die 0).mustLeave 0 team0 = true
    ∧ (let s := earlyS
       (s.die 0).sched.team 0 0 = some team0 ∧ team0.t < 2 ^ 32 ∧ ((s.die 0).sched.launch 0).isSome = true ∧ (s.die 0).schedOn 0 = true ∧ team0.leaving = false ∧ (s.die 0).resident team0 = true ∧ (s.die 0).teamEarly team0 = true ∧ (s.die 0).makesWay 0 team0 = true)
    ∧ (bitAt ((fullS.die 0).getReg 0 rC0RES) 63 = true ∧ (fullS.die 0).schedOn 0 = true
      ∧ (((fullS.die 0).waiting 0).find? fun c => c.1.cls == 0 && !c.1.early) = some (⟨1, 0, 0, 1, false, false, [0]⟩, []) ∧ (fullS.die 0).sched.launch 1 = some zeroL ∧ (fullS.die 0).sched.team 1 0 = none
      ∧ zeroL.shape.val < 4 ∧ zeroL.zw = 0 ∧ (∀ x ∈ zeroL.blks, x.ctxs = []) ∧ placement zeroL.shape 0 = some [0] ∧ (∀ k ∈ [(0 : SlotId)], bitAt ((fullS.die 0).getReg 0 rC0RES) k.val = true ∧ (fullS.die 0).bandOk 0 (bandOf k) = true)
      ∧ ∀ x ∈ (fullS.die 0).sched.teams, ((fullS.die 0).sched.launch x.lid).any (fun l => l.cls != 0) = true)
    ∧ (let s := leaveS [] false
       (s.die 0).sched.team 0 0 = some { team0 with leaving := true } ∧ (s.die 0).sched.launch 0 = some leaveL ∧ (s.die 0).schedOn 0 = true ∧ team0.freed = none ∧ ∃ k ∈ leaveL.teamSlots 0, ∃ i : Fin 7, i.val < 6 ∧ vget (s.slot 0 k).acked i = false)
    ∧ (let x : Team := { team0 with leaving := true, freed := some [0] }
       let l : Launch := { launchC with blks := [blkO] }
       (freedS.die 0).sched.team 0 0 = some x ∧ (freedS.die 0).sched.launch 0 = some l ∧ (freedS.die 0).schedOn 0 = true ∧ x.freed ≠ none ∧ ((l.teamBlks 0).filter fun b => b.st == .swapped) = [blkO] ∧ (freedS.die 0).collStopped 0 l [blkO] = true
        ∧ ((freedS.modDie 0 fun y => { y with coe := { y.coe with ag := { AgentSt.empty with pend := [sent0] } } }).die 0).collQuiet 0 = false)
    ∧ (∀ q, let s := leaveS [bigPage] true q
       (s.die 0).sched.team 0 0 = some leaveX ∧ (s.die 0).sched.launch 0 = some leaveL ∧ (s.die 0).schedOn 0 = true
        ∧ (∀ k ∈ leaveL.teamSlots 0, (∀ i : Fin 7, i.val < 6 → vget (s.slot 0 k).acked i = true) ∧ (s.slot 0 k).heldBy 7 = false)
        ∧ ((leaveL.teamBlks 0).filter fun b => !b.slots.isEmpty) = [blkL] ∧ (s.die 0).collQuiet 0 = !q ∧ (∀ i, vget (s.die 0).coe.ctx i = none) ∧ (s.die 0).coe.run = none)
    ∧ (∀ q, ∃ y u, saveTeam 0 leaveL leaveX [blkL] (saveD q) = .ok y u ∧ Saved (saveD q) y)
    ∧ (match saveTeam 0 leaveL leaveX [blkL] ((leaveS [] true).die 0) with | .fault y _ a => !(y.slot 0).heldBy 7 && leaveL.areaBlk [blkL] a == some blkL | _ => false) = true := by
  refine ⟨⟨⟨team0, ?_⟩, ?_⟩, ⟨⟨team0, ?_⟩, ?_⟩, ⟨⟨team0, ?_⟩, ?_⟩, ?_, ?_, ?_, ?_, ?_, ?_, save_team, ?_⟩ <;> decide +kernel

def stopS (k : Fin 7) (f : Slot → Slot := id) : State := rst.modSlot 0 0 fun t => f { t with stop := vset t.stop k true }
def rec9 (rpl : Bool) : FaultRec := ⟨0, if rpl then 19 else 1, 1, 0, rpl, 5, 0, 0, 0, 0, 0, 0, 0, 0⟩
def pf (rpl : Bool) (idx : Option Byte) : PFault := ⟨rec9 rpl, idx, none⟩
def haltS (h : Nat) (fl : Option PFault) (ack : Bool) (tlb : List TlbEntry := [bigPage]) : State :=
  ((owned rst [{ launchC with blks := [{ blkL with halted := h }] }]).modDie 0 fun y => { y with coe := { y.coe with tlb := tlb } }).modSlot 0 0 fun t => { t with flt := vset t.flt 1 fl, acked := .replicate 7 ack }
def haltB (h : Nat) : Blk := { blkL with halted := h }
theorem witness_StopsAreAcknowledged :
    (∀ i : Fin 7, vget ((stopS i).slot 0 0).stop i = true ∧ vget ((stopS i).slot 0 0).acked i = false)
    ∧ (∀ e ∈ [SlotEng.lde, .are, .ste], (stopS 1).run ⟨0, .eng 0 e, 8⟩ = none ∧ (stopS 1).rowStop 0 0 e = true)
    ∧ (let r := { ldr0 true with unit := 64 }
       let s := runS .lde r fun t => { t with stop := vset t.stop 1 true }
       s.run ⟨0, .eng 0 .lde, 8⟩ = some r ∧ r.part ≠ unchecked ∧ (s.slot 0 0).heldBy 1 = false ∧ s.rowWaits ⟨0, .eng 0 .lde, 8⟩ r = false ∧ (s.die 0).queueWaits 0 0 r = false)
    ∧ (let r := { ldr0 true with code := [(2, .ldr { ldo with f1 := opRQ })] }
       let x : Asm := ⟨3, 8, [(0, zeros 8)], false, []⟩
       let s := runS .lde r fun t => { t with stop := vset t.stop 1 true, rq := vset t.rq 0 (.replicate 16 (0, false)), agLde := { t.agLde with asm := [x] } }
       s.rowStop 0 0 .lde = true ∧ (s.slot 0 0).lde = some r ∧ (s.slot 0 0).agLde.asm = x :: [])
    ∧ (vget (rst.slot 0 0).stop 1 = false)
    ∧ ((stopS 0).slot 0 0).agCtl.rd = [] ∧ ((stopS 0).slot 0 0).agCtl.pend = [] ∧ ((stopS 0).die 0).held = [] ∧ ((stopS 0).slot 0 0).agCtl.sb = []
    ∧ (let s := (chS (.replicate 64 ⟨0, [], false⟩)).modSlot 0 0 fun t => { t with stop := vset t.stop 4 true }
       (s.die 0).fragSlots ((s.die 0).baseOf 0) = [0] ∧ (s.die 0).baseOf 0 = 0 ∧ vget (s.slot 0 0).stop 4 = true ∧ vget (s.slot 0 0).acked 4 = false ∧ (s.slot 0 0).mxe = some (mx0 (.mdrain chO))
        ∧ (s.die 0).still 0 (.eng 0 .mxe) false = true ∧ (s.die 0).chainStalls 0 (mx0 (.mdrain chO)) = true)
    ∧ (let s := (owned (stopS 6) [launch0]).modDie 0 fun y => { y with coe := { y.coe with ctx := vset y.coe.ctx 0 (some (kctx none)) } }
       s.ctx 0 0 = some (kctx none) ∧ (∀ x, s.ctx 0 x = none ∨ s.ctx 0 x = some (kctx none)) ∧ (s.die 0).coe.run = none ∧ (s.die 0).collQuiet 0 = true ∧ (s.die 0).ctxBound (kctx none) = true ∧ ∀ j : SlotId, j ≠ 0 → vget (s.slot 0 j).stop 6 = false)
    ∧ (∀ h ∈ [0, 1], ((haltS h none false).die 0).sched.launch 0 = some { launchC with blks := [haltB h] } ∧ ({ launchC with blks := [haltB h] } : Launch).blk 0 = some (haltB h) ∧ (haltB h).slots = [0]
      ∧ bitAt (((haltS h none false).die 0).getReg 0 rFLTQ) 63 = false ∧ ((haltS h none false).slot 0 0).newStop false = false ∧ ∀ r, ((haltS h (some (pf r none)) false).slot 0 0).newStop false = true ∧ vget ((haltS h (some (pf r none)) false).slot 0 0).flt 1 = some (pf r none))
    ∧ ((haltS 1 (some (pf false none)) false).slot 0 0).stoppedAll = false
    ∧ (let s := haltS 1 (some (pf false none)) true
       (s.slot 0 0).stoppedAll = true ∧ (s.slot 0 0).heldBy 7 = false
        ∧ isOk (putImage 0 0 (({ launchC with blks := [haltB 1] } : Launch).saveAt 0) (trapImage (s.die 0) (haltB 1)) (s.die 0)) = true)
    ∧ (let s := haltS 1 (some (pf false none)) true []
       (s.slot 0 0).stoppedAll = true ∧ (s.slot 0 0).heldBy 7 = false
        ∧ (match putImage 0 0 (({ launchC with blks := [haltB 1] } : Launch).saveAt 0) (trapImage (s.die 0) (haltB 1)) (s.die 0) with | .fault y _ _ => !(y.slot 0).heldBy 7 | _ => false) = true) :=
  by decide +kernel

def fltS (f : Option PFault) (q : Word) (ring : Sparse RingOwner := []) : State :=
  ((haltS 0 f false).modDie 0 fun y => { y.setReg rFLTQ q with ring := ring })
def ro : RingOwner := ⟨0, 0, 0, 1⟩
def callS (sb : List SbOp) (q : Word) (ps : List Call := []) (f : Slot → Slot := id) : State :=
  ((owned rst [launch0]).modDie 0 fun y => { y.setReg rSYSCQ q with calls := ps }).modSlot 0 0 fun t => f { t with agCtl := { t.agCtl with sb := sb } }
def call0 : Call := ⟨0, own0, 0, 3⟩
def qOn : Word := BitVec.ofNat 64 (2 ^ 63 + 0x40000)
theorem fltS_ok : MemInv (fltS (some (pf true none)) qOn) ∧ MemInv (callS [.sysc 7 3 (.replicate 6 0)] qOn) := by constructor <;> (unfold MemInv; decide +kernel)
theorem witness_FaultsCallsAndResponses :
    (bitAt (((fltS none 0).die 0).getReg 0 rFLTQ) 63 = false)
    ∧ (let s := fltS (some (pf true none)) qOn
       MemInv s ∧ bitAt ((s.die 0).getReg 0 rFLTQ) 63 = true ∧ (s.die 0).fltFree (BitVec.ofNat 8 ((s.die 0).rf 0 rFLTPTR 0 8)) = true ∧ (s.die 0).postable = [⟨.slot 0 1, rec9 true, ro, true⟩])
    ∧ (∀ e ∈ (rst.die 0).ring, e.1 ≠ 0)
    ∧ (let s := fltS (some (pf true (some 4))) qOn [(4, ro)]
       (s.die 0).ring.find? (fun e => e.1 == 4) = some (4, ro) ∧ ((s.die 0).sched.launch 0).map (fun l => (l.st, (l.blk 0).map (·.slots))) = some (.active, some [0]) ∧ vget (s.slot 0 0).flt (agNum ro.agent) = some (pf true (some 4))
        ∧ (pf true (some 4)).r.rpl = true ∧ (pf true (some 4)).r.code ≠ 18 ∧ (s.ag 0 ((s.die 0).agentOf 0 ro.agent)).refused = [] ∧ (s.ctl 0 0).act ≠ .faulted ∧ (blkL.halted = 0 ∧ launchC.st ≠ .failed)
        ∧ ((s.die 0).sched.team 0 0).isSome = true ∧ (s.die 0).schedOn 0 = true)
    ∧ (let s := (fltS (some (pf true (some 4))) qOn [(4, ro)]).modSched 0 fun q => { q with launches := [{ launchC with st := .failed }] }
       (s.die 0).ring.find? (fun e => e.1 == 4) = some (4, ro) ∧ (s.die 0).sched.launch 0 = some { launchC with st := .failed } ∧ (launchC.blk 0).isSome = true)
    ∧ (let s := callS [.sysc 7 3 (.replicate 6 0)] qOn
       MemInv s ∧ (s.slot 0 0).agCtl.sb = [.sysc 7 3 (.replicate 6 0)] ∧ (s.ctl 0 0).own = some own0 ∧ (s.die 0).ownLaunch 0 = some launch0 ∧ relMet (s.die 0) 0 2 (.replicate 6 0) [] = true ∧ (s.die 0).paired 0 = none ∧ s.muted 0 = false
        ∧ bitAt ((s.die 0).getReg 0 rSYSCQ) 63 = true ∧ (s.die 0).callFree (BitVec.ofNat 8 ((s.die 0).rf 0 rSYSCPTR 0 8)) = true)
    ∧ (relMet ((callS [.sysc 7 3 (.replicate 6 1)] qOn).die 0) 0 2 (.replicate 6 1) [] = false ∧ bitAt (((callS [] 0).die 0).getReg 0 rSYSCQ) 63 = false)
    ∧ (let s := callS [] qOn [call0]
       (s.die 0).calls.find? (fun c => c.idx == 0) = some call0 ∧ (s.die 0).sched.launch 0 = some launch0 ∧ launch0.blk 0 = some blkL ∧ blkL.slots[0]? = some 0 ∧ (s.die 0).sysQuiet = true)
    ∧ (∀ c ∈ (rst.die 0).calls, c.idx ≠ 0) :=
  ⟨by decide +kernel, ⟨fltS_ok.1, by decide +kernel⟩, by decide +kernel, by decide +kernel, by decide +kernel, ⟨fltS_ok.2, by decide +kernel⟩, by decide +kernel, by decide +kernel, by decide +kernel⟩


theorem reset_inv : StoreInv rst := by
  constructor <;> first | (unfold MemInv; decide +kernel) | decide +kernel

/-- Band 0 of d0 with the values of a window, its strings at loads `wl` and `wr`. -/
def bandS (b : Band) (wl wr : Nat) : State :=
  ((rst.modDie 0 fun y => { y with bands := vset y.bands 0 b }).modSlot 0 0 fun t => { t with w := wl }).modSlot 0 1 fun t => { t with w := wr }
/-- d0 with `ASHAPE` at a value. -/
def shapeS (v : Word) (s : State := rst) : State := s.modDie 0 fun y => y.setReg rASHAPE v
theorem witness_StringsAndBands :
    ((shapeS 0).die 0).bandOn 0 0 = false ∧ (vget ((bandS { Band.reset with cyc := 64 } 0 0).die 0).bands 0).cyc = 64
    ∧ (∀ p ∈ [(10, 5), (40, 0), (40, 10)], let y := (bandS Band.reset p.1 p.2).die 0; y.bandOn 0 0 = true ∧ (vget y.bands 0).cyc ≠ 64 ∧ (vget y.bands 0).phase % (vget y.bands 0).div = 0 ∧ (y.slot 0).w = p.1 ∧ (y.slot 1).w = p.2)
    ∧ (((10 : Int) - 5).natAbs ≤ 20 ∧ 20 < ((40 : Int) - 0).natAbs ∧ 20 < ((40 : Int) - 10).natAbs ∧ Band.reset.div = 1)
    ∧ (let y := (rst.modDie 0 fun y => y.setReg rC0RES (BitVec.ofNat 64 (2 ^ 63 + 1))).die 0
       bitAt (y.getReg 0 rC0RES) 63 = true ∧ bitAt (y.getReg 0 rC0RES) 0 = true)
    ∧ (let y := (owned rst [launch0]).die 0
       bitAt (y.getReg 0 rC0RES) 63 = false ∧ y.rf 0 rASHAPE 0 1 ≠ 0 ∧ y.schedOn 0 = true ∧ (y.sched.team 0 0).isSome = true ∧ y.sched.launch 0 = some launch0 ∧ (∀ z ∈ launch0.teamBlks 0, z.res = []) ∧ ∃ k ∈ launch0.teamSlots 0, bandOf k = 0)
    ∧ (let y := (shapeS 0xF00).die 0
       y.rf 0 rASHAPE 0 1 = 0 ∧ y.bandOn 0 0 = true ∧ ∀ k : SlotId, k = 0 ∨ k = 1 → (y.layOf k).v = false ∧ (y.slot k).ctl.own = none)
    ∧ (let y := (freedS.modDie 0 fun y => y.setReg rASHAPE 0xF00).die 0
       y.rf 0 rASHAPE 0 1 = 0 ∧ ∃ x ∈ y.sched.teams, ∃ ks, x.freed = some ks ∧ 0 ∈ ks)
    ∧ (((shapeS 1).die 0).rf 0 rASHAPE 0 1 = 1 ∧ ((shapeS 1).die 0).bandOn 0 0 = false) :=
  by decide +kernel

theorem witness_LevelsFollowTheirWindows :
    ((shapeS 0).die 0).bandOn 0 0 = false ∧ (rst.die 0).bandOn 0 0 = true
    ∧ (Config.dramRow 0 ≠ [] → ∀ l ∈ Config.dramRow 0, setHas (((rst.modDie 0 fun y => { y with free := Config.dramRow 0 }).die 0).free) l = true)
    ∧ ¬ (Config.dramRow 0 ≠ [] ∧ ∀ l ∈ Config.dramRow 0, setHas (rst.die 0).free l = true)
    ∧ setHas ((rst.modDie 0 fun y => { y with free := [1] }).die 0).free 1 = true
    ∧ ((rst.die 0).rf 0 rMEMCTL 1 1 ≠ 0 ∧ setHas (rst.die 0).free 1 = false ∧ isMem (128 * 1) 128 = true)
    ∧ ((rst.die 0).grantAge < 10000 ∧ 10000 ≤ ((rst.modDie 0 fun y => { y with grantAge := 10000 }).die 0).grantAge)
    ∧ (let s := rst.modDie 0 fun y => { y.setReg rMARG 0x04011000 with bands := vset y.bands 0 { Band.reset with mw := 2 ^ 20 } }
       (s.die 0).bandOn 0 0 = true ∧ (s.die 0).rf 0 rMARG 16 1 = 1 ∧ (s.die 0).rf 0 rMARG 18 1 = 0 ∧ 2 ^ 20 ≤ (vget (s.die 0).bands 0).mw) := by
  refine ⟨by decide +kernel, by decide +kernel, ?_, ?_, by decide +kernel⟩
  · intro _ l hl
    exact List.any_eq_true.2 ⟨l, hl, beq_self_eq_true l⟩
  · rintro ⟨h, g⟩
    obtain ⟨l, r, e⟩ := List.exists_cons_of_ne_nil h
    have e' := g l (by rw [e]; exact List.mem_cons_self ..)
    exact Bool.noConfusion (e'.symm.trans rfl)

theorem witness_RegisterWrites :
    (∀ off ∈ [rLEASERUN, rASIDBASE, rEXPBASE, rIMPBASE, rGRPBASE, rNFTCFG, rKBTO, rPROCBASE, rQUANT, rC0RES, rPGRAN, rVPOOL0, rVPOOL1, rXRING, rXPTR, rSYSCQ, rFLTQ, rPINTO, rPINST, rMEUEA, rMEMCTL, rSJBASE, rSCHERR],
      (regDesc 0 off).isSome = true)
    ∧ StoreInv rst ∧ (∀ l ∈ (owned rst [launch0]).dies[0].sched.launches, ∀ b ∈ l.blks, b.earl = false) ∧ bitAt (0x1000 : Word) 63 = false ∧ (bitAt (BitVec.ofNat 64 (2 ^ 63 + 5)) 63 = true ∧ fld (BitVec.ofNat 64 (2 ^ 63 + 5)) 8 2 = 0) :=
  ⟨by decide +kernel, reset_inv, by decide +kernel⟩

def brkS (a tick : Nat) : State := later (rst.modDie 0 fun y => (y.setReg rBRKC (BitVec.ofNat 64 (2 ^ 63 + 2 ^ 62 + a * 2 ^ 60))).setReg rBRKV 100) tick
def sheetS (n : Nat) : State := rst.modDie 0 fun y => { y with sheet := some (0x10000, List.replicate n 0) }
theorem witness_TimeAndBreakpoints :
    ((∀ e : DieId, (rst.die e).windowDue e = false) ∧ (∀ (e : DieId) (n : Fin 4), bitAt ((rst.die e).getReg e (rBRKC + 16 * n.val)) 63 = false) ∧ ∃ e, ((rst.modDie 0 fun y => { y with grantAge := 10000 }).die e).windowDue e = true)
    ∧ (∀ e : DieId, bitAt ((rst.die e).getReg e rPROCBASE) 0 = false) ∧ (1 : DieId) ≠ 0 ∧ StoreInv rst ∧ MemInv rst
    ∧ bitAt (((rst.modDie 1 fun y => y.setReg rPROCBASE 1).die 1).getReg 1 rPROCBASE) 0 = true
    ∧ (bitAt ((rst.die 0).getReg 0 rTRCBASE) 63 = false ∧ bitAt ((rst.die 0).getReg 0 rRESYNC) 62 = false ∧ bitAt (BitVec.ofNat 64 (2 ^ 63)) 63 = true ∧ (rst.die 0).sheet = none)
    ∧ (∀ p ∈ [((0 : Nat), 2 ^ 63), (4090, 2 ^ 63), (4090, 2 ^ 63 + 2 ^ 47)], let s := rst.modDie 0 fun y => y.setReg rTRCPTR (BitVec.ofNat 64 p.1)
       bitAt (BitVec.ofNat 64 p.2) 63 = true ∧ bitAt ((s.die 0).getReg 0 rTRCBASE) 63 = false ∧ decide (4096 ≤ (s.die 0).rf 0 rTRCPTR 0 32 % 4096 + 9) = (p.1 == 4090)
        ∧ isDieMem ((BitVec.ofNat 64 p.2 &&& bits 47 12).toNat + 4095) = (p.2 == 2 ^ 63))
    ∧ bitAt (((rst.modDie 0 fun y => y.setReg rTRCBASE (BitVec.ofNat 64 (2 ^ 63))).die 0).getReg 0 rTRCBASE) 63 = true
    ∧ (∀ a : Fin 3, let s := brkS a 100
       let c := (s.die 0).getReg 0 rBRKC
       bitAt c 63 = true ∧ bitAt c 62 = true ∧ fld c 60 2 = a.val ∧ fld c 60 2 ≠ 3 ∧ ((s.die 0).getReg 0 rBRKV).toNat ≤ ((s.die 0).tick 0).toNat)
    ∧ ¬ (((brkS 1 99).die 0).getReg 0 rBRKV).toNat ≤ (((brkS 1 99).die 0).tick 0).toNat
    ∧ bitAt (((rst.modDie 0 fun y => y.setReg rRESYNC (BitVec.ofNat 64 (2 ^ 62))).die 0).getReg 0 rRESYNC) 62 = true
    ∧ (((sheetS 4096).die 0).sheet = some (0x10000, List.replicate 4096 0) ∧ (List.replicate 4096 (0 : Byte)).length = 4096 ∧ isDieMem (0x10000 + 4095) = true) :=
  ⟨by decide +kernel, by decide +kernel, by decide +kernel, reset_inv, reset_inv.mem, by decide +kernel, by decide +kernel, by decide +kernel, by decide +kernel, by decide +kernel, by decide +kernel, by decide +kernel, rfl, List.length_replicate, by decide +kernel⟩

/-- d0 and d1 lost to each other, d1 asking to rejoin or not. -/
def lostS (w : BitVec 4) (up : Bool) : State :=
  let s := (rst.modDie 0 fun y => y.setReg rPEERST 2).modDie 1 fun y => { y.setReg rPEERST 1 with gate := { y.gate with want := w } }
  { s with trained := .replicate 4 up }
def pinH : Held := ⟨.core 0, 0, .write [⟨pc 0x10008 8, eight⟩] false 0 0, 0, 0, none⟩
def pinS (lim tick : Nat) (st : Word) : State :=
  later (rst.modDie 0 fun y =>
    { (y.setReg rPINTO (BitVec.ofNat 64 lim)).setReg rPINST st with held := [pinH], slots := (y.modSlot 0 fun t => { t with ports := vset t.ports 0 { Port.empty with rows := [⟨⟨[], [], false⟩, [512], none, .are, 0, []⟩] } }).slots }) tick
theorem witness_LostDiesAndRejoins :
    (∀ p ∈ [((0 : DieId), true, (⟨0, 1, .linkLost⟩ : Hop)), (1, true, ⟨0, 2, .linkLost⟩), (3, false, ⟨0, 3, .linkLost⟩)],
      let s : State := if p.2.1 then { rst with east := vset rst.east p.1 [p.2.2] } else { rst with west := vset rst.west p.1 [p.2.2] }
      let n := if p.2.1 then mkDie (p.1.val + 1) else p.1
      (if p.2.1 then vget s.east p.1 else vget s.west p.1) = [p.2.2] ∧ p.2.2.dst = n ∧ p.2.2.src ≠ n ∧ (s.die n).gated = false ∧ (s.die n).inReset = false ∧ (s.die n).isLost n p.2.2.src = false)
    ∧ (∀ e, (rst.die e).gated = false)
    ∧ (∀ w ∈ [(0 : BitVec 4), 1], ∀ up, let s := lostS w up
       s.pathTrained 0 1 = up ∧ (1 : DieId) ≠ 0 ∧ (∀ e : DieId, (2 : BitVec 4).getLsbD e.val = decide (e = 1)) ∧ (s.die 0).isLost 0 1 = true ∧ (s.die 0).gate.want.getLsbD 1 = false ∧ (s.die 1).gate.want.getLsbD 0 = (w == 1))
    ∧ (let s : State := { rst with east := vset rst.east 0 [⟨0, 1, .rejoin 5⟩] }
       vget s.east (mkDie ((1 : DieId).val + 3)) = ⟨0, 1, .rejoin 5⟩ :: [])
    ∧ (let s : State := { rst with west := vset rst.west 1 [⟨2, 1, .rejoin 5⟩] }
       vget s.west 1 = ⟨2, 1, .rejoin 5⟩ :: [] ∧ vget s.east (mkDie ((1 : DieId).val + 3)) = [])
    ∧ (∀ p ∈ [(0, 100, (0 : Word)), (50, 50, 0), (50, 51, BitVec.ofNat 64 (2 ^ 63)), (50, 51, 0)], let s := pinS p.1 p.2.1 p.2.2
       (s.die 0).held[0]? = some pinH ∧ pinH.op = .write [⟨pc 0x10008 8, eight⟩] false 0 0 ∧ (pc 0x10008 8).loc = .here 0x10008 ∧ eight.length ≠ 0
        ∧ 128 * (0x10008 / 128) + 128 = 128 * ((0x10008 + eight.length - 1) / 128) + 128 ∧ (s.die 0).pinned (128 * (0x10008 / 128)) 1 = true
        ∧ (s.die 0).rf 0 rPINTO 0 40 = p.1 ∧ ((s.die 0).tick 0 - pinH.since).toNat = p.2.1 ∧ bitAt ((s.die 0).getReg 0 rPINST) 63 = (p.2.2 != 0) ∧ 128 * (0x10008 / 128) < vault1) :=
  by decide +kernel

/-- The scheduler core of d0 has failed; that of d1 has failed or not; d1 and d2 live or not, and have heard of the failure before them or not. -/
def failS (f1 l1 l2 : Bool) (h : BitVec 4) : State :=
  ((rst.modDie 0 fun y => y.setReg rSCHST (BitVec.ofNat 64 (2 ^ 63))).modDie 1 fun y => { (if f1 then y.setReg rSCHST (BitVec.ofNat 64 (2 ^ 63)) else y) with inReset := !l1, heard := h }).modDie 2
    fun y => { y with inReset := !l2, heard := h }
def failsB (s : State) (c : DieId) : Bool := bitAt ((s.die c).getReg c rSCHST) 63
def livesB (s : State) (c : DieId) : Bool := !failsB s c && !(s.die c).inReset && !(s.die c).gated && !(s.die 0).isLost 0 c
def pairX (prim : Bool) : PairSt := ⟨prim, .core 0, (0, 0, 0), 8, 0x10000, eight, 0⟩
def pairS (prim : Bool) (tick : Nat) : State := later (rst.modDie 0 fun y => { y with pair := [pairX prim] }) tick
theorem witness_FailuresAreTakenOver :
    (let s := rst.modDie 0 fun y => y.setReg rNFTCFG 7
     (s.die 0).portOf 0 0 1 = some 1 ∧ (s.die 0).enabledFrom 0 2 = some 2)
    ∧ ((rst.modDie 0 fun y => y.setReg rNFTCFG 0).die 0).portOf 0 0 1 = none
    ∧ ((rst.die 0).coe.unreach.contains ((0 : BitVec 12), (1 : DieId)) = false ∧ (rst.die 0).coe.streams = [])
    ∧ (let s := later (rst.modDie 0 fun y => { y with coe := { y.coe with streams := [((0, 1), 0)] } }) (2 ^ 26)
       (s.die 0).coe.unreach.contains ((0 : BitVec 12), (1 : DieId)) = false ∧ ∃ x ∈ (s.die 0).coe.streams, x.1 = ((0 : BitVec 12), (1 : DieId)) ∧ 2 ^ 26 ≤ ((s.die 0).tick 0 - x.2).toNat)
    ∧ ((rst.modDie 0 fun y => { y with coe := { y.coe with unreach := [(0, 1)] } }).die 0).coe.unreach.contains ((0 : BitVec 12), (1 : DieId)) = true
    ∧ (bitAt ((rst.die 0).getReg 0 rSCHST) 63 = false ∧ bitAt ((rst.die 0).getReg 0 rSCHST) 62 = false)
    ∧ bitAt (((rst.modDie 0 fun y => y.setReg rSCHST (BitVec.ofNat 64 (2 ^ 56))).die 0).getReg 0 rSCHST) 56 = true
    ∧ (∀ x ∈ [(false, true, true, (1 : BitVec 4)), (true, true, true, 3), (false, true, true, 2), (false, false, true, 3), (true, true, false, 3), (true, true, true, 1)], let s := failS x.1 x.2.1 x.2.2.1 x.2.2.2
       bitAt ((s.die 0).getReg 0 rSCHST) 63 = true ∧ bitAt ((s.die 0).getReg 0 rSCHST) 62 = false ∧ bitAt ((s.die 0).getReg 0 rSJBASE) 63 = false ∧ (s.die 0).sched.cbuf = [] ∧ (s.die 0).sched.launches = [] ∧ failsB s 1 = x.1 ∧ livesB s 1 = (x.2.1 && !x.1) ∧ livesB s 2 = x.2.2.1
        ∧ (s.die 1).heard.getLsbD 0 = x.2.2.2.getLsbD 0 ∧ (s.die 2).heard.getLsbD 1 = x.2.2.2.getLsbD 1)
    ∧ bitAt (((rst.modDie 0 fun y => y.setReg rSCHST (BitVec.ofNat 64 (2 ^ 63 + 2 ^ 62))).die 0).getReg 0 rSCHST) 62 = true
    ∧ (∀ x ∈ ((pairS true 1048575).die 0).pair, (((pairS true 1048575).die 0).tick 0 - x.tick).toNat < 2 ^ 20)
    ∧ (∀ p : Bool, ((pairS p 1048576).die 0).pair.find? (fun x => decide (2 ^ 20 ≤ (((pairS p 1048576).die 0).tick 0 - x.tick).toNat)) = some (pairX p)
      ∧ bitAt (((pairS p 1048576).die 0).getReg 0 rPAIRCTL) 62 = false) :=
  by decide +kernel

def bootS (st n : Nat) (r : Bool := false) : State := rst.modDie 0 fun y => { y.setReg rBOOTST (BitVec.ofNat 64 (st + 256 * n)) with inReset := r }
def tapS (f : Tap → Tap) (g : Bool := false) : State := rst.modDie 0 fun y => { y with tap := f y.tap, gated := g }
def img0 : BootImg := ⟨[(0x10000, 5), (0x10001, 6)], 0x10000, []⟩
theorem witness_BootAndTestPort :
    (∀ r : Bool, ((bootS 0 0 r).die 0).inReset = r)
    ∧ (∀ st : Fin 8, ∀ n ∈ [0, 3, 4], ((bootS st n).die 0).rf 0 rBOOTST 0 3 = st ∧ ((bootS st n).die 0).rf 0 rBOOTST 8 8 = n ∧ ((bootS st n).die 0).inReset = false)
    ∧ (let s := (bootS 4 1).modDie 0 fun y => { y with boot := some img0 }
       (s.die 0).inReset = false ∧ (s.die 0).rf 0 rBOOTST 0 3 = 4 ∧ (s.die 0).boot = some img0 ∧ (Config.imageGood 0 img0 = true ∨ Config.imageGood 0 img0 = false) ∧ MemInv s ∧ (∀ b ∈ img0.bytes, ∀ c ∈ img0.bytes, b.1 = c.1 → b = c))
    ∧ (let s := (bootS 4 1).modDie 0 fun y => { y with bootAge := 10 ^ 9 }
       (s.die 0).inReset = false ∧ (s.die 0).rf 0 rBOOTST 0 3 = 4 ∧ (s.die 0).boot = none ∧ 10 ^ 9 ≤ (s.die 0).bootAge)
    ∧ (∀ g : Bool, ((tapS (fun t => { t with chain := 10 }) g).die 0).gated = g ∧ ((tapS (fun t => { t with chain := 10 }) g).die 0).tap.chain = 10)
    ∧ (let s : State := { tapS (fun t => { t with chain := 10 }) true with shot := vset rst.shot 0 (some (rst.die 0)) }
       (s.die 0).gated = true ∧ vget s.shot 0 = some (rst.die 0) ∧ (s.die 0).tap.chain = 10)
    ∧ bitAt (((tapS id true).die 0).getReg 0 rTRCBASE) 63 = false
    ∧ (∀ m : Bool, ((tapS fun t => { t with mdone := m }).die 0).tap.mdone = m)
    ∧ ((BitVec.ofNat 82 (2 ^ 80)).getLsbD 80 = true ∧ (BitVec.ofNat 82 (2 ^ 64 * rQUANT)).getLsbD 80 = false
      ∧ (rst.die 0).regVal 0 ((BitVec.ofNat 82 (2 ^ 64 * rQUANT)).extractLsb' 64 16).toNat = some 250000 ∧ (rst.die 0).sysQuiet = true) :=
  ⟨by decide +kernel, by decide +kernel, ⟨by decide +kernel, by decide +kernel, by decide +kernel, by cases Config.imageGood 0 img0 <;> simp, by unfold MemInv; decide +kernel, by decide +kernel⟩, by decide +kernel⟩

def gotCtl (x : XRes (Half × Half)) (f : Half × Half → Bool) : Bool := okWith x fun _ p => f p
/-- Slot 0 of d0 with a code page and a word at 0x10000, next in the agenda. -/
def wordS (w : W32) (o : Option Open) : State :=
  { poked (rst.modSlot 0 0 fun t => { t with tlb := [codePage 0x10000], ctl := { t.ctl with act := .running, pc := 0x10000, opn := o } }) 0x10000 (natLe 4 w.toNat) with agenda := [.core 0 0] }
def wordOf (s : State) (va : Nat) : XRes (Half × Half) := ctlWord 0 (s.die 0) ((s.die 0).who (.core 0) 0) va
theorem witness_StepRunsTheDecodedWord :
    (let s := wordS 0x004013F3#32 none
     s.agenda = .core 0 0 :: [] ∧ coreRuns s 0 0 = true ∧ (s.ctl 0 0).opn = none ∧ (s.ctl 0 0).pc.toNat % 2 = 0 ∧ dueFault s 0 0 = none ∧ breakHit s 0 0 = none
      ∧ gotCtl (wordOf s (s.ctl 0 0).pc.toNat) (fun p => decide (p.2 ++ p.1 = 0x004013F3#32)) = true)
    ∧ (match decodeHeader true 0x004013F3#32 with | .ok _ => true | .error _ => false) = true
    ∧ (let o := { blk0 with first := 0, pos := 0 }
       let s := wordS 0x207FF833#32 (some o)
       s.agenda = .core 0 0 :: [] ∧ coreRuns s 0 0 = true ∧ (s.ctl 0 0).opn = some o ∧ o.phase = .body ∧ o.badBy o.pos = false
        ∧ gotCtl (wordOf s o.here.toNat) (fun p => bodyInstr p == some (.addi ⟨4, false, 3, 0x7FE, 0⟩)) = true)
    ∧ (let o := { blk0 with hdr := 0xFFF8, phase := .exits 0 }
       let s := wordS 0xFFF007E3#32 (some o)
       s.agenda = .core 0 0 :: [] ∧ coreRuns s 0 0 = true ∧ (s.ctl 0 0).opn = some o ∧ o.badBy (2 + o.len + 2 * 0) = false
        ∧ gotCtl (wordOf s (o.at_ (2 + o.len + 2 * 0)).toNat) (fun p => decide (p.2 ++ p.1 = 0xFFF007E3#32)) = true)
    ∧ (let r := run0 .nop true
       let s : State := { runS .lde r with agenda := [.eng 0 (.eng 0 .lde)] }
       s.agenda = .eng 0 (.eng 0 .lde) :: [] ∧ (s.die 0).curRun ⟨0, .eng 0 .lde, 8⟩ = some r ∧ (s.die 0).alive = true ∧ (s.die 0).entryGoes ⟨0, .eng 0 .lde, 8⟩ r = true ∧ r.code[r.pos]? = some (2, .nop))
    ∧ (let r := kr (.krel cop) ent0
       let s : State := { kS (kctx (some r)) with agenda := [.ctx 0 0] }
       s.agenda = .ctx 0 0 :: [] ∧ (s.die 0).curRun ⟨0, .coll, 0⟩ = some r ∧ (s.die 0).alive = true ∧ (s.die 0).entryGoes ⟨0, .coll, 0⟩ r = true ∧ r.code[r.pos]? = some (2, .krel cop))
    ∧ (let s : State := { rst with agenda := [.event .referenceTick] }
       s.agenda = .event .referenceTick :: [] ∧ isWord .referenceTick = false ∧ unclocked .referenceTick = true ∧ isWord (.kickPass 0) = false ∧ (s.die (eventDie (.kickPass 0))).alive = true ∧ driverEvent (.kickPass 0) = false
        ∧ driverEvent (.kickset 0 1) = true ∧ ((bootS 5 0).die (eventDie (.kickset 0 1))).stage 0 5 = true)
    ∧ rst.agenda = [] :=
  by decide +kernel

theorem witness_DecodedWordsEncodeBack :
    readAt (.body .ctl) [0x0002] = .ok (.nop, []) ∧ readAt (.body .lde) [0x00F1, 0x8813, 0x2000] = .ok (.ldr ⟨[⟨0, 15, 0⟩], none, 4, false, 0, false, 1, 2, 0⟩, []) := ⟨rfl, rfl⟩

def nextB (x : Host.Outcome State Fault Refusal) : Bool := match x with | .next _ => true | _ => false
theorem witness_StoresStayCanonical :
    MemInv rst ∧ StoreInv rst ∧ nextB (step { rst with agenda := [.event .referenceTick] }) = true := ⟨reset_inv.mem, reset_inv, by decide +kernel⟩

theorem witness_EncodingRoundTrip : (Instr.add (rrr false false)).wf = true ∧ (Instr.add (rrr false false)).place = some (.body .ctl) ∧ (encode (.add (rrr false false))).isSome = true := ⟨rfl, rfl, rfl⟩


/-! ## Ill-formed terms, one for each check -/

theorem test_wf_header_of_no_length : (Instr.blockHeader ⟨0, 1, 0⟩).wf = false ∧ (Instr.switchPointHeader ⟨0, 1⟩).wf = false := by decide
theorem test_wf_compact_to_zero : (Instr.cAddi ⟨0, 1⟩).wf = false ∧ (Instr.cMv ⟨0, 5⟩).wf = false := by decide
theorem test_wf_na_three : (Instr.add ⟨3, false, 5, false, 6, 3⟩).wf = false ∧ (Instr.std ⟨false, 2, false, 3, 0, 3⟩).wf = false ∧ (Instr.rfence ⟨3⟩).wf = false := by decide
theorem test_wf_compare : (Instr.cmp ⟨0, false, 4, false, 5, 0, 0⟩).wf = false ∧ (Instr.cmp ⟨1, false, 4, false, 5, 6, 0⟩).wf = false ∧ (Instr.cmpi ⟨0, 2, false, 4, 10, 0⟩).wf = false ∧ (Instr.cmpi ⟨1, 6, false, 4, 10, 0⟩).wf = false := by decide
theorem test_wf_predicate_zero : (Instr.pand ⟨0, 1, 2, 0⟩).wf = false ∧ (Instr.pnot ⟨0, 1, 0⟩).wf = false ∧ (Instr.popNb ⟨7, 0, 2, 0⟩).wf = false := by decide
theorem test_wf_scopes : (Instr.amoadd ⟨6, false, 7, false, 8, true, 0, 1, 0⟩).wf = false ∧ (Instr.fenceRel ⟨5, 0⟩).wf = false ∧ (Instr.arv ⟨3, 0⟩).wf = false := by decide
theorem test_wf_no_such_csr : (Instr.csrr ⟨4, 0x51, 0⟩).wf = false ∧ (Instr.csrw ⟨false, 4, 0x3FF, 0⟩).wf = false := by decide
def eo (p : List Pfx) (m : Option Modf) (f1 f2 f3 fmt : BitVec 5) : EOp := ⟨p, m, f1, false, f2, false, f3, fmt, 0⟩
theorem test_wf_prefix_order : (Instr.areAdd (eo [⟨0, 3, 1⟩, ⟨0, 3, 0⟩] none 1 2 3 1)).wf = false := by decide
theorem test_wf_default_modifier : (Instr.areAdd (eo [] (some ⟨0, false, false, false, 0, 0⟩) 1 2 3 1)).wf = false := by decide
theorem test_wf_operand_codes : (Instr.areAdd (eo [] none 24 2 3 1)).wf = false ∧ (Instr.ldr (eo [] none 1 8 2 2)).wf = false ∧ (Instr.pcfg (eo [] none 3 0 0 0)).wf = false ∧ (Instr.mmul (eo [] none 1 2 1 2)).wf = false := by decide
theorem test_wf_trap_bit_on_a_parameter : (Instr.ldr { eo [] none 1 0 2 2 with b2 := true }).wf = false := by decide
theorem test_wf_counts_differ : (Instr.areAdd (eo [⟨0, 3, 0⟩, ⟨0, 4, 1⟩] none 1 2 3 1)).wf = false ∧ (Instr.ldr (eo [⟨60, 15, 0⟩] none 1 0 2 2)).wf = false := by decide
theorem test_wf_formats : (Instr.fma (eo [] none 1 2 3 10)).wf = false ∧ (Instr.mldb (eo [] none 1 2 0 8)).wf = false ∧ (Instr.areAnd (eo [] none 1 2 3 1)).wf = false := by decide
theorem test_wf_modifier_fields :
    (Instr.areAdd (eo [] (some ⟨5, false, false, false, 0, 0⟩) 1 2 3 1)).wf = false ∧ (Instr.areMin (eo [] (some ⟨1, false, false, false, 0, 0⟩) 1 2 3 1)).wf = false ∧ (Instr.areAdd (eo [] (some ⟨0, false, false, false, 0, 1⟩) 1 2 3 1)).wf = false
    ∧ (Instr.areAdd (eo [] (some ⟨0, false, false, false, 1, 0⟩) 1 2 3 1)).wf = false ∧ (Instr.ldt (eo [] (some ⟨0, false, true, false, 0, 0⟩) 1 0 0 1)).wf = false ∧ (Instr.fma (eo [] (some ⟨0, false, false, true, 16, 0⟩) 1 2 3 1)).wf = false
    ∧ (Instr.abs (eo [] (some ⟨0, false, false, true, 0, 0⟩) 1 2 0 1)).wf = false := by decide
theorem test_wf_load_conversion : (Instr.ldr (eo [] (some ⟨0, false, false, false, 2, 0⟩) 1 0 2 2)).wf = false ∧ (Instr.ldr (eo [] none 26 0 2 2)).wf = false ∧ (Instr.ldx (eo [⟨0, 0, 2⟩] (some ⟨1, false, false, false, 0, 0⟩) 1 0 2 1)).wf = false := by decide
theorem test_wf_store_from_acc : (Instr.str (eo [] none 1 24 2 2)).wf = false := by decide
theorem test_wf_compare_and_reduce_integers : (Instr.areCmp (eo [] (some ⟨0, false, false, false, 0, 6⟩) 1 2 3 8)).wf = false ∧ (Instr.redSsq (eo [⟨0, 0, 0⟩] (some ⟨0, false, false, false, 0, 3⟩) 1 2 0 8)).wf = false
    ∧ (Instr.redqSum (eo [] none 1 2 0 1)).wf = false := by decide
theorem test_wf_transpose : (Instr.trn (eo [⟨0, 15, 0⟩, ⟨0, 15, 1⟩] none 1 2 0 1)).wf = false ∧ (Instr.trn (eo [⟨0, 31, 0⟩, ⟨1, 31, 1⟩] none 1 1 0 1)).wf = false := by decide
theorem test_wf_flat_rows : (Instr.cvt (eo [] (some ⟨0, false, false, false, 1, 0⟩) 1 2 0 1)).wf = false ∧ (Instr.cvt (eo [⟨0, 1, 0⟩, ⟨0, 6, 1⟩] (some ⟨0, false, false, false, 1, 0⟩) 6 1 0 4)).wf = false := by decide
theorem test_wf_shifts : (Instr.shl (eo [] (some ⟨0, false, false, false, 0, 1⟩) 1 2 9 8)).wf = false ∧ (Instr.shl (eo [] none 1 2 24 8)).wf = false := by decide
theorem test_wf_codebook_and_semiring : (Instr.mcb (eo [⟨0, 2, 1⟩] none 0 2 0 0)).wf = false ∧ (Instr.msemi (eo [] (some ⟨0, false, false, false, 0, 5⟩) 0 0 0 0)).wf = false := by decide
theorem test_wf_drain : (Instr.mdrain (eo [] (some ⟨0, false, false, false, 9, 0⟩) 1 24 0 1)).wf = false ∧ (Instr.mdrain (eo [] none 26 24 0 2)).wf = false := by decide
theorem test_wf_copy_words : (Instr.copy ⟨8, 1, 2, 0, 0⟩).wf = false ∧ (Instr.copy2d ⟨0, 1, 7, 0, 0⟩).wf = false ∧ (Instr.krecv ⟨0, 1, 0, 0, 0⟩).wf = false ∧ (Instr.kabs ⟨0, 1, 1, 0, 0⟩).wf = false ∧ (Instr.krel ⟨1, 0, 0, 0, 0⟩).wf = false
    ∧ (Instr.kwid ⟨0, 1, 2, 5, 0⟩).wf = false := by decide
theorem test_wf_what_an_event_carries (l : List Byte) (h : l.length = 4097) : (Instr.fabricWriteApply 0 (.write fsrc 0 0 0 l)).wf = false ∧ (Instr.mcastLineArrival 0 { line0 with data := [] }).wf = false :=
  ⟨by simp [Instr.wf, fabMsgOk, h], rfl⟩

/-! ## Words of the spec's encoding tables: one or more of each family -/

theorem test_decode_header : decodeHeader true 0x014017F3#32 = .ok (.blockHeader ⟨5, 1, 1⟩) := by decide
theorem test_decode_exit : decodeExit 0xFFF007E3#32 = .ok (.relativeExit ⟨0x7FF80, 1, false⟩) := by decide
theorem test_decode_compact : decodeCtl16 0x2824#16 = .ok (.cLi ⟨5, 1⟩) := by decide
theorem test_decode_integer : decodeCtl32 0x207FF833#32 = .ok (.addi ⟨4, false, 3, 0x7FE, 0⟩) ∧ decodeCtl32 0x30C20C73#32 = .ok (.srai ⟨6, false, 6, 3, 0⟩) ∧ decodeCtl32 0x1BFFF893#32 = .ok (.addpc ⟨3, 0xFFFE, 0⟩) := by decide
theorem test_decode_predicates : decodeCtl32 0x284028B3#32 = .ok (.cmpi ⟨1, 2, false, 4, 10, 0⟩) ∧ decodeCtl32 0x408290A3#32 = .ok (.cmp ⟨2, false, 4, false, 5, 4, 0⟩) ∧ decodeCtl32 0x65000CC3#32 = .ok (.pandn ⟨3, 1, 2, 0⟩) := by decide
theorem test_decode_memory : decodeCtl32 0x483FE123#32 = .ok (.ldw ⟨9, false, 1, 0x7F8, 0⟩) ∧ decodeCtl32 0x101001B3#32 = .ok (.std ⟨false, 4, false, 1, 0, 0⟩) ∧ decodeCtl32 0x30E45603#32 = .ok (.amoadd ⟨6, false, 7, false, 8, true, 1, 1, 0⟩) := by decide
theorem test_decode_synchronization : decodeCtl32 0x00003683#32 = .ok (.fenceRel ⟨3, 0⟩) ∧ decodeCtl32 0x020C2AC3#32 = .ok (.enqMxe ⟨2, 12, 5, false, 0⟩) ∧ decodeCtl32 0x20C02313#32 = .ok (.semwait ⟨4, false, 6, 0⟩) ∧ decodeCtl32 0x38002323#32 = .ok (.pop ⟨7, 2, 0⟩)
    ∧ decodeCtl32 0x00000753#32 = .ok (.arv ⟨1, 0⟩) ∧ decodeCtl32 0x00001753#32 = .ok (.wtb ⟨1, 0⟩) := by decide
theorem test_decode_system : decodeCtl32 0x00003363#32 = .ok (.susp ⟨0⟩) ∧ decodeCtl32 0x20014373#32 = .ok (.csrr ⟨4, 0x50, 0⟩) ∧ decodeCtl32 0x480003A3#32 = .ok (.tick ⟨9, 0⟩) ∧ decodeCtl32 0x000003B3#32 = .ok (.rfence ⟨0⟩) := by decide
theorem test_decode_loads : readAt (.body .lde) [0x0071, 0x0082, 0x8413, 0x2841] = .ok (.ldr (eo [⟨0, 7, 0⟩] (some ⟨0, false, false, false, 4, 0⟩) 5 2 3 1), []) ∧ readAt (.body .lde) [0x0031, 0x8833, 0x3000] = .ok (.ldrec (eo [⟨0, 3, 0⟩] none 6 0 1 2), []) := by decide
theorem test_decode_store : readAt (.body .ste) [0x0035, 0x8833, 0x0040] = .ok (.strec (eo [⟨0, 3, 1⟩] none 0 2 1 2), []) := by decide
theorem test_decode_arithmetic :
    readAt (.body .are) [0x0071, 0x0075, 0x0C09, 0x040A, 0x04E3, 0x2821] = .ok (.areCmp (eo [⟨0, 7, 0⟩, ⟨0, 7, 1⟩, ⟨3, 0, 2⟩] (some ⟨0, false, false, true, 0, 2⟩) 5 1 2 1), [])
    ∧ readAt (.body .are) [0x0011, 0x0075, 0x9022, 0x1163, 0x3020] = .ok (.cvt (eo [⟨0, 1, 0⟩, ⟨0, 7, 1⟩] (some ⟨4, true, false, false, 1, 0⟩) 6 1 0 4), [])
    ∧ readAt (.body .are) [0x0035, 0x0513, 0xD040] = .ok (.redqSum (eo [⟨0, 3, 1⟩] none 26 2 0 1), []) := by decide
theorem test_decode_matrix : readAt (.body .mxe) [0x0011, 0x0015, 0x8843, 0xC040] = .ok (.mmul (eo [⟨0, 1, 0⟩, ⟨0, 1, 1⟩] none 24 2 1 2), []) := by decide
theorem test_decode_copy_and_collective : readAt (.body .cpe) [0x0043, 0x20A3] = .ok (.rwrite ⟨4, 5, 6, 0, 0⟩, []) ∧ readAt (.body .coe) [0x8013, 0x0841] = .ok (.ksend ⟨1, 2, 3, 0, 0⟩, []) ∧ readAt (.body .coe) [0xD053, 0x3082] = .ok (.kreq ⟨6, 4, 5, 20, 0⟩, []) := by decide
theorem test_decode_refuses : (match decodeCtl16 0x0000#16 with | .ok _ => true | .error _ => false) = false ∧ (match decodeCtl32 0xFFFFFFFF#32 with | .ok _ => true | .error _ => false) = false ∧ (match readAt (.body .lde) [] with | .ok _ => true | .error _ => false) = false := by decide

/-! ## Single steps -/

/-- The value of s<r> in the open block after one instruction. -/
def after (x : Host.Outcome State Fault Refusal) (r : BitVec 5) : Option Word := match x with | .next s => (s.ctl 0 0).opn.map fun b => b.regs.get r | _ => none
def two (a b : Word) : State := coreS { blk0 with regs := (Regs.fresh.put 5 a).put 6 b }
theorem test_add_wraps : after (exec (.add (rrr false false)) (two (BitVec.allOnes 64) 2)) 3 = some 1 := by decide +kernel
theorem test_sub_operand_order : after (exec (.sub (rrr false false)) (two 7 9)) 3 = some (BitVec.ofInt 64 (-2)) := by decide +kernel
theorem test_shift_count_masked : after (exec (.sll (rrr false false)) (two 1 65)) 3 = some 2 := by decide +kernel
theorem test_sra_sign : after (exec (.sra (rrr false false)) (two (BitVec.ofInt 64 (-8)) 1)) 3 = some (BitVec.ofInt 64 (-4)) := by decide +kernel
theorem test_div_truncates : after (exec (.div (rrr false false)) (two (BitVec.ofInt 64 (-7)) 2)) 3 = some (BitVec.ofInt 64 (-3)) := by decide +kernel
theorem test_rem_sign : after (exec (.rem (rrr false false)) (two (BitVec.ofInt 64 (-7)) 2)) 3 = some (BitVec.ofInt 64 (-1)) := by decide +kernel
theorem test_mulh_signed : after (exec (.mulh (rrr false false)) (two (BitVec.allOnes 64) (BitVec.allOnes 64))) 3 = some 0 := by decide +kernel
theorem test_mulhu : after (exec (.mulhu (rrr false false)) (two (BitVec.allOnes 64) (BitVec.allOnes 64))) 3 = some (BitVec.ofInt 64 (-2)) := by decide +kernel
theorem test_addi_negative : after (exec (.addi ⟨4, false, 5, 0x7FE, 0⟩) (two 5 0)) 4 = some 3 := by decide +kernel
theorem test_clz_of_zero : after (exec (.clz ⟨3, false, 5, 0⟩) (two 0 0)) 3 = some 64 := by decide +kernel
theorem test_s0_stays_zero : after (exec (.add ⟨0, false, 5, false, 6, 0⟩) (two 1 2)) 0 = some 0 := by decide +kernel

end Sys2Proof.Tests
end

section
/-! SUPPORT. The control core's scalar words (R169 to R178): how a word runs when its sources are full, waits or faults when one is empty; its results as numbers; which words the decoder answers; and the statements about them. -/

namespace Sys2Proof.Proofs

open Sys2Proof Sys2Proof.Machine Sys2Proof.Laws

/-! ## A source (R170) -/

theorem src_waits {s : State} {o : Open} {r : BitVec 5} {f : Word → CRes} (h : o.regs.isFull r = false) : src s o false r f = .wait s := by simp [src, h]
theorem src_faults {s : State} {o : Open} {r : BitVec 5} {f : Word → CRes} (h : o.regs.isFull r = false) : src s o true r f = .fault s 4 0 0 0 := by simp [src, h]

/-! ## An instruction of each layout, its sources full: its result goes to D or PD, and nothing else changes -/

section Layouts
variable {s : State} {d : DieId} {k : SlotId} {b : Open} {i : Instr} {v : Word}

theorem ctl2_result {o : RRR} {g : Word → Word → Word} (hc : AtCore s d k b) (ha : b.regs.isFull o.a = true) (hb : b.regs.isFull o.b = true)
    (he : exec i s = ctl2 o g s) (hv : g (b.regs.get o.a) (b.regs.get o.b) = v) : exec i s = bodyNext s d k (b.put o.d v) 2 o.na :=
  hv ▸ he.trans (ctlDo_ok hc _ ((src_full ha).trans (src_full hb)))
theorem ctl1_result {o : RR} {g : Word → Word} (hc : AtCore s d k b) (ha : b.regs.isFull o.a = true)
    (he : exec i s = ctl1 o g s) (hv : g (b.regs.get o.a) = v) : exec i s = bodyNext s d k (b.put o.d v) 2 o.na :=
  hv ▸ he.trans (ctlDo_ok hc _ (src_full ha))
theorem ctlI_result {o : RI} {g : Word → Word → Word} (hc : AtCore s d k b) (ha : b.regs.isFull o.a = true)
    (he : exec i s = ctlI o g s) (hv : g (b.regs.get o.a) (o.imm.signExtend 64) = v) : exec i s = bodyNext s d k (b.put o.d v) 2 o.na :=
  hv ▸ he.trans (ctlDo_ok hc _ (src_full ha))
theorem ctlSh_result {o : RSh} {g : Word → Nat → Word} (hc : AtCore s d k b) (ha : b.regs.isFull o.a = true)
    (he : exec i s = ctlSh o g s) (hv : g (b.regs.get o.a) o.sh.toNat = v) : exec i s = bodyNext s d k (b.put o.d v) 2 o.na :=
  hv ▸ he.trans (ctlDo_ok hc _ (src_full ha))
theorem ctlCI_result {o : CI} {g : Word → Word → Word} (hc : AtCore s d k b) (hd : b.regs.isFull o.d = true)
    (he : exec i s = ctlCI o g s) (hv : g (b.regs.get o.d) (o.imm.signExtend 64) = v) : exec i s = bodyNext s d k (b.put o.d v) 1 0 :=
  hv ▸ he.trans (ctlDo_ok hc _ (src_full hd))
theorem ctlCR_result {o : CR} {g : Word → Word → Word} (hc : AtCore s d k b) (ha : b.regs.isFull o.a = true) (hd : b.regs.isFull o.d = true)
    (he : exec i s = ctlCR o g s) (hv : g (b.regs.get o.d) (b.regs.get o.a) = v) : exec i s = bodyNext s d k (b.put o.d v) 1 0 :=
  hv ▸ he.trans (ctlDo_ok hc _ ((src_full hd).trans (src_full ha)))
theorem ctlP_result {o : RPl} {g : Bool → Bool → Bool} {p : Bool} (hc : AtCore s d k b)
    (he : exec i s = ctlP o g s) (hp : g (b.regs.pget o.pa) (b.regs.pget o.pb) = p) : exec i s = bodyNext s d k (b.pput o.pd p) 2 o.na :=
  hp ▸ he.trans (ctlDo_ok hc _ rfl)
theorem nop_runs (hc : AtCore s d k b) : exec .nop s = bodyNext s d k b 1 0 := by
  rw [exec_nop, execNop, hc.ag]
  exact ctlDo_ok hc _ rfl
theorem cMv_full {o : CR} (hc : AtCore s d k b) (ha : b.regs.isFull o.a = true) : exec (.cMv o) s = bodyNext s d k (b.put o.d (b.regs.get o.a)) 1 0 :=
  (exec_cMv o s).trans (ctlDo_ok hc _ (src_full ha))
theorem cmp_full {o : RCmp} (hc : AtCore s d k b) (ha : b.regs.isFull o.a = true) (hb : b.regs.isFull o.b = true) :
    exec (.cmp o) s = bodyNext s d k (b.pput o.pd (Machine.cond o.cc.toNat (b.regs.get o.a) (b.regs.get o.b))) 2 o.na :=
  (exec_cmp o s).trans (ctlDo_ok hc _ ((src_full ha).trans (src_full hb)))
theorem cmpi_full {o : RCmpi} (hc : AtCore s d k b) (ha : b.regs.isFull o.a = true) :
    exec (.cmpi o) s = bodyNext s d k (b.pput o.pd (Machine.cond o.cnd.toNat (b.regs.get o.a) (o.imm.signExtend 64))) 2 o.na :=
  (exec_cmpi o s).trans (ctlDo_ok hc _ (src_full ha))
theorem csel_full {o : RSel} (hc : AtCore s d k b) (ha : b.regs.isFull o.a = true) (hb : b.regs.isFull o.b = true) :
    exec (.csel o) s = bodyNext s d k (b.put o.d (if b.regs.pget o.p != o.neg then b.regs.get o.a else b.regs.get o.b)) 2 o.na :=
  (exec_csel o s).trans (ctlDo_ok hc _ ((src_full ha).trans (src_full hb)))

/-! ## An instruction with an empty source -/

theorem ctlCI_waits {o : CI} {g : Word → Word → Word} (hc : AtCore s d k b) (hd : b.regs.isFull o.d = false) : ctlCI o g s = .next s :=
  ctlDo_wait hc _ (src_waits hd)
theorem cMv_waits {o : CR} (hc : AtCore s d k b) (ha : b.regs.isFull o.a = false) : exec (.cMv o) s = .next s :=
  (exec_cMv o s).trans (ctlDo_wait hc _ (src_waits ha))
theorem ctlCR_waits_dest {o : CR} {g : Word → Word → Word} (hc : AtCore s d k b) (hd : b.regs.isFull o.d = false) : ctlCR o g s = .next s :=
  ctlDo_wait hc _ (src_waits hd)
/-- An empty A makes the word wait whether or not its other source, D, is full. -/
theorem ctlCR_waits_src {o : CR} {g : Word → Word → Word} (hc : AtCore s d k b) (ha : b.regs.isFull o.a = false) : ctlCR o g s = .next s := by
  cases hd : b.regs.isFull o.d with
  | false => exact ctlCR_waits_dest hc hd
  | true => exact ctlDo_wait hc _ ((src_full hd).trans (src_waits ha))
/-- The sources are tested in the order A, B (log entry 145): `csel` waits on an empty A with BA = 0, or on an empty B with BB = 0 behind a full A. -/
theorem csel_waits {o : RSel} (hc : AtCore s d k b) (h : b.regs.isFull o.a = false ∧ o.ba = false ∨ b.regs.isFull o.a = true ∧ b.regs.isFull o.b = false ∧ o.bb = false) :
    exec (.csel o) s = .next s := by
  refine (exec_csel o s).trans (ctlDo_wait hc _ (s' := s) ?_)
  obtain ⟨ha, hba⟩ | ⟨ha, hb, hbb⟩ := h
  · rw [hba]; exact src_waits ha
  · rw [hbb]; exact (src_full ha).trans (src_waits hb)
/-- In the same order (log entry 145), `csel` faults on an empty A with BA = 1, or on an empty B with BB = 1 behind a full A. -/
theorem csel_faults {o : RSel} (hc : AtCore s d k b) (h : b.regs.isFull o.a = false ∧ o.ba = true ∨ b.regs.isFull o.a = true ∧ b.regs.isFull o.b = false ∧ o.bb = true) :
    exec (.csel o) s = .next (ctlFault s d k b b.pos 4 0 0 0) := by
  refine (exec_csel o s).trans (ctlDo_fault hc _ (s' := s) ?_)
  obtain ⟨ha, hba⟩ | ⟨ha, hb, hbb⟩ := h
  · rw [hba]; exact src_faults ha
  · rw [hbb]; exact (src_full ha).trans (src_faults hb)

/-! ## What a control core's fault leaves (R149, R363) -/

theorem ctlFault_legal {pos code : Nat} {addr : Word} {unit : Nat} {info : Word} (h : b.bad = none) :
    ctlFault s d k b pos code addr unit info = takeFault s d k 0 ⟨code, b.hdr, b.at_ pos, addr, (s.ctl d k).ccnt, unit, info⟩ := by
  simp only [ctlFault, h]
theorem takeFault_discards {f : FaultAt} (h : s.openRec d k 0 = none) : ((takeFault s d k 0 f).ctl d k).opn = none := by
  rw [takeFault_none f h]
  cases codeRpl f.code <;> simp [State.ctl, Slot.dropRows, Slot.modCtl, Slot.discard]
theorem takeFault_records {f : FaultAt} (h : s.openRec d k 0 = none) (hf : (s.slot d k).heldBy 0 = false) :
    vget ((takeFault s d k 0 f).slot d k).flt 0 = some ⟨(s.die d).faultRec d k 0 f, none, none⟩ := by
  have hn : vget (s.slot d k).flt 0 = none := Option.isNone_iff_eq_none.1 (Option.isSome_eq_false_iff.1 hf)
  have ha : agNum 0 = 0 := rfl
  rw [takeFault_none f h, ha]
  cases codeRpl f.code <;> simp [Slot.dropRows, Slot.modCtl, Slot.discard, hn]

end Layouts

/-! ## Results as numbers: sums, products, immediates (R171, R173 to R175) -/

theorem add_eq_ofNat (x y : Word) : x + y = BitVec.ofNat 64 (x.toNat + y.toNat) := BitVec.eq_of_toNat_eq (by simp)
theorem mul_eq_ofNat (x y : Word) : x * y = BitVec.ofNat 64 (x.toNat * y.toNat) := BitVec.eq_of_toNat_eq (by simp)
theorem sub_eq_ofInt (x y : Word) : x - y = BitVec.ofInt 64 (x.toInt - y.toInt) := BitVec.eq_of_toInt_eq (by simp)
theorem add_signExtend {n : Nat} (x : Word) (i : BitVec n) : x + i.signExtend 64 = BitVec.ofInt 64 (x.toInt + i.toInt) := by
  rw [BitVec.ofInt_add, BitVec.ofInt_toInt]; rfl
theorem signExtend_shiftLeft {n : Nat} (i : BitVec n) (m : Nat) : i.signExtend 64 <<< m = BitVec.ofInt 64 (i.toInt * 2 ^ m) := by
  have hp : BitVec.twoPow 64 m = BitVec.ofInt 64 (2 ^ m) := BitVec.eq_of_toNat_eq (by rw [BitVec.toNat_twoPow, BitVec.toNat_ofInt]; norm_cast)
  rw [BitVec.shiftLeft_eq_mul_twoPow, BitVec.ofInt_mul, hp]; rfl
theorem ofInt_and_bits_51 (z : Int) : BitVec.ofInt 64 z &&& bits 51 0 = BitVec.ofInt 64 (z % 2 ^ 52) := by
  have hb : (bits 51 0).toNat = 2 ^ 52 - 1 := by decide
  apply BitVec.eq_of_toNat_eq
  rw [BitVec.toNat_and, hb, Nat.and_two_pow_sub_one_eq_mod, BitVec.toNat_ofInt, BitVec.toNat_ofInt]
  omega
theorem addpc_value (h : Word) (i : BitVec 17) : (h + (i.signExtend 64 <<< 1)) &&& bits 51 0 = BitVec.ofInt 64 ((h.toInt + 2 * i.toInt) % 2 ^ 52) := by
  rw [← ofInt_and_bits_51, BitVec.ofInt_add, BitVec.ofInt_toInt, signExtend_shiftLeft, pow_one, mul_comm]

/-! ## Shifts and rotates (R171, R172) -/

theorem amt_lt (y : Word) : amt y < 64 := Nat.mod_lt _ (by decide)
theorem sllW_eq (x : Word) (n : Nat) : sllW x n = BitVec.ofNat 64 (x.toNat * 2 ^ n) := BitVec.eq_of_toNat_eq (by simp [sllW, Nat.shiftLeft_eq])
theorem srlW_eq (x : Word) (n : Nat) : srlW x n = BitVec.ofNat 64 (x.toNat / 2 ^ n) := by
  rw [srlW, ← Nat.shiftRight_eq_div_pow, ← BitVec.toNat_ushiftRight, BitVec.ofNat_toNat, BitVec.setWidth_eq]
theorem sraW_eq (x : Word) (n : Nat) : sraW x n = BitVec.ofInt 64 (x.toInt / 2 ^ n) := by
  rw [← BitVec.ofInt_toInt (x := sraW x n), sraW, BitVec.toInt_sshiftRight, Int.shiftRight_eq_div_pow]
  norm_cast
/-- What leaves on the right comes back on the left: the two parts share no bit. -/
theorem rorW_eq (x : Word) {n : Nat} (hn : n < 64) : rorW x n = BitVec.ofNat 64 (x.toNat / 2 ^ n + x.toNat % 2 ^ n * 2 ^ (64 - n)) := by
  have hp : 2 ^ 64 = 2 ^ n * 2 ^ (64 - n) := by rw [← pow_add]; congr 1; omega
  have hlo : x.toNat / 2 ^ n < 2 ^ (64 - n) := Nat.div_lt_of_lt_mul (hp ▸ x.isLt)
  have hhi : (x.toNat <<< (64 - n)) % 2 ^ 64 = (x.toNat % 2 ^ n) <<< (64 - n) := by
    rw [Nat.shiftLeft_eq, Nat.shiftLeft_eq, hp, Nat.mul_mod_mul_right]
  have hv : (rorW x n).toNat = x.toNat / 2 ^ n + x.toNat % 2 ^ n * 2 ^ (64 - n) := by
    rw [rorW, BitVec.toNat_rotateRight, Nat.mod_eq_of_lt hn, Nat.shiftRight_eq_div_pow, hhi, Nat.or_comm, ← Nat.shiftLeft_add_eq_or_of_lt hlo, Nat.shiftLeft_eq, Nat.add_comm]
  rw [← hv, BitVec.ofNat_toNat, BitVec.setWidth_eq]

/-! ## Minima and maxima (R171): on a tie both operands are the same word -/

theorem minS_eq (x y : Word) : minS x y = if x.toInt ≤ y.toInt then x else y := by
  simp only [minS, BitVec.slt_iff_toInt_lt, ← Int.not_le, ite_not]
theorem minU_eq (x y : Word) : minU x y = if x.toNat ≤ y.toNat then x else y := by
  simp only [minU, BitVec.ult_iff_lt, BitVec.lt_def, ← Nat.not_le, ite_not]
theorem maxS_eq (x y : Word) : maxS x y = if x.toInt ≤ y.toInt then y else x := by
  simp only [maxS, BitVec.slt_iff_toInt_lt]
  obtain h | h | h := lt_trichotomy x.toInt y.toInt
  · rw [if_pos h, if_pos h.le]
  · rw [BitVec.eq_of_toInt_eq h, ite_self, ite_self]
  · rw [if_neg h.not_gt, if_neg h.not_ge]
theorem maxU_eq (x y : Word) : maxU x y = if x.toNat ≤ y.toNat then y else x := by
  simp only [maxU, BitVec.ult_iff_lt, BitVec.lt_def]
  obtain h | h | h := lt_trichotomy x.toNat y.toNat
  · rw [if_pos h, if_pos h.le]
  · rw [BitVec.eq_of_toNat_eq h, ite_self, ite_self]
  · rw [if_neg h.not_gt, if_neg h.not_ge]

/-! ## Counts of bits, and extensions of 32 bits -/

/-- A word whose lowest `n` bits are zero is a multiple of 2^n. -/
theorem low_bits_zero (x : Word) (n : Nat) (h : ∀ i < n, x.getLsbD i = false) : x.toNat % 2 ^ n = 0 := by
  refine Nat.eq_of_testBit_eq fun i => ?_
  rw [Nat.testBit_mod_two_pow, Nat.zero_testBit, BitVec.testBit_toNat]
  by_cases hi : i < n <;> simp [hi, h]
theorem clzW_spec (x : Word) : ∃ n : Nat, clzW x = BitVec.ofNat 64 n ∧ n ≤ 64 ∧ x.toNat < 2 ^ (64 - n) ∧ (n < 64 → 2 ^ (63 - n) ≤ x.toNat) := by
  refine ⟨_, rfl, ?_⟩
  by_cases h : x = 0
  · simp [h]
  · have hx : x.toNat ≠ 0 := fun e => h (BitVec.eq_of_toNat_eq e)
    have hl : Nat.log2 x.toNat < 64 := (Nat.log2_lt hx).2 x.isLt
    have h1 : 64 - (63 - Nat.log2 x.toNat) = Nat.log2 x.toNat + 1 := by omega
    have h2 : 63 - (63 - Nat.log2 x.toNat) = Nat.log2 x.toNat := by omega
    rw [if_neg h, h1, h2]
    exact ⟨by omega, Nat.lt_log2_self, fun _ => Nat.log2_self_le hx⟩
theorem ctzW_spec (x : Word) : ∃ n : Nat, ctzW x = BitVec.ofNat 64 n ∧ n ≤ 64 ∧ x.toNat % 2 ^ n = 0 ∧ (n < 64 → x.getLsbD n = true) := by
  refine ⟨_, rfl, ?_⟩
  cases h : (List.range 64).find? fun i => x.getLsbD i with
  | none =>
    refine ⟨le_rfl, low_bits_zero x 64 fun i hi => ?_, fun h => absurd h (by decide)⟩
    simpa using List.find?_eq_none.1 h i (List.mem_range.2 hi)
  | some n =>
    obtain ⟨hn, hm, hlow⟩ := List.find?_range_eq_some.1 h
    exact ⟨(List.mem_range.1 hm).le, low_bits_zero x n fun i hi => by simpa using hlow i hi, fun _ => hn⟩
theorem popcW_eq (x : Word) : popcW x = BitVec.ofNat 64 ((List.range 64).countP fun i => x.getLsbD i) := by
  rw [popcW, List.countP_eq_length_filter]
theorem sextwW_eq (x : Word) : sextwW x = BitVec.ofInt 64 (BitVec.ofNat 32 x.toNat).toInt := by
  rw [sextwW, ← BitVec.ofNat_toNat]; rfl
theorem zextwW_eq (x : Word) : zextwW x = BitVec.ofNat 64 (x.toNat % 2 ^ 32) := by
  apply BitVec.eq_of_toNat_eq
  simp [zextwW]

/-! ## Quotients (R175) -/

section Quotients
variable (x : Word) {y : Word}

theorem divW_zero (h : y = 0) : divW x y = -1 := if_pos h
theorem divuW_zero (h : y = 0) : divuW x y = BitVec.ofNat 64 (2 ^ 64 - 1) := if_pos h
theorem remW_zero (h : y = 0) : remW x y = x := if_pos h
theorem remuW_zero (h : y = 0) : remuW x y = x := if_pos h
theorem divuW_ne_zero (h : y ≠ 0) : divuW x y = BitVec.ofNat 64 (x.toNat / y.toNat) := if_neg h
theorem remuW_ne_zero (h : y ≠ 0) : remuW x y = BitVec.ofNat 64 (x.toNat % y.toNat) := if_neg h
theorem tmod_nonpos {a : Int} (b : Int) (h : a ≤ 0) : a.tmod b ≤ 0 := by
  have := Int.tmod_nonneg b (Int.neg_nonneg.2 h)
  rw [Int.neg_tmod] at this
  omega
/-- Quotient and remainder round toward zero: the remainder is smaller than the divisor and has the dividend's sign. -/
theorem divW_remW_spec (h : y ≠ 0) :
    ∃ q m : Int, divW x y = BitVec.ofInt 64 q ∧ remW x y = BitVec.ofInt 64 m ∧
      x.toInt = y.toInt * q + m ∧ m.natAbs < y.toInt.natAbs ∧ (0 ≤ x.toInt → 0 ≤ m) ∧ (x.toInt ≤ 0 → m ≤ 0) := by
  have hy : y.toInt ≠ 0 := fun e => h (BitVec.eq_of_toInt_eq (e.trans BitVec.toInt_zero.symm))
  have hm : (x.toInt.tmod y.toInt).natAbs < y.toInt.natAbs := by
    rw [Int.natAbs_tmod]; exact Nat.mod_lt _ (Int.natAbs_pos.2 hy)
  exact ⟨_, _, if_neg h, if_neg h, (Int.mul_tdiv_add_tmod _ _).symm, hm, Int.tmod_nonneg _, tmod_nonpos _⟩

end Quotients

/-! ## Conditions (R176) -/

/-- A condition code as a relation of numbers. -/
def CondHolds (c : Nat) (x y : Word) : Prop :=
  match c with
  | 0 => x = y | 1 => x ≠ y | 2 => x.toInt < y.toInt | 3 => y.toInt ≤ x.toInt | 4 => x.toNat < y.toNat | _ => y.toNat ≤ x.toNat
theorem cond_iff (c : Nat) (x y : Word) : Machine.cond c x y = true ↔ CondHolds c x y := by
  match c with
  | 0 => simp [Machine.cond, CondHolds]
  | 1 => simp [Machine.cond, CondHolds]
  | 2 => simp [Machine.cond, CondHolds, BitVec.slt_iff_toInt_lt]
  | 3 => simp [Machine.cond, CondHolds, BitVec.slt_eq_decide]
  | 4 => simp [Machine.cond, CondHolds, BitVec.ult_eq_decide]
  | n + 5 => simp [Machine.cond, CondHolds, BitVec.ult_eq_decide]

/-! ## The encodings are decoded (R171 to R178) -/

/-- Every 32-bit layout ends in 0b11 (R126). Decoded alone, the encoding of a well-formed instruction of the control stream gives that instruction back. -/
theorem decode_encoded {i : Instr} {x : BitVec 30} (he : Encoding.Statement i) (hw : i.wf = true)
    (hp : i.place = some (.body .ctl) := by rfl) (hc : encode i = some (halves (x ++ 3#2)) := by rfl) : decodeCtl32 (x ++ 3#2) = .ok i := by
  have hend : (x ++ 3#2).extractLsb' 0 2 = 3#2 := by
    apply BitVec.eq_of_toNat_eq
    rw [extract_toNat, append_toNat, BitVec.toNat_ofNat]
    omega
  have h := he _ _ [] hw hp hc
  cases hd : decodeCtl32 (x ++ 3#2) with
  | ok j =>
    rw [readAt_ctl32 _ j hend hd []] at h
    cases h; rfl
  | error r =>
    have hl := low_of_halves (x ++ 3#2)
    rw [hend] at hl
    simp only [readAt, decodeBody, halves, List.cons_append, List.nil_append, isWide, hl, halves_join, hd] at h
    cases h
theorem na_pd_legal {na : BitVec 2} {pd : BitVec 3} (hna : na ≠ 3) (hpd : pd ≠ 0) : (na != 3 && pd != 0) = true :=
  Bool.and_eq_true_iff.2 ⟨bne_iff_ne.2 hna, bne_iff_ne.2 hpd⟩

/-! ## What a word that is decoded satisfies (R149) -/

theorem guardWf_ok_iff {i j : Instr} : guardWf i = .ok j ↔ i.wf = true ∧ i = j := by
  unfold guardWf; split <;> simp_all
theorem take_ok_iff {u : Bool} {i j : Instr} : take u i = .ok j ↔ u = true ∧ i.wf = true ∧ i = j := by
  unfold take; split <;> simp_all [guardWf_ok_iff]
theorem zeroAt_iff {w : W32} {lo len : Nat} : zeroAt w lo len = true ↔ w.extractLsb' lo len = 0 := by
  simp [zeroAt, BitVec.toNat_eq]
theorem decAlu_legal {w : W32} {i : Instr} (h : decAlu w = .ok i) : (wMin w).toNat < 18 ∧ (13 ≤ (wMin w).toNat → w.extractLsb' 15 6 = 0) := by
  unfold decAlu at h
  split at h
  all_goals simp_all [take_ok_iff, zeroAt_iff]
theorem decMul_legal {w : W32} {i : Instr} (h : decMul w = .ok i) : (wMin w).toNat < 8 := by
  unfold decMul at h
  split at h
  all_goals simp_all
theorem decPred_legal {w : W32} {i : Instr} (h : decPred w = .ok i) :
    w.extractLsb' 29 3 ≠ 0 ∧ (wMin w).toNat < 6 ∧ w.extractLsb' 15 8 = 0 ∧ ((wMin w).toNat = 5 → w.extractLsb' 23 3 = 0) := by
  have hz : w.extractLsb' 15 11 = 0 → w.extractLsb' 15 8 = 0 ∧ w.extractLsb' 23 3 = 0 := by
    simp only [BitVec.toNat_eq, extract_toNat, BitVec.ofNat_eq_ofNat, BitVec.toNat_ofNat]
    omega
  unfold decPred at h
  split at h
  all_goals simp_all [take_ok_iff, zeroAt_iff, Instr.wf, getRPl]
theorem decShift_legal {w : W32} {i : Instr} (h : decShift w = .ok i) : (w.extractLsb' 16 5).toNat < 4 := by
  unfold decShift at h
  split at h
  all_goals simp_all
theorem na_ne_three {w : W32} {i : Instr} (h : decodeCtl32 w = .ok i) : (wNa w == 3) = false := by
  cases hn : wNa w == 3 with
  | false => rfl
  | true => rw [decodeCtl32, hn] at h; cases h
theorem decodeCtl32_alu {w : W32} {i : Instr} (hm : wMaj w = 0x01) (h : decodeCtl32 w = .ok i) : decAlu w = .ok i := by
  simp only [decodeCtl32, na_ne_three h, hm] at h
  exact h
theorem decodeCtl32_mul {w : W32} {i : Instr} (hm : wMaj w = 0x02) (h : decodeCtl32 w = .ok i) : decMul w = .ok i := by
  simp only [decodeCtl32, na_ne_three h, hm] at h
  exact h
theorem decodeCtl32_shift {w : W32} {i : Instr} (hm : wMaj w = 0x07) (h : decodeCtl32 w = .ok i) : decShift w = .ok i := by
  simp only [decodeCtl32, na_ne_three h, hm] at h
  exact h
theorem decodeCtl32_cmp {w : W32} {i : Instr} (hm : wMaj w = 0x0A) (h : decodeCtl32 w = .ok i) : take (zeroAt w 27 2) (.cmp (getRCmp w)) = .ok i := by
  simp only [decodeCtl32, na_ne_three h, hm] at h
  exact h
theorem decodeCtl32_cmpi {w : W32} {i : Instr} (hm : wMaj w = 0x0B) (h : decodeCtl32 w = .ok i) : guardWf (.cmpi (getRCmpi w)) = .ok i := by
  simp only [decodeCtl32, na_ne_three h, hm] at h
  exact h
theorem decodeCtl32_pred {w : W32} {i : Instr} (hm : wMaj w = 0x0C) (h : decodeCtl32 w = .ok i) : decPred w = .ok i := by
  simp only [decodeCtl32, na_ne_three h, hm] at h
  exact h
theorem decodeCtl32_csel {w : W32} {i : Instr} (hm : wMaj w = 0x0D) (h : decodeCtl32 w = .ok i) : take (zeroAt w 10 1) (.csel (getRSel w)) = .ok i := by
  simp only [decodeCtl32, na_ne_three h, hm] at h
  exact h
/-- No word of R176 or R177 has PD = 0. -/
theorem pd_ne_zero {w : W32} {i : Instr} (hm : 0x0A ≤ wMaj w ∧ wMaj w ≤ 0x0C) (h : decodeCtl32 w = .ok i) : w.extractLsb' 29 3 ≠ 0 := by
  have hcases : wMaj w = 0x0A ∨ wMaj w = 0x0B ∨ wMaj w = 0x0C := by omega
  obtain hm | hm | hm := hcases
  · obtain ⟨-, hw, -⟩ := take_ok_iff.1 (decodeCtl32_cmp hm h)
    simp only [Instr.wf, getRCmp, Bool.and_eq_true, bne_iff_ne] at hw
    obtain ⟨⟨-, hpd⟩, -⟩ := hw
    exact hpd
  · obtain ⟨hw, -⟩ := guardWf_ok_iff.1 (decodeCtl32_cmpi hm h)
    simp only [Instr.wf, getRCmpi, Bool.and_eq_true, bne_iff_ne] at hw
    obtain ⟨⟨-, hpd⟩, -⟩ := hw
    exact hpd
  · exact (decPred_legal (decodeCtl32_pred hm h)).1
theorem csel_bit_10 {w : W32} {i : Instr} (hm : wMaj w = 0x0D) (h : decodeCtl32 w = .ok i) : w.getLsbD 10 = false := by
  obtain ⟨hz, -⟩ := take_ok_iff.1 (decodeCtl32_csel hm h)
  simp only [zeroAt, beq_iff_eq, extract_toNat] at hz
  rw [bit_toNat, decide_eq_false_iff_not]
  omega

/-! ## The statements -/

/-- Settles O1: each word runs as its layout does, its result is read as a number, its encoding is decoded, and the words outside the table are not. -/
theorem integerRegisterResults : Obligations.IntegerRegisterResults := by
  refine ⟨?_, ?_, ?_, ?_, ?_, ?_⟩
  · intro s d k b o hc ha hb x y n r
    exact ⟨ctl2_result hc ha hb (exec_add o s) (add_eq_ofNat _ _), ctl2_result hc ha hb (exec_sub o s) (sub_eq_ofInt _ _),
      ctl2_result hc ha hb (exec_and o s) rfl, ctl2_result hc ha hb (exec_or o s) rfl, ctl2_result hc ha hb (exec_xor o s) rfl,
      ctl2_result hc ha hb (exec_sll o s) (sllW_eq _ _), ctl2_result hc ha hb (exec_srl o s) (srlW_eq _ _),
      ctl2_result hc ha hb (exec_sra o s) (sraW_eq _ _), ctl2_result hc ha hb (exec_ror o s) (rorW_eq _ (amt_lt _)),
      ctl2_result hc ha hb (exec_min o s) (minS_eq _ _), ctl2_result hc ha hb (exec_max o s) (maxS_eq _ _),
      ctl2_result hc ha hb (exec_minu o s) (minU_eq _ _), ctl2_result hc ha hb (exec_maxu o s) (maxU_eq _ _)⟩
  · intro s d k b o hc ha x r
    obtain ⟨n, hclz, hn⟩ := clzW_spec x
    obtain ⟨m, hctz, hm⟩ := ctzW_spec x
    exact ⟨⟨n, ctl1_result hc ha (exec_clz o s) hclz, hn⟩, ⟨m, ctl1_result hc ha (exec_ctz o s) hctz, hm⟩,
      ctl1_result hc ha (exec_popc o s) (popcW_eq _), ctl1_result hc ha (exec_sextw o s) (sextwW_eq _), ctl1_result hc ha (exec_zextw o s) (zextwW_eq _)⟩
  · intro s d k b hc
    refine ⟨nop_runs hc, ?_, ?_, ?_, ?_, ?_, ?_⟩
    · exact fun o hd => ctlCI_result hc hd (exec_cAddi o s) (add_signExtend _ _)
    · exact fun o => (exec_cLi o s).trans (ctlDo_ok hc _ rfl)
    · intro o ha y r
      refine ⟨cMv_full hc ha, fun hd => ?_⟩
      exact ⟨ctlCR_result hc ha hd (exec_cAdd o s) rfl, ctlCR_result hc ha hd (exec_cSub o s) rfl, ctlCR_result hc ha hd (exec_cAnd o s) rfl,
        ctlCR_result hc ha hd (exec_cOr o s) rfl, ctlCR_result hc ha hd (exec_cXor o s) rfl⟩
    · exact fun o hd => (exec_cAddi o s).trans (ctlCI_waits hc hd)
    · intro o ha
      exact ⟨cMv_waits hc ha, (exec_cAdd o s).trans (ctlCR_waits_src hc ha), (exec_cSub o s).trans (ctlCR_waits_src hc ha),
        (exec_cAnd o s).trans (ctlCR_waits_src hc ha), (exec_cOr o s).trans (ctlCR_waits_src hc ha), (exec_cXor o s).trans (ctlCR_waits_src hc ha)⟩
    · intro o hd
      exact ⟨(exec_cAdd o s).trans (ctlCR_waits_dest hc hd), (exec_cSub o s).trans (ctlCR_waits_dest hc hd), (exec_cAnd o s).trans (ctlCR_waits_dest hc hd),
        (exec_cOr o s).trans (ctlCR_waits_dest hc hd), (exec_cXor o s).trans (ctlCR_waits_dest hc hd)⟩
  · intro o hna w
    have hw : (o.na != 3) = true := bne_iff_ne.2 hna
    exact ⟨decode_encoded (Encoding.add o) hw, decode_encoded (Encoding.sub o) hw, decode_encoded (Encoding.and o) hw, decode_encoded (Encoding.or o) hw,
      decode_encoded (Encoding.xor o) hw, decode_encoded (Encoding.sll o) hw, decode_encoded (Encoding.srl o) hw, decode_encoded (Encoding.sra o) hw,
      decode_encoded (Encoding.ror o) hw, decode_encoded (Encoding.min o) hw, decode_encoded (Encoding.max o) hw, decode_encoded (Encoding.minu o) hw,
      decode_encoded (Encoding.maxu o) hw⟩
  · intro o hna w
    have hw : (o.na != 3) = true := bne_iff_ne.2 hna
    exact ⟨decode_encoded (Encoding.clz o) hw, decode_encoded (Encoding.ctz o) hw, decode_encoded (Encoding.popc o) hw, decode_encoded (Encoding.sextw o) hw,
      decode_encoded (Encoding.zextw o) hw⟩
  · intro w i hm hbad h
    obtain ⟨hmin, hunary⟩ := decAlu_legal (decodeCtl32_alu hm h)
    obtain hbad | ⟨hlow, hbad⟩ := hbad
    · omega
    · exact hbad (hunary hlow)

/-- Settles O2: as O1 for the words with an immediate, products and quotients; a quotient's corners follow from truncation toward zero. -/
theorem immediateAndProductResults : Obligations.ImmediateAndProductResults := by
  refine ⟨?_, ?_, ?_, ?_, ?_, ?_, ?_⟩
  · intro s d k b hc
    refine ⟨?_, ?_, ?_⟩
    · intro o ha x m r
      exact ⟨ctlI_result hc ha (exec_addi o s) (add_signExtend _ _), ctlI_result hc ha (exec_andi o s) rfl, ctlI_result hc ha (exec_ori o s) rfl,
        ctlI_result hc ha (exec_xori o s) rfl⟩
    · intro o ha x n r
      exact ⟨ctlSh_result hc ha (exec_slli o s) (sllW_eq _ _), ctlSh_result hc ha (exec_srli o s) (srlW_eq _ _),
        ctlSh_result hc ha (exec_srai o s) (sraW_eq _ _), ctlSh_result hc ha (exec_rori o s) (rorW_eq _ o.sh.isLt)⟩
    · intro o
      rw [exec_lui, execLui, exec_addpc, execAddpc, ← signExtend_shiftLeft, ← addpc_value]
      exact ⟨ctlDo_ok hc _ rfl, ctlDo_ok hc _ rfl⟩
  · intro s d k b o hc ha hb x y r
    refine ⟨ctl2_result hc ha hb (exec_mul o s) (mul_eq_ofNat _ _), ctl2_result hc ha hb (exec_mulh o s) rfl, ctl2_result hc ha hb (exec_mulhu o s) rfl,
      ctl2_result hc ha hb (exec_mulhsu o s) rfl, fun hy => ?_, fun hy => ?_⟩
    · exact ⟨ctl2_result hc ha hb (exec_div o s) (divW_zero _ hy), ctl2_result hc ha hb (exec_divu o s) (divuW_zero _ hy),
        ctl2_result hc ha hb (exec_rem o s) (remW_zero _ hy), ctl2_result hc ha hb (exec_remu o s) (remuW_zero _ hy)⟩
    · obtain ⟨q, m, hq, hm, hspec⟩ := divW_remW_spec x hy
      exact ⟨⟨q, m, ctl2_result hc ha hb (exec_div o s) hq, ctl2_result hc ha hb (exec_rem o s) hm, hspec⟩,
        ctl2_result hc ha hb (exec_divu o s) (divuW_ne_zero _ hy), ctl2_result hc ha hb (exec_remu o s) (remuW_ne_zero _ hy)⟩
  · intro o hna
    have hw : (o.na != 3) = true := bne_iff_ne.2 hna
    exact ⟨decode_encoded (Encoding.addi o) hw, decode_encoded (Encoding.andi o) hw, decode_encoded (Encoding.ori o) hw, decode_encoded (Encoding.xori o) hw⟩
  · intro o hna
    have hw : (o.na != 3) = true := bne_iff_ne.2 hna
    exact ⟨decode_encoded (Encoding.slli o) hw, decode_encoded (Encoding.srli o) hw, decode_encoded (Encoding.srai o) hw, decode_encoded (Encoding.rori o) hw⟩
  · intro o hna
    have hw : (o.na != 3) = true := bne_iff_ne.2 hna
    exact ⟨decode_encoded (Encoding.lui o) hw, decode_encoded (Encoding.addpc o) hw⟩
  · intro o hna w
    have hw : (o.na != 3) = true := bne_iff_ne.2 hna
    exact ⟨decode_encoded (Encoding.mul o) hw, decode_encoded (Encoding.mulh o) hw, decode_encoded (Encoding.mulhu o) hw, decode_encoded (Encoding.mulhsu o) hw,
      decode_encoded (Encoding.div o) hw, decode_encoded (Encoding.divu o) hw, decode_encoded (Encoding.rem o) hw, decode_encoded (Encoding.remu o) hw⟩
  · intro w i hbad h
    obtain ⟨hm, hbad⟩ | ⟨hm, hbad⟩ := hbad
    · have := decShift_legal (decodeCtl32_shift hm h)
      omega
    · have := decMul_legal (decodeCtl32_mul hm h)
      omega

/-- Settles O3: as O1 for compares, predicate logic and select; which empty source of `csel` decides is the model's order A, B (log entry 145). -/
theorem predicateResults : Obligations.PredicateResults := by
  refine ⟨?_, ?_, ?_, ?_, ?_, ?_, ?_⟩
  · intro s d k b hc holds
    refine ⟨?_, ?_, ?_, ?_, ?_, ?_, ?_⟩
    · exact fun o _ ha hb => ⟨_, cmp_full hc ha hb, cond_iff _ _ _⟩
    · exact fun o _ ha => ⟨_, cmpi_full hc ha, cond_iff _ _ _⟩
    · intro o p q r
      exact ⟨ctlP_result hc (exec_pand o s) rfl, ctlP_result hc (exec_por o s) rfl, ctlP_result hc (exec_pxor o s) rfl, ctlP_result hc (exec_pandn o s) rfl,
        ctlP_result hc (exec_porn o s) rfl⟩
    · exact fun o => (exec_pnot o s).trans (ctlDo_ok hc _ rfl)
    · exact fun o ha hb => csel_full hc ha hb
    · exact fun o h => csel_waits hc h
    · intro o hbad hheld hopen h
      refine ⟨_, csel_faults hc h, ?_⟩
      rw [ctlFault_legal hbad]
      exact ⟨takeFault_discards hopen, _, takeFault_records hopen hheld, rfl⟩
  · intro o hna hpd hcc
    exact decode_encoded (Encoding.cmp o) (Bool.and_eq_true_iff.2 ⟨na_pd_legal hna hpd, decide_eq_true hcc⟩)
  · intro o hna hpd hcc
    exact decode_encoded (Encoding.cmpi o) (Bool.and_eq_true_iff.2 ⟨na_pd_legal hna hpd, decide_eq_true hcc⟩)
  · intro o hna hpd w
    have hw := na_pd_legal hna hpd
    refine ⟨decode_encoded (Encoding.pand o) hw, decode_encoded (Encoding.por o) hw, decode_encoded (Encoding.pxor o) hw, decode_encoded (Encoding.pandn o) hw,
      decode_encoded (Encoding.porn o) hw, fun hpb => ?_⟩
    obtain ⟨pd, pa, pb, na⟩ := o
    subst hpb
    exact decode_encoded (Encoding.pnot ⟨pd, pa, na⟩) hw
  · intro o hna
    exact decode_encoded (Encoding.csel o) (bne_iff_ne.2 hna)
  · intro w i hbad h
    obtain ⟨hlo, hhi, hpd⟩ | ⟨hm, hbad⟩ | ⟨hm, hbit⟩ := hbad
    · exact pd_ne_zero ⟨hlo, hhi⟩ h hpd
    · obtain ⟨-, hmin, hunused, hpnot⟩ := decPred_legal (decodeCtl32_pred hm h)
      obtain hbad | hbad | ⟨hmin5, hbad⟩ := hbad
      · omega
      · exact hbad hunused
      · exact hbad (hpnot hmin5)
    · exact Bool.false_ne_true ((csel_bit_10 hm h).symm.trans hbit)
  · exact fun r => rfl

end Sys2Proof.Proofs
end

section
/-! SUPPORT. Accumulator banks and the faults of an engine's word (R43, R81, R255, R259, R266): where a row lies, what writing one changes, what a fault leaves; and the statement about `mzero`. -/

namespace Sys2Proof.Proofs

open Sys2Proof Sys2Proof.Machine

/-! ## A slot's projections through an update -/

/-- What an update of one slot keeps is kept in every slot. -/
theorem slot_modSlot_keeps {α : Type} (p : Slot → α) (d : Die) (k j : SlotId) {f : Slot → Slot} (h : ∀ t, p (f t) = p t) :
    p ((d.modSlot k f).slot j) = p (d.slot j) := by
  by_cases hj : k = j
  · subst hj; rw [Die.slot_modSlot_same, h]
  · rw [Die.slot_modSlot_ne d hj]
/-- Everything of a slot but the runs of its engines. -/
def withoutRuns (t : Slot) : Slot := { t with lde := none, are := none, ste := none, mxe := none }
theorem bank_withoutRuns (t : Slot) : (withoutRuns t).bank = t.bank := rfl
theorem ctl_withoutRuns (t : Slot) : (withoutRuns t).ctl = t.ctl := rfl
theorem flt_withoutRuns (t : Slot) : (withoutRuns t).flt = t.flt := rfl

section EngineRun
variable {c : Cur} {k : SlotId} {e : SlotEng} (hc : c.ag = .eng k e) (d : Die)
include hc

theorem setCurRun_engine (r : Option Run) : d.setCurRun c r = d.setRun (.eng k e) r := by
  simp only [Die.setCurRun, hc]
theorem slot_setCurRun (r : Option Run) (j : SlotId) : withoutRuns ((d.setCurRun c r).slot j) = withoutRuns (d.slot j) := by
  rw [setCurRun_engine hc]
  cases e <;> exact slot_modSlot_keeps withoutRuns d k j fun _ => rfl
theorem setCurRun_sched (r : Option Run) : (d.setCurRun c r).sched = d.sched := by
  rw [setCurRun_engine hc]
  cases e <;> rfl
theorem setCurRun_lay (r : Option Run) : (d.setCurRun c r).lay = d.lay := by
  rw [setCurRun_engine hc]
  cases e <;> rfl

end EngineRun

/-! ## A fault of an engine's word (R364, R366) -/

/-- A fault changes at most the run of its agent, before it is recorded (R32). -/
theorem heldTold_cases (d : Die) (c : Cur) (f : FaultAt) : d.heldTold c f = d ∨ ∃ r, d.heldTold c f = d.setCurRun c r := by
  unfold Die.heldTold
  split
  · split
    · split
      · exact .inr ⟨_, rfl⟩
      · exact .inl rfl
    · exact .inl rfl
  · exact .inl rfl

section EngineHeld
variable {c : Cur} {k : SlotId} {e : SlotEng} (hc : c.ag = .eng k e) (d : Die)
include hc

theorem slot_heldTold (f : FaultAt) (j : SlotId) : withoutRuns ((d.heldTold c f).slot j) = withoutRuns (d.slot j) := by
  obtain h | ⟨r, h⟩ := heldTold_cases d c f
  · rw [h]
  · rw [h, slot_setCurRun hc]
theorem heldTold_sched (f : FaultAt) : (d.heldTold c f).sched = d.sched := by
  obtain h | ⟨r, h⟩ := heldTold_cases d c f
  · rw [h]
  · rw [h, setCurRun_sched hc]

end EngineHeld

/-- Which record an agent still has open is decided by its strand and the scheduler. -/
theorem openRec_congr {s t : State} {d : DieId} {k : SlotId} (a : Nat) (hown : (t.ctl d k).own = (s.ctl d k).own) (hsched : (t.die d).sched = (s.die d).sched) :
    t.openRec d k a = s.openRec d k a := by
  have hblk : (t.die d).ownBlk k = (s.die d).ownBlk k := by
    unfold Die.ownBlk
    rw [hsched, show ((t.die d).slot k).ctl.own = ((s.die d).slot k).ctl.own from hown]
  unfold State.openRec
  rw [hown, hblk]
/-- A fault of another agent than a control core is recorded at its slot, and nothing else changes. -/
theorem takeFault_engine {s : State} {d : DieId} {k : SlotId} {a : Nat} (f : FaultAt) (ha : a ≠ 0) (ho : s.openRec d k a = none) :
    takeFault s d k a f = s.modSlot d k fun t =>
      { t with flt := vmod t.flt (agNum a) fun p => p.or (some ⟨(s.die d).faultRec d k a f, none, none⟩) } := by
  have h0 : (a == 0) = false := beq_eq_false_iff_ne.2 ha
  rw [takeFault_none f ho]
  refine congrArg (s.modSlot d k) (funext fun t => ?_)
  simp only [h0, Bool.false_and, Bool.false_eq_true, if_false]
  refine congrArg (fun g => { t with flt := vmod t.flt (agNum a) g }) (funext fun p => ?_)
  cases p <;> rfl

section EngineFault
variable {s : State} {c : Cur} {k : SlotId} {e : SlotEng} {r : Run} (hc : c.ag = .eng k e)
include hc

theorem agentFault_engine (f : FaultAt) : agentFault s c r f = takeFault (s.modDie c.die fun d => d.heldTold c f) c.die r.slot (engNum e) f := by
  simp only [agentFault, Die.ctxOf, Die.dirOwn, hc, agentNo]
theorem openRec_heldTold (f : FaultAt) (j : SlotId) (a : Nat) :
    (s.modDie c.die fun d => d.heldTold c f).openRec c.die j a = s.openRec c.die j a := by
  refine openRec_congr a ?_ ?_
  · simp only [State.ctl, State.slot, State.die_modDie_same]
    rw [← ctl_withoutRuns, slot_heldTold hc, ctl_withoutRuns]
  · rw [State.die_modDie_same, heldTold_sched hc]

variable (ho : s.openRec c.die r.slot (engNum e) = none)
include ho

/-- A fault of an engine changes no accumulator bank. -/
theorem bank_agentFault (f : FaultAt) (j : SlotId) : ((agentFault s c r f).slot c.die j).bank = (s.slot c.die j).bank := by
  have he : engNum e ≠ 0 := by cases e <;> decide
  rw [agentFault_engine hc, takeFault_engine f he ((openRec_heldTold hc f _ _).trans ho)]
  simp only [State.slot, State.die_modSlot_same, State.die_modDie_same]
  refine (slot_modSlot_keeps Slot.bank _ r.slot j ?_).trans ?_
  · exact fun _ => rfl
  · rw [← bank_withoutRuns, slot_heldTold hc, bank_withoutRuns]
/-- A fault of an engine that no fault holds yet is held with it, with its code, address and unit. -/
theorem agentFault_held (hf : (s.slot c.die r.slot).heldBy (engNum e) = false) (f : FaultAt) :
    HeldFault (.next (agentFault s c r f)) c.die r.slot (engNum e) f.code f.addr f.unit := by
  have he : engNum e ≠ 0 := by cases e <;> decide
  have hflt : vget (s.slot c.die r.slot).flt (agNum (engNum e)) = none := Option.isNone_iff_eq_none.1 (Option.isSome_eq_false_iff.1 hf)
  have hkept : vget ((s.modDie c.die fun d => d.heldTold c f).slot c.die r.slot).flt (agNum (engNum e)) = none := by
    rw [State.slot, State.die_modDie_same, ← flt_withoutRuns, slot_heldTold hc, flt_withoutRuns]
    exact hflt
  refine ⟨_, rfl, ⟨((s.modDie c.die fun d => d.heldTold c f).die c.die).faultRec c.die r.slot (engNum e) f, none, none⟩, ?_, rfl, rfl, rfl⟩
  rw [agentFault_engine hc, takeFault_engine f he ((openRec_heldTold hc f _ _).trans ho), State.slot_modSlot_same]
  simp only [vget_vmod_same, hkept, Option.none_or]

end EngineFault

/-! ## Where an accumulator row lies (R43) -/

theorem accPlace_slot (b : SlotId) (row c : Nat) : (accPlace b row c).1 = mkSlot (b.val + (2 * (row / 128) + c / 512)) :=
  congrArg mkSlot (by omega)
/-- Different bands and sides of a fragment lie in different slots. -/
theorem accPlace_injective {b : SlotId} {row row' c c' : Nat} (hr : row < 512) (hr' : row' < 512) (hc : c < 1024) (hc' : c' < 1024)
    (h : (accPlace b row c).1 = (accPlace b row' c').1) : row / 128 = row' / 128 ∧ c / 512 = c' / 512 := by
  rw [accPlace_slot, accPlace_slot, Fin.ext_iff] at h
  simp only [mkSlot] at h
  omega

/-! ## Bits of a poison vector -/

theorem getLsbD_bvPut {n i : Nat} (v : BitVec n) (hi : i < n) (b : Bool) (j : Nat) :
    (bvPut v i b).getLsbD j = if j = i then b else v.getLsbD j := by
  by_cases hj : j = i
  · subst hj
    cases b <;> simp [bvPut, hi]
  · have hbit : (1#n <<< i).getLsbD j = false := by
      rw [BitVec.getLsbD_shiftLeft, BitVec.getLsbD_one]
      simp; omega
    cases b with
    | true => simp [bvPut, hj, hbit]
    | false =>
      rw [if_neg hj, bvPut, if_neg Bool.false_ne_true, BitVec.getLsbD_and, BitVec.getLsbD_not, hbit]
      cases hv : v.getLsbD j with
      | false => rfl
      | true => simp [BitVec.lt_of_getLsbD hv]

/-! ## A write of one accumulator row, and its poison -/

/-- Every accumulator bank of a die is in canonical form. -/
def BanksWf (d : Die) : Prop := ∀ k, spWf (0 : W32) (d.slot k).bank.acc = true
/-- A bank with `vs` written from its first column on into the bank row of fragment row `row`. -/
def writeBank (row : Nat) (vs : List W32) (x : Bank) : Bank := { x with acc := spWrite 0 x.acc (512 * (row % 128)) vs }
/-- A bank with the poison of the bank row of fragment row `row` set to `v`. -/
def markBank (row : Nat) (v : Bool) (x : Bank) : Bank := { x with accPsn := bvPut x.accPsn (row % 128) v }
/-- The poison bit of the part of a row that lies in the bank of column `c`. -/
def psnPart (d : Die) (b : SlotId) (row c : Nat) : Bool := (d.slot (accPlace b row c).1).bank.accPsn.getLsbD (row % 128)

theorem putAccRow_eq (d : Die) (b : SlotId) (row : Nat) (vs : List W32) :
    d.putAccRow b row vs =
      if vs.length ≤ 512 then d.modBank (accPlace b row 0).1 (writeBank row (vs.take 512))
      else (d.modBank (accPlace b row 0).1 (writeBank row (vs.take 512))).modBank (accPlace b row 512).1 (writeBank row (vs.drop 512)) := rfl
theorem setAccPsn_eq (d : Die) (b : SlotId) (row : Nat) (v : Bool) :
    d.setAccPsn b row v =
      if d.twoSided b then (d.modBank (accPlace b row 0).1 (markBank row v)).modBank (accPlace b row 512).1 (markBank row v)
      else d.modBank (accPlace b row 0).1 (markBank row v) := by
  unfold Die.setAccPsn
  cases d.twoSided b <;> rfl
theorem accPsn_eq (d : Die) (b : SlotId) (row : Nat) : d.accPsn b row = (psnPart d b row 0 || (d.twoSided b && psnPart d b row 512)) := rfl

theorem bank_modBank (d : Die) (k j : SlotId) (f : Bank → Bank) : ((d.modBank k f).slot j).bank = if k = j then f (d.slot j).bank else (d.slot j).bank := by
  unfold Die.modBank
  by_cases h : k = j
  · subst h; rw [if_pos rfl, Die.slot_modSlot_same]
  · rw [if_neg h, Die.slot_modSlot_ne d h]
theorem twoSided_congr {d e : Die} (b : SlotId) (h : e.lay = d.lay) : e.twoSided b = d.twoSided b := by
  unfold Die.twoSided Die.layOf
  rw [h]
theorem accGet_eq (d : Die) (b : SlotId) (row c : Nat) : d.accGet b row c = spGet 0 (d.slot (accPlace b row c).1).bank.acc (512 * (row % 128) + c % 512) := rfl
theorem accGet_congr {d e : Die} (b : SlotId) (row c : Nat) (h : ∀ j, (e.slot j).bank = (d.slot j).bank) : e.accGet b row c = d.accGet b row c := by
  rw [accGet_eq, accGet_eq, h]
theorem accPsn_congr {d e : Die} (b : SlotId) (row : Nat) (hlay : e.lay = d.lay) (h : ∀ j, (e.slot j).bank = (d.slot j).bank) : e.accPsn b row = d.accPsn b row := by
  rw [accPsn_eq, accPsn_eq, twoSided_congr b hlay, psnPart, psnPart, psnPart, psnPart, h, h]
theorem bank_setCurRun {c : Cur} {k : SlotId} {e : SlotEng} (hc : c.ag = .eng k e) (d : Die) (r : Option Run) (j : SlotId) : ((d.setCurRun c r).slot j).bank = (d.slot j).bank := by
  rw [← bank_withoutRuns, slot_setCurRun hc, bank_withoutRuns]
theorem accGet_setCurRun {c : Cur} {k : SlotId} {e : SlotEng} (hc : c.ag = .eng k e) (d : Die) (r : Option Run) (b : SlotId) (row col : Nat) :
    (d.setCurRun c r).accGet b row col = d.accGet b row col :=
  accGet_congr b row col (bank_setCurRun hc d r)
theorem accPsn_setCurRun {c : Cur} {k : SlotId} {e : SlotEng} (hc : c.ag = .eng k e) (d : Die) (r : Option Run) (b : SlotId) (row : Nat) :
    (d.setCurRun c r).accPsn b row = d.accPsn b row :=
  accPsn_congr b row (setCurRun_lay hc d r) (bank_setCurRun hc d r)

theorem banksWf_modBank {d : Die} (k : SlotId) {f : Bank → Bank} (h : BanksWf d) (hf : ∀ x : Bank, spWf 0 x.acc = true → spWf 0 (f x).acc = true) :
    BanksWf (d.modBank k f) := by
  intro j
  rw [bank_modBank]
  split
  · exact hf _ (h j)
  · exact h j
theorem banksWf_writeBank {d : Die} (k : SlotId) (row : Nat) (vs : List W32) (h : BanksWf d) : BanksWf (d.modBank k (writeBank row vs)) :=
  banksWf_modBank k h fun _ hx => spWf_spWrite 0 _ _ _ hx
theorem banksWf_putAccRow {d : Die} (b : SlotId) (row : Nat) (vs : List W32) (h : BanksWf d) : BanksWf (d.putAccRow b row vs) := by
  rw [putAccRow_eq]
  split
  · exact banksWf_writeBank _ _ _ h
  · exact banksWf_writeBank _ _ _ (banksWf_writeBank _ _ _ h)
theorem acc_markBank (d : Die) (k j : SlotId) (row : Nat) (v : Bool) : ((d.modBank k (markBank row v)).slot j).bank.acc = (d.slot j).bank.acc := by
  rw [bank_modBank]
  split <;> rfl
/-- Poison of a row is no part of any row's values. -/
theorem acc_setAccPsn (d : Die) (b j : SlotId) (row : Nat) (v : Bool) : ((d.setAccPsn b row v).slot j).bank.acc = (d.slot j).bank.acc := by
  rw [setAccPsn_eq]
  split
  · rw [acc_markBank, acc_markBank]
  · rw [acc_markBank]
theorem banksWf_setAccPsn {d : Die} (b : SlotId) (row : Nat) (v : Bool) (h : BanksWf d) : BanksWf (d.setAccPsn b row v) := by
  intro j
  rw [acc_setAccPsn]
  exact h j
theorem accGet_setAccPsn (d : Die) (b : SlotId) (row : Nat) (v : Bool) (row' c : Nat) : (d.setAccPsn b row v).accGet b row' c = d.accGet b row' c := by
  rw [accGet_eq, accGet_eq, acc_setAccPsn]
@[simp] theorem mem_putAccRow (d : Die) (b : SlotId) (row : Nat) (vs : List W32) : (d.putAccRow b row vs).mem = d.mem := by
  rw [putAccRow_eq]; split <;> rfl
@[simp] theorem lay_putAccRow (d : Die) (b : SlotId) (row : Nat) (vs : List W32) : (d.putAccRow b row vs).lay = d.lay := by
  rw [putAccRow_eq]; split <;> rfl
@[simp] theorem mem_setAccPsn (d : Die) (b : SlotId) (row : Nat) (v : Bool) : (d.setAccPsn b row v).mem = d.mem := by
  rw [setAccPsn_eq]; split <;> rfl
@[simp] theorem lay_setAccPsn (d : Die) (b : SlotId) (row : Nat) (v : Bool) : (d.setAccPsn b row v).lay = d.lay := by
  rw [setAccPsn_eq]; split <;> rfl

section Rows
variable {d : Die} {b : SlotId} {row row' c c0 : Nat} (hr : row < 512) (hr' : row' < 512) (hc : c < 1024)
include hr hr' hc

/-- The side that starts at column `c0`: a write there changes the columns it holds of its own row, and no other. -/
theorem accGet_writeBank {vs : List W32} (hwf : BanksWf d) (h0 : c0 % 512 = 0) (hc0 : c0 < 1024) (hvs : vs.length ≤ 512) :
    (d.modBank (accPlace b row c0).1 (writeBank row vs)).accGet b row' c =
      if row' = row ∧ c0 ≤ c ∧ c < c0 + vs.length then vs.getD (c - c0) 0 else d.accGet b row' c := by
  rw [accGet_eq, accGet_eq, bank_modBank]
  by_cases hs : (accPlace b row c0).1 = (accPlace b row' c).1
  · obtain ⟨hband, hside⟩ := accPlace_injective hr hr' hc0 hc hs
    have hkey : 512 * (row % 128) ≤ 512 * (row' % 128) + c % 512 ∧ 512 * (row' % 128) + c % 512 < 512 * (row % 128) + vs.length ↔
        row' = row ∧ c0 ≤ c ∧ c < c0 + vs.length := by omega
    rw [if_pos hs, writeBank, spGet_spWrite 0 _ _ _ _ (hwf _)]
    rw [if_congr hkey rfl rfl]
    refine ite_congr rfl (fun hin => ?_) fun _ => rfl
    obtain ⟨rfl, hlo, hhi⟩ := hin
    congr 1
    omega
  · have hout : ¬(row' = row ∧ c0 ≤ c ∧ c < c0 + vs.length) := by
      rintro ⟨rfl, hlo, hhi⟩
      refine hs ?_
      rw [accPlace_slot, accPlace_slot, show c / 512 = c0 / 512 by omega]
    rw [if_neg hs, if_neg hout]

/-- A row of at most 1024 values is written from column 0 on, and every other row keeps its values. -/
theorem accGet_putAccRow {vs : List W32} (hwf : BanksWf d) (hvs : vs.length ≤ 1024) :
    (d.putAccRow b row vs).accGet b row' c = if row' = row ∧ c < vs.length then vs.getD c 0 else d.accGet b row' c := by
  have hlo : (d.modBank (accPlace b row 0).1 (writeBank row (vs.take 512))).accGet b row' c =
      if row' = row ∧ c < 512 ∧ c < vs.length then vs.getD c 0 else d.accGet b row' c := by
    rw [accGet_writeBank hr hr' hc hwf rfl (by omega) (List.length_take_le _ _)]
    have hin : (row' = row ∧ 0 ≤ c ∧ c < 0 + (vs.take 512).length) ↔ row' = row ∧ c < 512 ∧ c < vs.length := by
      rw [List.length_take]; omega
    rw [if_congr hin rfl rfl]
    refine ite_congr rfl (fun ⟨_, hlt, _⟩ => ?_) fun _ => rfl
    rw [List.getD_eq_getElem?_getD, List.getD_eq_getElem?_getD, Nat.sub_zero, List.getElem?_take_of_lt hlt]
  rw [putAccRow_eq]
  split
  · rw [hlo]
    exact if_congr (by omega) rfl rfl
  · have hlen : (vs.drop 512).length = vs.length - 512 := List.length_drop
    rw [accGet_writeBank hr hr' hc (banksWf_writeBank _ _ _ hwf) rfl (by omega) (by omega), hlo]
    by_cases hhi : row' = row ∧ 512 ≤ c ∧ c < 512 + (vs.drop 512).length
    · rw [if_pos hhi, if_pos (by omega), List.getD_eq_getElem?_getD, List.getD_eq_getElem?_getD, List.getElem?_drop, show 512 + (c - 512) = c by omega]
    · rw [if_neg hhi]
      exact if_congr (by omega) rfl rfl

/-- A mark of the bank at column `c0` changes the poison of its own row there, and no other. -/
theorem psnPart_markBank (v : Bool) (hc0 : c0 < 1024) :
    psnPart (d.modBank (accPlace b row c0).1 (markBank row v)) b row' c = if row' = row ∧ c / 512 = c0 / 512 then v else psnPart d b row' c := by
  unfold psnPart
  rw [bank_modBank]
  by_cases hs : (accPlace b row c0).1 = (accPlace b row' c).1
  · obtain ⟨hband, hside⟩ := accPlace_injective hr hr' hc0 hc hs
    rw [if_pos hs, markBank, getLsbD_bvPut _ (Nat.mod_lt _ (by decide))]
    exact if_congr (by omega) rfl rfl
  · have hout : ¬(row' = row ∧ c / 512 = c0 / 512) := by
      rintro ⟨rfl, hside⟩
      refine hs ?_
      rw [accPlace_slot, accPlace_slot, hside]
    rw [if_neg hs, if_neg hout]

end Rows

/-- The poison of a row is what it was last set to, and that of every other row stays. -/
theorem accPsn_setAccPsn {d : Die} {b : SlotId} {row row' : Nat} (hr : row < 512) (hr' : row' < 512) (v : Bool) :
    (d.setAccPsn b row v).accPsn b row' = if row' = row then v else d.accPsn b row' := by
  rw [accPsn_eq, accPsn_eq, twoSided_congr b (lay_setAccPsn d b row v), setAccPsn_eq]
  by_cases h : row' = row
  · subst h; cases d.twoSided b <;> simp [psnPart_markBank hr hr]
  · cases d.twoSided b <;> simp [psnPart_markBank hr hr', h]
theorem psnPart_writeBank (d : Die) (k b : SlotId) (row row' c : Nat) (vs : List W32) : psnPart (d.modBank k (writeBank row vs)) b row' c = psnPart d b row' c := by
  unfold psnPart
  rw [bank_modBank]
  split <;> rfl
theorem accPsn_putAccRow (d : Die) (b : SlotId) (row row' : Nat) (vs : List W32) : (d.putAccRow b row vs).accPsn b row' = d.accPsn b row' := by
  rw [accPsn_eq, accPsn_eq, twoSided_congr b (lay_putAccRow d b row vs), putAccRow_eq]
  split <;> simp only [psnPart_writeBank]

/-! ## Rows set to the identity, one after another (R259) -/

/-- Row `row` of a fragment with the identity in every column, and without poison. -/
def zeroRow (f : Frag) (row : Nat) (d : Die) : Die := (d.putAccRow f.b row (List.replicate f.cols f.y.semi.ident)).setAccPsn f.b row false
/-- The `n` rows from `arow` on set to the identity. -/
def zeroRows (f : Frag) (arow n : Nat) (d : Die) : Die := (List.range n).foldl (fun d i => zeroRow f (arow + i) d) d

theorem zeroRows_succ (f : Frag) (arow n : Nat) (d : Die) : zeroRows f arow (n + 1) d = zeroRow f (arow + n) (zeroRows f arow n d) := by
  simp only [zeroRows, List.range_succ, List.foldl_append, List.foldl_cons, List.foldl_nil]
theorem mem_zeroRows (f : Frag) (arow n : Nat) (d : Die) : (zeroRows f arow n d).mem = d.mem := by
  induction n with
  | zero => rfl
  | succ n ih => rw [zeroRows_succ, zeroRow, mem_setAccPsn, mem_putAccRow, ih]
theorem banksWf_zeroRows (f : Frag) (arow n : Nat) {d : Die} (h : BanksWf d) : BanksWf (zeroRows f arow n d) := by
  induction n with
  | zero => exact h
  | succ n ih => rw [zeroRows_succ, zeroRow]; exact banksWf_setAccPsn _ _ _ (banksWf_putAccRow _ _ _ ih)

theorem cols_le (f : Frag) : f.cols ≤ 1024 := by
  have h : ∀ sh, shapeSides sh ≤ 2 := by decide
  have := h f.y.shape
  unfold Frag.cols
  omega
theorem rows_le (f : Frag) : f.rows ≤ 512 := by
  have h : ∀ sh, shapeBands sh ≤ 4 := by decide
  have := h f.y.shape
  unfold Frag.rows
  omega
theorem accGet_zeroRow {f : Frag} {d : Die} {row row' c : Nat} (hwf : BanksWf d) (hr : row < 512) (hr' : row' < 512) (hc : c < f.cols) :
    (zeroRow f row d).accGet f.b row' c = if row' = row then f.y.semi.ident else d.accGet f.b row' c := by
  have hlen : (List.replicate f.cols f.y.semi.ident).length = f.cols := List.length_replicate
  rw [zeroRow, accGet_setAccPsn, accGet_putAccRow hr hr' (hc.trans_le (cols_le f)) hwf (hlen.trans_le (cols_le f))]
  simp [hc]
theorem accGet_zeroRows {f : Frag} {d : Die} {arow n row c : Nat} (hwf : BanksWf d) (hn : arow + n ≤ 512) (hr : row < 512) (hc : c < f.cols) :
    (zeroRows f arow n d).accGet f.b row c = if arow ≤ row ∧ row < arow + n then f.y.semi.ident else d.accGet f.b row c := by
  induction n with
  | zero => rw [if_neg (by omega)]; rfl
  | succ n ih =>
    rw [zeroRows_succ, accGet_zeroRow (banksWf_zeroRows f arow n hwf) (by omega) hr hc, ih (by omega)]
    by_cases hlast : row = arow + n
    · rw [if_pos hlast, if_pos (by omega)]
    · rw [if_neg hlast]
      exact if_congr (by omega) rfl rfl
theorem accPsn_zeroRows {f : Frag} {d : Die} {arow n i : Nat} (hn : arow + n ≤ 512) (hi : i < n) : (zeroRows f arow n d).accPsn f.b (arow + i) = false := by
  induction n with
  | zero => omega
  | succ n ih =>
    rw [zeroRows_succ, zeroRow, accPsn_setAccPsn (by omega) (by omega), accPsn_putAccRow]
    by_cases hlast : arow + i = arow + n
    · rw [if_pos hlast]
    · rw [if_neg hlast, ih (by omega) (by omega)]

/-! ## The word `mzero` -/

/-- A window within its limits ends within the rows of the fragment (R255). -/
theorem winOk_rows {f : Frag} {mask w : Word} {n : Nat} (h : winOk f mask w n = true) : fld w 0 9 + n ≤ f.rows := by
  simp only [winOk, Bool.and_eq_true, decide_eq_true_eq] at h
  obtain ⟨-, hrows⟩ := h
  exact hrows

section Mzero
variable {s : State} {d : DieId} {k : SlotId} {r : Run} {o : EOp}

theorem exec_mzero_run (h : AtRun s d (.eng k .mxe) r) : exec (.mzero o) s = .next (mzeroStep s ⟨d, .eng k .mxe, 8⟩ r o) := by
  obtain ⟨hcur, hrun⟩ := h
  rw [exec_mzero, execMzero, engDo_run _ (hcur ▸ hrun), hcur]
theorem mzeroStep_zeroes {c : Cur} (hw : winOk (s.frag c) maskMzero (r.par o.f3) (fld (r.par o.f3) 48 10) = true) (hn : fld (r.par o.f3) 48 10 ≠ 0) :
    mzeroStep s c r o = (s.modDie c.die (zeroRows (s.frag c) (fld (r.par o.f3) 0 9) (fld (r.par o.f3) 48 10))).setRun c (r.adv o.na) := by
  have hgo : ¬((!winOk (s.frag c) maskMzero (r.par o.f3) (winOf (r.par o.f3)).acnt || (winOf (r.par o.f3)).acnt = 0) = true) := by
    simp [winOf, hw, hn]
  exact if_neg hgo
theorem mzeroStep_faults {c : Cur} (h : winOk (s.frag c) maskMzero (r.par o.f3) (fld (r.par o.f3) 48 10) = false ∨ fld (r.par o.f3) 48 10 = 0) :
    mzeroStep s c r o = startFault s c r 14 0 := by
  refine if_pos ?_
  obtain h | h := h <;> simp [winOf, h]

end Mzero

/-- Settles O33: the rows of the window are set one after another, each in banks of its own (`accPlace_injective`), and a window outside its limits raises the fault before any row. -/
theorem zeroedAccumulators : Obligations.ZeroedAccumulators := by
  intro s d k r o hrun f e arow acnt
  have hag : (⟨d, .eng k .mxe, 8⟩ : Cur).ag = .eng k .mxe := rfl
  refine ⟨fun hs hw hn => ?_, fun hbad hfree hopen => ?_⟩
  · have hrows : arow + acnt ≤ 512 := (winOk_rows hw).trans (rows_le f)
    have hwf : BanksWf (s.die d) := hs.bank d
    refine ⟨_, (exec_mzero_run hrun).trans (congrArg _ (mzeroStep_zeroes hw hn)), ?_, ?_, ?_, ?_⟩
    · simp only [State.setRun, State.slot, State.die_modDie_same, setCurRun_engine hag, Die.setRun, Die.slot_modSlot_same]
    · exact (sameMem_modDie s d _ (mem_zeroRows f arow acnt _)).trans (setRun_sameMem _ _ _)
    · intro row hr c hc
      rw [State.setRun, State.die_modDie_same, State.die_modDie_same, accGet_setCurRun hag]
      exact accGet_zeroRows hwf hrows hr hc
    · intro i hi
      rw [State.setRun, State.die_modDie_same, State.die_modDie_same, accPsn_setCurRun hag]
      exact accPsn_zeroRows hrows hi
  · rw [exec_mzero_run hrun, mzeroStep_faults hbad]
    refine ⟨agentFault_held hag hopen hfree _, _, rfl, fun row c => ?_⟩
    exact accGet_congr k row c (bank_agentFault hag hopen _)

end Sys2Proof.Proofs
end

section
/-! SUPPORT. Decoder and encoder agree (R126 to R149): the round trip from the encoder, assembled from the lemma of each instruction; and the other direction, layout by layout: what a layout's reader takes out of a word, its writer puts back. -/

namespace Sys2Proof.Proofs

open Sys2Proof Sys2Proof.Machine Sys2Proof.Laws

/-- An event has no encoding and stands at no place. -/
theorem encoding_of_no_place {i : Instr} (h : i.place = none) : Encoding.Statement i :=
  fun _ _ _ _ hp _ => nomatch h.symm.trans hp

/-- Settles O58: the lemma of each instruction that has a place, constructor by constructor; an event has none. -/
theorem encodingRoundTrip : Obligations.EncodingRoundTrip := by
  intro i
  cases i with
  | blockHeader o => exact Encoding.blockHeader o | switchPointHeader o => exact Encoding.switchPointHeader o | relativeExit o => exact Encoding.relativeExit o
  | jumpExit o => exact Encoding.jumpExit o | callExit o => exact Encoding.callExit o | returnExit o => exact Encoding.returnExit o | nop => exact Encoding.nop
  | cAddi o => exact Encoding.cAddi o | cLi o => exact Encoding.cLi o | cMv o => exact Encoding.cMv o | cAdd o => exact Encoding.cAdd o | cSub o => exact Encoding.cSub o
  | cAnd o => exact Encoding.cAnd o | cOr o => exact Encoding.cOr o | cXor o => exact Encoding.cXor o | add o => exact Encoding.add o | sub o => exact Encoding.sub o
  | and o => exact Encoding.and o | or o => exact Encoding.or o | xor o => exact Encoding.xor o | sll o => exact Encoding.sll o | srl o => exact Encoding.srl o | sra o => exact Encoding.sra o
  | ror o => exact Encoding.ror o | min o => exact Encoding.min o | max o => exact Encoding.max o | minu o => exact Encoding.minu o | maxu o => exact Encoding.maxu o
  | clz o => exact Encoding.clz o | ctz o => exact Encoding.ctz o | popc o => exact Encoding.popc o | sextw o => exact Encoding.sextw o | zextw o => exact Encoding.zextw o
  | mul o => exact Encoding.mul o | mulh o => exact Encoding.mulh o | mulhu o => exact Encoding.mulhu o | mulhsu o => exact Encoding.mulhsu o | div o => exact Encoding.div o
  | divu o => exact Encoding.divu o | rem o => exact Encoding.rem o | remu o => exact Encoding.remu o | addi o => exact Encoding.addi o | andi o => exact Encoding.andi o
  | ori o => exact Encoding.ori o | xori o => exact Encoding.xori o | slli o => exact Encoding.slli o | srli o => exact Encoding.srli o | srai o => exact Encoding.srai o
  | rori o => exact Encoding.rori o | lui o => exact Encoding.lui o | addpc o => exact Encoding.addpc o | cmp o => exact Encoding.cmp o | cmpi o => exact Encoding.cmpi o
  | pand o => exact Encoding.pand o | por o => exact Encoding.por o | pxor o => exact Encoding.pxor o | pandn o => exact Encoding.pandn o | porn o => exact Encoding.porn o
  | pnot o => exact Encoding.pnot o | csel o => exact Encoding.csel o | ldb o => exact Encoding.ldb o | ldh o => exact Encoding.ldh o | ldw o => exact Encoding.ldw o
  | ldd o => exact Encoding.ldd o | ldbu o => exact Encoding.ldbu o | ldhu o => exact Encoding.ldhu o | ldwu o => exact Encoding.ldwu o | stb o => exact Encoding.stb o
  | sth o => exact Encoding.sth o | stw o => exact Encoding.stw o | std o => exact Encoding.std o | amoadd o => exact Encoding.amoadd o | amoand o => exact Encoding.amoand o
  | amoor o => exact Encoding.amoor o | amoxor o => exact Encoding.amoxor o | amomin o => exact Encoding.amomin o | amomax o => exact Encoding.amomax o | amoswap o => exact Encoding.amoswap o
  | amocas o => exact Encoding.amocas o | fenceAcq o => exact Encoding.fenceAcq o | fenceRel o => exact Encoding.fenceRel o | fenceFull o => exact Encoding.fenceFull o
  | enqLde o => exact Encoding.enqLde o | enqAre o => exact Encoding.enqAre o | enqSte o => exact Encoding.enqSte o | enqMxe o => exact Encoding.enqMxe o | enqCpe o => exact Encoding.enqCpe o
  | enqCoe o => exact Encoding.enqCoe o | tsig o => exact Encoding.tsig o | twait o => exact Encoding.twait o | semset o => exact Encoding.semset o | semadd o => exact Encoding.semadd o
  | semwait o => exact Encoding.semwait o | semwaitSusp o => exact Encoding.semwaitSusp o | pop o => exact Encoding.pop o | popNb o => exact Encoding.popNb o
  | mlease o => exact Encoding.mlease o | mrlse o => exact Encoding.mrlse o | split o => exact Encoding.split o | fuse o => exact Encoding.fuse o | chain o => exact Encoding.chain o
  | unchain o => exact Encoding.unchain o | arv o => exact Encoding.arv o | wtb o => exact Encoding.wtb o | publq o => exact Encoding.publq o | hint o => exact Encoding.hint o
  | wpv o => exact Encoding.wpv o | wpvSusp o => exact Encoding.wpvSusp o | susp o => exact Encoding.susp o | csrr o => exact Encoding.csrr o | csrw o => exact Encoding.csrw o
  | sysc o => exact Encoding.sysc o | trap o => exact Encoding.trap o | eret o => exact Encoding.eret o | freeh o => exact Encoding.freeh o | tick o => exact Encoding.tick o
  | rfence o => exact Encoding.rfence o | ldr o => exact Encoding.ldr o | ldt o => exact Encoding.ldt o | ldrec o => exact Encoding.ldrec o | ldx o => exact Encoding.ldx o
  | ldsc o => exact Encoding.ldsc o | pcfg o => exact Encoding.pcfg o | pfx o => exact Encoding.pfx o | ldv o => exact Encoding.ldv o | str o => exact Encoding.str o
  | stt o => exact Encoding.stt o | strec o => exact Encoding.strec o | stx o => exact Encoding.stx o | stsc o => exact Encoding.stsc o | stv o => exact Encoding.stv o
  | publ o => exact Encoding.publ o | areAdd o => exact Encoding.areAdd o | areSub o => exact Encoding.areSub o | areMul o => exact Encoding.areMul o | fma o => exact Encoding.fma o
  | areMin o => exact Encoding.areMin o | areMax o => exact Encoding.areMax o | abs o => exact Encoding.abs o | neg o => exact Encoding.neg o | exp2 o => exact Encoding.exp2 o
  | log2 o => exact Encoding.log2 o | rcp o => exact Encoding.rcp o | rsq o => exact Encoding.rsq o | tanh o => exact Encoding.tanh o | areCmp o => exact Encoding.areCmp o
  | sel o => exact Encoding.sel o | redSum o => exact Encoding.redSum o | redMax o => exact Encoding.redMax o | redMin o => exact Encoding.redMin o | redSsq o => exact Encoding.redSsq o
  | redAmax o => exact Encoding.redAmax o | redqSum o => exact Encoding.redqSum o | redqMax o => exact Encoding.redqMax o | redqMin o => exact Encoding.redqMin o
  | redqSsq o => exact Encoding.redqSsq o | redqAmax o => exact Encoding.redqAmax o | bcastRow o => exact Encoding.bcastRow o | bcastElem o => exact Encoding.bcastElem o
  | bcastScal o => exact Encoding.bcastScal o | iota o => exact Encoding.iota o | trn o => exact Encoding.trn o | shufPerm o => exact Encoding.shufPerm o
  | shufRot o => exact Encoding.shufRot o | shufRev o => exact Encoding.shufRev o | cvt o => exact Encoding.cvt o | qnt o => exact Encoding.qnt o | dqt o => exact Encoding.dqt o
  | areAnd o => exact Encoding.areAnd o | areOr o => exact Encoding.areOr o | areXor o => exact Encoding.areXor o | not o => exact Encoding.not o | shl o => exact Encoding.shl o
  | shr o => exact Encoding.shr o | areSra o => exact Encoding.areSra o | mov o => exact Encoding.mov o | mldb o => exact Encoding.mldb o | mcb o => exact Encoding.mcb o
  | msemi o => exact Encoding.msemi o | mmul o => exact Encoding.mmul o | mmulm o => exact Encoding.mmulm o | mzero o => exact Encoding.mzero o | mdrain o => exact Encoding.mdrain o
  | copy o => exact Encoding.copy o | copy2d o => exact Encoding.copy2d o | fill o => exact Encoding.fill o | rwrite o => exact Encoding.rwrite o | mcast o => exact Encoding.mcast o
  | ksend o => exact Encoding.ksend o | krecv o => exact Encoding.krecv o | kwid o => exact Encoding.kwid o | kadd o => exact Encoding.kadd o | kreq o => exact Encoding.kreq o
  | krel o => exact Encoding.krel o | kbar o => exact Encoding.kbar o | kabs o => exact Encoding.kabs o | kframe o => exact Encoding.kframe o
  | _ => exact encoding_of_no_place rfl

/-! ## Words put together from their cuts -/

theorem cut_join {n : Nat} (w : BitVec n) {s t a b : Nat} (h : s = t + b) : w.extractLsb' s a ++ w.extractLsb' t b = w.extractLsb' t (a + b) := by
  subst h
  refine BitVec.eq_of_getLsbD_eq fun i hi => ?_
  rw [BitVec.getLsbD_append]
  by_cases hb : i < b
  · simp [hb, hi]
  · have hi' : i - b < a := by omega
    simp [hb, hi, hi', show t + b + (i - b) = t + i by omega]
theorem cut_whole {n : Nat} (w : BitVec n) : w.extractLsb' 0 n = w := BitVec.extractLsb'_eq_self
theorem ofBool_cut {n : Nat} (w : BitVec n) (s : Nat) : BitVec.ofBool (w.getLsbD s) = w.extractLsb' s 1 := by
  refine BitVec.eq_of_toNat_eq ?_
  rw [ofBool_toNat, bit_toNat, extract_toNat]
  have : w.toNat / 2 ^ s % 2 < 2 := Nat.mod_lt _ (by omega)
  by_cases h : w.toNat / 2 ^ s % 2 = 1
  · simp [h]
  · simp [h]
    omega
theorem cut_of_clear {n s : Nat} {w : BitVec n} (h : w.getLsbD s = false) : w.extractLsb' s 1 = 0#1 := (ofBool_cut w s).symm.trans (by rw [h]; rfl)
theorem cut_of_set {n s : Nat} {w : BitVec n} (h : w.getLsbD s = true) : w.extractLsb' s 1 = 1#1 := (ofBool_cut w s).symm.trans (by rw [h]; rfl)

/-- A part of a run of zero bits is zero. -/
theorem zeroAt_cut {w : W32} {lo len : Nat} (h : zeroAt w lo len = true) (s a : Nat) (hlo : lo ≤ s) (hhi : s + a ≤ lo + len) : w.extractLsb' s a = 0#a := by
  have h0 : w.extractLsb' lo len = 0#len := BitVec.eq_of_toNat_eq (by simpa [zeroAt] using h)
  refine BitVec.eq_of_getLsbD_eq fun i hi => ?_
  have := congrArg (·.getLsbD (s - lo + i)) h0
  simp only [BitVec.getLsbD_extractLsb', BitVec.getLsbD_zero] at this ⊢
  simp_all [show s - lo + i < len by omega, show lo + (s - lo + i) = s + i by omega]
theorem zeroAt_part {w : W32} {lo len : Nat} (h : zeroAt w lo len = true) (s a : Nat) (hlo : lo ≤ s) (hhi : s + a ≤ lo + len) : zeroAt w s a = true := by
  simp [zeroAt, zeroAt_cut h s a hlo hhi]
theorem zeroAt_bit {w : W32} {lo len : Nat} (h : zeroAt w lo len = true) (s : Nat) (hlo : lo ≤ s) (hhi : s + 1 ≤ lo + len) : w.getLsbD s = false := by
  have := ofBool_cut w s
  rw [zeroAt_cut h s 1 hlo hhi] at this
  revert this
  cases w.getLsbD s <;> decide

/-! ## What a layout's reader takes out of a word, its writer puts back -/

section Layouts
variable {w : W32} {maj : BitVec 6} {min : BitVec 5} (h3 : w.extractLsb' 0 2 = 3#2) (hmaj : wMaj w = maj.toNat) (hmin : (wMin w).toNat = min.toNat)
include h3 hmaj

section Min
include hmin

theorem encRRR_get : encRRR maj min (getRRR w) = w := by
  obtain rfl := BitVec.eq_of_toNat_eq hmaj
  obtain rfl := BitVec.eq_of_toNat_eq hmin
  simp only [encRRR, getRRR, wMin, wNa, ofBool_cut, ← h3]
  simp (disch := rfl) only [cut_join]
  exact cut_whole w
theorem encRR_get (hz : zeroAt w 15 6 = true) : encRR maj min (getRR w) = w := by
  refine (congrArg (encRRR maj min) ?_).trans (encRRR_get h3 hmaj hmin)
  rw [getRRR, zeroAt_bit hz 20 (by omega) (by omega), zeroAt_cut hz 15 5 (by omega) (by omega)]
  rfl
theorem encRAB_get (hz : zeroAt w 27 5 = true) : encRAB maj min (getRAB w) = w := by
  refine (congrArg (encRRR maj min) ?_).trans (encRRR_get h3 hmaj hmin)
  rw [getRRR, zeroAt_cut hz 27 5 (by omega) (by omega)]
  rfl
theorem encRA_get (hz : (zeroAt w 27 5 && zeroAt w 15 6) = true) : encRA maj min (getRA w) = w := by
  obtain ⟨hd, hb⟩ := Bool.and_eq_true_iff.mp hz
  refine (congrArg (encRRR maj min) ?_).trans (encRRR_get h3 hmaj hmin)
  rw [getRRR, zeroAt_cut hd 27 5 (by omega) (by omega), zeroAt_bit hb 20 (by omega) (by omega), zeroAt_cut hb 15 5 (by omega) (by omega)]
  rfl
theorem encRN_get (hz : zeroAt w 15 17 = true) : encRN maj min ⟨wNa w⟩ = w := by
  refine (congrArg (encRRR maj min) ?_).trans (encRRR_get h3 hmaj hmin)
  rw [getRRR, zeroAt_cut hz 27 5 (by omega) (by omega), zeroAt_bit hz 26 (by omega) (by omega), zeroAt_cut hz 21 5 (by omega) (by omega), zeroAt_bit hz 20 (by omega) (by omega),
    zeroAt_cut hz 15 5 (by omega) (by omega)]
  rfl

end Min

theorem encRI_get : encRI maj (getRI w) = w := by
  obtain rfl := BitVec.eq_of_toNat_eq hmaj
  simp only [encRI, getRI, wNa, ofBool_cut, ← h3]
  simp (disch := rfl) only [cut_join]
  exact cut_whole w
theorem encRU_get : encRU maj (getRU w) = w := by
  obtain rfl := BitVec.eq_of_toNat_eq hmaj
  simp only [encRU, getRU, wNa, ← h3]
  simp (disch := rfl) only [cut_join]
  exact cut_whole w
theorem encRSt_get : encRSt maj (getRSt w) = w := by
  obtain rfl := BitVec.eq_of_toNat_eq hmaj
  simp only [encRSt, getRSt, wNa, ofBool_cut, ← h3]
  simp (disch := rfl) only [cut_join]
  exact cut_whole w
theorem encRAmo_get : encRAmo maj (getRAmo w) = w := by
  obtain rfl := BitVec.eq_of_toNat_eq hmaj
  simp only [encRAmo, getRAmo, wNa, ofBool_cut, ← h3]
  simp (disch := rfl) only [cut_join]
  exact cut_whole w
theorem encREnq_get : encREnq maj (getREnq w) = w := by
  obtain rfl := BitVec.eq_of_toNat_eq hmaj
  simp only [encREnq, getREnq, wNa, ofBool_cut, ← h3]
  simp (disch := rfl) only [cut_join]
  exact cut_whole w
theorem encRD_get (hz : zeroAt w 10 17 = true) : encRD maj ⟨w.extractLsb' 27 5, wNa w⟩ = w := by
  obtain rfl := BitVec.eq_of_toNat_eq hmaj
  simp only [encRD, wNa, ← h3, ← zeroAt_cut hz 10 17 (by omega) (by omega)]
  simp (disch := rfl) only [cut_join]
  exact cut_whole w
theorem encMain_get (p : List Pfx) (m : Option Modf) : encMain maj (getEOp p m w) = w := by
  obtain rfl := BitVec.eq_of_toNat_eq hmaj
  simp only [encMain, getEOp, wNa, ofBool_cut, ← h3]
  simp (disch := rfl) only [cut_join]
  exact cut_whole w
theorem encCOp_get (hz : bZero w = true) : encCOp maj (getCOp w) = w := by
  obtain ⟨h26, h20⟩ : w.getLsbD 26 = false ∧ w.getLsbD 20 = false := by simpa [bZero] using hz
  refine Eq.trans (b := encMain maj (getEOp [] none w)) ?_ (encMain_get h3 hmaj [] none)
  rw [encMain, getEOp, h26, h20]
  rfl

end Layouts

/-! ## Layouts of one major, and those of the other places -/

theorem cut_of_toNat {w : W32} {s a n : Nat} (h : (w.extractLsb' s a).toNat = n) : w.extractLsb' s a = BitVec.ofNat a n := by
  rw [← h, BitVec.ofNat_toNat, BitVec.setWidth_eq]

section Fixed
variable {w : W32} (h3 : w.extractLsb' 0 2 = 3#2)
include h3

theorem encRSh_get (hmaj : wMaj w = 0x07) {op : BitVec 5} (hop : (w.extractLsb' 16 5).toNat = op.toNat) : encRSh op (getRSh w) = w := by
  obtain rfl := BitVec.eq_of_toNat_eq hop
  simp only [encRSh, getRSh, wNa, ofBool_cut, ← h3, ← cut_of_toNat hmaj]
  simp (disch := rfl) only [cut_join]
  exact cut_whole w
theorem encRCmp_get (hmaj : wMaj w = 0x0A) (hz : zeroAt w 27 2 = true) : encRCmp (getRCmp w) = w := by
  simp only [encRCmp, getRCmp, wMin, wNa, ofBool_cut, ← h3, ← cut_of_toNat hmaj, ← zeroAt_cut hz 27 2 (by omega) (by omega)]
  simp (disch := rfl) only [cut_join]
  exact cut_whole w
theorem encRCmpi_get (hmaj : wMaj w = 0x0B) : encRCmpi (getRCmpi w) = w := by
  simp only [encRCmpi, getRCmpi, wNa, ofBool_cut, ← h3, ← cut_of_toNat hmaj]
  simp (disch := rfl) only [cut_join]
  exact cut_whole w
theorem encRPl_get (hmaj : wMaj w = 0x0C) {min : BitVec 5} (hmin : (wMin w).toNat = min.toNat) (hz : zeroAt w 15 8 = true) : encRPl min (getRPl w) = w := by
  obtain rfl := BitVec.eq_of_toNat_eq hmin
  simp only [encRPl, getRPl, wMin, wNa, ← h3, ← cut_of_toNat hmaj, ← zeroAt_cut hz 15 8 (by omega) (by omega)]
  simp (disch := rfl) only [cut_join]
  exact cut_whole w
theorem encRPl_get_one (hmaj : wMaj w = 0x0C) {min : BitVec 5} (hmin : (wMin w).toNat = min.toNat) (hz : zeroAt w 15 11 = true) :
    encRPl min ⟨w.extractLsb' 29 3, w.extractLsb' 26 3, 0, wNa w⟩ = w := by
  refine (congrArg (encRPl min) ?_).trans (encRPl_get h3 hmaj hmin (zeroAt_part hz 15 8 (by omega) (by omega)))
  rw [getRPl, zeroAt_cut hz 23 3 (by omega) (by omega)]
  rfl
theorem encRSel_get (hmaj : wMaj w = 0x0D) (hz : zeroAt w 10 1 = true) : encRSel (getRSel w) = w := by
  simp only [encRSel, getRSel, wNa, ofBool_cut, ← h3, ← cut_of_toNat hmaj, ← zeroAt_cut hz 10 1 (by omega) (by omega)]
  simp (disch := rfl) only [cut_join]
  exact cut_whole w
theorem encRFence_get (hmaj : wMaj w = 0x28) {kind : BitVec 2} (hk : (w.extractLsb' 10 2).toNat = kind.toNat) (hz : zeroAt w 15 17 = true) : encRFence kind ⟨w.extractLsb' 12 3, wNa w⟩ = w := by
  obtain rfl := BitVec.eq_of_toNat_eq hk
  simp only [encRFence, wNa, ← h3, ← cut_of_toNat hmaj, ← zeroAt_cut hz 15 17 (by omega) (by omega)]
  simp (disch := rfl) only [cut_join]
  exact cut_whole w
omit h3 in
/-- A selector below 4 leaves the top bit of its three clear. -/
theorem cut_high_of_lt (h : (w.extractLsb' 12 3).toNat < 4) : w.extractLsb' 14 1 = 0#1 := by
  refine BitVec.eq_of_toNat_eq ?_
  rw [extract_toNat] at h ⊢
  simp only [BitVec.toNat_ofNat]
  omega
theorem encRPop_get (hmaj : wMaj w = 0x32) (hq : (w.extractLsb' 12 3).toNat < 4) (hlow : (w.extractLsb' 10 2).toNat = 0) (hz : zeroAt w 15 12 = true) : encRPop ⟨w.extractLsb' 27 5, w.extractLsb' 12 2, wNa w⟩ = w := by
  simp only [encRPop, wNa, ← h3, ← cut_of_toNat hmaj, ← zeroAt_cut hz 15 12 (by omega) (by omega), ← cut_high_of_lt hq, ← cut_of_toNat hlow]
  simp (disch := rfl) only [cut_join]
  exact cut_whole w
theorem encRPopNb_get (hmaj : wMaj w = 0x32) (hq : (w.extractLsb' 12 3).toNat < 4) (hlow : (w.extractLsb' 10 2).toNat = 2) (hz : (zeroAt w 20 7 && zeroAt w 18 2) = true) : encRPopNb ⟨w.extractLsb' 27 5, w.extractLsb' 15 3, w.extractLsb' 12 2, wNa w⟩ = w := by
  obtain ⟨hd, hb⟩ := Bool.and_eq_true_iff.mp hz
  simp only [encRPopNb, wNa, ← h3, ← cut_of_toNat hmaj, ← zeroAt_cut hd 20 7 (by omega) (by omega), ← zeroAt_cut hb 18 2 (by omega) (by omega), ← cut_high_of_lt hq, ← cut_of_toNat hlow]
  simp (disch := rfl) only [cut_join]
  exact cut_whole w
theorem encRScope_get (hmaj : wMaj w = 0x35) {sel : BitVec 3} (hsel : (w.extractLsb' 12 3).toNat = sel.toNat) (hz : zeroAt w 15 17 = true) : encRScope sel ⟨w.extractLsb' 10 2, wNa w⟩ = w := by
  obtain rfl := BitVec.eq_of_toNat_eq hsel
  simp only [encRScope, wNa, ← h3, ← cut_of_toNat hmaj, ← zeroAt_cut hz 15 17 (by omega) (by omega)]
  simp (disch := rfl) only [cut_join]
  exact cut_whole w
theorem encRCsrr_get (hmaj : wMaj w = 0x37) (hr : w.getLsbD 20 = false) (hz : zeroAt w 21 6 = true) : encRCsrr ⟨w.extractLsb' 27 5, w.extractLsb' 10 10, wNa w⟩ = w := by
  simp only [encRCsrr, wNa, ← h3, ← cut_of_toNat hmaj, ← zeroAt_cut hz 21 6 (by omega) (by omega), ← cut_of_clear hr]
  simp (disch := rfl) only [cut_join]
  exact cut_whole w
theorem encRCsrw_get (hmaj : wMaj w = 0x37) (hr : w.getLsbD 20 = true) (hz : zeroAt w 27 5 = true) : encRCsrw ⟨w.getLsbD 26, w.extractLsb' 21 5, w.extractLsb' 10 10, wNa w⟩ = w := by
  simp only [encRCsrw, wNa, ofBool_cut, ← h3, ← cut_of_toNat hmaj, ← zeroAt_cut hz 27 5 (by omega) (by omega), ← cut_of_set hr]
  simp (disch := rfl) only [cut_join]
  exact cut_whole w
theorem encHdr_get (hmaj : wMaj w = 0x3F) (hna : wNa w = 0#2) : encHdr ⟨w.extractLsb' 22 10, w.extractLsb' 12 10, w.extractLsb' 10 2⟩ = w := by
  simp only [encHdr, wNa, ← h3, ← cut_of_toNat hmaj, ← hna]
  simp (disch := rfl) only [cut_join]
  exact cut_whole w
theorem encHdrSw_get (hmaj : wMaj w = 0x3D) (hna : wNa w = 0#2) (hz : zeroAt w 10 6 = true) : encHdrSw ⟨w.extractLsb' 22 10, w.extractLsb' 16 6⟩ = w := by
  simp only [encHdrSw, wNa, ← h3, ← cut_of_toNat hmaj, ← zeroAt_cut hz 10 6 (by omega) (by omega), ← hna]
  simp (disch := rfl) only [cut_join]
  exact cut_whole w
theorem encExRel_get (hmaj : wMaj w = 0x3E) (hr : w.getLsbD 3 = false) : encExRel ⟨w.extractLsb' 13 19, w.extractLsb' 10 3, w.getLsbD 2⟩ = w := by
  simp only [encExRel, ofBool_cut, ← h3, ← cut_of_toNat hmaj, ← cut_of_clear hr]
  simp (disch := rfl) only [cut_join]
  exact cut_whole w
theorem encExReg_get (hmaj : wMaj w = 0x3E) {link : BitVec 2} (hlink : (w.extractLsb' 18 2).toNat = link.toNat) (hr : w.getLsbD 3 = true) (hz : zeroAt w 20 12 = true) : encExReg link ⟨w.extractLsb' 13 5, w.extractLsb' 10 3, w.getLsbD 2⟩ = w := by
  obtain rfl := BitVec.eq_of_toNat_eq hlink
  simp only [encExReg, ofBool_cut, ← h3, ← cut_of_toNat hmaj, ← zeroAt_cut hz 20 12 (by omega) (by omega), ← cut_of_set hr]
  simp (disch := rfl) only [cut_join]
  exact cut_whole w

end Fixed

/-! ## Halfwords -/

section Halfwords
variable {h : Half}

theorem encPfx_get (hl : h.extractLsb' 0 2 = 1#2) : encPfx (getPfx h) = h := by
  simp only [encPfx, getPfx, ← hl]
  simp (disch := rfl) only [cut_join]
  exact cut_whole h
theorem encModf_get (hl : h.extractLsb' 0 2 = 2#2) : encModf (getModf h) = h := by
  simp only [encModf, getModf, ofBool_cut, ← hl]
  simp (disch := rfl) only [cut_join]
  exact cut_whole h
theorem encCI_get (hl : h.extractLsb' 0 2 = 0#2) {op : BitVec 3} (hop : (h.extractLsb' 2 3).toNat = op.toNat) : encCI op ⟨h.extractLsb' 11 5, h.extractLsb' 5 6⟩ = h := by
  obtain rfl := BitVec.eq_of_toNat_eq hop
  simp only [encCI, ← hl]
  simp (disch := rfl) only [cut_join]
  exact cut_whole h
theorem encCR_get (hl : h.extractLsb' 0 2 = 1#2) {op : BitVec 4} (hop : (h.extractLsb' 2 4).toNat = op.toNat) : encCR op ⟨h.extractLsb' 11 5, h.extractLsb' 6 5⟩ = h := by
  obtain rfl := BitVec.eq_of_toNat_eq hop
  simp only [encCR, ← hl]
  simp (disch := rfl) only [cut_join]
  exact cut_whole h

end Halfwords

/-! ## A word that is read, encodes back: the control stream -/

/-- The word `w` at place `p` is the encoding of the well-formed instruction `i` that stands there. -/
structure Back (p : Place) (w : W32) (i : Instr) : Prop where
  wf : i.wf = true
  place : i.place = some p
  code : encode i = some (halves w)

theorem guardWf_inv {i j : Instr} (h : guardWf j = .ok i) : i = j ∧ j.wf = true := by
  unfold guardWf at h
  split at h
  · next hw => exact ⟨(Except.ok.inj h).symm, hw⟩
  · exact nomatch h
theorem back {p : Place} {w e : W32} {i j : Instr} (h : guardWf j = .ok i) (hp : j.place = some p) (he : encode j = some (halves e)) (hw : e = w) : Back p w i := by
  obtain ⟨rfl, hwf⟩ := guardWf_inv h
  exact ⟨hwf, hp, hw ▸ he⟩
theorem back_take {p : Place} {w e : W32} {i j : Instr} {u : Bool} (h : take u j = .ok i) (hp : j.place = some p) (he : encode j = some (halves e)) (hw : u = true → e = w) : Back p w i := by
  unfold take at h
  split at h
  · next hu => exact back h hp he (hw hu)
  · exact nomatch h

/-- `MIN` of a system word is its selector and the two bits below it (R188 to R203). -/
theorem wMin_sel_low {w : W32} {sel low : Nat} (hs : (w.extractLsb' 12 3).toNat = sel) (hl : (w.extractLsb' 10 2).toNat = low) : (wMin w).toNat = 4 * sel + low := by
  rw [← hs, ← hl, wMin]
  simp only [extract_toNat]
  omega

/-- A word whose bits 11 and 10 must be clear. -/
theorem low_clear {n : Nat} {x : Except Reject Instr} {i : Instr} (h : (if (n != 0) = true then .error .field else x) = .ok i) : n = 0 ∧ x = .ok i := by
  split at h
  · exact nomatch h
  · next hn => exact ⟨by simpa using hn, h⟩

section Control
variable {w : W32} {i : Instr} (h3 : w.extractLsb' 0 2 = 3#2)
include h3

theorem decAlu_back (hm : wMaj w = 0x01) (h : decAlu w = .ok i) : Back (.body .ctl) w i := by
  unfold decAlu at h
  split at h
  iterate 13 next hmin => exact back h rfl rfl (encRRR_get h3 hm hmin)
  iterate 5 next hmin => exact back_take h rfl rfl (encRR_get h3 hm hmin)
  next => exact nomatch h
theorem decMul_back (hm : wMaj w = 0x02) (h : decMul w = .ok i) : Back (.body .ctl) w i := by
  unfold decMul at h
  split at h
  iterate 8 next hmin => exact back h rfl rfl (encRRR_get h3 hm hmin)
  next => exact nomatch h
theorem decShift_back (hm : wMaj w = 0x07) (h : decShift w = .ok i) : Back (.body .ctl) w i := by
  unfold decShift at h
  split at h
  iterate 4 next hop => exact back h rfl rfl (encRSh_get h3 hm hop)
  next => exact nomatch h
theorem decPred_back (hm : wMaj w = 0x0C) (h : decPred w = .ok i) : Back (.body .ctl) w i := by
  unfold decPred at h
  split at h
  iterate 5 next hmin => exact back_take h rfl rfl (encRPl_get h3 hm hmin)
  next hmin => exact back_take h rfl rfl (encRPl_get_one h3 hm hmin)
  next => exact nomatch h
theorem decFence_back (hm : wMaj w = 0x28) (h : decFence w = .ok i) : Back (.body .ctl) w i := by
  unfold decFence at h
  simp only at h
  split at h
  iterate 3 next hk => exact back_take h rfl rfl (encRFence_get h3 hm hk)
  next => exact nomatch h
theorem decSys_back (h : decSys w = .ok i) : Back (.body .ctl) w i := by
  unfold decSys at h
  simp only at h
  split at h
  case h_1 hm =>
    obtain ⟨hl, h⟩ := low_clear h
    split at h
    iterate 2 next hs => exact back_take h rfl rfl (encRA_get h3 hm (wMin_sel_low hs hl))
    next => exact nomatch h
  case h_2 hm =>
    split at h
    iterate 4 next hs hl => exact back_take h rfl rfl (encRR_get h3 hm (wMin_sel_low hs hl))
    next => exact nomatch h
  case h_3 hm =>
    split at h
    next => exact nomatch h
    next hq =>
      split at h
      · next hl => exact back_take h rfl rfl (encRPop_get h3 hm (not_le.mp hq) hl)
      · next hl => exact back_take h rfl rfl (encRPopNb_get h3 hm (not_le.mp hq) hl)
      · exact nomatch h
  case h_4 hm =>
    obtain ⟨hl, h⟩ := low_clear h
    split at h
    iterate 2 next hs => exact back_take h rfl rfl (encRN_get h3 hm (wMin_sel_low hs hl))
    next => exact nomatch h
  case h_5 hm =>
    obtain ⟨hl, h⟩ := low_clear h
    split at h
    iterate 2 next hs => exact back_take h rfl rfl (encRA_get h3 hm (wMin_sel_low hs hl))
    next hs => exact back_take h rfl rfl (encRAB_get h3 hm (wMin_sel_low hs hl))
    next hs => exact back_take h rfl rfl (encRA_get h3 hm (wMin_sel_low hs hl))
    next => exact nomatch h
  case h_6 hm =>
    split at h
    iterate 2 next hs => exact back_take h rfl rfl (encRScope_get h3 hm hs)
    next => exact nomatch h
  case h_7 hm =>
    split at h
    next hs hl => exact back_take h rfl rfl (encRR_get h3 hm (wMin_sel_low hs hl))
    iterate 3 next hs hl => exact back_take h rfl rfl (encRA_get h3 hm (wMin_sel_low hs hl))
    next hs hl => exact back_take h rfl rfl (encRN_get h3 hm (wMin_sel_low hs hl))
    next => exact nomatch h
  case h_8 hm =>
    split at h
    · next hr => exact back_take h rfl rfl (encRCsrw_get h3 hm hr)
    · next hr => exact back_take h rfl rfl (encRCsrr_get h3 hm (Bool.eq_false_iff.mpr hr))
  case h_9 hm =>
    obtain ⟨hl, h⟩ := low_clear h
    split at h
    next hs => exact back_take h rfl rfl (encRAB_get h3 hm (wMin_sel_low hs hl))
    next hs => exact back_take h rfl rfl (encRA_get h3 hm (wMin_sel_low hs hl))
    next hs => exact back_take h rfl rfl (encRN_get h3 hm (wMin_sel_low hs hl))
    next => exact nomatch h
  case h_10 hm =>
    refine back_take h rfl rfl fun hz => ?_
    obtain ⟨hd, hmin⟩ := Bool.and_eq_true_iff.mp hz
    exact encRAB_get h3 hm (congrArg _ (zeroAt_cut hmin 10 5 (le_refl _) (le_refl _))) hd
  case h_11 hm => exact back_take h rfl rfl (encRD_get h3 hm)
  case h_12 hm =>
    refine back_take h rfl rfl fun hz => ?_
    exact encRN_get h3 hm (congrArg _ (zeroAt_cut hz 10 5 (by omega) (by omega))) (zeroAt_part hz 15 17 (by omega) (by omega))
  case h_13 => exact nomatch h
theorem decodeCtl32_back (h : decodeCtl32 w = .ok i) : Back (.body .ctl) w i := by
  unfold decodeCtl32 at h
  split at h
  · exact nomatch h
  split at h
  next hm => exact decAlu_back h3 hm h
  next hm => exact decMul_back h3 hm h
  iterate 4 next hm => exact back h rfl rfl (encRI_get h3 hm)
  next hm => exact decShift_back h3 hm h
  iterate 2 next hm => exact back h rfl rfl (encRU_get h3 hm)
  next hm => exact back_take h rfl rfl (encRCmp_get h3 hm)
  next hm => exact back h rfl rfl (encRCmpi_get h3 hm)
  next hm => exact decPred_back h3 hm h
  next hm => exact back_take h rfl rfl (encRSel_get h3 hm)
  iterate 7 next hm => exact back h rfl rfl (encRI_get h3 hm)
  iterate 4 next hm => exact back h rfl rfl (encRSt_get h3 hm)
  iterate 8 next hm => exact back h rfl rfl (encRAmo_get h3 hm)
  next hm => exact decFence_back h3 hm h
  iterate 6 next hm => exact back h rfl rfl (encREnq_get h3 hm)
  iterate 3 next => exact nomatch h
  next => exact decSys_back h3 h

end Control

theorem decodeCtl16_back {h : Half} {i : Instr} (hd : decodeCtl16 h = .ok i) : i.wf = true ∧ i.place = some (.body .ctl) ∧ encode i = some [h] := by
  unfold decodeCtl16 at hd
  split at hd
  · next hn =>
    obtain rfl := Except.ok.inj hd
    exact ⟨rfl, rfl, by rw [eq_of_beq hn]; rfl⟩
  simp only at hd
  split at hd
  · next hl =>
    have hl := BitVec.eq_of_toNat_eq (y := 0#2) hl
    split at hd
    iterate 2 next hop =>
      obtain ⟨rfl, hwf⟩ := guardWf_inv hd
      exact ⟨hwf, rfl, congrArg (some [·]) (encCI_get hl hop)⟩
    next => exact nomatch hd
  · next hl =>
    have hl := BitVec.eq_of_toNat_eq (y := 1#2) hl
    split at hd
    iterate 6 next hop =>
      obtain ⟨rfl, hwf⟩ := guardWf_inv hd
      exact ⟨hwf, rfl, congrArg (some [·]) (encCR_get hl hop)⟩
    next => exact nomatch hd
  · exact nomatch hd

/-! ## Headers, exits, copy and collective words -/

section Framed
variable {w : W32} {i : Instr}

theorem decodeHeader_back (h : decodeHeader true w = .ok i) : Back .header w i := by
  unfold decodeHeader at h
  split at h
  · exact nomatch h
  next hf =>
  obtain ⟨h3, hna⟩ : w.extractLsb' 0 2 = 3#2 ∧ wNa w = 0#2 := by simpa using hf
  split at h
  · next hm => exact back h rfl rfl (encHdr_get h3 hm hna)
  · next hm =>
    split at h
    · exact nomatch h
    · next hz => exact back h rfl rfl (encHdrSw_get h3 hm hna (by simpa using hz))
  · exact nomatch h
theorem back_exit {e : W32} {j : Instr} (h : Except.ok (ε := Reject) j = .ok i) (hw : j.wf = true) (hp : j.place = some .exit) (he : encode j = some (halves e)) (hew : e = w) : Back .exit w i := by
  obtain rfl := Except.ok.inj h
  exact ⟨hw, hp, hew ▸ he⟩
theorem decodeExit_back (h : decodeExit w = .ok i) : Back .exit w i := by
  unfold decodeExit at h
  split at h
  · exact nomatch h
  next hf =>
  obtain ⟨h3, hm⟩ : w.extractLsb' 0 2 = 3#2 ∧ wMaj w = 0x3E := by simpa using hf
  simp only at h
  split at h
  · next hr => exact back_exit h rfl rfl rfl (encExRel_get h3 hm (by simpa using hr))
  next hr =>
  have hr : w.getLsbD 3 = true := by simpa using hr
  split at h
  · exact nomatch h
  next hz =>
  have hz : zeroAt w 20 12 = true := by simpa using hz
  split at h
  iterate 3 next hlink => exact back_exit h rfl rfl rfl (encExReg_get h3 hm hlink hr hz)
  next => exact nomatch h

variable (h3 : w.extractLsb' 0 2 = 3#2)
include h3

theorem decCpe_back (h : decCpe w = .ok i) : Back (.body .cpe) w i := by
  unfold decCpe at h
  simp only at h
  split at h
  · exact nomatch h
  split at h
  iterate 5 next hm => exact back_take h rfl rfl (encCOp_get h3 hm)
  next => exact nomatch h
theorem decCoe_back (h : decCoe w = .ok i) : Back (.body .coe) w i := by
  unfold decCoe at h
  simp only at h
  split at h
  · exact nomatch h
  split at h
  iterate 9 next hm => exact back_take h rfl rfl (encCOp_get h3 hm)
  next => exact nomatch h

end Framed

/-! ## The engine streams -/

/-- An engine instruction with operands `o` that stands in stream `st` and encodes with major `maj`. -/
structure EngBack (st : Stream) (maj : Nat) (o : EOp) (i : Instr) : Prop where
  wf : i.wf = true
  place : i.place = some (.body st)
  code : ∃ m : BitVec 6, maj = m.toNat ∧ encode i = some (encEng m o)

section Engines
variable {st : Stream} {maj : Nat} {o : EOp} {i j : Instr}

theorem engBack {m : BitVec 6} (h : guardWf j = .ok i) (hp : j.place = some (.body st)) (he : encode j = some (encEng m o)) (hm : maj = m.toNat) : EngBack st maj o i := by
  obtain ⟨rfl, hwf⟩ := guardWf_inv h
  exact ⟨hwf, hp, m, hm, he⟩
theorem decLde_back (h : decLde maj o = .ok i) : EngBack .lde maj o i := by
  unfold decLde at h
  split at h
  iterate 8 exact engBack h rfl rfl rfl
  exact nomatch h
theorem decSte_back (h : decSte maj o = .ok i) : EngBack .ste maj o i := by
  unfold decSte at h
  split at h
  iterate 7 exact engBack h rfl rfl rfl
  exact nomatch h
theorem decAre_back (h : decAre maj o = .ok i) : EngBack .are maj o i := by
  unfold decAre at h
  split at h
  iterate 44 exact engBack h rfl rfl rfl
  all_goals exact nomatch h
theorem decMxe_back (h : decMxe maj o = .ok i) : EngBack .mxe maj o i := by
  unfold decMxe at h
  split at h
  iterate 5 exact engBack h rfl rfl rfl
  next => exact nomatch h
  iterate 2 exact engBack h rfl rfl rfl
  exact nomatch h
/-- What a modifier prefix already read has put into the stream. -/
def modHalves (m : Option Modf) : List Half :=
  match m with
  | some m => [encModf m]
  | none => []
theorem decMain_back {p : List Pfx} {m : Option Modf} {w : W32} (h3 : w.extractLsb' 0 2 = 3#2) (h : decMain st p m w = .ok i) :
    i.wf = true ∧ i.place = some (.body st) ∧ encode i = some (p.map encPfx ++ modHalves m ++ halves w) := by
  have key : EngBack st (wMaj w) (getEOp p m w) i := by
    unfold decMain at h
    split at h
    · exact nomatch h
    cases st with
    | lde => exact decLde_back h
    | ste => exact decSte_back h
    | are => exact decAre_back h
    | mxe => exact decMxe_back h
    | _ => exact nomatch h
  obtain ⟨hwf, hp, maj, hm, he⟩ := key
  refine ⟨hwf, hp, he.trans ?_⟩
  rw [encEng, encMain_get h3 hm]
  rfl

end Engines

theorem map_ok_inv {α β : Type} {x : Except Reject α} {f : α → β} {y : β} (h : x.map f = .ok y) : ∃ a, x = .ok a ∧ f a = y := by
  cases x with
  | error e => exact nomatch h
  | ok a => exact ⟨a, rfl, Except.ok.inj h⟩
theorem low_of_append {l h : Half} {n : BitVec 2} (e : l.extractLsb' 0 2 = n) : (h ++ l).extractLsb' 0 2 = n := by
  rw [← e, ← BitVec.toNat_inj]
  simp only [extract_toNat, append_toNat]
  omega
theorem halves_append (l h : Half) : halves (h ++ l) = [l, h] := by
  have hl : (h ++ l).extractLsb' 0 16 = l := by
    rw [← BitVec.toNat_inj]
    simp only [extract_toNat, append_toNat]
    omega
  have hh : (h ++ l).extractLsb' 16 16 = h := by
    rw [← BitVec.toNat_inj]
    simp only [extract_toNat, append_toNat]
    omega
  rw [halves, hl, hh]

/-! ## One instruction of a stream -/

/-- The halfwords `hs` are the encoding of the well-formed `i`, legal at place `p`, and then `rest`; `before` has been read of the same encoding. -/
def ReadBack (p : Place) (before hs rest : List Half) (i : Instr) : Prop :=
  i.wf = true ∧ (i.place = some p ∨ (i = .nop ∧ ∃ st, p = .body st)) ∧ ∃ e, encode i = some (before ++ e) ∧ hs = e ++ rest

theorem Back.readBack {p : Place} {l h : Half} {t : List Half} {i : Instr} (hb : Back p (h ++ l) i) : ReadBack p [] (l :: h :: t) t i :=
  ⟨hb.wf, .inl hb.place, [l, h], hb.code.trans (by rw [halves_append]; rfl), rfl⟩
theorem nop_readBack {st : Stream} {h : Half} {t : List Half} (hn : (h == (0x0002 : Half)) = true) : ReadBack (.body st) [] (h :: t) t .nop :=
  ⟨rfl, .inr ⟨rfl, st, rfl⟩, [0x0002], rfl, by rw [eq_of_beq hn]; rfl⟩
/-- One halfword further. -/
theorem ReadBack.cons {p : Place} {before hs rest : List Half} {i : Instr} {h : Half} (hb : ReadBack p (before ++ [h]) hs rest i) : ReadBack p before (h :: hs) rest i := by
  obtain ⟨hwf, hp, e, he, rfl⟩ := hb
  exact ⟨hwf, hp, h :: e, by rw [he, List.append_assoc]; rfl, rfl⟩

theorem decEng_back {st : Stream} {hs rest : List Half} {i : Instr} (p : List Pfx) (m : Option Modf) (h : decEng st p m hs = .ok (i, rest)) :
    ReadBack (.body st) (p.map encPfx ++ modHalves m) hs rest i := by
  induction hs generalizing p m with
  | nil => exact nomatch h
  | cons l t ih =>
    unfold decEng at h
    split at h
    · next hn =>
      split at h
      · next he =>
        obtain ⟨rfl, rfl⟩ : p = [] ∧ m = none := by simpa using he
        obtain ⟨rfl, rfl⟩ := Prod.mk.inj (Except.ok.inj h)
        exact nop_readBack hn
      · exact nomatch h
    split at h
    · next hl =>
      split at h
      · exact nomatch h
      next hm =>
      obtain rfl : m = none := by simpa using hm
      have := ih _ _ h
      refine ReadBack.cons ?_
      simpa [modHalves, encPfx_get (BitVec.eq_of_toNat_eq (y := 1#2) hl)] using this
    · next hl =>
      split at h
      · exact nomatch h
      next hm =>
      obtain rfl : m = none := by simpa using hm
      have := ih _ _ h
      refine ReadBack.cons ?_
      simpa [modHalves, encModf_get (BitVec.eq_of_toNat_eq (y := 2#2) hl)] using this
    · next hl =>
      split at h
      · exact nomatch h
      next _ h2 t2 =>
      obtain ⟨j, hj, e⟩ := map_ok_inv h
      obtain ⟨rfl, rfl⟩ := Prod.mk.inj e
      obtain ⟨hwf, hp, he⟩ := decMain_back (low_of_append (BitVec.eq_of_toNat_eq (y := 3#2) hl)) hj
      exact ⟨hwf, .inl hp, [l, h2], he.trans (by rw [halves_append]), rfl⟩
    · exact nomatch h

/-- A word of two halfwords. -/
theorem pair_readBack {p : Place} {l h : Half} {t rest : List Half} {i : Instr} {x : Except Reject Instr} (hx : x.map (fun i => (i, t)) = .ok (i, rest)) (hb : ∀ j, x = .ok j → Back p (h ++ l) j) :
    ReadBack p [] (l :: h :: t) rest i := by
  obtain ⟨j, hj, e⟩ := map_ok_inv hx
  obtain ⟨rfl, rfl⟩ := Prod.mk.inj e
  exact (hb j hj).readBack

theorem decodeBody_ctl_back {hs rest : List Half} {i : Instr} (h : decodeBody .ctl hs = .ok (i, rest)) : ReadBack (.body .ctl) [] hs rest i := by
  cases hs with
  | nil => exact nomatch h
  | cons l t =>
    simp only [decodeBody] at h
    split at h
    · next hw =>
      cases t with
      | nil => exact nomatch h
      | cons h2 t2 => exact pair_readBack h fun j hj => decodeCtl32_back (low_of_append (eq_of_beq hw)) hj
    · obtain ⟨j, hj, e⟩ := map_ok_inv h
      obtain ⟨rfl, rfl⟩ := Prod.mk.inj e
      obtain ⟨hwf, hp, he⟩ := decodeCtl16_back hj
      exact ⟨hwf, .inl hp, [l], he, rfl⟩
/-- The copy and collective streams: `nop`, or one word of 32 bits. -/
theorem decodeBody_pair_back {st : Stream} {hs rest : List Half} {i : Instr}
    (hw : ∀ {w : W32} {j : Instr}, w.extractLsb' 0 2 = 3#2 → (if st == .cpe then decCpe else decCoe) w = .ok j → Back (.body st) w j)
    (hst : st = .cpe ∨ st = .coe) (h : decodeBody st hs = .ok (i, rest)) : ReadBack (.body st) [] hs rest i := by
  cases hs with
  | nil => obtain rfl | rfl := hst <;> exact nomatch h
  | cons l t =>
    replace h : (if l == 0x0002 then .ok (.nop, t) else if isWide l then match t with
        | [] => .error .truncated
        | h2 :: t2 => ((if st == .cpe then decCpe else decCoe) (h2 ++ l)).map fun i => (i, t2)
      else .error .compact) = Except.ok (i, rest) := by
      obtain rfl | rfl := hst <;> exact h
    split at h
    · next hn =>
      obtain ⟨rfl, rfl⟩ := Prod.mk.inj (Except.ok.inj h)
      exact nop_readBack hn
    split at h
    · next h3 =>
      cases t with
      | nil => exact nomatch h
      | cons h2 t2 => exact pair_readBack h fun j hj => hw (low_of_append (eq_of_beq h3)) hj
    · exact nomatch h
theorem decodeBody_back {st : Stream} {hs rest : List Half} {i : Instr} (h : decodeBody st hs = .ok (i, rest)) : ReadBack (.body st) [] hs rest i := by
  cases st with
  | ctl => exact decodeBody_ctl_back h
  | lde | are | ste | mxe => exact decEng_back [] none h
  | cpe => exact decodeBody_pair_back (fun h3 hj => decCpe_back h3 hj) (.inl rfl) h
  | coe => exact decodeBody_pair_back (fun h3 hj => decCoe_back h3 hj) (.inr rfl) h

/-- Settles O59: at each place, each branch of the decoder reads a layout whose writer puts back what was read; row prefixes and a modifier are put back one by one. -/
theorem decodedWordsEncodeBack : Obligations.DecodedWordsEncodeBack := by
  intro p hs rest i h
  suffices hb : ReadBack p [] hs rest i from hb
  unfold readAt at h
  split at h
  · exact decodeBody_back h
  · split at h
    · exact pair_readBack h fun j hj => decodeHeader_back hj
    · exact nomatch h
  · split at h
    · exact pair_readBack h fun j hj => decodeExit_back hj
    · exact nomatch h

end Sys2Proof.Proofs
end

section
/-! SUPPORT. The statements of one configuration: the words the spec writes out, the state after reset, and which instruction a step runs. -/

namespace Sys2Proof.Proofs

open Sys2Proof Sys2Proof.Machine Sys2Proof.Laws

/-- Settles O57: every word is a literal, and the decoder is run on it. -/
theorem decodeWords : Obligations.DecodeWords :=
  ⟨⟨rfl, rfl, rfl, rfl⟩, ⟨rfl, rfl⟩, ⟨rfl, rfl, rfl, rfl, rfl, rfl, rfl, rfl, rfl, rfl⟩, rfl, rfl, rfl, rfl, rfl, rfl⟩

/-! ## What a step runs -/

theorem step_of_agenda {s : State} {p : Pick} {rest : List Pick} (h : s.agenda = p :: rest) :
    step s = match resolve p { s with agenda := rest } with
      | .run i t => exec i t
      | .done t => .next t := by
  have hn : nextPick s = (p, { s with agenda := rest }) := by rw [nextPick, h]
  rw [step, hn] <;> rfl
theorem step_runs {s t : State} {p : Pick} {rest : List Pick} {i : Instr} (h : s.agenda = p :: rest) (hr : resolve p { s with agenda := rest } = .run i t) : step s = exec i t := by
  rw [step_of_agenda h, hr]
theorem step_done {s t : State} {p : Pick} {rest : List Pick} (h : s.agenda = p :: rest) (hr : resolve p { s with agenda := rest } = .done t) : step s = .next t := by
  rw [step_of_agenda h, hr]

section Core
variable {s : State} {d : DieId} {k : SlotId} {y : Die} {p : Half × Half} {o : Open} (hcur : s.cur = ⟨d, .core k, 8⟩) (hr : coreRuns s d k = true)

include hcur in
theorem withCur_self : { s with cur := ⟨d, .core k, 8⟩ } = s := by rw [← hcur]

include hcur hr

theorem coreNext_header (ho : (s.ctl d k).opn = none) (hpc : (s.ctl d k).pc.toNat % 2 = 0) (hd : dueFault s d k = none) (hb : breakHit s d k = none)
    (hw : ctlWord d (s.die d) ((s.die d).who (.core k) k) (s.ctl d k).pc.toNat = .ok y p) {i : Instr} (hi : decodeHeader true (p.2 ++ p.1) = .ok i) :
    coreNext s d k = .run i (s.modDie d fun _ => y) := by
  unfold coreNext
  simp [withCur_self hcur, hr, ho, hd, hb, hpc, hw, hi]
theorem coreNext_body (ho : (s.ctl d k).opn = some o) (hp : o.phase = .body) (hbad : o.badBy o.pos = false)
    (hw : ctlWord d (s.die d) ((s.die d).who (.core k) k) o.here.toNat = .ok y p) :
    coreNext s d k = match bodyInstr p with
      | some i => .run i (s.modDie d fun _ => y)
      | none => .done (badFault (s.modDie d fun _ => y) d k o o.pos) := by
  unfold coreNext
  simp [withCur_self hcur, hr, ho, hp, hbad, hw] <;> rfl
theorem coreNext_exit {n : Nat} (ho : (s.ctl d k).opn = some o) (hp : o.phase = .exits n) (hbad : o.badBy (2 + o.len + 2 * n) = false)
    (hw : ctlWord d (s.die d) ((s.die d).who (.core k) k) (o.at_ (2 + o.len + 2 * n)).toNat = .ok y p) {i : Instr} (hi : decodeExit (p.2 ++ p.1) = .ok i) :
    coreNext s d k = .run i (s.modDie d fun _ => y) := by
  unfold coreNext
  simp [withCur_self hcur, hr, ho, hp, hbad, hw, hi]
end Core

/-- The next word of an entry that may go on (R134). -/
theorem engNext_runs {s : State} {c : Cur} {r : Run} {n : Nat} {i : Instr} (hc : (s.die c.die).curRun c = some r) (ha : (s.die c.die).alive = true) (hg : (s.die c.die).entryGoes c r = true)
    (hi : r.code[r.pos]? = some (n, i)) : engNext s c = .run i { s with cur := c } := by
  have hc' : (({ s with cur := c } : State).die c.die).curRun c = some r := hc
  have ha' : (({ s with cur := c } : State).die c.die).alive = true := ha
  have hg' : (({ s with cur := c } : State).die c.die).entryGoes c r = true := hg
  simp [engNext, hc', ha', hg', hi]
theorem resolve_event {s : State} {i : Instr} (hw : isWord i = false)
    (hu : unclocked i = true ∨ (s.die (eventDie i)).alive = true ∧ (driverEvent i = true → (s.die (eventDie i)).stage (eventDie i) 5 = true)) : resolve (.event i) s = .run i s := by
  refine if_neg ?_
  rw [hw]
  obtain hu | ⟨ha, hs⟩ := hu
  · simp [hu]
  · cases he : driverEvent i
    · simp [ha]
    · simp [ha, hs he]

/-- Settles O56: each pick is resolved, and the step is the meaning of the instruction that it comes to. -/
theorem stepRunsTheDecodedWord : Obligations.StepRunsTheDecodedWord := by
  refine ⟨fun s d k rest h hr => ⟨fun y p i ho hpc hd hb hw hi => ?_, fun o y p ho hp hbad hw => ?_, fun o n y p i ho hp hbad hw hi => ?_⟩,
    fun s d a rest r n i h hc ha hg hi => ?_, fun s d x rest r n i h hc ha hg hi => ?_, fun s i rest h hw hu => ?_, fun s h => ?_⟩
  · exact step_runs h (coreNext_header (s := { s with agenda := rest, cur := ⟨d, .core k, 8⟩ }) rfl hr ho hpc hd hb hw hi)
  · have e := coreNext_body (s := { s with agenda := rest, cur := ⟨d, .core k, 8⟩ }) rfl hr ho hp hbad hw
    rw [step_of_agenda h, show resolve (.core d k) { s with agenda := rest } = _ from e]
    cases bodyInstr p <;> rfl
  · exact step_runs h (coreNext_exit (s := { s with agenda := rest, cur := ⟨d, .core k, 8⟩ }) rfl hr ho hp hbad hw hi)
  · exact step_runs h (engNext_runs (s := { s with agenda := rest }) (c := ⟨d, a, 8⟩) hc ha hg hi)
  · exact step_runs h (engNext_runs (s := { s with agenda := rest }) (c := ⟨d, .coll, x⟩) hc ha hg hi)
  · exact step_runs h (resolve_event hw hu)
  · have hn : nextPick s = (Config.freePick s.draws, { s with draws := s.draws + 1 }) := by rw [nextPick, h]
    obtain ⟨dies, east, west, agenda, cur, draws, shot, trained⟩ := s
    obtain rfl : agenda = [] := h
    rw [step, hn, step_of_agenda (rest := []) rfl] <;> rfl

/-! ## What reset leaves -/

theorem die_reset (d : DieId) : State.reset.die d = Die.reset := vget_replicate _ d
theorem slot_reset (k : SlotId) : Die.reset.slot k = Slot.reset := vget_replicate _ k
theorem storeInv_reset : StoreInv State.reset where
  mem d := by rw [die_reset]; rfl
  proofs d := by rw [die_reset]; rfl
  acc d := by rw [die_reset]; rfl
  cat d := by rw [die_reset]; rfl
  mark d := by rw [die_reset]; rfl
  data d k n := by rw [State.slot, die_reset, slot_reset, Slot.reset, vget_replicate]; rfl
  side d k n := by rw [State.slot, die_reset, slot_reset, Slot.reset, vget_replicate]; rfl
  bank d k := by rw [State.slot, die_reset, slot_reset]; rfl
  wts d k := by rw [State.slot, die_reset, slot_reset]; rfl
  wsc d k := by rw [State.slot, die_reset, slot_reset]; rfl
  cb d k n := by rw [State.slot, die_reset, slot_reset]; exact congrArg (spWf 0) (vget_replicate [] n)

/-- Settles O54: the registers' reset values are computed; every slot of every die is `Slot.reset`, and every store is empty. -/
theorem resetState : Obligations.ResetState := by
  refine ⟨fun d => ?_, storeInv_reset⟩
  rw [die_reset]
  refine ⟨?_, ?_, ?_, fun k => ⟨?_, ?_, fun q => ?_, fun n => ?_⟩, fun a => ⟨rfl, ?_⟩⟩
  · revert d; decide +kernel
  · revert d; decide +kernel
  · revert d; decide +kernel
  · exact congrArg Lay.v (vget_replicate Lay.none k)
  · rw [slot_reset]; rfl
  · rw [slot_reset]; exact vget_replicate [] q
  · rw [slot_reset]; exact vget_replicate none n
  · exact List.any_eq_false.mpr fun _ _ => Bool.false_ne_true

end Sys2Proof.Proofs
end

section
/-! SUPPORT. Scalar accesses of the control core (R170, R179 to R183): empty sources and misaligned addresses; what loads, stores and atomics hold for the commit; and their read and drain steps. -/

namespace Sys2Proof.Proofs

open Sys2Proof Sys2Proof.Machine Sys2Proof.Laws

/-! ## What a control core's fault leaves (R361, R363) -/

section CoreFault
variable {s : State} {d : DieId} {k : SlotId} {f : FaultAt} (ho : s.openRec d k 0 = none)
include ho

theorem takeFault_regs : ((takeFault s d k 0 f).ctl d k).regs = (s.ctl d k).regs := by
  rw [takeFault_none f ho]
  cases codeRpl f.code <;> simp [State.ctl, Slot.dropRows, Slot.modCtl, Slot.discard]
theorem takeFault_pc : ((takeFault s d k 0 f).ctl d k).pc = (s.ctl d k).pc := by
  rw [takeFault_none f ho]
  cases codeRpl f.code <;> simp [State.ctl, Slot.dropRows, Slot.modCtl, Slot.discard]
/-- A terminal fault leaves the strand faulted. -/
theorem takeFault_act (hc : codeRpl f.code = false) : ((takeFault s d k 0 f).ctl d k).act = .faulted := by
  rw [takeFault_none f ho]
  simp [hc, State.ctl, Slot.dropRows, Slot.modCtl, Slot.discard]

end CoreFault

theorem src_empty_waits {s : State} {o : Open} {b : Bool} {r : BitVec 5} {f : Word → CRes} (h : o.regs.isFull r = false) (hb : b = false) : src s o b r f = .wait s := hb ▸ src_waits h
theorem src_empty_faults {s : State} {o : Open} {b : Bool} {r : BitVec 5} {f : Word → CRes} (h : o.regs.isFull r = false) (hb : b = true) : src s o b r f = .fault s 4 0 0 0 := hb ▸ src_faults h

/-- Only `amocas` reads the working value of D (R182). -/
theorem amo_dest_full {b : Open} {op : AmoOp} {r : BitVec 5} (h : op ≠ .cas ∨ b.regs.isFull r = true) : b.regs.isFull (if op == .cas then r else 0) = true := by
  obtain h | h := h
  · rw [if_neg (by simpa using h)]; rfl
  · split
    · exact h
    · rfl

section Word
variable {s : State} {d : DieId} {k : SlotId} {b : Open}

/-- What an empty source with B = 1 leaves. -/
theorem sourceFault_leaves (hbad : b.bad = none) (hheld : (s.slot d k).heldBy 0 = false) (ho : s.openRec d k 0 = none) {t : Out} (ht : t = .next (ctlFault s d k b b.pos 4 0 0 0)) :
    ∃ s', t = .next s' ∧ (s'.ctl d k).opn = none ∧ (s'.ctl d k).act = .faulted ∧ (s'.ctl d k).regs = (s.ctl d k).regs ∧
      (s'.ctl d k).pc = (s.ctl d k).pc ∧ SameMem s s' ∧
      ∃ f, vget (s'.slot d k).flt 0 = some f ∧ f.r.code = 4 ∧ f.r.agent = 0 ∧ f.r.blk = b.hdr ∧ f.r.word = b.at_ b.pos ∧ f.r.seq = (s.ctl d k).ccnt := by
  rw [ctlFault_legal hbad] at ht
  exact ⟨_, ht, takeFault_discards ho, takeFault_act ho rfl, takeFault_regs ho, takeFault_pc ho, takeFault_sameMem _ _ _ _ _, _, takeFault_records ho hheld, rfl, rfl, rfl, rfl, rfl⟩
/-- What an access whose address is no multiple of its size leaves. -/
theorem alignFault_leaves (hbad : b.bad = none) (hheld : (s.slot d k).heldBy 0 = false) (ho : s.openRec d k 0 = none) {t : Out} {ea : Word} (ht : t = .next (ctlFault s d k b b.pos 19 ea 0 0)) :
    ∃ s', t = .next s' ∧ (s'.ctl d k).opn = none ∧ SameMem s s' ∧ ∃ f, vget (s'.slot d k).flt 0 = some f ∧ f.r.code = 19 ∧ f.r.addr = ea ∧ f.r.word = b.at_ b.pos := by
  rw [ctlFault_legal hbad] at ht
  exact ⟨_, ht, takeFault_discards ho, takeFault_sameMem _ _ _ _ _, _, takeFault_records ho hheld, rfl, rfl, rfl⟩

/-! ## A word with an empty source: the first in the order A, B decides (log entry 145) -/

variable (hc : AtCore s d k b)
include hc

theorem ctl2_waits {o : RRR} {g : Word → Word → Word} (h : b.regs.isFull o.a = false ∧ o.ba = false ∨ b.regs.isFull o.a = true ∧ b.regs.isFull o.b = false ∧ o.bb = false) :
    ctl2 o g s = .next s := by
  refine ctlDo_wait hc _ (s' := s) ?_
  obtain ⟨ha, hba⟩ | ⟨ha, hb, hbb⟩ := h
  · exact src_empty_waits ha hba
  · exact (src_full ha).trans (src_empty_waits hb hbb)
theorem ctl2_faults {o : RRR} {g : Word → Word → Word} (h : b.regs.isFull o.a = false ∧ o.ba = true ∨ b.regs.isFull o.a = true ∧ b.regs.isFull o.b = false ∧ o.bb = true) :
    ctl2 o g s = .next (ctlFault s d k b b.pos 4 0 0 0) := by
  refine ctlDo_fault hc _ (s' := s) ?_
  obtain ⟨ha, hba⟩ | ⟨ha, hb, hbb⟩ := h
  · exact src_empty_faults ha hba
  · exact (src_full ha).trans (src_empty_faults hb hbb)
theorem ctlI_waits {o : RI} {g : Word → Word → Word} (ha : b.regs.isFull o.a = false) (hba : o.ba = false) : ctlI o g s = .next s :=
  ctlDo_wait hc _ (src_empty_waits ha hba)
theorem ctlI_faults {o : RI} {g : Word → Word → Word} (ha : b.regs.isFull o.a = false) (hba : o.ba = true) : ctlI o g s = .next (ctlFault s d k b b.pos 4 0 0 0) :=
  ctlDo_fault hc _ (src_empty_faults ha hba)
theorem ctlLoad_waits {o : RI} {n : Nat} {sgn : Bool} (ha : b.regs.isFull o.a = false) (hba : o.ba = false) : ctlLoad o n sgn s = .next s :=
  ctlDo_wait hc _ (src_empty_waits ha hba)
theorem ctlLoad_faults {o : RI} {n : Nat} {sgn : Bool} (ha : b.regs.isFull o.a = false) (hba : o.ba = true) : ctlLoad o n sgn s = .next (ctlFault s d k b b.pos 4 0 0 0) :=
  ctlDo_fault hc _ (src_empty_faults ha hba)

/-! ## An address that is no multiple of the size -/

omit hc in
theorem scalarAccess_misaligned {ea : Word} {n : Nat} {rd wr : Bool} {g : State → Piece → CRes} (h : ea.toNat % n ≠ 0) : scalarAccess s d k ea n rd wr g = .fault s 19 ea 0 0 :=
  if_pos (bne_iff_ne.2 h)

variable (hacq : (s.ctl d k).acq = none)
include hacq

theorem ctlLoad_misaligned {o : RI} {n : Nat} {sgn : Bool} (ha : b.regs.isFull o.a = true) (h : (b.regs.get o.a + o.imm.signExtend 64).toNat % n ≠ 0) :
    ctlLoad o n sgn s = .next (ctlFault s d k b b.pos 19 (b.regs.get o.a + o.imm.signExtend 64) 0 0) :=
  ctlDo_fault hc _ ((src_full ha).trans ((held_none hacq).trans (scalarAccess_misaligned h)))
theorem ctlStore_misaligned {o : RSt} {n : Nat} (ha : b.regs.isFull o.a = true) (hv : b.regs.isFull o.v = true) (h : (b.regs.get o.a + o.imm.signExtend 64).toNat % n ≠ 0) :
    ctlStore o n s = .next (ctlFault s d k b b.pos 19 (b.regs.get o.a + o.imm.signExtend 64) 0 0) :=
  ctlDo_fault hc _ ((src_full hv).trans ((src_full ha).trans ((held_none hacq).trans (scalarAccess_misaligned h))))
theorem ctlAmo_misaligned {o : RAmo} {op : AmoOp} (ha : b.regs.isFull o.a = true) (hb : b.regs.isFull o.b = true) (hd : op ≠ .cas ∨ b.regs.isFull o.d = true)
    (h : (b.regs.get o.a).toNat % (if o.w64 then 8 else 4) ≠ 0) : ctlAmo o op s = .next (ctlFault s d k b b.pos 19 (b.regs.get o.a) 0 0) :=
  ctlDo_fault hc _ ((src_full ha).trans ((src_full hb).trans ((src_full (amo_dest_full hd)).trans ((held_none hacq).trans (scalarAccess_misaligned h)))))

end Word

/-- Settles O4: an empty source decides in the order A, B, and the fault's record and the discarded block are those of `takeFault`; alignment is checked before the access. -/
theorem sourcesAndAlignment : Obligations.SourcesAndAlignment := by
  refine ⟨fun s d k b hc hbad hheld ho => ?_, fun s d k b hc hbad hheld ho hacq => ?_⟩
  · have faults {t : Out} (ht : t = .next (ctlFault s d k b b.pos 4 0 0 0)) := sourceFault_leaves hbad hheld ho ht
    refine ⟨fun o ha => ⟨fun hb => ?_, fun hb => ?_⟩, fun o ha hb => ⟨fun hbb => ?_, fun hbb => ?_⟩, fun o ha hb => ⟨fun hbb => ?_, fun hbb => ?_⟩,
      fun o ha => ⟨fun hb => ?_, fun hb => ?_⟩⟩
    · exact ⟨(exec_add o s).trans (ctl2_waits hc (.inl ⟨ha, hb⟩)), (exec_div o s).trans (ctl2_waits hc (.inl ⟨ha, hb⟩))⟩
    · exact ⟨faults ((exec_add o s).trans (ctl2_faults hc (.inl ⟨ha, hb⟩))), faults ((exec_div o s).trans (ctl2_faults hc (.inl ⟨ha, hb⟩)))⟩
    · exact (exec_sub o s).trans (ctl2_waits hc (.inr ⟨ha, hb, hbb⟩))
    · exact faults ((exec_sub o s).trans (ctl2_faults hc (.inr ⟨ha, hb, hbb⟩)))
    · exact csel_waits hc (.inr ⟨ha, hb, hbb⟩)
    · exact faults (csel_faults hc (.inr ⟨ha, hb, hbb⟩))
    · exact ⟨(exec_addi o s).trans (ctlI_waits hc ha hb), (exec_ldd o s).trans (ctlLoad_waits hc ha hb)⟩
    · exact ⟨faults ((exec_addi o s).trans (ctlI_faults hc ha hb)), faults ((exec_ldd o s).trans (ctlLoad_faults hc ha hb))⟩
  · have faults {t : Out} {ea : Word} (ht : t = .next (ctlFault s d k b b.pos 19 ea 0 0)) := alignFault_leaves hbad hheld ho ht
    refine ⟨fun o ha => ⟨fun h => ?_, fun h => ?_, fun h => ?_⟩, fun o ha hv => ⟨fun h => ?_, fun h => ?_, fun h => ?_⟩, fun o ha hb h => ?_⟩
    · exact ⟨faults ((exec_ldh o s).trans (ctlLoad_misaligned hc hacq ha h)), faults ((exec_ldhu o s).trans (ctlLoad_misaligned hc hacq ha h))⟩
    · exact ⟨faults ((exec_ldw o s).trans (ctlLoad_misaligned hc hacq ha h)), faults ((exec_ldwu o s).trans (ctlLoad_misaligned hc hacq ha h))⟩
    · exact faults ((exec_ldd o s).trans (ctlLoad_misaligned hc hacq ha h))
    · exact faults ((exec_sth o s).trans (ctlStore_misaligned hc hacq ha hv h))
    · exact faults ((exec_stw o s).trans (ctlStore_misaligned hc hacq ha hv h))
    · exact faults ((exec_std o s).trans (ctlStore_misaligned hc hacq ha hv h))
    · exact ⟨faults ((exec_amoadd o s).trans (ctlAmo_misaligned hc hacq ha hb (.inl (by decide)) h)), faults ((exec_amoswap o s).trans (ctlAmo_misaligned hc hacq ha hb (.inl (by decide)) h))⟩

end Sys2Proof.Proofs
end

section
/-! SUPPORT. Scalar loads (R108, R110, R170, R179): what a load asks for or takes from the block's own stores, its value, and the read step at the own die and towards a peer. -/

namespace Sys2Proof.Proofs

open Sys2Proof Sys2Proof.Machine Sys2Proof.Laws

/-! ## What the updates of an agent, a run, a TLB and a counter leave of a die -/

theorem modAg_rest (d : Die) (a : Agent) (f : AgentSt → AgentSt) :
    d.modAg a f = { d with slots := (d.modAg a f).slots, cpe := (d.modAg a f).cpe, coe := (d.modAg a f).coe, sys := (d.modAg a f).sys } := by
  cases a with
  | eng k e => cases e <;> rfl
  | _ => rfl
@[simp] theorem modAg_gate (d : Die) (a : Agent) (f : AgentSt → AgentSt) : (d.modAg a f).gate = d.gate := by rw [modAg_rest]
@[simp] theorem modAg_psn (d : Die) (a : Agent) (f : AgentSt → AgentSt) : (d.modAg a f).psn = d.psn := by rw [modAg_rest]
@[simp] theorem modAg_reg (d : Die) (a : Agent) (f : AgentSt → AgentSt) : (d.modAg a f).reg = d.reg := by rw [modAg_rest]
@[simp] theorem modAg_sched (d : Die) (a : Agent) (f : AgentSt → AgentSt) : (d.modAg a f).sched = d.sched := by rw [modAg_rest]
@[simp] theorem modAg_held (d : Die) (a : Agent) (f : AgentSt → AgentSt) : (d.modAg a f).held = d.held := by rw [modAg_rest]
@[simp] theorem ag_modAg_same (d : Die) (a : Agent) (f : AgentSt → AgentSt) : (d.modAg a f).ag a = f (d.ag a) := by
  cases a with
  | eng k e => cases e <;> simp [Die.ag, Die.modAg]
  | _ => simp [Die.ag, Die.modAg]
/-- The control core of a slot is no agent's access state. -/
@[simp] theorem modAg_ctl (d : Die) (a : Agent) (f : AgentSt → AgentSt) (k : SlotId) : ((d.modAg a f).slot k).ctl = (d.slot k).ctl := by
  cases a with
  | core j => exact slot_modSlot_keeps Slot.ctl d j k fun _ => rfl
  | eng j e => cases e <;> exact slot_modSlot_keeps Slot.ctl d j k fun _ => rfl
  | _ => rfl
theorem countDie_rest (d : Die) (dn : DieId) (a : Half) (ev : Nat) : d.countDie dn a ev = { d with sched := (d.countDie dn a ev).sched } := by
  unfold Die.countDie
  split <;> rfl
@[simp] theorem countDie_slot (d : Die) (dn : DieId) (a : Half) (ev : Nat) (k : SlotId) : (d.countDie dn a ev).slot k = d.slot k := by rw [countDie_rest]; rfl
@[simp] theorem countDie_gate (d : Die) (dn : DieId) (a : Half) (ev : Nat) : (d.countDie dn a ev).gate = d.gate := by rw [countDie_rest]
@[simp] theorem countDie_ag (d : Die) (dn : DieId) (a : Half) (ev : Nat) (g : Agent) : (d.countDie dn a ev).ag g = d.ag g := by
  rw [countDie_rest]
  cases g with
  | eng k e => cases e <;> rfl
  | _ => rfl

/-! ## A scalar load (R179, R181) -/

theorem scalarAccess_ok {s : State} {d : DieId} {k : SlotId} {ea : Word} {n : Nat} {rd wr : Bool} {g : State → Piece → CRes} {y : Die} {p : Piece} (h : ea.toNat % n = 0)
    (hx : access d (s.die d) ((s.die d).who (.core k) k) ea.toNat n ⟨[0, 1, 2, 4], rd, wr⟩ = .ok y p) :
    scalarAccess s d k ea n rd wr g = g (s.modDie d fun _ => y) p := by
  rw [scalarAccess, if_neg (by simp [h]), needScalar, hx]

section Load
variable {s : State} {d : DieId} {k : SlotId} {b : Open} {o : RI} {n : Nat} {sgn : Bool} {y : Die} {p : Piece} (hc : AtCore s d k b) (ha : b.regs.isFull o.a = true)
  (hacq : (s.ctl d k).acq = none) (h0 : (b.regs.get o.a + o.imm.signExtend 64).toNat % n = 0)
  (hx : access d (s.die d) ((s.die d).who (.core k) k) (b.regs.get o.a + o.imm.signExtend 64).toNat n ⟨[0, 1, 2, 4], true, false⟩ = .ok y p)
include hc ha hacq h0 hx

/-- The block's own stores cover the whole access. -/
theorem ctlLoad_covered (hn : (ownStores (s.modDie d fun _ => y) b.ops p).length = n) :
    ctlLoad o n sgn s = bodyNext (s.modDie d fun _ => y) d k (b.put o.d (loadVal n sgn (ownStores (s.modDie d fun _ => y) b.ops p) [])) 2 o.na := by
  refine ctlDo_ok hc _ ((src_full ha).trans ((held_none hacq).trans ((scalarAccess_ok h0 hx).trans ?_)))
  exact if_pos (by simp [hn])
/-- Else one read is asked for, whose answer the own stores overlay. -/
theorem ctlLoad_reads (hn : (ownStores (s.modDie d fun _ => y) b.ops p).length ≠ n) :
    let u := s.modDie d fun _ => y
    let tag := (u.ctl d k).ntag
    ctlLoad o n sgn s = bodyNext ((u.modCtl d k fun c => { c with ntag := tag + 1 }).modAg d (.core k) fun a =>
        { a with rd := a.rd ++ [⟨tag, p, .scalar n sgn (ownStores u b.ops p), packPlace b.hdr (b.at_ b.pos) 0, (u.ctl d k).ccnt⟩] })
      d k { b with regs := b.regs.empty o.d tag } 2 o.na := by
  refine ctlDo_ok hc _ ((src_full ha).trans ((held_none hacq).trans ((scalarAccess_ok h0 hx).trans ?_)))
  exact (if_neg (by simp [hn])).trans rfl
end Load

/-! ## The value of a load (R179) -/

theorem leNat_lt (bs : List Byte) : leNat bs < 2 ^ (8 * bs.length) := by
  induction bs with
  | nil => simp [leNat]
  | cons b r ih =>
    have := b.isLt
    rw [leNat, List.length_cons, show 8 * (r.length + 1) = 8 * r.length + 8 by omega, pow_add]
    omega
theorem range_map_listGet {n : Nat} {bs : List Byte} (h : bs.length = n) : ((List.range n).map fun i => listGet 0 bs i) = bs := by
  subst h
  refine List.ext_getElem (by simp) fun i h1 h2 => ?_
  simp only [List.getElem_map, List.getElem_range, listGet]
  exact List.getD_eq_getElem _ _ h2
/-- Without own stores, and with all its bytes, a load takes the bytes' number, or its sign-extension. -/
theorem loadVal_bytes {n : Nat} {bs : List Byte} (h : bs.length = n) (sgn : Bool) :
    loadVal n sgn [] bs = if sgn = true ∧ 2 ^ (8 * n - 1) ≤ leNat bs then BitVec.ofNat 64 (leNat bs + 2 ^ 64 - 2 ^ (8 * n)) else BitVec.ofNat 64 (leNat bs) := by
  simp only [loadVal, List.find?_nil, range_map_listGet h, Bool.and_eq_true, decide_eq_true_eq]
theorem loadVal_unsigned {n : Nat} {bs : List Byte} (h : bs.length = n) : loadVal n false [] bs = BitVec.ofNat 64 (leNat bs) := by
  rw [loadVal_bytes h, if_neg (by simp)]
theorem loadVal_signed {n : Nat} {bs : List Byte} (hn : n = 1 ∨ n = 2 ∨ n = 4 ∨ n = 8) (h : bs.length = n) :
    loadVal n true [] bs = BitVec.ofInt 64 (Int.bmod (leNat bs) (2 ^ (8 * n))) := by
  have hlt := leNat_lt bs
  rw [h] at hlt
  rw [loadVal_bytes h]
  generalize leNat bs = v at hlt
  refine BitVec.eq_of_toNat_eq ?_
  rw [BitVec.toNat_ofInt]
  rcases hn with rfl | rfl | rfl | rfl
  all_goals
    simp only [Int.bmod_def, true_and] at hlt ⊢
    split
    · rw [BitVec.toNat_ofNat]; omega
    · rw [BitVec.toNat_ofNat]; omega

/-! ## The answer of a read fills the registers that wait for it (R170) -/

theorem vget_map {α β : Type} {n : Nat} (f : α → β) (v : Vector α n) (i : Fin n) : vget (v.map f) i = f (vget v i) := by
  simp [vget, Vector.get]
theorem vget_fillRegs (r : Regs) (tag : Nat) (v : Word) (i : Fin 32) :
    vget (fillRegs r tag v).x i = if (vget r.x i).wait = some tag then ⟨v, none⟩ else vget r.x i := vget_map _ _ _

/-! ## The read step of a control core (R108) -/

section ReadStep
variable {s : State} {d : DieId} {k : SlotId} {r : Rd} {rest : List Rd} (hrd : (s.ag d (.core k)).rd = r :: rest) (hcov : ∀ c ∈ coverOf s (s.ag d (.core k)).sb r.p, c = .no)

/-- The oldest read leaves the agent's list. -/
def popRead (s : State) (d : DieId) (k : SlotId) (rest : List Rd) : State := s.modAg d (.core k) fun x => { x with rd := rest }

omit hrd in
include hcov in
theorem cover_not_all : (!(coverOf s (s.ag d (.core k)).sb r.p).isEmpty && (coverOf s (s.ag d (.core k)).sb r.p).all (·.byte?.isSome)) = false := by
  cases hc : coverOf s (s.ag d (.core k)).sb r.p with
  | nil => rfl
  | cons c l =>
    rw [hc] at hcov
    simp [hcov c (List.mem_cons_self), Cov.byte?]
omit hrd in
include hcov in
theorem cover_none : (coverOf s (s.ag d (.core k)).sb r.p).all Cov.isNo = true :=
  List.all_eq_true.2 fun c hc => by rw [hcov c hc]; rfl

include hrd hcov

/-- A read of the own die, none of whose bytes stands in the store buffer, is performed once every known count is accounted for. -/
theorem readStep_here {pa : Nat} (hloc : r.p.loc = .here pa) (hg : (s.die d).gateOk d = true) :
    readStep s d (.core k) .ok = finishRead (popRead s d k rest) d (.core k) r d pa ((s.die d).peek pa r.p.len) ((s.die d).poisoned pa r.p.len) := by
  have hmeet : (s.modDie d fun y => y.meet d pa .ok) = s := keep_die s d
  unfold readStep
  simp only [hrd, cover_not_all hcov, cover_none hcov, hloc, hg, hmeet, Bool.false_eq_true, if_false, Bool.not_true]
  simp only [popRead, State.modAg, Die.modAg, State.die_modDie_same]
  rfl
/-- A read of a peer goes out as a request. -/
theorem readStep_peer {h : DieId} {idx gen off : Nat} (hloc : r.p.loc = .peer h idx gen off) :
    readStep s d (.core k) .ok = sendRead (popRead s d k rest) d (.core k) h idx gen off r := by
  unfold readStep
  simp only [hrd, cover_not_all hcov, cover_none hcov, hloc, Bool.false_eq_true, if_false, Bool.not_true]
  rfl

end ReadStep

/-! ## A request to a peer (R109, R110) -/

/-- The state in which a request to a peer that is not lost goes out: it is pending at its agent. -/
def pended (s : State) (d : DieId) (a : Agent) (p : Sent) : State :=
  (s.modAg d a fun x => { x with nkey := p.key + 1, pend := x.pend ++ [p] }).modDie d fun y => y.countDie d (y.asidFor a) 35

/-- The virtual address that a request names. -/
def reqVa (rd : Option Rd) (op : SbOp) : Nat := (rd.map (·.p.va)).getD op.va
theorem sendReq_pends {s : State} {d h : DieId} {a : Agent} {n : Nat} {rd : Option Rd} {op : SbOp} {word : Nat} {seq : W32} {m : Nat → Nat → Vector Nat 4 → Msg} (hl : (s.die d).isLost d h = false) :
    sendReq s d a h n rd op word seq m =
      (pended s d a ⟨(s.ag d a).nkey, h, rd, op, word, seq, 24, reqVa rd op⟩).send d h (m (s.ag d a).nkey n (s.die d).gate.v) := by
  have hg (f : AgentSt → AgentSt) : ((s.modAg d a f).die d).gate = (s.die d).gate := by simp [State.modAg]
  unfold sendReq
  simp only [hl, Bool.false_eq_true, if_false]
  cases rd <;> simp only [hg, pended, reqVa] <;> rfl

section Pended
variable (s : State) (d : DieId) (a : Agent) (p : Sent)

theorem pended_die_ne {e : DieId} (h : d ≠ e) : (pended s d a p).die e = s.die e := by
  rw [pended, State.die_modDie_ne _ h, State.modAg, State.die_modDie_ne _ h]
theorem pended_ag : (pended s d a p).ag d a = { s.ag d a with nkey := p.key + 1, pend := (s.ag d a).pend ++ [p] } := by
  simp [pended, State.ag, State.modAg]
theorem pended_ctl (k : SlotId) : (pended s d a p).ctl d k = s.ctl d k := by
  simp [pended, State.ctl, State.slot, State.modAg]
theorem pended_gate : ((pended s d a p).die d).gate = (s.die d).gate := by
  simp [pended, State.modAg]
theorem pended_sameMem : SameMem s (pended s d a p) :=
  (sameMem_modDie s d _ (Die.modAg_mem _ _ _)).trans (sameMem_modDie _ d _ (Die.countDie_mem _ _ _ _))

end Pended

/-- Settles O5: a load runs `scalarAccess` and then its own stores or one read; the read step of an uncovered read performs it here, or sends one request that stays pending. -/
theorem scalarLoads : Obligations.ScalarLoads := by
  refine ⟨fun s d k b o hc ha hacq => ?_, fun n bs hn hl => ⟨loadVal_signed hn hl, loadVal_unsigned hl⟩, fun s d k r rest pa n sgn own hrd hkind hloc hlen hcov hg hpsn => ?_,
    fun s d h k r rest idx gen off hrd hloc hne hl hcov => ?_⟩
  · intro ea loads
    have loads_of {i : RI → Instr} {n : Nat} {sgn : Bool} (he : ∀ s, exec (i o) s = ctlLoad o n sgn s) : loads i n sgn := by
      intro y p h0 hx u own tag
      exact ⟨fun hn => (he s).trans (ctlLoad_covered hc ha hacq h0 hx hn), fun hn => (he s).trans (ctlLoad_reads hc ha hacq h0 hx hn)⟩
    exact ⟨loads_of (exec_ldb o), loads_of (exec_ldh o), loads_of (exec_ldw o), loads_of (exec_ldd o), loads_of (exec_ldbu o), loads_of (exec_ldhu o), loads_of (exec_ldwu o)⟩
  · have he : exec (.readStep d (.core k) .ok) s = .next ((popRead s d k rest).modSlot d k fun t => t.fillTag r.tag (loadVal n sgn own ((s.die d).peek pa r.p.len))) := by
      refine congrArg Host.Outcome.next ((readStep_here hrd hcov hloc hg).trans ?_)
      simp only [finishRead, hkind, hpsn, Bool.false_eq_true, if_false]
    refine ⟨_, he, ?_, ?_, fun i => ?_⟩
    · simp [popRead, State.ag, Die.ag, State.modAg, Die.modAg, Slot.fillTag, Slot.modCtl]
    · exact (sameMem_modDie s d _ (Die.modAg_mem _ _ _)).trans (sameMem_modDie _ d _ rfl)
    · rw [← vget_fillRegs]
      simp [popRead, State.ctl, State.slot, State.modAg, Slot.fillTag, Slot.modCtl]
  · intro key g
    let p : Sent := ⟨key, h, some r, .acqGate, r.word, r.seq, 24, r.p.va⟩
    have hag : (popRead s d k rest).ag d (.core k) = { s.ag d (.core k) with rd := rest } := by simp [popRead, State.ag, State.modAg]
    have hgate : ((popRead s d k rest).die d).gate = (s.die d).gate := by simp [popRead, State.modAg]
    have hlost : ((popRead s d k rest).die d).isLost d h = false := by
      rw [← hl]
      simp [popRead, State.modAg, Die.isLost, Die.getReg, Die.reg?]
    have he : exec (.readStep d (.core k) .ok) s = .next ((pended (popRead s d k rest) d (.core k) p).send d h (.read (.core k) key (vget g d) g idx gen off r.p.len)) := by
      refine congrArg Host.Outcome.next ((readStep_peer hrd hcov hloc).trans ((sendReq_pends hlost).trans ?_))
      rw [hag, hgate]
      rfl
    refine ⟨_, he, rfl, rfl, ?_, ?_, fun e he => ?_, ?_, ?_⟩
    · exact (sameMem_modDie s d _ (Die.modAg_mem _ _ _)).trans (pended_sameMem _ _ _ _)
    · rw [pended_ctl]
      simp [popRead, State.ctl, State.slot, State.modAg]
    · rw [pended_die_ne _ _ _ _ (Ne.symm he), popRead, State.modAg, State.die_modDie_ne _ (Ne.symm he)]
    · rw [pended_ag, hag]
    · rw [pended_ag, hag]

end Sys2Proof.Proofs
end

section
/-! SUPPORT. Translations and accesses keep what each of their updates keeps (R86 to R91, R181); a fault of the control core that an access or a full block raises. -/

namespace Sys2Proof.Proofs

open Sys2Proof Sys2Proof.Machine Sys2Proof.Laws

/-! ## What a translation may change, said once -/

/-- `P` is kept by every update that a translation or an access check makes: a leaf marked, the walk cache, a TLB, the counters of a miss, a refusal recorded. -/
structure TransKeeps (P : Die → Prop) : Prop where
  poke : ∀ d a w, P d → P (d.poke a (wordLe 8 w) false)
  walkc : ∀ d w, P d → P { d with walkc := w }
  tlb : ∀ d t f, P d → P (d.modTlb t f)
  miss : ∀ d dn t a, P d → P (d.countMiss dn t a)
  rast : ∀ d dn p h c i, P d → P (d.rast dn p h c i)

section Keeps
variable {P : Die → Prop} (hP : TransKeeps P) {α : Type}

theorem xres_ite {c : Prop} [Decidable c] {a b : XRes α} (ha : P a.die) (hb : P b.die) : P (if c then a else b).die := by
  split
  · exact ha
  · exact hb
theorem die_ite {c : Prop} [Decidable c] {a b : Die} (ha : P a) (hb : P b) : P (if c then a else b) := by
  split
  · exact ha
  · exact hb
include hP

theorem walkLevels_keeps (dn : DieId) (c wr : Bool) (asid : Half) (va : Nat) (l : List Nat) (t : Nat) (d : Die) (h : P d) : P (walkLevels dn c wr asid va l t d).die := by
  induction l generalizing t d with
  | nil => exact h
  | cons lvl r ih =>
    have e := walkRead_die d c (t + 8 * (va / 2 ^ (43 - 9 * lvl) % 512)) va
    unfold walkLevels
    dsimp only
    cases g : walkRead d c (t + 8 * (va / 2 ^ (43 - 9 * lvl) % 512)) va with
    | fault y a b => rw [g] at e; obtain rfl : y = d := e; exact h
    | wait y => rw [g] at e; obtain rfl : y = d := e; exact h
    | ok y w =>
      rw [g] at e
      obtain rfl : y = d := e
      refine xres_ite h (xres_ite ?_ (ih _ _ (hP.walkc _ _ h)))
      exact die_ite h (hP.poke _ _ _ h)
theorem walk_keeps (dn : DieId) (d : Die) (c wr : Bool) (asid : Half) (va : Nat) (h : P d) : P (walk dn d c wr asid va).die := by
  unfold walk
  refine xres_ite h (xres_ite h ?_)
  dsimp only
  have e := walkRead_die d c ((d.getReg dn rASIDBASE &&& bits 47 20).toNat + 16 * asid.toNat) va
  cases g : walkRead d c ((d.getReg dn rASIDBASE &&& bits 47 20).toNat + 16 * asid.toNat) va with
  | fault y a b => rw [g] at e; obtain rfl : y = d := e; exact h
  | wait y => rw [g] at e; obtain rfl : y = d := e; exact h
  | ok y w =>
    rw [g] at e
    obtain rfl : y = d := e
    exact xres_ite h (walkLevels_keeps hP dn c wr asid va _ _ _ (hP.walkc _ _ h))
theorem translate_keeps (dn : DieId) (d : Die) (t : TlbId) (asid : Half) (va : Nat) (wr : Bool) (h : P d) : P (Machine.translate dn d t asid va wr).die := by
  unfold Machine.translate
  refine xres_ite h ?_
  cases (d.tlb t).find? (·.covers asid va) with
  | some e => exact h
  | none =>
    have g := walk_keeps hP dn d false wr asid va h
    dsimp only
    generalize walk dn d false wr asid va = x at g ⊢
    cases x with
    | fault z a b => exact hP.miss _ _ _ _ g
    | wait z => exact g
    | ok z a =>
      have e : P ((z.countMiss dn t asid).modTlb t fun l => (a :: l).take 2048) := hP.tlb _ _ _ (hP.miss _ _ _ _ g)
      exact e
theorem importLoc_keeps (dn : DieId) (d : Die) (mt imp off va : Nat) (h : P d) : P (importLoc dn d mt imp off va).die := by
  have hr (p h' c) : P (d.rast dn p h' c imp) := hP.rast _ _ _ _ _ _ h
  unfold importLoc
  refine xres_ite (hr _ _ _) ?_
  refine xres_ite h ?_
  exact xres_ite (hr _ _ _) (xres_ite h (xres_ite (hr _ _ _) h))
/-- An access check keeps what its updates keep. -/
theorem access_keeps (dn : DieId) (d : Die) (w : Who) (va len : Nat) (n : Need) (h : P d) : P (access dn d w va len n).die := by
  have e := translate_keeps hP dn d w.tlb w.asid va n.wr h
  unfold access
  split
  · exact h
  cases q : Machine.translate dn d w.tlb w.asid va n.wr with
  | fault z a b => rw [q] at e; exact e
  | wait z => rw [q] at e; exact e
  | ok y en =>
    rw [q] at e
    replace e : P y := e
    have i := importLoc_keeps hP dn y (fld en.pte 8 3) (fld en.pte 48 12) (fld en.pte 12 36 * 4096 + (va - en.va)) va e
    dsimp only
    refine xres_ite e (xres_ite e (xres_ite e (xres_ite ?_ (xres_ite e e))))
    cases g : importLoc dn y (fld en.pte 8 3) (fld en.pte 48 12) (fld en.pte 12 36 * 4096 + (va - en.va)) va with
    | fault z a b => rw [g] at i; exact i
    | wait z => rw [g] at i; exact i
    | ok z a => rw [g] at i; exact i
theorem accessAll_keeps (dn : DieId) (w : Who) (n : Need) (l : List (Nat × Nat)) (d : Die) (h : P d) : P (accessAll dn w n l d).die := by
  induction l generalizing d with
  | nil => exact h
  | cons c r ih =>
    have e := access_keeps hP dn d w c.1 c.2 n h
    unfold accessAll
    cases q : access dn d w c.1 c.2 n with
    | fault y c x => rw [q] at e; exact e
    | wait y => rw [q] at e; exact e
    | ok y p =>
      rw [q] at e
      have g := ih y e
      dsimp only
      cases q' : accessAll dn w n r y with
      | fault y c x => rw [q'] at g; exact g
      | wait y => rw [q'] at g; exact g
      | ok y ps => rw [q'] at g; exact g

end Keeps

/-- What an access leaves of a slot: everything but its TLB and its counters. -/
def withoutTlb (t : Slot) : Slot := { t with tlb := [], pmc := .replicate 16 0 }

theorem countSlot_slot (d : Die) (dn : DieId) (j k : SlotId) (ev n : Nat) : withoutTlb ((d.countSlot dn j ev n).slot k) = withoutTlb (d.slot k) := by
  unfold Die.countSlot
  split
  · exact slot_modSlot_keeps withoutTlb d j k fun _ => rfl
  · rfl
theorem transKeeps_slot (k : SlotId) (t : Slot) : TransKeeps fun d => withoutTlb (d.slot k) = t where
  poke _ _ _ h := h
  walkc _ _ h := h
  tlb d x f h := by
    rw [← h]
    cases x with
    | slot j => exact slot_modSlot_keeps withoutTlb d j k fun _ => rfl
    | copy c => rfl
    | coll => rfl
  miss d dn x a h := by
    refine Eq.trans (congrArg withoutTlb (countDie_slot _ dn a 32 k)) (Eq.trans ?_ h)
    cases x with
    | slot j => exact countSlot_slot d dn j k 5 1
    | copy c => rfl
    | coll => rfl
  rast _ _ _ _ _ _ h := h
theorem access_slot {dn : DieId} {d : Die} {w : Who} {va len : Nat} {n : Need} {y : Die} {p : Piece} (h : access dn d w va len n = .ok y p) (k : SlotId) : withoutTlb (y.slot k) = withoutTlb (d.slot k) := by
  have := access_keeps (transKeeps_slot k _) dn d w va len n rfl
  rwa [h] at this

/-! ## A control core's fault, whatever record its strand still has open (R366, R368) -/

theorem modSched_slot (s : State) (d : DieId) (f : Sched → Sched) (e : DieId) (j : SlotId) : (s.modSched d f).slot e j = s.slot e j := by
  unfold State.modSched State.slot
  by_cases he : d = e
  · subst he; rw [State.die_modDie_same]; rfl
  · rw [State.die_modDie_ne _ he]
/-- What a fault leaves of the slot whose agent met it. -/
def slotFault (s : State) (d : DieId) (k : SlotId) (a : Nat) (f : FaultAt) (t : Slot) : Slot :=
  let t := if a == 0 then t.discard else t
  let t := if a == 0 && !codeRpl f.code then t.dropRows.modCtl fun c => { c with act := .faulted } else t
  { t with flt := vmod t.flt (agNum a) fun p => match p with | some p => some p | none => some ⟨(s.die d).faultRec d k a f, s.openRec d k a, none⟩ }
theorem takeFault_slot (s : State) (d : DieId) (k : SlotId) (a : Nat) (f : FaultAt) : (takeFault s d k a f).slot d k = slotFault s d k a f (s.slot d k) := by
  have h (u : State) (hu : u = s.modSlot d k (slotFault s d k a f)) : u.slot d k = slotFault s d k a f (s.slot d k) := by rw [hu, State.slot_modSlot_same]
  change (match s.openRec d k a, ((s.modSlot d k (slotFault s d k a f)).ctl d k).own with
    | some i, some o => (s.modSlot d k (slotFault s d k a f)).modSched d fun q => q.modBlk o.lid o.blk fun b => { b with flts := b.flts.filter fun e => !(e.2.2.idx == some i) }
    | _, _ => s.modSlot d k (slotFault s d k a f)).slot d k = _
  cases s.openRec d k a with
  | none => exact h _ rfl
  | some i =>
    cases ((s.modSlot d k (slotFault s d k a f)).ctl d k).own with
    | none => exact h _ rfl
    | some o => exact (modSched_slot _ _ _ _ _).trans (h _ rfl)
section CoreFault
variable {s : State} {d : DieId} {k : SlotId} {f : FaultAt}

theorem takeFault_opn : ((takeFault s d k 0 f).ctl d k).opn = none := by
  rw [State.ctl, takeFault_slot]
  cases h : codeRpl f.code <;> simp [slotFault, h, Slot.dropRows, Slot.modCtl, Slot.discard]
theorem takeFault_held (hf : (s.slot d k).heldBy 0 = false) : HeldFault (.next (takeFault s d k 0 f)) d k 0 f.code f.addr f.unit := by
  have hn : vget (s.slot d k).flt 0 = none := Option.isNone_iff_eq_none.1 (Option.isSome_eq_false_iff.1 hf)
  refine ⟨_, rfl, ⟨(s.die d).faultRec d k 0 f, s.openRec d k 0, none⟩, ?_, rfl, rfl, rfl⟩
  rw [takeFault_slot, show agNum 0 = 0 from rfl]
  cases h : codeRpl f.code <;> simp [slotFault, h, Slot.dropRows, Slot.modCtl, Slot.discard, hn, show agNum 0 = 0 from rfl]

end CoreFault

end Sys2Proof.Proofs
end

section
/-! SUPPORT. Scalar stores (R89, R109, R133, R180, R181): what a store holds, the 65th access of a block, and the drain step of a store to its own die and towards a peer. -/

namespace Sys2Proof.Proofs

open Sys2Proof Sys2Proof.Machine Sys2Proof.Laws

/-! ## A scalar store (R133, R180) -/

section Store
variable {s : State} {d : DieId} {k : SlotId} {b : Open} {y : Die} {p : Piece} {n : Nat} (hc : AtCore s d k b) (hacq : (s.ctl d k).acq = none)

section Goes
variable {o : RSt} (hv : b.regs.isFull o.v = true) (ha : b.regs.isFull o.a = true) (h0 : (b.regs.get o.a + o.imm.signExtend 64).toNat % n = 0)
  (hx : access d (s.die d) ((s.die d).who (.core k) k) (b.regs.get o.a + o.imm.signExtend 64).toNat n ⟨[0, 1, 2, 4], false, true⟩ = .ok y p)
include hc hacq hv ha h0 hx

theorem ctlStore_held (hn : b.nst ≠ 64) : ctlStore o n s = bodyNext (s.modDie d fun _ => y) d k
    { b with nst := b.nst + 1, ops := b.ops ++ [.store ⟨p, natLe n (b.regs.get o.v).toNat⟩ (packPlace b.hdr (b.at_ b.pos) 0)] } 2 o.na := by
  refine ctlDo_ok hc _ ((src_full hv).trans ((src_full ha).trans ((held_none hacq).trans ((scalarAccess_ok h0 hx).trans ?_))))
  exact if_neg hn
theorem ctlStore_over (hn : b.nst = 64) : ctlStore o n s = .next (ctlFault (s.modDie d fun _ => y) d k b b.pos 3 0 0 0) := by
  refine ctlDo_fault hc _ ((src_full hv).trans ((src_full ha).trans ((held_none hacq).trans ((scalarAccess_ok h0 hx).trans ?_))))
  exact if_pos hn
end Goes

section Amo
variable {o : RAmo} (ha : b.regs.isFull o.a = true) (hb : b.regs.isFull o.b = true) (h0 : (b.regs.get o.a).toNat % n = 0) (hw : n = if o.w64 then 8 else 4)
  (hx : access d (s.die d) ((s.die d).who (.core k) k) (b.regs.get o.a).toNat n ⟨[0, 1, 2, 4], true, true⟩ = .ok y p)
include hc hacq ha hb h0 hw hx

theorem ctlAmo_over {op : AmoOp} (hd : op ≠ .cas ∨ b.regs.isFull o.d = true) (hn : b.nst = 64) : ctlAmo o op s = .next (ctlFault (s.modDie d fun _ => y) d k b b.pos 3 0 0 0) := by
  subst hw
  refine ctlDo_fault hc _ ((src_full ha).trans ((src_full hb).trans ((src_full (amo_dest_full hd)).trans ((held_none hacq).trans ((scalarAccess_ok h0 hx).trans ?_)))))
  exact if_pos hn
theorem ctlAmo_held {op : AmoOp} (hd : op ≠ .cas ∨ b.regs.isFull o.d = true) (hn : b.nst ≠ 64) :
    let u := s.modDie d fun _ => y
    let tag := (u.ctl d k).ntag
    ctlAmo o op s = bodyNext (u.modCtl d k fun c => { c with ntag := tag + 1 }) d k
      { b with nst := b.nst + 1, regs := b.regs.empty o.d tag,
               ops := b.ops ++ [.amo ⟨tag, p, .amo o.w64, packPlace b.hdr (b.at_ b.pos) 0, (u.ctl d k).ccnt⟩ op o.w64 o.ord o.scope (b.regs.get o.b) (b.regs.get o.d)] } 2 o.na := by
  subst hw
  refine ctlDo_ok hc _ ((src_full ha).trans ((src_full hb).trans ((src_full (amo_dest_full hd)).trans ((held_none hacq).trans ((scalarAccess_ok h0 hx).trans ?_)))))
  exact (if_neg hn).trans rfl
end Amo

/-- A block-capacity fault is held for the record, and the block is discarded. -/
def OverCapacity (t : Out) (d : DieId) (k : SlotId) : Prop := HeldFault t d k 0 3 0 0 ∧ ∃ u, t = .next u ∧ (u.ctl d k).opn = none
omit hc hacq in
/-- The fault of an access that the access check has passed. -/
theorem over_leaves {w : Who} {va len : Nat} {nd : Need} (hx : access d (s.die d) w va len nd = .ok y p) (hbad : b.bad = none) (hf : (s.slot d k).heldBy 0 = false) :
    OverCapacity (.next (ctlFault (s.modDie d fun _ => y) d k b b.pos 3 0 0 0)) d k := by
  have hslot : ((s.modDie d fun _ => y).slot d k).flt = (s.slot d k).flt := by
    have := congrArg Slot.flt (access_slot hx k)
    rwa [State.slot, State.die_modDie_same]
  rw [ctlFault_legal hbad]
  exact ⟨takeFault_held (by rw [Slot.heldBy, hslot]; exact hf), _, rfl, takeFault_opn⟩
end Store

/-! ## A page marked dirty (R89) -/

section Mark
variable {P : Die → Prop} (hpoke : ∀ d a w, P d → P (d.poke a (wordLe 8 w) false)) (htlb : ∀ d t f, P d → P (d.modTlb t f))
  (hag : ∀ d a (f : List SbOp → List SbOp), P d → P (d.modAg a fun x => { x with sb := f x.sb }))
include hpoke htlb hag
theorem markDirty_keeps (d : Die) (t : TlbId) (p : Piece) (h : P d) : P (d.markDirty t p) := by
  unfold Die.markDirty
  cases p.dirty with
  | none => exact h
  | some leaf =>
    have fold (l : List Agent) (d : Die) (h : P d) : P (l.foldl (fun d a => d.modAg a fun x => { x with sb := x.sb.map (·.clean p) }) d) := by
      induction l generalizing d with
      | nil => exact h
      | cons a l ih => exact ih _ (hag _ _ _ h)
    exact fold _ _ (htlb _ _ _ (hpoke _ _ _ h))
end Mark

theorem markDirty_clean {d : Die} {t : TlbId} {p : Piece} (h : p.dirty = none) : d.markDirty t p = d := by
  unfold Die.markDirty; rw [h]
theorem clean_of_clean {p : Piece} (h : p.dirty = none) (l : List SbOp) : l.map (·.clean p) = l := by
  have hp (q : Piece) : p.clean q = q := by
    have : p.samePage q = false := by cases hq : q.dirty <;> simp [Piece.samePage, h, hq]
    simp [Piece.clean, this]
  have ho (o : SbOp) : o.clean p = o := by cases o <;> simp [SbOp.clean, Wr.clean, hp, funext hp]
  simp [ho]
@[simp] theorem modAg_mem_sb (d : Die) (a : Agent) (f : AgentSt → AgentSt) : (d.modAg a f).mem = d.mem := Die.modAg_mem d a f

/-- The ports of a slot are no part of an agent or of a TLB. -/
@[simp] theorem modAg_ports (d : Die) (a : Agent) (f : AgentSt → AgentSt) (k : SlotId) : ((d.modAg a f).slot k).ports = (d.slot k).ports := by
  cases a with
  | core j => exact slot_modSlot_keeps Slot.ports d j k fun _ => rfl
  | eng j e => cases e <;> exact slot_modSlot_keeps Slot.ports d j k fun _ => rfl
  | _ => rfl
theorem pins_congr {d e : Die} (h : ∀ k, (e.slot k).ports = (d.slot k).ports) : e.pins = d.pins := by
  unfold Die.pins
  exact congrArg (List.flatMap · allSlots) (funext fun k => by rw [h])

/-- What the mark of a page leaves of its die but memory: what is held, every pin, the gate, the registers. -/
structure MarkLeaves (d e : Die) : Prop where
  held : e.held = d.held
  ports : ∀ k, (e.slot k).ports = (d.slot k).ports
  gate : e.gate = d.gate
  reg : e.reg = d.reg
  ctl : ∀ k, (e.slot k).ctl = (d.slot k).ctl
theorem mustHold_congr {d e : Die} (hh : e.held = d.held) (hp : ∀ k, (e.slot k).ports = (d.slot k).ports) : e.mustHold = d.mustHold := by
  funext a src fab l
  unfold Die.mustHold Die.heldOf heldReady
  rw [hh, pins_congr hp]
theorem MarkLeaves.mustHold {d e : Die} (h : MarkLeaves d e) : e.mustHold = d.mustHold := mustHold_congr h.held h.ports
theorem MarkLeaves.modAg {d e : Die} (h : MarkLeaves d e) (a : Agent) (f : AgentSt → AgentSt) : MarkLeaves d (e.modAg a f) :=
  ⟨(modAg_held _ _ _).trans h.held, fun k => (modAg_ports _ _ _ _).trans (h.ports k), (modAg_gate _ _ _).trans h.gate, (modAg_reg _ _ _).trans h.reg, fun k => (modAg_ctl _ _ _ _).trans (h.ctl k)⟩
theorem MarkLeaves.modTlb {d e : Die} (h : MarkLeaves d e) (t : TlbId) (f : List TlbEntry → List TlbEntry) : MarkLeaves d (e.modTlb t f) := by
  cases t with
  | slot j =>
    exact ⟨h.held, fun k => (slot_modSlot_keeps (f := fun x => { x with tlb := f x.tlb }) Slot.ports e j k fun _ => rfl).trans (h.ports k), h.gate, h.reg,
      fun k => (slot_modSlot_keeps (f := fun x => { x with tlb := f x.tlb }) Slot.ctl e j k fun _ => rfl).trans (h.ctl k)⟩
  | copy c => exact ⟨h.held, h.ports, h.gate, h.reg, h.ctl⟩
  | coll => exact ⟨h.held, h.ports, h.gate, h.reg, h.ctl⟩
theorem markLeaves (d : Die) (t : TlbId) (p : Piece) : MarkLeaves d (d.markDirty t p) :=
  markDirty_keeps (P := MarkLeaves d) (fun _ _ _ h => ⟨h.held, h.ports, h.gate, h.reg, h.ctl⟩) (fun _ _ _ h => h.modTlb _ _) (fun _ _ _ h => h.modAg _ _) d t p
    ⟨rfl, fun _ => rfl, rfl, rfl, fun _ => rfl⟩
theorem markDirty_wf (d : Die) (t : TlbId) (p : Piece) (h : memWf d.mem = true) : memWf (d.markDirty t p).mem = true :=
  markDirty_keeps (P := fun d => memWf d.mem = true) (fun d a w h => memWf_poke d a _ _ h) (fun d t f h => by rwa [Die.modTlb_mem]) (fun d a f h => by rwa [Die.modAg_mem]) d t p h

theorem length_natLe (n v : Nat) : (natLe n v).length = n := by
  induction n generalizing v with
  | zero => rfl
  | succ n ih => simp [natLe, ih]
theorem foldl_clean_mem (p : Piece) (l : List Agent) (d : Die) : (l.foldl (fun d a => d.modAg a fun x => { x with sb := x.sb.map (·.clean p) }) d).mem = d.mem := by
  induction l generalizing d with
  | nil => rfl
  | cons a l ih => exact (ih _).trans (Die.modAg_mem _ _ _)
/-- The mark changes the eight bytes of its leaf and no other. -/
theorem markDirty_memGet (d : Die) (t : TlbId) (p : Piece) (h : memWf d.mem = true) (a : Nat) (ha : ∀ leaf, p.dirty = some leaf → ¬ (leaf ≤ a ∧ a < leaf + 8)) :
    memGet (d.markDirty t p).mem a = memGet d.mem a := by
  unfold Die.markDirty
  cases hd : p.dirty with
  | none => rfl
  | some leaf =>
    dsimp only
    rw [foldl_clean_mem, Die.modTlb_mem, memGet_poke _ _ _ _ _ h, wordLe, length_natLe, if_neg (ha leaf hd)]
/-- Of a control core the mark changes the entries of its store buffer alone. -/
theorem markDirty_ag (d : Die) (k : SlotId) (p : Piece) : (d.markDirty (.slot k) p).ag (.core k) = { d.ag (.core k) with sb := (d.ag (.core k)).sb.map (·.clean p) } := by
  cases hd : p.dirty with
  | none => rw [markDirty_clean hd, clean_of_clean hd]
  | some leaf =>
    unfold Die.markDirty
    simp only [hd]
    have hp (l : Nat) (w : List Byte) : (d.poke l w false).slot k = d.slot k := rfl
    simp [tlbAgents, Die.ag, Die.modAg, Die.modTlb, Die.slot_modSlot_same, hp]

/-! ## The head of a store buffer leaves it (R109, R194) -/

/-- The state in which the head of a control core's store buffer is performed: the page of its piece marked, the head gone. -/
def drained (s : State) (d : DieId) (k : SlotId) (p : Piece) : State := popSb (s.modDie d fun y => y.markDirty (.slot k) p) d (.core k)

section Drained
variable (s : State) (d : DieId) (k : SlotId) (p : Piece)

theorem popSb_die_ne {e : DieId} (h : d ≠ e) : (popSb s d (.core k)).die e = s.die e := by
  rw [popSb, State.modCtl, State.die_modSlot_ne _ h, State.modAg, State.die_modDie_ne _ h]
theorem popSb_die : (popSb s d (.core k)).die d = ((s.die d).modAg (.core k) fun x => { x with sb := x.sb.drop 1 }).modSlot k fun t => t.modCtl fun c => { c with arvs := c.arvs.map fun v => (v.1, v.2.1 - 1, v.2.2) } := by
  simp [popSb, State.modCtl, State.modAg]
theorem popSb_ag : (popSb s d (.core k)).ag d (.core k) = { s.ag d (.core k) with sb := (s.ag d (.core k)).sb.drop 1 } := by
  rw [State.ag, popSb_die]
  simp [Die.ag, Die.modAg, Slot.modCtl, State.ag]
theorem popSb_regs : ((popSb s d (.core k)).ctl d k).regs = (s.ctl d k).regs := by
  rw [State.ctl, State.slot, popSb_die]
  simp [Slot.modCtl, State.ctl, State.slot]
theorem popSb_leaves {e : Die} (h : MarkLeaves e (s.die d)) : ((popSb s d (.core k)).die d).mustHold = e.mustHold ∧ ((popSb s d (.core k)).die d).gate = e.gate ∧
    ((popSb s d (.core k)).die d).reg = e.reg ∧ ((popSb s d (.core k)).die d).mem = (s.die d).mem := by
  have g := h.modAg (.core k) fun x => { x with sb := x.sb.drop 1 }
  rw [popSb_die]
  refine ⟨?_, g.gate, g.reg, Die.modAg_mem _ _ _⟩
  rw [← g.mustHold]
  exact mustHold_congr rfl fun j => slot_modSlot_keeps (f := fun t => t.modCtl fun c => { c with arvs := c.arvs.map fun v => (v.1, v.2.1 - 1, v.2.2) }) Slot.ports _ k j fun _ => rfl

theorem drained_die_ne {e : DieId} (h : d ≠ e) : (drained s d k p).die e = s.die e := by
  rw [drained, popSb_die_ne _ _ _ h, State.die_modDie_ne _ h]
theorem drained_ag : (drained s d k p).ag d (.core k) = { s.ag d (.core k) with sb := ((s.ag d (.core k)).sb.map (·.clean p)).drop 1 } := by
  rw [drained, popSb_ag, State.ag, State.die_modDie_same, markDirty_ag]
  rfl
theorem drained_leaves : ((drained s d k p).die d).mustHold = (s.die d).mustHold ∧ ((drained s d k p).die d).gate = (s.die d).gate ∧
    ((drained s d k p).die d).reg = (s.die d).reg ∧ ((drained s d k p).die d).mem = ((s.die d).markDirty (.slot k) p).mem := by
  have h := popSb_leaves (s.modDie d fun y => y.markDirty (.slot k) p) d k (e := s.die d) (by rw [State.die_modDie_same]; exact markLeaves _ _ _)
  rwa [State.die_modDie_same] at h

end Drained

/-! ## The drain step of a store (R109) -/

section DrainStore
variable {s : State} {d : DieId} {k : SlotId} {p : Piece} {data : List Byte} {word : Nat} {seq : W32} {rest : List SbOp}
  (hsb : (s.ag d (.core k)).sb = .write [⟨p, data⟩] false word seq :: rest) (hpair : (s.die d).paired d = none) (hleaf : (s.die d).leafBad p = false)

theorem filter_allDies (h : DieId) : (allDies.filter fun x => h == x) = [h] := by revert h; decide
theorem paired_congr {y z : Die} (h : z.reg = y.reg) : z.paired d = y.paired d := by
  simp [Die.paired, Die.getReg, Die.reg?, h]
theorem pairStores_none {l : List PairIn} {a : Agent} (h : (s.die d).paired d = none) : s.pairStores d a l = s := by simp [State.pairStores, h]
theorem drained_paired (h : (s.die d).paired d = none) : ((drained s d k p).die d).paired d = none :=
  (paired_congr (drained_leaves s d k p).2.2.1).trans h

include hsb hpair hleaf in
theorem drainStep_write : drainStep s d (.core k) .ok = drainWrite s d (.core k) .ok [⟨p, data⟩] false word seq := by
  simp [drainStep, hsb, SbOp.pieces, hleaf, State.pairRoom, hpair]
include hpair in
theorem drainWrite_here {pa : Nat} (hloc : p.loc = .here pa) (hd : data ≠ []) (hm : (s.die d).mustHold (.core k) d none (linesOf pa data.length) = false) :
    drainWrite s d (.core k) .ok [⟨p, data⟩] false word seq = (drained s d k p).modDie d fun y => y.poke pa data false := by
  have happ (y : Die) : y.apply d pa data false .ok = y.poke pa data false := by
    cases data with
    | nil => exact absurd rfl hd
    | cons b r => simp [Die.apply, Die.meet]
  have hw : drainWrite s d (.core k) .ok [⟨p, data⟩] false word seq = applyLocal (drained s d k p) d (.core k) (.write [⟨p, data⟩] false word seq) .ok := by
    unfold drainWrite
    simp only [hloc, tlbOf, List.foldl_cons, List.foldl_nil, List.isEmpty_nil, if_true, Bool.false_eq_true, if_false]
    exact congrArg (applyLocal · d (.core k) (.write [⟨p, data⟩] false word seq) .ok) (pairStores_none (drained_paired hpair))
  rw [hw, applyLocal]
  simp only [SbOp.lines, List.flatMap_cons, List.flatMap_nil, hloc, List.append_nil, (drained_leaves s d k p).1, hm, localWrs, List.filterMap_cons, List.filterMap_nil,
    List.foldl_cons, List.foldl_nil, happ, Bool.false_eq_true, if_false]
include hpair in
theorem drainWrite_peer {h : DieId} {idx gen off : Nat} (hloc : p.loc = .peer h idx gen off) :
    drainWrite s d (.core k) .ok [⟨p, data⟩] false word seq =
      sendReq ((drained s d k p).modDie d fun y => (y.bump d).2) d (.core k) h (vget (s.die d).gate.v d + 1) none (.write [⟨p, data⟩] false word seq) word seq
        fun key n v => .write (.core k) key n v [(idx, gen, off, data)] false := by
  have hmute : (drained s d k p).muted d = false := by simp [State.muted, drained_paired hpair]
  have hhome : peerHomes [⟨p, data⟩] = [h] := by
    simp only [peerHomes, hloc, List.any_cons, List.any_nil, Bool.or_false]
    exact filter_allDies h
  have hps : popSb (s.modDie d fun y => y.markDirty (.slot k) p) d (.core k) = drained s d k p := rfl
  have hgo (l : List PairIn) : (drained s d k p).pairStores d (.core k) l = drained s d k p := pairStores_none (drained_paired hpair)
  unfold drainWrite
  simp only [hloc, tlbOf, List.foldl_cons, List.foldl_nil, List.isEmpty_nil, if_true, Bool.false_eq_true, if_false, List.filter_cons, List.filter_nil, Bool.not_true, hps, hgo, hmute, hhome,
    peerWrs, List.filterMap_cons, List.filterMap_nil, beq_self_eq_true, Die.bump, (drained_leaves s d k p).2.1]

end DrainStore

/-- Settles O6: a store goes through `scalarAccess`; its drain step pokes its bytes after the mark of its page, or sends one counted request that stays pending. -/
theorem scalarStores : Obligations.ScalarStores := by
  refine ⟨fun s d k b o y p hc hv ha hacq => ?_, fun s d k b o y p hc ha hb hacq hn hbad hf => ?_, fun s d k p data word seq rest pa hm hsb hloc hd hh hp hl => ?_,
    fun s d h k p data word seq rest idx gen off hm hsb hloc hne hlost hp hl => ?_⟩
  · intro ea goes held
    refine ⟨fun hn h => (exec_stb o s).trans (ctlStore_held hc hacq hv ha h.1 h.2 hn), fun hn h => (exec_sth o s).trans (ctlStore_held hc hacq hv ha h.1 h.2 hn),
      fun hn h => (exec_stw o s).trans (ctlStore_held hc hacq hv ha h.1 h.2 hn), fun hn h => (exec_std o s).trans (ctlStore_held hc hacq hv ha h.1 h.2 hn), ?_⟩
    intro full hn hbad hf
    have capacity {i : RSt → Instr} {n : Nat} (he : ∀ s, exec (i o) s = ctlStore o n s) (h : goes n) : full (exec (i o) s) := by
      rw [he, ctlStore_over hc hacq hv ha h.1 h.2 hn]
      exact over_leaves h.2 hbad hf
    exact ⟨capacity (exec_stb o), capacity (exec_sth o), capacity (exec_stw o), capacity (exec_std o)⟩
  · intro n ea h0 hx full
    have capacity {i : RAmo → Instr} {op : AmoOp} (he : ∀ s, exec (i o) s = ctlAmo o op s) (hd : op ≠ .cas ∨ b.regs.isFull o.d = true) : full (exec (i o) s) := by
      rw [he, ctlAmo_over hc hacq ha hb h0 rfl hx hd hn]
      exact over_leaves hx hbad hf
    exact ⟨capacity (exec_amoadd o) (.inl nofun), capacity (exec_amoand o) (.inl nofun), capacity (exec_amoor o) (.inl nofun), capacity (exec_amoxor o) (.inl nofun), capacity (exec_amomin o) (.inl nofun),
      capacity (exec_amomax o) (.inl nofun), capacity (exec_amoswap o) (.inl nofun), fun hd => capacity (exec_amocas o) (.inr hd)⟩
  · have hsb' : ((drained s d k p).modDie d fun y => y.poke pa data false).ag d (.core k) = { s.ag d (.core k) with sb := rest.map (·.clean p) } := by
      rw [State.ag, State.die_modDie_same]
      exact (drained_ag s d k p).trans (by rw [hsb]; rfl)
    have hmem : ((drained s d k p).die d).mem = ((s.die d).markDirty (.slot k) p).mem := (drained_leaves s d k p).2.2.2
    have hwf := markDirty_wf (s.die d) (.slot k) p (hm d)
    have hget (a : Nat) : memGet (((drained s d k p).modDie d fun y => y.poke pa data false).die d).mem a =
        if pa ≤ a ∧ a < pa + data.length then data.getD (a - pa) 0 else memGet ((s.die d).markDirty (.slot k) p).mem a := by
      rw [State.die_modDie_same, memGet_poke _ _ _ _ _ (by rwa [hmem]), hmem]
    refine ⟨_, congrArg Host.Outcome.next ((drainStep_write hsb hp hl).trans (drainWrite_here hp hloc hd hh)), ?_, fun hcl => ?_, fun e he => ?_, fun a h1 h2 => ?_, fun a hn hlf => ?_⟩
    · rw [hsb']
    · rw [hsb']; exact clean_of_clean hcl rest
    · rw [State.die_modDie_ne _ (Ne.symm he), drained_die_ne _ _ _ _ (Ne.symm he)]
    · rw [hget, if_pos ⟨h1, h2⟩]
    · rw [hget, if_neg hn, markDirty_memGet _ _ _ (hm d) a hlf]
  · intro key n
    let v := (drained s d k p).modDie d fun y => (y.bump d).2
    let q : Sent := ⟨key, h, none, .write [⟨p, data⟩] false word seq, word, seq, 24, p.va⟩
    have hgate : (v.die d).gate = { (s.die d).gate with v := vset (s.die d).gate.v d n, g := vset (s.die d).gate.g d n } := by
      simp [v, Die.bump, (drained_leaves s d k p).2.1, n]
    have hag : v.ag d (.core k) = { s.ag d (.core k) with sb := rest.map (·.clean p) } := by
      simp only [v, State.ag, State.die_modDie_same]
      exact (drained_ag s d k p).trans (by rw [hsb]; rfl)
    have hlost' : (v.die d).isLost d h = false := by
      have : (v.die d).reg = (s.die d).reg := by simp [v, Die.bump, (drained_leaves s d k p).2.2.1]
      rw [← hlost]; simp [Die.isLost, Die.getReg, Die.reg?, this]
    have hmem : (v.die d).mem = ((s.die d).markDirty (.slot k) p).mem := by
      simp [v, Die.bump, (drained_leaves s d k p).2.2.2]
    have he : exec (.drainStep d (.core k) .ok) s = .next ((pended v d (.core k) q).send d h (.write (.core k) key n (vset (s.die d).gate.v d n) [(idx, gen, off, data)] false)) := by
      refine congrArg Host.Outcome.next ((drainStep_write hsb hp hl).trans ((drainWrite_peer hp hloc).trans ((sendReq_pends hlost').trans ?_)))
      rw [hag, hgate]
      rfl
    refine ⟨_, he, rfl, rfl, fun e hne => ?_, ?_, ?_, ?_, fun a ha => ?_⟩
    · rw [pended_die_ne _ _ _ _ (Ne.symm hne), State.die_modDie_ne _ (Ne.symm hne), drained_die_ne _ _ _ _ (Ne.symm hne)]
    · rw [pended_gate, hgate]; exact vget_vset_same _ _ _
    · rw [pended_ag, hag]
    · rw [pended_ag, hag]
    · rw [pended_sameMem, hmem, markDirty_memGet _ _ _ (hm d) a ha]

end Sys2Proof.Proofs
end

section
/-! SUPPORT. Atomics (R109, R182, R183, R394): the value an atomic leaves, as a number of its width, and its drain step at the own die and towards a peer. -/

namespace Sys2Proof.Proofs

open Sys2Proof Sys2Proof.Machine Sys2Proof.Laws

/-! ## Little-endian bytes and their number -/

theorem leNat_natLe (n v : Nat) : leNat (natLe n v) = v % 2 ^ (8 * n) := by
  induction n generalizing v with
  | zero => simp [natLe, leNat, Nat.mod_one]
  | succ n ih =>
    rw [natLe, leNat, ih, BitVec.toNat_ofNat, show 8 * (n + 1) = 8 + 8 * n by omega, pow_add, Nat.mod_mul]
    rfl
theorem natLe_mod (n v : Nat) : natLe n (v % 2 ^ (8 * n)) = natLe n v := by
  induction n generalizing v with
  | zero => rfl
  | succ n ih =>
    rw [natLe, natLe, show 8 * (n + 1) = 8 + 8 * n by omega, pow_add, ← ih (v / 256), show v % (2 ^ 8 * 2 ^ (8 * n)) / 256 = v / 256 % 2 ^ (8 * n) from Nat.mod_mul_right_div_self _ _ _]
    congr 1
    refine BitVec.eq_of_toNat_eq ?_
    rw [BitVec.toNat_ofNat, BitVec.toNat_ofNat]
    exact Nat.mod_mul_right_mod _ _ _
theorem natLe_leNat {n : Nat} {bs : List Byte} (h : bs.length = n) : natLe n (leNat bs) = bs := by
  induction bs generalizing n with
  | nil => subst h; rfl
  | cons b r ih =>
    subst h
    have hb := b.isLt
    rw [List.length_cons, natLe, leNat]
    congr 1
    · refine BitVec.eq_of_toNat_eq ?_
      rw [BitVec.toNat_ofNat]; omega
    · rw [show (b.toNat + 256 * leNat r) / 256 = leNat r by omega]; exact ih rfl
theorem length_peek (d : Die) (a n : Nat) : (d.peek a n).length = n := by
  unfold Die.peek memRead
  induction n generalizing a with
  | zero => rfl
  | succ n ih => rw [spRead, List.length_cons, ih]
theorem peek_getD (d : Die) (a n i : Nat) (h : i < n) : (d.peek a n).getD i 0 = memGet d.mem (a + i) := by
  unfold Die.peek memRead
  induction n generalizing a i with
  | zero => omega
  | succ n ih =>
    rw [spRead]
    cases i with
    | zero => rfl
    | succ i => rw [List.getD_cons_succ, ih (a + 1) i (by omega), show a + 1 + i = a + (i + 1) by omega]

/-! ## The value an atomic leaves (R182) -/

/-- The bits of an atomic's width. -/
def amoBits (w64 : Bool) : Nat := 8 * if w64 then 8 else 4
/-- An operand as an atomic of a width takes it. -/
def amoCut (w64 : Bool) (w : Word) : Word := if w64 then w else loadVal 4 true [] (wordLe 4 w)

theorem amoCut_eq (w64 : Bool) (w : Word) : amoCut w64 w = BitVec.ofInt 64 (Int.bmod w.toNat (2 ^ amoBits w64)) := by
  cases w64 with
  | true =>
    refine BitVec.eq_of_toInt_eq ?_
    rw [BitVec.toInt_ofInt]
    exact (BitVec.toInt_eq_toNat_bmod w).trans (Int.bmod_bmod (x := w.toNat) (m := 2 ^ 64)).symm
  | false =>
    have h : loadVal 4 true [] (wordLe 4 w) = _ := loadVal_signed (n := 4) (by simp) (length_natLe 4 w.toNat)
    rw [amoCut, if_neg (by simp), h, wordLe, leNat_natLe]
    exact congrArg (BitVec.ofInt 64) (Int.emod_bmod w.toNat (2 ^ 32))
theorem amoCut_low (w64 : Bool) (w : Word) : (amoCut w64 w).toNat % 2 ^ amoBits w64 = w.toNat % 2 ^ amoBits w64 := by
  rw [amoCut_eq, BitVec.toNat_ofInt]
  cases w64 <;> simp only [amoBits, Int.bmod_def, if_true, Bool.false_eq_true, if_false] <;> omega
theorem amoCut_int (w64 : Bool) (w : Word) : (amoCut w64 w).toInt = Int.bmod w.toNat (2 ^ amoBits w64) := by
  rw [amoCut_eq, BitVec.toInt_ofInt]
  cases w64 <;> simp only [amoBits, Int.bmod_def, if_true, Bool.false_eq_true, if_false] <;> omega

theorem amoNew_eq (op : AmoOp) (w64 : Bool) (o b x : Word) : amoNew op w64 o b x =
    match op with
    | .add => amoCut w64 o + amoCut w64 b
    | .and => amoCut w64 o &&& amoCut w64 b
    | .or => amoCut w64 o ||| amoCut w64 b
    | .xor => amoCut w64 o ^^^ amoCut w64 b
    | .min => if (amoCut w64 o).slt (amoCut w64 b) then amoCut w64 o else amoCut w64 b
    | .max => if (amoCut w64 o).slt (amoCut w64 b) then amoCut w64 b else amoCut w64 o
    | .swap => amoCut w64 b
    | .cas => if amoCut w64 o = amoCut w64 x then amoCut w64 b else amoCut w64 o := by
  cases op <;> rfl
/-- Two operands are equal at a width as their low bits are. -/
theorem amoCut_inj (w64 : Bool) (v w : Word) : amoCut w64 v = amoCut w64 w ↔ v.toNat % 2 ^ amoBits w64 = w.toNat % 2 ^ amoBits w64 := by
  constructor
  · intro h
    rw [← amoCut_low, h, amoCut_low]
  · intro h
    have e := congrArg (fun n : Nat => Int.bmod n (2 ^ amoBits w64)) h
    simp only [Int.natCast_mod, Int.emod_bmod] at e
    rw [amoCut_eq, amoCut_eq, e]

/-- The new value as the specification states it: `old` the number at the address, `m` two to the width. -/
def amoSpec (op : AmoOp) (m old v x : Nat) : Nat :=
  match op with
  | .add => (old + v) % m
  | .and => old &&& v % m | .or => old ||| v % m | .xor => old ^^^ v % m
  | .min => if Int.bmod old m ≤ Int.bmod (v % m : Nat) m then old else v % m
  | .max => if Int.bmod old m ≤ Int.bmod (v % m : Nat) m then v % m else old
  | .swap => v % m
  | .cas => if old = x % m then v % m else old

theorem bmod_inj {m a b : Nat} (ha : a < m) (hb : b < m) (h : Int.bmod a m = Int.bmod b m) : a = b := by
  have e := congrArg (· % (m : Int)) h
  simp only [Int.bmod_emod] at e
  rw [← Nat.mod_eq_of_lt ha, ← Nat.mod_eq_of_lt hb]
  exact_mod_cast e
theorem amoNew_low (op : AmoOp) (w64 : Bool) (o b x : Word) (old : Nat) (ho : o.toNat = old) (hlt : old < 2 ^ amoBits w64) :
    (amoNew op w64 o b x).toNat % 2 ^ amoBits w64 = amoSpec op (2 ^ amoBits w64) old b.toNat x.toNat := by
  have lo := amoCut_low w64 o
  have lb := amoCut_low w64 b
  have io := amoCut_int w64 o
  have ib := amoCut_int w64 b
  have ob : Int.bmod ((b.toNat % 2 ^ amoBits w64 : Nat) : Int) (2 ^ amoBits w64) = Int.bmod b.toNat (2 ^ amoBits w64) :=
    (congrArg (Int.bmod · (2 ^ amoBits w64)) (Int.natCast_mod _ _)).trans (Int.emod_bmod _ _)
  have hpos : b.toNat % 2 ^ amoBits w64 < 2 ^ amoBits w64 := Nat.mod_lt _ (by positivity)
  rw [ho, Nat.mod_eq_of_lt hlt] at lo
  rw [ho] at io
  rw [amoNew_eq]
  cases op with
  | add =>
    simp only [amoSpec, BitVec.toNat_add]
    rw [Nat.mod_mod_of_dvd _ (by cases w64 <;> decide : 2 ^ amoBits w64 ∣ 2 ^ 64), Nat.add_mod, lo, lb, Nat.add_mod_mod]
  | and => simp only [amoSpec, BitVec.toNat_and]; rw [Nat.and_mod_two_pow, lo, lb]
  | or => simp only [amoSpec, BitVec.toNat_or]; rw [Nat.or_mod_two_pow, lo, lb]
  | xor => simp only [amoSpec, BitVec.toNat_xor]; rw [Nat.xor_mod_two_pow, lo, lb]
  | min =>
    simp only [amoSpec, BitVec.slt_iff_toInt_lt, io, ib, ob]
    rcases lt_trichotomy (Int.bmod old (2 ^ amoBits w64)) (Int.bmod b.toNat (2 ^ amoBits w64)) with h | h | h
    · rw [if_pos h, if_pos h.le, lo]
    · rw [if_neg h.not_lt, if_pos h.le, lb]
      exact (bmod_inj hlt hpos (h.trans ob.symm)).symm
    · rw [if_neg h.not_gt, if_neg h.not_ge, lb]
  | max =>
    simp only [amoSpec, BitVec.slt_iff_toInt_lt, io, ib, ob]
    rcases lt_trichotomy (Int.bmod old (2 ^ amoBits w64)) (Int.bmod b.toNat (2 ^ amoBits w64)) with h | h | h
    · rw [if_pos h, if_pos h.le, lb]
    · rw [if_neg h.not_lt, if_pos h.le, lo]
      exact bmod_inj hlt hpos (h.trans ob.symm)
    · rw [if_neg h.not_gt, if_neg h.not_ge, lo]
  | swap => exact lb
  | cas =>
    simp only [amoSpec, amoCut_inj, ho, Nat.mod_eq_of_lt hlt]
    split
    · exact lb
    · exact lo
/-- An atomic that does not write leaves the value that stands there. -/
theorem amoWrites_eq (op : AmoOp) (w64 : Bool) (o x : Word) : amoWrites op w64 o x = true ∨ (op = .cas ∧ o.toNat % 2 ^ amoBits w64 ≠ x.toNat % 2 ^ amoBits w64) := by
  cases op with
  | cas =>
    by_cases h : o.toNat % 2 ^ amoBits w64 = x.toNat % 2 ^ amoBits w64
    · refine .inl ?_
      cases w64 with
      | true =>
        have := o.isLt
        have := x.isLt
        simp only [amoBits, if_true] at h
        exact beq_iff_eq.2 (BitVec.eq_of_toNat_eq (by omega))
      | false => exact beq_iff_eq.2 (BitVec.eq_of_toNat_eq (by simpa [amoBits] using h))
    · exact .inr ⟨rfl, h⟩
  | _ => exact .inl rfl

theorem amoWrites_cas {w64 : Bool} {o x : Word} (h : amoWrites .cas w64 o x = true) : o.toNat % 2 ^ amoBits w64 = x.toNat % 2 ^ amoBits w64 := by
  cases w64 with
  | true => rw [beq_iff_eq.1 (show (o == x) = true from h)]
  | false => simpa [amoBits] using congrArg BitVec.toNat (beq_iff_eq.1 (show (o.setWidth 32 == x.setWidth 32) = true from h))

/-- The memory after an atomic at its home: the new value's bytes at its address, every other byte as it was. -/
theorem amo_memGet (y : Die) (pa : Nat) (op : AmoOp) (w64 : Bool) (v x : Word) (h : memWf y.mem = true) (a : Nat) :
    let n := if w64 then 8 else 4
    memGet (y.amo pa op w64 v x).2.mem a = if pa ≤ a ∧ a < pa + n then (natLe n (amoSpec op (2 ^ amoBits w64) (leNat (y.peek pa n)) v.toNat x.toNat)).getD (a - pa) 0 else memGet y.mem a := by
  intro n
  have hlen := length_peek y pa n
  have hlt : leNat (y.peek pa n) < 2 ^ amoBits w64 := by
    have := leNat_lt (y.peek pa n)
    rwa [hlen] at this
  have h64 : 2 ^ amoBits w64 ≤ 2 ^ 64 := by cases w64 <;> decide
  have ho : (leWord (y.peek pa n)).toNat = leNat (y.peek pa n) := by
    rw [leWord, BitVec.toNat_ofNat]; exact Nat.mod_eq_of_lt (hlt.trans_le h64)
  have hdie : (y.amo pa op w64 v x).2 = if amoWrites op w64 (leWord (y.peek pa n)) x then y.poke pa (wordLe n (amoNew op w64 (leWord (y.peek pa n)) v x)) false else y := rfl
  rw [hdie]
  rcases amoWrites_eq op w64 (leWord (y.peek pa n)) x with hw | ⟨rfl, hw⟩
  · rw [if_pos hw, memGet_poke _ _ _ _ _ h, wordLe, length_natLe, ← amoNew_low op w64 _ v x _ ho hlt]
    rw [show 2 ^ amoBits w64 = 2 ^ (8 * n) from rfl, natLe_mod]
  · have hs : amoSpec .cas (2 ^ amoBits w64) (leNat (y.peek pa n)) v.toNat x.toNat = leNat (y.peek pa n) := by
      rw [ho, Nat.mod_eq_of_lt hlt] at hw
      exact if_neg hw
    rw [if_neg fun g => hw (amoWrites_cas g), hs, natLe_leNat hlen]
    split
    · rename_i g
      rw [peek_getD _ _ _ _ (by omega), show pa + (a - pa) = a by omega]
    · rfl

/-! ## The drain step of an atomic (R109) -/

section DrainAmo
variable {s : State} {d : DieId} {k : SlotId} {r : Rd} {op : AmoOp} {w64 : Bool} {v x : Word} {rest : List SbOp}
  (hsb : (s.ag d (.core k)).sb = .amo r op w64 v x :: rest) (hcl : r.p.dirty = none) (hpair : (s.die d).paired d = none)

theorem popSb_paired (h : (s.die d).paired d = none) : ((popSb s d (.core k)).die d).paired d = none :=
  (paired_congr (popSb_leaves s d k (e := s.die d) ⟨rfl, fun _ => rfl, rfl, rfl, fun _ => rfl⟩).2.2.1).trans h
theorem popSb_same : ((popSb s d (.core k)).die d).mustHold = (s.die d).mustHold ∧ ((popSb s d (.core k)).die d).gate = (s.die d).gate ∧
    ((popSb s d (.core k)).die d).reg = (s.die d).reg ∧ ((popSb s d (.core k)).die d).mem = (s.die d).mem :=
  popSb_leaves s d k ⟨rfl, fun _ => rfl, rfl, rfl, fun _ => rfl⟩
theorem popSb_psn : ((popSb s d (.core k)).die d).psn = (s.die d).psn := by
  rw [popSb_die]; exact modAg_psn _ _ _

include hsb hcl hpair

theorem drainStep_amo_here {pa : Nat} (hloc : r.p.loc = .here pa) : drainStep s d (.core k) .ok = applyLocal (popSb s d (.core k)) d (.core k) (.amo r op w64 v x) .ok := by
  have hmark : ((popSb s d (.core k)).modDie d fun z => z.markDirty (tlbOf (.core k)) r.p) = popSb s d (.core k) := by
    simp only [markDirty_clean hcl]; exact keep_die _ _
  have hbad : (s.die d).leafBad r.p = false := by simp [Die.leafBad, hcl]
  have hgo (l : List PairIn) : (popSb s d (.core k)).pairStores d (.core k) l = popSb s d (.core k) := pairStores_none (popSb_paired hpair)
  simp only [drainStep, hsb, SbOp.pieces, List.find?_cons, List.find?_nil, hbad, State.pairRoom, hpair, hmark, hgo, hloc, Bool.not_true, Bool.false_eq_true, if_false]
theorem drainStep_amo_peer {h : DieId} {idx gen off : Nat} (hloc : r.p.loc = .peer h idx gen off) :
    drainStep s d (.core k) .ok = countReq (popSb s d (.core k)) d (.core k) h (some r) (.amo r op w64 v x) r.word r.seq fun key n g => .amo (.core k) key n g idx gen off op w64 v x := by
  have hmark : ((popSb s d (.core k)).modDie d fun z => z.markDirty (tlbOf (.core k)) r.p) = popSb s d (.core k) := by
    simp only [markDirty_clean hcl]; exact keep_die _ _
  have hbad : (s.die d).leafBad r.p = false := by simp [Die.leafBad, hcl]
  have hmute : (popSb s d (.core k)).muted d = false := by simp [State.muted, popSb_paired hpair]
  have hgo (l : List PairIn) : (popSb s d (.core k)).pairStores d (.core k) l = popSb s d (.core k) := pairStores_none (popSb_paired hpair)
  simp only [drainStep, hsb, SbOp.pieces, List.find?_cons, List.find?_nil, hbad, State.pairRoom, hpair, hmark, hgo, hloc, hmute, Bool.not_true, Bool.false_eq_true, if_false]
omit hsb hcl hpair in
/-- An atomic of the own die that nothing holds: the value at its address, then the old value to its registers. -/
theorem applyLocal_amo {pa : Nat} (u : State) (hloc : r.p.loc = .here pa) (hkind : r.kind = .amo w64) (hh : (u.die d).mustHold (.core k) d none (linesOf pa r.p.len) = false)
    (hpsn : (u.die d).poisoned pa r.p.len = false) :
    applyLocal u d (.core k) (.amo r op w64 v x) .ok =
      (u.modDie d fun _ => ((u.die d).amo pa op w64 v x).2).modSlot d k fun t => t.fillTag r.tag (amoVal w64 ((u.die d).amo pa op w64 v x).1) := by
  have hmeet : (u.modDie d fun y => y.meet d pa .ok) = u := keep_die u d
  simp only [applyLocal, hloc, SbOp.lines, hh, localAmo, locOff, hmeet, hpsn, finishRead, hkind, Bool.false_eq_true, if_false]

end DrainAmo

/-- An atomic at its home changes no slot. -/
theorem amo_slot (y : Die) (pa : Nat) (op : AmoOp) (w64 : Bool) (v x : Word) (k : SlotId) : (y.amo pa op w64 v x).2.slot k = y.slot k := by
  unfold Die.amo
  dsimp only
  generalize (if w64 then 8 else 4) = n
  split <;> rfl
theorem amoVal_eq (w64 : Bool) {bs : List Byte} (h : bs.length = if w64 then 8 else 4) : amoVal w64 bs = BitVec.ofInt 64 (Int.bmod (leNat bs) (2 ^ amoBits w64)) := by
  cases w64 with
  | false => exact loadVal_signed (n := 4) (by simp) h
  | true =>
    have e : amoVal true bs = BitVec.ofNat 64 (leNat bs) := loadVal_unsigned h
    have l : leNat bs < 2 ^ 64 := (leNat_lt bs).trans_eq (by rw [h]; rfl)
    have c := amoCut_eq true (BitVec.ofNat 64 (leNat bs))
    rw [BitVec.toNat_ofNat, Nat.mod_eq_of_lt l] at c
    exact e.trans c

/-- Settles O7: an atomic is held through `scalarAccess`; its drain step leaves `amoSpec` at its address and the old value in its registers, or sends one counted request. -/
theorem atomics : Obligations.Atomics := by
  refine ⟨fun s d k b o y p hc ha hb hacq hn => ?_, ?_,
    fun s d h k r op w64 v x rest idx gen off hsb hloc hne hlost hcl hp => ?_⟩
  · intro n ea h0 hx u tag r held
    have holds {i : RAmo → Instr} {op : AmoOp} (he : ∀ s, exec (i o) s = ctlAmo o op s) (hd : op ≠ .cas ∨ b.regs.isFull o.d = true) : exec (i o) s = held op :=
      (he s).trans (ctlAmo_held hc hacq ha hb h0 rfl hx hd hn)
    exact ⟨holds (exec_amoadd o) (.inl nofun), holds (exec_amoand o) (.inl nofun), holds (exec_amoor o) (.inl nofun), holds (exec_amoxor o) (.inl nofun), holds (exec_amomin o) (.inl nofun),
      holds (exec_amomax o) (.inl nofun), holds (exec_amoswap o) (.inl nofun), fun hd => holds (exec_amocas o) (.inr hd)⟩
  · intro s d k r op w64 v x rest pa hm n old cut num new hsb hkind hloc hlen hcl hh hpsn hp
    obtain ⟨hhold, -, -, hmem⟩ := popSb_same (s := s) (d := d) (k := k)
    have hpsn' : ((popSb s d (.core k)).die d).poisoned pa r.p.len = false := by rw [hlen, ← hpsn]; simp only [Die.poisoned, popSb_psn]
    have hpeek : ((popSb s d (.core k)).die d).peek pa n = (s.die d).peek pa n := by simp only [Die.peek, hmem]
    have hold : ((popSb s d (.core k)).die d).mustHold (.core k) d none (linesOf pa r.p.len) = false := by rw [hhold, hlen]; exact hh
    have he : exec (.drainStep d (.core k) .ok) s = _ :=
      congrArg Host.Outcome.next ((drainStep_amo_here hsb hcl hp hloc).trans (applyLocal_amo (popSb s d (.core k)) hloc hkind hold hpsn'))
    refine ⟨_, he, ?_, fun a => ?_, fun e hne => ?_, fun i => ?_⟩
    · have hpop : (popSb s d (.core k)).ag d (.core k) = { s.ag d (.core k) with sb := rest } := by rw [popSb_ag, hsb]; rfl
      refine Eq.trans ?_ (congrArg AgentSt.sb hpop)
      simp [State.ag, Die.ag, Slot.fillTag, Slot.modCtl, amo_slot]
    · rw [State.die_modSlot_same]
      refine Eq.trans ?_ ((amo_memGet _ pa op w64 v x (by rw [hmem]; exact hm d) a).trans (by rw [hpeek, hmem]; rfl))
      rw [State.die_modDie_same]; rfl
    · rw [State.die_modSlot_ne _ (Ne.symm hne), State.die_modDie_ne _ (Ne.symm hne), popSb_die_ne _ _ _ (Ne.symm hne)]
    · have hctl : (((popSb s d (.core k)).modDie d fun _ => (((popSb s d (.core k)).die d).amo pa op w64 v x).2).ctl d k).regs = (s.ctl d k).regs := by
        rw [← popSb_regs s d k, State.ctl, State.slot, State.die_modDie_same, amo_slot]
        rfl
      have hval : amoVal w64 (((popSb s d (.core k)).die d).amo pa op w64 v x).1 = BitVec.ofInt 64 (num old) := by
        refine (amoVal_eq w64 (length_peek _ _ _)).trans ?_
        rw [show (((popSb s d (.core k)).die d).peek pa (if w64 then 8 else 4)) = (s.die d).peek pa n from hpeek]; rfl
      rw [← hval, ← hctl, ← vget_fillRegs]
      simp [State.ctl, State.slot, Slot.fillTag, Slot.modCtl]
  · intro key n
    obtain ⟨-, hpg, hpr, hpm⟩ := popSb_same (s := s) (d := d) (k := k)
    let w := (popSb s d (.core k)).modDie d fun y => (y.bump d).2
    let q : Sent := ⟨key, h, some r, .amo r op w64 v x, r.word, r.seq, 24, r.p.va⟩
    have hgate : (w.die d).gate = { (s.die d).gate with v := vset (s.die d).gate.v d n, g := vset (s.die d).gate.g d n } := by
      simp [w, Die.bump, hpg, n]
    have hag : w.ag d (.core k) = { s.ag d (.core k) with sb := rest } := by
      simp only [w, State.ag, State.die_modDie_same]
      exact (popSb_ag s d k).trans (by rw [hsb]; rfl)
    have hlost' : (w.die d).isLost d h = false := by
      have : (w.die d).reg = (s.die d).reg := by simp [w, Die.bump, hpr]
      rw [← hlost]; simp [Die.isLost, Die.getReg, Die.reg?, this]
    have he : exec (.drainStep d (.core k) .ok) s = .next ((pended w d (.core k) q).send d h (.amo (.core k) key n (vset (s.die d).gate.v d n) idx gen off op w64 v x)) := by
      refine congrArg Host.Outcome.next ((drainStep_amo_peer hsb hcl hp hloc).trans ?_)
      unfold countReq
      dsimp only
      rw [sendReq_pends hlost', hag, hgate, Die.bump, hpg]
      rfl
    refine ⟨_, he, rfl, rfl, ?_, fun e hne => ?_, ?_, ?_, ?_, ?_⟩
    · refine SameMem.trans (fun e a => ?_) (pended_sameMem _ _ _ _)
      by_cases hne : d = e
      · subst hne; simp [w, Die.bump, hpm]
      · rw [State.die_modDie_ne _ hne, popSb_die_ne _ _ _ hne]
    · rw [pended_die_ne _ _ _ _ (Ne.symm hne), State.die_modDie_ne _ (Ne.symm hne), popSb_die_ne _ _ _ (Ne.symm hne)]
    · rw [pended_gate, hgate]; exact vget_vset_same _ _ _
    · rw [pended_ag, hag]
    · rw [pended_ctl, ← popSb_regs s d k]
      simp [w, State.ctl, State.slot, Die.bump, Die.slot]
    · rw [pended_ag, hag]

end Sys2Proof.Proofs
end

section
/-! SUPPORT. Control core: fences, pushes, freed ranges, words held for the commit, first-word waits and node references (R118, R184 to R203). -/

namespace Sys2Proof.Proofs

open Sys2Proof Sys2Proof.Machine Sys2Proof.Laws

section Word
variable {s : State} {d : DieId} {k : SlotId} {b : Open} (hc : AtCore s d k b)

/-! ## First-word waits (R195) -/

theorem waitWord_met {na : BitVec 2} {w : WaitC} (h : waitMet (s.die d) d k w = true) :
    waitWord na s d k b w = .ok (waitTake s d k b w).1 { (waitTake s d k b w).2 with wait := none } := by
  rw [waitWord, if_pos h]
theorem waitWord_waits {na : BitVec 2} {w : WaitC} (h : ¬ waitMet (s.die d) d k w = true) : waitWord na s d k b w = .wait (s.setOpn d k { b with wait := some w, waitNa := na }) := by
  rw [waitWord, if_neg h]

/-! ## Fences (R118) -/

/-- Every earlier read and atomic of the strand has been answered, and no atomic's acquire is outstanding. -/
def AcqDone (s : State) (d : DieId) (k : SlotId) : Prop :=
  (s.ctl d k).acq = none ∧ (∀ p ∈ (s.slot d k).agCtl.pend, p.waits = false) ∧
    ∀ h ∈ (s.die d).held, h.ag = .core k → h.src = d → h.fab = none → ∀ r op w64 x y, h.op ≠ .amo r op w64 x y
theorem acqFree_iff : acqFree (s.die d) d k = true ↔ AcqDone s d k := by
  simp only [acqFree, acqMet, AcqDone, Bool.and_eq_true, Bool.not_eq_true', Option.isNone_iff_eq_none, List.any_eq_false, Bool.not_eq_true]
  refine and_congr Iff.rfl (and_congr Iff.rfl (forall_congr' fun h => forall_congr' fun _ => ?_))
  obtain ⟨a, c, op, t, key, fab⟩ := h
  cases op with
  | amo r op w64 x y =>
    have e : (∀ r' op' w64' x' y', SbOp.amo r op w64 x y ≠ .amo r' op' w64' x' y') ↔ False := ⟨fun g => g _ _ _ _ _ rfl, False.elim⟩
    rw [e]; simp
  | _ => simp
/-- The release condition of a scope. -/
def RelDone (s : State) (d : DieId) (k : SlotId) (sc : BitVec 3) : Prop :=
  (s.slot d k).agCtl.sb = [] ∧ (sc ≠ 0 → (s.slot d k).doneUpTo (s.slot d k).pseq = true) ∧ (sc = 4 → (s.die d).fabQuiet k = true)
theorem relMet_iff {sc : BitVec 3} (h : sc.toNat ≤ 4) : relMet (s.die d) k sc.toNat (s.slot d k).pseq (s.slot d k).agCtl.sb = true ↔ RelDone s d k sc := by
  have h0 : sc.toNat = 0 ↔ sc = 0 := ⟨fun e => BitVec.eq_of_toNat_eq e, fun e => by rw [e]; rfl⟩
  have h4 : sc.toNat < 4 ↔ sc ≠ 4 := by
    refine ⟨fun e g => by rw [g] at e; exact absurd e (by decide), fun e => lt_of_le_of_ne h fun g => e (BitVec.eq_of_toNat_eq g)⟩
  simp only [relMet, RelDone, Bool.and_eq_true, Bool.or_eq_true, List.isEmpty_iff, beq_iff_eq, decide_eq_true_eq, h0, h4, and_assoc]
  refine and_congr Iff.rfl (and_congr ?_ ?_) <;> exact Decidable.or_iff_not_imp_left.trans (by simp [State.slot])

include hc
theorem ctlFence_met {kind : BitVec 2} {o : RFence} (h : waitMet (s.die d) d k (.fence kind o.scope (s.slot d k).pseq) = true) :
    ctlFence kind o s = bodyNext (if kind != 0 && 3 ≤ o.scope.toNat then s.beats d else s) d k { b with wait := none } 2 o.na :=
  ctlDo_ok hc _ (waitWord_met h)
theorem ctlFence_waits {kind : BitVec 2} {o : RFence} (h : ¬ waitMet (s.die d) d k (.fence kind o.scope (s.slot d k).pseq) = true) :
    ctlFence kind o s = .next (s.setOpn d k { b with wait := some (.fence kind o.scope (s.slot d k).pseq), waitNa := o.na }) :=
  ctlDo_wait hc _ (waitWord_waits h)
omit hc in
theorem fence_beats {sc : BitVec 3} (h : sc.toNat ≤ 4) : (3 ≤ sc.toNat) ↔ (sc = 3 ∨ sc = 4) := by
  constructor
  · intro g
    rcases (by omega : sc.toNat = 3 ∨ sc.toNat = 4) with e | e
    · exact .inl (BitVec.eq_of_toNat_eq e)
    · exact .inr (BitVec.eq_of_toNat_eq e)
  · rintro (rfl | rfl) <;> decide

/-! ## Pushes (R133, R185) -/

theorem ctlEnq_held {q : Fin 6} {o : REnq} (ha : b.regs.isFull o.a = true) (he : eFull b.regs = true) (hacq : (s.ctl d k).acq = none) (hn : vget b.npush q ≠ 16) :
    ctlEnq q o s = bodyNext s d k { b with npush := vmod b.npush q (· + 1), ops := b.ops ++ [.enq q (b.regs.get o.a) (eParams b.regs) o.wait o.sig (b.at_ b.pos).toNat] } 2 o.na := by
  refine ctlDo_ok hc _ ((src_full ha).trans ?_)
  rw [he]
  exact (held_none hacq).trans (if_neg hn)
theorem ctlEnq_over {q : Fin 6} {o : REnq} (ha : b.regs.isFull o.a = true) (he : eFull b.regs = true) (hacq : (s.ctl d k).acq = none) (hn : vget b.npush q = 16) :
    ctlEnq q o s = .next (ctlFault s d k b b.pos 3 0 0 0) := by
  refine ctlDo_fault hc _ ((src_full ha).trans ?_)
  rw [he]
  exact (held_none hacq).trans (if_pos hn)

/-! ## Freed ranges (R199) -/

theorem freeh_range {o : RAB} (ha : b.regs.isFull o.a = true) (hb : b.regs.isFull o.b = true) (hacq : (s.ctl d k).acq = none)
    (h : ¬ ((b.regs.get o.a).toNat % 65536 = 0 ∧ (b.regs.get o.b).toNat % 65536 = 0 ∧ b.regs.get o.b ≠ 0)) :
    exec (.freeh o) s = .next (ctlFault s d k b b.pos 19 (b.regs.get o.a) 0 0) := by
  refine (exec_freeh o s).trans (ctlDo_fault hc _ ((src_full ha).trans ((src_full hb).trans ((held_none hacq).trans (if_pos ?_)))))
  simp only [Bool.or_eq_true, bne_iff_ne, beq_iff_eq]
  tauto
theorem freeh_held {o : RAB} {z : Die} {ps : List Piece} (ha : b.regs.isFull o.a = true) (hb : b.regs.isFull o.b = true) (hacq : (s.ctl d k).acq = none)
    (h : (b.regs.get o.a).toNat % 65536 = 0 ∧ (b.regs.get o.b).toNat % 65536 = 0 ∧ b.regs.get o.b ≠ 0)
    (hx : freePages d ((s.die d).who (.core k) k) (b.regs.get o.a).toNat ((b.regs.get o.b).toNat / 65536) (s.die d) = .ok z ps) :
    exec (.freeh o) s = bodyNext (s.modDie d fun _ => z) d k { b with ops := b.ops ++ [.freeh (ps.map fun p => (locOff p.loc, 65536)) ps (packPlace b.hdr (b.at_ b.pos) 0)] } 2 o.na := by
  refine (exec_freeh o s).trans (ctlDo_ok hc _ ((src_full ha).trans ((src_full hb).trans ((held_none hacq).trans ((if_neg ?_).trans ?_)))))
  · obtain ⟨h0, h1, h2⟩ := h
    simpa [h0, h1] using h2
  · rw [hx]; rfl

end Word

/-- Settles O8: a fence is a first-word wait on its conditions; a push and a freed range are held, or fault. -/
theorem fencesPushesAndFreedRanges : Obligations.FencesPushesAndFreedRanges := by
  refine ⟨fun s d k b o hc hsc => ?_, fun s d k b o hc ha he hacq => ?_, fun s d k b o hc hbad ha hb hacq hf ho => ⟨fun h => ?_, fun z ps h hx => freeh_held hc ha hb hacq h hx⟩⟩
  · intro acq rel u waits
    have hacq : acqFree (s.die d) d k = true ↔ acq := acqFree_iff
    have hrel : relMet (s.die d) k o.scope.toNat (s.slot d k).pseq (s.slot d k).agCtl.sb = true ↔ rel := relMet_iff hsc
    have met (kind : BitVec 2) : waitMet (s.die d) d k (.fence kind o.scope (s.slot d k).pseq) = true ↔ (kind = 0 ∨ rel) ∧ (kind = 1 ∨ acq) := by
      rw [← hacq, ← hrel]
      simp [waitMet, State.slot]
    have sends (kind : BitVec 2) (hk : kind ≠ 0) : (if kind != 0 && decide (3 ≤ o.scope.toNat) then s.beats d else s) = u := by
      simp only [u, fence_beats hsc, bne_iff_ne, ne_eq, hk, not_false_eq_true, Bool.and_eq_true, decide_eq_true_eq, true_and]
    refine ⟨fun h => ?_, fun h => ?_, fun h => ?_, fun h => ?_, fun h g => ?_, fun h => ?_⟩
    · exact ctlFence_met hc ((met 0).2 ⟨.inl rfl, .inr h⟩)
    · exact ctlFence_waits hc fun g => h (((met 0).1 g).2.resolve_left (by decide))
    · exact (ctlFence_met hc ((met 1).2 ⟨.inr h, .inl rfl⟩)).trans (by rw [sends 1 (by decide)])
    · exact ctlFence_waits hc fun g => h (((met 1).1 g).1.resolve_left (by decide))
    · exact (ctlFence_met hc ((met 2).2 ⟨.inr h, .inr g⟩)).trans (by rw [sends 2 (by decide)])
    · exact ctlFence_waits hc fun g => h ⟨((met 2).1 g).1.resolve_left (by decide), ((met 2).1 g).2.resolve_left (by decide)⟩
  · intro e room held seventeenth
    have hfull : eFull b.regs = true := List.all_eq_true.2 fun i _ => he i
    have hold (q : Fin 6) (h : room q) : ctlEnq q o s = held q := ctlEnq_held hc ha hfull hacq h
    have hover (q : Fin 6) (h : ¬ room q) : seventeenth (ctlEnq q o s) := by
      intro hbad hf
      rw [ctlEnq_over hc ha hfull hacq (not_not.1 h), ctlFault_legal hbad]
      exact ⟨takeFault_held hf, _, rfl, takeFault_opn, takeFault_sameMem _ _ _ _ _⟩
    exact ⟨hold 0, hold 1, hold 2, hold 3, hold 4, hold 5, hover 0, hover 1, hover 2, hover 3, hover 4, hover 5⟩
  · rw [freeh_range hc ha hb hacq h, ctlFault_legal hbad]
    exact ⟨_, rfl, takeFault_discards ho, takeFault_sameMem _ _ _ _ _, _, takeFault_records ho hf, rfl, rfl⟩

end Sys2Proof.Proofs
end

section
/-! SUPPORT. Control core: words held for the commit, first-word waits, node references (R188 to R203). -/

namespace Sys2Proof.Proofs

open Sys2Proof Sys2Proof.Machine Sys2Proof.Laws

/-- Settles O9: each word records its operands at its place; `eret` outside handler mode faults. -/
theorem wordsHeldForTheCommit : Obligations.WordsHeldForTheCommit := by
  refine ⟨fun s d k b hc => ?_, fun s d k b o hc hbad hhm htr hf ho => ?_⟩
  · intro keeps
    refine ⟨fun o => ⟨(exec_mlease o s).trans (ctlDo_ok hc _ rfl), (exec_mrlse o s).trans (ctlDo_ok hc _ rfl), (exec_susp o s).trans (ctlDo_ok hc _ rfl),
        fun h => (exec_eret o s).trans (ctlDo_ok hc _ (if_pos ?_))⟩,
      fun o => (exec_arv o s).trans (ctlDo_ok hc _ rfl), fun o ha => ?_, fun o ha hb => ?_, fun o ha => ?_, fun o ha => (exec_csrw o s).trans (ctlDo_ok hc _ (src_full ha))⟩
    · simpa [List.any_eq_true, Option.isSome_iff_ne_none] using h
    · exact ⟨(exec_tsig o s).trans (ctlDo_ok hc _ (src_full ha)), (exec_hint o s).trans (ctlDo_ok hc _ (src_full ha)), (exec_trap o s).trans (ctlDo_ok hc _ (src_full ha)),
        (exec_split o s).trans (ctlDo_ok hc _ (src_full ha)), (exec_fuse o s).trans (ctlDo_ok hc _ (src_full ha)), (exec_unchain o s).trans (ctlDo_ok hc _ (src_full ha))⟩
    · exact ⟨(exec_chain o s).trans (ctlDo_ok hc _ ((src_full ha).trans (src_full hb))), (exec_sysc o s).trans (ctlDo_ok hc _ ((src_full ha).trans (src_full hb)))⟩
    · exact ⟨(exec_semset o s).trans (ctlDo_ok hc _ (src_full ha)), (exec_semadd o s).trans (ctlDo_ok hc _ (src_full ha)), (exec_semwaitSusp o s).trans (ctlDo_ok hc _ (src_full ha))⟩
  · have he : exec (.eret o) s = .next (ctlFault s d k b b.pos 2 0 0 0) := by
      refine (exec_eret o s).trans (ctlDo_fault hc _ (if_neg ?_))
      simpa [hhm] using htr
    rw [he, ctlFault_legal hbad]
    refine ⟨_, rfl, takeFault_opn, takeFault_act ho rfl, ?_, takeFault_pc ho, _, takeFault_records ho hf, rfl, rfl⟩
    rw [State.ctl, takeFault_slot]
    simp [slotFault, show codeRpl 2 = false from rfl, Slot.dropRows, Slot.modCtl, Slot.discard, State.ctl]

/-! ## Waits at the first word (R188, R189, R194, R195, R198) -/

theorem hasToks_iff (v : Vector Byte 8) (m : Byte) : hasToks v m = true ↔ ∀ i : Fin 8, m.getLsbD i.val = true → vget v i ≠ 0 := by
  simp only [hasToks, List.all_eq_true, List.mem_finRange, true_imp_iff, Bool.or_eq_true, Bool.not_eq_true', bne_iff_ne]
  exact forall_congr' fun i => by cases m.getLsbD i.val <;> simp
theorem semMet_iff {y : Die} {d : DieId} {k : SlotId} {i : Fin 32} {v : W32} :
    waitMet y d k (.sem i v) = true ↔ (y.slot k).ctl.acq = none ∧ ∃ x, semSeen y d k i = some x ∧ v.toNat ≤ x.toNat := by
  simp only [waitMet, Bool.and_eq_true, Option.isNone_iff_eq_none]
  refine and_congr Iff.rfl ?_
  cases semSeen y d k i with
  | none => simp
  | some x => simp [BitVec.ult]

/-! ## Node references (R196) -/

section Node
variable {s : State} {d : DieId} {k : SlotId} {b : Open} {o : RA} {l : Launch} (hc : AtCore s d k b) (hw : b.wait = none) (hbad : b.bad = none) (ha : b.regs.isFull o.a = true)
  (hf : (s.slot d k).heldBy 0 = false) (ho : s.openRec d k 0 = none) (hl : (s.die d).ownLaunch k = some l)

/-- The last accepted launch of a node of the strand's process. -/
def lastOf (y : Die) (l : Launch) (n : Half) : Option Launch := y.sched.launches.reverse.find? fun x => x.pid == l.pid && x.node == n
include hl in
theorem nodeRef_out {n : Half} (h : ¬ (l.nbase ≤ n.toNat ∧ n.toNat < l.nbase + l.ncnt)) : nodeRef (s.die d) k n = .error 1 := by
  simp only [nodeRef, hl]
  rw [if_pos]
  simp only [Bool.or_eq_true, decide_eq_true_eq]
  omega
section Inside
variable {n : Half} (h : l.nbase ≤ n.toNat ∧ n.toNat < l.nbase + l.ncnt)
include h
theorem in_range : ¬ (decide (n.toNat < l.nbase) || decide (l.nbase + l.ncnt ≤ n.toNat)) = true := by
  simp only [Bool.or_eq_true, decide_eq_true_eq]
  omega
include hl
theorem nodeRef_never (g : lastOf (s.die d) l n = none) : nodeRef (s.die d) k n = .error 2 := by
  unfold lastOf at g
  simp only [nodeRef, hl, if_neg (in_range h), g]
theorem nodeRef_failed {x : Launch} (g : lastOf (s.die d) l n = some x) (hx : x.st = .failed) : nodeRef (s.die d) k n = .error 3 := by
  unfold lastOf at g
  simp only [nodeRef, hl, if_neg (in_range h), g, hx]
  rfl
theorem nodeRef_ok {x : Launch} (g : lastOf (s.die d) l n = some x) (hx : x.st ≠ .failed) : nodeRef (s.die d) k n = .ok x := by
  unfold lastOf at g
  simp only [nodeRef, hl, if_neg (in_range h), g]
  exact if_neg (by simpa using hx)
end Inside

include hc ha
theorem wpv_faults {u : Nat} (hw : b.wait = none) (h : nodeRef (s.die d) k ((b.regs.get o.a).setWidth 16) = .error u) :
    exec (.wpv o) s = .next (ctlFault s d k b b.pos 11 0 u 0) ∧ exec (.wpvSusp o) s = .next (ctlFault s d k b b.pos 11 0 u 0) := by
  refine ⟨(exec_wpv o s).trans (ctlDo_fault hc _ ((src_full ha).trans ?_)), (exec_wpvSusp o s).trans (ctlDo_fault hc _ ((src_full ha).trans ?_))⟩
  · simp only [hw, h]
  · simp only [h]
theorem wpv_waits {x : Launch} (hw : b.wait = none) (h : nodeRef (s.die d) k ((b.regs.get o.a).setWidth 16) = .ok x) :
    exec (.wpv o) s = ctlDo 2 o.na (fun s d k b => waitWord o.na s d k b (.wpv x.id)) s ∧
    exec (.wpvSusp o) s = bodyNext s d k { b with susp := some (.wpv ((b.regs.get o.a).setWidth 16) x.id, b.pos) } 2 o.na := by
  refine ⟨(exec_wpv o s).trans ?_, (exec_wpvSusp o s).trans (ctlDo_ok hc _ ((src_full ha).trans ?_))⟩
  · unfold execWpv ctlDo
    rw [hc.ag]
    simp only [hc.die, hc.opn, src_full ha, hw, h]
  · simp only [h]

end Node

/-- Settles O10: each wait is its condition of `waitMet`; a node reference is `nodeRef`. -/
theorem waitsAndNodeReferences : Obligations.WaitsAndNodeReferences := by
  refine ⟨fun s d k b hc hw => ?_, fun s d k b o l hc hw hbad ha hf ho hl => ?_⟩
  · intro waits
    refine ⟨fun o ha => ?_, fun o ha => ?_, fun o => ?_, fun o => ?_⟩
    · intro m ok
      have h : waitMet (s.die d) d k (.twait m) = true ↔ ok := hasToks_iff _ _
      exact ⟨fun g => (exec_twait o s).trans (ctlDo_ok hc _ ((src_full ha).trans (waitWord_met (h.2 g)))),
        fun g => (exec_twait o s).trans (ctlDo_wait hc _ ((src_full ha).trans (waitWord_waits fun e => g (h.1 e))))⟩
    · intro v ok
      have h : waitMet (s.die d) d k (.sem (ridx o.d) v) = true ↔ ok := semMet_iff
      exact ⟨fun g => (exec_semwait o s).trans (ctlDo_ok hc _ ((src_full ha).trans (waitWord_met (h.2 g)))),
        fun g => (exec_semwait o s).trans (ctlDo_wait hc _ ((src_full ha).trans (waitWord_waits fun e => g (h.1 e))))⟩
    · intro ok
      exact ⟨fun g => (exec_rfence o s).trans (ctlDo_ok hc _ (waitWord_met (w := .rfence) g)), fun g => (exec_rfence o s).trans (ctlDo_wait hc _ (waitWord_waits (w := .rfence) g))⟩
    · intro c ok
      have h : waitMet (s.die d) d k (.wtb o.scope c) = true ↔ ok := by simp [waitMet, ok, and_assoc]
      refine ⟨fun g => (exec_wtb o s).trans (ctlDo_ok hc _ ?_), fun g => (exec_wtb o s).trans (ctlDo_wait hc _ ?_)⟩
      · simp only [hw]; exact waitWord_met (h.2 g)
      · simp only [hw]; exact waitWord_waits fun e => g (h.1 e)
  · intro n faults last inside
    have fault {t : Out} {u : Nat} (ht : t = .next (ctlFault s d k b b.pos 11 0 u 0)) : faults t u := by
      rw [ctlFault_legal hbad] at ht
      exact ⟨_, ht, takeFault_discards ho, _, takeFault_records ho hf, rfl, rfl⟩
    have both {u : Nat} (h : nodeRef (s.die d) k n = .error u) : faults (exec (.wpv o) s) u ∧ faults (exec (.wpvSusp o) s) u :=
      ⟨fault (wpv_faults hc ha hw h).1, fault (wpv_faults hc ha hw h).2⟩
    refine ⟨fun h => both (nodeRef_out hl h), fun h g => both (nodeRef_never hl h g), fun x h g hx => both (nodeRef_failed hl h g hx), fun x h g hx => ?_⟩
    · have hn := nodeRef_ok hl h g hx
      obtain ⟨hwpv, hsusp⟩ := wpv_waits hc ha hw hn
      refine ⟨hsusp, fun he hv hq => hwpv.trans (ctlDo_ok hc _ (waitWord_met (w := .wpv x.id) ?_)), fun hv => hwpv.trans (ctlDo_wait hc _ (waitWord_waits (w := .wpv x.id) ?_))⟩
      · simp [waitMet, he, hv, hq]
      · simp [waitMet, hv]

end Sys2Proof.Proofs
end

section
/-! SUPPORT. Reads of the proof table (R196, R312). -/

namespace Sys2Proof.Proofs

open Sys2Proof Sys2Proof.Machine Sys2Proof.Laws

/-! ## A launch whose proofs begin at the end of the table -/

/-- A launch whose one proof has number 4096. No record is accepted with one (R312), but nothing in the statement excludes it. -/
def farLaunch : Launch :=
  { id := 0, pid := 0, asid := 0, node := 0, cls := 0, pwr := false, shape := 0, entry := 0, sched := 0, swcnt := 0, param := 0, gx := 1, gy := 1, gz := 1, gbase := 0, zw := 0, teamsz := 1
    seed := 0, csAt := 0, spAt := 0, spsz := 0, cxAt := 0, cmpl := 0, prbase := 4096, prcnt := 1, nbase := 0, ncnt := 1, preds := [], cnt := 0, ready := true, mayStart := true, bulk := false
    st := .active, inputs := [], blks := [], mark := 0, snap := .replicate 5 0, untold := false }
/-- A block at its first word, with fresh registers. -/
def openFresh : Open :=
  { hdr := 0x10000, len := 2, nex := 0, sw := none, first := 2, count := 1, iter := 0, pos := 2, phase := .body, bad := none, regs := Regs.fresh, ops := [], toks := 0, wait := none, waitNa := 0
    resv := [], nst := 0, npush := .replicate 6 0, drain := none, aff := [], susp := none, traps := [], succ := .undecided, fill := [], fillAsked := false, schedAsked := false, sched := none }
/-- Slot 0 of d0 runs that block for that launch; entry 0 of the proof table holds 5, every other entry 0. -/
def farState : State :=
  { (State.reset.modDie 0 fun y => { y with proofs := [(0, 5)], sched := { y.sched with launches := [farLaunch] } }).modSlot 0 0 fun t =>
      { t with ctl := { t.ctl with own := some ⟨0, 0, 0⟩, opn := some openFresh } } with cur := ⟨0, .core 0, 8⟩ }
/-- `publq s1, s0`. -/
def farWord : RR := { d := 1, ba := false, a := 0, na := 0 }
/-- Working register s1 of slot 0 of d0 after a step. -/
def workingS1 : Out → Option Word
  | .next u => (u.ctl 0 0).opn.map fun o => o.regs.get 1
  | _ => none

theorem farState_reads : workingS1 (exec (.publq farWord) farState) = some 0 := by decide
theorem adv_regs (o : Open) (n : Nat) (na : BitVec 2) : (o.adv n na).regs = o.regs := by
  unfold Open.adv Open.leave
  dsimp only
  split_ifs <;> rfl
theorem workingS1_bodyNext (s : State) (b : Open) (v : Word) : workingS1 (bodyNext s 0 0 (b.put 1 v) 2 0) = some v := by
  simp [workingS1, bodyNext, State.setOpn, State.modCtl, Slot.modCtl, State.ctl, adv_regs, Open.put, Regs.put, Regs.get, ridx]

/-- Refutes O11: `publq` reads entry `prbase + p` of the table, and the statement reduces that number modulo 4096; they differ for a launch whose proofs begin at 4096. -/
theorem not_popsAndSpecialReads : ¬ Obligations.PopsAndSpecialReads := by
  rintro ⟨-, h⟩
  obtain ⟨-, -, hq⟩ := h farState 0 0 openFresh ⟨rfl, rfl, rfl⟩
  obtain ⟨-, hin, -⟩ := hq farWord farLaunch rfl rfl rfl
  obtain ⟨hfree, -⟩ := hin (by decide) rfl (by decide)
  have e : workingS1 (exec (.publq farWord) farState) = some 5 := by
    rw [hfree (by decide)]
    exact workingS1_bodyNext _ _ _
  rw [farState_reads] at e
  exact absurd e (by decide)

end Sys2Proof.Proofs
end

section
/-! SUPPORT. Headers and exits (R129 to R132, R136, R137): what opens a block, and which exit word fires. -/

namespace Sys2Proof.Proofs

open Sys2Proof Sys2Proof.Machine Sys2Proof.Laws

/-! ## The header (R130 to R132) -/

/-- The open block of a header, at its first word. -/
def opened (c : Ctl) (len nex first count : Nat) (sw : Option Nat) (bad : Option Nat) : Open :=
  { hdr := c.pc, len := len, nex := nex, sw := sw, first := first, count := count, iter := 0, pos := first, phase := .body, bad := bad, regs := c.regs, ops := [], toks := 0, wait := none
    waitNa := 0, resv := [], nst := 0, npush := .replicate 6 0, drain := none, aff := [], susp := none, traps := [], succ := .undecided, fill := [], fillAsked := false, schedAsked := false
    sched := none }

theorem source_half : ∀ r : BitVec 5, (0#9 ++ r ++ 0#2).extractLsb' 0 2 = 0#2 ∧ (0#9 ++ r ++ 0#2).extractLsb' 7 9 = 0#9 ∧ (0#9 ++ r ++ 0#2).extractLsb' 2 5 = r := by decide
/-- The first word of a block that its static checks refuse. -/
def badAt (first len nex : Nat) (hs : List Half) (ws : List BWord) (once : Bool) : Option Nat :=
  let exits := (List.range nex).map fun i => listGet 0 hs (2 + len + 2 * i + 1) ++ listGet 0 hs (2 + len + 2 * i)
  minOf (badWords first (2 + len) once ⟨false, false, none⟩ ws ++ ((List.range nex).filter fun i => (instr? (decodeExit (listGet 0 exits i))).isNone).map fun i => 2 + len + 2 * i)

section Header
variable {s : State} {d : DieId} {k : SlotId} (hd : s.cur.die = d) (ha : s.cur.ag = .core k) (ho : (s.ctl d k).opn = none)
include hd ha ho

theorem beginBlock_empty (nex : Nat) (rep sw : Option Nat) : beginBlock 0 nex rep sw s = headerFault s d k 1 0 := by
  subst hd
  simp [beginBlock, ha, ho]

variable {len nex : Nat} {y : Die} {hs : List Half} {ws : List BWord} (hlen : len ≠ 0) (hcode : codeHalves d (s.die d) ((s.die d).who (.core k) k) (s.ctl d k).pc.toNat (2 + len + 2 * nex) = .ok y hs)
  (hloop : secondLoop false ws = none)
  (hex : ∀ i < nex, (listGet 0 hs (2 + len + 2 * i)).extractLsb' 0 2 = 3#2 ∧ wMaj (listGet 0 hs (2 + len + 2 * i + 1) ++ listGet 0 hs (2 + len + 2 * i)) = 0x3E)
include hlen hcode hloop hex

omit hd ha ho hlen hcode hloop in
theorem exits_ok : (((List.range nex).map fun i => listGet 0 hs (2 + len + 2 * i + 1) ++ listGet 0 hs (2 + len + 2 * i)).any fun w => w.extractLsb' 0 2 != 3#2 || wMaj w != 0x3E) = false := by
  simp only [List.any_map, List.any_eq_false, List.mem_range, Function.comp]
  intro i hi
  obtain ⟨h1, h2⟩ := hex i hi
  have e (a b : Half) : (a ++ b).extractLsb' 0 2 = b.extractLsb' 0 2 := by
    ext j hj
    simp only [BitVec.getElem_extractLsb', BitVec.getLsbD_append, Nat.zero_add]
    rw [if_pos (by omega)]
  rw [e, h1, h2]
  simp
/-- A count written in the header. -/
theorem beginBlock_rep {rep : Nat} {sw : Option Nat} (hw : bodyWords len 2 (slice hs 2 len) = some ws) :
    ∃ bad, beginBlock len nex (some rep) sw s = (s.modDie d fun _ => y).setOpn d k
      (if rep = 0 then (opened (s.ctl d k) len nex 2 rep sw bad).leave else opened (s.ctl d k) len nex 2 rep sw bad) := by
  subst hd
  refine ⟨badAt 2 len nex hs ws (some rep == some 1), ?_⟩
  unfold beginBlock
  simp only [ha, ho, hcode, Option.isSome_none, Bool.false_eq_true, if_false, if_neg hlen, List.drop_zero, Nat.sub_self, hw, exits_ok hex, hloop,
    show (some rep == (none : Option Nat)) = false from rfl, Bool.false_and]
  rfl
/-- A count taken from the register that the first halfword names. -/
theorem beginBlock_reg {sw : Option Nat} {r : BitVec 5} (h2 : 2 ≤ len) (hr : listGet 0 (slice hs 2 len) 0 = 0#9 ++ r ++ 0#2) (hw : bodyWords len 3 ((slice hs 2 len).drop 1) = some ws) :
    ∃ bad, beginBlock len nex none sw s =
      if (s.ctl d k).regs.isFull r then
        (s.modDie d fun _ => y).setOpn d k (if ((s.ctl d k).regs.get r).toNat = 0 then (opened (s.ctl d k) len nex 3 ((s.ctl d k).regs.get r).toNat sw bad).leave
          else opened (s.ctl d k) len nex 3 ((s.ctl d k).regs.get r).toNat sw bad)
      else s.modDie d fun _ => y := by
  subst hd
  obtain ⟨e0, e7, er⟩ := source_half r
  refine ⟨badAt 3 len nex hs ws false, ?_⟩
  unfold beginBlock
  simp only [ha, ho, hcode, Option.isSome_none, Bool.false_eq_true, if_false, if_neg hlen, hr, e0, e7, er, decide_eq_true h2, beq_self_eq_true, Bool.and_self, Bool.not_true, Bool.and_false, if_true,
    Nat.reduceSub, hw, exits_ok hex, hloop]
  rfl

end Header

/-- What a header's opening leaves, field by field. -/
def Opens (s : State) (d : DieId) (k : SlotId) (t : Out) (y : Die) (len nex first count : Nat) (sw : Option Nat) : Prop :=
  ∃ o : Open, t = .next ((s.modDie d fun _ => y).setOpn d k o) ∧ o.hdr = (s.ctl d k).pc ∧ o.len = len ∧ o.nex = nex ∧ o.sw = sw ∧ o.first = first ∧ o.count = count ∧
    o.iter = 0 ∧ o.pos = first ∧ o.regs = (s.ctl d k).regs ∧ o.ops = [] ∧ o.nst = 0 ∧ o.npush = .replicate 6 0 ∧ o.toks = 0 ∧ o.resv = [] ∧ o.wait = none ∧
    o.drain = none ∧ o.susp = none ∧ o.traps = [] ∧ o.schedAsked = false ∧ o.sched = none ∧ (count ≠ 0 → o.phase = .body) ∧ (count = 0 → o.phase = if nex = 0 then .ready else .exits 0)
theorem opens_of {s : State} {d : DieId} {k : SlotId} {t : State} {y : Die} {len nex first count : Nat} {sw bad : Option Nat}
    (h : t = (s.modDie d fun _ => y).setOpn d k (if count = 0 then (opened (s.ctl d k) len nex first count sw bad).leave else opened (s.ctl d k) len nex first count sw bad)) :
    Opens s d k (.next t) y len nex first count sw := by
  refine ⟨_, congrArg _ h, ?_⟩
  by_cases hc : count = 0
  · subst hc
    by_cases hn : nex = 0
    · simp [Open.leave, opened, hn]
    · simp [Open.leave, opened, hn]
  · simp [hc, opened]

/-! ## Exits (R136, R137) -/

section Exit
variable {s : State} {d : DieId} {k : SlotId} {b : Open} {n : Nat} {p : BitVec 3} {neg : Bool} {reg : Option (BitVec 5)} {f : Open → Word → Nat → Succ} (hc : AtCore s d k b) (hp : b.phase = .exits n)
include hc hp
theorem exitDo_passed (h : b.regs.pget p = neg) :
    exitDo p neg reg f s = .next (s.setOpn d k (if n + 1 < b.nex then { b with phase := .exits (n + 1) } else { b with phase := .ready, succ := .fall })) := by
  unfold exitDo
  rw [hc.ag]
  simp only [hc.die, hc.opn, hp, h, beq_self_eq_true, if_true]
theorem exitDo_relative (h : b.regs.pget p ≠ neg) : exitDo p neg none f s = .next (s.setOpn d k { b with phase := .ready, succ := f b 0 (b.at_ (2 + b.len + 2 * n)).toNat }) := by
  unfold exitDo
  rw [hc.ag]
  simp only [hc.die, hc.opn, hp, beq_eq_false_iff_ne.2 h, Bool.false_eq_true, if_false]
theorem exitDo_waits {r : BitVec 5} (h : b.regs.pget p ≠ neg) (hr : b.regs.isFull r = false) : exitDo p neg (some r) f s = .next s := by
  unfold exitDo
  rw [hc.ag]
  simp only [hc.die, hc.opn, hp, beq_eq_false_iff_ne.2 h, hr, Bool.false_eq_true, if_false]
theorem exitDo_register {r : BitVec 5} (h : b.regs.pget p ≠ neg) (hr : b.regs.isFull r = true) :
    exitDo p neg (some r) f s = .next (s.setOpn d k { b with phase := .ready, succ := f b (b.regs.get r) (b.at_ (2 + b.len + 2 * n)).toNat }) := by
  unfold exitDo
  rw [hc.ag]
  simp only [hc.die, hc.opn, hp, beq_eq_false_iff_ne.2 h, hr, Bool.false_eq_true, if_false, if_true]
end Exit

/-- Settles O12: a header is `beginBlock`, an exit word `exitDo`, each by its cases. -/
theorem headersAndExits : Obligations.HeadersAndExits := by
  refine ⟨fun s d k hd ha ho => ?_, fun s d k b n hc hp => ?_⟩
  · intro c opens code exitsOk
    refine ⟨fun h h0 hf hr => ?_, fun h y hs ws h0 hrep hcode hw hl hx => ?_, fun h y hs ws r h2 hrep hcode hsrc hw hl hx => ?_, fun h y hs ws h0 hcode hw hl => ?_⟩
    · have he : exec (.blockHeader h) s = .next (headerFault s d k 1 0) := by
        refine (exec_blockHeader h s).trans (congrArg Host.Outcome.next ?_)
        rw [h0]
        exact beginBlock_empty hd ha ho _ _ _
      exact ⟨_, he, _, takeFault_records hr hf, rfl, rfl⟩
    · have hlen : h.len.toNat ≠ 0 := fun e => h0 (BitVec.eq_of_toNat_eq e)
      obtain ⟨bad, hb⟩ := beginBlock_rep (sw := none) (rep := h.rep.toNat) hd ha ho hlen hcode hl hx hw
      have he : exec (.blockHeader h) s = .next _ := (exec_blockHeader h s).trans (congrArg Host.Outcome.next ((by rw [if_neg hrep] : _ = _).trans hb))
      rw [he]
      exact opens_of rfl
    · obtain ⟨bad, hb⟩ := beginBlock_reg (sw := none) hd ha ho (by omega) hcode hl hx h2 hsrc hw
      have he : exec (.blockHeader h) s = .next _ := (exec_blockHeader h s).trans (congrArg Host.Outcome.next ((by rw [if_pos hrep] : _ = _).trans hb))
      rw [he]
      refine ⟨fun hr => ?_, fun hr => ?_⟩
      · rw [if_pos hr]; exact opens_of rfl
      · rw [if_neg (by rw [hr]; decide)]
    · have hlen : h.len.toNat ≠ 0 := fun e => h0 (BitVec.eq_of_toNat_eq e)
      obtain ⟨bad, hb⟩ := beginBlock_rep (sw := some h.swid.toNat) (rep := 1) (nex := 0) hd ha ho hlen hcode hl (by omega) hw
      have he : exec (.switchPointHeader h) s = .next _ := (exec_switchPointHeader h s).trans (congrArg Host.Outcome.next hb)
      rw [he]
      exact opens_of rfl
  · intro w passed goes
    refine ⟨fun x => ⟨fun h => (exec_relativeExit x s).trans (exitDo_passed hc hp h), fun h => (exec_relativeExit x s).trans (exitDo_relative hc hp h)⟩, fun x => ⟨fun h => ?_, fun h hr => ?_, fun h hr => ?_⟩⟩
    · exact ⟨(exec_jumpExit x s).trans (exitDo_passed hc hp h), (exec_callExit x s).trans (exitDo_passed hc hp h), (exec_returnExit x s).trans (exitDo_passed hc hp h)⟩
    · exact ⟨(exec_jumpExit x s).trans (exitDo_waits hc hp h hr), (exec_callExit x s).trans (exitDo_waits hc hp h hr), (exec_returnExit x s).trans (exitDo_waits hc hp h hr)⟩
    · exact ⟨(exec_jumpExit x s).trans (exitDo_register hc hp h hr), (exec_callExit x s).trans (exitDo_register hc hp h hr), (exec_returnExit x s).trans (exitDo_register hc hp h hr)⟩

end Sys2Proof.Proofs
end

section
/-! SUPPORT. The commit (R133, R183 to R190): what it comes to where its checks have passed; the operations it applies, the pushes, and the control core it leaves. -/

namespace Sys2Proof.Proofs

open Sys2Proof Sys2Proof.Machine Sys2Proof.Laws

/-! ## Two updates of one slot -/

theorem vmod_vmod {α : Type} {n : Nat} (v : Vector α n) (i : Fin n) (f g : α → α) : vmod (vmod v i f) i g = vmod v i fun x => g (f x) := by
  refine Vector.ext fun j hj => ?_
  have h (w : Vector α n) : w[j] = vget w ⟨j, hj⟩ := rfl
  rw [h, h]
  by_cases e : i = ⟨j, hj⟩
  · rw [← e, vget_vmod_same, vget_vmod_same, vget_vmod_same]
  · rw [vget_vmod_ne _ e, vget_vmod_ne _ e, vget_vmod_ne _ e]
theorem vmod_self {α : Type} {n : Nat} (v : Vector α n) (i : Fin n) (f : α → α) (h : f (vget v i) = vget v i) : vmod v i f = v := by
  refine Vector.ext fun j hj => ?_
  have e (w : Vector α n) : w[j] = vget w ⟨j, hj⟩ := rfl
  rw [e, e]
  by_cases g : i = ⟨j, hj⟩
  · rw [← g, vget_vmod_same, h]
  · rw [vget_vmod_ne _ g]
theorem modDie_modDie (s : State) (d : DieId) (f g : Die → Die) : (s.modDie d f).modDie d g = s.modDie d fun y => g (f y) := by
  unfold State.modDie
  rw [vmod_vmod]
theorem dieModSlot_modSlot (y : Die) (k : SlotId) (f g : Slot → Slot) : (y.modSlot k f).modSlot k g = y.modSlot k fun t => g (f t) := by
  unfold Die.modSlot
  rw [vmod_vmod]
theorem modSlot_modSlot (s : State) (d : DieId) (k : SlotId) (f g : Slot → Slot) : (s.modSlot d k f).modSlot d k g = s.modSlot d k fun t => g (f t) := by
  unfold State.modSlot
  rw [modDie_modDie]
  simp only [dieModSlot_modSlot]
theorem modSlot_self (s : State) (d : DieId) (k : SlotId) (f : Slot → Slot) (h : f (s.slot d k) = s.slot d k) : s.modSlot d k f = s := by
  unfold State.modSlot State.modDie Die.modSlot
  rw [vmod_self]
  have e : vmod (vget s.dies d).slots k f = (vget s.dies d).slots := vmod_self _ _ _ h
  rw [e]
theorem modCtl_eq (s : State) (d : DieId) (k : SlotId) (f : Ctl → Ctl) : s.modCtl d k f = s.modSlot d k fun t => { t with ctl := f t.ctl } := rfl

/-- An update of a slot's control core alone changes nothing else. -/
theorem onlyCtl_modCtl (s : State) (d : DieId) (k : SlotId) (f : Ctl → Ctl) : OnlyCtl s (s.modCtl d k f) d k where
  dies e he := State.die_modSlot_ne s (Ne.symm he) k _
  slots j hj := by rw [State.slot, modCtl_eq, State.die_modSlot_same, Die.slot_modSlot_ne _ (Ne.symm hj)]; rfl
  slot := by simp [State.ctl, modCtl_eq]
  rest := by rw [modCtl_eq, State.die_modSlot_same]; rfl
  links := ⟨rfl, rfl, rfl⟩
  steps := ⟨rfl, rfl, rfl, rfl⟩

/-! ## The checks have passed (R133) -/

theorem commit_runs {s : State} {d : DieId} {k : SlotId} {b : Open} {r : Ready} (h : CommitReady s d k b r) : exec (.blockCommit d k) s = .next (commitFinish s d k b r) := by
  have hpre : ((preBad b s).and b.hdr (preLease d k b)).and b.hdr (fun s => preCommit s d k b) = .ok s (((), true), r) := by
    simp only [preBad, h.legal, preLease, h.lease, Pre.and, h.checks]
  have hroom : (List.finRange 6).all (fun i => decide ((vget (s.slot d k).q i).length + vget b.npush i ≤ 16)) = true := by simp [h.room]
  have hpops : (List.finRange 4).all (fun i => decide (unfilled (s.slot d k) b i ≤ 16)) = true := by simp [h.pops]
  have hph : (b.phase != .ready || !(s.slot d k).agCtl.rd.isEmpty || (s.slot d k).heldBy 0 || vget (s.slot d k).stop 0) = false := by
    simp [h.phase, h.reads, h.free, h.going]
  show execBlockCommit d k s = _
  unfold execBlockCommit
  simp only [h.opn, hph, hpre, hroom, hpops, h.drain, Option.isNone_none, Bool.not_true, Bool.or_self, Bool.false_eq_true, if_false, if_true]
  cases hs : b.succ with
  | ret a w =>
    obtain ⟨ha, hf⟩ := h.filled a w hs
    simp only [ha, hf, Nat.lt_irrefl, if_false]
  | _ => rfl

/-! ## What a commit leaves of its control core -/

/-- The block with no pop changes no result queue. -/
theorem setPsn_false (t : Slot) (q : Fin 4) : t.setPsn q false = t := rfl
theorem filterMap_getElem {α : Type} (l : List α) : ((List.range l.length).filterMap fun i => l[i]?) = l := by
  refine List.ext_getElem? fun i => ?_
  induction l generalizing i with
  | nil => rfl
  | cons a l ih =>
    rw [List.length_cons, List.range_succ_eq_map, List.filterMap_cons, List.filterMap_map]
    cases i with
    | zero => rfl
    | succ i => exact ih i
theorem commitPops_none {t : Slot} {o : Open} (h : o.resv = []) : commitPops t o = t := by
  unfold commitPops
  rw [h]
  have step (t : Slot) (q : Fin 4) : ({ t with rq := vset t.rq q (((List.range (vget t.rq q).length).filter fun i => !(decide ((vget t.resv q).length ≤ i) && ([] : List Nat).contains (i - (vget t.resv q).length))).filterMap fun i => (vget t.rq q)[i]?), resv := vmod t.resv q (fun l => l ++ []) } : Slot) = t := by
    have e : ((List.range (vget t.rq q).length).filter fun i => !(decide ((vget t.resv q).length ≤ i) && ([] : List Nat).contains (i - (vget t.resv q).length))) = List.range (vget t.rq q).length := by
      simp
    have e2 : vset t.rq q (vget t.rq q) = t.rq := vmod_self t.rq q (fun _ => vget t.rq q) rfl
    rw [e, filterMap_getElem, e2, vmod_self _ _ _ (by simp)]
  refine List.foldlRecOn (List.finRange 4) _ (motive := fun u => u = t) rfl fun u hu q _ => ?_
  subst hu
  exact step u q

/-- The control core that a commit without a suspension leaves: registers, CSRs, successor, count. -/
def Ctl.committed (o : Open) (regs : Regs) (mv : Csrs → Csrs) (pc : Word) (tent : List (Fin 6 × Entry)) (c : Ctl) : Ctl :=
  { c with regs := regs, csr := mv c.csr, opn := none, ccnt := c.ccnt + 1, tent := tent.drop (o.npush.toList.foldl (· + ·) 0), pc := pc }
/-- The state in which the operations of a block have been applied and its arrivals noted. -/
def opsApplied (s : State) (d : DieId) (k : SlotId) (o : Open) : State := noteArrivals (o.ops.foldl (applyOp d k o.hdr (s.ctl d k).ccnt) s) d k o.ops

/-- A block that goes on without a call or a return, and does not suspend. -/
theorem commitFinish_goes {s : State} {d : DieId} {k : SlotId} {o : Open} {r : Ready} {pc : Word} (htr : o.traps = []) (hr : r.susp = none) (hs : o.succ = .fall ∧ pc = r.fall ∨ ∃ w, o.succ = .addr pc w) :
    commitFinish s d k o r = (opsApplied s d k o).modSlot d k fun t => (commitPops t o).modCtl (Ctl.committed o o.regs id pc (s.ctl d k).tent) := by
  have e (u : State) (f : Ctl → Ctl) : u.modCtl d k f = u.modSlot d k fun t => { t with ctl := f t.ctl } := rfl
  obtain ⟨hs, rfl⟩ | ⟨w, hs⟩ := hs
  all_goals
    unfold commitFinish
    simp only [hs, htr, List.any_nil, Ready.suspends, hr, Option.isSome_none, Bool.or_self, Bool.false_eq_true, if_false, trapFold]
    rw [modCtl_eq, modCtl_eq, modSlot_modSlot, modSlot_modSlot]
    simp only [State.ctl, State.slot_modSlot_same]
    rfl

/-! ## The operations enter the store buffer in the order written (R133, R183) -/

/-- What an operation of a block enters into the store buffer, where it is one that does nothing else. -/
def sbForm (hdr : Word) (seq : W32) (ps : Vector W32 6) : CtlOp → Option (List SbOp)
  | .store w word => some [.write [w] false word seq]
  | .amo q op w64 ord scope v y =>
    some ((if ord = 2 ∨ ord = 3 then [SbOp.relGate (ord == 3) scope ps] else []) ++ [.amo q op w64 v y] ++ (if ord = 1 ∨ ord = 3 then [SbOp.acqGate] else []))
  | .sem set i v => some [.sem set i v]
  | .tsig m word => some [.tsig m hdr.toNat word seq]
  | .sysc a i => some [.sysc a i ps]
  | .freeh rs ps word => some [.freeh rs ps word seq]
  | .arv _ => some []
  | _ => none

/-- The store buffer of a slot's control core has grown by `l`; its push counts and memory are as they were. -/
structure Grown (s t : State) (d : DieId) (k : SlotId) (l : List SbOp) : Prop where
  sb : (t.slot d k).agCtl.sb = (s.slot d k).agCtl.sb ++ l
  pseq : (t.slot d k).pseq = (s.slot d k).pseq
  mem : SameMem s t
theorem Grown.refl (s : State) (d : DieId) (k : SlotId) : Grown s s d k [] := ⟨(List.append_nil _).symm, rfl, SameMem.refl s⟩
theorem Grown.trans {s t u : State} {d : DieId} {k : SlotId} {l m : List SbOp} (h : Grown s t d k l) (g : Grown t u d k m) : Grown s u d k (l ++ m) :=
  ⟨by rw [g.sb, h.sb, List.append_assoc], g.pseq.trans h.pseq, h.mem.trans g.mem⟩
theorem grown_push (s : State) (d : DieId) (k : SlotId) (op : SbOp) : Grown s (s.modAg d (.core k) fun a => { a with sb := a.sb ++ [op] }) d k [op] where
  sb := by simp [State.slot, State.modAg, Die.modAg]
  pseq := by simp [State.slot, State.modAg, Die.modAg]
  mem := sameMem_modDie _ _ _ (Die.modAg_mem _ _ _)
theorem grown_modCtl (s : State) (d : DieId) (k : SlotId) (f : Ctl → Ctl) : Grown s (s.modCtl d k f) d k [] where
  sb := by simp [modCtl_eq]
  pseq := by simp [modCtl_eq]
  mem := sameMem_modDie _ _ _ rfl
theorem applyOp_grown {s : State} {d : DieId} {k : SlotId} {hdr : Word} {seq : W32} {x : CtlOp} {l : List SbOp} (h : sbForm hdr seq (s.slot d k).pseq x = some l) :
    Grown s (applyOp d k hdr seq s x) d k l := by
  cases x with
  | amo q op w64 ord scope v y =>
    obtain rfl := Option.some.inj h
    have rel : Grown s (if ord = 2 ∨ ord = 3 then s.modAg d (.core k) fun a => { a with sb := a.sb ++ [.relGate (ord == 3) scope (s.slot d k).pseq] } else s) d k
        (if ord = 2 ∨ ord = 3 then [SbOp.relGate (ord == 3) scope (s.slot d k).pseq] else []) := by
      split
      · exact grown_push _ _ _ _
      · exact Grown.refl _ _ _
    have acq (u : State) : Grown u (if ord = 1 ∨ ord = 3 then (u.modAg d (.core k) fun a => { a with sb := a.sb ++ [.acqGate] }).modCtl d k fun c => { c with acq := some q.tag } else u) d k
        (if ord = 1 ∨ ord = 3 then [SbOp.acqGate] else []) := by
      split
      · exact (grown_push _ _ _ _).trans (grown_modCtl _ _ _ _)
      · exact Grown.refl _ _ _
    have := (rel.trans (grown_push _ _ _ (.amo q op w64 v y))).trans (acq _)
    simpa only [applyOp, Bool.or_eq_true, decide_eq_true_eq] using this
  | store w word => obtain rfl := Option.some.inj h; exact grown_push _ _ _ _
  | sem set i v => obtain rfl := Option.some.inj h; exact grown_push _ _ _ _
  | tsig m word => obtain rfl := Option.some.inj h; exact grown_push _ _ _ _
  | sysc a i => obtain rfl := Option.some.inj h; exact grown_push _ _ _ _
  | freeh rs ps word => obtain rfl := Option.some.inj h; exact grown_push _ _ _ _
  | arv sc => obtain rfl := Option.some.inj h; exact Grown.refl _ _ _
  | _ => cases h
theorem applyOps_grown {d : DieId} {k : SlotId} {hdr : Word} {seq : W32} (ops : List CtlOp) (s : State) (h : ∀ x ∈ ops, (sbForm hdr seq (s.slot d k).pseq x).isSome = true) :
    Grown s (ops.foldl (applyOp d k hdr seq) s) d k (ops.flatMap fun x => (sbForm hdr seq (s.slot d k).pseq x).getD []) := by
  induction ops generalizing s with
  | nil => exact Grown.refl s d k
  | cons x r ih =>
    obtain ⟨l, hl⟩ := Option.isSome_iff_exists.1 (h x List.mem_cons_self)
    have g := applyOp_grown hl
    have i := ih (applyOp d k hdr seq s x) fun y hy => by rw [g.pseq]; exact h y (List.mem_cons_of_mem _ hy)
    rw [g.pseq] at i
    rw [List.foldl_cons, List.flatMap_cons, hl]
    exact g.trans i
theorem noteArrivals_grown (s : State) (d : DieId) (k : SlotId) (ops : List CtlOp) : Grown s (noteArrivals s d k ops) d k [] := by
  unfold noteArrivals
  refine List.foldlRecOn ops _ (motive := fun u => Grown s u d k []) (Grown.refl s d k) fun u hu x _ => ?_
  cases x with
  | arv sc => exact hu.trans (grown_modCtl _ _ _ _)
  | _ => exact hu
theorem setPsn_agCtl (t : Slot) (q : Fin 4) (p : Bool) : (t.setPsn q p).agCtl = t.agCtl := by cases p <;> rfl
theorem commitPops_agCtl (t : Slot) (o : Open) : (commitPops t o).agCtl = t.agCtl := by
  unfold commitPops
  refine List.foldlRecOn (List.finRange 4) _ (motive := fun u : Slot => u.agCtl = t.agCtl) rfl fun u hu q _ => ?_
  exact (setPsn_agCtl _ _ _).trans hu

/-! ## A push (R185, R187) -/

/-- What the passing of a lease changes of a slot: its request, its lease, what is left of it. -/
def LeaseOnly (t u : Slot) : Prop := u = { t with ctl := { t.ctl with mreq := u.ctl.mreq, mheld := u.ctl.mheld, mleft := u.ctl.mleft } }
theorem LeaseOnly.refl (t : Slot) : LeaseOnly t t := rfl
theorem LeaseOnly.trans {t u v : Slot} (h : LeaseOnly t u) (g : LeaseOnly u v) : LeaseOnly t v := by
  unfold LeaseOnly at *
  rw [g, h]
/-- What the passing of a lease changes of a die. -/
structure Leased (y z : Die) : Prop where
  slots : ∀ k, LeaseOnly (y.slot k) (z.slot k)
  rest : z = { y with slots := z.slots }
theorem Leased.refl (y : Die) : Leased y y := ⟨fun _ => rfl, rfl⟩
theorem Leased.trans {x y z : Die} (h : Leased x y) (g : Leased y z) : Leased x z :=
  ⟨fun k => (h.slots k).trans (g.slots k), by rw [g.rest, h.rest]⟩
theorem leased_modCtl (y : Die) (k : SlotId) (q h : Bool) (n : Nat) : Leased y (y.modSlot k (·.modCtl fun c => { c with mreq := q, mheld := h, mleft := n })) := by
  refine ⟨fun j => ?_, rfl⟩
  by_cases e : k = j
  · subst e; simp [LeaseOnly, Slot.modCtl]
  · rw [Die.slot_modSlot_ne _ e]; rfl
theorem grantLease_leased (y : Die) (d : DieId) (k : SlotId) : Leased y (y.grantLease d k) := leased_modCtl y k false true _
theorem lapse_leased (y : Die) (d : DieId) (k : SlotId) : Leased y (y.lapse d k) := by
  have off : Leased y (y.modSlot k (·.modCtl fun c => { c with mheld := false, mleft := 0 })) := by
    refine ⟨fun j => ?_, rfl⟩
    by_cases e : k = j
    · subst e; simp [LeaseOnly, Slot.modCtl]
    · rw [Die.slot_modSlot_ne _ e]; rfl
  unfold Die.lapse
  split
  · dsimp only
    split
    · exact off
    · split
      · exact off.trans (grantLease_leased _ _ _)
      · exact off
  · exact Leased.refl y
theorem regrant_leased (y : Die) (d : DieId) (b : SlotId) : Leased y (y.regrant d b) := by
  unfold Die.regrant
  split
  · exact Leased.refl y
  · split
    · exact grantLease_leased _ _ _
    · exact Leased.refl y
/-- A lease that lapses is no longer held, where its strand has not asked again. -/
theorem lapse_mheld (y : Die) (d : DieId) (k : SlotId) (h : (y.slot k).ctl.mheld = true) (hq : (y.slot k).ctl.mreq = false) : ((y.lapse d k).slot k).ctl.mheld = false := by
  have off (y : Die) : ((y.modSlot k (·.modCtl fun c => { c with mheld := false, mleft := 0 })).slot k).ctl.mheld = false := by simp [Slot.modCtl]
  unfold Die.lapse
  rw [if_pos h]
  dsimp only
  split
  · exact off y
  · split
    · rename_i j hj
      have hm := List.find?_some hj
      have hne : j ≠ k := by
        rintro rfl
        simp [Slot.modCtl, hq] at hm
      rw [Die.grantLease, Die.slot_modSlot_ne _ hne]
      exact off y
    · exact off y

section Enq
variable (s : State) (d : DieId) (k : SlotId) (bh : Word) (seq : W32) (q : Fin 6) (h : Word) (e : Vector Word 8) (wait sig : Byte) (word : Nat)

/-- The entry that a push makes. -/
def pushEntry : Entry := ⟨h, e, wait, sig, stepRng (s.ctl d k).rng, vget (s.slot d k).pseq q, ((s.ctl d k).tent.find? fun x => x.1 == q && x.2.hdr == h).bind (·.2.held)⟩
/-- The state in which the entry has joined its queue. -/
def pushed : State := s.modSlot d k fun t => { t with
  q := vmod t.q q (· ++ [⟨h, e, wait, sig, stepRng (s.ctl d k).rng, vget t.pseq q, ((s.ctl d k).tent.find? fun x => x.1 == q && x.2.hdr == h).bind (·.2.held)⟩])
  pseq := vmod t.pseq q (· + 1)
  ctl := { t.ctl with rng := stepRng (s.ctl d k).rng, tent := match (s.ctl d k).tent.find? (fun x => x.1 == q && x.2.hdr == h) with | some x => t.ctl.tent.erase x | none => t.ctl.tent } }
/-- A matrix push joins its fragment's order. -/
def ordered (u : State) : State := u.modSlot d ((u.die d).baseOf k) fun t => { t with mord := t.mord ++ [k] }
/-- A matrix push uses one unit of a held lease. -/
def used (u : State) : State := u.modCtl d k fun c => { c with mleft := c.mleft - 1 }

/-- What a push sets in a slot. -/
def pushView (t : Slot) : Vector (List Entry) 6 × Vector W32 6 × AgentSt × W32 := (t.q, t.pseq, t.agCtl, t.ctl.rng)

theorem applyOp_enq : applyOp d k bh seq s (.enq q h e wait sig word) =
    if q == 3 then
      let u := ordered d k (pushed s d k q h e wait sig)
      if (u.ctl d k).mheld then (if ((used d k u).ctl d k).mleft = 0 then (used d k u).modDie d fun y => y.lapse d k else used d k u) else u
    else pushed s d k q h e wait sig := rfl

theorem pushed_slot : (pushed s d k q h e wait sig).slot d k = { s.slot d k with
    q := vmod (s.slot d k).q q (· ++ [pushEntry s d k q h e wait sig]), pseq := vmod (s.slot d k).pseq q (· + 1)
    ctl := { s.ctl d k with rng := stepRng (s.ctl d k).rng, tent := match (s.ctl d k).tent.find? (fun x => x.1 == q && x.2.hdr == h) with | some x => (s.ctl d k).tent.erase x | none => (s.ctl d k).tent } } := by
  rw [pushed, State.slot_modSlot_same]; rfl
theorem ordered_view (u : State) : pushView ((ordered d k u).slot d k) = pushView (u.slot d k) ∧ (ordered d k u).ctl d k = u.ctl d k := by
  rw [State.ctl, State.slot, ordered, State.die_modSlot_same]
  exact ⟨slot_modSlot_keeps (f := fun t => { t with mord := t.mord ++ [k] }) pushView _ _ k fun _ => rfl, slot_modSlot_keeps (f := fun t => { t with mord := t.mord ++ [k] }) Slot.ctl _ _ k fun _ => rfl⟩
theorem used_view (u : State) : pushView ((used d k u).slot d k) = pushView (u.slot d k) ∧ (used d k u).ctl d k = { u.ctl d k with mleft := (u.ctl d k).mleft - 1 } := by
  simp [used, pushView, modCtl_eq, State.ctl]
theorem lapse_view (u : State) : pushView ((u.modDie d fun y => y.lapse d k).slot d k) = pushView (u.slot d k) := by
  have l := (lapse_leased (u.die d) d k).slots k
  rw [State.slot, State.die_modDie_same, l]
  rfl
/-- A push leaves its entry at the tail of its queue; memory is as it was. -/
theorem applyOp_enq_view : pushView ((applyOp d k bh seq s (.enq q h e wait sig word)).slot d k) = pushView ((pushed s d k q h e wait sig).slot d k) ∧
    SameMem s (applyOp d k bh seq s (.enq q h e wait sig word)) := by
  have m0 : SameMem s (pushed s d k q h e wait sig) := sameMem_modDie _ _ _ rfl
  have m1 (u : State) : SameMem u (ordered d k u) := sameMem_modDie _ _ _ rfl
  have m2 (u : State) : SameMem u (used d k u) := sameMem_modDie _ _ _ rfl
  have m3 (u : State) : SameMem u (u.modDie d fun y => y.lapse d k) := sameMem_modDie _ _ _ (by rw [(lapse_leased (u.die d) d k).rest])
  rw [applyOp_enq]
  split
  · dsimp only
    split
    · split
      · exact ⟨(lapse_view _ _ _).trans ((used_view _ _ _).1.trans (ordered_view _ _ _).1), m0.trans ((m1 _).trans ((m2 _).trans (m3 _)))⟩
      · exact ⟨(used_view _ _ _).1.trans (ordered_view _ _ _).1, m0.trans ((m1 _).trans (m2 _))⟩
    · exact ⟨(ordered_view _ _ _).1, m0.trans (m1 _)⟩
  · exact ⟨rfl, m0⟩
/-- A matrix push under a held lease takes one unit of it; at the last it lapses. -/
theorem applyOp_enq_lease (hm : (s.ctl d k).mheld = true) (hq : (s.ctl d k).mreq = false) :
    (1 < (s.ctl d k).mleft → ((applyOp d k bh seq s (.enq 3 h e wait sig word)).ctl d k).mheld = true ∧ ((applyOp d k bh seq s (.enq 3 h e wait sig word)).ctl d k).mleft + 1 = (s.ctl d k).mleft) ∧
    ((s.ctl d k).mleft = 1 → ((applyOp d k bh seq s (.enq 3 h e wait sig word)).ctl d k).mheld = false) := by
  have hc : (ordered d k (pushed s d k 3 h e wait sig)).ctl d k = ((pushed s d k 3 h e wait sig).slot d k).ctl := (ordered_view d k _).2
  rw [pushed_slot] at hc
  have hu := (used_view d k (ordered d k (pushed s d k 3 h e wait sig))).2
  rw [hc] at hu
  rw [applyOp_enq, if_pos (by decide)]
  dsimp only
  rw [hc, if_pos hm, hu]
  dsimp only
  refine ⟨fun g => ?_, fun g => ?_⟩
  · rw [if_neg (by omega), hu]
    exact ⟨hm, by dsimp only; omega⟩
  · rw [if_pos (by omega), State.ctl, State.slot, State.die_modDie_same]
    have hu' : (((used d k (ordered d k (pushed s d k 3 h e wait sig))).die d).slot k).ctl = _ := hu
    exact lapse_mheld _ _ _ (by rw [hu']; exact hm) (by rw [hu']; exact hq)

end Enq

/-- Settles O13: the commit applies its operations in the order written, then sets the control core. -/
theorem commitKeepsTheOrderWritten : Obligations.CommitKeepsTheOrderWritten := by
  refine ⟨fun s d k b r h hops hres htr hs hsu => ?_, fun s d k b r h htr hs hsu => ?_, fun s d k b r q e v wait sig word h htr hs hsu hres hops => ?_⟩
  · have happ : opsApplied s d k b = s := by rw [opsApplied, hops]; rfl
    have fin (pc : Word) (hp : b.succ = .fall ∧ pc = r.fall ∨ ∃ w, b.succ = .addr pc w) :
        exec (.blockCommit d k) s = .next (s.modCtl d k (Ctl.committed b b.regs id pc (s.ctl d k).tent)) := by
      rw [commit_runs h, commitFinish_goes htr hsu hp, happ]
      simp only [commitPops_none hres]
      rfl
    obtain hs | ⟨a, w, hs⟩ := hs
    · refine ⟨_, fin r.fall (.inl ⟨hs, rfl⟩), onlyCtl_modCtl _ _ _ _, ?_, ?_, ?_, ?_, ?_⟩
      all_goals simp [modCtl_eq, State.ctl, Ctl.committed, hs]
    · refine ⟨_, fin a (.inr ⟨w, hs⟩), onlyCtl_modCtl _ _ _ _, ?_, ?_, ?_, ?_, ?_⟩
      all_goals simp [modCtl_eq, State.ctl, Ctl.committed, hs]
  · intro seq form hform
    have same (x : CtlOp) : form x = sbForm b.hdr seq (s.slot d k).pseq x := by cases x <;> rfl
    have g := (applyOps_grown (d := d) (k := k) (hdr := b.hdr) (seq := seq) b.ops s fun x hx => by rw [← same]; exact hform x hx).trans (noteArrivals_grown _ d k b.ops)
    refine ⟨_, (commit_runs h).trans (congrArg _ (commitFinish_goes htr hsu (.inl ⟨hs, rfl⟩))), ?_, ?_, ?_, ?_⟩
    · rw [State.slot_modSlot_same]
      refine Eq.trans (congrArg AgentSt.sb (commitPops_agCtl _ _)) (g.sb.trans ?_)
      rw [List.append_nil]
      simp only [same]
    · exact g.mem.trans (sameMem_modDie _ _ _ rfl)
    · rw [State.ctl, State.slot_modSlot_same]; rfl
    · rw [State.ctl, State.slot_modSlot_same]; rfl
  · intro g
    have happ : opsApplied s d k b = applyOp d k b.hdr (s.ctl d k).ccnt s (.enq q e v wait sig word) := by rw [opsApplied, hops]; rfl
    obtain ⟨hview, hmem⟩ := applyOp_enq_view s d k b.hdr (s.ctl d k).ccnt q e v wait sig word
    have fin : exec (.blockCommit d k) s = .next ((opsApplied s d k b).modCtl d k (Ctl.committed b b.regs id r.fall (s.ctl d k).tent)) := by
      rw [commit_runs h, commitFinish_goes htr hsu (.inl ⟨hs, rfl⟩)]
      simp only [commitPops_none hres]
      rfl
    have hslot : ((opsApplied s d k b).modCtl d k (Ctl.committed b b.regs id r.fall (s.ctl d k).tent)).slot d k =
        { (opsApplied s d k b).slot d k with ctl := Ctl.committed b b.regs id r.fall (s.ctl d k).tent ((opsApplied s d k b).ctl d k) } := by
      rw [modCtl_eq, State.slot_modSlot_same]; rfl
    rw [pushed_slot, ← happ] at hview
    simp only [pushView, Prod.mk.injEq] at hview
    obtain ⟨hq, hps, hag, hrng⟩ := hview
    refine ⟨_, fin, ?_, ?_, ?_, fun p hp => ?_, ?_, ?_, fun h3 hm hr => ?_⟩
    · rw [State.ctl, hslot]; exact hrng
    · rw [hslot, hq, vget_vmod_same]; rfl
    · rw [hslot, hps, vget_vmod_same]
    · rw [hslot, hq, hps, vget_vmod_ne _ (Ne.symm hp), vget_vmod_ne _ (Ne.symm hp)]; exact ⟨rfl, rfl⟩
    · rw [← happ] at hmem; exact hmem.trans (sameMem_modDie _ _ _ rfl)
    · rw [hslot, hag]
    · subst h3
      have hctl : ((opsApplied s d k b).modCtl d k (Ctl.committed b b.regs id r.fall (s.ctl d k).tent)).ctl d k = Ctl.committed b b.regs id r.fall (s.ctl d k).tent ((opsApplied s d k b).ctl d k) :=
        congrArg Slot.ctl hslot
      rw [hctl]
      have l := applyOp_enq_lease s d k b.hdr (s.ctl d k).ccnt e v wait sig word hm hr
      rwa [← happ] at l

end Sys2Proof.Proofs
end

section
/-! SUPPORT. Special registers and traps at the commit (R3, R139, R201, R202). -/

namespace Sys2Proof.Proofs

open Sys2Proof Sys2Proof.Machine Sys2Proof.Laws

/-! ## What a passed check says of its parts -/

theorem and_ok {α β : Type} {h : Word} {p : Pre α} {f : State → Pre β} {u : State} {q : α × β} (e : p.and h f = .ok u q) : ∃ t, p = .ok t q.1 ∧ f t = .ok u q.2 := by
  cases p with
  | ok t a =>
    simp only [Pre.and] at e
    cases hf : f t with
    | ok v b => rw [hf] at e; injection e with e1 e2; subst e1 e2; exact ⟨t, rfl, hf⟩
    | wait v => rw [hf] at e; cases e
    | fault v c w x n => rw [hf] at e; cases e
  | wait t => cases e
  | fault t c w x n =>
    simp only [Pre.and] at e
    cases hf : f t with
    | ok v b => rw [hf] at e; cases e
    | wait v => rw [hf] at e; cases e
    | fault v c' w' x' n' => rw [hf] at e; dsimp only at e; split at e <;> cases e
theorem bind_ok {α β : Type} {p : Pre α} {f : State → α → Pre β} {u : State} {b : β} (e : p.bind f = .ok u b) : ∃ t a, p = .ok t a ∧ f t a = .ok u b := by
  cases p with
  | ok t a => exact ⟨t, a, rfl, e⟩
  | wait t => cases e
  | fault t c w x n => cases e
theorem preSusp_ok {s u : State} {d : DieId} {k : SlotId} {o : Open} {x : Option (SuspReq × Nat)} (e : preSusp s d k o = .ok u x) : u = s := by
  unfold preSusp at e
  split at e
  · injection e with h _; exact h.symm
  · injection e with h _; exact h.symm
  · split at e
    · cases e
    · split at e
      · injection e with h _; exact h.symm
      · split at e
        · injection e with h _; exact h.symm
        · cases e
  · split at e
    · cases e
    · split at e
      · split at e
        · injection e with h _; exact h.symm
        · cases e
      · injection e with h _; exact h.symm
theorem prePoint_ok {s u : State} {d : DieId} {k : SlotId} {o : Open} {x : Option (SuspReq × Nat)} {y : Unit} (e : prePoint s d k o x = .ok u y) : u = s := by
  have ite_ok {c : Prop} [Decidable c] {n : Nat} {w a : Word} {m : Nat} (e : (if c then Pre.fault s n w a m else .ok s ()) = .ok u y) : u = s := by
    split at e
    · cases e
    · injection e with h _; exact h.symm
  exact ite_ok e
/-- The traps of a block whose checks have passed are legal. -/
theorem preCommit_traps {s u : State} {d : DieId} {k : SlotId} {o : Open} {r : Ready} (e : preCommit s d k o = .ok u r) : ∃ q, trapFold o.traps (csrAfter (s.slot d k) o.ops, 0) = .ok q := by
  obtain ⟨t, q, e, -⟩ := bind_ok e
  obtain ⟨t1, e, -⟩ := and_ok e
  obtain ⟨t2, e, -⟩ := and_ok e
  obtain ⟨t3, ea, et⟩ := and_ok e
  obtain ⟨t4, sp, es, ep⟩ := bind_ok ea
  obtain ⟨t5, y, ep, e5⟩ := bind_ok ep
  injection e5 with e5 _
  obtain rfl := preSusp_ok es
  obtain rfl := prePoint_ok ep
  subst e5
  unfold preTraps at et
  cases hq : trapFold o.traps (csrAfter (t5.slot d k) o.ops, 0) with
  | ok q => exact ⟨q, rfl⟩
  | error p => rw [hq] at et; cases et

/-! ## A write of a special register (R3, R139) -/

theorem csrWrite_agCtl (t : Slot) (n : Nat) (v : Word) : (csrWrite t n v).agCtl = t.agCtl := by
  unfold csrWrite
  dsimp only
  split_ifs <;> rfl
theorem csrWrite_pmc (t : Slot) (i : Fin 16) (v : Word) : csrWrite t (0xA0 + i.val) v = { t with pmc := vset t.pmc i v } := by
  have e : (⟨(0xA0 + i.val) % 16, Nat.mod_lt _ (by decide)⟩ : Fin 16) = i := Fin.ext (by simp only; omega)
  have h (m : Nat) (hm : m < 0xA0) : (0xA0 + i.val == m) = false := by simp; omega
  unfold csrWrite
  simp only [h 0x50 (by decide), h 0x60 (by decide), h 0x61 (by decide), h 0x70 (by decide), h 0x71 (by decide), h 0x72 (by decide), Bool.false_eq_true, if_false, e]
  rw [if_pos (by simp; omega)]
theorem csrWrite_pmsel (t : Slot) (i : Fin 16) (v : Word) : csrWrite t (0xB0 + i.val) v = { t with pmsel := vset t.pmsel i (v.setWidth 8) } := by
  have e : (⟨(0xB0 + i.val) % 16, Nat.mod_lt _ (by decide)⟩ : Fin 16) = i := Fin.ext (by simp only; omega)
  have h (m : Nat) (hm : m < 0xB0) : (0xB0 + i.val == m) = false := by simp; omega
  unfold csrWrite
  simp only [h 0x50 (by decide), h 0x60 (by decide), h 0x61 (by decide), h 0x70 (by decide), h 0x71 (by decide), h 0x72 (by decide), Bool.false_eq_true, if_false, e]
  rw [if_neg (by simp), if_pos (by simp; omega)]

/-! ## Traps (R202) -/

/-- The fault that a control core held by none has taken. -/
theorem takeFault_flt {s : State} {d : DieId} {k : SlotId} {f : FaultAt} (hf : (s.slot d k).heldBy 0 = false) :
    vget ((takeFault s d k 0 f).slot d k).flt 0 = some ⟨(s.die d).faultRec d k 0 f, s.openRec d k 0, none⟩ := by
  have hn : vget (s.slot d k).flt 0 = none := Option.isNone_iff_eq_none.1 (Option.isSome_eq_false_iff.1 hf)
  have ha : agNum 0 = 0 := rfl
  rw [takeFault_slot]
  cases h : codeRpl f.code <;> simp [slotFault, ha, h, Slot.dropRows, Slot.modCtl, Slot.discard, hn]

section Trap
variable {s : State} {d : DieId} {k : SlotId} {b : Open} {r : Ready} (hops : b.ops = []) (hres : b.resv = []) (hs : b.succ = .fall) (hsu : r.susp = none)

/-- The control core after a commit whose traps leave the CSRs `e` and the successor `pc`. -/
def Ctl.trapped (o : Open) (e : Csrs) (pc : Word) (tent : List (Fin 6 × Entry)) (c : Ctl) : Ctl :=
  { c with regs := o.regs, csr := e, opn := none, ccnt := c.ccnt + 1, tent := tent, pc := pc }
include hops hres hs hsu

theorem commitFinish_enters {v : Word} {p : Nat} (htr : b.traps = [(some v, p)]) (h : handlerTakes (s.ctl d k).csr = true) :
    commitFinish s d k b r = s.modSlot d k fun t => (t.modCtl (Ctl.trapped b (enterHandler (s.ctl d k).csr r.fall v).1 (enterHandler (s.ctl d k).csr r.fall v).2 [])).dropRows := by
  have hq : (((s.slot d k).ctl).csr) = (s.ctl d k).csr := rfl
  unfold commitFinish
  simp only [hs, htr, hops, List.foldl_nil, noteArrivals, Ready.suspends, hsu, Option.isSome_none, Bool.or_self, Bool.false_eq_true, if_false, List.any_cons, List.any_nil, Option.isSome_some,
    Bool.or_false, if_true]
  simp only [commitPops_none hres]
  rw [modSlot_self s d k (fun t => t) rfl]
  simp only [modCtl_eq, State.ctl, State.slot_modSlot_same, trapFold]
  rw [show handlerTakes (s.slot d k).ctl.csr = true from h]
  simp only [if_true, modSlot_modSlot]
  rfl
theorem commitFinish_trapFault {v : Word} {p : Nat} (htr : b.traps = [(some v, p)]) (h : handlerTakes (s.ctl d k).csr = false) :
    commitFinish s d k b r = takeFault (s.modSlot d k fun t => (t.modCtl (Ctl.trapped b (s.ctl d k).csr r.fall [])).dropRows) d k 0 ⟨9, b.hdr, b.at_ p, 0, (s.ctl d k).ccnt, 0, v⟩ := by
  unfold commitFinish
  simp only [hs, htr, hops, List.foldl_nil, noteArrivals, Ready.suspends, hsu, Option.isSome_none, Bool.or_self, Bool.false_eq_true, if_false, List.any_cons, List.any_nil, Option.isSome_some,
    Bool.or_false, if_true]
  simp only [commitPops_none hres]
  rw [modSlot_self s d k (fun t => t) rfl]
  simp only [modCtl_eq, State.ctl, State.slot_modSlot_same, trapFold]
  rw [show handlerTakes (s.slot d k).ctl.csr = false from h]
  simp only [Bool.false_eq_true, if_false, modSlot_modSlot]
  rfl
theorem commitFinish_leaves {p : Nat} (htr : b.traps = [(none, p)]) (h : (s.ctl d k).csr.hm = true) :
    commitFinish s d k b r = s.modCtl d k (Ctl.trapped b { (s.ctl d k).csr with hm := false } (s.ctl d k).csr.tepc ((s.ctl d k).tent.drop (b.npush.toList.foldl (· + ·) 0))) := by
  unfold commitFinish
  simp only [hs, htr, hops, List.foldl_nil, noteArrivals, Ready.suspends, hsu, Option.isSome_none, Bool.or_self, Bool.false_eq_true, if_false, List.any_cons, List.any_nil]
  simp only [commitPops_none hres]
  rw [modSlot_self s d k (fun t => t) rfl]
  simp only [modCtl_eq, State.ctl, State.slot_modSlot_same, trapFold]
  rw [show (s.slot d k).ctl.csr.hm = true from h]
  simp only [if_true, modSlot_modSlot]
  rfl

end Trap

/-- Settles O14: a held `csrw` is `csrWrite` at the commit; the traps of a block are `trapFold`. -/
theorem specialRegistersAndTraps : Obligations.SpecialRegistersAndTraps := by
  refine ⟨fun s d k b r n v h htr hs hsu hops hres => ?_, fun s d k b r h hops hres hs hsu => ?_⟩
  · intro c
    have happ : opsApplied s d k b = s.modSlot d k fun t => csrWrite t n.toNat v := by rw [opsApplied, hops]; rfl
    have fin : exec (.blockCommit d k) s = .next ((s.modSlot d k fun t => csrWrite t n.toNat v).modCtl d k (Ctl.committed b b.regs id r.fall (s.ctl d k).tent)) := by
      rw [commit_runs h, commitFinish_goes htr hsu (.inl ⟨hs, rfl⟩), happ]
      simp only [commitPops_none hres]
      rfl
    have hslot : ((s.modSlot d k fun t => csrWrite t n.toNat v).modCtl d k (Ctl.committed b b.regs id r.fall (s.ctl d k).tent)).slot d k =
        (csrWrite (s.slot d k) n.toNat v).modCtl (Ctl.committed b b.regs id r.fall (s.ctl d k).tent) := by
      rw [modCtl_eq, State.slot_modSlot_same, State.slot_modSlot_same]; rfl
    have hcsr : (((s.modSlot d k fun t => csrWrite t n.toNat v).modCtl d k (Ctl.committed b b.regs id r.fall (s.ctl d k).tent)).ctl d k).csr = (csrWrite (s.slot d k) n.toNat v).ctl.csr := by
      rw [State.ctl, hslot]; rfl
    refine ⟨_, fin, (sameMem_modDie _ _ _ rfl).trans (sameMem_modDie _ _ _ rfl), ?_, ?_⟩
    · rw [hslot]; exact csrWrite_agCtl _ _ _
    · rw [hcsr, hslot]
      refine ⟨fun e => ?_, fun e => ?_, fun e => ?_, fun e => ?_, fun e => ?_, fun e => ?_, fun e => ?_, fun e => ?_, fun i e => ?_, fun i e => ?_⟩
      · rw [e]; rfl
      · rw [e]; rfl
      · rw [e]; rfl
      · rw [e]; rfl
      · rw [e]; rfl
      · rw [e]; rfl
      · rw [e]; rfl
      · rcases e with e | e | e | e | e | e | e | e | e <;> (rw [e]; rfl)
      · have hn : n.toNat = 0xA0 + i.val := by rw [e, BitVec.toNat_ofNat]; omega
        rw [hn, csrWrite_pmc]
        exact ⟨vget_vset_same _ _ _, rfl⟩
      · have hn : n.toNat = 0xB0 + i.val := by rw [e, BitVec.toNat_ofNat]; omega
        rw [hn, csrWrite_pmsel]
        exact ⟨vget_vset_same _ _ _, rfl⟩
  · intro c
    have mask : bits 51 1 = 0x000FFFFFFFFFFFFE#64 := by decide
    refine ⟨fun v p htr => ⟨fun hh hm => ?_, fun hh ho => ?_⟩, fun p htr => ?_⟩
    · have ht : handlerTakes (s.ctl d k).csr = true := by
        unfold handlerTakes
        rw [mask, show (s.ctl d k).csr.hm = false from hm]
        simpa using hh
      refine ⟨_, (commit_runs h).trans (congrArg _ (commitFinish_enters hops hres hs hsu htr ht)), sameMem_modDie _ _ _ rfl, fun e he => State.die_modSlot_ne s (Ne.symm he) _ _, fun j hj => ?_, ?_, ?_, ?_, ?_⟩
      · rw [State.slot, State.die_modSlot_same, Die.slot_modSlot_ne _ (Ne.symm hj)]; rfl
      · simp only [State.ctl, State.slot_modSlot_same]; rfl
      · rw [State.ctl, State.slot_modSlot_same]; rfl
      · rw [State.ctl, State.slot_modSlot_same]
        exact congrArg ((s.ctl d k).csr.thnd &&& ·) mask
      · rw [State.ctl, State.slot_modSlot_same]; rfl
    · have ht : handlerTakes (s.ctl d k).csr = false := by
        unfold handlerTakes
        rw [mask]
        rcases hh with hh | hm
        · rw [show (s.ctl d k).csr.thnd &&& 0x000FFFFFFFFFFFFE#64 = 0 from hh]; rfl
        · rw [show (s.ctl d k).csr.hm = true from hm]; simp
      have hslot := takeFault_slot (s.modSlot d k fun t => (t.modCtl (Ctl.trapped b (s.ctl d k).csr r.fall [])).dropRows) d k 0 ⟨9, b.hdr, b.at_ p, 0, (s.ctl d k).ccnt, 0, v⟩
      have h9 : codeRpl 9 = false := rfl
      rw [State.slot_modSlot_same] at hslot
      refine ⟨_, (commit_runs h).trans (congrArg _ (commitFinish_trapFault hops hres hs hsu htr ht)), (sameMem_modDie _ _ _ rfl).trans (takeFault_sameMem _ _ _ _ _), ?_, ?_, ?_, ?_, ?_⟩
      · rw [State.ctl, hslot]; simp [slotFault, h9, Slot.dropRows, Slot.modCtl, Slot.discard, Ctl.trapped, c]
      · rw [State.ctl, hslot]; simp [slotFault, h9, Slot.dropRows, Slot.modCtl, Slot.discard, Ctl.trapped]
      · rw [State.ctl, hslot]; simp [slotFault, h9, Slot.dropRows, Slot.modCtl, Slot.discard, Ctl.trapped]
      · rw [State.ctl, hslot]; simp [slotFault, h9, Slot.dropRows, Slot.modCtl, Slot.discard]
      · exact ⟨_, takeFault_flt (by rw [State.slot_modSlot_same]; exact h.free), rfl, rfl, rfl, rfl⟩
    · have hm : (s.ctl d k).csr.hm = true := by
        obtain ⟨q, hq⟩ := preCommit_traps h.checks
        rw [htr, hops] at hq
        by_contra hne
        have hf : (s.slot d k).ctl.csr.hm = false := Bool.eq_false_of_not_eq_true hne
        simp only [trapFold, csrAfter, List.foldl_nil, hf, Bool.false_eq_true, if_false] at hq
        cases hq
      refine ⟨_, (commit_runs h).trans (congrArg _ (commitFinish_leaves hops hres hs hsu htr hm)), onlyCtl_modCtl _ _ _ _, ?_, ?_, ?_⟩
      all_goals rw [State.ctl, modCtl_eq, State.slot_modSlot_same]; rfl

end Sys2Proof.Proofs
end

section
/-! SUPPORT. A suspension whose own port has pinned the line of its record (R22, R27, R103). -/

namespace Sys2Proof.Proofs

open Sys2Proof Sys2Proof.Machine Sys2Proof.Laws

/-! ## The state -/

/-- A launch of one strand, whose records lie from 0x20000 on. -/
def suspLaunch : Launch := { farLaunch with csAt := 0x20000, prbase := 0 }
/-- A page of die memory at its own address, readable and writable, marked dirty. -/
def suspPage : TlbEntry := ⟨0, true, 0x20000, 16, 0x2006F, 0, true⟩
/-- A block at its end whose last word is `susp`. -/
def suspBlock : Open := { openFresh with phase := .ready, succ := .fall, susp := some (.susp, 2) }
/-- A row fetched ahead by a port, with the line of the record pinned. -/
def suspRow : Fetched := ⟨⟨[], [], false⟩, [0x20000 / 128], none, .are, 0, []⟩
/-- Slot 0 of d0 is about to commit that block; the pin is of a port of its own. -/
def suspState : State :=
  (State.reset.modDie 0 fun y => { y.setReg rASIDBASE 1 with sched := { y.sched with launches := [suspLaunch] } }).modSlot 0 0 fun t =>
    { t with tlb := [suspPage], ports := vset t.ports 0 { Port.empty with rows := [suspRow] }, ctl := { t.ctl with act := .running, own := some ⟨0, 0, 0⟩, opn := some suspBlock } }
/-- The place of the record. -/
def suspPlace : Piece := ⟨.here 0x20000, 0x20000, 64, none, ⟨0, true, 16⟩⟩
def suspReady : Ready := ⟨some (.susp, 2), [], suspBlock.nextAddr, [suspPlace], []⟩

theorem suspState_ready : CommitReady suspState 0 0 suspBlock suspReady where
  opn := by decide +kernel
  phase := rfl
  reads := by decide +kernel
  free := by decide +kernel
  going := by decide +kernel
  legal := rfl
  room := by decide +kernel
  pops := by decide +kernel
  lease := by decide +kernel
  checks := rfl
  drain := rfl
  filled := nofun

/-- How many writes a die holds after a step. -/
def heldCount : Out → Option Nat
  | .next u => some (u.die 0).held.length
  | _ => none
theorem suspState_holds_none : heldCount (exec (.blockCommit 0 0) suspState) = some 0 := by decide +kernel

/-- Refutes O15: a suspension gives back the rows of its own ports before its record is written, so a pin of a port of its own does not hold the record; the statement counts it. -/
theorem not_windowsAndSuspensions : ¬ Obligations.WindowsAndSuspensions := by
  rintro ⟨-, -, h⟩
  obtain ⟨t, ht, -, -, -, -, -, -, hheld, -⟩ := h suspState 0 0 suspBlock suspReady ⟨0, 0, 0⟩ suspLaunch suspPlace suspState_ready rfl rfl rfl (by decide +kernel) (by decide +kernel) (by decide +kernel)
    rfl (by decide +kernel) rfl (.inl ⟨2, rfl, rfl⟩)
  obtain ⟨x, hx, -⟩ := hheld 0x20000 rfl (by decide +kernel)
  have e := suspState_holds_none
  rw [ht] at e
  simp [heldCount, hx] at e

end Sys2Proof.Proofs
end

section
/-! SUPPORT. The checks of a commit and the drain events (R46 to R49, R149, R187, R363, R377, R378). -/

namespace Sys2Proof.Proofs

open Sys2Proof Sys2Proof.Machine Sys2Proof.Laws

/-! ## What the checks of a commit keep -/

section Keep
variable {Q : State → Prop} {α β : Type}

theorem and_keeps {h : Word} {p : Pre α} {f : State → Pre β} (hp : Q p.state) (hf : ∀ t, Q t → Q (f t).state) : Q (p.and h f).state := by
  cases p with
  | ok t a =>
    have g := hf t hp
    simp only [Pre.and]
    generalize f t = x at g ⊢
    cases x <;> exact g
  | wait t => exact hf t hp
  | fault t c w x u =>
    have g := hf t hp
    simp only [Pre.and]
    generalize f t = y at g ⊢
    cases y with
    | ok v b => exact g
    | wait v => exact g
    | fault v c' w' x' u' => dsimp only; split <;> exact g
theorem bind_keeps {p : Pre α} {f : State → α → Pre β} (hp : Q p.state) (hf : ∀ t a, Q t → Q (f t a).state) : Q (p.bind f).state := by
  cases p with
  | ok t a => exact hf t a hp
  | wait t => exact hp
  | fault t c w x u => exact hp
theorem ite_keeps {c : Prop} [Decidable c] {p q : Pre α} (hp : Q p.state) (hq : Q q.state) : Q (if c then p else q).state := by
  split
  · exact hp
  · exact hq

end Keep

/-- The faults of a slot's agents are as they were. -/
def SameFlt (s : State) (d : DieId) (k : SlotId) (u : State) : Prop := (u.slot d k).flt = (s.slot d k).flt

section Flt
variable {s : State} {d : DieId} {k : SlotId} {o : Open}

theorem preAccess_flt {u : State} (hu : SameFlt s d k u) (va len : Nat) (rd wr : Bool) (w : Word) : SameFlt s d k (preAccess u d k va len rd wr w).state := by
  have h := accessAll_keeps (transKeeps_slot k (withoutTlb (u.slot d k))) d ((u.die d).who (.core k) k) (needScalar rd wr) (cutLines va len) (u.die d) rfl
  have q (y : Die) (hy : withoutTlb (y.slot k) = withoutTlb (u.slot d k)) : SameFlt s d k (u.modDie d fun _ => y) := by
    have e := congrArg Slot.flt hy
    unfold SameFlt
    rw [← hu, State.slot, State.die_modDie_same]
    exact e
  unfold preAccess accessRow
  generalize accessAll d ((u.die d).who (.core k) k) (needScalar rd wr) (cutLines va len) (u.die d) = x at h ⊢
  cases x <;> exact q _ h
theorem preSusp_flt {u : State} (hu : SameFlt s d k u) : SameFlt s d k (preSusp u d k o).state := by
  unfold preSusp
  split
  · exact hu
  · exact hu
  · split
    · exact hu
    · exact ite_keeps hu (ite_keeps hu hu)
  · exact ite_keeps hu (ite_keeps (ite_keeps hu hu) hu)
theorem preExit_flt {u : State} (hu : SameFlt s d k u) : SameFlt s d k (preExit u d k o).state := by
  unfold preExit
  dsimp only
  split
  · exact ite_keeps hu hu
  · exact ite_keeps hu (ite_keeps hu (ite_keeps hu (preAccess_flt hu _ _ _ _ _)))
  · exact ite_keeps hu (ite_keeps hu (preAccess_flt hu _ _ _ _ _))
  · exact hu
theorem askSched_flt {u : State} (hu : SameFlt s d k u) (g : Nat) (p : Piece) : SameFlt s d k (askSched d k o g p u) := by
  unfold SameFlt
  rw [← hu, askSched, State.setOpn, modCtl_eq, State.slot_modSlot_same]
  simp [State.slot, State.modAg, Die.modAg]
theorem preSwitch_flt {u : State} (hu : SameFlt s d k u) : SameFlt s d k (preSwitch u d k o).state := by
  have ask (lvl g : Nat) (l : Launch) (n : Nat) : SameFlt s d k (if (u.ctl d k).acq.isSome then Pre.wait u
      else if l.sched.toNat % 8 != 0 then .fault u 19 0 (l.sched + BitVec.ofNat 64 (32 * n + 8 * g)) 0
      else (preAccess u d k (l.sched.toNat + 32 * n + 8 * g) 8 true false 0).bind fun s ps =>
        match ps with
        | p :: _ => (.wait (askSched d k o g p s) : Pre Word)
        | [] => .wait s).state := by
    refine ite_keeps hu (ite_keeps hu (bind_keeps (preAccess_flt hu _ _ _ _ _) fun t ps ht => ?_))
    cases ps with
    | nil => exact ht
    | cons p _ => exact askSched_flt ht g p
  unfold preSwitch
  dsimp only
  split
  · refine ite_keeps hu ?_
    split
    · exact ite_keeps hu (ask 0 _ _ _)
    · exact ite_keeps hu (ask 0 _ _ _)
  · exact hu
/-- The checks of a commit leave the faults of its slot. -/
theorem preCommit_flt : SameFlt s d k (preCommit s d k o).state := by
  unfold preCommit
  refine bind_keeps (and_keeps (and_keeps (and_keeps (bind_keeps (preSusp_flt rfl) fun t sp ht => bind_keeps (ite_keeps ht ht) fun _ _ h => h) fun t ht => ?_) fun t ht => ?_) fun t ht => preExit_flt ht) fun t q ht => ?_
  · unfold preTraps
    cases trapFold o.traps (csrAfter (t.slot d k) o.ops, 0) <;> exact ht
  · unfold preDrain
    split
    · exact ht
    · split <;> exact ht
  · refine ite_keeps ht (bind_keeps (preSwitch_flt ht) fun u fall hu => ?_)
    split
    · exact bind_keeps (preAccess_flt hu _ _ _ _ _) fun v rp hv => ite_keeps hv hv
    · exact hu

end Flt

/-! ## A block that asks for nothing at its commit -/

theorem preCommit_plain {s : State} {d : DieId} {k : SlotId} {b : Open} (hsu : b.susp = none) (htr : b.traps = []) (hdr : b.drain = none) (hs : b.succ = .fall) (hsw : b.sw = none) :
    preCommit s d k b = .ok s ⟨none, [], b.nextAddr, [], []⟩ := by
  have h1 : ((preSusp s d k b).bind fun s sp => (prePoint s d k b sp).bind fun s _ => .ok s sp) = .ok s none := by
    simp only [preSusp, hsu, Pre.bind, prePoint, hs, Option.isSome_none, Bool.or_self, Bool.false_and, Bool.false_eq_true, if_false]
  have h2 : preTraps d k b s = .ok s () := by simp only [preTraps, htr, trapFold]
  have h3 : preDrain d k b s = .ok s [] := by simp only [preDrain, hdr]
  have h4 : preExit s d k b = .ok s [] := by simp only [preExit, hs]
  have h5 : preSwitch s d k b = .ok s b.nextAddr := by simp only [preSwitch, hsw]
  rw [preCommit, h1]
  simp only [h2, h3, h4, h5, Pre.and, Pre.bind, hs, Option.isSome_none, Bool.or_self, Bool.false_and, Bool.false_eq_true, if_false]

/-! ## What stops a commit (R149, R187, R363) -/

section Stop
variable {s : State} {d : DieId} {k : SlotId} {b : Open} (ho : (s.ctl d k).opn = some b) (hph : b.phase = .ready) (hrd : (s.slot d k).agCtl.rd = []) (hf : (s.slot d k).heldBy 0 = false)
  (hst : vget (s.slot d k).stop 0 = false)

/-- All checks of a block's commit, in their order. -/
def allChecks (s : State) (d : DieId) (k : SlotId) (b : Open) : Pre ((Unit × Bool) × Ready) := ((preBad b s).and b.hdr (preLease d k b)).and b.hdr fun s => preCommit s d k b
include ho hph hrd hf hst
theorem commit_faults {u : State} {c : Nat} {w x : Word} {n : Nat} (h : allChecks s d k b = .fault u c w x n) : exec (.blockCommit d k) s = .next (blockFault u d k b c w x n) := by
  unfold allChecks at h
  show execBlockCommit d k s = _
  unfold execBlockCommit
  simp only [ho, hph, hrd, hf, hst, h, bne_self_eq_false, List.isEmpty_nil, Bool.not_true, Bool.or_self, Bool.false_eq_true, if_false]
theorem commit_waits {u : State} (h : allChecks s d k b = .wait u) : exec (.blockCommit d k) s = .next u := by
  unfold allChecks at h
  show execBlockCommit d k s = _
  unfold execBlockCommit
  simp only [ho, hph, hrd, hf, hst, h, bne_self_eq_false, List.isEmpty_nil, Bool.not_true, Bool.or_self, Bool.false_eq_true, if_false]
/-- The checks have passed, but the lease is still asked for, or a queue has no room. -/
theorem commit_holds {u : State} {l : Bool} {r : Ready} (h : allChecks s d k b = .ok u (((), l), r)) (g : l = false ∨ ∃ q : Fin 6, 16 < (vget (u.slot d k).q q).length + vget b.npush q) :
    exec (.blockCommit d k) s = .next u := by
  unfold allChecks at h
  have hc : (!l || !((List.finRange 6).all fun i => decide ((vget (u.slot d k).q i).length + vget b.npush i ≤ 16))) = true := by
    obtain rfl | ⟨q, hq⟩ := g
    · rfl
    · have : ((List.finRange 6).all fun i => decide ((vget (u.slot d k).q i).length + vget b.npush i ≤ 16)) = false :=
        List.all_eq_false.2 ⟨q, List.mem_finRange q, by simp; omega⟩
      rw [this]; simp
  show execBlockCommit d k s = _
  unfold execBlockCommit
  simp only [ho, hph, hrd, hf, hst, h, bne_self_eq_false, List.isEmpty_nil, Bool.not_true, Bool.or_self, Bool.false_eq_true, if_false]
  rw [hc]
  simp

omit ho hph hrd hst in
/-- What a fault of a block leaves. -/
theorem blockFault_names {u : State} (hu : SameFlt s d k u) {c : Nat} {w x : Word} {n : Nat} :
    ∃ t, Host.Outcome.next (blockFault u d k b c w x n) = (.next t : Out) ∧ (t.ctl d k).opn = none ∧ ∃ f, vget (t.slot d k).flt 0 = some f ∧ f.r.code = c ∧ f.r.word = w :=
  ⟨_, rfl, takeFault_opn, _, takeFault_flt (by unfold Slot.heldBy; rw [show (u.slot d k).flt = _ from hu]; exact hf), rfl, rfl⟩
omit ho hph hrd hst in
theorem blockFault_leaves (hr : s.openRec d k 0 = none) {c : Nat} {w x : Word} {n : Nat} :
    ∃ t, Host.Outcome.next (blockFault s d k b c w x n) = (.next t : Out) ∧ (t.ctl d k).opn = none ∧ (t.ctl d k).regs = (s.ctl d k).regs ∧
      (t.ctl d k).pc = (s.ctl d k).pc ∧ SameMem s t ∧ ∃ f, vget (t.slot d k).flt 0 = some f ∧ f.r.code = c ∧ f.r.unit = BitVec.ofNat 32 n :=
  ⟨_, rfl, takeFault_opn, takeFault_regs hr, takeFault_pc hr, takeFault_sameMem _ _ _ _ _, _, takeFault_flt hf, rfl, rfl⟩

end Stop

section Checks
variable {s : State} {d : DieId} {k : SlotId} {b : Open}

theorem leaseCheck_zero (h : vget b.npush 3 = 0) : (s.die d).leaseCheck d k (vget b.npush 3) = none := by rw [h]; rfl
/-- A refused word, and what the later checks find. -/
theorem allChecks_bad {n : Nat} (hb : b.bad = some n) (hl : (s.die d).leaseCheck d k (vget b.npush 3) = none) :
    allChecks s d k b = (Pre.fault s (if b.len + 2 ≤ n then 1 else 2) (b.at_ n) 0 0).and b.hdr fun s => preCommit s d k b := by
  simp only [allChecks, preBad, hb, preLease, hl, Pre.and]
theorem allChecks_lease {z : Nat} (hb : b.bad = none) (hl : (s.die d).leaseCheck d k (vget b.npush 3) = some (some z)) :
    allChecks s d k b = (Pre.fault s 6 (BitVec.ofNat 64 (firstMxe b.ops)) 0 z).and b.hdr fun s => preCommit s d k b := by
  simp only [allChecks, preBad, hb, preLease, hl, Pre.and]
theorem allChecks_asked (hb : b.bad = none) (hl : (s.die d).leaseCheck d k (vget b.npush 3) = some none) :
    allChecks s d k b = (Pre.ok s ((), false)).and b.hdr fun s => preCommit s d k b := by
  simp only [allChecks, preBad, hb, preLease, hl, Pre.and]
theorem allChecks_good (hb : b.bad = none) (hl : (s.die d).leaseCheck d k (vget b.npush 3) = none) :
    allChecks s d k b = (Pre.ok s ((), true)).and b.hdr fun s => preCommit s d k b := by
  simp only [allChecks, preBad, hb, preLease, hl, Pre.and]

end Checks

/-! ## Drain events (R46 to R49) -/

/-- What a fault of a control core and the passing of leases leave of the layout. -/
theorem takeFault_lay (s : State) (d : DieId) (k : SlotId) (a : Nat) (f : FaultAt) : ((takeFault s d k a f).die d).lay = (s.die d).lay := by
  unfold takeFault
  dsimp only
  split
  · rw [State.modSched, State.die_modDie_same, State.die_modSlot_same]; rfl
  · rw [State.die_modSlot_same]; rfl
theorem foldl_leased (d : DieId) (l : List SlotId) (y : Die) : Leased y (l.foldl (fun y b => y.regrant d b) y) := by
  induction l generalizing y with
  | nil => exact Leased.refl y
  | cons b l ih => exact (regrant_leased y d b).trans (ih _)
theorem Leased.lay {y z : Die} (h : Leased y z) (j : SlotId) : z.layOf j = y.layOf j := by rw [h.rest]; rfl
theorem Leased.mem {y z : Die} (h : Leased y z) : z.mem = y.mem := by rw [h.rest]
theorem Leased.opn {y z : Die} (h : Leased y z) (j : SlotId) : (z.slot j).ctl.opn = (y.slot j).ctl.opn := by rw [h.slots j]
theorem Leased.flt {y z : Die} (h : Leased y z) (j : SlotId) : (z.slot j).flt = (y.slot j).flt := by rw [h.slots j]
theorem Leased.ccnt {y z : Die} (h : Leased y z) (j : SlotId) : (z.slot j).ctl.ccnt = (y.slot j).ctl.ccnt := by rw [h.slots j]

theorem layOf_modLay (y : Die) (a j : SlotId) (f : Lay → Lay) : (y.modLay a f).layOf j = if j = a then f (y.layOf j) else y.layOf j := by
  unfold Die.layOf Die.modLay
  by_cases h : a = j
  · subst h; rw [vget_vmod_same, if_pos rfl]
  · rw [vget_vmod_ne _ h, if_neg (Ne.symm h)]
/-- A fragment placed changes the layout alone. -/
theorem putFrag_rest (y : Die) (sh : Fin 6) (b : SlotId) (m : Semi) (w : Tag) : y.putFrag sh b m w = { y with lay := (y.putFrag sh b m w).lay } := by
  unfold Die.putFrag
  refine List.foldlRecOn _ _ (motive := fun z : Die => z = { y with lay := z.lay }) rfl fun z hz j _ => ?_
  rw [hz]; rfl
theorem drainApply_rest (y : Die) (bs : List SlotId) (q : DrainReq) : y.drainApply bs q = { y with lay := (y.drainApply bs q).lay } := by
  cases q with
  | split a =>
    refine List.foldlRecOn _ _ (motive := fun z : Die => z = { y with lay := z.lay }) rfl fun z hz j _ => ?_
    rw [putFrag_rest, hz]
  | fuse a => exact putFrag_rest _ _ _ _ _
  | chain a b =>
    unfold Die.drainApply
    dsimp only
    split <;> rfl
  | unchain a => rfl
/-- Every slot of a placed fragment takes the new byte, and no other slot. -/
theorem putFrag_layOf (y : Die) (sh : Fin 6) (b : SlotId) (m : Semi) (w : Tag) (j : SlotId) :
    (y.putFrag sh b m w).layOf j = if j ∈ (placement sh b).getD [] then ⟨true, sh, b, m, w, none, []⟩ else y.layOf j := by
  unfold Die.putFrag
  induction (placement sh b).getD [] generalizing y with
  | nil => rfl
  | cons a l ih =>
    rw [List.foldl_cons, ih, layOf_modLay]
    by_cases h : j = a <;> by_cases g : j ∈ l <;> simp [h, g]
/-- Two fragments of one shape share no slot but where they are the same (R42). -/
theorem placement_disjoint : ∀ (sh : Fin 6) (b c : SlotId), c ∈ (placement sh b).getD [] → (placement sh c).isSome = true → b = c := by decide
theorem placement_base : ∀ (sh : Fin 6) (c : SlotId), (placement sh c).isSome = true → c ∈ (placement sh c).getD [] := by decide
/-- After a split a fragment of the child shape stands on each child's base. -/
theorem foldl_putFrag (sh : Fin 6) (m : Semi) (w : Tag) (c : SlotId) (hc : (placement sh c).isSome = true) (l : List SlotId) (y : Die) :
    (c ∈ l ∨ ((y.layOf c).shape = sh ∧ (y.layOf c).base = c)) → (((l.foldl (fun y b => y.putFrag sh b m w) y).layOf c).shape = sh ∧ ((l.foldl (fun y b => y.putFrag sh b m w) y).layOf c).base = c) := by
  induction l generalizing y with
  | nil => rintro (h | h) <;> [cases h; exact h]
  | cons b l ih =>
    intro h
    refine ih _ ?_
    by_cases hb : b = c
    · subst hb
      rw [putFrag_layOf, if_pos (placement_base sh b hc)]
      exact .inr ⟨rfl, rfl⟩
    · rw [putFrag_layOf, if_neg fun g => hb (placement_disjoint sh b c g hc)]
      rcases h with h | h
      · exact .inl ((List.mem_cons.1 h).resolve_left (Ne.symm hb))
      · exact .inr h
theorem childBases_placed {sh : Fin 6} {ps : List SlotId} {c : SlotId} (h : c ∈ childBases sh ps) : (placement sh c).isSome = true := by
  have := (List.mem_filter.1 h).2
  cases hp : placement sh c with
  | none => rw [hp] at this; cases this
  | some l => rfl
theorem setPsn_ccnt (t : Slot) (q : Fin 4) (p : Bool) : (t.setPsn q p).ctl.ccnt = t.ctl.ccnt := by cases p <;> rfl
theorem commitPops_ccnt (t : Slot) (o : Open) : (commitPops t o).ctl.ccnt = t.ctl.ccnt := by
  unfold commitPops
  refine List.foldlRecOn (List.finRange 4) _ (motive := fun u : Slot => u.ctl.ccnt = t.ctl.ccnt) rfl fun u hu q _ => ?_
  exact (setPsn_ccnt _ _ _).trans hu
/-- A chain names two fragments of its block (R377). -/
theorem drainCheck_chain {y : Die} {bs : List SlotId} {a b : Word} {aff : List SlotId} (h : y.drainCheck bs (.chain a b) = .ok aff) : bs.isEmpty = false := by
  cases bs with
  | cons _ _ => rfl
  | nil =>
    unfold Die.drainCheck at h
    dsimp only at h
    split at h
    · cases h
    · rw [if_pos (by simp [Die.blkFrags])] at h
      cases h

/-- The state in which a drain event has taken its fourth step. -/
def drainTaken (s : State) (d : DieId) (k : SlotId) (o : Open) (q : DrainReq) : State :=
  ((s.modDie d fun y => y.drainApply (((s.die d).ownBlk k).elim [] (·.slots)) q).setOpn d k { o with phase := .ready, aff := [] }).modDie d fun y =>
    (o.aff.map y.baseOf).foldl (fun y b => y.regrant d b) y

section Drain
variable {s : State} {d : DieId} {k : SlotId} {b : Open} {q : DrainReq} {n : Nat} (ho : (s.ctl d k).opn = some b) (hph : b.phase = .draining) (hdr : b.drain = some (q, n))
  (hf : (s.slot d k).heldBy 0 = false) (hst : vget (s.slot d k).stop 0 = false)
include ho hph hdr hf hst
theorem drainEvent_fails {u : Nat} (h : (s.die d).drainCheck (((s.die d).ownBlk k).elim [] (·.slots)) q = .error u) :
    exec (.drainEvent d k) s = .next (drainFail s d k b 12 (b.at_ n) 0 u) := by
  show execDrainEvent d k s = _
  unfold execDrainEvent
  simp only [ho, hph, hdr, hf, hst, h, Bool.or_self, Bool.false_eq_true, if_false]
theorem drainEvent_takes {r : Ready} (h : (s.die d).drainCheck (((s.die d).ownBlk k).elim [] (·.slots)) q = .ok b.aff) (hs : (s.die d).drainStuck b.aff = false)
    (hd : (s.die d).drainDone b.aff = true) (hp : preCommit s d k b = .ok s r) : exec (.drainEvent d k) s = .next (commitFinish (drainTaken s d k b q) d k b r) := by
  show execDrainEvent d k s = _
  unfold execDrainEvent
  simp only [ho, hph, hdr, hf, hst, h, hs, hd, hp, Bool.or_self, bne_self_eq_false, Bool.not_true, Bool.false_eq_true, if_false]
  rw [drainTaken, hdr]
end Drain

theorem drainTaken_die (s : State) (d : DieId) (k : SlotId) (o : Open) (q : DrainReq) :
    ∃ y, Leased y ((drainTaken s d k o q).die d) ∧ y = ((s.die d).drainApply (((s.die d).ownBlk k).elim [] (·.slots)) q).modSlot k fun t => t.modCtl fun c => { c with opn := some { o with phase := .ready, aff := [] } } := by
  refine ⟨_, ?_, rfl⟩
  unfold drainTaken
  rw [State.die_modDie_same, State.setOpn, State.modCtl, State.die_modSlot_same, State.die_modDie_same]
  exact foldl_leased _ _ _
theorem drainTaken_layOf (s : State) (d : DieId) (k : SlotId) (o : Open) (q : DrainReq) (j : SlotId) :
    ((drainTaken s d k o q).die d).layOf j = ((s.die d).drainApply (((s.die d).ownBlk k).elim [] (·.slots)) q).layOf j := by
  obtain ⟨y, hy, rfl⟩ := drainTaken_die s d k o q
  rw [hy.lay]; rfl
theorem drainTaken_ccnt (s : State) (d : DieId) (k : SlotId) (o : Open) (q : DrainReq) : ((drainTaken s d k o q).ctl d k).ccnt = (s.ctl d k).ccnt := by
  obtain ⟨y, hy, rfl⟩ := drainTaken_die s d k o q
  rw [State.ctl, State.slot, hy.ccnt, Die.slot_modSlot_same, drainApply_rest]; rfl
theorem drainTaken_mem (s : State) (d : DieId) (k : SlotId) (o : Open) (q : DrainReq) : SameMem s (drainTaken s d k o q) := by
  intro e a
  by_cases he : d = e
  · subst he
    obtain ⟨y, hy, rfl⟩ := drainTaken_die s d k o q
    rw [hy.mem, drainApply_rest]; rfl
  · unfold drainTaken
    rw [State.die_modDie_ne _ he, State.setOpn, State.modCtl, State.die_modSlot_ne _ he, State.die_modDie_ne _ he]

/-- Settles O16: the checks of a commit are `allChecks`; a drain event takes `drainTaken` and commits, or fails. -/
theorem commitChecksAndDrainEvents : Obligations.CommitChecksAndDrainEvents := by
  refine ⟨fun s d k b ho hph hrd hf hst hr => ?_, fun s d k b r q n ho hph hdr hf hst hc hs hd hp hops htr hsu hrs => ?_, fun s d k b q n u ho hph hdr hf hst hc => ?_⟩
  · intro faults plain names lower
    have faulted {c n : Nat} {w x : Word} (h : allChecks s d k b = .fault s c w x n) : faults c n := by
      show ∃ t, exec (.blockCommit d k) s = .next t ∧ _
      rw [commit_faults ho hph hrd hf hst h]
      exact blockFault_leaves hf hr
    have named {u : State} {c n : Nat} {w x : Word} (hu : SameFlt s d k u) (h : allChecks s d k b = .fault u c w x n) : names c w := by
      show ∃ t, exec (.blockCommit d k) s = .next t ∧ _
      rw [commit_faults ho hph hrd hf hst h]
      exact blockFault_names hf hu
    have both {u : State} {c c' n n' : Nat} {w w' x x' : Word} (hu : SameFlt s d k u) (hp : preCommit s d k b = .fault u c' w' x' n')
        (h : allChecks s d k b = (Pre.fault s c w x n).and b.hdr fun s => preCommit s d k b) : lower c w c' w' := by
      simp only [Pre.and, hp] at h
      show if (w' - b.hdr).toNat < (w - b.hdr).toNat then names c' w' else names c w
      split
      · rename_i hlt
        rw [if_pos hlt] at h
        exact named hu h
      · rename_i hlt
        rw [if_neg hlt] at h
        exact named hu h
    refine ⟨fun n ⟨h1, h2, h3, h4, h5⟩ hb h0 => faulted (w := b.at_ n) (x := 0) ?_, fun u c w x v hp => ?_, fun u hp hb hl => commit_waits ho hph hrd hf hst ?_, fun u r hp hb hl hq => commit_holds (r := r) (l := true) ho hph hrd hf hst ?_ (.inr hq),
      fun ⟨h1, h2, h3, h4, h5⟩ hb h0 => ?_⟩
    · rw [allChecks_bad hb (leaseCheck_zero h0)]
      simp only [Pre.and, preCommit_plain h1 h2 h3 h4 h5]
    · have hu : SameFlt s d k u := by
        have := preCommit_flt (s := s) (d := d) (k := k) (o := b)
        rwa [hp] at this
      refine ⟨fun hb h0 => named (x := x) (n := v) hu ?_, fun n hb h0 => both hu hp (allChecks_bad hb (leaseCheck_zero h0)), fun z hb hl => both hu hp (allChecks_lease hb hl)⟩
      rw [allChecks_good hb (leaseCheck_zero h0)]
      simp only [Pre.and, hp]
    · rw [allChecks_good hb hl]
      simp only [Pre.and, hp]
    · rw [allChecks_good hb hl]
      simp only [Pre.and, hp]
    · have hpl := preCommit_plain (s := s) (d := d) (k := k) h1 h2 h3 h4 h5
      have lease {z : Nat} (hl : (s.die d).leaseCheck d k (vget b.npush 3) = some (some z)) : faults 6 z := by
        refine faulted (w := BitVec.ofNat 64 (firstMxe b.ops)) (x := 0) ?_
        rw [allChecks_lease hb hl]
        simp only [Pre.and, hpl]
      intro c
      have hchk : (s.die d).leaseCheck d k (vget b.npush 3) =
          if !c.mheld && !c.mreq then some (some 1) else if c.mheld && decide (c.mleft < vget b.npush 3) then some (some 2)
          else if (s.die d).budget d < vget b.npush 3 then some (some 3) else if c.mheld then none else some none := by
        unfold Die.leaseCheck
        rw [if_neg h0]; rfl
      refine ⟨fun a1 a2 => lease ?_, fun a1 a2 => lease ?_, fun a1 a2 a3 => lease ?_, fun a1 a2 a3 => ?_⟩
      · rw [hchk]; simp [a1, a2]
      · rw [hchk]; simp [a1, a2]
      · rw [hchk]; simp [a1, a2, a3]
      · have hl : (s.die d).leaseCheck d k (vget b.npush 3) = some none := by rw [hchk]; simp [a1, a2]; omega
        refine commit_holds (r := ⟨none, [], b.nextAddr, [], []⟩) (l := false) ho hph hrd hf hst ?_ (.inl rfl)
        rw [allChecks_asked hb hl]
        simp only [Pre.and, hpl]
  · have hops' : opsApplied (drainTaken s d k b q) d k b = drainTaken s d k b q := by rw [opsApplied, hops]; rfl
    have hlay (j : SlotId) : (((drainTaken s d k b q).modSlot d k fun t => (commitPops t b).modCtl (Ctl.committed b b.regs id r.fall ((drainTaken s d k b q).ctl d k).tent)).die d).layOf j =
        ((s.die d).drainApply (((s.die d).ownBlk k).elim [] (·.slots)) q).layOf j := by
      rw [State.die_modSlot_same, ← drainTaken_layOf]; rfl
    refine ⟨_, (drainEvent_takes ho hph hdr hf hst hc hs hd hp).trans (congrArg _ (commitFinish_goes htr hrs (.inl ⟨hsu, rfl⟩))), ?_, ?_, ?_, ?_, ?_⟩
    · rw [State.ctl, State.slot_modSlot_same]; rfl
    · rw [State.ctl, State.slot_modSlot_same]; rfl
    · rw [hops', State.ctl, State.slot_modSlot_same]
      exact congrArg (· + 1) ((commitPops_ccnt _ _).trans (drainTaken_ccnt _ _ _ _ _))
    · rw [hops']
      exact (drainTaken_mem _ _ _ _ _).trans (sameMem_modDie _ _ _ rfl)
    · rw [hops']
      refine ⟨fun x y hq j => ?_, fun x hq j => ?_, fun x hq c hcb => ?_, fun x hq ps hps j hj => ?_⟩
      · subst hq
        rw [hlay, Die.drainApply, drainCheck_chain hc, if_neg (by decide), layOf_modLay]
      · subst hq
        rw [hlay, Die.drainApply, layOf_modLay]
      · subst hq
        rw [hlay]
        exact foldl_putFrag _ _ _ c (childBases_placed hcb) _ _ (.inl hcb)
      · subst hq
        rw [hlay, Die.drainApply, putFrag_layOf, hps, if_pos (by exact hj)]
        exact ⟨rfl, rfl⟩
  · have hfail := drainEvent_fails ho hph hdr hf hst hc
    have hl : Leased ((blockFault s d k b 12 (b.at_ n) 0 u).die d) ((drainFail s d k b 12 (b.at_ n) 0 u).die d) := by
      rw [drainFail, State.die_modDie_same]
      exact foldl_leased _ _ _
    have hflt := takeFault_flt (f := ⟨12, b.hdr, b.at_ n, 0, (s.ctl d k).ccnt, u, 0⟩) hf
    refine ⟨⟨_, hfail, _, (congrArg (vget · 0) (hl.flt k)).trans hflt, rfl, rfl, rfl⟩, _, hfail, ?_, ?_, fun j => ?_⟩
    · rw [State.ctl, State.slot, hl.opn]
      exact takeFault_opn
    · exact (takeFault_sameMem _ _ _ _ _).trans (sameMem_modDie _ _ _ (foldl_leased _ _ _).mem)
    · rw [hl.lay]
      exact congrArg (vget · j) (takeFault_lay _ _ _ _ _)

end Sys2Proof.Proofs
end

section
/-! SUPPORT. Control core: the events of an open block (R33, R189 to R195). -/

namespace Sys2Proof.Proofs

open Sys2Proof Sys2Proof.Machine Sys2Proof.Laws

section Block
variable {s : State} {d : DieId} {k : SlotId} {b : Open}

theorem slot_modCtl_same (s : State) (d : DieId) (k : SlotId) (f : Ctl → Ctl) : (s.modCtl d k f).slot d k = (s.slot d k).modCtl f := State.slot_modSlot_same _ _ _ _
theorem sameMem_modSlot (s : State) (d : DieId) (k : SlotId) (f : Slot → Slot) : SameMem s (s.modSlot d k f) := sameMem_modDie s d _ rfl
/-- A wait whose condition holds, of a block with no bad word, ends; the body goes on. -/
theorem blockWaitMet_goes {w : WaitC} (ho : (s.ctl d k).opn = some b) (hph : b.phase = .body) (hw : b.wait = some w) (hbad : b.bad = none) (hf : (s.slot d k).heldBy 0 = false)
    (hst : vget (s.slot d k).stop 0 = false) (hn : ∀ lid, w ≠ .wpv lid) (hm : waitMet (s.die d) d k w = true) :
    execBlockWaitMet d k s = .next ((waitTake s d k b w).1.setOpn d k ({ (waitTake s d k b w).2 with wait := none }.adv 2 b.waitNa)) := by
  unfold execBlockWaitMet
  simp only [ho, hw, hph, hf, hst, hbad, if_pos hm]
  cases w with
  | wpv lid => exact absurd rfl (hn lid)
  | twait m => rfl
  | sem i v => rfl
  | wtb sc c => rfl
  | rfence => rfl
  | fence kd sc ps => rfl

end Block

/-! ## Records of a strand (R314) -/

theorem find?_map_mod {α : Type} (l : List α) (p : α → Bool) (f : α → α) (h : ∀ a, p (f a) = p a) : (l.map fun a => if p a then f a else a).find? p = (l.find? p).map f := by
  induction l with
  | nil => rfl
  | cons a l ih =>
    cases e : p a with
    | true => simp [e, h]
    | false => simp [e, ih]
theorem launch_modBlk (c : Sched) (lid n : Nat) (f : Blk → Blk) : (c.modBlk lid n f).launch lid = (c.launch lid).map (·.modBlk n f) :=
  find?_map_mod c.launches (fun l => l.id == lid) (·.modBlk n f) fun _ => rfl
theorem blk_modBlk (l : Launch) (n : Nat) (f : Blk → Blk) (h : ∀ b, (f b).l = b.l) : (l.modBlk n f).blk n = (l.blk n).map f :=
  find?_map_mod l.blks (fun b => b.l == n) f fun b => by rw [h b]
/-- The block of a slot's strand, after a change of that block. -/
theorem ownBlk_modBlk {y : Die} {k : SlotId} {o : Owner} {b : Blk} (f : Blk → Blk) (hf : ∀ b, (f b).l = b.l) (ho : (y.slot k).ctl.own = some o) (hb : y.ownBlk k = some b) :
    Die.ownBlk { y with sched := y.sched.modBlk o.lid o.blk f } k = some (f b) := by
  unfold Die.ownBlk at hb ⊢
  change (match (y.slot k).ctl.own with
    | some o' => (match (y.sched.modBlk o.lid o.blk f).launch o'.lid with | some l => l.blk o'.blk | none => none)
    | none => none) = _
  rw [ho] at hb ⊢
  dsimp only at hb ⊢
  rw [launch_modBlk]
  cases hl : y.sched.launch o.lid with
  | none => simp [hl] at hb
  | some l =>
    rw [hl] at hb
    exact (blk_modBlk l o.blk f hf).trans (congrArg (Option.map f) hb)

theorem modSlot_congr {s : State} {d : DieId} {k : SlotId} {f g : Slot → Slot} (h : f (s.slot d k) = g (s.slot d k)) : s.modSlot d k f = s.modSlot d k g := by
  have e : (s.die d).modSlot k f = (s.die d).modSlot k g := by
    unfold Die.modSlot vmod
    exact congrArg (fun t => { s.die d with slots := vset (s.die d).slots k t }) h
  unfold State.modSlot State.modDie vmod
  exact congrArg (fun y => { s with dies := vset s.dies d y }) e
/-- The oldest arrival of a strand, of scope .c or .d, whose release has been made, is counted. -/
theorem arrivalRecord_counts {s : State} {d : DieId} {k : SlotId} {sc : BitVec 2} {n : Vector W32 6} {rest : List (BitVec 2 × Nat × Vector W32 6)} {o : Owner} (hsc : sc = 1 ∨ sc = 2)
    (ha : (s.ctl d k).arvs = (sc, 0, n) :: rest) (hd : (s.slot d k).doneUpTo n = true) (ho : (s.ctl d k).own = some o) :
    execArrivalRecord d k sc s = .next ((s.modCtl d k fun c => { c with arvs := rest }).modSched d fun q => q.modBlk o.lid o.blk fun b => b.modRec o.sidx fun r =>
      if sc = 0 then { r with arvS := r.arvS + 1 } else if sc = 3 then { r with arvE := r.arvE + 1 } else if sc = 1 then { r with arvC := r.arvC + 1 } else { r with arvD := r.arvD + 1 }) := by
  have hr : relMet (s.die d) k sc.toNat n [] = true := by
    have : ((s.die d).slot k).doneUpTo n = true := hd
    rcases hsc with rfl | rfl <;> simp [relMet, this]
  have he : s.modCtl d k (fun c => { c with arvs := c.arvs.erase (sc, 0, n) }) = s.modCtl d k fun c => { c with arvs := rest } := by
    refine modSlot_congr (congrArg (fun l => { s.slot d k with ctl := { s.ctl d k with arvs := l } }) ?_)
    exact (congrArg (fun l => List.erase l _) ha).trans (List.erase_cons_head _ _)
  unfold execArrivalRecord
  simp only [ha, ho]
  rw [List.find?_cons_of_pos (by rcases hsc with rfl | rfl <;> simpa using hr)]
  exact congrArg (fun u => Host.Outcome.next (State.modSched u d _)) he

/-- Settles O17: each event of an open block, by its own cases. -/
theorem blockEvents : Obligations.BlockEvents := by
  refine fun s d k => ⟨?_, fun b m ho hph hw hbad hf hst hm => ?_, fun b i v ho hph hw hbad hf hst ha hx => ?_, fun q tag rest v rs hr hq => ?_,
    fun sc n rest o b x hsc ha hd ho hb hx => ?_⟩
  · have hs : withoutTlb (((s.die d).countSlot d k 7 (s.ctl d k).tent.length).slot k) = withoutTlb ((s.die d).slot k) := countSlot_slot _ _ _ _ _ _
    have e : (s.modDie d fun y => y.countSlot d k 7 (s.ctl d k).tent.length).slot d k = ((s.die d).countSlot d k 7 (s.ctl d k).tent.length).slot k := by
      rw [State.slot, State.die_modDie_same]
    refine ⟨_, exec_runAheadMispredict d k s, ?_, ?_, ?_, ?_, SameMem.trans (sameMem_modDie s d (fun y => y.countSlot d k 7 (s.ctl d k).tent.length) (Die.countSlot_mem _ _ _ _ _)) (sameMem_modSlot _ d k _)⟩
    · rw [State.ctl_modCtl_same]
    · rw [State.ctl_modCtl_same, State.ctl, e]
      have h := congrArg (fun t : Slot => t.ctl.regs) hs
      exact h
    · rw [State.ctl_modCtl_same, State.ctl, e]
      have h := congrArg (fun t : Slot => t.ctl.opn) hs
      exact h
    · rw [slot_modCtl_same, e]
      have h := congrArg Slot.q hs
      exact h
  · exact (exec_blockWaitMet d k s).trans (blockWaitMet_goes ho hph hw hbad hf hst (fun _ => WaitC.noConfusion) ((hasToks_iff _ _).2 hm))
  · exact (exec_blockWaitMet d k s).trans (blockWaitMet_goes ho hph hw hbad hf hst (fun _ => WaitC.noConfusion) (semMet_iff.2 ⟨ha, hx⟩))
  · have he : execPopFill d k q s = .next (s.modSlot d k fun t => { t with rq := vset t.rq (qidx q) rs, resv := vset t.resv (qidx q) rest }.fillTag tag v) := by
      unfold execPopFill
      simp only [hr, hq]
      rfl
    refine ⟨_, (exec_popFill d k q s).trans he, ?_, ?_, sameMem_modDie _ _ _ rfl, fun i => ?_⟩
    · simp [Slot.fillTag, Slot.modCtl]
    · simp [Slot.fillTag, Slot.modCtl]
    · simp only [State.ctl, State.slot_modSlot_same]
      exact vget_fillRegs _ _ _ _
  · let u := s.modCtl d k fun c => { c with arvs := rest }
    have ho' : ((u.die d).slot k).ctl.own = some o := by
      change (u.slot d k).ctl.own = some o
      exact (congrArg Ctl.own (State.ctl_modCtl_same s d k _)).trans ho
    have hb' : (u.die d).ownBlk k = some b := by
      unfold Die.ownBlk at hb ⊢
      rw [ho', show (u.die d).sched = (s.die d).sched by simp [u, State.modCtl, State.modSlot, Die.modSlot]]
      rwa [show ((s.die d).slot k).ctl.own = some o from ho] at hb
    refine ⟨_, (exec_arrivalRecord d k sc s).trans (arrivalRecord_counts hsc ha hd ho), ?_, SameMem.trans (sameMem_modSlot _ _ _ _) (sameMem_modDie u d _ rfl), ?_⟩
    · rw [State.ctl, modSched_slot, slot_modCtl_same]
      rfl
    · rw [State.modSched, State.die_modDie_same]
      refine ⟨_, _, ownBlk_modBlk _ (fun _ => rfl) ho' hb', (List.getElem?_modify ..).trans (by simp only [if_true, hx]; rfl), ?_⟩
      rcases hsc with rfl | rfl <;> exact ⟨rfl, rfl⟩

end Sys2Proof.Proofs
end

section
/-! SUPPORT. Between dies: links (R10, R12, R404). -/

namespace Sys2Proof.Proofs

open Sys2Proof Sys2Proof.Machine Sys2Proof.Laws

theorem vmod_vset_ne {α : Type} {n : Nat} (v : Vector α n) {i j : Fin n} (h : i ≠ j) (a : α) (f : α → α) : vmod (vset v i a) j f = vset (vset v i a) j (f (vget v j)) := by
  rw [vmod, vget_vset_ne _ h]

/-- An ordinary message of a die that is not lost joins the arrival queue of its source. -/
theorem arrive_queues {s : State} {e src : DieId} {m : Msg} (hl : m ≠ .linkLost) (hf : m ≠ .schedFail) (hr : (s.die e).inReset = false) (h : (s.die e).isLost e src = false) :
    s.arrive e src m = s.modDie e fun y => { y with gate := { y.gate with arr := vmod y.gate.arr src (· ++ [m]) } } := by
  unfold State.arrive
  rw [if_neg (by simp [hr, h])]
  split
  · exact absurd rfl hl
  · exact absurd rfl hf
  · rfl

section Forward
variable {s : State} {l : DieId} {x : Hop} {rest : List Hop}

/-- The die that the head of a directed link reaches next, the link after it, and the link without its head. -/
def nextDie (l : DieId) (east : Bool) : DieId := if east then mkDie (l.val + 1) else l
def nextLink (l : DieId) (east : Bool) : DieId := if east then mkDie (l.val + 1) else mkDie (l.val + 3)
def linkAt (s : State) (l : DieId) (east : Bool) : List Hop := if east then vget s.east l else vget s.west l
def setLink (s : State) (l : DieId) (east : Bool) (r : List Hop) : State := if east then { s with east := vset s.east l r } else { s with west := vset s.west l r }

variable {east : Bool} (hq : linkAt s l east = x :: rest) (hg : (s.die (nextDie l east)).gated = false)
include hq hg

theorem linkForward_on (hd : x.dst ≠ nextDie l east) : execLinkForward l east s = .next ((setLink s l east rest).put (nextLink l east) east x) := by
  have hn : (x.dst == nextDie l east) = false := beq_false_of_ne hd
  unfold execLinkForward
  unfold linkAt at hq
  unfold nextDie at hg hn
  simp only [hq, hg, hn]
  cases east <;> rfl
theorem linkForward_here (hd : x.dst = nextDie l east) (hr : x.m.isRejoin = false) :
    execLinkForward l east s = .next (if x.m == .linkLost && nextDie l east != mkDie (x.src.val + 2) then
      ((setLink s l east rest).arrive (nextDie l east) x.src x.m).put (nextLink l east) east ⟨x.src, mkDie (x.src.val + 2), .linkLost⟩
      else (setLink s l east rest).arrive (nextDie l east) x.src x.m) := by
  have hn : (x.dst == nextDie l east) = true := beq_iff_eq.2 hd
  unfold execLinkForward
  unfold linkAt at hq
  unfold nextDie at hg hn
  simp only [hq, hg, hn, hr]
  cases east <;> rfl
theorem linkForward_delivers (hd : x.dst = nextDie l east) (hr : x.m.isRejoin = false) (hl : x.m ≠ .linkLost) (hf : x.m ≠ .schedFail) (hi : (s.die (nextDie l east)).inReset = false)
    (hn : (s.die (nextDie l east)).isLost (nextDie l east) x.src = false) :
    execLinkForward l east s = .next ((setLink s l east rest).modDie (nextDie l east) fun y => { y with gate := { y.gate with arr := vmod y.gate.arr x.src (· ++ [x.m]) } }) := by
  have hs : (setLink s l east rest).die = s.die := by cases east <;> rfl
  rw [linkForward_here hq hg hd hr, if_neg (by simp [beq_false_of_ne hl]), arrive_queues hl hf (by rwa [hs]) (by rwa [hs])]

end Forward

theorem next_ne (l : DieId) (n : Nat) (h : n % 4 ≠ 0) : l ≠ mkDie (l.val + n) := by
  refine fun e => h ?_
  have := congrArg Fin.val e
  simp only [mkDie] at this
  omega

/-- Settles O18: a message goes out on its link, reaches the next die in order, and is delivered or forwarded. -/
theorem linksDeliverInOrder : Obligations.LinksDeliverInOrder := by
  refine ⟨fun s d h m hne hl => ⟨fun hh => ?_, fun hh => ?_⟩, fun s l x rest hq => ?_, fun s l x rest hq => ?_, fun s d h => exec_beat d h s⟩
  · rw [State.send, if_neg (by simp [hl, hne]), if_neg (by simp only [beq_iff_eq]; omega)]
    rfl
  · rw [State.send, if_neg (by simp [hl, hne]), if_pos (by simpa using hh)]
    rfl
  · intro n s' hg
    refine ⟨fun hd hr hll hf hi hn => (exec_linkForward l true s).trans (linkForward_delivers (east := true) hq hg hd hr hll hf hi hn),
      fun hd => (exec_linkForward l true s).trans ((linkForward_on (east := true) hq hg hd).trans ?_), fun hd hm hs => ?_⟩
    · exact congrArg (fun v => Host.Outcome.next { s with east := v }) (vmod_vset_ne s.east (next_ne l 1 (by decide)) rest (· ++ [x]))
    · refine ⟨_, (exec_linkForward l true s).trans (linkForward_here (east := true) hq hg hd (by rw [hm]; rfl)), ?_⟩
      have hn : nextDie l true ≠ mkDie (x.src.val + 2) := by
        rw [hs]
        refine fun e => ?_
        have := congrArg Fin.val e
        simp only [nextDie, mkDie, if_true] at this
        omega
      rw [if_pos (by simpa [hm] using hn), hs]
      simp [State.put, nextLink, n]
  · intro s' hg
    refine ⟨fun hd hr hll hf hi hn => (exec_linkForward l false s).trans (linkForward_delivers (east := false) hq hg hd hr hll hf hi hn),
      fun hd => (exec_linkForward l false s).trans ((linkForward_on (east := false) hq hg hd).trans ?_)⟩
    exact congrArg (fun v => Host.Outcome.next { s with west := v }) (vmod_vset_ne s.west (next_ne l 3 (by decide)) rest (· ++ [x]))

end Sys2Proof.Proofs
end

section
/-! SUPPORT. Between dies: requests, replies, beats and invalidations at the head of their queue (R111 to R113, R120, R121). -/

namespace Sys2Proof.Proofs

open Sys2Proof Sys2Proof.Machine Sys2Proof.Laws

/-- A change of a die's gate alone. -/
def modGate (s : State) (h : DieId) (f : Gate → Gate) : State := s.modDie h fun y => { y with gate := f y.gate }
theorem modGate_die (s : State) (h : DieId) (f : Gate → Gate) : (modGate s h f).die h = { s.die h with gate := f (s.die h).gate } := State.die_modDie_same _ _ _
theorem modGate_die_ne (s : State) {h e : DieId} (he : h ≠ e) (f : Gate → Gate) : (modGate s h f).die e = s.die e := State.die_modDie_ne _ he _
theorem modDie_congr {s : State} {h : DieId} {f g : Die → Die} (e : f (s.die h) = g (s.die h)) : s.modDie h f = s.modDie h g := by
  unfold State.modDie vmod
  exact congrArg (fun y => { s with dies := vset s.dies h y }) e
theorem modGate_congr {s : State} {h : DieId} {f g : Gate → Gate} (e : f (s.die h).gate = g (s.die h).gate) : modGate s h f = modGate s h g :=
  modDie_congr (congrArg (fun x => { s.die h with gate := x }) e)
theorem modGate_sameMem (s : State) (h : DieId) (f : Gate → Gate) : SameMem s (modGate s h f) := sameMem_modDie _ _ _ rfl

section Gate
variable {g : Gate} {dn d : DieId} {n : Nat} {st : Vector Nat 4}

theorem raise_g : vget (g.raise d n).g d = max n (vget g.g d) := vget_vmod_same _ _ _
theorem raise_g_ne {k : DieId} (h : k ≠ d) : vget (g.raise d n).g k = vget g.g k := vget_vmod_ne _ (Ne.symm h) _
theorem respond_eq (h : vget g.refd d = []) : g.respond d n = g.raise d n := by
  rw [Gate.respond, h]
  rfl
/-- A request done with nothing of its source refused and no count owed: count and merged stamp. -/
theorem done_eq (h : vget g.refd d = []) (ho : vget g.owed d = 0) : (g.done dn d n st).g = (g.raise d n).g ∧ (g.done dn d n st).arr = g.arr ∧
    ∀ k, vget (g.done dn d n st).v k = if k = dn then vget g.v k else max (vget g.v k) (vget st k) := by
  have hr (x : Gate) : (x.raise d 0).g = x.g := by
    have : max 0 = (id : Nat → Nat) := funext fun a => Nat.zero_max a
    simp only [Gate.raise, this]
    exact vmod_self _ _ _ rfl
  have hv (x : Gate) (k : DieId) : vget (Vector.ofFn fun k => if (k == dn) = true then vget x.v k else max (vget x.v k) (vget st k)) k = if k = dn then vget x.v k else max (vget x.v k) (vget st k) := by
    simp [vget]
  unfold Gate.done
  simp only [Gate.raise, h, ho]
  refine ⟨hr (g.raise d n), rfl, fun k => hv g k⟩

end Gate

section Request
variable {s : State} {h d : DieId} {m : Msg} {rest : List Msg} {a : Agent} {key n : Nat} {st : Vector Nat 4} {e : StoreErr} (hm : vget (s.die h).gate.arr d = m :: rest)
  (hreq : m.req = some (a, key, n, st)) (ht : vget (s.die h).gate.taken d = true)
include hm hreq ht

/-- A write with an entry: it is performed once its die's count stands one below its own and its stamps are reached. -/
theorem gateRequest_write (hrd : m.isRead = false) : gateRequest s h d false e =
    if (vget ((modGate s h (·.raise d (n - 1))).die h).gate.g d = n - 1 && ((modGate s h (·.raise d (n - 1))).die h).stampMet h (some d) st) = true then
      (modGate (modGate s h (·.raise d (n - 1))) h fun g => (g.done h d n st).popArr d).perform h d m e
    else modGate s h (·.raise d (n - 1)) := by
  unfold gateRequest
  simp only [hm, hreq, hrd, ht]
  rfl
/-- A read with an entry: it is answered once every stamp is reached. -/
theorem gateRequest_read (hrd : m.isRead = true) (hs : ((modGate s h (·.raise d n)).die h).stampMet h none st = true) :
    gateRequest s h d true e = modGate ((modGate s h (·.raise d n)).perform h d m e) h fun g => (g.done h d n (.replicate 4 0)).popArr d := by
  unfold gateRequest
  simp only [hm, hreq, hrd, ht]
  exact if_pos hs

end Request

theorem stampMet_iff {y : Die} {h : DieId} {src : Option DieId} {st : Vector Nat 4} : y.stampMet h src st = true ↔
    ∀ k, k = h ∨ some k = src ∨ y.isLost h k = true ∨ (vget y.gate.excused k = true ∧ some k ≠ src) ∨ vget st k ≤ vget y.gate.g k := by
  have hall (p : DieId → Bool) : allDies.all p = true ↔ ∀ k, p k = true := by
    simp [allDies, Fin.forall_fin_succ]
  rw [Die.stampMet, hall]
  simp [or_assoc]

/-- A peer's write of one piece, at an address of its export that no pin holds, is written and acknowledged. -/
theorem perform_write {s : State} {h d : DieId} {a : Agent} {key n i g off pa : Nat} {st : Vector Nat 4} {bs : List Byte} (hc : (s.die h).gate.closed = [])
    (hx : (s.die h).exportAddr h i g off bs.length 1 false = .ok pa) (hmem : isMem pa bs.length = true) (hh : (s.die h).mustHold a d none (linesOf pa bs.length) = false) :
    s.perform h d (.write a key n st [(i, g, off, bs)] false) .ok = (s.modDie h fun y => y.apply h pa bs false .ok).send h d (.ack a key) := by
  have hsh : (s.die h).gate.shut d a = none := by simp [Gate.shut, hc]
  have hall : exportAll (s.die h) h [(i, g, off, bs)] = .ok [(pa, bs)] := by
    simp [exportAll, hx, Except.map]
  unfold State.perform
  simp only [hsh, hall, State.peerWrite, State.homeWrite]
  simp [hmem, hh]
theorem apply_ok (y : Die) (h : DieId) (pa : Nat) (bs : List Byte) : y.apply h pa bs false .ok = if bs.isEmpty then y else y.poke pa bs false := by
  simp [Die.apply, Die.meet]
theorem apply_memGet {y : Die} {h : DieId} {pa : Nat} {bs : List Byte} (hw : memWf y.mem = true) (x : Nat) :
    memGet (y.apply h pa bs false .ok).mem x = if pa ≤ x ∧ x < pa + bs.length then bs.getD (x - pa) 0 else memGet y.mem x := by
  rw [apply_ok]
  cases bs with
  | nil => exact (if_neg (by simp)).symm
  | cons b r => exact memGet_poke y pa (b :: r) false x hw
theorem apply_gate (y : Die) (h : DieId) (pa : Nat) (bs : List Byte) : (y.apply h pa bs false .ok).gate = y.gate := by
  rw [apply_ok]
  split <;> rfl

/-- What a response does to its die's gate: the count of its source, the counts it brings, and its place in the queue (R111, R112). -/
def Gate.answered (x : Gate) (d h : DieId) (n : Nat) (g : Vector Nat 4) : Gate :=
  let t := (x.raise h n).popArr h
  { t with v := Vector.ofFn fun k => if k == d then vget t.v k else max (vget t.v k) (vget g k) }
section Reply
variable {s : State} {d h : DieId} {k : SlotId} {key n : Nat} {g : Vector Nat 4} {data : List Byte} {pa : Nat} {rest : List Msg} {p : Sent} {r : Rd} {size : Nat} {sgn : Bool}
  {own : List (Nat × Byte)} (harr : vget (s.die d).gate.arr h = .reply (.core k) key n g data false pa :: rest) (hr : vget (s.die d).gate.refd h = [])
  (hp : ((s.ag d (.core k)).pend.find? fun p => p.key == key && p.home == h) = some p) (hrd : p.rd = some r) (hk : r.kind = .scalar size sgn own)
include harr hr hp hrd hk

/-- The reply to a core's scalar load: the read leaves the pending set and its registers are filled. -/
theorem reply_scalar : execReply d h s = .next (((modGate s d fun x => Gate.answered x d h n g).modAg d (.core k) fun x => { x with pend := x.pend.erase p }).modSlot d k
    fun t => t.fillTag r.tag (loadVal size sgn own data)) := by
  have hg : modGate s d (fun x =>
      let t := (x.respond h n).popArr h
      { t with v := Vector.ofFn fun k => if k == d then vget t.v k else max (vget t.v k) (vget g k) }) = modGate s d fun x => Gate.answered x d h n g :=
    modGate_congr (by simp only [respond_eq hr, Gate.answered])
  have hp' : (((modGate s d fun x => Gate.answered x d h n g).ag d (.core k)).pend.find? fun p => p.key == key && p.home == h) = some p := by
    rw [State.ag, modGate_die]
    exact hp
  unfold modGate at hg hp' ⊢
  unfold execReply
  simp only [harr, hg, hp', hrd, hk, raiseRefusal, finishRead, Bool.false_eq_true, if_false]

end Reply

/-- Settles O19: a write passes its gate, is applied and acknowledged; a reply raises the counts and fills its registers. -/
theorem gateWritesAndReplies : Obligations.GateWritesAndReplies := by
  refine ⟨fun s h d a key n st i g off bs rest hmem hne harr ht hr ho hc hg => ?_, fun s d h k key n g data pa rest p r size sgn own harr hr hp hrd hk => ?_⟩
  · intro third
    let u := modGate s h (·.raise d (n - 1))
    have hu : u.die h = { s.die h with gate := (s.die h).gate.raise d (n - 1) } := modGate_die _ _ _
    have hu' : ((modGate s h (·.raise d (n - 1))).die h).gate = (s.die h).gate.raise d (n - 1) := congrArg Die.gate hu
    have hd : vget ((s.die h).gate.raise d (n - 1)).g d = n - 1 := raise_g.trans (by omega)
    have he := gateRequest_write (e := .ok) harr rfl ht rfl
    refine ⟨fun h3 pa hx hm hh => ?_, fun h3 hl hex => ?_⟩
    · have hs : (u.die h).stampMet h (some d) st = true := stampMet_iff.2 fun k => by
        by_cases hk : k = h
        · exact .inl hk
        by_cases hk' : k = d
        · exact .inr (.inl (congrArg some hk'))
        · refine .inr (.inr (.inr (.inr ?_)))
          rw [hu, raise_g_ne hk']
          exact h3 k hk hk'
      let v := modGate u h fun g => (g.done h d n st).popArr d
      have hv : v.die h = { s.die h with gate := (((s.die h).gate.raise d (n - 1)).done h d n st).popArr d } := (modGate_die _ _ _).trans (by rw [hu])
      obtain ⟨hdg, hda, hdv⟩ := done_eq (g := (s.die h).gate.raise d (n - 1)) (dn := h) (d := d) (n := n) (st := st) hr ho
      have hcl : (v.die h).gate.closed = [] := by
        rw [hv]
        simp only [Gate.popArr, Gate.done]
        split <;> exact hc
      have hx' : (v.die h).exportAddr h i g off bs.length 1 false = .ok pa := by rw [hv]; exact hx
      have hh' : (v.die h).mustHold a d none (linesOf pa bs.length) = false := by rw [hv]; exact hh
      have hgate : ((v.modDie h fun y => y.apply h pa bs false .ok).die h).gate = (((s.die h).gate.raise d (n - 1)).done h d n st).popArr d := by
        rw [State.die_modDie_same, apply_gate, hv]
      refine ⟨v.modDie h fun y => y.apply h pa bs false .ok, congrArg Host.Outcome.next (he.trans ((if_pos (by rw [hu', hd]; simpa using hs)).trans (perform_write hcl hx' hm hh'))),
        ?_, ?_, fun k hk => ?_, fun k hk => ?_, fun e he => ?_, rfl, rfl, fun x => ?_⟩
      · rw [hgate, Gate.popArr, vget_vmod_same, hda]
        exact congrArg (List.drop 1) harr
      · rw [hgate]
        refine (congrArg (vget · d) hdg).trans (raise_g.trans ?_)
        rw [hd]; omega
      · rw [hgate]
        exact (hdv k).trans (if_neg hk)
      · rw [hgate]
        exact (congrArg (vget · k) hdg).trans ((raise_g_ne hk).trans (raise_g_ne hk))
      · rw [State.die_modDie_ne _ (Ne.symm he), modGate_die_ne _ (Ne.symm he), modGate_die_ne _ (Ne.symm he)]
      · have hvm : memWf (v.die h).mem = true := by rw [hv]; exact hmem h
        rw [State.die_modDie_same, apply_memGet hvm, hv]
    · have hs : ¬ (u.die h).stampMet h (some d) st = true := fun hs => h3 fun k hk hk' => by
        rcases stampMet_iff.1 hs k with g | g | g | g | g
        · exact absurd g hk
        · exact absurd (Option.some.inj g) hk'
        · rw [hu] at g
          exact absurd (g.symm.trans (hl k)) (by decide)
        · rw [hu] at g
          exact absurd (g.1.symm.trans (hex k)) (by decide)
        · rwa [hu, raise_g_ne hk'] at g
      refine ⟨u, congrArg Host.Outcome.next (he.trans (if_neg (by rw [hu', hd]; simpa using hs))), ?_, ?_, modGate_sameMem _ _ _⟩
      · rw [hu]; rfl
      · rw [hu]; exact hd
  · let u := modGate s d fun x => Gate.answered x d h n g
    have hu : u.die d = { s.die d with gate := Gate.answered (s.die d).gate d h n g } := modGate_die _ _ _
    have hgate : ((((u.modAg d (.core k) fun x => { x with pend := x.pend.erase p }).modSlot d k fun t => t.fillTag r.tag (loadVal size sgn own data)).die d).gate) = Gate.answered (s.die d).gate d h n g := by
      simp [State.modAg, hu]
    have hv (j : DieId) : vget (Gate.answered (s.die d).gate d h n g).v j = if j = d then vget (s.die d).gate.v j else max (vget (s.die d).gate.v j) (vget g j) := by
      simp [Gate.answered, vget, Gate.popArr, Gate.raise]
    refine ⟨_, (exec_reply d h s).trans (reply_scalar harr hr hp hrd hk), ?_, ?_, ?_, fun j hj => ?_, ?_, ?_, fun i => ?_⟩
    · simp [State.ag, Die.ag, State.modAg, Die.modAg, Slot.fillTag, Slot.modCtl, modGate]
      rfl
    · rw [hgate]
      exact (vget_vmod_same _ _ _).trans (congrArg (List.drop 1) harr)
    · rw [hgate]
      exact raise_g
    · rw [hgate]
      exact (hv j).trans (if_neg hj)
    · rw [hgate]
      exact (hv d).trans (if_pos rfl)
    · exact ((modGate_sameMem _ _ _).trans (sameMem_modDie u d _ (Die.modAg_mem _ _ _))).trans (sameMem_modSlot _ _ _ _)
    · rw [← vget_fillRegs]
      simp [State.ctl, State.slot, State.modAg, Slot.fillTag, Slot.modCtl, modGate]
      rfl

/-- A peer's read at an address of its export is answered with the bytes of the moment and the home's counts. -/
theorem perform_read {s : State} {h d : DieId} {a : Agent} {key n i g off len pa : Nat} {st : Vector Nat 4} (hc : (s.die h).gate.closed = [])
    (hx : (s.die h).exportAddr h i g off len 0 false = .ok pa) (hmem : isMem pa len = true) :
    s.perform h d (.read a key n st i g off len) .ok =
      s.send h d (.reply a key (vget (s.die h).gate.g h) (s.die h).gate.g ((s.die h).peek pa len) ((s.die h).poisoned pa len) pa) := by
  have hsh : (s.die h).gate.shut d a = none := by simp [Gate.shut, hc]
  have hmeet : (s.modDie h fun y => y.meet h pa .ok) = s := keep_die s h
  unfold State.perform
  simp only [hsh, hx, hmem, hmeet]
  rfl
theorem send_links {s : State} {h d : DieId} {m : Msg} (hne : d ≠ h) (hl : (s.die h).isLost h d = false) :
    ((s.send h d m).east = vmod s.east h (· ++ [⟨h, d, m⟩]) ∧ (s.send h d m).west = s.west) ∨ ((s.send h d m).west = vmod s.west d (· ++ [⟨h, d, m⟩]) ∧ (s.send h d m).east = s.east) := by
  rw [State.send, if_neg (by simp [hl, Ne.symm hne])]
  split
  · exact .inr ⟨rfl, rfl⟩
  · exact .inl ⟨rfl, rfl⟩

/-- An invalidation whose count and stamps are reached drops the copies and is accounted for. -/
theorem publishInvalidation_drops {s : State} {h d : DieId} {n pa : Nat} {st : Vector Nat 4} {rest : List Msg} (harr : vget (s.die h).gate.arr d = .inval n st pa :: rest)
    (hr : vget (s.die h).gate.refd d = []) (hg : vget (s.die h).gate.g d < n) (hs : ∀ k : DieId, k ≠ h → k ≠ d → vget st k ≤ vget (s.die h).gate.g k) :
    execPublishInvalidation h d s = .next ((modGate s h (·.raise d (n - 1))).modDie h fun y => { y.dropRec d pa with gate :=
      { y.gate.raise d n with v := Vector.ofFn fun k => if k == h then vget (y.gate.raise d n).v k else max (vget (y.gate.raise d n).v k) (vget st k) }.popArr d }) := by
  let u := modGate s h (·.raise d (n - 1))
  have hu : u.die h = { s.die h with gate := (s.die h).gate.raise d (n - 1) } := modGate_die _ _ _
  have hc : vget (u.die h).gate.g d = n - 1 := by
    rw [hu]
    exact raise_g.trans (by omega)
  have hst : (u.die h).stampMet h (some d) st = true := stampMet_iff.2 fun k => by
    by_cases hk : k = h
    · exact .inl hk
    by_cases hk' : k = d
    · exact .inr (.inl (congrArg some hk'))
    · refine .inr (.inr (.inr (.inr ?_)))
      rw [hu, raise_g_ne hk']
      exact hs k hk hk'
  have hr' : vget (u.die h).gate.refd d = [] := by
    rw [hu]
    exact hr
  unfold execPublishInvalidation
  simp only [harr, hr, List.isEmpty_nil, Bool.not_true, Bool.false_eq_true, if_false]
  change (if ((u.die h).stampMet h (some d) st && (false || decide (vget (u.die h).gate.g d = n - 1))) = true then Host.Outcome.next (u.modDie h _) else _) = _
  rw [if_pos (by simp [hst, hc])]
  refine congrArg Host.Outcome.next (modDie_congr ?_)
  simp only [show ((u.die h).dropRec d pa).gate = (u.die h).gate from rfl, respond_eq hr']

/-- Settles O20: a read is answered with the home's counts, a beat and an invalidation are accounted for. -/
theorem gateReadsBeatsAndInvalidations : Obligations.GateReadsBeatsAndInvalidations := by
  refine fun s h d rest hne hr => ⟨fun a key n st i g off len pa harr ht hc ho hx hm hs => ?_, fun n harr => ?_, fun n st pa harr hg hs => ?_⟩
  · let u := modGate s h (·.raise d n)
    have hu : u.die h = { s.die h with gate := (s.die h).gate.raise d n } := modGate_die _ _ _
    have hst : (u.die h).stampMet h none st = true := stampMet_iff.2 fun k => by
      by_cases hk : k = h
      · exact .inl hk
      · refine .inr (.inr (.inr (.inr ((hs k hk).trans (le_of_eq ?_)))))
        rw [hu]
        by_cases hkd : k = d
        · rw [if_pos hkd, hkd]; exact raise_g.symm
        · rw [if_neg hkd]; exact (raise_g_ne hkd).symm
    let m : Msg := .reply a key (vget (u.die h).gate.g h) (u.die h).gate.g ((u.die h).peek pa len) ((u.die h).poisoned pa len) pa
    have he : gateRequest s h d true .ok = modGate (u.send h d m) h fun g => (g.done h d n (.replicate 4 0)).popArr d :=
      (gateRequest_read harr rfl ht rfl hst).trans (congrArg (modGate · h _) (perform_read (by rw [hu]; exact hc) (by rw [hu]; exact hx) hm))
    obtain ⟨hdg, hda, -⟩ := done_eq (g := (s.die h).gate.raise d n) (dn := h) (d := d) (n := n) (st := .replicate 4 0) hr ho
    have hgate : ((modGate (u.send h d m) h fun g => (g.done h d n (.replicate 4 0)).popArr d).die h).gate = (((s.die h).gate.raise d n).done h d n (.replicate 4 0)).popArr d := by
      rw [modGate_die, State.send_die, hu]
    refine ⟨_, congrArg Host.Outcome.next he, ?_, ?_, fun e x => ?_, fun hl => ?_⟩
    · rw [hgate, Gate.popArr, vget_vmod_same, hda]
      exact congrArg (List.drop 1) harr
    · rw [hgate]
      exact (congrArg (vget · d) hdg).trans (raise_g.trans (by rw [raise_g]; omega))
    · exact (modGate_sameMem (u.send h d m) h _ e x).trans ((congrArg (fun y : Die => memGet y.mem x) (State.send_die u h d m e)).trans (modGate_sameMem s h _ e x))
    · intro gs m'
      have hm' : (⟨h, d, m⟩ : Hop) = m' := by
        simp only [m, m', gs, hu]
        rfl
      rw [← hm']
      exact send_links (s := u) (m := m) hne (by rw [hu]; exact hl)
  · refine (exec_gateBeat h d s).trans ?_
    unfold execGateBeat
    simp only [harr]
    refine congrArg Host.Outcome.next (modDie_congr ?_)
    simp only [respond_eq hr, Gate.raise, Gate.popArr, vmod, harr]
    rfl
  · have hu : (modGate s h (·.raise d (n - 1))).die h = { s.die h with gate := (s.die h).gate.raise d (n - 1) } := modGate_die _ _ _
    refine ⟨_, (exec_publishInvalidation h d s).trans (publishInvalidation_drops harr hr hg hs), ?_, ?_, fun k hk => ?_, ?_, fun k c => ?_⟩
    · rw [State.die_modDie_same, hu]
      exact (vget_vmod_same _ _ _).trans (congrArg (List.drop 1) harr)
    · rw [State.die_modDie_same, hu]
      exact raise_g.trans (by rw [raise_g]; omega)
    · rw [State.die_modDie_same, hu]
      simp [Gate.popArr, Gate.raise, vget, hk]
    · exact (modGate_sameMem _ _ _).trans (sameMem_modDie _ _ _ rfl)
    · rw [State.slot, State.die_modDie_same, hu]
      simp [Die.slot, Die.dropRec, Slot.dropRec, vget, State.slot]
      tauto

end Sys2Proof.Proofs
end

section
/-! SUPPORT. Between dies: held writes, writes of the fabric, acknowledgements and refused requests (R103, R123, R124, R402); what an engine's fault leaves. -/

namespace Sys2Proof.Proofs

open Sys2Proof Sys2Proof.Machine Sys2Proof.Laws

/-! ## What a fault of an engine changes (R366) -/

/-- Die `z` is die `y` but for the faults its slots hold and the scheduler's state. -/
structure FltOnly (y z : Die) : Prop where
  rest : z = { y with slots := z.slots, sched := z.sched }
  slots : ∀ j, z.slot j = { y.slot j with flt := (z.slot j).flt }

theorem FltOnly.refl (y : Die) : FltOnly y y := ⟨rfl, fun _ => rfl⟩
theorem FltOnly.keep {y z : Die} {α : Type} (h : FltOnly y z) (f : Slot → α) (hf : ∀ t F, f { t with flt := F } = f t) (j : SlotId) : f (z.slot j) = f (y.slot j) := by
  rw [h.slots j]
  exact hf _ _
theorem FltOnly.trans {x y z : Die} (h : FltOnly x y) (g : FltOnly y z) : FltOnly x z where
  rest := by rw [g.rest, h.rest]
  slots j := (g.slots j).trans (congrArg (fun t : Slot => { t with flt := (z.slot j).flt }) (h.slots j))
theorem FltOnly.of_sched (y : Die) (c : Sched) : FltOnly y { y with sched := c } := ⟨rfl, fun _ => rfl⟩
theorem FltOnly.of_flt (y : Die) (k : SlotId) (f : Vector (Option PFault) 8 → Vector (Option PFault) 8) : FltOnly y (y.modSlot k fun t => { t with flt := f t.flt }) where
  rest := rfl
  slots j := by
    by_cases h : k = j
    · rw [h, Die.slot_modSlot_same]
    · rw [Die.slot_modSlot_ne _ h]
theorem FltOnly.ag {y z : Die} (h : FltOnly y z) (a : Agent) : z.ag a = y.ag a := by
  cases a with
  | core k => exact h.keep Slot.agCtl (fun _ _ => rfl) k
  | eng k e => cases e with
    | lde => exact h.keep Slot.agLde (fun _ _ => rfl) k
    | are => exact h.keep Slot.agAre (fun _ _ => rfl) k
    | ste => exact h.keep Slot.agSte (fun _ _ => rfl) k
    | mxe => exact h.keep Slot.agMxe (fun _ _ => rfl) k
  | copy c => rw [h.rest]; rfl
  | coll => rw [h.rest]; rfl
  | sys i => rw [h.rest]; rfl

section Fault
variable (s : State) (d : DieId) (k : SlotId) {a : Nat} (f : FaultAt)

theorem takeFault_fltOnly (ha : a ≠ 0) : FltOnly (s.die d) ((takeFault s d k a f).die d) := by
  have hb : (a == 0) = false := beq_false_of_ne ha
  have e (g : Vector (Option PFault) 8 → Vector (Option PFault) 8) : FltOnly (s.die d) ((s.modSlot d k fun t => { t with flt := g t.flt }).die d) := by
    rw [State.modSlot, State.die_modDie_same]
    exact FltOnly.of_flt _ k g
  let put (v : Vector (Option PFault) 8) : Vector (Option PFault) 8 :=
    vmod v (agNum a) fun p => match p with | some p => some p | none => some ⟨(s.die d).faultRec d k a f, s.openRec d k a, none⟩
  let u := s.modSlot d k fun t => { t with flt := put t.flt }
  have hu : takeFault s d k a f = match s.openRec d k a, (u.ctl d k).own with
      | some i, some o => u.modSched d fun q => q.modBlk o.lid o.blk fun b => { b with flts := b.flts.filter fun e => !(e.2.2.idx == some i) }
      | _, _ => u := by
    unfold takeFault
    simp only [hb, Bool.false_and, Bool.false_eq_true, if_false]
    rfl
  rw [hu]
  split
  · refine (e put).trans ?_
    rw [State.modSched, State.die_modDie_same]
    exact FltOnly.of_sched _ _
  · exact e put
theorem ownFault_fltOnly (o : Owner) : FltOnly (s.die d) ((ownFault s d o k f).die d) := by
  unfold ownFault
  split
  · exact takeFault_fltOnly s d k f (by decide)
  · split
    · exact FltOnly.refl _
    · rw [State.modSched, State.die_modDie_same]
      exact FltOnly.of_sched _ _
theorem raiseRefusal_fltOnly (x : Agent) : FltOnly (s.die d) ((raiseRefusal s d x).die d) := by
  cases x with
  | core k => exact FltOnly.refl _
  | sys i => exact FltOnly.refl _
  | eng k e =>
    unfold raiseRefusal
    dsimp only
    split
    · exact FltOnly.refl _
    · exact takeFault_fltOnly _ _ _ _ (show engNum e ≠ 0 by cases e <;> decide)
  | copy c =>
    unfold raiseRefusal
    dsimp only
    split
    · exact FltOnly.refl _
    · exact takeFault_fltOnly _ _ _ _ (show 5 ≠ 0 by decide)
  | coll =>
    unfold raiseRefusal
    dsimp only
    split
    · exact FltOnly.refl _
    · split
      · exact ownFault_fltOnly _ _ _ _ _
      · split
        · exact ownFault_fltOnly _ _ _ _ _
        · exact takeFault_fltOnly _ _ _ _ (by decide)
theorem raiseRefusal_sameMem (x : Agent) : SameMem s (raiseRefusal s d x) := by
  unfold raiseRefusal
  split
  · exact SameMem.refl _
  · exact SameMem.refl _
  · split
    · exact SameMem.refl _
    · dsimp only
      split
      · split
        · exact ownFault_sameMem _ _ _ _ _
        · split
          · exact ownFault_sameMem _ _ _ _ _
          · exact takeFault_sameMem _ _ _ _ _
      · exact takeFault_sameMem _ _ _ _ _

end Fault

/-! ## A range written piece by piece (R91, R116) -/

/-- A write within the range of `bs` at `pa`, of the bytes of that place. -/
def PartOf (pa : Nat) (bs : List Byte) (w : Nat × List Byte) : Prop :=
  pa ≤ w.1 ∧ w.1 + w.2.length ≤ pa + bs.length ∧ ∀ i < w.2.length, w.2.getD i 0 = bs.getD (w.1 - pa + i) 0
theorem foldl_apply_memGet {pa : Nat} {bs : List Byte} (d : DieId) (ws : List (Nat × List Byte)) (h : ∀ w ∈ ws, PartOf pa bs w) (y : Die) (hw : memWf y.mem = true) (x : Nat) :
    memGet (ws.foldl (fun y w => y.apply d w.1 w.2 false .ok) y).mem x = if ∃ w ∈ ws, w.1 ≤ x ∧ x < w.1 + w.2.length then bs.getD (x - pa) 0 else memGet y.mem x := by
  induction ws generalizing y with
  | nil => exact (if_neg (by simp)).symm
  | cons w l ih =>
    have hwf : memWf (y.apply d w.1 w.2 false .ok).mem = true := by
      rw [apply_ok]
      split
      · exact hw
      · exact memWf_poke _ _ _ _ hw
    rw [List.foldl_cons, ih (fun v hv => h v (List.mem_cons_of_mem _ hv)) _ hwf, apply_memGet hw]
    obtain ⟨h1, h2, h3⟩ := h w List.mem_cons_self
    by_cases hl : ∃ v ∈ l, v.1 ≤ x ∧ x < v.1 + v.2.length
    · obtain ⟨v, hv, hx⟩ := hl
      rw [if_pos ⟨v, hv, hx⟩, if_pos ⟨v, List.mem_cons_of_mem _ hv, hx⟩]
    · rw [if_neg hl]
      by_cases hx : w.1 ≤ x ∧ x < w.1 + w.2.length
      · rw [if_pos hx, if_pos ⟨w, List.mem_cons_self, hx⟩, h3 _ (by omega)]
        exact congrArg (bs.getD · 0) (by omega)
      · rw [if_neg hx, if_neg]
        rintro ⟨v, hv, hx'⟩
        rcases List.mem_cons.1 hv with rfl | hv
        · exact hx hx'
        · exact hl ⟨v, hv, hx'⟩

theorem mem_linesOf {a n l : Nat} : l ∈ linesOf a n ↔ 0 < n ∧ a / 128 ≤ l ∧ l ≤ (a + n - 1) / 128 := by
  unfold linesOf
  split
  · next h => simp [h]
  · next h =>
    simp only [List.mem_map, List.mem_range]
    refine ⟨?_, fun ⟨_, h1, h2⟩ => ⟨l - a / 128, by omega, by omega⟩⟩
    rintro ⟨i, hi, rfl⟩
    exact ⟨Nat.pos_of_ne_zero h, by omega, by omega⟩
theorem cutLines_within {a n : Nat} {c : Nat × Nat} (h : c ∈ cutLines a n) : a ≤ c.1 ∧ c.1 + c.2 ≤ a + n := by
  simp only [cutLines, List.mem_map, mem_linesOf] at h
  obtain ⟨l, ⟨hn, h1, h2⟩, rfl⟩ := h
  dsimp only
  omega
theorem cutLines_covers {a n x : Nat} (h1 : a ≤ x) (h2 : x < a + n) : ∃ c ∈ cutLines a n, c.1 ≤ x ∧ x < c.1 + c.2 := by
  refine ⟨(max a (128 * (x / 128)), min (a + n) (128 * (x / 128) + 128) - max a (128 * (x / 128))), List.mem_map.2 ⟨x / 128, mem_linesOf.2 ⟨by omega, by omega, by omega⟩, rfl⟩, ?_⟩
  dsimp only
  omega
theorem length_slice {α : Type} {l : List α} {a n : Nat} (h : a + n ≤ l.length) : (slice l a n).length = n := by
  simp only [slice, List.length_take, List.length_drop]
  omega
theorem slice_getD {α : Type} {l : List α} {a n i : Nat} (z : α) (hi : i < n) : (slice l a n).getD i z = l.getD (a + i) z := by
  simp [slice, List.getD_eq_getElem?_getD, hi]
/-- A range written line by line. -/
theorem cutLines_parts (pa : Nat) (bs : List Byte) : ∀ w ∈ (cutLines pa bs.length).map (fun l => (l.1, slice bs (l.1 - pa) l.2)), PartOf pa bs w := by
  simp only [List.mem_map]
  rintro w ⟨c, hc, rfl⟩
  obtain ⟨h1, h2⟩ := cutLines_within hc
  have hl : (slice bs (c.1 - pa) c.2).length = c.2 := length_slice (by omega)
  refine ⟨h1, by dsimp only; omega, fun i hi => slice_getD 0 (by dsimp only at hi; omega)⟩
theorem cutLines_apply_memGet (d : DieId) (pa : Nat) (bs : List Byte) (y : Die) (hw : memWf y.mem = true) (x : Nat) :
    memGet (((cutLines pa bs.length).map fun l => (l.1, slice bs (l.1 - pa) l.2)).foldl (fun y w => y.apply d w.1 w.2 false .ok) y).mem x =
      if pa ≤ x ∧ x < pa + bs.length then bs.getD (x - pa) 0 else memGet y.mem x := by
  rw [foldl_apply_memGet d _ (cutLines_parts pa bs) y hw]
  refine if_congr ⟨?_, fun ⟨h1, h2⟩ => ?_⟩ rfl rfl
  · rintro ⟨w, hw, hx⟩
    obtain ⟨h1, h2, -⟩ := cutLines_parts pa bs w hw
    omega
  · obtain ⟨c, hc, hx⟩ := cutLines_covers h1 h2
    obtain ⟨h3, h4⟩ := cutLines_within hc
    exact ⟨_, List.mem_map.2 ⟨c, hc, rfl⟩, by rw [length_slice (by omega)]; exact hx⟩
theorem foldl_apply_keep {α : Type} (P : Die → α) (hP : ∀ y a bs psn, P (Die.poke y a bs psn) = P y) (d : DieId) (ws : List (Nat × List Byte)) (y : Die) :
    P (ws.foldl (fun y w => y.apply d w.1 w.2 false .ok) y) = P y := by
  induction ws generalizing y with
  | nil => rfl
  | cons w l ih =>
    rw [List.foldl_cons, ih, apply_ok]
    split
    · rfl
    · exact hP _ _ _ _

/-- Settles O21: held writes, writes of the fabric, acknowledgements and refused requests, each by its own step. -/
theorem heldAndReturnedRequests : Obligations.HeldAndReturnedRequests := by
  refine fun s d h hm => ⟨fun i x p bs pa w q hx hop hsrc hloc hpin hall => ?_, fun i x p bs pa w q hx hop hloc hpin => ?_, fun src i gen off bs pa hsh hxa hmem hh => ?_,
    fun src k i hsh hb => ?_, fun a key rest harr => ?_, fun m ticket rest harr => ?_, fun m harr hf => ?_, fun src m n hne hfree hcall hrefd => ?_⟩
  · have hr : heldReady (s.die d) x = true := by
      simpa [heldReady, hop, SbOp.lines, hloc, Die.pinned] using hpin
    have hbefore : ((s.die d).held.take i).any (fun y => y.ag == x.ag && y.src == x.src && y.fab == x.fab && !y.op.sameFree x.op) = false := by
      rw [List.any_eq_false]
      intro y hy
      have hy' := List.all_eq_true.1 hall y hy
      simp only [Bool.or_eq_true, bne_iff_ne, ne_eq] at hy'
      simp only [Bool.and_eq_true, beq_iff_eq, hsrc]
      tauto
    let u := s.modDie d fun y => { y with held := y.held.eraseIdx i }
    have hu : u.die d = { s.die d with held := (s.die d).held.eraseIdx i } := State.die_modDie_same _ _ _
    let v := u.modDie d fun y => y.apply d pa bs false .ok
    have he : execHeldWriteApply d i s = .next (match x.fab with | some f => if x.key = 1 then v.fabAck d f 0 0 else v | none => v) := by
      unfold execHeldWriteApply
      simp only [hx, hr, hbefore, Bool.not_true, Bool.or_self, Bool.false_eq_true, if_false]
      cases x.fab with
      | some f => simp [hop, execHeldWriteApply.performHeld, localWrs, hloc, v, u]
      | none => simp [hop, execHeldWriteApply.performHeld, localWrs, hloc, v, u, hsrc]
    have hv : v.die d = (u.die d).apply d pa bs false .ok := State.die_modDie_same _ _ _
    have hother (e : DieId) (hne : e ≠ d) : v.die e = s.die e := by rw [State.die_modDie_ne _ (Ne.symm hne), State.die_modDie_ne _ (Ne.symm hne)]
    have hheld : (v.die d).held = (s.die d).held.eraseIdx i := by
      rw [hv, apply_ok, hu]
      split <;> rfl
    have hget (a : Nat) : memGet (v.die d).mem a = if pa ≤ a ∧ a < pa + bs.length then bs.getD (a - pa) 0 else memGet (s.die d).mem a := by
      have hw : memWf (u.die d).mem = true := by rw [hu]; exact hm d
      rw [hv, apply_memGet hw, hu]
    have hack (f : FabSrc) : ((v.fabAck d f 0 0).die d).held = (v.die d).held ∧ ((v.fabAck d f 0 0).die d).mem = (v.die d).mem ∧ ∀ e, e ≠ d → (v.fabAck d f 0 0).die e = v.die e := by
      refine ⟨?_, ?_, fun e he => State.die_modDie_ne _ (Ne.symm he) _⟩ <;> rw [State.fabAck, State.die_modDie_same] <;> rfl
    refine ⟨_, (exec_heldWriteApply d i s).trans he, ?_⟩
    cases x.fab with
    | none => exact ⟨hheld, hother, hget⟩
    | some f =>
      dsimp only
      split
      · obtain ⟨h1, h2, h3⟩ := hack f
        exact ⟨h1.trans hheld, fun e hne => (h3 e hne).trans (hother e hne), fun a => by rw [h2]; exact hget a⟩
      · exact ⟨hheld, hother, hget⟩
  · have hr : heldReady (s.die d) x = false := by
      simpa [heldReady, hop, SbOp.lines, hloc, Die.pinned] using hpin
    exact (exec_heldWriteApply d i s).trans (by unfold execHeldWriteApply; simp [hx, hr])
  · let ws := (cutLines pa bs.length).map fun l => (l.1, slice bs (l.1 - pa) l.2)
    let v := s.modDie d fun y => ws.foldl (fun y w => y.apply d w.1 w.2 false .ok) y
    have hnone : (ws.any fun w => (s.die d).mustHold src.ag src.die (some src) (linesOf w.1 w.2.length)) = false := by
      rw [List.any_eq_false]
      intro w hw
      obtain ⟨c, hc, rfl⟩ := List.mem_map.1 hw
      obtain ⟨h1, h2⟩ := cutLines_within hc
      rw [length_slice (by omega), hh c hc]
      exact Bool.false_ne_true
    have hw : s.fabWrite d src pa bs 1 = (v, true) := by
      unfold State.fabWrite
      exact if_neg (by rw [hnone]; exact Bool.false_ne_true)
    have he : execFabricWriteApply d (.write src i gen off bs) s = .next (v.fabAck d src 0 0) := by
      unfold execFabricWriteApply
      simp [hsh, hxa, hmem, hw]
    refine ⟨_, (exec_fabricWriteApply d _ s).trans he, ?_, fun a => ?_⟩
    · rw [State.fabAck, State.die_modDie_same]
      refine congrArg (· ++ [NftOut.ack src 0 0]) ?_
      rw [State.die_modDie_same]
      exact foldl_apply_keep (fun y => y.coe.outR) (fun _ _ _ _ => rfl) d ws _
    · rw [State.fabAck, State.die_modDie_same]
      refine (congrArg (memGet · a) (congrArg Die.mem (State.die_modDie_same s d _))).trans ?_
      exact cutLines_apply_memGet d pa bs (s.die d) (hm d) a
  · refine (exec_fabricWriteApply d _ s).trans ?_
    unfold execFabricWriteApply fabInc
    simp only [hsh, hb]
    rfl
  · let u := (modGate s d (·.popArr h)).modAg d a fun x => { x with pend := x.pend.filter fun p => !(p.key == key && p.home == h) }
    have he : execWriteAcknowledgement d h none s = .next (raiseRefusal u d a) := by
      unfold execWriteAcknowledgement
      simp only [harr]
      rfl
    have hf := raiseRefusal_fltOnly u d a
    have hu : u.die d = (Die.modAg { s.die d with gate := (s.die d).gate.popArr h } a fun x => { x with pend := x.pend.filter fun p => !(p.key == key && p.home == h) }) := by
      simp only [u, State.modAg, State.die_modDie_same, modGate_die]
    refine ⟨_, (exec_writeAcknowledgement d h none s).trans he, ?_, ?_, fun p => ?_⟩
    · rw [hf.rest, hu]
      exact (congrArg (fun g : Gate => vget g.arr h) (modAg_gate _ _ _)).trans ((vget_vmod_same _ _ _).trans (congrArg (List.drop 1) harr))
    · exact ((modGate_sameMem s d _).trans (sameMem_modDie _ d _ (Die.modAg_mem _ _ _))).trans (raiseRefusal_sameMem u d a)
    · have hag : Die.ag { s.die d with gate := (s.die d).gate.popArr h } a = s.ag d a := by
        cases a with
        | eng k e => cases e <;> rfl
        | _ => rfl
      rw [State.ag, hf.ag, hu, ag_modAg_same, hag]
      simp only [List.mem_filter, Bool.not_eq_true', Bool.and_eq_false_iff, beq_eq_false_iff_ne]
      tauto
  · have he : execRequestResend d h s = .next (modGate (s.modDie d fun y =>
        let id := match m.req with | some x => y.asidFor x.1 | none => 0
        let y := y.countDie d id 36
        if ticket.isSome then y.countDie d id 37 else y) d fun g => { g.popArr h with back := g.back ++ [(h, m, ticket)] }) := by
      unfold execRequestResend
      simp only [harr]
      rfl
    have hc : ∃ c, (s.modDie d fun y =>
        let id := match m.req with | some x => y.asidFor x.1 | none => 0
        let y := y.countDie d id 36
        if ticket.isSome then y.countDie d id 37 else y).die d = { s.die d with sched := c } := by
      rw [State.die_modDie_same]
      dsimp only
      split
      · exact ⟨_, (countDie_rest _ _ _ _).trans (by rw [countDie_rest (s.die d)])⟩
      · exact ⟨_, countDie_rest _ _ _ _⟩
    obtain ⟨c, hc⟩ := hc
    refine ⟨_, (exec_requestResend d h s).trans he, ?_, ?_, SameMem.trans (sameMem_modDie s d _ ?_) (modGate_sameMem _ _ _)⟩
    · rw [modGate_die, hc]
      exact (vget_vmod_same _ _ _).trans (congrArg (List.drop 1) harr)
    · rw [modGate_die, hc]
    · rw [State.die_modDie_same] at hc
      have hmem := congrArg (fun y : Die => y.mem) hc
      exact hmem
  · refine (exec_requestResend d h s).trans ?_
    unfold execRequestResend
    simp only [harr, hf]
  · have hone (f : DieId → List (DieId × Nat)) (hf : ∀ e, f e = if e = src then [(src, n)] else []) : allDies.flatMap f = [(src, n)] := by
      have : f = fun e => if e = src then [(src, n)] else [] := funext hf
      rw [this]
      clear * -
      fin_cases src <;> rfl
    have ht : (s.die d).gate.tickets = [(src, n)] := by
      refine hone _ fun e => ?_
      rw [hrefd]
      split
      · next he => rw [he]; rfl
      · rfl
    refine (exec_ticketCall d s).trans ?_
    unfold execTicketCall
    simp [ht, hcall, hfree, minOf]
    exact congrArg (fun u => State.send u d src (.call n)) (modDie_congr (by rw [hcall, List.nil_append]))

end Sys2Proof.Proofs
end

section
/-! SUPPORT. The publish step (R99, R120, R218); one pass over the slots of a die. -/

namespace Sys2Proof.Proofs

open Sys2Proof Sys2Proof.Machine Sys2Proof.Laws

theorem foldl_modSlot_slot (f : Slot → Slot) (l : List SlotId) (hl : l.Nodup) (y : Die) (j : SlotId) :
    (l.foldl (fun y i => y.modSlot i f) y).slot j = if j ∈ l then f (y.slot j) else y.slot j := by
  induction l generalizing y with
  | nil => rfl
  | cons i l ih =>
    obtain ⟨hi, hl'⟩ := List.nodup_cons.1 hl
    rw [List.foldl_cons, ih hl']
    by_cases hj : i = j
    · subst hj
      simp [hi]
    · rw [Die.slot_modSlot_ne _ hj]
      simp [Ne.symm hj]
theorem allSlots_slot (f : Slot → Slot) (y : Die) (j : SlotId) : (allSlots.foldl (fun y i => y.modSlot i f) y).slot j = f (y.slot j) :=
  (foldl_modSlot_slot f allSlots (by decide) y j).trans (if_pos (by revert j; decide))
theorem foldl_modSlot_rest (f : Slot → Slot) (l : List SlotId) (y : Die) : l.foldl (fun y i => y.modSlot i f) y = { y with slots := (l.foldl (fun y i => y.modSlot i f) y).slots } := by
  induction l generalizing y with
  | nil => rfl
  | cons i l ih => rw [List.foldl_cons, ih]; rfl

theorem peek_eq {y : Die} {a : Nat} {l : List Byte} (h : ∀ i < l.length, memGet y.mem (a + i) = l.getD i 0) : y.peek a l.length = l := by
  refine List.ext_getElem (length_peek _ _ _) fun i h1 h2 => ?_
  have := (peek_getD y a l.length i h2).trans (h i h2)
  rwa [List.getD_eq_getElem _ _ h1, List.getD_eq_getElem _ _ h2] at this

/-- A store engine that no fault, stop or refusal holds goes on with its entry. -/
theorem ste_goes {y : Die} {d : DieId} {k : SlotId} {r : Run} (hr : r.slot = k) (hf : (y.slot k).heldBy 3 = false) (ha : vget (y.slot k).acked 3 = false) (hn : (y.slot k).agSte.refused = []) :
    y.entryGoes ⟨d, .eng k .ste, 8⟩ r = true := by
  have h1 : y.entryRefused ⟨d, .eng k .ste, 8⟩ r = false := by simp [Die.entryRefused, Die.ag, hn]
  have h2 : y.runHeld ⟨d, .eng k .ste, 8⟩ r = false := by rw [← hf, ← hr]; rfl
  have h3 : vget (y.slot r.slot).acked (headCan.stopIx (agentNo (.eng k .ste))) = false := by rw [← ha, ← hr]; rfl
  unfold Die.entryGoes
  rw [h1, h2]
  exact congrArg (fun b => !false && !false && !b) h3

section Publish
variable {s : State} {d : DieId} {k : SlotId} {pa : Nat} {x : TileRec}

/-- What `ACT` and `GEN` of a record become. -/
theorem flipRec_peek {y : Die} (hw : memWf y.mem = true) : (y.flipRec pa).peek (pa + 24) 8 = natLe 8 (y.peekNat (pa + 24) 8 ^^^ 2 ^ 40) ∧
    (y.flipRec pa).peek (pa + 32) 2 = natLe 2 ((y.peekNat (pa + 32) 2 + 1) % 65536) ∧
    ∀ a, ¬ (pa + 24 ≤ a ∧ a < pa + 32) → ¬ (pa + 32 ≤ a ∧ a < pa + 34) → memGet (y.flipRec pa).mem a = memGet y.mem a := by
  have hw' : memWf (y.poke (pa + 24) (wordLe 8 (BitVec.ofNat 64 (y.peekNat (pa + 24) 8) ^^^ 1#64 <<< 40)) false).mem = true := memWf_poke _ _ _ _ hw
  have h64 : y.peekNat (pa + 24) 8 < 2 ^ 64 := by
    have := leNat_lt (y.peek (pa + 24) 8)
    rwa [length_peek] at this
  have hx : (BitVec.ofNat 64 (y.peekNat (pa + 24) 8) ^^^ 1#64 <<< 40).toNat = y.peekNat (pa + 24) 8 ^^^ 2 ^ 40 := by
    rw [BitVec.toNat_xor, BitVec.toNat_ofNat, Nat.mod_eq_of_lt h64]
    rfl
  have hget (a : Nat) : memGet (y.flipRec pa).mem a = if pa + 32 ≤ a ∧ a < pa + 34 then (natLe 2 (y.peekNat (pa + 32) 2 + 1)).getD (a - (pa + 32)) 0
      else if pa + 24 ≤ a ∧ a < pa + 32 then (natLe 8 (y.peekNat (pa + 24) 8 ^^^ 2 ^ 40)).getD (a - (pa + 24)) 0 else memGet y.mem a := by
    unfold Die.flipRec
    dsimp only
    rw [memGet_poke _ _ _ _ _ hw', memGet_poke _ _ _ _ _ hw, length_natLe, wordLe, length_natLe, hx]
  refine ⟨?_, ?_, fun a h1 h2 => by rw [hget, if_neg h2, if_neg h1]⟩
  · have := peek_eq (y := y.flipRec pa) (a := pa + 24) (l := natLe 8 (y.peekNat (pa + 24) 8 ^^^ 2 ^ 40)) fun i hi => by
      rw [length_natLe] at hi
      rw [hget, if_neg (by omega), if_pos (by omega), Nat.add_sub_cancel_left]
    rwa [length_natLe] at this
  · rw [show (65536 : Nat) = 2 ^ (8 * 2) by rfl, natLe_mod]
    have := peek_eq (y := y.flipRec pa) (a := pa + 32) (l := natLe 2 (y.peekNat (pa + 32) 2 + 1)) fun i hi => by
      rw [length_natLe] at hi
      rw [hget, if_pos (by omega), Nat.add_sub_cancel_left]
    rwa [length_natLe] at this
theorem flipRec_slot (y : Die) (pa : Nat) (j : SlotId) : (y.flipRec pa).slot j = y.slot j := by
  simp only [Die.flipRec, Die.slot, Die.poke_slots]
/-- What a publish without a proof leaves at the die of its record. -/
theorem publishAt_leaves (hp : (s.die d).paired d = none) (hx : x.pv = false) : ((publishAt s d k pa x).die d).mem = ((s.die d).flipRec pa).mem ∧
    ∀ j, ((publishAt s d k pa x).slot d j) = { s.slot d j with recs := (s.slot d j).recs.filter fun c => !(c.home == d && c.pa == pa) } := by
  let drop (t : Slot) : Slot := { t with recs := t.recs.filter fun c => !(c.home == d && c.pa == pa) }
  let u := s.modDie d fun y => allSlots.foldl (fun y j => y.modSlot j drop) ((y.flipRec pa).countDie d (y.asidOf k) 38)
  have hu : u.die d = allSlots.foldl (fun y j => y.modSlot j drop) (((s.die d).flipRec pa).countDie d ((s.die d).asidOf k) 38) := State.die_modDie_same _ _ _
  have hmem : (u.die d).mem = ((s.die d).flipRec pa).mem := by
    rw [hu, foldl_modSlot_rest]
    exact Die.countDie_mem _ _ _ _
  have hslot (j : SlotId) : (u.die d).slot j = drop (s.slot d j) := by
    rw [hu, allSlots_slot, countDie_slot, flipRec_slot]
    rfl
  have he : publishAt s d k pa x = if ((u.die d).exported d pa && !u.muted d) = true then
      (((otherDies d).foldl (fun v h => v.send d h (.inval ((u.die d).bump d).1 (v.die d).gate.v pa)) (u.modDie d fun y => (y.bump d).2)).beats d) else u := by
    unfold publishAt
    rw [pairStores_none hp]
    simp only [hx]
    rfl
  rw [he]
  split
  · have hb (v : State) (hv : v.die d = (u.die d |>.bump d).2) : ((v.beats d).die d).mem = (u.die d).mem ∧ ∀ j, (v.beats d).slot d j = (u.die d).slot j := by
      rw [State.beats_die, if_pos rfl, hv]
      refine ⟨rfl, fun j => ?_⟩
      rw [State.slot, State.beats_die, if_pos rfl, hv]
      rfl
    obtain ⟨h1, h2⟩ := hb ((otherDies d).foldl (fun v h => v.send d h (.inval ((u.die d).bump d).1 (v.die d).gate.v pa)) (u.modDie d fun y => (y.bump d).2)) <| by
      refine (congrArg (fun v => vget v d) (State.sends_dies _ _ d fun v h => .inval ((u.die d).bump d).1 (v.die d).gate.v pa)).trans ?_
      exact State.die_modDie_same _ _ _
    exact ⟨h1.trans hmem, fun j => (h2 j).trans (hslot j)⟩
  · exact ⟨hmem, hslot⟩

end Publish

/-- Settles O22: the word starts once its address passes; its step flips the record and drops every copy. -/
theorem publishFlipsTheRecord : Obligations.PublishFlipsTheRecord := by
  refine fun s d k r n o p pa x hm hste hk hcode => ⟨fun hst hcur hal hacc => ?_, fun hst hf ha hn hpair hsb hpend hheld hacc hloc hdirty hg hpsn hrec hpv => ?_⟩
  · have hrun : s.run s.cur = some r := by rw [hcur]; exact hste
    refine (exec_publ o s).trans ((engDo_run _ hrun).trans ?_)
    have h64 : ((r.par o.f2).toNat % 64 != 0) = false := by simp [hal]
    simp only [hst, h64, hcur, hk, hacc, keep_die]
    rfl
  · have hrun : s.run ⟨d, .eng k .ste, 8⟩ = some r := hste
    have hgo := ste_goes (d := d) hk hf ha hn
    have hroom : s.pairRoom d 1 = true := by simp [State.pairRoom, hpair]
    have hleaf : (s.die d).leafBad p = false := by simp [Die.leafBad, hdirty]
    have hmark : (s.modDie d fun y => y.markDirty (tlbOf (.eng k .ste)) p) = s := by
      refine Eq.trans (modDie_congr ?_) (keep_die s d)
      simp [Die.markDirty, hdirty]
    have he : execPublishStep d k s = .next ((publishAt s d k pa x).advRun ⟨d, .eng k .ste, 8⟩ r o.na) := by
      unfold execPublishStep
      have ha1 : (s.ag d (.eng k .ste)).sb = [] := hsb
      have ha2 : (s.ag d (.eng k .ste)).pend = [] := hpend
      simp [hrun, hcode, hst, hgo, ha1, ha2, hheld, hk, hacc, hloc, keep_die, hg, hroom, hpsn, hleaf, hrec, hmark]
    obtain ⟨h1, h2⟩ := publishAt_leaves (k := k) (pa := pa) hpair hpv
    obtain ⟨g1, g2, g3⟩ := flipRec_peek (pa := pa) (hm d)
    let t := publishAt s d k pa x
    have hset : (t.advRun ⟨d, .eng k .ste, 8⟩ r o.na).die d = (t.die d).modSlot k fun y => { y with ste := some (r.adv o.na) } := State.die_modDie_same _ _ _
    refine ⟨_, (exec_publishStep d k s).trans he, ?_, fun j c hc => ?_, ?_, ?_, fun a i1 i2 => ?_⟩
    · rw [State.slot, hset, Die.slot_modSlot_same]
    · have hrecs : (((t.die d).modSlot k fun y => { y with ste := some (r.adv o.na) }).slot j).recs = ((t.die d).slot j).recs := slot_modSlot_keeps Slot.recs _ k j fun _ => rfl
      rw [State.slot, hset, hrecs] at hc
      have := congrArg Slot.recs (h2 j)
      rw [State.slot] at this
      rw [this, List.mem_filter] at hc
      rintro ⟨e1, e2⟩
      simpa [e1, e2] using hc.2
    · rw [hset, ← g1]; exact congrArg (fun m => memRead m (pa + 24) 8) h1
    · rw [hset, ← g2]; exact congrArg (fun m => memRead m (pa + 32) 2) h1
    · rw [hset, ← g3 a i1 i2]; exact congrArg (fun m => memGet m a) h1

end Sys2Proof.Proofs
end

section
/-! SUPPORT. Page walks: what one read of a walker gives, the levels on the way, the leaf (R86 to R90). -/

namespace Sys2Proof.Proofs

open Sys2Proof Sys2Proof.Machine Sys2Proof.Laws

theorem fld_eq (w : Word) (lo len : Nat) : fld w lo len = w.toNat / 2 ^ lo % 2 ^ len := by
  rw [fld, BitVec.extractLsb'_toNat, Nat.shiftRight_eq_div_pow]
theorem bitAt_eq (w : Word) (i : Nat) : bitAt w i = decide (w.toNat / 2 ^ i % 2 = 1) := by
  rw [bitAt, BitVec.getLsbD, Nat.testBit_eq_decide_div_mod_eq]

/-! ## An entry on the way: the physical address of the next table and `V` (R86) -/

section Table
variable {n : Nat} (h12 : n % 4096 = 0) (h48 : n < 2 ^ 48)
include h12 h48
theorem tableWord_toNat : (BitVec.ofNat 64 (n + 1)).toNat = n + 1 := by
  rw [BitVec.toNat_ofNat]
  omega
theorem tableWord_next : fld (BitVec.ofNat 64 (n + 1)) 12 36 * 4096 = n := by
  rw [fld_eq, tableWord_toNat h12 h48]
  omega
theorem tableWord_v : bitAt (BitVec.ofNat 64 (n + 1)) 0 = true := by
  rw [bitAt_eq, tableWord_toNat h12 h48, decide_eq_true_eq]
  omega
theorem tableWord_notLeaf : bitAt (BitVec.ofNat 64 (n + 1)) 1 = false := by
  rw [bitAt_eq, tableWord_toNat h12 h48, decide_eq_false_iff_not]
  omega
theorem tableWord_root : fld (BitVec.ofNat 64 (n + 1)) 1 11 = 0 ∧ fld (BitVec.ofNat 64 (n + 1)) 48 16 = 0 := by
  simp only [fld_eq, tableWord_toNat h12 h48]
  omega
theorem tableWord_good {lvl : Nat} (hl : lvl < 3) : pteBad (BitVec.ofNat 64 (n + 1)) lvl = false := by
  have h1 : fld (BitVec.ofNat 64 (n + 1)) 60 4 = 0 ∧ fld (BitVec.ofNat 64 (n + 1)) 2 10 = 0 ∧ fld (BitVec.ofNat 64 (n + 1)) 48 12 = 0 := by
    simp only [fld_eq, tableWord_toNat h12 h48]
    omega
  obtain ⟨e1, e2, e3⟩ := h1
  have h3 : (lvl == 3) = false := beq_false_of_ne (by omega)
  simp only [pteBad, tableWord_notLeaf h12 h48, e1, e2, e3, h3]
  rfl

end Table

theorem pteBad_iff {w : Word} {l : Nat} : (!bitAt w 0 || pteBad w l) = true ↔
    w.getLsbD 0 = false ∨ fld w 60 4 ≠ 0 ∨ (w.getLsbD 1 = true ∧ l = 0) ∨ (w.getLsbD 1 = false ∧ l = 3) ∨ (w.getLsbD 1 = false ∧ (fld w 2 10 ≠ 0 ∨ fld w 48 12 ≠ 0)) ∨
      (w.getLsbD 1 = true ∧ (fld w 12 36 % 2 ^ (43 - 9 * l - 12) ≠ 0 ∨ 5 ≤ fld w 8 3 ∨ (w.getLsbD 4 = true ∧ fld w 8 3 ≠ 0) ∨ (w.getLsbD 3 = true ∧ w.getLsbD 2 = false) ∨
        (w.getLsbD 11 = true ∧ fld w 8 3 ≠ 1) ∨ (¬ (fld w 8 3 = 2 ∨ fld w 8 3 = 3) ∧ fld w 48 12 ≠ 0))) := by
  simp only [pteBad, bitAt, Bool.or_eq_true, Bool.and_eq_true, Bool.not_eq_true', bne_iff_ne, beq_iff_eq, decide_eq_true_eq, not_or, or_assoc, and_assoc, ne_eq]

section Walk
variable {d : Die} {a va : Nat}

theorem walkRead_mem (hm : isDieMem (a + 7) = true) (hp : d.poisoned a 8 = false) : walkRead d false a va = .ok d (BitVec.ofNat 64 (d.peekNat a 8)) := by
  simp [walkRead, hm, hp]
theorem walkRead_poisoned (hm : isDieMem (a + 7) = true) (hp : d.poisoned a 8 = true) : walkRead d false a va = .fault d 23 va := by
  simp [walkRead, hm, hp]

/-- The address of a level's entry. -/
def entryAt (tbl : Nat → Nat) (va j : Nat) : Nat := tbl j + 8 * (va / 2 ^ (43 - 9 * j) % 512)
/-- A sound entry holding the next table. -/
def TableAt (d : Die) (a n : Nat) : Prop := (isDieMem (a + 7) = true ∧ d.poisoned a 8 = false) ∧ n % 4096 = 0 ∧ n < 2 ^ 48 ∧ BitVec.ofNat 64 (d.peekNat a 8) = BitVec.ofNat 64 (n + 1)

variable {dn : DieId} {wr : Bool} {asid : Half} {tbl : Nat → Nat} {l : Nat}

theorem levels_drop (hl : l ≤ 3) : (List.range 4).drop l = l :: (List.range 4).drop (l + 1) := by
  rw [List.drop_eq_getElem_cons (by simp; omega), List.getElem_range]

/-- The levels before `l` hold tables: the walk goes on at level `l`, with only its cache changed. -/
theorem walkLevels_down (hl : l ≤ 3) (ht : ∀ j < l, TableAt d (entryAt tbl va j) (tbl (j + 1))) :
    ∃ c, walkLevels dn false wr asid va [0, 1, 2, 3] (tbl 0) d = walkLevels dn false wr asid va ((List.range 4).drop l) (tbl l) { d with walkc := c } := by
  induction l with
  | zero => exact ⟨d.walkc, rfl⟩
  | succ j ih =>
    obtain ⟨c, hc⟩ := ih (by omega) fun i hi => ht i (by omega)
    obtain ⟨⟨hm, hp⟩, h12, h48, hw⟩ := ht j (by omega)
    have hr : walkRead { d with walkc := c } false (entryAt tbl va j) va = .ok { d with walkc := c } (BitVec.ofNat 64 (tbl (j + 1) + 1)) := by
      rw [← hw]
      exact walkRead_mem hm hp
    unfold entryAt at hr
    refine ⟨regIns c (entryAt tbl va j) (BitVec.ofNat 64 (tbl (j + 1) + 1)), hc.trans ?_⟩
    rw [levels_drop (by omega), walkLevels]
    simp only [hr, tableWord_v h12 h48, tableWord_notLeaf h12 h48, tableWord_good h12 h48 (show j < 3 by omega), tableWord_next h12 h48]
    rfl

/-- The whole walk down to level `l` (R88, R89). -/
theorem walk_down (hl : l ≤ 3) (hva : va < 2 ^ 52) (hen : bitAt (d.getReg dn rASIDBASE) 0 = true) (hg : d.gateOk dn = true)
    (hroot : TableAt d ((d.getReg dn rASIDBASE &&& bits 47 20).toNat + 16 * asid.toNat) (tbl 0)) (h8 : d.peekNat ((d.getReg dn rASIDBASE &&& bits 47 20).toNat + 16 * asid.toNat + 8) 8 = 0)
    (ht : ∀ j < l, TableAt d (entryAt tbl va j) (tbl (j + 1))) :
    ∃ c, walk dn d false wr asid va = walkLevels dn false wr asid va ((List.range 4).drop l) (tbl l) { d with walkc := c } := by
  obtain ⟨⟨hm, hp⟩, h12, h48, hw⟩ := hroot
  have hr := walkRead_mem (va := va) hm hp
  rw [hw] at hr
  obtain ⟨c, hc⟩ := walkLevels_down (dn := dn) (wr := wr) (asid := asid) (d := { d with walkc := regIns d.walkc ((d.getReg dn rASIDBASE &&& bits 47 20).toNat + 16 * asid.toNat) (BitVec.ofNat 64 (tbl 0 + 1)) }) hl ht
  refine ⟨c, Eq.trans ?_ hc⟩
  obtain ⟨e1, e2⟩ := tableWord_root h12 h48
  unfold walk
  rw [if_neg (by simp [hen]; omega), if_neg (by simp [hg])]
  simp only [hr, tableWord_v h12 h48, e1, e2, h8, tableWord_next h12 h48]
  rfl

/-! ## The last entry of a walk -/

/-- A leaf's word with `A`, and `D` for a write (R89). -/
def leafWord (d : Die) (a : Nat) (wr : Bool) : Word := BitVec.ofNat 64 (d.peekNat a 8) ||| 0x40#64 ||| (if wr then 0x80#64 else 0)
/-- The die after its leaf is marked. -/
def markLeaf (d : Die) (a : Nat) (wr : Bool) : Die := if leafWord d a wr == BitVec.ofNat 64 (d.peekNat a 8) then d else d.poke a (wordLe 8 (leafWord d a wr)) false

theorem markLeaf_memGet (hw : memWf d.mem = true) (x : Nat) :
    memGet (markLeaf d a wr).mem x = if a ≤ x ∧ x < a + 8 then (natLe 8 (leafWord d a wr).toNat).getD (x - a) 0 else memGet d.mem x := by
  unfold markLeaf
  split
  · next h =>
    have hlt : d.peekNat a 8 < 2 ^ 64 := by
      have := leNat_lt (d.peek a 8)
      rwa [length_peek] at this
    rw [beq_iff_eq.1 h, BitVec.toNat_ofNat, Nat.mod_eq_of_lt hlt, Die.peekNat, natLe_leNat (length_peek _ _ _)]
    split
    · next hx => rw [peek_getD _ _ _ _ (by omega)]; exact congrArg (memGet d.mem) (by omega)
    · rfl
  · rw [memGet_poke _ _ _ _ _ hw, wordLe, length_natLe]

section Last
variable {rest : List Nat} {t : Nat} (hm : isDieMem (t + 8 * (va / 2 ^ (43 - 9 * l) % 512) + 7) = true)
include hm

theorem walkLevels_poisoned (hp : d.poisoned (t + 8 * (va / 2 ^ (43 - 9 * l) % 512)) 8 = true) : walkLevels dn false wr asid va (l :: rest) t d = .fault d 23 va := by
  rw [walkLevels]
  simp only [walkRead_poisoned hm hp]
variable (hp : d.poisoned (t + 8 * (va / 2 ^ (43 - 9 * l) % 512)) 8 = false)
include hp
theorem walkLevels_bad
    (hb : (!bitAt (BitVec.ofNat 64 (d.peekNat (t + 8 * (va / 2 ^ (43 - 9 * l) % 512)) 8)) 0 || pteBad (BitVec.ofNat 64 (d.peekNat (t + 8 * (va / 2 ^ (43 - 9 * l) % 512)) 8)) l) = true) :
    walkLevels dn false wr asid va (l :: rest) t d = .fault d 20 va := by
  rw [walkLevels]
  simp only [walkRead_mem hm hp, if_pos hb]
theorem walkLevels_leaf
    (hb : (!bitAt (BitVec.ofNat 64 (d.peekNat (t + 8 * (va / 2 ^ (43 - 9 * l) % 512)) 8)) 0 || pteBad (BitVec.ofNat 64 (d.peekNat (t + 8 * (va / 2 ^ (43 - 9 * l) % 512)) 8)) l) = false)
    (hlf : bitAt (BitVec.ofNat 64 (d.peekNat (t + 8 * (va / 2 ^ (43 - 9 * l) % 512)) 8)) 1 = true) :
    walkLevels dn false wr asid va (l :: rest) t d = .ok (markLeaf d (t + 8 * (va / 2 ^ (43 - 9 * l) % 512)) wr)
      ⟨asid, bitAt (BitVec.ofNat 64 (d.peekNat (t + 8 * (va / 2 ^ (43 - 9 * l) % 512)) 8)) 5, va / 2 ^ (43 - 9 * l) * 2 ^ (43 - 9 * l), 43 - 9 * l,
        leafWord d (t + 8 * (va / 2 ^ (43 - 9 * l) % 512)) wr, t + 8 * (va / 2 ^ (43 - 9 * l) % 512), bitAt (leafWord d (t + 8 * (va / 2 ^ (43 - 9 * l) % 512)) wr) 7⟩ := by
  rw [walkLevels]
  simp only [walkRead_mem hm hp, hb, hlf]
  rfl

end Last
end Walk

end Sys2Proof.Proofs
end

section
/-! SUPPORT. Walks and invalidations as events (R89 to R92). -/

namespace Sys2Proof.Proofs

open Sys2Proof Sys2Proof.Machine Sys2Proof.Laws

/-! ## TLBs -/

@[simp] theorem tlb_modTlb_same (d : Die) (t : TlbId) (f : List TlbEntry → List TlbEntry) : (d.modTlb t f).tlb t = f (d.tlb t) := by
  cases t <;> simp [Die.tlb, Die.modTlb]
theorem tlb_modTlb_ne (d : Die) {t u : TlbId} (h : t ≠ u) (f : List TlbEntry → List TlbEntry) : (d.modTlb t f).tlb u = d.tlb u := by
  cases t with
  | slot k => cases u with
    | slot j => exact congrArg Slot.tlb (Die.slot_modSlot_ne d (fun e => h (congrArg TlbId.slot e)) _)
    | copy c => rfl
    | coll => rfl
  | copy c => cases u with
    | slot j => rfl
    | copy e => simp only [Die.tlb, Die.modTlb]; rw [vget_vmod_ne _ fun e' => h (congrArg TlbId.copy e')]
    | coll => rfl
  | coll => cases u with
    | slot j => rfl
    | copy e => rfl
    | coll => exact absurd rfl h
@[simp] theorem countDie_tlb (d : Die) (dn : DieId) (a : Half) (ev : Nat) : (d.countDie dn a ev).tlb = d.tlb := by
  rw [countDie_rest]
  funext t
  cases t <;> rfl

/-! ## What a walk leaves -/

/-- Die `z` is die `y` but for memory, its marks, and the walk cache. -/
def WalkOnly (y z : Die) : Prop := z = { y with mem := z.mem, psn := z.psn, under := z.under, free := z.free, walkc := z.walkc }
theorem WalkOnly.tlb {y z : Die} (h : WalkOnly y z) : z.tlb = y.tlb := by
  rw [h]
  funext t
  cases t <;> rfl
theorem WalkOnly.refl (y : Die) : WalkOnly y y := rfl
theorem WalkOnly.trans {x y z : Die} (h : WalkOnly x y) (g : WalkOnly y z) : WalkOnly x z := by
  unfold WalkOnly at h g ⊢
  rw [g, h]
theorem WalkOnly.of_walkc (y : Die) (c : Sparse Word) : WalkOnly y { y with walkc := c } := rfl
theorem WalkOnly.of_poke (y : Die) (a : Nat) (bs : List Byte) (psn : Bool) : WalkOnly y (y.poke a bs psn) := rfl
theorem walkLevels_only (dn : DieId) (c wr : Bool) (asid : Half) (va : Nat) (l : List Nat) (t : Nat) (d : Die) : WalkOnly d (walkLevels dn c wr asid va l t d).die := by
  induction l generalizing t d with
  | nil => exact .refl d
  | cons lvl r ih =>
    have e := walkRead_die d c (t + 8 * (va / 2 ^ (43 - 9 * lvl) % 512)) va
    unfold walkLevels
    dsimp only
    cases g : walkRead d c (t + 8 * (va / 2 ^ (43 - 9 * lvl) % 512)) va with
    | fault y a b => rw [g] at e; obtain rfl : y = d := e; exact .refl _
    | wait y => rw [g] at e; obtain rfl : y = d := e; exact .refl _
    | ok y w =>
      rw [g] at e
      obtain rfl : y = d := e
      refine xres_ite (.refl _) (xres_ite ?_ ((WalkOnly.of_walkc _ _).trans (ih _ _)))
      exact die_ite (.refl _) (.of_poke _ _ _ _)
theorem walk_only (dn : DieId) (d : Die) (c wr : Bool) (asid : Half) (va : Nat) : WalkOnly d (walk dn d c wr asid va).die := by
  unfold walk
  refine xres_ite (.refl _) (xres_ite (.refl _) ?_)
  dsimp only
  have e := walkRead_die d c ((d.getReg dn rASIDBASE &&& bits 47 20).toNat + 16 * asid.toNat) va
  cases g : walkRead d c ((d.getReg dn rASIDBASE &&& bits 47 20).toNat + 16 * asid.toNat) va with
  | fault y a b => rw [g] at e; obtain rfl : y = d := e; exact .refl _
  | wait y => rw [g] at e; obtain rfl : y = d := e; exact .refl _
  | ok y w =>
    rw [g] at e
    obtain rfl : y = d := e
    exact xres_ite (.refl _) ((WalkOnly.of_walkc _ _).trans (walkLevels_only _ _ _ _ _ _ _ _))

section Event
variable {s : State} {d : DieId} {b : TlbId} {asid : Half} {va : Word} {wr cached : Bool} (ha : (s.die d).tlbAsid b = some asid) (hc : ((s.die d).tlb b).any (·.covers asid va.toNat) = false)
include ha hc

theorem pageWalk_faults {z : Die} {code x : Nat} (h : walk d (s.die d) cached wr asid va.toNat = .fault z code x) : execPageWalk d b va wr cached s = .next (s.modDie d fun _ => z.countDie d asid 32) := by
  simp only [execPageWalk, ha, hc, h]
  rfl
theorem pageWalk_fills {z : Die} {e : TlbEntry} (h : walk d (s.die d) cached wr asid va.toNat = .ok z e) :
    execPageWalk d b va wr cached s = .next (s.modDie d fun _ => (z.countDie d asid 32).modTlb b fun l => (e :: l).take 2048) := by
  simp only [execPageWalk, ha, hc, h]
  rfl
/-- A walk that faults, with memory as it was: the access faults, and no entry joins the TLB. -/
theorem walk_fails {z : Die} {code : Nat} (hva : va.toNat < 2 ^ 52) (hen : bitAt ((s.die d).getReg d rASIDBASE) 0 = true) (h : walk d (s.die d) false wr asid va.toNat = .fault z code va.toNat)
    (hz : z.mem = (s.die d).mem) : (∃ z, translate d (s.die d) b asid va.toNat wr = .fault z code va.toNat) ∧
      ∃ u, exec (.pageWalk d b va wr false) s = .next u ∧ (u.die d).tlb = (s.die d).tlb ∧ SameMem s u := by
  have hfind : ((s.die d).tlb b).find? (·.covers asid va.toNat) = none := by
    rw [List.find?_eq_none]
    rw [List.any_eq_false] at hc
    exact hc
  refine ⟨⟨z.countMiss d b asid, ?_⟩, _, (exec_pageWalk d b va wr false s).trans (pageWalk_faults ha hc h), ?_, sameMem_modDie s d _ ((Die.countDie_mem _ _ _ _).trans hz)⟩
  · unfold Machine.translate
    rw [if_neg (by simp [hen]; omega)]
    simp only [hfind, h]
  · have hw := walk_only d (s.die d) false wr asid va.toNat
    rw [h] at hw
    rw [State.die_modDie_same, countDie_tlb]
    exact WalkOnly.tlb hw

end Event

/-! ## Invalidations (R92) -/

theorem find?_regIns (l : Sparse Word) (off : Nat) (v : Word) : (regIns l off v).find? (fun e => e.1 == off) = some (off, v) := by
  induction l with
  | nil => simp [regIns]
  | cons a r ih =>
    obtain ⟨k, w⟩ := a
    unfold regIns
    split
    · simp
    · split
      · next h => simp [h]
      · next h1 h2 =>
        rw [List.find?_cons_of_neg (by simpa using Ne.symm h2)]
        exact ih
@[simp] theorem getReg_setReg (d : Die) (dn : DieId) (off : Nat) (v : Word) : (d.setReg off v).getReg dn off = v := by
  simp only [Die.getReg, Die.reg?, Die.setReg, find?_regIns]
  rfl
@[simp] theorem getReg_setRf (d : Die) (dn : DieId) (off lo len v : Nat) : (d.setRf dn off lo len v).getReg dn off = putFld (d.getReg dn off) lo len v := getReg_setReg _ _ _ _
theorem putFld_busy (w : Word) : bitAt (putFld w 62 1 1) 62 = true ∧ bitAt (putFld w 62 1 0) 62 = false := by
  simp [putFld, bitAt, bits]

theorem foldl_modTlb (f : List TlbEntry → List TlbEntry) (l : List TlbId) (hl : l.Nodup) (y : Die) (b : TlbId) :
    (l.foldl (fun y t => y.modTlb t f) y).tlb b = if b ∈ l then f (y.tlb b) else y.tlb b := by
  induction l generalizing y with
  | nil => rfl
  | cons t l ih =>
    obtain ⟨ht, hl'⟩ := List.nodup_cons.1 hl
    rw [List.foldl_cons, ih hl']
    by_cases hb : t = b
    · subst hb
      simp [ht]
    · rw [tlb_modTlb_ne _ hb]
      simp [Ne.symm hb]
theorem mem_allTlbs (b : TlbId) : b ∈ allTlbs := by
  cases b with
  | slot k => revert k; decide
  | copy c => revert c; decide
  | coll => decide
theorem allTlbs_tlb (f : List TlbEntry → List TlbEntry) (y : Die) (b : TlbId) : (allTlbs.foldl (fun y t => y.modTlb t f) y).tlb b = f (y.tlb b) :=
  (foldl_modTlb f allTlbs (by decide) y b).trans (if_pos (mem_allTlbs b))
theorem dropCopies_tlb (y : Die) (d : DieId) (v : Word) (gone : List TlbEntry) : (y.dropCopies d v gone).tlb = y.tlb := by
  funext b
  cases b with
  | slot k => simp [Die.tlb, Die.dropCopies, Die.slot, vget]
  | copy c => rfl
  | coll => rfl
theorem foldl_modTlb_mem (f : List TlbEntry → List TlbEntry) (l : List TlbId) (y : Die) : (l.foldl (fun y t => y.modTlb t f) y).mem = y.mem := by
  induction l generalizing y with
  | nil => rfl
  | cons t l ih => rw [List.foldl_cons, ih, Die.modTlb_mem]

section Tlbinv
variable {s : State} {d : DieId} {v : Word} (hv : bitAt v 63 = true)
include hv

theorem tlbinvWrite_busy (hb : bitAt ((s.die d).getReg d rTLBINV) 62 = true) : tlbinvWrite s d v = s := by
  simp only [tlbinvWrite, hv, hb, Bool.and_self, if_true]
/-- Entries gone and `BUSY` set: what a command of `TLBINV` makes of a die whose copies have been dropped. -/
def tlbBusy (y : Die) (d : DieId) (used : List TlbUse) : Die := { y.setRf d rTLBINV 62 1 1 with walkc := [], tlbWait := used, tlbLost := 0 }
omit hv in
theorem tlbBusy_reg (y : Die) (d : DieId) (used : List TlbUse) : bitAt ((tlbBusy y d used).getReg d rTLBINV) 62 = true := by
  have h : (tlbBusy y d used).getReg d rTLBINV = (y.setRf d rTLBINV 62 1 1).getReg d rTLBINV := rfl
  rw [h, getReg_setRf]
  exact (putFld_busy _).1
omit hv in
theorem tlbBusy_tlb (y : Die) (d : DieId) (used : List TlbUse) : (tlbBusy y d used).tlb = y.tlb := by
  funext b
  cases b <;> rfl
/-- A command that starts drops what it names, and remembers what used it. -/
theorem tlbinvWrite_drops (hs : fld v 60 2 ≠ 3) (hb : bitAt ((s.die d).getReg d rTLBINV) 62 = false) : ∃ z, tlbinvWrite s d v = s.modDie d (fun _ => z) ∧
    bitAt (z.getReg d rTLBINV) 62 = true ∧ z.walkc = [] ∧ z.mem = (s.die d).mem ∧ (∀ b e, e ∈ z.tlb b ↔ e ∈ (s.die d).tlb b ∧ ¬ e.named v = true) ∧
    ∀ b u e, (b, u) ∈ (s.die d).tlbUses d → e ∈ (s.die d).tlb b → e.named v = true → u.through e = true → u ∈ z.tlbWait := by
  let y := (s.die d).setReg rTLBINV ((v &&& (bits 61 60 ||| bits 55 40 ||| bits 35 0)) ||| 0)
  let gone := allTlbs.map fun t => (t, (y.tlb t).filter (·.named v))
  let used := (y.tlbUses d).filterMap fun u => if gone.any fun g => g.1 == u.1 && g.2.any u.2.through then some u.2 else none
  let y' := (allTlbs.foldl (fun y t => y.modTlb t fun l => l.filter fun e => !e.named v) y).dropCopies d v (gone.flatMap (·.2))
  have htlb : y.tlb = (s.die d).tlb := by funext b; cases b <;> rfl
  have huses : y.tlbUses d = (s.die d).tlbUses d := rfl
  refine ⟨tlbBusy y' d used.eraseDups, ?_, tlbBusy_reg _ _ _, rfl, ?_, fun b e => ?_, fun b u e hu he hn ht => ?_⟩
  · simp only [tlbinvWrite, hv, hb, Bool.and_false, Bool.false_eq_true, if_false, Bool.not_true, Bool.false_or, decide_eq_true_eq, if_neg hs]
    rfl
  · exact foldl_modTlb_mem _ _ _
  · rw [tlbBusy_tlb, dropCopies_tlb, allTlbs_tlb, htlb, List.mem_filter]
    simp
  · refine List.mem_eraseDups.2 (List.mem_filterMap.2 ?_)
    refine ⟨(b, u), by rw [huses]; exact hu, if_pos ?_⟩
    simp only [gone, List.any_map, List.any_eq_true, Function.comp, Bool.and_eq_true, beq_iff_eq, List.mem_filter]
    exact ⟨b, mem_allTlbs b, rfl, e, ⟨by rw [htlb]; exact he, hn⟩, ht⟩

end Tlbinv

theorem tlbEnd_reg (y : Die) (d : DieId) : bitAt ((y.tlbEnd d).getReg d rTLBINV) 62 = false := by
  let u := y.setReg rTLBST (BitVec.ofNat 64 (16 * y.tlbLost.toNat + (if y.tlbLost = 0 then 0 else 1)))
  have h : (y.tlbEnd d).getReg d rTLBINV = (u.setRf d rTLBINV 62 1 0).getReg d rTLBINV := rfl
  rw [h, getReg_setRf]
  exact (putFld_busy _).2

/-! The commands that name an address space, or a page of one. -/

section Commands
variable (asid : Half) (vpn : BitVec 36)

theorem asidCmd : (BitVec.ofNat 64 (2 ^ 63 + 2 ^ 60 + 2 ^ 40 * asid.toNat)).toNat = 2 ^ 63 + 2 ^ 60 + 2 ^ 40 * asid.toNat := by
  rw [BitVec.toNat_ofNat]
  have := asid.isLt
  omega
theorem asidScope : fld (BitVec.ofNat 64 (2 ^ 63 + 2 ^ 60 + 2 ^ 40 * asid.toNat)) 60 2 = 1 := by
  rw [fld_eq, asidCmd]
  have := asid.isLt
  omega
theorem vpnCmd : (BitVec.ofNat 64 (2 ^ 63 + 2 ^ 61 + 2 ^ 40 * asid.toNat + vpn.toNat)).toNat = 2 ^ 63 + 2 ^ 61 + 2 ^ 40 * asid.toNat + vpn.toNat := by
  rw [BitVec.toNat_ofNat]
  have := asid.isLt
  have := vpn.isLt
  omega
theorem vpnScope : fld (BitVec.ofNat 64 (2 ^ 63 + 2 ^ 61 + 2 ^ 40 * asid.toNat + vpn.toNat)) 60 2 = 2 := by
  rw [fld_eq, vpnCmd]
  have := asid.isLt
  have := vpn.isLt
  omega

end Commands

/-- Settles O23: the walk goes down to its leaf, or faults where an entry fails; an invalidation drops what it names. -/
theorem translationsComeAndGo : Obligations.TranslationsComeAndGo := by
  refine ⟨fun s d b asid va wr tbl l hm hl => ?_, fun s d b va wr cached => ?_, fun s d asid vpn => ?_⟩
  · intro y root at_ word sound table w sh mt imports leaf bad ha hc
    refine ⟨fun h => ?_, fun hva hen hg hroot h8 ht hlast => ?_⟩
    · have hoff : (!bitAt (y.getReg d rASIDBASE) 0 || decide (2 ^ 52 ≤ va.toNat)) = true := by
        rcases h with h | h
        · rw [decide_eq_true h, Bool.or_true]
        · rw [show bitAt (y.getReg d rASIDBASE) 0 = false from h]; rfl
      have hwalk : walk d y false wr asid va.toNat = .fault y 20 va.toNat := if_pos hoff
      refine ⟨if_pos hoff, _, (exec_pageWalk d b va wr false s).trans (pageWalk_faults ha hc hwalk), ?_, sameMem_modDie s d _ (Die.countDie_mem _ _ _ _)⟩
      rw [State.die_modDie_same, countDie_tlb]
    · intro fails
      obtain ⟨c, hwalk⟩ := walk_down (dn := d) (wr := wr) (asid := asid) (tbl := tbl) hl hva hen hg hroot h8 ht
      rw [levels_drop hl] at hwalk
      refine ⟨fun hp => ?_, fun hp hb => ?_, fun hp hlf => ?_⟩
      · exact walk_fails ha hc hva hen (hwalk.trans (walkLevels_poisoned hlast hp)) rfl
      · exact walk_fails ha hc hva hen (hwalk.trans (walkLevels_bad hlast hp (pteBad_iff.2 hb))) rfl
      · obtain ⟨h0, h1, h2, h3, h4, h5, h6, h7, h9, h10⟩ := hlf
        have hb : (!bitAt w 0 || pteBad w l) = false := by
          rw [← Bool.not_eq_true, pteBad_iff]
          rintro (g | g | ⟨-, g⟩ | ⟨g, -⟩ | ⟨g, -⟩ | ⟨-, g | g | ⟨g, g'⟩ | ⟨g, g'⟩ | ⟨g, g'⟩ | ⟨g, g'⟩⟩)
          · exact absurd (h0.symm.trans g) (by decide)
          · exact g h3
          · omega
          · exact absurd (h1.symm.trans g) (by decide)
          · exact absurd (h1.symm.trans g) (by decide)
          · exact g h4
          · exact absurd h5 (by simp only [mt]; omega)
          · exact g' (h6 g)
          · exact absurd ((h7 g).symm.trans g') (by decide)
          · exact g' (h9 g)
          · exact g' (h10 g)
        intro v
        have hok := hwalk.trans (walkLevels_leaf hlast hp hb h1)
        let y' : Die := { y with walkc := c }
        refine ⟨_, (exec_pageWalk d b va wr false s).trans (pageWalk_fills ha hc hok), fun e he => State.die_modDie_ne _ (Ne.symm he) _, ?_, fun c hc => ?_, fun a => ?_⟩
        · rw [State.die_modDie_same, tlb_modTlb_same, countDie_tlb]
          have hw := walk_only d y false wr asid va.toNat
          rw [hok] at hw
          exact congrArg (fun l => List.take 2048 (_ :: l)) (congrFun (WalkOnly.tlb hw) b)
        · rw [State.die_modDie_same, tlb_modTlb_ne _ (Ne.symm hc), countDie_tlb]
          have hw := walk_only d y false wr asid va.toNat
          rw [hok] at hw
          exact congrFun (WalkOnly.tlb hw) c
        · rw [State.die_modDie_same]
          refine (congrArg (memGet · a) ((Die.modTlb_mem _ _ _).trans (Die.countDie_mem _ _ _ _))).trans ?_
          exact markLeaf_memGet (d := y') (hm d) a
  · have hkeep (u : Die) (hu : ∀ c, c ≠ b → u.tlb c = (s.die d).tlb c) : (∀ e, e ≠ d → (s.modDie d fun _ => u).die e = s.die e) ∧ ∀ c, c ≠ b → ((s.modDie d fun _ => u).die d).tlb c = (s.die d).tlb c :=
      ⟨fun e he => State.die_modDie_ne _ (Ne.symm he) _, fun c hc => by rw [State.die_modDie_same]; exact hu c hc⟩
    cases ha : (s.die d).tlbAsid b with
    | none =>
      have he : execPageWalk d b va wr cached s = .next s := by simp only [execPageWalk, ha]
      exact ⟨s, (exec_pageWalk d b va wr cached s).trans he, fun _ _ => rfl, fun _ _ => rfl, fun _ => rfl, fun _ h => nomatch h⟩
    | some asid =>
      by_cases hc : ((s.die d).tlb b).any (·.covers asid va.toNat) = true
      · have he : execPageWalk d b va wr cached s = .next s := by simp only [execPageWalk, ha, hc, if_true]
        exact ⟨s, (exec_pageWalk d b va wr cached s).trans he, fun _ _ => rfl, fun _ _ => rfl, fun h => (nomatch h), fun _ _ _ => rfl⟩
      · have hno (asid' : Half) (h : some asid = some asid') (g : ((s.die d).tlb b).any (·.covers asid' va.toNat) = true) : False := hc (Option.some.inj h ▸ g)
        have hc' := Bool.not_eq_true _ ▸ hc
        have hw := walk_only d (s.die d) cached wr asid va.toNat
        cases h : walk d (s.die d) cached wr asid va.toNat with
        | ok z e =>
          rw [h] at hw
          obtain ⟨h1, h2⟩ := hkeep ((z.countDie d asid 32).modTlb b fun l => (e :: l).take 2048) fun c hne => by
            rw [tlb_modTlb_ne _ (Ne.symm hne), countDie_tlb]; exact congrFun (WalkOnly.tlb hw) c
          exact ⟨_, (exec_pageWalk d b va wr cached s).trans (pageWalk_fills ha hc' h), h1, h2, fun h => (nomatch h), fun a ha' g => (hno a ha' g).elim⟩
        | wait z =>
          rw [h] at hw
          have he : execPageWalk d b va wr cached s = .next (s.modDie d fun _ => z) := by simp only [execPageWalk, ha, hc', h]; rfl
          obtain ⟨h1, h2⟩ := hkeep z fun c hne => congrFun (WalkOnly.tlb hw) c
          exact ⟨_, (exec_pageWalk d b va wr cached s).trans he, h1, h2, fun h => (nomatch h), fun a ha' g => (hno a ha' g).elim⟩
        | fault z code x =>
          rw [h] at hw
          obtain ⟨h1, h2⟩ := hkeep (z.countDie d asid 32) fun c hne => by
            rw [countDie_tlb]; exact congrFun (WalkOnly.tlb hw) c
          exact ⟨_, (exec_pageWalk d b va wr cached s).trans (pageWalk_faults ha hc' h), h1, h2, fun h => (nomatch h), fun a ha' g => (hno a ha' g).elim⟩
  · intro y busy dropped
    have drops {i : Instr} {v : Word} {named : TlbEntry → Prop} (hi : exec i s = .next (tlbinvWrite s d v)) (hv : bitAt v 63 = true) (hs : fld v 60 2 ≠ 3)
        (hn : ∀ e : TlbEntry, e.named v = true ↔ named e) : dropped i named := by
      refine ⟨fun hb => hi.trans (congrArg Host.Outcome.next (tlbinvWrite_busy hv hb)), fun hb => ?_⟩
      obtain ⟨z, he, h1, h2, h3, h4, h5⟩ := tlbinvWrite_drops hv hs hb
      refine ⟨_, hi.trans (congrArg Host.Outcome.next he), ?_, ?_, sameMem_modDie s d _ h3, fun e hne => State.die_modDie_ne _ (Ne.symm hne) _, fun b e => ?_, fun b u e hu hm he ht => ?_⟩ <;>
        rw [State.die_modDie_same]
      · exact h1
      · exact h2
      · rw [h4, hn]
      · exact h5 b u e hu hm ((hn e).2 he) ht
    refine ⟨drops (exec_tlbinvAll d s) ?_ ?_ fun e => ?_, drops (exec_tlbinvAsid d asid s) ?_ ?_ fun e => ?_, drops (exec_tlbinvVpn d asid vpn s) ?_ ?_ fun e => ?_, fun hb hw => ?_, fun h => ?_⟩
    · decide
    · decide
    · simp [TlbEntry.named, show fld (bits 63 63) 60 2 = 0 by decide]
    · rw [bitAt_eq, asidCmd, decide_eq_true_eq]; have := asid.isLt; omega
    · rw [asidScope]; decide
    · have h : BitVec.ofNat 16 (fld (BitVec.ofNat 64 (2 ^ 63 + 2 ^ 60 + 2 ^ 40 * asid.toNat)) 40 16) = asid := by
        refine BitVec.eq_of_toNat_eq ?_
        rw [fld_eq, asidCmd, BitVec.toNat_ofNat]
        have := asid.isLt
        omega
      simp only [TlbEntry.named, asidScope, h, Bool.and_eq_true, beq_iff_eq, Bool.not_eq_true']
    · rw [bitAt_eq, vpnCmd, decide_eq_true_eq]; have := asid.isLt; have := vpn.isLt; omega
    · rw [vpnScope]; decide
    · have h : BitVec.ofNat 16 (fld (BitVec.ofNat 64 (2 ^ 63 + 2 ^ 61 + 2 ^ 40 * asid.toNat + vpn.toNat)) 40 16) = asid := by
        refine BitVec.eq_of_toNat_eq ?_
        rw [fld_eq, vpnCmd, BitVec.toNat_ofNat]
        have := asid.isLt
        have := vpn.isLt
        omega
      have h' : fld (BitVec.ofNat 64 (2 ^ 63 + 2 ^ 61 + 2 ^ 40 * asid.toNat + vpn.toNat)) 0 36 * 65536 = 65536 * vpn.toNat := by
        rw [fld_eq, vpnCmd]
        have := vpn.isLt
        omega
      simp only [TlbEntry.named, vpnScope, h, h']
    · have hnow : (!bitAt (y.getReg d rTLBINV) 62 || y.tlbWait.any ((y.tlbUses d).map (·.2)).contains) = false := by
        rw [show bitAt (y.getReg d rTLBINV) 62 = true from hb, Bool.not_true, Bool.false_or, List.any_eq_false]
        intro u hu
        simpa using hw u hu
      have he : execTlbinvDone d s = .next (s.modDie d fun y => y.tlbEnd d) := by
        unfold execTlbinvDone
        exact if_neg (by rw [hnow]; exact Bool.false_ne_true)
      refine ⟨_, (exec_tlbinvDone d s).trans he, ?_, sameMem_modDie s d _ rfl⟩
      rw [State.die_modDie_same]
      exact tlbEnd_reg _ _
    · refine (exec_tlbinvDone d s).trans ?_
      unfold execTlbinvDone
      refine if_pos ?_
      rcases h with h | ⟨u, hu, hw⟩
      · rw [show bitAt ((s.die d).getReg d rTLBINV) 62 = false from h]; rfl
      · rw [Bool.or_eq_true, List.any_eq_true]
        exact .inr ⟨u, hu, by simpa using hw⟩

end Sys2Proof.Proofs
end

section
/-! SUPPORT. Reading an entry's block keeps what an access keeps; a fault of an engine is held with its slot (R134, R364). -/

namespace Sys2Proof.Proofs

open Sys2Proof Sys2Proof.Machine Sys2Proof.Laws

/-! ## Reading a block (R126, R134) -/

theorem xres_map {α β : Type} {P : Die → Prop} {x : XRes α} {f : α → β} (h : P x.die) : P (x.map f).die := by
  cases x <;> exact h
/-- The die of a block's check. -/
def chkDie : Chk → Die
  | .ok d .. => d
  | .wait d => d
  | .fault d .. => d
section Keeps
variable {P : Die → Prop} (hP : TransKeeps P)
include hP

theorem codePiece_keeps (dn : DieId) (d : Die) (w : Who) (va len : Nat) (h : P d) : P (codePiece dn d w va len).die := by
  have e := translate_keeps hP dn d w.tlb w.asid va false h
  unfold codePiece
  cases q : Machine.translate dn d w.tlb w.asid va false with
  | fault z a b => rw [q] at e; exact e
  | wait z => rw [q] at e; exact e
  | ok y en =>
    rw [q] at e
    replace e : P y := e
    refine xres_ite e (xres_ite e (xres_ite e (xres_ite e ?_)))
    split <;> exact e
theorem codePieces_keeps (dn : DieId) (w : Who) (l : List (Nat × Nat)) (d : Die) (h : P d) : P (codePieces dn w l d).die := by
  induction l generalizing d with
  | nil => exact h
  | cons c r ih =>
    have e := codePiece_keeps hP dn d w c.1 c.2 h
    unfold codePieces
    cases q : codePiece dn d w c.1 c.2 with
    | fault z a b => rw [q] at e; exact e
    | wait z => rw [q] at e; exact e
    | ok y b =>
      rw [q] at e
      exact xres_map (ih y e)
theorem codeHalves_keeps (dn : DieId) (d : Die) (w : Who) (va n : Nat) (h : P d) : P (codeHalves dn d w va n).die := xres_map (codePieces_keeps hP dn w _ d h)
omit hP in
theorem chk_ite {c : Prop} [Decidable c] {a b : Chk} (ha : P (chkDie a)) (hb : P (chkDie b)) : P (chkDie (if c then a else b)) := by
  split
  · exact ha
  · exact hb
/-- The check of an entry's block keeps what an access keeps. -/
theorem checkBlock_keeps (dn : DieId) (d : Die) (w : Who) (st : Stream) (blk : Word) (e : Vector Word 8) (h : P d) : P (chkDie (checkBlock dn d w st blk e)) := by
  have h1 := codeHalves_keeps hP dn d w blk.toNat 2 h
  unfold checkBlock
  refine chk_ite h ?_
  cases q : codeHalves dn d w blk.toNat 2 with
  | fault z a b => rw [q] at h1; exact h1
  | wait z => rw [q] at h1; exact h1
  | ok y hs =>
    rw [q] at h1
    replace h1 : P y := h1
    dsimp only
    split
    · next hd _ =>
      have h2 := codeHalves_keeps hP dn y w blk.toNat (2 + hd.len.toNat) h1
      cases q' : codeHalves dn y w blk.toNat (2 + hd.len.toNat) with
      | fault z a b => rw [q'] at h2; exact h2
      | wait z => rw [q'] at h2; exact h2
      | ok z hs =>
        rw [q'] at h2
        replace h2 : P z := h2
        exact chk_ite h2 (chk_ite h2 h2)
    · exact h1

end Keeps

/-- What an access leaves of the collective engine: everything but its TLB. -/
def coeNoTlb (c : Coll) : Coll := { c with tlb := [] }
theorem countSlot_coe (d : Die) (dn : DieId) (k : SlotId) (ev n : Nat) : (d.countSlot dn k ev n).coe = d.coe := by
  unfold Die.countSlot
  split <;> rfl
theorem countDie_coe (d : Die) (dn : DieId) (a : Half) (ev : Nat) : (d.countDie dn a ev).coe = d.coe := by
  rw [countDie_rest]
theorem countMiss_coe (d : Die) (dn : DieId) (t : TlbId) (a : Half) : (d.countMiss dn t a).coe = d.coe := by
  refine (countDie_coe _ _ _ _).trans ?_
  cases t with
  | slot k => exact countSlot_coe _ _ _ _ _
  | copy c => rfl
  | coll => rfl
theorem transKeeps_coe (c : Coll) : TransKeeps fun d => coeNoTlb d.coe = c where
  poke _ _ _ h := h
  walkc _ _ h := h
  tlb d x f h := by
    rw [← h]
    cases x <;> rfl
  miss d dn x a h := (congrArg coeNoTlb (countMiss_coe d dn x a)).trans h
  rast _ _ _ _ _ _ h := h

/-! ## Runs in their slots -/

theorem setRun_slot (d : Die) (a : Agent) (r : Option Run) (j : SlotId) : withoutRuns ((d.setRun a r).slot j) = withoutRuns (d.slot j) := by
  cases a with
  | eng k e => cases e <;> exact slot_modSlot_keeps withoutRuns d k j fun _ => rfl
  | _ => rfl
theorem setCurRun_slot (d : Die) (c : Cur) (r : Option Run) (j : SlotId) : withoutRuns ((d.setCurRun c r).slot j) = withoutRuns (d.slot j) := by
  unfold Die.setCurRun
  split
  · split <;> rfl
  · exact setRun_slot _ _ _ _
theorem setCurRun_own (d : Die) (c : Cur) (r : Option Run) : (d.setCurRun c r).coe.own = d.coe.own := by
  obtain ⟨dn, ag, ctx⟩ := c
  cases ag with
  | coll => unfold Die.setCurRun; dsimp only; split <;> rfl
  | eng k e => cases e <;> rfl
  | core k => rfl
  | copy c => rfl
  | sys n => rfl
theorem heldTold_slot (d : Die) (c : Cur) (f : FaultAt) (j : SlotId) : withoutRuns ((d.heldTold c f).slot j) = withoutRuns (d.slot j) := by
  unfold Die.heldTold
  split
  · split
    · split
      · exact setCurRun_slot _ _ _ _
      · rfl
    · rfl
  · rfl
theorem heldTold_own (d : Die) (c : Cur) (f : FaultAt) : (d.heldTold c f).coe.own = d.coe.own := by
  unfold Die.heldTold
  split
  · split
    · split
      · exact setCurRun_own _ _ _
      · rfl
    · rfl
  · rfl

/-! ## A fault of an engine is held with the slot of its entry -/

theorem takeFault_engHeld {s : State} {d : DieId} {k : SlotId} {a : Nat} {f : FaultAt} (ha : a ≠ 0) (hf : (s.slot d k).heldBy a = false) :
    HeldFault (.next (takeFault s d k a f)) d k a f.code f.addr f.unit := by
  have hn : vget (s.slot d k).flt (agNum a) = none := Option.isNone_iff_eq_none.1 (Option.isSome_eq_false_iff.1 hf)
  refine ⟨_, rfl, ⟨(s.die d).faultRec d k a f, s.openRec d k a, none⟩, ?_, rfl, rfl, rfl⟩
  rw [takeFault_slot]
  simp [slotFault, beq_false_of_ne ha, hn]
theorem agentNo_ne {a : Agent} (ha : ∀ j, a ≠ .core j) : agentNo a ≠ 0 := by
  cases a with
  | core j => exact absurd rfl (ha j)
  | eng k e => cases e <;> exact Nat.succ_ne_zero _
  | copy c => exact Nat.succ_ne_zero _
  | coll => exact Nat.succ_ne_zero _
  | sys n => exact Nat.succ_ne_zero _
/-- The fault of an agent that runs an entry of slot `k`, where a direct collective entry's strand still has the slot. -/
theorem agentFault_holds {s : State} {d : DieId} {a : Agent} {r : Run} {f : FaultAt} (ha : ∀ j, a ≠ .core j) (hf : (s.slot d r.slot).heldBy (agentNo a) = false)
    (ho : a = .coll → ∀ o, (s.die d).coe.own = some o → (s.slot d r.slot).ctl.own = some o) :
    HeldFault (.next (agentFault s ⟨d, a, 8⟩ r f)) d r.slot (agentNo a) f.code f.addr f.unit := by
  let u := s.modDie d fun y => y.heldTold ⟨d, a, 8⟩ f
  have hu : u.die d = (s.die d).heldTold ⟨d, a, 8⟩ f := State.die_modDie_same _ _ _
  have hslot : withoutRuns (u.slot d r.slot) = withoutRuns (s.slot d r.slot) := by
    rw [State.slot, hu]
    exact heldTold_slot _ _ _ _
  have hflt : (u.slot d r.slot).flt = (s.slot d r.slot).flt := by have := congrArg Slot.flt hslot; exact this
  have hctl : (u.slot d r.slot).ctl = (s.slot d r.slot).ctl := by have := congrArg Slot.ctl hslot; exact this
  have hf' : (u.slot d r.slot).heldBy (agentNo a) = false := by
    rw [← hf]
    simp only [Slot.heldBy, hflt]
  have hno := agentNo_ne ha
  have hctx : (u.die d).ctxOf ⟨d, a, 8⟩ = none := by
    cases a <;> rfl
  have he : agentFault s ⟨d, a, 8⟩ r f = match (u.die d).dirOwn ⟨d, a, 8⟩ with
      | some o => ownFault u d o r.slot f
      | none => takeFault u d r.slot (agentNo a) f := by
    unfold agentFault
    change (match (u.die d).ctxOf ⟨d, a, 8⟩, (u.die d).dirOwn ⟨d, a, 8⟩ with
      | some k, _ => ctxFault u d k f
      | none, some o => ownFault u d o r.slot f
      | none, none => takeFault u d r.slot (agentNo a) f) = _
    rw [hctx]
    cases (u.die d).dirOwn ⟨d, a, 8⟩ <;> rfl
  rw [he]
  cases hd : (u.die d).dirOwn ⟨d, a, 8⟩ with
  | none => exact takeFault_engHeld hno hf'
  | some o =>
    obtain rfl : a = .coll := by
      cases a with
      | coll => rfl
      | _ => exact nomatch hd
    have hown : (s.die d).coe.own = some o := by
      rw [← heldTold_own, ← hu]
      exact hd
    have hb : (u.die d).ownBound o r.slot = true := by
      have : (u.slot d r.slot).ctl.own = some o := by rw [hctl]; exact ho rfl o hown
      exact beq_iff_eq.2 this
    dsimp only
    rw [ownFault, if_pos hb]
    exact takeFault_engHeld hno hf'

end Sys2Proof.Proofs
end

section
/-! SUPPORT. Which entry an engine takes, its start and its end (R119, R185, R186, R285). -/

namespace Sys2Proof.Proofs

open Sys2Proof Sys2Proof.Machine Sys2Proof.Laws

/-! ## Whose entry is next -/

/-- The head of queue `q` of slot `j` may start for agent number `n`. -/
def Able (y : Die) (j : SlotId) (q : Fin 6) (n : Nat) : Prop :=
  (∃ e rest, vget (y.slot j).q q = e :: rest ∧ ∀ i : Fin 8, e.wait.getLsbD i.val = true → vget (y.slot j).toks i ≠ 0) ∧
    (y.slot j).heldBy n = false ∧ vget (y.slot j).stop ⟨n % 7, Nat.mod_lt _ (by decide)⟩ = false ∧ (y.slot j).ctl.act ≠ .faulted ∧ (y.slot j).ctl.act ≠ .idle
theorem ite_isSome_iff {α : Type} {c : Prop} [Decidable c] {a : α} : (if c then some a else none).isSome = true ↔ c := by
  by_cases h : c <;> simp [h]
theorem headCan_iff {y : Die} {j : SlotId} {q : Fin 6} {n : Nat} : (headCan y j q n).isSome = true ↔ Able y j q n := by
  unfold headCan Able
  dsimp only
  split
  · next e rest hq =>
    have hs : vget (y.slot j).stop ⟨n % 7, Nat.mod_lt _ (by decide)⟩ = vget (y.slot j).stop (headCan.stopIx n) := rfl
    rw [ite_isSome_iff]
    simp only [Bool.and_eq_true, hasToks_iff, Bool.not_eq_true', bne_iff_ne, ne_eq, hs, hq, List.cons.injEq]
    constructor
    · rintro ⟨⟨⟨⟨h1, h2⟩, h3⟩, h4⟩, h5⟩
      exact ⟨⟨e, rest, ⟨rfl, rfl⟩, h1⟩, h2, h3, h4, h5⟩
    · rintro ⟨⟨e', rest', ⟨rfl, rfl⟩, h1⟩, h2, h3, h4, h5⟩
      exact ⟨⟨⟨⟨h1, h2⟩, h3⟩, h4⟩, h5⟩
  · next hq => simp [hq]
theorem ite_some_iff {α : Type} {c : Prop} [Decidable c] {a b : α} : (if c then some a else none) = some b ↔ b = a ∧ c := by
  by_cases h : c <;> simp [h, eq_comm]
theorem find?_least {α : Type} {p : α → Bool} {t : α → Nat} {k : α} {l : List α} (hs : l.Pairwise fun a b => t a ≤ t b) (h : l.find? p = some k) : ∀ j ∈ l, p j = true → t k ≤ t j := by
  induction l with
  | nil => exact fun _ hj => nomatch hj
  | cons a l ih =>
    obtain ⟨ha, hl⟩ := List.pairwise_cons.1 hs
    intro j hj hp
    cases hpa : p a with
    | true =>
      rw [List.find?_cons_of_pos hpa] at h
      obtain rfl := Option.some.inj h
      rcases List.mem_cons.1 hj with rfl | hj
      · exact le_refl _
      · exact ha j hj
    | false =>
      rw [List.find?_cons_of_neg (by simp [hpa])] at h
      rcases List.mem_cons.1 hj with rfl | hj
      · exact absurd hp (by simp [hpa])
      · exact ih hl h j hj hp

/-- The slots of a cluster in the order of a copy engine's turn (R185). -/
def turnList (c : ClusterId) (rr : Fin 4) : List SlotId :=
  let ks := allSlots.filter fun k => clusterOf k == c
  (ks.filter fun k => rr.val < k.val % 4) ++ (ks.filter fun k => k.val % 4 ≤ rr.val)
theorem turnList_sorted : ∀ (c : ClusterId) (rr : Fin 4), (turnList c rr).Pairwise fun i j => (i.val % 4 + 3 - rr.val) % 4 ≤ (j.val % 4 + 3 - rr.val) % 4 := by decide
theorem mem_turnList : ∀ (c : ClusterId) (rr : Fin 4) (j : SlotId), j ∈ turnList c rr ↔ clusterOf j = c := by decide

/-- A copy engine may take up slot `j`: its head entry, or the entry that came back with it. -/
def cpeMay (y : Die) (j : SlotId) : Bool := (headCan y j 4 5).isSome || ((y.slot j).cpeAt.isSome && !(y.slot j).heldBy 5 && !vget (y.slot j).stop 5)
/-- The collective engine may take up slot `j`, of which no context is at work. -/
def coeMay (d : DieId) (y : Die) (k : SlotId) : Bool :=
  !(y.coe.ctx.toList.any fun x => x.any fun x => x.slot == k && y.ctxBound x) &&
    match (y.slot k).coeAt with
    | some r => !(y.slot k).heldBy 6 && !vget (y.slot k).stop 6 && (!frameCode r.code || y.coe.ctx.toList.contains none)
    | none => match headCan y k 5 6 with | some e => collCan d y k e | none => false
theorem nextSlot_copy {d : DieId} {y : Die} {c : ClusterId} {k : SlotId} (h : nextSlot d y (.copy c) = some k) : k ∈ turnList c (vget y.cpe c).rr ∧ cpeMay y k = true ∧
    ∀ j ∈ turnList c (vget y.cpe c).rr, cpeMay y j = true → (k.val % 4 + 3 - (vget y.cpe c).rr.val) % 4 ≤ (j.val % 4 + 3 - (vget y.cpe c).rr.val) % 4 := by
  have h' : (turnList c (vget y.cpe c).rr).find? (cpeMay y) = some k := h
  exact ⟨List.mem_of_find?_eq_some h', List.find?_some h', find?_least (turnList_sorted c _) h'⟩
theorem nextSlot_coll {d : DieId} {y : Die} {k : SlotId} (h : nextSlot d y .coll = some k) : coeMay d y k = true := by
  have h' : (((allSlots.filter fun k => y.coe.rr.val < k.val) ++ (allSlots.filter fun k => k.val ≤ y.coe.rr.val)).find? (coeMay d y)) = some k := h
  exact List.find?_some h'
theorem coeMay_head {d : DieId} {y : Die} {k : SlotId} (h : coeMay d y k = true) (ha : (y.slot k).coeAt = none) : (headCan y k 5 6).isSome = true := by
  simp only [coeMay, ha, Bool.and_eq_true] at h
  cases hc : headCan y k 5 6 with
  | none => simp [hc] at h
  | some e => rfl
theorem coeMay_free {d : DieId} {y : Die} {k : SlotId} (h : coeMay d y k = true) {i : Fin 8} {x : KCtx} (hx : vget y.coe.ctx i = some x) (hs : x.slot = k) : y.ctxBound x = false := by
  have hn : (y.coe.ctx.toList.any fun x => x.any fun x => x.slot == k && y.ctxBound x) = false := by
    simp only [coeMay, Bool.and_eq_true, Bool.not_eq_true'] at h
    exact h.1
  rw [List.any_eq_false] at hn
  have hm : some x ∈ y.coe.ctx.toList := by
    rw [← hx, Vector.mem_toList_iff]
    exact Vector.getElem_mem i.isLt
  simpa [hs] using hn _ hm

/-! ## The start of an entry -/

section Start
variable {s : State} {d : DieId} {a : Agent} {k : SlotId} {e : Entry} {rest : List Entry}

/-- The state in which a head entry's block is checked: its tokens taken, the turn passed on. -/
def startState (s : State) (d : DieId) (a : Agent) (k : SlotId) (e : Entry) : State := (s.modSlot d k fun t => { t with toks := takeToks (s.slot d k).toks e.wait }).modDie d fun y => y.turn a k
theorem turn_slot (y : Die) (a : Agent) (k j : SlotId) : (y.turn a k).slot j = y.slot j := by cases a <;> rfl
theorem turn_reg (y : Die) (a : Agent) (k : SlotId) : (y.turn a k).reg = y.reg := by cases a <;> rfl
theorem startState_slot (s : State) (d : DieId) (a : Agent) (k : SlotId) (e : Entry) : (startState s d a k e).slot d k = { s.slot d k with toks := takeToks (s.slot d k).toks e.wait } := by
  rw [State.slot, startState, State.die_modDie_same, turn_slot]
  exact State.slot_modSlot_same _ _ _ _
theorem startState_tick (s : State) (d : DieId) (a : Agent) (k : SlotId) (e : Entry) : (startState s d a k e).tick d = s.tick d := by
  unfold State.tick Die.tick Die.getReg Die.reg?
  rw [startState, State.die_modDie_same, turn_reg, State.modSlot, State.die_modDie_same]
  rfl

section Tries
variable (hrun : s.run ⟨d, a, 8⟩ = none) (hnext : nextSlot d (s.die d) a = some k) (hq : vget (s.slot d k).q (queueOf a) = e :: rest)
  (hcp : ∀ c, a = .copy c → (s.slot d k).cpeAt = none) (hco : a = .coll → (s.slot d k).coeAt = none)
include hrun hnext hq hcp hco

theorem entryStart_tries : execEntryStart d a s = .next (frameOut (tryBlock (startState s d a k e) ⟨d, a, 8⟩ (Run.fresh e k (s.tick d))) d a) := by
  have hu : startState s d a k e = (s.modSlot d k fun t => { t with toks := takeToks t.toks e.wait }).modDie d fun y => y.turn a k := congrArg (State.modDie · d fun y => y.turn a k) (modSlot_congr rfl)
  rw [← startState_tick s d a k e, hu]
  unfold execEntryStart entryStart
  cases a with
  | copy c =>
    have hc := hcp c rfl
    simp only [hrun, hnext, hq, hc]
  | coll =>
    have hc := hco rfl
    simp only [hrun, hnext, hq, hc]
  | eng j x =>
    simp only [hrun, hnext, hq]
  | core j =>
    simp only [hrun, hnext, hq]
  | sys n =>
    simp only [hrun, hnext, hq]

end Tries

/-- The run of an entry whose block has been laid out. -/
def laidRun (r : Run) (code : List (Nat × Instr)) (count : Nat) : Run := { r with code := code, count := count, pos := if count = 0 then code.length else 0, part := 0 }

section Checked
variable {u : State} {r : Run} {y : Die} {code : List (Nat × Instr)} {count rep : Nat}

theorem tryBlock_lays (h : checkBlock d (u.die d) ((u.die d).whoRun ⟨d, a, 8⟩ r) (streamOf a) r.blk r.ent.e = .ok y none code count rep) (hb : firstBad ⟨d, a, 8⟩ none code rep = none) :
    tryBlock u ⟨d, a, 8⟩ r = (u.modDie d fun _ => y).setRun ⟨d, a, 8⟩ (laidRun r code count) := by
  unfold tryBlock
  simp only [h, hb]
  rfl
theorem tryBlock_bad {bad : Option Nat} (h : checkBlock d (u.die d) ((u.die d).whoRun ⟨d, a, 8⟩ r) (streamOf a) r.blk r.ent.e = .ok y bad code count rep)
    (hb : firstBad ⟨d, a, 8⟩ bad code rep ≠ none) : ∃ pc, tryBlock u ⟨d, a, 8⟩ r = agentFault ((u.modDie d fun _ => y).setRun ⟨d, a, 8⟩ { r with part := unchecked }) ⟨d, a, 8⟩ r ⟨2, r.blk, pc, 0, r.ent.seq, 0, 0⟩ := by
  obtain ⟨pos, hp⟩ := Option.ne_none_iff_exists'.1 hb
  refine ⟨r.blk + BitVec.ofNat 64 (2 * pos), ?_⟩
  unfold tryBlock
  simp only [h, hp]
theorem tryBlock_fault {code pos : Nat} {addr : Word} (h : checkBlock d (u.die d) ((u.die d).whoRun ⟨d, a, 8⟩ r) (streamOf a) r.blk r.ent.e = .fault y code pos addr) :
    ∃ pc, tryBlock u ⟨d, a, 8⟩ r = agentFault ((u.modDie d fun _ => y).setRun ⟨d, a, 8⟩ { r with part := unchecked }) ⟨d, a, 8⟩ r ⟨code, r.blk, pc, addr, r.ent.seq, 0, 0⟩ := by
  refine ⟨if pos = 0 then 0 else r.blk + BitVec.ofNat 64 (2 * pos), ?_⟩
  unfold tryBlock
  simp only [h]

end Checked

theorem frameOut_slot (s : State) (d : DieId) (a : Agent) (e : DieId) (j : SlotId) : (frameOut s d a).slot e j = s.slot e j := by
  unfold frameOut
  split
  · split
    · rfl
    · split
      · by_cases h : d = e
        · subst h
          rw [State.slot, State.die_modDie_same]
          rfl
        · rw [State.slot, State.die_modDie_ne _ h]
          rfl
      · rfl
  · rfl
theorem frameOut_other (s : State) (d : DieId) {a : Agent} (h : a ≠ .coll) : frameOut s d a = s := by
  cases a with
  | coll => exact absurd rfl h
  | _ => rfl
theorem setRun_coll (s : State) (d : DieId) (r : Run) : (s.setRun ⟨d, .coll, 8⟩ r).die d = { s.die d with coe := { (s.die d).coe with run := some r } } := State.die_modDie_same _ _ _
theorem frameOut_direct {s : State} {d : DieId} {r : Run} (hr : (s.die d).coe.run = some r) (h : frameCode r.code = false) : frameOut s d .coll = s := by
  unfold frameOut
  simp only [hr, h]
  exact if_pos (by simp)
theorem frameOut_frame {s : State} {d : DieId} {r : Run} {x : Fin 8} {w : Owner} (hr : (s.die d).coe.run = some r) (hp : r.part ≠ unchecked) (h : frameCode r.code = true)
    (hx : ((List.finRange 8).find? fun x => (vget (s.die d).coe.ctx x).isNone) = some x) (hw : (s.die d).coe.own = some w) :
    frameOut s d .coll = s.modDie d fun y => { y with coe := { y.coe with run := none, ctx := vset y.coe.ctx x (some (KCtx.opening r w)) } } := by
  unfold frameOut
  have hp' : (r.part == unchecked) = false := beq_false_of_ne hp
  simp only [hr, hp', h, hx, hw]
  rfl

/-- What the check of the head entry's block leaves: the slot but for its TLB and its counters, and the collective engine but for its TLB. -/
theorem checked_leaves {w : Who} {st : Stream} {blk : Word} {p : Vector Word 8} {y : Die} (h : chkDie (checkBlock d ((startState s d a k e).die d) w st blk p) = y) :
    withoutTlb (y.slot k) = withoutTlb { s.slot d k with toks := takeToks (s.slot d k).toks e.wait } ∧ coeNoTlb y.coe = coeNoTlb ((startState s d a k e).die d).coe := by
  have h1 := checkBlock_keeps (transKeeps_slot k (withoutTlb ((startState s d a k e).slot d k))) d ((startState s d a k e).die d) w st blk p rfl
  have h2 := checkBlock_keeps (transKeeps_coe (coeNoTlb ((startState s d a k e).die d).coe)) d ((startState s d a k e).die d) w st blk p rfl
  rw [h, startState_slot] at h1
  rw [h] at h2
  exact ⟨h1, h2⟩
theorem startState_coe (s : State) (d : DieId) (k : SlotId) (e : Entry) : ((startState s d .coll k e).die d).coe = { (s.die d).coe with rr := k, own := (s.ctl d k).own } := by
  rw [startState, State.die_modDie_same]
  have h : ((s.modSlot d k fun t => { t with toks := takeToks (s.slot d k).toks e.wait }).die d).slot k = { s.slot d k with toks := takeToks (s.slot d k).toks e.wait } := State.slot_modSlot_same _ _ _ _
  have hc : ((s.modSlot d k fun t => { t with toks := takeToks (s.slot d k).toks e.wait }).die d).coe = (s.die d).coe := by
    rw [State.modSlot, State.die_modDie_same]
    rfl
  simp only [Die.turn, h, hc]
  rfl
/-- A failing check is held as a fault of the engine, at the slot whose entry it is. -/
theorem checked_held {y : Die} {w : Who} {st : Stream} {blk : Word} {p : Vector Word 8} {f : FaultAt} {r : Run} (hcore : ∀ j, a ≠ .core j) (hr : r.slot = k) (hf : (s.slot d k).heldBy (agentNo a) = false)
    (h : chkDie (checkBlock d ((startState s d a k e).die d) w st blk p) = y) :
    HeldFault (.next (frameOut (agentFault (((startState s d a k e).modDie d fun _ => y).setRun ⟨d, a, 8⟩ { r with part := unchecked }) ⟨d, a, 8⟩ r f) d a)) d k (agentNo a) f.code f.addr f.unit := by
  obtain ⟨h1, h2⟩ := checked_leaves h
  let v := ((startState s d a k e).modDie d fun _ => y).setRun ⟨d, a, 8⟩ { r with part := unchecked }
  have hv : v.die d = y.setCurRun ⟨d, a, 8⟩ (some { r with part := unchecked }) := (State.die_modDie_same _ _ _).trans (by rw [State.die_modDie_same])
  have hs : withoutRuns (v.slot d k) = withoutRuns (y.slot k) := by
    rw [State.slot, hv]
    exact setCurRun_slot _ _ _ _
  have hflt : (v.slot d k).flt = (s.slot d k).flt := by
    have e1 := congrArg Slot.flt hs
    have e2 := congrArg Slot.flt h1
    exact e1.trans e2
  have hctl : (v.slot d k).ctl = (s.slot d k).ctl := by
    have e1 := congrArg Slot.ctl hs
    have e2 := congrArg Slot.ctl h1
    exact e1.trans e2
  have key := agentFault_holds (s := v) (d := d) (a := a) (r := r) (f := f) hcore (by rw [hr, ← hf]; simp only [Slot.heldBy, hflt]) fun hc o ho => by
    rw [hv, setCurRun_own] at ho
    have e2 := congrArg Coll.own h2
    rw [hc, startState_coe] at e2
    rw [hr, hctl]
    exact e2.symm.trans ho
  obtain ⟨u, hu, g, hg⟩ := key
  obtain rfl : agentFault v ⟨d, a, 8⟩ r f = u := Host.Outcome.next.inj hu
  rw [hr] at hg
  exact ⟨_, rfl, g, by rw [frameOut_slot]; exact hg⟩

/-- A frame block whose check passes moves into a free context. -/
theorem frame_leaves {r : Run} {y : Die} {code : List (Nat × Instr)} {count rep : Nat} {x : Fin 8} {w : Owner}
    (h : checkBlock d ((startState s d .coll k e).die d) (((startState s d .coll k e).die d).whoRun ⟨d, .coll, 8⟩ r) .coe r.blk r.ent.e = .ok y none code count rep)
    (hb : firstBad ⟨d, .coll, 8⟩ none code rep = none) (hfr : frameCode code = true) (hw : (s.ctl d k).own = some w)
    (hx : ((List.finRange 8).find? fun i => (vget (s.die d).coe.ctx i).isNone) = some x) :
    ((frameOut (tryBlock (startState s d .coll k e) ⟨d, .coll, 8⟩ r) d .coll).die d).coe.run = none ∧
      ((frameOut (tryBlock (startState s d .coll k e) ⟨d, .coll, 8⟩ r) d .coll).die d).coe.ctx = vset (s.die d).coe.ctx x (some (KCtx.opening (laidRun r code count) w)) ∧
      ((frameOut (tryBlock (startState s d .coll k e) ⟨d, .coll, 8⟩ r) d .coll).slot d k).toks = takeToks (s.slot d k).toks e.wait := by
  obtain ⟨h1, h2⟩ := checked_leaves (congrArg chkDie h)
  rw [startState_coe] at h2
  have hctx : y.coe.ctx = (s.die d).coe.ctx := by have := congrArg Coll.ctx h2; exact this
  have hown : y.coe.own = some w := by have := congrArg Coll.own h2; exact this.trans hw
  have htoks : (y.slot k).toks = takeToks (s.slot d k).toks e.wait := by have := congrArg Slot.toks h1; exact this
  rw [tryBlock_lays h hb]
  have hv : (((startState s d .coll k e).modDie d fun _ => y).setRun ⟨d, .coll, 8⟩ (laidRun r code count)).die d = { y with coe := { y.coe with run := some (laidRun r code count) } } := by
    rw [setRun_coll, State.die_modDie_same]
  generalize ((startState s d .coll k e).modDie d fun _ => y).setRun ⟨d, .coll, 8⟩ (laidRun r code count) = v at hv ⊢
  have hpart : (laidRun r code count).part ≠ unchecked := show 0 ≠ 9 by decide
  rw [frameOut_frame (r := laidRun r code count) (by rw [hv]) hpart hfr (by rw [hv, hctx]; exact hx) (by rw [hv]; exact hown), State.die_modDie_same, State.slot, State.die_modDie_same, hv, ← hctx]
  exact ⟨rfl, rfl, htoks⟩
theorem checkBlock_odd (y : Die) (w : Who) (st : Stream) {blk : Word} (p : Vector Word 8) (h : blk.getLsbD 0 = true) : checkBlock d y w st blk p = .fault y 1 0 0 := if_pos h
section Fails
variable {y : Die} {r : Run} (hcore : ∀ j, a ≠ .core j) (hr : r.slot = k) (hf : (s.slot d k).heldBy (agentNo a) = false)
include hcore hr hf

theorem start_faults {code pos : Nat} {addr : Word}
    (h : checkBlock d ((startState s d a k e).die d) (((startState s d a k e).die d).whoRun ⟨d, a, 8⟩ r) (streamOf a) r.blk r.ent.e = .fault y code pos addr) :
    HeldFault (.next (frameOut (tryBlock (startState s d a k e) ⟨d, a, 8⟩ r) d a)) d k (agentNo a) code addr 0 := by
  obtain ⟨pc, hp⟩ := tryBlock_fault h
  rw [hp]
  exact checked_held hcore hr hf (congrArg chkDie h)
theorem start_bad {bad : Option Nat} {code : List (Nat × Instr)} {count rep : Nat}
    (h : checkBlock d ((startState s d a k e).die d) (((startState s d a k e).die d).whoRun ⟨d, a, 8⟩ r) (streamOf a) r.blk r.ent.e = .ok y bad code count rep)
    (hb : firstBad ⟨d, a, 8⟩ bad code rep ≠ none) : HeldFault (.next (frameOut (tryBlock (startState s d a k e) ⟨d, a, 8⟩ r) d a)) d k (agentNo a) 2 0 0 := by
  obtain ⟨pc, hp⟩ := tryBlock_bad h hb
  rw [hp]
  exact checked_held hcore hr hf (congrArg chkDie h)
theorem start_odd (h : r.blk.getLsbD 0 = true) : HeldFault (.next (frameOut (tryBlock (startState s d a k e) ⟨d, a, 8⟩ r) d a)) d k (agentNo a) 1 0 0 :=
  start_faults hcore hr hf (checkBlock_odd ((startState s d a k e).die d) (((startState s d a k e).die d).whoRun ⟨d, a, 8⟩ r) (streamOf a) r.ent.e h)

end Fails
theorem start_lays {y : Die} {r : Run} {code : List (Nat × Instr)} {count rep : Nat}
    (h : checkBlock d ((startState s d a k e).die d) (((startState s d a k e).die d).whoRun ⟨d, a, 8⟩ r) (streamOf a) r.blk r.ent.e = .ok y none code count rep)
    (hb : firstBad ⟨d, a, 8⟩ none code rep = none) (hfr : a = .coll → frameCode code = false) :
    frameOut (tryBlock (startState s d a k e) ⟨d, a, 8⟩ r) d a = ((startState s d a k e).modDie d fun _ => y).setRun ⟨d, a, 8⟩ (laidRun r code count) := by
  rw [tryBlock_lays h hb]
  by_cases ha : a = .coll
  · subst ha
    exact frameOut_direct (r := laidRun r code count) (by rw [setRun_coll]) (hfr rfl)
  · exact frameOut_other _ _ ha
/-- An entry that had been given back with its slot goes on. -/
theorem entryStart_back {c : ClusterId} {r : Run} (hrun : s.run ⟨d, .copy c, 8⟩ = none) (hnext : nextSlot d (s.die d) (.copy c) = some k) (hat : (s.slot d k).cpeAt = some r) :
    ∃ t, execEntryStart d (.copy c) s = .next t ∧ t.run ⟨d, .copy c, 8⟩ = some r ∧ (t.slot d k).cpeAt = none ∧ (t.slot d k).toks = (s.slot d k).toks ∧ SameMem s t := by
  let v := (s.modSlot d k fun t => { t with cpeAt := none }).modDie d fun y => y.turn (.copy c) k
  have he : execEntryStart d (.copy c) s = .next (v.setRun ⟨d, .copy c, 8⟩ r) := by
    unfold execEntryStart entryStart
    simp only [hrun, hnext, hat]
    rfl
  have hslot : (v.setRun ⟨d, .copy c, 8⟩ r).slot d k = { s.slot d k with cpeAt := none } := by
    rw [State.slot, State.setRun, State.die_modDie_same]
    change (v.die d).slot k = _
    rw [State.die_modDie_same, turn_slot]
    exact State.slot_modSlot_same _ _ _ _
  refine ⟨_, he, ?_, ?_, ?_, ?_⟩
  · rw [State.run, State.setRun, State.die_modDie_same]
    simp [Die.curRun, Die.run, Die.setCurRun, Die.setRun]
  · rw [hslot]
  · rw [hslot]
  · exact ((sameMem_modSlot s d k _).trans (sameMem_modDie _ d _ rfl)).trans (setRun_sameMem v ⟨d, .copy c, 8⟩ r)

end Start

/-! ## The end of an entry -/

section Complete
variable {s : State} {d : DieId} {a : Agent} {r : Run}

/-- The engine without its entry, and the sequencer's order without its head (R43). -/
def leftState (s : State) (d : DieId) (a : Agent) : State :=
  match a with
  | .eng k .mxe => (s.setRun? ⟨d, a, 8⟩ none).modSlot d k fun t => { t with mord := t.mord.drop 1 }
  | _ => s.setRun? ⟨d, a, 8⟩ none
/-- A slot but for the runs of its engines and the order of its sequencer. -/
def withoutOrder (t : Slot) : Slot := { withoutRuns t with mord := [] }
theorem leftState_slot (s : State) (d : DieId) (a : Agent) (j : SlotId) : withoutOrder ((leftState s d a).slot d j) = withoutOrder (s.slot d j) := by
  have h : withoutOrder ((s.setRun? ⟨d, a, 8⟩ none).slot d j) = withoutOrder (s.slot d j) := by
    rw [State.slot, State.setRun?, State.die_modDie_same]
    exact congrArg (fun t : Slot => { t with mord := [] }) (setCurRun_slot (s.die d) ⟨d, a, 8⟩ none j)
  unfold leftState
  split
  · refine Eq.trans ?_ h
    rw [State.slot, State.modSlot, State.die_modDie_same]
    exact slot_modSlot_keeps withoutOrder _ _ j fun _ => rfl
  · exact h
theorem leftState_ne (s : State) (d : DieId) (a : Agent) {e : DieId} (he : e ≠ d) : (leftState s d a).die e = s.die e := by
  unfold leftState
  split
  · rw [State.die_modSlot_ne _ (Ne.symm he), State.setRun?, State.die_modDie_ne _ (Ne.symm he)]
  · rw [State.setRun?, State.die_modDie_ne _ (Ne.symm he)]

theorem entryComplete_goes (hrun : s.run ⟨d, a, 8⟩ = some r) (hpart : r.part ≠ unchecked) (hpos : r.code.length ≤ r.pos) (hsb : (s.ag d a).sb = []) (hrd : (s.ag d a).rd = [])
    (hasm : (s.ag d a).asm = []) (href : (s.ag d a).refused = []) (hheld : (s.die d).runHeld ⟨d, a, 8⟩ r = false) (hbound : (s.die d).runBound ⟨d, a, 8⟩ r = true) :
    execEntryComplete d a s = .next (completeEntry (leftState s d a) d r.slot (queueOf a) (agentNo a) r.ent r.flags) := by
  have hq : (s.ag d a).quiet = true := by simp [AgentSt.quiet, hsb, hrd, hasm]
  have hr : (s.die d).entryRefused ⟨d, a, 8⟩ r = false := by
    have : ((s.die d).ag a).refused = [] := href
    simp [Die.entryRefused, this]
  unfold execEntryComplete entryComplete
  simp only [hrun]
  rw [if_neg (by simp [hpart, hpos, hq, hheld, hbound, hr])]
  cases a with
  | eng k e => cases e <;> rfl
  | _ => rfl

/-- What a completing entry makes of its strand's slot. -/
def finishSlot (q : Fin 6) (e : Entry) (fl : BitVec 7) (t : Slot) : Slot :=
  { (t.mergeFlags fl) with q := vmod t.q q (·.drop 1), cseq := vmod t.cseq q (· + 1), toks := (gainToks t.toks e.sig).1 }
def finishState (s : State) (d : DieId) (k : SlotId) (q : Fin 6) (e : Entry) (fl : BitVec 7) : State := (s.modSlot d k (finishSlot q e fl)).modDie d fun y => y.countSlot d k 8 1
theorem countSlot_keep {α : Type} (F : Slot → α) (hF : ∀ t p, F { t with pmc := p } = F t) (y : Die) (dn : DieId) (k j : SlotId) (ev n : Nat) : F ((y.countSlot dn k ev n).slot j) = F (y.slot j) := by
  unfold Die.countSlot
  split
  · exact slot_modSlot_keeps F y k j fun _ => hF _ _
  · rfl
section Finish
variable {α : Type} (F : Slot → α) (hF : ∀ t p, F { t with pmc := p } = F t) (s : State) (d : DieId) (k : SlotId) (q : Fin 6) (e : Entry) (fl : BitVec 7)
include hF
theorem finishState_slot : F ((finishState s d k q e fl).slot d k) = F (finishSlot q e fl (s.slot d k)) := by
  rw [State.slot, finishState, State.die_modDie_same, countSlot_keep F hF]
  exact congrArg F (State.slot_modSlot_same _ _ _ _)
theorem finishState_keep (hf : ∀ t, F (finishSlot q e fl t) = F t) (j : SlotId) : F ((finishState s d k q e fl).slot d j) = F (s.slot d j) := by
  rw [State.slot, finishState, State.die_modDie_same, countSlot_keep F hF, State.modSlot, State.die_modDie_same]
  exact slot_modSlot_keeps F _ k j hf

end Finish
theorem countSlot_rest (y : Die) (dn : DieId) (k : SlotId) (ev n : Nat) : y.countSlot dn k ev n = { y with slots := (y.countSlot dn k ev n).slots } := by
  unfold Die.countSlot
  split <;> rfl
theorem finishState_ne {s : State} {d e' : DieId} (k : SlotId) (q : Fin 6) (e : Entry) (fl : BitVec 7) (h : e' ≠ d) : (finishState s d k q e fl).die e' = s.die e' := by
  rw [finishState, State.die_modDie_ne _ (Ne.symm h), State.die_modSlot_ne _ (Ne.symm h)]
theorem finishState_rest (s : State) (d : DieId) (k : SlotId) (q : Fin 6) (e : Entry) (fl : BitVec 7) : (finishState s d k q e fl).die d = { s.die d with slots := ((finishState s d k q e fl).die d).slots } := by
  rw [finishState, State.die_modDie_same, countSlot_rest, State.modSlot, State.die_modDie_same]
  rfl
theorem completeEntry_eq (s : State) (d : DieId) (k : SlotId) (q : Fin 6) (n : Nat) (e : Entry) (fl : BitVec 7) :
    completeEntry s d k q n e fl = if (gainToks (s.slot d k).toks e.sig).2 then takeFault (finishState s d k q e fl) d k n ⟨10, e.hdr, 0, 0, e.seq, 0, 0⟩ else finishState s d k q e fl := by
  have h : s.modSlot d k (fun t => { (t.mergeFlags fl) with q := vmod t.q q (·.drop 1), cseq := vmod t.cseq q (· + 1), toks := (gainToks (s.slot d k).toks e.sig).1 }) = s.modSlot d k (finishSlot q e fl) :=
    modSlot_congr rfl
  unfold completeEntry
  dsimp only
  rw [h]
  rfl
theorem gainToks_over {v : Vector Byte 8} {m : Byte} : (gainToks v m).2 = true ↔ ∃ i : Fin 8, m.getLsbD i.val = true ∧ vget v i = 255 := by
  simp [gainToks]
theorem gainToks_get {v : Vector Byte 8} {m : Byte} (h : ∀ i : Fin 8, m.getLsbD i.val = true → vget v i ≠ 255) (i : Fin 8) : vget (gainToks v m).1 i = if m.getLsbD i.val then vget v i + 1 else vget v i := by
  have : vget (gainToks v m).1 i = if (m.getLsbD i.val && vget v i != 255) = true then vget v i + 1 else vget v i := by
    simp [gainToks, vget]
  rw [this]
  cases hm : m.getLsbD i.val with
  | false => rfl
  | true => rw [if_pos (by simpa using h i hm)]; rfl

theorem finishState_run (s : State) (d : DieId) (a : Agent) (k : SlotId) (q : Fin 6) (e : Entry) (fl : BitVec 7) : (finishState s d k q e fl).run ⟨d, a, 8⟩ = s.run ⟨d, a, 8⟩ := by
  cases a with
  | eng j x => cases x with
    | lde => exact finishState_keep Slot.lde (fun _ _ => rfl) s d k q e fl (fun _ => rfl) j
    | are => exact finishState_keep Slot.are (fun _ _ => rfl) s d k q e fl (fun _ => rfl) j
    | ste => exact finishState_keep Slot.ste (fun _ _ => rfl) s d k q e fl (fun _ => rfl) j
    | mxe => exact finishState_keep Slot.mxe (fun _ _ => rfl) s d k q e fl (fun _ => rfl) j
  | copy c => rw [State.run, finishState_rest]; rfl
  | coll => rw [State.run, finishState_rest]; rfl
  | core j => rfl
  | sys n => rfl
theorem leftState_run (s : State) (d : DieId) (a : Agent) : (leftState s d a).run ⟨d, a, 8⟩ = none := by
  have h : (s.setRun? ⟨d, a, 8⟩ none).die d = (s.die d).setCurRun ⟨d, a, 8⟩ none := State.die_modDie_same _ _ _
  cases a with
  | eng j x => cases x with
    | mxe =>
      change (((s.setRun? ⟨d, .eng j .mxe, 8⟩ none).modSlot d j fun t => { t with mord := t.mord.drop 1 }).slot d j).mxe = none
      rw [State.slot_modSlot_same, State.slot, h]
      exact congrArg Slot.mxe (Die.slot_modSlot_same _ _ _)
    | lde => exact (congrArg (fun y : Die => (y.slot j).lde) h).trans (congrArg Slot.lde (Die.slot_modSlot_same _ _ _))
    | are => exact (congrArg (fun y : Die => (y.slot j).are) h).trans (congrArg Slot.are (Die.slot_modSlot_same _ _ _))
    | ste => exact (congrArg (fun y : Die => (y.slot j).ste) h).trans (congrArg Slot.ste (Die.slot_modSlot_same _ _ _))
  | copy c => exact (congrArg (fun y : Die => (vget y.cpe c).run) h).trans (by simp [Die.setCurRun, Die.setRun])
  | coll => exact congrArg (fun y : Die => y.coe.run) h
  | core j => rfl
  | sys n => rfl
theorem leftState_mord (s : State) (d : DieId) (k : SlotId) : ((leftState s d (.eng k .mxe)).slot d k).mord = (s.slot d k).mord.drop 1 := by
  have h : (s.setRun? ⟨d, .eng k .mxe, 8⟩ none).slot d k = { s.slot d k with mxe := none } := (congrArg (Die.slot · k) (State.die_modDie_same _ _ _)).trans (Die.slot_modSlot_same _ _ _)
  change (((s.setRun? ⟨d, .eng k .mxe, 8⟩ none).modSlot d k fun t => { t with mord := t.mord.drop 1 }).slot d k).mord = _
  rw [State.slot_modSlot_same, h]
theorem leftState_sameMem (s : State) (d : DieId) (a : Agent) : SameMem s (leftState s d a) := by
  have h : SameMem s (s.setRun? ⟨d, a, 8⟩ none) := sameMem_modDie s d _ (Die.setCurRun_mem _ _ _)
  unfold leftState
  split
  · exact h.trans (sameMem_modSlot _ _ _ _)
  · exact h

section Done
variable {k : SlotId} {q : Fin 6} {e : Entry} {rest : List Entry} {fl : BitVec 7}

theorem leftState_toks : ((leftState s d a).slot d k).toks = (s.slot d k).toks := by have := congrArg Slot.toks (leftState_slot s d a k); exact this
/-- What the completion of an entry leaves, no channel of its own standing at 255. -/
theorem complete_leaves (hq : vget (s.slot d k).q q = e :: rest) (hsig : ∀ i : Fin 8, e.sig.getLsbD i.val = true → vget (s.slot d k).toks i ≠ 255) :
    completeEntry (leftState s d a) d k q (agentNo a) e fl = finishState (leftState s d a) d k q e fl ∧
    (finishState (leftState s d a) d k q e fl).run ⟨d, a, 8⟩ = none ∧ vget ((finishState (leftState s d a) d k q e fl).slot d k).q q = rest ∧
    vget ((finishState (leftState s d a) d k q e fl).slot d k).cseq q = vget (s.slot d k).cseq q + 1 ∧ SameMem s (finishState (leftState s d a) d k q e fl) ∧
    (∀ p, p ≠ q → vget ((finishState (leftState s d a) d k q e fl).slot d k).q p = vget (s.slot d k).q p ∧ vget ((finishState (leftState s d a) d k q e fl).slot d k).cseq p = vget (s.slot d k).cseq p) ∧
    (∀ e', e' ≠ d → (finishState (leftState s d a) d k q e fl).die e' = s.die e') ∧
    (∀ i : Fin 8, vget ((finishState (leftState s d a) d k q e fl).slot d k).toks i = if e.sig.getLsbD i.val then vget (s.slot d k).toks i + 1 else vget (s.slot d k).toks i) ∧
    ((finishState (leftState s d a) d k q e fl).ctl d k).csr = { (s.ctl d k).csr with vflags := (s.ctl d k).csr.vflags ||| fl } ∧
    ∀ b, a = .eng b .mxe → ((finishState (leftState s d a) d k q e fl).slot d b).mord = (s.slot d b).mord.drop 1 := by
  have hslot : withoutOrder ((leftState s d a).slot d k) = withoutOrder (s.slot d k) := leftState_slot s d a k
  have hover : (gainToks ((leftState s d a).slot d k).toks e.sig).2 = false := by
    rw [leftState_toks, ← Bool.not_eq_true, gainToks_over]
    exact fun ⟨i, hi, h255⟩ => hsig i hi h255
  have hq' : ((finishState (leftState s d a) d k q e fl).slot d k).q = vmod (s.slot d k).q q (·.drop 1) := by
    have := congrArg Slot.q hslot
    exact (finishState_slot Slot.q (fun _ _ => rfl) _ d k q e fl).trans (congrArg (fun v : Vector (List Entry) 6 => vmod v q fun l => l.drop 1) this)
  have hc' : ((finishState (leftState s d a) d k q e fl).slot d k).cseq = vmod (s.slot d k).cseq q (· + 1) := by
    have := congrArg Slot.cseq hslot
    exact (finishState_slot Slot.cseq (fun _ _ => rfl) _ d k q e fl).trans (congrArg (fun v : Vector W32 6 => vmod v q fun n => n + 1) this)
  have ht' : ((finishState (leftState s d a) d k q e fl).slot d k).toks = (gainToks (s.slot d k).toks e.sig).1 :=
    (finishState_slot Slot.toks (fun _ _ => rfl) _ d k q e fl).trans (congrArg (fun v => (gainToks v e.sig).1) leftState_toks)
  have hcsr : ((leftState s d a).slot d k).ctl.csr = (s.slot d k).ctl.csr := by have := congrArg (fun t : Slot => t.ctl.csr) hslot; exact this
  have hx' : ((finishState (leftState s d a) d k q e fl).slot d k).ctl.csr = { ((leftState s d a).slot d k).ctl.csr with vflags := ((leftState s d a).slot d k).ctl.csr.vflags ||| fl } :=
    finishState_slot (fun t => t.ctl.csr) (fun _ _ => rfl) _ d k q e fl
  refine ⟨by rw [completeEntry_eq, hover]; rfl, (finishState_run _ _ _ _ _ _ _).trans (leftState_run _ _ _), ?_, ?_, ?_, fun p hp => ⟨?_, ?_⟩, fun e hne => ?_, fun i => ?_, ?_, fun b hb => ?_⟩
  · rw [hq', vget_vmod_same, hq]; rfl
  · rw [hc', vget_vmod_same]
  · exact (leftState_sameMem s d a).trans ((sameMem_modSlot _ _ _ _).trans (sameMem_modDie _ d _ (Die.countSlot_mem _ _ _ _ _)))
  · rw [hq', vget_vmod_ne _ (Ne.symm hp)]
  · rw [hc', vget_vmod_ne _ (Ne.symm hp)]
  · rw [finishState_ne _ _ _ _ hne, leftState_ne _ _ _ hne]
  · rw [ht', gainToks_get hsig]
  · rw [State.ctl, hx', hcsr]
    rfl
  · subst hb
    rw [finishState_keep Slot.mord (fun _ _ => rfl) _ _ _ _ _ _ fun _ => rfl]
    exact leftState_mord s d b
/-- A channel of the entry's own that stands at 255 is a token fault of the engine. -/
theorem complete_held (ha : ∀ j, a ≠ .core j) (hsig : ∃ i : Fin 8, e.sig.getLsbD i.val = true ∧ vget (s.slot d k).toks i = 255) (hf : (s.slot d k).heldBy (agentNo a) = false) :
    HeldFault (.next (completeEntry (leftState s d a) d k q (agentNo a) e fl)) d k (agentNo a) 10 0 0 := by
  have hover : (gainToks ((leftState s d a).slot d k).toks e.sig).2 = true := by
    rw [leftState_toks]
    exact gainToks_over.2 hsig
  have hflt : ((leftState s d a).slot d k).flt = (s.slot d k).flt := by have := congrArg Slot.flt (leftState_slot s d a k); exact this
  have hf' : ((finishState (leftState s d a) d k q e fl).slot d k).heldBy (agentNo a) = false := by
    have := finishState_slot Slot.flt (fun _ _ => rfl) (leftState s d a) d k q e fl
    rw [← hf]
    simp only [Slot.heldBy, this]
    exact congrArg (fun v => (vget v (agNum (agentNo a))).isSome) hflt
  rw [completeEntry_eq, hover]
  exact takeFault_engHeld (agentNo_ne ha) hf'

end Done
end Complete

/-- Settles O24: whose entry is next, how it starts and how it completes. -/
theorem entriesStartAndComplete : Obligations.EntriesStartAndComplete := by
  refine ⟨fun d y k => ?_, fun s d a k e rest hcore hsys => ?_, fun s d a hrun hnext => ?_, fun s d c k r hrun hnext hat_ => ?_, fun s d a r rest hcore hsys => ?_⟩
  · intro able
    have can {j : SlotId} {q : Fin 6} {n : Nat} : (headCan y j q n).isSome = true ↔ able j q n := headCan_iff
    refine ⟨fun j => ite_some_iff.trans (and_congr_right' can), fun j => ite_some_iff.trans (and_congr_right' can), fun j => ite_some_iff.trans (and_congr_right' can), fun j => ?_, fun c => ?_, fun h => ?_⟩
    · cases hm : (y.slot k).mord with
      | nil => simp [nextSlot, hm]
      | cons i l =>
        simp only [nextSlot, hm]
        refine ite_some_iff.trans ?_
        simp only [List.head?_cons, Option.some.injEq]
        constructor
        · rintro ⟨rfl, hc⟩; exact ⟨rfl, can.1 hc⟩
        · rintro ⟨rfl, hc⟩; exact ⟨rfl, can.2 hc⟩
    · intro back turn h
      have hp (j : SlotId) : cpeMay y j = true ↔ able j 4 5 ∨ back j := by
        rw [cpeMay, Bool.or_eq_true, can]
        simp [back, and_assoc]
      obtain ⟨h1, h2, h3⟩ := nextSlot_copy h
      exact ⟨(mem_turnList c _ k).1 h1, (hp k).1 h2, fun j hj ha => h3 j ((mem_turnList c _ j).2 hj) ((hp j).2 ha)⟩
    · have hk := nextSlot_coll h
      exact ⟨fun ha => can.1 (coeMay_head hk ha), fun i x hx hs => coeMay_free hk hx hs⟩
  · intro n hrun hnext hq hcp hco hf toks u r chk laid
    have he := (exec_entryStart d a s).trans (entryStart_tries hrun hnext hq hcp hco)
    refine ⟨fun y code count rep h hb hfr => he.trans (congrArg Host.Outcome.next (start_lays h hb hfr)), fun y code count rep x w h hb ha hfr hw hx => ?_, fun y code pos addr h => ?_,
      fun y bad code count rep h hb => ?_, fun hodd => ?_⟩
    · subst ha
      obtain ⟨h1, h2, h3⟩ := frame_leaves h hb hfr hw hx
      exact ⟨_, he, h1, h2, h3⟩
    · rw [he]; exact start_faults hcore rfl hf h
    · rw [he]; exact start_bad hcore rfl hf h hb
    · rw [he]; exact start_odd hcore rfl hf hodd
  · refine (exec_entryStart d a s).trans ?_
    unfold execEntryStart entryStart
    simp only [hrun, hnext]
  · obtain ⟨t, he, h1, h2, h3, h4⟩ := entryStart_back hrun hnext hat_
    exact ⟨t, (exec_entryStart d (.copy c) s).trans he, h1, h2, h3, h4⟩
  · intro k q hrun hq hpart hpos hsb hrd hasm href hheld hbound
    have he := (exec_entryComplete d a s).trans (entryComplete_goes hrun hpart hpos hsb hrd hasm href hheld hbound)
    refine ⟨fun hsig => ?_, fun hsig hf => ?_⟩
    · obtain ⟨h0, h1, h2, h3, h4, h5, h6, h7, h8, h9⟩ := complete_leaves (a := a) hq hsig (fl := r.flags)
      exact ⟨_, he.trans (congrArg Host.Outcome.next h0), h1, h2, h3, h4, h5, h6, h7, h8, h9⟩
    · rw [he]
      exact complete_held hcore hsig hf

end Sys2Proof.Proofs
end

section
/-! SUPPORT. Rows that the load engine asks for (O25). -/

namespace Sys2Proof.Proofs

open Sys2Proof Sys2Proof.Machine Sys2Proof.Laws

/-- The instruction at hand of an engine is run on the entry it names. -/
theorem engDo_atRun {s : State} {d : DieId} {a : Agent} {r : Run} (f : State → Cur → Run → State) (h : AtRun s d a r) :
    engDo f s = .next (f s ⟨d, a, 8⟩ r) := by
  have hr : s.run s.cur = some r := by rw [h.cur]; exact h.run
  rw [engDo_run f hr, h.cur]

section LoadStep
variable {s : State} {c : Cur} {r : Run} {na : BitVec 2} {n : Nat} {nd : Need} {psn : Bool} {b : Got (Run × Bool)}
  {parts : Nat → Except (Nat × Word) (List Part)}

theorem loadStep_row {ps : List Part} {y : Die} {qs : List (Part × Piece)} (hs : r.started = true) (hu : r.unit < n) (hp : parts r.unit = .ok ps)
    (ha : accessParts c.die ((s.die c.die).who c.ag r.slot) nd ps (s.die c.die) = .ok y qs) :
    loadStep s c r na n nd psn b parts = (issueReads (s.modDie c.die fun _ => y) c r r.unit r.unit psn qs).setRun c { r with unit := r.unit + 1 } := by
  simp [loadStep, hs, hu, hp, ha]

theorem loadStep_over (hs : r.started = true) (hu : n ≤ r.unit) (ha : (s.ag c.die c.ag).asm = []) :
    loadStep s c r na n nd psn b parts = s.advRun c { r with rw := r.rw + n } na := by
  simp [loadStep, hs, Nat.not_lt.2 hu, ha]

theorem loadStep_begins {s' : State} {r' : Run} {go : Bool} (hs : r.started = false) (hb : b = .ok s' (r', go)) :
    loadStep s c r na n nd psn b parts = s'.setRun c { r' with started := go } := by
  simp [loadStep, hs, hb]

theorem loadStep_bad {s' : State} {code : Nat} {a : Word} (hs : r.started = false) (hb : b = .fault s' code a) :
    loadStep s c r na n nd psn b parts = startFault s' c r code a := by
  simp [loadStep, hs, hb]
end LoadStep

theorem plane_active (x : TileRec) : x.plane false = vget x.pl (if x.act then 1 else 0) := by
  cases h : x.act <;> simp [TileRec.plane, h]

theorem plane_latent (x : TileRec) : x.plane true = vget x.pl (if x.act then 0 else 1) := by
  cases h : x.act <;> simp [TileRec.plane, h]

theorem recParts_ok {r : Run} {o : EOp} {va : Word} {latent : Bool} {i : Nat} {c : RecCopy} {x : TileRec} (hc : r.rcpy = some c) (hx : parseRec c.bytes = some x)
    (hi : firstRow r o + i < x.rows) : recParts r o va latent i = .ok (x.parts latent (firstRow r o + i) (fscaled o.fmt)) := by
  have hr : r.rec? = some x := by simp [Run.rec?, hc, hx]
  simp [recParts, hr, Nat.not_le.2 hi]

theorem ldrLen_eq (o : EOp) : ldrLen o = if o.f1 = opRQ then 8 else if (eMod o).oc = 0 then 512 else 512 * fwidth (eMod o).oc / fwidth o.fmt := by
  simp [ldrLen, memLen]

/-- Settles O25: a started word of the load engine issues the lines of its next row, and is over once its last row has arrived. -/
theorem loadWordsReadTheirRows : Obligations.LoadWordsReadTheirRows := by
  unfold Obligations.LoadWordsReadTheirRows
  intro s d k r o h hk hs w at_ n i mem reads sc idx
  subst hk
  have at_eq (b : Word) (off : Int) : at_ b off = addrAt b off := rfl
  refine ⟨?_, ?_, ?_, ?_, ?_, ?_, ?_⟩
  · intro hu y qs ha
    refine (exec_ldr o s).trans ((engDo_atRun _ h).trans (congrArg _ (loadStep_row hs hu ?_ ha)))
    simp only [plainPart, rowAddr, ldrLen_eq, at_eq, mem, i]
  · intro hu y qs ha
    refine (exec_ldt o s).trans ((engDo_atRun _ h).trans (congrArg _ (loadStep_row hs hu ?_ ha)))
    simp only [rowParts, at_eq, i, sc]
    push_cast
    rfl
  · intro hu y qs ha
    exact (exec_ldsc o s).trans ((engDo_atRun _ h).trans (congrArg _ (loadStep_row hs hu rfl ha)))
  · intro v hv hu y qs ha
    have hi : r.idxPsn = idx := rfl
    refine (exec_ldx o s).trans ((engDo_atRun _ h).trans ?_)
    rw [← hi]
    refine congrArg _ (loadStep_row hs hu ?_ ha)
    simp only [plainPart, indexAddr, memLen, hv, at_eq, mem, i]
  · intro c x hc hx hrows b hu y qs ha
    refine (exec_ldrec o s).trans ((engDo_atRun _ h).trans (congrArg _ (loadStep_row hs hu ?_ ha)))
    rw [recParts_ok hc hx hrows, TileRec.parts, plane_active]
    simp only [rowParts, at_eq, i, sc, b]
    push_cast
    rfl
  · intro p hp a hu y qs ha
    refine (exec_ldv o s).trans ((engDo_atRun _ h).trans (congrArg _ (loadStep_row hs hu ?_ ha)))
    simp only [hp, rowParts, rowAddr, at_eq, i, sc, a]
  · intro hu ha x hx
    have ends {nd : Need} {psn : Bool} {b : Got (Run × Bool)} {parts : Nat → Except (Nat × Word) (List Part)} :
        loadStep s ⟨d, .eng r.slot .lde, 8⟩ r o.na (eCount o 0) nd psn b parts = s.setRun ⟨d, .eng r.slot .lde, 8⟩ ({ r with rw := r.rw + eCount o 0 }.adv o.na) :=
      loadStep_over hs hu ha
    rcases hx with rfl | rfl | rfl | rfl | rfl | rfl
    · exact (exec_ldr o s).trans ((engDo_atRun _ h).trans (congrArg _ ends))
    · exact (exec_ldt o s).trans ((engDo_atRun _ h).trans (congrArg _ ends))
    · exact (exec_ldsc o s).trans ((engDo_atRun _ h).trans (congrArg _ ends))
    · exact (exec_ldx o s).trans ((engDo_atRun _ h).trans (congrArg _ ends))
    · exact (exec_ldrec o s).trans ((engDo_atRun _ h).trans (congrArg _ ends))
    · exact (exec_ldv o s).trans ((engDo_atRun _ h).trans (congrArg _ ends))

end Sys2Proof.Proofs
end

section
/-! SUPPORT. Tile rows: what a load's start empties and what a row written holds (R65, R81, R209). -/

namespace Sys2Proof.Proofs

open Sys2Proof Sys2Proof.Machine Sys2Proof.Laws

/-! ## Sparse rows -/

theorem length_spRead {α : Type} (z : α) (l : Sparse α) (a n : Nat) : (spRead z l a n).length = n := by
  induction n generalizing a with
  | zero => rfl
  | succ n ih => simp [spRead, ih]
theorem spRead_eq {α : Type} (z : α) (l : Sparse α) (a n : Nat) : spRead z l a n = (List.range n).map fun i => spGet z l (a + i) := by
  induction n generalizing a with
  | zero => rfl
  | succ n ih =>
    rw [spRead, ih, List.range_succ_eq_map, List.map_cons, List.map_map]
    refine congrArg _ (List.map_congr_left fun i _ => ?_)
    simp only [Function.comp, Nat.succ_eq_add_one]
    congr 1
    omega

section SpWrite
variable {α : Type} [DecidableEq α] {z : α} {l : Sparse α}

theorem spRead_spWrite_same (h : spWf z l = true) (a : Nat) (bs : List α) : spRead z (spWrite z l a bs) a bs.length = bs := by
  rw [spRead_eq]
  refine List.ext_getElem (by simp) fun i h1 h2 => ?_
  rw [List.getElem_map, List.getElem_range, spGet_spWrite z bs l a _ h, if_pos ⟨Nat.le_add_right _ _, by omega⟩, Nat.add_sub_cancel_left]
  exact List.getD_eq_getElem _ _ h2
theorem spRead_spWrite_apart (h : spWf z l = true) {a c n : Nat} {bs : List α} (hd : a + bs.length ≤ c ∨ c + n ≤ a) :
    spRead z (spWrite z l a bs) c n = spRead z l c n := by
  rw [spRead_eq, spRead_eq]
  refine List.map_congr_left fun i hi => ?_
  rw [List.mem_range] at hi
  rw [spGet_spWrite z bs l a _ h, if_neg (by omega)]
end SpWrite

theorem length_padTo {α : Type} (z : α) (n : Nat) (l : List α) : (padTo z n l).length = n := by
  simp [padTo]
theorem length_asmBytes (x : Asm) (a n : Nat) : (x.bytes a n).length = n := by
  simp [Asm.bytes]

/-! ## A row written (R65, R81, R381) -/

section Put
variable {t : Tile} {row : Nat} {v : RowVal} {sc : Bool}

theorem put_tag (t : Tile) (row : Nat) (v : RowVal) (sc : Bool) : (t.put row v sc).tag = t.tag := rfl
theorem put_isFull (hr : row < 64) (j : Nat) : (t.put row v sc).isFull j = if j = row then true else t.isFull j := getLsbD_bvPut _ hr _ _
theorem put_isPsn (hr : row < 64) (j : Nat) : (t.put row v sc).isPsn j = if j = row then v.psn || (!sc && fscaled t.tag && t.isPsn row) else t.isPsn j := getLsbD_bvPut _ hr _ _

theorem put_data (hd : spWf 0 t.data = true) (hv : v.data.length = 512) (j : Nat) :
    ((t.put row v sc).row j).data = if j = row then v.data else (t.row j).data := by
  change spRead 0 (spWrite 0 t.data (512 * row) v.data) (512 * j) 512 = if j = row then v.data else spRead 0 t.data (512 * j) 512
  split
  · next h =>
    rw [h]
    have := spRead_spWrite_same hd (512 * row) v.data
    rwa [hv] at this
  · exact spRead_spWrite_apart hd (by omega)
theorem put_side (hs : spWf 0 t.side = true) (hv : sc = true → v.side.length = 192) (j : Nat) :
    ((t.put row v sc).row j).side = if j = row ∧ sc = true then v.side else (t.row j).side := by
  cases sc with
  | false =>
    rw [if_neg fun h => Bool.false_ne_true h.2]
    rfl
  | true =>
    change spRead 0 (spWrite 0 t.side (192 * row) v.side) (192 * j) 192 = if j = row ∧ true = true then v.side else spRead 0 t.side (192 * j) 192
    have hv := hv rfl
    split
    · next h =>
      rw [h.1]
      have := spRead_spWrite_same hs (192 * row) v.side
      rwa [hv] at this
    · next h =>
      have : j ≠ row := fun e => h ⟨e, rfl⟩
      exact spRead_spWrite_apart hs (by omega)
end Put

/-! ## The start of a load (R209) -/

theorem setEmpty_isFull (t : Tile) (r j : Nat) (hj : j < 64) : (t.setEmpty r).isFull j = if j = r then false else t.isFull j := by
  by_cases hr : r < 64
  · exact getLsbD_bvPut _ hr _ _
  · rw [if_neg (by omega)]
    change (t.full &&& ~~~(1#64 <<< r)).getLsbD j = t.full.getLsbD j
    rw [BitVec.getLsbD_and, BitVec.getLsbD_not, BitVec.getLsbD_shiftLeft]
    simp [hj, show j < r by omega]

/-- Rows `f` to `f + n` empty, the tile being `t` before. -/
def emptied (t : Tile) (f n : Nat) : Tile := (List.range n).foldl (fun t i => t.setEmpty (f + i)) t

theorem start_eq (t : Tile) (f n : Nat) (tag : Option Tag) : t.start f n tag = emptied { t with tag := tag.getD t.tag } f n := rfl
theorem emptied_succ (t : Tile) (f n : Nat) : emptied t f (n + 1) = (emptied t f n).setEmpty (f + n) := by
  simp only [emptied, List.range_succ, List.foldl_append, List.foldl_cons, List.foldl_nil]
/-- The start of a load keeps everything of the tile but the full bits. -/
theorem emptied_rest (t : Tile) (f n : Nat) : emptied t f n = { t with full := (emptied t f n).full } := by
  induction n with
  | zero => rfl
  | succ n ih => rw [emptied_succ, ih]; rfl
theorem emptied_isFull (t : Tile) (f n j : Nat) (hj : j < 64) : (emptied t f n).isFull j = if f ≤ j ∧ j < f + n then false else t.isFull j := by
  induction n with
  | zero => rw [if_neg (by omega)]; rfl
  | succ n ih =>
    rw [emptied_succ, setEmpty_isFull _ _ _ hj, ih]
    by_cases h : j = f + n
    · rw [if_pos h, if_pos (by omega)]
    · rw [if_neg h]
      exact if_congr (by omega) rfl rfl

theorem tidx_ne {i j : BitVec 5} (hi : isTile i = true) (hj : isTile j = true) (h : j ≠ i) : tidx i ≠ tidx j := by
  intro e
  have e := congrArg Fin.val e
  simp only [isTile, decide_eq_true_eq] at hi hj
  simp only [tidx] at e
  exact h (BitVec.eq_of_toNat_eq (by omega))
theorem modTile_tile_same (t : Slot) (c : BitVec 5) (f : Tile → Tile) : (t.modTile c f).tile c = f (t.tile c) := vget_vmod_same _ _ _
theorem modTile_tile_ne (t : Slot) {c j : BitVec 5} (hc : isTile c = true) (hj : isTile j = true) (h : j ≠ c) (f : Tile → Tile) : (t.modTile c f).tile j = t.tile j :=
  vget_vmod_ne _ (tidx_ne hc hj h) _

end Sys2Proof.Proofs
end

section
/-! SUPPORT. Load words not yet started, prefetch, port configuration and arriving rows (O26). -/

namespace Sys2Proof.Proofs

open Sys2Proof Sys2Proof.Machine Sys2Proof.Laws

/-! ## The load engine's run and its faults -/

theorem ldeRun_slot (s : State) (d : DieId) (k : SlotId) (r : Run) : (s.setRun ⟨d, .eng k .lde, 8⟩ r).slot d k = { s.slot d k with lde := some r } := by
  simp only [State.setRun, State.slot, State.die_modDie_same, setCurRun_engine (c := ⟨d, .eng k .lde, 8⟩) rfl, Die.setRun, Die.slot_modSlot_same]

/-- A word of the load engine that fails before any row. -/
theorem ldeFault_held {s : State} {d : DieId} {r : Run} {code : Nat} (a : Word) (hc : code < 20) (hf : (s.slot d r.slot).heldBy 1 = false) :
    HeldFault (.next (startFault s ⟨d, .eng r.slot .lde, 8⟩ r code a)) d r.slot 1 code a 0 := by
  have h (f : FaultAt) := agentFault_holds (s := s) (d := d) (a := .eng r.slot .lde) (r := r) (f := f) nofun hf nofun
  have ha : (20 ≤ code && code ≤ 24) = false := by simp; omega
  have h := h ⟨code, r.blk, if (match r.code[r.pos]? with | some x => x.1 | none => 0) == 0 then 0 else r.blk + BitVec.ofNat 64 (2 * (match r.code[r.pos]? with | some x => x.1 | none => 0)), a, r.ent.seq, 0, 0⟩
  unfold startFault runFault
  rw [ha]
  exact h

theorem misaligned_none {a st : Word} {al : Nat} (ha : a.toNat % al = 0) (hst : st.toNat % al = 0) : misaligned a st al = none := by
  simp [misaligned, ha, hst]
theorem misaligned_base {a : Word} {al : Nat} (st : Word) (ha : a.toNat % al ≠ 0) : misaligned a st al = some a := by
  simp [misaligned, ha]
theorem misaligned_stride {a st : Word} {al : Nat} (ha : a.toNat % al = 0) (hst : st.toNat % al ≠ 0) : misaligned a st al = some (a + st) := by
  simp [misaligned, ha, hst]

theorem addrAt_nat (b : Word) (n : Nat) : addrAt b (n : Int) = (b.toNat + n) % 2 ^ 64 := by
  unfold addrAt
  have : ((b.toNat : Int) + (n : Int)) % (2 ^ 64 : Int) = (((b.toNat + n) % 2 ^ 64 : Nat) : Int) := by push_cast; rfl
  rw [this, Int.toNat_natCast]
theorem rec_misaligned (x : TileRec) (n : Nat) :
    x.misaligned false n = if ((vget x.pl (if x.act then 1 else 0)).toNat + n * x.stride) % 2 ^ 64 % 16 = 0 then none
      else some (BitVec.ofNat 64 (((vget x.pl (if x.act then 1 else 0)).toNat + n * x.stride) % 2 ^ 64)) := by
  have e : addrAt (vget x.pl (if x.act then 1 else 0)) ((n : Int) * (x.stride : Int)) = ((vget x.pl (if x.act then 1 else 0)).toNat + n * x.stride) % 2 ^ 64 := by
    rw [← addrAt_nat, Nat.cast_mul]
  simp only [TileRec.misaligned, plane_active, e, bne_iff_ne, ne_eq, ite_not]

/-! ## A load begun -/

/-- A load of slot `k` has begun: memory and the other tiles stay, the run is started, and the destination's rows are empty and tagged. -/
def LoadBegun (s t : State) (d : DieId) (k : SlotId) (r : Run) (o : EOp) (tag : Option Tag) : Prop :=
  SameMem s t ∧ (∃ r', (t.slot d k).lde = some r' ∧ r'.started = true ∧ r'.unit = r.unit) ∧
  (∀ j : BitVec 5, isTile j = true → j ≠ o.f1 → (t.slot d k).tile j = (s.slot d k).tile j) ∧
  ((t.slot d k).tile o.f1).tag = tag.getD ((s.slot d k).tile o.f1).tag ∧ ((t.slot d k).tile o.f1).data = ((s.slot d k).tile o.f1).data ∧
  ((t.slot d k).tile o.f1).side = ((s.slot d k).tile o.f1).side ∧ ((t.slot d k).tile o.f1).psn = ((s.slot d k).tile o.f1).psn ∧
  ∀ j < 64, ((t.slot d k).tile o.f1).isFull j = if eFirst o 0 ≤ j ∧ j < eFirst o 0 + eCount o 0 then false else ((s.slot d k).tile o.f1).isFull j

theorem loadStart_begun {s s1 : State} {d : DieId} {r r' : Run} {o : EOp} {tag : Option Tag} (ht : isTile o.f1 = true) (hd : s1.dies = s.dies) (hk : r'.slot = r.slot)
    (hu : r'.unit = r.unit) : LoadBegun s ((loadStart s1 ⟨d, .eng r.slot .lde, 8⟩ r' o tag).setRun ⟨d, .eng r.slot .lde, 8⟩ { r' with started := true }) d r.slot r o tag := by
  have hs : s1.slot d r.slot = s.slot d r.slot := congrArg (fun v => (vget v d).slot r.slot) hd
  have hslot : ((loadStart s1 ⟨d, .eng r.slot .lde, 8⟩ r' o tag).setRun ⟨d, .eng r.slot .lde, 8⟩ { r' with started := true }).slot d r.slot
      = { (s.slot d r.slot).modTile o.f1 fun x => x.start (eFirst o 0) (eCount o 0) tag with lde := some { r' with started := true } } := by
    rw [ldeRun_slot, loadStart, hk, State.slot_modSlot_same, hs]
  have htile (j : BitVec 5) : (((loadStart s1 ⟨d, .eng r.slot .lde, 8⟩ r' o tag).setRun ⟨d, .eng r.slot .lde, 8⟩ { r' with started := true }).slot d r.slot).tile j
      = ((s.slot d r.slot).modTile o.f1 fun x => x.start (eFirst o 0) (eCount o 0) tag).tile j := by rw [hslot]; rfl
  have hmem : SameMem s s1 := fun e a => by
    have : s1.die e = s.die e := congrArg (fun v => vget v e) hd
    rw [this]
  refine ⟨?_, ⟨{ r' with started := true }, by rw [hslot], rfl, hu⟩, fun j hj hne => ?_, ?_⟩
  · exact (hmem.trans (sameMem_modDie s1 d _ rfl)).trans (setRun_sameMem _ _ _)
  · rw [htile, modTile_tile_ne _ ht hj hne]
  · rw [htile, modTile_tile_same, start_eq, emptied_rest]
    refine ⟨rfl, rfl, rfl, rfl, fun j hj => ?_⟩
    exact emptied_isFull { (s.slot d r.slot).tile o.f1 with tag := tag.getD ((s.slot d r.slot).tile o.f1).tag } _ _ _ hj

theorem beginLoad_ok {s : State} {c : Cur} {r : Run} {o : EOp} {tag : Option Tag} (ht : isTile o.f1 = true) :
    beginLoad s c r o none tag = .ok (loadStart s c r o tag) (r, true) := by simp [beginLoad, ht]

/-- An index row that is read leaves the package as it was, but for the values drawn for a poisoned one. -/
theorem tileRow_dies {s s1 : State} {d : DieId} {k : SlotId} {c : BitVec 5} {b : Bool} {row : Nat} {v : RowVal} (h : tileRow s d k c b row = .ok s1 v) : s1.dies = s.dies := by
  unfold tileRow State.seen at h
  dsimp only at h
  split at h
  · split at h <;> exact nomatch h
  · split at h
    · cases h; rfl
    · cases h; rfl

/-- The address of an indexed row. -/
theorem indexAddr_eq (r : Run) (v : RowVal) (b : Word) (i : Nat) :
    indexAddr { r with bc := some v } b i = (((b.toNat : Int) + sInt 32 (rowElem 32 (leNat v.data) i)) % 2 ^ 64).toNat := rfl
theorem indexBad_none {r : Run} {b : Word} {n : Nat} (h : ∀ i < n, indexAddr r b i % 16 = 0) : indexBad r b n = none := by
  simp only [indexBad, Option.map_eq_none_iff, List.find?_eq_none, List.mem_map, List.mem_range, bne_iff_ne, ne_eq, not_not]
  rintro a ⟨i, hi, rfl⟩
  exact h i hi
theorem indexBad_first {r : Run} {b : Word} {n i : Nat} (hi : i < n) (h : ∀ j < i, indexAddr r b j % 16 = 0) (hb : indexAddr r b i % 16 ≠ 0) :
    indexBad r b n = some (BitVec.ofNat 64 (indexAddr r b i)) := by
  obtain ⟨m, rfl⟩ : ∃ m, n = i + (m + 1) := ⟨n - i - 1, by omega⟩
  have hn : ((List.range i).map (indexAddr r b)).find? (fun a => a % 16 != 0) = none := Option.map_eq_none_iff.1 (indexBad_none h)
  rw [indexBad, List.range_add, List.map_append, List.find?_append, hn, List.range_succ_eq_map, List.map_cons, List.map_cons, List.find?_cons_of_pos (by simpa using hb)]
  rfl

section Ldx
variable {s s1 : State} {d : DieId} {r : Run} {o : EOp} {v : RowVal} (htag : ((s.slot d r.slot).tile o.f3).tag = tI32) (hrow : tileRow s d r.slot o.f3 o.b3 (eFirst o 2) = .ok s1 v)
include htag hrow

theorem indexRow_read (c : Agent) : indexRow s ⟨d, c, 8⟩ r o = .ok s1 v := by
  simp only [indexRow, htag, bne_self_eq_false, Bool.false_eq_true, if_false, hrow]
theorem beginLdx_ok (h : ∀ i < eCount o 0, indexAddr { r with bc := some v } (r.par o.f2) i % 16 = 0) :
    beginLdx s ⟨d, .eng r.slot .lde, 8⟩ r o = .ok (loadStart s1 ⟨d, .eng r.slot .lde, 8⟩ { r with bc := some v } o (some o.fmt)) ({ r with bc := some v }, true) := by
  rw [beginLdx, indexRow_read htag hrow]
  simp only [Got.bind]
  rw [show indexBad { r with bc := some v } (({ r with bc := some v } : Run).par o.f2) (eCount o 0) = none from indexBad_none h]
theorem beginLdx_bad {i : Nat} (hi : i < eCount o 0) (h : ∀ j < i, indexAddr { r with bc := some v } (r.par o.f2) j % 16 = 0)
    (hb : indexAddr { r with bc := some v } (r.par o.f2) i % 16 ≠ 0) :
    beginLdx s ⟨d, .eng r.slot .lde, 8⟩ r o = .fault s1 19 (BitVec.ofNat 64 (indexAddr { r with bc := some v } (r.par o.f2) i)) := by
  rw [beginLdx, indexRow_read htag hrow]
  simp only [Got.bind]
  rw [show indexBad { r with bc := some v } (({ r with bc := some v } : Run).par o.f2) (eCount o 0) = some _ from indexBad_first hi h hb]
  rfl
end Ldx

section Ldrec
variable {s : State} {c : Cur} {r : Run} {o : EOp} {x : RecCopy} {z : TileRec} (hc : r.rcpy = some x) (hz : parseRec x.bytes = some z)
  (hg : z.gen = fld (r.par o.f3) 0 16) (ht : (eMod o).raw = true ∨ z.tag = o.fmt)
include hc hz hg ht

/-- The checks of `ldrec` on a copy it holds come down to the alignment of the first row. -/
theorem beginLdrec_copy : beginLdrec s c r o = match z.misaligned false (firstRow r o) with
    | some a => .fault (s.setRun c { r with rcpy := none }) 19 a
    | none => .ok (loadStart s c r o (some o.fmt)) (r, true) := by
  have hr : r.rec? = some z := by simp [Run.rec?, hc, hz]
  have hcopy : recordCopy s c r (r.par o.f2) = .ok s (r, true) := by simp [recordCopy, hc]
  have htag : (!(eMod o).raw && z.tag != o.fmt) = false := by
    rcases ht with h | h <;> simp [h]
  simp only [beginLdrec, hcopy, Got.bind, Bool.not_true, Bool.false_eq_true, if_false, hr, hg, bne_self_eq_false, htag] <;> rfl
end Ldrec

/-! ## Prefetch and the refusal register (R217, R181) -/

theorem translate_reg (dn : DieId) (d : Die) (t : TlbId) (asid : Half) (va : Nat) (wr : Bool) : (Machine.translate dn d t asid va wr).die.reg = d.reg := by
  have hmiss (y : Die) : (y.countMiss dn t asid).reg = y.reg := by
    unfold Die.countMiss
    rw [countDie_rest]
    cases t with
    | slot k => change (y.countSlot dn k 5 1).reg = _; rw [countSlot_rest]
    | _ => rfl
  have htlb (y : Die) (f : List TlbEntry → List TlbEntry) : (y.modTlb t f).reg = y.reg := by cases t <;> rfl
  have hw := walk_only dn d false wr asid va
  unfold Machine.translate
  refine xres_ite (P := fun y => y.reg = d.reg) rfl ?_
  cases (d.tlb t).find? (·.covers asid va) with
  | some e => rfl
  | none =>
    dsimp only
    generalize walk dn d false wr asid va = x at hw ⊢
    have hreg : x.die.reg = d.reg := by rw [show x.die = _ from hw]
    cases x with
    | fault y a b => exact (hmiss y).trans hreg
    | wait y => exact hreg
    | ok y e => exact (htlb (y.countMiss dn t asid) fun l => (e :: l).take 2048).trans ((hmiss y).trans hreg)

/-- A check that does not fail leaves the registers as `l`. -/
def RegsUnlessFault {α : Type} (l : Sparse Word) : XRes α → Prop
  | .fault .. => True
  | .wait y => y.reg = l
  | .ok y _ => y.reg = l
theorem regsUnlessFault_of {α : Type} {l : Sparse Word} {x : XRes α} (h : x.die.reg = l) : RegsUnlessFault l x := by
  cases x with
  | fault y a b => trivial
  | wait y => exact h
  | ok y a => exact h
theorem regsUnlessFault_ite {α : Type} {l : Sparse Word} {c : Prop} [Decidable c] {a b : XRes α} (ha : RegsUnlessFault l a) (hb : RegsUnlessFault l b) :
    RegsUnlessFault l (if c then a else b) := by
  split
  · exact ha
  · exact hb
theorem importLoc_regs (dn : DieId) (d : Die) (mt imp off va : Nat) : RegsUnlessFault d.reg (importLoc dn d mt imp off va) := by
  unfold importLoc
  refine regsUnlessFault_ite trivial (regsUnlessFault_ite trivial ?_)
  exact regsUnlessFault_ite trivial (regsUnlessFault_ite (regsUnlessFault_of rfl) (regsUnlessFault_ite trivial (regsUnlessFault_of rfl)))
/-- An access check that does not fail leaves the registers as they were. -/
theorem access_regs (dn : DieId) (d : Die) (w : Who) (va len : Nat) (n : Need) : RegsUnlessFault d.reg (access dn d w va len n) := by
  have hr := translate_reg dn d w.tlb w.asid va n.wr
  unfold access
  split
  · trivial
  cases q : Machine.translate dn d w.tlb w.asid va n.wr with
  | fault z a b => trivial
  | wait z => rw [q] at hr; exact hr
  | ok y e =>
    rw [q] at hr
    replace hr : y.reg = d.reg := hr
    have i := importLoc_regs dn y (fld e.pte 8 3) (fld e.pte 48 12) (fld e.pte 12 36 * 4096 + (va - e.va)) va
    rw [hr] at i
    dsimp only
    refine regsUnlessFault_ite trivial (regsUnlessFault_ite trivial (regsUnlessFault_ite trivial (regsUnlessFault_ite ?_ (regsUnlessFault_ite trivial hr))))
    cases g : importLoc dn y (fld e.pte 8 3) (fld e.pte 48 12) (fld e.pte 12 36 * 4096 + (va - e.va)) va with
    | fault z a b => trivial
    | wait z => rw [g] at i; exact i
    | ok z a => rw [g] at i; exact i

/-- A prefetch changes neither a fault nor a tile of a slot, and not the refusal register. -/
theorem touchLines_keeps (dn : DieId) (w : Who) (k : SlotId) (l : List (Nat × Nat)) (d : Die) :
    withoutTlb ((touchLines dn w l d).die.slot k) = withoutTlb (d.slot k) ∧ (touchLines dn w l d).die.getReg dn rRAST = d.getReg dn rRAST := by
  induction l generalizing d with
  | nil => exact ⟨rfl, rfl⟩
  | cons c r ih =>
    obtain ⟨va, len⟩ := c
    have hs := access_keeps (transKeeps_slot k (withoutTlb (d.slot k))) dn d w va len (needRow true false) rfl
    have hr := access_regs dn d w va len (needRow true false)
    have hget {y : Die} (h : y.reg = d.reg) : y.getReg dn rRAST = d.getReg dn rRAST := by simp only [Die.getReg, Die.reg?, h]
    have goes {z : Die} (hz : withoutTlb (z.slot k) = withoutTlb (d.slot k)) (hq : z.getReg dn rRAST = d.getReg dn rRAST) :
        withoutTlb ((touchLines dn w r z).die.slot k) = withoutTlb (d.slot k) ∧ (touchLines dn w r z).die.getReg dn rRAST = d.getReg dn rRAST :=
      ⟨(ih z).1.trans hz, (ih z).2.trans hq⟩
    unfold touchLines
    generalize access dn d w va len (needRow true false) = x at hs hr ⊢
    cases x with
    | wait y => exact ⟨hs, hget hr⟩
    | ok y p => exact goes hs (hget hr)
    | fault y a b =>
      dsimp only
      split
      · next h => exact goes hs (beq_iff_eq.1 h)
      · exact goes hs (getReg_setReg y dn rRAST _)

/-- Where every line of a row passes its checks, a prefetch translates as the row's access does. -/
theorem touchLines_accessAll {dn : DieId} {w : Who} {l : List (Nat × Nat)} {d y : Die} {ps : List Piece} (h : accessAll dn w (needRow true false) l d = .ok y ps) :
    touchLines dn w l d = .ok y () := by
  induction l generalizing d ps with
  | nil =>
    cases h
    rfl
  | cons c r ih =>
    obtain ⟨va, len⟩ := c
    unfold accessAll at h
    unfold touchLines
    cases q : access dn d w va len (needRow true false) with
    | fault z a b => rw [q] at h; exact nomatch h
    | wait z => rw [q] at h; exact nomatch h
    | ok z p =>
      rw [q] at h
      dsimp only at h ⊢
      cases q' : accessAll dn w (needRow true false) r z with
      | ok u us => rw [q'] at h; cases h; exact ih q'
      | wait u => rw [q'] at h; exact nomatch h
      | fault u a b => rw [q'] at h; exact nomatch h

end Sys2Proof.Proofs
end

section
/-! SUPPORT. Rows that have arrived, and the statement about load words (O26). -/

namespace Sys2Proof.Proofs

open Sys2Proof Sys2Proof.Machine Sys2Proof.Laws

theorem put_bytes {t : Tile} {row : Nat} {data side : List Byte} {p sc : Bool} (hd : spWf 0 t.data = true) (hv : data.length = 512) (j : Nat) :
    ((t.put row ⟨data, side, p⟩ sc).row j).data = if j = row then data else (t.row j).data := put_data hd hv j

/-- The transfer `x` written to row `row` of the destination tile, and no longer awaited. -/
def filledRow (s : State) (d : DieId) (k : SlotId) (o : EOp) (x : Asm) (v : RowVal) (sc : Bool) : State :=
  (s.modAg d (.eng k .lde) (·.dropAsm x.key)).modSlot d k fun t => t.modTile o.f1 fun y => y.put (eFirst o 0 + x.key) v sc

theorem filledRow_slot (s : State) (d : DieId) (k : SlotId) (o : EOp) (x : Asm) (v : RowVal) (sc : Bool) :
    (filledRow s d k o x v sc).slot d k = { (s.slot d k).modTile o.f1 fun y => y.put (eFirst o 0 + x.key) v sc with agLde := (s.slot d k).agLde.dropAsm x.key } := by
  have h : (s.modAg d (.eng k .lde) (·.dropAsm x.key)).slot d k = { s.slot d k with agLde := (s.slot d k).agLde.dropAsm x.key } := by
    simp only [State.modAg, State.slot, State.die_modDie_same, Die.modAg, Die.slot_modSlot_same]
  rw [filledRow, State.slot_modSlot_same, h]
  rfl
theorem filledRow_tile (s : State) (d : DieId) (k : SlotId) (o : EOp) (x : Asm) (v : RowVal) (sc : Bool) :
    ((filledRow s d k o x v sc).slot d k).tile o.f1 = ((s.slot d k).tile o.f1).put (eFirst o 0 + x.key) v sc := by
  rw [filledRow_slot]
  exact modTile_tile_same _ _ _
theorem dropAsm_only {a : AgentSt} {x : Asm} (h : a.asm = [x]) : (a.dropAsm x.key).asm = [] := by
  simp [AgentSt.dropAsm, h]
theorem filledRow_sameMem (s : State) (d : DieId) (k : SlotId) (o : EOp) (x : Asm) (v : RowVal) (sc : Bool) : SameMem s (filledRow s d k o x v sc) :=
  (sameMem_modDie s d _ (Die.modAg_mem _ _ _)).trans (sameMem_modDie _ d _ rfl)

theorem rowArrival_arrives {s : State} {d : DieId} {k : SlotId} {r : Run} {n : Nat} {x : Asm} {i : Instr} (hrun : s.run ⟨d, .eng k .lde, 8⟩ = some r)
    (hasm : (s.slot d k).agLde.asm = [x]) (hdone : x.done = true) (hi : r.code[r.pos]? = some (n, i)) :
    exec (.rowArrival d k) s = .next (arriveRow s ⟨d, .eng k .lde, 8⟩ r i x) := by
  have hag : (s.ag d (.eng k .lde)).asm = [x] := hasm
  have hfind : ((s.ag d (.eng k .lde)).asm.find? Asm.done) = some x := by simp [hag, hdone]
  have hhead : ((s.ag d (.eng k .lde)).asm.head?.filter Asm.done) = some x := by simp [hag, hdone]
  refine (exec_rowArrival d k s).trans ?_
  unfold execRowArrival
  simp only [hrun, hi, hfind, hhead, ite_self]
theorem arrives_plain (s : State) (d : DieId) (r : Run) (o : EOp) (x : Asm) {i : Instr} (hi : i = .ldt o ∨ i = .ldrec o) :
    arriveRow s ⟨d, .eng r.slot .lde, 8⟩ r i x = filledRow s d r.slot o x ⟨x.bytes 0 512, cutSide o.fmt (x.bytes 512 192), x.psn⟩ (fscaled o.fmt) := by
  rcases hi with rfl | rfl <;> rfl
theorem isTile_ne_opRQ {c : BitVec 5} (ht : isTile c = true) : c ≠ opRQ := by
  rintro rfl
  exact absurd ht (by decide)
theorem ldrAl_row {o : EOp} (h : o.f1 ≠ opRQ) : ldrAl o = 16 := if_neg (by rw [beq_iff_eq]; exact h)
theorem ldrAl_queue {o : EOp} (h : o.f1 = opRQ) : ldrAl o = 8 := if_pos (by rw [beq_iff_eq]; exact h)
theorem arrives_unconverted (s : State) (d : DieId) (r : Run) (o : EOp) (x : Asm) {i : Instr} (ht : isTile o.f1 = true) (hi : i = .ldr o ∨ i = .ldx o) (hoc : (eMod o).oc = 0) :
    arriveRow s ⟨d, .eng r.slot .lde, 8⟩ r i x = filledRow s d r.slot o x ⟨x.bytes 0 512, [], x.psn⟩ false := by
  have hq : (o.f1 == opRQ) = false := beq_eq_false_iff_ne.2 (isTile_ne_opRQ ht)
  rcases hi with rfl | rfl
  · simp only [arriveRow, hq, Bool.false_eq_true, if_false, hoc, if_true]
    rfl
  · simp only [arriveRow, hoc, if_true]
    rfl

theorem heldBy_setRun (s : State) (d : DieId) (a : Agent) (r : Run) (k : SlotId) (n : Nat) : ((s.setRun ⟨d, a, 8⟩ r).slot d k).heldBy n = (s.slot d k).heldBy n := by
  have h := setCurRun_slot (s.die d) ⟨d, a, 8⟩ (some r) k
  have hf := congrArg Slot.flt h
  have hf : ((s.setRun ⟨d, a, 8⟩ r).slot d k).flt = (s.slot d k).flt := by
    rw [State.setRun, State.slot, State.die_modDie_same]
    exact hf
  simp only [Slot.heldBy, hf]

/-- The configuration that `pcfg` installs, its image no longer awaited. -/
def configured (s : State) (d : DieId) (r : Run) (o : EOp) (q : Asm) (p : PortCfg) : State :=
  ((s.modAg d (.eng r.slot .lde) (·.dropAsm q.key)).modSlot d r.slot fun t => { t with ports := vset t.ports (widx o.f1) { Port.empty with cfg := some p } }).setRun
    ⟨d, .eng r.slot .lde, 8⟩ (r.adv o.na)
theorem pcfgStep_installs {s : State} {d : DieId} {r : Run} {o : EOp} {q : Asm} {p : PortCfg} (hs : r.started = true) (hva : r.par o.f2 ≠ 0) (hu : r.unit = 1)
    (hasm : (s.slot d r.slot).agLde.asm = [q]) (hdone : q.done = true) (hpsn : q.psn = false) (hp : parsePort (q.bytes 0 64) = some p) :
    pcfgStep s ⟨d, .eng r.slot .lde, 8⟩ r o = configured s d r o q p := by
  have hag : (s.ag d (.eng r.slot .lde)).asm = [q] := hasm
  simp only [pcfgStep, hs, Bool.not_true, Bool.false_eq_true, if_false, hva, hu, Nat.one_ne_zero, hag, hdone, hpsn, hp]
  rfl
theorem configured_slot (s : State) (d : DieId) (r : Run) (o : EOp) (q : Asm) (p : PortCfg) :
    (configured s d r o q p).slot d r.slot = { s.slot d r.slot with agLde := (s.slot d r.slot).agLde.dropAsm q.key, lde := some (r.adv o.na), ports := vset (s.slot d r.slot).ports (widx o.f1) { Port.empty with cfg := some p } } := by
  have h : (s.modAg d (.eng r.slot .lde) (·.dropAsm q.key)).slot d r.slot = { s.slot d r.slot with agLde := (s.slot d r.slot).agLde.dropAsm q.key } := by
    simp only [State.modAg, State.slot, State.die_modDie_same, Die.modAg, Die.slot_modSlot_same]
  rw [configured, ldeRun_slot, State.slot_modSlot_same, h]

theorem beginLdv_ok {s : State} {c : Cur} {r : Run} {o : EOp} {p : PortCfg} (hp : (vget (s.slot c.die r.slot).ports (widx o.f1)).cfg = some p) (ht : isTile o.f1 = false)
    (hdir : p.dir = true) (htag : p.tag = o.fmt) (h2 : (r.par o.f2).toNat % 16 = 0) (h3 : (r.par o.f3).toNat % 16 = 0) : beginLdv s c r o = .ok s (r, true) := by
  have hp : (vget ((s.die c.die).slot r.slot).ports (widx o.f1)).cfg = some p := hp
  have hd : dstCheck (s.die c.die) r.slot o.f1 o.fmt false = none := by
    simp [dstCheck, ht, hp, hdir, htag]
  rw [beginLdv, misaligned_none h2 h3, hd]
theorem beginLdv_bad {s : State} {c : Cur} {r : Run} {o : EOp} {a : Word} (h : misaligned (r.par o.f2) (r.par o.f3) 16 = some a) : beginLdv s c r o = .fault s 19 a := by
  rw [beginLdv, h]

/-- What a prefetched row comes to: the die with its lines translated, and the run one row further unless a translation waits. -/
def prefetched (s : State) (d : DieId) (r : Run) (x : XRes Unit) : State :=
  match x with
  | .ok y _ => (s.modDie d fun _ => y).setRun ⟨d, .eng r.slot .lde, 8⟩ { r with unit := r.unit + 1 }
  | .wait y | .fault y _ _ => s.modDie d fun _ => y
theorem prefetched_keeps {s : State} {d : DieId} {r : Run} {x : XRes Unit} (hs : withoutTlb (x.die.slot r.slot) = withoutTlb ((s.die d).slot r.slot))
    (hr : x.die.getReg d rRAST = (s.die d).getReg d rRAST) :
    ((prefetched s d r x).slot d r.slot).flt = (s.slot d r.slot).flt ∧ ((prefetched s d r x).slot d r.slot).tiles = (s.slot d r.slot).tiles ∧
      ((prefetched s d r x).die d).getReg d rRAST = (s.die d).getReg d rRAST := by
  have hf : (x.die.slot r.slot).flt = (s.slot d r.slot).flt := by have := congrArg Slot.flt hs; exact this
  have ht : (x.die.slot r.slot).tiles = (s.slot d r.slot).tiles := by have := congrArg Slot.tiles hs; exact this
  have stays (y : Die) : ((s.modDie d fun _ => y).slot d r.slot) = y.slot r.slot := by rw [State.slot, State.die_modDie_same]
  cases x with
  | ok y u =>
    refine ⟨?_, ?_, ?_⟩
    · rw [prefetched, ldeRun_slot, stays]
      exact hf
    · rw [prefetched, ldeRun_slot, stays]
      exact ht
    · rw [prefetched, State.setRun, State.die_modDie_same, State.die_modDie_same]
      exact hr
  | wait y => exact ⟨by rw [prefetched, stays]; exact hf, by rw [prefetched, stays]; exact ht, by rw [prefetched, State.die_modDie_same]; exact hr⟩
  | fault y a b => exact ⟨by rw [prefetched, stays]; exact hf, by rw [prefetched, stays]; exact ht, by rw [prefetched, State.die_modDie_same]; exact hr⟩

/-- Settles O26: the checks of a load word at its start, and what a row that has arrived fills. -/
theorem loadWordsStartAndFill : Obligations.LoadWordsStartAndFill := by
  unfold Obligations.LoadWordsStartAndFill
  refine ⟨?_, ?_⟩
  · intro s d k r o h hk x begins ok16
    subst hk
    have run_ (i : Instr) {f : State → Cur → Run → State} {t : State} (he : exec i s = engDo f s) (ht : f s ⟨d, .eng r.slot .lde, 8⟩ r = t) : exec i s = .next t :=
      he.trans ((engDo_atRun f h).trans (congrArg _ ht))
    refine ⟨fun hs ht => ⟨fun h2 h3 => ⟨?_, ?_⟩, fun h2 => ?_, fun s1 v htag hrow hal => ?_, fun c z hc hz hg ht' hal => ?_⟩,
      fun hs hf => ?_, fun p hs hp ht hdir htag h2 h3 => ?_, fun hu => ?_, fun hu => ⟨?_, fun y ps hy => ?_⟩, fun hs hp => ?_, fun q p hs hp hu hasm hdone hpsn hq => ?_⟩
    · have hal : ldrAl o = 16 := ldrAl_row (isTile_ne_opRQ ht)
      exact ⟨_, run_ _ (exec_ldr o s) (loadStep_begins hs (by rw [hal, misaligned_none h2 h3, beginLoad_ok ht])), loadStart_begun ht rfl rfl rfl⟩
    · exact ⟨_, run_ _ (exec_ldsc o s) (loadStep_begins hs (by rw [misaligned_none h2 h3, beginLoad_ok ht])), loadStart_begun ht rfl rfl rfl⟩
    · exact ⟨_, run_ _ (exec_ldt o s) (loadStep_begins hs (by rw [misaligned_none h2 rfl, beginLoad_ok ht])), loadStart_begun ht rfl rfl rfl⟩
    · exact ⟨_, run_ _ (exec_ldx o s) (loadStep_begins hs (beginLdx_ok htag hrow hal)), loadStart_begun ht (tileRow_dies hrow) rfl rfl⟩
    · refine ⟨_, run_ _ (exec_ldrec o s) (loadStep_begins hs ((beginLdrec_copy hc hz hg ht').trans ?_)), loadStart_begun ht rfl rfl rfl⟩
      have hm : z.misaligned false (firstRow r o) = none := by
        rw [rec_misaligned, if_pos]
        replace hal : ((vget z.pl (if z.act then 1 else 0)).toNat + firstRow r o * z.stride) % 16 = 0 := hal
        omega
      rw [hm]
    · intro bad
      have bads {i : Instr} {f : State → Cur → Run → State} {s' : State} {a : Word} (he : exec i s = engDo f s) (ht : f s ⟨d, .eng r.slot .lde, 8⟩ r = startFault s' ⟨d, .eng r.slot .lde, 8⟩ r 19 a)
          (hd : (s'.slot d r.slot).heldBy 1 = false) : bad i a := by
        change HeldFault (exec i s) d r.slot 1 19 a 0
        rw [run_ i he ht]
        exact ldeFault_held a (by decide) hd
      have bad_ldr {a : Word} (hm : misaligned (r.par o.f2) (r.par o.f3) (ldrAl o) = some a) : bad (.ldr o) a :=
        bads (exec_ldr o s) (loadStep_bad hs (by rw [hm]; rfl)) hf
      have bad_ldt {a : Word} (hm : misaligned (r.par o.f2) 0 16 = some a) : bad (.ldt o) a :=
        bads (exec_ldt o s) (loadStep_bad hs (by rw [hm]; rfl)) hf
      have bad_ldsc {a : Word} (hm : misaligned (r.par o.f2) (r.par o.f3) 16 = some a) : bad (.ldsc o) a :=
        bads (exec_ldsc o s) (loadStep_bad hs (by rw [hm]; rfl)) hf
      have bad_ldv {a : Word} (hm : misaligned (r.par o.f2) (r.par o.f3) 16 = some a) : bad (.ldv o) a :=
        bads (exec_ldv o s) (loadStep_bad hs (beginLdv_bad hm)) hf
      refine ⟨fun h2 => ⟨bad_ldt (misaligned_base _ h2), bad_ldsc (misaligned_base _ h2), bad_ldv (misaligned_base _ h2), fun hq => bad_ldr ?_⟩,
        fun h2 h3 => ⟨bad_ldsc (misaligned_stride h2 h3), bad_ldv (misaligned_stride h2 h3), fun hq => bad_ldr ?_⟩,
        fun hq => ⟨fun h2 => bad_ldr ?_, fun h2 h3 => bad_ldr ?_⟩, fun s1 v i htag hrow hi => ?_, fun h2 => ⟨?_, fun hn => ?_⟩, fun c z hc hz hg ht' => ?_⟩
      · rw [ldrAl_row hq]; exact misaligned_base _ h2
      · rw [ldrAl_row hq]; exact misaligned_stride h2 h3
      · rw [ldrAl_queue hq]; exact misaligned_base _ h2
      · rw [ldrAl_queue hq]; exact misaligned_stride h2 h3
      · intro at_ hbelow hbad
        have hsl : (s1.slot d r.slot).heldBy 1 = false := by
          have : s1.slot d r.slot = s.slot d r.slot := congrArg (fun v => (vget v d).slot r.slot) (tileRow_dies hrow)
          rw [this]; exact hf
        exact bads (exec_ldx o s) (loadStep_bad hs (beginLdx_bad htag hrow hi hbelow hbad)) hsl
      · refine bads (f := fun s c r => pcfgStep s c r o) (exec_pcfg o s) ?_ hf
        have hb : beginPcfg s ⟨d, .eng r.slot .lde, 8⟩ r o = .fault s 19 (r.par o.f2) := by simp [beginPcfg, h2]
        have hp : pcfgStep s ⟨d, .eng r.slot .lde, 8⟩ r o = loadStep s ⟨d, .eng r.slot .lde, 8⟩ r o.na 1 ⟨[0], true, false⟩ false (beginPcfg s ⟨d, .eng r.slot .lde, 8⟩ r o) (fun _ => .ok []) := by
          simp only [pcfgStep, hs, Bool.not_false, if_true]
        exact hp.trans (loadStep_bad hs hb)
      · have hcopy : recordCopy s ⟨d, .eng r.slot .lde, 8⟩ r (r.par o.f2) = .fault s 19 (r.par o.f2) := by simp [recordCopy, hn, h2]
        exact bads (exec_ldrec o s) (loadStep_bad hs (by rw [beginLdrec, hcopy]; rfl)) hf
      · intro a hbad
        refine bads (exec_ldrec o s) (loadStep_bad hs ((beginLdrec_copy hc hz hg ht').trans ?_)) ?_ (s' := s.setRun ⟨d, .eng r.slot .lde, 8⟩ { r with rcpy := none })
        · have hm : z.misaligned false (firstRow r o) = some (BitVec.ofNat 64 a) := (rec_misaligned z (firstRow r o)).trans (if_neg hbad)
          rw [hm]
        · rw [heldBy_setRun]
          exact hf
    · exact run_ _ (exec_ldv o s) (loadStep_begins hs (beginLdv_ok hp ht hdir htag h2 h3))
    · exact run_ _ (exec_pfx o s) (if_neg (Nat.not_lt.2 hu))
    · have hk := touchLines_keeps d ((s.die d).who (.eng r.slot .lde) r.slot) r.slot (cutLines (rowAddr r o r.unit) 512) (s.die d)
      have he : exec (.pfx o) s = .next (prefetched s d r (touchLines d ((s.die d).who (.eng r.slot .lde) r.slot) (cutLines (rowAddr r o r.unit) 512) (s.die d))) :=
        run_ _ (exec_pfx o s) (if_pos hu)
      exact ⟨_, he, prefetched_keeps hk.1 hk.2⟩
    · refine run_ _ (exec_pfx o s) ((if_pos hu).trans ?_)
      have := touchLines_accessAll (dn := d) (w := (s.die d).who (.eng r.slot .lde) r.slot) (l := cutLines (rowAddr r o r.unit) 512) hy
      dsimp only
      rw [this]
    · refine run_ _ (exec_pcfg o s) ?_
      simp only [pcfgStep, hs, Bool.not_true, Bool.false_eq_true, if_false, hp, if_true]
      rfl
    · refine ⟨_, run_ _ (exec_pcfg o s) (pcfgStep_installs hs hp hu hasm hdone hpsn hq), ?_, ?_, ?_, ?_⟩
      · rw [configured_slot]
        exact vget_vset_same _ _ _
      · rw [configured_slot]
      · rw [configured_slot]
        exact dropAsm_only hasm
      · exact ((sameMem_modDie s d _ (Die.modAg_mem _ _ _)).trans (sameMem_modDie _ d _ rfl)).trans (setRun_sameMem _ _ _)
  · intro s d k r o n x hinv hrun hk ht hasm hdone hrow row fills
    subst hk
    have filled {i : Instr} {sc : Bool} {side : List Byte} (he : arriveRow s ⟨d, .eng r.slot .lde, 8⟩ r i x = filledRow s d r.slot o x ⟨x.bytes 0 512, side, x.psn⟩ sc)
        (hsd : sc = true → side = cutSide o.fmt (x.bytes 512 192)) : fills i sc := by
      intro hcode
      refine ⟨_, (rowArrival_arrives hrun hasm hdone hcode).trans (congrArg _ he), ?_, filledRow_sameMem _ _ _ _ _ _ _, ?_⟩
      · rw [filledRow_slot]
        exact dropAsm_only hasm
      · rw [filledRow_tile]
        have hd : spWf 0 ((s.slot d r.slot).tile o.f1).data = true := hinv.data d r.slot _
        have hs : spWf 0 ((s.slot d r.slot).tile o.f1).side = true := hinv.side d r.slot _
        have hvl : (x.bytes 0 512).length = 512 := length_asmBytes _ _ _
        have hsl (h : sc = true) : side.length = 192 := by rw [hsd h, cutSide, length_padTo]
        intro y z
        refine ⟨?_, ?_, ?_, ?_, rfl, fun j hj hne => ⟨?_, ?_, ?_, ?_⟩⟩
        · exact (put_isFull hrow _).trans (if_pos rfl)
        · exact (put_isPsn hrow _).trans (if_pos rfl)
        · exact (put_bytes hd hvl _).trans (if_pos rfl)
        · refine (put_side hs hsl _).trans ?_
          cases sc with
          | true => exact (if_pos ⟨rfl, rfl⟩).trans (hsd rfl)
          | false => exact if_neg (fun h => Bool.false_ne_true h.2)
        · exact (put_isFull hrow _).trans (if_neg hne)
        · exact (put_isPsn hrow _).trans (if_neg hne)
        · exact (put_bytes hd hvl _).trans (if_neg hne)
        · exact (put_side hs hsl _).trans (if_neg fun h => hne h.1)
    have unconverted {i : Instr} (hi : i = .ldr o ∨ i = .ldx o) (hoc : (eMod o).oc = 0) : fills i false :=
      filled (arrives_unconverted s d r o x ht hi hoc) fun h => absurd h Bool.false_ne_true
    have whole {i : Instr} (hi : i = .ldt o ∨ i = .ldrec o) : fills i (fscaled o.fmt) := filled (arrives_plain s d r o x hi) fun _ => rfl
    refine ⟨fun hoc => ⟨?_, ?_⟩, ?_, ?_⟩
    · exact unconverted (.inl rfl) hoc
    · exact unconverted (.inr rfl) hoc
    · exact whole (.inl rfl)
    · exact whole (.inr rfl)

end Sys2Proof.Proofs
end

section
/-! SUPPORT. Store words, their rows, and rows fetched ahead by a read port (O27). -/

namespace Sys2Proof.Proofs

open Sys2Proof Sys2Proof.Machine Sys2Proof.Laws

/-! ## A row stored -/

section StoreStep
variable {s : State} {c : Cur} {r : Run} {na : BitVec 2} {n : Nat} {b : Got (Run × Bool)} {src : State → Nat → Got RowVal}
  {parts : Nat → Except (Nat × Word) (List Part)}

/-- The state with row `v` written in the store buffer at the places `qs`. -/
def storedRow (s : State) (y : Die) (c : Cur) (r : Run) (v : RowVal) (qs : List (Part × Piece)) : State :=
  (s.modDie c.die fun _ => y).modAg c.die c.ag fun a => { a with sb := a.sb ++ [.write (qs.map fun q => Wr.mk q.2 (slice (v.data ++ v.side) (partOff q) q.2.len)) v.psn (r.place r.unit) r.ent.seq] }

theorem storeStep_row {s1 : State} {v : RowVal} {ps : List Part} {y : Die} {qs : List (Part × Piece)} (hs : r.started = true) (hu : r.unit < n)
    (hv : src s r.unit = .ok s1 v) (hp : parts r.unit = .ok ps) (ha : accessParts c.die ((s1.die c.die).who c.ag r.slot) (needRow false true) ps (s1.die c.die) = .ok y qs) :
    storeStep s c r na n b src parts = (storedRow s1 y c r v qs).setRun c { r with unit := r.unit + 1, rw := r.rw + 1 } := by
  simp only [storeStep, hs, Bool.not_true, Bool.false_eq_true, if_false, hu, if_true, hp, hv, Got.bind, ha, unitDo_ok]
  rfl
theorem storeStep_over (hs : r.started = true) (hu : n ≤ r.unit) : storeStep s c r na n b src parts = s.advRun c r na := by
  simp [storeStep, hs, Nat.not_lt.2 hu]
end StoreStep

theorem got_bind_ok {α β : Type} (s : State) (v : α) (f : State → α → Got β) : (Got.ok s v).bind f = f s v := rfl

section StoreWords
variable {s s1 : State} {c : Cur} {r : Run} {o : EOp} {v : RowVal} {y : Die} {qs : List (Part × Piece)} (hs : r.started = true) (hu : r.unit < eCount o 1)
  (hv : storeSrc c r o s r.unit = .ok s1 v)
include hs hu hv

theorem str_row (hq : o.f2 ≠ opACC) (ha : accessParts c.die ((s1.die c.die).who c.ag r.slot) (needRow false true) (plainPart (storeAddr r o r.unit) 512) (s1.die c.die) = .ok y qs) :
    strStep s c r o = (storedRow s1 y c r v qs).setRun c { r with unit := r.unit + 1, rw := r.rw + 1 } :=
  (if_neg (by rw [beq_iff_eq]; exact hq)).trans (storeStep_row hs hu hv rfl ha)
theorem stt_row (ha : accessParts c.die ((s1.die c.die).who c.ag r.slot) (needRow false true)
      (rowParts (addrAt (r.par o.f1) (512 * (eFirst o 1 + r.unit : Nat))) 512 (addrAt (r.par o.f1) (0x8000 + 192 * (eFirst o 1 + r.unit : Nat))) (fscaled o.fmt)) (s1.die c.die) = .ok y qs) :
    sttStep s c r o = (storedRow s1 y c r v qs).setRun c { r with unit := r.unit + 1, rw := r.rw + 1 } := storeStep_row hs hu hv rfl ha
theorem stsc_row (ha : accessParts c.die ((s1.die c.die).who c.ag r.slot) (needRow false true) (plainPart (storeAddr r o r.unit) 192) (s1.die c.die) = .ok y qs) :
    stscStep s c r o = (storedRow s1 y c r { v with data := v.side, side := [] } qs).setRun c { r with unit := r.unit + 1, rw := r.rw + 1 } := by
  refine storeStep_row hs hu ?_ rfl ha
  rw [hv, got_bind_ok]
theorem stx_row (ha : accessParts c.die ((s1.die c.die).who c.ag r.slot) (needRow false true) (plainPart (indexAddr r (r.par o.f1) r.unit) 512) (s1.die c.die) = .ok y qs) :
    stxStep s c r o = (storedRow s1 y c r { v with psn := v.psn || r.idxPsn } qs).setRun c { r with unit := r.unit + 1, rw := r.rw + 1 } := by
  refine storeStep_row hs hu ?_ rfl ha
  rw [hv, got_bind_ok]
theorem strec_row {ps : List Part} (hp : recParts r o (r.par o.f1) true r.unit = .ok ps) (ha : accessParts c.die ((s1.die c.die).who c.ag r.slot) (needRow false true) ps (s1.die c.die) = .ok y qs) :
    strecStep s c r o = (storedRow s1 y c r v qs).setRun c { r with unit := r.unit + 1, rw := r.rw + 1 } := storeStep_row hs hu hv hp ha
theorem stv_row {s2 : State} (hp : portPush s1 c r o.f1 v (fscaled o.fmt) r.unit = .ok s2 ()) : stvStep s c r o = s2.setRun c { r with unit := r.unit + 1, rw := r.rw + 1 } := by
  simp only [stvStep, hs, Bool.not_true, Bool.false_eq_true, if_false, hu, if_true, hv, got_bind_ok, hp, unitDo_ok]
end StoreWords

/-- No error of the array: a row's read meets nothing. -/
theorem withError_ok (s : State) (c : Cur) (k : SlotId) (read : ArrErr → Bool) (f : State → State) : withError s c k .ok read f = f s := by
  have hm (y : Die) : y.arrayMeet c.die k .ok read = y := by
    unfold Die.arrayMeet
    split <;> rfl
  have hs : (s.modDie c.die fun y => y.arrayMeet c.die k .ok read) = s := by
    refine Eq.trans (congrArg (s.modDie c.die) (funext fun y => hm y)) ?_
    exact keep_die s c.die
  unfold withError
  rw [hs]
  rfl

/-- A store word at a row of its source goes on alike as a word and as the event of the store engine. -/
theorem storeRow_runs {s : State} {d : DieId} {k : SlotId} {r : Run} {n : Nat} {i : Instr} {o : EOp} {f : State → Cur → Run → EOp → State} (hr : s.run ⟨d, .eng k .ste, 8⟩ = some r)
    (hk : r.slot = k) (hs : r.started = true) (hf : (s.slot d k).heldBy 3 = false) (ha : vget (s.slot d k).acked 3 = false) (hn : (s.slot d k).agSte.refused = [])
    (hi : r.code[r.pos]? = some (n, i)) (hw : (i = .str o ∧ f = strStep) ∨ (i = .stt o ∧ f = sttStep) ∨ (i = .strec o ∧ f = strecStep) ∨ (i = .stx o ∧ f = stxStep) ∨
      (i = .stsc o ∧ f = stscStep) ∨ (i = .stv o ∧ f = stvStep)) :
    exec (.storeRowRead d k) s = .next (f s ⟨d, .eng k .ste, 8⟩ r o) := by
  have hg : (s.die d).entryGoes ⟨d, .eng k .ste, 8⟩ r = true := ste_goes hk hf ha hn
  have go (f : State → Cur → Run → EOp → State) : (if r.unit < eCount o 1 then withError s ⟨d, .eng k .ste, 8⟩ k .ok (storeTouches r o) fun s => f s ⟨d, .eng k .ste, 8⟩ r o
      else f s ⟨d, .eng k .ste, 8⟩ r o) = f s ⟨d, .eng k .ste, 8⟩ r o := by
    split
    · exact withError_ok _ _ _ _ _
    · rfl
  refine (exec_storeRowRead d k s).trans (congrArg Host.Outcome.next ?_)
  unfold storeRow
  simp only [hr, hs, hg, hi, Bool.not_true, Bool.or_self, Bool.false_eq_true, if_false]
  rcases hw with ⟨rfl, rfl⟩ | ⟨rfl, rfl⟩ | ⟨rfl, rfl⟩ | ⟨rfl, rfl⟩ | ⟨rfl, rfl⟩ | ⟨rfl, rfl⟩ <;> exact go _

/-! ## Rows fetched ahead -/

section AccessParts
variable {P : Die → Prop} (hP : TransKeeps P)
include hP

theorem accessLines_keeps (dn : DieId) (w : Who) (n : Need) (l : List (Part × Nat × Nat)) (d : Die) (h : P d) : P (accessLines dn w n l d).die := by
  induction l generalizing d with
  | nil => exact h
  | cons c r ih =>
    obtain ⟨p, va, len⟩ := c
    have e := access_keeps hP dn d w va len n h
    unfold accessLines
    cases q : access dn d w va len n with
    | fault y c x => rw [q] at e; exact e
    | wait y => rw [q] at e; exact e
    | ok y x =>
      rw [q] at e
      have g := ih y e
      dsimp only
      cases q' : accessLines dn w n r y with
      | fault y c x => rw [q'] at g; exact g
      | wait y => rw [q'] at g; exact g
      | ok y ps => rw [q'] at g; exact g
theorem accessParts_keeps (dn : DieId) (w : Who) (n : Need) (ps : List Part) (d : Die) (h : P d) : P (accessParts dn w n ps d).die := accessLines_keeps hP dn w n _ d h
end AccessParts

theorem accessParts_slot {dn : DieId} {d y : Die} {w : Who} {n : Need} {ps : List Part} {qs : List (Part × Piece)} (h : accessParts dn w n ps d = .ok y qs) (k : SlotId) :
    withoutTlb (y.slot k) = withoutTlb (d.slot k) := by
  have := accessParts_keeps (transKeeps_slot k (withoutTlb (d.slot k))) dn w n ps d rfl
  rwa [h] at this

section Fetch
variable {s : State} {d : DieId} {k : SlotId} {w : Fin 8} {e : SlotEng} {c : PortCfg} (hc : (vget (s.slot d k).ports w).cfg = some c) (hdir : c.dir = false)
include hc hdir

omit hdir in
theorem portRowFetch_held (hf : (s.slot d k).heldBy (engNum e) = true) : portRowFetch s d k w e = s := by
  simp only [portRowFetch, hc, hf, Bool.or_true, Bool.true_or, if_true]

variable (hf : (s.slot d k).heldBy (engNum e) = false) (hst : vget (s.slot d k).stop (headCan.stopIx (engNum e)) = false) (hby : ∀ x ∈ (vget (s.slot d k).ports w).rows, x.by_ = e)
  (hg : (s.die d).gateOk d = true)
include hf hst hby hg

theorem portRowFetch_begins (hp : (vget (s.slot d k).ports w).part = none) (hl : (vget (s.slot d k).ports w).rows.length < 8)
    (hb : ∀ x ∈ (vget (s.slot d k).ports w).rows, x.bad = none) : portRowFetch s d k w e = portBegin s d k w e c (vget (s.slot d k).ports w).ix := by
  have hany : ((vget (s.slot d k).ports w).rows.any fun f => f.by_ != e) = false := List.any_eq_false.2 fun x hx => by simp [hby x hx]
  have hbad : ((vget (s.slot d k).ports w).rows.any (·.bad.isSome)) = false := List.any_eq_false.2 fun x hx => by simp [hb x hx]
  simp [portRowFetch, hc, hdir, hf, hst, hg, hany, hp, hbad, Nat.not_le.2 hl]
theorem portRowFetch_line {ps : List (Nat × Piece)} {f : Fetched} (hp : (vget (s.slot d k).ports w).part = some (ps, f)) (he : f.by_ = e) :
    portRowFetch s d k w e = portLine s d k w e c ps f := by
  have hany : ((vget (s.slot d k).ports w).rows.any fun f => f.by_ != e) = false := List.any_eq_false.2 fun x hx => by simp [hby x hx]
  simp [portRowFetch, hc, hdir, hf, hst, hg, hany, hp, he]
end Fetch

/-- A local line of which the agent's store buffer holds nothing is read from memory. -/
theorem seePiece_memory (s : State) (d : DieId) {p : Piece} {pa : Nat} (hp : p.loc = .here pa) : seePiece s d [] p = some ((s.die d).peek pa p.len, (s.die d).poisoned pa p.len) := by
  have hno : ∀ c ∈ coverOf s [] p, c = .no := by
    intro c hc
    simp only [coverOf, List.mem_map] at hc
    obtain ⟨i, -, rfl⟩ := hc
    rfl
  have hall : (coverOf s [] p).all Cov.isNo = true := List.all_eq_true.2 fun c hc => by rw [hno c hc]; rfl
  have hnot : (!(coverOf s [] p).isEmpty && (coverOf s [] p).all (·.byte?.isSome)) = false := by
    cases h : coverOf s [] p with
    | nil => rfl
    | cons c l =>
      rw [h] at hno
      simp [hno c List.mem_cons_self, Cov.byte?]
  simp only [seePiece, hp, hnot, hall, Bool.false_eq_true, if_false, if_true]

theorem layOver_length {l bs : List Byte} {at_ : Nat} (h : at_ + bs.length ≤ l.length) : (layOver l at_ bs).length = l.length := by
  simp only [layOver, List.length_append, List.length_take, List.length_drop]
  omega
theorem layOver_getD {l bs : List Byte} {at_ i : Nat} (h : at_ + bs.length ≤ l.length) :
    (layOver l at_ bs).getD i 0 = if at_ ≤ i ∧ i < at_ + bs.length then bs.getD (i - at_) 0 else l.getD i 0 := by
  have hl : (l.take at_).length = at_ := by rw [List.length_take]; omega
  simp only [layOver, List.getD_eq_getElem?_getD, List.append_assoc]
  by_cases h1 : i < at_
  · rw [List.getElem?_append_left (by omega), List.getElem?_take_of_lt h1, if_neg (by omega)]
  · rw [List.getElem?_append_right (by omega), hl]
    by_cases h2 : i < at_ + bs.length
    · rw [List.getElem?_append_left (by omega), if_pos (by omega)]
    · rw [List.getElem?_append_right (by omega), List.getElem?_drop, if_neg (by omega), show at_ + bs.length + (i - at_ - bs.length) = i by omega]

/-- A port changed in place, written as the state in which it stands. -/
theorem modPort_eq (s : State) (d : DieId) (k : SlotId) (w : Fin 8) (g : Port → Port) :
    (s.modSlot d k fun t => { t with ports := vmod t.ports w g }) =
      (s.modDie d fun _ => s.die d).modSlot d k fun t => { t with ports := vset t.ports w (g (vget (s.slot d k).ports w)), pnid := (s.slot d k).pnid } := by
  rw [keep_die]
  refine modSlot_congr ?_
  rfl

/-- A row fetch that passes its checks, begun: the port as it was but for the row under way. -/
theorem portBegin_ok {s : State} {d : DieId} {k : SlotId} {w : Fin 8} {e : SlotEng} {c : PortCfg} {y : Die} {qs : List (Part × Piece)} {ix : Vector Nat 4}
    (ha : accessParts d ((s.die d).who (.eng k e) k) ⟨[1], true, false⟩ (rowParts (c.addr ix) 512 (((c.addr ix : Int) + c.sco) % 2 ^ 64).toNat (fscaled c.tag)) (s.die d) = .ok y qs) :
    portBegin s d k w e c ix = (s.modDie d fun _ => y).modSlot d k fun t => { t with
      ports := vset t.ports w { vget (s.slot d k).ports w with part := some (qs.map fun q => (partOff q, q.2), ⟨⟨.replicate 512 0, .replicate 192 0, false⟩, linesOfPieces (qs.map (·.2)), none, e, (s.slot d k).pnid, (qs.map (·.2)).map fun p => (p.va, p.pg)⟩) }
      pnid := (s.slot d k).pnid + 1 } := by
  have hslot := accessParts_slot ha k
  have hp : (y.slot k).ports = (s.slot d k).ports := by have := congrArg Slot.ports hslot; exact this
  have hn : (y.slot k).pnid = (s.slot d k).pnid := by have := congrArg Slot.pnid hslot; exact this
  have hpp : portPieces d (s.die d) ((s.die d).who (.eng k e) k) c ix false (fscaled c.tag) = .ok y qs := ha
  rw [portBegin, hpp]
  refine modSlot_congr ?_
  rw [State.slot, State.die_modDie_same, hp, hn]
  simp only [vmod]

/-- Settles O27: a store word puts its row into the store buffer, and a read port fetches the row at its walker line by line. -/
theorem storeWordsAndPorts : Obligations.StoreWordsAndPorts := by
  unfold Obligations.StoreWordsAndPorts
  refine ⟨?_, ?_, ?_⟩
  · intro s s1 d k r o v n h hk hs hu hf hack href hrow hacc at_ i row writes sc
    subst hk
    have hv : storeSrc ⟨d, .eng r.slot .ste, 8⟩ r o s r.unit = .ok s1 v := hrow
    have at_eq (b : Word) (off : Int) : at_ b off = addrAt b off := rfl
    have both {x : Instr} {f : State → Cur → Run → EOp → State} {t : State} (he : exec x s = engDo (fun s c r => f s c r o) s)
        (hw : (x = .str o ∧ f = strStep) ∨ (x = .stt o ∧ f = sttStep) ∨ (x = .strec o ∧ f = strecStep) ∨ (x = .stx o ∧ f = stxStep) ∨ (x = .stsc o ∧ f = stscStep) ∨ (x = .stv o ∧ f = stvStep))
        (ht : f s ⟨d, .eng r.slot .ste, 8⟩ r o = t) : exec x s = .next t ∧ (r.code[r.pos]? = some (n, x) → exec (.storeRowRead d r.slot) s = .next t) :=
      ⟨he.trans ((engDo_atRun _ h).trans (congrArg _ ht)), fun hi => (storeRow_runs h.run rfl hs hf hack href hi hw).trans (congrArg _ ht)⟩
    refine ⟨?_, ?_, ?_, ?_, ?_, ?_⟩
    · exact fun y qs ha => both (exec_str o s) (.inl ⟨rfl, rfl⟩) (str_row hs hu hv hacc ha)
    · refine fun y qs ha => both (exec_stt o s) (.inr (.inl ⟨rfl, rfl⟩)) (stt_row hs hu hv ?_)
      push_cast
      exact ha
    · exact fun y qs ha => both (exec_stsc o s) (.inr (.inr (.inr (.inr (.inl ⟨rfl, rfl⟩))))) (stsc_row hs hu hv ha)
    · intro z hz y qs ha
      have hi : indexAddr r (r.par o.f1) r.unit = at_ (r.par o.f1) (sInt 32 (rowElem 32 (leNat z.data) i)) := by simp only [indexAddr, hz, at_eq, i]
      have hpsn : r.idxPsn = z.psn := by simp only [Run.idxPsn, hz]
      rw [← hi] at ha
      rw [← hpsn]
      exact both (exec_stx o s) (.inr (.inr (.inr (.inl ⟨rfl, rfl⟩)))) (stx_row hs hu hv ha)
    · intro c x hc hx hrows b y qs ha
      refine both (exec_strec o s) (.inr (.inr (.inl ⟨rfl, rfl⟩))) (strec_row hs hu hv ((recParts_ok hc hx hrows).trans ?_) ha)
      rw [TileRec.parts, plane_latent]
      simp only [rowParts, at_eq, i, sc, b]
      push_cast
      rfl
    · exact fun s2 hp => both (exec_stv o s) (.inr (.inr (.inr (.inr (.inr ⟨rfl, rfl⟩))))) (stv_row hs hu hv hp)
  · intro s d k r o x h hs hu hx
    have ends {b : Got (Run × Bool)} {src : State → Nat → Got RowVal} {parts : Nat → Except (Nat × Word) (List Part)} :
        storeStep s ⟨d, .eng k .ste, 8⟩ r o.na (eCount o 1) b src parts = s.setRun ⟨d, .eng k .ste, 8⟩ (r.adv o.na) := storeStep_over hs hu
    rcases hx with rfl | rfl | rfl | rfl | rfl | rfl
    · refine (exec_str o s).trans ((engDo_atRun _ h).trans (congrArg _ ?_))
      unfold strStep
      dsimp only
      split <;> exact ends
    · exact (exec_stt o s).trans ((engDo_atRun _ h).trans (congrArg _ ends))
    · exact (exec_stsc o s).trans ((engDo_atRun _ h).trans (congrArg _ ends))
    · exact (exec_stx o s).trans ((engDo_atRun _ h).trans (congrArg _ ends))
    · exact (exec_strec o s).trans ((engDo_atRun _ h).trans (congrArg _ ends))
    · refine (exec_stv o s).trans ((engDo_atRun _ h).trans (congrArg _ ?_))
      simp only [stvStep, hs, Bool.not_true, Bool.false_eq_true, if_false, Nat.not_lt.2 hu]
      rfl
  · intro s d k w c e p goes hc hdir
    have exec_ {t : State} (ht : portRowFetch s d k w e = t) : exec (.portRowFetch d k w e) s = .next t := congrArg _ ht
    refine ⟨fun hf => exec_ (portRowFetch_held hc hf), fun hf hst hby hg => ⟨fun y qs hp hl hb ha => ?_, fun off x rest f pa hp he hsb hloc hd hs hlen => ?_, fun f hp he => ?_⟩⟩
    · exact ⟨⟨⟨.replicate 512 0, .replicate 192 0, false⟩, linesOfPieces (qs.map (·.2)), none, e, (s.slot d k).pnid, (qs.map (·.2)).map fun p => (p.va, p.pg)⟩, rfl, rfl, rfl, rfl,
        exec_ ((portRowFetch_begins hc hdir hf hst hby hg hp hl hb).trans (portBegin_ok ha))⟩
    · have hl : (f.row.data ++ f.row.side).length = 704 := by rw [List.length_append, hd, hs]
      have hlen' : off + ((s.die d).peek pa x.len).length ≤ (f.row.data ++ f.row.side).length := by rw [length_peek, hl]; exact hlen
      have hll := (layOver_length hlen').trans hl
      refine ⟨⟨(layOver (f.row.data ++ f.row.side) off ((s.die d).peek pa x.len)).take 512, (layOver (f.row.data ++ f.row.side) off ((s.die d).peek pa x.len)).drop 512, f.row.psn || (s.die d).poisoned pa x.len⟩,
        exec_ ((portRowFetch_line hc hdir hf hst hby hg hp he).trans ?_), rfl, ?_, ?_, fun i hi => ?_⟩
      · rw [portLine, hsb, seePiece_memory s d hloc]
        exact modPort_eq s d k w _
      · rw [List.length_take]; omega
      · rw [List.length_drop]; omega
      · rw [List.take_append_drop, layOver_getD hlen', length_peek]
        refine ite_congr rfl (fun hin => peek_getD _ _ _ _ (by omega)) fun _ => rfl
    · exact exec_ ((portRowFetch_line hc hdir hf hst hby hg hp he).trans (modPort_eq s d k w _))

end Sys2Proof.Proofs
end

section
/-! SUPPORT. Rows of the arithmetic engine (R222 to R242): what one step of a word does, and the words of two row sources (O28). -/

namespace Sys2Proof.Proofs

open Sys2Proof Sys2Proof.Machine Sys2Proof.Laws

/-! ## Rows of elements -/

theorem elems_eq (t : Tag) (f : Nat → Nat × Flg) :
    elems t f = ⟨rowOf t ((List.range (fcount t)).map fun j => (f j).1), [], ((List.range (fcount t)).map f).foldl (fun a e => a ||| e.2) 0⟩ := by
  simp only [elems, List.map_map]
  rfl
theorem foldl_noFlags (g : Nat → Nat) (l : List Nat) : (l.map fun j => (g j, (0 : Flg))).foldl (fun a e => a ||| e.2) 0 = 0 := by
  induction l with
  | nil => rfl
  | cons x l ih =>
    rw [List.map_cons, List.foldl_cons]
    simpa using ih
/-- Elements that raise no flag. -/
theorem elems_codes (t : Tag) (g : Nat → Nat) : (elems t fun j => (g j, 0)) = ⟨rowOf t ((List.range (fcount t)).map g), [], 0⟩ := by
  rw [elems_eq, foldl_noFlags]
theorem length_rowOf (t : Tag) (l : List Nat) : (rowOf t l).length = 512 := length_natLe _ _

/-! ## One step of a word -/

section Step
variable {p : Plan} {s : State} {c : Cur} {r : Run} (hs : r.started = true) (hu : r.unit < p.n)
include hs hu

theorem step_rows (hp : p.scheme = .rows) : p.step s c r = p.rowStep s c r := by
  simp [Plan.step, hs, hu, hp]
theorem step_reduce {q : Bool} (hp : p.scheme = .reduce q) : p.step s c r = p.reduceStep q s c r := by
  simp [Plan.step, hs, hu, hp]
theorem step_blocks (hp : p.scheme = .blocks) : p.step s c r = p.blockStep s c r := by
  simp [Plan.step, hs, hu, hp]
theorem step_flat (hp : p.scheme = .flat) : p.step s c r = p.flatStep s c r := by
  simp [Plan.step, hs, hu, hp]

/-- A destination row whose sources are read and whose destination takes it. -/
theorem step_row {s2 s3 : State} {a b e : RowVal} {data side : List Byte} {fl : Flg} (hp : p.scheme = .rows) (hr : p.reads s c r r.unit = .ok s2 (a, b, e))
    (hx : p.row r r.unit a b e = ⟨data, side, fl⟩) (hd : dstPut s2 c r p.o.f1 (eFirst p.o 0 + r.unit) ⟨data, side, a.psn || b.psn || e.psn⟩ p.sc r.unit = .ok s3 ()) :
    p.step s c r = s3.setRun c (rowDone r fl) := by
  rw [step_rows hs hu hp, Plan.rowStep, hr, got_bind_ok]
  dsimp only
  rw [hx, hd, got_bind_ok, unitDo_ok]
  rfl
end Step

theorem step_over {p : Plan} {s : State} {c : Cur} {r : Run} (hs : r.started = true) (hu : p.n ≤ r.unit) (hp : p.scheme ≠ .reduce false) : p.step s c r = s.advRun c r p.o.na := by
  simp only [Plan.step, hs, Bool.not_true, Bool.false_eq_true, if_false, Nat.not_lt.2 hu]
theorem step_reduceEnd {p : Plan} {s : State} {c : Cur} {r : Run} (hs : r.started = true) (hu : p.n ≤ r.unit) (hp : p.scheme = .reduce false) : p.step s c r = p.reduceEnd s c r := by
  simp only [Plan.step, hs, Bool.not_true, Bool.false_eq_true, if_false, Nat.not_lt.2 hu, hp]

theorem areDo_atRun {p : Plan} {s : State} {d : DieId} {k : SlotId} {r : Run} (h : AtRun s d (.eng k .are) r) : areDo p s = .next (p.step s ⟨d, .eng k .are, 8⟩ r) :=
  engDo_atRun _ h

/-! ## Words of one and of two row sources -/

section Reads
variable {s s1 s2 : State} {d : DieId} {r : Run} {o : EOp} {v w : RowVal}

theorem un_reads {f : Run → Nat → RowVal → RowVal → RowVal → RowOut} (hv : srcRow s d r.slot .are o.f2 o.b2 (eFirst o 1 + r.unit) = .ok s1 v) :
    (planUn o f).reads s ⟨d, .eng r.slot .are, 8⟩ r r.unit = .ok s1 (v, noRow, noRow) := by
  simp only [Plan.reads, planUn, Bool.false_and, Bool.false_eq_true, if_false, hv, got_bind_ok]
theorem bin_reads {f : Run → Nat → RowVal → RowVal → RowVal → RowOut} {out : Tag} (hv : srcRow s d r.slot .are o.f2 o.b2 (eFirst o 1 + r.unit) = .ok s1 v)
    (hw : areSrc s1 d r.slot r o.f3 o.b3 (eMod o).bc (eFirst o 2) = .ok s2 w) :
    (planBin o f out).reads s ⟨d, .eng r.slot .are, 8⟩ r r.unit = .ok s2 (v, w, noRow) := by
  unfold areSrc at hw
  simp only [Plan.reads, planBin, Bool.false_and, Bool.false_eq_true, if_false, hv, got_bind_ok]
  exact congrArg (fun g : Got RowVal => g.bind fun s v3 => Got.ok s (v, v3, noRow)) hw
end Reads

section Word
variable {s s1 s2 s3 : State} {d : DieId} {r : Run} {o : EOp} {v w : RowVal} {i : Instr} {f : Run → Nat → RowVal → RowVal → RowVal → RowOut} {data side : List Byte} {fl : Flg}
  (h : AtRun s d (.eng r.slot .are) r) (hs : r.started = true) (hu : r.unit < eCount o 0) (hv : srcRow s d r.slot .are o.f2 o.b2 (eFirst o 1 + r.unit) = .ok s1 v)
include h hs hu hv

/-- A word of two row sources writes its row. -/
theorem bin_writes {out : Tag} (hw : areSrc s1 d r.slot r o.f3 o.b3 (eMod o).bc (eFirst o 2) = .ok s2 w) (hi : exec i s = areDo (planBin o f out) s)
    (hx : f r r.unit v w noRow = ⟨data, side, fl⟩) (hd : dstPut s2 ⟨d, .eng r.slot .are, 8⟩ r o.f1 (eFirst o 0 + r.unit) ⟨data, side, v.psn || w.psn⟩ false r.unit = .ok s3 ()) :
    exec i s = runNext s3 d (.eng r.slot .are) (rowDone r fl) := by
  refine hi.trans ((areDo_atRun h).trans (congrArg Host.Outcome.next (step_row hs hu rfl (bin_reads hv hw) hx ?_)))
  rw [← Bool.or_false (v.psn || w.psn)] at hd
  exact hd
/-- A word of one row source writes its row. -/
theorem un_writes (hi : exec i s = areDo (planUn o f) s) (hx : f r r.unit v noRow noRow = ⟨data, side, fl⟩)
    (hd : dstPut s1 ⟨d, .eng r.slot .are, 8⟩ r o.f1 (eFirst o 0 + r.unit) ⟨data, side, v.psn⟩ false r.unit = .ok s3 ()) :
    exec i s = runNext s3 d (.eng r.slot .are) (rowDone r fl) := by
  refine hi.trans ((areDo_atRun h).trans (congrArg Host.Outcome.next (step_row hs hu rfl (un_reads hv) hx ?_)))
  rw [← Bool.or_false v.psn, ← Bool.or_false (v.psn || false)] at hd
  exact hd
end Word

/-! ## Row functions -/

section RowFunctions
variable {o : EOp} (r : Run) (i : Nat) (a b e : RowVal)

theorem rowBin_int (hf : fmtINT o.fmt = true) (fp : BitVec 3 → Val → Val → Val × Flg) (int : Int → Int → Int) :
    rowBin o fp int r i a b e = ⟨rowOf o.fmt ((List.range (fcount o.fmt)).map fun j => fitInt (fwidth o.fmt) (eMod o).sat (int (sInt (fwidth o.fmt) (code o.fmt a j)) (sInt (fwidth o.fmt) (code o.fmt b j)))), [], 0⟩ := by
  rw [← elems_codes]
  simp only [rowBin, hf, if_true]
theorem rowBin_fp (hf : fmtINT o.fmt = false) (fp : BitVec 3 → Val → Val → Val × Flg) (int : Int → Int → Int) :
    rowBin o fp int r i a b e = elems o.fmt fun j => rndElem r o j (fp (eMod o).rnd (decodeElem o.fmt (code o.fmt a j)) (decodeElem o.fmt (code o.fmt b j))) := by
  simp only [rowBin, hf, Bool.false_eq_true, if_false]
theorem rowPick_int (hf : fmtINT o.fmt = true) (fp : Val → Val → Val) (int : Int → Int → Int) :
    rowPick o fp int r i a b e = ⟨rowOf o.fmt ((List.range (fcount o.fmt)).map fun j => fitInt (fwidth o.fmt) false (int (sInt (fwidth o.fmt) (code o.fmt a j)) (sInt (fwidth o.fmt) (code o.fmt b j)))), [], 0⟩ := by
  rw [← elems_codes]
  simp only [rowPick, hf, if_true]
theorem rowPick_fp (hf : fmtINT o.fmt = false) (fp : Val → Val → Val) (int : Int → Int → Int) :
    rowPick o fp int r i a b e = ⟨rowOf o.fmt ((List.range (fcount o.fmt)).map fun j => (roundVal o.fmt 0 false 0 (fp (decodeElem o.fmt (code o.fmt a j)) (decodeElem o.fmt (code o.fmt b j)))).1), [], 0⟩ := by
  rw [← elems_codes]
  simp only [rowPick, hf, Bool.false_eq_true, if_false]
theorem rowSign_int (hf : fmtINT o.fmt = true) (fp : Val → Val) (int : Int → Int) :
    rowSign o fp int r i a b e = ⟨rowOf o.fmt ((List.range (fcount o.fmt)).map fun j => fitInt (fwidth o.fmt) (eMod o).sat (int (sInt (fwidth o.fmt) (code o.fmt a j)))), [], 0⟩ := by
  rw [← elems_codes]
  simp only [rowSign, hf, if_true]
theorem rowSign_fp (hf : fmtINT o.fmt = false) (fp : Val → Val) (int : Int → Int) :
    rowSign o fp int r i a b e = ⟨rowOf o.fmt ((List.range (fcount o.fmt)).map fun j => (roundVal o.fmt 0 false 0 (fp (decodeElem o.fmt (code o.fmt a j)))).1), [], 0⟩ := by
  rw [← elems_codes]
  simp only [rowSign, hf, Bool.false_eq_true, if_false]
end RowFunctions

/-- A shift by an element of the second source. -/
theorem planShift_rows (op : Nat) {o : EOp} (hm : (eMod o).min3 ≠ 1) :
    planShift op o = planBin o (fun _ _ a b _ => elems o.fmt fun j => (shiftCode op (fwidth o.fmt) (code o.fmt a j) (code o.fmt b j % fwidth o.fmt), 0)) o.fmt := by
  simp only [planShift, beq_eq_false_iff_ne.2 hm, Bool.false_eq_true, if_false]
/-- A shift by a parameter. -/
theorem planShift_par (op : Nat) {o : EOp} (hm : (eMod o).min3 = 1) :
    planShift op o = planUn o (fun r _ a _ _ => elems o.fmt fun j => (shiftCode op (fwidth o.fmt) (code o.fmt a j) ((r.par o.f3).toNat % fwidth o.fmt), 0)) := by
  simp only [planShift, hm, beq_self_eq_true, if_true]

/-- Settles O28: each word of two row sources writes, element by element, its function of the two rows read. -/
theorem binaryRows : Obligations.BinaryRows := by
  unfold Obligations.BinaryRows
  intro s s1 s2 s3 d k r o v w h hk hs hu hv hw m wd x y fit draw put codes vals
  subst hk
  have puts {i : Instr} {f : Run → Nat → RowVal → RowVal → RowVal → RowOut} {out : Tag} {data : List Byte} {fl : Flg} (hi : exec i s = areDo (planBin o f out) s)
      (hx : f r r.unit v w noRow = ⟨data, [], fl⟩) : put data fl i := fun hd => bin_writes h hs hu hv hw hi hx hd
  refine ⟨fun hf => ⟨?_, ?_, ?_, ?_, ?_⟩, fun hf => ⟨?_, ?_, ?_, ?_, ?_⟩, ?_, ?_, ?_, ?_, fun hm => ⟨?_, ?_, ?_⟩⟩
  · exact puts (exec_areAdd o s) (rowBin_int r r.unit v w noRow hf _ _)
  · exact puts (exec_areSub o s) (rowBin_int r r.unit v w noRow hf _ _)
  · exact puts (exec_areMul o s) (rowBin_int r r.unit v w noRow hf _ _)
  · exact puts (exec_areMin o s) (rowPick_int r r.unit v w noRow hf _ _)
  · exact puts (exec_areMax o s) (rowPick_int r r.unit v w noRow hf _ _)
  · exact puts (exec_areAdd o s) ((rowBin_fp r r.unit v w noRow hf _ _).trans (elems_eq _ _))
  · exact puts (exec_areSub o s) ((rowBin_fp r r.unit v w noRow hf _ _).trans (elems_eq _ _))
  · exact puts (exec_areMul o s) ((rowBin_fp r r.unit v w noRow hf _ _).trans (elems_eq _ _))
  · exact puts (exec_areMin o s) (rowPick_fp r r.unit v w noRow hf _ _)
  · exact puts (exec_areMax o s) (rowPick_fp r r.unit v w noRow hf _ _)
  · exact puts (exec_areAnd o s) rfl
  · exact puts (exec_areOr o s) rfl
  · exact puts (exec_areXor o s) rfl
  · refine puts (exec_areCmp o s) ?_
    simp only [plain, Bool.and_eq_true, decide_eq_true_eq]
    rfl
  · exact puts ((exec_shl o s).trans (congrArg (areDo · s) (planShift_rows 0 hm))) (elems_codes _ _)
  · exact puts ((exec_shr o s).trans (congrArg (areDo · s) (planShift_rows 1 hm))) (elems_codes _ _)
  · refine puts ((exec_areSra o s).trans (congrArg (areDo · s) (planShift_rows 2 hm))) ((elems_codes _ _).trans ?_)
    simp only [shiftCode, fitInt, Bool.false_eq_true, if_false]
    push_cast
    rfl

end Sys2Proof.Proofs
end

section
/-! SUPPORT. Words of one row source or none (O30). -/

namespace Sys2Proof.Proofs

open Sys2Proof Sys2Proof.Machine Sys2Proof.Laws

section Word
variable {s s1 s3 : State} {d : DieId} {r : Run} {o : EOp} {v : RowVal} {i : Instr} {p : Plan} {data side : List Byte} {fl : Flg}
  (h : AtRun s d (.eng r.slot .are) r) (hs : r.started = true) (hu : r.unit < p.n)
include h hs hu

/-- A word whose plan reads its rows writes its destination row. -/
theorem plan_writes {t : State} {a b e : RowVal} (hp : p.scheme = .rows) (hi : exec i s = areDo p s) (hr : p.reads s ⟨d, .eng r.slot .are, 8⟩ r r.unit = .ok t (a, b, e))
    (hx : p.row r r.unit a b e = ⟨data, side, fl⟩)
    (hd : dstPut t ⟨d, .eng r.slot .are, 8⟩ r p.o.f1 (eFirst p.o 0 + r.unit) ⟨data, side, a.psn || b.psn || e.psn⟩ p.sc r.unit = .ok s3 ()) :
    exec i s = runNext s3 d (.eng r.slot .are) (rowDone r fl) :=
  hi.trans ((areDo_atRun h).trans (congrArg Host.Outcome.next (step_row hs hu hp hr hx hd)))
end Word

section Reads
variable {s s1 : State} {d : DieId} {r : Run} {o : EOp} {v : RowVal}

theorem perm_reads (hv : srcRow s d r.slot .are o.f2 o.b2 (eFirst o 1 + r.unit) = .ok s1 v) :
    (planPerm o).reads s ⟨d, .eng r.slot .are, 8⟩ r r.unit = .ok s1 (v, r.bc.getD noRow, noRow) := by
  simp only [Plan.reads, planPerm, planUn, Bool.false_and, Bool.false_eq_true, if_false, if_true, hv, got_bind_ok]
theorem mov_reads (hv : srcRow s d r.slot .are o.f2 o.b2 (eFirst o 1 + r.unit) = .ok s1 v) :
    (planMov o).reads s ⟨d, .eng r.slot .are, 8⟩ r r.unit = .ok s1 (v, noRow, noRow) := by
  simp only [Plan.reads, planMov, planUn, Bool.false_and, Bool.false_eq_true, if_false, hv, got_bind_ok]
theorem bcastRow_reads (hv : areSrc s d r.slot r o.f2 o.b2 true (eFirst o 1) = .ok s1 v) :
    (planBcastRow o).reads s ⟨d, .eng r.slot .are, 8⟩ r r.unit = .ok s1 (v, noRow, noRow) := by
  unfold areSrc at hv
  exact congrArg (fun g : Got RowVal => g.bind fun s v => (Got.ok s noRow).bind fun s v3 => (Got.ok s noRow).bind fun s v4 => Got.ok s (v, v3, v4)) hv
theorem bcastScal_reads : (planBcastScal o).reads s ⟨d, .eng r.slot .are, 8⟩ r r.unit = .ok s (noRow, noRow, noRow) := rfl
theorem iota_reads : (planIota o).reads s ⟨d, .eng r.slot .are, 8⟩ r r.unit = .ok s (noRow, noRow, noRow) := rfl
end Reads

/-- Settles O30: each word of one row source or none writes, element by element, its function of the row read. -/
theorem unaryRows : Obligations.UnaryRows := by
  unfold Obligations.UnaryRows
  intro s s1 s3 d k r o v h hk hs hu m wd n x draw fit put codes fn
  subst hk
  refine ⟨fun hv => ?_, fun hv hd => ?_, fun hd => ?_, fun hf hd => ?_, fun hf hd => ?_⟩
  · have puts {i : Instr} {f : Run → Nat → RowVal → RowVal → RowVal → RowOut} {data : List Byte} {fl : Flg} (hi : exec i s = areDo (planUn o f) s)
        (hx : f r r.unit v noRow noRow = ⟨data, [], fl⟩) : put s1 data [] v.psn false fl i := fun hd => un_writes h hs hu hv hi hx hd
    refine ⟨fun hf => ⟨?_, ?_⟩, fun hf => ⟨?_, ?_⟩, ?_, ?_, ?_, ?_, ?_, ?_, fun hd => ?_, ?_, ?_, ?_, fun ix hix hd => ?_, fun hm => ⟨?_, ?_, ?_⟩⟩
    · exact puts (exec_abs o s) (rowSign_int r r.unit v noRow noRow hf _ _)
    · exact puts (exec_neg o s) (rowSign_int r r.unit v noRow noRow hf _ _)
    · exact puts (exec_abs o s) (rowSign_fp r r.unit v noRow noRow hf _ _)
    · exact puts (exec_neg o s) (rowSign_fp r r.unit v noRow noRow hf _ _)
    · exact puts (exec_exp2 o s) (elems_eq _ _)
    · exact puts (exec_log2 o s) (elems_eq _ _)
    · exact puts (exec_rcp o s) (elems_eq _ _)
    · exact puts (exec_rsq o s) (elems_eq _ _)
    · exact puts (exec_tanh o s) (elems_eq _ _)
    · exact puts (exec_not o s) rfl
    · refine plan_writes (p := planMov o) h hs hu rfl (exec_mov o s) (mov_reads hv) rfl ?_
      rw [← Bool.or_false v.psn, ← Bool.or_false (v.psn || false)] at hd
      exact hd
    · exact puts (exec_bcastElem o s) (elems_codes _ _)
    · exact puts (exec_shufRot o s) (elems_codes _ _)
    · exact puts (exec_shufRev o s) (elems_codes _ _)
    · have hr := perm_reads hv
      rw [hix] at hr
      refine plan_writes (p := planPerm o) h hs hu rfl (exec_shufPerm o s) hr (elems_codes _ _) ?_
      rw [← Bool.or_false (v.psn || ix.psn)] at hd
      exact hd
    · exact puts ((exec_shl o s).trans (congrArg (areDo · s) (planShift_par 0 hm))) (elems_codes _ _)
    · exact puts ((exec_shr o s).trans (congrArg (areDo · s) (planShift_par 1 hm))) (elems_codes _ _)
    · refine puts ((exec_areSra o s).trans (congrArg (areDo · s) (planShift_par 2 hm))) ((elems_codes _ _).trans ?_)
      simp only [shiftCode, fitInt, Bool.false_eq_true, if_false]
      push_cast
      rfl
  · refine plan_writes (p := planBcastRow o) h hs hu rfl (exec_bcastRow o s) (bcastRow_reads hv) rfl ?_
    rw [← Bool.or_false v.psn, ← Bool.or_false (v.psn || false)] at hd
    exact hd
  · exact plan_writes (p := planBcastScal o) h hs hu rfl (exec_bcastScal o s) bcastScal_reads (elems_codes _ _) hd
  · refine plan_writes (p := planIota o) h hs hu rfl (exec_iota o s) iota_reads ?_ hd
    refine Eq.trans ?_ (elems_codes _ _)
    simp only [planIota, hf, if_true]
    rfl
  · refine plan_writes (p := planIota o) h hs hu rfl (exec_iota o s) iota_reads ?_ hd
    refine Eq.trans ?_ (elems_eq _ _)
    simp only [planIota, hf, Bool.false_eq_true, if_false]
    rfl

end Sys2Proof.Proofs
end

section
/-! SUPPORT. Words of three row sources, and reductions (O29). -/

namespace Sys2Proof.Proofs

open Sys2Proof Sys2Proof.Machine Sys2Proof.Laws

section Ternary
variable {s s1 s2 s3 : State} {d : DieId} {r : Run} {o : EOp} {v w c : RowVal} (hv : srcRow s d r.slot .are o.f2 o.b2 (eFirst o 1 + r.unit) = .ok s1 v)
  (hw : areSrc s1 d r.slot r o.f3 o.b3 (eMod o).bc (eFirst o 2) = .ok s2 w) (hc : tileRow s2 d r.slot (eMod o).oc false (eFirst o 3 + r.unit) = .ok s3 c)
include hv hw hc

theorem ternary_reads {f : Run → Nat → RowVal → RowVal → RowVal → RowOut} {out : Tag} {t : Tag} :
    Plan.reads { planBin o f out with s4 := some t } s ⟨d, .eng r.slot .are, 8⟩ r r.unit = .ok s3 (v, w, c) := by
  unfold areSrc at hw
  simp only [Plan.reads, planBin, Bool.false_and, Bool.false_eq_true, if_false, hv, got_bind_ok]
  refine (congrArg (fun g : Got RowVal => g.bind fun s v3 => (tileRow s d r.slot (eMod o).oc false (eFirst o 3 + r.unit)).bind fun s v4 => Got.ok s (v, v3, v4)) hw).trans ?_
  rw [got_bind_ok, hc, got_bind_ok]
end Ternary

/-! ## Reductions (R231) -/

theorem length_redRow (l : List (W32 × Bool)) : (rowOf tI32 (l.map fun q => q.1.toNat)).length = 512 := length_rowOf _ _

theorem valOf_word (x : W32) (side : List Byte) (fl : Flg) : valOf ⟨natLe 4 x.toNat, side, fl⟩ = x := by
  have hl : (natLe 4 x.toNat).take 4 = natLe 4 x.toNat := List.take_of_length_le (length_natLe _ _).le
  unfold valOf
  dsimp only
  rw [hl, leNat_natLe]
  exact BitVec.eq_of_toNat_eq (by rw [BitVec.toNat_ofNat]; exact Nat.mod_eq_of_lt (Nat.mod_lt _ (by decide)) |>.trans (Nat.mod_eq_of_lt x.isLt))

section Reduce
variable {s s1 : State} {d : DieId} {r : Run} {o : EOp} {v : RowVal} {op : Nat} (hs : r.started = true) (hu : r.unit < eCount o 1)
  (hv : srcRow s d r.slot .are o.f2 o.b2 (eFirst o 1 + r.unit) = .ok s1 v)
include hs hu hv

/-- A source row reduced to a value that the run keeps. -/
theorem red_keeps : (planRed op false o).step s ⟨d, .eng r.slot .are, 8⟩ r = s1.setRun ⟨d, .eng r.slot .are, 8⟩
    { r with unit := r.unit + 1, red := r.red ++ [((reduceVal op o (r.draw o r.unit) v).1, v.psn)], flags := r.flags ||| (reduceVal op o (r.draw o r.unit) v).2 } := by
  rw [step_reduce hs hu rfl, Plan.reduceStep]
  change unitDo s _ r r.unit ((srcRow s d r.slot .are o.f2 o.b2 (eFirst o 1 + r.unit)).bind _) = _
  rw [hv, got_bind_ok]
  simp only [planRed, Bool.false_eq_true, if_false, valOf_word, unitDo_ok]
/-- A source row reduced to a value that joins the result queue, where it has room and the entry's writes have left. -/
theorem redq_pushes (hq : (vget (s1.slot d r.slot).rq 1).length < 16) (hsb : (s1.ag d (.eng r.slot .are)).sb = []) :
    (planRed op true o).step s ⟨d, .eng r.slot .are, 8⟩ r = (s1.modSlot d r.slot fun t => { t with rq := vset t.rq 1 (vget t.rq 1 ++
      [(if fmtINT o.fmt then (reduceVal op o (r.draw o 0) v).1.signExtend 64 else (reduceVal op o (r.draw o 0) v).1.setWidth 64, v.psn)]) }).setRun ⟨d, .eng r.slot .are, 8⟩
      (rowDone r (reduceVal op o (r.draw o 0) v).2) := by
  rw [step_reduce hs hu rfl, Plan.reduceStep]
  change unitDo s _ r r.unit ((srcRow s d r.slot .are o.f2 o.b2 (eFirst o 1 + r.unit)).bind _) = _
  rw [hv, got_bind_ok]
  have hno : ¬(16 ≤ (vget (s1.slot d r.slot).rq 1).length || !(s1.ag d (.eng r.slot .are)).sb.isEmpty) = true := by
    simp [hsb, hq]
  simp only [planRed, if_true, valOf_word, rqPush]
  rw [if_neg hno, got_bind_ok, unitDo_ok]
  rfl
theorem redq_waits (hq : 16 ≤ (vget (s1.slot d r.slot).rq 1).length ∨ (s1.ag d (.eng r.slot .are)).sb ≠ []) : (planRed op true o).step s ⟨d, .eng r.slot .are, 8⟩ r = s := by
  rw [step_reduce hs hu rfl, Plan.reduceStep]
  change unitDo s _ r r.unit ((srcRow s d r.slot .are o.f2 o.b2 (eFirst o 1 + r.unit)).bind _) = _
  rw [hv, got_bind_ok]
  have hyes : (16 ≤ (vget (s1.slot d r.slot).rq 1).length || !(s1.ag d (.eng r.slot .are)).sb.isEmpty) = true := by
    rcases hq with hq | hq
    · simp [hq]
    · cases hl : (s1.ag d (.eng r.slot .are)).sb with
      | nil => exact absurd hl hq
      | cons x l => simp
  simp only [planRed, if_true, valOf_word, rqPush]
  rw [if_pos hyes]
  rfl
end Reduce

theorem foldl_add_eq_sum (l : List Int) (a : Int) : l.foldl (· + ·) a = a + l.sum := by
  induction l generalizing a with
  | nil => simp
  | cons x l ih => rw [List.foldl_cons, ih, List.sum_cons, Int.add_assoc]
theorem reduceSum_int {o : EOp} (hf : fmtINT o.fmt = true) (draw : W32) (v : RowVal) :
    (reduceVal 0 o draw v).1 = BitVec.ofInt 32 (if (eMod o).sat then max (-2147483648) (min ((List.range (fcount o.fmt)).map fun j => sInt (fwidth o.fmt) (rowElem (fwidth o.fmt) (leNat v.data) j)).sum 2147483647)
      else ((List.range (fcount o.fmt)).map fun j => sInt (fwidth o.fmt) (rowElem (fwidth o.fmt) (leNat v.data) j)).sum) := by
  have hmap : (((List.range (fcount o.fmt)).map fun j => code o.fmt v j).map (sInt (fwidth o.fmt))).foldl (· + ·) 0 =
      ((List.range (fcount o.fmt)).map fun j => sInt (fwidth o.fmt) (rowElem (fwidth o.fmt) (leNat v.data) j)).sum := by
    rw [foldl_add_eq_sum, Int.zero_add, List.map_map]
    rfl
  simp only [reduceVal, hf, if_true]
  rw [hmap, fitInt]
  refine BitVec.eq_of_toNat_eq ?_
  rw [BitVec.toNat_ofNat, BitVec.toNat_ofInt]
  norm_num
  exact Int.emod_lt_of_pos _ (by decide)

theorem areRun_slot (s : State) (d : DieId) (k : SlotId) (r : Run) : (s.setRun ⟨d, .eng k .are, 8⟩ r).slot d k = { s.slot d k with are := some r } := by
  simp only [State.setRun, State.slot, State.die_modDie_same, setCurRun_engine (c := ⟨d, .eng k .are, 8⟩) rfl, Die.setRun, Die.slot_modSlot_same]

/-- Settles O29: three sources come to one row, and each source row of a reduction to one value. -/
theorem ternaryRowsAndReductions : Obligations.TernaryRowsAndReductions := by
  unfold Obligations.TernaryRowsAndReductions
  refine ⟨?_, ?_, ?_⟩
  · intro s s1 s2 s3 s4 d k r o v w c h hk hs hu hv hw hc m el put draw e
    subst hk
    refine ⟨fun hd => ?_, fun hd => ?_⟩
    · exact plan_writes (p := planFma o) h hs hu rfl (exec_fma o s) (ternary_reads hv hw hc) (elems_eq _ _) hd
    · exact plan_writes (p := planSel o) h hs hu rfl (exec_sel o s) (ternary_reads hv hw hc) (elems_codes _ _) hd
  · intro s s1 d k r o v h hk hs hu hv draw red redq
    subst hk
    have reds {op : Nat} {i : Instr} (hi : exec i s = areDo (planRed op false o) s) : red op i :=
      hi.trans ((areDo_atRun h).trans (congrArg Host.Outcome.next (red_keeps hs hu hv)))
    have redqs {op : Nat} {i : Instr} (hi : exec i s = areDo (planRed op true o) s) : redq op i :=
      ⟨fun hq hsb => hi.trans ((areDo_atRun h).trans (congrArg Host.Outcome.next (redq_pushes hs hu hv hq hsb))),
        fun hq => hi.trans ((areDo_atRun h).trans (congrArg Host.Outcome.next (redq_waits hs hu hv hq)))⟩
    exact ⟨reds (exec_redSum o s), reds (exec_redMax o s), reds (exec_redMin o s), reds (exec_redSsq o s), reds (exec_redAmax o s),
      redqs (exec_redqSum o s), redqs (exec_redqMax o s), redqs (exec_redqMin o s), redqs (exec_redqSsq o s), redqs (exec_redqAmax o s), fun hf => reduceSum_int hf _ v⟩
  · intro s d k r o x hinv h hk hs hu ht hrow hx
    subst hk
    obtain ⟨op, hi⟩ : ∃ op, exec (x o) s = areDo (planRed op false o) s := by
      rcases hx with rfl | rfl | rfl | rfl | rfl
      · exact ⟨0, exec_redSum o s⟩
      · exact ⟨1, exec_redMax o s⟩
      · exact ⟨2, exec_redMin o s⟩
      · exact ⟨3, exec_redSsq o s⟩
      · exact ⟨4, exec_redAmax o s⟩
    have he := hi.trans ((areDo_atRun h).trans (congrArg Host.Outcome.next (step_reduceEnd (p := planRed op false o) hs hu rfl)))
    have htile : ((((planRed op false o).reduceEnd s ⟨d, .eng r.slot .are, 8⟩ r).slot d r.slot).tile o.f1) =
        ((s.slot d r.slot).tile o.f1).put (eFirst o 0) ⟨rowOf tI32 (r.red.map fun q => q.1.toNat), [], r.red.any (·.2)⟩ false := by
      rw [Plan.reduceEnd, State.advRun, areRun_slot, State.slot_modSlot_same]
      exact modTile_tile_same _ _ _
    have hd : spWf 0 ((s.slot d r.slot).tile o.f1).data = true := hinv.data d r.slot _
    refine ⟨_, he, ?_, ?_, ?_⟩
    · exact (sameMem_modDie s d _ rfl).trans (setRun_sameMem _ _ _)
    · rw [Plan.reduceEnd, State.advRun, areRun_slot]
      rfl
    · rw [htile]
      refine ⟨(put_isFull hrow _).trans (if_pos rfl), (put_isPsn hrow _).trans (if_pos rfl), (put_data hd (length_redRow _) _).trans (if_pos rfl), fun j hj hne => ⟨?_, ?_⟩⟩
      · exact (put_isFull hrow _).trans (if_neg hne)
      · exact (put_data hd (length_redRow _) _).trans (if_neg hne)

end Sys2Proof.Proofs
end

section
/-! SUPPORT. Conversions over the flattened sequence, and the transpose (O31). -/

namespace Sys2Proof.Proofs

open Sys2Proof Sys2Proof.Machine Sys2Proof.Laws

/-- The source rows of a destination row, end to end (R236). -/
def endToEnd (vs : List RowVal) : RowVal := ⟨vs.flatMap (·.data), vs.flatMap (·.side), vs.any (·.psn)⟩

/-- A row of the flattened sequence, its source rows read from a tile. -/
theorem flat_writes {p : Plan} {s s1 s3 : State} {d : DieId} {r : Run} {i : Instr} {vs : List RowVal} {data side : List Byte} {fl : Flg} (h : AtRun s d (.eng r.slot .are) r)
    (hs : r.started = true) (hu : r.unit < p.n) (hp : p.scheme = .flat) (ht : isTile p.o.f2 = true) (hi : exec i s = areDo p s)
    (hr : tileRows s d r.slot p.o.f2 p.o.b2 (eFirst p.o 1 + (p.draws r r.unit).1) (p.draws r r.unit).2 = .ok s1 vs)
    (hx : p.row r r.unit (endToEnd vs) noRow noRow = ⟨data, side, fl⟩)
    (hd : dstPut s1 ⟨d, .eng r.slot .are, 8⟩ r p.o.f1 (eFirst p.o 0 + r.unit) ⟨data, side, vs.any (·.psn)⟩ p.sc r.unit = .ok s3 ()) :
    exec i s = runNext s3 d (.eng r.slot .are) { rowDone r fl with buf := [] } := by
  refine hi.trans ((areDo_atRun h).trans (congrArg Host.Outcome.next ((step_flat hs hu hp).trans ?_)))
  unfold endToEnd at hx
  simp only [Plan.flatStep, ht, if_true, hr, got_bind_ok, hx, hd, unitDo_ok]
  rfl

/-! ## The transpose (R234) -/

theorem tileRows_rest {s s1 : State} {d : DieId} {k : SlotId} {c : BitVec 5} {b : Bool} {f n : Nat} {vs : List RowVal} (h : tileRows s d k c b f n = .ok s1 vs) :
    s1.dies = s.dies ∧ vs.length = n := by
  induction n generalizing s s1 f vs with
  | zero =>
    cases h
    exact ⟨rfl, rfl⟩
  | succ n ih =>
    unfold tileRows at h
    cases q : tileRow s d k c b f with
    | wait => rw [q] at h; exact nomatch h
    | fault t x a => rw [q] at h; exact nomatch h
    | ok t v =>
      rw [q, got_bind_ok] at h
      cases q' : tileRows t d k c b (f + 1) n with
      | wait => rw [q'] at h; exact nomatch h
      | fault t x a => rw [q'] at h; exact nomatch h
      | ok u us =>
        rw [q', got_bind_ok] at h
        obtain ⟨hd, hl⟩ := ih q'
        cases h
        exact ⟨hd.trans (tileRow_dies q), congrArg (· + 1) hl⟩

/-- Rows written one after another from row `f` on. -/
def putRows (f : Nat) (out : Nat → RowVal) (sc : Bool) (n : Nat) (t : Tile) : Tile := (List.range n).foldl (fun x i => x.put (f + i) (out i) sc) t

section PutRows
variable {f : Nat} {out : Nat → RowVal} {sc : Bool} {t : Tile}

theorem putRows_succ (n : Nat) : putRows f out sc (n + 1) t = (putRows f out sc n t).put (f + n) (out n) sc := by
  simp only [putRows, List.range_succ, List.foldl_append, List.foldl_cons, List.foldl_nil]
theorem putRows_wf (hd : spWf 0 t.data = true) (n : Nat) : spWf 0 (putRows f out sc n t).data = true := by
  induction n with
  | zero => exact hd
  | succ n ih => rw [putRows_succ]; exact spWf_spWrite 0 _ _ _ ih
theorem putRows_row (hd : spWf 0 t.data = true) {n i : Nat} (ho : ∀ j < n, (out j).data.length = 512) (hi : i < n) (hn : f + n ≤ 64) :
    (putRows f out sc n t).isFull (f + i) = true ∧ ((putRows f out sc n t).row (f + i)).data = (out i).data := by
  induction n with
  | zero => omega
  | succ n ih =>
    rw [putRows_succ, put_isFull (by omega), put_data (putRows_wf hd n) (ho n (Nat.lt_succ_self n))]
    by_cases h : i = n
    · subst h
      exact ⟨if_pos rfl, if_pos rfl⟩
    · rw [if_neg (by omega), if_neg (by omega)]
      exact ih (fun j hj => ho j (by omega)) (by omega) (by omega)
end PutRows

/-- Row `i` of a group of rows transposed. -/
def transposed (o : EOp) (vs : List RowVal) (i : Nat) : RowVal :=
  ⟨rowOf o.fmt ((List.range (fcount o.fmt)).map fun j => rowElem (fwidth o.fmt) (listGet 0 (vs.map fun v => leNat v.data) (j % 32)) (j / 32 * 32 + i)), [], vs.any (·.psn)⟩

theorem listGet_leNat (vs : List RowVal) (j : Nat) : listGet 0 (vs.map fun v => leNat v.data) j = leNat (listGet noRow vs j).data := by
  unfold listGet
  rw [List.getD_eq_getElem?_getD, List.getD_eq_getElem?_getD, List.getElem?_map]
  cases vs[j]? <;> rfl

theorem trn_step {s s1 : State} {d : DieId} {r : Run} {o : EOp} {vs : List RowVal} (hs : r.started = true) (hu : r.unit < eCount o 0)
    (hr : tileRows s d r.slot o.f2 o.b2 (eFirst o 1 + r.unit) 32 = .ok s1 vs) :
    (planTrn o).step s ⟨d, .eng r.slot .are, 8⟩ r = (s1.modSlot d r.slot fun t => t.modTile o.f1 (putRows (eFirst o 0 + r.unit) (transposed o vs) false 32)).setRun ⟨d, .eng r.slot .are, 8⟩
      { r with unit := r.unit + 32, rw := r.rw + 32 } := by
  rw [step_blocks hs hu rfl, Plan.blockStep]
  change unitDo s _ r _ ((tileRows s d r.slot o.f2 o.b2 (eFirst o 1 + r.unit) 32).bind _) = _
  rw [hr, got_bind_ok, unitDo_ok]
  rfl

/-- Settles O31: a converted row takes its elements from the source rows laid end to end, and a transposed group every element from its mirror place. -/
theorem conversionsAndTranspose : Obligations.ConversionsAndTranspose := by
  unfold Obligations.ConversionsAndTranspose
  intro s s1 s3 d k r o h hk hs hu
  subst hk
  refine ⟨fun vs ht => ?_, fun vs hinv hr hfit => ?_⟩
  · intro first cnt hr m data side at_ x draw put row
    refine ⟨fun hd => ?_, fun hd => ?_, fun hd => ?_⟩
    · exact flat_writes (p := planCvt o) h hs hu rfl ht (exec_cvt o s) hr (elems_eq _ _) hd
    · exact flat_writes (p := planDqt o) h hs hu rfl ht (exec_dqt o s) hr (elems_eq _ _) hd
    · exact flat_writes (p := planQnt o) h hs hu rfl ht (exec_qnt o s) hr rfl hd
  · have he := (exec_trn o s).trans ((areDo_atRun h).trans (congrArg Host.Outcome.next (trn_step hs hu hr)))
    obtain ⟨hdies, -⟩ := tileRows_rest hr
    have hslot : s1.slot d r.slot = s.slot d r.slot := congrArg (fun v => (vget v d).slot r.slot) hdies
    refine ⟨_, he, by rw [areRun_slot], fun i hi => ?_⟩
    have hd : spWf 0 ((s1.slot d r.slot).tile o.f1).data = true := by
      rw [hslot]
      exact hinv.data d r.slot _
    have hput := putRows_row (f := eFirst o 0 + r.unit) (out := transposed o vs) (sc := false) hd (fun _ _ => length_rowOf _ _) hi hfit
    rw [areRun_slot, State.slot_modSlot_same]
    change (((s1.slot d r.slot).modTile o.f1 _).tile o.f1).isFull _ = true ∧ ((((s1.slot d r.slot).modTile o.f1 _).tile o.f1).row _).data = _
    rw [modTile_tile_same]
    refine ⟨hput.1, hput.2.trans ?_⟩
    simp only [transposed, listGet_leNat]

end Sys2Proof.Proofs
end

section
/-! SUPPORT. The matrix engine's words: weights, tables, passes, drains (O34). -/

namespace Sys2Proof.Proofs

open Sys2Proof Sys2Proof.Machine Sys2Proof.Laws

/-! ## The run and the parts of a die that a word of the matrix engine leaves -/

theorem mxeRun_slot (s : State) (d : DieId) (k j : SlotId) (r : Run) : (s.setRun ⟨d, .eng k .mxe, 8⟩ r).slot d j = if k = j then { s.slot d j with mxe := some r } else s.slot d j := by
  simp only [State.setRun, State.slot, State.die_modDie_same, setCurRun_engine (c := ⟨d, .eng k .mxe, 8⟩) rfl, Die.setRun]
  by_cases h : k = j
  · subst h
    rw [if_pos rfl, Die.slot_modSlot_same]
  · rw [if_neg h, Die.slot_modSlot_ne _ h]
theorem mxeRun_mxe (s : State) (d : DieId) (k : SlotId) (r : Run) : ((s.setRun ⟨d, .eng k .mxe, 8⟩ r).slot d k).mxe = some r := by
  rw [mxeRun_slot, if_pos rfl]
/-- What is not a run of an engine stays through the step of a run. -/
theorem mxeRun_keep {α : Type} (F : Slot → α) (hF : ∀ t m, F { t with mxe := m } = F t) (s : State) (d : DieId) (k j : SlotId) (r : Run) :
    F ((s.setRun ⟨d, .eng k .mxe, 8⟩ r).slot d j) = F (s.slot d j) := by
  rw [mxeRun_slot]
  split
  · exact hF _ _
  · rfl
theorem mxeRun_layOf (s : State) (d : DieId) (k g : SlotId) (r : Run) : ((s.setRun ⟨d, .eng k .mxe, 8⟩ r).die d).layOf g = (s.die d).layOf g := by
  rw [State.setRun, State.die_modDie_same, Die.layOf, setCurRun_lay (c := ⟨d, .eng k .mxe, 8⟩) rfl]
  rfl

theorem sameMem_dies {s t : State} (h : t.dies = s.dies) : SameMem s t := fun d a => by
  have : t.die d = s.die d := congrArg (fun v => vget v d) h
  rw [this]

/-! ## Accumulator rows -/

theorem accPlace_sides (b : SlotId) (row : Nat) : (accPlace b row 0).1 ≠ (accPlace b row 512).1 := by
  intro h
  rw [accPlace_slot, accPlace_slot, Fin.ext_iff] at h
  simp only [mkSlot] at h
  omega
theorem accRow_congr {d e : Die} (b : SlotId) (row n : Nat) (h : ∀ j, (e.slot j).bank.acc = (d.slot j).bank.acc) : e.accRow b row n = d.accRow b row n := by
  unfold Die.accRow
  dsimp only
  rw [h, h]
/-- A row of at most 1,024 values reads back as it was written. -/
theorem accRow_putAccRow {d : Die} (hwf : BanksWf d) (b : SlotId) (row : Nat) {vs : List W32} (hn : vs.length ≤ 1024) : (d.putAccRow b row vs).accRow b row vs.length = vs := by
  have hne := accPlace_sides b row
  have hlo : (accPlace b row 0).2.1 = row % 128 := rfl
  have hhi : (accPlace b row 512).2.1 = row % 128 := rfl
  have hbank (y : Die) (k : SlotId) (us : List W32) : ((y.modBank k (writeBank row us)).slot k).bank.acc = spWrite 0 (y.slot k).bank.acc (512 * (row % 128)) us := by
    rw [bank_modBank, if_pos rfl]
    rfl
  have hother (y : Die) {k j : SlotId} (us : List W32) (h : k ≠ j) : ((y.modBank k (writeBank row us)).slot j).bank.acc = (y.slot j).bank.acc := by
    rw [bank_modBank, if_neg h]
  rw [putAccRow_eq]
  unfold Die.accRow
  dsimp only
  rw [hlo, hhi]
  split
  · next hle =>
    have ht : vs.take 512 = vs := List.take_of_length_le hle
    rw [hbank, ht, min_eq_left hle, Nat.sub_eq_zero_of_le hle, spRead_spWrite_same (hwf _), spRead, List.append_nil]
  · next hgt =>
    have ht : (vs.take 512).length = 512 := by rw [List.length_take]; omega
    have hd : (vs.drop 512).length = vs.length - 512 := List.length_drop
    have h1 := spRead_spWrite_same (hwf (accPlace b row 0).1) (512 * (row % 128)) (vs.take 512)
    have h2 := spRead_spWrite_same (hwf (accPlace b row 512).1) (512 * (row % 128)) (vs.drop 512)
    rw [ht] at h1
    rw [hd] at h2
    rw [hother _ _ hne.symm, hbank, hbank, hother _ _ hne, min_eq_right (by omega), h1, h2, List.take_append_drop]

/-! ## Weights, tables and the semiring -/

/-- A bank with `t` as its tables. -/
def tableBank (t : Sparse Byte) (psn : Bool) (x : Bank) : Bank := { x with cb := .replicate 2 t, cbPsn := .replicate 2 psn }
/-- Every bank of the slots `l` takes the tables. -/
theorem tables_taken (t : Sparse Byte) (psn : Bool) (l : List SlotId) (j : SlotId) (y : Die)
    (h : j ∈ l ∨ ∀ i : Fin 2, vget (y.slot j).bank.cb i = t ∧ vget (y.slot j).bank.cbPsn i = psn) (i : Fin 2) :
    vget ((l.foldl (fun d k => d.modBank k (tableBank t psn)) y).slot j).bank.cb i = t ∧ vget ((l.foldl (fun d k => d.modBank k (tableBank t psn)) y).slot j).bank.cbPsn i = psn := by
  induction l generalizing y with
  | nil => exact h.elim (fun h => absurd h List.not_mem_nil) fun h => h i
  | cons k l ih =>
    refine ih _ ?_
    by_cases hl : j ∈ l
    · exact .inl hl
    · refine .inr fun i => ?_
      rw [bank_modBank]
      split
      · exact ⟨Vector.getElem_replicate _, Vector.getElem_replicate _⟩
      · next hk =>
        refine (h.resolve_left fun hm => ?_) i
        rcases List.mem_cons.1 hm with rfl | hm
        · exact hk rfl
        · exact hl hm

section Words
variable {s s1 : State} {d : DieId} {k : SlotId} {r : Run} {o : EOp} {v : RowVal}

theorem mldb_begins (hs : r.started = false) (hc : srcCheck (s.die d) r.slot o.f2 o.fmt (eMod o).raw = none) (h0 : fld (r.par o.f1) 11 53 = 0)
    (hn : fld (r.par o.f1) 0 11 + eCount o 0 ≤ (s.frag ⟨d, .eng k .mxe, 8⟩).cols) :
    mldbStep s ⟨d, .eng k .mxe, 8⟩ r o = (s.modDie d fun y => y.modLay k fun z => { z with wfmt := o.fmt }).setRun ⟨d, .eng k .mxe, 8⟩ { r with started := true } := by
  have hno : ¬((fld (r.par o.f1) 11 53 != 0 || decide ((s.frag ⟨d, .eng k .mxe, 8⟩).cols < fld (r.par o.f1) 0 11 + eCount o 0)) = true) := by
    simpa [h0] using hn
  simp only [mldbStep, hs, Bool.not_false, if_true, hc]
  rw [if_neg hno]
  rfl
theorem mldb_row (hs : r.started = true) (hu : r.unit < eCount o 0) (hv : srcRow s d r.slot .mxe o.f2 o.b2 (eFirst o 1 + r.unit) = .ok s1 v) :
    mldbStep s ⟨d, .eng k .mxe, 8⟩ r o = (s1.modDie d (putColumn (s.frag ⟨d, .eng k .mxe, 8⟩) o.fmt (fld (r.par o.f1) 0 11 + r.unit) v)).setRun ⟨d, .eng k .mxe, 8⟩ { r with unit := r.unit + 1 } := by
  simp only [mldbStep, hs, Bool.not_true, Bool.false_eq_true, if_false, hu, if_true, hv, got_bind_ok, unitDo_ok]
theorem mldb_over (hs : r.started = true) (hu : eCount o 0 ≤ r.unit) : mldbStep s ⟨d, .eng k .mxe, 8⟩ r o = s.setRun ⟨d, .eng k .mxe, 8⟩ (r.adv o.na) := by
  simp only [mldbStep, hs, Bool.not_true, Bool.false_eq_true, if_false, Nat.not_lt.2 hu]
  rfl
theorem mcb_takes {s2 : State} {u : RowVal} (hv : tileRow s d r.slot o.f2 o.b2 (eFirst o 1) = .ok s1 v) (hw : tileRow s1 d r.slot o.f2 o.b2 (eFirst o 1 + 1) = .ok s2 u) :
    mcbStep s ⟨d, .eng k .mxe, 8⟩ r o = (s2.modDie d fun y => (s.frag ⟨d, .eng k .mxe, 8⟩).slots.foldl
      (fun d k => d.modBank k (tableBank (spWrite 0 [] 0 (v.data ++ u.data.take 256)) (v.psn || u.psn))) y).setRun ⟨d, .eng k .mxe, 8⟩ (r.adv o.na) := by
  simp only [mcbStep, hv, got_bind_ok, hw]
  rfl

/-! ## Passes (R256 to R258) -/

theorem pass_begins (hs : r.started = false) (hc : mmulCheck s ⟨d, .eng k .mxe, 8⟩ r o = none) (m : Bool) :
    passStep s ⟨d, .eng k .mxe, 8⟩ r o m = s.setRun ⟨d, .eng k .mxe, 8⟩ { r with started := true } := by
  simp only [passStep, hs, Bool.not_false, if_true, hc]
theorem pass_over (hs : r.started = true) (hu : eCount o 0 ≤ r.unit) (m : Bool) : passStep s ⟨d, .eng k .mxe, 8⟩ r o m = s.setRun ⟨d, .eng k .mxe, 8⟩ (r.adv o.na) := by
  simp only [passStep, hs, Bool.not_true, Bool.false_eq_true, if_false, Nat.not_lt.2 hu]
  rfl

/-- A die after a pass of row `v`. -/
def passed (f : Frag) (o : EOp) (r : Run) (v : RowVal) (dn : DieId) (d : Die) : Die :=
  f.slots.foldl (fun d k => d.modSlot k fun t => { t with w := passW f.y.semi })
    (((addPass f o.fmt (winOf (r.par o.f3)) v ((winOf (r.par o.f3)).arow + r.unit) d).countSlot dn r.slot 1 1).countSlot dn r.slot 2 1)

theorem tile_ne_chain {c : BitVec 5} (h : isTile c = true) : (c == opCH) = false := by
  refine beq_eq_false_iff_ne.2 ?_
  rintro rfl
  exact absurd h (by decide)
theorem tile_ne_queue {c : BitVec 5} (h : isTile c = true) : (c == opRQ) = false := beq_eq_false_iff_ne.2 (isTile_ne_opRQ h)

/-- A pass whose row is taken from a tile. -/
theorem pass_row {m : Bool} (hs : r.started = true) (hu : r.unit < eCount o 0) (ht : isTile o.f2 = true) (huse : (!m || bitAt (r.par (eMod o).oc) r.unit) = true)
    (hv : tileRow s d r.slot o.f2 o.b2 (eFirst o 1 + r.unit) = .ok s1 v) :
    passStep s ⟨d, .eng k .mxe, 8⟩ r o m = (s1.modDie d (passed (s.frag ⟨d, .eng k .mxe, 8⟩) o r v d)).setRun ⟨d, .eng k .mxe, 8⟩ { r with unit := r.unit + 1 } := by
  simp only [passStep, hs, Bool.not_true, Bool.false_eq_true, if_false, hu, if_true, huse, tile_ne_chain ht, ht, hv, got_bind_ok, unitDo_ok]
  rfl
/-- A row that the mask leaves out. -/
theorem pass_masked (hs : r.started = true) (hu : r.unit < eCount o 0) (ht : isTile o.f2 = true) (hm : bitAt (r.par (eMod o).oc) r.unit = false) :
    passStep s ⟨d, .eng k .mxe, 8⟩ r o true = s.setRun ⟨d, .eng k .mxe, 8⟩ { r with unit := r.unit + 1 } := by
  simp only [passStep, hs, Bool.not_true, Bool.false_eq_true, if_false, hu, if_true, hm, Bool.or_self, tile_ne_chain ht, ht, got_bind_ok, unitDo_ok, Bool.not_false]
end Words

theorem foldl_modSlot_keep {α : Type} (F : Slot → α) (g : Slot → Slot) (hF : ∀ t, F (g t) = F t) (l : List SlotId) (y : Die) (j : SlotId) :
    F ((l.foldl (fun d k => d.modSlot k g) y).slot j) = F (y.slot j) := by
  induction l generalizing y with
  | nil => rfl
  | cons k l ih => exact (ih _).trans (slot_modSlot_keeps F y k j hF)

section Passed
variable (f : Frag) (o : EOp) (r : Run) (v : RowVal) (dn : DieId) (d : Die)

theorem passed_acc (j : SlotId) : ((passed f o r v dn d).slot j).bank.acc = ((addPass f o.fmt (winOf (r.par o.f3)) v ((winOf (r.par o.f3)).arow + r.unit) d).slot j).bank.acc := by
  unfold passed
  refine (foldl_modSlot_keep (fun t => t.bank.acc) (fun t => { t with w := passW f.y.semi }) (fun _ => rfl) _ _ _).trans ?_
  exact (countSlot_keep (fun t => t.bank.acc) (fun _ _ => rfl) _ dn r.slot j 2 1).trans (countSlot_keep (fun t => t.bank.acc) (fun _ _ => rfl) _ dn r.slot j 1 1)
theorem addPass_mem (t : Tag) (x : AWin) (row : Nat) : (addPass f t x v row d).mem = d.mem := by
  unfold addPass
  dsimp only
  split
  · rw [mem_setAccPsn, mem_putAccRow]
  · rw [mem_putAccRow]
theorem passed_mem : (passed f o r v dn d).mem = d.mem := by
  unfold passed
  rw [foldl_modSlot_rest]
  dsimp only
  rw [Die.countSlot_mem, Die.countSlot_mem, addPass_mem]
theorem winCols_le (x : AWin) (h : x.nx < 32) : x.cols f ≤ 1024 := by
  unfold AWin.cols
  split
  · exact cols_le f
  · omega
theorem winOf_nx_lt (w : Word) : (winOf w).nx < 32 := by
  have : fld w 32 5 < 2 ^ 5 := by rw [fld_eq]; exact Nat.mod_lt _ (by decide)
  exact this
theorem addPass_accRow (t : Tag) (w : Word) (row : Nat) (hwf : BanksWf d) : (addPass f t (winOf w) v row d).accRow f.b row ((winOf w).cols f) =
    (List.range ((winOf w).cols f)).map fun c => accAdd f.y.semi (fcode t == 7) (listGet 0 (d.accRow f.b row ((winOf w).cols f)) c)
      (columnPart d f t v (1024 * (winOf w).aoff / fwidth t) (8 * (if (winOf w).kx = 0 then f.kd else 4 * (winOf w).kx) / fwidth t) c) := by
  have hput := accRow_putAccRow hwf f.b row (vs := (List.range ((winOf w).cols f)).map fun c => accAdd f.y.semi (fcode t == 7) (listGet 0 (d.accRow f.b row ((winOf w).cols f)) c)
      (columnPart d f t v (1024 * (winOf w).aoff / fwidth t) (8 * (if (winOf w).kx = 0 then f.kd else 4 * (winOf w).kx) / fwidth t) c))
    (by rw [List.length_map, List.length_range]; exact winCols_le f _ (winOf_nx_lt w))
  rw [List.length_map, List.length_range] at hput
  unfold addPass
  dsimp only
  split
  · rw [accRow_congr (d := d.putAccRow f.b row _) f.b row _ fun j => acc_setAccPsn _ _ j _ _]
    exact hput
  · exact hput
end Passed

end Sys2Proof.Proofs
end

section
/-! SUPPORT. Drains, and the statement about the matrix words (O34). -/

namespace Sys2Proof.Proofs

open Sys2Proof Sys2Proof.Machine Sys2Proof.Laws

/-! ## The rows of a drain -/

/-- Output rows of one accumulator row. -/
def drainCount (o : EOp) (nx : Nat) : Nat := (nx * fwidth o.fmt + 4095) / 4096

theorem length_drainRows (o : EOp) (seed : W32) (rw nx : Nat) (ws : List W32) : (drainRows o seed rw nx ws).length = drainCount o nx := by
  simp only [drainRows, List.length_map, List.length_range]
  rfl
theorem length_drainRow (o : EOp) (seed : W32) (rw nx : Nat) (ws : List W32) {i : Nat} (hi : i < drainCount o nx) :
    ((drainRows o seed rw nx ws).getD i ([], [], 0)).1.length = 512 := by
  have hi' : i < (nx * fwidth o.fmt + 4095) / 4096 := hi
  rw [List.getD_eq_getElem _ _ (by rw [length_drainRows]; exact hi)]
  simp only [drainRows, List.getElem_map, List.getElem_range]
  split <;> exact length_rowOf _ _

/-- The rows as a tile takes them. -/
def drainVals (o : EOp) (seed : W32) (rw nx : Nat) (ws : List W32) : List RowVal := (drainRows o seed rw nx ws).map fun y => ⟨y.1, y.2.1, false⟩
theorem drainVals_data (o : EOp) (seed : W32) (rw nx : Nat) (ws : List W32) (i : Nat) :
    ((drainVals o seed rw nx ws).getD i ⟨[], [], false⟩).data = ((drainRows o seed rw nx ws).getD i ([], [], 0)).1 := by
  rw [drainVals, List.getD_eq_getElem?_getD, List.getD_eq_getElem?_getD, List.getElem?_map]
  cases (drainRows o seed rw nx ws)[i]? <;> rfl

/-! ## What `CLR` changes -/

section Clear
variable (f : Frag) (x : AWin) (row : Nat) (d : Die)

theorem clearRow_off (h : x.clr = false) : clearRow f x row d = d := if_pos (by rw [h]; rfl)
theorem clearRow_mem : (clearRow f x row d).mem = d.mem := by
  unfold clearRow
  split
  · rfl
  · dsimp only
    split
    · rw [mem_setAccPsn, mem_putAccRow]
    · rw [mem_putAccRow]
theorem clearRow_lay : (clearRow f x row d).lay = d.lay := by
  unfold clearRow
  split
  · rfl
  · dsimp only
    split
    · rw [lay_setAccPsn, lay_putAccRow]
    · rw [lay_putAccRow]
end Clear

section Drain
variable {s : State} {d : DieId} {k : SlotId} {r : Run} {o : EOp} (hs : r.started = true)
  (hpsn : (s.die d).accPsn k ((winOf (r.par o.f3)).arow + r.unit) = false)
include hs

theorem drain_over (hu : eCount o 0 ≤ r.unit) : mdrainStep s ⟨d, .eng k .mxe, 8⟩ r o = s.setRun ⟨d, .eng k .mxe, 8⟩ (r.adv o.na) := by
  have hno (p : Nat) : ¬ r.unit < eCount o 0 / p := fun h => absurd (h.trans_le (Nat.div_le_self _ _)) (Nat.not_lt.2 hu)
  simp only [mdrainStep, hs, Bool.not_true, Bool.false_eq_true, if_false, hno]
  rfl

include hpsn

/-- A drain to a tile writes the output rows of one accumulator row. -/
theorem drain_tile (hp : r.part = 0) (ht : isTile o.f1 = true) (hu : r.unit < eCount o 0 / drainCount o ((winOf (r.par o.f3)).cols (s.frag ⟨d, .eng k .mxe, 8⟩))) :
    ∃ r', mdrainStep s ⟨d, .eng k .mxe, 8⟩ r o = ((s.modSlot d r.slot fun t => t.modTile o.f1 (putRows (eFirst o 0 + r.unit * drainCount o ((winOf (r.par o.f3)).cols (s.frag ⟨d, .eng k .mxe, 8⟩)))
        (fun i => (drainVals o r.ent.seed r.rw ((winOf (r.par o.f3)).cols (s.frag ⟨d, .eng k .mxe, 8⟩)) ((s.die d).accRow k ((winOf (r.par o.f3)).arow + r.unit) ((winOf (r.par o.f3)).cols (s.frag ⟨d, .eng k .mxe, 8⟩)))).getD i ⟨[], [], false⟩)
        (fscaled o.fmt) (drainCount o ((winOf (r.par o.f3)).cols (s.frag ⟨d, .eng k .mxe, 8⟩))))).modDie d
      (clearRow (s.frag ⟨d, .eng k .mxe, 8⟩) (winOf (r.par o.f3)) ((winOf (r.par o.f3)).arow + r.unit))).setRun ⟨d, .eng k .mxe, 8⟩ r' := by
  have hb : (s.frag ⟨d, .eng k .mxe, 8⟩).b = k := rfl
  unfold drainCount at hu ⊢
  unfold mdrainStep
  simp only [hs, Bool.not_true, Bool.false_eq_true, if_false, tile_ne_queue ht, ht, hu, if_true, hb, hpsn, State.seenAcc, hp, Nat.sub_zero, unitDo_ok]
  exact ⟨_, rfl⟩
/-- A drain to the result queue. -/
theorem drain_queue (hq : o.f1 = opRQ) (hu : r.unit < eCount o 0) (hl : (vget (s.slot d r.slot).rq 2).length < 16) (hsb : (s.slot d k).agMxe.sb = []) :
    ∃ r', mdrainStep s ⟨d, .eng k .mxe, 8⟩ r o = ((s.modSlot d r.slot fun t => { t with rq := vmod t.rq 2 (· ++
        [((drainWord o r.ent.seed r.rw ((s.die d).accRow k ((winOf (r.par o.f3)).arow + r.unit) ((winOf (r.par o.f3)).cols (s.frag ⟨d, .eng k .mxe, 8⟩)))).1, false)]) }).modDie d
      (clearRow (s.frag ⟨d, .eng k .mxe, 8⟩) (winOf (r.par o.f3)) ((winOf (r.par o.f3)).arow + r.unit))).setRun ⟨d, .eng k .mxe, 8⟩ r' := by
  have hb : (s.frag ⟨d, .eng k .mxe, 8⟩).b = k := rfl
  have hno : ¬(16 ≤ (vget (s.slot d r.slot).rq 2).length || !(s.ag d (.eng k .mxe)).sb.isEmpty) = true := by
    have : (s.ag d (.eng k .mxe)).sb = [] := hsb
    simp [this, hl]
  unfold mdrainStep
  simp only [hs, Bool.not_true, Bool.false_eq_true, if_false, hq, beq_self_eq_true, if_true, Nat.div_one, hu, hb, hpsn, State.seenAcc, rqPush]
  rw [if_neg hno, got_bind_ok, unitDo_ok]
  exact ⟨_, rfl⟩
/-- A drain to the chain link sends the next chain row. -/
theorem drain_chain {g : SlotId} (hp : r.part = 0) (hc : o.f1 = opCH) (hg : ((s.die d).layOf k).dst = some g) (hl : ((s.die d).layOf g).buf.length < 64)
    (hu : r.unit < eCount o 0 / drainCount o ((winOf (r.par o.f3)).cols (s.frag ⟨d, .eng k .mxe, 8⟩))) :
    ∃ r' h, mdrainStep s ⟨d, .eng k .mxe, 8⟩ r o = ((s.modDie d fun y => y.modLay g fun y => { y with buf := y.buf ++ [⟨o.fmt, ((drainRows o r.ent.seed r.rw ((winOf (r.par o.f3)).cols (s.frag ⟨d, .eng k .mxe, 8⟩))
        ((s.die d).accRow k ((winOf (r.par o.f3)).arow + r.unit) ((winOf (r.par o.f3)).cols (s.frag ⟨d, .eng k .mxe, 8⟩)))).getD 0 ([], [], 0)).1, false⟩] }).modDie d h).setRun ⟨d, .eng k .mxe, 8⟩ r' ∧
      (∀ y, (h y).mem = y.mem ∧ (h y).lay = y.lay) := by
  have hb : (s.frag ⟨d, .eng k .mxe, 8⟩).b = k := rfl
  have hd : (s.frag ⟨d, .eng k .mxe, 8⟩).y.dst = some g := hg
  have hq : (opCH == opRQ) = false := rfl
  have ht : isTile opCH = false := rfl
  unfold drainCount at hu
  unfold mdrainStep
  simp only [hs, Bool.not_true, Bool.false_eq_true, if_false, hc, hq, ht, beq_self_eq_true, if_true, hu, hb, hd, hpsn, State.seenAcc, hp, Nat.sub_zero, Nat.not_le.2 hl]
  split
  · rw [unitDo_ok]
    exact ⟨_, fun y => y, by rw [show ∀ u : State, (u.modDie d fun y => y) = u from fun u => keep_die u d], fun y => ⟨rfl, rfl⟩⟩
  · rw [unitDo_ok]
    exact ⟨_, _, rfl, fun y => ⟨clearRow_mem _ _ _ _, clearRow_lay _ _ _ _⟩⟩
omit hpsn in
theorem drain_noCredit {g : SlotId} (hc : o.f1 = opCH) (hg : ((s.die d).layOf k).dst = some g) (hl : 64 ≤ ((s.die d).layOf g).buf.length)
    (hu : r.unit < eCount o 0 / drainCount o ((winOf (r.par o.f3)).cols (s.frag ⟨d, .eng k .mxe, 8⟩))) : mdrainStep s ⟨d, .eng k .mxe, 8⟩ r o = s := by
  have hd : (s.frag ⟨d, .eng k .mxe, 8⟩).y.dst = some g := hg
  have hq : (opCH == opRQ) = false := rfl
  have ht : isTile opCH = false := rfl
  unfold drainCount at hu
  unfold mdrainStep
  simp only [hs, Bool.not_true, Bool.false_eq_true, if_false, hc, hq, ht, beq_self_eq_true, if_true, hu, hd, hl, unitDo_wait]
end Drain

theorem mxe_run {s : State} {d : DieId} {k : SlotId} {r : Run} {i : Instr} {f : State → Cur → Run → State} {t : State} (h : AtRun s d (.eng k .mxe) r) (he : exec i s = engDo f s)
    (ht : f s ⟨d, .eng k .mxe, 8⟩ r = t) : exec i s = .next t := he.trans ((engDo_atRun f h).trans (congrArg _ ht))

/-- A pass over one row of a tile: the accumulator row takes the sum of each column, and memory stays. -/
theorem pass_adds {s s1 : State} {d : DieId} {k : SlotId} {r : Run} {o : EOp} {v : RowVal} {m : Bool} (hinv : StoreInv s) (hs : r.started = true) (hu : r.unit < eCount o 0) (ht : isTile o.f2 = true)
    (huse : (!m || bitAt (r.par (eMod o).oc) r.unit) = true) (hv : tileRow s d r.slot o.f2 o.b2 (eFirst o 1 + r.unit) = .ok s1 v) :
    ∃ t, passStep s ⟨d, .eng k .mxe, 8⟩ r o m = t ∧ (t.slot d k).mxe = some { r with unit := r.unit + 1 } ∧ SameMem s t ∧
      (t.die d).accRow k ((winOf (r.par o.f3)).arow + r.unit) ((winOf (r.par o.f3)).cols (s.frag ⟨d, .eng k .mxe, 8⟩)) =
        (List.range ((winOf (r.par o.f3)).cols (s.frag ⟨d, .eng k .mxe, 8⟩))).map fun c => accAdd (s.frag ⟨d, .eng k .mxe, 8⟩).y.semi (fcode o.fmt == 7)
          (listGet 0 ((s.die d).accRow k ((winOf (r.par o.f3)).arow + r.unit) ((winOf (r.par o.f3)).cols (s.frag ⟨d, .eng k .mxe, 8⟩))) c)
          (columnPart (s1.die d) (s.frag ⟨d, .eng k .mxe, 8⟩) o.fmt v (1024 * (winOf (r.par o.f3)).aoff / fwidth o.fmt)
            (8 * (if (winOf (r.par o.f3)).kx = 0 then (s.frag ⟨d, .eng k .mxe, 8⟩).kd else 4 * (winOf (r.par o.f3)).kx) / fwidth o.fmt) c) := by
  have hdies := tileRow_dies hv
  have hdie : s1.die d = s.die d := congrArg (fun v => vget v d) hdies
  have hwf : BanksWf (s1.die d) := by rw [hdie]; exact hinv.bank d
  refine ⟨_, pass_row hs hu ht huse hv, mxeRun_mxe _ _ _ _, ?_, ?_⟩
  · exact ((sameMem_dies hdies).trans (sameMem_modDie s1 d _ (passed_mem _ _ _ _ _ _))).trans (setRun_sameMem _ _ _)
  · have hb : (s.frag ⟨d, .eng k .mxe, 8⟩).b = k := rfl
    have hrow := addPass_accRow (s.frag ⟨d, .eng k .mxe, 8⟩) v (s1.die d) o.fmt (r.par o.f3) ((winOf (r.par o.f3)).arow + r.unit) hwf
    rw [hb] at hrow
    rw [accRow_congr (d := addPass (s.frag ⟨d, .eng k .mxe, 8⟩) o.fmt (winOf (r.par o.f3)) v ((winOf (r.par o.f3)).arow + r.unit) (s1.die d)), hrow, hdie]
    intro j
    rw [State.setRun, State.die_modDie_same, State.die_modDie_same, bank_setCurRun (c := ⟨d, .eng k .mxe, 8⟩) rfl]
    exact passed_acc _ _ _ _ _ _ _

theorem modDie_sameMem_slot (s : State) (d : DieId) (k : SlotId) (f : Slot → Slot) : SameMem s (s.modSlot d k f) := sameMem_modDie s d _ rfl

/-- Settles O34: weights, tables, passes and drains of the matrix engine, each by the equation of its step. -/
theorem matrixWords : Obligations.MatrixWords := by
  unfold Obligations.MatrixWords
  intro s s1 d k r o v h a f w arow nx
  refine ⟨?_, fun hs hc h0 hn => ?_, fun hs hu hv => ?_, fun s2 u hv hw => ?_, fun hs hc => ⟨?_, ?_⟩, fun hinv hs hu ht hv => ?_, fun hs hu ht hm => ?_, fun hs hu => ⟨?_, ?_, ?_, ?_⟩, fun hs hp hpsn hclr => ?_⟩
  · exact mxe_run h (exec_msemi o s) rfl
  · exact mxe_run h (exec_mldb o s) (mldb_begins hs hc h0 hn)
  · exact mxe_run h (exec_mldb o s) (mldb_row hs hu hv)
  · refine ⟨_, mxe_run h (exec_mcb o s) (mcb_takes hv hw), mxeRun_mxe _ _ _ _, fun j hj i => ?_⟩
    have hb (x : State) (q : Run) : ((x.setRun ⟨d, .eng k .mxe, 8⟩ q).slot d j).bank = (x.slot d j).bank := mxeRun_keep Slot.bank (fun _ _ => rfl) x d k j q
    rw [hb, State.slot, State.die_modDie_same]
    exact tables_taken _ _ _ _ _ (.inl hj) i
  · exact mxe_run h (exec_mmul o s) (pass_begins hs hc false)
  · exact mxe_run h (exec_mmulm o s) (pass_begins hs hc true)
  · intro kx passes
    refine ⟨?_, fun hm => ?_⟩
    · obtain ⟨t, he, hrest⟩ := pass_adds (m := false) hinv hs hu ht rfl hv
      exact ⟨t, mxe_run h (exec_mmul o s) he, hrest⟩
    · obtain ⟨t, he, hrest⟩ := pass_adds (m := true) hinv hs hu ht (by rw [hm]; rfl) hv
      exact ⟨t, mxe_run h (exec_mmulm o s) he, hrest⟩
  · exact mxe_run h (exec_mmulm o s) (pass_masked hs hu ht hm)
  · exact mxe_run h (exec_mldb o s) (mldb_over hs hu)
  · exact mxe_run h (exec_mmul o s) (pass_over hs hu false)
  · exact mxe_run h (exec_mmulm o s) (pass_over hs hu true)
  · exact mxe_run h (exec_mdrain o s) (drain_over hs hu)
  · have hclear (x : State) : (x.modDie d (clearRow (s.frag ⟨d, .eng k .mxe, 8⟩) (winOf (r.par o.f3)) ((winOf (r.par o.f3)).arow + r.unit))) = x := by
      rw [show clearRow (s.frag ⟨d, .eng k .mxe, 8⟩) (winOf (r.par o.f3)) ((winOf (r.par o.f3)).arow + r.unit) = fun y => y from funext fun y => clearRow_off _ _ _ _ hclr]
      exact keep_die x d
    intro ws outs p
    refine ⟨fun hinv ht hu hfit => ?_, fun hq hu hl hsb => ?_, fun g hc hg hu hl => ?_⟩
    · obtain ⟨r', he⟩ := drain_tile hs hpsn hp ht hu
      rw [hclear] at he
      refine ⟨_, mxe_run h (exec_mdrain o s) he, ?_, ?_, fun i hi => ?_⟩
      · exact (modDie_sameMem_slot s d r.slot _).trans (setRun_sameMem _ _ _)
      · refine (mxeRun_keep (fun t => t.bank.acc) (fun _ _ => rfl) _ d k k r').trans ?_
        rw [State.slot, State.modSlot, State.die_modDie_same]
        exact slot_modSlot_keeps (fun t => t.bank.acc) _ r.slot k fun _ => rfl
      · have htile (x : State) : ((x.setRun ⟨d, .eng k .mxe, 8⟩ r').slot d r.slot).tile o.f1 = (x.slot d r.slot).tile o.f1 :=
          mxeRun_keep (fun t => t.tile o.f1) (fun _ _ => rfl) x d k r.slot r'
        have hd : spWf 0 ((s.slot d r.slot).tile o.f1).data = true := hinv.data d r.slot _
        rw [htile, State.slot_modSlot_same, modTile_tile_same]
        have hput := putRows_row (sc := fscaled o.fmt) hd (fun j hj => by rw [drainVals_data]; exact length_drainRow o r.ent.seed r.rw nx ws hj) hi hfit
        exact ⟨hput.1, hput.2.trans (drainVals_data _ _ _ _ _ _)⟩
    · obtain ⟨r', he⟩ := drain_queue hs hpsn hq hu hl hsb
      rw [hclear] at he
      refine ⟨_, mxe_run h (exec_mdrain o s) he, ?_, ?_⟩
      · exact (modDie_sameMem_slot s d r.slot _).trans (setRun_sameMem _ _ _)
      · refine (mxeRun_keep (fun t => vget t.rq 2) (fun _ _ => rfl) _ d k r.slot r').trans ?_
        rw [State.slot_modSlot_same]
        exact vget_vmod_same _ _ _
    · obtain ⟨r', g', he, hg'⟩ := drain_chain hs hpsn hp hc hg hl hu
      refine ⟨_, mxe_run h (exec_mdrain o s) he, ?_, ?_⟩
      · exact ((sameMem_modDie s d _ rfl).trans (sameMem_modDie _ d _ (hg' _).1)).trans (setRun_sameMem _ _ _)
      · rw [mxeRun_layOf, State.die_modDie_same, Die.layOf, (hg' _).2, State.die_modDie_same]
        exact congrArg Lay.buf (vget_vmod_same _ _ _)

end Sys2Proof.Proofs
end

section
/-! SUPPORT. Operands of the engines' words, and the events that run their units (O32). -/

namespace Sys2Proof.Proofs

open Sys2Proof Sys2Proof.Machine Sys2Proof.Laws

theorem eng_goes {y : Die} {d : DieId} {k : SlotId} {e : SlotEng} {r : Run} (hf : (y.slot r.slot).heldBy (engNum e) = false)
    (ha : vget (y.slot r.slot).acked (headCan.stopIx (engNum e)) = false) (hn : (y.ag (.eng k e)).refused = []) : y.entryGoes ⟨d, .eng k e, 8⟩ r = true := by
  have h1 : y.entryRefused ⟨d, .eng k e, 8⟩ r = false := by simp [Die.entryRefused, hn]
  have h2 : y.runHeld ⟨d, .eng k e, 8⟩ r = false := hf
  have h3 : vget (y.slot r.slot).acked (headCan.stopIx (agentNo (.eng k e))) = false := ha
  unfold Die.entryGoes
  rw [h1, h2]
  exact congrArg (fun b => !false && !false && !b) h3

/-! ## Tile rows as operands (R65, R170, R223) -/

section Operand
variable {s : State} {d : DieId} {k : SlotId} {c : BitVec 5} {row : Nat}

theorem srcRow_tile (ht : isTile c = true) (e : SlotEng) (b : Bool) : srcRow s d k e c b row = tileRow s d k c b row := if_pos ht
theorem tileRow_full (hf : ((s.slot d k).tile c).isFull row = true) (hp : ((s.slot d k).tile c).isPsn row = false) (b : Bool) :
    tileRow s d k c b row = .ok s (((s.slot d k).tile c).row row) := by
  have hpsn : (((s.slot d k).tile c).row row).psn = false := hp
  simp only [tileRow, hf, Bool.not_true, Bool.false_eq_true, if_false, State.seen, hpsn]
theorem tileRow_empty (hf : ((s.slot d k).tile c).isFull row = false) (b : Bool) : tileRow s d k c b row = if b then .fault s 4 0 else .wait := by
  simp only [tileRow, hf, Bool.not_false, if_true]
end Operand

/-! ## Faults of the arithmetic engine -/

theorem unwind_heldBy (s s' : State) (d : DieId) (a : Agent) (r : Run) (n : Nat) (k : SlotId) : ((s.unwind s' ⟨d, a, 8⟩ r).slot d k).heldBy n = (s'.slot d k).heldBy n := by
  let u := s'.modSlot d r.slot fun t => { t with ports := (s.slot d r.slot).ports.map fun p => { p with rows := p.rows.filter (·.bad.isNone) } }
  have h1 : ((s.unwind s' ⟨d, a, 8⟩ r).slot d k).flt = (u.slot d k).flt := by
    rw [State.unwind, State.modAg, State.slot, State.die_modDie_same]
    cases a with
    | core j => exact slot_modSlot_keeps Slot.flt _ j k fun _ => rfl
    | eng j e => cases e <;> exact slot_modSlot_keeps Slot.flt _ j k fun _ => rfl
    | _ => rfl
  have h2 : (u.slot d k).flt = (s'.slot d k).flt := by
    change ((s'.modSlot d r.slot _).slot d k).flt = _
    rw [State.slot, State.die_modSlot_same]
    exact slot_modSlot_keeps Slot.flt _ r.slot k fun _ => rfl
  simp only [Slot.heldBy, h1, h2]
/-- A unit of an engine that fails is held with the failure's code and address. -/
theorem unit_faults {s s' : State} {d : DieId} {k : SlotId} {e : SlotEng} {r : Run} {code : Nat} (a : Word) (u : Nat) (hc : code < 20) (hf : (s'.slot d r.slot).heldBy (engNum e) = false) :
    HeldFault (.next (unitDo s ⟨d, .eng k e, 8⟩ r u (.fault s' code a))) d r.slot (engNum e) code a u := by
  have hf' : ((s.unwind s' ⟨d, .eng k e, 8⟩ r).slot d r.slot).heldBy (agentNo (.eng k e)) = false := by
    rw [unwind_heldBy]
    exact hf
  have h (f : FaultAt) := agentFault_holds (f := f) (a := .eng k e) nofun hf' nofun
  have ha : (20 ≤ code && code ≤ 24) = false := by simp; omega
  have h := h ⟨code, r.blk, if (match r.code[r.pos]? with | some x => x.1 | none => 0) == 0 then 0 else r.blk + BitVec.ofNat 64 (2 * (match r.code[r.pos]? with | some x => x.1 | none => 0)), a, r.ent.seq, u, 0⟩
  rw [unitDo_fault]
  unfold runFault
  rw [ha]
  exact h

/-! ## Words of the arithmetic engine -/

theorem exec_arePlan {i : Instr} {p : Plan} (h : arePlan i = some p) (s : State) : exec i s = areDo p s := by
  unfold arePlan at h
  split at h <;> first | (cases h; rfl) | exact nomatch h

section ArePlan
variable {p : Plan} {s : State} {d : DieId} {k : SlotId} {r : Run} {i : Instr} {n : Nat} (h : AtRun s d (.eng k .are) r) (hi : r.code[r.pos]? = some (n, i)) (hp : arePlan i = some p)
include h hi hp

theorem areRowStep_runs (hs : r.started = true) (hu : r.unit < p.n) (hk : r.slot = k) (hf : (s.slot d k).heldBy 2 = false) (ha : vget (s.slot d k).acked 2 = false) (hn : (s.slot d k).agAre.refused = []) :
    exec (.areRowStep d k .ok) s = .next (p.step s ⟨d, .eng k .are, 8⟩ r) := by
  have hg : (s.die d).entryGoes ⟨d, .eng k .are, 8⟩ r = true := eng_goes (by rw [hk]; exact hf) (by rw [hk]; exact ha) hn
  have hb : ((r.code[r.pos]?).bind fun w => arePlan w.2) = some p := by rw [hi]; exact hp
  refine (exec_areRowStep d k .ok s).trans ?_
  unfold execAreRowStep
  simp only [h.run, hb, hs, hg, Nat.not_le.2 hu, Bool.not_true, decide_false, Bool.or_self, Bool.false_eq_true, if_false, withError_ok]
end ArePlan

section UnTag
variable {p : Plan} {s : State} {d : DieId} {k : SlotId} {r : Run} {o : EOp}

/-- A plan whose first source is a tile of another tag faults before any row. -/
theorem step_tagBad (hs : r.started = false) (hsch : p.scheme = .rows) (h2 : p.s2 = some p.o.fmt) (hraw : (eMod p.o).raw = false) (ht : isTile p.o.f2 = true)
    (htag : ((s.slot d r.slot).tile p.o.f2).tag ≠ p.o.fmt) : p.step s ⟨d, .eng k .are, 8⟩ r = unitDo s ⟨d, .eng k .are, 8⟩ r 0 (.fault s 5 0) := by
  have hbad : tagBad (s.die d) r.slot p.o.f2 p.o.fmt false = true := by
    have : (((s.die d).slot r.slot).tile p.o.f2).tag ≠ p.o.fmt := htag
    simp [tagBad, ht, this]
  have hcheck : p.check (s.die d) r.slot = some 5 := by
    simp only [Plan.check, h2, hraw, hbad, Bool.true_or, if_true]
  simp only [Plan.step, hs, Bool.not_false, if_true, Plan.begin, hsch, hcheck]
/-- A word whose first source row is empty waits, or faults with B = 1. -/
theorem step_empty (hs : r.started = true) (hu : r.unit < p.n) (hsch : p.scheme = .rows) (h2 : p.s2.isSome = true) (hone : p.one2 = false) (ht : isTile p.o.f2 = true)
    (hf : ((s.slot d r.slot).tile p.o.f2).isFull (eFirst p.o 1 + r.unit) = false) :
    p.step s ⟨d, .eng k .are, 8⟩ r = unitDo s ⟨d, .eng k .are, 8⟩ r r.unit (if p.o.b2 then .fault s 4 0 else .wait) := by
  have hrow : srcRow s d r.slot .are p.o.f2 p.o.b2 (eFirst p.o 1 + r.unit) = if p.o.b2 then .fault s 4 0 else .wait := (srcRow_tile ht _ _).trans (tileRow_empty hf _)
  obtain ⟨t, h2⟩ := Option.isSome_iff_exists.1 h2
  rw [step_rows hs hu hsch, Plan.rowStep, Plan.reads]
  simp only [h2, hone, Bool.false_and, Bool.false_eq_true, if_false, hrow]
  cases p.o.b2 <;> rfl
end UnTag

/-- The next unit of a matrix word is the same as event and as word. -/
theorem matrixPass_runs {s : State} {d : DieId} {k j : SlotId} {r : Run} {n : Nat} {i : Instr} (h : AtRun s d (.eng k .mxe) r) (hs : r.started = true) (hf : (s.slot d r.slot).heldBy 4 = false)
    (ha : vget (s.slot d r.slot).acked 4 = false) (hn : (s.slot d k).agMxe.refused = []) (hi : r.code[r.pos]? = some (n, i)) :
    exec (.matrixPass d k j .ok) s = .next (mxeStep s ⟨d, .eng k .mxe, 8⟩ r i) := by
  have hg : (s.die d).entryGoes ⟨d, .eng k .mxe, 8⟩ r = true := eng_goes hf ha hn
  refine (exec_matrixPass d k j .ok s).trans ?_
  unfold execMatrixPass
  simp only [h.run, hi, hs, hg, withError_ok, ite_self]
  refine if_neg ?_
  split <;> exact Bool.false_ne_true
theorem chainRowSend_runs {s : State} {d : DieId} {k : SlotId} {r : Run} {n : Nat} {o : EOp} (h : AtRun s d (.eng k .mxe) r) (hs : r.started = true) (hf : (s.slot d r.slot).heldBy 4 = false)
    (ha : vget (s.slot d r.slot).acked 4 = false) (hn : (s.slot d k).agMxe.refused = []) (hi : r.code[r.pos]? = some (n, .mdrain o)) (hc : o.f1 = opCH) :
    exec (.chainRowSend d k) s = .next (mdrainStep s ⟨d, .eng k .mxe, 8⟩ r o) := by
  have hg : (s.die d).entryGoes ⟨d, .eng k .mxe, 8⟩ r = true := eng_goes hf ha hn
  refine (exec_chainRowSend d k s).trans ?_
  unfold execChainRowSend
  simp only [h.run, hi, hc, beq_self_eq_true, hs, hg, Bool.and_self, if_true]

/-- Settles O32: operands are read, waited for or refused alike by every word, and an event runs the unit of its word. -/
theorem operandsAndUnitEvents : Obligations.OperandsAndUnitEvents := by
  unfold Obligations.OperandsAndUnitEvents
  refine ⟨⟨?_, ?_, ?_, ?_⟩, ?_⟩
  · intro s d k c b row ht t e
    exact ⟨fun hf hp => (srcRow_tile ht e b).trans (tileRow_full hf hp b), fun hf => ⟨(srcRow_tile ht e false).trans (tileRow_empty hf false), (srcRow_tile ht e true).trans (tileRow_empty hf true)⟩⟩
  · intro s d k r o h hk hs hu ht hempty hf hopen
    subst hk
    have hadd := (exec_areAdd o s).trans ((areDo_atRun h).trans (congrArg Host.Outcome.next (step_empty (p := planAdd o) hs hu rfl rfl rfl ht hempty)))
    have hmov := (exec_mov o s).trans ((areDo_atRun h).trans (congrArg Host.Outcome.next (step_empty (p := planMov o) hs hu rfl rfl rfl ht hempty)))
    refine ⟨fun hb => ⟨hadd.trans ?_, hmov.trans ?_⟩, fun hb => ⟨?_, ?_⟩⟩
    · rw [show (planAdd o).o.b2 = false from hb]; rfl
    · rw [show (planMov o).o.b2 = false from hb]; rfl
    · rw [hadd, show (planAdd o).o.b2 = true from hb]
      exact unit_faults (e := .are) 0 r.unit (by decide) hf
    · rw [hmov, show (planMov o).o.b2 = true from hb]
      exact unit_faults (e := .are) 0 r.unit (by decide) hf
  · intro s d k r n i p h hi hp hs
    have he : exec i s = .next (p.step s ⟨d, .eng k .are, 8⟩ r) := (exec_arePlan hp s).trans (areDo_atRun h)
    exact ⟨fun hu hk hf ha hn => ⟨areRowStep_runs h hi hp hs hu hk hf ha hn, he⟩, fun hu hsch => he.trans (congrArg Host.Outcome.next (step_over hs hu hsch))⟩
  · intro s d k r o h hk hs hraw ht htag hf hopen
    subst hk
    refine ⟨?_, ?_, ?_⟩
    · rw [(exec_areAdd o s).trans ((areDo_atRun h).trans (congrArg Host.Outcome.next (step_tagBad (p := planAdd o) hs rfl rfl hraw ht htag)))]
      exact unit_faults (e := .are) 0 0 (by decide) hf
    · rw [(exec_mov o s).trans ((areDo_atRun h).trans (congrArg Host.Outcome.next (step_tagBad (p := planMov o) hs rfl rfl hraw ht htag)))]
      exact unit_faults (e := .are) 0 0 (by decide) hf
    · rw [(exec_exp2 o s).trans ((areDo_atRun h).trans (congrArg Host.Outcome.next (step_tagBad (p := planFn 0 o) hs rfl rfl hraw ht htag)))]
      exact unit_faults (e := .are) 0 0 (by decide) hf
  · intro s d k j r n o h hs hf ha hn
    have hpass {i : Instr} (hi : r.code[r.pos]? = some (n, i)) := matrixPass_runs (j := j) h hs hf ha hn hi
    refine ⟨fun hi => ⟨(hpass hi).trans (mxe_run h (exec_mmul o s) rfl).symm, _, hpass hi, fun s1 v hu ht hv => ?_⟩, fun hi => (hpass hi).trans (mxe_run h (exec_mldb o s) rfl).symm,
      fun hi => (hpass hi).trans (mxe_run h (exec_mdrain o s) rfl).symm, fun g hi hc hg => ?_⟩
    · change ((passStep s ⟨d, .eng k .mxe, 8⟩ r o false).slot d k).mxe = _
      rw [pass_row hs hu ht rfl hv]
      exact mxeRun_mxe _ _ _ _
    · intro f w nx p
      have hsend := chainRowSend_runs h hs hf ha hn hi hc
      refine ⟨fun hl hu => hsend.trans (congrArg Host.Outcome.next (drain_noCredit hs hc hg hl hu)), fun hl hu hp hpsn => ?_⟩
      obtain ⟨r', g', he, hg'⟩ := drain_chain hs hpsn hp hc hg hl hu
      refine ⟨_, hsend.trans (congrArg Host.Outcome.next he), ?_, ?_⟩
      · exact ((sameMem_modDie s d _ rfl).trans (sameMem_modDie _ d _ (hg' _).1)).trans (setRun_sameMem _ _ _)
      · rw [mxeRun_layOf, State.die_modDie_same, Die.layOf, (hg' _).2, State.die_modDie_same]
        exact congrArg Lay.buf (vget_vmod_same _ _ _)

end Sys2Proof.Proofs
end

section
/-! SUPPORT. Copies by chunks (O35). -/

namespace Sys2Proof.Proofs

open Sys2Proof Sys2Proof.Machine Sys2Proof.Laws

/-! ## A copy word laid out -/

/-- Is the word a copy in two dimensions? -/
def isCopy2d : Instr → Bool
  | .copy2d _ => true
  | _ => false

/-- The one layout of the four copy words. -/
def copyLayout (r : Run) (o : COp) (i : Instr) : CopyPlan :=
  { rows := if isCopy2d i then fld (r.par o.f3) 24 24 else 1
    rb := if isCopy2d i then fld (r.par o.f3) 0 24 else fld (r.par o.f3) 0 40
    dst := r.par o.f1
    src := if i = .fill o then 0 else r.par o.f2
    ds := if isCopy2d i then sInt 32 (fld (r.parN (o.f3.toNat + 1)) 0 32) else 0
    ss := if isCopy2d i then sInt 32 (fld (r.parN (o.f3.toNat + 1)) 32 32) else 0
    pat := if i = .fill o then some (r.par o.f2) else none
    smt := if i = .fill o then [] else if i = .rwrite o then [0, 1] else [0, 1, 2]
    dmt := if i = .rwrite o then [2, 3] else [0, 1, 2]
    remote := decide (i = .rwrite o) }

section Word
variable {o : COp} {i : Instr} (hi : i = .copy o ∨ i = .copy2d o ∨ i = .fill o ∨ i = .rwrite o)
include hi

theorem copyPlan_layout (r : Run) : copyPlan r i = some (copyLayout r o i, o) := by
  rcases hi with rfl | rfl | rfl | rfl <;> simp [copyPlan, copyLayout, isCopy2d, Run.lenPar]
theorem isCopy2d_eq : isCopy2d i = (i == .copy2d o) := by
  rcases hi with rfl | rfl | rfl | rfl <;> simp [isCopy2d]
theorem exec_copyWord (s : State) : exec i s = engDo (fun s c r => match copyPlan r i with
    | some p => copyStep s c r p.1 p.2 (isCopy2d i)
    | none => s) s := by
  rcases hi with rfl | rfl | rfl | rfl <;> rfl
theorem copyWord_ne_mcast (x : COp) : i ≠ .mcast x := by
  rcases hi with rfl | rfl | rfl | rfl <;> exact nofun

/-- A copy word takes the step of its layout. -/
theorem copyWord_runs {s : State} {d : DieId} {q : ClusterId} {r : Run} {t : State} (h : AtRun s d (.copy q) r)
    (ht : copyStep s ⟨d, .copy q, 8⟩ r (copyLayout r o i) o (isCopy2d i) = t) : exec i s = .next t := by
  refine (exec_copyWord hi s).trans ((engDo_atRun _ h).trans (congrArg Host.Outcome.next ?_))
  rw [copyPlan_layout hi r]
  exact ht
/-- So does the event of the copy engine, once its reads are made. -/
theorem copyChunk_runs {s : State} {d : DieId} {q : ClusterId} {r : Run} {n : Nat} {t : State} (h : AtRun s d (.copy q) r) (hf : (s.slot d r.slot).heldBy 5 = false)
    (ha : vget (s.slot d r.slot).acked 5 = false) (hn : (s.ag d (.copy q)).refused = []) (hs : r.started = true) (hrd : (s.ag d (.copy q)).rd = []) (hc : r.code[r.pos]? = some (n, i))
    (ht : copyStep s ⟨d, .copy q, 8⟩ r (copyLayout r o i) o (isCopy2d i) = t) : exec (.copyChunk d q .ok) s = .next t := by
  have hg : (s.die d).entryGoes ⟨d, .copy q, 8⟩ r = true := by
    have hn : ((s.die d).ag (.copy q)).refused = [] := hn
    have h1 : (s.die d).entryRefused ⟨d, .copy q, 8⟩ r = false := by simp [Die.entryRefused, hn]
    have h2 : (s.die d).runHeld ⟨d, .copy q, 8⟩ r = false := hf
    have h3 : vget ((s.die d).slot r.slot).acked (headCan.stopIx (agentNo (.copy q))) = false := ha
    unfold Die.entryGoes
    rw [h1, h2]
    exact congrArg (fun b => !false && !false && !b) h3
  refine (exec_copyChunk d q .ok s).trans ?_
  unfold execCopyChunk
  simp only [h.run, hrd, List.isEmpty_nil, hs, hg, hc, Bool.not_true, Bool.or_self, Bool.false_eq_true, if_false]
  have hp := copyPlan_layout hi r
  rcases hi with rfl | rfl | rfl | rfl <;>
    · dsimp only
      rw [hp]
      exact congrArg Host.Outcome.next ht
end Word

/-! ## The steps of a copy -/

section Step
variable {s : State} {d : DieId} {q : ClusterId} {r : Run} {p : CopyPlan} {o : COp} {two : Bool}

theorem copy_begins (hs : r.started = false) (hm : p.misaligned = none) (hq : reqBad two (r.par o.f3) = false) :
    copyStep s ⟨d, .copy q, 8⟩ r p o two = s.setRun ⟨d, .copy q, 8⟩ { r with started := true, mSent := 0, mAck := 0 } := by
  simp only [copyStep, hs, Bool.not_false, if_true, hm, hq, Bool.false_eq_true, if_false]
theorem copy_chunk (hs : r.started = true) (hr : r.mSent < p.rows) (hb : p.rb ≠ 0) : copyStep s ⟨d, .copy q, 8⟩ r p o two = chunkStep s ⟨d, .copy q, 8⟩ r p := by
  simp [copyStep, hs, Nat.not_le.2 hr, hb]
theorem copy_ends (hs : r.started = true) (hr : p.rows ≤ r.mSent ∨ p.rb = 0) : copyStep s ⟨d, .copy q, 8⟩ r p o two = copyEnd s ⟨d, .copy q, 8⟩ r p o := by
  have : (decide (p.rows ≤ r.mSent) || decide (p.rb = 0)) = true := by simpa using hr
  simp only [copyStep, hs, Bool.not_true, Bool.false_eq_true, if_false, this, if_true]

theorem whoRun_copy (h : s.run ⟨d, .copy q, 8⟩ = some r) : (s.die d).whoRun ⟨d, .copy q, 8⟩ r = (s.die d).who (.copy q) r.slot := by
  have hrun : (s.die d).run (.copy q) = some r := h
  have hheld : ((s.die d).run (.copy q)).bind (·.ent.held) = r.ent.held := by rw [hrun]; rfl
  change ({ (s.die d).who (.copy q) r.slot with held := r.ent.held } : Who) = _
  rw [← hheld]
  rfl

/-- Where a chunk is written, where it is read, and how long it is. -/
def chunkTo (p : CopyPlan) (r : Run) : Nat := addrAt p.dst (r.mSent * p.ds + r.mAck)
def chunkFrom (p : CopyPlan) (r : Run) : Nat := addrAt p.src (r.mSent * p.ss + r.mAck)
def chunkLen (p : CopyPlan) (r : Run) : Nat := min (p.rb - r.mAck) (4096 - chunkTo p r % 4096)
/-- The run after a chunk: further in its row, or at the next row. -/
def chunkNext (p : CopyPlan) (r : Run) : Run :=
  if r.mAck + chunkLen p r = p.rb then { r with unit := r.unit + 1, mSent := r.mSent + 1, mAck := 0 } else { r with unit := r.unit + 1, mAck := r.mAck + chunkLen p r }

variable (hrun : s.run ⟨d, .copy q, 8⟩ = some r) {y : Die}
include hrun

theorem chunk_reads {qs : List (Part × Piece)} (hp : p.pat = none) (ha : (s.ag d (.copy q)).asm = [])
    (hq : accessParts d ((s.die d).who (.copy q) r.slot) ⟨p.smt, true, false⟩ [⟨chunkFrom p r, chunkLen p r, 0⟩] (s.die d) = .ok y qs) :
    chunkStep s ⟨d, .copy q, 8⟩ r p = issueReads (s.modDie d fun _ => y) ⟨d, .copy q, 8⟩ r (16 * r.unit + 8) r.unit false qs := by
  rw [← whoRun_copy hrun] at hq
  unfold chunkFrom chunkLen chunkTo at hq
  simp only [chunkStep, hp, ha, List.find?_nil, plainPart, hq]
  rfl
theorem chunk_writes {x : Asm} {ps : List Piece} (hp : p.pat = none) (ha : (s.ag d (.copy q)).asm = [x]) (hk : x.key = 16 * r.unit + 8) (hd : x.done = true) (hx : x.psn = false)
    (hq : accessRow d (s.die d) ((s.die d).who (.copy q) r.slot) (chunkTo p r) (chunkLen p r) ⟨p.dmt, false, true⟩ = .ok y ps) :
    chunkStep s ⟨d, .copy q, 8⟩ r p = ((pushChunk (s.modDie d fun _ => y) ⟨d, .copy q, 8⟩ r (chunkTo p r) r.unit ps (x.bytes 0 (chunkLen p r)) x.badIn).modAg d (.copy q) fun z => z.dropAsm x.key).setRun
      ⟨d, .copy q, 8⟩ (chunkNext p r) := by
  have hkey : Cur.key ⟨d, .copy q, 8⟩ r.unit = x.key := hk.symm
  have hfind : ((s.ag d (.copy q)).asm.find? fun z => z.key == x.key) = some x := by simp [ha]
  have hbad (a n : Nat) : x.badIn a n = false := by simp [Asm.badIn, hx]
  rw [← whoRun_copy hrun] at hq
  unfold chunkLen chunkTo at hq
  simp only [chunkStep, hp, hkey, hfind, hd, if_true, hq, hbad, Bool.and_false, Bool.false_eq_true, if_false]
  rfl
theorem chunk_fills {v : Word} {ps : List Piece} (hp : p.pat = some v)
    (hq : accessRow d (s.die d) ((s.die d).who (.copy q) r.slot) (chunkTo p r) (chunkLen p r) ⟨p.dmt, false, true⟩ = .ok y ps) :
    chunkStep s ⟨d, .copy q, 8⟩ r p = ((pushChunk (s.modDie d fun _ => y) ⟨d, .copy q, 8⟩ r (chunkTo p r) r.unit ps
        ((List.range (chunkLen p r)).map fun j => BitVec.ofNat 8 (v.toNat / 2 ^ (8 * ((r.mAck + j) % 8)))) fun _ _ => false).modAg d (.copy q) fun z => z.dropAsm (16 * r.unit + 8)).setRun
      ⟨d, .copy q, 8⟩ (chunkNext p r) := by
  rw [← whoRun_copy hrun] at hq
  unfold chunkLen chunkTo at hq
  simp only [chunkStep, hp, hq, Bool.and_false, Bool.false_eq_true, if_false]
  rfl
end Step

section End
variable {s : State} {d : DieId} {q : ClusterId} {r : Run} {p : CopyPlan} {o : COp} (hset : s.settled d (.copy q) = true)
include hset

/-- A copy that asks for no increment, or whose increment has been made, is over. -/
theorem copyEnd_over (h : bitAt (r.par o.f3) 63 = false ∨ r.part = 2) : copyEnd s ⟨d, .copy q, 8⟩ r p o = s.setRun ⟨d, .copy q, 8⟩ (r.adv o.na) := by
  unfold copyEnd
  cases hr : p.remote with
  | false =>
    have : (reqSe (r.par o.f3) && r.part != 2) = false := by
      rcases h with h | h <;> simp [reqSe, h]
    simp only [Bool.not_false, if_true, hset, Bool.not_true, Bool.false_eq_true, if_false, this]
    rfl
  | true =>
    have : (decide (r.part = 2) || !reqSe (r.par o.f3)) = true := by
      rcases h with h | h <;> simp [reqSe, h]
    simp only [Bool.not_true, Bool.false_eq_true, if_false, this, if_true, hset]
    rfl
/-- A local copy asks for its increment once its writes have been applied. -/
theorem copyEnd_asks (hr : p.remote = false) (hb : bitAt (r.par o.f3) 63 = true) (hp : r.part ≠ 2) :
    copyEnd s ⟨d, .copy q, 8⟩ r p o = (s.modAg d (.copy q) fun z => { z with sb := z.sb ++ [.seminc d (reqSlot (r.par o.f3)) (reqSem (r.par o.f3))] }).setRun ⟨d, .copy q, 8⟩ { r with part := 2 } := by
  have : (reqSe (r.par o.f3) && r.part != 2) = true := by simp [reqSe, hb, hp]
  unfold copyEnd
  simp only [hr, Bool.not_false, if_true, hset, Bool.not_true, Bool.false_eq_true, if_false, this]
end End

/-- Settles O35: the four copy words take the steps of one layout, chunk by chunk, as words and as the copy engine's event. -/
theorem copyWords : Obligations.CopyWords := by
  unfold Obligations.CopyWords
  intro s d q r o i n h hf hacked hrefused hi a c w dst src req g two rows rb ds ss at_ da sa len smt dmt next both
  have htwo : isCopy2d i = two := isCopy2d_eq hi
  have hrows : (copyLayout r o i).rows = rows := by simp only [copyLayout, htwo, rows, req]
  have hrb : (copyLayout r o i).rb = rb := by simp only [copyLayout, htwo, rb, req]
  have hds : (copyLayout r o i).ds = ds := by simp only [copyLayout, htwo, ds, g]
  have hss : (copyLayout r o i).ss = ss := by simp only [copyLayout, htwo, ss, g]
  have hdmt : (copyLayout r o i).dmt = dmt := rfl
  have hda : chunkTo (copyLayout r o i) r = da := by rw [chunkTo, hds]; rfl
  have hlen : chunkLen (copyLayout r o i) r = len := by rw [chunkLen, hrb, hda]
  have hnext : chunkNext (copyLayout r o i) r = next := by simp only [chunkNext, hlen, hrb, next]
  have boths {t : State} (ht : copyStep s ⟨d, .copy q, 8⟩ r (copyLayout r o i) o (isCopy2d i) = t) : both (.next t) :=
    ⟨copyWord_runs hi h ht, fun hs hrd hc => copyChunk_runs hi h hf hacked hrefused hs hrd hc ht⟩
  refine ⟨fun hs h1 h2 h3 h4 h5 h6 h7 => ?_, fun hs hr hb hfill hasm y qs hq => ?_, fun hs hr hb hfill x hasm hk hd hx y ps hq => ?_, fun hs hfill hr hb hasm y ps hq => ?_,
    fun hs hr hset => ⟨fun hb => ?_, fun hb hrw hp => ?_, fun hp => ?_⟩⟩
  · refine (boths (copy_begins hs ?_ ?_)).1
    · have hsrc : (copyLayout r o i).src.toNat % 16 = 0 := by
        by_cases hfill : i = .fill o
        · simp [copyLayout, hfill]
        · simp only [copyLayout, hfill, if_false]
          exact h5 hfill
      have hdst : (copyLayout r o i).dst.toNat % 16 = 0 := h1
      simp [CopyPlan.misaligned, hdst, hsrc, hrb, h2, hds, h3, hss, h4]
    · have h6 : fld (r.par o.f3) 56 7 = 0 := h6
      rw [reqBad, htwo]
      rcases h7 with h7 | h7
      · simp [h6, h7]
      · have h7 : fld (r.par o.f3) 40 8 = 0 := h7
        simp [h6, h7]
  · rw [← hrows] at hr
    rw [← hrb] at hb
    refine boths ((copy_chunk hs hr hb).trans (chunk_reads h.run (if_neg hfill) hasm ?_))
    have hsa : chunkFrom (copyLayout r o i) r = sa := by
      rw [chunkFrom, hss, show (copyLayout r o i).src = src from if_neg hfill]
      rfl
    have hsmt : (copyLayout r o i).smt = smt := if_neg hfill
    rw [hsa, hlen, hsmt]
    exact hq
  · rw [← hrows] at hr
    rw [← hrb] at hb
    rw [← hda, ← hlen, ← hdmt] at hq
    rw [← hda, ← hlen, ← hnext]
    exact boths ((copy_chunk hs hr hb).trans (chunk_writes h.run (if_neg hfill) hasm hk hd hx hq))
  · have hr' : r.mSent < (copyLayout r o i).rows := by
      simp only [copyLayout, hfill, isCopy2d, Bool.false_eq_true, if_false]
      exact hr
    rw [← hrb] at hb
    have hdmt' : (copyLayout r o i).dmt = [0, 1, 2] := by simp [copyLayout, hfill]
    rw [← hda, ← hlen, ← hdmt'] at hq
    rw [← hda, ← hlen, ← hnext]
    exact boths ((copy_chunk hs hr' hb).trans (chunk_fills h.run (if_pos hfill) hq))
  · rw [← hrows, ← hrb] at hr
    exact boths ((copy_ends hs hr).trans (copyEnd_over hset (.inl hb)))
  · rw [← hrows, ← hrb] at hr
    exact boths ((copy_ends hs hr).trans (copyEnd_asks hset (decide_eq_false hrw) hb hp))
  · rw [← hrows, ← hrb] at hr
    exact boths ((copy_ends hs hr).trans (copyEnd_over hset (.inr hp)))

end Sys2Proof.Proofs
end

section
/-! SUPPORT. Multicast lines (O36). -/

namespace Sys2Proof.Proofs

open Sys2Proof Sys2Proof.Machine Sys2Proof.Laws

/-! ## Sets of members -/

theorem mem_setIns {l : List Nat} {a m : Nat} : m ∈ setIns l a ↔ m = a ∨ m ∈ l := by
  induction l with
  | nil => simp [setIns]
  | cons k r ih =>
    rw [setIns]
    split
    · simp
    · split
      · next h => subst h; simp
      · simp only [List.mem_cons, ih]
        tauto
theorem mem_unionNat {l r : List Nat} {m : Nat} : m ∈ unionNat l r ↔ m ∈ l ∨ m ∈ r := by
  induction r generalizing l with
  | nil => simp [unionNat]
  | cons a r ih =>
    rw [show unionNat l (a :: r) = unionNat (setIns l a) r from rfl, ih, mem_setIns, List.mem_cons]
    tauto
theorem setIns_above {l : List Nat} {a : Nat} (h : ∀ m ∈ l, m < a) : setIns l a = l ++ [a] := by
  induction l with
  | nil => rfl
  | cons k r ih =>
    have hk : k < a := h k (List.mem_cons_self ..)
    rw [setIns, if_neg (by omega), if_neg (by omega), ih fun m hm => h m (List.mem_cons_of_mem _ hm), List.cons_append]
/-- Members in ascending order are joined as they stand. -/
theorem unionNat_sorted {l r : List Nat} (h : (l ++ r).Pairwise (· < ·)) : unionNat l r = l ++ r := by
  induction r generalizing l with
  | nil => simp [unionNat]
  | cons a r ih =>
    have hl : ∀ m ∈ l, m < a := fun m hm => (List.pairwise_append.1 h).2.2 m hm a (List.mem_cons_self ..)
    rw [show unionNat l (a :: r) = unionNat (setIns l a) r from rfl, setIns_above hl, ih (by simpa using h), List.append_assoc, List.singleton_append]
theorem isMember_iff {r : Run} {m : Nat} : r.isMember m = true ↔ m < r.mGrp.1 ∧ r.mGrp.2 ≠ some m := by
  simp [Run.isMember]

/-! ## The steps of a multicast -/

section Step
variable {s : State} {d : DieId} {q : ClusterId} {r : Run} {o : COp}

theorem execMcast_run (h : AtRun s d (.copy q) r) {t : State} (ht : mcastStep s ⟨d, .copy q, 8⟩ r o = t) : exec (.mcast o) s = .next t :=
  (exec_mcast o s).trans ((engDo_atRun _ h).trans (congrArg Host.Outcome.next ht))
theorem mcast_begins (hs : r.started = false) (hc : mcastCheck s ⟨d, .copy q, 8⟩ r o = none) :
    mcastStep s ⟨d, .copy q, 8⟩ r o = (s.modAg d (.copy q) fun z => { z with nkey := z.nkey + 1 }).setRun ⟨d, .copy q, 8⟩
      { r with started := true, rw := (s.ag d (.copy q)).nkey, mSent := 0, mAck := 0, mNak := [], mAll := 0,
               mGrp := (s.die d).members d (BitVec.ofNat 12 (fld (r.par o.f1) 48 12)).toNat } := by
  simp only [mcastStep, hs, Bool.not_false, if_true, hc]

/-- The lines of a chunk read whole. -/
def mcLines (s : State) (d : DieId) (q : ClusterId) (r : Run) (o : COp) (x : Asm) (m : Nat) : List NftOut :=
  (List.range m).map fun i => NftOut.line (s.me ⟨d, .copy q, 8⟩) (BitVec.ofNat 12 (fld (r.par o.f1) 48 12)) (fld (r.par o.f1) 0 48 + 128 * (r.mSent + i)) (x.bytes (128 * i) 128)
    (r.mSent + i + 1 == r.lenPar o.f3 / 128) (reqSe (r.par o.f3)) (reqSlot (r.par o.f3)) (reqSem (r.par o.f3)) r.rw
/-- How many lines the next chunk of a multicast has. -/
def mcCount (r : Run) (o : COp) : Nat := min (r.lenPar o.f3 - 128 * r.mSent) (4096 - (fld (r.par o.f1) 0 48 + 128 * r.mSent) % 4096) / 128

theorem mcast_sends {x : Asm} (hs : r.started = true) (ha : r.mAck = r.mSent) (hl : r.mSent < r.lenPar o.f3 / 128) (hasm : (s.ag d (.copy q)).asm = [x]) (hk : x.key = 16 * r.unit + 8)
    (hd : x.done = true) (hx : x.psn = false) (hp : (s.die d).paired d = none) :
    mcastStep s ⟨d, .copy q, 8⟩ r o = ((s.modAg d (.copy q) fun z => z.dropAsm x.key).modDie d fun y => (mcLines s d q r o x (mcCount r o)).foldl (fun y m => y.toFabric d m) y).setRun
      ⟨d, .copy q, 8⟩ { r with mSent := r.mSent + mcCount r o, unit := r.unit + 1 } := by
  have hkey : Cur.key ⟨d, .copy q, 8⟩ r.unit = x.key := hk.symm
  have hfind : ((s.ag d (.copy q)).asm.find? fun z => z.key == x.key) = some x := by simp [hasm]
  have hbad (a n : Nat) : x.badIn a n = false := by simp [Asm.badIn, hx]
  have hroom (n : Nat) : s.pairRoom d n = true := by simp [State.pairRoom, hp]
  have hp' : ((s.modAg d (.copy q) fun z => z.dropAsm x.key).die d).paired d = none := by
    rw [State.modAg, State.die_modDie_same]
    exact hp
  have hmute : (s.modAg d (.copy q) fun z => z.dropAsm x.key).muted d = false := by simp only [State.muted, hp']
  simp only [mcastStep, hs, Bool.not_true, Bool.false_eq_true, if_false, ha, Nat.lt_irrefl, hl, if_true, hkey, hfind, hd, hroom, Bool.or_self, hbad, pairStores_none hp', hmute]
  rfl

theorem toFabric_lines (d : DieId) (l : List NftOut) (h : ∀ m ∈ l, ∃ src grp off data last se k i id, m = .line src grp off data last se k i id) (y : Die) :
    l.foldl (fun y m => y.toFabric d m) y = { y with coe := { y.coe with out := y.coe.out ++ l } } := by
  induction l generalizing y with
  | nil => simp
  | cons m l ih =>
    obtain ⟨src, grp, off, data, last, se, k, i, id, rfl⟩ := h m (List.mem_cons_self ..)
    rw [List.foldl_cons, ih fun n hn => h n (List.mem_cons_of_mem _ hn)]
    simp only [Die.toFabric, NftOut.dest, Bool.false_eq_true, if_false, List.append_assoc, List.singleton_append]

theorem toFabric_mcLines (x : Asm) (n : Nat) (y : Die) :
    (mcLines s d q r o x n).foldl (fun y m => y.toFabric d m) y = { y with coe := { y.coe with out := y.coe.out ++ mcLines s d q r o x n } } :=
  toFabric_lines d _ (fun m hm => by
    obtain ⟨i, _, rfl⟩ := List.mem_map.1 hm
    exact ⟨_, _, _, _, _, _, _, _, _, rfl⟩) y

theorem mcast_pushes (hs : r.started = true) (ha : r.mAck = r.mSent) (hl : r.lenPar o.f3 / 128 ≤ r.mSent) (hn : r.parN (o.f3.toNat + 1) = 0)
    (hq : (vget (s.slot d r.slot).rq 3).length < 16) (hsb : (s.ag d (.copy q)).sb = []) :
    mcastStep s ⟨d, .copy q, 8⟩ r o = (s.modSlot d r.slot fun t => { t with rq := vset t.rq 3 (vget t.rq 3 ++ [(mcastValue r, false)]) }).setRun ⟨d, .copy q, 8⟩ (r.adv o.na) := by
  simp only [mcastStep, hs, Bool.not_true, Bool.false_eq_true, if_false, ha, Nat.lt_irrefl, Nat.not_lt.2 hl, hn, bne_self_eq_false, Bool.false_and, rqPush, Nat.not_le.2 hq, hsb,
    List.isEmpty_nil, decide_false, Bool.or_self]
  rfl

theorem copyRun_die (t : State) (d : DieId) (q : ClusterId) (r : Run) : (t.setRun ⟨d, .copy q, 8⟩ r).die d = (t.die d).setRun (.copy q) (some r) := State.die_modDie_same _ _ _
theorem copyRun_run (t : State) (d : DieId) (q : ClusterId) (r : Run) : ((t.setRun ⟨d, .copy q, 8⟩ r).die d).run (.copy q) = some r := by
  rw [copyRun_die]
  exact congrArg CopyEng.run (vget_vmod_same _ _ _)
end Step

/-! ## A line at a member -/

section Arrival
variable {s : State} {d : DieId} {m : McLine}

theorem lineArrival_own (h1 : m.src.die = d) (h2 : m.src.pkg.toNat = (s.die d).pkg d) : execMcastLineArrival d m s = .next s := by
  simp [execMcastLineArrival, h1, h2]

variable (hsrc : ¬(m.src.die = d ∧ m.src.pkg.toNat = (s.die d).pkg d))
include hsrc

theorem notOwn : (m.src.die == d && m.src.pkg.toNat == (s.die d).pkg d) = false := by
  simpa using hsrc
theorem lineArrival_refused (h : (s.die d).groupFor d m.grp.toNat false = none ∨
      ∃ g pa, (s.die d).groupFor d m.grp.toNat false = some g ∧
        (s.die d).exportAddr d ((s.die d).handle g g.self).1 ((s.die d).handle g g.self).2.1 m.off m.data.length 1 true = .ok pa ∧ isMem pa m.data.length = false) :
    execMcastLineArrival d m s = .next (s.modDie d fun y => { y with coe := y.coe.answer m false }) := by
  simp only [execMcastLineArrival, notOwn hsrc, Bool.false_eq_true, if_false]
  rcases h with h | ⟨g, pa, h, hx, hm⟩
  · simp only [h]
  · simp only [h, hx, hm, Bool.not_false, if_true]

/-- The lines of a write, applied one by one. -/
def linesApplied (d : DieId) (pa : Nat) (bs : List Byte) (y : Die) : Die :=
  ((cutLines pa bs.length).map fun l => (l.1, slice bs (l.1 - pa) l.2)).foldl (fun y w => y.apply d w.1 w.2 false .ok) y
omit hsrc in
theorem fabWrite_free {src : FabSrc} {pa key : Nat} {bs : List Byte} (hpin : (s.die d).pinned pa bs.length = false) (hb : (s.die d).behind src.ag src.die (some src) = false) :
    s.fabWrite d src pa bs key = (s.modDie d (linesApplied d pa bs), true) := by
  have hmine : (s.die d).heldOf src.ag src.die (some src) = [] := by simpa [Die.behind] using hb
  have hnone : (((cutLines pa bs.length).map fun l => (l.1, slice bs (l.1 - pa) l.2)).any fun w => (s.die d).mustHold src.ag src.die (some src) (linesOf w.1 w.2.length)) = false := by
    rw [List.any_eq_false]
    intro w hw
    obtain ⟨c, hc, rfl⟩ := List.mem_map.1 hw
    obtain ⟨h1, h2⟩ := cutLines_within hc
    have hline : (linesOf c.1 (slice bs (c.1 - pa) c.2).length).any (s.die d).pins.contains = false := by
      rw [length_slice (by omega), List.any_eq_false]
      intro l hl
      obtain ⟨h3, h4, h5⟩ := mem_linesOf.1 hl
      have hp := List.any_eq_false.1 hpin l (mem_linesOf.2 ⟨by omega, by omega, by omega⟩)
      exact hp
    simp [Die.mustHold, hmine, hline]
  unfold State.fabWrite
  exact if_neg (by rw [hnone]; exact Bool.false_ne_true)

theorem lineArrival_applied {g : Group} {pa : Nat} (hg : (s.die d).groupFor d m.grp.toNat false = some g)
    (hx : (s.die d).exportAddr d ((s.die d).handle g g.self).1 ((s.die d).handle g g.self).2.1 m.off m.data.length 1 true = .ok pa) (hm : isMem pa m.data.length = true)
    (hpin : (s.die d).pinned pa m.data.length = false) (hb : (s.die d).behind m.src.ag m.src.die (some m.src) = false) (href : (s.die d).coe.mcRef = []) :
    execMcastLineArrival d m s = .next ((if (m.last && m.se) = true then (s.modDie d (linesApplied d pa m.data)).incSem d m.sslot m.sem 1 else s.modDie d (linesApplied d pa m.data)).modDie d
      fun y => { y with coe := y.coe.answer m true }) := by
  have hb' : ((s.modDie d (linesApplied d pa m.data)).die d).behind m.src.ag m.src.die (some m.src) = false := by
    rw [State.die_modDie_same, ← hb]
    refine congrArg (fun l : List Held => !(l.filter fun h => h.ag == m.src.ag && h.src == m.src.die && h.fab == some m.src).isEmpty) ?_
    exact foldl_apply_keep Die.held (fun _ _ _ _ => rfl) d _ _
  have href' : ((s.modDie d (linesApplied d pa m.data)).die d).coe.mcRef = [] := by
    rw [State.die_modDie_same, ← href]
    exact foldl_apply_keep (fun y => y.coe.mcRef) (fun _ _ _ _ => rfl) d _ _
  simp only [execMcastLineArrival, notOwn hsrc, Bool.false_eq_true, if_false, hg, hx, hm, Bool.not_true, fabWrite_free hpin hb, href', hb', List.contains_nil, Bool.not_false, Bool.and_true]
  cases m.last && m.se <;> rfl

omit hsrc in
theorem incSem_rest (t : State) (k : SlotId) (i : Fin 32) (v : W32) (j : SlotId) :
    (t.incSem d k i v).slot d j = if j = k then { t.slot d j with sems := vmod (t.slot d j).sems i (· + v) } else t.slot d j := by
  split
  · next h =>
    subst h
    exact State.slot_modSlot_same _ _ _ _
  · next h => exact State.slot_modSlot_ne _ _ (Ne.symm h) _
end Arrival

/-! ## The way to the switch -/

theorem portBits (w : Word) : (fld w 0 1 = 1 ∨ fld w 1 1 = 1 ∨ fld w 2 1 = 1) ↔ w &&& 7 ≠ 0 := by
  have h7 : (w &&& 7).toNat = w.toNat % 8 := by
    rw [BitVec.toNat_and]
    exact Nat.and_two_pow_sub_one_eq_mod w.toNat 3
  have hz : w &&& 7 = 0 ↔ w.toNat % 8 = 0 := by
    rw [← h7]
    exact BitVec.toNat_inj.symm
  rw [Ne, hz, fld_eq, fld_eq, fld_eq]
  omega
/-- Some port is found from any one on exactly where one of the three is enabled. -/
theorem enabledFrom_isSome (y : Die) (d : DieId) (f : Nat) : (y.enabledFrom d f).isSome = decide (y.getReg d rNFTCFG &&& 7 ≠ 0) := by
  rw [Bool.eq_iff_iff, decide_eq_true_iff, ← portBits, Die.enabledFrom, List.find?_isSome]
  simp only [Die.rf, List.mem_cons, List.not_mem_nil, or_false]
  have h3 : f % 3 = 0 ∨ f % 3 = 1 ∨ f % 3 = 2 := by omega
  constructor
  · rintro ⟨p, hp, h⟩
    have h := of_decide_eq_true h
    have hp : p = 0 ∨ p = 1 ∨ p = 2 := by omega
    rcases hp with rfl | rfl | rfl
    · exact .inl h
    · exact .inr (.inl h)
    · exact .inr (.inr h)
  · rintro (h | h | h)
    · exact ⟨0, by omega, decide_eq_true h⟩
    · exact ⟨1, by omega, decide_eq_true h⟩
    · exact ⟨2, by omega, decide_eq_true h⟩
theorem leaves_eq {y : Die} {d : DieId} {m : NftOut} (hm : y.coe.moved = []) : y.leaves d m = decide (y.getReg d rNFTCFG &&& 7 ≠ 0) := by
  unfold Die.leaves
  split
  · rw [Die.portOf, hm]
    exact enabledFrom_isSome _ _ _
  · exact enabledFrom_isSome _ _ _

section Take
variable {s : State} {d : DieId} (hm : (s.die d).coe.moved = [])
include hm

theorem fabricTake_closed (h : ¬ (s.die d).getReg d rNFTCFG &&& 7 ≠ 0) (resp : Bool) : fabricTake s d resp = s := by
  refine (modDie_congr (g := fun _ => s.die d) ?_).trans (keep_die s d)
  have hl (m : NftOut) : (s.die d).leaves d m = false := (leaves_eq hm).trans (decide_eq_false h)
  cases resp with
  | true => cases hq : (s.die d).coe.outR <;> simp [hl]
  | false => cases hq : (s.die d).coe.out <;> simp [hl]
theorem fabricTake_request {x : NftOut} {rest : List NftOut} (hx : (s.die d).coe.out = x :: rest) (h : (s.die d).getReg d rNFTCFG &&& 7 ≠ 0) :
    fabricTake s d false = s.modDie d fun y => { y with coe := { y.coe with out := rest } } := by
  refine modDie_congr ?_
  simp only [hx, leaves_eq hm, decide_eq_true h, if_true, Bool.false_eq_true, if_false]
  rfl
theorem fabricTake_response {x : NftOut} {rest : List NftOut} (hx : (s.die d).coe.outR = x :: rest) (h : (s.die d).getReg d rNFTCFG &&& 7 ≠ 0) :
    fabricTake s d true = s.modDie d fun y => { y with coe := { y.coe with outR := rest } } := by
  refine modDie_congr ?_
  simp only [hx, leaves_eq hm, decide_eq_true h, if_true]
  rfl
end Take

/-- Settles O36: the steps of a multicast at its sender, a line at a member, and the way out of the die. -/
theorem multicastLines : Obligations.MulticastLines := by
  unfold Obligations.MulticastLines
  refine ⟨fun s d q r o h => ?_, fun s d m h1 h2 => (exec_mcastLineArrival d m s).trans (lineArrival_own h1 h2), fun s d m g pa hinv hsrc hg => ?_, fun s d m hsrc h => ?_, fun s d x rest hm => ?_⟩
  · intro a req len grp off
    refine ⟨fun hs hc => execMcast_run h (mcast_begins hs hc), fun x hs ha hl hasm hk hd hx hp => ?_, fun hs ha hl hn hq hsb => execMcast_run h (mcast_pushes hs ha hl hn hq hsb),
      fun n acc ref hc hlt => ?_, fun n m hc hlt => ⟨fun hmem => ?_, fun hmem => ?_⟩⟩
    · intro m
      refine ⟨_, execMcast_run h (mcast_sends hs ha hl hasm hk hd hx hp), ?_, ?_, copyRun_run _ _ _ _, ?_⟩
      · rw [State.ag, copyRun_die, State.die_modDie_same, toFabric_mcLines, State.modAg, State.die_modDie_same]
        refine (congrArg (fun z : CopyEng => z.ag.asm) (vget_vmod_same _ _ _)).trans ((congrArg (fun z : CopyEng => z.ag.asm) (vget_vmod_same _ _ _)).trans ?_)
        have hdrop := congrArg (List.filter fun z : Asm => z.key != x.key) hasm
        exact hdrop.trans (by simp)
      · refine SameMem.trans (SameMem.trans (sameMem_modDie _ _ _ (Die.modAg_mem _ _ _)) (sameMem_modDie _ _ _ ?_)) (setRun_sameMem _ _ _)
        rw [toFabric_mcLines]
      · rw [copyRun_die, State.die_modDie_same, toFabric_mcLines, State.modAg, State.die_modDie_same]
        rfl
    · have he : exec (.aggregatedAck d q acc ref) s = runNext s d a { r with
          mAck := r.mAck + 1
          mNak := unionNat r.mNak (unionNat [] (ref.filter r.isMember))
          mAll := max r.mAll (min acc (r.others - (unionNat [] (ref.filter r.isMember)).length) + (unionNat [] (ref.filter r.isMember)).length) } := by
        refine (exec_aggregatedAck d q acc ref s).trans ?_
        simp only [execAggregatedAck, h.run, hc, Nat.not_le.2 hlt, if_false]
        rfl
      refine ⟨fun hsorted hmem hroom => ?_, _, he, rfl, fun m hm => ?_⟩
      · rw [he, List.filter_eq_self.2 hmem, unionNat_sorted (l := []) hsorted, List.nil_append, Nat.min_eq_left (by omega)]
      · rcases mem_unionNat.1 hm with hm | hm
        · exact .inl hm
        · obtain ⟨h1, h2⟩ := List.mem_filter.1 ((mem_unionNat.1 hm).resolve_left nofun)
          exact .inr ⟨h1, isMember_iff.1 h2⟩
    · refine (exec_mcastMemberTimeout d q m s).trans ?_
      simp only [execMcastMemberTimeout, h.run, hc, decide_eq_true hlt, hmem, Bool.and_self, if_true]
      rfl
    · refine (exec_mcastMemberTimeout d q m s).trans ?_
      simp only [execMcastMemberTimeout, h.run, hc, hmem, Bool.and_false, Bool.false_eq_true, if_false]
  · intro hh hx hmem hpin hb href
    refine ⟨_, (exec_mcastLineArrival d m s).trans (lineArrival_applied hsrc hg hx hmem hpin hb href), ?_, fun a => ?_, fun k i => ?_⟩
    · rw [State.die_modDie_same]
      refine congrArg (· ++ [NftOut.mcAck m.grp m.src true]) ?_
      split <;> simp only [State.incSem, State.die_modSlot_same, State.die_modDie_same, Die.modSlot_coe] <;>
        exact foldl_apply_keep (fun y => y.coe.outR) (fun _ _ _ _ => rfl) d _ _
    · rw [State.die_modDie_same]
      refine Eq.trans ?_ (cutLines_apply_memGet d pa m.data (s.die d) (hinv d) a)
      refine congrArg (memGet · a) ?_
      split <;> simp only [State.incSem, State.die_modSlot_same, State.die_modDie_same, Die.modSlot_mem] <;> rfl
    · have hslot (k : SlotId) : (s.modDie d (linesApplied d pa m.data)).slot d k = s.slot d k := by
        rw [State.slot, State.die_modDie_same]
        exact foldl_apply_keep (fun y => y.slot k) (fun _ _ _ _ => rfl) d _ _
      have hlast (t : State) (c : State → Die → Coll) : (t.modDie d fun y => { y with coe := c t y }).slot d k = t.slot d k := by
        rw [State.slot, State.die_modDie_same]
        rfl
      refine (congrArg (fun t : Slot => vget t.sems i) (hlast _ fun _ y => y.coe.answer m true)).trans ?_
      by_cases hi : (m.last && m.se) = true
      · obtain ⟨h1, h2⟩ := Bool.and_eq_true _ _ ▸ hi
        rw [if_pos hi, incSem_rest, hslot]
        by_cases hk : k = m.sslot
        · by_cases hj : i = m.sem
          · subst hj
            rw [if_pos hk, if_pos ⟨hk, rfl, h1, h2⟩]
            exact vget_vmod_same _ _ _
          · rw [if_pos hk, if_neg fun h => hj h.2.1]
            exact vget_vmod_ne _ (Ne.symm hj) _
        · rw [if_neg hk, if_neg fun h => hk h.1]
      · rw [if_neg hi, hslot, if_neg fun h => hi (by rw [h.2.2.1, h.2.2.2]; rfl)]
  · refine ⟨_, (exec_mcastLineArrival d m s).trans (lineArrival_refused hsrc h), sameMem_modDie _ _ _ rfl, ?_⟩
    rw [State.die_modDie_same]
    rfl
  · intro open_
    refine ⟨fun hx ho => ?_, fun ho => ?_, fun ps hx ho hal hag => ?_⟩
    · exact (exec_switchReplicate d s).trans (congrArg Host.Outcome.next (fabricTake_request hm hx ho))
    · exact (exec_switchReplicate d s).trans (congrArg Host.Outcome.next (fabricTake_closed hm ho false))
    · have hal' : (({ s with agenda := ps } : State).die d).alive = true := hal
      simp only [step, nextPick, hag, resolve, hal', if_true]
      exact congrArg Host.Outcome.next (fabricTake_response (s := { s with agenda := ps }) hm hx ho)

end Sys2Proof.Proofs
end

section
/-! SUPPORT. The trace unit's reach, and the contexts of the collective engine: what a cursor reads and changes (O37, O38, O40, O41). -/

namespace Sys2Proof.Proofs

open Sys2Proof Sys2Proof.Machine Sys2Proof.Laws

/-! ## What a trace record leaves (R342) -/

/-- A part of the die that neither a write to memory, nor one to a register, nor the trace unit touches. -/
structure TraceKeeps {α : Type} (P : Die → α) : Prop where
  poke : ∀ y a bs psn, P (Die.poke y a bs psn) = P y
  reg : ∀ y off v, P (Die.setReg y off v) = P y
  trace : ∀ (y : Die) t, P { y with trace := t } = P y

section Trace
variable {α : Type} {P : Die → α} (hP : TraceKeeps P)
include hP

theorem trcBytes_keeps (d : DieId) (bs : List Byte) (y : Die) : P (trcBytes d y bs) = P y := by
  induction bs generalizing y with
  | nil => rfl
  | cons b bs ih =>
    refine (ih _).trans ?_
    dsimp only
    split
    · exact (hP.reg _ _ _).trans (hP.poke _ _ _ _)
    · exact (hP.trace _ _).trans ((hP.reg _ _ _).trans ((hP.reg _ _ _).trans (hP.poke _ _ _ _)))
theorem trcResync_keeps (d : DieId) (y : Die) : P (trcResync d y) = P y := (trcBytes_keeps hP d _ _).trans (hP.trace _ _)
theorem trcPut_keeps (d : DieId) (y : Die) (kind : Nat) (bs : List Byte) : P (trcPut d y kind bs) = P y := (trcBytes_keeps hP d _ _).trans (hP.trace _ _)
theorem trcSync_keeps (d : DieId) (y : Die) : P (trcSync d y) = P y := by
  have hone (y : Die) (b : Bool) : P (if b then trcResync d y else y) = P y := by
    cases b
    · rfl
    · exact trcResync_keeps hP d y
  unfold trcSync
  exact (hone _ _).trans (hone _ _)
theorem trcMark_keeps (d : DieId) (y : Die) : P (trcMark d y) = P y := by
  unfold trcMark
  split
  · exact trcResync_keeps hP d y
  · exact hP.trace _ _
theorem trcRecord_keeps (d : DieId) (y : Die) (kind : Nat) (bs : List Byte) : P (trcRecord d y kind bs) = P y := by
  unfold trcRecord
  split
  · rfl
  · split
    · exact hP.trace _ _
    · refine (trcPut_keeps hP d _ _ _).trans ?_
      have h1 : P (trcSync d { y with trace := { y.trace with lost := 0 } }) = P y := (trcSync_keeps hP d _).trans (hP.trace _ _)
      split
      · exact h1
      · exact (trcSync_keeps hP d _).trans ((trcPut_keeps hP d _ _ _).trans h1)
end Trace

theorem traceKeeps_coe : TraceKeeps Die.coe := ⟨fun _ _ _ _ => rfl, fun _ _ _ => rfl, fun _ _ => rfl⟩

/-! ## A context and its cursor (R285) -/

/-- The cursor of a context. -/
def ctxCur (d : DieId) (x : Fin 8) : Cur := ⟨d, .coll, ⟨x.val, Nat.lt_trans x.isLt (by decide)⟩⟩
@[simp] theorem ctxCur_ctx (d : DieId) (x : Fin 8) : (ctxCur d x).ctx? = some x := by simp [ctxCur, Cur.ctx?]
/-- A context changed. -/
def onCtx (s : State) (d : DieId) (x : Fin 8) (f : KCtx → KCtx) : State := s.modDie d fun y => { y with coe := { y.coe with ctx := vmod y.coe.ctx x fun k => k.map f } }

section Cursor
variable (s : State) (d : DieId) (x : Fin 8)

theorem run_ctxCur : s.run (ctxCur d x) = (s.ctx d x).bind (·.run) := by
  have h : s.run (ctxCur d x) = match s.ctx d x with | some z => z.run | none => none := dif_pos x.isLt
  rw [h]
  cases s.ctx d x <;> rfl
theorem setRun_ctxCur (r : Run) : s.setRun (ctxCur d x) r = onCtx s d x fun k => { k with run := some r } := modDie_congr (dif_pos x.isLt)
theorem kwait_ctxCur : s.kwait (ctxCur d x) = (s.ctx d x).bind (·.wait) := by
  unfold State.kwait
  rw [ctxCur_ctx]
  rfl
theorem setKwait_ctxCur (w : Option KWait) : s.setKwait (ctxCur d x) w = onCtx s d x fun k => { k with wait := w } := by
  unfold State.setKwait
  rw [ctxCur_ctx]
  rfl
theorem gens_ctxCur {k : KCtx} (hk : s.ctx d x = some k) : s.gens (ctxCur d x) = k.gens := by
  unfold State.gens
  rw [ctxCur_ctx, show (ctxCur d x).die = d from rfl]
  simp only [hk]
theorem setGen_ctxCur (grp : BitVec 12) (g : W32) : s.setGen (ctxCur d x) grp g = onCtx s d x fun k => { k with gens := spSet 0 k.gens grp.toNat g } := by
  unfold State.setGen
  rw [ctxCur_ctx]
  rfl

theorem ctx_onCtx (f : KCtx → KCtx) : (onCtx s d x f).ctx d x = (s.ctx d x).map f := by
  unfold State.ctx State.coe onCtx
  rw [State.die_modDie_same]
  exact vget_vmod_same _ _ _
/-- What does not look at the contexts. -/
theorem coe_onCtx {α : Type} (P : Coll → α) (hP : ∀ c v, P { c with ctx := v } = P c) (f : KCtx → KCtx) : P ((onCtx s d x f).die d).coe = P (s.die d).coe := by
  unfold onCtx
  rw [State.die_modDie_same]
  exact hP _ _
theorem die_onCtx (f : KCtx → KCtx) : (onCtx s d x f).die d = { s.die d with coe := { (s.die d).coe with ctx := vmod (s.die d).coe.ctx x fun k => k.map f } } := State.die_modDie_same _ _ _
theorem onCtx_sameMem (f : KCtx → KCtx) : SameMem s (onCtx s d x f) := sameMem_modDie _ _ _ rfl
theorem setCtx_coe (k : KCtx) {α : Type} (P : Coll → α) (hP : ∀ c v a b, P { c with ctx := v, kstat := a, kslip := b } = P c) : P ((s.setCtx d x k).die d).coe = P (s.die d).coe := by
  unfold State.setCtx State.modCoe
  rw [State.die_modDie_same]
  exact hP _ _ _ _
theorem ctx_setCtx (k : KCtx) : (s.setCtx d x k).ctx d x = some k := by
  unfold State.ctx State.coe State.setCtx State.modCoe
  rw [State.die_modDie_same]
  exact vget_vset_same _ _ _
theorem ctx_setCtx_ne (k : KCtx) {z : Fin 8} (h : x ≠ z) : (s.setCtx d x k).ctx d z = s.ctx d z := by
  unfold State.ctx State.coe State.setCtx State.modCoe
  rw [State.die_modDie_same]
  exact vget_vset_ne _ h _
end Cursor

/-! ## A message to the fabric -/

theorem sendNft_die {s : State} {d : DieId} (hm : s.muted d = false) (m : NftOut) : (sendNft s d m).die d = (s.die d).toFabric d m := by
  rw [sendNft, hm]
  exact State.die_modDie_same _ _ _
/-- What a message leaves of the collective engine. -/
theorem sendNft_coe {α : Type} (P : Coll → α) (hP : ∀ c o r st, P { c with out := o, outR := r, streams := st } = P c) (s : State) (d : DieId) (m : NftOut) :
    P ((sendNft s d m).die d).coe = P (s.die d).coe := by
  cases hm : s.muted d with
  | true => rw [sendNft, hm, if_pos rfl]
  | false =>
    rw [sendNft_die hm]
    exact hP _ _ _ _
theorem sendNft_ctx (s : State) (d : DieId) (m : NftOut) (x : Fin 8) : (sendNft s d m).ctx d x = s.ctx d x := sendNft_coe (fun c => vget c.ctx x) (fun _ _ _ _ => rfl) s d m
/-- Responses leave in a queue of their own (R281). -/
def isResponse : NftOut → Bool
  | .grant .. | .ack .. | .mcAck .. => true
  | _ => false
theorem toFabric_out (y : Die) (d : DieId) (m : NftOut) : (y.toFabric d m).coe.out = if isResponse m then y.coe.out else y.coe.out ++ [m] := by
  cases m <;> rfl
theorem toFabric_outR (y : Die) (d : DieId) (m : NftOut) : (y.toFabric d m).coe.outR = if isResponse m then y.coe.outR ++ [m] else y.coe.outR := by
  cases m <;> rfl
theorem sendNft_out {s : State} {d : DieId} (hm : s.muted d = false) {m : NftOut} (h : isResponse m = false) : ((sendNft s d m).die d).coe.out = (s.die d).coe.out ++ [m] := by
  rw [sendNft_die hm, toFabric_out, h]
  rfl
theorem sendNft_outR {s : State} {d : DieId} (hm : s.muted d = false) {m : NftOut} (h : isResponse m = true) : ((sendNft s d m).die d).coe.outR = (s.die d).coe.outR ++ [m] := by
  rw [sendNft_die hm, toFabric_outR, h]
  rfl

/-! ## Slips (R290) -/

/-- A context after a slip of `delay` ticks. -/
def slipped (delay cause : Nat) (k : KCtx) : KCtx := if delay = 0 then k else { k with ofs := k.ofs + 64 * ((delay + 63) / 64), cause := cause, nslip := min (k.nslip + 1) (2 ^ 20 - 1) }
theorem slipped_ofs (delay cause : Nat) (k : KCtx) : (slipped delay cause k).ofs = k.ofs + 64 * ((delay + 63) / 64) := by
  unfold slipped
  split
  · next h => subst h; rfl
  · rfl
theorem slipped_rest {α : Type} (P : KCtx → α) (hP : ∀ k o c n, P { k with ofs := o, cause := c, nslip := n } = P k) (delay cause : Nat) (k : KCtx) : P (slipped delay cause k) = P k := by
  unfold slipped
  split
  · rfl
  · exact hP _ _ _ _

section Slip
variable (s : State) (d : DieId) (x : Fin 8) (delay cause : Nat)

/-- What a slip leaves of the collective engine. -/
theorem slipBy_coe {α : Type} (P : Coll → α) (hP : ∀ c v a b o r st, P { c with ctx := v, kstat := a, kslip := b, out := o, outR := r, streams := st } = P c) :
    P ((slipBy s d x delay cause).die d).coe = P (s.die d).coe := by
  unfold slipBy
  split
  · rfl
  · dsimp only
    split
    · rfl
    · refine (sendNft_coe P (fun c o r st => hP c c.ctx c.kstat c.kslip o r st) _ d _).trans ?_
      rw [State.die_modDie_same, countDie_rest]
      refine (congrArg P (trcRecord_keeps traceKeeps_coe d _ _ _)).trans ?_
      exact setCtx_coe _ _ _ _ P fun c v a b => hP c v a b c.out c.outR c.streams
theorem slipBy_ctx : (slipBy s d x delay cause).ctx d x = (s.ctx d x).map (slipped delay cause) := by
  unfold slipBy
  split
  · next h => rw [h]; rfl
  · next k h =>
    rw [h, Option.map_some, slipped]
    dsimp only
    split
    · exact h
    · rw [sendNft_ctx]
      have hd (t : State) (f : Die → Die) (hf : (f (t.die d)).coe = (t.die d).coe) : (t.modDie d f).ctx d x = t.ctx d x := by
        unfold State.ctx State.coe
        rw [State.die_modDie_same, hf]
      rw [hd _ _ (by rw [countDie_rest]; exact trcRecord_keeps traceKeeps_coe d _ _ _), ctx_setCtx]
end Slip

/-! ## Waits (R290, R410) -/

section Wait
variable {s : State} {d : DieId} {x : Fin 8} {k : KCtx} (hk : s.ctx d x = some k)
include hk

theorem waitOn_new (hw : k.wait = none) (kind : Nat) (on : Bool) : waitOn s (ctxCur d x) kind on = s.setKwait (ctxCur d x) (some ⟨kind, s.tick d, 0, on, s.tick d⟩) := by
  unfold waitOn
  rw [kwait_ctxCur, hk, Option.bind_some, hw]
  rfl
theorem waitOn_old (hw : k.wait ≠ none) (kind : Nat) (on : Bool) : waitOn s (ctxCur d x) kind on = s := by
  obtain ⟨q, hq⟩ := Option.ne_none_iff_exists'.1 hw
  unfold waitOn
  rw [kwait_ctxCur, hk, Option.bind_some, hq]
theorem waitOn_ctx (kind : Nat) (on : Bool) : ∃ q, (waitOn s (ctxCur d x) kind on).ctx d x = some { k with wait := some q } := by
  cases hw : k.wait with
  | none =>
    refine ⟨⟨kind, s.tick d, 0, on, s.tick d⟩, ?_⟩
    rw [waitOn_new hk hw, setKwait_ctxCur, ctx_onCtx, hk]
    rfl
  | some q =>
    refine ⟨q, ?_⟩
    rw [waitOn_old hk (by rw [hw]; exact nofun), hk, ← hw]
theorem waitEnd_none (hw : k.wait = none) : waitEnd s (ctxCur d x) = s := by
  unfold waitEnd
  rw [kwait_ctxCur, hk, Option.bind_some, hw]
/-- A wait that ends is a slip of its length. -/
theorem waitEnd_some {q : KWait} (hw : k.wait = some q) : waitEnd s (ctxCur d x) = slipBy (s.setKwait (ctxCur d x) none) d x (s.tick d - q.since).toNat q.kind := by
  unfold waitEnd
  rw [kwait_ctxCur, hk, Option.bind_some, hw]
  simp only [ctxCur_ctx]
  rw [setKwait_ctxCur]
  have : (onCtx s d x fun k => { k with wait := none }).tick d = s.tick d := by
    unfold State.tick
    rw [die_onCtx]
    rfl
  exact congrArg (fun t : Word => slipBy (onCtx s d x fun k => { k with wait := none }) d x (t - q.since).toNat q.kind) this
theorem waitEnd_ctx {q : KWait} (hw : k.wait = some q) : (waitEnd s (ctxCur d x)).ctx d x = some (slipped (s.tick d - q.since).toNat q.kind { k with wait := none }) := by
  rw [waitEnd_some hk hw, slipBy_ctx, setKwait_ctxCur, ctx_onCtx, hk]
  rfl
/-- Wherever a wait ends, it has ended, and the run is as before. -/
theorem waitEnd_ends : ∃ k', (waitEnd s (ctxCur d x)).ctx d x = some k' ∧ k'.wait = none ∧ k'.run = k.run := by
  cases hw : k.wait with
  | none => exact ⟨k, by rw [waitEnd_none hk hw, hk], hw, rfl⟩
  | some q => exact ⟨_, waitEnd_ctx hk hw, slipped_rest (·.wait) (fun _ _ _ _ => rfl) _ _ _, slipped_rest (·.run) (fun _ _ _ _ => rfl) _ _ _⟩
theorem waitEnd_coe {α : Type} (P : Coll → α) (hP : ∀ c v a b o r st, P { c with ctx := v, kstat := a, kslip := b, out := o, outR := r, streams := st } = P c) :
    P ((waitEnd s (ctxCur d x)).die d).coe = P (s.die d).coe := by
  cases hw : k.wait with
  | none => rw [waitEnd_none hk hw]
  | some q =>
    rw [waitEnd_some hk hw, slipBy_coe _ _ _ _ _ P hP, setKwait_ctxCur]
    exact coe_onCtx _ _ _ P (fun c v => hP c v c.kstat c.kslip c.out c.outR c.streams) _
end Wait

end Sys2Proof.Proofs
end

section
/-! SUPPORT. Words of a step that wait (O37). -/

namespace Sys2Proof.Proofs

open Sys2Proof Sys2Proof.Machine Sys2Proof.Laws

section Words
variable {s : State} {d : DieId} {x : Fin 8} {k : KCtx} {r : Run} {o : COp}

/-! ## What each word does at its context -/

section AtContext
variable (hk : s.ctx d x = some k)
include hk

theorem krecv_met (h1 : fld (r.par o.f1) 6 10 = 0) (h2 : fld (r.par o.f1) 48 16 = 0) (h3 : fld (r.par o.f1) 16 32 ≠ 0)
    (hn : fld (r.par o.f1) 16 32 ≤ (vget k.cnts ⟨fld (r.par o.f1) 0 6 % 64, Nat.mod_lt _ (by decide)⟩).toNat) :
    krecvStep s (ctxCur d x) r o = (waitEnd s (ctxCur d x)).setRun (ctxCur d x) (r.adv o.na) := by
  unfold krecvStep
  simp only [ctxCur_ctx, show (ctxCur d x).die = d from rfl, hk, h1, h2, h3, bne_self_eq_false, decide_false, Bool.or_self, Bool.false_eq_true, if_false, hn, if_true]
  rfl
theorem krecv_waits (h1 : fld (r.par o.f1) 6 10 = 0) (h2 : fld (r.par o.f1) 48 16 = 0) (h3 : fld (r.par o.f1) 16 32 ≠ 0)
    (hn : (vget k.cnts ⟨fld (r.par o.f1) 0 6 % 64, Nat.mod_lt _ (by decide)⟩).toNat < fld (r.par o.f1) 16 32) : krecvStep s (ctxCur d x) r o = waitOn s (ctxCur d x) 1 true := by
  unfold krecvStep
  simp only [ctxCur_ctx, show (ctxCur d x).die = d from rfl, hk, h1, h2, h3, bne_self_eq_false, decide_false, Bool.or_self, Bool.false_eq_true, if_false, Nat.not_le.2 hn]

/-- The generation of a `kbar`'s group, which its context holds. -/
theorem kbar_gen (grp : BitVec 12) : spGet (0 : W32) (s.gens (ctxCur d x)) grp.toNat = spGet 0 k.gens grp.toNat := by rw [gens_ctxCur _ _ _ hk]
theorem kbar_begins (hp : r.part = 0) (h1 : fld (r.par o.f1) 12 52 = 0) (hg : ((s.die d).groupFor d (BitVec.ofNat 12 (r.par o.f1).toNat).toNat true).isSome = true) :
    kbarStep s (ctxCur d x) r o = (s.setGen (ctxCur d x) (BitVec.ofNat 12 (r.par o.f1).toNat) (spGet 0 k.gens (BitVec.ofNat 12 (r.par o.f1).toNat).toNat + 1)).setRun (ctxCur d x)
      { r with started := true, part := 1 } := by
  have hg' : ((s.die d).groupFor d (BitVec.ofNat 12 (r.par o.f1).toNat).toNat true).isNone = false := by
    rw [← Option.not_isSome, hg]
    rfl
  unfold kbarStep
  simp only [hp, if_true, h1, bne_self_eq_false, Bool.false_eq_true, if_false, show (ctxCur d x).die = d from rfl, hg', kbar_gen hk]
omit hk in
theorem kbar_unsettled (hp : r.part = 1) (h : s.settled d .coll = false ∨ (s.die d).fabQuiet r.slot = false) : kbarStep s (ctxCur d x) r o = waitOn s (ctxCur d x) 4 false := by
  have : (!s.settled d .coll || !(s.die d).fabQuiet r.slot) = true := by
    rcases h with h | h <;> simp [h]
  unfold kbarStep
  simp only [hp, Nat.one_ne_zero, if_false, if_true, show (ctxCur d x).die = d from rfl, this]
/-- The state in which a `kbar` has sent its arrival. -/
def arrived (s : State) (d : DieId) (x : Fin 8) (k : KCtx) (r : Run) (grp : BitVec 12) : State :=
  (sendNft s d (.barArr grp (spGet 0 k.gens grp.toNat))).setRun (ctxCur d x) { r with part := 2 }
theorem kbar_arrives (hp : r.part = 1) (h1 : s.settled d .coll = true) (h2 : (s.die d).fabQuiet r.slot = true) :
    ∃ w, kbarStep s (ctxCur d x) r o = arrived s d x k r (BitVec.ofNat 12 (r.par o.f1).toNat) ∨
      kbarStep s (ctxCur d x) r o = (arrived s d x k r (BitVec.ofNat 12 (r.par o.f1).toNat)).setKwait (ctxCur d x) w := by
  have : (!s.settled d .coll || !(s.die d).fabQuiet r.slot) = false := by simp [h1, h2]
  unfold kbarStep
  simp only [hp, Nat.one_ne_zero, if_false, if_true, show (ctxCur d x).die = d from rfl, this, Bool.false_eq_true, kbar_gen hk]
  split
  · exact ⟨_, .inr rfl⟩
  · exact ⟨none, .inl rfl⟩
theorem kbar_over (hp : r.part = 2) (hm : (s.die d).missing d (BitVec.ofNat 12 (r.par o.f1).toNat) (spGet 0 k.gens (BitVec.ofNat 12 (r.par o.f1).toNat).toNat) = [])
    (hg : (s.die d).gateOk d = true) : kbarStep s (ctxCur d x) r o = (waitEnd s (ctxCur d x)).setRun (ctxCur d x) (r.adv o.na) := by
  unfold kbarStep
  simp only [hp, OfNat.ofNat_ne_zero, OfNat.ofNat_ne_one, if_false, show (ctxCur d x).die = d from rfl, kbar_gen hk, hm, hg, List.isEmpty_nil, Bool.and_self, if_true]
  rfl
theorem kbar_waits (hp : r.part = 2) (hm : (s.die d).missing d (BitVec.ofNat 12 (r.par o.f1).toNat) (spGet 0 k.gens (BitVec.ofNat 12 (r.par o.f1).toNat).toNat) ≠ []) :
    kbarStep s (ctxCur d x) r o =
      waitOn s (ctxCur d x) 4 (!((s.die d).late d (BitVec.ofNat 12 (r.par o.f1).toNat) (spGet 0 k.gens (BitVec.ofNat 12 (r.par o.f1).toNat).toNat)).isEmpty) := by
  have : ((s.die d).missing d (BitVec.ofNat 12 (r.par o.f1).toNat) (spGet 0 k.gens (BitVec.ofNat 12 (r.par o.f1).toNat).toNat)).isEmpty = false := by simpa using hm
  unfold kbarStep
  simp only [hp, OfNat.ofNat_ne_zero, OfNat.ofNat_ne_one, if_false, show (ctxCur d x).die = d from rfl, kbar_gen hk, this, Bool.false_and, Bool.false_eq_true]

theorem krel_again {st : KStep} (hst : k.steps[k.step]? = some st) (hr : k.released = true) : krelStep s (ctxCur d x) r o = s.setRun (ctxCur d x) (r.adv o.na) := by
  unfold krelStep
  simp only [ctxCur_ctx, show (ctxCur d x).die = d from rfl, hk, hst, hr, if_true]
  rfl
/-- The state after a `krel` whose list has been handed over. -/
def handedOver (d : DieId) (x : Fin 8) (r : Run) (na : BitVec 2) (s : State) : State := onCtx (s.setRun (ctxCur d x) (r.adv na)) d x fun k => { k with released := true }
theorem krel_first {st : KStep} (hst : k.steps[k.step]? = some st) (hr : k.released = false) :
    krelStep s (ctxCur d x) r o = releaseTasks s (ctxCur d x) k st r.wordAt (handedOver d x r o.na) := by
  unfold krelStep
  simp only [ctxCur_ctx, show (ctxCur d x).die = d from rfl, hk, hst, hr, Bool.false_eq_true, if_false]
  rfl
theorem handedOver_ctx (na : BitVec 2) : (handedOver d x r na s).ctx d x = some { k with run := some (r.adv na), released := true } := by
  rw [handedOver, ctx_onCtx, setRun_ctxCur, ctx_onCtx, hk]
  rfl
end AtContext

theorem releaseTasks_none {st : KStep} {word : Word} {fin : State → State} (hset : s.settled d .coll = true) (hn : st.ntask = 0) : releaseTasks s (ctxCur d x) k st word fin = fin s := by
  unfold releaseTasks
  simp only [show (ctxCur d x).die = d from rfl, hset, Bool.not_true, Bool.false_eq_true, if_false, hn, if_true]
theorem releaseTasks_all {st : KStep} {word : Word} {fin : State → State} {y z : Die} {bs : List Byte} {l : Launch} (hset : s.settled d .coll = true) (hn : st.ntask ≠ 0)
    (hb : coeRead s (ctxCur d x) ((s.die d).whoOwn .coll k.own) st.tasks (8 * st.ntask) = .ok y bs) (hl : y.sched.launch k.own.lid = some l)
    (hz : Die.takeTasks d l ((List.range st.ntask).map fun i => leWord (slice bs (8 * i) 8)) y = (z, true)) :
    releaseTasks s (ctxCur d x) k st word fin = fin (s.modDie d fun _ => z) := by
  unfold releaseTasks
  simp only [show (ctxCur d x).die = d from rfl, hset, Bool.not_true, Bool.false_eq_true, if_false, hn, hb, hl, hz, if_true]

theorem kabs_tells (h1 : fld (r.par o.f1) 12 52 = 0) (h2 : fld (r.par o.f2) 1 63 = 0) (hg : ((s.die d).groupFor d (BitVec.ofNat 12 (r.par o.f1).toNat).toNat true).isSome = true) :
    kabsStep s (ctxCur d x) r o = (sendNft s d (.barAbs (BitVec.ofNat 12 (r.par o.f1).toNat) (bitAt (r.par o.f2) 0))).setRun (ctxCur d x) (r.adv o.na) := by
  have hg' : ((s.die d).groupFor d (BitVec.ofNat 12 (r.par o.f1).toNat).toNat true).isNone = false := by
    rw [← Option.not_isSome, hg]
    rfl
  unfold kabsStep
  simp only [h1, h2, bne_self_eq_false, Bool.or_self, Bool.false_eq_true, if_false, show (ctxCur d x).die = d from rfl, hg']
  rfl

/-! ## The words -/

theorem engDo_ctx {f : State → Cur → Run → State} {t : State} (hc : s.cur = ctxCur d x) (hk : s.ctx d x = some k) (hr : k.run = some r) (ht : f s (ctxCur d x) r = t) : engDo f s = .next t := by
  unfold engDo
  rw [hc, run_ctxCur, hk, Option.bind_some, hr]
  exact congrArg Host.Outcome.next ht
theorem setRun_ctx {t : State} {k' : KCtx} (h : t.ctx d x = some k') (r' : Run) : (t.setRun (ctxCur d x) r').ctx d x = some { k' with run := some r' } := by
  rw [setRun_ctxCur, ctx_onCtx, h]
  rfl
/-- A wait that ends before the run moves on. -/
theorem waitEnd_run (hk : s.ctx d x = some k) {q : KWait} (hw : k.wait = some q) (r' : Run) :
    ∃ k', ((waitEnd s (ctxCur d x)).setRun (ctxCur d x) r').ctx d x = some k' ∧ k'.run = some r' ∧ k'.wait = none ∧ k'.ofs = k.ofs + 64 * (((s.tick d - q.since).toNat + 63) / 64) :=
  ⟨_, setRun_ctx (waitEnd_ctx hk hw) r', rfl, slipped_rest (·.wait) (fun _ _ _ _ => rfl) _ _ _, slipped_ofs _ _ _⟩
end Words

/-- Settles O37: each word's step at its context, the waits' rules and what the messages add. -/
theorem stepWordsWaitAndRelease : Obligations.StepWordsWaitAndRelease := by
  unfold Obligations.StepWordsWaitAndRelease
  intro s d x k r o c hc hk hr w grp g tick goes
  have recv {t : State} (ht : krecvStep s (ctxCur d x) r o = t) : exec (.krecv o) s = .next t := (exec_krecv o s).trans (engDo_ctx hc hk hr ht)
  have bar {t : State} (ht : kbarStep s (ctxCur d x) r o = t) : exec (.kbar o) s = .next t := (exec_kbar o s).trans (engDo_ctx hc hk hr ht)
  have rel {t : State} (ht : krelStep s (ctxCur d x) r o = t) : exec (.krel o) s = .next t := (exec_krel o s).trans (engDo_ctx hc hk hr ht)
  have abs {t : State} (ht : kabsStep s (ctxCur d x) r o = t) : exec (.kabs o) s = .next t := (exec_kabs o s).trans (engDo_ctx hc hk hr ht)
  have hne {q : KWait} (hq : k.wait = some q) : k.wait ≠ none := by rw [hq]; exact nofun
  refine ⟨fun h1 h2 h3 => ?_, fun hp h1 hg => ?_, fun hp h => ⟨fun hw => ?_, fun q hq => ?_⟩, fun hp h1 h2 hm => ?_, fun hp hm hg hw => ?_, fun q hp hm hg hq => ?_, fun hp hm hw => ?_,
    fun q hp hm hq => ?_, fun h1 h2 hg hm => ?_, fun st hst hrel => ?_, fun st hst hrel hset hn => ?_, fun st y bs l z hst hrel hset hn hb hl hz hx => ?_⟩
  · intro n
    refine ⟨fun hn hw => ?_, fun q hn hq => ?_, fun hn hw => ?_, fun q hn hq => ?_⟩
    · exact recv ((krecv_met hk h1 h2 h3 hn).trans (congrArg (fun t : State => t.setRun (ctxCur d x) (r.adv o.na)) (waitEnd_none hk hw)))
    · obtain ⟨k', h4, h5, h6, h7⟩ := waitEnd_run hk hq (r.adv o.na)
      exact ⟨_, k', recv (krecv_met hk h1 h2 h3 hn), h4, h5, h6, h7⟩
    · exact recv ((krecv_waits hk h1 h2 h3 hn).trans (waitOn_new hk hw 1 true))
    · exact recv ((krecv_waits hk h1 h2 h3 hn).trans (waitOn_old hk (hne hq) 1 true))
  · have hk' : ((s.setGen (ctxCur d x) grp (g + 1)).setRun (ctxCur d x) { r with started := true, part := 1 }).ctx d x =
        some { k with gens := spSet 0 k.gens grp.toNat (g + 1), run := some { r with started := true, part := 1 } } := by
      rw [setRun_ctxCur, ctx_onCtx, setGen_ctxCur, ctx_onCtx, hk]
      rfl
    exact ⟨_, bar (kbar_begins hk hp h1 hg), ⟨_, hk', rfl⟩, _, hk', rfl⟩
  · exact bar ((kbar_unsettled hp h).trans (waitOn_new hk hw 4 false))
  · exact bar ((kbar_unsettled hp h).trans (waitOn_old hk (hne hq) 4 false))
  · have hctx : (arrived s d x k r grp).ctx d x = some { k with run := some { r with part := 2 } } := setRun_ctx ((sendNft_ctx _ _ _ _).trans hk) _
    have hout : ((arrived s d x k r grp).die d).coe.out = (s.die d).coe.out ++ [.barArr grp g] := by
      rw [arrived, setRun_ctxCur]
      exact (coe_onCtx _ _ _ Coll.out (fun _ _ => rfl) _).trans (sendNft_out hm rfl)
    obtain ⟨w, h | h⟩ := kbar_arrives (o := o) hk hp h1 h2
    · exact ⟨_, bar h, ⟨_, hctx, rfl⟩, hout⟩
    · refine ⟨_, bar h, ⟨{ k with run := some { r with part := 2 }, wait := w }, ?_, rfl⟩, ?_⟩
      · rw [setKwait_ctxCur, ctx_onCtx, hctx]
        rfl
      · rw [setKwait_ctxCur]
        exact (coe_onCtx _ _ _ Coll.out (fun _ _ => rfl) _).trans hout
  · exact bar ((kbar_over hk hp hm hg).trans (congrArg (fun t : State => t.setRun (ctxCur d x) (r.adv o.na)) (waitEnd_none hk hw)))
  · obtain ⟨k', h4, h5, h6, h7⟩ := waitEnd_run hk hq (r.adv o.na)
    exact ⟨_, k', bar (kbar_over hk hp hm hg), h4, h5, h6, h7⟩
  · exact bar ((kbar_waits hk hp hm).trans (waitOn_new hk hw 4 _))
  · exact bar ((kbar_waits hk hp hm).trans (waitOn_old hk (hne hq) 4 _))
  · refine ⟨_, abs (kabs_tells h1 h2 hg), ⟨_, setRun_ctx ((sendNft_ctx _ _ _ _).trans hk) _, rfl⟩, ?_⟩
    rw [setRun_ctxCur]
    exact (coe_onCtx _ _ _ Coll.out (fun _ _ => rfl) _).trans (sendNft_out hm rfl)
  · exact rel (krel_again hk hst hrel)
  · refine ⟨_, _, rel ((krel_first hk hst hrel).trans (releaseTasks_none hset hn)), handedOver_ctx hk _, rfl, rfl, ?_⟩
    exact SameMem.trans (setRun_sameMem s (ctxCur d x) _) (onCtx_sameMem _ _ _ _)
  · have hz' : (s.modDie d fun _ => z).ctx d x = some k := by
      unfold State.ctx State.coe
      rw [State.die_modDie_same]
      exact hx
    refine ⟨_, _, rel ((krel_first hk hst hrel).trans (releaseTasks_all hset hn hb hl hz)), ?_, handedOver_ctx hz' _, rfl, rfl⟩
    rw [handedOver, setRun_ctxCur, die_onCtx, die_onCtx, State.die_modDie_same]

end Sys2Proof.Proofs
end

section
/-! SUPPORT. Sends to another die (O38). -/

namespace Sys2Proof.Proofs

open Sys2Proof Sys2Proof.Machine Sys2Proof.Laws

section Send
variable {s : State} {d : DieId} {x : Fin 8} {k : KCtx} {r : Run} {o : COp}

/-- Where the chunk of a send goes, where it comes from, how long it is, and the run after it. -/
def sendTo (r : Run) (o : COp) : Nat := ((((r.par o.f1).toNat : Int) + r.mAck) % 2 ^ 64).toNat
def sendFrom (r : Run) (o : COp) : Nat := ((((r.par o.f2).toNat : Int) + r.mAck) % 2 ^ 64).toNat
def sendLen (r : Run) (o : COp) : Nat := min (fld (r.par o.f3) 0 40 - r.mAck) (4096 - sendTo r o % 4096)
def sendNext (r : Run) (o : COp) : Run :=
  if r.mAck + sendLen r o = fld (r.par o.f3) 0 40 then { r with unit := r.unit + 1, mSent := r.mSent + 1, mAck := 0 } else { r with unit := r.unit + 1, mAck := r.mAck + sendLen r o }

theorem sendTo_eq (hm : r.mSent = 0) : addrAt (ksendPlan r o).dst (r.mSent * (ksendPlan r o).ds + r.mAck) = sendTo r o := by
  rw [hm]
  simp [addrAt, ksendPlan, sendTo]
theorem sendFrom_eq (hm : r.mSent = 0) : addrAt (ksendPlan r o).src (r.mSent * (ksendPlan r o).ss + r.mAck) = sendFrom r o := by
  rw [hm]
  simp [addrAt, ksendPlan, sendFrom]

/-! ## The chunks -/

theorem send_reads {y : Die} {qs : List (Part × Piece)} (hm : r.mSent = 0) (ha : (s.ag d .coll).asm = [])
    (hq : accessParts d ((s.die d).whoRun (ctxCur d x) r) ⟨[0, 1], true, false⟩ [⟨sendFrom r o, sendLen r o, 0⟩] (s.die d) = .ok y qs) :
    chunkStep s (ctxCur d x) r (ksendPlan r o) = issueReads (s.modDie d fun _ => y) (ctxCur d x) r (16 * r.unit + x.val) r.unit false qs := by
  unfold chunkStep
  simp only [show (ctxCur d x).die = d from rfl, show (ctxCur d x).ag = .coll from rfl, sendTo_eq hm, sendFrom_eq hm]
  simp only [show (ksendPlan r o).pat = none from rfl, show (ksendPlan r o).smt = [0, 1] from rfl, show (ksendPlan r o).rb = fld (r.par o.f3) 0 40 from rfl, ha, List.find?_nil, plainPart]
  rw [show min (fld (r.par o.f3) 0 40 - r.mAck) (4096 - sendTo r o % 4096) = sendLen r o from rfl, hq]
  rfl
theorem send_writes {a : Asm} {y : Die} {ps : List Piece} (hm : r.mSent = 0) (ha : (s.ag d .coll).asm = [a]) (hk : a.key = 16 * r.unit + x.val) (hd : a.done = true) (hx : a.psn = false)
    (hq : accessRow d (s.die d) ((s.die d).whoRun (ctxCur d x) r) (sendTo r o) (sendLen r o) ⟨[2, 3], false, true⟩ = .ok y ps) :
    chunkStep s (ctxCur d x) r (ksendPlan r o) =
      ((pushChunk (s.modDie d fun _ => y) (ctxCur d x) r (sendTo r o) r.unit ps (a.bytes 0 (sendLen r o)) a.badIn).modAg d .coll fun z => z.dropAsm a.key).setRun (ctxCur d x) (sendNext r o) := by
  have hkey : Cur.key (ctxCur d x) r.unit = a.key := hk.symm
  have hfind : ([a].find? fun z => z.key == a.key) = some a := by simp
  have hbad (m n : Nat) : a.badIn m n = false := by simp [Asm.badIn, hx]
  unfold chunkStep
  simp only [show (ctxCur d x).die = d from rfl, show (ctxCur d x).ag = .coll from rfl, sendTo_eq hm, sendFrom_eq hm]
  simp only [show (ksendPlan r o).pat = none from rfl, show (ksendPlan r o).dmt = [2, 3] from rfl, show (ksendPlan r o).rb = fld (r.par o.f3) 0 40 from rfl, ha, hkey, hfind, hd, if_true]
  rw [show min (fld (r.par o.f3) 0 40 - r.mAck) (4096 - sendTo r o % 4096) = sendLen r o from rfl, hq]
  simp only [hbad, Bool.and_false, Bool.false_eq_true, if_false]
  rfl

/-! ## The steps of the word -/

section AtContext
variable (hk : s.ctx d x = some k)
include hk

theorem ksend_begins (hs : r.started = false) (hc : ksendCheck r o = none) : ksendStep s (ctxCur d x) r o = s.setRun (ctxCur d x) { r with started := true, mSent := 0, mAck := 0 } := by
  unfold ksendStep
  simp only [ctxCur_ctx, show (ctxCur d x).die = d from rfl, hk, hs, Bool.not_false, if_true, hc]
theorem ksend_asks {y : Die} {p : Piece} {h : DieId} {idx gen off : Nat} (hs : r.started = true) (hp : r.part = 0)
    (hq : access d (s.die d) ((s.die d).whoRun (ctxCur d x) r) (r.par o.f1).toNat 0 ⟨[2, 3], false, true⟩ = .ok y p) (hl : p.loc = .peer h idx gen off) :
    ksendStep s (ctxCur d x) r o =
      waitOn ((sendNft ((s.modDie d fun _ => y).modCoe d fun q => { q with nquery := y.coe.nquery + 1 }) d (.query (BitVec.ofNat 12 (y.pkg d)) h k.grp k.frame y.coe.nquery)).setRun (ctxCur d x)
        { r with part := 1, rw := y.coe.nquery, mGrp := (4 * (BitVec.ofNat 12 (y.pkg d)).toNat + h.val, none) }) (ctxCur d x) 2 true := by
  unfold ksendStep
  simp only [ctxCur_ctx, show (ctxCur d x).die = d from rfl, hk, hs, hp, Bool.not_true, Bool.false_eq_true, if_false, if_true, hq, hl, State.coe, State.modCoe, State.die_modDie_same]
  rfl
theorem ksend_granted (hs : r.started = true) (hp : r.part = 1) (hg : r.rw ∈ (s.die d).coe.grants) :
    ksendStep s (ctxCur d x) r o = waitEnd ((s.modCoe d fun q => { q with grants := q.grants.erase r.rw }).setRun (ctxCur d x) { r with part := 2 }) (ctxCur d x) := by
  have hg' : (s.coe d).grants.contains r.rw = true := List.contains_iff_mem.2 hg
  unfold ksendStep
  simp only [ctxCur_ctx, show (ctxCur d x).die = d from rfl, hk, hs, hp, Bool.not_true, Bool.false_eq_true, if_false, Nat.one_ne_zero, if_true, hg']
theorem ksend_waits (hs : r.started = true) (hp : r.part = 1) (hg : r.rw ∉ (s.die d).coe.grants) (hw : k.wait ≠ none) : ksendStep s (ctxCur d x) r o = s := by
  have hg' : (s.coe d).grants.contains r.rw = false := by simpa [State.coe] using hg
  unfold ksendStep
  simp only [ctxCur_ctx, show (ctxCur d x).die = d from rfl, hk, hs, hp, Bool.not_true, Bool.false_eq_true, if_false, Nat.one_ne_zero, if_true, hg', waitOn_old hk hw]
theorem ksend_chunk (hs : r.started = true) (hp : r.part = 2) (hm : r.mSent = 0) : ksendStep s (ctxCur d x) r o = chunkStep s (ctxCur d x) r (ksendPlan r o) := by
  unfold ksendStep
  simp only [ctxCur_ctx, show (ctxCur d x).die = d from rfl, hk, hs, hp, hm, Bool.not_true, Bool.false_eq_true, if_false, OfNat.ofNat_ne_zero, OfNat.ofNat_ne_one, if_true]
theorem ksend_counts {y : Die} {p : Piece} {h : DieId} {idx gen off : Nat} (hs : r.started = true) (hp : r.part = 2) (hm : r.mSent ≠ 0)
    (hq : access d (s.die d) ((s.die d).whoRun (ctxCur d x) r) (r.par o.f1).toNat 0 ⟨[2, 3], false, true⟩ = .ok y p) (hl : p.loc = .peer h idx gen off) (hb : bitAt (r.par o.f3) 63 = true) :
    ksendStep s (ctxCur d x) r o = ((s.modDie d fun _ => y).modAg d .coll fun a => { a with sb := a.sb ++ [.arrive h k.grp ⟨fld (r.par o.f3) 48 6 % 64, Nat.mod_lt _ (by decide)⟩] }).setRun
      (ctxCur d x) { r with part := 3 } := by
  unfold ksendStep
  simp only [ctxCur_ctx, show (ctxCur d x).die = d from rfl, hk, hs, hp, hm, Bool.not_true, Bool.false_eq_true, if_false, OfNat.ofNat_ne_zero, OfNat.ofNat_ne_one, if_true, hq, hb, hl]
  rfl
theorem ksend_over (hs : r.started = true) (hp : r.part = 3) (hm : r.mSent ≠ 0) (hsb : (s.ag d .coll).sb = []) (hpend : ∀ p ∈ (s.ag d .coll).pend, p.op.isFab = false) :
    ksendStep s (ctxCur d x) r o = s.setRun (ctxCur d x) ({ r with rw := 0 }.adv o.na) := by
  have hany : ((s.ag d .coll).pend.any fun p => p.op.isFab) = false := by
    rw [List.any_eq_false]
    intro p hpm
    rw [hpend p hpm]
    exact Bool.false_ne_true
  unfold ksendStep
  simp only [ctxCur_ctx, show (ctxCur d x).die = d from rfl, show (ctxCur d x).ag = .coll from rfl, hk, hs, hp, hm, Bool.not_true, Bool.false_eq_true, if_false, OfNat.ofNat_ne_zero, OfNat.ofNat_ne_one,
    hsb, hany, List.isEmpty_nil, Bool.not_false, Bool.and_self, if_true, Nat.reduceEqDiff]
  rfl
end AtContext
end Send

/-- Settles O38: query, grant, chunks, increment and end of a send, each from the word's step at its context. -/
theorem sendsFollowTheirGrant : Obligations.SendsFollowTheirGrant := by
  unfold Obligations.SendsFollowTheirGrant
  intro s d x k r o c hc hk hr w dst src len key da sa n next
  have send {t : State} (ht : ksendStep s (ctxCur d x) r o = t) : exec (.ksend o) s = .next t := (exec_ksend o s).trans (engDo_ctx hc hk hr ht)
  refine ⟨fun hs h1 h2 h3 h4 h5 h6 h7 => send (ksend_begins hk hs ?_), fun y p h idx gen off hs hp hq hl hm hx => ?_, fun hs hp hg => ?_, fun hs hp hg hw => send (ksend_waits hk hs hp hg hw),
    fun y qs hs hp hm ha hq => send ((ksend_chunk hk hs hp hm).trans (send_reads hm ha hq)), fun a y ps hs hp hm ha hkey hd hx hq => ?_,
    fun y p h idx gen off hs hp hm hq hl hb => send (ksend_counts hk hs hp hm hq hl hb), fun hs hp hm hsb hpend => send (ksend_over hk hs hp hm hsb hpend)⟩
  · have h3 : fld (r.par o.f3) 0 40 % 128 = 0 := h3
    have h4 : ¬ fld (r.par o.f3) 0 40 < 128 := Nat.not_lt.2 h4
    have h5 : ¬ 65536 < fld (r.par o.f3) 0 40 := Nat.not_lt.2 h5
    have h6 : (r.par o.f1).toNat % 16 = 0 := h6
    have h7 : (r.par o.f2).toNat % 16 = 0 := h7
    simp [ksendCheck, Run.lenPar, h1, h2, h3, h4, h5, h6, h7]
  · let u := (s.modDie d fun _ => y).modCoe d fun q => { q with nquery := y.coe.nquery + 1 }
    have hu : u.die d = { y with coe := { y.coe with nquery := y.coe.nquery + 1 } } := by
      unfold u State.modCoe
      rw [State.die_modDie_same, State.die_modDie_same]
    have hmu : u.muted d = false := by
      unfold State.muted at hm ⊢
      rw [State.die_modDie_same] at hm
      rw [hu]
      exact hm
    have hxu : u.ctx d x = some k := by
      unfold State.ctx State.coe
      rw [hu]
      exact hx
    obtain ⟨q, hq'⟩ := waitOn_ctx (setRun_ctx ((sendNft_ctx u d (.query (BitVec.ofNat 12 (y.pkg d)) h k.grp k.frame y.coe.nquery) x).trans hxu)
      { r with part := 1, rw := y.coe.nquery, mGrp := (4 * (BitVec.ofNat 12 (y.pkg d)).toNat + h.val, none) }) 2 true
    refine ⟨_, _, send (ksend_asks hk hs hp hq hl), ?_, hq', rfl, nofun⟩
    have hout : ∀ t : State, ((waitOn t (ctxCur d x) 2 true).die d).coe.out = (t.die d).coe.out := by
      intro t
      unfold waitOn
      split
      · rfl
      · rw [setKwait_ctxCur]
        exact coe_onCtx _ _ _ Coll.out (fun _ _ => rfl) _
    rw [hout, setRun_ctxCur]
    refine (coe_onCtx _ _ _ Coll.out (fun _ _ => rfl) _).trans ((sendNft_out hmu rfl).trans ?_)
    rw [hu]
  · have hx : ((s.modCoe d fun q => { q with grants := q.grants.erase r.rw }).setRun (ctxCur d x) { r with part := 2 }).ctx d x = some { k with run := some { r with part := 2 } } := by
      refine setRun_ctx ?_ _
      unfold State.ctx State.coe State.modCoe
      rw [State.die_modDie_same]
      exact hk
    obtain ⟨k', h1, h2, h3⟩ := waitEnd_ends hx
    refine ⟨_, k', send (ksend_granted hk hs hp hg), ?_, h1, h3, h2⟩
    rw [waitEnd_coe hx Coll.grants (fun _ _ _ _ _ _ _ => rfl), setRun_ctxCur]
    refine (coe_onCtx _ _ _ Coll.grants (fun _ _ => rfl) _).trans ?_
    unfold State.modCoe
    rw [State.die_modDie_same]
  · have he := (ksend_chunk (o := o) hk hs hp hm).trans (send_writes hm ha hkey hd hx hq)
    rw [hkey] at he
    exact send he

end Sys2Proof.Proofs
end

section
/-! SUPPORT. What the scheduler's accesses leave (R311), a fault at a context, and the messages of a group (O41). -/

namespace Sys2Proof.Proofs

open Sys2Proof Sys2Proof.Machine Sys2Proof.Laws

/-! ## Accesses made for a process by the scheduler -/

/-- `P` is kept by every update of a die-scope access under a process. -/
structure ProcKeeps (P : Die → Prop) : Prop extends TransKeeps P where
  write : ∀ d a bs, P d → P (d.poke a bs false)
  gate : ∀ d g, P d → P { d with gate := g }
  sb : ∀ d a (f : List SbOp → List SbOp), P d → P (d.modAg a fun x => { x with sb := f x.sb })

section Proc
variable {P : Die → Prop} (hP : ProcKeeps P)
include hP

theorem procLoad_keeps (d : DieId) (y : Die) (asid : Half) (va n : Nat) (h : P y) : P (procLoad d y asid va n).2 := by
  have e := accessAll_keeps hP.toTransKeeps d ⟨.coll, asid, none, none⟩ ⟨[0], true, false⟩ (cutLines va n) { y with gate := { y.gate with g := y.gate.v } } (hP.gate _ _ h)
  unfold procLoad accessRow
  dsimp only
  generalize accessAll d ⟨.coll, asid, none, none⟩ ⟨[0], true, false⟩ (cutLines va n) { y with gate := { y.gate with g := y.gate.v } } = q at e
  cases q <;> exact hP.gate _ _ e
theorem procStore_keeps (d : DieId) (y : Die) (asid : Half) (va : Nat) (bs : List Byte) (h : P y) : P (procStore d y asid va bs) := by
  have e := accessAll_keeps hP.toTransKeeps d ⟨.coll, asid, none, none⟩ ⟨[0], false, true⟩ (cutLines va bs.length) { y with gate := { y.gate with g := y.gate.v } } (hP.gate _ _ h)
  have put (ps : List Piece) (z : Die) (hz : P z) :
      P (ps.foldl (fun d p => match p.loc with | .here pa => (d.markDirty .coll p).poke pa (slice bs (p.va - va) p.len) false | _ => d) z) := by
    induction ps generalizing z with
    | nil => exact hz
    | cons p ps ih =>
      refine ih _ ?_
      dsimp only
      split
      · exact hP.write _ _ _ (markDirty_keeps hP.poke hP.tlb hP.sb _ _ _ hz)
      · exact hz
  unfold procStore accessRow
  dsimp only
  generalize accessAll d ⟨.coll, asid, none, none⟩ ⟨[0], false, true⟩ (cutLines va bs.length) { y with gate := { y.gate with g := y.gate.v } } = q at e
  cases q with
  | ok z ps => exact hP.gate _ _ (die_ite e (put ps z e))
  | wait z => exact hP.gate _ _ e
  | fault z a b => exact hP.gate _ _ e
end Proc

theorem modAg_coeCtx (d : Die) (a : Agent) (f : AgentSt → AgentSt) : (d.modAg a f).coe.ctx = d.coe.ctx := by
  cases a with
  | eng k e => cases e <;> rfl
  | _ => rfl
theorem procKeeps_ctx (v : Vector (Option KCtx) 8) : ProcKeeps fun d => d.coe.ctx = v where
  poke _ _ _ h := h
  walkc _ _ h := h
  tlb d x f h := by
    rw [← h]
    cases x <;> rfl
  miss d dn x a h := by
    have e := congrArg Coll.ctx (countMiss_coe d dn x a)
    exact e.trans h
  rast _ _ _ _ _ _ h := h
  write _ _ _ h := h
  gate _ _ h := h
  sb d a f h := (modAg_coeCtx d a _).trans h

/-! ## What slips and waits leave of the slots -/

theorem traceKeeps_slots : TraceKeeps Die.slots := ⟨fun _ _ _ _ => rfl, fun _ _ _ => rfl, fun _ _ => rfl⟩
theorem sendNft_slots (s : State) (d : DieId) (m : NftOut) : ((sendNft s d m).die d).slots = (s.die d).slots := by
  unfold sendNft
  split
  · rfl
  · rw [State.die_modDie_same]
    rfl
theorem slipBy_slots (s : State) (d : DieId) (x : Fin 8) (delay cause : Nat) : ((slipBy s d x delay cause).die d).slots = (s.die d).slots := by
  unfold slipBy
  split
  · rfl
  · dsimp only
    split
    · rfl
    · rw [sendNft_slots, State.die_modDie_same, countDie_rest]
      refine (trcRecord_keeps traceKeeps_slots d _ _ _).trans ?_
      unfold State.setCtx State.modCoe
      rw [State.die_modDie_same]
theorem waitEnd_slots {s : State} {d : DieId} {x : Fin 8} {k : KCtx} (hk : s.ctx d x = some k) : ((waitEnd s (ctxCur d x)).die d).slots = (s.die d).slots := by
  cases hw : k.wait with
  | none => rw [waitEnd_none hk hw]
  | some q =>
    rw [waitEnd_some hk hw, slipBy_slots, setKwait_ctxCur, die_onCtx]

/-! ## A fault at a context -/

section CtxFault
variable {s : State} {d : DieId} {x : Fin 8} {k : KCtx}

theorem heldTold_ctx (y : Die) (f : FaultAt) : ∃ g : KCtx → KCtx, (∀ k, ∃ r, g k = { k with run := r }) ∧ y.heldTold (ctxCur d x) f = { y with coe := { y.coe with ctx := vmod y.coe.ctx x fun k => k.map g } } := by
  have hid : ∃ g : KCtx → KCtx, (∀ k, ∃ r, g k = { k with run := r }) ∧ y = { y with coe := { y.coe with ctx := vmod y.coe.ctx x fun k => k.map g } } :=
    ⟨fun k => k, fun k => ⟨k.run, rfl⟩, by rw [vmod_self _ _ _ (by cases vget y.coe.ctx x <;> rfl)]⟩
  unfold Die.heldTold
  split
  · split
    · split
      · exact ⟨_, fun k => ⟨_, rfl⟩, dif_pos x.isLt⟩
      · exact hid
    · exact hid
  · exact hid
theorem ctxOf_ctxCur (y : Die) : y.ctxOf (ctxCur d x) = vget y.coe.ctx x := by
  unfold Die.ctxOf
  simp only [show (ctxCur d x).ag = .coll from rfl, ctxCur_ctx]
/-- A fault of a run at a context of a strand that has its slot is held there; the context is as before but for its run. -/
theorem ctxRunFault {r : Run} {code unit : Nat} {addr info : Word} (hc : ¬ (20 ≤ code ∧ code ≤ 24)) (hk : s.ctx d x = some k) (hs : k.slot = r.slot) (hb : (s.die d).ctxBound k = true)
    (hf : (s.slot d r.slot).heldBy 6 = false) :
    HeldFault (.next (runFault s (ctxCur d x) r code addr unit info)) d r.slot 6 code addr unit ∧ ∃ q, (runFault s (ctxCur d x) r code addr unit info).ctx d x = some { k with run := q } := by
  have hc' : (decide (20 ≤ code) && decide (code ≤ 24)) = false := by simpa using hc
  obtain ⟨f, hfc, hfa, hfu, he⟩ : ∃ f : FaultAt, f.code = code ∧ f.addr = addr ∧ f.unit = unit ∧ runFault s (ctxCur d x) r code addr unit info = agentFault s (ctxCur d x) r f := by
    unfold runFault
    simp only [hc', Bool.false_eq_true, if_false]
    exact ⟨_, rfl, rfl, rfl, rfl⟩
  obtain ⟨g, hg, hh⟩ := heldTold_ctx (d := d) (x := x) (s.die d) f
  obtain ⟨q, hq⟩ := hg k
  let u := s.modDie d fun y => y.heldTold (ctxCur d x) f
  have hu : u.die d = { s.die d with coe := { (s.die d).coe with ctx := vmod (s.die d).coe.ctx x fun k => k.map g } } := (State.die_modDie_same _ _ _).trans hh
  have hctx : (u.die d).ctxOf (ctxCur d x) = some { k with run := q } := by
    rw [ctxOf_ctxCur, hu, ← hq]
    have hk : vget (s.die d).coe.ctx x = some k := hk
    exact (vget_vmod_same _ _ _).trans (congrArg (Option.map g) hk)
  have hslot (j : SlotId) : u.slot d j = s.slot d j := by
    rw [State.slot, hu]
    rfl
  have hown : (u.die d).ownBound k.own r.slot = true := by
    rw [hu, ← hs]
    exact hb
  have hfault : agentFault s (ctxCur d x) r f = takeFault u d r.slot 6 f := by
    unfold agentFault
    change (match (u.die d).ctxOf (ctxCur d x), (u.die d).dirOwn (ctxCur d x) with
      | some k, _ => ctxFault u d k f
      | none, some o => ownFault u d o r.slot f
      | none, none => takeFault u d r.slot 6 f) = _
    rw [hctx]
    simp only [ctxFault, ownFault, hs, hown, if_true]
  rw [he, hfault, ← hfc, ← hfa, ← hfu]
  refine ⟨takeFault_engHeld (by decide) (by rw [hslot]; exact hf), q, ?_⟩
  rw [State.ctx, State.coe, (takeFault_fltOnly u d r.slot f (by decide)).rest, ← ctxOf_ctxCur (d := d), ← hctx]
  rfl
end CtxFault

/-! ## Barrier messages (R297) -/

theorem bar_setBar (c : Coll) (b : BarMem) : (c.setBar b).bar b.grp b.m = b := by
  unfold Coll.bar Coll.setBar
  simp
theorem setKwait_bars (s : State) (d : DieId) (x : Fin 9) (w : Option KWait) : ((s.setKwait ⟨d, .coll, x⟩ w).die d).coe.bars = (s.die d).coe.bars := by
  unfold State.setKwait State.modCoe
  split <;> rw [State.die_modDie_same]
theorem retimeBars_bars (s : State) (d : DieId) (grp : BitVec 12) : ((retimeBars s d grp).die d).coe.bars = (s.die d).coe.bars := by
  unfold retimeBars
  generalize allCtx = l
  induction l generalizing s with
  | nil => rfl
  | cons x l ih =>
    refine (ih _).trans ?_
    dsimp only
    split
    · split
      · exact setKwait_bars _ _ _ _
      · rfl
    · rfl

section Barrier
variable {s : State} {d : DieId} {grp : BitVec 12} {m : Nat} {g : Group} (hg : (s.die d).groupFor d grp.toNat true = some g) (f : BarMem → BarMem)
include hg

theorem barrierMsg_outside (h : g.nmem ≤ m ∨ m = g.self) : barrierMsg s d grp m f = s := by
  have : (decide (g.nmem ≤ m) || m == g.self) = true := by simpa using h
  unfold barrierMsg
  simp only [hg, this, if_true]
theorem barrierMsg_bar (h1 : m < g.nmem) (h2 : m ≠ g.self) (hf : (f ((s.die d).coe.bar grp m)).grp = grp ∧ (f ((s.die d).coe.bar grp m)).m = m) :
    ((barrierMsg s d grp m f).die d).coe.bar grp m = f ((s.die d).coe.bar grp m) := by
  have hin : (decide (g.nmem ≤ m) || m == g.self) = false := by
    simp only [Bool.or_eq_false_iff, decide_eq_false_iff_not, beq_eq_false_iff_ne]
    exact ⟨Nat.not_le.2 h1, h2⟩
  unfold barrierMsg
  simp only [hg, hin, Bool.false_eq_true, if_false]
  unfold Coll.bar
  rw [retimeBars_bars, State.modCoe, State.die_modDie_same]
  have := bar_setBar (s.die d).coe (f ((s.die d).coe.bar grp m))
  rw [hf.1, hf.2] at this
  exact this
end Barrier

/-! ## A slip notice (R290, R409) -/

/-- A context that a slip notice of its group has reached. -/
def noticed (grp : BitVec 12) (delay : Nat) (k : KCtx) : KCtx := if k.grp = grp ∧ k.nr ≠ 0 then { k with ofs := k.ofs + delay } else k
/-- A slip notice at one context. -/
def noticeAt (d : DieId) (grp : BitVec 12) (delay : Nat) (s : State) (x : Fin 8) : State :=
  match s.ctx d x with
  | some k => if k.up && k.grp == grp then s.setCtx d x { k with ofs := k.ofs + delay } else s
  | none => s

section Notice
variable (d : DieId) (grp : BitVec 12) (delay : Nat)

theorem noticeAt_same (s : State) (x : Fin 8) : (noticeAt d grp delay s x).ctx d x = (s.ctx d x).map (noticed grp delay) := by
  unfold noticeAt
  cases h : s.ctx d x with
  | none => exact h
  | some k =>
    have hc : (k.up && k.grp == grp) = true ↔ k.grp = grp ∧ k.nr ≠ 0 := by simp [KCtx.up, and_comm]
    simp only [hc, Option.map_some, noticed]
    split
    · exact ctx_setCtx _ _ _ _
    · exact h
theorem noticeAt_ne (s : State) {x z : Fin 8} (hx : x ≠ z) : (noticeAt d grp delay s x).ctx d z = s.ctx d z := by
  unfold noticeAt
  split
  · split
    · exact ctx_setCtx_ne _ _ _ _ hx
    · rfl
  · rfl
theorem noticeAll_ctx (l : List (Fin 8)) (hl : l.Nodup) (s : State) (z : Fin 8) :
    (l.foldl (noticeAt d grp delay) s).ctx d z = if z ∈ l then (s.ctx d z).map (noticed grp delay) else s.ctx d z := by
  induction l generalizing s with
  | nil => rfl
  | cons x l ih =>
    obtain ⟨hx, hl⟩ := List.nodup_cons.1 hl
    rw [List.foldl_cons, ih hl]
    by_cases hz : z = x
    · subst hz
      rw [if_neg hx, if_pos (List.mem_cons_self ..), noticeAt_same]
    · rw [noticeAt_ne _ _ _ _ (Ne.symm hz)]
      simp [hz]
end Notice

/-- A slip notice at one context of a save area, by its address, and at all of them. -/
def savedNotice (d : DieId) (grp : BitVec 12) (delay : Nat) (asid : Half) (a : Nat) (y : Die) : Die :=
  match procLoad d y asid a 64 with
  | (some bs, y) =>
    let w (n : Nat) : Word := leWord (slice bs (8 * n) 8)
    if bitAt (w 0) 63 && fld (w 0) 32 12 == grp.toNat then procStore d y asid (a + 24) (wordLe 8 (w 3 + BitVec.ofNat 64 delay)) else y
  | (none, y) => y
def savedNotices (place : Launch → Nat → Nat → Nat) (d : DieId) (grp : BitVec 12) (delay : Nat) (y : Die) : Die :=
  y.sched.launches.foldl (fun y l => l.blks.foldl (fun y b => if b.st != .swapped then y else (List.range 8).foldl (fun y i => savedNotice d grp delay l.asid (place l b.l i) y) y) y) y
/-- The addresses stand for themselves here: the kernel would count down the size of a save area where it meets them written out. -/
theorem slipNotice_eq (s : State) (d : DieId) (grp : BitVec 12) (delay : Nat) :
    ∃ place, execSlipNotice d grp delay s = .next (((List.finRange 8).foldl (noticeAt d grp delay) s).modDie d (savedNotices place d grp delay)) := by
  obtain ⟨place, hp⟩ : ∃ place : Launch → Nat → Nat → Nat, ∀ l b i, l.saveAt b + ctxAt i = place l b i := ⟨_, fun _ _ _ => rfl⟩
  refine ⟨place, ?_⟩
  unfold execSlipNotice
  simp only [hp]
  rfl

/-- The saved contexts that a slip notice reaches leave those in the engine alone. -/
theorem savedNotice_ctx (d : DieId) (grp : BitVec 12) (delay : Nat) (asid : Half) (a : Nat) (y : Die) : (savedNotice d grp delay asid a y).coe.ctx = y.coe.ctx := by
  have hl := procLoad_keeps (procKeeps_ctx y.coe.ctx) d y asid a 64 rfl
  unfold savedNotice
  split
  · next h =>
    rw [h] at hl
    dsimp only
    split
    · exact procStore_keeps (procKeeps_ctx y.coe.ctx) d _ _ _ _ hl
    · exact hl
  · next h =>
    rw [h] at hl
    exact hl
theorem foldl_keeps {α β : Type} (P : Die → α) {f : Die → β → Die} (h : ∀ y b, P (f y b) = P y) (l : List β) (y : Die) : P (l.foldl f y) = P y := by
  induction l generalizing y with
  | nil => rfl
  | cons b l ih => exact (ih _).trans (h y b)
theorem savedNotices_ctx (place : Launch → Nat → Nat → Nat) (d : DieId) (grp : BitVec 12) (delay : Nat) (y : Die) : (savedNotices place d grp delay y).coe.ctx = y.coe.ctx := by
  refine foldl_keeps (fun y => y.coe.ctx) (fun y l => foldl_keeps (fun y => y.coe.ctx) (fun y b => ?_) _ y) _ y
  split
  · rfl
  · exact foldl_keeps (fun y => y.coe.ctx) (fun y i => savedNotice_ctx d grp delay l.asid (place l b.l i) y) _ y

end Sys2Proof.Proofs
end

section
/-! SUPPORT. Messages of a group (O41). -/

namespace Sys2Proof.Proofs

open Sys2Proof Sys2Proof.Machine Sys2Proof.Laws

/-! ## A wait that reaches `KBTO` (R297, R410) -/

section Timeout
variable {s : State} {d : DieId} {x : Fin 9} {r : Run} {q : KWait} (hr : s.run ⟨d, .coll, x⟩ = some r) (hq : s.kwait ⟨d, .coll, x⟩ = some q)
include hr hq

theorem timeout_off (h : (s.die d).rf d rKBTO 0 40 = 0 ∨ q.on = false) : execBarrierTimeout d x s = .next s := by
  unfold execBarrierTimeout
  rcases h with h | h <;> simp [hr, hq, h]

variable (hl : (s.die d).rf d rKBTO 0 40 ≠ 0) (hon : q.on = true) (hran : (s.die d).rf d rKBTO 0 40 ≤ q.ran + (s.tick d - q.from_).toNat) (hheld : (s.die d).runHeld ⟨d, .coll, x⟩ r = false)
include hl hon hran hheld

/-- The run at which a timed-out wait leaves its word: a `kbar` sends its arrival again. -/
def timedOut (r : Run) : Instr → Run
  | .kbar _ => { r with part := 1 }
  | _ => r
/-- The state in which it is reported, and the unit and address it reports. -/
def timeoutState (s : State) (c : Cur) (r : Run) : Instr → State
  | .kbar _ => (waitEnd s c).setRun c { r with part := 1 }
  | _ => waitEnd s c
def timeoutUnit : Instr → Nat
  | .kbar _ => 1
  | .krecv _ => 2
  | _ => 3
def timeoutAddr (r : Run) : Instr → Word
  | .ksend o => r.par o.f1
  | _ => 0

theorem timeout_ends {n : Nat} {i : Instr} {o : COp} (hi : i = .kbar o ∨ i = .krecv o ∨ i = .ksend o) (hc : r.code[r.pos]? = some (n, i)) :
    ∃ info, execBarrierTimeout d x s = .next (runFault (timeoutState s ⟨d, .coll, x⟩ r i) ⟨d, .coll, x⟩ (timedOut r i) 28 (timeoutAddr r i) (timeoutUnit i) info) := by
  have hnot : (decide ((s.die d).rf d rKBTO 0 40 = 0) || !q.on || decide (q.ran + (if q.on then (s.tick d - q.from_).toNat else 0) < (s.die d).rf d rKBTO 0 40) || (s.die d).runHeld ⟨d, .coll, x⟩ r) = false := by
    have hlt : decide (q.ran + (if q.on then (s.tick d - q.from_).toNat else 0) < (s.die d).rf d rKBTO 0 40) = false := by
      rw [hon]
      exact decide_eq_false (Nat.not_lt.2 hran)
    rw [hlt]
    simp [hl, hon, hheld]
  rcases hi with rfl | rfl | rfl <;>
    · unfold execBarrierTimeout
      simp only [hr, hq, hnot, Bool.false_eq_true, if_false, hc]
      exact ⟨_, rfl⟩
end Timeout

/-! ## At a context, and at the engine's own run -/

section Ends
variable {s : State} {d : DieId} {r : Run} {i : Instr} {info : Word}

/-- The timed-out wait of a context: its fault is held at its strand's slot, and it has slipped by the wait's length. -/
theorem ctx_timeout {x : Fin 8} {k : KCtx} {q : KWait} (hk : s.ctx d x = some k) (hw : k.wait = some q) (hs : k.slot = r.slot) (hb : (s.die d).ctxBound k = true)
    (hf : (s.slot d r.slot).heldBy 6 = false) :
    HeldFault (.next (runFault (timeoutState s (ctxCur d x) r i) (ctxCur d x) (timedOut r i) 28 (timeoutAddr r i) (timeoutUnit i) info)) d r.slot 6 28 (timeoutAddr r i) (timeoutUnit i) ∧
      ∃ k', (runFault (timeoutState s (ctxCur d x) r i) (ctxCur d x) (timedOut r i) 28 (timeoutAddr r i) (timeoutUnit i) info).ctx d x = some k' ∧ k'.wait = none ∧
        k'.ofs = k.ofs + 64 * (((s.tick d - q.since).toNat + 63) / 64) := by
  let k1 := slipped (s.tick d - q.since).toNat q.kind { k with wait := none }
  have h1 : (waitEnd s (ctxCur d x)).ctx d x = some k1 := waitEnd_ctx hk hw
  obtain ⟨z, h2, hslots⟩ : ∃ z, (timeoutState s (ctxCur d x) r i).ctx d x = some { k1 with run := z } ∧ ((timeoutState s (ctxCur d x) r i).die d).slots = (s.die d).slots := by
    unfold timeoutState
    split
    · refine ⟨_, setRun_ctx h1 _, ?_⟩
      rw [setRun_ctxCur, die_onCtx, ← waitEnd_slots hk]
    · exact ⟨k1.run, h1, waitEnd_slots hk⟩
  have hslot (j : SlotId) : (timeoutState s (ctxCur d x) r i).slot d j = s.slot d j := congrArg (vget · j) hslots
  have hrs : (timedOut r i).slot = r.slot := by
    unfold timedOut
    split <;> rfl
  have hk1s : k1.slot = k.slot := slipped_rest (·.slot) (fun _ _ _ _ => rfl) _ _ _
  have hk1o : k1.own = k.own := slipped_rest (·.own) (fun _ _ _ _ => rfl) _ _ _
  have hbound : ((timeoutState s (ctxCur d x) r i).die d).ctxBound { k1 with run := z } = true := by
    rw [← hb]
    unfold Die.ctxBound Die.ownBound
    change (((timeoutState s (ctxCur d x) r i).slot d k1.slot).ctl.own == some k1.own) = _
    rw [hslot, hk1s, hk1o]
    rfl
  have hfault := ctxRunFault (code := 28) (addr := timeoutAddr r i) (unit := timeoutUnit i) (info := info) (by decide) h2 (hk1s.trans (hs.trans hrs.symm)) hbound (by rw [hrs, hslot]; exact hf)
  rw [hrs] at hfault
  obtain ⟨h3, z', h4⟩ := hfault
  exact ⟨h3, _, h4, slipped_rest (·.wait) (fun _ _ _ _ => rfl) _ _ _, slipped_ofs _ _ _⟩

theorem heldTold_direct (y : Die) (f : FaultAt) : ∃ z, y.heldTold ⟨d, .coll, 8⟩ f = { y with coe := { y.coe with run := z } } := by
  unfold Die.heldTold
  split
  · split
    · split
      · exact ⟨_, rfl⟩
      · exact ⟨y.coe.run, rfl⟩
    · exact ⟨y.coe.run, rfl⟩
  · exact ⟨y.coe.run, rfl⟩
/-- The timed-out wait of the engine's own run. -/
theorem direct_timeout {q : KWait} (hq : s.kwait ⟨d, .coll, 8⟩ = some q) (hb : ∀ o, (s.die d).coe.own = some o → (s.slot d r.slot).ctl.own = some o) (hf : (s.slot d r.slot).heldBy 6 = false) :
    HeldFault (.next (runFault (timeoutState s ⟨d, .coll, 8⟩ r i) ⟨d, .coll, 8⟩ (timedOut r i) 28 (timeoutAddr r i) (timeoutUnit i) info)) d r.slot 6 28 (timeoutAddr r i) (timeoutUnit i) ∧
      (runFault (timeoutState s ⟨d, .coll, 8⟩ r i) ⟨d, .coll, 8⟩ (timedOut r i) 28 (timeoutAddr r i) (timeoutUnit i) info).kwait ⟨d, .coll, 8⟩ = none := by
  have h1 : waitEnd s ⟨d, .coll, 8⟩ = s.modCoe d fun q => { q with wait := none } := by
    unfold waitEnd
    rw [hq]
    rfl
  obtain ⟨z, h2⟩ : ∃ z, (timeoutState s ⟨d, .coll, 8⟩ r i).die d = { s.die d with coe := { (s.die d).coe with wait := none, run := z } } := by
    unfold timeoutState
    rw [h1]
    unfold State.modCoe
    split
    · refine ⟨some { r with part := 1 }, (setRun_coll _ d _).trans ?_⟩
      rw [State.die_modDie_same]
    · exact ⟨(s.die d).coe.run, State.die_modDie_same _ _ _⟩
  generalize timeoutState s ⟨d, .coll, 8⟩ r i = u at h2 ⊢
  have hslot (j : SlotId) : u.slot d j = s.slot d j := by
    rw [State.slot, h2]
    rfl
  have hrs : (timedOut r i).slot = r.slot := by
    unfold timedOut
    split <;> rfl
  obtain ⟨f, hfc, hfa, hfu, he⟩ : ∃ f : FaultAt, f.code = 28 ∧ f.addr = timeoutAddr r i ∧ f.unit = timeoutUnit i ∧
      runFault u ⟨d, .coll, 8⟩ (timedOut r i) 28 (timeoutAddr r i) (timeoutUnit i) info = agentFault u ⟨d, .coll, 8⟩ (timedOut r i) f := ⟨_, rfl, rfl, rfl, rfl⟩
  rw [he, ← hfc, ← hfa, ← hfu, ← hrs]
  refine ⟨agentFault_holds nofun (by rw [hrs, hslot]; exact hf) fun _ o ho => ?_, ?_⟩
  · rw [hrs, hslot]
    refine hb o ?_
    rw [← ho, h2]
  · obtain ⟨w, hw⟩ := heldTold_direct (d := d) (u.die d) f
    let v := u.modDie d fun y => y.heldTold ⟨d, .coll, 8⟩ f
    have hv : (v.die d).coe.wait = none := by
      rw [show v.die d = _ from State.die_modDie_same _ _ _, hw, h2]
    have hc : (v.die d).ctxOf ⟨d, .coll, 8⟩ = none := rfl
    have hfo : FltOnly (v.die d) ((agentFault u ⟨d, .coll, 8⟩ (timedOut r i) f).die d) := by
      unfold agentFault
      change FltOnly (v.die d) (State.die (match (v.die d).ctxOf ⟨d, .coll, 8⟩, (v.die d).dirOwn ⟨d, .coll, 8⟩ with
        | some k, _ => ctxFault v d k f
        | none, some o => ownFault v d o (timedOut r i).slot f
        | none, none => takeFault v d (timedOut r i).slot 6 f) d)
      rw [hc]
      cases (v.die d).dirOwn ⟨d, .coll, 8⟩ with
      | none => exact takeFault_fltOnly v d _ f (by decide)
      | some o => exact ownFault_fltOnly v d _ f o
    change ((agentFault u ⟨d, .coll, 8⟩ (timedOut r i) f).die d).coe.wait = none
    rw [hfo.rest]
    exact hv
end Ends

theorem savedNotices_state (u : State) (place : Launch → Nat → Nat → Nat) (d : DieId) (grp : BitVec 12) (delay : Nat) (x : Fin 8) :
    (u.modDie d (savedNotices place d grp delay)).ctx d x = u.ctx d x := by
  rw [State.ctx, State.coe, State.die_modDie_same, savedNotices_ctx]
  rfl

/-! ## Frame queries (R292) -/

theorem entered_iff (c : Coll) (grp : BitVec 12) (n : Nat) :
    c.entered grp n = true ↔ ∃ x k, vget c.ctx x = some k ∧ k.grp = grp ∧ k.nr ≠ 0 ∧ k.stopped = false ∧ (n < k.frame ∨ n = k.frame ∧ k.inFrame = true) := by
  unfold Coll.entered
  rw [List.any_eq_true]
  constructor
  · rintro ⟨z, hz, hk⟩
    cases z with
    | none => cases hk
    | some k =>
      obtain ⟨i, hi, hx⟩ := List.getElem_of_mem hz
      rw [Vector.length_toList] at hi
      refine ⟨⟨i, hi⟩, k, hx, ?_⟩
      simp only [Option.any_some, KCtx.runs, KCtx.up, Bool.and_eq_true, bne_iff_ne, ne_eq, Bool.not_eq_true', beq_iff_eq, Bool.or_eq_true, decide_eq_true_eq] at hk
      obtain ⟨⟨⟨h1, h2⟩, h3⟩, h4⟩ := hk
      exact ⟨h3, h1, h2, h4⟩
  · rintro ⟨x, k, hx, h3, h1, h2, h4⟩
    refine ⟨some k, ?_, ?_⟩
    · rw [← hx]
      exact List.getElem_mem _
    · simp only [Option.any_some, KCtx.runs, KCtx.up, Bool.and_eq_true, bne_iff_ne, ne_eq, Bool.not_eq_true', beq_iff_eq, Bool.or_eq_true, decide_eq_true_eq]
      exact ⟨⟨⟨h1, h2⟩, h3⟩, h4⟩

/-! ## The event -/

/-- What a timed-out wait comes to: a fault of code 28 held with the slot, no wait, and a slip of the wait's length. -/
def TimeoutEnds (s : State) (d : DieId) (x : Fin 9) (r : Run) (q : KWait) (addr : Word) (unit : Nat) : Prop :=
  HeldFault (exec (.barrierTimeout d x) s) d r.slot 6 28 addr unit ∧ ∃ t, exec (.barrierTimeout d x) s = .next t ∧ t.kwait ⟨d, .coll, x⟩ = none ∧
    ∀ k, (s.die d).ctxOf ⟨d, .coll, x⟩ = some k → ∃ k', (t.die d).ctxOf ⟨d, .coll, x⟩ = some k' ∧ k'.ofs = k.ofs + 64 * (((s.tick d - q.since).toNat + 63) / 64)

section Event
variable {s : State} {d : DieId} {r : Run} {q : KWait} {n : Nat} {o : COp} {i : Instr} (hi : i = .kbar o ∨ i = .krecv o ∨ i = .ksend o) (hc : r.code[r.pos]? = some (n, i))
  (hl : (s.die d).rf d rKBTO 0 40 ≠ 0) (hon : q.on = true) (hran : (s.die d).rf d rKBTO 0 40 ≤ q.ran + (s.tick d - q.from_).toNat) (hf : (s.slot d r.slot).heldBy 6 = false)
include hi hc hl hon hran hf

theorem timeout_atContext {z : Fin 8} (hr : s.run (ctxCur d z) = some r) (hq : s.kwait (ctxCur d z) = some q)
    (hslot : ∀ k, (s.die d).ctxOf (ctxCur d z) = some k → k.slot = r.slot ∧ (s.die d).ctxBound k = true) : TimeoutEnds s d (ctxCur d z).ctx r q (timeoutAddr r i) (timeoutUnit i) := by
  have hr' : (s.ctx d z).bind (·.run) = some r := (run_ctxCur s d z).symm.trans hr
  have hq' : (s.ctx d z).bind (·.wait) = some q := (kwait_ctxCur s d z).symm.trans hq
  obtain ⟨k, hk, -⟩ := Option.bind_eq_some_iff.1 hr'
  rw [hk] at hq'
  have hof : (s.die d).ctxOf (ctxCur d z) = some k := (ctxOf_ctxCur (s.die d)).trans hk
  obtain ⟨hs, hb⟩ := hslot k hof
  have hheld : (s.die d).runHeld (ctxCur d z) r = false := by
    have hb' : (s.die d).ownBound k.own r.slot = true := hs ▸ hb
    unfold Die.runHeld
    simp only [hof, Die.ctxHeld, Die.ownHeld, hs, hb', if_true]
    exact hf
  obtain ⟨info, he⟩ := timeout_ends hr hq hl hon hran hheld hi hc
  have he := (exec_barrierTimeout d _ s).trans he
  obtain ⟨h1, k', h2, h3, h4⟩ := ctx_timeout (i := i) (info := info) hk hq' hs hb hf
  refine ⟨he ▸ h1, _, he, (kwait_ctxCur _ _ _).trans ((congrArg (fun k : Option KCtx => k.bind (·.wait)) h2).trans h3), fun k2 hk2 => ⟨k', (ctxOf_ctxCur _).trans h2, ?_⟩⟩
  obtain rfl : k = k2 := Option.some.inj (hof.symm.trans hk2)
  exact h4
theorem timeout_direct (hr : s.run ⟨d, .coll, 8⟩ = some r) (hq : s.kwait ⟨d, .coll, 8⟩ = some q) (hdir : (s.die d).runBound ⟨d, .coll, 8⟩ r = true) :
    TimeoutEnds s d 8 r q (timeoutAddr r i) (timeoutUnit i) := by
  have hown : (s.die d).dirOwn ⟨d, .coll, 8⟩ = (s.die d).coe.own := rfl
  have hb : ∀ w, (s.die d).coe.own = some w → (s.slot d r.slot).ctl.own = some w := by
    intro w hw
    unfold Die.runBound at hdir
    rw [hown, hw] at hdir
    exact eq_of_beq hdir
  have hheld : (s.die d).runHeld ⟨d, .coll, 8⟩ r = false := by
    unfold Die.runHeld
    rw [show (s.die d).ctxOf ⟨d, .coll, 8⟩ = none from rfl, hown]
    cases hw : (s.die d).coe.own with
    | none => exact hf
    | some w =>
      have hbw : (s.die d).ownBound w r.slot = true := beq_iff_eq.2 (hb w hw)
      simp only [Die.ownHeld, hbw, if_true]
      exact hf
  obtain ⟨info, he⟩ := timeout_ends hr hq hl hon hran hheld hi hc
  have he := (exec_barrierTimeout d _ s).trans he
  obtain ⟨h1, h2⟩ := direct_timeout (i := i) (info := info) hq hb hf
  exact ⟨he ▸ h1, _, he, h2, fun k hk => nomatch hk⟩
end Event

/-- Settles O41: slips, queries and grants, barrier messages, and the wait that runs out at a context or at the engine's own run. -/
theorem groupMessages : Obligations.GroupMessages := by
  unfold Obligations.GroupMessages
  refine ⟨fun s d grp delay => ?_, fun s d grp n id pkg src hm => ⟨fun h => ?_, fun h => ?_⟩, fun s d id => ?_, fun s d grp m gen g hg => ?_,
    fun s d x r q n o hr hq hslot hdir => ?_⟩
  · obtain ⟨place, h⟩ := slipNotice_eq s d grp delay
    refine ⟨_, (exec_slipNotice d grp delay s).trans h, fun x k hk => ?_⟩
    rw [savedNotices_state, noticeAll_ctx _ _ _ _ (List.nodup_finRange 8), if_pos (List.mem_finRange x), hk]
    rfl
  · obtain ⟨x, k, hk⟩ := h
    have he : (s.coe d).entered grp n = true := (entered_iff _ _ _).2 ⟨x, k, hk⟩
    refine ⟨_, (exec_frameQuery d grp n id pkg src s).trans (if_pos he), sendNft_outR hm rfl, sendNft_coe Coll.queries (fun _ _ _ _ => rfl) _ _ _⟩
  · have he : ¬ (s.coe d).entered grp n = true := by
      rw [entered_iff]
      rintro ⟨x, k, hk, h1, h2, h3, h4⟩
      rcases h x k hk h1 with h | h | h | h
      · exact absurd h (by rw [h3]; exact Bool.false_ne_true)
      · exact h2 h
      · omega
      · rcases h4 with h4 | h4
        · omega
        · exact absurd h4.2 (by rw [h.2]; exact Bool.false_ne_true)
    refine ⟨_, (exec_frameQuery d grp n id pkg src s).trans (if_neg he), ?_, ?_⟩ <;> rw [State.modCoe, State.die_modDie_same]
  · refine ⟨_, exec_frameGrant d id s, ?_, sameMem_modDie _ _ _ rfl⟩
    rw [State.modCoe, State.die_modDie_same]
    dsimp only
    split
    · next h => exact List.contains_iff_mem.1 h
    · exact List.mem_append_right _ (List.mem_singleton_self _)
  · intro b
    refine ⟨fun h1 h2 hb => ⟨⟨_, exec_barrierArrival d grp m gen s, ?_⟩, ⟨_, exec_barrierAbsence d grp m s, barrierMsg_bar hg _ h1 h2 hb⟩, ⟨_, exec_barrierPresence d grp m s, barrierMsg_bar hg _ h1 h2 hb⟩⟩,
      fun h => ⟨?_, ?_, ?_⟩⟩
    · rw [barrierMsg_bar hg _ h1 h2 (by split <;> exact hb)]
      unfold hasGen
      cases (b.gen - gen).msb <;> rfl
    · exact (exec_barrierArrival d grp m gen s).trans (congrArg Host.Outcome.next (barrierMsg_outside hg _ h))
    · exact (exec_barrierAbsence d grp m s).trans (congrArg Host.Outcome.next (barrierMsg_outside hg _ h))
    · exact (exec_barrierPresence d grp m s).trans (congrArg Host.Outcome.next (barrierMsg_outside hg _ h))
  · intro lim
    refine ⟨fun hl hon hran hf => ?_, fun h => (exec_barrierTimeout d x s).trans (timeout_off hr hq h)⟩
    intro ends
    have all {i : Instr} (hi : i = .kbar o ∨ i = .krecv o ∨ i = .ksend o) (hc : r.code[r.pos]? = some (n, i)) : ends (timeoutAddr r i) (timeoutUnit i) := by
      by_cases hx : x.val < 8
      · obtain ⟨z, rfl⟩ : ∃ z : Fin 8, x = (ctxCur d z).ctx := ⟨⟨x.val, hx⟩, rfl⟩
        exact timeout_atContext hi hc hl hon hran hf hr hq hslot
      · obtain rfl : x = 8 := Fin.ext (by omega)
        exact timeout_direct hi hc hl hon hran hf hr hq (hdir rfl)
    exact ⟨all (.inl rfl), all (.inr (.inl rfl)), all (.inr (.inr rfl))⟩

end Sys2Proof.Proofs
end

section
/-! SUPPORT. Frames and steps (O40). -/

namespace Sys2Proof.Proofs

open Sys2Proof Sys2Proof.Machine Sys2Proof.Laws

/-! ## A frame entry takes a context (R285) -/

theorem find?_finRange {n : Nat} {p : Fin n → Bool} {x : Fin n} (hx : p x = true) (hlt : ∀ i < x, p i = false) : (List.finRange n).find? p = some x := by
  refine List.find?_eq_some_iff_getElem.2 ⟨hx, x.val, by simp, by simp, fun j hj => ?_⟩
  simpa using hlt ⟨j, Nat.lt_trans hj x.isLt⟩ hj

section Out
variable {s : State} {d : DieId} {r : Run} {x : Fin 8} {w : Owner}

theorem entryStart_frame (hr : (s.die d).coe.run = some r) (hp : r.part ≠ unchecked) (hf : frameCode r.code = true) (hx : vget (s.die d).coe.ctx x = none)
    (hlt : ∀ i < x, vget (s.die d).coe.ctx i ≠ none) (hw : (s.die d).coe.own = some w ∨ (s.die d).coe.own = none ∧ (s.ctl d r.slot).own = some w) :
    execEntryStart d .coll s = .next (s.modDie d fun y => { y with coe := { y.coe with run := none, ctx := vset y.coe.ctx x (some (KCtx.opening r w)) } }) := by
  have hp' : (r.part == unchecked) = false := beq_false_of_ne hp
  have hrun : s.run ⟨d, .coll, 8⟩ = some r := hr
  have hfind : ((List.finRange 8).find? fun x => (vget (s.die d).coe.ctx x).isNone) = some x :=
    find?_finRange (Option.isNone_iff_eq_none.2 hx) fun i hi => Option.isNone_eq_false_iff.2 (Option.isSome_iff_ne_none.2 (hlt i hi))
  have hown : ((s.die d).coe.own <|> (s.ctl d r.slot).own) = some w := by
    rcases hw with h | ⟨h1, h2⟩
    · rw [h]
      rfl
    · rw [h1, h2]
      rfl
  unfold execEntryStart entryStart
  simp only [hrun, hp', Bool.false_and, Bool.false_eq_true, if_false, frameOut, hr, hf, Bool.not_true, Bool.or_self, hfind, hown]
end Out

/-! ## `kframe` sets its context up (R288) -/

section Kframe
variable {s : State} {d : DieId} {x : Fin 8} {k0 : KCtx} {r : Run} {o : COp} {y z v : Die} {bs : List Byte} {f : FDesc} {t : TTab}

theorem notRunning {grp : BitVec 12} (h : ∀ i k, vget v.coe.ctx i = some k → k.grp = grp → k.stopped = true ∨ k.nr = 0) : (v.coe.ctx.toList.any fun x => x.any (·.runs grp)) = false := by
  rw [List.any_eq_false]
  intro c hc
  cases c with
  | none => exact Bool.false_ne_true
  | some k =>
    obtain ⟨i, hi, hx⟩ := List.getElem_of_mem hc
    rw [Vector.length_toList] at hi
    intro hr
    simp only [Option.any_some, KCtx.runs, KCtx.up, Bool.and_eq_true, bne_iff_ne, ne_eq, Bool.not_eq_true', beq_iff_eq] at hr
    obtain ⟨⟨h1, h2⟩, h3⟩ := hr
    rcases h ⟨i, hi⟩ k hx h3 with h | h
    · exact Bool.noConfusion (h.symm.trans h2)
    · exact h1 h

theorem kframe_sets (ha : (r.par o.f1).toNat % 64 = 0) (hb : coeRead s (ctxCur d x) ((s.die d).whoRun (ctxCur d x) r) (r.par o.f1).toNat 64 = .ok y bs) (hf : parseDesc bs = some f)
    (hw : y.whoRun (ctxCur d x) r = (s.die d).whoRun (ctxCur d x) r) (hg : ∃ g, y.group d f.grp.toNat = some g ∧ g.kind < 3)
    (ht : readTable (s.modDie d fun _ => y) (ctxCur d x) ((s.die d).whoRun (ctxCur d x) r) f.tt = .ok z t)
    (hc : chainCheck (s.modDie d fun _ => y) (ctxCur d x) ((s.die d).whoRun (ctxCur d x) r) 65536 [f.tt] t.next z = .ok v ()) (h0 : f.t0 % 2 ^ t.flog2 = 0)
    (hn : ∀ i k, vget v.coe.ctx i = some k → k.grp = f.grp → k.stopped = true ∨ k.nr = 0) (hv : vget v.coe.ctx x = some k0) :
    ∃ u, kframeStep s (ctxCur d x) r o = u ∧ u.ctx d x = some (kframeCtx r k0.own f t) := by
  obtain ⟨g, hg, hk⟩ := hg
  have hkind : (y.group d f.grp.toNat).any (fun g => decide (g.kind < 3)) = true := by
    rw [hg]
    exact decide_eq_true hk
  have hctx : ((s.modDie d fun _ => y).modDie d fun _ => v).ctx d x = some k0 := by
    rw [State.ctx, State.coe, State.die_modDie_same]
    exact hv
  refine ⟨_, ?_, ctx_setCtx ((s.modDie d fun _ => y).modDie d fun _ => v) d x (kframeCtx r k0.own f t)⟩
  unfold kframeStep
  simp only [show (ctxCur d x).die = d from rfl, ha, bne_self_eq_false, Bool.false_eq_true, if_false, hb, hf, State.die_modDie_same, hkind, Bool.not_true, hw, ht, hc, h0, State.coe, notRunning hn,
    Bool.or_self, ctxCur_ctx, hctx]
end Kframe

/-! ## A context that may go on (R289, R298) -/

section Live
variable {s : State} {d : DieId} {x : Fin 8} {k : KCtx} (hk : s.ctx d x = some k)
include hk

theorem liveCtx_asked (hr : k.run = none) (ha : (s.die d).ctxAsked k = true) : s.liveCtx d x = none := by
  unfold State.liveCtx
  rw [hk]
  simp [hr, ha]
omit hk in
theorem filter_some_cases {α : Type} (p : α → Bool) (a : α) : (some a).filter p = none ∨ (some a).filter p = some a := by
  cases h : p a <;> simp [h]
theorem liveCtx_cases : s.liveCtx d x = none ∨ s.liveCtx d x = some k := by
  unfold State.liveCtx
  rw [hk]
  exact filter_some_cases _ k

variable (hn : k.nr ≠ 0) (hs : k.stopped = false) (hh : (s.die d).ctxHeld k = false)
include hn hs hh

theorem liveCtx_idle (hr : k.run = none) (ha : (s.die d).ctxAsked k = false) : s.liveCtx d x = some k := by
  unfold State.liveCtx
  rw [hk, Option.filter]
  exact if_pos (by simp [KCtx.up, hn, hs, hh, hr, ha])
theorem liveCtx_run {r : Run} (hr : k.run = some r) (href : (s.ag d .coll).refused = []) : s.liveCtx d x = some k := by
  have href : ((s.die d).ag .coll).refused = [] := href
  have hno : (s.die d).entryRefused (ctxCur d x) r = false := by
    unfold Die.entryRefused
    rw [show (ctxCur d x).ag = .coll from rfl, href]
    rfl
  have hno : (s.die d).entryRefused ⟨d, .coll, ⟨x.val, by omega⟩⟩ r = false := hno
  unfold State.liveCtx
  rw [hk, Option.filter]
  exact if_pos (by simp only [hr, hno, KCtx.up, hs, hh]; simp [hn])
end Live

/-! ## Frames entered (R289, R292) -/

section Enter
variable {s : State} {d : DieId} {x : Fin 8} {k : KCtx}

theorem frameEntry_early (hk : s.ctx d x = some k) (h : (s.tick d).toNat < k.base + k.ofs) : execFrameEntry d x s = .next s := by
  unfold execFrameEntry
  rcases liveCtx_cases hk with h' | h' <;> simp [h', h]
theorem frameEntry_enters (hl : s.liveCtx d x = some k) (h : k.base + k.ofs ≤ (s.tick d).toNat) (hi : k.inFrame = false) (hst : k.steps ≠ []) : execFrameEntry d x s = .next (enterFrame s d x k) := by
  unfold execFrameEntry
  simp [hl, hi, Nat.not_lt.2 h, hst]

theorem grantAll_keeps {α : Type} (P : Coll → α) (hP : ∀ c o r st, P { c with out := o, outR := r, streams := st } = P c) (d : DieId) (l : List Query) (s : State) :
    P ((l.foldl (fun s q => sendNft s d (.grant q.pkg q.src q.id)) s).die d).coe = P (s.die d).coe := by
  induction l generalizing s with
  | nil => rfl
  | cons q l ih => exact (ih _).trans (sendNft_coe P hP _ _ _)
theorem sendNft_muted (s : State) (d : DieId) (m : NftOut) : (sendNft s d m).muted d = s.muted d := by
  have h : ((sendNft s d m).die d).paired d = (s.die d).paired d := by
    rw [sendNft]
    split
    · rfl
    · rw [State.die_modDie_same]
      rfl
  unfold State.muted
  rw [h]
theorem grantAll_outR (d : DieId) (l : List Query) (s : State) (hm : s.muted d = false) :
    ((l.foldl (fun s q => sendNft s d (.grant q.pkg q.src q.id)) s).die d).coe.outR = (s.die d).coe.outR ++ l.map fun q => .grant q.pkg q.src q.id := by
  induction l generalizing s with
  | nil => simp
  | cons q l ih =>
    rw [List.foldl_cons, ih _ ((sendNft_muted _ _ _).trans hm), sendNft_outR hm rfl, List.append_assoc, List.map_cons, List.singleton_append]

/-- Held queries that a context has entered are answered. -/
theorem answerQueries_coe (s : State) (d : DieId) (hm : s.muted d = false) :
    ((answerQueries s d).die d).coe.ctx = (s.die d).coe.ctx ∧ ((answerQueries s d).die d).coe.queries = (s.die d).coe.queries.filter (fun q => !(s.die d).coe.entered q.grp q.n) ∧
      ((answerQueries s d).die d).coe.outR = (s.die d).coe.outR ++ (((s.die d).coe.queries.filter fun q => (s.die d).coe.entered q.grp q.n).map fun q => .grant q.pkg q.src q.id) := by
  let u := s.modCoe d fun c => { c with queries := c.queries.filter fun q => !(s.coe d).entered q.grp q.n }
  have hu : (u.die d).coe = { (s.die d).coe with queries := (s.die d).coe.queries.filter fun q => !(s.coe d).entered q.grp q.n } := by
    unfold u State.modCoe
    rw [State.die_modDie_same]
  have hmu : u.muted d = false := by
    unfold State.muted u State.modCoe at *
    rw [State.die_modDie_same]
    exact hm
  have he : answerQueries s d = ((s.coe d).queries.filter fun q => (s.coe d).entered q.grp q.n).foldl (fun s q => sendNft s d (.grant q.pkg q.src q.id)) u := rfl
  rw [he]
  refine ⟨?_, ?_, ?_⟩
  · rw [grantAll_keeps Coll.ctx (fun _ _ _ _ => rfl), hu]
  · rw [grantAll_keeps Coll.queries (fun _ _ _ _ => rfl), hu]
    rfl
  · rw [grantAll_outR _ _ _ hmu, hu]
    rfl

theorem setCtx_muted (s : State) (d : DieId) (x : Fin 8) (k : KCtx) : (s.setCtx d x k).muted d = s.muted d := by
  unfold State.muted State.setCtx State.modCoe
  rw [State.die_modDie_same]
  rfl
theorem entered_congr {a b : Coll} (h : a.ctx = b.ctx) (grp : BitVec 12) (n : Nat) : a.entered grp n = b.entered grp n := by
  unfold Coll.entered
  rw [h]
/-- A frame entered: its context, the queries it answers and the grants it sends. -/
theorem enterFrame_answers (hm : s.muted d = false) (hn : k.nr ≠ 0) (hs : k.stopped = false) :
    (enterFrame s d x k).ctx d x = some { k with inFrame := true, step := 0, cnts := .replicate 64 0 } ∧ ((enterFrame s d x k).die d).coe.entered k.grp k.frame = true ∧
      ((enterFrame s d x k).die d).coe.queries = (s.die d).coe.queries.filter (fun q => !((enterFrame s d x k).die d).coe.entered q.grp q.n) ∧
      ((enterFrame s d x k).die d).coe.outR = (s.die d).coe.outR ++ (((s.die d).coe.queries.filter fun q => ((enterFrame s d x k).die d).coe.entered q.grp q.n).map fun q => .grant q.pkg q.src q.id) := by
  let k' : KCtx := { k with inFrame := true, step := 0, cnts := .replicate 64 0 }
  obtain ⟨h1, h2, h3⟩ := answerQueries_coe (s.setCtx d x k') d ((setCtx_muted _ _ _ _).trans hm)
  have he (grp : BitVec 12) (n : Nat) : ((enterFrame s d x k).die d).coe.entered grp n = ((s.setCtx d x k').die d).coe.entered grp n := entered_congr h1 grp n
  have hx : (enterFrame s d x k).ctx d x = some k' := (congrArg (vget · x) h1).trans (ctx_setCtx s d x k')
  refine ⟨hx, (entered_iff _ _ _).2 ⟨x, k', hx, rfl, hn, hs, .inr ⟨rfl, rfl⟩⟩, ?_, ?_⟩
  · simp only [he]
    refine h2.trans ?_
    rw [setCtx_coe _ _ _ _ Coll.queries fun _ _ _ _ => rfl]
  · simp only [he]
    refine h3.trans ?_
    rw [setCtx_coe _ _ _ _ Coll.queries fun _ _ _ _ => rfl, setCtx_coe _ _ _ _ Coll.outR fun _ _ _ _ => rfl]
end Enter

/-! ## Steps (R289, R290) -/

section Step
variable {s : State} {d : DieId} {x : Fin 8} {k : KCtx} {st : KStep}

theorem stepStart_early (hl : s.liveCtx d x = some k) (hst : k.steps[k.step]? = some st) (hr : k.run = none) (h : (s.tick d).toNat < k.base + st.trel + k.ofs) : execStepStart d x s = .next s := by
  unfold execStepStart
  simp [hl, hr, hst, h]
/-- The run with which a step of a context starts. -/
def stepRun (k : KCtx) (st : KStep) (t : Word) : Run := { Run.fresh k.ent k.slot t with blk := st.blk }
/-- A step starts from the state its slip has left. -/
theorem stepStart_goes {u : State} {k' : KCtx} (hl : s.liveCtx d x = some k) (hst : k.steps[k.step]? = some st) (hr : k.run = none) (hi : k.inFrame = true)
    (h : k.base + st.trel + k.ofs ≤ (s.tick d).toNat) (hu : slipBy s d x ((s.tick d).toNat - (k.base + st.trel + k.ofs)) (if k.resumed then 3 else 0) = u) (hk' : u.ctx d x = some k') :
    execStepStart d x s =
      .next (tryBlock (u.setCtx d x { k' with run := some (stepRun k' st (u.tick d)), released := false, resumed := false }) (ctxCur d x) (stepRun k' st (u.tick d))) := by
  have hno : (!k.inFrame || decide ((s.tick d).toNat < k.base + st.trel + k.ofs)) = false := by simp [hi, h]
  unfold execStepStart
  simp only [hl, hr, hst, hno, Bool.false_eq_true, if_false, hu, hk']
  rfl
theorem slipBy_zero (cause : Nat) : slipBy s d x 0 cause = s := by
  unfold slipBy
  split <;> rfl

/-- A step that ends, with nothing to hand over: the context afterwards, or the end of its frame. -/
theorem stepComplete_goes {r : Run} (hl : s.liveCtx d x = some k) (hk : s.ctx d x = some k) (hst : k.steps[k.step]? = some st) (hr : k.run = some r) (hp : r.part ≠ unchecked) (hpos : r.code.length ≤ r.pos)
    (hsb : (s.ag d .coll).sb = []) (hrel : (∃ n o, (n, Instr.krel o) ∈ r.code) ∨ st.ntask = 0) :
    execStepComplete d x s = .next (if k.step + 1 < k.steps.length then s.setCtx d x { k with run := none, step := k.step + 1, flags := k.flags ||| r.flags }
      else frameEnd s d x { k with run := none, step := k.step + 1, flags := k.flags ||| r.flags }) := by
  have hp' : (r.part == unchecked) = false := beq_false_of_ne hp
  have hdone : (r.code.any (fun w => isRel w.2) || decide (st.ntask = 0)) = true := by
    rcases hrel with ⟨n, o, h⟩ | h
    · rw [List.any_eq_true.2 ⟨(n, .krel o), h, rfl⟩]
      rfl
    · simp [h]
  unfold execStepComplete
  simp only [hl, hr, hst, hp', decide_eq_false (Nat.not_lt.2 hpos), hsb, List.isEmpty_nil, Bool.not_true, Bool.or_self, Bool.false_eq_true, if_false, hdone, if_true, hk]
end Step

/-! ## The end of a frame (R288, R289) -/

section End
variable {s : State} {d : DieId} {x : Fin 8} {k : KCtx}

/-- A context between two frames of its entry. -/
def nextFrame (k : KCtx) : KCtx :=
  { k with inFrame := false, step := 0, steps := [], tt := if k.next = 0 then k.tt0 else k.next, round := if k.next = 0 then k.round + 1 else k.round
           base := k.base + 2 ^ k.flog2, frame := k.frame + 1 }
theorem frameEnd_next (h : k.next ≠ 0 ∨ k.round + 1 < k.nr) : frameEnd s d x k = s.setCtx d x (nextFrame k) := by
  have hno : (decide (k.next = 0) && decide (k.nr ≤ k.round + 1)) = false := by
    rcases h with h | h
    · simp [h]
    · simp [Nat.not_le.2 h]
  unfold frameEnd
  simp only [hno, Bool.false_eq_true, if_false, decide_eq_true_eq]
  rfl
theorem frameEnd_ctx (h : k.next ≠ 0 ∨ k.round + 1 < k.nr) : (frameEnd s d x k).ctx d x = some (nextFrame k) := by
  rw [frameEnd_next h]
  exact ctx_setCtx _ _ _ _
theorem frameEnd_over (h : k.next = 0) (hr : k.nr ≤ k.round + 1) (hb : (s.die d).ctxBound k = true) :
    (frameEnd s d x k).ctx d x = none ∧ SameMem s (frameEnd s d x k) ∧ vget ((frameEnd s d x k).slot d k.slot).q 5 = (vget (s.slot d k.slot).q 5).drop 1 ∧
      vget ((frameEnd s d x k).slot d k.slot).cseq 5 = vget (s.slot d k.slot).cseq 5 + 1 := by
  let u := s.modCoe d fun c => { c with ctx := vset c.ctx x none, kstat := vset c.kstat k.slot ({ k with inFrame := false, frame := k.frame + 1 }.stat false) }
  have he : frameEnd s d x k = completeEntry u d k.slot 5 6 k.ent k.flags := by
    unfold frameEnd
    simp only [h, decide_true, decide_eq_true hr, Bool.and_self, if_true, hb, Bool.not_true, Bool.false_eq_true, if_false]
    rfl
  have hslot (j : SlotId) : u.slot d j = s.slot d j := by
    unfold u State.modCoe
    rw [State.slot, State.die_modDie_same]
    rfl
  have hx : (u.die d).coe.ctx = vset (s.die d).coe.ctx x none := by
    unfold u State.modCoe
    rw [State.die_modDie_same]
  let v := finishState u d k.slot 5 k.ent k.flags
  have hvx : v.ctx d x = none := by
    have hv := congrArg Die.coe (finishState_rest u d k.slot 5 k.ent k.flags)
    rw [State.ctx, State.coe, show (v.die d).coe = (u.die d).coe from hv, hx]
    exact vget_vset_same _ _ _
  have hvm : SameMem s v := SameMem.trans (sameMem_modDie s d _ rfl) (SameMem.trans (sameMem_modDie _ _ _ rfl) (sameMem_modDie _ _ _ (Die.countSlot_mem _ _ _ _ _)))
  have hvq : vget (v.slot d k.slot).q 5 = (vget (s.slot d k.slot).q 5).drop 1 := by
    refine (congrArg (vget · 5) (finishState_slot Slot.q (fun _ _ => rfl) u d k.slot 5 k.ent k.flags)).trans ?_
    rw [hslot]
    exact vget_vmod_same _ _ _
  have hvc : vget (v.slot d k.slot).cseq 5 = vget (s.slot d k.slot).cseq 5 + 1 := by
    refine (congrArg (vget · 5) (finishState_slot Slot.cseq (fun _ _ => rfl) u d k.slot 5 k.ent k.flags)).trans ?_
    rw [hslot]
    exact vget_vmod_same _ _ _
  rw [he, completeEntry_eq]
  split
  · have hf := takeFault_fltOnly v d k.slot ⟨10, k.ent.hdr, 0, 0, k.ent.seq, 0, 0⟩ (a := 6) (by decide)
    refine ⟨?_, hvm.trans (takeFault_sameMem v d k.slot 6 _), ?_, ?_⟩
    · rw [State.ctx, State.coe, hf.rest]
      exact hvx
    · exact (congrArg (vget · 5) (hf.keep Slot.q (fun _ _ => rfl) k.slot)).trans hvq
    · exact (congrArg (vget · 5) (hf.keep Slot.cseq (fun _ _ => rfl) k.slot)).trans hvc
  · exact ⟨hvx, hvm, hvq, hvc⟩
end End

/-- Settles O40: a frame entry's way from its context to its last step. -/
theorem framesRunTheirTimetable : Obligations.FramesRunTheirTimetable := by
  unfold Obligations.FramesRunTheirTimetable
  refine ⟨fun s d r x w hr hp hf hx hlt hw => (exec_entryStart d .coll s).trans (entryStart_frame hr hp hf hx hlt hw), fun s d r o y z v bs f t x k0 => ?_, fun s d x k hk hr ha => ?_,
    fun s d x k hk hn hs hh ha => ?_⟩
  · intro c who hc hk hrun hal hb hf hw hg ht hch h0 hno hv
    obtain ⟨u, hu, hx⟩ := kframe_sets (o := o) hal hb hf hw hg ht hch h0 hno hv
    refine ⟨u, _, (exec_kframe o s).trans (engDo_ctx hc hk hrun hu), hx, rfl, rfl, rfl, rfl, rfl, rfl, rfl, rfl, rfl, rfl, rfl, rfl, ?_⟩
    unfold kframeCtx
    dsimp only
    split <;> rfl
  · have hl := liveCtx_asked hk hr ha
    refine ⟨(exec_frameEntry d x s).trans ?_, (exec_stepStart d x s).trans ?_⟩
    · simp only [execFrameEntry, hl]
    · simp only [execStepStart, hl]
  · intro c now
    refine ⟨fun h hi => (exec_frameEntry d x s).trans (frameEntry_early hk h), fun h hi hr hst hm => ?_, fun st hst hr hi => ?_, fun st r hst hr hp hpos hsb href hrel => ?_⟩
    · obtain ⟨h1, h2, h3, h4⟩ := enterFrame_answers (x := x) hm hn hs
      exact ⟨_, _, (exec_frameEntry d x s).trans (frameEntry_enters (liveCtx_idle hk hn hs hh hr ha) h hi hst), h1, rfl, h2, h3, h4⟩
    · intro rel r0
      have hl := liveCtx_idle hk hn hs hh hr ha
      refine ⟨fun h => (exec_stepStart d x s).trans (stepStart_early hl hst hr h), fun h => ?_, fun h => ?_⟩
      · have hz : (s.tick d).toNat - (k.base + st.trel + k.ofs) = 0 := Nat.sub_eq_zero_of_le (Nat.le_of_eq h)
        exact (exec_stepStart d x s).trans (stepStart_goes hl hst hr hi (Nat.le_of_eq h.symm) (by rw [hz]; exact slipBy_zero _) hk)
      · have hd : now - rel ≠ 0 := Nat.sub_ne_zero_of_lt h
        have hx := slipBy_ctx s d x (now - rel) (if k.resumed then 3 else 0)
        rw [hk, Option.map_some, slipped, if_neg hd] at hx
        exact ⟨_, _, (exec_stepStart d x s).trans (stepStart_goes hl hst hr hi (Nat.le_of_lt h) rfl hx), rfl, rfl, rfl, ctx_setCtx _ _ _ _⟩
    · have he := (exec_stepComplete d x s).trans (stepComplete_goes (liveCtx_run hk hn hs hh hr href) hk hst hr hp hpos hsb hrel)
      have hend (h : k.steps.length ≤ k.step + 1) := he.trans (congrArg Host.Outcome.next (if_neg (Nat.not_lt.2 h)))
      refine ⟨fun h => he.trans (congrArg Host.Outcome.next (if_pos h)), fun h hnx => ?_, fun h hnx hrd => ?_, fun h hnx hrd hb => ?_⟩
      · refine ⟨_, _, hend h, frameEnd_ctx (.inl hnx), if_neg hnx, rfl, rfl, if_neg hnx, rfl, rfl, rfl, rfl⟩
      · refine ⟨_, _, hend h, frameEnd_ctx (.inr hrd), if_pos hnx, rfl, rfl, if_pos hnx, rfl, rfl, rfl⟩
      · obtain ⟨h1, h2, h3, h4⟩ := frameEnd_over (s := s) (d := d) (x := x) (k := { k with run := none, step := k.step + 1, flags := k.flags ||| r.flags }) hnx hrd hb
        exact ⟨_, hend h, h1, h2, h3, h4⟩

end Sys2Proof.Proofs
end

section
/-! SUPPORT. Vector words (O39). -/

namespace Sys2Proof.Proofs

open Sys2Proof Sys2Proof.Machine Sys2Proof.Laws

/-! ## The bytes of a transfer -/

/-- One byte of a transfer. -/
def asmByte (x : Asm) (p : Nat) : Byte :=
  match x.got.find? fun g => g.1 ≤ p && p < g.1 + g.2.length with
  | some g => listGet 0 g.2 (p - g.1)
  | none => 0
theorem asmBytes_eq (x : Asm) (a n : Nat) : x.bytes a n = (List.range n).map fun i => asmByte x (a + i) := rfl
theorem listGet_asmBytes (x : Asm) (a : Nat) {n i : Nat} (h : i < n) : listGet 0 (x.bytes a n) i = asmByte x (a + i) := by
  rw [asmBytes_eq, listGet]
  simp [List.getD, h]

/-! ## Elements of a vector (R294) -/

/-- An element of a vector of whole bytes, in its transfer. -/
def elemAt (t : Tag) (x : Asm) (at_ j : Nat) : Val := decodeElem t (leNat (x.bytes (at_ + fwidth t / 8 * j) (fwidth t / 8)))
theorem vecLen_whole {t : Tag} (ht : fwidth t % 8 = 0) (n : Nat) : vecLen t n = n * (fwidth t / 8) := by
  rw [vecLen, Nat.mul_div_assoc _ (Nat.dvd_of_mod_eq_zero ht)]

/-- What has been written lies nowhere among `n` bytes from `a`. -/
def Clear (done : List (Nat × List Byte)) (a n : Nat) : Prop := ∀ q ∈ done, q.1 + q.2.length ≤ a ∨ a + n ≤ q.1
theorem overlay_clear {done : List (Nat × List Byte)} {a n va : Nat} (h : Clear done a n) (h1 : a ≤ va) (h2 : va < a + n) (b : Byte) : overlay done va b = b := by
  unfold overlay
  induction done generalizing b with
  | nil => rfl
  | cons q l ih =>
    have hq : ¬ (q.1 ≤ va ∧ va < q.1 + q.2.length) := by
      have := h q (List.mem_cons_self ..)
      omega
    rw [List.foldl_cons, if_neg (by simpa using hq)]
    exact ih (fun p hp => h p (List.mem_cons_of_mem _ hp)) b
/-- An element is read from its transfer where nothing written before covers it. -/
theorem vecElem_clear {t : Tag} (ht : fwidth t % 8 = 0) (hs : fscaled t = false) {n v e0 cnt j at_ : Nat} {done : List (Nat × List Byte)} {x : Asm} {sb : List Byte} (hj : j < cnt)
    (hd : Clear done (v + vecLen t e0 + fwidth t / 8 * j) (fwidth t / 8)) : vecElem t n v done e0 (x.bytes at_ (vecLen t cnt)) sb (e0 + j) = elemAt t x at_ j := by
  have hw : 8 * (fwidth t / 8) = fwidth t := by omega
  have hbit : fwidth t * (e0 + j) % 8 = 0 := Nat.mod_eq_zero_of_dvd (Dvd.dvd.mul_right (Nat.dvd_of_mod_eq_zero ht) _)
  have hbyte : v + fwidth t * (e0 + j) / 8 = v + vecLen t e0 + fwidth t / 8 * j := by
    rw [vecLen_whole ht, Nat.mul_comm (fwidth t), Nat.mul_div_assoc _ (Nat.dvd_of_mod_eq_zero ht), Nat.add_mul, Nat.mul_comm j]
    omega
  have hsrc : srcBytes done (v + vecLen t e0) (x.bytes at_ (vecLen t cnt)) (v + vecLen t e0 + fwidth t / 8 * j) (fwidth t / 8) = x.bytes (at_ + fwidth t / 8 * j) (fwidth t / 8) := by
    rw [asmBytes_eq x (at_ + _), srcBytes]
    refine List.map_congr_left fun i hi => ?_
    have hi := List.mem_range.1 hi
    rw [overlay_clear hd (by omega) (by omega)]
    have hlt : fwidth t / 8 * j + i < vecLen t cnt := by
      rw [vecLen_whole ht]
      calc fwidth t / 8 * j + i < fwidth t / 8 * j + fwidth t / 8 := by omega
        _ = fwidth t / 8 * (j + 1) := by rw [Nat.mul_add, Nat.mul_one]
        _ ≤ fwidth t / 8 * cnt := Nat.mul_le_mul_left _ hj
        _ = cnt * (fwidth t / 8) := Nat.mul_comm _ _
    rw [show v + vecLen t e0 + fwidth t / 8 * j + i - (v + vecLen t e0) = fwidth t / 8 * j + i by omega, listGet_asmBytes x at_ hlt, Nat.add_assoc]
  have hlt : leNat (x.bytes (at_ + fwidth t / 8 * j) (fwidth t / 8)) < 2 ^ fwidth t := by
    have := leNat_lt (x.bytes (at_ + fwidth t / 8 * j) (fwidth t / 8))
    rwa [length_asmBytes, hw] at this
  unfold vecElem
  simp only [hs, Bool.false_eq_true, if_false]
  rw [hbyte, show (fwidth t + 7) / 8 = fwidth t / 8 by omega, hsrc, hbit, Nat.pow_zero, Nat.div_one, Nat.mod_eq_of_lt hlt]
  rfl

/-! ## Elements computed one after another (R295) -/

theorem length_flatMap_natLe (w : Nat) (f : Nat → Nat) (m : Nat) : ((List.range m).flatMap fun j => natLe w (f j)).length = w * m := by
  induction m with
  | zero => rfl
  | succ m ih => rw [List.range_succ, List.flatMap_append, List.length_append, ih, List.flatMap_singleton, length_natLe, Nat.mul_succ]
theorem foldl_or_init (f : Nat → Flg) (a b : Flg) (l : List Nat) : l.foldl (fun x j => x ||| f j) (a ||| b) = a ||| l.foldl (fun x j => x ||| f j) b := by
  induction l generalizing b with
  | nil => rfl
  | cons j l ih => rw [List.foldl_cons, List.foldl_cons, ← ih, BitVec.or_assoc]
theorem foldl_or_flags (f : Nat → Flg) (a : Flg) (l : List Nat) : a ||| l.foldl (fun x j => x ||| f j) 0 = l.foldl (fun x j => x ||| f j) a := by
  rw [← foldl_or_init, show a ||| 0 = a from BitVec.or_zero]

/-- Where each element is computed as if nothing had been written, the vector is its elements one by one. -/
theorem eachElem_eq {q : VecWork} {t : Tag} {f : List (Nat × List Byte) → Nat → Nat × Flg} {e : Nat → Nat × Flg}
    (h : ∀ j < q.cnt, ∀ acc : List Byte, acc.length = fwidth t / 8 * j → f [(q.da, acc)] (q.e0 + j) = e j) :
    eachElem q t f = ((List.range q.cnt).flatMap (fun j => natLe (fwidth t / 8) (e j).1), [], (List.range q.cnt).foldl (fun x j => x ||| (e j).2) 0) := by
  have part (m : Nat) (hm : m ≤ q.cnt) : (List.range m).foldl (fun (a : List Byte × Flg) j =>
      let e := f [(q.da, a.1)] (q.e0 + j)
      (a.1 ++ natLe (fwidth t / 8) e.1, a.2 ||| e.2)) ([], 0) = ((List.range m).flatMap (fun j => natLe (fwidth t / 8) (e j).1), (List.range m).foldl (fun x j => x ||| (e j).2) 0) := by
    induction m with
    | zero => rfl
    | succ m ih =>
      rw [List.range_succ, List.foldl_append, ih (by omega), List.flatMap_append, List.foldl_append]
      simp only [List.foldl_cons, List.foldl_nil, List.flatMap_singleton]
      rw [h m (by omega) _ (length_flatMap_natLe _ _ _)]
  unfold eachElem
  rw [part q.cnt (Nat.le_refl _)]

/-! ## Poison of a clean transfer -/

section Clean
variable {x : Asm} (hx : x.psn = false)
include hx

theorem badIn_clean (a n : Nat) : x.badIn a n = false := by simp [Asm.badIn, hx]
theorem badUnits_clean (q : VecWork) (per n : Nat) (src : Nat → List (Nat × Nat × Nat)) (i : Nat) : (q.badUnits x per n src).getD i false = false := by
  have h (l : List Nat) (acc : List Bool) (ha : ∀ b ∈ acc, b = false) : ∀ b ∈ (l.foldl (fun (a : List Bool × List Nat) j =>
      let bad := (src j).any fun p => x.badIn p.1 p.2.2 || (linesOf p.2.1 p.2.2).any a.2.contains
      (a.1 ++ [bad], if bad then a.2 ++ (q.dst per j).flatMap fun p => linesOf p.1 p.2 else a.2)) (acc, [])).1, b = false := by
    induction l generalizing acc with
    | nil => exact ha
    | cons j l ih =>
      have hb : ((src j).any fun p => x.badIn p.1 p.2.2 || (linesOf p.2.1 p.2.2).any ([] : List Nat).contains) = false := by simp [badIn_clean hx]
      rw [List.foldl_cons]
      dsimp only
      rw [hb]
      refine ih _ fun b hm => ?_
      rcases List.mem_append.1 hm with hm | hm
      · exact ha b hm
      · exact List.mem_singleton.1 hm
  unfold VecWork.badUnits
  rw [List.getD_eq_getElem?_getD]
  cases hi : ((List.range n).foldl _ (([] : List Bool), ([] : List Nat))).1[i]? with
  | none => rfl
  | some b => exact h _ [] nofun b (List.mem_of_getElem? hi)
theorem seenAsm_clean (s : State) (a n : Nat) : s.seenAsm x a n = (s, x.bytes a n) := by
  unfold State.seenAsm
  rw [badIn_clean hx]
  rfl
theorem seenAll_clean (ps : List Part) (s : State) (acc : List (Nat × List Byte)) :
    ps.foldl (fun (a : State × List (Nat × List Byte)) p => let g := a.1.seenAsm x p.at_ p.len; (g.1, a.2 ++ [(p.at_, g.2)])) (s, acc) = (s, acc ++ ps.map fun p => (p.at_, x.bytes p.at_ p.len)) := by
  induction ps generalizing acc with
  | nil => simp
  | cons p ps ih =>
    rw [List.foldl_cons]
    dsimp only
    rw [seenAsm_clean hx, ih]
    simp
end Clean

/-! ## The steps of a vector word -/

/-- The part of a transfer at a place, as a vector word takes it. -/
def gotOf (q : VecWork) (x : Asm) (at_ : Nat) : List Byte :=
  match (q.parts.map fun p => (p.at_, x.bytes p.at_ p.len)).find? (·.1 == at_) with
  | some e => e.2
  | none => []
/-- The pieces of one part of a write. -/
def ownPieces (ps : List (Part × Piece)) (va : Nat) : List Piece := (ps.filter fun x => x.1.va == va).map (·.2)

section Steps
variable {s : State} {d : DieId} {i : Fin 9} {r : Run} {o : COp} {src : Tag → Bool} {blk : Nat} {srcs : List (Nat × Tag)}
  {comp : VecWork → (Nat → List Byte) → List Byte × List Byte × Flg} {deps : VecWork → Nat → List (Nat × Nat × Nat)}

theorem vecStep_begins (hs : r.started = false) (hc : vecCheck r o src = none) : vecStep s ⟨d, .coll, i⟩ r o src blk srcs comp deps = s.setRun ⟨d, .coll, i⟩ { r with started := true, mSent := 0 } := by
  unfold vecStep
  simp only [hs, Bool.not_false, if_true, hc]
theorem vecStep_over (hs : r.started = true) (hn : fld (r.par o.f3) 0 32 ≤ r.mSent) : vecStep s ⟨d, .coll, i⟩ r o src blk srcs comp deps = s.setRun ⟨d, .coll, i⟩ (r.adv o.na) := by
  unfold vecStep
  simp only [hs, Bool.not_true, Bool.false_eq_true, if_false, hn, if_true]
  rfl

variable (hs : r.started = true) (hn : r.mSent < fld (r.par o.f3) 0 32)
include hs hn

theorem vecStep_reads {y : Die} {qs : List (Part × Piece)} (ha : (s.ag d .coll).asm = [])
    (hq : accessParts d ((s.die d).whoRun ⟨d, .coll, i⟩ r) ⟨[0, 1], true, false⟩ (vecWork r o o.fmt blk srcs r.mSent).parts (s.die d) = .ok y qs) :
    vecStep s ⟨d, .coll, i⟩ r o src blk srcs comp deps = issueReads (s.modDie d fun _ => y) ⟨d, .coll, i⟩ r (16 * r.unit + i.val) r.unit false qs := by
  unfold vecStep
  simp only [hs, Bool.not_true, Bool.false_eq_true, if_false, Nat.not_le.2 hn, ha, List.find?_nil, hq]
  rfl

variable {x : Asm} (ha : (s.ag d .coll).asm = [x]) (hk : x.key = 16 * r.unit + i.val) (hd : x.done = true) (hx : x.psn = false) {y : Die} {ps : List (Part × Piece)}
include ha hk hd hx

/-- A chunk without scales is computed and pushed. -/
theorem vecStep_plain (h0 : (vecWork r o o.fmt blk srcs r.mSent).sn = 0)
    (hq : accessParts d ((s.die d).whoRun ⟨d, .coll, i⟩ r) ⟨[0, 1], false, true⟩ [⟨(vecWork r o o.fmt blk srcs r.mSent).da, (vecWork r o o.fmt blk srcs r.mSent).dn, 0⟩] (s.die d) = .ok y ps) :
    vecStep s ⟨d, .coll, i⟩ r o src blk srcs comp deps =
      ((pushChunk (s.modDie d fun _ => y) ⟨d, .coll, i⟩ r (vecWork r o o.fmt blk srcs r.mSent).da r.unit (ownPieces ps (vecWork r o o.fmt blk srcs r.mSent).da)
          (comp (vecWork r o o.fmt blk srcs r.mSent) (gotOf (vecWork r o o.fmt blk srcs r.mSent) x)).1 fun _ _ => false).modAg d .coll fun z => z.dropAsm x.key).setRun ⟨d, .coll, i⟩
        { r with unit := r.unit + 1, mSent := r.mSent + (vecWork r o o.fmt blk srcs r.mSent).cnt
                 flags := r.flags ||| (comp (vecWork r o o.fmt blk srcs r.mSent) (gotOf (vecWork r o o.fmt blk srcs r.mSent) x)).2.2 } := by
  have hkey : Cur.key ⟨d, .coll, i⟩ r.unit = x.key := hk.symm
  have hfind : ([x].find? fun z => z.key == x.key) = some x := by simp
  have hnone (l : List Nat) : (l.any fun _ => false) = false := by simp
  unfold vecStep
  generalize vecWork r o o.fmt blk srcs r.mSent = q at h0 hq ⊢
  simp only [hs, Bool.not_true, Bool.false_eq_true, if_false, Nat.not_le.2 hn, ha, hkey, hfind, hd, h0, if_true, hq, seenAll_clean hx, badUnits_clean hx, hnone, List.nil_append]
  rfl
/-- A chunk with scales: its elements, then its scales. -/
theorem vecStep_scaled (h0 : (vecWork r o o.fmt blk srcs r.mSent).sn ≠ 0)
    (hq : accessParts d ((s.die d).whoRun ⟨d, .coll, i⟩ r) ⟨[0, 1], false, true⟩ [⟨(vecWork r o o.fmt blk srcs r.mSent).da, (vecWork r o o.fmt blk srcs r.mSent).dn, 0⟩,
      ⟨(vecWork r o o.fmt blk srcs r.mSent).sa, (vecWork r o o.fmt blk srcs r.mSent).sn, 0⟩] (s.die d) = .ok y ps) :
    vecStep s ⟨d, .coll, i⟩ r o src blk srcs comp deps =
      ((pushChunk (pushChunk (s.modDie d fun _ => y) ⟨d, .coll, i⟩ r (vecWork r o o.fmt blk srcs r.mSent).da r.unit (ownPieces ps (vecWork r o o.fmt blk srcs r.mSent).da)
            (comp (vecWork r o o.fmt blk srcs r.mSent) (gotOf (vecWork r o o.fmt blk srcs r.mSent) x)).1 fun _ _ => false)
          ⟨d, .coll, i⟩ r (vecWork r o o.fmt blk srcs r.mSent).sa r.unit (ownPieces ps (vecWork r o o.fmt blk srcs r.mSent).sa)
          (comp (vecWork r o o.fmt blk srcs r.mSent) (gotOf (vecWork r o o.fmt blk srcs r.mSent) x)).2.1 fun _ _ => false).modAg d .coll fun z => z.dropAsm x.key).setRun ⟨d, .coll, i⟩
        { r with unit := r.unit + 1, mSent := r.mSent + (vecWork r o o.fmt blk srcs r.mSent).cnt
                 flags := r.flags ||| (comp (vecWork r o o.fmt blk srcs r.mSent) (gotOf (vecWork r o o.fmt blk srcs r.mSent) x)).2.2 } := by
  have hkey : Cur.key ⟨d, .coll, i⟩ r.unit = x.key := hk.symm
  have hfind : ([x].find? fun z => z.key == x.key) = some x := by simp
  have hnone (l : List Nat) : (l.any fun _ => false) = false := by simp
  unfold vecStep
  generalize vecWork r o o.fmt blk srcs r.mSent = q at h0 hq ⊢
  simp only [hs, Bool.not_true, Bool.false_eq_true, if_false, Nat.not_le.2 hn, ha, hkey, hfind, hd, h0, hq, seenAll_clean hx, badUnits_clean hx, hnone, List.nil_append]
  rfl
end Steps

/-! ## The pieces of the one part of a write -/

theorem mem_accessLines {d : DieId} {w : Who} {n : Need} {l : List (Part × Nat × Nat)} {y z : Die} {qs : List (Part × Piece)} (h : accessLines d w n l y = .ok z qs) : ∀ q ∈ qs, ∃ c ∈ l, q.1 = c.1 := by
  induction l generalizing y qs with
  | nil =>
    simp only [accessLines] at h
    injection h with _ h
    subst h
    exact nofun
  | cons c r ih =>
    obtain ⟨p, va, len⟩ := c
    unfold accessLines at h
    cases ha : access d y w va len n with
    | fault u a b => rw [ha] at h; exact nomatch h
    | wait u => rw [ha] at h; exact nomatch h
    | ok u x =>
      rw [ha] at h
      dsimp only at h
      cases hl : accessLines d w n r u with
      | fault v a b => rw [hl] at h; exact nomatch h
      | wait v => rw [hl] at h; exact nomatch h
      | ok v ps =>
        rw [hl] at h
        injection h with h1 h2
        subst h1 h2
        intro q hq
        rcases List.mem_cons.1 hq with rfl | hq
        · exact ⟨_, List.mem_cons_self .., rfl⟩
        · obtain ⟨c, hc, he⟩ := ih hl q hq
          exact ⟨c, List.mem_cons_of_mem _ hc, he⟩
theorem mem_lineIns {a c : Part × Nat × Nat} {l : List (Part × Nat × Nat)} (h : c ∈ lineIns a l) : c = a ∨ c ∈ l := by
  induction l with
  | nil => exact .inl (List.mem_singleton.1 h)
  | cons b l ih =>
    unfold lineIns at h
    split at h
    · exact List.mem_cons.1 h
    · rcases List.mem_cons.1 h with h | h
      · exact .inr (h ▸ List.mem_cons_self ..)
      · rcases ih h with h | h
        · exact .inl h
        · exact .inr (List.mem_cons_of_mem _ h)
theorem mem_partLines {ps : List Part} {c : Part × Nat × Nat} (h : c ∈ partLines ps) : c.1 ∈ ps := by
  have fold (l : List (Part × Nat × Nat)) (hl : ∀ c ∈ l, c.1 ∈ ps) : ∀ c ∈ l.foldr lineIns [], c.1 ∈ ps := by
    induction l with
    | nil => exact nofun
    | cons a l ih =>
      intro c hc
      rcases mem_lineIns hc with rfl | hc
      · exact hl _ (List.mem_cons_self ..)
      · exact ih (fun c hc => hl c (List.mem_cons_of_mem _ hc)) c hc
  refine fold _ (fun c hc => ?_) c h
  obtain ⟨p, hp, hc⟩ := List.mem_flatMap.1 hc
  obtain ⟨e, -, rfl⟩ := List.mem_map.1 hc
  exact hp
/-- Where a write has one part, every piece is its own. -/
theorem ownPieces_all {d : DieId} {w : Who} {n : Need} {p : Part} {y z : Die} {qs : List (Part × Piece)} (h : accessParts d w n [p] y = .ok z qs) : ownPieces qs p.va = qs.map (·.2) := by
  unfold ownPieces
  rw [List.filter_eq_self.2]
  intro q hq
  obtain ⟨c, hc, he⟩ := mem_accessLines h q hq
  rw [he, List.mem_singleton.1 (mem_partLines hc)]
  exact beq_self_eq_true _

end Sys2Proof.Proofs
end

section
/-! SUPPORT. The three vector words (O39). -/

namespace Sys2Proof.Proofs

open Sys2Proof Sys2Proof.Machine Sys2Proof.Laws

/-! ## The layout of a chunk -/

section Work
variable {r : Run} {o : COp} {blk e0 : Nat} {srcs : List (Nat × Tag)}

theorem vecWork_one {v : Nat} {t : Tag} (ht : fscaled t = false) : (vecWork r o o.fmt blk [(v, t)] e0).parts = [⟨v + vecLen t e0, vecLen t (vecWork r o o.fmt blk [(v, t)] e0).cnt, 0⟩] := by
  simp [vecWork, ht]
theorem vecWork_two {u v : Nat} {t : Tag} (ht : fscaled t = false) : (vecWork r o o.fmt blk [(u, t), (v, t)] e0).parts =
    [⟨u + vecLen t e0, vecLen t (vecWork r o o.fmt blk [(u, t), (v, t)] e0).cnt, 0⟩, ⟨v + vecLen t e0, vecLen t (vecWork r o o.fmt blk [(u, t), (v, t)] e0).cnt, 8192⟩] := by
  simp [vecWork, ht, List.range_succ]
theorem gotOf_one {v : Nat} {t : Tag} (ht : fscaled t = false) (x : Asm) : gotOf (vecWork r o o.fmt blk [(v, t)] e0) x 0 = x.bytes 0 (vecLen t (vecWork r o o.fmt blk [(v, t)] e0).cnt) := by
  rw [gotOf, vecWork_one ht]
  rfl
theorem gotOf_two {u v : Nat} {t : Tag} (ht : fscaled t = false) (x : Asm) :
    gotOf (vecWork r o o.fmt blk [(u, t), (v, t)] e0) x 0 = x.bytes 0 (vecLen t (vecWork r o o.fmt blk [(u, t), (v, t)] e0).cnt) ∧
      gotOf (vecWork r o o.fmt blk [(u, t), (v, t)] e0) x 8192 = x.bytes 8192 (vecLen t (vecWork r o o.fmt blk [(u, t), (v, t)] e0).cnt) := by
  rw [gotOf, gotOf, vecWork_two ht]
  exact ⟨rfl, rfl⟩

/-- What has been written of a chunk that lies apart from its source covers no element of it. -/
theorem clear_apart {t : Tag} {da dn v j cnt : Nat} (ht : fwidth t % 8 = 0) (hj : j < cnt) (h : da + dn ≤ v ∨ v + vecLen t cnt ≤ da) {acc : List Byte} (ha : acc.length ≤ dn) :
    da + acc.length ≤ v + fwidth t / 8 * j ∨ v + fwidth t / 8 * j + fwidth t / 8 ≤ da := by
  have hle : fwidth t / 8 * j + fwidth t / 8 ≤ vecLen t cnt := by
    rw [vecLen_whole ht, Nat.mul_comm cnt, ← Nat.mul_succ]
    exact Nat.mul_le_mul_left _ hj
  rcases h with h | h
  · exact .inl (by omega)
  · exact .inr (by omega)
theorem written_le {t : Tag} {j cnt : Nat} (ht : fwidth t % 8 = 0) (hj : j < cnt) : fwidth t / 8 * j ≤ vecLen t cnt := by
  rw [vecLen_whole ht, Nat.mul_comm cnt]
  exact Nat.mul_le_mul_left _ (Nat.le_of_lt hj)
end Work

/-! ## The words as steps of one form -/

/-- What each word computes of a chunk from its source bytes. -/
def kwidComp (r : Run) (o : COp) (q : VecWork) (got : Nat → List Byte) : List Byte × List Byte × Flg :=
  eachElem q o.fmt fun done i => roundVal o.fmt 0 false 0 (vecElem (vecTag r o) (fld (r.par o.f3) 0 32) (r.par o.f2).toNat done q.e0 (got 0) (got 65536) i)
def kaddComp (r : Run) (o : COp) (q : VecWork) (got : Nat → List Byte) : List Byte × List Byte × Flg :=
  eachElem q o.fmt fun done i =>
    let x := fpAdd 0 (vecElem o.fmt (fld (r.par o.f3) 0 32) (r.par o.f1).toNat done q.e0 (got 0) [] i) (vecElem o.fmt (fld (r.par o.f3) 0 32) (r.par o.f2).toNat done q.e0 (got 8192) [] i)
    let y := roundVal o.fmt 0 false 0 x.1
    (y.1, y.2 ||| x.2)
/-- A block requantised after the blocks before it. -/
def kreqNext (r : Run) (o : COp) (q : VecWork) (got : Nat → List Byte) (a : List Byte × List Byte × Flg) (j : Nat) : List Byte × List Byte × Flg :=
  let b := quantBlock o.fmt ((List.range 32).map fun i => vecElem (vecTag r o) (fld (r.par o.f3) 0 32) (r.par o.f2).toNat [(q.da, a.1), (q.sa, a.2.1)] q.e0 (got 0) [] (q.e0 + 32 * j + i))
  (a.1 ++ natLe (4 * fwidth o.fmt) (packElems (fwidth o.fmt) b.2.1), a.2.1 ++ natLe 3 b.1, a.2.2 ||| b.2.2)
def kreqComp (r : Run) (o : COp) (q : VecWork) (got : Nat → List Byte) : List Byte × List Byte × Flg := (List.range (q.cnt / 32)).foldl (kreqNext r o q got) ([], [], 0)

section Forms
variable {s : State} {c : Cur} {r : Run} (o : COp)

theorem kwidStep_vec : ∃ deps, kwidStep s c r o = vecStep s c r o fmtKwSrc 1 [((r.par o.f2).toNat, vecTag r o)] (kwidComp r o) deps := by
  unfold kwidStep
  exact ⟨_, rfl⟩
theorem kaddStep_vec : ∃ deps, kaddStep s c r o = vecStep s c r o (· == o.fmt) 1 [((r.par o.f1).toNat, o.fmt), ((r.par o.f2).toNat, o.fmt)] (kaddComp r o) deps := by
  unfold kaddStep
  exact ⟨_, rfl⟩
theorem kreqStep_vec : ∃ deps, kreqStep s c r o = vecStep s c r o (fun t => t == tFP32 || t == tBF16) 32 [((r.par o.f2).toNat, vecTag r o)] (kreqComp r o) deps := by
  unfold kreqStep
  exact ⟨_, rfl⟩
end Forms

section Words
variable {s : State} {d : DieId} {i : Fin 9} {r : Run} (o : COp) (hc : s.cur = ⟨d, .coll, i⟩) (hr : s.run ⟨d, .coll, i⟩ = some r)
include hc hr

theorem engDo_cur {f : State → Cur → Run → State} : engDo f s = .next (f s ⟨d, .coll, i⟩ r) := by
  rw [engDo_run f (hc ▸ hr), hc]
theorem exec_kwid_vec : ∃ deps, exec (.kwid o) s = .next (vecStep s ⟨d, .coll, i⟩ r o fmtKwSrc 1 [((r.par o.f2).toNat, vecTag r o)] (kwidComp r o) deps) :=
  (kwidStep_vec o).imp fun _ h => (exec_kwid o s).trans ((engDo_cur hc hr).trans (congrArg Host.Outcome.next h))
theorem exec_kadd_vec : ∃ deps, exec (.kadd o) s = .next (vecStep s ⟨d, .coll, i⟩ r o (· == o.fmt) 1 [((r.par o.f1).toNat, o.fmt), ((r.par o.f2).toNat, o.fmt)] (kaddComp r o) deps) :=
  (kaddStep_vec o).imp fun _ h => (exec_kadd o s).trans ((engDo_cur hc hr).trans (congrArg Host.Outcome.next h))
theorem exec_kreq_vec : ∃ deps, exec (.kreq o) s = .next (vecStep s ⟨d, .coll, i⟩ r o (fun t => t == tFP32 || t == tBF16) 32 [((r.par o.f2).toNat, vecTag r o)] (kreqComp r o) deps) :=
  (kreqStep_vec o).imp fun _ h => (exec_kreq o s).trans ((engDo_cur hc hr).trans (congrArg Host.Outcome.next h))
/-- Each vector word is a step of the one form, and takes the source tags it may. -/
theorem exec_vec {w : Instr} (h : w = .kwid o ∧ fmtKwSrc (vecTag r o) = true ∨ w = .kadd o ∧ vecTag r o = o.fmt ∨ w = .kreq o ∧ (vecTag r o = tFP32 ∨ vecTag r o = tBF16)) :
    ∃ src blk srcs comp deps, src (vecTag r o) = true ∧ exec w s = .next (vecStep s ⟨d, .coll, i⟩ r o src blk srcs comp deps) := by
  rcases h with ⟨rfl, h⟩ | ⟨rfl, h⟩ | ⟨rfl, h⟩
  · obtain ⟨deps, he⟩ := exec_kwid_vec o hc hr
    exact ⟨fmtKwSrc, 1, [((r.par o.f2).toNat, vecTag r o)], kwidComp r o, deps, h, he⟩
  · obtain ⟨deps, he⟩ := exec_kadd_vec o hc hr
    exact ⟨(· == o.fmt), 1, [((r.par o.f1).toNat, o.fmt), ((r.par o.f2).toNat, o.fmt)], kaddComp r o, deps, beq_iff_eq.2 h, he⟩
  · obtain ⟨deps, he⟩ := exec_kreq_vec o hc hr
    exact ⟨(fun t => t == tFP32 || t == tBF16), 32, [((r.par o.f2).toNat, vecTag r o)], kreqComp r o, deps, by simpa using h, he⟩
end Words

theorem vecCheck_passes {r : Run} {o : COp} {src : Tag → Bool} (hf : src (vecTag r o) = true) (h1 : fld (r.par o.f3) 32 16 = 0) (h2 : fld (r.par o.f3) 53 11 = 0) (h3 : fld (r.par o.f3) 0 32 % 32 = 0)
    (h4 : 32 ≤ fld (r.par o.f3) 0 32) (h5 : fld (r.par o.f3) 0 32 ≤ 2 ^ 20) (h6 : (r.par o.f1).toNat % 16 = 0) (h7 : (r.par o.f2).toNat % 16 = 0) : vecCheck r o src = none := by
  have hf : src ((r.par o.f3).extractLsb' 48 5) = true := hf
  unfold vecCheck
  simp only [h1, h2, h3, decide_eq_false (Nat.not_lt.2 h4), decide_eq_false (Nat.not_lt.2 h5), hf, h6, h7, bne_self_eq_false, Bool.not_true, Bool.or_self, Bool.false_eq_true, if_false]

/-! ## `kwid` and `kadd` (R294, R295) -/

section Elements
variable {r : Run} {o : COp} {e0 : Nat} {x : Asm} (hw : fwidth o.fmt % 8 = 0) {q : VecWork}
include hw

theorem kwidComp_eq (ht : fwidth (vecTag r o) % 8 = 0) (hs : fscaled (vecTag r o) = false) (hq : q = vecWork r o o.fmt 1 [((r.par o.f2).toNat, vecTag r o)] e0)
    (ha : q.da + q.dn ≤ (r.par o.f2).toNat + vecLen (vecTag r o) q.e0 ∨ (r.par o.f2).toNat + vecLen (vecTag r o) q.e0 + vecLen (vecTag r o) q.cnt ≤ q.da) :
    kwidComp r o q (gotOf q x) = ((List.range q.cnt).flatMap (fun j => natLe (fwidth o.fmt / 8) (roundVal o.fmt 0 false 0 (elemAt (vecTag r o) x 0 j)).1), [],
      (List.range q.cnt).foldl (fun f j => f ||| (roundVal o.fmt 0 false 0 (elemAt (vecTag r o) x 0 j)).2) 0) := by
  have hdn : q.dn = vecLen o.fmt q.cnt := by rw [hq]; rfl
  have hg : gotOf q x 0 = x.bytes 0 (vecLen (vecTag r o) q.cnt) := by rw [hq]; exact gotOf_one hs x
  refine eachElem_eq fun j hj acc hacc => congrArg (roundVal o.fmt 0 false 0) ?_
  rw [hg]
  refine vecElem_clear ht hs hj fun p hp => ?_
  rw [List.mem_singleton.1 hp]
  exact clear_apart ht hj ha (by rw [hacc, hdn]; exact written_le hw hj)

/-- An element of `kadd`: the sum of two, rounded once. -/
def kaddElem (o : COp) (x : Asm) (j : Nat) : Nat × Flg :=
  let v := fpAdd 0 (elemAt o.fmt x 0 j) (elemAt o.fmt x 8192 j)
  let z := roundVal o.fmt 0 false 0 v.1
  (z.1, z.2 ||| v.2)
theorem kaddComp_eq (hs : fscaled o.fmt = false) (hq : q = vecWork r o o.fmt 1 [((r.par o.f1).toNat, o.fmt), ((r.par o.f2).toNat, o.fmt)] e0)
    (ha : (q.da + q.dn ≤ (r.par o.f2).toNat + vecLen o.fmt q.e0 ∨ (r.par o.f2).toNat + vecLen o.fmt q.e0 + vecLen o.fmt q.cnt ≤ q.da) ∨ (r.par o.f2).toNat = (r.par o.f1).toNat) :
    kaddComp r o q (gotOf q x) = ((List.range q.cnt).flatMap (fun j => natLe (fwidth o.fmt / 8) (kaddElem o x j).1), [], (List.range q.cnt).foldl (fun f j => f ||| (kaddElem o x j).2) 0) := by
  have hda : q.da = (r.par o.f1).toNat + vecLen o.fmt q.e0 := by rw [hq]; rfl
  have hdn : q.dn = vecLen o.fmt q.cnt := by rw [hq]; rfl
  obtain ⟨hg1, hg2⟩ := gotOf_two (r := r) (o := o) (blk := 1) (e0 := e0) (u := (r.par o.f1).toNat) (v := (r.par o.f2).toNat) hs x
  rw [← hq] at hg1 hg2
  refine eachElem_eq fun j hj acc hacc => ?_
  have own {b : Nat} (hb : b = (r.par o.f1).toNat) : Clear [(q.da, acc)] (b + vecLen o.fmt q.e0 + fwidth o.fmt / 8 * j) (fwidth o.fmt / 8) := by
    intro p hp
    rw [List.mem_singleton.1 hp]
    refine .inl ?_
    change q.da + acc.length ≤ _
    rw [hacc, hda, hb]
  have other : Clear [(q.da, acc)] ((r.par o.f2).toNat + vecLen o.fmt q.e0 + fwidth o.fmt / 8 * j) (fwidth o.fmt / 8) := by
    rcases ha with ha | ha
    · intro p hp
      rw [List.mem_singleton.1 hp]
      exact clear_apart hw hj ha (by rw [hacc, hdn]; exact written_le hw hj)
    · exact own ha
  rw [hg1, hg2]
  dsimp only
  rw [vecElem_clear hw hs hj (own rfl), vecElem_clear hw hs hj other]
  rfl
end Elements

/-! ## `kreq` (R294) -/

/-- Block `j` of a requantisation. -/
def kreqBlock (o : COp) (t : Tag) (x : Asm) (j : Nat) : Nat × List Nat × Flg := quantBlock o.fmt ((List.range 32).map fun i => elemAt t x 0 (32 * j + i))

section Blocks
variable {r : Run} {o : COp} {e0 : Nat} {x : Asm} {q : VecWork} (ht : fwidth (vecTag r o) % 8 = 0) (hs : fscaled (vecTag r o) = false)
  (hq : q = vecWork r o o.fmt 32 [((r.par o.f2).toNat, vecTag r o)] e0) (hsn : q.sn = 3 * (q.cnt / 32))
  (h1 : q.da + q.dn ≤ (r.par o.f2).toNat + vecLen (vecTag r o) q.e0 ∨ (r.par o.f2).toNat + vecLen (vecTag r o) q.e0 + vecLen (vecTag r o) q.cnt ≤ q.da)
  (h2 : q.sa + q.sn ≤ (r.par o.f2).toNat + vecLen (vecTag r o) q.e0 ∨ (r.par o.f2).toNat + vecLen (vecTag r o) q.e0 + vecLen (vecTag r o) q.cnt ≤ q.sa)
include ht hs hq hsn h1 h2

/-- The bytes and scales of the blocks before a block leave its source as it was read. -/
theorem kreqNext_eq {m : Nat} (hm : m < q.cnt / 32) (l sc : List Byte) (fl : Flg) (hl : l.length = 4 * fwidth o.fmt * m) (hsc : sc.length = 3 * m) :
    kreqNext r o q (gotOf q x) (l, sc, fl) m = (l ++ natLe (4 * fwidth o.fmt) (packElems (fwidth o.fmt) (kreqBlock o (vecTag r o) x m).2.1), sc ++ natLe 3 (kreqBlock o (vecTag r o) x m).1,
      fl ||| (kreqBlock o (vecTag r o) x m).2.2) := by
  have hdn : q.dn = vecLen o.fmt q.cnt := by rw [hq]; rfl
  have hg : gotOf q x 0 = x.bytes 0 (vecLen (vecTag r o) q.cnt) := by rw [hq]; exact gotOf_one hs x
  have hblock : quantBlock o.fmt ((List.range 32).map fun i => vecElem (vecTag r o) (fld (r.par o.f3) 0 32) (r.par o.f2).toNat [(q.da, l), (q.sa, sc)] q.e0 (gotOf q x 0) [] (q.e0 + 32 * m + i)) =
      kreqBlock o (vecTag r o) x m := by
    refine congrArg (quantBlock o.fmt) (List.map_congr_left fun i hi => ?_)
    have hi := List.mem_range.1 hi
    have hj : 32 * m + i < q.cnt := by omega
    rw [hg, Nat.add_assoc]
    refine vecElem_clear ht hs hj fun p hp => ?_
    rcases List.mem_cons.1 hp with rfl | hp
    · refine clear_apart ht hj h1 ?_
      rw [hl, hdn, vecLen, Nat.le_div_iff_mul_le (by decide)]
      calc 4 * fwidth o.fmt * m * 8 = 32 * m * fwidth o.fmt := by ring
        _ ≤ q.cnt * fwidth o.fmt := Nat.mul_le_mul_right _ (by omega)
    · rw [List.mem_singleton.1 hp]
      exact clear_apart ht hj h2 (by rw [hsc, hsn]; omega)
  unfold kreqNext
  dsimp only
  rw [hblock]
theorem kreqComp_eq : kreqComp r o q (gotOf q x) =
    ((List.range (q.cnt / 32)).flatMap (fun j => natLe (4 * fwidth o.fmt) (packElems (fwidth o.fmt) (kreqBlock o (vecTag r o) x j).2.1)), (List.range (q.cnt / 32)).flatMap (fun j => natLe 3 (kreqBlock o (vecTag r o) x j).1),
      (List.range (q.cnt / 32)).foldl (fun f j => f ||| (kreqBlock o (vecTag r o) x j).2.2) 0) := by
  have part (m : Nat) (hm : m ≤ q.cnt / 32) : (List.range m).foldl (kreqNext r o q (gotOf q x)) ([], [], 0) =
      ((List.range m).flatMap (fun j => natLe (4 * fwidth o.fmt) (packElems (fwidth o.fmt) (kreqBlock o (vecTag r o) x j).2.1)), (List.range m).flatMap (fun j => natLe 3 (kreqBlock o (vecTag r o) x j).1),
        (List.range m).foldl (fun f j => f ||| (kreqBlock o (vecTag r o) x j).2.2) 0) := by
    induction m with
    | zero => rfl
    | succ m ih =>
      rw [@List.range_succ m, List.foldl_append, ih (by omega), List.flatMap_append, List.flatMap_append, List.foldl_append]
      simp only [List.foldl_cons, List.foldl_nil, List.flatMap_singleton]
      exact kreqNext_eq ht hs hq hsn h1 h2 (by omega) _ _ _ (length_flatMap_natLe _ _ _) (length_flatMap_natLe _ _ _)
  exact part _ (Nat.le_refl _)
end Blocks

/-! ## What a chunk of each word writes -/

section Writes
variable {s : State} {d : DieId} {i : Fin 9} {r : Run} {o : COp} {deps : VecWork → Nat → List (Nat × Nat × Nat)} (hs : r.started = true) (hn : r.mSent < fld (r.par o.f3) 0 32) {x : Asm}
  (ha : (s.ag d .coll).asm = [x]) (hk : x.key = 16 * r.unit + i.val) (hd : x.done = true) (hx : x.psn = false) {y : Die} {ps : List (Part × Piece)} {q : VecWork}
include hs hn ha hk hd hx

theorem kwid_writes (hsd : fscaled o.fmt = false) (hst : fscaled (vecTag r o) = false) (hw : fwidth o.fmt % 8 = 0) (ht : fwidth (vecTag r o) % 8 = 0)
    (hq : q = vecWork r o o.fmt 1 [((r.par o.f2).toNat, vecTag r o)] r.mSent)
    (hap : q.da + q.dn ≤ (r.par o.f2).toNat + vecLen (vecTag r o) q.e0 ∨ (r.par o.f2).toNat + vecLen (vecTag r o) q.e0 + vecLen (vecTag r o) q.cnt ≤ q.da)
    (hps : accessParts d ((s.die d).whoRun ⟨d, .coll, i⟩ r) ⟨[0, 1], false, true⟩ [⟨q.da, q.dn, 0⟩] (s.die d) = .ok y ps) :
    vecStep s ⟨d, .coll, i⟩ r o fmtKwSrc 1 [((r.par o.f2).toNat, vecTag r o)] (kwidComp r o) deps =
      ((pushChunk (s.modDie d fun _ => y) ⟨d, .coll, i⟩ r q.da r.unit (ps.map (·.2)) ((List.range q.cnt).flatMap fun j => natLe (fwidth o.fmt / 8) (roundVal o.fmt 0 false 0 (elemAt (vecTag r o) x 0 j)).1)
          fun _ _ => false).modAg d .coll fun z => z.dropAsm (16 * r.unit + i.val)).setRun ⟨d, .coll, i⟩
        { r with unit := r.unit + 1, mSent := r.mSent + q.cnt, flags := (List.range q.cnt).foldl (fun f j => f ||| (roundVal o.fmt 0 false 0 (elemAt (vecTag r o) x 0 j)).2) r.flags } := by
  have h0 : (vecWork r o o.fmt 1 [((r.par o.f2).toNat, vecTag r o)] r.mSent).sn = 0 := by simp [vecWork, hsd]
  have hp := vecStep_plain (src := fmtKwSrc) (comp := kwidComp r o) (deps := deps) hs hn ha hk hd hx h0 (by rw [← hq]; exact hps)
  rw [← hq, kwidComp_eq hw ht hst hq hap] at hp
  rw [hp, ownPieces_all hps, hk, foldl_or_flags]
theorem kadd_writes (hsd : fscaled o.fmt = false) (hw : fwidth o.fmt % 8 = 0) (hq : q = vecWork r o o.fmt 1 [((r.par o.f1).toNat, o.fmt), ((r.par o.f2).toNat, o.fmt)] r.mSent)
    (hap : (q.da + q.dn ≤ (r.par o.f2).toNat + vecLen o.fmt q.e0 ∨ (r.par o.f2).toNat + vecLen o.fmt q.e0 + vecLen o.fmt q.cnt ≤ q.da) ∨ (r.par o.f2).toNat = (r.par o.f1).toNat)
    (hps : accessParts d ((s.die d).whoRun ⟨d, .coll, i⟩ r) ⟨[0, 1], false, true⟩ [⟨q.da, q.dn, 0⟩] (s.die d) = .ok y ps) :
    vecStep s ⟨d, .coll, i⟩ r o (· == o.fmt) 1 [((r.par o.f1).toNat, o.fmt), ((r.par o.f2).toNat, o.fmt)] (kaddComp r o) deps =
      ((pushChunk (s.modDie d fun _ => y) ⟨d, .coll, i⟩ r q.da r.unit (ps.map (·.2)) ((List.range q.cnt).flatMap fun j => natLe (fwidth o.fmt / 8) (kaddElem o x j).1)
          fun _ _ => false).modAg d .coll fun z => z.dropAsm (16 * r.unit + i.val)).setRun ⟨d, .coll, i⟩
        { r with unit := r.unit + 1, mSent := r.mSent + q.cnt, flags := (List.range q.cnt).foldl (fun f j => f ||| (kaddElem o x j).2) r.flags } := by
  have h0 : (vecWork r o o.fmt 1 [((r.par o.f1).toNat, o.fmt), ((r.par o.f2).toNat, o.fmt)] r.mSent).sn = 0 := by simp [vecWork, hsd]
  have hp := vecStep_plain (src := (· == o.fmt)) (comp := kaddComp r o) (deps := deps) hs hn ha hk hd hx h0 (by rw [← hq]; exact hps)
  rw [← hq, kaddComp_eq hw hsd hq hap] at hp
  rw [hp, ownPieces_all hps, hk, foldl_or_flags]
theorem kreq_writes (hsd : fscaled o.fmt = true) (hst : fscaled (vecTag r o) = false) (ht : fwidth (vecTag r o) % 8 = 0) (hq : q = vecWork r o o.fmt 32 [((r.par o.f2).toNat, vecTag r o)] r.mSent)
    (h0 : q.sn ≠ 0) (h1 : q.da + q.dn ≤ (r.par o.f2).toNat + vecLen (vecTag r o) q.e0 ∨ (r.par o.f2).toNat + vecLen (vecTag r o) q.e0 + vecLen (vecTag r o) q.cnt ≤ q.da)
    (h2 : q.sa + q.sn ≤ (r.par o.f2).toNat + vecLen (vecTag r o) q.e0 ∨ (r.par o.f2).toNat + vecLen (vecTag r o) q.e0 + vecLen (vecTag r o) q.cnt ≤ q.sa)
    (hps : accessParts d ((s.die d).whoRun ⟨d, .coll, i⟩ r) ⟨[0, 1], false, true⟩ [⟨q.da, q.dn, 0⟩, ⟨q.sa, q.sn, 0⟩] (s.die d) = .ok y ps) :
    vecStep s ⟨d, .coll, i⟩ r o (fun t => t == tFP32 || t == tBF16) 32 [((r.par o.f2).toNat, vecTag r o)] (kreqComp r o) deps =
      ((pushChunk (pushChunk (s.modDie d fun _ => y) ⟨d, .coll, i⟩ r q.da r.unit (ownPieces ps q.da)
            ((List.range (q.cnt / 32)).flatMap fun j => natLe (4 * fwidth o.fmt) (packElems (fwidth o.fmt) (kreqBlock o (vecTag r o) x j).2.1)) fun _ _ => false)
          ⟨d, .coll, i⟩ r q.sa r.unit (ownPieces ps q.sa) ((List.range (q.cnt / 32)).flatMap fun j => natLe 3 (kreqBlock o (vecTag r o) x j).1) fun _ _ => false).modAg d .coll
        fun z => z.dropAsm (16 * r.unit + i.val)).setRun ⟨d, .coll, i⟩
        { r with unit := r.unit + 1, mSent := r.mSent + q.cnt, flags := (List.range (q.cnt / 32)).foldl (fun f j => f ||| (kreqBlock o (vecTag r o) x j).2.2) r.flags } := by
  have hsn : q.sn = 3 * (q.cnt / 32) := by
    rw [hq]
    simp [vecWork, hsd]
  have hp := vecStep_scaled (src := fun t => t == tFP32 || t == tBF16) (comp := kreqComp r o) (deps := deps) hs hn ha hk hd hx (hq ▸ h0) (by rw [← hq]; exact hps)
  rw [← hq, kreqComp_eq ht hst hq hsn h1 h2] at hp
  rw [hp, hk, foldl_or_flags]
end Writes

/-- Settles O39: begin, reads and end of a vector word; then what each of the three writes of a chunk. -/
theorem vectorWords : Obligations.VectorWords := by
  unfold Obligations.VectorWords
  intro s d r o c hc hcd hca hr w spec n st dst src key word apart
  obtain ⟨d', a', i⟩ := c
  subst hcd hca
  obtain ⟨deps1, kwid⟩ := exec_kwid_vec o hc hr
  obtain ⟨deps2, kadd⟩ := exec_kadd_vec o hc hr
  obtain ⟨deps3, kreq⟩ := exec_kreq_vec o hc hr
  refine ⟨fun j hj hs h1 h2 h3 h4 h5 h6 h7 => ?_, fun j hj hs hn => ?_, fun hs hn => ?_, fun x hs hn ha hk hd hx h1 h2 h3 h4 => ?_, fun x y ps hs hn ha hk hd hx h1 h2 => ?_⟩
  · obtain ⟨f, blk, srcs, comp, deps, hf, he⟩ := exec_vec o hc hr hj
    exact he.trans (congrArg Host.Outcome.next (vecStep_begins hs (vecCheck_passes hf h1 h2 h3 h4 h5 h6 h7)))
  · obtain ⟨f, blk, srcs, comp, deps, hf, he⟩ := exec_vec o hc hr hj
    exact he.trans (congrArg Host.Outcome.next (vecStep_over hs hn))
  · intro reads
    exact ⟨fun y qs ha hq => kwid.trans (congrArg Host.Outcome.next (vecStep_reads hs hn ha hq)), fun y qs ha hq => kadd.trans (congrArg Host.Outcome.next (vecStep_reads hs hn ha hq)),
      fun y qs ha hq => kreq.trans (congrArg Host.Outcome.next (vecStep_reads hs hn ha hq))⟩
  · intro q b writes
    refine ⟨fun hap y ps hq => kwid.trans (congrArg Host.Outcome.next ?_), fun hap y ps hq => kadd.trans (congrArg Host.Outcome.next ?_)⟩
    · exact kwid_writes hs hn ha hk hd hx h1 h2 h3 h4 rfl hap hq
    · exact kadd_writes (q := vecWork r o o.fmt 1 [((r.par o.f1).toNat, o.fmt), ((r.par o.f2).toNat, o.fmt)] r.mSent) hs hn ha hk hd hx h1 h3 rfl hap hq
  · intro q h0 h3 h4 hq own z
    have hst : fwidth (vecTag r o) % 8 = 0 ∧ fscaled (vecTag r o) = false := by
      have h2 : vecTag r o = tFP32 ∨ vecTag r o = tBF16 := h2
      rcases h2 with h2 | h2 <;> rw [h2] <;> decide
    have hz (j : Nat) : kreqBlock o (vecTag r o) x j = z j := by simp only [kreqBlock, elemAt, Nat.zero_add, z]; rfl
    have hp := kreq_writes (deps := deps3) hs hn ha hk hd hx h1 hst.2 hst.1 rfl h0 h3 h4 hq
    simp only [hz] at hp
    exact kreq.trans (congrArg Host.Outcome.next hp)

end Sys2Proof.Proofs
end

section
/-! SUPPORT. Kicks, and the acceptance of a record (O42). -/

namespace Sys2Proof.Proofs

open Sys2Proof Sys2Proof.Machine Sys2Proof.Laws

/-! ## A step of a pass (R306) -/

section Kick
variable {s : State} {d : DieId}

theorem modSched_die (s : State) (d : DieId) (f : Sched → Sched) : (s.modSched d f).die d = { s.die d with sched := f (s.die d).sched } := State.die_modDie_same _ _ _

theorem proc_modSched {f : Sched → Sched} {pid : Byte} : ((s.modSched d f).die d).proc d pid = (s.die d).proc d pid := by
  rw [modSched_die]
  rfl

section On
variable (hp : bitAt ((s.die d).getReg d rPROCBASE) 0 = true) (hj : bitAt ((s.die d).getReg d rSJBASE) 63 = true) (hon : (s.die d).schedOn d = true) (hm : s.muted d = false)
  (hr : s.pairRoom d 2 = true) (hg : s.partnerGated d = false)
include hp hj hon hm hr hg

theorem kickPass_goesOn {pid : Byte} {tail off : Nat} (h : (s.die d).sched.pass = some (pid, tail, off)) :
    execKickPass d s = .next (kickStep (s.modSched d fun q => { q with pass := none }) d pid tail off) := by
  unfold execKickPass
  simp only [hp, hj, hon, hm, hr, hg, h, Bool.not_true, Bool.or_self, Bool.false_eq_true, if_false]
theorem kickPass_begins {pid : Byte} (hgate : (s.die d).gateOk d = true) (h : (s.die d).sched.pass = none) (hk : (s.die d).sched.nextKick = some pid) :
    execKickPass d s = .next (kickStep (s.modSched d fun q => { q with kick := vset q.kick ⟨pid.toNat, pid.isLt⟩ false, kickRr := pid }) d pid ((s.die d).proc d pid).tail ((s.die d).proc d pid).head) := by
  unfold execKickPass
  simp only [hp, hj, hon, hm, hr, hg, h, hgate, hk, Bool.not_true, Bool.or_self, Bool.false_eq_true, if_false]
end On

theorem kickPass_idle (h : bitAt ((s.die d).getReg d rPROCBASE) 0 = false ∨ (s.die d).sched.pass = none ∧ (s.die d).sched.nextKick = none) : execKickPass d s = .next s := by
  unfold execKickPass
  rcases h with h | ⟨h1, h2⟩
  · simp only [h, Bool.not_false, Bool.true_or, if_true]
  · simp only [h1, h2]
    split
    · rfl
    · split <;> rfl

variable {pid : Byte} {p : Proc} (hp : p = (s.die d).proc d pid)
include hp

theorem kickStep_skips {c : Nat} (h : p.skip = some c) : kickStep s d pid p.tail p.head = s.modDie d fun y => y.setReg rSCHERR (BitVec.ofNat 64 (2 ^ 63 + 256 * pid.toNat + c)) := by
  unfold kickStep
  rw [← hp]
  simp only [h]
  rfl
theorem kickStep_empty (h : p.skip = none) (he : p.head = p.tail) : kickStep s d pid p.tail p.head = s := by
  unfold kickStep
  rw [← hp]
  have hs : ({ p with tail := p.tail, head := p.head } : Proc).skip = none := h
  have hn : acceptNext d p pid p.head s = (none, s) := by simp only [acceptNext, he, beq_self_eq_true, if_true]
  simp only [hs]
  rw [show acceptNext d { p with tail := p.tail, head := p.head } pid p.head s = (none, s) from hn]
theorem kickStep_poisoned (h : p.skip = none) (he : p.head ≠ p.tail) (hb : (s.die d).poisoned (p.ring + p.head) 256 = true) :
    kickStep s d pid p.tail p.head = s.modDie d fun y => y.setReg rSCHERR (BitVec.ofNat 64 (2 ^ 63 + 256 * pid.toNat + 4)) := by
  unfold kickStep
  rw [← hp]
  simp only [h, acceptNext, beq_false_of_ne he, hb, if_true, Bool.false_eq_true, if_false]
  rfl
theorem kickStep_accepts (h : p.skip = none) (he : p.head ≠ p.tail) (hb : (s.die d).poisoned (p.ring + p.head) 256 = false) :
    kickStep s d pid p.tail p.head = if (p.head + 256) % p.rlen = p.tail then acceptAt s d p pid p.head
      else (acceptAt s d p pid p.head).modSched d fun q => { q with pass := some (pid, p.tail, (p.head + 256) % p.rlen) } := by
  unfold kickStep
  rw [← hp]
  simp only [h, acceptNext, beq_false_of_ne he, hb, Bool.false_eq_true, if_false, beq_iff_eq]
omit hp in
theorem jOpen_reg {x : Die} {k a b c : Nat} : (x.jOpen d k a b c).reg = x.reg := by
  unfold Die.jOpen
  split
  · rfl
  · simp only [Die.poke_reg]
omit hp in
/-- A record taken where the die has no partner. -/
theorem acceptAt_alone {code : Nat} {y : Die} (h : (s.die d).paired d = none)
    (ha : acceptRecord d ((s.die d).jOpen d 1 (p.head + 2 ^ 32 * pid.toNat) 0 0) false p pid ((s.die d).peek (p.ring + p.head) 256) = (code, y)) (hy : y.paired d = none) :
    acceptAt s d p pid p.head =
      s.modDie d fun _ => ((y.poke (p.ring + p.head + 0xF8) (natLe 8 (256 + code)) false).poke (p.at_ + 0x18) (natLe 4 ((p.head + 256) % p.rlen)) false).jDoneLast d := by
  obtain ⟨u, hu⟩ : ∃ u, u = s.modDie d fun y => y.jOpen d 1 (p.head + 2 ^ 32 * pid.toNat) 0 0 := ⟨_, rfl⟩
  have hud : u.die d = (s.die d).jOpen d 1 (p.head + 2 ^ 32 * pid.toNat) 0 0 := by rw [hu, State.die_modDie_same]
  have hpair : (u.die d).paired d = none := by
    rw [hud, ← h]
    refine paired_congr ?_
    exact jOpen_reg
  have hmute : u.muted d = false := by simp only [State.muted, hpair]
  have hpy : ((u.modDie d fun _ => y).die d).paired d = none := by
    rw [State.die_modDie_same]
    exact hy
  have htell : u.tellPair (u.modDie d fun _ => y) d = u.modDie d fun _ => y := by
    unfold State.tellPair
    rw [hpy]
    rfl
  unfold acceptAt
  simp only [← hu]
  rw [hmute, hud, ha]
  dsimp only
  rw [htell, hpy]
  dsimp only
  rw [hu, modDie_modDie, modDie_modDie]
end Kick

/-! ## The acceptance of a record, in the order of its codes (R308 to R310) -/

section Accept
variable {dn : DieId} {d y : Die} {p : Proc} {pid : Byte} {bs : List Byte} {k : Desc}

/-- The double words of a record, its node, its predecessors' nodes. -/
def recW (bs : List Byte) (i : Nat) : Nat := leNat (slice bs (8 * i) 8)
def recNode (bs : List Byte) : Half := BitVec.ofNat 16 (recW bs 0)
def recPred (bs : List Byte) (j : Nat) : Half := BitVec.ofNat 16 (leNat (slice bs (0x50 + 2 * j) 2))

theorem accept_reserved (h : recordBad bs = true) : acceptRecord dn d false p pid bs = (2, d) := by
  unfold acceptRecord
  simp only [h, if_true]

variable (hb : recordBad bs = false)
include hb

theorem accept_noDesc (hd : readDesc dn d p.asid (recW bs 1) = (none, y)) : acceptRecord dn d false p pid bs = (3, y) := by
  have hd : readDesc dn d p.asid (leNat (slice bs (8 * 1) 8)) = (none, y) := hd
  unfold acceptRecord
  simp only [hb, Bool.false_eq_true, if_false, hd]

variable (hd : readDesc dn d p.asid (recW bs 1) = (some k, y))
include hd

theorem accept_badTeam (h : (decide (recW bs 4 % 16 = 0) || decide (teamMax k.shape < recW bs 4 % 16)) = true) : acceptRecord dn d false p pid bs = (4, y) := by
  have hd : readDesc dn d p.asid (leNat (slice bs (8 * 1) 8)) = (some k, y) := hd
  have h : (decide (leNat (slice bs (8 * 4) 8) % 16 = 0) || decide (teamMax k.shape < leNat (slice bs (8 * 4) 8) % 16)) = true := h
  unfold acceptRecord
  simp only [hb, Bool.false_eq_true, if_false, hd, h, Bool.not_false, Bool.true_and, if_true]

variable (h4 : (decide (recW bs 4 % 16 = 0) || decide (teamMax k.shape < recW bs 4 % 16)) = false)
include h4

theorem accept_badNode (h : (!p.owns (recNode bs).toNat || (y.sched.latest pid (recNode bs)).any (·.st == .active)) = true) :
    acceptRecord dn d false p pid bs = (5, y) := by
  have hd : readDesc dn d p.asid (leNat (slice bs (8 * 1) 8)) = (some k, y) := hd
  have h4 : (decide (leNat (slice bs (8 * 4) 8) % 16 = 0) || decide (teamMax k.shape < leNat (slice bs (8 * 4) 8) % 16)) = false := h4
  have h : (!p.owns (BitVec.ofNat 16 (leNat (slice bs (8 * 0) 8))).toNat || (y.sched.latest pid (BitVec.ofNat 16 (leNat (slice bs (8 * 0) 8)))).any (·.st == .active)) = true := h
  unfold acceptRecord
  simp only [hb, Bool.false_eq_true, if_false, hd, h4, h, Bool.not_false, Bool.true_and, if_true]

variable (h5 : (!p.owns (recNode bs).toNat || (y.sched.latest pid (recNode bs)).any (·.st == .active)) = false)
include h5

/-- The launches that the predecessors name. -/
def predOf (y : Die) (pid : Byte) (bs : List Byte) : List (Option Launch) := (List.range (recW bs 9 % 32)).map fun j => y.sched.latest pid (recPred bs j)

theorem accept_badPred (h : ((List.range (recW bs 9 % 32)).any (fun j => !p.owns (recPred bs j).toNat) || (predOf y pid bs).any Option.isNone) = true) :
    acceptRecord dn d false p pid bs = (6, y) := by
  have hd : readDesc dn d p.asid (leNat (slice bs (8 * 1) 8)) = (some k, y) := hd
  have h4 : (decide (leNat (slice bs (8 * 4) 8) % 16 = 0) || decide (teamMax k.shape < leNat (slice bs (8 * 4) 8) % 16)) = false := h4
  have h5 : (!p.owns (BitVec.ofNat 16 (leNat (slice bs (8 * 0) 8))).toNat || (y.sched.latest pid (BitVec.ofNat 16 (leNat (slice bs (8 * 0) 8)))).any (·.st == .active)) = false := h5
  simp only [predOf, recW, recPred] at h
  unfold acceptRecord
  simp only [hb, Bool.false_eq_true, if_false, hd, h4, h5, h, Bool.not_false, Bool.true_and, if_true]

variable (h6 : ((List.range (recW bs 9 % 32)).any (fun j => !p.owns (recPred bs j).toNat) || (predOf y pid bs).any Option.isNone) = false)
include h6

theorem accept_badClass (h : recW bs 0 / 65536 % 4 = 0) (hc : p.c0 = false) : acceptRecord dn d false p pid bs = (7, y) := by
  have hd : readDesc dn d p.asid (leNat (slice bs (8 * 1) 8)) = (some k, y) := hd
  have h4 : (decide (leNat (slice bs (8 * 4) 8) % 16 = 0) || decide (teamMax k.shape < leNat (slice bs (8 * 4) 8) % 16)) = false := h4
  have h5 : (!p.owns (BitVec.ofNat 16 (leNat (slice bs (8 * 0) 8))).toNat || (y.sched.latest pid (BitVec.ofNat 16 (leNat (slice bs (8 * 0) 8)))).any (·.st == .active)) = false := h5
  have h : (⟨leNat (slice bs (8 * 0) 8) / 65536 % 4, Nat.mod_lt _ (by decide)⟩ : Fin 4) = 0 := Fin.ext h
  simp only [predOf, recW, recPred] at h6
  unfold acceptRecord
  simp only [hb, Bool.false_eq_true, if_false, hd, h4, h5, h6, h, hc, Bool.not_false, Bool.true_and, if_true, decide_true]

/-- An accepted record: the launch that it appends. -/
theorem accept_launch (h : recW bs 0 / 65536 % 4 ≠ 0 ∨ p.c0 = true) : ∃ l : Launch,
    acceptRecord dn d false p pid bs =
      (if l.preds.any (fun x => (({ y with sched := { y.sched with launches := y.sched.launches ++ [l], nextId := y.sched.nextId + 1 } } : Die).sched.launch x.1).any (·.st == .failed))
       then (1, Die.failMark dn { y with sched := { y.sched with launches := y.sched.launches ++ [l], nextId := y.sched.nextId + 1 } } false l.id)
       else (1, if l.cnt = 0 then Die.nodeReady dn { y with sched := { y.sched with launches := y.sched.launches ++ [l], nextId := y.sched.nextId + 1 } } l.id
                else { y with sched := { y.sched with launches := y.sched.launches ++ [l], nextId := y.sched.nextId + 1 } })) ∧
    l.preds = (List.range (recW bs 9 % 32)).filterMap (fun j => (((predOf y pid bs).getD j none).map fun (m : Launch) => (m.id, recW bs 9 / 2 ^ (16 + j) % 2 == 1))) ∧
    l.cnt = (l.preds.filter fun q => !q.2 && !y.launchDone q.1).length ∧
    (l.id = y.sched.nextId ∧ l.pid = pid ∧ l.asid = p.asid ∧ l.node = recNode bs ∧ l.cls.val = recW bs 0 / 65536 % 4 ∧ l.shape = k.shape ∧ l.entry = k.entry ∧
      l.param = BitVec.ofNat 64 (recW bs 2) ∧ l.gx = recW bs 3 % 65536 ∧ l.gy = recW bs 3 / 65536 % 65536 ∧ l.gz = recW bs 3 / 2 ^ 32 ∧ l.teamsz = recW bs 4 % 16 ∧
      l.zw = recW bs 4 / 65536 % 65536 ∧ l.seed = BitVec.ofNat 32 (recW bs 5) ∧ l.blks = [] ∧ l.st = .active) := by
  obtain ⟨r, hr⟩ : ∃ r, acceptRecord dn d false p pid bs = r := ⟨_, rfl⟩
  rw [hr]
  unfold acceptRecord at hr
  extract_lets +onlyGivenNames w at hr
  have hd : readDesc dn d p.asid (w 1) = (some k, y) := hd
  rw [hb, if_neg Bool.false_ne_true, hd] at hr
  dsimp -zeta only at hr
  extract_lets +onlyGivenNames ts node np pn pl cls at hr
  have h4 : (!false && (decide (ts = 0) || decide (teamMax k.shape < ts))) = false := h4
  have h5 : (!false && (!p.owns node.toNat || (y.sched.latest pid node).any (·.st == .active))) = false := h5
  have h6 : (!false && ((List.range np).any (fun j => !p.owns (pn j).toNat) || pl.any Option.isNone)) = false := h6
  have h7 : (!false && decide (cls = 0) && !p.c0) = false := by
    rcases h with h | h
    · rw [decide_eq_false fun e => h (congrArg Fin.val e), Bool.and_false, Bool.false_and]
    · rw [h, Bool.not_true, Bool.and_false]
  rw [h4, h5, h6, h7, if_neg Bool.false_ne_true, if_neg Bool.false_ne_true, if_neg Bool.false_ne_true, if_neg Bool.false_ne_true] at hr
  extract_lets +onlyGivenNames preds m gx gy gz l z at hr
  exact ⟨l, hr.symm, rfl, rfl, rfl, rfl, rfl, rfl, rfl, rfl, rfl, rfl, rfl, rfl, rfl, rfl, rfl, rfl, rfl, rfl⟩
end Accept

/-! ### The conditions, as the statement writes them -/

section Conditions
variable {y : Die} {p : Proc} {pid : Byte} {bs : List Byte} {k : Desc}

theorem owns_iff {n : Nat} : p.owns n = true ↔ p.nbase ≤ n ∧ n < p.nbase + p.ncnt := by simp [Proc.owns]
theorem owns_false_iff {n : Nat} : (!p.owns n) = true ↔ ¬ (p.nbase ≤ n ∧ n < p.nbase + p.ncnt) := by rw [← owns_iff, Bool.not_eq_true', Bool.not_eq_true]

theorem badTeam_iff : (decide (recW bs 4 % 16 = 0) || decide (teamMax k.shape < recW bs 4 % 16)) = true ↔ recW bs 4 % 16 = 0 ∨ teamMax k.shape < recW bs 4 % 16 := by
  rw [Bool.or_eq_true, decide_eq_true_iff, decide_eq_true_iff]
theorem badNode_iff : (!p.owns (recNode bs).toNat || (y.sched.latest pid (recNode bs)).any (·.st == .active)) = true ↔
    ¬ (p.nbase ≤ (recNode bs).toNat ∧ (recNode bs).toNat < p.nbase + p.ncnt) ∨ ∃ l, y.sched.latest pid (recNode bs) = some l ∧ l.st = .active := by
  rw [Bool.or_eq_true, owns_false_iff, Option.any_eq_true]
  simp only [beq_iff_eq]
theorem badPred_iff : ((List.range (recW bs 9 % 32)).any (fun j => !p.owns (recPred bs j).toNat) || (predOf y pid bs).any Option.isNone) = true ↔
    ∃ j < recW bs 9 % 32, ¬ (p.nbase ≤ (recPred bs j).toNat ∧ (recPred bs j).toNat < p.nbase + p.ncnt) ∨ y.sched.latest pid (recPred bs j) = none := by
  rw [Bool.or_eq_true, List.any_eq_true, List.any_eq_true]
  simp only [owns_false_iff, predOf, List.mem_map, List.mem_range, Option.isNone_iff_eq_none]
  constructor
  · rintro (⟨j, hj, h⟩ | ⟨_, ⟨j, hj, rfl⟩, h⟩)
    · exact ⟨j, hj, .inl h⟩
    · exact ⟨j, hj, .inr h⟩
  · rintro ⟨j, hj, h | h⟩
    · exact .inl ⟨j, hj, h⟩
    · exact .inr ⟨_, ⟨j, hj, rfl⟩, h⟩

/-- Where every predecessor is a launch, each is kept. -/
theorem preds_length {α : Type} {g : Nat → Launch → α} (h : ∀ j < recW bs 9 % 32, y.sched.latest pid (recPred bs j) ≠ none) :
    ((List.range (recW bs 9 % 32)).filterMap fun j => ((predOf y pid bs).getD j none).map (g j)).length = recW bs 9 % 32 := by
  have hall : ∀ j ∈ List.range (recW bs 9 % 32), (((predOf y pid bs).getD j none).map (g j)).isSome = true := by
    intro j hj
    have hj' := List.mem_range.1 hj
    have hget : (predOf y pid bs).getD j none = y.sched.latest pid (recPred bs j) := by
      rw [predOf, List.getD_eq_getElem _ _ (by simpa using hj')]
      simp
    rw [hget, Option.isSome_map, Option.isSome_iff_ne_none]
    exact h j hj'
  rw [List.length_filterMap_eq_countP, List.countP_eq_length.2 hall, List.length_range]
end Conditions

/-- The record's checks after its descriptor, in their order (R308, R309). -/
theorem acceptRecord_checks {dn : DieId} {d y : Die} {p : Proc} {pid : Byte} {bs : List Byte} {k : Desc} (hb : recordBad bs = false) (hd : readDesc dn d p.asid (recW bs 1) = (some k, y)) :
    let own (n : Half) : Prop := p.nbase ≤ n.toNat ∧ n.toNat < p.nbase + p.ncnt
    (recW bs 4 % 16 = 0 ∨ teamMax k.shape < recW bs 4 % 16 → acceptRecord dn d false p pid bs = (4, y)) ∧
    (1 ≤ recW bs 4 % 16 → recW bs 4 % 16 ≤ teamMax k.shape →
      (¬ own (recNode bs) ∨ (∃ l, y.sched.latest pid (recNode bs) = some l ∧ l.st = .active) → acceptRecord dn d false p pid bs = (5, y)) ∧
      (own (recNode bs) → (∀ l, y.sched.latest pid (recNode bs) = some l → l.st ≠ .active) →
        ((∃ j < recW bs 9 % 32, ¬ own (recPred bs j) ∨ y.sched.latest pid (recPred bs j) = none) → acceptRecord dn d false p pid bs = (6, y)) ∧
        ((∀ j < recW bs 9 % 32, own (recPred bs j) ∧ y.sched.latest pid (recPred bs j) ≠ none) →
          (recW bs 0 / 65536 % 4 = 0 → p.c0 = false → acceptRecord dn d false p pid bs = (7, y)) ∧
          (recW bs 0 / 65536 % 4 ≠ 0 ∨ p.c0 = true → ∃ l : Launch, l.id = y.sched.nextId ∧ l.pid = pid ∧ l.asid = p.asid ∧ l.node = recNode bs ∧ l.cls.val = recW bs 0 / 65536 % 4 ∧ l.shape = k.shape ∧ l.entry = k.entry ∧
            l.param = BitVec.ofNat 64 (recW bs 2) ∧ l.gx = recW bs 3 % 65536 ∧ l.gy = recW bs 3 / 65536 % 65536 ∧ l.gz = recW bs 3 / 2 ^ 32 ∧ l.teamsz = recW bs 4 % 16 ∧ l.zw = recW bs 4 / 65536 % 65536 ∧ l.seed = BitVec.ofNat 32 (recW bs 5) ∧
            l.preds.length = recW bs 9 % 32 ∧ l.cnt = (l.preds.filter fun q => !q.2 && !y.launchDone q.1).length ∧ l.blks = [] ∧ l.st = .active ∧
            (let z : Die := { y with sched := { y.sched with launches := y.sched.launches ++ [l], nextId := y.sched.nextId + 1 } }
             (∀ q ∈ l.preds, ∀ m, z.sched.launch q.1 = some m → m.st ≠ .failed) → acceptRecord dn d false p pid bs = (1, if l.cnt = 0 then z.nodeReady dn l.id else z)))))) := by
  intro own
  refine ⟨fun h => accept_badTeam hb hd (badTeam_iff.2 h), fun hlo hhi => ?_⟩
  have h4 := Bool.eq_false_iff.2 fun h => (badTeam_iff (bs := bs) (k := k)).1 h |>.elim (fun h => absurd h (by omega)) fun h => absurd h (by omega)
  refine ⟨fun h => accept_badNode hb hd h4 (badNode_iff.2 h), fun hown hlat => ?_⟩
  have h5 := Bool.eq_false_iff.2 fun h => (badNode_iff (y := y) (p := p) (pid := pid) (bs := bs)).1 h |>.elim (fun h => h hown) fun ⟨l, hl, ha⟩ => hlat l hl ha
  refine ⟨fun h => accept_badPred hb hd h4 h5 (badPred_iff.2 h), fun hpred => ?_⟩
  have h6 := Bool.eq_false_iff.2 fun h => by
    obtain ⟨j, hj, h | h⟩ := (badPred_iff (y := y) (p := p) (pid := pid) (bs := bs)).1 h
    · exact h (hpred j hj).1
    · exact (hpred j hj).2 h
  refine ⟨accept_badClass hb hd h4 h5 h6, fun hc => ?_⟩
  obtain ⟨l, hr, hpreds, hcnt, hid, hpid, hasid, hnode, hcls, hshape, hentry, hparam, hgx, hgy, hgz, hts, hzw, hseed, hblks, hst⟩ := accept_launch hb hd h4 h5 h6 hc
  refine ⟨l, hid, hpid, hasid, hnode, hcls, hshape, hentry, hparam, hgx, hgy, hgz, hts, hzw, hseed, ?_, hcnt, hblks, hst, fun hfail => ?_⟩
  · rw [hpreds]
    exact preds_length fun j hj => (hpred j hj).2
  · have hno : ¬ (l.preds.any fun x => (({ y with sched := { y.sched with launches := y.sched.launches ++ [l], nextId := y.sched.nextId + 1 } } : Die).sched.launch x.1).any (·.st == .failed)) = true := by
      rw [List.any_eq_true]
      rintro ⟨q, hq, hany⟩
      obtain ⟨m, hm, hf⟩ := (Option.any_eq_true _ _).1 hany
      exact hfail q hq m hm (eq_of_beq hf)
    rw [hr, if_neg hno]

/-- Settles O42: a pass step by step (`kickPass_begins`, `kickStep_…`), and a record's checks in the order of their codes (`acceptRecord_checks`). -/
theorem kicksAndRecords : Obligations.KicksAndRecords := by
  unfold Obligations.KicksAndRecords
  refine ⟨⟨fun s d i => ?_, fun s d pid hp hj hst hgate hm hr hg hpass hk => ?_, fun s d pid tail off hp hj hon hm hr hg h => ?_, fun s d h => ?_⟩,
    ?_⟩
  · refine ⟨_, exec_kickset d i s, sameMem_modDie s d _ rfl, fun j => ?_⟩
    rw [modSched_die]
    dsimp only
    split
    case isTrue h =>
      rw [show j = ⟨i.toNat, i.isLt⟩ from Fin.ext h]
      exact vget_vset_same _ _ _
    case isFalse h => exact vget_vset_ne _ (fun e => h (congrArg Fin.val e).symm) _
  · intro u p
    have hon : (s.die d).schedOn d = true := by simp only [Die.schedOn, hst, Bool.not_false, Bool.true_or]
    have hx : exec (.kickPass d) s = .next (kickStep u d pid p.tail p.head) := by
      have hp' : p = (s.die d).proc d pid := by rw [← proc_modSched]
      rw [hp']
      exact (exec_kickPass d s).trans (kickPass_begins hp hj hon hm hr hg hgate hpass hk)
    refine ⟨?_, ?_, ?_, ?_⟩
    · intro c hc
      rw [hx, kickStep_skips rfl hc]
    · intro h he
      rw [hx, kickStep_empty rfl h he]
    · intro h he hb
      rw [hx, kickStep_poisoned rfl h he hb]
    · intro h he hb hpair code y ha hy at_ v
      rw [hx, kickStep_accepts rfl h he hb, acceptAt_alone hpair ha hy]
  · exact (exec_kickPass d s).trans (kickPass_goesOn hp hj hon hm hr hg h)
  · exact (exec_kickPass d s).trans (kickPass_idle h)
  · intro dn d y p pid bs k w node np pn own
    exact ⟨accept_reserved, accept_noDesc, acceptRecord_checks⟩

end Sys2Proof.Proofs
end

section
/-! SUPPORT. The registers of the register block, field by field (R4): what is read after a write. -/

namespace Sys2Proof.Proofs

open Sys2Proof Sys2Proof.Machine Sys2Proof.Laws

/-! ## A field of a word -/

theorem getLsbD_bits {lo len i : Nat} (hlen : 0 < len) (hi : i < 64) : (bits (lo + len - 1) lo).getLsbD i = (decide (lo ≤ i) && decide (i < lo + len)) := by
  have hpow : 2 ^ (lo + len - 1 + 1) - 2 ^ lo = (2 ^ len - 1) <<< lo := by
    rw [Nat.sub_add_cancel (by omega), Nat.shiftLeft_eq, Nat.sub_mul, Nat.one_mul, Nat.add_comm, Nat.pow_add]
  rw [bits, hpow, BitVec.getLsbD_ofNat, Nat.testBit_shiftLeft, Nat.testBit_two_pow_sub_one, decide_eq_true hi, Bool.true_and]
  by_cases h : lo ≤ i
  · rw [decide_eq_true h, Bool.true_and, Bool.true_and]
    exact decide_eq_decide.2 (by omega)
  · rw [decide_eq_false h, Bool.false_and, Bool.false_and]

/-- The bits of a word with one field replaced. -/
theorem getLsbD_putFld {w : Word} {lo len v i : Nat} (hlen : 0 < len) (hi : i < 64) :
    (putFld w lo len v).getLsbD i = if lo ≤ i ∧ i < lo + len then v.testBit (i - lo) else w.getLsbD i := by
  rw [putFld, BitVec.getLsbD_or, BitVec.getLsbD_and, BitVec.getLsbD_not, getLsbD_bits hlen hi, BitVec.getLsbD_shiftLeft, BitVec.getLsbD_ofNat, Nat.testBit_mod_two_pow, decide_eq_true hi]
  by_cases h1 : lo ≤ i
  · by_cases h2 : i < lo + len
    · have h3 : i - lo < len := by omega
      have h4 : i - lo < 64 := by omega
      simp [h1, h2, h3, h4, Nat.not_lt.2 h1]
    · have h3 : ¬ i - lo < len := by omega
      simp [h1, h2, h3]
  · simp [h1, Nat.lt_of_not_le h1]

theorem fld_eq_of_bits {w x : Word} {lo len : Nat} (h : ∀ i < len, w.getLsbD (lo + i) = x.getLsbD (lo + i)) : fld w lo len = fld x lo len := by
  refine congrArg BitVec.toNat (BitVec.eq_of_getLsbD_eq fun i hi => ?_)
  simp only [BitVec.getLsbD_extractLsb', hi, decide_true, Bool.true_and]
  exact h i hi
theorem fld_lt (w : Word) (lo len : Nat) : fld w lo len < 2 ^ len := BitVec.isLt _

theorem fld_putFld_same {w : Word} {lo len v : Nat} (hlen : 0 < len) (hw : lo + len ≤ 64) : fld (putFld w lo len v) lo len = v % 2 ^ len := by
  have h : (putFld w lo len v).extractLsb' lo len = BitVec.ofNat len v := by
    refine BitVec.eq_of_getLsbD_eq fun i hi => ?_
    simp only [BitVec.getLsbD_extractLsb', BitVec.getLsbD_ofNat, hi, decide_true, Bool.true_and]
    rw [getLsbD_putFld hlen (by omega), if_pos ⟨by omega, by omega⟩, Nat.add_sub_cancel_left]
  rw [fld, h, BitVec.toNat_ofNat]
theorem fld_putFld_disjoint {w : Word} {lo len v a n : Nat} (hlen : 0 < len) (h : a + n ≤ lo ∨ lo + len ≤ a) : fld (putFld w lo len v) a n = fld w a n := by
  refine fld_eq_of_bits fun i hi => ?_
  by_cases h64 : a + i < 64
  · rw [getLsbD_putFld hlen h64, if_neg (by omega)]
  · rw [BitVec.getLsbD_of_ge _ _ (by omega), BitVec.getLsbD_of_ge _ _ (by omega)]
theorem fld_one {w : Word} {i : Nat} : fld w i 1 = boolNat (bitAt w i) := by
  rw [fld_eq, bitAt_eq, Nat.pow_one]
  have := Nat.mod_lt (w.toNat / 2 ^ i) (by decide : 0 < 2)
  by_cases h : w.toNat / 2 ^ i % 2 = 1
  · rw [h]
    rfl
  · rw [decide_eq_false h]
    change _ = 0
    omega
theorem bitAt_iff_fld {w : Word} {i : Nat} : bitAt w i = true ↔ fld w i 1 = 1 := by rw [fld_eq, bitAt_eq, decide_eq_true_iff, Nat.pow_one]

/-! ## A register -/

section Reg
variable (d : Die) (dn : DieId)

theorem find?_regIns_ne (l : Sparse Word) {off o : Nat} (v : Word) (h : off ≠ o) : (regIns l off v).find? (fun e => e.1 == o) = l.find? (fun e => e.1 == o) := by
  have hoff : ((off, v).1 == o) = false := beq_false_of_ne h
  induction l with
  | nil => simp [regIns, h]
  | cons a r ih =>
    obtain ⟨k, w⟩ := a
    unfold regIns
    split
    · rw [List.find?_cons_of_neg (by simpa using h)]
    · split
      · next hk =>
        subst hk
        rw [List.find?_cons_of_neg (by simpa using h), List.find?_cons_of_neg (by simpa using h)]
      · simp only [List.find?_cons, ih]
theorem getReg_setReg_ne {off o : Nat} (v : Word) (h : off ≠ o) : (d.setReg off v).getReg dn o = d.getReg dn o := by
  simp only [Die.getReg, Die.reg?, Die.setReg, find?_regIns_ne _ v h]
theorem getReg_addReg (off : Nat) (v : Word) : (d.addReg dn off v).getReg dn off = d.getReg dn off + v := getReg_setReg _ _ _ _
theorem getReg_addReg_ne {off o : Nat} (v : Word) (h : off ≠ o) : (d.addReg dn off v).getReg dn o = d.getReg dn o := getReg_setReg_ne _ _ _ h
theorem getReg_setRf_ne {off o lo len v : Nat} (h : off ≠ o) : (d.setRf dn off lo len v).getReg dn o = d.getReg dn o := getReg_setReg_ne _ _ _ h
theorem rf_setRf {off lo len v : Nat} (hlen : 0 < len) (hw : lo + len ≤ 64) : (d.setRf dn off lo len v).rf dn off lo len = v % 2 ^ len := by
  rw [Die.rf, getReg_setRf]
  exact fld_putFld_same hlen hw
theorem rf_setRf_disjoint {off lo len v a n : Nat} (hlen : 0 < len) (h : a + n ≤ lo ∨ lo + len ≤ a) : (d.setRf dn off lo len v).rf dn off a n = d.rf dn off a n := by
  rw [Die.rf, getReg_setRf]
  exact fld_putFld_disjoint hlen h
theorem rf_setRf_ne {off o lo len v a n : Nat} (h : off ≠ o) : (d.setRf dn off lo len v).rf dn o a n = d.rf dn o a n := congrArg (fun r => fld r a n) (getReg_setRf_ne d dn h)
theorem getReg_congr {y z : Die} (h : y.reg = z.reg) (o : Nat) : y.getReg dn o = z.getReg dn o := by simp only [Die.getReg, Die.reg?, h]
theorem rf_congr {y z : Die} (h : y.reg = z.reg) (o a n : Nat) : y.rf dn o a n = z.rf dn o a n := congrArg (fun r => fld r a n) (getReg_congr dn h o)
end Reg

/-! ## The trace changes no register but its pointer -/

section Trace
variable {dn : DieId} {o : Nat} (ho : rTRCPTR ≠ o)
include ho

theorem getReg_trcBytes (bs : List Byte) (d : Die) : (trcBytes dn d bs).getReg dn o = d.getReg dn o := by
  induction bs generalizing d with
  | nil => rfl
  | cons b bs ih =>
    refine (ih _).trans ?_
    dsimp only
    split
    · exact getReg_setRf_ne _ _ ho
    · exact (getReg_setRf_ne _ _ ho).trans (getReg_setRf_ne _ _ ho)
theorem getReg_trcResync (d : Die) : (trcResync dn d).getReg dn o = d.getReg dn o := getReg_trcBytes ho _ _
theorem getReg_trcPut (d : Die) (kind : Nat) (bs : List Byte) : (trcPut dn d kind bs).getReg dn o = d.getReg dn o := getReg_trcBytes ho _ _
theorem getReg_trcSync (d : Die) : (trcSync dn d).getReg dn o = d.getReg dn o := by
  have hone (y : Die) (b : Bool) : (if b then trcResync dn y else y).getReg dn o = y.getReg dn o := by
    cases b
    · rfl
    · exact getReg_trcResync ho y
  unfold trcSync
  exact (hone _ _).trans (hone _ _)
theorem getReg_trcRecord (d : Die) (kind : Nat) (bs : List Byte) : (trcRecord dn d kind bs).getReg dn o = d.getReg dn o := by
  unfold trcRecord
  split
  · rfl
  · split
    · rfl
    · refine (getReg_trcPut ho _ _ _).trans ?_
      have h1 : (trcSync dn { d with trace := { d.trace with lost := 0 } }).getReg dn o = d.getReg dn o := getReg_trcSync ho _
      split
      · exact h1
      · exact (getReg_trcSync ho _).trans ((getReg_trcPut ho _ _ _).trans h1)
end Trace

end Sys2Proof.Proofs
end

section
/-! SUPPORT. Grant levels, margining, refresh and scrubbing (O49). -/

namespace Sys2Proof.Proofs

open Sys2Proof Sys2Proof.Machine Sys2Proof.Laws

theorem modDie_self {s : State} {d : DieId} {f : Die → Die} (h : f (s.die d) = s.die d) : s.modDie d f = s := by
  have := congrArg (fun v => { s with dies := v }) (vmod_self s.dies d f h)
  exact this

/-! ## The grant level (R333, R335) -/

section Level
variable {d : Die} {dn : DieId} {lvl : Nat}

/-- The new level stands in `PGRANT`. -/
theorem setLevel_level (h : lvl < 4) : (d.setLevel dn lvl).rf dn rPGRANT 0 2 = lvl := by
  unfold Die.setLevel
  split
  case isTrue heq => exact heq
  case isFalse =>
    rw [Die.rf, getReg_trcRecord (by decide)]
    change Die.rf _ dn rPGRANT 0 2 = lvl
    rw [rf_setRf_disjoint _ _ (by decide) (by decide), rf_setRf_disjoint _ _ (by decide) (by decide), rf_setRf _ _ (by decide) (by decide)]
    exact Nat.mod_eq_of_lt h
/-- The thermal floor's bit is left as it is. -/
theorem setLevel_thm : (d.setLevel dn lvl).rf dn rPGRANT 2 1 = d.rf dn rPGRANT 2 1 := by
  unfold Die.setLevel
  split
  case isTrue => rfl
  case isFalse =>
    rw [Die.rf, getReg_trcRecord (by decide)]
    change Die.rf _ dn rPGRANT 2 1 = _
    rw [rf_setRf_disjoint _ _ (by decide) (by decide), rf_setRf_disjoint _ _ (by decide) (by decide), rf_setRf_disjoint _ _ (by decide) (by decide)]
theorem traceKeeps_grantAge : TraceKeeps Die.grantAge := ⟨fun _ _ _ _ => rfl, fun _ _ _ => rfl, fun _ _ => rfl⟩
theorem setLevel_grantAge : (d.setLevel dn lvl).grantAge = d.grantAge := by
  unfold Die.setLevel
  split
  · rfl
  · exact trcRecord_keeps traceKeeps_grantAge _ _ _ _

/-- The thermal floor is given up below 100 degrees. -/
def thmOff (dn : DieId) (h : Nat) (y : Die) : Die := if h < 100 then y.setRf dn rPGRANT 2 1 0 else y
theorem thmOff_level {h : Nat} : (thmOff dn h d).rf dn rPGRANT 0 2 = d.rf dn rPGRANT 0 2 := by
  unfold thmOff
  split
  · exact rf_setRf_disjoint _ _ (by decide) (by decide)
  · rfl
theorem thmOff_thm {h : Nat} : (thmOff dn h d).rf dn rPGRANT 2 1 = if h < 100 then 0 else d.rf dn rPGRANT 2 1 := by
  unfold thmOff
  split
  · exact rf_setRf _ _ (by decide) (by decide)
  · rfl
theorem thmOff_grantAge {h : Nat} : (thmOff dn h d).grantAge = d.grantAge := by
  unfold thmOff
  split <;> rfl

/-- The end of a grant window, after the thermal floor has been given up or kept (R333). -/
def shareStep (dn : DieId) (share w lvl : Nat) (y : Die) : Die :=
  if share < w then y.setLevel dn (min 3 (lvl + 1)) else if w * 100 < share * 80 && 0 < lvl then y.setLevel dn (lvl - 1) else y
theorem shareStep_level {share w : Nat} (hl : d.rf dn rPGRANT 0 2 = lvl) : (shareStep dn share w lvl d).rf dn rPGRANT 0 2 =
    if share < w then min 3 (lvl + 1) else if w * 100 < share * 80 ∧ 0 < lvl then lvl - 1 else lvl := by
  have h4 : lvl < 4 := hl ▸ fld_lt _ _ _
  simp only [shareStep, Bool.and_eq_true, decide_eq_true_eq]
  split
  · exact setLevel_level (by omega)
  · split
    · exact setLevel_level (by omega)
    · exact hl
theorem shareStep_thm {share w : Nat} : (shareStep dn share w lvl d).rf dn rPGRANT 2 1 = d.rf dn rPGRANT 2 1 := by
  unfold shareStep
  split
  · exact setLevel_thm
  · split
    · exact setLevel_thm
    · rfl
theorem shareStep_grantAge {share w : Nat} : (shareStep dn share w lvl d).grantAge = d.grantAge := by
  unfold shareStep
  split
  · exact setLevel_grantAge
  · split
    · exact setLevel_grantAge
    · rfl

/-- What the end of a grant window makes of a die. -/
def grantStep (dn : DieId) (w h : Nat) (y : Die) : Die :=
  let z := { y with grantAge := 0 }
  let lvl := y.rf dn rPGRANT 0 2
  if 105 ≤ h then (z.setRf dn rPGRANT 2 1 1).setLevel dn (max lvl 2)
  else shareStep dn (if y.rf dn rPGRANT 4 1 = 1 then 325 else 450) w lvl (thmOff dn h z)

theorem grantWindowEnd_ends {s : State} {w h : Nat} (ha : 10000 ≤ (s.die dn).grantAge) : execGrantWindowEnd dn w h s = .next (s.modDie dn (grantStep dn w h)) := by
  unfold execGrantWindowEnd
  rw [if_neg (show ¬ (s.die dn).grantAge < grantWindow from Nat.not_lt.2 ha)]
  rfl
theorem grantStep_grantAge {w h : Nat} : (grantStep dn w h d).grantAge = 0 := by
  unfold grantStep
  dsimp only
  split
  · exact setLevel_grantAge
  · rw [shareStep_grantAge, thmOff_grantAge]
theorem grantStep_level {w h : Nat} : (grantStep dn w h d).rf dn rPGRANT 0 2 =
    let lvl := d.rf dn rPGRANT 0 2
    let share := if d.rf dn rPGRANT 4 1 = 1 then 325 else 450
    if 105 ≤ h then max lvl 2 else if share < w then min 3 (lvl + 1) else if w * 100 < share * 80 ∧ 0 < lvl then lvl - 1 else lvl := by
  have h4 : d.rf dn rPGRANT 0 2 < 4 := fld_lt _ _ _
  unfold grantStep
  dsimp only
  split
  · exact setLevel_level (by omega)
  · exact shareStep_level thmOff_level
theorem grantStep_thm {w h : Nat} : (grantStep dn w h d).rf dn rPGRANT 2 1 = if 105 ≤ h then 1 else if h < 100 then 0 else d.rf dn rPGRANT 2 1 := by
  unfold grantStep
  dsimp only
  split
  · rw [setLevel_thm]
    exact rf_setRf _ _ (by decide) (by decide)
  · rw [shareStep_thm, thmOff_thm]
    rfl

end Level

/-! ## A margin window (R337, R338) -/

section Margin
variable {d : DieId} {s : State} {b : Fin 4}

theorem margRuns_iff {y : Die} : y.margRuns d b = true ↔ y.bandOn d b = true ∧ y.rf d (rMARG + 8 * b.val) 16 1 = 1 ∧ y.rf d (rMARG + 8 * b.val) 18 1 = 0 := by
  have h0 : (!bitAt (y.getReg d (rMARG + 8 * b.val)) 18) = true ↔ y.rf d (rMARG + 8 * b.val) 18 1 = 0 := by
    rw [Die.rf, fld_one]
    cases bitAt (y.getReg d (rMARG + 8 * b.val)) 18 <;> simp [boolNat]
  rw [Die.margRuns, Bool.and_eq_true, Bool.and_eq_true, h0, bitAt_iff_fld, and_assoc]
  rfl
theorem marginWindowEnd_early (h : ¬ ((s.die d).margRuns d b = true ∧ 2 ^ 20 ≤ (vget (s.die d).bands b).mw)) : execMarginWindowEnd d b s = .next s := by
  have hcond : (!(s.die d).margRuns d b || decide ((vget (s.die d).bands b).mw < marginWindow)) = true := by
    rw [Bool.or_eq_true, Bool.not_eq_true', decide_eq_true_iff]
    by_cases hr : (s.die d).margRuns d b = true
    · exact .inr (Nat.lt_of_not_le fun hm => h ⟨hr, hm⟩)
    · exact .inl (Bool.eq_false_iff.2 hr)
  unfold execMarginWindowEnd
  dsimp only
  rw [if_pos hcond]

/-- The step after a margin window. -/
def margNew (d : DieId) (b : Fin 4) (y : Die) : Nat :=
  if (vget y.bands b).ce = 0 ∧ y.rf d (rMARG + 8 * b.val) 0 8 < min 40 (y.rf d (rMARG + 8 * b.val) 8 8) then y.rf d (rMARG + 8 * b.val) 0 8 + 1
  else if y.rf d (rMARG + 8 * b.val) 24 8 ≤ (vget y.bands b).ce then y.rf d (rMARG + 8 * b.val) 0 8 - 2 else y.rf d (rMARG + 8 * b.val) 0 8
theorem margNew_lt {y : Die} : margNew d b y < 2 ^ 8 := by
  have h : y.rf d (rMARG + 8 * b.val) 0 8 < 2 ^ 8 := fld_lt _ _ _
  unfold margNew
  split
  · omega
  · split <;> omega
theorem marginWindowEnd_ends (hr : (s.die d).margRuns d b = true) (hm : 2 ^ 20 ≤ (vget (s.die d).bands b).mw) :
    execMarginWindowEnd d b s = .next (s.modDie d fun y => (y.setRf d (rMARG + 8 * b.val) 0 8 (margNew d b (s.die d))).modBand b Band.newWindow) := by
  have hcond : (!(s.die d).margRuns d b || decide ((vget (s.die d).bands b).mw < marginWindow)) = false := by
    rw [hr, decide_eq_false (show ¬ _ < marginWindow from Nat.not_lt.2 hm)]
    rfl
  unfold execMarginWindowEnd
  dsimp only
  rw [hcond, if_neg Bool.false_ne_true]
  simp only [Bool.and_eq_true, decide_eq_true_eq]
  rfl
end Margin

/-! ## The refresh rate of a bank (R339, R340) -/

/-- Where the reading lies between the boundaries of one rate, either way, that rate is set. -/
theorem rateFor_val {r : Fin 4} {t n : Nat} (hn : n < 4) (hu : (if t < 45 then 0 else if t < 85 then 1 else if t < 95 then 2 else 3) = n)
    (hd : (if t < 43 then 0 else if t < 83 then 1 else if t < 93 then 2 else 3) = n) : (rateFor r t).val = n := by
  simp only [rateFor, hu, hd]
  split
  · omega
  · split <;> omega
theorem rateFor_cold {r : Fin 4} {t : Nat} (h : t < 43) : rateFor r t = 0 :=
  Fin.ext (rateFor_val (by decide) (if_pos (by omega)) (if_pos h))
theorem rateFor_mild {r : Fin 4} {t : Nat} (h : 45 ≤ t) (h' : t < 83) : rateFor r t = 1 :=
  Fin.ext (rateFor_val (by decide) ((if_neg (by omega)).trans (if_pos (by omega))) ((if_neg (by omega)).trans (if_pos h')))
theorem rateFor_warm {r : Fin 4} {t : Nat} (h : 85 ≤ t) (h' : t < 93) : rateFor r t = 2 :=
  Fin.ext (rateFor_val (by decide) ((if_neg (by omega)).trans ((if_neg (by omega)).trans (if_pos (by omega)))) ((if_neg (by omega)).trans ((if_neg (by omega)).trans (if_pos h'))))
theorem rateFor_hot {r : Fin 4} {t : Nat} (h : 95 ≤ t) : rateFor r t = 3 :=
  Fin.ext (rateFor_val (by decide) ((if_neg (by omega)).trans ((if_neg (by omega)).trans (if_neg (by omega)))) ((if_neg (by omega)).trans ((if_neg (by omega)).trans (if_neg (by omega)))))

/-! ## The turn of a row, and a line that is scrubbed (R340, R396) -/

section Rows
variable {s : State} {d : DieId}

theorem skips_iff {ls free : List Nat} : (!ls.isEmpty && ls.all fun l => setHas free l) = true ↔ ls ≠ [] ∧ ∀ l ∈ ls, setHas free l = true := by
  rw [Bool.and_eq_true, Bool.not_eq_true', List.all_eq_true, ← Bool.not_eq_true, List.isEmpty_iff]

theorem countCe_mem {y : Die} {k : Nat} : (y.countCe d k).mem = y.mem := rfl
theorem countUe_mem {y : Die} {k pa : Nat} {r : Bool} : (y.countUe d k pa r).mem = y.mem := by
  unfold Die.countUe
  dsimp only
  split <;> rfl
theorem meet_mem {y : Die} {pa : Nat} {e : StoreErr} : (y.meet d pa e).mem = y.mem := by
  unfold Die.meet
  cases e with
  | ok => rfl
  | corrected k => rfl
  | cleanDropped k =>
    dsimp only
    split
    · rfl
    · exact countUe_mem
  | uncorrectable k => exact countUe_mem
  | beneath =>
    dsimp only
    split
    · rfl
    · exact countUe_mem

theorem scrub_skips {line : Nat} {e : StoreErr} (h : ((s.die d).rf d rMEMCTL 1 1 = 0 || setHas (s.die d).free line || !isMem (128 * line) 128) = true) : execScrub d line e s = .next s := by
  unfold execScrub
  dsimp only
  rw [if_pos h]
theorem scrub_meets {line : Nat} {e : StoreErr} (h : (decide ((s.die d).rf d rMEMCTL 1 1 = 0) || setHas (s.die d).free line || !isMem (128 * line) 128) = false) :
    execScrub d line e s = .next (s.modDie d fun y => y.meet d (128 * line) e) := by
  unfold execScrub
  dsimp only
  rw [h, if_neg Bool.false_ne_true]
theorem scrub_found {line : Nat} {e : StoreErr} (hc : (s.die d).rf d rMEMCTL 1 1 ≠ 0) (hf : setHas (s.die d).free line = false) (hm : isMem (128 * line) 128 = true) :
    execScrub d line e s = .next (s.modDie d fun y => y.meet d (128 * line) e) := by
  refine scrub_meets ?_
  rw [decide_eq_false hc, hf, hm]
  rfl
/-- Whatever the scrubber meets, the bytes stay, and without an error so does all. -/
theorem scrub_ends {line : Nat} {e : StoreErr} : ∃ t, execScrub d line e s = .next t ∧ SameMem s t ∧ (e = .ok → t = s) ∧ (setHas (s.die d).free line = true → t = s) := by
  cases h : (decide ((s.die d).rf d rMEMCTL 1 1 = 0) || setHas (s.die d).free line || !isMem (128 * line) 128) with
  | true => exact ⟨s, scrub_skips h, SameMem.refl s, fun _ => rfl, fun _ => rfl⟩
  | false =>
    refine ⟨_, scrub_meets h, sameMem_modDie s d _ meet_mem, ?_, fun hf => ?_⟩
    · rintro rfl
      exact modDie_self rfl
    · rw [hf, Bool.or_true, Bool.true_or] at h
      exact absurd h (by decide)
theorem setHas_setIns {l : List Nat} {a : Nat} : setHas (setIns l a) a = true := by
  rw [setHas, List.any_eq_true]
  exact ⟨a, mem_setIns.2 (.inl rfl), beq_self_eq_true a⟩
end Rows

/-- Settles O49: the end of a grant window (`grantStep_level`, `grantStep_thm`), of a margin window (`margNew`), the rate of a bank (`rateFor_val`), a row's turn and a scrubbed line. -/
theorem levelsFollowTheirWindows : Obligations.LevelsFollowTheirWindows := by
  unfold Obligations.LevelsFollowTheirWindows
  refine ⟨fun s d w h => ⟨fun ha => ?_, fun ha => ?_⟩, fun s d b => ?_, fun s d bank temp => ?_, fun s d row => ?_, fun s d line e => ?_⟩
  · exact (exec_grantWindowEnd d w h s).trans (if_pos ha)
  · refine ⟨_, (exec_grantWindowEnd d w h s).trans (grantWindowEnd_ends ha), ?_⟩
    rw [State.die_modDie_same]
    exact ⟨grantStep_grantAge, grantStep_level, grantStep_thm⟩
  · intro o step c runs
    refine ⟨fun hr => ?_, fun hr => ?_, ?_⟩
    · refine (exec_marginWindowEnd d b s).trans (marginWindowEnd_early fun h => hr ?_)
      obtain ⟨hon, hen, hhold⟩ := margRuns_iff.1 h.1
      exact ⟨hon, hen, hhold, h.2⟩
    · obtain ⟨hon, hen, hhold, hm⟩ := hr
      refine ⟨_, (exec_marginWindowEnd d b s).trans (marginWindowEnd_ends (margRuns_iff.2 ⟨hon, hen, hhold⟩) hm), sameMem_modDie s d _ rfl, ?_⟩
      rw [State.die_modDie_same]
      refine ⟨congrArg Band.ce (vget_vmod_same _ _ _), congrArg Band.mw (vget_vmod_same _ _ _), ?_⟩
      exact (rf_setRf _ _ (by decide) (by decide)).trans (Nat.mod_eq_of_lt margNew_lt)
    · refine ⟨_, exec_margRecal d b s, sameMem_modDie s d _ rfl, ?_⟩
      rw [State.die_modDie_same]
      refine ⟨rf_setRf _ _ (by decide) (by decide), ?_, congrArg Band.ce (vget_vmod_same _ _ _), congrArg Band.mw (vget_vmod_same _ _ _)⟩
      exact (rf_setRf_disjoint _ _ (by decide) (by decide)).trans (rf_setRf _ _ (by decide) (by decide))
  · refine ⟨_, exec_refreshRateChange d bank temp s, sameMem_modDie s d _ rfl, ?_⟩
    rw [State.die_modDie_same]
    have hrate : vget (vmod (s.die d).bankRate bank fun r => rateFor r temp) bank = rateFor (vget (s.die d).bankRate bank) temp := vget_vmod_same _ _ _
    exact ⟨vget_vset_same _ _ _, fun h => hrate.trans (rateFor_hot h), fun h => hrate.trans (rateFor_cold h), fun h h' => hrate.trans (rateFor_warm h h'),
      fun h h' => hrate.trans (rateFor_mild h h'), fun j hj => vget_vmod_ne _ (Ne.symm hj) _⟩
  · refine ⟨_, exec_dramRefresh d row s, sameMem_modDie s d _ rfl, ?_⟩
    rw [State.die_modDie_same]
    intro skip
    refine ⟨fun h => ?_, fun h => ?_⟩
    · rw [if_pos (skips_iff.2 h)]
      exact ⟨getReg_addReg _ _ _ _, getReg_addReg_ne _ _ _ (by decide)⟩
    · rw [if_neg fun hc => h (skips_iff.1 hc)]
      exact ⟨getReg_addReg _ _ _ _, getReg_addReg_ne _ _ _ (by decide)⟩
  · obtain ⟨t, ht, hmem, hok, hfree⟩ := scrub_ends (s := s) (d := d) (line := line) (e := e)
    refine ⟨t, (exec_scrub d line e s).trans ht, hmem, hok, hfree, fun i he hc hf hm => ?_, fun i he hc hf hm => ?_⟩
    · subst he
      exact Host.Outcome.next.inj (ht.symm.trans (scrub_found hc hf hm))
    · subst he
      rw [Host.Outcome.next.inj (ht.symm.trans (scrub_found hc hf hm)), State.die_modDie_same]
      have hline : lineOf (128 * line) = line := by simp [lineOf]
      change setHas (setIns (Die.psn _) (lineOf (128 * line))) line = true
      rw [hline]
      exact setHas_setIns

end Sys2Proof.Proofs
end

section
/-! SUPPORT. The balance of a string: an undivided cycle, the end of its window, timing replays (O48). -/

namespace Sys2Proof.Proofs

open Sys2Proof Sys2Proof.Machine Sys2Proof.Laws

/-! ## A cycle that issues (R54 to R56) -/

section Balance
variable {dn : DieId} {b : Fin 4}

theorem countSlot_reg (y : Die) (dn : DieId) (k : SlotId) (ev n : Nat) : (y.countSlot dn k ev n).reg = y.reg := by
  unfold Die.countSlot
  split <;> rfl
theorem countOwn_bands (y : Die) (dn : DieId) (k : SlotId) (ev : Nat) : (y.countOwn dn k ev).bands = y.bands := by
  unfold Die.countOwn
  split
  · have := congrArg Die.bands (countSlot_rest y dn k ev 1)
    exact this
  · rfl
theorem countOwn_getReg (y : Die) (dn : DieId) (k : SlotId) (ev o : Nat) : (y.countOwn dn k ev).getReg dn o = y.getReg dn o := by
  unfold Die.countOwn
  split
  · exact getReg_congr dn (countSlot_reg _ _ _ _ _) o
  · rfl
theorem countOwn_w (y : Die) (dn : DieId) (k j : SlotId) (ev : Nat) : ((y.countOwn dn k ev).slot j).w = (y.slot j).w := by
  unfold Die.countOwn
  split
  · exact countSlot_keep Slot.w (fun _ _ => rfl) y dn k j ev 1
  · rfl

/-- A fog pulse into one half is counted. -/
def fogged (dn : DieId) (b : Fin 4) (fog : Option Bool) (y : Die) : Die :=
  match fog with
  | some right => (y.addReg dn (rFOGCNT + 8 * b.val) 1).countOwn dn (if right then (bandSlots b).2 else (bandSlots b).1) 3
  | none => y
/-- A cycle of a divided string is counted. -/
def throttled (dn : DieId) (b : Fin 4) (div : Nat) (y : Die) : Die :=
  if div = 1 then y else ((y.addReg dn (rTHRCNT + 8 * b.val) 1).countOwn dn (bandSlots b).1 4).countOwn dn (bandSlots b).2 4
/-- The passes of both halves have been streamed. -/
def streamed (b : Fin 4) (y : Die) : Die := (y.modSlot (bandSlots b).1 fun t => { t with w := 0 }).modSlot (bandSlots b).2 fun t => { t with w := 0 }
/-- The band after a cycle that has found the imbalance `im`. -/
def Band.cycled (im : Int × Option Bool) (z : Band) : Band :=
  let z := { z with cyc := z.cyc + 1, sum := z.sum + im.1, fog := z.fog || im.2.isSome, phase := (z.phase + 1) % 4, divFor := if z.div = 1 then 0 else z.divFor + 1 }
  if z.div = 1 && 20 < im.1.natAbs then { z with div := 2, divFor := 0, low := 0, phase := 1 } else z

theorem balanceControl_idle {s : State} (h : (s.die dn).bandOn dn b = false ∨ (vget (s.die dn).bands b).cyc = 64) : execBalanceControl dn b s = .next s := by
  have hc : (!(s.die dn).bandOn dn b || decide ((vget (s.die dn).bands b).cyc = 64)) = true := by
    rw [Bool.or_eq_true, Bool.not_eq_true', decide_eq_true_iff]
    exact h
  unfold execBalanceControl
  dsimp only
  rw [if_pos hc]
theorem balanceControl_issues {s : State} (hon : (s.die dn).bandOn dn b = true) (hc : (vget (s.die dn).bands b).cyc ≠ 64) (hi : (vget (s.die dn).bands b).phase % (vget (s.die dn).bands b).div = 0) :
    execBalanceControl dn b s = .next (s.modDie dn fun y =>
      (throttled dn b (vget (s.die dn).bands b).div (fogged dn b (balance ((s.die dn).slot (bandSlots b).1).w ((s.die dn).slot (bandSlots b).2).w).2 (streamed b y))).modBand b
        (Band.cycled (balance ((s.die dn).slot (bandSlots b).1).w ((s.die dn).slot (bandSlots b).2).w))) := by
  have hcond : (!(s.die dn).bandOn dn b || decide ((vget (s.die dn).bands b).cyc = 64)) = false := by
    rw [hon, decide_eq_false hc]
    rfl
  unfold execBalanceControl
  dsimp only
  rw [hcond, if_neg Bool.false_ne_true]
  simp only [hi, if_true]
  rfl

/-- What a counting step keeps: the passes' estimates and the bands; the registers but the counters. -/
theorem fogged_w (fog : Option Bool) (y : Die) (j : SlotId) : ((fogged dn b fog y).slot j).w = (y.slot j).w := by
  cases fog with
  | none => rfl
  | some r => exact countOwn_w _ _ _ _ _
theorem throttled_w (n : Nat) (y : Die) (j : SlotId) : ((throttled dn b n y).slot j).w = (y.slot j).w := by
  unfold throttled
  split
  · rfl
  · exact (countOwn_w _ _ _ _ _).trans (countOwn_w _ _ _ _ _)
theorem fogged_bands (fog : Option Bool) (y : Die) : (fogged dn b fog y).bands = y.bands := by
  cases fog with
  | none => rfl
  | some r => exact countOwn_bands _ _ _ _
theorem throttled_bands (n : Nat) (y : Die) : (throttled dn b n y).bands = y.bands := by
  unfold throttled
  split
  · rfl
  · exact (countOwn_bands _ _ _ _).trans (countOwn_bands _ _ _ _)
theorem throttled_fogcnt (n : Nat) (y : Die) : (throttled dn b n y).getReg dn (rFOGCNT + 8 * b.val) = y.getReg dn (rFOGCNT + 8 * b.val) := by
  unfold throttled
  split
  · rfl
  · refine (countOwn_getReg _ _ _ _ _).trans ((countOwn_getReg _ _ _ _ _).trans (getReg_addReg_ne _ _ _ ?_))
    have := b.isLt
    unfold rTHRCNT rFOGCNT
    omega
theorem fogged_fogcnt (r : Bool) (y : Die) : (fogged dn b (some r) y).getReg dn (rFOGCNT + 8 * b.val) = y.getReg dn (rFOGCNT + 8 * b.val) + 1 :=
  (countOwn_getReg _ _ _ _ _).trans (getReg_addReg _ _ _ _)
theorem streamed_w (y : Die) (j : SlotId) (h : j = (bandSlots b).1 ∨ j = (bandSlots b).2) : ((streamed b y).slot j).w = 0 := by
  have hset (k j : SlotId) (y : Die) (h : k = j ∨ (y.slot j).w = 0) : ((y.modSlot k fun t => { t with w := 0 }).slot j).w = 0 := by
    change (vget (vmod y.slots k _) j).w = 0
    rw [vget_vmod]
    split
    · rfl
    · next hne => exact h.resolve_left hne
  refine hset _ _ _ ?_
  rcases h with h | h
  · exact .inr (hset _ _ _ (.inl h.symm))
  · exact .inl h.symm

/-- The imbalance that a cycle leaves. -/
theorem balance_low {l r : Nat} (h : ((l : Int) - r).natAbs ≤ 20) : balance l r = ((l : Int) - r, none) := by simp only [balance, h, if_true]
theorem balance_fog {l r : Nat} (h : 20 < ((l : Int) - r).natAbs) (h0 : l = 0 ∨ r = 0) : ∃ side, balance l r = (0, some side) := by
  unfold balance
  dsimp only
  rw [if_neg (Nat.not_le.2 h)]
  by_cases hl : l = 0
  · exact ⟨false, if_pos hl⟩
  · exact ⟨true, (if_neg hl).trans (if_pos (h0.resolve_left hl))⟩
theorem balance_busy {l r : Nat} (h : 20 < ((l : Int) - r).natAbs) (hl : l ≠ 0) (hr : r ≠ 0) : balance l r = ((l : Int) - r, none) := by
  simp only [balance, Nat.not_le.2 h, hl, hr, if_false]

theorem cycled_cyc (im : Int × Option Bool) (z : Band) : (Band.cycled im z).cyc = z.cyc + 1 := by
  unfold Band.cycled
  dsimp only
  split <;> rfl
theorem cycled_sum (im : Int × Option Bool) (z : Band) : (Band.cycled im z).sum = z.sum + im.1 := by
  unfold Band.cycled
  dsimp only
  split <;> rfl
theorem cycled_fog (im : Int × Option Bool) (z : Band) : (Band.cycled im z).fog = (z.fog || im.2.isSome) := by
  unfold Band.cycled
  dsimp only
  split <;> rfl
theorem cycled_div_same {im : Int × Option Bool} (z : Band) (h : im.1.natAbs ≤ 20) : (Band.cycled im z).div = z.div := by
  unfold Band.cycled
  simp [Nat.not_lt.2 h]
theorem cycled_div_two {im : Int × Option Bool} {z : Band} (h : 20 < im.1.natAbs) (hz : z.div = 1) : (Band.cycled im z).div = 2 := by
  unfold Band.cycled
  simp [hz, h]

/-- A cycle in which the string issues: the passes are streamed, and the band goes one cycle on. -/
theorem balance_cycle {s : State} (hon : (s.die dn).bandOn dn b = true) (hc : (vget (s.die dn).bands b).cyc ≠ 64) (hi : (vget (s.die dn).bands b).phase % (vget (s.die dn).bands b).div = 0) :
    ∃ t, execBalanceControl dn b s = .next t ∧ (t.slot dn (bandSlots b).1).w = 0 ∧ (t.slot dn (bandSlots b).2).w = 0 ∧
      vget (t.die dn).bands b = Band.cycled (balance ((s.die dn).slot (bandSlots b).1).w ((s.die dn).slot (bandSlots b).2).w) (vget (s.die dn).bands b) ∧
      ((balance ((s.die dn).slot (bandSlots b).1).w ((s.die dn).slot (bandSlots b).2).w).2.isSome = true →
        (t.die dn).getReg dn (rFOGCNT + 8 * b.val) = (s.die dn).getReg dn (rFOGCNT + 8 * b.val) + 1) := by
  refine ⟨_, balanceControl_issues hon hc hi, ?_⟩
  simp only [State.slot, State.die_modDie_same]
  refine ⟨?_, ?_, ?_, fun h => ?_⟩
  · exact (throttled_w _ _ _).trans ((fogged_w _ _ _).trans (streamed_w _ _ (.inl rfl)))
  · exact (throttled_w _ _ _).trans ((fogged_w _ _ _).trans (streamed_w _ _ (.inr rfl)))
  · refine (vget_vmod_same _ _ _).trans (congrArg (fun v => Band.cycled _ (vget v b)) ?_)
    exact (throttled_bands _ _).trans (fogged_bands _ _)
  · obtain ⟨side, hside⟩ := Option.isSome_iff_exists.1 h
    rw [hside]
    exact (throttled_fogcnt _ _).trans (fogged_fogcnt side _)
end Balance

/-! ## The end of a window, and timing replays (R55, R56, R372, R384) -/

section Window
variable {d : DieId} {b : Fin 4} {s : State}

theorem bimbWindowEnd_early (h : (vget (s.die d).bands b).cyc ≠ 64) : execBimbWindowEnd d b s = .next s := if_pos h

/-- The division after a window whose mean imbalance is `m`. -/
def divAfter (x : Band) (m : Nat) : Nat :=
  if x.div = 2 ∧ 39 ≤ m then 4 else if x.div = 4 ∧ m ≤ 20 ∧ 1 ≤ x.low then 2 else if x.div = 2 ∧ m ≤ 20 ∧ 1 ≤ x.low ∧ 1024 ≤ x.divFor then 1 else x.div
/-- The low windows in a row: two with this one. -/
theorem lows_iff {m low : Nat} : 2 ≤ (if m ≤ 20 then low + 1 else 0) ↔ m ≤ 20 ∧ 1 ≤ low := by
  split <;> omega

theorem bimbWindowEnd_ends (h : (vget (s.die d).bands b).cyc = 64) : ∃ t, execBimbWindowEnd d b s = .next t ∧ SameMem s t ∧
    (vget (t.die d).bands b).cyc = 0 ∧ (vget (t.die d).bands b).sum = 0 ∧ (vget (t.die d).bands b).fog = false ∧
    (vget (t.die d).bands b).div = divAfter (vget (s.die d).bands b) ((vget (s.die d).bands b).sum.tdiv 64).natAbs ∧
    (t.die d).getReg d (rBIMB + 8 * b.val) = BitVec.ofNat 64 (((vget (s.die d).bands b).sum.tdiv 64 % 65536).toNat + 65536 * boolNat (vget (s.die d).bands b).fog + 131072 * boolNat ((vget (s.die d).bands b).div != 1)) := by
  unfold execBimbWindowEnd
  dsimp only
  rw [if_neg (not_not.2 h)]
  refine ⟨_, rfl, sameMem_modDie s d _ rfl, ?_⟩
  rw [State.die_modDie_same]
  have hband (y : Die) (x : Band) : vget (y.modBand b fun _ => x).bands b = x := vget_vmod_same _ _ _
  rw [hband]
  have hdiff : rBALST + 8 * b.val ≠ rBIMB + 8 * b.val := by
    unfold rBALST rBIMB
    omega
  generalize hx : vget (s.die d).bands b = x
  refine ⟨?_, ?_, ?_, ?_, (getReg_setReg_ne _ _ _ hdiff).trans (getReg_setReg _ _ _ _)⟩
  · simp only [apply_ite Band.cyc, ite_self]
  · simp only [apply_ite Band.sum, ite_self]
  · simp only [apply_ite Band.fog, ite_self]
  · simp only [apply_ite Band.div, Bool.and_eq_true, decide_eq_true_eq, lows_iff, divAfter, and_assoc]

theorem timingReplay_ends (fails : Nat) : ∃ t, execTimingReplay d b fails s = .next t ∧ SameMem s t ∧
    (t.die d).getReg d (rTRPLCNT + 8 * b.val) = (s.die d).getReg d (rTRPLCNT + 8 * b.val) + BitVec.ofNat 64 (min fails 3) ∧
    (vget (t.die d).bands b).div = (if fails < 4 then (vget (s.die d).bands b).div else max (vget (s.die d).bands b).div 2) ∧
    (4 ≤ fails → (t.die d).rf d (rMARG + 8 * b.val) 0 8 = 0) := by
  by_cases h : fails < 4
  · refine ⟨s.modDie d fun y => y.addReg d (rTRPLCNT + 8 * b.val) (BitVec.ofNat 64 (min fails 3)), ?_, sameMem_modDie s d _ rfl, ?_⟩
    · unfold execTimingReplay
      simp only [h, if_true]
    · rw [State.die_modDie_same, if_pos h]
      exact ⟨getReg_addReg _ _ _ _, rfl, fun h4 => absurd h (Nat.not_lt.2 h4)⟩
  · refine ⟨s.modDie d fun y => (((y.addReg d (rTRPLCNT + 8 * b.val) (BitVec.ofNat 64 (min fails 3))).modBand b fun z => { z with div := max z.div 2, divFor := 0, low := 0 }).setRf d (rMARG + 8 * b.val) 0 8 0),
      ?_, sameMem_modDie s d _ rfl, ?_⟩
    · unfold execTimingReplay
      simp only [h, if_false]
    · rw [State.die_modDie_same, if_neg h]
      have hdiff : rMARG + 8 * b.val ≠ rTRPLCNT + 8 * b.val := by
        unfold rMARG rTRPLCNT
        omega
      exact ⟨(getReg_setRf_ne _ _ hdiff).trans (getReg_addReg _ _ _ _), congrArg Band.div (vget_vmod_same _ _ _), fun _ => rf_setRf _ _ (by decide) (by decide)⟩
end Window

end Sys2Proof.Proofs
end

section
/-! SUPPORT. A team that begins to leave, and the power of a band (O48): what stays of the teams, the launches and the registers. -/

namespace Sys2Proof.Proofs

open Sys2Proof Sys2Proof.Machine Sys2Proof.Laws

/-! ## The teams and launches of the scheduler -/

/-- A change of a team that keeps its key, and does not take `leaving` back. -/
def KeepsTeam (g : Team → Team) : Prop := ∀ z, (g z).lid = z.lid ∧ (g z).t = z.t ∧ (z.leaving = true → (g z).leaving = true)

theorem team_map {l : List Team} {g : Team → Team} (hg : KeepsTeam g) (lid t : Nat) :
    (l.map g).find? (fun x => x.lid == lid && x.t == t) = (l.find? fun x => x.lid == lid && x.t == t).map g := by
  rw [List.find?_map]
  have : ((fun x : Team => x.lid == lid && x.t == t) ∘ g) = fun x => x.lid == lid && x.t == t := by
    funext z
    simp only [Function.comp, (hg z).1, (hg z).2.1]
  rw [this]
theorem keepsTeam_at {lid t : Nat} {f : Team → Team} (hf : KeepsTeam f) : KeepsTeam fun x => if x.lid == lid && x.t == t then f x else x := by
  intro z
  dsimp only
  split
  · exact hf z
  · exact ⟨rfl, rfl, id⟩
theorem team_modTeam (c : Sched) (lid t : Nat) {f : Team → Team} (hf : KeepsTeam f) : (c.modTeam lid t f).team lid t = (c.team lid t).map f :=
  find?_map_mod c.teams (fun x => x.lid == lid && x.t == t) f fun z => by rw [(hf z).1, (hf z).2.1]

/-- A search that never ends at an element that is changed. -/
theorem find?_map_other {α : Type} {l : List α} {p q : α → Bool} {f : α → α} (h : ∀ a, p a = true → q a = false ∧ q (f a) = false) : (l.map fun a => if p a then f a else a).find? q = l.find? q := by
  induction l with
  | nil => rfl
  | cons a l ih =>
    cases e : p a with
    | true => simp [e, (h a e).1, (h a e).2, ih]
    | false => simp [e, List.find?_cons, ih]

/-! ## A team begins to leave (R319, R320) -/

section Leave
variable {s : State} {d : DieId} {lid t : Nat} {barred : Bool}

theorem keepsTeam_barred : KeepsTeam fun x => { x with barred := x.barred || barred } := fun _ => ⟨rfl, rfl, id⟩
theorem keepsTeam_leaving : KeepsTeam fun x => { x with leaving := true, barred := barred } := fun _ => ⟨rfl, rfl, fun _ => rfl⟩

/-- The slots of a team are asked to stop, where they have not been. -/
def askSlots (d : DieId) (s : State) (ks : List SlotId) : State := ks.foldl (fun s k => if vget (s.slot d k).stop 0 then s else s.modSlot d k Slot.askStop) s
theorem askSlots_die {α : Type} {F : Die → α} (hF : ∀ y v, F { y with slots := v } = F y) (ks : List SlotId) (s : State) : F ((askSlots d s ks).die d) = F (s.die d) := by
  induction ks generalizing s with
  | nil => rfl
  | cons k ks ih =>
    refine (ih _).trans ?_
    dsimp only
    split
    · rfl
    · rw [State.die_modSlot_same]
      exact hF _ _

theorem jOpen_keeps {α : Type} {F : Die → α} (hp : ∀ y a bs psn, F (Die.poke y a bs psn) = F y) (hs : ∀ (y : Die) i j, F { y with sched := { y.sched with jseq := i, jpos := j } } = F y) (y : Die) (k a b c : Nat) :
    F (y.jOpen d k a b c) = F y := by
  unfold Die.jOpen
  split
  · rfl
  · exact (hs _ _ _).trans (hp _ _ _ _)

/-- The team marked, and its swap journalled at its save area `a`. -/
def leaveStart (s : State) (d : DieId) (lid t : Nat) (barred : Bool) (a : Nat) : State :=
  (s.modSched d fun q => q.modTeam lid t fun x => { x with leaving := true, barred := barred }).modDie d fun y => y.jOpen d 3 0 0 a
theorem leaveTeam_goes {x : Team} {l : Launch} (hx : (s.die d).sched.team lid t = some x) (hl : (s.die d).sched.launch lid = some l) (h : x.leaving = false) (hon : (s.die d).schedOn d = true) :
    leaveTeam s d lid t barred = askSlots d (leaveStart s d lid t barred (l.saveAt (t * l.teamsz))) (l.teamSlots t) := by
  have hc : (x.leaving || !(s.die d).schedOn d) = false := by
    rw [h, hon]
    rfl
  unfold leaveTeam
  rw [hx, hl]
  dsimp only
  rw [hc, if_neg Bool.false_ne_true]
  rfl
theorem leaveTeam_stays {x : Team} {l : Launch} (hx : (s.die d).sched.team lid t = some x) (hl : (s.die d).sched.launch lid = some l) (h : (x.leaving || !(s.die d).schedOn d) = true) :
    leaveTeam s d lid t barred = s.modSched d fun q => q.modTeam lid t fun x => { x with barred := x.barred || barred } := by
  unfold leaveTeam
  rw [hx, hl]
  dsimp only
  rw [h, if_pos rfl]
theorem leaveTeam_absent (h : (s.die d).sched.team lid t = none ∨ (s.die d).sched.launch lid = none) : leaveTeam s d lid t barred = s := by
  unfold leaveTeam
  split
  case h_1 hx hl => simp [hx, hl] at h
  case h_2 => rfl

variable {a : Nat}
theorem leaveStart_reg : ((leaveStart s d lid t barred a).die d).reg = (s.die d).reg := by
  rw [leaveStart, State.die_modDie_same, jOpen_reg, modSched_die]
theorem leaveStart_launches : ((leaveStart s d lid t barred a).die d).sched.launches = (s.die d).sched.launches := by
  rw [leaveStart, State.die_modDie_same, jOpen_keeps (F := fun y => y.sched.launches) (fun _ _ _ _ => rfl) (fun _ _ _ => rfl), modSched_die]
  rfl
theorem leaveStart_teams : ((leaveStart s d lid t barred a).die d).sched.teams = (s.die d).sched.teams.map fun x => if x.lid == lid && x.t == t then { x with leaving := true, barred := barred } else x := by
  rw [leaveStart, State.die_modDie_same, jOpen_keeps (F := fun y => y.sched.teams) (fun _ _ _ _ => rfl) (fun _ _ _ => rfl), modSched_die]
  rfl

/-- What a team that begins to leave changes of the scheduler: the teams alone, and no register. -/
theorem leaveTeam_spec (s : State) (d : DieId) (lid t : Nat) (barred : Bool) : ((leaveTeam s d lid t barred).die d).reg = (s.die d).reg ∧ ((leaveTeam s d lid t barred).die d).sched.launches = (s.die d).sched.launches ∧
    ∃ g, KeepsTeam g ∧ ((leaveTeam s d lid t barred).die d).sched.teams = (s.die d).sched.teams.map g ∧
      ∀ x l, (s.die d).sched.team lid t = some x → (s.die d).sched.launch lid = some l → (s.die d).schedOn d = true → (g x).leaving = true := by
  cases hx : (s.die d).sched.team lid t with
  | none =>
    rw [leaveTeam_absent (.inl hx)]
    exact ⟨rfl, rfl, id, fun _ => ⟨rfl, rfl, id⟩, (List.map_id _).symm, fun x l h => absurd h (by simp)⟩
  | some x =>
  cases hl : (s.die d).sched.launch lid with
  | none =>
    rw [leaveTeam_absent (.inr hl)]
    exact ⟨rfl, rfl, id, fun _ => ⟨rfl, rfl, id⟩, (List.map_id _).symm, fun x l _ h => absurd h (by simp)⟩
  | some l =>
  cases hc : (x.leaving || !(s.die d).schedOn d) with
  | true =>
    rw [leaveTeam_stays hx hl hc, modSched_die]
    refine ⟨rfl, rfl, _, keepsTeam_at (lid := lid) (t := t) (keepsTeam_barred (barred := barred)), rfl, fun z _ hz _ hon => ?_⟩
    obtain rfl := Option.some.inj hz
    rw [hon, Bool.not_true, Bool.or_false] at hc
    exact (keepsTeam_at keepsTeam_barred x).2.2 hc
  | false =>
    obtain ⟨hlv, hon⟩ := Bool.or_eq_false_iff.1 hc
    rw [leaveTeam_goes hx hl hlv ((Bool.not_eq_false' _).mp hon)]
    refine ⟨(askSlots_die (F := Die.reg) (fun _ _ => rfl) _ _).trans leaveStart_reg, (askSlots_die (F := fun y => y.sched.launches) (fun _ _ => rfl) _ _).trans leaveStart_launches, _,
      keepsTeam_at (lid := lid) (t := t) (keepsTeam_leaving (barred := barred)), (askSlots_die (F := fun y => y.sched.teams) (fun _ _ => rfl) _ _).trans leaveStart_teams, fun z _ hz _ _ => ?_⟩
    obtain rfl := Option.some.inj hz
    have hkey := List.find?_some hx
    rw [if_pos hkey]
/-- Teams that leave one after the other: registers and launches stay, and the marks too. -/
theorem leaveAll_spec (d : DieId) (barred : Bool) (ts : List Team) (s : State) :
    let u := ts.foldl (fun s t => leaveTeam s d t.lid t.t barred) s
    (u.die d).reg = (s.die d).reg ∧ (u.die d).sched.launches = (s.die d).sched.launches ∧ ∃ g, KeepsTeam g ∧ (u.die d).sched.teams = (s.die d).sched.teams.map g ∧
      ∀ x ∈ ts, ∀ z l, (s.die d).sched.team x.lid x.t = some z → (s.die d).sched.launch x.lid = some l → (s.die d).schedOn d = true → (g z).leaving = true := by
  induction ts generalizing s with
  | nil => exact ⟨rfl, rfl, id, fun _ => ⟨rfl, rfl, id⟩, (List.map_id _).symm, fun x hx => absurd hx (by simp)⟩
  | cons y ts ih =>
    obtain ⟨hr1, hl1, g, hg, ht1, hlv1⟩ := leaveTeam_spec s d y.lid y.t barred
    obtain ⟨hr2, hl2, g', hg', ht2, hlv2⟩ := ih (leaveTeam s d y.lid y.t barred)
    refine ⟨hr2.trans hr1, hl2.trans hl1, g' ∘ g, fun z => ⟨(hg' _).1.trans (hg z).1, (hg' _).2.1.trans (hg z).2.1, fun h => (hg' _).2.2 ((hg z).2.2 h)⟩, ?_, fun x hx z l hz hl hon => ?_⟩
    · rw [List.foldl_cons, ht2, ht1, List.map_map]
    · rcases List.mem_cons.1 hx with rfl | hx
      · exact (hg' _).2.2 (hlv1 z l hz hl hon)
      · refine hlv2 x hx (g z) l ?_ ?_ ?_
        · rw [Sched.team, ht1, team_map hg]
          exact congrArg (Option.map g) hz
        · rw [Sched.launch, hl1]
          exact hl
        · rw [Die.schedOn, getReg_congr d hr1]
          exact hon
end Leave

/-! ## Slots held for a team are given up (R330, R375) -/

section Unhold
variable {d : DieId}

theorem giveBack_rest (ks : List SlotId) (y : Die) : y.giveBack ks = { y with slots := (y.giveBack ks).slots, lay := (y.giveBack ks).lay } := by
  unfold Die.giveBack
  induction ks generalizing y with
  | nil => rfl
  | cons k ks ih =>
    rw [List.foldl_cons, ih]
    rfl
theorem evalClass_getReg {o : Nat} (h : rPGRANT ≠ o) (y : Die) : (y.evalClass d).getReg d o = y.getReg d o := getReg_setRf_ne _ _ h

/-- Placements kept are dropped from a list of blocks. -/
def dropRes (lid : Nat) (bs : List Blk) (q : Sched) : Sched := bs.foldl (fun q b => q.modBlk lid b.l fun x => { x with res := [] }) q

/-- A launch's team of which no block keeps a placement. -/
def NoneKept (c : Sched) (lid t : Nat) : Prop := ∃ l, c.launch lid = some l ∧ ∀ b ∈ l.teamBlks t, b.res = []

theorem noneKept_modBlk {c : Sched} {lid t : Nat} (a n : Nat) (h : NoneKept c lid t) : NoneKept (c.modBlk a n fun x => { x with res := [] }) lid t := by
  obtain ⟨l, hl, hres⟩ := h
  by_cases ha : a = lid
  · subst ha
    refine ⟨_, (launch_modBlk c a n _).trans (congrArg _ hl), fun b hb => ?_⟩
    obtain ⟨hmem, hteam⟩ := List.mem_filter.1 hb
    obtain ⟨b', hb', rfl⟩ := List.mem_map.1 hmem
    split
    · rfl
    · next hne =>
      rw [if_neg hne] at hteam
      exact hres b' (List.mem_filter.2 ⟨hb', hteam⟩)
  · refine ⟨l, ?_, hres⟩
    rw [← hl]
    exact find?_map_other (p := fun x : Launch => x.id == a) (q := fun x : Launch => x.id == lid) fun z hz => by
      have hza : z.id = a := eq_of_beq hz
      have hzl : (z.id == lid) = false := beq_false_of_ne fun e => ha (hza.symm.trans e)
      exact ⟨hzl, hzl⟩
theorem noneKept_dropRes {lid t : Nat} (a : Nat) (bs : List Blk) {c : Sched} (h : NoneKept c lid t) : NoneKept (dropRes a bs c) lid t := by
  induction bs generalizing c with
  | nil => exact h
  | cons b bs ih => exact ih (noneKept_modBlk a b.l h)
theorem dropRes_teams (a : Nat) (bs : List Blk) (c : Sched) : (dropRes a bs c).teams = c.teams := by
  induction bs generalizing c with
  | nil => rfl
  | cons b bs ih => exact ih _

/-- The die once the placements kept of a team are given up. -/
theorem unhold_cases (y : Die) (a u : Nat) : y.unhold d a u = y ∨ ∃ l, y.sched.launch a = some l ∧ ¬ (∀ b ∈ l.teamBlks u, b.res = []) ∧
    ∃ ks bs, y.unhold d a u = (({ y.giveBack ks with sched := { dropRes a bs y.sched with teams := (dropRes a bs y.sched).teams.filter fun z => !(z.lid == a && z.t == u) } } : Die).evalClass d) := by
  unfold Die.unhold
  cases hl : y.sched.launch a with
  | none => exact .inl rfl
  | some l =>
    have hnil (h : ∀ b ∈ l.teamBlks u, b.res = []) : (l.teamBlks u).filter (fun b => !b.res.isEmpty) = [] := List.filter_eq_nil_iff.2 fun b hbm => by rw [h b hbm]; decide
    generalize hbs : (l.teamBlks u).filter (fun b => !b.res.isEmpty) = bs at hnil
    dsimp only
    rw [hbs]
    cases bs with
    | nil => exact .inl rfl
    | cons b bs =>
      refine .inr ⟨l, rfl, fun h => absurd (hnil h) (by simp), (b :: bs).flatMap (·.res), b :: bs, ?_⟩
      have hs : (y.giveBack ((b :: bs).flatMap (·.res))).sched = y.sched := by
        have := congrArg Die.sched (giveBack_rest ((b :: bs).flatMap (·.res)) y)
        exact this
      rw [List.isEmpty_cons, if_neg Bool.false_ne_true, hs]
      rfl
/-- A team of which nothing is kept stays; the switches of the bands stay too. -/
theorem unhold_keeps {y : Die} {lid t : Nat} (a u : Nat) (h : NoneKept y.sched lid t) :
    (y.unhold d a u).getReg d rASHAPE = y.getReg d rASHAPE ∧ NoneKept (y.unhold d a u).sched lid t ∧ (y.unhold d a u).sched.team lid t = y.sched.team lid t := by
  rcases unhold_cases (d := d) y a u with hu | ⟨l, hl, hres, ks, bs, hu⟩
  · rw [hu]
    exact ⟨rfl, h, rfl⟩
  · rw [hu]
    refine ⟨?_, noneKept_dropRes a bs h, ?_⟩
    · rw [evalClass_getReg (by decide)]
      refine getReg_congr d ?_ _
      have := congrArg Die.reg (giveBack_rest ks y)
      exact this
    · have hne : ¬ (lid = a ∧ t = u) := by
        rintro ⟨rfl, rfl⟩
        obtain ⟨l', hl', hres'⟩ := h
        obtain rfl := Option.some.inj (hl.symm.trans hl')
        exact hres hres'
      change ((dropRes a bs y.sched).teams.filter fun z => !(z.lid == a && z.t == u)).find? (fun x => x.lid == lid && x.t == t) = _
      rw [dropRes_teams, List.find?_filter]
      refine congrArg (fun p => y.sched.teams.find? p) (funext fun z => ?_)
      cases hz : (z.lid == lid && z.t == t) with
      | false => exact decide_eq_false fun h => Bool.false_ne_true h.2
      | true =>
        rw [Bool.and_eq_true, beq_iff_eq, beq_iff_eq] at hz
        refine decide_eq_true ⟨?_, rfl⟩
        rw [Bool.not_eq_true', ← Bool.not_eq_true, Bool.and_eq_true, beq_iff_eq, beq_iff_eq, hz.1, hz.2]
        exact hne
theorem unhold_ashape (y : Die) (a u : Nat) : (y.unhold d a u).getReg d rASHAPE = y.getReg d rASHAPE := by
  rcases unhold_cases (d := d) y a u with hu | ⟨_, _, _, ks, _, hu⟩
  · rw [hu]
  · rw [hu, evalClass_getReg (by decide)]
    refine getReg_congr d ?_ _
    have := congrArg Die.reg (giveBack_rest ks y)
    exact this
theorem unholdAll_keeps {lid t : Nat} (xs : List (Nat × Nat)) {y : Die} (h : NoneKept y.sched lid t) : (xs.foldl (fun y x => y.unhold d x.1 x.2) y).sched.team lid t = y.sched.team lid t := by
  induction xs generalizing y with
  | nil => rfl
  | cons x xs ih =>
    obtain ⟨-, hk, ht⟩ := unhold_keeps (d := d) x.1 x.2 h
    exact (ih hk).trans ht
end Unhold

/-! ## `BEN` cleared and set (R330) -/

section Ben
variable {s : State} {d : DieId} {b : Fin 4}

theorem clearBen_class0 (h : bitAt ((s.die d).getReg d rC0RES) 63 = true) (hk : bitAt ((s.die d).getReg d rC0RES) (bandSlots b).1.val = true ∨ bitAt ((s.die d).getReg d rC0RES) (bandSlots b).2.val = true) :
    clearBen s d b = s := by
  unfold clearBen
  dsimp only
  rw [if_pos]
  rw [h, Bool.true_and, Bool.or_eq_true, Bool.or_eq_true]
  exact .inl hk
/-- `BEN` is cleared, and the team that holds a slot of the band leaves. -/
def benOff (s : State) (d : DieId) (b : Fin 4) : State := s.modDie d fun y => y.setRf d rASHAPE b.val 1 0
def benTeams (s : State) (d : DieId) (b : Fin 4) : List Team := ((benOff s d b).die d).sched.teams.filter fun t => (((benOff s d b).die d).teamSlots t.lid t.t).any fun k => bandOf k == b
theorem clearBen_clears (h : bitAt ((s.die d).getReg d rC0RES) 63 = false) (hb : (s.die d).rf d rASHAPE b.val 1 ≠ 0) : ∃ xs : List (Nat × Nat),
    clearBen s d b = ((benTeams s d b).foldl (fun s t => leaveTeam s d t.lid t.t false) (benOff s d b)).modDie d fun y => xs.foldl (fun y x => y.unhold d x.1 x.2) y := by
  have hc : ((bitAt ((s.die d).getReg d rC0RES) 63 && (bitAt ((s.die d).getReg d rC0RES) (bandSlots b).1.val || bitAt ((s.die d).getReg d rC0RES) (bandSlots b).2.val)) || decide ((s.die d).rf d rASHAPE b.val 1 = 0)) = false := by
    rw [h, Bool.false_and, Bool.false_or]
    exact decide_eq_false hb
  unfold clearBen
  dsimp only
  rw [hc, if_neg Bool.false_ne_true]
  exact ⟨_, rfl⟩
theorem clearBen_off (h : bitAt ((s.die d).getReg d rC0RES) 63 = false) : ((clearBen s d b).die d).rf d rASHAPE b.val 1 = 0 := by
  by_cases hb : (s.die d).rf d rASHAPE b.val 1 = 0
  · have : clearBen s d b = s := by
      unfold clearBen
      dsimp only
      rw [if_pos]
      rw [Bool.or_eq_true]
      exact .inr (decide_eq_true hb)
    rw [this]
    exact hb
  · obtain ⟨xs, hx⟩ := clearBen_clears h hb
    have hun (y : Die) : (xs.foldl (fun y x => y.unhold d x.1 x.2) y).getReg d rASHAPE = y.getReg d rASHAPE := foldl_keeps (fun y => y.getReg d rASHAPE) (fun y x => unhold_ashape y x.1 x.2) xs y
    obtain ⟨hreg, -⟩ := leaveAll_spec d false (benTeams s d b) (benOff s d b)
    rw [hx, State.die_modDie_same, Die.rf, hun, getReg_congr d hreg, benOff, State.die_modDie_same]
    exact rf_setRf _ _ (by decide) (by have := b.isLt; omega)
theorem clearBen_leaves (h : bitAt ((s.die d).getReg d rC0RES) 63 = false) (hb : (s.die d).rf d rASHAPE b.val 1 ≠ 0) (hon : (s.die d).schedOn d = true) {x : Team} {l : Launch}
    (hx : (s.die d).sched.team x.lid x.t = some x) (hl : (s.die d).sched.launch x.lid = some l) (hk : ∃ k ∈ l.teamSlots x.t, bandOf k = b) (hres : ∀ z ∈ l.teamBlks x.t, z.res = []) :
    ∃ z, ((clearBen s d b).die d).sched.team x.lid x.t = some z ∧ z.leaving = true := by
  obtain ⟨xs, hxs⟩ := clearBen_clears h hb
  have hsched : ((benOff s d b).die d).sched = (s.die d).sched := by
    rw [benOff, State.die_modDie_same]
    rfl
  obtain ⟨hreg, hlaunch, g, hg, hteams, hlv⟩ := leaveAll_spec d false (benTeams s d b) (benOff s d b)
  have hin : x ∈ benTeams s d b := by
    refine List.mem_filter.2 ⟨?_, ?_⟩
    · rw [hsched]
      exact List.mem_of_find?_eq_some hx
    · obtain ⟨k, hks, hkb⟩ := hk
      rw [List.any_eq_true]
      refine ⟨k, ?_, beq_iff_eq.2 hkb⟩
      rw [Die.teamSlots, hsched, hl]
      exact hks
  have hon' : ((benOff s d b).die d).schedOn d = true := by
    rw [Die.schedOn, benOff, State.die_modDie_same, getReg_setRf_ne _ _ (by decide)]
    exact hon
  refine ⟨g x, ?_, hlv x hin x l (by rw [hsched]; exact hx) (by rw [hsched]; exact hl) hon'⟩
  rw [hxs, State.die_modDie_same, unholdAll_keeps]
  · rw [Sched.team, hteams, team_map hg, hsched]
    exact congrArg (Option.map g) hx
  · refine ⟨l, ?_, hres⟩
    rw [Sched.launch, hlaunch, hsched]
    exact hl
end Ben

end Sys2Proof.Proofs
end

section
/-! SUPPORT. The switch of a band's rail, and the statement about strings and bands (O48). -/

namespace Sys2Proof.Proofs

open Sys2Proof Sys2Proof.Machine Sys2Proof.Laws

section Switch
variable {s : State} {d : DieId} {b : Fin 4}

/-- What keeps the switch of a band closed: the band in use, or not switched off. -/
def keptOn (y : Die) (d : DieId) (b : Fin 4) : Bool :=
  !y.bandOn d b || y.rf d rASHAPE b.val 1 = 1 || [(bandSlots b).1, (bandSlots b).2].any fun k => (y.layOf k).v || (y.slot k).ctl.own.isSome || y.sched.teams.any fun t => t.freed.any (·.contains k)
/-- The die with the switch of a band open. -/
def switchedOff (d : DieId) (b : Fin 4) (y : Die) : Die :=
  (((([(bandSlots b).1, (bandSlots b).2].foldl (fun y k => y.modSlot k Slot.dark) (y.setRf d rASHAPE (8 + b.val) 1 0)).setReg (rBIMB + 8 * b.val) 0).setRf d (rBALST + 8 * b.val) 0 1 0).modBand b
    fun x => { Band.reset with ce := x.ce, mw := x.mw, drop := x.drop })

theorem bandPowerOff_keeps (h : keptOn (s.die d) d b = true) : execBandPowerOff d b s = .next s := if_pos h
theorem bandPowerOff_opens (h : keptOn (s.die d) d b = false) : execBandPowerOff d b s = .next (s.modDie d (switchedOff d b)) := by
  unfold execBandPowerOff
  exact if_neg (Bool.eq_false_iff.1 h)

theorem keptOn_of (h : (s.die d).rf d rASHAPE b.val 1 = 1 ∨ (s.die d).bandOn d b = false ∨ ((s.die d).layOf (bandSlots b).1).v = true ∨ ((s.die d).layOf (bandSlots b).2).v = true ∨
    ∃ x ∈ (s.die d).sched.teams, ∃ ks, x.freed = some ks ∧ ((bandSlots b).1 ∈ ks ∨ (bandSlots b).2 ∈ ks)) : keptOn (s.die d) d b = true := by
  unfold keptOn
  simp only [Bool.or_eq_true, Bool.not_eq_true', decide_eq_true_eq, List.any_cons, List.any_nil, List.any_eq_true, Option.any_eq_true, List.contains_iff_mem]
  rcases h with h | h | h | h | ⟨x, hx, ks, hks, h | h⟩
  · exact .inl (.inr h)
  · exact .inl (.inl h)
  · exact .inr (.inl (.inl (.inl h)))
  · exact .inr (.inr (.inl (.inl (.inl h))))
  · exact .inr (.inl (.inr ⟨x, hx, ks, hks, h⟩))
  · exact .inr (.inr (.inl (.inr ⟨x, hx, ks, hks, h⟩)))
theorem freed_none {y : Die} {k : SlotId} (hv : (y.layOf k).v = false) (ho : (y.slot k).ctl.own = none) (hf : ∀ x ∈ y.sched.teams, ∀ ks, x.freed = some ks → k ∉ ks) :
    ((y.layOf k).v || (y.slot k).ctl.own.isSome || y.sched.teams.any fun t => t.freed.any (·.contains k)) = false := by
  rw [hv, ho, Bool.false_or, Option.isSome_none, Bool.false_or, List.any_eq_false]
  intro x hx hany
  obtain ⟨ks, hks, hk⟩ := (Option.any_eq_true _ _).1 hany
  exact hf x hx ks hks (List.contains_iff_mem.1 hk)
theorem keptOn_none (hb : (s.die d).rf d rASHAPE b.val 1 = 0) (hon : (s.die d).bandOn d b = true)
    (hv : ∀ k, k = (bandSlots b).1 ∨ k = (bandSlots b).2 → ((s.die d).layOf k).v = false ∧ ((s.die d).slot k).ctl.own = none)
    (hf : ∀ x ∈ (s.die d).sched.teams, ∀ ks, x.freed = some ks → (bandSlots b).1 ∉ ks ∧ (bandSlots b).2 ∉ ks) : keptOn (s.die d) d b = false := by
  obtain ⟨hv1, ho1⟩ := hv _ (.inl rfl)
  obtain ⟨hv2, ho2⟩ := hv _ (.inr rfl)
  unfold keptOn
  rw [hon, hb, List.any_cons, List.any_cons, List.any_nil, freed_none hv1 ho1 fun x hx ks hks => (hf x hx ks hks).1, freed_none hv2 ho2 fun x hx ks hks => (hf x hx ks hks).2]
  rfl

theorem bandSlots_nodup : [(bandSlots b).1, (bandSlots b).2].Nodup := by
  revert b
  decide
theorem switchedOff_slot {y : Die} {k : SlotId} (h : k = (bandSlots b).1 ∨ k = (bandSlots b).2) : (switchedOff d b y).slot k = (y.slot k).dark := by
  refine (foldl_modSlot_slot Slot.dark _ bandSlots_nodup (y.setRf d rASHAPE (8 + b.val) 1 0) k).trans ?_
  rw [if_pos (by rcases h with h | h <;> simp [h])]
  rfl
theorem switchedOff_mem {y : Die} : (switchedOff d b y).mem = y.mem := rfl
theorem switchedOff_off {y : Die} : (switchedOff d b y).bandOn d b = false := by
  have hlt := b.isLt
  have h1 : rBALST + 8 * b.val ≠ rASHAPE := by
    unfold rBALST rASHAPE
    omega
  have h2 : rBIMB + 8 * b.val ≠ rASHAPE := by
    unfold rBIMB rASHAPE
    omega
  have h0 : (switchedOff d b y).rf d rASHAPE (8 + b.val) 1 = 0 := by
    refine (rf_setRf_ne _ _ h1).trans ?_
    rw [Die.rf, getReg_setReg_ne _ _ _ h2]
    exact rf_setRf _ _ (by decide) (by omega)
  rw [Die.bandOn, h0]
  decide
theorem switchedOff_div {y : Die} : (vget (switchedOff d b y).bands b).div = 1 := congrArg Band.div (vget_vmod_same _ _ _)

theorem bandPowerOn_idle (h : (s.die d).rf d rASHAPE b.val 1 = 0 ∨ (s.die d).bandOn d b = true) : execBandPowerOn d b s = .next s := by
  refine if_pos ?_
  rw [Bool.or_eq_true, decide_eq_true_iff]
  exact h.symm
theorem bandPowerOn_closes (h : (s.die d).rf d rASHAPE b.val 1 = 1) (hoff : (s.die d).bandOn d b = false) : execBandPowerOn d b s = .next (s.modDie d fun y => y.setRf d rASHAPE (8 + b.val) 1 1) := by
  refine if_neg ?_
  rw [hoff, h]
  decide
end Switch

/-- The three outcomes of a cycle: a small difference, fog into an idle half, two busy halves. -/
theorem cycled_balance (l r : Nat) (z : Band) :
    (((l : Int) - r).natAbs ≤ 20 → (Band.cycled (balance l r) z).sum = z.sum + (l - r) ∧ (Band.cycled (balance l r) z).fog = z.fog ∧ (Band.cycled (balance l r) z).div = z.div) ∧
    (20 < ((l : Int) - r).natAbs → l = 0 ∨ r = 0 → (balance l r).2.isSome = true ∧ (Band.cycled (balance l r) z).sum = z.sum ∧ (Band.cycled (balance l r) z).fog = true ∧ (Band.cycled (balance l r) z).div = z.div) ∧
    (20 < ((l : Int) - r).natAbs → l ≠ 0 → r ≠ 0 → (Band.cycled (balance l r) z).sum = z.sum + (l - r) ∧ (Band.cycled (balance l r) z).fog = z.fog ∧ (z.div = 1 → (Band.cycled (balance l r) z).div = 2)) := by
  refine ⟨fun hlow => ?_, fun hhigh h0 => ?_, fun hhigh hl hr => ?_⟩
  · rw [balance_low hlow]
    exact ⟨cycled_sum _ _, (cycled_fog _ _).trans (Bool.or_false _), cycled_div_same _ hlow⟩
  · obtain ⟨side, hside⟩ := balance_fog hhigh h0
    rw [hside]
    exact ⟨rfl, (cycled_sum _ _).trans (Int.add_zero _), (cycled_fog _ _).trans (Bool.or_true _), cycled_div_same _ (Nat.zero_le 20)⟩
  · rw [balance_busy hhigh hl hr]
    exact ⟨cycled_sum _ _, (cycled_fog _ _).trans (Bool.or_false _), cycled_div_two hhigh⟩

/-- Settles O48: a string's cycle (`balance_cycle`), the end of its window (`bimbWindowEnd_ends`), a replay (`timingReplay_ends`), and the switch of a band (`clearBen_leaves`, `switchedOff_slot`). -/
theorem stringsAndBands : Obligations.StringsAndBands := by
  unfold Obligations.StringsAndBands
  refine ⟨fun s d b fails => ?_, fun s d b => ?_⟩
  · intro y x kl kr wl wr avg
    refine ⟨fun h => (exec_balanceControl d b s).trans (balanceControl_idle h), fun hon hc hi => ?_, fun h => (exec_bimbWindowEnd d b s).trans (bimbWindowEnd_early h), fun h => ?_, ?_⟩
    · obtain ⟨t, ht, hwl, hwr, hband, hfog⟩ := balance_cycle hon hc hi
      refine ⟨t, (exec_balanceControl d b s).trans ht, hwl, hwr, ?_⟩
      dsimp only
      rw [hband]
      obtain ⟨hlow, hidle, hbusy⟩ := cycled_balance ((s.die d).slot (bandSlots b).1).w ((s.die d).slot (bandSlots b).2).w (vget (s.die d).bands b)
      refine ⟨cycled_cyc _ _, hlow, fun hhigh h0 => ?_, fun hhigh hl hr => hbusy hhigh (fun e => hl (congrArg Int.ofNat e)) fun e => hr (congrArg Int.ofNat e)⟩
      obtain ⟨hfill, hsum, hfg, hdiv⟩ := hidle hhigh (h0.imp Int.ofNat.inj Int.ofNat.inj)
      exact ⟨hsum, hfg, hdiv, hfog hfill⟩
    · obtain ⟨t, ht, hrest⟩ := bimbWindowEnd_ends h
      exact ⟨t, (exec_bimbWindowEnd d b s).trans ht, hrest⟩
    · obtain ⟨t, ht, hrest⟩ := timingReplay_ends (s := s) (d := d) (b := b) fails
      exact ⟨t, (exec_timingReplay d b fails s).trans ht, hrest⟩
  · intro y kl kr ben
    refine ⟨fun h hk => ?_, fun h => ⟨_, exec_ashapeClearBen d b s, clearBen_off h, fun hb hon x l hx hl hk hres => clearBen_leaves h hb hon hx hl hk hres⟩, ?_, fun hb hon hv hf => ?_, fun h => ?_, fun hb hoff => ?_,
      fun h => (exec_bandPowerOn d b s).trans (bandPowerOn_idle h)⟩
    · exact (exec_ashapeClearBen d b s).trans (congrArg Host.Outcome.next (clearBen_class0 h hk))
    · refine ⟨_, exec_ashapeSetBen d b s, ?_, sameMem_modDie s d _ rfl⟩
      rw [setBen, State.die_modDie_same]
      exact rf_setRf _ _ (by decide) (by have := b.isLt; omega)
    · refine ⟨_, (exec_bandPowerOff d b s).trans (bandPowerOff_opens (keptOn_none hb hon hv hf)), ?_, sameMem_modDie s d _ switchedOff_mem, ?_, fun k hk => ?_⟩
      · rw [State.die_modDie_same]
        exact switchedOff_off
      · rw [State.die_modDie_same]
        exact switchedOff_div
      · rw [State.slot, State.die_modDie_same, switchedOff_slot hk]
        exact ⟨rfl, rfl, rfl, rfl, rfl, rfl⟩
    · exact (exec_bandPowerOff d b s).trans (bandPowerOff_keeps (keptOn_of h))
    · refine ⟨_, (exec_bandPowerOn d b s).trans (bandPowerOn_closes hb hoff), ?_, sameMem_modDie s d _ rfl⟩
      rw [State.die_modDie_same, Die.bandOn, rf_setRf _ _ (by decide) (by have := b.isLt; omega)]
      decide

end Sys2Proof.Proofs
end

section
/-! SUPPORT. Writes of the register block and of proof entries (O50). -/

namespace Sys2Proof.Proofs

open Sys2Proof Sys2Proof.Machine Sys2Proof.Laws

/-! ## A proof entry (R312, R313) -/

theorem modAg_proofs (d : Die) (a : Agent) (f : AgentSt → AgentSt) : (d.modAg a f).proofs = d.proofs := by
  cases a with
  | eng k e => cases e <;> rfl
  | _ => rfl
theorem countMiss_proofs (d : Die) (dn : DieId) (x : TlbId) (a : Half) : (d.countMiss dn x a).proofs = d.proofs := by
  unfold Die.countMiss
  have h (y : Die) (ev : Nat) : (y.countDie dn a ev).proofs = y.proofs := by
    unfold Die.countDie
    split <;> rfl
  rw [h]
  cases x with
  | slot k =>
    dsimp only
    unfold Die.countSlot
    split <;> rfl
  | copy c => rfl
  | coll => rfl
theorem procKeeps_proofs (v : Sparse W32) : ProcKeeps fun d => d.proofs = v where
  poke _ _ _ h := h
  walkc _ _ h := h
  tlb d x f h := by
    rw [← h]
    cases x <;> rfl
  miss d dn x a h := (countMiss_proofs d dn x a).trans h
  rast _ _ _ _ _ _ h := h
  write _ _ _ h := h
  gate _ _ h := h
  sb d a f h := (modAg_proofs d a _).trans h

/-- What every access of a process's memory keeps, clearing `EARLY` in records keeps too. -/
theorem clearEarly_keeps {P : Die → Prop} (hP : ProcKeeps P) (d : DieId) (l : Launch) (b : Blk) {y : Die} (h : P y) : P (Die.clearEarly d y l b) := by
  unfold Die.clearEarly
  refine List.foldlRecOn (motive := P) _ _ h fun z hz i _ => ?_
  have hload := procLoad_keeps hP d z l.asid (l.recAt b.l i + 9) 1 hz
  generalize l.recAt b.l i + 9 = a at hload ⊢
  dsimp only
  split
  case h_1 bs w hw =>
    rw [hw] at hload
    exact procStore_keeps hP d w l.asid a _ hload
  case h_2 w hw =>
    rw [hw] at hload
    exact hload
theorem reeval_keeps {P : Die → Prop} (hP : ProcKeeps P) (hs : ∀ (y : Die) ls, P y → P { y with sched := { y.sched with launches := ls } }) (d : DieId) {y : Die} (h : P y) : P (y.reeval d) := by
  unfold Die.reeval
  split
  · exact h
  · exact List.foldlRecOn (motive := P) _ _ (hs _ _ h) fun z hz x _ => clearEarly_keeps hP d x.1 x.2 hz
theorem reeval_proofs (d : DieId) (y : Die) : (y.reeval d).proofs = y.proofs := reeval_keeps (procKeeps_proofs y.proofs) (fun _ _ h => h) d rfl
/-- Where no block is Early, no record is written. -/
theorem reeval_noEarly {d : DieId} {y : Die} (h : ∀ l ∈ y.sched.launches, ∀ b ∈ l.blks, b.earl = false) : (y.reeval d).mem = y.mem := by
  unfold Die.reeval
  split
  · rfl
  · have hnone : (y.sched.launches.flatMap fun l => (l.blks.filter fun b => b.earl && !(y.evalBlk l b).earl).map fun b => (l, b)) = [] := by
      rw [List.flatMap_eq_nil_iff]
      intro l hl
      rw [List.map_eq_nil_iff, List.filter_eq_nil_iff]
      intro b hb
      rw [h l hl b hb, Bool.false_and]
      exact Bool.false_ne_true
    rw [hnone]
    rfl

section Entry
variable {y : Die} {d : DieId} {q : Nat} {v : W32}

theorem proofWrite_proofs : (y.proofWrite d q v).proofs = spSet 0 y.proofs (q % 4096) (v &&& 0x8000FFFF#32) := by
  unfold Die.proofWrite
  dsimp only
  split
  · exact reeval_proofs _ _
  · rfl
theorem proofWrite_noEarly (h : ∀ l ∈ y.sched.launches, ∀ b ∈ l.blks, b.earl = false) : (y.proofWrite d q v).mem = y.mem := by
  unfold Die.proofWrite
  dsimp only
  split
  · exact reeval_noEarly (y := { y with proofs := _ }) h
  · rfl
theorem proofWrite_at (hw : spWf (0 : W32) y.proofs = true) (p : Nat) : (y.proofWrite d q v).proofAt p = if p % 4096 = q % 4096 then v &&& 0x8000FFFF#32 else y.proofAt p := by
  rw [Die.proofAt, proofWrite_proofs, spGet_spSet _ _ hw]
  rfl
end Entry

/-! ## Where a write goes by the register's description alone (R3) -/

/-- Offsets below the proof entries with a rule of their own. -/
def lowRule (off : Nat) : Bool :=
  off == rTLBINV || off == 0x208 || off == rASHAPE || (rMARG ≤ off && off < rMARG + 32 && off % 8 == 0) || off == 0x708 || off == rTRCBASE || off == 0x428 || off == 0x720 || off == rRESYNC || off == 0x810 ||
    off == rPEERST || off == rSYSCPTR || off == rFLTPTR || off == rPSCHED || off == rPAIRCTL || (rPMDSEL ≤ off && off < rPMD + 256 && off % 8 == 0)
/-- Offsets with a rule of their own. -/
def ownRule (off : Nat) : Bool := lowRule off || (0x4000 ≤ off && off < 0x8000 && off % 4 == 0)
theorem lowRule_high {off : Nat} (h : 0x4000 ≤ off) : lowRule off = false := by
  unfold lowRule rTLBINV rASHAPE rMARG rTRCBASE rRESYNC rPEERST rSYSCPTR rFLTPTR rPSCHED rPAIRCTL rPMDSEL rPMD
  simp only [Bool.or_eq_false_iff, Bool.and_eq_false_iff, beq_eq_false_iff_ne, decide_eq_false_iff_not]
  omega

section Plain
variable {s : State} {d : DieId} {off : Nat} {v : Word}

theorem regWrite_high (h : lowRule off = false) : regWrite s d off v =
    if 0x4000 ≤ off && off < 0x8000 && off % 4 == 0 then
      s.modDie d fun y => if off % 8 == 0 then (y.proofWrite d ((off - 0x4000) / 4) (v.setWidth 32)).proofWrite d ((off - 0x4000) / 4 + 1) (v.extractLsb' 32 32) else y.proofWrite d ((off - 0x4000) / 4) (v.setWidth 32)
    else match regDesc d off with
    | some r => s.modDie d fun y => y.setReg off (r.write (y.getReg d off) v)
    | none => s := by
  unfold lowRule at h
  simp only [Bool.or_eq_false_iff] at h
  obtain ⟨⟨⟨⟨⟨⟨⟨⟨⟨⟨⟨⟨⟨⟨⟨h1, h2⟩, h3⟩, h4⟩, h5⟩, h6⟩, h7⟩, h8⟩, h9⟩, h10⟩, h11⟩, h12⟩, h13⟩, h14⟩, h15⟩, h16⟩ := h
  unfold regWrite
  simp only [h1, h2, h3, h4, h5, h6, h7, h8, h9, h10, h11, h12, h13, h14, h15, h16, Bool.false_eq_true, if_false] <;> rfl
theorem registerWrite_high (h : lowRule off = false) : execRegisterWrite d off v s = .next (regWrite s d off v) := by
  have h720 : (off == 0x720) = false := by
    unfold lowRule at h
    simp only [Bool.or_eq_false_iff] at h
    exact h.1.1.1.1.1.1.1.1.2
  unfold execRegisterWrite regWaits
  rw [h720]
  rfl
theorem registerWrite_described (h : ownRule off = false) : execRegisterWrite d off v s = .next (match regDesc d off with
    | some r => s.modDie d fun y => y.setReg off (r.write (y.getReg d off) v)
    | none => s) := by
  obtain ⟨hlow, hproof⟩ := Bool.or_eq_false_iff.1 h
  rw [registerWrite_high hlow, regWrite_high hlow, hproof]
  rfl
theorem registerWrite_plain {r : RegDesc} (h : ownRule off = false) (hr : regDesc d off = some r) : execRegisterWrite d off v s = .next (s.modDie d fun y => y.setReg off (r.write (y.getReg d off) v)) := by
  rw [registerWrite_described h, hr]
/-- A register's own write leaves every other as it is. -/
theorem registerWrite_plain_ends {r : RegDesc} (h : ownRule off = false) (hr : regDesc d off = some r) : ∃ t, execRegisterWrite d off v s = .next t ∧ SameMem s t ∧
    (t.die d).getReg d off = r.write ((s.die d).getReg d off) v ∧ (∀ o, o ≠ off → (t.die d).getReg d o = (s.die d).getReg d o) ∧ ∀ k, t.slot d k = s.slot d k := by
  refine ⟨_, registerWrite_plain h hr, sameMem_modDie s d _ rfl, ?_, fun o ho => ?_, fun k => ?_⟩
  · rw [State.die_modDie_same]
    exact getReg_setReg _ _ _ _
  · rw [State.die_modDie_same]
    exact getReg_setReg_ne _ _ _ (Ne.symm ho)
  · rw [State.slot, State.die_modDie_same]
    rfl
theorem registerWrite_proof {j : Nat} (hj : j < 2048) : execRegisterWrite d (0x4000 + 8 * j + 4) v s = .next (s.modDie d fun y => y.proofWrite d (2 * j + 1) (v.setWidth 32)) := by
  have hlow : lowRule (0x4000 + 8 * j + 4) = false := lowRule_high (by omega)
  have hin : (decide (0x4000 ≤ 0x4000 + 8 * j + 4) && decide (0x4000 + 8 * j + 4 < 0x8000) && (0x4000 + 8 * j + 4) % 4 == 0) = true := by
    simp only [Bool.and_eq_true, decide_eq_true_eq, beq_iff_eq]
    omega
  have hodd : ((0x4000 + 8 * j + 4) % 8 == 0) = false := beq_false_of_ne (by omega)
  have hq : (0x4000 + 8 * j + 4 - 0x4000) / 4 = 2 * j + 1 := by omega
  rw [registerWrite_high hlow, regWrite_high hlow, hin, hodd, hq]
  rfl
end Plain

/-- `PMBASE` takes what is written into its fields. -/
theorem pmbase_write (old v : Word) : RegDesc.write ⟨bits 63 63 ||| bits 47 12, 0, 0, 0⟩ old v &&& (bits 63 63 ||| bits 47 12) = v &&& (bits 63 63 ||| bits 47 12) := by
  generalize hm : bits 63 63 ||| bits 47 12 = m
  refine BitVec.eq_of_getLsbD_eq fun i hi => ?_
  simp only [RegDesc.write, BitVec.getLsbD_and, BitVec.getLsbD_or, BitVec.getLsbD_not, BitVec.ofNat_eq_ofNat, BitVec.getLsbD_zero, hi, decide_true, Bool.and_false, Bool.not_false, Bool.true_and, Bool.and_true]
  cases m.getLsbD i
  · rw [Bool.and_false, Bool.and_false]
  · simp only [Bool.not_true, Bool.and_false, Bool.false_or, Bool.and_true]

/-- Settles O50: a write by its register's description (`registerWrite_plain_ends`), of a proof entry (`proofWrite_at`, `proofWrite_noEarly`), and the writes that act as events. -/
theorem registerWrites : Obligations.RegisterWrites := by
  unfold Obligations.RegisterWrites
  intro s d v plain
  refine ⟨fun off hoff r hr => ?_, fun q hinv => ⟨?_, ?_⟩, ?_, rfl, rfl, rfl, rfl, rfl, fun h => ⟨?_, fun h0 => ?_⟩, ?_⟩
  · have hown : ∀ off ∈ plain, ownRule off = false := by decide
    obtain ⟨t, ht, hmem, hreg, hrest, -⟩ := registerWrite_plain_ends (s := s) (v := v) (hown off hoff) hr
    exact ⟨t, (exec_registerWrite d off v s).trans ht, hmem, hreg, hrest⟩
  · have hj : q.toNat / 2 < 2048 := by have := q.isLt; omega
    have hq : (BitVec.ofNat 12 (2 * (q.toNat / 2) + 1)).toNat = 2 * (q.toNat / 2) + 1 := by
      rw [BitVec.toNat_ofNat]
      omega
    refine ((exec_registerWrite d _ v s).trans (registerWrite_proof hj)).trans ?_
    rw [exec_proofEntryWrite, execProofEntryWrite, hq]
  · have hq : q.toNat % 4096 = q.toNat := Nat.mod_eq_of_lt q.isLt
    refine ⟨_, exec_proofEntryWrite d q _ s, fun h => sameMem_modDie s d _ (proofWrite_noEarly h), ?_, fun p hp => ?_⟩
    · rw [State.die_modDie_same, proofWrite_at (hinv.proofs d), if_pos rfl]
    · rw [State.die_modDie_same, proofWrite_at (hinv.proofs d), if_neg (by rw [hq]; exact hp)]
  · obtain ⟨t, ht, hmem, hreg, hrest, hslot⟩ := registerWrite_plain_ends (s := s) (d := d) (v := v) (off := rPMBASE) (r := ⟨bits 63 63 ||| bits 47 12, 0, 0, 0⟩) (by decide) rfl
    refine ⟨t, (exec_registerWrite d rPMBASE v s).trans ht, ?_, hrest, hmem, fun k => congrArg Slot.pmc (hslot k)⟩
    rw [hreg]
    exact pmbase_write _ _
  · have hw : regWrite s d 0x720 v = if bitAt v 63 then syscDone s d (v.setWidth 8) else s := rfl
    have hq : regWaits s d 0x720 = !(s.die d).sysQuiet := rfl
    rw [exec_registerWrite, exec_syscdone, execRegisterWrite, execSyscdone, hq, hw, h]
    cases (s.die d).sysQuiet <;> rfl
  · have hw : regWrite s d 0x810 v = if bitAt v 63 then fltResp s d (v.setWidth 8) (fld v 8 2) else s := rfl
    have hq : regWaits s d 0x810 = false := rfl
    rw [exec_registerWrite, exec_fltrespCont, execRegisterWrite, execFltrespCont, hq, hw, h, h0]
    rfl
  · refine (exec_registerWrite d 0xFF8 v s).trans ?_
    rw [registerWrite_described (by decide)]
    rfl

end Sys2Proof.Proofs
end

section
/-! SUPPORT. Time (O51): a reference period, the clock's adjustment, breakpoints on a tick. -/

namespace Sys2Proof.Proofs

open Sys2Proof Sys2Proof.Machine Sys2Proof.Laws

theorem foldl_modDie_die (f : DieId → Die → Die) {l : List DieId} (hl : l.Nodup) (s : State) (d : DieId) :
    (l.foldl (fun s e => s.modDie e (f e)) s).die d = if d ∈ l then f d (s.die d) else s.die d := by
  induction l generalizing s with
  | nil => rfl
  | cons e l ih =>
    obtain ⟨he, hl'⟩ := List.nodup_cons.1 hl
    rw [List.foldl_cons, ih hl']
    by_cases hd : d = e
    · subst hd
      rw [if_neg he, if_pos List.mem_cons_self, State.die_modDie_same]
    · rw [State.die_modDie_ne _ (Ne.symm hd)]
      simp only [List.mem_cons, hd, false_or]
theorem mem_allDies (d : DieId) : d ∈ allDies := by
  revert d
  decide
theorem allDies_nodup : allDies.Nodup := by decide
theorem allDies_modDie (f : DieId → Die → Die) (s : State) (d : DieId) : (allDies.foldl (fun s e => s.modDie e (f e)) s).die d = f d (s.die d) :=
  (foldl_modDie_die f allDies_nodup s d).trans (if_pos (mem_allDies d))

/-! ## A breakpoint that fires (R349, R350) -/

section Break
variable {s : State} {d : DieId}

theorem leaveList_reg (barred : Bool) (xs : List (Nat × Nat)) (s : State) : ((xs.foldl (fun s x => leaveTeam s d x.1 x.2 barred) s).die d).reg = (s.die d).reg := by
  induction xs generalizing s with
  | nil => rfl
  | cons x xs ih => exact (ih _).trans (leaveTeam_spec s d x.1 x.2 barred).1
theorem leaveTeam_ne {e : DieId} (h : d ≠ e) (lid t : Nat) (barred : Bool) (s : State) : (leaveTeam s d lid t barred).die e = s.die e := by
  have hask (ks : List SlotId) (s : State) : (askSlots d s ks).die e = s.die e := by
    induction ks generalizing s with
    | nil => rfl
    | cons k ks ih =>
      refine (ih _).trans ?_
      dsimp only
      split
      · rfl
      · exact State.die_modSlot_ne _ h _ _
  cases hx : (s.die d).sched.team lid t with
  | none => rw [leaveTeam_absent (.inl hx)]
  | some x =>
  cases hl : (s.die d).sched.launch lid with
  | none => rw [leaveTeam_absent (.inr hl)]
  | some l =>
  cases hc : (x.leaving || !(s.die d).schedOn d) with
  | true =>
    rw [leaveTeam_stays hx hl hc]
    exact State.die_modDie_ne _ h _
  | false =>
    obtain ⟨hlv, hon⟩ := Bool.or_eq_false_iff.1 hc
    rw [leaveTeam_goes hx hl hlv ((Bool.not_eq_false' _).mp hon), hask, leaveStart, State.die_modDie_ne _ h]
    exact State.die_modDie_ne _ h _
theorem leaveList_ne {e : DieId} (h : d ≠ e) (barred : Bool) (xs : List (Nat × Nat)) (s : State) : (xs.foldl (fun s x => leaveTeam s d x.1 x.2 barred) s).die e = s.die e := by
  induction xs generalizing s with
  | nil => rfl
  | cons x xs ih => exact (ih _).trans (leaveTeam_ne h x.1 x.2 barred s)

/-- The breakpoint's register with `EN` cleared, and its record in the trace. -/
def breakMark (d : DieId) (n : Fin 4) (y : Die) : Die := trcRecord d (y.setRf d (rBRKC + 16 * n.val) 63 1 0) 5 [BitVec.ofNat 8 n.val]
theorem breakMark_getReg {n : Fin 4} {o : Nat} (h1 : rBRKC + 16 * n.val ≠ o) (h2 : rTRCPTR ≠ o) (y : Die) : (breakMark d n y).getReg d o = y.getReg d o :=
  (getReg_trcRecord h2 _ _ _).trans (getReg_setRf_ne _ _ h1)
theorem breakMark_en {n : Fin 4} (y : Die) : (breakMark d n y).rf d (rBRKC + 16 * n.val) 63 1 = 0 := by
  have h : rTRCPTR ≠ rBRKC + 16 * n.val := by
    have := n.isLt
    unfold rTRCPTR rBRKC
    omega
  rw [Die.rf, breakMark, getReg_trcRecord h]
  exact rf_setRf _ _ (by decide) (by decide)
/-- The registers after the action are those of the mark. -/
theorem breakAct_reg (n : Fin 4) (xs : List (Nat × Nat)) (s : State) : ((breakAct s d n xs).die d).reg = (breakMark d n (s.die d)).reg := by
  have hm : ((s.modDie d (breakMark d n)).die d).reg = (breakMark d n (s.die d)).reg := by rw [State.die_modDie_same]
  unfold breakAct
  dsimp only
  split
  · exact (leaveList_reg true xs _).trans hm
  · change (((s.modDie d (breakMark d n)).modDie d fun y => { y with gated := true }).die d).reg = _
    rw [State.die_modDie_same]
    exact hm
  · exact hm
theorem breakAct_ne {e : DieId} (h : d ≠ e) (n : Fin 4) (xs : List (Nat × Nat)) (s : State) : (breakAct s d n xs).die e = s.die e := by
  unfold breakAct
  dsimp only
  split
  · exact (leaveList_ne h true xs _).trans (State.die_modDie_ne _ h _)
  · exact (State.die_modDie_ne _ h _).trans (State.die_modDie_ne _ h _)
  · exact State.die_modDie_ne _ h _
theorem breakAct_gates {n : Fin 4} (xs : List (Nat × Nat)) (h : fld ((s.die d).getReg d (rBRKC + 16 * n.val)) 60 2 = 1) :
    ((breakAct s d n xs).die d).gated = true ∧ vget (breakAct s d n xs).shot d = some ((breakAct s d n xs).die d) := by
  unfold breakAct
  simp only [h]
  refine ⟨?_, vget_vset_same _ _ _⟩
  change (((s.modDie d (breakMark d n)).modDie d fun y => { y with gated := true }).die d).gated = true
  rw [State.die_modDie_same]

/-- A tick breakpoint that is armed, at or past its tick. -/
def BreakDue (y : Die) (d : DieId) (n : Fin 4) : Prop :=
  bitAt (y.getReg d (rBRKC + 16 * n.val)) 63 = true ∧ bitAt (y.getReg d (rBRKC + 16 * n.val)) 62 = true ∧ fld (y.getReg d (rBRKC + 16 * n.val)) 60 2 ≠ 3 ∧ (y.getReg d (rBRKV + 16 * n.val)).toNat ≤ (y.tick d).toNat
theorem breakTick_cond {y : Die} {n : Fin 4} : (!bitAt (y.getReg d (rBRKC + 16 * n.val)) 63 || !bitAt (y.getReg d (rBRKC + 16 * n.val)) 62 || decide (fld (y.getReg d (rBRKC + 16 * n.val)) 60 2 = 3) ||
    (y.tick d).ult (y.getReg d (rBRKV + 16 * n.val))) = true ↔ ¬ BreakDue y d n := by
  rw [BreakDue, Bool.or_eq_true, Bool.or_eq_true, Bool.or_eq_true, Bool.not_eq_true', Bool.not_eq_true', decide_eq_true_iff, BitVec.ult, decide_eq_true_iff]
  cases bitAt (y.getReg d (rBRKC + 16 * n.val)) 63 <;> cases bitAt (y.getReg d (rBRKC + 16 * n.val)) 62 <;> simp
  exact or_iff_not_imp_left
theorem breakTick_idle {n : Fin 4} (h : ¬ BreakDue (s.die d) d n) : breakTick s d n = s := if_pos (breakTick_cond.2 h)
theorem breakTick_fires {n : Fin 4} (h : BreakDue (s.die d) d n) : ∃ xs, breakTick s d n = breakAct s d n xs := ⟨_, if_neg fun hc => breakTick_cond.1 hc h⟩

/-- No breakpoint moves the count of a die. -/
theorem breakTick_tick (n : Fin 4) (e : DieId) (s : State) : ((breakTick s d n).die e).tick e = (s.die e).tick e := by
  by_cases h : BreakDue (s.die d) d n
  · obtain ⟨xs, hx⟩ := breakTick_fires h
    rw [hx]
    by_cases he : d = e
    · subst he
      refine (getReg_congr d (breakAct_reg n xs s) _).trans (breakMark_getReg ?_ (by decide) _)
      have := n.isLt
      unfold rBRKC rTICK
      omega
    · rw [breakAct_ne he]
  · rw [breakTick_idle h]
end Break

/-! ## A reference period (R341) -/

section Tick
variable {d : DieId}

/-- Registers and bytes, which what falls on a tick leaves as they are. -/
def regMem (y : Die) : Sparse Word × List Host.Cell := (y.reg, y.mem)
theorem regMem_sched (y : Die) (q : Sched) : regMem { y with sched := q } = regMem y := rfl
theorem getReg_regMem {y z : Die} (h : regMem y = regMem z) (o : Nat) : y.getReg d o = z.getReg d o := by
  have := congrArg Prod.fst h
  exact getReg_congr d this o
theorem mem_regMem {y z : Die} (h : regMem y = regMem z) : y.mem = z.mem := by
  have := congrArg Prod.snd h
  exact this
theorem countSlot_regMem (y : Die) (dn : DieId) (k : SlotId) (ev n : Nat) : regMem (y.countSlot dn k ev n) = regMem y := by
  unfold Die.countSlot
  split <;> rfl
theorem countOwn_regMem (y : Die) (dn : DieId) (k : SlotId) (ev : Nat) : regMem (y.countOwn dn k ev) = regMem y := by
  unfold Die.countOwn
  split
  · exact countSlot_regMem _ _ _ _ _
  · rfl
theorem freeCounts_regMem (y : Die) (n : Nat) : regMem (y.freeCounts d n) = regMem y := by
  unfold Die.freeCounts
  split
  · rfl
  · dsimp only
    refine (regMem_sched _ _).trans (foldl_keeps regMem (fun y k => ?_) allSlots y)
    split
    · rfl
    · exact (countSlot_regMem _ _ _ _ _).trans (countSlot_regMem _ _ _ _ _)
theorem runQuiet_regMem (y : Die) (n : Nat) :
    regMem (((allSlots.foldl (fun y k => if (y.slot k).ctl.act != .idle then y.countOwn d k 10 else y) y).freeCounts d n).class0Wait d) = regMem y := by
  refine (freeCounts_regMem _ n).trans (foldl_keeps regMem (fun y k => ?_) allSlots y)
  split
  · exact countOwn_regMem _ _ _ _
  · rfl

/-- What falls on the tick of a die that runs, up to its breakpoints. -/
def runStart (s : State) (d : DieId) : State :=
  let s := s.modDie d fun y =>
    let y := allSlots.foldl (fun y k => if (y.slot k).ctl.act != .idle then y.countOwn d k 10 else y) y
    let y := (y.freeCounts d s.draws).class0Wait d
    { y with
      bootAge := y.bootAge + 1
      beatAge := y.beatAge + 1, grantAge := y.grantAge + 1
      bands := Vector.ofFn fun b => let x := vget y.bands b; if y.margRuns d b then { x with mw := x.mw + 1 } else x }
  let s := { s with draws := s.draws + tickDraws }
  if beatTicks ≤ (s.die d).beatAge then s.beats d else s
theorem runTick_eq (s : State) (d : DieId) : runTick s d = (List.finRange 4).foldl (fun s n => breakTick s d n) (runStart s d) := rfl

theorem beats_regMem (s : State) (d e : DieId) : regMem ((s.beats d).die e) = regMem (s.die e) := by
  have hsend (hs : List DieId) (s : State) : regMem ((hs.foldl (fun s h => s.send d h (.beat (vget (s.die d).gate.v d))) s).die e) = regMem (s.die e) := by
    induction hs generalizing s with
    | nil => rfl
    | cons h hs ih => exact (ih _).trans (congrArg regMem (State.send_die _ _ _ _ _))
  unfold State.beats
  by_cases he : d = e
  · subst he
    rw [State.die_modDie_same]
    exact hsend _ _
  · rw [State.die_modDie_ne _ he]
    exact hsend _ _
theorem runStart_regMem (s : State) (d e : DieId) : regMem ((runStart s d).die e) = regMem (s.die e) := by
  unfold runStart
  dsimp only
  generalize hu : s.modDie d _ = u
  have hone : regMem (u.die e) = regMem (s.die e) := by
    rw [← hu]
    by_cases he : d = e
    · subst he
      rw [State.die_modDie_same]
      exact runQuiet_regMem _ _
    · rw [State.die_modDie_ne _ he]
  split
  · exact (beats_regMem _ d e).trans hone
  · exact hone

/-- The count of every die stands through the ticks of one. -/
theorem runTick_tick (s : State) (d e : DieId) : ((runTick s d).die e).tick e = (s.die e).tick e := by
  have hb (ns : List (Fin 4)) (s : State) : ((ns.foldl (fun s n => breakTick s d n) s).die e).tick e = (s.die e).tick e := by
    induction ns generalizing s with
    | nil => rfl
    | cons n ns ih => exact (ih _).trans (breakTick_tick n e s)
  rw [runTick_eq, hb]
  exact getReg_regMem (runStart_regMem s d e) rTICK
/-- No breakpoint of a die is enabled. -/
def NoBreak (y : Die) (d : DieId) : Prop := ∀ n : Fin 4, bitAt (y.getReg d (rBRKC + 16 * n.val)) 63 = false
theorem noBreak_congr {y z : Die} (h : regMem y = regMem z) (hz : NoBreak z d) : NoBreak y d := fun n => by
  rw [getReg_regMem h]
  exact hz n
theorem runTick_noBreak {s : State} (h : NoBreak (s.die d) d) (e : DieId) : regMem ((runTick s d).die e) = regMem (s.die e) := by
  have hb (ns : List (Fin 4)) (s : State) (h : NoBreak (s.die d) d) : ns.foldl (fun s n => breakTick s d n) s = s := by
    induction ns with
    | nil => rfl
    | cons n ns ih =>
      rw [List.foldl_cons, breakTick_idle fun hdue => Bool.false_ne_true ((h n).symm.trans hdue.1)]
      exact ih
  rw [runTick_eq, hb _ _ (noBreak_congr (runStart_regMem s d d) h)]
  exact runStart_regMem s d e

/-- The counts of the dies, as a period moves them on. -/
def counted (s : State) : State := allDies.foldl (fun s e => s.modDie e fun y =>
  let y := y.setReg rTICK (y.tick e + 1)
  if y.inReset then y else y.charge) s
/-- The ticks of the dies that run. -/
def ticked (s : State) (ds : List DieId) : State := ds.foldl (fun s e => if (s.die e).alive then runTick s e else s) s

theorem referenceTick_waits {s : State} {e : DieId} (h : (s.die e).windowDue e = true) : execReferenceTick s = .next s := by
  have hany : (allDies.any fun e => (s.die e).windowDue e) = true := List.any_eq_true.2 ⟨e, mem_allDies e, h⟩
  exact if_pos hany
theorem referenceTick_runs {s : State} (h : ∀ e, (s.die e).windowDue e = false) : execReferenceTick s = .next (ticked (counted s) allDies) := by
  refine if_neg fun hc => ?_
  obtain ⟨e, -, he⟩ := List.any_eq_true.1 hc
  exact Bool.false_ne_true ((h e).symm.trans he)
theorem counted_die (s : State) (d : DieId) : regMem ((counted s).die d) = regMem ((s.die d).setReg rTICK ((s.die d).tick d + 1)) := by
  rw [counted, allDies_modDie]
  dsimp only
  split
  · rfl
  · exact regMem_sched _ _
theorem counted_tick (s : State) (d : DieId) : ((counted s).die d).tick d = (s.die d).tick d + 1 :=
  (getReg_regMem (counted_die s d) rTICK).trans (getReg_setReg _ _ _ _)
theorem ticked_tick (ds : List DieId) (s : State) (d : DieId) : ((ticked s ds).die d).tick d = (s.die d).tick d := by
  unfold ticked
  induction ds generalizing s with
  | nil => rfl
  | cons e ds ih =>
    refine (ih _).trans ?_
    dsimp only
    split
    · exact runTick_tick s e d
    · rfl
theorem ticked_regMem (ds : List DieId) {s : State} (h : ∀ e, NoBreak (s.die e) e) (d : DieId) : regMem ((ticked s ds).die d) = regMem (s.die d) := by
  unfold ticked
  induction ds generalizing s with
  | nil => rfl
  | cons e ds ih =>
    rw [List.foldl_cons]
    split
    · exact (ih fun e' => noBreak_congr (runTick_noBreak (h e) e') (h e')).trans (runTick_noBreak (h e) d)
    · exact ih h
theorem counted_noBreak {s : State} {e : DieId} (h : NoBreak (s.die e) e) : NoBreak ((counted s).die e) e := by
  refine noBreak_congr (counted_die s e) fun n => ?_
  rw [getReg_setReg_ne]
  · exact h n
  · have := n.isLt
    unfold rTICK rBRKC
    omega
/-- A reference period adds one to every count; without breakpoints it changes no byte. -/
theorem referenceTick_ends {s : State} (h : ∀ e, (s.die e).windowDue e = false) : ∃ t, execReferenceTick s = .next t ∧ (∀ d, t.tick d = s.tick d + 1) ∧ ((∀ e, NoBreak (s.die e) e) → SameMem s t) := by
  refine ⟨_, referenceTick_runs h, fun d => (ticked_tick _ _ d).trans (counted_tick s d), fun hb d a => ?_⟩
  have h1 := mem_regMem (ticked_regMem allDies (fun e => counted_noBreak (hb e)) d)
  have h2 := mem_regMem (counted_die s d)
  rw [h1, h2]
  rfl

/-! ## The clock's adjustment (R341) -/

theorem getReg_trcMark {o : Nat} (ho : rTRCPTR ≠ o) (y : Die) : (trcMark d y).getReg d o = y.getReg d o := by
  unfold trcMark
  split
  · exact getReg_trcResync ho y
  · rfl
theorem tickAdj_ignored {s : State} {v : Word} (h : d ≠ 0 ∨ ∃ e, bitAt ((s.die e).getReg e rPROCBASE) 0 = true) : tickAdj s d v = s := by
  refine if_pos ?_
  rw [Bool.or_eq_true, bne_iff_ne, List.any_eq_true]
  exact h.imp_right fun ⟨e, he⟩ => ⟨e, mem_allDies e, he⟩
theorem tickAdj_tick {s : State} {v : Word} (h : ∀ e, bitAt ((s.die e).getReg e rPROCBASE) 0 = false) (e : DieId) : (tickAdj s 0 v).tick e = s.tick e + v := by
  have hc : ¬ ((0 : DieId) != 0 || allDies.any fun e => bitAt ((s.die e).getReg e rPROCBASE) 0) = true := by
    rw [bne_self_eq_false, Bool.false_or, List.any_eq_true]
    rintro ⟨e, -, he⟩
    exact Bool.false_ne_true ((h e).symm.trans he)
  unfold tickAdj
  rw [if_neg hc, State.tick, allDies_modDie]
  dsimp only
  split
  · exact (getReg_trcMark (by decide) _).trans (getReg_setReg _ _ _ _)
  · exact getReg_setReg _ _ _ _
end Tick

end Sys2Proof.Proofs
end

section
/-! SUPPORT. The trace's wraps, categories, and the contact sheet (O51). -/

namespace Sys2Proof.Proofs

open Sys2Proof Sys2Proof.Machine Sys2Proof.Laws

/-! ## A word written through a mask -/

theorem masked_bit {old v m : Word} {i : Nat} (h : m.getLsbD i = true) : ((old &&& ~~~ m) ||| (v &&& m)).getLsbD i = v.getLsbD i := by
  have hi : i < 64 := BitVec.lt_of_getLsbD h
  simp only [BitVec.getLsbD_or, BitVec.getLsbD_and, BitVec.getLsbD_not, h, hi, decide_true, Bool.not_true, Bool.and_false, Bool.false_or, Bool.and_true]
/-- Inside the mask, what is written is read. -/
theorem masked_and {old v m n : Word} (h : ∀ i, n.getLsbD i = true → m.getLsbD i = true) : ((old &&& ~~~ m) ||| (v &&& m)) &&& n = v &&& n := by
  refine BitVec.eq_of_getLsbD_eq fun i _ => ?_
  rw [BitVec.getLsbD_and, BitVec.getLsbD_and]
  cases hn : n.getLsbD i with
  | false => rw [Bool.and_false, Bool.and_false]
  | true => rw [masked_bit (h i hn)]

/-! ## How far a record takes the trace (R343) -/

section Wraps
variable {dn : DieId}

theorem trcSize_le (y : Die) : 0 < trcSize y dn ∧ trcSize y dn ≤ 2 ^ 30 := by
  unfold trcSize
  refine ⟨Nat.two_pow_pos _, Nat.pow_le_pow_right (by decide) ?_⟩
  split
  · next h =>
    rw [Bool.and_eq_true, decide_eq_true_iff, decide_eq_true_iff] at h
    exact h.2
  · decide
theorem trcSize_congr {y z : Die} (h : y.getReg dn rTRCBASE = z.getReg dn rTRCBASE) : trcSize y dn = trcSize z dn := by
  unfold trcSize Die.rf
  rw [h]

/-- One byte of the trace: the place after it, and a wrap at the buffer's end. -/
def trcByte (dn : DieId) (y : Die) (b : Byte) : Die := trcBytes dn y [b]
theorem trcByte_base (y : Die) (b : Byte) : (trcByte dn y b).getReg dn rTRCBASE = y.getReg dn rTRCBASE := getReg_trcBytes (by decide) _ _
theorem trcByte_inside {y : Die} (b : Byte) (h : y.rf dn rTRCPTR 0 32 % trcSize y dn + 1 < trcSize y dn) :
    (trcByte dn y b).rf dn rTRCPTR 0 32 = y.rf dn rTRCPTR 0 32 % trcSize y dn + 1 ∧ (trcByte dn y b).rf dn rTRCPTR 32 32 = y.rf dn rTRCPTR 32 32 := by
  have hle := (trcSize_le (dn := dn) y).2
  unfold trcByte trcBytes
  rw [List.foldl_cons, List.foldl_nil]
  dsimp only
  rw [if_pos h]
  refine ⟨(rf_setRf _ _ (by decide) (by decide)).trans (Nat.mod_eq_of_lt (by omega)), ?_⟩
  exact rf_setRf_disjoint _ _ (by decide) (by decide)
theorem trcByte_wraps {y : Die} (b : Byte) (h : trcSize y dn ≤ y.rf dn rTRCPTR 0 32 % trcSize y dn + 1) :
    (trcByte dn y b).rf dn rTRCPTR 0 32 = 0 ∧ (trcByte dn y b).rf dn rTRCPTR 32 32 = (y.rf dn rTRCPTR 32 32 + 1) % 2 ^ 32 := by
  unfold trcByte trcBytes
  rw [List.foldl_cons, List.foldl_nil]
  dsimp only
  rw [if_neg (Nat.not_lt.2 h)]
  refine ⟨?_, (rf_setRf _ _ (by decide) (by decide)).trans rfl⟩
  exact (rf_setRf_disjoint _ _ (by decide) (by decide)).trans (rf_setRf _ _ (by decide) (by decide))

/-- A record no longer than the buffer wraps at most once: when it reaches the buffer's end. -/
theorem trcBytes_wraps (bs : List Byte) (y : Die) (h : bs.length ≤ trcSize y dn) :
    (trcBytes dn y bs).rf dn rTRCPTR 32 32 = (y.rf dn rTRCPTR 32 32 + if trcSize y dn ≤ y.rf dn rTRCPTR 0 32 % trcSize y dn + bs.length then 1 else 0) % 2 ^ 32 := by
  have hpos := (trcSize_le (dn := dn) y).1
  have hmod : y.rf dn rTRCPTR 0 32 % trcSize y dn < trcSize y dn := Nat.mod_lt _ hpos
  induction bs generalizing y with
  | nil =>
    rw [if_neg (by simpa using hmod)]
    exact (Nat.mod_eq_of_lt (fld_lt _ _ _)).symm
  | cons b bs ih =>
    have hsize : trcSize (trcByte dn y b) dn = trcSize y dn := trcSize_congr (trcByte_base y b)
    have hlen : bs.length + 1 ≤ trcSize y dn := h
    have hih := ih (trcByte dn y b) (by rw [hsize]; omega) (by rw [hsize]; exact hpos) (by rw [hsize]; exact Nat.mod_lt _ hpos)
    rw [hsize] at hih
    refine Eq.trans ?_ (hih.trans ?_)
    · rfl
    · rw [List.length_cons]
      by_cases hin : y.rf dn rTRCPTR 0 32 % trcSize y dn + 1 < trcSize y dn
      · obtain ⟨hoff, hwr⟩ := trcByte_inside b hin
        rw [hoff, hwr, Nat.mod_eq_of_lt hin]
        simp only [Nat.add_assoc, Nat.add_comm 1]
      · obtain ⟨hoff, hwr⟩ := trcByte_wraps b (Nat.not_lt.1 hin)
        rw [hoff, hwr, Nat.zero_mod, if_neg (by omega), if_pos (by omega), Nat.add_zero, Nat.mod_mod]
/-- A resync record is nine bytes. -/
theorem trcResync_wraps (y : Die) (h : 9 ≤ trcSize y dn) :
    (trcResync dn y).rf dn rTRCPTR 32 32 = (y.rf dn rTRCPTR 32 32 + if trcSize y dn ≤ y.rf dn rTRCPTR 0 32 % trcSize y dn + 9 then 1 else 0) % 2 ^ 32 := by
  have hlen (t : Word) : (0x80#8 :: wordLe 8 t).length = 9 := by rw [List.length_cons, wordLe, length_natLe]
  have hset (t : Trace) : trcSize { y with trace := t } dn = trcSize y dn := rfl
  have hb := trcBytes_wraps (dn := dn) (0x80#8 :: wordLe 8 (y.tick dn)) { y with trace := { y.trace with resync := false, last := y.tick dn } } (by rw [hset, hlen]; exact h)
  rw [hset, hlen] at hb
  exact hb
end Wraps

/-! ## `TRCBASE` (R343) -/

section TraceWrite
variable {d : DieId} {v : Word} {y : Die}

/-- The fields of `TRCBASE` that software writes. -/
def trcMask : Word := bits 63 63 ||| bits 47 12 ||| bits 5 0
theorem trcMask_bit {i : Nat} (hi : i < 64) : trcMask.getLsbD i = (decide (i = 63) || (decide (12 ≤ i) && decide (i < 48)) || decide (i < 6)) := by
  have h63 := getLsbD_bits (lo := 63) (len := 1) (by decide) hi
  have h12 := getLsbD_bits (lo := 12) (len := 36) (by decide) hi
  have h0 := getLsbD_bits (lo := 0) (len := 6) (by decide) hi
  rw [trcMask, BitVec.getLsbD_or, BitVec.getLsbD_or, h63, h12, h0]
  have e63 : (decide (63 ≤ i) && decide (i < 63 + 1)) = decide (i = 63) := by
    rw [← Bool.decide_and]
    exact decide_eq_decide.2 (by omega)
  have e0 : (decide (0 ≤ i) && decide (i < 0 + 6)) = decide (i < 6) := by
    rw [← Bool.decide_and]
    exact decide_eq_decide.2 (by omega)
  rw [e63, e0]
/-- The register after the write. -/
def trcNew (d : DieId) (v : Word) (y : Die) : Word := (y.getReg d rTRCBASE &&& ~~~ trcMask) ||| (v &&& trcMask)
theorem trcNew_en : bitAt (trcNew d v y) 63 = bitAt v 63 := masked_bit (by rw [trcMask_bit (by decide)]; rfl)
theorem trcNew_size : fld (trcNew d v y) 0 6 = fld v 0 6 :=
  fld_eq_of_bits fun i hi => masked_bit (by rw [trcMask_bit (by omega), decide_eq_true (show 0 + i < 6 by omega), Bool.or_true])
theorem trcNew_at : trcNew d v y &&& bits 47 12 = v &&& bits 47 12 := by
  refine masked_and fun i hi => ?_
  have h64 : i < 64 := BitVec.lt_of_getLsbD hi
  have h12 := getLsbD_bits (lo := 12) (len := 36) (by decide) h64
  rw [show (12 + 36 - 1 : Nat) = 47 from rfl, hi, eq_comm, Bool.and_eq_true, decide_eq_true_iff, decide_eq_true_iff] at h12
  rw [trcMask_bit h64, decide_eq_true h12.1, decide_eq_true (show i < 48 from h12.2), Bool.and_self, Bool.or_true, Bool.true_or]

theorem traceWrite_on (h : bitAt v 63 = false ∨ bitAt (y.getReg d rTRCBASE) 63 = true) : y.traceWrite d v = y.setReg rTRCBASE (trcNew d v y) := by
  refine if_neg ?_
  rw [Bool.and_eq_true, Bool.not_eq_true']
  rintro ⟨h1, h2⟩
  rcases h with h | h
  · exact Bool.false_ne_true (h.symm.trans h1)
  · exact Bool.false_ne_true (h2.symm.trans h)
/-- The trace starts: its wraps count from here. -/
def trcStart (d : DieId) (v : Word) (y : Die) : Die := (y.setReg rTRCBASE (trcNew d v y)).setRf d rTRCPTR 32 32 0
theorem traceWrite_starts (h : bitAt v 63 = true) (h0 : bitAt (y.getReg d rTRCBASE) 63 = false) : y.traceWrite d v = trcMark d (trcStart d v y) := by
  refine if_pos ?_
  rw [h, h0]
  rfl
theorem trcStart_base : (trcStart d v y).getReg d rTRCBASE = trcNew d v y := (getReg_setRf_ne _ _ (by decide)).trans (getReg_setReg _ _ _ _)
theorem traceWrite_base : (y.traceWrite d v).getReg d rTRCBASE = trcNew d v y := by
  by_cases h : bitAt v 63 = true
  · cases h0 : bitAt (y.getReg d rTRCBASE) 63 with
    | true =>
      rw [traceWrite_on (.inr h0)]
      exact getReg_setReg _ _ _ _
    | false =>
      rw [traceWrite_starts h h0, getReg_trcMark (by decide)]
      exact trcStart_base
  · rw [traceWrite_on (.inl (Bool.not_eq_true _ ▸ h))]
    exact getReg_setReg _ _ _ _
/-- The buffer's size, by the field of the write. -/
def trcSizeOf (v : Word) : Nat := 2 ^ (if 12 ≤ fld v 0 6 ∧ fld v 0 6 ≤ 30 then fld v 0 6 else 12)
theorem trcStart_size : trcSize (trcStart d v y) d = trcSizeOf v := by
  unfold trcSize Die.rf trcSizeOf
  rw [trcStart_base, trcNew_size]
  simp only [Bool.and_eq_true, decide_eq_true_eq]
theorem trcStart_open : trcOpen (trcStart d v y) d = isDieMem ((v &&& bits 47 12).toNat + trcSizeOf v - 1) := by
  rw [trcOpen, trcStart_base, trcNew_at, trcStart_size]
theorem trcStart_off : (trcStart d v y).rf d rTRCPTR 0 32 = y.rf d rTRCPTR 0 32 := by
  refine (rf_setRf_disjoint _ _ (by decide) (by decide)).trans ?_
  rw [Die.rf, getReg_setReg_ne _ _ _ (by decide)]
  rfl
theorem trcStart_wraps : (trcStart d v y).rf d rTRCPTR 32 32 = 0 := rf_setRf _ _ (by decide) (by decide)
theorem trcSizeOf_ge : 9 ≤ trcSizeOf v := by
  have h : 2 ^ 12 ≤ trcSizeOf v := by
    refine Nat.pow_le_pow_right (by decide) ?_
    split
    · next h => exact h.1
    · exact Nat.le_refl _
  omega
/-- The resync record that begins a trace, and whether it wraps. -/
theorem traceWrite_wraps (h : bitAt v 63 = true) (h0 : bitAt (y.getReg d rTRCBASE) 63 = false) : (y.traceWrite d v).rf d rTRCPTR 32 32 =
    if isDieMem ((v &&& bits 47 12).toNat + trcSizeOf v - 1) = true ∧ trcSizeOf v ≤ y.rf d rTRCPTR 0 32 % trcSizeOf v + 9 then 1 else 0 := by
  rw [traceWrite_starts h h0, trcMark, trcStart_open]
  cases hmem : isDieMem ((v &&& bits 47 12).toNat + trcSizeOf v - 1) with
  | false =>
    rw [if_neg Bool.false_ne_true, if_neg fun hc => Bool.false_ne_true hc.1]
    exact trcStart_wraps
  | true =>
    rw [if_pos rfl]
    have hbytes := trcResync_wraps (dn := d) (trcStart d v y) (by rw [trcStart_size]; exact trcSizeOf_ge)
    rw [trcStart_size, trcStart_wraps, trcStart_off, Nat.zero_add] at hbytes
    refine hbytes.trans ?_
    by_cases hw : trcSizeOf v ≤ y.rf d rTRCPTR 0 32 % trcSizeOf v + 9
    · rw [if_pos hw, if_pos ⟨rfl, hw⟩]
      rfl
    · rw [if_neg hw, if_neg fun hc => hw hc.2]
      rfl
end TraceWrite

/-! ## Categories (R344) -/

section Category
variable {d : DieId} {y : Die} {pid : Byte} {cat : BitVec 3}

theorem xcat_ignored (h : cat = 0 ∨ 4 < cat.toNat) : y.xcat d pid cat = y := by
  refine if_pos ?_
  rw [Bool.or_eq_true, decide_eq_true_iff, decide_eq_true_iff]
  exact h
theorem xcat_sets (h : cat ≠ 0) (h4 : cat.toNat ≤ 4) : y.xcat d pid cat =
    { y with sched := { y.sched with cat := spSet 2 y.sched.cat pid.toNat cat, mark := if cat = 1 then spSet (0, zero5) y.sched.mark pid.toNat (y.tick d, y.sched.accOf pid) else y.sched.mark } } := by
  have hc : ¬ (decide (cat = 0) || decide (4 < cat.toNat)) = true := by
    rw [Bool.or_eq_true, decide_eq_true_iff, decide_eq_true_iff]
    exact fun hc => hc.elim h (Nat.not_lt.2 h4)
  unfold Die.xcat
  rw [if_neg hc]
  by_cases h1 : cat = 1
  · simp only [if_pos h1]
    rfl
  · simp only [if_neg h1]
end Category

/-! ## The contact sheet (R360, R361) -/

section Sheet
variable {d : DieId} {y : Die} {v : Word}

theorem resync_busy (h : bitAt (y.getReg d rRESYNC) 62 = true) : y.resyncWrite d v = y := if_pos h
/-- The sheet taken with `GO`. -/
def sheetTaken (d : DieId) (v : Word) (y : Die) : Die :=
  { (y.setReg rRESYNC (v &&& bits 47 12)).setRf d rRESYNC 62 1 1 with sheet := some ((v &&& bits 47 12).toNat, (y.setReg rRESYNC (v &&& bits 47 12)).sheetBytes d) }
theorem resync_takes (h : bitAt (y.getReg d rRESYNC) 62 = false) (hv : bitAt v 63 = true) : y.resyncWrite d v = sheetTaken d v y := by
  unfold Die.resyncWrite
  rw [h, hv]
  rfl
/-- `RESYNC` itself does not stand in the sheet. -/
theorem sheetBytes_setResync (w : Word) : (y.setReg rRESYNC w).sheetBytes d = y.sheetBytes d := by
  have hreg {o : Nat} (ho : rRESYNC ≠ o) : (y.setReg rRESYNC w).getReg d o = y.getReg d o := getReg_setReg_ne _ _ _ ho
  have hslot : (y.setReg rRESYNC w).sheetSlot d = y.sheetSlot d := by
    funext k
    have hact : (y.setReg rRESYNC w).sheetAct d k = y.sheetAct d k := by
      unfold Die.sheetAct
      simp only [hreg (show rRESYNC ≠ rFLTQ by decide)]
      rfl
    unfold Die.sheetSlot
    rw [hact]
    rfl
  have hlay : (y.setReg rRESYNC w).alayout = y.alayout := rfl
  have hchain : (y.setReg rRESYNC w).achain = y.achain := rfl
  have hcoe : (y.setReg rRESYNC w).coe = y.coe := rfl
  have hkick (n : Nat) : (y.setReg rRESYNC w).kickWord n = y.kickWord n := rfl
  have hproof (q : Nat) : (y.setReg rRESYNC w).proofAt q = y.proofAt q := rfl
  have hsched : (y.setReg rRESYNC w).sched = y.sched := rfl
  unfold Die.sheetBytes Die.tick Die.rf
  simp only [hslot, hlay, hchain, hcoe, hkick, hproof, hsched, hreg (show rRESYNC ≠ rTICK by decide), hreg (show rRESYNC ≠ rBOOTST by decide), hreg (show rRESYNC ≠ rASHAPE by decide), hreg (show rRESYNC ≠ rPGRANT by decide),
    hreg (show rRESYNC ≠ rBIMB by decide), hreg (show rRESYNC ≠ rBIMB + 8 by decide), hreg (show rRESYNC ≠ rBIMB + 16 by decide), hreg (show rRESYNC ≠ rBIMB + 24 by decide),
    hreg (show rRESYNC ≠ rSYSCPTR by decide)]
theorem sheetTaken_sheet : (sheetTaken d v y).sheet = some ((v &&& bits 47 12).toNat, (sheetTaken d v y).sheetBytes d) := by
  have h : (sheetTaken d v y).sheetBytes d = ((y.setReg rRESYNC (v &&& bits 47 12)).setRf d rRESYNC 62 1 1).sheetBytes d := rfl
  rw [h, Die.setRf, sheetBytes_setResync]
  rfl
theorem sheetTaken_busy : bitAt ((sheetTaken d v y).getReg d rRESYNC) 62 = true := by
  rw [bitAt_iff_fld]
  exact rf_setRf _ _ (by decide) (by decide)

/-- The lines of a range, written one after the other. -/
def pokeLines (a : Nat) (bs : List Byte) (psn : Bool) (ls : List Nat) (y : Die) : Die :=
  ls.foldl (fun d ln => d.poke (max a (128 * ln)) (slice bs (max a (128 * ln) - a) (min (a + bs.length) (128 * ln + 128) - max a (128 * ln))) psn) y
theorem pokeLines_memGet (a : Nat) (bs : List Byte) (psn : Bool) (ls : List Nat) {y : Die} (hw : memWf y.mem = true) (j : Nat) :
    memGet (pokeLines a bs psn ls y).mem j = if (a ≤ j ∧ j < a + bs.length) ∧ j / 128 ∈ ls then bs.getD (j - a) 0 else memGet y.mem j := by
  induction ls generalizing y with
  | nil => simp [pokeLines]
  | cons ln ls ih =>
    refine (ih (memWf_poke y _ _ psn hw)).trans ?_
    by_cases hin : (a ≤ j ∧ j < a + bs.length) ∧ j / 128 ∈ ls
    · rw [if_pos hin, if_pos ⟨hin.1, List.mem_cons_of_mem _ hin.2⟩]
    · rw [if_neg hin, memGet_poke _ _ _ _ _ hw]
      by_cases hl : max a (128 * ln) < min (a + bs.length) (128 * ln + 128)
      · rw [length_slice (by omega)]
        by_cases hj : max a (128 * ln) ≤ j ∧ j < max a (128 * ln) + (min (a + bs.length) (128 * ln + 128) - max a (128 * ln))
        · rw [if_pos hj, if_pos ⟨by omega, List.mem_cons.2 (.inl (by omega))⟩, slice_getD _ (by omega)]
          congr 1
          omega
        · rw [if_neg hj, if_neg]
          rintro ⟨hr, hm⟩
          rcases List.mem_cons.1 hm with h | h
          · exact hj (by omega)
          · exact hin ⟨hr, h⟩
      · have hnil : slice bs (max a (128 * ln) - a) (min (a + bs.length) (128 * ln + 128) - max a (128 * ln)) = [] := by
          rw [Nat.sub_eq_zero_of_le (Nat.not_lt.1 hl)]
          rfl
        rw [hnil, if_neg (by rw [List.length_nil]; omega), if_neg]
        rintro ⟨hr, hm⟩
        rcases List.mem_cons.1 hm with h | h
        · omega
        · exact hin ⟨hr, h⟩
theorem memGet_pokes (a : Nat) (bs : List Byte) (psn : Bool) {y : Die} (hw : memWf y.mem = true) (j : Nat) :
    memGet (y.pokes a bs psn).mem j = if a ≤ j ∧ j < a + bs.length then bs.getD (j - a) 0 else memGet y.mem j := by
  refine (pokeLines_memGet a bs psn (linesOf a bs.length) hw j).trans ?_
  by_cases h : a ≤ j ∧ j < a + bs.length
  · rw [if_pos h, if_pos ⟨h, mem_linesOf.2 (by omega)⟩]
  · rw [if_neg h, if_neg fun hc => h hc.1]

variable {s : State}
theorem contactSheet_none (h : (s.die d).sheet = none) : execContactSheetDone d s = .next s := by
  unfold execContactSheetDone
  rw [h]
/-- A sheet in die memory stands there whole, and `BUSY` clears. -/
theorem contactSheet_ends {a : Nat} {bs : List Byte} (h : (s.die d).sheet = some (a, bs)) (hm : isDieMem (a + 4095) = true) (hw : memWf (s.die d).mem = true) : ∃ t, execContactSheetDone d s = .next t ∧
    bitAt ((t.die d).getReg d rRESYNC) 62 = false ∧ (t.die d).sheet = none ∧ ∀ j, memGet (t.die d).mem j = if a ≤ j ∧ j < a + bs.length then bs.getD (j - a) 0 else memGet (s.die d).mem j := by
  refine ⟨s.modDie d fun y => { (y.pokes a bs false).setRf d rRESYNC 62 1 0 with sheet := none }, ?_, ?_⟩
  · unfold execContactSheetDone
    rw [h]
    dsimp only
    simp only [hm, if_true]
  · rw [State.die_modDie_same]
    refine ⟨?_, rfl, fun j => memGet_pokes a bs false hw j⟩
    rw [← Bool.not_eq_true, bitAt_iff_fld]
    have h0 : (((s.die d).pokes a bs false).setRf d rRESYNC 62 1 0).rf d rRESYNC 62 1 = 0 := rf_setRf _ _ (by decide) (by decide)
    exact fun h1 => absurd (h0.symm.trans h1) (by decide)
end Sheet

/-- Settles O51: a reference period (`referenceTick_ends`), the clock's adjustment, categories, the trace's start (`traceWrite_wraps`), a breakpoint (`breakAct_gates`), and the contact sheet. -/
theorem timeAndBreakpoints : Obligations.TimeAndBreakpoints := by
  unfold Obligations.TimeAndBreakpoints
  refine ⟨fun s => ⟨fun ⟨e, he⟩ => ?_, fun h => ?_⟩, fun s v h => ⟨_, exec_tickadj 0 v s, tickAdj_tick h⟩, fun s d v h => ?_, fun s d pid cat hinv => ⟨fun h => ?_, fun h h4 => ?_⟩, fun s d v => ?_, fun s d n => ?_,
    fun s d v hinv => ⟨fun h => ?_, fun h hv => ?_, fun a bs h hlen hm => ?_, fun h => ?_⟩⟩
  · exact (exec_referenceTick s).trans (referenceTick_waits he)
  · obtain ⟨t, ht, htick, hmem⟩ := referenceTick_ends h
    exact ⟨t, (exec_referenceTick s).trans ht, htick, hmem⟩
  · exact (exec_tickadj d v s).trans (congrArg Host.Outcome.next (tickAdj_ignored h))
  · exact (exec_xcat d pid cat s).trans (congrArg Host.Outcome.next (modDie_self (xcat_ignored h)))
  · refine ⟨_, exec_xcat d pid cat s, sameMem_modDie s d _ ?_, ?_⟩
    · rw [xcat_sets h h4]
    · rw [State.die_modDie_same, xcat_sets h h4]
      refine ⟨?_, fun q hq => ?_, fun h1 => ?_⟩
      · exact (spGet_spSet _ _ (hinv.cat d) _ _ _).trans (if_pos rfl)
      · exact (spGet_spSet _ _ (hinv.cat d) _ _ _).trans (if_neg fun e => hq (BitVec.eq_of_toNat_eq e))
      · rw [if_pos h1]
        exact (spGet_spSet _ _ (hinv.mark d) _ _ _).trans (if_pos rfl)
  · refine ⟨_, exec_trcbaseEnable d v s, ?_⟩
    rw [State.die_modDie_same]
    intro rw
    refine ⟨fun _ => traceWrite_base, fun hv => ?_, fun hv h0 => traceWrite_wraps hv h0⟩
    rw [traceWrite_base, trcNew_en]
    exact hv
  · intro c due
    refine ⟨fun h => (exec_breakpointTick d n s).trans (congrArg Host.Outcome.next (breakTick_idle h)), fun h => ?_⟩
    obtain ⟨xs, hx⟩ := breakTick_fires (s := s) (d := d) (n := n) h
    refine ⟨_, (exec_breakpointTick d n s).trans (congrArg Host.Outcome.next hx), ?_, breakAct_gates xs⟩
    rw [rf_congr d (breakAct_reg n xs s)]
    exact breakMark_en _
  · exact (exec_resync d v s).trans (congrArg Host.Outcome.next (modDie_self (resync_busy h)))
  · refine ⟨s.modDie d (sheetTaken d v), ?_, sameMem_modDie s d _ rfl, ?_⟩
    · refine (exec_resync d v s).trans (congrArg Host.Outcome.next (modDie_congr ?_))
      exact resync_takes h hv
    · rw [State.die_modDie_same]
      exact ⟨sheetTaken_sheet, sheetTaken_busy⟩
  · obtain ⟨t, ht, hbusy, hnone, hbytes⟩ := contactSheet_ends h hm (hinv d)
    refine ⟨t, (exec_contactSheetDone d s).trans ht, hbusy, hnone, fun j => ?_⟩
    rw [hbytes j, hlen]
  · exact (exec_contactSheetDone d s).trans (contactSheet_none h)

end Sys2Proof.Proofs
end

section
/-! SUPPORT. What a loss leaves alone (O52): the other dies, the clocks' gate, and `PEERST`. -/

namespace Sys2Proof.Proofs

open Sys2Proof Sys2Proof.Machine Sys2Proof.Laws

/-- Of a die: whether its clocks are gated, and which dies it has lost. -/
def stands (e : DieId) (y : Die) : Bool × Word := (y.gated, y.getReg e rPEERST)
theorem stands_of {e : DieId} {y z : Die} (hg : z.gated = y.gated) (hr : z.reg = y.reg) : stands e z = stands e y := by
  rw [stands, stands, hg, getReg_congr e hr]
theorem stands_setReg {e : DieId} {o : Nat} (y : Die) (v : Word) (h : o ≠ rPEERST) : stands e (y.setReg o v) = stands e y := by
  rw [stands, getReg_setReg_ne _ _ _ h]
  rfl

/-- Only die `e` has moved, and neither its gate nor its losses have. -/
structure Quiet (e : DieId) (s t : State) : Prop where
  others : ∀ k, k ≠ e → t.die k = s.die k
  own : stands e (t.die e) = stands e (s.die e)

section Quiet
variable {e : DieId} {s t u : State}

theorem Quiet.refl (s : State) : Quiet e s s := ⟨fun _ _ => rfl, rfl⟩
theorem Quiet.trans (h : Quiet e s t) (g : Quiet e t u) : Quiet e s u := ⟨fun k hk => (g.others k hk).trans (h.others k hk), g.own.trans h.own⟩
theorem Quiet.of_die (h : ∀ k, t.die k = s.die k) : Quiet e s t := ⟨fun k _ => h k, congrArg (stands e) (h e)⟩
theorem Quiet.modDie (s : State) {f : Die → Die} (h : stands e (f (s.die e)) = stands e (s.die e)) : Quiet e s (s.modDie e f) where
  others k hk := State.die_modDie_ne _ (Ne.symm hk) _
  own := by rw [State.die_modDie_same, h]
theorem Quiet.send (s : State) (a b : DieId) (m : Msg) : Quiet e s (s.send a b m) := Quiet.of_die fun k => State.send_die s a b m k
theorem Quiet.ite {c : Prop} [Decidable c] (ht : Quiet e s t) (hu : Quiet e s u) : Quiet e s (if c then t else u) := by
  split
  · exact ht
  · exact hu
theorem Quiet.foldl {β : Type} {f : State → β → State} (h : ∀ s b, Quiet e s (f s b)) (l : List β) (s : State) : Quiet e s (l.foldl f s) := by
  induction l generalizing s with
  | nil => exact Quiet.refl s
  | cons b l ih => exact (h s b).trans (ih _)

/-! ## The parts of a request at its home -/

theorem stands_modSlot (y : Die) (k : SlotId) (f : Slot → Slot) : stands e (y.modSlot k f) = stands e y := stands_of rfl rfl
theorem stands_modAg (y : Die) (a : Agent) (f : AgentSt → AgentSt) : stands e (y.modAg a f) = stands e y := by
  cases a with
  | eng k x => cases x <;> rfl
  | _ => rfl
theorem Quiet.modAg (s : State) (a : Agent) (f : AgentSt → AgentSt) : Quiet e s (s.modAg e a f) := Quiet.modDie s (stands_modAg _ _ _)
theorem stands_meet (y : Die) (d : DieId) (pa : Nat) (x : StoreErr) : stands e (y.meet d pa x) = stands e y := by
  have hce (y : Die) (k : Nat) (hk : k < 4) : stands e (y.countCe d k) = stands e y := stands_setReg _ _ (by unfold rMECNT rPEERST; omega)
  have hue (y : Die) (k pa : Nat) (r : Bool) (hk : k < 4) : stands e (y.countUe d k pa r) = stands e y := by
    unfold Die.countUe
    dsimp only
    split
    · exact (stands_setReg _ _ (by decide)).trans (stands_setReg _ _ (by unfold rMECNT rPEERST; omega))
    · exact stands_setReg _ _ (by unfold rMECNT rPEERST; omega)
  have hidx (i : Fin 4) : storeIdx pa i < 4 := by
    unfold storeIdx
    repeat' split
    all_goals decide
  unfold Die.meet
  cases x with
  | ok => rfl
  | corrected k => exact hce _ _ (hidx k)
  | cleanDropped k =>
    dsimp only
    split
    · rfl
    · exact hue _ _ _ _ (hidx k)
  | uncorrectable k => exact hue _ _ _ _ (hidx k)
  | beneath =>
    dsimp only
    split
    · rfl
    · exact hue _ _ _ _ (by decide)
theorem stands_apply (y : Die) (d : DieId) (pa : Nat) (bs : List Byte) (psn : Bool) (x : StoreErr) : stands e (y.apply d pa bs psn x) = stands e y := by
  unfold Die.apply
  split
  · rfl
  · dsimp only
    split
    · rfl
    · exact (stands_of rfl rfl).trans (stands_meet y d pa x)
theorem stands_arrive (y : Die) (grp : BitVec 12) (i : Fin 64) : stands e (y.arrive grp i) = stands e y := by
  unfold Die.arrive
  dsimp only
  split <;> rfl
theorem quiet_refuse (s : State) (src : DieId) (a : Agent) (key cause idx : Nat) : Quiet e s (s.homeRefuse e src a key cause idx) := (Quiet.modDie s rfl).trans (Quiet.send _ _ _ _)
theorem quiet_homeWrite (s : State) (src : DieId) (a : Agent) (key : Nat) (fab : Option FabSrc) (ws : List (Nat × List Byte)) (psn : Bool) (x : StoreErr) : Quiet e s (s.homeWrite e src a key fab ws psn x).1 := by
  have hnow (l : List (Nat × List Byte)) (y : Die) : stands e (l.foldl (fun y w => y.apply e w.1 w.2 psn x) y) = stands e y := foldl_keeps (stands e) (fun y w => stands_apply y e w.1 w.2 psn x) l y
  unfold State.homeWrite
  dsimp only
  split
  · exact Quiet.modDie s (hnow _ _)
  · exact (Quiet.modDie s (hnow _ _)).trans (Quiet.modDie _ rfl)
theorem quiet_peerWrite (s : State) (src : DieId) (a : Agent) (key : Nat) (ws : List (Nat × List Byte)) (psn : Bool) (x : StoreErr) : Quiet e s (s.peerWrite e src a key ws psn x) := by
  unfold State.peerWrite
  dsimp only
  split
  · exact (quiet_homeWrite s src a key none ws psn x).trans (Quiet.send _ _ _ _)
  · exact quiet_homeWrite s src a key none ws psn x
theorem quiet_peerAmo (s : State) (src : DieId) (a : Agent) (key pa : Nat) (op : AmoOp) (w64 : Bool) (b c : Word) (x : StoreErr) : Quiet e s (s.peerAmo e src a key pa op w64 b c x) := by
  have hamo (y : Die) : stands e (y.amo pa op w64 b c).2 = stands e y := by
    unfold Die.amo
    generalize (if w64 = true then 8 else 4) = n
    dsimp only
    split <;> rfl
  have hmeet : Quiet e s (s.modDie e fun y => y.meet e pa x) := Quiet.modDie s (stands_meet _ _ _ _)
  unfold State.peerAmo
  dsimp only
  generalize (if w64 = true then 8 else 4) = n
  refine hmeet.trans ?_
  generalize (s.modDie e fun y => y.meet e pa x) = u
  refine Quiet.ite (Quiet.send _ _ _ _) ((Quiet.modDie u ?_).trans (Quiet.send _ _ _ _))
  exact hamo _
theorem quiet_perform (s : State) (src : DieId) (m : Msg) (x : StoreErr) : Quiet e s (s.perform e src m x) := by
  have hbus (a : Agent) (key : Nat) : Quiet e s (s.homeBus e src a key) := Quiet.send _ _ _ _
  unfold State.perform
  dsimp only
  split
  case h_1 =>
    split
    · exact quiet_refuse ..
    · split
      · exact quiet_refuse ..
      · exact Quiet.ite (quiet_peerWrite ..) (hbus _ _)
  case h_2 =>
    split
    · exact quiet_refuse ..
    · split
      · exact quiet_refuse ..
      · exact Quiet.ite (hbus _ _) (Quiet.ite (Quiet.modDie s rfl) (quiet_peerAmo ..))
  case h_3 =>
    split
    · exact quiet_refuse ..
    · exact Quiet.ite (Quiet.modDie s rfl) ((Quiet.modDie s (stands_modSlot _ _ _)).trans (Quiet.send _ _ _ _))
  case h_4 =>
    split
    · exact quiet_refuse ..
    · exact Quiet.ite (Quiet.modDie s rfl) ((Quiet.modDie s (stands_arrive _ _ _)).trans (Quiet.send _ _ _ _))
  case h_5 =>
    split
    · exact quiet_refuse ..
    · split
      · exact quiet_refuse ..
      · exact Quiet.ite (hbus _ _) ((Quiet.modDie s (stands_meet _ _ _ _)).trans (Quiet.send _ _ _ _))
  case h_6 => exact Quiet.refl s
theorem quiet_trackerRefuse (s : State) (src : DieId) (m : Msg) : Quiet e s (s.trackerRefuse e src m) := by
  unfold State.trackerRefuse
  dsimp only
  split <;> exact (Quiet.modDie s rfl).trans (Quiet.send _ _ _ _)
/-- The head request of a source, at its home `e`. -/
theorem quiet_gateRequest (s : State) (src : DieId) (rd : Bool) (x : StoreErr) : Quiet e s (gateRequest s e src rd x) := by
  have htake (s : State) : Quiet e s (if vget (s.die e).gate.taken src then s else s.modDie e fun y => { y with gate := y.gate.takeEntry src }) := Quiet.ite (Quiet.refl s) (Quiet.modDie s rfl)
  unfold gateRequest
  split
  · exact Quiet.refl s
  · split
    · exact Quiet.refl s
    · refine Quiet.ite (Quiet.refl s) (Quiet.ite ((quiet_trackerRefuse s src _).trans (Quiet.modDie _ rfl)) ?_)
      dsimp only
      refine ((htake s).trans (Quiet.modDie _ rfl)).trans (Quiet.ite (Quiet.ite ?_ (Quiet.refl _)) (Quiet.ite ?_ (Quiet.refl _)))
      · exact (quiet_perform _ src _ x).trans (Quiet.modDie _ rfl)
      · exact (Quiet.modDie _ rfl).trans (quiet_perform _ src _ x)
theorem quiet_invalidation (s : State) (h : DieId) : ∃ t, execPublishInvalidation e h s = .next t ∧ Quiet e s t := by
  unfold execPublishInvalidation
  split
  · next n st pa _ _ =>
    have hraise : Quiet e s (if !(vget (s.die e).gate.refd h).isEmpty then s else s.modDie e fun y => { y with gate := y.gate.raise h (n - 1) }) := Quiet.ite (Quiet.refl s) (Quiet.modDie s rfl)
    dsimp only
    generalize (if !(vget (s.die e).gate.refd h).isEmpty then s else s.modDie e fun y => { y with gate := y.gate.raise h (n - 1) }) = u at hraise
    split
    · exact ⟨_, rfl, hraise.trans (Quiet.modDie _ rfl)⟩
    · exact ⟨_, rfl, hraise⟩
  · exact ⟨_, rfl, Quiet.refl s⟩
/-- What a message at the head becomes when its sender is lost. -/
def drainStep (s : State) (e h : DieId) (m : Msg) : State :=
  match m with
  | .write .. | .amo .. | .seminc .. | .arrive .. => gateRequest s e h false .ok
  | .read .. => gateRequest s e h true .ok
  | .beat c => s.modDie e fun y => { y with gate := (y.gate.respond h c).popArr h }
  | .inval .. => match execPublishInvalidation e h s with | .next t => t | _ => s
  | _ => s.modDie e fun y => { y with gate := y.gate.popArr h }
theorem drainArr_cons {s : State} {h : DieId} {n : Nat} {m : Msg} {r : List Msg} (hm : vget (s.die e).gate.arr h = m :: r) :
    drainArr s e h (n + 1) = if (vget ((drainStep s e h m).die e).gate.arr h).length < (vget (s.die e).gate.arr h).length then drainArr (drainStep s e h m) e h n else drainStep s e h m := by
  rw [drainArr, hm]
  rfl
theorem quiet_drainStep (s : State) (h : DieId) (m : Msg) : Quiet e s (drainStep s e h m) := by
  cases m with
  | write | amo | seminc | arrive => exact quiet_gateRequest s h false _
  | read => exact quiet_gateRequest s h true _
  | inval =>
    obtain ⟨t, ht, hq⟩ := quiet_invalidation (e := e) s h
    rw [drainStep, ht]
    exact hq
  | _ => exact Quiet.modDie s rfl
theorem quiet_drainArr (h : DieId) (n : Nat) (s : State) : Quiet e s (drainArr s e h n) := by
  induction n generalizing s with
  | zero => exact Quiet.refl s
  | succ n ih =>
    cases hm : vget (s.die e).gate.arr h with
    | nil =>
      rw [drainArr, hm]
      exact Quiet.refl s
    | cons m r =>
      rw [drainArr_cons hm]
      exact Quiet.ite ((quiet_drainStep s h m).trans (ih _)) (quiet_drainStep s h m)

/-! ## Refusals and faults -/

theorem quiet_modSched (s : State) (f : Sched → Sched) : Quiet e s (s.modSched e f) := Quiet.modDie s rfl
theorem quiet_takeFault (s : State) (k : SlotId) (a : Nat) (f : FaultAt) : Quiet e s (takeFault s e k a f) := by
  unfold takeFault
  dsimp only
  split
  · exact (Quiet.modDie s (stands_modSlot _ _ _)).trans (quiet_modSched _ _)
  · exact Quiet.modDie s (stands_modSlot _ _ _)
theorem quiet_ownFault (s : State) (o : Owner) (k : SlotId) (f : FaultAt) : Quiet e s (ownFault s e o k f) := by
  unfold ownFault
  refine Quiet.ite (quiet_takeFault _ _ _ _) ?_
  split
  · exact Quiet.refl s
  · exact quiet_modSched _ _
theorem quiet_raiseRefusal (s : State) (a : Agent) : Quiet e s (raiseRefusal s e a) := by
  unfold raiseRefusal
  split
  · exact Quiet.refl s
  · exact Quiet.refl s
  · split
    · exact Quiet.refl s
    · dsimp only
      split
      · split
        · exact quiet_ownFault _ _ _ _
        · split
          · exact quiet_ownFault _ _ _ _
          · exact quiet_takeFault _ _ _ _
      · exact quiet_takeFault _ _ _ _
theorem stands_rast (y : Die) (pkg : Nat) (h : DieId) (cause idx : Nat) : stands e (y.rast e pkg h cause idx) = stands e y := stands_setReg _ _ (by decide)
theorem quiet_notDone (s : State) (a : Agent) (p : Sent) : Quiet e s (s.notDone e a p) := by
  have h1 := Quiet.modAg (e := e) s a fun x => { x with refused := x.refused ++ [p] }
  unfold State.notDone
  dsimp only
  generalize (s.modAg e a fun x => { x with refused := x.refused ++ [p] }) = u at h1 ⊢
  refine h1.trans ?_
  split
  · exact Quiet.ite (Quiet.modDie u (stands_modSlot _ _ _)) (Quiet.refl u)
  · exact quiet_raiseRefusal u _
theorem quiet_refused (s : State) (a : Agent) (p : Sent) (pkg : Nat) (h : DieId) (cause idx : Nat) : Quiet e s (s.refused e a p pkg h cause idx) := by
  have h1 : Quiet e s (s.modDie e fun y => y.rast e pkg h cause idx) := Quiet.modDie s (stands_rast _ _ _ _ _)
  exact h1.trans (quiet_notDone _ a p)
theorem quiet_lostReq (s : State) (a : Agent) (p : Sent) : Quiet e s (s.lostReq e a p) := by
  have h1 : Quiet e s (s.modDie e fun y => y.rast e (y.pkg e) p.home 6 p.idx) := Quiet.modDie s (stands_rast _ _ _ _ _)
  exact Quiet.ite (quiet_refused s a p _ _ _ _) h1

/-! ## The loss of a die (R405) -/

theorem stands_killImports (y : Die) (h : DieId) : stands e (y.killImports e h) = stands e y := by
  unfold Die.killImports
  split
  · rfl
  · refine foldl_keeps (stands e) (fun y i => ?_) _ y
    dsimp only
    split <;> rfl
theorem stands_tlbLose (y : Die) (h : DieId) : stands e (y.tlbLose e h) = stands e y := by
  have hend (y : Die) : stands e (y.tlbEnd e) = stands e y := by
    have hset (v : Word) : stands e ((y.setReg rTLBST v).setRf e rTLBINV 62 1 0) = stands e y :=
      (stands_setReg (o := rTLBINV) _ _ (by decide)).trans (stands_setReg (o := rTLBST) _ _ (by decide))
    exact hset _
  unfold Die.tlbLose
  dsimp only
  split
  · split
    · exact hend _
    · rfl
  · rfl

/-- The die that has lost `h`, before its register says so. -/
def afterLoss (s : State) (e h : DieId) : State :=
  allAgents.foldl (fun s a =>
    let mine := (s.ag e a).pend.filter fun p => p.home == h && !p.op.isFab
    let s := s.modAg e a fun x => { x with pend := x.pend.filter fun p => !(p.home == h && !p.op.isFab) }
    raiseRefusal (mine.foldl (fun s p => s.lostReq e a p) s) e a) (drainArr s e h (vget (s.die e).gate.arr h).length)
theorem quiet_afterLoss (s : State) (h : DieId) : Quiet e s (afterLoss s e h) :=
  (quiet_drainArr h _ s).trans (Quiet.foldl (fun _ _ => (Quiet.modAg _ _ _).trans ((Quiet.foldl (fun _ _ => quiet_lostReq _ _ _) _ _).trans (quiet_raiseRefusal _ _))) _ _)
/-- What the loss changes of the die besides its register. -/
def lostDie (e h : DieId) (y : Die) : Die :=
  let y := y.killImports e h
  let y := { y with slots := y.slots.map fun (t : Slot) => t.dropHome h }
  let y := { y with gate := { y.gate with
    want := y.gate.want &&& ~~~ (1#4 <<< h.val), arr := vset y.gate.arr h [], taken := vset y.gate.taken h false, refd := vset y.gate.refd h [], owed := vset y.gate.owed h 0
    back := y.gate.back.filter fun x => x.1 != h, closed := y.gate.closed.filter fun x => x.1.1 != h, excused := vset y.gate.excused h true } }
  y.tlbLose e h
theorem stands_lostDie (y : Die) (h : DieId) : stands e (lostDie e h y) = stands e y := (stands_tlbLose _ h).trans (stands_killImports y h)
theorem loseDie_same {h : DieId} (hc : e = h ∨ (s.die e).isLost e h = true) : loseDie s e h = s := by
  refine if_pos ?_
  rw [Bool.or_eq_true, beq_iff_eq]
  exact hc
theorem loseDie_loses {h : DieId} (hne : e ≠ h) (hl : (s.die e).isLost e h = false) :
    loseDie s e h = (afterLoss s e h).modDie e fun y => (lostDie e h y).setReg rPEERST ((lostDie e h y).getReg e rPEERST ||| (1#64 <<< h.val)) := by
  refine if_neg ?_
  rw [hl, Bool.or_false, beq_iff_eq]
  exact hne
/-- A loss leaves the other dies and the gate as they are, and every loss there was. -/
theorem loseDie_ne {h k : DieId} (hk : k ≠ e) : (loseDie s e h).die k = s.die k := by
  by_cases hc : e = h ∨ (s.die e).isLost e h = true
  · rw [loseDie_same hc]
  · obtain ⟨hne, hl⟩ := not_or.1 hc
    rw [loseDie_loses hne (Bool.not_eq_true _ ▸ hl), State.die_modDie_ne _ (Ne.symm hk)]
    exact (quiet_afterLoss s h).others k hk
theorem loseDie_gated {h : DieId} (k : DieId) : ((loseDie s e h).die k).gated = (s.die k).gated := by
  by_cases hk : k = e
  · subst hk
    by_cases hc : k = h ∨ (s.die k).isLost k h = true
    · rw [loseDie_same hc]
    · obtain ⟨hne, hl⟩ := not_or.1 hc
      rw [loseDie_loses hne (Bool.not_eq_true _ ▸ hl), State.die_modDie_same]
      have h1 := congrArg Prod.fst (stands_lostDie (e := k) ((afterLoss s k h).die k) h)
      have h2 := congrArg Prod.fst (quiet_afterLoss s h (e := k)).own
      exact h1.trans h2
  · rw [loseDie_ne hk]
theorem loseDie_peerst {h : DieId} (hne : e ≠ h) (hl : (s.die e).isLost e h = false) : ((loseDie s e h).die e).getReg e rPEERST = (s.die e).getReg e rPEERST ||| (1#64 <<< h.val) := by
  rw [loseDie_loses hne hl, State.die_modDie_same, getReg_setReg]
  have h1 := congrArg Prod.snd (stands_lostDie (e := e) ((afterLoss s e h).die e) h)
  have h2 := congrArg Prod.snd (quiet_afterLoss s h (e := e)).own
  have hreg : (lostDie e h ((afterLoss s e h).die e)).getReg e rPEERST = (s.die e).getReg e rPEERST := h1.trans h2
  rw [hreg]
theorem bit_or_shift {w : Word} {h k : DieId} : bitAt (w ||| (1#64 <<< h.val)) k.val = (bitAt w k.val || decide (k = h)) := by
  have hh := h.isLt
  have hk := k.isLt
  rw [bitAt, bitAt, BitVec.getLsbD_or, BitVec.getLsbD_shiftLeft, BitVec.getLsbD_one]
  congr 1
  rw [Bool.eq_iff_iff]
  simp only [Bool.and_eq_true, Bool.not_eq_true', decide_eq_true_eq, decide_eq_false_iff_not, Fin.ext_iff]
  omega
theorem loseDie_lost {h : DieId} (hne : e ≠ h) : ((loseDie s e h).die e).isLost e h = true := by
  cases hl : (s.die e).isLost e h with
  | true =>
    rw [loseDie_same (.inr hl)]
    exact hl
  | false =>
    rw [Die.isLost, loseDie_peerst hne hl, bit_or_shift, decide_eq_true rfl, Bool.or_true]
theorem loseDie_keepsLost {h : DieId} (a b : DieId) (hab : (s.die a).isLost a b = true) : ((loseDie s e h).die a).isLost a b = true := by
  by_cases ha : a = e
  · subst ha
    by_cases hc : a = h ∨ (s.die a).isLost a h = true
    · rw [loseDie_same hc]
      exact hab
    · obtain ⟨hne, hl⟩ := not_or.1 hc
      rw [Die.isLost, loseDie_peerst hne (Bool.not_eq_true _ ▸ hl), bit_or_shift]
      exact Bool.or_eq_true _ _ |>.mpr (.inl hab)
  · rw [loseDie_ne ha]
    exact hab
end Quiet

end Sys2Proof.Proofs
end

section
/-! SUPPORT. Notices, failed links, rejoins, and pins held too long (O52). -/

namespace Sys2Proof.Proofs

open Sys2Proof Sys2Proof.Machine Sys2Proof.Laws

/-! ## A die enters reset (R404) -/

section Notice
variable {s : State} {h : DieId}

/-- The scheduling that a die carried for others ends. -/
def uncarry (s : State) (ks : List DieId) : State := ks.foldl (fun s k => s.modDie k fun y => y.setRf k rSCHST 62 1 0) s
theorem uncarry_dies (s : State) (ks : List DieId) : uncarry s ks = { s with dies := (uncarry s ks).dies } := by
  unfold uncarry
  induction ks generalizing s with
  | nil => rfl
  | cons k ks ih =>
    rw [List.foldl_cons, ih]
    rfl
theorem uncarry_die {α : Type} {F : DieId → Die → α} (hF : ∀ k y v, F k (Die.setReg y rSCHST v) = F k y) (s : State) (ks : List DieId) (a : DieId) : F a ((uncarry s ks).die a) = F a (s.die a) := by
  unfold uncarry
  induction ks generalizing s with
  | nil => rfl
  | cons k ks ih =>
    refine (ih _).trans ?_
    by_cases hk : k = a
    · subst hk
      rw [State.die_modDie_same]
      exact hF _ _ _
    · rw [State.die_modDie_ne _ hk]
/-- The notices on both links, before the die is reset. -/
def resetNotices (s : State) (h : DieId) : State := (s.put h true ⟨h, mkDie (h.val + 1), .linkLost⟩).put (mkDie (h.val + 3)) false ⟨h, mkDie (h.val + 3), .linkLost⟩
theorem resetNotices_die (a : DieId) : (resetNotices s h).die a = s.die a := rfl
theorem linkLostNotice_runs : ∃ ks, execLinkLostNotice h s = .next (((uncarry (resetNotices s h) ks).untrain (linksOf h)).modDie h fun y => { y with inReset := true }) := ⟨_, rfl⟩
theorem untrain_trained (s : State) (h : DieId) : vget (s.untrain (linksOf h)).trained h = false ∧ vget (s.untrain (linksOf h)).trained (mkDie (h.val + 3)) = false := by
  have hne : mkDie (h.val + 3) ≠ h := Ne.symm (next_ne h 3 (by decide))
  exact ⟨(vget_vset_ne _ hne _).trans (vget_vset_same _ _ _), vget_vset_same _ _ _⟩
theorem linkLostNotice_ends : ∃ t, execLinkLostNotice h s = .next t ∧ SameMem s t ∧ (t.die h).inReset = true ∧ vget t.east h = vget s.east h ++ [⟨h, mkDie (h.val + 1), .linkLost⟩] ∧
    vget t.west (mkDie (h.val + 3)) = vget s.west (mkDie (h.val + 3)) ++ [⟨h, mkDie (h.val + 3), .linkLost⟩] ∧ vget t.trained h = false ∧ vget t.trained (mkDie (h.val + 3)) = false ∧
    ∀ a b : DieId, (t.die a).isLost a b = (s.die a).isLost a b := by
  obtain ⟨ks, hk⟩ := linkLostNotice_runs (s := s) (h := h)
  have hmark (a : DieId) {α : Type} (F : Die → α) (hF : ∀ y, F { y with inReset := true } = F y) (u : State) : F ((u.modDie h fun y => { y with inReset := true }).die a) = F (u.die a) := by
    by_cases ha : h = a
    · subst ha
      rw [State.die_modDie_same]
      exact hF _
    · rw [State.die_modDie_ne _ ha]
  refine ⟨_, hk, fun a c => ?_, ?_, ?_, ?_, (untrain_trained _ h).1, (untrain_trained _ h).2, fun a b => ?_⟩
  · rw [hmark a Die.mem (fun _ => rfl)]
    exact congrArg (memGet · c) (uncarry_die (F := fun _ => Die.mem) (fun _ _ _ => rfl) (resetNotices s h) ks a)
  · rw [State.die_modDie_same]
  · change vget (uncarry (resetNotices s h) ks).east h = _
    rw [uncarry_dies]
    exact vget_vmod_same _ _ _
  · change vget (uncarry (resetNotices s h) ks).west (mkDie (h.val + 3)) = _
    rw [uncarry_dies]
    exact vget_vmod_same _ _ _
  · have hreg := hmark a (fun y => y.getReg a rPEERST) (fun _ => rfl) ((uncarry (resetNotices s h) ks).untrain (linksOf h))
    rw [Die.isLost, Die.isLost, hreg]
    exact congrArg (bitAt · b.val) (uncarry_die (F := fun k y => y.getReg k rPEERST) (fun _ y v => getReg_setReg_ne y _ v (by decide)) (resetNotices s h) ks a)
end Notice

/-! ## A notice reaches a die, and a link that fails (R404) -/

section Loss
variable {s : State}

theorem resetHeard_lost (y : Die) (n h k : DieId) : (y.resetHeard n h).isLost n k = y.isLost n k := by
  have hone (y : Die) (lo : Nat) : (y.setRf n rSCHST lo 1 0).getReg n rPEERST = y.getReg n rPEERST := getReg_setRf_ne _ _ (by decide)
  have hset (y : Die) (lo : Nat) (v : BitVec 4) : ({ y.setRf n rSCHST lo 1 0 with heard := v } : Die).getReg n rPEERST = y.getReg n rPEERST := hone y lo
  rw [Die.isLost, Die.isLost]
  refine congrArg (bitAt · k.val) ?_
  unfold Die.resetHeard
  dsimp only
  split
  · exact (hone _ _).trans (hset _ _ _)
  · exact hset _ _ _
theorem arrive_linkLost {n src : DieId} (hr : (s.die n).inReset = false) (hl : (s.die n).isLost n src = false) : s.arrive n src .linkLost = (loseDie s n src).modDie n fun y => y.resetHeard n src := by
  unfold State.arrive
  rw [hr, hl]
  rfl
/-- Both sides of a pair lose each other. -/
def loseBoth (s : State) (a b : DieId) : State := loseDie (loseDie s a b) b a
theorem loseBoth_gated (a b k : DieId) : ((loseBoth s a b).die k).gated = (s.die k).gated := (loseDie_gated k).trans (loseDie_gated k)
theorem loseBoth_keeps {a b x y : DieId} (h : (s.die x).isLost x y = true) : ((loseBoth s a b).die x).isLost x y = true := loseDie_keepsLost x y (loseDie_keepsLost x y h)
theorem loseBoth_lost {a b : DieId} (h : a ≠ b) : ((loseBoth s a b).die a).isLost a b = true ∧ ((loseBoth s a b).die b).isLost b a = true :=
  ⟨loseDie_keepsLost a b (loseDie_lost h), loseDie_lost (Ne.symm h)⟩
theorem loseNow_running {e h : DieId} (hg : (s.die e).gated = false) : loseNow s e h = loseDie s e h := by
  unfold loseNow
  rw [hg]
  rfl
theorem loseNow_both {a b : DieId} (hg : ∀ e, (s.die e).gated = false) : loseNow (loseNow s a b) b a = loseBoth s a b := by
  rw [loseNow_running (hg a), loseNow_running ((loseDie_gated b).trans (hg b))]
  rfl
/-- The pairs that a failed link parts: its ends and both diagonals across it. -/
theorem linkRetrainFail_ends {l : DieId} (hg : ∀ e, (s.die e).gated = false) : ∃ t, execLinkRetrainFail l s = .next t ∧ vget t.trained l = false ∧
    ∀ a b : Nat, (a = l.val ∧ b = l.val + 1 ∨ a = l.val ∧ b = l.val + 2 ∨ a = l.val + 3 ∧ b = l.val + 1) → (t.die (mkDie a)).isLost (mkDie a) (mkDie b) = true ∧ (t.die (mkDie b)).isLost (mkDie b) (mkDie a) = true := by
  let u1 := loseBoth s (mkDie (l.val + 3)) (mkDie (l.val + 1))
  let u2 := loseBoth u1 (mkDie l.val) (mkDie (l.val + 2))
  let u3 := loseBoth u2 (mkDie l.val) (mkDie (l.val + 1))
  have hg1 (e : DieId) : (u1.die e).gated = false := (loseBoth_gated _ _ e).trans (hg e)
  have hg2 (e : DieId) : (u2.die e).gated = false := (loseBoth_gated _ _ e).trans (hg1 e)
  have hx : execLinkRetrainFail l s = .next (u3.untrain [l]) := by
    unfold execLinkRetrainFail
    dsimp only
    rw [loseNow_both hg, loseNow_both hg1, loseNow_both hg2]
  have hdiff (m n : Nat) (hmn : m % 4 ≠ n % 4) : mkDie m ≠ mkDie n := fun e => hmn (congrArg Fin.val e)
  refine ⟨_, hx, vget_vset_same _ _ _, fun a b hab => ?_⟩
  change (u3.die (mkDie a)).isLost (mkDie a) (mkDie b) = true ∧ (u3.die (mkDie b)).isLost (mkDie b) (mkDie a) = true
  rcases hab with ⟨rfl, rfl⟩ | ⟨rfl, rfl⟩ | ⟨rfl, rfl⟩
  · exact loseBoth_lost (hdiff _ _ (by omega))
  · obtain ⟨h1, h2⟩ := loseBoth_lost (s := u1) (hdiff l.val (l.val + 2) (by omega))
    exact ⟨loseBoth_keeps h1, loseBoth_keeps h2⟩
  · obtain ⟨h1, h2⟩ := loseBoth_lost (s := s) (hdiff (l.val + 3) (l.val + 1) (by omega))
    exact ⟨loseBoth_keeps (loseBoth_keeps h1), loseBoth_keeps (loseBoth_keeps h2)⟩
/-- A notice that reaches a die: what it comes from is lost, and it goes on to the diagonal die. -/
theorem linkLost_arrives {l : DieId} {east : Bool} {x : Hop} {rest : List Hop} (hq : linkAt s l east = x :: rest) (hm : x.m = .linkLost) (hd : x.dst = nextDie l east) (hs : x.src ≠ nextDie l east)
    (hg : (s.die (nextDie l east)).gated = false) (hr : (s.die (nextDie l east)).inReset = false) (hl : (s.die (nextDie l east)).isLost (nextDie l east) x.src = false) :
    ∃ t, execLinkForward l east s = .next t ∧ (t.die (nextDie l east)).isLost (nextDie l east) x.src = true ∧
      (nextDie l east ≠ mkDie (x.src.val + 2) → (⟨x.src, mkDie (x.src.val + 2), .linkLost⟩ : Hop) ∈ linkAt t (nextLink l east) east) := by
  have hdie : (setLink s l east rest).die = s.die := by cases east <;> rfl
  have hput (u : State) (k : DieId) (y : Hop) : (u.put k east y).die = u.die := by cases east <;> rfl
  have harr : ((setLink s l east rest).arrive (nextDie l east) x.src x.m) = (loseDie (setLink s l east rest) (nextDie l east) x.src).modDie (nextDie l east) fun y => y.resetHeard (nextDie l east) x.src := by
    rw [hm]
    exact arrive_linkLost (by rwa [hdie]) (by rwa [hdie])
  have hlost : (((setLink s l east rest).arrive (nextDie l east) x.src x.m).die (nextDie l east)).isLost (nextDie l east) x.src = true := by
    rw [harr, State.die_modDie_same, resetHeard_lost]
    exact loseDie_lost (Ne.symm hs)
  refine ⟨_, linkForward_here hq hg hd (by rw [hm]; rfl), ?_, fun hfar => ?_⟩
  · split
    · rw [hput]
      exact hlost
    · exact hlost
  · rw [if_pos (by rw [hm, bne_iff_ne.2 hfar]; rfl)]
    have hmem (u : State) (k : DieId) (y : Hop) : y ∈ linkAt (u.put k east y) k east := by
      cases east <;> simp [linkAt, State.put]
    exact hmem _ _ _
end Loss

/-! ## A rejoin is asked for (R407) -/

section Rejoin
variable {s : State} {d h : DieId}

/-- The beat of die `a` for die `b` goes out on its link. -/
def putRejoin (s : State) (a b : DieId) : State :=
  if b.val == (a.val + 3) % 4 then { s with west := vmod s.west b (· ++ [⟨a, b, .rejoin (vget (s.die a).gate.v a)⟩]) } else { s with east := vmod s.east a (· ++ [⟨a, b, .rejoin (vget (s.die a).gate.v a)⟩]) }
/-- The link on which traffic of `a` for `b` leaves. -/
def outLink (s : State) (a b : DieId) : List Hop := if b.val = (a.val + 3) % 4 then vget s.west b else vget s.east a
theorem putRejoin_dies (s : State) (a b : DieId) : (putRejoin s a b).dies = s.dies := by
  unfold putRejoin
  split <;> rfl
theorem putRejoin_die (s : State) (a b k : DieId) : (putRejoin s a b).die k = s.die k := congrArg (vget · k) (putRejoin_dies s a b)
theorem putRejoin_out (s : State) (a b : DieId) : (⟨a, b, .rejoin (vget (s.die a).gate.v a)⟩ : Hop) ∈ outLink (putRejoin s a b) a b := by
  unfold putRejoin outLink
  by_cases hb : b.val = (a.val + 3) % 4
  · rw [if_pos hb, if_pos (beq_iff_eq.2 hb), vget_vmod_same]
    exact List.mem_append_right _ (List.mem_singleton.2 rfl)
  · rw [if_neg hb, if_neg fun e => hb (eq_of_beq e), vget_vmod_same]
    exact List.mem_append_right _ (List.mem_singleton.2 rfl)
theorem mem_vmod_append {v : Vector (List Hop) 4} {i j : DieId} {x y : Hop} (hx : x ∈ vget v j) : x ∈ vget (vmod v i (· ++ [y])) j := by
  rw [vget_vmod]
  split
  · next hij =>
    subst hij
    exact List.mem_append_left _ hx
  · exact hx
/-- A link that a rejoin does not leave on holds what it held, and the other one more. -/
theorem putRejoin_links (s : State) (a b : DieId) {x : Hop} {j : DieId} : (x ∈ vget s.west j → x ∈ vget (putRejoin s a b).west j) ∧ (x ∈ vget s.east j → x ∈ vget (putRejoin s a b).east j) := by
  unfold putRejoin
  split
  · exact ⟨mem_vmod_append, id⟩
  · exact ⟨id, mem_vmod_append⟩
theorem putRejoin_keeps {s : State} {a b c e : DieId} {x : Hop} (hx : x ∈ outLink s c e) : x ∈ outLink (putRejoin s a b) c e := by
  unfold outLink at hx ⊢
  by_cases he : e.val = (c.val + 3) % 4
  · rw [if_pos he] at hx ⊢
    exact (putRejoin_links s a b).1 hx
  · rw [if_neg he] at hx ⊢
    exact (putRejoin_links s a b).2 hx

/-- Die `d` wants die `h` back. -/
def wanting (s : State) (d h : DieId) : State := s.modDie d fun y => { y with gate := { y.gate with want := y.gate.want ||| (1#4 <<< h.val) } }
/-- What asking for one die does. -/
def askRejoin (d : DieId) (mask : BitVec 4) (s : State) (h : DieId) : State :=
  if h == d || !mask.getLsbD h.val || !s.pathTrained d h || !((s.die d).isLost d h || (s.die h).isLost h d) || (s.die d).gate.want.getLsbD h.val then s
  else if ((wanting s d h).die h).gate.want.getLsbD d.val then putRejoin (putRejoin (wanting s d h) d h) h d else wanting s d h
theorem peerstRejoin_eq (mask : BitVec 4) : execPeerstRejoin d mask s = .next (allDies.foldl (askRejoin d mask) s) := rfl
theorem foldl_one {α β : Type} {f : α → β → α} {b : β} (hf : ∀ a c, c ≠ b → f a c = a) {l : List β} (hl : l.Nodup) (hb : b ∈ l) (a : α) : l.foldl f a = f a b := by
  have hnone (l : List β) (hb : b ∉ l) (a : α) : l.foldl f a = a := by
    induction l generalizing a with
    | nil => rfl
    | cons c l ih =>
      obtain ⟨hc, hl⟩ := List.ne_and_not_mem_of_not_mem_cons hb
      rw [List.foldl_cons, hf a c (Ne.symm hc)]
      exact ih hl a
  induction l generalizing a with
  | nil => exact absurd hb (by simp)
  | cons c l ih =>
    obtain ⟨hc, hl⟩ := List.nodup_cons.1 hl
    rw [List.foldl_cons]
    rcases List.mem_cons.1 hb with rfl | hb
    · exact hnone l hc _
    · rw [hf a c fun e => hc (e ▸ hb)]
      exact ih hl hb a
theorem peerstRejoin_one {mask : BitVec 4} (hmask : ∀ e : DieId, mask.getLsbD e.val = decide (e = h)) : execPeerstRejoin d mask s = .next (askRejoin d mask s h) := by
  rw [peerstRejoin_eq, foldl_one (b := h) (fun s e he => ?_) allDies_nodup (mem_allDies h)]
  unfold askRejoin
  rw [hmask e, decide_eq_false he]
  simp
theorem askRejoin_untrained {mask : BitVec 4} (hp : s.pathTrained d h = false) : askRejoin d mask s h = s := by
  unfold askRejoin
  rw [hp]
  simp
theorem askRejoin_asks {mask : BitVec 4} (hne : h ≠ d) (hm : mask.getLsbD h.val = true) (hp : s.pathTrained d h = true) (hl : (s.die d).isLost d h = true) (hw : (s.die d).gate.want.getLsbD h.val = false) :
    askRejoin d mask s h = if (s.die h).gate.want.getLsbD d.val then putRejoin (putRejoin (wanting s d h) d h) h d else wanting s d h := by
  have hh : (wanting s d h).die h = s.die h := State.die_modDie_ne _ (Ne.symm hne) _
  unfold askRejoin
  rw [hm, hp, hl, hw, beq_false_of_ne hne, hh]
  rfl
theorem wanting_bit : ((wanting s d h).die d).gate.want.getLsbD h.val = true := by
  rw [wanting, State.die_modDie_same]
  have hh := h.isLt
  simp [hh]
theorem wanting_v (a : DieId) : ((wanting s d h).die a).gate.v = (s.die a).gate.v := by
  unfold wanting
  by_cases ha : d = a
  · subst ha
    rw [State.die_modDie_same]
  · rw [State.die_modDie_ne _ ha]
theorem wanting_mem : SameMem s (wanting s d h) := sameMem_modDie s d _ rfl

/-- A rejoin beat at the head of a link into `e` is taken. -/
def rejoined (s : State) (e h : DieId) (n : Nat) : State := s.modDie e fun y =>
  let y := { y with gate := { y.gate with g := vset y.gate.g h n, v := vset y.gate.v h n, want := y.gate.want &&& ~~~ (1#4 <<< h.val) } }
  y.setReg rPEERST (y.getReg e rPEERST &&& ~~~ (1#64 <<< h.val))
theorem rejoined_ends (s : State) (e h : DieId) (n : Nat) : ((rejoined s e h n).die e).isLost e h = false ∧ vget ((rejoined s e h n).die e).gate.g h = n ∧ vget ((rejoined s e h n).die e).gate.v h = n ∧ SameMem s (rejoined s e h n) := by
  refine ⟨?_, ?_, ?_, sameMem_modDie s e _ rfl⟩
  · rw [rejoined, State.die_modDie_same, Die.isLost, getReg_setReg, bitAt]
    have hh := h.isLt
    have h64 : h.val < 64 := by omega
    simp [h64]
  · rw [rejoined, State.die_modDie_same]
    exact vget_vset_same _ _ _
  · rw [rejoined, State.die_modDie_same]
    exact vget_vset_same _ _ _

/-- The rejoin beat of `h` for `e`, where it is the head of a queue. -/
def rejoinHead (e h : DieId) (q : List Hop) : Option Hop :=
  match q with | x :: _ => if x.src == h && x.dst == e then (match x.m with | .rejoin _ => some x | _ => none) else none | [] => none
theorem rejoinHead_hit {e : DieId} {n : Nat} {r : List Hop} : rejoinHead e h (⟨h, e, .rejoin n⟩ :: r) = some ⟨h, e, .rejoin n⟩ := by simp [rejoinHead]
theorem rejoinHead_miss {e : DieId} {q : List Hop} (hq : ∀ x r m, q = x :: r → x ≠ ⟨h, e, .rejoin m⟩) : rejoinHead e h q = none := by
  cases q with
  | nil => rfl
  | cons x r =>
    obtain ⟨src, dst, m⟩ := x
    unfold rejoinHead
    by_cases hc : src = h ∧ dst = e
    · obtain ⟨rfl, rfl⟩ := hc
      cases m with
      | rejoin n => exact absurd rfl (hq _ r n rfl)
      | _ => simp
    · dsimp only
      rw [if_neg]
      rw [Bool.and_eq_true, beq_iff_eq, beq_iff_eq]
      exact hc
/-- The beat taken, its count read from it. -/
def takeRejoin (s : State) (e h : DieId) (x : Hop) : State := rejoined s e h (match x.m with | .rejoin n => n | _ => 0)
theorem rejoinBeat_eq (e : DieId) : execRejoinBeat e h s =
    match rejoinHead e h (vget s.east (mkDie (e.val + 3))) with
    | some x => .next (takeRejoin { s with east := vmod s.east (mkDie (e.val + 3)) (·.drop 1) } e h x)
    | none => match rejoinHead e h (vget s.west e) with
      | some x => .next (takeRejoin { s with west := vmod s.west e (·.drop 1) } e h x)
      | none => .next s := rfl
theorem rejoinBeat_east {e : DieId} {n : Nat} {rest : List Hop} (hq : vget s.east (mkDie (e.val + 3)) = ⟨h, e, .rejoin n⟩ :: rest) :
    execRejoinBeat e h s = .next (rejoined { s with east := vmod s.east (mkDie (e.val + 3)) (·.drop 1) } e h n) := by
  rw [rejoinBeat_eq, hq, rejoinHead_hit]
  rfl
theorem rejoinBeat_west {e : DieId} {n : Nat} {rest : List Hop} (hq : vget s.west e = ⟨h, e, .rejoin n⟩ :: rest) (he : ∀ x r m, vget s.east (mkDie (e.val + 3)) = x :: r → x ≠ ⟨h, e, .rejoin m⟩) :
    execRejoinBeat e h s = .next (rejoined { s with west := vmod s.west e (·.drop 1) } e h n) := by
  rw [rejoinBeat_eq, rejoinHead_miss he, hq, rejoinHead_hit]
  rfl

/-- Of the traffic left on a link, what its training keeps. -/
theorem trainedKeep_iff {q : List Hop} {x : Hop} :
    x ∈ q.filter (fun h => !((s.die h.src).isLost h.src h.dst || (s.die h.dst).isLost h.dst h.src) || (match h.m with | .rejoin _ => true | _ => false)) ↔
      x ∈ q ∧ ((∃ n, x.m = .rejoin n) ∨ (s.die x.src).isLost x.src x.dst = false ∧ (s.die x.dst).isLost x.dst x.src = false) := by
  rw [List.mem_filter, Bool.or_eq_true, Bool.not_eq_true', Bool.or_eq_false_iff]
  refine and_congr_right fun _ => ?_
  rw [or_comm]
  refine or_congr_left ?_
  cases x.m <;> simp
theorem packageLinkTrained_ends {l : DieId} : ∃ t, execPackageLinkTrained l s = .next t ∧ t.dies = s.dies ∧ vget t.trained l = true ∧
    (∀ x, x ∈ vget t.east l ↔ x ∈ vget s.east l ∧ ((∃ n, x.m = .rejoin n) ∨ (s.die x.src).isLost x.src x.dst = false ∧ (s.die x.dst).isLost x.dst x.src = false)) ∧
    ∀ x, x ∈ vget t.west l ↔ x ∈ vget s.west l ∧ ((∃ n, x.m = .rejoin n) ∨ (s.die x.src).isLost x.src x.dst = false ∧ (s.die x.dst).isLost x.dst x.src = false) := by
  refine ⟨_, rfl, rfl, vget_vset_same _ _ _, fun x => ?_, fun x => ?_⟩ <;>
  · rw [vget_vmod_same]
    exact trainedKeep_iff
/-- A rejoin of one die is asked for, where the links to it are trained. -/
theorem peerstRejoin_asks {mask : BitVec 4} (hne : h ≠ d) (hmask : ∀ e : DieId, mask.getLsbD e.val = decide (e = h)) (hl : (s.die d).isLost d h = true) (hw : (s.die d).gate.want.getLsbD h.val = false) (hp : s.pathTrained d h = true) :
    ∃ t, execPeerstRejoin d mask s = .next t ∧ SameMem s t ∧ (t.die d).gate.want.getLsbD h.val = true ∧ ((s.die h).gate.want.getLsbD d.val = false → t.east = s.east ∧ t.west = s.west) ∧
      ((s.die h).gate.want.getLsbD d.val = true → ∀ a b : DieId, (a = d ∧ b = h) ∨ (a = h ∧ b = d) → (⟨a, b, .rejoin (vget (s.die a).gate.v a)⟩ : Hop) ∈ outLink t a b) := by
  have hx := peerstRejoin_one (d := d) (s := s) hmask
  rw [askRejoin_asks hne ((hmask h).trans (decide_eq_true rfl)) hp hl hw] at hx
  refine ⟨_, hx, ?_⟩
  cases hwant : (s.die h).gate.want.getLsbD d.val with
  | false => exact ⟨wanting_mem, wanting_bit, fun _ => ⟨rfl, rfl⟩, fun e => absurd e (by decide)⟩
  | true =>
    let u := wanting s d h
    have hdie (k : DieId) : (putRejoin (putRejoin u d h) h d).die k = u.die k := (putRejoin_die _ h d k).trans (putRejoin_die u d h k)
    refine ⟨fun k c => ?_, ?_, fun e => absurd e (by decide), fun _ a b hab => ?_⟩
    · rw [if_pos rfl, hdie]
      exact wanting_mem k c
    · rw [if_pos rfl, hdie]
      exact wanting_bit
    · rw [if_pos rfl]
      rcases hab with ⟨rfl, rfl⟩ | ⟨rfl, rfl⟩
      · have hout := putRejoin_out u a b
        rw [wanting_v] at hout
        exact putRejoin_keeps hout
      · have hout := putRejoin_out (putRejoin u b a) a b
        rw [putRejoin_die, wanting_v] at hout
        exact hout
end Rejoin

/-! ## A pin held too long (R94) -/

section Pin
variable {s : State} {d : DieId} {i : Nat} {h : Held} {w : Wr} {pa : Nat}

/-- The lines of a held write of one piece that lies within a line. -/
theorem heldLines_one (hloc : w.p.loc = .here pa) (hlen : w.data.length ≠ 0) (hline : 128 * (pa / 128) + 128 = 128 * ((pa + w.data.length - 1) / 128) + 128) :
    ((localWrs [w]).flatMap fun (w : Nat × List Byte) => (linesOf w.1 w.2.length).map fun l => 128 * l) = [128 * (pa / 128)] := by
  have hone : (pa + w.data.length - 1) / 128 + 1 - pa / 128 = 1 := by omega
  have hne : w.data ≠ [] := fun e => hlen (congrArg List.length e)
  simp [localWrs, hloc, linesOf, hne, hone]
theorem pinHoldTimeout_eq {word : Nat} {seq : W32} {q : Bool} (hh : (s.die d).held[i]? = some h) (hop : h.op = .write [w] q word seq) (hloc : w.p.loc = .here pa) (hlen : w.data.length ≠ 0)
    (hline : 128 * (pa / 128) + 128 = 128 * ((pa + w.data.length - 1) / 128) + 128) (hpin : (s.die d).pinned (128 * (pa / 128)) 1 = true) :
    execPinHoldTimeout d i s =
      if (decide ((s.die d).rf d rPINTO 0 40 = 0) || decide (((s.die d).tick d - h.since).toNat ≤ (s.die d).rf d rPINTO 0 40)) = true then .next s
      else if bitAt ((s.die d).getReg d (if 128 * (pa / 128) < vault1 then rPINST else rPINST + 8)) 63 then .next s
      else .next (s.modDie d fun y => y.setReg (if 128 * (pa / 128) < vault1 then rPINST else rPINST + 8) (BitVec.ofNat 64 (2 ^ 63 + 128 * (pa / 128)))) := by
  unfold execPinHoldTimeout
  rw [hh]
  dsimp only
  rw [hop]
  dsimp only
  rw [heldLines_one hloc hlen hline, List.find?_cons_of_pos (p := fun l => (s.die d).pinned l 1) hpin]
end Pin

/-- Settles O52: a notice and a failed link part dies, a rejoin and a trained link join them again, and a pin held too long is reported once. -/
theorem lostDiesAndRejoins : Obligations.LostDiesAndRejoins := by
  refine ⟨?_, ?_, ?_, ?_, ?_, ?_, ?_, ?_⟩
  · intro s h e w
    exact linkLostNotice_ends
  · intro s l east x rest n hq hm hd hs hg hr hl
    cases east <;> exact linkLost_arrives hq hm hd hs hg hr hl
  · intro s l hg
    exact linkRetrainFail_ends hg
  · intro s d h mask hne hmask hl hw
    exact ⟨fun hp => (peerstRejoin_one hmask).trans (by rw [askRejoin_untrained hp]), fun hp => peerstRejoin_asks hne hmask hl hw hp⟩
  · intro s e h n rest hq
    have hq' : vget (vmod s.east (mkDie (e.val + 3)) (·.drop 1)) (mkDie (e.val + 3)) = rest := by rw [vget_vmod_same, hq]; rfl
    exact ⟨_, rejoinBeat_east hq, hq', rejoined_ends _ e h n⟩
  · intro s e h n rest hq he
    have hq' : vget (vmod s.west e (·.drop 1)) e = rest := by rw [vget_vmod_same, hq]; rfl
    exact ⟨_, rejoinBeat_west hq he, hq', rejoined_ends _ e h n⟩
  · intro s l stays
    exact packageLinkTrained_ends
  · intro s d i h w pa word seq q hh hop hloc hlen hline hpin lim off
    have heq := pinHoldTimeout_eq hh hop hloc hlen hline hpin
    refine ⟨fun hno => heq.trans ?_, fun h0 hlt hb => heq.trans ?_⟩
    · rcases hno with h0 | hle | hb
      · rw [if_pos (by rw [Bool.or_eq_true, decide_eq_true_iff]; exact .inl h0)]
      · rw [if_pos (by rw [Bool.or_eq_true, decide_eq_true_iff, decide_eq_true_iff]; exact .inr hle)]
      · rw [if_pos hb, ite_self]
    · rw [if_neg, if_neg (by rw [hb]; decide)]
      rw [Bool.or_eq_true, decide_eq_true_iff, decide_eq_true_iff, not_or]
      exact ⟨h0, Nat.not_le.2 hlt⟩

end Sys2Proof.Proofs
end

section
/-! SUPPORT. An adoption whose report to the comparator ends in a divergence, which the trace records in memory (R415, R421). -/

namespace Sys2Proof.Proofs

open Sys2Proof Sys2Proof.Machine Sys2Proof.Laws

/-! ## The state -/

/-- A launch that is complete and has been reported. -/
def toldLaunch : Launch := { farLaunch with st := .complete, blks := [], untold := false }
/-- Another of the same number that is still at work: the comparator, which looks up a launch by its number, finds this one. -/
def openLaunch : Launch := { toldLaunch with st := .active }
/-- What the partner has reported, with other bytes. -/
def otherReport : PairSt := ⟨false, .sys 0, (schedDst, 1, 0), 64, 0, [], 0⟩
/-- The scheduler core of d0 has failed and d1 has heard of it; d0 is the primary of a pair with d1, and its trace runs at 0x20000. -/
def adoptState : State :=
  (State.reset.modDie 0 fun y => { ((((y.setReg rSCHST (BitVec.ofNat 64 (2 ^ 63))).setReg rPAIRCTL (BitVec.ofNat 64 (2 ^ 63 + 2 ^ 61 + 1))).setReg rXRING (BitVec.ofNat 64 (2 ^ 63))).setReg rTRCBASE (BitVec.ofNat 64 (2 ^ 63 + 0x20000))) with
    sched := { y.sched with launches := [openLaunch, toldLaunch] }, pair := [otherReport] }).modDie 1 fun y => { y with heard := 1 }

/-- The first byte of d0's trace after a step. -/
def traceByte : Out → Option Byte
  | .next u => some (memGet (u.die 0).mem 0x20000)
  | _ => none
theorem adoptState_before : memGet (adoptState.die 0).mem 0x20000 = 0 := by decide +kernel
theorem adoptState_traces : traceByte (exec (.adoption 0) adoptState) ≠ some 0 := by decide +kernel

/-- Refutes O53: an adoption enters in the comparator what it finds reported; where two launches bear one number, a report is entered again, and a divergence writes its trace record to memory although no launch is untold or Early. -/
theorem not_failuresAreTakenOver : ¬ Obligations.FailuresAreTakenOver := by
  rintro ⟨-, -, -, -, -, -, -, hadopt, -⟩
  obtain ⟨-, hgo⟩ := hadopt adoptState 0
  obtain ⟨hown, -⟩ := hgo (by decide +kernel) (by decide +kernel) (by decide +kernel) (by decide +kernel)
  obtain ⟨t, ht, hmem, -⟩ := hown (by decide +kernel) (by decide +kernel)
  have hbyte : memGet (t.die 0).mem 0x20000 = 0 := (hmem (by decide +kernel) 0 0x20000).trans adoptState_before
  have hstep := adoptState_traces
  rw [ht] at hstep
  exact hstep (congrArg some hbyte)

end Sys2Proof.Proofs
end

section
/-! SUPPORT. Reset, boot and the test access port (O55). -/

namespace Sys2Proof.Proofs

open Sys2Proof Sys2Proof.Machine Sys2Proof.Laws

/-! ## Reset (R4, R405) -/

section Reset
theorem cellsOf_wf (l : List (Nat × Byte)) : memWf (cellsOf l) = true := by
  have hstep (m : List Host.Cell) (hm : memWf m = true) : memWf (l.foldl (fun m e => memSet m e.1 e.2) m) = true := by
    induction l generalizing m with
    | nil => exact hm
    | cons e l ih => exact ih _ (spWf_spSet 0 m e.1 e.2 hm)
  exact hstep [] rfl
theorem freshDie_slot (draw : Nat) (tick : Word) (tap : Tap) (k : SlotId) : (freshDie draw tick tap).slot k = Slot.reset := vget_replicate Slot.reset k
theorem packageResetRelease_ends (s : State) : ∃ t, execPackageResetRelease s = .next t ∧ (∀ d, t.tick d = 0 ∧ (t.die d).inReset = false ∧ (t.die d).rf d rBOOTST 0 3 = 1 ∧ (t.die d).tap = (s.die d).tap ∧ memWf (t.die d).mem = true ∧ vget t.trained d = true ∧
    ∀ k, t.slot d k = Slot.reset) ∧ t.east = .replicate 4 [] ∧ t.west = .replicate 4 [] := by
  refine ⟨_, rfl, fun d => ?_, rfl, rfl⟩
  have hd (u : State) (hu : u.dies = Vector.ofFn fun i : DieId => freshDie (s.draws + i.val) 0 (vget s.dies i).tap) : u.die d = freshDie (s.draws + d.val) 0 (s.die d).tap := by
    unfold State.die
    rw [hu]
    exact Vector.getElem_ofFn d.isLt
  rw [State.tick, hd _ rfl]
  refine ⟨rfl, rfl, rfl, rfl, cellsOf_wf _, vget_replicate true d, fun k => ?_⟩
  rw [State.slot, hd _ rfl]
  exact freshDie_slot _ _ _ k

variable {s : State} {d : DieId}
/-- Of the traffic on a link, what the release of die `d` leaves. -/
def releaseKeeps (d : DieId) (q : List Hop) : List Hop := q.filter fun h => h.dst != d && (h.src != d || h.m == .linkLost)
theorem mem_releaseKeeps {q : List Hop} {h : Hop} : h ∈ releaseKeeps d q ↔ h ∈ q ∧ h.dst ≠ d ∧ (h.src ≠ d ∨ h.m = .linkLost) := by
  rw [releaseKeeps, List.mem_filter, Bool.and_eq_true, Bool.or_eq_true, bne_iff_ne, bne_iff_ne, beq_iff_eq]
theorem dieResetRelease_running (h : (s.die d).inReset = false) : execDieResetRelease d s = .next s := by
  unfold execDieResetRelease
  dsimp only
  rw [h]
  rfl
theorem dieResetRelease_eq (h : (s.die d).inReset = true) : execDieResetRelease d s = .next { s with
    dies := vset s.dies d (freshDie s.draws ((s.die d).tick d) (s.die d).tap), east := s.east.map (releaseKeeps d), west := s.west.map (releaseKeeps d), shot := vset s.shot d none, draws := s.draws + 1 } := by
  unfold execDieResetRelease
  dsimp only
  rw [h]
  rfl
theorem dieResetRelease_ends (h : (s.die d).inReset = true) : ∃ t, execDieResetRelease d s = .next t ∧ (t.die d).inReset = false ∧ t.tick d = s.tick d ∧ (t.die d).tap = (s.die d).tap ∧ (∀ k, t.slot d k = Slot.reset) ∧ (∀ e, e ≠ d → t.die e = s.die e) ∧
    ∀ l, (∀ h, h ∈ vget t.east l ↔ h ∈ vget s.east l ∧ h.dst ≠ d ∧ (h.src ≠ d ∨ h.m = .linkLost)) ∧ ∀ h, h ∈ vget t.west l ↔ h ∈ vget s.west l ∧ h.dst ≠ d ∧ (h.src ≠ d ∨ h.m = .linkLost) := by
  have hown (u : State) (hu : u.dies = vset s.dies d (freshDie s.draws ((s.die d).tick d) (s.die d).tap)) : u.die d = freshDie s.draws ((s.die d).tick d) (s.die d).tap := by
    unfold State.die
    rw [hu, vget_vset_same]
    rfl
  refine ⟨_, dieResetRelease_eq h, ?_⟩
  rw [State.tick, hown _ rfl]
  refine ⟨rfl, rfl, rfl, fun k => ?_, fun e he => vget_vset_ne _ (Ne.symm he) _, fun l => ⟨fun x => ?_, fun x => ?_⟩⟩
  · rw [State.slot, hown _ rfl]
    exact freshDie_slot _ _ _ k
  · rw [vget_map]
    exact mem_releaseKeeps
  · rw [vget_map]
    exact mem_releaseKeeps
end Reset

/-! ## The boot ROM and its image (R355, R356) -/

section Boot
variable {s : State} {d : DieId} {img : BootImg}

/-- One byte of an image. -/
def loadByte (y : Die) (b : Nat × Byte) : Die := if isDieMem b.1 then y.poke b.1 [b.2] false else y
theorem loadByte_wf {y : Die} (b : Nat × Byte) (h : memWf y.mem = true) : memWf (loadByte y b).mem = true := by
  unfold loadByte
  split
  · exact memWf_poke y _ _ _ h
  · exact h
theorem loadByte_same {y : Die} {b : Nat × Byte} (h : memWf y.mem = true) (hb : isDieMem b.1 = true) : memGet (loadByte y b).mem b.1 = b.2 := by
  rw [loadByte, if_pos hb, memGet_poke _ _ _ _ _ h, if_pos ⟨Nat.le_refl _, Nat.lt_succ_self _⟩, Nat.sub_self]
  rfl
theorem loadByte_ne {y : Die} {b : Nat × Byte} {a : Nat} (h : memWf y.mem = true) (hb : b.1 ≠ a) : memGet (loadByte y b).mem a = memGet y.mem a := by
  unfold loadByte
  split
  · rw [memGet_poke _ _ _ _ _ h, if_neg]
    rw [List.length_singleton]
    omega
  · rfl
/-- The bytes of an image. -/
def loadBytes (y : Die) (l : List (Nat × Byte)) : Die := l.foldl loadByte y
theorem loadBytes_rest (l : List (Nat × Byte)) {y : Die} (h : memWf y.mem = true) {a : Nat} (ha : ∀ b ∈ l, b.1 ≠ a) : memGet (loadBytes y l).mem a = memGet y.mem a := by
  induction l generalizing y with
  | nil => rfl
  | cons b l ih => exact (ih (loadByte_wf b h) fun c hc => ha c (List.mem_cons_of_mem _ hc)).trans (loadByte_ne h (ha b List.mem_cons_self))
/-- Where an image names no address with two values, each of its bytes of die memory stands. -/
theorem loadBytes_mem (l : List (Nat × Byte)) {y : Die} (h : memWf y.mem = true) (hu : ∀ b ∈ l, ∀ c ∈ l, b.1 = c.1 → b = c) {b : Nat × Byte} (hb : b ∈ l) (hd : isDieMem b.1 = true) : memGet (loadBytes y l).mem b.1 = b.2 := by
  induction l generalizing y with
  | nil => exact absurd hb (by simp)
  | cons c l ih =>
    have hul : ∀ b ∈ l, ∀ c ∈ l, b.1 = c.1 → b = c := fun b hb c hc => hu b (List.mem_cons_of_mem _ hb) c (List.mem_cons_of_mem _ hc)
    by_cases hl : b ∈ l
    · exact ih (loadByte_wf c h) hul hl
    · obtain rfl : b = c := (List.mem_cons.1 hb).resolve_right hl
      refine (loadBytes_rest l (loadByte_wf b h) fun x hx hxb => hl ?_).trans (loadByte_same h hd)
      rw [hu b hb x (List.mem_cons_of_mem _ hx) hxb.symm]
      exact hx

theorem load_eq (y : Die) : y.load d img = { (loadBytes y img.bytes).setRf d rBOOTST 0 3 5 with
    boot := none, sysx := (loadBytes y img.bytes).sysx.map fun (x : Vector Word 66) => vset x 32 img.entry, sysMode := .replicate 4 3 } := rfl
theorem stage_iff {n : Nat} : (s.die d).stage d n = true ↔ (s.die d).inReset = false ∧ (s.die d).rf d rBOOTST 0 3 = n := by
  rw [Die.stage, Bool.and_eq_true, Bool.not_eq_true', beq_iff_eq]
/-- The image that a check takes, if any. -/
def checked (s : State) (d : DieId) (good : Bool) (image : List (Nat × Byte)) : Option BootImg :=
  if (s.die d).stage d 4 then (s.die d).boot.filter (fun img => img.bytes == image && Config.imageGood d img == good) else none
/-- A bad image is discarded, and the fifth halts the die. -/
def badImage (d : DieId) (y : Die) : Die :=
  let f := y.rf d rBOOTST 8 8 + 1
  let y := { y.setRf d rBOOTST 8 8 f with boot := none, bootAge := 0 }
  if 5 ≤ f then y.setRf d rBOOTST 0 3 7 else y
theorem bootImageCheck_none {good : Bool} {bs : List (Nat × Byte)} (h : checked s d good bs = none) : execBootImageCheck d good bs s = .next s := by
  unfold checked at h
  unfold execBootImageCheck
  rw [h]
theorem bootImageCheck_takes {good : Bool} {bs : List (Nat × Byte)} (h : checked s d good bs = some img) : execBootImageCheck d good bs s = .next (s.modDie d fun y => if good then y.load d img else badImage d y) := by
  unfold checked at h
  unfold execBootImageCheck
  rw [h]
  rfl
theorem bootImageCheck_notFetched {good : Bool} {bs : List (Nat × Byte)} (h : (s.die d).inReset = true ∨ (s.die d).rf d rBOOTST 0 3 ≠ 4 ∨ (s.die d).boot = none) : execBootImageCheck d good bs s = .next s := by
  refine bootImageCheck_none ?_
  unfold checked
  split
  case isTrue hst =>
    obtain ⟨hr, h4⟩ := stage_iff.1 hst
    rcases h with h | h | h
    · exact absurd (hr.symm.trans h) (by decide)
    · exact absurd h4 h
    · rw [h]
      rfl
  case isFalse => rfl
theorem bootImageCheck_other {good : Bool} {bs : List (Nat × Byte)} (hi : (s.die d).boot = some img) (h : bs ≠ img.bytes ∨ good ≠ Config.imageGood d img) : execBootImageCheck d good bs s = .next s := by
  refine bootImageCheck_none ?_
  unfold checked
  split
  · rw [hi, Option.filter_some, if_neg]
    rw [Bool.and_eq_true, beq_iff_eq, beq_iff_eq]
    rintro ⟨hb, hg⟩
    exact h.elim (· hb.symm) (· hg.symm)
  · rfl
theorem checked_fetched (hr : (s.die d).inReset = false) (hst : (s.die d).rf d rBOOTST 0 3 = 4) (hi : (s.die d).boot = some img) {good : Bool} (hg : Config.imageGood d img = good) : checked s d good img.bytes = some img := by
  rw [checked, if_pos (stage_iff.2 ⟨hr, hst⟩), hi, Option.filter_some, if_pos]
  rw [hg, beq_self_eq_true, beq_self_eq_true]
  rfl
theorem goodImage_ends (hr : (s.die d).inReset = false) (hst : (s.die d).rf d rBOOTST 0 3 = 4) (hi : (s.die d).boot = some img) (hg : Config.imageGood d img = true) (hw : MemInv s) (hu : ∀ b ∈ img.bytes, ∀ c ∈ img.bytes, b.1 = c.1 → b = c) :
    ∃ t, execBootImageCheck d true img.bytes s = .next t ∧ (t.die d).rf d rBOOTST 0 3 = 5 ∧ (∀ n, vget (vget (t.die d).sysx n) 32 = img.entry ∧ vget (t.die d).sysMode n = 3) ∧
      (∀ b ∈ img.bytes, isDieMem b.1 = true → memGet (t.die d).mem b.1 = b.2) ∧ ∀ a, (∀ b ∈ img.bytes, b.1 ≠ a) → memGet (t.die d).mem a = memGet (s.die d).mem a := by
  refine ⟨_, bootImageCheck_takes (checked_fetched hr hst hi hg), ?_⟩
  rw [State.die_modDie_same, if_pos rfl, load_eq]
  refine ⟨?_, fun n => ⟨?_, vget_replicate 3 n⟩, fun b hb hm => loadBytes_mem _ (hw d) hu hb hm, fun a ha => loadBytes_rest _ (hw d) ha⟩
  · rw [rf_congr d (y := { (loadBytes (s.die d) img.bytes).setRf d rBOOTST 0 3 5 with boot := none, sysx := _, sysMode := _ }) (z := (loadBytes (s.die d) img.bytes).setRf d rBOOTST 0 3 5) rfl]
    exact rf_setRf _ d (by decide) (by decide)
  · rw [vget_map]
    exact vget_vset_same _ _ _
theorem badImage_ends (hr : (s.die d).inReset = false) (hst : (s.die d).rf d rBOOTST 0 3 = 4) (hi : (s.die d).boot = some img) (hg : Config.imageGood d img = false) :
    ∃ t, execBootImageCheck d false img.bytes s = .next t ∧ SameMem s t ∧ (t.die d).rf d rBOOTST 8 8 = ((s.die d).rf d rBOOTST 8 8 + 1) % 256 ∧
      (t.die d).rf d rBOOTST 0 3 = (if 5 ≤ (s.die d).rf d rBOOTST 8 8 + 1 then 7 else 4) ∧ (t.die d).boot = none ∧ (t.die d).bootAge = 0 := by
  let y := (s.die d).setRf d rBOOTST 8 8 ((s.die d).rf d rBOOTST 8 8 + 1)
  have hcount : y.rf d rBOOTST 8 8 = ((s.die d).rf d rBOOTST 8 8 + 1) % 256 := rf_setRf _ d (by decide) (by decide)
  have hstage : y.rf d rBOOTST 0 3 = 4 := (rf_setRf_disjoint _ d (by decide) (.inl (by decide))).trans hst
  have hmem : (badImage d (s.die d)).mem = (s.die d).mem := by
    unfold badImage
    dsimp only
    split <;> rfl
  refine ⟨_, bootImageCheck_takes (checked_fetched hr hst hi hg), sameMem_modDie s d _ hmem, ?_⟩
  rw [State.die_modDie_same, if_neg (by decide)]
  unfold badImage
  dsimp only
  by_cases h5 : 5 ≤ (s.die d).rf d rBOOTST 8 8 + 1
  · rw [if_pos h5, if_pos h5]
    exact ⟨(rf_setRf_disjoint _ d (by decide) (.inr (by decide))).trans hcount, rf_setRf _ d (by decide) (by decide), rfl, rfl⟩
  · rw [if_neg h5, if_neg h5]
    exact ⟨hcount, hstage, rfl, rfl⟩
theorem bootRetry_ends (hr : (s.die d).inReset = false) (hst : (s.die d).rf d rBOOTST 0 3 = 4) (hb : (s.die d).boot = none) (ha : 10 ^ 9 ≤ (s.die d).bootAge) : ∃ t, execBootRetry d s = .next t ∧ (t.die d).rf d rBOOTST 0 3 = 2 ∧ SameMem s t := by
  have hx : execBootRetry d s = .next (s.modDie d fun y => y.setRf d rBOOTST 0 3 2) := by
    unfold execBootRetry
    dsimp only
    have hage : ¬ (s.die d).bootAge < bootWait := Nat.not_lt.2 ha
    rw [stage_iff.2 ⟨hr, hst⟩, hb, decide_eq_false hage]
    rfl
  refine ⟨_, hx, ?_, sameMem_modDie s d _ rfl⟩
  rw [State.die_modDie_same]
  exact rf_setRf _ d (by decide) (by decide)
theorem bootRetry_waits (h : ¬ ((s.die d).inReset = false ∧ (s.die d).rf d rBOOTST 0 3 = 4 ∧ (s.die d).boot = none ∧ 10 ^ 9 ≤ (s.die d).bootAge)) : execBootRetry d s = .next s := by
  unfold execBootRetry
  dsimp only
  rw [if_pos]
  rw [Bool.or_eq_true, Bool.or_eq_true, Bool.not_eq_true', decide_eq_true_iff]
  by_contra hno
  obtain ⟨hsb, ha⟩ := not_or.1 hno
  obtain ⟨hst, hb⟩ := not_or.1 hsb
  obtain ⟨hr, h4⟩ := stage_iff.1 (by rwa [Bool.not_eq_false] at hst)
  exact h ⟨hr, h4, Option.not_isSome_iff_eq_none.1 hb, Nat.not_lt.1 ha⟩
end Boot

/-! ## The test access port (R352) -/

section Port
variable {s t u : State} {d : DieId}

/-- Nothing but test ports differs. -/
def OnlyTap (s t : State) : Prop := ∀ e, t.die e = { s.die e with tap := (t.die e).tap }
theorem OnlyTap.trans (h : OnlyTap s t) (g : OnlyTap t u) : OnlyTap s u := fun e => by rw [g e, h e]
theorem OnlyTap.refl (s : State) : OnlyTap s s := fun _ => rfl
theorem onlyTap_modTap (s : State) (d : DieId) (f : Tap → Tap) : OnlyTap s (s.modTap d f) := fun e => by
  unfold State.modTap
  by_cases he : d = e
  · subst he
    rw [State.die_modDie_same]
  · rw [State.die_modDie_ne _ he]
theorem tap_modTap (s : State) (d : DieId) (f : Tap → Tap) : ((s.modTap d f).die d).tap = f (s.die d).tap := by rw [State.modTap, State.die_modDie_same]
theorem OnlyTap.sysQuiet (h : OnlyTap s t) (e : DieId) : (t.die e).sysQuiet = (s.die e).sysQuiet := by rw [h e]; rfl
theorem OnlyTap.regVal (h : OnlyTap s t) (e : DieId) (off : Nat) : (t.die e).regVal e off = (s.die e).regVal e off := by rw [h e]; rfl
theorem OnlyTap.gated (h : OnlyTap s t) (e : DieId) : (t.die e).gated = (s.die e).gated := by rw [h e]
theorem OnlyTap.getReg (h : OnlyTap s t) (e : DieId) (o : Nat) : (t.die e).getReg e o = (s.die e).getReg e o := by rw [h e]; rfl
theorem OnlyTap.sameMem (h : OnlyTap s t) : SameMem s t := fun e a => by rw [h e]

theorem tapReset_ends (s : State) : ∃ t, execTapReset s = .next t ∧ OnlyTap s t ∧ ∀ e, (t.die e).tap.st = .reset ∧ (t.die e).tap.ir = 1 ∧ (t.die e).tap.chain = 0 := by
  have hd (e : DieId) := allDies_modDie (fun _ y => { y with tap := y.tap.home }) s e
  refine ⟨_, rfl, fun e => ?_, fun e => ?_⟩
  · change (allDies.foldl (fun s e => s.modDie e fun y => { y with tap := y.tap.home }) s).die e = { s.die e with tap := ((allDies.foldl (fun s e => s.modDie e fun y => { y with tap := y.tap.home }) s).die e).tap }
    rw [hd]
  · change ((allDies.foldl (fun s e => s.modDie e fun y => { y with tap := y.tap.home }) s).die e).tap.st = .reset ∧ _
    rw [show ((allDies.foldl (fun s d => s.modTap d Tap.home) s).die e) = _ from hd e, hd]
    exact ⟨rfl, rfl, rfl⟩

/-- An instruction selected and its register, which does not depend on a shutter stop, captured. -/
def captured (s : State) (d : DieId) (ir : Byte) (r : List Bool) : State := (tapSelect d ir s).modTap d fun t => { t with dr := r }
theorem captured_only (ir : Byte) (r : List Bool) : OnlyTap s (captured s d ir r) := (onlyTap_modTap s d _).trans (onlyTap_modTap _ d _)
theorem captured_tap (ir : Byte) (r : List Bool) : ((captured s d ir r).die d).tap = { (s.die d).tap with ir := ir, sh := ir, dr := r } := by
  rw [captured, tap_modTap, tapSelect, tap_modTap]
theorem captured_dr (ir : Byte) (r : List Bool) : ((captured s d ir r).die d).tap.dr = r := by rw [captured_tap]
theorem captured_ir (ir : Byte) (r : List Bool) : ((captured s d ir r).die d).tap.ir = ir := by rw [captured_tap]
theorem select_ir (ir : Byte) : ((tapSelect d ir s).die d).tap.ir = ir := by rw [tapSelect, tap_modTap]
/-- The boundary register takes the pins, which are drawn afresh. -/
def boundary (s : State) (d : DieId) (ir : Byte) : State := ({ tapSelect d ir s with draws := s.draws + 1 } : State).modTap d fun t => { t with dr := pinBits s.draws }
theorem boundary_ends (ir : Byte) : OnlyTap s (boundary s d ir) ∧ ((boundary s d ir).die d).tap.ir = ir ∧ ((boundary s d ir).die d).tap.dr.length = Config.boundaryLength := by
  have hsel : OnlyTap s { tapSelect d ir s with draws := s.draws + 1 } := onlyTap_modTap s d fun t => { t with ir := ir, sh := ir }
  refine ⟨hsel.trans (onlyTap_modTap { tapSelect d ir s with draws := s.draws + 1 } d _), ?_, ?_⟩
  · rw [boundary, tap_modTap]
    exact select_ir ir
  · rw [boundary, tap_modTap]
    simp [pinBits]
theorem capture_boundary {ir : Byte} (h : ir = 0x00 ∨ ir = 0x02) : tapCapture d (tapSelect d ir s) = boundary s d ir := by
  unfold tapCapture
  dsimp only
  rw [select_ir]
  rcases h with rfl | rfl <;> rfl
theorem capture_idcode : tapCapture d (tapSelect d 0x01 s) = captured s d 0x01 (bitsOf (idcode d)) := by
  unfold tapCapture
  dsimp only
  rw [select_ir]
  rfl
theorem capture_mreg : tapCapture d (tapSelect d 0x20 s) = captured s d 0x20 (tapSelect d 0x20 s |>.die d).tap.mreg := by
  unfold tapCapture
  dsimp only
  rw [select_ir]
  rfl
theorem capture_release : tapCapture d (tapSelect d 0x21 s) = captured s d 0x21 [false] := by
  unfold tapCapture
  dsimp only
  rw [select_ir]
  rfl
theorem capture_scan : tapCapture d (tapSelect d 0x23 s) =
    if (s.die d).gated && decide ((s.die d).tap.chain.toNat < 16) then (chainImage (tapSelect d 0x23 s) d (s.die d).tap.chain.toNat).2.modTap d (fun t => { t with dr := byteBits (chainImage (tapSelect d 0x23 s) d (s.die d).tap.chain.toNat).1 })
    else captured s d 0x23 [false] := by
  have hg : ((tapSelect d 0x23 s).die d).gated = (s.die d).gated := (onlyTap_modTap s d _).gated d
  have hc : ((tapSelect d 0x23 s).die d).tap.chain = (s.die d).tap.chain := by rw [tapSelect, tap_modTap]
  unfold tapCapture
  dsimp only
  rw [select_ir, hg, hc]
  rfl
theorem scan_running (h : (s.die d).gated = false) : tapCapture d (tapSelect d 0x23 s) = captured s d 0x23 [false] := by
  rw [capture_scan, h]
  rfl
/-- Chain 10 of a die: its proof entries. -/
def proofBits (y : Die) (n : Nat) : List Bool := ((List.range n).flatMap fun q => natLe 4 (y.proofAt q).toNat).flatMap fun b => (List.range 8).map b.getLsbD
theorem scan_proofs {y : Die} (h : (s.die d).gated = true) (hy : vget s.shot d = some y) (hc : (s.die d).tap.chain = 10) : tapCapture d (tapSelect d 0x23 s) = captured s d 0x23 (proofBits y 4096) := by
  have hshot : vget (tapSelect d 0x23 s).shot d = some y := hy
  have hi : chainImage (tapSelect d 0x23 s) d 10 = ((List.range 4096).flatMap fun q => natLe 4 (y.proofAt q).toNat, tapSelect d 0x23 s) := by
    unfold chainImage
    rw [hshot, Option.getD_some, if_neg (by decide), if_neg (by decide), if_neg (by decide), if_pos rfl]
  have h10 : (10 : Byte).toNat = 10 := rfl
  rw [capture_scan, h, hc, if_pos (by decide), h10, hi, proofBits]
  generalize (List.range 4096).flatMap (fun q => natLe 4 (y.proofAt q).toNat) = r
  rfl

theorem release_running (h : (s.die d).gated = false) : releaseClocks d s = s := by
  unfold releaseClocks
  rw [h]
  rfl
theorem trcMark_gated (y : Die) : (trcMark d y).gated = y.gated := trcMark_keeps ⟨fun _ _ _ _ => rfl, fun _ _ _ => rfl, fun _ _ => rfl⟩ d y
theorem release_gated (h : (s.die d).gated = true) : ((releaseClocks d s).die d).gated = false ∧ (bitAt ((s.die d).getReg d rTRCBASE) 63 = false → SameMem s (releaseClocks d s)) := by
  have hx : releaseClocks d s = ({ s with shot := vset s.shot d none } : State).modDie d fun y => if bitAt (y.getReg d rTRCBASE) 63 then trcMark d { y with gated := false } else { y with gated := false } := by
    unfold releaseClocks
    rw [h]
    rfl
  rw [hx]
  refine ⟨?_, fun hoff => sameMem_modDie { s with shot := vset s.shot d none } d _ ?_⟩
  · rw [State.die_modDie_same]
    split
    · exact trcMark_gated _
    · rfl
  · change (if bitAt ((s.die d).getReg d rTRCBASE) 63 = true then _ else _ : Die).mem = _
    rw [hoff]
    rfl

/-- The state in which the access of MREG is made. -/
def mregAt (s : State) (d : DieId) : State := tapCapture d (tapSelect d 0x20 s)
theorem mregAt_only : OnlyTap s (mregAt s d) := by
  rw [mregAt, capture_mreg]
  exact captured_only _ _
theorem mregAt_ir : ((mregAt s d).die d).tap.ir = 0x20 := by rw [mregAt, capture_mreg, captured_tap]
theorem mregAt_mdone : ((mregAt s d).die d).tap.mdone = (s.die d).tap.mdone := by rw [mregAt, capture_mreg, captured_tap]
theorem mreg_busy {dr : BitVec 82} (h : (s.die d).tap.mdone = false) : execTapMreg d dr s = .next (mregAt s d) := by
  change Host.Outcome.next (mregAccess d dr (mregAt s d)) = _
  unfold mregAccess
  dsimp only
  rw [mregAt_mdone, h]
  rfl
theorem mreg_writes {dr : BitVec 82} (h : (s.die d).tap.mdone = true) (hw : dr.getLsbD 80 = true) (ho : (dr.extractLsb' 64 16).toNat ≠ 0x720 ∨ (s.die d).sysQuiet = true) :
    execTapMreg d dr s = execRegisterWrite d (dr.extractLsb' 64 16).toNat (dr.extractLsb' 0 64) (mregAt s d) := by
  have hgo : regWaits (mregAt s d) d (dr.extractLsb' 64 16).toNat = false := by
    unfold regWaits
    rw [mregAt_only.sysQuiet d]
    rcases ho with ho | ho
    · rw [beq_false_of_ne ho, Bool.false_and]
    · rw [ho, Bool.not_true, Bool.and_false]
  change Host.Outcome.next (mregAccess d dr (mregAt s d)) = _
  unfold mregAccess execRegisterWrite
  dsimp only
  rw [mregAt_mdone, h, hw, hgo]
  rfl
theorem mreg_reads {dr : BitVec 82} {v : Word} (h : (s.die d).tap.mdone = true) (hw : dr.getLsbD 80 = false) (hv : (s.die d).regVal d (dr.extractLsb' 64 16).toNat = some v) :
    execTapMreg d dr s = .next ((mregAt s d).modTap d fun t => { t with mdata := v }) := by
  have hr : regRead (mregAt s d) d (dr.extractLsb' 64 16).toNat = (v, mregAt s d) := by
    unfold regRead
    rw [mregAt_only.regVal d, hv]
  change Host.Outcome.next (mregAccess d dr (mregAt s d)) = _
  unfold mregAccess
  dsimp only
  rw [mregAt_mdone, h, hw, hr]
  rfl
end Port

/-- Settles O55: reset, the image check and its retry, and each instruction of the test access port, by its own rule. -/
theorem bootAndTestPort : Obligations.BootAndTestPort := by
  refine ⟨⟨packageResetRelease_ends, fun s d => ⟨dieResetRelease_running, dieResetRelease_ends⟩, ?_⟩, ?_⟩
  · intro s d img st n fetched
    refine ⟨fun _ _ h => bootImageCheck_notFetched h, fun _ _ hi h => bootImageCheck_other hi h, fun ⟨hr, hst, hi⟩ hg hw hu => goodImage_ends hr hst hi hg hw hu, fun ⟨hr, hst, hi⟩ hg => badImage_ends hr hst hi hg, ?_⟩
    intro waited
    exact ⟨fun ⟨hr, hst, hb, ha⟩ => bootRetry_ends hr hst hb ha, bootRetry_waits⟩
  · intro s d dr sel tdi tap only
    refine ⟨tapReset_ends s, ⟨boundary s d 0x00, ?_, boundary_ends _⟩, ⟨boundary s d 0x02, ?_, boundary_ends _⟩, ⟨captured s d 0x01 (bitsOf (idcode d)), ?_, captured_only _ _, ?_, ?_⟩, ?_, ?_, ?_, ?_, ?_, ?_, ?_, ?_, ?_⟩
    · exact congrArg Host.Outcome.next (capture_boundary (.inl rfl))
    · exact congrArg Host.Outcome.next (capture_boundary (.inr rfl))
    · exact congrArg Host.Outcome.next capture_idcode
    · exact captured_ir _ _
    · exact captured_dr _ _
    · refine ⟨_, rfl, (onlyTap_modTap s d _).trans (onlyTap_modTap _ d _), ?_, ?_⟩
      · exact (congrArg Tap.ir (tap_modTap _ _ _)).trans (select_ir _)
      · exact congrArg Tap.chain (tap_modTap _ _ _)
    · refine ⟨_, rfl, captured_only (s := s) (d := d) 0xFF [tdi], ?_, ?_⟩
      · exact captured_ir 0xFF [tdi]
      · exact captured_dr 0xFF [tdi]
    · intro hg
      exact ⟨_, congrArg Host.Outcome.next (scan_running hg), captured_only _ _, captured_dr _ _⟩
    · intro y hg hy hc
      have hx : execTapScan d s = .next (captured s d 0x23 (proofBits y 4096)) := by rw [execTapScan, scan_proofs hg hy hc]
      exact ⟨captured s d 0x23 (proofBits y 4096), hx, captured_only _ _, (captured_dr _ _).trans (proofBits.eq_1 y 4096)⟩
    · intro hg
      refine ⟨captured s d 0x21 [false], ?_, captured_only _ _⟩
      change Host.Outcome.next (releaseClocks d (tapCapture d (tapSelect d 0x21 s))) = _
      rw [capture_release, release_running (((captured_only _ _).gated d).trans hg)]
    · intro hg
      have hcap := captured_only (s := s) (d := d) 0x21 [false]
      obtain ⟨hrun, hsame⟩ := release_gated ((hcap.gated d).trans hg)
      refine ⟨_, congrArg (fun u => Host.Outcome.next (releaseClocks d u)) capture_release, hrun, fun hoff => hcap.sameMem.trans (hsame ?_)⟩
      rw [hcap.getReg]
      exact hoff
    · intro hm hw ho
      exact ⟨mregAt s d, mreg_writes hm hw ho, mregAt_only, mregAt_ir⟩
    · intro v hm hw hv
      exact ⟨_, mreg_reads hm hw hv, mregAt_only.trans (onlyTap_modTap _ d _), congrArg Tap.mdata (tap_modTap _ _ _)⟩
    · intro hm
      exact ⟨_, mreg_busy hm, mregAt_only⟩

end Sys2Proof.Proofs
end

section
/-! SUPPORT. What leases, give-ups and restores leave of a die: slots given back, and what counting, tracing and journalling do not touch (O43 to O46). -/

namespace Sys2Proof.Proofs

open Sys2Proof Sys2Proof.Machine Sys2Proof.Laws

/-! ## Counter sets, power class, trace and journal (R332, R342, R347) -/

/-- A part of a die that neither memory, registers, the trace nor the live counter sets are part of. -/
structure LiveKeeps {α : Type} (F : Die → α) : Prop extends TraceKeeps F where
  live : ∀ (y : Die) v, F { y with sched := { y.sched with live := v } } = F y

section Live
variable {α : Type} {F : Die → α} (hF : LiveKeeps F) (d : DieId)
include hF

theorem pokes_keeps (y : Die) (a : Nat) (bs : List Byte) (psn : Bool) : F (y.pokes a bs psn) = F y := foldl_keeps F (fun z _ => hF.poke z _ _ psn) _ y
theorem pmPut_keeps (y : Die) (a : Nat) (bs : List Byte) : F (y.pmPut a bs) = F y := by
  unfold Die.pmPut
  split
  · exact pokes_keeps hF y a bs false
  · rfl
theorem liveSets_keeps (y : Die) : F (y.liveSets d) = F y :=
  (hF.live _ _).trans (foldl_keeps F (fun z _ => (pmPut_keeps hF _ _ _).trans (pmPut_keeps hF z _ _)) _ y)
theorem afterGive_keeps (y : Die) : F (y.afterGive d) = F y := (liveSets_keeps hF d _).trans (hF.reg y _ _)
theorem traceTeam_keeps (y : Die) (l : Launch) (ks : List SlotId) (stop : Bool) : F (y.traceTeam d l ks stop) = F y := trcRecord_keeps hF.toTraceKeeps d y _ _
theorem jDoneLast_keeps (y : Die) : F (y.jDoneLast d) = F y := by
  unfold Die.jDoneLast Die.jDone
  split
  · exact hF.poke y _ _ _
  · rfl
theorem endPlace_keeps (y : Die) (l : Launch) (ks : List SlotId) (stop : Bool) : F ((y.traceTeam d l ks stop).afterGive d) = F y := (afterGive_keeps hF d _).trans (traceTeam_keeps hF d y l ks stop)
end Live

/-- The scheduler's tables, but for the live counter sets and the place in the journal. -/
def tables (y : Die) : Sched := { y.sched with live := [], jseq := 0, jpos := 0 }
theorem liveKeeps_tables : LiveKeeps tables := ⟨⟨fun _ _ _ _ => rfl, fun _ _ _ => rfl, fun _ _ => rfl⟩, fun _ _ => rfl⟩
theorem liveKeeps_slots : LiveKeeps Die.slots := ⟨⟨fun _ _ _ _ => rfl, fun _ _ _ => rfl, fun _ _ => rfl⟩, fun _ _ => rfl⟩
theorem jOpen_tables (y : Die) (d : DieId) (k a b c : Nat) : tables (y.jOpen d k a b c) = tables y := jOpen_keeps (F := tables) (fun _ _ _ _ => rfl) (fun _ _ _ => rfl) y k a b c
theorem jOpen_slots (y : Die) (d : DieId) (k a b c : Nat) : (y.jOpen d k a b c).slots = y.slots := jOpen_keeps (F := Die.slots) (fun _ _ _ _ => rfl) (fun _ _ _ => rfl) y k a b c
theorem slot_of_slots {y z : Die} (h : y.slots = z.slots) (k : SlotId) : y.slot k = z.slot k := by rw [Die.slot, Die.slot, h]

/-! ## Slots given back (R38) -/

section Back
variable {y : Die} {k : SlotId}

/-- One slot given back. -/
def backOne (y : Die) (k : SlotId) : Die := (y.modLay k fun _ => Lay.none).modSlot k Slot.vacate
theorem giveBack_cons (j : SlotId) (ks : List SlotId) (y : Die) : y.giveBack (j :: ks) = (backOne y j).giveBack ks := rfl
theorem layOf_modLay_same (y : Die) (k : SlotId) (f : Lay → Lay) : (y.modLay k f).layOf k = f (y.layOf k) := vget_vmod_same _ _ _
theorem layOf_modLay_ne (y : Die) {k j : SlotId} (f : Lay → Lay) (h : k ≠ j) : (y.modLay k f).layOf j = y.layOf j := vget_vmod_ne _ h _
theorem backOne_same (y : Die) (k : SlotId) : (backOne y k).layOf k = Lay.none ∧ (backOne y k).slot k = (y.slot k).vacate := ⟨layOf_modLay_same y k _, Die.slot_modSlot_same _ _ _⟩
theorem backOne_ne (y : Die) {k j : SlotId} (h : k ≠ j) : (backOne y k).layOf j = y.layOf j ∧ (backOne y k).slot j = y.slot j := ⟨layOf_modLay_ne y _ h, Die.slot_modSlot_ne _ h _⟩
theorem giveBack_rest_slot {ks : List SlotId} (h : k ∉ ks) : (y.giveBack ks).layOf k = y.layOf k ∧ (y.giveBack ks).slot k = y.slot k := by
  induction ks generalizing y with
  | nil => exact ⟨rfl, rfl⟩
  | cons j ks ih =>
    obtain ⟨hj, hks⟩ := List.ne_and_not_mem_of_not_mem_cons h
    obtain ⟨hl, hs⟩ := backOne_ne y (Ne.symm hj)
    obtain ⟨hl', hs'⟩ := ih (y := backOne y j) hks
    exact ⟨hl'.trans hl, hs'.trans hs⟩
/-- A slot given back is in no fragment, and vacated. -/
theorem giveBack_slot {ks : List SlotId} (h : k ∈ ks) : (y.giveBack ks).layOf k = Lay.none ∧ ∃ t : Slot, (y.giveBack ks).slot k = t.vacate := by
  induction ks generalizing y with
  | nil => exact absurd h (by simp)
  | cons j ks ih =>
    rw [giveBack_cons]
    by_cases hk : k ∈ ks
    · exact ih hk
    · obtain rfl : k = j := (List.mem_cons.1 h).resolve_right hk
      obtain ⟨hl, hs⟩ := giveBack_rest_slot (y := backOne y k) hk
      obtain ⟨hl', hs'⟩ := backOne_same y k
      exact ⟨hl.trans hl', _, hs.trans hs'⟩
theorem giveBack_mem (ks : List SlotId) (y : Die) : (y.giveBack ks).mem = y.mem := by rw [giveBack_rest]
theorem giveBack_idle (ks : List SlotId) (y : Die) : (∀ k ∈ ks, (y.giveBack ks).layOf k = Lay.none ∧ ((y.giveBack ks).slot k).ctl.own = none ∧ ((y.giveBack ks).slot k).ctl.act = .idle ∧ ∀ q, vget ((y.giveBack ks).slot k).q q = []) ∧
    (∀ k, k ∉ ks → (y.giveBack ks).layOf k = y.layOf k ∧ (y.giveBack ks).slot k = y.slot k) ∧ (y.giveBack ks).mem = y.mem := by
  refine ⟨fun k hk => ?_, fun k hk => giveBack_rest_slot hk, giveBack_mem ks y⟩
  obtain ⟨hl, t, hs⟩ := giveBack_slot (y := y) hk
  rw [hs]
  exact ⟨hl, rfl, rfl, fun q => vget_replicate [] q⟩
end Back

end Sys2Proof.Proofs
end

section
/-! SUPPORT. Leases, give-ups, retirements and swap-ins (O43). -/

namespace Sys2Proof.Proofs

open Sys2Proof Sys2Proof.Machine Sys2Proof.Laws

/-! ## A lease (R316, R317) -/

section Lease
variable {s : State} {d : DieId} {l : Launch} {b : Blk} {ks : List SlotId}

/-- The first `n` slots of a block taken. -/
def leaseSlots (l : Launch) (b : Blk) (ks : List SlotId) (n : Nat) (y : Die) : Die :=
  (List.range n).foldl (fun d i => match ks[i]? with | some k => d.modSlot k fun t => t.lease ⟨l.id, b.l, i⟩ | none => d) y
theorem leaseSlots_succ (n : Nat) (y : Die) {k : SlotId} (hk : ks[n]? = some k) : leaseSlots l b ks (n + 1) y = (leaseSlots l b ks n y).modSlot k fun t => t.lease ⟨l.id, b.l, n⟩ := by
  unfold leaseSlots
  rw [List.range_succ, List.foldl_append, List.foldl_cons, List.foldl_nil, hk]
theorem leaseSlots_slots (hn : ks.Nodup) (y : Die) {n : Nat} (h : n ≤ ks.length) :
    (∀ i k, ks[i]? = some k → (leaseSlots l b ks n y).slot k = if i < n then (y.slot k).lease ⟨l.id, b.l, i⟩ else y.slot k) ∧ ∀ k, k ∉ ks → (leaseSlots l b ks n y).slot k = y.slot k := by
  induction n with
  | zero => exact ⟨fun _ _ _ => rfl, fun _ _ => rfl⟩
  | succ n ih =>
    obtain ⟨hin, hout⟩ := ih (by omega)
    have hk : ks[n]? = some ks[n] := List.getElem?_eq_getElem h
    rw [leaseSlots_succ n y hk]
    refine ⟨fun i k hi => ?_, fun k hk' => ?_⟩
    · by_cases hin' : i = n
      · subst hin'
        obtain rfl := Option.some.inj (hk.symm.trans hi)
        rw [Die.slot_modSlot_same, hin i _ hk, if_neg (Nat.lt_irrefl _), if_pos (Nat.lt_succ_self _)]
      · obtain ⟨hlt, hki⟩ := List.getElem?_eq_some_iff.1 hi
        have hne : ks[n] ≠ k := fun e => hin' (hn.getElem_inj_iff.1 (hki.trans e.symm))
        rw [Die.slot_modSlot_ne _ hne, hin i k hi]
        exact if_congr (by omega) rfl rfl
    · have hne : ks[n] ≠ k := fun e => hk' (e ▸ List.getElem_mem _)
      rw [Die.slot_modSlot_ne _ hne, hout k hk']
section Layout
variable {α : Type} {F : Die → α} (hF : ∀ (y : Die) v, F { y with lay := v } = F y)
include hF
theorem putFrag_keeps (y : Die) (sh : Fin 6) (k : SlotId) (semi : Semi) (w : Tag) : F (y.putFrag sh k semi w) = F y := by
  unfold Die.putFrag
  exact foldl_keeps F (fun z _ => hF z _) _ y
theorem putRel_keeps (y : Die) (ks : List SlotId) (ls : List RelLay) (keep : Bool) : F (y.putRel ks ls keep) = F y := by
  unfold Die.putRel
  dsimp only
  refine Eq.trans (foldl_keeps F (f := fun d (r : RelLay) => d.modLay (ks.getD r.base 0) fun y => { y with dst := r.dst.map fun i => ks.getD i 0 }) (fun z _ => hF z _) ls _) ?_
  exact foldl_keeps F (fun z _ => putFrag_keeps hF z _ _ _ _) ls y
end Layout
/-- The block's layout on its slots, and its place in the scheduler's tables. -/
theorem leaseBlk_eq (hlay : b.lay = []) (y : Die) : ∃ z : Die, z.slots = (leaseSlots l b ks ks.length y).slots ∧ y.leaseBlk l b ks = { z with sched := { z.sched.modBlk l.id b.l fun x => { x with
    slots := ks, st := if x.earl then .early else .leased, halted := 0, recs := x.recs.map fun r => { r with on := false } } with cq := z.sched.cq.filter fun e => e != (l.id, b.l) } } := by
  cases ks with
  | nil =>
    refine ⟨(leaseSlots l b [] 0 y).clearKstat [], rfl, ?_⟩
    unfold Die.leaseBlk
    rw [hlay]
    rfl
  | cons k r =>
    refine ⟨((leaseSlots l b (k :: r) (k :: r).length y).putFrag l.shape k .plusTimes tRAW).clearKstat (k :: r), putFrag_keeps (F := Die.slots) (fun _ _ => rfl) _ _ _ _ _, ?_⟩
    unfold Die.leaseBlk
    rw [hlay]
    rfl
theorem leaseBlk_cq (hlay : b.lay = []) (y : Die) : (l.id, b.l) ∉ (y.leaseBlk l b ks).sched.cq := by
  obtain ⟨z, -, hz⟩ := leaseBlk_eq (l := l) (ks := ks) hlay y
  rw [hz]
  simp
theorem leaseBlk_slots (hlay : b.lay = []) (hn : ks.Nodup) (y : Die) :
    (∀ (i : Nat) (k : SlotId), ks[i]? = some k → (y.leaseBlk l b ks).slot k = (y.slot k).lease ⟨l.id, b.l, i⟩) ∧ ∀ k, k ∉ ks → (y.leaseBlk l b ks).slot k = y.slot k := by
  obtain ⟨z, hs, hz⟩ := leaseBlk_eq (l := l) (ks := ks) hlay y
  obtain ⟨hin, hout⟩ := leaseSlots_slots (l := l) (b := b) hn y (Nat.le_refl ks.length)
  have hslot (k : SlotId) : (y.leaseBlk l b ks).slot k = (leaseSlots l b ks ks.length y).slot k := slot_of_slots ((congrArg Die.slots hz).trans hs) k
  refine ⟨fun i k hi => (hslot k).trans ((hin i k hi).trans (if_pos ?_)), fun k hk => (hslot k).trans (hout k hk)⟩
  exact (List.getElem?_eq_some_iff.1 hi).1

/-- The scheduler's tables at a lease: the slice begins, unless the team is resident already. -/
def leaseSched (s : State) (d : DieId) (c : Cand) (p : Machine.Place) (l : Launch) (q : Sched) : Sched :=
  let old := (s.die d).sched.team c.lid c.t
  let team : Team := ⟨l.id, c.t, p.cluster, l.wide, p.base0, p.base1, s.tick d, false, false, none, []⟩
  if old.any (s.die d).resident then q
  else { (q.beginSlice l.cls) with teams := if old.isNone then team :: q.teams else q.teams.map fun x => if x.lid == c.lid && x.t == c.t then team else x }
theorem only_block {l : Launch} {b : Blk} (hb : l.blks.filter (fun x => x.l == b.l) = [b]) : l.blks.filter (fun x => ([b.l] : List Nat).contains x.l) = [b] := by
  rw [← hb]
  refine List.filter_congr fun x _ => ?_
  rw [Bool.eq_iff_iff, beq_iff_eq]
  simp
theorem leaseTeam_one {c : Cand} {p : Machine.Place} (hl : (s.die d).sched.launch c.lid = some l) (hc : c.blks = [b.l]) (hb : l.blks.filter (fun x => x.l == b.l) = [b]) (hp : p.slots = [ks]) :
    (leaseTeam s d c p).die d = (Die.traceTeam { ({ s.die d with sched := leaseSched s d c p l (s.die d).sched } : Die).leaseBlk l b ks with
      sched := { (({ s.die d with sched := leaseSched s d c p l (s.die d).sched } : Die).leaseBlk l b ks).sched with
        rr := vset (({ s.die d with sched := leaseSched s d c p l (s.die d).sched } : Die).leaseBlk l b ks).sched.rr l.cls l.pid } } d l p.slots.flatten false).afterGive d := by
  unfold leaseTeam
  rw [hl]
  dsimp only
  rw [hc, only_block hb, hp]
  change ((((s.modSched d (leaseSched s d c p l)).modDie d fun y => y.leaseBlk l b ks).modSched d fun q => { q with rr := vset q.rr l.cls l.pid }).modDie d fun y => (y.traceTeam d l [ks].flatten false).afterGive d).die d = _
  rw [State.die_modDie_same, modSched_die, State.die_modDie_same, modSched_die]
theorem leaseTeam_ends {c : Cand} {p : Machine.Place} (hl : (s.die d).sched.launch c.lid = some l) (hc : c.blks = [b.l]) (hb : l.blks.filter (fun x => x.l == b.l) = [b]) (hp : p.slots = [ks]) (hn : ks.Nodup) (hlay : b.lay = []) :
    (∀ (i : Nat) (k : SlotId), ks[i]? = some k → ((leaseTeam s d c p).slot d k) = (s.slot d k).lease ⟨l.id, b.l, i⟩) ∧ (∀ k, k ∉ ks → (leaseTeam s d c p).slot d k = s.slot d k) ∧
      (l.id, b.l) ∉ ((leaseTeam s d c p).die d).sched.cq := by
  have heq := leaseTeam_one hl hc hb hp
  obtain ⟨hin, hout⟩ := leaseBlk_slots (l := l) hlay hn ({ s.die d with sched := leaseSched s d c p l (s.die d).sched } : Die)
  have hcq := leaseBlk_cq (l := l) (ks := ks) hlay ({ s.die d with sched := leaseSched s d c p l (s.die d).sched } : Die)
  generalize ({ s.die d with sched := leaseSched s d c p l (s.die d).sched } : Die).leaseBlk l b ks = y at heq hin hout hcq
  have hslot (k : SlotId) : (leaseTeam s d c p).slot d k = y.slot k := by
    rw [State.slot, heq]
    exact slot_of_slots (endPlace_keeps liveKeeps_slots d _ l _ false) k
  refine ⟨fun i k hi => (hslot k).trans (hin i k hi), fun k hk => (hslot k).trans (hout k hk), ?_⟩
  have htab := endPlace_keeps liveKeeps_tables d ({ y with sched := { y.sched with rr := vset y.sched.rr l.cls l.pid } } : Die) l p.slots.flatten false
  rw [heq]
  have hq := congrArg Sched.cq htab
  exact fun h => hcq (hq ▸ h)
end Lease

/-! ## The allocator's decision (R316, R317) -/

section Grant
variable {s : State} {d : DieId}

theorem grant_none (hon : (s.die d).schedOn d = true) (hf : (s.die d).nextPlace d none = none) (swap : Bool) : grant s d swap = s := by
  unfold grant
  dsimp only
  rw [hon, hf]
  rfl
theorem grant_some {c : Cand} {p : Machine.Place} (hon : (s.die d).schedOn d = true) (hf : (s.die d).nextPlace d none = some (c, p)) (swap : Bool) :
    grant s d swap = if c.swap != swap then s else fillHalves d 8 (((placeTeam s d c p).die d).halves p.slots.flatten) (placeTeam s d c p) := by
  unfold grant
  dsimp only
  rw [hon, hf]
  rfl
theorem grant_other {c : Cand} {p : Machine.Place} (hon : (s.die d).schedOn d = true) (hf : (s.die d).nextPlace d none = some (c, p)) {swap : Bool} (h : c.swap = !swap) : grant s d swap = s := by
  rw [grant_some hon hf, h]
  cases swap <;> rfl
theorem grant_own {c : Cand} {p : Machine.Place} (hon : (s.die d).schedOn d = true) (hf : (s.die d).nextPlace d none = some (c, p)) {swap : Bool} (h : c.swap = swap) :
    grant s d swap = fillHalves d 8 (((placeTeam s d c p).die d).halves p.slots.flatten) (placeTeam s d c p) := by
  rw [grant_some hon hf, h]
  cases swap <;> rfl
end Grant

/-! ## Give-up and retirement (R28, R37) -/

section Leave
variable {s : State} {d : DieId} {l : Launch} {b : Blk}

theorem pairOf_mk {a n : Nat} (h : n < 2 ^ 32) : pairOf (2 ^ 32 * a + n) = (a, n) := by
  unfold pairOf
  rw [Nat.mul_add_div (by decide), Nat.div_eq_of_lt h, Nat.mul_add_mod, Nat.mod_eq_of_lt h, Nat.add_zero]
/-- A block at a give-up, with what keeps it. -/
def staysPut (y : Die) (d : DieId) (l : Launch) (b : Blk) : Bool :=
  b.slots.isEmpty || b.keeps || b.recs.all (·.done) || !(b.recs.all (·.susp.isSome)) || b.halted != 0 || (y.sched.team l.id (l.teamOf b.l)).any (·.leaving) || !y.blkIdle d b.slots
/-- The die once a block has given up its fragment. -/
def gaveUpDie (y : Die) (d : DieId) (l : Launch) (b : Blk) : Die :=
  let q := (y.giveBack b.slots).sched.modBlk l.id b.l fun x => { x with slots := [], st := .queued, lay := y.relLay b.slots, recs := x.recs.map fun r => { r with on := false } }
  Die.afterGive { y.giveBack b.slots with sched := { q with cq := q.cq ++ [(l.id, b.l)] } } d
theorem giveUp_eq (hbl : b.l < 2 ^ 32) (hl : (s.die d).sched.launch l.id = some l) (hb : l.blk b.l = some b) : execFragmentGiveUp d (2 ^ 32 * l.id + b.l) s =
    if staysPut (s.die d) d l b then .next s else .next (s.modDie d fun _ => gaveUpDie (s.die d) d l b) := by
  unfold execFragmentGiveUp
  dsimp only
  rw [pairOf_mk hbl, hl]
  dsimp only
  rw [hb]
  rfl
theorem leaving_any {y : Die} (h : ∀ t, y.sched.team l.id (l.teamOf b.l) = some t → t.leaving = false) : (y.sched.team l.id (l.teamOf b.l)).any (·.leaving) = false := by
  cases ht : y.sched.team l.id (l.teamOf b.l) with
  | none => rfl
  | some t => exact h t ht
theorem done_all (h : ∃ r ∈ b.recs, r.done = false) : b.recs.all (·.done) = false := by
  obtain ⟨r, hr, hd⟩ := h
  exact List.all_eq_false.2 ⟨r, hr, by rw [hd]; decide⟩
theorem giveUp_goes (hbl : b.l < 2 ^ 32) (hl : (s.die d).sched.launch l.id = some l) (hb : l.blk b.l = some b) (hsl : b.slots ≠ []) (hleave : ∀ t, (s.die d).sched.team l.id (l.teamOf b.l) = some t → t.leaving = false) (hh : b.halted = 0)
    (hnd : ∃ r ∈ b.recs, r.done = false) (hsusp : ∀ r ∈ b.recs, r.susp ≠ none) (hk : b.keeps = false) (hidle : (s.die d).blkIdle d b.slots = true) :
    execFragmentGiveUp d (2 ^ 32 * l.id + b.l) s = .next (s.modDie d fun _ => gaveUpDie (s.die d) d l b) := by
  have hall : b.recs.all (·.susp.isSome) = true := List.all_eq_true.2 fun r hr => Option.isSome_iff_ne_none.2 (hsusp r hr)
  have hempty : b.slots.isEmpty = false := List.isEmpty_eq_false_iff.2 hsl
  rw [giveUp_eq hbl hl hb, staysPut, hempty, hk, done_all hnd, hall, hh, leaving_any hleave, hidle]
  rfl
theorem giveUp_keeps (hbl : b.l < 2 ^ 32) (hl : (s.die d).sched.launch l.id = some l) (hb : l.blk b.l = some b) (hk : b.keeps = true) : execFragmentGiveUp d (2 ^ 32 * l.id + b.l) s = .next s := by
  rw [giveUp_eq hbl hl hb, staysPut, hk]
  simp

/-- The die once a block has retired, before its node is looked at. -/
def retiredDie (y : Die) (d : DieId) (l : Launch) (b : Blk) : Die :=
  let g := y.giveBack b.slots
  let q := g.sched.modBlk l.id b.l fun x => { x with slots := [], st := .retired }
  (Die.dropTeam { g with sched := if g.schedOn d then q else { q with cbuf := q.cbuf ++ [(l.id, b.l)] } } d l (l.teamOf b.l) b.slots).afterGive d
theorem retire_eq (hbl : b.l < 2 ^ 32) (hl : (s.die d).sched.launch l.id = some l) (hb : l.blk b.l = some b) (hh : b.halted = 0) : execBlockRetire d (2 ^ 32 * l.id + b.l) s =
    if b.slots.isEmpty || !(s.die d).blkIdle d b.slots then .next s
    else if !(s.die d).retires d l b || !s.pairRoom d 2 then .next s
    else if !(s.die d).schedOn d && decide (1024 ≤ (s.die d).sched.cbuf.length) then .next s
    else .next (s.tellPair (s.modDie d fun _ => if (retiredDie (s.die d) d l b).schedOn d then Die.completeNode d (retiredDie (s.die d) d l b) (s.muted d) l.id else retiredDie (s.die d) d l b) d) := by
  unfold execBlockRetire
  dsimp only
  rw [pairOf_mk hbl, hl]
  dsimp only
  rw [hb]
  dsimp only
  rw [hh]
  rfl
theorem retire_undone (hbl : b.l < 2 ^ 32) (hl : (s.die d).sched.launch l.id = some l) (hb : l.blk b.l = some b) (hh : b.halted = 0) (hnd : ∃ r ∈ b.recs, r.done = false) : execBlockRetire d (2 ^ 32 * l.id + b.l) s = .next s := by
  have hno : (s.die d).retires d l b = false := by
    rw [Die.retires, done_all hnd]
    simp
  rw [retire_eq hbl hl hb hh, hno, Bool.not_false, Bool.true_or, if_pos rfl, ite_self]
theorem retire_full (hbl : b.l < 2 ^ 32) (hl : (s.die d).sched.launch l.id = some l) (hb : l.blk b.l = some b) (hh : b.halted = 0) (hoff : (s.die d).schedOn d = false) (hfull : 1024 ≤ (s.die d).sched.cbuf.length) :
    execBlockRetire d (2 ^ 32 * l.id + b.l) s = .next s := by
  rw [retire_eq hbl hl hb hh, hoff, decide_eq_true hfull, Bool.not_false, Bool.and_self, if_pos rfl, ite_self, ite_self]
theorem retire_goes (hbl : b.l < 2 ^ 32) (hl : (s.die d).sched.launch l.id = some l) (hb : l.blk b.l = some b) (hsl : b.slots ≠ []) (hleave : ∀ t, (s.die d).sched.team l.id (l.teamOf b.l) = some t → t.leaving = false) (hh : b.halted = 0)
    (hdone : ∀ r ∈ b.recs, r.done = true) (he : b.earl = false) (hidle : (s.die d).blkIdle d b.slots = true) (hon : (s.die d).schedOn d = true) (hg : ((s.die d).giveBack b.slots).schedOn d = true) (hroom : s.pairRoom d 2 = true) :
    ∃ e, execBlockRetire d (2 ^ 32 * l.id + b.l) s = .next (s.tellPair (s.modDie d fun _ => if e.schedOn d then Die.completeNode d e (s.muted d) l.id else e) d) ∧
      e = (Die.dropTeam { (s.die d).giveBack b.slots with sched := ((s.die d).giveBack b.slots).sched.modBlk l.id b.l fun x => { x with slots := [], st := .retired } } d l (l.teamOf b.l) b.slots).afterGive d := by
  have hempty : b.slots.isEmpty = false := List.isEmpty_eq_false_iff.2 hsl
  have hret : (s.die d).retires d l b = true := by
    rw [Die.retires, hempty, hidle, List.all_eq_true.2 hdone, he, hh, leaving_any hleave]
    rfl
  refine ⟨retiredDie (s.die d) d l b, ?_, ?_⟩
  · rw [retire_eq hbl hl hb hh, hempty, hidle, hret, hroom, hon]
    rfl
  · rw [retiredDie]
    dsimp only
    rw [if_pos hg]
end Leave

end Sys2Proof.Proofs
end

section
/-! SUPPORT. A swapped-out block of one strand comes back (O43). -/

namespace Sys2Proof.Proofs

open Sys2Proof Sys2Proof.Machine Sys2Proof.Laws

/-! ## What a restore leaves of the strand and of the tables (R322) -/

/-- A slot's strand, and the scheduler's tables. -/
def bound (k : SlotId) (y : Die) : Option Owner × Sched := ((y.slot k).ctl.own, tables y)
theorem liveKeeps_bound (k : SlotId) : LiveKeeps (bound k) := ⟨⟨fun _ _ _ _ => rfl, fun _ _ _ => rfl, fun _ _ => rfl⟩, fun _ _ => rfl⟩
theorem bound_of {k : SlotId} {y z : Die} (hs : (z.slot k).ctl.own = (y.slot k).ctl.own) (ht : tables z = tables y) : bound k z = bound k y := Prod.ext hs ht
theorem tables_sched {y z : Die} (h : z.sched = y.sched) : tables z = tables y := by rw [tables, tables, h]
theorem bound_modSlot {k : SlotId} (y : Die) (j : SlotId) {f : Slot → Slot} (hf : ∀ t, (f t).ctl.own = t.ctl.own) : bound k (y.modSlot j f) = bound k y := by
  refine bound_of ?_ rfl
  by_cases h : j = k
  · subst h
    rw [Die.slot_modSlot_same, hf]
  · rw [Die.slot_modSlot_ne _ h]

section Put
variable {s : State} {d : DieId} {k : SlotId}

/-- What a step of the restore leaves of a slot's strand and of the tables. -/
def Holds (d : DieId) (k : SlotId) (s t : State) : Prop := bound k (t.die d) = bound k (s.die d)
theorem Holds.trans {s t u : State} (h : Holds d k s t) (g : Holds d k t u) : Holds d k s u := Eq.trans g h
theorem holds_modDie (s : State) {f : Die → Die} (h : ∀ y, bound k (f y) = bound k y) : Holds d k s (s.modDie d f) := by
  rw [Holds, State.die_modDie_same]
  exact h _
theorem holds_modAg (s : State) (a : Agent) (f : AgentSt → AgentSt) : Holds d k s (s.modAg d a f) := by
  refine holds_modDie s fun y => bound_of ?_ (tables_sched (modAg_sched y a f))
  rw [modAg_ctl]
theorem holds_modSlot (s : State) (j : SlotId) {f : Slot → Slot} (hf : ∀ t, (f t).ctl.own = t.ctl.own) : Holds d k s (s.modSlot d j f) := holds_modDie s fun y => bound_modSlot y j hf
theorem holds_sendNft (s : State) (m : NftOut) : Holds d k s (sendNft s d m) := by
  unfold sendNft
  split
  · rfl
  · exact holds_modDie s fun _ => rfl
theorem holds_answerQueries (s : State) : Holds d k s (answerQueries s d) := by
  have hfold (l : List Query) (s : State) : Holds d k s (l.foldl (fun s q => sendNft s d (.grant q.pkg q.src q.id)) s) := by
    induction l generalizing s with
    | nil => rfl
    | cons q l ih => exact (holds_sendNft s _).trans (ih _)
  have hcoe (f : Coll → Coll) : Holds d k s (s.modCoe d f) := holds_modDie s fun _ => rfl
  exact (hcoe _).trans (hfold _ _)
theorem holds_requestsBack (s : State) (ks : List SlotId) (j : SlotId) (a : SlotAux) : Holds d k s (s.requestsBack d ks j a) := by
  have hfold (f : Agent → AgentSt → AgentSt) (l : List Agent) (s : State) : Holds d k s (l.foldl (fun s m => s.modAg d m (f m)) s) := by
    induction l generalizing s with
    | nil => rfl
    | cons m l ih => exact (holds_modAg s m _).trans (ih _)
  unfold State.requestsBack
  exact ((hfold _ _ s).trans (holds_modAg _ _ _)).trans (holds_modAg _ _ _)
theorem slotOwner_bound (y : Die) (dn : DieId) (j : SlotId) (asid : Half) : bound k (y.slotOwner dn j asid) = bound k y := by
  have hrec := bound_modSlot (k := k) y j (f := fun t => if t.recOwn == asid then t else { t with recOwn := asid, recs := [] }) fun t => by
    split <;> rfl
  unfold Die.slotOwner
  dsimp only
  generalize (y.modSlot j fun t => if t.recOwn == asid then t else { t with recOwn := asid, recs := [] }) = z at hrec ⊢
  split
  · exact hrec
  · refine Eq.trans (bound_modSlot _ j ?_) ?_
    · exact fun _ => rfl
    rw [pmPut_keeps (liveKeeps_bound k), pmPut_keeps (liveKeeps_bound k), hrec]

/-! ## The block's parts, in the order of the restore -/

variable {l : Launch} {b : Blk} {i x : Image} {a : SlotAux}
/-- Counters and status words change owner. -/
def putOwner (s : State) (d : DieId) (l : Launch) (k : SlotId) : State := s.modDie d fun y => (y.slotOwner d k l.asid).clearKstat [k]
/-- The slot as its region holds it. -/
def putSlot (s : State) (d : DieId) (l : Launch) (b : Blk) (k : SlotId) (i x : Image) (a : SlotAux) : State :=
  s.modSlot d k fun t => slotBack (t.lease ⟨l.id, b.l, 0⟩) [k] k ⟨l.id, b.l, 0⟩ x (slice (i.bytes 0x100) (64 * 0) 64) a
/-- A matrix entry at work, the lease order and the chain buffer. -/
def putArray (s : State) (d : DieId) (k : SlotId) (i x : Image) (a : SlotAux) : State :=
  let base := (s.die d).baseOf k
  let s := match regionRun k x (slice (i.bytes 0x100) (64 * 0) 64) a 3 with
    | some r => s.modSlot d base fun t => { t with mxe := some r }
    | none => s
  if base != k then s
  else
    let s := s.modSlot d k fun t => { t with mord := a.mord.filterMap fun n => [k][n]? }
    s.modDie d fun y => y.modLay k fun z => { z with
      buf := (List.range a.chain.length).filterMap fun n => (a.chain[n]?).map fun (c : Tag × Bool) =>
        (⟨c.1, x.bytes (0x110000 + 512 * n), c.2 || (x.piece (0x110000 + 512 * n)).2⟩ : ChainRow) }
/-- The strand's record once more, as the region holds its arrivals. -/
def arrivals (x : Image) (z : Blk) : Blk := z.modRec 0 fun r =>
  { r with arvS := BitVec.ofNat 32 (leNat (x.bytes 0x168)), arvC := BitVec.ofNat 32 (leNat (slice (x.bytes 0x16C) 0 4)), arvD := BitVec.ofNat 32 (leNat (slice (x.bytes 0x16C) 4 4)) }
/-- The block is back on its slot. -/
def backOn (k : SlotId) (x : Blk) : Blk := { x with
  slots := [k], st := if x.earl then .early else .running, halted := 0, flts := x.flts.filter fun e => e.2.2.kept != some 0 && e.2.2.r.rpl, aux := [], ctxs := [], lay := [], res := [] }
theorem putBlk_one (ha : b.aux = [a]) (hc : b.ctxs = []) (hf : b.flts = []) : putBlk s d l b [k] i [x] =
    answerQueries ((((putArray ((putSlot (putOwner s d l k) d l b k i x a).modDie d fun y => y.putRel [k] (layBack i 1) true) d k i x a).modSched d fun q => q.modBlk l.id b.l (arrivals x)).requestsBack d [k] k a).modSched d
      fun q => q.modBlk l.id b.l (backOn k)) d := by
  unfold putBlk
  simp only [ha, hc, hf, List.length_singleton, List.range_one, List.foldl_cons, List.foldl_nil, List.getElem?_cons_zero, List.length_nil, List.range_zero, List.filter_nil]
  rfl
theorem holds_putOwner (s : State) : Holds d k s (putOwner s d l k) := holds_modDie s fun y => slotOwner_bound y d k l.asid
theorem holds_putRel (s : State) (ls : List RelLay) : Holds d k s (s.modDie d fun y => y.putRel [k] ls true) := holds_modDie s fun y => putRel_keeps (F := bound k) (fun _ _ => rfl) y _ _ _
theorem holds_putArray (s : State) : Holds d k s (putArray s d k i x a) := by
  unfold putArray
  dsimp only
  have hrun : Holds d k s (match regionRun k x (slice (i.bytes 0x100) (64 * 0) 64) a 3 with
    | some r => s.modSlot d ((s.die d).baseOf k) fun t => { t with mxe := some r }
    | none => s) := by
    split
    · exact holds_modSlot s _ fun _ => rfl
    · rfl
  have hmord (u : State) (v : List SlotId) : Holds d k u (u.modSlot d k fun t => { t with mord := v }) := holds_modSlot u k fun _ => rfl
  have hlay (u : State) (f : Lay → Lay) : Holds d k u (u.modDie d fun y => y.modLay k f) := holds_modDie u fun _ => rfl
  split
  · exact hrun
  · exact (hrun.trans (hmord _ _)).trans (hlay _ _)
/-- A block changed twice. -/
theorem modBlk_modBlk (c : Sched) (lid n : Nat) (f : Blk → Blk) {g : Blk → Blk} (hg : ∀ z, (g z).l = z.l) : (c.modBlk lid n g).modBlk lid n f = c.modBlk lid n (f ∘ g) := by
  have hblks (z : Launch) : (z.modBlk n g).modBlk n f = z.modBlk n (f ∘ g) := by
    unfold Launch.modBlk
    dsimp only
    rw [List.map_map]
    refine congrArg (fun bs => { z with blks := bs }) (List.map_congr_left fun w _ => ?_)
    by_cases hw : w.l = n <;> simp [hw, hg]
  unfold Sched.modBlk Sched.modLaunch
  dsimp only
  rw [List.map_map]
  refine congrArg (fun ls => { c with launches := ls }) (List.map_congr_left fun z _ => ?_)
  have hid : (z.modBlk n g).id = z.id := rfl
  by_cases hz : z.id = lid <;> simp [hz, hid, hblks]
/-- The strand is on the slot, and its block is Running, or Early as it left. -/
theorem putBlk_bound (ha : b.aux = [a]) (hc : b.ctxs = []) (hf : b.flts = []) : ∃ f : Blk → Blk, (∀ z, (f z).l = z.l ∧ (f z).slots = [k] ∧ (f z).st = if z.earl then .early else .running) ∧
    bound k ((putBlk s d l b [k] i [x]).die d) = (some ⟨l.id, b.l, 0⟩, (tables (s.die d)).modBlk l.id b.l f) := by
  refine ⟨backOn k ∘ arrivals x, fun z => ⟨rfl, rfl, rfl⟩, ?_⟩
  have hslot : bound k ((putSlot (putOwner s d l k) d l b k i x a).die d) = (some ⟨l.id, b.l, 0⟩, tables (s.die d)) := by
    have ht : tables ((putOwner s d l k).die d) = tables (s.die d) := congrArg Prod.snd (holds_putOwner (d := d) (k := k) (l := l) s)
    unfold putSlot
    rw [State.modSlot, State.die_modDie_same, bound, Die.slot_modSlot_same]
    exact Prod.ext rfl ht
  have hbase := Eq.trans ((holds_putRel (d := d) (k := k) (putSlot (putOwner s d l k) d l b k i x a) (layBack i 1)).trans (holds_putArray (i := i) (x := x) (a := a) _)) hslot
  have hsched (u : State) (f : Blk → Blk) {o : Option Owner} {c : Sched} (hu : bound k (u.die d) = (o, c)) : bound k ((u.modSched d fun q => q.modBlk l.id b.l f).die d) = (o, c.modBlk l.id b.l f) := by
    have ho : ((u.die d).slot k).ctl.own = o := congrArg Prod.fst hu
    have hc : tables (u.die d) = c := congrArg Prod.snd hu
    rw [modSched_die, ← ho, ← hc]
    rfl
  rw [putBlk_one ha hc hf, ← modBlk_modBlk (tables (s.die d)) l.id b.l (backOn k) (g := arrivals x) fun _ => rfl]
  refine Eq.trans (holds_answerQueries _) ?_
  refine hsched _ _ ?_
  refine Eq.trans (holds_requestsBack _ _ _ _) ?_
  exact hsched _ _ hbase

/-- The tables at a swap-in: a slice begins, and the team leaves its swap queue. -/
def swapSched (l : Launch) (c : Cand) (team : Team) (q : Sched) : Sched :=
  let q := (q.beginSlice l.cls).newHead l.cls l.pid 1
  { q with teams := team :: q.teams.filter (fun z => !(z.lid == l.id && z.t == c.t)), sq := q.sq.filter (· != (l.id, c.t)), rr := vset q.rr l.cls l.pid }
theorem swapSched_tables (c : Cand) (team : Team) (y : Die) : tables { y with sched := swapSched l c team y.sched } = swapSched l c team (tables y) := rfl
/-- Every block has been read, and every window: the swap is journalled, the windows come back, and the team is resident. -/
def swapStart (s : State) (d : DieId) (l : Launch) (c : Cand) (team : Team) (y : Die) (ws : List (Nat × Image)) : State :=
  (((s.modDie d fun z => { y with sched := z.sched }).modDie d fun y => y.jOpen d 3 0 0 (l.saveAt (c.t * l.teamsz))).modDie d fun y => ws.foldl (fun y w => w.2.foldl (fun y x => y.poke (w.1 + x.1) x.2.1 x.2.2) y) y).modSched d (swapSched l c team)
/-- The blocks are placed again. -/
def swapPut (s : State) (d : DieId) (l : Launch) (p : Machine.Place) (gs : List (Blk × List SlotId × Image × List Image)) : State :=
  (gs.foldl (fun s g => putBlk s d l g.1 g.2.1 g.2.2.1 g.2.2.2) s).modDie d fun y => ((y.traceTeam d l p.slots.flatten false).afterGive d).jDoneLast d
/-- What reading blocks by `f` gives. -/
def readAll (f : State → DieId → Launch → Blk → List SlotId → Except State (State × Image × List Image)) (s : State) (d : DieId) (l : Launch) (xs : List (Blk × List SlotId)) : Except State (State × List (Blk × List SlotId × Image × List Image)) :=
  xs.foldl (fun acc x => acc.bind fun (s, l') => match f s d l x.1 x.2 with
    | .error s => .error s
    | .ok (s, i, xs) => .ok (s, l' ++ [(x.1, x.2, i, xs)])) (.ok (s, []))
theorem readAll_one {f : State → DieId → Launch → Blk → List SlotId → Except State (State × Image × List Image)} {ks : List SlotId} {s1 : State} {xs : List Image} (h : f s d l b ks = .ok (s1, i, xs)) : readAll f s d l [(b, ks)] = .ok (s1, [(b, ks, i, xs)]) := by
  simp only [readAll, List.foldl_cons, List.foldl_nil, Except.bind, h, List.nil_append]
/-- The windows are read, and the team placed. -/
def swapRest (s : State) (d : DieId) (c : Cand) (p : Machine.Place) (l : Launch) (team : Team) (gs : List (Blk × List SlotId × Image × List Image)) : XRes (List (Nat × Image)) → State
  | .wait _ => s
  | .fault y _ x => match l.blks.filter fun b => c.blks.contains b.l with
    | b :: _ => holdPlace (restoreFault (s.modDie d fun _ => y) d l b ((p.slots.getD 0 []).getD 0 0) 29 x) d l c p team
    | [] => s
  | .ok y ws => swapPut (swapStart s d l c team y ws) d l p gs
/-- A team of a known launch. -/
def swapKnown (s : State) (d : DieId) (c : Cand) (p : Machine.Place) (l : Launch) (team : Team) : State :=
  match readAll readBlk s d l ((l.blks.filter fun b => c.blks.contains b.l).zip p.slots) with
  | .error u => holdPlace u d l c p team
  | .ok (u, gs) => swapRest u d c p l team gs (readWindows d l (teamWindows l team) (u.die d))
theorem swapIn_eq (s : State) (d : DieId) (c : Cand) (p : Machine.Place) : swapIn s d c p = match (s.die d).sched.launch c.lid with
    | none => s
    | some l => swapKnown s d c p l ⟨l.id, c.t, p.cluster, l.wide, p.base0, p.base1, s.tick d, false, false, none, []⟩ := rfl
theorem swapStart_tables (s : State) (c : Cand) (team : Team) : tables ((swapStart s d l c team (s.die d) []).die d) = swapSched l c team (tables (s.die d)) := by
  rw [swapStart, modSched_die, swapSched_tables, State.die_modDie_same, List.foldl_nil, State.die_modDie_same, jOpen_tables, State.die_modDie_same]
theorem swapIn_one {c : Cand} {p : Machine.Place} {s1 : State} (hl : (s.die d).sched.launch c.lid = some l) (hz : l.zw = 0) (hc : c.blks = [b.l]) (hb : l.blks.filter (fun z => z.l == b.l) = [b]) (hp : p.slots = [[k]])
    (hr : readBlk s d l b [k] = .ok (s1, i, [x])) : ∃ team : Team, swapIn s d c p = swapPut (swapStart s1 d l c team (s1.die d) []) d l p [(b, [k], i, [x])] := by
  refine ⟨⟨l.id, c.t, p.cluster, l.wide, p.base0, p.base1, s.tick d, false, false, none, []⟩, ?_⟩
  have hread := readAll_one (f := readBlk) hr
  have hbs : (l.blks.filter fun b => c.blks.contains b.l).zip p.slots = [(b, [k])] := by
    rw [hc, only_block hb, hp]
    rfl
  rw [swapIn_eq, hl]
  change swapKnown s d c p l _ = _
  rw [swapKnown, hbs, hread]
  change swapRest s1 d c p l _ _ _ = _
  rw [teamWindows, if_pos hz]
  rfl
theorem swapIn_ends {c : Cand} {p : Machine.Place} {s1 : State} (hl : (s.die d).sched.launch c.lid = some l) (hz : l.zw = 0) (hc : c.blks = [b.l]) (hb : l.blks.filter (fun z => z.l == b.l) = [b]) (hp : p.slots = [[k]])
    (hr : readBlk s d l b [k] = .ok (s1, i, [x])) (hctx : b.ctxs = []) (hflt : b.flts = []) (hs1 : (s1.die d).sched = (s.die d).sched) (ha : b.aux = [a]) :
    ((swapIn s d c p).ctl d k).own = some ⟨l.id, b.l, 0⟩ ∧ (c.lid, c.t) ∉ ((swapIn s d c p).die d).sched.sq ∧
      ∃ l' b', ((swapIn s d c p).die d).sched.launch l.id = some l' ∧ l'.blk b.l = some b' ∧ b'.slots = [k] ∧ b'.st = (if b.earl then .early else .running) := by
  obtain ⟨team, hx⟩ := swapIn_one hl hz hc hb hp hr
  have hu := swapStart_tables (d := d) (l := l) s1 c team
  obtain ⟨f, hf, hbound⟩ := putBlk_bound (s := swapStart s1 d l c team (s1.die d) []) (d := d) (k := k) (l := l) (i := i) (x := x) ha hctx hflt
  have hlid : l.id = c.lid := by
    have := List.find?_some hl
    exact eq_of_beq this
  have hown : bound k ((swapIn s d c p).die d) = (some ⟨l.id, b.l, 0⟩, (swapSched l c team (tables (s.die d))).modBlk l.id b.l f) := by
    rw [hx, swapPut, List.foldl_cons, List.foldl_nil, State.die_modDie_same, jDoneLast_keeps (liveKeeps_bound k), endPlace_keeps (liveKeeps_bound k), hbound, hu, tables_sched hs1]
  have htab : tables ((swapIn s d c p).die d) = (swapSched l c team (tables (s.die d))).modBlk l.id b.l f := congrArg Prod.snd hown
  have hblk : l.blk b.l = some b := by
    rw [Launch.blk, ← List.head?_filter, hb]
    rfl
  obtain ⟨hfl, hfs, hfst⟩ := hf b
  have hl' : (swapSched l c team (tables (s.die d))).launch l.id = some l := hlid ▸ hl
  refine ⟨congrArg Prod.fst hown, ?_, l.modBlk b.l f, f b, ?_, ?_, hfs, hfst⟩
  · have hq : ((swapIn s d c p).die d).sched.sq = (s.die d).sched.sq.filter (· != (l.id, c.t)) := congrArg Sched.sq htab
    rw [hq, ← hlid]
    simp
  · have hlaunch := congrArg (fun q : Sched => q.launch l.id) htab
    refine hlaunch.trans ?_
    rw [launch_modBlk, hl']
    rfl
  · rw [blk_modBlk _ _ _ (fun z => (hf z).1), hblk]
    rfl
end Put

/-- Settles O43: leases and swap-ins place the team that is due, and slots go back once nothing of their block is under way. -/
theorem leasesAndReturns : Obligations.LeasesAndReturns := by
  refine ⟨⟨?_, ?_, ?_⟩, fun y ks => giveBack_idle ks y, ?_⟩
  · intro s d hon f
    refine ⟨fun hf => ⟨congrArg Host.Outcome.next (grant_none hon hf false), congrArg Host.Outcome.next (grant_none hon hf true)⟩, fun c p hf => ⟨fun hc => ⟨?_, ?_⟩, fun hc => ⟨?_, ?_⟩⟩⟩
    · refine congrArg Host.Outcome.next ((grant_own hon hf hc).trans ?_)
      rw [placeTeam, hc]
      rfl
    · exact congrArg Host.Outcome.next (grant_other hon hf hc)
    · refine congrArg Host.Outcome.next ((grant_own hon hf hc).trans ?_)
      rw [placeTeam, hc]
      rfl
    · exact congrArg Host.Outcome.next (grant_other hon hf hc)
  · intro s d c p l b ks hl hc hb hp hn hlay t
    exact leaseTeam_ends hl hc hb hp hn hlay
  · intro s d c p l b k i x s1 hl hz hc hb hp hr hctx hflt hs1 a ha t
    exact swapIn_ends hl hz hc hb hp hr hctx hflt hs1 ha
  · intro s d l b hbl hl hb hsl hleave hh n y g
    exact ⟨fun hnd hsusp hk hidle => giveUp_goes hbl hl hb hsl hleave hh hnd hsusp hk hidle, fun hk => giveUp_keeps hbl hl hb hk,
      fun hdone he hidle => ⟨fun hon hg hroom => retire_goes hbl hl hb hsl hleave hh hdone he hidle hon hg hroom, fun hoff hfull => retire_full hbl hl hb hh hoff hfull⟩, fun hnd => retire_undone hbl hl hb hh hnd⟩

end Sys2Proof.Proofs
end

section
/-! SUPPORT. A strand is picked up (O44). -/

namespace Sys2Proof.Proofs

open Sys2Proof Sys2Proof.Machine Sys2Proof.Laws

section PickUp
variable {s : State} {d : DieId} {k : SlotId} {o : Owner} {l : Launch} {b : Blk}

theorem procLoad_slot (d : DieId) (y : Die) (asid : Half) (va n : Nat) (k : SlotId) : withoutTlb ((procLoad d y asid va n).2.slot k) = withoutTlb (y.slot k) := by
  have e := accessAll_keeps (transKeeps_slot k (withoutTlb (y.slot k))) d ⟨.coll, asid, none, none⟩ ⟨[0], true, false⟩ (cutLines va n) { y with gate := { y.gate with g := y.gate.v } } rfl
  unfold procLoad accessRow
  dsimp only
  generalize accessAll d ⟨.coll, asid, none, none⟩ ⟨[0], true, false⟩ (cutLines va n) { y with gate := { y.gate with g := y.gate.v } } = q at e
  cases q <;> exact e
/-- What a change of owner of a slot's counters leaves of the slot. -/
theorem slotOwner_slot {α : Type} {G : Slot → α} (hr : ∀ t a r, G { t with recOwn := a, recs := r } = G t) (hp : ∀ t a c e, G { t with pmOwn := a, pmc := c, pmsel := e } = G t) (y : Die) (d : DieId) (k : SlotId) (asid : Half) :
    G ((y.slotOwner d k asid).slot k) = G (y.slot k) := by
  have hrec : G ((y.modSlot k fun t => if t.recOwn == asid then t else { t with recOwn := asid, recs := [] }).slot k) = G (y.slot k) := by
    rw [Die.slot_modSlot_same]
    split
    · rfl
    · exact hr _ _ _
  have hput (z : Die) (a : Nat) (bs : List Byte) : G ((z.pmPut a bs).slot k) = G (z.slot k) := pmPut_keeps (F := fun y => G (y.slot k)) ⟨⟨fun _ _ _ _ => rfl, fun _ _ _ => rfl, fun _ _ => rfl⟩, fun _ _ => rfl⟩ z a bs
  unfold Die.slotOwner
  dsimp only
  generalize (y.modSlot k fun t => if t.recOwn == asid then t else { t with recOwn := asid, recs := [] }) = z at hrec ⊢
  split
  · exact hrec
  · rw [Die.slot_modSlot_same, hp, hput, hput, hrec]

/-- What keeps a strand where it is: its slot, its block's fragment, its wait, the gate, an owed arrival, or a pin on its record. -/
def staysOut (y : Die) (d : DieId) (k : SlotId) (o : Owner) (l : Launch) (b : Blk) : Bool :=
  let t := y.slot k
  !(t.ctl.act == .idle || t.ctl.act == .suspended) || vget t.stop 0 || t.heldBy 0 || !b.keeps || !y.strandMet d l b o.sidx (some k) || !y.gateOk d || t.ctl.due.isSome
    || (y.held.any fun h => h.op.lines.any (procLines d y l.asid (l.recAt b.l o.sidx) 64).contains)
/-- The strand comes from a wait. -/
def fromWait (b : Blk) (o : Owner) (v : RecVal) : Bool := (b.recs[o.sidx]?).any fun r => r.susp.isSome && v.kind != 0
theorem fromWait_iff {v : RecVal} : fromWait b o v = true ↔ (∃ r, b.recs[o.sidx]? = some r ∧ r.susp.isSome = true) ∧ v.kind ≠ 0 := by
  unfold fromWait
  cases b.recs[o.sidx]? with
  | none => simp
  | some r => simp
/-- The strand on its slot, with its record's values. -/
def pickedUp (s : State) (d : DieId) (k : SlotId) (o : Owner) (l : Launch) (b : Blk) (v : RecVal) (y : Die) : State :=
  ((s.modDie d fun _ => (y.slotOwner d k l.asid).dropCode k).modSlot d k fun t => t.pickUp l b.l o.sidx v).modSched d fun q => q.modBlk l.id b.l fun x =>
    let x := x.modRec o.sidx fun r => { r with fresh := false, susp := none, on := true }
    { x with st := if x.st == .leased && x.recs.all (fun r => r.on || r.done || r.susp.isSome) then .running else x.st }
theorem pickUp_stays (ho : (s.ctl d k).own = some o) (hl : (s.die d).ownLaunch k = some l) (hb : (s.die d).ownBlk k = some b) (h : staysOut (s.die d) d k o l b = true) : execPickUp d k s = .next s := by
  have ho' : ((s.die d).slot k).ctl.own = some o := ho
  unfold staysOut at h
  unfold execPickUp
  dsimp only
  rw [ho', hl, hb]
  exact if_pos h
theorem pickUp_goes {bs : List Byte} {y : Die} (ho : (s.ctl d k).own = some o) (hl : (s.die d).ownLaunch k = some l) (hb : (s.die d).ownBlk k = some b) (h : staysOut (s.die d) d k o l b = false)
    (hload : procLoad d (s.die d) l.asid (l.recAt b.l o.sidx) 64 = (some bs, y)) : execPickUp d k s =
      if fromWait b o (recOf bs) && !acqFree y d k then .next (s.modDie d fun _ => y)
      else .next (if fromWait b o (recOf bs) && y.nodeFailed l (recOf bs) then takeFault (pickedUp s d k o l b (recOf bs) y) d k 0 ⟨11, (recOf bs).pc, 0, 0, ((pickedUp s d k o l b (recOf bs) y).ctl d k).ccnt, 3, 0⟩
        else pickedUp s d k o l b (recOf bs) y) := by
  have ho' : ((s.die d).slot k).ctl.own = some o := ho
  unfold staysOut at h
  unfold execPickUp
  dsimp only
  rw [ho', hl, hb]
  dsimp only
  rw [if_neg (by rw [h]; decide), hload]
  rfl
theorem pickedUp_slot (v : RecVal) (y : Die) : (pickedUp s d k o l b v y).slot d k = ((y.slotOwner d k l.asid).slot k).pickUp l b.l o.sidx v := by
  unfold pickedUp
  rw [modSched_slot, State.slot_modSlot_same, State.slot, State.die_modDie_same]
  rfl
theorem fresh_row (r : Nat) : (Tile.fresh.row r).data = List.replicate 512 0 := by
  have hz (n a : Nat) : spRead (0 : Byte) [] a n = List.replicate n 0 := by
    induction n generalizing a with
    | zero => rfl
    | succ n ih => exact congrArg (0 :: ·) (ih (a + 1))
  exact hz 512 _
theorem fresh_full {r : Nat} (h : r < 64) : Tile.fresh.isFull r = true := by
  have hall : (BitVec.allOnes 64).getLsbD r = true := by
    rw [BitVec.getLsbD_allOnes]
    exact decide_eq_true h
  exact hall

section Values
variable {t : Slot} {v : RecVal} {n i : Nat}
theorem pickUp_get (r : BitVec 5) : (t.pickUp l n i v).ctl.regs.get r = if r = 1 then v.live0 else if r = 2 then v.live1 else 0 := by
  have hx : vget (t.pickUp l n i v).ctl.regs.x (ridx r) = (⟨if (ridx r).val = 1 then v.live0 else if (ridx r).val = 2 then v.live1 else 0, none⟩ : SReg) := Vector.getElem_ofFn (ridx r).isLt
  have h1 : (ridx r).val = 1 ↔ r = 1 := ⟨fun h => BitVec.eq_of_toNat_eq h, fun h => congrArg BitVec.toNat h⟩
  have h2 : (ridx r).val = 2 ↔ r = 2 := ⟨fun h => BitVec.eq_of_toNat_eq h, fun h => congrArg BitVec.toNat h⟩
  rw [Regs.get, hx]
  dsimp only
  split
  · next h0 =>
    subst h0
    rfl
  · exact if_congr h1 rfl (if_congr h2 rfl rfl)
theorem pickUp_full (r : BitVec 5) : (t.pickUp l n i v).ctl.regs.isFull r = true := by
  have hx : (vget (t.pickUp l n i v).ctl.regs.x (ridx r)).wait = none := by
    have := congrArg SReg.wait (Vector.getElem_ofFn (f := fun r : Fin 32 => (⟨if r.val = 1 then v.live0 else if r.val = 2 then v.live1 else 0, none⟩ : SReg)) (ridx r).isLt)
    exact this
  rw [Regs.isFull, hx]
  simp
theorem pickUp_pred (q : Fin 8) : vget (t.pickUp l n i v).ctl.regs.p q = (q.val == 0 || v.pred.getLsbD (q.val - 1)) := Vector.getElem_ofFn q.isLt
theorem pickUp_tile (j : Fin 16) : vget (t.pickUp l n i v).tiles j = Tile.fresh := vget_replicate _ j
end Values
end PickUp

/-- Settles O44: a strand that may go on takes its record's values and nothing else of its slot is lost; each thing that keeps it out leaves the state. -/
theorem pickUpLoadsTheRecord : Obligations.PickUpLoadsTheRecord := by
  intro s d k o l b ho hl hb
  refine ⟨fun hm => pickUp_stays ho hl hb ?_, ?_⟩
  · simp [staysOut, hm]
  intro hact hstop hheld hdue hkeep hm hgate pinned
  have hstay : staysOut (s.die d) d k o l b = pinned := by
    have hact' : (((s.die d).slot k).ctl.act == .idle || ((s.die d).slot k).ctl.act == .suspended) = true := by
      rw [Bool.or_eq_true, beq_iff_eq, beq_iff_eq]
      exact hact
    have hstop' : vget ((s.die d).slot k).stop 0 = false := hstop
    have hheld' : ((s.die d).slot k).heldBy 0 = false := hheld
    have hdue' : ((s.die d).slot k).ctl.due = none := hdue
    rw [staysOut, hact', hstop', hheld', hkeep, hm, hgate, hdue']
    rfl
  refine ⟨fun hp => pickUp_stays ho hl hb (hstay.trans hp), ?_⟩
  intro hp bs y hload waited
  have hgo := pickUp_goes ho hl hb (hstay.trans hp) hload
  have hy : withoutTlb (y.slot k) = withoutTlb (s.slot d k) := by
    have := procLoad_slot d (s.die d) l.asid (l.recAt b.l o.sidx) 64 k
    rw [hload] at this
    exact this
  have hslot := pickedUp_slot (s := s) (d := d) (k := k) (o := o) (l := l) (b := b) (recOf bs) y
  refine ⟨fun hw hf => hgo.trans ?_, fun hw hf hn _ => ?_, fun hw => ⟨pickedUp s d k o l b (recOf bs) y, hgo.trans ?_, ?_⟩⟩
  · rw [fromWait_iff.2 hw, hf]
    rfl
  · have hx : execPickUp d k s = .next (takeFault (pickedUp s d k o l b (recOf bs) y) d k 0 ⟨11, (recOf bs).pc, 0, 0, ((pickedUp s d k o l b (recOf bs) y).ctl d k).ccnt, 3, 0⟩) := by
      rw [hgo, fromWait_iff.2 hw, hf, hn]
      rfl
    have hfree : ((pickedUp s d k o l b (recOf bs) y).slot d k).heldBy 0 = false := by
      rw [hslot]
      have hown : ((y.slotOwner d k l.asid).slot k).flt = (y.slot k).flt := slotOwner_slot (G := Slot.flt) (fun _ _ _ => rfl) (fun _ _ _ _ => rfl) y d k l.asid
      have hflt : (y.slot k).flt = (s.slot d k).flt := by
        have hall := congrArg Slot.flt hy
        exact hall
      have : ((((y.slotOwner d k l.asid).slot k).pickUp l b.l o.sidx (recOf bs)).heldBy 0) = (s.slot d k).heldBy 0 := by
        change (vget ((y.slotOwner d k l.asid).slot k).flt (agNum 0)).isSome = (vget (s.slot d k).flt (agNum 0)).isSome
        rw [hown, hflt]
      exact this.trans hheld
    have hf := takeFault_held (f := ⟨11, (recOf bs).pc, 0, 0, ((pickedUp s d k o l b (recOf bs) y).ctl d k).ccnt, 3, 0⟩) hfree
    change HeldFault (execPickUp d k s) d k 0 11 0 3
    rw [hx]
    exact hf
  · by_cases hfw : fromWait b o (recOf bs) = true
    · obtain ⟨hfree, hnf⟩ := hw (fromWait_iff.1 hfw)
      rw [hfw, hfree, hnf]
      rfl
    · rw [Bool.not_eq_true] at hfw
      rw [hfw]
      rfl
  · intro v x z
    have hx : x = ((y.slotOwner d k l.asid).slot k).pickUp l b.l o.sidx v := hslot
    have keep {α : Type} {G : Slot → α} (hr : ∀ t a r, G { t with recOwn := a, recs := r } = G t) (hp : ∀ t a c e, G { t with pmOwn := a, pmc := c, pmsel := e } = G t) : G ((y.slotOwner d k l.asid).slot k) = G z := slotOwner_slot hr hp y d k l.asid
    rw [hx]
    exact ⟨rfl, rfl, rfl, keep (G := fun t => t.ctl.own) (fun _ _ _ => rfl) (fun _ _ _ _ => rfl), rfl, pickUp_get, pickUp_full, pickUp_pred, rfl, rfl, rfl, rfl,
      fun j => (pickUp_tile j).symm ▸ ⟨rfl, fun r hr => ⟨fresh_full hr, fresh_row r⟩⟩, fun i => ⟨vget_replicate 0 i, vget_replicate _ i⟩, fun i => vget_replicate [] i,
      keep (G := Slot.sems) (fun _ _ _ => rfl) (fun _ _ _ _ => rfl), keep (G := Slot.q) (fun _ _ _ => rfl) (fun _ _ _ _ => rfl), keep (G := Slot.bank) (fun _ _ _ => rfl) (fun _ _ _ _ => rfl),
      keep (G := Slot.pseq) (fun _ _ _ => rfl) (fun _ _ _ _ => rfl), keep (G := Slot.cseq) (fun _ _ _ => rfl) (fun _ _ _ _ => rfl)⟩

end Sys2Proof.Proofs
end

section
/-! SUPPORT. Slices that end, and teams that are asked to stop (O45). -/

namespace Sys2Proof.Proofs

open Sys2Proof Sys2Proof.Machine Sys2Proof.Laws

section Slices
variable {s : State} {d : DieId} {x : Team} {l : Launch}

/-! ## Slots asked to stop (R320) -/

theorem askStop_stop (t : Slot) : vget t.askStop.stop 0 = true := by
  unfold Slot.askStop
  dsimp only
  split
  · exact vget_vset_same _ _ _
  · exact vget_replicate true 0
theorem askStop_all (t : Slot) (h : t.owes = false) (i : Fin 7) : vget t.askStop.stop i = true := by
  have hd : t.discard.owes = false := h
  unfold Slot.askStop
  dsimp only
  rw [hd]
  exact vget_replicate true i
theorem askStop_act (t : Slot) : t.askStop.ctl.opn = none ∧ t.askStop.ctl.act ≠ .running := by
  refine ⟨rfl, ?_⟩
  change (if t.discard.ctl.act == .running then Act.stopped else t.discard.ctl.act) ≠ .running
  split
  · decide
  · next h => exact fun e => h (beq_iff_eq.2 e)
/-- Each slot of a team is asked once. -/
theorem askSlots_slot (ks : List SlotId) (s : State) (k : SlotId) : (askSlots d s ks).slot d k = if k ∈ ks ∧ vget (s.slot d k).stop 0 = false then (s.slot d k).askStop else s.slot d k := by
  induction ks generalizing s with
  | nil => simp [askSlots]
  | cons j ks ih =>
    have hcons : askSlots d s (j :: ks) = askSlots d (if vget (s.slot d j).stop 0 then s else s.modSlot d j Slot.askStop) ks := rfl
    rw [hcons]
    cases hj : vget (s.slot d j).stop 0 with
    | true =>
      rw [if_pos rfl, ih]
      refine if_congr ⟨fun ⟨hk, hs⟩ => ⟨List.mem_cons_of_mem _ hk, hs⟩, fun ⟨hk, hs⟩ => ⟨?_, hs⟩⟩ rfl rfl
      exact (List.mem_cons.1 hk).resolve_left fun e => absurd (hj.symm.trans (e ▸ hs)) (by decide)
    | false =>
      rw [if_neg (by decide), ih]
      by_cases hk : j = k
      · subst hk
        rw [State.slot_modSlot_same, askStop_stop, if_neg (by simp), if_pos ⟨List.mem_cons_self, hj⟩]
      · rw [State.slot_modSlot_ne _ _ hk]
        exact if_congr (and_congr_left fun _ => ⟨List.mem_cons_of_mem _, fun h => (List.mem_cons.1 h).resolve_left (Ne.symm hk)⟩) rfl rfl
theorem leaveStart_slot {lid t a : Nat} {barred : Bool} (k : SlotId) : (leaveStart s d lid t barred a).slot d k = s.slot d k := by
  have h : ((leaveStart s d lid t barred a).die d).slots = (s.die d).slots := by
    rw [leaveStart, State.die_modDie_same, jOpen_slots, modSched_die]
  exact slot_of_slots h k

/-! ## A team that leaves -/

theorem leaveTeam_slot {lid t : Nat} {barred : Bool} (hx : (s.die d).sched.team lid t = some x) (hl : (s.die d).sched.launch lid = some l) (h : x.leaving = false) (hon : (s.die d).schedOn d = true) (k : SlotId) :
    (leaveTeam s d lid t barred).slot d k = if k ∈ l.teamSlots t ∧ vget (s.slot d k).stop 0 = false then (s.slot d k).askStop else s.slot d k := by
  rw [leaveTeam_goes hx hl h hon, askSlots_slot, leaveStart_slot]
theorem leaveTeam_leaves {lid t : Nat} {barred : Bool} (hx : (s.die d).sched.team lid t = some x) (hl : (s.die d).sched.launch lid = some l) (hon : (s.die d).schedOn d = true) :
    ∃ z, ((leaveTeam s d lid t barred).die d).sched.team lid t = some z ∧ z.leaving = true := by
  obtain ⟨-, -, g, hg, ht, hlv⟩ := leaveTeam_spec s d lid t barred
  refine ⟨g x, ?_, hlv x l hx hl hon⟩
  rw [Sched.team, ht, team_map hg]
  exact congrArg (Option.map g) hx
theorem leaveTeam_asks {lid t : Nat} {barred : Bool} (hx : (s.die d).sched.team lid t = some x) (hl : (s.die d).sched.launch lid = some l) (h : x.leaving = false) (hon : (s.die d).schedOn d = true) {k : SlotId} (hk : k ∈ l.teamSlots t) :
    vget ((leaveTeam s d lid t barred).slot d k).stop 0 = true ∧ (vget (s.slot d k).stop 0 = false → ((leaveTeam s d lid t barred).slot d k).ctl.opn = none ∧ ((leaveTeam s d lid t barred).ctl d k).act ≠ .running ∧
      ((s.slot d k).owes = false → ∀ i, vget ((leaveTeam s d lid t barred).slot d k).stop i = true)) := by
  rw [State.ctl, leaveTeam_slot hx hl h hon k]
  cases hs : vget (s.slot d k).stop 0 with
  | true =>
    rw [if_neg (by simp)]
    exact ⟨hs, fun e => absurd e (by decide)⟩
  | false =>
    rw [if_pos ⟨hk, rfl⟩]
    exact ⟨askStop_stop _, fun _ => ⟨(askStop_act _).1, (askStop_act _).2, askStop_all _⟩⟩

/-! ## The end of a slice (R319) -/

/-- The end of a slice, for a team that is resident and does not leave. -/
theorem sliceEnd_eq (ht : x.t < 2 ^ 32) (hx : (s.die d).sched.team x.lid x.t = some x) (hl : (s.die d).sched.launch x.lid = some l) (hon : (s.die d).schedOn d = true) (hlv : x.leaving = false) (hres : (s.die d).resident x = true) :
    execSliceEnd d (2 ^ 32 * x.lid + x.t) s =
      if (s.die d).mustLeave d x then .next (leaveTeam s d x.lid x.t x.barred)
      else if (s.die d).teamEarly x && (s.die d).makesWay d x then .next (leaveTeam s d x.lid x.t false)
      else if !decide ((s.die d).rf d rQUANT 0 32 ≤ ((s.die d).tick d - x.since).toNat) then .next s
      else if (s.die d).outSliced d x then .next (leaveTeam s d x.lid x.t false)
      else .next (s.modSched d fun q => (q.beginSlice l.cls).modTeam x.lid x.t fun z => { z with since := (s.die d).tick d }) := by
  unfold execSliceEnd
  dsimp only
  rw [pairOf_mk ht]
  dsimp only
  rw [hx, hl]
  dsimp only
  rw [hon, hlv, hres]
  rfl
theorem teamEarly_false (hl : (s.die d).sched.launch x.lid = some l) (he : ∀ b ∈ l.teamBlks x.t, b.earl = false) : (s.die d).teamEarly x = false := by
  unfold Die.teamEarly
  rw [hl]
  exact List.any_eq_false.2 fun b hb => by rw [he b hb]; decide
theorem sliceEnd_stays (ht : x.t < 2 ^ 32) (hx : (s.die d).sched.team x.lid x.t = some x) (hl : (s.die d).sched.launch x.lid = some l) (hon : (s.die d).schedOn d = true) (hlv : x.leaving = false) (hres : (s.die d).resident x = true) (he : (s.die d).teamEarly x = false)
    (hm : (s.die d).mustLeave d x = false) (hend : ¬ (s.die d).rf d rQUANT 0 32 ≤ ((s.die d).tick d - x.since).toNat) : execSliceEnd d (2 ^ 32 * x.lid + x.t) s = .next s := by
  rw [sliceEnd_eq ht hx hl hon hlv hres, hm, he, decide_eq_false hend]
  rfl
theorem sliceEnd_again (ht : x.t < 2 ^ 32) (hx : (s.die d).sched.team x.lid x.t = some x) (hl : (s.die d).sched.launch x.lid = some l) (hon : (s.die d).schedOn d = true) (hlv : x.leaving = false) (hres : (s.die d).resident x = true) (he : (s.die d).teamEarly x = false)
    (hm : (s.die d).mustLeave d x = false) (hend : (s.die d).rf d rQUANT 0 32 ≤ ((s.die d).tick d - x.since).toNat) (hout : (s.die d).outSliced d x = false) :
    execSliceEnd d (2 ^ 32 * x.lid + x.t) s = .next (s.modSched d fun q => (q.beginSlice l.cls).modTeam x.lid x.t fun z => { z with since := (s.die d).tick d }) := by
  rw [sliceEnd_eq ht hx hl hon hlv hres, hm, he, decide_eq_true hend, hout]
  rfl
theorem sliceEnd_leaves (ht : x.t < 2 ^ 32) (hx : (s.die d).sched.team x.lid x.t = some x) (hl : (s.die d).sched.launch x.lid = some l) (hon : (s.die d).schedOn d = true) (hlv : x.leaving = false) (hres : (s.die d).resident x = true)
    (h : ((s.die d).rf d rQUANT 0 32 ≤ ((s.die d).tick d - x.since).toNat ∧ (s.die d).outSliced d x = true) ∨ (s.die d).mustLeave d x = true ∨ (s.die d).teamEarly x = true ∧ (s.die d).makesWay d x = true) :
    ∃ barred, execSliceEnd d (2 ^ 32 * x.lid + x.t) s = .next (leaveTeam s d x.lid x.t barred) := by
  rw [sliceEnd_eq ht hx hl hon hlv hres]
  by_cases hm : (s.die d).mustLeave d x = true
  · exact ⟨_, if_pos hm⟩
  rw [if_neg hm]
  by_cases hw : ((s.die d).teamEarly x && (s.die d).makesWay d x) = true
  · exact ⟨_, if_pos hw⟩
  rw [if_neg hw]
  rcases h with ⟨hend, hout⟩ | hm' | ⟨he, hmw⟩
  · rw [decide_eq_true hend, hout]
    exact ⟨_, rfl⟩
  · exact absurd hm' hm
  · rw [he, hmw] at hw
    exact absurd rfl hw
end Slices

end Sys2Proof.Proofs
end

section
/-! SUPPORT. A class-0 team that finds no placement clears one (O45). -/

namespace Sys2Proof.Proofs

open Sys2Proof Sys2Proof.Machine Sys2Proof.Laws

/-! ## Teams that leave by number -/

section Pairs
variable {s : State} {d : DieId}

/-- What a team that begins to leave changes of the teams: those of its number alone. -/
theorem leaveTeam_teams (s : State) (d : DieId) (lid t : Nat) (barred : Bool) : ∃ f, KeepsTeam f ∧ ((leaveTeam s d lid t barred).die d).sched.teams = (s.die d).sched.teams.map (fun z => if z.lid == lid && z.t == t then f z else z) ∧
    ∀ x l, (s.die d).sched.team lid t = some x → (s.die d).sched.launch lid = some l → (s.die d).schedOn d = true → (f x).leaving = true := by
  have hid (l : List Team) : l.map (fun z => if z.lid == lid && z.t == t then z else z) = l := by simp
  cases hx : (s.die d).sched.team lid t with
  | none =>
    rw [leaveTeam_absent (.inl hx)]
    exact ⟨id, fun _ => ⟨rfl, rfl, id⟩, (hid _).symm, fun x l h => absurd h (by simp)⟩
  | some x =>
  cases hl : (s.die d).sched.launch lid with
  | none =>
    rw [leaveTeam_absent (.inr hl)]
    exact ⟨id, fun _ => ⟨rfl, rfl, id⟩, (hid _).symm, fun x l _ h => absurd h (by simp)⟩
  | some l =>
  cases hc : (x.leaving || !(s.die d).schedOn d) with
  | true =>
    rw [leaveTeam_stays hx hl hc, modSched_die]
    refine ⟨_, keepsTeam_barred (barred := barred), rfl, fun z _ hz _ hon => ?_⟩
    obtain rfl := Option.some.inj hz
    rwa [hon, Bool.not_true, Bool.or_false] at hc
  | false =>
    obtain ⟨hlv, hon⟩ := Bool.or_eq_false_iff.1 hc
    rw [leaveTeam_goes hx hl hlv ((Bool.not_eq_false' _).mp hon)]
    exact ⟨_, keepsTeam_leaving (barred := barred), (askSlots_die (F := fun y => y.sched.teams) (fun _ _ => rfl) _ _).trans leaveStart_teams, fun _ _ _ _ _ => rfl⟩
/-- Teams named by number leave one after the other. -/
def leavePairs (d : DieId) (s : State) (ts : List (Nat × Nat)) : State := ts.foldl (fun s x => leaveTeam s d x.1 x.2 false) s
theorem leavePairs_spec (ts : List (Nat × Nat)) (s : State) : ((leavePairs d s ts).die d).reg = (s.die d).reg ∧ ((leavePairs d s ts).die d).sched.launches = (s.die d).sched.launches ∧
    ∃ g, KeepsTeam g ∧ ((leavePairs d s ts).die d).sched.teams = (s.die d).sched.teams.map g ∧ (∀ z, (z.lid, z.t) ∉ ts → g z = z) ∧
      ∀ p ∈ ts, ∀ z l, (s.die d).sched.team p.1 p.2 = some z → (s.die d).sched.launch p.1 = some l → (s.die d).schedOn d = true → (g z).leaving = true := by
  induction ts generalizing s with
  | nil => exact ⟨rfl, rfl, id, fun _ => ⟨rfl, rfl, id⟩, (List.map_id _).symm, fun _ _ => rfl, fun p hp => absurd hp (by simp)⟩
  | cons q ts ih =>
    obtain ⟨hr1, hl1, -⟩ := leaveTeam_spec s d q.1 q.2 false
    obtain ⟨f, hf, ht1, hlv1⟩ := leaveTeam_teams s d q.1 q.2 false
    obtain ⟨hr2, hl2, g, hg, ht2, hkeep2, hlv2⟩ := ih (leaveTeam s d q.1 q.2 false)
    have hat := keepsTeam_at (lid := q.1) (t := q.2) hf
    refine ⟨hr2.trans hr1, hl2.trans hl1, g ∘ fun z => if z.lid == q.1 && z.t == q.2 then f z else z, fun z => ⟨(hg _).1.trans (hat z).1, (hg _).2.1.trans (hat z).2.1, fun h => (hg _).2.2 ((hat z).2.2 h)⟩, ?_, fun z hz => ?_, fun p hp z l hz hl hon => ?_⟩
    · change ((leavePairs d (leaveTeam s d q.1 q.2 false) ts).die d).sched.teams = _
      rw [ht2, ht1, List.map_map]
    · obtain ⟨hne, hz⟩ := List.ne_and_not_mem_of_not_mem_cons hz
      have hkey : ¬ (z.lid == q.1 && z.t == q.2) = true := fun h => hne (Prod.ext (eq_of_beq (Bool.and_eq_true _ _ ▸ h).1) (eq_of_beq (Bool.and_eq_true _ _ ▸ h).2))
      dsimp only [Function.comp]
      rw [if_neg hkey, hkeep2 z hz]
    · rcases List.mem_cons.1 hp with rfl | hp
      · have hkey := List.find?_some hz
        dsimp only [Function.comp]
        rw [if_pos hkey]
        exact (hg _).2.2 (hlv1 z l hz hl hon)
      · refine hlv2 p hp _ l ?_ ?_ ?_
        · rw [Sched.team, ht1, team_map hat]
          exact congrArg (Option.map _) hz
        · rw [Sched.launch, hl1]
          exact hl
        · rw [Die.schedOn, getReg_congr d hr1]
          exact hon
end Pairs

/-! ## The placement that is cleared (R323) -/

section Clear
variable {y : Die} {dn : DieId} {c : Cand} {used : List SlotId} {l : Launch}

/-- A slot within `SLOTS` that is free to be cleared. -/
def clearSlot (y : Die) (dn : DieId) (used : List SlotId) (k : SlotId) : Bool := bitAt (y.getReg dn rC0RES) k.val && y.bandOk dn (bandOf k) && !used.contains k
/-- Slots that a class-0 team may clear, with their cluster. -/
def clearSets (y : Die) (dn : DieId) (c : Cand) (used : List SlotId) (l : Launch) : List (ClusterId × List SlotId) :=
  (y.homes l c.t).flatMap fun cl => (choose c.blks.length (l.spots cl (clearSlot y dn used))).map fun x => (cl, x.flatten)
/-- Teams on some of the slots. -/
def teamsOn (y : Die) (ks : List SlotId) : List (Nat × Nat) := y.teamsWhere fun t => (y.teamSlots t.lid t.t).any ks.contains
/-- No class-0 team is in the way, and the team has room elsewhere. -/
def clearOk (y : Die) (dn : DieId) (c : Cand) (l : Launch) (x : ClusterId × List SlotId) : Bool :=
  !((teamsOn y x.2).any fun q => (y.sched.launch q.1).any (·.cls == 0)) && y.ctxRoom l c.blks (teamsOn y x.2) && (y.bases dn l c.t x.1 (teamsOn y x.2)).isSome
/-- Of a first choice and others, the one that holds the fewest teams. -/
def fewest (y : Die) (k0 : ClusterId × List SlotId) (ks : List (ClusterId × List SlotId)) : ClusterId × List SlotId :=
  ks.foldl (fun m k => if (teamsOn y k.2).length < (teamsOn y m.2).length then k else m) k0
theorem fewest_mem (k0 : ClusterId × List SlotId) (ks : List (ClusterId × List SlotId)) : fewest y k0 ks ∈ k0 :: ks := by
  unfold fewest
  induction ks generalizing k0 with
  | nil => exact List.mem_singleton.2 rfl
  | cons k ks ih =>
    rw [List.foldl_cons]
    split
    · exact List.mem_cons_of_mem _ (ih k)
    · rcases List.mem_cons.1 (ih k0) with h | h
      · rw [h]
        exact List.mem_cons_self
      · exact List.mem_cons_of_mem _ (List.mem_cons_of_mem _ h)
theorem class0Clear_eq (hl : y.sched.launch c.lid = some l) : y.class0Clear dn c used =
    match (clearSets y dn c used l).filter (clearOk y dn c l) with
    | [] => none
    | k0 :: ks => some (teamsOn y (fewest y k0 ks).2) := by
  unfold Die.class0Clear
  rw [hl]
  rfl
theorem mem_choose {α : Type} {n : Nat} {as x : List α} (h : x ∈ choose n as) : ∀ a ∈ x, a ∈ as := by
  induction as generalizing n x with
  | nil =>
    cases n with
    | zero =>
      rw [List.mem_singleton.1 h]
      exact fun a ha => absurd ha (by simp)
    | succ n => exact absurd h (by simp [choose])
  | cons b as ih =>
    cases n with
    | zero =>
      rw [List.mem_singleton.1 h]
      exact fun a ha => absurd ha (by simp)
    | succ n =>
      rcases List.mem_append.1 h with h | h
      · obtain ⟨r, hr, rfl⟩ := List.mem_map.1 h
        exact fun a ha => (List.mem_cons.1 ha).elim (fun e => e ▸ List.mem_cons_self) fun ha => List.mem_cons_of_mem _ (ih hr a ha)
      · exact fun a ha => List.mem_cons_of_mem _ (ih h a ha)
theorem mem_choose_one {α : Type} {as x : List α} : x ∈ choose 1 as ↔ ∃ a ∈ as, x = [a] := by
  induction as with
  | nil => simp [choose]
  | cons b as ih =>
    have hcons : choose 1 (b :: as) = [b] :: choose 1 as := by
      cases as <;> rfl
    rw [hcons, List.mem_cons, ih]
    simp
theorem mem_spots {cl : ClusterId} {ok : SlotId → Bool} {ks : List SlotId} : ks ∈ l.spots cl ok ↔ ∃ b, (l.wide || clusterOf b == cl) = true ∧ placement l.shape b = some ks ∧ ks.all ok = true := by
  have hall (b : SlotId) : b ∈ allSlots := by
    revert b
    decide
  unfold Launch.spots
  rw [List.mem_filterMap]
  refine ⟨fun ⟨b, _, hb⟩ => ?_, fun ⟨b, hw, hp, ho⟩ => ⟨b, hall b, ?_⟩⟩
  · by_cases hw : (l.wide || clusterOf b == cl) = true
    · rw [if_pos hw] at hb
      obtain ⟨hp, ho⟩ := Option.filter_eq_some_iff.1 hb
      exact ⟨b, hw, hp, ho⟩
    · rw [if_neg hw] at hb
      exact absurd hb (by simp)
  · rw [if_pos hw]
    exact Option.filter_eq_some_iff.2 ⟨hp, ho⟩
theorem mem_clearSets {x : ClusterId × List SlotId} (h : x ∈ clearSets y dn c used l) : (∀ k ∈ x.2, bitAt (y.getReg dn rC0RES) k.val = true ∧ y.bandOk dn (bandOf k) = true) ∧ (c.blks.length = 1 → ∃ b, placement l.shape b = some x.2) := by
  obtain ⟨cl, -, hx⟩ := List.mem_flatMap.1 h
  obtain ⟨ps, hps, rfl⟩ := List.mem_map.1 hx
  refine ⟨fun k hk => ?_, fun hone => ?_⟩
  · obtain ⟨p, hp, hkp⟩ := List.mem_flatten.1 hk
    obtain ⟨b, -, -, ho⟩ := mem_spots.1 (mem_choose hps p hp)
    have hok := List.all_eq_true.1 ho k hkp
    rw [clearSlot, Bool.and_eq_true, Bool.and_eq_true] at hok
    exact hok.1
  · rw [hone] at hps
    obtain ⟨p, hp, rfl⟩ := mem_choose_one.1 hps
    obtain ⟨b, -, hb, -⟩ := mem_spots.1 hp
    exact ⟨b, hb.trans (congrArg some (List.append_nil p).symm)⟩
theorem mem_teamsOn {ks : List SlotId} {q : Nat × Nat} : q ∈ teamsOn y ks ↔ (∃ x ∈ y.sched.teams, (x.lid, x.t) = q) ∧ ∃ k ∈ ks, k ∈ y.teamSlots q.1 q.2 := by
  unfold teamsOn Die.teamsWhere
  rw [List.mem_map]
  refine ⟨fun ⟨x, hx, hq⟩ => ?_, fun ⟨⟨x, hx, hq⟩, k, hk, hs⟩ => ⟨x, List.mem_filter.2 ⟨hx, ?_⟩, hq⟩⟩
  · obtain ⟨hx, hany⟩ := List.mem_filter.1 hx
    obtain ⟨k, hk, hc⟩ := List.any_eq_true.1 hany
    subst hq
    exact ⟨⟨x, hx, rfl⟩, k, List.contains_iff_mem.1 hc, hk⟩
  · subst hq
    exact List.any_eq_true.2 ⟨k, hs, List.contains_iff_mem.2 hk⟩
/-- What is cleared: slots within `SLOTS`, on which no class-0 team is. -/
theorem class0Clear_some {ts : List (Nat × Nat)} (h : y.class0Clear dn c used = some ts) : ∃ ks l, y.sched.launch c.lid = some l ∧ ts = teamsOn y ks ∧ (∀ k ∈ ks, bitAt (y.getReg dn rC0RES) k.val = true ∧ y.bandOk dn (bandOf k) = true) ∧
    (∀ q ∈ ts, ∀ l, y.sched.launch q.1 = some l → l.cls ≠ 0) ∧ (c.blks.length = 1 → ∃ b, placement l.shape b = some ks) := by
  cases hl : y.sched.launch c.lid with
  | none =>
    unfold Die.class0Clear at h
    rw [hl] at h
    exact absurd h (by simp)
  | some l =>
    rw [class0Clear_eq hl] at h
    have hsub : ∀ x ∈ (clearSets y dn c used l).filter (clearOk y dn c l), x ∈ clearSets y dn c used l ∧ clearOk y dn c l x = true := fun x hx => List.mem_filter.1 hx
    generalize (clearSets y dn c used l).filter (clearOk y dn c l) = gs at h hsub
    cases gs with
    | nil => exact absurd h (by simp)
    | cons k0 ks =>
      obtain rfl := Option.some.inj h
      obtain ⟨hin, hok⟩ := hsub _ (fewest_mem k0 ks)
      obtain ⟨hslots, hone⟩ := mem_clearSets hin
      refine ⟨_, l, rfl, rfl, hslots, fun q hq m hm => ?_, hone⟩
      unfold clearOk at hok
      rw [Bool.and_eq_true, Bool.and_eq_true, Bool.not_eq_true'] at hok
      have hno := List.any_eq_false.1 hok.1.1 q hq
      rw [hm] at hno
      exact fun e => hno (beq_iff_eq.2 e)
/-- A fragment of the shape within `SLOTS` that no class-0 team holds can be cleared. -/
theorem class0Clear_isSome {b : SlotId} {k0 : List SlotId} (hl : y.sched.launch c.lid = some l) (ht : y.sched.team c.lid c.t = none) (hsh : l.shape.val < 4) (hz : l.zw = 0) (hone : c.blks.length = 1) (hctx : ∀ x ∈ l.blks, c.blks.contains x.l = true → x.ctxs = [])
    (hp : placement l.shape b = some k0) (hk : ∀ k ∈ k0, bitAt (y.getReg dn rC0RES) k.val = true ∧ y.bandOk dn (bandOf k) = true ∧ k ∉ used)
    (hcls : ∀ x ∈ y.sched.teams, (∃ k ∈ k0, k ∈ y.teamSlots x.lid x.t) → ∀ l, y.sched.launch x.lid = some l → l.cls ≠ 0) : ∃ ts, y.class0Clear dn c used = some ts := by
  have hlid : l.id = c.lid := eq_of_beq (List.find?_some (p := fun l : Launch => l.id == c.lid) hl)
  have hw : l.wide = false := decide_eq_false (Nat.not_le.2 hsh)
  have hspot : k0 ∈ l.spots (clusterOf b) (clearSlot y dn used) := by
    refine mem_spots.2 ⟨b, ?_, hp, List.all_eq_true.2 fun k hkk => ?_⟩
    · rw [beq_self_eq_true, Bool.or_true]
    · obtain ⟨h1, h2, h3⟩ := hk k hkk
      have hfree : (!used.contains k) = true := by simpa using h3
      rw [clearSlot, h1, h2, hfree]
      rfl
  have hhome : clusterOf b ∈ y.homes l c.t := by
    have hboth : ∀ b : SlotId, clusterOf b ∈ ([0, 1] : List ClusterId) := by decide
    unfold Die.homes
    rw [hw, hlid, ht]
    exact hboth b
  have hset : (clusterOf b, k0) ∈ clearSets y dn c used l := by
    refine List.mem_flatMap.2 ⟨_, hhome, List.mem_map.2 ⟨[k0], ?_, Prod.ext rfl (List.append_nil k0)⟩⟩
    rw [hone]
    exact mem_choose_one.2 ⟨k0, hspot, rfl⟩
  have hroom (gone : List (Nat × Nat)) : y.ctxRoom l c.blks gone = true := by
    have hnone (bs : List Blk) (hbs : ∀ b ∈ bs, b.ctxs = []) (n : Nat) : bs.foldl (fun n b => n + b.ctxs.length) n = n := by
      induction bs generalizing n with
      | nil => rfl
      | cons b bs ih =>
        rw [List.foldl_cons, hbs b List.mem_cons_self]
        exact ih (fun b hb => hbs b (List.mem_cons_of_mem _ hb)) n
    unfold Die.ctxRoom
    dsimp only
    rw [hnone _ (fun b hb => hctx b (List.mem_filter.1 hb).1 (List.mem_filter.1 hb).2)]
    exact decide_eq_true (Nat.zero_le _)
  have hok : clearOk y dn c l (clusterOf b, k0) = true := by
    have hno : ((teamsOn y k0).any fun q => (y.sched.launch q.1).any (·.cls == 0)) = false := by
      refine List.any_eq_false.2 fun q hq => ?_
      obtain ⟨⟨x, hx, rfl⟩, hkx⟩ := mem_teamsOn.1 hq
      cases hm : y.sched.launch x.lid with
      | none => simp
      | some m =>
        have := hcls x hx hkx m hm
        simpa using this
    rw [clearOk, hno, hroom, Die.bases, if_pos hz]
    rfl
  rw [class0Clear_eq hl]
  have hmem := List.mem_filter.2 ⟨hset, hok⟩
  generalize (clearSets y dn c used l).filter (clearOk y dn c l) = gs at hmem
  cases gs with
  | nil => exact absurd hmem (by simp)
  | cons k0 ks => exact ⟨_, rfl⟩
end Clear

/-! ## The step (R323) -/

section Step
variable {s : State} {d : DieId}

theorem findSome?_of_find? {α β : Type} {p : α → Bool} {f : α → Option β} {as : List α} {a : α} (h : as.find? p = some a) (hf : (f a).isSome = true) : as.findSome? (fun x => if p x then f x else none) = f a := by
  induction as with
  | nil => exact absurd h (by simp)
  | cons b as ih =>
    cases hb : p b with
    | true =>
      rw [List.find?_cons_of_pos hb] at h
      obtain rfl := Option.some.inj h
      obtain ⟨v, hv⟩ := Option.isSome_iff_exists.1 hf
      rw [List.findSome?_cons, if_pos hb, hv]
    | false =>
      rw [List.find?_cons_of_neg (by rw [hb]; decide)] at h
      rw [List.findSome?_cons, if_neg (by rw [hb]; decide)]
      exact ih h
/-- The teams that a class-0 team clears, if it may and there is one. -/
def cleared (y : Die) (d : DieId) : Option (List (Nat × Nat)) :=
  if !bitAt (y.getReg d rC0RES) 63 || !y.schedOn d then none else (y.waiting d).findSome? fun c => if c.1.cls == 0 && !c.1.early then y.class0Clear d c.1 c.2 else none
theorem class0Preempt_eq : execClass0Preempt d s = .next (leavePairs d s ((cleared (s.die d) d).getD [])) := by
  unfold execClass0Preempt cleared
  dsimp only
  split
  · rfl
  · split
    · next h =>
      rw [h]
      rfl
    · next ts h =>
      rw [h]
      rfl
theorem cleared_first {c : Cand} {used : List SlotId} (hb : bitAt ((s.die d).getReg d rC0RES) 63 = true) (hon : (s.die d).schedOn d = true) (hf : ((s.die d).waiting d).find? (fun c => c.1.cls == 0 && !c.1.early) = some (c, used)) {ts : List (Nat × Nat)}
    (hts : (s.die d).class0Clear d c used = some ts) : cleared (s.die d) d = some ts := by
  unfold cleared
  rw [hb, hon, if_neg (by decide), findSome?_of_find? (f := fun c : Cand × List SlotId => (s.die d).class0Clear d c.1 c.2) hf (by rw [hts]; rfl), hts]
theorem cleared_some {ts : List (Nat × Nat)} (h : cleared (s.die d) d = some ts) : (s.die d).schedOn d = true ∧ ∃ c used, (s.die d).class0Clear d c used = some ts := by
  unfold cleared at h
  split at h
  · exact absurd h (by simp)
  · next hc =>
    obtain ⟨-, hon⟩ := Bool.or_eq_false_iff.1 (Bool.not_eq_true _ ▸ hc)
    obtain ⟨c, -, hcc⟩ := List.exists_of_findSome?_eq_some h
    split at hcc
    · exact ⟨(Bool.not_eq_false' _).mp hon, c.1, c.2, hcc⟩
    · exact absurd hcc (by simp)

/-- What a pre-emption for class 0 comes to, of the slots it clears. -/
structure Clears (y : Die) (d : DieId) (t : State) (ks : List SlotId) : Prop where
  slots : ∀ k ∈ ks, bitAt (y.getReg d rC0RES) k.val = true ∧ y.bandOk d (bandOf k) = true
  began : ∀ x ∈ (t.die d).sched.teams, x.leaving = true → x ∈ y.sched.teams ∨ ((∃ k ∈ ks, k ∈ y.teamSlots x.lid x.t) ∧ ∀ l, y.sched.launch x.lid = some l → l.cls ≠ 0)
  leave : ∀ x ∈ y.sched.teams, ∀ l, y.sched.launch x.lid = some l → (∃ k ∈ ks, k ∈ y.teamSlots x.lid x.t) → ∃ z, (t.die d).sched.team x.lid x.t = some z ∧ z.leaving = true
theorem clears_teams {ks : List SlotId} (hon : (s.die d).schedOn d = true) (hslots : ∀ k ∈ ks, bitAt ((s.die d).getReg d rC0RES) k.val = true ∧ (s.die d).bandOk d (bandOf k) = true)
    (hcls : ∀ q ∈ teamsOn (s.die d) ks, ∀ l, (s.die d).sched.launch q.1 = some l → l.cls ≠ 0) : Clears (s.die d) d (leavePairs d s (teamsOn (s.die d) ks)) ks := by
  obtain ⟨-, -, g, hg, ht, hkeep, hlv⟩ := leavePairs_spec (d := d) (teamsOn (s.die d) ks) s
  refine ⟨hslots, fun x hx _ => ?_, fun x hx l hl hk => ?_⟩
  · rw [ht] at hx
    obtain ⟨z, hz, rfl⟩ := List.mem_map.1 hx
    by_cases hin : (z.lid, z.t) ∈ teamsOn (s.die d) ks
    · rw [(hg z).1, (hg z).2.1]
      exact .inr ⟨(mem_teamsOn.1 hin).2, hcls _ hin⟩
    · rw [hkeep z hin]
      exact .inl hz
  · have hin : (x.lid, x.t) ∈ teamsOn (s.die d) ks := mem_teamsOn.2 ⟨⟨x, hx, rfl⟩, hk⟩
    obtain ⟨z, hz⟩ := Option.isSome_iff_exists.1 (List.find?_isSome (p := fun z : Team => z.lid == x.lid && z.t == x.t).2 ⟨x, hx, by simp⟩)
    refine ⟨g z, ?_, hlv _ hin z l hz hl hon⟩
    rw [Sched.team, ht, team_map hg, hz]
    rfl
theorem clears_none : Clears (s.die d) d s [] := ⟨fun k hk => absurd hk (by simp), fun x hx _ => .inl hx, fun x _ l _ ⟨k, hk, _⟩ => absurd hk (by simp)⟩
theorem placement_ne_nil {sh : Fin 6} {b : SlotId} : placement sh b ≠ some [] := by
  revert sh b
  decide
end Step

end Sys2Proof.Proofs
end

section
/-! SUPPORT. A swap-out is completed (O45): the blocks leave their slots, and the collective engine's part follows. -/

namespace Sys2Proof.Proofs

open Sys2Proof Sys2Proof.Machine Sys2Proof.Laws

/-! ## Blocks in the scheduler's tables -/

section Tables
theorem launch_modBlk_any (q : Sched) (a n : Nat) (f : Blk → Blk) (lid : Nat) : (q.modBlk a n f).launch lid = (q.launch lid).map fun l => if l.id == a then l.modBlk n f else l := by
  unfold Sched.launch Sched.modBlk Sched.modLaunch
  rw [List.find?_map]
  have hkey : (fun l : Launch => l.id == lid) ∘ (fun l => if l.id == a then l.modBlk n f else l) = fun l => l.id == lid := by
    funext l
    dsimp only [Function.comp]
    split <;> rfl
  rw [hkey]
theorem blk_modBlk_any (l : Launch) (n : Nat) {f : Blk → Blk} (hf : ∀ z, (f z).l = z.l) (m : Nat) : (l.modBlk n f).blk m = (l.blk m).map fun z => if z.l == n then f z else z := by
  unfold Launch.blk Launch.modBlk
  rw [List.find?_map]
  have hkey : (fun z : Blk => z.l == m) ∘ (fun z => if z.l == n then f z else z) = fun z => z.l == m := by
    funext z
    dsimp only [Function.comp]
    split
    · rw [hf]
    · rfl
  rw [hkey]

/-- A block of a launch with teams of `w` blocks is swapped out, and holds no slot. -/
def IsOut (q : Sched) (lid n w : Nat) : Prop := ∃ l b, q.launch lid = some l ∧ l.teamsz = w ∧ l.blk n = some b ∧ b.slots = [] ∧ b.st = .swapped
/-- A change of blocks that takes none back from the swap queue. -/
structure StaysOut (f : Blk → Blk) : Prop where
  l : ∀ z, (f z).l = z.l
  slots : ∀ z, z.slots = [] → (f z).slots = []
  st : ∀ z, z.st = .swapped → (f z).st = .swapped
theorem IsOut.modBlk {q : Sched} {lid n w : Nat} (h : IsOut q lid n w) (a m : Nat) {f : Blk → Blk} (hf : StaysOut f) : IsOut (q.modBlk a m f) lid n w := by
  obtain ⟨l, b, hl, hw, hb, hs, ht⟩ := h
  by_cases ha : (l.id == a) = true
  · refine ⟨l.modBlk m f, if b.l == m then f b else b, ?_, hw, ?_, ?_, ?_⟩
    · rw [launch_modBlk_any, hl, Option.map_some, if_pos ha]
    · rw [blk_modBlk_any l m hf.l, hb]
      rfl
    · split
      · exact hf.slots b hs
      · exact hs
    · split
      · exact hf.st b ht
      · exact ht
  · refine ⟨l, b, ?_, hw, hb, hs, ht⟩
    rw [launch_modBlk_any, hl, Option.map_some, if_neg ha]
/-- A block that is put out. -/
theorem isOut_modBlk {q : Sched} {l : Launch} {b : Blk} {f : Blk → Blk} (hl : q.launch l.id = some l) (hb : ∃ z, l.blk b.l = some z) (hf : ∀ z, (f z).l = z.l ∧ (f z).slots = [] ∧ (f z).st = .swapped) : IsOut (q.modBlk l.id b.l f) l.id b.l l.teamsz := by
  obtain ⟨z, hz⟩ := hb
  refine ⟨l.modBlk b.l f, f z, ?_, rfl, ?_, (hf z).2.1, (hf z).2.2⟩
  · rw [launch_modBlk, hl]
    rfl
  · rw [blk_modBlk _ _ _ fun z => (hf z).1, hz]
    rfl
end Tables

/-! ## What the collective engine's part of a swap-out leaves (R298, R321) -/

section Frame
variable {s t u : State} {d : DieId}

/-- Slots, layout and tables. -/
def frame (y : Die) : Vector Slot 8 × Vector Lay 8 × Sched := (y.slots, y.lay, tables y)
theorem liveKeeps_frame : LiveKeeps frame := ⟨⟨fun _ _ _ _ => rfl, fun _ _ _ => rfl, fun _ _ => rfl⟩, fun _ _ => rfl⟩
def SameFrame (d : DieId) (s t : State) : Prop := frame (t.die d) = frame (s.die d)
theorem SameFrame.refl (s : State) : SameFrame d s s := rfl
theorem SameFrame.trans (h : SameFrame d s t) (g : SameFrame d t u) : SameFrame d s u := Eq.trans g h
theorem sameFrame_modDie (s : State) {f : Die → Die} (h : ∀ y, frame (f y) = frame y) : SameFrame d s (s.modDie d f) := by
  rw [SameFrame, State.die_modDie_same]
  exact h _
theorem sameFrame_modCoe (s : State) (f : Coll → Coll) : SameFrame d s (s.modCoe d f) := sameFrame_modDie s fun _ => rfl
theorem sameFrame_sendNft (s : State) (m : NftOut) : SameFrame d s (sendNft s d m) := by
  unfold sendNft
  split
  · rfl
  · exact sameFrame_modDie s fun _ => rfl
theorem sameFrame_foldl {β : Type} {f : State → β → State} (h : ∀ s b, SameFrame d s (f s b)) (l : List β) (s : State) : SameFrame d s (l.foldl f s) := by
  induction l generalizing s with
  | nil => rfl
  | cons b l ih => exact (h s b).trans (ih _)
theorem sameFrame_markHomes (s : State) (a : Agent) (rs : List Sent) : SameFrame d s (markHomes s d a rs) := by
  have hsend (s : State) (h : DieId) (m : Msg) : SameFrame d s (s.send d h m) := congrArg frame (State.send_die s d h m d)
  unfold markHomes
  exact (sameFrame_foldl (fun s h => hsend s h _) _ s).trans (sameFrame_foldl (fun s x => sameFrame_sendNft s _) _ _)
theorem sameFrame_stopCtx (s : State) (mine : KCtx → Bool) : SameFrame d s (stopCtx s d mine) := by
  have htell (s : State) (k : KCtx) (b : Bool) : SameFrame d s (tellGroups s d k b) := sameFrame_foldl (fun s g => sameFrame_sendNft s _) _ s
  have hset (s : State) (x : Fin 8) (k : KCtx) : SameFrame d s (s.setCtx d x k) := sameFrame_modCoe s _
  refine sameFrame_foldl (fun s x => ?_) _ s
  dsimp only
  split
  · split
    · split
      · exact (hset s x _).trans (htell _ _ _)
      · exact hset s x _
    · rfl
  · rfl

/-! ## A block leaves its slots (R321) -/

/-- What the collective engine's work is judged by. -/
def collView (y : Die) : List SbOp × List Sent × List Held × Vector (Option KCtx) 8 × Option Run := (y.coe.ag.sb, y.coe.ag.pend, y.held, y.coe.ctx, y.coe.run)
theorem liveKeeps_collView : LiveKeeps collView := ⟨⟨fun _ _ _ _ => rfl, fun _ _ _ => rfl, fun _ _ => rfl⟩, fun _ _ => rfl⟩
theorem markHomes_collView (s : State) (a : Agent) (rs : List Sent) : collView ((markHomes s d a rs).die d) = collView (s.die d) := by
  have hsend (l : List DieId) (s : State) : collView ((l.foldl (fun s h => s.send d h (.marker a)) s).die d) = collView (s.die d) := by
    induction l generalizing s with
    | nil => rfl
    | cons h l ih => exact (ih _).trans (congrArg collView (State.send_die s d h _ d))
  have hnft (m : State → BitVec 12 × DieId → NftOut) (l : List (BitVec 12 × DieId)) (s : State) : collView ((l.foldl (fun s x => sendNft s d (m s x)) s).die d) = collView (s.die d) := by
    induction l generalizing s with
    | nil => rfl
    | cons x l ih =>
      refine (ih _).trans ?_
      change collView ((sendNft s d (m s x)).die d) = _
      unfold sendNft
      split
      · rfl
      · rw [State.die_modDie_same]
        rfl
  unfold markHomes
  exact (hnft (fun s x => .fab x.1 x.2 (.marker (s.me ⟨d, a, 8⟩))) _ _).trans (hsend _ _)

variable {l : Launch} {b : Blk}
/-- The engines that slots share forget the block, its slots go back, and `f` is its new place in the tables. -/
def outDie (b : Blk) (lid : Nat) (mine : Option Run → Option Run) (stay : Agent → AgentSt → AgentSt) (f : Blk → Blk) (y : Die) : Die :=
  let y := { y with cpe := y.cpe.map fun (c : CopyEng) => { c with run := mine c.run } }
  let y := (([.copy 0, .copy 1, .coll] : List Agent).foldl (fun y a => y.modAg a (stay a)) y).giveBack b.slots
  { y with sched := y.sched.modBlk lid b.l f }
/-- The faults that a block takes with it, by strand. -/
def outFaults (y : Die) (b : Blk) : List (Nat × Nat × PFault) := (List.range b.slots.length).flatMap fun i => match b.slots[i]? with
  | some k => (List.finRange 8).filterMap fun a => (vget (y.slot k).flt a).map fun p => ((i, a.val, p) : Nat × Nat × PFault)
  | none => []
/-- A block that is out. -/
def outOf (y : Die) (b x : Blk) : Blk := { x with
  slots := [], st := .swapped, flts := outFaults y b ++ x.flts.filter fun (e : Nat × Nat × PFault) => !((outFaults y b).any fun (f : Nat × Nat × PFault) => f.1 == e.1 && f.2.1 == e.2.1)
  aux := b.slots.map (y.auxOf b.slots), halted := if x.halted = 0 then 0 else 2 }
/-- An agent without the requests that have gone. -/
def staying (out : List (Nat × Agent × List Sent)) (a : Agent) (x : AgentSt) : AgentSt := { x with refused := x.refused.filter fun p => !(out.any fun e => e.2.1 == a && e.2.2.contains p) }
theorem outBlk_eq (s : State) (d : DieId) (l : Launch) (b : Blk) : outBlk s d l b = (b.slots.flatMap (s.die d).refusedOut).foldl (fun s x => markHomes s d x.2.1 x.2.2)
    (s.modDie d (outDie b l.id (fun r => r.filter fun r => !b.slots.contains r.slot) (staying (b.slots.flatMap (s.die d).refusedOut)) (outOf (s.die d) b))) := rfl
theorem outDie_frame {lid : Nat} {mine : Option Run → Option Run} {stay : Agent → AgentSt → AgentSt} {f : Blk → Blk} (y : Die) :
    (outDie b lid mine stay f y).slots = (y.giveBack b.slots).slots ∧ (outDie b lid mine stay f y).lay = (y.giveBack b.slots).lay ∧ tables (outDie b lid mine stay f y) = (tables y).modBlk lid b.l f := by
  have hback (ks : List SlotId) (z : Die) (hs : z.slots = y.slots) (hl : z.lay = y.lay) : (z.giveBack ks).slots = (y.giveBack ks).slots ∧ (z.giveBack ks).lay = (y.giveBack ks).lay := by
    have hgo (ks : List SlotId) (z y : Die) (hs : z.slots = y.slots) (hl : z.lay = y.lay) : (z.giveBack ks).slots = (y.giveBack ks).slots ∧ (z.giveBack ks).lay = (y.giveBack ks).lay := by
      induction ks generalizing z y with
      | nil => exact ⟨hs, hl⟩
      | cons k ks ih =>
        refine ih (backOne z k) (backOne y k) ?_ ?_
        · change vmod z.slots k Slot.vacate = vmod y.slots k Slot.vacate
          rw [hs]
        · change vmod z.lay k (fun _ => Lay.none) = vmod y.lay k (fun _ => Lay.none)
          rw [hl]
    exact hgo ks z y hs hl
  let z : Die := ([.copy 0, .copy 1, .coll] : List Agent).foldl (fun y a => y.modAg a (stay a)) { y with cpe := y.cpe.map fun (c : CopyEng) => { c with run := mine c.run } }
  obtain ⟨hs, hl⟩ := hback b.slots z rfl rfl
  refine ⟨hs, hl, ?_⟩
  have hsched : (z.giveBack b.slots).sched = y.sched := by
    have := congrArg Die.sched (giveBack_rest b.slots z)
    exact this
  change tables { z.giveBack b.slots with sched := (z.giveBack b.slots).sched.modBlk lid b.l f } = _
  rw [hsched]
  rfl
theorem outDie_collView {lid : Nat} {mine : Option Run → Option Run} {stay : Agent → AgentSt → AgentSt} {f : Blk → Blk} (hst : ∀ a x, (stay a x).sb = x.sb ∧ (stay a x).pend = x.pend) (y : Die) : collView (outDie b lid mine stay f y) = collView y := by
  let z : Die := ([.copy 0, .copy 1, .coll] : List Agent).foldl (fun y a => y.modAg a (stay a)) { y with cpe := y.cpe.map fun (c : CopyEng) => { c with run := mine c.run } }
  have hz : collView (z.giveBack b.slots) = collView z := by
    have := congrArg collView (giveBack_rest b.slots z)
    exact this
  have hag : collView z = ((stay .coll y.coe.ag).sb, (stay .coll y.coe.ag).pend, y.held, y.coe.ctx, y.coe.run) := rfl
  refine hz.trans (hag.trans ?_)
  rw [(hst _ _).1, (hst _ _).2]
  rfl

/-- A slot that holds no strand and is in no fragment. -/
def Vacant (y : Die) (k : SlotId) : Prop := (y.slot k).ctl.own = none ∧ y.layOf k = Lay.none
theorem vacant_giveBack {y : Die} {ks : List SlotId} {k : SlotId} (h : k ∈ ks ∨ Vacant y k) : Vacant (y.giveBack ks) k := by
  by_cases hk : k ∈ ks
  · obtain ⟨hl, t, ht⟩ := giveBack_slot (y := y) hk
    exact ⟨by rw [ht]; rfl, hl⟩
  · obtain ⟨hl, hs⟩ := giveBack_rest_slot (y := y) hk
    obtain ⟨ho, hlay⟩ := h.resolve_left hk
    exact ⟨by rw [hs]; exact ho, hl.trans hlay⟩
theorem vacant_of_frame {y z : Die} (hs : z.slots = y.slots) (hl : z.lay = y.lay) {k : SlotId} (h : Vacant y k) : Vacant z k := by
  unfold Vacant Die.slot Die.layOf
  rw [hs, hl]
  exact h
/-- What a block's leaving changes: its slots are vacant, and it is out; the collective engine's work stands. -/
theorem outBlk_ends (s : State) (d : DieId) (l : Launch) (b : Blk) : (∀ k, k ∈ b.slots ∨ Vacant (s.die d) k → Vacant ((outBlk s d l b).die d) k) ∧ collView ((outBlk s d l b).die d) = collView (s.die d) ∧
    ∃ f, (∀ z, (f z).l = z.l ∧ (f z).slots = [] ∧ (f z).st = .swapped) ∧ tables ((outBlk s d l b).die d) = (tables (s.die d)).modBlk l.id b.l f := by
  let out := b.slots.flatMap (s.die d).refusedOut
  let mine (r : Option Run) : Option Run := r.filter fun r => !b.slots.contains r.slot
  let stay := staying out
  let f := outOf (s.die d) b
  have he : outBlk s d l b = out.foldl (fun s x => markHomes s d x.2.1 x.2.2) (s.modDie d (outDie b l.id mine stay f)) := outBlk_eq s d l b
  have hst : ∀ a x, (stay a x).sb = x.sb ∧ (stay a x).pend = x.pend := fun _ _ => ⟨rfl, rfl⟩
  have hf : ∀ z, (f z).l = z.l ∧ (f z).slots = [] ∧ (f z).st = .swapped := fun _ => ⟨rfl, rfl, rfl⟩
  have hframe : SameFrame d (s.modDie d (outDie b l.id mine stay f)) (outBlk s d l b) := by
    rw [he]
    exact sameFrame_foldl (fun s x => sameFrame_markHomes s _ _) _ _
  have hcoll : collView ((outBlk s d l b).die d) = collView (outDie b l.id mine stay f (s.die d)) := by
    have hfold (l : List (Nat × Agent × List Sent)) (s : State) : collView ((l.foldl (fun s x => markHomes s d x.2.1 x.2.2) s).die d) = collView (s.die d) := by
      induction l generalizing s with
      | nil => rfl
      | cons x l ih => exact (ih _).trans (markHomes_collView s _ _)
    rw [he, hfold, State.die_modDie_same]
  rw [SameFrame, State.die_modDie_same] at hframe
  obtain ⟨hs, hl, ht⟩ := outDie_frame (b := b) (lid := l.id) (mine := mine) (stay := stay) (f := f) (s.die d)
  refine ⟨fun k hk => vacant_of_frame ((congrArg Prod.fst hframe).trans hs) ((congrArg (fun z => z.2.1) hframe).trans hl) (vacant_giveBack hk), hcoll.trans (outDie_collView hst _), f, hf, (congrArg (fun z => z.2.2) hframe).trans ht⟩
/-- All the blocks named have left. -/
theorem outAll_ends (l : Launch) (bs : List Blk) (s : State) (hl : ∃ l', (s.die d).sched.launch l.id = some l' ∧ l'.teamsz = l.teamsz ∧ ∀ b ∈ bs, ∃ z, l'.blk b.l = some z) :
    let t := bs.foldl (fun s b => outBlk s d l b) s
    (∀ b ∈ bs, ∀ k ∈ b.slots, Vacant (t.die d) k) ∧ (∀ k, Vacant (s.die d) k → Vacant (t.die d) k) ∧ collView (t.die d) = collView (s.die d) ∧ (∀ b ∈ bs, IsOut (tables (t.die d)) l.id b.l l.teamsz) ∧
      (∀ n, IsOut (tables (s.die d)) l.id n l.teamsz → IsOut (tables (t.die d)) l.id n l.teamsz) ∧ (t.die d).sched.teams = (s.die d).sched.teams ∧ (t.die d).sched.sq = (s.die d).sched.sq ∧ ∃ l', (t.die d).sched.launch l.id = some l' := by
  induction bs generalizing s with
  | nil =>
    obtain ⟨l', hl', -⟩ := hl
    exact ⟨fun b hb => absurd hb (by simp), fun _ h => h, rfl, fun b hb => absurd hb (by simp), fun _ h => h, rfl, rfl, l', hl'⟩
  | cons b bs ih =>
    obtain ⟨l', hl', hw, hb⟩ := hl
    obtain ⟨hvac, hcoll, f, hf, ht⟩ := outBlk_ends s d l b
    have hid : l'.id = l.id := eq_of_beq (List.find?_some (p := fun z : Launch => z.id == l.id) hl')
    have hlaunch : ((outBlk s d l b).die d).sched.launch l.id = some (l'.modBlk b.l f) := by
      have := congrArg (fun q : Sched => q.launch l.id) ht
      refine this.trans ?_
      rw [launch_modBlk, show (tables (s.die d)).launch l.id = some l' from hl']
      rfl
    obtain ⟨h1, h2, h3, h4, h5, h6, h7, h8⟩ := ih (outBlk s d l b) ⟨l'.modBlk b.l f, hlaunch, hw, fun c hc => by
      obtain ⟨z, hz⟩ := hb c (List.mem_cons_of_mem _ hc)
      exact ⟨_, (blk_modBlk_any l' b.l (fun z => (hf z).1) c.l).trans (congrArg (Option.map _) hz)⟩⟩
    have hout : IsOut (tables ((outBlk s d l b).die d)) l.id b.l l.teamsz := by
      have := isOut_modBlk (q := tables (s.die d)) (l := l') (b := b) (f := f) (hid ▸ hl') (hb b List.mem_cons_self) hf
      rw [ht, ← hw]
      rwa [hid] at this
    have hteams : ((outBlk s d l b).die d).sched.teams = (s.die d).sched.teams := by
      have := congrArg Sched.teams ht
      exact this
    have hsq : ((outBlk s d l b).die d).sched.sq = (s.die d).sched.sq := by
      have := congrArg Sched.sq ht
      exact this
    have hkeep (n : Nat) (h : IsOut (tables (s.die d)) l.id n l.teamsz) : IsOut (tables ((outBlk s d l b).die d)) l.id n l.teamsz := by
      rw [ht]
      exact h.modBlk l.id b.l ⟨fun z => (hf z).1, fun z _ => (hf z).2.1, fun z _ => (hf z).2.2⟩
    refine ⟨fun c hc k hk => ?_, fun k hk => h2 k (hvac k (.inr hk)), h3.trans hcoll, fun c hc => ?_, fun n hn => h5 n (hkeep n hn), h6.trans hteams, h7.trans hsq, h8⟩
    · rcases List.mem_cons.1 hc with rfl | hc
      · exact h2 k (hvac k (.inl hk))
      · exact h1 c hc k hk
    · rcases List.mem_cons.1 hc with rfl | hc
      · exact h5 _ hout
      · exact h4 c hc
end Frame

end Sys2Proof.Proofs
end

section
/-! SUPPORT. A pre-emption is completed, and with it the statements of slices and swap-outs (O45). -/

namespace Sys2Proof.Proofs

open Sys2Proof Sys2Proof.Machine Sys2Proof.Laws

/-! ## The collective engine's part goes too (R298, R321) -/

section Gone
variable {s : State} {d : DieId} {l : Launch} {b : Blk} {x : Team}

/-- A block's copy in the tables, with its contexts `ks`, its directory `dir` and their refused requests. -/
def collKeep (y : Die) (ks : List (Fin 8 × KCtx)) (dir : Option (Run × Owner)) (b : Blk) : Blk :=
  let sent (x : Option Nat) (k : SlotId) : List Sent := y.refusedOf .coll k x
  let b := { b with ctxs := ks.map (·.2) }
  let b := (List.range ks.length).foldl (fun b n => match ks[n]? with
    | some x => b.modAux x.2.own.sidx fun a => a.keepSent (16 + n) x.2.own.sidx (sent (some x.1.val) x.2.slot)
    | none => b) b
  match dir with
  | some (r, o) => b.modAux o.sidx fun a => ({ a with runs := a.runs ++ [(5, r)] }).keepSent 6 o.sidx (sent none r.slot)
  | none => b
theorem collOut_eq (s : State) (d : DieId) (l : Launch) (b : Blk) : ∃ f ks dir out, collOut s d l b = markHomes ((s.modCoe d f).modSched d fun q => q.modBlk l.id b.l (collKeep (s.die d) ks dir)) d .coll out := ⟨_, _, _, _, rfl⟩
theorem collKeep_rest (y : Die) (ks : List (Fin 8 × KCtx)) (dir : Option (Run × Owner)) (b : Blk) : (collKeep y ks dir b).l = b.l ∧ (collKeep y ks dir b).slots = b.slots ∧ (collKeep y ks dir b).st = b.st := by
  have hfold {β : Type} (g : Blk → β → Blk) (hg : ∀ b n, (g b n).l = b.l ∧ (g b n).slots = b.slots ∧ (g b n).st = b.st) (ns : List β) (b : Blk) : (ns.foldl g b).l = b.l ∧ (ns.foldl g b).slots = b.slots ∧ (ns.foldl g b).st = b.st := by
    induction ns generalizing b with
    | nil => exact ⟨rfl, rfl, rfl⟩
    | cons n ns ih =>
      obtain ⟨h1, h2, h3⟩ := ih (g b n)
      obtain ⟨g1, g2, g3⟩ := hg b n
      exact ⟨h1.trans g1, h2.trans g2, h3.trans g3⟩
  unfold collKeep
  dsimp only
  have hctx := hfold (fun (b : Blk) (n : Nat) => match ks[n]? with
    | some x => b.modAux x.2.own.sidx fun a => a.keepSent (16 + n) x.2.own.sidx (y.refusedOf .coll x.2.slot (some x.1.val))
    | none => b) (fun b n => by split <;> exact ⟨rfl, rfl, rfl⟩) (List.range ks.length) { b with ctxs := ks.map (·.2) }
  split
  · exact hctx
  · exact hctx
theorem staysOut_collKeep (y : Die) (ks : List (Fin 8 × KCtx)) (dir : Option (Run × Owner)) : StaysOut (collKeep y ks dir) where
  l z := (collKeep_rest y ks dir z).1
  slots z hz := (collKeep_rest y ks dir z).2.1.trans hz
  st z hz := (collKeep_rest y ks dir z).2.2.trans hz
theorem collOut_ends (s : State) (d : DieId) (l : Launch) (b : Blk) : ((collOut s d l b).die d).slots = (s.die d).slots ∧ ((collOut s d l b).die d).lay = (s.die d).lay ∧
    ∃ f, StaysOut f ∧ tables ((collOut s d l b).die d) = (tables (s.die d)).modBlk l.id b.l f := by
  obtain ⟨f, ks, dir, out, he⟩ := collOut_eq s d l b
  have h := sameFrame_markHomes (d := d) ((s.modCoe d f).modSched d fun q => q.modBlk l.id b.l (collKeep (s.die d) ks dir)) .coll out
  have hd : ((s.modCoe d f).modSched d fun q => q.modBlk l.id b.l (collKeep (s.die d) ks dir)).die d = { s.die d with coe := f (s.die d).coe, sched := (s.die d).sched.modBlk l.id b.l (collKeep (s.die d) ks dir) } := by
    rw [modSched_die, State.modCoe, State.die_modDie_same]
  rw [SameFrame, hd] at h
  rw [he]
  exact ⟨congrArg Prod.fst h, congrArg (fun z => z.2.1) h, _, staysOut_collKeep _ ks dir, congrArg (fun z => z.2.2) h⟩
/-- Slots, layout, teams and swap queues stand, and a block that is out stays out. -/
structure OutStands (d : DieId) (s t : State) : Prop where
  slots : (t.die d).slots = (s.die d).slots
  lay : (t.die d).lay = (s.die d).lay
  teams : (t.die d).sched.teams = (s.die d).sched.teams
  sq : (t.die d).sched.sq = (s.die d).sched.sq
  out : ∀ lid n w, IsOut (tables (s.die d)) lid n w → IsOut (tables (t.die d)) lid n w
theorem OutStands.refl (s : State) (d : DieId) : OutStands d s s := ⟨rfl, rfl, rfl, rfl, fun _ _ _ h => h⟩
theorem OutStands.trans {s t u : State} {d : DieId} (h : OutStands d s t) (g : OutStands d t u) : OutStands d s u :=
  ⟨g.slots.trans h.slots, g.lay.trans h.lay, g.teams.trans h.teams, g.sq.trans h.sq, fun a b c i => g.out a b c (h.out a b c i)⟩
theorem SameFrame.outStands {s t : State} {d : DieId} (h : SameFrame d s t) : OutStands d s t := by
  have ht : tables (t.die d) = tables (s.die d) := congrArg (fun z => z.2.2) h
  have hteams := congrArg Sched.teams ht
  have hsq := congrArg Sched.sq ht
  exact ⟨congrArg Prod.fst h, congrArg (fun z => z.2.1) h, hteams, hsq, fun _ _ _ i => ht ▸ i⟩
theorem outStands_modBlk {s t : State} {d : DieId} {a n : Nat} {f : Blk → Blk} (hs : (t.die d).slots = (s.die d).slots) (hl : (t.die d).lay = (s.die d).lay) (hf : StaysOut f)
    (ht : tables (t.die d) = (tables (s.die d)).modBlk a n f) : OutStands d s t := by
  have hteams := congrArg Sched.teams ht
  have hsq := congrArg Sched.sq ht
  exact ⟨hs, hl, hteams, hsq, fun _ _ _ i => ht ▸ i.modBlk a n hf⟩
theorem outStands_collOut (s : State) (d : DieId) (l : Launch) (b : Blk) : OutStands d s (collOut s d l b) := by
  obtain ⟨hs, hl, f, hf, ht⟩ := collOut_ends s d l b
  exact outStands_modBlk hs hl hf ht
theorem outStands_foldl {β : Type} {d : DieId} {f : State → β → State} (h : ∀ s b, OutStands d s (f s b)) (l : List β) (s : State) : OutStands d s (l.foldl f s) := by
  induction l generalizing s with
  | nil => exact .refl s d
  | cons b l ih => exact (h s b).trans (ih _)

/-- The tables once a team has gone: it is no team of them any more, and its swapped blocks queue. -/
def goneTables (l : Launch) (x : Team) (q : Sched) : Sched :=
  let q := { q with teams := q.teams.filter fun z => !(z.lid == x.lid && z.t == x.t), out := if x.barred then q.out ++ [(x.lid, x.t)] else q.out }
  if ((l.teamBlks x.t).filter fun b => b.st == .swapped).isEmpty then q else q.joinSwap l x.t
theorem joinSwap_ends (q : Sched) (l : Launch) (t : Nat) : (q.joinSwap l t).sq = q.sq ++ [(l.id, t)] ∧ (q.joinSwap l t).teams = q.teams ∧ (q.joinSwap l t).launches = q.launches := by
  unfold Sched.joinSwap
  dsimp only
  split
  · exact ⟨rfl, rfl, rfl⟩
  · exact ⟨rfl, rfl, rfl⟩
theorem goneTables_ends (q : Sched) (l : Launch) (x : Team) : (goneTables l x q).launches = q.launches ∧ (goneTables l x q).teams = (q.teams.filter fun z => !(z.lid == x.lid && z.t == x.t)) ∧
    ((l.teamBlks x.t).filter (fun b => b.st == .swapped) ≠ [] → (goneTables l x q).sq = q.sq ++ [(l.id, x.t)]) := by
  unfold goneTables
  dsimp only
  split
  next h => exact ⟨rfl, rfl, fun hn => absurd (List.isEmpty_iff.1 h) hn⟩
  next h =>
    obtain ⟨h1, h2, h3⟩ := joinSwap_ends { q with teams := q.teams.filter fun z => !(z.lid == x.lid && z.t == x.t), out := if x.barred then q.out ++ [(x.lid, x.t)] else q.out } l x.t
    exact ⟨h3, h2, fun _ => h1⟩
/-- What a team's going leaves. -/
structure Went (d : DieId) (l : Launch) (x : Team) (s t : State) : Prop where
  slots : (t.die d).slots = (s.die d).slots
  lay : (t.die d).lay = (s.die d).lay
  teams : (t.die d).sched.teams = (s.die d).sched.teams.filter fun z => !(z.lid == x.lid && z.t == x.t)
  sq : (l.teamBlks x.t).filter (fun b => b.st == .swapped) ≠ [] → (t.die d).sched.sq = (s.die d).sched.sq ++ [(l.id, x.t)]
  out : ∀ lid n w, IsOut (tables (s.die d)) lid n w → IsOut (tables (t.die d)) lid n w
theorem jSwapDone_keeps {α : Type} {F : Die → α} (hF : LiveKeeps F) (y : Die) (d : DieId) (a : Nat) : F (y.jSwapDone d a) = F y := by
  unfold Die.jSwapDone
  cases y.jSwapAt d a with
  | none => rfl
  | some i =>
    change F (y.jDone d i) = F y
    unfold Die.jDone
    split
    · exact hF.poke y _ _ _
    · rfl
theorem isOut_congr {q r : Sched} (h : r.launches = q.launches) {lid n w : Nat} (i : IsOut q lid n w) : IsOut r lid n w := by
  unfold IsOut Sched.launch at i ⊢
  rw [h]
  exact i
theorem teamGone_went (s : State) (d : DieId) (l : Launch) (x : Team) : Went d l x s (teamGone s d l x) := by
  let bs := (l.teamBlks x.t).filter fun b => b.st == .swapped
  let u := bs.foldl (fun s b => collOut s d l b) (stopCtx s d fun k => bs.any fun b => k.ofBlk l.id b.l)
  have hu : OutStands d s u := (sameFrame_stopCtx (d := d) s _).outStands.trans (outStands_foldl (fun s b => outStands_collOut s d l b) bs _)
  have he : (teamGone s d l x).die d = Die.jSwapDone { u.die d with sched := goneTables l x (u.die d).sched } d (l.saveAt (x.t * l.teamsz)) := by
    change ((u.modSched d (goneTables l x)).modDie d fun y => y.jSwapDone d (l.saveAt (x.t * l.teamsz))).die d = _
    rw [State.die_modDie_same, modSched_die]
  have hf := jSwapDone_keeps liveKeeps_frame { u.die d with sched := goneTables l x (u.die d).sched } d (l.saveAt (x.t * l.teamsz))
  rw [← he] at hf
  obtain ⟨hl, ht, hq⟩ := goneTables_ends (u.die d).sched l x
  have htab : tables ((teamGone s d l x).die d) = tables { u.die d with sched := goneTables l x (u.die d).sched } := congrArg (fun z => z.2.2) hf
  have hteams := congrArg Sched.teams htab
  have hsq := congrArg Sched.sq htab
  have hlau := congrArg Sched.launches htab
  refine ⟨(congrArg Prod.fst hf).trans hu.slots, (congrArg (fun z => z.2.1) hf).trans hu.lay, Eq.trans hteams (Eq.trans ht (by rw [hu.teams])), fun hn => Eq.trans hsq (Eq.trans (hq hn) (by rw [hu.sq])), fun lid n w i => ?_⟩
  exact isOut_congr (Eq.trans hlau hl) (hu.out lid n w i)

/-- A poke of the save area. -/
theorem csPoke_keeps {α : Type} {F : Die → α} (hF : LiveKeeps F) (y : Die) (ls : List (Nat × Nat)) (va : Nat) (bs : List Byte) (psn : Bool) : F (y.csPoke ls va bs psn) = F y := by
  unfold Die.csPoke
  refine foldl_keeps F (fun z c => ?_) _ y
  split
  · exact hF.poke z _ _ _
  · rfl
theorem finishOut_stays {s : State} {d : DieId} {l : Launch} {x : Team} (h : (s.die d).collQuiet d = false) : finishOut s d l x = s := by
  unfold finishOut
  dsimp only
  rw [if_pos]
  unfold Die.collStopped
  rw [h]
  rfl
theorem finishOut_went {s : State} {d : DieId} {l : Launch} {x : Team} (h : (s.die d).collStopped d l ((l.teamBlks x.t).filter fun b => b.st == .swapped) = true) : Went d l x s (finishOut s d l x) := by
  let bs := (l.teamBlks x.t).filter fun b => b.st == .swapped
  let y := (((s.die d).lateImages l x bs ++ (s.die d).dirImages l bs).foldl (fun y i => i.2.foldl (fun y p => y.csPoke x.saved (i.1 + p.1) p.2.1 p.2.2) y) (s.die d))
  have he : finishOut s d l x = teamGone (s.modDie d fun _ => y) d l x := by
    unfold finishOut
    dsimp only
    rw [if_neg (by rw [h]; decide)]
  have hf : SameFrame d s (s.modDie d fun _ => y) := by
    rw [SameFrame, State.die_modDie_same]
    exact foldl_keeps frame (fun y i => foldl_keeps frame (fun y p => csPoke_keeps liveKeeps_frame y _ _ _ _) _ y) _ _
  have ho := hf.outStands
  have hw := teamGone_went (s.modDie d fun _ => y) d l x
  rw [he]
  exact ⟨hw.slots.trans ho.slots, hw.lay.trans ho.lay, hw.teams.trans (by rw [ho.teams]), fun hn => (hw.sq hn).trans (by rw [ho.sq]), fun a b c i => hw.out a b c (ho.out a b c i)⟩
/-- A team that went is none any more, and queues. -/
theorem Went.gone {s t : State} {d : DieId} {l : Launch} {x : Team} (h : Went d l x s t) (hb : (l.teamBlks x.t).filter (fun b => b.st == .swapped) ≠ []) :
    (∀ z ∈ (t.die d).sched.teams, ¬ (z.lid = x.lid ∧ z.t = x.t)) ∧ (t.die d).sched.sq = (s.die d).sched.sq ++ [(l.id, x.t)] := by
  refine ⟨fun z hz hn => ?_, h.sq hb⟩
  rw [h.teams] at hz
  have := (List.mem_filter.1 hz).2
  rw [hn.1, hn.2] at this
  simp at this
/-- With no context at work the collective engine has stopped. -/
theorem collStopped_idle {y : Die} {d : DieId} {l : Launch} {bs : List Blk} (hq : y.collQuiet d = true) (hc : ∀ i c, vget y.coe.ctx i = some c → c.run = none) (hr : y.coe.run = none) : y.collStopped d l bs = true := by
  have hctx : ∀ b, (y.ctxsOf l.id b).all (fun c => c.run.isNone || !c.up || y.ctxHeld c) = true := fun b => by
    refine List.all_eq_true.2 fun c hm => ?_
    obtain ⟨o, ho, hf⟩ := List.mem_filterMap.1 hm
    obtain ⟨i, hi, rfl⟩ := List.getElem_of_mem ho
    rw [Vector.length_toList] at hi
    have hg : vget y.coe.ctx ⟨i, hi⟩ = some c := (Option.filter_eq_some_iff.1 hf).1
    rw [hc _ _ hg]
    rfl
  unfold Die.collStopped Die.dirOf
  rw [hq, hr, List.all_eq_true.2 fun b _ => hctx b.l]
  rfl
theorem collQuiet_congr {y z : Die} (h : collView z = collView y) (d : DieId) : z.collQuiet d = y.collQuiet d := by
  have h1 : z.coe.ag.sb = y.coe.ag.sb := congrArg Prod.fst h
  have h2 : z.coe.ag.pend = y.coe.ag.pend := congrArg (fun v => v.2.1) h
  have h3 : z.held = y.held := congrArg (fun v => v.2.2.1) h
  unfold Die.collQuiet
  rw [h1, h2, h3]
end Gone

end Sys2Proof.Proofs
end

section
/-! SUPPORT. A pre-emption is completed: what its step is in each case (O45). -/

namespace Sys2Proof.Proofs

open Sys2Proof Sys2Proof.Machine Sys2Proof.Laws

section Preempt
variable {s : State} {d : DieId} {l : Launch} {x : Team} {j : SlotId}

/-- The blocks of a team that hold slots. -/
def heldBlks (l : Launch) (x : Team) : List Blk := (l.teamBlks x.t).filter fun b => !b.slots.isEmpty
/-- The state once the blocks of a team have left their slots. -/
def slotsOut (s : State) (d : DieId) (l : Launch) (x : Team) (ls : List (Nat × Nat)) : State :=
  ((((heldBlks l x).foldl (fun s b => outBlk s d l b) s).modSched d fun q => q.modTeam x.lid x.t fun z => { z with freed := some (l.teamSlots x.t), saved := ls }).modDie d
    fun y => (y.traceTeam d l (l.teamSlots x.t) true).afterGive d)
/-- The end of a swap-out, of the team as it now stands. -/
def outEnd (s : State) (d : DieId) (lid t : Nat) : State := match (s.die d).sched.team lid t, (s.die d).sched.launch lid with
  | some x, some l => finishOut s d l x
  | _, _ => s
theorem next_outEnd (u : State) (d : DieId) (lid t : Nat) : (match (u.die d).sched.team lid t, (u.die d).sched.launch lid with
    | some x, some l => .next (finishOut u d l x)
    | _, _ => .next u : Out) = .next (outEnd u d lid t) := by
  unfold outEnd
  cases (u.die d).sched.team lid t with
  | none => rfl
  | some x =>
    cases (u.die d).sched.launch lid with
    | none => rfl
    | some l => rfl
/-- What a save leaves to do. -/
def afterSave (s : State) (d : DieId) (l : Launch) (x : Team) : XRes (List (Nat × Nat)) → Out
  | .wait _ => .next s
  | .fault y _ a =>
    match l.areaBlk (heldBlks l x) a with
    | some b => .next (collFault (s.modDie d fun _ => y) d (b.slots.getD 0 0) 29 (BitVec.ofNat 64 (l.saveAt b.l)) (BitVec.ofNat 64 a))
    | none => .next s
  | .ok y ls => .next (outEnd (slotsOut (s.modDie d fun _ => y) d l x ls) d x.lid x.t)
variable (hx : x.t < 2 ^ 32) (ht : (s.die d).sched.team x.lid x.t = some x) (hl : (s.die d).sched.launch x.lid = some l) (hon : (s.die d).schedOn d = true) (hv : x.leaving = true)
include hx ht hl hon hv

theorem preempt_freed (hf : x.freed ≠ none) : exec (.preemptionComplete d (2 ^ 32 * x.lid + x.t) j .ok) s = .next (finishOut s d l x) := by
  rw [exec_preemptionComplete]
  unfold execPreemptionComplete
  rw [pairOf_mk hx]
  dsimp only
  rw [ht, hl]
  dsimp only
  rw [if_neg (by rw [hon, hv]; decide), if_pos (Option.isSome_iff_ne_none.2 hf)]
theorem preempt_waits (hf : x.freed = none) (hk : (l.teamSlots x.t).all (s.die d).slotDone = false) : exec (.preemptionComplete d (2 ^ 32 * x.lid + x.t) j .ok) s = .next s := by
  rw [exec_preemptionComplete]
  unfold execPreemptionComplete
  rw [pairOf_mk hx]
  dsimp only
  rw [ht, hl]
  dsimp only
  rw [if_neg (by rw [hon, hv]; decide), if_neg (by rw [hf]; decide), if_pos (by rw [hk]; rfl)]
theorem preempt_saves (hf : x.freed = none) (hk : (l.teamSlots x.t).all (s.die d).slotDone = true) (hh : (l.teamSlots x.t).any (fun k => (s.slot d k).heldBy 7) = false) :
    exec (.preemptionComplete d (2 ^ 32 * x.lid + x.t) j .ok) s = afterSave s d l x (saveTeam d l x (heldBlks l x) (s.die d)) := by
  have hm : (if (l.teamSlots x.t).contains j then s.modDie d fun y => y.arrayMeet d j .ok fun _ => true else s) = s := by
    split
    · exact modDie_self (by unfold Die.arrayMeet; split <;> rfl)
    · rfl
  rw [exec_preemptionComplete]
  unfold execPreemptionComplete
  rw [pairOf_mk hx]
  dsimp only
  rw [ht, hl]
  dsimp only
  rw [if_neg (by rw [hon, hv]; decide), if_neg (by rw [hf]; decide), if_neg (by rw [hk, hh]; decide), hm]
  change _ = afterSave s d l x (saveTeam d l x ((l.teamBlks x.t).filter fun b => !b.slots.isEmpty) (s.die d))
  generalize saveTeam d l x ((l.teamBlks x.t).filter fun b => !b.slots.isEmpty) (s.die d) = r
  cases r with
  | wait y => rfl
  | fault y c a => rfl
  | ok y ls =>
    exact next_outEnd (slotsOut (s.modDie d fun _ => y) d l x ls) d x.lid x.t
end Preempt

end Sys2Proof.Proofs
end

section
/-! SUPPORT. The slots of a leaving team are given back, and the statements of slices and swap-outs (O45). -/

namespace Sys2Proof.Proofs

open Sys2Proof Sys2Proof.Machine Sys2Proof.Laws

section SlotsOut
variable {s : State} {d : DieId} {l : Launch} {x : Team}

theorem launch_id {q : Sched} {n : Nat} (h : q.launch n = some l) : l.id = n := eq_of_beq (List.find?_some (p := fun z : Launch => z.id == n) h)
theorem mem_heldBlks {b : Blk} : b ∈ heldBlks l x ↔ (b ∈ l.blks ∧ l.teamOf b.l = x.t) ∧ b.slots ≠ [] := by
  unfold heldBlks Launch.teamBlks
  rw [List.mem_filter, List.mem_filter]
  simp
theorem heldBlks_blk {b : Blk} (h : b ∈ heldBlks l x) : ∃ z, l.blk b.l = some z := by
  have hb := (mem_heldBlks.1 h).1.1
  exact Option.isSome_iff_exists.1 (List.find?_isSome.2 ⟨b, hb, beq_self_eq_true _⟩)
theorem mem_teamSlots {k : SlotId} (h : k ∈ l.teamSlots x.t) : ∃ b ∈ heldBlks l x, k ∈ b.slots := by
  obtain ⟨b, hb, hk⟩ := List.mem_flatMap.1 h
  have hm := List.mem_filter.1 hb
  exact ⟨b, mem_heldBlks.2 ⟨⟨hm.1, eq_of_beq hm.2⟩, List.ne_nil_of_mem hk⟩, hk⟩
/-- What the leaving of a team's blocks leaves. -/
structure SlotsGone (d : DieId) (l : Launch) (x : Team) (s u : State) : Prop where
  vacant : ∀ k ∈ l.teamSlots x.t, Vacant (u.die d) k
  coll : collView (u.die d) = collView (s.die d)
  out : ∀ b ∈ heldBlks l x, IsOut (tables (u.die d)) l.id b.l l.teamsz
  team : ∃ z, (u.die d).sched.team x.lid x.t = some z ∧ z.lid = x.lid ∧ z.t = x.t ∧ z.freed = some (l.teamSlots x.t) ∧ z.leaving = x.leaving
  sq : (u.die d).sched.sq = (s.die d).sched.sq
  launch : ∃ l', (u.die d).sched.launch l.id = some l'
theorem slotsOut_gone (ht : (s.die d).sched.team x.lid x.t = some x) (hl : (s.die d).sched.launch x.lid = some l) {y : Die} (hq : y.sched = (s.die d).sched) (hc : y.coe = (s.die d).coe) (hh : y.held = (s.die d).held)
    (ls : List (Nat × Nat)) : SlotsGone d l x s (slotsOut (s.modDie d fun _ => y) d l x ls) := by
  have hid := launch_id hl
  let u := (heldBlks l x).foldl (fun s b => outBlk s d l b) (s.modDie d fun _ => y)
  let f : Team → Team := fun z => { z with freed := some (l.teamSlots x.t), saved := ls }
  let v : Die := { u.die d with sched := (u.die d).sched.modTeam x.lid x.t f }
  have hy : (s.modDie d fun _ => y).die d = y := State.die_modDie_same _ _ _
  obtain ⟨h1, -, h3, h4, -, h6, h7, l', h8⟩ := outAll_ends (d := d) l (heldBlks l x) (s.modDie d fun _ => y) ⟨l, by rw [hy, hq, hid]; exact hl, rfl, fun b hb => heldBlks_blk hb⟩
  rw [hy] at h3 h6 h7
  have hcv : collView y = collView (s.die d) := by
    unfold collView
    rw [hc, hh]
  have he : (slotsOut (s.modDie d fun _ => y) d l x ls).die d = (v.traceTeam d l (l.teamSlots x.t) true).afterGive d := by
    change ((u.modSched d fun q => q.modTeam x.lid x.t f).modDie d fun y => (y.traceTeam d l (l.teamSlots x.t) true).afterGive d).die d = _
    rw [State.die_modDie_same, modSched_die]
  have hkeep {α : Type} {F : Die → α} (hF : LiveKeeps F) : F ((slotsOut (s.modDie d fun _ => y) d l x ls).die d) = F v := by
    rw [he]
    exact (afterGive_keeps hF d _).trans (traceTeam_keeps hF d _ _ _ _)
  have hf := hkeep liveKeeps_frame
  have htab : tables ((slotsOut (s.modDie d fun _ => y) d l x ls).die d) = tables v := congrArg (fun z => z.2.2) hf
  have hteam := congrArg (fun q : Sched => q.team x.lid x.t) htab
  have hsq := congrArg Sched.sq htab
  have hlau := congrArg Sched.launches htab
  refine ⟨fun k hk => ?_, (hkeep liveKeeps_collView).trans (Eq.trans h3 hcv), fun b hb => isOut_congr hlau (h4 b hb), ⟨f x, ?_, rfl, rfl, rfl, rfl⟩, ?_, l', ?_⟩
  · obtain ⟨b, hb, hk⟩ := mem_teamSlots hk
    exact vacant_of_frame (congrArg Prod.fst hf) (congrArg (fun z => z.2.1) hf) (h1 b hb k hk)
  · refine Eq.trans hteam ?_
    change ((u.die d).sched.modTeam x.lid x.t f).team x.lid x.t = some (f x)
    rw [team_modTeam (u.die d).sched x.lid x.t (f := f) fun z => ⟨rfl, rfl, id⟩]
    have : (u.die d).sched.team x.lid x.t = some x := by
      unfold Sched.team at ht ⊢
      rw [h6, hq]
      exact ht
    rw [this]
    rfl
  · exact Eq.trans hsq (h7.trans (by rw [hq]))
  · unfold Sched.launch at h8 ⊢
    have hl2 : ((slotsOut (s.modDie d fun _ => y) d l x ls).die d).sched.launches = (u.die d).sched.launches := hlau
    rw [hl2]
    exact h8
/-- A block that is out is one of its team's that are swapped. -/
theorem swapped_ne_nil {q : Sched} {l' : Launch} {b : Blk} (hb : b ∈ heldBlks l x) (h : IsOut q l.id b.l l.teamsz) (hl : q.launch l.id = some l') : (l'.teamBlks x.t).filter (fun b => b.st == .swapped) ≠ [] := by
  obtain ⟨l2, b', h1, h2, h3, -, h5⟩ := h
  obtain rfl : l2 = l' := Option.some.inj (h1.symm.trans hl)
  have hk : b'.l = b.l := eq_of_beq (List.find?_some (p := fun z : Blk => z.l == b.l) h3)
  have ht : l2.teamOf b'.l = x.t := by
    rw [← (mem_heldBlks.1 hb).1.2, hk]
    unfold Launch.teamOf
    rw [h2]
  refine List.ne_nil_of_mem (a := b') (List.mem_filter.2 ⟨List.mem_filter.2 ⟨List.mem_of_find?_eq_some h3, ?_⟩, ?_⟩)
  · rw [ht]
    exact beq_self_eq_true _
  · rw [h5]
    rfl
end SlotsOut

end Sys2Proof.Proofs
end

section
/-! SUPPORT. The statements of slices and swap-outs (O45). -/

namespace Sys2Proof.Proofs

open Sys2Proof Sys2Proof.Machine Sys2Proof.Laws

theorem collFault_held {s : State} {d : DieId} {k : SlotId} {code : Nat} {info addr : Word} (hf : (s.slot d k).heldBy 7 = false) : HeldFault (.next (collFault s d k code info addr)) d k 7 code addr 0 := by
  have hn : vget (s.slot d k).flt 7 = none := Option.isNone_iff_eq_none.1 (Option.isSome_eq_false_iff.1 hf)
  refine ⟨_, rfl, ⟨(s.die d).faultRec d k 7 ⟨code, 0, 0, addr, 0, 0, info⟩, s.openRec d k 7, none⟩, ?_, rfl, rfl, rfl⟩
  unfold collFault
  rw [takeFault_slot, show agNum 7 = 7 from rfl]
  simp [slotFault, hn, show agNum 7 = 7 from rfl]

section Completed
variable {s : State} {d : DieId} {l : Launch} {x : Team} {j : SlotId}
variable (hx : x.t < 2 ^ 32) (ht : (s.die d).sched.team x.lid x.t = some x) (hl : (s.die d).sched.launch x.lid = some l) (hon : (s.die d).schedOn d = true) (hv : x.leaving = true)
include hx ht hl hon hv

/-- The team's last step: the collective engine has stopped, and it joins its swap queue. -/
theorem preempt_gone (hf : x.freed ≠ none) (hout : (l.teamBlks x.t).filter (fun b => b.st == .swapped) ≠ []) (hc : (s.die d).collStopped d l ((l.teamBlks x.t).filter fun b => b.st == .swapped) = true) :
    ∃ t, exec (.preemptionComplete d (2 ^ 32 * x.lid + x.t) j .ok) s = .next t ∧ (∀ z ∈ (t.die d).sched.teams, ¬ (z.lid = x.lid ∧ z.t = x.t)) ∧ (t.die d).sched.sq = (s.die d).sched.sq ++ [(x.lid, x.t)] := by
  obtain ⟨hteams, hsq⟩ := (finishOut_went (x := x) hc).gone hout
  rw [launch_id hl] at hsq
  exact ⟨_, preempt_freed hx ht hl hon hv hf, hteams, hsq⟩
/-- The slots go back once all agents have acknowledged. -/
theorem preempt_out (hf : x.freed = none) (hk : ∀ k ∈ l.teamSlots x.t, (∀ i : Fin 7, i.val < 6 → vget (s.slot d k).acked i = true) ∧ (s.slot d k).heldBy 7 = false) {y : Die} {ls : List (Nat × Nat)}
    (hs : saveTeam d l x (heldBlks l x) (s.die d) = .ok y ls) (hq : y.sched = (s.die d).sched) (hc : y.coe = (s.die d).coe) (hh : y.held = (s.die d).held) :
    ∃ t, exec (.preemptionComplete d (2 ^ 32 * x.lid + x.t) j .ok) s = .next t ∧
      (heldBlks l x ≠ [] → (s.die d).collQuiet d = true → (∀ i c, vget (s.die d).coe.ctx i = some c → c.run = none) → (s.die d).coe.run = none →
        (∀ z ∈ (t.die d).sched.teams, ¬ (z.lid = x.lid ∧ z.t = x.t)) ∧ (t.die d).sched.sq = (s.die d).sched.sq ++ [(x.lid, x.t)]) ∧
      ((s.die d).collQuiet d = false → ∃ z, (t.die d).sched.team x.lid x.t = some z ∧ z.freed = some (l.teamSlots x.t) ∧ z.leaving = true ∧ (t.die d).sched.sq = (s.die d).sched.sq) ∧
      (∀ k ∈ l.teamSlots x.t, (t.ctl d k).own = none ∧ (t.die d).layOf k = Lay.none) ∧
      ∀ b ∈ heldBlks l x, ∃ l' b', (t.die d).sched.launch l.id = some l' ∧ l'.blk b.l = some b' ∧ b'.slots = [] ∧ b'.st = .swapped := by
  have hid := launch_id hl
  let u := slotsOut (s.modDie d fun _ => y) d l x ls
  obtain ⟨hvac, hcoll, hout, ⟨z, hz, hz1, hz2, hz3, hz4⟩, hsq, l', hl'⟩ := slotsOut_gone ht hl hq hc hh ls
  have hl2 : (u.die d).sched.launch x.lid = some l' := hid ▸ hl'
  have hid' : l'.id = l.id := launch_id hl'
  have hend : outEnd u d x.lid x.t = finishOut u d l' z := by
    unfold outEnd
    rw [hz, hl2]
  have hdone : (l.teamSlots x.t).all (s.die d).slotDone = true := List.all_eq_true.2 fun k hkm => List.all_eq_true.2 fun a _ => (hk k hkm).1 ⟨a.val, by omega⟩ a.isLt
  have hheld : (l.teamSlots x.t).any (fun k => (s.slot d k).heldBy 7) = false := List.any_eq_false.2 fun k hkm => by rw [(hk k hkm).2]; decide
  have hexec : exec (.preemptionComplete d (2 ^ 32 * x.lid + x.t) j .ok) s = .next (finishOut u d l' z) := by
    rw [preempt_saves hx ht hl hon hv hf hdone hheld, hs, ← hend]
    rfl
  have hquiet := collQuiet_congr hcoll d
  have hstands : ((finishOut u d l' z).die d).slots = (u.die d).slots ∧ ((finishOut u d l' z).die d).lay = (u.die d).lay ∧ ∀ lid n w, IsOut (tables (u.die d)) lid n w → IsOut (tables ((finishOut u d l' z).die d)) lid n w := by
    cases hst : (u.die d).collStopped d l' ((l'.teamBlks z.t).filter fun b => b.st == .swapped) with
    | true =>
      have hw := finishOut_went (x := z) hst
      exact ⟨hw.slots, hw.lay, hw.out⟩
    | false =>
      have : finishOut u d l' z = u := by
        unfold finishOut
        dsimp only
        rw [if_pos (by rw [hst]; rfl)]
      rw [this]
      exact ⟨rfl, rfl, fun _ _ _ h => h⟩
  obtain ⟨hslots, hlay, hkeep⟩ := hstands
  refine ⟨_, hexec, fun hne hcq hctx hrun => ?_, fun hcq => ?_, fun k hkm => vacant_of_frame hslots hlay (hvac k hkm), fun b hb => ?_⟩
  · obtain ⟨b, hb⟩ := List.exists_mem_of_ne_nil _ hne
    have hcoe : (u.die d).coe.ctx = (s.die d).coe.ctx ∧ (u.die d).coe.run = (s.die d).coe.run := ⟨congrArg (fun v => v.2.2.2.1) hcoll, congrArg (fun v => v.2.2.2.2) hcoll⟩
    have hst : (u.die d).collStopped d l' ((l'.teamBlks z.t).filter fun b => b.st == .swapped) = true :=
      collStopped_idle (hquiet.trans hcq) (by rw [hcoe.1]; exact hctx) (hcoe.2.trans hrun)
    have hsw : (l'.teamBlks z.t).filter (fun b => b.st == .swapped) ≠ [] := by
      rw [hz2]
      exact swapped_ne_nil hb (hout b hb) (q := tables (u.die d)) hl'
    obtain ⟨hteams, hq2⟩ := (finishOut_went hst).gone hsw
    rw [hid', hid, hz2, hsq] at hq2
    rw [hz1, hz2] at hteams
    exact ⟨hteams, hq2⟩
  · rw [finishOut_stays (hquiet.trans hcq)]
    exact ⟨z, hz, hz3, hz4.trans hv, hsq⟩
  · obtain ⟨l2, b', h1, -, h3, h4, h5⟩ := hkeep _ _ _ (hout b hb)
    exact ⟨l2, b', h1, h3, h4, h5⟩
/-- A fault of the save. -/
theorem preempt_faults (hf : x.freed = none) (hk : ∀ k ∈ l.teamSlots x.t, (∀ i : Fin 7, i.val < 6 → vget (s.slot d k).acked i = true) ∧ (s.slot d k).heldBy 7 = false) {y : Die} {c a : Nat} {b : Blk} {k : SlotId}
    (hs : saveTeam d l x (heldBlks l x) (s.die d) = .fault y c a) (hb : l.areaBlk (heldBlks l x) a = some b) (hsl : b.slots.getD 0 0 = k) (hh : (y.slot k).heldBy 7 = false) :
    HeldFault (exec (.preemptionComplete d (2 ^ 32 * x.lid + x.t) j .ok) s) d k 7 29 (BitVec.ofNat 64 a) 0 := by
  have hdone : (l.teamSlots x.t).all (s.die d).slotDone = true := List.all_eq_true.2 fun k hkm => List.all_eq_true.2 fun a _ => (hk k hkm).1 ⟨a.val, by omega⟩ a.isLt
  have hheld : (l.teamSlots x.t).any (fun k => (s.slot d k).heldBy 7) = false := List.any_eq_false.2 fun k hkm => by rw [(hk k hkm).2]; decide
  rw [preempt_saves hx ht hl hon hv hf hdone hheld, hs]
  unfold afterSave
  dsimp only
  rw [hb]
  dsimp only
  rw [hsl]
  exact collFault_held (by rw [State.slot, State.die_modDie_same]; exact hh)
end Completed

section Class0
variable {s : State} {d : DieId}

/-- The candidate whose slots are cleared is the first one in its class 0 wait, where that one has slots to clear. -/
theorem class0_clears (s : State) (d : DieId) : ∃ t ks, exec (.class0Preempt d) s = .next t ∧ Clears (s.die d) d t ks ∧
    ∀ c used ts, bitAt ((s.die d).getReg d rC0RES) 63 = true → (s.die d).schedOn d = true → ((s.die d).waiting d).find? (fun c => c.1.cls == 0 && !c.1.early) = some (c, used) → (s.die d).class0Clear d c used = some ts →
      ∀ l, (s.die d).sched.launch c.lid = some l → c.blks.length = 1 → ∃ b, placement l.shape b = some ks := by
  have hstep := exec_class0Preempt d s
  rw [class0Preempt_eq] at hstep
  cases hcl : cleared (s.die d) d with
  | none =>
    rw [hcl] at hstep
    refine ⟨s, [], hstep, clears_none, fun c used ts hb hon hf hts => ?_⟩
    rw [cleared_first hb hon hf hts] at hcl
    exact absurd hcl (by simp)
  | some ts =>
    rw [hcl] at hstep
    obtain ⟨hon, hsome⟩ := cleared_some hcl
    by_cases hfirst : ∃ c used, bitAt ((s.die d).getReg d rC0RES) 63 = true ∧ ((s.die d).waiting d).find? (fun c => c.1.cls == 0 && !c.1.early) = some (c, used) ∧ (s.die d).class0Clear d c used = some ts
    · obtain ⟨c, used, -, hf, hc⟩ := hfirst
      obtain ⟨ks, l, hl, rfl, hslots, hcls, hone⟩ := class0Clear_some hc
      refine ⟨_, ks, hstep, clears_teams hon hslots hcls, fun c' used' _ _ _ hf' _ l' hl' => ?_⟩
      obtain ⟨rfl, rfl⟩ := Prod.mk.inj (Option.some.inj (hf'.symm.trans hf))
      obtain rfl : l' = l := Option.some.inj (hl'.symm.trans hl)
      exact hone
    · obtain ⟨c, used, hc⟩ := hsome
      obtain ⟨ks, l, -, rfl, hslots, hcls, -⟩ := class0Clear_some hc
      refine ⟨_, ks, hstep, clears_teams hon hslots hcls, fun c' used' ts' hb hon' hf' hts' => ?_⟩
      have := cleared_first hb hon' hf' hts'
      rw [hcl] at this
      exact absurd ⟨c', used', hb, hf', hts'.trans this.symm⟩ hfirst
end Class0

/-- Settles O45: the ends of slices by the equation of their step, a pre-emption for class 0 by the slots that its first candidate clears, and the completion of a swap-out by what each block's leaving and the collective engine's part keep. -/
theorem slicesAndSwapOuts : Obligations.SlicesAndSwapOuts := by
  refine ⟨⟨?_, ?_, ?_⟩, ?_⟩
  · intro s d x l hx ht hl hon hv hres hearl n y ended
    have he := teamEarly_false hl hearl
    refine ⟨fun hend hm => ?_, fun hend hm ho => ?_, fun h => ?_⟩
    · rw [exec_sliceEnd]
      exact sliceEnd_stays hx ht hl hon hv hres he hm hend
    · rw [exec_sliceEnd]
      exact sliceEnd_again hx ht hl hon hv hres he hm hend ho
    · obtain ⟨barred, hexec⟩ := sliceEnd_leaves hx ht hl hon hv hres (h.imp id .inl)
      obtain ⟨z, hz, hzl⟩ := leaveTeam_leaves (barred := barred) ht hl hon
      rw [exec_sliceEnd]
      exact ⟨_, z, hexec, hz, hzl, fun k hk => leaveTeam_asks ht hl hv hon hk⟩
  · intro s d x l hx ht hl hon hv hres he hm
    obtain ⟨barred, hexec⟩ := sliceEnd_leaves hx ht hl hon hv hres (.inr (.inr ⟨he, hm⟩))
    obtain ⟨z, hz, hzl⟩ := leaveTeam_leaves (barred := barred) ht hl hon
    rw [exec_sliceEnd]
    exact ⟨_, z, hexec, hz, hzl⟩
  · intro s d
    obtain ⟨t, ks, hexec, hc, hfirst⟩ := class0_clears s d
    refine ⟨t, ks, hexec, hc.slots, hc.began, hc.leave, fun c used l b k0 hb hon hf hl hteam hsh hz hone hctx hp hk hcls => ?_⟩
    obtain ⟨ts, hts⟩ := class0Clear_isSome hl hteam hsh hz hone hctx hp hk hcls
    exact hfirst c used ts hb hon hf hts l hl hone
  · intro s d x l j hx ht hl hon hv n ks bs gone
    refine ⟨fun hf ⟨k, hk, i, hi, ha⟩ => ?_, fun hf hc => ?_, fun hf hout hc => preempt_gone hx ht hl hon hv hf hout hc, fun hf hk => ⟨fun y u hs hq hc hh => ?_, fun y c a b k hs hb hsl hh => ?_⟩⟩
    · refine preempt_waits hx ht hl hon hv hf ?_
      refine List.all_eq_false.2 ⟨k, hk, fun hd => ?_⟩
      have := List.all_eq_true.1 hd ⟨i.val, hi⟩ (List.mem_finRange _)
      rw [show vget ((s.die d).slot k).acked ⟨i.val, by omega⟩ = false from ha] at this
      exact absurd this (by decide)
    · rw [preempt_freed hx ht hl hon hv hf, finishOut_stays hc]
    · exact preempt_out hx ht hl hon hv hf hk hs hq hc hh
    · exact preempt_faults hx ht hl hon hv hf hk hs hb hsl hh

end Sys2Proof.Proofs
end

section
/-! SUPPORT. Engines acknowledge their stop, and a block is stopped by a fault (O46). -/

namespace Sys2Proof.Proofs

open Sys2Proof Sys2Proof.Machine Sys2Proof.Laws

/-! ## One acknowledgement (R320, R321, R371) -/

section Ack
variable {s : State} {d : DieId} {k : SlotId}

/-- The number of an agent among those of a slot that are asked. -/
def stopNum (a : Nat) : Fin 7 := ⟨a % 7, Nat.mod_lt _ (by decide)⟩
/-- A slot whose agent number `a` has acknowledged. -/
def acking (a : Nat) (t : Slot) : Slot := { t with acked := vset t.acked (stopNum a) true, ports := t.ports.map fun p => p.releaseFor a }
theorem ackStop_stays {a : Nat} (h : vget (s.slot d k).stop (stopNum a) = false ∨ vget (s.slot d k).acked (stopNum a) = true ∨ s.atStop d k a = false) : ackStop s d k a = s := by
  unfold ackStop
  refine if_pos ?_
  change (!vget (s.slot d k).stop (stopNum a) || vget (s.slot d k).acked (stopNum a) || !s.atStop d k a) = true
  rcases h with h | h | h
  · rw [h]
    rfl
  · rw [h, Bool.or_true]
    rfl
  · rw [h, Bool.not_false, Bool.or_true]
theorem ackStop_goes {a : Nat} (hs : vget (s.slot d k).stop (stopNum a) = true) (ha : vget (s.slot d k).acked (stopNum a) = false) (h : s.atStop d k a = true) : ackStop s d k a =
    let s := (if a = 1 then s.modDie d fun y => y.rewind k else if a = 5 then s.modDie d fun y => y.rereadChunk k else s).modSlot d k (acking a)
    if a = 6 then stopCtx s d ((s.die d).ctxAt k) else s := by
  unfold ackStop
  refine if_neg ?_
  change ¬ (!vget (s.slot d k).stop (stopNum a) || vget (s.slot d k).acked (stopNum a) || !s.atStop d k a) = true
  rw [hs, ha, h]
  decide
/-- Without rows to read again, a load that is held goes back to none. -/
theorem rewind_none {y : Die} (h : (y.slot k).agLde.asm = [] ∨ (y.slot k).lde = none) : y.rewind k = y := by
  unfold Die.rewind
  dsimp only
  change (match (y.slot k).lde, (y.slot k).agLde.asm with
    | some r, x :: _ => (y.setRun (.eng k .lde) (some { r with unit := x.key })).modAg (.eng k .lde) fun a => { a with asm := [] }
    | _, _ => y) = y
  rcases h with h | h
  · rw [h]
    cases (y.slot k).lde with
    | none => rfl
    | some r => rfl
  · rw [h]
theorem rewind_rows {y : Die} {r : Run} {x : Asm} {rest : List Asm} (hr : (y.slot k).lde = some r) (hx : (y.slot k).agLde.asm = x :: rest) :
    y.rewind k = y.modSlot k fun t => { t with lde := some { r with unit := x.key }, agLde := { t.agLde with asm := [] } } := by
  unfold Die.rewind
  dsimp only
  change (match (y.slot k).lde, (y.slot k).agLde.asm with
    | some r, x :: _ => (y.setRun (.eng k .lde) (some { r with unit := x.key })).modAg (.eng k .lde) fun a => { a with asm := [] }
    | _, _ => y) = _
  rw [hr, hx]
  have hv := vmod_vmod y.slots k (fun t : Slot => { t with lde := some { r with unit := x.key } }) fun t => { t with agLde := { t.agLde with asm := [] } }
  have := congrArg (fun v => { y with slots := v }) hv
  exact this
/-- The row engine whose stop a step acknowledges. -/
theorem exec_rowStopAck {e : SlotEng} (he : e ≠ .mxe) : exec (.engineStopAck d (.eng k e)) s = .next (ackStop s d k (engNum e)) ∧ s.atStop d k (engNum e) = s.rowStop d k e := by
  cases e with
  | mxe => exact absurd rfl he
  | lde => exact ⟨rfl, rfl⟩
  | are => exact ⟨rfl, rfl⟩
  | ste => exact ⟨rfl, rfl⟩
/-- A row engine other than the load engine's leaves its run and rows as they are. -/
theorem ackStop_row {e : SlotEng} (he : e ≠ .mxe) (hs : vget (s.slot d k).stop (stopNum (engNum e)) = true) (ha : vget (s.slot d k).acked (stopNum (engNum e)) = false) (h : s.rowStop d k e = true) :
    ackStop s d k (engNum e) = (if e = .lde then s.modDie d fun y => y.rewind k else s).modSlot d k (acking (engNum e)) := by
  rw [ackStop_goes hs ha ((exec_rowStopAck he).2.trans h)]
  cases e with
  | mxe => exact absurd rfl he
  | lde => rfl
  | are => rfl
  | ste => rfl
/-- No port's rows are the core's. -/
theorem releaseFor_zero (p : Port) : p.releaseFor 0 = p := by
  have hne (e : SlotEng) : (engNum e == 0) = false := by cases e <;> rfl
  have hrows : (p.rows.any fun f => engNum f.by_ == 0) = false := List.any_eq_false.2 fun f _ => by rw [hne]; decide
  have hpart : p.part.any (fun x => engNum x.2.by_ == 0) = false := by
    cases p.part with
    | none => rfl
    | some x => exact hne _
  unfold Port.releaseFor
  rw [hrows, hpart]
  rfl
theorem acking_zero (t : Slot) : acking 0 t = { t with acked := vset t.acked 0 true } := by
  have hmap : (t.ports.map fun p => p.releaseFor 0) = t.ports := by
    ext i hi
    rw [Vector.getElem_map, releaseFor_zero]
  unfold acking
  rw [hmap]
  rfl
end Ack

/-! ## The contexts of a slot stop (R298) -/

section Ctx
variable {s : State} {d : DieId}

/-- One context stops, where it is one of those named. -/
def stopOne (mine : KCtx → Bool) (d : DieId) (s : State) (x : Fin 8) : State := match s.ctx d x with
  | some c =>
    if mine c && !c.stopped then
      let told := !(s.die d).ctxTimed c
      let s := s.setCtx d x { c with stopped := true, away := told }
      if told then tellGroups s d c true else s
    else s
  | none => s
theorem stopCtx_eq (s : State) (d : DieId) (mine : KCtx → Bool) : stopCtx s d mine = (List.finRange 8).foldl (stopOne mine d) s := rfl
theorem tellGroups_ctx (s : State) (c : KCtx) (b : Bool) (x : Fin 8) : (tellGroups s d c b).ctx d x = s.ctx d x := by
  have hnft (s : State) (m : NftOut) : (sendNft s d m).ctx d x = s.ctx d x := by
    unfold sendNft
    split
    · rfl
    · unfold State.ctx State.coe
      rw [State.die_modDie_same]
      rfl
  unfold tellGroups
  generalize c.groups = gs
  induction gs generalizing s with
  | nil => rfl
  | cons g gs ih => exact (ih _).trans (hnft s _)
theorem setCtx_ctx (s : State) (x y : Fin 8) (c : KCtx) : (s.setCtx d y c).ctx d x = if x = y then some c else s.ctx d x := by
  unfold State.ctx State.coe State.setCtx State.modCoe
  dsimp only
  rw [State.die_modDie_same]
  dsimp only
  split
  next h => rw [h, vget_vset_same]
  next h => exact vget_vset_ne _ (fun e : y = x => h e.symm) _
theorem stopOne_ne {mine : KCtx → Bool} {x y : Fin 8} (h : x ≠ y) (s : State) : (stopOne mine d s y).ctx d x = s.ctx d x := by
  unfold stopOne
  split
  · split
    · dsimp only
      split
      · rw [tellGroups_ctx, setCtx_ctx, if_neg h]
      · rw [setCtx_ctx, if_neg h]
    · rfl
  · rfl
theorem stopOne_same {mine : KCtx → Bool} {x : Fin 8} {c : KCtx} (hc : s.ctx d x = some c) : ∃ c', (stopOne mine d s x).ctx d x = some c' ∧ (mine c = true ∨ c.stopped = true → c'.stopped = true) := by
  unfold stopOne
  rw [hc]
  dsimp only
  by_cases hm : (mine c && !c.stopped) = true
  · rw [if_pos hm]
    refine ⟨{ c with stopped := true, away := !(s.die d).ctxTimed c }, ?_, fun _ => rfl⟩
    split
    · rw [tellGroups_ctx, setCtx_ctx, if_pos rfl]
    · rw [setCtx_ctx, if_pos rfl]
  · rw [if_neg hm]
    refine ⟨c, hc, fun h => ?_⟩
    cases hst : c.stopped with
    | true => rfl
    | false =>
      rw [hst] at hm h
      exact absurd (by simpa using h) hm
/-- A context that is stopped stays so, and one that is named and met stops. -/
theorem stopAll_stops {mine : KCtx → Bool} {x : Fin 8} (xs : List (Fin 8)) (s : State) {c : KCtx} (hc : s.ctx d x = some c) (h : mine c = true ∧ x ∈ xs ∨ c.stopped = true) :
    ∃ c', (xs.foldl (stopOne mine d) s).ctx d x = some c' ∧ c'.stopped = true := by
  induction xs generalizing s c with
  | nil => exact ⟨c, hc, h.resolve_left fun h => absurd h.2 (by simp)⟩
  | cons y ys ih =>
    by_cases hy : x = y
    · subst hy
      obtain ⟨c', hc', hst⟩ := stopOne_same (mine := mine) hc
      exact ih _ hc' (.inr (hst (h.imp And.left id)))
    · refine ih _ ((stopOne_ne hy s).trans hc) (h.imp (fun h => ⟨h.1, (List.mem_cons.1 h.2).resolve_left hy⟩) id)
theorem stopCtx_stops {mine : KCtx → Bool} {x : Fin 8} {c : KCtx} (hc : s.ctx d x = some c) (h : mine c = true) : ∃ c', (stopCtx s d mine).ctx d x = some c' ∧ c'.stopped = true := by
  rw [stopCtx_eq]
  exact stopAll_stops _ s hc (.inl ⟨h, List.mem_finRange x⟩)
end Ctx

/-! ## The collective engine's acknowledgements (R298, R321) -/

section Coll
variable {s : State} {d : DieId} {k : SlotId}

theorem foldl_ackStop_stays (ks : List SlotId) (s : State) (h : ∀ j ∈ ks, vget (s.slot d j).stop 6 = false) : ks.foldl (fun s k => ackStop s d k 6) s = s := by
  induction ks generalizing s with
  | nil => rfl
  | cons j ks ih =>
    rw [List.foldl_cons, ackStop_stays (.inl (h j List.mem_cons_self))]
    exact ih s fun i hi => h i (List.mem_cons_of_mem _ hi)
theorem slot_of_sameFrame {s t : State} (h : SameFrame d s t) (k : SlotId) : t.slot d k = s.slot d k := by
  have hs : (t.die d).slots = (s.die d).slots := congrArg Prod.fst h
  exact slot_of_slots hs k
theorem stopCtx_slot (s : State) (d : DieId) (mine : KCtx → Bool) (k : SlotId) : (stopCtx s d mine).slot d k = s.slot d k := slot_of_sameFrame (sameFrame_stopCtx s mine) k
/-- Where only slot `k` has asked it, the collective engine acknowledges there. -/
theorem collAck_eq (hs : vget (s.slot d k).stop 6 = true) (ha : vget (s.slot d k).acked 6 = false) (h : s.atStop d k 6 = true) (hother : ∀ j, j ≠ k → vget (s.slot d j).stop 6 = false) :
    exec (.engineStopAck d .coll) s = .next (stopCtx (s.modSlot d k (acking 6)) d (((s.modSlot d k (acking 6)).die d).ctxAt k)) := by
  have hone : ackStop s d k 6 = stopCtx (s.modSlot d k (acking 6)) d (((s.modSlot d k (acking 6)).die d).ctxAt k) := by
    rw [ackStop_goes hs ha h]
    dsimp only
    rw [if_neg (by decide : ¬ 6 = 1), if_neg (by decide : ¬ 6 = 5), if_pos rfl]
  have hmem : ∀ k, k ∈ allSlots := by decide
  have hnodup : allSlots.Nodup := by decide
  obtain ⟨as, bs, hsplit⟩ := List.append_of_mem (hmem k)
  rw [hsplit] at hnodup
  have has : ∀ j ∈ as, j ≠ k := fun j hj => (List.nodup_append.1 hnodup).2.2 j hj k List.mem_cons_self
  have hbs : ∀ j ∈ bs, j ≠ k := fun j hj e => (List.nodup_cons.1 (List.nodup_append.1 hnodup).2.1).1 (e ▸ hj)
  rw [exec_engineStopAck]
  change Host.Outcome.next (allSlots.foldl (fun s k => ackStop s d k 6) s) = _
  rw [hsplit, List.foldl_append, foldl_ackStop_stays as s (fun j hj => hother j (has j hj)), List.foldl_cons, hone, foldl_ackStop_stays bs]
  intro j hj
  rw [stopCtx_slot, State.slot_modSlot_ne _ _ (fun e => hbs j hj e.symm)]
  exact hother j (hbs j hj)
end Coll

/-! ## A block is stopped by a fault (R367, R375) -/

theorem sameMem_askSlots {d : DieId} (ks : List SlotId) (s : State) : SameMem s (askSlots d s ks) := by
  induction ks generalizing s with
  | nil => exact fun _ _ => rfl
  | cons k ks ih =>
    refine SameMem.trans (t := if vget (s.slot d k).stop 0 then s else s.modSlot d k Slot.askStop) ?_ (ih _)
    split
    · exact fun _ _ => rfl
    · exact sameMem_modSlot _ _ _ _

section Halt
variable {s : State} {d : DieId} {l : Launch} {b : Blk} {k0 : SlotId} {ks : List SlotId}

/-- The stop of a block whose trap records are to be saved. -/
def saveTrap (s : State) (d : DieId) (l : Launch) (b : Blk) (k0 : SlotId) : XRes Unit → Out
  | .ok y _ => .next ((s.modDie d fun _ => y).modSched d fun q => q.modBlk l.id b.l fun x => { x with halted := 2 })
  | .wait _ => .next s
  | .fault y _ x => .next (collFault (s.modDie d fun _ => y) d k0 29 (BitVec.ofNat 64 (l.saveAt b.l)) (BitVec.ofNat 64 x))
variable (hn : b.l < 2 ^ 32) (hl : (s.die d).sched.launch l.id = some l) (hb : l.blk b.l = some b) (hk : b.slots = k0 :: ks)
include hn hl hb hk

theorem faultStop_eq : exec (.terminalFaultStop d (2 ^ 32 * l.id + b.l)) s =
    if b.halted = 0 then
      if !(b.slots.any fun k => (s.slot d k).newStop (bitAt ((s.die d).getReg d rFLTQ) 63)) then .next s
      else .next ((askSlots d s b.slots).modSched d fun q => q.modBlk l.id b.l fun x => { x with halted := 1 })
    else if b.halted = 1 && b.slots.all fun k => (s.slot d k).stoppedAll then
      if (s.slot d k0).heldBy 7 then .next s else saveTrap s d l b k0 (putImage d l.asid (l.saveAt b.l) (trapImage (s.die d) b) (s.die d))
    else .next s := by
  rw [exec_terminalFaultStop]
  unfold execTerminalFaultStop
  rw [pairOf_mk hn]
  dsimp only
  rw [hl]
  dsimp only
  rw [hb]
  dsimp only
  rw [if_neg (by rw [hk]; exact Bool.false_ne_true)]
  split
  · rfl
  · split
    · rw [hk]
      dsimp only
      split
      · rfl
      · generalize putImage d l.asid (l.saveAt b.l) (trapImage (s.die d) b) (s.die d) = r
        cases r with
        | ok y u => rfl
        | wait y => rfl
        | fault y c a => rfl
    · rfl
theorem faultStop_unasked (h0 : b.halted = 0) (h : ∀ k ∈ b.slots, (s.slot d k).newStop (bitAt ((s.die d).getReg d rFLTQ) 63) = false) : exec (.terminalFaultStop d (2 ^ 32 * l.id + b.l)) s = .next s := by
  have hany : (b.slots.any fun k => (s.slot d k).newStop (bitAt ((s.die d).getReg d rFLTQ) 63)) = false := List.any_eq_false.2 fun k hk => by rw [h k hk]; decide
  rw [faultStop_eq hn hl hb hk, if_pos h0, hany]
  rfl
/-- A new fault: every agent of the block's slots is asked. -/
theorem faultStop_asks (h0 : b.halted = 0) (h : ∃ k ∈ b.slots, (s.slot d k).newStop (bitAt ((s.die d).getReg d rFLTQ) 63) = true) :
    ∃ t l' b', exec (.terminalFaultStop d (2 ^ 32 * l.id + b.l)) s = .next t ∧ SameMem s t ∧ (t.die d).sched.launch l.id = some l' ∧ l'.blk b.l = some b' ∧ b'.halted = 1 ∧ ∀ k ∈ b.slots, vget (t.slot d k).stop 0 = true := by
  have hany : (b.slots.any fun k => (s.slot d k).newStop (bitAt ((s.die d).getReg d rFLTQ) 63)) = true := List.any_eq_true.2 h
  have hexec := faultStop_eq hn hl hb hk
  rw [if_pos h0, hany] at hexec
  have hsched : ((askSlots d s b.slots).die d).sched = (s.die d).sched := askSlots_die (F := Die.sched) (fun _ _ => rfl) b.slots s
  refine ⟨_, l.modBlk b.l fun x => { x with halted := 1 }, { b with halted := 1 }, hexec, ?_, ?_, ?_, rfl, fun k hkm => ?_⟩
  · refine SameMem.trans (sameMem_askSlots b.slots s) (sameMem_modDie _ d _ rfl)
  · rw [modSched_die]
    change (((askSlots d s b.slots).die d).sched.modBlk l.id b.l fun x => { x with halted := 1 }).launch l.id = _
    rw [hsched, launch_modBlk, hl]
    rfl
  · rw [blk_modBlk, hb]
    · rfl
    · exact fun _ => rfl
  · have hslot : ((askSlots d s b.slots).modSched d fun q => q.modBlk l.id b.l fun x => { x with halted := 1 }).slot d k = (askSlots d s b.slots).slot d k := slot_of_slots (by rw [modSched_die]) k
    rw [hslot, askSlots_slot]
    split
    · exact askStop_stop _
    next hc =>
      cases hst : vget (s.slot d k).stop 0 with
      | true => rfl
      | false => exact absurd ⟨hkm, hst⟩ hc
theorem faultStop_waits (h1 : b.halted = 1) (h : ∃ k ∈ b.slots, (s.slot d k).stoppedAll = false) : exec (.terminalFaultStop d (2 ^ 32 * l.id + b.l)) s = .next s := by
  obtain ⟨k, hkm, hs⟩ := h
  have hall : (b.slots.all fun k => (s.slot d k).stoppedAll) = false := List.all_eq_false.2 ⟨k, hkm, by rw [hs]; decide⟩
  rw [faultStop_eq hn hl hb hk, if_neg (by rw [h1]; decide), hall, Bool.and_false]
  rfl
/-- All agents stand: the trap records are saved. -/
theorem faultStop_saves (h1 : b.halted = 1) (h : ∀ k ∈ b.slots, (s.slot d k).stoppedAll = true) (hh : (s.slot d k0).heldBy 7 = false) :
    exec (.terminalFaultStop d (2 ^ 32 * l.id + b.l)) s = saveTrap s d l b k0 (putImage d l.asid (l.saveAt b.l) (trapImage (s.die d) b) (s.die d)) := by
  have hall : (b.slots.all fun k => (s.slot d k).stoppedAll) = true := List.all_eq_true.2 h
  rw [faultStop_eq hn hl hb hk, if_neg (by rw [h1]; decide), hall, h1, hh]
  rfl
end Halt
/-- A fault that stops its block is a new one while it has no index. -/
theorem newStop_of {t : Slot} {ring : Bool} {a : Fin 8} {p : PFault} (ha : a.val < 7) (hf : vget t.flt a = some p) (hi : p.idx = none) (h : p.r.rpl = false ∨ ring = false) : t.newStop ring = true := by
  refine List.any_eq_true.2 ⟨⟨a.val, ha⟩, List.mem_finRange _, ?_⟩
  change (match vget t.flt a with | some p => (!p.r.rpl || !ring) && p.idx.isNone | none => false) = true
  rw [hf]
  dsimp only
  rw [hi]
  rcases h with h | h
  · rw [h]
    rfl
  · rw [h, Bool.not_false, Bool.or_true]
    rfl

/-! ## The statements -/

section Statements
variable {s : State} {d : DieId} {k : SlotId}

/-- A core with nothing under way acknowledges, and the slot's other agents stand asked. -/
theorem coreAck_eq (hs : vget (s.slot d k).stop 0 = true) (ha : vget (s.slot d k).acked 0 = false) (hrd : (s.slot d k).agCtl.rd = []) (hp : (s.slot d k).agCtl.pend = []) (hh : (s.die d).held = []) (hsb : (s.slot d k).agCtl.sb = []) :
    exec (.engineStopAck d (.core k)) s = .next (s.modSlot d k fun t => { t with stop := .replicate 7 true, acked := vset t.acked 0 true }) := by
  let u := s.modSlot d k fun t => { t with stop := .replicate 7 true }
  have howe : s.owing d k = false := by
    unfold State.owing Slot.owes
    rw [hsb]
    rfl
  have hask : s.askRest d k = u := by
    unfold State.askRest
    rw [hs, howe]
    rfl
  have hu : u.slot d k = { s.slot d k with stop := .replicate 7 true } := State.slot_modSlot_same _ _ _ _
  have hheld : (u.die d).held = [] := by
    change ((s.modDie d _).die d).held = []
    rw [State.die_modDie_same]
    exact hh
  have hat : u.atStop d k 0 = true := by
    change ((u.slot d k).agCtl.rd.isEmpty && (u.slot d k).agCtl.pend.isEmpty && !((u.die d).held.any fun h => h.ag == .core k && h.src == d)
      && ((u.slot d k).agCtl.sb.isEmpty || (u.sbStuck d k && ([1, 2, 3, 4, 5] : List (Fin 7)).all fun i => vget (u.slot d k).acked i || (u.slot d k).heldBy i.val))) = true
    rw [hheld, hu]
    dsimp only
    rw [hrd, hp, hsb]
    rfl
  have hgo := ackStop_goes (s := u) (k := k) (a := 0) (by rw [hu]; exact vget_replicate true 0) (by rw [hu]; exact ha) hat
  rw [exec_engineStopAck]
  change Host.Outcome.next (ackStop (s.askRest d k) d k 0) = _
  rw [hask, hgo]
  dsimp only
  rw [if_neg (by decide : ¬ 0 = 1), if_neg (by decide : ¬ 0 = 5), if_neg (by decide : ¬ 0 = 6), modSlot_modSlot]
  simp only [acking_zero]
/-- A chained drain that has no credit is at its stop. -/
theorem matrixAck {r : Run} (hfrag : (s.die d).fragSlots ((s.die d).baseOf k) = [k]) (hbase : (s.die d).baseOf k = k) (hs : vget (s.slot d k).stop 4 = true) (ha : vget (s.slot d k).acked 4 = false) (hr : (s.slot d k).mxe = some r)
    (hst : (s.die d).still d (.eng k .mxe) false = true) (hc : (s.die d).chainStalls k r = true) : ∃ t, exec (.engineStopAck d (.eng k .mxe)) s = .next t ∧ vget (t.slot d k).acked 4 = true := by
  have hat : s.atStop d k 4 = true := by
    unfold State.atStop
    dsimp only
    rw [hbase, hst, show ((s.die d).slot k).mxe = some r from hr]
    dsimp only
    rw [hc, Bool.or_true, Bool.true_or]
    rfl
  have hgo := ackStop_goes (a := 4) hs ha hat
  dsimp only at hgo
  rw [if_neg (by decide : ¬ 4 = 1), if_neg (by decide : ¬ 4 = 5), if_neg (by decide : ¬ 4 = 6)] at hgo
  refine ⟨s.modSlot d k (acking 4), ?_, ?_⟩
  · rw [exec_engineStopAck]
    change Host.Outcome.next (((s.die d).fragSlots ((s.die d).baseOf k)).foldl (fun s k => ackStop s d k 4) s) = _
    rw [hfrag, List.foldl_cons, hgo]
    rfl
  · rw [State.slot_modSlot_same]
    exact vget_vset_same _ _ _
/-- The collective engine stops the contexts of the slot. -/
theorem collAck (hs : vget (s.slot d k).stop 6 = true) (ha : vget (s.slot d k).acked 6 = false) (hc : ∀ x c, s.ctx d x = some c → c.slot = k → c.run = none) (hr : (s.die d).coe.run = none) (hq : (s.die d).collQuiet d = true)
    (hother : ∀ j, j ≠ k → vget (s.slot d j).stop 6 = false) :
    ∃ t, exec (.engineStopAck d .coll) s = .next t ∧ vget (t.slot d k).acked 6 = true ∧ ∀ x c, s.ctx d x = some c → c.slot = k → (s.die d).ctxBound c = true → ∃ c', t.ctx d x = some c' ∧ c'.stopped = true := by
  have hctx : ((s.die d).coe.ctx.toList.all fun x => x.all fun c => !(s.die d).ctxAt k c || c.run.isNone || !c.up || ((s.die d).slot k).heldBy 6) = true := by
    refine List.all_eq_true.2 fun o ho => ?_
    obtain ⟨i, hi, rfl⟩ := List.getElem_of_mem ho
    rw [Vector.length_toList] at hi
    cases hv : (s.die d).coe.ctx.toList[i] with
    | none => rfl
    | some c =>
      have hg : s.ctx d ⟨i, hi⟩ = some c := hv
      change (!(s.die d).ctxAt k c || c.run.isNone || !c.up || ((s.die d).slot k).heldBy 6) = true
      by_cases hk : c.slot = k
      · rw [hc _ _ hg hk, Option.isNone_none, Bool.or_true]
        rfl
      · unfold Die.ctxAt
        rw [beq_false_of_ne hk]
        rfl
  have hat : s.atStop d k 6 = true := by
    change (((s.die d).coe.ctx.toList.all fun x => x.all fun c => !(s.die d).ctxAt k c || c.run.isNone || !c.up || ((s.die d).slot k).heldBy 6)
      && (((s.die d).dirAt k).isNone || ((s.die d).slot k).heldBy 6) && (s.die d).collQuiet d) = true
    rw [hctx, hq, Die.dirAt, hr]
    rfl
  refine ⟨_, collAck_eq hs ha hat hother, ?_, fun x c hx hk hb => ?_⟩
  · rw [stopCtx_slot, State.slot_modSlot_same]
    exact vget_vset_same _ _ _
  · refine stopCtx_stops (c := c) ?_ ?_
    · unfold State.ctx State.coe at hx ⊢
      rw [State.modSlot, State.die_modDie_same]
      exact hx
    · have hown : (((s.modSlot d k (acking 6)).die d).slot c.slot).ctl.own = ((s.die d).slot c.slot).ctl.own := by
        rw [hk]
        change ((s.modSlot d k (acking 6)).slot d k).ctl.own = _
        rw [State.slot_modSlot_same]
        rfl
      unfold Die.ctxAt
      unfold Die.ctxBound Die.ownBound at hb ⊢
      rw [hown, hb, hk, beq_self_eq_true]
      rfl
end Statements

/-- Settles O46: the one step of an acknowledgement for each agent, and the stop of a block by its three states. -/
theorem stopsAreAcknowledged : Obligations.StopsAreAcknowledged := by
  refine ⟨?_, ?_⟩
  · intro s d k
    refine ⟨fun e he => ?_, fun hs ha hrd hp hh hsb => coreAck_eq hs ha hrd hp hh hsb, fun r hf hb hs ha hr hst hc => matrixAck hf hb hs ha hr hst hc, fun hs ha hc hr hq ho => collAck hs ha hc hr hq ho⟩
    intro i acks
    obtain ⟨hexec, hat⟩ := exec_rowStopAck (s := s) (d := d) (k := k) he
    refine ⟨fun hs ha hst => ⟨fun h => ?_, fun r x rest he hr hx => ?_⟩, fun h => ?_, fun hr => ?_, fun r hr hpart hheld hw hq => ?_⟩
    · rw [hexec, ackStop_row he hs ha hst]
      split
      next hlde => rw [modDie_self (rewind_none (h.resolve_left fun hn => hn hlde))]; rfl
      next => rfl
    · subst he
      have hrew : (s.modDie d fun y => y.rewind k) = s.modSlot d k fun t => { t with lde := some { r with unit := x.key }, agLde := { t.agLde with asm := [] } } := modDie_congr (g := fun y => y.modSlot k fun t => { t with lde := some { r with unit := x.key }, agLde := { t.agLde with asm := [] } }) (rewind_rows hr hx)
      rw [hexec, ackStop_row he hs ha hst, if_pos rfl, hrew]
      rfl
    · rw [hexec, ackStop_stays (h.imp id fun h => .inr (hat.trans h))]
    · unfold State.rowStop
      dsimp only
      rw [hr]
    · rw [hexec, ackStop_stays (.inr (.inr (hat.trans ?_)))]
      unfold State.rowStop
      dsimp only
      rw [hr]
      dsimp only
      rw [hheld, hw, hq, beq_false_of_ne hpart, Bool.or_false, Bool.and_false, Bool.and_false]
      rfl
  · intro s d l b k0 ks hn hl hb hk n ring
    refine ⟨fun h0 h => faultStop_unasked hn hl hb hk h0 h, fun k a p _ ha hf hi h => newStop_of ha hf hi h, fun h0 h => faultStop_asks hn hl hb hk h0 h, fun h1 h => faultStop_waits hn hl hb hk h1 h, fun h1 h hh y u hp => ?_, fun h1 h hh y c a hp hy => ?_⟩
    · rw [faultStop_saves hn hl hb hk h1 h hh, hp]
      rfl
    · rw [faultStop_saves hn hl hb hk h1 h hh, hp]
      exact collFault_held (by rw [State.slot, State.die_modDie_same]; exact hy)

end Sys2Proof.Proofs
end

section
/-! SUPPORT. What the death of a node leaves of the others: their places in the queues, and the records of the fault ring (R368, R418). -/

namespace Sys2Proof.Proofs

open Sys2Proof Sys2Proof.Machine Sys2Proof.Laws

/-! ## The nodes of a die -/

/-- Each launch with where it stands. -/
def keys (q : Sched) : List (Nat × NodeSt) := q.launches.map fun l => (l.id, l.st)
/-- The fault ring, the launches with where they stand, and the two queues. -/
def nodes (y : Die) : List (Nat × RingOwner) × List (Nat × NodeSt) × List (Nat × Nat) × List (Nat × Nat) := (y.ring, keys y.sched, y.sched.cq, y.sched.sq)
theorem liveKeeps_nodes : LiveKeeps nodes := ⟨⟨fun _ _ _ _ => rfl, fun _ _ _ => rfl, fun _ _ => rfl⟩, fun _ _ => rfl⟩
theorem nodes_of {y z : Die} (hr : z.ring = y.ring) (hs : z.sched = y.sched) : nodes z = nodes y := by rw [nodes, nodes, hr, hs]
theorem nodes_modAg (y : Die) (a : Agent) (f : AgentSt → AgentSt) : nodes (y.modAg a f) = nodes y := by
  have hs := modAg_sched y a f
  have hr : (y.modAg a f).ring = y.ring := by rw [modAg_rest]
  exact nodes_of hr hs
theorem nodes_modTlb (y : Die) (t : TlbId) (f : List TlbEntry → List TlbEntry) : nodes (y.modTlb t f) = nodes y := by cases t <;> rfl
theorem nodes_setRun (y : Die) (a : Agent) (r : Option Run) : nodes (y.setRun a r) = nodes y := by
  cases a with
  | eng k e => cases e <;> rfl
  | _ => rfl
/-- A change of launches that leaves each where it stands. -/
theorem keys_modLaunch (q : Sched) (lid : Nat) {f : Launch → Launch} (hf : ∀ l, (f l).id = l.id ∧ (f l).st = l.st) : keys (q.modLaunch lid f) = keys q := by
  unfold keys Sched.modLaunch
  dsimp only
  rw [List.map_map]
  refine List.map_congr_left fun l _ => ?_
  dsimp only [Function.comp]
  split
  · rw [(hf l).1, (hf l).2]
  · rfl
theorem keys_modBlk (q : Sched) (lid n : Nat) (f : Blk → Blk) : keys (q.modBlk lid n f) = keys q := keys_modLaunch q lid fun _ => ⟨rfl, rfl⟩
theorem nodes_sched (y : Die) {q : Sched} (hl : keys q = keys y.sched) (hc : q.cq = y.sched.cq) (hs : q.sq = y.sched.sq) : nodes { y with sched := q } = nodes y := by
  rw [nodes, nodes, ← hl, ← hc, ← hs]
theorem nodes_modBlk (y : Die) (lid n : Nat) (f : Blk → Blk) : nodes { y with sched := y.sched.modBlk lid n f } = nodes y := nodes_sched y (keys_modBlk _ _ _ _) rfl rfl
theorem procKeeps_nodes (v) : ProcKeeps fun y => nodes y = v where
  poke _ _ _ h := h
  walkc _ _ h := h
  tlb d x f h := (nodes_modTlb d x f).trans h
  miss d dn x a h := by
    have hdie (y : Die) : nodes (y.countDie dn a 32) = nodes y := by
      unfold Die.countDie
      split <;> rfl
    have hslot (k : SlotId) : nodes (d.countSlot dn k 5 1) = nodes d := by
      unfold Die.countSlot
      split <;> rfl
    refine (hdie _).trans (Eq.trans ?_ h)
    cases x with
    | slot k => exact hslot k
    | copy c => rfl
    | coll => rfl
  rast _ _ _ _ _ _ h := h
  write _ _ _ h := h
  gate _ _ h := h
  sb d a f h := (nodes_modAg d a _).trans h

/-! ## Stores into a save area -/

section Store
variable {P : Die → Prop} (hP : ProcKeeps P)
include hP

theorem csAccess_keeps (d : DieId) (y : Die) (asid : Half) (va n : Nat) (wr : Bool) (h : P y) : P (csAccess d y asid va n wr).die := by
  have e := accessAll_keeps hP.toTransKeeps d ⟨.coll, asid, none, none⟩ ⟨[0], !wr, wr⟩ (cutLines va n) { y with gate := { y.gate with g := y.gate.v } } (hP.gate _ _ h)
  unfold csAccess accessRow
  dsimp only
  generalize accessAll d ⟨.coll, asid, none, none⟩ ⟨[0], !wr, wr⟩ (cutLines va n) { y with gate := { y.gate with g := y.gate.v } } = q at e
  cases q with
  | ok z ps =>
    dsimp only
    split
    · exact hP.gate _ _ e
    · exact hP.gate _ _ e
  | wait z => exact hP.gate _ _ e
  | fault z a b => exact hP.gate _ _ e
variable (hpsn : ∀ d a bs p, P d → P (Die.poke d a bs p))
include hpsn

theorem csStore_keeps (d : DieId) (y : Die) (asid : Half) (va : Nat) (bs : List Byte) (psn : Bool) (h : P y) : P (csStore d y asid va bs psn).die := by
  have e := csAccess_keeps hP d y asid va bs.length true h
  have put (ps : List Piece) (z : Die) (hz : P z) :
      P (ps.foldl (fun d p => match p.loc with | .here pa => (d.markDirty .coll p).poke pa (slice bs (p.va - va) p.len) psn | _ => d) z) := by
    induction ps generalizing z with
    | nil => exact hz
    | cons p ps ih =>
      refine ih _ ?_
      dsimp only
      split
      · exact hpsn _ _ _ _ (markDirty_keeps hP.poke hP.tlb hP.sb _ _ _ hz)
      · exact hz
  unfold csStore
  generalize csAccess d y asid va bs.length true = q at e
  cases q with
  | ok z ps => exact put ps z e
  | wait z => exact e
  | fault z a b => exact e
theorem putImage_keeps (d : DieId) (asid : Half) (base : Nat) (im : Image) (y : Die) (h : P y) : P (putImage d asid base im y).die := by
  induction im generalizing y with
  | nil => exact h
  | cons x im ih =>
    have e := csStore_keeps hP hpsn d y asid (base + x.1) x.2.1 x.2.2 h
    unfold putImage
    generalize csStore d y asid (base + x.1) x.2.1 x.2.2 = q at e
    cases q with
    | ok z u => exact ih z e
    | wait z => exact e
    | fault z a b => exact e
end Store

/-! ## A node's blocks are discarded (R367, R368) -/

section Kill
variable {s t u : State} {d : DieId}

/-- The nodes of a die stand. -/
def SameNodes (d : DieId) (s t : State) : Prop := nodes (t.die d) = nodes (s.die d)
theorem SameNodes.refl (s : State) : SameNodes d s s := rfl
theorem SameNodes.trans (h : SameNodes d s t) (g : SameNodes d t u) : SameNodes d s u := Eq.trans g h
theorem sameNodes_modDie (s : State) (e : DieId) {f : Die → Die} (h : ∀ y, nodes (f y) = nodes y) : SameNodes d s (s.modDie e f) := by
  by_cases he : e = d
  · subst he
    rw [SameNodes, State.die_modDie_same]
    exact h _
  · rw [SameNodes, State.die_modDie_ne _ he]
theorem sameNodes_foldl {β : Type} {f : State → β → State} (h : ∀ s b, SameNodes d s (f s b)) (l : List β) (s : State) : SameNodes d s (l.foldl f s) := by
  induction l generalizing s with
  | nil => rfl
  | cons b l ih => exact (h s b).trans (ih _)
theorem sameNodes_modAg (s : State) (a : Agent) (f : AgentSt → AgentSt) : SameNodes d s (s.modAg d a f) := sameNodes_modDie s d fun y => nodes_modAg y a f
theorem sameNodes_sendNft (s : State) (m : NftOut) : SameNodes d s (sendNft s d m) := by
  unfold sendNft
  split
  · rfl
  · exact sameNodes_modDie s d fun _ => rfl
theorem sameNodes_markHomes (s : State) (a : Agent) (rs : List Sent) : SameNodes d s (markHomes s d a rs) := by
  have hsend (s : State) (h : DieId) (m : Msg) : SameNodes d s (s.send d h m) := congrArg nodes (State.send_die s d h m d)
  unfold markHomes
  exact (sameNodes_foldl (fun s h => hsend s h _) _ s).trans (sameNodes_foldl (fun s x => sameNodes_sendNft s _) _ _)
theorem sameNodes_quitAgent (s : State) (a : Agent) (m : Mine) : SameNodes d s (quitAgent s d a m) := (sameNodes_markHomes s a _).trans (sameNodes_modAg _ a _)
theorem sameNodes_tellGroups (s : State) (k : KCtx) (b : Bool) : SameNodes d s (tellGroups s d k b) := sameNodes_foldl (fun s _ => sameNodes_sendNft s _) _ s
theorem sameNodes_killCtxs (s : State) (l : Launch) (b : Blk) : SameNodes d s (killCtxs s d l b) := by
  have hcoe (s : State) (f : Coll → Coll) : SameNodes d s (s.modCoe d f) := sameNodes_modDie s d fun _ => rfl
  unfold killCtxs
  dsimp only
  have htold := sameNodes_foldl (d := d) (fun s c => sameNodes_tellGroups s c false) ((s.die d).ctxsOf l.id b.l ++ b.ctxs) s
  refine SameNodes.trans ?_ (hcoe _ _)
  split
  · exact htold.trans (sameNodes_quitAgent _ _ _)
  · exact htold
theorem sameNodes_killRecord (s : State) (l : Launch) (b : Blk) : SameNodes d s (killRecord s d l b) := by
  have hp := putImage_keeps (procKeeps_nodes (nodes (s.die d))) (fun _ _ _ _ h => h) d l.asid (l.saveAt b.l) (trapImage (s.die d) b) (s.die d) rfl
  have hset (y : Die) (hy : nodes y = nodes (s.die d)) : SameNodes d s (s.modDie d fun _ => y) := by
    rw [SameNodes, State.die_modDie_same]
    exact hy
  unfold killRecord
  generalize putImage d l.asid (l.saveAt b.l) (trapImage (s.die d) b) (s.die d) = q at hp
  cases q with
  | ok y _ => exact hset y hp
  | fault y _ _ => exact hset y hp
  | wait y => rfl
theorem nodes_quitSlots (ks : List SlotId) (y : Die) : nodes (ks.foldl (fun y k => (y.modSlot k Slot.quit).modLay k fun z => { z with buf := [] }) y) = nodes y := by
  induction ks generalizing y with
  | nil => rfl
  | cons k ks ih => exact (ih _).trans rfl
theorem sameNodes_killBlk (s : State) (l : Launch) (b : Blk) : SameNodes d s (killBlk s d l b) := by
  unfold killBlk
  dsimp only
  refine SameNodes.trans ?_ (sameNodes_modDie _ d fun y => nodes_modBlk y l.id b.l _)
  refine SameNodes.trans ?_ (sameNodes_modDie _ d fun y => nodes_quitSlots b.slots (y.clearKstat b.slots))
  refine SameNodes.trans ?_ (sameNodes_foldl (fun s a => ?_) _ _)
  · refine SameNodes.trans ((sameNodes_killRecord s l b).trans (sameNodes_killCtxs _ l b)) (sameNodes_foldl (fun s k => ?_) _ _)
    exact sameNodes_foldl (fun s a => sameNodes_quitAgent s a .all) _ s
  · split
    · exact (sameNodes_quitAgent s a _).trans (sameNodes_modDie _ d fun y => nodes_setRun y a none)
    · exact sameNodes_quitAgent s a _
end Kill

end Sys2Proof.Proofs
end

section
/-! SUPPORT. A node fails, and those that follow it (R368, R418): the records of the fault ring stay, and no queue names it (O47). -/

namespace Sys2Proof.Proofs

open Sys2Proof Sys2Proof.Machine Sys2Proof.Laws

/-! ## Where a node stands -/

section Stands
variable {s t u : State} {d : DieId}

/-- Where the launch of a number stands. -/
def nodeSt (ks : List (Nat × NodeSt)) (n : Nat) : Option NodeSt := (ks.find? fun x => x.1 == n).map (·.2)
theorem nodeSt_keys (q : Sched) (n : Nat) : nodeSt (keys q) n = (q.launch n).map (·.st) := by
  unfold nodeSt keys Sched.launch
  rw [List.find?_map, Option.map_map]
  rfl
/-- A change of launches under which a failed one stays so. -/
structure FailsOn (g : Nat × NodeSt → Nat × NodeSt) : Prop where
  id : ∀ x, (g x).1 = x.1
  failed : ∀ x, x.2 = .failed → (g x).2 = .failed
theorem nodeSt_map {g : Nat × NodeSt → Nat × NodeSt} (hg : FailsOn g) (ks : List (Nat × NodeSt)) (n : Nat) (h : nodeSt ks n = some .failed) : nodeSt (ks.map g) n = some .failed := by
  have hkey : ((fun x : Nat × NodeSt => x.1 == n) ∘ g) = fun x => x.1 == n := by
    funext x
    dsimp only [Function.comp]
    rw [hg.id]
  unfold nodeSt at h ⊢
  rw [List.find?_map, hkey]
  cases hf : ks.find? fun x => x.1 == n with
  | none =>
    rw [hf] at h
    exact absurd h (by simp)
  | some x =>
    rw [hf] at h
    exact congrArg some (hg.failed x (Option.some.inj h))
/-- Nodes fail and leave their queues; the fault ring stands. -/
structure Falls (d : DieId) (s t : State) : Prop where
  ring : (t.die d).ring = (s.die d).ring
  nodes : ∃ g, FailsOn g ∧ keys (t.die d).sched = (keys (s.die d).sched).map g
  cq : ∀ e ∈ (t.die d).sched.cq, e ∈ (s.die d).sched.cq
  sq : ∀ e ∈ (t.die d).sched.sq, e ∈ (s.die d).sched.sq
theorem Falls.trans (h : Falls d s t) (g : Falls d t u) : Falls d s u := by
  obtain ⟨f, hf, hk⟩ := h.nodes
  obtain ⟨f', hf', hk'⟩ := g.nodes
  refine ⟨g.ring.trans h.ring, ⟨f' ∘ f, ⟨fun x => (hf'.id _).trans (hf.id x), fun x hx => hf'.failed _ (hf.failed x hx)⟩, ?_⟩, fun e he => h.cq e (g.cq e he), fun e he => h.sq e (g.sq e he)⟩
  rw [hk', hk, List.map_map]
theorem SameNodes.falls (h : SameNodes d s t) : Falls d s t := by
  have hr : (t.die d).ring = (s.die d).ring := congrArg Prod.fst h
  have hk : keys (t.die d).sched = keys (s.die d).sched := congrArg (fun z => z.2.1) h
  have hc : (t.die d).sched.cq = (s.die d).sched.cq := congrArg (fun z => z.2.2.1) h
  have hs : (t.die d).sched.sq = (s.die d).sched.sq := congrArg (fun z => z.2.2.2) h
  exact ⟨hr, ⟨id, ⟨fun _ => rfl, fun _ h => h⟩, by rw [hk, List.map_id]⟩, fun e he => hc ▸ he, fun e he => hs ▸ he⟩
theorem Falls.nodeSt (h : Falls d s t) {n : Nat} (hn : nodeSt (keys (s.die d).sched) n = some .failed) : Proofs.nodeSt (keys (t.die d).sched) n = some .failed := by
  obtain ⟨g, hg, hk⟩ := h.nodes
  rw [hk]
  exact nodeSt_map hg _ n hn
end Stands

/-! ## What the failure of a node changes of the die -/

section Fail
variable {s : State} {d : DieId}

theorem nodes_setReg (y : Die) (off : Nat) (v : Word) : nodes (y.setReg off v) = nodes y := rfl
theorem nodes_setRf (y : Die) (dn : DieId) (off lo n v : Nat) : nodes (y.setRf dn off lo n v) = nodes y := rfl
theorem nodes_poke (y : Die) (a : Nat) (bs : List Byte) (psn : Bool) : nodes (y.poke a bs psn) = nodes y := rfl
theorem report_nodes (d : DieId) (y : Die) (mute : Bool) (l : Launch) (fl : Bool) : nodes (Die.report d y mute l fl) = nodes y := by
  have hexp (y : Die) : nodes (Die.expose d y l fl) = nodes y := by
    unfold Die.expose
    dsimp only
    split
    · rfl
    · generalize (if (decide (12 ≤ fld (y.getReg d rXRING) 0 6) && decide (fld (y.getReg d rXRING) 0 6 ≤ 24)) = true then fld (y.getReg d rXRING) 0 6 else 12) = sz
      split
      · exact nodes_setRf _ _ _ _ _ _
      · exact (nodes_setRf _ _ _ _ _ _).trans (nodes_poke _ _ _ _)
  unfold Die.report
  split
  · rfl
  · refine (hexp _).trans ?_
    split
    · rfl
    · exact procStore_keeps (procKeeps_nodes (nodes y)) d y _ _ _ rfl
theorem nodes_pair (y : Die) (v : List PairSt) : nodes { y with pair := v } = nodes y := rfl
theorem pairStores_sameNodes (s : State) (a : Agent) (ws : List PairIn) : SameNodes d s (s.pairStores d a ws) := by
  have hadd (y : Die) (pd : DieId) (x : PairSt) : nodes (y.pairAdd pd x) = nodes y := by
    have hdiv (y : Die) (tick : Word) (ag : Agent) (addr : Nat) (vp vs : Word) : nodes (y.divergence pd tick ag addr vp vs) = nodes y := by
      unfold Die.divergence
      split
      · rfl
      · dsimp only
        rw [nodes_pair, trcRecord_keeps liveKeeps_nodes.toTraceKeeps pd, nodes_setRf, nodes_setReg, nodes_setReg, nodes_setReg, nodes_setReg]
    unfold Die.pairAdd
    dsimp only
    split
    · rfl
    · generalize List.find? _ y.pair = o
      cases o with
      | none => exact nodes_pair y _
      | some z =>
        dsimp only
        generalize (if x.prim = true then x else z) = p
        generalize (if x.prim = true then z else x) = q
        split
        · exact nodes_pair y _
        · exact (hdiv _ _ _ _ _ _).trans (nodes_pair y _)
  unfold State.pairStores
  cases (s.die d).paired d with
  | none => rfl
  | some x => exact sameNodes_foldl (fun s w => sameNodes_modDie s _ fun y => hadd y _ _) ws s
theorem tellPair_sameNodes (s t : State) : SameNodes d t (s.tellPair t d) := by
  unfold State.tellPair
  split
  · rfl
  · exact pairStores_sameNodes t _ _
theorem giveBack_nodes (y : Die) (ks : List SlotId) : nodes (y.giveBack ks) = nodes y := by
  have := congrArg nodes (giveBack_rest ks y)
  exact this
theorem unhold_nodes (y : Die) (lid t : Nat) : nodes (y.unhold d lid t) = nodes y := by
  unfold Die.unhold
  cases y.sched.launch lid with
  | none => rfl
  | some l =>
    dsimp only
    split
    · rfl
    · have hfold (bs : List Blk) (q : Sched) : keys (bs.foldl (fun q b => q.modBlk lid b.l fun x => { x with res := [] }) q) = keys q ∧ (bs.foldl (fun q b => q.modBlk lid b.l fun x => { x with res := [] }) q).cq = q.cq ∧
          (bs.foldl (fun q b => q.modBlk lid b.l fun x => { x with res := [] }) q).sq = q.sq := by
        induction bs generalizing q with
        | nil => exact ⟨rfl, rfl, rfl⟩
        | cons b bs ih =>
          obtain ⟨h1, h2, h3⟩ := ih (q.modBlk lid b.l fun x => { x with res := [] })
          exact ⟨h1.trans (keys_modBlk _ _ _ _), h2, h3⟩
      refine (liveKeeps_nodes.reg _ _ _).trans (Eq.trans (b := nodes (y.giveBack (((l.teamBlks t).filter fun b => !b.res.isEmpty).flatMap (·.res)))) ?_ (giveBack_nodes y _))
      obtain ⟨h1, h2, h3⟩ := hfold ((l.teamBlks t).filter fun b => !b.res.isEmpty) (y.giveBack (((l.teamBlks t).filter fun b => !b.res.isEmpty).flatMap (·.res))).sched
      exact nodes_sched _ h1 h2 h3
theorem dropTeam_nodes (y : Die) (l : Launch) (t : Nat) (ks : List SlotId) : nodes (y.dropTeam d l t ks) = nodes y := by
  unfold Die.dropTeam
  cases y.sched.launch l.id with
  | none => rfl
  | some l =>
    dsimp only
    split
    · rfl
    · exact traceTeam_keeps liveKeeps_nodes d _ _ _ _

/-- A node that is marked as failed. -/
def failKey (lid : Nat) (x : Nat × NodeSt) : Nat × NodeSt := if x.1 == lid then (x.1, .failed) else x
theorem failsOn_failKey (lid : Nat) : FailsOn (failKey lid) := by
  refine ⟨fun x => ?_, fun x hx => ?_⟩
  · unfold failKey
    split <;> rfl
  · unfold failKey
    split
    · rfl
    · exact hx
theorem nodeSt_failKey {ks : List (Nat × NodeSt)} {n : Nat} {v : NodeSt} (h : nodeSt ks n = some v) : nodeSt (ks.map (failKey n)) n = some .failed := by
  have hkey : ((fun x : Nat × NodeSt => x.1 == n) ∘ failKey n) = fun x => x.1 == n := by
    funext x
    dsimp only [Function.comp]
    rw [(failsOn_failKey n).id]
  unfold nodeSt at h ⊢
  rw [List.find?_map, hkey]
  cases hf : ks.find? fun x => x.1 == n with
  | none =>
    rw [hf] at h
    exact absurd h (by simp)
  | some x =>
    have hx := List.find?_some hf
    rw [Option.map_some, Option.map_some, failKey, if_pos hx]
theorem failMark_falls (y : Die) (mute : Bool) (lid : Nat) : ∃ g, FailsOn g ∧ nodes (Die.failMark d y mute lid) = (y.ring, (keys y.sched).map g, y.sched.cq, y.sched.sq) ∧ (nodeSt (keys y.sched) lid = some .active → nodeSt ((keys y.sched).map g) lid = some .failed) := by
  have hsame (h : nodeSt (keys y.sched) lid ≠ some .active) : ∃ g, FailsOn g ∧ nodes y = (y.ring, (keys y.sched).map g, y.sched.cq, y.sched.sq) ∧ (nodeSt (keys y.sched) lid = some .active → nodeSt ((keys y.sched).map g) lid = some .failed) :=
    ⟨id, ⟨fun _ => rfl, fun _ h => h⟩, by rw [List.map_id]; rfl, fun ha => absurd ha h⟩
  have hst := nodeSt_keys y.sched lid
  unfold Die.failMark
  cases hl : y.sched.launch lid with
  | none =>
    rw [hl] at hst
    exact hsame (by rw [hst]; simp)
  | some l =>
    rw [hl] at hst
    dsimp only
    by_cases ha : (l.st != .active) = true
    · rw [if_pos ha]
      refine hsame fun h => ?_
      have : l.st = .active := Option.some.inj (hst.symm.trans h)
      rw [this] at ha
      exact absurd ha (by decide)
    · rw [if_neg ha]
      have hk : keys (y.sched.modLaunch lid fun x => { x with st := .failed, untold := !y.schedOn d }) = (keys y.sched).map (failKey lid) := by
        unfold keys Sched.modLaunch
        dsimp only
        rw [List.map_map, List.map_map]
        refine List.map_congr_left fun z _ => ?_
        dsimp only [Function.comp, failKey]
        split <;> rfl
      refine ⟨failKey lid, failsOn_failKey lid, ?_, fun h => nodeSt_failKey h⟩
      have hn : nodes { y with sched := y.sched.modLaunch lid fun x => { x with st := .failed, untold := !y.schedOn d } } = (y.ring, (keys y.sched).map (failKey lid), y.sched.cq, y.sched.sq) := by
        rw [nodes, hk]
        rfl
      split
      · exact (report_nodes d _ _ _ _).trans hn
      · exact hn

/-! ## A failure (R368, R418) -/

/-- The tables once a node's blocks are gone. -/
def failTables (lid : Nat) (q : Sched) : Sched := { (q.modLaunch lid fun x => { x with blks := x.blks.map fun (b : Blk) => if b.slots.isEmpty then { b with st := .retired, flts := [], aux := [], ctxs := [] } else b }) with
  cq := q.cq.filter fun x => x.1 != lid, sq := q.sq.filter fun x => x.1 != lid, out := q.out.filter fun x => x.1 != lid
  teams := q.teams.map fun (t : Team) => if t.lid == lid then { t with leaving := false } else t }
/-- What goes with a node that has been marked. -/
def failRest (s : State) (d : DieId) (lid : Nat) (l : Launch) : State :=
  let s := s.modDie d fun y =>
    let y := ((y.sched.teams.filter fun t => t.lid == lid && t.leaving).map (·.t)).foldl (fun y t => y.jSwapDone d (l.saveAt (t * l.teamsz))) y
    (((l.blks.filter fun b => !b.res.isEmpty).map fun b => l.teamOf b.l).eraseDups).foldl (fun y t => y.unhold d lid t) y
  let s := l.blks.foldl (fun s b => if b.slots.isEmpty then killCtxs s d l b else killBlk s d l b) s
  let s := s.modSched d (failTables lid)
  s.modDie d fun y =>
    let ts := (y.sched.teams.filter fun t => t.lid == lid && (y.teamSlots lid t.t).isEmpty).map (·.t)
    ts.foldl (fun y t => y.dropTeam d l t []) y
/-- A node that is marked, which the partner of a pair hears. -/
def failTold (s : State) (d : DieId) (lid : Nat) : State := s.tellPair (s.modDie d fun y => Die.failMark d y (s.muted d) lid) d
theorem failNode_eq (s : State) (d : DieId) (lid : Nat) : failNode s d lid = (((failTold s d lid).die d).sched.launch lid).elim (failTold s d lid) (failRest (failTold s d lid) d lid) := by
  unfold failNode
  dsimp only
  change (match ((failTold s d lid).die d).sched.launch lid with
    | none => failTold s d lid
    | some l => failRest (failTold s d lid) d lid l) = _
  cases ((failTold s d lid).die d).sched.launch lid with
  | none => rfl
  | some l => rfl
theorem failTold_falls (s : State) (d : DieId) (lid : Nat) : Falls d s (failTold s d lid) ∧ (nodeSt (keys (s.die d).sched) lid = some .active → nodeSt (keys ((failTold s d lid).die d).sched) lid = some .failed) := by
  obtain ⟨g, hg, hn, hst⟩ := failMark_falls (d := d) (s.die d) (s.muted d) lid
  have ht : nodes ((failTold s d lid).die d) = ((s.die d).ring, (keys (s.die d).sched).map g, (s.die d).sched.cq, (s.die d).sched.sq) := by
    refine Eq.trans (tellPair_sameNodes s _) ?_
    rw [State.die_modDie_same]
    exact hn
  have hr : ((failTold s d lid).die d).ring = (s.die d).ring := congrArg Prod.fst ht
  have hk : keys ((failTold s d lid).die d).sched = (keys (s.die d).sched).map g := congrArg (fun z => z.2.1) ht
  have hc : ((failTold s d lid).die d).sched.cq = (s.die d).sched.cq := congrArg (fun z => z.2.2.1) ht
  have hs : ((failTold s d lid).die d).sched.sq = (s.die d).sched.sq := congrArg (fun z => z.2.2.2) ht
  exact ⟨⟨hr, ⟨g, hg, hk⟩, fun e he => hc ▸ he, fun e he => hs ▸ he⟩, fun h => by rw [hk]; exact hst h⟩
theorem failRest_falls (s : State) (d : DieId) (lid : Nat) (l : Launch) : Falls d s (failRest s d lid l) ∧ ∀ e ∈ ((failRest s d lid l).die d).sched.cq ++ ((failRest s d lid l).die d).sched.sq, e.1 ≠ lid := by
  let u := l.blks.foldl (fun s b => if b.slots.isEmpty then killCtxs s d l b else killBlk s d l b) (s.modDie d fun y =>
    let y := ((y.sched.teams.filter fun t => t.lid == lid && t.leaving).map (·.t)).foldl (fun y t => y.jSwapDone d (l.saveAt (t * l.teamsz))) y
    (((l.blks.filter fun b => !b.res.isEmpty).map fun b => l.teamOf b.l).eraseDups).foldl (fun y t => y.unhold d lid t) y)
  have hu : SameNodes d s u := by
    refine SameNodes.trans (sameNodes_modDie s d fun y => ?_) (sameNodes_foldl (fun s b => ?_) _ _)
    · exact (foldl_keeps nodes (fun y t => unhold_nodes y lid t) _ _).trans (foldl_keeps nodes (fun y t => jSwapDone_keeps liveKeeps_nodes y d _) _ y)
    · split
      · exact sameNodes_killCtxs s l b
      · exact sameNodes_killBlk s l b
  have hend : SameNodes d (u.modSched d (failTables lid)) (failRest s d lid l) := sameNodes_modDie _ d fun y => foldl_keeps nodes (fun y t => dropTeam_nodes y l t []) _ y
  have hdie : (u.modSched d (failTables lid)).die d = { u.die d with sched := failTables lid (u.die d).sched } := by rw [modSched_die]
  have hmid : Falls d u (u.modSched d (failTables lid)) := by
    refine ⟨by rw [hdie], ⟨id, ⟨fun _ => rfl, fun _ h => h⟩, ?_⟩, fun e he => ?_, fun e he => ?_⟩
    · rw [hdie, List.map_id]
      exact keys_modLaunch (u.die d).sched lid fun _ => ⟨rfl, rfl⟩
    · rw [hdie] at he
      exact (List.mem_filter.1 he).1
    · rw [hdie] at he
      exact (List.mem_filter.1 he).1
  refine ⟨(hu.falls.trans hmid).trans hend.falls, fun e he => ?_⟩
  have hne (q : List (Nat × Nat)) (he : e ∈ q.filter fun x => x.1 != lid) : e.1 ≠ lid := by
    have := (List.mem_filter.1 he).2
    simpa using this
  rcases List.mem_append.1 he with he | he
  · have := hend.falls.cq e he
    rw [hdie] at this
    exact hne _ this
  · have := hend.falls.sq e he
    rw [hdie] at this
    exact hne _ this
theorem failNode_falls (s : State) (d : DieId) (lid : Nat) : Falls d s (failNode s d lid) := by
  rw [failNode_eq]
  cases ((failTold s d lid).die d).sched.launch lid with
  | none => exact (failTold_falls s d lid).1
  | some l => exact (failTold_falls s d lid).1.trans (failRest_falls _ d lid l).1
/-- An active node that fails is marked, and no queue names it. -/
theorem failNode_ends {lid : Nat} (h : nodeSt (keys (s.die d).sched) lid = some .active) : nodeSt (keys ((failNode s d lid).die d).sched) lid = some .failed ∧ ∀ e ∈ ((failNode s d lid).die d).sched.cq ++ ((failNode s d lid).die d).sched.sq, e.1 ≠ lid := by
  have ht := (failTold_falls s d lid).2 h
  have hsome : ∃ l, ((failTold s d lid).die d).sched.launch lid = some l := by
    rw [nodeSt_keys] at ht
    obtain ⟨l, hl, -⟩ := Option.map_eq_some_iff.1 ht
    exact ⟨l, hl⟩
  obtain ⟨l, hl⟩ := hsome
  rw [failNode_eq, hl]
  obtain ⟨hf, hq⟩ := failRest_falls (failTold s d lid) d lid l
  exact ⟨hf.nodeSt ht, hq⟩
theorem failAll_falls (d : DieId) (n : Nat) (s : State) : Falls d s (failAll d n s) := by
  induction n generalizing s with
  | zero => exact (SameNodes.refl s).falls
  | succ n ih =>
    unfold failAll
    cases (s.die d).sched.fallen with
    | none => exact (SameNodes.refl s).falls
    | some i => exact (failNode_falls s d i).trans (ih _)
/-- A killed node has failed, with all that follow it. -/
theorem respKill_ends {l : Launch} (hl : (s.die d).sched.launch l.id = some l) (ha : l.st = .active) : Falls d s (respKill s d l) ∧ (∃ l', ((respKill s d l).die d).sched.launch l.id = some l' ∧ l'.st = .failed) ∧
    ∀ e ∈ ((respKill s d l).die d).sched.cq ++ ((respKill s d l).die d).sched.sq, e.1 ≠ l.id := by
  have hst : nodeSt (keys (s.die d).sched) l.id = some .active := by rw [nodeSt_keys, hl, Option.map_some, ha]
  obtain ⟨hfail, hq⟩ := failNode_ends hst
  have hall := failAll_falls d ((failNode s d l.id).die d).sched.launches.length (failNode s d l.id)
  have hend := hall.nodeSt hfail
  rw [nodeSt_keys] at hend
  obtain ⟨l', hl', hst'⟩ := Option.map_eq_some_iff.1 hend
  refine ⟨(failNode_falls s d l.id).trans hall, ⟨l', hl', hst'⟩, fun e he => hq e ?_⟩
  rcases List.mem_append.1 he with he | he
  · exact List.mem_append_left _ (hall.cq e he)
  · exact List.mem_append_right _ (hall.sq e he)
end Fail

end Sys2Proof.Proofs
end

section
/-! SUPPORT. Faults and calls are posted and answered, and the statements about them (O47). -/

namespace Sys2Proof.Proofs

open Sys2Proof Sys2Proof.Machine Sys2Proof.Laws

/-! ## A record is posted (R365, R366) -/

section Post
variable {s : State} {d : DieId}

theorem length_faultBytes (r : FaultRec) : r.bytes.length = 64 := by
  simp only [FaultRec.bytes, wordLe, List.length_append, length_natLe]
theorem length_callBytes (l : Launch) (o : Owner) (k : SlotId) (arg : Word) (sem : Fin 32) (tick : Word) : (callBytes l o k arg sem tick).length = 32 := by
  simp only [callBytes, wordLe, List.length_append, length_natLe]
/-- The ring's next index. -/
def ringIdx (y : Die) (d : DieId) (off : Nat) : Byte := BitVec.ofNat 8 (y.rf d off 0 8)
/-- A die whose fault ring has taken a record. -/
def posted (d : DieId) (x : Unposted) (y : Die) : Die :=
  let i := ringIdx y d rFLTPTR
  let z := (y.poke ((y.getReg d rFLTQ &&& bits 47 14).toNat + 64 * i.toNat) x.flt.bytes false).setRf d rFLTPTR 0 8 (i.toNat + 1)
  { z with ring := (i.toNat, x.own) :: z.ring, fltUnread := z.fltUnread ++ [i] }
theorem faultPost_waits (h : bitAt ((s.die d).getReg d rFLTQ) 63 = false ∨ (s.die d).fltFree (ringIdx (s.die d) d rFLTPTR) = false ∨ (s.die d).postable = []) : exec (.faultPost d) s = .next s := by
  rw [exec_faultPost]
  unfold execFaultPost
  dsimp only
  rcases h with h | h | h
  · rw [h]
    exact if_pos rfl
  · unfold ringIdx at h
    rw [h, if_pos (by rw [Bool.not_false, Bool.or_true])]
  · rw [h]
    split <;> rfl
theorem faultPost_posts {k : SlotId} {a : Fin 8} {x : Unposted} (hen : bitAt ((s.die d).getReg d rFLTQ) 63 = true) (hf : (s.die d).fltFree (ringIdx (s.die d) d rFLTPTR) = true) (hp : (s.die d).postable = [x]) (hx : x.place = .slot k a) :
    exec (.faultPost d) s = .next ((s.modDie d fun _ => posted d x (s.die d)).modSlot d k fun t => { t with flt := vmod t.flt a fun p => p.map fun p => { p with idx := some (ringIdx (s.die d) d rFLTPTR) } }) := by
  unfold ringIdx at hf
  rw [exec_faultPost]
  unfold execFaultPost
  dsimp only
  rw [hen, hf, if_neg (by decide), hp]
  dsimp only [List.foldl_nil]
  rw [hx]
  dsimp only
  refine congrArg (fun u : State => Host.Outcome.next (u.modSlot d k _)) (modDie_congr ?_)
  rfl
theorem posted_mem (x : Unposted) (y : Die) : (posted d x y).mem = (y.poke ((y.getReg d rFLTQ &&& bits 47 14).toNat + 64 * (ringIdx y d rFLTPTR).toNat) x.flt.bytes false).mem := by
  have hset (z : Die) (off lo n v : Nat) (r : List (Nat × RingOwner)) (w : List Byte) : Die.mem { z.setRf d off lo n v with ring := r, fltUnread := w } = z.mem := rfl
  exact hset _ _ _ _ _ _ _
theorem posted_rf (x : Unposted) (y : Die) : (posted d x y).rf d rFLTPTR 0 8 =
    ((y.poke ((y.getReg d rFLTQ &&& bits 47 14).toNat + 64 * (ringIdx y d rFLTPTR).toNat) x.flt.bytes false).setRf d rFLTPTR 0 8 ((ringIdx y d rFLTPTR).toNat + 1)).rf d rFLTPTR 0 8 := by
  have hrest (z : Die) (v : List (Nat × RingOwner)) (w : List Byte) : Die.rf { z with ring := v, fltUnread := w } d rFLTPTR 0 8 = z.rf d rFLTPTR 0 8 := rf_congr _ rfl _ _ _
  exact hrest _ _ _
theorem posted_ends {x : Unposted} (y : Die) (hw : memWf y.mem = true) :
    (∀ j, memGet (posted d x y).mem j = if (y.getReg d rFLTQ &&& bits 47 14).toNat + 64 * (ringIdx y d rFLTPTR).toNat ≤ j ∧ j < (y.getReg d rFLTQ &&& bits 47 14).toNat + 64 * (ringIdx y d rFLTPTR).toNat + 64
      then x.flt.bytes.getD (j - ((y.getReg d rFLTQ &&& bits 47 14).toNat + 64 * (ringIdx y d rFLTPTR).toNat)) 0 else memGet y.mem j) ∧
    (posted d x y).rf d rFLTPTR 0 8 = ((ringIdx y d rFLTPTR).toNat + 1) % 256 ∧ ringIdx y d rFLTPTR ∈ (posted d x y).fltUnread ∧ (posted d x y).fltFree (ringIdx y d rFLTPTR) = false := by
  have hmem : ringIdx y d rFLTPTR ∈ (posted d x y).fltUnread := List.mem_append_right _ List.mem_cons_self
  refine ⟨fun j => ?_, ?_, hmem, ?_⟩
  · rw [posted_mem, memGet_poke _ _ _ _ _ hw, length_faultBytes]
  · rw [posted_rf]
    exact rf_setRf _ _ (by decide) (by decide)
  · unfold Die.fltFree
    rw [List.contains_iff_mem.2 hmem]
    rfl
end Post

/-! ## Answers to a record (R368) -/

section Resp
variable {s : State} {d : DieId} {i : Byte} {o : RingOwner} {l : Launch} {b : Blk}

theorem fltResp_free {act : Nat} (h : ∀ e ∈ (s.die d).ring, e.1 ≠ i.toNat) : fltResp s d i act = s := by
  have hf : (s.die d).ring.find? (fun e => e.1 == i.toNat) = none := List.find?_eq_none.2 fun e he => by simpa using h e he
  unfold fltResp
  rw [hf]
variable (hf : (s.die d).ring.find? (fun e => e.1 == i.toNat) = some (i.toNat, o)) (hl : (s.die d).sched.launch o.lid = some l) (hb : l.blk o.blk = some b)
include hf hl hb

theorem fltResp_cont (hs : l.st ≠ .failed) : fltResp s d i 0 = respCont s d i o l b := by
  unfold fltResp
  rw [hf]
  dsimp only
  rw [hl]
  dsimp only
  rw [hb, beq_false_of_ne hs]
  rfl
theorem fltResp_save (hs : l.st ≠ .failed) : fltResp s d i 1 = respSave s d i o l b := by
  unfold fltResp
  rw [hf]
  dsimp only
  rw [hl]
  dsimp only
  rw [hb, beq_false_of_ne hs]
  rfl
theorem fltResp_kill (hs : l.st ≠ .failed) : fltResp s d i 2 = (respKill s d l).modDie d fun y => y.freeIdx i := by
  unfold fltResp
  rw [hf]
  dsimp only
  rw [hl]
  dsimp only
  rw [hb, beq_false_of_ne hs]
  rfl
/-- Of a node that has failed an answer only frees the index it names. -/
theorem fltResp_failed (hs : l.st = .failed) (act : Nat) : fltResp s d i act = if act = 0 || act = 2 then s.modDie d fun y => y.freeIdx i else s := by
  unfold fltResp
  rw [hf]
  dsimp only
  rw [hl]
  dsimp only
  rw [hb, hs]
  rfl
end Resp

/-! ## `CONT` and `SAVE` (R368) -/

section Agent
variable {s : State} {d : DieId} {k : SlotId} {i : Byte} {o : RingOwner} {l : Launch} {b : Blk} {p : PFault}

/-- A change of a slot that leaves its agents as they are keeps every agent of the die. -/
theorem ag_modSlot (y : Die) (k : SlotId) {f : Slot → Slot} (hf : ∀ t, (f t).agCtl = t.agCtl ∧ (f t).agLde = t.agLde ∧ (f t).agAre = t.agAre ∧ (f t).agSte = t.agSte ∧ (f t).agMxe = t.agMxe) (a : Agent) : (y.modSlot k f).ag a = y.ag a := by
  have hslot (j : SlotId) : (y.modSlot k f).slot j = if k = j then f (y.slot j) else y.slot j := by
    split
    next h => rw [h, Die.slot_modSlot_same]
    next h => rw [Die.slot_modSlot_ne _ h]
  obtain h := fun j => hf (y.slot j)
  cases a with
  | core j => unfold Die.ag; dsimp only; rw [hslot]; split <;> simp [h j]
  | eng j e => cases e <;> (unfold Die.ag; dsimp only; rw [hslot]; split <;> simp [h j])
  | copy c => rfl
  | coll => rfl
  | sys n => rfl
/-- A team that leaves takes no fault with it, and no record. -/
theorem leaveTeam_ring (s : State) (d : DieId) (lid t : Nat) (barred : Bool) : ((leaveTeam s d lid t barred).die d).ring = (s.die d).ring := by
  cases hx : (s.die d).sched.team lid t with
  | none => rw [leaveTeam_absent (.inl hx)]
  | some x =>
    cases hl : (s.die d).sched.launch lid with
    | none => rw [leaveTeam_absent (.inr hl)]
    | some l =>
      cases hc : x.leaving || !(s.die d).schedOn d with
      | true => rw [leaveTeam_stays hx hl hc, modSched_die]
      | false =>
        obtain ⟨hv, hon⟩ := Bool.or_eq_false_iff.1 hc
        rw [leaveTeam_goes hx hl hv ((Bool.not_eq_false' _).mp hon), askSlots_die (F := Die.ring) (fun _ _ => rfl), leaveStart, State.die_modDie_same, jOpen_keeps (F := Die.ring) (fun _ _ _ _ => rfl) (fun _ _ _ => rfl), modSched_die]
theorem leaveTeam_flt (s : State) (d : DieId) (lid t : Nat) (barred : Bool) (k : SlotId) : ((leaveTeam s d lid t barred).slot d k).flt = (s.slot d k).flt := by
  cases hx : (s.die d).sched.team lid t with
  | none => rw [leaveTeam_absent (.inl hx)]
  | some x =>
    cases hl : (s.die d).sched.launch lid with
    | none => rw [leaveTeam_absent (.inr hl)]
    | some l =>
      cases hc : x.leaving || !(s.die d).schedOn d with
      | true => rw [leaveTeam_stays hx hl hc, modSched_slot]
      | false =>
        obtain ⟨hv, hon⟩ := Bool.or_eq_false_iff.1 hc
        rw [leaveTeam_slot hx hl hv ((Bool.not_eq_false' _).mp hon)]
        split <;> rfl
/-- An agent that is let go on: its failed rows are fetched again. -/
theorem contAgent_eq {a code : Nat} (hact : (s.ctl d k).act ≠ .faulted) (hc : code ≠ 18) (hr : (s.ag d ((s.die d).agentOf k a)).refused = []) : contAgent s d k a code = s.modSlot d k fun t => { t with ports := t.ports.map fun p => p.refetch a } := by
  have hag : (s.modSlot d k fun t => { t with ports := t.ports.map fun p => p.refetch a }).ag d ((s.die d).agentOf k a) = s.ag d ((s.die d).agentOf k a) := by
    unfold State.ag State.modSlot
    rw [State.die_modDie_same]
    exact ag_modSlot (s.die d) k (f := fun t => { t with ports := t.ports.map fun p => p.refetch a }) (fun _ => ⟨rfl, rfl, rfl, rfl, rfl⟩) _
  unfold contAgent
  dsimp only
  have hno : ¬ (decide (a = 0) && (s.ctl d k).act == .faulted) = true := by
    rw [beq_false_of_ne hact, Bool.and_false]
    decide
  rw [if_neg hno, if_neg hc, hag, hr]
  rfl
/-- `CONT` of a replayable fault whose block goes on. -/
theorem respCont_goes (hk : b.slots[o.sidx]? = some k) (ho : o.agent < 7) (hf : vget (s.slot d k).flt (agNum o.agent) = some p) (hi : p.idx = some i) (hrpl : p.r.rpl = true) (hcode : p.r.code ≠ 18) (hh : b.halted = 0)
    (hr : (s.ag d ((s.die d).agentOf k o.agent)).refused = []) (hact : (s.ctl d k).act ≠ .faulted) :
    respCont s d i o l b = (s.modDie d fun y => y.freeIdx i).modSlot d k fun t => { t with flt := vset t.flt (agNum o.agent) none, ports := t.ports.map fun p => p.refetch o.agent } := by
  let u := s.modDie d fun y => y.freeIdx i
  let v := u.modSlot d k fun t => { t with flt := vset t.flt (agNum o.agent) none }
  have hu : u.die d = (s.die d).freeIdx i := State.die_modDie_same _ _ _
  have huf : vget (u.slot d k).flt (agNum o.agent) = some p := by
    rw [State.slot, hu]
    exact hf
  have hv : v.die d = ((s.die d).freeIdx i).modSlot k fun t => { t with flt := vset t.flt (agNum o.agent) none } := by
    change (u.modDie d _).die d = _
    rw [State.die_modDie_same, hu]
  have hvact : (v.ctl d k).act ≠ .faulted := by
    rw [State.ctl, State.slot, hv, Die.slot_modSlot_same]
    exact hact
  have hvag : (v.ag d ((v.die d).agentOf k o.agent)).refused = [] := by
    have ha : (v.die d).agentOf k o.agent = (s.die d).agentOf k o.agent := by rw [hv]; rfl
    rw [ha, State.ag, hv, ag_modSlot _ k (f := fun t => { t with flt := vset t.flt (agNum o.agent) none }) fun _ => ⟨rfl, rfl, rfl, rfl, rfl⟩]
    have hfree : ((s.die d).freeIdx i).ag ((s.die d).agentOf k o.agent) = (s.die d).ag ((s.die d).agentOf k o.agent) := by
      cases (s.die d).agentOf k o.agent with
      | eng j e => cases e <;> rfl
      | _ => rfl
    rw [hfree]
    exact hr
  unfold respCont
  dsimp only
  rw [hk]
  dsimp only
  rw [huf]
  dsimp only
  rw [if_neg (by rw [hi]; simp), if_neg (by omega), if_pos (by rw [hrpl, hh]; rfl)]
  refine (contAgent_eq (s := v) hvact hcode hvag).trans ?_
  exact modSlot_modSlot _ _ _ _ _
/-- `SAVE`: the team leaves, and the fault is kept. -/
theorem respSave_leaves {x : Team} (hk : b.slots[o.sidx]? = some k) (ho : o.agent < 7) (hf : vget (s.slot d k).flt (agNum o.agent) = some p) (hi : p.idx = some i) (hx : (s.die d).sched.team l.id (l.teamOf b.l) = some x) (hl : (s.die d).sched.launch l.id = some l)
    (hon : (s.die d).schedOn d = true) :
    ∃ z, ((respSave s d i o l b).die d).sched.team l.id (l.teamOf b.l) = some z ∧ z.leaving = true ∧ ((respSave s d i o l b).die d).ring = (s.die d).ring ∧ vget ((respSave s d i o l b).slot d k).flt (agNum o.agent) = some { p with kept := some 1 } := by
  let f : Blk → Blk := fun x => { x with flts := x.flts.map fun e => if e.1 == o.sidx && e.2.1 == o.agent && e.2.2.idx == some i then (e.1, e.2.1, { e.2.2 with kept := some 1 }) else e }
  let u := (s.modSched d fun q => q.modBlk o.lid o.blk f).modSlot d k fun t => { t with flt := vmod t.flt (agNum o.agent) fun p => p.map fun (p : PFault) => if p.idx == some i then { p with kept := some 1 } else p }
  have he : respSave s d i o l b = leaveTeam u d l.id (l.teamOf b.l) false := by
    unfold respSave
    dsimp only
    rw [if_neg (by omega), hk]
    rfl
  have hud : u.die d = { s.die d with sched := (s.die d).sched.modBlk o.lid o.blk f }.modSlot k fun t => { t with flt := vmod t.flt (agNum o.agent) fun p => p.map fun (p : PFault) => if p.idx == some i then { p with kept := some 1 } else p } := by
    change ((s.modSched d fun q => q.modBlk o.lid o.blk f).modDie d _).die d = _
    rw [State.die_modDie_same, modSched_die]
  have hux : (u.die d).sched.team l.id (l.teamOf b.l) = some x := by
    rw [hud]
    exact hx
  have hul : ∃ l', (u.die d).sched.launch l.id = some l' := by
    rw [hud]
    have hmod := launch_modBlk_any (s.die d).sched o.lid o.blk f l.id
    rw [hl] at hmod
    exact ⟨_, hmod⟩
  have huon : (u.die d).schedOn d = true := by
    rw [hud]
    exact hon
  have huf : vget (u.slot d k).flt (agNum o.agent) = some { p with kept := some 1 } := by
    rw [State.slot, hud, Die.slot_modSlot_same]
    change vget (vmod (s.slot d k).flt (agNum o.agent) _) (agNum o.agent) = _
    rw [vget_vmod_same, hf, Option.map_some, if_pos (by rw [hi]; exact beq_self_eq_true _)]
  obtain ⟨l', hl'⟩ := hul
  obtain ⟨z, hz, hzl⟩ := leaveTeam_leaves (barred := false) hux hl' huon
  rw [he]
  refine ⟨z, hz, hzl, (leaveTeam_ring u d _ _ _).trans (by rw [hud]; rfl), ?_⟩
  rw [leaveTeam_flt]
  exact huf
end Agent

end Sys2Proof.Proofs
end

section
/-! SUPPORT. System calls are posted and completed, and the statements of faults, calls and their answers (O47). -/

namespace Sys2Proof.Proofs

open Sys2Proof Sys2Proof.Machine Sys2Proof.Laws

/-! ## A call is posted (R203, R358, R359) -/

section Call
variable {s : State} {d : DieId} {k : SlotId} {arg : Word} {sem : Fin 32} {ps : Vector W32 6} {rest : List SbOp} {o : Owner} {l : Launch}

/-- A die whose call ring has taken a record. -/
def called (d : DieId) (l : Launch) (o : Owner) (k : SlotId) (arg : Word) (sem : Fin 32) (i : Byte) (y : Die) : Die :=
  let y := y.poke ((y.getReg d rSYSCQ &&& bits 47 13).toNat + 32 * i.toNat) (callBytes l o k arg sem (y.tick d)) false
  { y.setRf d rSYSCPTR 0 8 (i.toNat + 1) with calls := y.calls ++ [⟨i, o, k, sem⟩], callUnread := y.callUnread ++ [i] }
theorem called_mem (i : Byte) (y : Die) : (called d l o k arg sem i y).mem = (y.poke ((y.getReg d rSYSCQ &&& bits 47 13).toNat + 32 * i.toNat) (callBytes l o k arg sem (y.tick d)) false).mem := by
  have hset (z : Die) (off lo n v : Nat) (r : List Call) (w : List Byte) : Die.mem { z.setRf d off lo n v with calls := r, callUnread := w } = z.mem := rfl
  exact hset _ _ _ _ _ _ _
theorem called_rf (i : Byte) (y : Die) : (called d l o k arg sem i y).rf d rSYSCPTR 0 8 = (i.toNat + 1) % 256 := by
  have hrest (z : Die) (v : List Call) (w : List Byte) : Die.rf { z with calls := v, callUnread := w } d rSYSCPTR 0 8 = z.rf d rSYSCPTR 0 8 := rf_congr _ rfl _ _ _
  exact (hrest _ _ _).trans (rf_setRf _ _ (by decide) (by decide))
theorem called_rest (i : Byte) (y : Die) : (called d l o k arg sem i y).slots = y.slots ∧ (called d l o k arg sem i y).calls = y.calls ++ [⟨i, o, k, sem⟩] := by
  have hset (z : Die) (off lo n v : Nat) : (z.setRf d off lo n v).slots = z.slots := rfl
  have hpoke (z : Die) (a : Nat) (bs : List Byte) (psn : Bool) : (z.poke a bs psn).slots = z.slots ∧ (z.poke a bs psn).calls = z.calls := ⟨rfl, rfl⟩
  unfold called
  dsimp only
  rw [hset, (hpoke _ _ _ _).1, (hpoke _ _ _ _).2]
  exact ⟨rfl, rfl⟩
variable (hsb : (s.slot d k).agCtl.sb = .sysc arg sem ps :: rest) (ho : (s.ctl d k).own = some o) (hl : (s.die d).ownLaunch k = some l)
include hsb ho hl

/-- A call as the ring takes it. -/
def callState (s : State) (d : DieId) (k : SlotId) (arg : Word) (sem : Fin 32) : State := (popSb s d (.core k)).pairStores d (.core k) [⟨(30000, sem.val, 0), 0, wordLe 8 arg, 8⟩]
theorem syscPost_eq : exec (.syscPost d k) s =
    if !relMet (s.die d) k 2 ps [] || !s.pairRoom d 1 then .next s
    else if s.muted d then .next (callState s d k arg sem)
    else if !(s.die d).callRoom d then .next s
    else .next ((callState s d k arg sem).modDie d (called d l o k arg sem (ringIdx (s.die d) d rSYSCPTR))) := by
  rw [exec_syscPost]
  unfold execSyscPost
  dsimp only
  rw [show ((s.die d).slot k).agCtl.sb = .sysc arg sem ps :: rest from hsb, show ((s.die d).slot k).ctl.own = some o from ho, hl]
  rfl
theorem syscPost_waits (h : relMet (s.die d) k 2 ps [] = false) : exec (.syscPost d k) s = .next s := by
  rw [syscPost_eq hsb ho hl, h]
  rfl
theorem syscPost_full (hm : s.muted d = false) (h : bitAt ((s.die d).getReg d rSYSCQ) 63 = false ∨ (s.die d).callFree (ringIdx (s.die d) d rSYSCPTR) = false) : exec (.syscPost d k) s = .next s := by
  have hroom : (s.die d).callRoom d = false := by
    unfold Die.callRoom
    rcases h with h | h
    · rw [h, Bool.false_and]
    · unfold ringIdx at h
      rw [h, Bool.and_false]
  rw [syscPost_eq hsb ho hl, hm, hroom]
  split <;> rfl
theorem syscPost_posts (hw : MemInv s) (h : relMet (s.die d) k 2 ps [] = true) (hp : (s.die d).paired d = none) (hen : bitAt ((s.die d).getReg d rSYSCQ) 63 = true) (hf : (s.die d).callFree (ringIdx (s.die d) d rSYSCPTR) = true) :
    ∃ t, exec (.syscPost d k) s = .next t ∧ (t.slot d k).agCtl.sb = rest ∧ (t.die d).rf d rSYSCPTR 0 8 = ((ringIdx (s.die d) d rSYSCPTR).toNat + 1) % 256 ∧ (t.die d).calls = (s.die d).calls ++ [⟨ringIdx (s.die d) d rSYSCPTR, o, k, sem⟩] ∧
      (∀ j, memGet (t.die d).mem j = if ((s.die d).getReg d rSYSCQ &&& bits 47 13).toNat + 32 * (ringIdx (s.die d) d rSYSCPTR).toNat ≤ j ∧ j < ((s.die d).getReg d rSYSCQ &&& bits 47 13).toNat + 32 * (ringIdx (s.die d) d rSYSCPTR).toNat + 32
        then (callBytes l o k arg sem ((s.die d).tick d)).getD (j - (((s.die d).getReg d rSYSCQ &&& bits 47 13).toNat + 32 * (ringIdx (s.die d) d rSYSCPTR).toNat)) 0 else memGet (s.die d).mem j) := by
  have hroom : s.pairRoom d 1 = true := by
    unfold State.pairRoom
    rw [hp]
  have hmuted : s.muted d = false := by
    unfold State.muted
    rw [hp]
  have hcall : (s.die d).callRoom d = true := by
    unfold Die.callRoom
    unfold ringIdx at hf
    rw [hen, hf]
    rfl
  have hstate : callState s d k arg sem = popSb s d (.core k) := pairStores_none (popSb_paired hp)
  have hexec := syscPost_eq hsb ho hl
  rw [h, hroom, hmuted, hcall, hstate] at hexec
  have hd : ((popSb s d (.core k)).modDie d (called d l o k arg sem (ringIdx (s.die d) d rSYSCPTR))).die d = called d l o k arg sem (ringIdx (s.die d) d rSYSCPTR) ((popSb s d (.core k)).die d) := State.die_modDie_same _ _ _
  have hreg : ((popSb s d (.core k)).die d).reg = (s.die d).reg := by
    rw [popSb_die]
    rfl
  have hmem : ((popSb s d (.core k)).die d).mem = (s.die d).mem := by
    rw [popSb_die]
    rfl
  obtain ⟨hslots, hcalls⟩ := called_rest (d := d) (l := l) (o := o) (k := k) (arg := arg) (sem := sem) (ringIdx (s.die d) d rSYSCPTR) ((popSb s d (.core k)).die d)
  refine ⟨_, hexec, ?_, ?_, ?_, fun j => ?_⟩
  · rw [State.slot, hd, Die.slot, hslots]
    have hag := congrArg AgentSt.sb (popSb_ag (s := s) (d := d) (k := k))
    have hrest : (s.ag d (.core k)).sb.drop 1 = rest := by
      change (s.slot d k).agCtl.sb.drop 1 = rest
      rw [hsb]
      rfl
    exact Eq.trans hag hrest
  · rw [hd]
    exact called_rf _ _
  · rw [hd, hcalls, popSb_die]
    rfl
  · rw [hd, called_mem, memGet_poke _ _ _ _ _ (by rw [hmem]; exact hw d), length_callBytes, hmem, getReg_congr d hreg]
    have htick : ((popSb s d (.core k)).die d).tick d = (s.die d).tick d := by
      unfold Die.tick
      rw [getReg_congr d hreg]
    rw [htick]
end Call

/-! ## A call is completed (R359) -/

section Done
variable {s : State} {d : DieId} {i : Byte} {c : Call} {l : Launch} {b : Blk} {k : SlotId}

theorem syscDone_none (h : ∀ c ∈ (s.die d).calls, c.idx ≠ i) : syscDone s d i = s := by
  have hf : (s.die d).calls.find? (fun c => c.idx == i) = none := List.find?_eq_none.2 fun c hc => by simpa using h c hc
  unfold syscDone
  rw [hf]
theorem syscDone_eq (hc : (s.die d).calls.find? (fun c => c.idx == i) = some c) (hl : (s.die d).sched.launch c.own.lid = some l) (hb : l.blk c.own.blk = some b) (hk : b.slots[c.own.sidx]? = some k) :
    syscDone s d i = (s.modDie d fun y => { y with calls := y.calls.filter fun x => x.idx != i }).modSlot d k fun t => { t with sems := vmod t.sems c.sem (· + 1) } := by
  unfold syscDone
  rw [hc]
  dsimp only
  rw [State.die_modDie_same, hl]
  dsimp only
  rw [hb]
  dsimp only
  rw [hk]
  rfl
theorem syscDone_ends (hc : (s.die d).calls.find? (fun c => c.idx == i) = some c) (hl : (s.die d).sched.launch c.own.lid = some l) (hb : l.blk c.own.blk = some b) (hk : b.slots[c.own.sidx]? = some k) :
    vget ((syscDone s d i).slot d k).sems c.sem = vget (s.slot d k).sems c.sem + 1 ∧ (∀ x ∈ ((syscDone s d i).die d).calls, x.idx ≠ i) ∧ SameMem s (syscDone s d i) ∧ ∀ j, j ≠ c.sem → vget ((syscDone s d i).slot d k).sems j = vget (s.slot d k).sems j := by
  let u := s.modDie d fun y => { y with calls := y.calls.filter fun x => x.idx != i }
  have hu : u.die d = { s.die d with calls := (s.die d).calls.filter fun x => x.idx != i } := State.die_modDie_same _ _ _
  have hslot : ((syscDone s d i).slot d k).sems = vmod (s.slot d k).sems c.sem (· + 1) := by
    rw [syscDone_eq hc hl hb hk, State.slot_modSlot_same, State.slot, hu]
    rfl
  refine ⟨by rw [hslot, vget_vmod_same], fun x hx => ?_, ?_, fun j hj => by rw [hslot, vget_vmod_ne _ fun e => hj e.symm]⟩
  · have hcalls : ((syscDone s d i).die d).calls = (s.die d).calls.filter fun x => x.idx != i := by
      rw [syscDone_eq hc hl hb hk, State.modSlot, State.die_modDie_same, hu]
      rfl
    rw [hcalls] at hx
    simpa using (List.mem_filter.1 hx).2
  · rw [syscDone_eq hc hl hb hk]
    exact SameMem.trans (sameMem_modDie s d _ rfl) (sameMem_modSlot _ _ _ _)
end Done

/-- An index that is freed. -/
theorem freed_ends {s t : State} {d : DieId} {i : Byte} (hr : (t.die d).ring = (s.die d).ring) : ((t.modDie d fun y => y.freeIdx i).die d).sched = (t.die d).sched ∧ (∀ e ∈ ((t.modDie d fun y => y.freeIdx i).die d).ring, e.1 ≠ i.toNat) ∧
    ∀ e ∈ (s.die d).ring, e.1 ≠ i.toNat → e ∈ ((t.modDie d fun y => y.freeIdx i).die d).ring := by
  have hfree (y : Die) : (y.freeIdx i).sched = y.sched ∧ (y.freeIdx i).ring = y.ring.filter fun e => e.1 != i.toNat := ⟨rfl, rfl⟩
  rw [State.die_modDie_same, (hfree _).1, (hfree _).2, hr]
  refine ⟨rfl, fun e he => ?_, fun e he hne => List.mem_filter.2 ⟨he, by simpa using hne⟩⟩
  simpa using (List.mem_filter.1 he).2
/-- A record that is posted changes no slot. -/
theorem posted_flt {d : DieId} (x : Unposted) (y : Die) (k : SlotId) : ((posted d x y).slot k).flt = (y.slot k).flt := by
  have hset (z : Die) (off lo n v : Nat) (r : List (Nat × RingOwner)) (w : List Byte) : Die.slots { z.setRf d off lo n v with ring := r, fltUnread := w } = z.slots := rfl
  have hpoke (z : Die) (a : Nat) (bs : List Byte) (psn : Bool) : (z.poke a bs psn).slots = z.slots := rfl
  have hs : (posted d x y).slots = y.slots := (hset _ _ _ _ _ _ _).trans (hpoke _ _ _ _)
  exact congrArg Slot.flt (slot_of_slots hs k)
/-- Settles O47: the posts of records and calls by what a poke writes, the answers to a record by the equation of each action, and a kill by what the failure of a node leaves of the others. -/
theorem faultsCallsAndResponses : Obligations.FaultsCallsAndResponses := by
  refine ⟨?_, ?_, ?_, ?_, ?_⟩
  · intro s d hw y i at_
    refine ⟨faultPost_waits, fun k a x hen hf hp hx => ?_⟩
    obtain ⟨hmem, hrf, hin, hfree⟩ := posted_ends (d := d) (x := x) (s.die d) (hw d)
    have hd (f : Slot → Slot) : ((s.modDie d fun _ => posted d x (s.die d)).modSlot d k f).die d = (posted d x (s.die d)).modSlot k f := by
      rw [State.modSlot, State.die_modDie_same, State.die_modDie_same]
    have hkeep (z : Die) (f : Slot → Slot) : (z.modSlot k f).mem = z.mem ∧ (z.modSlot k f).reg = z.reg ∧ (z.modSlot k f).fltUnread = z.fltUnread ∧ (z.modSlot k f).ring = z.ring := ⟨rfl, rfl, rfl, rfl⟩
    have hidx (z : Die) (f : Slot → Slot) (i : Byte) : (z.modSlot k f).fltFree i = z.fltFree i := rfl
    refine ⟨_, faultPost_posts hen hf hp hx, fun j => ?_, ?_, ?_, ?_, fun p hpf => ?_⟩
    · rw [hd, (hkeep _ _).1]
      exact hmem j
    · rw [hd, rf_congr d (hkeep _ _).2.1]
      exact hrf
    · rw [hd, (hkeep _ _).2.2.1]
      exact hin
    · rw [hd, hidx]
      exact hfree
    · rw [State.slot_modSlot_same, State.slot, State.die_modDie_same]
      dsimp only
      rw [vget_vmod_same, posted_flt]
      change Option.map _ (vget (s.slot d k).flt a) = _
      rw [hpf]
      rfl
  · intro s d i
    refine ⟨fun h => ?_, fun o l b hf hl hb => ⟨fun k p hk ho hp hi => ⟨fun hrpl hs hcode hh hr hact => ?_, fun x hs hx hon => ?_⟩, fun hs => ?_, fun hs => ?_⟩⟩
    · rw [exec_fltrespCont, exec_fltrespSave, exec_fltrespKill, execFltrespCont, execFltrespSave, execFltrespKill, fltResp_free h, fltResp_free h, fltResp_free h]
      exact ⟨rfl, rfl, rfl⟩
    · rw [exec_fltrespCont, execFltrespCont, fltResp_cont hf hl hb hs, respCont_goes hk ho hp hi hrpl hcode hh hr hact]
      rfl
    · have hid : l.id = o.lid := launch_id hl
      obtain ⟨z, hz, hzl, hr, hkept⟩ := respSave_leaves (l := l) (b := b) hk ho hp hi hx (hid ▸ hl) hon
      refine ⟨respSave s d i o l b, z, ?_, hz, hzl, hr, hkept⟩
      rw [exec_fltrespSave, execFltrespSave, fltResp_save hf hl hb hs]
    · have hid : l.id = o.lid := launch_id hl
      obtain ⟨hfalls, ⟨l', hl', hst⟩, hq⟩ := respKill_ends (s := s) (d := d) (l := l) (hid ▸ hl) hs
      obtain ⟨hsched, hgone, hstays⟩ := freed_ends (i := i) hfalls.ring
      refine ⟨(respKill s d l).modDie d fun y => y.freeIdx i, l', ?_, ?_, hst, hgone, hstays, ?_⟩
      · rw [exec_fltrespKill, execFltrespKill, fltResp_kill hf hl hb (by rw [hs]; decide)]
      · rw [hsched]
        exact hl'
      · rw [hsched]
        exact hq
    · rw [exec_fltrespCont, exec_fltrespSave, exec_fltrespKill, execFltrespCont, execFltrespSave, execFltrespKill, fltResp_failed hf hl hb hs, fltResp_failed hf hl hb hs, fltResp_failed hf hl hb hs]
      exact ⟨rfl, rfl, rfl⟩
  · intro s d k arg sem ps rest o l hw hsb ho hl y i at_
    exact ⟨fun h => syscPost_waits hsb ho hl h, fun hm h => syscPost_full hsb ho hl hm h, fun h hp hen hf => syscPost_posts hsb ho hl hw h hp hen hf⟩
  · intro s d i c l b k hc hl hb hk hq
    obtain ⟨h1, h2, h3, h4⟩ := syscDone_ends hc hl hb hk
    refine ⟨syscDone s d i, ?_, h1, h2, h3, h4⟩
    rw [exec_syscdone, execSyscdone, if_pos hq]
  · intro s d i h
    rw [exec_syscdone, execSyscdone]
    rcases h with h | h
    · rw [h]
      rfl
    · rw [syscDone_none h, ite_self]

end Sys2Proof.Proofs
end

section
/-! SUPPORT. The canonical form of every store (O60): what it is of a slot, of the tables, of a die and of a state, and of what the model's functions answer. One predicate serves both statements: with `full` false it speaks of the memories alone, with `full` true of every store. -/

namespace Sys2Proof.Proofs

open Sys2Proof Sys2Proof.Machine Sys2Proof.Laws

variable {full : Prop}

def TileCanon (t : Tile) : Prop := spWf (0 : Byte) t.data = true ∧ spWf (0 : Byte) t.side = true
def BankCanon (b : Bank) : Prop := spWf (0 : W32) b.acc = true ∧ spWf (0 : Byte) b.wts = true ∧ spWf (0 : BitVec 24) b.wsc = true ∧ ∀ n, spWf (0 : Byte) (vget b.cb n) = true
def SlotCanon (full : Prop) (t : Slot) : Prop := full → (∀ n, TileCanon (vget t.tiles n)) ∧ BankCanon t.bank
def SchedCanon (full : Prop) (q : Sched) : Prop := full → spWf zero5 q.acc = true ∧ spWf (2 : BitVec 3) q.cat = true ∧ spWf (0, zero5) q.mark = true
def DieCanon (full : Prop) (y : Die) : Prop := memWf y.mem = true ∧ (full → spWf (0 : W32) y.proofs = true) ∧ SchedCanon full y.sched ∧ ∀ k, SlotCanon full (y.slot k)
def StateCanon (full : Prop) (s : State) : Prop := ∀ d, DieCanon full (s.die d)
def OutCanon (full : Prop) : Out → Prop
  | .next s => StateCanon full s
  | _ => True
def XCanon {α : Type} (full : Prop) (r : XRes α) : Prop := DieCanon full r.die
def GotCanon {α : Type} (full : Prop) : Got α → Prop
  | .ok s _ => StateCanon full s
  | .wait => True
  | .fault s _ _ => StateCanon full s
def PreCanon {α : Type} (full : Prop) : Pre α → Prop
  | .ok s _ => StateCanon full s
  | .wait s => StateCanon full s
  | .fault s _ _ _ _ => StateCanon full s

def CResCanon (full : Prop) : CRes → Prop
  | .ok s _ => StateCanon full s
  | .wait s => StateCanon full s
  | .fault s _ _ _ _ => StateCanon full s
def ChkCanon (full : Prop) : Chk → Prop
  | .ok d _ _ _ _ => DieCanon full d
  | .wait d => DieCanon full d
  | .fault d _ _ _ => DieCanon full d
def TodoCanon (full : Prop) : Todo → Prop
  | .run _ s => StateCanon full s
  | .done s => StateCanon full s

section Parts
variable {y : Die} {s : State} {α β : Type}

theorem die_canon (hm : memWf y.mem = true) (hp : full → spWf (0 : W32) y.proofs = true) (hq : SchedCanon full y.sched) (hk : ∀ k, SlotCanon full (y.slot k)) : DieCanon full y := ⟨hm, hp, hq, hk⟩
theorem DieCanon.mem (h : DieCanon full y) : memWf y.mem = true := h.1
theorem DieCanon.proofs (h : DieCanon full y) : full → spWf (0 : W32) y.proofs = true := h.2.1
theorem DieCanon.sched (h : DieCanon full y) : SchedCanon full y.sched := h.2.2.1
theorem DieCanon.slot (h : DieCanon full y) (k : SlotId) : SlotCanon full (y.slot k) := h.2.2.2 k
theorem StateCanon.die (h : StateCanon full s) (d : DieId) : DieCanon full (s.die d) := h d
theorem StateCanon.slot (h : StateCanon full s) (d : DieId) (k : SlotId) : SlotCanon full (s.slot d k) := (h d).slot k
theorem OutCanon.next {o : Out} {t : State} (e : o = .next t) (h : OutCanon full o) : StateCanon full t := by
  subst e
  exact h
theorem XCanon.ok {r : XRes α} {d : Die} {a : α} (e : r = .ok d a) (h : XCanon full r) : DieCanon full d := by
  subst e
  exact h
theorem XCanon.wait {r : XRes α} {d : Die} (e : r = .wait d) (h : XCanon full r) : DieCanon full d := by
  subst e
  exact h
theorem XCanon.fault {r : XRes α} {d : Die} {c a : Nat} (e : r = .fault d c a) (h : XCanon full r) : DieCanon full d := by
  subst e
  exact h
theorem GotCanon.ok {r : Got α} {t : State} {a : α} (e : r = .ok t a) (h : GotCanon full r) : StateCanon full t := by
  subst e
  exact h
theorem GotCanon.fault {r : Got α} {t : State} {c : Nat} {a : Word} (e : r = .fault t c a) (h : GotCanon full r) : StateCanon full t := by
  subst e
  exact h
theorem PreCanon.ok {r : Pre α} {t : State} {a : α} (e : r = .ok t a) (h : PreCanon full r) : StateCanon full t := by
  subst e
  exact h
theorem PreCanon.wait {r : Pre α} {t : State} (e : r = .wait t) (h : PreCanon full r) : StateCanon full t := by
  subst e
  exact h
theorem PreCanon.fault {r : Pre α} {t : State} {c : Nat} {w a : Word} {u : Nat} (e : r = .fault t c w a u) (h : PreCanon full r) : StateCanon full t := by
  subst e
  exact h
theorem CResCanon.ok {r : CRes} {t : State} {o : Open} (e : r = .ok t o) (h : CResCanon full r) : StateCanon full t := by
  subst e
  exact h
theorem CResCanon.wait {r : CRes} {t : State} (e : r = .wait t) (h : CResCanon full r) : StateCanon full t := by
  subst e
  exact h
theorem CResCanon.fault {r : CRes} {t : State} {c : Nat} {a : Word} {u : Nat} {i : Word} (e : r = .fault t c a u i) (h : CResCanon full r) : StateCanon full t := by
  subst e
  exact h
theorem ChkCanon.ok {r : Chk} {d : Die} {b : Option Nat} {l : List (Nat × Instr)} {c p : Nat} (e : r = .ok d b l c p) (h : ChkCanon full r) : DieCanon full d := by
  subst e
  exact h
theorem ChkCanon.wait {r : Chk} {d : Die} (e : r = .wait d) (h : ChkCanon full r) : DieCanon full d := by
  subst e
  exact h
theorem ChkCanon.fault {r : Chk} {d : Die} {c p : Nat} {a : Word} (e : r = .fault d c p a) (h : ChkCanon full r) : DieCanon full d := by
  subst e
  exact h
theorem snd_canon {p : β → Prop} {r : α × β} (h : p r.2) {a : α} {b : β} (e : r = (a, b)) : p b := by
  subst e
  exact h
theorem ite_canon {p : α → Prop} {c : Prop} [Decidable c] {a b : α} (ha : p a) (hb : p b) : p (if c then a else b) := by
  split
  · exact ha
  · exact hb
theorem elim_canon {p : α → Prop} {o : Option β} {a : α} {f : β → α} (ha : p a) (hf : ∀ b, p (f b)) : p (o.elim a f) := by
  cases o with
  | none => exact ha
  | some b => exact hf b
theorem foldl_canon {p : α → Prop} {f : α → β → α} (hf : ∀ x b, p x → p (f x b)) {l : List β} {a : α} (ha : p a) : p (l.foldl f a) := by
  induction l generalizing a with
  | nil => exact ha
  | cons b l ih => exact ih (hf a b ha)
end Parts

/-! ## The updates of a state (R2, R84) -/

section Updates
variable {y : Die} {s : State}

theorem die_modSlot_canon {d : Die} (hd : DieCanon full d) {k : SlotId} {f : Slot → Slot} (hf : ∀ t, SlotCanon full t → SlotCanon full (f t)) : DieCanon full (d.modSlot k f) := by
  refine ⟨hd.mem, hd.proofs, hd.sched, fun j => ?_⟩
  change SlotCanon full (vget (vmod d.slots k f) j)
  rw [vget_vmod]
  split
  · exact hf _ (hd.slot k)
  · exact hd.slot j
theorem slots_map_canon {d : Die} {f : Slot → Slot} (hk : ∀ k, SlotCanon full (d.slot k)) (hf : ∀ t, SlotCanon full t → SlotCanon full (f t)) (k : SlotId) : SlotCanon full (vget (d.slots.map f) k) := by
  rw [vget_map]
  exact hf _ (hk k)
theorem state_modDie_canon {s : State} (hs : StateCanon full s) {d : DieId} {f : Die → Die} (hf : ∀ y, DieCanon full y → DieCanon full (f y)) : StateCanon full (s.modDie d f) := by
  intro e
  by_cases h : d = e
  · subst h
    rw [State.die_modDie_same]
    exact hf _ (hs.die d)
  · rw [State.die_modDie_ne s h]
    exact hs.die e
theorem die_poke_canon {d : Die} (hd : DieCanon full d) {a : Nat} {bs : List Byte} {psn : Bool} : DieCanon full (d.poke a bs psn) := ⟨memWf_poke d a bs psn hd.mem, hd.proofs, hd.sched, hd.slot⟩
theorem die_freeLines_canon {d : Die} (hd : DieCanon full d) {a n : Nat} : DieCanon full (d.freeLines a n) := ⟨memWf_freeLines d a n hd.mem, hd.proofs, hd.sched, hd.slot⟩
end Updates

end Sys2Proof.Proofs
end

section
/-! SUPPORT. The rules of the canonical form for the updates of a state (O60): registers, slots, the trace, the agents; translations, accesses and the accesses made for a process. -/

namespace Sys2Proof.Proofs

open Sys2Proof Sys2Proof.Machine Sys2Proof.Laws

variable {full : Prop}

theorem die_pokes_canon {d : Die} {a : ℕ} {bs : List Byte} {psn : Bool} (hd : DieCanon full d) : DieCanon full (d.pokes a bs psn) := by
  unfold Die.pokes
  refine foldl_canon (fun _ _ h => ?_) hd
  extract_lets lo hi
  exact die_poke_canon h
theorem die_setReg_canon {d : Die} {off : ℕ} {v : Word} (hd : DieCanon full d) : DieCanon full (d.setReg off v) := by
  unfold Die.setReg
  exact hd
theorem die_addReg_canon {d : Die} {dn : DieId} {off : ℕ} {v : Word} (hd : DieCanon full d) : DieCanon full (d.addReg dn off v) := by
  unfold Die.addReg
  exact die_setReg_canon hd
theorem die_setRf_canon {d : Die} {dn : DieId} {off lo len v : ℕ} (hd : DieCanon full d) : DieCanon full (d.setRf dn off lo len v) := by
  unfold Die.setRf
  exact die_setReg_canon hd
theorem slot_dropRows_canon {t : Slot} (ht : SlotCanon full t) : SlotCanon full t.dropRows := by
  unfold Slot.dropRows
  exact ht
theorem state_modSlot_canon {s : State} {d : DieId} {k : SlotId} {f : Slot → Slot} (hs : StateCanon full s) (hf : ∀ (a : Slot), SlotCanon full a → SlotCanon full (f a)) : StateCanon full (s.modSlot d k f) := by
  unfold State.modSlot
  exact state_modDie_canon hs fun _ h => die_modSlot_canon h (fun _ h2 => hf _ h2)
theorem slot_modCtl_canon {t : Slot} {f : Ctl → Ctl} (ht : SlotCanon full t) : SlotCanon full (t.modCtl f) := by
  unfold Slot.modCtl
  exact ht
theorem state_modCtl_canon {s : State} {d : DieId} {k : SlotId} {f : Ctl → Ctl} (hs : StateCanon full s) : StateCanon full (s.modCtl d k f) := by
  unfold State.modCtl
  exact state_modSlot_canon hs fun _ h => slot_modCtl_canon h
theorem state_modSched_canon {s : State} {d : DieId} {f : Sched → Sched} (hs : StateCanon full s) (hf : ∀ (a : Sched), SchedCanon full a → SchedCanon full (f a)) : StateCanon full (s.modSched d f) := by
  unfold State.modSched
  exact state_modDie_canon hs fun _ h => die_canon h.mem h.proofs (hf _ h.sched) h.slot
theorem sched_modLaunch_canon {c : Sched} {lid : ℕ} {f : Launch → Launch} (hc : SchedCanon full c) : SchedCanon full (c.modLaunch lid f) := by
  unfold Sched.modLaunch
  exact hc
theorem sched_modBlk_canon {c : Sched} {lid b : ℕ} {f : Blk → Blk} (hc : SchedCanon full c) : SchedCanon full (c.modBlk lid b f) := by
  unfold Sched.modBlk
  exact sched_modLaunch_canon hc
theorem sched_modTeam_canon {c : Sched} {lid t : ℕ} {f : Team → Team} (hc : SchedCanon full c) : SchedCanon full (c.modTeam lid t f) := by
  unfold Sched.modTeam
  exact hc
theorem die_modLay_canon {d : Die} {k : SlotId} {f : Lay → Lay} (hd : DieCanon full d) : DieCanon full (d.modLay k f) := by
  unfold Die.modLay
  exact hd
theorem trcBytes_canon {dn : DieId} {d : Die} {bs : List Byte} (hd : DieCanon full d) : DieCanon full (trcBytes dn d bs) := by
  unfold trcBytes
  refine foldl_canon (fun _ _ h => ?_) hd
  extract_lets sz off d3 d4 src
  have hd3 : DieCanon full d3 := die_poke_canon h
  clear_value d3
  have hd4 : DieCanon full d4 := die_setRf_canon (die_setRf_canon hd3)
  clear_value d4
  exact ite_canon (die_setRf_canon hd3) hd4
theorem trcResync_canon {dn : DieId} {d : Die} (hd : DieCanon full d) : DieCanon full (trcResync dn d) := by
  unfold trcResync
  extract_lets t src d2
  have hd2 : DieCanon full d2 := hd
  clear_value d2
  exact trcBytes_canon hd2
theorem trcPut_canon {dn : DieId} {d : Die} {kind : ℕ} {payload : List Byte} (hd : DieCanon full d) : DieCanon full (trcPut dn d kind payload) := by
  unfold trcPut
  extract_lets t dl ds w src
  exact trcBytes_canon hd
theorem trcSync_canon {dn : DieId} {d : Die} (hd : DieCanon full d) : DieCanon full (trcSync dn d) := by
  unfold trcSync
  extract_lets d2
  have hd2 : DieCanon full d2 := ite_canon (trcResync_canon hd) hd
  clear_value d2
  exact ite_canon (trcResync_canon hd2) hd2
theorem trcMark_canon {dn : DieId} {d : Die} (hd : DieCanon full d) : DieCanon full (trcMark dn d) := by
  unfold trcMark
  extract_lets src
  exact ite_canon (trcResync_canon hd) hd
theorem trcRecord_canon {dn : DieId} {d : Die} {kind : ℕ} {payload : List Byte} (hd : DieCanon full d) : DieCanon full (trcRecord dn d kind payload) := by
  unfold trcRecord
  extract_lets src n d2 d3
  have hd2 : DieCanon full d2 := trcSync_canon hd
  clear_value d2
  have hd3 : DieCanon full d3 := ite_canon hd2 (trcSync_canon (trcPut_canon hd2))
  clear_value d3
  exact ite_canon hd (ite_canon hd (trcPut_canon hd3))
theorem slot_count_canon {t : Slot} {ev n : ℕ} (ht : SlotCanon full t) : SlotCanon full (t.count ev n) := by
  unfold Slot.count
  exact ht
theorem die_countSlot_canon {d : Die} {dn : DieId} {k : SlotId} {ev n : ℕ} (hd : DieCanon full d) : DieCanon full (d.countSlot dn k ev n) := by
  unfold Die.countSlot
  exact ite_canon (die_modSlot_canon hd (fun _ h => slot_count_canon h)) hd
theorem die_countDie_canon {d : Die} {dn : DieId} {asid : Half} {ev : ℕ} (hd : DieCanon full d) : DieCanon full (d.countDie dn asid ev) := by
  unfold Die.countDie
  extract_lets src
  have hsrc : SchedCanon full src := hd.sched
  clear_value src
  exact ite_canon (die_canon hd.mem hd.proofs hsrc hd.slot) hd
theorem slot_discard_canon {t : Slot} (ht : SlotCanon full t) : SlotCanon full t.discard := by
  unfold Slot.discard
  extract_lets back src src2
  exact ht
theorem takeFault_canon {s : State} {d : DieId} {k : SlotId} {a : ℕ} {f : FaultAt} (hs : StateCanon full s) : StateCanon full (takeFault s d k a f) := by
  unfold takeFault
  extract_lets r open_ s2
  have hs2 : StateCanon full s2 := by
    refine state_modSlot_canon hs fun a2 h => ?_
    extract_lets t t2
    have ht : SlotCanon full t := ite_canon (slot_discard_canon h) h
    clear_value t
    have ht2 : SlotCanon full t2 := ite_canon (slot_modCtl_canon (slot_dropRows_canon ht)) ht
    clear_value t2
    exact ht2
  clear_value s2
  split
  · exact state_modSched_canon hs2 fun _ h => sched_modBlk_canon h
  · exact hs2
theorem slot_mergeFlags_canon {t : Slot} {f : BitVec 7} (ht : SlotCanon full t) : SlotCanon full (t.mergeFlags f) := by
  unfold Slot.mergeFlags
  exact slot_modCtl_canon ht
theorem die_modAg_canon {d : Die} {a : Agent} {f : AgentSt → AgentSt} (hd : DieCanon full d) : DieCanon full (d.modAg a f) := by
  unfold Die.modAg
  split
  · exact die_modSlot_canon hd fun _ h => h
  · exact die_modSlot_canon hd fun _ h => h
  · exact die_modSlot_canon hd fun _ h => h
  · exact die_modSlot_canon hd fun _ h => h
  · exact die_modSlot_canon hd fun _ h => h
  · exact hd
  · extract_lets src
    exact hd
  · exact hd
theorem state_modAg_canon {s : State} {d : DieId} {a : Agent} {f : AgentSt → AgentSt} (hs : StateCanon full s) : StateCanon full (s.modAg d a f) := by
  unfold State.modAg
  exact state_modDie_canon hs fun _ h => die_modAg_canon h
theorem die_setRun_canon {d : Die} {a : Agent} {r : Option Run} (hd : DieCanon full d) : DieCanon full (d.setRun a r) := by
  unfold Die.setRun
  split
  · exact hd
  · exact hd
  · exact die_modSlot_canon hd fun _ h => h
  · exact die_modSlot_canon hd fun _ h => h
  · exact die_modSlot_canon hd fun _ h => h
  · exact die_modSlot_canon hd fun _ h => h
  · exact hd
  · extract_lets src
    exact hd
theorem die_setCurRun_canon {d : Die} {c : Cur} {r : Option Run} (hd : DieCanon full d) : DieCanon full (d.setCurRun c r) := by
  unfold Die.setCurRun
  split
  · split
    · extract_lets src
      exact hd
    · extract_lets src
      exact hd
  · exact die_setRun_canon hd
theorem die_modTlb_canon {d : Die} {t : TlbId} {f : List TlbEntry → List TlbEntry} (hd : DieCanon full d) : DieCanon full (d.modTlb t f) := by
  unfold Die.modTlb
  split
  · exact die_modSlot_canon hd fun _ h => h
  · exact hd
  · extract_lets src
    exact hd
theorem xRes_map_canon {α β : Type} {x : XRes α} {f : α → β} (hx : XCanon full x) : XCanon full (x.map f) := by
  unfold XRes.map
  split
  · exact hx
  · exact hx
  · exact hx
theorem die_countMiss_canon {d : Die} {dn : DieId} {t : TlbId} {asid : Half} (hd : DieCanon full d) : DieCanon full (d.countMiss dn t asid) := by
  unfold Die.countMiss
  refine die_countDie_canon ?_
  split
  · exact die_countSlot_canon hd
  · exact hd

/-! ## Translations and accesses, by the rules of `TransKeeps` and `ProcKeeps` -/

theorem die_rast_canon {d : Die} {dn : DieId} {p : ℕ} {h : DieId} {c i : ℕ} (hd : DieCanon full d) : DieCanon full (d.rast dn p h c i) := by
  unfold Die.rast
  exact die_setReg_canon hd
theorem transKeeps_canon : TransKeeps (DieCanon full) := ⟨fun _ _ _ h => die_poke_canon h, fun _ _ h => h, fun _ _ _ h => die_modTlb_canon h, fun _ _ _ _ h => die_countMiss_canon h, fun _ _ _ _ _ _ h => die_rast_canon h⟩
theorem procKeeps_canon : ProcKeeps (DieCanon full) := ⟨transKeeps_canon, fun _ _ _ h => die_poke_canon h, fun _ _ h => h, fun _ _ _ h => die_modAg_canon h⟩
theorem walk_canon {dn : DieId} {d : Die} {c wr : Bool} {asid : Half} {va : ℕ} (hd : DieCanon full d) : XCanon full (walk dn d c wr asid va) := walk_keeps transKeeps_canon dn d c wr asid va hd
theorem translate_canon {dn : DieId} {d : Die} {t : TlbId} {asid : Half} {va : ℕ} {wr : Bool} (hd : DieCanon full d) : XCanon full (Machine.translate dn d t asid va wr) := translate_keeps transKeeps_canon dn d t asid va wr hd
theorem access_canon {dn : DieId} {d : Die} {w : Who} {va len : ℕ} {n : Need} (hd : DieCanon full d) : XCanon full (access dn d w va len n) := access_keeps transKeeps_canon dn d w va len n hd
theorem accessAll_canon {dn : DieId} {w : Who} {n : Need} {l : List (ℕ × ℕ)} {d : Die} (hd : DieCanon full d) : XCanon full (accessAll dn w n l d) := accessAll_keeps transKeeps_canon dn w n l d hd
theorem procLoad_canon {d : DieId} {y : Die} {asid : Half} {va n : ℕ} (hy : DieCanon full y) : DieCanon full (procLoad d y asid va n).2 := procLoad_keeps procKeeps_canon d y asid va n hy
theorem procStore_canon {d : DieId} {y : Die} {asid : Half} {va : ℕ} {bs : List Byte} (hy : DieCanon full y) : DieCanon full (procStore d y asid va bs) := procStore_keeps procKeeps_canon d y asid va bs hy

end Sys2Proof.Proofs
end

section
/-! SUPPORT. The scalar words keep the canonical form (O60): the steps of the store buffers and of the reads, the words of the control core up to the opening of a block. -/

namespace Sys2Proof.Proofs

open Sys2Proof Sys2Proof.Machine Sys2Proof.Laws

variable {full : Prop}

theorem ownFault_canon {s : State} {d : DieId} {o : Owner} {k : SlotId} {f : FaultAt} (hs : StateCanon full s) : StateCanon full (ownFault s d o k f) := by
  unfold ownFault
  refine ite_canon (takeFault_canon hs) ?_
  split
  · exact hs
  · extract_lets r
    exact state_modSched_canon hs fun _ h => sched_modBlk_canon h
theorem ctxFault_canon {s : State} {d : DieId} {k : KCtx} {f : FaultAt} (hs : StateCanon full s) : StateCanon full (ctxFault s d k f) := by
  unfold ctxFault
  exact ownFault_canon hs
theorem die_heldTold_canon {d : Die} {c : Cur} {f : FaultAt} (hd : DieCanon full d) : DieCanon full (d.heldTold c f) := by
  unfold Die.heldTold
  split
  · split
    · extract_lets src
      exact ite_canon (die_setCurRun_canon hd) hd
    · exact hd
  · exact hd
theorem agentFault_canon {s : State} {c : Cur} {r : Run} {f : FaultAt} (hs : StateCanon full s) : StateCanon full (agentFault s c r f) := by
  unfold agentFault
  extract_lets s2
  have hs2 : StateCanon full s2 := state_modDie_canon hs fun _ h => die_heldTold_canon h
  clear_value s2
  split
  · exact ctxFault_canon hs2
  · exact ownFault_canon hs2
  · exact takeFault_canon hs2
theorem accessRow_canon {dn : DieId} {d : Die} {w : Who} {va len : ℕ} {n : Need} (hd : DieCanon full d) : XCanon full (accessRow dn d w va len n) := by
  unfold accessRow
  exact accessAll_canon hd
theorem die_countCe_canon {d : Die} {dn : DieId} {k : ℕ} (hd : DieCanon full d) : DieCanon full (d.countCe dn k) := by
  unfold Die.countCe
  extract_lets r
  exact die_setRf_canon hd
theorem die_countUe_canon {d : Die} {dn : DieId} {k pa : ℕ} {rec : Bool} (hd : DieCanon full d) : DieCanon full (d.countUe dn k pa rec) := by
  unfold Die.countUe
  extract_lets r d2
  have hd2 : DieCanon full d2 := die_setRf_canon hd
  clear_value d2
  exact ite_canon (die_setReg_canon hd2) hd2
theorem die_meet_canon {d : Die} {dn : DieId} {pa : ℕ} {e : StoreErr} (hd : DieCanon full d) : DieCanon full (d.meet dn pa e) := by
  unfold Die.meet
  split
  · exact hd
  · exact die_countCe_canon hd
  · exact ite_canon hd (die_countUe_canon hd)
  · extract_lets src
    have hsrc : DieCanon full src := die_countUe_canon hd
    clear_value src
    exact hsrc
  · extract_lets src
    have hsrc : DieCanon full src := die_countUe_canon hd
    clear_value src
    exact ite_canon hd hsrc
theorem die_dropCopy_canon {d : Die} {line : ℕ} (hd : DieCanon full d) : DieCanon full (d.dropCopy line) := by
  unfold Die.dropCopy
  exact ite_canon hd hd
theorem state_send_canon {s : State} {src dst : DieId} {m : Msg} (hs : StateCanon full s) : StateCanon full (s.send src dst m) := by
  unfold State.send
  exact ite_canon hs (ite_canon hs hs)
theorem state_beats_canon {s : State} {d : DieId} (hs : StateCanon full s) : StateCanon full (s.beats d) := by
  unfold State.beats
  exact state_modDie_canon (foldl_canon (p := StateCanon full) (fun _ _ h2 => state_send_canon h2) hs) fun _ h => h
theorem die_bump_canon {d : Die} {dn : DieId} (hd : DieCanon full d) : DieCanon full (d.bump dn).2 := by
  unfold Die.bump
  extract_lets n src
  exact hd
theorem slot_fillTag_canon {t : Slot} {tag : ℕ} {v : Word} (ht : SlotCanon full t) : SlotCanon full (t.fillTag tag v) := by
  unfold Slot.fillTag
  exact slot_modCtl_canon ht
theorem runFault_canon {s : State} {c : Cur} {r : Run} {code : ℕ} {addr : Word} {unit : ℕ} {info : Word} (hs : StateCanon full s) : StateCanon full (runFault s c r code addr unit info) := by
  unfold runFault
  extract_lets addr2 off
  exact agentFault_canon hs
theorem slot_keepRec_canon {t : Slot} {c : RecCopy} (ht : SlotCanon full t) : SlotCanon full (t.keepRec c) := by
  unfold Slot.keepRec
  exact ht
theorem poisonLater_canon {s : State} {d : DieId} {k : SlotId} {r : Rd} {op : SbOp} (hs : StateCanon full s) : StateCanon full (poisonLater s d k r op) := by
  unfold poisonLater
  exact state_modAg_canon hs
theorem finishRead_canon {s : State} {d : DieId} {a : Agent} {r : Rd} {h : DieId} {pa : ℕ} {bs : List Byte} {psn : Bool} (hs : StateCanon full s) : StateCanon full (finishRead s d a r h pa bs psn) := by
  unfold finishRead
  split
  · exact state_modAg_canon hs
  · exact hs
  · exact state_modAg_canon hs
  · split
    · exact ite_canon (ite_canon (takeFault_canon hs) (poisonLater_canon hs)) (state_modSlot_canon hs (fun _ h2 => slot_fillTag_canon h2))
    · exact hs
  · split
    · exact ite_canon (poisonLater_canon hs) (state_modSlot_canon hs (fun _ h2 => slot_fillTag_canon h2))
    · exact hs
  · split
    · exact ite_canon (takeFault_canon hs) (state_modCtl_canon hs)
    · exact hs
  · split
    · exact ite_canon (takeFault_canon hs) (state_modCtl_canon hs)
    · exact hs
  · split
    · split
      · extract_lets c s2
        have hs2 : StateCanon full s2 := state_modDie_canon hs fun _ h2 => die_setRun_canon h2
        clear_value s2
        exact ite_canon (runFault_canon hs) (ite_canon (state_modSlot_canon hs2 (fun _ h2 => slot_keepRec_canon h2)) hs2)
      · exact hs
    · exact hs
theorem raiseRefusal_canon {s : State} {d : DieId} {a : Agent} (hs : StateCanon full s) : StateCanon full (raiseRefusal s d a) := by
  unfold raiseRefusal
  split
  · exact hs
  · exact hs
  · split
    · exact hs
    · extract_lets k
      split
      · split
        · exact ctxFault_canon hs
        · split
          · exact ownFault_canon hs
          · exact takeFault_canon hs
      · exact takeFault_canon hs
theorem state_notDone_canon {s : State} {d : DieId} {a : Agent} {p : Sent} (hs : StateCanon full s) : StateCanon full (s.notDone d a p) := by
  unfold State.notDone
  extract_lets s2 own
  have hs2 : StateCanon full s2 := state_modAg_canon hs
  clear_value s2
  split
  · exact ite_canon (state_modSlot_canon hs2 (fun _ h => slot_discard_canon h)) hs2
  · exact raiseRefusal_canon hs2
theorem state_refused_canon {s : State} {d : DieId} {a : Agent} {p : Sent} {pkg : ℕ} {h : DieId} {cause idx : ℕ} (hs : StateCanon full s) : StateCanon full (s.refused d a p pkg h cause idx) := by
  unfold State.refused
  exact state_notDone_canon (state_modDie_canon hs (fun _ h2 => die_rast_canon h2))
theorem state_lostReq_canon {s : State} {d : DieId} {a : Agent} {p : Sent} (hs : StateCanon full s) : StateCanon full (s.lostReq d a p) := by
  unfold State.lostReq
  exact ite_canon (state_refused_canon hs) (state_modDie_canon hs (fun _ h => die_rast_canon h))
theorem sendReq_canon {s : State} {d : DieId} {a : Agent} {h : DieId} {n : ℕ} {rd : Option Rd} {op : SbOp} {word : ℕ} {seq : W32} {m : ℕ → ℕ → Vector ℕ 4 → Msg} (hs : StateCanon full s) : StateCanon full (sendReq s d a h n rd op word seq m) := by
  unfold sendReq
  extract_lets key p s2
  have hs2 : StateCanon full s2 := state_modAg_canon hs
  clear_value s2
  exact ite_canon (state_lostReq_canon (state_modAg_canon hs)) (state_send_canon (state_modDie_canon hs2 (fun _ h2 => die_countDie_canon h2)))
theorem countReq_canon {s : State} {d : DieId} {a : Agent} {h : DieId} {rd : Option Rd} {op : SbOp} {word : ℕ} {seq : W32} {m : ℕ → ℕ → Vector ℕ 4 → Msg} (hs : StateCanon full s) : StateCanon full (countReq s d a h rd op word seq m) := by
  unfold countReq
  extract_lets n
  exact sendReq_canon (state_modDie_canon hs (fun _ h2 => die_bump_canon h2))
theorem sendRead_canon {s : State} {d : DieId} {a : Agent} {h : DieId} {idx gen off : ℕ} {r : Rd} (hs : StateCanon full s) : StateCanon full (sendRead s d a h idx gen off r) := by
  unfold sendRead
  exact sendReq_canon hs
theorem die_toFabric_canon {d : Die} {dn : DieId} {m : NftOut} (hd : DieCanon full d) : DieCanon full (d.toFabric dn m) := by
  unfold Die.toFabric
  extract_lets c resp st
  exact hd
theorem sendFab_canon {s : State} {d : DieId} {a : Agent} {pkg : BitVec 12} {h : DieId} {m : FabMsg} {p : Piece} {word : ℕ} {seq : W32} (hs : StateCanon full s) : StateCanon full (sendFab s d a pkg h m p word seq) := by
  unfold sendFab
  extract_lets key q s2
  have hs2 : StateCanon full s2 := state_modAg_canon hs
  clear_value s2
  exact ite_canon (state_refused_canon hs2) (state_modDie_canon (state_modAg_canon hs2) (fun _ h2 => die_toFabric_canon h2))
theorem readStep_canon {s : State} {d : DieId} {a : Agent} {e : StoreErr} (hs : StateCanon full s) : StateCanon full (readStep s d a e) := by
  unfold readStep
  extract_lets x
  split
  · exact hs
  · extract_lets pop cs
    have hpop : ∀ (s : State), StateCanon full s → StateCanon full (pop s) := fun _ h => state_modAg_canon h
    clear_value pop
    refine ite_canon (finishRead_canon (hpop _ hs)) (ite_canon hs ?_)
    split
    · extract_lets s2
      have hs2 : StateCanon full s2 := hpop _ (state_modDie_canon hs (fun _ h => die_meet_canon h))
      clear_value s2
      exact ite_canon hs (finishRead_canon hs2)
    · exact sendRead_canon (hpop _ hs)
    · exact hpop _ hs
theorem die_amo_canon {d : Die} {pa : ℕ} {op : AmoOp} {w64 : Bool} {b x : Word} (hd : DieCanon full d) : DieCanon full (d.amo pa op w64 b x).2 := by
  unfold Die.amo
  extract_lets n old
  exact ite_canon (die_poke_canon hd) hd
theorem die_apply_canon {d : Die} {dn : DieId} {pa : ℕ} {bs : List Byte} {psn : Bool} {e : StoreErr} (hd : DieCanon full d) : DieCanon full (d.apply dn pa bs psn e) := by
  unfold Die.apply
  extract_lets d2
  have hd2 : DieCanon full d2 := ite_canon hd (die_meet_canon hd)
  clear_value d2
  exact ite_canon hd (die_poke_canon hd2)
theorem die_markDirty_canon {d : Die} {t : TlbId} {p : Piece} (hd : DieCanon full d) : DieCanon full (d.markDirty t p) := by
  unfold Die.markDirty
  split
  · exact hd
  · extract_lets d2 d3
    have hd2 : DieCanon full d2 := die_poke_canon hd
    clear_value d2
    have hd3 : DieCanon full d3 := die_modTlb_canon hd2
    clear_value d3
    exact foldl_canon (p := DieCanon full) (fun _ _ h => die_modAg_canon h) hd3
theorem die_divergence_canon {d : Die} {dn : DieId} {tick : Word} {ag : Agent} {addr : ℕ} {vp vs : Word} (hd : DieCanon full d) : DieCanon full (d.divergence dn tick ag addr vp vs) := by
  unfold Die.divergence
  extract_lets d2 d3 d4 d5 src
  have hd2 : DieCanon full d2 := die_setReg_canon hd
  clear_value d2
  have hd3 : DieCanon full d3 := die_setReg_canon hd2
  clear_value d3
  have hd4 : DieCanon full d4 := die_setReg_canon (die_setReg_canon hd3)
  clear_value d4
  have hd5 : DieCanon full d5 := die_setRf_canon hd4
  clear_value d5
  have hsrc : DieCanon full src := trcRecord_canon hd5
  clear_value src
  exact ite_canon hd hsrc
theorem die_pairAdd_canon {d : Die} {pd : DieId} {x : PairSt} (hd : DieCanon full d) : DieCanon full (d.pairAdd pd x) := by
  unfold Die.pairAdd
  refine ite_canon hd ?_
  split
  · extract_lets p q d2 f
    have hd2 : DieCanon full d2 := hd
    clear_value d2
    exact ite_canon hd2 (die_divergence_canon hd2)
  · exact hd
theorem state_pairStores_canon {s : State} {d : DieId} {a : Agent} {ws : List PairIn} (hs : StateCanon full s) : StateCanon full (s.pairStores d a ws) := by
  unfold State.pairStores
  split
  · exact hs
  · extract_lets home
    exact foldl_canon (p := StateCanon full) (fun _ _ h => state_modDie_canon h (fun _ h2 => die_pairAdd_canon h2)) hs
theorem state_incSem_canon {s : State} {d : DieId} {k : SlotId} {i : Fin 32} {v : W32} (hs : StateCanon full s) : StateCanon full (s.incSem d k i v) := by
  unfold State.incSem
  exact state_modSlot_canon hs fun _ h => h
theorem die_hold_canon {d : Die} {dn : DieId} {a : Agent} {src : DieId} {op : SbOp} {key : ℕ} {fab : Option FabSrc} (hd : DieCanon full d) : DieCanon full (d.hold dn a src op key fab) := by
  unfold Die.hold
  exact hd
theorem die_arrive_canon {d : Die} {grp : BitVec 12} {i : Fin 64} (hd : DieCanon full d) : DieCanon full (d.arrive grp i) := by
  unfold Die.arrive
  extract_lets add src hit src2
  have hsrc2 : SchedCanon full src2 := hd.sched
  clear_value src2
  exact ite_canon hd (die_canon hd.mem hd.proofs hsrc2 hd.slot)
theorem localAmo_canon {s : State} {d : DieId} {a : Agent} {r : Rd} {op : AmoOp} {w64 : Bool} {b x : Word} {e : StoreErr} (hs : StateCanon full s) : StateCanon full (localAmo s d a r op w64 b x e) := by
  unfold localAmo
  extract_lets pa s2 p
  have hs2 : StateCanon full s2 := state_modDie_canon hs fun _ h => die_meet_canon h
  clear_value s2
  have hp : DieCanon full p.2 := die_amo_canon (hs2.die _)
  clear_value p
  refine ite_canon ?_ (finishRead_canon (state_modDie_canon hs2 (fun _ _ => hp)))
  split
  · exact poisonLater_canon hs2
  · exact hs2
theorem applyLocal_canon {s : State} {d : DieId} {a : Agent} {op : SbOp} {e : StoreErr} (hs : StateCanon full s) : StateCanon full (applyLocal s d a op e) := by
  unfold applyLocal
  extract_lets y late s2
  have hy : DieCanon full y := hs.die _
  clear_value y
  have hs2 : StateCanon full s2 := state_modDie_canon hs fun _ h => foldl_canon (p := DieCanon full) (fun _ _ h2 => die_freeLines_canon h2) h
  clear_value s2
  split
  · exact ite_canon (state_modDie_canon hs (fun _ h => die_hold_canon h)) (state_modDie_canon hs (fun _ h => foldl_canon (p := DieCanon full) (fun _ _ h2 => die_apply_canon h2) h))
  · extract_lets through
    exact ite_canon (state_modDie_canon hs (fun _ h => foldl_canon (p := DieCanon full) (fun _ _ h2 => die_freeLines_canon h2) h)) (state_modDie_canon hs2 (fun _ h => foldl_canon (p := DieCanon full) (fun _ _ h2 => die_hold_canon h2) h))
  · split
    · exact ite_canon (state_modDie_canon hs (fun _ h => die_hold_canon h)) (localAmo_canon hs)
    · exact hs
  · exact state_incSem_canon hs
  · exact state_modDie_canon hs fun _ h => die_arrive_canon h
  · exact hs
theorem popSb_canon {s : State} {d : DieId} {a : Agent} (hs : StateCanon full s) : StateCanon full (popSb s d a) := by
  unfold popSb
  extract_lets s2
  have hs2 : StateCanon full s2 := state_modAg_canon hs
  clear_value s2
  split
  · exact state_modCtl_canon hs2
  · exact hs2
theorem drainWrite_canon {s : State} {d : DieId} {a : Agent} {e : StoreErr} {ws : List Wr} {psn : Bool} {word : ℕ} {seq : W32} (hs : StateCanon full s) : StateCanon full (drainWrite s d a e ws psn word seq) := by
  unfold drainWrite
  extract_lets s2 isPeer go mine s3 n
  have hs2 : StateCanon full s2 := state_modDie_canon hs fun _ h => foldl_canon (p := DieCanon full) (fun _ _ h2 => die_markDirty_canon h2) h
  clear_value s2
  have hgo : ∀ (rest : List Wr) (s : State), StateCanon full s → StateCanon full (go rest s) := fun _ _ h => ite_canon (popSb_canon h) (state_modAg_canon h)
  clear_value go
  have hs3 : StateCanon full s3 := state_pairStores_canon (hgo _ _ hs2)
  clear_value s3
  split
  · exact popSb_canon hs2
  · extract_lets op
    refine ite_canon (ite_canon hs3 (foldl_canon (p := StateCanon full) (fun _ _ h2 => ?_) (state_modDie_canon hs3 (fun _ h => die_bump_canon h)))) (applyLocal_canon (state_pairStores_canon (hgo _ _ hs2)))
    extract_lets ours
    exact sendReq_canon h2
theorem leafStuck_canon {s : State} {d : DieId} {a : Agent} {op : SbOp} {p : Piece} (hs : StateCanon full s) : StateCanon full (leafStuck s d a op p) := by
  unfold leafStuck
  extract_lets key
  exact state_notDone_canon (state_modAg_canon (popSb_canon hs))
theorem drainStep_canon {s : State} {d : DieId} {a : Agent} {e : StoreErr} (hs : StateCanon full s) : StateCanon full (Machine.drainStep s d a e) := by
  unfold Machine.drainStep
  extract_lets x pop more
  have hpop : ∀ (s : State), StateCanon full s → StateCanon full (pop s) := fun _ h => popSb_canon h
  clear_value pop
  split
  · exact hs
  · extract_lets cmp
    have hcmp : ∀ (s : State), StateCanon full s → StateCanon full (cmp s) := fun _ h => state_pairStores_canon h
    clear_value cmp
    split
    · exact leafStuck_canon hs
    · split
      · exact ite_canon hs (drainWrite_canon hs)
      · exact ite_canon hs (applyLocal_canon (hcmp _ (state_modDie_canon (hpop _ hs) (fun _ h => foldl_canon (p := DieCanon full) (fun _ _ h2 => die_markDirty_canon h2) h))))
      · extract_lets s2 p
        have hs2 : StateCanon full s2 := hcmp _ (state_modDie_canon (hpop _ hs) (fun _ h => die_markDirty_canon h))
        clear_value s2
        have hp : StateCanon full p.2 := hs2
        clear_value p
        refine ite_canon hs ?_
        split
        · exact applyLocal_canon hs2
        · refine ite_canon ?_ (countReq_canon hs2)
          split
          · exact state_modSlot_canon hp fun _ h => slot_fillTag_canon h
          · exact hs2
        · exact hs2
      · split
        · exact ite_canon (ite_canon (state_beats_canon (hpop _ hs)) (hpop _ hs)) hs
        · exact hpop _ hs
      · split
        · exact ite_canon (state_modCtl_canon (hpop _ hs)) hs
        · exact hpop _ hs
      · split
        · exact hpop _ (state_modSlot_canon hs (fun _ h => h))
        · exact hpop _ hs
      · exact ite_canon (ite_canon (hpop _ (state_modDie_canon hs (fun _ h => die_hold_canon h))) (hpop _ (state_incSem_canon hs))) (ite_canon hs (ite_canon (hcmp _ (hpop _ hs)) (countReq_canon (hcmp _ (hpop _ hs)))))
      · exact ite_canon hs (ite_canon (hcmp _ (hpop _ hs)) (countReq_canon (hcmp _ (hpop _ hs))))
      · split
        · extract_lets g s2
          have hs2 : StateCanon full s2 := hpop _ (state_modSlot_canon hs (fun _ h => h))
          clear_value s2
          exact ite_canon (state_modCtl_canon hs2) hs2
        · exact hpop _ hs
      · exact hs
      · extract_lets s2
        have hs2 : StateCanon full s2 := hcmp _ (state_modDie_canon (hpop _ hs) (fun _ h => die_markDirty_canon h))
        clear_value s2
        exact ite_canon hs (ite_canon hs2 (sendFab_canon hs2))
theorem resendOne_canon {s : State} {d : DieId} {a : Agent} {p : Sent} (hs : StateCanon full s) : StateCanon full (resendOne s d a p) := by
  unfold resendOne
  split
  · exact sendFab_canon hs
  · split
    · exact countReq_canon hs
    · exact hs
  · split
    · exact sendRead_canon hs
    · exact hs
  · exact countReq_canon hs
  · exact countReq_canon hs
  · exact countReq_canon hs
  · exact hs
theorem ctlFault_canon {s : State} {d : DieId} {k : SlotId} {o : Open} {pos code : ℕ} {addr : Word} {unit : ℕ} {info : Word} (hs : StateCanon full s) : StateCanon full (ctlFault s d k o pos code addr unit info) := by
  unfold ctlFault
  extract_lets seq
  split
  · exact ite_canon (takeFault_canon hs) (takeFault_canon hs)
  · exact takeFault_canon hs
theorem state_setOpn_canon {s : State} {d : DieId} {k : SlotId} {o : Open} (hs : StateCanon full s) : StateCanon full (s.setOpn d k o) := by
  unfold State.setOpn
  exact state_modCtl_canon hs
theorem ctlDo_canon {h : ℕ} {na : BitVec 2} {f : State → DieId → SlotId → Open → CRes} {s : State} (hf : ∀ (a : State), StateCanon full a → ∀ (a_1 : DieId) (a_2 : SlotId) (a_3 : Open), CResCanon full (f a a_1 a_2 a_3)) (hs : StateCanon full s) : OutCanon full (ctlDo h na f s) := by
  unfold ctlDo
  split
  · split
    · exact hs
    · split
      next e =>
        have k := CResCanon.ok e (hf _ hs _ _ _)
        exact state_setOpn_canon k
      next e =>
        have k := CResCanon.wait e (hf _ hs _ _ _)
        exact k
      next e =>
        have k := CResCanon.fault e (hf _ hs _ _ _)
        exact ctlFault_canon k
  · exact hs
theorem src_canon {s : State} {o : Open} {b : Bool} {r : BitVec 5} {f : Word → CRes} (hs : StateCanon full s) (hf : ∀ (a : Word), CResCanon full (f a)) : CResCanon full (src s o b r f) := by
  unfold src
  exact ite_canon (hf _) (ite_canon hs hs)
theorem ctl2_canon {o : RRR} {g : Word → Word → Word} {s : State} (hs : StateCanon full s) : OutCanon full (ctl2 o g s) := by
  unfold ctl2
  exact ctlDo_canon (fun _ h _ _ _ => src_canon h (fun _ => src_canon h (fun _ => h))) hs
theorem ctl1_canon {o : RR} {g : Word → Word} {s : State} (hs : StateCanon full s) : OutCanon full (ctl1 o g s) := by
  unfold ctl1
  exact ctlDo_canon (fun _ h _ _ _ => src_canon h (fun _ => h)) hs
theorem ctlI_canon {o : RI} {g : Word → Word → Word} {s : State} (hs : StateCanon full s) : OutCanon full (ctlI o g s) := by
  unfold ctlI
  exact ctlDo_canon (fun _ h _ _ _ => src_canon h (fun _ => h)) hs
theorem ctlSh_canon {o : RSh} {g : Word → ℕ → Word} {s : State} (hs : StateCanon full s) : OutCanon full (ctlSh o g s) := by
  unfold ctlSh
  exact ctlDo_canon (fun _ h _ _ _ => src_canon h (fun _ => h)) hs
theorem ctlCI_canon {o : CI} {g : Word → Word → Word} {s : State} (hs : StateCanon full s) : OutCanon full (ctlCI o g s) := by
  unfold ctlCI
  exact ctlDo_canon (fun _ h _ _ _ => src_canon h (fun _ => h)) hs
theorem ctlCR_canon {o : CR} {g : Word → Word → Word} {s : State} (hs : StateCanon full s) : OutCanon full (ctlCR o g s) := by
  unfold ctlCR
  exact ctlDo_canon (fun _ h _ _ _ => src_canon h (fun _ => src_canon h (fun _ => h))) hs
theorem ctlP_canon {o : RPl} {g : Bool → Bool → Bool} {s : State} (hs : StateCanon full s) : OutCanon full (ctlP o g s) := by
  unfold ctlP
  exact ctlDo_canon (fun _ h _ _ _ => h) hs
theorem scalarAccess_canon {s : State} {d : DieId} {k : SlotId} {ea : Word} {size : ℕ} {rd wr : Bool} {f : State → Piece → CRes} (hs : StateCanon full s) (hf : ∀ (a : State), StateCanon full a → ∀ (a_1 : Piece), CResCanon full (f a a_1)) : CResCanon full (scalarAccess s d k ea size rd wr f) := by
  unfold scalarAccess
  refine ite_canon hs ?_
  split
  next e =>
    have k2 := XCanon.ok e (access_canon (hs.die _))
    exact hf _ (state_modDie_canon hs (fun _ _ => k2)) _
  next e =>
    have k2 := XCanon.wait e (access_canon (hs.die _))
    exact state_modDie_canon hs fun _ _ => k2
  next e =>
    have k2 := XCanon.fault e (access_canon (hs.die _))
    exact state_modDie_canon hs fun _ _ => k2
theorem state_newTag_canon {s : State} {d : DieId} {k : SlotId} (hs : StateCanon full s) : StateCanon full (s.newTag d k).2 := by
  unfold State.newTag
  exact state_modCtl_canon hs
theorem held_canon {s : State} {d : DieId} {k : SlotId} {f : CRes} (hs : StateCanon full s) (hf : CResCanon full f) : CResCanon full (held s d k f) := by
  unfold held
  exact ite_canon hs hf
theorem ctlLoad_canon {o : RI} {size : ℕ} {sgn : Bool} {s : State} (hs : StateCanon full s) : OutCanon full (ctlLoad o size sgn s) := by
  unfold ctlLoad
  refine ctlDo_canon (fun _ h _ _ _ => src_canon h (fun _ => held_canon h (scalarAccess_canon h (fun _ h2 _ => ?_)))) hs
  extract_lets ovr t r
  have ht : StateCanon full t.2 := state_newTag_canon h2
  clear_value t
  exact ite_canon h2 (state_modAg_canon ht)
theorem ctlStore_canon {o : RSt} {size : ℕ} {s : State} (hs : StateCanon full s) : OutCanon full (ctlStore o size s) := by
  unfold ctlStore
  exact ctlDo_canon (fun _ h _ _ _ => src_canon h (fun _ => src_canon h (fun _ => held_canon h (scalarAccess_canon h (fun _ h2 _ => ite_canon h2 h2))))) hs
theorem ctlAmo_canon {o : RAmo} {op : AmoOp} {s : State} (hs : StateCanon full s) : OutCanon full (ctlAmo o op s) := by
  unfold ctlAmo
  refine ctlDo_canon (fun _ h _ _ _ => src_canon h (fun _ => src_canon h (fun _ => src_canon h (fun _ => held_canon h (scalarAccess_canon h (fun _ h2 _ => ite_canon h2 ?_)))))) hs
  extract_lets t r
  have ht : StateCanon full t.2 := state_newTag_canon h2
  clear_value t
  exact ht
theorem execCAddi_canon {o : CI} {s : State} (hs : StateCanon full s) : OutCanon full (execCAddi o s) := by
  unfold execCAddi
  exact ctlCI_canon hs
theorem execCLi_canon {o : CI} {s : State} (hs : StateCanon full s) : OutCanon full (execCLi o s) := by
  unfold execCLi
  exact ctlDo_canon (fun _ h _ _ _ => h) hs
theorem execCMv_canon {o : CR} {s : State} (hs : StateCanon full s) : OutCanon full (execCMv o s) := by
  unfold execCMv
  exact ctlDo_canon (fun _ h _ _ _ => src_canon h (fun _ => h)) hs
theorem execCAdd_canon {o : CR} {s : State} (hs : StateCanon full s) : OutCanon full (execCAdd o s) := by
  unfold execCAdd
  exact ctlCR_canon hs
theorem execCSub_canon {o : CR} {s : State} (hs : StateCanon full s) : OutCanon full (execCSub o s) := by
  unfold execCSub
  exact ctlCR_canon hs
theorem execCAnd_canon {o : CR} {s : State} (hs : StateCanon full s) : OutCanon full (execCAnd o s) := by
  unfold execCAnd
  exact ctlCR_canon hs
theorem execCOr_canon {o : CR} {s : State} (hs : StateCanon full s) : OutCanon full (execCOr o s) := by
  unfold execCOr
  exact ctlCR_canon hs
theorem execCXor_canon {o : CR} {s : State} (hs : StateCanon full s) : OutCanon full (execCXor o s) := by
  unfold execCXor
  exact ctlCR_canon hs
theorem execAdd_canon {o : RRR} {s : State} (hs : StateCanon full s) : OutCanon full (execAdd o s) := by
  unfold execAdd
  exact ctl2_canon hs
theorem execSub_canon {o : RRR} {s : State} (hs : StateCanon full s) : OutCanon full (execSub o s) := by
  unfold execSub
  exact ctl2_canon hs
theorem execAnd_canon {o : RRR} {s : State} (hs : StateCanon full s) : OutCanon full (execAnd o s) := by
  unfold execAnd
  exact ctl2_canon hs
theorem execOr_canon {o : RRR} {s : State} (hs : StateCanon full s) : OutCanon full (execOr o s) := by
  unfold execOr
  exact ctl2_canon hs
theorem execXor_canon {o : RRR} {s : State} (hs : StateCanon full s) : OutCanon full (execXor o s) := by
  unfold execXor
  exact ctl2_canon hs
theorem execSll_canon {o : RRR} {s : State} (hs : StateCanon full s) : OutCanon full (execSll o s) := by
  unfold execSll
  exact ctl2_canon hs
theorem execSrl_canon {o : RRR} {s : State} (hs : StateCanon full s) : OutCanon full (execSrl o s) := by
  unfold execSrl
  exact ctl2_canon hs
theorem execSra_canon {o : RRR} {s : State} (hs : StateCanon full s) : OutCanon full (execSra o s) := by
  unfold execSra
  exact ctl2_canon hs
theorem execRor_canon {o : RRR} {s : State} (hs : StateCanon full s) : OutCanon full (execRor o s) := by
  unfold execRor
  exact ctl2_canon hs
theorem execMin_canon {o : RRR} {s : State} (hs : StateCanon full s) : OutCanon full (execMin o s) := by
  unfold execMin
  exact ctl2_canon hs
theorem execMax_canon {o : RRR} {s : State} (hs : StateCanon full s) : OutCanon full (execMax o s) := by
  unfold execMax
  exact ctl2_canon hs
theorem execMinu_canon {o : RRR} {s : State} (hs : StateCanon full s) : OutCanon full (execMinu o s) := by
  unfold execMinu
  exact ctl2_canon hs
theorem execMaxu_canon {o : RRR} {s : State} (hs : StateCanon full s) : OutCanon full (execMaxu o s) := by
  unfold execMaxu
  exact ctl2_canon hs
theorem execClz_canon {o : RR} {s : State} (hs : StateCanon full s) : OutCanon full (execClz o s) := by
  unfold execClz
  exact ctl1_canon hs
theorem execCtz_canon {o : RR} {s : State} (hs : StateCanon full s) : OutCanon full (execCtz o s) := by
  unfold execCtz
  exact ctl1_canon hs
theorem execPopc_canon {o : RR} {s : State} (hs : StateCanon full s) : OutCanon full (execPopc o s) := by
  unfold execPopc
  exact ctl1_canon hs
theorem execSextw_canon {o : RR} {s : State} (hs : StateCanon full s) : OutCanon full (execSextw o s) := by
  unfold execSextw
  exact ctl1_canon hs
theorem execZextw_canon {o : RR} {s : State} (hs : StateCanon full s) : OutCanon full (execZextw o s) := by
  unfold execZextw
  exact ctl1_canon hs
theorem execMul_canon {o : RRR} {s : State} (hs : StateCanon full s) : OutCanon full (execMul o s) := by
  unfold execMul
  exact ctl2_canon hs
theorem execMulh_canon {o : RRR} {s : State} (hs : StateCanon full s) : OutCanon full (execMulh o s) := by
  unfold execMulh
  exact ctl2_canon hs
theorem execMulhu_canon {o : RRR} {s : State} (hs : StateCanon full s) : OutCanon full (execMulhu o s) := by
  unfold execMulhu
  exact ctl2_canon hs
theorem execMulhsu_canon {o : RRR} {s : State} (hs : StateCanon full s) : OutCanon full (execMulhsu o s) := by
  unfold execMulhsu
  exact ctl2_canon hs
theorem execDiv_canon {o : RRR} {s : State} (hs : StateCanon full s) : OutCanon full (execDiv o s) := by
  unfold execDiv
  exact ctl2_canon hs
theorem execDivu_canon {o : RRR} {s : State} (hs : StateCanon full s) : OutCanon full (execDivu o s) := by
  unfold execDivu
  exact ctl2_canon hs
theorem execRem_canon {o : RRR} {s : State} (hs : StateCanon full s) : OutCanon full (execRem o s) := by
  unfold execRem
  exact ctl2_canon hs
theorem execRemu_canon {o : RRR} {s : State} (hs : StateCanon full s) : OutCanon full (execRemu o s) := by
  unfold execRemu
  exact ctl2_canon hs
theorem execAddi_canon {o : RI} {s : State} (hs : StateCanon full s) : OutCanon full (execAddi o s) := by
  unfold execAddi
  exact ctlI_canon hs
theorem execAndi_canon {o : RI} {s : State} (hs : StateCanon full s) : OutCanon full (execAndi o s) := by
  unfold execAndi
  exact ctlI_canon hs
theorem execOri_canon {o : RI} {s : State} (hs : StateCanon full s) : OutCanon full (execOri o s) := by
  unfold execOri
  exact ctlI_canon hs
theorem execXori_canon {o : RI} {s : State} (hs : StateCanon full s) : OutCanon full (execXori o s) := by
  unfold execXori
  exact ctlI_canon hs
theorem execSlli_canon {o : RSh} {s : State} (hs : StateCanon full s) : OutCanon full (execSlli o s) := by
  unfold execSlli
  exact ctlSh_canon hs
theorem execSrli_canon {o : RSh} {s : State} (hs : StateCanon full s) : OutCanon full (execSrli o s) := by
  unfold execSrli
  exact ctlSh_canon hs
theorem execSrai_canon {o : RSh} {s : State} (hs : StateCanon full s) : OutCanon full (execSrai o s) := by
  unfold execSrai
  exact ctlSh_canon hs
theorem execRori_canon {o : RSh} {s : State} (hs : StateCanon full s) : OutCanon full (execRori o s) := by
  unfold execRori
  exact ctlSh_canon hs
theorem execLui_canon {o : RU} {s : State} (hs : StateCanon full s) : OutCanon full (execLui o s) := by
  unfold execLui
  exact ctlDo_canon (fun _ h _ _ _ => h) hs
theorem execAddpc_canon {o : RU} {s : State} (hs : StateCanon full s) : OutCanon full (execAddpc o s) := by
  unfold execAddpc
  exact ctlDo_canon (fun _ h _ _ _ => h) hs
theorem execCmp_canon {o : RCmp} {s : State} (hs : StateCanon full s) : OutCanon full (execCmp o s) := by
  unfold execCmp
  exact ctlDo_canon (fun _ h _ _ _ => src_canon h (fun _ => src_canon h (fun _ => h))) hs
theorem execCmpi_canon {o : RCmpi} {s : State} (hs : StateCanon full s) : OutCanon full (execCmpi o s) := by
  unfold execCmpi
  exact ctlDo_canon (fun _ h _ _ _ => src_canon h (fun _ => h)) hs
theorem execPand_canon {o : RPl} {s : State} (hs : StateCanon full s) : OutCanon full (execPand o s) := by
  unfold execPand
  exact ctlP_canon hs
theorem execPor_canon {o : RPl} {s : State} (hs : StateCanon full s) : OutCanon full (execPor o s) := by
  unfold execPor
  exact ctlP_canon hs
theorem execPxor_canon {o : RPl} {s : State} (hs : StateCanon full s) : OutCanon full (execPxor o s) := by
  unfold execPxor
  exact ctlP_canon hs
theorem execPandn_canon {o : RPl} {s : State} (hs : StateCanon full s) : OutCanon full (execPandn o s) := by
  unfold execPandn
  exact ctlP_canon hs
theorem execPorn_canon {o : RPl} {s : State} (hs : StateCanon full s) : OutCanon full (execPorn o s) := by
  unfold execPorn
  exact ctlP_canon hs
theorem execPnot_canon {o : RPn} {s : State} (hs : StateCanon full s) : OutCanon full (execPnot o s) := by
  unfold execPnot
  exact ctlDo_canon (fun _ h _ _ _ => h) hs
theorem execCsel_canon {o : RSel} {s : State} (hs : StateCanon full s) : OutCanon full (execCsel o s) := by
  unfold execCsel
  exact ctlDo_canon (fun _ h _ _ _ => src_canon h (fun _ => src_canon h (fun _ => h))) hs
theorem execLdb_canon {o : RI} {s : State} (hs : StateCanon full s) : OutCanon full (execLdb o s) := by
  unfold execLdb
  exact ctlLoad_canon hs
theorem execLdh_canon {o : RI} {s : State} (hs : StateCanon full s) : OutCanon full (execLdh o s) := by
  unfold execLdh
  exact ctlLoad_canon hs
theorem execLdw_canon {o : RI} {s : State} (hs : StateCanon full s) : OutCanon full (execLdw o s) := by
  unfold execLdw
  exact ctlLoad_canon hs
theorem execLdd_canon {o : RI} {s : State} (hs : StateCanon full s) : OutCanon full (execLdd o s) := by
  unfold execLdd
  exact ctlLoad_canon hs
theorem execLdbu_canon {o : RI} {s : State} (hs : StateCanon full s) : OutCanon full (execLdbu o s) := by
  unfold execLdbu
  exact ctlLoad_canon hs
theorem execLdhu_canon {o : RI} {s : State} (hs : StateCanon full s) : OutCanon full (execLdhu o s) := by
  unfold execLdhu
  exact ctlLoad_canon hs
theorem execLdwu_canon {o : RI} {s : State} (hs : StateCanon full s) : OutCanon full (execLdwu o s) := by
  unfold execLdwu
  exact ctlLoad_canon hs
theorem execStb_canon {o : RSt} {s : State} (hs : StateCanon full s) : OutCanon full (execStb o s) := by
  unfold execStb
  exact ctlStore_canon hs
theorem execSth_canon {o : RSt} {s : State} (hs : StateCanon full s) : OutCanon full (execSth o s) := by
  unfold execSth
  exact ctlStore_canon hs
theorem execStw_canon {o : RSt} {s : State} (hs : StateCanon full s) : OutCanon full (execStw o s) := by
  unfold execStw
  exact ctlStore_canon hs
theorem execStd_canon {o : RSt} {s : State} (hs : StateCanon full s) : OutCanon full (execStd o s) := by
  unfold execStd
  exact ctlStore_canon hs
theorem execAmoadd_canon {o : RAmo} {s : State} (hs : StateCanon full s) : OutCanon full (execAmoadd o s) := by
  unfold execAmoadd
  exact ctlAmo_canon hs
theorem execAmoand_canon {o : RAmo} {s : State} (hs : StateCanon full s) : OutCanon full (execAmoand o s) := by
  unfold execAmoand
  exact ctlAmo_canon hs
theorem execAmoor_canon {o : RAmo} {s : State} (hs : StateCanon full s) : OutCanon full (execAmoor o s) := by
  unfold execAmoor
  exact ctlAmo_canon hs
theorem execAmoxor_canon {o : RAmo} {s : State} (hs : StateCanon full s) : OutCanon full (execAmoxor o s) := by
  unfold execAmoxor
  exact ctlAmo_canon hs
theorem execAmomin_canon {o : RAmo} {s : State} (hs : StateCanon full s) : OutCanon full (execAmomin o s) := by
  unfold execAmomin
  exact ctlAmo_canon hs
theorem execAmomax_canon {o : RAmo} {s : State} (hs : StateCanon full s) : OutCanon full (execAmomax o s) := by
  unfold execAmomax
  exact ctlAmo_canon hs
theorem execAmoswap_canon {o : RAmo} {s : State} (hs : StateCanon full s) : OutCanon full (execAmoswap o s) := by
  unfold execAmoswap
  exact ctlAmo_canon hs
theorem execAmocas_canon {o : RAmo} {s : State} (hs : StateCanon full s) : OutCanon full (execAmocas o s) := by
  unfold execAmocas
  exact ctlAmo_canon hs
theorem csrWrite_canon {t : Slot} {n : ℕ} {v : Word} (ht : SlotCanon full t) : SlotCanon full (csrWrite t n v) := by
  unfold csrWrite
  extract_lets cs
  have hcs : ∀ (f : Csrs → Csrs), SlotCanon full (cs f) := fun _ => slot_modCtl_canon ht
  clear_value cs
  exact ite_canon (hcs _) (ite_canon (hcs _) (ite_canon (hcs _) (ite_canon (hcs _) (ite_canon (hcs _) (ite_canon (hcs _) (ite_canon ht (ite_canon ht (ite_canon (hcs _) ht))))))))
theorem waitTake_canon {s : State} {d : DieId} {k : SlotId} {o : Open} {a : WaitC} (hs : StateCanon full s) : StateCanon full (waitTake s d k o a).1 := by
  unfold waitTake
  split
  · exact state_modSlot_canon hs fun _ h => h
  · exact state_modDie_canon hs fun _ h => die_canon h.mem h.proofs h.sched (slots_map_canon h.slot (fun _ h2 => h2))
  · exact ite_canon (state_beats_canon hs) hs
  · exact hs
theorem waitWord_canon {na : BitVec 2} {s : State} {d : DieId} {k : SlotId} {o : Open} {w : WaitC} (hs : StateCanon full s) : CResCanon full (waitWord na s d k o w) := by
  unfold waitWord
  extract_lets p src
  have hp : StateCanon full p.1 := waitTake_canon hs
  clear_value p
  exact ite_canon hp (state_setOpn_canon hs)
theorem ctlFence_canon {kind : BitVec 2} {o : RFence} {s : State} (hs : StateCanon full s) : OutCanon full (ctlFence kind o s) := by
  unfold ctlFence
  exact ctlDo_canon (fun _ h _ _ _ => waitWord_canon h) hs
theorem execFenceAcq_canon {o : RFence} {s : State} (hs : StateCanon full s) : OutCanon full (execFenceAcq o s) := by
  unfold execFenceAcq
  exact ctlFence_canon hs
theorem execFenceRel_canon {o : RFence} {s : State} (hs : StateCanon full s) : OutCanon full (execFenceRel o s) := by
  unfold execFenceRel
  exact ctlFence_canon hs
theorem execFenceFull_canon {o : RFence} {s : State} (hs : StateCanon full s) : OutCanon full (execFenceFull o s) := by
  unfold execFenceFull
  exact ctlFence_canon hs
theorem ctlEnq_canon {q : Fin 6} {o : REnq} {s : State} (hs : StateCanon full s) : OutCanon full (ctlEnq q o s) := by
  unfold ctlEnq
  exact ctlDo_canon (fun _ h _ _ _ => src_canon h (fun _ => ite_canon h (held_canon h (ite_canon h h)))) hs
theorem execEnqLde_canon {o : REnq} {s : State} (hs : StateCanon full s) : OutCanon full (execEnqLde o s) := by
  unfold execEnqLde
  exact ctlEnq_canon hs
theorem execEnqAre_canon {o : REnq} {s : State} (hs : StateCanon full s) : OutCanon full (execEnqAre o s) := by
  unfold execEnqAre
  exact ctlEnq_canon hs
theorem execEnqSte_canon {o : REnq} {s : State} (hs : StateCanon full s) : OutCanon full (execEnqSte o s) := by
  unfold execEnqSte
  exact ctlEnq_canon hs
theorem execEnqMxe_canon {o : REnq} {s : State} (hs : StateCanon full s) : OutCanon full (execEnqMxe o s) := by
  unfold execEnqMxe
  exact ctlEnq_canon hs
theorem execEnqCpe_canon {o : REnq} {s : State} (hs : StateCanon full s) : OutCanon full (execEnqCpe o s) := by
  unfold execEnqCpe
  exact ctlEnq_canon hs
theorem execEnqCoe_canon {o : REnq} {s : State} (hs : StateCanon full s) : OutCanon full (execEnqCoe o s) := by
  unfold execEnqCoe
  exact ctlEnq_canon hs
theorem execTsig_canon {o : RA} {s : State} (hs : StateCanon full s) : OutCanon full (execTsig o s) := by
  unfold execTsig
  exact ctlDo_canon (fun _ h _ _ _ => src_canon h (fun _ => h)) hs
theorem execTwait_canon {o : RA} {s : State} (hs : StateCanon full s) : OutCanon full (execTwait o s) := by
  unfold execTwait
  exact ctlDo_canon (fun _ h _ _ _ => src_canon h (fun _ => waitWord_canon h)) hs
theorem execSemset_canon {o : RR} {s : State} (hs : StateCanon full s) : OutCanon full (execSemset o s) := by
  unfold execSemset
  exact ctlDo_canon (fun _ h _ _ _ => src_canon h (fun _ => h)) hs
theorem execSemadd_canon {o : RR} {s : State} (hs : StateCanon full s) : OutCanon full (execSemadd o s) := by
  unfold execSemadd
  exact ctlDo_canon (fun _ h _ _ _ => src_canon h (fun _ => h)) hs
theorem execSemwait_canon {o : RR} {s : State} (hs : StateCanon full s) : OutCanon full (execSemwait o s) := by
  unfold execSemwait
  exact ctlDo_canon (fun _ h _ _ _ => src_canon h (fun _ => waitWord_canon h)) hs
theorem execSemwaitSusp_canon {o : RR} {s : State} (hs : StateCanon full s) : OutCanon full (execSemwaitSusp o s) := by
  unfold execSemwaitSusp
  exact ctlDo_canon (fun _ h _ _ _ => src_canon h (fun _ => h)) hs
theorem popVal_canon {s : State} {r : Result} (hs : StateCanon full s) : StateCanon full (popVal s r).2 := by
  unfold popVal
  extract_lets p
  have hp : StateCanon full p.2 := hs
  clear_value p
  split
  · exact hp
  · exact hs
theorem slot_setPsn_canon {t : Slot} {q : Fin 4} {psn : Bool} (ht : SlotCanon full t) : SlotCanon full (t.setPsn q psn) := by
  unfold Slot.setPsn
  exact ite_canon (slot_modCtl_canon ht) ht
theorem execPop_canon {o : RPop} {s : State} (hs : StateCanon full s) : OutCanon full (execPop o s) := by
  unfold execPop
  refine ctlDo_canon (fun _ h _ _ _ => ?_) hs
  extract_lets q t n
  have ht : SlotCanon full t := h.slot _ _
  clear_value t
  have hn : StateCanon full n.2 := state_newTag_canon h
  clear_value n
  split
  · extract_lets v src
    have hv : StateCanon full v.2 := popVal_canon h
    clear_value v
    exact hv
  · exact hn
theorem execPopNb_canon {o : RPopNb} {s : State} (hs : StateCanon full s) : OutCanon full (execPopNb o s) := by
  unfold execPopNb
  refine ctlDo_canon (fun _ h _ _ _ => ?_) hs
  extract_lets q t
  have ht : SlotCanon full t := h.slot _ _
  clear_value t
  split
  · extract_lets v src
    have hv : StateCanon full v.2 := popVal_canon h
    clear_value v
    exact hv
  · exact h
theorem execMlease_canon {o : RN} {s : State} (hs : StateCanon full s) : OutCanon full (execMlease o s) := by
  unfold execMlease
  exact ctlDo_canon (fun _ h _ _ _ => h) hs
theorem execMrlse_canon {o : RN} {s : State} (hs : StateCanon full s) : OutCanon full (execMrlse o s) := by
  unfold execMrlse
  exact ctlDo_canon (fun _ h _ _ _ => h) hs
theorem execSplit_canon {o : RA} {s : State} (hs : StateCanon full s) : OutCanon full (execSplit o s) := by
  unfold execSplit
  exact ctlDo_canon (fun _ h _ _ _ => src_canon h (fun _ => h)) hs
theorem execFuse_canon {o : RA} {s : State} (hs : StateCanon full s) : OutCanon full (execFuse o s) := by
  unfold execFuse
  exact ctlDo_canon (fun _ h _ _ _ => src_canon h (fun _ => h)) hs
theorem execChain_canon {o : RAB} {s : State} (hs : StateCanon full s) : OutCanon full (execChain o s) := by
  unfold execChain
  exact ctlDo_canon (fun _ h _ _ _ => src_canon h (fun _ => src_canon h (fun _ => h))) hs
theorem execUnchain_canon {o : RA} {s : State} (hs : StateCanon full s) : OutCanon full (execUnchain o s) := by
  unfold execUnchain
  exact ctlDo_canon (fun _ h _ _ _ => src_canon h (fun _ => h)) hs
theorem execArv_canon {o : RScope} {s : State} (hs : StateCanon full s) : OutCanon full (execArv o s) := by
  unfold execArv
  exact ctlDo_canon (fun _ h _ _ _ => h) hs
theorem execWtb_canon {o : RScope} {s : State} (hs : StateCanon full s) : OutCanon full (execWtb o s) := by
  unfold execWtb
  refine ctlDo_canon (fun _ h _ _ _ => ?_) hs
  extract_lets c
  exact waitWord_canon h
theorem execWpv_canon {o : RA} {s : State} (hs : StateCanon full s) : OutCanon full (execWpv o s) := by
  unfold execWpv
  refine ctlDo_canon (fun _ h _ _ _ => src_canon h (fun _ => ?_)) hs
  split
  · exact ite_canon h (waitWord_canon h)
  · split
    · exact h
    · exact waitWord_canon h
theorem execWpvSusp_canon {o : RA} {s : State} (hs : StateCanon full s) : OutCanon full (execWpvSusp o s) := by
  unfold execWpvSusp
  refine ctlDo_canon (fun _ h _ _ _ => src_canon h (fun _ => ?_)) hs
  split
  · exact h
  · exact h
theorem execSusp_canon {o : RN} {s : State} (hs : StateCanon full s) : OutCanon full (execSusp o s) := by
  unfold execSusp
  exact ctlDo_canon (fun _ h _ _ _ => h) hs
theorem execHint_canon {o : RA} {s : State} (hs : StateCanon full s) : OutCanon full (execHint o s) := by
  unfold execHint
  exact ctlDo_canon (fun _ h _ _ _ => src_canon h (fun _ => h)) hs
theorem execPublq_canon {o : RR} {s : State} (hs : StateCanon full s) : OutCanon full (execPublq o s) := by
  unfold execPublq
  refine ctlDo_canon (fun _ h _ _ _ => src_canon h (fun _ => held_canon h ?_)) hs
  extract_lets p
  split
  · exact h
  · extract_lets v
    exact ite_canon h (ite_canon h (ite_canon h h))
theorem execCsrr_canon {o : RCsrr} {s : State} (hs : StateCanon full s) : OutCanon full (execCsrr o s) := by
  unfold execCsrr
  exact ctlDo_canon (fun _ h _ _ _ => h) hs
theorem execCsrw_canon {o : RCsrw} {s : State} (hs : StateCanon full s) : OutCanon full (execCsrw o s) := by
  unfold execCsrw
  exact ctlDo_canon (fun _ h _ _ _ => src_canon h (fun _ => h)) hs
theorem execSysc_canon {o : RAB} {s : State} (hs : StateCanon full s) : OutCanon full (execSysc o s) := by
  unfold execSysc
  exact ctlDo_canon (fun _ h _ _ _ => src_canon h (fun _ => src_canon h (fun _ => h))) hs
theorem execTrap_canon {o : RA} {s : State} (hs : StateCanon full s) : OutCanon full (execTrap o s) := by
  unfold execTrap
  exact ctlDo_canon (fun _ h _ _ _ => src_canon h (fun _ => h)) hs
theorem execEret_canon {o : RN} {s : State} (hs : StateCanon full s) : OutCanon full (execEret o s) := by
  unfold execEret
  exact ctlDo_canon (fun _ h _ _ _ => ite_canon h h) hs
theorem execTick_canon {o : RD} {s : State} (hs : StateCanon full s) : OutCanon full (execTick o s) := by
  unfold execTick
  exact ctlDo_canon (fun _ h _ _ _ => h) hs
theorem execRfence_canon {o : RN} {s : State} (hs : StateCanon full s) : OutCanon full (execRfence o s) := by
  unfold execRfence
  exact ctlDo_canon (fun _ h _ _ _ => waitWord_canon h) hs
theorem die_clearEarly_canon {dn : DieId} {d : Die} {l : Launch} {b : Blk} (hd : DieCanon full d) : DieCanon full (Die.clearEarly dn d l b) := by
  unfold Die.clearEarly
  refine foldl_canon (p := DieCanon full) (fun _ _ h => ?_) hd
  extract_lets a
  split
  next e =>
    have k := snd_canon (procLoad_canon h) e
    exact procStore_canon k
  next e =>
    have k := snd_canon (procLoad_canon h) e
    exact k
theorem die_reeval_canon {d : Die} {dn : DieId} (hd : DieCanon full d) : DieCanon full (d.reeval dn) := by
  unfold Die.reeval
  extract_lets left src d2
  have hsrc : SchedCanon full src := hd.sched
  clear_value src
  have hd2 : DieCanon full d2 := die_canon hd.mem hd.proofs hsrc hd.slot
  clear_value d2
  exact ite_canon hd (foldl_canon (p := DieCanon full) (fun _ _ h => die_clearEarly_canon h) hd2)
theorem die_enterBlocks_canon {dn : DieId} {d : Die} {lid : ℕ} {early : Bool} {which : ℕ → Bool} (hd : DieCanon full d) : DieCanon full (Die.enterBlocks dn d lid early which) := by
  unfold Die.enterBlocks
  split
  · exact hd
  · extract_lets k ls d2 blk src
    have hd2 : DieCanon full d2 := foldl_canon (p := DieCanon full) (fun _ _ h => foldl_canon (p := DieCanon full) (fun _ _ h2 => procStore_canon h2) h) hd
    clear_value d2
    have hsrc : SchedCanon full src := sched_modLaunch_canon hd2.sched
    clear_value src
    exact die_canon hd2.mem hd2.proofs hsrc hd2.slot
theorem die_enterQueue_canon {dn : DieId} {d : Die} {lid : ℕ} {early : Bool} (hd : DieCanon full d) : DieCanon full (Die.enterQueue dn d lid early) := by
  unfold Die.enterQueue
  exact die_enterBlocks_canon hd
theorem die_nodeReady_canon {dn : DieId} {d : Die} {lid : ℕ} (hd : DieCanon full d) : DieCanon full (Die.nodeReady dn d lid) := by
  unfold Die.nodeReady
  split
  · exact hd
  · extract_lets d2
    have hd2 : DieCanon full d2 := die_canon hd.mem hd.proofs (sched_modLaunch_canon hd.sched) hd.slot
    clear_value d2
    exact ite_canon (die_reeval_canon hd2) (die_enterQueue_canon hd2)
theorem die_hintNode_canon {dn : DieId} {d : Die} {k : SlotId} {node : Half} (hd : DieCanon full d) : DieCanon full (Die.hintNode dn d k node) := by
  unfold Die.hintNode
  split
  · exact hd
  · split
    · exact hd
    · extract_lets names
      exact ite_canon (die_enterQueue_canon (die_canon hd.mem hd.proofs (sched_modLaunch_canon hd.sched) hd.slot)) hd
theorem die_grantLease_canon {d : Die} {dn : DieId} {k : SlotId} (hd : DieCanon full d) : DieCanon full (d.grantLease dn k) := by
  unfold Die.grantLease
  exact die_modSlot_canon hd fun _ h => slot_modCtl_canon h
theorem die_lapse_canon {d : Die} {dn : DieId} {k : SlotId} (hd : DieCanon full d) : DieCanon full (d.lapse dn k) := by
  unfold Die.lapse
  extract_lets d2 b
  have hd2 : DieCanon full d2 := die_modSlot_canon hd fun _ h => slot_modCtl_canon h
  clear_value d2
  refine ite_canon (ite_canon hd2 ?_) hd
  split
  · exact die_grantLease_canon hd2
  · exact hd2
theorem die_mlease_canon {d : Die} {dn : DieId} {k : SlotId} (hd : DieCanon full d) : DieCanon full (d.mlease dn k) := by
  unfold Die.mlease
  extract_lets c b
  exact ite_canon hd (ite_canon (die_grantLease_canon hd) (die_modSlot_canon hd (fun _ h => slot_modCtl_canon h)))
theorem die_mrlse_canon {d : Die} {dn : DieId} {k : SlotId} (hd : DieCanon full d) : DieCanon full (d.mrlse dn k) := by
  unfold Die.mrlse
  exact die_modSlot_canon (die_lapse_canon hd) fun _ h => slot_modCtl_canon h
theorem die_regrant_canon {d : Die} {dn : DieId} {b : SlotId} (hd : DieCanon full d) : DieCanon full (d.regrant dn b) := by
  unfold Die.regrant
  refine ite_canon hd ?_
  split
  · exact die_grantLease_canon hd
  · exact hd
theorem die_drainBegin_canon {d : Die} {aff : List SlotId} (hd : DieCanon full d) : DieCanon full (d.drainBegin aff) := by
  unfold Die.drainBegin
  extract_lets fs
  exact foldl_canon (p := DieCanon full) (fun _ _ h => die_modSlot_canon h (fun _ h2 => slot_modCtl_canon h2)) (foldl_canon (p := DieCanon full) (fun _ _ h => die_modSlot_canon h (fun _ h2 => slot_modCtl_canon h2)) hd)
theorem die_putFrag_canon {d : Die} {sh : Fin 6} {b : SlotId} {semi : Semi} {wfmt : Tag} (hd : DieCanon full d) : DieCanon full (d.putFrag sh b semi wfmt) := by
  unfold Die.putFrag
  exact foldl_canon (p := DieCanon full) (fun _ _ h => die_modLay_canon h) hd
theorem die_drainApply_canon {d : Die} {bs : List SlotId} {r : DrainReq} (hd : DieCanon full d) : DieCanon full (d.drainApply bs r) := by
  unfold Die.drainApply
  split
  · extract_lets p y sh
    exact foldl_canon (p := DieCanon full) (fun _ _ h => die_putFrag_canon h) hd
  · extract_lets b y
    exact die_putFrag_canon hd
  · exact ite_canon hd (die_modLay_canon hd)
  · exact die_modLay_canon hd
theorem die_putRel_canon {d : Die} {bs : List SlotId} {ls : List RelLay} {keep : Bool} (hd : DieCanon full d) : DieCanon full (d.putRel bs ls keep) := by
  unfold Die.putRel
  extract_lets slotAt d2
  have hd2 : DieCanon full d2 := foldl_canon (p := DieCanon full) (fun _ _ h => die_putFrag_canon h) hd
  clear_value d2
  exact foldl_canon (p := DieCanon full) (fun _ _ h => die_modLay_canon h) hd2
theorem headerFault_canon {s : State} {d : DieId} {k : SlotId} {code : ℕ} {addr : Word} (hs : StateCanon full s) : StateCanon full (headerFault s d k code addr) := by
  unfold headerFault
  exact takeFault_canon hs
theorem badFault_canon {s : State} {d : DieId} {k : SlotId} {o : Open} {b : ℕ} (hs : StateCanon full s) : StateCanon full (badFault s d k o b) := by
  unfold badFault
  exact takeFault_canon hs
theorem exitDo_canon {p : BitVec 3} {neg : Bool} {reg : Option (BitVec 5)} {f : Open → Word → ℕ → Succ} {s : State} (hs : StateCanon full s) : OutCanon full (exitDo p neg reg f s) := by
  unfold exitDo
  split
  · extract_lets d
    split
    · exact hs
    · split
      · extract_lets w
        refine ite_canon (state_setOpn_canon hs) ?_
        split
        · exact state_setOpn_canon hs
        · exact ite_canon (state_setOpn_canon hs) hs
      · exact hs
  · exact hs
theorem execRelativeExit_canon {x : ExRel} {s : State} (hs : StateCanon full s) : OutCanon full (execRelativeExit x s) := by
  unfold execRelativeExit
  exact exitDo_canon hs
theorem execJumpExit_canon {x : ExReg} {s : State} (hs : StateCanon full s) : OutCanon full (execJumpExit x s) := by
  unfold execJumpExit
  exact exitDo_canon hs
theorem execCallExit_canon {x : ExReg} {s : State} (hs : StateCanon full s) : OutCanon full (execCallExit x s) := by
  unfold execCallExit
  exact exitDo_canon hs
theorem execReturnExit_canon {x : ExReg} {s : State} (hs : StateCanon full s) : OutCanon full (execReturnExit x s) := by
  unfold execReturnExit
  exact exitDo_canon hs
theorem pre_state_canon {α : Type} {a : Pre α} (ha : PreCanon full a) : StateCanon full a.state := by
  unfold Pre.state
  split
  · exact ha
  · exact ha
  · exact ha
theorem pre_and_canon {α β : Type} {h : Word} {p : Pre α} {f : State → Pre β} (hp : PreCanon full p) (hf : ∀ (a : State), StateCanon full a → PreCanon full (f a)) : PreCanon full (Pre.and h p f) := by
  unfold Pre.and
  split
  · split
    next e =>
      have k := PreCanon.ok e (hf _ hp)
      exact k
    next e =>
      have k := PreCanon.wait e (hf _ hp)
      exact k
    next e =>
      have k := PreCanon.fault e (hf _ hp)
      exact k
  · exact pre_state_canon (hf _ hp)
  · split
    next e =>
      have k := PreCanon.ok e (hf _ hp)
      exact k
    next e =>
      have k := PreCanon.wait e (hf _ hp)
      exact k
    next e =>
      have k := PreCanon.fault e (hf _ hp)
      exact ite_canon k k
theorem freePages_canon {dn : DieId} {w : Who} {va n : ℕ} {d : Die} (hd : DieCanon full d) : XCanon full (freePages dn w va n d) := by
  induction n generalizing va d with
  | zero => exact hd
  | succ n ih =>
    unfold freePages
    have ha : XCanon full (access dn d w va 65536 ⟨[0, 1], false, true⟩) := access_canon hd
    split
    next e => exact ha.fault e
    next e => exact ha.wait e
    next e => exact xRes_map_canon (ih (ha.ok e))
theorem codePieces_canon {dn : DieId} {w : Who} {l : List (ℕ × ℕ)} {d : Die} (hd : DieCanon full d) : XCanon full (codePieces dn w l d) := codePieces_keeps transKeeps_canon dn w l d hd

end Sys2Proof.Proofs
end

section
/-! SUPPORT. Commits, entries, operand rows and the gate keep the canonical form (O60). -/

namespace Sys2Proof.Proofs

open Sys2Proof Sys2Proof.Machine Sys2Proof.Laws

variable {full : Prop}

/-! ## Tiles and banks (R43, R65) -/

theorem tile_setEmpty_canon {t : Tile} {r : ℕ} (h : TileCanon t) : TileCanon (t.setEmpty r) := h
theorem tile_put_canon {t : Tile} {r : ℕ} {v : RowVal} {sc : Bool} (h : TileCanon t) : TileCanon (t.put r v sc) := by
  refine ⟨spWf_spWrite 0 _ _ _ h.1, ?_⟩
  unfold Tile.put
  dsimp only
  split
  · exact spWf_spWrite 0 _ _ _ h.2
  · exact h.2
theorem tile_start_canon {t : Tile} {f n : ℕ} {tag : Option Tag} (h : TileCanon t) : TileCanon (t.start f n tag) := by
  unfold Tile.start
  exact foldl_canon (p := TileCanon) (fun _ _ h => tile_setEmpty_canon h) h
theorem slot_tiles_canon {t : Slot} {i : Fin 16} {f : Tile → Tile} (ht : SlotCanon full t) (hf : ∀ y, TileCanon y → TileCanon (f y)) : SlotCanon full { t with tiles := vmod t.tiles i f } := by
  intro e
  obtain ⟨tiles, bank⟩ := ht e
  refine ⟨fun n => ?_, bank⟩
  dsimp only
  rw [vget_vmod]
  split
  · exact hf _ (tiles i)
  · exact tiles n
theorem slot_modTile_canon {t : Slot} {c : BitVec 5} {f : Tile → Tile} (ht : SlotCanon full t) (hf : ∀ y, TileCanon y → TileCanon (f y)) : SlotCanon full (t.modTile c f) := slot_tiles_canon ht hf
theorem die_modBank_canon {d : Die} {k : SlotId} {f : Bank → Bank} (hd : DieCanon full d) (hf : ∀ b, BankCanon b → BankCanon (f b)) : DieCanon full (d.modBank k f) := by
  unfold Die.modBank
  refine die_modSlot_canon hd fun _ h e => ?_
  obtain ⟨tiles, bank⟩ := h e
  exact ⟨tiles, hf _ bank⟩
theorem bank_acc_canon {b : Bank} {a : ℕ} {vs : List W32} (h : BankCanon b) : BankCanon { b with acc := spWrite 0 b.acc a vs } := ⟨spWf_spWrite 0 _ _ _ h.1, h.2⟩
theorem die_putAccRow_canon {d : Die} {b : SlotId} {r : ℕ} {vs : List W32} (hd : DieCanon full d) : DieCanon full (d.putAccRow b r vs) := by
  unfold Die.putAccRow
  extract_lets lo hi d2
  have hd2 : DieCanon full d2 := die_modBank_canon hd fun _ h => bank_acc_canon h
  clear_value d2
  exact ite_canon hd2 (die_modBank_canon hd2 fun _ h => bank_acc_canon h)
theorem accessLines_canon {dn : DieId} {w : Who} {n : Need} {l : List (Part × ℕ × ℕ)} {d : Die} (hd : DieCanon full d) : XCanon full (accessLines dn w n l d) := accessLines_keeps transKeeps_canon dn w n l d hd
theorem touchLines_canon {dn : DieId} {w : Who} {l : List (ℕ × ℕ)} {d : Die} (hd : DieCanon full d) : XCanon full (touchLines dn w l d) := by
  induction l generalizing d with
  | nil => exact hd
  | cons c r ih =>
    unfold touchLines
    have ha : XCanon full (access dn d w c.1 c.2 (needRow true false)) := access_canon hd
    split
    next e => exact ha.wait e
    next e => exact ih (ha.ok e)
    next e => exact ih (ite_canon (ha.fault e) (die_setReg_canon (ha.fault e)))

theorem tile_side_canon {y : Tile} {a : ℕ} {bs : List Byte} (h : TileCanon y) : TileCanon { y with side := spWrite 0 y.side a bs } := ⟨h.1, spWf_spWrite 0 _ _ _ h.2⟩
theorem execFreeh_canon {o : RAB} {s : State} (hs : StateCanon full s) : OutCanon full (execFreeh o s) := by
  unfold execFreeh
  refine ctlDo_canon (fun _ h _ _ _ => src_canon h (fun _ => src_canon h (fun _ => held_canon h (ite_canon h ?_)))) hs
  split
  next e =>
    have k := XCanon.ok e (freePages_canon (h.die _))
    exact state_modDie_canon h fun _ _ => k
  next e =>
    have k := XCanon.wait e (freePages_canon (h.die _))
    exact state_modDie_canon h fun _ _ => k
  next e =>
    have k := XCanon.fault e (freePages_canon (h.die _))
    exact state_modDie_canon h fun _ _ => k
theorem codeHalves_canon {dn : DieId} {d : Die} {w : Who} {va n : ℕ} (hd : DieCanon full d) : XCanon full (codeHalves dn d w va n) := by
  unfold codeHalves
  exact xRes_map_canon (codePieces_canon hd)
theorem beginBlock_canon {len nex : ℕ} {rep sw : Option ℕ} {s : State} (hs : StateCanon full s) : StateCanon full (beginBlock len nex rep sw s) := by
  unfold beginBlock
  split
  · extract_lets d c n first
    refine ite_canon hs (ite_canon (headerFault_canon hs) ?_)
    split
    next e =>
      have k := XCanon.fault e (codeHalves_canon (hs.die _))
      exact headerFault_canon (state_modDie_canon hs (fun _ _ => k))
    next e =>
      have k := XCanon.wait e (codeHalves_canon (hs.die _))
      exact state_modDie_canon hs fun _ _ => k
    next e =>
      have k := XCanon.ok e (codeHalves_canon (hs.die _))
      extract_lets s2 body src srcOk exits badX r
      have hs2 : StateCanon full s2 := state_modDie_canon hs fun _ _ => k
      clear_value s2
      refine ite_canon (headerFault_canon hs2) ?_
      split
      · exact headerFault_canon hs2
      · extract_lets bad start
        have hstart : ∀ (count : ℕ), StateCanon full (start count) := by
          unfold start
          intro count
          extract_lets o
          exact state_setOpn_canon hs2
        clear_value start
        refine ite_canon (headerFault_canon hs2) (ite_canon (takeFault_canon hs2) ?_)
        split
        · exact hstart _
        · exact ite_canon (hstart _) hs2
  · exact hs
theorem execBlockHeader_canon {h : Hdr} {s : State} (hs : StateCanon full s) : OutCanon full (execBlockHeader h s) := by
  unfold execBlockHeader
  exact beginBlock_canon hs
theorem execSwitchPointHeader_canon {h : HdrSw} {s : State} (hs : StateCanon full s) : OutCanon full (execSwitchPointHeader h s) := by
  unfold execSwitchPointHeader
  exact beginBlock_canon hs
theorem pre_bind_canon {α β : Type} {p : Pre α} {f : State → α → Pre β} (hp : PreCanon full p) (hf : ∀ (a : State), StateCanon full a → ∀ (a_1 : α), PreCanon full (f a a_1)) : PreCanon full (p.bind f) := by
  unfold Pre.bind
  split
  · exact hf _ hp _
  · exact hp
  · exact hp
theorem preAccess_canon {s : State} {d : DieId} {k : SlotId} {va len : ℕ} {rd wr : Bool} {word : Word} (hs : StateCanon full s) : PreCanon full (preAccess s d k va len rd wr word) := by
  unfold preAccess
  split
  next e =>
    have k2 := XCanon.ok e (accessRow_canon (hs.die _))
    exact state_modDie_canon hs fun _ _ => k2
  next e =>
    have k2 := XCanon.wait e (accessRow_canon (hs.die _))
    exact state_modDie_canon hs fun _ _ => k2
  next e =>
    have k2 := XCanon.fault e (accessRow_canon (hs.die _))
    exact state_modDie_canon hs fun _ _ => k2
theorem preSusp_canon {s : State} {d : DieId} {k : SlotId} {o : Open} (hs : StateCanon full s) : PreCanon full (preSusp s d k o) := by
  unfold preSusp
  split
  · exact hs
  · exact hs
  · split
    · exact hs
    · exact ite_canon hs (ite_canon hs hs)
  · exact ite_canon hs (ite_canon (ite_canon hs hs) hs)
theorem preBad_canon {o : Open} {s : State} (hs : StateCanon full s) : PreCanon full (preBad o s) := by
  unfold preBad
  split
  · exact hs
  · exact hs
theorem preLease_canon {d : DieId} {k : SlotId} {o : Open} {s : State} (hs : StateCanon full s) : PreCanon full (preLease d k o s) := by
  unfold preLease
  split
  · exact hs
  · exact hs
  · exact hs
theorem preTraps_canon {d : DieId} {k : SlotId} {o : Open} {s : State} (hs : StateCanon full s) : PreCanon full (preTraps d k o s) := by
  unfold preTraps
  split
  · exact hs
  · exact hs
theorem preDrain_canon {d : DieId} {k : SlotId} {o : Open} {s : State} (hs : StateCanon full s) : PreCanon full (preDrain d k o s) := by
  unfold preDrain
  split
  · exact hs
  · split
    · exact hs
    · exact hs
theorem preExit_canon {s : State} {d : DieId} {k : SlotId} {o : Open} (hs : StateCanon full s) : PreCanon full (preExit s d k o) := by
  unfold preExit
  extract_lets c
  split
  · exact ite_canon hs hs
  · exact ite_canon hs (ite_canon hs (ite_canon hs (preAccess_canon hs)))
  · exact ite_canon hs (ite_canon hs (preAccess_canon hs))
  · exact hs
theorem askSched_canon {d : DieId} {k : SlotId} {o : Open} {g : ℕ} {p : Piece} {s : State} (hs : StateCanon full s) : StateCanon full (askSched d k o g p s) := by
  unfold askSched
  exact state_setOpn_canon (state_modAg_canon hs)
theorem preSwitch_canon {s : State} {d : DieId} {k : SlotId} {o : Open} (hs : StateCanon full s) : PreCanon full (preSwitch s d k o) := by
  unfold preSwitch
  split
  · extract_lets lvl g ask
    have hask : PreCanon full ask := by
      unfold ask
      refine ite_canon hs (ite_canon hs (pre_bind_canon (preAccess_canon hs) (fun a h _ => ?_)))
      split
      · exact askSched_canon h
      · exact h
    clear_value ask
    refine ite_canon hs ?_
    split
    · extract_lets a
      exact ite_canon hs hask
    · exact ite_canon hs hask
  · exact hs
theorem prePoint_canon {s : State} {d : DieId} {k : SlotId} {o : Open} {sp : Option (SuspReq × ℕ)} (hs : StateCanon full s) : PreCanon full (prePoint s d k o sp) := by
  unfold prePoint
  extract_lets c stopW
  exact ite_canon hs hs
theorem preCommit_canon {s : State} {d : DieId} {k : SlotId} {o : Open} (hs : StateCanon full s) : PreCanon full (preCommit s d k o) := by
  unfold preCommit
  refine pre_bind_canon (pre_and_canon (pre_and_canon (pre_and_canon (pre_bind_canon (preSusp_canon hs) (fun _ h _ => pre_bind_canon (prePoint_canon h) (fun _ h2 _ => h2)))
      (fun _ h => preTraps_canon h)) (fun _ h => preDrain_canon h)) (fun _ h => preExit_canon h)) fun _ h _ => ?_
  extract_lets sp point c
  refine ite_canon h (pre_bind_canon (preSwitch_canon h) (fun _ h2 _ => ?_))
  split
  · exact pre_bind_canon (preAccess_canon h2) fun _ h3 _ => ite_canon h3 h3
  · exact h2
theorem applyOp_canon {d : DieId} {k : SlotId} {hdr : Word} {seq : W32} {s : State} {x : CtlOp} (hs : StateCanon full s) : StateCanon full (applyOp d k hdr seq s x) := by
  unfold applyOp
  extract_lets push g
  have hpush : ∀ (s : State), StateCanon full s → ∀ (op : SbOp), StateCanon full (push s op) := fun _ h _ => state_modAg_canon h
  clear_value push
  split
  · exact hpush _ hs _
  · extract_lets s2 s3
    have hs2 : StateCanon full s2 := ite_canon (hpush _ hs _) hs
    clear_value s2
    have hs3 : StateCanon full s3 := hpush _ hs2 _
    clear_value s3
    exact ite_canon (state_modCtl_canon (hpush _ hs3 _)) hs3
  · exact hpush _ hs _
  · exact hpush _ hs _
  · extract_lets early s2 b s3 s4
    have hs2 : StateCanon full s2 := state_modSlot_canon hs fun _ h => h
    clear_value s2
    have hs3 : StateCanon full s3 := state_modSlot_canon hs2 fun _ h => h
    clear_value s3
    have hs4 : StateCanon full s4 := state_modCtl_canon hs3
    clear_value s4
    exact ite_canon (ite_canon (ite_canon (state_modDie_canon hs4 (fun _ h => die_lapse_canon h)) hs4) hs3) hs2
  · exact state_modDie_canon hs fun _ h => die_mlease_canon h
  · exact state_modDie_canon hs fun _ h => die_mrlse_canon h
  · exact hs
  · exact state_modDie_canon hs fun _ h => die_hintNode_canon h
  · exact state_modSlot_canon hs fun _ h => csrWrite_canon h
  · exact hpush _ hs _
  · exact hpush _ hs _
theorem noteArrivals_canon {s : State} {d : DieId} {k : SlotId} {ops : List CtlOp} (hs : StateCanon full s) : StateCanon full (noteArrivals s d k ops) := by
  unfold noteArrivals
  extract_lets n ps
  refine foldl_canon (p := StateCanon full) (fun _ _ h => ?_) hs
  split
  · exact state_modCtl_canon h
  · exact h
theorem commitPops_canon {t : Slot} {o : Open} (ht : SlotCanon full t) : SlotCanon full (commitPops t o) := by
  unfold commitPops
  refine foldl_canon (p := SlotCanon full) (fun _ _ h => ?_) ht
  extract_lets base mine taken rs psn left
  exact slot_setPsn_canon h
theorem spill_canon {d : DieId} {k : SlotId} {o : Open} {ps : List Piece} {base : ℕ} {seq : W32} {s : State} (hs : StateCanon full s) : StateCanon full (spill d k o ps base seq s) := by
  unfold spill
  refine foldl_canon (p := StateCanon full) (fun _ _ h => ?_) hs
  split
  · extract_lets off loc
    exact state_modAg_canon h
  · exact h
theorem askFills_canon {d : DieId} {k : SlotId} {o : Open} {ps : List Piece} {base word : ℕ} {s : State} (hs : StateCanon full s) : StateCanon full (askFills d k o ps base word s) := by
  unfold askFills
  extract_lets seq rds
  exact state_setOpn_canon (state_modAg_canon hs)
theorem suspend_canon {s : State} {d : DieId} {k : SlotId} {succ : Word} {kind sem : ℕ} {thr : W32} {pnode : Half} {done : Bool} {ps : List Piece} (hs : StateCanon full s) : StateCanon full (suspend s d k succ kind sem thr pnode done ps) := by
  unfold suspend
  split
  · extract_lets c r bs va s2 op near s3 s4 s5
    have hs2 : StateCanon full s2 := state_modSlot_canon hs fun _ h => slot_dropRows_canon h
    clear_value s2
    have hs3 : StateCanon full s3 := ite_canon (applyLocal_canon (state_modDie_canon (state_pairStores_canon hs2) (fun _ h => foldl_canon (p := DieCanon full) (fun _ _ h2 => die_markDirty_canon h2) h))) (state_modAg_canon hs2)
    clear_value s3
    have hs4 : StateCanon full s4 := state_modDie_canon hs3 fun _ h => die_mrlse_canon h
    clear_value s4
    have hs5 : StateCanon full s5 := state_modSched_canon hs4 fun _ h => sched_modBlk_canon h
    clear_value s5
    exact state_modCtl_canon hs5
  · exact state_modCtl_canon hs
theorem commitFinish_canon {s : State} {d : DieId} {k : SlotId} {o : Open} {r : Ready} (hs : StateCanon full s) : StateCanon full (commitFinish s d k o r) := by
  unfold commitFinish
  extract_lets seq tent wsp regs s2 s3 s4 s5 npush mv succ0 traps s6 q0 q1 s7 s8 done s9
  have hs2 : StateCanon full s2 := foldl_canon (p := StateCanon full) (fun _ _ h => applyOp_canon h) hs
  clear_value s2
  have hs3 : StateCanon full s3 := by
    unfold s3
    split
    · exact spill_canon hs2
    · exact hs2
  clear_value s3
  have hs4 : StateCanon full s4 := noteArrivals_canon hs3
  clear_value s4
  have hs5 : StateCanon full s5 := state_modSlot_canon hs4 fun _ h => commitPops_canon h
  clear_value s5
  have hs6 : StateCanon full s6 := state_modCtl_canon hs5
  clear_value s6
  have hs7 : StateCanon full s7 := state_modCtl_canon hs6
  clear_value s7
  have hs8 : StateCanon full s8 := ite_canon (state_modSlot_canon hs7 (fun _ h => slot_dropRows_canon h)) hs7
  clear_value s8
  have hs9 : StateCanon full s9 := by
    unfold s9
    refine ite_canon ?_ hs8
    split
    · exact suspend_canon hs8
    · exact suspend_canon hs8
    · exact suspend_canon hs8
  clear_value s9
  split
  · exact takeFault_canon hs9
  · exact hs9
theorem blockFault_canon {s : State} {d : DieId} {k : SlotId} {o : Open} {code : ℕ} {word addr : Word} {unit : ℕ} (hs : StateCanon full s) : StateCanon full (blockFault s d k o code word addr unit) := by
  unfold blockFault
  exact takeFault_canon hs
theorem execBlockCommit_canon {d : DieId} {k : SlotId} {s : State} (hs : StateCanon full s) : OutCanon full (execBlockCommit d k s) := by
  unfold execBlockCommit
  split
  · exact hs
  · refine ite_canon hs ?_
    split
    next e =>
      have k2 := PreCanon.wait e (pre_and_canon (pre_and_canon (preBad_canon hs) (fun _ h => preLease_canon h)) (fun _ h => preCommit_canon h))
      exact k2
    next e =>
      have k2 := PreCanon.fault e (pre_and_canon (pre_and_canon (preBad_canon hs) (fun _ h => preLease_canon h)) (fun _ h => preCommit_canon h))
      exact blockFault_canon k2
    next e =>
      have k2 := PreCanon.ok e (pre_and_canon (pre_and_canon (preBad_canon hs) (fun _ h => preLease_canon h)) (fun _ h => preCommit_canon h))
      extract_lets t go
      have ht : SlotCanon full t := k2.slot _ _
      clear_value t
      have hgo : StateCanon full go := ite_canon (commitFinish_canon k2) (state_modDie_canon (state_setOpn_canon k2) (fun _ h => die_drainBegin_canon h))
      clear_value go
      refine ite_canon k2 ?_
      split
      · exact ite_canon k2 (askFills_canon k2)
      · exact ite_canon k2 hgo
      · exact hgo
theorem drainFail_canon {s : State} {d : DieId} {k : SlotId} {o : Open} {code : ℕ} {word addr : Word} {unit : ℕ} (hs : StateCanon full s) : StateCanon full (drainFail s d k o code word addr unit) := by
  unfold drainFail
  exact state_modDie_canon (blockFault_canon hs) fun _ h => foldl_canon (p := DieCanon full) (fun _ _ h2 => die_regrant_canon h2) h
theorem execDrainEvent_canon {d : DieId} {k : SlotId} {s : State} (hs : StateCanon full s) : OutCanon full (execDrainEvent d k s) := by
  unfold execDrainEvent
  split
  · exact hs
  · split
    · extract_lets y bs
      have hy : DieCanon full y := hs.die _
      clear_value y
      refine ite_canon hs ?_
      split
      · exact drainFail_canon hs
      · extract_lets s2
        have hs2 : StateCanon full s2 := state_modDie_canon (state_setOpn_canon hs) fun _ h => die_drainBegin_canon h
        clear_value s2
        refine ite_canon (state_modDie_canon hs2 (fun _ h => foldl_canon (p := DieCanon full) (fun _ _ h2 => die_regrant_canon h2) h)) (ite_canon (drainFail_canon hs) (ite_canon hs ?_))
        split
        next e =>
          have k2 := PreCanon.wait e (preCommit_canon hs)
          exact k2
        next e =>
          have k2 := PreCanon.fault e (preCommit_canon hs)
          exact drainFail_canon k2
        next e =>
          have k2 := PreCanon.ok e (preCommit_canon hs)
          extract_lets s3 s4 s5
          have hs3 : StateCanon full s3 := state_modDie_canon k2 fun _ h => die_drainApply_canon h
          clear_value s3
          have hs4 : StateCanon full s4 := state_setOpn_canon hs3
          clear_value s4
          have hs5 : StateCanon full s5 := state_modDie_canon hs4 fun _ h => foldl_canon (p := DieCanon full) (fun _ _ h2 => die_regrant_canon h2) h
          clear_value s5
          exact commitFinish_canon hs5
    · exact hs
theorem execRunAheadMispredict_canon {d : DieId} {k : SlotId} {s : State} (hs : StateCanon full s) : OutCanon full (execRunAheadMispredict d k s) := by
  unfold execRunAheadMispredict
  extract_lets n
  exact state_modCtl_canon (state_modDie_canon hs (fun _ h => die_countSlot_canon h))
theorem execBlockWaitMet_canon {d : DieId} {k : SlotId} {s : State} (hs : StateCanon full s) : OutCanon full (execBlockWaitMet d k s) := by
  unfold execBlockWaitMet
  split
  · split
    · extract_lets failed p src
      have hp : StateCanon full p.1 := waitTake_canon hs
      clear_value p
      refine ite_canon hs (ite_canon (ctlFault_canon hs) (ite_canon ?_ hs))
      split
      · exact ite_canon (badFault_canon hs) (state_setOpn_canon hp)
      · exact state_setOpn_canon hp
    · exact hs
  · exact hs
theorem execPopFill_canon {d : DieId} {k : SlotId} {q : BitVec 2} {s : State} (hs : StateCanon full s) : OutCanon full (execPopFill d k q s) := by
  unfold execPopFill
  extract_lets i t
  have ht : SlotCanon full t := hs.slot _ _
  clear_value t
  split
  · split
    · exact hs
    · extract_lets v
      have hv : StateCanon full v.2 := popVal_canon hs
      clear_value v
      exact state_modSlot_canon hv fun _ h => slot_fillTag_canon (slot_setPsn_canon h)
  · split
    · exact hs
    · extract_lets mine
      split
      · exact hs
      · split
        · split
          · extract_lets v s2
            have hv : StateCanon full v.2 := popVal_canon hs
            clear_value v
            have hs2 : StateCanon full s2 := state_setOpn_canon hv
            clear_value s2
            exact state_modSlot_canon hs2 fun _ h => slot_modCtl_canon h
          · exact hs
        · exact hs
theorem execArrivalRecord_canon {d : DieId} {k : SlotId} {sc : BitVec 2} {s : State} (hs : StateCanon full s) : OutCanon full (execArrivalRecord d k sc s) := by
  unfold execArrivalRecord
  extract_lets c ready
  split
  · extract_lets s2
    have hs2 : StateCanon full s2 := state_modCtl_canon hs
    clear_value s2
    exact state_modSched_canon hs2 fun _ h => sched_modBlk_canon h
  · exact hs
theorem state_setRun_canon {s : State} {c : Cur} {r : Run} (hs : StateCanon full s) : StateCanon full (s.setRun c r) := by
  unfold State.setRun
  exact state_modDie_canon hs fun _ h => die_setCurRun_canon h
theorem state_setRun?_canon {s : State} {c : Cur} {r : Option Run} (hs : StateCanon full s) : StateCanon full (s.setRun? c r) := by
  unfold State.setRun?
  exact state_modDie_canon hs fun _ h => die_setCurRun_canon h
theorem engDo_canon {f : State → Cur → Run → State} {s : State} (hf : ∀ (a : State), StateCanon full a → ∀ (a_1 : Cur) (a_2 : Run), StateCanon full (f a a_1 a_2)) (hs : StateCanon full s) : OutCanon full (engDo f s) := by
  unfold engDo
  split
  · exact hf _ hs _ _
  · exact hs
theorem state_advRun_canon {s : State} {c : Cur} {r : Run} {na : BitVec 2} (hs : StateCanon full s) : StateCanon full (s.advRun c r na) := by
  unfold State.advRun
  exact state_setRun_canon hs
theorem checkBlock_canon {dn : DieId} {d : Die} {w : Who} {st : Stream} {blk : Word} {e : Vector Word 8} (hd : DieCanon full d) : ChkCanon full (checkBlock dn d w st blk e) := by
  unfold checkBlock
  refine ite_canon hd ?_
  split
  next e2 =>
    have k := XCanon.fault e2 (codeHalves_canon hd)
    exact k
  next e2 =>
    have k := XCanon.wait e2 (codeHalves_canon hd)
    exact k
  next e2 =>
    have k := XCanon.ok e2 (codeHalves_canon hd)
    split
    · split
      next e3 =>
        have k2 := XCanon.fault e3 (codeHalves_canon k)
        exact k2
      next e3 =>
        have k2 := XCanon.wait e3 (codeHalves_canon k)
        exact k2
      next e3 =>
        have k2 := XCanon.ok e3 (codeHalves_canon k)
        extract_lets body src srcOk first ws q count
        exact ite_canon k2 (ite_canon k2 k2)
    · exact k
theorem tryBlock_canon {s : State} {c : Cur} {r : Run} (hs : StateCanon full s) : StateCanon full (tryBlock s c r) := by
  unfold tryBlock
  extract_lets w
  split
  next e =>
    have k := ChkCanon.ok e (checkBlock_canon (hs.die _))
    split
    · extract_lets s2
      have hs2 : StateCanon full s2 := state_setRun_canon (state_modDie_canon hs (fun _ _ => k))
      clear_value s2
      exact agentFault_canon hs2
    · exact state_setRun_canon (state_modDie_canon hs (fun _ _ => k))
  next e =>
    have k := ChkCanon.wait e (checkBlock_canon (hs.die _))
    exact state_setRun_canon (state_modDie_canon hs (fun _ _ => k))
  next e =>
    have k := ChkCanon.fault e (checkBlock_canon (hs.die _))
    extract_lets s2
    have hs2 : StateCanon full s2 := state_setRun_canon (state_modDie_canon hs (fun _ _ => k))
    clear_value s2
    exact agentFault_canon hs2
theorem die_turn_canon {d : Die} {a : Agent} {k : SlotId} (hd : DieCanon full d) : DieCanon full (d.turn a k) := by
  unfold Die.turn
  split
  · exact hd
  · extract_lets src
    exact hd
  · exact hd
theorem frameOut_canon {s : State} {d : DieId} {a : Agent} (hs : StateCanon full s) : StateCanon full (frameOut s d a) := by
  unfold frameOut
  split
  · refine ite_canon hs ?_
    split
    · exact state_modDie_canon hs fun _ h => h
    · exact hs
  · exact hs
theorem entryStart_canon {s : State} {d : DieId} {a : Agent} (hs : StateCanon full s) : StateCanon full (entryStart s d a) := by
  unfold entryStart
  extract_lets c
  split
  · exact frameOut_canon (ite_canon (tryBlock_canon hs) hs)
  · split
    · exact hs
    · split
      · extract_lets s2
        have hs2 : StateCanon full s2 := by
          unfold s2
          refine state_modSlot_canon hs fun a2 h => ?_
          split
          · exact h
          · exact h
        clear_value s2
        exact frameOut_canon (state_setRun_canon (state_modDie_canon hs2 (fun _ h => die_turn_canon h)))
      · exact hs
      · extract_lets s2 s3
        have hs2 : StateCanon full s2 := state_modSlot_canon hs fun _ h => h
        clear_value s2
        have hs3 : StateCanon full s3 := state_modDie_canon hs2 fun _ h => die_turn_canon h
        clear_value s3
        exact frameOut_canon (tryBlock_canon hs3)
theorem execEntryStart_canon {d : DieId} {a : Agent} {s : State} (hs : StateCanon full s) : OutCanon full (execEntryStart d a s) := by
  unfold execEntryStart
  exact entryStart_canon hs
theorem completeEntry_canon {s : State} {d : DieId} {k : SlotId} {q : Fin 6} {n : ℕ} {e : Entry} {fl : BitVec 7} (hs : StateCanon full s) : StateCanon full (completeEntry s d k q n e fl) := by
  unfold completeEntry
  extract_lets g s2 s3
  have hs2 : StateCanon full s2 := by
    unfold s2
    refine state_modSlot_canon hs fun _ h => ?_
    extract_lets src
    have hsrc : SlotCanon full src := slot_mergeFlags_canon h
    clear_value src
    exact hsrc
  clear_value s2
  have hs3 : StateCanon full s3 := state_modDie_canon hs2 fun _ h => die_countSlot_canon h
  clear_value s3
  exact ite_canon (takeFault_canon hs3) hs3
theorem entryComplete_canon {s : State} {d : DieId} {a : Agent} (hs : StateCanon full s) : StateCanon full (entryComplete s d a) := by
  unfold entryComplete
  extract_lets c s2 s3
  have hs2 : StateCanon full s2 := by
    unfold s2
    refine state_setRun?_canon hs
  clear_value s2
  have hs3 : StateCanon full s3 := by
    unfold s3
    split
    · exact state_modSlot_canon hs2 fun _ h => h
    · exact hs2
  clear_value s3
  split
  · exact hs
  · exact ite_canon hs (completeEntry_canon hs3)
theorem execEntryComplete_canon {d : DieId} {a : Agent} {s : State} (hs : StateCanon full s) : OutCanon full (execEntryComplete d a s) := by
  unfold execEntryComplete
  exact entryComplete_canon hs
theorem state_seen_canon {s : State} {v : RowVal} (hs : StateCanon full s) : StateCanon full (s.seen v).1 := by
  unfold State.seen
  extract_lets n
  split
  · exact hs
  · exact hs
theorem got_bind_canon {α β : Type} {g : Got α} {f : State → α → Got β} (hg : GotCanon full g) (hf : ∀ (a : State), StateCanon full a → ∀ (a_1 : α), GotCanon full (f a a_1)) : GotCanon full (g.bind f) := by
  unfold Got.bind
  split
  · exact hf _ hg _
  · exact trivial
  · exact hg
theorem tileRow_canon {s : State} {d : DieId} {k : SlotId} {code : BitVec 5} {b : Bool} {row : ℕ} (hs : StateCanon full s) : GotCanon full (tileRow s d k code b row) := by
  unfold tileRow
  extract_lets t p
  have hp : StateCanon full p.1 := state_seen_canon hs
  clear_value p
  exact ite_canon (ite_canon hs trivial) hp
theorem portRow_canon {s : State} {d : DieId} {k : SlotId} {e : SlotEng} {code : BitVec 5} {b : Bool} (hs : StateCanon full s) : GotCanon full (portRow s d k e code b) := by
  unfold portRow
  split
  · exact ite_canon hs trivial
  · extract_lets s' p
    have hs' : StateCanon full s' := state_modSlot_canon hs fun _ h => h
    clear_value s'
    have hp : StateCanon full p.1 := state_seen_canon hs'
    clear_value p
    refine ite_canon trivial ?_
    split
    · exact hs'
    · exact hp
theorem srcRow_canon {s : State} {d : DieId} {k : SlotId} {e : SlotEng} {code : BitVec 5} {b : Bool} {row : ℕ} (hs : StateCanon full s) : GotCanon full (srcRow s d k e code b row) := by
  unfold srcRow
  exact ite_canon (tileRow_canon hs) (portRow_canon hs)
theorem accessParts_canon {dn : DieId} {w : Who} {n : Need} {ps : List Machine.Part} {d : Die} (hd : DieCanon full d) : XCanon full (accessParts dn w n ps d) := by
  unfold accessParts
  exact accessLines_canon hd
theorem portPieces_canon {dn : DieId} {d : Die} {w : Who} {c : PortCfg} {ix : Vector ℕ 4} {wr sc : Bool} (hd : DieCanon full d) : XCanon full (portPieces dn d w c ix wr sc) := by
  unfold portPieces
  extract_lets a
  exact accessParts_canon hd
theorem portBegin_canon {s : State} {d : DieId} {k : SlotId} {w : Fin 8} {e : SlotEng} {c : PortCfg} {ix : Vector ℕ 4} (hs : StateCanon full s) : StateCanon full (portBegin s d k w e c ix) := by
  unfold portBegin
  extract_lets mod id
  have hmod : ∀ (s : State), StateCanon full s → ∀ (f : Port → Port), StateCanon full (mod s f) := fun _ h _ => state_modSlot_canon h fun _ h2 => h2
  clear_value mod
  split
  next e2 =>
    have k2 := XCanon.wait e2 (portPieces_canon (hs.die _))
    exact state_modDie_canon hs fun _ _ => k2
  next e2 =>
    have k2 := XCanon.fault e2 (portPieces_canon (hs.die _))
    exact hmod _ (state_modDie_canon hs (fun _ _ => k2)) _
  next e2 =>
    have k2 := XCanon.ok e2 (portPieces_canon (hs.die _))
    extract_lets ps
    exact hmod _ (state_modDie_canon hs (fun _ _ => k2)) _
theorem portLine_canon {s : State} {d : DieId} {k : SlotId} {w : Fin 8} {e : SlotEng} {c : PortCfg} {ps : List (ℕ × Piece)} {f : Fetched} (hs : StateCanon full s) : StateCanon full (portLine s d k w e c ps f) := by
  unfold portLine
  extract_lets mod
  have hmod : ∀ (s : State), StateCanon full s → ∀ (g : Port → Port), StateCanon full (mod s g) := fun _ h _ => state_modSlot_canon h fun _ h2 => h2
  clear_value mod
  split
  · exact hmod _ hs _
  · split
    · exact hs
    · extract_lets all row
      exact hmod _ hs _
theorem portRowFetch_canon {s : State} {d : DieId} {k : SlotId} {w : Fin 8} {e : SlotEng} (hs : StateCanon full s) : StateCanon full (portRowFetch s d k w e) := by
  unfold portRowFetch
  extract_lets t p
  have ht : SlotCanon full t := hs.slot _ _
  clear_value t
  split
  · exact hs
  · refine ite_canon hs (ite_canon (state_modSlot_canon hs (fun _ h => h)) ?_)
    split
    · exact portLine_canon hs
    · exact ite_canon hs (portBegin_canon hs)
theorem execPortRowFetch_canon {d : DieId} {k : SlotId} {w : Fin 8} {e : SlotEng} {s : State} (hs : StateCanon full s) : OutCanon full (execPortRowFetch d k w e s) := by
  unfold execPortRowFetch
  exact portRowFetch_canon hs
theorem portPush_canon {s : State} {c : Cur} {r : Run} {code : BitVec 5} {v : RowVal} {sc : Bool} {unit : ℕ} (hs : StateCanon full s) : GotCanon full (portPush s c r code v sc unit) := by
  unfold portPush
  split
  · exact hs
  · extract_lets ix
    split
    · exact trivial
    next e =>
      have k := XCanon.fault e (portPieces_canon (hs.die _))
      exact state_modDie_canon hs fun _ _ => k
    next e =>
      have k := XCanon.ok e (portPieces_canon (hs.die _))
      extract_lets s2 ws s3
      have hs2 : StateCanon full s2 := state_modDie_canon hs fun _ _ => k
      clear_value s2
      have hs3 : StateCanon full s3 := state_modAg_canon hs2
      clear_value s3
      exact state_modSlot_canon hs3 fun _ h => h
theorem dstPut_canon {s : State} {c : Cur} {r : Run} {code : BitVec 5} {row : ℕ} {v : RowVal} {sc : Bool} {unit : ℕ} (hs : StateCanon full s) : GotCanon full (dstPut s c r code row v sc unit) := by
  unfold dstPut
  exact ite_canon (state_modSlot_canon hs (fun _ h => slot_modTile_canon h (fun _ h2 => tile_put_canon h2))) (portPush_canon hs)
theorem dstTag_canon {s : State} {c : Cur} {r : Run} {code : BitVec 5} {t : Tag} (hs : StateCanon full s) : StateCanon full (dstTag s c r code t) := by
  unfold dstTag
  exact ite_canon (state_modSlot_canon hs (fun _ h => slot_modTile_canon h (fun _ h2 => h2))) hs
theorem rqPush_canon {s : State} {c : Cur} {k : SlotId} {q : Fin 4} {v : Word} {psn : Bool} (hs : StateCanon full s) : GotCanon full (rqPush s c k q v psn) := by
  unfold rqPush
  exact ite_canon trivial (state_modSlot_canon hs (fun _ h => h))
theorem state_unwind_canon {s s' : State} {c : Cur} {r : Run} (_hs : StateCanon full s) (hs' : StateCanon full s') : StateCanon full (s.unwind s' c r) := by
  unfold State.unwind
  exact state_modAg_canon (state_modSlot_canon hs' (fun _ h => h))
theorem unitDo_canon {s : State} {c : Cur} {r : Run} {unit : ℕ} {g : Got Run} (hs : StateCanon full s) (hg : GotCanon full g) : StateCanon full (unitDo s c r unit g) := by
  unfold unitDo
  split
  · exact state_setRun_canon hg
  · exact hs
  · exact runFault_canon (state_unwind_canon hs hg)
theorem startFault_canon {s : State} {c : Cur} {r : Run} {code : ℕ} {addr : Word} (hs : StateCanon full s) : StateCanon full (startFault s c r code addr) := by
  unfold startFault
  exact runFault_canon hs
theorem execNop_canon {s : State} (hs : StateCanon full s) : OutCanon full (execNop s) := by
  unfold execNop
  split
  · exact ctlDo_canon (fun _ h _ _ _ => h) hs
  · exact engDo_canon (fun _ h _ _ => state_advRun_canon h) hs
theorem die_setAccPsn_canon {d : Die} {b : SlotId} {r : ℕ} {v : Bool} (hd : DieCanon full d) : DieCanon full (d.setAccPsn b r v) := by
  unfold Die.setAccPsn
  extract_lets two d2
  have hd2 : DieCanon full d2 := die_modBank_canon hd fun _ h => h
  clear_value d2
  exact ite_canon hd2 (die_modBank_canon hd2 (fun _ h => h))
theorem die_arrayError_canon {d : Die} {dn : DieId} {k : SlotId} (hd : DieCanon full d) : DieCanon full (d.arrayError dn k) := by
  unfold Die.arrayError
  extract_lets b m e uem d2 d3
  have huem : ∀ (d : Die), DieCanon full d → DieCanon full (uem d) := fun _ h => die_setRf_canon h
  clear_value uem
  have hd2 : DieCanon full d2 := trcRecord_canon hd
  clear_value d2
  have hd3 : DieCanon full d3 := die_setRf_canon (die_setRf_canon hd2)
  clear_value d3
  refine ite_canon (huem _ hd3) ?_
  split
  · exact ite_canon (huem _ hd) (die_setRf_canon hd)
  · exact die_setRf_canon hd
theorem die_arrayMeet_canon {d : Die} {dn : DieId} {k : SlotId} {e : ArrErr} {read : ArrErr → Bool} (hd : DieCanon full d) : DieCanon full (d.arrayMeet dn k e read) := by
  unfold Die.arrayMeet
  refine ite_canon hd ?_
  split
  · exact hd
  · extract_lets r m on src
    have hsrc : DieCanon full src := die_setReg_canon hd
    clear_value src
    exact hsrc
  · exact die_arrayError_canon (die_modSlot_canon hd (fun _ h => slot_tiles_canon h (fun _ h2 => h2)))
  · exact die_arrayError_canon (die_setAccPsn_canon hd)
  · exact die_arrayError_canon (die_modBank_canon hd (fun _ h => h))
  · exact die_arrayError_canon (die_modBank_canon hd (fun _ h => h))
  · exact die_arrayError_canon (die_modLay_canon hd)
theorem withError_canon {s : State} {c : Cur} {k : SlotId} {e : ArrErr} {read : ArrErr → Bool} {f : State → State} (hs : StateCanon full s) (hf : ∀ (a : State), StateCanon full a → StateCanon full (f a)) : StateCanon full (withError s c k e read f) := by
  unfold withError
  extract_lets u
  have hu : StateCanon full u := hf _ (state_modDie_canon hs (fun _ h => die_arrayMeet_canon h))
  clear_value u
  exact ite_canon hu (hf _ hs)
theorem execReadStep_canon {d : DieId} {a : Agent} {e : StoreErr} {s : State} (hs : StateCanon full s) : OutCanon full (execReadStep d a e s) := by
  unfold execReadStep
  exact readStep_canon hs
theorem execDrainStep_canon {d : DieId} {a : Agent} {e : StoreErr} {s : State} (hs : StateCanon full s) : OutCanon full (execDrainStep d a e s) := by
  unfold execDrainStep
  exact drainStep_canon hs
theorem execBeat_canon {d h : DieId} {s : State} (hs : StateCanon full s) : OutCanon full (execBeat d h s) := by
  unfold execBeat
  exact state_send_canon hs
theorem state_trackerRefuse_canon {s : State} {h src : DieId} {m : Msg} (hs : StateCanon full s) : StateCanon full (s.trackerRefuse h src m) := by
  unfold State.trackerRefuse
  extract_lets g l s2
  have hs2 : StateCanon full s2 := state_modDie_canon hs fun _ h2 => h2
  clear_value s2
  split
  · exact state_send_canon hs2
  · extract_lets t' l' s3
    have hs3 : StateCanon full s3 := state_modDie_canon hs fun _ h2 => h2
    clear_value s3
    exact state_send_canon hs3
theorem execTicketCall_canon {h : DieId} {s : State} (hs : StateCanon full s) : OutCanon full (execTicketCall h s) := by
  unfold execTicketCall
  extract_lets y waiting
  have hy : DieCanon full y := hs.die _
  clear_value y
  split
  · exact hs
  · refine ite_canon hs ?_
    split
    · exact hs
    · exact state_send_canon (state_modDie_canon hs (fun _ h2 => h2))
theorem state_homeRefuse_canon {s : State} {h src : DieId} {a : Agent} {key cause idx : ℕ} (hs : StateCanon full s) : StateCanon full (s.homeRefuse h src a key cause idx) := by
  unfold State.homeRefuse
  extract_lets s2
  have hs2 : StateCanon full s2 := state_modDie_canon hs fun _ h2 => h2
  clear_value s2
  exact state_send_canon hs2
theorem state_homeWrite_canon {s : State} {h src : DieId} {a : Agent} {key : ℕ} {fab : Option FabSrc} {ws : List (ℕ × List Byte)} {psn : Bool} {e : StoreErr} (hs : StateCanon full s) : StateCanon full (s.homeWrite h src a key fab ws psn e).1 := by
  unfold State.homeWrite
  extract_lets y late now s2
  have hy : DieCanon full y := hs.die _
  clear_value y
  have hs2 : StateCanon full s2 := state_modDie_canon hs fun _ h2 => foldl_canon (p := DieCanon full) (fun _ _ h3 => die_apply_canon h3) h2
  clear_value s2
  split
  · exact hs2
  · exact state_modDie_canon hs2 fun _ h2 => die_hold_canon h2
theorem state_peerWrite_canon {s : State} {h src : DieId} {a : Agent} {key : ℕ} {ws : List (ℕ × List Byte)} {psn : Bool} {e : StoreErr} (hs : StateCanon full s) : StateCanon full (s.peerWrite h src a key ws psn e) := by
  unfold State.peerWrite
  extract_lets p
  have hp : StateCanon full p.1 := state_homeWrite_canon hs
  clear_value p
  exact ite_canon (state_send_canon hp) hp
theorem state_peerAmo_canon {s : State} {h src : DieId} {a : Agent} {key pa : ℕ} {op : AmoOp} {w64 : Bool} {b x : Word} {e : StoreErr} (hs : StateCanon full s) : StateCanon full (s.peerAmo h src a key pa op w64 b x e) := by
  unfold State.peerAmo
  extract_lets s2 n g p s3
  have hs2 : StateCanon full s2 := state_modDie_canon hs fun _ h2 => die_meet_canon h2
  clear_value s2
  have hp : DieCanon full p.2 := die_amo_canon (hs2.die _)
  clear_value p
  have hs3 : StateCanon full s3 := state_modDie_canon hs2 fun _ _ => hp
  clear_value s3
  exact ite_canon (state_send_canon hs2) (state_send_canon hs3)
theorem state_homeBus_canon {s : State} {h src : DieId} {a : Agent} {key : ℕ} (hs : StateCanon full s) : StateCanon full (s.homeBus h src a key) := by
  unfold State.homeBus
  exact state_send_canon hs
theorem state_closedRefuse_canon {s : State} {h src : DieId} {a : Agent} {key was : ℕ} {c : Option (ℕ × ℕ)} {idx : ℕ} (hs : StateCanon full s) : StateCanon full (s.closedRefuse h src a key was c idx) := by
  unfold State.closedRefuse
  exact state_homeRefuse_canon hs
theorem state_perform_canon {s : State} {h src : DieId} {m : Msg} {e : StoreErr} (hs : StateCanon full s) : StateCanon full (s.perform h src m e) := by
  unfold State.perform
  extract_lets y
  have hy : DieCanon full y := hs.die _
  clear_value y
  split
  · split
    · exact state_closedRefuse_canon hs
    · split
      · exact state_homeRefuse_canon hs
      · exact ite_canon (state_peerWrite_canon hs) (state_homeBus_canon hs)
  · split
    · exact state_closedRefuse_canon hs
    · split
      · exact state_homeRefuse_canon hs
      · extract_lets n
        exact ite_canon (state_homeBus_canon hs) (ite_canon (state_modDie_canon hs (fun _ h2 => die_hold_canon h2)) (state_peerAmo_canon hs))
  · split
    · exact state_closedRefuse_canon hs
    · exact ite_canon (state_modDie_canon hs (fun _ h2 => die_hold_canon h2)) (state_send_canon (state_incSem_canon hs))
  · split
    · exact state_closedRefuse_canon hs
    · exact ite_canon (state_modDie_canon hs (fun _ h2 => die_hold_canon h2)) (state_send_canon (state_modDie_canon hs (fun _ h2 => die_arrive_canon h2)))
  · split
    · exact state_closedRefuse_canon hs
    · split
      · exact state_homeRefuse_canon hs
      · extract_lets s2 y2
        have hs2 : StateCanon full s2 := state_modDie_canon hs fun _ h2 => die_meet_canon h2
        clear_value s2
        have hy2 : DieCanon full y2 := hs2.die _
        clear_value y2
        exact ite_canon (state_homeBus_canon hs) (state_send_canon hs2)
  · exact hs
theorem gateRequest_canon {s : State} {h src : DieId} {rd : Bool} {e : StoreErr} (hs : StateCanon full s) : StateCanon full (gateRequest s h src rd e) := by
  unfold gateRequest
  split
  · exact hs
  · split
    · exact hs
    · extract_lets s2 s3 y s4
      have hs2 : StateCanon full s2 := ite_canon hs (state_modDie_canon hs (fun _ h2 => h2))
      clear_value s2
      have hs3 : StateCanon full s3 := state_modDie_canon hs2 fun _ h2 => h2
      clear_value s3
      have hy : DieCanon full y := hs3.die _
      clear_value y
      have hs4 : StateCanon full s4 := state_modDie_canon hs3 fun _ h2 => h2
      clear_value s4
      exact ite_canon hs (ite_canon (state_modDie_canon (state_trackerRefuse_canon hs) (fun _ h2 => h2)) (ite_canon (ite_canon (state_modDie_canon (state_perform_canon hs3) (fun _ h2 => h2)) hs3) (ite_canon (state_perform_canon hs4) hs3)))
theorem execGateWriteApply_canon {h d : DieId} {e : StoreErr} {s : State} (hs : StateCanon full s) : OutCanon full (execGateWriteApply h d e s) := by
  unfold execGateWriteApply
  exact gateRequest_canon hs
theorem execGateReadPerform_canon {h d : DieId} {e : StoreErr} {s : State} (hs : StateCanon full s) : OutCanon full (execGateReadPerform h d e s) := by
  unfold execGateReadPerform
  exact gateRequest_canon hs
theorem execGateBeat_canon {h d : DieId} {s : State} (hs : StateCanon full s) : OutCanon full (execGateBeat h d s) := by
  unfold execGateBeat
  split
  · exact state_modDie_canon hs fun _ h2 => h2
  · exact state_modDie_canon hs fun _ h2 => h2
  · exact hs
theorem execReply_canon {d h : DieId} {s : State} (hs : StateCanon full s) : OutCanon full (execReply d h s) := by
  unfold execReply
  split
  · extract_lets s2
    have hs2 : StateCanon full s2 := by
      unfold s2
      refine state_modDie_canon hs fun y h2 => ?_
      extract_lets t
      exact h2
    clear_value s2
    split
    · exact hs2
    · extract_lets s3
      have hs3 : StateCanon full s3 := state_modAg_canon hs2
      clear_value s3
      split
      · exact hs3
      · split
        · exact poisonLater_canon hs3
        · exact raiseRefusal_canon (finishRead_canon hs3)
  · extract_lets s2
    have hs2 : StateCanon full s2 := state_modDie_canon hs fun _ h2 => h2
    clear_value s2
    split
    · exact hs2
    · extract_lets s3
      have hs3 : StateCanon full s3 := state_modAg_canon hs2
      clear_value s3
      exact ite_canon (state_send_canon (state_modDie_canon hs3 (fun _ h2 => die_rast_canon h2))) (state_refused_canon hs3)
  · extract_lets s2
    have hs2 : StateCanon full s2 := state_modDie_canon hs fun _ h2 => h2
    clear_value s2
    split
    · exact hs2
    · extract_lets s3
      have hs3 : StateCanon full s3 := state_modAg_canon hs2
      clear_value s3
      exact ite_canon hs3 (state_notDone_canon hs3)
  · exact hs
theorem execWriteAcknowledgement_canon {d h : DieId} {fab : Option FabAns} {s : State} (hs : StateCanon full s) : OutCanon full (execWriteAcknowledgement d h fab s) := by
  unfold execWriteAcknowledgement
  split
  · split
    · extract_lets s2
      have hs2 : StateCanon full s2 := state_modDie_canon hs fun _ h2 => h2
      clear_value s2
      exact raiseRefusal_canon (state_modAg_canon hs2)
    · exact hs
  · split
    · exact hs
    · extract_lets s2
      have hs2 : StateCanon full s2 := state_modAg_canon hs
      clear_value s2
      exact ite_canon (raiseRefusal_canon hs2) (ite_canon (ite_canon hs2 (state_modDie_canon hs2 (fun _ h2 => die_toFabric_canon (die_rast_canon h2)))) (ite_canon (state_notDone_canon hs2) (state_refused_canon hs2)))
theorem execRequestResend_canon {d h : DieId} {s : State} (hs : StateCanon full s) : OutCanon full (execRequestResend d h s) := by
  unfold execRequestResend
  split
  · extract_lets s2
    have hs2 : StateCanon full s2 := by
      unfold s2
      refine state_modDie_canon hs fun y h2 => ?_
      extract_lets id y2
      have hy2 : DieCanon full y2 := die_countDie_canon h2
      clear_value y2
      exact ite_canon (die_countDie_canon hy2) hy2
    clear_value s2
    exact state_modDie_canon hs2 fun _ h2 => h2
  · extract_lets s2
    have hs2 : StateCanon full s2 := state_modDie_canon hs fun _ h2 => h2
    clear_value s2
    split
    · exact hs2
    · exact state_send_canon (state_modDie_canon hs2 (fun _ h2 => h2))
  · split
    · exact state_send_canon (state_modDie_canon hs (fun _ h2 => h2))
    · exact hs
theorem slot_dropRec_canon {t : Slot} {home : DieId} {pa : ℕ} (ht : SlotCanon full t) : SlotCanon full (t.dropRec home pa) := by
  unfold Slot.dropRec
  exact ht
theorem slot_dropHome_canon {t : Slot} {h : DieId} (ht : SlotCanon full t) : SlotCanon full (t.dropHome h) := by
  unfold Slot.dropHome
  exact ht
theorem die_dropRec_canon {d : Die} {home : DieId} {pa : ℕ} (hd : DieCanon full d) : DieCanon full (d.dropRec home pa) := by
  unfold Die.dropRec
  exact die_canon hd.mem hd.proofs hd.sched (slots_map_canon hd.slot (fun _ h => slot_dropRec_canon h))
theorem execPublishInvalidation_canon {h d : DieId} {s : State} (hs : StateCanon full s) : OutCanon full (execPublishInvalidation h d s) := by
  unfold execPublishInvalidation
  split
  · extract_lets refd s2 y
    have hs2 : StateCanon full s2 := ite_canon hs (state_modDie_canon hs (fun _ h2 => h2))
    clear_value s2
    have hy : DieCanon full y := hs2.die _
    clear_value y
    refine ite_canon (state_modDie_canon hs2 (fun _ h2 => ?_)) hs2
    extract_lets y3 t
    have hy3 : DieCanon full y3 := die_dropRec_canon h2
    clear_value y3
    exact hy3
  · exact hs
theorem state_fabAck_canon {s : State} {d : DieId} {src : FabSrc} {cause idx : ℕ} (hs : StateCanon full s) : StateCanon full (s.fabAck d src cause idx) := by
  unfold State.fabAck
  exact state_modDie_canon hs fun _ h => die_toFabric_canon h
theorem execHeldWriteApply_performHeld_canon {s : State} {d : DieId} {op : SbOp} (hs : StateCanon full s) : StateCanon full (execHeldWriteApply.performHeld s d op) := by
  unfold execHeldWriteApply.performHeld
  split
  · exact state_modDie_canon hs fun _ h => foldl_canon (p := DieCanon full) (fun _ _ h2 => die_apply_canon h2) h
  · exact state_modDie_canon hs fun _ h => foldl_canon (p := DieCanon full) (fun _ _ h2 => die_freeLines_canon h2) h
  · exact applyLocal_canon hs
theorem execHeldWriteApply_canon {d : DieId} {i : ℕ} {s : State} (hs : StateCanon full s) : OutCanon full (execHeldWriteApply d i s) := by
  unfold execHeldWriteApply
  split
  · exact hs
  · extract_lets s2 s3
    have hs2 : StateCanon full s2 := state_modDie_canon hs fun _ h => h
    clear_value s2
    have hs3 : StateCanon full s3 := execHeldWriteApply_performHeld_canon hs2
    clear_value s3
    refine ite_canon hs ?_
    split
    · exact ite_canon (state_fabAck_canon hs3) hs3
    · split
      · exact ite_canon (localAmo_canon hs2) (state_peerAmo_canon hs2)
      · extract_lets s4
        have hs4 : StateCanon full s4 := execHeldWriteApply_performHeld_canon hs2
        clear_value s4
        exact ite_canon hs4 (state_send_canon hs4)
theorem execPinHoldTimeout_canon {d : DieId} {i : ℕ} {s : State} (hs : StateCanon full s) : OutCanon full (execPinHoldTimeout d i s) := by
  unfold execPinHoldTimeout
  split
  · exact hs
  · extract_lets y lim lines
    have hy : DieCanon full y := hs.die _
    clear_value y
    refine ite_canon hs ?_
    split
    · exact hs
    · extract_lets off
      exact ite_canon hs (state_modDie_canon hs (fun _ h => die_setReg_canon h))
theorem fabInc_canon {s : State} {d : DieId} {src : FabSrc} {op : SbOp} (hs : StateCanon full s) : StateCanon full (fabInc s d src op) := by
  unfold fabInc
  split
  · exact state_fabAck_canon hs
  · exact ite_canon (state_modDie_canon hs (fun _ h => die_hold_canon h)) (state_fabAck_canon (applyLocal_canon hs))
theorem state_fabWrite_canon {s : State} {d : DieId} {src : FabSrc} {pa : ℕ} {data : List Byte} {key : ℕ} (hs : StateCanon full s) : StateCanon full (s.fabWrite d src pa data key).1 := by
  unfold State.fabWrite
  extract_lets ws
  split
  · exact state_modDie_canon hs fun _ h => die_hold_canon h
  · exact state_modDie_canon hs fun _ h => foldl_canon (p := DieCanon full) (fun _ _ h2 => die_apply_canon h2) h
theorem execFabricWriteApply_canon {d : DieId} {m : FabMsg} {s : State} (hs : StateCanon full s) : OutCanon full (execFabricWriteApply d m s) := by
  unfold execFabricWriteApply
  split
  · exact fabInc_canon hs
  · exact fabInc_canon hs
  · exact state_modDie_canon hs fun _ h => h
  · extract_lets chk
    split
    · exact state_fabAck_canon hs
    · clear_value chk
      split
      · exact state_fabAck_canon (state_modDie_canon hs (fun _ h => h))
      · extract_lets p
        have hp : StateCanon full p.1 := state_fabWrite_canon hs
        clear_value p
        exact ite_canon (state_fabAck_canon hs) (ite_canon (state_fabAck_canon hp) hp)
theorem die_killImports_canon {d : Die} {dn h : DieId} (hd : DieCanon full d) : DieCanon full (d.killImports dn h) := by
  unfold Die.killImports
  refine ite_canon hd (foldl_canon (p := DieCanon full) (fun _ _ h2 => ?_) hd)
  extract_lets a x
  exact ite_canon (die_poke_canon h2) h2
theorem die_tlbEnd_canon {d : Die} {dn : DieId} (hd : DieCanon full d) : DieCanon full (d.tlbEnd dn) := by
  unfold Die.tlbEnd
  extract_lets d2 src
  have hd2 : DieCanon full d2 := die_setReg_canon hd
  clear_value d2
  have hsrc : DieCanon full src := die_setRf_canon hd2
  clear_value src
  exact hsrc
theorem die_tlbLose_canon {d : Die} {dn h : DieId} (hd : DieCanon full d) : DieCanon full (d.tlbLose dn h) := by
  unfold Die.tlbLose
  extract_lets on d2
  have hd2 : DieCanon full d2 := hd
  clear_value d2
  exact ite_canon (ite_canon (die_tlbEnd_canon hd2) hd2) hd
theorem state_put_canon {s : State} {l : DieId} {east : Bool} {h : Hop} (hs : StateCanon full s) : StateCanon full (s.put l east h) := by
  unfold State.put
  exact ite_canon hs hs
theorem die_resetHeard_canon {d : Die} {dn h : DieId} (hd : DieCanon full d) : DieCanon full (d.resetHeard dn h) := by
  unfold Die.resetHeard
  extract_lets src d2
  have hsrc : DieCanon full src := die_setRf_canon hd
  clear_value src
  have hd2 : DieCanon full d2 := hsrc
  clear_value d2
  exact ite_canon (die_setRf_canon hd2) hd2
theorem state_untrain_canon {s : State} {ls : List DieId} (hs : StateCanon full s) : StateCanon full (s.untrain ls) := by
  unfold State.untrain
  exact hs
theorem execLinkLostNotice_canon {h : DieId} {s : State} (hs : StateCanon full s) : OutCanon full (execLinkLostNotice h s) := by
  unfold execLinkLostNotice
  extract_lets e w s2 carried s3
  have hs2 : StateCanon full s2 := state_put_canon (state_put_canon hs)
  clear_value s2
  have hs3 : StateCanon full s3 := foldl_canon (p := StateCanon full) (fun _ _ h2 => state_modDie_canon h2 (fun _ h3 => die_setRf_canon h3)) hs2
  clear_value s3
  exact state_modDie_canon (state_untrain_canon hs3) fun _ h2 => h2
theorem execPackageLinkTrained_canon {l : DieId} {s : State} (hs : StateCanon full s) : OutCanon full (execPackageLinkTrained l s) := by
  unfold execPackageLinkTrained
  extract_lets lost keep
  exact hs
theorem execPeerstRejoin_canon {d : DieId} {mask : BitVec 4} {s : State} (hs : StateCanon full s) : OutCanon full (execPeerstRejoin d mask s) := by
  unfold execPeerstRejoin
  extract_lets put ask
  have hput : ∀ (s : State), StateCanon full s → ∀ (a b : DieId), StateCanon full (put s a b) := by
    unfold put
    intro s2 h a b
    extract_lets m
    exact ite_canon h h
  clear_value put
  have hask : ∀ (s : State), StateCanon full s → ∀ (h : DieId), StateCanon full (ask s h) := by
    unfold ask
    intro s2 h h2
    extract_lets s3
    have hs3 : StateCanon full s3 := state_modDie_canon h fun _ h3 => h3
    clear_value s3
    exact ite_canon h (ite_canon (hput _ (hput _ hs3 _ _) _ _) hs3)
  clear_value ask
  exact foldl_canon (p := StateCanon full) (fun _ _ h => hask _ h _) hs
theorem issueReads_canon {s : State} {c : Cur} {r : Run} {key unit : ℕ} {psn : Bool} {ps : List (Machine.Part × Piece)} (hs : StateCanon full s) : StateCanon full (issueReads s c r key unit psn ps) := by
  unfold issueReads
  extract_lets rds want
  exact state_modAg_canon hs
theorem loadStep_canon {s : State} {c : Cur} {r : Run} {na : BitVec 2} {n : ℕ} {nd : Need} {psn : Bool} {begin_ : Got (Run × Bool)} {parts : ℕ → Except (ℕ × Word) (List Machine.Part)} (hs : StateCanon full s) (hbegin_ : GotCanon full begin_) : StateCanon full (loadStep s c r na n nd psn begin_ parts) := by
  unfold loadStep
  refine ite_canon ?_ (ite_canon ?_ (ite_canon (state_advRun_canon hs) hs))
  · split
    · extract_lets src
      exact state_setRun_canon hbegin_
    · exact hs
    · exact startFault_canon hbegin_
  · split
    · exact runFault_canon hs
    · split
      next e =>
        have k := XCanon.wait e (accessParts_canon (hs.die _))
        exact state_modDie_canon hs fun _ _ => k
      next e =>
        have k := XCanon.fault e (accessParts_canon (hs.die _))
        exact runFault_canon (state_modDie_canon hs (fun _ _ => k))
      next e =>
        have k := XCanon.ok e (accessParts_canon (hs.die _))
        exact state_setRun_canon (issueReads_canon (state_modDie_canon hs (fun _ _ => k)))
theorem storeStep_canon {s : State} {c : Cur} {r : Run} {na : BitVec 2} {n : ℕ} {begin_ : Got (Run × Bool)} {src : State → ℕ → Got RowVal} {parts : ℕ → Except (ℕ × Word) (List Machine.Part)} (hs : StateCanon full s) (hbegin_ : GotCanon full begin_) (hsrc : ∀ (a : State), StateCanon full a → ∀ (a_1 : ℕ), GotCanon full (src a a_1)) : StateCanon full (storeStep s c r na n begin_ src parts) := by
  unfold storeStep
  refine ite_canon ?_ (ite_canon ?_ (state_advRun_canon hs))
  · split
    · extract_lets src2
      exact state_setRun_canon hbegin_
    · exact hs
    · exact startFault_canon hbegin_
  · split
    · exact runFault_canon hs
    · refine unitDo_canon hs (got_bind_canon (hsrc _ hs _) (fun _ h _ => ?_))
      split
      · exact trivial
      next e =>
        have k := XCanon.fault e (accessParts_canon (h.die _))
        exact state_modDie_canon h fun _ _ => k
      next e =>
        have k := XCanon.ok e (accessParts_canon (h.die _))
        extract_lets data ws s2
        have hs2 : StateCanon full s2 := state_modAg_canon (state_modDie_canon h (fun _ _ => k))
        clear_value s2
        exact hs2
theorem recordCopy_canon {s : State} {c : Cur} {r : Run} {va : Word} (hs : StateCanon full s) : GotCanon full (recordCopy s c r va) := by
  unfold recordCopy
  refine ite_canon hs (ite_canon hs ?_)
  split
  · exact trivial
  next e =>
    have k := XCanon.fault e (access_canon (hs.die _))
    exact state_modDie_canon hs fun _ _ => k
  next e =>
    have k := XCanon.ok e (access_canon (hs.die _))
    extract_lets s2 of
    have hs2 : StateCanon full s2 := state_modDie_canon hs fun _ _ => k
    clear_value s2
    split
    · exact hs2
    · exact ite_canon (state_modSlot_canon hs2 (fun _ h => slot_keepRec_canon h)) trivial
    · exact ite_canon trivial (state_modAg_canon hs2)
theorem loadStart_canon {s : State} {c : Cur} {r : Run} {o : EOp} {tag : Option Tag} (hs : StateCanon full s) : StateCanon full (loadStart s c r o tag) := by
  unfold loadStart
  exact state_modSlot_canon hs fun _ h => slot_modTile_canon h (fun _ h2 => tile_start_canon h2)
theorem beginLoad_canon {s : State} {c : Cur} {r : Run} {o : EOp} {bad : Option Word} {tag : Option Tag} (hs : StateCanon full s) : GotCanon full (beginLoad s c r o bad tag) := by
  unfold beginLoad
  split
  · exact hs
  · exact ite_canon (loadStart_canon hs) hs
theorem execLdr_canon {o : EOp} {s : State} (hs : StateCanon full s) : OutCanon full (execLdr o s) := by
  unfold execLdr
  exact engDo_canon (fun _ h _ _ => loadStep_canon h (beginLoad_canon h)) hs
theorem execLdt_canon {o : EOp} {s : State} (hs : StateCanon full s) : OutCanon full (execLdt o s) := by
  unfold execLdt
  exact engDo_canon (fun _ h _ _ => loadStep_canon h (beginLoad_canon h)) hs
theorem beginLdrec_canon {s : State} {c : Cur} {r : Run} {o : EOp} (hs : StateCanon full s) : GotCanon full (beginLdrec s c r o) := by
  unfold beginLdrec
  extract_lets va
  refine got_bind_canon (recordCopy_canon hs) fun _ h _ => ite_canon h ?_
  split
  · extract_lets src
    exact state_setRun_canon h
  · extract_lets src
    refine ite_canon (state_setRun_canon h) (ite_canon (state_setRun_canon h) ?_)
    split
    · exact state_setRun_canon h
    · exact loadStart_canon h
theorem execLdrec_canon {o : EOp} {s : State} (hs : StateCanon full s) : OutCanon full (execLdrec o s) := by
  unfold execLdrec
  exact engDo_canon (fun _ h _ _ => loadStep_canon h (beginLdrec_canon h)) hs
theorem indexRow_canon {s : State} {c : Cur} {r : Run} {o : EOp} (hs : StateCanon full s) : GotCanon full (indexRow s c r o) := by
  unfold indexRow
  exact ite_canon hs (tileRow_canon hs)
theorem beginLdx_canon {s : State} {c : Cur} {r : Run} {o : EOp} (hs : StateCanon full s) : GotCanon full (beginLdx s c r o) := by
  unfold beginLdx
  refine got_bind_canon (indexRow_canon hs) fun _ h _ => ?_
  extract_lets r2
  split
  · exact h
  · exact loadStart_canon h
theorem ldxStep_canon {s : State} {c : Cur} {r : Run} {o : EOp} (hs : StateCanon full s) : StateCanon full (ldxStep s c r o) := by
  unfold ldxStep
  exact loadStep_canon hs (beginLdx_canon hs)
theorem execLdx_canon {o : EOp} {s : State} (hs : StateCanon full s) : OutCanon full (execLdx o s) := by
  unfold execLdx
  exact engDo_canon (fun _ h _ _ => ldxStep_canon h) hs
theorem execLdsc_canon {o : EOp} {s : State} (hs : StateCanon full s) : OutCanon full (execLdsc o s) := by
  unfold execLdsc
  exact engDo_canon (fun _ h _ _ => loadStep_canon h (beginLoad_canon h)) hs
theorem beginPcfg_canon {s : State} {c : Cur} {r : Run} {o : EOp} (hs : StateCanon full s) : GotCanon full (beginPcfg s c r o) := by
  unfold beginPcfg
  extract_lets p va
  exact ite_canon hs (ite_canon trivial (state_modSlot_canon hs (fun _ h => h)))
theorem pcfgStep_canon {s : State} {c : Cur} {r : Run} {o : EOp} (hs : StateCanon full s) : StateCanon full (pcfgStep s c r o) := by
  unfold pcfgStep
  extract_lets va put src
  have hput : ∀ (s : State), StateCanon full s → ∀ (p : Port), StateCanon full (put s p) := fun _ h _ => state_modSlot_canon h fun _ h2 => h2
  clear_value put
  refine ite_canon (loadStep_canon hs (beginPcfg_canon hs)) (ite_canon (state_advRun_canon (hput _ hs _)) (ite_canon (loadStep_canon hs trivial) ?_))
  split
  · extract_lets s2
    have hs2 : StateCanon full s2 := state_modAg_canon hs
    clear_value s2
    refine ite_canon hs (ite_canon (runFault_canon (hput _ (state_setRun_canon hs2) _)) ?_)
    split
    · exact runFault_canon (hput _ (state_setRun_canon hs2) _)
    · exact state_advRun_canon (hput _ hs2 _)
  · exact state_setRun_canon hs
theorem execPcfg_canon {o : EOp} {s : State} (hs : StateCanon full s) : OutCanon full (execPcfg o s) := by
  unfold execPcfg
  exact engDo_canon (fun _ h _ _ => pcfgStep_canon h) hs
theorem execPfx_canon {o : EOp} {s : State} (hs : StateCanon full s) : OutCanon full (execPfx o s) := by
  unfold execPfx
  refine engDo_canon (fun _ h _ _ => ite_canon ?_ (state_advRun_canon h)) hs
  split
  next e =>
    have k := XCanon.ok e (touchLines_canon (h.die _))
    exact state_setRun_canon (state_modDie_canon h (fun _ _ => k))
  next e =>
    have k := XCanon.wait e (touchLines_canon (h.die _))
    exact state_modDie_canon h fun _ _ => k
  next e =>
    have k := XCanon.fault e (touchLines_canon (h.die _))
    exact state_modDie_canon h fun _ _ => k
theorem beginLdv_canon {s : State} {c : Cur} {r : Run} {o : EOp} (hs : StateCanon full s) : GotCanon full (beginLdv s c r o) := by
  unfold beginLdv
  split
  · exact hs
  · exact hs
  · exact hs
theorem execLdv_canon {o : EOp} {s : State} (hs : StateCanon full s) : OutCanon full (execLdv o s) := by
  unfold execLdv
  exact engDo_canon (fun _ h _ _ => loadStep_canon h (beginLdv_canon h)) hs
theorem arriveRow_canon {s : State} {c : Cur} {r : Run} {i : Instr} {x : Asm} (hs : StateCanon full s) : StateCanon full (arriveRow s c r i x) := by
  unfold arriveRow
  extract_lets drop plain conv below
  have hdrop : ∀ (s : State), StateCanon full s → StateCanon full (drop s) := fun _ h => state_modAg_canon h
  clear_value drop
  have hplain : ∀ (o : EOp) (data side : List Byte) (sc : Bool), StateCanon full (plain o data side sc) := fun _ _ _ _ => state_modSlot_canon (hdrop _ hs) fun _ h => slot_modTile_canon h (fun _ h2 => tile_put_canon h2)
  clear_value plain
  have hconv : ∀ (o : EOp), StateCanon full (conv o) := by
    unfold conv
    intro o
    extract_lets m p q
    have hp : StateCanon full p.1 := state_seen_canon hs
    clear_value p
    exact ite_canon (hplain _ _ _ _) (state_modSlot_canon (state_setRun_canon (hdrop _ hp)) (fun _ h => slot_modTile_canon h (fun _ h2 => tile_put_canon h2)))
  clear_value conv
  split
  · refine ite_canon ?_ (hconv _)
    split
    next e =>
      have k := GotCanon.ok e (rqPush_canon hs)
      exact hdrop _ k
    · exact hs
  · exact hconv _
  · exact hplain _ _ _ _
  · exact hplain _ _ _ _
  · refine state_modSlot_canon (hdrop _ hs) fun a h => slot_modTile_canon h (fun _ h2 => ?_)
    extract_lets n
    exact tile_side_canon h2
  · exact ite_canon hs (unitDo_canon hs (got_bind_canon (portPush_canon hs) (fun _ h _ => hdrop _ h)))
  · exact hs
theorem execRowArrival_canon {d : DieId} {k : SlotId} {s : State} (hs : StateCanon full s) : OutCanon full (execRowArrival d k s) := by
  unfold execRowArrival
  extract_lets c asm
  split
  · exact hs
  · split
    · exact hs
    · extract_lets inOrder
      split
      · exact arriveRow_canon hs
      · exact hs

end Sys2Proof.Proofs
end

section
/-! SUPPORT. Lost dies, the row words of the arithmetic engine and its plans keep the canonical form (O60). -/

namespace Sys2Proof.Proofs

open Sys2Proof Sys2Proof.Machine Sys2Proof.Laws

variable {full : Prop}

/-! ## A lost die's queue, drained (R404) -/

theorem drainArr_canon {s : State} {e h : DieId} {n : ℕ} (hs : StateCanon full s) : StateCanon full (drainArr s e h n) := by
  induction n generalizing s with
  | zero => exact hs
  | succ n ih =>
    unfold drainArr
    split
    · exact hs
    · extract_lets len t
      have ht : StateCanon full t := by
        unfold t
        split
        iterate 4 exact gateRequest_canon hs
        · exact gateRequest_canon hs
        · exact state_modDie_canon hs fun _ hy => hy
        · split
          next e => exact (execPublishInvalidation_canon hs).next e
          · exact hs
        · exact state_modDie_canon hs fun _ hy => hy
      exact ite_canon (ih ht) ht
theorem execRejoinBeat_canon {e h : DieId} {s : State} (hs : StateCanon full s) : OutCanon full (execRejoinBeat e h s) := by
  unfold execRejoinBeat
  extract_lets le hit take
  have htake (t : State) (x : Hop) (ht : StateCanon full t) : StateCanon full (take t x) := state_modDie_canon ht fun _ hy => die_setReg_canon hy
  clear_value take
  split
  · exact htake { s with east := vmod s.east le (·.drop 1) } _ hs
  · split
    · exact htake { s with west := vmod s.west e (·.drop 1) } _ hs
    · exact hs
/-! ## Rows, timetables and tasks, read one by one -/

theorem tileRows_canon {s : State} {d : DieId} {k : SlotId} {code : BitVec 5} {b : Bool} {f n : ℕ} (hs : StateCanon full s) : GotCanon full (tileRows s d k code b f n) := by
  induction n generalizing s f with
  | zero => exact hs
  | succ n ih =>
    unfold tileRows
    exact got_bind_canon (tileRow_canon hs) fun _ h _ => got_bind_canon (ih h) fun _ h2 _ => h2
theorem loseDie_canon {s : State} {e h : DieId} (hs : StateCanon full s) : StateCanon full (loseDie s e h) := by
  unfold loseDie
  extract_lets s2 s3
  have hs2 : StateCanon full s2 := drainArr_canon hs
  clear_value s2
  have hs3 : StateCanon full s3 := by
    unfold s3
    refine foldl_canon (p := StateCanon full) (fun _ _ h2 => ?_) hs2
    extract_lets mine s5
    have hs5 : StateCanon full s5 := state_modAg_canon h2
    clear_value s5
    exact raiseRefusal_canon (foldl_canon (p := StateCanon full) (fun _ _ h3 => state_lostReq_canon h3) hs5)
  clear_value s3
  refine ite_canon hs (state_modDie_canon hs3 (fun _ h2 => ?_))
  extract_lets y2 y3 src y4 y5
  have hy2 : DieCanon full y2 := die_killImports_canon h2
  clear_value y2
  have hy3 : DieCanon full y3 := die_canon hy2.mem hy2.proofs hy2.sched (slots_map_canon hy2.slot (fun _ h3 => slot_dropHome_canon h3))
  clear_value y3
  have hy4 : DieCanon full y4 := hy3
  clear_value y4
  have hy5 : DieCanon full y5 := die_tlbLose_canon hy4
  clear_value y5
  exact die_setReg_canon hy5
theorem state_arrive_canon {s : State} {at_ src : DieId} {m : Msg} (hs : StateCanon full s) : StateCanon full (s.arrive at_ src m) := by
  unfold State.arrive
  refine ite_canon hs ?_
  split
  · exact state_modDie_canon (loseDie_canon hs) fun _ h => die_resetHeard_canon h
  · exact state_modDie_canon hs fun _ h => h
  · exact state_modDie_canon hs fun _ h => h
theorem execLinkForward_canon {l : DieId} {east : Bool} {s : State} (hs : StateCanon full s) : OutCanon full (execLinkForward l east s) := by
  unfold execLinkForward
  extract_lets q n on
  clear_value q n on
  split
  · exact hs
  · extract_lets s2 far s3
    have hs2 : StateCanon full s2 := ite_canon hs hs
    clear_value s2
    have hs3 : StateCanon full s3 := state_arrive_canon hs2
    clear_value s3
    exact ite_canon hs (ite_canon (ite_canon (state_put_canon hs3) hs3) (state_put_canon hs2))
theorem loseNow_canon {s : State} {e h : DieId} (hs : StateCanon full s) : StateCanon full (loseNow s e h) := by
  unfold loseNow
  exact ite_canon (state_put_canon hs) (loseDie_canon hs)
theorem execLinkRetrainFail_canon {l : DieId} {s : State} (hs : StateCanon full s) : OutCanon full (execLinkRetrainFail l s) := by
  unfold execLinkRetrainFail
  extract_lets p
  have hp : ∀ (a b : ℕ) (s : State), StateCanon full s → StateCanon full (p a b s) := fun _ _ _ h => loseNow_canon (loseNow_canon h)
  clear_value p
  exact state_untrain_canon (hp _ _ _ (hp _ _ _ (hp _ _ _ hs)))
theorem plan_begin_canon {p : Plan} {s : State} {c : Cur} {r : Run} (hs : StateCanon full s) : GotCanon full (p.begin s c r) := by
  unfold Plan.begin
  extract_lets d fs once
  have hd : DieCanon full d := hs.die _
  clear_value d
  have honce : GotCanon full once := ite_canon (got_bind_canon (tileRow_canon hs) (fun _ h _ => h)) (ite_canon (got_bind_canon (portRow_canon hs) (fun _ h _ => h)) (ite_canon (got_bind_canon (portRow_canon hs) (fun _ h _ => h)) hs))
  clear_value once
  split
  · clear_value fs
    split
    · exact hs
    · exact hs
  · split
    · clear_value fs
      split
      · exact hs
      · refine got_bind_canon honce fun a h a_1 => ?_
        extract_lets s2
        have hs2 : StateCanon full s2 := h
        clear_value s2
        exact hs2
    · clear_value fs
      split
      · exact hs
      · refine got_bind_canon honce fun _ h _ => ?_
        extract_lets s2
        have hs2 : StateCanon full s2 := dstTag_canon h
        clear_value s2
        exact hs2
theorem plan_reads_canon {p : Plan} {s : State} {c : Cur} {r : Run} {i : ℕ} (hs : StateCanon full s) : GotCanon full (p.reads s c r i) := by
  unfold Plan.reads
  extract_lets k held g2
  have hg2 : GotCanon full g2 := by
    unfold g2
    split
    · exact hs
    · exact ite_canon hs (srcRow_canon hs)
  clear_value g2
  refine got_bind_canon hg2 fun _ h _ => ?_
  extract_lets g3
  have hg3 : GotCanon full g3 := by
    unfold g3
    refine ite_canon h ?_
    split
    · exact h
    · exact ite_canon h (srcRow_canon h)
  clear_value g3
  refine got_bind_canon hg3 fun _ h2 _ => ?_
  extract_lets g4
  have hg4 : GotCanon full g4 := by
    unfold g4
    split
    · exact h2
    · exact tileRow_canon h2
  clear_value g4
  exact got_bind_canon hg4 fun _ h3 _ => h3
theorem plan_rowStep_canon {p : Plan} {s : State} {c : Cur} {r : Run} (hs : StateCanon full s) : StateCanon full (p.rowStep s c r) := by
  unfold Plan.rowStep
  refine unitDo_canon hs (got_bind_canon (plan_reads_canon hs) (fun _ h _ => ?_))
  extract_lets x psn
  exact got_bind_canon (dstPut_canon h) fun _ h2 _ => h2
theorem plan_reduceStep_canon {p : Plan} {q : Bool} {s : State} {c : Cur} {r : Run} (hs : StateCanon full s) : StateCanon full (p.reduceStep q s c r) := by
  unfold Plan.reduceStep
  refine unitDo_canon hs (got_bind_canon (srcRow_canon hs) (fun _ h _ => ?_))
  extract_lets x w
  exact ite_canon (got_bind_canon (rqPush_canon h) (fun _ h2 _ => h2)) h
theorem plan_reduceEnd_canon {p : Plan} {s : State} {c : Cur} {r : Run} (hs : StateCanon full s) : StateCanon full (p.reduceEnd s c r) := by
  unfold Plan.reduceEnd
  extract_lets v
  exact state_advRun_canon (state_modSlot_canon hs (fun _ h => slot_modTile_canon h (fun _ h2 => tile_put_canon h2)))
theorem plan_blockStep_canon {p : Plan} {s : State} {c : Cur} {r : Run} (hs : StateCanon full s) : StateCanon full (p.blockStep s c r) := by
  unfold Plan.blockStep
  extract_lets g w e bad
  refine unitDo_canon hs (got_bind_canon (tileRows_canon hs) (fun _ h _ => ?_))
  extract_lets src psn out
  exact state_modSlot_canon h fun _ h2 => slot_modTile_canon h2 (fun _ h3 => foldl_canon (p := TileCanon) (fun _ _ h4 => tile_put_canon h4) h3)
theorem plan_flatStep_canon {p : Plan} {s : State} {c : Cur} {r : Run} (hs : StateCanon full s) : StateCanon full (p.flatStep s c r) := by
  unfold Plan.flatStep
  extract_lets q fin ed es need keep
  have hfin : ∀ (s : State), StateCanon full s → ∀ (r : Run) (vs buf : List RowVal), GotCanon full (fin s r vs buf) := by
    unfold fin
    intro s2 h r2 vs buf
    extract_lets all x
    exact got_bind_canon (dstPut_canon h) fun _ h2 _ => h2
  clear_value fin
  exact ite_canon (unitDo_canon hs (got_bind_canon (tileRows_canon hs) (fun _ h _ => hfin _ h _ _ _))) (ite_canon (unitDo_canon hs (got_bind_canon (portRow_canon hs) (fun _ h _ => h))) (unitDo_canon hs (hfin _ hs _ _ _)))
theorem plan_step_canon {p : Plan} {s : State} {c : Cur} {r : Run} (hs : StateCanon full s) : StateCanon full (p.step s c r) := by
  unfold Plan.step
  refine ite_canon (unitDo_canon hs (plan_begin_canon hs)) (ite_canon ?_ ?_)
  · split
    · exact plan_rowStep_canon hs
    · exact plan_reduceStep_canon hs
    · exact plan_blockStep_canon hs
    · exact plan_flatStep_canon hs
  · split
    · exact plan_reduceEnd_canon hs
    · exact state_advRun_canon hs
theorem areDo_canon {p : Plan} {s : State} (hs : StateCanon full s) : OutCanon full (areDo p s) := by
  unfold areDo
  exact engDo_canon (fun _ h _ _ => plan_step_canon h) hs
theorem execAreAdd_canon {o : EOp} {s : State} (hs : StateCanon full s) : OutCanon full (execAreAdd o s) := by
  unfold execAreAdd
  exact areDo_canon hs
theorem execAreSub_canon {o : EOp} {s : State} (hs : StateCanon full s) : OutCanon full (execAreSub o s) := by
  unfold execAreSub
  exact areDo_canon hs
theorem execAreMul_canon {o : EOp} {s : State} (hs : StateCanon full s) : OutCanon full (execAreMul o s) := by
  unfold execAreMul
  exact areDo_canon hs
theorem execFma_canon {o : EOp} {s : State} (hs : StateCanon full s) : OutCanon full (execFma o s) := by
  unfold execFma
  exact areDo_canon hs
theorem execAreMin_canon {o : EOp} {s : State} (hs : StateCanon full s) : OutCanon full (execAreMin o s) := by
  unfold execAreMin
  exact areDo_canon hs
theorem execAreMax_canon {o : EOp} {s : State} (hs : StateCanon full s) : OutCanon full (execAreMax o s) := by
  unfold execAreMax
  exact areDo_canon hs
theorem execAbs_canon {o : EOp} {s : State} (hs : StateCanon full s) : OutCanon full (execAbs o s) := by
  unfold execAbs
  exact areDo_canon hs
theorem execNeg_canon {o : EOp} {s : State} (hs : StateCanon full s) : OutCanon full (execNeg o s) := by
  unfold execNeg
  exact areDo_canon hs
theorem execExp2_canon {o : EOp} {s : State} (hs : StateCanon full s) : OutCanon full (execExp2 o s) := by
  unfold execExp2
  exact areDo_canon hs
theorem execLog2_canon {o : EOp} {s : State} (hs : StateCanon full s) : OutCanon full (execLog2 o s) := by
  unfold execLog2
  exact areDo_canon hs
theorem execRcp_canon {o : EOp} {s : State} (hs : StateCanon full s) : OutCanon full (execRcp o s) := by
  unfold execRcp
  exact areDo_canon hs
theorem execRsq_canon {o : EOp} {s : State} (hs : StateCanon full s) : OutCanon full (execRsq o s) := by
  unfold execRsq
  exact areDo_canon hs
theorem execTanh_canon {o : EOp} {s : State} (hs : StateCanon full s) : OutCanon full (execTanh o s) := by
  unfold execTanh
  exact areDo_canon hs
theorem execAreCmp_canon {o : EOp} {s : State} (hs : StateCanon full s) : OutCanon full (execAreCmp o s) := by
  unfold execAreCmp
  exact areDo_canon hs
theorem execSel_canon {o : EOp} {s : State} (hs : StateCanon full s) : OutCanon full (execSel o s) := by
  unfold execSel
  exact areDo_canon hs
theorem execRedSum_canon {o : EOp} {s : State} (hs : StateCanon full s) : OutCanon full (execRedSum o s) := by
  unfold execRedSum
  exact areDo_canon hs
theorem execRedMax_canon {o : EOp} {s : State} (hs : StateCanon full s) : OutCanon full (execRedMax o s) := by
  unfold execRedMax
  exact areDo_canon hs
theorem execRedMin_canon {o : EOp} {s : State} (hs : StateCanon full s) : OutCanon full (execRedMin o s) := by
  unfold execRedMin
  exact areDo_canon hs
theorem execRedSsq_canon {o : EOp} {s : State} (hs : StateCanon full s) : OutCanon full (execRedSsq o s) := by
  unfold execRedSsq
  exact areDo_canon hs
theorem execRedAmax_canon {o : EOp} {s : State} (hs : StateCanon full s) : OutCanon full (execRedAmax o s) := by
  unfold execRedAmax
  exact areDo_canon hs
theorem execRedqSum_canon {o : EOp} {s : State} (hs : StateCanon full s) : OutCanon full (execRedqSum o s) := by
  unfold execRedqSum
  exact areDo_canon hs
theorem execRedqMax_canon {o : EOp} {s : State} (hs : StateCanon full s) : OutCanon full (execRedqMax o s) := by
  unfold execRedqMax
  exact areDo_canon hs
theorem execRedqMin_canon {o : EOp} {s : State} (hs : StateCanon full s) : OutCanon full (execRedqMin o s) := by
  unfold execRedqMin
  exact areDo_canon hs
theorem execRedqSsq_canon {o : EOp} {s : State} (hs : StateCanon full s) : OutCanon full (execRedqSsq o s) := by
  unfold execRedqSsq
  exact areDo_canon hs
theorem execRedqAmax_canon {o : EOp} {s : State} (hs : StateCanon full s) : OutCanon full (execRedqAmax o s) := by
  unfold execRedqAmax
  exact areDo_canon hs
theorem execBcastRow_canon {o : EOp} {s : State} (hs : StateCanon full s) : OutCanon full (execBcastRow o s) := by
  unfold execBcastRow
  exact areDo_canon hs
theorem execBcastElem_canon {o : EOp} {s : State} (hs : StateCanon full s) : OutCanon full (execBcastElem o s) := by
  unfold execBcastElem
  exact areDo_canon hs
theorem execBcastScal_canon {o : EOp} {s : State} (hs : StateCanon full s) : OutCanon full (execBcastScal o s) := by
  unfold execBcastScal
  exact areDo_canon hs
theorem execIota_canon {o : EOp} {s : State} (hs : StateCanon full s) : OutCanon full (execIota o s) := by
  unfold execIota
  exact areDo_canon hs
theorem execTrn_canon {o : EOp} {s : State} (hs : StateCanon full s) : OutCanon full (execTrn o s) := by
  unfold execTrn
  exact areDo_canon hs
theorem execShufPerm_canon {o : EOp} {s : State} (hs : StateCanon full s) : OutCanon full (execShufPerm o s) := by
  unfold execShufPerm
  exact areDo_canon hs
theorem execShufRot_canon {o : EOp} {s : State} (hs : StateCanon full s) : OutCanon full (execShufRot o s) := by
  unfold execShufRot
  exact areDo_canon hs
theorem execShufRev_canon {o : EOp} {s : State} (hs : StateCanon full s) : OutCanon full (execShufRev o s) := by
  unfold execShufRev
  exact areDo_canon hs
theorem execCvt_canon {o : EOp} {s : State} (hs : StateCanon full s) : OutCanon full (execCvt o s) := by
  unfold execCvt
  exact areDo_canon hs
theorem execQnt_canon {o : EOp} {s : State} (hs : StateCanon full s) : OutCanon full (execQnt o s) := by
  unfold execQnt
  exact areDo_canon hs
theorem execDqt_canon {o : EOp} {s : State} (hs : StateCanon full s) : OutCanon full (execDqt o s) := by
  unfold execDqt
  exact areDo_canon hs
theorem execAreAnd_canon {o : EOp} {s : State} (hs : StateCanon full s) : OutCanon full (execAreAnd o s) := by
  unfold execAreAnd
  exact areDo_canon hs
theorem execAreOr_canon {o : EOp} {s : State} (hs : StateCanon full s) : OutCanon full (execAreOr o s) := by
  unfold execAreOr
  exact areDo_canon hs
theorem execAreXor_canon {o : EOp} {s : State} (hs : StateCanon full s) : OutCanon full (execAreXor o s) := by
  unfold execAreXor
  exact areDo_canon hs
theorem execNot_canon {o : EOp} {s : State} (hs : StateCanon full s) : OutCanon full (execNot o s) := by
  unfold execNot
  exact areDo_canon hs
theorem execShl_canon {o : EOp} {s : State} (hs : StateCanon full s) : OutCanon full (execShl o s) := by
  unfold execShl
  exact areDo_canon hs
theorem execShr_canon {o : EOp} {s : State} (hs : StateCanon full s) : OutCanon full (execShr o s) := by
  unfold execShr
  exact areDo_canon hs
theorem execAreSra_canon {o : EOp} {s : State} (hs : StateCanon full s) : OutCanon full (execAreSra o s) := by
  unfold execAreSra
  exact areDo_canon hs
theorem execMov_canon {o : EOp} {s : State} (hs : StateCanon full s) : OutCanon full (execMov o s) := by
  unfold execMov
  exact areDo_canon hs
theorem execAreRowStep_canon {d : DieId} {k : SlotId} {e : ArrErr} {s : State} (hs : StateCanon full s) : OutCanon full (execAreRowStep d k e s) := by
  unfold execAreRowStep
  extract_lets c
  split
  · exact hs
  · split
    · exact hs
    · extract_lets read
      exact ite_canon hs (withError_canon hs (fun _ h => plan_step_canon h))

end Sys2Proof.Proofs
end

section
/-! SUPPORT. The copy engines, the fabric and the accesses of save areas keep the canonical form (O60). -/

namespace Sys2Proof.Proofs

open Sys2Proof Sys2Proof.Machine Sys2Proof.Laws

variable {full : Prop}

theorem pushChunk_canon {s : State} {c : Cur} {r : Run} {va unit : ℕ} {ps : List Piece} {data : List Byte} {bad : ℕ → ℕ → Bool} (hs : StateCanon full s) : StateCanon full (pushChunk s c r va unit ps data bad) := by
  unfold pushChunk
  extract_lets ops
  exact state_modAg_canon hs
theorem copyEnd_canon {s : State} {c : Cur} {r : Run} {p : CopyPlan} {o : COp} (hs : StateCanon full s) : StateCanon full (copyEnd s c r p o) := by
  unfold copyEnd
  extract_lets req push
  have hpush : ∀ (s : State), StateCanon full s → ∀ (ops : List SbOp), StateCanon full (push s ops) := fun _ h _ => state_modAg_canon h
  clear_value push
  refine ite_canon (ite_canon hs (ite_canon (state_setRun_canon (hpush _ hs _)) (state_advRun_canon hs))) (ite_canon (ite_canon (state_advRun_canon hs) hs) ?_)
  split
  next e =>
    have k := XCanon.wait e (access_canon (hs.die _))
    exact state_modDie_canon hs fun _ _ => k
  next e =>
    have k := XCanon.fault e (access_canon (hs.die _))
    exact runFault_canon (state_modDie_canon hs (fun _ _ => k))
  next e =>
    have k := XCanon.ok e (access_canon (hs.die _))
    extract_lets s2
    have hs2 : StateCanon full s2 := state_modDie_canon hs fun _ _ => k
    clear_value s2
    exact state_setRun_canon (hpush _ hs2 _)
theorem chunkFault_canon {s : State} {c : Cur} {r : Run} {code : ℕ} {addr : Word} (hs : StateCanon full s) : StateCanon full (chunkFault s c r code addr) := by
  unfold chunkFault
  exact runFault_canon (state_modAg_canon hs)
theorem chunkStep_canon {s : State} {c : Cur} {r : Run} {p : CopyPlan} (hs : StateCanon full s) : StateCanon full (chunkStep s c r p) := by
  unfold chunkStep
  extract_lets w da sa n next write
  have hwrite : ∀ (s : State), StateCanon full s → ∀ (data : List Byte) (bad : ℕ → ℕ → Bool), StateCanon full (write s data bad) := by
    unfold write
    intro s2 h data bad
    split
    next e =>
      have k := XCanon.wait e (accessRow_canon (h.die _))
      exact state_modDie_canon h fun _ _ => k
    next e =>
      have k := XCanon.fault e (accessRow_canon (h.die _))
      exact chunkFault_canon (state_modDie_canon h (fun _ _ => k))
    next e =>
      have k := XCanon.ok e (accessRow_canon (h.die _))
      extract_lets s3 toFab
      have hs3 : StateCanon full s3 := state_modDie_canon h fun _ _ => k
      clear_value s3
      exact ite_canon (chunkFault_canon hs3) (state_setRun_canon (state_modAg_canon (pushChunk_canon hs3)))
  clear_value write
  split
  · exact hwrite _ hs _ _
  · split
    · split
      next e =>
        have k := XCanon.wait e (accessParts_canon (hs.die _))
        exact state_modDie_canon hs fun _ _ => k
      next e =>
        have k := XCanon.fault e (accessParts_canon (hs.die _))
        exact chunkFault_canon (state_modDie_canon hs (fun _ _ => k))
      next e =>
        have k := XCanon.ok e (accessParts_canon (hs.die _))
        exact issueReads_canon (state_modDie_canon hs (fun _ _ => k))
    · exact ite_canon (hwrite _ hs _ _) hs
theorem copyStep_canon {s : State} {c : Cur} {r : Run} {p : CopyPlan} {o : COp} {twoD : Bool} (hs : StateCanon full s) : StateCanon full (copyStep s c r p o twoD) := by
  unfold copyStep
  refine ite_canon ?_ (ite_canon (copyEnd_canon hs) (chunkStep_canon hs))
  split
  · exact startFault_canon hs
  · exact ite_canon (startFault_canon hs) (state_setRun_canon hs)
theorem mcastStep_canon {s : State} {c : Cur} {r : Run} {o : COp} (hs : StateCanon full s) : StateCanon full (mcastStep s c r o) := by
  unfold mcastStep
  extract_lets len lines req grp off w sa n neg
  refine ite_canon ?_ (ite_canon hs (ite_canon ?_ (ite_canon ?_ ?_)))
  · split
    · exact startFault_canon hs
    · exact state_setRun_canon (state_modAg_canon hs)
  · split
    · split
      next e =>
        have k := XCanon.wait e (accessParts_canon (hs.die _))
        exact state_modDie_canon hs fun _ _ => k
      next e =>
        have k := XCanon.fault e (accessParts_canon (hs.die _))
        exact chunkFault_canon (state_modDie_canon hs (fun _ _ => k))
      next e =>
        have k := XCanon.ok e (accessParts_canon (hs.die _))
        exact issueReads_canon (state_modDie_canon hs (fun _ _ => k))
    · extract_lets out s2 s3
      have hs2 : StateCanon full s2 := state_pairStores_canon (state_modAg_canon hs)
      clear_value s2
      have hs3 : StateCanon full s3 := ite_canon hs2 (state_modDie_canon hs2 (fun _ h => foldl_canon (p := DieCanon full) (fun _ _ h2 => die_toFabric_canon h2) h))
      clear_value s3
      exact ite_canon hs (ite_canon (chunkFault_canon hs) (state_setRun_canon hs3))
  · split
    next e =>
      have k := XCanon.wait e (accessRow_canon (hs.die _))
      exact state_modDie_canon hs fun _ _ => k
    next e =>
      have k := XCanon.fault e (accessRow_canon (hs.die _))
      exact runFault_canon (state_modDie_canon hs (fun _ _ => k))
    next e =>
      have k := XCanon.ok e (accessRow_canon (hs.die _))
      exact state_setRun_canon (pushChunk_canon (state_modDie_canon hs (fun _ _ => k)))
  · split
    next e =>
      have k := GotCanon.ok e (rqPush_canon hs)
      exact state_advRun_canon k
    · exact hs
theorem copyDo_canon {i : Instr} {s : State} (hs : StateCanon full s) : OutCanon full (copyDo i s) := by
  unfold copyDo
  refine engDo_canon (fun _ h _ _ => ?_) hs
  split
  · exact copyStep_canon h
  · exact h
theorem execCopy_canon {o : COp} {s : State} (hs : StateCanon full s) : OutCanon full (execCopy o s) := by
  unfold execCopy
  exact copyDo_canon hs
theorem execCopy2d_canon {o : COp} {s : State} (hs : StateCanon full s) : OutCanon full (execCopy2d o s) := by
  unfold execCopy2d
  exact copyDo_canon hs
theorem execFill_canon {o : COp} {s : State} (hs : StateCanon full s) : OutCanon full (execFill o s) := by
  unfold execFill
  exact copyDo_canon hs
theorem execRwrite_canon {o : COp} {s : State} (hs : StateCanon full s) : OutCanon full (execRwrite o s) := by
  unfold execRwrite
  exact copyDo_canon hs
theorem execMcast_canon {o : COp} {s : State} (hs : StateCanon full s) : OutCanon full (execMcast o s) := by
  unfold execMcast
  exact engDo_canon (fun _ h _ _ => mcastStep_canon h) hs
theorem execCopyChunk_canon {d : DieId} {k : ClusterId} {e : StoreErr} {s : State} (hs : StateCanon full s) : OutCanon full (execCopyChunk d k e s) := by
  unfold execCopyChunk
  extract_lets c
  split
  · exact hs
  · refine ite_canon (readStep_canon hs) (ite_canon hs ?_)
    split
    · exact mcastStep_canon hs
    · split
      · exact copyStep_canon hs
      · exact hs
    · exact hs
theorem fabricTake_canon {s : State} {d : DieId} {resp : Bool} (hs : StateCanon full s) : StateCanon full (fabricTake s d resp) := by
  unfold fabricTake
  refine state_modDie_canon hs fun _ h => ?_
  extract_lets leaves src
  exact ite_canon (ite_canon h h) (ite_canon h h)
theorem execSwitchReplicate_canon {d : DieId} {s : State} (hs : StateCanon full s) : OutCanon full (execSwitchReplicate d s) := by
  unfold execSwitchReplicate
  exact fabricTake_canon hs
theorem execMcastLineArrival_canon {d : DieId} {m : McLine} {s : State} (hs : StateCanon full s) : OutCanon full (execMcastLineArrival d m s) := by
  unfold execMcastLineArrival
  extract_lets y refuse
  have hy : DieCanon full y := hs.die _
  clear_value y
  have hrefuse : StateCanon full refuse := state_modDie_canon hs fun _ h => h
  clear_value refuse
  refine ite_canon hs ?_
  split
  · exact hrefuse
  · extract_lets h
    split
    · exact hrefuse
    · extract_lets s2 inc s3
      have hs2 : StateCanon full s2 := state_fabWrite_canon hs
      clear_value s2
      have hs3 : StateCanon full s3 := ite_canon hs2 (ite_canon (state_modDie_canon hs2 (fun _ h2 => die_hold_canon h2)) (state_incSem_canon hs2))
      clear_value s3
      exact ite_canon hrefuse (state_modDie_canon hs3 (fun _ h2 => h2))
theorem execAggregatedAck_canon {d : DieId} {k : ClusterId} {acc : ℕ} {ref : List ℕ} {s : State} (hs : StateCanon full s) : OutCanon full (execAggregatedAck d k acc ref s) := by
  unfold execAggregatedAck
  extract_lets c
  split
  · exact hs
  · split
    · extract_lets ref2 acc2
      exact ite_canon hs (state_setRun_canon hs)
    · exact hs
theorem execMcastMemberTimeout_canon {d : DieId} {k : ClusterId} {m : ℕ} {s : State} (hs : StateCanon full s) : OutCanon full (execMcastMemberTimeout d k m s) := by
  unfold execMcastMemberTimeout
  extract_lets c
  split
  · exact hs
  · split
    · exact ite_canon (state_setRun_canon hs) hs
    · exact hs
theorem state_modCoe_canon {s : State} {d : DieId} {f : Coll → Coll} (hs : StateCanon full s) : StateCanon full (s.modCoe d f) := by
  unfold State.modCoe
  exact state_modDie_canon hs fun _ h => h
theorem state_setCtx_canon {s : State} {d : DieId} {x : Fin 8} {k : KCtx} (hs : StateCanon full s) : StateCanon full (s.setCtx d x k) := by
  unfold State.setCtx
  extract_lets b
  exact state_modCoe_canon hs
theorem sendNft_canon {s : State} {d : DieId} {m : NftOut} (hs : StateCanon full s) : StateCanon full (sendNft s d m) := by
  unfold sendNft
  exact ite_canon hs (state_modDie_canon hs (fun _ h => die_toFabric_canon h))
theorem slipBy_canon {s : State} {d : DieId} {x : Fin 8} {delay cause : ℕ} (hs : StateCanon full s) : StateCanon full (slipBy s d x delay cause) := by
  unfold slipBy
  split
  · exact hs
  · extract_lets dd s2 s3
    have hs2 : StateCanon full s2 := state_setCtx_canon hs
    clear_value s2
    have hs3 : StateCanon full s3 := state_modDie_canon hs2 fun _ h => die_countDie_canon (trcRecord_canon h)
    clear_value s3
    exact ite_canon hs (sendNft_canon hs3)
theorem state_setKwait_canon {s : State} {c : Cur} {w : Option KWait} (hs : StateCanon full s) : StateCanon full (s.setKwait c w) := by
  unfold State.setKwait
  split
  · exact state_modCoe_canon hs
  · exact state_modCoe_canon hs
theorem waitOn_canon {s : State} {c : Cur} {kind : ℕ} {on : Bool} (hs : StateCanon full s) : StateCanon full (waitOn s c kind on) := by
  unfold waitOn
  split
  · exact hs
  · exact state_setKwait_canon hs
theorem waitEnd_canon {s : State} {c : Cur} (hs : StateCanon full s) : StateCanon full (waitEnd s c) := by
  unfold waitEnd
  split
  · exact hs
  · extract_lets s2
    have hs2 : StateCanon full s2 := state_setKwait_canon hs
    clear_value s2
    split
    · exact slipBy_canon hs2
    · exact hs2
theorem state_setGen_canon {s : State} {c : Cur} {grp : BitVec 12} {g : W32} (hs : StateCanon full s) : StateCanon full (s.setGen c grp g) := by
  unfold State.setGen
  split
  · exact state_modCoe_canon hs
  · exact state_modCoe_canon hs
theorem retimeBars_canon {s : State} {d : DieId} {grp : BitVec 12} (hs : StateCanon full s) : StateCanon full (retimeBars s d grp) := by
  unfold retimeBars
  refine foldl_canon (p := StateCanon full) (fun _ _ h => ?_) hs
  extract_lets c
  split
  · exact ite_canon (state_setKwait_canon h) h
  · exact h
theorem coeRead_canon {s : State} {c : Cur} {w : Who} {va n : ℕ} (hs : StateCanon full s) : XCanon full (coeRead s c w va n) := by
  unfold coeRead
  extract_lets d
  have hd : DieCanon full d := hs.die _
  clear_value d
  refine ite_canon hd ?_
  split
  next e =>
    have k := XCanon.wait e (accessRow_canon hd)
    exact k
  next e =>
    have k := XCanon.fault e (accessRow_canon hd)
    exact k
  next e =>
    have k := XCanon.ok e (accessRow_canon hd)
    refine ite_canon k ?_
    split
    · exact k
    · exact k
theorem readTable_canon {s : State} {c : Cur} {w : Who} {tt : ℕ} (hs : StateCanon full s) : XCanon full (readTable s c w tt) := by
  unfold readTable
  split
  next e =>
    have k := XCanon.wait e (coeRead_canon hs)
    exact k
  next e =>
    have k := XCanon.fault e (coeRead_canon hs)
    exact k
  next e =>
    have k := XCanon.ok e (coeRead_canon hs)
    split
    · exact k
    · split
      next e2 =>
        have k2 := XCanon.wait e2 (coeRead_canon (state_modDie_canon hs (fun _ _ => k)))
        exact k2
      next e2 =>
        have k2 := XCanon.fault e2 (coeRead_canon (state_modDie_canon hs (fun _ _ => k)))
        exact k2
      next e2 =>
        have k2 := XCanon.ok e2 (coeRead_canon (state_modDie_canon hs (fun _ _ => k)))
        extract_lets ks
        exact ite_canon k2 k2
theorem chainCheck_canon {s : State} {c : Cur} {w : Who} {n : ℕ} {seen : List ℕ} {tt : ℕ} {d : Die} (hs : StateCanon full s) (hd : DieCanon full d) : XCanon full (chainCheck s c w n seen tt d) := by
  induction n generalizing seen tt d with
  | zero => exact hd
  | succ n ih =>
    have hr : XCanon full (readTable (s.modDie c.die fun _ => d) c w tt) := readTable_canon (state_modDie_canon hs fun _ _ => hd)
    unfold chainCheck
    refine ite_canon hd ?_
    split
    next e => exact hr.wait e
    next e => exact hr.fault e
    next e => exact ih (hr.ok e)
theorem die_takeTask_canon {dn : DieId} {d : Die} {l0 : Launch} {w : Word} (hd : DieCanon full d) : ∀ t, Die.takeTask dn d l0 w = some t → DieCanon full t := by
  intro t e
  unfold Die.takeTask at e
  dsimp only at e
  split at e
  · cases e
  · split at e
    · cases e
      exact hd
    · split at e
      · cases e
        exact hd
      · cases e
        exact die_enterBlocks_canon hd
theorem die_takeTasks_canon {dn : DieId} {l0 : Launch} {l : List Word} {d : Die} (hd : DieCanon full d) : DieCanon full (Die.takeTasks dn l0 l d).1 := by
  induction l generalizing d with
  | nil => exact hd
  | cons w r ih =>
    unfold Die.takeTasks
    split
    · exact hd
    next e => exact ih (die_takeTask_canon hd _ e)
theorem pushRows_canon {s : State} {c : Cur} {r : Run} {code : BitVec 5} {sc : Bool} {unit : ℕ} {l : List RowVal} (hs : StateCanon full s) : GotCanon full (pushRows s c r code sc unit l) := by
  induction l generalizing s with
  | nil => exact hs
  | cons v l ih =>
    unfold pushRows
    exact got_bind_canon (portPush_canon hs) fun _ h _ => ih h

/-! ## Weights and tables (R273, R274) -/

theorem bank_column_canon {b : Bank} {a a' : ℕ} {bs : List Byte} {xs : List (BitVec 24)} {sc : Bool} {p : BitVec 512} (h : BankCanon b) :
    BankCanon { b with wts := spWrite 0 b.wts a bs, wsc := if sc then spWrite 0 b.wsc a' xs else b.wsc, wPsn := p } := by
  obtain ⟨acc, wts, wsc, cb⟩ := h
  exact ⟨acc, spWf_spWrite 0 _ _ _ wts, ite_canon (p := fun m => spWf (0 : BitVec 24) m = true) (spWf_spWrite 0 _ _ _ wsc) wsc, cb⟩
theorem putColumn_canon {f : Frag} {t : Tag} {col : ℕ} {v : RowVal} {d : Die} (hd : DieCanon full d) : DieCanon full (putColumn f t col v d) := by
  unfold putColumn
  extract_lets side nb ns
  exact foldl_canon (p := DieCanon full) (fun _ _ h => die_modBank_canon h fun _ hb => bank_column_canon hb) hd
theorem bank_tables_canon {b : Bank} {t : Sparse Byte} {p : Vector Bool 2} (h : BankCanon b) (ht : spWf 0 t = true) : BankCanon { b with cb := .replicate 2 t, cbPsn := p } := by
  obtain ⟨acc, wts, wsc, cb⟩ := h
  refine ⟨acc, wts, wsc, fun _ => ?_⟩
  dsimp only
  rw [vget_replicate]
  exact ht

/-! ## Save areas (R375), by the rules of `ProcKeeps` -/

theorem csAccess_canon {d : DieId} {y : Die} {asid : Half} {va n : ℕ} {wr : Bool} (hy : DieCanon full y) : XCanon full (csAccess d y asid va n wr) := csAccess_keeps procKeeps_canon d y asid va n wr hy
theorem putImage_canon {d : DieId} {asid : Half} {base : ℕ} {im : Image} {y : Die} (hy : DieCanon full y) : XCanon full (putImage d asid base im y) := putImage_keeps procKeeps_canon (fun _ _ _ _ h => die_poke_canon h) d asid base im y hy
theorem csLines_canon {dn : DieId} {asid : Half} {l : List (ℕ × ℕ)} {d : Die} (hd : DieCanon full d) : XCanon full (csLines dn asid l d) := by
  induction l generalizing d with
  | nil => exact hd
  | cons c r ih =>
    have ha : XCanon full (csAccess dn d asid c.1 c.2 true) := csAccess_canon hd
    unfold csLines
    split
    next e => exact xRes_map_canon (ih (ha.ok e))
    next e => exact ha.wait e
    next e => exact ha.fault e
theorem putAll_canon {dn : DieId} {asid : Half} {l : List (ℕ × Image)} {d : Die} (hd : DieCanon full d) : XCanon full (putAll dn asid l d) := by
  induction l generalizing d with
  | nil => exact hd
  | cons c r ih =>
    have ha : XCanon full (putImage dn asid c.1 c.2 d) := putImage_canon hd
    unfold putAll
    split
    next e => exact ih (ha.ok e)
    next e => exact ha.wait e
    next e => exact ha.fault e
theorem csLoad_canon {dn : DieId} {d : Die} {asid : Half} {va n : ℕ} (hd : DieCanon full d) : XCanon full (csLoad dn d asid va n) := by
  have ha : XCanon full (csAccess dn d asid va n false) := csAccess_canon hd
  unfold csLoad
  split
  next e => exact ha.ok e
  next e => exact ha.wait e
  next e => exact ha.fault e
theorem getImage_canon {dn : DieId} {asid : Half} {base : ℕ} {l : List (ℕ × ℕ)} {d : Die} (hd : DieCanon full d) : XCanon full (getImage dn asid base l d) := by
  induction l generalizing d with
  | nil => exact hd
  | cons c r ih =>
    have ha : XCanon full (csLoad dn d asid (base + c.1) c.2) := csLoad_canon hd
    unfold getImage
    split
    next e => exact ha.fault e
    next e => exact ha.wait e
    next e =>
      have hr := ih (ha.ok e)
      split
      next e' => exact hr.fault e'
      next e' => exact hr.wait e'
      next e' => exact hr.ok e'

end Sys2Proof.Proofs
end

section
/-! SUPPORT. Collective words, the matrix engine and the images of save areas keep the canonical form (O60). -/

namespace Sys2Proof.Proofs

open Sys2Proof Sys2Proof.Machine Sys2Proof.Laws

variable {full : Prop}

theorem mcbStep_canon {s : State} {c : Cur} {r : Run} {o : EOp} (hs : StateCanon full s) : StateCanon full (mcbStep s c r o) := by
  unfold mcbStep
  extract_lets f g empty
  split
  · exact hs
  next e => exact runFault_canon (GotCanon.fault e (got_bind_canon (tileRow_canon hs) fun _ h _ => got_bind_canon (tileRow_canon h) fun _ h2 _ => h2))
  next e =>
    have k := GotCanon.ok e (got_bind_canon (tileRow_canon hs) fun _ h _ => got_bind_canon (tileRow_canon h) fun _ h2 _ => h2)
    extract_lets t
    have ht : spWf (0 : Byte) t = true := spWf_spWrite 0 _ [] 0 rfl
    exact state_advRun_canon (state_modDie_canon k fun _ hy => foldl_canon (p := DieCanon full) (fun _ _ h => die_modBank_canon h fun _ hb => bank_tables_canon hb ht) hy)

/-! ## A slot taken back from its save area (R320) -/

theorem spWf_foldl_spWrite {α : Type} [DecidableEq α] {z : α} {β : Type} {a : β → ℕ} {v : β → List α} {l : List β} {m : Sparse α} (h : spWf z m = true) : spWf z (l.foldl (fun s r => spWrite z s (a r) (v r)) m) = true :=
  foldl_canon (p := fun m => spWf z m = true) (fun m r h => spWf_spWrite z (v r) m (a r) h) h
theorem vget_ofFn {α : Type} {n : ℕ} (f : Fin n → α) (i : Fin n) : vget (Vector.ofFn f) i = f i := by
  unfold vget
  simp only [Vector.get_eq_getElem, Vector.getElem_ofFn]
theorem slotBack_canon {t : Slot} {ks : List SlotId} {k : SlotId} {own : Owner} {i : Image} {trap : List Byte} {x : SlotAux} : SlotCanon full (slotBack t ks k own i trap x) := by
  intro _
  unfold slotBack
  refine ⟨fun n => ?_, ?_, ?_, ?_, fun n => ?_⟩
  · dsimp only
    rw [vget_ofFn]
    refine ⟨?_, ?_⟩
    · dsimp only
      exact spWf_foldl_spWrite rfl
    · dsimp only
      exact spWf_spWrite 0 _ [] 0 rfl
  · dsimp only
    exact spWf_foldl_spWrite rfl
  · dsimp only
    exact spWf_foldl_spWrite rfl
  · dsimp only
    exact spWf_spWrite 0 _ [] 0 rfl
  · match n with
    | 0 => exact spWf_spWrite 0 _ [] 0 rfl
    | 1 => exact spWf_spWrite 0 _ [] 0 rfl
theorem kframeGroup_canon {s : State} {c : Cur} {r : Run} (hs : StateCanon full s) : StateCanon full (kframeGroup s c r) := by
  unfold kframeGroup
  extract_lets s2
  have hs2 : StateCanon full s2 := startFault_canon hs
  clear_value s2
  split
  · exact ite_canon (state_modSlot_canon (state_modCoe_canon hs2) (fun _ h => h)) hs2
  · exact hs2
theorem kframeStep_canon {s : State} {c : Cur} {r : Run} {o : COp} (hs : StateCanon full s) : StateCanon full (kframeStep s c r o) := by
  unfold kframeStep
  extract_lets va
  refine ite_canon (startFault_canon hs) ?_
  split
  next e =>
    have k := XCanon.wait e (coeRead_canon hs)
    exact state_modDie_canon hs fun _ _ => k
  next e =>
    have k := XCanon.fault e (coeRead_canon hs)
    exact startFault_canon (state_modDie_canon hs (fun _ _ => k))
  next e =>
    have k := XCanon.ok e (coeRead_canon hs)
    extract_lets s2
    have hs2 : StateCanon full s2 := state_modDie_canon hs fun _ _ => k
    clear_value s2
    split
    · exact startFault_canon hs2
    · refine ite_canon (kframeGroup_canon hs2) ?_
      split
      next e2 =>
        have k2 := XCanon.wait e2 (readTable_canon hs2)
        exact state_modDie_canon hs2 fun _ _ => k2
      next e2 =>
        have k2 := XCanon.fault e2 (readTable_canon hs2)
        exact startFault_canon (state_modDie_canon hs2 (fun _ _ => k2))
      next e2 =>
        have k2 := XCanon.ok e2 (readTable_canon hs2)
        split
        next e3 =>
          have k3 := XCanon.wait e3 (chainCheck_canon hs2 k2)
          exact state_modDie_canon hs2 fun _ _ => k3
        next e3 =>
          have k3 := XCanon.fault e3 (chainCheck_canon hs2 k2)
          exact startFault_canon (state_modDie_canon hs2 (fun _ _ => k3))
        next e3 =>
          have k3 := XCanon.ok e3 (chainCheck_canon hs2 k2)
          extract_lets s3 same
          have hs3 : StateCanon full s3 := state_modDie_canon hs2 fun _ _ => k3
          clear_value s3
          refine ite_canon (startFault_canon hs3) ?_
          split
          · split
            · exact state_setCtx_canon hs3
            · exact hs3
          · exact hs3
theorem ksendStep_canon {s : State} {c : Cur} {r : Run} {o : COp} (hs : StateCanon full s) : StateCanon full (ksendStep s c r o) := by
  unfold ksendStep
  split
  · exact hs
  · split
    · exact hs
    · extract_lets dest i
      have hdest : ∀ (f : State → Piece → State),   (∀ (a : State), StateCanon full a → ∀ (a_1 : Piece), StateCanon full (f a a_1)) → StateCanon full (dest f) := by
        unfold dest
        intro f h
        split
        next e =>
          have k := XCanon.wait e (access_canon (hs.die _))
          exact state_modDie_canon hs fun _ _ => k
        next e =>
          have k := XCanon.fault e (access_canon (hs.die _))
          exact startFault_canon (state_modDie_canon hs (fun _ _ => k))
        next e =>
          have k := XCanon.ok e (access_canon (hs.die _))
          exact h _ (state_modDie_canon hs (fun _ _ => k)) _
      clear_value dest
      refine ite_canon ?_ (ite_canon (hdest _ (fun _ h _ => ?_)) (ite_canon (ite_canon (waitEnd_canon (state_setRun_canon (state_modCoe_canon hs))) (waitOn_canon hs)) (ite_canon (chunkStep_canon hs)
          (ite_canon (hdest _ (fun _ h _ => ?_)) (ite_canon (state_advRun_canon hs) hs)))))
      · split
        · exact startFault_canon hs
        · exact state_setRun_canon hs
      · extract_lets id s2 whom s3
        have hs2 : StateCanon full s2 := state_modCoe_canon h
        clear_value s2
        have hs3 : StateCanon full s3 := sendNft_canon hs2
        clear_value s3
        exact waitOn_canon (state_setRun_canon hs3)
      · extract_lets ops
        exact state_setRun_canon (state_modAg_canon h)
theorem krecvStep_canon {s : State} {c : Cur} {r : Run} {o : COp} (hs : StateCanon full s) : StateCanon full (krecvStep s c r o) := by
  unfold krecvStep
  extract_lets w
  split
  · exact hs
  · split
    · exact hs
    · exact ite_canon (startFault_canon hs) (ite_canon (state_advRun_canon (waitEnd_canon hs)) (waitOn_canon hs))
theorem state_seenAsm_canon {s : State} {x : Asm} {at_ n : ℕ} (hs : StateCanon full s) : StateCanon full (s.seenAsm x at_ n).1 := by
  unfold State.seenAsm
  extract_lets k
  split
  · exact hs
  · exact hs
theorem vecStep_canon {s : State} {c : Cur} {r : Run} {o : COp} {src : Tag → Bool} {blk : ℕ} {srcs : List (ℕ × Tag)} {comp : VecWork → (ℕ → List Byte) → List Byte × List Byte × Flg} {deps : VecWork → ℕ → List (ℕ × ℕ × ℕ)} (hs : StateCanon full s) : StateCanon full (vecStep s c r o src blk srcs comp deps) := by
  unfold vecStep
  extract_lets n w q per
  refine ite_canon ?_ (ite_canon (state_advRun_canon hs) ?_)
  · split
    · exact startFault_canon hs
    · exact state_setRun_canon hs
  · split
    · split
      next e =>
        have k := XCanon.wait e (accessParts_canon (hs.die _))
        exact state_modDie_canon hs fun _ _ => k
      next e =>
        have k := XCanon.fault e (accessParts_canon (hs.die _))
        exact chunkFault_canon (state_modDie_canon hs (fun _ _ => k))
      next e =>
        have k := XCanon.ok e (accessParts_canon (hs.die _))
        exact issueReads_canon (state_modDie_canon hs (fun _ _ => k))
    · refine ite_canon hs ?_
      split
      next e =>
        have k := XCanon.wait e (accessParts_canon (hs.die _))
        exact state_modDie_canon hs fun _ _ => k
      next e =>
        have k := XCanon.fault e (accessParts_canon (hs.die _))
        exact chunkFault_canon (state_modDie_canon hs (fun _ _ => k))
      next e =>
        have k := XCanon.ok e (accessParts_canon (hs.die _))
        extract_lets s2 got v bads push own s3 s4
        have hs2 : StateCanon full s2 := state_modDie_canon hs fun _ _ => k
        clear_value s2
        have hgot : StateCanon full got.1 := by
          unfold got
          refine foldl_canon (p := fun x => StateCanon full (Prod.fst x)) (fun _ _ h => ?_) hs2
          extract_lets g
          have hg : StateCanon full g.1 := state_seenAsm_canon h
          clear_value g
          exact hg
        clear_value got
        have hpush : ∀ (s : State),   StateCanon full s → ∀ (va : ℕ) (pp : List Piece) (data : List Byte) (per : ℕ), StateCanon full (push s va pp data per) := fun _ h _ _ _ _ => pushChunk_canon h
        clear_value push
        have hs3 : StateCanon full s3 := hpush _ hgot _ _ _ _
        clear_value s3
        have hs4 : StateCanon full s4 := ite_canon hs3 (hpush _ hs3 _ _ _ _)
        clear_value s4
        exact state_setRun_canon (state_modAg_canon hs4)
theorem kwidStep_canon {s : State} {c : Cur} {r : Run} {o : COp} (hs : StateCanon full s) : StateCanon full (kwidStep s c r o) := by
  unfold kwidStep
  extract_lets t n v
  exact vecStep_canon hs
theorem kaddStep_canon {s : State} {c : Cur} {r : Run} {o : COp} (hs : StateCanon full s) : StateCanon full (kaddStep s c r o) := by
  unfold kaddStep
  extract_lets n a b
  exact vecStep_canon hs
theorem kreqStep_canon {s : State} {c : Cur} {r : Run} {o : COp} (hs : StateCanon full s) : StateCanon full (kreqStep s c r o) := by
  unfold kreqStep
  extract_lets t n v dw
  exact vecStep_canon hs
theorem releaseTasks_canon {s : State} {c : Cur} {k : KCtx} {st : KStep} {word : Word} {fin : State → State} (hs : StateCanon full s) (hfin : ∀ (a : State), StateCanon full a → StateCanon full (fin a)) : StateCanon full (releaseTasks s c k st word fin) := by
  unfold releaseTasks
  extract_lets bad
  have hbad : ∀ (s : State), StateCanon full s → ∀ (code a u : ℕ), StateCanon full (bad s code a u) := fun _ h _ _ _ => ctxFault_canon h
  clear_value bad
  refine ite_canon hs (ite_canon (hfin _ hs) ?_)
  split
  next e =>
    have k2 := XCanon.wait e (coeRead_canon hs)
    exact state_modDie_canon hs fun _ _ => k2
  next e =>
    have k2 := XCanon.fault e (coeRead_canon hs)
    exact hbad _ (state_modDie_canon hs (fun _ _ => k2)) _ _ _
  next e =>
    have k2 := XCanon.ok e (coeRead_canon hs)
    split
    · exact hfin _ (state_modDie_canon hs (fun _ _ => k2))
    · extract_lets q s2
      have hq : DieCanon full q.1 := die_takeTasks_canon k2
      clear_value q
      have hs2 : StateCanon full s2 := state_modDie_canon hs fun _ _ => hq
      clear_value s2
      exact ite_canon (hfin _ hs2) (hbad _ hs2 _ _ _)
theorem krelStep_canon {s : State} {c : Cur} {r : Run} {o : COp} (hs : StateCanon full s) : StateCanon full (krelStep s c r o) := by
  unfold krelStep
  split
  · exact hs
  · split
    · exact hs
    · split
      · exact hs
      · exact ite_canon (state_advRun_canon hs) (releaseTasks_canon hs (fun _ h => state_modCoe_canon (state_advRun_canon h)))
theorem kbarStep_canon {s : State} {c : Cur} {r : Run} {o : COp} (hs : StateCanon full s) : StateCanon full (kbarStep s c r o) := by
  unfold kbarStep
  extract_lets w grp g s2
  have hs2 : StateCanon full s2 := state_setRun_canon (sendNft_canon hs)
  clear_value s2
  refine ite_canon (ite_canon (startFault_canon hs) (ite_canon (startFault_canon hs) (state_setRun_canon (state_setGen_canon hs)))) (ite_canon (ite_canon (waitOn_canon hs) ?_) (ite_canon
      (state_advRun_canon (waitEnd_canon hs)) (waitOn_canon hs)))
  split
  · exact state_setKwait_canon hs2
  · exact hs2
theorem kabsStep_canon {s : State} {c : Cur} {r : Run} {o : COp} (hs : StateCanon full s) : StateCanon full (kabsStep s c r o) := by
  unfold kabsStep
  extract_lets w v grp
  exact ite_canon (startFault_canon hs) (ite_canon (startFault_canon hs) (state_advRun_canon (sendNft_canon hs)))
theorem execKframe_canon {o : COp} {s : State} (hs : StateCanon full s) : OutCanon full (execKframe o s) := by
  unfold execKframe
  exact engDo_canon (fun _ h _ _ => kframeStep_canon h) hs
theorem execKsend_canon {o : COp} {s : State} (hs : StateCanon full s) : OutCanon full (execKsend o s) := by
  unfold execKsend
  exact engDo_canon (fun _ h _ _ => ksendStep_canon h) hs
theorem execKrecv_canon {o : COp} {s : State} (hs : StateCanon full s) : OutCanon full (execKrecv o s) := by
  unfold execKrecv
  exact engDo_canon (fun _ h _ _ => krecvStep_canon h) hs
theorem execKwid_canon {o : COp} {s : State} (hs : StateCanon full s) : OutCanon full (execKwid o s) := by
  unfold execKwid
  exact engDo_canon (fun _ h _ _ => kwidStep_canon h) hs
theorem execKadd_canon {o : COp} {s : State} (hs : StateCanon full s) : OutCanon full (execKadd o s) := by
  unfold execKadd
  exact engDo_canon (fun _ h _ _ => kaddStep_canon h) hs
theorem execKreq_canon {o : COp} {s : State} (hs : StateCanon full s) : OutCanon full (execKreq o s) := by
  unfold execKreq
  exact engDo_canon (fun _ h _ _ => kreqStep_canon h) hs
theorem execKrel_canon {o : COp} {s : State} (hs : StateCanon full s) : OutCanon full (execKrel o s) := by
  unfold execKrel
  exact engDo_canon (fun _ h _ _ => krelStep_canon h) hs
theorem execKbar_canon {o : COp} {s : State} (hs : StateCanon full s) : OutCanon full (execKbar o s) := by
  unfold execKbar
  exact engDo_canon (fun _ h _ _ => kbarStep_canon h) hs
theorem execKabs_canon {o : COp} {s : State} (hs : StateCanon full s) : OutCanon full (execKabs o s) := by
  unfold execKabs
  exact engDo_canon (fun _ h _ _ => kabsStep_canon h) hs
theorem answerQueries_canon {s : State} {d : DieId} (hs : StateCanon full s) : StateCanon full (answerQueries s d) := by
  unfold answerQueries
  extract_lets ok
  exact foldl_canon (p := StateCanon full) (fun _ _ h => sendNft_canon h) (state_modCoe_canon hs)
theorem enterFrame_canon {s : State} {d : DieId} {x : Fin 8} {k : KCtx} (hs : StateCanon full s) : StateCanon full (enterFrame s d x k) := by
  unfold enterFrame
  exact answerQueries_canon (state_setCtx_canon hs)
theorem execFrameEntry_canon {d : DieId} {x : Fin 8} {s : State} (hs : StateCanon full s) : OutCanon full (execFrameEntry d x s) := by
  unfold execFrameEntry
  split
  · exact hs
  · refine ite_canon hs (ite_canon (enterFrame_canon hs) ?_)
    split
    next e =>
      have k := XCanon.wait e (readTable_canon hs)
      exact state_modDie_canon hs fun _ _ => k
    next e =>
      have k := XCanon.fault e (readTable_canon hs)
      exact ctxFault_canon (state_modDie_canon hs (fun _ _ => k))
    next e =>
      have k := XCanon.ok e (readTable_canon hs)
      exact enterFrame_canon (state_modDie_canon hs (fun _ _ => k))
theorem frameEnd_canon {s : State} {d : DieId} {x : Fin 8} {k : KCtx} (hs : StateCanon full s) : StateCanon full (frameEnd s d x k) := by
  unfold frameEnd
  extract_lets last s2
  have hs2 : StateCanon full s2 := state_modCoe_canon hs
  clear_value s2
  exact ite_canon (ite_canon (state_setCtx_canon hs) (completeEntry_canon hs2)) (state_setCtx_canon hs)
theorem execStepStart_canon {d : DieId} {x : Fin 8} {s : State} (hs : StateCanon full s) : OutCanon full (execStepStart d x s) := by
  unfold execStepStart
  split
  · exact hs
  · extract_lets c now
    split
    · exact ite_canon (tryBlock_canon hs) hs
    · split
      · exact ite_canon (frameEnd_canon hs) hs
      · extract_lets rel s2
        have hs2 : StateCanon full s2 := slipBy_canon hs
        clear_value s2
        refine ite_canon hs ?_
        split
        · exact hs2
        · extract_lets src r
          exact tryBlock_canon (state_setCtx_canon hs2)
theorem execStepComplete_canon {d : DieId} {x : Fin 8} {s : State} (hs : StateCanon full s) : OutCanon full (execStepComplete d x s) := by
  unfold execStepComplete
  split
  · exact hs
  · split
    · extract_lets fin
      have hfin : ∀ (s : State), StateCanon full s → StateCanon full (fin s) := by
        unfold fin
        intro s2 h
        split
        · exact h
        · extract_lets k
          exact ite_canon (state_setCtx_canon h) (frameEnd_canon h)
      clear_value fin
      exact ite_canon hs (ite_canon (hfin _ hs) (releaseTasks_canon hs (fun _ h => hfin _ h)))
    · exact hs
theorem execSlipNotice_canon {d : DieId} {grp : BitVec 12} {delay : ℕ} {s : State} (hs : StateCanon full s) : OutCanon full (execSlipNotice d grp delay s) := by
  unfold execSlipNotice
  extract_lets s2
  have hs2 : StateCanon full s2 := by
    unfold s2
    refine foldl_canon (p := StateCanon full) (fun _ _ h => ?_) hs
    split
    · exact ite_canon (state_setCtx_canon h) h
    · exact h
  clear_value s2
  refine state_modDie_canon hs2 fun _ h => foldl_canon (p := DieCanon full) (fun _ _ h2 => foldl_canon (p := DieCanon full) (fun _ _ h3 => ite_canon h3 (foldl_canon (p := DieCanon full) (fun _ _ h4 => ?_) h3)) h2) h
  extract_lets a
  split
  next e =>
    have k := snd_canon (procLoad_canon h4) e
    extract_lets w
    exact ite_canon (procStore_canon k) k
  next e =>
    have k := snd_canon (procLoad_canon h4) e
    exact k
theorem execFrameQuery_canon {d : DieId} {grp : BitVec 12} {n id : ℕ} {pkg : BitVec 12} {src : DieId} {s : State} (hs : StateCanon full s) : OutCanon full (execFrameQuery d grp n id pkg src s) := by
  unfold execFrameQuery
  exact ite_canon (sendNft_canon hs) (state_modCoe_canon hs)
theorem execFrameGrant_canon {d : DieId} {id : ℕ} {s : State} (hs : StateCanon full s) : OutCanon full (execFrameGrant d id s) := by
  unfold execFrameGrant
  exact state_modCoe_canon hs
theorem barrierMsg_canon {s : State} {d : DieId} {grp : BitVec 12} {m : ℕ} {f : BarMem → BarMem} (hs : StateCanon full s) : StateCanon full (barrierMsg s d grp m f) := by
  unfold barrierMsg
  split
  · exact hs
  · exact ite_canon hs (retimeBars_canon (state_modCoe_canon hs))
theorem execBarrierArrival_canon {d : DieId} {grp : BitVec 12} {m : ℕ} {gen : W32} {s : State} (hs : StateCanon full s) : OutCanon full (execBarrierArrival d grp m gen s) := by
  unfold execBarrierArrival
  exact barrierMsg_canon hs
theorem execBarrierAbsence_canon {d : DieId} {grp : BitVec 12} {m : ℕ} {s : State} (hs : StateCanon full s) : OutCanon full (execBarrierAbsence d grp m s) := by
  unfold execBarrierAbsence
  exact barrierMsg_canon hs
theorem execBarrierPresence_canon {d : DieId} {grp : BitVec 12} {m : ℕ} {s : State} (hs : StateCanon full s) : OutCanon full (execBarrierPresence d grp m s) := by
  unfold execBarrierPresence
  exact barrierMsg_canon hs
theorem execBarrierTimeout_canon {d : DieId} {x : Fin 9} {s : State} (hs : StateCanon full s) : OutCanon full (execBarrierTimeout d x s) := by
  unfold execBarrierTimeout
  extract_lets c lim s2
  have hs2 : StateCanon full s2 := waitEnd_canon hs
  clear_value s2
  split
  · extract_lets ran r
    refine ite_canon hs ?_
    split
    · extract_lets grp g m
      exact runFault_canon (state_setRun_canon hs2)
    · extract_lets i n
      exact runFault_canon hs2
    · exact runFault_canon hs2
    · exact hs2
  · exact hs
theorem mldbStep_canon {s : State} {c : Cur} {r : Run} {o : EOp} (hs : StateCanon full s) : StateCanon full (mldbStep s c r o) := by
  unfold mldbStep
  extract_lets f n p
  refine ite_canon ?_ (ite_canon (unitDo_canon hs (got_bind_canon (srcRow_canon hs) (fun _ h _ => state_modDie_canon h (fun _ h2 => putColumn_canon h2)))) (state_advRun_canon hs))
  split
  · exact startFault_canon hs
  · exact ite_canon (startFault_canon hs) (state_setRun_canon (state_modDie_canon hs (fun _ h => die_modLay_canon h)))
theorem addPass_canon {f : Frag} {t : Tag} {x : AWin} {row : RowVal} {r : ℕ} {d : Die} (hd : DieCanon full d) : DieCanon full (addPass f t x row r d) := by
  unfold addPass
  extract_lets nx kx old new psn d2
  have hd2 : DieCanon full d2 := die_putAccRow_canon hd
  clear_value d2
  exact ite_canon (die_setAccPsn_canon hd2) hd2
theorem chainRow_canon {s : State} {c : Cur} {o : EOp} {use : Bool} (hs : StateCanon full s) : GotCanon full (chainRow s c o use) := by
  unfold chainRow
  extract_lets f
  split
  · exact ite_canon hs trivial
  · extract_lets s2 p
    have hs2 : StateCanon full s2 := state_modDie_canon hs fun _ h => die_modLay_canon h
    clear_value s2
    have hp : StateCanon full p.1 := by
      unfold p
      split
      · exact state_seen_canon hs2
      · exact hs2
    clear_value p
    exact ite_canon hs hp
theorem passStep_canon {s : State} {c : Cur} {r : Run} {o : EOp} {masked : Bool} (hs : StateCanon full s) : StateCanon full (passStep s c r o masked) := by
  unfold passStep
  extract_lets f n use row x
  have hrow : GotCanon full row := ite_canon (chainRow_canon hs) (ite_canon (ite_canon (tileRow_canon hs) hs) (portRow_canon hs))
  clear_value row
  refine ite_canon ?_ (ite_canon (unitDo_canon hs (got_bind_canon hrow (fun _ h _ => ?_))) (state_advRun_canon hs))
  · split
    · exact startFault_canon hs
    · exact state_setRun_canon hs
  · extract_lets s2
    have hs2 : StateCanon full s2 := by
      unfold s2
      refine ite_canon h (state_modDie_canon h (fun _ h2 => ?_))
      extract_lets d d2
      have hd : DieCanon full d := addPass_canon h2
      clear_value d
      have hd2 : DieCanon full d2 := die_countSlot_canon (die_countSlot_canon hd)
      clear_value d2
      refine foldl_canon (p := DieCanon full) ?_ ?_
      · intro x2 b h3
        exact die_modSlot_canon h3 fun _ h4 => h4
      · exact hd2
    clear_value s2
    exact hs2
theorem mzeroStep_canon {s : State} {c : Cur} {r : Run} {o : EOp} (hs : StateCanon full s) : StateCanon full (mzeroStep s c r o) := by
  unfold mzeroStep
  extract_lets f x
  exact ite_canon (startFault_canon hs) (state_advRun_canon (state_modDie_canon hs (fun _ h => foldl_canon (p := DieCanon full) (fun _ _ h2 => die_setAccPsn_canon (die_putAccRow_canon h2)) h)))
theorem state_seenAcc_canon {s : State} {ws : List W32} {psn : Bool} (hs : StateCanon full s) : StateCanon full (s.seenAcc ws psn).1 := by
  unfold State.seenAcc
  extract_lets n
  split
  · exact hs
  · exact hs
theorem clearRow_canon {f : Frag} {x : AWin} {row : ℕ} {d : Die} (hd : DieCanon full d) : DieCanon full (clearRow f x row d) := by
  unfold clearRow
  extract_lets nx d2
  have hd2 : DieCanon full d2 := die_putAccRow_canon hd
  clear_value d2
  exact ite_canon hd (ite_canon (die_setAccPsn_canon hd2) hd2)
theorem mdrainStep_canon {s : State} {c : Cur} {r : Run} {o : EOp} (hs : StateCanon full s) : StateCanon full (mdrainStep s c r o) := by
  unfold mdrainStep
  extract_lets f n w x nx p raw s2 row psn q fin v rw0 outs vals fl s3 one
  have hs2 : StateCanon full s2 := ite_canon (state_modSlot_canon hs (fun _ h => slot_modTile_canon h (fun _ h2 => tile_start_canon h2))) hs
  clear_value s2
  have hq : StateCanon full q.1 := state_seenAcc_canon hs
  clear_value q
  have hfin : ∀ (s : State), StateCanon full s → ∀ (r : Run) (k : ℕ) (fl : Flg), GotCanon full (fin s r k fl) := fun _ h _ _ _ => state_modDie_canon h fun _ h2 => clearRow_canon h2
  clear_value fin
  have hs3 : StateCanon full s3 := state_modSlot_canon hq fun _ h => slot_modTile_canon h (fun _ h2 => foldl_canon (p := TileCanon) (fun _ _ h3 => tile_put_canon h3) h2)
  clear_value s3
  refine ite_canon ?_ (ite_canon (unitDo_canon hs (ite_canon (got_bind_canon (rqPush_canon hq) (fun _ h _ => hfin _ h _ _ _)) (ite_canon (hfin _ hs3 _ _ _) (ite_canon ?_ (got_bind_canon
      (pushRows_canon hq) (fun _ h _ => hfin _ h _ _ _)))))) (state_advRun_canon hs))
  · split
    · exact startFault_canon hs
    · exact ite_canon (startFault_canon hs) (state_setRun_canon hs2)
  · split
    · exact trivial
    · extract_lets s4
      have hs4 : StateCanon full s4 := state_modDie_canon hq fun _ h => die_modLay_canon h
      clear_value s4
      exact ite_canon trivial (ite_canon hs4 (hfin _ hs4 _ _ _))
theorem execMldb_canon {o : EOp} {s : State} (hs : StateCanon full s) : OutCanon full (execMldb o s) := by
  unfold execMldb
  exact engDo_canon (fun _ h _ _ => mldbStep_canon h) hs
theorem execMcb_canon {o : EOp} {s : State} (hs : StateCanon full s) : OutCanon full (execMcb o s) := by
  unfold execMcb
  exact engDo_canon (fun _ h _ _ => mcbStep_canon h) hs
theorem execMsemi_canon {o : EOp} {s : State} (hs : StateCanon full s) : OutCanon full (execMsemi o s) := by
  unfold execMsemi
  exact engDo_canon (fun _ h _ _ => state_advRun_canon (state_modDie_canon h (fun _ h2 => die_modLay_canon h2))) hs
theorem execMmul_canon {o : EOp} {s : State} (hs : StateCanon full s) : OutCanon full (execMmul o s) := by
  unfold execMmul
  exact engDo_canon (fun _ h _ _ => passStep_canon h) hs
theorem execMmulm_canon {o : EOp} {s : State} (hs : StateCanon full s) : OutCanon full (execMmulm o s) := by
  unfold execMmulm
  exact engDo_canon (fun _ h _ _ => passStep_canon h) hs
theorem execMzero_canon {o : EOp} {s : State} (hs : StateCanon full s) : OutCanon full (execMzero o s) := by
  unfold execMzero
  exact engDo_canon (fun _ h _ _ => mzeroStep_canon h) hs
theorem execMdrain_canon {o : EOp} {s : State} (hs : StateCanon full s) : OutCanon full (execMdrain o s) := by
  unfold execMdrain
  exact engDo_canon (fun _ h _ _ => mdrainStep_canon h) hs
theorem mxeStep_canon {s : State} {c : Cur} {r : Run} {a : Instr} (hs : StateCanon full s) : StateCanon full (mxeStep s c r a) := by
  unfold mxeStep
  split
  · exact mldbStep_canon hs
  · exact mcbStep_canon hs
  · exact passStep_canon hs
  · exact passStep_canon hs
  · exact mdrainStep_canon hs
  · exact hs
theorem execMatrixPass_canon {d : DieId} {k j : SlotId} {e : ArrErr} {s : State} (hs : StateCanon full s) : OutCanon full (execMatrixPass d k j e s) := by
  unfold execMatrixPass
  extract_lets c f
  split
  · exact hs
  · split
    · exact hs
    · extract_lets ready
      exact ite_canon hs (ite_canon (withError_canon hs (fun _ h => mxeStep_canon h)) (mxeStep_canon hs))
theorem execChainRowSend_canon {d : DieId} {k : SlotId} {s : State} (hs : StateCanon full s) : OutCanon full (execChainRowSend d k s) := by
  unfold execChainRowSend
  extract_lets c
  split
  · exact hs
  · split
    · exact ite_canon (mdrainStep_canon hs) hs
    · exact hs
theorem die_csPoke_canon {d : Die} {ls : List (ℕ × ℕ)} {va : ℕ} {bs : List Byte} {psn : Bool} (hd : DieCanon full d) : DieCanon full (d.csPoke ls va bs psn) := by
  unfold Die.csPoke
  refine foldl_canon (p := DieCanon full) (fun _ _ h => ?_) hd
  split
  · exact die_poke_canon h
  · exact h

end Sys2Proof.Proofs
end

section
/-! SUPPORT. The scheduler's tables, the publish of records and the leases keep the canonical form (O60). -/

namespace Sys2Proof.Proofs

open Sys2Proof Sys2Proof.Machine Sys2Proof.Laws

variable {full : Prop}

/-! ## Inputs of a descriptor (R309) -/

theorem readTab_canon {dn : DieId} {asid : Half} {n a : ℕ} {prev : Option (ℕ × ℕ × ℕ)} {d : Die} (hd : DieCanon full d) : DieCanon full (readTab dn asid n a prev d).2 := by
  induction n generalizing a prev d with
  | zero => exact hd
  | succ n ih =>
    have hp : DieCanon full (procLoad dn d asid a 32).2 := procLoad_canon hd
    unfold readTab
    split
    next e =>
      rw [e] at hp
      exact hp
    next e =>
      rw [e] at hp
      split
      · exact hp
      · split
        · split
          · exact hp
          · exact ih hp
        · exact ih hp

/-! ## Slots leased and picked up (R25, R315) -/

theorem tileCanon_fresh : TileCanon Tile.fresh := ⟨rfl, rfl⟩
theorem slot_fresh_canon {t : Slot} (ht : t.tiles = .replicate 16 Tile.fresh) (hb : t.bank = Bank.fresh) : SlotCanon full t := by
  intro _
  rw [ht, hb]
  refine ⟨fun _ => ?_, rfl, rfl, rfl, fun _ => ?_⟩
  · rw [vget_replicate]
    exact tileCanon_fresh
  · unfold Bank.fresh
    rw [vget_replicate]
    rfl
theorem slot_lease_canon {t : Slot} {o : Owner} : SlotCanon full (t.lease o) := slot_fresh_canon rfl rfl
theorem slot_pickUp_canon {t : Slot} {l : Launch} {b i : ℕ} {v : RecVal} (ht : SlotCanon full t) : SlotCanon full (t.pickUp l b i v) := by
  intro h
  obtain ⟨_, bank⟩ := ht h
  refine ⟨fun n => ?_, bank⟩
  change TileCanon (vget (.replicate 16 Tile.fresh) n)
  rw [vget_replicate]
  exact tileCanon_fresh
theorem die_leaseBlk_canon {d : Die} {l : Launch} {b : Blk} {ks : List SlotId} (hd : DieCanon full d) : DieCanon full (d.leaseBlk l b ks) := by
  unfold Die.leaseBlk
  extract_lets d1 d2 d3
  have h1 : DieCanon full d1 := by
    unfold d1
    refine foldl_canon (p := DieCanon full) (fun _ _ h => ?_) hd
    split
    · exact die_modSlot_canon h fun _ _ => slot_lease_canon
    · exact h
  clear_value d1
  have h2 : DieCanon full d2 := by
    unfold d2
    split
    · exact die_putFrag_canon h1
    · exact h1
    · exact die_putRel_canon h1
  clear_value d2
  exact h2

/-! ## The fault table of a save area (R320): its places named, so that the kernel does not compute with them -/

/-- An entry of a table, and its strand's bit in the mask at `m`, written at places of their own. -/
def tableAt (dn : DieId) (asid : Half) (p m a v : ℕ) (d : Die) : Die :=
  let d := procStore dn d asid p (natLe 2 v)
  match procLoad dn d asid m 2 with
  | (some bs, d) => procStore dn d asid m (natLe 2 (if leNat bs / 2 ^ a % 2 = 1 then leNat bs else leNat bs + 2 ^ a))
  | (none, d) => d
theorem tableSet_eq {d : Die} {dn : DieId} {l : Launch} {b : Blk} {sidx a v : ℕ} : d.tableSet dn l b sidx a v = tableAt dn l.asid (l.saveAt b.l + slotRegion sidx + 0x480 + 2 * a) (l.saveAt b.l + 0x40 + 2 * sidx) a v d := rfl
theorem tableAt_canon {dn : DieId} {asid : Half} {p m a v : ℕ} {d : Die} (hd : DieCanon full d) : DieCanon full (tableAt dn asid p m a v d) := by
  unfold tableAt
  extract_lets d2
  have hd2 : DieCanon full d2 := procStore_canon hd
  clear_value d2
  have hl : DieCanon full (procLoad dn d2 asid m 2).2 := procLoad_canon hd2
  split
  next e =>
    rw [e] at hl
    exact procStore_canon hl
  next e =>
    rw [e] at hl
    exact hl
theorem die_tableSet_canon {d : Die} {dn : DieId} {l : Launch} {b : Blk} {sidx a v : ℕ} (hd : DieCanon full d) : DieCanon full (d.tableSet dn l b sidx a v) := by
  rw [tableSet_eq]
  exact tableAt_canon hd
theorem execKickset_canon {d : DieId} {i : Byte} {s : State} (hs : StateCanon full s) : OutCanon full (execKickset d i s) := by
  unfold execKickset
  exact state_modSched_canon hs fun _ h => h
theorem die_jOpen_canon {d : Die} {dn : DieId} {kind w8 w10 w18 : ℕ} (hd : DieCanon full d) : DieCanon full (d.jOpen dn kind w8 w10 w18) := by
  unfold Die.jOpen
  extract_lets i d2 src
  have hd2 : DieCanon full d2 := die_poke_canon hd
  clear_value d2
  have hsrc : SchedCanon full src := hd2.sched
  clear_value src
  exact ite_canon hd (die_canon hd2.mem hd2.proofs hsrc hd2.slot)
theorem die_jDone_canon {d : Die} {dn : DieId} {i : ℕ} (hd : DieCanon full d) : DieCanon full (d.jDone dn i) := by
  unfold Die.jDone
  exact ite_canon (die_poke_canon hd) hd
theorem die_jDoneLast_canon {d : Die} {dn : DieId} (hd : DieCanon full d) : DieCanon full (d.jDoneLast dn) := by
  unfold Die.jDoneLast
  exact die_jDone_canon hd
theorem die_jSwapDone_canon {d : Die} {dn : DieId} {cxa : ℕ} (hd : DieCanon full d) : DieCanon full (d.jSwapDone dn cxa) := by
  unfold Die.jSwapDone
  exact elim_canon hd fun _ => die_jDone_canon hd
theorem die_expose_canon {dn : DieId} {d : Die} {l : Launch} {fl : Bool} (hd : DieCanon full d) : DieCanon full (Die.expose dn d l fl) := by
  unfold Die.expose
  extract_lets r z sz tail acc diff
  exact ite_canon hd (ite_canon (die_setRf_canon hd) (die_setRf_canon (die_poke_canon hd)))
theorem die_report_canon {dn : DieId} {d : Die} {mute : Bool} {l : Launch} {fl : Bool} (hd : DieCanon full d) : DieCanon full (Die.report dn d mute l fl) := by
  unfold Die.report
  extract_lets v
  exact ite_canon hd (die_expose_canon (ite_canon hd (procStore_canon hd)))
theorem state_tellPair_canon {s t : State} {d : DieId} (_hs : StateCanon full s) (ht : StateCanon full t) : StateCanon full (s.tellPair t d) := by
  unfold State.tellPair
  exact ite_canon ht (state_pairStores_canon ht)
theorem die_release_canon {dn : DieId} {d : Die} {lid : ℕ} {skip : ℕ → Bool} (hd : DieCanon full d) : DieCanon full (Die.release dn d lid skip) := by
  unfold Die.release
  extract_lets ls
  refine foldl_canon (p := DieCanon full) (fun _ _ h => ?_) hd
  split
  · exact h
  · extract_lets d3
    have hd3 : DieCanon full d3 := die_canon h.mem h.proofs (sched_modLaunch_canon h.sched) h.slot
    clear_value d3
    refine ite_canon h ?_
    split
    · exact ite_canon (die_nodeReady_canon hd3) hd3
    · exact hd3
theorem die_completeNode_canon {dn : DieId} {d : Die} {mute : Bool} {lid : ℕ} (hd : DieCanon full d) : DieCanon full (Die.completeNode dn d mute lid) := by
  unfold Die.completeNode
  split
  · exact hd
  · extract_lets n d2 d3 d4
    have hd2 : DieCanon full d2 := die_jOpen_canon hd
    clear_value d2
    have hd3 : DieCanon full d3 := die_canon hd2.mem hd2.proofs (sched_modLaunch_canon hd2.sched) hd2.slot
    clear_value d3
    have hd4 : DieCanon full d4 := die_reeval_canon (die_release_canon hd3)
    clear_value d4
    exact ite_canon hd (die_jDoneLast_canon (die_report_canon hd4))
theorem die_failMark_canon {dn : DieId} {d : Die} {mute : Bool} {lid : ℕ} (hd : DieCanon full d) : DieCanon full (Die.failMark dn d mute lid) := by
  unfold Die.failMark
  split
  · exact hd
  · extract_lets on d2
    have hd2 : DieCanon full d2 := die_canon hd.mem hd.proofs (sched_modLaunch_canon hd.sched) hd.slot
    clear_value d2
    exact ite_canon hd (ite_canon (die_report_canon hd2) hd2)
theorem readDesc_canon {dn : DieId} {d : Die} {asid : Half} {a : ℕ} (hd : DieCanon full d) : DieCanon full (readDesc dn d asid a).2 := by
  unfold readDesc
  split
  · exact hd
  · split
    next e =>
      have k := snd_canon (procLoad_canon hd) e
      exact k
    next e =>
      have k := snd_canon (procLoad_canon hd) e
      extract_lets w ver sh sw r
      have hr : DieCanon full r.2 := readTab_canon k
      clear_value r
      split
      · exact k
      · exact hr
theorem acceptRecord_canon {dn : DieId} {d : Die} {mute : Bool} {p : Proc} {pid : Byte} {bs : List Byte} (hd : DieCanon full d) : DieCanon full (acceptRecord dn d mute p pid bs).2 := by
  unfold acceptRecord
  extract_lets w ts node np pn cls gx gy gz
  split
  · exact hd
  · split
    next e =>
      have k := snd_canon (readDesc_canon hd) e
      exact k
    next e =>
      have k := snd_canon (readDesc_canon hd) e
      extract_lets pl preds m l src d2
      have hsrc : SchedCanon full src := k.sched
      clear_value src
      have hd2 : DieCanon full d2 := die_canon k.mem k.proofs hsrc k.slot
      clear_value d2
      split
      · exact k
      · split
        · exact k
        · split
          · exact k
          · split
            · exact k
            · split
              · exact die_failMark_canon hd2
              · exact ite_canon (die_nodeReady_canon hd2) hd2
theorem die_skipProc_canon {d : Die} {pid : Byte} {cause : ℕ} (hd : DieCanon full d) : DieCanon full (d.skipProc pid cause) := by
  unfold Die.skipProc
  exact die_setReg_canon hd
theorem acceptAt_canon {s : State} {d : DieId} {p : Proc} {pid : Byte} {off : ℕ} (hs : StateCanon full s) : StateCanon full (acceptAt s d p pid off) := by
  unfold acceptAt
  extract_lets a bs s2 r s3 s4
  have hs2 : StateCanon full s2 := state_modDie_canon hs fun _ h => die_jOpen_canon h
  clear_value s2
  have hr : DieCanon full r.2 := acceptRecord_canon (hs2.die _)
  clear_value r
  have hs3 : StateCanon full s3 := state_tellPair_canon hs2 (state_modDie_canon hs2 (fun _ _ => hr))
  clear_value s3
  have hs4 : StateCanon full s4 := by
    unfold s4
    split
    · exact ite_canon (state_tellPair_canon hs3 (state_modDie_canon hs3 (fun _ h => acceptRecord_canon h))) hs3
    · exact hs3
  clear_value s4
  exact state_modDie_canon hs4 fun _ h => die_jDoneLast_canon (die_poke_canon (die_poke_canon h))
theorem acceptNext_canon {d : DieId} {p : Proc} {pid : Byte} {off : ℕ} {s : State} (hs : StateCanon full s) : StateCanon full (acceptNext d p pid off s).2 := by
  unfold acceptNext
  split
  · exact hs
  · split
    · exact state_modDie_canon hs fun _ h => die_skipProc_canon h
    · exact acceptAt_canon hs
theorem kickStep_canon {s : State} {d : DieId} {pid : Byte} {tail off : ℕ} (hs : StateCanon full s) : StateCanon full (kickStep s d pid tail off) := by
  unfold kickStep
  extract_lets src p
  split
  · exact state_modDie_canon hs fun _ h => die_skipProc_canon h
  · split
    next e =>
      have k := snd_canon (acceptNext_canon hs) e
      exact ite_canon k (state_modSched_canon k (fun _ h => h))
    next e =>
      have k := snd_canon (acceptNext_canon hs) e
      exact k
theorem execKickPass_canon {d : DieId} {s : State} (hs : StateCanon full s) : OutCanon full (execKickPass d s) := by
  unfold execKickPass
  extract_lets y
  have hy : DieCanon full y := hs.die _
  clear_value y
  refine ite_canon hs ?_
  split
  · exact kickStep_canon (state_modSched_canon hs (fun _ h => h))
  · refine ite_canon hs ?_
    split
    · exact hs
    · extract_lets p
      exact kickStep_canon (state_modSched_canon hs (fun _ h => h))
theorem beginStore_canon {s : State} {c : Cur} {r : Run} {o : EOp} {bad : Option Word} {chk : Bool} (hs : StateCanon full s) : GotCanon full (beginStore s c r o bad chk) := by
  unfold beginStore
  split
  · exact hs
  · exact hs
  · exact hs
theorem storeSrc_canon {c : Cur} {r : Run} {o : EOp} {s : State} {i : ℕ} (hs : StateCanon full s) : GotCanon full (storeSrc c r o s i) := by
  unfold storeSrc
  exact tileRow_canon hs
theorem accPiece_canon {c : Cur} {r : Run} {o : EOp} {s : State} {i : ℕ} (hs : StateCanon full s) : GotCanon full (accPiece c r o s i) := by
  unfold accPiece
  extract_lets p b ws q
  have hq : StateCanon full q.1 := state_seen_canon hs
  clear_value q
  exact hq
theorem strStep_canon {s : State} {c : Cur} {r : Run} {o : EOp} (hs : StateCanon full s) : StateCanon full (strStep s c r o) := by
  unfold strStep
  extract_lets n bad
  have hbad : GotCanon full bad := ite_canon hs (beginStore_canon hs)
  clear_value bad
  exact ite_canon (storeStep_canon hs hbad (fun _ h _ => accPiece_canon h)) (storeStep_canon hs (beginStore_canon hs) (fun _ h _ => storeSrc_canon h))
theorem sttStep_canon {s : State} {c : Cur} {r : Run} {o : EOp} (hs : StateCanon full s) : StateCanon full (sttStep s c r o) := by
  unfold sttStep
  exact storeStep_canon hs (beginStore_canon hs) fun _ h _ => storeSrc_canon h
theorem beginStrec_canon {s : State} {c : Cur} {r : Run} {o : EOp} (hs : StateCanon full s) : GotCanon full (beginStrec s c r o) := by
  unfold beginStrec
  extract_lets va
  refine got_bind_canon (recordCopy_canon hs) fun _ h _ => ite_canon h ?_
  split
  · extract_lets src
    exact state_setRun_canon h
  · extract_lets src
    refine ite_canon (state_setRun_canon h) ?_
    split
    · exact state_setRun_canon h
    · exact h
theorem strecStep_canon {s : State} {c : Cur} {r : Run} {o : EOp} (hs : StateCanon full s) : StateCanon full (strecStep s c r o) := by
  unfold strecStep
  exact storeStep_canon hs (beginStrec_canon hs) fun _ h _ => storeSrc_canon h
theorem beginStx_canon {s : State} {c : Cur} {r : Run} {o : EOp} (hs : StateCanon full s) : GotCanon full (beginStx s c r o) := by
  unfold beginStx
  split
  · exact hs
  · refine got_bind_canon (indexRow_canon hs) fun _ h _ => ?_
    extract_lets r2
    split
    · exact h
    · exact h
theorem stxStep_canon {s : State} {c : Cur} {r : Run} {o : EOp} (hs : StateCanon full s) : StateCanon full (stxStep s c r o) := by
  unfold stxStep
  exact storeStep_canon hs (beginStx_canon hs) fun _ h _ => got_bind_canon (storeSrc_canon h) (fun _ h2 _ => h2)
theorem stscStep_canon {s : State} {c : Cur} {r : Run} {o : EOp} (hs : StateCanon full s) : StateCanon full (stscStep s c r o) := by
  unfold stscStep
  exact storeStep_canon hs (beginStore_canon hs) fun _ h _ => got_bind_canon (storeSrc_canon h) (fun _ h2 _ => h2)
theorem stvStep_canon {s : State} {c : Cur} {r : Run} {o : EOp} (hs : StateCanon full s) : StateCanon full (stvStep s c r o) := by
  unfold stvStep
  refine ite_canon ?_ (ite_canon (unitDo_canon hs (got_bind_canon (storeSrc_canon hs) (fun _ h _ => got_bind_canon (portPush_canon h) (fun _ h2 _ => h2)))) (state_advRun_canon hs))
  split
  · exact startFault_canon hs
  · exact startFault_canon hs
  · exact state_setRun_canon hs
theorem execStr_canon {o : EOp} {s : State} (hs : StateCanon full s) : OutCanon full (execStr o s) := by
  unfold execStr
  exact engDo_canon (fun _ h _ _ => strStep_canon h) hs
theorem execStt_canon {o : EOp} {s : State} (hs : StateCanon full s) : OutCanon full (execStt o s) := by
  unfold execStt
  exact engDo_canon (fun _ h _ _ => sttStep_canon h) hs
theorem execStrec_canon {o : EOp} {s : State} (hs : StateCanon full s) : OutCanon full (execStrec o s) := by
  unfold execStrec
  exact engDo_canon (fun _ h _ _ => strecStep_canon h) hs
theorem execStx_canon {o : EOp} {s : State} (hs : StateCanon full s) : OutCanon full (execStx o s) := by
  unfold execStx
  exact engDo_canon (fun _ h _ _ => stxStep_canon h) hs
theorem execStsc_canon {o : EOp} {s : State} (hs : StateCanon full s) : OutCanon full (execStsc o s) := by
  unfold execStsc
  exact engDo_canon (fun _ h _ _ => stscStep_canon h) hs
theorem execStv_canon {o : EOp} {s : State} (hs : StateCanon full s) : OutCanon full (execStv o s) := by
  unfold execStv
  exact engDo_canon (fun _ h _ _ => stvStep_canon h) hs
theorem storeRow_canon {s : State} {d : DieId} {k : SlotId} {e : ArrErr} (hs : StateCanon full s) : StateCanon full (storeRow s d k e) := by
  unfold storeRow
  extract_lets c
  split
  · exact hs
  · extract_lets go
    have hgo : ∀ (o : EOp) (f : State → Cur → Run → EOp → State),   (∀ (a : State), StateCanon full a → ∀ (a_1 : Cur) (a_2 : Run) (a_3 : EOp), StateCanon full
        (f a a_1 a_2 a_3)) →     StateCanon full (go o f) := fun _ _ h => ite_canon (withError_canon hs (fun _ h2 => h _ h2 _ _ _)) (h _ hs _ _ _)
    clear_value go
    refine ite_canon hs ?_
    split
    · exact hgo _ _ fun _ h _ _ _ => strStep_canon h
    · exact hgo _ _ fun _ h _ _ _ => sttStep_canon h
    · exact hgo _ _ fun _ h _ _ _ => strecStep_canon h
    · exact hgo _ _ fun _ h _ _ _ => stxStep_canon h
    · exact hgo _ _ fun _ h _ _ _ => stscStep_canon h
    · exact hgo _ _ fun _ h _ _ _ => stvStep_canon h
    · exact hs
theorem execStoreRowRead_canon {d : DieId} {k : SlotId} {s : State} (hs : StateCanon full s) : OutCanon full (execStoreRowRead d k s) := by
  unfold execStoreRowRead
  exact storeRow_canon hs
theorem execPubl_canon {o : EOp} {s : State} (hs : StateCanon full s) : OutCanon full (execPubl o s) := by
  unfold execPubl
  refine engDo_canon (fun _ h _ _ => ite_canon h ?_) hs
  extract_lets va
  refine ite_canon (startFault_canon h) ?_
  split
  next e =>
    have k := XCanon.wait e (access_canon (h.die _))
    exact state_modDie_canon h fun _ _ => k
  next e =>
    have k := XCanon.fault e (access_canon (h.die _))
    exact startFault_canon (state_modDie_canon h (fun _ _ => k))
  next e =>
    have k := XCanon.ok e (access_canon (h.die _))
    exact state_setRun_canon (state_modDie_canon h (fun _ _ => k))
theorem die_markBulk_canon {d : Die} {dn : DieId} {k : SlotId} (hd : DieCanon full d) : DieCanon full (d.markBulk dn k) := by
  unfold Die.markBulk
  extract_lets d2
  have hd2 : DieCanon full d2 := by
    unfold d2
    split
    · exact die_canon hd.mem hd.proofs (sched_modLaunch_canon hd.sched) hd.slot
    · exact hd
  clear_value d2
  exact die_addReg_canon hd2
theorem die_flipRec_canon {d : Die} {pa : ℕ} (hd : DieCanon full d) : DieCanon full (d.flipRec pa) := by
  unfold Die.flipRec
  extract_lets w g
  exact die_poke_canon (die_poke_canon hd)
theorem publishAt_canon {s : State} {d : DieId} {k : SlotId} {pa : ℕ} {x : TileRec} (hs : StateCanon full s) : StateCanon full (publishAt s d k pa x) := by
  unfold publishAt
  extract_lets s2 v s3 n s4 s5
  have hs2 : StateCanon full s2 := state_pairStores_canon hs
  clear_value s2
  have hs3 : StateCanon full s3 := by
    unfold s3
    refine state_modDie_canon hs2 fun y h => ?_
    extract_lets y2 y3 l
    have hy2 : DieCanon full y2 := die_countDie_canon (die_flipRec_canon h)
    clear_value y2
    have hy3 : DieCanon full y3 := by
      unfold y3
      refine foldl_canon (p := DieCanon full) ?_ ?_
      · intro x2 b h2
        exact die_modSlot_canon h2 fun _ h3 => h3
      · exact hy2
    clear_value y3
    refine ite_canon hy3 ?_
    clear_value v s3 n s4 s5 l
    split
    · exact ite_canon (die_reeval_canon (die_canon hy3.mem (fun f => spWf_spSet 0 _ _ _ (hy3.proofs f)) hy3.sched hy3.slot)) (die_markBulk_canon hy3)
    · exact hy3
  clear_value s3
  have hs4 : StateCanon full s4 := state_modDie_canon hs3 fun _ h => die_bump_canon h
  clear_value s4
  have hs5 : StateCanon full s5 := foldl_canon (p := StateCanon full) (fun _ _ h2 => state_send_canon h2) hs4
  clear_value s5
  exact ite_canon (state_beats_canon hs5) hs3
theorem execPublishStep_canon {d : DieId} {k : SlotId} {s : State} (hs : StateCanon full s) : OutCanon full (execPublishStep d k s) := by
  unfold execPublishStep
  extract_lets c a
  split
  · exact hs
  · split
    · extract_lets va
      refine ite_canon hs (ite_canon hs ?_)
      split
      next e =>
        have k2 := XCanon.wait e (access_canon (hs.die _))
        exact state_modDie_canon hs fun _ _ => k2
      next e =>
        have k2 := XCanon.fault e (access_canon (hs.die _))
        exact startFault_canon (state_modDie_canon hs (fun _ _ => k2))
      next e =>
        have k2 := XCanon.ok e (access_canon (hs.die _))
        extract_lets s2
        have hs2 : StateCanon full s2 := state_modDie_canon hs fun _ _ => k2
        clear_value s2
        split
        · refine ite_canon hs2 (ite_canon (startFault_canon hs2) ?_)
          split
          · exact startFault_canon hs2
          · exact state_advRun_canon (publishAt_canon (state_modDie_canon hs2 (fun _ h => die_markDirty_canon h)))
        · exact hs2
    · exact hs
theorem slot_askStop_canon {t : Slot} (ht : SlotCanon full t) : SlotCanon full t.askStop := by
  unfold Slot.askStop
  extract_lets t2 src
  have ht2 : SlotCanon full t2 := slot_discard_canon ht
  clear_value t2
  exact ht2
theorem slot_liftStop_canon {t : Slot} (ht : SlotCanon full t) : SlotCanon full t.liftStop := by
  unfold Slot.liftStop
  extract_lets src
  exact ht
theorem tellGroups_canon {s : State} {d : DieId} {k : KCtx} {absent : Bool} (hs : StateCanon full s) : StateCanon full (tellGroups s d k absent) := by
  unfold tellGroups
  exact foldl_canon (p := StateCanon full) (fun _ _ h => sendNft_canon h) hs
theorem resumeCtx_canon {s : State} {d : DieId} {k : SlotId} (hs : StateCanon full s) : StateCanon full (resumeCtx s d k) := by
  unfold resumeCtx
  refine answerQueries_canon (foldl_canon (p := StateCanon full) (fun _ _ h => ?_) hs)
  split
  · extract_lets s3
    have hs3 : StateCanon full s3 := state_setCtx_canon h
    clear_value s3
    exact ite_canon (ite_canon (tellGroups_canon hs3) hs3) h
  · exact h
theorem resumeBlk_canon {s : State} {d : DieId} {lid : ℕ} {b : Blk} (hs : StateCanon full s) : StateCanon full (resumeBlk s d lid b) := by
  unfold resumeBlk
  extract_lets s2
  have hs2 : StateCanon full s2 := foldl_canon (p := StateCanon full) (fun _ _ h => resumeCtx_canon (state_modSlot_canon h (fun _ h2 => slot_liftStop_canon h2))) hs
  clear_value s2
  exact state_modSched_canon hs2 fun _ h => sched_modBlk_canon h
theorem stopCtx_canon {s : State} {d : DieId} {mine : KCtx → Bool} (hs : StateCanon full s) : StateCanon full (stopCtx s d mine) := by
  unfold stopCtx
  refine foldl_canon (p := StateCanon full) (fun _ _ h => ?_) hs
  split
  · extract_lets told s3
    have hs3 : StateCanon full s3 := state_setCtx_canon h
    clear_value s3
    exact ite_canon (ite_canon (tellGroups_canon hs3) hs3) h
  · exact h
theorem die_rewind_canon {d : Die} {k : SlotId} (hd : DieCanon full d) : DieCanon full (d.rewind k) := by
  unfold Die.rewind
  extract_lets c
  split
  · exact die_modAg_canon (die_setRun_canon hd)
  · exact hd
theorem die_rereadChunk_canon {d : Die} {k : SlotId} (hd : DieCanon full d) : DieCanon full (d.rereadChunk k) := by
  unfold Die.rereadChunk
  extract_lets c
  exact ite_canon (die_modAg_canon hd) hd
theorem ackStop_canon {s : State} {d : DieId} {k : SlotId} {a : ℕ} (hs : StateCanon full s) : StateCanon full (ackStop s d k a) := by
  unfold ackStop
  extract_lets i t s2 s3
  have ht : SlotCanon full t := hs.slot _ _
  clear_value t
  have hs2 : StateCanon full s2 := ite_canon (state_modDie_canon hs (fun _ h => die_rewind_canon h)) (ite_canon (state_modDie_canon hs (fun _ h => die_rereadChunk_canon h)) hs)
  clear_value s2
  have hs3 : StateCanon full s3 := state_modSlot_canon hs2 fun _ h => h
  clear_value s3
  exact ite_canon hs (ite_canon (stopCtx_canon hs3) hs3)
theorem state_askRest_canon {s : State} {d : DieId} {k : SlotId} (hs : StateCanon full s) : StateCanon full (s.askRest d k) := by
  unfold State.askRest
  exact ite_canon (state_modSlot_canon hs (fun _ h => h)) hs
theorem execEngineStopAck_canon {d : DieId} {a : Agent} {s : State} (hs : StateCanon full s) : OutCanon full (execEngineStopAck d a s) := by
  unfold execEngineStopAck
  extract_lets p
  exact foldl_canon (p := StateCanon full) (fun _ _ h => ackStop_canon (ite_canon (state_askRest_canon h) h)) hs
theorem collFault_canon {s : State} {d : DieId} {k : SlotId} {code : ℕ} {info addr : Word} (hs : StateCanon full s) : StateCanon full (collFault s d k code info addr) := by
  unfold collFault
  exact takeFault_canon hs
theorem execTerminalFaultStop_canon {d : DieId} {n : ℕ} {s : State} (hs : StateCanon full s) : OutCanon full (execTerminalFaultStop d n s) := by
  unfold execTerminalFaultStop
  extract_lets p
  split
  · exact hs
  · split
    · exact hs
    · extract_lets s2
      have hs2 : StateCanon full s2 := foldl_canon (p := StateCanon full) (fun _ _ h => ite_canon h (state_modSlot_canon h (fun _ h2 => slot_askStop_canon h2))) hs
      clear_value s2
      refine ite_canon hs (ite_canon (ite_canon hs (state_modSched_canon hs2 (fun _ h => sched_modBlk_canon h))) (ite_canon ?_ hs))
      split
      · exact hs
      · refine ite_canon hs ?_
        split
        next e =>
          have k := XCanon.ok e (putImage_canon (hs.die _))
          exact state_modSched_canon (state_modDie_canon hs (fun _ _ => k)) fun _ h => sched_modBlk_canon h
        · exact hs
        next e =>
          have k := XCanon.fault e (putImage_canon (hs.die _))
          exact collFault_canon (state_modDie_canon hs (fun _ _ => k))
theorem execFaultPost_canon {d : DieId} {s : State} (hs : StateCanon full s) : OutCanon full (execFaultPost d s) := by
  unfold execFaultPost
  extract_lets y i
  have hy : DieCanon full y := hs.die _
  clear_value y
  refine ite_canon hs ?_
  split
  · exact hs
  · extract_lets m s2
    have hs2 : StateCanon full s2 := by
      unfold s2
      refine state_modDie_canon hs fun y2 h => ?_
      extract_lets y3 y4
      have hy3 : DieCanon full y3 := die_poke_canon h
      clear_value y3
      have hy4 : DieCanon full y4 := die_setRf_canon hy3
      clear_value y4
      exact hy4
    clear_value s2
    split
    · exact state_modSlot_canon hs2 fun _ h => h
    · extract_lets s3
      have hs3 : StateCanon full s3 := state_modSched_canon hs2 fun _ h => sched_modBlk_canon h
      clear_value s3
      split
      · exact hs3
      · split
        · exact ite_canon (state_modDie_canon hs3 (fun _ h => die_tableSet_canon h)) hs3
        · exact hs3
theorem markHomes_canon {s : State} {d : DieId} {a : Agent} {rs : List Sent} (hs : StateCanon full s) : StateCanon full (markHomes s d a rs) := by
  unfold markHomes
  extract_lets s2 fabs
  have hs2 : StateCanon full s2 := foldl_canon (p := StateCanon full) (fun _ _ h2 => state_send_canon h2) hs
  clear_value s2
  exact foldl_canon (p := StateCanon full) (fun _ _ h => sendNft_canon h) hs2
theorem resendAll_canon {s : State} {d : DieId} {a : Agent} (hs : StateCanon full s) : StateCanon full (resendAll s d a) := by
  unfold resendAll
  extract_lets rs s2 here isRd s3
  have hs2 : StateCanon full s2 := markHomes_canon hs
  clear_value s2
  have hs3 : StateCanon full s3 := state_modAg_canon hs2
  clear_value s3
  exact foldl_canon (p := StateCanon full) (fun _ _ h => resendOne_canon h) hs3
theorem contAgent_canon {s : State} {d : DieId} {k : SlotId} {a code : ℕ} (hs : StateCanon full s) : StateCanon full (contAgent s d k a code) := by
  unfold contAgent
  extract_lets g s2 s3 s4
  have hs2 : StateCanon full s2 := ite_canon (state_modCtl_canon hs) hs
  clear_value s2
  have hs3 : StateCanon full s3 := by
    unfold s3
    refine ite_canon ?_ hs2
    split
    · extract_lets s5 old
      have hs5 : StateCanon full s5 := by
        unfold s5
        split
        · exact state_modSlot_canon hs2 fun _ h => slot_dropRec_canon h
        · exact hs2
      clear_value s5
      exact state_modDie_canon hs5 fun _ h => die_setRun_canon h
    · exact hs2
  clear_value s3
  have hs4 : StateCanon full s4 := state_modSlot_canon hs3 fun _ h => h
  clear_value s4
  exact ite_canon hs4 (resendAll_canon hs4)
theorem die_traceTeam_canon {d : Die} {dn : DieId} {l : Launch} {ks : List SlotId} {stop : Bool} (hd : DieCanon full d) : DieCanon full (d.traceTeam dn l ks stop) := by
  unfold Die.traceTeam
  exact trcRecord_canon hd
theorem die_evalClass_canon {d : Die} {dn : DieId} (hd : DieCanon full d) : DieCanon full (d.evalClass dn) := by
  unfold Die.evalClass
  extract_lets leased mem
  exact die_setRf_canon hd
theorem die_pmPut_canon {d : Die} {a : ℕ} {bs : List Byte} (hd : DieCanon full d) : DieCanon full (d.pmPut a bs) := by
  unfold Die.pmPut
  exact ite_canon (die_pokes_canon hd) hd
theorem die_liveSets_canon {d : Die} {dn : DieId} (hd : DieCanon full d) : DieCanon full (d.liveSets dn) := by
  unfold Die.liveSets
  extract_lets now gone d2 new src
  have hd2 : DieCanon full d2 := by
    unfold d2
    refine foldl_canon (p := DieCanon full) (fun _ _ h => ?_) hd
    extract_lets a
    exact die_pmPut_canon (die_pmPut_canon h)
  clear_value d2
  have hsrc : SchedCanon full src := hd2.sched
  clear_value src
  exact die_canon hd2.mem hd2.proofs hsrc hd2.slot
theorem die_slotOwner_canon {d : Die} {dn : DieId} {k : SlotId} {asid : Half} (hd : DieCanon full d) : DieCanon full (d.slotOwner dn k asid) := by
  unfold Die.slotOwner
  extract_lets d2 t o n d3
  have hd2 : DieCanon full d2 := die_modSlot_canon hd fun _ h => ite_canon h h
  clear_value d2
  have ht : SlotCanon full t := hd2.slot _
  clear_value t
  have hd3 : DieCanon full d3 := die_pmPut_canon (die_pmPut_canon hd2)
  clear_value d3
  exact ite_canon hd2 (die_modSlot_canon hd3 (fun _ h => h))
theorem slot_vacate_canon {t : Slot} (ht : SlotCanon full t) : SlotCanon full t.vacate := by
  unfold Slot.vacate
  extract_lets src src2 src3 src4 src5 src6
  exact ht
theorem die_giveBack_canon {d : Die} {ks : List SlotId} (hd : DieCanon full d) : DieCanon full (d.giveBack ks) := by
  unfold Die.giveBack
  exact foldl_canon (p := DieCanon full) (fun _ _ h => die_modSlot_canon (die_modLay_canon h) (fun _ h2 => slot_vacate_canon h2)) hd
theorem die_afterGive_canon {d : Die} {dn : DieId} (hd : DieCanon full d) : DieCanon full (d.afterGive dn) := by
  unfold Die.afterGive
  exact die_liveSets_canon (die_evalClass_canon hd)
theorem die_clearKstat_canon {d : Die} {ks : List SlotId} (hd : DieCanon full d) : DieCanon full (d.clearKstat ks) := by
  unfold Die.clearKstat
  extract_lets src
  exact hd
theorem sched_beginSlice_canon {q : Sched} {c : Fin 4} (hq : SchedCanon full q) : SchedCanon full (q.beginSlice c) := by
  unfold Sched.beginSlice
  exact hq
theorem sched_newHead_canon {q : Sched} {c : Fin 4} {pid : Byte} {n : ℕ} (hq : SchedCanon full q) : SchedCanon full (q.newHead c pid n) := by
  unfold Sched.newHead
  exact hq
theorem sched_joinSwap_canon {q : Sched} {l : Launch} {t : ℕ} (hq : SchedCanon full q) : SchedCanon full (q.joinSwap l t) := by
  unfold Sched.joinSwap
  extract_lets q'
  have hq' : SchedCanon full q' := hq
  clear_value q'
  exact ite_canon hq' (sched_newHead_canon hq')
theorem restoreFault_canon {s : State} {d : DieId} {l : Launch} {b : Blk} {k : SlotId} {code addr : ℕ} (hs : StateCanon full s) : StateCanon full (restoreFault s d l b k code addr) := by
  unfold restoreFault
  extract_lets r
  exact state_modSched_canon hs fun _ h => sched_modBlk_canon h

end Sys2Proof.Proofs
end

section
/-! SUPPORT. Teams placed again from their save areas keep the canonical form (O60). -/

namespace Sys2Proof.Proofs

open Sys2Proof Sys2Proof.Machine Sys2Proof.Laws

variable {full : Prop}

/-! ## The words of a row engine (R364) -/

theorem rowWord_out_canon {o : Out} {t : State} (h : OutCanon full o) (e : rowWord.out o = some t) : StateCanon full t := by
  unfold rowWord.out at e
  split at e
  · cases e
    exact h
  · cases e
theorem rowWord_canon {s : State} {c : Cur} {r : Run} {i : Instr} (hs : StateCanon full s) : ∀ t, rowWord s c r i = some t → StateCanon full t := by
  intro t e
  unfold rowWord at e
  split at e
  · exact rowWord_out_canon (execLdr_canon hs) e
  · exact rowWord_out_canon (execLdt_canon hs) e
  · exact rowWord_out_canon (execLdrec_canon hs) e
  · exact rowWord_out_canon (execLdx_canon hs) e
  · exact rowWord_out_canon (execLdsc_canon hs) e
  · exact rowWord_out_canon (execLdv_canon hs) e
  · cases e
    exact strStep_canon hs
  · cases e
    exact sttStep_canon hs
  · cases e
    exact strecStep_canon hs
  · cases e
    exact stxStep_canon hs
  · cases e
    exact stscStep_canon hs
  · cases e
    exact stvStep_canon hs
  · cases e
    exact mldbStep_canon hs
  · cases e
    exact mcbStep_canon hs
  · cases e
    exact passStep_canon hs
  · cases e
    exact passStep_canon hs
  · cases e
    exact mdrainStep_canon hs
  · obtain ⟨p, _, rfl⟩ := Option.map_eq_some_iff.mp e
    exact plan_step_canon hs

theorem die_tellFailed_canon {dn : DieId} {d : Die} {mute : Bool} (hd : DieCanon full d) : DieCanon full (Die.tellFailed dn d mute) := by
  unfold Die.tellFailed
  refine foldl_canon (p := DieCanon full) (fun y l h => ?_) hd
  have hy : DieCanon full { y with sched := y.sched.modLaunch l.id fun x => { x with untold := false } } := h
  exact die_report_canon hy
theorem readWindows_canon {d : DieId} {l : Launch} {ws : List (ℕ × ℕ)} {y : Die} (hy : DieCanon full y) : XCanon full (readWindows d l ws y) := by
  induction ws generalizing y with
  | nil => exact hy
  | cons w r ih =>
    have hg : XCanon full (getImage d l.asid w.2 ((List.range (l.zw * 512)).map fun i => (128 * i, 128)) y) := getImage_canon hy
    unfold readWindows
    split
    next e => exact hg.fault e
    next e => exact hg.wait e
    next e =>
      have hr := ih (hg.ok e)
      split
      next e' => exact hr.fault e'
      next e' => exact hr.wait e'
      next e' => exact hr.ok e'

/-! ## What a swap-in reads of a save area (R320) -/

/-- The state that a reading comes to, with what it has read or without. -/
def ReadCanon {α : Type} (full : Prop) : Except State (State × α) → Prop
  | .ok p => StateCanon full p.1
  | .error s => StateCanon full s
theorem ReadCanon.ok {α : Type} {r : Except State (State × α)} {p : State × α} (e : r = .ok p) (h : ReadCanon full r) : StateCanon full p.1 := by
  subst e
  exact h
theorem ReadCanon.error {α : Type} {r : Except State (State × α)} {s : State} (e : r = .error s) (h : ReadCanon full r) : StateCanon full s := by
  subst e
  exact h
theorem ReadCanon.bind {α β : Type} {r : Except State (State × α)} {f : State × α → Except State (State × β)} (h : ReadCanon full r) (hf : ∀ p, StateCanon full p.1 → ReadCanon full (f p)) : ReadCanon full (r.bind f) := by
  cases r with
  | ok p => exact hf p h
  | error s => exact h
theorem gotSlot_canon {s : State} {d : DieId} {l : Launch} {b : Blk} {ks : List SlotId} {i : Image} {xs : List Image} {j : ℕ} {r : XRes Image} (hs : StateCanon full s) (hr : XCanon full r) : ReadCanon full (gotSlot s d l b ks i xs j r) := by
  have hm {y : Die} (hy : DieCanon full y) : StateCanon full (s.modDie d fun _ => y) := state_modDie_canon hs fun _ _ => hy
  unfold gotSlot
  split
  · exact hs
  · exact restoreFault_canon (hm hr)
  · extract_lets t runs
    have ht : StateCanon full t := hm hr
    clear_value t
    split
    · exact restoreFault_canon ht
    · split
      · exact restoreFault_canon ht
      · exact ht
theorem gotBlk_canon {s : State} {d : DieId} {l : Launch} {b : Blk} {ks : List SlotId} {r : XRes Image} (hs : StateCanon full s) (hr : XCanon full r) : ReadCanon full (gotBlk s d l b ks r) := by
  have hm {y : Die} (hy : DieCanon full y) : StateCanon full (s.modDie d fun _ => y) := state_modDie_canon hs fun _ _ => hy
  unfold gotBlk
  split
  · exact hs
  · exact restoreFault_canon (hm hr)
  · extract_lets t
    have ht : StateCanon full t := hm hr
    clear_value t
    split
    · exact restoreFault_canon ht
    · split
      · exact restoreFault_canon ht
      · exact foldl_canon (p := ReadCanon full) (fun _ _ h => h.bind fun _ hp => gotSlot_canon hp (getImage_canon (hp.die d))) ht
theorem readBlk_canon {s : State} {d : DieId} {l : Launch} {b : Blk} {ks : List SlotId} (hs : StateCanon full s) : ReadCanon full (readBlk s d l b ks) := gotBlk_canon hs (getImage_canon (hs.die d))
theorem ctxBack_canon {s : State} {d : DieId} {ks : List SlotId} {k : KCtx} {bs : List Byte} {rs : List Sent} (hs : StateCanon full s) : StateCanon full (ctxBack s d ks k bs rs) := by
  unfold ctxBack
  extract_lets w sl k2
  split
  · extract_lets s2
    have hs2 : StateCanon full s2 := state_modAg_canon (state_setCtx_canon hs)
    clear_value s2
    exact ite_canon (tellGroups_canon hs2) hs2
  · exact hs
theorem state_requestsBack_canon {s : State} {d : DieId} {ks : List SlotId} {k : SlotId} {a : SlotAux} (hs : StateCanon full s) : StateCanon full (s.requestsBack d ks k a) := by
  unfold State.requestsBack
  extract_lets c y g s2 s3
  have hy : DieCanon full y := hs.die _
  clear_value y
  have hs2 : StateCanon full s2 := foldl_canon (p := StateCanon full) (fun _ _ h => state_modAg_canon h) hs
  clear_value s2
  have hs3 : StateCanon full s3 := state_modAg_canon hs2
  clear_value s3
  exact state_modAg_canon hs3
theorem putBlk_canon {s : State} {d : DieId} {l : Launch} {b : Blk} {ks : List SlotId} {i : Image} {xs : List Image} (hs : StateCanon full s) : StateCanon full (putBlk s d l b ks i xs) := by
  unfold putBlk
  extract_lets trap each s2 s3 s4 s5 s6 s7 s8 conts s9
  have heach : ∀ (f : State → ℕ → SlotId → Image → SlotAux → State),   (∀ (a : State),       StateCanon full a →         ∀ (a_1 : ℕ) (a_2 : SlotId) (a_3 : Image) (a_4 : SlotAux), StateCanon full
      (f a a_1 a_2 a_3 a_4)) →     ∀ (s : State), StateCanon full s → StateCanon full (each f s) := by
    unfold each
    intro f h s10 h2
    refine foldl_canon (p := StateCanon full) (fun s11 _ h3 => ?_) h2
    split
    · exact h _ h3 _ _ _ _
    · exact h3
  clear_value each
  have hs2 : StateCanon full s2 := state_modDie_canon hs fun _ h => die_clearKstat_canon (foldl_canon (p := DieCanon full) (fun _ _ h2 => die_slotOwner_canon h2) h)
  clear_value s2
  have hs3 : StateCanon full s3 := heach _ (fun _ h _ _ _ _ => state_modSlot_canon h (fun _ _ => slotBack_canon)) _ hs2
  clear_value s3
  have hs4 : StateCanon full s4 := state_modDie_canon hs3 fun _ h => die_putRel_canon h
  clear_value s4
  have hs5 : StateCanon full s5 := by
    unfold s5
    refine heach _ (fun a h a2 a3 a4 a5 => ?_) _ hs4
    extract_lets base s10 s11
    have hs10 : StateCanon full s10 := by
      unfold s10
      split
      · exact state_modSlot_canon h fun _ h2 => h2
      · exact h
    clear_value s10
    have hs11 : StateCanon full s11 := state_modSlot_canon hs10 fun _ h2 => h2
    clear_value s11
    exact ite_canon hs10 (state_modDie_canon hs11 (fun _ h2 => die_modLay_canon h2))
  clear_value s5
  have hs6 : StateCanon full s6 := heach _ (fun _ h _ _ _ _ => state_modSched_canon h (fun _ h2 => sched_modBlk_canon h2)) _ hs5
  clear_value s6
  have hs7 : StateCanon full s7 := heach _ (fun _ h _ _ _ _ => state_requestsBack_canon h) _ hs6
  clear_value s7
  have hs8 : StateCanon full s8 := by
    unfold s8
    refine foldl_canon (p := StateCanon full) (fun s10 _ h => ?_) hs7
    split
    · exact ctxBack_canon h
    · exact h
  clear_value s8
  have hs9 : StateCanon full s9 := state_modSched_canon hs8 fun _ h => sched_modBlk_canon h
  clear_value s9
  exact answerQueries_canon (foldl_canon (p := StateCanon full) (fun _ _ h => contAgent_canon h) hs9)
theorem holdPlace_canon {s : State} {d : DieId} {l : Launch} {c : Cand} {p : Machine.Place} {team : Team} (hs : StateCanon full s) : StateCanon full (holdPlace s d l c p team) := by
  unfold holdPlace
  extract_lets bs s2 s3
  have hs2 : StateCanon full s2 := by
    unfold s2
    refine state_modDie_canon hs fun _ h => foldl_canon (p := DieCanon full) (fun _ _ h2 => ?_) h
    split
    · exact die_putFrag_canon h2
    · exact h2
  clear_value s2
  have hs3 : StateCanon full s3 := foldl_canon (p := StateCanon full) (fun _ _ h => state_modSched_canon h (fun _ h2 => sched_modBlk_canon h2)) hs2
  clear_value s3
  exact ite_canon hs (state_modSched_canon hs3 (fun _ h => h))
theorem die_unhold_canon {d : Die} {dn : DieId} {lid t : ℕ} (hd : DieCanon full d) : DieCanon full (d.unhold dn lid t) := by
  unfold Die.unhold
  split
  · exact hd
  · extract_lets bs d2 q
    have hd2 : DieCanon full d2 := die_giveBack_canon hd
    clear_value d2
    have hq : SchedCanon full q := foldl_canon (p := SchedCanon full) (fun _ _ h => sched_modBlk_canon h) hd2.sched
    clear_value q
    exact ite_canon hd (die_evalClass_canon (die_canon hd2.mem hd2.proofs hq hd2.slot))
/-! ## A team placed again (R322), by the parts of `swapIn_eq` -/

theorem readAll_canon {f : State → DieId → Launch → Blk → List SlotId → Except State (State × Image × List Image)} (hf : ∀ s d l b ks, StateCanon full s → ReadCanon full (f s d l b ks)) {s : State} {d : DieId} {l : Launch} {xs : List (Blk × List SlotId)} (hs : StateCanon full s) : ReadCanon full (readAll f s d l xs) := by
  unfold readAll
  refine foldl_canon (p := ReadCanon full) (fun _ _ h => h.bind fun _ hq => ?_) hs
  dsimp only
  split
  next e => exact ReadCanon.error e (hf _ _ _ _ _ hq)
  next e =>
    have k := ReadCanon.ok e (hf _ _ _ _ _ hq)
    exact k
theorem swapSched_canon {l : Launch} {c : Cand} {team : Team} {q : Sched} (hq : SchedCanon full q) : SchedCanon full (swapSched l c team q) := by
  unfold swapSched
  extract_lets q2
  have h : SchedCanon full q2 := sched_newHead_canon (sched_beginSlice_canon hq)
  clear_value q2
  exact h
theorem swapStart_canon {s : State} {d : DieId} {l : Launch} {c : Cand} {team : Team} {y : Die} {ws : List (ℕ × Image)} (hs : StateCanon full s) (hy : DieCanon full y) : StateCanon full (swapStart s d l c team y ws) := by
  unfold swapStart
  have h1 := state_modDie_canon (d := d) (f := fun z => { y with sched := z.sched }) hs fun _ hz => die_canon hy.mem hy.proofs hz.sched hy.slot
  have h2 := state_modDie_canon (d := d) (f := fun y => y.jOpen d 3 0 0 (l.saveAt (c.t * l.teamsz))) h1 fun _ hz => die_jOpen_canon hz
  exact state_modSched_canon (state_modDie_canon h2 fun _ hz => foldl_canon (p := DieCanon full) (fun _ _ h => foldl_canon (p := DieCanon full) (fun _ _ h => die_poke_canon h) h) hz) fun _ h => swapSched_canon h
theorem swapPut_canon {s : State} {d : DieId} {l : Launch} {p : Machine.Place} {gs : List (Blk × List SlotId × Image × List Image)} (hs : StateCanon full s) : StateCanon full (swapPut s d l p gs) := by
  unfold swapPut
  exact state_modDie_canon (foldl_canon (p := StateCanon full) (fun _ _ h => putBlk_canon h) hs) fun _ hy => die_jDoneLast_canon (die_afterGive_canon (die_traceTeam_canon hy))
theorem swapRest_canon {s : State} {d : DieId} {c : Cand} {p : Machine.Place} {l : Launch} {team : Team} {gs : List (Blk × List SlotId × Image × List Image)} {r : XRes (List (ℕ × Image))} (hs : StateCanon full s) (hr : XCanon full r) : StateCanon full (swapRest s d c p l team gs r) := by
  cases r with
  | wait _ => exact hs
  | fault y code x =>
    unfold swapRest
    generalize l.blks.filter (fun b => c.blks.contains b.l) = bs
    cases bs with
    | nil => exact hs
    | cons b _ => exact holdPlace_canon (restoreFault_canon (state_modDie_canon hs fun _ _ => hr))
  | ok y ws => exact swapPut_canon (swapStart_canon hs hr)
theorem swapKnown_canon {s : State} {d : DieId} {c : Cand} {p : Machine.Place} {l : Launch} {team : Team} (hs : StateCanon full s) : StateCanon full (swapKnown s d c p l team) := by
  have h := readAll_canon (full := full) (f := readBlk) (d := d) (l := l) (xs := (l.blks.filter fun b => c.blks.contains b.l).zip p.slots) (fun _ _ _ _ _ h => readBlk_canon h) hs
  unfold swapKnown
  generalize readAll readBlk s d l ((l.blks.filter fun b => c.blks.contains b.l).zip p.slots) = got at h
  cases got with
  | error u => exact holdPlace_canon h
  | ok g =>
    obtain ⟨u, gs⟩ := g
    have hu : StateCanon full u := h
    exact swapRest_canon hu (readWindows_canon (hu.die d))
theorem swapIn_canon {s : State} {d : DieId} {c : Cand} {p : Machine.Place} (hs : StateCanon full s) : StateCanon full (swapIn s d c p) := by
  rw [swapIn_eq]
  split
  · exact hs
  · exact swapKnown_canon hs

end Sys2Proof.Proofs
end

section
/-! SUPPORT. Leases, pick-ups, returns, faults and the strings keep the canonical form (O60). -/

namespace Sys2Proof.Proofs

open Sys2Proof Sys2Proof.Machine Sys2Proof.Laws

variable {full : Prop}

theorem leaseTeam_canon {s : State} {d : DieId} {c : Cand} {p : Machine.Place} (hs : StateCanon full s) : StateCanon full (leaseTeam s d c p) := by
  unfold leaseTeam
  split
  · exact hs
  · extract_lets old here team s2 bs s3 s4
    have hs2 : StateCanon full s2 := by
      unfold s2
      refine state_modSched_canon hs fun a h => ite_canon h ?_
      extract_lets src
      have hsrc : SchedCanon full src := sched_beginSlice_canon h
      clear_value src
      exact hsrc
    clear_value s2
    have hs3 : StateCanon full s3 := foldl_canon (p := StateCanon full) (fun _ _ h => state_modDie_canon h (fun _ h2 => die_leaseBlk_canon h2)) hs2
    clear_value s3
    have hs4 : StateCanon full s4 := state_modSched_canon hs3 fun _ h => h
    clear_value s4
    exact state_modDie_canon hs4 fun _ h => die_afterGive_canon (die_traceTeam_canon h)
theorem placeTeam_canon {s : State} {d : DieId} {c : Cand} {p : Machine.Place} (hs : StateCanon full s) : StateCanon full (placeTeam s d c p) := by
  unfold placeTeam
  exact ite_canon (swapIn_canon hs) (leaseTeam_canon hs)
theorem fillHalves_canon {d : DieId} {n : ℕ} {hs : List SlotId} {s : State} (h : StateCanon full s) : StateCanon full (fillHalves d n hs s) := by
  induction n generalizing hs s with
  | zero => exact h
  | succ n ih =>
    unfold fillHalves
    refine ite_canon h ?_
    split
    · exact ite_canon h (ih (placeTeam_canon h))
    · exact h
theorem grant_canon {s : State} {d : DieId} {swap : Bool} (hs : StateCanon full s) : StateCanon full (grant s d swap) := by
  unfold grant
  extract_lets y
  refine ite_canon hs ?_
  split
  · exact ite_canon hs (fillHalves_canon (placeTeam_canon hs))
  · exact hs
theorem execFragmentLeaseGrant_canon {d : DieId} {s : State} (hs : StateCanon full s) : OutCanon full (execFragmentLeaseGrant d s) := by
  unfold execFragmentLeaseGrant
  exact grant_canon hs
theorem execSwapIn_canon {d : DieId} {s : State} (hs : StateCanon full s) : OutCanon full (execSwapIn d s) := by
  unfold execSwapIn
  exact grant_canon hs
theorem die_dropCode_canon {d : Die} {k : SlotId} (hd : DieCanon full d) : DieCanon full (d.dropCode k) := by
  unfold Die.dropCode
  exact hd
theorem execPickUp_canon {d : DieId} {k : SlotId} {s : State} (hs : StateCanon full s) : OutCanon full (execPickUp d k s) := by
  unfold execPickUp
  extract_lets y t
  have hy : DieCanon full y := hs.die _
  clear_value y
  have ht : SlotCanon full t := hy.slot _
  clear_value t
  split
  · extract_lets ls
    refine ite_canon hs ?_
    split
    next e =>
      have k2 := snd_canon (procLoad_canon hy) e
      exact state_modDie_canon hs fun _ _ => k2
    next e =>
      have k2 := snd_canon (procLoad_canon hy) e
      extract_lets v waited s2 s3 s4
      have hs2 : StateCanon full s2 := state_modDie_canon hs fun _ _ => die_dropCode_canon (die_slotOwner_canon k2)
      clear_value s2
      have hs3 : StateCanon full s3 := state_modSlot_canon hs2 fun _ h => slot_pickUp_canon h
      clear_value s3
      have hs4 : StateCanon full s4 := state_modSched_canon hs3 fun _ h => sched_modBlk_canon h
      clear_value s4
      exact ite_canon (state_modDie_canon hs (fun _ _ => k2)) (ite_canon (takeFault_canon hs4) hs4)
  · exact hs
theorem execFragmentGiveUp_canon {d : DieId} {n : ℕ} {s : State} (hs : StateCanon full s) : OutCanon full (execFragmentGiveUp d n s) := by
  unfold execFragmentGiveUp
  extract_lets p y
  have hy : DieCanon full y := hs.die _
  clear_value y
  split
  · exact hs
  · split
    · exact hs
    · extract_lets lay
      refine ite_canon hs (state_modDie_canon hs (fun _ h => ?_))
      extract_lets y3 q
      have hy3 : DieCanon full y3 := die_giveBack_canon h
      clear_value y3
      have hq : SchedCanon full q := sched_modBlk_canon hy3.sched
      clear_value q
      exact die_afterGive_canon (die_canon hy3.mem hy3.proofs hq hy3.slot)
theorem die_dropTeam_canon {d : Die} {dn : DieId} {l : Launch} {t : ℕ} {ks : List SlotId} (hd : DieCanon full d) : DieCanon full (d.dropTeam dn l t ks) := by
  unfold Die.dropTeam
  split
  · exact hd
  · extract_lets left src d2
    have hsrc : SchedCanon full src := hd.sched
    clear_value src
    have hd2 : DieCanon full d2 := die_canon hd.mem hd.proofs hsrc hd.slot
    clear_value d2
    exact ite_canon hd (die_traceTeam_canon hd2)
theorem execBlockRetire_canon {d : DieId} {n : ℕ} {s : State} (hs : StateCanon full s) : OutCanon full (execBlockRetire d n s) := by
  unfold execBlockRetire
  extract_lets p y
  have hy : DieCanon full y := hs.die _
  clear_value y
  split
  · exact hs
  · split
    · exact hs
    · extract_lets t t2
      have ht2 : StateCanon full t2 := by
        unfold t2
        refine state_modDie_canon hs fun y2 h => ?_
        extract_lets y3 q y4 y5
        have hy3 : DieCanon full y3 := die_giveBack_canon h
        clear_value y3
        have hq : SchedCanon full q := sched_modBlk_canon hy3.sched
        clear_value q
        have hy4 : DieCanon full y4 := die_canon hy3.mem hy3.proofs (ite_canon hq hq) hy3.slot
        clear_value y4
        have hy5 : DieCanon full y5 := die_afterGive_canon (die_dropTeam_canon hy4)
        clear_value y5
        exact ite_canon (die_completeNode_canon hy5) hy5
      clear_value t2
      refine ite_canon hs (ite_canon (state_modDie_canon hs (fun _ h => ?_)) (ite_canon hs (ite_canon hs (state_tellPair_canon hs ht2))))
      extract_lets y3 y4
      have hy3 : DieCanon full y3 := die_giveBack_canon h
      clear_value y3
      have hy4 : DieCanon full y4 := die_canon hy3.mem hy3.proofs (sched_modBlk_canon hy3.sched) hy3.slot
      clear_value y4
      exact die_afterGive_canon (die_dropTeam_canon hy4)
theorem leaveTeam_canon {s : State} {d : DieId} {lid t : ℕ} {barred : Bool} (hs : StateCanon full s) : StateCanon full (leaveTeam s d lid t barred) := by
  unfold leaveTeam
  split
  · extract_lets s2 s3
    have hs2 : StateCanon full s2 := state_modSched_canon hs fun _ h => sched_modTeam_canon h
    clear_value s2
    have hs3 : StateCanon full s3 := state_modDie_canon hs2 fun _ h => die_jOpen_canon h
    clear_value s3
    exact ite_canon (state_modSched_canon hs (fun _ h => sched_modTeam_canon h)) (foldl_canon (p := StateCanon full) (fun _ _ h => ite_canon h (state_modSlot_canon h (fun _ h2 => slot_askStop_canon h2))) hs3)
  · exact hs
theorem execSliceEnd_canon {d : DieId} {n : ℕ} {s : State} (hs : StateCanon full s) : OutCanon full (execSliceEnd d n s) := by
  unfold execSliceEnd
  extract_lets p y
  have hy : DieCanon full y := hs.die _
  clear_value y
  split
  · extract_lets ended
    exact ite_canon hs (ite_canon (leaveTeam_canon hs) (ite_canon (leaveTeam_canon hs) (ite_canon hs (ite_canon (leaveTeam_canon hs) (state_modSched_canon hs (fun _ h => sched_modTeam_canon (sched_beginSlice_canon h)))))))
  · exact hs
theorem execClass0Preempt_canon {d : DieId} {s : State} (hs : StateCanon full s) : OutCanon full (execClass0Preempt d s) := by
  unfold execClass0Preempt
  extract_lets y
  have hy : DieCanon full y := hs.die _
  clear_value y
  refine ite_canon hs ?_
  split
  · exact hs
  · exact foldl_canon (p := StateCanon full) (fun _ _ h => leaveTeam_canon h) hs
theorem outBlk_canon {s : State} {d : DieId} {l : Launch} {b : Blk} (hs : StateCanon full s) : StateCanon full (outBlk s d l b) := by
  unfold outBlk
  extract_lets y flts aux out mine stay s2
  have hy : DieCanon full y := hs.die _
  clear_value y
  have hs2 : StateCanon full s2 := by
    unfold s2
    refine state_modDie_canon hs fun _ h => ?_
    extract_lets y3 y4 y5
    have hy3 : DieCanon full y3 := h
    clear_value y3
    have hy4 : DieCanon full y4 := foldl_canon (p := DieCanon full) (fun _ _ h2 => die_modAg_canon h2) hy3
    clear_value y4
    have hy5 : DieCanon full y5 := die_giveBack_canon hy4
    clear_value y5
    exact die_canon hy5.mem hy5.proofs (sched_modBlk_canon hy5.sched) hy5.slot
  clear_value s2
  exact foldl_canon (p := StateCanon full) (fun _ _ h => markHomes_canon h) hs2
theorem saveTeam_canon {dn : DieId} {l : Launch} {x : Team} {bs : List Blk} {y : Die} (hy : DieCanon full y) : XCanon full (saveTeam dn l x bs y) := by
  unfold saveTeam
  split
  next e =>
    have k := XCanon.ok e (putAll_canon hy)
    exact csLines_canon k
  next e =>
    have k := XCanon.wait e (putAll_canon hy)
    exact k
  next e =>
    have k := XCanon.fault e (putAll_canon hy)
    exact k
theorem collOut_canon {s : State} {d : DieId} {l : Launch} {b : Blk} (hs : StateCanon full s) : StateCanon full (collOut s d l b) := by
  unfold collOut
  extract_lets y ks dir sent out gone b' s2
  have hy : DieCanon full y := hs.die _
  clear_value y
  have hs2 : StateCanon full s2 := state_modCoe_canon hs
  clear_value s2
  exact markHomes_canon (state_modSched_canon hs2 (fun _ h => sched_modBlk_canon h))
theorem teamGone_canon {s : State} {d : DieId} {l : Launch} {x : Team} (hs : StateCanon full s) : StateCanon full (teamGone s d l x) := by
  unfold teamGone
  extract_lets bs s2 s3 s4
  have hs2 : StateCanon full s2 := stopCtx_canon hs
  clear_value s2
  have hs3 : StateCanon full s3 := foldl_canon (p := StateCanon full) (fun _ _ h => collOut_canon h) hs2
  clear_value s3
  have hs4 : StateCanon full s4 := by
    unfold s4
    refine state_modSched_canon hs3 fun _ h => ?_
    extract_lets q
    have hq : SchedCanon full q := h
    clear_value q
    exact ite_canon hq (sched_joinSwap_canon hq)
  clear_value s4
  exact state_modDie_canon hs4 fun _ h => die_jSwapDone_canon h
theorem finishOut_canon {s : State} {d : DieId} {l : Launch} {x : Team} (hs : StateCanon full s) : StateCanon full (finishOut s d l x) := by
  unfold finishOut
  extract_lets bs y y2
  have hy : DieCanon full y := hs.die _
  clear_value y
  have hy2 : DieCanon full y2 := foldl_canon (p := DieCanon full) (fun _ _ h => foldl_canon (p := DieCanon full) (fun _ _ h2 => die_csPoke_canon h2) h) hy
  clear_value y2
  exact ite_canon hs (teamGone_canon (state_modDie_canon hs (fun _ _ => hy2)))
theorem execPreemptionComplete_canon {d : DieId} {n : ℕ} {k : SlotId} {e : ArrErr} {s : State} (hs : StateCanon full s) : OutCanon full (execPreemptionComplete d n k e s) := by
  unfold execPreemptionComplete
  extract_lets p
  split
  · extract_lets ks bs s2 y
    have hs2 : StateCanon full s2 := ite_canon (state_modDie_canon hs (fun _ h => die_arrayMeet_canon h)) hs
    clear_value s2
    have hy : DieCanon full y := hs2.die _
    clear_value y
    refine ite_canon hs (ite_canon (finishOut_canon hs) (ite_canon hs ?_))
    split
    · exact hs2
    next e2 =>
      have k2 := XCanon.fault e2 (saveTeam_canon hy)
      split
      · exact collFault_canon (state_modDie_canon hs2 (fun _ _ => k2))
      · exact hs2
    next e2 =>
      have k2 := XCanon.ok e2 (saveTeam_canon hy)
      extract_lets s3 s4 s5
      have hs3 : StateCanon full s3 := foldl_canon (p := StateCanon full) (fun _ _ h => outBlk_canon h) (state_modDie_canon hs2 (fun _ _ => k2))
      clear_value s3
      have hs4 : StateCanon full s4 := state_modSched_canon hs3 fun _ h => sched_modTeam_canon h
      clear_value s4
      have hs5 : StateCanon full s5 := state_modDie_canon hs4 fun _ h => die_afterGive_canon (die_traceTeam_canon h)
      clear_value s5
      split
      · exact finishOut_canon hs5
      · exact hs5
  · exact hs
theorem saveError_canon {s : State} {d : DieId} {k : SlotId} {e : ArrErr} (hs : StateCanon full s) : StateCanon full (saveError s d k e) := by
  unfold saveError
  split
  · split
    · exact ite_canon (state_modDie_canon hs (fun _ h => die_arrayMeet_canon h)) hs
    · exact hs
  · exact hs
theorem execPageWalk_canon {d : DieId} {t : TlbId} {va : Word} {wr cached : Bool} {s : State} (hs : StateCanon full s) : OutCanon full (execPageWalk d t va wr cached s) := by
  unfold execPageWalk
  extract_lets y
  have hy : DieCanon full y := hs.die _
  clear_value y
  split
  · exact hs
  · refine ite_canon hs ?_
    split
    next e =>
      have k := XCanon.ok e (walk_canon hy)
      exact state_modDie_canon hs fun _ _ => die_modTlb_canon (die_countDie_canon k)
    next e =>
      have k := XCanon.wait e (walk_canon hy)
      exact state_modDie_canon hs fun _ _ => k
    next e =>
      have k := XCanon.fault e (walk_canon hy)
      exact state_modDie_canon hs fun _ _ => die_countDie_canon k
theorem die_dropCopies_canon {d : Die} {dn : DieId} {v : Word} {gone : List TlbEntry} (hd : DieCanon full d) : DieCanon full (d.dropCopies dn v gone) := by
  unfold Die.dropCopies
  extract_lets asid hit drop
  exact die_canon hd.mem hd.proofs hd.sched (slots_map_canon hd.slot (fun _ h => h))
theorem tlbinvWrite_canon {s : State} {d : DieId} {v : Word} (hs : StateCanon full s) : StateCanon full (tlbinvWrite s d v) := by
  unfold tlbinvWrite
  extract_lets y busy y2 gone used y3 y4 src
  have hy : DieCanon full y := hs.die _
  clear_value y
  have hy2 : DieCanon full y2 := die_setReg_canon hy
  clear_value y2
  have hy3 : DieCanon full y3 := foldl_canon (p := DieCanon full) (fun _ _ h => die_modTlb_canon h) hy2
  clear_value y3
  have hy4 : DieCanon full y4 := die_dropCopies_canon hy3
  clear_value y4
  have hsrc : DieCanon full src := die_setRf_canon hy4
  clear_value src
  exact ite_canon hs (ite_canon (state_modDie_canon hs (fun _ _ => hy2)) (state_modDie_canon hs (fun _ _ => hsrc)))
theorem execTlbinvAll_canon {d : DieId} {s : State} (hs : StateCanon full s) : OutCanon full (execTlbinvAll d s) := by
  unfold execTlbinvAll
  exact tlbinvWrite_canon hs
theorem execTlbinvAsid_canon {d : DieId} {asid : Half} {s : State} (hs : StateCanon full s) : OutCanon full (execTlbinvAsid d asid s) := by
  unfold execTlbinvAsid
  exact tlbinvWrite_canon hs
theorem execTlbinvVpn_canon {d : DieId} {asid : Half} {vpn : BitVec 36} {s : State} (hs : StateCanon full s) : OutCanon full (execTlbinvVpn d asid vpn s) := by
  unfold execTlbinvVpn
  exact tlbinvWrite_canon hs
theorem execTlbinvDone_canon {d : DieId} {s : State} (hs : StateCanon full s) : OutCanon full (execTlbinvDone d s) := by
  unfold execTlbinvDone
  extract_lets y now
  have hy : DieCanon full y := hs.die _
  clear_value y
  exact ite_canon hs (state_modDie_canon hs (fun _ h => die_tlbEnd_canon h))
theorem execSyscPost_canon {d : DieId} {k : SlotId} {s : State} (hs : StateCanon full s) : OutCanon full (execSyscPost d k s) := by
  unfold execSyscPost
  extract_lets y i
  have hy : DieCanon full y := hs.die _
  clear_value y
  split
  · extract_lets told s2
    have htold : StateCanon full told := state_pairStores_canon (popSb_canon hs)
    clear_value told
    have hs2 : StateCanon full s2 := htold
    clear_value s2
    refine ite_canon hs (ite_canon htold (ite_canon hs (state_modDie_canon hs2 (fun _ h => ?_))))
    extract_lets y3 src
    have hy3 : DieCanon full y3 := die_poke_canon h
    clear_value y3
    have hsrc : DieCanon full src := die_setRf_canon hy3
    clear_value src
    exact hsrc
  · exact hs
theorem syscDone_canon {s : State} {d : DieId} {i : Byte} (hs : StateCanon full s) : StateCanon full (syscDone s d i) := by
  unfold syscDone
  split
  · exact hs
  · extract_lets s2
    have hs2 : StateCanon full s2 := state_modDie_canon hs fun _ h => h
    clear_value s2
    split
    · exact hs2
    · split
      · exact hs2
      · split
        · exact state_incSem_canon hs2
        · refine ite_canon hs2 (state_modDie_canon hs2 (fun _ h => ?_))
          extract_lets a
          split
          next e =>
            have k := snd_canon (procLoad_canon h) e
            exact procStore_canon k
          next e =>
            have k := snd_canon (procLoad_canon h) e
            exact k
theorem execSyscdone_canon {d : DieId} {i : Byte} {s : State} (hs : StateCanon full s) : OutCanon full (execSyscdone d i s) := by
  unfold execSyscdone
  exact ite_canon (syscDone_canon hs) hs
theorem die_freeIdx_canon {d : Die} {i : Byte} (hd : DieCanon full d) : DieCanon full (d.freeIdx i) := by
  unfold Die.freeIdx
  exact hd
theorem state_modFlts_canon {s : State} {d : DieId} {o : RingOwner} {f : List (ℕ × ℕ × PFault) → List (ℕ × ℕ × PFault)} (hs : StateCanon full s) : StateCanon full (s.modFlts d o f) := by
  unfold State.modFlts
  exact state_modSched_canon hs fun _ h => sched_modBlk_canon h
theorem respCont_canon {s : State} {d : DieId} {i : Byte} {o : RingOwner} {l : Launch} {b : Blk} (hs : StateCanon full s) : StateCanon full (respCont s d i o l b) := by
  unfold respCont
  extract_lets s2 named s3
  have hs2 : StateCanon full s2 := state_modDie_canon hs fun _ h => die_freeIdx_canon h
  clear_value s2
  have hs3 : StateCanon full s3 := state_modFlts_canon hs2
  clear_value s3
  split
  · split
    · extract_lets s4 leaving fixed s5
      have hs4 : StateCanon full s4 := state_modSlot_canon hs2 fun _ h => h
      clear_value s4
      have hs5 : StateCanon full s5 := ite_canon hs4 (ite_canon (state_modSched_canon hs4 (fun _ h => sched_modBlk_canon h)) (resumeBlk_canon hs4))
      clear_value s5
      exact ite_canon (state_modFlts_canon hs2) (ite_canon hs4 (contAgent_canon hs5))
    · exact state_modFlts_canon hs2
  · exact ite_canon (state_modFlts_canon hs2) (state_modDie_canon hs3 (fun _ h => die_tableSet_canon h))
theorem respSave_canon {s : State} {d : DieId} {i : Byte} {o : RingOwner} {l : Launch} {b : Blk} (hs : StateCanon full s) : StateCanon full (respSave s d i o l b) := by
  unfold respSave
  extract_lets named s2
  have hs2 : StateCanon full s2 := state_modFlts_canon hs
  clear_value s2
  refine ite_canon hs ?_
  split
  · extract_lets s3
    have hs3 : StateCanon full s3 := state_modSlot_canon hs2 fun _ h => h
    clear_value s3
    exact leaveTeam_canon hs3
  · exact state_modDie_canon hs2 fun _ h => die_tableSet_canon h
theorem quitAgent_canon {s : State} {d : DieId} {a : Agent} {m : Mine} (hs : StateCanon full s) : StateCanon full (quitAgent s d a m) := by
  unfold quitAgent
  extract_lets s2
  have hs2 : StateCanon full s2 := markHomes_canon hs
  clear_value s2
  exact state_modAg_canon hs2
theorem slot_quit_canon {t : Slot} (ht : SlotCanon full t) : SlotCanon full t.quit := by
  unfold Slot.quit
  extract_lets t2 src
  have ht2 : SlotCanon full t2 := slot_discard_canon ht
  clear_value t2
  exact ht2
theorem killCtxs_canon {s : State} {d : DieId} {l : Launch} {b : Blk} (hs : StateCanon full s) : StateCanon full (killCtxs s d l b) := by
  unfold killCtxs
  extract_lets y mine direct cs s2 at_ s3
  have hy : DieCanon full y := hs.die _
  clear_value y
  have hs2 : StateCanon full s2 := foldl_canon (p := StateCanon full) (fun _ _ h => tellGroups_canon h) hs
  clear_value s2
  have hs3 : StateCanon full s3 := ite_canon (quitAgent_canon hs2) hs2
  clear_value s3
  exact state_modCoe_canon hs3
theorem killRecord_canon {s : State} {d : DieId} {l : Launch} {b : Blk} (hs : StateCanon full s) : StateCanon full (killRecord s d l b) := by
  unfold killRecord
  split
  next e =>
    have k := XCanon.ok e (putImage_canon (hs.die _))
    exact state_modDie_canon hs fun _ _ => k
  next e =>
    have k := XCanon.fault e (putImage_canon (hs.die _))
    exact state_modDie_canon hs fun _ _ => k
  · exact hs
theorem killBlk_canon {s : State} {d : DieId} {l : Launch} {b : Blk} (hs : StateCanon full s) : StateCanon full (killBlk s d l b) := by
  unfold killBlk
  extract_lets ks mine share s2 s3 s4 s5
  have hs2 : StateCanon full s2 := killCtxs_canon (killRecord_canon hs)
  clear_value s2
  have hs3 : StateCanon full s3 := foldl_canon (p := StateCanon full) (fun _ _ h => foldl_canon (p := StateCanon full) (fun _ _ h2 => quitAgent_canon h2) h) hs2
  clear_value s3
  have hs4 : StateCanon full s4 := by
    unfold s4
    refine foldl_canon (p := StateCanon full) (fun _ a h => ?_) hs3
    extract_lets r s7
    have hs7 : StateCanon full s7 := quitAgent_canon h
    clear_value s7
    exact ite_canon (state_modDie_canon hs7 (fun _ h2 => die_setRun_canon h2)) hs7
  clear_value s4
  have hs5 : StateCanon full s5 := state_modDie_canon hs4 fun _ h => foldl_canon (p := DieCanon full) (fun _ _ h2 => die_modLay_canon (die_modSlot_canon h2 (fun _ h3 => slot_quit_canon h3))) (die_clearKstat_canon h)
  clear_value s5
  exact state_modSched_canon hs5 fun _ h => sched_modBlk_canon h
theorem failNode_canon {s : State} {d : DieId} {lid : ℕ} (hs : StateCanon full s) : StateCanon full (failNode s d lid) := by
  unfold failNode
  extract_lets m s2
  have hs2 : StateCanon full s2 := state_tellPair_canon hs (state_modDie_canon hs (fun _ h => die_failMark_canon h))
  clear_value s2
  split
  · exact hs2
  · extract_lets s3 s4 s5
    have hs3 : StateCanon full s3 := by
      unfold s3
      refine state_modDie_canon hs2 fun y h => ?_
      extract_lets y2
      have hy2 : DieCanon full y2 := foldl_canon (p := DieCanon full) (fun _ _ h2 => die_jSwapDone_canon h2) h
      clear_value y2
      exact foldl_canon (p := DieCanon full) (fun _ _ h2 => die_unhold_canon h2) hy2
    clear_value s3
    have hs4 : StateCanon full s4 := foldl_canon (p := StateCanon full) (fun _ _ h => ite_canon (killCtxs_canon h) (killBlk_canon h)) hs3
    clear_value s4
    have hs5 : StateCanon full s5 := by
      unfold s5
      refine state_modSched_canon hs4 fun _ h => ?_
      extract_lets src
      have hsrc : SchedCanon full src := sched_modLaunch_canon h
      clear_value src
      exact hsrc
    clear_value s5
    refine state_modDie_canon hs5 fun _ h => ?_
    extract_lets ts
    exact foldl_canon (p := DieCanon full) (fun _ _ h2 => die_dropTeam_canon h2) h
theorem failAll_canon {d : DieId} {n : ℕ} {s : State} (hs : StateCanon full s) : StateCanon full (failAll d n s) := by
  induction n generalizing s with
  | zero => exact hs
  | succ n ih =>
    unfold failAll
    split
    · exact ih (failNode_canon hs)
    · exact hs

/-! ## A cycle of a string (R54) -/

theorem die_modBand_canon {d : Die} {b : Fin 4} {f : Band → Band} (hd : DieCanon full d) : DieCanon full (d.modBand b f) := hd
theorem die_countOwn_canon {d : Die} {dn : DieId} {k : SlotId} {ev : ℕ} (hd : DieCanon full d) : DieCanon full (d.countOwn dn k ev) := by
  unfold Die.countOwn
  exact ite_canon (die_countSlot_canon hd) hd
theorem streamed_canon {b : Fin 4} {y : Die} (hy : DieCanon full y) : DieCanon full (streamed b y) := by
  have hw (t : Slot) (h : SlotCanon full t) : SlotCanon full { t with w := 0 } := h
  unfold streamed
  exact die_modSlot_canon (die_modSlot_canon hy hw) hw
theorem fogged_canon {d : DieId} {b : Fin 4} {fog : Option Bool} {y : Die} (hy : DieCanon full y) : DieCanon full (fogged d b fog y) := by
  cases fog with
  | none => exact hy
  | some r => exact die_countOwn_canon (die_addReg_canon hy)
theorem throttled_canon {d : DieId} {b : Fin 4} {n : ℕ} {y : Die} (hy : DieCanon full y) : DieCanon full (throttled d b n y) := by
  unfold throttled
  exact ite_canon hy (die_countOwn_canon (die_countOwn_canon (die_addReg_canon hy)))
theorem execBalanceControl_canon {d : DieId} {b : Fin 4} {s : State} (hs : StateCanon full s) : OutCanon full (execBalanceControl d b s) := by
  unfold execBalanceControl
  extract_lets y x ks issue im
  refine ite_canon hs (state_modDie_canon (s := s) hs fun z hz => ?_)
  have h : DieCanon full (if issue then streamed b z else z) := ite_canon (streamed_canon hz) hz
  change DieCanon full ((throttled d b x.div (fogged d b im.2 (if issue then streamed b z else z))).modBand b (Band.cycled im))
  exact die_modBand_canon (throttled_canon (fogged_canon h))

end Sys2Proof.Proofs
end

section
/-! SUPPORT. Events, registers, resets and the test port keep the canonical form, and so does every step (O60). -/

namespace Sys2Proof.Proofs

open Sys2Proof Sys2Proof.Machine Sys2Proof.Laws

variable {full : Prop}

theorem acceptRing_canon {d : DieId} {p : Proc} {pid : Byte} {n off : ℕ} {s : State} (hs : StateCanon full s) : StateCanon full (acceptRing d p pid n off s) := by
  induction n generalizing off s with
  | zero => exact hs
  | succ n ih =>
    have h : StateCanon full (acceptNext d p pid off s).2 := acceptNext_canon hs
    unfold acceptRing
    split
    next e =>
      rw [e] at h
      exact h
    next e =>
      rw [e] at h
      exact ih h
theorem serveProc_canon {s : State} {d : DieId} {pid : Byte} (hs : StateCanon full s) : StateCanon full (serveProc s d pid) := by
  unfold serveProc
  extract_lets p
  split
  · exact state_modDie_canon hs fun _ hy => die_skipProc_canon hy
  · exact acceptRing_canon hs

/-! ## Grants and bands (R331, R384) -/

theorem die_setLevel_canon {d : Die} {dn : DieId} {lvl : ℕ} (hd : DieCanon full d) : DieCanon full (d.setLevel dn lvl) := by
  unfold Die.setLevel
  refine ite_canon hd ?_
  extract_lets d2
  have hd2 : DieCanon full d2 := die_setRf_canon (die_setRf_canon (die_setRf_canon hd))
  clear_value d2
  exact trcRecord_canon hd2
theorem execGrantWindowEnd_canon {d : DieId} {watts hottest : ℕ} {s : State} (hs : StateCanon full s) : OutCanon full (execGrantWindowEnd d watts hottest s) := by
  unfold execGrantWindowEnd
  refine ite_canon hs (state_modDie_canon (s := s) hs fun _ hy => ?_)
  extract_lets y2 lvl share y3
  have h2 : DieCanon full y2 := hy
  have h3 : DieCanon full y3 := ite_canon (die_setRf_canon h2) h2
  exact ite_canon (die_setLevel_canon (die_setRf_canon h2)) (ite_canon (die_setLevel_canon h3) (ite_canon (die_setLevel_canon h3) h3))
theorem slot_dark_canon {t : Slot} : SlotCanon full t.dark := slot_fresh_canon rfl rfl

/-! ## The scheduler's accounts (R346, R347) -/

theorem die_xcat_canon {d : Die} {dn : DieId} {pid : Byte} {cat : BitVec 3} (hd : DieCanon full d) : DieCanon full (d.xcat dn pid cat) := by
  unfold Die.xcat
  refine ite_canon hd (die_canon hd.mem hd.proofs (fun h => ?_) hd.slot)
  obtain ⟨acc, cats, mark⟩ := hd.sched h
  have hcat := spWf_spSet 2 d.sched.cat pid.toNat cat cats
  dsimp only
  split
  · exact ⟨acc, hcat, spWf_spSet (0, zero5) _ _ _ mark⟩
  · exact ⟨acc, hcat, mark⟩
theorem sched_acc_canon {q : Sched} {m : Sparse (Vector Word 5)} (hq : SchedCanon full q) (hm : spWf zero5 q.acc = true → spWf zero5 m = true) : SchedCanon full { q with acc := m } := by
  intro h
  obtain ⟨acc, cats, mark⟩ := hq h
  exact ⟨hm acc, cats, mark⟩
theorem die_charge_canon {d : Die} (hd : DieCanon full d) : DieCanon full d.charge := by
  unfold Die.charge
  extract_lets res one
  generalize List.range 256 = l
  refine die_canon hd.mem hd.proofs (sched_acc_canon hd.sched fun h => ?_) hd.slot
  exact foldl_canon (p := fun m => spWf zero5 m = true) (fun _ _ hm => spWf_spSet zero5 _ _ _ hm) h
theorem sched_unmarked_canon {q : Sched} (hq : SchedCanon full q) : SchedCanon full { q with mark := [] } := by
  intro h
  obtain ⟨acc, cats, _⟩ := hq h
  exact ⟨acc, cats, rfl⟩
theorem tickAdj_canon {s : State} {d : DieId} {v : Word} (hs : StateCanon full s) : StateCanon full (tickAdj s d v) := by
  unfold tickAdj
  refine ite_canon hs (foldl_canon (p := StateCanon full) (fun _ _ h => state_modDie_canon h fun _ hy => ?_) hs)
  extract_lets y2 q c y3
  have h2 : DieCanon full y2 := die_setReg_canon hy
  clear_value y2
  have h3 : DieCanon full y3 := die_canon h2.mem h2.proofs (sched_unmarked_canon h2.sched) h2.slot
  clear_value y3
  exact ite_canon (trcMark_canon h3) h3

/-! ## Dies after a reset (R4, R405) -/

theorem freshDie_canon {n : ℕ} {t : Word} {tap : Tap} : DieCanon full (freshDie n t tap) := by
  refine die_canon (cellsOf_wf _) (fun _ => rfl) (fun _ => ⟨rfl, rfl, rfl⟩) fun _ => ?_
  rw [freshDie_slot]
  exact slot_fresh_canon rfl rfl
theorem execPackageResetRelease_canon {s : State} : OutCanon full (execPackageResetRelease s) := by
  intro d
  change DieCanon full (vget (Vector.ofFn fun i : DieId => freshDie (s.draws + i.val) 0 (vget s.dies i).tap) d)
  rw [vget_ofFn]
  exact freshDie_canon
theorem execDieResetRelease_canon {d : DieId} {s : State} (hs : StateCanon full s) : OutCanon full (execDieResetRelease d s) := by
  unfold execDieResetRelease
  extract_lets y keep
  refine ite_canon hs fun e => ?_
  change DieCanon full (vget (vset s.dies d (freshDie s.draws (y.tick d) y.tap)) e)
  rw [vget_vset]
  exact ite_canon freshDie_canon (hs e)

/-! ## The chains of a gated die (R359): reading them leaves the dies -/

theorem shotRegs_canon {s : State} {d : DieId} {y : Die} {n : ℕ} (hs : StateCanon full s) : StateCanon full (shotRegs s d y n).2 := hs
theorem chainImage_canon {s : State} {d : DieId} {c : ℕ} (hs : StateCanon full s) : StateCanon full (chainImage s d c).2 := by
  unfold chainImage
  extract_lets y
  have h := shotRegs_canon (d := d) (y := y) (n := 512) hs
  exact ite_canon (p := fun r : List Byte × State => StateCanon full r.2) hs (ite_canon (p := fun r : List Byte × State => StateCanon full r.2) hs (ite_canon (p := fun r : List Byte × State => StateCanon full r.2) h
    (ite_canon (p := fun r : List Byte × State => StateCanon full r.2) hs (ite_canon (p := fun r : List Byte × State => StateCanon full r.2) hs hs))))

/-! ## What a pick may meet before its instruction (R132, R364) -/

theorem tentFault_canon {d : DieId} {t : TlbId} {asid : Half} {l : List ℕ} {y : Die} (hy : DieCanon full y) : DieCanon full (tentFault d t asid l y).1 := by
  induction l generalizing y with
  | nil => exact hy
  | cons va r ih =>
    have ht : XCanon full (Machine.translate d y t asid va false) := translate_canon hy
    unfold tentFault
    split
    next e => exact ih (ht.ok e)
    next e => exact ht.wait e
    next e => exact ht.fault e
theorem rowWord_getD_canon {s : State} {c : Cur} {r : Run} {i : Instr} (hs : StateCanon full s) : StateCanon full ((rowWord s c r i).getD s) := by
  have h := rowWord_canon (c := c) (r := r) (i := i) hs
  cases e : rowWord s c r i with
  | none => exact hs
  | some t => exact h t e
theorem startMeets_canon {s : State} {d : DieId} {k : SlotId} {e : SlotEng} {x : ArrErr} (hs : StateCanon full s) : StateCanon full (startMeets s d k e x) := by
  unfold startMeets
  extract_lets c
  split
  · exact hs
  · split
    · exact hs
    · split
      · exact ite_canon hs (withError_canon (s := { s with cur := c }) hs fun _ h => rowWord_getD_canon h)
      · exact hs

/-! ## The test access port (R358) -/

theorem state_modTap_canon {s : State} {d : DieId} {f : Tap → Tap} (hs : StateCanon full s) : StateCanon full (s.modTap d f) := by
  unfold State.modTap
  exact state_modDie_canon hs fun _ hy => hy
theorem tapCapture_canon {d : DieId} {s : State} (hs : StateCanon full s) : StateCanon full (tapCapture d s) := by
  unfold tapCapture
  extract_lets y t load
  have hload (u : State) (r : List Bool) (hu : StateCanon full u) : StateCanon full (load u r) := state_modTap_canon hu
  clear_value load
  split
  · exact hload { s with draws := s.draws + 1 } _ hs
  · exact hload { s with draws := s.draws + 1 } _ hs
  · exact hload _ _ hs
  · exact hload _ _ hs
  · exact hload _ _ hs
  · exact ite_canon (hload _ _ (chainImage_canon hs)) (hload _ _ hs)
  · exact hload _ _ hs

/-! ## Pairing (R355) -/

theorem unpaired_canon {d : Die} {c : Prop} [Decidable c] {dn : DieId} {r p n w : ℕ} (hd : DieCanon full d) : DieCanon full (if c then d else { d.setRf dn r p n w with pair := [] }) := by
  have h := die_setRf_canon (dn := dn) (off := r) (lo := p) (len := n) (v := w) hd
  exact ite_canon hd h
theorem die_pairWrite_canon {d : Die} {dn : DieId} {v : Word} (hd : DieCanon full d) : DieCanon full (d.pairWrite dn v) := by
  unfold Die.pairWrite
  extract_lets rw d2 src
  have hd2 : DieCanon full d2 := die_setReg_canon hd
  clear_value d2
  exact unpaired_canon hd2

/-! ## Loads of the system cores (R132): the register's offset named, so that the kernel does not compute with it -/

theorem regRead_canon {s : State} {d : DieId} {off : ℕ} (hs : StateCanon full s) : StateCanon full (regRead s d off).2 := by
  unfold regRead
  split
  · exact hs
  · exact hs
theorem sysLoadStep_canon {s : State} {d : DieId} {n : Fin 4} {pa len : ℕ} (hs : StateCanon full s) : StateCanon full (sysLoadStep s d n pa len) := by
  unfold sysLoadStep
  split
  · generalize pa - regBase = off
    dsimp only
    exact ite_canon (state_modAg_canon (regRead_canon hs)) hs
  · exact ite_canon hs (ite_canon (state_modAg_canon hs) (foldl_canon (p := StateCanon full) (fun _ _ h => state_modAg_canon h) hs))
theorem respKill_canon {s : State} {d : DieId} {l : Launch} (hs : StateCanon full s) : StateCanon full (respKill s d l) := by
  unfold respKill
  extract_lets s2
  have hs2 : StateCanon full s2 := failNode_canon hs
  clear_value s2
  exact failAll_canon hs2
theorem fltResp_canon {s : State} {d : DieId} {i : Byte} {act : ℕ} (hs : StateCanon full s) : StateCanon full (fltResp s d i act) := by
  unfold fltResp
  split
  · exact hs
  · split
    · exact ite_canon (state_modDie_canon hs (fun _ h => die_freeIdx_canon h)) hs
    · split
      · split
        · exact respCont_canon hs
        · exact respSave_canon hs
        · exact state_modDie_canon (respKill_canon hs) fun _ h => die_freeIdx_canon h
        · exact hs
      · exact ite_canon (state_modDie_canon hs (fun _ h => die_freeIdx_canon h)) hs
theorem execFltrespCont_canon {d : DieId} {i : Byte} {s : State} (hs : StateCanon full s) : OutCanon full (execFltrespCont d i s) := by
  unfold execFltrespCont
  exact fltResp_canon hs
theorem execFltrespSave_canon {d : DieId} {i : Byte} {s : State} (hs : StateCanon full s) : OutCanon full (execFltrespSave d i s) := by
  unfold execFltrespSave
  exact fltResp_canon hs
theorem execFltrespKill_canon {d : DieId} {i : Byte} {s : State} (hs : StateCanon full s) : OutCanon full (execFltrespKill d i s) := by
  unfold execFltrespKill
  exact fltResp_canon hs
theorem releaseTeam_canon {s : State} {d : DieId} {lid t : ℕ} (hs : StateCanon full s) : StateCanon full (releaseTeam s d lid t) := by
  unfold releaseTeam
  refine state_modSched_canon hs fun _ h => ?_
  extract_lets src
  have hsrc : SchedCanon full src := sched_modTeam_canon h
  clear_value src
  exact hsrc
theorem breakAct_canon {s : State} {d : DieId} {n : Fin 4} {lids : List (ℕ × ℕ)} (hs : StateCanon full s) : StateCanon full (breakAct s d n lids) := by
  unfold breakAct
  extract_lets c s2 s3
  have hs2 : StateCanon full s2 := state_modDie_canon hs fun _ h => trcRecord_canon (die_setRf_canon h)
  clear_value s2
  have hs3 : StateCanon full s3 := state_modDie_canon hs2 fun _ h => h
  clear_value s3
  split
  · exact foldl_canon (p := StateCanon full) (fun _ _ h => leaveTeam_canon h) hs2
  · exact hs3
  · exact hs2
theorem breakTick_canon {s : State} {d : DieId} {n : Fin 4} (hs : StateCanon full s) : StateCanon full (breakTick s d n) := by
  unfold breakTick
  extract_lets y c hit
  have hy : DieCanon full y := hs.die _
  clear_value y
  exact ite_canon hs (breakAct_canon hs)
theorem execBimbWindowEnd_canon {d : DieId} {b : Fin 4} {s : State} (hs : StateCanon full s) : OutCanon full (execBimbWindowEnd d b s) := by
  unfold execBimbWindowEnd
  extract_lets y x avg m low up x' x'2 v
  have hy : DieCanon full y := hs.die _
  clear_value y
  refine ite_canon hs (state_modDie_canon hs (fun _ h => ?_))
  extract_lets exc y3 y4
  have hy3 : DieCanon full y3 := die_setReg_canon h
  clear_value y3
  have hy4 : DieCanon full y4 := die_setReg_canon hy3
  clear_value y4
  exact die_modBand_canon hy4
theorem execTimingReplay_canon {d : DieId} {b : Fin 4} {fails : ℕ} {s : State} (hs : StateCanon full s) : OutCanon full (execTimingReplay d b fails s) := by
  unfold execTimingReplay
  refine state_modDie_canon hs fun _ h => ?_
  extract_lets y2
  have hy2 : DieCanon full y2 := die_addReg_canon h
  clear_value y2
  exact ite_canon hy2 (die_setRf_canon (die_modBand_canon hy2))
theorem clearBen_canon {s : State} {d : DieId} {b : Fin 4} (hs : StateCanon full s) : StateCanon full (clearBen s d b) := by
  unfold clearBen
  extract_lets y r ks s2 ts s3 kept
  have hy : DieCanon full y := hs.die _
  clear_value y
  have hs2 : StateCanon full s2 := state_modDie_canon hs fun _ h => die_setRf_canon h
  clear_value s2
  have hs3 : StateCanon full s3 := foldl_canon (p := StateCanon full) (fun _ _ h => leaveTeam_canon h) hs2
  clear_value s3
  exact ite_canon hs (state_modDie_canon hs3 (fun _ h => foldl_canon (p := DieCanon full) (fun _ _ h2 => die_unhold_canon h2) h))
theorem setBen_canon {s : State} {d : DieId} {b : Fin 4} (hs : StateCanon full s) : StateCanon full (setBen s d b) := by
  unfold setBen
  exact state_modDie_canon hs fun _ h => die_setRf_canon h
theorem execAshapeClearBen_canon {d : DieId} {b : Fin 4} {s : State} (hs : StateCanon full s) : OutCanon full (execAshapeClearBen d b s) := by
  unfold execAshapeClearBen
  exact clearBen_canon hs
theorem execAshapeSetBen_canon {d : DieId} {b : Fin 4} {s : State} (hs : StateCanon full s) : OutCanon full (execAshapeSetBen d b s) := by
  unfold execAshapeSetBen
  exact setBen_canon hs
theorem execBandPowerOff_canon {d : DieId} {b : Fin 4} {s : State} (hs : StateCanon full s) : OutCanon full (execBandPowerOff d b s) := by
  unfold execBandPowerOff
  extract_lets y ks src
  have hy : DieCanon full y := hs.die _
  clear_value y
  refine ite_canon hs (state_modDie_canon hs (fun _ h => ?_))
  extract_lets y3 y4
  have hy3 : DieCanon full y3 := foldl_canon (p := DieCanon full) (fun _ _ h2 => die_modSlot_canon h2 (fun _ _ => slot_dark_canon)) (die_setRf_canon h)
  clear_value y3
  have hy4 : DieCanon full y4 := die_setRf_canon (die_setReg_canon hy3)
  clear_value y4
  exact die_modBand_canon hy4
theorem execBandPowerOn_canon {d : DieId} {b : Fin 4} {s : State} (hs : StateCanon full s) : OutCanon full (execBandPowerOn d b s) := by
  unfold execBandPowerOn
  extract_lets y
  have hy : DieCanon full y := hs.die _
  clear_value y
  exact ite_canon hs (state_modDie_canon hs (fun _ h => die_setRf_canon h))
theorem execMarginWindowEnd_canon {d : DieId} {b : Fin 4} {s : State} (hs : StateCanon full s) : OutCanon full (execMarginWindowEnd d b s) := by
  unfold execMarginWindowEnd
  extract_lets y r c step new
  have hy : DieCanon full y := hs.die _
  clear_value y
  exact ite_canon hs (state_modDie_canon hs (fun _ h => die_modBand_canon (die_setRf_canon h)))
theorem die_recal_canon {d : Die} {dn : DieId} {b : Fin 4} (hd : DieCanon full d) : DieCanon full (d.recal dn b) := by
  unfold Die.recal
  exact die_modBand_canon (die_setRf_canon (die_setRf_canon hd))
theorem execMargRecal_canon {d : DieId} {b : Fin 4} {s : State} (hs : StateCanon full s) : OutCanon full (execMargRecal d b s) := by
  unfold execMargRecal
  exact state_modDie_canon hs fun _ h => die_recal_canon h
theorem die_margWrite_canon {d : Die} {dn : DieId} {b : Fin 4} {v : Word} (hd : DieCanon full d) : DieCanon full (d.margWrite dn b v) := by
  unfold Die.margWrite
  extract_lets o rw d2 d3 lim d4
  have hd2 : DieCanon full d2 := ite_canon (die_modBand_canon hd) hd
  clear_value d2
  have hd3 : DieCanon full d3 := die_setReg_canon hd2
  clear_value d3
  have hd4 : DieCanon full d4 := ite_canon (die_setRf_canon hd3) hd3
  clear_value d4
  exact ite_canon (die_recal_canon hd4) hd4
theorem execRefreshRateChange_canon {d : DieId} {bank : Fin 64} {temp : ℕ} {s : State} (hs : StateCanon full s) : OutCanon full (execRefreshRateChange d bank temp s) := by
  unfold execRefreshRateChange
  refine state_modDie_canon hs fun _ h => ?_
  extract_lets y2 h2
  have hy2 : DieCanon full y2 := h
  clear_value y2
  exact die_setReg_canon hy2
theorem execDramRefresh_canon {d : DieId} {row : ℕ} {s : State} (hs : StateCanon full s) : OutCanon full (execDramRefresh d row s) := by
  unfold execDramRefresh
  extract_lets ls skip
  exact state_modDie_canon hs fun _ h => die_addReg_canon h
theorem execScrub_canon {d : DieId} {line : ℕ} {e : StoreErr} {s : State} (hs : StateCanon full s) : OutCanon full (execScrub d line e s) := by
  unfold execScrub
  extract_lets y
  have hy : DieCanon full y := hs.die _
  clear_value y
  exact ite_canon hs (state_modDie_canon hs (fun _ h => die_meet_canon h))
theorem die_proofWrite_canon {d : Die} {dn : DieId} {q : ℕ} {v : W32} (hd : DieCanon full d) : DieCanon full (d.proofWrite dn q v) := by
  unfold Die.proofWrite
  extract_lets old new d2
  have hd2 : DieCanon full d2 := die_canon hd.mem (fun f => spWf_spSet 0 _ _ _ (hd.proofs f)) hd.sched hd.slot
  clear_value d2
  exact ite_canon (die_reeval_canon hd2) hd2
theorem execProofEntryWrite_canon {d : DieId} {q : BitVec 12} {v : W32} {s : State} (hs : StateCanon full s) : OutCanon full (execProofEntryWrite d q v s) := by
  unfold execProofEntryWrite
  exact state_modDie_canon hs fun _ h => die_proofWrite_canon h
theorem die_sysHead_canon {d : Die} {dn : DieId} {v : Word} (hd : DieCanon full d) : DieCanon full (d.sysHead dn v) := by
  unfold Die.sysHead
  extract_lets d'
  have hd' : DieCanon full d' := die_setRf_canon hd
  clear_value d'
  exact hd'
theorem die_fltHead_canon {d : Die} {dn : DieId} {v : Word} (hd : DieCanon full d) : DieCanon full (d.fltHead dn v) := by
  unfold Die.fltHead
  extract_lets d'
  have hd' : DieCanon full d' := die_setRf_canon hd
  clear_value d'
  exact hd'
theorem die_traceWrite_canon {d : Die} {dn : DieId} {v : Word} (hd : DieCanon full d) : DieCanon full (d.traceWrite dn v) := by
  unfold Die.traceWrite
  extract_lets old rw d2
  have hd2 : DieCanon full d2 := die_setReg_canon hd
  clear_value d2
  exact ite_canon (trcMark_canon (die_setRf_canon hd2)) hd2
theorem execTrcbaseEnable_canon {d : DieId} {v : Word} {s : State} (hs : StateCanon full s) : OutCanon full (execTrcbaseEnable d v s) := by
  unfold execTrcbaseEnable
  exact state_modDie_canon hs fun _ h => die_traceWrite_canon h
theorem execXcat_canon {d : DieId} {pid : Byte} {cat : BitVec 3} {s : State} (hs : StateCanon full s) : OutCanon full (execXcat d pid cat s) := by
  unfold execXcat
  exact state_modDie_canon hs fun _ h => die_xcat_canon h
theorem execTickadj_canon {d : DieId} {v : Word} {s : State} (hs : StateCanon full s) : OutCanon full (execTickadj d v s) := by
  unfold execTickadj
  exact tickAdj_canon hs
theorem die_resyncWrite_canon {d : Die} {dn : DieId} {v : Word} (hd : DieCanon full d) : DieCanon full (d.resyncWrite dn v) := by
  unfold Die.resyncWrite
  extract_lets a d2 src
  have hd2 : DieCanon full d2 := die_setReg_canon hd
  clear_value d2
  have hsrc : DieCanon full src := die_setRf_canon hd2
  clear_value src
  exact ite_canon hd (ite_canon hsrc hd2)
theorem execResync_canon {d : DieId} {v : Word} {s : State} (hs : StateCanon full s) : OutCanon full (execResync d v s) := by
  unfold execResync
  exact state_modDie_canon hs fun _ h => die_resyncWrite_canon h
theorem execContactSheetDone_canon {d : DieId} {s : State} (hs : StateCanon full s) : OutCanon full (execContactSheetDone d s) := by
  unfold execContactSheetDone
  split
  · exact hs
  · refine state_modDie_canon hs fun _ h => ?_
    extract_lets y2 src
    have hy2 : DieCanon full y2 := ite_canon (die_pokes_canon h) h
    clear_value y2
    have hsrc : DieCanon full src := die_setRf_canon hy2
    clear_value src
    exact hsrc
theorem die_pschedWrite_canon {d : Die} {dn : DieId} {v : Word} (hd : DieCanon full d) : DieCanon full (d.pschedWrite dn v) := by
  unfold Die.pschedWrite
  extract_lets d2
  have hd2 : DieCanon full d2 := die_setReg_canon hd
  clear_value d2
  exact die_setRf_canon hd2
theorem die_pmWrite_canon {d : Die} {off : ℕ} {v : Word} (hd : DieCanon full d) : DieCanon full (d.pmWrite off v) := by
  unfold Die.pmWrite
  extract_lets i src
  have hsrc : SchedCanon full src := hd.sched
  clear_value src
  split
  · exact die_canon hd.mem hd.proofs hsrc hd.slot
  · exact die_setReg_canon hd
theorem regWrite_canon {s : State} {d : DieId} {off : ℕ} {v : Word} (hs : StateCanon full s) : StateCanon full (regWrite s d off v) := by
  unfold regWrite
  extract_lets on q
  have hon : ∀ (f : Die → Die), (∀ (a : Die), DieCanon full a → DieCanon full (f a)) → StateCanon full (on f) := fun _ h => state_modDie_canon hs fun _ h2 => h _ h2
  clear_value on
  refine ite_canon (tlbinvWrite_canon hs) (ite_canon (state_modSched_canon hs (fun _ h => h)) (ite_canon (foldl_canon (p := StateCanon full) (fun _ _ h => ite_canon (setBen_canon h)
      (clearBen_canon h)) hs) (ite_canon (hon _ (fun _ h => die_margWrite_canon h)) (ite_canon (tickAdj_canon hs) (ite_canon (hon _ (fun _ h => die_traceWrite_canon h)) (ite_canon (hon _
      (fun _ h => die_xcat_canon h)) (ite_canon (ite_canon (syscDone_canon hs) hs) (ite_canon (hon _ (fun _ h => die_resyncWrite_canon h)) (ite_canon (ite_canon (fltResp_canon hs) hs) (ite_canon ?_
      (ite_canon (hon _ (fun _ h => die_sysHead_canon h)) (ite_canon (hon _ (fun _ h => die_fltHead_canon h)) (ite_canon (hon _ (fun _ h => die_pschedWrite_canon h)) (ite_canon (hon _
      (fun _ h => die_pairWrite_canon h)) (ite_canon (hon _ (fun _ h => die_pmWrite_canon h)) (ite_canon (hon _ (fun a h => ?_)) ?_))))))))))))))))
  · split
    next e =>
      have k := OutCanon.next e (execPeerstRejoin_canon hs)
      exact k
    · exact hs
  · extract_lets y
    have hy : DieCanon full y := die_proofWrite_canon h
    clear_value y
    exact ite_canon (die_proofWrite_canon hy) hy
  · split
    · exact hon _ fun _ h => die_setReg_canon h
    · exact hs
theorem execRegisterWrite_canon {d : DieId} {off : ℕ} {v : Word} {s : State} (hs : StateCanon full s) : OutCanon full (execRegisterWrite d off v s) := by
  unfold execRegisterWrite
  exact ite_canon hs (regWrite_canon hs)
theorem die_freeCounts_canon {d : Die} {dn : DieId} {n : ℕ} (hd : DieCanon full d) : DieCanon full (d.freeCounts dn n) := by
  unfold Die.freeCounts
  extract_lets slot d2 more src
  have hslot : ∀ (d : Die), DieCanon full d → ∀ (k : SlotId), DieCanon full (slot d k) := fun _ h _ => ite_canon h (die_countSlot_canon (die_countSlot_canon h))
  clear_value slot
  have hd2 : DieCanon full d2 := foldl_canon (p := DieCanon full) (fun _ _ h => hslot _ h _) hd
  clear_value d2
  have hsrc : SchedCanon full src := hd2.sched
  clear_value src
  exact ite_canon hd (die_canon hd2.mem hd2.proofs hsrc hd2.slot)
theorem die_class0Wait_canon {d : Die} {dn : DieId} (hd : DieCanon full d) : DieCanon full (d.class0Wait dn) := by
  unfold Die.class0Wait
  extract_lets on since src
  have hsrc : SchedCanon full src := hd.sched
  clear_value src
  exact die_canon hd.mem hd.proofs hsrc hd.slot
theorem runTick_canon {s : State} {d : DieId} (hs : StateCanon full s) : StateCanon full (runTick s d) := by
  unfold runTick
  extract_lets s2 s3 s4
  have hs2 : StateCanon full s2 := by
    unfold s2
    refine state_modDie_canon hs fun _ h => ?_
    extract_lets y2 y3
    have hy2 : DieCanon full y2 := foldl_canon (p := DieCanon full) (fun _ _ h2 => ite_canon (die_countOwn_canon h2) h2) h
    clear_value y2
    have hy3 : DieCanon full y3 := die_class0Wait_canon (die_freeCounts_canon hy2)
    clear_value y3
    exact hy3
  clear_value s2
  have hs3 : StateCanon full s3 := hs2
  clear_value s3
  have hs4 : StateCanon full s4 := ite_canon (state_beats_canon hs3) hs3
  clear_value s4
  exact foldl_canon (p := StateCanon full) (fun _ _ h => breakTick_canon h) hs4
theorem execReferenceTick_canon {s : State} (hs : StateCanon full s) : OutCanon full (execReferenceTick s) := by
  unfold execReferenceTick
  extract_lets s2
  have hs2 : StateCanon full s2 := by
    unfold s2
    refine foldl_canon (p := StateCanon full) (fun s3 e h => state_modDie_canon h (fun _ h2 => ?_)) hs
    extract_lets y2
    have hy2 : DieCanon full y2 := die_setReg_canon h2
    clear_value y2
    exact ite_canon hy2 (die_charge_canon hy2)
  clear_value s2
  exact ite_canon hs (foldl_canon (p := StateCanon full) (fun _ _ h => ite_canon (runTick_canon h) h) hs2)
theorem execBreakpointTick_canon {d : DieId} {n : Fin 4} {s : State} (hs : StateCanon full s) : OutCanon full (execBreakpointTick d n s) := by
  unfold execBreakpointTick
  exact breakTick_canon hs
theorem bootAddress_canon {s : State} {d : DieId} (hs : StateCanon full s) : StateCanon full (bootAddress s d) := by
  unfold bootAddress
  extract_lets y
  have hy : DieCanon full y := hs.die _
  clear_value y
  exact ite_canon (state_modDie_canon hs (fun _ h => die_setRf_canon h)) (ite_canon (state_modDie_canon hs (fun _ h => die_setRf_canon h)) hs)
theorem bootFetch_canon {s : State} {d : DieId} {img : BootImg} (hs : StateCanon full s) : StateCanon full (bootFetch s d img) := by
  unfold bootFetch
  refine ite_canon (state_modDie_canon hs (fun _ h => ?_)) hs
  extract_lets src
  have hsrc : DieCanon full src := die_setRf_canon h
  clear_value src
  exact hsrc
theorem die_load_canon {d : Die} {dn : DieId} {img : BootImg} (hd : DieCanon full d) : DieCanon full (d.load dn img) := by
  unfold Die.load
  extract_lets d2 src
  have hd2 : DieCanon full d2 := foldl_canon (p := DieCanon full) (fun _ _ h => ite_canon (die_poke_canon h) h) hd
  clear_value d2
  have hsrc : DieCanon full src := die_setRf_canon hd2
  clear_value src
  exact hsrc
theorem execBootImageCheck_canon {d : DieId} {good : Bool} {image : List (ℕ × Byte)} {s : State} (hs : StateCanon full s) : OutCanon full (execBootImageCheck d good image s) := by
  unfold execBootImageCheck
  split
  · exact hs
  · refine state_modDie_canon hs fun _ h => ite_canon (die_load_canon h) ?_
    extract_lets f src y2
    have hsrc : DieCanon full src := die_setRf_canon h
    clear_value src
    have hy2 : DieCanon full y2 := hsrc
    clear_value y2
    exact ite_canon (die_setRf_canon hy2) hy2
theorem execBootRetry_canon {d : DieId} {s : State} (hs : StateCanon full s) : OutCanon full (execBootRetry d s) := by
  unfold execBootRetry
  extract_lets y
  have hy : DieCanon full y := hs.die _
  clear_value y
  exact ite_canon hs (state_modDie_canon hs (fun _ h => die_setRf_canon h))
theorem execNftPortFailover_canon {d : DieId} {pkg : BitVec 12} {die : DieId} {s : State} (hs : StateCanon full s) : OutCanon full (execNftPortFailover d pkg die s) := by
  unfold execNftPortFailover
  split
  · exact hs
  · refine state_modDie_canon hs fun _ h => ?_
    extract_lets y2 src
    have hy2 : DieCanon full y2 := die_setRf_canon h
    clear_value y2
    split
    · exact hy2
    · exact hy2
theorem execFabricPortLinkUp_canon {d : DieId} {f : Fin 3} {s : State} (hs : StateCanon full s) : OutCanon full (execFabricPortLinkUp d f s) := by
  unfold execFabricPortLinkUp
  exact state_modDie_canon hs fun _ h => die_setRf_canon h
theorem streamAcked_canon {s : State} {d : DieId} {pkg : BitVec 12} {die : DieId} (hs : StateCanon full s) : StateCanon full (streamAcked s d pkg die) := by
  unfold streamAcked
  exact state_modCoe_canon hs
theorem execNftUnreachable_canon {d : DieId} {pkg : BitVec 12} {die : DieId} {s : State} (hs : StateCanon full s) : OutCanon full (execNftUnreachable d pkg die s) := by
  unfold execNftUnreachable
  extract_lets y s2 mine
  have hy : DieCanon full y := hs.die _
  clear_value y
  have hs2 : StateCanon full s2 := by
    unfold s2
    refine state_modDie_canon hs fun _ h => ?_
    extract_lets src y3
    have hy3 : DieCanon full y3 := h
    clear_value y3
    exact die_setReg_canon hy3
  clear_value s2
  refine ite_canon hs (foldl_canon (p := StateCanon full) (fun _ _ h => ?_) hs2)
  extract_lets lost s4
  have hs4 : StateCanon full s4 := state_modAg_canon h
  clear_value s4
  exact foldl_canon (p := StateCanon full) (fun _ _ h2 => state_refused_canon h2) hs4
theorem execNftStreamRestart_canon {d : DieId} {pkg : BitVec 12} {die : DieId} {s : State} (hs : StateCanon full s) : OutCanon full (execNftStreamRestart d pkg die s) := by
  unfold execNftStreamRestart
  exact state_modCoe_canon hs
theorem execSchedulerCoreFailure_canon {d : DieId} {s : State} (hs : StateCanon full s) : OutCanon full (execSchedulerCoreFailure d s) := by
  unfold execSchedulerCoreFailure
  extract_lets y carried s2
  have hy : DieCanon full y := hs.die _
  clear_value y
  have hs2 : StateCanon full s2 := by
    unfold s2
    refine state_modDie_canon hs fun y2 h => ?_
    extract_lets y3 src
    have hy3 : DieCanon full y3 := die_setRf_canon (die_setRf_canon h)
    clear_value y3
    have hsrc : SchedCanon full src := hy3.sched
    clear_value src
    exact die_canon hy3.mem hy3.proofs hsrc hy3.slot
  clear_value s2
  exact ite_canon hs (state_put_canon (foldl_canon (p := StateCanon full) (fun _ _ h => state_modDie_canon h (fun _ h2 => die_setRf_canon h2)) hs2))
theorem finishJournal_canon {s : State} {d : DieId} {r : JRec} (hs : StateCanon full s) : StateCanon full (finishJournal s d r) := by
  unfold finishJournal
  extract_lets y pid off p s2 node
  have hy : DieCanon full y := hs.die _
  clear_value y
  have hs2 : StateCanon full s2 := ite_canon hs (ite_canon (state_modDie_canon hs (fun _ h => die_poke_canon h)) (acceptAt_canon hs))
  clear_value s2
  split
  · exact state_modDie_canon hs2 fun _ h => die_jDone_canon h
  · split
    · exact state_modDie_canon hs fun _ h => die_jDone_canon (die_release_canon h)
    · exact state_modDie_canon hs fun _ h => die_jDone_canon h
  · exact hs
theorem execAdoption_canon {d : DieId} {s : State} (hs : StateCanon full s) : OutCanon full (execAdoption d s) := by
  unfold execAdoption
  extract_lets y fails lives n1 n2 knows
  have hy : DieCanon full y := hs.die _
  clear_value y
  refine ite_canon hs ?_
  split
  · exact hs
  · extract_lets s2 s3 y2 s4 s5 s6 m s7
    have hs2 : StateCanon full s2 := state_modDie_canon hs fun _ h => die_setRf_canon h
    clear_value s2
    have hs3 : StateCanon full s3 := state_modDie_canon hs2 fun _ h => die_setRf_canon (die_setRf_canon h)
    clear_value s3
    have hy2 : DieCanon full y2 := hs3.die _
    clear_value y2
    have hs4 : StateCanon full s4 := ite_canon (foldl_canon (p := StateCanon full) (fun _ _ h => finishJournal_canon h) hs3) hs3
    clear_value s4
    have hs5 : StateCanon full s5 := by
      unfold s5
      refine ite_canon hs4 (foldl_canon (p := StateCanon full) (fun s8 _ h => ?_) hs4)
      extract_lets pid
      exact ite_canon (serveProc_canon (state_modSched_canon h (fun _ h2 => h2))) h
    clear_value s5
    have hs6 : StateCanon full s6 := by
      unfold s6
      refine foldl_canon (p := StateCanon full) (fun _ _ h => ?_) hs5
      extract_lets s9 m2
      have hs9 : StateCanon full s9 := state_modSched_canon h fun _ h2 => h2
      clear_value s9
      exact state_tellPair_canon hs9 (state_modDie_canon hs9 (fun _ h2 => die_completeNode_canon h2))
    clear_value s6
    have hs7 : StateCanon full s7 := state_tellPair_canon hs6 (state_modDie_canon hs6 (fun _ h => die_tellFailed_canon h))
    clear_value s7
    exact state_modDie_canon hs7 fun _ h => die_reeval_canon h
theorem execPairTimeout_canon {d : DieId} {s : State} (hs : StateCanon full s) : OutCanon full (execPairTimeout d s) := by
  unfold execPairTimeout
  extract_lets y
  have hy : DieCanon full y := hs.die _
  clear_value y
  split
  · exact hs
  · extract_lets f
    exact state_modDie_canon hs fun _ h => ite_canon (die_divergence_canon h) (die_divergence_canon h)
theorem execTapReset_canon {s : State} (hs : StateCanon full s) : OutCanon full (execTapReset s) := by
  unfold execTapReset
  exact foldl_canon (p := StateCanon full) (fun _ _ h => state_modTap_canon h) hs
theorem tapSelect_canon {d : DieId} {ir : Byte} {s : State} (hs : StateCanon full s) : StateCanon full (tapSelect d ir s) := by
  unfold tapSelect
  exact state_modTap_canon hs
theorem mregAccess_canon {d : DieId} {dr : BitVec 82} {s : State} (hs : StateCanon full s) : StateCanon full (mregAccess d dr s) := by
  unfold mregAccess
  extract_lets off r
  have hr : StateCanon full r.2 := regRead_canon hs
  clear_value r
  exact ite_canon hs (ite_canon (regWrite_canon hs) (state_modTap_canon hr))
theorem releaseClocks_canon {d : DieId} {s : State} (hs : StateCanon full s) : StateCanon full (releaseClocks d s) := by
  unfold releaseClocks
  refine ite_canon hs (state_modDie_canon hs (fun _ h => ?_))
  extract_lets y2
  have hy2 : DieCanon full y2 := h
  clear_value y2
  exact ite_canon (trcMark_canon hy2) hy2
theorem tapUpdate_canon {d : DieId} {s : State} (hs : StateCanon full s) : StateCanon full (tapUpdate d s) := by
  unfold tapUpdate
  extract_lets t
  split
  · exact state_modTap_canon hs
  · exact state_modTap_canon hs
  · exact mregAccess_canon hs
  · exact state_modTap_canon hs
  · exact hs
theorem execTapExtest_canon {d : DieId} {s : State} (hs : StateCanon full s) : OutCanon full (execTapExtest d s) := by
  unfold execTapExtest
  exact tapCapture_canon (tapSelect_canon hs)
theorem execTapSamplePreload_canon {d : DieId} {s : State} (hs : StateCanon full s) : OutCanon full (execTapSamplePreload d s) := by
  unfold execTapSamplePreload
  exact tapCapture_canon (tapSelect_canon hs)
theorem execTapIdcode_canon {d : DieId} {s : State} (hs : StateCanon full s) : OutCanon full (execTapIdcode d s) := by
  unfold execTapIdcode
  exact tapCapture_canon (tapSelect_canon hs)
theorem execTapMreg_canon {d : DieId} {dr : BitVec 82} {s : State} (hs : StateCanon full s) : OutCanon full (execTapMreg d dr s) := by
  unfold execTapMreg
  exact mregAccess_canon (tapCapture_canon (tapSelect_canon hs))
theorem execTapRelease_canon {d : DieId} {s : State} (hs : StateCanon full s) : OutCanon full (execTapRelease d s) := by
  unfold execTapRelease
  exact releaseClocks_canon (tapCapture_canon (tapSelect_canon hs))
theorem execTapScansel_canon {d : DieId} {sel : Byte} {s : State} (hs : StateCanon full s) : OutCanon full (execTapScansel d sel s) := by
  unfold execTapScansel
  exact state_modTap_canon (tapSelect_canon hs)
theorem execTapScan_canon {d : DieId} {s : State} (hs : StateCanon full s) : OutCanon full (execTapScan d s) := by
  unfold execTapScan
  exact tapCapture_canon (tapSelect_canon hs)
theorem execTapBypass_canon {d : DieId} {tdi : Bool} {s : State} (hs : StateCanon full s) : OutCanon full (execTapBypass d tdi s) := by
  unfold execTapBypass
  exact state_modTap_canon (tapSelect_canon hs)
theorem tapShift_canon {tdi : Bool} {s : State} (hs : StateCanon full s) : StateCanon full (tapShift tdi s) := by
  unfold tapShift
  refine foldl_canon (p := fun x => StateCanon full (Prod.snd x)) (fun _ _ h => ?_) hs
  extract_lets r
  exact state_modTap_canon h
theorem tapMove_canon {tms : Bool} {d : DieId} {s : State} (hs : StateCanon full s) : StateCanon full (tapMove tms d s) := by
  unfold tapMove
  extract_lets t s2 n s3 s4
  have hs2 : StateCanon full s2 := by
    unfold s2
    split
    · exact state_modTap_canon hs
    · exact tapCapture_canon hs
    · exact hs
  clear_value s2
  have hs3 : StateCanon full s3 := state_modTap_canon hs2
  clear_value s3
  have hs4 : StateCanon full s4 := state_modTap_canon hs3
  clear_value s4
  clear_value t n
  split
  · exact state_modTap_canon hs3
  · exact ite_canon (releaseClocks_canon hs4) hs4
  · exact tapUpdate_canon hs3
  · exact hs3
theorem tapClock_canon {tms tdi trst : Bool} {s : State} (hs : StateCanon full s) : StateCanon full (tapClock tms tdi trst s) := by
  unfold tapClock
  exact ite_canon (foldl_canon (p := StateCanon full) (fun _ _ h => state_modTap_canon h) hs) (foldl_canon (p := StateCanon full) (fun _ _ h => tapMove_canon h) (tapShift_canon hs))
theorem exec_canon {i : Instr} {s : State} (hs : StateCanon full s) : OutCanon full (exec i s) := by
  unfold exec
  split
  · exact execBlockHeader_canon hs
  · exact execSwitchPointHeader_canon hs
  · exact execRelativeExit_canon hs
  · exact execJumpExit_canon hs
  · exact execCallExit_canon hs
  · exact execReturnExit_canon hs
  · exact execNop_canon hs
  · exact execCAddi_canon hs
  · exact execCLi_canon hs
  · exact execCMv_canon hs
  · exact execCAdd_canon hs
  · exact execCSub_canon hs
  · exact execCAnd_canon hs
  · exact execCOr_canon hs
  · exact execCXor_canon hs
  · exact execAdd_canon hs
  · exact execSub_canon hs
  · exact execAnd_canon hs
  · exact execOr_canon hs
  · exact execXor_canon hs
  · exact execSll_canon hs
  · exact execSrl_canon hs
  · exact execSra_canon hs
  · exact execRor_canon hs
  · exact execMin_canon hs
  · exact execMax_canon hs
  · exact execMinu_canon hs
  · exact execMaxu_canon hs
  · exact execClz_canon hs
  · exact execCtz_canon hs
  · exact execPopc_canon hs
  · exact execSextw_canon hs
  · exact execZextw_canon hs
  · exact execMul_canon hs
  · exact execMulh_canon hs
  · exact execMulhu_canon hs
  · exact execMulhsu_canon hs
  · exact execDiv_canon hs
  · exact execDivu_canon hs
  · exact execRem_canon hs
  · exact execRemu_canon hs
  · exact execAddi_canon hs
  · exact execAndi_canon hs
  · exact execOri_canon hs
  · exact execXori_canon hs
  · exact execSlli_canon hs
  · exact execSrli_canon hs
  · exact execSrai_canon hs
  · exact execRori_canon hs
  · exact execLui_canon hs
  · exact execAddpc_canon hs
  · exact execCmp_canon hs
  · exact execCmpi_canon hs
  · exact execPand_canon hs
  · exact execPor_canon hs
  · exact execPxor_canon hs
  · exact execPandn_canon hs
  · exact execPorn_canon hs
  · exact execPnot_canon hs
  · exact execCsel_canon hs
  · exact execLdb_canon hs
  · exact execLdh_canon hs
  · exact execLdw_canon hs
  · exact execLdd_canon hs
  · exact execLdbu_canon hs
  · exact execLdhu_canon hs
  · exact execLdwu_canon hs
  · exact execStb_canon hs
  · exact execSth_canon hs
  · exact execStw_canon hs
  · exact execStd_canon hs
  · exact execAmoadd_canon hs
  · exact execAmoand_canon hs
  · exact execAmoor_canon hs
  · exact execAmoxor_canon hs
  · exact execAmomin_canon hs
  · exact execAmomax_canon hs
  · exact execAmoswap_canon hs
  · exact execAmocas_canon hs
  · exact execFenceAcq_canon hs
  · exact execFenceRel_canon hs
  · exact execFenceFull_canon hs
  · exact execEnqLde_canon hs
  · exact execEnqAre_canon hs
  · exact execEnqSte_canon hs
  · exact execEnqMxe_canon hs
  · exact execEnqCpe_canon hs
  · exact execEnqCoe_canon hs
  · exact execTsig_canon hs
  · exact execTwait_canon hs
  · exact execSemset_canon hs
  · exact execSemadd_canon hs
  · exact execSemwait_canon hs
  · exact execSemwaitSusp_canon hs
  · exact execPop_canon hs
  · exact execPopNb_canon hs
  · exact execMlease_canon hs
  · exact execMrlse_canon hs
  · exact execSplit_canon hs
  · exact execFuse_canon hs
  · exact execChain_canon hs
  · exact execUnchain_canon hs
  · exact execArv_canon hs
  · exact execWtb_canon hs
  · exact execPublq_canon hs
  · exact execHint_canon hs
  · exact execWpv_canon hs
  · exact execWpvSusp_canon hs
  · exact execSusp_canon hs
  · exact execCsrr_canon hs
  · exact execCsrw_canon hs
  · exact execSysc_canon hs
  · exact execTrap_canon hs
  · exact execEret_canon hs
  · exact execFreeh_canon hs
  · exact execTick_canon hs
  · exact execRfence_canon hs
  · exact execLdr_canon hs
  · exact execLdt_canon hs
  · exact execLdrec_canon hs
  · exact execLdx_canon hs
  · exact execLdsc_canon hs
  · exact execPcfg_canon hs
  · exact execPfx_canon hs
  · exact execLdv_canon hs
  · exact execStr_canon hs
  · exact execStt_canon hs
  · exact execStrec_canon hs
  · exact execStx_canon hs
  · exact execStsc_canon hs
  · exact execStv_canon hs
  · exact execPubl_canon hs
  · exact execAreAdd_canon hs
  · exact execAreSub_canon hs
  · exact execAreMul_canon hs
  · exact execFma_canon hs
  · exact execAreMin_canon hs
  · exact execAreMax_canon hs
  · exact execAbs_canon hs
  · exact execNeg_canon hs
  · exact execExp2_canon hs
  · exact execLog2_canon hs
  · exact execRcp_canon hs
  · exact execRsq_canon hs
  · exact execTanh_canon hs
  · exact execAreCmp_canon hs
  · exact execSel_canon hs
  · exact execRedSum_canon hs
  · exact execRedMax_canon hs
  · exact execRedMin_canon hs
  · exact execRedSsq_canon hs
  · exact execRedAmax_canon hs
  · exact execRedqSum_canon hs
  · exact execRedqMax_canon hs
  · exact execRedqMin_canon hs
  · exact execRedqSsq_canon hs
  · exact execRedqAmax_canon hs
  · exact execBcastRow_canon hs
  · exact execBcastElem_canon hs
  · exact execBcastScal_canon hs
  · exact execIota_canon hs
  · exact execTrn_canon hs
  · exact execShufPerm_canon hs
  · exact execShufRot_canon hs
  · exact execShufRev_canon hs
  · exact execCvt_canon hs
  · exact execQnt_canon hs
  · exact execDqt_canon hs
  · exact execAreAnd_canon hs
  · exact execAreOr_canon hs
  · exact execAreXor_canon hs
  · exact execNot_canon hs
  · exact execShl_canon hs
  · exact execShr_canon hs
  · exact execAreSra_canon hs
  · exact execMov_canon hs
  · exact execMldb_canon hs
  · exact execMcb_canon hs
  · exact execMsemi_canon hs
  · exact execMmul_canon hs
  · exact execMmulm_canon hs
  · exact execMzero_canon hs
  · exact execMdrain_canon hs
  · exact execCopy_canon hs
  · exact execCopy2d_canon hs
  · exact execFill_canon hs
  · exact execRwrite_canon hs
  · exact execMcast_canon hs
  · exact execKsend_canon hs
  · exact execKrecv_canon hs
  · exact execKwid_canon hs
  · exact execKadd_canon hs
  · exact execKreq_canon hs
  · exact execKrel_canon hs
  · exact execKbar_canon hs
  · exact execKabs_canon hs
  · exact execKframe_canon hs
  · exact execBlockCommit_canon hs
  · exact execRunAheadMispredict_canon hs
  · exact execBlockWaitMet_canon hs
  · exact execReadStep_canon hs
  · exact execDrainStep_canon hs
  · exact execHeldWriteApply_canon hs
  · exact execLinkForward_canon hs
  · exact execGateWriteApply_canon hs
  · exact execGateReadPerform_canon hs
  · exact execGateBeat_canon hs
  · exact execBeat_canon hs
  · exact execReply_canon hs
  · exact execPublishInvalidation_canon hs
  · exact execRequestResend_canon hs
  · exact execTicketCall_canon hs
  · exact execFabricWriteApply_canon hs
  · exact execPublishStep_canon hs
  · exact execPageWalk_canon hs
  · exact execEntryStart_canon hs
  · exact execEntryComplete_canon hs
  · exact execRowArrival_canon hs
  · exact execStoreRowRead_canon hs
  · exact execAreRowStep_canon hs
  · exact execPortRowFetch_canon hs
  · exact execMatrixPass_canon hs
  · exact execChainRowSend_canon hs
  · exact execDrainEvent_canon hs
  · exact execCopyChunk_canon hs
  · exact execSwitchReplicate_canon hs
  · exact execMcastLineArrival_canon hs
  · exact execAggregatedAck_canon hs
  · exact execMcastMemberTimeout_canon hs
  · exact execArrivalRecord_canon hs
  · exact execPopFill_canon hs
  · exact execSyscPost_canon hs
  · exact execFrameEntry_canon hs
  · exact execStepStart_canon hs
  · exact execStepComplete_canon hs
  · exact execSlipNotice_canon hs
  · exact execFrameQuery_canon hs
  · exact execFrameGrant_canon hs
  · exact execBarrierArrival_canon hs
  · exact execBarrierAbsence_canon hs
  · exact execBarrierPresence_canon hs
  · exact execBarrierTimeout_canon hs
  · exact execKickPass_canon hs
  · exact execFragmentLeaseGrant_canon hs
  · exact execPickUp_canon hs
  · exact execFragmentGiveUp_canon hs
  · exact execBlockRetire_canon hs
  · exact execSliceEnd_canon hs
  · exact execClass0Preempt_canon hs
  · exact execEngineStopAck_canon hs
  · exact execPreemptionComplete_canon hs
  · exact execSwapIn_canon hs
  · exact execBalanceControl_canon hs
  · exact execBimbWindowEnd_canon hs
  · exact execTimingReplay_canon hs
  · exact execFaultPost_canon hs
  · exact execTerminalFaultStop_canon hs
  · exact execFltrespCont_canon hs
  · exact execFltrespSave_canon hs
  · exact execFltrespKill_canon hs
  · exact execScrub_canon hs
  · exact execPinHoldTimeout_canon hs
  · exact execLinkLostNotice_canon hs
  · exact execLinkRetrainFail_canon hs
  · exact execRejoinBeat_canon hs
  · exact execNftPortFailover_canon hs
  · exact execNftUnreachable_canon hs
  · exact execSchedulerCoreFailure_canon hs
  · exact execAdoption_canon hs
  · exact execPairTimeout_canon hs
  · exact execGrantWindowEnd_canon hs
  · exact execMarginWindowEnd_canon hs
  · exact execRefreshRateChange_canon hs
  · exact execAshapeClearBen_canon hs
  · exact execAshapeSetBen_canon hs
  · exact execBandPowerOff_canon hs
  · exact execBandPowerOn_canon hs
  · exact execKickset_canon hs
  · exact execTlbinvAll_canon hs
  · exact execTlbinvAsid_canon hs
  · exact execTlbinvVpn_canon hs
  · exact execTlbinvDone_canon hs
  · exact execProofEntryWrite_canon hs
  · exact execSyscdone_canon hs
  · exact execResync_canon hs
  · exact execContactSheetDone_canon hs
  · exact execTickadj_canon hs
  · exact execXcat_canon hs
  · exact execTrcbaseEnable_canon hs
  · exact execMargRecal_canon hs
  · exact execPeerstRejoin_canon hs
  · exact execRegisterWrite_canon hs
  · exact execBreakpointTick_canon hs
  · exact execTapReset_canon hs
  · exact execTapExtest_canon hs
  · exact execTapIdcode_canon hs
  · exact execTapSamplePreload_canon hs
  · exact execTapMreg_canon hs
  · exact execTapRelease_canon hs
  · exact execTapScansel_canon hs
  · exact execTapScan_canon hs
  · exact execTapBypass_canon hs
  · exact execPackageResetRelease_canon
  · exact execBootImageCheck_canon hs
  · exact execBootRetry_canon hs
  · exact execReferenceTick_canon hs
  · exact execWriteAcknowledgement_canon hs
  · exact execDieResetRelease_canon hs
  · exact execPackageLinkTrained_canon hs
  · exact execNftStreamRestart_canon hs
  · exact execFabricPortLinkUp_canon hs
  · exact execDramRefresh_canon hs
theorem ctlWord_canon {dn : DieId} {d : Die} {w : Who} {va : ℕ} (hd : DieCanon full d) : XCanon full (ctlWord dn d w va) := by
  unfold ctlWord
  split
  next e =>
    have k := XCanon.fault e (codeHalves_canon hd)
    exact k
  next e =>
    have k := XCanon.wait e (codeHalves_canon hd)
    exact k
  next e =>
    have k := XCanon.ok e (codeHalves_canon hd)
    extract_lets h
    refine ite_canon ?_ k
    split
    next e2 =>
      have k2 := XCanon.fault e2 (codeHalves_canon k)
      exact k2
    next e2 =>
      have k2 := XCanon.wait e2 (codeHalves_canon k)
      exact k2
    next e2 =>
      have k2 := XCanon.ok e2 (codeHalves_canon k)
      exact k2
theorem coreNext_canon {s : State} {d : DieId} {k : SlotId} (hs : StateCanon full s) : TodoCanon full (coreNext s d k) := by
  unfold coreNext
  extract_lets s2 c w
  have hs2 : StateCanon full s2 := hs
  clear_value s2
  split
  · exact takeFault_canon (state_modCtl_canon hs2)
  · refine ite_canon hs2 ?_
    split
    · split
      · exact breakAct_canon hs2
      · refine ite_canon (headerFault_canon hs2) ?_
        split
        next e =>
          have k2 := XCanon.fault e (ctlWord_canon (hs2.die _))
          exact headerFault_canon (state_modDie_canon hs2 (fun _ _ => k2))
        next e =>
          have k2 := XCanon.wait e (ctlWord_canon (hs2.die _))
          exact state_modDie_canon hs2 fun _ _ => k2
        next e =>
          have k2 := XCanon.ok e (ctlWord_canon (hs2.die _))
          extract_lets s3
          have hs3 : StateCanon full s3 := state_modDie_canon hs2 fun _ _ => k2
          clear_value s3
          split
          · exact hs3
          · exact headerFault_canon hs3
    · split
      · refine ite_canon (badFault_canon hs2) ?_
        split
        next e =>
          have k2 := XCanon.fault e (ctlWord_canon (hs2.die _))
          exact blockFault_canon (state_modDie_canon hs2 (fun _ _ => k2))
        next e =>
          have k2 := XCanon.wait e (ctlWord_canon (hs2.die _))
          exact state_modDie_canon hs2 fun _ _ => k2
        next e =>
          have k2 := XCanon.ok e (ctlWord_canon (hs2.die _))
          extract_lets s3
          have hs3 : StateCanon full s3 := state_modDie_canon hs2 fun _ _ => k2
          clear_value s3
          split
          · exact hs3
          · exact badFault_canon hs3
      · extract_lets pos
        refine ite_canon (badFault_canon hs2) ?_
        split
        next e =>
          have k2 := XCanon.fault e (ctlWord_canon (hs2.die _))
          exact blockFault_canon (state_modDie_canon hs2 (fun _ _ => k2))
        next e =>
          have k2 := XCanon.wait e (ctlWord_canon (hs2.die _))
          exact state_modDie_canon hs2 fun _ _ => k2
        next e =>
          have k2 := XCanon.ok e (ctlWord_canon (hs2.die _))
          extract_lets s3
          have hs3 : StateCanon full s3 := state_modDie_canon hs2 fun _ _ => k2
          clear_value s3
          split
          · exact hs3
          · exact badFault_canon hs3
      · exact hs2
theorem engNext_canon {s : State} {c : Cur} (hs : StateCanon full s) : TodoCanon full (engNext s c) := by
  unfold engNext
  extract_lets s2
  have hs2 : StateCanon full s2 := hs
  clear_value s2
  split
  · exact hs2
  · refine ite_canon hs2 ?_
    split
    · exact hs2
    · exact hs2
theorem sysStep_canon {s : State} {d : DieId} {n : Fin 4} {f : State → State} (hs : StateCanon full s) (hf : ∀ (a : State), StateCanon full a → StateCanon full (f a)) : StateCanon full (sysStep s d n f) := by
  unfold sysStep
  exact ite_canon (hf _ (state_modDie_canon hs (fun _ h => h))) hs
theorem sysFenceStep_canon {s : State} {d : DieId} {n : Fin 4} (hs : StateCanon full s) : StateCanon full (sysFenceStep s d n) := by
  unfold sysFenceStep
  exact state_modDie_canon hs fun _ h => h
theorem regStore_canon {s : State} {d : DieId} {n : Fin 4} {off : ℕ} {data : List Byte} (hs : StateCanon full s) : StateCanon full (regStore s d n off data) := by
  unfold regStore
  exact ite_canon hs (ite_canon (regWrite_canon hs) (ite_canon (state_modDie_canon hs (fun _ h => die_proofWrite_canon h)) hs))
theorem sysStoreStep_canon {s : State} {d : DieId} {n : Fin 4} {pa : ℕ} {data : List Byte} (hs : StateCanon full s) : StateCanon full (sysStoreStep s d n pa data) := by
  unfold sysStoreStep
  extract_lets ws
  exact ite_canon (regStore_canon hs) (ite_canon hs (ite_canon (state_modAg_canon hs) (state_modAg_canon hs)))
theorem die_keepLine_canon {d : Die} {t : TlbId} {ln : ℕ} (hd : DieCanon full d) : DieCanon full (d.keepLine t ln) := by
  unfold Die.keepLine
  exact ite_canon hd hd
theorem die_dropLine_canon {d : Die} {t : TlbId} {ln : ℕ} (hd : DieCanon full d) : DieCanon full (d.dropLine t ln) := by
  unfold Die.dropLine
  exact hd
theorem tentativeStep_canon {s : State} {d : DieId} {k : SlotId} {q : Fin 6} {hdr : Word} {vas : List ℕ} (hs : StateCanon full s) : StateCanon full (tentativeStep s d k q hdr vas) := by
  unfold tentativeStep
  split
  · extract_lets r
    have hr : DieCanon full r.1 := tentFault_canon (hs.die _)
    clear_value r
    exact ite_canon hs (state_modCtl_canon (state_modDie_canon hs (fun _ _ => hr)))
  · exact hs
theorem resolve_canon {p : Pick} {s : State} (hs : StateCanon full s) : TodoCanon full (resolve p s) := by
  unfold resolve
  split
  · exact coreNext_canon hs
  · exact engNext_canon hs
  · exact engNext_canon hs
  · extract_lets y
    have hy : DieCanon full y := hs.die _
    clear_value y
    exact ite_canon hs hs
  · exact sysStep_canon hs fun _ h => sysStoreStep_canon h
  · exact sysStep_canon hs fun _ h => sysLoadStep_canon h
  · exact sysStep_canon hs fun _ h => sysFenceStep_canon h
  · exact ite_canon (state_modDie_canon hs (fun _ h => die_keepLine_canon h)) hs
  · exact ite_canon (state_modDie_canon hs (fun _ h => die_dropLine_canon h)) hs
  · exact ite_canon (bootAddress_canon hs) hs
  · exact ite_canon (bootFetch_canon hs) hs
  · exact ite_canon (storeRow_canon hs) hs
  · exact ite_canon (fabricTake_canon hs) hs
  · exact tapClock_canon hs
  · exact ite_canon (releaseTeam_canon hs) hs
  · exact ite_canon (tentativeStep_canon hs) hs
  · exact ite_canon (state_modDie_canon hs (fun _ h => die_meet_canon h)) hs
  · exact ite_canon (state_modDie_canon hs (fun _ h => die_dropCopy_canon h)) hs
  · exact ite_canon (startMeets_canon hs) hs
  · exact streamAcked_canon hs
  · exact ite_canon (saveError_canon hs) hs
theorem nextPick_canon {s : State} (hs : StateCanon full s) : StateCanon full (nextPick s).2 := by
  unfold nextPick
  split
  · exact hs
  · exact hs
theorem step_canon {s : State} (hs : StateCanon full s) : OutCanon full (step s) := by
  have h : TodoCanon full (resolve (nextPick s).1 (nextPick s).2) := resolve_canon (nextPick_canon hs)
  unfold step
  cases e : resolve (nextPick s).1 (nextPick s).2 with
  | run i t =>
    rw [e] at h
    exact exec_canon h
  | done t =>
    rw [e] at h
    exact h

/-! ## The two statements, in the terms of the predicate -/

theorem stateCanon_of_memInv {s : State} (h : MemInv s) : StateCanon False s := fun d => die_canon (h d) False.elim False.elim fun _ => False.elim
theorem memInv_of_stateCanon {full : Prop} {s : State} (h : StateCanon full s) : MemInv s := fun d => (h.die d).mem
theorem stateCanon_of_storeInv {s : State} (h : StoreInv s) : StateCanon True s := fun d =>
  die_canon (h.mem d) (fun _ => h.proofs d) (fun _ => ⟨h.acc d, h.cat d, h.mark d⟩) fun k _ => ⟨fun n => ⟨h.data d k n, h.side d k n⟩, h.bank d k, h.wts d k, h.wsc d k, h.cb d k⟩
theorem storeInv_of_stateCanon {s : State} (h : StateCanon True s) : StoreInv s := by
  have hq (d : DieId) := (h.die d).sched trivial
  have ht (d : DieId) (k : SlotId) := (h.slot d k) trivial
  exact {
    mem := memInv_of_stateCanon h
    proofs := fun d => (h.die d).proofs trivial
    acc := fun d => (hq d).1
    cat := fun d => (hq d).2.1
    mark := fun d => (hq d).2.2
    data := fun d k n => ((ht d k).1 n).1
    side := fun d k n => ((ht d k).1 n).2
    bank := fun d k => (ht d k).2.1
    wts := fun d k => (ht d k).2.2.1
    wsc := fun d k => (ht d k).2.2.2.1
    cb := fun d k => (ht d k).2.2.2.2 }

/-- Settles O60: every operation of the model keeps the canonical form, and so does every instruction that a step resolves to. -/
theorem storesStayCanonical : Obligations.StoresStayCanonical := by
  unfold Obligations.StoresStayCanonical
  exact ⟨fun _ _ h e => memInv_of_stateCanon (OutCanon.next e (step_canon (stateCanon_of_memInv h))), fun _ _ h e => storeInv_of_stateCanon (OutCanon.next e (step_canon (stateCanon_of_storeInv h)))⟩

end Sys2Proof.Proofs
end
